-- ==== Sys2Proof/Word.lean ====
section
/-! DEFINITION. The word types of the Meltia-9: a 64-bit register value or instruction word, and a byte (R5, R50). -/

namespace Sys2Proof

/-- A 64-bit value: a lane, a scalar register, an instruction word. -/
abbrev Word := BitVec 64

/-- One byte of memory. -/
abbrev Byte := BitVec 8

end Sys2Proof
end

