-- ==== Sys2Proof/Config.lean ====
section
/-! DEFINITION. The values the manual leaves open. Each is a constant without a body: nothing can be proved of its value. -/

namespace Sys2Proof.Config

/-- What a byte of memory or of an operand buffer that nothing has written reads as, by its storage key
(R174, R249; assumption 5). -/
opaque memByte : Nat → BitVec 8

/-- What a scratchpad byte reads as before its group has written it: R176 leaves it undefined. The first
argument names the group, the second the byte's storage key (assumption 5). -/
opaque scratchByte : Nat → Nat → BitVec 8

/-- Which of the two bracketing values an inexact `.f32` transcendental result takes (R123): true is the one of
larger magnitude. The arguments are the operation's number and the operand (assumption 9). -/
opaque f32Pick : Nat → BitVec 32 → Bool

/-- A byte that a killed context's matrix operation was writing (R272), by the model's free-value counter
(assumption 3). -/
opaque killedByte : Nat → BitVec 8

/-- Which way a correctly rounded or bracketed transcendental falls when the model's enclosure does not decide
(assumption 10): the arguments are the operation's number and the operand. -/
opaque undecided : Nat → Nat → Bool

/-- Whether a 256 B line written under an exclusive grant that is released by a kill merges into its home (R173, R205),
by the model's free-value counter and the line's number (assumption 3). -/
opaque killMerge : Nat → Nat → Bool

/-- Which of a 16 B granule's values a queued or running MMA reads when a store changes it meanwhile: true for the older one
(R262), by the operation's name, the clk and the granule (assumption 19). -/
opaque mmaOld : Nat → Nat → Nat → Bool

/-- Which sector leaves a full cache (R175, Table 8.4): the manual gives no replacement rule beyond the hints. The arguments
are the clk and the sector that comes (assumption 11). -/
opaque victim : Nat → Nat → Nat

/-- What the sensors read in a sweep that no event describes (R354, assumption 77): by the clk and the number of the reading. -/
opaque reading : Nat → Nat → BitVec 64

/-- %tinfo of the record of an uncorrectable error in a save frame (R288, R294), by the model's free-value counter (assumption
106). -/
opaque frameInfo : Nat → BitVec 64

/-- Which of the shortest paths a load's request, a SIGNAL's packet or a packet that is sent again takes (R337, R338): by its name
and the clk. -/
opaque pathPick : Nat → Nat → Nat

/-- The memory channel of a die that holds a page, by die and page number (R327; assumption 101). -/
opaque channelOf : Nat → Nat → Nat

/-- The version of the image of a kind in module flash, 0 saddle tree and 1 rigging (R369, R375; assumption 4). -/
opaque flashVersion : Nat → Nat

end Sys2Proof.Config
end

