-- ==== Sys2Proof/Syntax.lean ====
section
/-! DEFINITION. The instruction set: one constructor of `Instr` per row of spec/opcode_table.json. The rows are the
instruction words of Tables 3.9 and 3.10 and the events (steps of the ordering machine, engine and scheduler steps,
queue commands, firmware and link steps) that spec/95_what_each_step_holds.md lists. -/

namespace Sys2Proof

/-- Integer element types, codes T of Table 3.3. -/
inductive IType | i8 | i16 | i32 | i64 | n8 | n16 | n32 | n64
deriving DecidableEq, Repr

/-- Float element types, codes F of Table 3.3. -/
inductive FType | f32 | f16 | bf16 | f64
deriving DecidableEq, Repr

/-- Rounding modes, Table 2.3. -/
inductive Rm | rne | rz | ru | rd | sr
deriving DecidableEq, Repr

/-- Guard conditions, Table 3.4, in code order. -/
inductive Cond | al | eq | ne | cs | cc | mi | pl | vs | vc | hi | ls | ge | lt | gt | le | nv
deriving DecidableEq, Repr

/-- The issue fields of a full-form word: lane guard, uniform guard, stall count and the X field (Table 3.1). -/
structure Hd where
  lgc : BitVec 2
  lgcond : Cond
  ug : Cond
  sc : BitVec 4
  x : BitVec 3
deriving DecidableEq, Repr

/-- A V-space code (Table 3.2): 0 to 383 name v0 to v383, 384 to 511 name s0 to s127 as a uniform source. -/
abbrev VCode := BitVec 9
/-- A scalar register s0 to s255. -/
abbrev SReg := BitVec 8
/-- A G-space code (Table 7.1): 0 to 15 name g0 to g15, 16 to 23 name q0 to q7. -/
abbrev GCode := BitVec 5

/-- Widths of the paired integer operations, op7 codes 0x04 to 0x0B (Table 3.10). -/
inductive PWidth | w64 | w32 | w16 | w8
deriving DecidableEq, Repr

/-- Operations of one slot of a paired word (Table 3.10). -/
inductive PairOp
  | nop | mov
  | add (w : PWidth) | sub (w : PWidth)
  | min (signed : Bool) | max (signed : Bool)
  | and | or | xor | andn
  | fadd (f : FType) | fmul (f : FType) | fmin (f : FType) | fmax (f : FType)
deriving DecidableEq, Repr

/-- One slot of a paired word (Table 3.8): v0 to v255 only, guard on c0. -/
structure Slot where
  op : PairOp
  d : BitVec 8
  a : BitVec 8
  g : Cond
deriving DecidableEq, Repr

/-- CVT type codes Q, Table 6.7. -/
inductive CvtType | int (t : IType) | flt (f : FType)
deriving DecidableEq, Repr

/-- Reduction operations of LSCAN and LRED with their type, Table 6.9. -/
inductive RedOp
  | add (t : IType) | min (t : IType) | max (t : IType) | and (t : IType) | or (t : IType) | xor (t : IType)
  | fadd (f : FType) (rm : Rm) | fmin (f : FType) | fmax (f : FType)
deriving DecidableEq, Repr

/-- LSHF modes, R136. -/
inductive ShfMode | up | down | rot
deriving DecidableEq, Repr

/-- LVOTE modes, R139. -/
inductive VoteMode | any | all | ballot
deriving DecidableEq, Repr

/-- Full-empty modes, Table 8.5a. -/
inductive Fe | none | fe | fec
deriving DecidableEq, Repr

/-- Atomic operations, Table 8.5; codes 8 and 9 are one operation on two float types. -/
inductive AtOp | add | min | max | and | or | xor | exch | cas | fadd32 | fadd64
deriving DecidableEq, Repr

/-- Grant kinds, Table 7.2. -/
inductive Kind | x | s | a
deriving DecidableEq, Repr

/-- Fence scopes, Table 9.6. -/
inductive Scope | wave | grp | sec | die | dev | sys
deriving DecidableEq, Repr

/-- Endpoint space of the copy and hypervector instructions (R232, R275). -/
inductive Endp
  | region (g : GCode)
  | sp
  | chan (c : BitVec 4)
deriving DecidableEq, Repr

/-- Matrix formats, Table 12.2. -/
inductive MFmt | x8 | x4 | i8 | f16 | bf16 | f32
deriving DecidableEq, Repr

/-- Hypervector counter widths, R279. -/
inductive CtrW | w4 | w8 | w16
deriving DecidableEq, Repr

/-- Special registers, Table 5.3, in code order. -/
inductive Special
  | lane | wave | nwave | grp | ngrp | vdie | core | clk | kid | tcause | tpc | tinfo | tlanes | slot | spbase
deriving DecidableEq, Repr

/-- A region register: of a wave (by the wave's name) or of a group (by the group's name). -/
structure RegRef where
  grp : Bool
  owner : Nat
  code : Nat
deriving DecidableEq, Repr

/-- What a context is created with (R287, R288): its range registers, virtual-die table and flags, the capacity of
its fault ring and the bytes of its save area. -/
structure CtxSpec where
  maps : List (Word × Word × Word)
  vdies : BitVec 32
  stchk : Bool
  det : Bool
  faultDie : Nat
  faultPa : Nat
  faultCap : Nat
  saveBytes : Nat
deriving DecidableEq, Repr

/-- One end's view in a link training attempt (R335). -/
structure LinkView where
  width : Nat
  lanes : BitVec 32
  rein : BitVec 2
  half : Bool
deriving DecidableEq, Repr

/-- One end of a training attempt (R335): the view that it publishes, and the other end's view as it has read it. -/
structure LinkEnd where
  view : LinkView
  seen : LinkView
deriving DecidableEq, Repr

/-- An access that can park at a home (R327): a load of a wave, the store at the head of a wave's outbox, an atomic of a
home queue, a girth packet, a grant's write-back, a copy operation's chunk, a posted flag, the fetch of a wave's
next word, what a queue's command reads. -/
inductive AccRef
  | load (wave id : Nat)
  | store (wave seq : Nat)
  | atomic (id : Nat)
  | packet (id : Nat)
  | ret (gid : Nat)
  | chunk (op : Nat)
  | flag (id : Nat)
  | fetch (wave : Nat)
  | command (q : Nat)
  | inbound (id : Nat)
deriving DecidableEq, Repr

/-- What an uncorrectable error strikes (R199, R269, R286): of a load the sector of one byte of a lane; the saddle die, which
fails with it (R376); or a save frame of a context (R288). -/
inductive ErrRef
  | load (wave id lane at_ : Nat)
  | saddle
  | matrix (die core written : Nat)
  | search (die : Nat)
  | frame (ctx : Nat)
deriving DecidableEq, Repr

/-- An access from a fabric endpoint (R344): a load, a write with its optional flag, an atomic, a grant request, a
grant's return. Offsets are those of the source's fabric window. -/
inductive InAcc
  | load (off len : Nat)
  | write (off : Nat) (bytes : List Byte) (flag : Option Nat)
  | atomic (off : Nat) (op : AtOp) (wide : Bool) (x y : Word)
  | grantReq (off len : Nat) (kind : Kind)
  | ret (off len : Nat) (kind : Kind) (bytes : List (Nat × Byte))
deriving DecidableEq, Repr

/-- The sensor readings of one sweep (R354): per die TMAX, TAVG, PWR, VCORE, and the module's VIN, TOUT, TIN, PMOD,
PPKG. -/
structure Readings where
  dies : List (BitVec 16 × BitVec 16 × BitVec 32 × BitVec 16)
  vin : BitVec 16
  tout : BitVec 16
  tin : BitVec 16
  pmod : BitVec 32
  ppkg : BitVec 32
deriving DecidableEq, Repr

/-- A fabric endpoint's answer to a grant request (R158): granted, or refused. -/
inductive EpAnswer | granted | refused
deriving DecidableEq, Repr

/-- What a load in flight does (R183, R202, R344): one lane reads its bytes, all that have not read do and the word completes,
or its endpoint refuses it. -/
inductive LoadStep
  | lane (l : Nat)
  | all
  | refused
deriving DecidableEq, Repr

/-- The lane that a step is about; none when it is about all. -/
def LoadStep.lane? : LoadStep → Option Nat
  | .lane l => some l
  | _ => none

/-- The step of one lane, or of all. -/
def LoadStep.of : Option Nat → LoadStep
  | some l => .lane l
  | none => .all

/-- What arrives: a packet by its name, or the head of a rein queue by its destination, with the answer of the endpoint that it
reaches (R344). A die's own answer is no choice, and there it is `granted`. -/
structure Arrival where
  at_ : Nat
  ans : EpAnswer
deriving DecidableEq, Repr

/-- A privileged register without a row of its own (R8, R347, R373, R331): its writable fields. -/
inductive PrivReg
  | ptroot (die : Nat)
  | physWord (die pa : Nat)
  | queueWord (q word : Nat)
  | sensorClear (die : Nat)
  | brandw
  | swap
  | wdog
  | replay
  | minVersion (kind : Nat)
  | other (ia : Nat)
deriving DecidableEq, Repr

/-- What fails in a start-up stage (R368, R369): the saddle die, the verification of the stage's image; dies, memory channels and
ports lost, rows spared. -/
structure StageLoss where
  fatal : Bool
  refused : Bool
  dies : List Nat
  channels : List Nat
  ports : List Nat
  spared : Bool
  sparesOut : Bool
deriving DecidableEq, Repr

/-- Who asks for a write (R370): the saddle tree itself, or the rigging by a call to it. -/
inductive Who
  | saddleTree
  | rigging
deriving DecidableEq, Repr

/-- A write to a privileged register, by its requester (R370). -/
structure RegAccess where
  who : Who
  reg : PrivReg
deriving DecidableEq, Repr

/-- What the verifier finds of a firmware image's signature, by a key that the specification does not give (R369). -/
structure ImageCheck where
  sigOk : Bool
deriving DecidableEq, Repr

/-- The instructions: words first, in the table's order, then events. -/
inductive Instr
  -- class 0, Table 4.3
  | nop (h : Hd)
  | bra (h : Hd) (off : BitVec 27)
  | brc (h : Hd) (d : VCode) (off : BitVec 27)
  | brx (h : Hd) (a : VCode)
  | call (h : Hd) (d : VCode) (off : BitVec 27)
  | callx (h : Hd) (d a : VCode)
  | ret (h : Hd) (a : VCode)
  | loop (h : Hd) (a : SReg) (off : BitVec 18)
  | endl (h : Hd)
  | lbrk (h : Hd)
  | spawn (h : Hd) (d a : VCode) (b : SReg)
  | endFibre (h : Hd)
  | yield (h : Hd)
  | sleep (h : Hd) (n : BitVec 18)
  | fbar (h : Hd) (a : SReg)
  | icinv (h : Hd)
  -- class 1, Tables 5.4 to 5.6
  | mov (h : Hd) (d a : VCode)
  | movScalar (h : Hd) (d a : SReg)
  | movFromSf (h : Hd) (d : SReg)
  | movToSf (h : Hd) (a : SReg)
  | movFromCc (h : Hd) (d : VCode)
  | movToCc (h : Hd) (a : VCode)
  | movi (h : Hd) (d : VCode) (imm : BitVec 18)
  | moviScalar (h : Hd) (d : SReg) (imm : BitVec 18)
  | movh (h : Hd) (d : VCode) (k : BitVec 2) (imm : BitVec 18)
  | movhScalar (h : Hd) (d : SReg) (k : BitVec 2) (imm : BitVec 18)
  | add (h : Hd) (d a b : VCode) (t : IType)
  | addScalar (h : Hd) (d a b : SReg) (t : IType)
  | addImm (h : Hd) (d a : VCode) (t : IType) (imm : BitVec 15)
  | addImmScalar (h : Hd) (d a : SReg) (t : IType) (imm : BitVec 15)
  | addc (h : Hd) (d a b : VCode) (n : BitVec 2) (t : IType)
  | addcScalar (h : Hd) (d a b : SReg) (t : IType)
  | sub (h : Hd) (d a b : VCode) (t : IType)
  | subScalar (h : Hd) (d a b : SReg) (t : IType)
  | subb (h : Hd) (d a b : VCode) (n : BitVec 2) (t : IType)
  | subbScalar (h : Hd) (d a b : SReg) (t : IType)
  | mul (h : Hd) (d a b : VCode) (t : IType)
  | mulScalar (h : Hd) (d a b : SReg) (t : IType)
  | mulh (h : Hd) (d a b : VCode) (t : IType)
  | mulhScalar (h : Hd) (d a b : SReg) (t : IType)
  | madI32 (h : Hd) (d a b c : VCode)
  | madI32Scalar (h : Hd) (d a b c : SReg)
  | madN32 (h : Hd) (d a b c : VCode)
  | madN32Scalar (h : Hd) (d a b c : SReg)
  | madI64 (h : Hd) (d a b c : VCode)
  | madI64Scalar (h : Hd) (d a b c : SReg)
  | madN64 (h : Hd) (d a b c : VCode)
  | madN64Scalar (h : Hd) (d a b c : SReg)
  | div (h : Hd) (d a b : VCode) (t : IType)
  | divScalar (h : Hd) (d a b : SReg) (t : IType)
  | rem (h : Hd) (d a b : VCode) (t : IType)
  | remScalar (h : Hd) (d a b : SReg) (t : IType)
  | min (h : Hd) (d a b : VCode) (t : IType)
  | minScalar (h : Hd) (d a b : SReg) (t : IType)
  | max (h : Hd) (d a b : VCode) (t : IType)
  | maxScalar (h : Hd) (d a b : SReg) (t : IType)
  | abs (h : Hd) (d a : VCode) (t : IType)
  | absScalar (h : Hd) (d a : SReg) (t : IType)
  | neg (h : Hd) (d a : VCode) (t : IType)
  | negScalar (h : Hd) (d a : SReg) (t : IType)
  | and (h : Hd) (d a b : VCode) (t : IType)
  | andScalar (h : Hd) (d a b : SReg) (t : IType)
  | andImm (h : Hd) (d a : VCode) (t : IType) (imm : BitVec 15)
  | andImmScalar (h : Hd) (d a : SReg) (t : IType) (imm : BitVec 15)
  | or (h : Hd) (d a b : VCode) (t : IType)
  | orScalar (h : Hd) (d a b : SReg) (t : IType)
  | orImm (h : Hd) (d a : VCode) (t : IType) (imm : BitVec 15)
  | orImmScalar (h : Hd) (d a : SReg) (t : IType) (imm : BitVec 15)
  | xor (h : Hd) (d a b : VCode) (t : IType)
  | xorScalar (h : Hd) (d a b : SReg) (t : IType)
  | xorImm (h : Hd) (d a : VCode) (t : IType) (imm : BitVec 15)
  | xorImmScalar (h : Hd) (d a : SReg) (t : IType) (imm : BitVec 15)
  | andn (h : Hd) (d a b : VCode) (t : IType)
  | andnScalar (h : Hd) (d a b : SReg) (t : IType)
  | not (h : Hd) (d a : VCode) (t : IType)
  | notScalar (h : Hd) (d a : SReg) (t : IType)
  | tlog (h : Hd) (d a b : VCode) (tt : BitVec 8)
  | tlogScalar (h : Hd) (d a b : SReg) (tt : BitVec 8)
  | shl (h : Hd) (d a b : VCode) (t : IType)
  | shlScalar (h : Hd) (d a b : SReg) (t : IType)
  | shlImm (h : Hd) (d a : VCode) (t : IType) (imm : BitVec 15)
  | shlImmScalar (h : Hd) (d a : SReg) (t : IType) (imm : BitVec 15)
  | shr (h : Hd) (d a b : VCode) (t : IType)
  | shrScalar (h : Hd) (d a b : SReg) (t : IType)
  | shrImm (h : Hd) (d a : VCode) (t : IType) (imm : BitVec 15)
  | shrImmScalar (h : Hd) (d a : SReg) (t : IType) (imm : BitVec 15)
  | sar (h : Hd) (d a b : VCode) (t : IType)
  | sarScalar (h : Hd) (d a b : SReg) (t : IType)
  | sarImm (h : Hd) (d a : VCode) (t : IType) (imm : BitVec 15)
  | sarImmScalar (h : Hd) (d a : SReg) (t : IType) (imm : BitVec 15)
  | fshl (h : Hd) (d a b c : VCode)
  | fshlScalar (h : Hd) (d a b c : SReg)
  | fshr (h : Hd) (d a b c : VCode)
  | fshrScalar (h : Hd) (d a b c : SReg)
  | rot (h : Hd) (d a b : VCode) (t : IType)
  | rotScalar (h : Hd) (d a b : SReg) (t : IType)
  | rotImm (h : Hd) (d a : VCode) (t : IType) (imm : BitVec 15)
  | rotImmScalar (h : Hd) (d a : SReg) (t : IType) (imm : BitVec 15)
  | bfx (h : Hd) (d a b : VCode) (t : IType)
  | bfxScalar (h : Hd) (d a b : SReg) (t : IType)
  | bfi (h : Hd) (d a b : VCode) (t : IType)
  | bfiScalar (h : Hd) (d a b : SReg) (t : IType)
  | popc (h : Hd) (d a : VCode) (t : IType)
  | popcScalar (h : Hd) (d a : SReg) (t : IType)
  | clz (h : Hd) (d a : VCode) (t : IType)
  | clzScalar (h : Hd) (d a : SReg) (t : IType)
  | ctz (h : Hd) (d a : VCode) (t : IType)
  | ctzScalar (h : Hd) (d a : SReg) (t : IType)
  | brev (h : Hd) (d a : VCode) (t : IType)
  | brevScalar (h : Hd) (d a : SReg) (t : IType)
  | bperm (h : Hd) (d a b c : VCode)
  | bpermScalar (h : Hd) (d a b c : SReg)
  | cmp (h : Hd) (a b : VCode) (t : IType)
  | cmpScalar (h : Hd) (a b : SReg) (t : IType)
  | cmpImm (h : Hd) (a : VCode) (t : IType) (imm : BitVec 15)
  | cmpImmScalar (h : Hd) (a : SReg) (t : IType) (imm : BitVec 15)
  | tst (h : Hd) (a b : VCode) (t : IType)
  | tstScalar (h : Hd) (a b : SReg) (t : IType)
  | sel (h : Hd) (d a b : VCode) (n : BitVec 2) (c : Cond)
  | selScalar (h : Hd) (d a b : SReg) (c : Cond)
  | lea (h : Hd) (d a b : VCode) (sh : BitVec 6)
  | leaScalar (h : Hd) (d a b : SReg) (sh : BitVec 6)
  -- paired words, Table 3.10: the constructor names the operation of slot X
  | pairNop (sc : BitVec 3) (y : Slot)
  | pairMov (sc : BitVec 3) (d a : BitVec 8) (g : Cond) (y : Slot)
  | pairAdd (sc : BitVec 3) (w : PWidth) (d a : BitVec 8) (g : Cond) (y : Slot)
  | pairSub (sc : BitVec 3) (w : PWidth) (d a : BitVec 8) (g : Cond) (y : Slot)
  | pairMin (sc : BitVec 3) (signed : Bool) (d a : BitVec 8) (g : Cond) (y : Slot)
  | pairMax (sc : BitVec 3) (signed : Bool) (d a : BitVec 8) (g : Cond) (y : Slot)
  | pairAnd (sc : BitVec 3) (d a : BitVec 8) (g : Cond) (y : Slot)
  | pairOr (sc : BitVec 3) (d a : BitVec 8) (g : Cond) (y : Slot)
  | pairXor (sc : BitVec 3) (d a : BitVec 8) (g : Cond) (y : Slot)
  | pairAndn (sc : BitVec 3) (d a : BitVec 8) (g : Cond) (y : Slot)
  | pairFadd (sc : BitVec 3) (f : FType) (d a : BitVec 8) (g : Cond) (y : Slot)
  | pairFmul (sc : BitVec 3) (f : FType) (d a : BitVec 8) (g : Cond) (y : Slot)
  | pairFmin (sc : BitVec 3) (f : FType) (d a : BitVec 8) (g : Cond) (y : Slot)
  | pairFmax (sc : BitVec 3) (f : FType) (d a : BitVec 8) (g : Cond) (y : Slot)
  -- class 2, Table 6.1
  | fadd (h : Hd) (d a b : VCode) (f : FType) (rm : Rm)
  | fsub (h : Hd) (d a b : VCode) (f : FType) (rm : Rm)
  | fmul (h : Hd) (d a b : VCode) (f : FType) (rm : Rm)
  | fmin (h : Hd) (d a b : VCode) (f : FType)
  | fmax (h : Hd) (d a b : VCode) (f : FType)
  | fabs (h : Hd) (d a : VCode) (f : FType)
  | fneg (h : Hd) (d a : VCode) (f : FType)
  | fcmp (h : Hd) (a b : VCode) (f : FType)
  | fclass (h : Hd) (d a : VCode) (f : FType)
  | frcp (h : Hd) (d a : VCode) (f : FType) (rm : Rm)
  | fsqrt (h : Hd) (d a : VCode) (f : FType) (rm : Rm)
  | frsq (h : Hd) (d a : VCode) (f : FType)
  | fexp2 (h : Hd) (d a : VCode) (f : FType)
  | flog2 (h : Hd) (d a : VCode) (f : FType)
  | fsin (h : Hd) (d a : VCode) (f : FType)
  | fcos (h : Hd) (d a : VCode) (f : FType)
  | ftanh (h : Hd) (d a : VCode) (f : FType)
  | fscale (h : Hd) (d a b : VCode) (f : FType) (rm : Rm)
  | frint (h : Hd) (d a : VCode) (f : FType) (rm : Rm)
  | ffma (h : Hd) (d a b c : VCode) (f : FType) (rm : Rm)
  | fdot2 (h : Hd) (d a b c : VCode) (bf : Bool) (rm : Rm)
  | act (h : Hd) (d a : VCode) (f : FType) (rm : Rm)
  | actld (h : Hd) (a : VCode) (b : SReg)
  | actswap (h : Hd)
  -- class 3, Table 6.6
  | cvt (h : Hd) (d a : VCode) (dst src : CvtType) (p : BitVec 2) (rm : Rm)
  | qnt (h : Hd) (d a : VCode) (x4 : Bool) (f : FType) (l : BitVec 2) (dd : BitVec 4) (rm : Rm)
  | dqnt (h : Hd) (d a : VCode) (x4 : Bool) (f : FType) (l : BitVec 2) (rm : Rm)
  | pack (h : Hd) (d a b : VCode) (t : IType)
  | unpk (h : Hd) (d a : VCode) (p : BitVec 1) (t : IType)
  | lget (h : Hd) (d a b : VCode) (t : IType)
  | lput (h : Hd) (d a b : VCode) (t : IType)
  | lshf (h : Hd) (d a b : VCode) (m : ShfMode) (n : BitVec 5)
  | lbcst (h : Hd) (d a : VCode) (n : BitVec 5)
  | lxor (h : Hd) (d a : VCode) (n : BitVec 5)
  | lscan (h : Hd) (d a : VCode) (op : RedOp)
  | lred (h : Hd) (d a : VCode) (op : RedOp)
  | lvote (h : Hd) (d a : VCode) (m : VoteMode)
  | rng (h : Hd) (d : VCode)
  | rngset (h : Hd) (a b : SReg)
  -- class 4, Table 8.3
  | ld (h : Hd) (d : VCode) (g : GCode) (b : VCode) (t : IType) (fe : Fe) (imm : BitVec 4)
  | st (h : Hd) (d : VCode) (g : GCode) (b : VCode) (t : IType) (fe : Fe) (imm : BitVec 4)
  | lds (h : Hd) (d b : VCode) (t : IType) (fe : Fe) (imm : BitVec 4)
  | sts (h : Hd) (d b : VCode) (t : IType) (fe : Fe) (imm : BitVec 4)
  | ldp (h : Hd) (d : VCode) (g : GCode) (b : VCode) (fe : Fe) (imm : BitVec 4)
  | stp (h : Hd) (d : VCode) (g : GCode) (b : VCode) (fe : Fe) (imm : BitVec 4)
  | atom (h : Hd) (d : VCode) (g : GCode) (b : VCode) (op : AtOp) (t : IType)
  | atoms (h : Hd) (d b : VCode) (op : AtOp) (t : IType)
  | rst (h : Hd) (g : GCode) (a b : VCode) (c : SReg)
  | ratom (h : Hd) (d : VCode) (g : GCode) (b : VCode) (op : AtOp) (t : IType)
  | pref (h : Hd) (g : GCode) (b : VCode) (t : IType) (imm : BitVec 4)
  | stage (h : Hd) (g : GCode) (b : SReg) (fill : Bool)
  | unstage (h : Hd) (g : GCode)
  -- class 5, Tables 7.5 and 9.7
  | brw (h : Hd) (d : GCode) (a b : SReg) (tryIt : Bool) (k : Kind)
  | rbrw (h : Hd) (d a : GCode) (b : SReg) (k : Kind)
  | split (h : Hd) (d a : GCode) (toRegs : Bool) (k : BitVec 6)
  | join (h : Hd) (a : GCode)
  | rtn (h : Hd) (a : GCode)
  | rgq (h : Hd) (d : SReg) (a : GCode)
  | rgmv (h : Hd) (d a : GCode) (b : SReg)
  | fence (h : Hd) (sc : Scope)
  | stmpw (h : Hd)
  | stmpp (h : Hd)
  | cseal (h : Hd) (d : SReg)
  | cwait (h : Hd) (a : SReg)
  -- class 6, Tables 10.4, 11.2 and 12.1
  | binit (h : Hd) (a : SReg) (name : BitVec 11)
  | barr (h : Hd) (d : SReg) (wait : Bool) (name : BitVec 11)
  | bexp (h : Hd) (a : SReg) (name : BitVec 11)
  | bwait (h : Hd) (a : SReg) (name : BitVec 11)
  | btest (h : Hd) (d a : SReg) (name : BitVec 11)
  | chinit (h : Hd) (d : BitVec 4) (a : SReg)
  | chpush (h : Hd) (a : VCode) (b : SReg)
  | chpop (h : Hd) (d : VCode) (a : BitVec 4)
  | chstat (h : Hd) (d : SReg) (a : BitVec 4)
  | copy (h : Hd) (d a : Endp) (b c : SReg)
  | copy2 (h : Hd) (d a : Endp) (b c : SReg)
  | gath (h : Hd) (d a : Endp) (b c : SReg)
  | scat (h : Hd) (d a : Endp) (b c : SReg)
  | route (h : Hd) (d a b c : SReg)
  | cvinit (h : Hd) (d : BitVec 4) (a : SReg)
  | mma (h : Hd) (clr : Bool) (base : BitVec 6) (ob : BitVec 3) (ld : BitVec 2) (cv : BitVec 4) (b : SReg)
      (la lb : BitVec 2) (fmt : MFmt)
  | mwait (h : Hd)
  | lace (h : Hd) (d : BitVec 2) (a : SReg)
  | obres (h : Hd) (d : BitVec 3) (a b : SReg)
  | obld (h : Hd) (d : BitVec 3) (a b : SReg)
  | obrel (h : Hd) (d : BitVec 3)
  | mdrain (h : Hd) (base : BitVec 6) (a b : SReg) (act res : Bool) (rm : Rm) (f : FType)
  -- class 7, Tables 13.1, 14.6 and 20.6
  | hbind (h : Hd) (d a b : BitVec 4)
  | hperm (h : Hd) (d a : BitVec 4) (b : SReg)
  | hbund (h : Hd) (d : BitVec 1) (a : BitVec 4)
  | hthr (h : Hd) (d : BitVec 4) (a : BitVec 1)
  | hclr (h : Hd) (d : BitVec 1)
  | hld (h : Hd) (d : BitVec 4) (a : Endp) (b : SReg)
  | hst (h : Hd) (d : BitVec 4) (a : Endp) (b : SReg)
  | hset (h : Hd) (d : BitVec 4) (a : SReg)
  | hdist (h : Hd) (d : SReg) (a b : BitVec 4)
  | hpop (h : Hd) (d : SReg) (a : BitVec 4)
  | htie (h : Hd) (a : BitVec 4)
  | hcw (h : Hd) (w : CtrW)
  | hsrch (h : Hd) (d : SReg) (a : BitVec 4) (b : SReg)
  | hsrch2 (h : Hd) (d : SReg) (a : BitVec 4) (b : SReg)
  | trap (h : Hd) (imm : BitVec 18)
  | tret (h : Hd) (skip : Bool)
  | mfs (h : Hd) (d : BitVec 9) (a : Special) (scalar : Bool)
  | mts (h : Hd) (d : Special) (a : SReg)
  | dist (h : Hd) (d a b : SReg)
  | halt (h : Hd) (a : SReg)
  | slotq (h : Hd) (d : SReg)
  | smpcfg (h : Hd) (a : SReg)
  | smpon (h : Hd) (a : SReg)
  | smpoff (h : Hd) (d : SReg)
  -- events: waves, loads, bins, frames
  | deferredFaultTaken (w : Nat)
  | variableLatencyWrite (w id : Nat)
  | loadWriteback (w id : Nat) (what : LoadStep)
  | missEntriesTaken (w : Nat)
  | acknowledgementReceived (id : Nat)
  | fullEmptyProceed (w : Nat)
  | turnExpiry (w : Nat)
  | sleepElapses (w : Nat)
  | binTimerExpiry (bin : Nat)
  | waitingBinLaunch (bin : Nat)
  | waveSlotRelease (w : Nat)
  | swapOut (w : Nat)
  | waveRestore (w : Nat)
  -- events: the ordering machine, Table 9.4
  | drain (w path : Nat)
  | homeAtomic (home : Nat) (ans : EpAnswer)
  | grant (rid : Nat) (ans : EpAnswer)
  | grantRequestFailed (rid : Nat) (ans : EpAnswer)
  | derive (gid : Nat)
  | returnGrant (gid path : Nat)
  | returnAcknowledged (gid : Nat)
  | residueWriteback (die idx : Nat)
  | copyChunk (op path : Nat)
  | arrive (w : Nat)
  | girthDelivery (p : Arrival)
  | flush (src dst : Nat)
  | reinDelivery (src : Nat) (m : Arrival)
  | flag (id : Nat)
  | stampPass (kernel : Nat)
  | completion (kernel : Nat)
  | killRelease (ctx : Nat) (merged : List (Nat × Nat))
  | barrierRelease (group name : Nat)
  -- events: engines
  | copyStart (die core : Nat)
  | copyFire (op : Nat)
  | segmentStart (op : Nat)
  | chpushAccept (w ch : Nat)
  | chpopClaim (w : Nat)
  | stagedWritebackDone (gid : Nat)
  | uncorrectableError (e : ErrRef) (tier : Nat)
  | correctableError (die : Nat)
  | actldComplete (die core : Nat)
  | matrixEntryStart (die core : Nat)
  | obldComplete (die core : Nat)
  | mmaComplete (die core : Nat)
  | mdrainComplete (die core : Nat)
  | unitOpStart (die core : Nat)
  | unitOpComplete (die core : Nat)
  | geodeSearchStart (die : Nat)
  | geodeSearchComplete (die : Nat)
  -- events: groups and pages
  | placement
  | groupDrainComplete (group : Nat)
  | park (ref : AccRef) (ia : Nat)
  | bounceResend (ref : AccRef) (ia : Nat)
  | replay (q : Nat)
  | jxreplay (mask : BitVec 8)
  | xinv (die : Nat) (w : Word)
  | shootDownDone (die : Nat)
  | gmibWrite (die : Nat) (v : BitVec 6)
  | rangeRegisterSet (ctx n : Nat) (w0 w1 w2 : Word)
  | fabricTableWrite (e : Nat) (v : Word)
  | inboundWindowWrite (w : Nat) (w0 w1 w2 w3 : Word)
  | registerWrite (r : RegAccess) (v : Word)
  -- events: queues
  | launch (q : Nat)
  | waitq (q : Nat)
  | mark (q : Nat)
  | signal (q : Nat)
  | slatew (q : Nat)
  | slatewComplete (q : Nat)
  | geodew (q : Nat)
  | geodewComplete (q : Nat)
  | fenceq (q : Nat)
  | dispatch
  | queueReset (q : Nat)
  -- events: contexts
  | contextCreate (ctx : Nat) (spec : CtxSpec)
  | contextPreempt (ctx : Nat)
  | contextResume (ctx : Nat)
  | contextKill (ctx : Nat)
  | reclaimWalk (ctx : Nat)
  | walkDone (ctx : Nat)
  | dieRetirement (die : Nat)
  -- events: links and the fabric
  | linkTrain (n : Nat)
  | linkFence (n : Nat)
  | linkUnfence (n : Nat)
  | linkRetire (n : Nat)
  | trainingAttempt (n : Nat) (near far : LinkEnd)
  | linkFault (n : Nat)
  | flitReplay (n : Nat)
  | dieReset (die : Nat) (force : Bool)
  | drainExpiry (die : Nat)
  | inboundAccess (ep win : Nat) (port : Nat) (acc : InAcc)
  | packetResend (id : Nat)
  | selectiveAck (ep win : Nat) (bitmap : Word)
  | deliveryContextClose (ep : Nat)
  | packetTimeout (id : Nat)
  -- events: slots, sensors, sampler, recovery, start-up
  | slotBegin
  | slotEnd
  | sensorSweep (r : Readings)
  | sample (die core : Nat)
  | watchdogW0 (w : Nat)
  | watchdogW1 (ctx : Nat)
  | watchdogW2 (ctx : Nat)
  | watchdogW3
  | watchdogW4
  | jxwdogW1 (ctx : Nat)
  | jxwdogW2 (die : Nat)
  | jxwdogW2Forced (die : Nat)
  | jxwdogW3
  | jxwdogW4
  | riggingSwap (img : ImageCheck)
  | swapPause
  | powerGood
  | stageComplete (loss : StageLoss)
  | instructionCacheFill (w : Nat)
  | tagSweepDone (die sector tag : Nat)
  | dieDrainDone (die : Nat)
  | unstageWriteDone (gid : Nat)
deriving DecidableEq, Repr

end Sys2Proof
end

