-- ==== Sys2Proof/WellFormed.lean ====
section
/-! DEFINITION. Which terms of `Instr` are well formed: an instruction word whose fields lie in the operand spaces
the manual gives them (R52 to R60, R66 to R70 and the field moulds of each class), or an event about units the
machine has. -/

namespace Sys2Proof

/-- Width in bits of an integer sub-element (R106). -/
def IType.bits : IType → Nat
  | .i8 | .n8 => 8
  | .i16 | .n16 => 16
  | .i32 | .n32 => 32
  | .i64 | .n64 => 64

/-- Width in bits of a float sub-element (R119). -/
def FType.bits : FType → Nat
  | .f32 => 32
  | .f16 | .bf16 => 16
  | .f64 => 64

/-- Width in bits of a CVT type (Table 6.7). -/
def CvtType.bits : CvtType → Nat
  | .int t => t.bits
  | .flt f => f.bits

/-- Which values of field X an instruction accepts (Table 3.5): none, a flag write to c0 to c3 or none, such a
write, a flag write to sf or none, such a write, a cache hint. -/
inductive XRule | zero | flags | needFlag | sf | needSf | hint
deriving DecidableEq, Repr

/-- The values of X a rule accepts. -/
def XRule.ok (r : XRule) (x : BitVec 3) : Bool :=
  match r with
  | .zero => x == 0
  | .flags => x == 0 || decide (4 ≤ x.toNat)
  | .needFlag => decide (4 ≤ x.toNat)
  | .sf => x == 0 || x == 4
  | .needSf => x == 4
  | .hint => decide (x.toNat ≤ 4)

/-- The issue fields are legal: a word without per-lane effect has lgc = 0 and lgcond = 0 (R59), and X is one of the
values the word accepts (R60). -/
def Hd.ok (h : Hd) (lanes : Bool) (r : XRule) : Bool :=
  (lanes || (h.lgc == 0 && h.lgcond == .al)) && r.ok h.x

/-- CVT's part p is out of range (R129). -/
def cvtPartBad (dst src : CvtType) (p : BitVec 2) : Bool :=
  decide (max dst.bits src.bits / min dst.bits src.bits ≤ p.toNat)

/-- CVT's rounding code 4 is legal only for destinations .f16 and .bf16 (R129). -/
def cvtRmBad (dst : CvtType) (rm : Rm) : Bool :=
  rm == .sr && dst != .flt .f16 && dst != .flt .bf16

/-- A T that an atomic operation does not take (R186, Table 8.5). -/
def atTypeBad (op : AtOp) (t : IType) : Bool :=
  match op with
  | .fadd32 => t != .n32
  | .fadd64 => t != .n64
  | _ => decide (t.bits < 32)

/-- SPLIT's destination does not fit its delivery: `.w` needs a g code, `.r` needs k codes of one scope (R167). -/
def splitBad (toRegs : Bool) (d : GCode) (k : BitVec 6) : Bool :=
  if toRegs then
    if d.toNat < 16 then decide (16 < d.toNat + k.toNat) else decide (24 < d.toNat + k.toNat)
  else decide (16 ≤ d.toNat)

/-- The L codes must be 0 for formats other than DXB (R252). -/
def mmaLenBad (fmt : MFmt) (la lb : BitVec 2) : Bool :=
  fmt != .x8 && fmt != .x4 && (la != 0 || lb != 0)

/-- MFS names a V destination, or an S destination in its scalar form (Table 14.6). -/
def mfsDestBad (scalar : Bool) (d : BitVec 9) : Bool :=
  if scalar then decide (256 ≤ d.toNat) else decide (384 ≤ d.toNat)

/-- The special registers MTS writes (Table 14.6). -/
def Special.writable : Special → Bool
  | .tcause | .tpc | .tinfo | .tlanes => true
  | _ => false

/-- An endpoint code exists: region registers 0 to 23, `sp`, and channels where the instruction takes them
(R232, R275). -/
def Endp.ok (e : Endp) (chans : Bool) : Bool :=
  match e with
  | .region g => decide (g.toNat < 24)
  | .sp => true
  | .chan _ => chans

/-- LSCAN and LRED take rounding codes 0 to 3 with FADD (R138). -/
def RedOp.ok : RedOp → Bool
  | .fadd _ rm => rm != .sr
  | _ => true

/-- A NOP slot has d, a and g equal to zero (R67). -/
def Slot.ok (s : Slot) : Bool :=
  s.op != .nop || (s.d == 0 && s.a == 0 && s.g == .al)

/-- The bank mask of one slot: bit n for a register in bank n; a NOP slot takes no part (R67). -/
def Slot.banks (s : Slot) : BitVec 4 :=
  if s.op == .nop then 0 else (1#4 <<< (s.d.toNat % 4)) ||| (1#4 <<< (s.a.toNat % 4))

/-- The banks of the two slots are disjoint (R67). -/
def banksDisjoint (x y : Slot) : Bool := x.banks &&& y.banks == 0

/-- Slot X, the stall count and slot Y of a paired word. -/
def Instr.paired? : Instr → Option (Slot × BitVec 3 × Slot)
  | .pairNop sc y => some (⟨.nop, 0, 0, .al⟩, sc, y)
  | .pairMov sc d a g y => some (⟨.mov, d, a, g⟩, sc, y)
  | .pairAdd sc w d a g y => some (⟨.add w, d, a, g⟩, sc, y)
  | .pairSub sc w d a g y => some (⟨.sub w, d, a, g⟩, sc, y)
  | .pairMin sc sg d a g y => some (⟨.min sg, d, a, g⟩, sc, y)
  | .pairMax sc sg d a g y => some (⟨.max sg, d, a, g⟩, sc, y)
  | .pairAnd sc d a g y => some (⟨.and, d, a, g⟩, sc, y)
  | .pairOr sc d a g y => some (⟨.or, d, a, g⟩, sc, y)
  | .pairXor sc d a g y => some (⟨.xor, d, a, g⟩, sc, y)
  | .pairAndn sc d a g y => some (⟨.andn, d, a, g⟩, sc, y)
  | .pairFadd sc f d a g y => some (⟨.fadd f, d, a, g⟩, sc, y)
  | .pairFmul sc f d a g y => some (⟨.fmul f, d, a, g⟩, sc, y)
  | .pairFmin sc f d a g y => some (⟨.fmin f, d, a, g⟩, sc, y)
  | .pairFmax sc f d a g y => some (⟨.fmax f, d, a, g⟩, sc, y)
  | _ => none

/-- Both slots are legal and their banks are disjoint (R66, R67). -/
def pairOk (p : Option (Slot × BitVec 3 × Slot)) : Bool :=
  match p with
  | some (x, _, y) => x.ok && y.ok && banksDisjoint x y
  | none => false

/-- A die number of the device (R15). -/
def dieOk (d : Nat) : Bool := decide (d < 8)
/-- A core of the device (R18). -/
def coreOk (d c : Nat) : Bool := decide (d < 8) && decide (c < 40)
/-- A link of the device (R332). -/
def linkOk (n : Nat) : Bool :=
  decide (n < 10) || (decide (16 ≤ n) && decide (n < 24)) || (decide (32 ≤ n) && decide (n < 48))

/-- The instruction words (Tables 3.9 and 3.10), as opposed to the events of spec/95_what_each_step_holds.md. -/
def Instr.isWord (i : Instr) : Bool :=
  match i.paired? with
  | some _ => true
  | none =>
    match i with
    | .nop _ | .bra _ _ | .brc _ _ _ | .brx _ _ | .call _ _ _ | .callx _ _ _ | .ret _ _ | .loop _ _ _ | .endl _
    | .lbrk _ | .spawn _ _ _ _ | .endFibre _ | .yield _ | .sleep _ _ | .fbar _ _ | .icinv _ | .mov _ _ _
    | .movFromCc _ _ | .movToCc _ _ | .movScalar _ _ _ | .movFromSf _ _ | .movToSf _ _ | .movi _ _ _
    | .moviScalar _ _ _ | .movh _ _ _ _ | .movhScalar _ _ _ _ | .add _ _ _ _ _ | .addScalar _ _ _ _ _
    | .addImm _ _ _ _ _ | .addImmScalar _ _ _ _ _ | .addc _ _ _ _ _ _ | .addcScalar _ _ _ _ _ | .sub _ _ _ _ _
    | .subScalar _ _ _ _ _ | .subb _ _ _ _ _ _ | .subbScalar _ _ _ _ _ | .mul _ _ _ _ _ | .mulScalar _ _ _ _ _
    | .mulh _ _ _ _ _ | .mulhScalar _ _ _ _ _ | .madI32 _ _ _ _ _ | .madI32Scalar _ _ _ _ _ | .madN32 _ _ _ _ _
    | .madN32Scalar _ _ _ _ _ | .madI64 _ _ _ _ _ | .madI64Scalar _ _ _ _ _ | .madN64 _ _ _ _ _
    | .madN64Scalar _ _ _ _ _ | .div _ _ _ _ _ | .divScalar _ _ _ _ _ | .rem _ _ _ _ _ | .remScalar _ _ _ _ _
    | .min _ _ _ _ _ | .minScalar _ _ _ _ _ | .max _ _ _ _ _ | .maxScalar _ _ _ _ _ | .abs _ _ _ _
    | .absScalar _ _ _ _ | .neg _ _ _ _ | .negScalar _ _ _ _ | .and _ _ _ _ _ | .andScalar _ _ _ _ _
    | .andImm _ _ _ _ _ | .andImmScalar _ _ _ _ _ | .or _ _ _ _ _ | .orScalar _ _ _ _ _ | .orImm _ _ _ _ _
    | .orImmScalar _ _ _ _ _ | .xor _ _ _ _ _ | .xorScalar _ _ _ _ _ | .xorImm _ _ _ _ _ | .xorImmScalar _ _ _ _ _
    | .andn _ _ _ _ _ | .andnScalar _ _ _ _ _ | .not _ _ _ _ | .notScalar _ _ _ _ | .tlog _ _ _ _ _
    | .tlogScalar _ _ _ _ _ | .shl _ _ _ _ _ | .shlScalar _ _ _ _ _ | .shlImm _ _ _ _ _ | .shlImmScalar _ _ _ _ _
    | .shr _ _ _ _ _ | .shrScalar _ _ _ _ _ | .shrImm _ _ _ _ _ | .shrImmScalar _ _ _ _ _ | .sar _ _ _ _ _
    | .sarScalar _ _ _ _ _ | .sarImm _ _ _ _ _ | .sarImmScalar _ _ _ _ _ | .fshl _ _ _ _ _ | .fshlScalar _ _ _ _ _
    | .fshr _ _ _ _ _ | .fshrScalar _ _ _ _ _ | .rot _ _ _ _ _ | .rotScalar _ _ _ _ _ | .rotImm _ _ _ _ _
    | .rotImmScalar _ _ _ _ _ | .bfx _ _ _ _ _ | .bfxScalar _ _ _ _ _ | .bfi _ _ _ _ _ | .bfiScalar _ _ _ _ _
    | .popc _ _ _ _ | .popcScalar _ _ _ _ | .clz _ _ _ _ | .clzScalar _ _ _ _ | .ctz _ _ _ _ | .ctzScalar _ _ _ _
    | .brev _ _ _ _ | .brevScalar _ _ _ _ | .bperm _ _ _ _ _ | .bpermScalar _ _ _ _ _ | .cmp _ _ _ _
    | .cmpScalar _ _ _ _ | .cmpImm _ _ _ _ | .cmpImmScalar _ _ _ _ | .tst _ _ _ _ | .tstScalar _ _ _ _
    | .sel _ _ _ _ _ _ | .selScalar _ _ _ _ _ | .lea _ _ _ _ _ | .leaScalar _ _ _ _ _ | .fadd _ _ _ _ _ _
    | .fsub _ _ _ _ _ _ | .fmul _ _ _ _ _ _ | .fscale _ _ _ _ _ _ | .fmin _ _ _ _ _ | .fmax _ _ _ _ _ | .fabs _ _ _ _
    | .fneg _ _ _ _ | .fcmp _ _ _ _ | .fclass _ _ _ _ | .frcp _ _ _ _ _ | .fsqrt _ _ _ _ _ | .frint _ _ _ _ _
    | .frsq _ _ _ _ | .fexp2 _ _ _ _ | .flog2 _ _ _ _ | .fsin _ _ _ _ | .fcos _ _ _ _ | .ftanh _ _ _ _
    | .act _ _ _ _ _ | .actld _ _ _ | .actswap _ | .ffma _ _ _ _ _ _ _ | .fdot2 _ _ _ _ _ _ _ | .cvt _ _ _ _ _ _ _
    | .qnt _ _ _ _ _ _ _ _ | .dqnt _ _ _ _ _ _ _ | .pack _ _ _ _ _ | .unpk _ _ _ _ _ | .lget _ _ _ _ _
    | .lput _ _ _ _ _ | .lshf _ _ _ _ _ _ | .lbcst _ _ _ _ | .lxor _ _ _ _ | .lscan _ _ _ _ | .lred _ _ _ _
    | .lvote _ _ _ _ | .rng _ _ | .rngset _ _ _ | .ld _ _ _ _ _ _ _ | .st _ _ _ _ _ _ _ | .lds _ _ _ _ _ _
    | .sts _ _ _ _ _ _ | .ldp _ _ _ _ _ _ | .stp _ _ _ _ _ _ | .atom _ _ _ _ _ _ | .atoms _ _ _ _ _ | .rst _ _ _ _ _
    | .ratom _ _ _ _ _ _ | .pref _ _ _ _ _ | .stage _ _ _ _ | .unstage _ _ | .brw _ _ _ _ _ _ | .rbrw _ _ _ _ _
    | .split _ _ _ _ _ | .join _ _ | .rtn _ _ | .rgq _ _ _ | .rgmv _ _ _ _ | .fence _ _ | .stmpw _ | .stmpp _
    | .cseal _ _ | .cwait _ _ | .binit _ _ _ | .barr _ _ _ _ | .bexp _ _ _ | .bwait _ _ _ | .btest _ _ _ _
    | .chinit _ _ _ | .chpush _ _ _ | .chpop _ _ _ | .chstat _ _ _ | .copy _ _ _ _ _ | .copy2 _ _ _ _ _
    | .gath _ _ _ _ _ | .scat _ _ _ _ _ | .route _ _ _ _ _ | .cvinit _ _ _ | .mma _ _ _ _ _ _ _ _ _ _ | .mwait _
    | .lace _ _ _ | .obres _ _ _ _ | .obld _ _ _ _ | .obrel _ _ | .mdrain _ _ _ _ _ _ _ _ | .hbind _ _ _ _
    | .hperm _ _ _ _ | .hbund _ _ _ | .hthr _ _ _ | .hclr _ _ | .hld _ _ _ _ | .hst _ _ _ _ | .hset _ _ _
    | .hdist _ _ _ _ | .hpop _ _ _ | .htie _ _ | .hcw _ _ | .hsrch _ _ _ _ | .hsrch2 _ _ _ _ | .trap _ _ | .tret _ _
    | .mfs _ _ _ _ | .mts _ _ _ | .dist _ _ _ _ | .halt _ _ | .slotq _ _ | .smpcfg _ _ | .smpon _ _ | .smpoff _ _ => true
    | _ => false

/-- `i` is well formed: every field of the word lies in its operand space and the word passes the checks 2 and 3 of
R70 that need no state; an event names units the machine has. -/
def Instr.wf (i : Instr) : Bool :=
  match i with
  | .nop h => h.ok false .zero
  | .bra h _ => h.ok true .zero
  | .brc h _ _ => h.ok true .zero
  | .brx h _ => h.ok true .zero
  | .call h d _ => h.ok true .zero && decide (d.toNat < 384)
  | .callx h d _ => h.ok true .zero && decide (d.toNat < 384)
  | .ret h _ => h.ok true .zero
  | .loop h _ off => h.ok false .zero && !(off == 0#18)
  | .endl h => h.ok false .zero
  | .lbrk h => h.ok false .zero
  | .spawn h _ a _ => h.ok true .zero && decide (a.toNat < 381)
  | .endFibre h => h.ok true .zero
  | .yield h => h.ok false .zero
  | .sleep h _ => h.ok false .zero
  | .fbar h _ => h.ok false .zero
  | .icinv h => h.ok false .zero
  | .mov h d _ => h.ok true .flags && decide (d.toNat < 384)
  | .movFromCc h d => h.ok true .flags && decide (d.toNat < 384)
  | .movToCc h _ => h.ok true .zero
  | .movScalar h _ _ => h.ok false .sf
  | .movFromSf h _ => h.ok false .sf
  | .movToSf h _ => h.ok false .zero
  | .movi h d _ => h.ok true .flags && decide (d.toNat < 384)
  | .moviScalar h _ _ => h.ok false .sf
  | .movh h d k imm => h.ok true .flags && decide (d.toNat < 384) && !(k == 0#2) && !(k == 3#2 && 1024 ≤ imm.toNat)
  | .movhScalar h _ k imm => h.ok false .sf && !(k == 0#2) && !(k == 3#2 && 1024 ≤ imm.toNat)
  | .add h d _ _ _ => h.ok true .flags && decide (d.toNat < 384)
  | .addScalar h _ _ _ _ => h.ok false .sf
  | .addImm h d _ _ _ => h.ok true .flags && decide (d.toNat < 384)
  | .addImmScalar h _ _ _ _ => h.ok false .sf
  | .addc h d _ _ _ t => h.ok true .flags && decide (d.toNat < 384) && !(t.bits != 64)
  | .addcScalar h _ _ _ t => h.ok false .sf && !(t.bits != 64)
  | .sub h d _ _ _ => h.ok true .flags && decide (d.toNat < 384)
  | .subScalar h _ _ _ _ => h.ok false .sf
  | .subb h d _ _ _ t => h.ok true .flags && decide (d.toNat < 384) && !(t.bits != 64)
  | .subbScalar h _ _ _ t => h.ok false .sf && !(t.bits != 64)
  | .mul h d _ _ _ => h.ok true .flags && decide (d.toNat < 384)
  | .mulScalar h _ _ _ _ => h.ok false .sf
  | .mulh h d _ _ _ => h.ok true .flags && decide (d.toNat < 384)
  | .mulhScalar h _ _ _ _ => h.ok false .sf
  | .madI32 h d _ _ _ => h.ok true .flags && decide (d.toNat < 384)
  | .madI32Scalar h _ _ _ _ => h.ok false .sf
  | .madN32 h d _ _ _ => h.ok true .flags && decide (d.toNat < 384)
  | .madN32Scalar h _ _ _ _ => h.ok false .sf
  | .madI64 h d _ _ _ => h.ok true .flags && decide (d.toNat < 384)
  | .madI64Scalar h _ _ _ _ => h.ok false .sf
  | .madN64 h d _ _ _ => h.ok true .flags && decide (d.toNat < 384)
  | .madN64Scalar h _ _ _ _ => h.ok false .sf
  | .div h d _ _ _ => h.ok true .flags && decide (d.toNat < 384)
  | .divScalar h _ _ _ _ => h.ok false .sf
  | .rem h d _ _ _ => h.ok true .flags && decide (d.toNat < 384)
  | .remScalar h _ _ _ _ => h.ok false .sf
  | .min h d _ _ _ => h.ok true .flags && decide (d.toNat < 384)
  | .minScalar h _ _ _ _ => h.ok false .sf
  | .max h d _ _ _ => h.ok true .flags && decide (d.toNat < 384)
  | .maxScalar h _ _ _ _ => h.ok false .sf
  | .abs h d _ _ => h.ok true .flags && decide (d.toNat < 384)
  | .absScalar h _ _ _ => h.ok false .sf
  | .neg h d _ _ => h.ok true .flags && decide (d.toNat < 384)
  | .negScalar h _ _ _ => h.ok false .sf
  | .and h d _ _ _ => h.ok true .flags && decide (d.toNat < 384)
  | .andScalar h _ _ _ _ => h.ok false .sf
  | .andImm h d _ _ _ => h.ok true .flags && decide (d.toNat < 384)
  | .andImmScalar h _ _ _ _ => h.ok false .sf
  | .or h d _ _ _ => h.ok true .flags && decide (d.toNat < 384)
  | .orScalar h _ _ _ _ => h.ok false .sf
  | .orImm h d _ _ _ => h.ok true .flags && decide (d.toNat < 384)
  | .orImmScalar h _ _ _ _ => h.ok false .sf
  | .xor h d _ _ _ => h.ok true .flags && decide (d.toNat < 384)
  | .xorScalar h _ _ _ _ => h.ok false .sf
  | .xorImm h d _ _ _ => h.ok true .flags && decide (d.toNat < 384)
  | .xorImmScalar h _ _ _ _ => h.ok false .sf
  | .andn h d _ _ _ => h.ok true .flags && decide (d.toNat < 384)
  | .andnScalar h _ _ _ _ => h.ok false .sf
  | .not h d _ _ => h.ok true .flags && decide (d.toNat < 384)
  | .notScalar h _ _ _ => h.ok false .sf
  | .tlog h d _ _ _ => h.ok true .flags && decide (d.toNat < 384)
  | .tlogScalar h _ _ _ _ => h.ok false .sf
  | .shl h d _ _ _ => h.ok true .flags && decide (d.toNat < 384)
  | .shlScalar h _ _ _ _ => h.ok false .sf
  | .shlImm h d _ _ _ => h.ok true .flags && decide (d.toNat < 384)
  | .shlImmScalar h _ _ _ _ => h.ok false .sf
  | .shr h d _ _ _ => h.ok true .flags && decide (d.toNat < 384)
  | .shrScalar h _ _ _ _ => h.ok false .sf
  | .shrImm h d _ _ _ => h.ok true .flags && decide (d.toNat < 384)
  | .shrImmScalar h _ _ _ _ => h.ok false .sf
  | .sar h d _ _ _ => h.ok true .flags && decide (d.toNat < 384)
  | .sarScalar h _ _ _ _ => h.ok false .sf
  | .sarImm h d _ _ _ => h.ok true .flags && decide (d.toNat < 384)
  | .sarImmScalar h _ _ _ _ => h.ok false .sf
  | .fshl h d _ _ _ => h.ok true .flags && decide (d.toNat < 384)
  | .fshlScalar h _ _ _ _ => h.ok false .sf
  | .fshr h d _ _ _ => h.ok true .flags && decide (d.toNat < 384)
  | .fshrScalar h _ _ _ _ => h.ok false .sf
  | .rot h d _ _ _ => h.ok true .flags && decide (d.toNat < 384)
  | .rotScalar h _ _ _ _ => h.ok false .sf
  | .rotImm h d _ _ _ => h.ok true .flags && decide (d.toNat < 384)
  | .rotImmScalar h _ _ _ _ => h.ok false .sf
  | .bfx h d _ _ t => h.ok true .flags && decide (d.toNat < 384) && !(t.bits != 64)
  | .bfxScalar h _ _ _ t => h.ok false .sf && !(t.bits != 64)
  | .bfi h d _ _ t => h.ok true .flags && decide (d.toNat < 384) && !(t.bits != 64)
  | .bfiScalar h _ _ _ t => h.ok false .sf && !(t.bits != 64)
  | .popc h d _ _ => h.ok true .flags && decide (d.toNat < 384)
  | .popcScalar h _ _ _ => h.ok false .sf
  | .clz h d _ _ => h.ok true .flags && decide (d.toNat < 384)
  | .clzScalar h _ _ _ => h.ok false .sf
  | .ctz h d _ _ => h.ok true .flags && decide (d.toNat < 384)
  | .ctzScalar h _ _ _ => h.ok false .sf
  | .brev h d _ _ => h.ok true .flags && decide (d.toNat < 384)
  | .brevScalar h _ _ _ => h.ok false .sf
  | .bperm h d _ _ _ => h.ok true .flags && decide (d.toNat < 384)
  | .bpermScalar h _ _ _ _ => h.ok false .sf
  | .cmp h _ _ _ => h.ok true .needFlag
  | .cmpScalar h _ _ _ => h.ok false .needSf
  | .cmpImm h _ _ _ => h.ok true .needFlag
  | .cmpImmScalar h _ _ _ => h.ok false .needSf
  | .tst h _ _ _ => h.ok true .needFlag
  | .tstScalar h _ _ _ => h.ok false .needSf
  | .sel h d _ _ _ _ => h.ok true .flags && decide (d.toNat < 384)
  | .selScalar h _ _ _ _ => h.ok false .sf
  | .lea h d _ _ _ => h.ok true .flags && decide (d.toNat < 384)
  | .leaScalar h _ _ _ _ => h.ok false .sf
  | .fadd h d _ _ _ rm => h.ok true .flags && decide (d.toNat < 384) && (rm != Rm.sr)
  | .fsub h d _ _ _ rm => h.ok true .flags && decide (d.toNat < 384) && (rm != Rm.sr)
  | .fmul h d _ _ _ rm => h.ok true .flags && decide (d.toNat < 384) && (rm != Rm.sr)
  | .fscale h d _ _ _ rm => h.ok true .flags && decide (d.toNat < 384) && (rm != Rm.sr)
  | .fmin h d _ _ _ => h.ok true .flags && decide (d.toNat < 384)
  | .fmax h d _ _ _ => h.ok true .flags && decide (d.toNat < 384)
  | .fabs h d _ _ => h.ok true .flags && decide (d.toNat < 384)
  | .fneg h d _ _ => h.ok true .flags && decide (d.toNat < 384)
  | .fcmp h _ _ _ => h.ok true .needFlag
  | .fclass h d _ _ => h.ok true .zero && decide (d.toNat < 384)
  | .frcp h d _ _ rm => h.ok true .flags && decide (d.toNat < 384) && (rm != Rm.sr)
  | .fsqrt h d _ _ rm => h.ok true .flags && decide (d.toNat < 384) && (rm != Rm.sr)
  | .frint h d _ _ rm => h.ok true .flags && decide (d.toNat < 384) && (rm != Rm.sr)
  | .frsq h d _ f => h.ok true .flags && decide (d.toNat < 384) && !(f == FType.f64)
  | .fexp2 h d _ f => h.ok true .flags && decide (d.toNat < 384) && !(f == FType.f64)
  | .flog2 h d _ f => h.ok true .flags && decide (d.toNat < 384) && !(f == FType.f64)
  | .fsin h d _ f => h.ok true .flags && decide (d.toNat < 384) && !(f == FType.f64)
  | .fcos h d _ f => h.ok true .flags && decide (d.toNat < 384) && !(f == FType.f64)
  | .ftanh h d _ f => h.ok true .flags && decide (d.toNat < 384) && !(f == FType.f64)
  | .act h d _ f rm => h.ok true .flags && decide (d.toNat < 384) && (rm != Rm.sr) && !(f == FType.f64)
  | .actld h a _ => h.ok false .zero && decide (a.toNat < 377)
  | .actswap h => h.ok false .zero
  | .ffma h d _ _ _ _ rm => h.ok true .flags && decide (d.toNat < 384) && (rm != Rm.sr)
  | .fdot2 h d _ _ _ _ rm => h.ok true .flags && decide (d.toNat < 384) && (rm != Rm.sr)
  | .cvt h d _ dst src p rm => h.ok true .flags && decide (d.toNat < 384) && !(cvtPartBad dst src p) && !(cvtRmBad dst rm)
  | .qnt h d a _ f _ _ _ => h.ok false .zero && decide (d.toNat < 384) && !(f == FType.f64) && !(f == FType.f32 && 383 ≤ a.toNat)
  | .dqnt h d _ _ f _ rm => h.ok false .zero && decide (d.toNat < 384) && !(f == FType.f64) && !(f == FType.f32 && 383 ≤ d.toNat) && !(f == FType.f32 && rm != Rm.rne)
  | .pack h d _ _ t => h.ok true .flags && decide (d.toNat < 384) && !(t.bits == 64)
  | .unpk h d _ _ t => h.ok true .flags && decide (d.toNat < 384) && !(t.bits == 64)
  | .lget h d _ _ _ => h.ok true .zero && decide (d.toNat < 384)
  | .lput h d _ _ _ => h.ok true .zero && decide (d.toNat < 384)
  | .lshf h d _ b m _ => h.ok true .zero && decide (d.toNat < 384) && !(m == ShfMode.rot && b != 0#9)
  | .lbcst h d _ _ => h.ok true .zero && decide (d.toNat < 384)
  | .lxor h d _ _ => h.ok true .zero && decide (d.toNat < 384)
  | .lscan h d _ op => h.ok true .flags && decide (d.toNat < 384) && op.ok
  | .lred h d _ op => h.ok true .flags && decide (d.toNat < 384) && op.ok
  | .lvote h d _ _ => h.ok true .flags && decide (d.toNat < 384)
  | .rng h d => h.ok true .zero && decide (d.toNat < 384)
  | .rngset h _ _ => h.ok false .zero
  | .ld h d g _ _ _ _ => h.ok true .hint && decide (d.toNat < 384) && decide (g.toNat < 24)
  | .st h _ g _ _ fe _ => h.ok true .hint && decide (g.toNat < 24) && !(fe == Fe.fec)
  | .lds h d _ _ _ _ => h.ok true .zero && decide (d.toNat < 384)
  | .sts h _ _ _ fe _ => h.ok true .zero && !(fe == Fe.fec)
  | .ldp h d g _ _ _ => h.ok true .hint && decide (d.toNat < 383) && decide (g.toNat < 24)
  | .stp h d g _ fe _ => h.ok true .hint && decide (d.toNat < 383) && decide (g.toNat < 24) && !(fe == Fe.fec)
  | .atom h d g _ op t => h.ok true .zero && decide (d.toNat < 384) && decide (g.toNat < 24) && !(atTypeBad op t) && !(op == AtOp.cas && 383 ≤ d.toNat)
  | .atoms h d _ op t => h.ok true .zero && decide (d.toNat < 384) && !(atTypeBad op t) && !(op == AtOp.cas && 383 ≤ d.toNat)
  | .rst h g _ _ _ => h.ok true .zero && decide (g.toNat < 24)
  | .ratom h _ g _ op t => h.ok true .zero && decide (g.toNat < 24) && !(atTypeBad op t) && !(op == AtOp.exch || op == AtOp.cas)
  | .pref h g _ _ _ => h.ok true .hint && decide (g.toNat < 24)
  | .stage h g _ _ => h.ok false .zero && decide (16 ≤ g.toNat) && decide (g.toNat < 24)
  | .unstage h g => h.ok false .zero && decide (16 ≤ g.toNat) && decide (g.toNat < 24)
  | .brw h d _ _ _ _ => h.ok false .sf && decide (d.toNat < 24)
  | .rbrw h d a b k => h.ok false .zero && decide (d.toNat < 24) && decide (a.toNat < 24) && decide (b.toNat < 255) && !(k == Kind.a)
  | .split h d a toRegs k => h.ok false .zero && decide (d.toNat < 24) && decide (a.toNat < 24) && !(k.toNat < 2 || 32 < k.toNat) && !(splitBad toRegs d k)
  | .join h a => h.ok false .zero && decide (a.toNat < 24)
  | .rtn h a => h.ok false .zero && decide (a.toNat < 24)
  | .rgq h d a => h.ok false .zero && decide (1 ≤ d.toNat) && decide (d.toNat < 254) && decide (a.toNat < 24)
  | .rgmv h d a b => h.ok false .zero && decide (d.toNat < 24) && decide (a.toNat < 24) && !(16 ≤ d.toNat && b != 0#8)
  | .fence h _ => h.ok false .zero
  | .stmpw h => h.ok false .zero
  | .stmpp h => h.ok false .zero
  | .cseal h _ => h.ok false .zero
  | .cwait h _ => h.ok false .zero
  | .binit h _ _ => h.ok false .zero
  | .barr h _ _ _ => h.ok false .zero
  | .bexp h _ _ => h.ok false .zero
  | .bwait h _ _ => h.ok false .zero
  | .btest h _ _ _ => h.ok false .sf
  | .chinit h _ _ => h.ok false .zero
  | .chpush h a _ => h.ok false .zero && decide (a.toNat < 384)
  | .chpop h d _ => h.ok false .zero && decide (d.toNat < 384)
  | .chstat h _ _ => h.ok false .zero
  | .copy h d a b _ => h.ok false .zero && d.ok true && a.ok true && decide (b.toNat < 254)
  | .copy2 h d a b _ => h.ok false .zero && d.ok true && a.ok true && decide (b.toNat < 252)
  | .gath h d a b _ => h.ok false .zero && d.ok true && a.ok true && decide (b.toNat < 254)
  | .scat h d a b _ => h.ok false .zero && d.ok true && a.ok true && decide (b.toNat < 254)
  | .route h _ a _ _ => h.ok false .zero && decide (a.toNat < 254)
  | .cvinit h _ _ => h.ok false .zero
  | .mma h _ _ _ _ _ _ la lb fmt => h.ok false .zero && !(mmaLenBad fmt la lb)
  | .mwait h => h.ok false .zero
  | .lace h _ a => h.ok false .zero && decide (a.toNat < 254)
  | .obres h _ _ _ => h.ok false .zero
  | .obld h _ _ _ => h.ok false .zero
  | .obrel h _ => h.ok false .zero
  | .mdrain h _ a _ _ _ rm f => h.ok false .zero && decide (a.toNat < 254) && (rm != Rm.sr) && !(f == FType.f64)
  | .hbind h _ _ _ => h.ok false .zero
  | .hperm h _ _ _ => h.ok false .zero
  | .hbund h _ _ => h.ok false .zero
  | .hthr h _ _ => h.ok false .zero
  | .hclr h _ => h.ok false .zero
  | .hld h _ a _ => h.ok false .zero && a.ok false
  | .hst h _ a _ => h.ok false .zero && a.ok false
  | .hset h _ _ => h.ok false .zero
  | .hdist h _ _ _ => h.ok false .zero
  | .hpop h _ _ => h.ok false .zero
  | .htie h _ => h.ok false .zero
  | .hcw h _ => h.ok false .zero
  | .hsrch h d _ _ => h.ok false .zero && decide (1 ≤ d.toNat) && decide (d.toNat < 255)
  | .hsrch2 h d _ _ => h.ok false .zero && decide (1 ≤ d.toNat) && decide (d.toNat < 253)
  | .trap h _ => h.ok false .zero
  | .tret h _ => h.ok false .zero
  | .mfs h d a scalar => h.ok (!scalar) .zero && !(mfsDestBad scalar d) && !(scalar && a == Special.lane)
  | .mts h d _ => h.ok false .zero && d.writable
  | .dist h _ _ _ => h.ok false .zero
  | .halt h _ => h.ok false .zero
  | .slotq h d => h.ok false .zero && decide (1 ≤ d.toNat) && decide (d.toNat < 254)
  | .smpcfg h _ => h.ok false .zero
  | .smpon h _ => h.ok false .zero
  | .smpoff h _ => h.ok false .zero
  | .pairNop .. | .pairMov .. | .pairAdd .. | .pairSub .. | .pairMin .. | .pairMax .. | .pairAnd .. | .pairOr ..
  | .pairXor .. | .pairAndn .. | .pairFadd .. | .pairFmul .. | .pairFmin .. | .pairFmax .. => pairOk i.paired?
  | .loadWriteback _ _ what => what.lane?.all fun l => decide (l < 32)
  | .homeAtomic h _ => decide (h < 8 + 16384)
  | .residueWriteback d _ => dieOk d
  | .actldComplete d c | .matrixEntryStart d c | .obldComplete d c | .mmaComplete d c | .mdrainComplete d c
  | .unitOpStart d c | .unitOpComplete d c | .sample d c | .copyStart d c => coreOk d c
  | .geodeSearchStart d | .geodeSearchComplete d | .correctableError d | .xinv d _ | .shootDownDone d
  | .gmibWrite d _ | .dieRetirement d | .dieReset d _ | .drainExpiry d | .jxwdogW2 d | .jxwdogW2Forced d
  | .dieDrainDone d => dieOk d
  | .tagSweepDone d s t => dieOk d && decide (s < 4) && decide (t < 4096)
  | .uncorrectableError _ t => decide (t < 6)
  | .replay q | .launch q | .waitq q | .mark q | .signal q | .slatew q | .slatewComplete q | .geodew q
  | .geodewComplete q | .fenceq q | .queueReset q => decide (q < 1024)
  | .killRelease c _ | .contextCreate c _ | .contextPreempt c | .contextResume c | .contextKill c
  | .reclaimWalk c | .walkDone c | .watchdogW1 c | .watchdogW2 c | .jxwdogW1 c => decide (c < 64)
  | .rangeRegisterSet c n _ _ _ => decide (c < 64) && decide (n < 16)
  | .fabricTableWrite e _ => decide (e < 8192)
  | .inboundWindowWrite w _ _ _ _ => decide (w < 256)
  | .barrierRelease _ n => decide (n < 2048)
  | .chpushAccept _ c => decide (c < 16)
  | .linkTrain n | .linkFence n | .linkUnfence n | .linkRetire n | .trainingAttempt n _ _ | .linkFault n
  | .flitReplay n => linkOk n
  | _ => true

end Sys2Proof
end

