-- ==== Sys2Proof/Decode.lean ====
section
/-! DEFINITION. Decoding of instruction words, total on any 64 bits, and the encoder (spec/03: R50 to R55, R66 to R70,
Tables 3.1, 3.8, 3.9, 3.10, and the field moulds of each class). -/

namespace Sys2Proof

/-! Bit fields: `hi n m v` are the top `n` bits of `v`, `lo m v` the bottom `m`. -/

/-- The top `n` bits of an `n + m`-bit value. -/
def hi (n m : Nat) {k : Nat} (v : BitVec k) : BitVec n := v.extractLsb' m n
/-- The bottom `m` bits. -/
def lo (m : Nat) {k : Nat} (v : BitVec k) : BitVec m := v.extractLsb' 0 m
/-- One bit. -/
def ofBool (b : Bool) : BitVec 1 := if b then 1 else 0

/-! Codes of the named field values. -/

/-- Table 3.3. -/
def IType.code : IType → BitVec 3
  | .i8 => 0 | .i16 => 1 | .i32 => 2 | .i64 => 3 | .n8 => 4 | .n16 => 5 | .n32 => 6 | .n64 => 7
/-- Table 3.3. -/
def IType.ofCode (c : BitVec 3) : IType :=
  match c.toNat with
  | 0 => .i8 | 1 => .i16 | 2 => .i32 | 3 => .i64 | 4 => .n8 | 5 => .n16 | 6 => .n32 | _ => .n64
/-- Table 3.3. -/
def FType.code : FType → BitVec 2
  | .f32 => 0 | .f16 => 1 | .bf16 => 2 | .f64 => 3
/-- Table 3.3. -/
def FType.ofCode (c : BitVec 2) : FType :=
  match c.toNat with
  | 0 => .f32 | 1 => .f16 | 2 => .bf16 | _ => .f64
/-- Table 2.3. -/
def Rm.code : Rm → BitVec 3
  | .rne => 0 | .rz => 1 | .ru => 2 | .rd => 3 | .sr => 4
/-- Table 2.3; codes 5 to 7 are reserved. -/
def Rm.ofCode (c : BitVec 3) : Rm :=
  match c.toNat with
  | 0 => .rne | 1 => .rz | 2 => .ru | 3 => .rd | _ => .sr
/-- Rounding codes 0 to 3 in two bits. -/
def Rm.code2 : Rm → BitVec 2
  | .rne => 0 | .rz => 1 | .ru => 2 | .rd => 3 | .sr => 0
/-- Rounding codes 0 to 3 in two bits. -/
def Rm.ofCode2 (c : BitVec 2) : Rm :=
  match c.toNat with
  | 0 => .rne | 1 => .rz | 2 => .ru | _ => .rd
/-- Table 3.4. -/
def Cond.code : Cond → BitVec 4
  | .al => 0 | .eq => 1 | .ne => 2 | .cs => 3 | .cc => 4 | .mi => 5 | .pl => 6 | .vs => 7
  | .vc => 8 | .hi => 9 | .ls => 10 | .ge => 11 | .lt => 12 | .gt => 13 | .le => 14 | .nv => 15
/-- Table 3.4. -/
def Cond.ofCode (c : BitVec 4) : Cond :=
  match c.toNat with
  | 0 => .al | 1 => .eq | 2 => .ne | 3 => .cs | 4 => .cc | 5 => .mi | 6 => .pl | 7 => .vs
  | 8 => .vc | 9 => .hi | 10 => .ls | 11 => .ge | 12 => .lt | 13 => .gt | 14 => .le | _ => .nv
/-- Table 6.7. -/
def CvtType.code : CvtType → BitVec 4
  | .int t => 0#1 ++ t.code
  | .flt .f32 => 8 | .flt .f16 => 9 | .flt .bf16 => 10 | .flt .f64 => 11
/-- Table 6.7. -/
def CvtType.ofCode (c : BitVec 4) : CvtType :=
  match c.toNat with
  | 8 => .flt .f32 | 9 => .flt .f16 | 10 => .flt .bf16 | 11 => .flt .f64 | _ => .int (IType.ofCode (lo 3 c))
/-- Q of 12 to 15 is reserved (R129). -/
def CvtType.bad (c : BitVec 4) : Bool := decide (12 ≤ c.toNat)
/-- R136. -/
def ShfMode.code : ShfMode → BitVec 2
  | .up => 0 | .down => 1 | .rot => 2
/-- R136. -/
def ShfMode.ofCode (c : BitVec 2) : ShfMode :=
  match c.toNat with
  | 0 => .up | 1 => .down | _ => .rot
/-- Mode 3 is reserved (R136). -/
def ShfMode.bad (c : BitVec 2) : Bool := c == 3
/-- R139. -/
def VoteMode.code : VoteMode → BitVec 2
  | .any => 0 | .all => 1 | .ballot => 2
/-- R139. -/
def VoteMode.ofCode (c : BitVec 2) : VoteMode :=
  match c.toNat with
  | 0 => .any | 1 => .all | _ => .ballot
/-- Mode 3 is reserved (R139). -/
def VoteMode.bad (c : BitVec 2) : Bool := c == 3
/-- Table 8.5a. -/
def Fe.code : Fe → BitVec 2
  | .none => 0 | .fe => 1 | .fec => 2
/-- Table 8.5a. -/
def Fe.ofCode (c : BitVec 2) : Fe :=
  match c.toNat with
  | 0 => .none | 1 => .fe | _ => .fec
/-- fe = 3 is reserved (R179). -/
def Fe.bad (c : BitVec 2) : Bool := c == 3
/-- Table 8.5. -/
def AtOp.code : AtOp → BitVec 4
  | .add => 0 | .min => 1 | .max => 2 | .and => 3 | .or => 4 | .xor => 5 | .exch => 6 | .cas => 7
  | .fadd32 => 8 | .fadd64 => 9
/-- Table 8.5. -/
def AtOp.ofCode (c : BitVec 4) : AtOp :=
  match c.toNat with
  | 0 => .add | 1 => .min | 2 => .max | 3 => .and | 4 => .or | 5 => .xor | 6 => .exch | 7 => .cas
  | 8 => .fadd32 | 9 => .fadd64 | _ => .add
/-- Codes 10 to 15 are not listed (Table 8.5). -/
def AtOp.bad (c : BitVec 4) : Bool := decide (10 ≤ c.toNat)
/-- Table 7.4. -/
def Kind.code : Kind → BitVec 2
  | .x => 0 | .s => 1 | .a => 2
/-- Table 7.5. -/
def Kind.ofCode (c : BitVec 2) : Kind :=
  match c.toNat with
  | 0 => .x | 1 => .s | _ => .a
/-- Kind 3 is reserved (R164). -/
def Kind.bad (c : BitVec 2) : Bool := c == 3
/-- Table 9.6. -/
def Scope.code : Scope → BitVec 3
  | .wave => 0 | .grp => 1 | .sec => 2 | .die => 3 | .dev => 4 | .sys => 5
/-- Table 9.6. -/
def Scope.ofCode (c : BitVec 3) : Scope :=
  match c.toNat with
  | 0 => .wave | 1 => .grp | 2 => .sec | 3 => .die | 4 => .dev | _ => .sys
/-- Scope codes 6 and 7 are outside Table 9.6. -/
def Scope.bad (c : BitVec 3) : Bool := decide (6 ≤ c.toNat)
/-- Table 12.2. -/
def MFmt.code : MFmt → BitVec 3
  | .x8 => 0 | .x4 => 1 | .i8 => 2 | .f16 => 3 | .bf16 => 4 | .f32 => 5
/-- Table 12.2. -/
def MFmt.ofCode (c : BitVec 3) : MFmt :=
  match c.toNat with
  | 0 => .x8 | 1 => .x4 | 2 => .i8 | 3 => .f16 | 4 => .bf16 | _ => .f32
/-- Format codes 6 and 7 are reserved (R252). -/
def MFmt.bad (c : BitVec 3) : Bool := decide (6 ≤ c.toNat)
/-- R279. -/
def CtrW.code : CtrW → BitVec 2
  | .w4 => 0 | .w8 => 1 | .w16 => 2
/-- R279. -/
def CtrW.ofCode (c : BitVec 2) : CtrW :=
  match c.toNat with
  | 0 => .w4 | 1 => .w8 | _ => .w16
/-- Width code 3 is reserved (R279). -/
def CtrW.bad (c : BitVec 2) : Bool := c == 3
/-- Table 5.3. -/
def Special.code : Special → BitVec 9
  | .lane => 0 | .wave => 1 | .nwave => 2 | .grp => 3 | .ngrp => 4 | .vdie => 5 | .core => 6 | .clk => 7
  | .kid => 8 | .tcause => 9 | .tpc => 10 | .tinfo => 11 | .tlanes => 12 | .slot => 13 | .spbase => 14
/-- Table 5.3. -/
def Special.ofCode (c : BitVec 9) : Special :=
  match c.toNat with
  | 0 => .lane | 1 => .wave | 2 => .nwave | 3 => .grp | 4 => .ngrp | 5 => .vdie | 6 => .core | 7 => .clk
  | 8 => .kid | 9 => .tcause | 10 => .tpc | 11 => .tinfo | 12 => .tlanes | 13 => .slot | _ => .spbase
/-- Endpoint space (R232). -/
def Endp.code : Endp → BitVec 9
  | .region g => 0#4 ++ g
  | .sp => 24
  | .chan c => 2#5 ++ c
/-- Endpoint space (R232). -/
def Endp.ofCode (c : BitVec 9) : Endp :=
  if c.toNat < 24 then .region (lo 5 c) else if c.toNat < 32 then .sp else .chan (lo 4 c)
/-- A code outside the endpoint space (R232, R275). -/
def endpBad (chans : Bool) (c : BitVec 9) : Bool :=
  !(decide (c.toNat ≤ 24) || (chans && decide (32 ≤ c.toNat) && decide (c.toNat ≤ 47)))
/-- Table 6.9. -/
def RedOp.opCode : RedOp → BitVec 4
  | .add _ => 0 | .min _ => 1 | .max _ => 2 | .and _ => 3 | .or _ => 4 | .xor _ => 5
  | .fadd _ _ => 8 | .fmin _ => 9 | .fmax _ => 10
/-- The type field of LSCAN and LRED (R138). -/
def RedOp.typeCode : RedOp → BitVec 3
  | .add t | .min t | .max t | .and t | .or t | .xor t => t.code
  | .fadd f _ | .fmin f | .fmax f => 0#1 ++ f.code
/-- The rounding field of LSCAN and LRED (R138). -/
def RedOp.rmCode : RedOp → BitVec 3
  | .fadd _ rm => rm.code
  | _ => 0
/-- Table 6.9. -/
def RedOp.ofCode (op : BitVec 4) (ty rm : BitVec 3) : RedOp :=
  match op.toNat with
  | 0 => .add (IType.ofCode ty) | 1 => .min (IType.ofCode ty) | 2 => .max (IType.ofCode ty)
  | 3 => .and (IType.ofCode ty) | 4 => .or (IType.ofCode ty) | 5 => .xor (IType.ofCode ty)
  | 8 => .fadd (FType.ofCode (lo 2 ty)) (Rm.ofCode rm) | 9 => .fmin (FType.ofCode (lo 2 ty))
  | _ => .fmax (FType.ofCode (lo 2 ty))
/-- An op code outside Table 6.9. -/
def RedOp.opBad (op : BitVec 4) : Bool := decide (6 ≤ op.toNat ∧ op.toNat ≠ 8 ∧ op.toNat ≠ 9 ∧ op.toNat ≠ 10)
/-- Float operations need bit 2 of the type clear (R138). -/
def RedOp.typeBad (op : BitVec 4) (ty : BitVec 3) : Bool := decide (8 ≤ op.toNat) && decide (4 ≤ ty.toNat)
/-- FADD takes rm 0 to 3 and every other operation rm 0 (R138). -/
def RedOp.rmBad (op : BitVec 4) (rm : BitVec 3) : Bool :=
  if op == 8 then decide (4 ≤ rm.toNat) else rm != 0

/-! The two forms. -/

/-- The fields of a full-form word (Table 3.1), without the form bit. -/
structure Fields where
  op : BitVec 10
  hd : Hd
  d : BitVec 9
  a : BitVec 9
  b : BitVec 9
  c : BitVec 9
deriving DecidableEq, Repr

/-- The fields of a full-form word (Table 3.1). -/
def unpackFields (w : BitVec 63) : Fields :=
  let w1 := lo 53 w
  let w2 := lo 51 w1
  let w3 := lo 47 w2
  let w4 := lo 43 w3
  let w5 := lo 39 w4
  let w6 := lo 36 w5
  let w7 := lo 27 w6
  let w8 := lo 18 w7
  { op := hi 10 53 w
    hd := { lgc := hi 2 51 w1, lgcond := Cond.ofCode (hi 4 47 w2), ug := Cond.ofCode (hi 4 43 w3), sc := hi 4 39 w4,
            x := hi 3 36 w5 }
    d := hi 9 27 w6, a := hi 9 18 w7, b := hi 9 9 w8, c := lo 9 w8 }

/-- The full-form word with these fields (Table 3.1). -/
def mk (h : Hd) (op : BitVec 10) (d a b c : BitVec 9) : Word :=
  (0#1 ++ (op ++ (h.lgc ++ (h.lgcond.code ++ (h.ug.code ++ (h.sc ++ (h.x ++ (d ++ (a ++ (b ++ c))))))))) : BitVec 64)

/-- What decode finds before it looks at the wave's state: an unassigned opcode with the %tinfo of Table 3.11, or an
instruction with the word bit positions of the fields that offend in check 2 of R70. SMPON and SMPOFF stand
apart because Lean compiles no constructor with fields whose number is above 243: `decode` puts them back. -/
inductive Dec
  | illegal (info : Nat)
  | word (bad : List Nat) (i : Instr)
  | smpon (bad : List Nat) (h : Hd) (a : SReg)
  | smpoff (bad : List Nat) (h : Hd) (d : SReg)
deriving DecidableEq, Repr

/-- A field at position `p` that offends if `b`. -/
def off (p : Nat) (b : Bool) : List Nat := if b then [p] else []

/-- Offences of the issue fields: a lane guard on a word without per-lane effect (R59), a value of X the word does
not accept (R60). -/
def hdBad (lanes : Bool) (r : XRule) (h : Hd) : List Nat :=
  off 51 (!lanes && h.lgc != 0) ++ off 47 (!lanes && h.lgcond != .al) ++ off 36 (!r.ok h.x)

/-- MOV on the vector pipe: field c selects mode 0, 3 or 4; any other value offends (R110). -/
def decodeMov (f : Fields) : Dec :=
  match f.c.toNat with
  | 3 => .word (hdBad true .flags f.hd ++ off 27 (384 ≤ f.d.toNat) ++ off 18 (f.a != 0#9) ++ off 9 (f.b != 0#9))
      (.movFromCc f.hd f.d)
  | 4 => .word (hdBad true .zero f.hd ++ off 27 (f.d != 0#9) ++ off 9 (f.b != 0#9))
      (.movToCc f.hd f.a)
  | n => .word (hdBad true .flags f.hd ++ off 27 (384 ≤ f.d.toNat) ++ off 0 (n != 0) ++ off 9 (f.b != 0#9))
      (.mov f.hd f.d f.a)

/-- MOV on the scalar pipe: field c selects mode 0, 1 or 2; any other value offends (R110). -/
def decodeMovScalar (f : Fields) : Dec :=
  match f.c.toNat with
  | 1 => .word (hdBad false .sf f.hd ++ off 27 (256 ≤ f.d.toNat) ++ off 18 (f.a != 0#9) ++ off 9 (f.b != 0#9))
      (.movFromSf f.hd (lo 8 f.d))
  | 2 => .word (hdBad false .zero f.hd ++ off 27 (f.d != 0#9) ++ off 18 (256 ≤ f.a.toNat) ++ off 9 (f.b != 0#9))
      (.movToSf f.hd (lo 8 f.a))
  | n => .word (hdBad false .sf f.hd ++ off 27 (256 ≤ f.d.toNat) ++ off 18 (256 ≤ f.a.toNat)
        ++ off 0 (n != 0) ++ off 9 (f.b != 0#9))
      (.movScalar f.hd (lo 8 f.d) (lo 8 f.a))

/-- Class 0 (Table 4.3). -/
def decodeControl (f : Fields) : Dec :=
  match f.op.toNat with
  | 0x000 => .word (hdBad false .zero f.hd ++ off 27 (f.d != 0#9) ++ off 18 (f.a != 0#9)
        ++ off 9 (f.b != 0#9) ++ off 0 (f.c != 0#9))
      (.nop f.hd)
  | 0x001 => .word (hdBad true .zero f.hd ++ off 27 (f.d != 0#9))
      (.bra f.hd (f.a ++ (f.b ++ f.c)))
  | 0x002 => .word (hdBad true .zero f.hd)
      (.brc f.hd f.d (f.a ++ (f.b ++ f.c)))
  | 0x003 => .word (hdBad true .zero f.hd ++ off 27 (f.d != 0#9) ++ off 9 (f.b != 0#9) ++ off 0 (f.c != 0#9))
      (.brx f.hd f.a)
  | 0x004 => .word (hdBad true .zero f.hd ++ off 27 (384 ≤ f.d.toNat))
      (.call f.hd f.d (f.a ++ (f.b ++ f.c)))
  | 0x005 => .word (hdBad true .zero f.hd ++ off 27 (384 ≤ f.d.toNat) ++ off 9 (f.b != 0#9) ++ off 0 (f.c != 0#9))
      (.callx f.hd f.d f.a)
  | 0x006 => .word (hdBad true .zero f.hd ++ off 27 (f.d != 0#9) ++ off 9 (f.b != 0#9) ++ off 0 (f.c != 0#9))
      (.ret f.hd f.a)
  | 0x008 => .word (hdBad false .zero f.hd ++ off 27 (f.d != 0#9) ++ off 18 (256 ≤ f.a.toNat) ++ off 0 ((f.b
        ++ f.c) == 0#18))
      (.loop f.hd (lo 8 f.a) (f.b ++ f.c))
  | 0x009 => .word (hdBad false .zero f.hd ++ off 27 (f.d != 0#9) ++ off 18 (f.a != 0#9)
        ++ off 9 (f.b != 0#9) ++ off 0 (f.c != 0#9))
      (.endl f.hd)
  | 0x00A => .word (hdBad false .zero f.hd ++ off 27 (f.d != 0#9) ++ off 18 (f.a != 0#9)
        ++ off 9 (f.b != 0#9) ++ off 0 (f.c != 0#9))
      (.lbrk f.hd)
  | 0x010 => .word (hdBad true .zero f.hd ++ off 18 (381 ≤ f.a.toNat) ++ off 9 (256 ≤ f.b.toNat)
        ++ off 0 (f.c != 0#9))
      (.spawn f.hd f.d f.a (lo 8 f.b))
  | 0x011 => .word (hdBad true .zero f.hd ++ off 27 (f.d != 0#9) ++ off 18 (f.a != 0#9)
        ++ off 9 (f.b != 0#9) ++ off 0 (f.c != 0#9))
      (.endFibre f.hd)
  | 0x012 => .word (hdBad false .zero f.hd ++ off 27 (f.d != 0#9) ++ off 18 (f.a != 0#9)
        ++ off 9 (f.b != 0#9) ++ off 0 (f.c != 0#9))
      (.yield f.hd)
  | 0x013 => .word (hdBad false .zero f.hd ++ off 27 (f.d != 0#9) ++ off 18 (f.a != 0#9))
      (.sleep f.hd (f.b ++ f.c))
  | 0x014 => .word (hdBad false .zero f.hd ++ off 27 (f.d != 0#9) ++ off 18 (256 ≤ f.a.toNat)
        ++ off 9 (f.b != 0#9) ++ off 0 (f.c != 0#9))
      (.fbar f.hd (lo 8 f.a))
  | 0x018 => .word (hdBad false .zero f.hd ++ off 27 (f.d != 0#9) ++ off 18 (f.a != 0#9)
        ++ off 9 (f.b != 0#9) ++ off 0 (f.c != 0#9))
      (.icinv f.hd)
  | _ => .illegal f.op.toNat

/-- Class 1, vector forms (Tables 5.4 to 5.6). -/
def decodeIntegerVector (f : Fields) : Dec :=
  match f.op.toNat with
  | 0x080 => decodeMov f
  | 0x081 => .word (hdBad true .flags f.hd ++ off 27 (384 ≤ f.d.toNat) ++ off 18 (f.a != 0#9))
      (.movi f.hd f.d (f.b ++ f.c))
  | 0x082 => .word (hdBad true .flags f.hd ++ off 27 (384 ≤ f.d.toNat) ++ off 18 (4 ≤ f.a.toNat)
        ++ off 18 ((lo 2 f.a) == 0#2) ++ off 10 ((lo 2 f.a) == 3#2 && 1024 ≤ (f.b ++ f.c).toNat))
      (.movh f.hd f.d (lo 2 f.a) (f.b ++ f.c))
  | 0x083 => .word (hdBad true .flags f.hd ++ off 27 (384 ≤ f.d.toNat) ++ off 3 ((hi 6 3 f.c) != 0#6))
      (.add f.hd f.d f.a f.b (IType.ofCode (lo 3 f.c)))
  | 0x084 => .word (hdBad true .flags f.hd ++ off 27 (384 ≤ f.d.toNat))
      (.addImm f.hd f.d f.a (IType.ofCode (hi 3 15 (f.b ++ f.c))) (lo 15 (f.b ++ f.c)))
  | 0x085 => .word (hdBad true .flags f.hd ++ off 27 (384 ≤ f.d.toNat) ++ off 5 ((hi 4 5 f.c) != 0#4)
        ++ off 0 ((IType.ofCode (lo 3 (lo 5 f.c))).bits != 64))
      (.addc f.hd f.d f.a f.b (hi 2 3 (lo 5 f.c)) (IType.ofCode (lo 3 (lo 5 f.c))))
  | 0x086 => .word (hdBad true .flags f.hd ++ off 27 (384 ≤ f.d.toNat) ++ off 3 ((hi 6 3 f.c) != 0#6))
      (.sub f.hd f.d f.a f.b (IType.ofCode (lo 3 f.c)))
  | 0x087 => .word (hdBad true .flags f.hd ++ off 27 (384 ≤ f.d.toNat) ++ off 5 ((hi 4 5 f.c) != 0#4)
        ++ off 0 ((IType.ofCode (lo 3 (lo 5 f.c))).bits != 64))
      (.subb f.hd f.d f.a f.b (hi 2 3 (lo 5 f.c)) (IType.ofCode (lo 3 (lo 5 f.c))))
  | 0x088 => .word (hdBad true .flags f.hd ++ off 27 (384 ≤ f.d.toNat) ++ off 3 ((hi 6 3 f.c) != 0#6))
      (.mul f.hd f.d f.a f.b (IType.ofCode (lo 3 f.c)))
  | 0x089 => .word (hdBad true .flags f.hd ++ off 27 (384 ≤ f.d.toNat) ++ off 3 ((hi 6 3 f.c) != 0#6))
      (.mulh f.hd f.d f.a f.b (IType.ofCode (lo 3 f.c)))
  | 0x08A => .word (hdBad true .flags f.hd ++ off 27 (384 ≤ f.d.toNat))
      (.madI32 f.hd f.d f.a f.b f.c)
  | 0x08B => .word (hdBad true .flags f.hd ++ off 27 (384 ≤ f.d.toNat))
      (.madN32 f.hd f.d f.a f.b f.c)
  | 0x08C => .word (hdBad true .flags f.hd ++ off 27 (384 ≤ f.d.toNat))
      (.madI64 f.hd f.d f.a f.b f.c)
  | 0x08D => .word (hdBad true .flags f.hd ++ off 27 (384 ≤ f.d.toNat))
      (.madN64 f.hd f.d f.a f.b f.c)
  | 0x08E => .word (hdBad true .flags f.hd ++ off 27 (384 ≤ f.d.toNat) ++ off 3 ((hi 6 3 f.c) != 0#6))
      (.div f.hd f.d f.a f.b (IType.ofCode (lo 3 f.c)))
  | 0x08F => .word (hdBad true .flags f.hd ++ off 27 (384 ≤ f.d.toNat) ++ off 3 ((hi 6 3 f.c) != 0#6))
      (.rem f.hd f.d f.a f.b (IType.ofCode (lo 3 f.c)))
  | 0x090 => .word (hdBad true .flags f.hd ++ off 27 (384 ≤ f.d.toNat) ++ off 3 ((hi 6 3 f.c) != 0#6))
      (.min f.hd f.d f.a f.b (IType.ofCode (lo 3 f.c)))
  | 0x091 => .word (hdBad true .flags f.hd ++ off 27 (384 ≤ f.d.toNat) ++ off 3 ((hi 6 3 f.c) != 0#6))
      (.max f.hd f.d f.a f.b (IType.ofCode (lo 3 f.c)))
  | 0x092 => .word (hdBad true .flags f.hd ++ off 27 (384 ≤ f.d.toNat) ++ off 9 (f.b != 0#9)
        ++ off 3 ((hi 6 3 f.c) != 0#6))
      (.abs f.hd f.d f.a (IType.ofCode (lo 3 f.c)))
  | 0x093 => .word (hdBad true .flags f.hd ++ off 27 (384 ≤ f.d.toNat) ++ off 9 (f.b != 0#9)
        ++ off 3 ((hi 6 3 f.c) != 0#6))
      (.neg f.hd f.d f.a (IType.ofCode (lo 3 f.c)))
  | 0x094 => .word (hdBad true .flags f.hd ++ off 27 (384 ≤ f.d.toNat) ++ off 3 ((hi 6 3 f.c) != 0#6))
      (.and f.hd f.d f.a f.b (IType.ofCode (lo 3 f.c)))
  | 0x095 => .word (hdBad true .flags f.hd ++ off 27 (384 ≤ f.d.toNat))
      (.andImm f.hd f.d f.a (IType.ofCode (hi 3 15 (f.b ++ f.c))) (lo 15 (f.b ++ f.c)))
  | 0x096 => .word (hdBad true .flags f.hd ++ off 27 (384 ≤ f.d.toNat) ++ off 3 ((hi 6 3 f.c) != 0#6))
      (.or f.hd f.d f.a f.b (IType.ofCode (lo 3 f.c)))
  | 0x097 => .word (hdBad true .flags f.hd ++ off 27 (384 ≤ f.d.toNat))
      (.orImm f.hd f.d f.a (IType.ofCode (hi 3 15 (f.b ++ f.c))) (lo 15 (f.b ++ f.c)))
  | 0x098 => .word (hdBad true .flags f.hd ++ off 27 (384 ≤ f.d.toNat) ++ off 3 ((hi 6 3 f.c) != 0#6))
      (.xor f.hd f.d f.a f.b (IType.ofCode (lo 3 f.c)))
  | 0x099 => .word (hdBad true .flags f.hd ++ off 27 (384 ≤ f.d.toNat))
      (.xorImm f.hd f.d f.a (IType.ofCode (hi 3 15 (f.b ++ f.c))) (lo 15 (f.b ++ f.c)))
  | 0x09A => .word (hdBad true .flags f.hd ++ off 27 (384 ≤ f.d.toNat) ++ off 3 ((hi 6 3 f.c) != 0#6))
      (.andn f.hd f.d f.a f.b (IType.ofCode (lo 3 f.c)))
  | 0x09B => .word (hdBad true .flags f.hd ++ off 27 (384 ≤ f.d.toNat) ++ off 9 (f.b != 0#9)
        ++ off 3 ((hi 6 3 f.c) != 0#6))
      (.not f.hd f.d f.a (IType.ofCode (lo 3 f.c)))
  | 0x09C => .word (hdBad true .flags f.hd ++ off 27 (384 ≤ f.d.toNat) ++ off 8 ((hi 1 8 f.c) != 0#1))
      (.tlog f.hd f.d f.a f.b (lo 8 f.c))
  | 0x09D => .word (hdBad true .flags f.hd ++ off 27 (384 ≤ f.d.toNat) ++ off 3 ((hi 6 3 f.c) != 0#6))
      (.shl f.hd f.d f.a f.b (IType.ofCode (lo 3 f.c)))
  | 0x09E => .word (hdBad true .flags f.hd ++ off 27 (384 ≤ f.d.toNat))
      (.shlImm f.hd f.d f.a (IType.ofCode (hi 3 15 (f.b ++ f.c))) (lo 15 (f.b ++ f.c)))
  | 0x09F => .word (hdBad true .flags f.hd ++ off 27 (384 ≤ f.d.toNat) ++ off 3 ((hi 6 3 f.c) != 0#6))
      (.shr f.hd f.d f.a f.b (IType.ofCode (lo 3 f.c)))
  | 0x0A0 => .word (hdBad true .flags f.hd ++ off 27 (384 ≤ f.d.toNat))
      (.shrImm f.hd f.d f.a (IType.ofCode (hi 3 15 (f.b ++ f.c))) (lo 15 (f.b ++ f.c)))
  | 0x0A1 => .word (hdBad true .flags f.hd ++ off 27 (384 ≤ f.d.toNat) ++ off 3 ((hi 6 3 f.c) != 0#6))
      (.sar f.hd f.d f.a f.b (IType.ofCode (lo 3 f.c)))
  | 0x0A2 => .word (hdBad true .flags f.hd ++ off 27 (384 ≤ f.d.toNat))
      (.sarImm f.hd f.d f.a (IType.ofCode (hi 3 15 (f.b ++ f.c))) (lo 15 (f.b ++ f.c)))
  | 0x0A3 => .word (hdBad true .flags f.hd ++ off 27 (384 ≤ f.d.toNat))
      (.fshl f.hd f.d f.a f.b f.c)
  | 0x0A4 => .word (hdBad true .flags f.hd ++ off 27 (384 ≤ f.d.toNat))
      (.fshr f.hd f.d f.a f.b f.c)
  | 0x0A5 => .word (hdBad true .flags f.hd ++ off 27 (384 ≤ f.d.toNat) ++ off 3 ((hi 6 3 f.c) != 0#6))
      (.rot f.hd f.d f.a f.b (IType.ofCode (lo 3 f.c)))
  | 0x0A6 => .word (hdBad true .flags f.hd ++ off 27 (384 ≤ f.d.toNat))
      (.rotImm f.hd f.d f.a (IType.ofCode (hi 3 15 (f.b ++ f.c))) (lo 15 (f.b ++ f.c)))
  | 0x0A7 => .word (hdBad true .flags f.hd ++ off 27 (384 ≤ f.d.toNat) ++ off 3 ((hi 6 3 f.c) != 0#6)
        ++ off 0 ((IType.ofCode (lo 3 f.c)).bits != 64))
      (.bfx f.hd f.d f.a f.b (IType.ofCode (lo 3 f.c)))
  | 0x0A8 => .word (hdBad true .flags f.hd ++ off 27 (384 ≤ f.d.toNat) ++ off 3 ((hi 6 3 f.c) != 0#6)
        ++ off 0 ((IType.ofCode (lo 3 f.c)).bits != 64))
      (.bfi f.hd f.d f.a f.b (IType.ofCode (lo 3 f.c)))
  | 0x0A9 => .word (hdBad true .flags f.hd ++ off 27 (384 ≤ f.d.toNat) ++ off 9 (f.b != 0#9)
        ++ off 3 ((hi 6 3 f.c) != 0#6))
      (.popc f.hd f.d f.a (IType.ofCode (lo 3 f.c)))
  | 0x0AA => .word (hdBad true .flags f.hd ++ off 27 (384 ≤ f.d.toNat) ++ off 9 (f.b != 0#9)
        ++ off 3 ((hi 6 3 f.c) != 0#6))
      (.clz f.hd f.d f.a (IType.ofCode (lo 3 f.c)))
  | 0x0AB => .word (hdBad true .flags f.hd ++ off 27 (384 ≤ f.d.toNat) ++ off 9 (f.b != 0#9)
        ++ off 3 ((hi 6 3 f.c) != 0#6))
      (.ctz f.hd f.d f.a (IType.ofCode (lo 3 f.c)))
  | 0x0AC => .word (hdBad true .flags f.hd ++ off 27 (384 ≤ f.d.toNat) ++ off 9 (f.b != 0#9)
        ++ off 3 ((hi 6 3 f.c) != 0#6))
      (.brev f.hd f.d f.a (IType.ofCode (lo 3 f.c)))
  | 0x0AD => .word (hdBad true .flags f.hd ++ off 27 (384 ≤ f.d.toNat))
      (.bperm f.hd f.d f.a f.b f.c)
  | 0x0AE => .word (hdBad true .needFlag f.hd ++ off 27 (f.d != 0#9) ++ off 3 ((hi 6 3 f.c) != 0#6))
      (.cmp f.hd f.a f.b (IType.ofCode (lo 3 f.c)))
  | 0x0AF => .word (hdBad true .needFlag f.hd ++ off 27 (f.d != 0#9))
      (.cmpImm f.hd f.a (IType.ofCode (hi 3 15 (f.b ++ f.c))) (lo 15 (f.b ++ f.c)))
  | 0x0B0 => .word (hdBad true .needFlag f.hd ++ off 27 (f.d != 0#9) ++ off 3 ((hi 6 3 f.c) != 0#6))
      (.tst f.hd f.a f.b (IType.ofCode (lo 3 f.c)))
  | 0x0B1 => .word (hdBad true .flags f.hd ++ off 27 (384 ≤ f.d.toNat) ++ off 0 ((lo 3 (lo 7 f.c)) != 0#3))
      (.sel f.hd f.d f.a f.b (hi 2 7 f.c) (Cond.ofCode (hi 4 3 (lo 7 f.c))))
  | 0x0B2 => .word (hdBad true .flags f.hd ++ off 27 (384 ≤ f.d.toNat) ++ off 6 ((hi 3 6 f.c) != 0#3))
      (.lea f.hd f.d f.a f.b (lo 6 f.c))
  | _ => .illegal f.op.toNat

/-- Class 1, scalar forms: every register field is S space (R105). -/
def decodeIntegerScalar (f : Fields) : Dec :=
  match f.op.toNat with
  | 0x0C0 => decodeMovScalar f
  | 0x0C1 => .word (hdBad false .sf f.hd ++ off 27 (256 ≤ f.d.toNat) ++ off 18 (f.a != 0#9))
      (.moviScalar f.hd (lo 8 f.d) (f.b ++ f.c))
  | 0x0C2 => .word (hdBad false .sf f.hd ++ off 27 (256 ≤ f.d.toNat) ++ off 18 (4 ≤ f.a.toNat)
        ++ off 18 ((lo 2 f.a) == 0#2) ++ off 10 ((lo 2 f.a) == 3#2 && 1024 ≤ (f.b ++ f.c).toNat))
      (.movhScalar f.hd (lo 8 f.d) (lo 2 f.a) (f.b ++ f.c))
  | 0x0C3 => .word (hdBad false .sf f.hd ++ off 27 (256 ≤ f.d.toNat) ++ off 18 (256 ≤ f.a.toNat)
        ++ off 9 (256 ≤ f.b.toNat) ++ off 3 ((hi 6 3 f.c) != 0#6))
      (.addScalar f.hd (lo 8 f.d) (lo 8 f.a) (lo 8 f.b) (IType.ofCode (lo 3 f.c)))
  | 0x0C4 => .word (hdBad false .sf f.hd ++ off 27 (256 ≤ f.d.toNat) ++ off 18 (256 ≤ f.a.toNat))
      (.addImmScalar f.hd (lo 8 f.d) (lo 8 f.a) (IType.ofCode (hi 3 15 (f.b ++ f.c))) (lo 15 (f.b ++ f.c)))
  | 0x0C5 => .word (hdBad false .sf f.hd ++ off 27 (256 ≤ f.d.toNat) ++ off 18 (256 ≤ f.a.toNat)
        ++ off 9 (256 ≤ f.b.toNat) ++ off 5 ((hi 4 5 f.c) != 0#4) ++ off 3 ((hi 2 3 (lo 5 f.c)) != 0#2)
        ++ off 0 ((IType.ofCode (lo 3 (lo 5 f.c))).bits != 64))
      (.addcScalar f.hd (lo 8 f.d) (lo 8 f.a) (lo 8 f.b) (IType.ofCode (lo 3 (lo 5 f.c))))
  | 0x0C6 => .word (hdBad false .sf f.hd ++ off 27 (256 ≤ f.d.toNat) ++ off 18 (256 ≤ f.a.toNat)
        ++ off 9 (256 ≤ f.b.toNat) ++ off 3 ((hi 6 3 f.c) != 0#6))
      (.subScalar f.hd (lo 8 f.d) (lo 8 f.a) (lo 8 f.b) (IType.ofCode (lo 3 f.c)))
  | 0x0C7 => .word (hdBad false .sf f.hd ++ off 27 (256 ≤ f.d.toNat) ++ off 18 (256 ≤ f.a.toNat)
        ++ off 9 (256 ≤ f.b.toNat) ++ off 5 ((hi 4 5 f.c) != 0#4) ++ off 3 ((hi 2 3 (lo 5 f.c)) != 0#2)
        ++ off 0 ((IType.ofCode (lo 3 (lo 5 f.c))).bits != 64))
      (.subbScalar f.hd (lo 8 f.d) (lo 8 f.a) (lo 8 f.b) (IType.ofCode (lo 3 (lo 5 f.c))))
  | 0x0C8 => .word (hdBad false .sf f.hd ++ off 27 (256 ≤ f.d.toNat) ++ off 18 (256 ≤ f.a.toNat)
        ++ off 9 (256 ≤ f.b.toNat) ++ off 3 ((hi 6 3 f.c) != 0#6))
      (.mulScalar f.hd (lo 8 f.d) (lo 8 f.a) (lo 8 f.b) (IType.ofCode (lo 3 f.c)))
  | 0x0C9 => .word (hdBad false .sf f.hd ++ off 27 (256 ≤ f.d.toNat) ++ off 18 (256 ≤ f.a.toNat)
        ++ off 9 (256 ≤ f.b.toNat) ++ off 3 ((hi 6 3 f.c) != 0#6))
      (.mulhScalar f.hd (lo 8 f.d) (lo 8 f.a) (lo 8 f.b) (IType.ofCode (lo 3 f.c)))
  | 0x0CA => .word (hdBad false .sf f.hd ++ off 27 (256 ≤ f.d.toNat) ++ off 18 (256 ≤ f.a.toNat)
        ++ off 9 (256 ≤ f.b.toNat) ++ off 0 (256 ≤ f.c.toNat))
      (.madI32Scalar f.hd (lo 8 f.d) (lo 8 f.a) (lo 8 f.b) (lo 8 f.c))
  | 0x0CB => .word (hdBad false .sf f.hd ++ off 27 (256 ≤ f.d.toNat) ++ off 18 (256 ≤ f.a.toNat)
        ++ off 9 (256 ≤ f.b.toNat) ++ off 0 (256 ≤ f.c.toNat))
      (.madN32Scalar f.hd (lo 8 f.d) (lo 8 f.a) (lo 8 f.b) (lo 8 f.c))
  | 0x0CC => .word (hdBad false .sf f.hd ++ off 27 (256 ≤ f.d.toNat) ++ off 18 (256 ≤ f.a.toNat)
        ++ off 9 (256 ≤ f.b.toNat) ++ off 0 (256 ≤ f.c.toNat))
      (.madI64Scalar f.hd (lo 8 f.d) (lo 8 f.a) (lo 8 f.b) (lo 8 f.c))
  | 0x0CD => .word (hdBad false .sf f.hd ++ off 27 (256 ≤ f.d.toNat) ++ off 18 (256 ≤ f.a.toNat)
        ++ off 9 (256 ≤ f.b.toNat) ++ off 0 (256 ≤ f.c.toNat))
      (.madN64Scalar f.hd (lo 8 f.d) (lo 8 f.a) (lo 8 f.b) (lo 8 f.c))
  | 0x0CE => .word (hdBad false .sf f.hd ++ off 27 (256 ≤ f.d.toNat) ++ off 18 (256 ≤ f.a.toNat)
        ++ off 9 (256 ≤ f.b.toNat) ++ off 3 ((hi 6 3 f.c) != 0#6))
      (.divScalar f.hd (lo 8 f.d) (lo 8 f.a) (lo 8 f.b) (IType.ofCode (lo 3 f.c)))
  | 0x0CF => .word (hdBad false .sf f.hd ++ off 27 (256 ≤ f.d.toNat) ++ off 18 (256 ≤ f.a.toNat)
        ++ off 9 (256 ≤ f.b.toNat) ++ off 3 ((hi 6 3 f.c) != 0#6))
      (.remScalar f.hd (lo 8 f.d) (lo 8 f.a) (lo 8 f.b) (IType.ofCode (lo 3 f.c)))
  | 0x0D0 => .word (hdBad false .sf f.hd ++ off 27 (256 ≤ f.d.toNat) ++ off 18 (256 ≤ f.a.toNat)
        ++ off 9 (256 ≤ f.b.toNat) ++ off 3 ((hi 6 3 f.c) != 0#6))
      (.minScalar f.hd (lo 8 f.d) (lo 8 f.a) (lo 8 f.b) (IType.ofCode (lo 3 f.c)))
  | 0x0D1 => .word (hdBad false .sf f.hd ++ off 27 (256 ≤ f.d.toNat) ++ off 18 (256 ≤ f.a.toNat)
        ++ off 9 (256 ≤ f.b.toNat) ++ off 3 ((hi 6 3 f.c) != 0#6))
      (.maxScalar f.hd (lo 8 f.d) (lo 8 f.a) (lo 8 f.b) (IType.ofCode (lo 3 f.c)))
  | 0x0D2 => .word (hdBad false .sf f.hd ++ off 27 (256 ≤ f.d.toNat) ++ off 18 (256 ≤ f.a.toNat)
        ++ off 9 (f.b != 0#9) ++ off 3 ((hi 6 3 f.c) != 0#6))
      (.absScalar f.hd (lo 8 f.d) (lo 8 f.a) (IType.ofCode (lo 3 f.c)))
  | 0x0D3 => .word (hdBad false .sf f.hd ++ off 27 (256 ≤ f.d.toNat) ++ off 18 (256 ≤ f.a.toNat)
        ++ off 9 (f.b != 0#9) ++ off 3 ((hi 6 3 f.c) != 0#6))
      (.negScalar f.hd (lo 8 f.d) (lo 8 f.a) (IType.ofCode (lo 3 f.c)))
  | 0x0D4 => .word (hdBad false .sf f.hd ++ off 27 (256 ≤ f.d.toNat) ++ off 18 (256 ≤ f.a.toNat)
        ++ off 9 (256 ≤ f.b.toNat) ++ off 3 ((hi 6 3 f.c) != 0#6))
      (.andScalar f.hd (lo 8 f.d) (lo 8 f.a) (lo 8 f.b) (IType.ofCode (lo 3 f.c)))
  | 0x0D5 => .word (hdBad false .sf f.hd ++ off 27 (256 ≤ f.d.toNat) ++ off 18 (256 ≤ f.a.toNat))
      (.andImmScalar f.hd (lo 8 f.d) (lo 8 f.a) (IType.ofCode (hi 3 15 (f.b ++ f.c))) (lo 15 (f.b ++ f.c)))
  | 0x0D6 => .word (hdBad false .sf f.hd ++ off 27 (256 ≤ f.d.toNat) ++ off 18 (256 ≤ f.a.toNat)
        ++ off 9 (256 ≤ f.b.toNat) ++ off 3 ((hi 6 3 f.c) != 0#6))
      (.orScalar f.hd (lo 8 f.d) (lo 8 f.a) (lo 8 f.b) (IType.ofCode (lo 3 f.c)))
  | 0x0D7 => .word (hdBad false .sf f.hd ++ off 27 (256 ≤ f.d.toNat) ++ off 18 (256 ≤ f.a.toNat))
      (.orImmScalar f.hd (lo 8 f.d) (lo 8 f.a) (IType.ofCode (hi 3 15 (f.b ++ f.c))) (lo 15 (f.b ++ f.c)))
  | 0x0D8 => .word (hdBad false .sf f.hd ++ off 27 (256 ≤ f.d.toNat) ++ off 18 (256 ≤ f.a.toNat)
        ++ off 9 (256 ≤ f.b.toNat) ++ off 3 ((hi 6 3 f.c) != 0#6))
      (.xorScalar f.hd (lo 8 f.d) (lo 8 f.a) (lo 8 f.b) (IType.ofCode (lo 3 f.c)))
  | 0x0D9 => .word (hdBad false .sf f.hd ++ off 27 (256 ≤ f.d.toNat) ++ off 18 (256 ≤ f.a.toNat))
      (.xorImmScalar f.hd (lo 8 f.d) (lo 8 f.a) (IType.ofCode (hi 3 15 (f.b ++ f.c))) (lo 15 (f.b ++ f.c)))
  | 0x0DA => .word (hdBad false .sf f.hd ++ off 27 (256 ≤ f.d.toNat) ++ off 18 (256 ≤ f.a.toNat)
        ++ off 9 (256 ≤ f.b.toNat) ++ off 3 ((hi 6 3 f.c) != 0#6))
      (.andnScalar f.hd (lo 8 f.d) (lo 8 f.a) (lo 8 f.b) (IType.ofCode (lo 3 f.c)))
  | 0x0DB => .word (hdBad false .sf f.hd ++ off 27 (256 ≤ f.d.toNat) ++ off 18 (256 ≤ f.a.toNat)
        ++ off 9 (f.b != 0#9) ++ off 3 ((hi 6 3 f.c) != 0#6))
      (.notScalar f.hd (lo 8 f.d) (lo 8 f.a) (IType.ofCode (lo 3 f.c)))
  | 0x0DC => .word (hdBad false .sf f.hd ++ off 27 (256 ≤ f.d.toNat) ++ off 18 (256 ≤ f.a.toNat)
        ++ off 9 (256 ≤ f.b.toNat) ++ off 8 ((hi 1 8 f.c) != 0#1))
      (.tlogScalar f.hd (lo 8 f.d) (lo 8 f.a) (lo 8 f.b) (lo 8 f.c))
  | 0x0DD => .word (hdBad false .sf f.hd ++ off 27 (256 ≤ f.d.toNat) ++ off 18 (256 ≤ f.a.toNat)
        ++ off 9 (256 ≤ f.b.toNat) ++ off 3 ((hi 6 3 f.c) != 0#6))
      (.shlScalar f.hd (lo 8 f.d) (lo 8 f.a) (lo 8 f.b) (IType.ofCode (lo 3 f.c)))
  | 0x0DE => .word (hdBad false .sf f.hd ++ off 27 (256 ≤ f.d.toNat) ++ off 18 (256 ≤ f.a.toNat))
      (.shlImmScalar f.hd (lo 8 f.d) (lo 8 f.a) (IType.ofCode (hi 3 15 (f.b ++ f.c))) (lo 15 (f.b ++ f.c)))
  | 0x0DF => .word (hdBad false .sf f.hd ++ off 27 (256 ≤ f.d.toNat) ++ off 18 (256 ≤ f.a.toNat)
        ++ off 9 (256 ≤ f.b.toNat) ++ off 3 ((hi 6 3 f.c) != 0#6))
      (.shrScalar f.hd (lo 8 f.d) (lo 8 f.a) (lo 8 f.b) (IType.ofCode (lo 3 f.c)))
  | 0x0E0 => .word (hdBad false .sf f.hd ++ off 27 (256 ≤ f.d.toNat) ++ off 18 (256 ≤ f.a.toNat))
      (.shrImmScalar f.hd (lo 8 f.d) (lo 8 f.a) (IType.ofCode (hi 3 15 (f.b ++ f.c))) (lo 15 (f.b ++ f.c)))
  | 0x0E1 => .word (hdBad false .sf f.hd ++ off 27 (256 ≤ f.d.toNat) ++ off 18 (256 ≤ f.a.toNat)
        ++ off 9 (256 ≤ f.b.toNat) ++ off 3 ((hi 6 3 f.c) != 0#6))
      (.sarScalar f.hd (lo 8 f.d) (lo 8 f.a) (lo 8 f.b) (IType.ofCode (lo 3 f.c)))
  | 0x0E2 => .word (hdBad false .sf f.hd ++ off 27 (256 ≤ f.d.toNat) ++ off 18 (256 ≤ f.a.toNat))
      (.sarImmScalar f.hd (lo 8 f.d) (lo 8 f.a) (IType.ofCode (hi 3 15 (f.b ++ f.c))) (lo 15 (f.b ++ f.c)))
  | 0x0E3 => .word (hdBad false .sf f.hd ++ off 27 (256 ≤ f.d.toNat) ++ off 18 (256 ≤ f.a.toNat)
        ++ off 9 (256 ≤ f.b.toNat) ++ off 0 (256 ≤ f.c.toNat))
      (.fshlScalar f.hd (lo 8 f.d) (lo 8 f.a) (lo 8 f.b) (lo 8 f.c))
  | 0x0E4 => .word (hdBad false .sf f.hd ++ off 27 (256 ≤ f.d.toNat) ++ off 18 (256 ≤ f.a.toNat)
        ++ off 9 (256 ≤ f.b.toNat) ++ off 0 (256 ≤ f.c.toNat))
      (.fshrScalar f.hd (lo 8 f.d) (lo 8 f.a) (lo 8 f.b) (lo 8 f.c))
  | 0x0E5 => .word (hdBad false .sf f.hd ++ off 27 (256 ≤ f.d.toNat) ++ off 18 (256 ≤ f.a.toNat)
        ++ off 9 (256 ≤ f.b.toNat) ++ off 3 ((hi 6 3 f.c) != 0#6))
      (.rotScalar f.hd (lo 8 f.d) (lo 8 f.a) (lo 8 f.b) (IType.ofCode (lo 3 f.c)))
  | 0x0E6 => .word (hdBad false .sf f.hd ++ off 27 (256 ≤ f.d.toNat) ++ off 18 (256 ≤ f.a.toNat))
      (.rotImmScalar f.hd (lo 8 f.d) (lo 8 f.a) (IType.ofCode (hi 3 15 (f.b ++ f.c))) (lo 15 (f.b ++ f.c)))
  | 0x0E7 => .word (hdBad false .sf f.hd ++ off 27 (256 ≤ f.d.toNat) ++ off 18 (256 ≤ f.a.toNat)
        ++ off 9 (256 ≤ f.b.toNat) ++ off 3 ((hi 6 3 f.c) != 0#6) ++ off 0 ((IType.ofCode (lo 3 f.c)).bits != 64))
      (.bfxScalar f.hd (lo 8 f.d) (lo 8 f.a) (lo 8 f.b) (IType.ofCode (lo 3 f.c)))
  | 0x0E8 => .word (hdBad false .sf f.hd ++ off 27 (256 ≤ f.d.toNat) ++ off 18 (256 ≤ f.a.toNat)
        ++ off 9 (256 ≤ f.b.toNat) ++ off 3 ((hi 6 3 f.c) != 0#6) ++ off 0 ((IType.ofCode (lo 3 f.c)).bits != 64))
      (.bfiScalar f.hd (lo 8 f.d) (lo 8 f.a) (lo 8 f.b) (IType.ofCode (lo 3 f.c)))
  | 0x0E9 => .word (hdBad false .sf f.hd ++ off 27 (256 ≤ f.d.toNat) ++ off 18 (256 ≤ f.a.toNat)
        ++ off 9 (f.b != 0#9) ++ off 3 ((hi 6 3 f.c) != 0#6))
      (.popcScalar f.hd (lo 8 f.d) (lo 8 f.a) (IType.ofCode (lo 3 f.c)))
  | 0x0EA => .word (hdBad false .sf f.hd ++ off 27 (256 ≤ f.d.toNat) ++ off 18 (256 ≤ f.a.toNat)
        ++ off 9 (f.b != 0#9) ++ off 3 ((hi 6 3 f.c) != 0#6))
      (.clzScalar f.hd (lo 8 f.d) (lo 8 f.a) (IType.ofCode (lo 3 f.c)))
  | 0x0EB => .word (hdBad false .sf f.hd ++ off 27 (256 ≤ f.d.toNat) ++ off 18 (256 ≤ f.a.toNat)
        ++ off 9 (f.b != 0#9) ++ off 3 ((hi 6 3 f.c) != 0#6))
      (.ctzScalar f.hd (lo 8 f.d) (lo 8 f.a) (IType.ofCode (lo 3 f.c)))
  | 0x0EC => .word (hdBad false .sf f.hd ++ off 27 (256 ≤ f.d.toNat) ++ off 18 (256 ≤ f.a.toNat)
        ++ off 9 (f.b != 0#9) ++ off 3 ((hi 6 3 f.c) != 0#6))
      (.brevScalar f.hd (lo 8 f.d) (lo 8 f.a) (IType.ofCode (lo 3 f.c)))
  | 0x0ED => .word (hdBad false .sf f.hd ++ off 27 (256 ≤ f.d.toNat) ++ off 18 (256 ≤ f.a.toNat)
        ++ off 9 (256 ≤ f.b.toNat) ++ off 0 (256 ≤ f.c.toNat))
      (.bpermScalar f.hd (lo 8 f.d) (lo 8 f.a) (lo 8 f.b) (lo 8 f.c))
  | 0x0EE => .word (hdBad false .needSf f.hd ++ off 27 (f.d != 0#9) ++ off 18 (256 ≤ f.a.toNat)
        ++ off 9 (256 ≤ f.b.toNat) ++ off 3 ((hi 6 3 f.c) != 0#6))
      (.cmpScalar f.hd (lo 8 f.a) (lo 8 f.b) (IType.ofCode (lo 3 f.c)))
  | 0x0EF => .word (hdBad false .needSf f.hd ++ off 27 (f.d != 0#9) ++ off 18 (256 ≤ f.a.toNat))
      (.cmpImmScalar f.hd (lo 8 f.a) (IType.ofCode (hi 3 15 (f.b ++ f.c))) (lo 15 (f.b ++ f.c)))
  | 0x0F0 => .word (hdBad false .needSf f.hd ++ off 27 (f.d != 0#9) ++ off 18 (256 ≤ f.a.toNat)
        ++ off 9 (256 ≤ f.b.toNat) ++ off 3 ((hi 6 3 f.c) != 0#6))
      (.tstScalar f.hd (lo 8 f.a) (lo 8 f.b) (IType.ofCode (lo 3 f.c)))
  | 0x0F1 => .word (hdBad false .sf f.hd ++ off 27 (256 ≤ f.d.toNat) ++ off 18 (256 ≤ f.a.toNat)
        ++ off 9 (256 ≤ f.b.toNat) ++ off 7 ((hi 2 7 f.c) != 0#2) ++ off 0 ((lo 3 (lo 7 f.c)) != 0#3))
      (.selScalar f.hd (lo 8 f.d) (lo 8 f.a) (lo 8 f.b) (Cond.ofCode (hi 4 3 (lo 7 f.c))))
  | 0x0F2 => .word (hdBad false .sf f.hd ++ off 27 (256 ≤ f.d.toNat) ++ off 18 (256 ≤ f.a.toNat)
        ++ off 9 (256 ≤ f.b.toNat) ++ off 6 ((hi 3 6 f.c) != 0#3))
      (.leaScalar f.hd (lo 8 f.d) (lo 8 f.a) (lo 8 f.b) (lo 6 f.c))
  | _ => .illegal f.op.toNat

/-- Class 2 (Table 6.1). -/
def decodeFloat (f : Fields) : Dec :=
  match f.op.toNat with
  | 0x100 => .word (hdBad true .flags f.hd ++ off 27 (384 ≤ f.d.toNat) ++ off 5 ((hi 4 5 f.c) != 0#4)
        ++ off 2 (4 ≤ (hi 3 2 (lo 5 f.c)).toNat))
      (.fadd f.hd f.d f.a f.b (FType.ofCode (lo 2 (lo 5 f.c))) (Rm.ofCode (hi 3 2 (lo 5 f.c))))
  | 0x101 => .word (hdBad true .flags f.hd ++ off 27 (384 ≤ f.d.toNat) ++ off 5 ((hi 4 5 f.c) != 0#4)
        ++ off 2 (4 ≤ (hi 3 2 (lo 5 f.c)).toNat))
      (.fsub f.hd f.d f.a f.b (FType.ofCode (lo 2 (lo 5 f.c))) (Rm.ofCode (hi 3 2 (lo 5 f.c))))
  | 0x102 => .word (hdBad true .flags f.hd ++ off 27 (384 ≤ f.d.toNat) ++ off 5 ((hi 4 5 f.c) != 0#4)
        ++ off 2 (4 ≤ (hi 3 2 (lo 5 f.c)).toNat))
      (.fmul f.hd f.d f.a f.b (FType.ofCode (lo 2 (lo 5 f.c))) (Rm.ofCode (hi 3 2 (lo 5 f.c))))
  | 0x111 => .word (hdBad true .flags f.hd ++ off 27 (384 ≤ f.d.toNat) ++ off 5 ((hi 4 5 f.c) != 0#4)
        ++ off 2 (4 ≤ (hi 3 2 (lo 5 f.c)).toNat))
      (.fscale f.hd f.d f.a f.b (FType.ofCode (lo 2 (lo 5 f.c))) (Rm.ofCode (hi 3 2 (lo 5 f.c))))
  | 0x103 => .word (hdBad true .flags f.hd ++ off 27 (384 ≤ f.d.toNat) ++ off 5 ((hi 4 5 f.c) != 0#4)
        ++ off 2 ((hi 3 2 (lo 5 f.c)) != 0#3))
      (.fmin f.hd f.d f.a f.b (FType.ofCode (lo 2 (lo 5 f.c))))
  | 0x104 => .word (hdBad true .flags f.hd ++ off 27 (384 ≤ f.d.toNat) ++ off 5 ((hi 4 5 f.c) != 0#4)
        ++ off 2 ((hi 3 2 (lo 5 f.c)) != 0#3))
      (.fmax f.hd f.d f.a f.b (FType.ofCode (lo 2 (lo 5 f.c))))
  | 0x105 => .word (hdBad true .flags f.hd ++ off 27 (384 ≤ f.d.toNat) ++ off 9 (f.b != 0#9)
        ++ off 5 ((hi 4 5 f.c) != 0#4) ++ off 2 ((hi 3 2 (lo 5 f.c)) != 0#3))
      (.fabs f.hd f.d f.a (FType.ofCode (lo 2 (lo 5 f.c))))
  | 0x106 => .word (hdBad true .flags f.hd ++ off 27 (384 ≤ f.d.toNat) ++ off 9 (f.b != 0#9)
        ++ off 5 ((hi 4 5 f.c) != 0#4) ++ off 2 ((hi 3 2 (lo 5 f.c)) != 0#3))
      (.fneg f.hd f.d f.a (FType.ofCode (lo 2 (lo 5 f.c))))
  | 0x107 => .word (hdBad true .needFlag f.hd ++ off 27 (f.d != 0#9) ++ off 5 ((hi 4 5 f.c) != 0#4)
        ++ off 2 ((hi 3 2 (lo 5 f.c)) != 0#3))
      (.fcmp f.hd f.a f.b (FType.ofCode (lo 2 (lo 5 f.c))))
  | 0x108 => .word (hdBad true .zero f.hd ++ off 27 (384 ≤ f.d.toNat) ++ off 9 (f.b != 0#9)
        ++ off 5 ((hi 4 5 f.c) != 0#4) ++ off 2 ((hi 3 2 (lo 5 f.c)) != 0#3))
      (.fclass f.hd f.d f.a (FType.ofCode (lo 2 (lo 5 f.c))))
  | 0x109 => .word (hdBad true .flags f.hd ++ off 27 (384 ≤ f.d.toNat) ++ off 9 (f.b != 0#9)
        ++ off 5 ((hi 4 5 f.c) != 0#4) ++ off 2 (4 ≤ (hi 3 2 (lo 5 f.c)).toNat))
      (.frcp f.hd f.d f.a (FType.ofCode (lo 2 (lo 5 f.c))) (Rm.ofCode (hi 3 2 (lo 5 f.c))))
  | 0x10A => .word (hdBad true .flags f.hd ++ off 27 (384 ≤ f.d.toNat) ++ off 9 (f.b != 0#9)
        ++ off 5 ((hi 4 5 f.c) != 0#4) ++ off 2 (4 ≤ (hi 3 2 (lo 5 f.c)).toNat))
      (.fsqrt f.hd f.d f.a (FType.ofCode (lo 2 (lo 5 f.c))) (Rm.ofCode (hi 3 2 (lo 5 f.c))))
  | 0x112 => .word (hdBad true .flags f.hd ++ off 27 (384 ≤ f.d.toNat) ++ off 9 (f.b != 0#9)
        ++ off 5 ((hi 4 5 f.c) != 0#4) ++ off 2 (4 ≤ (hi 3 2 (lo 5 f.c)).toNat))
      (.frint f.hd f.d f.a (FType.ofCode (lo 2 (lo 5 f.c))) (Rm.ofCode (hi 3 2 (lo 5 f.c))))
  | 0x10B => .word (hdBad true .flags f.hd ++ off 27 (384 ≤ f.d.toNat) ++ off 9 (f.b != 0#9)
        ++ off 5 ((hi 4 5 f.c) != 0#4) ++ off 2 ((hi 3 2 (lo 5 f.c)) != 0#3)
        ++ off 0 ((FType.ofCode (lo 2 (lo 5 f.c))) == FType.f64))
      (.frsq f.hd f.d f.a (FType.ofCode (lo 2 (lo 5 f.c))))
  | 0x10C => .word (hdBad true .flags f.hd ++ off 27 (384 ≤ f.d.toNat) ++ off 9 (f.b != 0#9)
        ++ off 5 ((hi 4 5 f.c) != 0#4) ++ off 2 ((hi 3 2 (lo 5 f.c)) != 0#3)
        ++ off 0 ((FType.ofCode (lo 2 (lo 5 f.c))) == FType.f64))
      (.fexp2 f.hd f.d f.a (FType.ofCode (lo 2 (lo 5 f.c))))
  | 0x10D => .word (hdBad true .flags f.hd ++ off 27 (384 ≤ f.d.toNat) ++ off 9 (f.b != 0#9)
        ++ off 5 ((hi 4 5 f.c) != 0#4) ++ off 2 ((hi 3 2 (lo 5 f.c)) != 0#3)
        ++ off 0 ((FType.ofCode (lo 2 (lo 5 f.c))) == FType.f64))
      (.flog2 f.hd f.d f.a (FType.ofCode (lo 2 (lo 5 f.c))))
  | 0x10E => .word (hdBad true .flags f.hd ++ off 27 (384 ≤ f.d.toNat) ++ off 9 (f.b != 0#9)
        ++ off 5 ((hi 4 5 f.c) != 0#4) ++ off 2 ((hi 3 2 (lo 5 f.c)) != 0#3)
        ++ off 0 ((FType.ofCode (lo 2 (lo 5 f.c))) == FType.f64))
      (.fsin f.hd f.d f.a (FType.ofCode (lo 2 (lo 5 f.c))))
  | 0x10F => .word (hdBad true .flags f.hd ++ off 27 (384 ≤ f.d.toNat) ++ off 9 (f.b != 0#9)
        ++ off 5 ((hi 4 5 f.c) != 0#4) ++ off 2 ((hi 3 2 (lo 5 f.c)) != 0#3)
        ++ off 0 ((FType.ofCode (lo 2 (lo 5 f.c))) == FType.f64))
      (.fcos f.hd f.d f.a (FType.ofCode (lo 2 (lo 5 f.c))))
  | 0x110 => .word (hdBad true .flags f.hd ++ off 27 (384 ≤ f.d.toNat) ++ off 9 (f.b != 0#9)
        ++ off 5 ((hi 4 5 f.c) != 0#4) ++ off 2 ((hi 3 2 (lo 5 f.c)) != 0#3)
        ++ off 0 ((FType.ofCode (lo 2 (lo 5 f.c))) == FType.f64))
      (.ftanh f.hd f.d f.a (FType.ofCode (lo 2 (lo 5 f.c))))
  | 0x113 => .word (hdBad true .flags f.hd ++ off 27 (384 ≤ f.d.toNat) ++ off 9 (f.b != 0#9)
        ++ off 5 ((hi 4 5 f.c) != 0#4) ++ off 2 (4 ≤ (hi 3 2 (lo 5 f.c)).toNat)
        ++ off 0 ((FType.ofCode (lo 2 (lo 5 f.c))) == FType.f64))
      (.act f.hd f.d f.a (FType.ofCode (lo 2 (lo 5 f.c))) (Rm.ofCode (hi 3 2 (lo 5 f.c))))
  | 0x114 => .word (hdBad false .zero f.hd ++ off 27 (f.d != 0#9) ++ off 18 (377 ≤ f.a.toNat)
        ++ off 9 (256 ≤ f.b.toNat) ++ off 0 (f.c != 0#9))
      (.actld f.hd f.a (lo 8 f.b))
  | 0x115 => .word (hdBad false .zero f.hd ++ off 27 (f.d != 0#9) ++ off 18 (f.a != 0#9)
        ++ off 9 (f.b != 0#9) ++ off 0 (f.c != 0#9))
      (.actswap f.hd)
  | 0x120 => .word (hdBad true .flags f.hd ++ off 27 (384 ≤ f.d.toNat))
      (.ffma f.hd f.d f.a f.b f.c FType.f32 Rm.rne)
  | 0x121 => .word (hdBad true .flags f.hd ++ off 27 (384 ≤ f.d.toNat))
      (.ffma f.hd f.d f.a f.b f.c FType.f32 Rm.rz)
  | 0x122 => .word (hdBad true .flags f.hd ++ off 27 (384 ≤ f.d.toNat))
      (.ffma f.hd f.d f.a f.b f.c FType.f32 Rm.ru)
  | 0x123 => .word (hdBad true .flags f.hd ++ off 27 (384 ≤ f.d.toNat))
      (.ffma f.hd f.d f.a f.b f.c FType.f32 Rm.rd)
  | 0x124 => .word (hdBad true .flags f.hd ++ off 27 (384 ≤ f.d.toNat))
      (.ffma f.hd f.d f.a f.b f.c FType.f16 Rm.rne)
  | 0x125 => .word (hdBad true .flags f.hd ++ off 27 (384 ≤ f.d.toNat))
      (.ffma f.hd f.d f.a f.b f.c FType.f16 Rm.rz)
  | 0x126 => .word (hdBad true .flags f.hd ++ off 27 (384 ≤ f.d.toNat))
      (.ffma f.hd f.d f.a f.b f.c FType.f16 Rm.ru)
  | 0x127 => .word (hdBad true .flags f.hd ++ off 27 (384 ≤ f.d.toNat))
      (.ffma f.hd f.d f.a f.b f.c FType.f16 Rm.rd)
  | 0x128 => .word (hdBad true .flags f.hd ++ off 27 (384 ≤ f.d.toNat))
      (.ffma f.hd f.d f.a f.b f.c FType.bf16 Rm.rne)
  | 0x129 => .word (hdBad true .flags f.hd ++ off 27 (384 ≤ f.d.toNat))
      (.ffma f.hd f.d f.a f.b f.c FType.bf16 Rm.rz)
  | 0x12A => .word (hdBad true .flags f.hd ++ off 27 (384 ≤ f.d.toNat))
      (.ffma f.hd f.d f.a f.b f.c FType.bf16 Rm.ru)
  | 0x12B => .word (hdBad true .flags f.hd ++ off 27 (384 ≤ f.d.toNat))
      (.ffma f.hd f.d f.a f.b f.c FType.bf16 Rm.rd)
  | 0x12C => .word (hdBad true .flags f.hd ++ off 27 (384 ≤ f.d.toNat))
      (.ffma f.hd f.d f.a f.b f.c FType.f64 Rm.rne)
  | 0x12D => .word (hdBad true .flags f.hd ++ off 27 (384 ≤ f.d.toNat))
      (.ffma f.hd f.d f.a f.b f.c FType.f64 Rm.rz)
  | 0x12E => .word (hdBad true .flags f.hd ++ off 27 (384 ≤ f.d.toNat))
      (.ffma f.hd f.d f.a f.b f.c FType.f64 Rm.ru)
  | 0x12F => .word (hdBad true .flags f.hd ++ off 27 (384 ≤ f.d.toNat))
      (.ffma f.hd f.d f.a f.b f.c FType.f64 Rm.rd)
  | 0x130 => .word (hdBad true .flags f.hd ++ off 27 (384 ≤ f.d.toNat))
      (.fdot2 f.hd f.d f.a f.b f.c false Rm.rne)
  | 0x131 => .word (hdBad true .flags f.hd ++ off 27 (384 ≤ f.d.toNat))
      (.fdot2 f.hd f.d f.a f.b f.c false Rm.rz)
  | 0x132 => .word (hdBad true .flags f.hd ++ off 27 (384 ≤ f.d.toNat))
      (.fdot2 f.hd f.d f.a f.b f.c false Rm.ru)
  | 0x133 => .word (hdBad true .flags f.hd ++ off 27 (384 ≤ f.d.toNat))
      (.fdot2 f.hd f.d f.a f.b f.c false Rm.rd)
  | 0x134 => .word (hdBad true .flags f.hd ++ off 27 (384 ≤ f.d.toNat))
      (.fdot2 f.hd f.d f.a f.b f.c true Rm.rne)
  | 0x135 => .word (hdBad true .flags f.hd ++ off 27 (384 ≤ f.d.toNat))
      (.fdot2 f.hd f.d f.a f.b f.c true Rm.rz)
  | 0x136 => .word (hdBad true .flags f.hd ++ off 27 (384 ≤ f.d.toNat))
      (.fdot2 f.hd f.d f.a f.b f.c true Rm.ru)
  | 0x137 => .word (hdBad true .flags f.hd ++ off 27 (384 ≤ f.d.toNat))
      (.fdot2 f.hd f.d f.a f.b f.c true Rm.rd)
  | _ => .illegal f.op.toNat

/-- Class 3 (Table 6.6). -/
def decodeConvert (f : Fields) : Dec :=
  match f.op.toNat with
  | 0x180 => .word (hdBad true .flags f.hd ++ off 27 (384 ≤ f.d.toNat) ++ off 17 ((hi 1 8 f.b) != 0#1)
        ++ off 13 (CvtType.bad (hi 4 4 (lo 8 f.b))) ++ off 9 (CvtType.bad (lo 4 (lo 8 f.b)))
        ++ off 5 ((hi 4 5 f.c) != 0#4) ++ off 0 (5 ≤ (lo 3 (lo 5 f.c)).toNat)
        ++ off 3 (cvtPartBad (CvtType.ofCode (hi 4 4 (lo 8 f.b))) (CvtType.ofCode (lo 4 (lo 8 f.b))) (hi 2 3 (lo 5 f.c))) ++ off 0 (cvtRmBad (CvtType.ofCode (hi 4 4 (lo 8 f.b))) (Rm.ofCode (lo 3 (lo 5 f.c)))))
      (.cvt f.hd f.d f.a (CvtType.ofCode (hi 4 4 (lo 8 f.b))) (CvtType.ofCode (lo 4 (lo 8 f.b))) (hi 2 3 (lo 5 f.c)) (Rm.ofCode (lo 3 (lo 5 f.c))))
  | 0x181 => .word (hdBad false .zero f.hd ++ off 27 (384 ≤ f.d.toNat) ++ off 16 ((hi 2 7 f.b) != 0#2)
        ++ off 11 ((hi 2 2 (lo 4 (lo 6 (lo 7 f.b)))) != 0#2) ++ off 7 ((hi 2 7 f.c) != 0#2)
        ++ off 0 (5 ≤ (lo 3 (lo 7 f.c)).toNat)
        ++ off 13 ((FType.ofCode (hi 2 4 (lo 6 (lo 7 f.b)))) == FType.f64)
        ++ off 18 ((FType.ofCode (hi 2 4 (lo 6 (lo 7 f.b)))) == FType.f32 && 383 ≤ f.a.toNat))
      (.qnt f.hd f.d f.a ((hi 1 6 (lo 7 f.b)) == 1#1) (FType.ofCode (hi 2 4 (lo 6 (lo 7 f.b)))) (lo 2 (lo 4 (lo 6 (lo 7 f.b)))) (hi 4 3 (lo 7 f.c)) (Rm.ofCode (lo 3 (lo 7 f.c))))
  | 0x182 => .word (hdBad false .zero f.hd ++ off 27 (384 ≤ f.d.toNat) ++ off 16 ((hi 2 7 f.b) != 0#2)
        ++ off 11 ((hi 2 2 (lo 4 (lo 6 (lo 7 f.b)))) != 0#2) ++ off 3 ((hi 6 3 f.c) != 0#6)
        ++ off 0 (5 ≤ (lo 3 f.c).toNat) ++ off 13 ((FType.ofCode (hi 2 4 (lo 6 (lo 7 f.b)))) == FType.f64)
        ++ off 27 ((FType.ofCode (hi 2 4 (lo 6 (lo 7 f.b)))) == FType.f32 && 383 ≤ f.d.toNat)
        ++ off 0 ((FType.ofCode (hi 2 4 (lo 6 (lo 7 f.b)))) == FType.f32 && (Rm.ofCode (lo 3 f.c)) != Rm.rne))
      (.dqnt f.hd f.d f.a ((hi 1 6 (lo 7 f.b)) == 1#1) (FType.ofCode (hi 2 4 (lo 6 (lo 7 f.b)))) (lo 2 (lo 4 (lo 6 (lo 7 f.b)))) (Rm.ofCode (lo 3 f.c)))
  | 0x183 => .word (hdBad true .flags f.hd ++ off 27 (384 ≤ f.d.toNat) ++ off 3 ((hi 6 3 f.c) != 0#6)
        ++ off 0 ((IType.ofCode (lo 3 f.c)).bits == 64))
      (.pack f.hd f.d f.a f.b (IType.ofCode (lo 3 f.c)))
  | 0x184 => .word (hdBad true .flags f.hd ++ off 27 (384 ≤ f.d.toNat) ++ off 9 (f.b != 0#9)
        ++ off 4 ((hi 5 4 f.c) != 0#5) ++ off 0 ((IType.ofCode (lo 3 (lo 4 f.c))).bits == 64))
      (.unpk f.hd f.d f.a (hi 1 3 (lo 4 f.c)) (IType.ofCode (lo 3 (lo 4 f.c))))
  | 0x188 => .word (hdBad true .zero f.hd ++ off 27 (384 ≤ f.d.toNat) ++ off 3 ((hi 6 3 f.c) != 0#6))
      (.lget f.hd f.d f.a f.b (IType.ofCode (lo 3 f.c)))
  | 0x189 => .word (hdBad true .zero f.hd ++ off 27 (384 ≤ f.d.toNat) ++ off 3 ((hi 6 3 f.c) != 0#6))
      (.lput f.hd f.d f.a f.b (IType.ofCode (lo 3 f.c)))
  | 0x18A => .word (hdBad true .zero f.hd ++ off 27 (384 ≤ f.d.toNat) ++ off 7 (ShfMode.bad (hi 2 7 f.c))
        ++ off 5 ((hi 2 5 (lo 7 f.c)) != 0#2) ++ off 9 ((ShfMode.ofCode (hi 2 7 f.c)) == ShfMode.rot && f.b != 0#9))
      (.lshf f.hd f.d f.a f.b (ShfMode.ofCode (hi 2 7 f.c)) (lo 5 (lo 7 f.c)))
  | 0x18B => .word (hdBad true .zero f.hd ++ off 27 (384 ≤ f.d.toNat) ++ off 9 (f.b != 0#9)
        ++ off 5 ((hi 4 5 f.c) != 0#4))
      (.lbcst f.hd f.d f.a (lo 5 f.c))
  | 0x18C => .word (hdBad true .zero f.hd ++ off 27 (384 ≤ f.d.toNat) ++ off 9 (f.b != 0#9)
        ++ off 5 ((hi 4 5 f.c) != 0#4))
      (.lxor f.hd f.d f.a (lo 5 f.c))
  | 0x18D => .word (hdBad true .flags f.hd ++ off 27 (384 ≤ f.d.toNat) ++ off 12 (hi 6 3 f.b != 0#6)
        ++ off 9 (RedOp.rmBad (hi 4 5 f.c) (lo 3 f.b)) ++ off 5 (RedOp.opBad (hi 4 5 f.c))
        ++ off 3 (hi 2 3 (lo 5 f.c) != 0#2) ++ off 2 (RedOp.typeBad (hi 4 5 f.c) (lo 3 (lo 5 f.c))))
      (.lscan f.hd f.d f.a (RedOp.ofCode (hi 4 5 f.c) (lo 3 (lo 5 f.c)) (lo 3 f.b)))
  | 0x18E => .word (hdBad true .flags f.hd ++ off 27 (384 ≤ f.d.toNat) ++ off 12 (hi 6 3 f.b != 0#6)
        ++ off 9 (RedOp.rmBad (hi 4 5 f.c) (lo 3 f.b)) ++ off 5 (RedOp.opBad (hi 4 5 f.c))
        ++ off 3 (hi 2 3 (lo 5 f.c) != 0#2) ++ off 2 (RedOp.typeBad (hi 4 5 f.c) (lo 3 (lo 5 f.c))))
      (.lred f.hd f.d f.a (RedOp.ofCode (hi 4 5 f.c) (lo 3 (lo 5 f.c)) (lo 3 f.b)))
  | 0x18F => .word (hdBad true .flags f.hd ++ off 27 (384 ≤ f.d.toNat) ++ off 9 (f.b != 0#9)
        ++ off 2 ((hi 7 2 f.c) != 0#7) ++ off 0 (VoteMode.bad (lo 2 f.c)))
      (.lvote f.hd f.d f.a (VoteMode.ofCode (lo 2 f.c)))
  | 0x190 => .word (hdBad true .zero f.hd ++ off 27 (384 ≤ f.d.toNat) ++ off 18 (f.a != 0#9)
        ++ off 9 (f.b != 0#9) ++ off 0 (f.c != 0#9))
      (.rng f.hd f.d)
  | 0x191 => .word (hdBad false .zero f.hd ++ off 27 (f.d != 0#9) ++ off 18 (256 ≤ f.a.toNat)
        ++ off 9 (256 ≤ f.b.toNat) ++ off 0 (f.c != 0#9))
      (.rngset f.hd (lo 8 f.a) (lo 8 f.b))
  | _ => .illegal f.op.toNat

/-- Class 4 (Table 8.3). -/
def decodeMemory (f : Fields) : Dec :=
  match f.op.toNat with
  | 0x200 => .word (hdBad true .hint f.hd ++ off 27 (384 ≤ f.d.toNat) ++ off 18 (24 ≤ f.a.toNat)
        ++ off 4 (Fe.bad (hi 2 4 (lo 6 f.c))))
      (.ld f.hd f.d (lo 5 f.a) f.b (IType.ofCode (hi 3 6 f.c)) (Fe.ofCode (hi 2 4 (lo 6 f.c))) (lo 4 (lo 6 f.c)))
  | 0x201 => .word (hdBad true .hint f.hd ++ off 18 (24 ≤ f.a.toNat) ++ off 4 (Fe.bad (hi 2 4 (lo 6 f.c)))
        ++ off 4 ((Fe.ofCode (hi 2 4 (lo 6 f.c))) == Fe.fec))
      (.st f.hd f.d (lo 5 f.a) f.b (IType.ofCode (hi 3 6 f.c)) (Fe.ofCode (hi 2 4 (lo 6 f.c))) (lo 4 (lo 6 f.c)))
  | 0x202 => .word (hdBad true .zero f.hd ++ off 27 (384 ≤ f.d.toNat) ++ off 18 (f.a != 0#9)
        ++ off 4 (Fe.bad (hi 2 4 (lo 6 f.c))))
      (.lds f.hd f.d f.b (IType.ofCode (hi 3 6 f.c)) (Fe.ofCode (hi 2 4 (lo 6 f.c))) (lo 4 (lo 6 f.c)))
  | 0x203 => .word (hdBad true .zero f.hd ++ off 18 (f.a != 0#9) ++ off 4 (Fe.bad (hi 2 4 (lo 6 f.c)))
        ++ off 4 ((Fe.ofCode (hi 2 4 (lo 6 f.c))) == Fe.fec))
      (.sts f.hd f.d f.b (IType.ofCode (hi 3 6 f.c)) (Fe.ofCode (hi 2 4 (lo 6 f.c))) (lo 4 (lo 6 f.c)))
  | 0x204 => .word (hdBad true .hint f.hd ++ off 27 (383 ≤ f.d.toNat) ++ off 18 (24 ≤ f.a.toNat)
        ++ off 6 ((hi 3 6 f.c) != 0#3) ++ off 4 (Fe.bad (hi 2 4 (lo 6 f.c))))
      (.ldp f.hd f.d (lo 5 f.a) f.b (Fe.ofCode (hi 2 4 (lo 6 f.c))) (lo 4 (lo 6 f.c)))
  | 0x205 => .word (hdBad true .hint f.hd ++ off 27 (383 ≤ f.d.toNat) ++ off 18 (24 ≤ f.a.toNat)
        ++ off 6 ((hi 3 6 f.c) != 0#3) ++ off 4 (Fe.bad (hi 2 4 (lo 6 f.c)))
        ++ off 4 ((Fe.ofCode (hi 2 4 (lo 6 f.c))) == Fe.fec))
      (.stp f.hd f.d (lo 5 f.a) f.b (Fe.ofCode (hi 2 4 (lo 6 f.c))) (lo 4 (lo 6 f.c)))
  | 0x206 => .word (hdBad true .zero f.hd ++ off 27 (384 ≤ f.d.toNat) ++ off 18 (24 ≤ f.a.toNat)
        ++ off 2 (AtOp.bad (hi 4 2 (lo 6 f.c))) ++ off 0 ((lo 2 (lo 6 f.c)) != 0#2)
        ++ off 6 (atTypeBad (AtOp.ofCode (hi 4 2 (lo 6 f.c))) (IType.ofCode (hi 3 6 f.c)))
        ++ off 27 ((AtOp.ofCode (hi 4 2 (lo 6 f.c))) == AtOp.cas && 383 ≤ f.d.toNat))
      (.atom f.hd f.d (lo 5 f.a) f.b (AtOp.ofCode (hi 4 2 (lo 6 f.c))) (IType.ofCode (hi 3 6 f.c)))
  | 0x207 => .word (hdBad true .zero f.hd ++ off 27 (384 ≤ f.d.toNat) ++ off 18 (f.a != 0#9)
        ++ off 2 (AtOp.bad (hi 4 2 (lo 6 f.c))) ++ off 0 ((lo 2 (lo 6 f.c)) != 0#2)
        ++ off 6 (atTypeBad (AtOp.ofCode (hi 4 2 (lo 6 f.c))) (IType.ofCode (hi 3 6 f.c)))
        ++ off 27 ((AtOp.ofCode (hi 4 2 (lo 6 f.c))) == AtOp.cas && 383 ≤ f.d.toNat))
      (.atoms f.hd f.d f.b (AtOp.ofCode (hi 4 2 (lo 6 f.c))) (IType.ofCode (hi 3 6 f.c)))
  | 0x208 => .word (hdBad true .zero f.hd ++ off 27 (24 ≤ f.d.toNat) ++ off 0 (256 ≤ f.c.toNat))
      (.rst f.hd (lo 5 f.d) f.a f.b (lo 8 f.c))
  | 0x209 => .word (hdBad true .zero f.hd ++ off 18 (24 ≤ f.a.toNat) ++ off 2 (AtOp.bad (hi 4 2 (lo 6 f.c)))
        ++ off 0 ((lo 2 (lo 6 f.c)) != 0#2)
        ++ off 6 (atTypeBad (AtOp.ofCode (hi 4 2 (lo 6 f.c))) (IType.ofCode (hi 3 6 f.c)))
        ++ off 2 ((AtOp.ofCode (hi 4 2 (lo 6 f.c))) == AtOp.exch || (AtOp.ofCode (hi 4 2 (lo 6 f.c))) == AtOp.cas))
      (.ratom f.hd f.d (lo 5 f.a) f.b (AtOp.ofCode (hi 4 2 (lo 6 f.c))) (IType.ofCode (hi 3 6 f.c)))
  | 0x20A => .word (hdBad true .hint f.hd ++ off 27 (f.d != 0#9) ++ off 18 (24 ≤ f.a.toNat)
        ++ off 4 ((hi 2 4 (lo 6 f.c)) != 0#2))
      (.pref f.hd (lo 5 f.a) f.b (IType.ofCode (hi 3 6 f.c)) (lo 4 (lo 6 f.c)))
  | 0x20B => .word (hdBad false .zero f.hd ++ off 27 (f.d != 0#9)
        ++ off 18 (f.a.toNat < 16 || 24 ≤ f.a.toNat) ++ off 9 (256 ≤ f.b.toNat) ++ off 1 ((hi 8 1 f.c) != 0#8))
      (.stage f.hd (lo 5 f.a) (lo 8 f.b) ((lo 1 f.c) == 1#1))
  | 0x20C => .word (hdBad false .zero f.hd ++ off 27 (f.d != 0#9)
        ++ off 18 (f.a.toNat < 16 || 24 ≤ f.a.toNat) ++ off 9 (f.b != 0#9) ++ off 0 (f.c != 0#9))
      (.unstage f.hd (lo 5 f.a))
  | _ => .illegal f.op.toNat

/-- Class 5 (Tables 7.5 and 9.7). -/
def decodeRegion (f : Fields) : Dec :=
  match f.op.toNat with
  | 0x280 => .word (hdBad false .sf f.hd ++ off 27 (24 ≤ f.d.toNat) ++ off 18 (256 ≤ f.a.toNat)
        ++ off 9 (256 ≤ f.b.toNat) ++ off 6 ((hi 3 6 f.c) != 0#3)
        ++ off 3 (Kind.bad (hi 2 3 (lo 5 (lo 6 f.c)))) ++ off 0 ((lo 3 (lo 5 (lo 6 f.c))) != 0#3))
      (.brw f.hd (lo 5 f.d) (lo 8 f.a) (lo 8 f.b) ((hi 1 5 (lo 6 f.c)) == 1#1) (Kind.ofCode (hi 2 3 (lo 5 (lo 6 f.c)))))
  | 0x281 => .word (hdBad false .zero f.hd ++ off 27 (24 ≤ f.d.toNat) ++ off 18 (24 ≤ f.a.toNat)
        ++ off 9 (255 ≤ f.b.toNat) ++ off 2 ((hi 7 2 f.c) != 0#7) ++ off 0 (Kind.bad (lo 2 f.c))
        ++ off 0 ((Kind.ofCode (lo 2 f.c)) == Kind.a))
      (.rbrw f.hd (lo 5 f.d) (lo 5 f.a) (lo 8 f.b) (Kind.ofCode (lo 2 f.c)))
  | 0x282 => .word (hdBad false .zero f.hd ++ off 27 (24 ≤ f.d.toNat) ++ off 18 (24 ≤ f.a.toNat)
        ++ off 9 (f.b != 0#9) ++ off 6 ((hi 2 6 (lo 8 f.c)) != 0#2)
        ++ off 0 ((lo 6 (lo 8 f.c)).toNat < 2 || 32 < (lo 6 (lo 8 f.c)).toNat)
        ++ off 27 (splitBad ((hi 1 8 f.c) == 1#1) (lo 5 f.d) (lo 6 (lo 8 f.c))))
      (.split f.hd (lo 5 f.d) (lo 5 f.a) ((hi 1 8 f.c) == 1#1) (lo 6 (lo 8 f.c)))
  | 0x283 => .word (hdBad false .zero f.hd ++ off 27 (f.d != 0#9) ++ off 18 (24 ≤ f.a.toNat)
        ++ off 9 (f.b != 0#9) ++ off 0 (f.c != 0#9))
      (.join f.hd (lo 5 f.a))
  | 0x284 => .word (hdBad false .zero f.hd ++ off 27 (f.d != 0#9) ++ off 18 (24 ≤ f.a.toNat)
        ++ off 9 (f.b != 0#9) ++ off 0 (f.c != 0#9))
      (.rtn f.hd (lo 5 f.a))
  | 0x285 => .word (hdBad false .zero f.hd ++ off 27 (f.d.toNat < 1 || 254 ≤ f.d.toNat)
        ++ off 18 (24 ≤ f.a.toNat) ++ off 9 (f.b != 0#9) ++ off 0 (f.c != 0#9))
      (.rgq f.hd (lo 8 f.d) (lo 5 f.a))
  | 0x286 => .word (hdBad false .zero f.hd ++ off 27 (24 ≤ f.d.toNat) ++ off 18 (24 ≤ f.a.toNat)
        ++ off 9 (256 ≤ f.b.toNat) ++ off 0 (f.c != 0#9) ++ off 9 (16 ≤ (lo 5 f.d).toNat && (lo 8 f.b) != 0#8))
      (.rgmv f.hd (lo 5 f.d) (lo 5 f.a) (lo 8 f.b))
  | 0x290 => .word (hdBad false .zero f.hd ++ off 27 (f.d != 0#9) ++ off 18 (f.a != 0#9)
        ++ off 9 (f.b != 0#9) ++ off 3 ((hi 6 3 f.c) != 0#6) ++ off 0 (Scope.bad (lo 3 f.c)))
      (.fence f.hd (Scope.ofCode (lo 3 f.c)))
  | 0x291 => .word (hdBad false .zero f.hd ++ off 27 (f.d != 0#9) ++ off 18 (f.a != 0#9)
        ++ off 9 (f.b != 0#9) ++ off 0 (f.c != 0#9))
      (.stmpw f.hd)
  | 0x292 => .word (hdBad false .zero f.hd ++ off 27 (f.d != 0#9) ++ off 18 (f.a != 0#9)
        ++ off 9 (f.b != 0#9) ++ off 0 (f.c != 0#9))
      (.stmpp f.hd)
  | 0x293 => .word (hdBad false .zero f.hd ++ off 27 (256 ≤ f.d.toNat) ++ off 18 (f.a != 0#9)
        ++ off 9 (f.b != 0#9) ++ off 0 (f.c != 0#9))
      (.cseal f.hd (lo 8 f.d))
  | 0x294 => .word (hdBad false .zero f.hd ++ off 27 (f.d != 0#9) ++ off 18 (256 ≤ f.a.toNat)
        ++ off 9 (f.b != 0#9) ++ off 0 (f.c != 0#9))
      (.cwait f.hd (lo 8 f.a))
  | _ => .illegal f.op.toNat

/-- Class 6 (Tables 10.4, 11.2 and 12.1). -/
def decodeEngine (f : Fields) : Dec :=
  match f.op.toNat with
  | 0x300 => .word (hdBad false .zero f.hd ++ off 27 (f.d != 0#9) ++ off 18 (256 ≤ f.a.toNat)
        ++ off 11 ((hi 7 11 (f.b ++ f.c)) != 0#7))
      (.binit f.hd (lo 8 f.a) (lo 11 (f.b ++ f.c)))
  | 0x301 => .word (hdBad false .zero f.hd ++ off 27 (256 ≤ f.d.toNat) ++ off 19 ((hi 8 1 f.a) != 0#8)
        ++ off 11 ((hi 7 11 (f.b ++ f.c)) != 0#7))
      (.barr f.hd (lo 8 f.d) ((lo 1 f.a) == 1#1) (lo 11 (f.b ++ f.c)))
  | 0x302 => .word (hdBad false .zero f.hd ++ off 27 (f.d != 0#9) ++ off 18 (256 ≤ f.a.toNat)
        ++ off 11 ((hi 7 11 (f.b ++ f.c)) != 0#7))
      (.bexp f.hd (lo 8 f.a) (lo 11 (f.b ++ f.c)))
  | 0x303 => .word (hdBad false .zero f.hd ++ off 27 (f.d != 0#9) ++ off 18 (256 ≤ f.a.toNat)
        ++ off 11 ((hi 7 11 (f.b ++ f.c)) != 0#7))
      (.bwait f.hd (lo 8 f.a) (lo 11 (f.b ++ f.c)))
  | 0x304 => .word (hdBad false .sf f.hd ++ off 27 (256 ≤ f.d.toNat) ++ off 18 (256 ≤ f.a.toNat)
        ++ off 11 ((hi 7 11 (f.b ++ f.c)) != 0#7))
      (.btest f.hd (lo 8 f.d) (lo 8 f.a) (lo 11 (f.b ++ f.c)))
  | 0x310 => .word (hdBad false .zero f.hd ++ off 27 (16 ≤ f.d.toNat) ++ off 18 (256 ≤ f.a.toNat)
        ++ off 9 (f.b != 0#9) ++ off 0 (f.c != 0#9))
      (.chinit f.hd (lo 4 f.d) (lo 8 f.a))
  | 0x311 => .word (hdBad false .zero f.hd ++ off 27 (f.d != 0#9) ++ off 18 (384 ≤ f.a.toNat)
        ++ off 9 (256 ≤ f.b.toNat) ++ off 0 (f.c != 0#9))
      (.chpush f.hd f.a (lo 8 f.b))
  | 0x312 => .word (hdBad false .zero f.hd ++ off 27 (384 ≤ f.d.toNat) ++ off 18 (16 ≤ f.a.toNat)
        ++ off 9 (f.b != 0#9) ++ off 0 (f.c != 0#9))
      (.chpop f.hd f.d (lo 4 f.a))
  | 0x313 => .word (hdBad false .zero f.hd ++ off 27 (256 ≤ f.d.toNat) ++ off 18 (16 ≤ f.a.toNat)
        ++ off 9 (f.b != 0#9) ++ off 0 (f.c != 0#9))
      (.chstat f.hd (lo 8 f.d) (lo 4 f.a))
  | 0x314 => .word (hdBad false .zero f.hd ++ off 27 (endpBad true f.d) ++ off 18 (endpBad true f.a)
        ++ off 9 (254 ≤ f.b.toNat) ++ off 0 (256 ≤ f.c.toNat))
      (.copy f.hd (Endp.ofCode f.d) (Endp.ofCode f.a) (lo 8 f.b) (lo 8 f.c))
  | 0x315 => .word (hdBad false .zero f.hd ++ off 27 (endpBad true f.d) ++ off 18 (endpBad true f.a)
        ++ off 9 (252 ≤ f.b.toNat) ++ off 0 (256 ≤ f.c.toNat))
      (.copy2 f.hd (Endp.ofCode f.d) (Endp.ofCode f.a) (lo 8 f.b) (lo 8 f.c))
  | 0x316 => .word (hdBad false .zero f.hd ++ off 27 (endpBad true f.d) ++ off 18 (endpBad true f.a)
        ++ off 9 (254 ≤ f.b.toNat) ++ off 0 (256 ≤ f.c.toNat))
      (.gath f.hd (Endp.ofCode f.d) (Endp.ofCode f.a) (lo 8 f.b) (lo 8 f.c))
  | 0x317 => .word (hdBad false .zero f.hd ++ off 27 (endpBad true f.d) ++ off 18 (endpBad true f.a)
        ++ off 9 (254 ≤ f.b.toNat) ++ off 0 (256 ≤ f.c.toNat))
      (.scat f.hd (Endp.ofCode f.d) (Endp.ofCode f.a) (lo 8 f.b) (lo 8 f.c))
  | 0x318 => .word (hdBad false .zero f.hd ++ off 27 (256 ≤ f.d.toNat) ++ off 18 (254 ≤ f.a.toNat)
        ++ off 9 (256 ≤ f.b.toNat) ++ off 0 (256 ≤ f.c.toNat))
      (.route f.hd (lo 8 f.d) (lo 8 f.a) (lo 8 f.b) (lo 8 f.c))
  | 0x320 => .word (hdBad false .zero f.hd ++ off 27 (16 ≤ f.d.toNat) ++ off 18 (256 ≤ f.a.toNat)
        ++ off 9 (f.b != 0#9) ++ off 0 (f.c != 0#9))
      (.cvinit f.hd (lo 4 f.d) (lo 8 f.a))
  | 0x321 => .word (hdBad false .zero f.hd ++ off 34 ((hi 2 7 f.d) != 0#2) ++ off 9 (256 ≤ f.b.toNat)
        ++ off 3 ((hi 2 3 (lo 5 (lo 7 f.c))) != 0#2) ++ off 0 (MFmt.bad (lo 3 (lo 5 (lo 7 f.c))))
        ++ off 0 (mmaLenBad (MFmt.ofCode (lo 3 (lo 5 (lo 7 f.c)))) (hi 2 7 f.c) (hi 2 5 (lo 7 f.c))))
      (.mma f.hd ((hi 1 6 (lo 7 f.d)) == 1#1) (lo 6 (lo 7 f.d)) (hi 3 6 f.a) (hi 2 4 (lo 6 f.a)) (lo 4 (lo 6 f.a)) (lo 8 f.b) (hi 2 7 f.c) (hi 2 5 (lo 7 f.c)) (MFmt.ofCode (lo 3 (lo 5 (lo 7 f.c)))))
  | 0x322 => .word (hdBad false .zero f.hd ++ off 27 (f.d != 0#9) ++ off 18 (f.a != 0#9)
        ++ off 9 (f.b != 0#9) ++ off 0 (f.c != 0#9))
      (.mwait f.hd)
  | 0x323 => .word (hdBad false .zero f.hd ++ off 27 (4 ≤ f.d.toNat) ++ off 18 (254 ≤ f.a.toNat)
        ++ off 9 (f.b != 0#9) ++ off 0 (f.c != 0#9))
      (.lace f.hd (lo 2 f.d) (lo 8 f.a))
  | 0x324 => .word (hdBad false .zero f.hd ++ off 27 (8 ≤ f.d.toNat) ++ off 18 (256 ≤ f.a.toNat)
        ++ off 9 (256 ≤ f.b.toNat) ++ off 0 (f.c != 0#9))
      (.obres f.hd (lo 3 f.d) (lo 8 f.a) (lo 8 f.b))
  | 0x325 => .word (hdBad false .zero f.hd ++ off 27 (8 ≤ f.d.toNat) ++ off 18 (256 ≤ f.a.toNat)
        ++ off 9 (256 ≤ f.b.toNat) ++ off 0 (f.c != 0#9))
      (.obld f.hd (lo 3 f.d) (lo 8 f.a) (lo 8 f.b))
  | 0x326 => .word (hdBad false .zero f.hd ++ off 27 (8 ≤ f.d.toNat) ++ off 18 (f.a != 0#9)
        ++ off 9 (f.b != 0#9) ++ off 0 (f.c != 0#9))
      (.obrel f.hd (lo 3 f.d))
  | 0x327 => .word (hdBad false .zero f.hd ++ off 33 ((hi 3 6 f.d) != 0#3) ++ off 18 (254 ≤ f.a.toNat)
        ++ off 9 (256 ≤ f.b.toNat) ++ off 6 ((hi 3 6 f.c) != 0#3)
        ++ off 0 ((FType.ofCode (lo 2 (lo 4 (lo 5 (lo 6 f.c))))) == FType.f64))
      (.mdrain f.hd (lo 6 f.d) (lo 8 f.a) (lo 8 f.b) ((hi 1 5 (lo 6 f.c)) == 1#1) ((hi 1 4 (lo 5 (lo 6 f.c))) == 1#1) (Rm.ofCode2 (hi 2 2 (lo 4 (lo 5 (lo 6 f.c))))) (FType.ofCode (lo 2 (lo 4 (lo 5 (lo 6 f.c))))))
  | _ => .illegal f.op.toNat

/-- Class 7 (Tables 13.1, 14.6 and 20.6). -/
def decodeSystem (f : Fields) : Dec :=
  match f.op.toNat with
  | 0x380 => .word (hdBad false .zero f.hd ++ off 27 (16 ≤ f.d.toNat) ++ off 18 (16 ≤ f.a.toNat)
        ++ off 9 (16 ≤ f.b.toNat) ++ off 0 (f.c != 0#9))
      (.hbind f.hd (lo 4 f.d) (lo 4 f.a) (lo 4 f.b))
  | 0x381 => .word (hdBad false .zero f.hd ++ off 27 (16 ≤ f.d.toNat) ++ off 18 (16 ≤ f.a.toNat)
        ++ off 9 (256 ≤ f.b.toNat) ++ off 0 (f.c != 0#9))
      (.hperm f.hd (lo 4 f.d) (lo 4 f.a) (lo 8 f.b))
  | 0x382 => .word (hdBad false .zero f.hd ++ off 27 (2 ≤ f.d.toNat) ++ off 18 (16 ≤ f.a.toNat)
        ++ off 9 (f.b != 0#9) ++ off 0 (f.c != 0#9))
      (.hbund f.hd (lo 1 f.d) (lo 4 f.a))
  | 0x383 => .word (hdBad false .zero f.hd ++ off 27 (16 ≤ f.d.toNat) ++ off 18 (2 ≤ f.a.toNat)
        ++ off 9 (f.b != 0#9) ++ off 0 (f.c != 0#9))
      (.hthr f.hd (lo 4 f.d) (lo 1 f.a))
  | 0x384 => .word (hdBad false .zero f.hd ++ off 27 (2 ≤ f.d.toNat) ++ off 18 (f.a != 0#9)
        ++ off 9 (f.b != 0#9) ++ off 0 (f.c != 0#9))
      (.hclr f.hd (lo 1 f.d))
  | 0x385 => .word (hdBad false .zero f.hd ++ off 27 (16 ≤ f.d.toNat) ++ off 18 (endpBad false f.a)
        ++ off 9 (256 ≤ f.b.toNat) ++ off 0 (f.c != 0#9))
      (.hld f.hd (lo 4 f.d) (Endp.ofCode f.a) (lo 8 f.b))
  | 0x386 => .word (hdBad false .zero f.hd ++ off 27 (16 ≤ f.d.toNat) ++ off 18 (endpBad false f.a)
        ++ off 9 (256 ≤ f.b.toNat) ++ off 0 (f.c != 0#9))
      (.hst f.hd (lo 4 f.d) (Endp.ofCode f.a) (lo 8 f.b))
  | 0x387 => .word (hdBad false .zero f.hd ++ off 27 (16 ≤ f.d.toNat) ++ off 18 (256 ≤ f.a.toNat)
        ++ off 9 (f.b != 0#9) ++ off 0 (f.c != 0#9))
      (.hset f.hd (lo 4 f.d) (lo 8 f.a))
  | 0x388 => .word (hdBad false .zero f.hd ++ off 27 (256 ≤ f.d.toNat) ++ off 18 (16 ≤ f.a.toNat)
        ++ off 9 (16 ≤ f.b.toNat) ++ off 0 (f.c != 0#9))
      (.hdist f.hd (lo 8 f.d) (lo 4 f.a) (lo 4 f.b))
  | 0x389 => .word (hdBad false .zero f.hd ++ off 27 (256 ≤ f.d.toNat) ++ off 18 (16 ≤ f.a.toNat)
        ++ off 9 (f.b != 0#9) ++ off 0 (f.c != 0#9))
      (.hpop f.hd (lo 8 f.d) (lo 4 f.a))
  | 0x38A => .word (hdBad false .zero f.hd ++ off 27 (f.d != 0#9) ++ off 18 (16 ≤ f.a.toNat)
        ++ off 9 (f.b != 0#9) ++ off 0 (f.c != 0#9))
      (.htie f.hd (lo 4 f.a))
  | 0x38B => .word (hdBad false .zero f.hd ++ off 27 (f.d != 0#9) ++ off 18 (f.a != 0#9)
        ++ off 9 (f.b != 0#9) ++ off 2 ((hi 7 2 f.c) != 0#7) ++ off 0 (CtrW.bad (lo 2 f.c)))
      (.hcw f.hd (CtrW.ofCode (lo 2 f.c)))
  | 0x38C => .word (hdBad false .zero f.hd ++ off 27 (f.d.toNat < 1 || 255 ≤ f.d.toNat)
        ++ off 18 (16 ≤ f.a.toNat) ++ off 9 (256 ≤ f.b.toNat) ++ off 0 (f.c != 0#9))
      (.hsrch f.hd (lo 8 f.d) (lo 4 f.a) (lo 8 f.b))
  | 0x38D => .word (hdBad false .zero f.hd ++ off 27 (f.d.toNat < 1 || 253 ≤ f.d.toNat)
        ++ off 18 (16 ≤ f.a.toNat) ++ off 9 (256 ≤ f.b.toNat) ++ off 0 (f.c != 0#9))
      (.hsrch2 f.hd (lo 8 f.d) (lo 4 f.a) (lo 8 f.b))
  | 0x3C0 => .word (hdBad false .zero f.hd ++ off 27 (f.d != 0#9) ++ off 18 (f.a != 0#9))
      (.trap f.hd (f.b ++ f.c))
  | 0x3C1 => .word (hdBad false .zero f.hd ++ off 27 (f.d != 0#9) ++ off 18 (f.a != 0#9)
        ++ off 9 (f.b != 0#9) ++ off 1 ((hi 8 1 f.c) != 0#8))
      (.tret f.hd ((lo 1 f.c) == 1#1))
  | 0x3C2 => .word (hdBad (!((lo 1 f.c) == 1#1)) .zero f.hd ++ off 18 (15 ≤ f.a.toNat) ++ off 9 (f.b != 0#9)
        ++ off 1 ((hi 8 1 f.c) != 0#8) ++ off 27 (mfsDestBad ((lo 1 f.c) == 1#1) f.d)
        ++ off 18 (((lo 1 f.c) == 1#1) && (Special.ofCode f.a) == Special.lane))
      (.mfs f.hd f.d (Special.ofCode f.a) ((lo 1 f.c) == 1#1))
  | 0x3C3 => .word (hdBad false .zero f.hd ++ off 27 (f.d.toNat < 9 || 13 ≤ f.d.toNat)
        ++ off 18 (256 ≤ f.a.toNat) ++ off 9 (f.b != 0#9) ++ off 0 (f.c != 0#9))
      (.mts f.hd (Special.ofCode f.d) (lo 8 f.a))
  | 0x3C4 => .word (hdBad false .zero f.hd ++ off 27 (256 ≤ f.d.toNat) ++ off 18 (256 ≤ f.a.toNat)
        ++ off 9 (256 ≤ f.b.toNat) ++ off 0 (f.c != 0#9))
      (.dist f.hd (lo 8 f.d) (lo 8 f.a) (lo 8 f.b))
  | 0x3C5 => .word (hdBad false .zero f.hd ++ off 27 (f.d != 0#9) ++ off 18 (256 ≤ f.a.toNat)
        ++ off 9 (f.b != 0#9) ++ off 0 (f.c != 0#9))
      (.halt f.hd (lo 8 f.a))
  | 0x3D0 => .word (hdBad false .zero f.hd ++ off 27 (f.d.toNat < 1 || 254 ≤ f.d.toNat)
        ++ off 18 (f.a != 0#9) ++ off 9 (f.b != 0#9) ++ off 0 (f.c != 0#9))
      (.slotq f.hd (lo 8 f.d))
  | 0x3D1 => .word (hdBad false .zero f.hd ++ off 27 (f.d != 0#9) ++ off 18 (256 ≤ f.a.toNat)
        ++ off 9 (f.b != 0#9) ++ off 0 (f.c != 0#9))
      (.smpcfg f.hd (lo 8 f.a))
  | 0x3D2 => .smpon (hdBad false .zero f.hd ++ off 27 (f.d != 0#9) ++ off 18 (256 ≤ f.a.toNat)
        ++ off 9 (f.b != 0#9) ++ off 0 (f.c != 0#9))
      f.hd (lo 8 f.a)
  | 0x3D3 => .smpoff (hdBad false .zero f.hd ++ off 27 (256 ≤ f.d.toNat) ++ off 18 (f.a != 0#9)
        ++ off 9 (f.b != 0#9) ++ off 0 (f.c != 0#9))
      f.hd (lo 8 f.d)
  | _ => .illegal f.op.toNat

/-- Decode of a full-form word by its class (R72, Table 3.9). -/
def decodeFields (f : Fields) : Dec :=
  match (hi 3 7 f.op).toNat with
  | 0 => decodeControl f
  | 1 => if f.op.toNat < 0x0C0 then decodeIntegerVector f else decodeIntegerScalar f
  | 2 => decodeFloat f
  | 3 => decodeConvert f
  | 4 => decodeMemory f
  | 5 => decodeRegion f
  | 6 => decodeEngine f
  | _ => decodeSystem f

/-- Table 3.10. -/
def PairOp.code : PairOp → BitVec 7
  | .nop => 0x00 | .mov => 0x01
  | .add .w64 => 0x04 | .add .w32 => 0x05 | .add .w16 => 0x06 | .add .w8 => 0x07
  | .sub .w64 => 0x08 | .sub .w32 => 0x09 | .sub .w16 => 0x0A | .sub .w8 => 0x0B
  | .min true => 0x0C | .max true => 0x0D | .min false => 0x0E | .max false => 0x0F
  | .and => 0x10 | .or => 0x11 | .xor => 0x12 | .andn => 0x13
  | .fadd .f32 => 0x20 | .fadd .f16 => 0x21 | .fadd .bf16 => 0x22 | .fadd .f64 => 0x23
  | .fmul .f32 => 0x24 | .fmul .f16 => 0x25 | .fmul .bf16 => 0x26 | .fmul .f64 => 0x27
  | .fmin .f32 => 0x28 | .fmin .f16 => 0x29 | .fmin .bf16 => 0x2A | .fmin .f64 => 0x2B
  | .fmax .f32 => 0x2C | .fmax .f16 => 0x2D | .fmax .bf16 => 0x2E | .fmax .f64 => 0x2F

/-- Table 3.10; any other op7 is unassigned (R68). -/
def PairOp.ofCode (c : BitVec 7) : Option PairOp :=
  match c.toNat with
  | 0x00 => some .nop | 0x01 => some .mov
  | 0x04 => some (.add .w64) | 0x05 => some (.add .w32) | 0x06 => some (.add .w16) | 0x07 => some (.add .w8)
  | 0x08 => some (.sub .w64) | 0x09 => some (.sub .w32) | 0x0A => some (.sub .w16) | 0x0B => some (.sub .w8)
  | 0x0C => some (.min true) | 0x0D => some (.max true) | 0x0E => some (.min false) | 0x0F => some (.max false)
  | 0x10 => some .and | 0x11 => some .or | 0x12 => some .xor | 0x13 => some .andn
  | 0x20 => some (.fadd .f32) | 0x21 => some (.fadd .f16) | 0x22 => some (.fadd .bf16) | 0x23 => some (.fadd .f64)
  | 0x24 => some (.fmul .f32) | 0x25 => some (.fmul .f16) | 0x26 => some (.fmul .bf16) | 0x27 => some (.fmul .f64)
  | 0x28 => some (.fmin .f32) | 0x29 => some (.fmin .f16) | 0x2A => some (.fmin .bf16) | 0x2B => some (.fmin .f64)
  | 0x2C => some (.fmax .f32) | 0x2D => some (.fmax .f16) | 0x2E => some (.fmax .bf16) | 0x2F => some (.fmax .f64)
  | _ => none

/-- One slot of a paired word as it stands (Table 3.8). -/
structure RawSlot where
  op7 : BitVec 7
  d : BitVec 8
  a : BitVec 8
  g : BitVec 4
  sc : BitVec 3
  rz : BitVec 1
deriving DecidableEq, Repr

/-- The slot layout of Table 3.8. -/
def unpackSlot (s : BitVec 31) : RawSlot :=
  let s1 := lo 24 s
  let s2 := lo 16 s1
  let s3 := lo 8 s2
  let s4 := lo 4 s3
  { op7 := hi 7 24 s, d := hi 8 16 s1, a := hi 8 8 s2, g := hi 4 4 s3, sc := hi 3 1 s4, rz := lo 1 s4 }

/-- The slot layout of Table 3.8. -/
def packSlot (s : Slot) (sc : BitVec 3) : BitVec 31 :=
  (s.op.code ++ (s.d ++ (s.a ++ (s.g.code ++ (sc ++ 0#1)))) : BitVec 31)

/-- Offences of a slot whose lowest bit is word bit `p`: the reserved bit, and the fields of a NOP slot (R67). -/
def slotBad (p : Nat) (s : RawSlot) : List Nat :=
  let nop := s.op7 == 0
  off (p + 16) (nop && s.d != 0) ++ off (p + 8) (nop && s.a != 0) ++ off (p + 4) (nop && s.g != 0) ++ off p (s.rz != 0)

/-- The instruction of a paired word; the constructor names slot X. -/
def mkPair (x : Slot) (sc : BitVec 3) (y : Slot) : Instr :=
  match x.op with
  | .nop => .pairNop sc y
  | .mov => .pairMov sc x.d x.a x.g y
  | .add w => .pairAdd sc w x.d x.a x.g y
  | .sub w => .pairSub sc w x.d x.a x.g y
  | .min sg => .pairMin sc sg x.d x.a x.g y
  | .max sg => .pairMax sc sg x.d x.a x.g y
  | .and => .pairAnd sc x.d x.a x.g y
  | .or => .pairOr sc x.d x.a x.g y
  | .xor => .pairXor sc x.d x.a x.g y
  | .andn => .pairAndn sc x.d x.a x.g y
  | .fadd f => .pairFadd sc f x.d x.a x.g y
  | .fmul f => .pairFmul sc f x.d x.a x.g y
  | .fmin f => .pairFmin sc f x.d x.a x.g y
  | .fmax f => .pairFmax sc f x.d x.a x.g y

/-- Decode of a paired word (R66, R68, R70): an unassigned op7 first, slot X before slot Y, then the reserved bits. -/
def decodePaired (w : BitVec 63) : Dec :=
  let x := unpackSlot (hi 31 31 (lo 62 w))
  let y := unpackSlot (lo 31 (lo 62 w))
  match PairOp.ofCode x.op7, PairOp.ofCode y.op7 with
  | none, _ => .illegal (0x180 + x.op7.toNat)
  | some _, none => .illegal (0x100 + y.op7.toNat)
  | some ox, some oy =>
    .word (off 62 (hi 1 62 w != 0#1) ++ slotBad 31 x ++ off 32 (x.sc != 0) ++ slotBad 0 y)
      (mkPair ⟨ox, x.d, x.a, Cond.ofCode x.g⟩ y.sc ⟨oy, y.d, y.a, Cond.ofCode y.g⟩)

/-- Decode of any 64 bits; bit 63 selects the form (R50). -/
def decodeWord (w : Word) : Dec :=
  if hi 1 63 w == 1#1 then decodePaired (lo 63 w) else decodeFields (unpackFields (lo 63 w))

/-- A paired word whose slots share a bank (R67). -/
def pairClash (i : Instr) : Bool :=
  match i.paired? with
  | some (x, _, y) => !banksDisjoint x y
  | none => false

/-- The instruction of a word that passes every check of R70 that needs no state. -/
noncomputable def decode (w : Word) : Option Instr :=
  match decodeWord w with
  | .illegal _ => none
  | .word bad i => if bad.isEmpty && !pairClash i then some i else none
  | .smpon bad h a => if bad.isEmpty then some (.smpon h a) else none
  | .smpoff bad h d => if bad.isEmpty then some (.smpoff h d) else none

/-- The fields of a full-form instruction; for paired instructions and events, no word. -/
def encodeFull (i : Instr) : Word :=
  match i with
  | .nop h => mk h 0x000#10 0#9 0#9 0#9 0#9
  | .bra h off => mk h 0x001#10 0#9 (hi 9 18 off) (hi 9 9 (lo 18 off)) (lo 9 (lo 18 off))
  | .brc h d off => mk h 0x002#10 d (hi 9 18 off) (hi 9 9 (lo 18 off)) (lo 9 (lo 18 off))
  | .brx h a => mk h 0x003#10 0#9 a 0#9 0#9
  | .call h d off => mk h 0x004#10 d (hi 9 18 off) (hi 9 9 (lo 18 off)) (lo 9 (lo 18 off))
  | .callx h d a => mk h 0x005#10 d a 0#9 0#9
  | .ret h a => mk h 0x006#10 0#9 a 0#9 0#9
  | .loop h a off => mk h 0x008#10 0#9 (0#1 ++ a) (hi 9 9 off) (lo 9 off)
  | .endl h => mk h 0x009#10 0#9 0#9 0#9 0#9
  | .lbrk h => mk h 0x00A#10 0#9 0#9 0#9 0#9
  | .spawn h d a b => mk h 0x010#10 d a (0#1 ++ b) 0#9
  | .endFibre h => mk h 0x011#10 0#9 0#9 0#9 0#9
  | .yield h => mk h 0x012#10 0#9 0#9 0#9 0#9
  | .sleep h n => mk h 0x013#10 0#9 0#9 (hi 9 9 n) (lo 9 n)
  | .fbar h a => mk h 0x014#10 0#9 (0#1 ++ a) 0#9 0#9
  | .icinv h => mk h 0x018#10 0#9 0#9 0#9 0#9
  | .mov h d a => mk h 0x080#10 d a 0#9 0#9
  | .movFromCc h d => mk h 0x080#10 d 0#9 0#9 3#9
  | .movToCc h a => mk h 0x080#10 0#9 a 0#9 4#9
  | .movScalar h d a => mk h 0x0C0#10 (0#1 ++ d) (0#1 ++ a) 0#9 0#9
  | .movFromSf h d => mk h 0x0C0#10 (0#1 ++ d) 0#9 0#9 1#9
  | .movToSf h a => mk h 0x0C0#10 0#9 (0#1 ++ a) 0#9 2#9
  | .movi h d imm => mk h 0x081#10 d 0#9 (hi 9 9 imm) (lo 9 imm)
  | .moviScalar h d imm => mk h 0x0C1#10 (0#1 ++ d) 0#9 (hi 9 9 imm) (lo 9 imm)
  | .movh h d k imm => mk h 0x082#10 d (0#7 ++ k) (hi 9 9 imm) (lo 9 imm)
  | .movhScalar h d k imm => mk h 0x0C2#10 (0#1 ++ d) (0#7 ++ k) (hi 9 9 imm) (lo 9 imm)
  | .add h d a b t => mk h 0x083#10 d a b (0#6 ++ t.code)
  | .addScalar h d a b t => mk h 0x0C3#10 (0#1 ++ d) (0#1 ++ a) (0#1 ++ b) (0#6 ++ t.code)
  | .addImm h d a t imm => mk h 0x084#10 d a (hi 9 9 (t.code ++ imm)) (lo 9 (t.code ++ imm))
  | .addImmScalar h d a t imm => mk h 0x0C4#10 (0#1 ++ d) (0#1 ++ a) (hi 9 9 (t.code ++ imm)) (lo 9 (t.code ++ imm))
  | .addc h d a b n t => mk h 0x085#10 d a b (0#4 ++ (n ++ t.code))
  | .addcScalar h d a b t => mk h 0x0C5#10 (0#1 ++ d) (0#1 ++ a) (0#1 ++ b) (0#4 ++ (0#2 ++ t.code))
  | .sub h d a b t => mk h 0x086#10 d a b (0#6 ++ t.code)
  | .subScalar h d a b t => mk h 0x0C6#10 (0#1 ++ d) (0#1 ++ a) (0#1 ++ b) (0#6 ++ t.code)
  | .subb h d a b n t => mk h 0x087#10 d a b (0#4 ++ (n ++ t.code))
  | .subbScalar h d a b t => mk h 0x0C7#10 (0#1 ++ d) (0#1 ++ a) (0#1 ++ b) (0#4 ++ (0#2 ++ t.code))
  | .mul h d a b t => mk h 0x088#10 d a b (0#6 ++ t.code)
  | .mulScalar h d a b t => mk h 0x0C8#10 (0#1 ++ d) (0#1 ++ a) (0#1 ++ b) (0#6 ++ t.code)
  | .mulh h d a b t => mk h 0x089#10 d a b (0#6 ++ t.code)
  | .mulhScalar h d a b t => mk h 0x0C9#10 (0#1 ++ d) (0#1 ++ a) (0#1 ++ b) (0#6 ++ t.code)
  | .madI32 h d a b c => mk h 0x08A#10 d a b c
  | .madI32Scalar h d a b c => mk h 0x0CA#10 (0#1 ++ d) (0#1 ++ a) (0#1 ++ b) (0#1 ++ c)
  | .madN32 h d a b c => mk h 0x08B#10 d a b c
  | .madN32Scalar h d a b c => mk h 0x0CB#10 (0#1 ++ d) (0#1 ++ a) (0#1 ++ b) (0#1 ++ c)
  | .madI64 h d a b c => mk h 0x08C#10 d a b c
  | .madI64Scalar h d a b c => mk h 0x0CC#10 (0#1 ++ d) (0#1 ++ a) (0#1 ++ b) (0#1 ++ c)
  | .madN64 h d a b c => mk h 0x08D#10 d a b c
  | .madN64Scalar h d a b c => mk h 0x0CD#10 (0#1 ++ d) (0#1 ++ a) (0#1 ++ b) (0#1 ++ c)
  | .div h d a b t => mk h 0x08E#10 d a b (0#6 ++ t.code)
  | .divScalar h d a b t => mk h 0x0CE#10 (0#1 ++ d) (0#1 ++ a) (0#1 ++ b) (0#6 ++ t.code)
  | .rem h d a b t => mk h 0x08F#10 d a b (0#6 ++ t.code)
  | .remScalar h d a b t => mk h 0x0CF#10 (0#1 ++ d) (0#1 ++ a) (0#1 ++ b) (0#6 ++ t.code)
  | .min h d a b t => mk h 0x090#10 d a b (0#6 ++ t.code)
  | .minScalar h d a b t => mk h 0x0D0#10 (0#1 ++ d) (0#1 ++ a) (0#1 ++ b) (0#6 ++ t.code)
  | .max h d a b t => mk h 0x091#10 d a b (0#6 ++ t.code)
  | .maxScalar h d a b t => mk h 0x0D1#10 (0#1 ++ d) (0#1 ++ a) (0#1 ++ b) (0#6 ++ t.code)
  | .abs h d a t => mk h 0x092#10 d a 0#9 (0#6 ++ t.code)
  | .absScalar h d a t => mk h 0x0D2#10 (0#1 ++ d) (0#1 ++ a) 0#9 (0#6 ++ t.code)
  | .neg h d a t => mk h 0x093#10 d a 0#9 (0#6 ++ t.code)
  | .negScalar h d a t => mk h 0x0D3#10 (0#1 ++ d) (0#1 ++ a) 0#9 (0#6 ++ t.code)
  | .and h d a b t => mk h 0x094#10 d a b (0#6 ++ t.code)
  | .andScalar h d a b t => mk h 0x0D4#10 (0#1 ++ d) (0#1 ++ a) (0#1 ++ b) (0#6 ++ t.code)
  | .andImm h d a t imm => mk h 0x095#10 d a (hi 9 9 (t.code ++ imm)) (lo 9 (t.code ++ imm))
  | .andImmScalar h d a t imm => mk h 0x0D5#10 (0#1 ++ d) (0#1 ++ a) (hi 9 9 (t.code ++ imm)) (lo 9 (t.code ++ imm))
  | .or h d a b t => mk h 0x096#10 d a b (0#6 ++ t.code)
  | .orScalar h d a b t => mk h 0x0D6#10 (0#1 ++ d) (0#1 ++ a) (0#1 ++ b) (0#6 ++ t.code)
  | .orImm h d a t imm => mk h 0x097#10 d a (hi 9 9 (t.code ++ imm)) (lo 9 (t.code ++ imm))
  | .orImmScalar h d a t imm => mk h 0x0D7#10 (0#1 ++ d) (0#1 ++ a) (hi 9 9 (t.code ++ imm)) (lo 9 (t.code ++ imm))
  | .xor h d a b t => mk h 0x098#10 d a b (0#6 ++ t.code)
  | .xorScalar h d a b t => mk h 0x0D8#10 (0#1 ++ d) (0#1 ++ a) (0#1 ++ b) (0#6 ++ t.code)
  | .xorImm h d a t imm => mk h 0x099#10 d a (hi 9 9 (t.code ++ imm)) (lo 9 (t.code ++ imm))
  | .xorImmScalar h d a t imm => mk h 0x0D9#10 (0#1 ++ d) (0#1 ++ a) (hi 9 9 (t.code ++ imm)) (lo 9 (t.code ++ imm))
  | .andn h d a b t => mk h 0x09A#10 d a b (0#6 ++ t.code)
  | .andnScalar h d a b t => mk h 0x0DA#10 (0#1 ++ d) (0#1 ++ a) (0#1 ++ b) (0#6 ++ t.code)
  | .not h d a t => mk h 0x09B#10 d a 0#9 (0#6 ++ t.code)
  | .notScalar h d a t => mk h 0x0DB#10 (0#1 ++ d) (0#1 ++ a) 0#9 (0#6 ++ t.code)
  | .tlog h d a b tt => mk h 0x09C#10 d a b (0#1 ++ tt)
  | .tlogScalar h d a b tt => mk h 0x0DC#10 (0#1 ++ d) (0#1 ++ a) (0#1 ++ b) (0#1 ++ tt)
  | .shl h d a b t => mk h 0x09D#10 d a b (0#6 ++ t.code)
  | .shlScalar h d a b t => mk h 0x0DD#10 (0#1 ++ d) (0#1 ++ a) (0#1 ++ b) (0#6 ++ t.code)
  | .shlImm h d a t imm => mk h 0x09E#10 d a (hi 9 9 (t.code ++ imm)) (lo 9 (t.code ++ imm))
  | .shlImmScalar h d a t imm => mk h 0x0DE#10 (0#1 ++ d) (0#1 ++ a) (hi 9 9 (t.code ++ imm)) (lo 9 (t.code ++ imm))
  | .shr h d a b t => mk h 0x09F#10 d a b (0#6 ++ t.code)
  | .shrScalar h d a b t => mk h 0x0DF#10 (0#1 ++ d) (0#1 ++ a) (0#1 ++ b) (0#6 ++ t.code)
  | .shrImm h d a t imm => mk h 0x0A0#10 d a (hi 9 9 (t.code ++ imm)) (lo 9 (t.code ++ imm))
  | .shrImmScalar h d a t imm => mk h 0x0E0#10 (0#1 ++ d) (0#1 ++ a) (hi 9 9 (t.code ++ imm)) (lo 9 (t.code ++ imm))
  | .sar h d a b t => mk h 0x0A1#10 d a b (0#6 ++ t.code)
  | .sarScalar h d a b t => mk h 0x0E1#10 (0#1 ++ d) (0#1 ++ a) (0#1 ++ b) (0#6 ++ t.code)
  | .sarImm h d a t imm => mk h 0x0A2#10 d a (hi 9 9 (t.code ++ imm)) (lo 9 (t.code ++ imm))
  | .sarImmScalar h d a t imm => mk h 0x0E2#10 (0#1 ++ d) (0#1 ++ a) (hi 9 9 (t.code ++ imm)) (lo 9 (t.code ++ imm))
  | .fshl h d a b c => mk h 0x0A3#10 d a b c
  | .fshlScalar h d a b c => mk h 0x0E3#10 (0#1 ++ d) (0#1 ++ a) (0#1 ++ b) (0#1 ++ c)
  | .fshr h d a b c => mk h 0x0A4#10 d a b c
  | .fshrScalar h d a b c => mk h 0x0E4#10 (0#1 ++ d) (0#1 ++ a) (0#1 ++ b) (0#1 ++ c)
  | .rot h d a b t => mk h 0x0A5#10 d a b (0#6 ++ t.code)
  | .rotScalar h d a b t => mk h 0x0E5#10 (0#1 ++ d) (0#1 ++ a) (0#1 ++ b) (0#6 ++ t.code)
  | .rotImm h d a t imm => mk h 0x0A6#10 d a (hi 9 9 (t.code ++ imm)) (lo 9 (t.code ++ imm))
  | .rotImmScalar h d a t imm => mk h 0x0E6#10 (0#1 ++ d) (0#1 ++ a) (hi 9 9 (t.code ++ imm)) (lo 9 (t.code ++ imm))
  | .bfx h d a b t => mk h 0x0A7#10 d a b (0#6 ++ t.code)
  | .bfxScalar h d a b t => mk h 0x0E7#10 (0#1 ++ d) (0#1 ++ a) (0#1 ++ b) (0#6 ++ t.code)
  | .bfi h d a b t => mk h 0x0A8#10 d a b (0#6 ++ t.code)
  | .bfiScalar h d a b t => mk h 0x0E8#10 (0#1 ++ d) (0#1 ++ a) (0#1 ++ b) (0#6 ++ t.code)
  | .popc h d a t => mk h 0x0A9#10 d a 0#9 (0#6 ++ t.code)
  | .popcScalar h d a t => mk h 0x0E9#10 (0#1 ++ d) (0#1 ++ a) 0#9 (0#6 ++ t.code)
  | .clz h d a t => mk h 0x0AA#10 d a 0#9 (0#6 ++ t.code)
  | .clzScalar h d a t => mk h 0x0EA#10 (0#1 ++ d) (0#1 ++ a) 0#9 (0#6 ++ t.code)
  | .ctz h d a t => mk h 0x0AB#10 d a 0#9 (0#6 ++ t.code)
  | .ctzScalar h d a t => mk h 0x0EB#10 (0#1 ++ d) (0#1 ++ a) 0#9 (0#6 ++ t.code)
  | .brev h d a t => mk h 0x0AC#10 d a 0#9 (0#6 ++ t.code)
  | .brevScalar h d a t => mk h 0x0EC#10 (0#1 ++ d) (0#1 ++ a) 0#9 (0#6 ++ t.code)
  | .bperm h d a b c => mk h 0x0AD#10 d a b c
  | .bpermScalar h d a b c => mk h 0x0ED#10 (0#1 ++ d) (0#1 ++ a) (0#1 ++ b) (0#1 ++ c)
  | .cmp h a b t => mk h 0x0AE#10 0#9 a b (0#6 ++ t.code)
  | .cmpScalar h a b t => mk h 0x0EE#10 0#9 (0#1 ++ a) (0#1 ++ b) (0#6 ++ t.code)
  | .cmpImm h a t imm => mk h 0x0AF#10 0#9 a (hi 9 9 (t.code ++ imm)) (lo 9 (t.code ++ imm))
  | .cmpImmScalar h a t imm => mk h 0x0EF#10 0#9 (0#1 ++ a) (hi 9 9 (t.code ++ imm)) (lo 9 (t.code ++ imm))
  | .tst h a b t => mk h 0x0B0#10 0#9 a b (0#6 ++ t.code)
  | .tstScalar h a b t => mk h 0x0F0#10 0#9 (0#1 ++ a) (0#1 ++ b) (0#6 ++ t.code)
  | .sel h d a b n c => mk h 0x0B1#10 d a b (n ++ (c.code ++ 0#3))
  | .selScalar h d a b c => mk h 0x0F1#10 (0#1 ++ d) (0#1 ++ a) (0#1 ++ b) (0#2 ++ (c.code ++ 0#3))
  | .lea h d a b sh => mk h 0x0B2#10 d a b (0#3 ++ sh)
  | .leaScalar h d a b sh => mk h 0x0F2#10 (0#1 ++ d) (0#1 ++ a) (0#1 ++ b) (0#3 ++ sh)
  | .fadd h d a b f rm => mk h 0x100#10 d a b (0#4 ++ (rm.code ++ f.code))
  | .fsub h d a b f rm => mk h 0x101#10 d a b (0#4 ++ (rm.code ++ f.code))
  | .fmul h d a b f rm => mk h 0x102#10 d a b (0#4 ++ (rm.code ++ f.code))
  | .fscale h d a b f rm => mk h 0x111#10 d a b (0#4 ++ (rm.code ++ f.code))
  | .fmin h d a b f => mk h 0x103#10 d a b (0#4 ++ (0#3 ++ f.code))
  | .fmax h d a b f => mk h 0x104#10 d a b (0#4 ++ (0#3 ++ f.code))
  | .fabs h d a f => mk h 0x105#10 d a 0#9 (0#4 ++ (0#3 ++ f.code))
  | .fneg h d a f => mk h 0x106#10 d a 0#9 (0#4 ++ (0#3 ++ f.code))
  | .fcmp h a b f => mk h 0x107#10 0#9 a b (0#4 ++ (0#3 ++ f.code))
  | .fclass h d a f => mk h 0x108#10 d a 0#9 (0#4 ++ (0#3 ++ f.code))
  | .frcp h d a f rm => mk h 0x109#10 d a 0#9 (0#4 ++ (rm.code ++ f.code))
  | .fsqrt h d a f rm => mk h 0x10A#10 d a 0#9 (0#4 ++ (rm.code ++ f.code))
  | .frint h d a f rm => mk h 0x112#10 d a 0#9 (0#4 ++ (rm.code ++ f.code))
  | .frsq h d a f => mk h 0x10B#10 d a 0#9 (0#4 ++ (0#3 ++ f.code))
  | .fexp2 h d a f => mk h 0x10C#10 d a 0#9 (0#4 ++ (0#3 ++ f.code))
  | .flog2 h d a f => mk h 0x10D#10 d a 0#9 (0#4 ++ (0#3 ++ f.code))
  | .fsin h d a f => mk h 0x10E#10 d a 0#9 (0#4 ++ (0#3 ++ f.code))
  | .fcos h d a f => mk h 0x10F#10 d a 0#9 (0#4 ++ (0#3 ++ f.code))
  | .ftanh h d a f => mk h 0x110#10 d a 0#9 (0#4 ++ (0#3 ++ f.code))
  | .act h d a f rm => mk h 0x113#10 d a 0#9 (0#4 ++ (rm.code ++ f.code))
  | .actld h a b => mk h 0x114#10 0#9 a (0#1 ++ b) 0#9
  | .actswap h => mk h 0x115#10 0#9 0#9 0#9 0#9
  | .ffma h d a b c f rm => mk h (0x12#6 ++ (f.code ++ rm.code2)) d a b c
  | .fdot2 h d a b c bf rm => mk h (0x26#7 ++ (ofBool bf ++ rm.code2)) d a b c
  | .cvt h d a dst src p rm => mk h 0x180#10 d a (0#1 ++ (dst.code ++ src.code)) (0#4 ++ (p ++ rm.code))
  | .qnt h d a x4 f l dd rm => mk h 0x181#10 d a (0#2 ++ (ofBool x4 ++ (f.code ++ (0#2 ++ l)))) (0#2 ++ (dd ++ rm.code))
  | .dqnt h d a x4 f l rm => mk h 0x182#10 d a (0#2 ++ (ofBool x4 ++ (f.code ++ (0#2 ++ l)))) (0#6 ++ rm.code)
  | .pack h d a b t => mk h 0x183#10 d a b (0#6 ++ t.code)
  | .unpk h d a p t => mk h 0x184#10 d a 0#9 (0#5 ++ (p ++ t.code))
  | .lget h d a b t => mk h 0x188#10 d a b (0#6 ++ t.code)
  | .lput h d a b t => mk h 0x189#10 d a b (0#6 ++ t.code)
  | .lshf h d a b m n => mk h 0x18A#10 d a b (m.code ++ (0#2 ++ n))
  | .lbcst h d a n => mk h 0x18B#10 d a 0#9 (0#4 ++ n)
  | .lxor h d a n => mk h 0x18C#10 d a 0#9 (0#4 ++ n)
  | .lscan h d a op => mk h 0x18D#10 d a (0#6 ++ op.rmCode) (op.opCode ++ (0#2 ++ op.typeCode))
  | .lred h d a op => mk h 0x18E#10 d a (0#6 ++ op.rmCode) (op.opCode ++ (0#2 ++ op.typeCode))
  | .lvote h d a m => mk h 0x18F#10 d a 0#9 (0#7 ++ m.code)
  | .rng h d => mk h 0x190#10 d 0#9 0#9 0#9
  | .rngset h a b => mk h 0x191#10 0#9 (0#1 ++ a) (0#1 ++ b) 0#9
  | .ld h d g b t fe imm => mk h 0x200#10 d (0#4 ++ g) b (t.code ++ (fe.code ++ imm))
  | .st h d g b t fe imm => mk h 0x201#10 d (0#4 ++ g) b (t.code ++ (fe.code ++ imm))
  | .lds h d b t fe imm => mk h 0x202#10 d 0#9 b (t.code ++ (fe.code ++ imm))
  | .sts h d b t fe imm => mk h 0x203#10 d 0#9 b (t.code ++ (fe.code ++ imm))
  | .ldp h d g b fe imm => mk h 0x204#10 d (0#4 ++ g) b (0#3 ++ (fe.code ++ imm))
  | .stp h d g b fe imm => mk h 0x205#10 d (0#4 ++ g) b (0#3 ++ (fe.code ++ imm))
  | .atom h d g b op t => mk h 0x206#10 d (0#4 ++ g) b (t.code ++ (op.code ++ 0#2))
  | .atoms h d b op t => mk h 0x207#10 d 0#9 b (t.code ++ (op.code ++ 0#2))
  | .rst h g a b c => mk h 0x208#10 (0#4 ++ g) a b (0#1 ++ c)
  | .ratom h d g b op t => mk h 0x209#10 d (0#4 ++ g) b (t.code ++ (op.code ++ 0#2))
  | .pref h g b t imm => mk h 0x20A#10 0#9 (0#4 ++ g) b (t.code ++ (0#2 ++ imm))
  | .stage h g b fill => mk h 0x20B#10 0#9 (0#4 ++ g) (0#1 ++ b) (0#8 ++ (ofBool fill))
  | .unstage h g => mk h 0x20C#10 0#9 (0#4 ++ g) 0#9 0#9
  | .brw h d a b tryIt k => mk h 0x280#10 (0#4 ++ d) (0#1 ++ a) (0#1 ++ b) (0#3 ++ (ofBool tryIt ++ (k.code ++ 0#3)))
  | .rbrw h d a b k => mk h 0x281#10 (0#4 ++ d) (0#4 ++ a) (0#1 ++ b) (0#7 ++ k.code)
  | .split h d a toRegs k => mk h 0x282#10 (0#4 ++ d) (0#4 ++ a) 0#9 (ofBool toRegs ++ (0#2 ++ k))
  | .join h a => mk h 0x283#10 0#9 (0#4 ++ a) 0#9 0#9
  | .rtn h a => mk h 0x284#10 0#9 (0#4 ++ a) 0#9 0#9
  | .rgq h d a => mk h 0x285#10 (0#1 ++ d) (0#4 ++ a) 0#9 0#9
  | .rgmv h d a b => mk h 0x286#10 (0#4 ++ d) (0#4 ++ a) (0#1 ++ b) 0#9
  | .fence h sc => mk h 0x290#10 0#9 0#9 0#9 (0#6 ++ sc.code)
  | .stmpw h => mk h 0x291#10 0#9 0#9 0#9 0#9
  | .stmpp h => mk h 0x292#10 0#9 0#9 0#9 0#9
  | .cseal h d => mk h 0x293#10 (0#1 ++ d) 0#9 0#9 0#9
  | .cwait h a => mk h 0x294#10 0#9 (0#1 ++ a) 0#9 0#9
  | .binit h a name => mk h 0x300#10 0#9 (0#1 ++ a) (hi 9 9 (0#7 ++ name)) (lo 9 (0#7 ++ name))
  | .barr h d wait name => mk h 0x301#10 (0#1 ++ d) (0#8 ++ (ofBool wait)) (hi 9 9 (0#7 ++ name)) (lo 9 (0#7 ++ name))
  | .bexp h a name => mk h 0x302#10 0#9 (0#1 ++ a) (hi 9 9 (0#7 ++ name)) (lo 9 (0#7 ++ name))
  | .bwait h a name => mk h 0x303#10 0#9 (0#1 ++ a) (hi 9 9 (0#7 ++ name)) (lo 9 (0#7 ++ name))
  | .btest h d a name => mk h 0x304#10 (0#1 ++ d) (0#1 ++ a) (hi 9 9 (0#7 ++ name)) (lo 9 (0#7 ++ name))
  | .chinit h d a => mk h 0x310#10 (0#5 ++ d) (0#1 ++ a) 0#9 0#9
  | .chpush h a b => mk h 0x311#10 0#9 a (0#1 ++ b) 0#9
  | .chpop h d a => mk h 0x312#10 d (0#5 ++ a) 0#9 0#9
  | .chstat h d a => mk h 0x313#10 (0#1 ++ d) (0#5 ++ a) 0#9 0#9
  | .copy h d a b c => mk h 0x314#10 d.code a.code (0#1 ++ b) (0#1 ++ c)
  | .copy2 h d a b c => mk h 0x315#10 d.code a.code (0#1 ++ b) (0#1 ++ c)
  | .gath h d a b c => mk h 0x316#10 d.code a.code (0#1 ++ b) (0#1 ++ c)
  | .scat h d a b c => mk h 0x317#10 d.code a.code (0#1 ++ b) (0#1 ++ c)
  | .route h d a b c => mk h 0x318#10 (0#1 ++ d) (0#1 ++ a) (0#1 ++ b) (0#1 ++ c)
  | .cvinit h d a => mk h 0x320#10 (0#5 ++ d) (0#1 ++ a) 0#9 0#9
  | .mma h clr base ob ld cv b la lb fmt => mk h 0x321#10 (0#2 ++ (ofBool clr ++ base)) (ob ++ (ld ++ cv)) (0#1 ++ b) (la ++ (lb ++ (0#2 ++ fmt.code)))
  | .mwait h => mk h 0x322#10 0#9 0#9 0#9 0#9
  | .lace h d a => mk h 0x323#10 (0#7 ++ d) (0#1 ++ a) 0#9 0#9
  | .obres h d a b => mk h 0x324#10 (0#6 ++ d) (0#1 ++ a) (0#1 ++ b) 0#9
  | .obld h d a b => mk h 0x325#10 (0#6 ++ d) (0#1 ++ a) (0#1 ++ b) 0#9
  | .obrel h d => mk h 0x326#10 (0#6 ++ d) 0#9 0#9 0#9
  | .mdrain h base a b act res rm f => mk h 0x327#10 (0#3 ++ base) (0#1 ++ a) (0#1 ++ b) (0#3 ++ (ofBool act ++ (ofBool res ++ (rm.code2 ++ f.code))))
  | .hbind h d a b => mk h 0x380#10 (0#5 ++ d) (0#5 ++ a) (0#5 ++ b) 0#9
  | .hperm h d a b => mk h 0x381#10 (0#5 ++ d) (0#5 ++ a) (0#1 ++ b) 0#9
  | .hbund h d a => mk h 0x382#10 (0#8 ++ d) (0#5 ++ a) 0#9 0#9
  | .hthr h d a => mk h 0x383#10 (0#5 ++ d) (0#8 ++ a) 0#9 0#9
  | .hclr h d => mk h 0x384#10 (0#8 ++ d) 0#9 0#9 0#9
  | .hld h d a b => mk h 0x385#10 (0#5 ++ d) a.code (0#1 ++ b) 0#9
  | .hst h d a b => mk h 0x386#10 (0#5 ++ d) a.code (0#1 ++ b) 0#9
  | .hset h d a => mk h 0x387#10 (0#5 ++ d) (0#1 ++ a) 0#9 0#9
  | .hdist h d a b => mk h 0x388#10 (0#1 ++ d) (0#5 ++ a) (0#5 ++ b) 0#9
  | .hpop h d a => mk h 0x389#10 (0#1 ++ d) (0#5 ++ a) 0#9 0#9
  | .htie h a => mk h 0x38A#10 0#9 (0#5 ++ a) 0#9 0#9
  | .hcw h w => mk h 0x38B#10 0#9 0#9 0#9 (0#7 ++ w.code)
  | .hsrch h d a b => mk h 0x38C#10 (0#1 ++ d) (0#5 ++ a) (0#1 ++ b) 0#9
  | .hsrch2 h d a b => mk h 0x38D#10 (0#1 ++ d) (0#5 ++ a) (0#1 ++ b) 0#9
  | .trap h imm => mk h 0x3C0#10 0#9 0#9 (hi 9 9 imm) (lo 9 imm)
  | .tret h skip => mk h 0x3C1#10 0#9 0#9 0#9 (0#8 ++ (ofBool skip))
  | .mfs h d a scalar => mk h 0x3C2#10 d a.code 0#9 (0#8 ++ (ofBool scalar))
  | .mts h d a => mk h 0x3C3#10 d.code (0#1 ++ a) 0#9 0#9
  | .dist h d a b => mk h 0x3C4#10 (0#1 ++ d) (0#1 ++ a) (0#1 ++ b) 0#9
  | .halt h a => mk h 0x3C5#10 0#9 (0#1 ++ a) 0#9 0#9
  | .slotq h d => mk h 0x3D0#10 (0#1 ++ d) 0#9 0#9 0#9
  | .smpcfg h a => mk h 0x3D1#10 0#9 (0#1 ++ a) 0#9 0#9
  | .smpon h a => mk h 0x3D2#10 0#9 (0#1 ++ a) 0#9 0#9
  | .smpoff h d => mk h 0x3D3#10 (0#1 ++ d) 0#9 0#9 0#9
  | _ => 0

/-- The word of a well-formed instruction. -/
def encode (i : Instr) : Word :=
  match i.paired? with
  | some (x, sc, y) => (1#1 ++ (0#1 ++ (packSlot x 0 ++ packSlot y sc)) : BitVec 64)
  | none => encodeFull i

/-- The instruction our decoder reads from `nbits` bits of a table row: a word is 64 bits, stored little-endian (R50),
so bit `n` of the table's numbering is bit `n` of the word; bits above `nbits` are 0. -/
noncomputable def decodeTableWord (nbits w : Nat) : Option Instr := decode (BitVec.ofNat 64 (w % 2 ^ nbits))

end Sys2Proof
end

