-- ==== Sys2Proof/Machine/State.lean ====
section
/-! DEFINITION. Everything the manual gives the Meltia-9 to hold, as plain data, and the state right after device reset.
Names of objects (waves, groups, kernels, grants, loads, packets, operations) are plain numbers drawn from `nextUid`;
an object that does not exist yet, or no longer, is absent from its list. -/

namespace Sys2Proof.Machine

/-- A table from numbers to 64-bit words, sorted by key; a word of zero is not listed. -/
abbrev Words := List (Nat × Word)

/-- A partial map from storage keys to bytes, sorted by key. A key that is not listed holds no value. -/
abbrev Store := List Host.Cell

/-- The order the memory's cells must have: keys strictly rise. A byte that nothing has written is not listed. -/
def Memory.sorted : Store → Bool
  | [] => true
  | [_] => true
  | (a, _) :: (b, y) :: r => decide (a < b) && Memory.sorted ((b, y) :: r)

/-- The canonical form of a store. -/
abbrev Memory.wf (m : Store) : Prop := Memory.sorted m = true

/-! Waves -/

/-- One open loop level (R83). -/
structure Level where
  start : Word
  stop : Word
  count : Word
deriving DecidableEq, Repr

/-- A partition: its lanes, program counter and loop nest, innermost level first (R74); the nest set aside while it
runs a trap handler (R293); the mask while it waits at an FBAR (R94); the clk until which a redirect holds its next
word (R78); whether an FBAR release formed it and it has not been current since (R94). -/
structure Part where
  lanes : BitVec 32
  pc : Word
  nest : List Level
  saved : Option (List Level)
  fbar : Option (BitVec 32)
  redirect : Nat
  due : Bool
deriving DecidableEq, Repr

/-- A register or a run of window bytes, as the scoreboard compares them (R63, R100): window bytes `lo` to `hi - 1`,
scalar register n, condition register cn, sf. -/
inductive Loc
  | win (lo hi : Nat)
  | sreg (n : Nat)
  | cc (n : Nat)
  | sf
deriving DecidableEq, Repr

/-- A fixed-latency result that has been written but is not yet due: what a reader before `due` sees instead
(R64). The key of an old value is the window slot (byte / 8), the scalar's number, or the lane. `whole` marks a write of
sf that replaces its sticky bits (R110). -/
structure Early where
  due : Nat
  loc : Loc
  old : Words
  whole : Bool
deriving DecidableEq, Repr

/-- A variable-latency result written at issue whose scoreboard entry stands until VARIABLE_LATENCY_WRITE (R63). `chan` is
the channel entry that a CHPOP reads: the channel and the entry's count (R235). -/
structure VPend where
  id : Nat
  locs : List Loc
  chan : Option (Nat × BitVec 32)
deriving DecidableEq, Repr

/-- What an access or an engine operation reaches: a grant, the group's scratchpad (R162, R182). -/
inductive Tgt
  | grant (gid : Nat)
  | sp (group : Nat)
deriving DecidableEq, Repr

/-- One lane of a load or atomic: its first byte and what it has read, once it has performed (R202). For a grant the
address is an IA, for the scratchpad an offset. -/
structure LaneRd where
  lane : Nat
  addr : Nat
  got : Option (List Byte)
deriving DecidableEq, Repr

/-- Where a load's result goes: one vector register, two, a hypervector register; by the window byte of its start. -/
inductive LoadDest
  | vec (at_ : Nat) (t : IType)
  | pair (at0 at1 : Nat)
  | hv (at_ : Nat)
  | none
deriving DecidableEq, Repr

/-- A 64 B sector of a line in a cache (R157, R175): its IA / 64, the tag of the grant it was filled under (R159), the bytes that
are there, those of them that a store has written, and how soon it goes (Table 8.4), 0 first. -/
structure CSec where
  sec : Nat
  tag : Nat
  mask : Nat
  dirty : Nat
  rank : Nat
deriving DecidableEq, Repr

/-- A load or value-returning atomic in flight (R183, R187, R202), or the request of a PREF, which writes no register (R195).
`atomic` is true when an outbox or home-queue entry performs it. `miss` lists the sectors for which it holds a miss-status entry (R191), `hint` is its cache hint. -/
structure LoadP where
  id : Nat
  seq : Nat
  pc : Word
  code : Nat
  tgt : Tgt
  size : Nat
  lanes : List LaneRd
  dest : LoadDest
  atomic : Bool
  miss : List Nat
  hint : Nat
  /-- The girth path of its requests, 0 within its die and to an endpoint (R337), and the lines (IA / 256) whose request to an
  endpoint has been sent (R191, R346). -/
  via : Nat
  asked : List Nat
deriving DecidableEq, Repr

/-- The request of a PREF (R195). -/
def LoadP.pref (l : LoadP) : Bool := l.dest == .none

/-- One lane's atomic operand (R187): lane, address, x, and the comparison value of .cas. -/
structure AtLane where
  lane : Nat
  addr : Nat
  x : Word
  y : Word
deriving DecidableEq, Repr

/-- What an outbox entry does at O1 (Table 9.3). -/
inductive OKind
  /-- A write of bytes at an address; `full` are the granules (address / 16) that become full with it (R185). -/
  | write (addr : Nat) (bytes : List Byte) (full : List Nat)
  /-- A local atomic: one word's lanes; `load` names the load that takes the old values. -/
  | atomic (op : AtOp) (t : IType) (lanes : List AtLane) (load : Nat)
  /-- A home atomic; `load` is 0 for RATOM. -/
  | homeAtomic (op : AtOp) (t : IType) (lanes : List AtLane) (load entries : Nat)
  /-- One lane of an RST. -/
  | remote (addr : Nat) (bytes : List Byte) (entries : Nat)
  /-- The flag message after an RST's lanes: the flag's IA and the grant it lies in. -/
  | flag (addr : Nat) (gid : Nat)
  /-- A CHPUSH entry for one channel. -/
  | chan (ch : Nat) (bytes : List Byte)
deriving DecidableEq, Repr

/-- An outbox entry (R203), with its word's address and register code. -/
structure OEnt where
  seq : Nat
  pc : Word
  code : Nat
  tgt : Tgt
  kind : OKind
deriving DecidableEq, Repr

/-- A fault: its code (Table 14.4), its %tinfo, and the issuing word's address for a fault that goes to the fault queue
because its wave has ended (R294). -/
structure FaultRec where
  code : Nat
  info : Word
  pc : Word
deriving DecidableEq, Repr

/-- The wait a wave is in after issue (R319, condition 5): full-empty granules (R185), a barrier's next
completion (R224, R226: `own` for BARR.w, which waits for the phase of its own arrival; `release` once the phase has
completed, R219), a FENCE (R208), a CWAIT (R210), MWAIT (R264), STMPW (R213), CHPUSH (R234), miss-status entries (R192),
an instruction-cache discard (R95), UNSTAGE (R198). `since` counts issue order. -/
inductive Hold
  | none
  | fullEmpty (load : Nat) (clear : Bool)
  | barrier (name : Nat) (own : Bool) (release : Option Nat)
  | fence (scope : Scope) (seq : Nat)
  | cwait (n : Nat)
  | mwait
  | stmpw
  | chpush (seq : Nat)
  | miss (load need at_ : Nat)
  | until_ (clk : Nat)
  | unstage (gid : Nat)
deriving DecidableEq, Repr

/-- Table 4.2. -/
inductive WaveSt | resident | sleeping | swapped | ended
deriving DecidableEq, Repr

/-- A wave (spec/04, spec/05, R201). The current partition is the head of `parts`. -/
structure Wave where
  uid : Nat
  group : Nat
  core : Nat
  quad : Nat
  slot : Nat
  index : Nat
  st : WaveSt
  /-- The wave slot and window are still held (R82). -/
  slotHeld : Bool
  parts : List Part
  /-- The clk at which the current turn ends; while a handler runs, the clk left in the turn (R79, R81). -/
  turn : Nat
  /-- The register window, by 8-byte slot (R97). -/
  win : Words
  /-- s0 to s255 (R101). -/
  sregs : Words
  /-- c0 to c3 of each lane, c0 in bits 3 to 0 (R101). -/
  cc : Words
  /-- sf (R42). -/
  sf : Word
  /-- The generator's key and counter (R48). -/
  key : Word
  ctr : Word
  /-- The tie register, by 64-bit word (R273). -/
  tb : Words
  /-- The counter width, and the width that the last HCW issued will set (R273, R279). -/
  ctrw : CtrW
  ctrwNext : CtrW
  /-- %tcause, %tpc, %tinfo, %tlanes (R103). -/
  tcause : BitVec 8
  tpc : Word
  tinfo : Word
  tlanes : BitVec 32
  /-- O(W) and B(W) (R201). -/
  outbox : List OEnt
  batch : Word
  /-- Arrivals of BARR words waiting for O7: barrier and access number (R224). -/
  arrives : List (Nat × Nat)
  /-- The wave has passed the stamp (R213). -/
  passed : Bool
  early : List Early
  /-- Sticky bits that words have raised, with the clk at which their results are due (R42). -/
  stk : List (Nat × Word)
  vpend : List VPend
  loads : List LoadP
  deferred : List FaultRec
  hold : Hold
  /-- Last issue (R319), earliest next issue (R62), end of sleep (R93). -/
  lastIssue : Option Nat
  nextIssue : Nat
  sleepEnd : Nat
  /-- Rejected offers (R193). -/
  rejects : Nat
  /-- The clk the watchdog counts from (R375). -/
  progress : Nat
  /-- While the wave is swapped out: the clk at which its parked accesses had completed (R320). -/
  eligible : Option Nat
  /-- The register cache, most recent first (R104). -/
  rcache : List Nat
deriving DecidableEq, Repr

/-! Regions -/

/-- Table 7.3. -/
inductive GrantSt | waiting | held | lent | frozen | returning
deriving DecidableEq, Repr

/-- What a WAITING register waits for at O4: a child of a grant, or a grant moved by RGMV, with a fresh tag or not
(R159, R170). -/
inductive Deriv
  | child (parent : Nat)
  | moved (fresh : Bool)
deriving DecidableEq, Repr

/-- A grant and the register that holds it (R144); an EMPTY register has none. `home` is a die (0 to 7) or 8 plus an
endpoint number. -/
structure Grant where
  gid : Nat
  reg : RegRef
  st : GrantSt
  kind : Kind
  ctx : Nat
  va : Word
  ia : Nat
  len : Nat
  tag : Nat
  children : Nat
  /-- The parent of a child: its grant, its wave's index and its register code (R144, R171). -/
  parent : Option (Nat × Nat × Nat)
  home : Nat
  /-- The brand-table entry of a root grant. -/
  entry : Option Nat
  /-- BRW asked for a flag write (R165). -/
  sfWrite : Bool
  /-- A derivation that waits for O4. -/
  derive : Option Deriv
  /-- The staged window's bytes have joined the return; O5 has been taken and the return message is under way. -/
  flushed : Bool
  returned : Bool
  /-- The staged window: base offset in the group scratchpad, and whether its fill is complete (R196). -/
  window : Option Nat
  /-- GS, or the grant's part of GRS (R201), by IA. -/
  gs : Store
  /-- The home lost the grant: the next return completes without write-back (R341). -/
  lost : Bool
  /-- The wave whose RTN began the return; 0 for none. -/
  by_ : Nat
deriving DecidableEq, Repr

/-- Who waits in a brand queue: a register's grant, a SLATEW of a queue, a fabric endpoint. -/
inductive Asker
  | grant (gid : Nat)
  | slatew (queue : Nat)
  | endpoint (ep : Nat)
deriving DecidableEq, Repr

/-- A request in a brand queue (R149, R150). `src` orders requests that reach a home in one clk: die, core and quad of the
wave that asks. -/
structure BReq where
  rid : Nat
  src : Nat
  who : Asker
  ia : Nat
  len : Nat
  kind : Kind
  tryIt : Bool
  ctx : Nat
  die : Nat
  sector : Nat
  det : Option (Nat × Nat × Nat)
deriving DecidableEq, Repr

/-- What a home has answered to a request (R149, R158): the entry of a grant, or the deferred fault or the flags of a
failure. -/
inductive Verdict
  | given (entry : Nat)
  | denied (fault : Option (Nat × Word)) (flags : BitVec 4)
deriving DecidableEq, Repr

/-- An answer that has not reached its requester yet. -/
structure Answer where
  req : BReq
  verdict : Verdict
deriving DecidableEq, Repr

/-- Kind of a brand-table entry (Table 21.4a). -/
inductive EntKind | x | s | a | residue
deriving DecidableEq, Repr

/-- A brand-table entry in use (R148, R374). `stg` holds the bound window of a staged residue: group, window base;
`queue` names the queue whose SLATEW holds it (R304). `born` orders residues by age (R151). `tags` are those of the
lines of a residue, or of the residues that a grant takes over (R160). -/
structure BEnt where
  idx : Nat
  ia : Nat
  len : Nat
  kind : EntKind
  ctx : Nat
  die : Nat
  sector : Nat
  ep : Option Nat
  count : Nat
  stg : Option (Nat × Nat)
  queue : Option Nat
  seq : Nat
  born : Nat
  tags : List Nat
deriving DecidableEq, Repr

/-! Messages (R201, R207) -/

/-- An atomic event of a home queue; `pc` and `code` are those of its word. -/
structure HAtom where
  id : Nat
  pc : Word
  code : Nat
  wave : Nat
  load : Nat
  gid : Nat
  op : AtOp
  t : IType
  lanes : List AtLane
  entries : Nat
deriving DecidableEq, Repr

/-- What a girth packet carries: bytes for H, a copy chunk's bytes with its operation, a request to an endpoint for the bytes of a
load or of a copy operation's next chunk, a flush marker. -/
inductive PKind
  | write
  | chunk (op : Nat)
  | read (name : Nat)
  | marker (msg : Nat)
deriving DecidableEq, Repr

/-- A girth packet (R201): its path, the bytes it writes by IA (of a request, the first byte that it asks for), the wave and kernel that caused it, the miss-status
entries its acknowledgement frees, its send times and sequence number for a fabric endpoint (R346). `pc` and `code` are those of its
word. `arrived` marks a packet that has been written at an endpoint and is not acknowledged yet. -/
structure Packet where
  id : Nat
  pc : Word
  code : Nat
  src : Nat
  dst : Nat
  path : Nat
  kind : PKind
  cells : Store
  /-- Bytes of a copy's chunk, with those that it skips (R241), and the name of the store that it is part of (R199). -/
  bytes : Nat
  seq : Nat
  wave : Nat
  entries : Nat
  first : Nat
  last : Nat
  num : Nat
  /-- It left under selective acknowledgement (R345). -/
  sel : Bool
  arrived : Bool
deriving DecidableEq, Repr

/-- What a rein message carries (Table 9.5): requests, answers to them, returns, home atomics, flags, releases, the stamp of
a kernel, and a die's report that a kernel is complete on it. A flag message names its word and register code, and the store or
the command that it follows, 0 for a copy; `copy` marks the flag of a copy or of a SIGNAL, which no FENCE waits for. -/
inductive RKind
  | request (r : BReq)
  | answer (a : Answer)
  | ret (gid : Nat)
  | epRet (ep ia len : Nat) (kind : Kind)
  | atomic (a : HAtom)
  | flag (ia : Nat) (pc : Word) (code : Nat) (copy : Bool) (seq : Nat)
  | release (gid : Nat)
  | stamp (kernel : Nat)
  | complete (kernel : Nat)
deriving DecidableEq, Repr

/-- A rein message, with the girth packets it orders (O10). `route` lists the dies of its route once it has set out (R337);
`num` is its number in its endpoint's context or window, with the clk of its first and last send, `port` the port over which it
left and `sel` whether it left under selective acknowledgement (R345, R346). -/
structure Rein where
  id : Nat
  src : Nat
  dst : Nat
  kind : RKind
  need : List Nat
  flushed : Bool
  wave : Nat
  route : Option (List Nat)
  num : Option Nat
  port : Option Nat
  sel : Bool
  first : Nat
  last : Nat
deriving DecidableEq, Repr

/-- A pending flag (O11): its home and IA, the wave that caused it; `copy` marks the flag of a copy, which no FENCE waits
for. -/
structure Flag where
  id : Nat
  home : Nat
  ia : Nat
  wave : Nat
  copy : Bool
deriving DecidableEq, Repr

/-- An acknowledgement on its way to a core that holds miss-status entries for it (R191). -/
structure Ack where
  id : Nat
  wave : Nat
  core : Nat
  entries : Nat
deriving DecidableEq, Repr

/-- An access of a fabric endpoint that waits at its home for a page (R327): endpoint, port, window, its first IA, and what it
does. -/
structure Inbound where
  id : Nat
  ep : Nat
  port : Nat
  win : Nat
  ia : Nat
  acc : InAcc
deriving DecidableEq, Repr

/-! Groups -/

/-- A barrier that BINIT has armed (Table 10.1) with its reload value (R217); a barrier that is not listed is IDLE.
`acted` marks an event of this clk that may complete the phase (R220). -/
structure Bar where
  name : Nat
  st : Nat
  phase : Bool
  pending : Nat
  arrived : Nat
  count : Nat
  reload : Nat
  acted : Bool
deriving DecidableEq, Repr

/-- A channel (R230, Table 11.4): `claims` entries taken and not yet passed by Q; entries written ahead of P, and read
ahead of Q, by their counts. -/
structure Chan where
  ch : Nat
  base : Nat
  esz : Nat
  cap : Nat
  p : BitVec 32
  q : BitVec 32
  v : Nat
  claims : Nat
  written : List (BitVec 32)
  read : List (BitVec 32)
deriving DecidableEq, Repr

/-- One signature: the wave, its word's address, with the lanes and the loop nest of the partition that signed (R271), its
accumulator base, clr, its access number (R253). -/
structure Sign where
  wave : Nat
  pc : Word
  lanes : BitVec 32
  nest : List Level
  index : Nat
  base : Nat
  clr : Bool
  seq : Nat
deriving DecidableEq, Repr

/-- A convergence register of a group on one core (Table 12.4), with the fields the first signature fixes (R254). -/
structure Cv where
  core : Nat
  n : Nat
  signers : Nat
  signed : List Sign
  afield : BitVec 9
  cfield : BitVec 9
  word : Word
deriving DecidableEq, Repr

/-- A lacing descriptor (Table 12.5). -/
structure Lace where
  core : Nat
  n : Nat
  w0 : Word
  w1 : Word
  w2 : Word
deriving DecidableEq, Repr

/-- A reservation (R257). `live` is false after OBREL until its users complete (R259). -/
structure Res where
  core : Nat
  n : Nat
  base : Nat
  len : Nat
  fmt : MFmt
  la : BitVec 2
  lb : BitVec 2
  expo : Nat
  live : Bool
  uid : Nat
deriving DecidableEq, Repr

/-- A stall sampler (R356). `w` and `c` are 32-bit counts. -/
structure Sampler where
  owner : Option Nat
  base : Nat
  cap : Nat
  period : Nat
  on : Bool
  ton : Nat
  w : Nat
  c : Nat
  n : Nat
  dropped : Nat
  /-- The previous target slot (R357). -/
  target : Option Nat
deriving DecidableEq, Repr

/-- Table 17.1. -/
inductive GroupSt | pending | placed | running | swapped | exiting | done
deriving DecidableEq, Repr

/-- A group (R315). `cores` are core numbers of the die in ascending order, `bases` the share's base on each (R176). -/
structure Group where
  uid : Nat
  kernel : Nat
  grp : Nat
  st : GroupSt
  vdie : Nat
  die : Nat
  unit_ : Nat
  cores : List Nat
  bases : List Nat
  nextIdx : Nat
  bars : List Bar
  chans : List Chan
  cvs : List Cv
  laces : List Lace
  ress : List Res
  /-- Salt of the scratchpad bytes that the group has not written (R176). -/
  salt : Nat
  /-- Scratchpad, full-empty bits and operand-buffer bytes while swapped out (R321), and the sampler's state. -/
  frame : Store
  frameFull : List Nat
  frameOb : Store
  frameSmp : Option Sampler
deriving DecidableEq, Repr

/-- A fibre in a bin (R89). -/
structure Fibre where
  a0 : Word
  a1 : Word
  a2 : Word
  a3 : Word
deriving DecidableEq, Repr

/-- A spawn bin (R89): open, or closed and waiting for a free slot. `mask` holds the register codes whose grants were
copied, with the source grants; the copies are grants that the bin owns. -/
structure Bin where
  uid : Nat
  core : Nat
  die : Nat
  group : Nat
  entry : Word
  mask : List (Nat × Nat)
  due : Nat
  fibres : List Fibre
  waiting : Bool
deriving DecidableEq, Repr

/-! Copy engine, matrix unit, hypervector unit -/

/-- The copy operations (R237, R196, R267). -/
inductive OpKind | copy | copy2 | gath | scat | route | fill | drain
deriving DecidableEq, Repr

/-- An endpoint of a copy operation. -/
inductive End
  | grant (gid : Nat)
  | sp
  | chan (c : Nat)
deriving DecidableEq, Repr

/-- A copy operation from issue to completion (R237 to R246). `nums` is its descriptor; `data` is the output that ROUTE
has computed (R248). `pos` counts the destination bytes whose chunk has been performed. -/
structure CopyOp where
  id : Nat
  wave : Nat
  group : Nat
  core : Nat
  seq : Nat
  batch : Nat
  pc : Word
  kind : OpKind
  dst : End
  src : End
  nums : List Nat
  data : List Byte
  len : Nat
  acc : Option Nat
  flag : Option (Nat × Nat)
  sreg : Nat
  /-- Sticky bits that an MDRAIN has raised so far (R266). -/
  sticky : Word
  pos : Nat
  fired : Bool
  started : Bool
  /-- First claimed count of the source channel, and first count of the destination channel (R238). -/
  srcAt : Nat
  dstAt : Nat
  /-- Lowest element skipped so far (R246). -/
  skip : Option Nat
  /-- The running segment's end, whether it is suspended, the last slot it overran (R244, R352). -/
  segEnd : Nat
  suspended : Bool
  overran : Option Nat
  /-- Traffic of a chunk has failed (R339). -/
  failed : Bool
  /-- The position of the last chunk whose bytes have been requested from an endpoint (R346). -/
  asked : Option Nat
deriving DecidableEq, Repr

/-- The work of a matrix-queue entry (R258, R261, R266). `snap` is the store as it stood when the lacing unit could first
read it (R262). -/
inductive MatKind
  | obld (src : Option Nat) (bytes : List Byte) (at_ count : Nat) (res : Nat)
  | mma (signers : List Sign) (n : Nat) (lace : Lace) (res : Res) (fmt : MFmt) (la lb : BitVec 2) (word : Word)
      (snap : Option Store)
  | mdrain (base rows ooff ostr roff rstr p24 : Nat) (alpha : BitVec 32) (step row0 col0 : Nat) (act withRes : Bool)
      (rm : Rm) (f : FType) (bank : Bool) (accs : List Word) (op : Nat)
deriving DecidableEq, Repr

/-- A matrix-queue entry (R262). -/
structure MatEnt where
  id : Nat
  wave : Nat
  group : Nat
  seq : Nat
  pc : Word
  entered : Nat
  started : Option Nat
  kind : MatKind
deriving DecidableEq, Repr

/-- A unit operation (R274): its word's operation and operands. -/
inductive UnitKind
  | bind (d a b : Nat)
  | perm (d a n : Nat)
  | bund (d a : Nat)
  | thr (d a : Nat)
  | clr (d : Nat)
  | set (d : Nat) (w : Word)
  | dist (d a b : Nat)
  | pop (d a : Nat)
  | tie (a : Nat)
  | cw (w : CtrW)
  | srch (d a table : Nat) (two : Bool)
deriving DecidableEq, Repr

/-- A unit-queue entry; `read` holds the words it read at its start (R274). -/
structure UnitOp where
  id : Nat
  wave : Nat
  pc : Word
  issued : Nat
  started : Option Nat
  kind : UnitKind
  read : List Word
deriving DecidableEq, Repr

/-- A search in a Geode's FIFO (R285). -/
structure Search where
  id : Nat
  wave : Nat
  pc : Word
  d : Nat
  two : Bool
  table : Nat
  query : List Word
  /-- clk of work left, once started. -/
  left : Option Nat
  suspended : Bool
  overran : Option Nat
deriving DecidableEq, Repr

/-- One bank of the activation table (R124). -/
structure ActBank where
  lo : BitVec 32
  rstep : BitVec 32
  segs : Words
deriving DecidableEq, Repr

/-- The activation table: two banks and the selector (R124). -/
structure ActTable where
  bank0 : ActBank
  bank1 : ActBank
  sel : Bool
deriving DecidableEq, Repr

/-- An ACTLD in flight (R126). -/
structure ActLoad where
  bank : Bool
  due : Nat
  data : ActBank
deriving DecidableEq, Repr

/-- A line of an instruction cache: its IA / 64, and its words as they stood at the fill (R381, R95). -/
structure ILine where
  line : Nat
  words : List Word
deriving DecidableEq, Repr

/-- A core of a compute die (R20). -/
structure Core where
  /-- The context whose activation table the core holds (R124). -/
  actCtx : Option Nat
  act : ActTable
  actLoads : List ActLoad
  /-- The last clk at which an ACT of bank 0, of bank 1, is within its latency; the clk of the last ACTSWAP, with the
selector as it stood before that clk's first one (R127). -/
  actUse0 : Nat
  actUse1 : Nat
  swapAt : Option (Nat × Bool)
  /-- The engine queue: operations not yet started, in order (R237). -/
  engineQ : List Nat
  matQ : List MatEnt
  /-- The clk in which the last matrix entry, unit operation completed. -/
  matDone : Nat
  unitQ : List UnitOp
  unitDone : Nat
  /-- The operand buffer (R249), by byte. -/
  ob : Store
  icache : List ILine
  /-- Fetch pauses until this clk (R95). -/
  fetchAt : Nat
  missUsed : Nat
  /-- The L1 data cache (R20, R157). -/
  l1 : List CSec
  /-- Waves whose rejections have reached 64, in the order in which they did (R193). -/
  starved : List Nat
  /-- Entries that were free when the wave served first reached its count: other waves may still take these (R193). -/
  spare : Nat
  sampler : Sampler
  /-- Start-up, test or recovery service (R193). -/
  service : Bool
  /-- The first clk at which each quad's vector pipe takes a word (R77). -/
  pipes : List Nat
deriving DecidableEq, Repr

/-! Dies -/

/-- A cached run (R326): first page, size, first frame. -/
structure Run where
  page : Nat
  size : Nat
  pfn : Nat
deriving DecidableEq, Repr

/-- A parked access (R327), with the clk at which it parked. -/
structure Parked where
  ref : AccRef
  ia : Nat
  ctx : Option Nat
  since : Nat
deriving DecidableEq, Repr

/-- A Geode table (Table 13.2). -/
structure GTab where
  owner : Nat
  base : Nat
  n : Nat
deriving DecidableEq, Repr

/-- The phase of a die reset (R340). -/
inductive ResetSt
  | none
  | drain (deadline : Nat)
  | reset
deriving DecidableEq, Repr

/-- A compute die (R13, R17). -/
structure Die where
  /-- Module flash: the die record is valid, the die is marked disabled, its two disabled sites (R19). -/
  recValid : Bool
  recDisabled : Bool
  site0 : Nat
  site1 : Nat
  applied : Bool
  inReset : Bool
  retired : Bool
  resetting : ResetSt
  /-- Unwritten Slate bytes read as zero: the Slate has been cleared by a die reset (R341). -/
  slateClear : Bool
  /-- Translation block (Table 18.3) and run cache. -/
  ptroot : Word
  busy : Bool
  conflicts : Word
  lastconf : Nat
  bounced : Word
  runs : List Run
  parked : List Parked
  bouncedAcc : List (Parked × Nat)
  /-- Lines that a replay has walked with success and whose access has still to act, with the frame found (R329, R330). -/
  walked : List (Parked × Nat)
  /-- Pages already recorded since the last replay: context, page (R327). -/
  recorded : List (Nat × Nat)
  /-- Geode block (Table 13.2) and FIFO. -/
  gmib : Nat
  tables : List GTab
  searches : List Search
  /-- Sectors' next tags and tags whose sweep is not complete (R159). -/
  tags : List Nat
  sweeping : List (Nat × Nat)
  /-- The L2 slice of each sector (R17, R175). -/
  l2 : List (List CSec)
  /-- The brand table and queue (R148, R149). -/
  entries : List BEnt
  bq : List BReq
  /-- A grant has been returned, or a request withdrawn, so that the queue is scanned at the end of this clk (R149). -/
  scan : Bool
  /-- Requests that have reached the home in this clk, and answers that have not left it (R149). -/
  incoming : List BReq
  answers : List Answer
  /-- Sensor block words 0 to 2 (Table 20.3), and the slot whose sweep last found 115 °C. -/
  sens0 : Word
  sens1 : Word
  sens2 : Word
  hotAt : Option Nat
  corrected : Nat
deriving DecidableEq, Repr

/-! Contexts, queues, kernels -/

/-- Table 14.2. -/
inductive CtxSt | free | creating | active | preempted | faulted | killing | reclaiming
deriving DecidableEq, Repr

/-- A fault-queue record (Table 14.5). -/
structure FRec where
  clk : Nat
  pc : Word
  info : Word
  kid : BitVec 32
  code : Nat
  source : Nat
  wave : Nat
deriving DecidableEq, Repr

/-- A range register's three words (Table 14.3). -/
structure Map where
  w0 : Word
  w1 : Word
  w2 : Word
deriving DecidableEq, Repr

/-- A context (Table 14.1). -/
structure Ctx where
  st : CtxSt
  maps : List Map
  vdies : BitVec 32
  stchk : Bool
  det : Bool
  /-- A pre-emption has been requested: no wave of the context issues until its groups are saved (R296). -/
  preempting : Bool
  /-- The fault queue: the die and physical address of its ring, its records, how many of them stand in the ring already, the
  records that it holds (Table 14.1). -/
  ringDie : Nat
  ringPa : Nat
  faults : List FRec
  landed : Nat
  cap : Nat
  dropped : Nat
  saveCap : Nat
  saveUsed : Nat
  /-- Activation tables saved per core (R124). -/
  acts : List (Nat × ActTable)
  /-- Dies whose brand table the reclaim walk has finished, while RECLAIMING. -/
  walked : Bool
deriving DecidableEq, Repr

/-- The command a queue has in flight (Table 15.3). `msg` is the flag message of a SIGNAL that has been sent, or 0. -/
inductive Cmd
  | launch (kernel : Nat)
  | waitq (q : Nat) (v : Word)
  | signal (dst flag : Nat) (v : Word) (msg : Nat)
  | slatew (src dst len : Nat)
  | geodew (src die table n : Nat)
deriving DecidableEq, Repr

/-- A queue descriptor (Table 15.1) and its in-flight commands (R301). -/
structure Queue where
  q : Nat
  ring : Nat
  capl : Nat
  dbell : Nat
  owner : Nat
  priv : Bool
  prio : Nat
  st : Nat
  consumed : Nat
  mark : Word
  err : Nat
  inflight : List (Nat × Cmd)
  prev : Option Nat
  resetReq : Bool
  /-- It was disowned while its doorbell could not be read: its entries are discarded once it can (R301). -/
  purge : Bool
deriving DecidableEq, Repr

/-- Table 16.2. -/
inductive KernSt | queued | waitingDep | launching | running | draining | complete | faulted
deriving DecidableEq, Repr

/-- The stamp of a determinism-mode kernel (R201, R212): the (group, wave) that holds it, the access number of a
pass under way, and whether it is on its way to another die as a rein message (R207). -/
structure Stamp where
  grp : Nat
  wave : Nat
  passing : Option Nat
  retired : Bool
  moving : Bool
deriving DecidableEq, Repr

/-- A kernel (R306, R309). -/
structure Kernel where
  uid : Nat
  ctx : Nat
  queue : Nat
  kid : BitVec 32
  st : KernSt
  producer : Option Nat
  order : Nat
  entry : Word
  trapent : Word
  fp : Nat
  wpg : Nat
  ngrp : Nat
  early : Bool
  det : Bool
  scr : Nat
  win : Nat
  views : Word
  seed : Word
  args : List Word
  /-- Groups placed so far, and groups that are DONE. -/
  placed : Nat
  done : Nat
  stamp : Option Stamp
  /-- Physical dies the kernel has run on (R161). -/
  dies : List Nat
  /-- Dies whose report of the kernel's completion is still under way, once they have been sent (R207). -/
  reports : Option (List Nat)
deriving DecidableEq, Repr

/-! Links and the fabric -/

/-- A link (Tables 19.3, 19.5). -/
structure Link where
  st : Nat
  lanemap : BitVec 32
  replays : Nat
  attempts : Nat
  refused : Nat
  rlanes : Nat
  half : Bool
  width : Nat
  /-- Times of recent faults and flit replays, and the attempt's deadline (R334 to R336). -/
  faultTimes : List Nat
  replayTimes : List Nat
  deadline : Nat
  /-- The first clk after the last command (R334). -/
  after : Nat
deriving DecidableEq, Repr

/-- A link by its number. -/
structure LinkRec where
  n : Nat
  link : Link
deriving DecidableEq, Repr

/-- A delivery context of the ephemeral mode (R346): endpoint, last traffic, next sequence number. -/
structure Deliv where
  ep : Nat
  last : Nat
  seq : Nat
deriving DecidableEq, Repr

/-- The start-up stage (Table 21.1); `minimal` is the device that stays at minimal safe function (R368). -/
inductive Stage | off | s0 | s1 | s2 | s3 | full | minimal
deriving DecidableEq, Repr

/-! The machine -/

/-- A 64 B sector with an uncorrectable error, named by place / 64, with the tier that holds it (R199). `mask` are the bytes
that the store named `by_` has rewritten so far. -/
structure Bad where
  sec : Nat
  tier : Nat
  mask : Nat
  by_ : Nat
deriving DecidableEq, Repr

/-- The machine. -/
structure State where
  /-- clk of the saddle timebase (R348). -/
  clk : Nat
  stage : Stage
  /-- The model's own: the events that the environment and the units choose, in order (assumption 1). -/
  agenda : List Instr
  /-- The model's own: the quad that is offered issue next in this clk, the issuing wave, what has issued in this clk
  with its lanes and address, whether the clk's first events are done (assumption 2). -/
  cursor : Nat
  cur : Option Nat
  issued : List (Nat × Nat × Word)
  begun : Bool
  nextUid : Nat
  freeCtr : Nat
  /-- All stored bytes, by storage key (R174, R201). -/
  mem : Store
  /-- Granules whose full-empty bit is full, by storage key / 16 (R177). -/
  full : List Nat
  /-- Sectors whose data are uncorrectable (R199). -/
  bad : List Bad
  cores : List Core
  dies : List Die
  ctxs : List Ctx
  queues : List Queue
  kernels : List Kernel
  groups : List Group
  waves : List Wave
  grants : List Grant
  /-- Requests that have reached a fabric endpoint and wait for its answer (R149, R158). -/
  ebq : List BReq
  /-- Deferred faults that region registers hold (R158). -/
  regFaults : List (RegRef × FaultRec)
  bins : List Bin
  ops : List CopyOp
  hqs : List (Nat × HAtom)
  packets : List Packet
  /-- Paths used since the last marker: source, destination, path (O9). -/
  used : List (Nat × Nat × Nat)
  reins : List Rein
  /-- Rein messages that have acted at an endpoint and are not acknowledged yet (R346). -/
  unacked : List Rein
  flags : List Flag
  acks : List Ack
  inbound : List Inbound
  links : List LinkRec
  /-- Fabric table and inbound windows (Tables 19.6, 19.7), by entry and by window word. -/
  fabric : Words
  windows : Words
  delivs : List Deliv
  /-- Packets in flight per endpoint in selective mode are numbered (R346): endpoint, next number. -/
  nums : List (Nat × Nat)
  /-- Module sensor block (Table 20.3). -/
  msens0 : Word
  msens1 : Word
  /-- The slot of the last sensor sweep (R354). -/
  swept : Option Nat
  /-- Management CSRs (Table 21.4): for jxhealth the retired memory channels (12 to a die) and the eDRAM spares;
  jxwdog.LAST, jxbrandw, jxswap and the version of the image that a swap has verified. -/
  chLost : List Nat
  spare : Bool
  spared : Bool
  wdogLast : Nat
  brandw : BitVec 19
  swapImg : Nat
  swapStat : Nat
  paused : Bool
  swapVer : Nat
  /-- The image that the swap under way has taken from jxswap.IMG, and the clk at which its pause began (R371). -/
  swapFrom : Nat
  pauseAt : Nat
  /-- The clk at which the running rigging started (R375). -/
  riggingAt : Nat
  minVer0 : Nat
  minVer1 : Nat
  /-- The versions of the running images: saddle tree, rigging (R369). -/
  ver0 : Nat
  ver1 : Nat
  /-- Watchdog levels taken whose bounds still run: level, its context or die, the clk (R375). -/
  ladder : List (Nat × Nat × Nat)
  /-- The dispatcher served this queue last (R302). -/
  served : Nat
  /-- A slot is in progress (R348). -/
  inSlot : Bool
deriving DecidableEq, Repr

/-- Why the machine stops with a fault. -/
inductive Fault
  /-- A meaning of an instruction word was applied in a state in which no wave is issuing. Raised by every word's
  meaning when `cur` names no wave; `step` always names one first, so no run meets it. Safe. -/
  | noIssuingWave
deriving DecidableEq, Repr

/-- Why the machine gives an instruction no meaning. -/
inductive Refusal
  /-- The instruction has no meaning yet. Raised by `exec`. Safe. -/
  | notModelled (mnemonic : String)
deriving DecidableEq, Repr

/-- What a step answers. -/
abbrev Out := Host.Outcome State Fault Refusal

/-- A bank of the activation table with every value +0 (R124). -/
def ActBank.zero : ActBank := { lo := 0, rstep := 0, segs := [] }

/-- The activation table of a new context (R124). -/
def ActTable.zero : ActTable := { bank0 := .zero, bank1 := .zero, sel := false }

/-- A sampler after reset: off and free (R356). -/
def Sampler.reset : Sampler :=
  { owner := none, base := 0, cap := 0, period := 0, on := false, ton := 0, w := 0, c := 0, n := 0, dropped := 0,
    target := none }

/-- A core after reset: queues and caches empty (R20). -/
def Core.reset : Core :=
  { actCtx := none, act := .zero, actLoads := [], actUse0 := 0, actUse1 := 0, swapAt := none, engineQ := [],
    matQ := [], matDone := 0, unitQ := [], unitDone := 0, ob := [], icache := [], fetchAt := 0, missUsed := 0, l1 := [], starved := [], spare := 0,
    sampler := .reset, service := true, pipes := [0, 0, 0, 0] }

/-- A compute die after device reset: held in reset (R367), its die record not yet applied, Geode store 32 MiB
(R283). The contents of module flash are assumption 4. -/
def Die.reset : Die :=
  { recValid := true, recDisabled := false, site0 := 2, site1 := 5, applied := false, inReset := true,
    retired := false, resetting := .none, slateClear := false, ptroot := 0, busy := false, conflicts := 0, lastconf := 0,
    bounced := 0, runs := [], parked := [], bouncedAcc := [], walked := [], recorded := [], gmib := 32,
    tables := List.replicate 8 { owner := 0, base := 0, n := 0 }, searches := [], tags := [0, 0, 0, 0],
    sweeping := [], l2 := [[], [], [], []], entries := [], bq := [], scan := false, incoming := [],
    answers := [], sens0 := 0, sens1 := 0, sens2 := 0, hotAt := none, corrected := 0 }

/-- A context before it is created (R288). -/
def Ctx.reset : Ctx :=
  { st := .free, maps := List.replicate 16 { w0 := 0, w1 := 0, w2 := 0 }, vdies := 0, stchk := false, det := false,
    preempting := false,
    ringDie := 0, ringPa := 0, faults := [], landed := 0, cap := 0, dropped := 0, saveCap := 0, saveUsed := 0, acts := [], walked := false }

/-- A queue descriptor after reset (Table 15.1). -/
def Queue.reset (q : Nat) : Queue :=
  { q := q, ring := 0, capl := 0, dbell := 0, owner := 0, priv := false, prio := 0, st := 0, consumed := 0, mark := 0,
    err := 0, inflight := [], prev := none, resetReq := false, purge := false }

/-- A link after device reset: DOWN (R334, Table 19.5). -/
def Link.reset : Link :=
  { st := 0, lanemap := 0, replays := 0, attempts := 0, refused := 0, rlanes := 0, half := false, width := 0,
    faultTimes := [], replayTimes := [], deadline := 0, after := 0 }

/-- The numbers of the links (Table 19.1). -/
def linkNumbers : List Nat :=
  [0, 1, 2, 3, 4, 5, 6, 7, 8, 9, 16, 17, 18, 19, 20, 21, 22, 23,
   32, 33, 34, 35, 36, 37, 38, 39, 40, 41, 42, 43, 44, 45, 46, 47]

/-- The machine right after device reset, before power good starts stage 0 (R367). Queues are listed once they hold
anything but their reset values. -/
def State.reset : State :=
  { clk := 0, stage := .off, agenda := [], cursor := 0, cur := none, issued := [], begun := false, nextUid := 1,
    freeCtr := 0, mem := [], full := [], bad := [], cores := List.replicate 320 Core.reset, dies := List.replicate 8 Die.reset,
    ctxs := List.replicate 64 Ctx.reset, queues := [], kernels := [], groups := [], waves := [], grants := [], ebq := [],
    regFaults := [], bins := [], ops := [], hqs := [], packets := [], used := [], reins := [], unacked := [], flags := [],
    acks := [], inbound := [], links := linkNumbers.map (fun n => { n := n, link := .reset }), fabric := [], windows := [],
    delivs := [], nums := [], msens0 := 0, msens1 := 0, swept := none, chLost := [], spare := false, spared := false,
    wdogLast := 7, brandw := 0, swapImg := 0, swapStat := 0, paused := false, swapVer := 0, swapFrom := 0, pauseAt := 0, riggingAt := 0, minVer0 := 0, minVer1 := 0,
    ver0 := 0, ver1 := 0, ladder := [],
    served := 1023, inSlot := false }

end Sys2Proof.Machine
end

