-- ==== Sys2Proof/Machine/Store.lean ====
section
/-! DEFINITION. Reading and writing the tables of words and the byte stores of State, in their canonical forms. -/

namespace Sys2Proof.Machine

/-- The word at a key; a key that is not listed reads 0. -/
def wget : Words → Nat → Word
  | [], _ => 0
  | (a, v) :: r, k => if a = k then v else wget r k

/-- A table with one word put in its place. -/
def wput : Words → Nat → Word → Words
  | [], k, v => [(k, v)]
  | (a, x) :: r, k, v =>
    if k < a then (k, v) :: (a, x) :: r
    else if k = a then (k, v) :: r
    else (a, x) :: wput r k v

/-- A table with one word replaced; a word of 0 is not listed. -/
def wset (m : Words) (k : Nat) (v : Word) : Words := if v = 0 then m.filter (·.1 != k) else wput m k v

/-- The byte at a key, if one has been written. -/
def sget? : Store → Nat → Option Byte
  | [], _ => none
  | (a, v) :: r, k => if a = k then some v else if k < a then none else sget? r k

/-- A store with one byte written. -/
def sput : Store → Nat → Byte → Store
  | [], k, v => [(k, v)]
  | (a, x) :: r, k, v =>
    if k < a then (k, v) :: (a, x) :: r
    else if k = a then (k, v) :: r
    else (a, x) :: sput r k v

/-- A store with one byte removed. -/
def sdel : Store → Nat → Store
  | [], _ => []
  | (a, x) :: r, k => if k < a then (a, x) :: r else if k = a then r else (a, x) :: sdel r k

/-- A store with a run of bytes written. -/
def sputs (m : Store) (k : Nat) : List Byte → Store
  | [] => m
  | b :: bs => sputs (sput m k b) (k + 1) bs

/-- The cells of a store whose keys lie in a range. -/
def scells (m : Store) (k n : Nat) : Store := m.filter fun c => decide (k ≤ c.1) && decide (c.1 < k + n)

/-- A store without the keys of a range. -/
def sdels (m : Store) (k n : Nat) : Store := m.filter fun c => !(decide (k ≤ c.1) && decide (c.1 < k + n))

/-- A store with every cell of another written into it. -/
def smerge (m : Store) (cells : Store) : Store := cells.foldl (fun m c => sput m c.1 c.2) m

/-- A sorted list of numbers with one added. -/
def nins : List Nat → Nat → List Nat
  | [], k => [k]
  | a :: r, k => if k < a then k :: a :: r else if k = a then a :: r else a :: nins r k

/-- A sorted list of numbers with one removed. -/
def ndel (l : List Nat) (k : Nat) : List Nat := l.filter (· != k)

/-- Byte `i` of a word, little-endian (R5). -/
def byteOf (w : Word) (i : Nat) : Byte := w.extractLsb' (8 * i) 8

/-- A word with byte `i` replaced. -/
def setByte (w : Word) (i : Nat) (b : Byte) : Word :=
  (w &&& ~~~((0xFF#64) <<< (8 * i))) ||| ((b.setWidth 64) <<< (8 * i))

/-- The value of bytes taken little-endian (R5). -/
def leNat : List Byte → Nat
  | [] => 0
  | b :: bs => b.toNat + 256 * leNat bs

/-- The low `n` bytes of a number, little-endian (R5). -/
def leBytes (n : Nat) (x : Nat) : List Byte := (List.range n).map fun i => BitVec.ofNat 8 (x / 256 ^ i)

/-- The word that eight bytes form. -/
def leWord (bs : List Byte) : Word := BitVec.ofNat 64 (leNat bs)

/-- One byte of a register window (R97). -/
def winByte (m : Words) (i : Nat) : Byte := byteOf (wget m (i / 8)) (i % 8)

/-- A window with one byte written. -/
def winSetByte (m : Words) (i : Nat) (b : Byte) : Words := wset m (i / 8) (setByte (wget m (i / 8)) (i % 8) b)

/-- A run of window bytes. -/
def winBytes (m : Words) (i n : Nat) : List Byte := (List.range n).map fun j => winByte m (i + j)

/-- A window with a run of bytes written. -/
def winSetBytes (m : Words) (i : Nat) : List Byte → Words
  | [] => m
  | b :: bs => winSetBytes (winSetByte m i b) (i + 1) bs

/-- `n` 64-bit words of a window from an 8-byte slot. -/
def winWords (m : Words) (slot n : Nat) : List Word := (List.range n).map fun j => wget m (slot + j)

/-- A window with 64-bit words written from a slot. -/
def winSetWords (m : Words) (slot : Nat) : List Word → Words
  | [] => m
  | w :: ws => winSetWords (wset m slot w) (slot + 1) ws

/-- Bits `lo` to `lo + n - 1` of a word, as a number. -/
def fld (w : Word) (lo_ n : Nat) : Nat := (w.toNat / 2 ^ lo_) % 2 ^ n

/-- Division rounded up. -/
def cdiv (a b : Nat) : Nat := (a + b - 1) / b

/-- A word from a number. -/
def wd (n : Nat) : Word := BitVec.ofNat 64 n

/-- A Bool as a number. -/
def b2n (b : Bool) : Nat := if b then 1 else 0

end Sys2Proof.Machine
end

