-- ==== Sys2Proof/Machine/Ops.lean ====
section
/-! DEFINITION. The named operations over State: finding and replacing its objects, storage keys and pages, bytes of the
homes and of the scratchpad, fault records, killing a group, taking an exception and returning from it. -/

namespace Sys2Proof.Machine

open Sys2Proof

/-! Finding and replacing objects -/

/-- A list with every element that satisfies `p` replaced. -/
def replace {α : Type} (p : α → Bool) (a : α) (l : List α) : List α := l.map fun x => if p x then a else x

/-- The wave of that name. -/
def State.wave? (s : State) (u : Nat) : Option Wave := s.waves.find? (·.uid == u)
/-- The state with that wave replaced. -/
def State.setWave (s : State) (w : Wave) : State := { s with waves := replace (·.uid == w.uid) w s.waves }
/-- The group of that name. -/
def State.group? (s : State) (u : Nat) : Option Group := s.groups.find? (·.uid == u)
/-- The state with that group replaced. -/
def State.setGroup (s : State) (g : Group) : State := { s with groups := replace (·.uid == g.uid) g s.groups }
/-- The kernel of that name. -/
def State.kernel? (s : State) (u : Nat) : Option Kernel := s.kernels.find? (·.uid == u)
/-- The state with that kernel replaced. -/
def State.setKernel (s : State) (k : Kernel) : State := { s with kernels := replace (·.uid == k.uid) k s.kernels }
/-- The grant of that name. -/
def State.grant? (s : State) (u : Nat) : Option Grant := s.grants.find? (·.gid == u)
/-- The grant that a region register holds; none when the register is EMPTY. -/
def State.reg? (s : State) (r : RegRef) : Option Grant := s.grants.find? (·.reg == r)
/-- The state with that grant replaced. -/
def State.setGrant (s : State) (g : Grant) : State := { s with grants := replace (·.gid == g.gid) g s.grants }
/-- The state without that grant: its register is EMPTY. -/
def State.delGrant (s : State) (u : Nat) : State := { s with grants := s.grants.filter (·.gid != u) }
/-- The copy operation of that name. -/
def State.op? (s : State) (u : Nat) : Option CopyOp := s.ops.find? (·.id == u)
/-- The state with that copy operation replaced. -/
def State.setOp (s : State) (o : CopyOp) : State := { s with ops := replace (·.id == o.id) o s.ops }
/-- The state without that copy operation, which also leaves its engine queue. -/
def State.delOp (s : State) (u : Nat) : State :=
  { s with ops := s.ops.filter (·.id != u),
           cores := s.cores.map fun c => { c with engineQ := c.engineQ.filter (· != u) } }
/-- A core, by die × 40 + core. -/
def State.core (s : State) (i : Nat) : Core := s.cores.getD i Core.reset
/-- The state with that core replaced. -/
def State.setCore (s : State) (i : Nat) (c : Core) : State := { s with cores := s.cores.set i c }
/-- A compute die. -/
def State.die (s : State) (d : Nat) : Die := s.dies.getD d Die.reset
/-- The state with that die replaced. -/
def State.setDie (s : State) (d : Nat) (x : Die) : State := { s with dies := s.dies.set d x }
/-- A context. -/
def State.ctx (s : State) (c : Nat) : Ctx := s.ctxs.getD c Ctx.reset
/-- The state with that context replaced. -/
def State.setCtx (s : State) (c : Nat) (x : Ctx) : State := { s with ctxs := s.ctxs.set c x }
/-- A queue. -/
def State.queue (s : State) (q : Nat) : Queue := (s.queues.find? (·.q == q)).getD (Queue.reset q)
/-- Queues in ascending order with one replaced; a queue at its reset values is not listed. -/
def insQueue : List Queue → Queue → List Queue
  | [], q => if q = Queue.reset q.q then [] else [q]
  | a :: r, q =>
    if q.q < a.q then (if q = Queue.reset q.q then a :: r else q :: a :: r)
    else if q.q = a.q then (if q = Queue.reset q.q then r else q :: r)
    else a :: insQueue r q
/-- The state with that queue replaced. -/
def State.setQueue (s : State) (q : Queue) : State := { s with queues := insQueue s.queues q }
/-- A link. -/
def State.link (s : State) (n : Nat) : Link := ((s.links.find? (·.n == n)).map (·.link)).getD Link.reset
/-- The state with that link replaced. -/
def State.setLink (s : State) (n : Nat) (l : Link) : State :=
  { s with links := replace (·.n == n) { n := n, link := l } s.links }
/-- A fresh name. -/
def State.fresh (s : State) : State × Nat := ({ s with nextUid := s.nextUid + 1 }, s.nextUid)

/-- The kernel of a wave. -/
def State.kernelOf? (s : State) (w : Wave) : Option Kernel := do
  let g ← s.group? w.group
  s.kernel? g.kernel
/-- The context of a wave; 0 for a wave without a kernel. -/
def State.ctxOf (s : State) (w : Wave) : Nat := ((s.kernelOf? w).map (·.ctx)).getD 0
/-- The die of a wave. -/
def State.dieOf (s : State) (w : Wave) : Nat := ((s.group? w.group).map (·.die)).getD 0
/-- The core of a wave, by die × 40 + core. -/
def State.coreOf (s : State) (w : Wave) : Nat := s.dieOf w * 40 + w.core

/-! Scalar registers (R101) -/

/-- A scalar register; s0 reads as zero. -/
def Wave.sget (w : Wave) (n : Nat) : Word := if n = 0 then 0 else wget w.sregs n
/-- A scalar register written; a write to s0 is discarded. -/
def Wave.sset (w : Wave) (n : Nat) (v : Word) : Wave :=
  if n = 0 then w else { w with sregs := wset w.sregs n v }
/-- The condition register cn of a lane, as a 4-bit value S, Z, C, V. -/
def Wave.ccGet (w : Wave) (n lane : Nat) : BitVec 4 := (wget w.cc lane).extractLsb' (4 * n) 4
/-- The condition register cn of a lane written. -/
def Wave.ccSet (w : Wave) (n lane : Nat) (f : BitVec 4) : Wave :=
  let old := wget w.cc lane
  { w with cc := wset w.cc lane ((old &&& ~~~((0xF#64) <<< (4 * n))) ||| ((f.setWidth 64) <<< (4 * n))) }
/-- Flags S, Z, C and V written into sf[3:0]. -/
def Wave.sfSet (w : Wave) (f : BitVec 4) : Wave :=
  { w with sf := (w.sf &&& ~~~0xF#64) ||| f.setWidth 64 }
/-- The pending writes of sf after sticky bits are ORed in at clk `d`: a reader before a write that is due later sees
them, and a write of the whole register due later replaces them. The second part tells whether one does. -/
def stickyEarly (m : Word) (d : Nat) : List Early → List Early × Bool
  | [] => ([], false)
  | e :: r =>
    if e.loc == .sf then
      let e' := { e with old := wset e.old 0 (wget e.old 0 ||| m) }
      if e.whole && decide (d < e.due) then (e' :: r, true)
      else let x := stickyEarly m d r; (e' :: x.1, x.2)
    else let x := stickyEarly m d r; (e :: x.1, x.2)
/-- Sticky bits ORed into sf at clk `d` (R42); `m` is in sf's own bit positions. A write that software makes in the
same clk takes effect first. -/
def Wave.sticky (w : Wave) (d : Nat) (m : Word) : Wave :=
  if m = 0 then w
  else
    let x := stickyEarly m d w.early
    { w with early := x.1, sf := if x.2 then w.sf else w.sf ||| m }
/-- Sticky bits that a word raises with a result due at clk `d`. -/
def Wave.raise (w : Wave) (d : Nat) (m : Word) : Wave := if m = 0 then w else { w with stk := w.stk ++ [(d, m)] }
/-- The sticky bits due by a clk are ORed in. -/
def Wave.landSticky (w : Wave) (clk : Nat) : Wave :=
  { (w.stk.filter fun x => decide (x.1 ≤ clk)).foldl (fun w x => w.sticky x.1 x.2) w with
      stk := w.stk.filter fun x => decide (clk < x.1) }

/-! Dies, sectors, clusters (R17, R18) -/

/-- The enabled sites of a die, in ascending order. -/
def Die.sites (d : Die) : List Nat := (List.range 12).filter fun x => x != d.site0 && x != d.site1
/-- The sector of a cluster of a die. -/
def Die.sectorOf (d : Die) (cluster : Nat) : Nat := (d.sites.getD cluster 0) / 3
/-- The sector of a core. -/
def State.sector (s : State) (d core : Nat) : Nat := (s.die d).sectorOf (core / 4)

/-! Virtual dies (R27) -/

/-- The physical die that a virtual die names. -/
def physDie? (vdies : BitVec 32) (v : Nat) : Option Nat :=
  let e := (vdies.toNat / 16 ^ v) % 16
  if 8 ≤ e then some (e % 8) else none
/-- The virtual die that names a physical die. -/
def virtDie? (vdies : BitVec 32) (d : Nat) : Option Nat :=
  (List.range 8).find? fun v => physDie? vdies v == some d

/-! Intermediate addresses (R174) -/

/-- IA space. -/
def iaSpace (ia : Nat) : Nat := (ia / 2 ^ 48) % 16
/-- The die field of an IA. -/
def iaDie (ia : Nat) : Nat := (ia / 2 ^ 44) % 16
/-- The endpoint number of a fabric IA. -/
def iaEp (ia : Nat) : Nat := (ia / 2 ^ 34) % 2 ^ 14
/-- The home of an IA: a die, or 8 plus an endpoint number. -/
def homeOf (ia : Nat) : Nat := if 8 ≤ iaSpace ia then 8 + iaEp ia else iaDie ia % 8
/-- The core field of a space-2 IA. -/
def iaCore (ia : Nat) : Nat := (ia / 2 ^ 38) % 64
/-- An IA that no store backs (R174). -/
def unbacked (ia : Nat) : Bool :=
  match iaSpace ia with
  | 0 => decide (8 ≤ iaDie ia)
  | 1 => decide (8 ≤ iaDie ia) || (ia / 2 ^ 28) % 2 ^ 16 != 0
  | 2 => decide (8 ≤ iaDie ia) || decide (40 ≤ iaCore ia) || (ia / 2 ^ 20) % 2 ^ 18 != 0
  | 3 | 4 | 5 | 6 | 7 => true
  | _ => false

/-- Storage key of a physical byte of a die's main memory. -/
def physKey (d pa : Nat) : Nat := 2 ^ 56 + d * 2 ^ 48 + pa
/-- Storage key of a byte of a core's scratchpad: its IA in space 2. -/
def coreKey (d core b : Nat) : Nat := 2 * 2 ^ 48 + d * 2 ^ 44 + core * 2 ^ 38 + b

/-- Storage key of byte `o` of a group's scratchpad (R176). -/
def Group.spKey (g : Group) (o : Nat) : Nat :=
  let f := g.cores.length
  let r := (o / 256) % f
  coreKey g.die (g.cores.getD r 0) (g.bases.getD r 0 + 256 * ((o / 256) / f) + o % 256)

/-- The bytes of a group's share on each of its cores (R176). -/
def shareLen (scr f : Nat) : Nat := 256 * cdiv scr f

/-- The group whose share holds a core byte (R176, R201). -/
def State.shareOf? (s : State) (key : Nat) : Option Group :=
  s.groups.find? fun g =>
    (g.st == .placed || g.st == .running || g.st == .exiting) && g.die == iaDie key &&
    (List.range g.cores.length).any fun r =>
      let scr := ((s.kernel? g.kernel).map (·.scr)).getD 0
      let base := g.bases.getD r 0
      g.cores.getD r 0 == iaCore key && decide (base ≤ key % 2 ^ 20) &&
        decide (key % 2 ^ 20 < base + shareLen scr g.cores.length)

/-- The byte of a storage key. A byte that nothing has written reads as a free value: scratchpad bytes of a group
(R176), or any other byte; a Slate byte reads 0 once a reset of its die has cleared the Slate (R341). -/
def State.byteAt (s : State) (key : Nat) : Byte :=
  match sget? s.mem key with
  | some b => b
  | none =>
    if key < 2 ^ 56 && iaSpace key == 2 then
      match s.shareOf? key with
      | some g => Config.scratchByte g.salt key
      | none => Config.memByte key
    else if key < 2 ^ 56 && iaSpace key == 1 && (s.die (iaDie key)).slateClear then 0
    else Config.memByte key

/-- A run of storage bytes. -/
def State.bytesAt (s : State) (key n : Nat) : List Byte := (List.range n).map fun i => s.byteAt (key + i)
/-- A 64-bit word of storage. -/
def State.wordAt (s : State) (key : Nat) : Word := leWord (s.bytesAt key 8)
/-- One byte of storage written. -/
def State.putByte (s : State) (key : Nat) (b : Byte) : State := { s with mem := sput s.mem key b }
/-- A run of storage bytes written. -/
def State.putBytes (s : State) (key : Nat) (bs : List Byte) : State := { s with mem := sputs s.mem key bs }

/-! Pages (R323 to R327) -/

/-- The result of a lookup: the physical address, or the reason and the level (minus 1) of Table 18.4. -/
inductive Walk
  | ok (pa : Nat)
  | unmapped (reason level : Nat)
deriving DecidableEq, Repr

/-- Bytes of main memory installed on a die (Table 1.2): 192 GiB. -/
def installed : Nat := 192 * 2 ^ 30

/-- The index of a level and the table entry's address (Table 18.1). -/
def walkIndex (level off_ : Nat) : Nat :=
  match level with
  | 1 => (off_ / 2 ^ 38) % 64
  | 2 => (off_ / 2 ^ 30) % 256
  | 3 => (off_ / 2 ^ 22) % 256
  | _ => (off_ / 2 ^ 14) % 256

/-- A page of a die lies in memory of a retired channel (Table 18.4, R372); the manual does not say which channel holds a page
(assumption 101). -/
def State.pageLost (s : State) (die pfn : Nat) : Bool := s.chLost.any fun c => c == 12 * die + Config.channelOf die pfn % 12

/-- A frame lies outside the die's installed, unretired memory (Table 18.4, reason 3). -/
def State.frameLost (s : State) (die pfn : Nat) : Bool := decide (installed ≤ pfn * 2 ^ 14) || s.pageLost die pfn

/-- A walk of a die's tables from a level: the leaf's frame and RUN, or the reason (R324, R325, Table 18.4). -/
def State.walkFrom (s : State) (d off_ : Nat) : Nat → Nat → Nat → Nat × Nat ⊕ Nat × Nat
  | 0, _, _ => .inr (2, 3)
  | fuel + 1, level, table =>
    let e := s.wordAt (physKey d (table + 8 * walkIndex level off_))
    if !e.getLsbD 0 then .inr (if level = 4 then 0 else 1, level - 1)
    else if level = 4 then
      if fld e 48 12 != 0 || fld e 11 3 != 0 || fld e 2 9 != 0 || !e.getLsbD 1 then .inr (2, 3)
      else
        let pfn := fld e 14 34
        if s.frameLost d pfn then .inr (3, 3) else .inl (pfn, fld e 60 4)
    else if fld e 48 16 != 0 || fld e 2 9 != 0 || e.getLsbD 1 then .inr (2, level - 1)
    else if s.frameLost d (fld e 11 37 / 8) then .inr (3, level - 1)
    else s.walkFrom d off_ fuel (level + 1) (fld e 11 37 * 2 ^ 11)

/-- The cached run that holds a page. -/
def runOf? (runs : List Run) (p : Nat) : Option Run :=
  runs.find? fun r => decide (r.page ≤ p) && decide (p < r.page + r.size)

/-- Two page ranges overlap. -/
def runsMeet (a b : Run) : Bool := decide (a.page < b.page + b.size) && decide (b.page < a.page + a.size)

/-- Translation of an offset of a die's memory: a cached run, else a walk that installs its leaf's run, or on a conflict
a run of one page (R326). The most recently used run stands first; 2,048 are kept. -/
def State.translate (s : State) (d off_ : Nat) : State × Walk :=
  let x := s.die d
  let p := off_ / 2 ^ 14
  if !x.ptroot.getLsbD 0 then (s, .unmapped 1 0)
  else match runOf? x.runs p with
    | some r =>
      let pfn := r.pfn + (p - r.page)
      (s.setDie d { x with runs := r :: x.runs.filter (· != r) },
       if s.frameLost d pfn then .unmapped 3 3 else .ok (pfn * 2 ^ 14 + off_ % 2 ^ 14))
    | none =>
      match s.walkFrom d off_ 4 1 (fld x.ptroot 9 39 * 2 ^ 9) with
      | .inr (r, l) => (s, .unmapped r l)
      | .inl (pfn, run) =>
        let n := 2 ^ run
        let want : Run := { page := p - p % n, size := n, pfn := pfn - p % n }
        let clash := pfn % n != p % n || x.runs.any fun r => runsMeet r want && !(r.page == want.page && r.size == want.size)
        let pa := pfn * 2 ^ 14 + off_ % 2 ^ 14
        if clash then
          let one : Run := { page := p, size := 1, pfn := pfn }
          let rest := x.runs.filter fun r => !runsMeet r want
          (s.setDie d { x with runs := (one :: rest).take 2048, conflicts := x.conflicts + 1,
                               lastconf := d * 2 ^ 30 + p }, .ok pa)
        else (s.setDie d { x with runs := (want :: x.runs).take 2048 }, .ok pa)

/-- The storage key of an IA, or why it is unmapped (R323, R327). -/
def State.keyOf (s : State) (ia : Nat) : State × (Nat ⊕ Nat × Nat) :=
  if unbacked ia then (s, .inr (4, 0))
  else if iaSpace ia = 0 then
    match s.translate (iaDie ia) (ia % 2 ^ 44) with
    | (s', .ok pa) => (s', .inl (physKey (iaDie ia) pa))
    | (s', .unmapped r l) => (s', .inr (r, l))
  else (s, .inl ia)

/-- No line that a replay has walked waits to act. -/
def State.unpinned (s : State) : Bool := s.dies.all (·.walked.isEmpty)

/-- The pages that a replay found for the lines of an access (R329). -/
def Die.pins (d : Die) (r : AccRef) : List Run :=
  (d.walked.filter (·.1.ref == r)).map fun x => { page := x.1.ia % 2 ^ 44 / 2 ^ 14, size := 1, pfn := x.2 }

/-- An access that a replay has walked acts at the pages which it found, though a shoot-down has dropped their runs since
(R329, R330). -/
def State.pinning (s : State) (r : AccRef) (f : State → Option State) : Option State :=
  if s.unpinned then f s
  else
    (f { s with dies := s.dies.map fun d => { d with runs := d.pins r ++ d.runs } }).map fun t =>
      { t with dies := t.dies.zipIdx.map fun d =>
          let old := s.die d.2
          { d.1 with runs := d.1.runs.filter fun x => old.runs.contains x || !(old.pins r).contains x } }

/-- Reads bytes of a home by IA; none when one of them is unmapped. -/
def State.hRead (s : State) (ia : Nat) : Nat → State × Option (List Byte)
  | 0 => (s, some [])
  | n + 1 =>
    match s.keyOf ia with
    | (s1, .inr _) => (s1, none)
    | (s1, .inl k) =>
      let b := s1.byteAt k
      match s1.hRead (ia + 1) n with
      | (s2, some bs) => (s2, some (b :: bs))
      | (s2, none) => (s2, none)

/-! Uncorrectable sectors (R199) -/

/-- Places of bytes written by the store of a name, 0 for one that is written whole: a sector whose every byte the store has
rewritten is correct again, one rewritten in part stays as it is. -/
def Bad.wrote (name : Nat) (at_ : List Nat) (b : Bad) : Option Bad :=
  let here := at_.filter (· / 64 == b.sec)
  let m := here.foldl (fun m p => m ||| 2 ^ (p % 64)) (if name != 0 && b.by_ == name then b.mask else 0)
  if here.isEmpty then some b else if m = 2 ^ 64 - 1 then none else some { b with mask := m, by_ := name }

@[inherit_doc Bad.wrote] def State.wrote (s : State) (name : Nat) (at_ : List Nat) : State :=
  if s.bad.isEmpty then s else { s with bad := s.bad.filterMap (Bad.wrote name at_) }

/-- Cells of a home written, as far as its uncorrectable sectors are concerned. -/
def State.wroteHome (s : State) (name : Nat) (cells : Store) : State :=
  if s.bad.isEmpty then s
  else s.wrote name (cells.filterMap fun c => match (s.keyOf c.1).2 with
    | .inl k => some k
    | .inr _ => none)

/-- Whether every cell's IA is mapped; the lookups install runs. -/
def State.mappedAll (s : State) : Store → State × Bool
  | [] => (s, true)
  | (ia, _) :: r =>
    match s.keyOf ia with
    | (s1, .inr _) => (s1, false)
    | (s1, .inl _) => s1.mappedAll r

/-- Writes cells of a home by IA; none is written when one of them is unmapped (R328: the access parks). `name` names the
store that they belong to (R199). -/
def State.hWrite (s : State) (cells : Store) (name : Nat := 0) : State × Bool :=
  match s.mappedAll cells with
  | (s1, false) => (s1, false)
  | (s1, true) =>
    ((cells.foldl (fun s c => match s.keyOf c.1 with
      | (s', .inl k) => s'.putByte k c.2
      | (s', .inr _) => s') s1).wroteHome name cells, true)

/-- The saddle die as an end of rein traffic; compute dies are 0 to 7 and endpoint e is 8 + e. -/
def saddle : Nat := 8 + 2 ^ 14

/-! Range registers (R289) -/

/-- A virtual address range hits a range register whole. -/
def Map.covers (m : Map) (va len : Nat) : Bool :=
  m.w0.getLsbD 3 && decide (fld m.w0 14 42 * 2 ^ 14 ≤ va) &&
    decide (va + len ≤ (fld m.w0 14 42 + fld m.w2 0 42) * 2 ^ 14)
/-- The IA of a virtual address under a range register. -/
def Map.ia (m : Map) (va : Nat) : Nat := fld m.w1 14 38 * 2 ^ 14 + (va - fld m.w0 14 42 * 2 ^ 14)
/-- The lowest-numbered range register that covers a range. -/
def Ctx.map? (c : Ctx) (va len : Nat) : Option Map := c.maps.find? (·.covers va len)

/-- A list placed in ascending order of a key; elements of one key keep their order. -/
def sortBy {α : Type} (key : α → Nat) (l : List α) : List α :=
  l.foldl (fun r x => r.takeWhile (fun y => decide (key y ≤ key x)) ++ [x] ++ r.dropWhile fun y => decide (key y ≤ key x)) []

/-! Fault records (R294) -/

/-- The 32 bytes of a record (Table 14.5). -/
def FRec.bytes (r : FRec) : List Byte :=
  leBytes 8 r.clk ++ leBytes 8 r.pc.toNat ++ leBytes 8 r.info.toNat ++ leBytes 4 r.kid.toNat ++ leBytes 1 r.code ++
    leBytes 1 r.source ++ leBytes 2 r.wave

/-- The storage key of record `i` of a context's ring, which lies in a die's main memory (Table 14.1; assumption 107). -/
def Ctx.recordKey (c : Ctx) (i : Nat) : Nat := physKey c.ringDie (c.ringPa + 32 * i)

/-- A record appended to a context's fault queue, whose bytes then go to the ring in device memory (`State.landRecord`), or
dropped and counted when the ring is full. -/
def State.record (s : State) (ctx : Nat) (r : FRec) : State :=
  let c := s.ctx ctx
  if c.faults.length < c.cap then s.setCtx ctx { c with faults := c.faults ++ [r] }
  else s.setCtx ctx { c with dropped := (c.dropped + 1) % 2 ^ 32 }

/-- A deferred fault given to a wave; if the wave has ended, it goes to the context's fault queue (R221, R245, R294). -/
def State.defer (s : State) (u : Nat) (f : FaultRec) : State :=
  match s.wave? u with
  | none => s
  | some w =>
    if w.st == .ended then
      match s.kernelOf? w with
      | none => s
      | some k => s.record k.ctx { clk := s.clk, pc := f.pc, info := f.info, kid := k.kid, code := f.code, source := 2, wave := w.index }
    else s.setWave { w with deferred := w.deferred ++ [f] }

/-! Queues after an error (R301) -/

/-- A queue enters ERROR with a reason. A queue in ERROR records the reason of a further error; one whose reset is pending keeps
its state and its reason (R301; DEDUCED, assumption 105). -/
def State.queueError (s : State) (q reason : Nat) : State :=
  let x := s.queue q
  if x.resetReq then s else s.setQueue { x with st := 5, err := reason }

/-! Releasing grants (R172) -/

/-- The entry of a home's brand table. -/
def State.entry? (s : State) (home idx : Nat) : Option BEnt := (s.die home).entries.find? (·.idx == idx)

/-- One holder of a brand-table entry gives it up: the entry is freed with its last holder. -/
def State.dropHolder (s : State) (home idx : Nat) : State :=
  let d := s.die home
  match d.entries.find? (·.idx == idx) with
  | none => s
  | some e =>
    if e.count ≤ 1 then s.setDie home { d with scan := true, entries := d.entries.filter (·.idx != idx) }
    else s.setDie home { d with scan := true, entries := replace (·.idx == idx) { e with count := e.count - 1 } d.entries }

/-- A message placed at the tail of a rein queue, ordering the girth packets of its pair that are under way (R207). -/
def State.sendRein (s : State) (src dst wave : Nat) (k : RKind) : State :=
  let (s, id) := s.fresh
  let need := (s.packets.filter fun p => p.src == src && p.dst == dst && !p.arrived).map (·.id)
  { s with reins := s.reins ++ [{ id := id, src := src, dst := dst, kind := k, need := need, flushed := false, wave := wave,
                                  route := none, num := none, port := none, sel := false, first := s.clk, last := s.clk }] }

/-- The wave or group that holds a region register has ended (R155). -/
def State.ownerEnded (s : State) (r : RegRef) : Bool :=
  if r.grp then match s.group? r.owner with
    | some g => g.st == .exiting || g.st == .done
    | none => true
  else match s.wave? r.owner with
    | some w => w.st == .ended
    | none => true

/-- Requests of a grant, and answers to them, withdrawn from the homes and from rein queues (R152). -/
def State.withdraw (s : State) (gid : Nat) : State :=
  let other (r : BReq) : Bool := r.who != Asker.grant gid
  { s with dies := s.dies.map fun d => { d with bq := d.bq.filter other, incoming := d.incoming.filter other,
                                                scan := d.scan || !d.bq.all other,
                                                answers := d.answers.filter fun a => other a.req },
           ebq := s.ebq.filter other,
           reins := s.reins.filter fun m => match m.kind with
             | .request r => other r
             | .answer a => other a.req
             | _ => true }

/-- A grant's return begins, by the RTN column and, for an ended owner, the "Owner ends" column of Table 7.3: a WAITING
request is withdrawn, a grant that its home has made already, or that is under way by RGMV, returns as if it had been held, a
HELD grant waits for O5, and so does a LENT or FROZEN one of an ended owner whose children are back. -/
def State.beginReturn (s : State) (gid : Nat) : State :=
  match s.grant? gid with
  | none => s
  | some g =>
    match g.st with
    | .held => s.setGrant { g with st := .returning }
    | .waiting =>
      match g.derive with
      | some (.moved _) => s.setGrant { g with st := .returning, derive := none }
      | _ => (s.withdraw gid).setGrant { g with st := .returning, derive := none, returned := g.entry.isNone }
    | .lent | .frozen =>
      if g.children = 0 && s.ownerEnded g.reg then s.setGrant { g with st := .returning } else s
    | .returning => s

/-- The child count of a parent falls by one; at 0 a FROZEN parent returns to HELD, and a parent whose owner has ended
begins its return (R152, R155). -/
def State.childGone (s : State) (parent : Nat) : State :=
  match s.grant? parent with
  | none => s
  | some p =>
    let n := p.children - 1
    if n = 0 && s.ownerEnded p.reg && (p.st == .lent || p.st == .frozen) then
      ((s.setGrant { p with children := 0, st := .held }).beginReturn parent)
    else s.setGrant { p with children := n, st := if n = 0 && p.st == .frozen then .held else p.st }

/-- Byte `o` of a group's scratchpad, in its frame while the group is swapped out (R321). -/
def State.groupByte (s : State) (g : Group) (o : Nat) : Byte :=
  if g.st == .swapped then (sget? g.frame o).getD (Config.scratchByte g.salt (g.spKey o)) else s.byteAt (g.spKey o)

/-- The engine's fill of a staged window is complete (R196). -/
def State.fillOver (s : State) (gid : Nat) : Bool :=
  s.ops.all fun o => !(o.kind == .fill && o.src == .grant gid)

/-- The bytes of a grant's own staged window, by IA (R197, R201); none while its fill is not complete, when the window does not
hold the range yet. -/
def State.ownWindow (s : State) (g : Grant) : Store :=
  if !s.fillOver g.gid then [] else
  let gu := if g.reg.grp then some g.reg.owner else (s.wave? g.reg.owner).map (·.group)
  match g.window, gu.bind s.group? with
  | some b, some gr => (List.range g.len).map fun i => (g.ia + i, s.groupByte gr (b + i))
  | _, _ => []

/-- The lines of a grant's store that a kill merges into the home: all of a line's defined bytes or none (R205). -/
def killCells (ctr : Nat) (gs : Store) : Store := gs.filter fun c => Config.killMerge ctr (c.1 / 256)

/-- A root grant given up at its home die: its entry loses a holder, unless a return has done so already; a return message
that is still under way is overtaken (R172). -/
def State.giveUp (s : State) (g : Grant) : State :=
  let sent (m : Rein) : Bool := m.kind == .ret g.gid
  match g.entry with
  | some i =>
    if g.returned && !s.reins.any sent then s
    else ({ s with reins := s.reins.filter fun m => !sent m } : State).dropHolder g.home i
  | none => s

/-- A grant that its home has not granted yet; one that RGMV moves has been (R170). -/
def Grant.asked (g : Grant) : Bool := g.st == .waiting && match g.derive with
  | some (.moved _) => false
  | _ => true

/-- A grant released by a kill: a root gives up its entry, or sends a release message to a fabric endpoint; a child is
counted off at its parent; lines written under an X grant merge into the home or not, whole (R172, R173, R205). -/
def State.releaseGrant (s : State) (g : Grant) : State :=
  let s : State := { s with regFaults := s.regFaults.filter (·.1 != g.reg) }
  let s : State := if g.kind == Kind.x then
      { (s.hWrite (killCells s.freeCtr (smerge g.gs (s.ownWindow g)))).1 with freeCtr := s.freeCtr + 1 }
    else s
  let s : State := match g.parent with
    | some (p, _, _) => s.childGone p
    | none =>
      if 8 ≤ g.home then (if g.asked then s else s.sendRein saddle g.home 0 (.release g.gid))
      else s.giveUp g
  let s : State := s.withdraw g.gid
  s.delGrant g.gid

/-- Whether a region register belongs to a group or to one of its waves. -/
def State.ownedBy (s : State) (gu : Nat) (r : RegRef) : Bool :=
  if r.grp then r.owner == gu
  else match s.wave? r.owner with
    | some w => w.group == gu
    | none => false

/-- Every grant of a group released (R172), in the list's order. -/
def State.releaseAll (s : State) (gu : Nat) : State :=
  (s.grants.filter fun g => s.ownedBy gu g.reg).foldl (fun s g =>
    match s.grant? g.gid with
    | some g' => s.releaseGrant g'
    | none => s) s

/-! Ending groups -/

/-- A wave as a kill leaves it: ended, holding nothing (R73, R82, R205). -/
def Wave.discard (w : Wave) : Wave :=
  { w with st := .ended, slotHeld := false, parts := [], outbox := [], arrives := [], early := [], stk := [], vpend := [], loads := [],
           deferred := [], hold := .none }

/-- Miss-status entries that an outbox entry holds. -/
def OEnt.held (e : OEnt) : Nat :=
  match e.kind with
  | .homeAtomic _ _ _ _ n => n
  | .remote _ _ n => n
  | _ => 0

/-- Miss-status entries that a load holds (R191). -/
def LoadP.entries (l : LoadP) : Nat := l.miss.length

/-- Miss-status entries that a wave's loads and outbox hold. -/
def Wave.missHeld (w : Wave) : Nat :=
  (w.loads.map (·.entries)).sum + (w.outbox.map OEnt.held).sum - (match w.hold with
    | .miss _ n _ => n
    | _ => 0)

/-- A killed group's waves give their miss-status entries back. -/
def State.freeMiss (s : State) (gu : Nat) : State :=
  (s.waves.filter (·.group == gu)).foldl (fun s w =>
    let i := s.coreOf w
    s.setCore i { s.core i with missUsed := (s.core i).missUsed - w.missHeld }) s

/-- Bytes that a kill leaves undefined (R272). -/
def State.scrambleAt (s : State) (g : Group) (o : Nat) : Nat → State
  | 0 => s
  | n + 1 => ({ s.putByte (g.spKey o) (Config.killedByte s.freeCtr) with freeCtr := s.freeCtr + 1 } : State).scrambleAt g (o + 1) n

/-- Scratchpad bytes that a running MDRAIN of a killed group was writing are undefined (R272). Accumulators that a running
MMA was writing are given up with their windows. -/
def State.scramble (s : State) (gu : Nat) : State :=
  s.cores.foldl (fun s c =>
    match c.matQ.head?, s.group? gu with
    | some m, some g => match m.kind with
      | .mdrain _ rows oo os _ _ _ _ _ _ _ _ _ _ f _ _ _ =>
        if m.group == gu && m.started.isSome then
          (List.range rows).foldl (fun s i => s.scrambleAt g (oo + i * os) (64 * if f == .f32 then 4 else 2)) s
        else s
      | _ => s
    | _, _ => s) s

/-- Queues of a core without the entries of a group. -/
def Core.dropGroup (c : Core) (gu : Nat) (waves : List Nat) (ops : List Nat) : Core :=
  { c with engineQ := c.engineQ.filter fun o => !ops.contains o,
           matQ := c.matQ.filter (·.group != gu),
           unitQ := c.unitQ.filter fun u => !waves.contains u.wave,
           sampler := if c.sampler.owner == some gu then Sampler.reset else c.sampler }

/-- All work of a group discarded: waves, engine operations, searches, bins (R205, R272, R286, R89). -/
def State.discardWork (s : State) (gu : Nat) : State :=
  let ws := (s.waves.filter (·.group == gu)).map (·.uid)
  let os := (s.ops.filter (·.group == gu)).map (·.id)
  let s := (s.freeMiss gu).scramble gu
  let kept (p : Parked) : Bool := match p.ref with
    | .load w _ | .store w _ | .fetch w => !ws.contains w
    | .chunk o => !os.contains o
    | .ret gid => (s.grant? gid).isSome
    | _ => true
  { s with waves := s.waves.map fun w => if w.group == gu then w.discard else w,
           ops := s.ops.filter (·.group != gu),
           cores := s.cores.map fun c => c.dropGroup gu ws os,
           dies := s.dies.map fun d => { d with searches := d.searches.filter fun x => !ws.contains x.wave,
                                                parked := d.parked.filter kept,
                                                bouncedAcc := d.bouncedAcc.filter fun b => kept b.1 },
           bins := s.bins.filter (·.group != gu) }

/-- Copied grants that the open and waiting bins of a group own are released with them (R156, R205). -/
def State.releaseBins (s : State) (gu : Nat) : State :=
  let bs := (s.bins.filter (·.group == gu)).map (·.uid)
  (s.grants.filter fun g => !g.reg.grp && bs.contains g.reg.owner).foldl (fun s g => s.releaseGrant g) s

/-- A kernel leaves the count of R311 with its last running group; its LAUNCH stops being in flight (R310). -/
def State.launchGone (s : State) (k : Kernel) : State :=
  let q := s.queue k.queue
  s.setQueue { q with inflight := q.inflight.filter fun c => match c.2 with
    | .launch u => u != k.uid
    | _ => true }

/-- The kernel's count of DONE groups rises by one (R309, R310). -/
def State.groupDone (s : State) (ku : Nat) : State :=
  match s.kernel? ku with
  | none => s
  | some k =>
    let k := { k with done := k.done + 1 }
    if k.st == .faulted then
      let s := s.setKernel k
      if k.done = k.placed then s.launchGone k else s
    else if k.st == .running && k.done = k.ngrp then s.setKernel { k with st := .draining }
    else s.setKernel k

/-- A kernel becomes FAULTED: it places no further group and its queue enters ERROR with reason 4 (R310). -/
def State.faultKernel (s : State) (ku : Nat) : State :=
  match s.kernel? ku with
  | none => s
  | some k =>
    if k.st == .faulted || k.st == .complete then s
    else
      let s := s.setKernel { k with st := .faulted }
      let s := if k.done = k.placed then s.launchGone k else s
      s.queueError k.queue 4

/-- Window units of 256 B of a wave (Table 16.1). -/
def State.winOf (s : State) (w : Wave) : Nat := ((s.kernelOf? w).map (·.win)).getD 0

/-- Bytes of a wave's frame (R320). -/
def State.frameBytes (s : State) (w : Wave) : Nat := s.winOf w * 256 + 8192

/-- A killed group's waves that are swapped out give their frames back (Table 4.2). -/
def State.dropFrames (s : State) (g : Group) (ctx : Nat) : State :=
  let n := ((s.waves.filter fun w => w.group == g.uid && w.st == .swapped).map s.frameBytes).sum
  if n = 0 then s else s.setCtx ctx { s.ctx ctx with saveUsed := (s.ctx ctx).saveUsed - n }

/-- A group killed: its work is discarded, its grants released, and it is DONE (R315, R292, R172). `lost` makes its
kernel FAULTED (R310). -/
def State.killGroup (s : State) (gu : Nat) : State :=
  match s.group? gu with
  | none => s
  | some g =>
    if g.st == .done then s
    else
      let s := s.releaseBins gu
      let s := s.releaseAll gu
      let s := match s.kernel? g.kernel with
        | some k => s.dropFrames g k.ctx
        | none => s
      let s := s.discardWork gu
      let s := s.setGroup { g with st := .done, bars := [], chans := [], cvs := [], laces := [], ress := [], frame := [],
                                   frameFull := [], frameOb := [], frameSmp := none }
      let s := s.faultKernel g.kernel
      s.groupDone g.kernel

/-! Exceptions (R291 to R293, R298) -/

/-- The current partition runs a trap handler. -/
def Wave.inHandler (w : Wave) : Bool :=
  match w.parts with
  | p :: _ => p.saved.isSome
  | [] => false

/-- Taking an exception, precise or deferred (R292, R293). With a trap entry, and outside a handler: %tcause, %tpc,
%tinfo and %tlanes are written, the partition's loop nest is set aside, its fibres continue at the trap entry after the
redirect (R78), every fixed-latency result has landed (R65), and the turn stops (R81). Otherwise the fault is
recorded and the group is killed. `sc` is the stall count of the trapping word. -/
def State.takeTrap (s : State) (w : Wave) (code : Nat) (info : Word) (sc : Nat) : State :=
  match w.parts, s.kernelOf? w with
  | p :: ps, some k =>
    if p.saved.isNone && k.trapent != 0 then
      let p' := { p with nest := [], saved := some p.nest, pc := k.trapent, redirect := s.clk + max sc 2 + 1 }
      let landed := w.stk.foldl (fun m e => max m e.1) (w.early.foldl (fun m e => max m e.due) 0)
      let w := w.landSticky landed
      s.setWave { w with parts := p' :: ps, tcause := BitVec.ofNat 8 code, tpc := p.pc, tinfo := info, tlanes := p.lanes,
                         early := [], turn := w.turn - s.clk, lastIssue := some s.clk,
                         nextIssue := max (s.clk + sc + 1) landed, progress := s.clk }
    else
      let s := s.record k.ctx { clk := s.clk, pc := p.pc, info := info, kid := k.kid, code := code,
                                source := if p.saved.isSome then 3 else 0, wave := w.index }
      s.killGroup w.group
  | _, _ => s

/-- Leaving the handler (R298, R81): the nest set aside returns, the partition continues at `pc` after a redirect, and
the turn resumes with its remaining time. -/
def Wave.leaveHandler (w : Wave) (clk : Nat) (p : Part) (ps : List Part) (pc : Word) (sc : Nat) : Wave × Part :=
  ({ w with turn := if ps.any (·.saved.isSome) then w.turn else clk + w.turn },
   { p with nest := p.saved.getD [], saved := none, pc := pc, redirect := clk + max sc 2 + 1 })

end Sys2Proof.Machine
end

