-- ==== Sys2Proof/Machine/Flags.lean ====
section
/-! DEFINITION. Guard conditions (Table 3.4) and every computation of S, Z, C and V (R60, R106, R107, R119). -/

namespace Sys2Proof.Machine

open Sys2Proof

/-- S, Z, C and V in bits 3 to 0 (R42). -/
def mkFlags (s z c v : Bool) : BitVec 4 :=
  BitVec.ofNat 4 (8 * b2n s + 4 * b2n z + 2 * b2n c + b2n v)

/-- Whether a condition holds on the four flags (Table 3.4). -/
def condHolds (c : Cond) (f : BitVec 4) : Bool :=
  let s := f.getLsbD 3
  let z := f.getLsbD 2
  let cy := f.getLsbD 1
  let v := f.getLsbD 0
  match c with
  | .al => true
  | .eq => z
  | .ne => !z
  | .cs => cy
  | .cc => !cy
  | .mi => s
  | .pl => !s
  | .vs => v
  | .vc => !v
  | .hi => cy && !z
  | .ls => !cy || z
  | .ge => s == v
  | .lt => s != v
  | .gt => !z && s == v
  | .le => z || s != v
  | .nv => false

/-- Flags of an integer result of width `w`: S its top bit, Z zero, C and V as the operation gives them (R106). -/
def intFlags (w r : Nat) (c v : Bool) : BitVec 4 := mkFlags (decide (2 ^ (w - 1) ≤ r)) (r == 0) c v

end Sys2Proof.Machine
end

