-- ==== Sys2Proof/Machine/Operands.lean ====
section
/-! DEFINITION. Operand forms: the registers a word names, their place in the window after frame renaming, the decode
check of views (R99), the fixed-latency test (R63, R64), the scoreboard, and reading and writing operands. -/

namespace Sys2Proof.Machine

open Sys2Proof

/-- A register operand as a word names it: vector names from `n`, scalars, accumulators, tiles, a hypervector register,
a counter bank, a condition register, sf. -/
inductive RegU
  | v (n k : Nat)
  | s (n k : Nat)
  | acc (n k : Nat)
  | tile (n k : Nat)
  | h (n : Nat)
  | k (n : Nat)
  | cc (n : Nat)
  | sf
deriving DecidableEq, Repr

/-- One use of a register by a word: its operand number for STALL_SHORT and its bit position for RESERVED_FIELD
(Table 3.11), whether the word reads it and writes it. -/
structure Use where
  code : Nat
  pos : Nat
  reg : RegU
  rd : Bool
  wr : Bool
deriving DecidableEq, Repr

/-- A register that is read. -/
def rd (c p : Nat) (r : RegU) : List Use := [⟨c, p, r, true, false⟩]
/-- A register that is written. -/
def wr (c p : Nat) (r : RegU) : List Use := [⟨c, p, r, false, true⟩]
/-- A register that is read and written. -/
def rw (c p : Nat) (r : RegU) : List Use := [⟨c, p, r, true, true⟩]
/-- A V-space source: codes 384 to 511 name scalars (Table 3.2). -/
def vsrc (c p : Nat) (n : VCode) : List Use :=
  if n.toNat < 384 then rd c p (.v n.toNat 1) else rd c p (.s (n.toNat - 384) 1)
/-- QNT's source: two registers for .f32 (R131). -/
def qsrc (f : FType) (a : VCode) : List Use := if f == .f32 then rd 1 18 (.v a.toNat 2) else vsrc 1 18 a
/-- A guard that depends on flags. AL and NV hold or fail whatever the flags are, so they read nothing
(DEDUCED, assumption 12). -/
def condReads (c : Cond) : Bool := c != .al && c != .nv

/-- The uses of the issue fields: guards read their register (R63), a flag write writes its own (R60). -/
def hdUses (lanes : Bool) (r : XRule) (h : Hd) : List Use :=
  (if condReads h.ug then rd 5 43 .sf else []) ++
  (if lanes && condReads h.lgcond then rd 4 51 (.cc h.lgc.toNat) else []) ++
  match r with
  | .flags | .needFlag => if 4 ≤ h.x.toNat then wr 4 36 (.cc (h.x.toNat - 4)) else []
  | .sf | .needSf => if h.x == 4 then wr 5 36 .sf else []
  | _ => []

/-- The uses of one slot of a paired word whose lowest bit is word bit `p`; `c` is 0 for slot X and 2 for slot Y
(Table 3.11). Both registers are read at issue, by MOV too (R67, R104). -/
def slotUses (c p : Nat) (s : Slot) : List Use :=
  if s.op == .nop then []
  else
    (if condReads s.g then rd 4 (p + 4) (.cc 0) else []) ++
    rw c (p + 16) (.v s.d.toNat 1) ++
    rd (c + 1) (p + 8) (.v s.a.toNat 1)

/-- The registers a word uses, as far as its encoding tells. A condition register counts as operand 4 wherever a word reads
or writes it, sf as operand 5 (DEDUCED, assumption 92). -/
def usesOf (i : Instr) : List Use :=
  match i with
  | .nop h => hdUses false .zero h
  | .bra h _ => hdUses true .zero h
  | .brc h d _ => hdUses true .zero h ++ vsrc 0 27 d
  | .brx h a => hdUses true .zero h ++ vsrc 1 18 a
  | .call h d _ => hdUses true .zero h ++ wr 0 27 (.v d.toNat 1)
  | .callx h d a => hdUses true .zero h ++ wr 0 27 (.v d.toNat 1) ++ vsrc 1 18 a
  | .ret h a => hdUses true .zero h ++ vsrc 1 18 a
  | .loop h a _ => hdUses false .zero h ++ rd 1 18 (.s a.toNat 1)
  | .endl h => hdUses false .zero h
  | .lbrk h => hdUses false .zero h
  | .spawn h d a b => hdUses true .zero h ++ vsrc 0 27 d ++ rd 1 18 (.v a.toNat 4) ++ rd 2 9 (.s b.toNat 1)
  | .endFibre h => hdUses true .zero h
  | .yield h => hdUses false .zero h
  | .sleep h _ => hdUses false .zero h
  | .fbar h a => hdUses false .zero h ++ rd 1 18 (.s a.toNat 1)
  | .icinv h => hdUses false .zero h
  | .mov h d a => hdUses true .flags h ++ wr 0 27 (.v d.toNat 1) ++ vsrc 1 18 a
  | .movFromCc h d => hdUses true .flags h ++ wr 0 27 (.v d.toNat 1) ++ rd 4 18 (.cc 0) ++ rd 4 18 (.cc 1) ++
      rd 4 18 (.cc 2) ++ rd 4 18 (.cc 3)
  | .movToCc h a => hdUses true .zero h ++ vsrc 1 18 a ++ wr 4 27 (.cc 0) ++ wr 4 27 (.cc 1) ++
      wr 4 27 (.cc 2) ++ wr 4 27 (.cc 3)
  | .movScalar h d a => hdUses false .sf h ++ wr 0 27 (.s d.toNat 1) ++ rd 1 18 (.s a.toNat 1)
  | .movFromSf h d => hdUses false .sf h ++ wr 0 27 (.s d.toNat 1) ++ rd 5 18 .sf
  | .movToSf h a => hdUses false .zero h ++ rd 1 18 (.s a.toNat 1) ++ wr 5 27 .sf
  | .movi h d _ => hdUses true .flags h ++ wr 0 27 (.v d.toNat 1)
  | .moviScalar h d _ => hdUses false .sf h ++ wr 0 27 (.s d.toNat 1)
  | .movh h d _ _ => hdUses true .flags h ++ rw 0 27 (.v d.toNat 1)
  | .movhScalar h d _ _ => hdUses false .sf h ++ rw 0 27 (.s d.toNat 1)
  | .add h d a b _ => hdUses true .flags h ++ wr 0 27 (.v d.toNat 1) ++ vsrc 1 18 a ++ vsrc 2 9 b
  | .addScalar h d a b _ => hdUses false .sf h ++ wr 0 27 (.s d.toNat 1) ++ rd 1 18 (.s a.toNat 1) ++
      rd 2 9 (.s b.toNat 1)
  | .addImm h d a _ _ => hdUses true .flags h ++ wr 0 27 (.v d.toNat 1) ++ vsrc 1 18 a
  | .addImmScalar h d a _ _ => hdUses false .sf h ++ wr 0 27 (.s d.toNat 1) ++ rd 1 18 (.s a.toNat 1)
  | .addc h d a b n _ => hdUses true .flags h ++ wr 0 27 (.v d.toNat 1) ++ vsrc 1 18 a ++ vsrc 2 9 b ++
      rd 4 3 (.cc n.toNat)
  | .addcScalar h d a b _ => hdUses false .sf h ++ wr 0 27 (.s d.toNat 1) ++ rd 1 18 (.s a.toNat 1) ++
      rd 2 9 (.s b.toNat 1) ++ rd 5 3 .sf
  | .sub h d a b _ => hdUses true .flags h ++ wr 0 27 (.v d.toNat 1) ++ vsrc 1 18 a ++ vsrc 2 9 b
  | .subScalar h d a b _ => hdUses false .sf h ++ wr 0 27 (.s d.toNat 1) ++ rd 1 18 (.s a.toNat 1) ++
      rd 2 9 (.s b.toNat 1)
  | .subb h d a b n _ => hdUses true .flags h ++ wr 0 27 (.v d.toNat 1) ++ vsrc 1 18 a ++ vsrc 2 9 b ++
      rd 4 3 (.cc n.toNat)
  | .subbScalar h d a b _ => hdUses false .sf h ++ wr 0 27 (.s d.toNat 1) ++ rd 1 18 (.s a.toNat 1) ++
      rd 2 9 (.s b.toNat 1) ++ rd 5 3 .sf
  | .mul h d a b _ => hdUses true .flags h ++ wr 0 27 (.v d.toNat 1) ++ vsrc 1 18 a ++ vsrc 2 9 b
  | .mulScalar h d a b _ => hdUses false .sf h ++ wr 0 27 (.s d.toNat 1) ++ rd 1 18 (.s a.toNat 1) ++
      rd 2 9 (.s b.toNat 1)
  | .mulh h d a b _ => hdUses true .flags h ++ wr 0 27 (.v d.toNat 1) ++ vsrc 1 18 a ++ vsrc 2 9 b
  | .mulhScalar h d a b _ => hdUses false .sf h ++ wr 0 27 (.s d.toNat 1) ++ rd 1 18 (.s a.toNat 1) ++
      rd 2 9 (.s b.toNat 1)
  | .madI32 h d a b c => hdUses true .flags h ++ wr 0 27 (.v d.toNat 1) ++ vsrc 1 18 a ++ vsrc 2 9 b ++ vsrc 3 0 c
  | .madI32Scalar h d a b c => hdUses false .sf h ++ wr 0 27 (.s d.toNat 1) ++ rd 1 18 (.s a.toNat 1) ++
      rd 2 9 (.s b.toNat 1) ++ rd 3 0 (.s c.toNat 1)
  | .madN32 h d a b c => hdUses true .flags h ++ wr 0 27 (.v d.toNat 1) ++ vsrc 1 18 a ++ vsrc 2 9 b ++ vsrc 3 0 c
  | .madN32Scalar h d a b c => hdUses false .sf h ++ wr 0 27 (.s d.toNat 1) ++ rd 1 18 (.s a.toNat 1) ++
      rd 2 9 (.s b.toNat 1) ++ rd 3 0 (.s c.toNat 1)
  | .madI64 h d a b c => hdUses true .flags h ++ wr 0 27 (.v d.toNat 1) ++ vsrc 1 18 a ++ vsrc 2 9 b ++ vsrc 3 0 c
  | .madI64Scalar h d a b c => hdUses false .sf h ++ wr 0 27 (.s d.toNat 1) ++ rd 1 18 (.s a.toNat 1) ++
      rd 2 9 (.s b.toNat 1) ++ rd 3 0 (.s c.toNat 1)
  | .madN64 h d a b c => hdUses true .flags h ++ wr 0 27 (.v d.toNat 1) ++ vsrc 1 18 a ++ vsrc 2 9 b ++ vsrc 3 0 c
  | .madN64Scalar h d a b c => hdUses false .sf h ++ wr 0 27 (.s d.toNat 1) ++ rd 1 18 (.s a.toNat 1) ++
      rd 2 9 (.s b.toNat 1) ++ rd 3 0 (.s c.toNat 1)
  | .div h d a b _ => hdUses true .flags h ++ wr 0 27 (.v d.toNat 1) ++ vsrc 1 18 a ++ vsrc 2 9 b
  | .divScalar h d a b _ => hdUses false .sf h ++ wr 0 27 (.s d.toNat 1) ++ rd 1 18 (.s a.toNat 1) ++
      rd 2 9 (.s b.toNat 1)
  | .rem h d a b _ => hdUses true .flags h ++ wr 0 27 (.v d.toNat 1) ++ vsrc 1 18 a ++ vsrc 2 9 b
  | .remScalar h d a b _ => hdUses false .sf h ++ wr 0 27 (.s d.toNat 1) ++ rd 1 18 (.s a.toNat 1) ++
      rd 2 9 (.s b.toNat 1)
  | .min h d a b _ => hdUses true .flags h ++ wr 0 27 (.v d.toNat 1) ++ vsrc 1 18 a ++ vsrc 2 9 b
  | .minScalar h d a b _ => hdUses false .sf h ++ wr 0 27 (.s d.toNat 1) ++ rd 1 18 (.s a.toNat 1) ++
      rd 2 9 (.s b.toNat 1)
  | .max h d a b _ => hdUses true .flags h ++ wr 0 27 (.v d.toNat 1) ++ vsrc 1 18 a ++ vsrc 2 9 b
  | .maxScalar h d a b _ => hdUses false .sf h ++ wr 0 27 (.s d.toNat 1) ++ rd 1 18 (.s a.toNat 1) ++
      rd 2 9 (.s b.toNat 1)
  | .abs h d a _ => hdUses true .flags h ++ wr 0 27 (.v d.toNat 1) ++ vsrc 1 18 a
  | .absScalar h d a _ => hdUses false .sf h ++ wr 0 27 (.s d.toNat 1) ++ rd 1 18 (.s a.toNat 1)
  | .neg h d a _ => hdUses true .flags h ++ wr 0 27 (.v d.toNat 1) ++ vsrc 1 18 a
  | .negScalar h d a _ => hdUses false .sf h ++ wr 0 27 (.s d.toNat 1) ++ rd 1 18 (.s a.toNat 1)
  | .and h d a b _ => hdUses true .flags h ++ wr 0 27 (.v d.toNat 1) ++ vsrc 1 18 a ++ vsrc 2 9 b
  | .andScalar h d a b _ => hdUses false .sf h ++ wr 0 27 (.s d.toNat 1) ++ rd 1 18 (.s a.toNat 1) ++
      rd 2 9 (.s b.toNat 1)
  | .andImm h d a _ _ => hdUses true .flags h ++ wr 0 27 (.v d.toNat 1) ++ vsrc 1 18 a
  | .andImmScalar h d a _ _ => hdUses false .sf h ++ wr 0 27 (.s d.toNat 1) ++ rd 1 18 (.s a.toNat 1)
  | .or h d a b _ => hdUses true .flags h ++ wr 0 27 (.v d.toNat 1) ++ vsrc 1 18 a ++ vsrc 2 9 b
  | .orScalar h d a b _ => hdUses false .sf h ++ wr 0 27 (.s d.toNat 1) ++ rd 1 18 (.s a.toNat 1) ++
      rd 2 9 (.s b.toNat 1)
  | .orImm h d a _ _ => hdUses true .flags h ++ wr 0 27 (.v d.toNat 1) ++ vsrc 1 18 a
  | .orImmScalar h d a _ _ => hdUses false .sf h ++ wr 0 27 (.s d.toNat 1) ++ rd 1 18 (.s a.toNat 1)
  | .xor h d a b _ => hdUses true .flags h ++ wr 0 27 (.v d.toNat 1) ++ vsrc 1 18 a ++ vsrc 2 9 b
  | .xorScalar h d a b _ => hdUses false .sf h ++ wr 0 27 (.s d.toNat 1) ++ rd 1 18 (.s a.toNat 1) ++
      rd 2 9 (.s b.toNat 1)
  | .xorImm h d a _ _ => hdUses true .flags h ++ wr 0 27 (.v d.toNat 1) ++ vsrc 1 18 a
  | .xorImmScalar h d a _ _ => hdUses false .sf h ++ wr 0 27 (.s d.toNat 1) ++ rd 1 18 (.s a.toNat 1)
  | .andn h d a b _ => hdUses true .flags h ++ wr 0 27 (.v d.toNat 1) ++ vsrc 1 18 a ++ vsrc 2 9 b
  | .andnScalar h d a b _ => hdUses false .sf h ++ wr 0 27 (.s d.toNat 1) ++ rd 1 18 (.s a.toNat 1) ++
      rd 2 9 (.s b.toNat 1)
  | .not h d a _ => hdUses true .flags h ++ wr 0 27 (.v d.toNat 1) ++ vsrc 1 18 a
  | .notScalar h d a _ => hdUses false .sf h ++ wr 0 27 (.s d.toNat 1) ++ rd 1 18 (.s a.toNat 1)
  | .tlog h d a b _ => hdUses true .flags h ++ rw 0 27 (.v d.toNat 1) ++ vsrc 1 18 a ++ vsrc 2 9 b
  | .tlogScalar h d a b _ => hdUses false .sf h ++ rw 0 27 (.s d.toNat 1) ++ rd 1 18 (.s a.toNat 1) ++
      rd 2 9 (.s b.toNat 1)
  | .shl h d a b _ => hdUses true .flags h ++ wr 0 27 (.v d.toNat 1) ++ vsrc 1 18 a ++ vsrc 2 9 b
  | .shlScalar h d a b _ => hdUses false .sf h ++ wr 0 27 (.s d.toNat 1) ++ rd 1 18 (.s a.toNat 1) ++
      rd 2 9 (.s b.toNat 1)
  | .shlImm h d a _ _ => hdUses true .flags h ++ wr 0 27 (.v d.toNat 1) ++ vsrc 1 18 a
  | .shlImmScalar h d a _ _ => hdUses false .sf h ++ wr 0 27 (.s d.toNat 1) ++ rd 1 18 (.s a.toNat 1)
  | .shr h d a b _ => hdUses true .flags h ++ wr 0 27 (.v d.toNat 1) ++ vsrc 1 18 a ++ vsrc 2 9 b
  | .shrScalar h d a b _ => hdUses false .sf h ++ wr 0 27 (.s d.toNat 1) ++ rd 1 18 (.s a.toNat 1) ++
      rd 2 9 (.s b.toNat 1)
  | .shrImm h d a _ _ => hdUses true .flags h ++ wr 0 27 (.v d.toNat 1) ++ vsrc 1 18 a
  | .shrImmScalar h d a _ _ => hdUses false .sf h ++ wr 0 27 (.s d.toNat 1) ++ rd 1 18 (.s a.toNat 1)
  | .sar h d a b _ => hdUses true .flags h ++ wr 0 27 (.v d.toNat 1) ++ vsrc 1 18 a ++ vsrc 2 9 b
  | .sarScalar h d a b _ => hdUses false .sf h ++ wr 0 27 (.s d.toNat 1) ++ rd 1 18 (.s a.toNat 1) ++
      rd 2 9 (.s b.toNat 1)
  | .sarImm h d a _ _ => hdUses true .flags h ++ wr 0 27 (.v d.toNat 1) ++ vsrc 1 18 a
  | .sarImmScalar h d a _ _ => hdUses false .sf h ++ wr 0 27 (.s d.toNat 1) ++ rd 1 18 (.s a.toNat 1)
  | .fshl h d a b c => hdUses true .flags h ++ wr 0 27 (.v d.toNat 1) ++ vsrc 1 18 a ++ vsrc 2 9 b ++ vsrc 3 0 c
  | .fshlScalar h d a b c => hdUses false .sf h ++ wr 0 27 (.s d.toNat 1) ++ rd 1 18 (.s a.toNat 1) ++
      rd 2 9 (.s b.toNat 1) ++ rd 3 0 (.s c.toNat 1)
  | .fshr h d a b c => hdUses true .flags h ++ wr 0 27 (.v d.toNat 1) ++ vsrc 1 18 a ++ vsrc 2 9 b ++ vsrc 3 0 c
  | .fshrScalar h d a b c => hdUses false .sf h ++ wr 0 27 (.s d.toNat 1) ++ rd 1 18 (.s a.toNat 1) ++
      rd 2 9 (.s b.toNat 1) ++ rd 3 0 (.s c.toNat 1)
  | .rot h d a b _ => hdUses true .flags h ++ wr 0 27 (.v d.toNat 1) ++ vsrc 1 18 a ++ vsrc 2 9 b
  | .rotScalar h d a b _ => hdUses false .sf h ++ wr 0 27 (.s d.toNat 1) ++ rd 1 18 (.s a.toNat 1) ++
      rd 2 9 (.s b.toNat 1)
  | .rotImm h d a _ _ => hdUses true .flags h ++ wr 0 27 (.v d.toNat 1) ++ vsrc 1 18 a
  | .rotImmScalar h d a _ _ => hdUses false .sf h ++ wr 0 27 (.s d.toNat 1) ++ rd 1 18 (.s a.toNat 1)
  | .bfx h d a b _ => hdUses true .flags h ++ wr 0 27 (.v d.toNat 1) ++ vsrc 1 18 a ++ vsrc 2 9 b
  | .bfxScalar h d a b _ => hdUses false .sf h ++ wr 0 27 (.s d.toNat 1) ++ rd 1 18 (.s a.toNat 1) ++
      rd 2 9 (.s b.toNat 1)
  | .bfi h d a b _ => hdUses true .flags h ++ rw 0 27 (.v d.toNat 1) ++ vsrc 1 18 a ++ vsrc 2 9 b
  | .bfiScalar h d a b _ => hdUses false .sf h ++ rw 0 27 (.s d.toNat 1) ++ rd 1 18 (.s a.toNat 1) ++
      rd 2 9 (.s b.toNat 1)
  | .popc h d a _ => hdUses true .flags h ++ wr 0 27 (.v d.toNat 1) ++ vsrc 1 18 a
  | .popcScalar h d a _ => hdUses false .sf h ++ wr 0 27 (.s d.toNat 1) ++ rd 1 18 (.s a.toNat 1)
  | .clz h d a _ => hdUses true .flags h ++ wr 0 27 (.v d.toNat 1) ++ vsrc 1 18 a
  | .clzScalar h d a _ => hdUses false .sf h ++ wr 0 27 (.s d.toNat 1) ++ rd 1 18 (.s a.toNat 1)
  | .ctz h d a _ => hdUses true .flags h ++ wr 0 27 (.v d.toNat 1) ++ vsrc 1 18 a
  | .ctzScalar h d a _ => hdUses false .sf h ++ wr 0 27 (.s d.toNat 1) ++ rd 1 18 (.s a.toNat 1)
  | .brev h d a _ => hdUses true .flags h ++ wr 0 27 (.v d.toNat 1) ++ vsrc 1 18 a
  | .brevScalar h d a _ => hdUses false .sf h ++ wr 0 27 (.s d.toNat 1) ++ rd 1 18 (.s a.toNat 1)
  | .bperm h d a b c => hdUses true .flags h ++ wr 0 27 (.v d.toNat 1) ++ vsrc 1 18 a ++ vsrc 2 9 b ++ vsrc 3 0 c
  | .bpermScalar h d a b c => hdUses false .sf h ++ wr 0 27 (.s d.toNat 1) ++ rd 1 18 (.s a.toNat 1) ++
      rd 2 9 (.s b.toNat 1) ++ rd 3 0 (.s c.toNat 1)
  | .cmp h a b _ => hdUses true .needFlag h ++ vsrc 1 18 a ++ vsrc 2 9 b
  | .cmpScalar h a b _ => hdUses false .needSf h ++ rd 1 18 (.s a.toNat 1) ++ rd 2 9 (.s b.toNat 1)
  | .cmpImm h a _ _ => hdUses true .needFlag h ++ vsrc 1 18 a
  | .cmpImmScalar h a _ _ => hdUses false .needSf h ++ rd 1 18 (.s a.toNat 1)
  | .tst h a b _ => hdUses true .needFlag h ++ vsrc 1 18 a ++ vsrc 2 9 b
  | .tstScalar h a b _ => hdUses false .needSf h ++ rd 1 18 (.s a.toNat 1) ++ rd 2 9 (.s b.toNat 1)
  | .sel h d a b n _ => hdUses true .flags h ++ wr 0 27 (.v d.toNat 1) ++ vsrc 1 18 a ++ vsrc 2 9 b ++
      rd 4 7 (.cc n.toNat)
  | .selScalar h d a b _ => hdUses false .sf h ++ wr 0 27 (.s d.toNat 1) ++ rd 1 18 (.s a.toNat 1) ++
      rd 2 9 (.s b.toNat 1) ++ rd 5 3 .sf
  | .lea h d a b _ => hdUses true .flags h ++ wr 0 27 (.v d.toNat 1) ++ vsrc 1 18 a ++ vsrc 2 9 b
  | .leaScalar h d a b _ => hdUses false .sf h ++ wr 0 27 (.s d.toNat 1) ++ rd 1 18 (.s a.toNat 1) ++
      rd 2 9 (.s b.toNat 1)
  | .fadd h d a b _ _ => hdUses true .flags h ++ wr 0 27 (.v d.toNat 1) ++ vsrc 1 18 a ++ vsrc 2 9 b
  | .fsub h d a b _ _ => hdUses true .flags h ++ wr 0 27 (.v d.toNat 1) ++ vsrc 1 18 a ++ vsrc 2 9 b
  | .fmul h d a b _ _ => hdUses true .flags h ++ wr 0 27 (.v d.toNat 1) ++ vsrc 1 18 a ++ vsrc 2 9 b
  | .fscale h d a b _ _ => hdUses true .flags h ++ wr 0 27 (.v d.toNat 1) ++ vsrc 1 18 a ++ vsrc 2 9 b
  | .fmin h d a b _ => hdUses true .flags h ++ wr 0 27 (.v d.toNat 1) ++ vsrc 1 18 a ++ vsrc 2 9 b
  | .fmax h d a b _ => hdUses true .flags h ++ wr 0 27 (.v d.toNat 1) ++ vsrc 1 18 a ++ vsrc 2 9 b
  | .fabs h d a _ => hdUses true .flags h ++ wr 0 27 (.v d.toNat 1) ++ vsrc 1 18 a
  | .fneg h d a _ => hdUses true .flags h ++ wr 0 27 (.v d.toNat 1) ++ vsrc 1 18 a
  | .fcmp h a b _ => hdUses true .needFlag h ++ vsrc 1 18 a ++ vsrc 2 9 b
  | .fclass h d a _ => hdUses true .zero h ++ wr 0 27 (.v d.toNat 1) ++ vsrc 1 18 a
  | .frcp h d a _ _ => hdUses true .flags h ++ wr 0 27 (.v d.toNat 1) ++ vsrc 1 18 a
  | .fsqrt h d a _ _ => hdUses true .flags h ++ wr 0 27 (.v d.toNat 1) ++ vsrc 1 18 a
  | .frint h d a _ _ => hdUses true .flags h ++ wr 0 27 (.v d.toNat 1) ++ vsrc 1 18 a
  | .frsq h d a _ => hdUses true .flags h ++ wr 0 27 (.v d.toNat 1) ++ vsrc 1 18 a
  | .fexp2 h d a _ => hdUses true .flags h ++ wr 0 27 (.v d.toNat 1) ++ vsrc 1 18 a
  | .flog2 h d a _ => hdUses true .flags h ++ wr 0 27 (.v d.toNat 1) ++ vsrc 1 18 a
  | .fsin h d a _ => hdUses true .flags h ++ wr 0 27 (.v d.toNat 1) ++ vsrc 1 18 a
  | .fcos h d a _ => hdUses true .flags h ++ wr 0 27 (.v d.toNat 1) ++ vsrc 1 18 a
  | .ftanh h d a _ => hdUses true .flags h ++ wr 0 27 (.v d.toNat 1) ++ vsrc 1 18 a
  | .act h d a _ _ => hdUses true .flags h ++ wr 0 27 (.v d.toNat 1) ++ vsrc 1 18 a
  | .actld h a b => hdUses false .zero h ++ rd 1 18 (.v a.toNat 8) ++ rd 2 9 (.s b.toNat 1)
  | .actswap h => hdUses false .zero h
  | .ffma h d a b c _ _ => hdUses true .flags h ++ wr 0 27 (.v d.toNat 1) ++ vsrc 1 18 a ++ vsrc 2 9 b ++ vsrc 3 0 c
  | .fdot2 h d a b c _ _ => hdUses true .flags h ++ wr 0 27 (.v d.toNat 1) ++ vsrc 1 18 a ++ vsrc 2 9 b ++ vsrc 3 0 c
  | .cvt h d a _ _ _ _ => hdUses true .flags h ++ wr 0 27 (.v d.toNat 1) ++ vsrc 1 18 a
  | .qnt h d a _ f _ _ _ => hdUses false .zero h ++ wr 0 27 (.v d.toNat 1) ++ qsrc f a
  | .dqnt h d a _ f _ _ => hdUses false .zero h ++ wr 0 27 (.v d.toNat (if f == FType.f32 then 2 else 1)) ++
      vsrc 1 18 a
  | .pack h d a b _ => hdUses true .flags h ++ wr 0 27 (.v d.toNat 1) ++ vsrc 1 18 a ++ vsrc 2 9 b
  | .unpk h d a _ _ => hdUses true .flags h ++ wr 0 27 (.v d.toNat 1) ++ vsrc 1 18 a
  | .lget h d a b _ => hdUses true .zero h ++ wr 0 27 (.v d.toNat 1) ++ vsrc 1 18 a ++ vsrc 2 9 b
  | .lput h d a b _ => hdUses true .zero h ++ rw 0 27 (.v d.toNat 1) ++ vsrc 1 18 a ++ vsrc 2 9 b
  | .lshf h d a b _ _ => hdUses true .zero h ++ wr 0 27 (.v d.toNat 1) ++ vsrc 1 18 a ++ vsrc 2 9 b
  | .lbcst h d a _ => hdUses true .zero h ++ wr 0 27 (.v d.toNat 1) ++ vsrc 1 18 a
  | .lxor h d a _ => hdUses true .zero h ++ wr 0 27 (.v d.toNat 1) ++ vsrc 1 18 a
  | .lscan h d a _ => hdUses true .flags h ++ wr 0 27 (.v d.toNat 1) ++ vsrc 1 18 a
  | .lred h d a _ => hdUses true .flags h ++ wr 0 27 (.v d.toNat 1) ++ vsrc 1 18 a
  | .lvote h d a _ => hdUses true .flags h ++ wr 0 27 (.v d.toNat 1) ++ vsrc 1 18 a
  | .rng h d => hdUses true .zero h ++ wr 0 27 (.v d.toNat 1)
  | .rngset h a b => hdUses false .zero h ++ rd 1 18 (.s a.toNat 1) ++ rd 2 9 (.s b.toNat 1)
  | .ld h d _ b _ _ _ => hdUses true .hint h ++ wr 0 27 (.v d.toNat 1) ++ vsrc 2 9 b
  | .st h d _ b _ _ _ => hdUses true .hint h ++ vsrc 0 27 d ++ vsrc 2 9 b
  | .lds h d b _ _ _ => hdUses true .zero h ++ wr 0 27 (.v d.toNat 1) ++ vsrc 2 9 b
  | .sts h d b _ _ _ => hdUses true .zero h ++ vsrc 0 27 d ++ vsrc 2 9 b
  | .ldp h d _ b _ _ => hdUses true .hint h ++ wr 0 27 (.v d.toNat 2) ++ vsrc 2 9 b
  | .stp h d _ b _ _ => hdUses true .hint h ++ rd 0 27 (.v d.toNat 2) ++ vsrc 2 9 b
  | .atom h d _ b op _ => hdUses true .zero h ++ rw 0 27 (.v d.toNat 1) ++ vsrc 2 9 b ++
      (if op == AtOp.cas then rd 0 27 (.v (d.toNat + 1) 1) else [])
  | .atoms h d b op _ => hdUses true .zero h ++ rw 0 27 (.v d.toNat 1) ++ vsrc 2 9 b ++
      (if op == AtOp.cas then rd 0 27 (.v (d.toNat + 1) 1) else [])
  | .rst h _ a b c => hdUses true .zero h ++ vsrc 1 18 a ++ vsrc 2 9 b ++ rd 3 0 (.s c.toNat 1)
  | .ratom h d _ b _ _ => hdUses true .zero h ++ vsrc 0 27 d ++ vsrc 2 9 b
  | .pref h _ b _ _ => hdUses true .hint h ++ vsrc 2 9 b
  | .stage h _ b _ => hdUses false .zero h ++ rd 2 9 (.s b.toNat 1)
  | .unstage h _ => hdUses false .zero h
  | .brw h _ a b _ _ => hdUses false .sf h ++ rd 1 18 (.s a.toNat 1) ++ rd 2 9 (.s b.toNat 1)
  | .rbrw h _ _ b _ => hdUses false .zero h ++ rd 2 9 (.s b.toNat 2)
  | .split h _ _ _ _ => hdUses false .zero h
  | .join h _ => hdUses false .zero h
  | .rtn h _ => hdUses false .zero h
  | .rgq h d _ => hdUses false .zero h ++ wr 0 27 (.s d.toNat 3)
  | .rgmv h _ _ b => hdUses false .zero h ++ rd 2 9 (.s b.toNat 1)
  | .fence h _ => hdUses false .zero h
  | .stmpw h => hdUses false .zero h
  | .stmpp h => hdUses false .zero h
  | .cseal h d => hdUses false .zero h ++ wr 0 27 (.s d.toNat 1)
  | .cwait h a => hdUses false .zero h ++ rd 1 18 (.s a.toNat 1)
  | .binit h a _ => hdUses false .zero h ++ rd 1 18 (.s a.toNat 1)
  | .barr h d _ _ => hdUses false .zero h ++ wr 0 27 (.s d.toNat 1)
  | .bexp h a _ => hdUses false .zero h ++ rd 1 18 (.s a.toNat 1)
  | .bwait h a _ => hdUses false .zero h ++ rd 1 18 (.s a.toNat 1)
  | .btest h d a _ => hdUses false .sf h ++ wr 0 27 (.s d.toNat 1) ++ rd 1 18 (.s a.toNat 1)
  | .chinit h _ a => hdUses false .zero h ++ rd 1 18 (.s a.toNat 1)
  | .chpush h a b => hdUses false .zero h ++ rd 1 18 (.v a.toNat 1) ++ rd 2 9 (.s b.toNat 1)
  | .chpop h d _ => hdUses false .zero h ++ wr 0 27 (.v d.toNat 1)
  | .chstat h d _ => hdUses false .zero h ++ wr 0 27 (.s d.toNat 1)
  | .copy h _ _ b c => hdUses false .zero h ++ rd 2 9 (.s b.toNat 3) ++ rd 3 0 (.s c.toNat 1)
  | .copy2 h _ _ b c => hdUses false .zero h ++ rd 2 9 (.s b.toNat 5) ++ rd 3 0 (.s c.toNat 1)
  | .gath h _ _ b c => hdUses false .zero h ++ rd 2 9 (.s b.toNat 3) ++ rd 3 0 (.s c.toNat 1)
  | .scat h _ _ b c => hdUses false .zero h ++ rd 2 9 (.s b.toNat 3) ++ rd 3 0 (.s c.toNat 1)
  | .route h d a b c => hdUses false .zero h ++ wr 0 27 (.s d.toNat 1) ++ rd 1 18 (.s a.toNat 3) ++
      rd 2 9 (.s b.toNat 1) ++ rd 3 0 (.s c.toNat 1)
  | .cvinit h _ a => hdUses false .zero h ++ rd 1 18 (.s a.toNat 1)
  | .mma h _ base _ _ _ b _ _ _ => hdUses false .zero h ++ rw 0 27 (.acc base.toNat 1) ++ rd 2 9 (.s b.toNat 1)
  | .mwait h => hdUses false .zero h
  | .lace h _ a => hdUses false .zero h ++ rd 1 18 (.s a.toNat 3)
  | .obres h _ a b => hdUses false .zero h ++ rd 1 18 (.s a.toNat 1) ++ rd 2 9 (.s b.toNat 1)
  | .obld h _ a b => hdUses false .zero h ++ rd 1 18 (.s a.toNat 1) ++ rd 2 9 (.s b.toNat 1)
  | .obrel h _ => hdUses false .zero h
  | .mdrain h base a b _ _ _ _ => hdUses false .zero h ++ rd 0 27 (.acc base.toNat 1) ++
      rd 1 18 (.s a.toNat 3) ++ rd 2 9 (.s b.toNat 1)
  | .hbind h d a b => hdUses false .zero h ++ wr 0 27 (.h d.toNat) ++ rd 1 18 (.h a.toNat) ++ rd 2 9 (.h b.toNat)
  | .hperm h d a b => hdUses false .zero h ++ wr 0 27 (.h d.toNat) ++ rd 1 18 (.h a.toNat) ++ rd 2 9 (.s b.toNat 1)
  | .hbund h d a => hdUses false .zero h ++ rw 0 27 (.k d.toNat) ++ rd 1 18 (.h a.toNat)
  | .hthr h d a => hdUses false .zero h ++ wr 0 27 (.h d.toNat) ++ rd 1 18 (.k a.toNat)
  | .hclr h d => hdUses false .zero h ++ wr 0 27 (.k d.toNat)
  | .hld h d _ b => hdUses false .zero h ++ wr 0 27 (.h d.toNat) ++ rd 2 9 (.s b.toNat 1)
  | .hst h d _ b => hdUses false .zero h ++ rd 0 27 (.h d.toNat) ++ rd 2 9 (.s b.toNat 1)
  | .hset h d a => hdUses false .zero h ++ wr 0 27 (.h d.toNat) ++ rd 1 18 (.s a.toNat 1)
  | .hdist h d a b => hdUses false .zero h ++ wr 0 27 (.s d.toNat 1) ++ rd 1 18 (.h a.toNat) ++ rd 2 9 (.h b.toNat)
  | .hpop h d a => hdUses false .zero h ++ wr 0 27 (.s d.toNat 1) ++ rd 1 18 (.h a.toNat)
  | .htie h a => hdUses false .zero h ++ rd 1 18 (.h a.toNat)
  | .hcw h _ => hdUses false .zero h
  | .hsrch h d a b => hdUses false .zero h ++ wr 0 27 (.s d.toNat 2) ++ rd 1 18 (.h a.toNat) ++ rd 2 9 (.s b.toNat 1)
  | .hsrch2 h d a b => hdUses false .zero h ++ wr 0 27 (.s d.toNat 4) ++ rd 1 18 (.h a.toNat) ++ rd 2 9 (.s b.toNat 1)
  | .trap h _ => hdUses false .zero h
  | .tret h _ => hdUses false .zero h
  | .mfs h d _ scalar => hdUses (!scalar) .zero h ++ wr 0 27 (if scalar then .s d.toNat 1 else .v d.toNat 1)
  | .mts h _ a => hdUses false .zero h ++ rd 1 18 (.s a.toNat 1)
  | .dist h d a b => hdUses false .zero h ++ wr 0 27 (.s d.toNat 1) ++ rd 1 18 (.s a.toNat 1) ++ rd 2 9 (.s b.toNat 1)
  | .halt h a => hdUses false .zero h ++ rd 1 18 (.s a.toNat 1)
  | .slotq h d => hdUses false .zero h ++ wr 0 27 (.s d.toNat 3)
  | .smpcfg h a => hdUses false .zero h ++ rd 1 18 (.s a.toNat 1)
  | .smpon h a => hdUses false .zero h ++ rd 1 18 (.s a.toNat 1)
  | .smpoff h d => hdUses false .zero h ++ wr 0 27 (.s d.toNat 1)
  | _ =>
    match i.paired? with
    | some (x, _, y) => slotUses 0 31 x ++ slotUses 2 0 y
    | none => []

/-! Where a register lies -/

/-- Frame renaming of a vector name at a loop depth (Table 4.4). -/
def rename (depth n : Nat) : Nat :=
  if n < 352 then n
  else if n < 368 then
    match depth with
    | 0 | 2 => n
    | 1 => n + 16
    | 3 => n - 16
    | _ => n - 32
  else
    match depth with
    | 0 => n
    | 1 => n - 16
    | 2 => n - 32
    | 3 => n - 48
    | _ => n - 64

/-- Bases of the views, in units of 256 B; 0x1FF marks an absent view (Table 5.1). -/
def viewV (views : Word) : Nat := fld views 0 9
@[inherit_doc viewV] def viewT (views : Word) : Nat := fld views 9 9
@[inherit_doc viewV] def viewA (views : Word) : Nat := fld views 18 9
@[inherit_doc viewV] def viewH (views : Word) : Nat := fld views 27 9
@[inherit_doc viewV] def viewK (views : Word) : Nat := fld views 36 9

/-- The counter width in bits (R273). -/
def ctrwBits : CtrW → Nat
  | .w4 => 4
  | .w8 => 8
  | .w16 => 16

/-- What an operand needs of the wave: views, window bytes, loop depth, counter width. -/
structure Frame where
  views : Word
  win : Nat
  depth : Nat
  ctrw : CtrW
deriving DecidableEq, Repr

/-- The window bytes of register `n` of a view with base `b` and size `z` (R99); none when the view is absent or the
register passes the window. -/
def viewReg? (b z n win : Nat) : Option (Nat × Nat) :=
  if b = 0x1FF then none
  else if 256 * b + z * (n + 1) ≤ win then some (256 * b + z * n, 256 * b + z * (n + 1)) else none

/-- The window bytes of a vector name after renaming (R83, R99). -/
def Frame.vreg? (f : Frame) (n : Nat) : Option (Nat × Nat) := viewReg? (viewV f.views) 256 (rename f.depth n) f.win

/-- The first window slot (8 bytes, one lane) of a vector name. -/
def Frame.vslot (f : Frame) (n : Nat) : Nat := (256 * viewV f.views + 256 * rename f.depth n) / 8

/-- Where a register use lies; none when a register of it is absent or beyond the window. Each name of an operand of several
registers is renamed by itself (DEDUCED, assumption 91). -/
def Frame.locs? (f : Frame) : RegU → Option (List Loc)
  | .v n k => (List.range k).mapM fun i => (f.vreg? (n + i)).map fun r => Loc.win r.1 r.2
  | .s n k => some ((List.range k).map fun i => Loc.sreg (n + i))
  | .acc n k => (List.range k).mapM fun i => (viewReg? (viewA f.views) 256 (n + i) f.win).map fun r => Loc.win r.1 r.2
  | .tile n k => (List.range k).mapM fun i => (viewReg? (viewT f.views) 256 (n + i) f.win).map fun r => Loc.win r.1 r.2
  | .h n => (viewReg? (viewH f.views) 1024 n f.win).map fun r => [Loc.win r.1 r.2]
  | .k n => (viewReg? (viewK f.views) (1024 * ctrwBits f.ctrw) n f.win).map fun r => [Loc.win r.1 r.2]
  | .cc n => some [Loc.cc n]
  | .sf => some [Loc.sf]

/-- Bit positions of the operands that name a register of an absent view or beyond the window (R70, R99). -/
def Frame.bad (f : Frame) (us : List Use) : List Nat :=
  (us.filter fun u => (f.locs? u.reg).isNone).map (·.pos)

/-- Two places share a register or a byte; s0 is no storage (R100, R101). -/
def Loc.meets : Loc → Loc → Bool
  | .win a b, .win c d => decide (a < d) && decide (c < b)
  | .sreg m, .sreg n => m == n && m != 0
  | .cc m, .cc n => m == n
  | .sf, .sf => true
  | _, _ => false

/-- The places of a use. -/
def Frame.locs (f : Frame) (u : Use) : List Loc := (f.locs? u.reg).getD []

/-- The places of all uses of a word. -/
def Frame.allLocs (f : Frame) (us : List Use) : List Loc := us.flatMap f.locs

/-! The fixed-latency test (R64) -/

/-- How many clk early a use is at `clk`. -/
def earlyBy (clk : Nat) (es : List Early) (ls : List Loc) : Nat :=
  es.foldl (fun m e => if ls.any (·.meets e.loc) then max m (e.due - clk) else m) 0

/-- The operand that is the most clk early, lowest number first among equals: its clk and operand number. -/
def worstEarly (f : Frame) (clk : Nat) (es : List Early) (us : List Use) : Nat × Nat :=
  us.foldl (fun m u =>
    let n := earlyBy clk es (f.locs u)
    if m.1 < n || (m.1 = n && 0 < n && u.code < m.2) then (n, u.code) else m) (0, 0)

/-- %tinfo of STALL_SHORT (Table 3.11). -/
def stallInfo (m : Nat × Nat) : Word := wd (min m.1 255 + 256 * m.2)

/-- The oldest result still pending over a place; a reader with checking off sees the value before it. -/
def oldest? (clk : Nat) (es : List Early) (l : Loc) : Option Early :=
  es.find? fun e => decide (clk < e.due) && e.loc.meets l

/-! Reading operands -/

/-- A scalar register as a word issuing at `clk` reads it. -/
def Wave.readS (w : Wave) (clk n : Nat) : Word :=
  match oldest? clk w.early (.sreg n) with
  | some e => wget e.old n
  | none => w.sget n

/-- A window slot as a word issuing at `clk` reads it. -/
def Wave.readSlot (w : Wave) (clk k : Nat) : Word :=
  match oldest? clk w.early (.win (8 * k) (8 * k + 8)) with
  | some e => wget e.old k
  | none => wget w.win k

/-- sf as a word issuing at `clk` reads it. -/
def Wave.readSf (w : Wave) (clk : Nat) : Word :=
  match oldest? clk w.early .sf with
  | some e => wget e.old 0
  | none => w.sf

/-- cn of a lane as a word issuing at `clk` reads it. -/
def Wave.readCc (w : Wave) (clk n lane : Nat) : BitVec 4 :=
  match oldest? clk w.early (.cc n) with
  | some e => (wget e.old lane).setWidth 4
  | none => w.ccGet n lane

/-- A lane of a V-space source (R52): a vector register's lane, or a scalar supplied to every lane. -/
def Wave.readV (w : Wave) (f : Frame) (clk : Nat) (n : VCode) (lane : Nat) : Word :=
  if n.toNat < 384 then w.readSlot clk (f.vslot n.toNat + lane) else w.readS clk (n.toNat - 384)

/-- A lane of the vector register named `n` (0 to 383). -/
def Wave.readVreg (w : Wave) (f : Frame) (clk n lane : Nat) : Word := w.readSlot clk (f.vslot n + lane)

/-! Writing results -/

/-- A fixed-latency result recorded at its issue: until `due`, readers with checking off see `old`. Results that are
already due are forgotten. A result that overlaps an older pending one lands after it. -/
def Wave.pend (w : Wave) (clk lat : Nat) (l : Loc) (old : Words) : Wave :=
  { w with early := w.early.filter (fun e => decide (clk < e.due)) ++ [{ due := clk + lat, loc := l, old := old, whole := false }] }

/-- The 32 slots of a vector register, as they stand. -/
def Wave.vregWords (w : Wave) (slot : Nat) : Words :=
  (List.range 32).foldl (fun m i => wset m (slot + i) (wget w.win (slot + i))) []

/-- A vector register's lanes written, as a fixed-latency result (R63, R100): only the slots listed change. -/
def Wave.writeV (w : Wave) (f : Frame) (clk lat n : Nat) (vals : List (Nat × Word)) : Wave :=
  let slot := f.vslot n
  let w' := w.pend clk lat (.win (8 * slot) (8 * slot + 256)) (w.vregWords slot)
  { w' with win := vals.foldl (fun m v => wset m (slot + v.1) v.2) w'.win }

/-- A scalar register written, as a fixed-latency result. -/
def Wave.writeS (w : Wave) (clk lat n : Nat) (v : Word) : Wave :=
  if n = 0 then w else (w.pend clk lat (.sreg n) (wset [] n (wget w.sregs n))).sset n v

/-- cn of some lanes written, as a fixed-latency result. -/
def Wave.writeCc (w : Wave) (clk lat n : Nat) (vals : List (Nat × BitVec 4)) : Wave :=
  let old := (List.range 32).foldl (fun m i => wset m i ((w.ccGet n i).setWidth 64)) ([] : Words)
  vals.foldl (fun w v => w.ccSet n v.1 v.2) (w.pend clk lat (.cc n) old)

/-- sf written whole, as a fixed-latency result. -/
def Wave.writeSfAll (w : Wave) (clk lat : Nat) (v : Word) : Wave :=
  let w' := w.pend clk lat .sf (wset [] 0 w.sf)
  { w' with sf := v, early := w'.early.map fun e =>
      if e.loc == .sf && e.due == clk + lat then { e with whole := true } else e }

/-- sf[3:0] written, as a fixed-latency result. -/
def Wave.writeSf (w : Wave) (clk lat : Nat) (f : BitVec 4) : Wave := (w.pend clk lat .sf (wset [] 0 w.sf)).sfSet f

end Sys2Proof.Machine
end

