-- ==== Sys2Proof/Machine/Issue.lean ====
section
/-! DEFINITION. Issuing one instruction word: the order of the decode checks, guards, STALL_SHORT and the word's own
traps (R58, R64, R70), partitions splitting and merging (R75, R76), turns (R79), the redirect (R78), the vector pipe
and the register cache (R77, R104). -/

namespace Sys2Proof.Machine

open Sys2Proof

/-- Fault codes (Table 14.4). -/
def ILLEGAL_OPCODE : Nat := 0x01
@[inherit_doc ILLEGAL_OPCODE] def RESERVED_FIELD : Nat := 0x02
@[inherit_doc ILLEGAL_OPCODE] def PAIR_BANK : Nat := 0x03
@[inherit_doc ILLEGAL_OPCODE] def STALL_SHORT : Nat := 0x04
@[inherit_doc ILLEGAL_OPCODE] def MISALIGNED : Nat := 0x05
@[inherit_doc ILLEGAL_OPCODE] def REFUSED_BOUNDS : Nat := 0x10
@[inherit_doc ILLEGAL_OPCODE] def REFUSED_KIND : Nat := 0x11
@[inherit_doc ILLEGAL_OPCODE] def REGION_STATE : Nat := 0x12
@[inherit_doc ILLEGAL_OPCODE] def BRAND_FULL : Nat := 0x13
@[inherit_doc ILLEGAL_OPCODE] def GRANT_FAILED : Nat := 0x14
@[inherit_doc ILLEGAL_OPCODE] def PAGE_UNMAPPED : Nat := 0x20
@[inherit_doc ILLEGAL_OPCODE] def PAGE_PERM : Nat := 0x21
@[inherit_doc ILLEGAL_OPCODE] def MEM_UNCORRECTABLE : Nat := 0x22
@[inherit_doc ILLEGAL_OPCODE] def BAR_OVERFLOW : Nat := 0x30
@[inherit_doc ILLEGAL_OPCODE] def CHANNEL_MISUSE : Nat := 0x31
@[inherit_doc ILLEGAL_OPCODE] def SLOT_OVERRUN : Nat := 0x40
@[inherit_doc ILLEGAL_OPCODE] def STAMP_ORDER : Nat := 0x41
@[inherit_doc ILLEGAL_OPCODE] def WATCHDOG : Nat := 0x50
@[inherit_doc ILLEGAL_OPCODE] def LINK_PARTITION : Nat := 0x51
@[inherit_doc ILLEGAL_OPCODE] def DIE_RETIRED : Nat := 0x52
@[inherit_doc ILLEGAL_OPCODE] def USER_TRAP : Nat := 0x60

/-- The issuing wave with all it belongs to: its current partition, its other partitions, its group and kernel. -/
structure Iss where
  s : State
  w : Wave
  p : Part
  ps : List Part
  g : Group
  k : Kernel
deriving DecidableEq, Repr

/-- The issuing wave that `cur` names. -/
def State.iss? (s : State) : Option Iss :=
  match s.cur with
  | none => none
  | some u =>
    match s.wave? u with
    | none => none
    | some w =>
      match w.parts, s.group? w.group with
      | p :: ps, some g =>
        match s.kernel? g.kernel with
        | some k => some { s := s, w := w, p := p, ps := ps, g := g, k := k }
        | none => none
      | _, _ => none

/-- The clk of issue. -/
def Iss.clk (x : Iss) : Nat := x.s.clk
/-- The context. -/
def Iss.c (x : Iss) : Ctx := x.s.ctx x.k.ctx
/-- The issuing core, by die × 40 + core. -/
def Iss.coreIx (x : Iss) : Nat := x.g.die * 40 + x.w.core
/-- The issuing core. -/
def Iss.core (x : Iss) : Core := x.s.core x.coreIx
/-- The kernel runs in determinism mode (R287, Table 16.1). -/
def Iss.det (x : Iss) : Bool := x.k.det
/-- Bytes of the group scratchpad (Table 16.1). -/
def Iss.scr (x : Iss) : Nat := x.k.scr * 256
/-- What operands need of the wave (R83, R98, R99); words are checked against the counter width that the last issued
HCW will set (R279). -/
def Iss.frame (x : Iss) : Frame :=
  { views := x.k.views, win := x.k.win * 256, depth := x.p.nest.length, ctrw := x.w.ctrwNext }
/-- Scalar register `n` as the word reads it. -/
def Iss.sreg (x : Iss) (n : Nat) : Word := x.w.readS x.clk n
/-- A lane of a V-space source as the word reads it. -/
def Iss.v (x : Iss) (n : VCode) (lane : Nat) : Word := x.w.readV x.frame x.clk n lane
/-- A lane of a vector name as the word reads it. -/
def Iss.vreg (x : Iss) (n lane : Nat) : Word := x.w.readVreg x.frame x.clk n lane

/-- The lanes of a mask, ascending. -/
def lanesOf (m : BitVec 32) : List Nat := (List.range 32).filter fun i => m.getLsbD i

/-- The active lanes of a word: lanes of the partition whose lane guard holds (R57). -/
def Iss.active (x : Iss) (h : Hd) : List Nat :=
  (lanesOf x.p.lanes).filter fun l => condHolds h.lgcond (x.w.readCc x.clk h.lgc.toNat l)

/-- The uniform guard holds (R58). -/
def Iss.guard (x : Iss) (h : Hd) : Bool := condHolds h.ug ((x.w.readSf x.clk).setWidth 4)

/-- Where a word leaves its partition: at the next word, at new partitions (the first holds the lowest lane), or with the
wave's partitions exactly as given. `noCost` marks a taken ENDL, which costs no redirect (R78). -/
inductive Move
  | next
  | to (l : List Part) (noCost : Bool)
  | exact (l : List Part)
deriving DecidableEq, Repr

/-- What a word does once its decode checks, guards and STALL_SHORT are passed: a precise trap of its own, the deferred
fault that a region register holds (R158), a wait at issue, an offer that is rejected and only changes the state
(R193), or its effect on the state and on the issuing wave. -/
inductive Eff
  | trap (code : Nat) (info : Word)
  | trapReg (r : RegRef) (code : Nat) (info : Word)
  | wait
  | stay (s : State)
  | done (s : State) (w : Wave) (mv : Move)
deriving DecidableEq, Repr

/-- The pipe of a word (R77): scalar, vector by its active lanes, or vector for a fixed number of clk. -/
inductive Pipe
  | scalar
  | vector
  | vfix (n : Nat)
deriving DecidableEq, Repr

/-! Partitions -/

/-- The lowest lane of a partition; 32 when it has none. -/
def Part.low (p : Part) : Nat := ((lanesOf p.lanes).head?).getD 32

/-- Two partitions share a position, and neither waits at an FBAR (R74, R76). The nest that a trap handler has set aside is
no part of a position. -/
def Part.same (a b : Part) : Bool := a.pc == b.pc && a.nest == b.nest && a.fbar.isNone && b.fbar.isNone

/-- A partition placed among others in rotation order. -/
def insPart : List Part → Part → List Part
  | [], p => [p]
  | a :: r, p => if p.low < a.low then p :: a :: r else a :: insPart r p

/-- A partition merged with those of its position (R76). The merged partition keeps the set-aside nest of the one that the
word has moved (DEDUCED, assumption 13), the later redirect, and, unless it is current, the mark of an FBAR release
(DEDUCED, assumption 88). -/
def mergePart (p : Part) (ps : List Part) : Part × List Part :=
  ps.foldl (fun acc q =>
    if acc.1.same q then
      ({ acc.1 with lanes := acc.1.lanes ||| q.lanes, redirect := max acc.1.redirect q.redirect,
                    due := acc.1.due || q.due }, acc.2)
    else (acc.1, insPart acc.2 q)) (p, [])

/-- New partitions merged among the others; the first stays current (R75, R76), so that an FBAR release which it has joined
waits for no further turn (assumption 88). -/
def mergeAll (l ps : List Part) : List Part :=
  match l with
  | [] => ps
  | p :: r =>
    let ps := r.foldl (fun ps q => let m := mergePart q ps; insPart m.2 m.1) ps
    let m := mergePart p ps
    { m.1 with due := false } :: m.2

/-- A partition may be current: it does not wait at an FBAR, and while some partition runs a trap handler it is one of
those (R79, R81). -/
def canRun (ps : List Part) (p : Part) : Bool := p.fbar.isNone && (p.saved.isSome || !ps.any (·.saved.isSome))

/-- The next partition of the rotation after lane `l` becomes current: one that an FBAR release has merged comes first
(R79, R94). With none that may run, the order stays. -/
def nextTurn (l : Nat) (ps : List Part) : List Part :=
  let ready := ps.filter (canRun ps)
  match (ready.filter (·.due) ++ ready.filter (fun p => decide (l < p.low)) ++ ready).head? with
  | none => ps
  | some p => { p with due := false } :: ps.filter (· != p)

/-- The turn of a wave passes (R79). A turn that a trap handler has stopped keeps its remaining time (R81). -/
def Wave.passTurn (w : Wave) (clk : Nat) : Wave :=
  match w.parts with
  | [] => w
  | p :: ps => { w with parts := nextTurn p.low (ps.foldl insPart [p]),
                        turn := if w.parts.any (·.saved.isSome) then w.turn else clk + 256 }

/-- The partitions waiting at an FBAR address merge and continue at the next word once every fibre that they name waits
there or has ended (R94). Masks that differ are taken together: every fibre that one of them names must have arrived
(DEDUCED, assumption 89). The merged partition keeps the loop nest of its lowest lane (DEDUCED, assumption 14). -/
def releaseFbar (at_ : Word) (ps : List Part) : List Part :=
  let here := ps.filter fun p => p.fbar.isSome && p.pc == at_
  let rest := ps.filter fun p => !(p.fbar.isSome && p.pc == at_)
  let all (f : Part → BitVec 32) (l : List Part) : BitVec 32 := l.foldl (fun m p => m ||| f p) 0
  let named := all (fun p => if p.fbar == some 0 then BitVec.allOnes 32 else p.fbar.getD 0) here
  match (here.foldl insPart []).head? with
  | none => ps
  | some p =>
    if named &&& all (·.lanes) rest != 0 then ps
    else rest ++ [{ p with lanes := all (·.lanes) here, pc := at_ + 8, fbar := none, due := true }]

/-- Every FBAR address of a wave tested. -/
def releaseFbars (ps : List Part) : List Part :=
  ((ps.filter (·.fbar.isSome)).map (·.pc)).foldl (fun ps a => releaseFbar a ps) ps

/-! The register cache (R104) -/

/-- VV registers a word reads, then those it writes, after renaming, without repeats. -/
def vvRegs (f : Frame) (us : List Use) (reads : Bool) : List Nat :=
  (us.flatMap fun u => match u.reg with
    | .v n k => if (if reads then u.rd else u.wr) then (List.range k).map fun i => rename f.depth (n + i) else []
    | _ => []).eraseDups

/-- The excess of a word: in each bank, one clk for every register beyond the first that misses the cache. -/
def excess (cache regs : List Nat) : Nat :=
  let miss := regs.filter fun r => !cache.contains r
  ((List.range 4).map fun b => (miss.filter (· % 4 == b)).length - 1).sum

/-- The six-entry cache after registers have filled it, most recent first. -/
def fillCache (cache regs : List Nat) : List Nat :=
  regs.foldl (fun c r => (r :: c.filter (· != r)).take 6) cache

/-! Issue -/

/-- The state with what issued recorded, for the sampler and the step (R358). -/
def State.note (s : State) (u lanes : Nat) (pc : Word) : State := { s with issued := s.issued ++ [(u, lanes, pc)] }

/-- The largest of a list of bit positions. -/
def maxPos (l : List Nat) : Option Nat := l.foldl (fun m p => some (max p (m.getD 0))) none

/-- The trap of a word, taken by the issuing wave (R293). -/
def Iss.trap (x : Iss) (sc code : Nat) (info : Word) : State :=
  (x.s.note x.w.uid 0 x.p.pc).takeTrap x.w code info sc

/-- The quad's vector pipe held until a clk (R77). -/
def State.holdPipe (s : State) (core quad until_ : Nat) : State :=
  let c := s.core core
  s.setCore core { c with pipes := c.pipes.set quad until_ }

/-- The current partition moves to `pc`; a move away from the next word is a redirect (R78). -/
def Iss.goto (x : Iss) (sc : Nat) (pc : Word) : Part :=
  { x.p with pc := pc, redirect := if pc == x.p.pc + 8 then x.p.redirect else x.clk + max sc 2 + 1 }

/-- A word that is not issued because its uniform guard fails takes the issue slot and its stall count applies (R58). -/
def Iss.skip (x : Iss) (sc : Nat) : State :=
  let parts := mergeAll [{ x.p with pc := x.p.pc + 8 }] x.ps
  (x.s.note x.w.uid 0 x.p.pc).setWave { x.w with parts := parts, lastIssue := some x.clk, nextIssue := x.clk + sc + 1,
                                                  progress := x.clk }

/-- The partitions after a word. -/
def Iss.moved (x : Iss) (sc : Nat) : Move → List Part
  | .next => mergeAll [{ x.p with pc := x.p.pc + 8 }] x.ps
  | .to l noCost =>
    mergeAll (l.map fun p =>
      if noCost || p.pc == x.p.pc + 8 then p else { p with redirect := x.clk + max sc 2 + 1 }) x.ps
  | .exact l => l

/-- The effect of a word made the state: the partitions move, the wave's stall count applies, the pipe is held. `k` is
the number of lanes the pipe works on. The VV registers that the word reads, then those that it writes, enter the register
cache in the order of its uses; a vector word with no active lane reads and writes none (R104; assumption 90). -/
def Iss.finish (x : Iss) (us : List Use) (pipe : Pipe) (k sc : Nat) (s : State) (w : Wave) (mv : Move) : State :=
  let reads := vvRegs x.frame us true
  let e := excess w.rcache reads
  let idle := pipe = .vector ∧ k = 0
  let w := { w with parts := x.moved sc mv, lastIssue := some x.clk, nextIssue := x.clk + sc + 1, progress := x.clk,
                    rejects := 0,
                    rcache := if idle then w.rcache else fillCache (fillCache w.rcache reads) (vvRegs x.frame us false) }
  let s := (s.note w.uid k x.p.pc).setWave w
  match pipe with
  | .scalar => s
  | .vfix n => s.holdPipe x.coreIx x.w.quad (x.clk + n)
  | .vector => if k = 0 then s else s.holdPipe x.coreIx x.w.quad (x.clk + cdiv k 8 + e)

/-- One word issues. The decode check of views comes first (check 2 of R70, R99); a word whose uniform guard fails is
tested only on sf and does nothing (R58, R64); then STALL_SHORT at the clk at which it issues, so that a word that a wait
holds is not tested (R64, R319), the word's own traps, and its effect. `lanes` are the lanes that the pipe works on; a `quiet`
word raises no STALL_SHORT. -/
def Iss.issueOn (x : Iss) (us : List Use) (h : Hd) (pipe : Pipe) (lanes : List Nat) (eff : Iss → List Nat → Eff)
    (quiet : Bool := false) : State :=
  let sc := h.sc.toNat
  let early (m : Nat × Nat) : Bool := x.c.stchk && !quiet && m.1 != 0
  match maxPos (x.frame.bad us) with
  | some p => x.trap sc RESERVED_FIELD (wd p)
  | none =>
    let g := worstEarly x.frame x.clk x.w.early (us.filter fun u => u.pos == 43)
    if early g && !x.guard h then x.trap sc STALL_SHORT (stallInfo g)
    else if !x.guard h then x.skip sc
    else
      let m := worstEarly x.frame x.clk x.w.early us
      match eff x lanes with
      | .wait => x.s
      | e =>
        if early m then x.trap sc STALL_SHORT (stallInfo m)
        else match e with
        | .trap code info => x.trap sc code info
        | .trapReg r code info =>
          ({ x with s := { x.s with regFaults := x.s.regFaults.filter fun f => !(f.1 == r && f.2.code == code) } } : Iss).trap
            sc code info
        | .wait => x.s
        | .stay s => s
        | .done s w mv => x.finish us pipe lanes.length sc s w mv

/-- One full-form word issues: its lanes are the active lanes (R57). -/
def Iss.issue (x : Iss) (us : List Use) (h : Hd) (pipe : Pipe) (eff : Iss → List Nat → Eff) : State :=
  x.issueOn us h pipe (x.active h) eff

/-- The meaning of a full-form word with the registers it uses: the word issues for the wave that `cur` names. -/
def execUses (us : List Use) (h : Hd) (pipe : Pipe) (s : State) (eff : Iss → List Nat → Eff) : Out :=
  match s.iss? with
  | none => .fault .noIssuingWave
  | some x => .next (x.issue us h pipe eff)

/-- The meaning of a full-form word. -/
def execWord (i : Instr) (h : Hd) (pipe : Pipe) (s : State) (eff : Iss → List Nat → Eff) : Out :=
  execUses (usesOf i) h pipe s eff

/-- Results written at issue whose readers the scoreboard holds until VARIABLE_LATENCY_WRITE (R63). -/
def Iss.vlate (s : State) (w : Wave) (ls : List Loc) : State × Wave :=
  let (s, id) := s.fresh
  (s, { w with vpend := w.vpend ++ [{ id := id, locs := ls, chan := none }] })

/-- The meaning of an event: it always takes a next state; an event that is not enabled changes nothing
(assumption 1). -/
def execEvent (s : State) (f : State → Option State) : Out := .next ((f s).getD s)

end Sys2Proof.Machine
end

