-- ==== Sys2Proof/Machine/Life.lean ====
section
/-! DEFINITION. The life of waves: where a new wave finds room (R21, R90), what it starts with (R90, R308), spawn bins
(R89, R156), and what the end of a wave does to its region registers and its group (R82, R155, R315). -/

namespace Sys2Proof.Machine

open Sys2Proof

/-! Room on quads -/

/-- The waves that hold a slot of a quad; `core` is die × 40 + core. -/
def State.quadWaves (s : State) (core quad : Nat) : List Wave :=
  s.waves.filter fun w => w.slotHeld && w.quad == quad && s.coreOf w == core

/-- How many further waves of `win` window units a quad takes: 24 slots and 512 KiB of windows (R21). -/
def State.room (s : State) (core quad win : Nat) : Nat :=
  let ws := s.quadWaves core quad
  min (24 - ws.length) ((2048 - (ws.map s.winOf).sum) / max win 1)

/-- The lowest free slot of a quad (R316). -/
def State.freeSlot (s : State) (core quad : Nat) : Nat :=
  let used := (s.quadWaves core quad).map (·.slot)
  ((List.range 24).find? fun i => !used.contains i).getD 24

/-- Swapped waves that may be restored, by the clk at which they became eligible (R320). -/
def State.restorable (s : State) : List Wave :=
  let ws := s.waves.filter fun w => w.st == .swapped && w.eligible.isSome && (match s.group? w.group with
    | some g => g.st == .running
    | none => false)
  ws.foldl (fun l w => l.takeWhile (fun x => decide (x.eligible.getD 0 ≤ w.eligible.getD 0)) ++ [w] ++
    l.dropWhile (fun x => decide (x.eligible.getD 0 ≤ w.eligible.getD 0))) []

/-- A slot that a swapped wave is to have, on a quad of a core (die × 40 + core), with the window units that it takes there. -/
structure Spot where
  uid : Nat
  core : Nat
  quad : Nat
  win : Nat
deriving DecidableEq, Repr

/-- How many further waves of `win` window units a quad takes beside those of some spots. -/
def State.roomBut (s : State) (l : List Spot) (core quad win : Nat) : Nat :=
  let ws := s.quadWaves core quad
  let l := l.filter fun p => p.core == core && p.quad == quad
  min (24 - ws.length - l.length) ((2048 - (ws.map s.winOf).sum - (l.map (·.win)).sum) / max win 1)

/-- A free slot is given first to a swapped wave whose parked accesses have completed, the earliest eligible first, each on the
lowest core and quad of its group that has room (R320). -/
def State.claims (s : State) : List Spot :=
  s.restorable.foldl (fun l w => match s.group? w.group with
    | none => l
    | some g =>
      let win := s.winOf w
      match (g.cores.flatMap fun c => (List.range 4).map fun q => (g.die * 40 + c, q)).find? fun p =>
          decide (0 < s.roomBut l p.1 p.2 win) with
      | some p => l ++ [{ uid := w.uid, core := p.1, quad := p.2, win := win }]
      | none => l) []

/-- Waves that a group still has: those that have not ended, and ended ones that hold their slot (R82, R90). -/
def State.groupWaves (s : State) (gu : Nat) : List Wave :=
  s.waves.filter fun w => w.group == gu && (w.st != .ended || w.slotHeld)

/-- Free slots of a group over its cores (R90), those aside that go to swapped waves (R320). -/
def State.groupRoom (s : State) (g : Group) (win : Nat) : Nat :=
  let l := s.claims
  min (384 - (s.groupWaves g.uid).length)
    ((g.cores.flatMap fun c => (List.range 4).map fun q => s.roomBut l (g.die * 40 + c) q win).sum)

/-- The first quad with room among cores, in the order given, beside the swapped waves that come first (R320). -/
def State.findRoom? (s : State) (g : Group) (win : Nat) (cores : List Nat) : Option (Nat × Nat) :=
  if 384 ≤ (s.groupWaves g.uid).length then none
  else (cores.flatMap fun c => (List.range 4).map fun q => (c, q)).find? fun p =>
    decide (0 < s.roomBut s.claims (g.die * 40 + p.1) p.2 win)

/-- A wave as it starts: sf, condition registers and loop depth 0, the generator set (R42, R48, R101), one partition at
the entry. -/
def Wave.launch (uid core quad slot index clk : Nat) (g : Group) (k : Kernel) (entry : Word) (lanes : BitVec 32)
    (win sregs : Words) : Wave :=
  { uid := uid, group := g.uid, core := core, quad := quad, slot := slot, index := index, st := .resident,
    slotHeld := true,
    parts := [{ lanes := lanes, pc := entry, nest := [], saved := none, fbar := none, redirect := 0, due := false }],
    turn := clk + 256, win := win, sregs := sregs, cc := [], sf := 0, key := k.seed,
    ctr := wd ((g.grp * k.wpg + index) * 2 ^ 32), tb := [], ctrw := .w4, ctrwNext := .w4, tcause := 0, tpc := 0,
    tinfo := 0, tlanes := 0, outbox := [], batch := 0, arrives := [], passed := false, early := [], stk := [], vpend := [],
    loads := [], deferred := [], hold := .none, lastIssue := none, nextIssue := clk, sleepEnd := 0, rejects := 0,
    progress := clk, eligible := none, rcache := [] }

/-! Bins (R89, R90) -/

/-- The window of a bin's wave: lane L holds v0 to v3 from its fibre's arguments (R90). -/
def binWindow (views : Word) (fs : List Fibre) : Words :=
  let slot (n : Nat) := (256 * viewV views + 256 * n) / 8
  (fs.zipIdx).foldl (fun m p =>
    wset (wset (wset (wset m (slot 0 + p.2) p.1.a0) (slot 1 + p.2) p.1.a1) (slot 2 + p.2) p.1.a2) (slot 3 + p.2) p.1.a3) []

/-- A bin launches as a new wave of its group (R90); none when the group has no free slot, or is being saved (R296). -/
def State.launchBin? (s : State) (b : Bin) : Option State :=
  match s.group? b.group with
  | none => none
  | some g =>
    if g.st != .running then none else
    match s.kernel? g.kernel with
    | none => none
    | some k =>
      if (s.ctx k.ctx).preempting then none else
      match s.findRoom? g k.win (b.core :: g.cores) with
      | none => none
      | some (core, quad) =>
        let slot := s.freeSlot (g.die * 40 + core) quad
        let (s, uid) := s.fresh
        let lanes : BitVec 32 := BitVec.ofNat 32 (2 ^ b.fibres.length - 1)
        let w := Wave.launch uid core quad slot g.nextIdx s.clk g k b.entry lanes (binWindow k.views b.fibres) []
        let s := s.setGroup { g with nextIdx := g.nextIdx + 1 }
        some { s with waves := s.waves ++ [w], bins := s.bins.filter (·.uid != b.uid),
                      grants := s.grants.map fun r =>
                        if !r.reg.grp && r.reg.owner == b.uid then { r with reg := { r.reg with owner := uid } } else r }

/-- A bin launches, or closes and waits for a free slot of its group, behind bins of the group that already wait (R89). -/
def State.closeBin (s : State) (b : Bin) : State :=
  match if s.bins.any (fun x => x.waiting && x.group == b.group) then none else s.launchBin? b with
  | some s => s
  | none => { s with bins := s.bins.map fun x => if x.uid == b.uid then { x with waiting := true } else x }

/-- The shared grants that a mask copies: the HELD S grants of the wave's registers (R89). -/
def State.binMask (s : State) (wave : Nat) (m : Nat) : List (Nat × Nat) :=
  (List.range 16).filterMap fun n =>
    if m / 2 ^ n % 2 = 1 then
      match s.reg? { grp := false, owner := wave, code := n } with
      | some g => if g.st == .held && g.kind == .s then some (n, g.gid) else none
      | none => none
    else none

/-- One more holder or child for a copied grant (R156). -/
def State.addHolder (s : State) (g : Grant) : State :=
  match g.parent with
  | some (p, _, _) =>
    match s.grant? p with
    | some x => s.setGrant { x with children := x.children + 1 }
    | none => s
  | none =>
    match g.entry with
    | some i => s.setDie g.home
        { s.die g.home with entries := (s.die g.home).entries.map fun e => if e.idx == i then { e with count := e.count + 1 } else e }
    | none => s

/-- Copies of grants taken into a bin. -/
def State.copyGrants (s : State) (owner : Nat) : List (Nat × Nat) → State
  | [] => s
  | (n, gid) :: r =>
    match s.grant? gid with
    | none => s.copyGrants owner r
    | some g =>
      let (s, id) := (s.addHolder g).fresh
      let c := { g with gid := id, reg := { grp := false, owner := owner, code := n }, children := 0 }
      { s with grants := s.grants ++ [c] }.copyGrants owner r

/-- One fibre enters a bin (R89). The second part counts the launches of the group's own bins; the third lists the
grants copied. The oldest bin of another group that a SPAWN closes launches in its place in the lane order: it may take a free
slot that the SPAWN has counted for its own launches, whose bin then waits (R89 does not say; DESIGN CHOICE, assumption 126). -/
def State.binFibre (s : State) (g : Group) (core : Nat) (mask : List (Nat × Nat)) (entry : Word) (f : Fibre) :
    State × Nat × List Nat :=
  let mine (b : Bin) : Bool := b.group == g.uid && b.core == core && b.entry == entry && !b.waiting
  let closed : State × Nat := match s.bins.find? mine with
    | some b => if b.mask == mask then (s, 0) else (s.closeBin b, 1)
    | none => (s, 0)
  let s := closed.1
  let opened : State × Nat × List Nat := match s.bins.find? mine with
    | some _ => (s, 0, [])
    | none =>
      let here := s.bins.filter fun b => b.die == g.die && b.core == core && !b.waiting
      let (s, n) : State × Nat :=
        if here.length < 32 then (s, 0)
        else match here.head? with
          | some b => (s.closeBin b, b2n (b.group == g.uid))
          | none => (s, 0)
      let (s, uid) := s.fresh
      let s := s.copyGrants uid mask
      ({ s with bins := s.bins ++ [{ uid := uid, core := core, die := g.die, group := g.uid, entry := entry, mask := mask,
                                     due := s.clk + 4096, fibres := [], waiting := false }] }, n, mask.map (·.2))
  let s := { opened.1 with bins := opened.1.bins.map fun b => if mine b then { b with fibres := b.fibres ++ [f] } else b }
  match s.bins.find? mine with
  | some b => if b.fibres.length = 32 then (s.closeBin b, closed.2 + opened.2.1 + 1, opened.2.2)
              else (s, closed.2 + opened.2.1, opened.2.2)
  | none => (s, closed.2 + opened.2.1, opened.2.2)

/-- Fibres enter bins in ascending lane order. -/
def State.binAll (s : State) (g : Group) (core : Nat) (mask : List (Nat × Nat)) : List (Word × Fibre) → State × Nat × List Nat
  | [] => (s, 0, [])
  | (e, f) :: r =>
    let a := s.binFibre g core mask e f
    let b := a.1.binAll g core mask r
    (b.1, a.2.1 + b.2.1, a.2.2 ++ b.2.2)

/-- What counts the copies of a grant (R156): its parent, or its home's entry. -/
def State.counter (s : State) (gid : Nat) : Option (Nat ⊕ Nat × Nat) :=
  (s.grant? gid).bind fun g => match g.parent with
    | some (p, _, _) => some (.inl p)
    | none => g.entry.map fun i => .inr (g.home, i)

/-- A copy would pass the largest holder or child count (R156): the register code of the first such source. `opens` lists
the sources of the copies; those that one entry or one parent counts are counted together. -/
def State.copyFull? (s : State) (mask : List (Nat × Nat)) (opens : List Nat) : Option Nat :=
  (mask.find? fun m =>
    let k := (opens.filter fun o => s.counter o == s.counter m.2).length
    match s.grant? m.2 with
    | none => false
    | some g => match g.parent with
      | some (p, _, _) => decide (65535 < ((s.grant? p).map (·.children)).getD 0 + k)
      | none => match g.entry with
        | some i => decide (2 ^ 20 - 1 < ((s.entry? g.home i).map (·.count)).getD 0 + k)
        | none => false).map (·.1)

/-! The end of a wave -/

/-- The returns of an ended owner's registers begin, in ascending order (R155). -/
def State.dispose (s : State) (grp : Bool) (owner : Nat) (codes : List Nat) : State :=
  codes.foldl (fun s c =>
    match s.reg? { grp := grp, owner := owner, code := c } with
    | none => s
    | some g => s.beginReturn g.gid) s

/-- A RUNNING group with no wave left and no bin enters EXITING (R315): its q registers are disposed of (R155) and
its sampler stops (R366). -/
def State.lastWave (s : State) (gu : Nat) : State :=
  match s.group? gu with
  | none => s
  | some g =>
    if g.st == .running && (s.waves.all fun w => w.group != gu || w.st == .ended) && (s.bins.all fun b => b.group != gu) then
      let s := s.setGroup { g with st := .exiting }
      let off_ (c : Core) : Core := if c.sampler.owner == some gu then { c with sampler := { c.sampler with on := false } } else c
      ({ s with cores := s.cores.map off_ } : State).dispose true gu ((List.range 8).map (· + 16))
    else s

/-- A wave's last LIVE or WAITING fibre has ended (Table 4.2, R155). -/
def State.endWave (s : State) (w : Wave) : State × Wave :=
  let w := { w with st := .ended, parts := [], hold := .none }
  (((s.setWave w).dispose false w.uid (List.range 16)).lastWave w.group, w)

/-- Whether an ended wave frees its slot: no outstanding load but requests of a PREF, no matrix operation that it signed or issued, no unit
operation or search of its own (R82). -/
def State.slotFree (s : State) (w : Wave) : Bool :=
  w.st == .ended && w.slotHeld && w.loads.all (·.pref) &&
  (s.cores.all fun c =>
    (c.matQ.all fun m => m.wave != w.uid && match m.kind with
      | .mma sg _ _ _ _ _ _ _ _ => sg.all (·.wave != w.uid)
      | _ => true) &&
    (c.unitQ.all (·.wave != w.uid))) &&
  (s.dies.all fun d => d.searches.all (·.wave != w.uid)) &&
  (match s.group? w.group with
   | some g => g.cvs.all fun c => c.signed.all (·.wave != w.uid)
   | none => true)

end Sys2Proof.Machine
end

