-- ==== Sys2Proof/Machine/Control.lean ====
section
/-! DEFINITION. The control and fibre instructions, class 0 (R84 to R96). -/

namespace Sys2Proof.Machine

open Sys2Proof

/-- %tinfo of a lane's address or offset (R86, R182, Table 7.4): register code, lane, size exponent, low 48 bits. -/
def laneInfo (code lane size addr : Nat) : Word := wd (code + 32 * lane + 1024 * size + 65536 * (addr % 2 ^ 48))

/-- The positions to which a word moves the lanes of its partition, lowest lane first (R75). -/
def splitLanes (p : Part) (tgt : Nat → Word) : List Part :=
  (lanesOf p.lanes).foldl (fun l i =>
    let pc := tgt i
    let bit : BitVec 32 := 1 <<< i
    if l.any (·.pc == pc) then l.map fun q => if q.pc == pc then { q with lanes := q.lanes ||| bit } else q
    else l ++ [{ p with lanes := bit, pc := pc }]) []

/-- The label of a branch: PC + 8 × sext(off) (R55). -/
def label (pc : Word) (off_ : BitVec 27) : Word := pc + 8 * off_.signExtend 64

/-- Active lanes move, the others go on to the next word (R86). -/
def Iss.branch (x : Iss) (act : List Nat) (tgt : Nat → Word) : Move :=
  .to (splitLanes x.p fun l => if act.contains l then tgt l else x.p.pc + 8) false

/-- The lowest active lane whose target is not a multiple of 8, as %tinfo of MISALIGNED (R86). -/
def badTarget? (act : List Nat) (tgt : Nat → Word) : Option Word :=
  (act.find? fun l => (tgt l).toNat % 8 != 0).map fun l => laneInfo 31 l 0 (tgt l).toNat

/-- The link register of CALL and CALLX: the next word's address in each active lane, a variable-latency result
(R63, R86). -/
def Iss.link (x : Iss) (d : VCode) (act : List Nat) : State × Wave :=
  let slot := x.frame.vslot d.toNat
  Iss.vlate x.s { x.w with win := act.foldl (fun m l => wset m (slot + l) (x.p.pc + 8)) x.w.win }
    ((x.frame.locs? (.v d.toNat 1)).getD [])

/-- NOP: nothing beyond its stall count (R96). -/
def execNop (h : Hd) (s : State) : Out :=
  execWord (.nop h) h .scalar s fun x _ => .done x.s x.w .next

/-- BRA: each active lane moves to the label (R86). -/
def execBra (h : Hd) (off_ : BitVec 27) (s : State) : Out :=
  execWord (.bra h off_) h .scalar s fun x act =>
    .done x.s x.w (x.branch act fun _ => label x.p.pc off_)

/-- BRC: each active lane whose register is not 0 moves to the label (R86). -/
def execBrc (h : Hd) (d : VCode) (off_ : BitVec 27) (s : State) : Out :=
  execWord (.brc h d off_) h .vector s fun x act =>
    .done x.s x.w (x.branch act fun l => if x.v d l != 0 then label x.p.pc off_ else x.p.pc + 8)

/-- A move to register targets, all checked before any lane moves (R86). -/
def Iss.branchReg (x : Iss) (a : VCode) (act : List Nat) (s : State) (w : Wave) : Eff :=
  match badTarget? act (x.v a) with
  | some info => .trap MISALIGNED info
  | none => .done s w (x.branch act (x.v a))

/-- BRX: each active lane moves to its register's value (R86). -/
def execBrx (h : Hd) (a : VCode) (s : State) : Out :=
  execWord (.brx h a) h .vector s fun x act => x.branchReg a act x.s x.w

/-- CALL: the link is written, then each active lane moves to the label (R86). -/
def execCall (h : Hd) (d : VCode) (off_ : BitVec 27) (s : State) : Out :=
  execWord (.call h d off_) h .vector s fun x act =>
    let r := x.link d act
    .done r.1 r.2 (x.branch act fun _ => label x.p.pc off_)

/-- CALLX: the target is read before the link is written (R86). -/
def execCallx (h : Hd) (d a : VCode) (s : State) : Out :=
  execWord (.callx h d a) h .vector s fun x act =>
    let r := x.link d act
    x.branchReg a act r.1 r.2

/-- RET: as BRX (R86). -/
def execRet (h : Hd) (a : VCode) (s : State) : Out :=
  execWord (.ret h a) h .vector s fun x act => x.branchReg a act x.s x.w

/-- LOOP: opens a loop level, or skips the loop when the count is 0 (R88). -/
def execLoop (h : Hd) (a : SReg) (off_ : BitVec 18) (s : State) : Out :=
  execWord (.loop h a off_) h .scalar s fun x _ =>
    let n := x.sreg a.toNat
    let end_ := x.p.pc + 8 * off_.setWidth 64
    if x.p.nest.length = 4 then .trap RESERVED_FIELD 53
    else if n = 0 then .done x.s x.w (.to [{ x.p with pc := end_ + 8 }] false)
    else .done x.s x.w (.to [{ x.p with pc := x.p.pc + 8,
                                        nest := { start := x.p.pc + 8, stop := end_, count := n } :: x.p.nest }] false)

/-- ENDL: counts the innermost level down and goes back to its start, or closes it (R88). -/
def execEndl (h : Hd) (s : State) : Out :=
  execWord (.endl h) h .scalar s fun x _ =>
    match x.p.nest with
    | [] => .trap RESERVED_FIELD 53
    | l :: r =>
      if l.count - 1 != 0 then
        .done x.s x.w (.to [{ x.p with pc := l.start, nest := { l with count := l.count - 1 } :: r }] true)
      else .done x.s x.w (.to [{ x.p with pc := x.p.pc + 8, nest := r }] false)

/-- LBRK: leaves the innermost level (R88). -/
def execLbrk (h : Hd) (s : State) : Out :=
  execWord (.lbrk h) h .scalar s fun x _ =>
    match x.p.nest with
    | [] => .trap RESERVED_FIELD 53
    | l :: r => .done x.s x.w (.to [{ x.p with pc := l.stop + 8, nest := r }] false)

/-- SPAWN: each active lane bins one fibre (R89). In determinism mode it traps (R91). It does not issue until its group
has a free slot for each bin of its own that it will launch, and traps when a copy passes the largest count (R156). -/
def execSpawn (h : Hd) (d a : VCode) (b : SReg) (s : State) : Out :=
  execWord (.spawn h d a b) h .vector s fun x act =>
    let mask := x.s.binMask x.w.uid ((x.sreg b.toNat).toNat % 2 ^ 16)
    let fs := act.map fun l => (x.v d l, { a0 := x.vreg a.toNat l, a1 := x.vreg (a.toNat + 1) l,
                                           a2 := x.vreg (a.toNat + 2) l, a3 := x.vreg (a.toNat + 3) l : Fibre })
    if x.det then .trap ILLEGAL_OPCODE 0x010
    else match badTarget? act (x.v d) with
      | some info => .trap MISALIGNED info
      | none =>
        let r := x.s.binAll x.g x.w.core mask fs
        if x.s.groupRoom x.g x.k.win < r.2.1 then .wait
        else match x.s.copyFull? mask r.2.2 with
          | some code => .trap BRAND_FULL (wd (16 * code))
          | none => .done r.1 x.w .next

/-- The partitions after the issuing one has lost lanes or begun to wait. Its turn goes on if it may still run;
otherwise the turn passes, to a partition that may run among all that are left. FBARs are tested after that, so that a partition which a release forms is current at the next
turn change, unless no other may run (R79, R92, R94). -/
def Iss.settle (x : Iss) (cur : Option Part) : Wave :=
  let ps := releaseFbars ((cur.toList ++ x.ps).foldl insPart [])
  let next : List Part := match cur with
    | some p => if p.fbar.isNone then [p] else nextTurn x.p.low (x.ps.foldl insPart [])
    | none => nextTurn x.p.low (x.ps.foldl insPart [])
  let stays := (cur.map (·.fbar.isNone)).getD false
  let parts := match next with
    | q :: _ => if stays || canRun ps q then q :: ps.filter (fun r => r.lanes != q.lanes) else nextTurn x.p.low ps
    | [] => nextTurn x.p.low ps
  { x.w with parts := parts,
             turn := if stays || parts.any (·.saved.isSome) then x.w.turn else x.clk + 256 }

/-- END: the fibres of the active lanes end; with none left, the wave ends (R92). -/
def execEndFibre (h : Hd) (s : State) : Out :=
  execWord (.endFibre h) h .scalar s fun x act =>
    let gone : BitVec 32 := act.foldl (fun m l => m ||| (1 <<< l)) 0
    let left := x.p.lanes &&& ~~~gone
    if left = 0 && x.ps.isEmpty then
      let r := x.s.endWave x.w
      .done r.1 r.2 (.exact [])
    else if left = 0 then
      let w := x.settle none
      .done x.s w (.exact w.parts)
    else
      let m := mergePart { x.p with lanes := left, pc := x.p.pc + 8 } x.ps
      let w := ({ x with ps := m.2 } : Iss).settle (some m.1)
      .done x.s w (.exact w.parts)

/-- YIELD: the turn passes (R93). -/
def execYield (h : Hd) (s : State) : Out :=
  execWord (.yield h) h .scalar s fun x _ =>
    let w := ({ x.w with parts := mergeAll [{ x.p with pc := x.p.pc + 8 }] x.ps } : Wave).passTurn x.clk
    .done x.s w (.exact w.parts)

/-- SLEEP: the wave sleeps; a SLEEP of 0 acts as a NOP (R93). -/
def execSleep (h : Hd) (n : BitVec 18) (s : State) : Out :=
  execWord (.sleep h n) h .scalar s fun x _ =>
    if n = 0 then .done x.s x.w .next
    else .done x.s { x.w with st := .sleeping, sleepEnd := x.clk + h.sc.toNat + 1 + n.toNat } .next

/-- FBAR: the partition waits, the turn passes, and the barrier is tested (R94). -/
def execFbar (h : Hd) (a : SReg) (s : State) : Out :=
  execWord (.fbar h a) h .scalar s fun x _ =>
    let w := x.settle (some { x.p with fbar := some ((x.sreg a.toNat).setWidth 32) })
    .done x.s w (.exact w.parts)

/-- ICINV: the core's instruction cache is emptied; fetch waits for the discard (R95; assumption 15). -/
def execIcinv (h : Hd) (s : State) : Out :=
  execWord (.icinv h) h .scalar s fun x _ =>
    let n := x.core.icache.length
    .done (x.s.setCore x.coreIx { x.core with icache := [], fetchAt := x.clk + max 1 (cdiv n 16) }) x.w .next

end Sys2Proof.Machine
end

