-- ==== Sys2Proof/Machine/IntOps.lean ====
section
/-! DEFINITION. The integer operations of Table 5.5 on one sub-element of width `w`: operands and results are numbers
below 2^w, exact arithmetic is done on Int and Nat, and the result narrows once at the end (R32, R106, R107). -/

namespace Sys2Proof.Machine

open Sys2Proof

/-- Result, C and V of an operation on one sub-element. -/
structure IRes where
  r : Nat
  c : Bool
  v : Bool
deriving DecidableEq, Repr

/-- The type is signed (Table 3.3). -/
def isSigned : IType → Bool
  | .i8 | .i16 | .i32 | .i64 => true
  | _ => false

/-- A `w`-bit value read as two's complement. -/
def sInt (w a : Nat) : Int := if 2 ^ (w - 1) ≤ a then (a : Int) - 2 ^ w else a
/-- A `w`-bit value read by signedness. -/
def tInt (w : Nat) (sg : Bool) (a : Nat) : Int := if sg then sInt w a else a
/-- The low `w` bits of an exact result. -/
def wrap (w : Nat) (x : Int) : Nat := (x % 2 ^ w).toNat
/-- An exact result lies outside the signed range. -/
def sOut (w : Nat) (x : Int) : Bool := decide (x < -(2 ^ (w - 1))) || decide (2 ^ (w - 1) ≤ x)

/-- ADD and ADDC. -/
def iAdd (w a b cin : Nat) : IRes :=
  { r := (a + b + cin) % 2 ^ w, c := decide (2 ^ w ≤ a + b + cin), v := sOut w (sInt w a + sInt w b + cin) }
/-- SUB, SUBB and CMP; `bin` is the borrow in. -/
def iSub (w a b bin : Nat) : IRes :=
  { r := wrap w ((a : Int) - b - bin), c := decide (b + bin ≤ a), v := sOut w (sInt w a - sInt w b - bin) }
/-- MUL, and MAD with its addend. -/
def iMad (w : Nat) (sg : Bool) (a b c : Nat) : IRes :=
  let x := tInt w sg a * tInt w sg b + tInt w sg c
  { r := wrap w x, c := !sg && decide (2 ^ w ≤ x), v := sg && sOut w x }
/-- MULH: the high half of the exact product. -/
def iMulh (w : Nat) (sg : Bool) (a b : Nat) : IRes :=
  { r := wrap w ((tInt w sg a * tInt w sg b) / 2 ^ w), c := false, v := false }
/-- The cases of Table 2.1. -/
def divEdge (w : Nat) (sg : Bool) (a b : Nat) : Bool :=
  b == 0 || (sg && a == 2 ^ (w - 1) && b == 2 ^ w - 1)
/-- DIV (R33). -/
def iDiv (w : Nat) (sg : Bool) (a b : Nat) : IRes :=
  { r := if b = 0 then 2 ^ w - 1
         else if divEdge w sg a b then 2 ^ (w - 1)
         else wrap w ((tInt w sg a).tdiv (tInt w sg b)),
    c := false, v := divEdge w sg a b }
/-- REM (R33). -/
def iRem (w : Nat) (sg : Bool) (a b : Nat) : IRes :=
  { r := if b = 0 then a
         else if divEdge w sg a b then 0
         else wrap w ((tInt w sg a).tmod (tInt w sg b)),
    c := false, v := divEdge w sg a b }
/-- A result without C and V. -/
def plain (r : Nat) : IRes := { r := r, c := false, v := false }
/-- MIN. -/
def iMin (w : Nat) (sg : Bool) (a b : Nat) : Nat := if tInt w sg b < tInt w sg a then b else a
/-- MAX. -/
def iMax (w : Nat) (sg : Bool) (a b : Nat) : Nat := if tInt w sg a < tInt w sg b then b else a
/-- ABS. -/
def iAbs (w : Nat) (sg : Bool) (a : Nat) : IRes :=
  { r := if sg then wrap w ((sInt w a).natAbs : Int) else a, c := false, v := sg && a == 2 ^ (w - 1) }
/-- NEG. -/
def iNeg (w a : Nat) : IRes := { r := wrap w (-(a : Int)), c := a == 0, v := a == 2 ^ (w - 1) }
/-- NOT. -/
def iNot (w a : Nat) : Nat := 2 ^ w - 1 - a
/-- ANDN. -/
def iAndn (w a b : Nat) : Nat := a &&& iNot w b
/-- Bit `i` of a number. -/
def bitAt (a i : Nat) : Bool := a / 2 ^ i % 2 == 1
/-- SHL (R108). -/
def iShl (w a n : Nat) : IRes :=
  { r := if w ≤ n then 0 else a * 2 ^ n % 2 ^ w, c := decide (1 ≤ n) && decide (n ≤ w) && bitAt a (w - n), v := false }
/-- SHR (R108). -/
def iShr (w a n : Nat) : IRes :=
  { r := if w ≤ n then 0 else a / 2 ^ n, c := decide (1 ≤ n) && decide (n ≤ w) && bitAt a (n - 1), v := false }
/-- SAR (R108). -/
def iSar (w a n : Nat) : IRes :=
  { r := wrap w (sInt w a / 2 ^ (min n w)),
    c := if n = 0 then false else if n ≤ w then bitAt a (n - 1) else bitAt a (w - 1), v := false }
/-- ROT: left by n mod w (R108). -/
def iRot (w a n : Nat) : Nat :=
  let k := n % w
  (a * 2 ^ k + a / 2 ^ (w - k)) % 2 ^ w
/-- The 1 bits of a number below 2^w. -/
def popcount (w a : Nat) : Nat := ((List.range w).filter (bitAt a)).length
/-- Leading zero bits; w for 0. -/
def clz (w a : Nat) : Nat := ((List.range w).find? fun i => bitAt a (w - 1 - i)).getD w
/-- Trailing zero bits; w for 0. -/
def ctz (w a : Nat) : Nat := ((List.range w).find? (bitAt a)).getD w
/-- Bit reversal. -/
def brev (w a : Nat) : Nat := ((List.range w).filter fun i => bitAt a (w - 1 - i)).foldl (fun n i => n + 2 ^ i) 0
/-- BFX (R116). -/
def iBfx (sg : Bool) (a b : Nat) : Nat :=
  let p := b % 64
  let l := min (b / 256 % 128) (64 - p)
  let x := a / 2 ^ p % 2 ^ l
  if l = 0 then 0 else if sg then wrap 64 (sInt l x) else x
/-- BFI (R116). -/
def iBfi (d a b : Nat) : Nat :=
  let p := b % 64
  let l := min (b / 256 % 128) (64 - p)
  d - (d / 2 ^ p % 2 ^ l) * 2 ^ p + (a % 2 ^ l) * 2 ^ p
/-- FSHL: the high half of A:B shifted left (R114). -/
def iFshl (a b c : Nat) : Nat := ((a * 2 ^ 64 + b) * 2 ^ (c % 128) % 2 ^ 128) / 2 ^ 64
/-- FSHR: the low half of A:B shifted right (R114). -/
def iFshr (a b c : Nat) : Nat := ((a * 2 ^ 64 + b) / 2 ^ (c % 128)) % 2 ^ 64
/-- BPERM: bytes of B:A selected by nibbles of c (R114). -/
def iBperm (a b c : Nat) : Nat :=
  let t := b * 2 ^ 64 + a
  ((List.range 8).map fun i => (t / 256 ^ (c / 16 ^ i % 16) % 256) * 256 ^ i).sum
/-- TLOG: each bit from the truth table at 4·D + 2·A + B (R112). -/
def iTlog (tt d a b : Nat) : Nat :=
  ((List.range 64).filter fun i => bitAt tt (4 * b2n (bitAt d i) + 2 * b2n (bitAt a i) + b2n (bitAt b i))).foldl
    (fun n i => n + 2 ^ i) 0

/-! Sub-elements (R31, R106) -/

/-- Sub-element `j` of width `w`. -/
def sub (w : Nat) (x : Word) (j : Nat) : Nat := fld x (w * j) w
/-- A lane from its sub-elements. -/
def ofSubs (w : Nat) (f : Nat → Nat) : Word := wd (((List.range (64 / w)).map fun j => f j % 2 ^ w * 2 ^ (w * j)).sum)
/-- Every sub-element computed, with the flags of sub-element 0. -/
def mapSubs (w : Nat) (f : Nat → IRes) : Word × BitVec 4 :=
  let r0 := f 0
  (ofSubs w fun j => (f j).r, intFlags w r0.r r0.c r0.v)
/-- A 15-bit immediate extended with sign and truncated to `w` bits (R109). -/
def immVal (w : Nat) (imm : BitVec 15) : Nat := (imm.signExtend 64).toNat % 2 ^ w

end Sys2Proof.Machine
end

