-- ==== Sys2Proof/Machine/FloatOps.lean ====
section
/-! DEFINITION. Binary floats (R34 to R42): decoding, exact arithmetic on dyadic numbers, one rounding, and the
transcendentals of R123 by fixed-point enclosures. Values are bit patterns as numbers below 2^w. -/

namespace Sys2Proof.Machine

open Sys2Proof

/-! Sticky bits of sf (Table 2.5) -/

/-- INV. -/
def INV : Word := 0x100
/-- OVF. -/
def OVF : Word := 0x200
/-- UNF. -/
def UNF : Word := 0x400
/-- INX. -/
def INX : Word := 0x800
/-- HSAT. -/
def HSAT : Word := 0x1000
/-- QNAN. -/
def QNAN : Word := 0x2000

/-- A result and the sticky bits it raises. -/
structure FRes where
  r : Nat
  st : Word
deriving DecidableEq, Repr

/-- Width of a float type (Table 2.2). -/
def fWidth : FType → Nat
  | .f64 => 64
  | .f32 => 32
  | _ => 16
/-- Fraction bits of a float type (Table 2.2). -/
def fFrac : FType → Nat
  | .f64 => 52
  | .f32 => 23
  | .f16 => 10
  | .bf16 => 7
/-- Exponent bits of a float type (Table 2.2). -/
def fExpBits (f : FType) : Nat := fWidth f - 1 - fFrac f
/-- Exponent bias of a float type (Table 2.2). -/
def fBias (f : FType) : Nat := 2 ^ (fExpBits f - 1) - 1
/-- The bits of +∞. -/
def fInf (f : FType) : Nat := (2 ^ fExpBits f - 1) * 2 ^ fFrac f
/-- The canonical quiet NaN (Table 2.2, R35). -/
def fNan (f : FType) : Nat := fInf f + 2 ^ (fFrac f - 1)
/-- The sign bit in place. -/
def fSign (f : FType) (neg : Bool) : Nat := if neg then 2 ^ (fWidth f - 1) else 0

/-- A decoded float: a NaN, an infinity, or (−1)^neg × m × 2^e. -/
inductive Fv
  | nan (signalling : Bool)
  | inf (neg : Bool)
  | fin (neg : Bool) (m : Nat) (e : Int)
deriving DecidableEq, Repr

/-- The sign bit of a bit pattern. -/
def fNeg (f : FType) (x : Nat) : Bool := bitAt x (fWidth f - 1)
/-- The bit pattern without its sign. -/
def fMag (f : FType) (x : Nat) : Nat := x % 2 ^ (fWidth f - 1)

/-- A bit pattern decoded (R34). -/
def fDecode (f : FType) (x : Nat) : Fv :=
  let neg := fNeg f x
  let be := fMag f x / 2 ^ fFrac f
  let fr := fMag f x % 2 ^ fFrac f
  if be = 2 ^ fExpBits f - 1 then (if fr = 0 then .inf neg else .nan (!bitAt fr (fFrac f - 1)))
  else if be = 0 then .fin neg fr (1 - (fBias f : Int) - fFrac f)
  else .fin neg (fr + 2 ^ fFrac f) ((be : Int) - fBias f - fFrac f)

/-- A draw of the generator for stochastic rounding: the bits u and how many they are (R40). -/
structure Draw where
  u : Nat
  bits : Nat
deriving DecidableEq, Repr

/-- No draw. -/
def Draw.none : Draw := { u := 0, bits := 16 }

/-- The magnitude m × 2^−k rounded to an integer by a mode (R38, R40), and whether it was inexact. -/
def roundShift (rm : Rm) (u : Draw) (neg : Bool) (m k : Nat) : Nat × Bool :=
  let q := m / 2 ^ k
  let rem := m % 2 ^ k
  if rem = 0 then (q, false)
  else
    let up := match rm with
      | .rne => decide (2 ^ k < 2 * rem) || (2 * rem == 2 ^ k && q % 2 == 1)
      | .rz => false
      | .ru => !neg
      | .rd => neg
      | .sr =>
        if neg then !decide (u.u < (2 ^ k - rem) * 2 ^ u.bits / 2 ^ k)
        else decide (u.u < rem * 2 ^ u.bits / 2 ^ k)
    (if up then q + 1 else q, true)

/-- The position of the highest 1 bit of a positive number. -/
def topBit (m : Nat) : Nat := Nat.log2 m

/-- m × 2^k for any integer k that only drops zero bits. -/
def shiftBy (m : Nat) (k : Int) : Nat := if 0 ≤ k then m * 2 ^ k.toNat else m / 2 ^ (-k).toNat

/-- The exact value (−1)^neg × m × 2^e rounded to a float type (R38 to R42). -/
def fRound (f : FType) (rm : Rm) (u : Draw) (neg : Bool) (m : Nat) (e : Int) : FRes :=
  if m = 0 then { r := fSign f neg, st := 0 }
  else
    let fb := fFrac f
    let emin : Int := 1 - fBias f
    let top : Int := topBit m + e
    let q := max (top - fb) (emin - fb)
    let x := if q ≤ e then (m * 2 ^ (e - q).toNat, false) else roundShift rm u neg m (q - e).toNat
    let bits := ((q + fb + fBias f - 1).toNat * 2 ^ fb) + x.1
    let big := match rm with
      | .sr => decide ((fBias f : Int) < top) ||
          (decide (top = fBias f) && x.2 && decide (m / 2 ^ (q - e).toNat = 2 ^ (fb + 1) - 1))
      | _ => decide (fInf f ≤ bits)
    if big then
      let inf := match rm with
        | .rne | .sr => true
        | .rz => false
        | .ru => !neg
        | .rd => neg
      { r := fSign f neg + (if inf then fInf f else fInf f - 1), st := OVF ||| INX }
    else
      let tiny := x.2 && decide (top < emin) &&
        decide (top + (if 2 ^ (fb + 1) ≤ (roundShift rm u neg m (top - fb - e).toNat).1 then 1 else 0) < emin)
      { r := fSign f neg + bits, st := (if x.2 then INX else 0) ||| (if tiny then UNF else 0) }

/-- A NaN operand among operands: the canonical NaN, and INV when one is signalling (R35). -/
def nanOf? (f : FType) (xs : List Fv) : Option FRes :=
  if xs.any fun x => match x with
      | .nan _ => true
      | _ => false
  then some { r := fNan f, st := if xs.any (· == .nan true) then INV else 0 }
  else none

/-- The exact product of two values that are no NaN; none for ∞ × 0 (R37). -/
def fProd (a b : Fv) : Option Fv :=
  match a, b with
  | .fin s m e, .fin t n k => some (.fin (s != t) (m * n) (e + k))
  | .inf s, .inf t => some (.inf (s != t))
  | .inf s, .fin t n _ => if n = 0 then none else some (.inf (s != t))
  | .fin s m _, .inf t => if m = 0 then none else some (.inf (s != t))
  | _, _ => none

/-- An invalid combination in a sum of products and addends, which sets INV whatever the other operands are: ∞ × 0, or
infinities of opposite sign among the terms that are no NaN (R37, R45). -/
def fInvalid (prods : List (Fv × Fv)) (adds : List Fv) : Bool :=
  let zero (x : Fv) : Bool := match x with
    | .fin _ m _ => m == 0
    | _ => false
  let infinite (x : Fv) : Bool := match x with
    | .inf _ => true
    | _ => false
  let terms := prods.filterMap (fun p => fProd p.1 p.2) ++ adds
  (prods.any fun p => infinite p.1 && zero p.2 || zero p.1 && infinite p.2) ||
    terms.contains (.inf false) && terms.contains (.inf true)

/-- A result with INV raised when `b` holds. -/
def FRes.inv (x : FRes) (b : Bool) : FRes := if b then { x with st := x.st ||| INV } else x

/-- The opposite of a value. -/
def fOpp : Fv → Fv
  | .fin s m e => .fin (!s) m e
  | .inf s => .inf (!s)
  | x => x

/-- The smallest exponent of the non-zero finite terms. -/
def minExp (xs : List Fv) : Int :=
  (xs.filterMap fun x => match x with
    | .fin _ m e => if m = 0 then none else some e
    | _ => none).foldl min 5000

/-- The exact sum of finite terms in units of 2^e. -/
def sumAt (e : Int) (xs : List Fv) : Int :=
  xs.foldl (fun a x => match x with
    | .fin s m k => if m = 0 then a else a + (if s then -1 else 1) * (m * 2 ^ (k - e).toNat : Nat)
    | _ => a) 0

/-- The exact sum of terms that are no NaN, rounded once (R37). Infinities of opposite sign are invalid. A sum of zeros
of one sign keeps it; any other zero sum is +0, or −0 under RD (IEEE 754, R34). -/
def fSum (f : FType) (rm : Rm) (u : Draw) (xs : List Fv) : FRes :=
  let pos := xs.any (· == .inf false)
  let ngt := xs.any (· == .inf true)
  if pos && ngt then { r := fNan f, st := INV }
  else if pos then { r := fInf f, st := 0 }
  else if ngt then { r := fSign f true + fInf f, st := 0 }
  else
    let e := minExp xs
    let s := sumAt e xs
    if s = 0 then
      let neg (x : Fv) : Bool := match x with
        | .fin n _ _ => n
        | _ => false
      let zeros := xs.all fun x => match x with
        | .fin _ m _ => m == 0
        | _ => false
      let sign := if zeros && xs.all neg then true else if zeros && xs.all (fun x => !neg x) then false else rm == .rd
      { r := fSign f sign, st := 0 }
    else fRound f rm u (decide (s < 0)) s.natAbs e

/-- a + b (R120). -/
def fAdd (f : FType) (rm : Rm) (a b : Nat) : FRes :=
  let x := fDecode f a
  let y := fDecode f b
  (nanOf? f [x, y]).getD (fSum f rm .none [x, y])
/-- a − b (R120). -/
def fSub (f : FType) (rm : Rm) (a b : Nat) : FRes :=
  let x := fDecode f a
  let y := fDecode f b
  (nanOf? f [x, y]).getD (fSum f rm .none [x, fOpp y])
/-- a × b (R120). -/
def fMul (f : FType) (rm : Rm) (a b : Nat) : FRes :=
  let x := fDecode f a
  let y := fDecode f b
  (nanOf? f [x, y]).getD (match fProd x y with
    | none => { r := fNan f, st := INV }
    | some p => fSum f rm .none [p])
/-- a × b + c (R37). -/
def fFma (f : FType) (rm : Rm) (a b c : Nat) : FRes :=
  let x := fDecode f a
  let y := fDecode f b
  let z := fDecode f c
  match nanOf? f [x, y, z] with
  | some n => n.inv (fInvalid [(x, y)] [z])
  | none => match fProd x y with
    | none => { r := fNan f, st := INV }
    | some p => fSum f rm .none [p, z]
/-- a0 × b0 + a1 × b1 + c to .f32 (R37, R120). -/
def fDot2 (g : FType) (rm : Rm) (a0 b0 a1 b1 c : Nat) : FRes :=
  let x0 := fDecode g a0
  let y0 := fDecode g b0
  let x1 := fDecode g a1
  let y1 := fDecode g b1
  let z := fDecode .f32 c
  match nanOf? .f32 [x0, y0, x1, y1, z] with
  | some n => n.inv (fInvalid [(x0, y0), (x1, y1)] [z])
  | none => match fProd x0 y0, fProd x1 y1 with
    | some p, some q => fSum .f32 rm .none [p, q, z]
    | _, _ => { r := fNan .f32, st := INV }

/-- A bit pattern that is no NaN as a number in the order of R36, −0 below +0. -/
def fOrd (f : FType) (x : Nat) : Int := if fNeg f x then -(fMag f x : Int) - 1 else fMag f x

/-- A NaN. -/
def isNan (f : FType) (x : Nat) : Bool :=
  match fDecode f x with
  | .nan _ => true
  | _ => false

/-- FMIN and FMAX (R36). -/
def fMinMax (f : FType) (isMax : Bool) (a b : Nat) : FRes :=
  let st := if fDecode f a == .nan true || fDecode f b == .nan true then INV else 0
  if isNan f a && isNan f b then { r := fNan f, st := st }
  else if isNan f a then { r := b, st := st }
  else if isNan f b then { r := a, st := st }
  else
    let less := decide (fOrd f b < fOrd f a)
    { r := if less == isMax then a else b, st := st }

/-- FABS and FNEG (Table 6.2). -/
def fSigned (f : FType) (flip_ : Bool) (a : Nat) : FRes :=
  (nanOf? f [fDecode f a]).getD
    { r := fMag f a + fSign f (flip_ && !fNeg f a), st := 0 }

/-- FSCALE: a × 2^n. An exponent beyond ±5000 gives what ±5000 gives (R120). -/
def fScale (f : FType) (rm : Rm) (a : Nat) (n : Int) : FRes :=
  (nanOf? f [fDecode f a]).getD (match fDecode f a with
    | .fin s m e => fRound f rm .none s m (e + max (-5000) (min 5000 n))
    | _ => { r := a, st := 0 })

/-- FRINT (R120). -/
def fRint (f : FType) (rm : Rm) (a : Nat) : FRes :=
  (nanOf? f [fDecode f a]).getD (match fDecode f a with
    | .fin s m e =>
      if m = 0 || 0 ≤ e then { r := a, st := 0 }
      else { r := (fRound f .rne .none s (roundShift rm .none s m (-e).toNat).1 0).r, st := 0 }
    | _ => { r := a, st := 0 })

/-- The flags of FCMP (Table 6.3). -/
def fCmp (f : FType) (a b : Nat) : BitVec 4 × Word :=
  if isNan f a || isNan f b then
    (mkFlags false false false true, if fDecode f a == .nan true || fDecode f b == .nan true then INV else 0)
  else
    let key (x : Nat) : Int := if fNeg f x then -(fMag f x : Int) else fMag f x
    if key a < key b then (mkFlags true false true false, 0)
    else if key a = key b then (mkFlags false true true false, 0)
    else (mkFlags false false false false, 0)

/-- The bit that FCLASS sets (R122). -/
def fClass (f : FType) (a : Nat) : Nat :=
  let normal := decide (2 ^ fFrac f ≤ fMag f a)
  match fDecode f a with
  | .nan true => 8
  | .nan false => 9
  | .inf true => 0
  | .inf false => 7
  | .fin neg m _ =>
    if m = 0 then (if neg then 3 else 4)
    else if neg then (if normal then 1 else 2)
    else if normal then 6 else 5

/-- The float flags of a result (R119). -/
def fFlags (f : FType) (r : Nat) : BitVec 4 := mkFlags (fNeg f r) (fMag f r == 0) false (isNan f r)

/-- The bits of 1. -/
def fOne (f : FType) : Nat := fBias f * 2 ^ fFrac f

/-- FRCP: 1/a, correctly rounded (R123, Table 6.5). -/
def fRcp (f : FType) (rm : Rm) (a : Nat) : FRes :=
  (nanOf? f [fDecode f a]).getD (match fDecode f a with
    | .inf s => { r := fSign f s, st := 0 }
    | .fin s m e =>
      if m = 0 then { r := fSign f s + fInf f, st := 0 }
      else
        let k := topBit m + fFrac f + 4
        let q := 2 ^ k / m
        fRound f rm .none s (2 * q + (if q * m = 2 ^ k then 0 else 1)) (-e - k - 1)
    | .nan _ => { r := fNan f, st := 0 })

/-- The integer square root. -/
def isqrt (n : Nat) : Nat :=
  ((List.range (topBit n / 2 + 1)).reverse).foldl (fun r i => if (r + 2 ^ i) * (r + 2 ^ i) ≤ n then r + 2 ^ i else r) 0

/-- FSQRT, correctly rounded (R123, Table 6.5). -/
def fSqrt (f : FType) (rm : Rm) (a : Nat) : FRes :=
  (nanOf? f [fDecode f a]).getD (match fDecode f a with
    | .inf s => if s then { r := fNan f, st := INV } else { r := a, st := 0 }
    | .fin s m e =>
      if m = 0 then { r := a, st := 0 }
      else if s then { r := fNan f, st := INV }
      else
        let odd := e % 2 ≠ 0
        let m := (if odd then 2 * m else m) * 4 ^ (fFrac f + 4)
        let e := (if odd then e - 1 else e) - 2 * (fFrac f + 4)
        let q := isqrt m
        fRound f rm .none false (2 * q + (if q * q = m then 0 else 1)) (e / 2 - 1)
    | .nan _ => { r := fNan f, st := 0 })

/-! Transcendentals (R123)

Fixed-point numbers carry `prec` fraction bits. Each function gives a number within `slack` of the exact value; the
result is decided when both ends of that enclosure round alike. The exact value is irrational in every case that
reaches the enclosure, so it lies strictly inside. -/

/-- Fraction bits of the fixed-point numbers. -/
def prec : Nat := 440
/-- The width of an enclosure to each side, in units of 2^−prec. -/
def slack : Nat := 2 ^ 16
/-- 1 in fixed point. -/
def fxOne : Nat := 2 ^ prec

/-- Σ sign^k / ((2k+1) n^(2k+1)): the series of atanh (`alt` false) or atan (`alt` true) of 1/n. -/
def invSeries (alt : Bool) (n : Nat) : Int :=
  ((List.range 300).foldl (fun (a : Int × Nat) k =>
    (a.1 + (if alt && k % 2 = 1 then -1 else 1) * ((a.2 / (2 * k + 1) : Nat) : Int), a.2 / (n * n))) (0, fxOne / n)).1
/-- ln 2. -/
def fxLn2 : Nat := 2 * (invSeries false 3).toNat
/-- π, by Machin's formula. -/
def fxPi : Nat := (16 * invSeries true 5 - 4 * invSeries true 239).toNat
/-- exp of t in [0, 1): its Taylor series. -/
def fxExp (t : Nat) : Nat :=
  ((List.range 110).foldl (fun (a : Nat × Nat) k => (a.1 + a.2, a.2 * t / fxOne / (k + 1))) (0, fxOne)).1
/-- sin of t in [0, 2): its Taylor series. -/
def fxSin (t : Nat) : Nat :=
  ((List.range 70).foldl (fun (a : Int × Nat) k =>
    (a.1 + (if k % 2 = 1 then -1 else 1) * (a.2 : Int),
     a.2 * t / fxOne * t / fxOne / ((2 * k + 2) * (2 * k + 3)))) (0, t)).1.toNat
/-- ln of y in [1, 2]: 2 atanh((y − 1)/(y + 1)). -/
def fxLn (y : Nat) : Nat :=
  let z := (y - fxOne) * fxOne / (y + fxOne)
  2 * ((List.range 150).foldl (fun (a : Nat × Nat) k =>
    (a.1 + a.2 / (2 * k + 1), a.2 * z / fxOne * z / fxOne)) (0, z)).1

/-- A value within `slack` of c × 2^(e − prec), rounded: to nearest for .f16 and .bf16; for .f32 one of the bracketing
values, which one is a free value (R123). `op` numbers the operation. -/
def fEnclosed (f : FType) (op a : Nat) (neg : Bool) (lo_ hi_ : Nat) (e : Int) : FRes :=
  let mid (rm : Rm) (x : Nat) : FRes := fRound f rm .none neg (2 * x + 1) (e - 1)
  let decide_ (rm : Rm) : FRes :=
    let x := mid rm lo_
    let y := mid rm (hi_ - 1)
    if x.r = y.r then x else if Config.undecided op a then x else y
  match f with
  | .f32 =>
    let t := (decide_ .rz).r
    let r := if Config.f32Pick op (BitVec.ofNat 32 a) then t + 1 else t
    { r := r, st := INX ||| (if fMag f r < 2 ^ fFrac f then UNF else 0) ||| (if fMag f r = fInf f then OVF else 0) }
  | _ =>
    let x := decide_ .rne
    { x with st := x.st ||| INX }

/-- 1/√a with one result bit pattern of `FRSQ`. The root is tested for exactness. -/
def fRsq (f : FType) (a : Nat) : FRes :=
  (nanOf? f [fDecode f a]).getD (match fDecode f a with
    | .inf s => if s then { r := fNan f, st := INV } else { r := 0, st := 0 }
    | .fin s m e =>
      if m = 0 then { r := fSign f s + fInf f, st := 0 }
      else if s then { r := fNan f, st := INV }
      else
        let odd := e % 2 ≠ 0
        let m := if odd then 2 * m else m
        let e := if odd then e - 1 else e
        let q := isqrt (2 ^ (2 * prec) / m)
        if q * q * m = 2 ^ (2 * prec) then fRound f .rne .none false q (-e / 2 - prec)
        else fEnclosed f 0 a false q (q + 1) (-e / 2 - prec)
    | .nan _ => { r := fNan f, st := 0 })

/-- An integer as a float. -/
def fOfInt (f : FType) (rm : Rm) (u : Draw) (n : Int) : FRes := fRound f rm u (decide (n < 0)) n.natAbs 0

/-- FEXP2: 2^a (R123, Table 6.5). A power above the largest finite value is bracketed by that value and +∞, one below the
smallest subnormal by 0 and that subnormal: in .f32 the choice between them is free like every other (assumption 9). -/
def fExp2 (f : FType) (a : Nat) : FRes :=
  (nanOf? f [fDecode f a]).getD (match fDecode f a with
    | .inf s => { r := if s then 0 else fInf f, st := 0 }
    | .fin s m e =>
      if m = 0 then { r := fOne f, st := 0 }
      else
        let whole := decide (0 ≤ e) || decide (m % 2 ^ (-e).toNat = 0)
        if whole then
          let n : Int := if 11 ≤ topBit m + e then 3000 else shiftBy m e
          fRound f .rne .none false 1 (if s then -n else n)
        else
          let x : Int := (if s then -1 else 1) * (m * 2 ^ ((prec : Int) + e).toNat : Nat)
          let n := x / fxOne
          let c := fxExp ((x % fxOne).toNat * fxLn2 / fxOne)
          if (fBias f : Int) < n then
            { r := fInf f - (if f == .f32 && !Config.f32Pick 1 (BitVec.ofNat 32 a) then 1 else 0), st := OVF ||| INX }
          else fEnclosed f 1 a false (c - slack) (c + slack) (max n (-400) - prec)
    | .nan _ => { r := fNan f, st := 0 })

/-- FLOG2: log2 a (R123, Table 6.5). -/
def fLog2 (f : FType) (a : Nat) : FRes :=
  (nanOf? f [fDecode f a]).getD (match fDecode f a with
    | .inf s => if s then { r := fNan f, st := INV } else { r := fInf f, st := 0 }
    | .fin s m e =>
      if m = 0 then { r := fSign f true + fInf f, st := 0 }
      else if s then { r := fNan f, st := INV }
      else
        let n : Int := topBit m + e
        if m = 2 ^ topBit m then fOfInt f .rne .none n
        else
          let c := fxLn (m * 2 ^ (prec - topBit m)) * fxOne / fxLn2
          let v : Int := n * fxOne + c
          fEnclosed f 2 a (decide (v < 0)) (v.natAbs - slack) (v.natAbs + slack) (-(prec : Int))
    | .nan _ => { r := fNan f, st := 0 })

/-- sin(π r) for r = k/2^j in (0, 1/2), in fixed point. -/
def fxSinPi (r : Nat) : Nat := fxSin (r * fxPi / fxOne)

/-- FSIN and FCOS: sin(π a) and cos(π a) (R123, Table 6.5). The angle is reduced exactly to r in [0, 2). -/
def fSinCos (f : FType) (isCos : Bool) (a : Nat) : FRes :=
  (nanOf? f [fDecode f a]).getD (match fDecode f a with
    | .inf _ => { r := fNan f, st := INV }
    | .fin s m e =>
      if m = 0 then { r := if isCos then fOne f else a, st := 0 }
      else
        let r := if 1 ≤ e then 0 else (m % 2 ^ (1 - e).toNat) * 2 ^ ((prec : Int) + e).toNat
        let neg := s && !isCos
        let t := if isCos then (r + fxOne / 2) % (2 * fxOne) else r
        if r % (fxOne / 2) = 0 then
          if t % fxOne = 0 then { r := fSign f neg, st := 0 }
          else { r := fSign f (neg != decide (fxOne < t)) + fOne f, st := 0 }
        else
          let h := t % fxOne
          let c := fxSinPi (if fxOne < 2 * h then fxOne - h else h)
          fEnclosed f (if isCos then 4 else 3) a (neg != decide (fxOne < t)) (c - slack) (c + slack) (-(prec : Int))
    | .nan _ => { r := fNan f, st := 0 })

/-- FTANH: tanh a (R123, Table 6.5). Below 2^−12 the value lies between a − a·2^−25 and a; above 64 just below 1. -/
def fTanh (f : FType) (a : Nat) : FRes :=
  (nanOf? f [fDecode f a]).getD (match fDecode f a with
    | .inf s => { r := fSign f s + fOne f, st := 0 }
    | .fin s m e =>
      if m = 0 then { r := a, st := 0 }
      else if topBit m + e < -12 then fEnclosed f 5 a s (m * 2 ^ 25 - m) (m * 2 ^ 25) (e - 25)
      else if 6 ≤ topBit m + e then fEnclosed f 5 a s (2 ^ 90 - 1) (2 ^ 90) (-90)
      else
        let t := m * 2 ^ ((prec : Int) + e - 7).toNat
        let u := (List.range 8).foldl (fun x _ => x * x / fxOne) (fxOne * fxOne / fxExp t)
        let c := (fxOne - u) * fxOne / (fxOne + u)
        fEnclosed f 5 a s (c - slack) (c + slack) (-(prec : Int))
    | .nan _ => { r := fNan f, st := 0 })

/-! Conversions (R41, R129) -/

/-- A float converted to a float type. -/
def fConvert (src dst : FType) (rm : Rm) (u : Draw) (a : Nat) : FRes :=
  match fDecode src a with
  | .nan sg => { r := fNan dst, st := if sg then INV else 0 }
  | .inf s => { r := fSign dst s + fInf dst, st := 0 }
  | .fin s m e => fRound dst rm u s m e

/-- A float converted to an integer of width `w` (Table 2.4). -/
def fToInt (src : FType) (w : Nat) (sg : Bool) (rm : Rm) (a : Nat) : FRes :=
  let least : Int := if sg then -(2 ^ (w - 1)) else 0
  let most : Int := if sg then 2 ^ (w - 1) - 1 else 2 ^ w - 1
  match fDecode src a with
  | .nan _ => { r := 0, st := INV ||| QNAN }
  | .inf s => { r := wrap w (if s then least else most), st := INV }
  | .fin s m e =>
    let x := if 0 ≤ e then (m * 2 ^ (min e 5000).toNat, false) else roundShift rm .none s m (-e).toNat
    let v : Int := if s then -(x.1 : Int) else x.1
    if v < least then { r := wrap w least, st := INV }
    else if most < v then { r := wrap w most, st := INV }
    else { r := wrap w v, st := if x.2 then INX else 0 }

end Sys2Proof.Machine
end

