-- ==== Sys2Proof/Machine/Routes.lean ====
section
/-! DEFINITION. Routes (R15, R16, R337 to R339): usable links, shortest mesh paths, which homes a die reaches, and the
paths of girth packets. -/

namespace Sys2Proof.Machine

open Sys2Proof

/-- The clk that the timers of links and of the fabric count: maintenance slots do not count (R336, R350). -/
def linkTime (clk : Nat) : Nat := clk / 65536 * 63488 + (clk % 65536 - 2048)

/-- The two dies of mesh link n (Table 19.1). -/
def meshEnds : List (Nat × Nat) := [(0, 1), (1, 2), (2, 3), (4, 5), (5, 6), (6, 7), (0, 4), (1, 5), (2, 6), (3, 7)]

/-- A link carries new traffic (R334); with `train`, a TRAINING link counts too (R338). -/
def Link.carries (l : Link) (train : Bool) : Bool := l.st == 2 || l.st == 3 || (train && l.st == 1)

/-- Two dies are joined by a mesh link that carries traffic. -/
def State.meshJoin (s : State) (train : Bool) (a b : Nat) : Bool :=
  (meshEnds.zipIdx).any fun e =>
    ((e.1.1 == a && e.1.2 == b) || (e.1.1 == b && e.1.2 == a)) && (s.link e.2).carries train

/-- The dies within `n` mesh hops of a die. -/
def State.within (s : State) (train : Bool) (a : Nat) : Nat → List Nat
  | 0 => [a]
  | n + 1 =>
    let r := s.within train a n
    (List.range 8).filter fun d => r.contains d || r.any fun x => s.meshJoin train x d

/-- Mesh hops between two compute dies; none without a path. -/
def State.hops? (s : State) (train : Bool) (a b : Nat) : Option Nat :=
  (List.range 8).find? fun n => (s.within train a n).contains b

/-- A die reaches the saddle die: over its own saddle link, or across the mesh to a die whose saddle link carries
traffic (R337). -/
def State.saddleJoin (s : State) (train : Bool) (a : Nat) : Bool :=
  (s.within train a 7).any fun d => (s.link (16 + d)).carries train

/-- Whether traffic to a destination goes, waits for a link that trains, or fails with a reason of Table 19.4. -/
inductive Reach | ok | waits | fail (reason : Nat)
deriving DecidableEq, Repr

/-- A compute die takes no traffic: in reset, isolated or retired (Table 19.4, reason 2). -/
def State.dieGone (s : State) (d : Nat) : Bool :=
  let x := s.die d
  x.inReset || x.retired || x.resetting == .reset || !s.saddleJoin true d

/-- Fabric table entry of an endpoint (Table 19.6). -/
def State.epEntry (s : State) (e : Nat) : Word := if e < 8192 then wget s.fabric e else 0
/-- The endpoint is in the fabric table (R343). -/
def State.epValid (s : State) (e : Nat) : Bool := (s.epEntry e).getLsbD 0
/-- Selective acknowledgement (R346). -/
def State.epSelective (s : State) (e : Nat) : Bool := (s.epEntry e).getLsbD 1
/-- The ports of an endpoint's set that carry traffic, ascending. -/
def State.epPorts (s : State) (train : Bool) (e : Nat) : List Nat :=
  (List.range 16).filter fun p => (s.epEntry e).getLsbD (16 + p) && (s.link (32 + p)).carries train
/-- The girth lanes of a port are in use, on a die that is not lost (R16); with `train`, those that train count too. -/
def State.portGirth (s : State) (train : Bool) (p : Nat) : Bool :=
  (s.link (32 + p)).carries train && !s.dieGone (p / 2) && ((s.link (32 + p)).width != 0 || (s.link (32 + p)).st == 1)
/-- The ports that girth traffic to an endpoint may take: the lowest usable one, or every usable one (R345). -/
def State.girthPorts (s : State) (e : Nat) : List Nat :=
  let ps := (s.epPorts false e).filter (s.portGirth false)
  if s.epSelective e then ps else ps.take 1

/-- Hops between the saddle die and a compute die: across the mesh from the nearest die with a usable saddle link (R15). -/
def State.saddleHops? (s : State) (train : Bool) (d : Nat) : Option Nat :=
  (List.range 8).find? fun n => (s.within train d n).any fun x => (s.link (16 + x)).carries train

/-- A die, or the saddle die, is joined to a compute die. -/
def State.joined (s : State) (train : Bool) (a d : Nat) : Bool :=
  if a = saddle then (s.saddleHops? train d).isSome else (s.hops? train a d).isSome

/-- Reach of a home over the girth plane from a compute die or the saddle die (R15, R337, R338). With no usable port left,
traffic to an endpoint fails by R346, with reason 4 (R342). -/
def State.girthReach (s : State) (a home : Nat) : Reach :=
  if home < 8 then
    if home = a then .ok
    else if s.dieGone home then .fail 2
    else if s.joined false a home then .ok
    else if s.joined true a home then .waits
    else .fail 1
  else
    let e := home - 8
    if !s.epValid e then .fail 5
    else if (s.girthPorts e).any fun p => s.joined false a (p / 2) then .ok
    else if ((s.epPorts true e).filter (s.portGirth true)).any fun p => s.joined true a (p / 2) then .waits
    else if (s.girthPorts e).isEmpty then .fail 4
    else .fail 1

/-- Reach of a home over the rein plane from a compute die or the saddle die. Rein lanes of the fabric ports end on the saddle die. -/
def State.reinReach (s : State) (a home : Nat) : Reach :=
  if home < 8 then s.girthReach a home
  else if home = saddle then
    if s.saddleJoin false a then .ok else if s.saddleJoin true a then .waits else .fail 1
  else
    let e := home - 8
    if !s.epValid e then .fail 5
    else if !(s.epPorts false e).isEmpty then
      if a == saddle || s.saddleJoin false a then .ok else if s.saddleJoin true a then .waits else .fail 1
    else if !(s.epPorts true e).isEmpty then .waits
    else .fail 4

/-! Girth paths: the dies a packet crosses, and a port for an endpoint, as one number in base 32, first die lowest; die d
is written d + 1 and port p is written 16 + p. -/

/-- The digits of a path. -/
def pathDigits (p : Nat) : Nat → List Nat
  | 0 => []
  | n + 1 => if p = 0 then [] else p % 32 :: pathDigits (p / 32) n

/-- The dies of a path, and its port. -/
def pathDies (p : Nat) : List Nat := ((pathDigits p 12).filter (· < 16)).map (· - 1)
@[inherit_doc pathDies] def pathPort? (p : Nat) : Option Nat := ((pathDigits p 12).find? (16 ≤ ·)).map (· - 16)

/-- The number of a path. -/
def pathCode (dies : List Nat) (port : Option Nat) : Nat :=
  dies.foldr (fun d r => d + 1 + 32 * r) (match port with
    | some p => 16 + p
    | none => 0)

/-- Consecutive dies of a list are joined by mesh links that carry traffic. -/
def State.chain (s : State) (train : Bool) : List Nat → Bool
  | a :: b :: r => s.meshJoin train a b && s.chain train (b :: r)
  | _ => true

/-- The paths of `n` hops to a die over usable mesh links, in the lexicographic order of their dies. -/
def State.pathsTo (s : State) (b : Nat) : Nat → Nat → List (List Nat)
  | 0, a => if a = b then [[a]] else []
  | n + 1, a => ((List.range 8).filter fun d => s.meshJoin false a d).flatMap fun d => (s.pathsTo b n d).map (a :: ·)

/-- The shortest paths between two dies; from the saddle die, over any nearest die with a usable saddle link (R337). -/
def State.shortest (s : State) (a b : Nat) : List (List Nat) :=
  if a = saddle then match s.saddleHops? false b with
    | some n => ((List.range 8).filter fun d => (s.link (16 + d)).carries false).flatMap fun d => s.pathsTo b n d
    | none => []
  else match s.hops? false a b with
    | some n => s.pathsTo b n a
    | none => []

/-- The paths that a girth packet to a home may take: the shortest usable ones (R337), through a port that the endpoint's mode
allows (R345). -/
def State.girthPaths (s : State) (a home : Nat) : List Nat :=
  if home < 8 then (s.shortest a home).map fun ds => pathCode ds none
  else (s.girthPorts (home - 8)).flatMap fun p => (s.shortest a (p / 2)).map fun ds => pathCode ds (some p)

@[inherit_doc State.girthPaths] def State.girthPath (s : State) (a home path : Nat) : Bool := (s.girthPaths a home).contains path

/-- A path for traffic that names none of its own: any of them (Config.pathPick). -/
def State.pickPath (s : State) (a home name : Nat) : Option Nat :=
  let l := s.girthPaths a home
  l[Config.pathPick name s.clk % max l.length 1]?

/-- Every link of a path carries traffic. -/
def State.pathStands (s : State) (train : Bool) (src path : Nat) : Bool :=
  let ds := pathDies path
  s.chain train ds && (src != saddle || (ds.head?.any fun d => (s.link (16 + d)).carries train)) &&
    (pathPort? path).all (s.portGirth train)

/-! Rein routes (R337) -/

/-- The nearest die with a usable saddle link, the lowest-numbered on a tie. -/
def State.saddleDie? (s : State) (a : Nat) : Option Nat :=
  (List.range 8).findSome? fun n => (s.within false a n).find? fun d => (s.link (16 + d)).carries false

/-- The rein route between two ends, as its compute dies: of the shortest paths the lexicographically smallest; to and from the
saddle die over the nearest die with a usable saddle link. -/
def State.reinRoute? (s : State) (a b : Nat) : Option (List Nat) :=
  let out (d : Nat) : Option (List Nat) := (s.saddleDie? d).bind fun e => (s.shortest d e).head?
  if a < 8 then (if b < 8 then (s.shortest a b).head? else out a)
  else if b < 8 then (out b).map List.reverse else some []

/-- Every link of a message's route carries traffic or trains. -/
def State.routeStands (s : State) (src dst : Nat) (r : List Nat) : Bool :=
  s.chain true r && (dst < 8 || r.getLast?.all fun d => (s.link (16 + d)).carries true) &&
    (src < 8 || r.head?.all fun d => (s.link (16 + d)).carries true)

/-- A die in the drain phase of its reset: traffic between others that is inside it still completes (R340). -/
def State.draining (s : State) (d : Nat) : Bool :=
  match (s.die d).resetting with
  | .drain _ => true
  | _ => false

/-- Dies that traffic crosses on its way between its ends. -/
def inner (src dst : Nat) (ds : List Nat) : List Nat := ds.filter fun d => d != src && d != dst

/-- Traffic on these dies is inside a die that drains. -/
def State.insideDrain (s : State) (src dst : Nat) (ds : List Nat) : Bool := (inner src dst ds).any s.draining

/-- %tinfo of LINK_PARTITION (R339). -/
def linkInfo (code reason ia : Nat) : Word := wd (reason + 16 * code + 65536 * (ia / 16))

end Sys2Proof.Machine
end

