-- ==== Sys2Proof/Machine/Access.lean ====
section
/-! DEFINITION. Accesses through region registers and to the scratchpad: the checks at issue (R162, R182), where a byte
lies (R197, R201), what a load reads and a store writes (R202, R203), full-empty bits (R177, R185), atomics (R186),
miss-status entries (R191 to R193), and the engine's fault delivery. -/

namespace Sys2Proof.Machine

open Sys2Proof

/-! Region registers -/

/-- The region register that a G code names (Table 7.1). -/
def Iss.regRef (x : Iss) (code : Nat) : RegRef :=
  if code < 16 then { grp := false, owner := x.w.uid, code := code } else { grp := true, owner := x.g.uid, code := code }

/-- State codes of Table 7.3. -/
def GrantSt.code : GrantSt → Nat
  | .waiting => 1
  | .held => 2
  | .lent => 3
  | .frozen => 4
  | .returning => 5

/-- Kind codes of Table 7.4. -/
def kindNum : Kind → Nat
  | .x => 0
  | .s => 1
  | .a => 2

/-- The state code of a register; an EMPTY one holds no grant. -/
def stCode : Option Grant → Nat
  | none => 0
  | some g => g.st.code

/-- %tinfo of REGION_STATE (Table 7.4); `w` is a target's wave index. -/
def stateInfo (code st w : Nat) : Word := wd (code + 32 * st + 8192 * (w % 512))
/-- %tinfo of REFUSED_KIND (Table 7.4). -/
def kindInfo (code : Nat) (k : Kind) (op : Nat) : Word := wd (code + 32 * kindNum k + 256 * op)

/-- A check: it passes with a value, or the word traps or waits. -/
abbrev Chk := Except Eff

/-- The deferred fault that a register holds is trapped by the next word that names it (R158). -/
def State.regFault (s : State) (r : RegRef) : Chk Unit :=
  match s.regFaults.find? (·.1 == r) with
  | some f => .error (.trapReg r f.2.code f.2.info)
  | none => .ok ()

/-- A condition that a word checks; where it fails, the word traps. -/
def need (c : Bool) (code : Nat) (info : Word) : Chk Unit := if c then .ok () else .error (.trap code info)

/-- State and kind checks of R162 on a register: a WAITING one first waits (R153). `ro` allows FROZEN. -/
def Iss.usable (x : Iss) (code : Nat) (ro : Bool) (kinds : List Kind) (op : Nat) : Chk Grant :=
  let r := x.regRef code
  match x.s.regFault r with
  | .error e => .error e
  | .ok _ =>
    match x.s.reg? r with
    | none => .error (.trap REGION_STATE (stateInfo code 0 0))
    | some g =>
      if g.st == .waiting then .error .wait
      else if !(g.st == .held || (ro && g.st == .frozen)) then .error (.trap REGION_STATE (stateInfo code g.st.code 0))
      else if !kinds.contains g.kind then .error (.trap REFUSED_KIND (kindInfo code g.kind op))
      else .ok g

/-- Offsets of the active lanes: V[b] + z × imm, modulo 2^64 (R180). -/
def Iss.offs (x : Iss) (b : VCode) (z imm : Nat) (act : List Nat) : List (Nat × Nat) :=
  act.map fun l => (l, (x.v b l + wd (z * imm)).toNat)

/-- The bounds check of R162 or, for the scratchpad, of R182: the lowest failing lane is reported (Table 7.4). -/
def inBounds (code len z : Nat) (offs : List (Nat × Nat)) : Chk Unit :=
  match offs.find? fun o => decide (len < o.2 + z) with
  | some o => .error (.trap REFUSED_BOUNDS (laneInfo code o.1 0 o.2))
  | none => .ok ()

/-- Every active lane's offset is a multiple of the access size (R182, step 3). -/
def aligned (code z : Nat) (offs : List (Nat × Nat)) : Chk Unit :=
  match offs.find? fun o => o.2 % z != 0 with
  | some o => .error (.trap MISALIGNED (laneInfo code o.1 0 o.2))
  | none => .ok ()

/-! Where a byte lies -/

/-- The group of a region register. -/
def State.groupOf (s : State) (r : RegRef) : Option Nat :=
  if r.grp then some r.owner else (s.wave? r.owner).map (·.group)

/-- The staged window that serves a grant: its own, or that of the grant it derives from (R197). The answer is the group
and the scratchpad offset of the grant's first byte. -/
def State.windowOf? (s : State) : Nat → Grant → Option (Group × Nat)
  | 0, _ => none
  | n + 1, g =>
    match g.window with
    | some b => ((s.groupOf g.reg).bind s.group?).map fun gr => (gr, b)
    | none =>
      match g.parent with
      | none => none
      | some (p, _, _) =>
        match s.grant? p with
        | none => none
        | some pg => (s.windowOf? n pg).map fun r => (r.1, r.2 + (g.ia - pg.ia))

/-- The place of a byte: its IA, or for the scratchpad and staged windows the core byte as an IA of space 2
(R176, R197, R201). -/
def State.loc (s : State) (t : Tgt) (a : Nat) : Nat :=
  match t with
  | .sp gu => match s.group? gu with
    | some g => g.spKey a
    | none => a
  | .grant gid => match s.grant? gid with
    | none => a
    | some g => match s.windowOf? (s.grants.length + 1) g with
      | some (gr, o) => gr.spKey (o + (a - g.ia))
      | none => a

/-- The runs of places that an access covers: place, length, offset within the access. A run stays within one 256 B line,
since a group scratchpad is interleaved by line (R176). -/
def State.runs (s : State) (t : Tgt) (a n : Nat) : List (Nat × Nat × Nat) :=
  (List.range (n / 256 + 2)).filterMap fun i =>
    let lo := max a (a / 256 * 256 + 256 * i)
    let hi := min (a + n) (a / 256 * 256 + 256 * i + 256)
    if lo < hi then some (s.loc t lo, hi - lo, lo - a) else none

/-- The places and lengths of the runs of an access. -/
def State.spans (s : State) (t : Tgt) (a n : Nat) : List (Nat × Nat) := (s.runs t a n).map fun r => (r.1, r.2.1)

/-- A place in a scratchpad: no cache and no grant store holds it (Table 8.1). -/
def isSp (k : Nat) : Bool := iaSpace k == 2

/-- A grant is staged or lies in IA space 2, so that accesses through it go to scratchpad bytes. -/
def State.direct (s : State) (g : Grant) : Bool :=
  iaSpace g.ia == 2 || (s.windowOf? (s.grants.length + 1) g).isSome

/-- The byte that a grant's store or its parents' stores define (Table 9.2). -/
def State.gsByte? (s : State) : Nat → Grant → Nat → Option Byte
  | 0, _, _ => none
  | n + 1, g, a =>
    match sget? g.gs a with
    | some b => some b
    | none =>
      match g.parent with
      | none => none
      | some (p, _, _) => match s.grant? p with
        | none => none
        | some pg => s.gsByte? n pg a

/-- The byte that a load through a target reads from its store (Table 9.2); none when its page is unmapped. -/
def State.readTgt (s : State) (t : Tgt) (a : Nat) : State × Option Byte :=
  let k := s.loc t a
  if isSp k then (s, some (s.byteAt k))
  else
    let d : Option Byte := match t with
      | .sp _ => none
      | .grant gid => (s.grant? gid).bind fun g => s.gsByte? (s.grants.length + 1) g a
    match d with
    | some b => (s, some b)
    | none => match s.keyOf a with
      | (s', .inl key) => (s', some (s'.byteAt key))
      | (s', .inr _) => (s', none)

/-- A run of bytes read through a target. -/
def State.readRun (s : State) (t : Tgt) (a : Nat) : Nat → State × Option (List Byte)
  | 0 => (s, some [])
  | n + 1 =>
    match s.readTgt t a with
    | (s1, none) => (s1, none)
    | (s1, some b) =>
      match s1.readRun t (a + 1) n with
      | (s2, none) => (s2, none)
      | (s2, some bs) => (s2, some (b :: bs))

/-- A byte written to a target's store (Table 9.3): scratchpad, or the grant's store. -/
def State.writeTgt (s : State) (t : Tgt) (a : Nat) (b : Byte) : State :=
  let k := s.loc t a
  if isSp k then s.putByte k b
  else match t with
    | .sp _ => s
    | .grant gid => match s.grant? gid with
      | none => s
      | some g => s.setGrant { g with gs := sput g.gs a b }

/-- A run of bytes written to a target's store. -/
def State.writeRun (s : State) (t : Tgt) (a : Nat) : List Byte → State
  | [] => s
  | b :: bs => (s.writeTgt t a b).writeRun t (a + 1) bs

/-- The place of a byte of a grant's store, in the caches (R199). -/
def linePlace (gid a : Nat) : Nat := 2 ^ 60 + gid * 2 ^ 52 + a

/-- The places of a run of bytes written to a target's store (R199). -/
def State.places (s : State) (t : Tgt) (a n : Nat) : List Nat :=
  (List.range n).map fun i =>
    let k := s.loc t (a + i)
    if isSp k then k else match t with
      | .sp _ => k
      | .grant gid => linePlace gid (a + i)

/-- A run of bytes of a target's store written, as far as uncorrectable sectors are concerned. -/
def State.wroteRun (s : State) (name : Nat) (t : Tgt) (a n : Nat) : State :=
  if s.bad.isEmpty then s else s.wrote name (s.places t a n)

/-! Full-empty bits (R177, R185) -/

/-- The granules (place / 16) that accesses touch. -/
def State.granules (s : State) (t : Tgt) (spans : List (Nat × Nat)) : List Nat :=
  (spans.flatMap fun p => (List.range (p.2 / 16 + 2)).filterMap fun i =>
    let a := p.1 / 16 * 16 + 16 * i
    if a < p.1 + p.2 then some (s.loc t (max a p.1) / 16) else none).eraseDups

/-- Granules set full. -/
def State.setFull (s : State) (gs : List Nat) : State := { s with full := gs.foldl nins s.full }
/-- Granules cleared. -/
def State.clearFull (s : State) (gs : List Nat) : State := { s with full := gs.foldl ndel s.full }
/-- Every granule of a list is full. -/
def State.allFull (s : State) (gs : List Nat) : Bool := gs.all fun g => s.full.contains g

/-! Values -/

/-- Bytes of an access size. -/
def itypeBytes : IType → Nat
  | .i8 | .n8 => 1
  | .i16 | .n16 => 2
  | .i32 | .n32 => 4
  | .i64 | .n64 => 8

/-- A signed type (Table 3.3). -/
def itypeSigned : IType → Bool
  | .i8 | .i16 | .i32 | .i64 => true
  | _ => false

/-- Bytes extended to a lane: .i by sign, .n by zero (R183). -/
def extBytes (t : IType) (bs : List Byte) : Word :=
  let v := leNat bs
  let n := 8 * bs.length
  if itypeSigned t && decide (2 ^ (n - 1) ≤ v) then wd (v + (2 ^ 64 - 2 ^ n)) else wd v

/-- The new memory value of an atomic operation (Table 8.5). -/
def atNew (op : AtOp) (t : IType) (m x y : Word) : Word :=
  let n := 8 * itypeBytes t
  let cut (v : Word) : Word := wd (v.toNat % 2 ^ n)
  let key (v : Word) : Nat := if itypeSigned t then (v.toNat + 2 ^ (n - 1)) % 2 ^ n else v.toNat % 2 ^ n
  match op with
  | .add => cut (m + x)
  | .min => if key x < key m then cut x else m
  | .max => if key m < key x then cut x else m
  | .and => cut (m &&& x)
  | .or => cut (m ||| x)
  | .xor => cut (m ^^^ x)
  | .exch => cut x
  | .cas => if m == cut y then cut x else m
  | .fadd32 => wd (fAdd .f32 .rne (m.toNat % 2 ^ 32) (x.toNat % 2 ^ 32)).r
  | .fadd64 => wd (fAdd .f64 .rne m.toNat x.toNat).r

/-! Outbox entries -/

/-- The place and size of the bytes that an outbox entry writes, by lane. -/
def OEnt.spans (e : OEnt) (s : State) : List (Nat × Nat) :=
  match e.kind with
  | .write a bs _ => s.spans e.tgt a bs.length
  | .atomic _ t ls _ => ls.map fun l => (s.loc e.tgt l.addr, itypeBytes t)
  | .homeAtomic _ t ls _ _ => ls.map fun l => (s.loc e.tgt l.addr, itypeBytes t)
  | .remote a bs _ => s.spans e.tgt a bs.length
  | _ => []

/-- Two runs of bytes share a byte. -/
def meets (a b : Nat × Nat) : Bool := decide (a.1 < b.1 + b.2) && decide (b.1 < a.1 + a.2)

/-- The byte of a write that lands at a place. -/
def State.byteIn (s : State) (t : Tgt) (a : Nat) (bs : List Byte) (k : Nat) : Option Byte :=
  ((s.runs t a bs.length).find? fun r => decide (r.1 ≤ k) && decide (k < r.1 + r.2.1)).bind fun r => bs[r.2.2 + (k - r.1)]?

/-- What an outbox entry gives a load of a place: nothing, a wait for its atomic (R202), or the byte it writes. -/
def OEnt.byte? (e : OEnt) (s : State) (k : Nat) : Option (Option Byte) :=
  if (e.spans s).any fun p => meets p (k, 1) then
    match e.kind with
    | .write a bs _ => some (s.byteIn e.tgt a bs k)
    | .remote a bs _ => some (s.byteIn e.tgt a bs k)
    | _ => some none
  else none

/-- A byte of a lane's read: forwarded from the newest older outbox entry that writes it, else from the store. None
while it cannot be read. -/
def State.readByte (s : State) (w : Wave) (seq : Nat) (t : Tgt) (a : Nat) : State × Option Byte :=
  let k := s.loc t a
  match (w.outbox.filter fun e => decide (e.seq < seq)).reverse.findSome? fun e => e.byte? s k with
  | some r => (s, r)
  | none => s.readTgt t a

/-- A lane's bytes read by a load. -/
def State.readLane (s : State) (w : Wave) (seq : Nat) (t : Tgt) (a : Nat) : Nat → State × Option (List Byte)
  | 0 => (s, some [])
  | n + 1 =>
    match s.readByte w seq t a with
    | (s1, none) => (s1, none)
    | (s1, some b) =>
      match s1.readLane w seq t (a + 1) n with
      | (s2, none) => (s2, none)
      | (s2, some bs) => (s2, some (b :: bs))

/-! Order between the accesses of one wave (R184, R202) -/

/-- Places of the lanes of a load that have not been read. -/
def LoadP.open_ (l : LoadP) (s : State) : List (Nat × Nat) :=
  (l.lanes.filter (·.got.isNone)).flatMap fun r => s.spans l.tgt r.addr l.size

/-- A home atomic or a girth packet of a wave is under way over some bytes. -/
def State.underWay (s : State) (u : Nat) (sp : Nat × Nat) : Bool :=
  let at_ (a : HAtom) : Bool := a.wave == u && a.lanes.any fun l => meets (l.addr, itypeBytes a.t) sp
  (s.hqs.any fun h => at_ h.2) ||
  (s.reins.any fun m => match m.kind with
    | .atomic a => at_ a
    | _ => false) ||
  (s.packets.any fun p => p.wave == u && !p.arrived && p.kind == .write && p.cells.any fun c => meets (c.1, 1) sp)

/-- An older load of the wave still has to read some bytes; the request of a PREF orders nothing. -/
def Wave.olderLoad (w : Wave) (s : State) (seq : Nat) (sp : Nat × Nat) : Bool :=
  w.loads.any fun l => decide (l.seq < seq) && !l.pref && (l.open_ s).any fun p => meets p sp

/-- The access that a word of this number makes waits for its miss-status entries (R192). -/
def Wave.unserved (w : Wave) (seq : Nat) : Bool :=
  match w.hold with
  | .miss n _ _ => decide (n ≤ seq)
  | _ => false

/-- A parked access (R327). -/
def State.isParked (s : State) (r : AccRef) : Bool := s.dies.any fun d =>
  d.parked.any (·.ref == r) || d.bouncedAcc.any (·.1.ref == r)

/-- An access waits at its home, parked and not bounced (R327, R328). -/
def State.onlyParked (s : State) (r : AccRef) : Bool := s.dies.any fun d => d.parked.any (·.ref == r)

/-- One line request of an access is parked or bounced (R191, R327). -/
def State.lineParked (s : State) (r : AccRef) (ia : Nat) : Bool := s.dies.any fun d =>
  (d.parked ++ d.bouncedAcc.map (·.1)).any fun p => p.ref == r && p.ia / 256 == ia / 256

/-- A line that a lane of a load reads is parked (R328). -/
def State.laneParked (s : State) (u : Nat) (l : LoadP) (r : LaneRd) : Bool :=
  s.isParked (.load u l.id) && (List.range (l.size / 256 + 2)).any fun i =>
    decide (r.addr / 256 * 256 + 256 * i < r.addr + l.size) && s.lineParked (.load u l.id) (r.addr / 256 * 256 + 256 * i)

/-- The lines (IA / 256) that a load requests from an endpoint: those of its sectors that miss (R191, Table 19.5a). -/
def State.farLines (s : State) (l : LoadP) : List Nat :=
  match l.tgt with
  | .sp _ => []
  | .grant gid => if (s.grant? gid).any fun g => decide (8 ≤ g.home) then (l.miss.map (· / 4)).eraseDups else []

/-- A request to an endpoint for a line, made under a name, has reached it. -/
def State.lineReached (s : State) (name line : Nat) : Bool :=
  s.packets.all fun p => !(p.kind == .read name && !p.arrived && p.cells.all fun c => c.1 / 256 == line)

/-- The requests of a load for the lines that a lane reads have been sent and have reached their endpoint. -/
def State.laneServed (s : State) (l : LoadP) (r : LaneRd) : Bool :=
  (s.farLines l).all fun n => !meets (256 * n, 256) (r.addr, l.size) || (l.asked.contains n && s.lineReached l.id n)

/-- A lane of a load may be read now: no line that it reads is parked or still to be requested, and the accesses of the wave to its
bytes that came before have been performed. -/
def State.laneReady (s : State) (w : Wave) (l : LoadP) (r : LaneRd) : Bool :=
  !s.laneParked w.uid l r && s.laneServed l r && (s.spans l.tgt r.addr l.size).all fun sp => !w.olderLoad s l.seq sp && !s.underWay w.uid sp

/-- One lane of a load read at this instant, if it may be. -/
def State.captureLane (s : State) (w : Wave) (l : LoadP) (r : LaneRd) : State × LaneRd :=
  if r.got.isSome || l.atomic || !s.laneReady w l r then (s, r)
  else match s.readLane w l.seq l.tgt r.addr l.size with
    | (s1, some bs) => (s1, { r with got := some bs })
    | (s1, none) => (s1, r)

/-- Lanes of a load read at this instant, ascending: all, or the one named. -/
def State.capture (s : State) (w : Wave) (l : LoadP) (only : Option Nat) : List LaneRd → State × List LaneRd
  | [] => (s, [])
  | r :: rs =>
    let (s, r) := if only.all (· == r.lane) then s.captureLane w l r else (s, r)
    let (s, rs) := s.capture w l only rs
    (s, r :: rs)

/-! Miss-status entries (R191 to R193) -/

/-- 64 B sectors that accesses touch. -/
def sectors (z : Nat) (addrs : List Nat) : Nat :=
  (addrs.flatMap fun a => (List.range (z / 64 + 2)).filterMap fun i =>
    if a / 64 + i ≤ (a + z - 1) / 64 then some (a / 64 + i) else none).eraseDups.length

/-- Waves of a core that wait for entries, in the order in which they are served: by issue, then by quad. -/
def State.missQueue (s : State) (core : Nat) : List Wave :=
  let key (w : Wave) : Nat := match w.hold with
    | .miss _ _ t => t * 4 + w.quad
    | _ => 0
  let ins (l : List Wave) (w : Wave) : List Wave := l.takeWhile (fun x => decide (key x ≤ key w)) ++ [w] ++
    l.dropWhile (fun x => decide (key x ≤ key w))
  (s.waves.filter fun w => w.slotHeld && s.coreOf w == core && (match w.hold with
    | .miss _ _ _ => true
    | _ => false)).foldl ins []

/-- Entries counted in or out on a core. -/
def State.missAdd (s : State) (core n : Nat) : State :=
  let c := s.core core
  s.setCore core { c with missUsed := c.missUsed + n }
@[inherit_doc State.missAdd] def State.missFree (s : State) (core n : Nat) : State :=
  let c := s.core core
  s.setCore core { c with missUsed := c.missUsed - n }

/-- The wave of a core that is served before others in service: of those with 64 rejections, the one that reached them
first (R193). -/
def State.starvedFirst? (s : State) (core : Nat) : Option Nat :=
  (s.core core).starved.find? fun u => s.waves.any fun v =>
    v.uid == u && v.slotHeld && s.coreOf v == core && decide (64 ≤ v.rejects)

/-- A word is rejected: the offer is the wave's last issue, and its count rises; with the 64th rejection the wave joins the
line of its core (R193, R319). -/
def Iss.rejected (x : Iss) : State :=
  let s := x.s.setWave { x.w with rejects := x.w.rejects + 1, lastIssue := some x.clk }
  if x.w.rejects + 1 = 64 then
    let c := s.core x.coreIx
    let spare := if (x.s.starvedFirst? x.coreIx).isNone then 256 - c.missUsed else c.spare
    s.setCore x.coreIx { c with starved := c.starved.filter (· != x.w.uid) ++ [x.w.uid], spare := spare }
  else s

/-- Entries that a wave may take while its core is in service: all that are free, or, while another wave is served first, those
that were free before it reached its count (R193). -/
def Iss.entriesFor (x : Iss) : Nat :=
  let c := x.core
  if ((x.s.starvedFirst? x.coreIx).getD x.w.uid) == x.w.uid then 256 - c.missUsed else min c.spare (256 - c.missUsed)

/-- A word in service takes its entries: other waves out of what was free before, the wave served first out of what has been
freed since and then of the rest (R193). -/
def State.takeEntries (s : State) (x : Iss) (n : Nat) : State :=
  let s := s.missAdd x.coreIx n
  let c := s.core x.coreIx
  let own := ((x.s.starvedFirst? x.coreIx).getD x.w.uid) == x.w.uid
  s.setCore x.coreIx { c with spare := if own then min c.spare (256 - c.missUsed) else c.spare - n }

/-- Entries that a word may take (R192, R193). -/
def Iss.freeEntries (x : Iss) : Nat := if x.core.service then x.entriesFor else 256 - x.core.missUsed

/-- A word takes its entries. -/
def Iss.takes (x : Iss) (s : State) (n : Nat) : State := if x.core.service then s.takeEntries x n else s.missAdd x.coreIx n

/-- The effect of a word that takes `n` entries with access number `seq`: one that needs more than are free waits for them all
(R192). In start-up, test or recovery service it is rejected instead; the wave that reached 64 rejections first is given the
entries freed since (R193). -/
def Iss.withEntries (x : Iss) (s : State) (w : Wave) (seq n : Nat) : Eff :=
  if n = 0 then .done s w .next
  else if n ≤ x.freeEntries then .done (x.takes s n) w .next
  else if x.core.service then .stay x.rejected
  else .done s { w with hold := .miss seq n x.clk } .next

/-- The path that the requests of a load take to its home; 0 where it needs none, and to an endpoint, where each has a path of its
own (R337). -/
def Iss.via (x : Iss) (t : Tgt) (name : Nat) : Nat :=
  match t with
  | .sp _ => 0
  | .grant gid => match x.s.grant? gid with
    | none => 0
    | some g => if g.home = x.g.die || 8 ≤ g.home || (x.s.windowOf? (x.s.grants.length + 1) g).isSome then 0
                else (x.s.pickPath x.g.die g.home name).getD 0

/-! Stores wait -/

/-- A scratchpad place that a residue's staged window still covers (R197). -/
def State.residueSpan (s : State) (sp : Nat × Nat) : Bool :=
  s.dies.any fun d => d.entries.any fun e => e.kind == .residue && match e.stg with
    | none => false
    | some (gu, b) => match s.group? gu with
      | none => false
      | some g => (List.range (e.len / 256)).any fun i => meets (g.spKey (b + 256 * i), 256) sp

/-- A scratchpad place that an OBLD of the wave has still to read (R258). -/
def State.obldSpan (s : State) (u : Nat) (sp : Nat × Nat) : Bool :=
  s.cores.any fun c => c.matQ.any fun m => m.wave == u && match m.kind with
    | .obld (some src) _ _ n _ => match s.group? m.group with
      | none => false
      | some g => (List.range (n / 256 + 2)).any fun i =>
        let a := src / 256 * 256 + 256 * i
        let lo := max a src
        let hi := min (a + 256) (src + n)
        decide (lo < hi) && meets (g.spKey lo, hi - lo) sp
    | _ => false

/-- A store or scratchpad atomic waits at issue for either. -/
def Iss.storeFree (x : Iss) (t : Tgt) (z : Nat) (addrs : List Nat) : Chk Unit :=
  if addrs.any fun a => (x.s.spans t a z).any fun sp =>
    isSp sp.1 && (x.s.residueSpan sp || x.s.obldSpan x.w.uid sp)
  then .error .wait else .ok ()

/-- The effect of a checked word: a failed check is the word's outcome. -/
def Chk.eff (c : Chk Eff) : Eff :=
  match c with
  | .ok e => e
  | .error e => e

end Sys2Proof.Machine
end

