-- ==== Sys2Proof/Machine/Cache.lean ====
section
/-! DEFINITION. The L1 of a core and the L2 slice of a sector (R157, R159, R175, R181, R191): which bytes they hold, under
which tag. They hold no value of their own: the stores of Table 9.2 give the same values (R201). -/

namespace Sys2Proof.Machine

open Sys2Proof

/-- The pieces of accesses by 64 B sector: the sector's number, the first byte in it, the count of bytes. -/
def pieces (z : Nat) (addrs : List Nat) : List (Nat × Nat × Nat) :=
  addrs.flatMap fun a => (List.range (z / 64 + 2)).filterMap fun i =>
    let at_ := 64 * (a / 64 + i)
    let lo := max a at_
    let hi := min (a + z) (at_ + 64)
    if lo < hi then some (a / 64 + i, lo - at_, hi - lo) else none

/-- The bits of a byte mask of a sector. -/
def byteMask (lo n : Nat) : Nat := (2 ^ n - 1) * 2 ^ lo

/-- A cached sector gives all bytes of a piece under a tag. -/
def CSec.gives (c : CSec) (tag : Nat) (p : Nat × Nat × Nat) : Bool :=
  c.sec == p.1 && c.tag == tag && c.mask / 2 ^ p.2.1 % 2 ^ p.2.2 == 2 ^ p.2.2 - 1

/-- A cache hit. -/
def hits (l : List CSec) (tag : Nat) (p : Nat × Nat × Nat) : Bool := l.any (·.gives tag p)

/-- A cached sector lies in a range and bears a tag. -/
def CSec.within (c : CSec) (tag ia len : Nat) : Bool := c.tag == tag && meets (64 * c.sec, 64) (ia, len)

/-- Bytes put into a cache that holds `cap` sectors, with the sector that leaves for them: of those that go first, the one
that `pick` names (Table 8.4; DESIGN CHOICE, assumption 11). -/
def putSec (cap pick : Nat) (l : List CSec) (c : CSec) : List CSec × Option CSec :=
  let same (x : CSec) : Bool := x.sec == c.sec && x.tag == c.tag
  let c : CSec := match l.find? same with
    | some x => { c with mask := x.mask ||| c.mask, dirty := x.dirty ||| c.dirty }
    | none => c
  let l := (l.filter fun x => !same x) ++ [c]
  if l.length ≤ cap then (l, none)
  else
    let first := l.filter fun x => l.all fun y => decide (x.rank ≤ y.rank)
    match first[pick % max first.length 1]? with
    | some v => (l.filter (· != v), some v)
    | none => (l, none)

/-- The L2 slice of a sector of a die. -/
def State.l2 (s : State) (die sector : Nat) : List CSec := (s.die die).l2.getD sector []

/-- A slice replaced. -/
def State.setL2 (s : State) (die sector : Nat) (l : List CSec) : State :=
  let d := s.die die
  s.setDie die { d with l2 := d.l2.set sector l }

/-- Bytes put into an L2 slice of 16 MiB; what leaves it is in its home's store already. -/
def State.intoL2 (s : State) (die sector : Nat) (c : CSec) : State :=
  s.setL2 die sector (putSec (16 * 2 ^ 14) (Config.victim s.clk c.sec) (s.l2 die sector) c).1

/-- Bytes put into the L1 of a core of 256 KiB; a dirty sector that leaves it goes to the L2 slice. -/
def State.intoL1 (s : State) (core : Nat) (c : CSec) : State :=
  let x := s.core core
  let r := putSec 4096 (Config.victim s.clk c.sec) x.l1 c
  let s := s.setCore core { x with l1 := r.1 }
  match r.2 with
  | some v => if v.dirty = 0 then s
              else s.intoL2 (core / 40) (s.sector (core / 40) (core % 40)) { v with mask := v.dirty }
  | none => s

/-- Accesses through a grant use the L1 (R157): wave-scope, not of kind A. -/
def Grant.usesL1 (g : Grant) : Bool := !g.reg.grp && g.kind != .a

/-- How soon a line is evicted, by the hint it is filled with (Table 8.4): 0 first, 2 last. -/
def hintRank (hint : Nat) : Nat := if hint = 1 then 0 else if hint = 2 then 2 else 1

/-- The hint that counts for accesses through a grant: group-scope and A-kind accesses take none (R181). -/
def Grant.hint (g : Grant) (hint : Nat) : Nat := if g.usesL1 then hint else 0

/-- The L2 slice of a core's sector. -/
def State.slice (s : State) (core : Nat) : List CSec := s.l2 (core / 40) (s.sector (core / 40) (core % 40))

/-- A piece hits the cache of its grant, where an A-kind grant's line is in none, since it reads the home (R202; assumption
11). Hint 4 reads L2 (Table 8.4). -/
def State.cached (s : State) (core : Nat) (g : Grant) (hint : Nat) (p : Nat × Nat × Nat) : Bool :=
  g.kind != .a && (if g.usesL1 && hint != 4 then hits (s.core core).l1 g.tag p else hits (s.slice core) g.tag p)

/-- The sectors of accesses through a grant that miss its cache and take a miss-status entry each (R191). -/
def State.missing (s : State) (core : Nat) (g : Grant) (hint z : Nat) (addrs : List Nat) : List Nat :=
  (((pieces z addrs).filter fun p => !s.cached core g hint p).map (·.1)).eraseDups

/-- Accesses through a target need a part that a maintenance slot pauses (R178): bytes in neither cache, or in the scratchpad
of another die. -/
def State.pauses (s : State) (core : Nat) (t : Tgt) (z : Nat) (addrs : List Nat) : Bool :=
  match t with
  | .sp _ => false
  | .grant gid => match s.grant? gid with
    | none => false
    | some g =>
      if (s.windowOf? (s.grants.length + 1) g).isSome then false
      else if iaSpace g.ia == 2 then g.home != core / 40
      else (pieces z addrs).any fun p =>
        g.kind == .a || !((g.usesL1 && hits (s.core core).l1 g.tag p) || hits (s.slice core) g.tag p)

/-- Bytes that lie in a compute die's main memory or Slate, which a slot pauses (R350). -/
def memoryHome (ia : Nat) : Bool := iaSpace ia == 0 || iaSpace ia == 1

/-! Uncorrectable data (R199) -/

/-- %tinfo of MEM_UNCORRECTABLE. -/
def memInfo (code tier : Nat) (pc : Word) : Word := wd (code + 32 * tier + 65536 * (pc.toNat % 2 ^ 48))

/-- The place at which a core reads a byte through a target: the scratchpad, the caches, or the home; none where its page is
unmapped. -/
def State.readPlace? (s : State) (core : Nat) (t : Tgt) (hint a : Nat) : Option Nat :=
  let k := s.loc t a
  if isSp k then some k
  else match t with
    | .sp _ => none
    | .grant gid => (s.grant? gid).bind fun g =>
      if s.cached core g hint (a / 64, a % 64, 1) then some (linePlace gid a)
      else match (s.keyOf a).2 with
        | .inl key => some key
        | .inr _ => none

/-- The tier of a place (R199): main memory 0, Slate 1, scratchpad 3, the caches 2 or 4. -/
def tierFits (tier place : Nat) : Bool :=
  if 2 ^ 60 ≤ place then tier == 2 || tier == 4
  else if 2 ^ 56 ≤ place then tier == 0
  else tier == (if iaSpace place == 1 then 1 else if iaSpace place == 2 then 3 else 0)

/-- The uncorrectable sector that an access of `n` bytes reads. -/
def State.badRead? (s : State) (core : Nat) (t : Tgt) (hint a n : Nat) : Option Bad :=
  if s.bad.isEmpty then none
  else (List.range n).findSome? fun i =>
    (s.readPlace? core t hint (a + i)).bind fun p => s.bad.find? (·.sec == p / 64)

/-- The uncorrectable sector that lanes of a load that are still to be read meet: all, or the one named. -/
def State.badLanes? (s : State) (core : Nat) (l : LoadP) (only : Option Nat) : Option Bad :=
  l.lanes.findSome? fun r =>
    if r.got.isNone && only.all (· == r.lane) then s.badRead? core l.tgt l.hint r.addr l.size else none

/-- A sector of a load becomes uncorrectable: the one in which a byte of a lane still to be read lies, in the tier that holds
it (R199). -/
def State.spoil? (s : State) (core : Nat) (l : LoadP) (lane at_ tier : Nat) : Option State := do
  let r ← l.lanes.find? fun r => r.got.isNone && r.lane == lane
  if l.size ≤ at_ then none
  let p ← s.readPlace? core l.tgt l.hint (r.addr + at_)
  if !tierFits tier p then none
  some { s with bad := s.bad.filter (·.sec != p / 64) ++ [{ sec := p / 64, tier := tier, mask := 0, by_ := 0 }] }

/-- A core's L1 copy of a sector leaves it, or stays clean: its dirty bytes are written to the L2 slice (Table 8.4). -/
def State.outOfL1 (s : State) (core tag sec : Nat) (drop : Bool) : State :=
  let here (x : CSec) : Bool := x.sec == sec && x.tag == tag
  let l1 := (s.core core).l1
  match l1.find? here with
  | none => s
  | some v =>
    let s := s.setCore core { s.core core with
      l1 := if drop then l1.filter fun x => !here x else l1.map fun x => if here x then { x with dirty := 0 } else x }
    if v.dirty = 0 then s else s.intoL2 (core / 40) (s.sector (core / 40) (core % 40)) { v with mask := v.dirty }

/-- What the hint of a load does before it reads: with hint 4 any dirty L1 copy is written to L2 (Table 8.4). -/
def State.loadHint (s : State) (core : Nat) (t : Tgt) (direct : Bool) (hint z : Nat) (addrs : List Nat) : State :=
  match t with
  | .sp _ => s
  | .grant gid => match s.grant? gid with
    | none => s
    | some g =>
      if direct || g.hint hint != 4 then s
      else (pieces z addrs).foldl (fun s p => s.outOfL1 core g.tag p.1 false) s

/-- A sector filled for a grant (Table 8.4). -/
def State.fillSec (s : State) (core : Nat) (g : Grant) (hint sec : Nat) : State :=
  let c : CSec := { sec := sec, tag := g.tag, mask := byteMask 0 64, dirty := 0, rank := hintRank (g.hint hint) }
  if g.kind == .a then s
  else
    let s := s.intoL2 (core / 40) (s.sector (core / 40) (core % 40)) c
    if g.usesL1 && hint < 3 then s.intoL1 core c else s

/-- A piece of a store merged into a cache (R175, Table 8.4). -/
def State.mergePiece (s : State) (core : Nat) (g : Grant) (hint : Nat) (p : Nat × Nat × Nat) : State :=
  let m := byteMask p.2.1 p.2.2
  let hint := g.hint hint
  let c : CSec := { sec := p.1, tag := g.tag, mask := m, dirty := m, rank := hintRank hint }
  let there : Bool := (s.core core).l1.any fun x => x.sec == p.1 && x.tag == g.tag
  if g.usesL1 && (hint < 3 || (hint == 3 && there)) then s.intoL1 core c
  else
    let s := if hint == 4 then s.outOfL1 core g.tag p.1 true else s
    s.intoL2 (core / 40) (s.sector (core / 40) (core % 40)) c

/-- A store through a target merged into the caches; scratchpad bytes are in none. -/
def State.mergeStore (s : State) (core : Nat) (t : Tgt) (direct : Bool) (hint z : Nat) (addrs : List Nat) : State :=
  match t with
  | .sp _ => s
  | .grant gid => match s.grant? gid with
    | none => s
    | some g => if direct then s else (pieces z addrs).foldl (fun s p => s.mergePiece core g hint p) s

/-- The cores of a sector of a die. -/
def State.coresOf (s : State) (die sector : Nat) : List Nat :=
  ((List.range 40).filter fun c => s.sector die c == sector).map (die * 40 + ·)

/-- Dirty bytes of a range under a tag written from the L1s of a sector to its L2. -/
def State.flushL1 (s : State) (die sector tag ia len : Nat) : State :=
  (s.coresOf die sector).foldl (fun s i =>
    let x := s.core i
    let d := x.l1.filter fun c => c.within tag ia len && c.dirty != 0
    if d.isEmpty then s
    else d.foldl (fun s c => s.intoL2 die sector { c with mask := c.dirty })
      (s.setCore i { x with l1 := x.l1.map fun c => if c.within tag ia len then { c with dirty := 0 } else c })) s

/-- Lines of a range leave the caches of a sector. -/
def State.dropLines (s : State) (die sector tag ia len : Nat) : State :=
  let s := (s.coresOf die sector).foldl (fun s i =>
    let x := s.core i
    if x.l1.isEmpty then s else s.setCore i { x with l1 := x.l1.filter fun c => !c.within tag ia len }) s
  s.setL2 die sector ((s.l2 die sector).filter fun c => !c.within tag ia len)

/-- The slice carries lines of a range over to a new tag (R159). -/
def State.carry (s : State) (die sector : Nat) (old : List Nat) (new ia len : Nat) : State :=
  s.setL2 die sector ((s.l2 die sector).map fun c =>
    if old.any fun t => c.within t ia len then { c with tag := new } else c)

/-! Tags (R159) -/

/-- The next tag of a sector, if its sweep is complete: the tag 256 issues ahead begins its sweep. -/
def State.freshTag? (s : State) (die sector : Nat) : Option (State × Nat) :=
  let d := s.die die
  let t := d.tags.getD sector 0
  if d.sweeping.contains (sector, t) then none
  else some (s.setDie die { d with tags := d.tags.set sector ((t + 1) % 4096),
                                   sweeping := d.sweeping ++ [(sector, (t + 256) % 4096)] }, t)

/-- A fresh tag for a range whose lines a sector holds under older tags: dirty L1 bytes are written to L2 first, and the
slice carries its lines over. -/
def State.newTag? (s : State) (die sector : Nat) (old : List Nat) (ia len : Nat) : Option (State × Nat) := do
  let (s, t) ← (old.foldl (fun s o => s.flushL1 die sector o ia len) s).freshTag? die sector
  some (s.carry die sector old t ia len, t)

/-- Lines that bear a tag leave a sector's caches: its sweep is complete (R159). -/
def State.sweepTag (s : State) (die sector tag : Nat) : State := s.dropLines die sector tag 0 (2 ^ 52)

/-- Sectors of a load whose lanes have all been read: their fills have come, their entries are free and the caches hold
them (R191). -/
def State.filled (s : State) (w : Wave) (l : LoadP) : State × LoadP :=
  let open_ (sec : Nat) : Bool := l.lanes.any fun r => r.got.isNone && (pieces l.size [r.addr]).any (·.1 == sec)
  let come := l.miss.filter fun c => !open_ c
  let s := s.missFree (s.coreOf w) come.length
  let s : State := match l.tgt with
    | .sp _ => s
    | .grant gid => match s.grant? gid with
      | none => s
      | some g => come.foldl (fun s c => s.fillSec (s.coreOf w) g l.hint c) s
  (s, { l with miss := l.miss.filter open_ })

end Sys2Proof.Machine
end

