-- ==== Sys2Proof/Machine/Memory.lean ====
section
/-! DEFINITION. The memory instructions, class 4 (R179 to R198). -/

namespace Sys2Proof.Machine

open Sys2Proof

/-- Where a checked access goes: its target, the address of offset 0, whether it reaches scratchpad bytes, and its
register code (31 for the scratchpad). -/
structure Place where
  tgt : Tgt
  base : Nat
  direct : Bool
  code : Nat
deriving DecidableEq, Repr

/-- The checks of R182, steps 2 to 4. -/
def Iss.place (x : Iss) (g? : Option GCode) (offs : List (Nat × Nat)) (z : Nat) (ro : Bool) (kinds : List Kind) (op : Nat)
    (fe : Fe) : Chk Place :=
  match g? with
  | none => do
    inBounds 31 x.scr z offs
    aligned 31 z offs
    .ok { tgt := .sp x.g.uid, base := 0, direct := true, code := 31 }
  | some c => do
    let g ← x.usable c.toNat ro kinds op
    inBounds c.toNat g.len z offs
    aligned c.toNat z offs
    need (fe == .none || x.s.direct g) REFUSED_KIND (kindInfo c.toNat g.kind 7)
    .ok { tgt := .grant g.gid, base := g.ia, direct := x.s.direct g, code := c.toNat }

/-- Window byte at which a vector destination starts, after renaming (R83, R183). -/
def Iss.destAt (x : Iss) (n : Nat) : Nat := 8 * x.frame.vslot n

/-- A full-empty load proceeds at a clk at which all its granules are full: it reads at this instant, and .fec clears the
granules (R185). -/
def State.feProceed (s : State) (w : Wave) (l : LoadP) (clear : Bool) : State × Wave :=
  let gs := s.granules l.tgt (l.lanes.map fun r => (r.addr, l.size))
  let (s, lanes) := s.capture w l none l.lanes
  let s := if clear then s.clearFull gs else s
  (s, { w with loads := w.loads.map fun m => if m.id == l.id then { m with lanes := lanes } else m })

/-- The sectors of a checked access that miss its grant's cache (R191); accesses to scratchpad bytes take no entry. -/
def Iss.missing (x : Iss) (p : Place) (hint z : Nat) (addrs : List Nat) : List Nat :=
  match p.tgt with
  | .sp _ => []
  | .grant gid => match x.s.grant? gid with
    | none => []
    | some g => if p.direct then [] else x.s.missing x.coreIx g hint z addrs

/-- The issuing wave after what the hint of its load does before it reads (Table 8.4). -/
def Iss.loading (x : Iss) (p : Place) (hint z : Nat) (addrs : List Nat) : Iss :=
  { x with s := x.s.loadHint x.coreIx p.tgt p.direct hint z addrs }

/-- A load: LD, LDS, LDP (R183, R185). -/
def Iss.load (x : Iss) (g? : Option GCode) (b : VCode) (z imm : Nat) (fe : Fe) (hint : Nat) (dest : LoadDest)
    (act : List Nat) : Eff :=
  Chk.eff do
    let offs := x.offs b z imm act
    let p ← x.place g? offs z true [.x, .s, .a] 0 fe
    let addrs := offs.map fun o => p.base + o.2
    let x := x.loading p hint z addrs
    let (s, n) := x.s.fresh
    let need := x.missing p hint z addrs
    let l : LoadP := { id := n, seq := n, pc := x.p.pc, code := p.code, tgt := p.tgt, size := z,
                       lanes := offs.map fun o => { lane := o.1, addr := p.base + o.2, got := none },
                       dest := dest, atomic := false, miss := need, hint := hint, via := x.via p.tgt n, asked := [] }
    let w := { x.w with loads := x.w.loads ++ [l] }
    if act.isEmpty then .ok (.done x.s x.w .next)
    else if fe == .none then .ok (x.withEntries s w n need.length)
    else if s.allFull (s.granules l.tgt (l.lanes.map fun r => (r.addr, z))) && l.lanes.all (s.laneReady x.w l) &&
        (s.badLanes? x.coreIx l none).isNone then
      let r := s.feProceed w l (fe == .fec)
      .ok (.done r.1 r.2 .next)
    else .ok (.done s { w with hold := .fullEmpty n (fe == .fec) } .next)

/-- A store: ST, STS, STP (R183 to R185). One entry for each lane; the last carries the granules that become full. -/
def Iss.store (x : Iss) (g? : Option GCode) (b : VCode) (z imm : Nat) (fe : Fe) (hint : Nat) (data : Nat → List Byte)
    (act : List Nat) : Eff :=
  Chk.eff do
    let offs := x.offs b z imm act
    let p ← x.place g? offs z false [.x] 1 fe
    x.storeFree p.tgt z (offs.map fun o => p.base + o.2)
    let (s, n) := (x.s.mergeStore x.coreIx p.tgt p.direct hint z (offs.map fun o => p.base + o.2)).fresh
    let gs := if fe == .none then [] else s.granules p.tgt (offs.map fun o => (p.base + o.2, z))
    let ents := (offs.zipIdx).map fun o =>
      ({ seq := n, pc := x.p.pc, code := p.code, tgt := p.tgt,
         kind := .write (p.base + o.1.2) (data o.1.1) (if o.2 + 1 = offs.length then gs else []) } : OEnt)
    .ok (.done s { x.w with outbox := x.w.outbox ++ ents } .next)

/-- The low bytes of a lane of a data register. -/
def Iss.laneBytes (x : Iss) (d : VCode) (z lane : Nat) : List Byte := leBytes z (x.v d lane).toNat

/-- The two registers of a pair, as sixteen bytes. -/
def Iss.pairBytes (x : Iss) (d : VCode) (lane : Nat) : List Byte :=
  leBytes 8 (x.vreg d.toNat lane).toNat ++ leBytes 8 (x.vreg (d.toNat + 1) lane).toNat

/-- LD: a load through a region register (R183). -/
def execLd (h : Hd) (d : VCode) (g : GCode) (b : VCode) (t : IType) (fe : Fe) (imm : BitVec 4) (s : State) : Out :=
  execWord (.ld h d g b t fe imm) h .vector s fun x act =>
    x.load (some g) b (itypeBytes t) imm.toNat fe h.x.toNat (.vec (x.destAt d.toNat) t) act

/-- ST: a store through a region register (R183). -/
def execSt (h : Hd) (d : VCode) (g : GCode) (b : VCode) (t : IType) (fe : Fe) (imm : BitVec 4) (s : State) : Out :=
  execWord (.st h d g b t fe imm) h .vector s fun x act =>
    x.store (some g) b (itypeBytes t) imm.toNat fe h.x.toNat (x.laneBytes d (itypeBytes t)) act

/-- LDS: a load from the group scratchpad (R183). -/
def execLds (h : Hd) (d b : VCode) (t : IType) (fe : Fe) (imm : BitVec 4) (s : State) : Out :=
  execWord (.lds h d b t fe imm) h .vector s fun x act =>
    x.load none b (itypeBytes t) imm.toNat fe 0 (.vec (x.destAt d.toNat) t) act

/-- STS: a store to the group scratchpad (R183). -/
def execSts (h : Hd) (d b : VCode) (t : IType) (fe : Fe) (imm : BitVec 4) (s : State) : Out :=
  execWord (.sts h d b t fe imm) h .vector s fun x act =>
    x.store none b (itypeBytes t) imm.toNat fe 0 (x.laneBytes d (itypeBytes t)) act

/-- LDP: sixteen bytes to two registers (R183). -/
def execLdp (h : Hd) (d : VCode) (g : GCode) (b : VCode) (fe : Fe) (imm : BitVec 4) (s : State) : Out :=
  execWord (.ldp h d g b fe imm) h .vector s fun x act =>
    x.load (some g) b 16 imm.toNat fe h.x.toNat (.pair (x.destAt d.toNat) (x.destAt (d.toNat + 1))) act

/-- STP: sixteen bytes from two registers (R183). -/
def execStp (h : Hd) (d : VCode) (g : GCode) (b : VCode) (fe : Fe) (imm : BitVec 4) (s : State) : Out :=
  execWord (.stp h d g b fe imm) h .vector s fun x act =>
    x.store (some g) b 16 imm.toNat fe h.x.toNat (x.pairBytes d) act

/-- The lanes of an atomic, their operands read at issue. -/
def Iss.atLanes (x : Iss) (d : VCode) (op : AtOp) (base : Nat) (offs : List (Nat × Nat)) : List AtLane :=
  offs.map fun o => { lane := o.1, addr := base + o.2, x := x.vreg d.toNat o.1,
                      y := if op == .cas then x.vreg (d.toNat + 1) o.1 else 0 }

/-- An atomic that returns its old values: through an X grant or in the scratchpad one local entry, through an A grant
one home atomic (R187, R203). -/
def Iss.atomic (x : Iss) (g? : Option GCode) (d b : VCode) (op : AtOp) (t : IType) (act : List Nat) : Eff :=
  Chk.eff do
    let z := itypeBytes t
    let offs := x.offs b z 0 act
    let p ← x.place g? offs z false [.x, .a] 2 .none
    let home : Bool := match p.tgt with
      | .grant gid => ((x.s.grant? gid).map (·.kind)) == some .a
      | .sp _ => false
    need (!home || !x.det || x.k.stamp.any fun st => st.passing.isNone && !st.retired && !st.moving && st.grp == x.g.grp && st.wave == x.w.index)
      STAMP_ORDER 0
    if home then .ok () else x.storeFree p.tgt z (offs.map fun o => p.base + o.2)
    let (s, n) := x.s.fresh
    let ls := x.atLanes d op p.base offs
    let ent := if home then [] else x.missing p 0 z (ls.map (·.addr))
    let l : LoadP := { id := n, seq := n, pc := x.p.pc, code := p.code, tgt := p.tgt, size := z,
                       lanes := ls.map fun a => { lane := a.lane, addr := a.addr, got := none },
                       dest := .vec (x.destAt d.toNat) t, atomic := true, miss := ent, hint := 0,
                       via := if home then 0 else x.via p.tgt n, asked := [] }
    let e : OEnt := { seq := n, pc := x.p.pc, code := p.code, tgt := p.tgt,
                      kind := if home then .homeAtomic op t ls n 0 else .atomic op t ls n }
    if act.isEmpty then .ok (.done x.s x.w .next)
    else .ok (x.withEntries s { x.w with loads := x.w.loads ++ [l], outbox := x.w.outbox ++ [e] } n ent.length)

/-- ATOM: an atomic through a region register (R187, R188). -/
def execAtom (h : Hd) (d : VCode) (g : GCode) (b : VCode) (op : AtOp) (t : IType) (s : State) : Out :=
  execWord (.atom h d g b op t) h .vector s fun x act => x.atomic (some g) d b op t act

/-- ATOMS: an atomic in the group scratchpad (R187). -/
def execAtoms (h : Hd) (d b : VCode) (op : AtOp) (t : IType) (s : State) : Out :=
  execWord (.atoms h d b op t) h .vector s fun x act => x.atomic none d b op t act

/-- RST: remote stores, then one added to a flag (R190, R203). -/
def Iss.rst (x : Iss) (g : GCode) (a b : VCode) (c : SReg) (act : List Nat) : Eff :=
  Chk.eff do
    let desc := (x.sreg c.toNat).toNat
    let fc := desc % 32
    let foff := 8 * (desc / 256)
    need (fc < 24 && desc / 32 % 8 = 0) RESERVED_FIELD 0
    let offs := x.offs a 8 0 act
    let gd ← x.usable g.toNat false [.x] 1
    inBounds g.toNat gd.len 8 offs
    let gf ← x.usable fc false [.a] 8
    need (gf.home == gd.home) REFUSED_KIND (kindInfo fc gf.kind 8)
    inBounds fc gf.len 8 [(0, foff)]
    aligned g.toNat 8 offs
    let (s, n) := x.s.fresh
    let addrs := offs.map fun o => gd.ia + o.2
    let direct := x.s.direct gd
    let ents := (offs.zipIdx).map fun o =>
      let ad := gd.ia + o.1.2
      ({ seq := n, pc := x.p.pc, code := g.toNat, tgt := .grant gd.gid,
         kind := .remote ad (x.laneBytes b 8 o.1.1)
           (b2n (!direct && !(addrs.drop (o.2 + 1)).any fun q => q / 64 == ad / 64)) } : OEnt)
    let fl : OEnt := { seq := n, pc := x.p.pc, code := fc, tgt := .grant gf.gid, kind := .flag (gf.ia + foff) gf.gid }
    .ok (x.withEntries s { x.w with outbox := x.w.outbox ++ ents ++ [fl] } n (if direct then 0 else sectors 8 addrs))

/-- RST: remote store with flag (R190). -/
def execRst (h : Hd) (g : GCode) (a b : VCode) (c : SReg) (s : State) : Out :=
  execWord (.rst h g a b c) h .vector s fun x act => x.rst g a b c act

/-- RATOM: a posted atomic through an A grant (R189). -/
def execRatom (h : Hd) (d : VCode) (g : GCode) (b : VCode) (op : AtOp) (t : IType) (s : State) : Out :=
  execWord (.ratom h d g b op t) h .vector s fun x act => Chk.eff do
    let z := itypeBytes t
    let offs := x.offs b z 0 act
    let p ← x.place (some g) offs z false [.a] 2 .none
    need (!x.det || x.k.stamp.any fun st => st.passing.isNone && !st.retired && !st.moving && st.grp == x.g.grp && st.wave == x.w.index)
      STAMP_ORDER 0
    let (s, n) := x.s.fresh
    let addrs := offs.map fun o => p.base + o.2
    let ents := (offs.zipIdx).map fun o =>
      let a := p.base + o.1.2
      ({ seq := n, pc := x.p.pc, code := p.code, tgt := p.tgt,
         kind := .homeAtomic op t [{ lane := o.1.1, addr := a, x := x.v d o.1.1, y := 0 }] 0
           (b2n (!p.direct && !(addrs.drop (o.2 + 1)).any fun q => q / 64 == a / 64)) } : OEnt)
    .ok (x.withEntries s { x.w with outbox := x.w.outbox ++ ents } n (if p.direct then 0 else sectors z addrs))

/-- What a PREF requests: the lines that a load of the word would read, as a load in flight that writes no register, if the
checks of R182 pass, the grant is neither of kind A nor staged, a sector misses, and entries for those that do are free (R195). -/
def Iss.pref (x : Iss) (g : GCode) (b : VCode) (t : IType) (imm hint : Nat) (act : List Nat) : State × Wave :=
  let z := itypeBytes t
  let offs := x.offs b z imm act
  let checks : Chk Place := x.place (some g) offs z true [.x, .s] 0 .none
  match checks with
  | .error _ => (x.s, x.w)
  | .ok p =>
    let addrs := offs.map fun o => p.base + o.2
    let y := x.loading p hint z addrs
    let miss := y.missing p hint z addrs
    if p.direct || miss.isEmpty || x.freeEntries < miss.length then (x.s, x.w)
    else
      let (s, n) := y.s.fresh
      let l : LoadP := { id := n, seq := n, pc := x.p.pc, code := p.code, tgt := p.tgt, size := z,
                         lanes := offs.map fun o => { lane := o.1, addr := p.base + o.2, got := none },
                         dest := .none, atomic := false, miss := miss, hint := hint, via := x.via p.tgt n, asked := [] }
      (x.takes s miss.length, { x.w with loads := x.w.loads ++ [l] })

/-- PREF requests lines (R195). It never traps after decode, where STALL_SHORT comes (R70), and never waits: with an operand
that is early it requests the lines of the value that it reads (DEDUCED, assumption 119). -/
def execPref (h : Hd) (g : GCode) (b : VCode) (t : IType) (imm : BitVec 4) (s : State) : Out :=
  match s.iss? with
  | none => .fault .noIssuingWave
  | some x => .next (x.issueOn (usesOf (.pref h g b t imm)) h .vector (x.active h)
      (fun x act => .done (x.pref g b t imm.toNat h.x.toNat act).1 (x.pref g b t imm.toNat h.x.toNat act).2 .next) true)

/-! Staging (R196 to R198) -/

/-- A copy operation as it is issued. -/
def CopyOp.new (x : Iss) (id : Nat) (kind : OpKind) (dst src : End) (nums : List Nat) (len : Nat) : CopyOp :=
  { id := id, wave := x.w.uid, group := x.g.uid, core := x.coreIx, seq := id, batch := x.w.batch.toNat + 1, pc := x.p.pc,
    kind := kind, dst := dst, src := src, nums := nums, data := [], len := len, acc := none, flag := none, sreg := 0, sticky := 0, pos := 0,
    fired := false, started := false, srcAt := 0, dstAt := 0, skip := none, segEnd := 0, suspended := false,
    overran := none, failed := false, asked := none }

/-- The bindings of a cluster's mapping table (R196): of grants that are held, and of residues. -/
def State.bindings (s : State) (die cluster : Nat) : Nat × Nat :=
  let here (gu : Nat) : Bool := match s.group? gu with
    | some g => g.die == die && (g.cores.head?.getD 0) / 4 == cluster
    | none => false
  ((s.grants.filter fun g => g.window.isSome && (s.groupOf g.reg).any here).length,
   (s.dies.map fun d => (d.entries.filter fun e => e.kind == .residue && e.stg.any fun p => here p.1).length).sum)

/-- Windows of a group that its grants, or residues, hold: base and length. -/
def State.heldWindows (s : State) (gu : Nat) : List (Nat × Nat) :=
  s.grants.filterMap fun g => if (s.groupOf g.reg) == some gu then g.window.map fun b => (b, g.len) else none
@[inherit_doc State.heldWindows] def State.residueWindows (s : State) (gu : Nat) : List (Nat × Nat) :=
  s.dies.flatMap fun d => d.entries.filterMap fun e => match e.stg with
    | some (g, b) => if e.kind == .residue && g == gu then some (b, e.len) else none
    | none => none

/-- An access of the group through a grant has not been performed. -/
def State.busyGrant (s : State) (gid : Nat) : Bool :=
  s.waves.any fun w => (w.outbox.any fun e => e.tgt == .grant gid) ||
    (w.loads.any fun l => l.tgt == .grant gid && l.lanes.any (·.got.isNone))

/-- STAGE binds a group-scope X grant to a window of the group scratchpad (R196). The binding waits for the accesses
that the group has issued through the grant (DEDUCED, assumption 17). A STAGE of a staged grant over its own window reports reason 11,
for the grant's own window counts among the bindings' (DESIGN CHOICE, assumption 130). -/
def execStage (h : Hd) (g : GCode) (b : SReg) (fill : Bool) (s : State) : Out :=
  execWord (.stage h g b fill) h .scalar s fun x _ => Chk.eff do
    let c := g.toNat
    let win := (x.sreg b.toNat).toNat
    let gr ← x.usable c false [.x] 3
    need (win % 256 = 0) MISALIGNED (wd (31 * 16 + 1))
    need (win + gr.len ≤ x.scr) REFUSED_BOUNDS (laneInfo 31 0 0 win)
    let n := x.s.bindings x.g.die (x.w.core / 4)
    let sp := (win, gr.len)
    need (n.1 < 64) GRANT_FAILED (wd (16 * c + 10))
    need (!(x.s.heldWindows x.g.uid).any fun p => meets p sp) GRANT_FAILED (wd (16 * c + 11))
    need gr.window.isNone GRANT_FAILED (wd (16 * c + 12))
    if 64 ≤ n.1 + n.2 || ((x.s.residueWindows x.g.uid).any fun p => meets p sp) || x.s.busyGrant gr.gid ||
        (fill && decide (64 ≤ x.core.engineQ.length)) then .error .wait
    else if fill then
      let (s, id) := x.s.fresh
      let op := { CopyOp.new x id .fill .sp (.grant gr.gid) [win] gr.len with batch := 0 }
      let s := s.setGrant { gr with window := some win }
      let s := s.setCore x.coreIx { s.core x.coreIx with engineQ := (s.core x.coreIx).engineQ ++ [id] }
      .ok (.done { s with ops := s.ops ++ [op] } x.w .next)
    else
      let at_ := x.s.sector x.g.die x.w.core
      .ok (.done ((x.s.dropLines x.g.die at_ gr.tag gr.ia gr.len).setGrant { gr with window := some win, gs := [] }) x.w .next)

/-- UNSTAGE ends a binding: the wave goes on once the window's bytes are in the grant's store (R198,
UNSTAGE_WRITE_DONE). Without a binding it has no effect. -/
def execUnstage (h : Hd) (g : GCode) (s : State) : Out :=
  execWord (.unstage h g) h .scalar s fun x _ => Chk.eff do
    let gr ← x.usable g.toNat false [.x, .s, .a] 3
    if gr.window.isNone then .ok (.done x.s x.w .next)
    else .ok (.done x.s { x.w with hold := .unstage gr.gid } .next)

end Sys2Proof.Machine
end

