-- ==== Sys2Proof/Machine/Region.lean ====
section
/-! DEFINITION. The region and ordering instructions, class 5 (R164 to R171, R208 to R216), with requests and tags. -/

namespace Sys2Proof.Machine

open Sys2Proof

/-- The die and sector of a region register's holder. -/
def State.holderAt (s : State) (r : RegRef) : Nat × Nat :=
  match (s.groupOf r).bind s.group? with
  | none => (0, 0)
  | some g => (g.die, s.sector g.die (g.cores.head?.getD 0))

/-! Requests (R149, R150) -/

/-- Two requests overlap: they share a 256 B line. -/
def BReq.overlaps (a b : BReq) : Bool := meets (a.ia, a.len) (b.ia, b.len)

/-- A request of a determinism-mode kernel comes before queued requests of the kernel that overlap it and have a larger
key; within one key the one issued first comes first (R150). -/
def BReq.before (a b : BReq) : Bool :=
  match a.det, b.det with
  | some (k, g, w), some (k', g', w') => k == k' && a.overlaps b &&
      (decide (g < g') || (g == g' && (decide (w < w') || (w == w' && decide (a.rid < b.rid)))))
  | _, _ => false

/-- Requests of a queue that a new one may not overtake: those that it overlaps and does not come before by key, and those
that one of these overlaps ahead of itself (R149). -/
def stayAhead (r : BReq) : List BReq → List BReq
  | [] => []
  | x :: q =>
    let p := stayAhead r q
    if (x.overlaps r && !r.before x) || p.any x.overlaps then x :: p else p

/-- A request put into a brand queue: last, or ahead of the first request that it comes before, with the ones that it may
not overtake ahead of itself (R149, R150; assumption 115). -/
def insReq (q : List BReq) (r : BReq) : List BReq :=
  let p := stayAhead r q
  let stays (x : BReq) : Bool := p.any (·.rid == x.rid)
  let front := q.takeWhile fun x => stays x || !r.before x
  let back := q.drop front.length
  front ++ back.filter stays ++ [r] ++ back.filter fun x => !stays x

/-- A request reaches its home die, which decides on it at the end of the clk, in the order of R149. -/
def State.enqueue (s : State) (home : Nat) (r : BReq) : State :=
  let d := s.die home
  s.setDie home { d with incoming := d.incoming ++ [r] }

/-- A request sent to its home: at once on the issuing die, otherwise as a rein message. -/
def State.request (s : State) (die home wave : Nat) (r : BReq) : State :=
  if home = die then s.enqueue home r else s.sendRein die home wave (.request r)

/-- The reason of Table 7.6 for which a range is not borrowed; 0 when there is none. A Slate range that reaches the Geode store
and also ends at an unbacked address takes reason 6, since the table gives reasons 4 and 6 no order (DESIGN CHOICE, assumption
116). -/
def State.brwReason (s : State) (c : Ctx) (va len : Nat) (k : Kind) : Nat × Nat :=
  match c.map? va len with
  | none => (1, 0)
  | some m =>
    let ia := m.ia va
    let last := ia + len - 1
    let cut := if 8 ≤ iaSpace ia then 34 else 44
    let die := iaDie ia
    let slate := iaSpace ia == 1
    let geode := slate && die < 8 && decide (2 ^ 28 - (s.die die).gmib * 2 ^ 20 ≤ last % 2 ^ 28) && !unbacked last
    if !(m.w0.getLsbD 0 && (k == .s || m.w0.getLsbD 1)) then (2, ia)
    else if ia / 2 ^ cut != last / 2 ^ cut then (3, ia)
    else if (slate && k != .s) || geode then (4, ia)
    else if iaSpace ia < 8 && die < 8 && (s.die die).retired then (5, ia)
    else if unbacked ia || unbacked last || (iaSpace ia == 2 && ia / 2 ^ 38 != last / 2 ^ 38) then (6, ia)
    else (0, ia)

/-- BRW requests a root grant (R165). -/
def execBrw (h : Hd) (d : GCode) (a b : SReg) (tryIt : Bool) (k : Kind) (s : State) : Out :=
  execWord (.brw h d a b tryIt k) h .scalar s fun x _ => Chk.eff do
    let c := d.toNat
    let r := x.regRef c
    let va := (x.sreg a.toNat).toNat
    let len := (x.sreg b.toNat).toNat
    need (!(tryIt && x.det)) RESERVED_FIELD 5
    x.s.regFault r
    need (va % 256 = 0) MISALIGNED (wd (16 * c + 1))
    need (len != 0 && len % 256 = 0 && decide (len ≤ 2 ^ 40)) MISALIGNED (wd (16 * c + 2))
    match x.s.reg? r with
    | some g =>
      if g.st == .returning then .error .wait else .error (.trap REGION_STATE (stateInfo c g.st.code 0))
    | none =>
      let t := x.s.brwReason x.c va len k
      need (t.1 = 0) GRANT_FAILED (wd (16 * c + t.1))
      let sf := h.x == 4
      let (s, gid) := x.s.fresh
      let (s, rid) := s.fresh
      let g : Grant := { gid := gid, reg := r, st := .waiting, kind := k, ctx := x.k.ctx, va := wd va, ia := t.2, len := len,
                         tag := 0, children := 0, parent := none, home := homeOf t.2, entry := none, sfWrite := sf,
                         derive := none, flushed := false, returned := false, window := none, gs := [], lost := false,
                         by_ := 0 }
      let q : BReq := { rid := rid, src := x.coreIx * 4 + x.w.quad, who := .grant gid, ia := t.2, len := len, kind := k, tryIt := tryIt, ctx := x.k.ctx,
                        die := x.g.die, sector := x.s.sector x.g.die x.w.core,
                        det := if x.det then some (x.k.uid, x.g.grp, x.w.index) else none }
      let s := ({ s with grants := s.grants ++ [g] } : State).request x.g.die g.home x.w.uid q
      .ok (.done s (if sf then { x.w with vpend := x.w.vpend ++ [{ id := gid, locs := [.sf], chan := none }] } else x.w) .next)

/-- A target register must be EMPTY (Table 7.3); a deferred fault that it holds comes first (R158). -/
def State.emptyReg (s : State) (r : RegRef) (w : Nat) : Chk Unit :=
  match s.regFault r with
  | .error e => .error e
  | .ok _ => match s.reg? r with
    | none => .ok ()
    | some g => .error (.trap REGION_STATE (stateInfo r.code g.st.code w))

/-- A child of a grant, waiting for O4. -/
def Grant.child (p : Grant) (gid : Nat) (r : RegRef) (k : Kind) (off_ len pwave : Nat) : Grant :=
  { gid := gid, reg := r, st := .waiting, kind := k, ctx := p.ctx, va := p.va + wd off_, ia := p.ia + off_, len := len,
    tag := 0, children := 0, parent := some (p.gid, pwave, p.reg.code), home := p.home, entry := none, sfWrite := false,
    derive := some (.child p.gid), flushed := false, returned := false, window := none, gs := [], lost := false, by_ := 0 }

/-- The wave index of a parent link: 0 for a group-scope parent (Table 7.7). -/
def Iss.parentIdx (x : Iss) (code : Nat) : Nat := if code < 16 then x.w.index else 0

/-- RBRW derives a child of an X grant (R166). -/
def execRbrw (h : Hd) (d a : GCode) (b : SReg) (k : Kind) (s : State) : Out :=
  execWord (.rbrw h d a b k) h .scalar s fun x _ => Chk.eff do
    let ca := a.toNat
    let cd := d.toNat
    let off_ := (x.sreg b.toNat).toNat
    let len := (x.sreg (b.toNat + 1)).toNat
    x.s.regFault (x.regRef ca)
    x.s.regFault (x.regRef cd)
    let p ← x.usable ca (k == .s) [.x] 6
    need (off_ % 256 = 0) MISALIGNED (wd (16 * cd + 1))
    need (len != 0 && len % 256 = 0) MISALIGNED (wd (16 * cd + 2))
    need (off_ + len ≤ p.len) REFUSED_BOUNDS (laneInfo ca 0 0 off_)
    x.s.emptyReg (x.regRef cd) 0
    let (s, gid) := x.s.fresh
    let c := p.child gid (x.regRef cd) k off_ len (x.parentIdx ca)
    let s := s.setGrant { p with st := if k == .s then .frozen else .lent, children := p.children + 1 }
    .ok (.done { s with grants := s.grants ++ [c] } x.w .next)

/-- A wave of a group by its index, unless it has ended. -/
def State.waveAt? (s : State) (gu idx : Nat) : Option Wave :=
  s.waves.find? fun w => w.group == gu && w.index == idx && w.st != .ended

/-- The target register of child i of a SPLIT, if it may take the child (R167). -/
def Iss.splitTarget (x : Iss) (d i : Nat) (toRegs : Bool) : Chk RegRef :=
  if toRegs then do
    let r := x.regRef (d + i)
    x.s.emptyReg r (x.parentIdx (d + i))
    .ok r
  else match x.s.waveAt? x.g.uid i with
    | none => .error (.trap REGION_STATE (stateInfo d 7 i))
    | some w => do
      let r : RegRef := { grp := false, owner := w.uid, code := d }
      x.s.emptyReg r i
      .ok r

/-- The source of a SPLIT: an X grant that is HELD. The trap of one that is not names the wave index of the first target
(Table 7.4). -/
def Iss.splitSource (x : Iss) (a d : Nat) (toRegs : Bool) : Chk Grant :=
  match x.usable a false [.x] 6 with
  | .error (.trap code info) =>
    .error (.trap code (if toRegs && code == REGION_STATE then info + wd (8192 * (x.parentIdx d % 512)) else info))
  | c => c

/-- The children of a SPLIT. -/
def addChildren (p : Grant) (len pwave : Nat) : List RegRef → Nat → State → State
  | [], _, s => s
  | r :: rs, i, s =>
    let (s, gid) := s.fresh
    addChildren p len pwave rs (i + 1) { s with grants := s.grants ++ [p.child gid r .x (i * len) len pwave] }

/-- SPLIT divides an X grant (R167). -/
def execSplit (h : Hd) (d a : GCode) (toRegs : Bool) (k : BitVec 6) (s : State) : Out :=
  execWord (.split h d a toRegs k) h .scalar s fun x _ => Chk.eff do
    let n := k.toNat
    let p ← x.splitSource a.toNat d.toNat toRegs
    need (p.len % (256 * n) = 0) MISALIGNED (wd (16 * a.toNat + 2))
    let rs ← (List.range n).mapM fun i => x.splitTarget d.toNat i toRegs
    let s := x.s.setGrant { p with st := .lent, children := n }
    .ok (.done (addChildren p (p.len / n) (x.parentIdx a.toNat) rs 0 s) x.w .next)

/-- JOIN makes a LENT register HELD again once its children are back (R168). -/
def execJoin (h : Hd) (a : GCode) (s : State) : Out :=
  execWord (.join h a) h .scalar s fun x _ => Chk.eff do
    let r := x.regRef a.toNat
    x.s.regFault r
    match x.s.reg? r with
    | none => .error (.trap REGION_STATE (stateInfo a.toNat 0 0))
    | some g =>
      if g.st == .returning then .error (.trap REGION_STATE (stateInfo a.toNat g.st.code 0))
      else if g.st == .waiting || g.children != 0 then .error .wait
      else if g.st == .lent then
        let at_ := x.s.holderAt r
        match x.s.newTag? at_.1 at_.2 [g.tag] g.ia g.len with
        | none => .error .wait
        | some (s, t) => .ok (.done (s.setGrant { g with st := .held, tag := t }) x.w .next)
      else .ok (.done x.s x.w .next)

/-- RTN returns a grant (R169, Table 7.3). With a WAITING register's request goes the pending write of sf (DESIGN CHOICE,
assumption 97). -/
def execRtn (h : Hd) (a : GCode) (s : State) : Out :=
  execWord (.rtn h a) h .scalar s fun x _ => Chk.eff do
    let r := x.regRef a.toNat
    x.s.regFault r
    match x.s.reg? r with
    | none => .ok (.done x.s x.w .next)
    | some g =>
      if g.st == .lent || g.st == .frozen then .error (.trap REGION_STATE (stateInfo a.toNat g.st.code 0))
      else
        let s := if g.st == .returning then x.s else (x.s.setGrant { g with by_ := x.w.uid }).beginReturn g.gid
        let drop (w : Wave) : Wave := { w with vpend := w.vpend.filter fun v => !(g.st == .waiting && v.id == g.gid) }
        .ok (.done { s with waves := s.waves.map drop } (drop x.w) .next)

/-- The report word of RGQ (Table 7.7). -/
def rgqWord (vdies : BitVec 32) (code : Nat) : Option Grant → Word
  | none => wd (0xF0000007F0 + 8 * b2n (16 ≤ code))
  | some g =>
    let home := if 8 ≤ g.home then 8 else (virtDie? vdies g.home).getD 9
    let pw := match g.parent with
      | some (_, w, _) => w
      | none => 0
    let pr := match g.parent with
      | some (_, _, c) => c
      | none => 31
    wd (g.tag % 4096 * 2 ^ 40 + home * 2 ^ 36 + g.children % 65536 * 2 ^ 20 + pw % 512 * 2 ^ 11 + pr * 64 +
      kindNum g.kind * 16 + 8 * b2n (16 ≤ code) + g.st.code)

/-- RGQ reports a region register (R171). -/
def execRgq (h : Hd) (d : SReg) (a : GCode) (s : State) : Out :=
  execWord (.rgq h d a) h .scalar s fun x _ =>
    let g := x.s.reg? (x.regRef a.toNat)
    let n := d.toNat
    let w := ((x.w.sset n ((g.map (·.va)).getD 0)).sset (n + 1) (wd ((g.map (·.len)).getD 0))).sset (n + 2)
      (rgqWord x.c.vdies a.toNat g)
    let r := Iss.vlate x.s w [.sreg n, .sreg (n + 1), .sreg (n + 2)]
    .done r.1 r.2 .next

/-- The target register of an RGMV, with the wave index that its traps report (R170). -/
def Iss.rgmvTarget (x : Iss) (d widx : Nat) : Chk RegRef :=
  if 16 ≤ d then .ok (x.regRef d)
  else match x.s.waveAt? x.g.uid widx with
    | none => .error (.trap REGION_STATE (stateInfo d 7 widx))
    | some w => .ok { grp := false, owner := w.uid, code := d }

/-- RGMV moves a grant to another register; O4 completes the move (R170). -/
def execRgmv (h : Hd) (d a : GCode) (b : SReg) (s : State) : Out :=
  execWord (.rgmv h d a b) h .scalar s fun x _ => Chk.eff do
    let r := x.regRef a.toNat
    let widx := if d.toNat < 16 then (x.sreg b.toNat).toNat else 0
    x.s.regFault r
    match x.s.reg? r with
    | none => .error (.trap REGION_STATE (stateInfo a.toNat 0 widx))
    | some g =>
      if g.st == .waiting then .error .wait
      else if g.st != .held || g.children != 0 then .error (.trap REGION_STATE (stateInfo a.toNat g.st.code widx))
      else
        let t ← x.rgmvTarget d.toNat widx
        x.s.emptyReg t widx
        let same := !r.grp && !t.grp && (x.s.wave? t.owner).any fun v => v.core == x.w.core
        .ok (.done (x.s.setGrant { g with reg := t, st := .waiting, derive := some (.moved !same) }) x.w .next)

/-! Ordering instructions -/

/-- FENCE holds the wave until the accesses before it meet the scope's condition (R208). -/
def execFence (h : Hd) (sc : Scope) (s : State) : Out :=
  execWord (.fence h sc) h .scalar s fun x _ =>
    let r := x.s.fresh
    .done r.1 { x.w with hold := .fence sc r.2 } .next

/-- The wave holds the stamp (R212). -/
def Iss.holder (x : Iss) : Bool :=
  x.k.stamp.any fun st => st.passing.isNone && !st.retired && !st.moving && st.grp == x.g.grp && st.wave == x.w.index

/-- STMPW holds the wave until it holds the stamp (R213). -/
def execStmpw (h : Hd) (s : State) : Out :=
  execWord (.stmpw h) h .scalar s fun x _ =>
    if !x.det || x.holder then .done x.s x.w .next
    else if x.w.passed then .trap STAMP_ORDER 2
    else .done x.s { x.w with hold := .stmpw } .next

/-- STMPP passes the stamp; O12 moves it on (R213). -/
def execStmpp (h : Hd) (s : State) : Out :=
  execWord (.stmpp h) h .scalar s fun x _ =>
    if !x.det then .done x.s x.w .next
    else if !x.holder then .trap STAMP_ORDER 1
    else
      let r := x.s.fresh
      let k := { x.k with stamp := x.k.stamp.map fun st => { st with passing := some r.2 } }
      .done (r.1.setKernel k) { x.w with passed := true } .next

/-- CSEAL seals a copy batch (R209). -/
def execCseal (h : Hd) (d : SReg) (s : State) : Out :=
  execWord (.cseal h d) h .scalar s fun x _ =>
    let n := x.w.batch + 1
    let r := Iss.vlate x.s ({ x.w with batch := n }.sset d.toNat n) [.sreg d.toNat]
    .done r.1 r.2 .next

/-- CWAIT holds the wave until its sealed copies are complete (R210). -/
def execCwait (h : Hd) (a : SReg) (s : State) : Out :=
  execWord (.cwait h a) h .scalar s fun x _ =>
    .done x.s { x.w with hold := .cwait (min (x.sreg a.toNat).toNat x.w.batch.toNat) } .next

end Sys2Proof.Machine
end

