-- ==== Sys2Proof/Machine/Barrier.lean ====
section
/-! DEFINITION. The barrier instructions and the events that act on barriers (R217 to R228). -/

namespace Sys2Proof.Machine

open Sys2Proof

/-- %tinfo of BAR_OVERFLOW (Table 10.3). -/
def barInfo (name reason : Nat) : Word := wd (name + 4096 * reason)

/-- The largest PENDING (Table 10.1). -/
def pendingMax : Nat := 16777215

/-- A barrier of a group; none while it is IDLE. -/
def Group.bar? (g : Group) (name : Nat) : Option Bar := g.bars.find? (·.name == name)
/-- A group's barriers with one replaced or added. -/
def Group.setBar (g : Group) (b : Bar) : Group :=
  if (g.bar? b.name).isSome then { g with bars := replace (·.name == b.name) b g.bars } else { g with bars := g.bars ++ [b] }

/-- The report word of a barrier (Table 10.1). -/
def barWord : Option Bar → Word
  | none => 0
  | some b => wd (b.st * 2 ^ 57 + b2n b.phase * 2 ^ 56 + b.pending * 2 ^ 32 + b.arrived % 65536 * 65536 + b.count)

/-- Physical barriers in use on a group's lowest-numbered core (R218). -/
def State.physBars (s : State) (g : Group) : Nat :=
  ((s.groups.filter fun x => x.die == g.die && x.cores.head? == g.cores.head? &&
    (x.st == .placed || x.st == .running || x.st == .exiting)).map fun x => x.bars.length).sum

/-- An arrival (Table 10.2, BARR). -/
def Bar.arrive (b : Bar) : Bar :=
  if b.st = 2 then { b with st := 1, arrived := 1, acted := true } else { b with arrived := b.arrived + 1, acted := true }

/-- An arrival takes effect (O7). -/
def State.arriveAt (s : State) (gu name : Nat) : State :=
  match s.group? gu with
  | none => s
  | some g => match g.bar? name with
    | none => s
    | some b => s.setGroup (g.setBar b.arrive)

/-- A chunk accounts bytes against a barrier (Table 10.2, R221); an underflow is delivered to the wave that issued the
copy. -/
def State.account (s : State) (gu name n wave : Nat) (pc : Word) : State :=
  match s.group? gu with
  | none => s
  | some g =>
    let fault : FaultRec := { code := BAR_OVERFLOW, info := barInfo name 1, pc := pc }
    match g.bar? name with
    | none => s.defer wave fault
    | some b =>
      if b.pending < n then (s.setGroup (g.setBar { b with st := 1, pending := 0 })).defer wave fault
      else s.setGroup (g.setBar { b with st := 1, pending := b.pending - n, acted := true })

/-- BINIT arms a barrier (R223). With a count of 0 on an ARMED phase in use, where Table 10.2 gives both trap 4 and trap 2, it reports
4 (DESIGN CHOICE, assumption 131). -/
def execBinit (h : Hd) (a : SReg) (name : BitVec 11) (s : State) : Out :=
  execWord (.binit h a name) h .scalar s fun x _ =>
    let n := name.toNat
    let c := fld (x.sreg a.toNat) 0 16
    let p := fld (x.sreg a.toNat) 16 24
    let old := x.g.bar? n
    if old.any fun b => b.st == 1 && !(b.arrived == 0 && b.pending == b.reload) then .trap BAR_OVERFLOW (barInfo n 4)
    else if c = 0 then .trap BAR_OVERFLOW (barInfo n 2)
    else if old.isNone && decide (2048 ≤ x.s.physBars x.g) then .wait
    else
      let b : Bar := { name := n, st := 1, phase := (old.map (·.phase)).getD false, pending := p, arrived := 0, count := c,
                       reload := p, acted := true }
      .done (x.s.setGroup (x.g.setBar b)) x.w .next

/-- BARR: the wave's arrival, at once or after its older outbox entries (R224, O7). -/
def execBarr (h : Hd) (d : SReg) (wait : Bool) (name : BitVec 11) (s : State) : Out :=
  execWord (.barr h d wait name) h .scalar s fun x _ =>
    let n := name.toNat
    match x.g.bar? n with
    | none => .trap BAR_OVERFLOW (barInfo n 5)
    | some b =>
      if b.st = 1 && b.arrived = b.count then .trap BAR_OVERFLOW (barInfo n 3)
      else
        let r := Iss.vlate x.s (x.w.sset d.toNat (wd (b2n b.phase))) [.sreg d.toNat]
        let w := { r.2 with hold := if wait then .barrier n true none else .none }
        if w.outbox.isEmpty then .done (r.1.arriveAt x.g.uid n) w .next
        else
          let f := r.1.fresh
          .done f.1 { w with arrives := w.arrives ++ [(n, f.2)] } .next

/-- BEXP adds to the bytes expected (R225). -/
def execBexp (h : Hd) (a : SReg) (name : BitVec 11) (s : State) : Out :=
  execWord (.bexp h a name) h .scalar s fun x _ =>
    let n := name.toNat
    match x.g.bar? n with
    | none => .trap BAR_OVERFLOW (barInfo n 5)
    | some b =>
      let p := b.pending + (x.sreg a.toNat).toNat
      if pendingMax < p then .trap BAR_OVERFLOW (barInfo n 0)
      else .done (x.s.setGroup (x.g.setBar { b with st := 1, pending := p, acted := true })) x.w .next

/-- BWAIT holds the wave until the phase differs from its token, or without a token until the next completion (R226). -/
def execBwait (h : Hd) (a : SReg) (name : BitVec 11) (s : State) : Out :=
  execWord (.bwait h a name) h .scalar s fun x _ =>
    let n := name.toNat
    let past := match x.g.bar? n with
      | none => false
      | some b => a != 0 && b.phase != (x.sreg a.toNat).getLsbD 0
    .done x.s { x.w with hold := if past then .none else .barrier n false none } .next

/-- BTEST reports a barrier (R227). -/
def execBtest (h : Hd) (d a : SReg) (name : BitVec 11) (s : State) : Out :=
  execWord (.btest h d a name) h .scalar s fun x _ =>
    let b := x.g.bar? name.toNat
    let w := x.w.sset d.toNat (barWord b)
    let differs := ((b.map (·.phase)).getD false) != (x.sreg a.toNat).getLsbD 0
    let w := if h.x == 4 then w.sfSet (if differs then 4 else 0) else w
    let r := Iss.vlate x.s w ([Loc.sreg d.toNat] ++ if h.x == 4 then [.sf] else [])
    .done r.1 r.2 .next

/-- The completion test at the end of a clk (R219, R220): the waiters of a completed phase are released at the next clk,
or 12 clk later when the group spans cores. -/
def State.completeBar (s : State) (gu name : Nat) : State :=
  match s.group? gu with
  | none => s
  | some g => match g.bar? name with
    | none => s
    | some b =>
      if !b.acted then s
      else if b.st = 1 && b.arrived = b.count && b.pending = 0 then
        let at_ := s.clk + (if g.cores.length = 1 then 1 else 12)
        let s := s.setGroup (g.setBar { b with st := 2, phase := !b.phase, arrived := 0, pending := b.reload, acted := false })
        { s with waves := s.waves.map fun w =>
            if w.group != gu then w
            else match w.hold with
              | .barrier n own none =>
                if n == name && !(own && w.arrives.any fun p => p.1 == name) then { w with hold := .barrier n own (some at_) } else w
              | _ => w }
      else s.setGroup (g.setBar { b with acted := false })

/-- Every barrier tested at the end of a clk. -/
def State.completeBars (s : State) : State :=
  s.groups.foldl (fun s g => (g.bars.filter (·.acted)).foldl (fun s b => s.completeBar g.uid b.name) s) s

/-- BARRIER_RELEASE: waves whose phase has completed go on (R219). -/
def execBarrierRelease (group name : Nat) (s : State) : Out :=
  execEvent s fun s =>
    let go (w : Wave) : Bool := w.group == group && match w.hold with
      | .barrier n _ (some c) => n == name && decide (c ≤ s.clk)
      | _ => false
    if s.waves.any go then some { s with waves := s.waves.map fun w => if go w then { w with hold := .none } else w } else none

/-- The oldest BARR of a wave arrives once its older outbox entries have drained (O7). -/
def State.arriveHead? (s : State) (wave : Nat) : Option State := do
  let w ← s.wave? wave
  let g ← s.group? w.group
  match w.arrives with
  | [] => none
  | (n, q) :: r =>
    if w.outbox.any fun e => decide (e.seq < q) then none
    else some ((s.setWave { w with arrives := r }).arriveAt g.uid n)

/-- ARRIVE (O7). -/
def execArrive (wave : Nat) (s : State) : Out := execEvent s fun s => s.arriveHead? wave

end Sys2Proof.Machine
end

