-- ==== Sys2Proof/Machine/Copy.lean ====
section
/-! DEFINITION. The channel and copy instructions (R229 to R248): channels, descriptors, the checks of R240. -/

namespace Sys2Proof.Machine

open Sys2Proof

/-! Channels (R230) -/

/-- Entry size in bytes (Table 11.3). -/
def Chan.size (c : Chan) : Nat := 16 * 2 ^ c.esz
/-- Entries present. -/
def Chan.fill (c : Chan) : Nat := (c.p - c.q).toNat
/-- Scratchpad offset of an entry by its count. -/
def Chan.at_ (c : Chan) (n : BitVec 32) : Nat := c.base + n.toNat % c.cap * c.size
/-- There is room for `n` further entries. -/
def Chan.room (c : Chan) (n : Nat) : Bool := decide (c.fill + c.v + n ≤ c.cap)

/-- P advances past entries that are written whole. -/
def Chan.advP (c : Chan) : Nat → Chan
  | 0 => c
  | n + 1 =>
    if c.written.contains c.p then
      Chan.advP { c with p := c.p + 1, v := c.v - 1, written := c.written.filter (· != c.p) } n
    else c
/-- An entry has been written whole. -/
def Chan.land (c : Chan) (n : BitVec 32) : Chan := Chan.advP { c with written := c.written ++ [n] } (c.written.length + 1)
/-- Q advances past entries that have been read. -/
def Chan.advQ (c : Chan) : Nat → Chan
  | 0 => c
  | n + 1 =>
    if c.read.contains c.q then
      Chan.advQ { c with q := c.q + 1, claims := c.claims - 1, read := c.read.filter (· != c.q) } n
    else c
/-- A claimed entry has been read. -/
def Chan.done (c : Chan) (n : BitVec 32) : Chan := Chan.advQ { c with read := c.read ++ [n] } (c.read.length + 1)

/-- A channel of a group. -/
def Group.chan? (g : Group) (n : Nat) : Option Chan := g.chans.find? (·.ch == n)
/-- A group's channels with one replaced or added. -/
def Group.setChan (g : Group) (c : Chan) : Group :=
  if (g.chan? c.ch).isSome then { g with chans := replace (·.ch == c.ch) c g.chans } else { g with chans := g.chans ++ [c] }

/-- Channels that a copy operation names. -/
def CopyOp.chans (o : CopyOp) : List Nat := [o.dst, o.src].filterMap fun e => match e with
  | .chan c => some c
  | _ => none

/-- Physical channels in use on a group's lowest-numbered core (R229). -/
def State.physChans (s : State) (g : Group) : Nat :=
  ((s.groups.filter fun x => x.die == g.die && x.cores.head? == g.cores.head? &&
    (x.st == .placed || x.st == .running || x.st == .exiting)).map fun x => x.chans.length).sum

/-- %tinfo of CHANNEL_MISUSE (R231). -/
def chanInfo (ch reason : Nat) : Word := wd (ch + 16 * reason)

/-- CHINIT initialises a channel (R233). -/
def execChinit (h : Hd) (d : BitVec 4) (a : SReg) (s : State) : Out :=
  execWord (.chinit h d a) h .scalar s fun x _ =>
    let n := d.toNat
    let v := x.sreg a.toNat
    let base := fld v 0 20
    let esz := fld v 20 3
    let cap := fld v 24 16
    if fld v 40 24 != 0 || v.getLsbD 23 || decide (4 < esz) || cap = 0 then .trap CHANNEL_MISUSE (chanInfo n 1)
    else if base % 16 != 0 || decide (x.scr < base + cap * (16 * 2 ^ esz)) then .trap CHANNEL_MISUSE (chanInfo n 2)
    else
      let old := x.g.chan? n
      let busy := old.any fun c => c.fill != 0 || c.v != 0 || x.s.ops.any fun o => o.group == x.g.uid && o.chans.contains n
      if busy then .trap CHANNEL_MISUSE (chanInfo n 3)
      else if old.isNone && decide (16 ≤ x.s.physChans x.g) then .wait
      else
        let c : Chan := { ch := n, base := base, esz := esz, cap := cap, p := 0, q := 0, v := 0, claims := 0, written := [],
                          read := [] }
        .done (x.s.setGroup (x.g.setChan c)) x.w .next

/-- CHPUSH offers one entry to each named channel and holds the wave until all have accepted (R234). -/
def execChpush (h : Hd) (a : VCode) (b : SReg) (s : State) : Out :=
  execWord (.chpush h a b) h (.vfix 1) s fun x _ =>
    let names := (List.range 16).filter fun n => (x.sreg b.toNat).getLsbD n
    match names.find? fun n => (x.g.chan? n).isNone with
    | some n => .trap CHANNEL_MISUSE (chanInfo n 0)
    | none =>
      if names.isEmpty then .done x.s x.w .next
      else
        let bytes := (List.range 32).flatMap fun l => leBytes 8 (x.vreg a.toNat l).toNat
        let (s, q) := x.s.fresh
        let ents := names.map fun n =>
          ({ seq := q, pc := x.p.pc, code := 31, tgt := .sp x.g.uid, kind := .chan n (bytes.take (((x.g.chan? n).map (·.size)).getD 0)) } : OEnt)
        .done s { x.w with outbox := x.w.outbox ++ ents, hold := .chpush q } .next

/-- CHPOP claims the next entry of a channel; it does not issue while there is none (R235). Its result is read at the
claim, and Q advances with VARIABLE_LATENCY_WRITE. -/
def execChpop (h : Hd) (d : VCode) (a : BitVec 4) (s : State) : Out :=
  execWord (.chpop h d a) h (.vfix 1) s fun x _ =>
    let n := a.toNat
    match x.g.chan? n with
    | none => .trap CHANNEL_MISUSE (chanInfo n 0)
    | some c =>
      if c.fill ≤ c.claims then .wait
      else
        let ix := c.q + BitVec.ofNat 32 c.claims
        let o := c.at_ ix
        let bytes := (List.range c.size).map fun i => x.s.byteAt (x.g.spKey (o + i))
        let vals := (List.range 32).map fun l => wd (leNat ((bytes.drop (8 * l)).take 8))
        let (s, id) := x.s.fresh
        let w := { x.w with win := winSetWords x.w.win (x.frame.vslot d.toNat) vals,
                            vpend := x.w.vpend ++ [{ id := id, locs := (x.frame.locs? (.v d.toNat 1)).getD [],
                                                     chan := some (n, ix) }] }
        .done (s.setGroup (x.g.setChan { c with claims := c.claims + 1 })) w .next

/-- The report word of a channel (Table 11.4). -/
def State.chanWord (s : State) (gu n : Nat) : Option Chan → Word
  | none => 0
  | some c =>
    let waiting := (s.ops.filter fun o => o.group == gu && o.chans.contains n && !o.fired &&
      (s.core o.core).engineQ.contains o.id).length
    wd (2 ^ 63 + c.esz * 2 ^ 56 + c.cap * 2 ^ 40 + c.fill % 65536 * 2 ^ 24 + min waiting 255 * 65536 + c.q.toNat % c.cap)

/-- CHSTAT reports a channel (R236). -/
def execChstat (h : Hd) (d : SReg) (a : BitVec 4) (s : State) : Out :=
  execWord (.chstat h d a) h .scalar s fun x _ =>
    let r := Iss.vlate x.s (x.w.sset d.toNat (x.s.chanWord x.g.uid a.toNat (x.g.chan? a.toNat))) [.sreg d.toNat]
    .done r.1 r.2 .next

/-! Copy operations -/

/-- The control word of a copy operation (Table 11.5). -/
structure Ctl where
  foff : Nat
  flg : Bool
  freg : Nat
  acc : Option Nat
deriving DecidableEq, Repr

/-- The control word, checked (R239). -/
def ctlOf (v : Word) : Chk Ctl := do
  need (fld v 18 6 = 0 && !(v.getLsbD 17 && decide (24 ≤ fld v 12 5))) RESERVED_FIELD 0
  .ok { foff := 8 * fld v 24 40, flg := v.getLsbD 17, freg := fld v 12 5,
        acc := if v.getLsbD 11 then some (fld v 0 11) else none }

/-- A well-formed descriptor: its numbers, its length, and the range of each side, start and extent; none for an indexed
side (R246). -/
structure Desc where
  nums : List Nat
  len : Nat
  dst : Option (Nat × Nat)
  src : Option (Nat × Nat)
  index : Option (Nat × Nat)
deriving DecidableEq, Repr

/-- The descriptor of COPY. -/
def descCopy (r : Nat → Word) : Chk Desc := do
  need (fld (r 2) 32 32 = 0) RESERVED_FIELD 9
  let n := fld (r 2) 0 32
  let do_ := (r 0).toNat
  let so := (r 1).toNat
  .ok { nums := [do_, so], len := n, dst := some (do_, n), src := some (so, n), index := none }

/-- The descriptor of COPY2. -/
def descCopy2 (r : Nat → Word) : Chk Desc := do
  let x := fld (r 2) 0 24
  let y := fld (r 2) 24 16
  let z := fld (r 2) 40 16
  need (fld (r 2) 56 8 = 0 && x != 0 && y != 0 && z != 0) RESERVED_FIELD 9
  let dr := fld (r 3) 0 32
  let dp := fld (r 3) 32 32
  let sr := fld (r 4) 0 32
  let sp := fld (r 4) 32 32
  let do_ := (r 0).toNat
  let so := (r 1).toNat
  .ok { nums := [do_, so, x, y, z, dr, dp, sr, sp], len := x * y * z,
        dst := some (do_, (z - 1) * dp + (y - 1) * dr + x), src := some (so, (z - 1) * sp + (y - 1) * sr + x), index := none }

/-- The descriptor of GATH, or with `scat` of SCAT. -/
def descIndexed (scat : Bool) (r : Nat → Word) : Chk Desc := do
  let code := fld (r 1) 0 4
  need (code ≤ 8) RESERVED_FIELD 9
  let io := fld (r 2) 32 32
  need (io % 4 = 0) MISALIGNED (wd (31 * 16 + 1))
  let n := fld (r 2) 0 32
  let z := 2 ^ code
  let do_ := (r 0).toNat
  let so := (r 1).toNat - code
  .ok { nums := [do_, so, io, n, z], len := n * z, dst := if scat then none else some (do_, n * z),
        src := if scat then some (so, n * z) else none, index := some (io, 4 * n) }

/-- A range lies within a store of `size` bytes (R240). A range without a byte touches nothing. -/
def inRange (code size : Nat) (r : Nat × Nat) : Chk Unit :=
  need (r.2 = 0 || decide (r.1 + r.2 ≤ size)) REFUSED_BOUNDS (laneInfo code 0 0 r.1)

/-- One endpoint checked (R240, step 4). -/
def Iss.endpoint (x : Iss) (e : Endp) (sink : Bool) (range : Option (Nat × Nat)) (len : Nat) : Chk End :=
  match e with
  | .region c => do
    let g ← x.usable c.toNat (!sink) (if sink then [.x] else [.x, .s, .a]) (if sink then 5 else 4)
    match range with
    | some r => inRange c.toNat g.len r
    | none => .ok ()
    .ok (.grant g.gid)
  | .sp => do
    match range with
    | some r => inRange 31 x.scr r
    | none => .ok ()
    .ok .sp
  | .chan c =>
    match x.g.chan? c.toNat with
    | none => .error (.trap CHANNEL_MISUSE (chanInfo c.toNat 0))
    | some ch => do
      need (len % ch.size = 0) CHANNEL_MISUSE (chanInfo c.toNat 5)
      need (len / ch.size ≤ ch.cap) CHANNEL_MISUSE (chanInfo c.toNat 4)
      need range.isSome CHANNEL_MISUSE (chanInfo c.toNat 6)
      .ok (.chan c.toNat)

/-- The kind of the grant in a register, for a refusal; X when it is EMPTY. -/
def Iss.kindAt (x : Iss) (code : Nat) : Kind := ((x.s.reg? (x.regRef code)).map (·.kind)).getD .x

/-- The flag rule (R242): the flag's grant and its IA. A flag that is out of bounds at another home reports its bounds (DESIGN CHOICE,
assumption 132). -/
def Iss.flagRule (x : Iss) (ctl : Ctl) (dst : Endp) (e : End) : Chk (Option (Nat × Nat)) :=
  match e with
  | .grant gid =>
    match x.s.grant? gid with
    | none => .ok none
    | some g =>
      if ctl.flg then do
        let f ← x.usable ctl.freg false [.a] 8
        inBounds ctl.freg f.len 8 [(0, ctl.foff)]
        need (f.home == g.home) REFUSED_KIND (kindInfo ctl.freg f.kind 8)
        .ok (some (f.gid, f.ia + ctl.foff))
      else
        let code := match dst with
          | .region c => c.toNat
          | _ => 31
        do
          need (g.home < 8) REFUSED_KIND (kindInfo code g.kind 8)
          .ok none
  | _ => do
    need (!ctl.flg) REFUSED_KIND (kindInfo ctl.freg (x.kindAt ctl.freg) 8)
    .ok none

/-- The engine queue of the issuing core has a free entry (R237). -/
def Iss.engineRoom (x : Iss) : Bool := decide (x.core.engineQ.length < 64)

/-- A copy operation enters the engine queue (R203, R237). -/
def Iss.enterEngine (x : Iss) (s : State) (o : CopyOp) : State :=
  { s with ops := s.ops ++ [o],
           cores := s.cores.modify x.coreIx fun c => { c with engineQ := c.engineQ ++ [o.id] } }

/-- COPY, COPY2, GATH and SCAT after decode (R240). A copy of 0 bytes performs no chunk; only its flag is left (R241,
R242). -/
def Iss.copy (x : Iss) (kind : OpKind) (d a : Endp) (b c : SReg) (desc : (Nat → Word) → Chk Desc) : Eff :=
  Chk.eff do
    let ctl ← ctlOf (x.sreg c.toNat)
    let ds ← desc fun i => x.sreg (b.toNat + i)
    let dst ← x.endpoint d true ds.dst ds.len
    match d, a with
    | .chan i, .chan j => need (i != j) CHANNEL_MISUSE (chanInfo i.toNat 7)
    | _, _ => .ok ()
    let src ← x.endpoint a false ds.src ds.len
    match ds.index with
    | some r => inRange 31 x.scr r
    | none => .ok ()
    match ctl.acc with
    | some bar => need (ds.len ≤ pendingMax) BAR_OVERFLOW (barInfo bar 0)
    | none => .ok ()
    let flag ← x.flagRule ctl d dst
    if !x.engineRoom then .error .wait
    else
      let (s, id) := x.s.fresh
      let o := { CopyOp.new x id kind dst src ds.nums ds.len with acc := ctl.acc, flag := flag }
      if 0 < ds.len then .ok (.done (x.enterEngine s o) x.w .next)
      else if flag.isNone then .ok (.done x.s x.w .next)
      else .ok (.done { s with ops := s.ops ++ [{ o with started := true }] } x.w .next)

/-- COPY (R246). -/
def execCopy (h : Hd) (d a : Endp) (b c : SReg) (s : State) : Out :=
  execWord (.copy h d a b c) h .scalar s fun x _ => x.copy .copy d a b c descCopy

/-- COPY2 (R246). -/
def execCopy2 (h : Hd) (d a : Endp) (b c : SReg) (s : State) : Out :=
  execWord (.copy2 h d a b c) h .scalar s fun x _ => x.copy .copy2 d a b c descCopy2

/-- GATH (R246). -/
def execGath (h : Hd) (d a : Endp) (b c : SReg) (s : State) : Out :=
  execWord (.gath h d a b c) h .scalar s fun x _ => x.copy .gath d a b c (descIndexed false)

/-- SCAT (R246). -/
def execScat (h : Hd) (d a : Endp) (b c : SReg) (s : State) : Out :=
  execWord (.scat h d a b c) h .scalar s fun x _ => x.copy .scat d a b c (descIndexed true)

/-- ROUTE (R247). Its drop count is a variable-latency result (R232). -/
def execRoute (h : Hd) (d a b c : SReg) (s : State) : Out :=
  execWord (.route h d a b c) h .scalar s fun x _ => Chk.eff do
    let ctl ← ctlOf (x.sreg c.toNat)
    let v := x.sreg b.toNat
    let t := fld v 0 16
    let k := fld v 16 4
    let e := fld v 20 12
    let cp := fld v 32 16
    need (fld v 48 16 = 0 && t != 0 && k != 0 && decide (k ≤ 8) && e != 0 && cp != 0) RESERVED_FIELD 9
    let i := (x.sreg a.toNat).toNat
    let o := (x.sreg (a.toNat + 1)).toNat
    let dr := (x.sreg (a.toNat + 2)).toNat
    need (i % 16 = 0 && o % 16 = 0 && dr % 16 = 0) MISALIGNED (wd (31 * 16 + 1))
    inRange 31 x.scr (i, 2 * t * k)
    inRange 31 x.scr (o, 4 * e * cp)
    inRange 31 x.scr (o + 4 * cp * e, 4 * e)
    inRange 31 x.scr (dr, 8 * t * k)
    let len := 4 * e * (cp + 1) + 8 * t * k
    match ctl.acc with
    | some bar => need (len ≤ pendingMax) BAR_OVERFLOW (barInfo bar 0)
    | none => .ok ()
    need (!ctl.flg) REFUSED_KIND (kindInfo ctl.freg (x.kindAt ctl.freg) 8)
    if !x.engineRoom then .error .wait
    else
      let (s, id) := x.s.fresh
      let op := { CopyOp.new x id .route .sp .sp [i, o, dr, t, k, e, cp] len with acc := ctl.acc, sreg := d.toNat }
      .ok (.done (x.enterEngine s op) { x.w with vpend := x.w.vpend ++ [{ id := id, locs := [.sreg d.toNat], chan := none }] }
        .next)

end Sys2Proof.Machine
end

