-- ==== Sys2Proof/Machine/Float.lean ====
section
/-! DEFINITION. The floating-point instructions and the activation table, class 2 (R118 to R127). -/

namespace Sys2Proof.Machine

open Sys2Proof

/-- Results of the sub-elements of a lane, with the flags and sticky bits they raise (R119). -/
structure LaneRes where
  r : Word
  fl : BitVec 4
  st : Word
deriving DecidableEq, Repr

/-- A float operation on every sub-element of a lane; the flags are those of sub-element 0 (R119). -/
def fSubs (f : FType) (op : Nat → FRes) : LaneRes :=
  let rs := (List.range (64 / fWidth f)).map op
  { r := ofSubs (fWidth f) fun j => (rs.getD j { r := 0, st := 0 }).r,
    fl := fFlags f (op 0).r, st := rs.foldl (fun m x => m ||| x.st) 0 }

/-- Results of a vector word written to its lanes and flags, with the sticky bits of its active lanes (R42, R57, R60). -/
def Iss.putLanes (x : Iss) (h : Hd) (lat : Nat) (d : Option VCode) (res : List (Nat × LaneRes)) : Wave :=
  let w := match d with
    | some d => x.w.writeV x.frame x.clk lat d.toNat (res.map fun (p : Nat × LaneRes) => (p.1, p.2.r))
    | none => x.w
  let w := if 4 ≤ h.x.toNat then w.writeCc x.clk lat (h.x.toNat - 4) (res.map fun (p : Nat × LaneRes) => (p.1, p.2.fl)) else w
  w.raise (x.clk + lat) (res.foldl (fun (m : Word) (p : Nat × LaneRes) => m ||| p.2.st) 0)

/-- A vector word that gives each active lane a result, its flags and sticky bits. -/
def laneOp (i : Instr) (h : Hd) (lat : Nat) (d : Option VCode) (g : Iss → Nat → LaneRes) (s : State) : Out :=
  execWord i h .vector s fun x act => .done x.s (x.putLanes h lat d (act.map fun l => (l, g x l))) .next

/-- A float operation of two sources. -/
def fBin (f : FType) (g : Nat → Nat → FRes) (a b : Word) : LaneRes :=
  fSubs f fun j => g (sub (fWidth f) a j) (sub (fWidth f) b j)

/-- A float operation of one source. -/
def fUna (f : FType) (g : Nat → FRes) (a : Word) : LaneRes := fSubs f fun j => g (sub (fWidth f) a j)

/-- Latency of FADD, FSUB, FMUL and FFMA (Table 3.7). -/
def addLat : FType → Nat
  | .f64 => 10
  | _ => 6

/-- FADD (Table 6.2). -/
def execFadd (h : Hd) (d a b : VCode) (f : FType) (rm : Rm) (s : State) : Out :=
  laneOp (.fadd h d a b f rm) h (addLat f) (some d) (fun x l => fBin f (fAdd f rm) (x.v a l) (x.v b l)) s

/-- FSUB (Table 6.2). -/
def execFsub (h : Hd) (d a b : VCode) (f : FType) (rm : Rm) (s : State) : Out :=
  laneOp (.fsub h d a b f rm) h (addLat f) (some d) (fun x l => fBin f (fSub f rm) (x.v a l) (x.v b l)) s

/-- FMUL (Table 6.2). -/
def execFmul (h : Hd) (d a b : VCode) (f : FType) (rm : Rm) (s : State) : Out :=
  laneOp (.fmul h d a b f rm) h (addLat f) (some d) (fun x l => fBin f (fMul f rm) (x.v a l) (x.v b l)) s

/-- FMIN (R36). -/
def execFmin (h : Hd) (d a b : VCode) (f : FType) (s : State) : Out :=
  laneOp (.fmin h d a b f) h 6 (some d) (fun x l => fBin f (fMinMax f false) (x.v a l) (x.v b l)) s

/-- FMAX (R36). -/
def execFmax (h : Hd) (d a b : VCode) (f : FType) (s : State) : Out :=
  laneOp (.fmax h d a b f) h 6 (some d) (fun x l => fBin f (fMinMax f true) (x.v a l) (x.v b l)) s

/-- FABS (Table 6.2). -/
def execFabs (h : Hd) (d a : VCode) (f : FType) (s : State) : Out :=
  laneOp (.fabs h d a f) h 6 (some d) (fun x l => fUna f (fun a => fSigned f false a) (x.v a l)) s

/-- FNEG (Table 6.2). -/
def execFneg (h : Hd) (d a : VCode) (f : FType) (s : State) : Out :=
  laneOp (.fneg h d a f) h 6 (some d) (fun x l => fUna f (fun a => fSigned f true a) (x.v a l)) s

/-- FCMP: the flags of Table 6.3 into cN of each active lane, of sub-element 0 (R121). -/
def execFcmp (h : Hd) (a b : VCode) (f : FType) (s : State) : Out :=
  laneOp (.fcmp h a b f) h 6 none (fun x l =>
    let r := fCmp f (sub (fWidth f) (x.v a l) 0) (sub (fWidth f) (x.v b l) 0)
    { r := 0, fl := r.1, st := r.2 }) s

/-- FCLASS: the bit of the class (R122). -/
def execFclass (h : Hd) (d a : VCode) (f : FType) (s : State) : Out :=
  laneOp (.fclass h d a f) h 6 (some d) (fun x l => fUna f (fun a => { r := 2 ^ fClass f a, st := 0 }) (x.v a l)) s

/-- FRCP (R123). -/
def execFrcp (h : Hd) (d a : VCode) (f : FType) (rm : Rm) (s : State) : Out :=
  laneOp (.frcp h d a f rm) h 14 (some d) (fun x l => fUna f (fRcp f rm) (x.v a l)) s

/-- FSQRT (R123). -/
def execFsqrt (h : Hd) (d a : VCode) (f : FType) (rm : Rm) (s : State) : Out :=
  laneOp (.fsqrt h d a f rm) h 14 (some d) (fun x l => fUna f (fSqrt f rm) (x.v a l)) s

/-- FRSQ (R123). -/
def execFrsq (h : Hd) (d a : VCode) (f : FType) (s : State) : Out :=
  laneOp (.frsq h d a f) h 14 (some d) (fun x l => fUna f (fRsq f) (x.v a l)) s

/-- FEXP2 (R123). -/
def execFexp2 (h : Hd) (d a : VCode) (f : FType) (s : State) : Out :=
  laneOp (.fexp2 h d a f) h 14 (some d) (fun x l => fUna f (fExp2 f) (x.v a l)) s

/-- FLOG2 (R123). -/
def execFlog2 (h : Hd) (d a : VCode) (f : FType) (s : State) : Out :=
  laneOp (.flog2 h d a f) h 14 (some d) (fun x l => fUna f (fLog2 f) (x.v a l)) s

/-- FSIN (R123). -/
def execFsin (h : Hd) (d a : VCode) (f : FType) (s : State) : Out :=
  laneOp (.fsin h d a f) h 14 (some d) (fun x l => fUna f (fSinCos f false) (x.v a l)) s

/-- FCOS (R123). -/
def execFcos (h : Hd) (d a : VCode) (f : FType) (s : State) : Out :=
  laneOp (.fcos h d a f) h 14 (some d) (fun x l => fUna f (fSinCos f true) (x.v a l)) s

/-- FTANH (R123). -/
def execFtanh (h : Hd) (d a : VCode) (f : FType) (s : State) : Out :=
  laneOp (.ftanh h d a f) h 14 (some d) (fun x l => fUna f (fTanh f) (x.v a l)) s

/-- FSCALE: the exponent is the sub-element of b, signed (R120). -/
def execFscale (h : Hd) (d a b : VCode) (f : FType) (rm : Rm) (s : State) : Out :=
  laneOp (.fscale h d a b f rm) h 6 (some d) (fun x l =>
    fBin f (fun a n => fScale f rm a (sInt (fWidth f) n)) (x.v a l) (x.v b l)) s

/-- FRINT (R120). -/
def execFrint (h : Hd) (d a : VCode) (f : FType) (rm : Rm) (s : State) : Out :=
  laneOp (.frint h d a f rm) h 6 (some d) (fun x l => fUna f (fRint f rm) (x.v a l)) s

/-- FFMA (R37). -/
def execFfma (h : Hd) (d a b c : VCode) (f : FType) (rm : Rm) (s : State) : Out :=
  laneOp (.ffma h d a b c f rm) h (addLat f) (some d) (fun x l =>
    fSubs f fun j => fFma f rm (sub (fWidth f) (x.v a l) j) (sub (fWidth f) (x.v b l) j) (sub (fWidth f) (x.v c l) j)) s

/-- FDOT2: two .f32 results from pairs of sixteen-bit values (R120). -/
def execFdot2 (h : Hd) (d a b c : VCode) (bf : Bool) (rm : Rm) (s : State) : Out :=
  laneOp (.fdot2 h d a b c bf rm) h 6 (some d) (fun x l =>
    fSubs .f32 fun j => fDot2 (if bf then .bf16 else .f16) rm (sub 16 (x.v a l) (2 * j)) (sub 16 (x.v b l) (2 * j))
      (sub 16 (x.v a l) (2 * j + 1)) (sub 16 (x.v b l) (2 * j + 1)) (sub 32 (x.v c l) j)) s

/-! The activation table (R124 to R127) -/

/-- A bank of the table. -/
def ActTable.bank (t : ActTable) (b : Bool) : ActBank := if b then t.bank1 else t.bank0
/-- A bank of the table replaced. -/
def ActTable.setBank (t : ActTable) (b : Bool) (k : ActBank) : ActTable :=
  if b then { t with bank1 := k } else { t with bank0 := k }

/-- The selector as words that issue at a clk see it: an ACTSWAP counts from the next clk on (R127). -/
def Core.selAt (c : Core) (clk : Nat) : Bool :=
  match c.swapAt with
  | some (t, old) => if t = clk then old else c.act.sel
  | none => c.act.sel

/-- (x − lo) × rstep rounded down, for finite values (R125). -/
def actIndex (x lo_ rstep : Fv) : Int :=
  match x, lo_, rstep with
  | .fin s m e, .fin t n k, .fin _ r q =>
    let b := min e k
    let v : Int := ((if s then -1 else 1) * ((m * 2 ^ (e - b).toNat : Nat) : Int) -
      (if t then -1 else 1) * ((n * 2 ^ (k - b).toNat : Nat) : Int)) * r
    if 0 ≤ b + q then v * 2 ^ (b + q).toNat else v / 2 ^ (-(b + q)).toNat
  | .inf s, _, _ => if s then 0 else 255
  | _, _, _ => 0

/-- The segment of an operand (R125). -/
def ActBank.index (k : ActBank) (x : Fv) : Nat :=
  match fDecode .f32 k.lo.toNat, fDecode .f32 k.rstep.toNat with
  | .fin t n e, .fin false r q => if r = 0 then 0 else (max 0 (min 255 (actIndex x (.fin t n e) (.fin false r q)))).toNat
  | _, _ => 0

/-- ACT on one element: slope × x + intercept of its segment, rounded once; 0 × ∞ is +0 (R125). -/
def ActBank.eval (k : ActBank) (f : FType) (rm : Rm) (a : Nat) : FRes :=
  let x := fDecode f a
  (nanOf? f [x]).getD
    (let seg := wget k.segs (k.index x)
     let slope := fDecode .f32 (fld seg 0 32)
     let icpt := fDecode .f32 (fld seg 32 32)
     (nanOf? f [slope, icpt]).getD (fSum f rm .none [(fProd slope x).getD (.fin false 0 0), icpt]))

/-- ACT: the bank active at issue, on each sub-element (R125). -/
def execAct (h : Hd) (d a : VCode) (f : FType) (rm : Rm) (s : State) : Out :=
  execWord (.act h d a f rm) h .vector s fun x act =>
    let c := x.core
    let sel := c.selAt x.clk
    let k := c.act.bank sel
    let w := x.putLanes h 10 (some d) (act.map fun l => (l, fUna f (k.eval f rm) (x.v a l)))
    let c := if sel then { c with actUse1 := x.clk + 10 } else { c with actUse0 := x.clk + 10 }
    .done (x.s.setCore x.coreIx c) w .next

/-- An MDRAIN that is queued or running has evaluations of a bank left (R126). -/
def Core.drainsBank (c : Core) (b : Bool) : Bool :=
  c.matQ.any fun m => match m.kind with
    | .mdrain _ _ _ _ _ _ _ _ _ _ _ act _ _ _ bank _ _ => act && bank == b
    | _ => false

/-- ACTLD: the bank that is not active is loaded, complete 16 clk after issue (R126). It waits for ACT words and MDRAIN
operations of that bank, and for the clk after an ACTSWAP that has issued. Of an ACTLD and a later quad's ACTSWAP that are
ready in one clk, the ACTLD issues and the ACTSWAP waits for it (assumption 93). -/
def execActld (h : Hd) (a : VCode) (b : SReg) (s : State) : Out :=
  execWord (.actld h a b) h (.vfix 8) s fun x _ =>
    let c := x.core
    let bank := !c.act.sel
    let hdr := x.sreg b.toNat
    let segs := (List.range 256).foldl (fun m i => wset m i (x.vreg (a.toNat + i / 32) (i % 32))) ([] : Words)
    if (c.swapAt.map (·.1)) == some x.clk || decide (x.clk < (if bank then c.actUse1 else c.actUse0)) || c.drainsBank bank then .wait
    else
      let load : ActLoad := { bank := bank, due := x.clk + 16,
                              data := { lo := hdr.setWidth 32, rstep := hdr.extractLsb' 32 32, segs := segs } }
      .done (x.s.setCore x.coreIx { c with actLoads := c.actLoads ++ [load] }) x.w .next

/-- ACTSWAP: the bank selector is inverted, once every ACTLD of the core has completed (R127). -/
def execActswap (h : Hd) (s : State) : Out :=
  execWord (.actswap h) h (.vfix 0) s fun x _ =>
    let c := x.core
    if c.actLoads.isEmpty then
      .done (x.s.setCore x.coreIx { c with act := { c.act with sel := !c.act.sel }, swapAt := some (x.clk, c.selAt x.clk) }) x.w .next
    else .wait

/-! Paired words (R66 to R69) -/

/-- One slot's result on a lane, as the full-form instruction `OP d, d, a` gives it under RNE (R67). -/
def pairVal (op : PairOp) (d a : Word) : Word × Word :=
  let int (w : Nat) (f : Nat → Nat → Nat → IRes) : Word × Word := ((mapSubs w fun j => f w (sub w d j) (sub w a j)).1, 0)
  let width : PWidth → Nat
    | .w64 => 64
    | .w32 => 32
    | .w16 => 16
    | .w8 => 8
  let flt (r : LaneRes) : Word × Word := (r.r, r.st)
  match op with
  | .nop => (d, 0)
  | .mov => (a, 0)
  | .add w => int (width w) fun w x y => iAdd w x y 0
  | .sub w => int (width w) fun w x y => iSub w x y 0
  | .min sg => int 32 fun w x y => plain (iMin w sg x y)
  | .max sg => int 32 fun w x y => plain (iMax w sg x y)
  | .and => (d &&& a, 0)
  | .or => (d ||| a, 0)
  | .xor => (d ^^^ a, 0)
  | .andn => (d &&& ~~~a, 0)
  | .fadd f => flt (fBin f (fAdd f .rne) d a)
  | .fmul f => flt (fBin f (fMul f .rne) d a)
  | .fmin f => flt (fBin f (fMinMax f false) d a)
  | .fmax f => flt (fBin f (fMinMax f true) d a)

/-- Latency of a slot: that of the full-form operation it names (Table 3.7). -/
def pairLat : PairOp → Nat
  | .fadd f => addLat f
  | .fmul f => addLat f
  | .fmin _ => 6
  | .fmax _ => 6
  | _ => 4

/-- One slot applied to the wave: the lanes where its guard holds on c0 (R67). Operands are those of issue. -/
def Iss.slot (x : Iss) (p : Slot) (w : Wave) : Wave :=
  if p.op == .nop then w
  else
    let ls := (lanesOf x.p.lanes).filter fun l => condHolds p.g (x.w.readCc x.clk 0 l)
    let res := ls.map fun l => (l, pairVal p.op (x.vreg p.d.toNat l) (x.vreg p.a.toNat l))
    let lat := pairLat p.op
    (w.writeV x.frame x.clk lat p.d.toNat (res.map fun r => (r.1, r.2.1))).raise (x.clk + lat)
      (res.foldl (fun m r => m ||| r.2.2) 0)

/-- A paired word: both slots read their operands at issue; k counts the lanes where either guard holds, and the guard of a
NOP slot is AL (R67). -/
def execPair (i : Instr) (sc : BitVec 3) (p q : Slot) (s : State) : Out :=
  match s.iss? with
  | none => .fault .noIssuingWave
  | some x =>
    let on (t : Slot) (l : Nat) : Bool := condHolds t.g (x.w.readCc x.clk 0 l)
    let h : Hd := { lgc := 0, lgcond := .al, ug := .al, sc := sc.setWidth 4, x := 0 }
    .next (x.issueOn (usesOf i) h .vector ((lanesOf x.p.lanes).filter fun l => on p l || on q l)
      fun x _ => .done x.s (x.slot q (x.slot p x.w)) .next)

/-- A paired word whose slot X is NOP (Table 3.10). -/
def execPairNop (sc : BitVec 3) (y : Slot) (s : State) : Out :=
  execPair (.pairNop sc y) sc { op := .nop, d := 0, a := 0, g := .al } y s

/-- A paired word whose slot X is MOV (Table 3.10). -/
def execPairMov (sc : BitVec 3) (d a : BitVec 8) (g : Cond) (y : Slot) (s : State) : Out :=
  execPair (.pairMov sc d a g y) sc { op := .mov, d := d, a := a, g := g } y s

/-- A paired word whose slot X is ADD (Table 3.10). -/
def execPairAdd (sc : BitVec 3) (w : PWidth) (d a : BitVec 8) (g : Cond) (y : Slot) (s : State) : Out :=
  execPair (.pairAdd sc w d a g y) sc { op := .add w, d := d, a := a, g := g } y s

/-- A paired word whose slot X is SUB (Table 3.10). -/
def execPairSub (sc : BitVec 3) (w : PWidth) (d a : BitVec 8) (g : Cond) (y : Slot) (s : State) : Out :=
  execPair (.pairSub sc w d a g y) sc { op := .sub w, d := d, a := a, g := g } y s

/-- A paired word whose slot X is MIN (Table 3.10). -/
def execPairMin (sc : BitVec 3) (signed : Bool) (d a : BitVec 8) (g : Cond) (y : Slot) (s : State) : Out :=
  execPair (.pairMin sc signed d a g y) sc { op := .min signed, d := d, a := a, g := g } y s

/-- A paired word whose slot X is MAX (Table 3.10). -/
def execPairMax (sc : BitVec 3) (signed : Bool) (d a : BitVec 8) (g : Cond) (y : Slot) (s : State) : Out :=
  execPair (.pairMax sc signed d a g y) sc { op := .max signed, d := d, a := a, g := g } y s

/-- A paired word whose slot X is AND (Table 3.10). -/
def execPairAnd (sc : BitVec 3) (d a : BitVec 8) (g : Cond) (y : Slot) (s : State) : Out :=
  execPair (.pairAnd sc d a g y) sc { op := .and, d := d, a := a, g := g } y s

/-- A paired word whose slot X is OR (Table 3.10). -/
def execPairOr (sc : BitVec 3) (d a : BitVec 8) (g : Cond) (y : Slot) (s : State) : Out :=
  execPair (.pairOr sc d a g y) sc { op := .or, d := d, a := a, g := g } y s

/-- A paired word whose slot X is XOR (Table 3.10). -/
def execPairXor (sc : BitVec 3) (d a : BitVec 8) (g : Cond) (y : Slot) (s : State) : Out :=
  execPair (.pairXor sc d a g y) sc { op := .xor, d := d, a := a, g := g } y s

/-- A paired word whose slot X is ANDN (Table 3.10). -/
def execPairAndn (sc : BitVec 3) (d a : BitVec 8) (g : Cond) (y : Slot) (s : State) : Out :=
  execPair (.pairAndn sc d a g y) sc { op := .andn, d := d, a := a, g := g } y s

/-- A paired word whose slot X is FADD (Table 3.10). -/
def execPairFadd (sc : BitVec 3) (f : FType) (d a : BitVec 8) (g : Cond) (y : Slot) (s : State) : Out :=
  execPair (.pairFadd sc f d a g y) sc { op := .fadd f, d := d, a := a, g := g } y s

/-- A paired word whose slot X is FMUL (Table 3.10). -/
def execPairFmul (sc : BitVec 3) (f : FType) (d a : BitVec 8) (g : Cond) (y : Slot) (s : State) : Out :=
  execPair (.pairFmul sc f d a g y) sc { op := .fmul f, d := d, a := a, g := g } y s

/-- A paired word whose slot X is FMIN (Table 3.10). -/
def execPairFmin (sc : BitVec 3) (f : FType) (d a : BitVec 8) (g : Cond) (y : Slot) (s : State) : Out :=
  execPair (.pairFmin sc f d a g y) sc { op := .fmin f, d := d, a := a, g := g } y s

/-- A paired word whose slot X is FMAX (Table 3.10). -/
def execPairFmax (sc : BitVec 3) (f : FType) (d a : BitVec 8) (g : Cond) (y : Slot) (s : State) : Out :=
  execPair (.pairFmax sc f d a g y) sc { op := .fmax f, d := d, a := a, g := g } y s

end Sys2Proof.Machine
end

