-- ==== Sys2Proof/Machine/Lanes.lean ====
section
/-! DEFINITION. Conversions, DXB quantisation, cross-lane instructions and the generator, class 3 (R41 to R49, R128 to
R142). -/

namespace Sys2Proof.Machine

open Sys2Proof

/-! The generator (R47, R48) -/

/-- JX-mix64 (R47). -/
def mix (k c : Word) : Word :=
  let z := c + k * 0xD3A2646C6F6D2C27
  let z := (z ^^^ (z >>> 32)) * 0xB5E9F1A83C6D1E57
  let z := (z ^^^ (z >>> 29)) * 0x8F6B2C5D4E3A9B71
  z ^^^ (z >>> 32)

/-- The draw of lane `l` (R48). -/
def Wave.draw (w : Wave) (l : Nat) : Word := mix w.key (w.ctr * 32 + wd l)

/-- The counter after a drawing instruction (R48). -/
def Wave.drew (w : Wave) : Wave := { w with ctr := w.ctr + 1 }

/-- The bits of a draw that result `j` of `m` uses (R40). -/
def drawBits (z : Word) (m j : Nat) : Draw :=
  let n := min 16 (64 / m)
  { u := fld z (n * j) n, bits := n }

/-! CVT (R129) -/

/-- One element converted (R41, R129). -/
def cvtElem (dst src : CvtType) (rm : Rm) (u : Draw) (a : Nat) : FRes :=
  match dst, src with
  | .int t, .int q => { r := wrap t.bits (tInt q.bits (isSigned q) a), st := 0 }
  | .flt f, .int q => fOfInt f rm u (tInt q.bits (isSigned q) a)
  | .int t, .flt g => fToInt g t.bits (isSigned t) rm a
  | .flt f, .flt g => fConvert g f rm u a

/-- The flags of CVT: float flags, or those of an integer with V for a conversion that raised INV. -/
def cvtFlags (dst : CvtType) (r : FRes) : BitVec 4 :=
  match dst with
  | .flt f => fFlags f r.r
  | .int t => intFlags t.bits r.r false (r.st &&& INV != 0)

/-- A lane's conversion: widening and equal widths write the whole lane, narrowing writes part `p` and keeps the rest of
`old` (R129). -/
def cvtLane (dst src : CvtType) (p : Nat) (rm : Rm) (z old a : Word) : LaneRes :=
  let wd_ := dst.bits
  let ws := src.bits
  let n := 64 / max ws wd_
  let elem (j : Nat) : FRes :=
    cvtElem dst src rm (drawBits z n j) (sub ws a (if ws < wd_ then p * n + j else j))
  let first := if wd_ < ws then p * n else 0
  { r := ofSubs wd_ fun i => if first ≤ i && i < first + n then (elem (i - first)).r else sub wd_ old i,
    fl := cvtFlags dst (elem 0),
    st := (List.range n).foldl (fun m j => m ||| (elem j).st) 0 }

/-- CVT (R129). With rounding mode SR it draws (R48). -/
def execCvt (h : Hd) (d a : VCode) (dst src : CvtType) (p : BitVec 2) (rm : Rm) (s : State) : Out :=
  execWord (.cvt h d a dst src p rm) h .vector s fun x act =>
    let slot := x.frame.vslot d.toNat
    let res := act.map fun l => (l, cvtLane dst src p.toNat rm (x.w.draw l) (wget x.w.win (slot + l)) (x.v a l))
    let w := x.putLanes h 6 (some d) res
    .done x.s (if rm == .sr then w.drew else w) .next

/-! QNT and DQNT (R43, R44, R131, R132) -/

/-- Bias, least and greatest significand, significand bits of a DXB format (Table 2.6, R44). -/
structure Dxb where
  bias : Nat
  qmin : Int
  qmax : Int
  bits : Nat
deriving DecidableEq, Repr

/-- .x8 and .x4. -/
def dxb (x4 : Bool) : Dxb :=
  if x4 then { bias := 129, qmin := -4, qmax := 3, bits := 3 } else { bias := 133, qmin := -64, qmax := 63, bits := 7 }

/-- An element code: selector and significand; a zero significand is 0 (R43). -/
def Dxb.code (x : Dxb) (sel : Bool) (q : Int) : Nat :=
  if q = 0 then 0 else (if sel then 2 ^ x.bits else 0) + wrap x.bits q

/-- x / 2^k rounded to an integer, and whether it was inexact. -/
def roundScale (rm : Rm) (u : Draw) (s : Bool) (m : Nat) (e k : Int) : Int × Bool :=
  let r := if k ≤ e then (m * 2 ^ (e - k).toNat, false) else roundShift rm u s m (k - e).toNat
  (if s then -(r.1 : Int) else r.1, r.2)

/-- One element quantised against both exponents (R44). -/
def Dxb.quant (x : Dxb) (rm : Rm) (e0 e1 : Nat) (hi_ : Bool) (u : Draw) (v : Fv) : FRes :=
  match v with
  | .nan _ => { r := 0, st := QNAN ||| INV }
  | .inf s => { r := x.code true (if s then x.qmin else x.qmax), st := OVF }
  | .fin s m e =>
    let fits (q : Int) : Bool := decide (x.qmin ≤ q) && decide (q ≤ x.qmax)
    let q0 := roundScale rm u s m e ((e0 : Int) - x.bias)
    let zero (q : Int) : Word := if m ≠ 0 && q = 0 then UNF else 0
    if fits q0.1 then { r := x.code false q0.1, st := (if q0.2 then INX else 0) ||| zero q0.1 }
    else
      let q1 := roundScale rm u s m e ((e1 : Int) - x.bias)
      let q := max x.qmin (min x.qmax q1.1)
      { r := x.code true q,
        st := (if q1.2 || !fits q1.1 then INX else 0) ||| (if !fits q1.1 && hi_ then OVF else 0) ||| zero q }

/-- The exponents of a block: E0, E1 and whether E1 was clamped high (R44). -/
def Dxb.exps (d : Nat) (vs : List Fv) : Nat × Nat × Bool :=
  let tops : List Int := vs.filterMap fun v => match v with
    | .fin _ m e => if m = 0 then none else some (topBit m + e)
    | _ => none
  match tops with
  | [] => (0, 0, false)
  | t :: r =>
    let e := r.foldl max t
    let e1 := (max 0 (min 254 (e + 128))).toNat
    (e1 - d, e1, decide (254 < e + 128))

/-- The quantisation of 128 elements in blocks of `len`: element codes, exponent words, sticky bits. -/
def Dxb.image (x : Dxb) (rm : Rm) (len d : Nat) (vs : List Fv) (u : Nat → Draw) : List Nat × List Nat × Word :=
  let blocks := (List.range (128 / len)).map fun b =>
    let es := (vs.drop (b * len)).take len
    let ex := Dxb.exps d es
    let qs := (es.zipIdx).map fun p => x.quant rm ex.1 ex.2.1 ex.2.2 (u (b * len + p.2)) p.1
    (qs.map (·.r), ex.2.1 * 256 + ex.1, qs.foldl (fun m q => m ||| q.st) 0)
  (blocks.flatMap (·.1), blocks.map (·.2.1), blocks.foldl (fun m b => m ||| b.2.2) 0)

/-- The bytes of a QNT image (Table 6.8). -/
def imageBytes (x4 : Bool) (codes exps : List Nat) : List Byte :=
  let es := exps.flatMap fun e => [e % 256, e / 256]
  let cs := if x4 then (List.range 64).map fun i => codes.getD (2 * i) 0 + 16 * codes.getD (2 * i + 1) 0 else codes
  let l := cs ++ es
  (l ++ List.replicate (256 - l.length) 0).map fun n => BitVec.ofNat 8 n

/-- Where element `e` of 128 lies: register (0 or 1), lane, sub-element, and the number of its draw (R131). -/
def elemAt (f : FType) (e : Nat) : Nat × Nat × Nat × Nat :=
  if f == .f32 then (e / 64, e % 64 / 2, e % 2, 2 * (e / 64) + e % 2) else (0, e / 4, e % 4, e % 4)

/-- QNT: 128 elements become the image of d (R131). -/
def execQnt (h : Hd) (d a : VCode) (x4 : Bool) (f : FType) (l : BitVec 2) (dd : BitVec 4) (rm : Rm) (s : State) : Out :=
  execWord (.qnt h d a x4 f l dd rm) h (.vfix (if f == .f32 then 8 else 4)) s fun x _ =>
    let el (e : Nat) : Fv :=
      let p := elemAt f e
      fDecode f (sub (fWidth f) (if f == .f32 then x.vreg (a.toNat + p.1) p.2.1 else x.v a p.2.1) p.2.2.1)
    let u (e : Nat) : Draw := let p := elemAt f e; drawBits (x.w.draw p.2.1) 4 p.2.2.2
    let dv := if dd = 0 then (if x4 then 2 else 4) else dd.toNat
    let img := (dxb x4).image rm (16 * 2 ^ l.toNat) dv ((List.range 128).map el) u
    let bs := imageBytes x4 img.1 img.2.1
    let w := (x.w.writeV x.frame x.clk 12 d.toNat
      ((List.range 32).map fun i => (i, leWord ((bs.drop (8 * i)).take 8)))).raise (x.clk + 12) img.2.2
    .done x.s (if rm == .sr then w.drew else w) .next

/-- An element code decoded against its exponent word; none when a byte of the word is 255 (R43). -/
def Dxb.decode (x : Dxb) (exp code : Nat) : Option Fv :=
  if exp % 256 = 255 || exp / 256 % 256 = 255 then none
  else
    let q := sInt x.bits (code % 2 ^ x.bits)
    let e := if code / 2 ^ x.bits % 2 = 1 then exp / 256 % 256 else exp % 256
    some (.fin (decide (q < 0)) q.natAbs ((e : Int) - x.bias))

/-- DQNT: the image of a decoded (R132). -/
def execDqnt (h : Hd) (d a : VCode) (x4 : Bool) (f : FType) (l : BitVec 2) (rm : Rm) (s : State) : Out :=
  execWord (.dqnt h d a x4 f l rm) h (.vfix (if f == .f32 then 8 else 4)) s fun x _ =>
    let img : List Nat := (List.range 256).map fun i => fld (x.v a (i / 8)) (8 * (i % 8)) 8
    let len := 16 * 2 ^ l.toNat
    let base := if x4 then 64 else 128
    let val (e : Nat) : FRes :=
      let code := if x4 then img.getD (e / 2) 0 / (if e % 2 = 0 then 1 else 16) % 16 else img.getD e 0
      let exp := img.getD (base + 2 * (e / len)) 0 + 256 * img.getD (base + 2 * (e / len) + 1) 0
      let p := elemAt f e
      match (dxb x4).decode exp code with
      | none => { r := 0, st := INV }
      | some (.fin sg m ex) => fRound f rm (drawBits (x.w.draw p.2.1) 4 p.2.2.2) sg m ex
      | some _ => { r := 0, st := 0 }
    let vals := (List.range 128).map val
    let lane (r i : Nat) : Word :=
      if f == .f32 then ofSubs 32 fun j => (vals.getD (64 * r + 2 * i + j) { r := 0, st := 0 }).r
      else ofSubs 16 fun j => (vals.getD (4 * i + j) { r := 0, st := 0 }).r
    let w := x.w.writeV x.frame x.clk 6 d.toNat ((List.range 32).map fun i => (i, lane 0 i))
    let w := if f == .f32 then w.writeV x.frame x.clk 6 (d.toNat + 1) ((List.range 32).map fun i => (i, lane 1 i)) else w
    let w := w.raise (x.clk + 6) (vals.foldl (fun m v => m ||| v.st) 0)
    .done x.s (if rm == .sr then w.drew else w) .next

/-! PACK and UNPK (R130) -/

/-- PACK: narrowing with saturation (R130). -/
def execPack (h : Hd) (d a b : VCode) (t : IType) (s : State) : Out :=
  laneOp (.pack h d a b t) h 6 (some d) (fun x l =>
    let w := t.bits
    let least : Int := if isSigned t then -(2 ^ (w - 1)) else 0
    let most : Int := if isSigned t then 2 ^ (w - 1) - 1 else 2 ^ w - 1
    let src (j : Nat) : Int :=
      tInt (2 * w) (isSigned t) (if j < 32 / w then sub (2 * w) (x.v a l) j else sub (2 * w) (x.v b l) (j - 32 / w))
    let out (j : Nat) : Bool := decide (src j < least) || decide (most < src j)
    let val (j : Nat) : Nat := wrap w (max least (min most (src j)))
    { r := ofSubs w val, fl := intFlags w (val 0) false (out 0),
      st := if (List.range (64 / w)).any out then OVF else 0 }) s

/-- UNPK: part p widened by the type's signedness (R130). -/
def execUnpk (h : Hd) (d a : VCode) (p : BitVec 1) (t : IType) (s : State) : Out :=
  laneOp (.unpk h d a p t) h 6 (some d) (fun x l =>
    let w := t.bits
    let val (j : Nat) : Nat := wrap (2 * w) (tInt w (isSigned t) (sub w (x.v a l) (p.toNat * (32 / w) + j)))
    { r := ofSubs (2 * w) val, fl := intFlags (2 * w) (val 0) false false, st := 0 }) s

/-! Cross-lane instructions (R133 to R139) -/

/-- A lane instruction that only moves data: each active lane gets a value (R133). -/
def moveOp (i : Instr) (h : Hd) (d : VCode) (g : Iss → Nat → Word) (s : State) : Out :=
  laneOp i h 8 (some d) (fun x l => { r := g x l, fl := 0, st := 0 }) s

/-- LGET: each sub-element comes from the lane and sub-element that its index names (R134). -/
def execLget (h : Hd) (d a b : VCode) (t : IType) (s : State) : Out :=
  moveOp (.lget h d a b t) h d (fun x l =>
    ofSubs t.bits fun j =>
      let i := sub t.bits (x.v b l) j
      sub t.bits (x.v a (i % 32)) (i / 32 % (64 / t.bits))) s

/-- LPUT: active lanes scatter their sub-elements over the whole destination; a later write stands (R135). -/
def execLput (h : Hd) (d a b : VCode) (t : IType) (s : State) : Out :=
  execWord (.lput h d a b t) h .vector s fun x act =>
    let w := t.bits
    let n := 64 / w
    let writes : List (Nat × Nat) := act.flatMap fun l => (List.range n).map fun j =>
      let i := sub w (x.v b l) j
      (i % 32 * n + i / 32 % n, sub w (x.v a l) j)
    let last (k : Nat) : Option Nat := (writes.reverse.find? (·.1 == k)).map (·.2)
    let vals := (List.range 32).map fun l =>
      (l, ofSubs w fun j => (last (l * n + j)).getD (sub w (x.vreg d.toNat l) j))
    .done x.s (x.w.writeV x.frame x.clk 8 d.toNat vals) .next

/-- LSHF (R136). -/
def execLshf (h : Hd) (d a b : VCode) (m : ShfMode) (n : BitVec 5) (s : State) : Out :=
  moveOp (.lshf h d a b m n) h d (fun x l =>
    match m with
    | .up => if n.toNat ≤ l then x.v a (l - n.toNat) else x.v b l
    | .down => if l + n.toNat ≤ 31 then x.v a (l + n.toNat) else x.v b l
    | .rot => x.v a ((l + n.toNat) % 32)) s

/-- LBCST (R137). -/
def execLbcst (h : Hd) (d a : VCode) (n : BitVec 5) (s : State) : Out :=
  moveOp (.lbcst h d a n) h d (fun x _ => x.v a n.toNat) s

/-- LXOR (R137). -/
def execLxor (h : Hd) (d a : VCode) (n : BitVec 5) (s : State) : Out :=
  moveOp (.lxor h d a n) h d (fun x l => x.v a (l ^^^ n.toNat)) s

/-- Width of a reduction's sub-elements. -/
def redWidth : RedOp → Nat
  | .add t | .min t | .max t | .and t | .or t | .xor t => t.bits
  | .fadd f _ | .fmin f | .fmax f => fWidth f

/-- The identity that an inactive lane contributes (Table 6.9). -/
def redIdentity : RedOp → Nat
  | .add _ | .or _ | .xor _ => 0
  | .min t => if isSigned t then 2 ^ (t.bits - 1) - 1 else 2 ^ t.bits - 1
  | .max t => if isSigned t then 2 ^ (t.bits - 1) else 0
  | .and t => 2 ^ t.bits - 1
  | .fadd f _ => fSign f true
  | .fmin f => fNan f
  | .fmax f => fNan f

/-- One node of the tree on one sub-element (R46, Table 6.9). -/
def redNode (op : RedOp) (a b : Nat) : FRes :=
  match op with
  | .add t => { r := (a + b) % 2 ^ t.bits, st := 0 }
  | .min t => { r := iMin t.bits (isSigned t) a b, st := 0 }
  | .max t => { r := iMax t.bits (isSigned t) a b, st := 0 }
  | .and _ => { r := a &&& b, st := 0 }
  | .or _ => { r := a ||| b, st := 0 }
  | .xor _ => { r := a ^^^ b, st := 0 }
  | .fadd f rm => fAdd f rm a b
  | .fmin f => fMinMax f false a b
  | .fmax f => fMinMax f true a b

/-- A node on a whole lane, with the sticky bits so far. -/
def redPair (op : RedOp) (a b : Word × Word) : Word × Word :=
  let w := redWidth op
  let rs := (List.range (64 / w)).map fun j => redNode op (sub w a.1 j) (sub w b.1 j)
  (ofSubs w fun j => (rs.getD j { r := 0, st := 0 }).r, rs.foldl (fun m r => m ||| r.st) (a.2 ||| b.2))

/-- The next level of the tree. -/
def redLevel (op : RedOp) : List (Word × Word) → List (Word × Word)
  | a :: b :: r => redPair op a b :: redLevel op r
  | l => l

/-- The levels of the tree over the 32 lanes, level 0 first (R46). -/
def redLevels (op : RedOp) (l : List (Word × Word)) : List (List (Word × Word)) :=
  (List.range 5).foldl (fun ls _ => ls ++ [redLevel op (ls.getLastD [])]) [l]

/-- The inclusive prefix of lane `i`, from the nodes that tile [0, i] (R46). Lane 0 is its node of level 0, to which no
operation is applied, so a NaN passes as it stands (DEDUCED, assumption 95). -/
def redPrefix (op : RedOp) (ls : List (List (Word × Word))) (i : Nat) : Word × Word :=
  let r := (List.range 6).foldl (fun (a : Option (Word × Word) × Nat) j =>
    let k := 5 - j
    if a.2 + 2 ^ k - 1 ≤ i then
      let n := (ls.getD k []).getD (a.2 / 2 ^ k) (0, 0)
      (some (match a.1 with
        | none => n
        | some x => redPair op x n), a.2 + 2 ^ k)
    else a) (none, 0)
  r.1.getD (0, 0)

/-- The flags of a reduction's result (R138). -/
def redFlags (op : RedOp) (r : Word) : BitVec 4 :=
  match op with
  | .fadd f _ | .fmin f | .fmax f => fFlags f (sub (fWidth f) r 0)
  | _ => intFlags (redWidth op) (sub (redWidth op) r 0) false false

/-- The tree's levels for a word: inactive lanes contribute the identity. -/
def Iss.tree (x : Iss) (op : RedOp) (a : VCode) (act : List Nat) : List (List (Word × Word)) :=
  redLevels op ((List.range 32).map fun l =>
    (if act.contains l then x.v a l else ofSubs (redWidth op) fun _ => redIdentity op, 0))

/-- LSCAN: each active lane gets its inclusive prefix (R138). Every node of the tree raises its sticky bits. -/
def execLscan (h : Hd) (d a : VCode) (op : RedOp) (s : State) : Out :=
  execWord (.lscan h d a op) h .vector s fun x act =>
    let ls := x.tree op a act
    let all := ((ls.getD 5 []).getD 0 (0, 0)).2
    let res := act.map fun l =>
      let r := redPrefix op ls l
      (l, ({ r := r.1, fl := redFlags op r.1, st := r.2 ||| all } : LaneRes))
    .done x.s (x.putLanes h 8 (some d) res) .next

/-- LRED: each active lane gets the whole-wave node (R138). -/
def execLred (h : Hd) (d a : VCode) (op : RedOp) (s : State) : Out :=
  execWord (.lred h d a op) h .vector s fun x act =>
    let r := ((x.tree op a act).getD 5 []).getD 0 (0, 0)
    .done x.s (x.putLanes h 8 (some d) (act.map fun l => (l, { r := r.1, fl := redFlags op r.1, st := r.2 }))) .next

/-- LVOTE: one result over the active lanes (R139). -/
def execLvote (h : Hd) (d a : VCode) (m : VoteMode) (s : State) : Out :=
  execWord (.lvote h d a m) h .vector s fun x act =>
    let p (l : Nat) : Bool := x.v a l != 0
    let r : Nat := match m with
      | .any => b2n (act.any p)
      | .all => b2n (act.all p)
      | .ballot => ((act.filter p).map fun l => 2 ^ l).sum
    .done x.s (x.putLanes h 8 (some d) (act.map fun l =>
      (l, { r := wd r, fl := mkFlags false (r == 0) false false, st := 0 }))) .next

/-! Random numbers (R140, R141) -/

/-- RNG: each active lane gets its draw, and the counter advances (R140). -/
def execRng (h : Hd) (d : VCode) (s : State) : Out :=
  execWord (.rng h d) h .vector s fun x act =>
    let w := x.putLanes h 8 (some d) (act.map fun l => (l, { r := x.w.draw l, fl := 0, st := 0 }))
    .done x.s w.drew .next

/-- RNGSET: key and counter (R141). -/
def execRngset (h : Hd) (a b : SReg) (s : State) : Out :=
  execWord (.rngset h a b) h (.vfix 0) s fun x _ =>
    .done x.s { x.w with key := x.sreg a.toNat, ctr := x.sreg b.toNat } .next

end Sys2Proof.Machine
end

