-- ==== Sys2Proof/Machine/Matrix.lean ====
section
/-! DEFINITION. The matrix instructions (R249 to R267) and what their operations compute. -/

namespace Sys2Proof.Machine

open Sys2Proof

/-! Names and formats -/

/-- A convergence register of a group on a core. -/
def Group.cv? (g : Group) (core n : Nat) : Option Cv := g.cvs.find? fun c => c.core == core && c.n == n
/-- A group's convergence registers with one replaced or added. -/
def Group.setCv (g : Group) (c : Cv) : Group :=
  { g with cvs := (g.cvs.filter fun x => !(x.core == c.core && x.n == c.n)) ++ [c] }
/-- A lacing descriptor of a group on a core. -/
def Group.lace? (g : Group) (core n : Nat) : Option Lace := g.laces.find? fun c => c.core == core && c.n == n
/-- A live reservation of a group on a core. -/
def Group.res? (g : Group) (core n : Nat) : Option Res := g.ress.find? fun c => c.core == core && c.n == n && c.live

/-- Records of a kind in use on a core by the groups that it holds (R249). -/
def State.onCore (s : State) (die core : Nat) (f : Group → List Nat) : Nat :=
  ((s.groups.filter fun g => g.die == die && (g.st == .placed || g.st == .running || g.st == .exiting)).map fun g =>
    ((f g).filter (· == core)).length).sum

/-- %tinfo of GRANT_FAILED (R252). -/
def grantInfo (code reason : Nat) : Word := wd (16 * code + reason)

/-- A DXB format. -/
def isDxb : MFmt → Bool
  | .x8 | .x4 => true
  | _ => false
/-- Bits of an element (Table 12.2). -/
def mBits : MFmt → Nat
  | .x4 => 4
  | .x8 | .i8 => 8
  | .f16 | .bf16 => 16
  | .f32 => 32
/-- Block length of an L code (R252). -/
def blockLen (l : BitVec 2) : Nat := 16 * 2 ^ l.toNat
/-- Segment length (Table 12.2). -/
def segLen (f : MFmt) (la lb : BitVec 2) : Nat :=
  match f with
  | .x8 | .x4 => min (blockLen la) (blockLen lb)
  | .i8 => 32
  | .f16 | .bf16 => 8
  | .f32 => 2
/-- The clk that an MMA takes from its start (R262). -/
def mmaTime (f : MFmt) (k : Nat) : Nat :=
  32 + match f with
    | .x8 | .i8 => cdiv k 2
    | .x4 => cdiv k 4
    | .f16 | .bf16 => k
    | .f32 => 2 * k

/-! Lacing (R255, R256) -/

/-- Fields of a lacing descriptor (Table 12.5). -/
def Lace.base (l : Lace) : Nat := fld l.w0 0 20
@[inherit_doc Lace.base] def Lace.eoff (l : Lace) : Nat := fld l.w0 20 20
@[inherit_doc Lace.base] def Lace.h (l : Lace) : Nat := fld l.w1 0 16
@[inherit_doc Lace.base] def Lace.w (l : Lace) : Nat := fld l.w1 16 16
@[inherit_doc Lace.base] def Lace.c (l : Lace) : Nat := fld l.w1 32 16
@[inherit_doc Lace.base] def Lace.kh (l : Lace) : Nat := fld l.w2 0 4
@[inherit_doc Lace.base] def Lace.kw (l : Lace) : Nat := fld l.w2 4 4
@[inherit_doc Lace.base] def Lace.sh (l : Lace) : Nat := fld l.w2 8 4
@[inherit_doc Lace.base] def Lace.sw (l : Lace) : Nat := fld l.w2 12 4
@[inherit_doc Lace.base] def Lace.ph (l : Lace) : Nat := fld l.w2 16 4
@[inherit_doc Lace.base] def Lace.pw (l : Lace) : Nat := fld l.w2 20 4
@[inherit_doc Lace.base] def Lace.dh (l : Lace) : Nat := fld l.w2 24 4
@[inherit_doc Lace.base] def Lace.dw (l : Lace) : Nat := fld l.w2 28 4

/-- Output positions along one axis: floor((n + 2p − d(k − 1) − 1) / s) + 1. -/
def outLen (n p d k st : Nat) : Int := ((n : Int) + 2 * p - d * (k - 1) - 1).fdiv st + 1
/-- OH, OW and K of a descriptor (R255). -/
def Lace.oh (l : Lace) : Int := outLen l.h l.ph l.dh l.kh l.sh
@[inherit_doc Lace.oh] def Lace.ow (l : Lace) : Int := outLen l.w l.pw l.dw l.kw l.sw
@[inherit_doc Lace.oh] def Lace.k (l : Lace) : Nat := l.kh * l.kw * l.c

/-- A well-formed descriptor (R255). -/
def Lace.ok (l : Lace) : Bool :=
  fld l.w0 40 24 = 0 && fld l.w1 48 16 = 0 && fld l.w2 32 32 = 0 && l.c != 0 && l.w != 0 && l.h != 0 && l.kh != 0 &&
    l.kw != 0 && l.sh != 0 && l.sw != 0 && l.dh != 0 && l.dw != 0 && decide (1 ≤ l.oh) && decide (1 ≤ l.ow)

/-- Bytes of the element plane of `n` elements. -/
def planeBytes (f : MFmt) (n : Nat) : Nat := cdiv (n * mBits f) 8

/-- An element of a plane as a value; none in a DXB block whose exponent word holds 255 (R43). -/
def mElem (rd_ : Nat → Byte) (f : MFmt) (base i exp_ : Nat) : Option Fv :=
  let b (k : Nat) : Nat := (rd_ k).toNat
  let w16 (k : Nat) : Nat := b k + 256 * b (k + 1)
  match f with
  | .x8 => (dxb false).decode (w16 exp_) (b (base + i))
  | .x4 => (dxb true).decode (w16 exp_) (b (base + i / 2) / 16 ^ (i % 2) % 16)
  | .i8 =>
    let v := b (base + i)
    if v < 128 then some (.fin false v 0) else some (.fin true (256 - v) 0)
  | .f16 => some (fDecode .f16 (w16 (base + 2 * i)))
  | .bf16 => some (fDecode .bf16 (w16 (base + 2 * i)))
  | .f32 => some (fDecode .f32 (w16 (base + 4 * i) + 65536 * w16 (base + 4 * i + 2)))

/-- The offsets of the bytes that an element is read from. -/
def elemBytes (f : MFmt) (base i exp_ : Nat) : List Nat :=
  let run (at_ n : Nat) : List Nat := (List.range n).map (at_ + ·)
  match f with
  | .x8 => (base + i) :: run exp_ 2
  | .x4 => (base + i / 2) :: run exp_ 2
  | .i8 => [base + i]
  | .f16 | .bf16 => run (base + 2 * i) 2
  | .f32 => run (base + 4 * i) 4

/-- A positive zero. -/
def fvZero : Fv := .fin false 0 0

/-- The element of the plane that the virtual A operand names, with the offset of its exponent word; none where it is +0 (R256). -/
def Lace.elem? (l : Lace) (la : BitVec 2) (p k : Nat) : Option (Nat × Nat) :=
  if l.oh * l.ow ≤ p then none
  else
    let ow := l.ow.toNat
    let ci := k % l.c
    let y : Int := (p / ow : Nat) * l.sh - l.ph + (k / (l.c * l.kw) : Nat) * l.dh
    let x : Int := (p % ow : Nat) * l.sw - l.pw + (k / l.c % l.kw : Nat) * l.dw
    if y < 0 || (l.h : Int) ≤ y || x < 0 || (l.w : Int) ≤ x then none
    else
      let yx := y.toNat * l.w + x.toNat
      some (yx * l.c + ci, l.eoff + 2 * (yx * (l.c / blockLen la) + ci / blockLen la))

/-- The virtual A operand (R256). -/
def Lace.a (l : Lace) (rd_ : Nat → Byte) (f : MFmt) (la : BitVec 2) (p k : Nat) : Option Fv :=
  match l.elem? la p k with
  | some e => mElem rd_ f l.base e.1 e.2
  | none => some fvZero

/-- The offsets of the scratchpad bytes that `m` rows of the virtual A operand from `p0` on are read from. -/
def Lace.reads (l : Lace) (f : MFmt) (la : BitVec 2) (p0 m : Nat) : List Nat :=
  (List.range m).flatMap fun i => (List.range l.k).flatMap fun q => match l.elem? la (p0 + i) q with
    | some e => elemBytes f l.base e.1 e.2
    | none => []

/-- The B operand (R257). -/
def Res.b (r : Res) (rd_ : Nat → Byte) (f : MFmt) (lb : BitVec 2) (kk k j : Nat) : Option Fv :=
  mElem (fun i => rd_ (r.base + i)) f 0 (j * kk + k) (r.expo + 2 * (j * (kk / blockLen lb) + k / blockLen lb))

/-- One segment added to an accumulator (R45, R261). A product of 0 and a negative factor counts as −0, for .i8 and DXB
too, so an accumulator of −0 stays −0 when every product is such a zero (DESIGN CHOICE, assumption 94). -/
def mSegment (acc : Nat) (as bs : List (Option Fv)) : FRes :=
  let bad := as.any (·.isNone) || bs.any (·.isNone)
  let x := as.map (·.getD fvZero)
  let y := bs.map (·.getD fvZero)
  let z := fDecode .f32 acc
  let ps := (x.zip y).map fun p => fProd p.1 p.2
  let r := match nanOf? .f32 ([z] ++ x ++ y) with
    | some n => n.inv (fInvalid (x.zip y) [z])
    | none =>
      if ps.any (·.isNone) then { r := fNan .f32, st := INV } else fSum .f32 .rne .none ([z] ++ ps.filterMap id)
  r.inv bad

/-- One accumulator over all of K, segment by segment. -/
def mDot (acc seg : Nat) (as bs : List (Option Fv)) : Nat → FRes
  | 0 => { r := acc, st := 0 }
  | n + 1 =>
    if as.isEmpty then { r := acc, st := 0 }
    else
      let r := mSegment acc (as.take seg) (bs.take seg)
      let t := mDot r.r seg (as.drop seg) (bs.drop seg) n
      { t with st := r.st ||| t.st }

/-! Registers of the views -/

/-- The window byte of accumulator register n; of tile register n. -/
def accByte (views : Word) (n : Nat) : Nat := 256 * viewA views + 256 * n
@[inherit_doc accByte] def tileByte (views : Word) (n : Nat) : Nat := 256 * viewT views + 256 * n

/-- Whether a later use of some places must wait for matrix work (R263). -/
def State.accPending (s : State) (w : Wave) (views : Word) : List Loc :=
  let rows (sg : List Sign) (n : Nat) : List Loc := sg.filterMap fun x =>
    if x.wave == w.uid then some (.win (accByte views x.base) (accByte views (x.base + 64 / n))) else none
  let cvs := ((s.group? w.group).map (·.cvs)).getD []
  (cvs.flatMap fun c => rows c.signed (max c.signers 1)) ++
    (s.core (s.coreOf w)).matQ.flatMap fun m => match m.kind with
      | .mma sg n _ _ _ _ _ _ _ => rows sg (max n 1)
      | _ => []

/-- The matrix queue has room (R253, R258). -/
def Iss.matRoom (x : Iss) : Bool := decide (x.core.matQ.length < 16)

/-- An entry placed in the matrix queue (R262). -/
def State.matPush (s : State) (core : Nat) (m : MatEnt) : State :=
  { s with cores := s.cores.modify core fun c => { c with matQ := c.matQ ++ [m] } }

/-- CVINIT sets a signer count (R253). -/
def execCvinit (h : Hd) (d : BitVec 4) (a : SReg) (s : State) : Out :=
  execWord (.cvinit h d a) h .scalar s fun x _ =>
    let v := (x.sreg a.toNat).toNat
    let old := x.g.cv? x.w.core d.toNat
    if !(v == 1 || v == 2 || v == 4 || v == 8) then .trap RESERVED_FIELD 18
    else if old.any fun c => !c.signed.isEmpty then .trap GRANT_FAILED (grantInfo (16 + d.toNat) 15)
    else if old.isNone && decide (16 ≤ x.s.onCore x.g.die x.w.core fun g => g.cvs.map (·.core)) then .wait
    else
      .done (x.s.setGroup (x.g.setCv { core := x.w.core, n := d.toNat, signers := v, signed := [], afield := 0,
                                       cfield := 0, word := 0 })) x.w .next

/-- LACE sets a lacing descriptor (R255). -/
def execLace (h : Hd) (d : BitVec 2) (a : SReg) (s : State) : Out :=
  execWord (.lace h d a) h .scalar s fun x _ =>
    let l : Lace := { core := x.w.core, n := d.toNat, w0 := x.sreg a.toNat, w1 := x.sreg (a.toNat + 1),
                      w2 := x.sreg (a.toNat + 2) }
    if !l.ok then .trap RESERVED_FIELD 18
    else if (x.g.lace? l.core l.n).isNone && decide (16 ≤ x.s.onCore x.g.die x.w.core fun g => g.laces.map (·.core)) then
      .wait
    else
      .done (x.s.setGroup { x.g with laces := (x.g.laces.filter fun y => !(y.core == l.core && y.n == l.n)) ++ [l] }) x.w .next

/-- OBRES makes a reservation live (R257). -/
def execObres (h : Hd) (d : BitVec 3) (a b : SReg) (s : State) : Out :=
  execWord (.obres h d a b) h .scalar s fun x _ => Chk.eff do
    let n := d.toNat
    let rv := x.sreg a.toNat
    let lv := x.sreg b.toNat
    let base := fld rv 0 20
    let len := fld rv 20 20
    let fmt : Option MFmt := [MFmt.x8, .x4, .i8, .f16, .bf16, .f32][fld lv 0 3]?
    need (base % 256 = 0) MISALIGNED (wd (16 * n + 1))
    need (len % 256 = 0 && len != 0) MISALIGNED (wd (16 * n + 2))
    need (fld rv 40 24 = 0) RESERVED_FIELD 18
    let ex := fld lv 8 19
    match fmt with
    | none => .error (.trap RESERVED_FIELD 9)
    | some f =>
      need (fld lv 27 37 = 0 && !lv.getLsbD 7 && ex % 2 = 0 && (isDxb f || (fld lv 3 4 = 0 && ex = 0))) RESERVED_FIELD 9
      let clash (r : Res) : Bool := r.core == x.w.core && meets (r.base, r.len) (base, len)
      need (base + len ≤ 524288 && !x.g.ress.any fun r => r.live && r.n != n && clash r) GRANT_FAILED (grantInfo n 13)
      need (x.g.res? x.w.core n).isNone GRANT_FAILED (grantInfo n 15)
      let here := x.s.groups.filter fun g => g.die == x.g.die && (g.st == .placed || g.st == .running || g.st == .exiting)
      if (here.any fun g => g.ress.any clash) || decide (32 ≤ x.s.onCore x.g.die x.w.core fun g => g.ress.map (·.core)) then
        .error .wait
      else
        let (s, id) := x.s.fresh
        let r : Res := { core := x.w.core, n := n, base := base, len := len, fmt := f, la := BitVec.ofNat 2 (fld lv 3 2),
                         lb := BitVec.ofNat 2 (fld lv 5 2), expo := ex, live := true, uid := id }
        .ok (.done (s.setGroup { x.g with ress := x.g.ress ++ [r] }) x.w .next)

/-- The bytes of a wave's tile registers, as a word reads them. -/
def Iss.tileBytes (x : Iss) (n count : Nat) : List Byte :=
  let at_ := tileByte x.k.views n
  (List.range count).map fun i => byteOf (x.w.readSlot x.clk ((at_ + i) / 8)) ((at_ + i) % 8)

/-- The registers that an OBLD of the issuing wave names: the tile registers that hold its bytes, when it reads tiles (R258,
R100). -/
def obldUses (s : State) (i : Instr) (a b : SReg) : List Use :=
  match s.iss? with
  | none => usesOf i
  | some x =>
    let p := x.sreg b.toNat
    let r : RegU := .tile (fld (x.sreg a.toNat) 0 6) (cdiv (fld p 20 20) 256)
    usesOf i ++ (if p.getLsbD 40 && decide (fld p 20 20 ≤ 16384) && (x.frame.locs? r).isSome then rd 1 18 r else [])

/-- OBLD writes bytes into a reservation (R258). -/
def execObld (h : Hd) (d : BitVec 3) (a b : SReg) (s : State) : Out :=
  execUses (obldUses s (.obld h d a b) a b) h .scalar s fun x _ => Chk.eff do
    let n := d.toNat
    let p := x.sreg b.toNat
    let at_ := fld p 0 20
    let count := fld p 20 20
    need (fld p 41 23 = 0 && count != 0 && decide (count ≤ 524288)) RESERVED_FIELD 9
    match x.g.res? x.w.core n with
    | none => .error (.trap GRANT_FAILED (grantInfo n 14))
    | some r =>
      need (at_ + count ≤ r.len) GRANT_FAILED (grantInfo n 13)
      let tile := p.getLsbD 40
      let so := fld (x.sreg a.toNat) 0 20
      let tn := fld (x.sreg a.toNat) 0 6
      need (!tile || (viewT x.k.views != 0x1FF && decide (256 * tn + count ≤ 16384) &&
        decide (tileByte x.k.views tn + count ≤ x.k.win * 256))) RESERVED_FIELD 18
      if tile then .ok () else inRange 31 x.scr (so, count)
      if !x.matRoom then .error .wait
      else
        let (s, id) := x.s.fresh
        let k : MatKind := .obld (if tile then none else some so) (if tile then x.tileBytes tn count else []) at_ count r.uid
        .ok (.done (s.matPush x.coreIx { id := id, wave := x.w.uid, group := x.g.uid, seq := id, pc := x.p.pc,
                                         entered := x.clk, started := none, kind := k }) x.w .next)

/-- A matrix-queue entry uses a reservation. -/
def MatEnt.usesRes (m : MatEnt) (u : Nat) : Bool :=
  match m.kind with
  | .obld _ _ _ _ r => r == u
  | .mma _ _ _ r _ _ _ _ _ => r.uid == u
  | _ => false

/-- Reservations that are not live and have no user left are freed (R259). -/
def State.freeRes (s : State) (gu : Nat) : State :=
  match s.group? gu with
  | none => s
  | some g => s.setGroup { g with ress := g.ress.filter fun r =>
      r.live || (s.core (g.die * 40 + r.core)).matQ.any (·.usesRes r.uid) }

/-- OBREL makes a reservation not live (R259). -/
def execObrel (h : Hd) (d : BitVec 3) (s : State) : Out :=
  execWord (.obrel h d) h .scalar s fun x _ =>
    let g := { x.g with ress := x.g.ress.map fun r => if r.core == x.w.core && r.n == d.toNat then { r with live := false } else r }
    .done ((x.s.setGroup g).freeRes g.uid) x.w .next

/-- MWAIT holds the wave until its matrix work is complete (R264). -/
def execMwait (h : Hd) (s : State) : Out :=
  execWord (.mwait h) h .scalar s fun x _ => .done x.s { x.w with hold := .mwait } .next

/-- The registers that an MMA of the issuing wave names: as many rows as the signer count gives (R254). -/
def mmaUses (s : State) (i : Instr) (base : BitVec 6) (cv : BitVec 4) : List Use :=
  match s.iss? with
  | none => usesOf i
  | some x =>
    let n := 64 / max ((x.g.cv? x.w.core cv.toNat).map (·.signers) |>.getD 64) 1
    usesOf i ++ (if (x.frame.locs? (.acc base.toNat n)).isSome then rw 0 27 (.acc base.toNat n) else [])

/-- MMA is a signature; the last one of a generation issues it (R253, R254, R260). -/
def execMma (h : Hd) (clr : Bool) (base : BitVec 6) (ob : BitVec 3) (ld : BitVec 2) (cv : BitVec 4) (b : SReg)
    (la lb : BitVec 2) (fmt : MFmt) (s : State) : Out :=
  execUses (mmaUses s (.mma h clr base ob ld cv b la lb fmt) base cv) h .scalar s fun x _ => Chk.eff do
    let c ← match x.g.cv? x.w.core cv.toNat with
      | none => .error (.trap GRANT_FAILED (grantInfo (16 + cv.toNat) 7))
      | some c => .ok c
    let l ← match x.g.lace? x.w.core ld.toNat with
      | none => .error (.trap GRANT_FAILED (grantInfo (8 + ld.toNat) 7))
      | some l => .ok l
    let r ← match x.g.res? x.w.core ob.toNat with
      | none => .error (.trap GRANT_FAILED (grantInfo ob.toNat 14))
      | some r => .ok r
    let word := x.sreg b.toNat
    let rows := 64 / c.signers
    need (r.fmt == fmt && r.la == la && r.lb == lb) RESERVED_FIELD 0
    need (fld word 27 37 = 0 && fld word 20 7 != 0 && decide (fld word 20 7 ≤ 64)) RESERVED_FIELD 9
    need (base.toNat + rows ≤ 64 && (x.frame.locs? (.acc base.toNat rows)).isSome) RESERVED_FIELD 27
    need ((!isDxb fmt || (l.c % blockLen la = 0 && l.k % blockLen lb = 0)) && (fmt != .x4 || l.c % 2 = 0)) RESERVED_FIELD 0
    need (planeBytes fmt (64 * l.k) ≤ r.len && (!isDxb fmt || decide (r.expo + 2 * 64 * (l.k / blockLen lb) ≤ r.len)))
      GRANT_FAILED (grantInfo ob.toNat 13)
    inRange 31 x.scr (l.base, planeBytes fmt (l.h * l.w * l.c))
    if isDxb fmt then inRange 31 x.scr (l.eoff, 2 * (l.h * l.w * l.c) / blockLen la) else .ok ()
    need (l.base % max 1 (mBits fmt / 8) = 0 && l.eoff % 2 = 0) MISALIGNED (wd (31 * 16 + 1))
    let af : BitVec 9 := ob ++ ld ++ cv
    let fc : BitVec 3 := match fmt with
      | .x8 => 0
      | .x4 => 1
      | .i8 => 2
      | .f16 => 3
      | .bf16 => 4
      | .f32 => 5
    let cf : BitVec 9 := la ++ lb ++ (0 : BitVec 2) ++ fc
    let mine := Loc.win (accByte x.k.views base.toNat) (accByte x.k.views (base.toNat + rows))
    if c.signed.any (·.wave == x.w.uid) || (x.s.accPending x.w x.k.views).any (·.meets mine) then .error .wait
    else
      need (c.signed.isEmpty || c.afield == af) RESERVED_FIELD 18
      need (c.signed.isEmpty || c.cfield == cf) RESERVED_FIELD 0
      need (c.signed.isEmpty || c.word == word) RESERVED_FIELD 9
      let (s, id) := x.s.fresh
      let all := c.signed ++ [{ wave := x.w.uid, pc := x.p.pc, lanes := x.p.lanes, nest := x.p.nest, index := x.w.index, base := base.toNat, clr := clr, seq := id }]
      if all.length < c.signers then
        .ok (.done (s.setGroup (x.g.setCv { c with signed := all, afield := af, cfield := cf, word := word })) x.w .next)
      else if !x.matRoom then .error .wait
      else
        let e : MatEnt := { id := id, wave := x.w.uid, group := x.g.uid, seq := id, pc := x.p.pc, entered := x.clk,
                            started := none, kind := .mma all c.signers l r fmt la lb word none }
        .ok (.done ((s.setGroup (x.g.setCv { c with signed := [] })).matPush x.coreIx e) x.w .next)

/-- Bytes of MDRAIN's output type (R265). -/
def drainSize : FType → Nat
  | .f32 => 4
  | _ => 2

/-- The registers that an MDRAIN of the issuing wave names: as many rows as its operand word gives (R265). -/
def drainUses (s : State) (i : Instr) (base : BitVec 6) (a : SReg) : List Use :=
  match s.iss? with
  | none => usesOf i
  | some x =>
    let n := fld (x.sreg a.toNat) 36 16
    usesOf i ++ (if n ≤ 64 && (x.frame.locs? (.acc base.toNat n)).isSome then rd 0 27 (.acc base.toNat n) else [])

/-- MDRAIN drains accumulators to the scratchpad (R265 to R267). -/
def execMdrain (h : Hd) (base : BitVec 6) (a b : SReg) (act res : Bool) (rm : Rm) (f : FType) (s : State) : Out :=
  execUses (drainUses s (.mdrain h base a b act res rm f) base a) h .scalar s fun x _ => Chk.eff do
    let v0 := x.sreg a.toNat
    let v1 := x.sreg (a.toNat + 1)
    let v2 := x.sreg (a.toNat + 2)
    let v3 := x.sreg b.toNat
    let r := fld v0 36 16
    let ostr := fld v0 20 16
    let ooff := fld v0 0 20
    let rstr := fld v1 20 16
    let roff := fld v1 0 20
    let z := drainSize f
    need (fld v0 52 12 = 0 && (!res || fld v1 36 28 = 0) && fld v2 56 8 = 0 && r != 0 && decide (r ≤ 64)) RESERVED_FIELD 18
    need (base.toNat + r ≤ 64 && (x.frame.locs? (.acc base.toNat r)).isSome) RESERVED_FIELD 27
    need (ooff % z = 0 && ostr % z = 0 && (!res || (roff % 4 = 0 && rstr % 4 = 0))) MISALIGNED (wd (31 * 16 + 1))
    inRange 31 x.scr (ooff, (r - 1) * ostr + 64 * z)
    if res then inRange 31 x.scr (roff, (r - 1) * rstr + 256) else .ok ()
    let mine := Loc.win (accByte x.k.views base.toNat) (accByte x.k.views (base.toNat + r))
    if (x.s.accPending x.w x.k.views).any (·.meets mine) || !x.matRoom then .error .wait
    else
      let (s, id) := x.s.fresh
      let o := CopyOp.new x id .drain .sp .sp [] (r * 64 * z)
      let e : MatEnt := { id := id, wave := x.w.uid, group := x.g.uid, seq := id, pc := x.p.pc, entered := x.clk,
                          started := none,
                          kind := .mdrain base.toNat r ooff ostr roff rstr (fld v2 32 24) (BitVec.ofNat 32 (fld v2 0 32))
                            (fld v3 40 24) (fld v3 0 20) (fld v3 20 20) act res rm f (x.core.selAt x.clk) [] id }
      .ok (.done (({ s with ops := s.ops ++ [o] } : State).matPush x.coreIx e) x.w .next)

/-- The registers that a word of the issuing wave uses, with those that its operands or the group's matrix objects settle
(R254, R258, R265). -/
def dynUses (s : State) (i : Instr) : List Use :=
  match i with
  | .mma _ _ base _ _ cv _ _ _ _ => mmaUses s i base cv
  | .mdrain _ base a _ _ _ _ _ => drainUses s i base a
  | .obld _ _ a b => obldUses s i a b
  | _ => usesOf i

end Sys2Proof.Machine
end

