-- ==== Sys2Proof/Machine/Hyper.lean ====
section
/-! DEFINITION. The hypervector instructions (R273 to R286) and what the unit's operations compute; the scoreboard of all
variable-latency results (R63, R263, R274). -/

namespace Sys2Proof.Machine

open Sys2Proof

/-! Registers -/

/-- The first window slot (8 bytes) of hypervector register n; of counter bank n at a width. -/
def hSlot (views : Word) (n : Nat) : Nat := (256 * viewH views + 1024 * n) / 8
@[inherit_doc hSlot] def kSlot (views : Word) (c : CtrW) (n : Nat) : Nat := (256 * viewK views + 1024 * ctrwBits c * n) / 8

/-- The window bytes of a hypervector register, of a counter bank. -/
def hLoc (views : Word) (n : Nat) : Loc := .win (8 * hSlot views n) (8 * hSlot views n + 1024)
@[inherit_doc hLoc] def kLoc (views : Word) (c : CtrW) (n : Nat) : Loc :=
  .win (8 * kSlot views c n) (8 * kSlot views c n + 1024 * ctrwBits c)

/-- Places that a unit operation writes, at a counter width. -/
def UnitKind.writes (views : Word) (c : CtrW) : UnitKind → List Loc
  | .bind d _ _ | .perm d _ _ | .thr d _ | .set d _ => [hLoc views d]
  | .bund d _ | .clr d => [kLoc views c d]
  | .dist d _ _ | .pop d _ => [.sreg d]
  | .tie _ | .cw _ => []
  | .srch d _ _ two => (List.range (if two then 4 else 2)).map fun i => .sreg (d + i)

/-- Places that a unit operation reads. -/
def UnitKind.reads (views : Word) (c : CtrW) : UnitKind → List Loc
  | .bind _ a b | .dist _ a b => [hLoc views a, hLoc views b]
  | .perm _ a _ | .pop _ a | .tie a | .srch _ a _ _ => [hLoc views a]
  | .bund d a => [kLoc views c d, hLoc views a]
  | .thr _ a => [kLoc views c a]
  | .clr _ | .set _ _ | .cw _ => []

/-! The scoreboard -/

/-- The window bytes that a load writes. -/
def LoadDest.locs : LoadDest → List Loc
  | .vec a _ => [.win a (a + 256)]
  | .pair a b => [.win a (a + 256), .win b (b + 256)]
  | .hv a => [.win a (a + 1024)]
  | .none => []

/-- The counter width that a unit operation of a wave meets: the last HCW before it in the queue sets it (R274). -/
def ctrwAt (w : Wave) : List UnitOp → Nat → CtrW
  | [], _ => w.ctrw
  | u :: r, id =>
    if u.id == id then w.ctrw
    else match u.kind with
      | .cw c => if u.wave == w.uid then ctrwAt { w with ctrw := c } r id else ctrwAt w r id
      | _ => ctrwAt w r id

/-- Unit operations of a wave, each with the counter width that it meets. -/
def State.unitOf (s : State) (w : Wave) : List (UnitOp × CtrW) :=
  let q := (s.core (s.coreOf w)).unitQ
  (q.filter (·.wave == w.uid)).map fun u => (u, ctrwAt w q u.id)

/-- Places whose readers and writers the scoreboard holds: results that are still to come. -/
def State.pendingLocs (s : State) (w : Wave) (views : Word) : List Loc :=
  w.vpend.flatMap (·.locs) ++ (w.loads.flatMap fun l => l.dest.locs) ++ s.accPending w views ++
    ((s.unitOf w).flatMap fun u => u.1.kind.writes views u.2) ++
    ((s.die (s.dieOf w)).searches.filter (·.wave == w.uid)).flatMap fun x =>
      (List.range (if x.two then 4 else 2)).map fun i => Loc.sreg (x.d + i)

/-- Places whose writers the scoreboard holds: sources of unit operations that have not started. -/
def State.sourceLocs (s : State) (w : Wave) (views : Word) : List Loc :=
  ((s.unitOf w).filter fun u => u.1.started.isNone).flatMap fun u => u.1.kind.reads views u.2

/-- The scoreboard holds a word with some uses (R63). -/
def State.held (s : State) (w : Wave) (f : Frame) (us : List Use) : Bool :=
  let p := s.pendingLocs w f.views
  let r := s.sourceLocs w f.views
  us.any fun u => (f.locs u).any fun l => p.any (·.meets l) || (u.wr && r.any (·.meets l))

/-! Values -/

/-- Counters of a width in one word, lowest first, as signed values. -/
def counters (n : Nat) (w : Word) : List Int :=
  (List.range (64 / n)).map fun i =>
    let v := fld w (n * i) n
    if v < 2 ^ (n - 1) then (v : Int) else (v : Int) - 2 ^ n

/-- Signed counter values packed into a word. -/
def packCounters (n : Nat) (l : List Int) : Word := wd ((l.zipIdx).foldl (fun a p => a + (p.1 % 2 ^ n).toNat * 2 ^ (n * p.2)) 0)

/-- The number of 1-bits of a word. -/
def ones (w : Word) : Nat := ((List.range 64).filter fun i => w.getLsbD i).length

/-- Bit i of a hypervector given as 64-bit words. -/
def hBit (h : List Word) (i : Nat) : Bool := (h.getD (i / 64) 0).getLsbD (i % 64)

/-- A hypervector from its bits, as 128 words. -/
def hOf (f : Nat → Bool) : List Word :=
  (List.range 128).map fun j => wd ((List.range 64).foldl (fun a i => a + b2n (f (64 * j + i)) * 2 ^ i) 0)

/-- One counter of HBUND (R277): the new value, and whether it saturated. -/
def bundOne (n : Nat) (c : Int) (up : Bool) : Int × Bool :=
  let m : Int := 2 ^ (n - 1) - 1
  let t := c + if up then 1 else -1
  (max (-m) (min m t), decide (m < t) || decide (t < -m))

/-- The counters of a bank, in order. -/
def bankCounters (n : Nat) (k : List Word) : List Int := k.flatMap (counters n)

/-- Counters packed into words, 64 / n to a word. -/
def packBank (n : Nat) (cs : List Int) : List Word :=
  (List.range (cs.length * n / 64)).map fun j => packCounters n ((cs.drop (64 / n * j)).take (64 / n))

/-- HBUND (R277). -/
def bund (n : Nat) (k h : List Word) : List Word × Bool :=
  let r := ((bankCounters n k).zipIdx).map fun p => bundOne n p.1 (hBit h p.2)
  (packBank n (r.map (·.1)), r.any (·.2))

/-- HTHR (R278). -/
def thr (n : Nat) (k tb : List Word) : List Word :=
  let cs := bankCounters n k
  hOf fun i => if 0 < cs.getD i 0 then true else if cs.getD i 0 < 0 then false else hBit tb i

/-- HPERM (R276). -/
def perm (h : List Word) (n : Nat) : List Word := hOf fun i => hBit h ((i + 8192 - n % 8192) % 8192)

/-- The popcount of a hypervector. -/
def popHv (h : List Word) : Nat := (h.map ones).sum

/-- Bitwise XOR of two hypervectors. -/
def xorHv (a b : List Word) : List Word := (a.zip b).map fun p => p.1 ^^^ p.2

/-! Instructions -/

/-- A unit operation enters the core's queue, or waits for room (R274). -/
def Iss.unit (x : Iss) (w : Wave) (k : UnitKind) : Eff :=
  if 8 ≤ x.core.unitQ.length then .wait
  else
    let (s, id) := x.s.fresh
    let u : UnitOp := { id := id, wave := x.w.uid, pc := x.p.pc, issued := x.clk, started := none, kind := k, read := [] }
    .done { s with cores := s.cores.modify x.coreIx fun c => { c with unitQ := c.unitQ ++ [u] } } w .next

/-- HBIND (R276). -/
def execHbind (h : Hd) (d a b : BitVec 4) (s : State) : Out :=
  execWord (.hbind h d a b) h .scalar s fun x _ => x.unit x.w (.bind d.toNat a.toNat b.toNat)

/-- HPERM (R276). -/
def execHperm (h : Hd) (d a : BitVec 4) (b : SReg) (s : State) : Out :=
  execWord (.hperm h d a b) h .scalar s fun x _ => x.unit x.w (.perm d.toNat a.toNat (x.sreg b.toNat).toNat)

/-- HBUND (R277). -/
def execHbund (h : Hd) (d : BitVec 1) (a : BitVec 4) (s : State) : Out :=
  execWord (.hbund h d a) h .scalar s fun x _ => x.unit x.w (.bund d.toNat a.toNat)

/-- HTHR (R278). -/
def execHthr (h : Hd) (d : BitVec 4) (a : BitVec 1) (s : State) : Out :=
  execWord (.hthr h d a) h .scalar s fun x _ => x.unit x.w (.thr d.toNat a.toNat)

/-- HCLR (R279). -/
def execHclr (h : Hd) (d : BitVec 1) (s : State) : Out :=
  execWord (.hclr h d) h .scalar s fun x _ => x.unit x.w (.clr d.toNat)

/-- HSET (R276). -/
def execHset (h : Hd) (d : BitVec 4) (a : SReg) (s : State) : Out :=
  execWord (.hset h d a) h .scalar s fun x _ => x.unit x.w (.set d.toNat (x.sreg a.toNat))

/-- HDIST (R280). -/
def execHdist (h : Hd) (d : SReg) (a b : BitVec 4) (s : State) : Out :=
  execWord (.hdist h d a b) h .scalar s fun x _ => x.unit x.w (.dist d.toNat a.toNat b.toNat)

/-- HPOP (R280). -/
def execHpop (h : Hd) (d : SReg) (a : BitVec 4) (s : State) : Out :=
  execWord (.hpop h d a) h .scalar s fun x _ => x.unit x.w (.pop d.toNat a.toNat)

/-- HTIE (R276). -/
def execHtie (h : Hd) (a : BitVec 4) (s : State) : Out :=
  execWord (.htie h a) h .scalar s fun x _ => x.unit x.w (.tie a.toNat)

/-- HCW sets the counter width; the view of counters must fit it (R279). Where it does not, the word itself traps, after its
uniform guard (DEDUCED, assumption 39). -/
def execHcw (h : Hd) (w : CtrW) (s : State) : Out :=
  execWord (.hcw h w) h .scalar s fun x _ =>
    if (({ x.frame with ctrw := w } : Frame).locs? (.k 1)).isNone then .trap RESERVED_FIELD 0
    else x.unit { x.w with ctrwNext := w } (.cw w)

/-- HSRCH and HSRCH2 enter the unit, then the Geode of the die (R284). -/
def Iss.search (x : Iss) (d : SReg) (a : BitVec 4) (b : SReg) (two : Bool) : Eff :=
  let v := x.sreg b.toNat
  if fld v 3 61 != 0 then .trap RESERVED_FIELD 9 else x.unit x.w (.srch d.toNat a.toNat (fld v 0 3) two)

/-- HSRCH (R284). -/
def execHsrch (h : Hd) (d : SReg) (a : BitVec 4) (b : SReg) (s : State) : Out :=
  execWord (.hsrch h d a b) h .scalar s fun x _ => x.search d a b false

/-- HSRCH2 (R284). -/
def execHsrch2 (h : Hd) (d : SReg) (a : BitVec 4) (b : SReg) (s : State) : Out :=
  execWord (.hsrch2 h d a b) h .scalar s fun x _ => x.search d a b true

/-- The checks of HLD and HST: 1,024 bytes at an offset that is a multiple of 16, in lane 0 (R281). -/
def Iss.hvPlace (x : Iss) (e : Endp) (off_ : Nat) (store : Bool) : Chk Place :=
  let offs := [(0, off_)]
  match e with
  | .region c => do
    let g ← x.usable c.toNat (!store) (if store then [.x] else [.x, .s, .a]) (if store then 1 else 0)
    inBounds c.toNat g.len 1024 offs
    aligned c.toNat 16 offs
    .ok { tgt := .grant g.gid, base := g.ia, direct := x.s.direct g, code := c.toNat }
  | _ => do
    inBounds 31 x.scr 1024 offs
    aligned 31 16 offs
    .ok { tgt := .sp x.g.uid, base := 0, direct := true, code := 31 }

/-- HLD loads a hypervector register (R281). -/
def execHld (h : Hd) (d : BitVec 4) (a : Endp) (b : SReg) (s : State) : Out :=
  execWord (.hld h d a b) h .scalar s fun x _ => Chk.eff do
    let o := (x.sreg b.toNat).toNat
    let p ← x.hvPlace a o false
    let (s, n) := x.s.fresh
    let ent := x.missing p 0 1024 [p.base + o]
    let l : LoadP := { id := n, seq := n, pc := x.p.pc, code := p.code, tgt := p.tgt, size := 1024,
                       lanes := [{ lane := 0, addr := p.base + o, got := none }],
                       dest := .hv (8 * hSlot x.k.views d.toNat), atomic := false, miss := ent, hint := 0, via := x.via p.tgt n, asked := [] }
    .ok (x.withEntries s { x.w with loads := x.w.loads ++ [l] } n ent.length)

/-- HST stores a hypervector register (R281). -/
def execHst (h : Hd) (d : BitVec 4) (a : Endp) (b : SReg) (s : State) : Out :=
  execWord (.hst h d a b) h .scalar s fun x _ => Chk.eff do
    let o := (x.sreg b.toNat).toNat
    let p ← x.hvPlace a o true
    x.storeFree p.tgt 1024 [p.base + o]
    let (s, n) := (x.s.mergeStore x.coreIx p.tgt p.direct 0 1024 [p.base + o]).fresh
    let slot := hSlot x.k.views d.toNat
    let bytes := (List.range 128).flatMap fun i => leBytes 8 (x.w.readSlot x.clk (slot + i)).toNat
    let e : OEnt := { seq := n, pc := x.p.pc, code := p.code, tgt := p.tgt, kind := .write (p.base + o) bytes [] }
    .ok (.done s { x.w with outbox := x.w.outbox ++ [e] } .next)

end Sys2Proof.Machine
end

