-- ==== Sys2Proof/Machine/System.lean ====
section
/-! DEFINITION. The system, slot and sampler instructions (R297, R298, R361 to R365). -/

namespace Sys2Proof.Machine

open Sys2Proof

/-- TRAP raises USER_TRAP precisely (R298). -/
def execTrap (h : Hd) (imm : BitVec 18) (s : State) : Out :=
  execWord (.trap h imm) h .scalar s fun _ _ => .trap USER_TRAP (imm.setWidth 64)

/-- TRET leaves the handler (R298): the partition continues at %tpc, or after it. Without a handler it traps. A partition
that may not run while another is in the handler gives up its turn (R81). -/
def execTret (h : Hd) (skip : Bool) (s : State) : Out :=
  execWord (.tret h skip) h .scalar s fun x _ =>
    if x.p.saved.isNone then .trap ILLEGAL_OPCODE 0x3C1
    else
      let r := x.w.leaveHandler x.clk x.p x.ps (if skip then x.w.tpc + 8 else x.w.tpc) h.sc.toNat
      let m := mergePart r.2 x.ps
      if canRun m.2 m.1 then .done x.s r.1 (.exact (m.1 :: m.2))
      else .done x.s r.1 (.exact (nextTurn m.1.low (insPart m.2 m.1)))

/-- A special register of a lane (Table 5.3), as it stands at the issue of the MFS, %clk and %slot too (DESIGN CHOICE, assumption
129). -/
def Iss.special (x : Iss) (a : Special) (lane : Nat) : Word :=
  match a with
  | .lane => wd lane
  | .wave => wd x.w.index
  | .nwave => wd x.k.wpg
  | .grp => wd x.g.grp
  | .ngrp => wd x.k.ngrp
  | .vdie => wd x.g.vdie
  | .core => wd x.w.core
  | .clk => wd x.clk
  | .kid => x.k.kid.setWidth 64
  | .tcause => x.w.tcause.setWidth 64
  | .tpc => x.w.tpc
  | .tinfo => x.w.tinfo
  | .tlanes => x.w.tlanes.setWidth 64
  | .slot => wd (x.clk / 65536)
  | .spbase => wd (((x.g.cores.zip x.g.bases).find? (·.1 == x.w.core)).map (·.2) |>.getD 0)

/-- MFS reads a special register, into a scalar or into each active lane (R298). -/
def execMfs (h : Hd) (d : BitVec 9) (a : Special) (scalar : Bool) (s : State) : Out :=
  execWord (.mfs h d a scalar) h (if scalar then .scalar else .vector) s fun x act =>
    if scalar then
      let r := Iss.vlate x.s (x.w.sset d.toNat (x.special a 0)) [.sreg d.toNat]
      .done r.1 r.2 .next
    else
      let slot := x.frame.vslot d.toNat
      let r := Iss.vlate x.s { x.w with win := act.foldl (fun m l => wset m (slot + l) (x.special a l)) x.w.win }
        ((x.frame.locs? (.v d.toNat 1)).getD [])
      .done r.1 r.2 .next

/-- A trap special register written, masked to its width; %tpc keeps bits 2 to 0 at 0 (R298). -/
def Wave.setSpecial (w : Wave) (d : Special) (v : Word) : Wave :=
  match d with
  | .tcause => { w with tcause := v.setWidth 8 }
  | .tpc => { w with tpc := v &&& ~~~7#64 }
  | .tinfo => { w with tinfo := v }
  | .tlanes => { w with tlanes := v.setWidth 32 }
  | _ => w

/-- MTS writes a trap special register (R298). -/
def execMts (h : Hd) (d : Special) (a : SReg) (s : State) : Out :=
  execWord (.mts h d a) h .scalar s fun x _ => .done x.s (x.w.setSpecial d (x.sreg a.toNat)) .next

/-- The hop distance of two virtual dies (R30). -/
def State.hopDist (s : State) (vdies : BitVec 32) (a b : Nat) : Nat :=
  match physDie? vdies a, physDie? vdies b with
  | some x, some y => if x = y then 0 else (s.hops? false x y).getD 0xFF
  | _, _ => 0xFF

/-- DIST gives the hop distance of two virtual dies (R30, R298). Of the instants between issue and completion at which R30 lets it take
the table and the link states, it takes its issue (DESIGN CHOICE, assumption 128). -/
def execDist (h : Hd) (d a b : SReg) (s : State) : Out :=
  execWord (.dist h d a b) h .scalar s fun x _ =>
    let v := x.s.hopDist x.c.vdies (fld (x.sreg a.toNat) 0 3) (fld (x.sreg b.toNat) 0 3)
    let r := Iss.vlate x.s (x.w.sset d.toNat (wd v)) [.sreg d.toNat]
    .done r.1 r.2 .next

/-- HALT records its code and kills the issuing group (R298). -/
def execHalt (h : Hd) (a : SReg) (s : State) : Out :=
  execWord (.halt h a) h .scalar s fun x _ =>
    .stay (((x.s.note x.w.uid 0 x.p.pc).record x.k.ctx
      { clk := x.clk, pc := x.p.pc, info := x.sreg a.toNat, kid := x.k.kid, code := USER_TRAP, source := 1,
        wave := x.w.index }).killGroup x.g.uid)

/-! The slot calendar (R348, R349) -/

/-- The kind mask of a slot (Table 20.1). -/
def slotMask (n : Nat) : Nat := 0x13 + (if n % 16 = 0 then 4 else 0) + (if n % 64 = 0 then 8 else 0)

/-- The three words of SLOTQ at a clk (Table 20.7). -/
def slotWords (t : Nat) : Word × Word × Word :=
  let m := t % 65536
  let n := t / 65536
  (wd (65536 - m), wd (65536 * 2 ^ 32 + (if m < 2048 then 2048 - m else 0) * 65536 + 2048),
   wd ((n + 1) % 2 ^ 48 * 65536 + (if m < 2048 then slotMask n else 0) * 256 + slotMask (n + 1)))

/-- SLOTQ reports the slot calendar (R362). -/
def execSlotq (h : Hd) (d : SReg) (s : State) : Out :=
  execWord (.slotq h d) h .scalar s fun x _ =>
    let v := slotWords x.clk
    let n := d.toNat
    let r := Iss.vlate x.s (((x.w.sset n v.1).sset (n + 1) v.2.1).sset (n + 2) v.2.2)
      [.sreg n, .sreg (n + 1), .sreg (n + 2)]
    .done r.1 r.2 .next

/-! The stall sampler (R356, R363 to R365) -/

/-- SMPCFG takes and configures the core's sampler (R363). -/
def execSmpcfg (h : Hd) (a : SReg) (s : State) : Out :=
  execWord (.smpcfg h a) h .scalar s fun x _ => Chk.eff do
    let v := x.sreg a.toNat
    let base := fld v 0 20
    let n := fld v 20 16
    let p := fld v 36 24
    need (n != 0 && decide (n ≤ 32768) && decide (16 ≤ p) && fld v 60 4 = 0) RESERVED_FIELD 18
    need (base % 32 = 0) MISALIGNED 0x1F1
    inRange 31 x.scr (base, 32 * n)
    if x.core.sampler.owner.any (· != x.g.uid) then .error .wait
    else
      let m : Sampler := { Sampler.reset with owner := some x.g.uid, base := base, cap := n, period := p }
      .ok (.done (x.s.setCore x.coreIx { x.core with sampler := m }) x.w .next)

/-- The group that issues owns the sampler, which is configured (R361). -/
def Iss.ownsSampler (x : Iss) : Bool := x.core.sampler.owner == some x.g.uid

/-- SMPON raises the consumed count and turns the sampler on (R364). -/
def execSmpon (h : Hd) (a : SReg) (s : State) : Out :=
  execUses (hdUses false .zero h ++ rd 1 18 (.s a.toNat 1)) h .scalar s fun x _ =>
    if !x.ownsSampler then .trap GRANT_FAILED 0x1F7
    else
      let m := x.core.sampler
      let m := { m with c := max m.c (min (fld (x.sreg a.toNat) 0 32) m.w), on := true, ton := if m.on then m.ton else x.clk }
      .done (x.s.setCore x.coreIx { x.core with sampler := m }) x.w .next

/-- SMPOFF turns the sampler off and returns its counts (R365). Every sample before this clk has written its record
(assumption 20). -/
def execSmpoff (h : Hd) (d : SReg) (s : State) : Out :=
  execUses (hdUses false .zero h ++ wr 0 27 (.s d.toNat 1)) h .scalar s fun x _ =>
    if !x.ownsSampler then .trap GRANT_FAILED 0x1F7
    else
      let m := x.core.sampler
      let s := x.s.setCore x.coreIx { x.core with sampler := { m with on := false } }
      let r := Iss.vlate s (x.w.sset d.toNat (wd (m.w % 2 ^ 32 * 2 ^ 32 + m.dropped))) [.sreg d.toNat]
      .done r.1 r.2 .next

end Sys2Proof.Machine
end

