-- ==== Sys2Proof/Machine/Fetch.lean ====
section
/-! DEFINITION. Instruction fetch (R87, R289, R290, R381), the end of the waits after issue, readiness of a wave
(R319), and the events of fetch and of deferred faults. -/

namespace Sys2Proof.Machine

open Sys2Proof

/-! Fetch -/

/-- The IA of an instruction address under the context's range registers; none without an executable hit (R290). -/
def State.fetchIa? (s : State) (ctx : Nat) (pc : Nat) : Option Nat :=
  match (s.ctx ctx).map? pc 8 with
  | none => none
  | some m =>
    let ia := m.ia pc
    if m.w0.getLsbD 2 && !(decide (iaSpace ia < 3) && decide (8 ≤ iaDie ia)) then some ia else none

/-- The byte of an exclusive grant's store that a sector's fetch sees: that of a holder in the sector (R95; DEDUCED,
assumption 21). -/
def State.sectorByte? (s : State) (die sector ia : Nat) : Option Byte :=
  s.grants.findSome? fun g =>
    if g.kind == .x && decide (g.ia ≤ ia) && decide (ia < g.ia + g.len) && s.holderAt g.reg == (die, sector) then
      sget? g.gs ia
    else none

/-- One byte of code as it stands for a core; none when its page is unmapped. -/
def State.codeByte? (s : State) (core ia : Nat) : Option Byte :=
  match s.sectorByte? (core / 40) (s.sector (core / 40) (core % 40)) ia with
  | some b => some b
  | none => match s.keyOf ia with
    | (s', .inl k) => some (s'.byteAt k)
    | (_, .inr _) => none

/-- The eight words of a line of code. -/
def State.codeLine? (s : State) (core line : Nat) : Option (List Word) :=
  (List.range 8).mapM fun i =>
    ((List.range 8).mapM fun j => s.codeByte? core (64 * line + 8 * i + j)).map leWord

/-- What fetch answers for an address: the word, a line that is still to be filled, or no executable hit. -/
inductive Fetched
  | word (w : Word)
  | miss (line : Nat)
  | fault
deriving DecidableEq, Repr

/-- Fetch of the word at an address by a core. -/
def State.fetch (s : State) (core ctx pc : Nat) : Fetched :=
  match s.fetchIa? ctx pc with
  | none => .fault
  | some ia =>
    match (s.core core).icache.find? (·.line == ia / 64) with
    | none => .miss (ia / 64)
    | some l => .word (l.words.getD (ia / 8 % 8) 0)

/-- %tinfo of PAGE_PERM (R290). -/
def fetchInfo (pc : Nat) : Word := wd (1 + 65536 * (pc % 2 ^ 48))

/-- A line becomes the most recently used of 1,024 (R381). -/
def Core.touchLine (c : Core) (line : Nat) : Core :=
  match c.icache.find? (·.line == line) with
  | none => c
  | some l => { c with icache := l :: c.icache.filter (·.line != line) }

/-! Vector pipe -/

/-- A word takes the quad's vector pipe (R72, R77, R85, R179, R297). -/
def vectorPipe (w : Word) : Bool :=
  let op := fld w 53 10
  w.getLsbD 63 ||
  match op / 128 with
  | 0 => [2, 3, 4, 5, 6, 0x10].contains op
  | 1 => !op.testBit 6
  | 2 | 3 => true
  | 4 => op != 0x20B && op != 0x20C
  | 6 => op == 0x311 || op == 0x312
  | 7 => op == 0x3C2 && !w.getLsbD 0
  | _ => false

/-! Waits after issue -/

/-- Every load before an access number has performed (Table 9.6, .wave). -/
def Wave.loadsDone (w : Wave) (seq : Nat) : Bool :=
  w.loads.all fun l => l.atomic || l.pref || decide (seq ≤ l.seq) || l.lanes.all (·.got.isSome)

/-- Home atomics of a wave before an access number, at homes that a test accepts, have been performed. -/
def State.atomicsDone (s : State) (u seq : Nat) (home : Nat → Bool) : Bool :=
  (s.hqs.all fun h => !(h.2.wave == u && decide (h.2.id < seq) && home h.1)) &&
  s.reins.all fun m => match m.kind with
    | .atomic a => !(a.wave == u && decide (a.id < seq) && home m.dst)
    | _ => true

/-- The condition of a FENCE scope (Table 9.6). -/
def State.fenceDone (s : State) (w : Wave) (sc : Scope) (seq : Nat) : Bool :=
  let loads := w.loadsDone seq
  let box := w.outbox.all fun e => decide (seq ≤ e.seq)
  match sc with
  | .wave => loads
  | .grp => loads && box
  | .sec | .die => loads && box && s.atomicsDone w.uid seq (· == s.dieOf w)
  | .dev | .sys =>
    loads && box && s.atomicsDone w.uid seq (fun _ => true) &&
    (s.packets.all fun p => !(p.wave == w.uid && match p.kind with
      | .write | .read _ => true
      | _ => false)) &&
    (s.reins.all fun m => !(m.wave == w.uid && match m.kind with
      | .atomic _ | .request _ | .ret _ => true
      | .flag _ _ _ copy _ => !copy
      | _ => false)) &&
    (s.flags.all fun f => f.wave != w.uid || f.copy) && s.acks.all fun a => a.wave != w.uid

/-- A matrix operation that a wave issued or signed is not complete (R264). -/
def State.matrixBusy (s : State) (w : Wave) : Bool :=
  ((s.core (s.coreOf w)).matQ.any fun m => match m.kind with
    | .mma sg _ _ _ _ _ _ _ _ => sg.any (·.wave == w.uid)
    | _ => m.wave == w.uid) ||
  (match s.group? w.group with
   | some g => g.cvs.any fun c => c.signed.any (·.wave == w.uid)
   | none => false)

/-- A wave holds the stamp of its kernel (R212). -/
def State.isHolder (s : State) (w : Wave) : Bool :=
  match s.group? w.group with
  | none => false
  | some g => match s.kernel? g.kernel with
    | none => false
    | some k => k.stamp.any fun st => st.passing.isNone && !st.retired && !st.moving && st.grp == g.grp && st.wave == w.index

/-- Every chunk of an operation has taken O6, and every remote one O8 (R210). -/
def State.chunksDone (s : State) (o : CopyOp) : Bool :=
  (o.started || o.kind == .drain) && o.pos = o.len && s.packets.all fun p => p.arrived || p.kind != .chunk o.id

/-- A CWAIT for batches up to `n` waits for an operation: one of them, not complete, that no slot has suspended (R210). -/
def State.cwaitsFor (s : State) (w : Wave) (n : Nat) (o : CopyOp) : Bool :=
  o.wave == w.uid && decide (1 ≤ o.batch) && decide (o.batch ≤ n) && o.overran.isNone && !s.chunksDone o

/-- The wait in which a wave stands after issue is over. -/
def State.holdOver (s : State) (w : Wave) : Bool :=
  match w.hold with
  | .none => true
  | .barrier _ _ (some c) => decide (c ≤ s.clk)
  | .fence sc seq => s.fenceDone w sc seq
  | .cwait n => s.ops.all fun o => !s.cwaitsFor w n o
  | .mwait => !s.matrixBusy w
  | .stmpw => s.isHolder w
  | .chpush seq => w.outbox.all fun e => !(e.seq == seq && match e.kind with
    | .chan _ _ => true
    | _ => false)
  | .until_ c => decide (c ≤ s.clk)
  | _ => false

/-- Waits that are over are cleared. -/
def State.clearHolds (s : State) : State :=
  { s with waves := s.waves.map fun w => if w.hold != .none && s.holdOver w then { w with hold := .none } else w }

/-! Readiness -/

/-- The context of a wave lets it issue: it is not FAULTED, and no pre-emption saves the wave's group (Table 14.2, R296). -/
def State.mayIssue (s : State) (w : Wave) : Bool :=
  let c := s.ctx (s.ctxOf w)
  c.st != .faulted && (!c.preempting || (match s.group? w.group with
    | some g => g.st == .exiting
    | none => true))

/-- The current partition of a wave that could issue: conditions 1 (its redirect), 2 and 5 of R319. -/
def State.offered? (s : State) (w : Wave) : Option Part :=
  match w.parts with
  | [] => none
  | p :: ps =>
    if w.st == .resident && canRun ps p && decide (p.redirect ≤ s.clk) && decide (w.nextIssue ≤ s.clk) &&
        s.holdOver w && decide ((s.core (s.coreOf w)).fetchAt ≤ s.clk) && s.mayIssue w
    then some p else none

/-- The oldest deferred fault of a wave taken instead of its next word (R291). -/
def State.takeDeferred (s : State) (w : Wave) (p : Part) : State :=
  match w.deferred with
  | [] => s
  | f :: r => (s.note w.uid 0 p.pc).takeTrap { w with deferred := r, hold := .none } f.code f.info 0

/-- A fetch without an executable hit raises PAGE_PERM for the word at that address (R290). -/
def State.fetchFault (s : State) (w : Wave) (p : Part) : State :=
  (s.note w.uid 0 p.pc).takeTrap { w with hold := .none } PAGE_PERM (fetchInfo p.pc.toNat) 0

/-- A line of code comes from memory or from another die, which a slot pauses, and not from the core's own scratchpad or from
what a holder in its sector has stored (R350). -/
def State.codePauses (s : State) (core line : Nat) : Bool :=
  let ia := 64 * line
  !(iaSpace ia == 2 && homeOf ia == core / 40) &&
    (List.range 64).any fun i => (s.sectorByte? (core / 40) (s.sector (core / 40) (core % 40)) (ia + i)).isNone

/-- A wave whose next word lies where no route leads takes LINK_PARTITION in its place (R15, R338; DEDUCED, assumption 122). -/
def State.fetchLost (s : State) (w : Wave) (p : Part) (reason ia : Nat) : State :=
  (s.note w.uid 0 p.pc).takeTrap { w with hold := .none } LINK_PARTITION (linkInfo 31 reason ia) 0

/-- INSTRUCTION_CACHE_FILL (R319): the line of a waiting wave's next word is filled over a route to its home (R15), or a wave
that would issue finds no executable hit. -/
def execInstructionCacheFill (w : Nat) (s : State) : Out :=
  execEvent s fun s => s.pinning (.fetch w) fun s => do
    let w ← s.wave? w
    let p ← w.parts.head?
    let core := s.coreOf w
    if !w.slotHeld || s.clk < (s.core core).fetchAt then none
    match s.fetch core (s.ctxOf w) p.pc.toNat with
    | .word _ => none
    | .fault =>
      let p ← s.offered? w
      some (if w.deferred.isEmpty then s.fetchFault w p else s.takeDeferred w p)
    | .miss line =>
      match s.girthReach (core / 40) (homeOf (64 * line)) with
      | .waits => none
      | .fail r =>
        let p ← s.offered? w
        some (if w.deferred.isEmpty then s.fetchLost w p r (64 * line) else s.takeDeferred w p)
      | .ok =>
      if s.inSlot && s.codePauses core line then none
      let ws ← s.codeLine? core line
      let c := s.core core
      some (s.setCore core { c with icache := ({ line := line, words := ws } :: c.icache).take 1024 })

/-- CHPOP_CLAIM (R235): a waiting CHPOP that its wave would issue claims its entry. -/
def execChpopClaim (w : Nat) (s : State) : Out :=
  execEvent s fun s => do
    let w ← s.wave? w
    let p ← s.offered? w
    if !w.deferred.isEmpty then none
    match s.fetch (s.coreOf w) (s.ctxOf w) p.pc.toNat with
    | .word v => match decodeWord v with
      | .word [] (.chpop h d a) =>
        let s := { s with cur := some w.uid }
        match s.iss? with
        | none => none
        | some x =>
          if s.held w x.frame (usesOf (.chpop h d a)) || decide (s.clk < (s.core x.coreIx).pipes.getD w.quad 0) then none
          else match execChpop h d a (s.setWave { w with hold := .none }) with
            | .next t => some { t with cur := none }
            | _ => none
      | _ => none
    | _ => none

end Sys2Proof.Machine
end

