-- ==== Sys2Proof/Machine/Waves.lean ====
section
/-! DEFINITION. Events of waves: variable-latency results, loads and miss-status entries, full-empty words, turns, sleep,
bins, wave slots, swap-out and restore (R63, R79, R82, R89, R90, R183, R185, R191, R192, R320). -/

namespace Sys2Proof.Machine

open Sys2Proof

/-- A list without elements that satisfy a test. -/
def dropIf {α : Type} (p : α → Bool) (l : List α) : List α := l.filter fun x => !p x

/-- VARIABLE_LATENCY_WRITE (R63): a result lands and the scoreboard releases it; a CHPOP's entry counts as read (R235).
The sf of a BRW and the drop count of a ROUTE are released by their own events. -/
def execVariableLatencyWrite (w id : Nat) (s : State) : Out :=
  execEvent s fun s => do
    let w ← s.wave? w
    let v ← w.vpend.find? (·.id == id)
    if (s.grants.any (·.gid == id)) || s.ops.any (·.id == id) then none
    let s := s.setWave { w with vpend := dropIf (·.id == id) w.vpend }
    match v.chan with
    | none => some s
    | some (n, ix) => do
      let g ← s.group? w.group
      let c ← g.chan? n
      some (s.setGroup (g.setChan (c.done ix)))

/-! Loads -/

/-- A parked access that has ended leaves its places. -/
def State.unpark (s : State) (r : AccRef) : State :=
  { s with dies := s.dies.map fun d =>
      if d.parked.any (·.ref == r) || d.bouncedAcc.any (·.1.ref == r) then
        { d with parked := dropIf (·.ref == r) d.parked, bouncedAcc := dropIf (·.1.ref == r) d.bouncedAcc }
      else d }

/-- The caches hold every byte that a load has still to read: it needs no route (R191, R338). -/
def State.allCached (s : State) (w : Wave) (l : LoadP) (g : Grant) : Bool :=
  !s.direct g && !l.atomic && (pieces l.size ((l.lanes.filter (·.got.isNone)).map (·.addr))).all (s.cached (s.coreOf w) g l.hint)

/-- The home of a load's bytes is another die or endpoint: whether it is reached. Requests that an endpoint has been sent stand
(R345). -/
def State.loadReach (s : State) (w : Wave) (l : LoadP) : Reach :=
  match l.tgt with
  | .sp _ => .ok
  | .grant gid => match s.grant? gid with
    | none => .ok
    | some g =>
      let far := s.farLines l
      let sent := !far.isEmpty && far.all l.asked.contains
      if (s.windowOf? (s.grants.length + 1) g).isSome || s.allCached w l g || sent then .ok else s.girthReach (s.dieOf w) g.home

/-- The result of a load as it is written. -/
def Wave.writeLoad (w : Wave) (l : LoadP) : Wave :=
  let lanes := l.lanes.filterMap fun r => r.got.map fun b => (r.lane, b)
  match l.dest with
  | .vec a t => { w with win := lanes.foldl (fun m p => wset m (a / 8 + p.1) (extBytes t p.2)) w.win }
  | .pair a b => { w with win := lanes.foldl (fun m p =>
      wset (wset m (a / 8 + p.1) (leWord (p.2.take 8))) (b / 8 + p.1) (leWord (p.2.drop 8))) w.win }
  | .hv a => { w with win := lanes.foldl (fun m p =>
      winSetWords m (a / 8) ((List.range 128).map fun i => leWord ((p.2.drop (8 * i)).take 8))) w.win }
  | .none => w

/-- A load waits for its wave: for entries, or for full granules (R185, R192). -/
def Wave.loadWaits (w : Wave) (l : LoadP) : Bool :=
  w.unserved l.seq || (match w.hold with
    | .fullEmpty n _ => n == l.id
    | _ => false)

/-- No access of a wave is parked or still to be completed, so that a wave that is swapped out may be restored (R320). -/
def State.accessesOver (s : State) (w : Wave) : Bool := w.loads.all w.loadWaits && !s.isParked (.fetch w.uid)

/-- A load leaves its wave: its entries are freed. -/
def State.endLoad (s : State) (w : Wave) (l : LoadP) : State :=
  let w := { w with loads := dropIf (·.id == l.id) w.loads }
  let s := (s.unpark (.load w.uid l.id)).missFree (s.coreOf w) l.entries
  s.setWave { w with eligible := if w.st == .swapped && s.accessesOver w && w.eligible.isNone then some s.clk else w.eligible }

/-- A load that fails writes no lane, and its wave holds the fault (R199, R339); the request of a PREF ends without one
(R195). -/
def State.failLoad (s : State) (w : Wave) (l : LoadP) (code : Nat) (info : Word) : State :=
  if l.pref then s.endLoad w l else (s.endLoad w l).defer w.uid { code := code, info := info, pc := l.pc }

/-- Traffic of an endpoint keeps its delivery context open (R346). -/
def State.touchDeliv (s : State) (ep : Nat) : State :=
  { s with delivs := s.delivs.map fun d => if d.ep == ep then { d with last := s.clk } else d }

/-- The fabric endpoint that a load reads. -/
def State.loadEp? (s : State) (l : LoadP) : Option Nat :=
  match l.tgt with
  | .sp _ => none
  | .grant gid => (s.grant? gid).bind fun g => if 8 ≤ g.home && !l.atomic then some (g.home - 8) else none

/-- LOAD_WRITEBACK (R183): a lane of a load performs (R202), or every lane has performed and the result is written. An endpoint
may refuse it (R344), and a lane that reads lines of an endpoint waits for its requests there. A lane that would read an uncorrectable sector fails the word (R199). -/
def execLoadWriteback (w id : Nat) (what : LoadStep) (s : State) : Out :=
  execEvent s fun s => s.pinning (.load w id) fun s => do
    let cap := what.lane?
    let w ← s.wave? w
    let l ← w.loads.find? (·.id == id)
    if w.loadWaits l then none
    if what == .refused then
      if (s.loadEp? l).isNone || l.lanes.all (·.got.isSome) then none
      some (s.failLoad w l GRANT_FAILED (wd (16 * l.code + 8)))
    else match if (s.farLines l).isEmpty then s.loadReach w l else .ok with
    | .waits => none
    | .fail r =>
      if l.atomic then none
      some (s.failLoad w l LINK_PARTITION (linkInfo l.code r ((l.lanes.head?.map (·.addr)).getD 0)))
    | .ok =>
      if s.inSlot && !l.atomic && s.pauses (s.coreOf w) l.tgt l.size ((l.lanes.filter fun r => r.got.isNone && cap.all (· == r.lane)).map (·.addr))
      then none
      let s := match s.loadEp? l with
        | some e => s.touchDeliv e
        | none => s
      if let some b := (if l.atomic then none else s.badLanes? (s.coreOf w) l cap) then
        return s.failLoad w l MEM_UNCORRECTABLE (memInfo l.code b.tier l.pc)
      let (s, lanes) := s.capture w l cap l.lanes
      let (s, l') := s.filled w { l with lanes := lanes }
      if cap.isSome then
        if lanes == l.lanes then none
        some (s.setWave { w with loads := w.loads.map fun m => if m.id == id then l' else m })
      else if lanes.all (·.got.isSome) then some (s.endLoad (w.writeLoad l') l')
      else none

/-! Miss-status entries -/

/-- The wave served first on a core takes its entries if there are enough (R192). -/
def State.serveMiss (s : State) (core : Nat) : Option State :=
  match (s.missQueue core).head? with
  | none => none
  | some w => match w.hold with
    | .miss _ n _ =>
      if (s.core core).missUsed + n ≤ 256 then some ((s.missAdd core n).setWave { w with hold := .none }) else none
    | _ => none

/-- MISS_ENTRIES_TAKEN (R192). -/
def execMissEntriesTaken (w : Nat) (s : State) : Out :=
  execEvent s fun s => do
    let v ← s.wave? w
    let f ← (s.missQueue (s.coreOf v)).head?
    if f.uid == w then s.serveMiss (s.coreOf v) else none

/-- An acknowledgement has come: its entries are free, and the packet or message of that name is no longer outstanding (R346). -/
def State.acked (s : State) (a : Ack) : State :=
  let dst? := ((s.packets.find? (·.id == a.id)).map (·.dst)).or ((s.unacked.find? (·.id == a.id)).map (·.dst))
  let s : State := match dst? with
    | some d => s.touchDeliv (d - 8)
    | none => s
  ({ s with acks := dropIf (·.id == a.id) s.acks, packets := dropIf (·.id == a.id) s.packets,
            unacked := dropIf (·.id == a.id) s.unacked } : State).missFree a.core a.entries

/-- ACKNOWLEDGEMENT_RECEIVED (R191). An endpoint in selective mode acknowledges by SELECTIVE_ACK. -/
def execAcknowledgementReceived (id : Nat) (s : State) : Out :=
  execEvent s fun s => do
    let a ← s.acks.find? (·.id == id)
    if (s.packets.any fun p => p.id == id && p.sel) || s.unacked.any fun m => m.id == id && m.sel then none
    some (s.acked a)

/-! Full-empty words -/

/-- A waiting full-empty word of a resident wave proceeds if every granule that it touches is full, its lanes may be read and
no slot pauses what they need (R178, R185). A .fec word whose data are uncorrectable has cleared its granules when it fails: R185
and R199 do not say which comes first (DESIGN CHOICE, assumption 121). -/
def State.proceedFe (s : State) (w : Wave) : Option State :=
  match w.hold with
  | .fullEmpty id clear => do
    if w.st != .resident then none
    let l ← w.loads.find? (·.id == id)
    if !s.allFull (s.granules l.tgt (l.lanes.map fun r => (r.addr, l.size))) || l.lanes.any fun r => !s.laneReady w l r then none
    if s.inSlot && s.pauses (s.coreOf w) l.tgt l.size (l.lanes.map (·.addr)) then none
    let r := s.feProceed w l clear
    match s.badLanes? (s.coreOf w) l none with
    | some b => some (r.1.failLoad { w with hold := .none } l MEM_UNCORRECTABLE (memInfo l.code b.tier l.pc))
    | none => some (r.1.setWave { r.2 with hold := .none })
  | _ => none

/-- FULL_EMPTY_PROCEED (R185). -/
def execFullEmptyProceed (w : Nat) (s : State) : Out :=
  execEvent s fun s => do
    let w ← s.wave? w
    s.proceedFe w

/-! Turns and sleep -/

/-- The turn of a wave is over (R79): no handler has stopped it. -/
def Wave.turnOver (w : Wave) (clk : Nat) : Bool :=
  w.slotHeld && !w.parts.isEmpty && decide (w.turn ≤ clk) && w.parts.all (·.saved.isNone)

/-- TURN_EXPIRY (R79). -/
def execTurnExpiry (w : Nat) (s : State) : Out :=
  execEvent s fun s => do
    let w ← s.wave? w
    if w.turnOver s.clk then some (s.setWave (w.passTurn s.clk)) else none

/-- A sleep that has elapsed (R82). -/
def Wave.wakes (w : Wave) (clk : Nat) : Bool := w.st == .sleeping && decide (w.sleepEnd ≤ clk)

/-- SLEEP_ELAPSES (R82). -/
def execSleepElapses (w : Nat) (s : State) : Out :=
  execEvent s fun s => do
    let w ← s.wave? w
    if w.wakes s.clk then some (s.setWave { w with st := .resident }) else none

/-! Slots -/

/-- A waiting bin may take a free slot: its group runs, and no older bin of the group waits (R89). -/
def State.binNext (s : State) (b : Bin) : Bool :=
  b.waiting && ((s.bins.find? fun x => x.group == b.group && x.waiting).map (·.uid)) == some b.uid &&
    (s.group? b.group).any (·.st == .running)

/-- WAITING_BIN_LAUNCH (R89, R320). -/
def execWaitingBinLaunch (bin : Nat) (s : State) : Out :=
  execEvent s fun s => do
    let b ← s.bins.find? (·.uid == bin)
    if s.binNext b then s.launchBin? b else none

/-- A bin's timer has reached 0 (R89). -/
def Bin.over (b : Bin) (clk : Nat) : Bool := !b.waiting && decide (b.due ≤ clk)

/-- BIN_TIMER_EXPIRY (R89). -/
def execBinTimerExpiry (bin : Nat) (s : State) : Out :=
  execEvent s fun s => do
    let b ← s.bins.find? (·.uid == bin)
    if b.over s.clk then some (s.closeBin b) else none

/-- An ended wave frees its slot and window. With no wave of its group left, the group's open bins launch without
waiting for their timers (R82, R315). -/
def State.freeWave (s : State) (w : Wave) : State :=
  let s := s.setWave { w with slotHeld := false }
  let left := s.waves.any fun v => v.group == w.group && (v.st != .ended || v.slotHeld)
  if left then s
  else (s.bins.filter fun b => b.group == w.group && !b.waiting).foldl (fun s b => s.closeBin b) s

/-- WAVE_SLOT_RELEASE (R82). -/
def execWaveSlotRelease (w : Nat) (s : State) : Out :=
  execEvent s fun s => do
    let w ← s.wave? w
    if s.slotFree w then some (s.freeWave w) else none

/-! Swap-out and restore (R320) -/

/-- The registers that a decoded word of a wave uses. -/
def State.decUses (s : State) (w : Wave) : Dec → List Use
  | .illegal _ => []
  | .word _ i => dynUses { s with cur := some w.uid } i
  | .smpon _ h a => hdUses false .zero h ++ rd 1 18 (.s a.toNat 1)
  | .smpoff _ h d => hdUses false .zero h ++ wr 0 27 (.s d.toNat 1)

/-- Words that may wait at issue, applied to a state in which their wave is the issuing one; any other word never waits. -/
def probe (i : Instr) (s : State) : Out :=
  match i with
  | .spawn h d a b => execSpawn h d a b s
  | .actld h a b => execActld h a b s
  | .actswap h => execActswap h s
  | .ld h d g b t fe imm => execLd h d g b t fe imm s
  | .st h d g b t fe imm => execSt h d g b t fe imm s
  | .lds h d b t fe imm => execLds h d b t fe imm s
  | .sts h d b t fe imm => execSts h d b t fe imm s
  | .ldp h d g b fe imm => execLdp h d g b fe imm s
  | .stp h d g b fe imm => execStp h d g b fe imm s
  | .atom h d g b op t => execAtom h d g b op t s
  | .atoms h d b op t => execAtoms h d b op t s
  | .rst h g a b c => execRst h g a b c s
  | .ratom h d g b op t => execRatom h d g b op t s
  | .pref h g b t imm => execPref h g b t imm s
  | .stage h g b fill => execStage h g b fill s
  | .unstage h g => execUnstage h g s
  | .brw h d a b tryIt k => execBrw h d a b tryIt k s
  | .rbrw h d a b k => execRbrw h d a b k s
  | .split h d a toRegs k => execSplit h d a toRegs k s
  | .join h a => execJoin h a s
  | .rtn h a => execRtn h a s
  | .rgq h d a => execRgq h d a s
  | .rgmv h d a b => execRgmv h d a b s
  | .fence h sc => execFence h sc s
  | .stmpw h => execStmpw h s
  | .stmpp h => execStmpp h s
  | .cseal h d => execCseal h d s
  | .cwait h a => execCwait h a s
  | .binit h a name => execBinit h a name s
  | .barr h d wait name => execBarr h d wait name s
  | .bexp h a name => execBexp h a name s
  | .bwait h a name => execBwait h a name s
  | .chinit h d a => execChinit h d a s
  | .chpush h a b => execChpush h a b s
  | .chpop h d a => execChpop h d a s
  | .chstat h d a => execChstat h d a s
  | .copy h d a b c => execCopy h d a b c s
  | .copy2 h d a b c => execCopy2 h d a b c s
  | .gath h d a b c => execGath h d a b c s
  | .scat h d a b c => execScat h d a b c s
  | .route h d a b c => execRoute h d a b c s
  | .cvinit h d a => execCvinit h d a s
  | .mma h clr base ob ld cv b la lb fmt => execMma h clr base ob ld cv b la lb fmt s
  | .mwait h => execMwait h s
  | .lace h d a => execLace h d a s
  | .obres h d a b => execObres h d a b s
  | .obld h d a b => execObld h d a b s
  | .obrel h d => execObrel h d s
  | .mdrain h base a b act res rm f => execMdrain h base a b act res rm f s
  | .hbind h d a b => execHbind h d a b s
  | .hperm h d a b => execHperm h d a b s
  | .hbund h d a => execHbund h d a s
  | .hthr h d a => execHthr h d a s
  | .hclr h d => execHclr h d s
  | .hld h d a b => execHld h d a b s
  | .hst h d a b => execHst h d a b s
  | .hset h d a => execHset h d a s
  | .hdist h d a b => execHdist h d a b s
  | .hpop h d a => execHpop h d a s
  | .htie h a => execHtie h a s
  | .hcw h w => execHcw h w s
  | .hsrch h d a b => execHsrch h d a b s
  | .hsrch2 h d a b => execHsrch2 h d a b s
  | .smpcfg h a => execSmpcfg h a s
  | _ => .next { s with issued := s.issued ++ [(0, 0, 0)] }

/-- A wait condition holds a wave's next word: offered now, it would not issue. -/
def State.waitsAtIssue (s : State) (w : Wave) (i : Instr) : Bool :=
  match probe i { s with cur := some w.uid } with
  | .next t => t.issued.length == s.issued.length
  | _ => false

/-- An access through a register needs a part that a slot pauses (R178): a load by what the caches hold; a store only where it
goes to another die's scratchpad; a remote store the home's memory or the girth plane; an atomic at the home its memory, for it
goes there over the rein plane (Table 9.5), which a slot does not pause. -/
inductive Needs | load | store | remote | home
deriving DecidableEq, Repr

/-- The register's grant needs a paused part for accesses of `z` bytes at some offsets. -/
def Iss.pausesAt (x : Iss) (g : GCode) (z : Nat) (offs : List Nat) (n : Needs) : Bool :=
  match x.s.reg? (x.regRef g.toNat) with
  | none => false
  | some gr =>
    let far := iaSpace gr.ia == 2 && gr.home != x.g.die && (x.s.windowOf? (x.s.grants.length + 1) gr).isNone
    match n with
    | .load => x.s.pauses x.coreIx (.grant gr.gid) z (offs.map (gr.ia + ·))
    | .store => far && !offs.isEmpty
    | .remote => (far || !x.s.direct gr) && !offs.isEmpty
    | .home => memoryHome gr.ia

/-- A maintenance slot holds a word that is a load, store or atomic and performs an access (R178). Copies are not held at
issue. -/
def Iss.slotHolds (x : Iss) (i : Instr) : Bool :=
  let at_ (h : Hd) (b : VCode) (z imm : Nat) : List Nat := (x.offs b z imm (x.active h)).map (·.2)
  match i with
  | .ld h _ g b t _ imm => x.pausesAt g (itypeBytes t) (at_ h b (itypeBytes t) imm.toNat) .load
  | .ldp h _ g b _ imm => x.pausesAt g 16 (at_ h b 16 imm.toNat) .load
  | .st h _ g b t _ imm => x.pausesAt g (itypeBytes t) (at_ h b (itypeBytes t) imm.toNat) .store
  | .stp h _ g b _ imm => x.pausesAt g 16 (at_ h b 16 imm.toNat) .store
  | .atom h _ g b _ t => match x.s.reg? (x.regRef g.toNat) with
    | some gr => x.pausesAt g (itypeBytes t) (at_ h b (itypeBytes t) 0) (if gr.kind == .a then .home else .load)
    | none => false
  | .ratom _ _ g _ _ _ => x.pausesAt g 8 [] .home
  | .rst h g a _ _ => x.pausesAt g 8 (at_ h a 8 0) .remote
  | .hld _ _ a b => match a with
    | .region g => x.pausesAt g 1024 [(x.sreg b.toNat).toNat] .load
    | _ => false
  | .hst _ _ a b => match a with
    | .region g => x.pausesAt g 1024 [(x.sreg b.toNat).toNat] .store
    | _ => false
  | _ => false

/-- A state that a word has led to has an access of it in flight, or does not have it issued: a word whose guard fails, that
traps or that has no active lane performs no access. -/
def Iss.reaches (x : Iss) (t : State) : Bool :=
  t.issued.length == x.s.issued.length || (t.wave? x.w.uid).any fun w =>
    decide (x.w.loads.length < w.loads.length) || decide (x.w.outbox.length < w.outbox.length)

/-- A slot holds a wave's word. -/
def State.slotHolds (s : State) (w : Wave) (i : Instr) : Bool :=
  let s : State := { s with cur := some w.uid }
  s.inSlot && match s.iss?, probe i s with
    | some x, .next t => x.slotHolds i && x.reaches t
    | _, _ => false

/-- A parked access is a wave's own, or an engine chunk's of its own operations. -/
def State.parkedBy (s : State) (u : Nat) (r : AccRef) : Bool :=
  match r with
  | .load w _ | .store w _ | .fetch w => w == u
  | .atomic id => s.hqs.any fun h => h.2.id == id && h.2.wave == u
  | .packet id => s.packets.any fun p => p.id == id && p.wave == u
  | .chunk o => s.ops.any fun x => x.id == o && x.wave == u
  | .flag id => s.flags.any fun f => f.id == id && f.wave == u
  | _ => false

/-- The parked accesses of a wave. -/
def State.parkedOf (s : State) (u : Nat) : List Parked := s.dies.flatMap fun d => d.parked.filter fun p => s.parkedBy u p.ref

/-- A wave as it would be with its parked accesses over, and the machine around it. -/
def State.unparkedWave (s : State) (w : Wave) : State × Wave :=
  let past (r : AccRef) : Bool := (s.parkedOf w.uid).any (·.ref == r)
  let whole (l : LoadP) : Bool := past (.load w.uid l.id) && l.lanes.all fun r => r.got.isSome || s.laneParked w.uid l r
  let atoms := (s.hqs.filter fun h => past (.atomic h.2.id)).map (·.2.load)
  let w' := { w with loads := dropIf (fun l => whole l || atoms.contains l.id || l.atomic && past (.store w.uid l.seq)) w.loads,
                     outbox := dropIf (fun e => past (.store w.uid e.seq)) w.outbox }
  ({ s.setWave w' with hqs := dropIf (fun h => past (.atomic h.2.id)) s.hqs, ops := dropIf (fun o => past (.chunk o.id)) s.ops,
                       packets := dropIf (fun p => past (.packet p.id)) s.packets,
                       flags := dropIf (fun f => past (.flag f.id)) s.flags }, w')

/-- Nothing but its pipe and the choice among waves keeps a wave's next word from issuing: conditions 1, 2, 3 and 5 of R319. With
`past`, a line of code that is parked counts as come. -/
def State.freeToIssue (s : State) (w : Wave) (past : Bool) : Bool :=
  match w.parts, s.kernelOf? w with
  | p :: ps, some k =>
    let f : Frame := { views := k.views, win := k.win * 256, depth := p.nest.length, ctrw := w.ctrwNext }
    canRun ps p && decide (p.redirect ≤ s.clk) && decide ((s.core (s.coreOf w)).fetchAt ≤ s.clk) && decide (w.nextIssue ≤ s.clk) &&
      s.holdOver w && match s.fetch (s.coreOf w) k.ctx p.pc.toNat with
        | .miss _ => past && s.onlyParked (.fetch w.uid)
        | .fault => true
        | .word x => !s.held w f (s.decUses w (decodeWord x)) && match decodeWord x with
          | .word [] i => !s.waitsAtIssue w i && !s.slotHolds w i
          | _ => true
  | _, _ => false

/-- A wave's next word waits only on parked accesses (R328): it would be free to issue if they were over. -/
def State.waitsParked (s : State) (w : Wave) : Bool :=
  !(s.parkedOf w.uid).isEmpty && !s.freeToIssue w false && (let x := s.unparkedWave w; x.1.freeToIssue x.2 true)

/-- The fibres that made a withdrawn signature back at its word, with the loop nest that they had there (R271). They stay
current if the current partition is among them, and merge where they meet another partition (R76). -/
def rewind (ps : List Part) (g : Sign) : List Part :=
  let hit := ps.filter fun p => p.lanes &&& g.lanes != 0
  let rest := ps.filterMap fun p =>
    if p.lanes &&& ~~~g.lanes = 0 then none else some { p with lanes := p.lanes &&& ~~~g.lanes }
  match hit with
  | [] => ps
  | p :: _ =>
    let lanes : BitVec 32 := hit.foldl (fun m q => m ||| (q.lanes &&& g.lanes)) 0
    let back : Part := { p with lanes := lanes, pc := g.pc, nest := g.nest, fbar := none, due := false }
    match ps.head?.any (fun q => q.lanes &&& g.lanes != 0), rest with
    | false, c :: cs => let m := mergePart back cs; c :: insPart m.2 m.1
    | _, cs => mergeAll [back] cs

/-- Dirty L1 lines under a wave's wave-scope X grants written to the sector L2 (R154). -/
def State.flushWave (s : State) (w : Wave) : State :=
  (s.grants.filter fun g => g.kind == .x && !g.reg.grp && g.reg.owner == w.uid).foldl (fun s g =>
    s.flushL1 (s.dieOf w) (s.sector (s.dieOf w) w.core) g.tag g.ia g.len) s

/-- A wave saved: every fixed-latency result lands (R65), its dirty L1 lines go to L2 (R154), its signatures of generations that
have not issued are withdrawn and their words run again (R271; assumption 23), the register cache empties (R104). -/
def State.saveWave (s : State) (w : Wave) : State :=
  let s := s.flushWave w
  let cvs : List Cv := ((s.group? w.group).map (·.cvs)).getD []
  let again : List Sign := (sortBy (·.seq) ((cvs.flatMap (·.signed)).filter (·.wave == w.uid))).reverse
  let s : State := match s.group? w.group with
    | none => s
    | some g => s.setGroup { g with cvs := g.cvs.map fun c => { c with signed := dropIf (fun x => x.wave == w.uid) c.signed } }
  let w := w.landSticky ((w.stk.map (·.1)).foldl max s.clk)
  s.setWave { w with early := [], st := .swapped, slotHeld := false, rcache := [], eligible := none,
                     parts := again.foldl rewind w.parts }

/-- A wave's own operations are complete, so that it may be saved (R206, R271, R274). -/
def State.quiet (s : State) (w : Wave) : Bool :=
  w.outbox.isEmpty && ((s.core (s.coreOf w)).unitQ.all (·.wave != w.uid)) &&
  ((s.die (s.dieOf w)).searches.all (·.wave != w.uid)) &&
  ((s.core (s.coreOf w)).matQ.all fun m => m.wave != w.uid && match m.kind with
    | .mma sg _ _ _ _ _ _ _ _ => sg.all (·.wave != w.uid)
    | _ => true)

/-- A fresh tag for each HELD or FROZEN wave-scope grant of a wave (R154), with `keep` in the sector that holds its lines
already; none while a sweep is not complete. -/
def State.retag (s : State) (keep : Bool) (die sector : Nat) : List Nat → Option State
  | [] => some s
  | gid :: r => do
    let g ← s.grant? gid
    let (s, t) ← s.newTag? die sector (if keep then [g.tag] else []) g.ia g.len
    (s.setGrant { g with tag := t }).retag keep die sector r

/-- A wave restored to a quad: RESIDENT, or SLEEPING while sleep remains, with no last issue (R82, R319). The turn
begins anew (assumption 24). `keep` tells that it stays in the sector that holds its lines. -/
def State.restoreWave (s : State) (w : Wave) (keep : Bool) (core quad : Nat) : Option State := do
  let die := s.dieOf w
  let slot := s.freeSlot (die * 40 + core) quad
  let held := (s.grants.filter fun g => g.reg == { grp := false, owner := w.uid, code := g.reg.code } &&
    (g.st == .held || g.st == .frozen)).map (·.gid)
  let s ← s.retag keep die (s.sector die core) held
  some (s.setWave { w with core := core, quad := quad, slot := slot, slotHeld := true, eligible := none, lastIssue := none,
                           st := if s.clk < w.sleepEnd then .sleeping else .resident,
                           turn := if w.parts.any (·.saved.isSome) then w.turn else s.clk + 256 })

/-- A swapped wave goes to the slot that R320 gives it, if it gives it one. -/
def State.takeSpot (s : State) (u : Nat) : Option State := do
  let p ← s.claims.find? (·.uid == u)
  let w ← s.wave? u
  let s ← s.restoreWave w true (p.core % 40) p.quad
  let c := s.ctx (s.ctxOf w)
  some (s.setCtx (s.ctxOf w) { c with saveUsed := c.saveUsed - s.frameBytes w })

/-- WAVE_RESTORE (R320): of the swapped waves whose parked accesses have completed, the one that became eligible first chooses
first, each the lowest core and quad of its group with room. -/
def execWaveRestore (w : Nat) (s : State) : Out := execEvent s fun s => s.takeSpot w

end Sys2Proof.Machine
end

