-- ==== Sys2Proof/Machine/Grants.lean ====
section
/-! DEFINITION. The home's side of region registers: grants, failed requests, derivations, returns and residues
(R148 to R161, O3 to O5). -/

namespace Sys2Proof.Machine

open Sys2Proof

/-! Packets -/

/-- The clk at which the slot of the running period began. -/
def State.slotStart (s : State) : Nat := s.clk / 65536 * 65536

/-- Markers carry no number. -/
def Packet.numbered (p : Packet) : Bool :=
  match p.kind with
  | .marker _ => false
  | _ => true

/-- Numbers to an endpoint that are not acknowledged, of the packets and rein messages that left under selective
acknowledgement. -/
def State.outstanding (s : State) (dst : Nat) : List Nat :=
  (s.packets.filter fun p => p.dst == dst && p.sel && p.numbered).map (·.num) ++
    ((s.reins ++ s.unacked).filter fun m => m.dst == dst && m.sel).filterMap (·.num)

/-- A sequence number for traffic to an endpoint (R346): in ephemeral mode from its delivery context, which the first
packet opens; in selective mode the next number, once the window before it is acknowledged whole. -/
def State.epNumber (s : State) (dst : Nat) : Option (State × Nat) :=
  if dst < 8 || dst == saddle then some (s, 0)
  else
    let e := dst - 8
    if s.epSelective e then
      let n := ((s.nums.find? (·.1 == e)).map (·.2)).getD 0
      if (s.outstanding dst).any fun m => decide (m / 64 < n / 64) then none
      else some ({ s with nums := (dropIf (·.1 == e) s.nums) ++ [(e, n + 1)] }, n)
    else match s.delivs.find? (·.ep == e) with
      | some d => some ({ s with delivs := replace (·.ep == e) { d with last := s.clk, seq := d.seq + 1 } s.delivs }, d.seq)
      | none => if s.delivs.length < 2048 then some ({ s with delivs := s.delivs ++ [{ ep := e, last := s.clk, seq := 1 }] }, 0)
                else none

/-- A girth packet enters the bag of its source and destination on a path (R207, R337); none when the path is not one that
it may take, or its endpoint takes none now. -/
def State.sendPacket (s : State) (src dst path : Nat) (k : PKind) (cells : Store) (bytes wave entries : Nat) (pc : Word)
    (code : Nat) (seq : Nat := 0) : Option State := do
  if !s.girthPath src dst path then none
  let sel := decide (8 ≤ dst) && s.epSelective (dst - 8)
  let (s, num) ← s.epNumber dst
  let (s, id) := s.fresh
  let p : Packet := { id := id, pc := pc, code := code, src := src, dst := dst, path := path, kind := k, cells := cells,
                      bytes := bytes, seq := seq, wave := wave, entries := entries, first := s.clk, last := s.clk, num := num, sel := sel,
                      arrived := false }
  some { s with packets := s.packets ++ [p],
                used := if s.used.contains (src, dst, path) then s.used else s.used ++ [(src, dst, path)] }

/-- Reach of a message's destination: one that is inside a die that drains completes (R340), and one sent to an endpoint keeps the
port over which it left while that stands (R345). -/
def State.messageReach (s : State) (m : Rein) : Reach :=
  let up (p : Nat) (train : Bool) : Bool := (s.link (32 + p)).carries train && (m.src == saddle || s.saddleJoin train m.src)
  if m.route.any (s.insideDrain m.src m.dst) then .ok
  else if m.port.any (up · false) then .ok
  else if m.port.any (up · true) then .waits
  else s.reinReach m.src m.dst

/-- A message to an endpoint has its number and the port over which it leaves, the lowest usable one; where that port is gone it is
sent again over another (R338, R345, R346). -/
def State.numberRein (s : State) (m : Rein) : Option State :=
  let port := (s.epPorts false (m.dst - 8)).head?
  let put (s : State) (f : Rein → Rein) : State := { s with reins := s.reins.map fun x => if x.id == m.id then f x else x }
  if m.num.isSome then
    some (if m.port.any (fun p => (s.link (32 + p)).carries true) then s else put s fun x => { x with port := port })
  else (s.epNumber m.dst).map fun r => put r.1 fun x =>
    { x with num := some r.2, port := port, sel := s.epSelective (m.dst - 8), first := s.clk, last := s.clk }

/-! The home's table -/

/-- A kind of grant and a held entry's kind are compatible (Table 7.2); a residue is no grant. -/
def compatible (k : Kind) : EntKind → Bool
  | .residue => true
  | .s => k == .s
  | .a => k == .a
  | .x => false

/-- The kind of the entry of a grant. -/
def entKind : Kind → EntKind
  | .x => .x
  | .s => .s
  | .a => .a

/-- An entry overlaps a request. -/
def BEnt.overlaps (e : BEnt) (r : BReq) : Bool := meets (e.ia, e.len) (r.ia, r.len)

/-- Held entries of a home that keep a request from being granted. -/
def State.conflicts (s : State) (home : Nat) (r : BReq) : List BEnt :=
  (s.die home).entries.filter fun e => e.overlaps r && !compatible r.kind e.kind

/-- Requests ahead of a request in its queue that overlap it (R149). -/
def State.aheadOf (s : State) (home : Nat) (r : BReq) : Bool :=
  ((s.die home).bq.takeWhile (·.rid != r.rid)).any (·.overlaps r)

/-- Residues that a request must wait for: overlapping ones of another sector (R160). -/
def State.foreignResidue (s : State) (home : Nat) (r : BReq) : Bool :=
  (s.die home).entries.any fun e => e.overlaps r && e.kind == .residue && !(e.die == r.die && e.sector == r.sector)

/-- The entry that a root S request shares: same context, exactly the same range (R148). A fabric endpoint has no context and
shares none. -/
def State.shared? (s : State) (home : Nat) (r : BReq) : Option BEnt :=
  let ours : Bool := match r.who with
    | .endpoint _ => false
    | _ => true
  if r.kind == .s && ours then (s.die home).entries.find? fun e => e.kind == .s && e.ctx == r.ctx && e.ia == r.ia && e.len == r.len && e.ep.isNone
  else none

/-- The lowest free entry of a table of 16,384. -/
def State.freeEntry? (s : State) (home : Nat) : Option Nat :=
  let used := (s.die home).entries.map (·.idx)
  if 16384 ≤ used.length then none else (List.range (used.length + 1)).find? fun i => !used.contains i

/-- Residues that an X request takes over with its entry: those of its own sector that it covers, unless their staged window is
still bound. Beside an S or A grant a residue stays, for grants of other sectors that may follow (R160). -/
def BEnt.takenBy (e : BEnt) (r : BReq) : Bool :=
  r.kind == .x && e.kind == .residue && e.stg.isNone && e.die == r.die && e.sector == r.sector && decide (r.ia ≤ e.ia) &&
    decide (e.ia + e.len ≤ r.ia + r.len)

/-- A request's entry made, or its shared entry counted (R148), with the entry's number; none when the table is full. A shared
entry records the die and sector of the holder that it was made for (DESIGN CHOICE, assumption 117). -/
def State.makeEntry (s : State) (home : Nat) (r : BReq) : Option (State × Nat) :=
  match s.shared? home r with
  | some e =>
    let d := s.die home
    some (s.setDie home { d with entries := replace (·.idx == e.idx) { e with count := e.count + 1 } d.entries }, e.idx)
  | none => do
    let d := s.die home
    let s := s.setDie home { d with entries := dropIf (·.takenBy r) d.entries, scan := d.scan || d.entries.any (·.takenBy r) }
    let i ← s.freeEntry? home
    let (s, q) := s.fresh
    let e : BEnt := { idx := i, ia := r.ia, len := r.len, kind := entKind r.kind, ctx := r.ctx, die := r.die,
                      sector := r.sector, ep := (match r.who with
                        | .endpoint e => some e
                        | _ => none), count := 1, stg := none,
                      queue := (match r.who with
                        | .slatew q => some q
                        | _ => none), seq := q, born := 0,
                      tags := (d.entries.filter (·.takenBy r)).flatMap (·.tags) }
    let d := s.die home
    some (s.setDie home { d with entries := d.entries ++ [e] }, i)

/-! Decisions (R149 to R151). A home decides on the requests that have reached it at the end of a clk; after a return in that
clk it scans its queue first, from its head to its tail (assumption 49). -/

/-- A grant is held by the requester's own wave, or for a group-scope request by its group (R151). -/
def State.ownGrant (s : State) (r : RegRef) (g : Grant) : Bool :=
  if r.grp then s.groupOf g.reg == some r.owner else g.reg.grp == false && g.reg.owner == r.owner

/-- Every conflict of a request is a grant of its own wave or group (R151). A grant that is being returned counts until its
home has taken the return (DESIGN CHOICE, assumption 118). -/
def State.selfConflict (s : State) (home : Nat) (r : BReq) (reg : RegRef) : Bool :=
  let c := s.conflicts home r
  !c.isEmpty && c.all fun e =>
    let hs := s.grants.filter fun g => g.entry == some e.idx && g.home == home
    !hs.isEmpty && hs.all (s.ownGrant reg)

/-- An answer of a home that has not left it. -/
def State.answer (s : State) (home : Nat) (r : BReq) (v : Verdict) : State :=
  let d := s.die home
  s.setDie home { d with answers := d.answers ++ [{ req := r, verdict := v }] }

/-- A request granted by its home: its entry is made, and the answer may set out. -/
def State.giveEntry (s : State) (home : Nat) (r : BReq) : Option State := do
  let (s, i) ← s.makeEntry home r
  let s : State := match r.who with
    | .grant gid => match s.grant? gid with
      | some g => s.setGrant { g with entry := some i }
      | none => s
    | _ => s
  match r.who with
  | .slatew _ => some s
  | _ => some (s.answer home r (.given i))

/-- A request that may be granted finds the table full, and no residue that could make room (R151). -/
def State.tableFull (s : State) (home : Nat) (r : BReq) : Bool :=
  (s.makeEntry home r).isNone && (s.die home).entries.all (·.kind != .residue)

/-- Why a request fails now, where others wait ahead of it: a self-conflict, a conflict of a `.try`, a full table without a
residue (R149, R151, R158). A SLATEW waits (R304). -/
def State.denial? (s : State) (home : Nat) (ahead : List BReq) (r : BReq) : Option Verdict :=
  match r.who with
  | .endpoint _ =>
    if !ahead.any (·.overlaps r) && (s.conflicts home r).isEmpty && s.tableFull home r then some (.denied none 6) else none
  | .grant gid =>
    match s.grant? gid with
    | none => none
    | some g =>
      let behind := ahead.any (·.overlaps r)
      if !behind && s.selfConflict home r g.reg then some (.denied (some (GRANT_FAILED, wd (16 * g.reg.code + 9))) 0)
      else if behind || !(s.conflicts home r).isEmpty then (if r.tryIt then some (.denied none 4) else none)
      else if s.tableFull home r then
        some (if r.tryIt then .denied none 6 else .denied (some (BRAND_FULL, wd (16 * g.reg.code))) 0)
      else none
  | .slatew _ => none

/-- A request decided, where others wait ahead of it; none leaves it waiting. A SLATEW that finds the table full asks again
later (R304). -/
def State.decide? (s : State) (home : Nat) (ahead : List BReq) (r : BReq) : Option State :=
  match s.denial? home ahead r with
  | some v => some (s.answer home r v)
  | none =>
    if ahead.any (·.overlaps r) || !(s.conflicts home r).isEmpty then none
    else match s.giveEntry home r, r.who with
      | none, .slatew _ => if (s.die home).entries.all (·.kind != .residue) then some s else none
      | t, _ => t

/-- The scan of a queue (R149); `left` are the requests that stay waiting. -/
def State.scanQueue (s : State) (home : Nat) (left : List BReq) : List BReq → State
  | [] => s.setDie home { s.die home with bq := left }
  | r :: rest => match s.decide? home left r with
    | some t => t.scanQueue home left rest
    | none => s.scanQueue home (left ++ [r]) rest

/-- A request that has reached its home is decided at once, unless it overlaps a queued request; else it waits where R150
places it. -/
def State.arriveReq (s : State) (home : Nat) (r : BReq) : State :=
  let q := (s.die home).bq
  match s.decide? home q r with
  | some t => t
  | none => s.setDie home { s.die home with bq := insReq q r }

/-- A home's decisions at the end of a clk. -/
def State.settleBrand (s : State) (home : Nat) : State :=
  let d := s.die home
  if !d.scan && d.incoming.isEmpty then s
  else
    let s := s.setDie home { d with incoming := [], scan := false }
    let s := if d.scan then s.scanQueue home [] d.bq else s
    (sortBy (·.src) d.incoming).foldl (fun s r => s.arriveReq home r) s

/-- A register's request is decided: the pending flag write of a BRW.sf ends, with flags or with none (R158, R165). -/
def State.decideSf (s : State) (g : Grant) (f : Option (BitVec 4)) : State :=
  let fix (w : Wave) : Wave :=
    if g.sfWrite && w.vpend.any (·.id == g.gid) then
      let w := { w with vpend := dropIf (·.id == g.gid) w.vpend }
      match f with
      | some c => w.sfSet c
      | none => w
    else w
  { s with waves := s.waves.map fix }

/-- The tags of the residues whose lines a grant's sector holds: those that its entry has taken over, and those of its sector
that still overlap it (R160). -/
def State.tagsOver (s : State) (g : Grant) (entry : Option Nat) (at_ : Nat × Nat) : List Nat :=
  ((s.die g.home).entries.filter fun e => entry == some e.idx ||
    (e.kind == .residue && e.die == at_.1 && e.sector == at_.2 && meets (e.ia, e.len) (g.ia, g.len))).flatMap (·.tags)

/-- A grant arrives: its register becomes HELD with a fresh tag (R159); its store starts empty (O3). -/
def State.deliver (s : State) (g : Grant) (entry : Option Nat) : Option State := do
  let at_ := s.holderAt g.reg
  let (s, t) ← s.newTag? at_.1 at_.2 (s.tagsOver g entry at_) g.ia g.len
  some ((s.setGrant { g with st := .held, tag := t, entry := entry, gs := [] }).decideSf g (some 0))

/-- A request answered "granted" by a home die may not reach its register before the residues of other holders that it
overlaps have been written back (R160). -/
def State.residueWaits (s : State) (home : Nat) (a : Answer) : Bool :=
  match a.verdict with
  | .given _ => s.foreignResidue home a.req
  | .denied _ _ => false

/-- The home die that holds an answer to a request. -/
def State.answerOf? (s : State) (rid : Nat) : Option (Nat × Answer) :=
  (List.range 8).findSome? fun h => ((s.die h).answers.find? (·.req.rid == rid)).map fun a => (h, a)

/-- An answer leaves its home. -/
def State.unanswer (s : State) (home rid : Nat) : State :=
  let d := s.die home
  s.setDie home { d with answers := dropIf (·.req.rid == rid) d.answers }

/-- The register of a failed request becomes EMPTY; a fault is held by it, or the flags of sf tell (R158). -/
def State.failRequest (s : State) (g : Grant) (fault : Option (Nat × Word)) (f : BitVec 4) : State :=
  let s := ((s.decideSf g (if fault.isNone then some f else none)).withdraw g.gid).delGrant g.gid
  match fault with
  | none => s
  | some (code, info) => { s with regFaults := s.regFaults ++ [(g.reg, { code := code, info := info, pc := 0 })] }

/-- An answer acts at the register that asked; none while its fresh tag waits for a sweep. An answer to a register that no
longer waits has no effect. -/
def State.takeAnswer (s : State) (a : Answer) : Option State :=
  match a.req.who with
  | .grant gid => match s.grant? gid with
    | none => some s
    | some g =>
      if g.st != .waiting then some s
      else match a.verdict with
        | .given i => s.deliver g (some i)
        | .denied f c => some (s.failRequest g f c)
  | _ => some s

/-- An answer sets out: it acts on the home's own die, or enters the rein queue to the die that asked (R149, R207). -/
def State.sendAnswer (s : State) (home : Nat) (a : Answer) : Option State :=
  match a.req.who with
  | .grant _ => if a.req.die = home then (s.unanswer home a.req.rid).takeAnswer a
                else some ((s.unanswer home a.req.rid).sendRein home a.req.die 0 (.answer a))
  | _ => some (s.unanswer home a.req.rid)

/-- GRANT (O3). An endpoint answers the requests that have reached it. -/
def execGrant (rid : Nat) (ans : EpAnswer) (s : State) : Out :=
  execEvent s fun s =>
    match s.answerOf? rid with
    | some (h, a) => match a.verdict with
      | .given _ => if s.residueWaits h a then none else s.sendAnswer h a
      | .denied _ _ => none
    | none => do
      let r ← s.ebq.find? (·.rid == rid)
      if ans == .refused then none
      match r.who with
      | .grant gid =>
        let g ← s.grant? gid
        let s ← s.deliver g none
        some { s with ebq := dropIf (·.rid == rid) s.ebq }
      | _ => none

/-! Failed requests (R151, R158) -/

/-- The request of a rein message that cannot reach its home, and the reason. -/
def State.lostRequest? (s : State) (rid : Nat) : Option (BReq × Nat) :=
  s.reins.findSome? fun m => match m.kind with
    | .request r => if r.rid == rid then (match s.messageReach m with
        | .fail n => some (r, n)
        | _ => none) else none
    | _ => none

/-- GRANT_REQUEST_FAILED (R158): a request fails at its home die, on its way, or at an endpoint. An endpoint that does not
refuse a `.try` may report a conflict. -/
def execGrantRequestFailed (rid : Nat) (ans : EpAnswer) (s : State) : Out :=
  execEvent s fun s =>
    match s.answerOf? rid with
    | some (h, a) => match a.verdict with
      | .given _ => none
      | .denied _ _ => s.sendAnswer h a
    | none =>
      match s.lostRequest? rid with
      | some (r, n) => match r.who with
        | .grant gid => do
          let g ← s.grant? gid
          some (s.failRequest g (some (LINK_PARTITION, linkInfo g.reg.code n r.ia)) 0)
        | _ => none
      | none => do
        let r ← s.ebq.find? (·.rid == rid)
        match r.who with
        | .grant gid =>
          let g ← s.grant? gid
          if ans == .refused then some (s.failRequest g (some (GRANT_FAILED, wd (16 * g.reg.code + 8))) 0)
          else if r.tryIt then some (s.failRequest g none 4)
          else none
        | _ => none

/-! O4 -/

/-- An access through a grant that has not been performed covers some of its bytes. -/
def State.pendingOver (s : State) (gid ia len : Nat) : Bool :=
  s.waves.any fun w =>
    (w.outbox.any fun e => e.tgt == .grant gid && match e.kind with
      | .write a bs _ => meets (a, bs.length) (ia, len)
      | .atomic _ t ls _ => ls.any fun l => meets (l.addr, itypeBytes t) (ia, len)
      | .remote a bs _ => meets (a, bs.length) (ia, len)
      | _ => false) ||
    (w.loads.any fun l => l.tgt == .grant gid && l.lanes.any fun r => r.got.isNone && meets (r.addr, l.size) (ia, len))

/-- DERIVE (O4): the defined bytes of a parent's store move to the child's, or a moved grant arrives. -/
def execDerive (gid : Nat) (s : State) : Out :=
  execEvent s fun s => do
    let g ← s.grant? gid
    if g.st != .waiting then none
    match g.derive with
    | none => none
    | some (.moved fresh) =>
      if fresh then
        let at_ := s.holderAt g.reg
        let (s, t) ← s.newTag? at_.1 at_.2 [g.tag] g.ia g.len
        some (s.setGrant { g with st := .held, tag := t, derive := none })
      else some (s.setGrant { g with st := .held, derive := none })
    | some (.child p) =>
      let pg ← s.grant? p
      let at_ := s.holderAt g.reg
      let (s, t) ← s.newTag? at_.1 at_.2 [pg.tag] g.ia g.len
      let held := { g with st := .held, tag := t, derive := none }
      if g.kind == .x then
        some ((s.setGrant { pg with gs := sdels pg.gs g.ia g.len }).setGrant { held with gs := scells pg.gs g.ia g.len })
      else some (s.setGrant held)

/-! O5: returns and residues -/

/-- Every access issued through a grant has been performed (R160), and no engine operation names it. -/
def State.grantIdle (s : State) (g : Grant) : Bool :=
  (s.waves.all fun w => (w.outbox.all fun e => e.tgt != .grant g.gid && match e.kind with
      | .flag _ f => f != g.gid
      | _ => true) &&
    (w.loads.all fun l => l.tgt != .grant g.gid || l.lanes.all (·.got.isSome))) &&
  (s.ops.all fun o => o.dst != .grant g.gid && o.src != .grant g.gid && (o.flag.map (·.1)) != some g.gid) &&
  (s.hqs.all fun h => h.2.gid != g.gid) &&
  (s.reins.all fun m => match m.kind with
    | .atomic a => a.gid != g.gid
    | _ => true) &&
  (g.kind != .x || s.packets.all fun p => !(p.kind == .write && !p.arrived && (s.wave? p.wave).any (fun w =>
    g.reg.grp == false && w.uid == g.reg.owner || g.reg.grp && w.group == g.reg.owner) &&
    p.cells.any fun c => decide (g.ia ≤ c.1) && decide (c.1 < g.ia + g.len)))

/-- A return acts at its home (R160): the dirty L1 lines of an X grant go to the sector L2; at a home die an X entry becomes
a residue, S and A entries lose a holder. -/
def State.homeReturn (s : State) (g : Grant) : State :=
  let at_ := s.holderAt g.reg
  let s := if g.kind == .x then s.flushL1 at_.1 at_.2 g.tag g.ia g.len else s
  if 8 ≤ g.home then s
  else match g.entry with
    | none => s
    | some i =>
      if g.kind == .x then
        let stg := match g.window, s.groupOf g.reg with
          | some b, some gu => some (gu, b)
          | _, _ => none
        let (s, n) := s.fresh
        let d := s.die g.home
        s.setDie g.home { d with scan := true, entries := d.entries.map fun e =>
          if e.idx == i then { e with kind := .residue, die := at_.1, sector := at_.2, stg := stg, born := n, tags := [g.tag] } else e }
      else s.dropHolder g.home i

/-- A fabric endpoint returns a grant that it held at a home die (Table 19.5a). -/
def State.epReturn (s : State) (home ep ia len : Nat) (kind : Kind) : State :=
  match (s.die home).entries.find? fun e => e.ep == some ep && e.ia == ia && e.len == len && e.kind == entKind kind with
  | some e => s.dropHolder home e.idx
  | none => s

/-- The bytes of a staged window, as cells of the grant (R197). -/
def State.windowCells (s : State) (g : Grant) : Store :=
  match s.windowOf? (s.grants.length + 1) g with
  | none => []
  | some (gr, o) => (List.range g.len).map fun i => (g.ia + i, s.byteAt (gr.spKey (o + i)))

/-- A child's return: an X child's dirty L1 lines go to the sector L2 (R169), its bytes merge into its parent's store (O5), and
its lines in the slice bear the parent's tag again, so that a JOIN carries them over to the fresh one (R159). -/
def State.returnChild (s : State) (g : Grant) (parent : Nat) : State :=
  let s : State := match s.grant? parent with
    | some p =>
      if g.kind == .x then
        let at_ := s.holderAt g.reg
        ((s.flushL1 at_.1 at_.2 g.tag g.ia g.len).carry at_.1 at_.2 [g.tag] p.tag g.ia g.len).setGrant
          { p with gs := smerge p.gs g.gs }
      else s
    | none => s
  s.setGrant { g with gs := [], returned := true }

/-- RETURN (O5): one step of a grant's return. The bytes of a staged window join the grant's first. A child's bytes merge into
the parent's store. A root's bytes merge into H at a home on the holder's die; for a remote home the lines leave one by one as packets, each on a path of its own, and the
return message follows them. A home that cannot be reached, or has lost the grant, takes no write-back (R339, R341). -/
def State.takeReturn (s : State) (g : Grant) (path : Nat) : Option State := do
  let die := (s.holderAt g.reg).1
  let done (s : State) : State := s.setGrant { g with gs := [], flushed := true, returned := true }
  if g.kind == .x && g.window.isSome && !g.flushed && !g.lost then
    some (s.setGrant { g with gs := s.windowCells g, flushed := true })
  else match g.parent with
  | some (p, _, _) => some (s.returnChild g p)
  | none =>
    if g.lost then some (done s)
    else if g.home = die then
      match s.hWrite g.gs with
      | (_, false) => none
      | (s, true) => some ((done s).homeReturn g)
    else match s.girthReach die g.home with
      | .waits => none
      | .fail _ => some (done s)
      | .ok =>
        match g.gs with
        | [] => some ((done s).sendRein die g.home g.by_ (.ret g.gid))
        | c :: _ =>
          let line := c.1 / 256 * 256
          let s ← s.sendPacket die g.home path .write (scells g.gs line 256) 0 g.by_ 0 0 g.reg.code
          some (s.setGrant { g with gs := sdels g.gs line 256 })

/-- RETURN (O5). -/
def execReturnGrant (gid path : Nat) (s : State) : Out :=
  execEvent s fun s => s.pinning (.ret gid) fun s => do
    let g ← s.grant? gid
    if g.st != .returning || g.returned || !s.grantIdle g || s.isParked (.ret gid) then none
    s.takeReturn g path

/-- RETURN_ACKNOWLEDGED (R152): the register becomes EMPTY, and a parent's count falls. -/
def execReturnAcknowledged (gid : Nat) (s : State) : Out :=
  execEvent s fun s => do
    let g ← s.grant? gid
    if g.st != .returning || !g.returned || (s.reins ++ s.unacked).any fun m => m.kind == .ret gid then none
    let s := s.delGrant gid
    match g.parent with
    | some (p, _, _) => some (s.childGone p)
    | none => some s

/-- The oldest residue of a home (R151). -/
def State.oldestResidue? (s : State) (home : Nat) : Option BEnt :=
  ((s.die home).entries.filter (·.kind == .residue)).foldl (fun m e => match m with
    | some x => if x.born ≤ e.born then some x else some e
    | none => some e) none

/-- What makes a home write a residue back: a request that finds the table full, where it is the oldest (R151); a grant made
to another sector's holder that overlaps it (R160); the end of a kernel of its context that ran on its die (R161); a reset of
the home (R340). -/
def State.residueLeaves (s : State) (home : Nat) (e : BEnt) : Bool :=
  let d := s.die home
  let wants (r : BReq) : Bool := (s.conflicts home r).isEmpty && (s.makeEntry home r).isNone
  let takes (a : Answer) : Bool := match a.verdict with
    | .given _ => e.overlaps a.req && !(e.die == a.req.die && e.sector == a.req.sector)
    | .denied _ _ => false
  ((s.oldestResidue? home).map (·.idx) == some e.idx && d.bq.any wants) || d.answers.any takes ||
  (s.kernels.any fun k => k.st == .draining && k.ctx == e.ctx && k.dies.contains e.die) || d.resetting != .none

/-- RESIDUE_WRITEBACK (R160): a residue is gone. Its bytes have been in H since its return (O5); the bytes of a staged window
are written first, and a write-back to memory waits for the end of a slot (R350). -/
def execResidueWriteback (die idx : Nat) (s : State) : Out :=
  execEvent s fun s => do
    let e ← s.entry? die idx
    if e.kind != .residue || e.stg.isSome || !s.residueLeaves die e || s.inSlot then none
    let d := s.die die
    some (s.setDie die { d with entries := dropIf (·.idx == idx) d.entries, scan := true })

/-- STAGED_WRITEBACK_DONE (R197): a residue's window has been written back, and its mapping entry is free. -/
def execStagedWritebackDone (gid : Nat) (s : State) : Out :=
  execEvent s fun s => do
    let (d, e) ← (List.range 8).findSome? fun d => ((s.die d).entries.find? fun e => e.seq == gid && e.stg.isSome).map fun e => (d, e)
    if e.kind != .residue then none
    let x := s.die d
    some (s.setDie d { x with entries := x.entries.map fun y => if y.idx == e.idx then { y with stg := none } else y })

/-- UNSTAGE_WRITE_DONE (R198): the window's bytes are in the grant's lines, and the waiting wave goes on. -/
def execUnstageWriteDone (gid : Nat) (s : State) : Out :=
  execEvent s fun s => do
    let g ← s.grant? gid
    if !(s.waves.any fun w => w.hold == .unstage gid) || !s.fillOver gid || s.pendingOver gid g.ia g.len then none
    let at_ := s.holderAt g.reg
    let s := s.setGrant { g with gs := s.windowCells g, window := none }
    let s := (pieces g.len [g.ia]).foldl (fun s p => s.intoL2 at_.1 at_.2
      { sec := p.1, tag := g.tag, mask := byteMask 0 64, dirty := byteMask 0 64, rank := 1 }) s
    some { s with waves := s.waves.map fun w => if w.hold == .unstage gid then { w with hold := .none } else w }

/-- TAG_SWEEP_DONE (R159). -/
def execTagSweepDone (die sector tag : Nat) (s : State) : Out :=
  execEvent s fun s => do
    let d := s.die die
    if !d.sweeping.contains (sector, tag) then none
    some ((s.setDie die { d with sweeping := dropIf (· == (sector, tag)) d.sweeping }).sweepTag die sector tag)

end Sys2Proof.Machine
end

