-- ==== Sys2Proof/Machine/Ordering.lean ====
section
/-! DEFINITION. The steps of the ordering machine on outboxes, home queues, girth bags and rein queues: O1, O2, O8 to O10
and O12 (R203, R204, R207, R212). -/

namespace Sys2Proof.Machine

open Sys2Proof

/-- An acknowledgement sets out to the core that holds entries for it (R191). -/
def State.ackTo (s : State) (wave entries : Nat) : State :=
  if entries = 0 then s
  else match s.wave? wave with
    | none => s
    | some w =>
      let core := s.coreOf w
      let (s, id) := s.fresh
      { s with acks := s.acks ++ [{ id := id, wave := wave, core := core, entries := entries }] }

/-! O1 -/

/-- A word's remaining outbox entries fail: they leave the outbox, their entries are freed, and the wave holds the fault
(R339). -/
def State.failEntries (s : State) (w : Wave) (seq code : Nat) (info : Word) : State :=
  let es := w.outbox.filter (·.seq == seq)
  let s := (s.setWave { w with outbox := dropIf (fun x => x.seq == seq) w.outbox }).missFree (s.coreOf w) (es.map OEnt.held).sum
  match s.wave? w.uid with
  | none => s
  | some w => match w.loads.find? (fun l => l.id == seq) with
    | some l => s.failLoad w l code info
    | none => s.defer w.uid { code := code, info := info, pc := (es.head?.map (·.pc)).getD 0 }

/-- The old values of a word's lanes go to its load. -/
def Wave.gotLanes (w : Wave) (load : Nat) (olds : List (Nat × List Byte)) : Wave :=
  { w with loads := w.loads.map fun l =>
      if l.id == load then
        { l with lanes := l.lanes.map fun r => match olds.find? (·.1 == r.lane) with
            | some o => { r with got := some o.2 }
            | none => r }
      else l }

/-- A local atomic: the lanes of one word in ascending order, as one unit (R187). None while a byte cannot be read. -/
def State.atomicLocal (s : State) (t : Tgt) (op : AtOp) (ty : IType) : List AtLane → Option (State × List (Nat × List Byte))
  | [] => some (s, [])
  | l :: r => do
    match s.readRun t l.addr (itypeBytes ty) with
    | (_, none) => none
    | (s, some m) =>
      let v := atNew op ty (leWord m) l.x l.y
      let s := s.writeRun t l.addr (leBytes (itypeBytes ty) v.toNat)
      let (s, o) ← s.atomicLocal t op ty r
      some (s, (l.lane, m) :: o)

/-- Defined bytes of a grant's store in a 256 B line go to the home and become undefined (Table 9.3, RST). -/
def State.pushLine (s : State) (gid a : Nat) : Option State := do
  let g ← s.grant? gid
  let line := a / 256 * 256
  let cells := scells g.gs line 256
  match s.hWrite cells with
  | (_, false) => none
  | (s, true) => some (s.setGrant { g with gs := sdels g.gs line 256 })

/-- The wave has an older load to read, or the word still waits for entries: its entry stays (R184, R192). -/
def State.drainHeld (s : State) (w : Wave) (e : OEnt) : Bool :=
  w.unserved e.seq || s.isParked (.store w.uid e.seq) || (e.spans s).any fun sp => w.olderLoad s e.seq sp

/-- A write through a target goes over the girth plane to another die's scratchpad, which a slot pauses (R178, R350). -/
def State.pausesWrite (s : State) (die : Nat) (t : Tgt) : Bool :=
  match t with
  | .sp _ => false
  | .grant gid => (s.grant? gid).any fun g =>
      iaSpace g.ia == 2 && g.home != die && (s.windowOf? (s.grants.length + 1) g).isNone

/-- The head of an outbox applied (Table 9.3); none when it waits. A write through a grant that lies in another die's
scratchpad, and a fill that an atomic needs, go the way of a load. -/
def State.drainHead (s : State) (w : Wave) (e : OEnt) (rest : List OEnt) (path : Nat) : Option State :=
  let die := s.dieOf w
  let w' := { w with outbox := rest }
  let gone (s : State) : State := s.setWave w'
  match e.kind with
  | .write a bs full =>
    if s.inSlot && s.pausesWrite die e.tgt then none
    else some (((gone (s.writeRun e.tgt a bs)).setFull full).wroteRun e.seq e.tgt a bs.length)
  | .atomic op t ls load => do
    if s.inSlot && s.pauses (s.coreOf w) e.tgt (itypeBytes t) (ls.map (·.addr)) then none
    if (w.loads.find? (·.id == load)).any fun l => l.lanes.any fun r => !s.laneServed l r then none
    if let some b := (w.loads.find? (·.id == load)).bind fun l => s.badLanes? (s.coreOf w) l none then
      return s.failEntries w e.seq MEM_UNCORRECTABLE (memInfo e.code b.tier e.pc)
    let r ← s.atomicLocal e.tgt op t ls
    some (r.1.setWave (w'.gotLanes load r.2))
  | .homeAtomic op t ls load n =>
    match e.tgt with
    | .sp _ => some (gone s)
    | .grant gid => do
      let g ← s.grant? gid
      let a : HAtom := { id := e.seq, pc := e.pc, code := e.code, wave := w.uid, load := load, gid := gid, op := op, t := t,
                         lanes := ls, entries := n }
      if g.home = die then some (gone { s with hqs := s.hqs ++ [(die, a)] })
      else match s.reinReach die g.home with
        | .waits => none
        | .fail r => some (s.failEntries w e.seq LINK_PARTITION (linkInfo e.code r ((ls.head?.map (·.addr)).getD g.ia)))
        | .ok => some (gone (s.sendRein die g.home w.uid (.atomic a)))
  | .remote a bs n =>
    match e.tgt with
    | .sp _ => some (gone s)
    | .grant gid => do
      let g ← s.grant? gid
      if (s.windowOf? (s.grants.length + 1) g).isSome then
        some ((gone (s.writeRun e.tgt a bs)).wroteRun e.seq e.tgt a bs.length)
      else
        match (if g.home = die then Reach.ok else s.girthReach die g.home) with
        | .waits => none
        | .fail r => some (s.failEntries w e.seq LINK_PARTITION (linkInfo e.code r a))
        | .ok =>
          if s.inSlot && !(g.home = die && s.direct g) then none
          let s ← s.pushLine gid a
          let at_ := s.holderAt g.reg
          let s := s.dropLines at_.1 at_.2 g.tag (a / 256 * 256) 256
          let cells : Store := (bs.zipIdx).map fun b => (a + b.2, b.1)
          if g.home = die then
            match s.hWrite cells e.seq with
            | (_, false) => none
            | (s, true) => some (gone (s.ackTo w.uid n))
          else
            let s ← s.sendPacket die g.home path .write cells 0 w.uid n e.pc e.code e.seq
            some (gone s)
  | .flag ia gid => do
    let g ← s.grant? gid
    if g.home = die then
      let (s, id) := s.fresh
      some (gone { s with flags := s.flags ++ [{ id := id, home := die, ia := ia, wave := w.uid, copy := false }] })
    else match s.reinReach die g.home with
      | .waits => none
      | .fail r => some (s.failEntries w e.seq LINK_PARTITION (linkInfo e.code r ia))
      | .ok => some (gone (s.sendRein die g.home w.uid (.flag ia e.pc e.code false e.seq)))
  | .chan _ _ => none

/-- A local atomic whose home cannot be reached fails; its line cannot be filled (R339). -/
def State.atomicReach (s : State) (w : Wave) (e : OEnt) : Reach :=
  match e.kind, e.tgt with
  | .atomic _ _ _ load, .grant _ => match w.loads.find? (·.id == load) with
    | some l => s.loadReach w l
    | none => .ok
  | _, _ => .ok

/-- DRAIN (O1): the head of a wave's outbox is applied and removed. A channel write leaves with CHPUSH_ACCEPT. -/
def execDrain (w path : Nat) (s : State) : Out :=
  execEvent s fun s => s.pinning (.store w ((((s.wave? w).bind (·.outbox.head?)).map (·.seq)).getD 0)) fun s => do
    let w ← s.wave? w
    match w.outbox with
    | [] => none
    | e :: rest =>
      if s.drainHeld w e then none
      match s.atomicReach w e with
      | .waits => none
      | .fail r => some (s.failEntries w e.seq LINK_PARTITION (linkInfo e.code r (((e.spans s).head?.map (·.1)).getD 0)))
      | .ok => s.drainHead w e rest path

/-! O2 -/

/-- The lanes of a home atomic performed on a home store as one unit; none when a byte's page is unmapped. -/
def State.atomicHome (s : State) (op : AtOp) (t : IType) : List AtLane → Option (State × List (Nat × List Byte))
  | [] => some (s, [])
  | l :: r => do
    match s.hRead l.addr (itypeBytes t) with
    | (_, none) => none
    | (s, some m) =>
      let v := atNew op t (leWord m) l.x l.y
      match s.hWrite ((leBytes (itypeBytes t) v.toNat).zipIdx.map fun b => (l.addr + b.2, b.1)) with
      | (_, false) => none
      | (s, true) =>
        let (s, o) ← s.atomicHome op t r
        some (s, (l.lane, m) :: o)

/-- The uncorrectable sector that lanes of an atomic read at a home (R199). -/
def State.badHome? (s : State) (t : IType) (ls : List AtLane) : Option Bad :=
  if s.bad.isEmpty then none
  else ls.findSome? fun l => match (s.keyOf l.addr).2 with
    | .inl k => s.bad.find? fun b => b.sec == k / 64 || b.sec == (k + itypeBytes t - 1) / 64
    | .inr _ => none

/-- The wave of an atomic receives its old values, or an acknowledgement sets out. -/
def State.atomicDone (s : State) (a : HAtom) (olds : List (Nat × List Byte)) : State :=
  let s : State := match s.wave? a.wave with
    | some w => s.setWave (w.gotLanes a.load olds)
    | none => s
  s.ackTo a.wave a.entries

/-- A home atomic fails: its load writes no lane, its entries are freed, its wave holds the fault. -/
def State.failAtomic (s : State) (a : HAtom) (code : Nat) (info : Word) : State :=
  match s.wave? a.wave with
  | none => s
  | some w => match w.loads.find? (·.id == a.load) with
    | some l => s.failLoad w l code info
    | none => (s.missFree (s.coreOf w) a.entries).defer w.uid { code := code, info := info, pc := a.pc }

/-- The first element that satisfies a test taken out of a list. -/
def takeOut {α : Type} (p : α → Bool) : List α → Option (α × List α)
  | [] => none
  | a :: r => if p a then some (a, r) else (takeOut p r).map fun x => (x.1, a :: x.2)

/-- HOME_ATOMIC (O2): the head of a home queue is performed; an endpoint may refuse it (R344), and an ATOM that would read an
uncorrectable sector changes no memory (R199). -/
def execHomeAtomic (home : Nat) (ans : EpAnswer) (s : State) : Out :=
  execEvent s fun s => s.pinning (.atomic (((s.hqs.find? (·.1 == home)).map (·.2.id)).getD 0)) fun s => do
    let (h, q) ← takeOut (·.1 == home) s.hqs
    let a := h.2
    if s.isParked (.atomic a.id) || (s.inSlot && a.lanes.any fun l => memoryHome l.addr) then none
    if ans == .refused then
      if home < 8 then none
      some (({ s with hqs := q } : State).failAtomic a GRANT_FAILED (wd (16 * a.code + 8)))
    else
      if let some b := (if a.load = 0 then none else s.badHome? a.t a.lanes) then
        return ({ s with hqs := q } : State).failAtomic a MEM_UNCORRECTABLE (memInfo a.code b.tier a.pc)
      let (s, o) ← s.atomicHome a.op a.t a.lanes
      some (({ s with hqs := q } : State).atomicDone a o)

/-! O8: girth delivery -/

/-- Bytes of a chunk accounted against the barrier that its operation names (R241). -/
def State.accountChunk (s : State) (op n : Nat) : State :=
  match s.op? op with
  | none => s
  | some o => match o.acc with
    | some b => s.account o.group b n o.wave o.pc
    | none => s

/-- The `n` bytes of a copy's chunk, skipped ones among them, are accounted at its home (O8); granules of a scratchpad become
full. -/
def State.landed (s : State) (op : Nat) (cells : Store) (n : Nat) : State :=
  (s.setFull (((cells.filter fun c => isSp c.1).map (·.1 / 16)).eraseDups)).accountChunk op n

/-- A packet at the head of its path whose turn has come: none ahead of it on the path, and no older packet of its wave over
the same bytes (R184, R207). In a slot only packets already under way complete (R350). -/
def State.packetNext (s : State) (p : Packet) : Bool :=
  let ahead := (s.packets.takeWhile (·.id != p.id)).filter (!·.arrived)
  (ahead.all fun q => !(q.src == p.src && q.dst == p.dst && q.path == p.path)) &&
  (s.packets.all fun q => !(decide (q.id < p.id) && !q.arrived && q.wave == p.wave && q.dst == p.dst && p.kind == .write &&
    q.kind == .write && p.cells.any fun c => q.cells.any fun d => d.1 == c.1)) &&
  (!s.inSlot || decide (p.last < s.slotStart)) && !s.isParked (.packet p.id)

/-- The flag that follows a lost packet of its store or SIGNAL is dropped, in its outbox or on its way: the flag is counted only
after its data is in H (Table 19.5a, R303). -/
def State.dropFlag (s : State) (p : Packet) : State :=
  let mine (m : Rein) : Bool := match m.kind with
    | .flag _ _ _ _ seq => p.seq != 0 && seq == p.seq
    | _ => false
  let flag (e : OEnt) : Bool := match e.kind with
    | .flag _ _ => p.seq != 0 && e.seq == p.seq
    | _ => false
  let s : State := { s with reins := s.reins.filter fun m => !mine m }
  match s.wave? p.wave with
  | none => s
  | some w => s.setWave { w with outbox := w.outbox.filter fun e => !flag e }

/-- The entries that a packet of an RST holds when it is written or lost: they pass to another packet for the same line that is
still under way, so that the line is acknowledged once its bytes are written (R191). The rest is the packet's own. -/
def State.passEntries (s : State) (p : Packet) : State × Nat :=
  let line (q : Packet) : Option Nat := q.cells.head?.map (·.1 / 256)
  let other (q : Packet) : Bool := q.id != p.id && q.kind == .write && !q.arrived && q.wave == p.wave && q.seq == p.seq &&
    line q == line p
  if p.entries = 0 || p.seq = 0 then (s, p.entries)
  else match s.packets.find? other with
    | some q => ({ s with packets := replace (·.id == q.id) { q with entries := q.entries + p.entries } s.packets }, 0)
    | none => (s, p.entries)

/-- Entries of a channel whose last byte lies in a chunk, by the count of the operation's own. -/
def chunkEnds (size pos n : Nat) : List Nat := (List.range (n / size + 1)).filterMap fun i =>
  let e := pos / size + i
  if pos < (e + 1) * size && (e + 1) * size ≤ pos + n then some e else none

/-- Channel entries written whole advance P, and entries read whole advance Q (R230). -/
def State.chanChunk (s : State) (o : CopyOp) (n : Nat) : State :=
  match s.group? o.group with
  | none => s
  | some g =>
    let g : Group := match o.src with
      | .chan c => match g.chan? c with
        | some ch => g.setChan ((chunkEnds ch.size o.pos n).foldl (fun ch e => ch.done (BitVec.ofNat 32 (o.srcAt + e))) ch)
        | none => g
      | _ => g
    let g : Group := match o.dst with
      | .chan c => match g.chan? c with
        | some ch => g.setChan ((chunkEnds ch.size o.pos n).foldl (fun ch e => ch.land (BitVec.ofNat 32 (o.dstAt + e))) ch)
        | none => g
      | _ => g
    s.setGroup g

/-- Traffic of a chunk of `n` bytes has failed: the wave holds the fault, one for the whole operation, and the chunk writes nothing
(R339, R344). -/
def State.failChunk (s : State) (o : CopyOp) (n code : Nat) (info : Word) : State :=
  let s : State := if o.failed then s else s.defer o.wave { code := code, info := info, pc := o.pc }
  ((s.setOp { o with failed := true, pos := o.pos + n }).accountChunk o.id n).chanChunk o n

/-- A packet fails with a fault: its wave holds it, and a failed copy holds one for all its chunks. A line of a return that cannot
reach its home is lost without a fault (R173, R339). -/
def State.losePacket (s : State) (p : Packet) (code : Nat) (info : Word) : State :=
  let s : State := { s with packets := dropIf (fun q => q.id == p.id) s.packets, acks := dropIf (fun a => a.id == p.id) s.acks }
  match p.kind with
  | .marker _ => s
  | .write =>
    let s := s.dropFlag p
    match s.wave? p.wave with
    | none => s
    | some w =>
      let (s, n) := s.passEntries p
      let s := s.missFree (s.coreOf w) n
      if p.seq = 0 && code == LINK_PARTITION then s else s.defer w.uid { code := code, info := info, pc := p.pc }
  | .read name => match s.op? name, s.wave? p.wave with
    | some o, _ => if o.asked == some o.pos then s.failChunk o p.bytes code info else s
    | none, none => s
    | none, some w => match w.loads.find? (·.id == name) with
      | none => s
      | some l =>
        if l.lanes.all (·.got.isSome) then s
        else if l.atomic then s.failEntries w l.seq code info
        else s.failLoad w l code info
  | .chunk op => match s.op? op with
    | none => s
    | some o =>
      let s : State := if o.failed then s
        else (s.setOp { o with failed := true }).defer o.wave { code := code, info := info, pc := p.pc }
      if p.arrived then s else s.accountChunk op p.bytes

/-- A packet that cannot reach its destination, or that is not acknowledged in time, fails (R338, R339, R346). -/
def State.failPacket (s : State) (p : Packet) (reason : Nat) : State :=
  s.losePacket p LINK_PARTITION (linkInfo p.code reason ((p.cells.head?.map (·.1)).getD 0))

/-- Reach of a packet's destination: on its path while that stands, so one sent to an endpoint keeps the port under which it left
(R345); a packet inside a die that drains completes (R340). A packet whose path is gone waits to be sent again (R338). -/
def State.packetReach (s : State) (p : Packet) : Reach :=
  if s.insideDrain p.src p.dst (pathDies p.path) then .ok
  else if p.dst < 8 && s.dieGone p.dst then .fail 2
  else if s.pathStands false p.src p.path then .ok
  else if s.pathStands true p.src p.path then .waits
  else match s.girthReach p.src p.dst with
    | .fail r => .fail r
    | _ => .waits

/-- A packet that has reached an endpoint stays until it is acknowledged (R346). -/
def State.arrivedAt (s : State) (p : Packet) : State :=
  let w : Nat := match p.kind with
    | .write | .read _ => p.wave
    | _ => 0
  let (s, n) := s.passEntries p
  { s with packets := replace (·.id == p.id) { p with arrived := true, entries := n } s.packets,
           acks := s.acks ++ [{ id := p.id, wave := w, core := ((s.wave? w).map s.coreOf).getD 0, entries := n }] }

/-- GIRTH_DELIVERY (O8): a packet is written into its destination; a marker is gathered (O9). A compute die acknowledges at
once, an endpoint as R346 states; an endpoint may refuse a write or a request (R344). -/
def execGirthDelivery (x : Arrival) (s : State) : Out :=
  execEvent s fun s => s.pinning (.packet x.at_) fun s => do
    let p ← s.packets.find? (·.id == x.at_)
    if p.arrived || !s.packetNext p then none
    if x.ans == .refused then
      if p.dst < 8 || !p.numbered then none
      some (s.losePacket p GRANT_FAILED (wd (16 * p.code + 8)))
    else match s.packetReach p with
    | .waits => none
    | .fail r => some (s.failPacket p r)
    | .ok =>
      match s.hWrite (match p.kind with
          | .read _ => []
          | _ => p.cells) p.seq with
      | (_, false) => none
      | (s, true) =>
        let gone : State := { s with packets := dropIf (fun q => q.id == x.at_) s.packets }
        match p.kind with
        | .marker _ => some gone
        | .read _ => some (s.arrivedAt p)
        | .write => some (if p.dst < 8 then (let x := gone.passEntries p; x.1.ackTo p.wave x.2) else s.arrivedAt p)
        | .chunk op => some ((if p.dst < 8 then gone else s.arrivedAt p).landed op p.cells p.bytes)

/-! O9 and O10: rein queues -/

/-- The head of a rein queue. -/
def State.reinHead? (s : State) (src dst : Nat) : Option Rein := s.reins.find? fun m => m.src == src && m.dst == dst

/-- Flush markers sent down paths. -/
def State.sendMarkers (s : State) (m : Rein) : List (Nat × Nat × Nat) → State
  | [] => s
  | (a, b, path) :: r =>
    let (s, id) := s.fresh
    let p : Packet := { id := id, pc := 0, code := 31, src := a, dst := b, path := path, kind := .marker m.id, cells := [],
                        wave := m.wave, entries := 0, first := s.clk, last := s.clk, num := 0, sel := false, bytes := 0, seq := 0, arrived := false }
    let s : State := { s with packets := s.packets ++ [p],
                              reins := s.reins.map fun x => if x.id == m.id then { x with need := x.need ++ [id] } else x }
    s.sendMarkers m r

/-- FLUSH (O9), for a head that orders packets: markers go down every path used since the last marker. -/
def execFlush (src dst : Nat) (s : State) : Out :=
  execEvent s fun s => do
    let m ← s.reinHead? src dst
    if m.flushed || m.need.isEmpty then none
    let mine (u : Nat × Nat × Nat) : Bool := u.1 == src && u.2.1 == dst
    let s' : State := { s with used := dropIf mine s.used,
                               reins := s.reins.map fun x => if x.id == m.id then { x with flushed := true } else x }
    some (s'.sendMarkers m (s.used.filter mine))

/-- A stamp has reached the die of its next holder (R207, R212). -/
def State.stampArrives (s : State) (kernel : Nat) : State :=
  match s.kernel? kernel with
  | some k => s.setKernel { k with stamp := k.stamp.map fun st => { st with moving := false } }
  | none => s

/-- A die's report that a kernel is complete on it has reached the saddle die, or will not (R207, R215). -/
def State.reported (s : State) (kernel die : Nat) : State :=
  match s.kernel? kernel with
  | some k => s.setKernel { k with reports := k.reports.map (dropIf (· == die)) }
  | none => s

/-- The message at the head acts at its destination (O10). -/
def State.reinAct (s : State) (m : Rein) : Option State :=
  match m.kind with
  | .request r => some (if m.dst < 8 then s.enqueue m.dst r else { s with ebq := s.ebq ++ [r] })
  | .ret gid => match s.grant? gid with
    | some g => some (s.homeReturn g)
    | none => some s
  | .epRet ep ia len kind => some (s.epReturn m.dst ep ia len kind)
  | .atomic a => some { s with hqs := s.hqs ++ [(m.dst, a)] }
  | .flag ia _ _ copy _ =>
    some { s with flags := s.flags ++ [{ id := m.id, home := m.dst, ia := ia, wave := m.wave, copy := copy }] }
  | .answer a => s.takeAnswer a
  | .stamp k => some (s.stampArrives k)
  | .complete k => some (s.reported k m.src)
  | .release _ => some s

/-- A message fails with a fault that may name the IA of its destination: a return completes without write-back, a request, an
atomic or a flag gives its register or its wave the fault, and an answer its register (R339). A stamp waits for a route, and no
report is waited for from a die that is cut off (assumption 100). -/
def State.loseRein (s : State) (m : Rein) (code : Nat) (info : Nat → Nat → Word) : Option State :=
  match m.kind with
  | .request r => match r.who with
    | .grant gid => match s.grant? gid with
      | some g => some (s.failRequest g (some (code, info g.reg.code r.ia)) 0)
      | none => some s
    | _ => some s
  | .stamp _ => none
  | .answer a => match a.req.who with
    | .grant gid => match s.grant? gid with
      | some g => some ((s.giveUp g).failRequest g (some (code, info g.reg.code g.ia)) 0)
      | none => some s
    | _ => some s
  | .complete k => some (s.reported k m.src)
  | .atomic a => some (s.failAtomic a code (info a.code ((a.lanes.head?.map (·.addr)).getD 0)))
  | .flag ia pc c _ _ => some (s.defer m.wave { code := code, info := info c ia, pc := pc })
  | .ret gid => match s.grant? gid with
    | some g => if code = GRANT_FAILED then some (s.defer m.wave { code := code, info := info g.reg.code g.ia, pc := 0 }) else some s
    | none => some s
  | _ => some s

/-- A message that cannot reach its destination, or is not acknowledged in time, fails (R338, R339, R346). -/
def State.reinFail (s : State) (m : Rein) (reason : Nat) : Option State :=
  s.loseRein m LINK_PARTITION fun c ia => linkInfo c reason ia

/-- A message that has acted at an endpoint fails when it is not acknowledged in time (R346): a request or an atomic that the
endpoint has not answered yet is given up there, and a flag or an atomic leaves its wave the fault. -/
def State.loseSent (s : State) (m : Rein) : State :=
  let s : State := { s with unacked := dropIf (·.id == m.id) s.unacked, acks := dropIf (·.id == m.id) s.acks }
  match m.kind with
  | .request r =>
    if s.ebq.any (·.rid == r.rid) then (({ s with ebq := dropIf (·.rid == r.rid) s.ebq } : State).reinFail m 4).getD s else s
  | .atomic a =>
    if s.hqs.any (·.2.id == a.id) then (({ s with hqs := dropIf (·.2.id == a.id) s.hqs } : State).reinFail m 4).getD s
    else if a.load = 0 then
      s.defer a.wave { code := LINK_PARTITION, info := linkInfo a.code 4 ((a.lanes.head?.map (·.addr)).getD 0), pc := a.pc }
    else s
  | .flag _ _ _ _ _ => (s.reinFail m 4).getD s
  | _ => s

/-- A message that has acted at an endpoint stays until it is acknowledged (R346). -/
def State.stayUnacked (s : State) (m : Rein) : State :=
  let w : Nat := match m.kind with
    | .flag _ _ _ copy _ => if copy then 0 else m.wave
    | _ => m.wave
  { s with unacked := s.unacked ++ [m],
           acks := s.acks ++ [{ id := m.id, wave := w, core := ((s.wave? w).map s.coreOf).getD 0, entries := 0 }] }

/-- REIN_DELIVERY (O10): the head of a rein queue acts once its markers are gathered and the packets before it have been
delivered. An endpoint may refuse a flag or a return (R344); else the message stays until it is acknowledged (R346). -/
def execReinDelivery (src : Nat) (x : Arrival) (s : State) : Out :=
  execEvent s fun s => do
    let dst := x.at_
    let m ← s.reinHead? src dst
    let gone (s : State) : State := { s with reins := dropIf (fun x => x.id == m.id) s.reins }
    match s.messageReach m with
    | .waits => none
    | .fail r => (gone s).reinFail m r
    | .ok =>
      let dirty := !m.flushed && !m.need.isEmpty && s.used.any fun u => u.1 == src && u.2.1 == dst
      if dirty || m.need.any fun n => s.packets.any fun p => p.id == n && !p.arrived then none
      if dst < 8 || dst == saddle then
        if x.ans == .refused then none
        (gone s).reinAct m
      else
        let s ← s.numberRein m
        let m ← s.reins.find? (·.id == m.id)
        if x.ans == .refused then (gone s).loseRein m GRANT_FAILED fun c _ => wd (16 * c + 8)
        else ((gone s).reinAct m).map (·.stayUnacked m)

/-! O12 -/

/-- The next holder of a stamp; none when it retires (R212). -/
def Kernel.nextHolder (k : Kernel) (st : Stamp) : Stamp :=
  if st.wave + 1 < k.wpg then { st with wave := st.wave + 1, passing := none }
  else if st.grp + 1 < k.ngrp then { st with grp := st.grp + 1, wave := 0, passing := none }
  else { st with passing := none, retired := true }

/-- The die on which the wave that is to hold a stamp runs, once its group is placed. -/
def State.stampDie? (s : State) (k : Kernel) (st : Stamp) : Option Nat :=
  (s.groups.find? fun g => g.kernel == k.uid && g.grp == st.grp).map (·.die)

/-- STAMP_PASS (O12): the stamp moves on once the holder has passed it or ended, its older outbox entries have drained and
its home atomics have been performed. To a holder on another die it goes as a rein message (R207). -/
def execStampPass (kernel : Nat) (s : State) : Out :=
  execEvent s fun s => do
    let k ← s.kernel? kernel
    let st ← k.stamp
    if st.retired || st.moving then none
    let g ← s.groups.find? fun g => g.kernel == kernel && g.grp == st.grp
    let w ← s.waves.find? fun w => w.group == g.uid && w.index == st.wave
    let seq ← match st.passing with
      | some q => some q
      | none => if w.st == .ended then some s.nextUid else none
    if (w.outbox.any fun e => decide (e.seq < seq)) || !s.atomicsDone w.uid seq (fun _ => true) then none
    let next := k.nextHolder st
    match (if next.retired then none else s.stampDie? k next) with
    | some d =>
      if d = g.die then some (s.setKernel { k with stamp := some next })
      else some ((s.setKernel { k with stamp := some { next with moving := true } }).sendRein g.die d w.uid (.stamp kernel))
    | none => some (s.setKernel { k with stamp := some next })

end Sys2Proof.Machine
end

