-- ==== Sys2Proof/Machine/Engine.lean ====
section
/-! DEFINITION. The copy engine (R230, R237 to R248): firing, starting, segments, chunks (O6) and completion; entries of
CHPUSH. -/

namespace Sys2Proof.Machine

open Sys2Proof

/-! Slots -/

/-- Slots last 2,048 clk of every 65,536 (R348): clk left before the next slot begins. -/
def toSlot (clk : Nat) : Nat := 65536 - clk % 65536

/-- Work of that bound may start now (R351): no slot is running, and it fits before the next. -/
def State.fitsSlot (s : State) (bound : Nat) : Bool := !s.inSlot && decide (2048 ≤ s.clk % 65536) && decide (bound ≤ toSlot s.clk)

/-- An endpoint of a copy whose grant is neither staged nor homed in IA space 2 (R244). A fill reads the range that its
window replaces (assumption 26). -/
def State.boundEnd (s : State) (fill : Bool) : End → Bool
  | .grant gid => match s.grant? gid with
    | some g => if fill then iaSpace g.ia != 2 else !s.direct g
    | none => false
  | _ => false

/-- A copy operation is slot-bound (R244). -/
def State.slotBound (s : State) (o : CopyOp) : Bool :=
  s.boundEnd (o.kind == .fill) o.dst || s.boundEnd (o.kind == .fill) o.src

/-- The bound of the segment that comes next (R244). -/
def CopyOp.segBound (o : CopyOp) : Nat := 2048 + cdiv (min 65536 (o.len - o.pos)) 32

/-! Firing and starting -/

/-- The context of a group is FAULTED or being killed: no engine starts an operation for it (R288). -/
def State.groupStopped (s : State) (gu : Nat) : Bool :=
  match (s.group? gu).bind fun g => s.kernel? g.kernel with
  | some k => (s.ctx k.ctx).st != .active && (s.ctx k.ctx).st != .preempted
  | none => true

/-- Operations ahead of an operation in its core's queue that name one of its channels. -/
def State.blockedAhead (s : State) (core : Core) (o : CopyOp) : Bool :=
  (core.engineQ.takeWhile (· != o.id)).any fun i => match s.op? i with
    | some p => p.group == o.group && p.chans.any fun c => o.chans.contains c
    | none => false

/-- Entries that an operation takes from, or adds to, a channel. -/
def CopyOp.count (o : CopyOp) (c : Chan) : Nat := o.len / c.size

/-- The source channel of an operation holds its declared count, and its destination channel has room (R238). -/
def Group.canFire (g : Group) (o : CopyOp) : Bool :=
  (match o.src with
   | .chan c => (g.chan? c).any fun ch => decide (ch.claims + o.count ch ≤ ch.fill)
   | _ => true) &&
  (match o.dst with
   | .chan c => (g.chan? c).any fun ch => ch.room (o.count ch)
   | _ => true)

/-- The bytes of the entries that an operation claims, read at the instant of the claim (R230, Table 9.2). -/
def State.claimed (s : State) (g : Group) (o : CopyOp) (ch : Chan) : List Byte :=
  (List.range o.len).map fun j =>
    s.byteAt (g.spKey (ch.at_ (BitVec.ofNat 32 (ch.q.toNat + ch.claims + j / ch.size)) + j % ch.size))

/-- Source entries claimed and read, and destination room reserved (R230, R238). -/
def State.fire (s : State) (g : Group) (o : CopyOp) : State :=
  let src : Group × CopyOp := match o.src with
    | .chan c => match g.chan? c with
      | some ch => (g.setChan { ch with claims := ch.claims + o.count ch },
                    { o with srcAt := ch.q.toNat + ch.claims, data := s.claimed g o ch })
      | none => (g, o)
    | _ => (g, o)
  let dst : Group × CopyOp := match o.dst with
    | .chan c => match src.1.chan? c with
      | some ch => (src.1.setChan { ch with v := ch.v + o.count ch }, { src.2 with dstAt := ch.p.toNat + ch.v })
      | none => src
    | _ => src
  (s.setGroup dst.1).setOp { dst.2 with fired := true }

/-- An operation that may fire, fired. -/
def State.tryFire (s : State) (o : CopyOp) : Option State := do
  let c := s.core o.core
  if o.fired || o.chans.isEmpty || !c.engineQ.contains o.id || s.blockedAhead c o || s.groupStopped o.group then none
  let g ← s.group? o.group
  if g.canFire o then some (s.fire g o) else none

/-- COPY_FIRE (R238). -/
def execCopyFire (op : Nat) (s : State) : Out :=
  execEvent s fun s => do
    let o ← s.op? op
    s.tryFire o

/-- An operation of a queue may start (R237, R244). -/
def State.canStart (s : State) (c : Core) (o : CopyOp) : Bool :=
  (o.chans.isEmpty || o.fired) && !s.blockedAhead c o && !s.groupStopped o.group &&
  (!s.slotBound o || s.fitsSlot o.segBound)

/-- The operation that a core's engine would start next: the first of its queue that may, while fewer than four are
started. -/
def State.nextStart? (s : State) (core : Nat) : Option CopyOp :=
  let c := s.core core
  if 4 ≤ (s.ops.filter fun o => o.core == core && o.started && o.kind != .drain).length then none
  else c.engineQ.findSome? fun i => (s.op? i).bind fun o => if s.canStart c o then some o else none

/-! Chunks (R241) -/

/-- A 32-bit index of GATH or SCAT (R246). -/
def State.opIndex (s : State) (g : Group) (o : CopyOp) (i : Nat) : Nat :=
  leNat ((List.range 4).map fun j => s.byteAt (g.spKey (o.nums.getD 2 0 + 4 * i + j)))

/-- Bytes of an indexed endpoint. -/
def State.endSize (s : State) (g : Group) : End → Nat
  | .grant gid => ((s.grant? gid).map (·.len)).getD 0
  | _ => ((s.kernel? g.kernel).map (·.scr * 256)).getD 0

/-- The byte of an indexed endpoint that stream byte `j` names; none for an element that falls outside. -/
def State.indexed (s : State) (g : Group) (o : CopyOp) (base : Nat) (e : End) (j : Nat) : Option Nat :=
  let z := o.nums.getD 4 1
  let k := s.opIndex g o (j / z)
  if base + k * z + z ≤ s.endSize g e then some (base + k * z + j % z) else none

/-- The destination offset of stream byte `j` of a COPY2 or a ROUTE (R246, R248). -/
def CopyOp.offTo (o : CopyOp) (j : Nat) : Nat :=
  let n (i : Nat) : Nat := o.nums.getD i 0
  let m := 4 * n 5 * (n 6 + 1)
  if o.kind == .route then (if j < m then n 1 + j else n 2 + (j - m))
  else n 0 + j / (n 2 * n 3) * n 6 + j % (n 2 * n 3) / n 2 * n 5 + j % n 2

/-- The 64 B blocks of the destination ascend with the stream: rows and planes of a COPY2 follow each other, and so do the two
outputs of a ROUTE. -/
def CopyOp.inOrder (o : CopyOp) : Bool :=
  let n (i : Nat) : Nat := o.nums.getD i 0
  match o.dst, o.kind with
  | .chan _, _ => true
  | _, .copy2 => (decide (n 3 ≤ 1) || decide (n 2 ≤ n 5 + 1)) && (decide (o.len ≤ n 2 * n 3) || decide (n 5 * (n 3 - 1) + n 2 ≤ n 6 + 1))
  | _, .route => decide (n 1 + 4 * n 5 * (n 6 + 1) ≤ n 2)
  | _, _ => true

/-- The stream byte that is performed as number `i`: block by block of the destination, and in the order of the stream within a
block, where a later row overwrites an earlier one (R241, R246). -/
def CopyOp.nth (o : CopyOp) (i : Nat) : Nat :=
  if o.inOrder then i else (sortBy (fun j => o.offTo j / 64) (List.range o.len)).getD i i

/-- The source offset of the byte performed as number `i`. -/
def State.srcOff (s : State) (g : Group) (o : CopyOp) (i : Nat) : Option Nat :=
  let n (i : Nat) : Nat := o.nums.getD i 0
  let j := o.nth i
  match o.src, o.kind with
  | .chan _, _ => some j
  | _, .copy2 => some (n 1 + j / (n 2 * n 3) * n 8 + j % (n 2 * n 3) / n 2 * n 7 + j % n 2)
  | _, .gath => s.indexed g o (n 1) o.src j
  | _, .fill => some j
  | _, _ => some (n 1 + j)

/-- The destination offset of the byte performed as number `i`. -/
def State.dstOff (s : State) (g : Group) (o : CopyOp) (i : Nat) : Option Nat :=
  match o.dst, o.kind with
  | .chan _, _ => some i
  | _, .copy2 | _, .route => some (o.offTo (o.nth i))
  | _, .scat => s.indexed g o (o.nums.getD 0 0) o.dst i
  | _, _ => some (o.nums.getD 0 0 + i)

/-- Bytes from number `i` on that go to one 64 B block of the destination. -/
def State.chunkRun (s : State) (g : Group) (o : CopyOp) (block i : Nat) : Nat → Nat
  | 0 => 0
  | n + 1 => match s.dstOff g o i with
    | some a => if a / 64 = block then s.chunkRun g o block (i + 1) n + 1 else 0
    | none => 0

/-- Bytes of the next chunk: the destination is cut at every 64 B boundary of its offset (R241); an element of SCAT has chunks of
its own, at whose instant its index is read (R246). -/
def State.chunkLen (s : State) (g : Group) (o : CopyOp) : Nat :=
  let rest := o.len - o.pos
  match o.kind, s.dstOff g o o.pos with
  | .copy2, some a | .route, some a => min rest (s.chunkRun g o (a / 64) (o.pos + 1) (rest - 1) + 1)
  | .scat, d => let z := o.nums.getD 4 1
    min rest (min (64 - d.getD 0 % 64) (z - o.pos % z))
  | _, d => min rest (64 - d.getD 0 % 64)

/-- Where the next segment of an operation ends: 65,536 bytes on, and no sooner than its next chunk (R244). -/
def State.segmentEnd (s : State) (o : CopyOp) : Nat :=
  min o.len (o.pos + max 65536 (((s.group? o.group).map fun g => s.chunkLen g o).getD 0))

/-- An operation started: it leaves the queue, and a slot-bound one starts its first segment. -/
def State.start (s : State) (o : CopyOp) : State :=
  let c := s.core o.core
  (s.setCore o.core { c with engineQ := dropIf (· == o.id) c.engineQ }).setOp
    { o with started := true, segEnd := if s.slotBound o then s.segmentEnd o else 0 }

/-- COPY_START (R237). -/
def execCopyStart (die core : Nat) (s : State) : Out :=
  execEvent s fun s => do
    let o ← s.nextStart? (die * 40 + core)
    some (s.start o)

/-- The place of an offset of an endpoint: its target and address there; `from_` is the count of a channel's first
entry. -/
def State.endPlace (s : State) (g : Group) (e : End) (from_ off_ : Nat) : Tgt × Nat :=
  match e with
  | .grant gid => (.grant gid, ((s.grant? gid).map (·.ia)).getD 0 + off_)
  | .sp => (.sp g.uid, off_)
  | .chan c => match g.chan? c with
    | some ch => (.sp g.uid, ch.at_ (BitVec.ofNat 32 (from_ + off_ / ch.size)) + off_ % ch.size)
    | none => (.sp g.uid, off_)

/-- The byte that a fill reads: of the grant's own store and those it derives from, else of its home (R196). -/
def State.fillByte (s : State) (gid off_ : Nat) : State × Option Byte :=
  match s.grant? gid with
  | none => (s, none)
  | some g => match s.gsByte? (s.grants.length + 1) g (g.ia + off_) with
    | some b => (s, some b)
    | none => match s.keyOf (g.ia + off_) with
      | (s', .inl k) => (s', some (s'.byteAt k))
      | (s', .inr _) => (s', none)

/-- The channel that an operation reads. -/
def CopyOp.chanSrc (o : CopyOp) : Option Nat :=
  match o.src with
  | .chan c => some c
  | _ => none

/-- Bytes number `j` and on as an engine reads them now; entries of a channel, and the output of ROUTE, it has read before: what a load without forwarding reads (O6). A byte of a skipped
element is none; the whole is none while a page is unmapped. -/
def State.readStream (s : State) (g : Group) (o : CopyOp) (j : Nat) : Nat → Option (State × List (Option Byte))
  | 0 => some (s, [])
  | n + 1 =>
    if o.kind == .route || !o.chanSrc.isNone then
      (s.readStream g o (j + 1) n).map fun r => (r.1, o.data[o.nth j]? :: r.2)
    else
      match s.srcOff g o j with
      | none => (s.readStream g o (j + 1) n).map fun r => (r.1, none :: r.2)
      | some off_ =>
        let x : State × Option Byte := match o.kind, o.src with
          | .fill, .grant gid => s.fillByte gid off_
          | _, _ => let p := s.endPlace g o.src o.srcAt off_
            s.readTgt p.1 p.2
        match x.2 with
        | none => none
        | some b => (x.1.readStream g o (j + 1) n).map fun r => (r.1, some b :: r.2)

/-- The output of ROUTE (R248): lists, counts and drop area, with the number of drops. -/
def routeOut (ids : List Nat) (k e c : Nat) : List Nat × List Nat × List Nat × Nat :=
  let step (a : List (List Nat) × List Nat) (x : Nat × Nat) : List (List Nat) × List Nat :=
    if e ≤ x.1 then a
    else if (a.1.getD x.1 []).length < c then (a.1.modify x.1 fun l => l ++ [x.2 / k], a.2)
    else (a.1, a.2 ++ [x.2 / k + x.1 * 2 ^ 32 + x.2 % k * 2 ^ 48])
  let r := ids.zipIdx.foldl step (List.replicate e [], [])
  (r.1.flatMap fun l => l ++ List.replicate (c - l.length) (2 ^ 32 - 1), r.1.map (·.length),
   r.2 ++ List.replicate (ids.length - r.2.length) (2 ^ 64 - 1), r.2.length)

/-- ROUTE reads its whole id area before it writes any output (R248). -/
def State.routeRead (s : State) (g : Group) (o : CopyOp) : CopyOp :=
  if o.kind == .route && o.pos = 0 then
    let n (i : Nat) : Nat := o.nums.getD i 0
    let ids := (List.range (n 3 * n 4)).map fun i =>
      leNat ((List.range 2).map fun j => s.byteAt (g.spKey (n 0 + 2 * i + j)))
    let r := routeOut ids (n 4) (n 5) (n 6)
    { o with data := ((r.1 ++ r.2.1).flatMap (leBytes 4)) ++ r.2.2.1.flatMap (leBytes 8), nums := o.nums.take 7 ++ [r.2.2.2] }
  else o

/-- An element skipped: REFUSED_BOUNDS for the lowest one, delivered once (R245, R246). -/
def State.skipFault (s : State) (o : CopyOp) (j : Nat) : State × CopyOp :=
  if o.skip.isSome then (s, o)
  else
    let i := j / o.nums.getD 4 1
    let code : Nat := match (if o.kind == .scat then o.dst else o.src) with
      | .grant gid => ((s.grant? gid).map (·.reg.code)).getD 31
      | _ => 31
    (s.defer o.wave { code := REFUSED_BOUNDS, info := wd (code + 65536 * (i % 2 ^ 48)), pc := o.pc }, { o with skip := some i })

/-- Bytes written by an engine to a store (O6): a staged window, a scratchpad, or the grant's store; granules of a
scratchpad become full. -/
def State.engineWrite (s : State) (t : Tgt) (a : Nat) (b : Byte) : State :=
  let k := s.loc t a
  let s := s.writeTgt t a b
  if isSp k then s.setFull [k / 16] else s

/-- The destination offsets and bytes of a chunk, as its indices stand at its instant (R246); skipped bytes are left out. -/
def State.chunkCells (s : State) (g : Group) (o : CopyOp) (bs : List (Option Byte)) : Store :=
  bs.zipIdx.filterMap fun b => b.1.bind fun v => (s.dstOff g o (o.pos + b.2)).map fun a => (a, v)

/-- The bytes of a chunk written. -/
def State.writeChunk (s : State) (g : Group) (o : CopyOp) (cells : Store) : State :=
  let s := cells.foldl (fun s c => let p := s.endPlace g o.dst o.dstAt c.1; s.engineWrite p.1 p.2 c.2) s
  if s.bad.isEmpty then s
  else s.wrote 0 (cells.flatMap fun c => let p := s.endPlace g o.dst o.dstAt c.1; s.places p.1 p.2 1)

/-- A copy whose chunks travel to the home of its destination, as the data of an RST do: one that raises a flag (R242), and one
to a grant of another home that is not staged (O6). The answer is the grant. -/
def State.sentCopy? (s : State) (die : Nat) (o : CopyOp) : Option Grant :=
  match o.dst with
  | .grant gid => (s.grant? gid).bind fun g =>
    if o.flag.isSome || (g.home != die && (s.windowOf? (s.grants.length + 1) g).isNone) then some g else none
  | _ => none

/-- The grant at whose home the next chunk reads bytes, with the first of them: no staged window serves it, unless a fill reads the
range that the window replaces, and its stores do not define them all. -/
def State.chunkFrom? (s : State) (g : Group) (o : CopyOp) (n : Nat) : Option (Grant × Nat) :=
  match o.src with
  | .grant gid => (s.grant? gid).bind fun sg =>
    if o.kind != .fill && (s.windowOf? (s.grants.length + 1) sg).isSome then none
    else ((List.range n).findSome? fun i => (s.srcOff g o (o.pos + i)).bind fun a =>
      if (s.gsByte? (s.grants.length + 1) sg (sg.ia + a)).isSome then none else some (sg.ia + a)).map fun a => (sg, a)
  | _ => none

/-- Whether the source of a copy's next chunk is reached; bytes that an endpoint has been asked for are (R345). -/
def State.srcReach (s : State) (g : Group) (o : CopyOp) (n : Nat) : Reach :=
  match s.chunkFrom? g o n with
  | some x => if o.asked == some o.pos then .ok else s.girthReach g.die x.1.home
  | none => .ok

/-- A chunk has its bytes: those that lie at an endpoint have been requested there, and the request has reached it. -/
def State.chunkServed (s : State) (g : Group) (o : CopyOp) (n : Nat) : Bool :=
  (s.chunkFrom? g o n).all fun x => decide (x.1.home < 8) || (o.asked == some o.pos && s.lineReached o.id (x.2 / 256))

/-- A chunk goes to its destination: to the home of a copy that is sent there, else to the destination's store. A staged window
keeps the bytes of a copy that is sent too (assumption 102). -/
def State.putChunk (s : State) (g : Group) (o : CopyOp) (bs : List (Option Byte)) (path : Nat) : Option State :=
  let n := bs.length
  let out := s.chunkCells g o bs
  match s.sentCopy? g.die o with
  | none => some ((s.writeChunk g o out).accountChunk o.id n)
  | some dg => do
    let cells : Store := out.map fun c => (dg.ia + c.1, c.2)
    match cells with
    | [] => some (s.accountChunk o.id n)
    | c :: _ =>
      let s ← if (s.windowOf? (s.grants.length + 1) dg).isSome then some (s.writeChunk g o out) else s.pushLine dg.gid c.1
      if dg.home = g.die then
        match s.hWrite cells with
        | (_, false) => none
        | (s, true) => some (s.landed o.id cells n)
      else
        match s.girthReach g.die dg.home with
        | .waits => none
        | .fail r =>
          let s : State := if o.failed then s
            else (s.setOp { o with failed := true }).defer o.wave
              { code := LINK_PARTITION, info := linkInfo dg.reg.code r c.1, pc := o.pc }
          some (s.accountChunk o.id n)
        | .ok => s.sendPacket g.die dg.home path (.chunk o.id) cells n o.wave 0 o.pc dg.reg.code

/-- The bytes of a fill leave the grant's own store as they land. -/
def State.fillDone (s : State) (o : CopyOp) (n : Nat) : State :=
  match o.kind, o.src with
  | .fill, .grant gid => match s.grant? gid with
    | some g => s.setGrant { g with gs := sdels g.gs (g.ia + o.pos) n }
    | none => s
  | _, _ => s

/-- A chunk may be performed now (O6): older outbox entries of its wave have drained, its operation is neither suspended
nor parked, a slot-bound one stays within its segment, and no residue's window covers its destination. -/
def State.chunkReady (s : State) (g : Group) (o : CopyOp) (n : Nat) : Bool :=
  o.started && decide (o.pos < o.len) && !o.suspended && !s.isParked (.chunk o.id) &&
  (match s.wave? o.wave with
   | some w => w.outbox.all fun e => decide (o.seq ≤ e.seq)
   | none => true) &&
  (!s.slotBound o || (!s.inSlot && decide (o.pos + n ≤ o.segEnd))) &&
  (List.range n).all fun i => match s.dstOff g o (o.pos + i) with
    | none => true
    | some off_ => let p := s.endPlace g o.dst o.dstAt off_
      let k := s.loc p.1 p.2
      !(isSp k) || !s.residueSpan (k, 1)

/-- One chunk performed (O6); none while it waits. -/
def State.chunk (s : State) (o : CopyOp) (path : Nat) : Option State := do
  let g ← s.group? o.group
  let n := s.chunkLen g o
  if !s.chunkReady g o n then none
  match s.srcReach g o n with
  | .waits => none
  | .fail r =>
    let x := s.chunkFrom? g o n
    some (s.failChunk o n LINK_PARTITION (linkInfo ((x.map (·.1.reg.code)).getD 31) r ((x.map (·.2)).getD 0)))
  | .ok =>
    if !s.chunkServed g o n then none
    let o := s.routeRead g o
    let s := s.setOp o
    let (s, bs) ← s.readStream g o o.pos n
    let out := (List.range n).find? fun i => (s.srcOff g o (o.pos + i)).isNone || (s.dstOff g o (o.pos + i)).isNone
    let (s, o) : State × CopyOp := match out with
      | some i => s.skipFault o (o.pos + i)
      | none => (s, o)
    let s := s.setOp o
    let s ← s.putChunk g o bs path
    let o ← s.op? o.id
    some (((s.fillDone o n).chanChunk o n).setOp { o with pos := o.pos + n })

/-! Completion (R210) -/

/-- An operation of the engine is complete. -/
def State.opDone (s : State) (o : CopyOp) : Bool := o.kind != .drain && s.chunksDone o

/-- The flag that follows the last chunk (R242); none while its route waits. -/
def State.opFlag (s : State) (o : CopyOp) : Option State :=
  match o.flag, s.group? o.group with
  | some (gid, ia), some g => do
    let f ← s.grant? gid
    if f.home = g.die then
      let (s, id) := s.fresh
      some { s with flags := s.flags ++ [{ id := id, home := f.home, ia := ia, wave := o.wave, copy := true }] }
    else match s.reinReach g.die f.home with
      | .waits => none
      | .fail r => some (s.defer o.wave { code := LINK_PARTITION, info := linkInfo f.reg.code r ia, pc := o.pc })
      | .ok => some (s.sendRein g.die f.home o.wave (.flag ia o.pc f.reg.code true 0))
  | _, _ => some s

/-- A complete operation leaves: its flag message goes out, and ROUTE writes its drop count (R242, R248). -/
def State.finishOp (s : State) (o : CopyOp) : Option State := do
  if !s.opDone o then none
  let s ← s.opFlag o
  let s : State := if o.kind == .route then match s.wave? o.wave with
      | some w => s.setWave ({ w with vpend := dropIf (·.id == o.id) w.vpend }.sset o.sreg (wd (o.nums.getD 7 0)))
      | none => s
    else s
  some (s.delOp o.id)

/-- Every complete operation leaves. -/
def State.finishOps (s : State) : State :=
  s.ops.foldl (fun s o => match s.op? o.id with
    | some o => (s.finishOp o).getD s
    | none => s) s

/-- SEGMENT_START (R244): the next segment of a started operation whose segment has ended. -/
def execSegmentStart (op : Nat) (s : State) : Out :=
  execEvent s fun s => do
    let o ← s.op? op
    let g ← s.group? o.group
    if !o.started || o.suspended || !s.slotBound o || o.len ≤ o.pos || o.pos + s.chunkLen g o ≤ o.segEnd ||
        !s.fitsSlot o.segBound then none
    some (s.setOp { o with segEnd := s.segmentEnd o })

/-! CHPUSH -/

/-- The entry of a CHPUSH for a channel at the head of its wave's outbox, past entries of the same word. -/
def Wave.pushed? (w : Wave) (ch : Nat) : Option (OEnt × List Byte) :=
  match w.outbox with
  | [] => none
  | e :: _ => w.outbox.findSome? fun x => if x.seq == e.seq then (match x.kind with
      | .chan c bs => if c == ch then some (x, bs) else none
      | _ => none) else none

/-- A channel with room accepts an entry: its bytes are applied as one unit, and P advances (R230, R234). -/
def State.accept (s : State) (w : Wave) (ch : Nat) : Option State := do
  let (e, bs) ← w.pushed? ch
  let g ← s.group? w.group
  let c ← g.chan? ch
  if !c.room 1 then none
  let ix := c.p + BitVec.ofNat 32 c.v
  let t := Tgt.sp g.uid
  let s := (s.writeRun t (c.at_ ix) bs).wroteRun 0 t (c.at_ ix) bs.length
  let s := s.setGroup (g.setChan ({ c with v := c.v + 1 }.land ix))
  some (s.setWave { w with outbox := dropIf (· == e) w.outbox })

/-- CHPUSH_ACCEPT (R230). -/
def execChpushAccept (w ch : Nat) (s : State) : Out :=
  execEvent s fun s => do
    let w ← s.wave? w
    s.accept w ch

end Sys2Proof.Machine
end

