-- ==== Sys2Proof/Machine/Units.lean ====
section
/-! DEFINITION. The matrix queue, the hypervector unit and the Geode at work, the end of an ACTLD, and errors in stored
data (R126, R199, R258 to R269, R274 to R286). -/

namespace Sys2Proof.Machine

open Sys2Proof

/-! Fatal faults (R288) -/

/-- A fatal fault: an ACTIVE or PREEMPTED context becomes FAULTED, and its queues enter ERROR with reason 5. -/
def State.fatal (s : State) (ctx : Nat) : State :=
  let c := s.ctx ctx
  if c.st == .active || c.st == .preempted then
    (s.queues.filter (·.owner == ctx)).foldl (fun s q => s.queueError q.q 5)
      (s.setCtx ctx { c with st := .faulted })
  else s

/-! The matrix queue (R262) -/

/-- Storage key of a byte of a core's operand buffer. -/
def obKey (core b : Nat) : Nat := 2 ^ 57 + core * 2 ^ 20 + b

/-- A byte of a core's operand buffer. -/
def State.obByte (s : State) (core b : Nat) : Byte := (sget? (s.core core).ob b).getD (Config.memByte (obKey core b))

/-- A wave's outbox entries before an access number have drained; so have those of a wave that is gone. -/
def State.drained (s : State) (u seq : Nat) : Bool :=
  match s.wave? u with
  | some w => w.outbox.all fun e => decide (seq ≤ e.seq)
  | none => true

/-- Scratchpad bytes, as stored. -/
def State.spCells (s : State) : Store := s.mem.filter fun c => decide (c.1 < 2 ^ 56) && isSp c.1

/-- The head of a core's matrix queue replaced; the queue without it. -/
def Core.setMat (c : Core) (m : MatEnt) : Core := { c with matQ := replace (·.id == m.id) m c.matQ }
@[inherit_doc Core.setMat] def Core.popMat (c : Core) (clk : Nat) : Core := { c with matQ := c.matQ.drop 1, matDone := clk }

/-- The head of the matrix queue may start (R262). -/
def State.matReady (s : State) (core : Nat) : Option MatEnt :=
  let c := s.core core
  match c.matQ with
  | [] => none
  | m :: _ => if m.started.isNone && decide (m.entered < s.clk) && decide (c.matDone < s.clk) && !s.groupStopped m.group then some m else none

/-- Accumulators that an MDRAIN reads at its start (R266). -/
def State.drainAccs (s : State) (wave base rows : Nat) : List Word :=
  match s.wave? wave with
  | none => []
  | some w =>
    let at_ := accByte (((s.kernelOf? w).map (·.views)).getD 0) base / 8
    (List.range (32 * rows)).map fun i => w.readSlot s.clk (at_ + i)

/-- An entry as it starts. -/
def State.startMat (s : State) (core : Nat) (m : MatEnt) : State :=
  let k : MatKind := match m.kind with
    | .mdrain base rows oo os ro rs p al st r0 c0 act res rm f bank _ op =>
      .mdrain base rows oo os ro rs p al st r0 c0 act res rm f bank (s.drainAccs m.wave base rows) op
    | k => k
  s.setCore core ((s.core core).setMat { m with started := some s.clk, kind := k })

/-- MATRIX_ENTRY_START (R262). -/
def execMatrixEntryStart (die core : Nat) (s : State) : Out :=
  execEvent s fun s => do
    let m ← s.matReady (die * 40 + core)
    some (s.startMat (die * 40 + core) m)

/-- Scratchpad bytes of a group, one of them in a sector that is uncorrectable (R199). -/
def State.badSp (s : State) (g : Group) (offs : List Nat) : Bool :=
  !s.bad.isEmpty && offs.any fun o => s.bad.any (·.sec == g.spKey o / 64)

/-- A matrix entry has read uncorrectable data: it leaves the queue with nothing further written, and its wave, or the last signer of
an MMA, holds the fault (R269). -/
def State.failMat (s : State) (core : Nat) (m : MatEnt) (tier : Nat) : State :=
  let s := s.setCore core ((s.core core).popMat s.clk)
  let who : Nat × Word := match m.kind with
    | .mma sg _ _ _ _ _ _ _ _ => match sg.getLast? with
      | some x => (x.wave, x.pc)
      | none => (m.wave, m.pc)
    | _ => (m.wave, m.pc)
  let s : State := match m.kind with
    | .mdrain _ _ _ _ _ _ _ _ _ _ _ _ _ _ _ _ _ op => s.delOp op
    | _ => s
  (s.freeRes m.group).defer who.1 { code := MEM_UNCORRECTABLE, info := memInfo 31 tier who.2, pc := who.2 }

/-- A store as a queued or running MMA has read it so far, granule by granule the older one or the newer (R262; assumption
19). -/
def mixCells (id clk : Nat) (old new : Store) : Store :=
  smerge (new.filter fun c => !Config.mmaOld id clk (c.1 / 16)) (old.filter fun c => Config.mmaOld id clk (c.1 / 16))

/-- Sources that can be read now, captured: those of an OBLD from the scratchpad once it has started, and those of an MMA,
queued or running, once the outbox entries before it have drained (R258, R262). -/
def State.snapMat (s : State) (m : MatEnt) : MatEnt :=
  match m.kind with
  | .mma sg n l r f la lb w none =>
    if sg.all fun x => s.drained x.wave x.seq then { m with kind := .mma sg n l r f la lb w (some s.spCells) } else m
  | .mma sg n l r f la lb w (some old) =>
    if old == s.spCells then m else { m with kind := .mma sg n l r f la lb w (some (mixCells m.id s.clk old s.spCells)) }
  | .obld (some src) [] at_ n r =>
    if m.started.isSome && s.drained m.wave m.seq then
      match s.group? m.group with
      | some g => { m with kind := .obld (some src) ((List.range n).map fun i => s.byteAt (g.spKey (src + i))) at_ n r }
      | none => m
    else m
  | _ => m

/-- Every source that can first be read now is captured. -/
def State.snapAll (s : State) : State :=
  { s with cores := s.cores.map fun c => if c.matQ.isEmpty then c else { c with matQ := c.matQ.map s.snapMat } }

/-- The clk an entry takes from its start (R258, R262, R266). -/
def MatEnt.time (m : MatEnt) : Nat :=
  match m.kind with
  | .obld _ _ _ n _ => 24 + cdiv n 256
  | .mma _ _ l _ f _ _ _ _ => mmaTime f l.k
  | .mdrain _ rows _ _ _ _ _ _ _ _ _ _ _ _ _ _ _ _ => 16 + 2 * rows

/-- The running head of a matrix queue has taken its time. -/
def State.matOver (s : State) (core : Nat) : Option MatEnt :=
  match (s.core core).matQ with
  | [] => none
  | m :: _ => match m.started with
    | some t => if t + m.time ≤ s.clk then some m else none
    | none => none

/-- A scratchpad byte that matrix work reads: where a store has changed its granule since the source was last read, which of
the two it reads is open (R262; assumption 19). -/
def State.racedByte (s : State) (id key : Nat) (old : Byte) : Byte :=
  if Config.mmaOld id s.clk (key / 16) then old else s.byteAt key

/-- OBLD done (R258): its bytes are in the reservation, or, where it read an uncorrectable sector, are not (R269). -/
def State.doneObld (s : State) (core : Nat) (m : MatEnt) : Option State :=
  match m.kind with
  | .obld src bytes at_ n res => do
    if bytes.length != n then none
    let g ← s.group? m.group
    let r ← g.ress.find? (·.uid == res)
    if src.any fun so => s.badSp g ((List.range n).map (so + ·)) then return s.failMat core m 3
    let bs : List Byte := match src with
      | none => bytes
      | some so => (bytes.zipIdx).map fun b => s.racedByte m.id (g.spKey (so + b.2)) b.1
    let c := (s.core core).popMat s.clk
    some ((s.setCore core { c with ob := sputs c.ob (r.base + at_) bs }).freeRes m.group)
  | _ => none

/-- OBLD_COMPLETE (R258). -/
def execObldComplete (die core : Nat) (s : State) : Out :=
  execEvent s fun s => do
    let s := s.snapAll
    let m ← s.matOver (die * 40 + core)
    s.doneObld (die * 40 + core) m

/-! MMA (R261) -/

/-- Signers by rank: ascending wave index (R254). -/
def ranked (l : List Sign) : List Sign :=
  l.foldl (fun a x => a.takeWhile (fun y => decide (y.index ≤ x.index)) ++ [x] ++ a.dropWhile fun y => decide (y.index ≤ x.index)) []

/-- The value of a wave's accumulator register, as a window word gives it. -/
def accVal (w : Wave) (clk at_ j : Nat) : Nat := fld (w.readSlot clk (at_ / 8 + j / 2)) (32 * (j % 2)) 32

/-- Values packed two to a 64-bit word. -/
def packPairs : List Nat → List Word
  | a :: b :: r => wd (a + 2 ^ 32 * b) :: packPairs r
  | [a] => [wd a]
  | [] => []

/-- One tile row: the 64 results and their sticky bits. -/
def mmaRow (as : List (Option Fv)) (cols : List (List (Option Fv))) (accs : List Nat) (seg : Nat) : List FRes :=
  (accs.zip cols).map fun p => mDot p.1 seg as p.2 (as.length + 1)

/-- The tile rows of an MMA written one by one; the second part gathers sticky bits. -/
def State.mmaRows (s : State) (views : Word) (sg : List Sign) (rows : Nat) (a : Nat → List (Option Fv))
    (cols : List (List (Option Fv))) (seg : Nat) : List Nat → Word → State × Word
  | [], st => (s, st)
  | i :: r, st =>
    match sg[i / rows]? with
    | none => s.mmaRows views sg rows a cols seg r st
    | some x => match s.wave? x.wave with
      | none => s.mmaRows views sg rows a cols seg r st
      | some w =>
        let at_ := accByte views (x.base + i % rows)
        let accs := (List.range 64).map fun j => if x.clr then 0 else accVal w s.clk at_ j
        let out := mmaRow (a i) cols accs seg
        let w := { w with win := winSetWords w.win (at_ / 8) (packPairs (out.map (·.r))) }
        (s.setWave w).mmaRows views sg rows a cols seg r (out.foldl (fun m x => m ||| x.st) st)

/-- MMA done (R261): every accumulator is written, and its sticky bits go to the last signer; none is where it read an uncorrectable
sector (R269). -/
def State.doneMma (s : State) (core : Nat) (m : MatEnt) : Option State :=
  match m.kind with
  | .mma sg n l r f la lb word (some snap) => do
    let g ← s.group? m.group
    let k ← s.kernel? g.kernel
    let t : State := { s with mem := snap }
    let rdA (o : Nat) : Byte := s.racedByte m.id (g.spKey o) (t.byteAt (g.spKey o))
    let rdB (o : Nat) : Byte := s.obByte core o
    let kk := l.k
    let p0 := fld word 0 20
    if !s.bad.isEmpty && s.badSp g (l.reads f la p0 (fld word 20 7)) then return s.failMat core m 3
    let a (i : Nat) : List (Option Fv) := (List.range kk).map fun q => l.a rdA f la (p0 + i) q
    let cols := (List.range 64).map fun j => (List.range kk).map fun q => r.b rdB f lb kk q j
    let (s, st) := s.mmaRows k.views (ranked sg) (64 / max n 1) a cols (segLen f la lb) (List.range (fld word 20 7)) 0
    let s : State := match sg.getLast? with
      | some x => match s.wave? x.wave with
        | some w => s.setWave (w.sticky s.clk st)
        | none => s
      | none => s
    some ((s.setCore core ((s.core core).popMat s.clk)).freeRes m.group)
  | _ => none

/-- MMA_COMPLETE (R262). -/
def execMmaComplete (die core : Nat) (s : State) : Out :=
  execEvent s fun s => do
    let s := s.snapAll
    let m ← s.matOver (die * 40 + core)
    s.doneMma (die * 40 + core) m

/-! MDRAIN (R266, R267) -/

/-- The scratchpad offset of output element `n` of an MDRAIN, with its bytes, and those of the residual that it reads (R266). -/
def MatKind.outAt (m : MatKind) (n : Nat) : Nat × Nat :=
  match m with
  | .mdrain _ _ oo os _ _ _ _ _ _ _ _ _ _ f _ _ _ => (oo + n / 64 * os + n % 64 * drainSize f, drainSize f)
  | _ => (0, 0)
@[inherit_doc MatKind.outAt] def MatKind.resAt (m : MatKind) (n : Nat) : List Nat :=
  match m with
  | .mdrain _ _ _ _ ro rs _ _ _ _ _ _ true _ _ _ _ _ => (List.range 4).map (ro + n / 64 * rs + 4 * (n % 64) + ·)
  | _ => []

/-- One element drained: the residual read, the value computed and stored. The second part is its sticky bits. -/
def State.drainElem (s : State) (g : Group) (k : Kernel) (core : Core) (m : MatKind) (n : Nat) : State × Word :=
  match m with
  | .mdrain _ _ _ _ _ _ p al step r0 c0 act res rm f bank accs _ =>
    let i := n / 64
    let j := n % 64
    let acc := fld (accs.getD (32 * i + j / 2) 0) (32 * (j % 2)) 32
    let x := fMul .f32 .rne acc al.toNat
    let x : FRes := if res then
        let y := fAdd .f32 .rne x.r (leNat ((m.resAt n).map fun o => s.byteAt (g.spKey o)))
        { y with st := x.st ||| y.st }
      else x
    let x : FRes := if act then
        let y := (core.act.bank bank).eval .f32 .rne x.r
        { y with st := x.st ||| y.st }
      else x
    let u := fld (mix k.seed ((wd step <<< 40) ||| (wd (r0 + i) <<< 20) ||| wd (c0 + j))) 40 24
    let y := fConvert .f32 f rm .none (if u < p then 0 else x.r)
    let o := (m.outAt n).1
    (((leBytes (drainSize f) y.r).zipIdx).foldl (fun s b => s.engineWrite (.sp g.uid) (o + b.2) b.1) s, x.st ||| y.st)
  | _ => (s, 0)

/-- Elements `n` and on drained. -/
def State.drainElems (s : State) (g : Group) (k : Kernel) (core : Core) (m : MatKind) (n : Nat) : Nat → State × Word
  | 0 => (s, 0)
  | c + 1 =>
    let a := s.drainElem g k core m n
    let b := a.1.drainElems g k core m (n + 1) c
    (b.1, a.2 ||| b.2)

/-- Elements of the next chunk of a drain: up to the next 64 B boundary of its output row. -/
def drainChunk (m : MatKind) (pos : Nat) : Nat :=
  match m with
  | .mdrain _ _ oo os _ _ _ _ _ _ _ _ _ _ f _ _ _ =>
    let z := drainSize f
    let n := pos / z
    min (64 - n % 64) (max 1 ((64 - (oo + n / 64 * os + n % 64 * z) % 64) / z))
  | _ => 0

/-- Scratchpad bytes that an MDRAIN has written, as the MMAs queued behind it read them: each entry sees the effects of those before
it (R262). -/
def State.drainSeen (s : State) (core : Nat) (m : MatEnt) (keys : List Nat) : State :=
  let see (x : MatEnt) : MatEnt := match x.kind with
    | .mma sg n l r f la lb w (some old) =>
      if x.id == m.id then x
      else { x with kind := .mma sg n l r f la lb w (some (keys.foldl (fun c k => sput c k (s.byteAt k)) old)) }
    | _ => x
  s.setCore core { s.core core with matQ := (s.core core).matQ.map see }

/-- The output of a running MDRAIN up to some elements more, chunk by chunk (O6); none while older outbox entries of its wave have not
drained, or where a residue's window still covers it (R197). It ends before an element whose residual is uncorrectable (R269). -/
def State.drainStep (s : State) (core : Nat) (m : MatEnt) (count : Nat) : Option State :=
  match m.kind with
  | .mdrain _ _ _ _ _ _ _ _ _ _ _ _ _ _ f _ _ op => do
    if m.started.isNone || !s.drained m.wave m.seq then none
    let g ← s.group? m.group
    let k ← s.kernel? g.kernel
    let o ← s.op? op
    let z := drainSize f
    let at_ := o.pos / z
    let all := min count ((o.len - o.pos) / z)
    let n := ((List.range all).find? fun i => s.badSp g (m.kind.resAt (at_ + i))).getD all
    if (List.range n).any fun i => s.residueSpan (g.spKey (m.kind.outAt (at_ + i)).1, z) then none
    let keys := (List.range n).flatMap fun i => (List.range z).map fun b => g.spKey ((m.kind.outAt (at_ + i)).1 + b)
    let r := s.drainElems g k (s.core core) m.kind at_ n
    let t := ((r.1.wrote op keys).setOp { o with pos := o.pos + n * z, sticky := o.sticky ||| r.2 }).drainSeen core m keys
    some (if n < all then t.failMat core m 3 else t)
  | _ => none

/-- A chunk of a drain, as COPY_CHUNK performs it (R267). -/
def State.drainChunkAt (s : State) (op : Nat) : Option State := do
  let o ← s.op? op
  let m ← (s.core o.core).matQ.head?
  match m.kind with
  | .mdrain _ _ _ _ _ _ _ _ _ _ _ _ _ _ _ _ _ id =>
    if id != op || o.len ≤ o.pos then none
    s.drainStep o.core m (drainChunk m.kind o.pos)
  | _ => none

/-- MDRAIN done (R266): what is left of its output is written, and its sticky bits go to its wave; one that has failed has left. -/
def State.doneMdrain (s : State) (core : Nat) (m : MatEnt) : Option State :=
  match m.kind with
  | .mdrain _ rows _ _ _ _ _ _ _ _ _ _ _ _ _ _ _ op => do
    let s ← s.drainStep core m (64 * rows)
    let some o := s.op? op | return s
    let s : State := match s.wave? m.wave with
      | some w => s.setWave (w.sticky s.clk o.sticky)
      | none => s
    some ((s.setCore core ((s.core core).popMat s.clk)).delOp op)
  | _ => none

/-- MDRAIN_COMPLETE (R266). -/
def execMdrainComplete (die core : Nat) (s : State) : Out :=
  execEvent s fun s => do
    let m ← s.matOver (die * 40 + core)
    s.doneMdrain (die * 40 + core) m

/-- COPY_CHUNK (O6): the next chunk of an operation, or its completion; a chunk of an MDRAIN's output. -/
def execCopyChunk (op path : Nat) (s : State) : Out :=
  execEvent s fun s => s.pinning (.chunk op) fun s => do
    let o ← s.op? op
    if o.kind == .drain then s.drainChunkAt op
    else match s.chunk o path with
      | none => s.finishOp o
      | some s => match s.op? op with
        | none => some s
        | some o => some ((s.finishOp o).getD s)

/-! The hypervector unit (R274) -/

/-- A hypervector, a counter bank and tb of a wave, as words. -/
def Wave.hv (w : Wave) (clk : Nat) (views : Word) (n : Nat) : List Word :=
  (List.range 128).map fun i => w.readSlot clk (hSlot views n + i)
@[inherit_doc Wave.hv] def Wave.bank (w : Wave) (clk : Nat) (views : Word) (n : Nat) : List Word :=
  (List.range (128 * ctrwBits w.ctrw)).map fun i => w.readSlot clk (kSlot views w.ctrw n + i)
@[inherit_doc Wave.hv] def Wave.tie (w : Wave) : List Word := (List.range 128).map fun i => wget w.tb i

/-- The words that an operation reads at its start. -/
def Wave.unitReads (w : Wave) (clk : Nat) (views : Word) : UnitKind → List Word
  | .bind _ a b | .dist _ a b => w.hv clk views a ++ w.hv clk views b
  | .perm _ a _ | .pop _ a | .tie a | .srch _ a _ _ => w.hv clk views a
  | .bund d a => w.hv clk views a ++ w.bank clk views d
  | .thr _ a => w.tie ++ w.bank clk views a
  | .clr _ | .set _ _ | .cw _ => []

/-- The unit operation that a core starts now (R274). -/
def State.unitReady (s : State) (core : Nat) : Option UnitOp :=
  let c := s.core core
  match c.unitQ with
  | [] => none
  | u :: _ =>
    let stopped := match s.wave? u.wave with
      | some w => s.groupStopped w.group
      | none => false
    if u.started.isNone && decide (u.issued < s.clk) && decide (c.unitDone < s.clk) && !stopped then some u else none

/-- An operation as it starts. -/
def State.startUnit (s : State) (core : Nat) (u : UnitOp) : State :=
  let rd_ : List Word := match s.wave? u.wave with
    | some w => w.unitReads s.clk (((s.kernelOf? w).map (·.views)).getD 0) u.kind
    | none => []
  let c := s.core core
  s.setCore core { c with unitQ := replace (·.id == u.id) ({ u with started := some s.clk, read := rd_ } : UnitOp) c.unitQ }

/-- UNIT_OP_START (R274). -/
def execUnitOpStart (die core : Nat) (s : State) : Out :=
  execEvent s fun s => do
    let u ← s.unitReady (die * 40 + core)
    some (s.startUnit (die * 40 + core) u)

/-- The clk a unit operation takes from its start (R274). -/
def UnitKind.time : UnitKind → Nat
  | .cw _ => 1
  | _ => 4

/-- The running operation of a core's unit has taken its time. -/
def State.unitOver (s : State) (core : Nat) : Option UnitOp :=
  match (s.core core).unitQ with
  | [] => none
  | u :: _ => match u.started with
    | some t => if t + u.kind.time ≤ s.clk then some u else none
    | none => none

/-- What an operation writes to its wave at completion (R276 to R280). -/
def Wave.unitWrite (w : Wave) (clk : Nat) (views : Word) (u : UnitOp) : Wave :=
  let h := u.read.take 128
  let r := u.read.drop 128
  let setH (w : Wave) (n : Nat) (ws : List Word) : Wave := { w with win := winSetWords w.win (hSlot views n) ws }
  let setK (w : Wave) (n : Nat) (ws : List Word) : Wave := { w with win := winSetWords w.win (kSlot views w.ctrw n) ws }
  match u.kind with
  | .bind d _ _ => setH w d (xorHv h r)
  | .perm d _ n => setH w d (perm h n)
  | .bund d _ =>
    let b := bund (ctrwBits w.ctrw) r h
    (setK w d b.1).sticky clk (if b.2 then HSAT else 0)
  | .thr d _ => setH w d (thr (ctrwBits w.ctrw) r h)
  | .clr d => setK w d (List.replicate (128 * ctrwBits w.ctrw) 0)
  | .set d v => setH w d (List.replicate 128 v)
  | .dist d _ _ => w.sset d (wd (popHv (xorHv h r)))
  | .pop d _ => w.sset d (wd (popHv h))
  | .tie _ => { w with tb := (h.zipIdx).foldl (fun m p => wset m p.2 p.1) ([] : Words) }
  | .cw c => { w with ctrw := c }
  | .srch _ _ _ _ => w

/-- An operation completes: its results are written, or its search enters the Geode's FIFO (R285). -/
def State.doneUnit (s : State) (core : Nat) (u : UnitOp) : State :=
  let c := s.core core
  let s := s.setCore core { c with unitQ := c.unitQ.drop 1, unitDone := s.clk }
  match s.wave? u.wave with
  | none => s
  | some w =>
    match u.kind with
    | .srch d _ t two =>
      let (s, id) := s.fresh
      let x := s.die (core / 40)
      let q : Search := { id := id, wave := u.wave, pc := u.pc, d := d, two := two, table := t, query := u.read,
                          left := none, suspended := false, overran := none }
      s.setDie (core / 40) { x with searches := x.searches ++ [q] }
    | _ => s.setWave (w.unitWrite s.clk (((s.kernelOf? w).map (·.views)).getD 0) u)

/-- UNIT_OP_COMPLETE (R274). -/
def execUnitOpComplete (die core : Nat) (s : State) : Out :=
  execEvent s fun s => do
    let u ← s.unitOver (die * 40 + core)
    some (s.doneUnit (die * 40 + core) u)

/-! The Geode (R282 to R286) -/

/-- Prototypes that a search sees: none in a table of another context. -/
def State.protoCount (s : State) (die : Nat) (x : Search) : Nat :=
  let t := (s.die die).tables.getD x.table { owner := 0, base := 0, n := 0 }
  match s.wave? x.wave with
  | some w => if t.owner = s.ctxOf w then t.n else 0
  | none => 0

/-- A GEODEW that started before a search reached the Geode holds it back (R304). -/
def State.geodeHeld (s : State) (die : Nat) (x : Search) : Bool :=
  s.queues.any fun q => q.inflight.any fun c => match c.2 with
    | .geodew _ d t _ => d == die && t == x.table && decide (c.1 < x.id)
    | _ => false

/-- The clk a search of `n` prototypes takes (R285). -/
def searchTime (n : Nat) : Nat := 32 + cdiv n 512

/-- The search that a Geode starts now (R285). -/
def State.searchReady (s : State) (die : Nat) : Option Search :=
  let l := (s.die die).searches.filter fun x => match s.wave? x.wave with
    | some w => !s.groupStopped w.group || x.left.isSome
    | none => true
  match l with
  | [] => none
  | x :: _ =>
    if x.left.isNone && !s.geodeHeld die x && s.fitsSlot (searchTime (s.protoCount die x)) then some x else none

/-- A search replaced. -/
def State.setSearch (s : State) (die : Nat) (x : Search) : State :=
  let d := s.die die
  s.setDie die { d with searches := replace (·.id == x.id) x d.searches }

/-- GEODE_SEARCH_START (R285). -/
def execGeodeSearchStart (die : Nat) (s : State) : Out :=
  execEvent s fun s => do
    let x ← s.searchReady die
    some (s.setSearch die { x with left := some (searchTime (s.protoCount die x)) })

/-- A prototype of a table, as words of Slate (R283). -/
def State.proto (s : State) (die base idx : Nat) : List Word :=
  let at_ := 2 ^ 48 + die * 2 ^ 44 + (2 ^ 28 - (s.die die).gmib * 2 ^ 20) + 1024 * (base + idx)
  (List.range 128).map fun i => s.wordAt (at_ + 8 * i)

/-- Best and second-best candidates (R284). -/
def nearest (ds : List Nat) : (Nat × Nat) × (Nat × Nat) :=
  (ds.zipIdx).foldl (fun a p =>
    if p.1 < a.1.2 then ((p.2, p.1), a.1) else if p.1 < a.2.2 then (a.1, (p.2, p.1)) else a)
    ((2 ^ 32 - 1, 65535), (2 ^ 32 - 1, 65535))

/-- A search completes: its scalars are written together (R284). -/
def State.doneSearch (s : State) (die : Nat) (x : Search) : State :=
  let n := s.protoCount die x
  let base := ((s.die die).tables.getD x.table { owner := 0, base := 0, n := 0 }).base
  let r := nearest ((List.range n).map fun i => popHv (xorHv x.query (s.proto die base i)))
  let d := s.die die
  let s := s.setDie die { d with searches := dropIf (·.id == x.id) d.searches }
  match s.wave? x.wave with
  | none => s
  | some w =>
    let w := (w.sset x.d (wd r.1.1)).sset (x.d + 1) (wd r.1.2)
    s.setWave (if x.two then (w.sset (x.d + 2) (wd r.2.1)).sset (x.d + 3) (wd r.2.2) else w)

/-- The search of a Geode that has run its time. -/
def State.searchOver (s : State) (die : Nat) : Option Search :=
  (s.die die).searches.find? fun x => x.left == some 0 && !x.suspended

/-- GEODE_SEARCH_COMPLETE (R285). -/
def execGeodeSearchComplete (die : Nat) (s : State) : Out :=
  execEvent s fun s => do
    let x ← s.searchOver die
    some (s.doneSearch die x)

/-- A clk of work for the running searches; none in a slot (R285). -/
def Search.tick (x : Search) : Search := if x.suspended then x else { x with left := x.left.map (· - 1) }

/-! ACTLD -/

/-- Loads of the activation table that are over (R126). -/
def Core.actldOver (c : Core) (clk : Nat) : Core :=
  (c.actLoads.filter fun l => decide (l.due ≤ clk)).foldl (fun c l => { c with act := c.act.setBank l.bank l.data })
    { c with actLoads := c.actLoads.filter fun l => decide (clk < l.due) }

/-- ACTLD_COMPLETE (R126). -/
def execActldComplete (die core : Nat) (s : State) : Out :=
  execEvent s fun s =>
    let c := s.core (die * 40 + core)
    if c.actLoads.all fun l => decide (s.clk < l.due) then none else some (s.setCore (die * 40 + core) (c.actldOver s.clk))

/-! Errors (R199, R269, R286) -/

/-- An atomic that will not be performed leaves its outbox, home queue or rein queue. -/
def State.dropAtomic (s : State) (w : Wave) (id : Nat) : State :=
  { s.setWave { w with outbox := dropIf (fun e => e.seq == id) w.outbox } with
      hqs := dropIf (fun h => h.2.id == id) s.hqs,
      reins := dropIf (fun m => match m.kind with
        | .atomic a => a.id == id
        | _ => false) s.reins }

/-- A sector that a load, LDP or atomic is about to read becomes uncorrectable: the word writes no lane, and its wave holds the
fault (R199). The sector stays so until a store covers it whole. -/
def State.errLoad (s : State) (wave id lane at_ tier : Nat) : Option State := do
  let w ← s.wave? wave
  let l ← w.loads.find? (·.id == id)
  let s ← s.spoil? (s.coreOf w) l lane at_ tier
  let s : State := if l.atomic then s.dropAtomic w id else s
  let w ← s.wave? wave
  some (s.failLoad w l MEM_UNCORRECTABLE (memInfo l.code tier l.pc))

/-- The running head of a matrix queue reads uncorrectable data: an MMA writes nothing, an OBLD leaves its placement, an
MDRAIN keeps what it wrote, `n` elements of them since its last chunk (R269). -/
def State.errMatrix (s : State) (core n tier : Nat) : Option State := do
  let m ← (s.core core).matQ.head?
  if m.started.isNone || !(tier == 3 || tier == 5) then none
  let s := if n = 0 then s else (s.drainStep core m n).getD s
  some (if (s.core core).matQ.any (·.id == m.id) then s.failMat core m tier else s)

/-- Stage 0 brings up the rein lane of fabric port 0: the port carries rein traffic, and no girth lane yet. A RETIRED port stays
so until device reset (Table 19.3). -/
def State.portZero (s : State) : State :=
  if (s.link 32).st = 5 then s else s.setLink 32 { s.link 32 with st := 3, rlanes := 1, width := 0 }

/-- Minimal safe function (R368, R376): the device has FAILED. It answers on the management port and, where that is not RETIRED, on
the rein lane of port 0. -/
def State.toMinimal (s : State) : State := { s.portZero with stage := .minimal }

/-- UNCORRECTABLE_ERROR (R199, R269, R286). In a save frame it is recorded, and fatal while the context is ACTIVE or PREEMPTED
(R288); its record's %tinfo is a free value, since no rule states it (DESIGN CHOICE, assumption 106). -/
def execUncorrectableError (e : ErrRef) (tier : Nat) (s : State) : Out :=
  execEvent s fun s =>
    match e with
    | .load w id lane at_ => s.errLoad w id lane at_ tier
    | .matrix d c n => s.errMatrix (d * 40 + c) n tier
    | .saddle => if s.stage == .off || s.stage == .minimal then none else some s.toMinimal
    | .search die => do
      let x ← (s.die die).searches.find? (·.left.isSome)
      if tier != 1 then none
      let d := s.die die
      let s := s.setDie die { d with searches := dropIf (·.id == x.id) d.searches }
      some (s.defer x.wave { code := MEM_UNCORRECTABLE, info := memInfo 31 tier x.pc, pc := x.pc })
    | .frame ctx => do
      let c := s.ctx ctx
      if c.saveUsed = 0 || tier != 0 || !(c.st == .active || c.st == .preempted || c.st == .faulted || c.st == .killing) then none
      let r : FRec := { clk := s.clk, pc := 0, info := Config.frameInfo s.freeCtr, kid := 0, code := MEM_UNCORRECTABLE, source := 2,
                        wave := 65535 }
      some (({ s with freeCtr := s.freeCtr + 1 } : State).record ctx r |>.fatal ctx)

/-- CORRECTABLE_ERROR (R199): it is counted for health. -/
def execCorrectableError (die : Nat) (s : State) : Out :=
  execEvent s fun s =>
    let d := s.die die
    some (s.setDie die { d with corrected := d.corrected + 1 })

end Sys2Proof.Machine
end

