-- ==== Sys2Proof/Machine/Pages.lean ====
section
/-! DEFINITION. Parking, replay, shoot-down (R327 to R331) and range registers (R289). -/

namespace Sys2Proof.Machine

open Sys2Proof

/-! Unmapped accesses -/

/-- Why an IA is unmapped: reason and level of Table 18.4; none when it is mapped. -/
def State.unmappedAt (s : State) (ia : Nat) : Option (Nat × Nat) :=
  match (s.keyOf ia).2 with
  | .inl _ => none
  | .inr x => some x

/-- A byte of a home that an access through a grant needs. -/
def State.homeByte (s : State) (t : Tgt) (ia : Nat) : Bool :=
  match t with
  | .sp _ => false
  | .grant _ => !isSp (s.loc t ia) && (s.readTgt t ia).2.isNone

/-- The capacity of a queue's ring (Table 15.1). -/
def Queue.cap (q : Queue) : Nat := 2 ^ (q.capl + 6)

/-- The IA of a queue's head (R300). -/
def Queue.headIa (q : Queue) : Nat := q.ring + 64 * (q.consumed % q.cap)

/-- An operand of an entry: bytes `at_` to `at_ + n - 1`, little-endian. -/
def operand (e : List Byte) (at_ n : Nat) : Nat := leNat ((e.drop at_).take n)

/-- An address of a command: the IA of `len` bytes that one range register of the context covers with a permission
bit (R289, R303). -/
def State.commandIa? (s : State) (ctx va len perm : Nat) : Option Nat :=
  ((s.ctx ctx).map? va len).bind fun m => if m.w0.getLsbD perm then some (m.ia va) else none

/-- Home bytes that a queue reads: its doorbell, its head, the head's launch record, the sources of commands in flight. -/
def State.commandReads (s : State) (q : Queue) : List (Nat × Nat) :=
  let entry := (s.hRead q.headIa 64).2.getD []
  let record := if operand entry 0 1 = 1 then (s.commandIa? q.owner (operand entry 8 8) 128 0).map fun a => (a, 128) else none
  (if q.st = 4 || q.st = 5 || q.dbell = 0 then [] else [(q.dbell, 8)]) ++
  (if q.st = 1 || q.st = 3 then (q.headIa, 64) :: record.toList else []) ++ q.inflight.filterMap fun c => match c.2 with
    | .slatew src _ len => some (src, len)
    | .geodew src _ _ n => some (src, 1024 * n)
    | _ => none

/-- The next chunk of an operation reads a byte from its home, or writes it there (O6, R196). -/
def State.chunkNeeds (s : State) (g : Group) (o : CopyOp) (ia : Nat) : Bool :=
  (List.range (s.chunkLen g o)).any fun i =>
    ((s.srcOff g o (o.pos + i)).any fun a =>
      let p := s.endPlace g o.src o.srcAt a
      p.2 == ia && match o.kind, o.src with
        | .fill, .grant gid => (s.fillByte gid a).2.isNone
        | _, _ => s.homeByte p.1 ia) ||
    ((s.dstOff g o (o.pos + i)).any fun a => (s.sentCopy? g.die o).any fun d => d.home == g.die && d.ia + a == ia)

/-- An access in flight needs a byte that a home holds. -/
def State.needsByte (s : State) (r : AccRef) (ia : Nat) : Bool :=
  match r with
  | .load w id => match s.wave? w with
    | some v => v.loads.any fun l => l.id == id && !l.atomic && s.homeByte l.tgt ia &&
        l.lanes.any fun x => x.got.isNone && decide (x.addr ≤ ia) && decide (ia < x.addr + l.size)
    | none => false
  | .store w seq => match s.wave? w with
    | some v => match v.outbox.head? with
      | some e => e.seq == seq && (match e.kind with
        | .atomic _ t ls _ => s.homeByte e.tgt ia && ls.any fun l => decide (l.addr ≤ ia) && decide (ia < l.addr + itypeBytes t)
        | .remote a _ _ => a / 256 == ia / 256
        | _ => false)
      | none => false
    | none => false
  | .atomic id => s.hqs.any fun h => h.2.id == id && h.2.lanes.any fun l =>
      decide (l.addr ≤ ia) && decide (ia < l.addr + itypeBytes h.2.t)
  | .packet id => s.packets.any fun p => p.id == id && !p.arrived && p.cells.any fun c => c.1 == ia
  | .ret gid => match s.grant? gid with
    | some g => g.st == .returning && !g.returned && g.parent.isNone && g.gs.any fun c => c.1 == ia
    | none => false
  | .chunk op => match s.op? op with
    | some o => o.started && decide (o.pos < o.len) && (s.group? o.group).any fun g => s.chunkNeeds g o ia
    | none => false
  | .flag id => s.flags.any fun f => f.id == id && decide (f.ia ≤ ia) && decide (ia < f.ia + 8)
  | .fetch w => match s.wave? w with
    | some v => match v.parts with
      | p :: _ => (s.fetchIa? (s.ctxOf v) p.pc.toNat).any fun x => x / 64 == ia / 64
      | [] => false
    | none => false
  | .inbound _ => false
  | .command q => (s.commandReads (s.queue q)).any fun r => decide (r.1 ≤ ia) && decide (ia < r.1 + r.2)

/-- Context, kernel, issuing word and wave index that a PAGE_UNMAPPED record of an access names (R327); none for an access
from a fabric endpoint. -/
def State.accOwner (s : State) (r : AccRef) : Option (Nat × BitVec 32 × Word × Nat) :=
  let ofWave (u : Nat) (pc : Word) : Option (Nat × BitVec 32 × Word × Nat) := do
    let w ← s.wave? u
    let k ← s.kernelOf? w
    some (k.ctx, k.kid, pc, w.index)
  match r with
  | .load w id => ofWave w (((s.wave? w).bind fun v => (v.loads.find? (·.id == id)).map (·.pc)).getD 0)
  | .store w _ => ofWave w (((s.wave? w).bind fun v => v.outbox.head?.map (·.pc)).getD 0)
  | .atomic id => (s.hqs.find? (·.2.id == id)).bind fun h => ofWave h.2.wave h.2.pc
  | .packet id => (s.packets.find? (·.id == id)).bind fun p => ofWave p.wave (match p.kind with
    | .write => p.pc
    | _ => 0)
  | .ret gid => (s.grant? gid).map fun g => (g.ctx, (((s.groupOf g.reg).bind s.group?).bind fun x => (s.kernel? x.kernel).map (·.kid)).getD 0, 0, 65535)
  | .chunk op => (s.op? op).bind fun o => ofWave o.wave 0
  | .flag id => (s.flags.find? (·.id == id)).bind fun f => ofWave f.wave 0
  | .fetch w => ofWave w (((s.wave? w).bind fun v => v.parts.head?.map (·.pc)).getD 0)
  | .command q => some ((s.queue q).owner, 0, 0, 65535)
  | .inbound _ => none

/-! Parking -/

/-- The first park of a page by a context since the last replay writes its record (R327). -/
def State.recordPark (s : State) (die : Nat) (r : AccRef) (ia reason level : Nat) : State :=
  match s.accOwner r with
  | none => s
  | some (ctx, kid, pc, wave) =>
    let d := s.die die
    let page := (ctx, ia / 2 ^ 14)
    if d.recorded.contains page then s
    else
      (s.setDie die { d with recorded := d.recorded ++ [page] }).record ctx
        { clk := s.clk, pc := pc, info := wd (reason + 16 * level + 4096 * ia), kid := kid, code := PAGE_UNMAPPED, source := 2,
          wave := wave }

/-- An unmapped access parks, or is bounced when all 4,096 places are taken (R327). -/
def State.parkAt (s : State) (die : Nat) (p : Parked) (reason level : Nat) : State :=
  let d := s.die die
  if d.parked.length < 4096 then (s.setDie die { d with parked := d.parked ++ [p] }).recordPark die p.ref p.ia reason level
  else s.setDie die { d with bouncedAcc := d.bouncedAcc ++ [(p, s.clk)], bounced := d.bounced + 1 }

/-- A replay has walked a line of an access with success, and the line proceeds (R329). -/
def State.lineWalked (s : State) (r : AccRef) (ia : Nat) : Bool :=
  s.dies.any fun d => (d.pins r).any fun x => x.page == ia % 2 ^ 44 / 2 ^ 14

/-- PARK (R327): a line request of an access meets an unmapped page. -/
def execPark (r : AccRef) (ia : Nat) (s : State) : Out :=
  execEvent s fun s => do
    if s.lineParked r ia || s.lineWalked r ia || !s.needsByte r ia then none
    let (reason, level) ← s.unmappedAt ia
    some (s.parkAt (iaDie ia % 8) { ref := r, ia := ia, ctx := (s.accOwner r).map (·.1), since := s.clk } reason level)

/-- The four words of an inbound window, as fields: V, ENDPOINT, WIN, permissions, first offset, first IA, bytes. -/
structure Window where
  v : Bool
  ep : Nat
  win : Nat
  perm : Nat
  off_ : Nat
  ia : Nat
  len : Nat
deriving DecidableEq, Repr

/-- A window of four words (Table 19.7). -/
def windowOf (w0 w1 w2 w3 : Word) : Window :=
  { v := w0.getLsbD 3, ep := fld w0 32 14, win := fld w0 4 3, perm := fld w0 0 3, off_ := fld w1 12 22 * 4096,
    ia := fld w2 12 40 * 4096, len := fld w3 0 23 * 4096 }

/-- Window `n`. -/
def State.window (s : State) (n : Nat) : Window :=
  let w (i : Nat) : Word := wget s.windows (4 * n + i)
  windowOf (w 0) (w 1) (w 2) (w 3)

/-- The bytes that an endpoint's access writes, by IA (R344, Table 19.5a). -/
def Inbound.cells (x : Inbound) : Store :=
  match x.acc with
  | .write _ bytes _ => bytes.zipIdx.map fun b => (x.ia + b.2, b.1)
  | .ret _ _ _ bytes => bytes.map fun b => (x.ia + b.1, b.2)
  | _ => []

/-- The first bytes of an endpoint's access in the 256 B lines that it reads or writes. -/
def Inbound.lines (x : Inbound) : List Nat :=
  let firsts (l : List Nat) : List Nat := l.foldl (fun r a => if r.any (· / 256 == a / 256) then r else r ++ [a]) []
  match x.acc with
  | .load _ len => (List.range (len / 256 + 2)).filterMap fun i =>
      let a := max x.ia (x.ia / 256 * 256 + 256 * i)
      if a < x.ia + len then some a else none
  | _ => firsts (x.cells.map (·.1))

/-- The bytes of one line that an endpoint's access writes. -/
def State.inboundLine (s : State) (x : Inbound) (ia : Nat) : State :=
  (s.hWrite (x.cells.filter fun c => c.1 / 256 == ia / 256)).1

/-- What an endpoint's access does once all its lines have acted: a write's flag, a return's entry (R344). -/
def State.inboundEnd (s : State) (x : Inbound) (flag : Option Nat) : State :=
  match x.acc, flag with
  | .write _ _ _, some fa =>
    let (s, id) := s.fresh
    { s with flags := s.flags ++ [{ id := id, home := homeOf fa, ia := fa, wave := 0, copy := true }] }
  | .ret _ len kind _, _ => s.epReturn (homeOf x.ia) x.ep x.ia len kind
  | _, _ => s

/-- The device's IA of an access of `len` bytes at an offset of an endpoint's window, by the lowest-numbered inbound window
that hits, if that holds the whole access and gives the permissions of a mask (R345: R 1, W 2, AT 4). -/
def State.inboundIa? (s : State) (ep win off_ len perm : Nat) : Option Nat :=
  let hit := (List.range 256).findSome? fun n =>
    let w := s.window n
    if w.v && w.ep == ep && w.win == win && decide (w.off_ ≤ off_) && decide (off_ < w.off_ + w.len) then some w else none
  hit.bind fun w =>
    if off_ + len ≤ w.off_ + w.len && Nat.land w.perm perm == perm then some (w.ia + (off_ - w.off_)) else none

/-- A walk for a parked access: installed runs and conflicts stand where it succeeds (R326, R329). -/
def State.walk (s : State) (ia : Nat) : State × Option (Nat × Nat) :=
  match s.keyOf ia with
  | (t, .inl _) => (t, none)
  | (t, .inr x) => (t, some x)

/-- A parked line that is mapped now proceeds (R329): an endpoint's acts at once, with the end of the access where no other line of
it is parked; any other acts in its own event, at the page that has been found. -/
def State.wake (s : State) (r : AccRef) (ia : Nat) : State :=
  match r with
  | .inbound id =>
    match s.inbound.find? (·.id == id) with
    | none => s
    | some x =>
      let s := s.inboundLine x ia
      if s.isParked r then s
      else
        let flag : Option Nat := match x.acc with
          | .write _ _ (some f) => s.inboundIa? x.ep x.win f 8 2
          | _ => none
        let s := s.inboundEnd x flag
        { s with inbound := dropIf (·.id == id) s.inbound }
  | _ =>
    let die := iaDie ia % 8
    match s.keyOf ia with
    | (_, .inl k) => if iaSpace ia != 0 then s else
      let d := s.die die
      s.setDie die { d with walked := d.walked ++ [({ ref := r, ia := ia, ctx := none, since := s.clk }, k % 2 ^ 48 / 2 ^ 14)] }
    | _ => s

/-- BOUNCE_RESEND (R327): a bounced request is sent again after 3,000 clk; it proceeds, parks, or is bounced again. -/
def execBounceResend (r : AccRef) (ia : Nat) (s : State) : Out :=
  execEvent s fun s => do
    let die := iaDie ia % 8
    let d := s.die die
    let b ← d.bouncedAcc.find? fun b => b.1.ref == r && b.1.ia == ia
    if s.clk < b.2 + 3000 then none
    let s := s.setDie die { d with bouncedAcc := dropIf (· == b) d.bouncedAcc }
    match s.walk ia with
    | (s, none) => some (s.wake r ia)
    | (s, some (reason, level)) => some (s.parkAt die { b.1 with since := s.clk } reason level)

/-! Replay (R329) -/

/-- Accesses of a die walked again, in the order in which they parked. -/
def State.rewalk (s : State) (die : Nat) : List Parked → State
  | [] => s
  | p :: r =>
    let d := s.die die
    let s := s.setDie die { d with parked := dropIf (· == p) d.parked }
    match s.walk p.ia with
    | (s, none) => (s.wake p.ref p.ia).rewalk die r
    | (s, some (reason, level)) =>
      let d := s.die die
      ((s.setDie die { d with parked := d.parked ++ [p] }).recordPark die p.ref p.ia reason level).rewalk die r

/-- A replay of one die. A wave that is swapped out may be restored once none of its accesses is parked (R320). -/
def State.replayDie (s : State) (die : Nat) : State :=
  let d := s.die die
  let s := (s.setDie die { d with recorded := [] }).rewalk die d.parked
  { s with waves := s.waves.map fun w =>
      if w.st == .swapped && w.eligible.isNone && s.accessesOver w then { w with eligible := some s.clk } else w }

/-- A replay of the dies of a mask. -/
def State.replayMask (s : State) (mask : Nat) : State :=
  ((List.range 8).filter mask.testBit).foldl (fun s d => s.replayDie d) s

/-- JXREPLAY: a write to the CSR jxreplay (R329, Table 21.4). -/
def execJxreplay (mask : BitVec 8) (s : State) : Out := execEvent s fun s => some (s.replayMask mask.toNat)

/-! Shoot-down (R330) -/

/-- XINV: cached runs that overlap a range are dropped, and BUSY stands until SHOOT_DOWN_DONE (R330). -/
def execXinv (die : Nat) (w : Word) (s : State) : Out :=
  execEvent s fun s =>
    let d := s.die die
    let n := 2 ^ fld w 60 4
    let page := fld w 14 30
    let gone : Run := { page := page - page % n, size := n, pfn := 0 }
    let runs := if w.getLsbD 0 then [] else dropIf (fun r => runsMeet r gone) d.runs
    some (s.setDie die { d with runs := runs, busy := true })

/-- A line that a replay has walked has still to act. -/
def State.stillOpen (s : State) (r : AccRef) (ia : Nat) : Bool :=
  match r with
  | .load w id => (s.wave? w).any fun v => v.loads.any fun l => l.id == id && !l.atomic &&
      l.lanes.any fun x => x.got.isNone && decide (x.addr ≤ ia) && decide (ia < x.addr + l.size)
  | .store w seq => (s.wave? w).any fun v => v.outbox.head?.any (·.seq == seq)
  | .chunk op => (s.op? op).any fun o => o.started && decide (o.pos < o.len)
  | .fetch w => (s.wave? w).any fun v => v.parts.head?.any fun p =>
      s.fetch (s.coreOf v) (s.ctxOf v) p.pc.toNat == .miss (ia / 64)
  | _ => s.needsByte r ia

/-- SHOOT_DOWN_DONE (R330): every access that used a dropped run has completed, one that a replay had walked before among them. -/
def execShootDownDone (die : Nat) (s : State) : Out :=
  execEvent s fun s =>
    let d := s.die die
    let live := d.walked.filter fun x => s.stillOpen x.1.ref x.1.ia
    if d.busy && live.isEmpty then some (s.setDie die { d with busy := false, walked := [] }) else none

/-! Range registers (R289) -/

/-- The three words of a range register; its reserved bits read zero (Table 14.3). -/
def mapOf (w0 w1 w2 : Word) : Map :=
  { w0 := w0 &&& 0x00FFFFFFFFFFC00F, w1 := w1 &&& 0x000FFFFFFFFFC000, w2 := w2 &&& 0x000003FFFFFFFFFF }

/-- A range register that the saddle tree does not refuse (R289). -/
def Map.ok (m : Map) : Bool :=
  let vb := fld m.w0 14 42
  let ib := fld m.w1 14 38
  let len := fld m.w2 0 42
  let last := ib + len - 1
  let space := ib / 2 ^ 34
  let home (p : Nat) : Nat := if 8 ≤ space then p / 2 ^ 20 else p / 2 ^ 30
  !(decide (3 ≤ space) && decide (space ≤ 7)) && (len == 0 || (last / 2 ^ 34 == space && home last == home ib)) &&
    !(m.w0.getLsbD 3 && len == 0) && decide (vb + len ≤ 2 ^ 42) && decide (ib + len ≤ 2 ^ 38)

/-- RANGE_REGISTER_SET (R289): refused when the range is malformed; a refusal during set-up refuses the context, which is FREE
again (R288). A FREE context has no registers. -/
def execRangeRegisterSet (ctx n : Nat) (w0 w1 w2 : Word) (s : State) : Out :=
  execEvent s fun s =>
    let c := s.ctx ctx
    let m := mapOf w0 w1 w2
    if c.st == .free then none
    else if m.ok then some (s.setCtx ctx { c with maps := c.maps.set n m })
    else if c.st == .creating then some (s.setCtx ctx Ctx.reset)
    else none

end Sys2Proof.Machine
end

