-- ==== Sys2Proof/Machine/Groups.lean ====
section
/-! DEFINITION. The states of kernels (R309 to R314), placement (R316 to R318), the EXITING drain (R322), completion
(O13, R215) and pending flags (O11). -/

namespace Sys2Proof.Machine

open Sys2Proof

/-! Kernels -/

/-- A kernel enters LAUNCHING (R309); `order` is the clk, ties go to the LAUNCH that started first (R317). -/
def State.toLaunching (s : State) (k : Kernel) : State := s.setKernel { k with st := .launching, order := s.clk }

/-- What becomes of a kernel that waits for its producer (Table 16.2). -/
def State.settleKernel (s : State) (k : Kernel) : State :=
  match k.producer.bind s.kernel? with
  | none => s.toLaunching k
  | some p =>
    match p.st with
    | .complete => s.toLaunching k
    | .faulted => s.faultKernel k.uid
    | .running | .draining => if k.early then s.toLaunching k else s
    | _ => s

/-- Every kernel in WAITING_DEP looks at its producer, oldest first. -/
def State.settleKernels (s : State) : State :=
  s.kernels.foldl (fun s k => match s.kernel? k.uid with
    | some k => if k.st == .waitingDep then s.settleKernel k else s
    | none => s) s

/-- Footprint in cores (Table 16.1). -/
def Kernel.cores (k : Kernel) : Nat := 2 ^ k.fp

/-! Placement -/

/-- The groups that hold resources on a core of a die. -/
def State.groupsOn (s : State) (die core : Nat) : List Group :=
  s.groups.filter fun g => g.die == die && g.cores.contains core && (g.st == .placed || g.st == .running || g.st == .exiting)

/-- RESIDENT and SLEEPING waves of a core. -/
def State.residents (s : State) (die core : Nat) : Nat :=
  (s.waves.filter fun w => (w.st == .resident || w.st == .sleeping) && w.core == core && s.dieOf w == die).length

/-- The base of a share of `len` bytes on a core: the lowest multiple of 256 at which it fits among the others (R176). -/
def State.shareBase? (s : State) (die core len : Nat) : Option Nat :=
  let held := (s.groupsOn die core).map fun g =>
    let r := (g.cores.takeWhile (· != core)).length
    (g.bases.getD r 0, shareLen (((s.kernel? g.kernel).map (·.scr)).getD 0) g.cores.length)
  let starts := 0 :: held.map fun h => h.1 + h.2
  let ok := starts.filter fun b => decide (b + len ≤ 2 ^ 20) && held.all fun h => !meets h (b, len)
  ok.foldl (fun m b => some (min b (m.getD b))) none

/-- Launch waves of a group on a quad of its core of rank `r` (R316). -/
def launchCount (wpg f r quad : Nat) : Nat := ((List.range wpg).filter fun w => w % f == r && w / f % 4 == quad).length

/-- The slots that swapped waves and, after them, waiting bins are to have, before placement (R320). -/
def State.binClaims (s : State) : List Spot :=
  (s.bins.filter (·.waiting)).foldl (fun l b => match s.group? b.group with
    | none => l
    | some g =>
      let win := ((s.kernel? g.kernel).map (·.win)).getD 1
      if g.st != .running then l
      else match ((b.core :: g.cores).flatMap fun c => (List.range 4).map fun q => (g.die * 40 + c, q)).find? fun p =>
          decide (0 < s.roomBut l p.1 p.2 win) with
        | some p => l ++ [{ uid := b.uid, core := p.1, quad := p.2, win := win }]
        | none => l) s.claims

/-- Cores of a die take a group of a kernel (R317): no other context is there, and its share fits. -/
def State.coresFit (s : State) (k : Kernel) (die : Nat) (cores : List Nat) : Bool :=
  cores.all fun c =>
    ((s.groupsOn die c).all fun g => ((s.kernel? g.kernel).map (·.ctx)) == some k.ctx) &&
    (s.shareBase? die c (shareLen k.scr cores.length)).isSome

/-- A group of a kernel fits on cores of a die (R317): its launch waves have room on the quads that R316 names. -/
def State.fitsOn (s : State) (k : Kernel) (die : Nat) (cores : List Nat) : Bool :=
  let l := s.binClaims
  s.coresFit k die cores && cores.zipIdx.all fun c => (List.range 4).all fun q =>
    let n := launchCount k.wpg k.cores c.2 q
    n == 0 || decide (n ≤ s.roomBut l (die * 40 + c.1) q k.win)

/-- The positions of a footprint within a cluster (R25). -/
def positions (f : Nat) : List (List Nat) :=
  match f with
  | 1 => [[0], [1], [2], [3]]
  | 2 => [[0, 1], [2, 3]]
  | _ => [[0, 1, 2, 3]]

/-- A die on which groups are placed: bound, in service. -/
def State.placeable (s : State) (die : Nat) : Bool := !s.dieGone die && (s.die die).resetting == .none

/-- Bound virtual dies with their physical dies, ascending. -/
def State.boundDies (s : State) (ctx : Nat) : List (Nat × Nat) :=
  (List.range 8).filterMap fun v => (physDie? (s.ctx ctx).vdies v).map fun d => (v, d)

/-- The units of a kernel: virtual die, die, cores (R318). -/
def State.units (s : State) (k : Kernel) : List (Nat × Nat × List Nat) :=
  (s.boundDies k.ctx).flatMap fun d => (List.range 10).flatMap fun cl => (positions k.cores).map fun p =>
    (d.1, d.2, p.map (· + 4 * cl))

/-- The first element of least key. -/
def leastBy {α : Type} (key : α → Nat) : List α → Option α
  | [] => none
  | a :: r => match leastBy key r with
    | none => some a
    | some b => if key b < key a then some b else some a

/-- Where a group goes (R317, R318) among the places that a test accepts: its own unit in determinism mode; else the
cluster with the fewest resident waves, and in it the position with the fewest. -/
def State.choosePlace (s : State) (k : Kernel) (grp : Nat) (fits : Nat → List Nat → Bool) : Option (Nat × Nat × List Nat) :=
  let us := s.units k
  let ok (u : Nat × Nat × List Nat) : Bool := s.placeable u.2.1 && fits u.2.1 u.2.2
  if k.det then (us[grp % max us.length 1]?).bind fun u => if ok u then some u else none
  else
    let clusterOf (u : Nat × Nat × List Nat) : Nat := u.2.2.headD 0 / 4
    let load (u : Nat × Nat × List Nat) : Nat := ((List.range 4).map fun c => s.residents u.2.1 (4 * clusterOf u + c)).sum
    let fit := us.filter ok
    (leastBy load fit).bind fun b =>
      leastBy (fun u => (u.2.2.map (s.residents u.2.1)).sum) (fit.filter fun u => u.1 == b.1 && clusterOf u == clusterOf b)

/-- A core taken by a context: the table of the context before is saved, and the one that the new context saved from this
core is restored; a core from which it saved none starts with +0 (R124; assumption 96). -/
def State.takeCore (s : State) (core ctx : Nat) : State :=
  let c := s.core core
  if c.actCtx == some ctx then s
  else
    let done := c.actldOver (c.actLoads.foldl (fun m l => max m l.due) 0)
    let s : State := match c.actCtx with
      | some o => s.setCtx o { s.ctx o with acts := (dropIf (·.1 == core) (s.ctx o).acts) ++ [(core, done.act)] }
      | none => s
    let t := (((s.ctx ctx).acts.find? (·.1 == core)).map (·.2)).getD ActTable.zero
    s.setCore core { done with actCtx := some ctx, act := t }

/-- A share bound on a core: its bytes are undefined and its full-empty bits empty (R176, R177). -/
def State.bindShare (s : State) (die core base len : Nat) : State :=
  let k := coreKey die core base
  { s with mem := sdels s.mem k len, full := dropIf (fun g => decide (k / 16 ≤ g) && decide (g < (k + len) / 16)) s.full }

/-- The launch waves of a group from index `i` on (R308, R316). -/
def State.launchWaves (s : State) (g : Group) (k : Kernel) (i : Nat) : Nat → State
  | 0 => s
  | n + 1 =>
    let f := max g.cores.length 1
    let core := g.cores.getD (i % f) 0
    let quad := i / f % 4
    let slot := s.freeSlot (g.die * 40 + core) quad
    let (s, uid) := s.fresh
    let sregs : Words := (k.args.zipIdx).foldl (fun m a => wset m (a.2 + 1) a.1) []
    let w := Wave.launch uid core quad slot i s.clk g k k.entry (BitVec.allOnes 32) [] sregs
    ({ s with waves := s.waves ++ [w] } : State).launchWaves g k (i + 1) n

/-- The last group of a kernel is placed: RUNNING (R309). Its early consumers may then leave WAITING_DEP (R312). -/
def State.allPlaced (s : State) (ku : Nat) : State :=
  match s.kernel? ku with
  | none => s
  | some k =>
    if k.st == .launching && k.placed = k.ngrp then
      (s.setKernel { k with st := if k.done = k.ngrp then .draining else .running }).settleKernels
    else s

/-- A group placed: its resources bound, its launch waves started (R315). -/
def State.placeGroup (s : State) (k : Kernel) (v die : Nat) (cores : List Nat) : State :=
  let len := shareLen k.scr cores.length
  let bases := cores.map fun c => (s.shareBase? die c len).getD 0
  let s := (cores.zip bases).foldl (fun s c => (s.bindShare die c.1 c.2 len).takeCore (die * 40 + c.1) k.ctx) s
  let (s, uid) := s.fresh
  let g : Group := { uid := uid, kernel := k.uid, grp := k.placed, st := .running, vdie := v, die := die,
                     unit_ := k.placed % max (s.units k).length 1, cores := cores, bases := bases, nextIdx := k.wpg,
                     bars := [], chans := [], cvs := [], laces := [], ress := [], salt := s.freeCtr, frame := [],
                     frameFull := [], frameOb := [], frameSmp := none }
  let s : State := { s with groups := s.groups ++ [g], freeCtr := s.freeCtr + 1 }
  let s := s.launchWaves g k 0 k.wpg
  let s := s.setKernel { k with placed := k.placed + 1, dies := if k.dies.contains die then k.dies else k.dies ++ [die] }
  s.allPlaced k.uid

/-- Kernels in LAUNCHING in the order in which the scheduler serves them (R317). -/
def State.launchOrder (s : State) : List Kernel :=
  let before (a b : Kernel) : Bool :=
    let pa := (s.queue a.queue).prio
    let pb := (s.queue b.queue).prio
    decide (pb < pa) || (pa == pb && (decide (a.order < b.order) || (a.order == b.order && decide (a.uid < b.uid))))
  (s.kernels.filter fun k => k.st == .launching && decide (k.placed < k.ngrp) && (s.ctx k.ctx).st == .active &&
    !(s.ctx k.ctx).preempting).foldl (fun l k => l.takeWhile (fun x => before x k) ++ [k] ++ l.dropWhile fun x => before x k) []

/-- PLACEMENT (R317): the next group of the first kernel whose next group fits. -/
def execPlacement (s : State) : Out :=
  execEvent s fun s => do
    let (k, u) ← s.launchOrder.findSome? fun k =>
      (s.choosePlace k k.placed (s.fitsOn k)).map fun u => (k, u)
    some (s.placeGroup k u.1 u.2.1 u.2.2)

/-! The EXITING drain (R322) -/

/-- Engine, unit and Geode work of a group is over. -/
def State.workOver (s : State) (gu : Nat) : Bool :=
  let mine (u : Nat) : Bool := (s.wave? u).any (·.group == gu)
  (s.ops.all (·.group != gu)) && (s.cores.all fun c => (c.matQ.all (·.group != gu)) && c.unitQ.all fun u => !mine u.wave) &&
    s.dies.all fun d => d.searches.all fun x => !mine x.wave

/-- The waits of the EXITING drain are over. -/
def State.drainOver (s : State) (g : Group) : Bool :=
  g.st == .exiting && (s.waves.all fun w => w.group != g.uid || w.loads.isEmpty) && s.workOver g.uid &&
    s.grants.all fun r => !s.ownedBy g.uid r.reg

/-- An ended wave gives up its slot, its window, and stores to the scratchpad that is freed. -/
def Wave.giveUp (w : Wave) (gu : Nat) : Wave :=
  if w.group == gu then { w with slotHeld := false, win := [], outbox := dropIf (fun e => e.tgt == .sp gu) w.outbox } else w

/-- GROUP_DRAIN_COMPLETE (R322): the group's resources are released in order, and it is DONE. -/
def execGroupDrainComplete (group : Nat) (s : State) : Out :=
  execEvent s fun s => do
    let g ← s.group? group
    if !s.drainOver g then none
    let off_ (c : Core) : Core := if c.sampler.owner == some group then { c with sampler := Sampler.reset } else c
    let s : State := { s with waves := s.waves.map fun w => w.giveUp group, cores := s.cores.map off_,
                              regFaults := dropIf (fun f => s.ownedBy group f.1) s.regFaults }
    let s := s.setGroup { g with st := .done, bars := [], chans := [], cvs := [], laces := [], ress := [] }
    some (s.groupDone g.kernel)

/-! Completion (O13) -/

/-- A wave belongs to a kernel. -/
def State.waveOf (s : State) (ku u : Nat) : Bool := ((s.wave? u).bind fun w => s.group? w.group).any fun g => g.kernel == ku

/-- What a kernel has caused has been performed or acknowledged, and its flags counted (R215). -/
def State.kernelQuiet (s : State) (k : Kernel) : Bool :=
  let mine (u : Nat) : Bool := s.waveOf k.uid u
  (s.groups.all fun g => g.kernel != k.uid || g.st == .done) &&
  (s.waves.all fun w => !mine w.uid || w.outbox.isEmpty) && (s.ops.all fun o => !mine o.wave) &&
  (s.hqs.all fun h => !mine h.2.wave) && (s.packets.all fun p => !mine p.wave) &&
  (s.reins.all fun m => !mine m.wave && match m.kind with
    | .atomic a => !mine a.wave
    | _ => true) && s.flags.all fun f => !mine f.wave

/-- No residue of a context is left on the dies that a kernel ran on (R161). -/
def State.residuesOver (s : State) (k : Kernel) : Bool :=
  s.dies.all fun d => d.entries.all fun e => !(e.kind == .residue && e.ctx == k.ctx && k.dies.contains e.die)

/-- The dies that a kernel ran on report that nothing of it is left, as rein messages to the saddle die (R207). A die that is
cut off or retired reports nothing. -/
def State.sendReports (s : State) (k : Kernel) : State :=
  let ds := k.dies.filter fun d => !s.dieGone d
  ds.foldl (fun s d => s.sendRein d saddle 0 (.complete k.uid)) (s.setKernel { k with reports := some ds })

/-- Kernels that are over send their reports. -/
def State.settleReports (s : State) : State :=
  s.kernels.foldl (fun s k => match s.kernel? k.uid with
    | some k => if k.st == .draining && k.reports.isNone && s.kernelQuiet k && s.residuesOver k then s.sendReports k else s
    | none => s) s

/-- COMPLETION (O13, R314): the kernel is COMPLETE, its LAUNCH completes, and consumers that wait for it may launch. -/
def execCompletion (kernel : Nat) (s : State) : Out :=
  execEvent s fun s => do
    let k ← s.kernel? kernel
    if k.st != .draining || k.reports != some [] || !s.kernelQuiet k || !s.residuesOver k then none
    let s := (s.setKernel { k with st := .complete }).launchGone k
    let s : State := { s with waves := dropIf (fun w => s.waveOf kernel w.uid) s.waves,
                              groups := dropIf (fun g => g.kernel == kernel) s.groups }
    some s.settleKernels

/-! Flags (O11) -/

/-- FLAG (O11): a pending flag's counter rises by one. A flag whose page is unmapped waits, and one in memory that a slot
pauses (R350). -/
def execFlag (id : Nat) (s : State) : Out :=
  execEvent s fun s => s.pinning (.flag id) fun s => do
    let f ← s.flags.find? (·.id == id)
    if s.isParked (.flag id) || (s.inSlot && memoryHome f.ia) then none
    match s.hRead f.ia 8 with
    | (_, none) => none
    | (s, some bs) =>
      match s.hWrite ((leBytes 8 ((leNat bs + 1) % 2 ^ 64)).zipIdx.map fun b => (f.ia + b.2, b.1)) with
      | (_, false) => none
      | (s, true) => some { s with flags := dropIf (·.id == id) s.flags }

end Sys2Proof.Machine
end

