-- ==== Sys2Proof/Machine/Queues.lean ====
section
/-! DEFINITION. Queues and their commands (R299 to R305), the launch record (R306, R307), the dispatcher (R302). -/

namespace Sys2Proof.Machine

open Sys2Proof

/-! Evaluation (R300, R301) -/

/-- Reach of a compute die from the saddle die: a die in reset, or whose links train, is waited for (R304, R338). -/
def State.saddleReach (s : State) (d : Nat) : Reach :=
  let x := s.die d
  if x.retired then .fail 2
  else if x.inReset || x.resetting != .none then .waits
  else if s.saddleJoin false d then .ok
  else if s.saddleJoin true d then .waits
  else .fail 1

/-- Whether bytes of a home reach the saddle die; in a slot, memory and the girth planes pause (R350). -/
def State.sourceReach (s : State) (ia : Nat) : Bool :=
  !s.inSlot && if 8 ≤ homeOf ia then s.girthReach saddle (homeOf ia) == .ok else s.saddleReach (homeOf ia) == .ok

/-- A context's fault records go to its ring in device memory, over a route from the saddle die (R15, R294) and not in a slot (R350).
Records for a ring that no route leads to are dropped and counted (DEDUCED, assumption 123). -/
def State.landRecord (s : State) (ctx : Nat) : State :=
  let c := s.ctx ctx
  if s.inSlot || c.faults.length ≤ c.landed then s
  else match s.saddleReach c.ringDie with
    | .waits => s
    | .fail _ => s.setCtx ctx { c with faults := c.faults.take c.landed,
                                       dropped := (c.dropped + (c.faults.length - c.landed)) % 2 ^ 32 }
    | .ok =>
      ((c.faults.zipIdx.drop c.landed).foldl (fun s r => s.putBytes (c.recordKey r.2) r.1.bytes) s).setCtx ctx
        { c with landed := c.faults.length }

@[inherit_doc State.landRecord] def State.landRecords (s : State) : State :=
  ((s.ctxs.zipIdx.filter fun c => c.1.landed < c.1.faults.length).map (·.2)).foldl (fun s c => s.landRecord c) s

/-- A 64-bit word of a home read; none when its page is unmapped. -/
def State.readWord (s : State) (ia : Nat) : State × Option Nat :=
  let r := s.hRead ia 8
  (r.1, r.2.map leNat)

/-- Kernels that count against 256 (R311). -/
def State.kernelCount (s : State) : Nat :=
  (s.kernels.filter fun k => match k.st with
    | .complete => false
    | .faulted => k.done != k.placed
    | _ => true).length

/-- A command of that code may start on a queue (R299, R302, R311). -/
def State.mayStart (s : State) (q : Queue) (code : Nat) : Bool :=
  let c := s.ctx q.owner
  (c.st == .active || c.st == .preempted) && !q.resetReq && !s.isParked (.command q.q) &&
  (if code = 1 then (q.inflight.all fun x => match x.2 with
      | .launch _ => true
      | _ => false) && decide (s.kernelCount < 256)
   else q.inflight.isEmpty)

/-- The record of a LAUNCH is mapped, and the saddle die reaches it; its lookups install runs (R326). -/
def State.recordLook (s : State) (q : Queue) (e : List Byte) : State × Bool :=
  match (if operand e 0 1 = 1 then s.commandIa? q.owner (operand e 8 8) 128 0 else none) with
  | none => (s, true)
  | some ia =>
    if !s.sourceReach ia then (s, false)
    else
      let r := s.hRead ia 128
      (r.1, r.2.isSome)

/-- The head of a queue evaluated: it may start when its bytes, the word that takes CONSUMED, and the record of a LAUNCH are
mapped, and the saddle die reaches them (R15). The lookups install runs (R326). -/
def State.headLook (s : State) (q : Queue) : State × Bool :=
  if !s.sourceReach q.headIa || !s.sourceReach (q.dbell + 8) then (s, false)
  else match s.hRead q.headIa 64 with
    | (s, none) => (s, false)
    | (s, some e) =>
      let r := s.recordLook q e
      let d := r.1.readWord (q.dbell + 8)
      (d.1, r.2 && d.2.isSome && d.1.mayStart q (operand e 0 1))

@[inherit_doc State.headLook] def State.headReady (s : State) (q : Queue) : Bool := (s.headLook q).2

/-- The doorbell read; none while the saddle die does not reach it, its page is unmapped, or the read of it is parked (R15, R328). -/
def State.doorbell (s : State) (q : Queue) : State × Option Nat :=
  if !s.sourceReach q.dbell || s.lineParked (.command q.q) q.dbell then (s, none) else s.readWord q.dbell

/-- A queue re-evaluated (Table 15.2, R300): a doorbell above the bound is an error, else READY, BLOCKED, RUNNING or IDLE.
SUSPENDED and ERROR stay, and so does a queue whose reset is pending. In the pause of a rigging swap no doorbell is evaluated
(R371), nor is one that cannot be read now: a completion still makes a queue IDLE, and a head that may start makes it READY. -/
def State.evalQueue (s : State) (n : Nat) : State :=
  let q := s.queue n
  if q.st = 4 || q.st = 5 || q.resetReq || q.purge then s
  else
    let r := if s.paused then (s, none) else s.doorbell q
    match r.2 with
    | none =>
      if q.st = 2 && q.inflight.isEmpty then r.1.setQueue { q with st := 0 }
      else if q.st = 3 then
        let h := r.1.headLook q
        if h.2 then h.1.setQueue { q with st := 1 } else h.1
      else r.1
    | some d =>
      if q.consumed + q.cap < d then r.1.queueError n 2
      else if d ≤ q.consumed then r.1.setQueue { q with st := if q.inflight.isEmpty then 0 else 2 }
      else
        let h := r.1.headLook q
        h.1.setQueue { q with st := if h.2 then 1 else 3 }

/-- A command is no longer in flight. -/
def State.commandDone (s : State) (n id : Nat) : State :=
  let q := s.queue n
  s.setQueue { q with inflight := dropIf (·.1 == id) q.inflight }

/-- A command placed in flight. -/
def State.commandRuns (s : State) (n : Nat) (c : Cmd) : State :=
  let (s, id) := s.fresh
  let q := s.queue n
  s.setQueue { q with inflight := q.inflight ++ [(id, c)] }

/-! Entries (Table 15.3) -/

/-- The operand bytes of a command: first byte and count. -/
def operandBytes (code : Nat) : List (Nat × Nat) :=
  match code with
  | 1 => [(8, 8), (16, 1)]
  | 2 => [(8, 2), (16, 8)]
  | 3 => [(8, 8)]
  | 4 | 5 => [(8, 8), (16, 8), (24, 8)]
  | 6 => [(8, 8), (16, 1), (17, 1), (20, 4)]
  | 7 => [(8, 1)]
  | _ => []

/-- An entry with a known code and zeros in every byte that Table 15.3 does not assign. -/
def entryOk (e : List Byte) : Bool :=
  let code := operand e 0 1
  decide (1 ≤ code) && decide (code ≤ 8) && (code != 1 || decide (operand e 16 1 ≤ 1)) &&
  (List.range 64).all fun i => i == 0 || e.getD i 0 == 0 ||
    (operandBytes code).any fun o => decide (o.1 ≤ i) && decide (i < o.1 + o.2)

/-- The head taken: CONSUMED rises by one and is stored at DBELL + 8 (R300). -/
def State.takeEntry (s : State) (n : Nat) : Option (State × List Byte) :=
  let q := s.queue n
  match s.hRead q.headIa 64 with
  | (_, none) => none
  | (s, some e) =>
    match s.hWrite ((leBytes 8 (q.consumed + 1)).zipIdx.map fun b => (q.dbell + 8 + b.2, b.1)) with
    | (_, false) => none
    | (s, true) => some (s.setQueue { q with consumed := q.consumed + 1 }, e)

/-! LAUNCH (R306 to R309) -/

/-- The launch record's words (Table 16.1). -/
def recordWords (bs : List Byte) : List Word := (List.range 16).map fun i => leWord ((bs.drop (8 * i)).take 8)

/-- A record that the saddle die does not refuse (R307). -/
def recordOk (ws : List Word) : Bool :=
  let w (i : Nat) : Word := ws.getD i 0
  let f := 2 ^ fld (w 2) 41 2
  let win := fld (w 3) 0 9
  let wpg := fld (w 2) 32 9
  let bases := [viewV (w 4), viewT (w 4), viewA (w 4), viewH (w 4), viewK (w 4)]
  fld (w 0) 56 8 == 0 && fld (w 1) 56 8 == 0 && fld (w 2) 43 21 == 0 && fld (w 3) 26 38 == 0 && fld (w 4) 45 19 == 0 &&
  w 14 == 0 && w 15 == 0 && fld (w 2) 41 2 != 3 && fld (w 2) 0 32 != 0 && wpg != 0 && decide (wpg ≤ 384) &&
  win != 0 && decide (win ≤ 384) && fld (w 0) 0 3 == 0 && fld (w 1) 0 3 == 0 &&
  (bases.all fun b => b == 0x1FF || decide (b < 384)) && decide (fld (w 3) 9 15 ≤ 4096 * f) &&
  decide (wpg ≤ f * 4 * min 24 (2048 / win))

/-- The kernel that a record describes (Table 16.1, R287, R306), QUEUED. -/
def kernelOf (uid ctx queue entry : Nat) (det : Bool) (producer : Option Nat) (ws : List Word) : Kernel :=
  let w (i : Nat) : Word := ws.getD i 0
  let d := det || (w 3).getLsbD 24
  { uid := uid, ctx := ctx, queue := queue, kid := BitVec.ofNat 32 (queue * 2 ^ 22 + entry % 2 ^ 22), st := .queued,
    producer := producer, order := 0, entry := w 0, trapent := w 1, fp := fld (w 2) 41 2, wpg := fld (w 2) 32 9,
    ngrp := fld (w 2) 0 32, early := (w 3).getLsbD 25, det := d, scr := fld (w 3) 9 15, win := fld (w 3) 0 9,
    views := w 4, seed := w 5, args := (ws.drop 6).take 8, placed := 0, done := 0,
    stamp := if d then some { grp := 0, wave := 0, passing := none, retired := false, moving := false } else none, dies := [],
    reports := none }

/-- The record of a QUEUED kernel has been read: WAITING_DEP, from which a kernel without an incomplete producer leaves at
once (R309). -/
def State.recordRead (s : State) (k : Kernel) : State := (s.setKernel { k with st := .waitingDep }).settleKernels

/-- LAUNCH starts: entry number `i` of queue `n`; `prev` is the kernel of the queue's previous LAUNCH. -/
def State.startLaunch (s : State) (n i : Nat) (e : List Byte) (prev : Option Nat) : State :=
  let q := s.queue n
  let va := operand e 8 8
  match (if va % 64 = 0 then s.commandIa? q.owner va 128 0 else none) with
  | none => s.queueError n 3
  | some ia =>
    match s.hRead ia 128 with
    | (s, none) => s
    | (s, some bs) =>
      let ws := recordWords bs
      if !recordOk ws then s.queueError n 9
      else
        let (s, uid) := s.fresh
        let dep : Option Nat := if operand e 16 1 = 0 then prev.filter fun p => (s.kernel? p).any (·.st != .complete) else none
        let k := kernelOf uid q.owner n i (s.ctx q.owner).det dep ws
        let s : State := { s with kernels := s.kernels ++ [k] }
        let s := s.commandRuns n (.launch uid)
        (s.setQueue { s.queue n with prev := some uid }).recordRead k

/-! SIGNAL, SLATEW, GEODEW, WAITQ (R303, R304) -/

/-- A SIGNAL sends its value, and the flag message behind it (O8 to O11); with no route it ends (DESIGN CHOICE,
assumption 52). -/
def State.trySignal (s : State) (n id dst flag : Nat) (v : Word) : State :=
  let home := homeOf dst
  match s.girthReach saddle home with
  | .waits => s
  | .fail _ => s.commandDone n id
  | .ok =>
    let path := (s.pickPath saddle home id).getD 0
    let cells : Store := (leBytes 8 v.toNat).zipIdx.map fun b => (dst + b.2, b.1)
    match s.sendPacket saddle home path .write cells 0 0 0 0 31 id with
    | none => s
    | some s =>
      let msg := s.nextUid
      let s := s.sendRein saddle home 0 (.flag flag 0 31 true id)
      let q := s.queue n
      s.setQueue { q with inflight := replace (·.1 == id) (id, .signal dst flag v msg) q.inflight }

/-- SIGNAL starts. -/
def State.startSignal (s : State) (n : Nat) (e : List Byte) : State :=
  let q := s.queue n
  let ia? (at_ : Nat) : Option Nat :=
    let va := operand e at_ 8
    if va % 8 = 0 then s.commandIa? q.owner va 8 1 else none
  match ia? 16, ia? 24 with
  | some d, some f =>
    if iaSpace d < 8 || iaSpace f < 8 || homeOf d != homeOf f then s.queueError n 3
    else
      let id := s.nextUid
      let v := wd (operand e 8 8)
      (s.commandRuns n (.signal d f v 0)).trySignal n id d f v
  | _, _ => s.queueError n 3

/-- The first byte of a die's Geode store, as an offset of its Slate (R283). -/
def State.geodeBase (s : State) (die : Nat) : Nat := 2 ^ 28 - (s.die die).gmib * 2 ^ 20

/-- SLATEW starts (R304). -/
def State.startSlatew (s : State) (n : Nat) (e : List Byte) : State :=
  let q := s.queue n
  let src := operand e 8 8
  let dst := operand e 16 8
  let len := operand e 24 8
  if len % 256 != 0 || decide (2 ^ 28 < len) then s.queueError n 1
  else
    match (if src % 256 = 0 then s.commandIa? q.owner src (max len 1) 0 else none),
          (if dst % 256 = 0 then s.commandIa? q.owner dst (max len 1) 1 else none) with
    | some a, some d =>
      let off_ := d % 2 ^ 44
      if (iaSpace a != 0 && decide (iaSpace a < 8)) || iaSpace d != 1 || decide (8 ≤ iaDie d) || decide (2 ^ 28 ≤ off_) ||
          (len != 0 && decide (s.geodeBase (iaDie d) < off_ + len)) then s.queueError n 3
      else if len = 0 then s
      else match s.saddleReach (iaDie d) with
        | .fail _ => s.queueError n 10
        | _ => s.commandRuns n (.slatew a d len)
    | _, _ => s.queueError n 3

/-- A SLATEW holds its X entry; its request is queued. -/
def State.slateHeld (s : State) (n die : Nat) : Option BEnt := (s.die die).entries.find? (·.queue == some n)
@[inherit_doc State.slateHeld] def State.slateAsked (s : State) (n die : Nat) : Bool :=
  let d := s.die die
  (d.bq ++ d.incoming).any (·.who == .slatew n)

/-- A SLATEW on its way to its entry (R304): it asks as a BRW does, again while the table is full; with no way to its die,
the queue enters ERROR. -/
def State.seekSlate (s : State) (n id dst len : Nat) : State :=
  let die := iaDie dst
  match s.saddleReach die with
  | .waits => s
  | .fail _ =>
    let d := s.die die
    let s := s.setDie die { d with bq := dropIf (·.who == .slatew n) d.bq, incoming := dropIf (·.who == .slatew n) d.incoming,
                                   entries := dropIf (·.queue == some n) d.entries, scan := true }
    (s.commandDone n id).queueError n 10
  | .ok =>
    if (s.slateHeld n die).isSome || s.slateAsked n die then s
    else
      let (s, rid) := s.fresh
      s.enqueue die { rid := rid, src := 320 * 4 + n, who := .slatew n, ia := dst, len := len, kind := .x, tryIt := false,
                      ctx := (s.queue n).owner, die := die, sector := 0, det := none }

/-- GEODEW starts (R283, R303). -/
def State.startGeodew (s : State) (n : Nat) (e : List Byte) : State :=
  let q := s.queue n
  let src := operand e 8 8
  let t := operand e 16 1
  let vd := operand e 17 1
  let cnt := operand e 20 4
  if 7 < t || 7 < vd || 32768 < cnt then s.queueError n 1
  else
    match (if src % 256 = 0 then s.commandIa? q.owner src (max (1024 * cnt) 1) 0 else none) with
    | none => s.queueError n 3
    | some a =>
      match physDie? (s.ctx q.owner).vdies vd with
      | none => s.queueError n 8
      | some die =>
        let tab := (s.die die).tables.getD t { owner := 0, base := 0, n := 0 }
        if tab.n != 0 && tab.owner != q.owner then s.queueError n 8
        else s.commandRuns n (.geodew a die t cnt)

/-- WAITQ is satisfied: MARK of its queue has reached its value. -/
def State.waitqOver (s : State) (q : Nat) (v : Word) : Bool := decide (v.toNat ≤ (s.queue q).mark.toNat)

/-- WAITQ starts. -/
def State.startWaitq (s : State) (n : Nat) (e : List Byte) : State :=
  let t := operand e 8 2
  let v := wd (operand e 16 8)
  if 1023 < t then s.queueError n 1
  else if (s.queue t).owner != (s.queue n).owner then s.queueError n 7
  else if s.waitqOver t v then s
  else s.commandRuns n (.waitq t v)

/-- A command starts by its code, with entry number `i`. A LAUNCH that is refused leaves the next one without a producer: its
previous LAUNCH has no kernel (R309). -/
def State.startEntry (s : State) (n i : Nat) (e : List Byte) : State :=
  let prev := (s.queue n).prev
  let s := if operand e 0 1 = 1 then s.setQueue { s.queue n with prev := none } else s
  if !entryOk e then s.queueError n 1
  else match operand e 0 1 with
    | 1 => s.startLaunch n i e prev
    | 2 => s.startWaitq n e
    | 3 => s.setQueue { s.queue n with mark := wd (operand e 8 8) }
    | 4 => s.startSignal n e
    | 5 => s.startSlatew n e
    | 6 => s.startGeodew n e
    | 7 => if (s.queue n).priv then s.replayMask (operand e 8 1) else s.queueError n 6
    | _ => s

/-! The dispatcher (R302) -/

/-- The dispatcher works: the device is in full service (Table 21.1), and no rigging swap pauses it. -/
def State.dispatches (s : State) : Bool := s.stage == .full && !s.paused

/-- The queue that the dispatcher serves next: the READY queue of highest PRIO, round robin after the one served last. -/
def State.nextQueue? (s : State) : Option Queue :=
  let ready := s.queues.filter fun q => q.st == 1 && s.headReady q
  let top := (ready.map (·.prio)).foldl max 0
  leastBy (fun q => (q.q + 1023 - s.served) % 1024) (ready.filter (·.prio == top))

/-- The head of a queue starts, and the queue is re-evaluated. -/
def State.startHead (s : State) (q : Queue) : Option State := do
  let (s, e) ← s.takeEntry q.q
  let s : State := { s with served := q.q }
  some ((s.startEntry q.q q.consumed e).evalQueue q.q)

/-- The code of a queue's head. -/
def State.headCode (s : State) (q : Queue) : Nat := operand ((s.hRead q.headIa 64).2.getD []) 0 1

/-- The dispatcher starts its next command if that is the head of queue `n` and carries a code. -/
def State.startOf (s : State) (n code : Nat) : Option State := do
  if !s.dispatches then none
  let q ← s.nextQueue?
  if q.q != n || s.headCode q != code then none
  s.startHead q

/-- DISPATCH (R302). -/
def execDispatch (s : State) : Out :=
  execEvent s fun s => do
    if !s.dispatches then none
    let q ← s.nextQueue?
    s.startHead q

/-- LAUNCH (R306). -/
def execLaunch (q : Nat) (s : State) : Out := execEvent s fun s => s.startOf q 1

/-- WAITQ (R303): its start, or its completion. -/
def execWaitq (q : Nat) (s : State) : Out :=
  execEvent s fun s =>
    let ended := (s.queue q).inflight.find? fun c => match c.2 with
      | .waitq t v => s.waitqOver t v
      | _ => false
    match ended with
    | some c => some ((s.commandDone q c.1).evalQueue q)
    | none => s.startOf q 2

/-- MARK (R303). -/
def execMark (q : Nat) (s : State) : Out := execEvent s fun s => s.startOf q 3

/-- SIGNAL (R303). -/
def execSignal (q : Nat) (s : State) : Out := execEvent s fun s => s.startOf q 4

/-- SLATEW (R304). -/
def execSlatew (q : Nat) (s : State) : Out := execEvent s fun s => s.startOf q 5

/-- GEODEW (R283). -/
def execGeodew (q : Nat) (s : State) : Out := execEvent s fun s => s.startOf q 6

/-- REPLAY (R329). -/
def execReplay (q : Nat) (s : State) : Out := execEvent s fun s => s.startOf q 7

/-- FENCEQ (R303). -/
def execFenceq (q : Nat) (s : State) : Out := execEvent s fun s => s.startOf q 8

/-! Completions -/

/-- SLATEW_COMPLETE (R304): every byte is written, the entry is returned. Nothing is written in a slot. -/
def execSlatewComplete (q : Nat) (s : State) : Out :=
  execEvent s fun s => do
    let (id, c) ← (s.queue q).inflight.head?
    match c with
    | .slatew src dst len =>
      let die := iaDie dst
      let e ← s.slateHeld q die
      if s.inSlot || s.isParked (.command q) || s.saddleReach die != .ok || !s.sourceReach src then none
      match s.hRead src len with
      | (_, none) => none
      | (s, some bs) =>
        match s.hWrite (bs.zipIdx.map fun b => (dst + b.2, b.1)) with
        | (_, false) => none
        | (s, true) => some (((s.dropHolder die e.idx).commandDone q id).evalQueue q)
    | _ => none

/-- The lowest run of `n` free prototype slots of a die, table `t` aside (R283). -/
def State.freeSlots? (s : State) (die t n : Nat) : Option Nat :=
  let d := s.die die
  let held := (d.tables.zipIdx.filter fun x => x.2 != t && x.1.n != 0).map fun x => (x.1.base, x.1.n)
  let ok := (0 :: held.map fun h => h.1 + h.2).filter fun b => decide (b + n ≤ d.gmib * 1024) && held.all fun h => !meets h (b, n)
  ok.foldl (fun m b => some (min b (m.getD b))) none

/-- A table replaced. -/
def State.setTable (s : State) (die t : Nat) (x : GTab) : State :=
  let d := s.die die
  s.setDie die { d with tables := d.tables.set t x }

/-- GEODEW_COMPLETE (R283, R304): no search of the table that came before is left; the table takes its lowest run of slots
and its prototypes are written; N = 0 empties it. -/
def execGeodewComplete (q : Nat) (s : State) : Out :=
  execEvent s fun s => do
    let x := s.queue q
    let (id, c) ← x.inflight.head?
    match c with
    | .geodew src die t n =>
      let d := s.die die
      let tab := d.tables.getD t { owner := 0, base := 0, n := 0 }
      let fail (s : State) : State := ((s.commandDone q id).queueError q 8).evalQueue q
      if d.retired then some (fail s)
      else
        if s.inSlot || s.isParked (.command q) || s.saddleReach die != .ok || d.searches.any fun y => y.table == t && decide (y.id < id) then none
        if tab.n != 0 && tab.owner != x.owner then some (fail s)
        else if n = 0 then some (((s.setTable die t { owner := 0, base := 0, n := 0 }).commandDone q id).evalQueue q)
        else
          if !s.sourceReach src then none
          match s.freeSlots? die t n with
          | none => some (fail s)
          | some b =>
            match s.hRead src (1024 * n) with
            | (_, none) => none
            | (s, some bs) =>
              let at_ := 2 ^ 48 + die * 2 ^ 44 + s.geodeBase die + 1024 * b
              match s.hWrite (bs.zipIdx.map fun y => (at_ + y.2, y.1)) with
              | (_, false) => none
              | (s, true) =>
                some (((s.setTable die t { owner := x.owner, base := b, n := n }).commandDone q id).evalQueue q)
    | _ => none

/-! Each clk -/

/-- What a command in flight does of itself: a WAITQ ends, a SIGNAL is sent or has been counted, a SLATEW seeks its
entry. -/
def State.settleCommand (s : State) (n id : Nat) (c : Cmd) : State :=
  match c with
  | .waitq t v => if s.waitqOver t v then s.commandDone n id else s
  | .signal d f v msg =>
    if msg = 0 then s.trySignal n id d f v
    else if (s.reins.any (·.id == msg)) || s.flags.any (·.id == msg) then s
    else s.commandDone n id
  | .slatew _ dst len => s.seekSlate n id dst len
  | _ => s

/-- A pending reset is complete once nothing is in flight; the entries of a queue that was disowned are discarded (R301). -/
def State.settleReset (s : State) (n : Nat) : State :=
  let q := s.queue n
  if (q.resetReq && q.inflight.isEmpty) || q.purge then
    match s.doorbell q with
    | (s, none) => s
    | (s, some d) => s.setQueue { q with st := 0, consumed := d, err := 0, resetReq := false, purge := false }
  else s

/-- A queue's commands and state brought up to date. -/
def State.settleQueue (s : State) (n : Nat) : State :=
  let s := (s.queue n).inflight.foldl (fun s c => s.settleCommand n c.1 c.2) s
  (s.settleReset n).evalQueue n

/-- Every queue that holds anything, in ascending order. -/
def State.settleQueues (s : State) : State := (s.queues.map (·.q)).foldl (fun s n => s.settleQueue n) s

/-- A rigging reset of a queue (R301): WAITQs end, nothing starts; once nothing is in flight the queue is IDLE. -/
def State.resetQueue (s : State) (n : Nat) : State :=
  let x := s.queue n
  let keep := dropIf (fun c => match c.2 with
    | .waitq _ _ => true
    | _ => false) x.inflight
  (s.setQueue { x with resetReq := true, inflight := keep }).settleReset n

/-- QUEUE_RESET (R301). -/
def execQueueReset (q : Nat) (s : State) : Out := execEvent s fun s => some (s.resetQueue q)

end Sys2Proof.Machine
end

