-- ==== Sys2Proof/Machine/Contexts.lean ====
section
/-! DEFINITION. Contexts: creation, pre-emption and resume (R287, R288, R296, R320, R321, R366), kill and reclaim (R172,
R173, R205, R272, R286), the loss of a die (R341) and its retirement (R29, R295). -/

namespace Sys2Proof.Machine

open Sys2Proof

/-! Creation (R28, R288) -/

/-- A virtual-die table that keeps R28: bound entries name distinct dies, none retired or disabled. -/
def State.vdiesOk (s : State) (vdies : BitVec 32) : Bool :=
  let ds := (List.range 8).filterMap (physDie? vdies)
  ds.eraseDups.length == ds.length && ds.all fun d => !(s.die d).retired

/-- Set-up done or refused (R28, R289, Table 14.2). -/
def State.setUp (s : State) (ctx : Nat) : State :=
  let c := s.ctx ctx
  if s.vdiesOk c.vdies && c.maps.all Map.ok then s.setCtx ctx { c with st := .active } else s.setCtx ctx Ctx.reset

/-- A context as its creation leaves it: CREATING. -/
def Ctx.created (x : CtxSpec) : Ctx :=
  let maps := x.maps.map fun m => mapOf m.1 m.2.1 m.2.2
  { Ctx.reset with st := .creating, maps := (maps ++ Ctx.reset.maps).take 16, vdies := x.vdies, stchk := x.stchk,
                   det := x.det, ringDie := x.faultDie, ringPa := x.faultPa, cap := x.faultCap, saveCap := x.saveBytes }

/-- CONTEXT_CREATE (R288): a FREE context becomes CREATING; of a CREATING context the set-up ends. -/
def execContextCreate (ctx : Nat) (spec : CtxSpec) (s : State) : Out :=
  execEvent s fun s =>
    match (s.ctx ctx).st with
    | .free => some (s.setCtx ctx (Ctx.created spec))
    | .creating => some (s.setUp ctx)
    | _ => none

/-! Pre-emption (R296, R321) -/

/-- The groups of a context in a state. -/
def State.ctxGroups (s : State) (ctx : Nat) (st : GroupSt) : List Group :=
  s.groups.filter fun g => g.st == st && ((s.kernel? g.kernel).map (·.ctx)) == some ctx

/-- Bytes of a group's frame (R321). -/
def State.groupFrame (s : State) (g : Group) : Nat :=
  ((s.kernel? g.kernel).map (·.scr)).getD 0 * 256 + ((g.ress.filter (·.live)).map (·.len)).sum + 65536

/-- Waves of a group that a pre-emption saves: those that have not ended and are not swapped out already. -/
def State.toSave (s : State) (gu : Nat) : List Wave :=
  s.waves.filter fun w => w.group == gu && (w.st == .resident || w.st == .sleeping)

/-- Bytes that the frames of a group and its waves take. -/
def State.frameNeed (s : State) (g : Group) : Nat := s.groupFrame g + ((s.toSave g.uid).map s.frameBytes).sum

/-- A load stands still: it is parked, or waits for its wave. -/
def State.loadStands (s : State) (w : Wave) (l : LoadP) : Bool :=
  w.loadWaits l || s.isParked (.load w.uid l.id) || (l.atomic && s.isParked (.atomic l.id))

/-- A group may be saved: its engine, matrix, unit and Geode operations are complete, its waves' outboxes have drained
(R206), and no window of a returning grant is still to be taken (R296, R271, R274). -/
def State.groupQuiet (s : State) (g : Group) : Bool :=
  s.workOver g.uid &&
  ((s.waves.filter (·.group == g.uid)).all fun w => w.outbox.isEmpty && w.arrives.isEmpty && w.loads.all (s.loadStands w)) &&
  s.grants.all fun r => !(s.ownedBy g.uid r.reg && r.st == .returning && r.window.isSome && !r.flushed)

/-- Scratchpad bytes of a core's share as bytes of the group: `r` is the core's rank of `f` (R176). -/
def shareOffset (f r l : Nat) : Nat := (l / 256 * f + r) * 256 + l % 256

/-- A group saved whole: scratchpad, full-empty bits, operand-buffer bytes of live reservations, sampler; barriers,
channels and matrix state stay with the group (R296, R321, R366). -/
def State.saveGroup (s : State) (g : Group) : State :=
  let s := (s.toSave g.uid).foldl (fun s w => s.saveWave w) s
  match s.group? g.uid with
  | none => s
  | some g =>
    let f := g.cores.length
    let len := shareLen (((s.kernel? g.kernel).map (·.scr)).getD 0) f
    let shares := (g.cores.zip g.bases).zipIdx.map fun c => (c.2, coreKey g.die c.1.1 c.1.2)
    let cells : Store := shares.flatMap fun x => (scells s.mem x.2 len).map fun c => (shareOffset f x.1 (c.1 - x.2), c.2)
    let fulls : List Nat := shares.flatMap fun x =>
      (s.full.filter fun n => decide (x.2 / 16 ≤ n) && decide (n < (x.2 + len) / 16)).map fun n =>
        shareOffset f x.1 (16 * n - x.2) / 16
    let ob : Store := g.ress.flatMap fun r =>
      if r.live then
        let rank := (g.cores.takeWhile (· != r.core)).length
        (scells (s.core (g.die * 40 + r.core)).ob r.base r.len).map fun c => (rank * 2 ^ 20 + c.1, c.2)
      else []
    let smp := g.cores.findSome? fun c =>
      let x := (s.core (g.die * 40 + c)).sampler
      if x.owner == some g.uid then some x else none
    let free (c : Core) : Core := if c.sampler.owner == some g.uid then { c with sampler := Sampler.reset } else c
    ({ s with cores := s.cores.map free } : State).setGroup
      { g with st := .swapped, frame := smerge [] cells, frameFull := fulls.foldl nins [], frameOb := smerge [] ob, frameSmp := smp }

/-- A pre-emption begins (R321): refused when the save area cannot hold every frame; else no wave of the context's running
groups issues any more, and its queues are SUSPENDED (Table 15.2). -/
def State.beginPreempt (s : State) (ctx : Nat) : Option State :=
  let c := s.ctx ctx
  let need := ((s.ctxGroups ctx .running).map s.frameNeed).sum
  if c.saveUsed + need ≤ c.saveCap then
    some ((s.queues.filter fun q => q.owner == ctx && q.st != 5 && !q.resetReq).foldl (fun s q => s.setQueue { s.queue q.q with st := 4 })
      (s.setCtx ctx { c with preempting := true }))
  else none

/-- Every running group is saved, and the context is PREEMPTED. -/
def State.endPreempt (s : State) (ctx : Nat) : Option State :=
  let gs := s.ctxGroups ctx .running
  if gs.all s.groupQuiet then
    let need := (gs.map s.frameNeed).sum
    let s := gs.foldl (fun s g => s.saveGroup g) s
    let c := s.ctx ctx
    some (s.setCtx ctx { c with st := .preempted, preempting := false, saveUsed := c.saveUsed + need })
  else none

/-- CONTEXT_PREEMPT (R296): the pre-emption begins or is refused; once it has begun and its groups are quiet, it ends. -/
def execContextPreempt (ctx : Nat) (s : State) : Out :=
  execEvent s fun s =>
    let c := s.ctx ctx
    if c.st != .active then none else if c.preempting then s.endPreempt ctx else s.beginPreempt ctx

/-! Resume (R321) -/

/-- The cores of a die have room for what a saved group brings: physical barriers, channels, matrix names, operand-buffer
ranges, its sampler, and its waves. -/
def State.savedFits (s : State) (k : Kernel) (g : Group) (waves : List Wave) (die : Nat) (cores : List Nat) : Bool :=
  let h : Group := { g with die := die, cores := cores }
  let core (c : Nat) : Nat := cores.getD ((g.cores.takeWhile (· != c)).length) 0
  let count (l : List Nat) (c : Nat) : Nat := ((l.map core).filter (· == c)).length
  s.coresFit k die cores && decide (s.physBars h + g.bars.length ≤ 2048) && decide (s.physChans h + g.chans.length ≤ 16) &&
  (cores.all fun c =>
    decide (s.onCore die c (fun x => x.cvs.map (·.core)) + count (g.cvs.map (·.core)) c ≤ 16) &&
    decide (s.onCore die c (fun x => x.laces.map (·.core)) + count (g.laces.map (·.core)) c ≤ 16) &&
    decide (s.onCore die c (fun x => x.ress.map (·.core)) + count (g.ress.map (·.core)) c ≤ 32) &&
    (s.groupsOn die c).all fun x => x.ress.all fun r => g.ress.all fun q =>
      !(r.core == c && core q.core == c && meets (r.base, r.len) (q.base, q.len))) &&
  (g.frameSmp.isNone || (s.core (die * 40 + cores.headD 0)).sampler.owner.isNone) &&
  cores.all fun c => (List.range 4).all fun q =>
    let n := (waves.filter fun w => core w.core == c && w.quad == q).length
    n == 0 || decide (n ≤ s.room (die * 40 + c) q k.win)

/-- A saved group's bytes put back. -/
def State.loadFrame (s : State) (g : Group) : State :=
  let s := g.frame.foldl (fun s c => s.putByte (g.spKey c.1) c.2) s
  let s := s.setFull (g.frameFull.map fun n => g.spKey (16 * n) / 16)
  let s := g.frameOb.foldl (fun s c =>
    let i := g.die * 40 + g.cores.getD (c.1 / 2 ^ 20) 0
    s.setCore i { s.core i with ob := sput (s.core i).ob (c.1 % 2 ^ 20) c.2 }) s
  match g.frameSmp with
  | none => s
  | some x =>
    let i := g.die * 40 + g.cores.headD 0
    s.setCore i { s.core i with sampler := { x with ton := if x.on then s.clk else x.ton, target := none } }

/-- Miss-status entries of parked loads stay with the core that is left: a wave that is restored elsewhere holds none. -/
def State.leaveCore (s : State) (w : Wave) : State :=
  let held := (w.loads.filter fun l => !w.unserved l.seq).map (·.entries)
  (s.missFree (s.coreOf w) held.sum).setWave
    { w with loads := w.loads.map fun l => if w.unserved l.seq then l else { l with miss := [] } }

/-- A request that a grant still waits for names its holder's new place (R154). -/
def State.moveReq (s : State) (gid die sector : Nat) : State :=
  let move (r : BReq) : BReq := if r.who == .grant gid then { r with die := die, sector := sector } else r
  { s with dies := s.dies.map fun d => { d with bq := d.bq.map move, incoming := d.incoming.map move,
                                                answers := d.answers.map fun a => { a with req := move a.req } },
           ebq := s.ebq.map move,
           reins := s.reins.map fun m => match m.kind with
             | .request r => { m with kind := .request (move r) }
             | _ => m }

/-- The grants of a group moved at their homes to its new sector (R154): group-scope grants take fresh tags, entries name
the new holder. -/
def State.moveGrants (s : State) (g : Group) (sector : Nat) : Option State := do
  let mine := s.grants.filter fun r => s.ownedBy g.uid r.reg
  let s ← s.retag false g.die sector ((mine.filter fun r => r.reg.grp && (r.st == .held || r.st == .frozen)).map (·.gid))
  some (mine.foldl (fun s r => match r.entry with
    | none => s.moveReq r.gid g.die sector
    | some i =>
      let s := s.moveReq r.gid g.die sector; if r.parent.isNone && r.home < 8 then
        let d := s.die r.home
        s.setDie r.home { d with entries := d.entries.map fun e =>
          if e.idx == i && (e.kind == .x || e.count == 1) then { e with die := g.die, sector := sector } else e }
      else s) s)

/-- The waves of a restored group, each on its core and its quad (R316). -/
def State.restoreWaves (s : State) (keep : Bool) : List Nat → Option State
  | [] => some s
  | u :: r => do
    let w ← s.wave? u
    let s ← s.restoreWave w keep w.core w.quad
    s.restoreWaves keep r

/-- A SWAPPED group restored where it fits (R321), with every wave of it, those with parked accesses too, since no group runs
partly saved (R296); none when it fits nowhere. Each core's successor is the core of its rank. The open bins of the group have
stayed among the 32 bins of their old core with their timers running, and go to that core's successor, however many bins it
has open (DESIGN CHOICE, assumption 120). -/
def State.restoreGroup (s : State) (g : Group) : Option State := do
  let k ← s.kernel? g.kernel
  let ws := s.waves.filter fun w => w.group == g.uid && w.st == .swapped
  let need := s.groupFrame g + (ws.map s.frameBytes).sum
  let (v, die, cores) ← s.choosePlace k g.unit_ (s.savedFits k g ws)
  let old := s.holderAt { grp := true, owner := g.uid, code := 16 }
  let len := shareLen k.scr cores.length
  let bases := cores.map fun c => (s.shareBase? die c len).getD 0
  let core (c : Nat) : Nat := cores.getD ((g.cores.takeWhile (· != c)).length) 0
  let moved := die != g.die || cores != g.cores
  let s : State := if moved then ws.foldl (fun s w => s.leaveCore w) s else s
  let s := (cores.zip bases).foldl (fun s c => (s.bindShare die c.1 c.2 len).takeCore (die * 40 + c.1) k.ctx) s
  let g' : Group := { g with st := .running, vdie := v, die := die, cores := cores, bases := bases,
                             cvs := g.cvs.map fun x => { x with core := core x.core },
                             laces := g.laces.map fun x => { x with core := core x.core },
                             ress := g.ress.map fun x => { x with core := core x.core } }
  let s := (s.setGroup g').loadFrame g'
  let s := s.setGroup { g' with frame := [], frameFull := [], frameOb := [], frameSmp := none }
  let s : State := { s with
    waves := s.waves.map fun w => if w.group == g.uid && w.st == .swapped then { w with core := core w.core } else w,
    bins := s.bins.map fun b => if b.group == g.uid then { b with core := core b.core, die := die } else b }
  let s := s.setKernel { k with dies := if k.dies.contains die then k.dies else k.dies ++ [die] }
  let sector := s.sector die (cores.headD 0)
  let keep := old == (die, sector)
  let s ← if keep then some s else s.moveGrants g' sector
  let s ← s.restoreWaves keep (ws.map (·.uid))
  let c := s.ctx k.ctx
  some (s.setCtx k.ctx { c with saveUsed := c.saveUsed - need })

/-- SWAPPED groups of a context restored in order, until one does not fit. -/
def State.restoreAll (s : State) : List Nat → State
  | [] => s
  | u :: r => match (s.group? u).bind s.restoreGroup with
    | some s' => s'.restoreAll r
    | none => s

/-- SWAPPED groups in ascending kernel order and ascending %grp. -/
def State.savedGroups (s : State) (ctx : Nat) : List Nat :=
  (s.kernels.filter (·.ctx == ctx)).flatMap fun k =>
    ((s.groups.filter fun g => g.kernel == k.uid && g.st == .swapped).foldl (fun l g =>
      l.takeWhile (fun x => decide (x.grp ≤ g.grp)) ++ [g] ++ l.dropWhile fun x => decide (x.grp ≤ g.grp)) []).map (·.uid)

/-- CONTEXT_RESUME (R321): a PREEMPTED context becomes ACTIVE and its queues are re-evaluated; saved groups are restored as
far as they fit, now and at later restores. -/
def execContextResume (ctx : Nat) (s : State) : Out :=
  execEvent s fun s =>
    let c := s.ctx ctx
    let again (s : State) : State := s.restoreAll (s.savedGroups ctx)
    match c.st with
    | .preempted =>
      let s := s.setCtx ctx { c with st := .active }
      some (again ((s.queues.filter fun q => q.owner == ctx && q.st == 4 && !q.resetReq).foldl (fun s q =>
        (s.setQueue { s.queue q.q with st := 0 }).evalQueue q.q) s))
    | .active => if c.preempting then none else some (again s)
    | _ => none

/-! Swap-out (R320) -/

/-- A wave that has been parked for 6,000 clk and may be saved. -/
def State.swappable (s : State) (w : Wave) : Bool :=
  w.st == .resident && s.waitsParked w && ((s.parkedOf w.uid).all fun p => decide (p.since + 6000 ≤ s.clk)) && s.quiet w

/-- The waves that could be swapped out, and the machine without them. -/
def State.swappedOut (s : State) : State :=
  let l := (s.waves.filter s.swappable).map (·.uid)
  { s with waves := s.waves.map fun w => if l.contains w.uid then { w with st := .swapped, slotHeld := false } else w }

/-- The slot of a wave is needed (R320): for a swapped wave to be restored, for a waiting bin, or for a group of the same
context, which fits nowhere now, but would on the wave's quad if the waves parked so long were swapped out. -/
def State.slotNeeded (s : State) (w : Wave) : Bool :=
  let core := s.coreOf w
  let t := s.swappedOut
  let l := s.binClaims
  let more (g : Group) (win : Nat) : Bool :=
    g.die == s.dieOf w && g.cores.contains w.core && s.roomBut l core w.quad win == 0 && t.roomBut l core w.quad win != 0
  let full (k : Kernel) (cores : List Nat) : Bool := cores.zipIdx.any fun c => c.1 == w.core &&
    decide (s.roomBut l core w.quad k.win < launchCount k.wpg k.cores c.2 w.quad)
  (s.restorable.any fun v => (l.all (·.uid != v.uid)) && (s.group? v.group).any fun g => more g (s.winOf v)) ||
  (s.bins.any fun b => b.waiting && (l.all (·.uid != b.uid)) && (s.group? b.group).any fun g =>
    g.st == .running && more { g with cores := b.core :: g.cores } (((s.kernel? g.kernel).map (·.win)).getD 1)) ||
  (s.launchOrder.any fun k => k.ctx == s.ctxOf w && (s.choosePlace k k.placed (s.fitsOn k)).isNone &&
    (t.choosePlace k k.placed fun die cores => die == s.dieOf w && cores.contains w.core && t.fitsOn k die cores &&
      full k cores).isSome) ||
  (s.groups.any fun g => g.st == .swapped && match s.kernel? g.kernel with
    | none => false
    | some k =>
      let ws := s.waves.filter fun v => v.group == g.uid && v.st == .swapped
      k.ctx == s.ctxOf w && (s.ctx k.ctx).st == .active && (s.choosePlace k g.unit_ (s.savedFits k g ws)).isNone &&
        (t.choosePlace k g.unit_ fun die cores => die == s.dieOf w && cores.contains w.core && t.savedFits k g ws die cores).isSome)

/-- SWAP_OUT (R320): a wave parked for 6,000 clk is saved when its slot is needed and the save area takes its frame. -/
def execSwapOut (w : Nat) (s : State) : Out :=
  execEvent s fun s => do
    let w ← s.wave? w
    let c := s.ctx (s.ctxOf w)
    if s.swappable w && s.slotNeeded w && decide (c.saveUsed + s.frameBytes w ≤ c.saveCap) then
      some ((s.saveWave w).setCtx (s.ctxOf w) { c with saveUsed := c.saveUsed + s.frameBytes w })
    else none

/-! Kill (R288) -/

/-- A queue of a killed context: IDLE, disowned, its entries discarded (Table 15.2). -/
def State.disown (s : State) (n : Nat) : State :=
  let q := s.queue n
  let gone (d : Die) : Die := { d with bq := dropIf (·.who == .slatew n) d.bq, incoming := dropIf (·.who == .slatew n) d.incoming,
                                       scan := d.scan || d.bq.any (·.who == .slatew n), entries := d.entries.map fun e => if e.queue == some n then { e with queue := none } else e }
  let r := s.doorbell q
  ({ r.1 with dies := r.1.dies.map gone } : State).setQueue
    { q with owner := 0, st := 0, err := 0, inflight := [], prev := none, resetReq := false,
             consumed := r.2.getD q.consumed, purge := r.2.isNone }

/-- A group of a killed context stops: its waves end, its matrix and unit operations, searches and bins are discarded
(R272, R286). Its outboxes and copies wait for O14. -/
def State.stopGroup (s : State) (gu : Nat) : State :=
  let ws := (s.waves.filter (·.group == gu)).map (·.uid)
  let s := s.scramble gu
  { s with waves := s.waves.map fun w => if w.group == gu then { w with st := .ended, parts := [], hold := .none, deferred := [] } else w,
           cores := s.cores.map fun c => c.dropGroup gu ws [],
           dies := s.dies.map fun d => { d with searches := dropIf (fun x => ws.contains x.wave) d.searches },
           bins := dropIf (·.group == gu) s.bins }

/-- A context kill (R288, R310). -/
def State.killContext (s : State) (ctx : Nat) : State :=
  let c := s.ctx ctx
  let ks := (s.kernels.filter (·.ctx == ctx)).map (·.uid)
  let s := s.setCtx ctx { c with st := .killing, preempting := false }
  let s : State := { s with kernels := s.kernels.map fun k => if k.ctx == ctx && k.st != .complete then { k with st := .faulted } else k }
  let s := ((s.queues.filter (·.owner == ctx)).map (·.q)).foldl (fun s n => s.disown n) s
  ((s.groups.filter fun g => ks.contains g.kernel).map (·.uid)).foldl (fun s g => s.stopGroup g) s

/-- A kill, where Table 14.2 gives one. -/
def State.kill? (s : State) (ctx : Nat) : Option State :=
  match (s.ctx ctx).st with
  | .creating => some (((s.queues.filter (·.owner == ctx)).map (·.q)).foldl (fun s n => s.disown n) (s.setCtx ctx Ctx.reset))
  | .active | .preempted | .faulted => some (s.killContext ctx)
  | _ => none

/-- CONTEXT_KILL (Table 14.2). -/
def execContextKill (ctx : Nat) (s : State) : Out := execEvent s fun s => s.kill? ctx

/-- Lines of a released grant merge into the home as chosen, each whole (R205). -/
def State.mergeLines (s : State) (merged : List (Nat × Nat)) (g : Grant) : State :=
  if g.kind == .x && !g.returned then
    ((smerge g.gs (s.ownWindow g)).map (·.1 / 256)).eraseDups.foldl (fun s line =>
      if merged.contains (g.gid, line) then (s.hWrite (scells (smerge g.gs (s.ownWindow g)) (256 * line) 256)).1 else s) s
  else s

/-- A grant of a killed context that the walk still has to release: a root at a fabric endpoint. -/
def Grant.atEndpoint (g : Grant) : Bool := decide (8 ≤ g.home) && g.parent.isNone && !g.asked && !g.returned

/-- Parked accesses of a killed context discarded with what they belong to (R328). -/
def State.dropParked (s : State) (ctx : Nat) : State :=
  let gone := s.dies.flatMap fun d => (d.parked ++ d.bouncedAcc.map (·.1)).filter (·.ctx == some ctx)
  let has (r : AccRef) : Bool := gone.any (·.ref == r)
  let free (s : State) (wave entries : Nat) : State := match s.wave? wave with
    | some w => s.missFree (s.coreOf w) entries
    | none => s
  let s := (s.packets.filter fun p => has (.packet p.id)).foldl (fun s p => free s p.wave p.entries) s
  let s := (s.hqs.filter fun h => has (.atomic h.2.id)).foldl (fun s h => free s h.2.wave h.2.entries) s
  { s with packets := dropIf (fun p => has (.packet p.id)) s.packets, hqs := dropIf (fun h => has (.atomic h.2.id)) s.hqs,
           flags := dropIf (fun f => has (.flag f.id)) s.flags,
           dies := s.dies.map fun d => { d with parked := dropIf (·.ctx == some ctx) d.parked,
                                                bouncedAcc := dropIf (·.1.ctx == some ctx) d.bouncedAcc } }

/-- KILL_RELEASE (O14): outboxes, copies and parked accesses are discarded; of each line of each released X grant either
every defined byte merges into H or none does; the context enters RECLAIMING. -/
def execKillRelease (ctx : Nat) (merged : List (Nat × Nat)) (s : State) : Out :=
  execEvent s fun s =>
    let c := s.ctx ctx
    if c.st != .killing then none
    else
      let ks := (s.kernels.filter (·.ctx == ctx)).map (·.uid)
      let gs := (s.groups.filter fun g => ks.contains g.kernel).map (·.uid)
      let s := (s.grants.filter (·.ctx == ctx)).foldl (fun s g => s.mergeLines merged g) s
      let s : State := { s with
        regFaults := dropIf (fun f => gs.any fun g => s.ownedBy g f.1) s.regFaults,
        grants := s.grants.filterMap fun g =>
          if g.ctx != ctx then some g
          else if g.atEndpoint then
            some { g with st := .held, gs := [], window := none, children := 0, derive := none }
          else none }
      let s := (gs.foldl (fun s g => s.discardWork g) s).dropParked ctx
      let s : State := { s with
        groups := s.groups.map fun g => if gs.contains g.uid then
          { g with st := .done, bars := [], chans := [], cvs := [], laces := [], ress := [], frame := [], frameFull := [],
                   frameOb := [], frameSmp := none } else g,
        kernels := s.kernels.map fun k => if ks.contains k.uid then { k with done := k.placed } else k }
      some (s.setCtx ctx { s.ctx ctx with st := .reclaiming, walked := false, saveUsed := 0 })

/-- RECLAIM_WALK (R172, R282): the context's entries, residues and queued requests leave every brand table, release messages
set out to fabric endpoints, and its Geode tables are emptied. -/
def execReclaimWalk (ctx : Nat) (s : State) : Out :=
  execEvent s fun s =>
    let c := s.ctx ctx
    if c.st != .reclaiming || c.walked then none
    else
      let mine (r : BReq) : Bool := r.ctx == ctx && match r.who with
        | .endpoint _ => false
        | _ => true
      let walk (d : Die) : Die := { d with
        entries := dropIf (fun e => e.ctx == ctx && e.ep.isNone) d.entries, bq := dropIf mine d.bq, scan := true,
        incoming := dropIf mine d.incoming, answers := dropIf (fun a => mine a.req) d.answers,
        tables := d.tables.map fun t => if t.n != 0 && t.owner == ctx then { owner := 0, base := 0, n := 0 } else t }
      let s : State := { s with
        dies := s.dies.map walk, ebq := dropIf mine s.ebq,
        reins := dropIf (fun m => match m.kind with
          | .request r => mine r
          | .answer a => mine a.req
          | _ => false) s.reins,
        cores := s.cores.map fun x => if x.actCtx == some ctx then { x with actCtx := none } else x }
      let s := (s.grants.filter (·.ctx == ctx)).foldl (fun s g => s.sendRein saddle g.home 0 (.release g.gid)) s
      some (s.setCtx ctx { c with walked := true })

/-- WALK_DONE (R172, R288): every endpoint has taken its release message, or cannot be reached now, and the context's last records
have gone to its ring; the context is FREE. -/
def execWalkDone (ctx : Nat) (s : State) : Out :=
  execEvent s fun s =>
    let c := s.ctx ctx
    let gids := (s.grants.filter (·.ctx == ctx)).map (·.gid)
    let waits := s.reins.any fun m => (match m.kind with
      | .release g => gids.contains g
      | _ => false) && s.messageReach m == .ok
    if c.st != .reclaiming || !c.walked || waits || (s.inSlot && decide (c.landed < c.faults.length)) then none
    else
      let s := s.landRecord ctx
      let ks := (s.kernels.filter (·.ctx == ctx)).map (·.uid)
      let gs := (s.groups.filter fun g => ks.contains g.kernel).map (·.uid)
      let s : State := { s with
        ladder := dropIf (fun l => l.1 == 1 && l.2.1 == ctx) s.ladder,
        grants := dropIf (·.ctx == ctx) s.grants, waves := dropIf (fun w => gs.contains w.group) s.waves,
        groups := dropIf (fun g => ks.contains g.kernel) s.groups, kernels := dropIf (·.ctx == ctx) s.kernels,
        dies := s.dies.map fun d => { d with recorded := dropIf (·.1 == ctx) d.recorded } }
      some (s.setCtx ctx Ctx.reset)

/-! The loss of a die (R341) -/

/-- A region register loses its grant's home (R341): a queued request fails; a register that holds a grant, or is to have
one, takes a deferred LINK_PARTITION with reason 2, and its next return completes without write-back. -/
def State.loseGrant (s : State) (g : Grant) : State :=
  let f : FaultRec := { code := LINK_PARTITION, info := linkInfo g.reg.code 2 g.ia, pc := 0 }
  let fault (s : State) : State :=
    { s with regFaults := dropIf (·.1 == g.reg) s.regFaults ++ [(g.reg, f)] }
  if g.st == .waiting && g.derive.isNone then s.failRequest g (some (f.code, f.info)) 0
  else if g.st == .returning then s.setGrant { g with lost := true }
  else fault (s.setGrant { g with lost := true })

/-- What a die holds is lost (R13, R341): its brand table and queues, Slate, Geode tables, translation block, cores,
scratchpads; atomics at its home queue fail. -/
def State.loseDie (s : State) (die : Nat) : State :=
  let s := (s.grants.filter (·.home == die)).foldl (fun s g => match s.grant? g.gid with
    | some g => s.loseGrant g
    | none => s) s
  let s := (s.hqs.filter (·.1 == die)).foldl (fun s h =>
    s.failAtomic h.2 LINK_PARTITION (linkInfo h.2.code 2 ((h.2.lanes.head?.map (·.addr)).getD 0))) s
  let s := (s.reins.filter (·.src == die)).foldl (fun s m => match m.kind with
    | .complete k => s.reported k die
    | _ => s) s
  let d := s.die die
  let onDie (k : Nat) : Bool := decide (k < 2 ^ 56) && (iaSpace k == 1 || iaSpace k == 2) && iaDie k == die
  ({ s with reins := dropIf (·.src == die) s.reins, unacked := dropIf (·.src == die) s.unacked, packets := dropIf (·.src == die) s.packets,
            used := dropIf (·.1 == die) s.used, hqs := dropIf (·.1 == die) s.hqs, flags := dropIf (·.home == die) s.flags, mem := dropIf (fun c => onDie c.1) s.mem,
            full := dropIf (fun n => onDie (16 * n)) s.full, bad := dropIf (fun b => onDie (64 * b.sec)) s.bad,
            cores := s.cores.zipIdx.map fun c => if c.2 / 40 == die then Core.reset else c.1 } : State).setDie die
    { Die.reset with recValid := d.recValid, recDisabled := d.recDisabled, site0 := d.site0, site1 := d.site1,
                     applied := d.applied, inReset := d.inReset, retired := d.retired, slateClear := true, sens0 := d.sens0,
                     sens1 := d.sens1, sens2 := d.sens2, hotAt := d.hotAt, corrected := d.corrected }

/-! Retirement (R29) -/

/-- A virtual-die table without a physical die; no entry is renumbered (R29). -/
def unbind (vdies : BitVec 32) (die : Nat) : BitVec 32 :=
  BitVec.ofNat 32 (((List.range 8).map fun v =>
    if physDie? vdies v == some die then 0 else vdies.toNat / 16 ^ v % 16 * 16 ^ v).sum)

/-- A group ends with a die: a DIE_RETIRED record where the die is retired (R295), and it is lost (R310). -/
def State.endWithDie (s : State) (die : Nat) (cause : Option Nat) (gu : Nat) : State :=
  match cause, (s.group? gu).bind fun g => s.kernel? g.kernel with
  | some c, some k =>
    (s.record k.ctx { clk := s.clk, pc := 0, info := wd (die + 16 * c), kid := k.kid, code := DIE_RETIRED, source := 2,
                      wave := 65535 }).killGroup gu
  | _, _ => s.killGroup gu

/-- The groups that hold cores of a die end. -/
def State.endGroups (s : State) (die : Nat) (cause : Option Nat) : State :=
  ((s.groups.filter fun g => g.die == die && (g.st == .placed || g.st == .running || g.st == .exiting)).map (·.uid)).foldl
    (fun s g => s.endWithDie die cause g) s

/-- A die retired, with the cause of Table 14.5a (R29): unbound in every context, its groups ended. -/
def State.retireDie (s : State) (die cause : Nat) : State :=
  if (s.die die).retired then s
  else
    let s : State := { s with ctxs := s.ctxs.map fun c => { c with vdies := unbind c.vdies die } }
    let s := (s.endGroups die (some cause)).loseDie die
    s.setDie die { s.die die with retired := true }

/-- DIE_RETIREMENT at the rigging's request (R29). -/
def execDieRetirement (die : Nat) (s : State) : Out :=
  execEvent s fun s => if (s.die die).retired then none else some (s.retireDie die 0)

end Sys2Proof.Machine
end

