-- ==== Sys2Proof/Machine/Integer.lean ====
section
/-! DEFINITION. The integer and logic instructions, class 1 (R105 to R117), vector and scalar forms, each over the
operations of IntOps. Latencies are those of Table 3.7. -/

namespace Sys2Proof.Machine

open Sys2Proof

/-- A vector form: each active lane gets a result and flags; with X ≥ 4 the flags go to c(X − 4) (R60, R106). `d` is
none for CMP and TST. -/
def vecOp (i : Instr) (h : Hd) (lat : Nat) (d : Option VCode) (f : Iss → Nat → Word × BitVec 4) (s : State) : Out :=
  execWord i h .vector s fun x act =>
    let res := act.map fun l => (l, f x l)
    let w := match d with
      | some d => x.w.writeV x.frame x.clk lat d.toNat (res.map fun r => (r.1, r.2.1))
      | none => x.w
    let w := if 4 ≤ h.x.toNat then w.writeCc x.clk lat (h.x.toNat - 4) (res.map fun r => (r.1, r.2.2)) else w
    .done x.s w .next

/-- A scalar form: one result on S registers, flags to sf with X = 4 (R60, R105). -/
def scalOp (i : Instr) (h : Hd) (lat : Nat) (d : Option SReg) (f : Iss → Word × BitVec 4) (s : State) : Out :=
  execWord i h .scalar s fun x _ =>
    let r := f x
    let w := match d with
      | some d => x.w.writeS x.clk lat d.toNat r.1
      | none => x.w
    let w := if h.x == 4 then w.writeSf x.clk lat r.2 else w
    .done x.s w .next

/-- A typed operation of two sources on every sub-element. -/
def bin (t : IType) (f : Nat → Nat → Nat → IRes) (a b : Word) : Word × BitVec 4 :=
  mapSubs t.bits fun j => f t.bits (sub t.bits a j) (sub t.bits b j)

/-- A typed operation of one source on every sub-element. -/
def una (t : IType) (f : Nat → Nat → IRes) (a : Word) : Word × BitVec 4 :=
  mapSubs t.bits fun j => f t.bits (sub t.bits a j)

/-- A typed operation with an immediate operand, the same for every sub-element. -/
def immOp (t : IType) (f : Nat → Nat → Nat → IRes) (a : Word) (n : Nat) : Word × BitVec 4 :=
  mapSubs t.bits fun j => f t.bits (sub t.bits a j) n

/-- A 64-bit result with its flags S and Z (R106). -/
def whole (r : Nat) : Word × BitVec 4 := (wd r, intFlags 64 (r % 2 ^ 64) false false)

/-- The bits of sf that MOV reads (R110). -/
def sfMask : Word := 0x3F0F

/-- MOV mode 0: the whole 64 bits (R110) -/
def execMov (h : Hd) (d a : VCode) (s : State) : Out :=
  vecOp (.mov h d a) h 4 (some d) (fun x l => whole (x.v a l).toNat) s

/-- MOV mode 0: the whole 64 bits (R110), scalar form -/
def execMovScalar (h : Hd) (d a : SReg) (s : State) : Out :=
  scalOp (.movScalar h d a) h 4 (some d) (fun x => whole (x.sreg a.toNat).toNat) s

/-- MOV mode 1: sf, with bits [63:14] and [7:4] read as 0 (R110). -/
def execMovFromSf (h : Hd) (d : SReg) (s : State) : Out :=
  scalOp (.movFromSf h d) h 4 (some d) (fun x => whole ((x.w.readSf x.clk) &&& sfMask).toNat) s

/-- MOV mode 2: sf[13:8] and sf[3:0] from the source, the only way software clears sticky bits (R110, R42). -/
def execMovToSf (h : Hd) (a : SReg) (s : State) : Out :=
  execWord (.movToSf h a) h .scalar s fun x _ =>
    .done x.s (x.w.writeSfAll x.clk 4 (x.sreg a.toNat &&& sfMask)) .next

/-- MOV mode 3: the four condition registers of each active lane (R110). -/
def execMovFromCc (h : Hd) (d : VCode) (s : State) : Out :=
  vecOp (.movFromCc h d) h 4 (some d) (fun x l =>
    whole ((x.w.readCc x.clk 3 l).toNat * 4096 + (x.w.readCc x.clk 2 l).toNat * 256 +
      (x.w.readCc x.clk 1 l).toNat * 16 + (x.w.readCc x.clk 0 l).toNat)) s

/-- MOV mode 4: the four condition registers of each active lane written (R110). -/
def execMovToCc (h : Hd) (a : VCode) (s : State) : Out :=
  execWord (.movToCc h a) h .vector s fun x act =>
    let w := (List.range 4).foldl (fun w n =>
      w.writeCc x.clk 4 n (act.map fun l => (l, (x.v a l).extractLsb' (4 * n) 4))) x.w
    .done x.s w .next

/-- MOVI: the 18-bit immediate extended with sign (R111) -/
def execMovi (h : Hd) (d : VCode) (imm : BitVec 18) (s : State) : Out :=
  vecOp (.movi h d imm) h 4 (some d) (fun x l => whole (imm.signExtend 64).toNat) s

/-- MOVI: the 18-bit immediate extended with sign (R111), scalar form -/
def execMoviScalar (h : Hd) (d : SReg) (imm : BitVec 18) (s : State) : Out :=
  scalOp (.moviScalar h d imm) h 4 (some d) (fun x => whole (imm.signExtend 64).toNat) s

/-- The word that MOVH makes of the old destination (R111). -/
def movhVal (d : Word) (k : BitVec 2) (imm : BitVec 18) : Nat :=
  match k.toNat with
  | 1 => d.toNat - fld d 18 18 * 2 ^ 18 + imm.toNat * 2 ^ 18
  | 2 => d.toNat - fld d 36 18 * 2 ^ 36 + imm.toNat * 2 ^ 36
  | _ => d.toNat - fld d 54 10 * 2 ^ 54 + imm.toNat % 1024 * 2 ^ 54

/-- MOVH: one slice of the destination replaced (R111) -/
def execMovh (h : Hd) (d : VCode) (k : BitVec 2) (imm : BitVec 18) (s : State) : Out :=
  vecOp (.movh h d k imm) h 4 (some d) (fun x l => whole (movhVal (x.v d l) k imm)) s

/-- MOVH: one slice of the destination replaced (R111), scalar form -/
def execMovhScalar (h : Hd) (d : SReg) (k : BitVec 2) (imm : BitVec 18) (s : State) : Out :=
  scalOp (.movhScalar h d k imm) h 4 (some d) (fun x => whole (movhVal (x.sreg d.toNat) k imm)) s

/-- ADD (Table 5.5) -/
def execAdd (h : Hd) (d a b : VCode) (t : IType) (s : State) : Out :=
  vecOp (.add h d a b t) h 4 (some d) (fun x l => bin t (fun w a b => iAdd w a b 0) (x.v a l) (x.v b l)) s

/-- ADD (Table 5.5), scalar form -/
def execAddScalar (h : Hd) (d a b : SReg) (t : IType) (s : State) : Out :=
  scalOp (.addScalar h d a b t) h 4 (some d)
    (fun x => bin t (fun w a b => iAdd w a b 0) (x.sreg a.toNat) (x.sreg b.toNat)) s

/-- ADD (R109), immediate form -/
def execAddImm (h : Hd) (d a : VCode) (t : IType) (imm : BitVec 15) (s : State) : Out :=
  vecOp (.addImm h d a t imm) h 4 (some d)
    (fun x l => immOp t (fun w a b => iAdd w a b 0) (x.v a l) (immVal t.bits imm)) s

/-- ADD (R109), immediate form, scalar form -/
def execAddImmScalar (h : Hd) (d a : SReg) (t : IType) (imm : BitVec 15) (s : State) : Out :=
  scalOp (.addImmScalar h d a t imm) h 4 (some d)
    (fun x => immOp t (fun w a b => iAdd w a b 0) (x.sreg a.toNat) (immVal t.bits imm)) s

/-- ADDC: carry in from the lane's cN (R113). -/
def execAddc (h : Hd) (d a b : VCode) (n : BitVec 2) (t : IType) (s : State) : Out :=
  vecOp (.addc h d a b n t) h 4 (some d) (fun x l =>
    bin t (fun w a b => iAdd w a b (b2n ((x.w.readCc x.clk n.toNat l).getLsbD 1))) (x.v a l) (x.v b l)) s

/-- ADDC, scalar form: carry in from sf.C (R113). -/
def execAddcScalar (h : Hd) (d a b : SReg) (t : IType) (s : State) : Out :=
  scalOp (.addcScalar h d a b t) h 4 (some d) (fun x =>
    bin t (fun w a b => iAdd w a b (b2n ((x.w.readSf x.clk).getLsbD 1))) (x.sreg a.toNat) (x.sreg b.toNat)) s

/-- SUB (Table 5.5) -/
def execSub (h : Hd) (d a b : VCode) (t : IType) (s : State) : Out :=
  vecOp (.sub h d a b t) h 4 (some d) (fun x l => bin t (fun w a b => iSub w a b 0) (x.v a l) (x.v b l)) s

/-- SUB (Table 5.5), scalar form -/
def execSubScalar (h : Hd) (d a b : SReg) (t : IType) (s : State) : Out :=
  scalOp (.subScalar h d a b t) h 4 (some d)
    (fun x => bin t (fun w a b => iSub w a b 0) (x.sreg a.toNat) (x.sreg b.toNat)) s

/-- SUBB: C = 1 means no borrow in (R113). -/
def execSubb (h : Hd) (d a b : VCode) (n : BitVec 2) (t : IType) (s : State) : Out :=
  vecOp (.subb h d a b n t) h 4 (some d) (fun x l =>
    bin t (fun w a b => iSub w a b (1 - b2n ((x.w.readCc x.clk n.toNat l).getLsbD 1))) (x.v a l) (x.v b l)) s

/-- SUBB, scalar form: carry in from sf.C (R113). -/
def execSubbScalar (h : Hd) (d a b : SReg) (t : IType) (s : State) : Out :=
  scalOp (.subbScalar h d a b t) h 4 (some d) (fun x =>
    bin t (fun w a b => iSub w a b (1 - b2n ((x.w.readSf x.clk).getLsbD 1))) (x.sreg a.toNat) (x.sreg b.toNat)) s

/-- MUL (Table 5.5) -/
def execMul (h : Hd) (d a b : VCode) (t : IType) (s : State) : Out :=
  vecOp (.mul h d a b t) h 6 (some d)
    (fun x l => bin t (fun w a b => iMad w (isSigned t) a b 0) (x.v a l) (x.v b l)) s

/-- MUL (Table 5.5), scalar form -/
def execMulScalar (h : Hd) (d a b : SReg) (t : IType) (s : State) : Out :=
  scalOp (.mulScalar h d a b t) h 6 (some d)
    (fun x => bin t (fun w a b => iMad w (isSigned t) a b 0) (x.sreg a.toNat) (x.sreg b.toNat)) s

/-- MULH (Table 5.5) -/
def execMulh (h : Hd) (d a b : VCode) (t : IType) (s : State) : Out :=
  vecOp (.mulh h d a b t) h 6 (some d)
    (fun x l => bin t (fun w a b => iMulh w (isSigned t) a b) (x.v a l) (x.v b l)) s

/-- MULH (Table 5.5), scalar form -/
def execMulhScalar (h : Hd) (d a b : SReg) (t : IType) (s : State) : Out :=
  scalOp (.mulhScalar h d a b t) h 6 (some d)
    (fun x => bin t (fun w a b => iMulh w (isSigned t) a b) (x.sreg a.toNat) (x.sreg b.toNat)) s

/-- MAD.i32 (Table 5.5) -/
def execMadI32 (h : Hd) (d a b c : VCode) (s : State) : Out :=
  vecOp (.madI32 h d a b c) h 6 (some d)
    (fun x l => mapSubs (IType.bits .i32) fun j => iMad (IType.bits .i32) (isSigned .i32) (sub (IType.bits .i32) (x.v a l) j) (sub (IType.bits .i32) (x.v b l) j)
      (sub (IType.bits .i32) (x.v c l) j)) s

/-- MAD.i32 (Table 5.5), scalar form -/
def execMadI32Scalar (h : Hd) (d a b c : SReg) (s : State) : Out :=
  scalOp (.madI32Scalar h d a b c) h 6 (some d)
    (fun x => mapSubs (IType.bits .i32) fun j => iMad (IType.bits .i32) (isSigned .i32) (sub (IType.bits .i32) (x.sreg a.toNat) j) (sub (IType.bits .i32) (x.sreg b.toNat) j)
      (sub (IType.bits .i32) (x.sreg c.toNat) j)) s

/-- MAD.n32 (Table 5.5) -/
def execMadN32 (h : Hd) (d a b c : VCode) (s : State) : Out :=
  vecOp (.madN32 h d a b c) h 6 (some d)
    (fun x l => mapSubs (IType.bits .n32) fun j => iMad (IType.bits .n32) (isSigned .n32) (sub (IType.bits .n32) (x.v a l) j) (sub (IType.bits .n32) (x.v b l) j)
      (sub (IType.bits .n32) (x.v c l) j)) s

/-- MAD.n32 (Table 5.5), scalar form -/
def execMadN32Scalar (h : Hd) (d a b c : SReg) (s : State) : Out :=
  scalOp (.madN32Scalar h d a b c) h 6 (some d)
    (fun x => mapSubs (IType.bits .n32) fun j => iMad (IType.bits .n32) (isSigned .n32) (sub (IType.bits .n32) (x.sreg a.toNat) j) (sub (IType.bits .n32) (x.sreg b.toNat) j)
      (sub (IType.bits .n32) (x.sreg c.toNat) j)) s

/-- MAD.i64 (Table 5.5) -/
def execMadI64 (h : Hd) (d a b c : VCode) (s : State) : Out :=
  vecOp (.madI64 h d a b c) h 6 (some d)
    (fun x l => mapSubs (IType.bits .i64) fun j => iMad (IType.bits .i64) (isSigned .i64) (sub (IType.bits .i64) (x.v a l) j) (sub (IType.bits .i64) (x.v b l) j)
      (sub (IType.bits .i64) (x.v c l) j)) s

/-- MAD.i64 (Table 5.5), scalar form -/
def execMadI64Scalar (h : Hd) (d a b c : SReg) (s : State) : Out :=
  scalOp (.madI64Scalar h d a b c) h 6 (some d)
    (fun x => mapSubs (IType.bits .i64) fun j => iMad (IType.bits .i64) (isSigned .i64) (sub (IType.bits .i64) (x.sreg a.toNat) j) (sub (IType.bits .i64) (x.sreg b.toNat) j)
      (sub (IType.bits .i64) (x.sreg c.toNat) j)) s

/-- MAD.n64 (Table 5.5) -/
def execMadN64 (h : Hd) (d a b c : VCode) (s : State) : Out :=
  vecOp (.madN64 h d a b c) h 6 (some d)
    (fun x l => mapSubs (IType.bits .n64) fun j => iMad (IType.bits .n64) (isSigned .n64) (sub (IType.bits .n64) (x.v a l) j) (sub (IType.bits .n64) (x.v b l) j)
      (sub (IType.bits .n64) (x.v c l) j)) s

/-- MAD.n64 (Table 5.5), scalar form -/
def execMadN64Scalar (h : Hd) (d a b c : SReg) (s : State) : Out :=
  scalOp (.madN64Scalar h d a b c) h 6 (some d)
    (fun x => mapSubs (IType.bits .n64) fun j => iMad (IType.bits .n64) (isSigned .n64) (sub (IType.bits .n64) (x.sreg a.toNat) j) (sub (IType.bits .n64) (x.sreg b.toNat) j)
      (sub (IType.bits .n64) (x.sreg c.toNat) j)) s

/-- DIV (R33) -/
def execDiv (h : Hd) (d a b : VCode) (t : IType) (s : State) : Out :=
  vecOp (.div h d a b t) h 24 (some d) (fun x l => bin t (fun w a b => iDiv w (isSigned t) a b) (x.v a l) (x.v b l)) s

/-- DIV (R33), scalar form -/
def execDivScalar (h : Hd) (d a b : SReg) (t : IType) (s : State) : Out :=
  scalOp (.divScalar h d a b t) h 24 (some d)
    (fun x => bin t (fun w a b => iDiv w (isSigned t) a b) (x.sreg a.toNat) (x.sreg b.toNat)) s

/-- REM (R33) -/
def execRem (h : Hd) (d a b : VCode) (t : IType) (s : State) : Out :=
  vecOp (.rem h d a b t) h 24 (some d) (fun x l => bin t (fun w a b => iRem w (isSigned t) a b) (x.v a l) (x.v b l)) s

/-- REM (R33), scalar form -/
def execRemScalar (h : Hd) (d a b : SReg) (t : IType) (s : State) : Out :=
  scalOp (.remScalar h d a b t) h 24 (some d)
    (fun x => bin t (fun w a b => iRem w (isSigned t) a b) (x.sreg a.toNat) (x.sreg b.toNat)) s

/-- MIN (Table 5.5) -/
def execMin (h : Hd) (d a b : VCode) (t : IType) (s : State) : Out :=
  vecOp (.min h d a b t) h 4 (some d)
    (fun x l => bin t (fun w a b => plain (iMin w (isSigned t) a b)) (x.v a l) (x.v b l)) s

/-- MIN (Table 5.5), scalar form -/
def execMinScalar (h : Hd) (d a b : SReg) (t : IType) (s : State) : Out :=
  scalOp (.minScalar h d a b t) h 4 (some d)
    (fun x => bin t (fun w a b => plain (iMin w (isSigned t) a b)) (x.sreg a.toNat) (x.sreg b.toNat)) s

/-- MAX (Table 5.5) -/
def execMax (h : Hd) (d a b : VCode) (t : IType) (s : State) : Out :=
  vecOp (.max h d a b t) h 4 (some d)
    (fun x l => bin t (fun w a b => plain (iMax w (isSigned t) a b)) (x.v a l) (x.v b l)) s

/-- MAX (Table 5.5), scalar form -/
def execMaxScalar (h : Hd) (d a b : SReg) (t : IType) (s : State) : Out :=
  scalOp (.maxScalar h d a b t) h 4 (some d)
    (fun x => bin t (fun w a b => plain (iMax w (isSigned t) a b)) (x.sreg a.toNat) (x.sreg b.toNat)) s

/-- ABS (Table 5.5) -/
def execAbs (h : Hd) (d a : VCode) (t : IType) (s : State) : Out :=
  vecOp (.abs h d a t) h 4 (some d) (fun x l => una t (fun w a => iAbs w (isSigned t) a) (x.v a l)) s

/-- ABS (Table 5.5), scalar form -/
def execAbsScalar (h : Hd) (d a : SReg) (t : IType) (s : State) : Out :=
  scalOp (.absScalar h d a t) h 4 (some d) (fun x => una t (fun w a => iAbs w (isSigned t) a) (x.sreg a.toNat)) s

/-- NEG (Table 5.5) -/
def execNeg (h : Hd) (d a : VCode) (t : IType) (s : State) : Out :=
  vecOp (.neg h d a t) h 4 (some d) (fun x l => una t (iNeg) (x.v a l)) s

/-- NEG (Table 5.5), scalar form -/
def execNegScalar (h : Hd) (d a : SReg) (t : IType) (s : State) : Out :=
  scalOp (.negScalar h d a t) h 4 (some d) (fun x => una t (iNeg) (x.sreg a.toNat)) s

/-- AND (Table 5.5) -/
def execAnd (h : Hd) (d a b : VCode) (t : IType) (s : State) : Out :=
  vecOp (.and h d a b t) h 4 (some d) (fun x l => bin t (fun _ a b => plain (a &&& b)) (x.v a l) (x.v b l)) s

/-- AND (Table 5.5), scalar form -/
def execAndScalar (h : Hd) (d a b : SReg) (t : IType) (s : State) : Out :=
  scalOp (.andScalar h d a b t) h 4 (some d)
    (fun x => bin t (fun _ a b => plain (a &&& b)) (x.sreg a.toNat) (x.sreg b.toNat)) s

/-- AND (R109), immediate form -/
def execAndImm (h : Hd) (d a : VCode) (t : IType) (imm : BitVec 15) (s : State) : Out :=
  vecOp (.andImm h d a t imm) h 4 (some d)
    (fun x l => immOp t (fun _ a b => plain (a &&& b)) (x.v a l) (immVal t.bits imm)) s

/-- AND (R109), immediate form, scalar form -/
def execAndImmScalar (h : Hd) (d a : SReg) (t : IType) (imm : BitVec 15) (s : State) : Out :=
  scalOp (.andImmScalar h d a t imm) h 4 (some d)
    (fun x => immOp t (fun _ a b => plain (a &&& b)) (x.sreg a.toNat) (immVal t.bits imm)) s

/-- OR (Table 5.5) -/
def execOr (h : Hd) (d a b : VCode) (t : IType) (s : State) : Out :=
  vecOp (.or h d a b t) h 4 (some d) (fun x l => bin t (fun _ a b => plain (a ||| b)) (x.v a l) (x.v b l)) s

/-- OR (Table 5.5), scalar form -/
def execOrScalar (h : Hd) (d a b : SReg) (t : IType) (s : State) : Out :=
  scalOp (.orScalar h d a b t) h 4 (some d)
    (fun x => bin t (fun _ a b => plain (a ||| b)) (x.sreg a.toNat) (x.sreg b.toNat)) s

/-- OR (R109), immediate form -/
def execOrImm (h : Hd) (d a : VCode) (t : IType) (imm : BitVec 15) (s : State) : Out :=
  vecOp (.orImm h d a t imm) h 4 (some d)
    (fun x l => immOp t (fun _ a b => plain (a ||| b)) (x.v a l) (immVal t.bits imm)) s

/-- OR (R109), immediate form, scalar form -/
def execOrImmScalar (h : Hd) (d a : SReg) (t : IType) (imm : BitVec 15) (s : State) : Out :=
  scalOp (.orImmScalar h d a t imm) h 4 (some d)
    (fun x => immOp t (fun _ a b => plain (a ||| b)) (x.sreg a.toNat) (immVal t.bits imm)) s

/-- XOR (Table 5.5) -/
def execXor (h : Hd) (d a b : VCode) (t : IType) (s : State) : Out :=
  vecOp (.xor h d a b t) h 4 (some d) (fun x l => bin t (fun _ a b => plain (a ^^^ b)) (x.v a l) (x.v b l)) s

/-- XOR (Table 5.5), scalar form -/
def execXorScalar (h : Hd) (d a b : SReg) (t : IType) (s : State) : Out :=
  scalOp (.xorScalar h d a b t) h 4 (some d)
    (fun x => bin t (fun _ a b => plain (a ^^^ b)) (x.sreg a.toNat) (x.sreg b.toNat)) s

/-- XOR (R109), immediate form -/
def execXorImm (h : Hd) (d a : VCode) (t : IType) (imm : BitVec 15) (s : State) : Out :=
  vecOp (.xorImm h d a t imm) h 4 (some d)
    (fun x l => immOp t (fun _ a b => plain (a ^^^ b)) (x.v a l) (immVal t.bits imm)) s

/-- XOR (R109), immediate form, scalar form -/
def execXorImmScalar (h : Hd) (d a : SReg) (t : IType) (imm : BitVec 15) (s : State) : Out :=
  scalOp (.xorImmScalar h d a t imm) h 4 (some d)
    (fun x => immOp t (fun _ a b => plain (a ^^^ b)) (x.sreg a.toNat) (immVal t.bits imm)) s

/-- ANDN (Table 5.5) -/
def execAndn (h : Hd) (d a b : VCode) (t : IType) (s : State) : Out :=
  vecOp (.andn h d a b t) h 4 (some d) (fun x l => bin t (fun w a b => plain (iAndn w a b)) (x.v a l) (x.v b l)) s

/-- ANDN (Table 5.5), scalar form -/
def execAndnScalar (h : Hd) (d a b : SReg) (t : IType) (s : State) : Out :=
  scalOp (.andnScalar h d a b t) h 4 (some d)
    (fun x => bin t (fun w a b => plain (iAndn w a b)) (x.sreg a.toNat) (x.sreg b.toNat)) s

/-- NOT (Table 5.5) -/
def execNot (h : Hd) (d a : VCode) (t : IType) (s : State) : Out :=
  vecOp (.not h d a t) h 4 (some d) (fun x l => una t (fun w a => plain (iNot w a)) (x.v a l)) s

/-- NOT (Table 5.5), scalar form -/
def execNotScalar (h : Hd) (d a : SReg) (t : IType) (s : State) : Out :=
  scalOp (.notScalar h d a t) h 4 (some d) (fun x => una t (fun w a => plain (iNot w a)) (x.sreg a.toNat)) s

/-- TLOG (R112) -/
def execTlog (h : Hd) (d a b : VCode) (tt : BitVec 8) (s : State) : Out :=
  vecOp (.tlog h d a b tt) h 4 (some d)
    (fun x l => whole (iTlog tt.toNat (x.v d l).toNat (x.v a l).toNat (x.v b l).toNat)) s

/-- TLOG (R112), scalar form -/
def execTlogScalar (h : Hd) (d a b : SReg) (tt : BitVec 8) (s : State) : Out :=
  scalOp (.tlogScalar h d a b tt) h 4 (some d)
    (fun x => whole (iTlog tt.toNat (x.sreg d.toNat).toNat (x.sreg a.toNat).toNat (x.sreg b.toNat).toNat)) s

/-- SHL (R108) -/
def execShl (h : Hd) (d a b : VCode) (t : IType) (s : State) : Out :=
  vecOp (.shl h d a b t) h 4 (some d) (fun x l => bin t (iShl) (x.v a l) (x.v b l)) s

/-- SHL (R108), scalar form -/
def execShlScalar (h : Hd) (d a b : SReg) (t : IType) (s : State) : Out :=
  scalOp (.shlScalar h d a b t) h 4 (some d) (fun x => bin t (iShl) (x.sreg a.toNat) (x.sreg b.toNat)) s

/-- SHL (R108), immediate form -/
def execShlImm (h : Hd) (d a : VCode) (t : IType) (imm : BitVec 15) (s : State) : Out :=
  vecOp (.shlImm h d a t imm) h 4 (some d) (fun x l => immOp t (iShl) (x.v a l) (imm.toNat)) s

/-- SHL (R108), immediate form, scalar form -/
def execShlImmScalar (h : Hd) (d a : SReg) (t : IType) (imm : BitVec 15) (s : State) : Out :=
  scalOp (.shlImmScalar h d a t imm) h 4 (some d) (fun x => immOp t (iShl) (x.sreg a.toNat) (imm.toNat)) s

/-- SHR (R108) -/
def execShr (h : Hd) (d a b : VCode) (t : IType) (s : State) : Out :=
  vecOp (.shr h d a b t) h 4 (some d) (fun x l => bin t (iShr) (x.v a l) (x.v b l)) s

/-- SHR (R108), scalar form -/
def execShrScalar (h : Hd) (d a b : SReg) (t : IType) (s : State) : Out :=
  scalOp (.shrScalar h d a b t) h 4 (some d) (fun x => bin t (iShr) (x.sreg a.toNat) (x.sreg b.toNat)) s

/-- SHR (R108), immediate form -/
def execShrImm (h : Hd) (d a : VCode) (t : IType) (imm : BitVec 15) (s : State) : Out :=
  vecOp (.shrImm h d a t imm) h 4 (some d) (fun x l => immOp t (iShr) (x.v a l) (imm.toNat)) s

/-- SHR (R108), immediate form, scalar form -/
def execShrImmScalar (h : Hd) (d a : SReg) (t : IType) (imm : BitVec 15) (s : State) : Out :=
  scalOp (.shrImmScalar h d a t imm) h 4 (some d) (fun x => immOp t (iShr) (x.sreg a.toNat) (imm.toNat)) s

/-- SAR (R108) -/
def execSar (h : Hd) (d a b : VCode) (t : IType) (s : State) : Out :=
  vecOp (.sar h d a b t) h 4 (some d) (fun x l => bin t (iSar) (x.v a l) (x.v b l)) s

/-- SAR (R108), scalar form -/
def execSarScalar (h : Hd) (d a b : SReg) (t : IType) (s : State) : Out :=
  scalOp (.sarScalar h d a b t) h 4 (some d) (fun x => bin t (iSar) (x.sreg a.toNat) (x.sreg b.toNat)) s

/-- SAR (R108), immediate form -/
def execSarImm (h : Hd) (d a : VCode) (t : IType) (imm : BitVec 15) (s : State) : Out :=
  vecOp (.sarImm h d a t imm) h 4 (some d) (fun x l => immOp t (iSar) (x.v a l) (imm.toNat)) s

/-- SAR (R108), immediate form, scalar form -/
def execSarImmScalar (h : Hd) (d a : SReg) (t : IType) (imm : BitVec 15) (s : State) : Out :=
  scalOp (.sarImmScalar h d a t imm) h 4 (some d) (fun x => immOp t (iSar) (x.sreg a.toNat) (imm.toNat)) s

/-- FSHL (R114) -/
def execFshl (h : Hd) (d a b c : VCode) (s : State) : Out :=
  vecOp (.fshl h d a b c) h 4 (some d) (fun x l => whole (iFshl (x.v a l).toNat (x.v b l).toNat (x.v c l).toNat)) s

/-- FSHL (R114), scalar form -/
def execFshlScalar (h : Hd) (d a b c : SReg) (s : State) : Out :=
  scalOp (.fshlScalar h d a b c) h 4 (some d)
    (fun x => whole (iFshl (x.sreg a.toNat).toNat (x.sreg b.toNat).toNat (x.sreg c.toNat).toNat)) s

/-- FSHR (R114) -/
def execFshr (h : Hd) (d a b c : VCode) (s : State) : Out :=
  vecOp (.fshr h d a b c) h 4 (some d) (fun x l => whole (iFshr (x.v a l).toNat (x.v b l).toNat (x.v c l).toNat)) s

/-- FSHR (R114), scalar form -/
def execFshrScalar (h : Hd) (d a b c : SReg) (s : State) : Out :=
  scalOp (.fshrScalar h d a b c) h 4 (some d)
    (fun x => whole (iFshr (x.sreg a.toNat).toNat (x.sreg b.toNat).toNat (x.sreg c.toNat).toNat)) s

/-- ROT (R108) -/
def execRot (h : Hd) (d a b : VCode) (t : IType) (s : State) : Out :=
  vecOp (.rot h d a b t) h 4 (some d) (fun x l => bin t (fun w a b => plain (iRot w a b)) (x.v a l) (x.v b l)) s

/-- ROT (R108), scalar form -/
def execRotScalar (h : Hd) (d a b : SReg) (t : IType) (s : State) : Out :=
  scalOp (.rotScalar h d a b t) h 4 (some d)
    (fun x => bin t (fun w a b => plain (iRot w a b)) (x.sreg a.toNat) (x.sreg b.toNat)) s

/-- ROT (R108), immediate form -/
def execRotImm (h : Hd) (d a : VCode) (t : IType) (imm : BitVec 15) (s : State) : Out :=
  vecOp (.rotImm h d a t imm) h 4 (some d)
    (fun x l => immOp t (fun w a b => plain (iRot w a b)) (x.v a l) (imm.toNat)) s

/-- ROT (R108), immediate form, scalar form -/
def execRotImmScalar (h : Hd) (d a : SReg) (t : IType) (imm : BitVec 15) (s : State) : Out :=
  scalOp (.rotImmScalar h d a t imm) h 4 (some d)
    (fun x => immOp t (fun w a b => plain (iRot w a b)) (x.sreg a.toNat) (imm.toNat)) s

/-- BFX (R116) -/
def execBfx (h : Hd) (d a b : VCode) (t : IType) (s : State) : Out :=
  vecOp (.bfx h d a b t) h 4 (some d)
    (fun x l => bin t (fun _ a b => plain (iBfx (isSigned t) a b)) (x.v a l) (x.v b l)) s

/-- BFX (R116), scalar form -/
def execBfxScalar (h : Hd) (d a b : SReg) (t : IType) (s : State) : Out :=
  scalOp (.bfxScalar h d a b t) h 4 (some d)
    (fun x => bin t (fun _ a b => plain (iBfx (isSigned t) a b)) (x.sreg a.toNat) (x.sreg b.toNat)) s

/-- BFI (R116) -/
def execBfi (h : Hd) (d a b : VCode) (t : IType) (s : State) : Out :=
  vecOp (.bfi h d a b t) h 4 (some d) (fun x l => whole (iBfi (x.v d l).toNat (x.v a l).toNat (x.v b l).toNat)) s

/-- BFI (R116), scalar form -/
def execBfiScalar (h : Hd) (d a b : SReg) (t : IType) (s : State) : Out :=
  scalOp (.bfiScalar h d a b t) h 4 (some d)
    (fun x => whole (iBfi (x.sreg d.toNat).toNat (x.sreg a.toNat).toNat (x.sreg b.toNat).toNat)) s

/-- POPC (Table 5.5) -/
def execPopc (h : Hd) (d a : VCode) (t : IType) (s : State) : Out :=
  vecOp (.popc h d a t) h 4 (some d) (fun x l => una t (fun w a => plain (popcount w a)) (x.v a l)) s

/-- POPC (Table 5.5), scalar form -/
def execPopcScalar (h : Hd) (d a : SReg) (t : IType) (s : State) : Out :=
  scalOp (.popcScalar h d a t) h 4 (some d) (fun x => una t (fun w a => plain (popcount w a)) (x.sreg a.toNat)) s

/-- CLZ (Table 5.5) -/
def execClz (h : Hd) (d a : VCode) (t : IType) (s : State) : Out :=
  vecOp (.clz h d a t) h 4 (some d) (fun x l => una t (fun w a => plain (clz w a)) (x.v a l)) s

/-- CLZ (Table 5.5), scalar form -/
def execClzScalar (h : Hd) (d a : SReg) (t : IType) (s : State) : Out :=
  scalOp (.clzScalar h d a t) h 4 (some d) (fun x => una t (fun w a => plain (clz w a)) (x.sreg a.toNat)) s

/-- CTZ (Table 5.5) -/
def execCtz (h : Hd) (d a : VCode) (t : IType) (s : State) : Out :=
  vecOp (.ctz h d a t) h 4 (some d) (fun x l => una t (fun w a => plain (ctz w a)) (x.v a l)) s

/-- CTZ (Table 5.5), scalar form -/
def execCtzScalar (h : Hd) (d a : SReg) (t : IType) (s : State) : Out :=
  scalOp (.ctzScalar h d a t) h 4 (some d) (fun x => una t (fun w a => plain (ctz w a)) (x.sreg a.toNat)) s

/-- BREV (Table 5.5) -/
def execBrev (h : Hd) (d a : VCode) (t : IType) (s : State) : Out :=
  vecOp (.brev h d a t) h 4 (some d) (fun x l => una t (fun w a => plain (brev w a)) (x.v a l)) s

/-- BREV (Table 5.5), scalar form -/
def execBrevScalar (h : Hd) (d a : SReg) (t : IType) (s : State) : Out :=
  scalOp (.brevScalar h d a t) h 4 (some d) (fun x => una t (fun w a => plain (brev w a)) (x.sreg a.toNat)) s

/-- BPERM (R114) -/
def execBperm (h : Hd) (d a b c : VCode) (s : State) : Out :=
  vecOp (.bperm h d a b c) h 4 (some d) (fun x l => whole (iBperm (x.v a l).toNat (x.v b l).toNat (x.v c l).toNat)) s

/-- BPERM (R114), scalar form -/
def execBpermScalar (h : Hd) (d a b c : SReg) (s : State) : Out :=
  scalOp (.bpermScalar h d a b c) h 4 (some d)
    (fun x => whole (iBperm (x.sreg a.toNat).toNat (x.sreg b.toNat).toNat (x.sreg c.toNat).toNat)) s

/-- CMP: flags of a − b, nothing else written (R117) -/
def execCmp (h : Hd) (a b : VCode) (t : IType) (s : State) : Out :=
  vecOp (.cmp h a b t) h 4 (none) (fun x l => bin t (fun w a b => iSub w a b 0) (x.v a l) (x.v b l)) s

/-- CMP: flags of a − b, nothing else written (R117), scalar form -/
def execCmpScalar (h : Hd) (a b : SReg) (t : IType) (s : State) : Out :=
  scalOp (.cmpScalar h a b t) h 4 (none)
    (fun x => bin t (fun w a b => iSub w a b 0) (x.sreg a.toNat) (x.sreg b.toNat)) s

/-- CMP, immediate form (R117) -/
def execCmpImm (h : Hd) (a : VCode) (t : IType) (imm : BitVec 15) (s : State) : Out :=
  vecOp (.cmpImm h a t imm) h 4 (none)
    (fun x l => immOp t (fun w a b => iSub w a b 0) (x.v a l) (immVal t.bits imm)) s

/-- CMP, immediate form (R117), scalar form -/
def execCmpImmScalar (h : Hd) (a : SReg) (t : IType) (imm : BitVec 15) (s : State) : Out :=
  scalOp (.cmpImmScalar h a t imm) h 4 (none)
    (fun x => immOp t (fun w a b => iSub w a b 0) (x.sreg a.toNat) (immVal t.bits imm)) s

/-- TST: flags of a AND b (R117) -/
def execTst (h : Hd) (a b : VCode) (t : IType) (s : State) : Out :=
  vecOp (.tst h a b t) h 4 (none) (fun x l => bin t (fun _ a b => plain (a &&& b)) (x.v a l) (x.v b l)) s

/-- TST: flags of a AND b (R117), scalar form -/
def execTstScalar (h : Hd) (a b : SReg) (t : IType) (s : State) : Out :=
  scalOp (.tstScalar h a b t) h 4 (none)
    (fun x => bin t (fun _ a b => plain (a &&& b)) (x.sreg a.toNat) (x.sreg b.toNat)) s

/-- SEL: a where the condition holds on the lane's cN, else b (R115). -/
def execSel (h : Hd) (d a b : VCode) (n : BitVec 2) (c : Cond) (s : State) : Out :=
  vecOp (.sel h d a b n c) h 4 (some d) (fun x l =>
    whole (if condHolds c (x.w.readCc x.clk n.toNat l) then x.v a l else x.v b l).toNat) s

/-- SEL, scalar form: the condition is tested on sf (R115). -/
def execSelScalar (h : Hd) (d a b : SReg) (c : Cond) (s : State) : Out :=
  scalOp (.selScalar h d a b c) h 4 (some d) (fun x =>
    whole (if condHolds c ((x.w.readSf x.clk).setWidth 4) then x.sreg a.toNat else x.sreg b.toNat).toNat) s

/-- LEA: a + (b << sh), with the flags of ADD.i64 (R115) -/
def execLea (h : Hd) (d a b : VCode) (sh : BitVec 6) (s : State) : Out :=
  vecOp (.lea h d a b sh) h 4 (some d)
    (fun x l => mapSubs 64 fun _ => iAdd 64 (x.v a l).toNat ((x.v b l).toNat * 2 ^ sh.toNat % 2 ^ 64) 0) s

/-- LEA: a + (b << sh), with the flags of ADD.i64 (R115), scalar form -/
def execLeaScalar (h : Hd) (d a b : SReg) (sh : BitVec 6) (s : State) : Out :=
  scalOp (.leaScalar h d a b sh) h 4 (some d)
    (fun x => mapSubs 64 fun _ => iAdd 64 (x.sreg a.toNat).toNat ((x.sreg b.toNat).toNat * 2 ^ sh.toNat % 2 ^ 64) 0) s

end Sys2Proof.Machine
end

