-- ==== Sys2Proof/Machine/Traffic.lean ====
section
/-! DEFINITION. Traffic under way when routes change or an endpoint stays silent (R337 to R340, R346): what each clk does to
rein messages, girth packets and loads that have not arrived. -/

namespace Sys2Proof.Machine

open Sys2Proof

/-- Rein messages (R337, R338, R346). A message whose route is gone leaves it, one that cannot reach its destination fails at
once, and one to an endpoint that takes no number yet stays as it is. -/
def State.settleRein (s : State) (id : Nat) : State :=
  match s.reins.find? (·.id == id) with
  | none => s
  | some m =>
    let gone (s : State) : State := { s with reins := dropIf (·.id == id) s.reins }
    if m.route.any (s.insideDrain m.src m.dst) then s
    else match s.messageReach m with
      | .fail r => ((gone s).reinFail m r).getD s
      | _ =>
        let late := m.num.isSome && decide (linkTime m.first + 3000000 ≤ linkTime s.clk)
        if late then ((gone s).reinFail m 4).getD s
        else
          let kept := m.route.filter (s.routeStands m.src m.dst)
          let older := (s.reins.takeWhile (·.id != id)).filter fun x => x.src == m.src && x.dst == m.dst
          let now := s.reinRoute? m.src m.dst
          let route := match kept with
            | some r => some r
            | none => if older.all (·.route == now) then now else none
          let s : State := { s with reins := s.reins.map fun x => if x.id == id then { x with route := route } else x }
          if m.dst < 8 || m.dst == saddle then s else (s.numberRein m).getD s

/-- A girth packet: it fails at once where its destination cannot be reached, and 1 ms after its first send where an endpoint has
not acknowledged it; where its path is gone it is sent again on another (R338, R346). -/
def State.settlePacket (s : State) (id : Nat) : State :=
  match s.packets.find? (·.id == id) with
  | none => s
  | some p =>
    if 8 ≤ p.dst && decide (linkTime p.first + 3000000 ≤ linkTime s.clk) then s.failPacket p 4
    else if p.arrived then s
    else match s.packetReach p with
      | .fail r => s.failPacket p r
      | .ok => s
      | .waits =>
        if s.pathStands true p.src p.path then s
        else match s.pickPath p.src p.dst id with
          | none => s
          | some path =>
            { s with packets := dropIf (·.id == id) s.packets ++ [{ p with path := path, last := s.clk }],
                     used := if s.used.contains (p.src, p.dst, path) then s.used else s.used ++ [(p.src, p.dst, path)] }

/-- The core asks an endpoint for lines of a load that it has not asked for yet: one request, a girth packet, for each (R191, Table
19.5a), none in a slot (R350), and as far as the endpoint takes numbers (R346). -/
def State.askLines (s : State) (wave id : Nat) : List Nat → State
  | [] => s
  | n :: r =>
    let next : Option State := do
      if s.inSlot then none
      let w ← s.wave? wave
      let l ← w.loads.find? (·.id == id)
      let at_ := (l.lanes.head?.map (·.addr)).getD 0
      let path ← s.pickPath (s.dieOf w) (homeOf at_) (id + n)
      let first := (l.lanes.find? fun x => meets (256 * n, 256) (x.addr, l.size)).map (·.addr)
      let s ← s.sendPacket (s.dieOf w) (homeOf at_) path (.read id) [(max (256 * n) (first.getD 0), 0)] 0 wave 0 l.pc l.code
      some (s.setWave { w with loads := w.loads.map fun m => if m.id == id then { m with asked := m.asked ++ [n] } else m })
    (next.getD s).askLines wave id r

/-- A load: it fails at once where its home cannot be reached; where the path of its requests is gone they are sent again on another
(R338, R339). Requests to an endpoint go out as packets of their own. -/
def State.settleLoad (s : State) (wave id : Nat) : State :=
  match s.wave? wave with
  | none => s
  | some w => match w.loads.find? (·.id == id) with
    | none => s
    | some l =>
      let at_ := (l.lanes.head?.map (·.addr)).getD 0
      let inside := l.via != 0 && s.insideDrain (s.dieOf w) (homeOf at_) (pathDies l.via)
      if l.lanes.all (·.got.isSome) || w.loadWaits l || inside then s
      else match s.loadReach w l with
        | .fail r => if l.atomic then s else s.failLoad w l LINK_PARTITION (linkInfo l.code r at_)
        | _ =>
          let s := s.askLines wave id ((s.farLines l).filter fun n => !l.asked.contains n)
          if l.via = 0 || s.pathStands true (s.dieOf w) l.via then s
          else
            let via := (s.pickPath (s.dieOf w) (homeOf at_) id).getD l.via
            s.setWave { w with loads := w.loads.map fun m => if m.id == id then { m with via := via } else m }

/-- A copy engine asks an endpoint for the bytes of its operation's next chunk (Table 19.5a, R346). -/
def State.askChunk (s : State) (o : CopyOp) : State :=
  let next : Option State := do
    let g ← s.group? o.group
    let n := s.chunkLen g o
    if !o.started || o.suspended || s.inSlot || o.len ≤ o.pos || o.asked == some o.pos then none
    let x ← s.chunkFrom? g o n
    if x.1.home < 8 then none
    let path ← s.pickPath g.die x.1.home (o.id + o.pos)
    let s ← s.sendPacket g.die x.1.home path (.read o.id) [(x.2, 0)] n 0 0 o.pc x.1.reg.code
    some (s.setOp { o with asked := some o.pos })
  next.getD s

/-- What the links of a clk do to traffic under way. -/
def State.settleTraffic (s : State) : State :=
  let s := (s.reins.map (·.id)).foldl (fun s i => s.settleRein i) s
  let s := (s.unacked.filter fun m => decide (linkTime m.first + 3000000 ≤ linkTime s.clk)).foldl (fun s m => s.loseSent m) s
  let s := (s.packets.map (·.id)).foldl (fun s i => s.settlePacket i) s
  let s := (s.ops.map (·.id)).foldl (fun s i => ((s.op? i).map s.askChunk).getD s) s
  (s.waves.filter fun w => !w.loads.isEmpty).foldl (fun s w => w.loads.foldl (fun s l => s.settleLoad w.uid l.id) s) s

/-! Traffic inside a die that drains (R340) -/

/-- Rein messages, packets and loads of other dies that are inside a die. -/
def State.reinsIn (s : State) (die : Nat) : List Rein :=
  s.reins.filter fun m => m.route.any fun r => (inner m.src m.dst r).contains die
@[inherit_doc State.reinsIn] def State.packetsIn (s : State) (die : Nat) : List Packet :=
  s.packets.filter fun p => !p.arrived && (inner p.src p.dst (pathDies p.path)).contains die
@[inherit_doc State.reinsIn] def State.loadsIn (s : State) (die : Nat) : List (Wave × LoadP) :=
  s.waves.flatMap fun w => (w.loads.filter fun l => l.via != 0 && l.lanes.any (·.got.isNone) &&
    (inner (s.dieOf w) (homeOf ((l.lanes.head?.map (·.addr)).getD 0)) (pathDies l.via)).contains die).map fun l => (w, l)

/-- No traffic of others is inside a die. -/
def State.crossed (s : State) (die : Nat) : Bool :=
  (s.reinsIn die).isEmpty && (s.packetsIn die).isEmpty && (s.loadsIn die).isEmpty

/-- Traffic still inside a die whose drain has expired is discarded, with reason 3. -/
def State.discardIn (s : State) (die : Nat) : State :=
  let s := (s.reinsIn die).foldl (fun s m => (({ s with reins := dropIf (·.id == m.id) s.reins } : State).reinFail m 3).getD s) s
  let s := (s.packetsIn die).foldl (fun s p => s.failPacket p 3) s
  (s.loadsIn die).foldl (fun s x => match s.wave? x.1.uid with
    | some w => match w.loads.find? (·.id == x.2.id) with
      | some l => s.failLoad w l LINK_PARTITION (linkInfo l.code 3 ((l.lanes.head?.map (·.addr)).getD 0))
      | none => s
    | none => s) s

end Sys2Proof.Machine
end

