-- ==== Sys2Proof/Machine/Links.lean ====
section
/-! DEFINITION. Links, their states and training (R332 to R336), die resets (R340, R341), isolation (R342), the fabric
(R343 to R346) and the privileged registers (R283, R331, R345, R347, R369, R372, R373). -/

namespace Sys2Proof.Machine

open Sys2Proof

/-! Link states (Table 19.3) -/

/-- Link n is a fabric port. -/
def isPort (n : Nat) : Bool := decide (32 ≤ n)

/-- The clk an attempt may take (R335): 50 µs on a die link, 2 s on a port. -/
def attemptTime (n : Nat) : Nat := if isPort n then 6000000000 else 150000

/-- A link outside the usable states: no lane is in use. -/
def Link.idle (l : Link) (st : Nat) : Link := { l with st := st, lanemap := 0, rlanes := 0, half := false, width := 0 }

/-- Training begins at attempt 1. -/
def Link.train (l : Link) (n now : Nat) : Link :=
  { l.idle 1 with attempts := 0, replayTimes := [], deadline := now + attemptTime n }

/-- A failed attempt: another one begins, or after the third the link is DOWN (R335). -/
def Link.failAttempt (l : Link) (n now : Nat) : Link :=
  if 2 ≤ l.attempts then { l.idle 0 with attempts := 3 }
  else { l with attempts := l.attempts + 1, deadline := now + attemptTime n }

/-- A fault (R336, Table 19.3). -/
def Link.fault (l : Link) (n now : Nat) : Link :=
  match l.st with
  | 1 => l.failAttempt n now
  | 2 | 3 =>
    let ts := now :: l.faultTimes.filter fun t => decide (now < t + 3000000000)
    if 3 ≤ ts.length then { l.idle 0 with faultTimes := ts } else { l.train n now with faultTimes := ts }
  | _ => l

/-- The Train command. -/
def Link.trainCmd (l : Link) (n now : Nat) : Link := if l.st ≤ 3 then l.train n now else l
/-- The Fence command. -/
def Link.fence (l : Link) : Link := if l.st = 5 then l else l.idle 4
/-- The Unfence command. -/
def Link.unfence (l : Link) (n now : Nat) : Link := if l.st = 4 then l.train n now else l
/-- The Retire command. -/
def Link.retire (l : Link) : Link := l.idle 5

/-- The links of a die: mesh, saddle, and the ports whose girth lanes it carries. -/
def dieLinks (die : Nat) : List Nat :=
  ((meshEnds.zipIdx.filter fun e => e.1.1 == die || e.1.2 == die).map (·.2)) ++ [16 + die, 32 + 2 * die, 33 + 2 * die]

/-- A command acts on a link; training results and faults of the same clk act before it (R334). -/
def State.command (s : State) (n : Nat) (f : Nat → Link → Link) : State :=
  s.setLink n { f n (s.link n) with after := s.clk + 1 }

/-- A command to every link of a die. -/
def State.mapLinks (s : State) (die : Nat) (f : Nat → Link → Link) : State :=
  (dieLinks die).foldl (fun s n => s.command n f) s

/-! Isolation (R342) -/

/-- A compute die without a rein route to the saddle die is isolated: its links are fenced and it is retired. -/
def State.isolateDie (s : State) (die : Nat) : State :=
  let d := s.die die
  if !d.retired && !d.inReset && d.resetting == .none && !s.saddleJoin true die then
    (s.mapLinks die fun _ l => l.fence).retireDie die 1
  else s

/-- Every die looked at, until no further die is isolated. -/
def State.isolate (s : State) : State :=
  (List.range 8).foldl (fun s _ => (List.range 8).foldl (fun s d => s.isolateDie d) s) s

/-- A link changed, with what follows for isolated dies. -/
def State.linkChange (s : State) (n : Nat) (l : Link) : State := (s.setLink n l).isolate

/-- LINK_TRAIN: CMD 1 (R334, Table 19.5). -/
def execLinkTrain (n : Nat) (s : State) : Out :=
  execEvent s fun s => some (s.command n fun n l => l.trainCmd n (linkTime s.clk)).isolate

/-- LINK_FENCE: CMD 2. -/
def execLinkFence (n : Nat) (s : State) : Out := execEvent s fun s => some (s.command n fun _ l => l.fence).isolate

/-- LINK_UNFENCE: CMD 3. -/
def execLinkUnfence (n : Nat) (s : State) : Out :=
  execEvent s fun s => some (s.command n fun n l => l.unfence n (linkTime s.clk)).isolate

/-- LINK_RETIRE: CMD 4. -/
def execLinkRetire (n : Nat) (s : State) : Out := execEvent s fun s => some (s.command n fun _ l => l.retire).isolate

/-! Training (R335) -/

/-- The result of two views: width, lanes, rein lanes, half speed (R333, R335); none when the link cannot run. -/
def trainResult (n : Nat) (a b : LinkView) : Option (Nat × BitVec 32 × Nat × Bool) :=
  let all := if isPort n then 8 else 32
  let set := (List.range all).filter fun i => a.lanes.getLsbD i && b.lanes.getLsbD i
  let most := min (min a.width b.width) set.length
  let rein := ((List.range (if isPort n then 1 else 2)).filter fun i => a.rein.getLsbD i && b.rein.getLsbD i).length
  match [all, all / 2, all / 4].find? (· ≤ most) with
  | none => none
  | some w =>
    if rein = 0 then none
    else some (w, BitVec.ofNat 32 (((set.take w).map fun i => 2 ^ i).sum), rein, a.half || b.half)

/-- A link in use with a training result: UP at full width, speed and rein lanes, else DEGRADED. -/
def Link.run (l : Link) (n : Nat) (r : Nat × BitVec 32 × Nat × Bool) : Link :=
  let whole := r.1 == (if isPort n then 8 else 32) && r.2.2.1 == (if isPort n then 1 else 2) && !r.2.2.2
  { l with st := if whole then 2 else 3, width := r.1, lanemap := r.2.1, rlanes := r.2.2.1, half := r.2.2.2, replays := 0,
           replayTimes := [], attempts := min 3 (l.attempts + 1) }

/-- A die whose reset is over is in service again once its links are usable (R341). -/
def State.backAgain (s : State) (d : Nat) : Bool := (s.die d).resetting == .reset && s.saddleJoin false d

/-- Dies come back into service; in full function their cores leave the recovery service (R193, R367). -/
def State.backInService (s : State) : State :=
  { s with dies := s.dies.zipIdx.map fun d => if s.backAgain d.2 then { d.1 with resetting := .none } else d.1,
           cores := s.cores.zipIdx.map fun c =>
             if s.stage == .full && s.backAgain (c.2 / 40) then { c.1 with service := false } else c.1 }

/-- The result of an attempt that ends in time: the one both ends compute, each from its own view and the view that it has of
the other end; none when the two differ (R335). -/
def agreed (n : Nat) (near far : LinkEnd) : Option (Nat × BitVec 32 × Nat × Bool) :=
  let r := trainResult n near.view near.seen
  if r = trainResult n far.seen far.view then r else none

/-- TRAINING_ATTEMPT (R335): an attempt of a TRAINING link ends. Each end publishes its view and reads the other's. -/
def execTrainingAttempt (n : Nat) (near far : LinkEnd) (s : State) : Out :=
  execEvent s fun s =>
    let l := s.link n
    let now := linkTime s.clk
    if l.st != 1 || s.clk < l.after then none
    else match (if now ≤ l.deadline then agreed n near far else none) with
      | some r => some ((s.linkChange n (l.run n r)).backInService)
      | none => some (s.linkChange n (l.failAttempt n now))

/-- An attempt does not outlast its time (R335). -/
def State.dueAttempts (s : State) : State :=
  linkNumbers.foldl (fun s n =>
    let l := s.link n
    if l.st == 1 && decide (l.deadline < linkTime s.clk) then s.linkChange n (l.failAttempt n (linkTime s.clk)) else s) s

/-! Faults (R336) -/

/-- LINK_FAULT: loss of signal. -/
def execLinkFault (n : Nat) (s : State) : Out :=
  execEvent s fun s =>
    if s.clk < (s.link n).after then none else some (s.linkChange n ((s.link n).fault n (linkTime s.clk)))

/-- FLIT_REPLAY (R336): it is counted; the 64th within 1 ms is a fault. -/
def execFlitReplay (n : Nat) (s : State) : Out :=
  execEvent s fun s =>
    let l := s.link n
    let now := linkTime s.clk
    if (l.st != 2 && l.st != 3) || s.clk < l.after then none
    else
      let ts := now :: l.replayTimes.filter fun t => decide (now < t + 3000000)
      let l := { l with replays := min 255 (l.replays + 1), replayTimes := ts }
      some (if 64 ≤ ts.length then s.linkChange n (l.fault n now) else s.setLink n l)

/-! Die resets (R340, R341) -/

/-- A die that serves its package: not retired, not held in reset. -/
def State.inService (s : State) (d : Nat) : Bool := !(s.die d).retired && !(s.die d).inReset

/-- Without a die, every pair of other dies keeps a route, and every other die one to the saddle die (R340). -/
def State.keepsRoutes (s : State) (die : Nat) : Bool :=
  let t := s.mapLinks die fun _ l => l.fence
  let ds := (List.range 8).filter fun d => d != die && s.inService d
  ds.all fun a => t.saddleJoin false a && ds.all fun b => (t.hops? false a b).isSome

/-- The fence phase: the die's links are fenced and its groups end; the drain phase begins. -/
def State.startReset (s : State) (die : Nat) : State :=
  let s := ((s.mapLinks die fun _ l => l.fence).endGroups die none)
  (s.setDie die { s.die die with resetting := .drain (linkTime s.clk + 60000) }).isolate

/-- A die reset is requested (R340): refused where it would part others, unless forced. -/
def State.resetDie (s : State) (die : Nat) (force : Bool) : Option State :=
  if !s.inService die || (s.die die).resetting != .none || (!force && !s.keepsRoutes die) then none
  else some (s.startReset die)

/-- DIE_RESET at the rigging's request. -/
def execDieReset (die : Nat) (force : Bool) (s : State) : Out := execEvent s fun s => s.resetDie die force

/-- The reset phase: what the die holds is lost, and its links receive a Train command. -/
def State.finishReset (s : State) (die : Nat) : State :=
  let s := s.loseDie die
  let s := s.setDie die { s.die die with resetting := .reset }
  s.mapLinks die fun n l => if l.st = 5 then l else l.train n (linkTime s.clk)

/-- DIE_DRAIN_DONE (R340): no traffic of others inside the die, and no residue in its brand table. -/
def execDieDrainDone (die : Nat) (s : State) : Out :=
  execEvent s fun s =>
    if s.draining die && s.crossed die && (s.die die).entries.all (·.kind != .residue) then some (s.finishReset die) else none

/-- The drain phase of a die has lasted 60,000 clk: traffic still inside is discarded, and the die is reset (R340). -/
def State.drainOut (s : State) (die : Nat) : Option State :=
  match (s.die die).resetting with
  | .drain t => if linkTime s.clk < t then none else some ((s.discardIn die).finishReset die)
  | _ => none

/-- DRAIN_EXPIRY (R340). -/
def execDrainExpiry (die : Nat) (s : State) : Out := execEvent s fun s => s.drainOut die

/-! The fabric table and the inbound windows (R345) -/

/-- FABRIC_TABLE_WRITE (R345): refused with V set and no port, or when more than 64 ephemeral entries would be valid. -/
def execFabricTableWrite (e : Nat) (v : Word) (s : State) : Out :=
  execEvent s fun s =>
    let w := v &&& 0xFFFF0003
    let t := wset s.fabric e w
    if w.getLsbD 0 && (fld w 16 16 = 0 || decide (64 < (t.filter fun x => x.2.getLsbD 0 && !x.2.getLsbD 1).length)) then none
    else some { s with fabric := t }

/-- A window that the saddle tree sets (R345): its IA range stays in IA spaces 0 to 2, in one home field, and holds no
unbacked address. -/
def Window.ok (w : Window) : Bool :=
  let last := w.ia + w.len - 1
  let backed (a : Nat) : Nat := match iaSpace w.ia with
    | 0 => a / 2 ^ 44
    | 1 => a / 2 ^ 28
    | _ => a / 2 ^ 20
  decide (w.ia / 2 ^ 48 ≤ 2) && (w.len == 0 || (!unbacked w.ia && !unbacked last && backed w.ia == backed last))

/-- INBOUND_WINDOW_WRITE (R345). -/
def execInboundWindowWrite (n : Nat) (w0 w1 w2 w3 : Word) (s : State) : Out :=
  execEvent s fun s =>
    if !(windowOf w0 w1 w2 w3).ok then none
    else some { s with windows := wset (wset (wset (wset s.windows (4 * n) (w0 &&& 0x00003FFF0000007F))
      (4 * n + 1) (w1 &&& 0x3FFFFF000)) (4 * n + 2) (w2 &&& 0x000FFFFFFFFFF000)) (4 * n + 3) (w3 &&& 0x7FFFFF) }

/-! Inbound accesses (R344) -/

/-- A refused access (R344): it is counted at its port and has no effect. -/
def State.refuseAt (s : State) (port : Nat) : State :=
  let l := s.link (32 + port)
  s.setLink (32 + port) { l with refused := min 63 (l.refused + 1) }

/-- Permissions that a grant request needs (R345). -/
def kindPerm : Kind → Nat
  | .s => 1
  | .x => 3
  | .a => 4

/-- Inbound traffic over a port reaches a home die, on the girth plane or on the rein plane. -/
def State.inboundReach (s : State) (port home : Nat) (girth : Bool) : Bool :=
  if s.dieGone home then false
  else if girth then s.portGirth false port && (s.hops? false (port / 2) home).isSome else s.saddleJoin false home

/-- An endpoint's access at its home, line by line: each line acts, or parks until its page is mapped (R327); the access ends
once no line is parked. -/
def State.inboundAt (s : State) (ep port win ia : Nat) (acc : InAcc) (flag : Option Nat) : State :=
  let (s, id) := s.fresh
  let x : Inbound := { id := id, ep := ep, port := port, win := win, ia := ia, acc := acc }
  let s := x.lines.foldl (fun s a => match s.walk a with
    | (s, none) => s.inboundLine x a
    | (s, some (reason, level)) =>
      s.parkAt (iaDie a % 8) { ref := .inbound id, ia := a, ctx := none, since := s.clk } reason level) s
  if s.isParked (.inbound id) then { s with inbound := s.inbound ++ [x] } else s.inboundEnd x flag

/-- INBOUND_ACCESS (R344): an access that arrives over a usable port is refused, or acts as Table 19.5a states. In a slot the
port gives no credits to girth packets, which wait at the far end: none arrives (R350). What a load answers leaves the
device. -/
def execInboundAccess (ep win port : Nat) (acc : InAcc) (s : State) : Out :=
  execEvent s fun s => do
    let girth : Bool := match acc with
      | .load _ _ | .write _ _ _ => true
      | .ret _ _ _ bytes => !bytes.isEmpty
      | _ => false
    if !(s.link (32 + port)).carries false || (girth && s.inSlot) then none
    let s := s.touchDeliv ep
    let here (ia : Nat) : Bool := s.inboundReach port (homeOf ia) girth
    match acc with
    | .load off_ len =>
      match s.inboundIa? ep win off_ len 1 with
      | none => some (s.refuseAt port)
      | some ia => if here ia then some (s.inboundAt ep port win ia acc none) else none
    | .write off_ bytes flag =>
      match s.inboundIa? ep win off_ bytes.length 2 with
      | none => some (s.refuseAt port)
      | some ia =>
        if !here ia then none
        match flag with
        | none => some (s.inboundAt ep port win ia acc none)
        | some f => match s.inboundIa? ep win f 8 2 with
          | none => some ((s.inboundAt ep port win ia acc none).refuseAt port)
          | some fa => some (s.inboundAt ep port win ia acc (some fa))
    | .atomic off_ op wide x y =>
      let t : IType := if wide then .n64 else .n32
      match s.inboundIa? ep win off_ (itypeBytes t) 4 with
      | none => some (s.refuseAt port)
      | some ia =>
        if !here ia then none
        let (s, id) := s.fresh
        let a : HAtom := { id := id, pc := 0, code := 31, wave := 0, load := 0, gid := 0, op := op, t := t,
                           lanes := [{ lane := 0, addr := ia, x := x, y := y }], entries := 0 }
        some { s with hqs := s.hqs ++ [(homeOf ia, a)] }
    | .grantReq off_ len kind =>
      match s.inboundIa? ep win off_ len (kindPerm kind) with
      | none => some (s.refuseAt port)
      | some ia =>
        if ia % 256 != 0 || len % 256 != 0 || len == 0 then some (s.refuseAt port)
        else
          if !here ia then none
          let (s, rid) := s.fresh
          some (s.enqueue (homeOf ia) { rid := rid, src := 320 * 4 + 1024 + ep, who := .endpoint ep, ia := ia, len := len, kind := kind,
                                        tryIt := false, ctx := 0, die := 8, sector := 0, det := none })
    | .ret off_ len kind bytes =>
      match s.inboundIa? ep win off_ len (if bytes.isEmpty then 0 else 2) with
      | none => some (s.refuseAt port)
      | some ia =>
        if !here ia || bytes.any fun b => decide (len ≤ b.1) then none
        some (s.inboundAt ep port win ia acc none)

/-! Reliability (R346) -/

/-- Traffic to an endpoint is sent again 16 µs after its last send. -/
def resendDue (clk last : Nat) : Bool := decide (linkTime last + 48000 ≤ linkTime clk)

/-- A packet, or a rein message that has its number, is sent again. -/
def State.resend? (s : State) (id : Nat) : Option State :=
  match s.packets.find? (·.id == id) with
  | some p =>
    if p.dst < 8 || !p.numbered || s.inSlot || !resendDue s.clk p.last then none
    else some (({ s with packets := replace (·.id == id) { p with last := s.clk } s.packets } : State).touchDeliv (p.dst - 8))
  | none => do
    let m ← (s.reins ++ s.unacked).find? (·.id == id)
    if m.num.isNone || m.dst < 8 || m.dst == saddle || !resendDue s.clk m.last then none
    some (({ s with reins := replace (·.id == id) { m with last := s.clk } s.reins,
                    unacked := replace (·.id == id) { m with last := s.clk } s.unacked } : State).touchDeliv (m.dst - 8))

/-- PACKET_RESEND. -/
def execPacketResend (id : Nat) (s : State) : Out := execEvent s fun s => s.resend? id

/-- SELECTIVE_ACK: the packets and messages of a window whose bits are set and that have arrived are acknowledged. Those that left under this
mode keep it (R345). -/
def execSelectiveAck (ep win : Nat) (bitmap : Word) (s : State) : Out :=
  execEvent s fun s =>
    let hit (num : Nat) : Bool := num / 64 == win && bitmap.getLsbD (num % 64)
    let ids := (s.packets.filter fun p => p.dst == 8 + ep && p.sel && p.arrived && hit p.num).map (·.id) ++
      (s.unacked.filter fun m => m.dst == 8 + ep && m.sel && m.num.any hit).map (·.id)
    some ((s.acks.filter fun a => ids.contains a.id).foldl (fun s a => s.acked a) s)

/-- A delivery context has seen no traffic for 8 µs. -/
def State.idleDeliv (s : State) (d : Deliv) : Bool := decide (linkTime d.last + 24000 ≤ linkTime s.clk)

/-- DELIVERY_CONTEXT_CLOSE. -/
def execDeliveryContextClose (ep : Nat) (s : State) : Out :=
  execEvent s fun s => do
    let d ← s.delivs.find? (·.ep == ep)
    if s.idleDeliv d then some { s with delivs := dropIf (·.ep == ep) s.delivs } else none

/-- PACKET_TIMEOUT: 1 ms after the first send, the packet or message fails with reason 4. -/
def execPacketTimeout (id : Nat) (s : State) : Out :=
  execEvent s fun s =>
    let late (first : Nat) : Bool := decide (linkTime first + 3000000 ≤ linkTime s.clk)
    match s.packets.find? (·.id == id), s.unacked.find? (·.id == id) with
    | some p, _ => if p.dst < 8 || !late p.first then none else some (s.failPacket p 4)
    | none, some m => if late m.first then some (s.loseSent m) else none
    | none, none => none

/-- What the clk does to links and to the traffic on them: attempts and drains that have taken their time end (R335, R340),
traffic follows the routes (R337, R338), what an endpoint has not acknowledged is sent again, and idle delivery contexts close
(R346). -/
def State.dueLinks (s : State) : State :=
  let s := (List.range 8).foldl (fun s d => (s.drainOut d).getD s) s.dueAttempts
  let s := s.settleTraffic
  let s := (s.packets.map (·.id) ++ (s.reins ++ s.unacked).map (·.id)).foldl (fun s i => (s.resend? i).getD s) s
  { s with delivs := dropIf s.idleDeliv s.delivs }

/-! Registers without an event of their own -/

/-- GMIB_WRITE (R283): it takes effect only while every table of the die is empty and no held grant or running SLATEW
reaches the new store. -/
def execGmibWrite (die : Nat) (v : BitVec 6) (s : State) : Out :=
  execEvent s fun s =>
    let d := s.die die
    let base := 2 ^ 48 + die * 2 ^ 44 + (2 ^ 28 - v.toNat * 2 ^ 20)
    let top := 2 ^ 48 + die * 2 ^ 44 + 2 ^ 28
    let reaches (ia len : Nat) : Bool := meets (ia, len) (base, top - base)
    let used := d.entries.any (fun e => e.kind != .residue && reaches e.ia e.len) || s.queues.any fun q => q.inflight.any fun c =>
      match c.2 with
      | .slatew _ dst len => reaches dst len
      | _ => false
    if 32 < v.toNat || d.tables.any (·.n != 0) || used then none else some (s.setDie die { d with gmib := v.toNat })

/-- A word of a queue descriptor written (Table 15.1); words 3 to 5 and reserved bits take nothing. -/
def Queue.write (q : Queue) (word : Nat) (v : Word) : Queue :=
  match word with
  | 0 => { q with ring := fld v 12 40 * 4096, capl := fld v 0 4 }
  | 1 => { q with dbell := fld v 3 49 * 8 }
  | 2 => { q with owner := fld v 10 6, priv := v.getLsbD 9, prio := fld v 6 3 }
  | _ => q

/-- The rigging runs: stage 1 has loaded it, and no restart has found its image refused (R369, R375). -/
def State.riggingRuns (s : State) : Bool :=
  (match s.stage with
  | .s2 | .s3 | .full => true
  | _ => false) && !s.ladder.any fun l => l.1 == 3 && l.2.1 == 1

/-- CMD 1 of jxswap (R371): the verification of the image at IMG begins. A request while another swap is in progress is
ignored. -/
def State.startSwap (s : State) : State :=
  if !s.riggingRuns || s.swapStat = 1 || s.swapStat = 2 then s else { s with swapStat := 1, swapFrom := s.swapImg }

/-! What reads of privileged registers answer (R372, R373) -/

/-- A word of numbers placed at bit positions. -/
def pack (l : List (Nat × Nat)) : Word := wd ((l.map fun x => x.2 * 2 ^ x.1).sum)

/-- Words of a die's translation block (Table 18.3). -/
def Die.xlatWord (d : Die) : Nat → Word
  | 0 => d.ptroot
  | 2 => wd (b2n d.busy)
  | 3 => d.conflicts
  | 4 => wd d.lastconf
  | 5 => wd d.parked.length
  | 6 => d.bounced
  | _ => 0

/-- Words of a link (Table 19.5). -/
def Link.word (l : Link) : Nat → Word
  | 0 => pack [(32, l.lanemap.toNat), (24, l.replays), (22, l.attempts), (16, l.refused), (14, l.rlanes), (12, b2n l.half),
               (6, l.width), (0, l.st)]
  | _ => 0

/-- Words of a queue descriptor (Table 15.1). -/
def Queue.word (q : Queue) : Nat → Word
  | 0 => wd (q.ring + q.capl)
  | 1 => wd q.dbell
  | 2 => pack [(10, q.owner), (9, b2n q.priv), (6, q.prio), (0, q.st)]
  | 3 => wd q.consumed
  | 4 => q.mark
  | 5 => wd q.err
  | _ => 0

/-- Words of a Geode block (Table 13.2). -/
def Die.geodeWord (d : Die) : Nat → Word
  | 0 => wd d.gmib
  | i + 1 => match d.tables[i]? with
    | some t => pack [(48, t.owner), (32, t.base), (0, t.n)]
    | none => 0

/-- The word at an 8-byte offset of privileged device space (Table 21.3); any other offset reads zero. -/
def State.devWord (s : State) (off_ : Nat) : Word :=
  let o (base : Nat) : Nat := off_ - base
  if off_ < 0x800 then (s.die (off_ / 0x100)).xlatWord (off_ % 0x100 / 8)
  else if 0x10000 ≤ off_ && off_ < 0x10300 then
    let n := o 0x10000 / 16
    if linkNumbers.contains n then (s.link n).word (off_ % 16 / 8) else 0
  else if 0x20000 ≤ off_ && off_ < 0x20120 then
    let b := o 0x20000 / 32
    let d := s.die b
    if b = 8 then [s.msens0, s.msens1].getD (off_ % 32 / 8) 0 else [d.sens0, d.sens1, d.sens2].getD (off_ % 32 / 8) 0
  else if 0x30000 ≤ off_ && off_ < 0x3C000 then (s.queue (o 0x30000 / 48)).word (o 0x30000 % 48 / 8)
  else if 0x40000 ≤ off_ && off_ < 0x40400 then (s.die (o 0x40000 / 0x80)).geodeWord (off_ % 0x80 / 8)
  else if 0x100000 ≤ off_ && off_ < 0x110000 then wget s.fabric (o 0x100000 / 8)
  else if 0x200000 ≤ off_ && off_ < 0x202000 then wget s.windows (o 0x200000 / 8)
  else 0

/-- Brand-table entry words (Table 21.4a). -/
def BEnt.word (e : BEnt) : Nat → Word
  | 0 => wd (e.ia / 256 * 256)
  | 1 => wd (e.len / 256 * 256)
  | 2 =>
    let kind := match e.kind with
      | .x => 0
      | .s => 1
      | .a => 2
      | .residue => 3
    let count := match e.kind with
      | .x => 1
      | .residue => 0
      | _ => e.count
    pack ([(63, 1), (61, kind), (55, e.ctx), (0, count)] ++ match e.ep with
      | some p => [(48, 1), (34, p)]
      | none => [(52, e.die), (50, e.sector), (49, b2n e.stg.isSome)])
  | _ => 0

/-- A read of jxbrandw (R374). -/
def State.brandWord (s : State) : Word :=
  match s.entry? (fld (s.brandw.setWidth 64) 14 3) (fld (s.brandw.setWidth 64) 0 14) with
  | some e => e.word (fld (s.brandw.setWidth 64) 17 2)
  | none => 0

end Sys2Proof.Machine
end

