-- ==== Sys2Proof/Machine/Slots.lean ====
section
/-! DEFINITION. Maintenance slots (R348 to R353), the sensor sweep (R354, R355), the stall sampler's samples (R356 to
R360). -/

namespace Sys2Proof.Machine

open Sys2Proof

/-! Slots -/

/-- The number of the period a clk lies in (R348). -/
def slotNumber (clk : Nat) : Nat := clk / 65536

/-- The kind mask of slot n (Table 20.1). -/
def slotKinds (n : Nat) : Nat := 0x13 + (if n % 16 = 0 then 4 else 0) + if n % 64 = 0 then 8 else 0

/-- A read of jxslotcal (Table 21.4); the timebase counts from stage 0 on (R348). -/
def State.slotCal (s : State) : Word :=
  let n := slotNumber s.clk
  if s.stage == .off then 0 else
  pack [(16, (n + 1) % 2 ^ 48), (8, if s.clk % 65536 < 2048 then slotKinds n else 0), (0, slotKinds (n + 1))]

/-- A SLOT_OVERRUN record (R353), and at the second consecutive slot a fatal fault (R352). -/
def State.overrun (s : State) (wave : Nat) (pc : Word) (engine core die count n : Nat) : State :=
  match s.wave? wave with
  | none => s
  | some w => match s.kernelOf? w with
    | none => s
    | some k =>
      let info := pack [(0, engine), (4, core), (10, die), (13, count), (16, n % 2 ^ 48)]
      let s := s.record k.ctx { clk := s.clk, pc := pc, info := info, kid := k.kid, code := SLOT_OVERRUN, source := 2, wave := w.index }
      if 2 ≤ count then s.fatal k.ctx else s

/-- The overrun count of an operation that is active at slot n: 2 when it was active at the slot before (R352). -/
def overrunCount (last : Option Nat) (n : Nat) : Nat := if n ≠ 0 && last == some (n - 1) then 2 else 1

/-- A chunk of an operation's running segment has still to be performed (R244). -/
def State.segmentLeft (s : State) (o : CopyOp) : Bool :=
  decide (o.pos < o.len) && (s.group? o.group).any fun g => decide (o.pos + s.chunkLen g o ≤ o.segEnd)

/-- A copy operation is active at a slot's start: a segment of it has started and is not complete, a chunk of it on its way to
another die included, and it does not only wait for parked chunks (R210, R328, R352). -/
def State.activeOp (s : State) (o : CopyOp) : Bool :=
  o.started && s.slotBound o && ((s.segmentLeft o && !s.onlyParked (.chunk o.id)) ||
    s.packets.any fun p => p.kind == .chunk o.id && !p.arrived && !s.onlyParked (.packet p.id))

/-- An active copy operation suspended. -/
def State.suspendOp (s : State) (n : Nat) (o : CopyOp) : State :=
  let c := overrunCount o.overran n
  (s.setOp { o with suspended := true, overran := some n }).overrun o.wave o.pc 0 (o.core % 40) (o.core / 40) c n

/-- A running search suspended. -/
def State.suspendSearch (s : State) (n die : Nat) (x : Search) : State :=
  let c := overrunCount x.overran n
  (s.setSearch die { x with suspended := true, overran := some n }).overrun x.wave x.pc 1 0 die c n

/-- A slot begins (R352): active slot-bound work is suspended and recorded. -/
def State.beginSlot (s : State) : State :=
  let n := slotNumber s.clk
  let ops := s.ops.filter s.activeOp
  let s := ops.foldl (fun s o => s.suspendOp n o) { s with inSlot := true }
  (List.range 8).foldl (fun s d => ((s.die d).searches.filter (·.left.isSome)).foldl (fun s x => s.suspendSearch n d x) s) s

/-- SLOT_BEGIN (R348, R352). -/
def execSlotBegin (s : State) : Out :=
  execEvent s fun s => if s.inSlot || s.clk % 65536 != 0 then none else some s.beginSlot

/-- A slot ends: what was paused resumes (R350, R352). -/
def State.endSlot (s : State) : State :=
  { s with inSlot := false, ops := s.ops.map fun o => { o with suspended := false },
           dies := s.dies.map fun d => { d with searches := d.searches.map fun x => { x with suspended := false } } }

/-- SLOT_END (R350). -/
def execSlotEnd (s : State) : Out :=
  execEvent s fun s => if !s.inSlot || s.clk % 65536 < 2048 then none else some s.endSlot

/-! Sensors (R354, R355) -/

/-- A signed reading in units of 1/16 °C has reached a temperature in °C. -/
def reached (t : BitVec 16) (deg : Int) : Bool := decide (deg * 16 ≤ t.toInt)

/-- One die's readings of sweep n; a die in reset keeps its last ones. A second sweep in turn at 115 °C retires the die. -/
def State.sweepDie (s : State) (n die : Nat) (r : BitVec 16 × BitVec 16 × BitVec 32 × BitVec 16) : State :=
  let d := s.die die
  if d.inReset || d.resetting == .reset then s
  else
    let hot := reached r.1 115
    let s := s.setDie die { d with
      sens0 := pack [(48, n % 65536), (16, r.1.toNat), (0, r.2.1.toNat)],
      sens1 := pack [(32, r.2.2.1.toNat), (0, r.2.2.2.toNat)],
      sens2 := d.sens2 ||| pack [(1, b2n hot), (0, b2n (reached r.1 100))],
      hotAt := if hot then some n else none }
    if hot && n != 0 && d.hotAt == some (n - 1) then s.retireDie die 2 else s

/-- The sweep of a slot is due: at its last clk, once (R354). -/
def State.sweepDue (s : State) : Bool :=
  s.stage != .off && s.clk % 65536 == 2047 && s.swept != some (slotNumber s.clk)

/-- Readings written by the sweep of the slot (R354). -/
def State.sweep (s : State) (r : Readings) : State :=
  let n := slotNumber s.clk
  let s : State := { s with swept := some n,
                            msens0 := pack [(48, n % 65536), (32, r.vin.toNat), (16, r.tout.toNat), (0, r.tin.toNat)],
                            msens1 := pack [(32, r.pmod.toNat), (0, r.ppkg.toNat)] }
  (r.dies.take 8).zipIdx.foldl (fun s x => s.sweepDie n x.2 x.1) s

/-- SENSOR_SWEEP (R354), with the readings that the sensors give. -/
def execSensorSweep (r : Readings) (s : State) : Out :=
  execEvent s fun s => if s.sweepDue then some (s.sweep r) else none

/-- The readings of a sweep for which no event gives any: free values (assumption 77). -/
def freeReadings (clk : Nat) : Readings :=
  let v (i : Nat) : BitVec 64 := Config.reading clk i
  { dies := (List.range 8).map fun d => ((v d).setWidth 16, ((v d) >>> 16).setWidth 16, (v (8 + d)).setWidth 32, ((v d) >>> 32).setWidth 16),
    tin := (v 16).setWidth 16, tout := (v 17).setWidth 16, vin := (v 18).setWidth 16, ppkg := (v 19).setWidth 32,
    pmod := (v 20).setWidth 32 }

/-- A slot does not pass without its sweep (R349). -/
def State.dueSweep (s : State) : State := if s.sweepDue then s.sweep (freeReadings s.clk) else s

/-! Samples (R357 to R360) -/

/-- The region registers that an access or a copy names. -/
def accessRegs : Instr → List GCode
  | .ld _ _ g _ _ _ _ | .st _ _ g _ _ _ _ | .ldp _ _ g _ _ _ | .stp _ _ g _ _ _ | .atom _ _ g _ _ _ | .rst _ g _ _ _
  | .ratom _ _ g _ _ _ | .pref _ g _ _ _ => [g]
  | .hld _ _ a _ | .hst _ _ a _ => match a with
    | .region g => [g]
    | _ => []
  | .copy _ d a _ _ | .copy2 _ d a _ _ | .gath _ d a _ _ | .scat _ d a _ _ => [d, a].filterMap fun e => match e with
    | .region g => some g
    | _ => none
  | _ => []

/-- The flag register that a word names in its descriptor or control word (R190, R242). -/
def Iss.flagReg? (x : Iss) : Instr → Option Nat
  | .rst _ _ _ _ c => some ((x.sreg c.toNat).toNat % 32)
  | .copy _ _ _ _ c | .copy2 _ _ _ _ c | .gath _ _ _ _ c | .scat _ _ _ _ c => match ctlOf (x.sreg c.toNat) with
    | .ok ctl => if ctl.flg then some ctl.freg else none
    | .error _ => none
  | _ => none

/-- A register that a word accesses, or sets a flag through, is WAITING. -/
def Iss.grantWaits (x : Iss) (i : Instr) : Bool :=
  ((accessRegs i).map (·.toNat) ++ (x.flagReg? i).toList).any fun c => (x.s.reg? (x.regRef c)).any (·.st == .waiting)

/-! Readiness of a fetched word (R319, conditions 3 to 5) -/

/-- The issue fields of any word: those of a full-form word, or the stall count of slot Y (R66). -/
def wordHd (v : Word) : Hd :=
  if v.getLsbD 63 then { lgc := 0, lgcond := .al, ug := .al, sc := BitVec.ofNat 4 (fld v 1 3), x := 0 }
  else (unpackFields (lo 63 v)).hd

/-- The scoreboard and the pipe let a word issue (R319, conditions 3 and 4). A word whose uniform guard fails reads only sf
and needs no pipe (R58). -/
def Iss.clear (x : Iss) (v : Word) (us : List Use) : Bool :=
  if x.guard (wordHd v) then
    !x.s.held x.w x.frame us && (!vectorPipe v || decide (x.core.pipes.getD x.w.quad 0 ≤ x.clk))
  else !x.s.held x.w x.frame (us.filter (·.pos == 43))

/-- The issuing wave of a state has issued in another, or its offer was rejected there (R193). -/
def State.hasIssued (s t : State) : Bool :=
  decide (s.issued.length < t.issued.length) || match s.cur with
    | some u => (t.wave? u).any (·.lastIssue == some s.clk)
    | none => false

/-- A wave's fetched word would issue in this clk: nothing holds its registers or its pipe, and no wait holds it. A word that
decode refuses has no wait of its own. -/
def State.readyWord (s : State) (w : Wave) (v : Word) : Bool :=
  let s : State := { s.setWave { w with hold := .none } with cur := some w.uid }
  match s.iss? with
  | none => false
  | some x => x.clear v (s.decUses w (decodeWord v)) && match decodeWord v with
    | .word [] i => !s.slotHolds w i && match probe i s with
      | .next t => s.hasIssued t
      | _ => false
    | _ => true

/-- DEFERRED_FAULT_TAKEN (R291): a wave that would issue takes its oldest deferred fault. -/
def execDeferredFaultTaken (w : Nat) (s : State) : Out :=
  execEvent s fun s => do
    let w ← s.wave? w
    let p ← s.offered? w
    if w.deferred.isEmpty then none
    match s.fetch (s.coreOf w) (s.ctxOf w) p.pc.toNat with
    | .miss _ => none
    | .fault => some (s.takeDeferred w p)
    | .word v => if s.readyWord w v then some (s.takeDeferred w p) else none

/-! The class of a sample (Table 20.4) -/

/-- A matrix word that waits does so for the queue or for its earlier signature, and not only for accumulators that are
pending (R253, R263). -/
def Iss.matrixWaits (x : Iss) : Instr → Bool
  | .mma _ _ _ _ _ cv _ _ _ _ => (x.g.cv? x.w.core cv.toNat).any fun c =>
      c.signed.any (·.wave == x.w.uid) || decide (c.signers ≤ c.signed.length + 1) && !x.matRoom
  | _ => !x.matRoom

/-- The class of a STAGE that waits: for the window bytes of a residue or for accesses 4, for its register or a residue's
entry 6, for the engine queue 7 (R196, R197, R237). -/
def Iss.stageClass (x : Iss) (g : GCode) (b : SReg) : Nat :=
  match x.s.reg? (x.regRef g.toNat) with
  | none => 6
  | some gr =>
    let n := x.s.bindings x.g.die (x.w.core / 4)
    if gr.st == .waiting then 6
    else if ((x.s.residueWindows x.g.uid).any fun p => meets p ((x.sreg b.toNat).toNat, gr.len)) || x.s.busyGrant gr.gid then 4
    else if 64 ≤ n.1 + n.2 then 6 else 7

/-- The class of a wait at issue (Table 20.4a). -/
def State.waitClass (s : State) (w : Wave) (i : Instr) : Nat :=
  let x := ({ s with cur := some w.uid } : State).iss?
  let grant := x.any (·.grantWaits i)
  match i with
  | .ld _ _ _ _ _ _ _ | .st _ _ _ _ _ _ _ | .ldp _ _ _ _ _ _ | .stp _ _ _ _ _ _ | .atom _ _ _ _ _ _ | .rst _ _ _ _ _
  | .ratom _ _ _ _ _ _ | .pref _ _ _ _ _ | .hld _ _ _ _ | .hst _ _ _ _ => if grant then 6 else 4
  | .lds _ _ _ _ _ _ | .sts _ _ _ _ _ _ | .atoms _ _ _ _ _ => 4
  | .copy _ _ _ _ _ | .copy2 _ _ _ _ _ | .gath _ _ _ _ _ | .scat _ _ _ _ _ => if grant then 6 else 7
  | .mma _ _ _ _ _ _ _ _ _ _ | .mdrain _ _ _ _ _ _ _ _ => if x.any (·.matrixWaits i) then 7 else 3
  | .brw _ _ _ _ _ _ | .rbrw _ _ _ _ _ | .split _ _ _ _ _ | .join _ _ | .rtn _ _ | .rgmv _ _ _ _ | .rgq _ _ _
  | .unstage _ _ => 6
  | .stage _ g b _ => (x.map (·.stageClass g b)).getD 6
  | .binit _ _ _ | .barr _ _ _ _ | .bwait _ _ _ => 5
  | _ => 7

/-- The class of a wait after issue. -/
def Hold.cls : Hold → Nat
  | .none => 1
  | .fullEmpty _ _ => 10
  | .barrier _ _ _ => 5
  | .fence _ _ => 4
  | .cwait _ | .mwait | .chpush _ => 7
  | .stmpw => 11
  | .miss _ _ _ => 4
  | .until_ _ => 8
  | .unstage _ => 6

/-- The class of a resident wave that has not issued and does not only wait for parked accesses: rows 5 to 9 of
Table 20.4. -/
def State.waitingClass (s : State) (w : Wave) : Nat :=
  match w.parts with
  | [] => 1
  | p :: ps =>
    let core := s.coreOf w
    if !canRun ps p then (if s.clk < w.nextIssue then 2 else 5)
    else if s.clk < p.redirect || s.clk < (s.core core).fetchAt then 8
    else match s.fetch core (s.ctxOf w) p.pc.toNat with
      | .miss _ => 8
      | .fault => if s.clk < w.nextIssue then 2 else if s.holdOver w then 1 else w.hold.cls
      | .word v =>
        if s.clk < w.nextIssue then 2
        else if !s.holdOver w then w.hold.cls
        else match decodeWord v, s.kernelOf? w with
          | d, some k =>
            let f : Frame := { views := k.views, win := k.win * 256, depth := p.nest.length, ctrw := w.ctrwNext }
            let held := s.held w f (s.decUses w d)
            match d with
            | .word [] i =>
              if s.waitsAtIssue w i then s.waitClass w i
              else if s.slotHolds w i then 9
              else if held then 3 else 1
            | _ => if held then 3 else 1
          | _, none => 1

/-- The occupied wave slots of a core with their waves, ascending (R316, R357). -/
def State.occupied (s : State) (core : Nat) : List (Nat × Wave) :=
  (List.range 96).filterMap fun n =>
    (s.waves.find? fun w => w.slotHeld && (w.st == .resident || w.st == .sleeping) && w.quad * 24 + w.slot == n &&
      s.coreOf w == core).map fun w => (n, w)

/-- The target of the next sample: the next occupied slot above the previous target, else the lowest (R357). -/
def State.sampleTarget (s : State) (core : Nat) (prev : Option Nat) : Option (Nat × Wave) :=
  let l := s.occupied core
  match l.find? fun x => prev.all (· < x.1) with
  | some x => some x
  | none => l.head?

/-- The class of a target wave (Table 20.4). -/
def State.sampleClass (s : State) (w : Wave) : Nat :=
  if s.issued.any (·.1 == w.uid) then 0
  else if w.st == .sleeping then 13
  else if s.waitsParked w then 12
  else s.waitingClass w

/-- A sample's record of 32 bytes (R359, Table 20.5): %clk, the address of the issued or next word, the core and the virtual die, the
wave slot, the class, the lanes that acted or the fibres of the current partition, the partitions, two bytes of 0, %kid and n. With no
occupied slot it has PC 0, slot 0xFF, and 0 for lanes, partitions and %kid. -/
def State.sampleRecord (s : State) (g : Group) (core n : Nat) (t : Option (Nat × Wave)) : List Byte :=
  let parts (pc slot cls lanes count : Nat) (kid : Nat) : List Byte :=
    leBytes 8 s.clk ++ leBytes 8 pc ++ leBytes 2 (core + 256 * g.vdie) ++ leBytes 1 slot ++ leBytes 1 cls ++ leBytes 1 lanes ++
      leBytes 1 count ++ leBytes 2 0 ++ leBytes 4 kid ++ leBytes 4 (n % 2 ^ 32)
  match t with
  | none => parts 0 255 14 0 0 0
  | some (slot, w) =>
    let kid := ((s.kernelOf? w).map (·.kid.toNat)).getD 0
    let cur : Nat × Nat := match s.issued.find? (·.1 == w.uid), w.parts with
      | some i, _ => (i.2.2.toNat, i.2.1)
      | none, p :: _ => (p.pc.toNat, (lanesOf p.lanes).length)
      | none, [] => (0, 0)
    parts cur.1 slot (s.sampleClass w) cur.2 w.parts.length kid

/-- A sample is due on a core (R357). -/
def Sampler.due (m : Sampler) (clk : Nat) : Bool := m.on && clk == m.ton + (m.n + 1) * m.period

/-- A sample taken (R360): with room (W − C < N) its record goes to base + 32·(W mod N), the two granules become full and W rises, else
it is dropped and DROPPED rises. n rises in both cases. W and C are 32-bit counts; the number n in u_n goes on,
and its record shows its low 32 bits (R356; DEDUCED, assumption 108). -/
def State.takeSample (s : State) (core : Nat) : Option State := do
  let c := s.core core
  let m := c.sampler
  let g ← m.owner.bind s.group?
  let t := s.sampleTarget core m.target
  let m' := { m with n := m.n + 1, target := match t with
                       | some x => some x.1
                       | none => m.target }
  if (m.w + 2 ^ 32 - m.c) % 2 ^ 32 < m.cap then
    let at_ := m.base + 32 * (m.w % m.cap)
    let s := (s.sampleRecord g (core % 40) m.n t).zipIdx.foldl (fun s b => s.putByte (g.spKey (at_ + b.2)) b.1) s
    let s := s.setFull [g.spKey at_ / 16, g.spKey (at_ + 16) / 16]
    some (s.setCore core { c with sampler := { m' with w := (m.w + 1) % 2 ^ 32 } })
  else some (s.setCore core { c with sampler := { m' with dropped := min (2 ^ 32 - 1) (m.dropped + 1) } })

/-- SAMPLE (R357). -/
def execSample (die core : Nat) (s : State) : Out :=
  execEvent s fun s => if (s.core (die * 40 + core)).sampler.due s.clk then s.takeSample (die * 40 + core) else none

end Sys2Proof.Machine
end

