-- ==== Sys2Proof/Machine/Recovery.lean ====
section
/-! DEFINITION. Start-up (R367, R368), images and the rigging swap (R369, R371), the watchdog ladder (R375), health (R376) and
what reads of the management CSRs answer (R373). -/

namespace Sys2Proof.Machine

open Sys2Proof

/-! Health (R376) -/

/-- Retired or disabled dies. -/
def State.dieBad (s : State) : List Nat := (List.range 8).filter fun d => (s.die d).retired

/-- Retired memory channels on dies that are not retired. -/
def State.chBad (s : State) : List Nat := s.chLost.eraseDups.filter fun c => !(s.die (c / 12)).retired

/-- Retired fabric ports on dies that are not retired. -/
def State.portLost (s : State) : List Nat :=
  (List.range 16).filter fun p => (s.link (32 + p)).st == 5 && !(s.die (p / 2)).retired

/-- Table 21.6: 0 OK, 1 DEGRADED, 2 REPLACE_REQUESTED, 3 FAILED. -/
def State.health (s : State) : Nat :=
  if s.stage == .minimal || s.dieBad.length == 8 then 3
  else if !s.dieBad.isEmpty || decide (2 < s.chBad.length) || decide (2 < s.portLost.length) || s.spare then 2
  else if !s.chLost.isEmpty || !s.portLost.isEmpty || s.spared then 1
  else 0

/-- A mask of dies. -/
def dieMask (l : List Nat) : Nat := (l.map fun d => 2 ^ d).sum

/-- A read of jxhealth. -/
def State.jxhealth (s : State) : Word :=
  pack [(24, dieMask s.dieBad), (16, s.chBad.length), (10, s.portLost.length), (9, b2n s.spare), (0, s.health)]

/-- A read of jxdierec. -/
def State.jxdierec (s : State) : Word :=
  let having (f : Die → Bool) : Nat := dieMask ((List.range 8).filter fun d => f (s.die d))
  pack [(16, having (·.applied)), (8, having fun d => d.applied && d.recDisabled), (0, having fun d => d.applied && d.recValid)]

/-- A read of jxwdog. -/
def State.jxwdog (s : State) : Word := pack [(7, s.wdogLast)]

/-- A read of jxswap. -/
def State.jxswap (s : State) : Word := pack [(0, s.swapImg), (4, s.swapStat)]

/-- A read of jxreplay: MASK is write-only, and reads as zero (Table 0.3). -/
def jxreplay : Word := 0

/-! Start-up (R367, R368) -/

/-- POWER_GOOD: stage 0 begins, and with it the clk. -/
def execPowerGood (s : State) : Out :=
  execEvent s fun s => if s.stage == .off then some { s with stage := .s0, clk := 0, cursor := 0, begun := false } else none

/-- Links that receive a Train command. -/
def State.trainLinks (s : State) (ns : List Nat) : State :=
  ns.foldl (fun s n => s.command n fun n l => l.trainCmd n (linkTime s.clk)) s

/-- A die record applied (R19): a die without a valid record, or marked disabled, is retired from then on. -/
def Die.applyRecord (d : Die) : Die :=
  { d with applied := d.recValid, inReset := false, retired := d.retired || !d.recValid || d.recDisabled }

/-- What a stage has lost is retired or spared (R368). -/
def State.stageLoss (s : State) (x : StageLoss) : State :=
  let s := (x.dies.filter fun d => decide (d < 8)).foldl (fun s d => s.retireDie d 0) s
  let s := (x.ports.filter fun p => decide (p < 16)).foldl (fun s p => s.setLink (32 + p) (s.link (32 + p)).retire) s
  { s with chLost := (s.chLost ++ x.channels.filter fun c => decide (c < 96)).eraseDups, spared := s.spared || x.spared,
           spare := s.spare || x.sparesOut }

/-- Stage 1 begins: die records are applied, the dies leave reset, the die links train. -/
def State.enterStage1 (s : State) : State :=
  ({ s with stage := .s1, ver0 := Config.flashVersion 0, dies := s.dies.map Die.applyRecord } : State).trainLinks
    (linkNumbers.filter fun n => !isPort n)

/-- The image of a kind in module flash is refused at start-up: for its magic number, kind, signature or digest, or for a
version below the minimum (R369). -/
def State.flashRefused (s : State) (kind : Nat) (loss : StageLoss) : Bool :=
  loss.refused || decide (Config.flashVersion kind < if kind = 0 then s.minVer0 else s.minVer1)

/-- STAGE_COMPLETE (Table 21.1, R368). `fatal` is the failure of the saddle die itself (R376). A refused rigging leaves the
device at minimal safe function too (assumption 98). -/
def execStageComplete (loss : StageLoss) (s : State) : Out :=
  execEvent s fun s =>
    match s.stage with
    | .s0 =>
      let s := s.portZero
      some (if loss.fatal || s.flashRefused 0 loss then s.toMinimal else s.enterStage1)
    | .s1 =>
      let t := s.stageLoss loss
      some (if loss.fatal || s.flashRefused 1 loss || t.dieBad.length == 8 then t.toMinimal
            else { t with stage := .s2, ver1 := Config.flashVersion 1, riggingAt := t.clk })
    | .s2 =>
      let s := s.stageLoss loss
      some (if loss.fatal then s.toMinimal else ({ s with stage := .s3 } : State).trainLinks (linkNumbers.filter isPort))
    | .s3 =>
      let s := s.stageLoss loss
      some (if loss.fatal then s.toMinimal
            else { s with stage := .full, cores := s.cores.zipIdx.map fun c =>
              if (s.die (c.2 / 40)).resetting == .none then { c.1 with service := false } else c.1 })
    | _ => none

/-! The rigging swap (R369, R371) -/

/-- The header of the image that a swap takes: bytes 0 to 87 (Table 21.2); none while its page is unmapped. -/
def State.imageHeader? (s : State) : State × Option (List Byte) := s.hRead s.swapFrom 88

/-- The magic number and the kind of a rigging image (R369, Table 21.2). -/
def headerOk (h : List Byte) : Bool := leNat (h.take 4) == 0x4A584931 && h.getD 4 0 == 1

/-- The version that a header states. -/
def headerVersion (h : List Byte) : Nat := leNat ((h.drop 8).take 8)

/-- The body length that a header states, and the body's SHA-512 digest. -/
def headerLength (h : List Byte) : Nat := leNat ((h.drop 16).take 8)
@[inherit_doc headerLength] def headerDigest (h : List Byte) : List Byte := (h.drop 24).take 64

/-- Reach of the image that a swap takes, from the saddle die (R15). -/
def State.imageReach (s : State) : Reach :=
  if 8 ≤ homeOf s.swapFrom then s.girthReach saddle (homeOf s.swapFrom) else s.saddleReach (homeOf s.swapFrom)

/-- RIGGING_SWAP (R371): a request starts the verification of the image at IMG; of a swap that is verifying, it ends with what
the saddle tree finds (R369). An image to which no route leads is refused as one that does not verify (DEDUCED,
assumption 125), and so is one whose header states a body longer than any memory. -/
def execRiggingSwap (img : ImageCheck) (s : State) : Out :=
  execEvent s fun s =>
    if !s.riggingRuns || s.swapStat = 2 then none
    else if s.swapStat != 1 then some s.startSwap
    else match s.imageReach with
    | .waits => none
    | .fail _ => some { s with swapStat := 4 }
    | .ok =>
      if s.inSlot then none
      else match s.imageHeader? with
      | (_, none) => none
      | (s, some h) =>
        if !headerOk h || !img.sigOk || decide (2 ^ 38 < headerLength h) then some { s with swapStat := 4 }
        else match s.hRead (s.swapFrom + 256) (headerLength h) with
        | (_, none) => none
        | (s, some body) =>
          some (if sha512 body != headerDigest h then { s with swapStat := 4 }
                else if headerVersion h < s.minVer1 then { s with swapStat := 5 }
                else { s with swapStat := 2, swapVer := headerVersion h })

/-- The pause of a swap ends: the new rigging has the old one's state, and dispatch resumes (R371). -/
def State.resumeSwap (s : State) : State :=
  { s with paused := false, ver1 := s.swapVer, swapStat := 3, riggingAt := s.clk }

/-- SWAP_PAUSE (R371): dispatch pauses, or resumes. -/
def execSwapPause (s : State) : Out :=
  execEvent s fun s =>
    if s.swapStat ≠ 2 then none
    else if s.paused then some s.resumeSwap
    else some { s with paused := true, pauseAt := s.clk }

/-- What recovery does of itself: a pause lasts at most 5 ms (R371), and a restart of the rigging is complete once every queue
has been reset (R375). -/
def State.dueRecovery (s : State) : State :=
  let s := if s.paused && decide (s.pauseAt + 15000000 ≤ s.clk) then s.resumeSwap else s
  if s.queues.any (·.resetReq) then s else { s with ladder := dropIf (fun l => l.1 == 3 && l.2.1 == 0) s.ladder }

/-! The watchdog ladder (R295, R375) -/

/-- A WATCHDOG record of levels W1 to W4 to a context that exists (Table 14.5a). -/
def State.wdogRecord (s : State) (ctx level : Nat) (req : Bool) (die : Nat) (gone : Bool) : State :=
  if (s.ctx ctx).st == .free then s
  else s.record ctx { clk := s.clk, pc := 0, info := pack [(0, level), (3, b2n req), (4, die), (7, b2n gone)], kid := 0,
                      code := WATCHDOG, source := 2, wave := 65535 }

/-- Contexts that a die serves. -/
def State.ctxsOf (s : State) (die : Nat) : List Nat :=
  (List.range 64).filter fun c => (List.range 8).any fun v => physDie? (s.ctx c).vdies v == some die

/-- A wave has issued no accepted word for a time (R375). -/
def State.silent (s : State) (w : Wave) (time : Nat) : Bool :=
  (w.st == .resident || w.st == .sleeping) && decide (w.progress + time ≤ s.clk)

/-- Level 0 of a wave: the record names its index and its next word; its group is killed, and lost (R310). -/
def State.level0 (s : State) (w : Nat) : Option State := do
  let x ← s.wave? w
  let k ← s.kernelOf? x
  if !s.silent x (2 ^ 32) then none
  let s := s.record k.ctx { clk := s.clk, pc := (x.parts.head?.map (·.pc)).getD 0, info := 0, kid := k.kid, code := WATCHDOG,
                            source := 2, wave := x.index }
  some (({ s with wdogLast := 0 } : State).killGroup x.group)

/-- WATCHDOG_W0. -/
def execWatchdogW0 (w : Nat) (s : State) : Out := execEvent s fun s => s.level0 w

/-- Level 1: the context's record and its kill. -/
def State.level1 (s : State) (ctx : Nat) (req : Bool) : Option State :=
  let t : State := { s.wdogRecord ctx 1 req 0 false with wdogLast := 1, ladder := s.ladder ++ [(1, ctx, s.clk)] }
  t.kill? ctx

/-- WATCHDOG_W1: a wave of the context has been silent for twice the time, so W0 has not completed within its bound. -/
def execWatchdogW1 (ctx : Nat) (s : State) : Out :=
  execEvent s fun s =>
    let late := s.waves.any fun w => s.silent w (2 ^ 33) && ((s.kernelOf? w).map (·.ctx)) == some ctx
    if late then s.level1 ctx false else none

/-- JXWDOG_W1: REQ 1. -/
def execJxwdogW1 (ctx : Nat) (s : State) : Out := execEvent s fun s => s.level1 ctx true

/-- Level 2 of one die: its reset, and a record to every context it serves. The ladder marks a reset by request with 10. -/
def State.level2 (s : State) (die : Nat) (req force : Bool) : Option State :=
  (s.resetDie die force).map fun t =>
    let t := (s.ctxsOf die).foldl (fun t c => t.wdogRecord c 2 req die false) t
    { t with wdogLast := 2, ladder := t.ladder ++ [(if req then 10 else 2, die, s.clk)] }

/-- Level 2 of one die that the ladder itself takes: a reset that is refused for the routes of others leaves the level incomplete,
which the ladder marks with 11 (R340). -/
def State.autoLevel2 (s : State) (die : Nat) : State :=
  match s.level2 die false false with
  | some t => t
  | none =>
    if !s.inService die || (s.die die).resetting != .none then s
    else
      let t := (s.ctxsOf die).foldl (fun t c => t.wdogRecord c 2 false die false) s
      { t with wdogLast := 2, ladder := t.ladder ++ [(11, die, s.clk)] }

/-- Level 2 ends for dies whose reset has taken 500 ms: one that is not back in service is retired, with its record. -/
def State.level2Ends (s : State) : State :=
  let due := s.ladder.filter fun l => (l.1 == 2 || l.1 == 10) && decide (l.2.2 + 1500000000 ≤ s.clk)
  let s : State := { s with ladder := dropIf (fun l => due.contains l) s.ladder }
  due.foldl (fun s l =>
    if (s.die l.2.1).resetting == .none then s
    else
      let t := (s.ctxsOf l.2.1).foldl (fun t c => t.wdogRecord c 2 (l.1 == 10) l.2.1 true) s
      t.retireDie l.2.1 3) s

/-- Level 2 of a context: dies that have not returned to service are retired; where the kill and reclaim of the context has taken
more than 100 ms, each die it ran on is reset. -/
def State.levelTwo (s : State) (ctx : Nat) : State :=
  let s := s.level2Ends
  let late := s.ladder.filter fun l => l.1 == 1 && l.2.1 == ctx && decide (l.2.2 + 300000000 ≤ s.clk)
  if late.isEmpty then s
  else
    let dies := ((s.kernels.filter (·.ctx == ctx)).flatMap (·.dies)).eraseDups
    let s : State := { s with ladder := dropIf (fun l => late.contains l) s.ladder }
    dies.foldl (fun s d => s.autoLevel2 d) s

/-- WATCHDOG_W2. -/
def execWatchdogW2 (ctx : Nat) (s : State) : Out := execEvent s fun s => some (s.levelTwo ctx)

/-- JXWDOG_W2: REQ 2. -/
def execJxwdogW2 (die : Nat) (s : State) : Out := execEvent s fun s => s.level2 die true false

/-- JXWDOG_W2_FORCED: REQ 3 (R340). -/
def execJxwdogW2Forced (die : Nat) (s : State) : Out := execEvent s fun s => s.level2 die true true

/-- Level 3: the rigging starts again from module flash, which resets every queue. While the image in flash is below the
minimum version it is refused, and the level stays incomplete (R369). -/
def State.level3 (s : State) (req : Bool) : State :=
  let s := (s.queues.map (·.q)).foldl (fun s q => s.resetQueue q) s
  let s := (List.range 64).foldl (fun s c => s.wdogRecord c 3 req 0 false) s
  let bad := decide (Config.flashVersion 1 < s.minVer1)
  { s with wdogLast := 3, ver1 := if bad then s.ver1 else Config.flashVersion 1, riggingAt := s.clk,
           swapStat := if s.swapStat = 1 ∨ s.swapStat = 2 then 0 else s.swapStat, paused := false,
           ladder := dropIf (·.1 == 11) s.ladder ++ [(3, b2n bad, s.clk)] }

/-- A level that has begun is not complete: the die of level 2 is not back in service or its reset was refused; of level 3, a
queue's reset is pending or its image is refused (`State.dueRecovery` drops it otherwise). -/
def State.incomplete (s : State) (l : Nat × Nat × Nat) : Bool :=
  l.1 == 3 || l.1 == 11 || (s.die l.2.1).resetting != .none

/-- A level has begun and is not complete within its bound of `time` clk. -/
def State.overdue (s : State) (levels : List Nat) (time : Nat) : Bool :=
  s.ladder.any fun l => levels.contains l.1 && decide (l.2.2 + time ≤ s.clk) && s.incomplete l

/-- WATCHDOG_W3: W2 has not completed in 500 ms, or the rigging, which has run for 1 s, has been silent to the saddle tree for
as long. -/
def execWatchdogW3 (s : State) : Out :=
  execEvent s fun s =>
    if s.riggingRuns && (s.overdue [2, 10, 11] 1500000000 || decide (s.riggingAt + 3000000000 ≤ s.clk)) then some (s.level3 false)
    else none

/-- Level 3 by request, while a rigging runs. -/
def State.reqLevel3 (s : State) : Option State := if s.riggingRuns then some (s.level3 true) else none

/-- JXWDOG_W3: REQ 4, written by the saddle tree (R370). -/
def execJxwdogW3 (s : State) : Out := execEvent s State.reqLevel3

/-- A die after device reset: module flash keeps its record. -/
def Die.deviceReset (d : Die) : Die :=
  { Die.reset with recValid := d.recValid, recDisabled := d.recDisabled, site0 := d.site0, site1 := d.site1 }

/-- Device reset: start-up from stage 0. Module flash stays, and the model's own tape and counters go on. -/
def State.deviceReset (s : State) : State :=
  { State.reset with stage := .s0, agenda := s.agenda, nextUid := s.nextUid, freeCtr := s.freeCtr,
                     dies := s.dies.map Die.deviceReset, minVer0 := s.minVer0, minVer1 := s.minVer1 }

/-- Level 4: no context outlives it, so there is no record. -/
def State.level4 (s : State) : Option State :=
  match s.stage with
  | .off | .s0 => none
  | _ => some s.deviceReset

/-- WATCHDOG_W4: W3 has not completed in 2 s, or the saddle tree, which has run for 5 s, has been silent to the boot ROM for as
long. -/
def execWatchdogW4 (s : State) : Out :=
  execEvent s fun s => if s.overdue [3] 6000000000 || decide (15000000000 ≤ s.clk) then s.level4 else none

/-- JXWDOG_W4: REQ 5, written by the saddle tree (R370). -/
def execJxwdogW4 (s : State) : Out := execEvent s State.level4

/-- What the ladder does of itself in a clk: it kills the groups of silent waves, and takes a level once the one below has not
completed within its bound. The silence of the rigging and of the saddle tree is told by events. -/
def State.dueWatchdog (s : State) : State :=
  let silent := (s.waves.filter fun w => s.silent w (2 ^ 32)).map (·.uid)
  let s := silent.foldl (fun s u => (s.level0 u).getD s) s
  if s.ladder.isEmpty then s
  else
    let s := (List.range 64).foldl (fun s c => s.levelTwo c) s
    let s := if s.riggingRuns && s.overdue [2, 10, 11] 1500000000 then s.level3 false else s
    if s.overdue [3] 6000000000 then (s.level4).getD s else s

/-! Writes of privileged registers (R370, R372, R373) -/

/-- What the saddle tree permits (R370): the rigging may write privileged device space by calls, and of the management CSRs
jxswap, jxreplay and the codes 1 to 3 of jxwdog.REQ. -/
def permits (who : Who) (r : PrivReg) (v : Word) : Bool :=
  match who, r with
  | .rigging, .brandw | .rigging, .minVersion _ | .rigging, .physWord _ _ => false
  | .rigging, .wdog => decide (fld v 0 3 ≤ 3)
  | _, _ => true

/-- A write of jxwdog (Table 21.4): REQ 1 to 5 ask for a level, of the context or die in TGT. -/
def State.wdogWrite (s : State) (v : Word) : Option State :=
  let tgt := fld v 10 6
  match fld v 0 3 with
  | 1 => s.level1 tgt true
  | 2 => if tgt < 8 then s.level2 tgt true false else none
  | 3 => if tgt < 8 then s.level2 tgt true true else none
  | 4 => s.reqLevel3
  | 5 => s.level4
  | _ => none

/-- REGISTER_WRITE (R8, R331, R354, R369 to R375): PTROOT, a word of a die's page tables, stored by physical address, a word of
a queue descriptor, the write-1-to-clear bits of a sensor block, jxbrandw, jxswap, jxwdog, jxreplay, a minimum version in module
flash (only the one that runs); any other offset of space 3 ignores the write. -/
def execRegisterWrite (r : RegAccess) (v : Word) (s : State) : Out :=
  execEvent s fun s =>
    if !permits r.who r.reg v then none
    else match r.reg with
      | .ptroot die => some (s.setDie die { s.die die with ptroot := v &&& 0x0000FFFFFFFFFE01 })
      | .physWord die pa =>
        if pa % 8 ≠ 0 || decide (installed ≤ pa) || s.inSlot || s.saddleReach die != .ok then none else some (s.putBytes (physKey die pa) (leBytes 8 v.toNat))
      | .queueWord q word => some ((s.setQueue ((s.queue q).write word v)).evalQueue q)
      | .sensorClear die =>
        let d := s.die die
        some (s.setDie die { d with sens2 := d.sens2 &&& ~~~(v &&& 3) })
      | .brandw => some { s with brandw := v.setWidth 19 }
      | .swap =>
        let s : State := { s with swapImg := fld v 12 40 * 4096 }
        some (if fld v 0 3 = 1 then s.startSwap else s)
      | .wdog => s.wdogWrite v
      | .replay => some (s.replayMask (fld v 0 8))
      | .minVersion kind =>
        if kind = 0 then (if v.toNat = s.ver0 then some { s with minVer0 := v.toNat } else none)
        else if v.toNat = s.ver1 then some { s with minVer1 := v.toNat } else none
      | .other _ => none

end Sys2Proof.Machine
end

