-- ==== Sys2Proof/Machine/Dispatch.lean ====
section
/-! DEFINITION. One arm for each constructor of `Instr`. -/

namespace Sys2Proof.Machine

open Sys2Proof

/-- The meaning of an instruction in a state. -/
def exec (i : Instr) (s : State) : Host.Outcome State Fault Refusal :=
  match i with
  | .nop h => Sys2Proof.Machine.execNop h s
  | .bra h off => Sys2Proof.Machine.execBra h off s
  | .brc h d off => Sys2Proof.Machine.execBrc h d off s
  | .brx h a => Sys2Proof.Machine.execBrx h a s
  | .call h d off => Sys2Proof.Machine.execCall h d off s
  | .callx h d a => Sys2Proof.Machine.execCallx h d a s
  | .ret h a => Sys2Proof.Machine.execRet h a s
  | .loop h a off => Sys2Proof.Machine.execLoop h a off s
  | .endl h => Sys2Proof.Machine.execEndl h s
  | .lbrk h => Sys2Proof.Machine.execLbrk h s
  | .spawn h d a b => Sys2Proof.Machine.execSpawn h d a b s
  | .endFibre h => Sys2Proof.Machine.execEndFibre h s
  | .yield h => Sys2Proof.Machine.execYield h s
  | .sleep h n => Sys2Proof.Machine.execSleep h n s
  | .fbar h a => Sys2Proof.Machine.execFbar h a s
  | .icinv h => Sys2Proof.Machine.execIcinv h s
  | .mov h d a => Sys2Proof.Machine.execMov h d a s
  | .movScalar h d a => Sys2Proof.Machine.execMovScalar h d a s
  | .movFromSf h d => Sys2Proof.Machine.execMovFromSf h d s
  | .movToSf h a => Sys2Proof.Machine.execMovToSf h a s
  | .movFromCc h d => Sys2Proof.Machine.execMovFromCc h d s
  | .movToCc h a => Sys2Proof.Machine.execMovToCc h a s
  | .movi h d imm => Sys2Proof.Machine.execMovi h d imm s
  | .moviScalar h d imm => Sys2Proof.Machine.execMoviScalar h d imm s
  | .movh h d k imm => Sys2Proof.Machine.execMovh h d k imm s
  | .movhScalar h d k imm => Sys2Proof.Machine.execMovhScalar h d k imm s
  | .add h d a b t => Sys2Proof.Machine.execAdd h d a b t s
  | .addScalar h d a b t => Sys2Proof.Machine.execAddScalar h d a b t s
  | .addImm h d a t imm => Sys2Proof.Machine.execAddImm h d a t imm s
  | .addImmScalar h d a t imm => Sys2Proof.Machine.execAddImmScalar h d a t imm s
  | .addc h d a b n t => Sys2Proof.Machine.execAddc h d a b n t s
  | .addcScalar h d a b t => Sys2Proof.Machine.execAddcScalar h d a b t s
  | .sub h d a b t => Sys2Proof.Machine.execSub h d a b t s
  | .subScalar h d a b t => Sys2Proof.Machine.execSubScalar h d a b t s
  | .subb h d a b n t => Sys2Proof.Machine.execSubb h d a b n t s
  | .subbScalar h d a b t => Sys2Proof.Machine.execSubbScalar h d a b t s
  | .mul h d a b t => Sys2Proof.Machine.execMul h d a b t s
  | .mulScalar h d a b t => Sys2Proof.Machine.execMulScalar h d a b t s
  | .mulh h d a b t => Sys2Proof.Machine.execMulh h d a b t s
  | .mulhScalar h d a b t => Sys2Proof.Machine.execMulhScalar h d a b t s
  | .madI32 h d a b c => Sys2Proof.Machine.execMadI32 h d a b c s
  | .madI32Scalar h d a b c => Sys2Proof.Machine.execMadI32Scalar h d a b c s
  | .madN32 h d a b c => Sys2Proof.Machine.execMadN32 h d a b c s
  | .madN32Scalar h d a b c => Sys2Proof.Machine.execMadN32Scalar h d a b c s
  | .madI64 h d a b c => Sys2Proof.Machine.execMadI64 h d a b c s
  | .madI64Scalar h d a b c => Sys2Proof.Machine.execMadI64Scalar h d a b c s
  | .madN64 h d a b c => Sys2Proof.Machine.execMadN64 h d a b c s
  | .madN64Scalar h d a b c => Sys2Proof.Machine.execMadN64Scalar h d a b c s
  | .div h d a b t => Sys2Proof.Machine.execDiv h d a b t s
  | .divScalar h d a b t => Sys2Proof.Machine.execDivScalar h d a b t s
  | .rem h d a b t => Sys2Proof.Machine.execRem h d a b t s
  | .remScalar h d a b t => Sys2Proof.Machine.execRemScalar h d a b t s
  | .min h d a b t => Sys2Proof.Machine.execMin h d a b t s
  | .minScalar h d a b t => Sys2Proof.Machine.execMinScalar h d a b t s
  | .max h d a b t => Sys2Proof.Machine.execMax h d a b t s
  | .maxScalar h d a b t => Sys2Proof.Machine.execMaxScalar h d a b t s
  | .abs h d a t => Sys2Proof.Machine.execAbs h d a t s
  | .absScalar h d a t => Sys2Proof.Machine.execAbsScalar h d a t s
  | .neg h d a t => Sys2Proof.Machine.execNeg h d a t s
  | .negScalar h d a t => Sys2Proof.Machine.execNegScalar h d a t s
  | .and h d a b t => Sys2Proof.Machine.execAnd h d a b t s
  | .andScalar h d a b t => Sys2Proof.Machine.execAndScalar h d a b t s
  | .andImm h d a t imm => Sys2Proof.Machine.execAndImm h d a t imm s
  | .andImmScalar h d a t imm => Sys2Proof.Machine.execAndImmScalar h d a t imm s
  | .or h d a b t => Sys2Proof.Machine.execOr h d a b t s
  | .orScalar h d a b t => Sys2Proof.Machine.execOrScalar h d a b t s
  | .orImm h d a t imm => Sys2Proof.Machine.execOrImm h d a t imm s
  | .orImmScalar h d a t imm => Sys2Proof.Machine.execOrImmScalar h d a t imm s
  | .xor h d a b t => Sys2Proof.Machine.execXor h d a b t s
  | .xorScalar h d a b t => Sys2Proof.Machine.execXorScalar h d a b t s
  | .xorImm h d a t imm => Sys2Proof.Machine.execXorImm h d a t imm s
  | .xorImmScalar h d a t imm => Sys2Proof.Machine.execXorImmScalar h d a t imm s
  | .andn h d a b t => Sys2Proof.Machine.execAndn h d a b t s
  | .andnScalar h d a b t => Sys2Proof.Machine.execAndnScalar h d a b t s
  | .not h d a t => Sys2Proof.Machine.execNot h d a t s
  | .notScalar h d a t => Sys2Proof.Machine.execNotScalar h d a t s
  | .tlog h d a b tt => Sys2Proof.Machine.execTlog h d a b tt s
  | .tlogScalar h d a b tt => Sys2Proof.Machine.execTlogScalar h d a b tt s
  | .shl h d a b t => Sys2Proof.Machine.execShl h d a b t s
  | .shlScalar h d a b t => Sys2Proof.Machine.execShlScalar h d a b t s
  | .shlImm h d a t imm => Sys2Proof.Machine.execShlImm h d a t imm s
  | .shlImmScalar h d a t imm => Sys2Proof.Machine.execShlImmScalar h d a t imm s
  | .shr h d a b t => Sys2Proof.Machine.execShr h d a b t s
  | .shrScalar h d a b t => Sys2Proof.Machine.execShrScalar h d a b t s
  | .shrImm h d a t imm => Sys2Proof.Machine.execShrImm h d a t imm s
  | .shrImmScalar h d a t imm => Sys2Proof.Machine.execShrImmScalar h d a t imm s
  | .sar h d a b t => Sys2Proof.Machine.execSar h d a b t s
  | .sarScalar h d a b t => Sys2Proof.Machine.execSarScalar h d a b t s
  | .sarImm h d a t imm => Sys2Proof.Machine.execSarImm h d a t imm s
  | .sarImmScalar h d a t imm => Sys2Proof.Machine.execSarImmScalar h d a t imm s
  | .fshl h d a b c => Sys2Proof.Machine.execFshl h d a b c s
  | .fshlScalar h d a b c => Sys2Proof.Machine.execFshlScalar h d a b c s
  | .fshr h d a b c => Sys2Proof.Machine.execFshr h d a b c s
  | .fshrScalar h d a b c => Sys2Proof.Machine.execFshrScalar h d a b c s
  | .rot h d a b t => Sys2Proof.Machine.execRot h d a b t s
  | .rotScalar h d a b t => Sys2Proof.Machine.execRotScalar h d a b t s
  | .rotImm h d a t imm => Sys2Proof.Machine.execRotImm h d a t imm s
  | .rotImmScalar h d a t imm => Sys2Proof.Machine.execRotImmScalar h d a t imm s
  | .bfx h d a b t => Sys2Proof.Machine.execBfx h d a b t s
  | .bfxScalar h d a b t => Sys2Proof.Machine.execBfxScalar h d a b t s
  | .bfi h d a b t => Sys2Proof.Machine.execBfi h d a b t s
  | .bfiScalar h d a b t => Sys2Proof.Machine.execBfiScalar h d a b t s
  | .popc h d a t => Sys2Proof.Machine.execPopc h d a t s
  | .popcScalar h d a t => Sys2Proof.Machine.execPopcScalar h d a t s
  | .clz h d a t => Sys2Proof.Machine.execClz h d a t s
  | .clzScalar h d a t => Sys2Proof.Machine.execClzScalar h d a t s
  | .ctz h d a t => Sys2Proof.Machine.execCtz h d a t s
  | .ctzScalar h d a t => Sys2Proof.Machine.execCtzScalar h d a t s
  | .brev h d a t => Sys2Proof.Machine.execBrev h d a t s
  | .brevScalar h d a t => Sys2Proof.Machine.execBrevScalar h d a t s
  | .bperm h d a b c => Sys2Proof.Machine.execBperm h d a b c s
  | .bpermScalar h d a b c => Sys2Proof.Machine.execBpermScalar h d a b c s
  | .cmp h a b t => Sys2Proof.Machine.execCmp h a b t s
  | .cmpScalar h a b t => Sys2Proof.Machine.execCmpScalar h a b t s
  | .cmpImm h a t imm => Sys2Proof.Machine.execCmpImm h a t imm s
  | .cmpImmScalar h a t imm => Sys2Proof.Machine.execCmpImmScalar h a t imm s
  | .tst h a b t => Sys2Proof.Machine.execTst h a b t s
  | .tstScalar h a b t => Sys2Proof.Machine.execTstScalar h a b t s
  | .sel h d a b n c => Sys2Proof.Machine.execSel h d a b n c s
  | .selScalar h d a b c => Sys2Proof.Machine.execSelScalar h d a b c s
  | .lea h d a b sh => Sys2Proof.Machine.execLea h d a b sh s
  | .leaScalar h d a b sh => Sys2Proof.Machine.execLeaScalar h d a b sh s
  | .pairNop sc y => Sys2Proof.Machine.execPairNop sc y s
  | .pairMov sc d a g y => Sys2Proof.Machine.execPairMov sc d a g y s
  | .pairAdd sc w d a g y => Sys2Proof.Machine.execPairAdd sc w d a g y s
  | .pairSub sc w d a g y => Sys2Proof.Machine.execPairSub sc w d a g y s
  | .pairMin sc signed d a g y => Sys2Proof.Machine.execPairMin sc signed d a g y s
  | .pairMax sc signed d a g y => Sys2Proof.Machine.execPairMax sc signed d a g y s
  | .pairAnd sc d a g y => Sys2Proof.Machine.execPairAnd sc d a g y s
  | .pairOr sc d a g y => Sys2Proof.Machine.execPairOr sc d a g y s
  | .pairXor sc d a g y => Sys2Proof.Machine.execPairXor sc d a g y s
  | .pairAndn sc d a g y => Sys2Proof.Machine.execPairAndn sc d a g y s
  | .pairFadd sc f d a g y => Sys2Proof.Machine.execPairFadd sc f d a g y s
  | .pairFmul sc f d a g y => Sys2Proof.Machine.execPairFmul sc f d a g y s
  | .pairFmin sc f d a g y => Sys2Proof.Machine.execPairFmin sc f d a g y s
  | .pairFmax sc f d a g y => Sys2Proof.Machine.execPairFmax sc f d a g y s
  | .fadd h d a b f rm => Sys2Proof.Machine.execFadd h d a b f rm s
  | .fsub h d a b f rm => Sys2Proof.Machine.execFsub h d a b f rm s
  | .fmul h d a b f rm => Sys2Proof.Machine.execFmul h d a b f rm s
  | .fmin h d a b f => Sys2Proof.Machine.execFmin h d a b f s
  | .fmax h d a b f => Sys2Proof.Machine.execFmax h d a b f s
  | .fabs h d a f => Sys2Proof.Machine.execFabs h d a f s
  | .fneg h d a f => Sys2Proof.Machine.execFneg h d a f s
  | .fcmp h a b f => Sys2Proof.Machine.execFcmp h a b f s
  | .fclass h d a f => Sys2Proof.Machine.execFclass h d a f s
  | .frcp h d a f rm => Sys2Proof.Machine.execFrcp h d a f rm s
  | .fsqrt h d a f rm => Sys2Proof.Machine.execFsqrt h d a f rm s
  | .frsq h d a f => Sys2Proof.Machine.execFrsq h d a f s
  | .fexp2 h d a f => Sys2Proof.Machine.execFexp2 h d a f s
  | .flog2 h d a f => Sys2Proof.Machine.execFlog2 h d a f s
  | .fsin h d a f => Sys2Proof.Machine.execFsin h d a f s
  | .fcos h d a f => Sys2Proof.Machine.execFcos h d a f s
  | .ftanh h d a f => Sys2Proof.Machine.execFtanh h d a f s
  | .fscale h d a b f rm => Sys2Proof.Machine.execFscale h d a b f rm s
  | .frint h d a f rm => Sys2Proof.Machine.execFrint h d a f rm s
  | .ffma h d a b c f rm => Sys2Proof.Machine.execFfma h d a b c f rm s
  | .fdot2 h d a b c bf rm => Sys2Proof.Machine.execFdot2 h d a b c bf rm s
  | .act h d a f rm => Sys2Proof.Machine.execAct h d a f rm s
  | .actld h a b => Sys2Proof.Machine.execActld h a b s
  | .actswap h => Sys2Proof.Machine.execActswap h s
  | .cvt h d a dst src p rm => Sys2Proof.Machine.execCvt h d a dst src p rm s
  | .qnt h d a x4 f l dd rm => Sys2Proof.Machine.execQnt h d a x4 f l dd rm s
  | .dqnt h d a x4 f l rm => Sys2Proof.Machine.execDqnt h d a x4 f l rm s
  | .pack h d a b t => Sys2Proof.Machine.execPack h d a b t s
  | .unpk h d a p t => Sys2Proof.Machine.execUnpk h d a p t s
  | .lget h d a b t => Sys2Proof.Machine.execLget h d a b t s
  | .lput h d a b t => Sys2Proof.Machine.execLput h d a b t s
  | .lshf h d a b m n => Sys2Proof.Machine.execLshf h d a b m n s
  | .lbcst h d a n => Sys2Proof.Machine.execLbcst h d a n s
  | .lxor h d a n => Sys2Proof.Machine.execLxor h d a n s
  | .lscan h d a op => Sys2Proof.Machine.execLscan h d a op s
  | .lred h d a op => Sys2Proof.Machine.execLred h d a op s
  | .lvote h d a m => Sys2Proof.Machine.execLvote h d a m s
  | .rng h d => Sys2Proof.Machine.execRng h d s
  | .rngset h a b => Sys2Proof.Machine.execRngset h a b s
  | .ld h d g b t fe imm => Sys2Proof.Machine.execLd h d g b t fe imm s
  | .st h d g b t fe imm => Sys2Proof.Machine.execSt h d g b t fe imm s
  | .lds h d b t fe imm => Sys2Proof.Machine.execLds h d b t fe imm s
  | .sts h d b t fe imm => Sys2Proof.Machine.execSts h d b t fe imm s
  | .ldp h d g b fe imm => Sys2Proof.Machine.execLdp h d g b fe imm s
  | .stp h d g b fe imm => Sys2Proof.Machine.execStp h d g b fe imm s
  | .atom h d g b op t => Sys2Proof.Machine.execAtom h d g b op t s
  | .atoms h d b op t => Sys2Proof.Machine.execAtoms h d b op t s
  | .rst h g a b c => Sys2Proof.Machine.execRst h g a b c s
  | .ratom h d g b op t => Sys2Proof.Machine.execRatom h d g b op t s
  | .pref h g b t imm => Sys2Proof.Machine.execPref h g b t imm s
  | .stage h g b fill => Sys2Proof.Machine.execStage h g b fill s
  | .unstage h g => Sys2Proof.Machine.execUnstage h g s
  | .brw h d a b tryIt k => Sys2Proof.Machine.execBrw h d a b tryIt k s
  | .rbrw h d a b k => Sys2Proof.Machine.execRbrw h d a b k s
  | .split h d a toRegs k => Sys2Proof.Machine.execSplit h d a toRegs k s
  | .join h a => Sys2Proof.Machine.execJoin h a s
  | .rtn h a => Sys2Proof.Machine.execRtn h a s
  | .rgq h d a => Sys2Proof.Machine.execRgq h d a s
  | .rgmv h d a b => Sys2Proof.Machine.execRgmv h d a b s
  | .fence h sc => Sys2Proof.Machine.execFence h sc s
  | .stmpw h => Sys2Proof.Machine.execStmpw h s
  | .stmpp h => Sys2Proof.Machine.execStmpp h s
  | .cseal h d => Sys2Proof.Machine.execCseal h d s
  | .cwait h a => Sys2Proof.Machine.execCwait h a s
  | .binit h a name => Sys2Proof.Machine.execBinit h a name s
  | .barr h d wait name => Sys2Proof.Machine.execBarr h d wait name s
  | .bexp h a name => Sys2Proof.Machine.execBexp h a name s
  | .bwait h a name => Sys2Proof.Machine.execBwait h a name s
  | .btest h d a name => Sys2Proof.Machine.execBtest h d a name s
  | .chinit h d a => Sys2Proof.Machine.execChinit h d a s
  | .chpush h a b => Sys2Proof.Machine.execChpush h a b s
  | .chpop h d a => Sys2Proof.Machine.execChpop h d a s
  | .chstat h d a => Sys2Proof.Machine.execChstat h d a s
  | .copy h d a b c => Sys2Proof.Machine.execCopy h d a b c s
  | .copy2 h d a b c => Sys2Proof.Machine.execCopy2 h d a b c s
  | .gath h d a b c => Sys2Proof.Machine.execGath h d a b c s
  | .scat h d a b c => Sys2Proof.Machine.execScat h d a b c s
  | .route h d a b c => Sys2Proof.Machine.execRoute h d a b c s
  | .cvinit h d a => Sys2Proof.Machine.execCvinit h d a s
  | .mma h clr base ob ld cv b la lb fmt => Sys2Proof.Machine.execMma h clr base ob ld cv b la lb fmt s
  | .mwait h => Sys2Proof.Machine.execMwait h s
  | .lace h d a => Sys2Proof.Machine.execLace h d a s
  | .obres h d a b => Sys2Proof.Machine.execObres h d a b s
  | .obld h d a b => Sys2Proof.Machine.execObld h d a b s
  | .obrel h d => Sys2Proof.Machine.execObrel h d s
  | .mdrain h base a b act res rm f => Sys2Proof.Machine.execMdrain h base a b act res rm f s
  | .hbind h d a b => Sys2Proof.Machine.execHbind h d a b s
  | .hperm h d a b => Sys2Proof.Machine.execHperm h d a b s
  | .hbund h d a => Sys2Proof.Machine.execHbund h d a s
  | .hthr h d a => Sys2Proof.Machine.execHthr h d a s
  | .hclr h d => Sys2Proof.Machine.execHclr h d s
  | .hld h d a b => Sys2Proof.Machine.execHld h d a b s
  | .hst h d a b => Sys2Proof.Machine.execHst h d a b s
  | .hset h d a => Sys2Proof.Machine.execHset h d a s
  | .hdist h d a b => Sys2Proof.Machine.execHdist h d a b s
  | .hpop h d a => Sys2Proof.Machine.execHpop h d a s
  | .htie h a => Sys2Proof.Machine.execHtie h a s
  | .hcw h w => Sys2Proof.Machine.execHcw h w s
  | .hsrch h d a b => Sys2Proof.Machine.execHsrch h d a b s
  | .hsrch2 h d a b => Sys2Proof.Machine.execHsrch2 h d a b s
  | .trap h imm => Sys2Proof.Machine.execTrap h imm s
  | .tret h skip => Sys2Proof.Machine.execTret h skip s
  | .mfs h d a scalar => Sys2Proof.Machine.execMfs h d a scalar s
  | .mts h d a => Sys2Proof.Machine.execMts h d a s
  | .dist h d a b => Sys2Proof.Machine.execDist h d a b s
  | .halt h a => Sys2Proof.Machine.execHalt h a s
  | .slotq h d => Sys2Proof.Machine.execSlotq h d s
  | .smpcfg h a => Sys2Proof.Machine.execSmpcfg h a s
  | .smpon h a => Sys2Proof.Machine.execSmpon h a s
  | .smpoff h d => Sys2Proof.Machine.execSmpoff h d s
  | .deferredFaultTaken w => Sys2Proof.Machine.execDeferredFaultTaken w s
  | .variableLatencyWrite w id => Sys2Proof.Machine.execVariableLatencyWrite w id s
  | .loadWriteback w id what => Sys2Proof.Machine.execLoadWriteback w id what s
  | .missEntriesTaken w => Sys2Proof.Machine.execMissEntriesTaken w s
  | .acknowledgementReceived id => Sys2Proof.Machine.execAcknowledgementReceived id s
  | .fullEmptyProceed w => Sys2Proof.Machine.execFullEmptyProceed w s
  | .turnExpiry w => Sys2Proof.Machine.execTurnExpiry w s
  | .sleepElapses w => Sys2Proof.Machine.execSleepElapses w s
  | .binTimerExpiry bin => Sys2Proof.Machine.execBinTimerExpiry bin s
  | .waitingBinLaunch bin => Sys2Proof.Machine.execWaitingBinLaunch bin s
  | .waveSlotRelease w => Sys2Proof.Machine.execWaveSlotRelease w s
  | .swapOut w => Sys2Proof.Machine.execSwapOut w s
  | .waveRestore w => Sys2Proof.Machine.execWaveRestore w s
  | .drain w path => Sys2Proof.Machine.execDrain w path s
  | .homeAtomic home ans => Sys2Proof.Machine.execHomeAtomic home ans s
  | .grant rid ans => Sys2Proof.Machine.execGrant rid ans s
  | .grantRequestFailed rid ans => Sys2Proof.Machine.execGrantRequestFailed rid ans s
  | .derive gid => Sys2Proof.Machine.execDerive gid s
  | .returnGrant gid path => Sys2Proof.Machine.execReturnGrant gid path s
  | .returnAcknowledged gid => Sys2Proof.Machine.execReturnAcknowledged gid s
  | .residueWriteback die idx => Sys2Proof.Machine.execResidueWriteback die idx s
  | .copyChunk op path => Sys2Proof.Machine.execCopyChunk op path s
  | .arrive w => Sys2Proof.Machine.execArrive w s
  | .girthDelivery p => Sys2Proof.Machine.execGirthDelivery p s
  | .flush src dst => Sys2Proof.Machine.execFlush src dst s
  | .reinDelivery src m => Sys2Proof.Machine.execReinDelivery src m s
  | .flag id => Sys2Proof.Machine.execFlag id s
  | .stampPass kernel => Sys2Proof.Machine.execStampPass kernel s
  | .completion kernel => Sys2Proof.Machine.execCompletion kernel s
  | .killRelease ctx merged => Sys2Proof.Machine.execKillRelease ctx merged s
  | .barrierRelease group name => Sys2Proof.Machine.execBarrierRelease group name s
  | .copyStart die core => Sys2Proof.Machine.execCopyStart die core s
  | .copyFire op => Sys2Proof.Machine.execCopyFire op s
  | .segmentStart op => Sys2Proof.Machine.execSegmentStart op s
  | .chpushAccept w ch => Sys2Proof.Machine.execChpushAccept w ch s
  | .chpopClaim w => Sys2Proof.Machine.execChpopClaim w s
  | .stagedWritebackDone gid => Sys2Proof.Machine.execStagedWritebackDone gid s
  | .uncorrectableError e tier => Sys2Proof.Machine.execUncorrectableError e tier s
  | .correctableError die => Sys2Proof.Machine.execCorrectableError die s
  | .actldComplete die core => Sys2Proof.Machine.execActldComplete die core s
  | .matrixEntryStart die core => Sys2Proof.Machine.execMatrixEntryStart die core s
  | .obldComplete die core => Sys2Proof.Machine.execObldComplete die core s
  | .mmaComplete die core => Sys2Proof.Machine.execMmaComplete die core s
  | .mdrainComplete die core => Sys2Proof.Machine.execMdrainComplete die core s
  | .unitOpStart die core => Sys2Proof.Machine.execUnitOpStart die core s
  | .unitOpComplete die core => Sys2Proof.Machine.execUnitOpComplete die core s
  | .geodeSearchStart die => Sys2Proof.Machine.execGeodeSearchStart die s
  | .geodeSearchComplete die => Sys2Proof.Machine.execGeodeSearchComplete die s
  | .placement => Sys2Proof.Machine.execPlacement s
  | .groupDrainComplete group => Sys2Proof.Machine.execGroupDrainComplete group s
  | .park ref ia => Sys2Proof.Machine.execPark ref ia s
  | .bounceResend ref ia => Sys2Proof.Machine.execBounceResend ref ia s
  | .replay q => Sys2Proof.Machine.execReplay q s
  | .jxreplay mask => Sys2Proof.Machine.execJxreplay mask s
  | .xinv die w => Sys2Proof.Machine.execXinv die w s
  | .shootDownDone die => Sys2Proof.Machine.execShootDownDone die s
  | .gmibWrite die v => Sys2Proof.Machine.execGmibWrite die v s
  | .rangeRegisterSet ctx n w0 w1 w2 => Sys2Proof.Machine.execRangeRegisterSet ctx n w0 w1 w2 s
  | .fabricTableWrite e v => Sys2Proof.Machine.execFabricTableWrite e v s
  | .inboundWindowWrite w w0 w1 w2 w3 => Sys2Proof.Machine.execInboundWindowWrite w w0 w1 w2 w3 s
  | .registerWrite r v => Sys2Proof.Machine.execRegisterWrite r v s
  | .launch q => Sys2Proof.Machine.execLaunch q s
  | .waitq q => Sys2Proof.Machine.execWaitq q s
  | .mark q => Sys2Proof.Machine.execMark q s
  | .signal q => Sys2Proof.Machine.execSignal q s
  | .slatew q => Sys2Proof.Machine.execSlatew q s
  | .slatewComplete q => Sys2Proof.Machine.execSlatewComplete q s
  | .geodew q => Sys2Proof.Machine.execGeodew q s
  | .geodewComplete q => Sys2Proof.Machine.execGeodewComplete q s
  | .fenceq q => Sys2Proof.Machine.execFenceq q s
  | .dispatch => Sys2Proof.Machine.execDispatch s
  | .queueReset q => Sys2Proof.Machine.execQueueReset q s
  | .contextCreate ctx spec => Sys2Proof.Machine.execContextCreate ctx spec s
  | .contextPreempt ctx => Sys2Proof.Machine.execContextPreempt ctx s
  | .contextResume ctx => Sys2Proof.Machine.execContextResume ctx s
  | .contextKill ctx => Sys2Proof.Machine.execContextKill ctx s
  | .reclaimWalk ctx => Sys2Proof.Machine.execReclaimWalk ctx s
  | .walkDone ctx => Sys2Proof.Machine.execWalkDone ctx s
  | .dieRetirement die => Sys2Proof.Machine.execDieRetirement die s
  | .linkTrain n => Sys2Proof.Machine.execLinkTrain n s
  | .linkFence n => Sys2Proof.Machine.execLinkFence n s
  | .linkUnfence n => Sys2Proof.Machine.execLinkUnfence n s
  | .linkRetire n => Sys2Proof.Machine.execLinkRetire n s
  | .trainingAttempt n near far => Sys2Proof.Machine.execTrainingAttempt n near far s
  | .linkFault n => Sys2Proof.Machine.execLinkFault n s
  | .flitReplay n => Sys2Proof.Machine.execFlitReplay n s
  | .dieReset die force => Sys2Proof.Machine.execDieReset die force s
  | .drainExpiry die => Sys2Proof.Machine.execDrainExpiry die s
  | .inboundAccess ep win port acc => Sys2Proof.Machine.execInboundAccess ep win port acc s
  | .packetResend id => Sys2Proof.Machine.execPacketResend id s
  | .selectiveAck ep win bitmap => Sys2Proof.Machine.execSelectiveAck ep win bitmap s
  | .deliveryContextClose ep => Sys2Proof.Machine.execDeliveryContextClose ep s
  | .packetTimeout id => Sys2Proof.Machine.execPacketTimeout id s
  | .slotBegin => Sys2Proof.Machine.execSlotBegin s
  | .slotEnd => Sys2Proof.Machine.execSlotEnd s
  | .sensorSweep r => Sys2Proof.Machine.execSensorSweep r s
  | .sample die core => Sys2Proof.Machine.execSample die core s
  | .watchdogW0 w => Sys2Proof.Machine.execWatchdogW0 w s
  | .watchdogW1 ctx => Sys2Proof.Machine.execWatchdogW1 ctx s
  | .watchdogW2 ctx => Sys2Proof.Machine.execWatchdogW2 ctx s
  | .watchdogW3 => Sys2Proof.Machine.execWatchdogW3 s
  | .watchdogW4 => Sys2Proof.Machine.execWatchdogW4 s
  | .jxwdogW1 ctx => Sys2Proof.Machine.execJxwdogW1 ctx s
  | .jxwdogW2 die => Sys2Proof.Machine.execJxwdogW2 die s
  | .jxwdogW2Forced die => Sys2Proof.Machine.execJxwdogW2Forced die s
  | .jxwdogW3 => Sys2Proof.Machine.execJxwdogW3 s
  | .jxwdogW4 => Sys2Proof.Machine.execJxwdogW4 s
  | .riggingSwap img => Sys2Proof.Machine.execRiggingSwap img s
  | .swapPause => Sys2Proof.Machine.execSwapPause s
  | .powerGood => Sys2Proof.Machine.execPowerGood s
  | .stageComplete loss => Sys2Proof.Machine.execStageComplete loss s
  | .instructionCacheFill w => Sys2Proof.Machine.execInstructionCacheFill w s
  | .tagSweepDone die sector tag => Sys2Proof.Machine.execTagSweepDone die sector tag s
  | .dieDrainDone die => Sys2Proof.Machine.execDieDrainDone die s
  | .unstageWriteDone gid => Sys2Proof.Machine.execUnstageWriteDone gid s

end Sys2Proof.Machine
end

