-- ==== Sys2Proof/Machine/Sched.lean ====
section
/-! DEFINITION. One clk of the device: what is due at its start, the words that the quads issue (R70, R319), what is due at
its end, and the next clk. -/

namespace Sys2Proof.Machine

open Sys2Proof

/-! What is due at the start of a clk -/

/-- An action that may be possible, done if it is. -/
def State.attempt (s : State) (f : State → Option State) : State := (f s).getD s

/-- A possible action done for every element of a list. -/
def State.forAll {α : Type} (s : State) (l : List α) (f : State → α → Option State) : State :=
  l.foldl (fun s x => s.attempt fun s => f s x) s

/-- Cores that satisfy a test, in ascending order. -/
def State.coresWith (s : State) (f : Core → Bool) : List Nat := (s.cores.zipIdx.filter fun c => f c.1).map (·.2)

/-- The number of a wave's quad on the device: core × 4 + quad. -/
def State.quadOf (s : State) (w : Wave) : Nat := s.coreOf w * 4 + w.quad

/-- Waves that satisfy a test, in ascending order of core and quad. -/
def State.wavesBy (s : State) (f : Wave → Bool) : List Wave := sortBy s.quadOf (s.waves.filter f)

/-- Fixed-latency results and sticky bits that are due have landed; turns end and sleeps elapse (R42, R79, R93). -/
def State.dueWaves (s : State) : State :=
  { s with waves := s.waves.map fun w =>
      let w := { w.landSticky s.clk with early := w.early.filter fun e => decide (s.clk < e.due) }
      let w := if w.wakes s.clk then { w with st := .resident } else w
      if w.turnOver s.clk then w.passTurn s.clk else w }

/-- Bins whose timer is over launch (R89). -/
def State.dueBins (s : State) : State := s.forAll (s.bins.filter fun b => b.over s.clk) fun s b => some (s.closeBin b)

/-- Free slots go to swapped waves whose parked accesses have completed, then to waiting bins, the oldest first (R89, R320). -/
def State.waitingBins (s : State) : State :=
  let s := s.forAll s.claims fun s p => s.takeSpot p.uid
  s.forAll (s.bins.filter (·.waiting)) fun s b => if s.binNext b then s.launchBin? b else none

/-- Miss-status entries go to the waves that wait for them, first come first served (R192). -/
def State.dueMisses (s : State) : State :=
  (s.wavesBy fun w => match w.hold with
    | .miss _ _ _ => true
    | _ => false).foldl (fun s w => s.attempt fun s => s.serveMiss (s.coreOf w)) s

/-- Activation tables, matrix queues, hypervector units and Geodes whose time is over complete (R126, R262, R274, R285). -/
def State.dueDone (s : State) : State :=
  let s : State := { s with cores := s.cores.map fun c => if c.actLoads.isEmpty then c else c.actldOver s.clk }
  let s := s.snapAll
  let s := s.forAll (s.coresWith fun c => !c.matQ.isEmpty) fun s c => do
    let m ← s.matOver c
    match m.kind with
    | .obld _ _ _ _ _ => s.doneObld c m
    | .mma _ _ _ _ _ _ _ _ _ => s.doneMma c m
    | .mdrain _ _ _ _ _ _ _ _ _ _ _ _ _ _ _ _ _ _ => s.doneMdrain c m
  let s := s.forAll (s.coresWith fun c => !c.unitQ.isEmpty) fun s c => do
    let u ← s.unitOver c
    some (s.doneUnit c u)
  s.forAll (List.range 8) fun s d => do
    let x ← s.searchOver d
    some (s.doneSearch d x)

/-- The slot calendar (R348). -/
def State.dueSlot (s : State) : State :=
  if !s.inSlot && s.clk % 65536 == 0 then s.beginSlot
  else if s.inSlot && decide (2048 ≤ s.clk % 65536) then s.endSlot else s

/-- Operations of an engine start while it may take one more (R237). -/
def State.startOps (s : State) (core : Nat) : Nat → State
  | 0 => s
  | n + 1 => match s.nextStart? core with
    | some o => (s.start o).startOps core n
    | none => s

/-- A segment that follows one that has ended starts where it fits (R244). -/
def State.nextSegment (s : State) (o : CopyOp) : Option State := do
  let g ← s.group? o.group
  if !o.started || o.suspended || !s.slotBound o || o.len ≤ o.pos || o.pos + s.chunkLen g o ≤ o.segEnd || !s.fitsSlot o.segBound
  then none
  some (s.setOp { o with segEnd := s.segmentEnd o })

/-- Work that may start now does: copies, segments, matrix entries, unit operations, searches (R237, R238, R244, R262, R274,
R285). -/
def State.dueStarts (s : State) : State :=
  let s := s.forAll s.ops fun s o => do
    let o ← s.op? o.id
    s.tryFire o
  let s := (s.coresWith fun c => !c.engineQ.isEmpty).foldl (fun s c => s.startOps c 4) s
  let s := s.forAll s.ops fun s o => s.nextSegment o
  let s := s.forAll (s.coresWith fun c => !c.matQ.isEmpty) fun s c => do
    let m ← s.matReady c
    some (s.startMat c m).snapAll
  let s := s.forAll (s.coresWith fun c => !c.unitQ.isEmpty) fun s c => do
    let u ← s.unitReady c
    some (s.startUnit c u)
  s.forAll (List.range 8) fun s d => do
    let x ← s.searchReady d
    some (s.setSearch d { x with left := some (searchTime (s.protoCount d x)) })

/-- Everything that is due at the start of a clk. -/
def State.dueStart (s : State) : State :=
  let s := s.dueWaves.dueBins.dueMisses.dueDone.dueSlot.dueLinks.dueStarts.finishOps
  let s := s.forAll (s.waves.filter fun w => w.st == .ended && w.slotHeld) fun s w =>
    if s.slotFree w then some (s.freeWave w) else none
  s.waitingBins.clearHolds.settleKernels.settleReports.settleQueues.dueRecovery.dueWatchdog.landRecords

/-! Issue (R319) -/

/-- %tinfo of PAIR_BANK (Table 3.11). -/
def bankInfo (i : Instr) : Word :=
  match i.paired? with
  | some (x, _, y) => wd (x.banks.toNat + 16 * y.banks.toNat)
  | none => 0

/-- The answer of a meaning counts if the wave has issued or its offer was rejected; a wave that waits has not (R193, R319,
condition 5). -/
def issuedBy (s : State) (o : Out) : Option State :=
  match o with
  | .next t => if s.hasIssued t then some { t with cur := none } else none
  | _ => none

/-- A decoded word issues, traps in check 2 or 3 of R70, or does not issue. `bad` are its static offences, `us` its registers,
`held` whether a maintenance slot holds it, `f` its meaning. A word that traps in decode issues under conditions 3 and 4 of
R319 like any other; the waits of condition 5 belong to what it would do and do not hold it (DEDUCED, assumption 103). -/
def Iss.word (x : Iss) (v : Word) (bad : List Nat) (us : List Use) (clash : Option Word) (slot : Bool) (f : State → Out) :
    Option State :=
  let sc := (wordHd v).sc.toNat
  if !x.clear v us then none
  else match maxPos (bad ++ x.frame.bad us), clash with
    | some p, _ => some { x.trap sc RESERVED_FIELD (wd p) with cur := none }
    | none, some info => some { x.trap sc PAIR_BANK info with cur := none }
    | none, none => if slot then none else issuedBy x.s (f x.s)

/-- The word at a wave's program counter issues, traps in decode, or does not issue. -/
def State.tryWord (s : State) (v : Word) : Option State :=
  match s.iss? with
  | none => none
  | some x =>
    match decodeWord v with
    | .illegal info => some { x.trap (wordHd v).sc.toNat ILLEGAL_OPCODE (wd info) with cur := none }
    | .word bad i => x.word v bad (dynUses s i) (if pairClash i then some (bankInfo i) else none) (s.slotHolds x.w i) (exec i)
    | .smpon bad h a => x.word v bad (hdUses false .zero h ++ rd 1 18 (.s a.toNat 1)) none false (execSmpon h a)
    | .smpoff bad h d => x.word v bad (hdUses false .zero h ++ wr 0 27 (.s d.toNat 1)) none false (execSmpoff h d)

/-- The wave made the issuing one; its wait is over, and its line of code is the most recently used (R381). -/
def State.offer (s : State) (w : Wave) (line : Nat) : State :=
  let s := s.setCore (s.coreOf w) ((s.core (s.coreOf w)).touchLine line)
  { s.setWave { w with hold := .none } with cur := some w.uid }

/-- The line of code at an address. -/
def State.lineAt (s : State) (ctx pc : Nat) : Nat := (s.fetchIa? ctx pc).getD 0 / 64

/-- A wave issues, or takes its oldest deferred fault or a fetch fault instead (R290, R291); none when it is not ready. The
deferred fault is taken at the clk in which the next word would issue. -/
def State.tryWave (s : State) (w : Wave) : Option State :=
  match s.offered? w with
  | none => none
  | some p =>
    match s.fetch (s.coreOf w) (s.ctxOf w) p.pc.toNat with
    | .miss _ => none
    | .fault => some (if w.deferred.isEmpty then s.fetchFault w p else s.takeDeferred w p)
    | .word v =>
      if w.deferred.isEmpty then (s.offer w (s.lineAt (s.ctxOf w) p.pc.toNat)).tryWord v
      else if s.readyWord w v then some (s.takeDeferred w p) else none

/-- A full-empty word that waits may proceed now. -/
def State.feReady (s : State) (w : Wave) : Bool :=
  match w.hold with
  | .fullEmpty _ _ => (s.proceedFe w).isSome
  | _ => false

/-- A channel that a wave's CHPUSH names has room for its entry (R234), or the wave's oldest BARR may arrive (O7). -/
def State.boxReady (s : State) (w : Wave) : Bool :=
  (!w.outbox.isEmpty && (List.range 16).any fun c => (s.accept w c).isSome) ||
  (!w.arrives.isEmpty && (s.arriveHead? w.uid).isSome)

/-- The wave has something to do in its quad's turn. -/
def State.hasTurn (s : State) (w : Wave) : Bool := (s.offered? w).isSome || s.feReady w || s.boxReady w

/-- What waits in a wave's outbox for a channel or a barrier goes there (R224, R234). -/
def State.serveBox (s : State) (w : Wave) : State :=
  let s := if w.outbox.isEmpty then s else s.forAll (List.range 16) fun s c => do
    let w ← s.wave? w.uid
    s.accept w c
  s.forAll w.arrives fun s _ => s.arriveHead? w.uid

/-- The next quad, from the cursor on, with a wave that has something to do. -/
def State.nextQuad? (s : State) : Option Nat :=
  s.waves.foldl (fun m w =>
    let q := s.quadOf w
    if s.cursor ≤ q && (match m with
      | some n => decide (q < n)
      | none => true) && s.hasTurn w then some q else m) none

/-- Waves of a quad in the order of their choice: no last issue first, then the longest ago, ties to the lowest slot
(R319). -/
def State.choice (s : State) (q : Nat) : List Wave :=
  sortBy (fun w => (match w.lastIssue with
    | none => 0
    | some t => t + 1) * 32 + w.slot) (s.waves.filter fun w => w.st == .resident && s.quadOf w == q)

/-- What the waves of a quad have waiting for channels and barriers goes there. -/
def State.serveQuad (s : State) (q : Nat) : State := (s.waves.filter fun w => s.quadOf w == q).foldl State.serveBox s

/-- A quad's turn in a clk: channels take the entries that its waves have pushed, its waves' arrivals act, full-empty words
that wait proceed, in the order in which their waves would be chosen to issue (DESIGN CHOICE, assumption 127), then the first ready
wave issues, and what its word pushes goes at once where there is room (R234). So the events of one clk at barriers and channels
follow each other in ascending order of core and quad (R185, R219, R230, R319). -/
def State.issueQuad (s : State) (q : Nat) : State :=
  let s := s.serveQuad q
  let s := s.forAll (s.choice q) fun s w => do
    let w ← s.wave? w.uid
    s.proceedFe w
  match (s.choice q).findSome? s.tryWave with
  | some t => t.serveQuad q
  | none => s

/-! The end of a clk -/

/-- Arrivals whose last older entry has left after their quad's turn, in ascending order of core and quad (O7, R219). -/
def State.dueArrives (s : State) : State :=
  (s.wavesBy fun w => !w.arrives.isEmpty).foldl (fun s w => s.forAll w.arrives fun s _ => s.arriveHead? w.uid) s

/-- What is due at the end of a clk: arrivals, completion tests, the decisions of brand queues, samples (R149, R219, R224,
R357). -/
def State.dueEnd (s : State) : State :=
  let s := (List.range 8).foldl (fun s d => s.settleBrand d) s.dueArrives.completeBars.dueSweep
  s.forAll (s.coresWith fun c => c.sampler.due s.clk) fun s c => s.takeSample c

/-- The next clk. -/
def State.tick (s : State) : State :=
  { s with clk := s.clk + 1, cursor := 0, issued := [], begun := false,
           dies := s.dies.map fun d => if d.searches.isEmpty then d else { d with searches := d.searches.map Search.tick } }

/-- What the device does of itself: the start of a clk, the turn of one quad, or the end of the clk. -/
def State.advance (s : State) : State :=
  if s.stage == .off then s
  else if !s.begun then { s.dueStart with begun := true, cursor := 0 }
  else match s.nextQuad? with
    | some q => { s.issueQuad q with cursor := q + 1 }
    | none => s.dueEnd.tick

/-- An entry of the agenda. The device itself takes deferred faults, claims of CHPOP, full-empty words, pushed entries,
arrivals and samples, each in its place in the clk, and a word needs an issuing wave: such an entry stands for what the
device does of itself (assumption 1). -/
def State.act (i : Instr) (s : State) : State :=
  match i with
  | .deferredFaultTaken _ | .chpopClaim _ | .fullEmptyProceed _ | .sample _ _ | .arrive _ | .chpushAccept _ _ => s.advance
  | _ =>
    match exec i { s with cur := none } with
    | .next t => t
    | _ => s.advance

/-- The core at whose engine an event accounts bytes against a barrier: that of the operation of a chunk that is performed or written
at its home (R241). -/
def State.accCore? (s : State) (i : Instr) : Option Nat :=
  let of (id : Nat) : Option Nat := (s.op? id).bind fun o => if o.acc.isSome then some o.core else none
  match i with
  | .copyChunk id _ => of id
  | .girthDelivery x => (s.packets.find? (·.id == x.at_)).bind fun p => match p.kind with
    | .chunk id => of id
    | _ => none
  | _ => none

/-- An event may come now in its clk. Events follow what is due at the clk's start. Where the order of one clk is the order of
cores and quads (R219), a chunk accounts bytes after the words of the cores below its own and before those of the cores above;
an operation fires before the quads of its group have had their turns, since firings come before words (R230); and an entry on
which an arrival waits drains before its quad's turn is over (DEDUCED, assumption 104). -/
def State.eventTurn (s : State) (i : Instr) : Bool :=
  s.stage == .off || s.begun && (s.accCore? i).all (fun c => s.cursor ≤ 4 * c + 4 && s.nextQuad?.all (4 * c ≤ ·)) && match i with
    | .copyFire id => match (s.op? id).bind fun o => s.group? o.group with
      | some g => decide (s.cursor ≤ 4 * (g.die * 40 + g.cores.headD 0))
      | none => true
    | .drain w _ => match s.wave? w with
      | some v => v.arrives.isEmpty || decide (s.cursor ≤ s.quadOf v)
      | none => true
    | _ => true

/-- The agenda entry `i` taken, `r` left: after an event of a core at a barrier the cores below have had their turns
(R219). -/
def State.taken (s : State) (i : Instr) (r : List Instr) : State :=
  { s with agenda := r, cursor := max s.cursor (((s.accCore? i).map (4 * ·)).getD 0) }

/-- One step of the device: the next entry of the agenda once its place in the clk has come, else what the device does of
itself. -/
def State.turn (s : State) : State :=
  match s.agenda with
  | [] => s.advance
  | i :: r =>
    if s.eventTurn i then State.act i (s.taken i r) else s.advance

/-! A word where the next step fetches it -/

/-- The wave whose word the next step fetches, with its core, its line of code and its word's place in the line. -/
def State.fetchSite? (s : State) : Option (Nat × Nat × Nat) := do
  let q ← s.nextQuad?
  let w ← (s.choice q).find? fun w => (s.offered? w).isSome
  let p ← s.offered? w
  let ia ← s.fetchIa? (s.ctxOf w) p.pc.toNat
  let _ ← (s.core (s.coreOf w)).icache.find? (·.line == ia / 64)
  if w.deferred.isEmpty then some (s.coreOf w, ia / 64, ia / 8 % 8) else none

/-- A context with one range register: 16 KiB of code at virtual address 0, IA 0, with every permission. -/
def codeCtx : Ctx :=
  { Ctx.reset with st := .active, vdies := 8, cap := 16,
                   maps := [mapOf 0xF 0 1] ++ (List.replicate 15 (mapOf 0 0 0)) }

/-- A kernel of one group of one wave, entry at virtual address 0, the largest window. -/
def codeKernel (uid : Nat) : Kernel :=
  { uid := uid, ctx := 0, queue := 0, kid := 0, st := .running, producer := none, order := 0, entry := 0, trapent := 0,
    fp := 0, wpg := 1, ngrp := 1, early := false, det := false, scr := 0, win := 384, views := 0, seed := 0, args := [],
    placed := 1, done := 0, stamp := none, dies := [0], reports := none }

/-- Its group, on core 0 of die 0. -/
def codeGroup (uid kernel : Nat) : Group :=
  { uid := uid, kernel := kernel, grp := 0, st := .running, vdie := 0, die := 0, unit_ := 0, cores := [0], bases := [0],
    nextIdx := 1, bars := [], chans := [], cvs := [], laces := [], ress := [], salt := 0, frame := [], frameFull := [],
    frameOb := [], frameSmp := none }

/-- A wave of one fibre at a line of code that the core's cache holds, about to issue. -/
def State.withCode (s : State) (w : Word) : State :=
  let u := s.nextUid
  let k := codeKernel u
  let g := codeGroup (u + 1) u
  let v := Wave.launch (u + 2) 0 0 0 0 s.clk g k 0 1 [] []
  let c := s.core 0
  { (s.setCore 0 { c with icache := { line := 0, words := [w, 0, 0, 0, 0, 0, 0, 0] } :: c.icache }).setCtx 0 codeCtx with
      kernels := s.kernels ++ [k], groups := s.groups ++ [g], waves := s.waves ++ [v], nextUid := u + 3, cursor := 0 }

/-- A word put where the next step fetches one, or else a wave that fetches it. -/
def State.putWord (s : State) (w : Word) : State :=
  let s : State := { s with stage := .full, agenda := [], begun := true, cur := none }
  match s.fetchSite? with
  | some (core, line, i) =>
    let c := s.core core
    s.setCore core { c with icache := c.icache.map fun l => if l.line == line then { l with words := l.words.set i w } else l }
  | none => s.withCode w

end Sys2Proof.Machine
end

