-- ==== Sys2Proof/Machine/Step.lean ====
section
/-! DEFINITION. The step of the machine: the next entry of the agenda, or what the device does of itself. -/

namespace Sys2Proof.Machine

open Sys2Proof

/-- One step. -/
def step (s : State) : Host.Outcome State Fault Refusal := .next s.turn

/-- A state in which the next step fetches the 64-bit word of a table row and runs it: the row's bits, zeros above. -/
def State.withFetchWord (s : State) (nbits w : Nat) : State := s.putWord (BitVec.ofNat 64 (w % 2 ^ nbits))

end Sys2Proof.Machine
end

