-- ==== Sys2Proof/Laws/Decode.lean ====
section
/-! SUPPORT. Fields packed into a word are read back; the codes of the named field values are read back. -/

namespace Sys2Proof.Laws

open Sys2Proof

theorem lo_append {n m : Nat} (x : BitVec n) (y : BitVec m) : lo m (x ++ y) = y := by
  simp [lo, BitVec.extractLsb'_append_eq_of_add_le]

theorem hi_append {n m : Nat} (x : BitVec n) (y : BitVec m) : hi n m (x ++ y) = x := by
  apply BitVec.eq_of_getLsbD_eq
  intro i h
  simp [hi, BitVec.getLsbD_append, h]

/-- The two parts of a value put together again. -/
theorem hi_lo {n m : Nat} (x : BitVec (n + m)) : hi n m x ++ lo m x = x := by
  apply BitVec.eq_of_getLsbD_eq
  intro i h
  by_cases hm : i < m
  · simp [hi, lo, BitVec.getLsbD_append, hm]
  · have : i - m < n := by omega
    simp [hi, lo, BitVec.getLsbD_append, hm, this]

theorem zext_toNat {n m : Nat} (x : BitVec m) : (0#n ++ x).toNat = x.toNat := by simp

@[simp] theorem hi_1_3 (x : BitVec 1) (y : BitVec 3) : hi 1 3 (k := 4) (x ++ y) = x := hi_append x y
@[simp] theorem lo_1_3 (x : BitVec 1) (y : BitVec 3) : lo 3 (k := 4) (x ++ y) = y := lo_append x y
@[simp] theorem hi_1_4 (x : BitVec 1) (y : BitVec 4) : hi 1 4 (k := 5) (x ++ y) = x := hi_append x y
@[simp] theorem lo_1_4 (x : BitVec 1) (y : BitVec 4) : lo 4 (k := 5) (x ++ y) = y := lo_append x y
@[simp] theorem hi_1_5 (x : BitVec 1) (y : BitVec 5) : hi 1 5 (k := 6) (x ++ y) = x := hi_append x y
@[simp] theorem lo_1_5 (x : BitVec 1) (y : BitVec 5) : lo 5 (k := 6) (x ++ y) = y := lo_append x y
@[simp] theorem hi_1_6 (x : BitVec 1) (y : BitVec 6) : hi 1 6 (k := 7) (x ++ y) = x := hi_append x y
@[simp] theorem lo_1_6 (x : BitVec 1) (y : BitVec 6) : lo 6 (k := 7) (x ++ y) = y := lo_append x y
@[simp] theorem hi_1_8 (x : BitVec 1) (y : BitVec 8) : hi 1 8 (k := 9) (x ++ y) = x := hi_append x y
@[simp] theorem lo_1_8 (x : BitVec 1) (y : BitVec 8) : lo 8 (k := 9) (x ++ y) = y := lo_append x y
@[simp] theorem hi_1_62 (x : BitVec 1) (y : BitVec 62) : hi 1 62 (k := 63) (x ++ y) = x := hi_append x y
@[simp] theorem lo_1_62 (x : BitVec 1) (y : BitVec 62) : lo 62 (k := 63) (x ++ y) = y := lo_append x y
@[simp] theorem hi_1_63 (x : BitVec 1) (y : BitVec 63) : hi 1 63 (k := 64) (x ++ y) = x := hi_append x y
@[simp] theorem lo_1_63 (x : BitVec 1) (y : BitVec 63) : lo 63 (k := 64) (x ++ y) = y := lo_append x y
@[simp] theorem hi_2_2 (x : BitVec 2) (y : BitVec 2) : hi 2 2 (k := 4) (x ++ y) = x := hi_append x y
@[simp] theorem lo_2_2 (x : BitVec 2) (y : BitVec 2) : lo 2 (k := 4) (x ++ y) = y := lo_append x y
@[simp] theorem hi_2_3 (x : BitVec 2) (y : BitVec 3) : hi 2 3 (k := 5) (x ++ y) = x := hi_append x y
@[simp] theorem lo_2_3 (x : BitVec 2) (y : BitVec 3) : lo 3 (k := 5) (x ++ y) = y := lo_append x y
@[simp] theorem hi_2_4 (x : BitVec 2) (y : BitVec 4) : hi 2 4 (k := 6) (x ++ y) = x := hi_append x y
@[simp] theorem lo_2_4 (x : BitVec 2) (y : BitVec 4) : lo 4 (k := 6) (x ++ y) = y := lo_append x y
@[simp] theorem hi_2_5 (x : BitVec 2) (y : BitVec 5) : hi 2 5 (k := 7) (x ++ y) = x := hi_append x y
@[simp] theorem lo_2_5 (x : BitVec 2) (y : BitVec 5) : lo 5 (k := 7) (x ++ y) = y := lo_append x y
@[simp] theorem hi_2_6 (x : BitVec 2) (y : BitVec 6) : hi 2 6 (k := 8) (x ++ y) = x := hi_append x y
@[simp] theorem lo_2_6 (x : BitVec 2) (y : BitVec 6) : lo 6 (k := 8) (x ++ y) = y := lo_append x y
@[simp] theorem hi_2_7 (x : BitVec 2) (y : BitVec 7) : hi 2 7 (k := 9) (x ++ y) = x := hi_append x y
@[simp] theorem lo_2_7 (x : BitVec 2) (y : BitVec 7) : lo 7 (k := 9) (x ++ y) = y := lo_append x y
@[simp] theorem hi_2_51 (x : BitVec 2) (y : BitVec 51) : hi 2 51 (k := 53) (x ++ y) = x := hi_append x y
@[simp] theorem lo_2_51 (x : BitVec 2) (y : BitVec 51) : lo 51 (k := 53) (x ++ y) = y := lo_append x y
@[simp] theorem hi_3_1 (x : BitVec 3) (y : BitVec 1) : hi 3 1 (k := 4) (x ++ y) = x := hi_append x y
@[simp] theorem lo_3_1 (x : BitVec 3) (y : BitVec 1) : lo 1 (k := 4) (x ++ y) = y := lo_append x y
@[simp] theorem hi_3_2 (x : BitVec 3) (y : BitVec 2) : hi 3 2 (k := 5) (x ++ y) = x := hi_append x y
@[simp] theorem lo_3_2 (x : BitVec 3) (y : BitVec 2) : lo 2 (k := 5) (x ++ y) = y := lo_append x y
@[simp] theorem hi_3_6 (x : BitVec 3) (y : BitVec 6) : hi 3 6 (k := 9) (x ++ y) = x := hi_append x y
@[simp] theorem lo_3_6 (x : BitVec 3) (y : BitVec 6) : lo 6 (k := 9) (x ++ y) = y := lo_append x y
@[simp] theorem hi_3_7 (x : BitVec 3) (y : BitVec 7) : hi 3 7 (k := 10) (x ++ y) = x := hi_append x y
@[simp] theorem lo_3_7 (x : BitVec 3) (y : BitVec 7) : lo 7 (k := 10) (x ++ y) = y := lo_append x y
@[simp] theorem hi_3_15 (x : BitVec 3) (y : BitVec 15) : hi 3 15 (k := 18) (x ++ y) = x := hi_append x y
@[simp] theorem lo_3_15 (x : BitVec 3) (y : BitVec 15) : lo 15 (k := 18) (x ++ y) = y := lo_append x y
@[simp] theorem hi_3_36 (x : BitVec 3) (y : BitVec 36) : hi 3 36 (k := 39) (x ++ y) = x := hi_append x y
@[simp] theorem lo_3_36 (x : BitVec 3) (y : BitVec 36) : lo 36 (k := 39) (x ++ y) = y := lo_append x y
@[simp] theorem hi_4_2 (x : BitVec 4) (y : BitVec 2) : hi 4 2 (k := 6) (x ++ y) = x := hi_append x y
@[simp] theorem lo_4_2 (x : BitVec 4) (y : BitVec 2) : lo 2 (k := 6) (x ++ y) = y := lo_append x y
@[simp] theorem hi_4_3 (x : BitVec 4) (y : BitVec 3) : hi 4 3 (k := 7) (x ++ y) = x := hi_append x y
@[simp] theorem lo_4_3 (x : BitVec 4) (y : BitVec 3) : lo 3 (k := 7) (x ++ y) = y := lo_append x y
@[simp] theorem hi_4_4 (x : BitVec 4) (y : BitVec 4) : hi 4 4 (k := 8) (x ++ y) = x := hi_append x y
@[simp] theorem lo_4_4 (x : BitVec 4) (y : BitVec 4) : lo 4 (k := 8) (x ++ y) = y := lo_append x y
@[simp] theorem hi_4_5 (x : BitVec 4) (y : BitVec 5) : hi 4 5 (k := 9) (x ++ y) = x := hi_append x y
@[simp] theorem lo_4_5 (x : BitVec 4) (y : BitVec 5) : lo 5 (k := 9) (x ++ y) = y := lo_append x y
@[simp] theorem hi_4_39 (x : BitVec 4) (y : BitVec 39) : hi 4 39 (k := 43) (x ++ y) = x := hi_append x y
@[simp] theorem lo_4_39 (x : BitVec 4) (y : BitVec 39) : lo 39 (k := 43) (x ++ y) = y := lo_append x y
@[simp] theorem hi_4_43 (x : BitVec 4) (y : BitVec 43) : hi 4 43 (k := 47) (x ++ y) = x := hi_append x y
@[simp] theorem lo_4_43 (x : BitVec 4) (y : BitVec 43) : lo 43 (k := 47) (x ++ y) = y := lo_append x y
@[simp] theorem hi_4_47 (x : BitVec 4) (y : BitVec 47) : hi 4 47 (k := 51) (x ++ y) = x := hi_append x y
@[simp] theorem lo_4_47 (x : BitVec 4) (y : BitVec 47) : lo 47 (k := 51) (x ++ y) = y := lo_append x y
@[simp] theorem hi_5_4 (x : BitVec 5) (y : BitVec 4) : hi 5 4 (k := 9) (x ++ y) = x := hi_append x y
@[simp] theorem lo_5_4 (x : BitVec 5) (y : BitVec 4) : lo 4 (k := 9) (x ++ y) = y := lo_append x y
@[simp] theorem hi_6_3 (x : BitVec 6) (y : BitVec 3) : hi 6 3 (k := 9) (x ++ y) = x := hi_append x y
@[simp] theorem lo_6_3 (x : BitVec 6) (y : BitVec 3) : lo 3 (k := 9) (x ++ y) = y := lo_append x y
@[simp] theorem hi_7_2 (x : BitVec 7) (y : BitVec 2) : hi 7 2 (k := 9) (x ++ y) = x := hi_append x y
@[simp] theorem lo_7_2 (x : BitVec 7) (y : BitVec 2) : lo 2 (k := 9) (x ++ y) = y := lo_append x y
@[simp] theorem hi_7_11 (x : BitVec 7) (y : BitVec 11) : hi 7 11 (k := 18) (x ++ y) = x := hi_append x y
@[simp] theorem lo_7_11 (x : BitVec 7) (y : BitVec 11) : lo 11 (k := 18) (x ++ y) = y := lo_append x y
@[simp] theorem hi_7_24 (x : BitVec 7) (y : BitVec 24) : hi 7 24 (k := 31) (x ++ y) = x := hi_append x y
@[simp] theorem lo_7_24 (x : BitVec 7) (y : BitVec 24) : lo 24 (k := 31) (x ++ y) = y := lo_append x y
@[simp] theorem hi_8_1 (x : BitVec 8) (y : BitVec 1) : hi 8 1 (k := 9) (x ++ y) = x := hi_append x y
@[simp] theorem lo_8_1 (x : BitVec 8) (y : BitVec 1) : lo 1 (k := 9) (x ++ y) = y := lo_append x y
@[simp] theorem hi_8_8 (x : BitVec 8) (y : BitVec 8) : hi 8 8 (k := 16) (x ++ y) = x := hi_append x y
@[simp] theorem lo_8_8 (x : BitVec 8) (y : BitVec 8) : lo 8 (k := 16) (x ++ y) = y := lo_append x y
@[simp] theorem hi_8_16 (x : BitVec 8) (y : BitVec 16) : hi 8 16 (k := 24) (x ++ y) = x := hi_append x y
@[simp] theorem lo_8_16 (x : BitVec 8) (y : BitVec 16) : lo 16 (k := 24) (x ++ y) = y := lo_append x y
@[simp] theorem hi_9_9 (x : BitVec 9) (y : BitVec 9) : hi 9 9 (k := 18) (x ++ y) = x := hi_append x y
@[simp] theorem lo_9_9 (x : BitVec 9) (y : BitVec 9) : lo 9 (k := 18) (x ++ y) = y := lo_append x y
@[simp] theorem hi_9_18 (x : BitVec 9) (y : BitVec 18) : hi 9 18 (k := 27) (x ++ y) = x := hi_append x y
@[simp] theorem lo_9_18 (x : BitVec 9) (y : BitVec 18) : lo 18 (k := 27) (x ++ y) = y := lo_append x y
@[simp] theorem hi_9_27 (x : BitVec 9) (y : BitVec 27) : hi 9 27 (k := 36) (x ++ y) = x := hi_append x y
@[simp] theorem lo_9_27 (x : BitVec 9) (y : BitVec 27) : lo 27 (k := 36) (x ++ y) = y := lo_append x y
@[simp] theorem hi_10_53 (x : BitVec 10) (y : BitVec 53) : hi 10 53 (k := 63) (x ++ y) = x := hi_append x y
@[simp] theorem lo_10_53 (x : BitVec 10) (y : BitVec 53) : lo 53 (k := 63) (x ++ y) = y := lo_append x y
@[simp] theorem hi_31_31 (x : BitVec 31) (y : BitVec 31) : hi 31 31 (k := 62) (x ++ y) = x := hi_append x y
@[simp] theorem lo_31_31 (x : BitVec 31) (y : BitVec 31) : lo 31 (k := 62) (x ++ y) = y := lo_append x y
@[simp] theorem zext_1 (x : BitVec 8) : (0#1 ++ x : BitVec 9).toNat = x.toNat := zext_toNat x
@[simp] theorem lt_8 (x : BitVec 8) : x.toNat < 256 := x.isLt
@[simp] theorem zext_2 (x : BitVec 7) : (0#2 ++ x : BitVec 9).toNat = x.toNat := zext_toNat x
@[simp] theorem lt_7 (x : BitVec 7) : x.toNat < 128 := x.isLt
@[simp] theorem zext_4 (x : BitVec 5) : (0#4 ++ x : BitVec 9).toNat = x.toNat := zext_toNat x
@[simp] theorem lt_5 (x : BitVec 5) : x.toNat < 32 := x.isLt
@[simp] theorem zext_5 (x : BitVec 4) : (0#5 ++ x : BitVec 9).toNat = x.toNat := zext_toNat x
@[simp] theorem lt_4 (x : BitVec 4) : x.toNat < 16 := x.isLt
@[simp] theorem zext_6 (x : BitVec 3) : (0#6 ++ x : BitVec 9).toNat = x.toNat := zext_toNat x
@[simp] theorem lt_3 (x : BitVec 3) : x.toNat < 8 := x.isLt
@[simp] theorem zext_7 (x : BitVec 2) : (0#7 ++ x : BitVec 9).toNat = x.toNat := zext_toNat x
@[simp] theorem lt_2 (x : BitVec 2) : x.toNat < 4 := x.isLt
@[simp] theorem zext_8 (x : BitVec 1) : (0#8 ++ x : BitVec 9).toNat = x.toNat := zext_toNat x
@[simp] theorem lt_1 (x : BitVec 1) : x.toNat < 2 := x.isLt

@[simp] theorem hi_lo_9_9 (x : BitVec 18) : hi 9 9 x ++ lo 9 x = x := hi_lo (n := 9) (m := 9) x

@[simp] theorem hi_lo_9_18 (x : BitVec 27) : hi 9 18 x ++ (hi 9 9 (lo 18 x) ++ lo 9 (lo 18 x)) = x := by
  rw [hi_lo_9_9]; exact hi_lo (n := 9) (m := 18) x

@[simp] theorem hi_lo_27 (x : BitVec 27) : hi 9 18 x ++ lo 18 x = x := hi_lo (n := 9) (m := 18) x

@[simp] theorem le_1 (x : BitVec 1) : x.toNat ≤ 1 := by have := x.isLt; omega

/-! Codes -/

@[simp] theorem itype_rt (c : IType) : IType.ofCode c.code = c := by cases c <;> rfl
@[simp] theorem ftype_rt (c : FType) : FType.ofCode c.code = c := by cases c <;> rfl
@[simp] theorem rm_rt (c : Rm) : Rm.ofCode c.code = c := by cases c <;> rfl
@[simp] theorem cond_rt (c : Cond) : Cond.ofCode c.code = c := by cases c <;> rfl
@[simp] theorem cvt_rt (c : CvtType) : CvtType.ofCode c.code = c := by rcases c with c | c <;> cases c <;> rfl
@[simp] theorem shf_rt (c : ShfMode) : ShfMode.ofCode c.code = c := by cases c <;> rfl
@[simp] theorem vote_rt (c : VoteMode) : VoteMode.ofCode c.code = c := by cases c <;> rfl
@[simp] theorem fe_rt (c : Fe) : Fe.ofCode c.code = c := by cases c <;> rfl
@[simp] theorem atOp_rt (c : AtOp) : AtOp.ofCode c.code = c := by cases c <;> rfl
@[simp] theorem kind_rt (c : Kind) : Kind.ofCode c.code = c := by cases c <;> rfl
@[simp] theorem scope_rt (c : Scope) : Scope.ofCode c.code = c := by cases c <;> rfl
@[simp] theorem mfmt_rt (c : MFmt) : MFmt.ofCode c.code = c := by cases c <;> rfl
@[simp] theorem ctrw_rt (c : CtrW) : CtrW.ofCode c.code = c := by cases c <;> rfl
@[simp] theorem special_rt (c : Special) : Special.ofCode c.code = c := by cases c <;> rfl
@[simp] theorem pairOp_rt (c : PairOp) : PairOp.ofCode c.code = some c := by
  rcases c with _ | _ | c | c | c | c | _ | _ | _ | _ | c | c | c | c <;> first | rfl | (cases c <;> rfl)
theorem rm_rt2 (c : Rm) (h : c ≠ .sr) : Rm.ofCode2 c.code2 = c := by cases c <;> first | rfl | exact absurd rfl h
@[simp] theorem endp_rt (e : Endp) (b : Bool) (h : e.ok b = true) : Endp.ofCode e.code = e := by
  rcases e with g | _ | c
  · simp only [Endp.ok, decide_eq_true_eq] at h
    have : (0#4 ++ g : BitVec 9).toNat = g.toNat := zext_toNat (n := 4) (m := 5) g
    simp only [Endp.code, Endp.ofCode, this, if_pos h]
    exact congrArg Endp.region (lo_append (n := 4) (m := 5) 0#4 g)
  · rfl
  · clear h; revert c; decide
theorem endp_ok {e : Endp} {b : Bool} (h : e.ok b = true) : endpBad b e.code = false := by
  rcases e with g | _ | c
  · simp only [Endp.ok, decide_eq_true_eq] at h
    have : (0#4 ++ g : BitVec 9).toNat = g.toNat := zext_toNat (n := 4) (m := 5) g
    simp only [Endp.code, endpBad, this]
    simp; omega
  · cases b <;> rfl
  · simp only [Endp.ok] at h; subst h; revert c; decide

@[simp] theorem cvt_ok (c : CvtType) : CvtType.bad c.code = false := by rcases c with c | c <;> cases c <;> rfl
@[simp] theorem shf_ok (c : ShfMode) : ShfMode.bad c.code = false := by cases c <;> rfl
@[simp] theorem vote_ok (c : VoteMode) : VoteMode.bad c.code = false := by cases c <;> rfl
@[simp] theorem fe_ok (c : Fe) : Fe.bad c.code = false := by cases c <;> rfl
@[simp] theorem atOp_ok (c : AtOp) : AtOp.bad c.code = false := by cases c <;> rfl
@[simp] theorem kind_ok (c : Kind) : Kind.bad c.code = false := by cases c <;> rfl
@[simp] theorem scope_ok (c : Scope) : Scope.bad c.code = false := by cases c <;> rfl
@[simp] theorem mfmt_ok (c : MFmt) : MFmt.bad c.code = false := by cases c <;> rfl
@[simp] theorem ctrw_ok (c : CtrW) : CtrW.bad c.code = false := by cases c <;> rfl
@[simp] theorem rm_lt5 (c : Rm) : c.code.toNat < 5 := by cases c <;> decide
@[simp] theorem rm_lt4 (c : Rm) : c.code.toNat < 4 ↔ c ≠ .sr := by cases c <;> decide
@[simp] theorem special_lt (c : Special) : c.code.toNat < 15 := by cases c <;> decide
@[simp] theorem ofBool_rt (b : Bool) : (ofBool b == 1#1) = b := by cases b <;> rfl
@[simp] theorem ofBool_eq (b : Bool) : (ofBool b = 1#1) ↔ b = true := by cases b <;> decide

/-! Words -/

theorem unpack_mk (h op d a b c) : unpackFields (lo 63 (mk h op d a b c)) = ⟨op, h, d, a, b, c⟩ := by
  have e : lo 63 (mk h op d a b c) =
      (op ++ (h.lgc ++ (h.lgcond.code ++ (h.ug.code ++ (h.sc ++ (h.x ++ (d ++ (a ++ (b ++ c)))))))) : BitVec 63) :=
    lo_append (n := 1) (m := 63) _ _
  rw [e]
  simp only [unpackFields, lo_append, hi_append, cond_rt]

/-- A full-form word decodes by its fields. -/
theorem decodeWord_mk (h op d a b c) : decodeWord (mk h op d a b c) = decodeFields ⟨op, h, d, a, b, c⟩ := by
  have : hi 1 63 (mk h op d a b c) = 0#1 := hi_append (n := 1) (m := 63) _ _
  rw [decodeWord, this, unpack_mk]; rfl

theorem class0 {op h d a b c} (hc : hi 3 7 op = 0#3) :
    decodeFields ⟨op, h, d, a, b, c⟩ = decodeControl ⟨op, h, d, a, b, c⟩ := by simp [decodeFields, hc]
theorem class1v {op h d a b c} (hc : hi 3 7 op = 1#3) (hl : op.toNat < 0x0C0) :
    decodeFields ⟨op, h, d, a, b, c⟩ = decodeIntegerVector ⟨op, h, d, a, b, c⟩ := by simp [decodeFields, hc, hl]
theorem class1s {op h d a b c} (hc : hi 3 7 op = 1#3) (hl : ¬op.toNat < 0x0C0) :
    decodeFields ⟨op, h, d, a, b, c⟩ = decodeIntegerScalar ⟨op, h, d, a, b, c⟩ := by
  simp only [decodeFields, hc, hl]; rfl
theorem class2 {op h d a b c} (hc : hi 3 7 op = 2#3) :
    decodeFields ⟨op, h, d, a, b, c⟩ = decodeFloat ⟨op, h, d, a, b, c⟩ := by simp [decodeFields, hc]
theorem class3 {op h d a b c} (hc : hi 3 7 op = 3#3) :
    decodeFields ⟨op, h, d, a, b, c⟩ = decodeConvert ⟨op, h, d, a, b, c⟩ := by simp [decodeFields, hc]
theorem class4 {op h d a b c} (hc : hi 3 7 op = 4#3) :
    decodeFields ⟨op, h, d, a, b, c⟩ = decodeMemory ⟨op, h, d, a, b, c⟩ := by simp [decodeFields, hc]
theorem class5 {op h d a b c} (hc : hi 3 7 op = 5#3) :
    decodeFields ⟨op, h, d, a, b, c⟩ = decodeRegion ⟨op, h, d, a, b, c⟩ := by simp [decodeFields, hc]
theorem class6 {op h d a b c} (hc : hi 3 7 op = 6#3) :
    decodeFields ⟨op, h, d, a, b, c⟩ = decodeEngine ⟨op, h, d, a, b, c⟩ := by simp [decodeFields, hc]
theorem class7 {op h d a b c} (hc : hi 3 7 op = 7#3) :
    decodeFields ⟨op, h, d, a, b, c⟩ = decodeSystem ⟨op, h, d, a, b, c⟩ := by simp [decodeFields, hc]

/-- A word without offences is its instruction. -/
theorem decode_of {w : Word} {bad : List Nat} {i : Instr} (hd : decodeWord w = .word bad i) (hb : bad = [])
    (hp : pairClash i = false) : decode w = some i := by
  simp [decode, hd, hb, hp]

/-- Legal issue fields give no offence. -/
theorem hdBad_ok {h : Hd} {l r} (hw : h.ok l r = true) : hdBad l r h = [] := by
  simp only [Hd.ok, Bool.and_eq_true] at hw
  cases l <;> simp_all [hdBad, off]

end Sys2Proof.Laws
end

