-- ==== Sys2Proof/Laws/PerInstr.lean ====
section
/-! SUPPORT. Statements made of every instruction, one lemma per constructor. `RoundTrip`: the decoder reads back what the
encoder writes (R50, R66, R72). -/

namespace Sys2Proof.Laws.RoundTrip

open Sys2Proof Sys2Proof.Laws

/-- A well-formed instruction word decodes to itself. -/
def Statement (i : Instr) : Prop := i.isWord = true → i.wf = true → decode (encode i) = some i

theorem unpack_pack (s : Slot) (sc : BitVec 3) : unpackSlot (packSlot s sc) = ⟨s.op.code, s.d, s.a, s.g.code, sc, 0#1⟩ := by
  simp only [unpackSlot, packSlot, lo_append, hi_append]

theorem slotBad_ok {s : Slot} (h : s.ok = true) (p : Nat) (sc : BitVec 3) :
    slotBad p ⟨s.op.code, s.d, s.a, s.g.code, sc, 0#1⟩ = [] := by
  have hn : s.op.code = 0 → s.op = .nop := fun he => by
    have := congrArg PairOp.ofCode he
    rw [pairOp_rt] at this
    exact Option.some.inj this
  by_cases h0 : s.op = .nop
  · simp only [Slot.ok, h0] at h
    simp only [slotBad, h0]
    have hc : s.g.code = 0 ↔ s.g = .al := by cases s.g <;> decide
    simp_all [off]
  · have : ¬s.op.code = 0#7 := fun he => h0 (hn he)
    simp [slotBad, this, off]

/-- A paired word is read back slot by slot. -/
theorem paired {i : Instr} {x y : Slot} {sc : BitVec 3} (hp : i.paired? = some (x, sc, y)) (hm : mkPair x sc y = i)
    (hwf : i.wf = pairOk i.paired?) : Statement i := by
  intro _ hw
  rw [hwf, hp] at hw
  simp only [pairOk, Bool.and_eq_true] at hw
  have hwd : encode i = (1#1 ++ (0#1 ++ (packSlot x 0 ++ packSlot y sc)) : BitVec 64) := by simp only [encode, hp]
  have h1 : hi 1 63 (encode i) = 1#1 := by rw [hwd]; exact hi_append (n := 1) (m := 63) _ _
  have h2 : lo 63 (encode i) = (0#1 ++ (packSlot x 0 ++ packSlot y sc) : BitVec 63) := by
    rw [hwd]; exact lo_append (n := 1) (m := 63) _ _
  have h3 : decodeWord (encode i) = .word [] i := by
    rw [decodeWord, h1, h2]
    simp only [decodePaired]
    rw [show hi 1 62 (0#1 ++ (packSlot x 0 ++ packSlot y sc) : BitVec 63) = 0#1 from hi_append (n := 1) (m := 62) _ _,
      show lo 62 (0#1 ++ (packSlot x 0 ++ packSlot y sc) : BitVec 63) = packSlot x 0 ++ packSlot y sc from
        lo_append (n := 1) (m := 62) _ _]
    rw [show hi 31 31 (packSlot x 0 ++ packSlot y sc) = packSlot x 0 from hi_append _ _,
      show lo 31 (packSlot x 0 ++ packSlot y sc) = packSlot y sc from lo_append _ _]
    simp [unpack_pack, slotBad_ok hw.1.1, slotBad_ok hw.1.2, hm, off]
  refine decode_of h3 rfl ?_
  simp [pairClash, hp, hw.2]

theorem ffma (h : Hd) (d a b c : VCode) (f : FType) (rm : Rm) : Statement (.ffma h d a b c f rm) := by
  intro _ hw
  replace hw : (h.ok true .flags && decide (d.toNat < 384) && (rm != Rm.sr)) = true := hw
  simp only [Bool.and_eq_true, decide_eq_true_eq] at hw
  have e : decodeFloat ⟨0x12#6 ++ (f.code ++ rm.code2), h, d, a, b, c⟩ =
      .word (hdBad true .flags h ++ off 27 (384 ≤ d.toNat)) (.ffma h d a b c f rm) := by
    cases f <;> cases rm <;> first | rfl | exact absurd hw.2 (by decide)
  have hc : hi 3 7 (0x12#6 ++ (f.code ++ rm.code2) : BitVec 10) = 2#3 := by cases f <;> cases rm <;> rfl
  refine decode_of ((decodeWord_mk h _ d a b c).trans ((class2 hc).trans e)) ?_ rfl
  simp [off, hdBad_ok hw.1.1, hw]

theorem fdot2 (h : Hd) (d a b c : VCode) (bf : Bool) (rm : Rm) : Statement (.fdot2 h d a b c bf rm) := by
  intro _ hw
  replace hw : (h.ok true .flags && decide (d.toNat < 384) && (rm != Rm.sr)) = true := hw
  simp only [Bool.and_eq_true, decide_eq_true_eq] at hw
  have e : decodeFloat ⟨0x26#7 ++ (ofBool bf ++ rm.code2), h, d, a, b, c⟩ =
      .word (hdBad true .flags h ++ off 27 (384 ≤ d.toNat)) (.fdot2 h d a b c bf rm) := by
    cases bf <;> cases rm <;> first | rfl | exact absurd hw.2 (by decide)
  have hc : hi 3 7 (0x26#7 ++ (ofBool bf ++ rm.code2) : BitVec 10) = 2#3 := by cases bf <;> cases rm <;> rfl
  refine decode_of ((decodeWord_mk h _ d a b c).trans ((class2 hc).trans e)) ?_ rfl
  simp [off, hdBad_ok hw.1.1, hw]

theorem redOp_rt (op : RedOp) : RedOp.ofCode op.opCode op.typeCode op.rmCode = op := by
  rcases op with t | t | t | t | t | t | ⟨f, r⟩ | f | f
  all_goals first
    | (cases t; all_goals rfl)
    | (cases f; all_goals first | rfl | (cases r; all_goals rfl))

theorem redOp_bad (op : RedOp) (h : op.ok = true) : RedOp.opBad op.opCode = false ∧
    RedOp.typeBad op.opCode op.typeCode = false ∧ RedOp.rmBad op.opCode op.rmCode = false := by
  rcases op with t | t | t | t | t | t | ⟨f, r⟩ | f | f
  all_goals first
    | (cases t; all_goals decide)
    | (cases f; all_goals first | decide | (cases r; all_goals first | decide | exact absurd h (by decide)))

theorem lscan (h : Hd) (d a : VCode) (op : RedOp) : Statement (.lscan h d a op) := by
  intro _ hw
  replace hw : (h.ok true .flags && decide (d.toNat < 384) && op.ok) = true := hw
  simp only [Bool.and_eq_true, decide_eq_true_eq] at hw
  have e : decodeConvert ⟨0x18D#10, h, d, a, 0#6 ++ op.rmCode, op.opCode ++ (0#2 ++ op.typeCode)⟩ = .word _ _ := rfl
  refine decode_of ((decodeWord_mk h 0x18D#10 d a (0#6 ++ op.rmCode) (op.opCode ++ (0#2 ++ op.typeCode))).trans
    ((class3 (by decide)).trans (e.trans ?_))) rfl rfl
  simp [off, hdBad_ok hw.1.1, hw, redOp_rt, redOp_bad op hw.2]

theorem lred (h : Hd) (d a : VCode) (op : RedOp) : Statement (.lred h d a op) := by
  intro _ hw
  replace hw : (h.ok true .flags && decide (d.toNat < 384) && op.ok) = true := hw
  simp only [Bool.and_eq_true, decide_eq_true_eq] at hw
  have e : decodeConvert ⟨0x18E#10, h, d, a, 0#6 ++ op.rmCode, op.opCode ++ (0#2 ++ op.typeCode)⟩ = .word _ _ := rfl
  refine decode_of ((decodeWord_mk h 0x18E#10 d a (0#6 ++ op.rmCode) (op.opCode ++ (0#2 ++ op.typeCode))).trans
    ((class3 (by decide)).trans (e.trans ?_))) rfl rfl
  simp [off, hdBad_ok hw.1.1, hw, redOp_rt, redOp_bad op hw.2]

theorem smpon (h : Hd) (a : SReg) : Statement (.smpon h a) := by
  intro _ hw
  replace hw : h.ok false .zero = true := hw
  have e : decodeSystem ⟨0x3D2#10, h, 0#9, 0#1 ++ a, 0#9, 0#9⟩ =
      .smpon (hdBad false .zero h ++ off 27 (0#9 != 0#9) ++ off 18 (256 ≤ (0#1 ++ a : BitVec 9).toNat) ++ off 9 (0#9 != 0#9) ++ off 0 (0#9 != 0#9))
        h (lo 8 (0#1 ++ a : BitVec 9)) := rfl
  have e2 : decodeWord (encode (.smpon h a)) = .smpon [] h a := by
    refine (decodeWord_mk h 0x3D2#10 0#9 (0#1 ++ a) 0#9 0#9).trans ((class7 (by decide)).trans (e.trans ?_))
    simp [off, hdBad_ok hw]
  simp [decode, e2]

theorem smpoff (h : Hd) (d : SReg) : Statement (.smpoff h d) := by
  intro _ hw
  replace hw : h.ok false .zero = true := hw
  have e : decodeSystem ⟨0x3D3#10, h, 0#1 ++ d, 0#9, 0#9, 0#9⟩ =
      .smpoff (hdBad false .zero h ++ off 27 (256 ≤ (0#1 ++ d : BitVec 9).toNat) ++ off 18 (0#9 != 0#9) ++ off 9 (0#9 != 0#9) ++ off 0 (0#9 != 0#9))
        h (lo 8 (0#1 ++ d : BitVec 9)) := rfl
  have e2 : decodeWord (encode (.smpoff h d)) = .smpoff [] h d := by
    refine (decodeWord_mk h 0x3D3#10 (0#1 ++ d) 0#9 0#9 0#9).trans ((class7 (by decide)).trans (e.trans ?_))
    simp [off, hdBad_ok hw]
  simp [decode, e2]


theorem nop (h : Hd) : Statement (.nop h) := by
  intro _ hw
  replace hw : (h.ok false .zero) = true := hw
  try simp only [Bool.and_eq_true] at hw
  have hb := hdBad_ok hw
  try simp at hw
  have e : decodeControl ⟨0x000#10, h, 0#9, 0#9, 0#9, 0#9⟩ = .word (hdBad false .zero h ++ off 27 (0#9 != 0#9) ++ off 18 (0#9 != 0#9) ++ off 9 (0#9 != 0#9) ++ off 0 (0#9 != 0#9)) (.nop h) := rfl
  refine decode_of ((decodeWord_mk h 0x000#10 0#9 0#9 0#9 0#9).trans ((class0 (by decide)).trans (e.trans ?_))) rfl rfl
  simp [off, hb, hw]

theorem bra (h : Hd) (ofs : BitVec 27) : Statement (.bra h ofs) := by
  intro _ hw
  replace hw : (h.ok true .zero) = true := hw
  try simp only [Bool.and_eq_true] at hw
  have hb := hdBad_ok hw
  try simp at hw
  have e : decodeControl ⟨0x001#10, h, 0#9, (hi 9 18 ofs), (hi 9 9 (lo 18 ofs)), (lo 9 (lo 18 ofs))⟩ = .word (hdBad true .zero h ++ off 27 (0#9 != 0#9)) (.bra h ((hi 9 18 ofs) ++ ((hi 9 9 (lo 18 ofs)) ++ (lo 9 (lo 18 ofs))))) := rfl
  refine decode_of ((decodeWord_mk h 0x001#10 0#9 (hi 9 18 ofs) (hi 9 9 (lo 18 ofs)) (lo 9 (lo 18 ofs))).trans ((class0 (by decide)).trans (e.trans ?_))) rfl rfl
  simp [off, hb, hw]

theorem brc (h : Hd) (d : VCode) (ofs : BitVec 27) : Statement (.brc h d ofs) := by
  intro _ hw
  replace hw : (h.ok true .zero) = true := hw
  try simp only [Bool.and_eq_true] at hw
  have hb := hdBad_ok hw
  try simp at hw
  have e : decodeControl ⟨0x002#10, h, d, (hi 9 18 ofs), (hi 9 9 (lo 18 ofs)), (lo 9 (lo 18 ofs))⟩ = .word (hdBad true .zero h) (.brc h d ((hi 9 18 ofs) ++ ((hi 9 9 (lo 18 ofs)) ++ (lo 9 (lo 18 ofs))))) := rfl
  refine decode_of ((decodeWord_mk h 0x002#10 d (hi 9 18 ofs) (hi 9 9 (lo 18 ofs)) (lo 9 (lo 18 ofs))).trans ((class0 (by decide)).trans (e.trans ?_))) rfl rfl
  simp [off, hb, hw]

theorem brx (h : Hd) (a : VCode) : Statement (.brx h a) := by
  intro _ hw
  replace hw : (h.ok true .zero) = true := hw
  try simp only [Bool.and_eq_true] at hw
  have hb := hdBad_ok hw
  try simp at hw
  have e : decodeControl ⟨0x003#10, h, 0#9, a, 0#9, 0#9⟩ = .word (hdBad true .zero h ++ off 27 (0#9 != 0#9) ++ off 9 (0#9 != 0#9) ++ off 0 (0#9 != 0#9)) (.brx h a) := rfl
  refine decode_of ((decodeWord_mk h 0x003#10 0#9 a 0#9 0#9).trans ((class0 (by decide)).trans (e.trans ?_))) rfl rfl
  simp [off, hb, hw]

theorem call (h : Hd) (d : VCode) (ofs : BitVec 27) : Statement (.call h d ofs) := by
  intro _ hw
  replace hw : (h.ok true .zero && decide (d.toNat < 384)) = true := hw
  try simp only [Bool.and_eq_true] at hw
  have hb := hdBad_ok hw.1
  try simp at hw
  have e : decodeControl ⟨0x004#10, h, d, (hi 9 18 ofs), (hi 9 9 (lo 18 ofs)), (lo 9 (lo 18 ofs))⟩ = .word (hdBad true .zero h ++ off 27 (384 ≤ d.toNat)) (.call h d ((hi 9 18 ofs) ++ ((hi 9 9 (lo 18 ofs)) ++ (lo 9 (lo 18 ofs))))) := rfl
  refine decode_of ((decodeWord_mk h 0x004#10 d (hi 9 18 ofs) (hi 9 9 (lo 18 ofs)) (lo 9 (lo 18 ofs))).trans ((class0 (by decide)).trans (e.trans ?_))) rfl rfl
  simp [off, hb, hw]

theorem callx (h : Hd) (d : VCode) (a : VCode) : Statement (.callx h d a) := by
  intro _ hw
  replace hw : (h.ok true .zero && decide (d.toNat < 384)) = true := hw
  try simp only [Bool.and_eq_true] at hw
  have hb := hdBad_ok hw.1
  try simp at hw
  have e : decodeControl ⟨0x005#10, h, d, a, 0#9, 0#9⟩ = .word (hdBad true .zero h ++ off 27 (384 ≤ d.toNat) ++ off 9 (0#9 != 0#9) ++ off 0 (0#9 != 0#9)) (.callx h d a) := rfl
  refine decode_of ((decodeWord_mk h 0x005#10 d a 0#9 0#9).trans ((class0 (by decide)).trans (e.trans ?_))) rfl rfl
  simp [off, hb, hw]

theorem ret (h : Hd) (a : VCode) : Statement (.ret h a) := by
  intro _ hw
  replace hw : (h.ok true .zero) = true := hw
  try simp only [Bool.and_eq_true] at hw
  have hb := hdBad_ok hw
  try simp at hw
  have e : decodeControl ⟨0x006#10, h, 0#9, a, 0#9, 0#9⟩ = .word (hdBad true .zero h ++ off 27 (0#9 != 0#9) ++ off 9 (0#9 != 0#9) ++ off 0 (0#9 != 0#9)) (.ret h a) := rfl
  refine decode_of ((decodeWord_mk h 0x006#10 0#9 a 0#9 0#9).trans ((class0 (by decide)).trans (e.trans ?_))) rfl rfl
  simp [off, hb, hw]

theorem loop (h : Hd) (a : SReg) (ofs : BitVec 18) : Statement (.loop h a ofs) := by
  intro _ hw
  replace hw : (h.ok false .zero && !(ofs == 0#18)) = true := hw
  try simp only [Bool.and_eq_true] at hw
  have hb := hdBad_ok hw.1
  try simp at hw
  have e : decodeControl ⟨0x008#10, h, 0#9, (0#1 ++ a), (hi 9 9 ofs), (lo 9 ofs)⟩ = .word (hdBad false .zero h ++ off 27 (0#9 != 0#9) ++ off 18 (256 ≤ (0#1 ++ a).toNat) ++ off 0 (((hi 9 9 ofs) ++ (lo 9 ofs)) == 0#18)) (.loop h (lo 8 (0#1 ++ a)) ((hi 9 9 ofs) ++ (lo 9 ofs))) := rfl
  refine decode_of ((decodeWord_mk h 0x008#10 0#9 (0#1 ++ a) (hi 9 9 ofs) (lo 9 ofs)).trans ((class0 (by decide)).trans (e.trans ?_))) rfl rfl
  simp [off, hb, hw]

theorem endl (h : Hd) : Statement (.endl h) := by
  intro _ hw
  replace hw : (h.ok false .zero) = true := hw
  try simp only [Bool.and_eq_true] at hw
  have hb := hdBad_ok hw
  try simp at hw
  have e : decodeControl ⟨0x009#10, h, 0#9, 0#9, 0#9, 0#9⟩ = .word (hdBad false .zero h ++ off 27 (0#9 != 0#9) ++ off 18 (0#9 != 0#9) ++ off 9 (0#9 != 0#9) ++ off 0 (0#9 != 0#9)) (.endl h) := rfl
  refine decode_of ((decodeWord_mk h 0x009#10 0#9 0#9 0#9 0#9).trans ((class0 (by decide)).trans (e.trans ?_))) rfl rfl
  simp [off, hb, hw]

theorem lbrk (h : Hd) : Statement (.lbrk h) := by
  intro _ hw
  replace hw : (h.ok false .zero) = true := hw
  try simp only [Bool.and_eq_true] at hw
  have hb := hdBad_ok hw
  try simp at hw
  have e : decodeControl ⟨0x00A#10, h, 0#9, 0#9, 0#9, 0#9⟩ = .word (hdBad false .zero h ++ off 27 (0#9 != 0#9) ++ off 18 (0#9 != 0#9) ++ off 9 (0#9 != 0#9) ++ off 0 (0#9 != 0#9)) (.lbrk h) := rfl
  refine decode_of ((decodeWord_mk h 0x00A#10 0#9 0#9 0#9 0#9).trans ((class0 (by decide)).trans (e.trans ?_))) rfl rfl
  simp [off, hb, hw]

theorem spawn (h : Hd) (d : VCode) (a : VCode) (b : SReg) : Statement (.spawn h d a b) := by
  intro _ hw
  replace hw : (h.ok true .zero && decide (a.toNat < 381)) = true := hw
  try simp only [Bool.and_eq_true] at hw
  have hb := hdBad_ok hw.1
  try simp at hw
  have e : decodeControl ⟨0x010#10, h, d, a, (0#1 ++ b), 0#9⟩ = .word (hdBad true .zero h ++ off 18 (381 ≤ a.toNat) ++ off 9 (256 ≤ (0#1 ++ b).toNat) ++ off 0 (0#9 != 0#9)) (.spawn h d a (lo 8 (0#1 ++ b))) := rfl
  refine decode_of ((decodeWord_mk h 0x010#10 d a (0#1 ++ b) 0#9).trans ((class0 (by decide)).trans (e.trans ?_))) rfl rfl
  simp [off, hb, hw]

theorem endFibre (h : Hd) : Statement (.endFibre h) := by
  intro _ hw
  replace hw : (h.ok true .zero) = true := hw
  try simp only [Bool.and_eq_true] at hw
  have hb := hdBad_ok hw
  try simp at hw
  have e : decodeControl ⟨0x011#10, h, 0#9, 0#9, 0#9, 0#9⟩ = .word (hdBad true .zero h ++ off 27 (0#9 != 0#9) ++ off 18 (0#9 != 0#9) ++ off 9 (0#9 != 0#9) ++ off 0 (0#9 != 0#9)) (.endFibre h) := rfl
  refine decode_of ((decodeWord_mk h 0x011#10 0#9 0#9 0#9 0#9).trans ((class0 (by decide)).trans (e.trans ?_))) rfl rfl
  simp [off, hb, hw]

theorem yield (h : Hd) : Statement (.yield h) := by
  intro _ hw
  replace hw : (h.ok false .zero) = true := hw
  try simp only [Bool.and_eq_true] at hw
  have hb := hdBad_ok hw
  try simp at hw
  have e : decodeControl ⟨0x012#10, h, 0#9, 0#9, 0#9, 0#9⟩ = .word (hdBad false .zero h ++ off 27 (0#9 != 0#9) ++ off 18 (0#9 != 0#9) ++ off 9 (0#9 != 0#9) ++ off 0 (0#9 != 0#9)) (.yield h) := rfl
  refine decode_of ((decodeWord_mk h 0x012#10 0#9 0#9 0#9 0#9).trans ((class0 (by decide)).trans (e.trans ?_))) rfl rfl
  simp [off, hb, hw]

theorem sleep (h : Hd) (n : BitVec 18) : Statement (.sleep h n) := by
  intro _ hw
  replace hw : (h.ok false .zero) = true := hw
  try simp only [Bool.and_eq_true] at hw
  have hb := hdBad_ok hw
  try simp at hw
  have e : decodeControl ⟨0x013#10, h, 0#9, 0#9, (hi 9 9 n), (lo 9 n)⟩ = .word (hdBad false .zero h ++ off 27 (0#9 != 0#9) ++ off 18 (0#9 != 0#9)) (.sleep h ((hi 9 9 n) ++ (lo 9 n))) := rfl
  refine decode_of ((decodeWord_mk h 0x013#10 0#9 0#9 (hi 9 9 n) (lo 9 n)).trans ((class0 (by decide)).trans (e.trans ?_))) rfl rfl
  simp [off, hb, hw]

theorem fbar (h : Hd) (a : SReg) : Statement (.fbar h a) := by
  intro _ hw
  replace hw : (h.ok false .zero) = true := hw
  try simp only [Bool.and_eq_true] at hw
  have hb := hdBad_ok hw
  try simp at hw
  have e : decodeControl ⟨0x014#10, h, 0#9, (0#1 ++ a), 0#9, 0#9⟩ = .word (hdBad false .zero h ++ off 27 (0#9 != 0#9) ++ off 18 (256 ≤ (0#1 ++ a).toNat) ++ off 9 (0#9 != 0#9) ++ off 0 (0#9 != 0#9)) (.fbar h (lo 8 (0#1 ++ a))) := rfl
  refine decode_of ((decodeWord_mk h 0x014#10 0#9 (0#1 ++ a) 0#9 0#9).trans ((class0 (by decide)).trans (e.trans ?_))) rfl rfl
  simp [off, hb, hw]

theorem icinv (h : Hd) : Statement (.icinv h) := by
  intro _ hw
  replace hw : (h.ok false .zero) = true := hw
  try simp only [Bool.and_eq_true] at hw
  have hb := hdBad_ok hw
  try simp at hw
  have e : decodeControl ⟨0x018#10, h, 0#9, 0#9, 0#9, 0#9⟩ = .word (hdBad false .zero h ++ off 27 (0#9 != 0#9) ++ off 18 (0#9 != 0#9) ++ off 9 (0#9 != 0#9) ++ off 0 (0#9 != 0#9)) (.icinv h) := rfl
  refine decode_of ((decodeWord_mk h 0x018#10 0#9 0#9 0#9 0#9).trans ((class0 (by decide)).trans (e.trans ?_))) rfl rfl
  simp [off, hb, hw]

theorem mov (h : Hd) (d : VCode) (a : VCode) : Statement (.mov h d a) := by
  intro _ hw
  replace hw : (h.ok true .flags && decide (d.toNat < 384)) = true := hw
  try simp only [Bool.and_eq_true] at hw
  have hb := hdBad_ok hw.1
  try simp at hw
  have e : decodeIntegerVector ⟨0x080#10, h, d, a, 0#9, 0#9⟩ = .word (hdBad true .flags h ++ off 27 (384 ≤ d.toNat) ++ off 0 ((0#9).toNat != 0) ++ off 9 (0#9 != 0#9)) (.mov h d a) := rfl
  refine decode_of ((decodeWord_mk h 0x080#10 d a 0#9 0#9).trans ((class1v (by decide) (by decide)).trans (e.trans ?_))) rfl rfl
  simp [off, hb, hw]

theorem movScalar (h : Hd) (d : SReg) (a : SReg) : Statement (.movScalar h d a) := by
  intro _ hw
  replace hw : (h.ok false .sf) = true := hw
  try simp only [Bool.and_eq_true] at hw
  have hb := hdBad_ok hw
  try simp at hw
  have e : decodeIntegerScalar ⟨0x0C0#10, h, (0#1 ++ d), (0#1 ++ a), 0#9, 0#9⟩ = .word (hdBad false .sf h ++ off 27 (256 ≤ (0#1 ++ d).toNat) ++ off 18 (256 ≤ (0#1 ++ a).toNat) ++ off 0 ((0#9).toNat != 0) ++ off 9 (0#9 != 0#9)) (.movScalar h (lo 8 (0#1 ++ d)) (lo 8 (0#1 ++ a))) := rfl
  refine decode_of ((decodeWord_mk h 0x0C0#10 (0#1 ++ d) (0#1 ++ a) 0#9 0#9).trans ((class1s (by decide) (by decide)).trans (e.trans ?_))) rfl rfl
  simp [off, hb, hw]

theorem movFromSf (h : Hd) (d : SReg) : Statement (.movFromSf h d) := by
  intro _ hw
  replace hw : (h.ok false .sf) = true := hw
  try simp only [Bool.and_eq_true] at hw
  have hb := hdBad_ok hw
  try simp at hw
  have e : decodeIntegerScalar ⟨0x0C0#10, h, (0#1 ++ d), 0#9, 0#9, 1#9⟩ = .word (hdBad false .sf h ++ off 27 (256 ≤ (0#1 ++ d).toNat) ++ off 18 (0#9 != 0#9) ++ off 9 (0#9 != 0#9)) (.movFromSf h (lo 8 (0#1 ++ d))) := rfl
  refine decode_of ((decodeWord_mk h 0x0C0#10 (0#1 ++ d) 0#9 0#9 1#9).trans ((class1s (by decide) (by decide)).trans (e.trans ?_))) rfl rfl
  simp [off, hb, hw]

theorem movToSf (h : Hd) (a : SReg) : Statement (.movToSf h a) := by
  intro _ hw
  replace hw : (h.ok false .zero) = true := hw
  try simp only [Bool.and_eq_true] at hw
  have hb := hdBad_ok hw
  try simp at hw
  have e : decodeIntegerScalar ⟨0x0C0#10, h, 0#9, (0#1 ++ a), 0#9, 2#9⟩ = .word (hdBad false .zero h ++ off 27 (0#9 != 0#9) ++ off 18 (256 ≤ (0#1 ++ a).toNat) ++ off 9 (0#9 != 0#9)) (.movToSf h (lo 8 (0#1 ++ a))) := rfl
  refine decode_of ((decodeWord_mk h 0x0C0#10 0#9 (0#1 ++ a) 0#9 2#9).trans ((class1s (by decide) (by decide)).trans (e.trans ?_))) rfl rfl
  simp [off, hb, hw]

theorem movFromCc (h : Hd) (d : VCode) : Statement (.movFromCc h d) := by
  intro _ hw
  replace hw : (h.ok true .flags && decide (d.toNat < 384)) = true := hw
  try simp only [Bool.and_eq_true] at hw
  have hb := hdBad_ok hw.1
  try simp at hw
  have e : decodeIntegerVector ⟨0x080#10, h, d, 0#9, 0#9, 3#9⟩ = .word (hdBad true .flags h ++ off 27 (384 ≤ d.toNat) ++ off 18 (0#9 != 0#9) ++ off 9 (0#9 != 0#9)) (.movFromCc h d) := rfl
  refine decode_of ((decodeWord_mk h 0x080#10 d 0#9 0#9 3#9).trans ((class1v (by decide) (by decide)).trans (e.trans ?_))) rfl rfl
  simp [off, hb, hw]

theorem movToCc (h : Hd) (a : VCode) : Statement (.movToCc h a) := by
  intro _ hw
  replace hw : (h.ok true .zero) = true := hw
  try simp only [Bool.and_eq_true] at hw
  have hb := hdBad_ok hw
  try simp at hw
  have e : decodeIntegerVector ⟨0x080#10, h, 0#9, a, 0#9, 4#9⟩ = .word (hdBad true .zero h ++ off 27 (0#9 != 0#9) ++ off 9 (0#9 != 0#9)) (.movToCc h a) := rfl
  refine decode_of ((decodeWord_mk h 0x080#10 0#9 a 0#9 4#9).trans ((class1v (by decide) (by decide)).trans (e.trans ?_))) rfl rfl
  simp [off, hb, hw]

theorem movi (h : Hd) (d : VCode) (imm : BitVec 18) : Statement (.movi h d imm) := by
  intro _ hw
  replace hw : (h.ok true .flags && decide (d.toNat < 384)) = true := hw
  try simp only [Bool.and_eq_true] at hw
  have hb := hdBad_ok hw.1
  try simp at hw
  have e : decodeIntegerVector ⟨0x081#10, h, d, 0#9, (hi 9 9 imm), (lo 9 imm)⟩ = .word (hdBad true .flags h ++ off 27 (384 ≤ d.toNat) ++ off 18 (0#9 != 0#9)) (.movi h d ((hi 9 9 imm) ++ (lo 9 imm))) := rfl
  refine decode_of ((decodeWord_mk h 0x081#10 d 0#9 (hi 9 9 imm) (lo 9 imm)).trans ((class1v (by decide) (by decide)).trans (e.trans ?_))) rfl rfl
  simp [off, hb, hw]

theorem moviScalar (h : Hd) (d : SReg) (imm : BitVec 18) : Statement (.moviScalar h d imm) := by
  intro _ hw
  replace hw : (h.ok false .sf) = true := hw
  try simp only [Bool.and_eq_true] at hw
  have hb := hdBad_ok hw
  try simp at hw
  have e : decodeIntegerScalar ⟨0x0C1#10, h, (0#1 ++ d), 0#9, (hi 9 9 imm), (lo 9 imm)⟩ = .word (hdBad false .sf h ++ off 27 (256 ≤ (0#1 ++ d).toNat) ++ off 18 (0#9 != 0#9)) (.moviScalar h (lo 8 (0#1 ++ d)) ((hi 9 9 imm) ++ (lo 9 imm))) := rfl
  refine decode_of ((decodeWord_mk h 0x0C1#10 (0#1 ++ d) 0#9 (hi 9 9 imm) (lo 9 imm)).trans ((class1s (by decide) (by decide)).trans (e.trans ?_))) rfl rfl
  simp [off, hb, hw]

theorem movh (h : Hd) (d : VCode) (k : BitVec 2) (imm : BitVec 18) : Statement (.movh h d k imm) := by
  intro _ hw
  replace hw : (h.ok true .flags && decide (d.toNat < 384) && !(k == 0#2) && !(k == 3#2 && 1024 ≤ imm.toNat)) = true := hw
  try simp only [Bool.and_eq_true] at hw
  have hb := hdBad_ok hw.1.1.1
  try simp at hw
  have e : decodeIntegerVector ⟨0x082#10, h, d, (0#7 ++ k), (hi 9 9 imm), (lo 9 imm)⟩ = .word (hdBad true .flags h ++ off 27 (384 ≤ d.toNat) ++ off 18 (4 ≤ (0#7 ++ k).toNat) ++ off 18 ((lo 2 (0#7 ++ k)) == 0#2) ++ off 10 ((lo 2 (0#7 ++ k)) == 3#2 && 1024 ≤ ((hi 9 9 imm) ++ (lo 9 imm)).toNat)) (.movh h d (lo 2 (0#7 ++ k)) ((hi 9 9 imm) ++ (lo 9 imm))) := rfl
  refine decode_of ((decodeWord_mk h 0x082#10 d (0#7 ++ k) (hi 9 9 imm) (lo 9 imm)).trans ((class1v (by decide) (by decide)).trans (e.trans ?_))) rfl rfl
  simp [off, hb, hw]; clear e; grind

theorem movhScalar (h : Hd) (d : SReg) (k : BitVec 2) (imm : BitVec 18) : Statement (.movhScalar h d k imm) := by
  intro _ hw
  replace hw : (h.ok false .sf && !(k == 0#2) && !(k == 3#2 && 1024 ≤ imm.toNat)) = true := hw
  try simp only [Bool.and_eq_true] at hw
  have hb := hdBad_ok hw.1.1
  try simp at hw
  have e : decodeIntegerScalar ⟨0x0C2#10, h, (0#1 ++ d), (0#7 ++ k), (hi 9 9 imm), (lo 9 imm)⟩ = .word (hdBad false .sf h ++ off 27 (256 ≤ (0#1 ++ d).toNat) ++ off 18 (4 ≤ (0#7 ++ k).toNat) ++ off 18 ((lo 2 (0#7 ++ k)) == 0#2) ++ off 10 ((lo 2 (0#7 ++ k)) == 3#2 && 1024 ≤ ((hi 9 9 imm) ++ (lo 9 imm)).toNat)) (.movhScalar h (lo 8 (0#1 ++ d)) (lo 2 (0#7 ++ k)) ((hi 9 9 imm) ++ (lo 9 imm))) := rfl
  refine decode_of ((decodeWord_mk h 0x0C2#10 (0#1 ++ d) (0#7 ++ k) (hi 9 9 imm) (lo 9 imm)).trans ((class1s (by decide) (by decide)).trans (e.trans ?_))) rfl rfl
  simp [off, hb, hw]; clear e; grind

theorem add (h : Hd) (d : VCode) (a : VCode) (b : VCode) (t : IType) : Statement (.add h d a b t) := by
  intro _ hw
  replace hw : (h.ok true .flags && decide (d.toNat < 384)) = true := hw
  try simp only [Bool.and_eq_true] at hw
  have hb := hdBad_ok hw.1
  try simp at hw
  have e : decodeIntegerVector ⟨0x083#10, h, d, a, b, (0#6 ++ t.code)⟩ = .word (hdBad true .flags h ++ off 27 (384 ≤ d.toNat) ++ off 3 ((hi 6 3 (0#6 ++ t.code)) != 0#6)) (.add h d a b (IType.ofCode (lo 3 (0#6 ++ t.code)))) := rfl
  refine decode_of ((decodeWord_mk h 0x083#10 d a b (0#6 ++ t.code)).trans ((class1v (by decide) (by decide)).trans (e.trans ?_))) rfl rfl
  simp [off, hb, hw]

theorem addScalar (h : Hd) (d : SReg) (a : SReg) (b : SReg) (t : IType) : Statement (.addScalar h d a b t) := by
  intro _ hw
  replace hw : (h.ok false .sf) = true := hw
  try simp only [Bool.and_eq_true] at hw
  have hb := hdBad_ok hw
  try simp at hw
  have e : decodeIntegerScalar ⟨0x0C3#10, h, (0#1 ++ d), (0#1 ++ a), (0#1 ++ b), (0#6 ++ t.code)⟩ = .word (hdBad false .sf h ++ off 27 (256 ≤ (0#1 ++ d).toNat) ++ off 18 (256 ≤ (0#1 ++ a).toNat) ++ off 9 (256 ≤ (0#1 ++ b).toNat) ++ off 3 ((hi 6 3 (0#6 ++ t.code)) != 0#6)) (.addScalar h (lo 8 (0#1 ++ d)) (lo 8 (0#1 ++ a)) (lo 8 (0#1 ++ b)) (IType.ofCode (lo 3 (0#6 ++ t.code)))) := rfl
  refine decode_of ((decodeWord_mk h 0x0C3#10 (0#1 ++ d) (0#1 ++ a) (0#1 ++ b) (0#6 ++ t.code)).trans ((class1s (by decide) (by decide)).trans (e.trans ?_))) rfl rfl
  simp [off, hb, hw]

theorem addImm (h : Hd) (d : VCode) (a : VCode) (t : IType) (imm : BitVec 15) : Statement (.addImm h d a t imm) := by
  intro _ hw
  replace hw : (h.ok true .flags && decide (d.toNat < 384)) = true := hw
  try simp only [Bool.and_eq_true] at hw
  have hb := hdBad_ok hw.1
  try simp at hw
  have e : decodeIntegerVector ⟨0x084#10, h, d, a, (hi 9 9 (t.code ++ imm)), (lo 9 (t.code ++ imm))⟩ = .word (hdBad true .flags h ++ off 27 (384 ≤ d.toNat)) (.addImm h d a (IType.ofCode (hi 3 15 ((hi 9 9 (t.code ++ imm)) ++ (lo 9 (t.code ++ imm))))) (lo 15 ((hi 9 9 (t.code ++ imm)) ++ (lo 9 (t.code ++ imm))))) := rfl
  refine decode_of ((decodeWord_mk h 0x084#10 d a (hi 9 9 (t.code ++ imm)) (lo 9 (t.code ++ imm))).trans ((class1v (by decide) (by decide)).trans (e.trans ?_))) rfl rfl
  simp [off, hb, hw]

theorem addImmScalar (h : Hd) (d : SReg) (a : SReg) (t : IType) (imm : BitVec 15) : Statement (.addImmScalar h d a t imm) := by
  intro _ hw
  replace hw : (h.ok false .sf) = true := hw
  try simp only [Bool.and_eq_true] at hw
  have hb := hdBad_ok hw
  try simp at hw
  have e : decodeIntegerScalar ⟨0x0C4#10, h, (0#1 ++ d), (0#1 ++ a), (hi 9 9 (t.code ++ imm)), (lo 9 (t.code ++ imm))⟩ = .word (hdBad false .sf h ++ off 27 (256 ≤ (0#1 ++ d).toNat) ++ off 18 (256 ≤ (0#1 ++ a).toNat)) (.addImmScalar h (lo 8 (0#1 ++ d)) (lo 8 (0#1 ++ a)) (IType.ofCode (hi 3 15 ((hi 9 9 (t.code ++ imm)) ++ (lo 9 (t.code ++ imm))))) (lo 15 ((hi 9 9 (t.code ++ imm)) ++ (lo 9 (t.code ++ imm))))) := rfl
  refine decode_of ((decodeWord_mk h 0x0C4#10 (0#1 ++ d) (0#1 ++ a) (hi 9 9 (t.code ++ imm)) (lo 9 (t.code ++ imm))).trans ((class1s (by decide) (by decide)).trans (e.trans ?_))) rfl rfl
  simp [off, hb, hw]

theorem addc (h : Hd) (d : VCode) (a : VCode) (b : VCode) (n : BitVec 2) (t : IType) : Statement (.addc h d a b n t) := by
  intro _ hw
  replace hw : (h.ok true .flags && decide (d.toNat < 384) && !(t.bits != 64)) = true := hw
  try simp only [Bool.and_eq_true] at hw
  have hb := hdBad_ok hw.1.1
  try simp at hw
  have e : decodeIntegerVector ⟨0x085#10, h, d, a, b, (0#4 ++ (n ++ t.code))⟩ = .word (hdBad true .flags h ++ off 27 (384 ≤ d.toNat) ++ off 5 ((hi 4 5 (0#4 ++ (n ++ t.code))) != 0#4) ++ off 0 ((IType.ofCode (lo 3 (lo 5 (0#4 ++ (n ++ t.code))))).bits != 64)) (.addc h d a b (hi 2 3 (lo 5 (0#4 ++ (n ++ t.code)))) (IType.ofCode (lo 3 (lo 5 (0#4 ++ (n ++ t.code)))))) := rfl
  refine decode_of ((decodeWord_mk h 0x085#10 d a b (0#4 ++ (n ++ t.code))).trans ((class1v (by decide) (by decide)).trans (e.trans ?_))) rfl rfl
  simp [off, hb, hw]

theorem addcScalar (h : Hd) (d : SReg) (a : SReg) (b : SReg) (t : IType) : Statement (.addcScalar h d a b t) := by
  intro _ hw
  replace hw : (h.ok false .sf && !(t.bits != 64)) = true := hw
  try simp only [Bool.and_eq_true] at hw
  have hb := hdBad_ok hw.1
  try simp at hw
  have e : decodeIntegerScalar ⟨0x0C5#10, h, (0#1 ++ d), (0#1 ++ a), (0#1 ++ b), (0#4 ++ (0#2 ++ t.code))⟩ = .word (hdBad false .sf h ++ off 27 (256 ≤ (0#1 ++ d).toNat) ++ off 18 (256 ≤ (0#1 ++ a).toNat) ++ off 9 (256 ≤ (0#1 ++ b).toNat) ++ off 5 ((hi 4 5 (0#4 ++ (0#2 ++ t.code))) != 0#4) ++ off 3 ((hi 2 3 (lo 5 (0#4 ++ (0#2 ++ t.code)))) != 0#2) ++ off 0 ((IType.ofCode (lo 3 (lo 5 (0#4 ++ (0#2 ++ t.code))))).bits != 64)) (.addcScalar h (lo 8 (0#1 ++ d)) (lo 8 (0#1 ++ a)) (lo 8 (0#1 ++ b)) (IType.ofCode (lo 3 (lo 5 (0#4 ++ (0#2 ++ t.code)))))) := rfl
  refine decode_of ((decodeWord_mk h 0x0C5#10 (0#1 ++ d) (0#1 ++ a) (0#1 ++ b) (0#4 ++ (0#2 ++ t.code))).trans ((class1s (by decide) (by decide)).trans (e.trans ?_))) rfl rfl
  simp [off, hb, hw]

theorem sub (h : Hd) (d : VCode) (a : VCode) (b : VCode) (t : IType) : Statement (.sub h d a b t) := by
  intro _ hw
  replace hw : (h.ok true .flags && decide (d.toNat < 384)) = true := hw
  try simp only [Bool.and_eq_true] at hw
  have hb := hdBad_ok hw.1
  try simp at hw
  have e : decodeIntegerVector ⟨0x086#10, h, d, a, b, (0#6 ++ t.code)⟩ = .word (hdBad true .flags h ++ off 27 (384 ≤ d.toNat) ++ off 3 ((hi 6 3 (0#6 ++ t.code)) != 0#6)) (.sub h d a b (IType.ofCode (lo 3 (0#6 ++ t.code)))) := rfl
  refine decode_of ((decodeWord_mk h 0x086#10 d a b (0#6 ++ t.code)).trans ((class1v (by decide) (by decide)).trans (e.trans ?_))) rfl rfl
  simp [off, hb, hw]

theorem subScalar (h : Hd) (d : SReg) (a : SReg) (b : SReg) (t : IType) : Statement (.subScalar h d a b t) := by
  intro _ hw
  replace hw : (h.ok false .sf) = true := hw
  try simp only [Bool.and_eq_true] at hw
  have hb := hdBad_ok hw
  try simp at hw
  have e : decodeIntegerScalar ⟨0x0C6#10, h, (0#1 ++ d), (0#1 ++ a), (0#1 ++ b), (0#6 ++ t.code)⟩ = .word (hdBad false .sf h ++ off 27 (256 ≤ (0#1 ++ d).toNat) ++ off 18 (256 ≤ (0#1 ++ a).toNat) ++ off 9 (256 ≤ (0#1 ++ b).toNat) ++ off 3 ((hi 6 3 (0#6 ++ t.code)) != 0#6)) (.subScalar h (lo 8 (0#1 ++ d)) (lo 8 (0#1 ++ a)) (lo 8 (0#1 ++ b)) (IType.ofCode (lo 3 (0#6 ++ t.code)))) := rfl
  refine decode_of ((decodeWord_mk h 0x0C6#10 (0#1 ++ d) (0#1 ++ a) (0#1 ++ b) (0#6 ++ t.code)).trans ((class1s (by decide) (by decide)).trans (e.trans ?_))) rfl rfl
  simp [off, hb, hw]

theorem subb (h : Hd) (d : VCode) (a : VCode) (b : VCode) (n : BitVec 2) (t : IType) : Statement (.subb h d a b n t) := by
  intro _ hw
  replace hw : (h.ok true .flags && decide (d.toNat < 384) && !(t.bits != 64)) = true := hw
  try simp only [Bool.and_eq_true] at hw
  have hb := hdBad_ok hw.1.1
  try simp at hw
  have e : decodeIntegerVector ⟨0x087#10, h, d, a, b, (0#4 ++ (n ++ t.code))⟩ = .word (hdBad true .flags h ++ off 27 (384 ≤ d.toNat) ++ off 5 ((hi 4 5 (0#4 ++ (n ++ t.code))) != 0#4) ++ off 0 ((IType.ofCode (lo 3 (lo 5 (0#4 ++ (n ++ t.code))))).bits != 64)) (.subb h d a b (hi 2 3 (lo 5 (0#4 ++ (n ++ t.code)))) (IType.ofCode (lo 3 (lo 5 (0#4 ++ (n ++ t.code)))))) := rfl
  refine decode_of ((decodeWord_mk h 0x087#10 d a b (0#4 ++ (n ++ t.code))).trans ((class1v (by decide) (by decide)).trans (e.trans ?_))) rfl rfl
  simp [off, hb, hw]

theorem subbScalar (h : Hd) (d : SReg) (a : SReg) (b : SReg) (t : IType) : Statement (.subbScalar h d a b t) := by
  intro _ hw
  replace hw : (h.ok false .sf && !(t.bits != 64)) = true := hw
  try simp only [Bool.and_eq_true] at hw
  have hb := hdBad_ok hw.1
  try simp at hw
  have e : decodeIntegerScalar ⟨0x0C7#10, h, (0#1 ++ d), (0#1 ++ a), (0#1 ++ b), (0#4 ++ (0#2 ++ t.code))⟩ = .word (hdBad false .sf h ++ off 27 (256 ≤ (0#1 ++ d).toNat) ++ off 18 (256 ≤ (0#1 ++ a).toNat) ++ off 9 (256 ≤ (0#1 ++ b).toNat) ++ off 5 ((hi 4 5 (0#4 ++ (0#2 ++ t.code))) != 0#4) ++ off 3 ((hi 2 3 (lo 5 (0#4 ++ (0#2 ++ t.code)))) != 0#2) ++ off 0 ((IType.ofCode (lo 3 (lo 5 (0#4 ++ (0#2 ++ t.code))))).bits != 64)) (.subbScalar h (lo 8 (0#1 ++ d)) (lo 8 (0#1 ++ a)) (lo 8 (0#1 ++ b)) (IType.ofCode (lo 3 (lo 5 (0#4 ++ (0#2 ++ t.code)))))) := rfl
  refine decode_of ((decodeWord_mk h 0x0C7#10 (0#1 ++ d) (0#1 ++ a) (0#1 ++ b) (0#4 ++ (0#2 ++ t.code))).trans ((class1s (by decide) (by decide)).trans (e.trans ?_))) rfl rfl
  simp [off, hb, hw]

theorem mul (h : Hd) (d : VCode) (a : VCode) (b : VCode) (t : IType) : Statement (.mul h d a b t) := by
  intro _ hw
  replace hw : (h.ok true .flags && decide (d.toNat < 384)) = true := hw
  try simp only [Bool.and_eq_true] at hw
  have hb := hdBad_ok hw.1
  try simp at hw
  have e : decodeIntegerVector ⟨0x088#10, h, d, a, b, (0#6 ++ t.code)⟩ = .word (hdBad true .flags h ++ off 27 (384 ≤ d.toNat) ++ off 3 ((hi 6 3 (0#6 ++ t.code)) != 0#6)) (.mul h d a b (IType.ofCode (lo 3 (0#6 ++ t.code)))) := rfl
  refine decode_of ((decodeWord_mk h 0x088#10 d a b (0#6 ++ t.code)).trans ((class1v (by decide) (by decide)).trans (e.trans ?_))) rfl rfl
  simp [off, hb, hw]

theorem mulScalar (h : Hd) (d : SReg) (a : SReg) (b : SReg) (t : IType) : Statement (.mulScalar h d a b t) := by
  intro _ hw
  replace hw : (h.ok false .sf) = true := hw
  try simp only [Bool.and_eq_true] at hw
  have hb := hdBad_ok hw
  try simp at hw
  have e : decodeIntegerScalar ⟨0x0C8#10, h, (0#1 ++ d), (0#1 ++ a), (0#1 ++ b), (0#6 ++ t.code)⟩ = .word (hdBad false .sf h ++ off 27 (256 ≤ (0#1 ++ d).toNat) ++ off 18 (256 ≤ (0#1 ++ a).toNat) ++ off 9 (256 ≤ (0#1 ++ b).toNat) ++ off 3 ((hi 6 3 (0#6 ++ t.code)) != 0#6)) (.mulScalar h (lo 8 (0#1 ++ d)) (lo 8 (0#1 ++ a)) (lo 8 (0#1 ++ b)) (IType.ofCode (lo 3 (0#6 ++ t.code)))) := rfl
  refine decode_of ((decodeWord_mk h 0x0C8#10 (0#1 ++ d) (0#1 ++ a) (0#1 ++ b) (0#6 ++ t.code)).trans ((class1s (by decide) (by decide)).trans (e.trans ?_))) rfl rfl
  simp [off, hb, hw]

theorem mulh (h : Hd) (d : VCode) (a : VCode) (b : VCode) (t : IType) : Statement (.mulh h d a b t) := by
  intro _ hw
  replace hw : (h.ok true .flags && decide (d.toNat < 384)) = true := hw
  try simp only [Bool.and_eq_true] at hw
  have hb := hdBad_ok hw.1
  try simp at hw
  have e : decodeIntegerVector ⟨0x089#10, h, d, a, b, (0#6 ++ t.code)⟩ = .word (hdBad true .flags h ++ off 27 (384 ≤ d.toNat) ++ off 3 ((hi 6 3 (0#6 ++ t.code)) != 0#6)) (.mulh h d a b (IType.ofCode (lo 3 (0#6 ++ t.code)))) := rfl
  refine decode_of ((decodeWord_mk h 0x089#10 d a b (0#6 ++ t.code)).trans ((class1v (by decide) (by decide)).trans (e.trans ?_))) rfl rfl
  simp [off, hb, hw]

theorem mulhScalar (h : Hd) (d : SReg) (a : SReg) (b : SReg) (t : IType) : Statement (.mulhScalar h d a b t) := by
  intro _ hw
  replace hw : (h.ok false .sf) = true := hw
  try simp only [Bool.and_eq_true] at hw
  have hb := hdBad_ok hw
  try simp at hw
  have e : decodeIntegerScalar ⟨0x0C9#10, h, (0#1 ++ d), (0#1 ++ a), (0#1 ++ b), (0#6 ++ t.code)⟩ = .word (hdBad false .sf h ++ off 27 (256 ≤ (0#1 ++ d).toNat) ++ off 18 (256 ≤ (0#1 ++ a).toNat) ++ off 9 (256 ≤ (0#1 ++ b).toNat) ++ off 3 ((hi 6 3 (0#6 ++ t.code)) != 0#6)) (.mulhScalar h (lo 8 (0#1 ++ d)) (lo 8 (0#1 ++ a)) (lo 8 (0#1 ++ b)) (IType.ofCode (lo 3 (0#6 ++ t.code)))) := rfl
  refine decode_of ((decodeWord_mk h 0x0C9#10 (0#1 ++ d) (0#1 ++ a) (0#1 ++ b) (0#6 ++ t.code)).trans ((class1s (by decide) (by decide)).trans (e.trans ?_))) rfl rfl
  simp [off, hb, hw]

theorem madI32 (h : Hd) (d : VCode) (a : VCode) (b : VCode) (c : VCode) : Statement (.madI32 h d a b c) := by
  intro _ hw
  replace hw : (h.ok true .flags && decide (d.toNat < 384)) = true := hw
  try simp only [Bool.and_eq_true] at hw
  have hb := hdBad_ok hw.1
  try simp at hw
  have e : decodeIntegerVector ⟨0x08A#10, h, d, a, b, c⟩ = .word (hdBad true .flags h ++ off 27 (384 ≤ d.toNat)) (.madI32 h d a b c) := rfl
  refine decode_of ((decodeWord_mk h 0x08A#10 d a b c).trans ((class1v (by decide) (by decide)).trans (e.trans ?_))) rfl rfl
  simp [off, hb, hw]

theorem madI32Scalar (h : Hd) (d : SReg) (a : SReg) (b : SReg) (c : SReg) : Statement (.madI32Scalar h d a b c) := by
  intro _ hw
  replace hw : (h.ok false .sf) = true := hw
  try simp only [Bool.and_eq_true] at hw
  have hb := hdBad_ok hw
  try simp at hw
  have e : decodeIntegerScalar ⟨0x0CA#10, h, (0#1 ++ d), (0#1 ++ a), (0#1 ++ b), (0#1 ++ c)⟩ = .word (hdBad false .sf h ++ off 27 (256 ≤ (0#1 ++ d).toNat) ++ off 18 (256 ≤ (0#1 ++ a).toNat) ++ off 9 (256 ≤ (0#1 ++ b).toNat) ++ off 0 (256 ≤ (0#1 ++ c).toNat)) (.madI32Scalar h (lo 8 (0#1 ++ d)) (lo 8 (0#1 ++ a)) (lo 8 (0#1 ++ b)) (lo 8 (0#1 ++ c))) := rfl
  refine decode_of ((decodeWord_mk h 0x0CA#10 (0#1 ++ d) (0#1 ++ a) (0#1 ++ b) (0#1 ++ c)).trans ((class1s (by decide) (by decide)).trans (e.trans ?_))) rfl rfl
  simp [off, hb, hw]

theorem madN32 (h : Hd) (d : VCode) (a : VCode) (b : VCode) (c : VCode) : Statement (.madN32 h d a b c) := by
  intro _ hw
  replace hw : (h.ok true .flags && decide (d.toNat < 384)) = true := hw
  try simp only [Bool.and_eq_true] at hw
  have hb := hdBad_ok hw.1
  try simp at hw
  have e : decodeIntegerVector ⟨0x08B#10, h, d, a, b, c⟩ = .word (hdBad true .flags h ++ off 27 (384 ≤ d.toNat)) (.madN32 h d a b c) := rfl
  refine decode_of ((decodeWord_mk h 0x08B#10 d a b c).trans ((class1v (by decide) (by decide)).trans (e.trans ?_))) rfl rfl
  simp [off, hb, hw]

theorem madN32Scalar (h : Hd) (d : SReg) (a : SReg) (b : SReg) (c : SReg) : Statement (.madN32Scalar h d a b c) := by
  intro _ hw
  replace hw : (h.ok false .sf) = true := hw
  try simp only [Bool.and_eq_true] at hw
  have hb := hdBad_ok hw
  try simp at hw
  have e : decodeIntegerScalar ⟨0x0CB#10, h, (0#1 ++ d), (0#1 ++ a), (0#1 ++ b), (0#1 ++ c)⟩ = .word (hdBad false .sf h ++ off 27 (256 ≤ (0#1 ++ d).toNat) ++ off 18 (256 ≤ (0#1 ++ a).toNat) ++ off 9 (256 ≤ (0#1 ++ b).toNat) ++ off 0 (256 ≤ (0#1 ++ c).toNat)) (.madN32Scalar h (lo 8 (0#1 ++ d)) (lo 8 (0#1 ++ a)) (lo 8 (0#1 ++ b)) (lo 8 (0#1 ++ c))) := rfl
  refine decode_of ((decodeWord_mk h 0x0CB#10 (0#1 ++ d) (0#1 ++ a) (0#1 ++ b) (0#1 ++ c)).trans ((class1s (by decide) (by decide)).trans (e.trans ?_))) rfl rfl
  simp [off, hb, hw]

theorem madI64 (h : Hd) (d : VCode) (a : VCode) (b : VCode) (c : VCode) : Statement (.madI64 h d a b c) := by
  intro _ hw
  replace hw : (h.ok true .flags && decide (d.toNat < 384)) = true := hw
  try simp only [Bool.and_eq_true] at hw
  have hb := hdBad_ok hw.1
  try simp at hw
  have e : decodeIntegerVector ⟨0x08C#10, h, d, a, b, c⟩ = .word (hdBad true .flags h ++ off 27 (384 ≤ d.toNat)) (.madI64 h d a b c) := rfl
  refine decode_of ((decodeWord_mk h 0x08C#10 d a b c).trans ((class1v (by decide) (by decide)).trans (e.trans ?_))) rfl rfl
  simp [off, hb, hw]

theorem madI64Scalar (h : Hd) (d : SReg) (a : SReg) (b : SReg) (c : SReg) : Statement (.madI64Scalar h d a b c) := by
  intro _ hw
  replace hw : (h.ok false .sf) = true := hw
  try simp only [Bool.and_eq_true] at hw
  have hb := hdBad_ok hw
  try simp at hw
  have e : decodeIntegerScalar ⟨0x0CC#10, h, (0#1 ++ d), (0#1 ++ a), (0#1 ++ b), (0#1 ++ c)⟩ = .word (hdBad false .sf h ++ off 27 (256 ≤ (0#1 ++ d).toNat) ++ off 18 (256 ≤ (0#1 ++ a).toNat) ++ off 9 (256 ≤ (0#1 ++ b).toNat) ++ off 0 (256 ≤ (0#1 ++ c).toNat)) (.madI64Scalar h (lo 8 (0#1 ++ d)) (lo 8 (0#1 ++ a)) (lo 8 (0#1 ++ b)) (lo 8 (0#1 ++ c))) := rfl
  refine decode_of ((decodeWord_mk h 0x0CC#10 (0#1 ++ d) (0#1 ++ a) (0#1 ++ b) (0#1 ++ c)).trans ((class1s (by decide) (by decide)).trans (e.trans ?_))) rfl rfl
  simp [off, hb, hw]

theorem madN64 (h : Hd) (d : VCode) (a : VCode) (b : VCode) (c : VCode) : Statement (.madN64 h d a b c) := by
  intro _ hw
  replace hw : (h.ok true .flags && decide (d.toNat < 384)) = true := hw
  try simp only [Bool.and_eq_true] at hw
  have hb := hdBad_ok hw.1
  try simp at hw
  have e : decodeIntegerVector ⟨0x08D#10, h, d, a, b, c⟩ = .word (hdBad true .flags h ++ off 27 (384 ≤ d.toNat)) (.madN64 h d a b c) := rfl
  refine decode_of ((decodeWord_mk h 0x08D#10 d a b c).trans ((class1v (by decide) (by decide)).trans (e.trans ?_))) rfl rfl
  simp [off, hb, hw]

theorem madN64Scalar (h : Hd) (d : SReg) (a : SReg) (b : SReg) (c : SReg) : Statement (.madN64Scalar h d a b c) := by
  intro _ hw
  replace hw : (h.ok false .sf) = true := hw
  try simp only [Bool.and_eq_true] at hw
  have hb := hdBad_ok hw
  try simp at hw
  have e : decodeIntegerScalar ⟨0x0CD#10, h, (0#1 ++ d), (0#1 ++ a), (0#1 ++ b), (0#1 ++ c)⟩ = .word (hdBad false .sf h ++ off 27 (256 ≤ (0#1 ++ d).toNat) ++ off 18 (256 ≤ (0#1 ++ a).toNat) ++ off 9 (256 ≤ (0#1 ++ b).toNat) ++ off 0 (256 ≤ (0#1 ++ c).toNat)) (.madN64Scalar h (lo 8 (0#1 ++ d)) (lo 8 (0#1 ++ a)) (lo 8 (0#1 ++ b)) (lo 8 (0#1 ++ c))) := rfl
  refine decode_of ((decodeWord_mk h 0x0CD#10 (0#1 ++ d) (0#1 ++ a) (0#1 ++ b) (0#1 ++ c)).trans ((class1s (by decide) (by decide)).trans (e.trans ?_))) rfl rfl
  simp [off, hb, hw]

theorem div (h : Hd) (d : VCode) (a : VCode) (b : VCode) (t : IType) : Statement (.div h d a b t) := by
  intro _ hw
  replace hw : (h.ok true .flags && decide (d.toNat < 384)) = true := hw
  try simp only [Bool.and_eq_true] at hw
  have hb := hdBad_ok hw.1
  try simp at hw
  have e : decodeIntegerVector ⟨0x08E#10, h, d, a, b, (0#6 ++ t.code)⟩ = .word (hdBad true .flags h ++ off 27 (384 ≤ d.toNat) ++ off 3 ((hi 6 3 (0#6 ++ t.code)) != 0#6)) (.div h d a b (IType.ofCode (lo 3 (0#6 ++ t.code)))) := rfl
  refine decode_of ((decodeWord_mk h 0x08E#10 d a b (0#6 ++ t.code)).trans ((class1v (by decide) (by decide)).trans (e.trans ?_))) rfl rfl
  simp [off, hb, hw]

theorem divScalar (h : Hd) (d : SReg) (a : SReg) (b : SReg) (t : IType) : Statement (.divScalar h d a b t) := by
  intro _ hw
  replace hw : (h.ok false .sf) = true := hw
  try simp only [Bool.and_eq_true] at hw
  have hb := hdBad_ok hw
  try simp at hw
  have e : decodeIntegerScalar ⟨0x0CE#10, h, (0#1 ++ d), (0#1 ++ a), (0#1 ++ b), (0#6 ++ t.code)⟩ = .word (hdBad false .sf h ++ off 27 (256 ≤ (0#1 ++ d).toNat) ++ off 18 (256 ≤ (0#1 ++ a).toNat) ++ off 9 (256 ≤ (0#1 ++ b).toNat) ++ off 3 ((hi 6 3 (0#6 ++ t.code)) != 0#6)) (.divScalar h (lo 8 (0#1 ++ d)) (lo 8 (0#1 ++ a)) (lo 8 (0#1 ++ b)) (IType.ofCode (lo 3 (0#6 ++ t.code)))) := rfl
  refine decode_of ((decodeWord_mk h 0x0CE#10 (0#1 ++ d) (0#1 ++ a) (0#1 ++ b) (0#6 ++ t.code)).trans ((class1s (by decide) (by decide)).trans (e.trans ?_))) rfl rfl
  simp [off, hb, hw]

theorem rem (h : Hd) (d : VCode) (a : VCode) (b : VCode) (t : IType) : Statement (.rem h d a b t) := by
  intro _ hw
  replace hw : (h.ok true .flags && decide (d.toNat < 384)) = true := hw
  try simp only [Bool.and_eq_true] at hw
  have hb := hdBad_ok hw.1
  try simp at hw
  have e : decodeIntegerVector ⟨0x08F#10, h, d, a, b, (0#6 ++ t.code)⟩ = .word (hdBad true .flags h ++ off 27 (384 ≤ d.toNat) ++ off 3 ((hi 6 3 (0#6 ++ t.code)) != 0#6)) (.rem h d a b (IType.ofCode (lo 3 (0#6 ++ t.code)))) := rfl
  refine decode_of ((decodeWord_mk h 0x08F#10 d a b (0#6 ++ t.code)).trans ((class1v (by decide) (by decide)).trans (e.trans ?_))) rfl rfl
  simp [off, hb, hw]

theorem remScalar (h : Hd) (d : SReg) (a : SReg) (b : SReg) (t : IType) : Statement (.remScalar h d a b t) := by
  intro _ hw
  replace hw : (h.ok false .sf) = true := hw
  try simp only [Bool.and_eq_true] at hw
  have hb := hdBad_ok hw
  try simp at hw
  have e : decodeIntegerScalar ⟨0x0CF#10, h, (0#1 ++ d), (0#1 ++ a), (0#1 ++ b), (0#6 ++ t.code)⟩ = .word (hdBad false .sf h ++ off 27 (256 ≤ (0#1 ++ d).toNat) ++ off 18 (256 ≤ (0#1 ++ a).toNat) ++ off 9 (256 ≤ (0#1 ++ b).toNat) ++ off 3 ((hi 6 3 (0#6 ++ t.code)) != 0#6)) (.remScalar h (lo 8 (0#1 ++ d)) (lo 8 (0#1 ++ a)) (lo 8 (0#1 ++ b)) (IType.ofCode (lo 3 (0#6 ++ t.code)))) := rfl
  refine decode_of ((decodeWord_mk h 0x0CF#10 (0#1 ++ d) (0#1 ++ a) (0#1 ++ b) (0#6 ++ t.code)).trans ((class1s (by decide) (by decide)).trans (e.trans ?_))) rfl rfl
  simp [off, hb, hw]

theorem min (h : Hd) (d : VCode) (a : VCode) (b : VCode) (t : IType) : Statement (.min h d a b t) := by
  intro _ hw
  replace hw : (h.ok true .flags && decide (d.toNat < 384)) = true := hw
  try simp only [Bool.and_eq_true] at hw
  have hb := hdBad_ok hw.1
  try simp at hw
  have e : decodeIntegerVector ⟨0x090#10, h, d, a, b, (0#6 ++ t.code)⟩ = .word (hdBad true .flags h ++ off 27 (384 ≤ d.toNat) ++ off 3 ((hi 6 3 (0#6 ++ t.code)) != 0#6)) (.min h d a b (IType.ofCode (lo 3 (0#6 ++ t.code)))) := rfl
  refine decode_of ((decodeWord_mk h 0x090#10 d a b (0#6 ++ t.code)).trans ((class1v (by decide) (by decide)).trans (e.trans ?_))) rfl rfl
  simp [off, hb, hw]

theorem minScalar (h : Hd) (d : SReg) (a : SReg) (b : SReg) (t : IType) : Statement (.minScalar h d a b t) := by
  intro _ hw
  replace hw : (h.ok false .sf) = true := hw
  try simp only [Bool.and_eq_true] at hw
  have hb := hdBad_ok hw
  try simp at hw
  have e : decodeIntegerScalar ⟨0x0D0#10, h, (0#1 ++ d), (0#1 ++ a), (0#1 ++ b), (0#6 ++ t.code)⟩ = .word (hdBad false .sf h ++ off 27 (256 ≤ (0#1 ++ d).toNat) ++ off 18 (256 ≤ (0#1 ++ a).toNat) ++ off 9 (256 ≤ (0#1 ++ b).toNat) ++ off 3 ((hi 6 3 (0#6 ++ t.code)) != 0#6)) (.minScalar h (lo 8 (0#1 ++ d)) (lo 8 (0#1 ++ a)) (lo 8 (0#1 ++ b)) (IType.ofCode (lo 3 (0#6 ++ t.code)))) := rfl
  refine decode_of ((decodeWord_mk h 0x0D0#10 (0#1 ++ d) (0#1 ++ a) (0#1 ++ b) (0#6 ++ t.code)).trans ((class1s (by decide) (by decide)).trans (e.trans ?_))) rfl rfl
  simp [off, hb, hw]

theorem max (h : Hd) (d : VCode) (a : VCode) (b : VCode) (t : IType) : Statement (.max h d a b t) := by
  intro _ hw
  replace hw : (h.ok true .flags && decide (d.toNat < 384)) = true := hw
  try simp only [Bool.and_eq_true] at hw
  have hb := hdBad_ok hw.1
  try simp at hw
  have e : decodeIntegerVector ⟨0x091#10, h, d, a, b, (0#6 ++ t.code)⟩ = .word (hdBad true .flags h ++ off 27 (384 ≤ d.toNat) ++ off 3 ((hi 6 3 (0#6 ++ t.code)) != 0#6)) (.max h d a b (IType.ofCode (lo 3 (0#6 ++ t.code)))) := rfl
  refine decode_of ((decodeWord_mk h 0x091#10 d a b (0#6 ++ t.code)).trans ((class1v (by decide) (by decide)).trans (e.trans ?_))) rfl rfl
  simp [off, hb, hw]

theorem maxScalar (h : Hd) (d : SReg) (a : SReg) (b : SReg) (t : IType) : Statement (.maxScalar h d a b t) := by
  intro _ hw
  replace hw : (h.ok false .sf) = true := hw
  try simp only [Bool.and_eq_true] at hw
  have hb := hdBad_ok hw
  try simp at hw
  have e : decodeIntegerScalar ⟨0x0D1#10, h, (0#1 ++ d), (0#1 ++ a), (0#1 ++ b), (0#6 ++ t.code)⟩ = .word (hdBad false .sf h ++ off 27 (256 ≤ (0#1 ++ d).toNat) ++ off 18 (256 ≤ (0#1 ++ a).toNat) ++ off 9 (256 ≤ (0#1 ++ b).toNat) ++ off 3 ((hi 6 3 (0#6 ++ t.code)) != 0#6)) (.maxScalar h (lo 8 (0#1 ++ d)) (lo 8 (0#1 ++ a)) (lo 8 (0#1 ++ b)) (IType.ofCode (lo 3 (0#6 ++ t.code)))) := rfl
  refine decode_of ((decodeWord_mk h 0x0D1#10 (0#1 ++ d) (0#1 ++ a) (0#1 ++ b) (0#6 ++ t.code)).trans ((class1s (by decide) (by decide)).trans (e.trans ?_))) rfl rfl
  simp [off, hb, hw]

theorem abs (h : Hd) (d : VCode) (a : VCode) (t : IType) : Statement (.abs h d a t) := by
  intro _ hw
  replace hw : (h.ok true .flags && decide (d.toNat < 384)) = true := hw
  try simp only [Bool.and_eq_true] at hw
  have hb := hdBad_ok hw.1
  try simp at hw
  have e : decodeIntegerVector ⟨0x092#10, h, d, a, 0#9, (0#6 ++ t.code)⟩ = .word (hdBad true .flags h ++ off 27 (384 ≤ d.toNat) ++ off 9 (0#9 != 0#9) ++ off 3 ((hi 6 3 (0#6 ++ t.code)) != 0#6)) (.abs h d a (IType.ofCode (lo 3 (0#6 ++ t.code)))) := rfl
  refine decode_of ((decodeWord_mk h 0x092#10 d a 0#9 (0#6 ++ t.code)).trans ((class1v (by decide) (by decide)).trans (e.trans ?_))) rfl rfl
  simp [off, hb, hw]

theorem absScalar (h : Hd) (d : SReg) (a : SReg) (t : IType) : Statement (.absScalar h d a t) := by
  intro _ hw
  replace hw : (h.ok false .sf) = true := hw
  try simp only [Bool.and_eq_true] at hw
  have hb := hdBad_ok hw
  try simp at hw
  have e : decodeIntegerScalar ⟨0x0D2#10, h, (0#1 ++ d), (0#1 ++ a), 0#9, (0#6 ++ t.code)⟩ = .word (hdBad false .sf h ++ off 27 (256 ≤ (0#1 ++ d).toNat) ++ off 18 (256 ≤ (0#1 ++ a).toNat) ++ off 9 (0#9 != 0#9) ++ off 3 ((hi 6 3 (0#6 ++ t.code)) != 0#6)) (.absScalar h (lo 8 (0#1 ++ d)) (lo 8 (0#1 ++ a)) (IType.ofCode (lo 3 (0#6 ++ t.code)))) := rfl
  refine decode_of ((decodeWord_mk h 0x0D2#10 (0#1 ++ d) (0#1 ++ a) 0#9 (0#6 ++ t.code)).trans ((class1s (by decide) (by decide)).trans (e.trans ?_))) rfl rfl
  simp [off, hb, hw]

theorem neg (h : Hd) (d : VCode) (a : VCode) (t : IType) : Statement (.neg h d a t) := by
  intro _ hw
  replace hw : (h.ok true .flags && decide (d.toNat < 384)) = true := hw
  try simp only [Bool.and_eq_true] at hw
  have hb := hdBad_ok hw.1
  try simp at hw
  have e : decodeIntegerVector ⟨0x093#10, h, d, a, 0#9, (0#6 ++ t.code)⟩ = .word (hdBad true .flags h ++ off 27 (384 ≤ d.toNat) ++ off 9 (0#9 != 0#9) ++ off 3 ((hi 6 3 (0#6 ++ t.code)) != 0#6)) (.neg h d a (IType.ofCode (lo 3 (0#6 ++ t.code)))) := rfl
  refine decode_of ((decodeWord_mk h 0x093#10 d a 0#9 (0#6 ++ t.code)).trans ((class1v (by decide) (by decide)).trans (e.trans ?_))) rfl rfl
  simp [off, hb, hw]

theorem negScalar (h : Hd) (d : SReg) (a : SReg) (t : IType) : Statement (.negScalar h d a t) := by
  intro _ hw
  replace hw : (h.ok false .sf) = true := hw
  try simp only [Bool.and_eq_true] at hw
  have hb := hdBad_ok hw
  try simp at hw
  have e : decodeIntegerScalar ⟨0x0D3#10, h, (0#1 ++ d), (0#1 ++ a), 0#9, (0#6 ++ t.code)⟩ = .word (hdBad false .sf h ++ off 27 (256 ≤ (0#1 ++ d).toNat) ++ off 18 (256 ≤ (0#1 ++ a).toNat) ++ off 9 (0#9 != 0#9) ++ off 3 ((hi 6 3 (0#6 ++ t.code)) != 0#6)) (.negScalar h (lo 8 (0#1 ++ d)) (lo 8 (0#1 ++ a)) (IType.ofCode (lo 3 (0#6 ++ t.code)))) := rfl
  refine decode_of ((decodeWord_mk h 0x0D3#10 (0#1 ++ d) (0#1 ++ a) 0#9 (0#6 ++ t.code)).trans ((class1s (by decide) (by decide)).trans (e.trans ?_))) rfl rfl
  simp [off, hb, hw]

theorem and (h : Hd) (d : VCode) (a : VCode) (b : VCode) (t : IType) : Statement (.and h d a b t) := by
  intro _ hw
  replace hw : (h.ok true .flags && decide (d.toNat < 384)) = true := hw
  try simp only [Bool.and_eq_true] at hw
  have hb := hdBad_ok hw.1
  try simp at hw
  have e : decodeIntegerVector ⟨0x094#10, h, d, a, b, (0#6 ++ t.code)⟩ = .word (hdBad true .flags h ++ off 27 (384 ≤ d.toNat) ++ off 3 ((hi 6 3 (0#6 ++ t.code)) != 0#6)) (.and h d a b (IType.ofCode (lo 3 (0#6 ++ t.code)))) := rfl
  refine decode_of ((decodeWord_mk h 0x094#10 d a b (0#6 ++ t.code)).trans ((class1v (by decide) (by decide)).trans (e.trans ?_))) rfl rfl
  simp [off, hb, hw]

theorem andScalar (h : Hd) (d : SReg) (a : SReg) (b : SReg) (t : IType) : Statement (.andScalar h d a b t) := by
  intro _ hw
  replace hw : (h.ok false .sf) = true := hw
  try simp only [Bool.and_eq_true] at hw
  have hb := hdBad_ok hw
  try simp at hw
  have e : decodeIntegerScalar ⟨0x0D4#10, h, (0#1 ++ d), (0#1 ++ a), (0#1 ++ b), (0#6 ++ t.code)⟩ = .word (hdBad false .sf h ++ off 27 (256 ≤ (0#1 ++ d).toNat) ++ off 18 (256 ≤ (0#1 ++ a).toNat) ++ off 9 (256 ≤ (0#1 ++ b).toNat) ++ off 3 ((hi 6 3 (0#6 ++ t.code)) != 0#6)) (.andScalar h (lo 8 (0#1 ++ d)) (lo 8 (0#1 ++ a)) (lo 8 (0#1 ++ b)) (IType.ofCode (lo 3 (0#6 ++ t.code)))) := rfl
  refine decode_of ((decodeWord_mk h 0x0D4#10 (0#1 ++ d) (0#1 ++ a) (0#1 ++ b) (0#6 ++ t.code)).trans ((class1s (by decide) (by decide)).trans (e.trans ?_))) rfl rfl
  simp [off, hb, hw]

theorem andImm (h : Hd) (d : VCode) (a : VCode) (t : IType) (imm : BitVec 15) : Statement (.andImm h d a t imm) := by
  intro _ hw
  replace hw : (h.ok true .flags && decide (d.toNat < 384)) = true := hw
  try simp only [Bool.and_eq_true] at hw
  have hb := hdBad_ok hw.1
  try simp at hw
  have e : decodeIntegerVector ⟨0x095#10, h, d, a, (hi 9 9 (t.code ++ imm)), (lo 9 (t.code ++ imm))⟩ = .word (hdBad true .flags h ++ off 27 (384 ≤ d.toNat)) (.andImm h d a (IType.ofCode (hi 3 15 ((hi 9 9 (t.code ++ imm)) ++ (lo 9 (t.code ++ imm))))) (lo 15 ((hi 9 9 (t.code ++ imm)) ++ (lo 9 (t.code ++ imm))))) := rfl
  refine decode_of ((decodeWord_mk h 0x095#10 d a (hi 9 9 (t.code ++ imm)) (lo 9 (t.code ++ imm))).trans ((class1v (by decide) (by decide)).trans (e.trans ?_))) rfl rfl
  simp [off, hb, hw]

theorem andImmScalar (h : Hd) (d : SReg) (a : SReg) (t : IType) (imm : BitVec 15) : Statement (.andImmScalar h d a t imm) := by
  intro _ hw
  replace hw : (h.ok false .sf) = true := hw
  try simp only [Bool.and_eq_true] at hw
  have hb := hdBad_ok hw
  try simp at hw
  have e : decodeIntegerScalar ⟨0x0D5#10, h, (0#1 ++ d), (0#1 ++ a), (hi 9 9 (t.code ++ imm)), (lo 9 (t.code ++ imm))⟩ = .word (hdBad false .sf h ++ off 27 (256 ≤ (0#1 ++ d).toNat) ++ off 18 (256 ≤ (0#1 ++ a).toNat)) (.andImmScalar h (lo 8 (0#1 ++ d)) (lo 8 (0#1 ++ a)) (IType.ofCode (hi 3 15 ((hi 9 9 (t.code ++ imm)) ++ (lo 9 (t.code ++ imm))))) (lo 15 ((hi 9 9 (t.code ++ imm)) ++ (lo 9 (t.code ++ imm))))) := rfl
  refine decode_of ((decodeWord_mk h 0x0D5#10 (0#1 ++ d) (0#1 ++ a) (hi 9 9 (t.code ++ imm)) (lo 9 (t.code ++ imm))).trans ((class1s (by decide) (by decide)).trans (e.trans ?_))) rfl rfl
  simp [off, hb, hw]

theorem or (h : Hd) (d : VCode) (a : VCode) (b : VCode) (t : IType) : Statement (.or h d a b t) := by
  intro _ hw
  replace hw : (h.ok true .flags && decide (d.toNat < 384)) = true := hw
  try simp only [Bool.and_eq_true] at hw
  have hb := hdBad_ok hw.1
  try simp at hw
  have e : decodeIntegerVector ⟨0x096#10, h, d, a, b, (0#6 ++ t.code)⟩ = .word (hdBad true .flags h ++ off 27 (384 ≤ d.toNat) ++ off 3 ((hi 6 3 (0#6 ++ t.code)) != 0#6)) (.or h d a b (IType.ofCode (lo 3 (0#6 ++ t.code)))) := rfl
  refine decode_of ((decodeWord_mk h 0x096#10 d a b (0#6 ++ t.code)).trans ((class1v (by decide) (by decide)).trans (e.trans ?_))) rfl rfl
  simp [off, hb, hw]

theorem orScalar (h : Hd) (d : SReg) (a : SReg) (b : SReg) (t : IType) : Statement (.orScalar h d a b t) := by
  intro _ hw
  replace hw : (h.ok false .sf) = true := hw
  try simp only [Bool.and_eq_true] at hw
  have hb := hdBad_ok hw
  try simp at hw
  have e : decodeIntegerScalar ⟨0x0D6#10, h, (0#1 ++ d), (0#1 ++ a), (0#1 ++ b), (0#6 ++ t.code)⟩ = .word (hdBad false .sf h ++ off 27 (256 ≤ (0#1 ++ d).toNat) ++ off 18 (256 ≤ (0#1 ++ a).toNat) ++ off 9 (256 ≤ (0#1 ++ b).toNat) ++ off 3 ((hi 6 3 (0#6 ++ t.code)) != 0#6)) (.orScalar h (lo 8 (0#1 ++ d)) (lo 8 (0#1 ++ a)) (lo 8 (0#1 ++ b)) (IType.ofCode (lo 3 (0#6 ++ t.code)))) := rfl
  refine decode_of ((decodeWord_mk h 0x0D6#10 (0#1 ++ d) (0#1 ++ a) (0#1 ++ b) (0#6 ++ t.code)).trans ((class1s (by decide) (by decide)).trans (e.trans ?_))) rfl rfl
  simp [off, hb, hw]

theorem orImm (h : Hd) (d : VCode) (a : VCode) (t : IType) (imm : BitVec 15) : Statement (.orImm h d a t imm) := by
  intro _ hw
  replace hw : (h.ok true .flags && decide (d.toNat < 384)) = true := hw
  try simp only [Bool.and_eq_true] at hw
  have hb := hdBad_ok hw.1
  try simp at hw
  have e : decodeIntegerVector ⟨0x097#10, h, d, a, (hi 9 9 (t.code ++ imm)), (lo 9 (t.code ++ imm))⟩ = .word (hdBad true .flags h ++ off 27 (384 ≤ d.toNat)) (.orImm h d a (IType.ofCode (hi 3 15 ((hi 9 9 (t.code ++ imm)) ++ (lo 9 (t.code ++ imm))))) (lo 15 ((hi 9 9 (t.code ++ imm)) ++ (lo 9 (t.code ++ imm))))) := rfl
  refine decode_of ((decodeWord_mk h 0x097#10 d a (hi 9 9 (t.code ++ imm)) (lo 9 (t.code ++ imm))).trans ((class1v (by decide) (by decide)).trans (e.trans ?_))) rfl rfl
  simp [off, hb, hw]

theorem orImmScalar (h : Hd) (d : SReg) (a : SReg) (t : IType) (imm : BitVec 15) : Statement (.orImmScalar h d a t imm) := by
  intro _ hw
  replace hw : (h.ok false .sf) = true := hw
  try simp only [Bool.and_eq_true] at hw
  have hb := hdBad_ok hw
  try simp at hw
  have e : decodeIntegerScalar ⟨0x0D7#10, h, (0#1 ++ d), (0#1 ++ a), (hi 9 9 (t.code ++ imm)), (lo 9 (t.code ++ imm))⟩ = .word (hdBad false .sf h ++ off 27 (256 ≤ (0#1 ++ d).toNat) ++ off 18 (256 ≤ (0#1 ++ a).toNat)) (.orImmScalar h (lo 8 (0#1 ++ d)) (lo 8 (0#1 ++ a)) (IType.ofCode (hi 3 15 ((hi 9 9 (t.code ++ imm)) ++ (lo 9 (t.code ++ imm))))) (lo 15 ((hi 9 9 (t.code ++ imm)) ++ (lo 9 (t.code ++ imm))))) := rfl
  refine decode_of ((decodeWord_mk h 0x0D7#10 (0#1 ++ d) (0#1 ++ a) (hi 9 9 (t.code ++ imm)) (lo 9 (t.code ++ imm))).trans ((class1s (by decide) (by decide)).trans (e.trans ?_))) rfl rfl
  simp [off, hb, hw]

theorem xor (h : Hd) (d : VCode) (a : VCode) (b : VCode) (t : IType) : Statement (.xor h d a b t) := by
  intro _ hw
  replace hw : (h.ok true .flags && decide (d.toNat < 384)) = true := hw
  try simp only [Bool.and_eq_true] at hw
  have hb := hdBad_ok hw.1
  try simp at hw
  have e : decodeIntegerVector ⟨0x098#10, h, d, a, b, (0#6 ++ t.code)⟩ = .word (hdBad true .flags h ++ off 27 (384 ≤ d.toNat) ++ off 3 ((hi 6 3 (0#6 ++ t.code)) != 0#6)) (.xor h d a b (IType.ofCode (lo 3 (0#6 ++ t.code)))) := rfl
  refine decode_of ((decodeWord_mk h 0x098#10 d a b (0#6 ++ t.code)).trans ((class1v (by decide) (by decide)).trans (e.trans ?_))) rfl rfl
  simp [off, hb, hw]

theorem xorScalar (h : Hd) (d : SReg) (a : SReg) (b : SReg) (t : IType) : Statement (.xorScalar h d a b t) := by
  intro _ hw
  replace hw : (h.ok false .sf) = true := hw
  try simp only [Bool.and_eq_true] at hw
  have hb := hdBad_ok hw
  try simp at hw
  have e : decodeIntegerScalar ⟨0x0D8#10, h, (0#1 ++ d), (0#1 ++ a), (0#1 ++ b), (0#6 ++ t.code)⟩ = .word (hdBad false .sf h ++ off 27 (256 ≤ (0#1 ++ d).toNat) ++ off 18 (256 ≤ (0#1 ++ a).toNat) ++ off 9 (256 ≤ (0#1 ++ b).toNat) ++ off 3 ((hi 6 3 (0#6 ++ t.code)) != 0#6)) (.xorScalar h (lo 8 (0#1 ++ d)) (lo 8 (0#1 ++ a)) (lo 8 (0#1 ++ b)) (IType.ofCode (lo 3 (0#6 ++ t.code)))) := rfl
  refine decode_of ((decodeWord_mk h 0x0D8#10 (0#1 ++ d) (0#1 ++ a) (0#1 ++ b) (0#6 ++ t.code)).trans ((class1s (by decide) (by decide)).trans (e.trans ?_))) rfl rfl
  simp [off, hb, hw]

theorem xorImm (h : Hd) (d : VCode) (a : VCode) (t : IType) (imm : BitVec 15) : Statement (.xorImm h d a t imm) := by
  intro _ hw
  replace hw : (h.ok true .flags && decide (d.toNat < 384)) = true := hw
  try simp only [Bool.and_eq_true] at hw
  have hb := hdBad_ok hw.1
  try simp at hw
  have e : decodeIntegerVector ⟨0x099#10, h, d, a, (hi 9 9 (t.code ++ imm)), (lo 9 (t.code ++ imm))⟩ = .word (hdBad true .flags h ++ off 27 (384 ≤ d.toNat)) (.xorImm h d a (IType.ofCode (hi 3 15 ((hi 9 9 (t.code ++ imm)) ++ (lo 9 (t.code ++ imm))))) (lo 15 ((hi 9 9 (t.code ++ imm)) ++ (lo 9 (t.code ++ imm))))) := rfl
  refine decode_of ((decodeWord_mk h 0x099#10 d a (hi 9 9 (t.code ++ imm)) (lo 9 (t.code ++ imm))).trans ((class1v (by decide) (by decide)).trans (e.trans ?_))) rfl rfl
  simp [off, hb, hw]

theorem xorImmScalar (h : Hd) (d : SReg) (a : SReg) (t : IType) (imm : BitVec 15) : Statement (.xorImmScalar h d a t imm) := by
  intro _ hw
  replace hw : (h.ok false .sf) = true := hw
  try simp only [Bool.and_eq_true] at hw
  have hb := hdBad_ok hw
  try simp at hw
  have e : decodeIntegerScalar ⟨0x0D9#10, h, (0#1 ++ d), (0#1 ++ a), (hi 9 9 (t.code ++ imm)), (lo 9 (t.code ++ imm))⟩ = .word (hdBad false .sf h ++ off 27 (256 ≤ (0#1 ++ d).toNat) ++ off 18 (256 ≤ (0#1 ++ a).toNat)) (.xorImmScalar h (lo 8 (0#1 ++ d)) (lo 8 (0#1 ++ a)) (IType.ofCode (hi 3 15 ((hi 9 9 (t.code ++ imm)) ++ (lo 9 (t.code ++ imm))))) (lo 15 ((hi 9 9 (t.code ++ imm)) ++ (lo 9 (t.code ++ imm))))) := rfl
  refine decode_of ((decodeWord_mk h 0x0D9#10 (0#1 ++ d) (0#1 ++ a) (hi 9 9 (t.code ++ imm)) (lo 9 (t.code ++ imm))).trans ((class1s (by decide) (by decide)).trans (e.trans ?_))) rfl rfl
  simp [off, hb, hw]

theorem andn (h : Hd) (d : VCode) (a : VCode) (b : VCode) (t : IType) : Statement (.andn h d a b t) := by
  intro _ hw
  replace hw : (h.ok true .flags && decide (d.toNat < 384)) = true := hw
  try simp only [Bool.and_eq_true] at hw
  have hb := hdBad_ok hw.1
  try simp at hw
  have e : decodeIntegerVector ⟨0x09A#10, h, d, a, b, (0#6 ++ t.code)⟩ = .word (hdBad true .flags h ++ off 27 (384 ≤ d.toNat) ++ off 3 ((hi 6 3 (0#6 ++ t.code)) != 0#6)) (.andn h d a b (IType.ofCode (lo 3 (0#6 ++ t.code)))) := rfl
  refine decode_of ((decodeWord_mk h 0x09A#10 d a b (0#6 ++ t.code)).trans ((class1v (by decide) (by decide)).trans (e.trans ?_))) rfl rfl
  simp [off, hb, hw]

theorem andnScalar (h : Hd) (d : SReg) (a : SReg) (b : SReg) (t : IType) : Statement (.andnScalar h d a b t) := by
  intro _ hw
  replace hw : (h.ok false .sf) = true := hw
  try simp only [Bool.and_eq_true] at hw
  have hb := hdBad_ok hw
  try simp at hw
  have e : decodeIntegerScalar ⟨0x0DA#10, h, (0#1 ++ d), (0#1 ++ a), (0#1 ++ b), (0#6 ++ t.code)⟩ = .word (hdBad false .sf h ++ off 27 (256 ≤ (0#1 ++ d).toNat) ++ off 18 (256 ≤ (0#1 ++ a).toNat) ++ off 9 (256 ≤ (0#1 ++ b).toNat) ++ off 3 ((hi 6 3 (0#6 ++ t.code)) != 0#6)) (.andnScalar h (lo 8 (0#1 ++ d)) (lo 8 (0#1 ++ a)) (lo 8 (0#1 ++ b)) (IType.ofCode (lo 3 (0#6 ++ t.code)))) := rfl
  refine decode_of ((decodeWord_mk h 0x0DA#10 (0#1 ++ d) (0#1 ++ a) (0#1 ++ b) (0#6 ++ t.code)).trans ((class1s (by decide) (by decide)).trans (e.trans ?_))) rfl rfl
  simp [off, hb, hw]

theorem not (h : Hd) (d : VCode) (a : VCode) (t : IType) : Statement (.not h d a t) := by
  intro _ hw
  replace hw : (h.ok true .flags && decide (d.toNat < 384)) = true := hw
  try simp only [Bool.and_eq_true] at hw
  have hb := hdBad_ok hw.1
  try simp at hw
  have e : decodeIntegerVector ⟨0x09B#10, h, d, a, 0#9, (0#6 ++ t.code)⟩ = .word (hdBad true .flags h ++ off 27 (384 ≤ d.toNat) ++ off 9 (0#9 != 0#9) ++ off 3 ((hi 6 3 (0#6 ++ t.code)) != 0#6)) (.not h d a (IType.ofCode (lo 3 (0#6 ++ t.code)))) := rfl
  refine decode_of ((decodeWord_mk h 0x09B#10 d a 0#9 (0#6 ++ t.code)).trans ((class1v (by decide) (by decide)).trans (e.trans ?_))) rfl rfl
  simp [off, hb, hw]

theorem notScalar (h : Hd) (d : SReg) (a : SReg) (t : IType) : Statement (.notScalar h d a t) := by
  intro _ hw
  replace hw : (h.ok false .sf) = true := hw
  try simp only [Bool.and_eq_true] at hw
  have hb := hdBad_ok hw
  try simp at hw
  have e : decodeIntegerScalar ⟨0x0DB#10, h, (0#1 ++ d), (0#1 ++ a), 0#9, (0#6 ++ t.code)⟩ = .word (hdBad false .sf h ++ off 27 (256 ≤ (0#1 ++ d).toNat) ++ off 18 (256 ≤ (0#1 ++ a).toNat) ++ off 9 (0#9 != 0#9) ++ off 3 ((hi 6 3 (0#6 ++ t.code)) != 0#6)) (.notScalar h (lo 8 (0#1 ++ d)) (lo 8 (0#1 ++ a)) (IType.ofCode (lo 3 (0#6 ++ t.code)))) := rfl
  refine decode_of ((decodeWord_mk h 0x0DB#10 (0#1 ++ d) (0#1 ++ a) 0#9 (0#6 ++ t.code)).trans ((class1s (by decide) (by decide)).trans (e.trans ?_))) rfl rfl
  simp [off, hb, hw]

theorem tlog (h : Hd) (d : VCode) (a : VCode) (b : VCode) (tt : BitVec 8) : Statement (.tlog h d a b tt) := by
  intro _ hw
  replace hw : (h.ok true .flags && decide (d.toNat < 384)) = true := hw
  try simp only [Bool.and_eq_true] at hw
  have hb := hdBad_ok hw.1
  try simp at hw
  have e : decodeIntegerVector ⟨0x09C#10, h, d, a, b, (0#1 ++ tt)⟩ = .word (hdBad true .flags h ++ off 27 (384 ≤ d.toNat) ++ off 8 ((hi 1 8 (0#1 ++ tt)) != 0#1)) (.tlog h d a b (lo 8 (0#1 ++ tt))) := rfl
  refine decode_of ((decodeWord_mk h 0x09C#10 d a b (0#1 ++ tt)).trans ((class1v (by decide) (by decide)).trans (e.trans ?_))) rfl rfl
  simp [off, hb, hw]

theorem tlogScalar (h : Hd) (d : SReg) (a : SReg) (b : SReg) (tt : BitVec 8) : Statement (.tlogScalar h d a b tt) := by
  intro _ hw
  replace hw : (h.ok false .sf) = true := hw
  try simp only [Bool.and_eq_true] at hw
  have hb := hdBad_ok hw
  try simp at hw
  have e : decodeIntegerScalar ⟨0x0DC#10, h, (0#1 ++ d), (0#1 ++ a), (0#1 ++ b), (0#1 ++ tt)⟩ = .word (hdBad false .sf h ++ off 27 (256 ≤ (0#1 ++ d).toNat) ++ off 18 (256 ≤ (0#1 ++ a).toNat) ++ off 9 (256 ≤ (0#1 ++ b).toNat) ++ off 8 ((hi 1 8 (0#1 ++ tt)) != 0#1)) (.tlogScalar h (lo 8 (0#1 ++ d)) (lo 8 (0#1 ++ a)) (lo 8 (0#1 ++ b)) (lo 8 (0#1 ++ tt))) := rfl
  refine decode_of ((decodeWord_mk h 0x0DC#10 (0#1 ++ d) (0#1 ++ a) (0#1 ++ b) (0#1 ++ tt)).trans ((class1s (by decide) (by decide)).trans (e.trans ?_))) rfl rfl
  simp [off, hb, hw]

theorem shl (h : Hd) (d : VCode) (a : VCode) (b : VCode) (t : IType) : Statement (.shl h d a b t) := by
  intro _ hw
  replace hw : (h.ok true .flags && decide (d.toNat < 384)) = true := hw
  try simp only [Bool.and_eq_true] at hw
  have hb := hdBad_ok hw.1
  try simp at hw
  have e : decodeIntegerVector ⟨0x09D#10, h, d, a, b, (0#6 ++ t.code)⟩ = .word (hdBad true .flags h ++ off 27 (384 ≤ d.toNat) ++ off 3 ((hi 6 3 (0#6 ++ t.code)) != 0#6)) (.shl h d a b (IType.ofCode (lo 3 (0#6 ++ t.code)))) := rfl
  refine decode_of ((decodeWord_mk h 0x09D#10 d a b (0#6 ++ t.code)).trans ((class1v (by decide) (by decide)).trans (e.trans ?_))) rfl rfl
  simp [off, hb, hw]

theorem shlScalar (h : Hd) (d : SReg) (a : SReg) (b : SReg) (t : IType) : Statement (.shlScalar h d a b t) := by
  intro _ hw
  replace hw : (h.ok false .sf) = true := hw
  try simp only [Bool.and_eq_true] at hw
  have hb := hdBad_ok hw
  try simp at hw
  have e : decodeIntegerScalar ⟨0x0DD#10, h, (0#1 ++ d), (0#1 ++ a), (0#1 ++ b), (0#6 ++ t.code)⟩ = .word (hdBad false .sf h ++ off 27 (256 ≤ (0#1 ++ d).toNat) ++ off 18 (256 ≤ (0#1 ++ a).toNat) ++ off 9 (256 ≤ (0#1 ++ b).toNat) ++ off 3 ((hi 6 3 (0#6 ++ t.code)) != 0#6)) (.shlScalar h (lo 8 (0#1 ++ d)) (lo 8 (0#1 ++ a)) (lo 8 (0#1 ++ b)) (IType.ofCode (lo 3 (0#6 ++ t.code)))) := rfl
  refine decode_of ((decodeWord_mk h 0x0DD#10 (0#1 ++ d) (0#1 ++ a) (0#1 ++ b) (0#6 ++ t.code)).trans ((class1s (by decide) (by decide)).trans (e.trans ?_))) rfl rfl
  simp [off, hb, hw]

theorem shlImm (h : Hd) (d : VCode) (a : VCode) (t : IType) (imm : BitVec 15) : Statement (.shlImm h d a t imm) := by
  intro _ hw
  replace hw : (h.ok true .flags && decide (d.toNat < 384)) = true := hw
  try simp only [Bool.and_eq_true] at hw
  have hb := hdBad_ok hw.1
  try simp at hw
  have e : decodeIntegerVector ⟨0x09E#10, h, d, a, (hi 9 9 (t.code ++ imm)), (lo 9 (t.code ++ imm))⟩ = .word (hdBad true .flags h ++ off 27 (384 ≤ d.toNat)) (.shlImm h d a (IType.ofCode (hi 3 15 ((hi 9 9 (t.code ++ imm)) ++ (lo 9 (t.code ++ imm))))) (lo 15 ((hi 9 9 (t.code ++ imm)) ++ (lo 9 (t.code ++ imm))))) := rfl
  refine decode_of ((decodeWord_mk h 0x09E#10 d a (hi 9 9 (t.code ++ imm)) (lo 9 (t.code ++ imm))).trans ((class1v (by decide) (by decide)).trans (e.trans ?_))) rfl rfl
  simp [off, hb, hw]

theorem shlImmScalar (h : Hd) (d : SReg) (a : SReg) (t : IType) (imm : BitVec 15) : Statement (.shlImmScalar h d a t imm) := by
  intro _ hw
  replace hw : (h.ok false .sf) = true := hw
  try simp only [Bool.and_eq_true] at hw
  have hb := hdBad_ok hw
  try simp at hw
  have e : decodeIntegerScalar ⟨0x0DE#10, h, (0#1 ++ d), (0#1 ++ a), (hi 9 9 (t.code ++ imm)), (lo 9 (t.code ++ imm))⟩ = .word (hdBad false .sf h ++ off 27 (256 ≤ (0#1 ++ d).toNat) ++ off 18 (256 ≤ (0#1 ++ a).toNat)) (.shlImmScalar h (lo 8 (0#1 ++ d)) (lo 8 (0#1 ++ a)) (IType.ofCode (hi 3 15 ((hi 9 9 (t.code ++ imm)) ++ (lo 9 (t.code ++ imm))))) (lo 15 ((hi 9 9 (t.code ++ imm)) ++ (lo 9 (t.code ++ imm))))) := rfl
  refine decode_of ((decodeWord_mk h 0x0DE#10 (0#1 ++ d) (0#1 ++ a) (hi 9 9 (t.code ++ imm)) (lo 9 (t.code ++ imm))).trans ((class1s (by decide) (by decide)).trans (e.trans ?_))) rfl rfl
  simp [off, hb, hw]

theorem shr (h : Hd) (d : VCode) (a : VCode) (b : VCode) (t : IType) : Statement (.shr h d a b t) := by
  intro _ hw
  replace hw : (h.ok true .flags && decide (d.toNat < 384)) = true := hw
  try simp only [Bool.and_eq_true] at hw
  have hb := hdBad_ok hw.1
  try simp at hw
  have e : decodeIntegerVector ⟨0x09F#10, h, d, a, b, (0#6 ++ t.code)⟩ = .word (hdBad true .flags h ++ off 27 (384 ≤ d.toNat) ++ off 3 ((hi 6 3 (0#6 ++ t.code)) != 0#6)) (.shr h d a b (IType.ofCode (lo 3 (0#6 ++ t.code)))) := rfl
  refine decode_of ((decodeWord_mk h 0x09F#10 d a b (0#6 ++ t.code)).trans ((class1v (by decide) (by decide)).trans (e.trans ?_))) rfl rfl
  simp [off, hb, hw]

theorem shrScalar (h : Hd) (d : SReg) (a : SReg) (b : SReg) (t : IType) : Statement (.shrScalar h d a b t) := by
  intro _ hw
  replace hw : (h.ok false .sf) = true := hw
  try simp only [Bool.and_eq_true] at hw
  have hb := hdBad_ok hw
  try simp at hw
  have e : decodeIntegerScalar ⟨0x0DF#10, h, (0#1 ++ d), (0#1 ++ a), (0#1 ++ b), (0#6 ++ t.code)⟩ = .word (hdBad false .sf h ++ off 27 (256 ≤ (0#1 ++ d).toNat) ++ off 18 (256 ≤ (0#1 ++ a).toNat) ++ off 9 (256 ≤ (0#1 ++ b).toNat) ++ off 3 ((hi 6 3 (0#6 ++ t.code)) != 0#6)) (.shrScalar h (lo 8 (0#1 ++ d)) (lo 8 (0#1 ++ a)) (lo 8 (0#1 ++ b)) (IType.ofCode (lo 3 (0#6 ++ t.code)))) := rfl
  refine decode_of ((decodeWord_mk h 0x0DF#10 (0#1 ++ d) (0#1 ++ a) (0#1 ++ b) (0#6 ++ t.code)).trans ((class1s (by decide) (by decide)).trans (e.trans ?_))) rfl rfl
  simp [off, hb, hw]

theorem shrImm (h : Hd) (d : VCode) (a : VCode) (t : IType) (imm : BitVec 15) : Statement (.shrImm h d a t imm) := by
  intro _ hw
  replace hw : (h.ok true .flags && decide (d.toNat < 384)) = true := hw
  try simp only [Bool.and_eq_true] at hw
  have hb := hdBad_ok hw.1
  try simp at hw
  have e : decodeIntegerVector ⟨0x0A0#10, h, d, a, (hi 9 9 (t.code ++ imm)), (lo 9 (t.code ++ imm))⟩ = .word (hdBad true .flags h ++ off 27 (384 ≤ d.toNat)) (.shrImm h d a (IType.ofCode (hi 3 15 ((hi 9 9 (t.code ++ imm)) ++ (lo 9 (t.code ++ imm))))) (lo 15 ((hi 9 9 (t.code ++ imm)) ++ (lo 9 (t.code ++ imm))))) := rfl
  refine decode_of ((decodeWord_mk h 0x0A0#10 d a (hi 9 9 (t.code ++ imm)) (lo 9 (t.code ++ imm))).trans ((class1v (by decide) (by decide)).trans (e.trans ?_))) rfl rfl
  simp [off, hb, hw]

theorem shrImmScalar (h : Hd) (d : SReg) (a : SReg) (t : IType) (imm : BitVec 15) : Statement (.shrImmScalar h d a t imm) := by
  intro _ hw
  replace hw : (h.ok false .sf) = true := hw
  try simp only [Bool.and_eq_true] at hw
  have hb := hdBad_ok hw
  try simp at hw
  have e : decodeIntegerScalar ⟨0x0E0#10, h, (0#1 ++ d), (0#1 ++ a), (hi 9 9 (t.code ++ imm)), (lo 9 (t.code ++ imm))⟩ = .word (hdBad false .sf h ++ off 27 (256 ≤ (0#1 ++ d).toNat) ++ off 18 (256 ≤ (0#1 ++ a).toNat)) (.shrImmScalar h (lo 8 (0#1 ++ d)) (lo 8 (0#1 ++ a)) (IType.ofCode (hi 3 15 ((hi 9 9 (t.code ++ imm)) ++ (lo 9 (t.code ++ imm))))) (lo 15 ((hi 9 9 (t.code ++ imm)) ++ (lo 9 (t.code ++ imm))))) := rfl
  refine decode_of ((decodeWord_mk h 0x0E0#10 (0#1 ++ d) (0#1 ++ a) (hi 9 9 (t.code ++ imm)) (lo 9 (t.code ++ imm))).trans ((class1s (by decide) (by decide)).trans (e.trans ?_))) rfl rfl
  simp [off, hb, hw]

theorem sar (h : Hd) (d : VCode) (a : VCode) (b : VCode) (t : IType) : Statement (.sar h d a b t) := by
  intro _ hw
  replace hw : (h.ok true .flags && decide (d.toNat < 384)) = true := hw
  try simp only [Bool.and_eq_true] at hw
  have hb := hdBad_ok hw.1
  try simp at hw
  have e : decodeIntegerVector ⟨0x0A1#10, h, d, a, b, (0#6 ++ t.code)⟩ = .word (hdBad true .flags h ++ off 27 (384 ≤ d.toNat) ++ off 3 ((hi 6 3 (0#6 ++ t.code)) != 0#6)) (.sar h d a b (IType.ofCode (lo 3 (0#6 ++ t.code)))) := rfl
  refine decode_of ((decodeWord_mk h 0x0A1#10 d a b (0#6 ++ t.code)).trans ((class1v (by decide) (by decide)).trans (e.trans ?_))) rfl rfl
  simp [off, hb, hw]

theorem sarScalar (h : Hd) (d : SReg) (a : SReg) (b : SReg) (t : IType) : Statement (.sarScalar h d a b t) := by
  intro _ hw
  replace hw : (h.ok false .sf) = true := hw
  try simp only [Bool.and_eq_true] at hw
  have hb := hdBad_ok hw
  try simp at hw
  have e : decodeIntegerScalar ⟨0x0E1#10, h, (0#1 ++ d), (0#1 ++ a), (0#1 ++ b), (0#6 ++ t.code)⟩ = .word (hdBad false .sf h ++ off 27 (256 ≤ (0#1 ++ d).toNat) ++ off 18 (256 ≤ (0#1 ++ a).toNat) ++ off 9 (256 ≤ (0#1 ++ b).toNat) ++ off 3 ((hi 6 3 (0#6 ++ t.code)) != 0#6)) (.sarScalar h (lo 8 (0#1 ++ d)) (lo 8 (0#1 ++ a)) (lo 8 (0#1 ++ b)) (IType.ofCode (lo 3 (0#6 ++ t.code)))) := rfl
  refine decode_of ((decodeWord_mk h 0x0E1#10 (0#1 ++ d) (0#1 ++ a) (0#1 ++ b) (0#6 ++ t.code)).trans ((class1s (by decide) (by decide)).trans (e.trans ?_))) rfl rfl
  simp [off, hb, hw]

theorem sarImm (h : Hd) (d : VCode) (a : VCode) (t : IType) (imm : BitVec 15) : Statement (.sarImm h d a t imm) := by
  intro _ hw
  replace hw : (h.ok true .flags && decide (d.toNat < 384)) = true := hw
  try simp only [Bool.and_eq_true] at hw
  have hb := hdBad_ok hw.1
  try simp at hw
  have e : decodeIntegerVector ⟨0x0A2#10, h, d, a, (hi 9 9 (t.code ++ imm)), (lo 9 (t.code ++ imm))⟩ = .word (hdBad true .flags h ++ off 27 (384 ≤ d.toNat)) (.sarImm h d a (IType.ofCode (hi 3 15 ((hi 9 9 (t.code ++ imm)) ++ (lo 9 (t.code ++ imm))))) (lo 15 ((hi 9 9 (t.code ++ imm)) ++ (lo 9 (t.code ++ imm))))) := rfl
  refine decode_of ((decodeWord_mk h 0x0A2#10 d a (hi 9 9 (t.code ++ imm)) (lo 9 (t.code ++ imm))).trans ((class1v (by decide) (by decide)).trans (e.trans ?_))) rfl rfl
  simp [off, hb, hw]

theorem sarImmScalar (h : Hd) (d : SReg) (a : SReg) (t : IType) (imm : BitVec 15) : Statement (.sarImmScalar h d a t imm) := by
  intro _ hw
  replace hw : (h.ok false .sf) = true := hw
  try simp only [Bool.and_eq_true] at hw
  have hb := hdBad_ok hw
  try simp at hw
  have e : decodeIntegerScalar ⟨0x0E2#10, h, (0#1 ++ d), (0#1 ++ a), (hi 9 9 (t.code ++ imm)), (lo 9 (t.code ++ imm))⟩ = .word (hdBad false .sf h ++ off 27 (256 ≤ (0#1 ++ d).toNat) ++ off 18 (256 ≤ (0#1 ++ a).toNat)) (.sarImmScalar h (lo 8 (0#1 ++ d)) (lo 8 (0#1 ++ a)) (IType.ofCode (hi 3 15 ((hi 9 9 (t.code ++ imm)) ++ (lo 9 (t.code ++ imm))))) (lo 15 ((hi 9 9 (t.code ++ imm)) ++ (lo 9 (t.code ++ imm))))) := rfl
  refine decode_of ((decodeWord_mk h 0x0E2#10 (0#1 ++ d) (0#1 ++ a) (hi 9 9 (t.code ++ imm)) (lo 9 (t.code ++ imm))).trans ((class1s (by decide) (by decide)).trans (e.trans ?_))) rfl rfl
  simp [off, hb, hw]

theorem fshl (h : Hd) (d : VCode) (a : VCode) (b : VCode) (c : VCode) : Statement (.fshl h d a b c) := by
  intro _ hw
  replace hw : (h.ok true .flags && decide (d.toNat < 384)) = true := hw
  try simp only [Bool.and_eq_true] at hw
  have hb := hdBad_ok hw.1
  try simp at hw
  have e : decodeIntegerVector ⟨0x0A3#10, h, d, a, b, c⟩ = .word (hdBad true .flags h ++ off 27 (384 ≤ d.toNat)) (.fshl h d a b c) := rfl
  refine decode_of ((decodeWord_mk h 0x0A3#10 d a b c).trans ((class1v (by decide) (by decide)).trans (e.trans ?_))) rfl rfl
  simp [off, hb, hw]

theorem fshlScalar (h : Hd) (d : SReg) (a : SReg) (b : SReg) (c : SReg) : Statement (.fshlScalar h d a b c) := by
  intro _ hw
  replace hw : (h.ok false .sf) = true := hw
  try simp only [Bool.and_eq_true] at hw
  have hb := hdBad_ok hw
  try simp at hw
  have e : decodeIntegerScalar ⟨0x0E3#10, h, (0#1 ++ d), (0#1 ++ a), (0#1 ++ b), (0#1 ++ c)⟩ = .word (hdBad false .sf h ++ off 27 (256 ≤ (0#1 ++ d).toNat) ++ off 18 (256 ≤ (0#1 ++ a).toNat) ++ off 9 (256 ≤ (0#1 ++ b).toNat) ++ off 0 (256 ≤ (0#1 ++ c).toNat)) (.fshlScalar h (lo 8 (0#1 ++ d)) (lo 8 (0#1 ++ a)) (lo 8 (0#1 ++ b)) (lo 8 (0#1 ++ c))) := rfl
  refine decode_of ((decodeWord_mk h 0x0E3#10 (0#1 ++ d) (0#1 ++ a) (0#1 ++ b) (0#1 ++ c)).trans ((class1s (by decide) (by decide)).trans (e.trans ?_))) rfl rfl
  simp [off, hb, hw]

theorem fshr (h : Hd) (d : VCode) (a : VCode) (b : VCode) (c : VCode) : Statement (.fshr h d a b c) := by
  intro _ hw
  replace hw : (h.ok true .flags && decide (d.toNat < 384)) = true := hw
  try simp only [Bool.and_eq_true] at hw
  have hb := hdBad_ok hw.1
  try simp at hw
  have e : decodeIntegerVector ⟨0x0A4#10, h, d, a, b, c⟩ = .word (hdBad true .flags h ++ off 27 (384 ≤ d.toNat)) (.fshr h d a b c) := rfl
  refine decode_of ((decodeWord_mk h 0x0A4#10 d a b c).trans ((class1v (by decide) (by decide)).trans (e.trans ?_))) rfl rfl
  simp [off, hb, hw]

theorem fshrScalar (h : Hd) (d : SReg) (a : SReg) (b : SReg) (c : SReg) : Statement (.fshrScalar h d a b c) := by
  intro _ hw
  replace hw : (h.ok false .sf) = true := hw
  try simp only [Bool.and_eq_true] at hw
  have hb := hdBad_ok hw
  try simp at hw
  have e : decodeIntegerScalar ⟨0x0E4#10, h, (0#1 ++ d), (0#1 ++ a), (0#1 ++ b), (0#1 ++ c)⟩ = .word (hdBad false .sf h ++ off 27 (256 ≤ (0#1 ++ d).toNat) ++ off 18 (256 ≤ (0#1 ++ a).toNat) ++ off 9 (256 ≤ (0#1 ++ b).toNat) ++ off 0 (256 ≤ (0#1 ++ c).toNat)) (.fshrScalar h (lo 8 (0#1 ++ d)) (lo 8 (0#1 ++ a)) (lo 8 (0#1 ++ b)) (lo 8 (0#1 ++ c))) := rfl
  refine decode_of ((decodeWord_mk h 0x0E4#10 (0#1 ++ d) (0#1 ++ a) (0#1 ++ b) (0#1 ++ c)).trans ((class1s (by decide) (by decide)).trans (e.trans ?_))) rfl rfl
  simp [off, hb, hw]

theorem rot (h : Hd) (d : VCode) (a : VCode) (b : VCode) (t : IType) : Statement (.rot h d a b t) := by
  intro _ hw
  replace hw : (h.ok true .flags && decide (d.toNat < 384)) = true := hw
  try simp only [Bool.and_eq_true] at hw
  have hb := hdBad_ok hw.1
  try simp at hw
  have e : decodeIntegerVector ⟨0x0A5#10, h, d, a, b, (0#6 ++ t.code)⟩ = .word (hdBad true .flags h ++ off 27 (384 ≤ d.toNat) ++ off 3 ((hi 6 3 (0#6 ++ t.code)) != 0#6)) (.rot h d a b (IType.ofCode (lo 3 (0#6 ++ t.code)))) := rfl
  refine decode_of ((decodeWord_mk h 0x0A5#10 d a b (0#6 ++ t.code)).trans ((class1v (by decide) (by decide)).trans (e.trans ?_))) rfl rfl
  simp [off, hb, hw]

theorem rotScalar (h : Hd) (d : SReg) (a : SReg) (b : SReg) (t : IType) : Statement (.rotScalar h d a b t) := by
  intro _ hw
  replace hw : (h.ok false .sf) = true := hw
  try simp only [Bool.and_eq_true] at hw
  have hb := hdBad_ok hw
  try simp at hw
  have e : decodeIntegerScalar ⟨0x0E5#10, h, (0#1 ++ d), (0#1 ++ a), (0#1 ++ b), (0#6 ++ t.code)⟩ = .word (hdBad false .sf h ++ off 27 (256 ≤ (0#1 ++ d).toNat) ++ off 18 (256 ≤ (0#1 ++ a).toNat) ++ off 9 (256 ≤ (0#1 ++ b).toNat) ++ off 3 ((hi 6 3 (0#6 ++ t.code)) != 0#6)) (.rotScalar h (lo 8 (0#1 ++ d)) (lo 8 (0#1 ++ a)) (lo 8 (0#1 ++ b)) (IType.ofCode (lo 3 (0#6 ++ t.code)))) := rfl
  refine decode_of ((decodeWord_mk h 0x0E5#10 (0#1 ++ d) (0#1 ++ a) (0#1 ++ b) (0#6 ++ t.code)).trans ((class1s (by decide) (by decide)).trans (e.trans ?_))) rfl rfl
  simp [off, hb, hw]

theorem rotImm (h : Hd) (d : VCode) (a : VCode) (t : IType) (imm : BitVec 15) : Statement (.rotImm h d a t imm) := by
  intro _ hw
  replace hw : (h.ok true .flags && decide (d.toNat < 384)) = true := hw
  try simp only [Bool.and_eq_true] at hw
  have hb := hdBad_ok hw.1
  try simp at hw
  have e : decodeIntegerVector ⟨0x0A6#10, h, d, a, (hi 9 9 (t.code ++ imm)), (lo 9 (t.code ++ imm))⟩ = .word (hdBad true .flags h ++ off 27 (384 ≤ d.toNat)) (.rotImm h d a (IType.ofCode (hi 3 15 ((hi 9 9 (t.code ++ imm)) ++ (lo 9 (t.code ++ imm))))) (lo 15 ((hi 9 9 (t.code ++ imm)) ++ (lo 9 (t.code ++ imm))))) := rfl
  refine decode_of ((decodeWord_mk h 0x0A6#10 d a (hi 9 9 (t.code ++ imm)) (lo 9 (t.code ++ imm))).trans ((class1v (by decide) (by decide)).trans (e.trans ?_))) rfl rfl
  simp [off, hb, hw]

theorem rotImmScalar (h : Hd) (d : SReg) (a : SReg) (t : IType) (imm : BitVec 15) : Statement (.rotImmScalar h d a t imm) := by
  intro _ hw
  replace hw : (h.ok false .sf) = true := hw
  try simp only [Bool.and_eq_true] at hw
  have hb := hdBad_ok hw
  try simp at hw
  have e : decodeIntegerScalar ⟨0x0E6#10, h, (0#1 ++ d), (0#1 ++ a), (hi 9 9 (t.code ++ imm)), (lo 9 (t.code ++ imm))⟩ = .word (hdBad false .sf h ++ off 27 (256 ≤ (0#1 ++ d).toNat) ++ off 18 (256 ≤ (0#1 ++ a).toNat)) (.rotImmScalar h (lo 8 (0#1 ++ d)) (lo 8 (0#1 ++ a)) (IType.ofCode (hi 3 15 ((hi 9 9 (t.code ++ imm)) ++ (lo 9 (t.code ++ imm))))) (lo 15 ((hi 9 9 (t.code ++ imm)) ++ (lo 9 (t.code ++ imm))))) := rfl
  refine decode_of ((decodeWord_mk h 0x0E6#10 (0#1 ++ d) (0#1 ++ a) (hi 9 9 (t.code ++ imm)) (lo 9 (t.code ++ imm))).trans ((class1s (by decide) (by decide)).trans (e.trans ?_))) rfl rfl
  simp [off, hb, hw]

theorem bfx (h : Hd) (d : VCode) (a : VCode) (b : VCode) (t : IType) : Statement (.bfx h d a b t) := by
  intro _ hw
  replace hw : (h.ok true .flags && decide (d.toNat < 384) && !(t.bits != 64)) = true := hw
  try simp only [Bool.and_eq_true] at hw
  have hb := hdBad_ok hw.1.1
  try simp at hw
  have e : decodeIntegerVector ⟨0x0A7#10, h, d, a, b, (0#6 ++ t.code)⟩ = .word (hdBad true .flags h ++ off 27 (384 ≤ d.toNat) ++ off 3 ((hi 6 3 (0#6 ++ t.code)) != 0#6) ++ off 0 ((IType.ofCode (lo 3 (0#6 ++ t.code))).bits != 64)) (.bfx h d a b (IType.ofCode (lo 3 (0#6 ++ t.code)))) := rfl
  refine decode_of ((decodeWord_mk h 0x0A7#10 d a b (0#6 ++ t.code)).trans ((class1v (by decide) (by decide)).trans (e.trans ?_))) rfl rfl
  simp [off, hb, hw]

theorem bfxScalar (h : Hd) (d : SReg) (a : SReg) (b : SReg) (t : IType) : Statement (.bfxScalar h d a b t) := by
  intro _ hw
  replace hw : (h.ok false .sf && !(t.bits != 64)) = true := hw
  try simp only [Bool.and_eq_true] at hw
  have hb := hdBad_ok hw.1
  try simp at hw
  have e : decodeIntegerScalar ⟨0x0E7#10, h, (0#1 ++ d), (0#1 ++ a), (0#1 ++ b), (0#6 ++ t.code)⟩ = .word (hdBad false .sf h ++ off 27 (256 ≤ (0#1 ++ d).toNat) ++ off 18 (256 ≤ (0#1 ++ a).toNat) ++ off 9 (256 ≤ (0#1 ++ b).toNat) ++ off 3 ((hi 6 3 (0#6 ++ t.code)) != 0#6) ++ off 0 ((IType.ofCode (lo 3 (0#6 ++ t.code))).bits != 64)) (.bfxScalar h (lo 8 (0#1 ++ d)) (lo 8 (0#1 ++ a)) (lo 8 (0#1 ++ b)) (IType.ofCode (lo 3 (0#6 ++ t.code)))) := rfl
  refine decode_of ((decodeWord_mk h 0x0E7#10 (0#1 ++ d) (0#1 ++ a) (0#1 ++ b) (0#6 ++ t.code)).trans ((class1s (by decide) (by decide)).trans (e.trans ?_))) rfl rfl
  simp [off, hb, hw]

theorem bfi (h : Hd) (d : VCode) (a : VCode) (b : VCode) (t : IType) : Statement (.bfi h d a b t) := by
  intro _ hw
  replace hw : (h.ok true .flags && decide (d.toNat < 384) && !(t.bits != 64)) = true := hw
  try simp only [Bool.and_eq_true] at hw
  have hb := hdBad_ok hw.1.1
  try simp at hw
  have e : decodeIntegerVector ⟨0x0A8#10, h, d, a, b, (0#6 ++ t.code)⟩ = .word (hdBad true .flags h ++ off 27 (384 ≤ d.toNat) ++ off 3 ((hi 6 3 (0#6 ++ t.code)) != 0#6) ++ off 0 ((IType.ofCode (lo 3 (0#6 ++ t.code))).bits != 64)) (.bfi h d a b (IType.ofCode (lo 3 (0#6 ++ t.code)))) := rfl
  refine decode_of ((decodeWord_mk h 0x0A8#10 d a b (0#6 ++ t.code)).trans ((class1v (by decide) (by decide)).trans (e.trans ?_))) rfl rfl
  simp [off, hb, hw]

theorem bfiScalar (h : Hd) (d : SReg) (a : SReg) (b : SReg) (t : IType) : Statement (.bfiScalar h d a b t) := by
  intro _ hw
  replace hw : (h.ok false .sf && !(t.bits != 64)) = true := hw
  try simp only [Bool.and_eq_true] at hw
  have hb := hdBad_ok hw.1
  try simp at hw
  have e : decodeIntegerScalar ⟨0x0E8#10, h, (0#1 ++ d), (0#1 ++ a), (0#1 ++ b), (0#6 ++ t.code)⟩ = .word (hdBad false .sf h ++ off 27 (256 ≤ (0#1 ++ d).toNat) ++ off 18 (256 ≤ (0#1 ++ a).toNat) ++ off 9 (256 ≤ (0#1 ++ b).toNat) ++ off 3 ((hi 6 3 (0#6 ++ t.code)) != 0#6) ++ off 0 ((IType.ofCode (lo 3 (0#6 ++ t.code))).bits != 64)) (.bfiScalar h (lo 8 (0#1 ++ d)) (lo 8 (0#1 ++ a)) (lo 8 (0#1 ++ b)) (IType.ofCode (lo 3 (0#6 ++ t.code)))) := rfl
  refine decode_of ((decodeWord_mk h 0x0E8#10 (0#1 ++ d) (0#1 ++ a) (0#1 ++ b) (0#6 ++ t.code)).trans ((class1s (by decide) (by decide)).trans (e.trans ?_))) rfl rfl
  simp [off, hb, hw]

theorem popc (h : Hd) (d : VCode) (a : VCode) (t : IType) : Statement (.popc h d a t) := by
  intro _ hw
  replace hw : (h.ok true .flags && decide (d.toNat < 384)) = true := hw
  try simp only [Bool.and_eq_true] at hw
  have hb := hdBad_ok hw.1
  try simp at hw
  have e : decodeIntegerVector ⟨0x0A9#10, h, d, a, 0#9, (0#6 ++ t.code)⟩ = .word (hdBad true .flags h ++ off 27 (384 ≤ d.toNat) ++ off 9 (0#9 != 0#9) ++ off 3 ((hi 6 3 (0#6 ++ t.code)) != 0#6)) (.popc h d a (IType.ofCode (lo 3 (0#6 ++ t.code)))) := rfl
  refine decode_of ((decodeWord_mk h 0x0A9#10 d a 0#9 (0#6 ++ t.code)).trans ((class1v (by decide) (by decide)).trans (e.trans ?_))) rfl rfl
  simp [off, hb, hw]

theorem popcScalar (h : Hd) (d : SReg) (a : SReg) (t : IType) : Statement (.popcScalar h d a t) := by
  intro _ hw
  replace hw : (h.ok false .sf) = true := hw
  try simp only [Bool.and_eq_true] at hw
  have hb := hdBad_ok hw
  try simp at hw
  have e : decodeIntegerScalar ⟨0x0E9#10, h, (0#1 ++ d), (0#1 ++ a), 0#9, (0#6 ++ t.code)⟩ = .word (hdBad false .sf h ++ off 27 (256 ≤ (0#1 ++ d).toNat) ++ off 18 (256 ≤ (0#1 ++ a).toNat) ++ off 9 (0#9 != 0#9) ++ off 3 ((hi 6 3 (0#6 ++ t.code)) != 0#6)) (.popcScalar h (lo 8 (0#1 ++ d)) (lo 8 (0#1 ++ a)) (IType.ofCode (lo 3 (0#6 ++ t.code)))) := rfl
  refine decode_of ((decodeWord_mk h 0x0E9#10 (0#1 ++ d) (0#1 ++ a) 0#9 (0#6 ++ t.code)).trans ((class1s (by decide) (by decide)).trans (e.trans ?_))) rfl rfl
  simp [off, hb, hw]

theorem clz (h : Hd) (d : VCode) (a : VCode) (t : IType) : Statement (.clz h d a t) := by
  intro _ hw
  replace hw : (h.ok true .flags && decide (d.toNat < 384)) = true := hw
  try simp only [Bool.and_eq_true] at hw
  have hb := hdBad_ok hw.1
  try simp at hw
  have e : decodeIntegerVector ⟨0x0AA#10, h, d, a, 0#9, (0#6 ++ t.code)⟩ = .word (hdBad true .flags h ++ off 27 (384 ≤ d.toNat) ++ off 9 (0#9 != 0#9) ++ off 3 ((hi 6 3 (0#6 ++ t.code)) != 0#6)) (.clz h d a (IType.ofCode (lo 3 (0#6 ++ t.code)))) := rfl
  refine decode_of ((decodeWord_mk h 0x0AA#10 d a 0#9 (0#6 ++ t.code)).trans ((class1v (by decide) (by decide)).trans (e.trans ?_))) rfl rfl
  simp [off, hb, hw]

theorem clzScalar (h : Hd) (d : SReg) (a : SReg) (t : IType) : Statement (.clzScalar h d a t) := by
  intro _ hw
  replace hw : (h.ok false .sf) = true := hw
  try simp only [Bool.and_eq_true] at hw
  have hb := hdBad_ok hw
  try simp at hw
  have e : decodeIntegerScalar ⟨0x0EA#10, h, (0#1 ++ d), (0#1 ++ a), 0#9, (0#6 ++ t.code)⟩ = .word (hdBad false .sf h ++ off 27 (256 ≤ (0#1 ++ d).toNat) ++ off 18 (256 ≤ (0#1 ++ a).toNat) ++ off 9 (0#9 != 0#9) ++ off 3 ((hi 6 3 (0#6 ++ t.code)) != 0#6)) (.clzScalar h (lo 8 (0#1 ++ d)) (lo 8 (0#1 ++ a)) (IType.ofCode (lo 3 (0#6 ++ t.code)))) := rfl
  refine decode_of ((decodeWord_mk h 0x0EA#10 (0#1 ++ d) (0#1 ++ a) 0#9 (0#6 ++ t.code)).trans ((class1s (by decide) (by decide)).trans (e.trans ?_))) rfl rfl
  simp [off, hb, hw]

theorem ctz (h : Hd) (d : VCode) (a : VCode) (t : IType) : Statement (.ctz h d a t) := by
  intro _ hw
  replace hw : (h.ok true .flags && decide (d.toNat < 384)) = true := hw
  try simp only [Bool.and_eq_true] at hw
  have hb := hdBad_ok hw.1
  try simp at hw
  have e : decodeIntegerVector ⟨0x0AB#10, h, d, a, 0#9, (0#6 ++ t.code)⟩ = .word (hdBad true .flags h ++ off 27 (384 ≤ d.toNat) ++ off 9 (0#9 != 0#9) ++ off 3 ((hi 6 3 (0#6 ++ t.code)) != 0#6)) (.ctz h d a (IType.ofCode (lo 3 (0#6 ++ t.code)))) := rfl
  refine decode_of ((decodeWord_mk h 0x0AB#10 d a 0#9 (0#6 ++ t.code)).trans ((class1v (by decide) (by decide)).trans (e.trans ?_))) rfl rfl
  simp [off, hb, hw]

theorem ctzScalar (h : Hd) (d : SReg) (a : SReg) (t : IType) : Statement (.ctzScalar h d a t) := by
  intro _ hw
  replace hw : (h.ok false .sf) = true := hw
  try simp only [Bool.and_eq_true] at hw
  have hb := hdBad_ok hw
  try simp at hw
  have e : decodeIntegerScalar ⟨0x0EB#10, h, (0#1 ++ d), (0#1 ++ a), 0#9, (0#6 ++ t.code)⟩ = .word (hdBad false .sf h ++ off 27 (256 ≤ (0#1 ++ d).toNat) ++ off 18 (256 ≤ (0#1 ++ a).toNat) ++ off 9 (0#9 != 0#9) ++ off 3 ((hi 6 3 (0#6 ++ t.code)) != 0#6)) (.ctzScalar h (lo 8 (0#1 ++ d)) (lo 8 (0#1 ++ a)) (IType.ofCode (lo 3 (0#6 ++ t.code)))) := rfl
  refine decode_of ((decodeWord_mk h 0x0EB#10 (0#1 ++ d) (0#1 ++ a) 0#9 (0#6 ++ t.code)).trans ((class1s (by decide) (by decide)).trans (e.trans ?_))) rfl rfl
  simp [off, hb, hw]

theorem brev (h : Hd) (d : VCode) (a : VCode) (t : IType) : Statement (.brev h d a t) := by
  intro _ hw
  replace hw : (h.ok true .flags && decide (d.toNat < 384)) = true := hw
  try simp only [Bool.and_eq_true] at hw
  have hb := hdBad_ok hw.1
  try simp at hw
  have e : decodeIntegerVector ⟨0x0AC#10, h, d, a, 0#9, (0#6 ++ t.code)⟩ = .word (hdBad true .flags h ++ off 27 (384 ≤ d.toNat) ++ off 9 (0#9 != 0#9) ++ off 3 ((hi 6 3 (0#6 ++ t.code)) != 0#6)) (.brev h d a (IType.ofCode (lo 3 (0#6 ++ t.code)))) := rfl
  refine decode_of ((decodeWord_mk h 0x0AC#10 d a 0#9 (0#6 ++ t.code)).trans ((class1v (by decide) (by decide)).trans (e.trans ?_))) rfl rfl
  simp [off, hb, hw]

theorem brevScalar (h : Hd) (d : SReg) (a : SReg) (t : IType) : Statement (.brevScalar h d a t) := by
  intro _ hw
  replace hw : (h.ok false .sf) = true := hw
  try simp only [Bool.and_eq_true] at hw
  have hb := hdBad_ok hw
  try simp at hw
  have e : decodeIntegerScalar ⟨0x0EC#10, h, (0#1 ++ d), (0#1 ++ a), 0#9, (0#6 ++ t.code)⟩ = .word (hdBad false .sf h ++ off 27 (256 ≤ (0#1 ++ d).toNat) ++ off 18 (256 ≤ (0#1 ++ a).toNat) ++ off 9 (0#9 != 0#9) ++ off 3 ((hi 6 3 (0#6 ++ t.code)) != 0#6)) (.brevScalar h (lo 8 (0#1 ++ d)) (lo 8 (0#1 ++ a)) (IType.ofCode (lo 3 (0#6 ++ t.code)))) := rfl
  refine decode_of ((decodeWord_mk h 0x0EC#10 (0#1 ++ d) (0#1 ++ a) 0#9 (0#6 ++ t.code)).trans ((class1s (by decide) (by decide)).trans (e.trans ?_))) rfl rfl
  simp [off, hb, hw]

theorem bperm (h : Hd) (d : VCode) (a : VCode) (b : VCode) (c : VCode) : Statement (.bperm h d a b c) := by
  intro _ hw
  replace hw : (h.ok true .flags && decide (d.toNat < 384)) = true := hw
  try simp only [Bool.and_eq_true] at hw
  have hb := hdBad_ok hw.1
  try simp at hw
  have e : decodeIntegerVector ⟨0x0AD#10, h, d, a, b, c⟩ = .word (hdBad true .flags h ++ off 27 (384 ≤ d.toNat)) (.bperm h d a b c) := rfl
  refine decode_of ((decodeWord_mk h 0x0AD#10 d a b c).trans ((class1v (by decide) (by decide)).trans (e.trans ?_))) rfl rfl
  simp [off, hb, hw]

theorem bpermScalar (h : Hd) (d : SReg) (a : SReg) (b : SReg) (c : SReg) : Statement (.bpermScalar h d a b c) := by
  intro _ hw
  replace hw : (h.ok false .sf) = true := hw
  try simp only [Bool.and_eq_true] at hw
  have hb := hdBad_ok hw
  try simp at hw
  have e : decodeIntegerScalar ⟨0x0ED#10, h, (0#1 ++ d), (0#1 ++ a), (0#1 ++ b), (0#1 ++ c)⟩ = .word (hdBad false .sf h ++ off 27 (256 ≤ (0#1 ++ d).toNat) ++ off 18 (256 ≤ (0#1 ++ a).toNat) ++ off 9 (256 ≤ (0#1 ++ b).toNat) ++ off 0 (256 ≤ (0#1 ++ c).toNat)) (.bpermScalar h (lo 8 (0#1 ++ d)) (lo 8 (0#1 ++ a)) (lo 8 (0#1 ++ b)) (lo 8 (0#1 ++ c))) := rfl
  refine decode_of ((decodeWord_mk h 0x0ED#10 (0#1 ++ d) (0#1 ++ a) (0#1 ++ b) (0#1 ++ c)).trans ((class1s (by decide) (by decide)).trans (e.trans ?_))) rfl rfl
  simp [off, hb, hw]

theorem cmp (h : Hd) (a : VCode) (b : VCode) (t : IType) : Statement (.cmp h a b t) := by
  intro _ hw
  replace hw : (h.ok true .needFlag) = true := hw
  try simp only [Bool.and_eq_true] at hw
  have hb := hdBad_ok hw
  try simp at hw
  have e : decodeIntegerVector ⟨0x0AE#10, h, 0#9, a, b, (0#6 ++ t.code)⟩ = .word (hdBad true .needFlag h ++ off 27 (0#9 != 0#9) ++ off 3 ((hi 6 3 (0#6 ++ t.code)) != 0#6)) (.cmp h a b (IType.ofCode (lo 3 (0#6 ++ t.code)))) := rfl
  refine decode_of ((decodeWord_mk h 0x0AE#10 0#9 a b (0#6 ++ t.code)).trans ((class1v (by decide) (by decide)).trans (e.trans ?_))) rfl rfl
  simp [off, hb, hw]

theorem cmpScalar (h : Hd) (a : SReg) (b : SReg) (t : IType) : Statement (.cmpScalar h a b t) := by
  intro _ hw
  replace hw : (h.ok false .needSf) = true := hw
  try simp only [Bool.and_eq_true] at hw
  have hb := hdBad_ok hw
  try simp at hw
  have e : decodeIntegerScalar ⟨0x0EE#10, h, 0#9, (0#1 ++ a), (0#1 ++ b), (0#6 ++ t.code)⟩ = .word (hdBad false .needSf h ++ off 27 (0#9 != 0#9) ++ off 18 (256 ≤ (0#1 ++ a).toNat) ++ off 9 (256 ≤ (0#1 ++ b).toNat) ++ off 3 ((hi 6 3 (0#6 ++ t.code)) != 0#6)) (.cmpScalar h (lo 8 (0#1 ++ a)) (lo 8 (0#1 ++ b)) (IType.ofCode (lo 3 (0#6 ++ t.code)))) := rfl
  refine decode_of ((decodeWord_mk h 0x0EE#10 0#9 (0#1 ++ a) (0#1 ++ b) (0#6 ++ t.code)).trans ((class1s (by decide) (by decide)).trans (e.trans ?_))) rfl rfl
  simp [off, hb, hw]

theorem cmpImm (h : Hd) (a : VCode) (t : IType) (imm : BitVec 15) : Statement (.cmpImm h a t imm) := by
  intro _ hw
  replace hw : (h.ok true .needFlag) = true := hw
  try simp only [Bool.and_eq_true] at hw
  have hb := hdBad_ok hw
  try simp at hw
  have e : decodeIntegerVector ⟨0x0AF#10, h, 0#9, a, (hi 9 9 (t.code ++ imm)), (lo 9 (t.code ++ imm))⟩ = .word (hdBad true .needFlag h ++ off 27 (0#9 != 0#9)) (.cmpImm h a (IType.ofCode (hi 3 15 ((hi 9 9 (t.code ++ imm)) ++ (lo 9 (t.code ++ imm))))) (lo 15 ((hi 9 9 (t.code ++ imm)) ++ (lo 9 (t.code ++ imm))))) := rfl
  refine decode_of ((decodeWord_mk h 0x0AF#10 0#9 a (hi 9 9 (t.code ++ imm)) (lo 9 (t.code ++ imm))).trans ((class1v (by decide) (by decide)).trans (e.trans ?_))) rfl rfl
  simp [off, hb, hw]

theorem cmpImmScalar (h : Hd) (a : SReg) (t : IType) (imm : BitVec 15) : Statement (.cmpImmScalar h a t imm) := by
  intro _ hw
  replace hw : (h.ok false .needSf) = true := hw
  try simp only [Bool.and_eq_true] at hw
  have hb := hdBad_ok hw
  try simp at hw
  have e : decodeIntegerScalar ⟨0x0EF#10, h, 0#9, (0#1 ++ a), (hi 9 9 (t.code ++ imm)), (lo 9 (t.code ++ imm))⟩ = .word (hdBad false .needSf h ++ off 27 (0#9 != 0#9) ++ off 18 (256 ≤ (0#1 ++ a).toNat)) (.cmpImmScalar h (lo 8 (0#1 ++ a)) (IType.ofCode (hi 3 15 ((hi 9 9 (t.code ++ imm)) ++ (lo 9 (t.code ++ imm))))) (lo 15 ((hi 9 9 (t.code ++ imm)) ++ (lo 9 (t.code ++ imm))))) := rfl
  refine decode_of ((decodeWord_mk h 0x0EF#10 0#9 (0#1 ++ a) (hi 9 9 (t.code ++ imm)) (lo 9 (t.code ++ imm))).trans ((class1s (by decide) (by decide)).trans (e.trans ?_))) rfl rfl
  simp [off, hb, hw]

theorem tst (h : Hd) (a : VCode) (b : VCode) (t : IType) : Statement (.tst h a b t) := by
  intro _ hw
  replace hw : (h.ok true .needFlag) = true := hw
  try simp only [Bool.and_eq_true] at hw
  have hb := hdBad_ok hw
  try simp at hw
  have e : decodeIntegerVector ⟨0x0B0#10, h, 0#9, a, b, (0#6 ++ t.code)⟩ = .word (hdBad true .needFlag h ++ off 27 (0#9 != 0#9) ++ off 3 ((hi 6 3 (0#6 ++ t.code)) != 0#6)) (.tst h a b (IType.ofCode (lo 3 (0#6 ++ t.code)))) := rfl
  refine decode_of ((decodeWord_mk h 0x0B0#10 0#9 a b (0#6 ++ t.code)).trans ((class1v (by decide) (by decide)).trans (e.trans ?_))) rfl rfl
  simp [off, hb, hw]

theorem tstScalar (h : Hd) (a : SReg) (b : SReg) (t : IType) : Statement (.tstScalar h a b t) := by
  intro _ hw
  replace hw : (h.ok false .needSf) = true := hw
  try simp only [Bool.and_eq_true] at hw
  have hb := hdBad_ok hw
  try simp at hw
  have e : decodeIntegerScalar ⟨0x0F0#10, h, 0#9, (0#1 ++ a), (0#1 ++ b), (0#6 ++ t.code)⟩ = .word (hdBad false .needSf h ++ off 27 (0#9 != 0#9) ++ off 18 (256 ≤ (0#1 ++ a).toNat) ++ off 9 (256 ≤ (0#1 ++ b).toNat) ++ off 3 ((hi 6 3 (0#6 ++ t.code)) != 0#6)) (.tstScalar h (lo 8 (0#1 ++ a)) (lo 8 (0#1 ++ b)) (IType.ofCode (lo 3 (0#6 ++ t.code)))) := rfl
  refine decode_of ((decodeWord_mk h 0x0F0#10 0#9 (0#1 ++ a) (0#1 ++ b) (0#6 ++ t.code)).trans ((class1s (by decide) (by decide)).trans (e.trans ?_))) rfl rfl
  simp [off, hb, hw]

theorem sel (h : Hd) (d : VCode) (a : VCode) (b : VCode) (n : BitVec 2) (c : Cond) : Statement (.sel h d a b n c) := by
  intro _ hw
  replace hw : (h.ok true .flags && decide (d.toNat < 384)) = true := hw
  try simp only [Bool.and_eq_true] at hw
  have hb := hdBad_ok hw.1
  try simp at hw
  have e : decodeIntegerVector ⟨0x0B1#10, h, d, a, b, (n ++ (c.code ++ 0#3))⟩ = .word (hdBad true .flags h ++ off 27 (384 ≤ d.toNat) ++ off 0 ((lo 3 (lo 7 (n ++ (c.code ++ 0#3)))) != 0#3)) (.sel h d a b (hi 2 7 (n ++ (c.code ++ 0#3))) (Cond.ofCode (hi 4 3 (lo 7 (n ++ (c.code ++ 0#3)))))) := rfl
  refine decode_of ((decodeWord_mk h 0x0B1#10 d a b (n ++ (c.code ++ 0#3))).trans ((class1v (by decide) (by decide)).trans (e.trans ?_))) rfl rfl
  simp [off, hb, hw]

theorem selScalar (h : Hd) (d : SReg) (a : SReg) (b : SReg) (c : Cond) : Statement (.selScalar h d a b c) := by
  intro _ hw
  replace hw : (h.ok false .sf) = true := hw
  try simp only [Bool.and_eq_true] at hw
  have hb := hdBad_ok hw
  try simp at hw
  have e : decodeIntegerScalar ⟨0x0F1#10, h, (0#1 ++ d), (0#1 ++ a), (0#1 ++ b), (0#2 ++ (c.code ++ 0#3))⟩ = .word (hdBad false .sf h ++ off 27 (256 ≤ (0#1 ++ d).toNat) ++ off 18 (256 ≤ (0#1 ++ a).toNat) ++ off 9 (256 ≤ (0#1 ++ b).toNat) ++ off 7 ((hi 2 7 (0#2 ++ (c.code ++ 0#3))) != 0#2) ++ off 0 ((lo 3 (lo 7 (0#2 ++ (c.code ++ 0#3)))) != 0#3)) (.selScalar h (lo 8 (0#1 ++ d)) (lo 8 (0#1 ++ a)) (lo 8 (0#1 ++ b)) (Cond.ofCode (hi 4 3 (lo 7 (0#2 ++ (c.code ++ 0#3)))))) := rfl
  refine decode_of ((decodeWord_mk h 0x0F1#10 (0#1 ++ d) (0#1 ++ a) (0#1 ++ b) (0#2 ++ (c.code ++ 0#3))).trans ((class1s (by decide) (by decide)).trans (e.trans ?_))) rfl rfl
  simp [off, hb, hw]

theorem lea (h : Hd) (d : VCode) (a : VCode) (b : VCode) (sh : BitVec 6) : Statement (.lea h d a b sh) := by
  intro _ hw
  replace hw : (h.ok true .flags && decide (d.toNat < 384)) = true := hw
  try simp only [Bool.and_eq_true] at hw
  have hb := hdBad_ok hw.1
  try simp at hw
  have e : decodeIntegerVector ⟨0x0B2#10, h, d, a, b, (0#3 ++ sh)⟩ = .word (hdBad true .flags h ++ off 27 (384 ≤ d.toNat) ++ off 6 ((hi 3 6 (0#3 ++ sh)) != 0#3)) (.lea h d a b (lo 6 (0#3 ++ sh))) := rfl
  refine decode_of ((decodeWord_mk h 0x0B2#10 d a b (0#3 ++ sh)).trans ((class1v (by decide) (by decide)).trans (e.trans ?_))) rfl rfl
  simp [off, hb, hw]

theorem leaScalar (h : Hd) (d : SReg) (a : SReg) (b : SReg) (sh : BitVec 6) : Statement (.leaScalar h d a b sh) := by
  intro _ hw
  replace hw : (h.ok false .sf) = true := hw
  try simp only [Bool.and_eq_true] at hw
  have hb := hdBad_ok hw
  try simp at hw
  have e : decodeIntegerScalar ⟨0x0F2#10, h, (0#1 ++ d), (0#1 ++ a), (0#1 ++ b), (0#3 ++ sh)⟩ = .word (hdBad false .sf h ++ off 27 (256 ≤ (0#1 ++ d).toNat) ++ off 18 (256 ≤ (0#1 ++ a).toNat) ++ off 9 (256 ≤ (0#1 ++ b).toNat) ++ off 6 ((hi 3 6 (0#3 ++ sh)) != 0#3)) (.leaScalar h (lo 8 (0#1 ++ d)) (lo 8 (0#1 ++ a)) (lo 8 (0#1 ++ b)) (lo 6 (0#3 ++ sh))) := rfl
  refine decode_of ((decodeWord_mk h 0x0F2#10 (0#1 ++ d) (0#1 ++ a) (0#1 ++ b) (0#3 ++ sh)).trans ((class1s (by decide) (by decide)).trans (e.trans ?_))) rfl rfl
  simp [off, hb, hw]

theorem pairNop (sc : BitVec 3) (y : Slot) : Statement (.pairNop sc y) :=
  paired rfl rfl rfl

theorem pairMov (sc : BitVec 3) (d : BitVec 8) (a : BitVec 8) (g : Cond) (y : Slot) : Statement (.pairMov sc d a g y) :=
  paired rfl rfl rfl

theorem pairAdd (sc : BitVec 3) (w : PWidth) (d : BitVec 8) (a : BitVec 8) (g : Cond) (y : Slot) : Statement (.pairAdd sc w d a g y) :=
  paired rfl rfl rfl

theorem pairSub (sc : BitVec 3) (w : PWidth) (d : BitVec 8) (a : BitVec 8) (g : Cond) (y : Slot) : Statement (.pairSub sc w d a g y) :=
  paired rfl rfl rfl

theorem pairMin (sc : BitVec 3) (signed : Bool) (d : BitVec 8) (a : BitVec 8) (g : Cond) (y : Slot) : Statement (.pairMin sc signed d a g y) :=
  paired rfl rfl rfl

theorem pairMax (sc : BitVec 3) (signed : Bool) (d : BitVec 8) (a : BitVec 8) (g : Cond) (y : Slot) : Statement (.pairMax sc signed d a g y) :=
  paired rfl rfl rfl

theorem pairAnd (sc : BitVec 3) (d : BitVec 8) (a : BitVec 8) (g : Cond) (y : Slot) : Statement (.pairAnd sc d a g y) :=
  paired rfl rfl rfl

theorem pairOr (sc : BitVec 3) (d : BitVec 8) (a : BitVec 8) (g : Cond) (y : Slot) : Statement (.pairOr sc d a g y) :=
  paired rfl rfl rfl

theorem pairXor (sc : BitVec 3) (d : BitVec 8) (a : BitVec 8) (g : Cond) (y : Slot) : Statement (.pairXor sc d a g y) :=
  paired rfl rfl rfl

theorem pairAndn (sc : BitVec 3) (d : BitVec 8) (a : BitVec 8) (g : Cond) (y : Slot) : Statement (.pairAndn sc d a g y) :=
  paired rfl rfl rfl

theorem pairFadd (sc : BitVec 3) (f : FType) (d : BitVec 8) (a : BitVec 8) (g : Cond) (y : Slot) : Statement (.pairFadd sc f d a g y) :=
  paired rfl rfl rfl

theorem pairFmul (sc : BitVec 3) (f : FType) (d : BitVec 8) (a : BitVec 8) (g : Cond) (y : Slot) : Statement (.pairFmul sc f d a g y) :=
  paired rfl rfl rfl

theorem pairFmin (sc : BitVec 3) (f : FType) (d : BitVec 8) (a : BitVec 8) (g : Cond) (y : Slot) : Statement (.pairFmin sc f d a g y) :=
  paired rfl rfl rfl

theorem pairFmax (sc : BitVec 3) (f : FType) (d : BitVec 8) (a : BitVec 8) (g : Cond) (y : Slot) : Statement (.pairFmax sc f d a g y) :=
  paired rfl rfl rfl

theorem fadd (h : Hd) (d : VCode) (a : VCode) (b : VCode) (f : FType) (rm : Rm) : Statement (.fadd h d a b f rm) := by
  intro _ hw
  replace hw : (h.ok true .flags && decide (d.toNat < 384) && (rm != Rm.sr)) = true := hw
  try simp only [Bool.and_eq_true] at hw
  have hb := hdBad_ok hw.1.1
  try simp at hw
  have e : decodeFloat ⟨0x100#10, h, d, a, b, (0#4 ++ (rm.code ++ f.code))⟩ = .word (hdBad true .flags h ++ off 27 (384 ≤ d.toNat) ++ off 5 ((hi 4 5 (0#4 ++ (rm.code ++ f.code))) != 0#4) ++ off 2 (4 ≤ (hi 3 2 (lo 5 (0#4 ++ (rm.code ++ f.code)))).toNat)) (.fadd h d a b (FType.ofCode (lo 2 (lo 5 (0#4 ++ (rm.code ++ f.code))))) (Rm.ofCode (hi 3 2 (lo 5 (0#4 ++ (rm.code ++ f.code)))))) := rfl
  refine decode_of ((decodeWord_mk h 0x100#10 d a b (0#4 ++ (rm.code ++ f.code))).trans ((class2 (by decide)).trans (e.trans ?_))) rfl rfl
  simp [off, hb, hw]

theorem fsub (h : Hd) (d : VCode) (a : VCode) (b : VCode) (f : FType) (rm : Rm) : Statement (.fsub h d a b f rm) := by
  intro _ hw
  replace hw : (h.ok true .flags && decide (d.toNat < 384) && (rm != Rm.sr)) = true := hw
  try simp only [Bool.and_eq_true] at hw
  have hb := hdBad_ok hw.1.1
  try simp at hw
  have e : decodeFloat ⟨0x101#10, h, d, a, b, (0#4 ++ (rm.code ++ f.code))⟩ = .word (hdBad true .flags h ++ off 27 (384 ≤ d.toNat) ++ off 5 ((hi 4 5 (0#4 ++ (rm.code ++ f.code))) != 0#4) ++ off 2 (4 ≤ (hi 3 2 (lo 5 (0#4 ++ (rm.code ++ f.code)))).toNat)) (.fsub h d a b (FType.ofCode (lo 2 (lo 5 (0#4 ++ (rm.code ++ f.code))))) (Rm.ofCode (hi 3 2 (lo 5 (0#4 ++ (rm.code ++ f.code)))))) := rfl
  refine decode_of ((decodeWord_mk h 0x101#10 d a b (0#4 ++ (rm.code ++ f.code))).trans ((class2 (by decide)).trans (e.trans ?_))) rfl rfl
  simp [off, hb, hw]

theorem fmul (h : Hd) (d : VCode) (a : VCode) (b : VCode) (f : FType) (rm : Rm) : Statement (.fmul h d a b f rm) := by
  intro _ hw
  replace hw : (h.ok true .flags && decide (d.toNat < 384) && (rm != Rm.sr)) = true := hw
  try simp only [Bool.and_eq_true] at hw
  have hb := hdBad_ok hw.1.1
  try simp at hw
  have e : decodeFloat ⟨0x102#10, h, d, a, b, (0#4 ++ (rm.code ++ f.code))⟩ = .word (hdBad true .flags h ++ off 27 (384 ≤ d.toNat) ++ off 5 ((hi 4 5 (0#4 ++ (rm.code ++ f.code))) != 0#4) ++ off 2 (4 ≤ (hi 3 2 (lo 5 (0#4 ++ (rm.code ++ f.code)))).toNat)) (.fmul h d a b (FType.ofCode (lo 2 (lo 5 (0#4 ++ (rm.code ++ f.code))))) (Rm.ofCode (hi 3 2 (lo 5 (0#4 ++ (rm.code ++ f.code)))))) := rfl
  refine decode_of ((decodeWord_mk h 0x102#10 d a b (0#4 ++ (rm.code ++ f.code))).trans ((class2 (by decide)).trans (e.trans ?_))) rfl rfl
  simp [off, hb, hw]

theorem fmin (h : Hd) (d : VCode) (a : VCode) (b : VCode) (f : FType) : Statement (.fmin h d a b f) := by
  intro _ hw
  replace hw : (h.ok true .flags && decide (d.toNat < 384)) = true := hw
  try simp only [Bool.and_eq_true] at hw
  have hb := hdBad_ok hw.1
  try simp at hw
  have e : decodeFloat ⟨0x103#10, h, d, a, b, (0#4 ++ (0#3 ++ f.code))⟩ = .word (hdBad true .flags h ++ off 27 (384 ≤ d.toNat) ++ off 5 ((hi 4 5 (0#4 ++ (0#3 ++ f.code))) != 0#4) ++ off 2 ((hi 3 2 (lo 5 (0#4 ++ (0#3 ++ f.code)))) != 0#3)) (.fmin h d a b (FType.ofCode (lo 2 (lo 5 (0#4 ++ (0#3 ++ f.code)))))) := rfl
  refine decode_of ((decodeWord_mk h 0x103#10 d a b (0#4 ++ (0#3 ++ f.code))).trans ((class2 (by decide)).trans (e.trans ?_))) rfl rfl
  simp [off, hb, hw]

theorem fmax (h : Hd) (d : VCode) (a : VCode) (b : VCode) (f : FType) : Statement (.fmax h d a b f) := by
  intro _ hw
  replace hw : (h.ok true .flags && decide (d.toNat < 384)) = true := hw
  try simp only [Bool.and_eq_true] at hw
  have hb := hdBad_ok hw.1
  try simp at hw
  have e : decodeFloat ⟨0x104#10, h, d, a, b, (0#4 ++ (0#3 ++ f.code))⟩ = .word (hdBad true .flags h ++ off 27 (384 ≤ d.toNat) ++ off 5 ((hi 4 5 (0#4 ++ (0#3 ++ f.code))) != 0#4) ++ off 2 ((hi 3 2 (lo 5 (0#4 ++ (0#3 ++ f.code)))) != 0#3)) (.fmax h d a b (FType.ofCode (lo 2 (lo 5 (0#4 ++ (0#3 ++ f.code)))))) := rfl
  refine decode_of ((decodeWord_mk h 0x104#10 d a b (0#4 ++ (0#3 ++ f.code))).trans ((class2 (by decide)).trans (e.trans ?_))) rfl rfl
  simp [off, hb, hw]

theorem fabs (h : Hd) (d : VCode) (a : VCode) (f : FType) : Statement (.fabs h d a f) := by
  intro _ hw
  replace hw : (h.ok true .flags && decide (d.toNat < 384)) = true := hw
  try simp only [Bool.and_eq_true] at hw
  have hb := hdBad_ok hw.1
  try simp at hw
  have e : decodeFloat ⟨0x105#10, h, d, a, 0#9, (0#4 ++ (0#3 ++ f.code))⟩ = .word (hdBad true .flags h ++ off 27 (384 ≤ d.toNat) ++ off 9 (0#9 != 0#9) ++ off 5 ((hi 4 5 (0#4 ++ (0#3 ++ f.code))) != 0#4) ++ off 2 ((hi 3 2 (lo 5 (0#4 ++ (0#3 ++ f.code)))) != 0#3)) (.fabs h d a (FType.ofCode (lo 2 (lo 5 (0#4 ++ (0#3 ++ f.code)))))) := rfl
  refine decode_of ((decodeWord_mk h 0x105#10 d a 0#9 (0#4 ++ (0#3 ++ f.code))).trans ((class2 (by decide)).trans (e.trans ?_))) rfl rfl
  simp [off, hb, hw]

theorem fneg (h : Hd) (d : VCode) (a : VCode) (f : FType) : Statement (.fneg h d a f) := by
  intro _ hw
  replace hw : (h.ok true .flags && decide (d.toNat < 384)) = true := hw
  try simp only [Bool.and_eq_true] at hw
  have hb := hdBad_ok hw.1
  try simp at hw
  have e : decodeFloat ⟨0x106#10, h, d, a, 0#9, (0#4 ++ (0#3 ++ f.code))⟩ = .word (hdBad true .flags h ++ off 27 (384 ≤ d.toNat) ++ off 9 (0#9 != 0#9) ++ off 5 ((hi 4 5 (0#4 ++ (0#3 ++ f.code))) != 0#4) ++ off 2 ((hi 3 2 (lo 5 (0#4 ++ (0#3 ++ f.code)))) != 0#3)) (.fneg h d a (FType.ofCode (lo 2 (lo 5 (0#4 ++ (0#3 ++ f.code)))))) := rfl
  refine decode_of ((decodeWord_mk h 0x106#10 d a 0#9 (0#4 ++ (0#3 ++ f.code))).trans ((class2 (by decide)).trans (e.trans ?_))) rfl rfl
  simp [off, hb, hw]

theorem fcmp (h : Hd) (a : VCode) (b : VCode) (f : FType) : Statement (.fcmp h a b f) := by
  intro _ hw
  replace hw : (h.ok true .needFlag) = true := hw
  try simp only [Bool.and_eq_true] at hw
  have hb := hdBad_ok hw
  try simp at hw
  have e : decodeFloat ⟨0x107#10, h, 0#9, a, b, (0#4 ++ (0#3 ++ f.code))⟩ = .word (hdBad true .needFlag h ++ off 27 (0#9 != 0#9) ++ off 5 ((hi 4 5 (0#4 ++ (0#3 ++ f.code))) != 0#4) ++ off 2 ((hi 3 2 (lo 5 (0#4 ++ (0#3 ++ f.code)))) != 0#3)) (.fcmp h a b (FType.ofCode (lo 2 (lo 5 (0#4 ++ (0#3 ++ f.code)))))) := rfl
  refine decode_of ((decodeWord_mk h 0x107#10 0#9 a b (0#4 ++ (0#3 ++ f.code))).trans ((class2 (by decide)).trans (e.trans ?_))) rfl rfl
  simp [off, hb, hw]

theorem fclass (h : Hd) (d : VCode) (a : VCode) (f : FType) : Statement (.fclass h d a f) := by
  intro _ hw
  replace hw : (h.ok true .zero && decide (d.toNat < 384)) = true := hw
  try simp only [Bool.and_eq_true] at hw
  have hb := hdBad_ok hw.1
  try simp at hw
  have e : decodeFloat ⟨0x108#10, h, d, a, 0#9, (0#4 ++ (0#3 ++ f.code))⟩ = .word (hdBad true .zero h ++ off 27 (384 ≤ d.toNat) ++ off 9 (0#9 != 0#9) ++ off 5 ((hi 4 5 (0#4 ++ (0#3 ++ f.code))) != 0#4) ++ off 2 ((hi 3 2 (lo 5 (0#4 ++ (0#3 ++ f.code)))) != 0#3)) (.fclass h d a (FType.ofCode (lo 2 (lo 5 (0#4 ++ (0#3 ++ f.code)))))) := rfl
  refine decode_of ((decodeWord_mk h 0x108#10 d a 0#9 (0#4 ++ (0#3 ++ f.code))).trans ((class2 (by decide)).trans (e.trans ?_))) rfl rfl
  simp [off, hb, hw]

theorem frcp (h : Hd) (d : VCode) (a : VCode) (f : FType) (rm : Rm) : Statement (.frcp h d a f rm) := by
  intro _ hw
  replace hw : (h.ok true .flags && decide (d.toNat < 384) && (rm != Rm.sr)) = true := hw
  try simp only [Bool.and_eq_true] at hw
  have hb := hdBad_ok hw.1.1
  try simp at hw
  have e : decodeFloat ⟨0x109#10, h, d, a, 0#9, (0#4 ++ (rm.code ++ f.code))⟩ = .word (hdBad true .flags h ++ off 27 (384 ≤ d.toNat) ++ off 9 (0#9 != 0#9) ++ off 5 ((hi 4 5 (0#4 ++ (rm.code ++ f.code))) != 0#4) ++ off 2 (4 ≤ (hi 3 2 (lo 5 (0#4 ++ (rm.code ++ f.code)))).toNat)) (.frcp h d a (FType.ofCode (lo 2 (lo 5 (0#4 ++ (rm.code ++ f.code))))) (Rm.ofCode (hi 3 2 (lo 5 (0#4 ++ (rm.code ++ f.code)))))) := rfl
  refine decode_of ((decodeWord_mk h 0x109#10 d a 0#9 (0#4 ++ (rm.code ++ f.code))).trans ((class2 (by decide)).trans (e.trans ?_))) rfl rfl
  simp [off, hb, hw]

theorem fsqrt (h : Hd) (d : VCode) (a : VCode) (f : FType) (rm : Rm) : Statement (.fsqrt h d a f rm) := by
  intro _ hw
  replace hw : (h.ok true .flags && decide (d.toNat < 384) && (rm != Rm.sr)) = true := hw
  try simp only [Bool.and_eq_true] at hw
  have hb := hdBad_ok hw.1.1
  try simp at hw
  have e : decodeFloat ⟨0x10A#10, h, d, a, 0#9, (0#4 ++ (rm.code ++ f.code))⟩ = .word (hdBad true .flags h ++ off 27 (384 ≤ d.toNat) ++ off 9 (0#9 != 0#9) ++ off 5 ((hi 4 5 (0#4 ++ (rm.code ++ f.code))) != 0#4) ++ off 2 (4 ≤ (hi 3 2 (lo 5 (0#4 ++ (rm.code ++ f.code)))).toNat)) (.fsqrt h d a (FType.ofCode (lo 2 (lo 5 (0#4 ++ (rm.code ++ f.code))))) (Rm.ofCode (hi 3 2 (lo 5 (0#4 ++ (rm.code ++ f.code)))))) := rfl
  refine decode_of ((decodeWord_mk h 0x10A#10 d a 0#9 (0#4 ++ (rm.code ++ f.code))).trans ((class2 (by decide)).trans (e.trans ?_))) rfl rfl
  simp [off, hb, hw]

theorem frsq (h : Hd) (d : VCode) (a : VCode) (f : FType) : Statement (.frsq h d a f) := by
  intro _ hw
  replace hw : (h.ok true .flags && decide (d.toNat < 384) && !(f == FType.f64)) = true := hw
  try simp only [Bool.and_eq_true] at hw
  have hb := hdBad_ok hw.1.1
  try simp at hw
  have e : decodeFloat ⟨0x10B#10, h, d, a, 0#9, (0#4 ++ (0#3 ++ f.code))⟩ = .word (hdBad true .flags h ++ off 27 (384 ≤ d.toNat) ++ off 9 (0#9 != 0#9) ++ off 5 ((hi 4 5 (0#4 ++ (0#3 ++ f.code))) != 0#4) ++ off 2 ((hi 3 2 (lo 5 (0#4 ++ (0#3 ++ f.code)))) != 0#3) ++ off 0 ((FType.ofCode (lo 2 (lo 5 (0#4 ++ (0#3 ++ f.code))))) == FType.f64)) (.frsq h d a (FType.ofCode (lo 2 (lo 5 (0#4 ++ (0#3 ++ f.code)))))) := rfl
  refine decode_of ((decodeWord_mk h 0x10B#10 d a 0#9 (0#4 ++ (0#3 ++ f.code))).trans ((class2 (by decide)).trans (e.trans ?_))) rfl rfl
  simp [off, hb, hw]

theorem fexp2 (h : Hd) (d : VCode) (a : VCode) (f : FType) : Statement (.fexp2 h d a f) := by
  intro _ hw
  replace hw : (h.ok true .flags && decide (d.toNat < 384) && !(f == FType.f64)) = true := hw
  try simp only [Bool.and_eq_true] at hw
  have hb := hdBad_ok hw.1.1
  try simp at hw
  have e : decodeFloat ⟨0x10C#10, h, d, a, 0#9, (0#4 ++ (0#3 ++ f.code))⟩ = .word (hdBad true .flags h ++ off 27 (384 ≤ d.toNat) ++ off 9 (0#9 != 0#9) ++ off 5 ((hi 4 5 (0#4 ++ (0#3 ++ f.code))) != 0#4) ++ off 2 ((hi 3 2 (lo 5 (0#4 ++ (0#3 ++ f.code)))) != 0#3) ++ off 0 ((FType.ofCode (lo 2 (lo 5 (0#4 ++ (0#3 ++ f.code))))) == FType.f64)) (.fexp2 h d a (FType.ofCode (lo 2 (lo 5 (0#4 ++ (0#3 ++ f.code)))))) := rfl
  refine decode_of ((decodeWord_mk h 0x10C#10 d a 0#9 (0#4 ++ (0#3 ++ f.code))).trans ((class2 (by decide)).trans (e.trans ?_))) rfl rfl
  simp [off, hb, hw]

theorem flog2 (h : Hd) (d : VCode) (a : VCode) (f : FType) : Statement (.flog2 h d a f) := by
  intro _ hw
  replace hw : (h.ok true .flags && decide (d.toNat < 384) && !(f == FType.f64)) = true := hw
  try simp only [Bool.and_eq_true] at hw
  have hb := hdBad_ok hw.1.1
  try simp at hw
  have e : decodeFloat ⟨0x10D#10, h, d, a, 0#9, (0#4 ++ (0#3 ++ f.code))⟩ = .word (hdBad true .flags h ++ off 27 (384 ≤ d.toNat) ++ off 9 (0#9 != 0#9) ++ off 5 ((hi 4 5 (0#4 ++ (0#3 ++ f.code))) != 0#4) ++ off 2 ((hi 3 2 (lo 5 (0#4 ++ (0#3 ++ f.code)))) != 0#3) ++ off 0 ((FType.ofCode (lo 2 (lo 5 (0#4 ++ (0#3 ++ f.code))))) == FType.f64)) (.flog2 h d a (FType.ofCode (lo 2 (lo 5 (0#4 ++ (0#3 ++ f.code)))))) := rfl
  refine decode_of ((decodeWord_mk h 0x10D#10 d a 0#9 (0#4 ++ (0#3 ++ f.code))).trans ((class2 (by decide)).trans (e.trans ?_))) rfl rfl
  simp [off, hb, hw]

theorem fsin (h : Hd) (d : VCode) (a : VCode) (f : FType) : Statement (.fsin h d a f) := by
  intro _ hw
  replace hw : (h.ok true .flags && decide (d.toNat < 384) && !(f == FType.f64)) = true := hw
  try simp only [Bool.and_eq_true] at hw
  have hb := hdBad_ok hw.1.1
  try simp at hw
  have e : decodeFloat ⟨0x10E#10, h, d, a, 0#9, (0#4 ++ (0#3 ++ f.code))⟩ = .word (hdBad true .flags h ++ off 27 (384 ≤ d.toNat) ++ off 9 (0#9 != 0#9) ++ off 5 ((hi 4 5 (0#4 ++ (0#3 ++ f.code))) != 0#4) ++ off 2 ((hi 3 2 (lo 5 (0#4 ++ (0#3 ++ f.code)))) != 0#3) ++ off 0 ((FType.ofCode (lo 2 (lo 5 (0#4 ++ (0#3 ++ f.code))))) == FType.f64)) (.fsin h d a (FType.ofCode (lo 2 (lo 5 (0#4 ++ (0#3 ++ f.code)))))) := rfl
  refine decode_of ((decodeWord_mk h 0x10E#10 d a 0#9 (0#4 ++ (0#3 ++ f.code))).trans ((class2 (by decide)).trans (e.trans ?_))) rfl rfl
  simp [off, hb, hw]

theorem fcos (h : Hd) (d : VCode) (a : VCode) (f : FType) : Statement (.fcos h d a f) := by
  intro _ hw
  replace hw : (h.ok true .flags && decide (d.toNat < 384) && !(f == FType.f64)) = true := hw
  try simp only [Bool.and_eq_true] at hw
  have hb := hdBad_ok hw.1.1
  try simp at hw
  have e : decodeFloat ⟨0x10F#10, h, d, a, 0#9, (0#4 ++ (0#3 ++ f.code))⟩ = .word (hdBad true .flags h ++ off 27 (384 ≤ d.toNat) ++ off 9 (0#9 != 0#9) ++ off 5 ((hi 4 5 (0#4 ++ (0#3 ++ f.code))) != 0#4) ++ off 2 ((hi 3 2 (lo 5 (0#4 ++ (0#3 ++ f.code)))) != 0#3) ++ off 0 ((FType.ofCode (lo 2 (lo 5 (0#4 ++ (0#3 ++ f.code))))) == FType.f64)) (.fcos h d a (FType.ofCode (lo 2 (lo 5 (0#4 ++ (0#3 ++ f.code)))))) := rfl
  refine decode_of ((decodeWord_mk h 0x10F#10 d a 0#9 (0#4 ++ (0#3 ++ f.code))).trans ((class2 (by decide)).trans (e.trans ?_))) rfl rfl
  simp [off, hb, hw]

theorem ftanh (h : Hd) (d : VCode) (a : VCode) (f : FType) : Statement (.ftanh h d a f) := by
  intro _ hw
  replace hw : (h.ok true .flags && decide (d.toNat < 384) && !(f == FType.f64)) = true := hw
  try simp only [Bool.and_eq_true] at hw
  have hb := hdBad_ok hw.1.1
  try simp at hw
  have e : decodeFloat ⟨0x110#10, h, d, a, 0#9, (0#4 ++ (0#3 ++ f.code))⟩ = .word (hdBad true .flags h ++ off 27 (384 ≤ d.toNat) ++ off 9 (0#9 != 0#9) ++ off 5 ((hi 4 5 (0#4 ++ (0#3 ++ f.code))) != 0#4) ++ off 2 ((hi 3 2 (lo 5 (0#4 ++ (0#3 ++ f.code)))) != 0#3) ++ off 0 ((FType.ofCode (lo 2 (lo 5 (0#4 ++ (0#3 ++ f.code))))) == FType.f64)) (.ftanh h d a (FType.ofCode (lo 2 (lo 5 (0#4 ++ (0#3 ++ f.code)))))) := rfl
  refine decode_of ((decodeWord_mk h 0x110#10 d a 0#9 (0#4 ++ (0#3 ++ f.code))).trans ((class2 (by decide)).trans (e.trans ?_))) rfl rfl
  simp [off, hb, hw]

theorem fscale (h : Hd) (d : VCode) (a : VCode) (b : VCode) (f : FType) (rm : Rm) : Statement (.fscale h d a b f rm) := by
  intro _ hw
  replace hw : (h.ok true .flags && decide (d.toNat < 384) && (rm != Rm.sr)) = true := hw
  try simp only [Bool.and_eq_true] at hw
  have hb := hdBad_ok hw.1.1
  try simp at hw
  have e : decodeFloat ⟨0x111#10, h, d, a, b, (0#4 ++ (rm.code ++ f.code))⟩ = .word (hdBad true .flags h ++ off 27 (384 ≤ d.toNat) ++ off 5 ((hi 4 5 (0#4 ++ (rm.code ++ f.code))) != 0#4) ++ off 2 (4 ≤ (hi 3 2 (lo 5 (0#4 ++ (rm.code ++ f.code)))).toNat)) (.fscale h d a b (FType.ofCode (lo 2 (lo 5 (0#4 ++ (rm.code ++ f.code))))) (Rm.ofCode (hi 3 2 (lo 5 (0#4 ++ (rm.code ++ f.code)))))) := rfl
  refine decode_of ((decodeWord_mk h 0x111#10 d a b (0#4 ++ (rm.code ++ f.code))).trans ((class2 (by decide)).trans (e.trans ?_))) rfl rfl
  simp [off, hb, hw]

theorem frint (h : Hd) (d : VCode) (a : VCode) (f : FType) (rm : Rm) : Statement (.frint h d a f rm) := by
  intro _ hw
  replace hw : (h.ok true .flags && decide (d.toNat < 384) && (rm != Rm.sr)) = true := hw
  try simp only [Bool.and_eq_true] at hw
  have hb := hdBad_ok hw.1.1
  try simp at hw
  have e : decodeFloat ⟨0x112#10, h, d, a, 0#9, (0#4 ++ (rm.code ++ f.code))⟩ = .word (hdBad true .flags h ++ off 27 (384 ≤ d.toNat) ++ off 9 (0#9 != 0#9) ++ off 5 ((hi 4 5 (0#4 ++ (rm.code ++ f.code))) != 0#4) ++ off 2 (4 ≤ (hi 3 2 (lo 5 (0#4 ++ (rm.code ++ f.code)))).toNat)) (.frint h d a (FType.ofCode (lo 2 (lo 5 (0#4 ++ (rm.code ++ f.code))))) (Rm.ofCode (hi 3 2 (lo 5 (0#4 ++ (rm.code ++ f.code)))))) := rfl
  refine decode_of ((decodeWord_mk h 0x112#10 d a 0#9 (0#4 ++ (rm.code ++ f.code))).trans ((class2 (by decide)).trans (e.trans ?_))) rfl rfl
  simp [off, hb, hw]

theorem act (h : Hd) (d : VCode) (a : VCode) (f : FType) (rm : Rm) : Statement (.act h d a f rm) := by
  intro _ hw
  replace hw : (h.ok true .flags && decide (d.toNat < 384) && (rm != Rm.sr) && !(f == FType.f64)) = true := hw
  try simp only [Bool.and_eq_true] at hw
  have hb := hdBad_ok hw.1.1.1
  try simp at hw
  have e : decodeFloat ⟨0x113#10, h, d, a, 0#9, (0#4 ++ (rm.code ++ f.code))⟩ = .word (hdBad true .flags h ++ off 27 (384 ≤ d.toNat) ++ off 9 (0#9 != 0#9) ++ off 5 ((hi 4 5 (0#4 ++ (rm.code ++ f.code))) != 0#4) ++ off 2 (4 ≤ (hi 3 2 (lo 5 (0#4 ++ (rm.code ++ f.code)))).toNat) ++ off 0 ((FType.ofCode (lo 2 (lo 5 (0#4 ++ (rm.code ++ f.code))))) == FType.f64)) (.act h d a (FType.ofCode (lo 2 (lo 5 (0#4 ++ (rm.code ++ f.code))))) (Rm.ofCode (hi 3 2 (lo 5 (0#4 ++ (rm.code ++ f.code)))))) := rfl
  refine decode_of ((decodeWord_mk h 0x113#10 d a 0#9 (0#4 ++ (rm.code ++ f.code))).trans ((class2 (by decide)).trans (e.trans ?_))) rfl rfl
  simp [off, hb, hw]

theorem actld (h : Hd) (a : VCode) (b : SReg) : Statement (.actld h a b) := by
  intro _ hw
  replace hw : (h.ok false .zero && decide (a.toNat < 377)) = true := hw
  try simp only [Bool.and_eq_true] at hw
  have hb := hdBad_ok hw.1
  try simp at hw
  have e : decodeFloat ⟨0x114#10, h, 0#9, a, (0#1 ++ b), 0#9⟩ = .word (hdBad false .zero h ++ off 27 (0#9 != 0#9) ++ off 18 (377 ≤ a.toNat) ++ off 9 (256 ≤ (0#1 ++ b).toNat) ++ off 0 (0#9 != 0#9)) (.actld h a (lo 8 (0#1 ++ b))) := rfl
  refine decode_of ((decodeWord_mk h 0x114#10 0#9 a (0#1 ++ b) 0#9).trans ((class2 (by decide)).trans (e.trans ?_))) rfl rfl
  simp [off, hb, hw]

theorem actswap (h : Hd) : Statement (.actswap h) := by
  intro _ hw
  replace hw : (h.ok false .zero) = true := hw
  try simp only [Bool.and_eq_true] at hw
  have hb := hdBad_ok hw
  try simp at hw
  have e : decodeFloat ⟨0x115#10, h, 0#9, 0#9, 0#9, 0#9⟩ = .word (hdBad false .zero h ++ off 27 (0#9 != 0#9) ++ off 18 (0#9 != 0#9) ++ off 9 (0#9 != 0#9) ++ off 0 (0#9 != 0#9)) (.actswap h) := rfl
  refine decode_of ((decodeWord_mk h 0x115#10 0#9 0#9 0#9 0#9).trans ((class2 (by decide)).trans (e.trans ?_))) rfl rfl
  simp [off, hb, hw]

theorem cvt (h : Hd) (d : VCode) (a : VCode) (dst : CvtType) (src : CvtType) (p : BitVec 2) (rm : Rm) : Statement (.cvt h d a dst src p rm) := by
  intro _ hw
  replace hw : (h.ok true .flags && decide (d.toNat < 384) && !(cvtPartBad dst src p) && !(cvtRmBad dst rm)) = true := hw
  try simp only [Bool.and_eq_true] at hw
  have hb := hdBad_ok hw.1.1.1
  try simp at hw
  have e : decodeConvert ⟨0x180#10, h, d, a, (0#1 ++ (dst.code ++ src.code)), (0#4 ++ (p ++ rm.code))⟩ = .word (hdBad true .flags h ++ off 27 (384 ≤ d.toNat) ++ off 17 ((hi 1 8 (0#1 ++ (dst.code ++ src.code))) != 0#1) ++ off 13 (CvtType.bad (hi 4 4 (lo 8 (0#1 ++ (dst.code ++ src.code))))) ++ off 9 (CvtType.bad (lo 4 (lo 8 (0#1 ++ (dst.code ++ src.code))))) ++ off 5 ((hi 4 5 (0#4 ++ (p ++ rm.code))) != 0#4) ++ off 0 (5 ≤ (lo 3 (lo 5 (0#4 ++ (p ++ rm.code)))).toNat) ++ off 3 (cvtPartBad (CvtType.ofCode (hi 4 4 (lo 8 (0#1 ++ (dst.code ++ src.code))))) (CvtType.ofCode (lo 4 (lo 8 (0#1 ++ (dst.code ++ src.code))))) (hi 2 3 (lo 5 (0#4 ++ (p ++ rm.code))))) ++ off 0 (cvtRmBad (CvtType.ofCode (hi 4 4 (lo 8 (0#1 ++ (dst.code ++ src.code))))) (Rm.ofCode (lo 3 (lo 5 (0#4 ++ (p ++ rm.code))))))) (.cvt h d a (CvtType.ofCode (hi 4 4 (lo 8 (0#1 ++ (dst.code ++ src.code))))) (CvtType.ofCode (lo 4 (lo 8 (0#1 ++ (dst.code ++ src.code))))) (hi 2 3 (lo 5 (0#4 ++ (p ++ rm.code)))) (Rm.ofCode (lo 3 (lo 5 (0#4 ++ (p ++ rm.code)))))) := rfl
  refine decode_of ((decodeWord_mk h 0x180#10 d a (0#1 ++ (dst.code ++ src.code)) (0#4 ++ (p ++ rm.code))).trans ((class3 (by decide)).trans (e.trans ?_))) rfl rfl
  simp [off, hb, hw]

theorem qnt (h : Hd) (d : VCode) (a : VCode) (x4 : Bool) (f : FType) (l : BitVec 2) (dd : BitVec 4) (rm : Rm) : Statement (.qnt h d a x4 f l dd rm) := by
  intro _ hw
  replace hw : (h.ok false .zero && decide (d.toNat < 384) && !(f == FType.f64) && !(f == FType.f32 && 383 ≤ a.toNat)) = true := hw
  try simp only [Bool.and_eq_true] at hw
  have hb := hdBad_ok hw.1.1.1
  try simp at hw
  have e : decodeConvert ⟨0x181#10, h, d, a, (0#2 ++ (ofBool x4 ++ (f.code ++ (0#2 ++ l)))), (0#2 ++ (dd ++ rm.code))⟩ = .word (hdBad false .zero h ++ off 27 (384 ≤ d.toNat) ++ off 16 ((hi 2 7 (0#2 ++ (ofBool x4 ++ (f.code ++ (0#2 ++ l))))) != 0#2) ++ off 11 ((hi 2 2 (lo 4 (lo 6 (lo 7 (0#2 ++ (ofBool x4 ++ (f.code ++ (0#2 ++ l)))))))) != 0#2) ++ off 7 ((hi 2 7 (0#2 ++ (dd ++ rm.code))) != 0#2) ++ off 0 (5 ≤ (lo 3 (lo 7 (0#2 ++ (dd ++ rm.code)))).toNat) ++ off 13 ((FType.ofCode (hi 2 4 (lo 6 (lo 7 (0#2 ++ (ofBool x4 ++ (f.code ++ (0#2 ++ l)))))))) == FType.f64) ++ off 18 ((FType.ofCode (hi 2 4 (lo 6 (lo 7 (0#2 ++ (ofBool x4 ++ (f.code ++ (0#2 ++ l)))))))) == FType.f32 && 383 ≤ a.toNat)) (.qnt h d a ((hi 1 6 (lo 7 (0#2 ++ (ofBool x4 ++ (f.code ++ (0#2 ++ l)))))) == 1#1) (FType.ofCode (hi 2 4 (lo 6 (lo 7 (0#2 ++ (ofBool x4 ++ (f.code ++ (0#2 ++ l)))))))) (lo 2 (lo 4 (lo 6 (lo 7 (0#2 ++ (ofBool x4 ++ (f.code ++ (0#2 ++ l)))))))) (hi 4 3 (lo 7 (0#2 ++ (dd ++ rm.code)))) (Rm.ofCode (lo 3 (lo 7 (0#2 ++ (dd ++ rm.code)))))) := rfl
  refine decode_of ((decodeWord_mk h 0x181#10 d a (0#2 ++ (ofBool x4 ++ (f.code ++ (0#2 ++ l)))) (0#2 ++ (dd ++ rm.code))).trans ((class3 (by decide)).trans (e.trans ?_))) rfl rfl
  simp [off, hb, hw]; clear e; grind

theorem dqnt (h : Hd) (d : VCode) (a : VCode) (x4 : Bool) (f : FType) (l : BitVec 2) (rm : Rm) : Statement (.dqnt h d a x4 f l rm) := by
  intro _ hw
  replace hw : (h.ok false .zero && decide (d.toNat < 384) && !(f == FType.f64) && !(f == FType.f32 && 383 ≤ d.toNat) && !(f == FType.f32 && rm != Rm.rne)) = true := hw
  try simp only [Bool.and_eq_true] at hw
  have hb := hdBad_ok hw.1.1.1.1
  try simp at hw
  have e : decodeConvert ⟨0x182#10, h, d, a, (0#2 ++ (ofBool x4 ++ (f.code ++ (0#2 ++ l)))), (0#6 ++ rm.code)⟩ = .word (hdBad false .zero h ++ off 27 (384 ≤ d.toNat) ++ off 16 ((hi 2 7 (0#2 ++ (ofBool x4 ++ (f.code ++ (0#2 ++ l))))) != 0#2) ++ off 11 ((hi 2 2 (lo 4 (lo 6 (lo 7 (0#2 ++ (ofBool x4 ++ (f.code ++ (0#2 ++ l)))))))) != 0#2) ++ off 3 ((hi 6 3 (0#6 ++ rm.code)) != 0#6) ++ off 0 (5 ≤ (lo 3 (0#6 ++ rm.code)).toNat) ++ off 13 ((FType.ofCode (hi 2 4 (lo 6 (lo 7 (0#2 ++ (ofBool x4 ++ (f.code ++ (0#2 ++ l)))))))) == FType.f64) ++ off 27 ((FType.ofCode (hi 2 4 (lo 6 (lo 7 (0#2 ++ (ofBool x4 ++ (f.code ++ (0#2 ++ l)))))))) == FType.f32 && 383 ≤ d.toNat) ++ off 0 ((FType.ofCode (hi 2 4 (lo 6 (lo 7 (0#2 ++ (ofBool x4 ++ (f.code ++ (0#2 ++ l)))))))) == FType.f32 && (Rm.ofCode (lo 3 (0#6 ++ rm.code))) != Rm.rne)) (.dqnt h d a ((hi 1 6 (lo 7 (0#2 ++ (ofBool x4 ++ (f.code ++ (0#2 ++ l)))))) == 1#1) (FType.ofCode (hi 2 4 (lo 6 (lo 7 (0#2 ++ (ofBool x4 ++ (f.code ++ (0#2 ++ l)))))))) (lo 2 (lo 4 (lo 6 (lo 7 (0#2 ++ (ofBool x4 ++ (f.code ++ (0#2 ++ l)))))))) (Rm.ofCode (lo 3 (0#6 ++ rm.code)))) := rfl
  refine decode_of ((decodeWord_mk h 0x182#10 d a (0#2 ++ (ofBool x4 ++ (f.code ++ (0#2 ++ l)))) (0#6 ++ rm.code)).trans ((class3 (by decide)).trans (e.trans ?_))) rfl rfl
  simp [off, hb, hw]; clear e; grind

theorem pack (h : Hd) (d : VCode) (a : VCode) (b : VCode) (t : IType) : Statement (.pack h d a b t) := by
  intro _ hw
  replace hw : (h.ok true .flags && decide (d.toNat < 384) && !(t.bits == 64)) = true := hw
  try simp only [Bool.and_eq_true] at hw
  have hb := hdBad_ok hw.1.1
  try simp at hw
  have e : decodeConvert ⟨0x183#10, h, d, a, b, (0#6 ++ t.code)⟩ = .word (hdBad true .flags h ++ off 27 (384 ≤ d.toNat) ++ off 3 ((hi 6 3 (0#6 ++ t.code)) != 0#6) ++ off 0 ((IType.ofCode (lo 3 (0#6 ++ t.code))).bits == 64)) (.pack h d a b (IType.ofCode (lo 3 (0#6 ++ t.code)))) := rfl
  refine decode_of ((decodeWord_mk h 0x183#10 d a b (0#6 ++ t.code)).trans ((class3 (by decide)).trans (e.trans ?_))) rfl rfl
  simp [off, hb, hw]

theorem unpk (h : Hd) (d : VCode) (a : VCode) (p : BitVec 1) (t : IType) : Statement (.unpk h d a p t) := by
  intro _ hw
  replace hw : (h.ok true .flags && decide (d.toNat < 384) && !(t.bits == 64)) = true := hw
  try simp only [Bool.and_eq_true] at hw
  have hb := hdBad_ok hw.1.1
  try simp at hw
  have e : decodeConvert ⟨0x184#10, h, d, a, 0#9, (0#5 ++ (p ++ t.code))⟩ = .word (hdBad true .flags h ++ off 27 (384 ≤ d.toNat) ++ off 9 (0#9 != 0#9) ++ off 4 ((hi 5 4 (0#5 ++ (p ++ t.code))) != 0#5) ++ off 0 ((IType.ofCode (lo 3 (lo 4 (0#5 ++ (p ++ t.code))))).bits == 64)) (.unpk h d a (hi 1 3 (lo 4 (0#5 ++ (p ++ t.code)))) (IType.ofCode (lo 3 (lo 4 (0#5 ++ (p ++ t.code)))))) := rfl
  refine decode_of ((decodeWord_mk h 0x184#10 d a 0#9 (0#5 ++ (p ++ t.code))).trans ((class3 (by decide)).trans (e.trans ?_))) rfl rfl
  simp [off, hb, hw]

theorem lget (h : Hd) (d : VCode) (a : VCode) (b : VCode) (t : IType) : Statement (.lget h d a b t) := by
  intro _ hw
  replace hw : (h.ok true .zero && decide (d.toNat < 384)) = true := hw
  try simp only [Bool.and_eq_true] at hw
  have hb := hdBad_ok hw.1
  try simp at hw
  have e : decodeConvert ⟨0x188#10, h, d, a, b, (0#6 ++ t.code)⟩ = .word (hdBad true .zero h ++ off 27 (384 ≤ d.toNat) ++ off 3 ((hi 6 3 (0#6 ++ t.code)) != 0#6)) (.lget h d a b (IType.ofCode (lo 3 (0#6 ++ t.code)))) := rfl
  refine decode_of ((decodeWord_mk h 0x188#10 d a b (0#6 ++ t.code)).trans ((class3 (by decide)).trans (e.trans ?_))) rfl rfl
  simp [off, hb, hw]

theorem lput (h : Hd) (d : VCode) (a : VCode) (b : VCode) (t : IType) : Statement (.lput h d a b t) := by
  intro _ hw
  replace hw : (h.ok true .zero && decide (d.toNat < 384)) = true := hw
  try simp only [Bool.and_eq_true] at hw
  have hb := hdBad_ok hw.1
  try simp at hw
  have e : decodeConvert ⟨0x189#10, h, d, a, b, (0#6 ++ t.code)⟩ = .word (hdBad true .zero h ++ off 27 (384 ≤ d.toNat) ++ off 3 ((hi 6 3 (0#6 ++ t.code)) != 0#6)) (.lput h d a b (IType.ofCode (lo 3 (0#6 ++ t.code)))) := rfl
  refine decode_of ((decodeWord_mk h 0x189#10 d a b (0#6 ++ t.code)).trans ((class3 (by decide)).trans (e.trans ?_))) rfl rfl
  simp [off, hb, hw]

theorem lshf (h : Hd) (d : VCode) (a : VCode) (b : VCode) (m : ShfMode) (n : BitVec 5) : Statement (.lshf h d a b m n) := by
  intro _ hw
  replace hw : (h.ok true .zero && decide (d.toNat < 384) && !(m == ShfMode.rot && b != 0#9)) = true := hw
  try simp only [Bool.and_eq_true] at hw
  have hb := hdBad_ok hw.1.1
  try simp at hw
  have e : decodeConvert ⟨0x18A#10, h, d, a, b, (m.code ++ (0#2 ++ n))⟩ = .word (hdBad true .zero h ++ off 27 (384 ≤ d.toNat) ++ off 7 (ShfMode.bad (hi 2 7 (m.code ++ (0#2 ++ n)))) ++ off 5 ((hi 2 5 (lo 7 (m.code ++ (0#2 ++ n)))) != 0#2) ++ off 9 ((ShfMode.ofCode (hi 2 7 (m.code ++ (0#2 ++ n)))) == ShfMode.rot && b != 0#9)) (.lshf h d a b (ShfMode.ofCode (hi 2 7 (m.code ++ (0#2 ++ n)))) (lo 5 (lo 7 (m.code ++ (0#2 ++ n))))) := rfl
  refine decode_of ((decodeWord_mk h 0x18A#10 d a b (m.code ++ (0#2 ++ n))).trans ((class3 (by decide)).trans (e.trans ?_))) rfl rfl
  simp [off, hb, hw]; clear e; grind

theorem lbcst (h : Hd) (d : VCode) (a : VCode) (n : BitVec 5) : Statement (.lbcst h d a n) := by
  intro _ hw
  replace hw : (h.ok true .zero && decide (d.toNat < 384)) = true := hw
  try simp only [Bool.and_eq_true] at hw
  have hb := hdBad_ok hw.1
  try simp at hw
  have e : decodeConvert ⟨0x18B#10, h, d, a, 0#9, (0#4 ++ n)⟩ = .word (hdBad true .zero h ++ off 27 (384 ≤ d.toNat) ++ off 9 (0#9 != 0#9) ++ off 5 ((hi 4 5 (0#4 ++ n)) != 0#4)) (.lbcst h d a (lo 5 (0#4 ++ n))) := rfl
  refine decode_of ((decodeWord_mk h 0x18B#10 d a 0#9 (0#4 ++ n)).trans ((class3 (by decide)).trans (e.trans ?_))) rfl rfl
  simp [off, hb, hw]

theorem lxor (h : Hd) (d : VCode) (a : VCode) (n : BitVec 5) : Statement (.lxor h d a n) := by
  intro _ hw
  replace hw : (h.ok true .zero && decide (d.toNat < 384)) = true := hw
  try simp only [Bool.and_eq_true] at hw
  have hb := hdBad_ok hw.1
  try simp at hw
  have e : decodeConvert ⟨0x18C#10, h, d, a, 0#9, (0#4 ++ n)⟩ = .word (hdBad true .zero h ++ off 27 (384 ≤ d.toNat) ++ off 9 (0#9 != 0#9) ++ off 5 ((hi 4 5 (0#4 ++ n)) != 0#4)) (.lxor h d a (lo 5 (0#4 ++ n))) := rfl
  refine decode_of ((decodeWord_mk h 0x18C#10 d a 0#9 (0#4 ++ n)).trans ((class3 (by decide)).trans (e.trans ?_))) rfl rfl
  simp [off, hb, hw]

theorem lvote (h : Hd) (d : VCode) (a : VCode) (m : VoteMode) : Statement (.lvote h d a m) := by
  intro _ hw
  replace hw : (h.ok true .flags && decide (d.toNat < 384)) = true := hw
  try simp only [Bool.and_eq_true] at hw
  have hb := hdBad_ok hw.1
  try simp at hw
  have e : decodeConvert ⟨0x18F#10, h, d, a, 0#9, (0#7 ++ m.code)⟩ = .word (hdBad true .flags h ++ off 27 (384 ≤ d.toNat) ++ off 9 (0#9 != 0#9) ++ off 2 ((hi 7 2 (0#7 ++ m.code)) != 0#7) ++ off 0 (VoteMode.bad (lo 2 (0#7 ++ m.code)))) (.lvote h d a (VoteMode.ofCode (lo 2 (0#7 ++ m.code)))) := rfl
  refine decode_of ((decodeWord_mk h 0x18F#10 d a 0#9 (0#7 ++ m.code)).trans ((class3 (by decide)).trans (e.trans ?_))) rfl rfl
  simp [off, hb, hw]

theorem rng (h : Hd) (d : VCode) : Statement (.rng h d) := by
  intro _ hw
  replace hw : (h.ok true .zero && decide (d.toNat < 384)) = true := hw
  try simp only [Bool.and_eq_true] at hw
  have hb := hdBad_ok hw.1
  try simp at hw
  have e : decodeConvert ⟨0x190#10, h, d, 0#9, 0#9, 0#9⟩ = .word (hdBad true .zero h ++ off 27 (384 ≤ d.toNat) ++ off 18 (0#9 != 0#9) ++ off 9 (0#9 != 0#9) ++ off 0 (0#9 != 0#9)) (.rng h d) := rfl
  refine decode_of ((decodeWord_mk h 0x190#10 d 0#9 0#9 0#9).trans ((class3 (by decide)).trans (e.trans ?_))) rfl rfl
  simp [off, hb, hw]

theorem rngset (h : Hd) (a : SReg) (b : SReg) : Statement (.rngset h a b) := by
  intro _ hw
  replace hw : (h.ok false .zero) = true := hw
  try simp only [Bool.and_eq_true] at hw
  have hb := hdBad_ok hw
  try simp at hw
  have e : decodeConvert ⟨0x191#10, h, 0#9, (0#1 ++ a), (0#1 ++ b), 0#9⟩ = .word (hdBad false .zero h ++ off 27 (0#9 != 0#9) ++ off 18 (256 ≤ (0#1 ++ a).toNat) ++ off 9 (256 ≤ (0#1 ++ b).toNat) ++ off 0 (0#9 != 0#9)) (.rngset h (lo 8 (0#1 ++ a)) (lo 8 (0#1 ++ b))) := rfl
  refine decode_of ((decodeWord_mk h 0x191#10 0#9 (0#1 ++ a) (0#1 ++ b) 0#9).trans ((class3 (by decide)).trans (e.trans ?_))) rfl rfl
  simp [off, hb, hw]

theorem ld (h : Hd) (d : VCode) (g : GCode) (b : VCode) (t : IType) (fe : Fe) (imm : BitVec 4) : Statement (.ld h d g b t fe imm) := by
  intro _ hw
  replace hw : (h.ok true .hint && decide (d.toNat < 384) && decide (g.toNat < 24)) = true := hw
  try simp only [Bool.and_eq_true] at hw
  have hb := hdBad_ok hw.1.1
  try simp at hw
  have e : decodeMemory ⟨0x200#10, h, d, (0#4 ++ g), b, (t.code ++ (fe.code ++ imm))⟩ = .word (hdBad true .hint h ++ off 27 (384 ≤ d.toNat) ++ off 18 (24 ≤ (0#4 ++ g).toNat) ++ off 4 (Fe.bad (hi 2 4 (lo 6 (t.code ++ (fe.code ++ imm)))))) (.ld h d (lo 5 (0#4 ++ g)) b (IType.ofCode (hi 3 6 (t.code ++ (fe.code ++ imm)))) (Fe.ofCode (hi 2 4 (lo 6 (t.code ++ (fe.code ++ imm))))) (lo 4 (lo 6 (t.code ++ (fe.code ++ imm))))) := rfl
  refine decode_of ((decodeWord_mk h 0x200#10 d (0#4 ++ g) b (t.code ++ (fe.code ++ imm))).trans ((class4 (by decide)).trans (e.trans ?_))) rfl rfl
  simp [off, hb, hw]

theorem st (h : Hd) (d : VCode) (g : GCode) (b : VCode) (t : IType) (fe : Fe) (imm : BitVec 4) : Statement (.st h d g b t fe imm) := by
  intro _ hw
  replace hw : (h.ok true .hint && decide (g.toNat < 24) && !(fe == Fe.fec)) = true := hw
  try simp only [Bool.and_eq_true] at hw
  have hb := hdBad_ok hw.1.1
  try simp at hw
  have e : decodeMemory ⟨0x201#10, h, d, (0#4 ++ g), b, (t.code ++ (fe.code ++ imm))⟩ = .word (hdBad true .hint h ++ off 18 (24 ≤ (0#4 ++ g).toNat) ++ off 4 (Fe.bad (hi 2 4 (lo 6 (t.code ++ (fe.code ++ imm))))) ++ off 4 ((Fe.ofCode (hi 2 4 (lo 6 (t.code ++ (fe.code ++ imm))))) == Fe.fec)) (.st h d (lo 5 (0#4 ++ g)) b (IType.ofCode (hi 3 6 (t.code ++ (fe.code ++ imm)))) (Fe.ofCode (hi 2 4 (lo 6 (t.code ++ (fe.code ++ imm))))) (lo 4 (lo 6 (t.code ++ (fe.code ++ imm))))) := rfl
  refine decode_of ((decodeWord_mk h 0x201#10 d (0#4 ++ g) b (t.code ++ (fe.code ++ imm))).trans ((class4 (by decide)).trans (e.trans ?_))) rfl rfl
  simp [off, hb, hw]

theorem lds (h : Hd) (d : VCode) (b : VCode) (t : IType) (fe : Fe) (imm : BitVec 4) : Statement (.lds h d b t fe imm) := by
  intro _ hw
  replace hw : (h.ok true .zero && decide (d.toNat < 384)) = true := hw
  try simp only [Bool.and_eq_true] at hw
  have hb := hdBad_ok hw.1
  try simp at hw
  have e : decodeMemory ⟨0x202#10, h, d, 0#9, b, (t.code ++ (fe.code ++ imm))⟩ = .word (hdBad true .zero h ++ off 27 (384 ≤ d.toNat) ++ off 18 (0#9 != 0#9) ++ off 4 (Fe.bad (hi 2 4 (lo 6 (t.code ++ (fe.code ++ imm)))))) (.lds h d b (IType.ofCode (hi 3 6 (t.code ++ (fe.code ++ imm)))) (Fe.ofCode (hi 2 4 (lo 6 (t.code ++ (fe.code ++ imm))))) (lo 4 (lo 6 (t.code ++ (fe.code ++ imm))))) := rfl
  refine decode_of ((decodeWord_mk h 0x202#10 d 0#9 b (t.code ++ (fe.code ++ imm))).trans ((class4 (by decide)).trans (e.trans ?_))) rfl rfl
  simp [off, hb, hw]

theorem sts (h : Hd) (d : VCode) (b : VCode) (t : IType) (fe : Fe) (imm : BitVec 4) : Statement (.sts h d b t fe imm) := by
  intro _ hw
  replace hw : (h.ok true .zero && !(fe == Fe.fec)) = true := hw
  try simp only [Bool.and_eq_true] at hw
  have hb := hdBad_ok hw.1
  try simp at hw
  have e : decodeMemory ⟨0x203#10, h, d, 0#9, b, (t.code ++ (fe.code ++ imm))⟩ = .word (hdBad true .zero h ++ off 18 (0#9 != 0#9) ++ off 4 (Fe.bad (hi 2 4 (lo 6 (t.code ++ (fe.code ++ imm))))) ++ off 4 ((Fe.ofCode (hi 2 4 (lo 6 (t.code ++ (fe.code ++ imm))))) == Fe.fec)) (.sts h d b (IType.ofCode (hi 3 6 (t.code ++ (fe.code ++ imm)))) (Fe.ofCode (hi 2 4 (lo 6 (t.code ++ (fe.code ++ imm))))) (lo 4 (lo 6 (t.code ++ (fe.code ++ imm))))) := rfl
  refine decode_of ((decodeWord_mk h 0x203#10 d 0#9 b (t.code ++ (fe.code ++ imm))).trans ((class4 (by decide)).trans (e.trans ?_))) rfl rfl
  simp [off, hb, hw]

theorem ldp (h : Hd) (d : VCode) (g : GCode) (b : VCode) (fe : Fe) (imm : BitVec 4) : Statement (.ldp h d g b fe imm) := by
  intro _ hw
  replace hw : (h.ok true .hint && decide (d.toNat < 383) && decide (g.toNat < 24)) = true := hw
  try simp only [Bool.and_eq_true] at hw
  have hb := hdBad_ok hw.1.1
  try simp at hw
  have e : decodeMemory ⟨0x204#10, h, d, (0#4 ++ g), b, (0#3 ++ (fe.code ++ imm))⟩ = .word (hdBad true .hint h ++ off 27 (383 ≤ d.toNat) ++ off 18 (24 ≤ (0#4 ++ g).toNat) ++ off 6 ((hi 3 6 (0#3 ++ (fe.code ++ imm))) != 0#3) ++ off 4 (Fe.bad (hi 2 4 (lo 6 (0#3 ++ (fe.code ++ imm)))))) (.ldp h d (lo 5 (0#4 ++ g)) b (Fe.ofCode (hi 2 4 (lo 6 (0#3 ++ (fe.code ++ imm))))) (lo 4 (lo 6 (0#3 ++ (fe.code ++ imm))))) := rfl
  refine decode_of ((decodeWord_mk h 0x204#10 d (0#4 ++ g) b (0#3 ++ (fe.code ++ imm))).trans ((class4 (by decide)).trans (e.trans ?_))) rfl rfl
  simp [off, hb, hw]

theorem stp (h : Hd) (d : VCode) (g : GCode) (b : VCode) (fe : Fe) (imm : BitVec 4) : Statement (.stp h d g b fe imm) := by
  intro _ hw
  replace hw : (h.ok true .hint && decide (d.toNat < 383) && decide (g.toNat < 24) && !(fe == Fe.fec)) = true := hw
  try simp only [Bool.and_eq_true] at hw
  have hb := hdBad_ok hw.1.1.1
  try simp at hw
  have e : decodeMemory ⟨0x205#10, h, d, (0#4 ++ g), b, (0#3 ++ (fe.code ++ imm))⟩ = .word (hdBad true .hint h ++ off 27 (383 ≤ d.toNat) ++ off 18 (24 ≤ (0#4 ++ g).toNat) ++ off 6 ((hi 3 6 (0#3 ++ (fe.code ++ imm))) != 0#3) ++ off 4 (Fe.bad (hi 2 4 (lo 6 (0#3 ++ (fe.code ++ imm))))) ++ off 4 ((Fe.ofCode (hi 2 4 (lo 6 (0#3 ++ (fe.code ++ imm))))) == Fe.fec)) (.stp h d (lo 5 (0#4 ++ g)) b (Fe.ofCode (hi 2 4 (lo 6 (0#3 ++ (fe.code ++ imm))))) (lo 4 (lo 6 (0#3 ++ (fe.code ++ imm))))) := rfl
  refine decode_of ((decodeWord_mk h 0x205#10 d (0#4 ++ g) b (0#3 ++ (fe.code ++ imm))).trans ((class4 (by decide)).trans (e.trans ?_))) rfl rfl
  simp [off, hb, hw]

theorem atom (h : Hd) (d : VCode) (g : GCode) (b : VCode) (op : AtOp) (t : IType) : Statement (.atom h d g b op t) := by
  intro _ hw
  replace hw : (h.ok true .zero && decide (d.toNat < 384) && decide (g.toNat < 24) && !(atTypeBad op t) && !(op == AtOp.cas && 383 ≤ d.toNat)) = true := hw
  try simp only [Bool.and_eq_true] at hw
  have hb := hdBad_ok hw.1.1.1.1
  try simp at hw
  have e : decodeMemory ⟨0x206#10, h, d, (0#4 ++ g), b, (t.code ++ (op.code ++ 0#2))⟩ = .word (hdBad true .zero h ++ off 27 (384 ≤ d.toNat) ++ off 18 (24 ≤ (0#4 ++ g).toNat) ++ off 2 (AtOp.bad (hi 4 2 (lo 6 (t.code ++ (op.code ++ 0#2))))) ++ off 0 ((lo 2 (lo 6 (t.code ++ (op.code ++ 0#2)))) != 0#2) ++ off 6 (atTypeBad (AtOp.ofCode (hi 4 2 (lo 6 (t.code ++ (op.code ++ 0#2))))) (IType.ofCode (hi 3 6 (t.code ++ (op.code ++ 0#2))))) ++ off 27 ((AtOp.ofCode (hi 4 2 (lo 6 (t.code ++ (op.code ++ 0#2))))) == AtOp.cas && 383 ≤ d.toNat)) (.atom h d (lo 5 (0#4 ++ g)) b (AtOp.ofCode (hi 4 2 (lo 6 (t.code ++ (op.code ++ 0#2))))) (IType.ofCode (hi 3 6 (t.code ++ (op.code ++ 0#2))))) := rfl
  refine decode_of ((decodeWord_mk h 0x206#10 d (0#4 ++ g) b (t.code ++ (op.code ++ 0#2))).trans ((class4 (by decide)).trans (e.trans ?_))) rfl rfl
  simp [off, hb, hw]; clear e; grind

theorem atoms (h : Hd) (d : VCode) (b : VCode) (op : AtOp) (t : IType) : Statement (.atoms h d b op t) := by
  intro _ hw
  replace hw : (h.ok true .zero && decide (d.toNat < 384) && !(atTypeBad op t) && !(op == AtOp.cas && 383 ≤ d.toNat)) = true := hw
  try simp only [Bool.and_eq_true] at hw
  have hb := hdBad_ok hw.1.1.1
  try simp at hw
  have e : decodeMemory ⟨0x207#10, h, d, 0#9, b, (t.code ++ (op.code ++ 0#2))⟩ = .word (hdBad true .zero h ++ off 27 (384 ≤ d.toNat) ++ off 18 (0#9 != 0#9) ++ off 2 (AtOp.bad (hi 4 2 (lo 6 (t.code ++ (op.code ++ 0#2))))) ++ off 0 ((lo 2 (lo 6 (t.code ++ (op.code ++ 0#2)))) != 0#2) ++ off 6 (atTypeBad (AtOp.ofCode (hi 4 2 (lo 6 (t.code ++ (op.code ++ 0#2))))) (IType.ofCode (hi 3 6 (t.code ++ (op.code ++ 0#2))))) ++ off 27 ((AtOp.ofCode (hi 4 2 (lo 6 (t.code ++ (op.code ++ 0#2))))) == AtOp.cas && 383 ≤ d.toNat)) (.atoms h d b (AtOp.ofCode (hi 4 2 (lo 6 (t.code ++ (op.code ++ 0#2))))) (IType.ofCode (hi 3 6 (t.code ++ (op.code ++ 0#2))))) := rfl
  refine decode_of ((decodeWord_mk h 0x207#10 d 0#9 b (t.code ++ (op.code ++ 0#2))).trans ((class4 (by decide)).trans (e.trans ?_))) rfl rfl
  simp [off, hb, hw]; clear e; grind

theorem rst (h : Hd) (g : GCode) (a : VCode) (b : VCode) (c : SReg) : Statement (.rst h g a b c) := by
  intro _ hw
  replace hw : (h.ok true .zero && decide (g.toNat < 24)) = true := hw
  try simp only [Bool.and_eq_true] at hw
  have hb := hdBad_ok hw.1
  try simp at hw
  have e : decodeMemory ⟨0x208#10, h, (0#4 ++ g), a, b, (0#1 ++ c)⟩ = .word (hdBad true .zero h ++ off 27 (24 ≤ (0#4 ++ g).toNat) ++ off 0 (256 ≤ (0#1 ++ c).toNat)) (.rst h (lo 5 (0#4 ++ g)) a b (lo 8 (0#1 ++ c))) := rfl
  refine decode_of ((decodeWord_mk h 0x208#10 (0#4 ++ g) a b (0#1 ++ c)).trans ((class4 (by decide)).trans (e.trans ?_))) rfl rfl
  simp [off, hb, hw]

theorem ratom (h : Hd) (d : VCode) (g : GCode) (b : VCode) (op : AtOp) (t : IType) : Statement (.ratom h d g b op t) := by
  intro _ hw
  replace hw : (h.ok true .zero && decide (g.toNat < 24) && !(atTypeBad op t) && !(op == AtOp.exch || op == AtOp.cas)) = true := hw
  try simp only [Bool.and_eq_true] at hw
  have hb := hdBad_ok hw.1.1.1
  try simp at hw
  have e : decodeMemory ⟨0x209#10, h, d, (0#4 ++ g), b, (t.code ++ (op.code ++ 0#2))⟩ = .word (hdBad true .zero h ++ off 18 (24 ≤ (0#4 ++ g).toNat) ++ off 2 (AtOp.bad (hi 4 2 (lo 6 (t.code ++ (op.code ++ 0#2))))) ++ off 0 ((lo 2 (lo 6 (t.code ++ (op.code ++ 0#2)))) != 0#2) ++ off 6 (atTypeBad (AtOp.ofCode (hi 4 2 (lo 6 (t.code ++ (op.code ++ 0#2))))) (IType.ofCode (hi 3 6 (t.code ++ (op.code ++ 0#2))))) ++ off 2 ((AtOp.ofCode (hi 4 2 (lo 6 (t.code ++ (op.code ++ 0#2))))) == AtOp.exch || (AtOp.ofCode (hi 4 2 (lo 6 (t.code ++ (op.code ++ 0#2))))) == AtOp.cas)) (.ratom h d (lo 5 (0#4 ++ g)) b (AtOp.ofCode (hi 4 2 (lo 6 (t.code ++ (op.code ++ 0#2))))) (IType.ofCode (hi 3 6 (t.code ++ (op.code ++ 0#2))))) := rfl
  refine decode_of ((decodeWord_mk h 0x209#10 d (0#4 ++ g) b (t.code ++ (op.code ++ 0#2))).trans ((class4 (by decide)).trans (e.trans ?_))) rfl rfl
  simp [off, hb, hw]

theorem pref (h : Hd) (g : GCode) (b : VCode) (t : IType) (imm : BitVec 4) : Statement (.pref h g b t imm) := by
  intro _ hw
  replace hw : (h.ok true .hint && decide (g.toNat < 24)) = true := hw
  try simp only [Bool.and_eq_true] at hw
  have hb := hdBad_ok hw.1
  try simp at hw
  have e : decodeMemory ⟨0x20A#10, h, 0#9, (0#4 ++ g), b, (t.code ++ (0#2 ++ imm))⟩ = .word (hdBad true .hint h ++ off 27 (0#9 != 0#9) ++ off 18 (24 ≤ (0#4 ++ g).toNat) ++ off 4 ((hi 2 4 (lo 6 (t.code ++ (0#2 ++ imm)))) != 0#2)) (.pref h (lo 5 (0#4 ++ g)) b (IType.ofCode (hi 3 6 (t.code ++ (0#2 ++ imm)))) (lo 4 (lo 6 (t.code ++ (0#2 ++ imm))))) := rfl
  refine decode_of ((decodeWord_mk h 0x20A#10 0#9 (0#4 ++ g) b (t.code ++ (0#2 ++ imm))).trans ((class4 (by decide)).trans (e.trans ?_))) rfl rfl
  simp [off, hb, hw]

theorem stage (h : Hd) (g : GCode) (b : SReg) (fill : Bool) : Statement (.stage h g b fill) := by
  intro _ hw
  replace hw : (h.ok false .zero && decide (16 ≤ g.toNat) && decide (g.toNat < 24)) = true := hw
  try simp only [Bool.and_eq_true] at hw
  have hb := hdBad_ok hw.1.1
  try simp at hw
  have e : decodeMemory ⟨0x20B#10, h, 0#9, (0#4 ++ g), (0#1 ++ b), (0#8 ++ (ofBool fill))⟩ = .word (hdBad false .zero h ++ off 27 (0#9 != 0#9) ++ off 18 ((0#4 ++ g).toNat < 16 || 24 ≤ (0#4 ++ g).toNat) ++ off 9 (256 ≤ (0#1 ++ b).toNat) ++ off 1 ((hi 8 1 (0#8 ++ (ofBool fill))) != 0#8)) (.stage h (lo 5 (0#4 ++ g)) (lo 8 (0#1 ++ b)) ((lo 1 (0#8 ++ (ofBool fill))) == 1#1)) := rfl
  refine decode_of ((decodeWord_mk h 0x20B#10 0#9 (0#4 ++ g) (0#1 ++ b) (0#8 ++ (ofBool fill))).trans ((class4 (by decide)).trans (e.trans ?_))) rfl rfl
  simp [off, hb, hw]

theorem unstage (h : Hd) (g : GCode) : Statement (.unstage h g) := by
  intro _ hw
  replace hw : (h.ok false .zero && decide (16 ≤ g.toNat) && decide (g.toNat < 24)) = true := hw
  try simp only [Bool.and_eq_true] at hw
  have hb := hdBad_ok hw.1.1
  try simp at hw
  have e : decodeMemory ⟨0x20C#10, h, 0#9, (0#4 ++ g), 0#9, 0#9⟩ = .word (hdBad false .zero h ++ off 27 (0#9 != 0#9) ++ off 18 ((0#4 ++ g).toNat < 16 || 24 ≤ (0#4 ++ g).toNat) ++ off 9 (0#9 != 0#9) ++ off 0 (0#9 != 0#9)) (.unstage h (lo 5 (0#4 ++ g))) := rfl
  refine decode_of ((decodeWord_mk h 0x20C#10 0#9 (0#4 ++ g) 0#9 0#9).trans ((class4 (by decide)).trans (e.trans ?_))) rfl rfl
  simp [off, hb, hw]

theorem brw (h : Hd) (d : GCode) (a : SReg) (b : SReg) (tryIt : Bool) (k : Kind) : Statement (.brw h d a b tryIt k) := by
  intro _ hw
  replace hw : (h.ok false .sf && decide (d.toNat < 24)) = true := hw
  try simp only [Bool.and_eq_true] at hw
  have hb := hdBad_ok hw.1
  try simp at hw
  have e : decodeRegion ⟨0x280#10, h, (0#4 ++ d), (0#1 ++ a), (0#1 ++ b), (0#3 ++ (ofBool tryIt ++ (k.code ++ 0#3)))⟩ = .word (hdBad false .sf h ++ off 27 (24 ≤ (0#4 ++ d).toNat) ++ off 18 (256 ≤ (0#1 ++ a).toNat) ++ off 9 (256 ≤ (0#1 ++ b).toNat) ++ off 6 ((hi 3 6 (0#3 ++ (ofBool tryIt ++ (k.code ++ 0#3)))) != 0#3) ++ off 3 (Kind.bad (hi 2 3 (lo 5 (lo 6 (0#3 ++ (ofBool tryIt ++ (k.code ++ 0#3))))))) ++ off 0 ((lo 3 (lo 5 (lo 6 (0#3 ++ (ofBool tryIt ++ (k.code ++ 0#3)))))) != 0#3)) (.brw h (lo 5 (0#4 ++ d)) (lo 8 (0#1 ++ a)) (lo 8 (0#1 ++ b)) ((hi 1 5 (lo 6 (0#3 ++ (ofBool tryIt ++ (k.code ++ 0#3))))) == 1#1) (Kind.ofCode (hi 2 3 (lo 5 (lo 6 (0#3 ++ (ofBool tryIt ++ (k.code ++ 0#3)))))))) := rfl
  refine decode_of ((decodeWord_mk h 0x280#10 (0#4 ++ d) (0#1 ++ a) (0#1 ++ b) (0#3 ++ (ofBool tryIt ++ (k.code ++ 0#3)))).trans ((class5 (by decide)).trans (e.trans ?_))) rfl rfl
  simp [off, hb, hw]

theorem rbrw (h : Hd) (d : GCode) (a : GCode) (b : SReg) (k : Kind) : Statement (.rbrw h d a b k) := by
  intro _ hw
  replace hw : (h.ok false .zero && decide (d.toNat < 24) && decide (a.toNat < 24) && decide (b.toNat < 255) && !(k == Kind.a)) = true := hw
  try simp only [Bool.and_eq_true] at hw
  have hb := hdBad_ok hw.1.1.1.1
  try simp at hw
  have e : decodeRegion ⟨0x281#10, h, (0#4 ++ d), (0#4 ++ a), (0#1 ++ b), (0#7 ++ k.code)⟩ = .word (hdBad false .zero h ++ off 27 (24 ≤ (0#4 ++ d).toNat) ++ off 18 (24 ≤ (0#4 ++ a).toNat) ++ off 9 (255 ≤ (0#1 ++ b).toNat) ++ off 2 ((hi 7 2 (0#7 ++ k.code)) != 0#7) ++ off 0 (Kind.bad (lo 2 (0#7 ++ k.code))) ++ off 0 ((Kind.ofCode (lo 2 (0#7 ++ k.code))) == Kind.a)) (.rbrw h (lo 5 (0#4 ++ d)) (lo 5 (0#4 ++ a)) (lo 8 (0#1 ++ b)) (Kind.ofCode (lo 2 (0#7 ++ k.code)))) := rfl
  refine decode_of ((decodeWord_mk h 0x281#10 (0#4 ++ d) (0#4 ++ a) (0#1 ++ b) (0#7 ++ k.code)).trans ((class5 (by decide)).trans (e.trans ?_))) rfl rfl
  simp [off, hb, hw]

theorem split (h : Hd) (d : GCode) (a : GCode) (toRegs : Bool) (k : BitVec 6) : Statement (.split h d a toRegs k) := by
  intro _ hw
  replace hw : (h.ok false .zero && decide (d.toNat < 24) && decide (a.toNat < 24) && !(k.toNat < 2 || 32 < k.toNat) && !(splitBad toRegs d k)) = true := hw
  try simp only [Bool.and_eq_true] at hw
  have hb := hdBad_ok hw.1.1.1.1
  try simp at hw
  have e : decodeRegion ⟨0x282#10, h, (0#4 ++ d), (0#4 ++ a), 0#9, (ofBool toRegs ++ (0#2 ++ k))⟩ = .word (hdBad false .zero h ++ off 27 (24 ≤ (0#4 ++ d).toNat) ++ off 18 (24 ≤ (0#4 ++ a).toNat) ++ off 9 (0#9 != 0#9) ++ off 6 ((hi 2 6 (lo 8 (ofBool toRegs ++ (0#2 ++ k)))) != 0#2) ++ off 0 ((lo 6 (lo 8 (ofBool toRegs ++ (0#2 ++ k)))).toNat < 2 || 32 < (lo 6 (lo 8 (ofBool toRegs ++ (0#2 ++ k)))).toNat) ++ off 27 (splitBad ((hi 1 8 (ofBool toRegs ++ (0#2 ++ k))) == 1#1) (lo 5 (0#4 ++ d)) (lo 6 (lo 8 (ofBool toRegs ++ (0#2 ++ k)))))) (.split h (lo 5 (0#4 ++ d)) (lo 5 (0#4 ++ a)) ((hi 1 8 (ofBool toRegs ++ (0#2 ++ k))) == 1#1) (lo 6 (lo 8 (ofBool toRegs ++ (0#2 ++ k))))) := rfl
  refine decode_of ((decodeWord_mk h 0x282#10 (0#4 ++ d) (0#4 ++ a) 0#9 (ofBool toRegs ++ (0#2 ++ k))).trans ((class5 (by decide)).trans (e.trans ?_))) rfl rfl
  simp [off, hb, hw]

theorem join (h : Hd) (a : GCode) : Statement (.join h a) := by
  intro _ hw
  replace hw : (h.ok false .zero && decide (a.toNat < 24)) = true := hw
  try simp only [Bool.and_eq_true] at hw
  have hb := hdBad_ok hw.1
  try simp at hw
  have e : decodeRegion ⟨0x283#10, h, 0#9, (0#4 ++ a), 0#9, 0#9⟩ = .word (hdBad false .zero h ++ off 27 (0#9 != 0#9) ++ off 18 (24 ≤ (0#4 ++ a).toNat) ++ off 9 (0#9 != 0#9) ++ off 0 (0#9 != 0#9)) (.join h (lo 5 (0#4 ++ a))) := rfl
  refine decode_of ((decodeWord_mk h 0x283#10 0#9 (0#4 ++ a) 0#9 0#9).trans ((class5 (by decide)).trans (e.trans ?_))) rfl rfl
  simp [off, hb, hw]

theorem rtn (h : Hd) (a : GCode) : Statement (.rtn h a) := by
  intro _ hw
  replace hw : (h.ok false .zero && decide (a.toNat < 24)) = true := hw
  try simp only [Bool.and_eq_true] at hw
  have hb := hdBad_ok hw.1
  try simp at hw
  have e : decodeRegion ⟨0x284#10, h, 0#9, (0#4 ++ a), 0#9, 0#9⟩ = .word (hdBad false .zero h ++ off 27 (0#9 != 0#9) ++ off 18 (24 ≤ (0#4 ++ a).toNat) ++ off 9 (0#9 != 0#9) ++ off 0 (0#9 != 0#9)) (.rtn h (lo 5 (0#4 ++ a))) := rfl
  refine decode_of ((decodeWord_mk h 0x284#10 0#9 (0#4 ++ a) 0#9 0#9).trans ((class5 (by decide)).trans (e.trans ?_))) rfl rfl
  simp [off, hb, hw]

theorem rgq (h : Hd) (d : SReg) (a : GCode) : Statement (.rgq h d a) := by
  intro _ hw
  replace hw : (h.ok false .zero && decide (1 ≤ d.toNat) && decide (d.toNat < 254) && decide (a.toNat < 24)) = true := hw
  try simp only [Bool.and_eq_true] at hw
  have hb := hdBad_ok hw.1.1.1
  try simp at hw
  have e : decodeRegion ⟨0x285#10, h, (0#1 ++ d), (0#4 ++ a), 0#9, 0#9⟩ = .word (hdBad false .zero h ++ off 27 ((0#1 ++ d).toNat < 1 || 254 ≤ (0#1 ++ d).toNat) ++ off 18 (24 ≤ (0#4 ++ a).toNat) ++ off 9 (0#9 != 0#9) ++ off 0 (0#9 != 0#9)) (.rgq h (lo 8 (0#1 ++ d)) (lo 5 (0#4 ++ a))) := rfl
  refine decode_of ((decodeWord_mk h 0x285#10 (0#1 ++ d) (0#4 ++ a) 0#9 0#9).trans ((class5 (by decide)).trans (e.trans ?_))) rfl rfl
  simp [off, hb, hw]; omega

theorem rgmv (h : Hd) (d : GCode) (a : GCode) (b : SReg) : Statement (.rgmv h d a b) := by
  intro _ hw
  replace hw : (h.ok false .zero && decide (d.toNat < 24) && decide (a.toNat < 24) && !(16 ≤ d.toNat && b != 0#8)) = true := hw
  try simp only [Bool.and_eq_true] at hw
  have hb := hdBad_ok hw.1.1.1
  try simp at hw
  have e : decodeRegion ⟨0x286#10, h, (0#4 ++ d), (0#4 ++ a), (0#1 ++ b), 0#9⟩ = .word (hdBad false .zero h ++ off 27 (24 ≤ (0#4 ++ d).toNat) ++ off 18 (24 ≤ (0#4 ++ a).toNat) ++ off 9 (256 ≤ (0#1 ++ b).toNat) ++ off 0 (0#9 != 0#9) ++ off 9 (16 ≤ (lo 5 (0#4 ++ d)).toNat && (lo 8 (0#1 ++ b)) != 0#8)) (.rgmv h (lo 5 (0#4 ++ d)) (lo 5 (0#4 ++ a)) (lo 8 (0#1 ++ b))) := rfl
  refine decode_of ((decodeWord_mk h 0x286#10 (0#4 ++ d) (0#4 ++ a) (0#1 ++ b) 0#9).trans ((class5 (by decide)).trans (e.trans ?_))) rfl rfl
  simp [off, hb, hw]; clear e; grind

theorem fence (h : Hd) (sc : Scope) : Statement (.fence h sc) := by
  intro _ hw
  replace hw : (h.ok false .zero) = true := hw
  try simp only [Bool.and_eq_true] at hw
  have hb := hdBad_ok hw
  try simp at hw
  have e : decodeRegion ⟨0x290#10, h, 0#9, 0#9, 0#9, (0#6 ++ sc.code)⟩ = .word (hdBad false .zero h ++ off 27 (0#9 != 0#9) ++ off 18 (0#9 != 0#9) ++ off 9 (0#9 != 0#9) ++ off 3 ((hi 6 3 (0#6 ++ sc.code)) != 0#6) ++ off 0 (Scope.bad (lo 3 (0#6 ++ sc.code)))) (.fence h (Scope.ofCode (lo 3 (0#6 ++ sc.code)))) := rfl
  refine decode_of ((decodeWord_mk h 0x290#10 0#9 0#9 0#9 (0#6 ++ sc.code)).trans ((class5 (by decide)).trans (e.trans ?_))) rfl rfl
  simp [off, hb, hw]

theorem stmpw (h : Hd) : Statement (.stmpw h) := by
  intro _ hw
  replace hw : (h.ok false .zero) = true := hw
  try simp only [Bool.and_eq_true] at hw
  have hb := hdBad_ok hw
  try simp at hw
  have e : decodeRegion ⟨0x291#10, h, 0#9, 0#9, 0#9, 0#9⟩ = .word (hdBad false .zero h ++ off 27 (0#9 != 0#9) ++ off 18 (0#9 != 0#9) ++ off 9 (0#9 != 0#9) ++ off 0 (0#9 != 0#9)) (.stmpw h) := rfl
  refine decode_of ((decodeWord_mk h 0x291#10 0#9 0#9 0#9 0#9).trans ((class5 (by decide)).trans (e.trans ?_))) rfl rfl
  simp [off, hb, hw]

theorem stmpp (h : Hd) : Statement (.stmpp h) := by
  intro _ hw
  replace hw : (h.ok false .zero) = true := hw
  try simp only [Bool.and_eq_true] at hw
  have hb := hdBad_ok hw
  try simp at hw
  have e : decodeRegion ⟨0x292#10, h, 0#9, 0#9, 0#9, 0#9⟩ = .word (hdBad false .zero h ++ off 27 (0#9 != 0#9) ++ off 18 (0#9 != 0#9) ++ off 9 (0#9 != 0#9) ++ off 0 (0#9 != 0#9)) (.stmpp h) := rfl
  refine decode_of ((decodeWord_mk h 0x292#10 0#9 0#9 0#9 0#9).trans ((class5 (by decide)).trans (e.trans ?_))) rfl rfl
  simp [off, hb, hw]

theorem cseal (h : Hd) (d : SReg) : Statement (.cseal h d) := by
  intro _ hw
  replace hw : (h.ok false .zero) = true := hw
  try simp only [Bool.and_eq_true] at hw
  have hb := hdBad_ok hw
  try simp at hw
  have e : decodeRegion ⟨0x293#10, h, (0#1 ++ d), 0#9, 0#9, 0#9⟩ = .word (hdBad false .zero h ++ off 27 (256 ≤ (0#1 ++ d).toNat) ++ off 18 (0#9 != 0#9) ++ off 9 (0#9 != 0#9) ++ off 0 (0#9 != 0#9)) (.cseal h (lo 8 (0#1 ++ d))) := rfl
  refine decode_of ((decodeWord_mk h 0x293#10 (0#1 ++ d) 0#9 0#9 0#9).trans ((class5 (by decide)).trans (e.trans ?_))) rfl rfl
  simp [off, hb, hw]

theorem cwait (h : Hd) (a : SReg) : Statement (.cwait h a) := by
  intro _ hw
  replace hw : (h.ok false .zero) = true := hw
  try simp only [Bool.and_eq_true] at hw
  have hb := hdBad_ok hw
  try simp at hw
  have e : decodeRegion ⟨0x294#10, h, 0#9, (0#1 ++ a), 0#9, 0#9⟩ = .word (hdBad false .zero h ++ off 27 (0#9 != 0#9) ++ off 18 (256 ≤ (0#1 ++ a).toNat) ++ off 9 (0#9 != 0#9) ++ off 0 (0#9 != 0#9)) (.cwait h (lo 8 (0#1 ++ a))) := rfl
  refine decode_of ((decodeWord_mk h 0x294#10 0#9 (0#1 ++ a) 0#9 0#9).trans ((class5 (by decide)).trans (e.trans ?_))) rfl rfl
  simp [off, hb, hw]

theorem binit (h : Hd) (a : SReg) (name : BitVec 11) : Statement (.binit h a name) := by
  intro _ hw
  replace hw : (h.ok false .zero) = true := hw
  try simp only [Bool.and_eq_true] at hw
  have hb := hdBad_ok hw
  try simp at hw
  have e : decodeEngine ⟨0x300#10, h, 0#9, (0#1 ++ a), (hi 9 9 (0#7 ++ name)), (lo 9 (0#7 ++ name))⟩ = .word (hdBad false .zero h ++ off 27 (0#9 != 0#9) ++ off 18 (256 ≤ (0#1 ++ a).toNat) ++ off 11 ((hi 7 11 ((hi 9 9 (0#7 ++ name)) ++ (lo 9 (0#7 ++ name)))) != 0#7)) (.binit h (lo 8 (0#1 ++ a)) (lo 11 ((hi 9 9 (0#7 ++ name)) ++ (lo 9 (0#7 ++ name))))) := rfl
  refine decode_of ((decodeWord_mk h 0x300#10 0#9 (0#1 ++ a) (hi 9 9 (0#7 ++ name)) (lo 9 (0#7 ++ name))).trans ((class6 (by decide)).trans (e.trans ?_))) rfl rfl
  simp [off, hb, hw]

theorem barr (h : Hd) (d : SReg) (wait : Bool) (name : BitVec 11) : Statement (.barr h d wait name) := by
  intro _ hw
  replace hw : (h.ok false .zero) = true := hw
  try simp only [Bool.and_eq_true] at hw
  have hb := hdBad_ok hw
  try simp at hw
  have e : decodeEngine ⟨0x301#10, h, (0#1 ++ d), (0#8 ++ (ofBool wait)), (hi 9 9 (0#7 ++ name)), (lo 9 (0#7 ++ name))⟩ = .word (hdBad false .zero h ++ off 27 (256 ≤ (0#1 ++ d).toNat) ++ off 19 ((hi 8 1 (0#8 ++ (ofBool wait))) != 0#8) ++ off 11 ((hi 7 11 ((hi 9 9 (0#7 ++ name)) ++ (lo 9 (0#7 ++ name)))) != 0#7)) (.barr h (lo 8 (0#1 ++ d)) ((lo 1 (0#8 ++ (ofBool wait))) == 1#1) (lo 11 ((hi 9 9 (0#7 ++ name)) ++ (lo 9 (0#7 ++ name))))) := rfl
  refine decode_of ((decodeWord_mk h 0x301#10 (0#1 ++ d) (0#8 ++ (ofBool wait)) (hi 9 9 (0#7 ++ name)) (lo 9 (0#7 ++ name))).trans ((class6 (by decide)).trans (e.trans ?_))) rfl rfl
  simp [off, hb, hw]

theorem bexp (h : Hd) (a : SReg) (name : BitVec 11) : Statement (.bexp h a name) := by
  intro _ hw
  replace hw : (h.ok false .zero) = true := hw
  try simp only [Bool.and_eq_true] at hw
  have hb := hdBad_ok hw
  try simp at hw
  have e : decodeEngine ⟨0x302#10, h, 0#9, (0#1 ++ a), (hi 9 9 (0#7 ++ name)), (lo 9 (0#7 ++ name))⟩ = .word (hdBad false .zero h ++ off 27 (0#9 != 0#9) ++ off 18 (256 ≤ (0#1 ++ a).toNat) ++ off 11 ((hi 7 11 ((hi 9 9 (0#7 ++ name)) ++ (lo 9 (0#7 ++ name)))) != 0#7)) (.bexp h (lo 8 (0#1 ++ a)) (lo 11 ((hi 9 9 (0#7 ++ name)) ++ (lo 9 (0#7 ++ name))))) := rfl
  refine decode_of ((decodeWord_mk h 0x302#10 0#9 (0#1 ++ a) (hi 9 9 (0#7 ++ name)) (lo 9 (0#7 ++ name))).trans ((class6 (by decide)).trans (e.trans ?_))) rfl rfl
  simp [off, hb, hw]

theorem bwait (h : Hd) (a : SReg) (name : BitVec 11) : Statement (.bwait h a name) := by
  intro _ hw
  replace hw : (h.ok false .zero) = true := hw
  try simp only [Bool.and_eq_true] at hw
  have hb := hdBad_ok hw
  try simp at hw
  have e : decodeEngine ⟨0x303#10, h, 0#9, (0#1 ++ a), (hi 9 9 (0#7 ++ name)), (lo 9 (0#7 ++ name))⟩ = .word (hdBad false .zero h ++ off 27 (0#9 != 0#9) ++ off 18 (256 ≤ (0#1 ++ a).toNat) ++ off 11 ((hi 7 11 ((hi 9 9 (0#7 ++ name)) ++ (lo 9 (0#7 ++ name)))) != 0#7)) (.bwait h (lo 8 (0#1 ++ a)) (lo 11 ((hi 9 9 (0#7 ++ name)) ++ (lo 9 (0#7 ++ name))))) := rfl
  refine decode_of ((decodeWord_mk h 0x303#10 0#9 (0#1 ++ a) (hi 9 9 (0#7 ++ name)) (lo 9 (0#7 ++ name))).trans ((class6 (by decide)).trans (e.trans ?_))) rfl rfl
  simp [off, hb, hw]

theorem btest (h : Hd) (d : SReg) (a : SReg) (name : BitVec 11) : Statement (.btest h d a name) := by
  intro _ hw
  replace hw : (h.ok false .sf) = true := hw
  try simp only [Bool.and_eq_true] at hw
  have hb := hdBad_ok hw
  try simp at hw
  have e : decodeEngine ⟨0x304#10, h, (0#1 ++ d), (0#1 ++ a), (hi 9 9 (0#7 ++ name)), (lo 9 (0#7 ++ name))⟩ = .word (hdBad false .sf h ++ off 27 (256 ≤ (0#1 ++ d).toNat) ++ off 18 (256 ≤ (0#1 ++ a).toNat) ++ off 11 ((hi 7 11 ((hi 9 9 (0#7 ++ name)) ++ (lo 9 (0#7 ++ name)))) != 0#7)) (.btest h (lo 8 (0#1 ++ d)) (lo 8 (0#1 ++ a)) (lo 11 ((hi 9 9 (0#7 ++ name)) ++ (lo 9 (0#7 ++ name))))) := rfl
  refine decode_of ((decodeWord_mk h 0x304#10 (0#1 ++ d) (0#1 ++ a) (hi 9 9 (0#7 ++ name)) (lo 9 (0#7 ++ name))).trans ((class6 (by decide)).trans (e.trans ?_))) rfl rfl
  simp [off, hb, hw]

theorem chinit (h : Hd) (d : BitVec 4) (a : SReg) : Statement (.chinit h d a) := by
  intro _ hw
  replace hw : (h.ok false .zero) = true := hw
  try simp only [Bool.and_eq_true] at hw
  have hb := hdBad_ok hw
  try simp at hw
  have e : decodeEngine ⟨0x310#10, h, (0#5 ++ d), (0#1 ++ a), 0#9, 0#9⟩ = .word (hdBad false .zero h ++ off 27 (16 ≤ (0#5 ++ d).toNat) ++ off 18 (256 ≤ (0#1 ++ a).toNat) ++ off 9 (0#9 != 0#9) ++ off 0 (0#9 != 0#9)) (.chinit h (lo 4 (0#5 ++ d)) (lo 8 (0#1 ++ a))) := rfl
  refine decode_of ((decodeWord_mk h 0x310#10 (0#5 ++ d) (0#1 ++ a) 0#9 0#9).trans ((class6 (by decide)).trans (e.trans ?_))) rfl rfl
  simp [off, hb, hw]

theorem chpush (h : Hd) (a : VCode) (b : SReg) : Statement (.chpush h a b) := by
  intro _ hw
  replace hw : (h.ok false .zero && decide (a.toNat < 384)) = true := hw
  try simp only [Bool.and_eq_true] at hw
  have hb := hdBad_ok hw.1
  try simp at hw
  have e : decodeEngine ⟨0x311#10, h, 0#9, a, (0#1 ++ b), 0#9⟩ = .word (hdBad false .zero h ++ off 27 (0#9 != 0#9) ++ off 18 (384 ≤ a.toNat) ++ off 9 (256 ≤ (0#1 ++ b).toNat) ++ off 0 (0#9 != 0#9)) (.chpush h a (lo 8 (0#1 ++ b))) := rfl
  refine decode_of ((decodeWord_mk h 0x311#10 0#9 a (0#1 ++ b) 0#9).trans ((class6 (by decide)).trans (e.trans ?_))) rfl rfl
  simp [off, hb, hw]

theorem chpop (h : Hd) (d : VCode) (a : BitVec 4) : Statement (.chpop h d a) := by
  intro _ hw
  replace hw : (h.ok false .zero && decide (d.toNat < 384)) = true := hw
  try simp only [Bool.and_eq_true] at hw
  have hb := hdBad_ok hw.1
  try simp at hw
  have e : decodeEngine ⟨0x312#10, h, d, (0#5 ++ a), 0#9, 0#9⟩ = .word (hdBad false .zero h ++ off 27 (384 ≤ d.toNat) ++ off 18 (16 ≤ (0#5 ++ a).toNat) ++ off 9 (0#9 != 0#9) ++ off 0 (0#9 != 0#9)) (.chpop h d (lo 4 (0#5 ++ a))) := rfl
  refine decode_of ((decodeWord_mk h 0x312#10 d (0#5 ++ a) 0#9 0#9).trans ((class6 (by decide)).trans (e.trans ?_))) rfl rfl
  simp [off, hb, hw]

theorem chstat (h : Hd) (d : SReg) (a : BitVec 4) : Statement (.chstat h d a) := by
  intro _ hw
  replace hw : (h.ok false .zero) = true := hw
  try simp only [Bool.and_eq_true] at hw
  have hb := hdBad_ok hw
  try simp at hw
  have e : decodeEngine ⟨0x313#10, h, (0#1 ++ d), (0#5 ++ a), 0#9, 0#9⟩ = .word (hdBad false .zero h ++ off 27 (256 ≤ (0#1 ++ d).toNat) ++ off 18 (16 ≤ (0#5 ++ a).toNat) ++ off 9 (0#9 != 0#9) ++ off 0 (0#9 != 0#9)) (.chstat h (lo 8 (0#1 ++ d)) (lo 4 (0#5 ++ a))) := rfl
  refine decode_of ((decodeWord_mk h 0x313#10 (0#1 ++ d) (0#5 ++ a) 0#9 0#9).trans ((class6 (by decide)).trans (e.trans ?_))) rfl rfl
  simp [off, hb, hw]

theorem copy (h : Hd) (d : Endp) (a : Endp) (b : SReg) (c : SReg) : Statement (.copy h d a b c) := by
  intro _ hw
  replace hw : (h.ok false .zero && d.ok true && a.ok true && decide (b.toNat < 254)) = true := hw
  try simp only [Bool.and_eq_true] at hw
  have hb := hdBad_ok hw.1.1.1
  try simp at hw
  have e : decodeEngine ⟨0x314#10, h, d.code, a.code, (0#1 ++ b), (0#1 ++ c)⟩ = .word (hdBad false .zero h ++ off 27 (endpBad true d.code) ++ off 18 (endpBad true a.code) ++ off 9 (254 ≤ (0#1 ++ b).toNat) ++ off 0 (256 ≤ (0#1 ++ c).toNat)) (.copy h (Endp.ofCode d.code) (Endp.ofCode a.code) (lo 8 (0#1 ++ b)) (lo 8 (0#1 ++ c))) := rfl
  refine decode_of ((decodeWord_mk h 0x314#10 d.code a.code (0#1 ++ b) (0#1 ++ c)).trans ((class6 (by decide)).trans (e.trans ?_))) rfl rfl
  simp [off, hb, hw, endp_ok hw.1.1.2, endp_ok hw.1.2, endp_rt _ _ hw.1.1.2, endp_rt _ _ hw.1.2]

theorem copy2 (h : Hd) (d : Endp) (a : Endp) (b : SReg) (c : SReg) : Statement (.copy2 h d a b c) := by
  intro _ hw
  replace hw : (h.ok false .zero && d.ok true && a.ok true && decide (b.toNat < 252)) = true := hw
  try simp only [Bool.and_eq_true] at hw
  have hb := hdBad_ok hw.1.1.1
  try simp at hw
  have e : decodeEngine ⟨0x315#10, h, d.code, a.code, (0#1 ++ b), (0#1 ++ c)⟩ = .word (hdBad false .zero h ++ off 27 (endpBad true d.code) ++ off 18 (endpBad true a.code) ++ off 9 (252 ≤ (0#1 ++ b).toNat) ++ off 0 (256 ≤ (0#1 ++ c).toNat)) (.copy2 h (Endp.ofCode d.code) (Endp.ofCode a.code) (lo 8 (0#1 ++ b)) (lo 8 (0#1 ++ c))) := rfl
  refine decode_of ((decodeWord_mk h 0x315#10 d.code a.code (0#1 ++ b) (0#1 ++ c)).trans ((class6 (by decide)).trans (e.trans ?_))) rfl rfl
  simp [off, hb, hw, endp_ok hw.1.1.2, endp_ok hw.1.2, endp_rt _ _ hw.1.1.2, endp_rt _ _ hw.1.2]

theorem gath (h : Hd) (d : Endp) (a : Endp) (b : SReg) (c : SReg) : Statement (.gath h d a b c) := by
  intro _ hw
  replace hw : (h.ok false .zero && d.ok true && a.ok true && decide (b.toNat < 254)) = true := hw
  try simp only [Bool.and_eq_true] at hw
  have hb := hdBad_ok hw.1.1.1
  try simp at hw
  have e : decodeEngine ⟨0x316#10, h, d.code, a.code, (0#1 ++ b), (0#1 ++ c)⟩ = .word (hdBad false .zero h ++ off 27 (endpBad true d.code) ++ off 18 (endpBad true a.code) ++ off 9 (254 ≤ (0#1 ++ b).toNat) ++ off 0 (256 ≤ (0#1 ++ c).toNat)) (.gath h (Endp.ofCode d.code) (Endp.ofCode a.code) (lo 8 (0#1 ++ b)) (lo 8 (0#1 ++ c))) := rfl
  refine decode_of ((decodeWord_mk h 0x316#10 d.code a.code (0#1 ++ b) (0#1 ++ c)).trans ((class6 (by decide)).trans (e.trans ?_))) rfl rfl
  simp [off, hb, hw, endp_ok hw.1.1.2, endp_ok hw.1.2, endp_rt _ _ hw.1.1.2, endp_rt _ _ hw.1.2]

theorem scat (h : Hd) (d : Endp) (a : Endp) (b : SReg) (c : SReg) : Statement (.scat h d a b c) := by
  intro _ hw
  replace hw : (h.ok false .zero && d.ok true && a.ok true && decide (b.toNat < 254)) = true := hw
  try simp only [Bool.and_eq_true] at hw
  have hb := hdBad_ok hw.1.1.1
  try simp at hw
  have e : decodeEngine ⟨0x317#10, h, d.code, a.code, (0#1 ++ b), (0#1 ++ c)⟩ = .word (hdBad false .zero h ++ off 27 (endpBad true d.code) ++ off 18 (endpBad true a.code) ++ off 9 (254 ≤ (0#1 ++ b).toNat) ++ off 0 (256 ≤ (0#1 ++ c).toNat)) (.scat h (Endp.ofCode d.code) (Endp.ofCode a.code) (lo 8 (0#1 ++ b)) (lo 8 (0#1 ++ c))) := rfl
  refine decode_of ((decodeWord_mk h 0x317#10 d.code a.code (0#1 ++ b) (0#1 ++ c)).trans ((class6 (by decide)).trans (e.trans ?_))) rfl rfl
  simp [off, hb, hw, endp_ok hw.1.1.2, endp_ok hw.1.2, endp_rt _ _ hw.1.1.2, endp_rt _ _ hw.1.2]

theorem route (h : Hd) (d : SReg) (a : SReg) (b : SReg) (c : SReg) : Statement (.route h d a b c) := by
  intro _ hw
  replace hw : (h.ok false .zero && decide (a.toNat < 254)) = true := hw
  try simp only [Bool.and_eq_true] at hw
  have hb := hdBad_ok hw.1
  try simp at hw
  have e : decodeEngine ⟨0x318#10, h, (0#1 ++ d), (0#1 ++ a), (0#1 ++ b), (0#1 ++ c)⟩ = .word (hdBad false .zero h ++ off 27 (256 ≤ (0#1 ++ d).toNat) ++ off 18 (254 ≤ (0#1 ++ a).toNat) ++ off 9 (256 ≤ (0#1 ++ b).toNat) ++ off 0 (256 ≤ (0#1 ++ c).toNat)) (.route h (lo 8 (0#1 ++ d)) (lo 8 (0#1 ++ a)) (lo 8 (0#1 ++ b)) (lo 8 (0#1 ++ c))) := rfl
  refine decode_of ((decodeWord_mk h 0x318#10 (0#1 ++ d) (0#1 ++ a) (0#1 ++ b) (0#1 ++ c)).trans ((class6 (by decide)).trans (e.trans ?_))) rfl rfl
  simp [off, hb, hw]

theorem cvinit (h : Hd) (d : BitVec 4) (a : SReg) : Statement (.cvinit h d a) := by
  intro _ hw
  replace hw : (h.ok false .zero) = true := hw
  try simp only [Bool.and_eq_true] at hw
  have hb := hdBad_ok hw
  try simp at hw
  have e : decodeEngine ⟨0x320#10, h, (0#5 ++ d), (0#1 ++ a), 0#9, 0#9⟩ = .word (hdBad false .zero h ++ off 27 (16 ≤ (0#5 ++ d).toNat) ++ off 18 (256 ≤ (0#1 ++ a).toNat) ++ off 9 (0#9 != 0#9) ++ off 0 (0#9 != 0#9)) (.cvinit h (lo 4 (0#5 ++ d)) (lo 8 (0#1 ++ a))) := rfl
  refine decode_of ((decodeWord_mk h 0x320#10 (0#5 ++ d) (0#1 ++ a) 0#9 0#9).trans ((class6 (by decide)).trans (e.trans ?_))) rfl rfl
  simp [off, hb, hw]

theorem mma (h : Hd) (clr : Bool) (base : BitVec 6) (ob : BitVec 3) (ld : BitVec 2) (cv : BitVec 4) (b : SReg) (la : BitVec 2) (lb : BitVec 2) (fmt : MFmt) : Statement (.mma h clr base ob ld cv b la lb fmt) := by
  intro _ hw
  replace hw : (h.ok false .zero && !(mmaLenBad fmt la lb)) = true := hw
  try simp only [Bool.and_eq_true] at hw
  have hb := hdBad_ok hw.1
  try simp at hw
  have e : decodeEngine ⟨0x321#10, h, (0#2 ++ (ofBool clr ++ base)), (ob ++ (ld ++ cv)), (0#1 ++ b), (la ++ (lb ++ (0#2 ++ fmt.code)))⟩ = .word (hdBad false .zero h ++ off 34 ((hi 2 7 (0#2 ++ (ofBool clr ++ base))) != 0#2) ++ off 9 (256 ≤ (0#1 ++ b).toNat) ++ off 3 ((hi 2 3 (lo 5 (lo 7 (la ++ (lb ++ (0#2 ++ fmt.code)))))) != 0#2) ++ off 0 (MFmt.bad (lo 3 (lo 5 (lo 7 (la ++ (lb ++ (0#2 ++ fmt.code))))))) ++ off 0 (mmaLenBad (MFmt.ofCode (lo 3 (lo 5 (lo 7 (la ++ (lb ++ (0#2 ++ fmt.code))))))) (hi 2 7 (la ++ (lb ++ (0#2 ++ fmt.code)))) (hi 2 5 (lo 7 (la ++ (lb ++ (0#2 ++ fmt.code))))))) (.mma h ((hi 1 6 (lo 7 (0#2 ++ (ofBool clr ++ base)))) == 1#1) (lo 6 (lo 7 (0#2 ++ (ofBool clr ++ base)))) (hi 3 6 (ob ++ (ld ++ cv))) (hi 2 4 (lo 6 (ob ++ (ld ++ cv)))) (lo 4 (lo 6 (ob ++ (ld ++ cv)))) (lo 8 (0#1 ++ b)) (hi 2 7 (la ++ (lb ++ (0#2 ++ fmt.code)))) (hi 2 5 (lo 7 (la ++ (lb ++ (0#2 ++ fmt.code))))) (MFmt.ofCode (lo 3 (lo 5 (lo 7 (la ++ (lb ++ (0#2 ++ fmt.code)))))))) := rfl
  refine decode_of ((decodeWord_mk h 0x321#10 (0#2 ++ (ofBool clr ++ base)) (ob ++ (ld ++ cv)) (0#1 ++ b) (la ++ (lb ++ (0#2 ++ fmt.code)))).trans ((class6 (by decide)).trans (e.trans ?_))) rfl rfl
  simp [off, hb, hw]

theorem mwait (h : Hd) : Statement (.mwait h) := by
  intro _ hw
  replace hw : (h.ok false .zero) = true := hw
  try simp only [Bool.and_eq_true] at hw
  have hb := hdBad_ok hw
  try simp at hw
  have e : decodeEngine ⟨0x322#10, h, 0#9, 0#9, 0#9, 0#9⟩ = .word (hdBad false .zero h ++ off 27 (0#9 != 0#9) ++ off 18 (0#9 != 0#9) ++ off 9 (0#9 != 0#9) ++ off 0 (0#9 != 0#9)) (.mwait h) := rfl
  refine decode_of ((decodeWord_mk h 0x322#10 0#9 0#9 0#9 0#9).trans ((class6 (by decide)).trans (e.trans ?_))) rfl rfl
  simp [off, hb, hw]

theorem lace (h : Hd) (d : BitVec 2) (a : SReg) : Statement (.lace h d a) := by
  intro _ hw
  replace hw : (h.ok false .zero && decide (a.toNat < 254)) = true := hw
  try simp only [Bool.and_eq_true] at hw
  have hb := hdBad_ok hw.1
  try simp at hw
  have e : decodeEngine ⟨0x323#10, h, (0#7 ++ d), (0#1 ++ a), 0#9, 0#9⟩ = .word (hdBad false .zero h ++ off 27 (4 ≤ (0#7 ++ d).toNat) ++ off 18 (254 ≤ (0#1 ++ a).toNat) ++ off 9 (0#9 != 0#9) ++ off 0 (0#9 != 0#9)) (.lace h (lo 2 (0#7 ++ d)) (lo 8 (0#1 ++ a))) := rfl
  refine decode_of ((decodeWord_mk h 0x323#10 (0#7 ++ d) (0#1 ++ a) 0#9 0#9).trans ((class6 (by decide)).trans (e.trans ?_))) rfl rfl
  simp [off, hb, hw]

theorem obres (h : Hd) (d : BitVec 3) (a : SReg) (b : SReg) : Statement (.obres h d a b) := by
  intro _ hw
  replace hw : (h.ok false .zero) = true := hw
  try simp only [Bool.and_eq_true] at hw
  have hb := hdBad_ok hw
  try simp at hw
  have e : decodeEngine ⟨0x324#10, h, (0#6 ++ d), (0#1 ++ a), (0#1 ++ b), 0#9⟩ = .word (hdBad false .zero h ++ off 27 (8 ≤ (0#6 ++ d).toNat) ++ off 18 (256 ≤ (0#1 ++ a).toNat) ++ off 9 (256 ≤ (0#1 ++ b).toNat) ++ off 0 (0#9 != 0#9)) (.obres h (lo 3 (0#6 ++ d)) (lo 8 (0#1 ++ a)) (lo 8 (0#1 ++ b))) := rfl
  refine decode_of ((decodeWord_mk h 0x324#10 (0#6 ++ d) (0#1 ++ a) (0#1 ++ b) 0#9).trans ((class6 (by decide)).trans (e.trans ?_))) rfl rfl
  simp [off, hb, hw]

theorem obld (h : Hd) (d : BitVec 3) (a : SReg) (b : SReg) : Statement (.obld h d a b) := by
  intro _ hw
  replace hw : (h.ok false .zero) = true := hw
  try simp only [Bool.and_eq_true] at hw
  have hb := hdBad_ok hw
  try simp at hw
  have e : decodeEngine ⟨0x325#10, h, (0#6 ++ d), (0#1 ++ a), (0#1 ++ b), 0#9⟩ = .word (hdBad false .zero h ++ off 27 (8 ≤ (0#6 ++ d).toNat) ++ off 18 (256 ≤ (0#1 ++ a).toNat) ++ off 9 (256 ≤ (0#1 ++ b).toNat) ++ off 0 (0#9 != 0#9)) (.obld h (lo 3 (0#6 ++ d)) (lo 8 (0#1 ++ a)) (lo 8 (0#1 ++ b))) := rfl
  refine decode_of ((decodeWord_mk h 0x325#10 (0#6 ++ d) (0#1 ++ a) (0#1 ++ b) 0#9).trans ((class6 (by decide)).trans (e.trans ?_))) rfl rfl
  simp [off, hb, hw]

theorem obrel (h : Hd) (d : BitVec 3) : Statement (.obrel h d) := by
  intro _ hw
  replace hw : (h.ok false .zero) = true := hw
  try simp only [Bool.and_eq_true] at hw
  have hb := hdBad_ok hw
  try simp at hw
  have e : decodeEngine ⟨0x326#10, h, (0#6 ++ d), 0#9, 0#9, 0#9⟩ = .word (hdBad false .zero h ++ off 27 (8 ≤ (0#6 ++ d).toNat) ++ off 18 (0#9 != 0#9) ++ off 9 (0#9 != 0#9) ++ off 0 (0#9 != 0#9)) (.obrel h (lo 3 (0#6 ++ d))) := rfl
  refine decode_of ((decodeWord_mk h 0x326#10 (0#6 ++ d) 0#9 0#9 0#9).trans ((class6 (by decide)).trans (e.trans ?_))) rfl rfl
  simp [off, hb, hw]

theorem mdrain (h : Hd) (base : BitVec 6) (a : SReg) (b : SReg) (act : Bool) (res : Bool) (rm : Rm) (f : FType) : Statement (.mdrain h base a b act res rm f) := by
  intro _ hw
  replace hw : (h.ok false .zero && decide (a.toNat < 254) && (rm != Rm.sr) && !(f == FType.f64)) = true := hw
  try simp only [Bool.and_eq_true] at hw
  have hb := hdBad_ok hw.1.1.1
  try simp at hw
  have e : decodeEngine ⟨0x327#10, h, (0#3 ++ base), (0#1 ++ a), (0#1 ++ b), (0#3 ++ (ofBool act ++ (ofBool res ++ (rm.code2 ++ f.code))))⟩ = .word (hdBad false .zero h ++ off 33 ((hi 3 6 (0#3 ++ base)) != 0#3) ++ off 18 (254 ≤ (0#1 ++ a).toNat) ++ off 9 (256 ≤ (0#1 ++ b).toNat) ++ off 6 ((hi 3 6 (0#3 ++ (ofBool act ++ (ofBool res ++ (rm.code2 ++ f.code))))) != 0#3) ++ off 0 ((FType.ofCode (lo 2 (lo 4 (lo 5 (lo 6 (0#3 ++ (ofBool act ++ (ofBool res ++ (rm.code2 ++ f.code))))))))) == FType.f64)) (.mdrain h (lo 6 (0#3 ++ base)) (lo 8 (0#1 ++ a)) (lo 8 (0#1 ++ b)) ((hi 1 5 (lo 6 (0#3 ++ (ofBool act ++ (ofBool res ++ (rm.code2 ++ f.code)))))) == 1#1) ((hi 1 4 (lo 5 (lo 6 (0#3 ++ (ofBool act ++ (ofBool res ++ (rm.code2 ++ f.code))))))) == 1#1) (Rm.ofCode2 (hi 2 2 (lo 4 (lo 5 (lo 6 (0#3 ++ (ofBool act ++ (ofBool res ++ (rm.code2 ++ f.code))))))))) (FType.ofCode (lo 2 (lo 4 (lo 5 (lo 6 (0#3 ++ (ofBool act ++ (ofBool res ++ (rm.code2 ++ f.code)))))))))) := rfl
  refine decode_of ((decodeWord_mk h 0x327#10 (0#3 ++ base) (0#1 ++ a) (0#1 ++ b) (0#3 ++ (ofBool act ++ (ofBool res ++ (rm.code2 ++ f.code))))).trans ((class6 (by decide)).trans (e.trans ?_))) rfl rfl
  simp [off, hb, hw, rm_rt2 rm hw.1.2]

theorem hbind (h : Hd) (d : BitVec 4) (a : BitVec 4) (b : BitVec 4) : Statement (.hbind h d a b) := by
  intro _ hw
  replace hw : (h.ok false .zero) = true := hw
  try simp only [Bool.and_eq_true] at hw
  have hb := hdBad_ok hw
  try simp at hw
  have e : decodeSystem ⟨0x380#10, h, (0#5 ++ d), (0#5 ++ a), (0#5 ++ b), 0#9⟩ = .word (hdBad false .zero h ++ off 27 (16 ≤ (0#5 ++ d).toNat) ++ off 18 (16 ≤ (0#5 ++ a).toNat) ++ off 9 (16 ≤ (0#5 ++ b).toNat) ++ off 0 (0#9 != 0#9)) (.hbind h (lo 4 (0#5 ++ d)) (lo 4 (0#5 ++ a)) (lo 4 (0#5 ++ b))) := rfl
  refine decode_of ((decodeWord_mk h 0x380#10 (0#5 ++ d) (0#5 ++ a) (0#5 ++ b) 0#9).trans ((class7 (by decide)).trans (e.trans ?_))) rfl rfl
  simp [off, hb, hw]

theorem hperm (h : Hd) (d : BitVec 4) (a : BitVec 4) (b : SReg) : Statement (.hperm h d a b) := by
  intro _ hw
  replace hw : (h.ok false .zero) = true := hw
  try simp only [Bool.and_eq_true] at hw
  have hb := hdBad_ok hw
  try simp at hw
  have e : decodeSystem ⟨0x381#10, h, (0#5 ++ d), (0#5 ++ a), (0#1 ++ b), 0#9⟩ = .word (hdBad false .zero h ++ off 27 (16 ≤ (0#5 ++ d).toNat) ++ off 18 (16 ≤ (0#5 ++ a).toNat) ++ off 9 (256 ≤ (0#1 ++ b).toNat) ++ off 0 (0#9 != 0#9)) (.hperm h (lo 4 (0#5 ++ d)) (lo 4 (0#5 ++ a)) (lo 8 (0#1 ++ b))) := rfl
  refine decode_of ((decodeWord_mk h 0x381#10 (0#5 ++ d) (0#5 ++ a) (0#1 ++ b) 0#9).trans ((class7 (by decide)).trans (e.trans ?_))) rfl rfl
  simp [off, hb, hw]

theorem hbund (h : Hd) (d : BitVec 1) (a : BitVec 4) : Statement (.hbund h d a) := by
  intro _ hw
  replace hw : (h.ok false .zero) = true := hw
  try simp only [Bool.and_eq_true] at hw
  have hb := hdBad_ok hw
  try simp at hw
  have e : decodeSystem ⟨0x382#10, h, (0#8 ++ d), (0#5 ++ a), 0#9, 0#9⟩ = .word (hdBad false .zero h ++ off 27 (2 ≤ (0#8 ++ d).toNat) ++ off 18 (16 ≤ (0#5 ++ a).toNat) ++ off 9 (0#9 != 0#9) ++ off 0 (0#9 != 0#9)) (.hbund h (lo 1 (0#8 ++ d)) (lo 4 (0#5 ++ a))) := rfl
  refine decode_of ((decodeWord_mk h 0x382#10 (0#8 ++ d) (0#5 ++ a) 0#9 0#9).trans ((class7 (by decide)).trans (e.trans ?_))) rfl rfl
  simp [off, hb, hw]

theorem hthr (h : Hd) (d : BitVec 4) (a : BitVec 1) : Statement (.hthr h d a) := by
  intro _ hw
  replace hw : (h.ok false .zero) = true := hw
  try simp only [Bool.and_eq_true] at hw
  have hb := hdBad_ok hw
  try simp at hw
  have e : decodeSystem ⟨0x383#10, h, (0#5 ++ d), (0#8 ++ a), 0#9, 0#9⟩ = .word (hdBad false .zero h ++ off 27 (16 ≤ (0#5 ++ d).toNat) ++ off 18 (2 ≤ (0#8 ++ a).toNat) ++ off 9 (0#9 != 0#9) ++ off 0 (0#9 != 0#9)) (.hthr h (lo 4 (0#5 ++ d)) (lo 1 (0#8 ++ a))) := rfl
  refine decode_of ((decodeWord_mk h 0x383#10 (0#5 ++ d) (0#8 ++ a) 0#9 0#9).trans ((class7 (by decide)).trans (e.trans ?_))) rfl rfl
  simp [off, hb, hw]

theorem hclr (h : Hd) (d : BitVec 1) : Statement (.hclr h d) := by
  intro _ hw
  replace hw : (h.ok false .zero) = true := hw
  try simp only [Bool.and_eq_true] at hw
  have hb := hdBad_ok hw
  try simp at hw
  have e : decodeSystem ⟨0x384#10, h, (0#8 ++ d), 0#9, 0#9, 0#9⟩ = .word (hdBad false .zero h ++ off 27 (2 ≤ (0#8 ++ d).toNat) ++ off 18 (0#9 != 0#9) ++ off 9 (0#9 != 0#9) ++ off 0 (0#9 != 0#9)) (.hclr h (lo 1 (0#8 ++ d))) := rfl
  refine decode_of ((decodeWord_mk h 0x384#10 (0#8 ++ d) 0#9 0#9 0#9).trans ((class7 (by decide)).trans (e.trans ?_))) rfl rfl
  simp [off, hb, hw]

theorem hld (h : Hd) (d : BitVec 4) (a : Endp) (b : SReg) : Statement (.hld h d a b) := by
  intro _ hw
  replace hw : (h.ok false .zero && a.ok false) = true := hw
  try simp only [Bool.and_eq_true] at hw
  have hb := hdBad_ok hw.1
  try simp at hw
  have e : decodeSystem ⟨0x385#10, h, (0#5 ++ d), a.code, (0#1 ++ b), 0#9⟩ = .word (hdBad false .zero h ++ off 27 (16 ≤ (0#5 ++ d).toNat) ++ off 18 (endpBad false a.code) ++ off 9 (256 ≤ (0#1 ++ b).toNat) ++ off 0 (0#9 != 0#9)) (.hld h (lo 4 (0#5 ++ d)) (Endp.ofCode a.code) (lo 8 (0#1 ++ b))) := rfl
  refine decode_of ((decodeWord_mk h 0x385#10 (0#5 ++ d) a.code (0#1 ++ b) 0#9).trans ((class7 (by decide)).trans (e.trans ?_))) rfl rfl
  simp [off, hb, hw, endp_ok hw.2, endp_rt _ _ hw.2]

theorem hst (h : Hd) (d : BitVec 4) (a : Endp) (b : SReg) : Statement (.hst h d a b) := by
  intro _ hw
  replace hw : (h.ok false .zero && a.ok false) = true := hw
  try simp only [Bool.and_eq_true] at hw
  have hb := hdBad_ok hw.1
  try simp at hw
  have e : decodeSystem ⟨0x386#10, h, (0#5 ++ d), a.code, (0#1 ++ b), 0#9⟩ = .word (hdBad false .zero h ++ off 27 (16 ≤ (0#5 ++ d).toNat) ++ off 18 (endpBad false a.code) ++ off 9 (256 ≤ (0#1 ++ b).toNat) ++ off 0 (0#9 != 0#9)) (.hst h (lo 4 (0#5 ++ d)) (Endp.ofCode a.code) (lo 8 (0#1 ++ b))) := rfl
  refine decode_of ((decodeWord_mk h 0x386#10 (0#5 ++ d) a.code (0#1 ++ b) 0#9).trans ((class7 (by decide)).trans (e.trans ?_))) rfl rfl
  simp [off, hb, hw, endp_ok hw.2, endp_rt _ _ hw.2]

theorem hset (h : Hd) (d : BitVec 4) (a : SReg) : Statement (.hset h d a) := by
  intro _ hw
  replace hw : (h.ok false .zero) = true := hw
  try simp only [Bool.and_eq_true] at hw
  have hb := hdBad_ok hw
  try simp at hw
  have e : decodeSystem ⟨0x387#10, h, (0#5 ++ d), (0#1 ++ a), 0#9, 0#9⟩ = .word (hdBad false .zero h ++ off 27 (16 ≤ (0#5 ++ d).toNat) ++ off 18 (256 ≤ (0#1 ++ a).toNat) ++ off 9 (0#9 != 0#9) ++ off 0 (0#9 != 0#9)) (.hset h (lo 4 (0#5 ++ d)) (lo 8 (0#1 ++ a))) := rfl
  refine decode_of ((decodeWord_mk h 0x387#10 (0#5 ++ d) (0#1 ++ a) 0#9 0#9).trans ((class7 (by decide)).trans (e.trans ?_))) rfl rfl
  simp [off, hb, hw]

theorem hdist (h : Hd) (d : SReg) (a : BitVec 4) (b : BitVec 4) : Statement (.hdist h d a b) := by
  intro _ hw
  replace hw : (h.ok false .zero) = true := hw
  try simp only [Bool.and_eq_true] at hw
  have hb := hdBad_ok hw
  try simp at hw
  have e : decodeSystem ⟨0x388#10, h, (0#1 ++ d), (0#5 ++ a), (0#5 ++ b), 0#9⟩ = .word (hdBad false .zero h ++ off 27 (256 ≤ (0#1 ++ d).toNat) ++ off 18 (16 ≤ (0#5 ++ a).toNat) ++ off 9 (16 ≤ (0#5 ++ b).toNat) ++ off 0 (0#9 != 0#9)) (.hdist h (lo 8 (0#1 ++ d)) (lo 4 (0#5 ++ a)) (lo 4 (0#5 ++ b))) := rfl
  refine decode_of ((decodeWord_mk h 0x388#10 (0#1 ++ d) (0#5 ++ a) (0#5 ++ b) 0#9).trans ((class7 (by decide)).trans (e.trans ?_))) rfl rfl
  simp [off, hb, hw]

theorem hpop (h : Hd) (d : SReg) (a : BitVec 4) : Statement (.hpop h d a) := by
  intro _ hw
  replace hw : (h.ok false .zero) = true := hw
  try simp only [Bool.and_eq_true] at hw
  have hb := hdBad_ok hw
  try simp at hw
  have e : decodeSystem ⟨0x389#10, h, (0#1 ++ d), (0#5 ++ a), 0#9, 0#9⟩ = .word (hdBad false .zero h ++ off 27 (256 ≤ (0#1 ++ d).toNat) ++ off 18 (16 ≤ (0#5 ++ a).toNat) ++ off 9 (0#9 != 0#9) ++ off 0 (0#9 != 0#9)) (.hpop h (lo 8 (0#1 ++ d)) (lo 4 (0#5 ++ a))) := rfl
  refine decode_of ((decodeWord_mk h 0x389#10 (0#1 ++ d) (0#5 ++ a) 0#9 0#9).trans ((class7 (by decide)).trans (e.trans ?_))) rfl rfl
  simp [off, hb, hw]

theorem htie (h : Hd) (a : BitVec 4) : Statement (.htie h a) := by
  intro _ hw
  replace hw : (h.ok false .zero) = true := hw
  try simp only [Bool.and_eq_true] at hw
  have hb := hdBad_ok hw
  try simp at hw
  have e : decodeSystem ⟨0x38A#10, h, 0#9, (0#5 ++ a), 0#9, 0#9⟩ = .word (hdBad false .zero h ++ off 27 (0#9 != 0#9) ++ off 18 (16 ≤ (0#5 ++ a).toNat) ++ off 9 (0#9 != 0#9) ++ off 0 (0#9 != 0#9)) (.htie h (lo 4 (0#5 ++ a))) := rfl
  refine decode_of ((decodeWord_mk h 0x38A#10 0#9 (0#5 ++ a) 0#9 0#9).trans ((class7 (by decide)).trans (e.trans ?_))) rfl rfl
  simp [off, hb, hw]

theorem hcw (h : Hd) (w : CtrW) : Statement (.hcw h w) := by
  intro _ hw
  replace hw : (h.ok false .zero) = true := hw
  try simp only [Bool.and_eq_true] at hw
  have hb := hdBad_ok hw
  try simp at hw
  have e : decodeSystem ⟨0x38B#10, h, 0#9, 0#9, 0#9, (0#7 ++ w.code)⟩ = .word (hdBad false .zero h ++ off 27 (0#9 != 0#9) ++ off 18 (0#9 != 0#9) ++ off 9 (0#9 != 0#9) ++ off 2 ((hi 7 2 (0#7 ++ w.code)) != 0#7) ++ off 0 (CtrW.bad (lo 2 (0#7 ++ w.code)))) (.hcw h (CtrW.ofCode (lo 2 (0#7 ++ w.code)))) := rfl
  refine decode_of ((decodeWord_mk h 0x38B#10 0#9 0#9 0#9 (0#7 ++ w.code)).trans ((class7 (by decide)).trans (e.trans ?_))) rfl rfl
  simp [off, hb, hw]

theorem hsrch (h : Hd) (d : SReg) (a : BitVec 4) (b : SReg) : Statement (.hsrch h d a b) := by
  intro _ hw
  replace hw : (h.ok false .zero && decide (1 ≤ d.toNat) && decide (d.toNat < 255)) = true := hw
  try simp only [Bool.and_eq_true] at hw
  have hb := hdBad_ok hw.1.1
  try simp at hw
  have e : decodeSystem ⟨0x38C#10, h, (0#1 ++ d), (0#5 ++ a), (0#1 ++ b), 0#9⟩ = .word (hdBad false .zero h ++ off 27 ((0#1 ++ d).toNat < 1 || 255 ≤ (0#1 ++ d).toNat) ++ off 18 (16 ≤ (0#5 ++ a).toNat) ++ off 9 (256 ≤ (0#1 ++ b).toNat) ++ off 0 (0#9 != 0#9)) (.hsrch h (lo 8 (0#1 ++ d)) (lo 4 (0#5 ++ a)) (lo 8 (0#1 ++ b))) := rfl
  refine decode_of ((decodeWord_mk h 0x38C#10 (0#1 ++ d) (0#5 ++ a) (0#1 ++ b) 0#9).trans ((class7 (by decide)).trans (e.trans ?_))) rfl rfl
  simp [off, hb, hw]; omega

theorem hsrch2 (h : Hd) (d : SReg) (a : BitVec 4) (b : SReg) : Statement (.hsrch2 h d a b) := by
  intro _ hw
  replace hw : (h.ok false .zero && decide (1 ≤ d.toNat) && decide (d.toNat < 253)) = true := hw
  try simp only [Bool.and_eq_true] at hw
  have hb := hdBad_ok hw.1.1
  try simp at hw
  have e : decodeSystem ⟨0x38D#10, h, (0#1 ++ d), (0#5 ++ a), (0#1 ++ b), 0#9⟩ = .word (hdBad false .zero h ++ off 27 ((0#1 ++ d).toNat < 1 || 253 ≤ (0#1 ++ d).toNat) ++ off 18 (16 ≤ (0#5 ++ a).toNat) ++ off 9 (256 ≤ (0#1 ++ b).toNat) ++ off 0 (0#9 != 0#9)) (.hsrch2 h (lo 8 (0#1 ++ d)) (lo 4 (0#5 ++ a)) (lo 8 (0#1 ++ b))) := rfl
  refine decode_of ((decodeWord_mk h 0x38D#10 (0#1 ++ d) (0#5 ++ a) (0#1 ++ b) 0#9).trans ((class7 (by decide)).trans (e.trans ?_))) rfl rfl
  simp [off, hb, hw]; omega

theorem trap (h : Hd) (imm : BitVec 18) : Statement (.trap h imm) := by
  intro _ hw
  replace hw : (h.ok false .zero) = true := hw
  try simp only [Bool.and_eq_true] at hw
  have hb := hdBad_ok hw
  try simp at hw
  have e : decodeSystem ⟨0x3C0#10, h, 0#9, 0#9, (hi 9 9 imm), (lo 9 imm)⟩ = .word (hdBad false .zero h ++ off 27 (0#9 != 0#9) ++ off 18 (0#9 != 0#9)) (.trap h ((hi 9 9 imm) ++ (lo 9 imm))) := rfl
  refine decode_of ((decodeWord_mk h 0x3C0#10 0#9 0#9 (hi 9 9 imm) (lo 9 imm)).trans ((class7 (by decide)).trans (e.trans ?_))) rfl rfl
  simp [off, hb, hw]

theorem tret (h : Hd) (skip : Bool) : Statement (.tret h skip) := by
  intro _ hw
  replace hw : (h.ok false .zero) = true := hw
  try simp only [Bool.and_eq_true] at hw
  have hb := hdBad_ok hw
  try simp at hw
  have e : decodeSystem ⟨0x3C1#10, h, 0#9, 0#9, 0#9, (0#8 ++ (ofBool skip))⟩ = .word (hdBad false .zero h ++ off 27 (0#9 != 0#9) ++ off 18 (0#9 != 0#9) ++ off 9 (0#9 != 0#9) ++ off 1 ((hi 8 1 (0#8 ++ (ofBool skip))) != 0#8)) (.tret h ((lo 1 (0#8 ++ (ofBool skip))) == 1#1)) := rfl
  refine decode_of ((decodeWord_mk h 0x3C1#10 0#9 0#9 0#9 (0#8 ++ (ofBool skip))).trans ((class7 (by decide)).trans (e.trans ?_))) rfl rfl
  simp [off, hb, hw]

theorem mfs (h : Hd) (d : BitVec 9) (a : Special) (scalar : Bool) : Statement (.mfs h d a scalar) := by
  intro _ hw
  replace hw : (h.ok (!scalar) .zero && !(mfsDestBad scalar d) && !(scalar && a == Special.lane)) = true := hw
  try simp only [Bool.and_eq_true] at hw
  have hb := hdBad_ok hw.1.1
  try simp at hw
  have e : decodeSystem ⟨0x3C2#10, h, d, a.code, 0#9, (0#8 ++ (ofBool scalar))⟩ = .word (hdBad (!((lo 1 (0#8 ++ (ofBool scalar))) == 1#1)) .zero h ++ off 18 (15 ≤ a.code.toNat) ++ off 9 (0#9 != 0#9) ++ off 1 ((hi 8 1 (0#8 ++ (ofBool scalar))) != 0#8) ++ off 27 (mfsDestBad ((lo 1 (0#8 ++ (ofBool scalar))) == 1#1) d) ++ off 18 (((lo 1 (0#8 ++ (ofBool scalar))) == 1#1) && (Special.ofCode a.code) == Special.lane)) (.mfs h d (Special.ofCode a.code) ((lo 1 (0#8 ++ (ofBool scalar))) == 1#1)) := rfl
  refine decode_of ((decodeWord_mk h 0x3C2#10 d a.code 0#9 (0#8 ++ (ofBool scalar))).trans ((class7 (by decide)).trans (e.trans ?_))) rfl rfl
  simp [off, hb, hw]; clear e; grind

theorem mts (h : Hd) (d : Special) (a : SReg) : Statement (.mts h d a) := by
  intro _ hw
  replace hw : (h.ok false .zero && d.writable) = true := hw
  try simp only [Bool.and_eq_true] at hw
  have hb := hdBad_ok hw.1
  try simp at hw
  have e : decodeSystem ⟨0x3C3#10, h, d.code, (0#1 ++ a), 0#9, 0#9⟩ = .word (hdBad false .zero h ++ off 27 (d.code.toNat < 9 || 13 ≤ d.code.toNat) ++ off 18 (256 ≤ (0#1 ++ a).toNat) ++ off 9 (0#9 != 0#9) ++ off 0 (0#9 != 0#9)) (.mts h (Special.ofCode d.code) (lo 8 (0#1 ++ a))) := rfl
  refine decode_of ((decodeWord_mk h 0x3C3#10 d.code (0#1 ++ a) 0#9 0#9).trans ((class7 (by decide)).trans (e.trans ?_))) rfl rfl
  cases d <;> simp_all [off, Special.writable, Special.code] <;> rfl

theorem dist (h : Hd) (d : SReg) (a : SReg) (b : SReg) : Statement (.dist h d a b) := by
  intro _ hw
  replace hw : (h.ok false .zero) = true := hw
  try simp only [Bool.and_eq_true] at hw
  have hb := hdBad_ok hw
  try simp at hw
  have e : decodeSystem ⟨0x3C4#10, h, (0#1 ++ d), (0#1 ++ a), (0#1 ++ b), 0#9⟩ = .word (hdBad false .zero h ++ off 27 (256 ≤ (0#1 ++ d).toNat) ++ off 18 (256 ≤ (0#1 ++ a).toNat) ++ off 9 (256 ≤ (0#1 ++ b).toNat) ++ off 0 (0#9 != 0#9)) (.dist h (lo 8 (0#1 ++ d)) (lo 8 (0#1 ++ a)) (lo 8 (0#1 ++ b))) := rfl
  refine decode_of ((decodeWord_mk h 0x3C4#10 (0#1 ++ d) (0#1 ++ a) (0#1 ++ b) 0#9).trans ((class7 (by decide)).trans (e.trans ?_))) rfl rfl
  simp [off, hb, hw]

theorem halt (h : Hd) (a : SReg) : Statement (.halt h a) := by
  intro _ hw
  replace hw : (h.ok false .zero) = true := hw
  try simp only [Bool.and_eq_true] at hw
  have hb := hdBad_ok hw
  try simp at hw
  have e : decodeSystem ⟨0x3C5#10, h, 0#9, (0#1 ++ a), 0#9, 0#9⟩ = .word (hdBad false .zero h ++ off 27 (0#9 != 0#9) ++ off 18 (256 ≤ (0#1 ++ a).toNat) ++ off 9 (0#9 != 0#9) ++ off 0 (0#9 != 0#9)) (.halt h (lo 8 (0#1 ++ a))) := rfl
  refine decode_of ((decodeWord_mk h 0x3C5#10 0#9 (0#1 ++ a) 0#9 0#9).trans ((class7 (by decide)).trans (e.trans ?_))) rfl rfl
  simp [off, hb, hw]

theorem slotq (h : Hd) (d : SReg) : Statement (.slotq h d) := by
  intro _ hw
  replace hw : (h.ok false .zero && decide (1 ≤ d.toNat) && decide (d.toNat < 254)) = true := hw
  try simp only [Bool.and_eq_true] at hw
  have hb := hdBad_ok hw.1.1
  try simp at hw
  have e : decodeSystem ⟨0x3D0#10, h, (0#1 ++ d), 0#9, 0#9, 0#9⟩ = .word (hdBad false .zero h ++ off 27 ((0#1 ++ d).toNat < 1 || 254 ≤ (0#1 ++ d).toNat) ++ off 18 (0#9 != 0#9) ++ off 9 (0#9 != 0#9) ++ off 0 (0#9 != 0#9)) (.slotq h (lo 8 (0#1 ++ d))) := rfl
  refine decode_of ((decodeWord_mk h 0x3D0#10 (0#1 ++ d) 0#9 0#9 0#9).trans ((class7 (by decide)).trans (e.trans ?_))) rfl rfl
  simp [off, hb, hw]; omega

theorem smpcfg (h : Hd) (a : SReg) : Statement (.smpcfg h a) := by
  intro _ hw
  replace hw : (h.ok false .zero) = true := hw
  try simp only [Bool.and_eq_true] at hw
  have hb := hdBad_ok hw
  try simp at hw
  have e : decodeSystem ⟨0x3D1#10, h, 0#9, (0#1 ++ a), 0#9, 0#9⟩ = .word (hdBad false .zero h ++ off 27 (0#9 != 0#9) ++ off 18 (256 ≤ (0#1 ++ a).toNat) ++ off 9 (0#9 != 0#9) ++ off 0 (0#9 != 0#9)) (.smpcfg h (lo 8 (0#1 ++ a))) := rfl
  refine decode_of ((decodeWord_mk h 0x3D1#10 0#9 (0#1 ++ a) 0#9 0#9).trans ((class7 (by decide)).trans (e.trans ?_))) rfl rfl
  simp [off, hb, hw]

theorem deferredFaultTaken (w : Nat) : Statement (.deferredFaultTaken w) := fun h _ => Bool.noConfusion h

theorem variableLatencyWrite (w : Nat) (id : Nat) : Statement (.variableLatencyWrite w id) := fun h _ => Bool.noConfusion h

theorem loadWriteback (w : Nat) (id : Nat) (what : LoadStep) : Statement (.loadWriteback w id what) := fun h _ => Bool.noConfusion h

theorem missEntriesTaken (w : Nat) : Statement (.missEntriesTaken w) := fun h _ => Bool.noConfusion h

theorem acknowledgementReceived (id : Nat) : Statement (.acknowledgementReceived id) := fun h _ => Bool.noConfusion h

theorem fullEmptyProceed (w : Nat) : Statement (.fullEmptyProceed w) := fun h _ => Bool.noConfusion h

theorem turnExpiry (w : Nat) : Statement (.turnExpiry w) := fun h _ => Bool.noConfusion h

theorem sleepElapses (w : Nat) : Statement (.sleepElapses w) := fun h _ => Bool.noConfusion h

theorem binTimerExpiry (bin : Nat) : Statement (.binTimerExpiry bin) := fun h _ => Bool.noConfusion h

theorem waitingBinLaunch (bin : Nat) : Statement (.waitingBinLaunch bin) := fun h _ => Bool.noConfusion h

theorem waveSlotRelease (w : Nat) : Statement (.waveSlotRelease w) := fun h _ => Bool.noConfusion h

theorem swapOut (w : Nat) : Statement (.swapOut w) := fun h _ => Bool.noConfusion h

theorem waveRestore (w : Nat) : Statement (.waveRestore w) := fun h _ => Bool.noConfusion h

theorem drain (w : Nat) (path : Nat) : Statement (.drain w path) := fun h _ => Bool.noConfusion h

theorem homeAtomic (home : Nat) (ans : EpAnswer) : Statement (.homeAtomic home ans) := fun h _ => Bool.noConfusion h

theorem grant (rid : Nat) (ans : EpAnswer) : Statement (.grant rid ans) := fun h _ => Bool.noConfusion h

theorem grantRequestFailed (rid : Nat) (ans : EpAnswer) : Statement (.grantRequestFailed rid ans) := fun h _ => Bool.noConfusion h

theorem derive (gid : Nat) : Statement (.derive gid) := fun h _ => Bool.noConfusion h

theorem returnGrant (gid : Nat) (path : Nat) : Statement (.returnGrant gid path) := fun h _ => Bool.noConfusion h

theorem returnAcknowledged (gid : Nat) : Statement (.returnAcknowledged gid) := fun h _ => Bool.noConfusion h

theorem residueWriteback (die : Nat) (idx : Nat) : Statement (.residueWriteback die idx) := fun h _ => Bool.noConfusion h

theorem copyChunk (op : Nat) (path : Nat) : Statement (.copyChunk op path) := fun h _ => Bool.noConfusion h

theorem arrive (w : Nat) : Statement (.arrive w) := fun h _ => Bool.noConfusion h

theorem girthDelivery (p : Arrival) : Statement (.girthDelivery p) := fun h _ => Bool.noConfusion h

theorem flush (src : Nat) (dst : Nat) : Statement (.flush src dst) := fun h _ => Bool.noConfusion h

theorem reinDelivery (src : Nat) (m : Arrival) : Statement (.reinDelivery src m) := fun h _ => Bool.noConfusion h

theorem flag (id : Nat) : Statement (.flag id) := fun h _ => Bool.noConfusion h

theorem stampPass (kernel : Nat) : Statement (.stampPass kernel) := fun h _ => Bool.noConfusion h

theorem completion (kernel : Nat) : Statement (.completion kernel) := fun h _ => Bool.noConfusion h

theorem killRelease (ctx : Nat) (merged : List (Nat × Nat)) : Statement (.killRelease ctx merged) := fun h _ => Bool.noConfusion h

theorem barrierRelease (group : Nat) (name : Nat) : Statement (.barrierRelease group name) := fun h _ => Bool.noConfusion h

theorem copyStart (die : Nat) (core : Nat) : Statement (.copyStart die core) := fun h _ => Bool.noConfusion h

theorem copyFire (op : Nat) : Statement (.copyFire op) := fun h _ => Bool.noConfusion h

theorem segmentStart (op : Nat) : Statement (.segmentStart op) := fun h _ => Bool.noConfusion h

theorem chpushAccept (w : Nat) (ch : Nat) : Statement (.chpushAccept w ch) := fun h _ => Bool.noConfusion h

theorem chpopClaim (w : Nat) : Statement (.chpopClaim w) := fun h _ => Bool.noConfusion h

theorem stagedWritebackDone (gid : Nat) : Statement (.stagedWritebackDone gid) := fun h _ => Bool.noConfusion h

theorem uncorrectableError (e : ErrRef) (tier : Nat) : Statement (.uncorrectableError e tier) := fun h _ => Bool.noConfusion h

theorem correctableError (die : Nat) : Statement (.correctableError die) := fun h _ => Bool.noConfusion h

theorem actldComplete (die : Nat) (core : Nat) : Statement (.actldComplete die core) := fun h _ => Bool.noConfusion h

theorem matrixEntryStart (die : Nat) (core : Nat) : Statement (.matrixEntryStart die core) := fun h _ => Bool.noConfusion h

theorem obldComplete (die : Nat) (core : Nat) : Statement (.obldComplete die core) := fun h _ => Bool.noConfusion h

theorem mmaComplete (die : Nat) (core : Nat) : Statement (.mmaComplete die core) := fun h _ => Bool.noConfusion h

theorem mdrainComplete (die : Nat) (core : Nat) : Statement (.mdrainComplete die core) := fun h _ => Bool.noConfusion h

theorem unitOpStart (die : Nat) (core : Nat) : Statement (.unitOpStart die core) := fun h _ => Bool.noConfusion h

theorem unitOpComplete (die : Nat) (core : Nat) : Statement (.unitOpComplete die core) := fun h _ => Bool.noConfusion h

theorem geodeSearchStart (die : Nat) : Statement (.geodeSearchStart die) := fun h _ => Bool.noConfusion h

theorem geodeSearchComplete (die : Nat) : Statement (.geodeSearchComplete die) := fun h _ => Bool.noConfusion h

theorem placement  : Statement .placement := fun h _ => Bool.noConfusion h

theorem groupDrainComplete (group : Nat) : Statement (.groupDrainComplete group) := fun h _ => Bool.noConfusion h

theorem park (ref : AccRef) (ia : Nat) : Statement (.park ref ia) := fun h _ => Bool.noConfusion h

theorem bounceResend (ref : AccRef) (ia : Nat) : Statement (.bounceResend ref ia) := fun h _ => Bool.noConfusion h

theorem replay (q : Nat) : Statement (.replay q) := fun h _ => Bool.noConfusion h

theorem jxreplay (mask : BitVec 8) : Statement (.jxreplay mask) := fun h _ => Bool.noConfusion h

theorem xinv (die : Nat) (w : Word) : Statement (.xinv die w) := fun h _ => Bool.noConfusion h

theorem shootDownDone (die : Nat) : Statement (.shootDownDone die) := fun h _ => Bool.noConfusion h

theorem gmibWrite (die : Nat) (v : BitVec 6) : Statement (.gmibWrite die v) := fun h _ => Bool.noConfusion h

theorem rangeRegisterSet (ctx : Nat) (n : Nat) (w0 : Word) (w1 : Word) (w2 : Word) : Statement (.rangeRegisterSet ctx n w0 w1 w2) := fun h _ => Bool.noConfusion h

theorem fabricTableWrite (e : Nat) (v : Word) : Statement (.fabricTableWrite e v) := fun h _ => Bool.noConfusion h

theorem inboundWindowWrite (w : Nat) (w0 : Word) (w1 : Word) (w2 : Word) (w3 : Word) : Statement (.inboundWindowWrite w w0 w1 w2 w3) := fun h _ => Bool.noConfusion h

theorem registerWrite (r : RegAccess) (v : Word) : Statement (.registerWrite r v) := fun h _ => Bool.noConfusion h

theorem launch (q : Nat) : Statement (.launch q) := fun h _ => Bool.noConfusion h

theorem waitq (q : Nat) : Statement (.waitq q) := fun h _ => Bool.noConfusion h

theorem mark (q : Nat) : Statement (.mark q) := fun h _ => Bool.noConfusion h

theorem signal (q : Nat) : Statement (.signal q) := fun h _ => Bool.noConfusion h

theorem slatew (q : Nat) : Statement (.slatew q) := fun h _ => Bool.noConfusion h

theorem slatewComplete (q : Nat) : Statement (.slatewComplete q) := fun h _ => Bool.noConfusion h

theorem geodew (q : Nat) : Statement (.geodew q) := fun h _ => Bool.noConfusion h

theorem geodewComplete (q : Nat) : Statement (.geodewComplete q) := fun h _ => Bool.noConfusion h

theorem fenceq (q : Nat) : Statement (.fenceq q) := fun h _ => Bool.noConfusion h

theorem dispatch  : Statement .dispatch := fun h _ => Bool.noConfusion h

theorem queueReset (q : Nat) : Statement (.queueReset q) := fun h _ => Bool.noConfusion h

theorem contextCreate (ctx : Nat) (spec : CtxSpec) : Statement (.contextCreate ctx spec) := fun h _ => Bool.noConfusion h

theorem contextPreempt (ctx : Nat) : Statement (.contextPreempt ctx) := fun h _ => Bool.noConfusion h

theorem contextResume (ctx : Nat) : Statement (.contextResume ctx) := fun h _ => Bool.noConfusion h

theorem contextKill (ctx : Nat) : Statement (.contextKill ctx) := fun h _ => Bool.noConfusion h

theorem reclaimWalk (ctx : Nat) : Statement (.reclaimWalk ctx) := fun h _ => Bool.noConfusion h

theorem walkDone (ctx : Nat) : Statement (.walkDone ctx) := fun h _ => Bool.noConfusion h

theorem dieRetirement (die : Nat) : Statement (.dieRetirement die) := fun h _ => Bool.noConfusion h

theorem linkTrain (n : Nat) : Statement (.linkTrain n) := fun h _ => Bool.noConfusion h

theorem linkFence (n : Nat) : Statement (.linkFence n) := fun h _ => Bool.noConfusion h

theorem linkUnfence (n : Nat) : Statement (.linkUnfence n) := fun h _ => Bool.noConfusion h

theorem linkRetire (n : Nat) : Statement (.linkRetire n) := fun h _ => Bool.noConfusion h

theorem trainingAttempt (n : Nat) (near far : LinkEnd) : Statement (.trainingAttempt n near far) := fun h _ => Bool.noConfusion h

theorem linkFault (n : Nat) : Statement (.linkFault n) := fun h _ => Bool.noConfusion h

theorem flitReplay (n : Nat) : Statement (.flitReplay n) := fun h _ => Bool.noConfusion h

theorem dieReset (die : Nat) (force : Bool) : Statement (.dieReset die force) := fun h _ => Bool.noConfusion h

theorem drainExpiry (die : Nat) : Statement (.drainExpiry die) := fun h _ => Bool.noConfusion h

theorem inboundAccess (ep : Nat) (win : Nat) (port : Nat) (acc : InAcc) : Statement (.inboundAccess ep win port acc) := fun h _ => Bool.noConfusion h

theorem packetResend (id : Nat) : Statement (.packetResend id) := fun h _ => Bool.noConfusion h

theorem selectiveAck (ep : Nat) (win : Nat) (bitmap : Word) : Statement (.selectiveAck ep win bitmap) := fun h _ => Bool.noConfusion h

theorem deliveryContextClose (ep : Nat) : Statement (.deliveryContextClose ep) := fun h _ => Bool.noConfusion h

theorem packetTimeout (id : Nat) : Statement (.packetTimeout id) := fun h _ => Bool.noConfusion h

theorem slotBegin  : Statement .slotBegin := fun h _ => Bool.noConfusion h

theorem slotEnd  : Statement .slotEnd := fun h _ => Bool.noConfusion h

theorem sensorSweep (r : Readings) : Statement (.sensorSweep r) := fun h _ => Bool.noConfusion h

theorem sample (die : Nat) (core : Nat) : Statement (.sample die core) := fun h _ => Bool.noConfusion h

theorem watchdogW0 (w : Nat) : Statement (.watchdogW0 w) := fun h _ => Bool.noConfusion h

theorem watchdogW1 (ctx : Nat) : Statement (.watchdogW1 ctx) := fun h _ => Bool.noConfusion h

theorem watchdogW2 (ctx : Nat) : Statement (.watchdogW2 ctx) := fun h _ => Bool.noConfusion h

theorem watchdogW3  : Statement .watchdogW3 := fun h _ => Bool.noConfusion h

theorem watchdogW4  : Statement .watchdogW4 := fun h _ => Bool.noConfusion h

theorem jxwdogW1 (ctx : Nat) : Statement (.jxwdogW1 ctx) := fun h _ => Bool.noConfusion h

theorem jxwdogW2 (die : Nat) : Statement (.jxwdogW2 die) := fun h _ => Bool.noConfusion h

theorem jxwdogW2Forced (die : Nat) : Statement (.jxwdogW2Forced die) := fun h _ => Bool.noConfusion h

theorem jxwdogW3 : Statement .jxwdogW3 := fun h _ => Bool.noConfusion h

theorem jxwdogW4 : Statement .jxwdogW4 := fun h _ => Bool.noConfusion h

theorem riggingSwap (img : ImageCheck) : Statement (.riggingSwap img) := fun h _ => Bool.noConfusion h

theorem swapPause  : Statement .swapPause := fun h _ => Bool.noConfusion h

theorem powerGood  : Statement .powerGood := fun h _ => Bool.noConfusion h

theorem stageComplete (loss : StageLoss) : Statement (.stageComplete loss) := fun h _ => Bool.noConfusion h

theorem instructionCacheFill (w : Nat) : Statement (.instructionCacheFill w) := fun h _ => Bool.noConfusion h

theorem tagSweepDone (die : Nat) (sector : Nat) (tag : Nat) : Statement (.tagSweepDone die sector tag) := fun h _ => Bool.noConfusion h

theorem dieDrainDone (die : Nat) : Statement (.dieDrainDone die) := fun h _ => Bool.noConfusion h

theorem unstageWriteDone (gid : Nat) : Statement (.unstageWriteDone gid) := fun h _ => Bool.noConfusion h

end Sys2Proof.Laws.RoundTrip
end

