-- ==== Sys2Proof/Laws/State.lean ====
section
/-! SUPPORT. What each update of State does to each field: one lemma per field per update. -/

namespace Sys2Proof.Laws

open Sys2Proof Sys2Proof.Machine

variable (s : State)

/-! `State.setWave` -/

@[simp] theorem setWave_clk (w : Wave) : (s.setWave w).clk = s.clk := rfl
@[simp] theorem setWave_stage (w : Wave) : (s.setWave w).stage = s.stage := rfl
@[simp] theorem setWave_agenda (w : Wave) : (s.setWave w).agenda = s.agenda := rfl
@[simp] theorem setWave_cursor (w : Wave) : (s.setWave w).cursor = s.cursor := rfl
@[simp] theorem setWave_cur (w : Wave) : (s.setWave w).cur = s.cur := rfl
@[simp] theorem setWave_issued (w : Wave) : (s.setWave w).issued = s.issued := rfl
@[simp] theorem setWave_begun (w : Wave) : (s.setWave w).begun = s.begun := rfl
@[simp] theorem setWave_nextUid (w : Wave) : (s.setWave w).nextUid = s.nextUid := rfl
@[simp] theorem setWave_freeCtr (w : Wave) : (s.setWave w).freeCtr = s.freeCtr := rfl
@[simp] theorem setWave_mem (w : Wave) : (s.setWave w).mem = s.mem := rfl
@[simp] theorem setWave_full (w : Wave) : (s.setWave w).full = s.full := rfl
@[simp] theorem setWave_bad (w : Wave) : (s.setWave w).bad = s.bad := rfl
@[simp] theorem setWave_cores (w : Wave) : (s.setWave w).cores = s.cores := rfl
@[simp] theorem setWave_dies (w : Wave) : (s.setWave w).dies = s.dies := rfl
@[simp] theorem setWave_ctxs (w : Wave) : (s.setWave w).ctxs = s.ctxs := rfl
@[simp] theorem setWave_queues (w : Wave) : (s.setWave w).queues = s.queues := rfl
@[simp] theorem setWave_kernels (w : Wave) : (s.setWave w).kernels = s.kernels := rfl
@[simp] theorem setWave_groups (w : Wave) : (s.setWave w).groups = s.groups := rfl
@[simp] theorem setWave_waves (w : Wave) : (s.setWave w).waves = replace (·.uid == w.uid) w s.waves := rfl
@[simp] theorem setWave_grants (w : Wave) : (s.setWave w).grants = s.grants := rfl
@[simp] theorem setWave_ebq (w : Wave) : (s.setWave w).ebq = s.ebq := rfl
@[simp] theorem setWave_regFaults (w : Wave) : (s.setWave w).regFaults = s.regFaults := rfl
@[simp] theorem setWave_bins (w : Wave) : (s.setWave w).bins = s.bins := rfl
@[simp] theorem setWave_ops (w : Wave) : (s.setWave w).ops = s.ops := rfl
@[simp] theorem setWave_hqs (w : Wave) : (s.setWave w).hqs = s.hqs := rfl
@[simp] theorem setWave_packets (w : Wave) : (s.setWave w).packets = s.packets := rfl
@[simp] theorem setWave_used (w : Wave) : (s.setWave w).used = s.used := rfl
@[simp] theorem setWave_reins (w : Wave) : (s.setWave w).reins = s.reins := rfl
@[simp] theorem setWave_unacked (w : Wave) : (s.setWave w).unacked = s.unacked := rfl
@[simp] theorem setWave_flags (w : Wave) : (s.setWave w).flags = s.flags := rfl
@[simp] theorem setWave_acks (w : Wave) : (s.setWave w).acks = s.acks := rfl
@[simp] theorem setWave_inbound (w : Wave) : (s.setWave w).inbound = s.inbound := rfl
@[simp] theorem setWave_links (w : Wave) : (s.setWave w).links = s.links := rfl
@[simp] theorem setWave_fabric (w : Wave) : (s.setWave w).fabric = s.fabric := rfl
@[simp] theorem setWave_windows (w : Wave) : (s.setWave w).windows = s.windows := rfl
@[simp] theorem setWave_delivs (w : Wave) : (s.setWave w).delivs = s.delivs := rfl
@[simp] theorem setWave_nums (w : Wave) : (s.setWave w).nums = s.nums := rfl
@[simp] theorem setWave_msens0 (w : Wave) : (s.setWave w).msens0 = s.msens0 := rfl
@[simp] theorem setWave_msens1 (w : Wave) : (s.setWave w).msens1 = s.msens1 := rfl
@[simp] theorem setWave_swept (w : Wave) : (s.setWave w).swept = s.swept := rfl
@[simp] theorem setWave_chLost (w : Wave) : (s.setWave w).chLost = s.chLost := rfl
@[simp] theorem setWave_spare (w : Wave) : (s.setWave w).spare = s.spare := rfl
@[simp] theorem setWave_spared (w : Wave) : (s.setWave w).spared = s.spared := rfl
@[simp] theorem setWave_wdogLast (w : Wave) : (s.setWave w).wdogLast = s.wdogLast := rfl
@[simp] theorem setWave_brandw (w : Wave) : (s.setWave w).brandw = s.brandw := rfl
@[simp] theorem setWave_swapImg (w : Wave) : (s.setWave w).swapImg = s.swapImg := rfl
@[simp] theorem setWave_swapStat (w : Wave) : (s.setWave w).swapStat = s.swapStat := rfl
@[simp] theorem setWave_paused (w : Wave) : (s.setWave w).paused = s.paused := rfl
@[simp] theorem setWave_swapVer (w : Wave) : (s.setWave w).swapVer = s.swapVer := rfl
@[simp] theorem setWave_swapFrom (w : Wave) : (s.setWave w).swapFrom = s.swapFrom := rfl
@[simp] theorem setWave_pauseAt (w : Wave) : (s.setWave w).pauseAt = s.pauseAt := rfl
@[simp] theorem setWave_riggingAt (w : Wave) : (s.setWave w).riggingAt = s.riggingAt := rfl
@[simp] theorem setWave_minVer0 (w : Wave) : (s.setWave w).minVer0 = s.minVer0 := rfl
@[simp] theorem setWave_minVer1 (w : Wave) : (s.setWave w).minVer1 = s.minVer1 := rfl
@[simp] theorem setWave_ver0 (w : Wave) : (s.setWave w).ver0 = s.ver0 := rfl
@[simp] theorem setWave_ver1 (w : Wave) : (s.setWave w).ver1 = s.ver1 := rfl
@[simp] theorem setWave_ladder (w : Wave) : (s.setWave w).ladder = s.ladder := rfl
@[simp] theorem setWave_served (w : Wave) : (s.setWave w).served = s.served := rfl
@[simp] theorem setWave_inSlot (w : Wave) : (s.setWave w).inSlot = s.inSlot := rfl

/-! `State.setGroup` -/

@[simp] theorem setGroup_clk (g : Group) : (s.setGroup g).clk = s.clk := rfl
@[simp] theorem setGroup_stage (g : Group) : (s.setGroup g).stage = s.stage := rfl
@[simp] theorem setGroup_agenda (g : Group) : (s.setGroup g).agenda = s.agenda := rfl
@[simp] theorem setGroup_cursor (g : Group) : (s.setGroup g).cursor = s.cursor := rfl
@[simp] theorem setGroup_cur (g : Group) : (s.setGroup g).cur = s.cur := rfl
@[simp] theorem setGroup_issued (g : Group) : (s.setGroup g).issued = s.issued := rfl
@[simp] theorem setGroup_begun (g : Group) : (s.setGroup g).begun = s.begun := rfl
@[simp] theorem setGroup_nextUid (g : Group) : (s.setGroup g).nextUid = s.nextUid := rfl
@[simp] theorem setGroup_freeCtr (g : Group) : (s.setGroup g).freeCtr = s.freeCtr := rfl
@[simp] theorem setGroup_mem (g : Group) : (s.setGroup g).mem = s.mem := rfl
@[simp] theorem setGroup_full (g : Group) : (s.setGroup g).full = s.full := rfl
@[simp] theorem setGroup_bad (g : Group) : (s.setGroup g).bad = s.bad := rfl
@[simp] theorem setGroup_cores (g : Group) : (s.setGroup g).cores = s.cores := rfl
@[simp] theorem setGroup_dies (g : Group) : (s.setGroup g).dies = s.dies := rfl
@[simp] theorem setGroup_ctxs (g : Group) : (s.setGroup g).ctxs = s.ctxs := rfl
@[simp] theorem setGroup_queues (g : Group) : (s.setGroup g).queues = s.queues := rfl
@[simp] theorem setGroup_kernels (g : Group) : (s.setGroup g).kernels = s.kernels := rfl
@[simp] theorem setGroup_groups (g : Group) : (s.setGroup g).groups = replace (·.uid == g.uid) g s.groups := rfl
@[simp] theorem setGroup_waves (g : Group) : (s.setGroup g).waves = s.waves := rfl
@[simp] theorem setGroup_grants (g : Group) : (s.setGroup g).grants = s.grants := rfl
@[simp] theorem setGroup_ebq (g : Group) : (s.setGroup g).ebq = s.ebq := rfl
@[simp] theorem setGroup_regFaults (g : Group) : (s.setGroup g).regFaults = s.regFaults := rfl
@[simp] theorem setGroup_bins (g : Group) : (s.setGroup g).bins = s.bins := rfl
@[simp] theorem setGroup_ops (g : Group) : (s.setGroup g).ops = s.ops := rfl
@[simp] theorem setGroup_hqs (g : Group) : (s.setGroup g).hqs = s.hqs := rfl
@[simp] theorem setGroup_packets (g : Group) : (s.setGroup g).packets = s.packets := rfl
@[simp] theorem setGroup_used (g : Group) : (s.setGroup g).used = s.used := rfl
@[simp] theorem setGroup_reins (g : Group) : (s.setGroup g).reins = s.reins := rfl
@[simp] theorem setGroup_unacked (g : Group) : (s.setGroup g).unacked = s.unacked := rfl
@[simp] theorem setGroup_flags (g : Group) : (s.setGroup g).flags = s.flags := rfl
@[simp] theorem setGroup_acks (g : Group) : (s.setGroup g).acks = s.acks := rfl
@[simp] theorem setGroup_inbound (g : Group) : (s.setGroup g).inbound = s.inbound := rfl
@[simp] theorem setGroup_links (g : Group) : (s.setGroup g).links = s.links := rfl
@[simp] theorem setGroup_fabric (g : Group) : (s.setGroup g).fabric = s.fabric := rfl
@[simp] theorem setGroup_windows (g : Group) : (s.setGroup g).windows = s.windows := rfl
@[simp] theorem setGroup_delivs (g : Group) : (s.setGroup g).delivs = s.delivs := rfl
@[simp] theorem setGroup_nums (g : Group) : (s.setGroup g).nums = s.nums := rfl
@[simp] theorem setGroup_msens0 (g : Group) : (s.setGroup g).msens0 = s.msens0 := rfl
@[simp] theorem setGroup_msens1 (g : Group) : (s.setGroup g).msens1 = s.msens1 := rfl
@[simp] theorem setGroup_swept (g : Group) : (s.setGroup g).swept = s.swept := rfl
@[simp] theorem setGroup_chLost (g : Group) : (s.setGroup g).chLost = s.chLost := rfl
@[simp] theorem setGroup_spare (g : Group) : (s.setGroup g).spare = s.spare := rfl
@[simp] theorem setGroup_spared (g : Group) : (s.setGroup g).spared = s.spared := rfl
@[simp] theorem setGroup_wdogLast (g : Group) : (s.setGroup g).wdogLast = s.wdogLast := rfl
@[simp] theorem setGroup_brandw (g : Group) : (s.setGroup g).brandw = s.brandw := rfl
@[simp] theorem setGroup_swapImg (g : Group) : (s.setGroup g).swapImg = s.swapImg := rfl
@[simp] theorem setGroup_swapStat (g : Group) : (s.setGroup g).swapStat = s.swapStat := rfl
@[simp] theorem setGroup_paused (g : Group) : (s.setGroup g).paused = s.paused := rfl
@[simp] theorem setGroup_swapVer (g : Group) : (s.setGroup g).swapVer = s.swapVer := rfl
@[simp] theorem setGroup_swapFrom (g : Group) : (s.setGroup g).swapFrom = s.swapFrom := rfl
@[simp] theorem setGroup_pauseAt (g : Group) : (s.setGroup g).pauseAt = s.pauseAt := rfl
@[simp] theorem setGroup_riggingAt (g : Group) : (s.setGroup g).riggingAt = s.riggingAt := rfl
@[simp] theorem setGroup_minVer0 (g : Group) : (s.setGroup g).minVer0 = s.minVer0 := rfl
@[simp] theorem setGroup_minVer1 (g : Group) : (s.setGroup g).minVer1 = s.minVer1 := rfl
@[simp] theorem setGroup_ver0 (g : Group) : (s.setGroup g).ver0 = s.ver0 := rfl
@[simp] theorem setGroup_ver1 (g : Group) : (s.setGroup g).ver1 = s.ver1 := rfl
@[simp] theorem setGroup_ladder (g : Group) : (s.setGroup g).ladder = s.ladder := rfl
@[simp] theorem setGroup_served (g : Group) : (s.setGroup g).served = s.served := rfl
@[simp] theorem setGroup_inSlot (g : Group) : (s.setGroup g).inSlot = s.inSlot := rfl

/-! `State.setKernel` -/

@[simp] theorem setKernel_clk (k : Kernel) : (s.setKernel k).clk = s.clk := rfl
@[simp] theorem setKernel_stage (k : Kernel) : (s.setKernel k).stage = s.stage := rfl
@[simp] theorem setKernel_agenda (k : Kernel) : (s.setKernel k).agenda = s.agenda := rfl
@[simp] theorem setKernel_cursor (k : Kernel) : (s.setKernel k).cursor = s.cursor := rfl
@[simp] theorem setKernel_cur (k : Kernel) : (s.setKernel k).cur = s.cur := rfl
@[simp] theorem setKernel_issued (k : Kernel) : (s.setKernel k).issued = s.issued := rfl
@[simp] theorem setKernel_begun (k : Kernel) : (s.setKernel k).begun = s.begun := rfl
@[simp] theorem setKernel_nextUid (k : Kernel) : (s.setKernel k).nextUid = s.nextUid := rfl
@[simp] theorem setKernel_freeCtr (k : Kernel) : (s.setKernel k).freeCtr = s.freeCtr := rfl
@[simp] theorem setKernel_mem (k : Kernel) : (s.setKernel k).mem = s.mem := rfl
@[simp] theorem setKernel_full (k : Kernel) : (s.setKernel k).full = s.full := rfl
@[simp] theorem setKernel_bad (k : Kernel) : (s.setKernel k).bad = s.bad := rfl
@[simp] theorem setKernel_cores (k : Kernel) : (s.setKernel k).cores = s.cores := rfl
@[simp] theorem setKernel_dies (k : Kernel) : (s.setKernel k).dies = s.dies := rfl
@[simp] theorem setKernel_ctxs (k : Kernel) : (s.setKernel k).ctxs = s.ctxs := rfl
@[simp] theorem setKernel_queues (k : Kernel) : (s.setKernel k).queues = s.queues := rfl
@[simp] theorem setKernel_kernels (k : Kernel) : (s.setKernel k).kernels = replace (·.uid == k.uid) k s.kernels := rfl
@[simp] theorem setKernel_groups (k : Kernel) : (s.setKernel k).groups = s.groups := rfl
@[simp] theorem setKernel_waves (k : Kernel) : (s.setKernel k).waves = s.waves := rfl
@[simp] theorem setKernel_grants (k : Kernel) : (s.setKernel k).grants = s.grants := rfl
@[simp] theorem setKernel_ebq (k : Kernel) : (s.setKernel k).ebq = s.ebq := rfl
@[simp] theorem setKernel_regFaults (k : Kernel) : (s.setKernel k).regFaults = s.regFaults := rfl
@[simp] theorem setKernel_bins (k : Kernel) : (s.setKernel k).bins = s.bins := rfl
@[simp] theorem setKernel_ops (k : Kernel) : (s.setKernel k).ops = s.ops := rfl
@[simp] theorem setKernel_hqs (k : Kernel) : (s.setKernel k).hqs = s.hqs := rfl
@[simp] theorem setKernel_packets (k : Kernel) : (s.setKernel k).packets = s.packets := rfl
@[simp] theorem setKernel_used (k : Kernel) : (s.setKernel k).used = s.used := rfl
@[simp] theorem setKernel_reins (k : Kernel) : (s.setKernel k).reins = s.reins := rfl
@[simp] theorem setKernel_unacked (k : Kernel) : (s.setKernel k).unacked = s.unacked := rfl
@[simp] theorem setKernel_flags (k : Kernel) : (s.setKernel k).flags = s.flags := rfl
@[simp] theorem setKernel_acks (k : Kernel) : (s.setKernel k).acks = s.acks := rfl
@[simp] theorem setKernel_inbound (k : Kernel) : (s.setKernel k).inbound = s.inbound := rfl
@[simp] theorem setKernel_links (k : Kernel) : (s.setKernel k).links = s.links := rfl
@[simp] theorem setKernel_fabric (k : Kernel) : (s.setKernel k).fabric = s.fabric := rfl
@[simp] theorem setKernel_windows (k : Kernel) : (s.setKernel k).windows = s.windows := rfl
@[simp] theorem setKernel_delivs (k : Kernel) : (s.setKernel k).delivs = s.delivs := rfl
@[simp] theorem setKernel_nums (k : Kernel) : (s.setKernel k).nums = s.nums := rfl
@[simp] theorem setKernel_msens0 (k : Kernel) : (s.setKernel k).msens0 = s.msens0 := rfl
@[simp] theorem setKernel_msens1 (k : Kernel) : (s.setKernel k).msens1 = s.msens1 := rfl
@[simp] theorem setKernel_swept (k : Kernel) : (s.setKernel k).swept = s.swept := rfl
@[simp] theorem setKernel_chLost (k : Kernel) : (s.setKernel k).chLost = s.chLost := rfl
@[simp] theorem setKernel_spare (k : Kernel) : (s.setKernel k).spare = s.spare := rfl
@[simp] theorem setKernel_spared (k : Kernel) : (s.setKernel k).spared = s.spared := rfl
@[simp] theorem setKernel_wdogLast (k : Kernel) : (s.setKernel k).wdogLast = s.wdogLast := rfl
@[simp] theorem setKernel_brandw (k : Kernel) : (s.setKernel k).brandw = s.brandw := rfl
@[simp] theorem setKernel_swapImg (k : Kernel) : (s.setKernel k).swapImg = s.swapImg := rfl
@[simp] theorem setKernel_swapStat (k : Kernel) : (s.setKernel k).swapStat = s.swapStat := rfl
@[simp] theorem setKernel_paused (k : Kernel) : (s.setKernel k).paused = s.paused := rfl
@[simp] theorem setKernel_swapVer (k : Kernel) : (s.setKernel k).swapVer = s.swapVer := rfl
@[simp] theorem setKernel_swapFrom (k : Kernel) : (s.setKernel k).swapFrom = s.swapFrom := rfl
@[simp] theorem setKernel_pauseAt (k : Kernel) : (s.setKernel k).pauseAt = s.pauseAt := rfl
@[simp] theorem setKernel_riggingAt (k : Kernel) : (s.setKernel k).riggingAt = s.riggingAt := rfl
@[simp] theorem setKernel_minVer0 (k : Kernel) : (s.setKernel k).minVer0 = s.minVer0 := rfl
@[simp] theorem setKernel_minVer1 (k : Kernel) : (s.setKernel k).minVer1 = s.minVer1 := rfl
@[simp] theorem setKernel_ver0 (k : Kernel) : (s.setKernel k).ver0 = s.ver0 := rfl
@[simp] theorem setKernel_ver1 (k : Kernel) : (s.setKernel k).ver1 = s.ver1 := rfl
@[simp] theorem setKernel_ladder (k : Kernel) : (s.setKernel k).ladder = s.ladder := rfl
@[simp] theorem setKernel_served (k : Kernel) : (s.setKernel k).served = s.served := rfl
@[simp] theorem setKernel_inSlot (k : Kernel) : (s.setKernel k).inSlot = s.inSlot := rfl

/-! `State.setGrant` -/

@[simp] theorem setGrant_clk (g : Grant) : (s.setGrant g).clk = s.clk := rfl
@[simp] theorem setGrant_stage (g : Grant) : (s.setGrant g).stage = s.stage := rfl
@[simp] theorem setGrant_agenda (g : Grant) : (s.setGrant g).agenda = s.agenda := rfl
@[simp] theorem setGrant_cursor (g : Grant) : (s.setGrant g).cursor = s.cursor := rfl
@[simp] theorem setGrant_cur (g : Grant) : (s.setGrant g).cur = s.cur := rfl
@[simp] theorem setGrant_issued (g : Grant) : (s.setGrant g).issued = s.issued := rfl
@[simp] theorem setGrant_begun (g : Grant) : (s.setGrant g).begun = s.begun := rfl
@[simp] theorem setGrant_nextUid (g : Grant) : (s.setGrant g).nextUid = s.nextUid := rfl
@[simp] theorem setGrant_freeCtr (g : Grant) : (s.setGrant g).freeCtr = s.freeCtr := rfl
@[simp] theorem setGrant_mem (g : Grant) : (s.setGrant g).mem = s.mem := rfl
@[simp] theorem setGrant_full (g : Grant) : (s.setGrant g).full = s.full := rfl
@[simp] theorem setGrant_bad (g : Grant) : (s.setGrant g).bad = s.bad := rfl
@[simp] theorem setGrant_cores (g : Grant) : (s.setGrant g).cores = s.cores := rfl
@[simp] theorem setGrant_dies (g : Grant) : (s.setGrant g).dies = s.dies := rfl
@[simp] theorem setGrant_ctxs (g : Grant) : (s.setGrant g).ctxs = s.ctxs := rfl
@[simp] theorem setGrant_queues (g : Grant) : (s.setGrant g).queues = s.queues := rfl
@[simp] theorem setGrant_kernels (g : Grant) : (s.setGrant g).kernels = s.kernels := rfl
@[simp] theorem setGrant_groups (g : Grant) : (s.setGrant g).groups = s.groups := rfl
@[simp] theorem setGrant_waves (g : Grant) : (s.setGrant g).waves = s.waves := rfl
@[simp] theorem setGrant_grants (g : Grant) : (s.setGrant g).grants = replace (·.gid == g.gid) g s.grants := rfl
@[simp] theorem setGrant_ebq (g : Grant) : (s.setGrant g).ebq = s.ebq := rfl
@[simp] theorem setGrant_regFaults (g : Grant) : (s.setGrant g).regFaults = s.regFaults := rfl
@[simp] theorem setGrant_bins (g : Grant) : (s.setGrant g).bins = s.bins := rfl
@[simp] theorem setGrant_ops (g : Grant) : (s.setGrant g).ops = s.ops := rfl
@[simp] theorem setGrant_hqs (g : Grant) : (s.setGrant g).hqs = s.hqs := rfl
@[simp] theorem setGrant_packets (g : Grant) : (s.setGrant g).packets = s.packets := rfl
@[simp] theorem setGrant_used (g : Grant) : (s.setGrant g).used = s.used := rfl
@[simp] theorem setGrant_reins (g : Grant) : (s.setGrant g).reins = s.reins := rfl
@[simp] theorem setGrant_unacked (g : Grant) : (s.setGrant g).unacked = s.unacked := rfl
@[simp] theorem setGrant_flags (g : Grant) : (s.setGrant g).flags = s.flags := rfl
@[simp] theorem setGrant_acks (g : Grant) : (s.setGrant g).acks = s.acks := rfl
@[simp] theorem setGrant_inbound (g : Grant) : (s.setGrant g).inbound = s.inbound := rfl
@[simp] theorem setGrant_links (g : Grant) : (s.setGrant g).links = s.links := rfl
@[simp] theorem setGrant_fabric (g : Grant) : (s.setGrant g).fabric = s.fabric := rfl
@[simp] theorem setGrant_windows (g : Grant) : (s.setGrant g).windows = s.windows := rfl
@[simp] theorem setGrant_delivs (g : Grant) : (s.setGrant g).delivs = s.delivs := rfl
@[simp] theorem setGrant_nums (g : Grant) : (s.setGrant g).nums = s.nums := rfl
@[simp] theorem setGrant_msens0 (g : Grant) : (s.setGrant g).msens0 = s.msens0 := rfl
@[simp] theorem setGrant_msens1 (g : Grant) : (s.setGrant g).msens1 = s.msens1 := rfl
@[simp] theorem setGrant_swept (g : Grant) : (s.setGrant g).swept = s.swept := rfl
@[simp] theorem setGrant_chLost (g : Grant) : (s.setGrant g).chLost = s.chLost := rfl
@[simp] theorem setGrant_spare (g : Grant) : (s.setGrant g).spare = s.spare := rfl
@[simp] theorem setGrant_spared (g : Grant) : (s.setGrant g).spared = s.spared := rfl
@[simp] theorem setGrant_wdogLast (g : Grant) : (s.setGrant g).wdogLast = s.wdogLast := rfl
@[simp] theorem setGrant_brandw (g : Grant) : (s.setGrant g).brandw = s.brandw := rfl
@[simp] theorem setGrant_swapImg (g : Grant) : (s.setGrant g).swapImg = s.swapImg := rfl
@[simp] theorem setGrant_swapStat (g : Grant) : (s.setGrant g).swapStat = s.swapStat := rfl
@[simp] theorem setGrant_paused (g : Grant) : (s.setGrant g).paused = s.paused := rfl
@[simp] theorem setGrant_swapVer (g : Grant) : (s.setGrant g).swapVer = s.swapVer := rfl
@[simp] theorem setGrant_swapFrom (g : Grant) : (s.setGrant g).swapFrom = s.swapFrom := rfl
@[simp] theorem setGrant_pauseAt (g : Grant) : (s.setGrant g).pauseAt = s.pauseAt := rfl
@[simp] theorem setGrant_riggingAt (g : Grant) : (s.setGrant g).riggingAt = s.riggingAt := rfl
@[simp] theorem setGrant_minVer0 (g : Grant) : (s.setGrant g).minVer0 = s.minVer0 := rfl
@[simp] theorem setGrant_minVer1 (g : Grant) : (s.setGrant g).minVer1 = s.minVer1 := rfl
@[simp] theorem setGrant_ver0 (g : Grant) : (s.setGrant g).ver0 = s.ver0 := rfl
@[simp] theorem setGrant_ver1 (g : Grant) : (s.setGrant g).ver1 = s.ver1 := rfl
@[simp] theorem setGrant_ladder (g : Grant) : (s.setGrant g).ladder = s.ladder := rfl
@[simp] theorem setGrant_served (g : Grant) : (s.setGrant g).served = s.served := rfl
@[simp] theorem setGrant_inSlot (g : Grant) : (s.setGrant g).inSlot = s.inSlot := rfl

/-! `State.delGrant` -/

@[simp] theorem delGrant_clk (u : Nat) : (s.delGrant u).clk = s.clk := rfl
@[simp] theorem delGrant_stage (u : Nat) : (s.delGrant u).stage = s.stage := rfl
@[simp] theorem delGrant_agenda (u : Nat) : (s.delGrant u).agenda = s.agenda := rfl
@[simp] theorem delGrant_cursor (u : Nat) : (s.delGrant u).cursor = s.cursor := rfl
@[simp] theorem delGrant_cur (u : Nat) : (s.delGrant u).cur = s.cur := rfl
@[simp] theorem delGrant_issued (u : Nat) : (s.delGrant u).issued = s.issued := rfl
@[simp] theorem delGrant_begun (u : Nat) : (s.delGrant u).begun = s.begun := rfl
@[simp] theorem delGrant_nextUid (u : Nat) : (s.delGrant u).nextUid = s.nextUid := rfl
@[simp] theorem delGrant_freeCtr (u : Nat) : (s.delGrant u).freeCtr = s.freeCtr := rfl
@[simp] theorem delGrant_mem (u : Nat) : (s.delGrant u).mem = s.mem := rfl
@[simp] theorem delGrant_full (u : Nat) : (s.delGrant u).full = s.full := rfl
@[simp] theorem delGrant_bad (u : Nat) : (s.delGrant u).bad = s.bad := rfl
@[simp] theorem delGrant_cores (u : Nat) : (s.delGrant u).cores = s.cores := rfl
@[simp] theorem delGrant_dies (u : Nat) : (s.delGrant u).dies = s.dies := rfl
@[simp] theorem delGrant_ctxs (u : Nat) : (s.delGrant u).ctxs = s.ctxs := rfl
@[simp] theorem delGrant_queues (u : Nat) : (s.delGrant u).queues = s.queues := rfl
@[simp] theorem delGrant_kernels (u : Nat) : (s.delGrant u).kernels = s.kernels := rfl
@[simp] theorem delGrant_groups (u : Nat) : (s.delGrant u).groups = s.groups := rfl
@[simp] theorem delGrant_waves (u : Nat) : (s.delGrant u).waves = s.waves := rfl
@[simp] theorem delGrant_grants (u : Nat) : (s.delGrant u).grants = s.grants.filter (·.gid != u) := rfl
@[simp] theorem delGrant_ebq (u : Nat) : (s.delGrant u).ebq = s.ebq := rfl
@[simp] theorem delGrant_regFaults (u : Nat) : (s.delGrant u).regFaults = s.regFaults := rfl
@[simp] theorem delGrant_bins (u : Nat) : (s.delGrant u).bins = s.bins := rfl
@[simp] theorem delGrant_ops (u : Nat) : (s.delGrant u).ops = s.ops := rfl
@[simp] theorem delGrant_hqs (u : Nat) : (s.delGrant u).hqs = s.hqs := rfl
@[simp] theorem delGrant_packets (u : Nat) : (s.delGrant u).packets = s.packets := rfl
@[simp] theorem delGrant_used (u : Nat) : (s.delGrant u).used = s.used := rfl
@[simp] theorem delGrant_reins (u : Nat) : (s.delGrant u).reins = s.reins := rfl
@[simp] theorem delGrant_unacked (u : Nat) : (s.delGrant u).unacked = s.unacked := rfl
@[simp] theorem delGrant_flags (u : Nat) : (s.delGrant u).flags = s.flags := rfl
@[simp] theorem delGrant_acks (u : Nat) : (s.delGrant u).acks = s.acks := rfl
@[simp] theorem delGrant_inbound (u : Nat) : (s.delGrant u).inbound = s.inbound := rfl
@[simp] theorem delGrant_links (u : Nat) : (s.delGrant u).links = s.links := rfl
@[simp] theorem delGrant_fabric (u : Nat) : (s.delGrant u).fabric = s.fabric := rfl
@[simp] theorem delGrant_windows (u : Nat) : (s.delGrant u).windows = s.windows := rfl
@[simp] theorem delGrant_delivs (u : Nat) : (s.delGrant u).delivs = s.delivs := rfl
@[simp] theorem delGrant_nums (u : Nat) : (s.delGrant u).nums = s.nums := rfl
@[simp] theorem delGrant_msens0 (u : Nat) : (s.delGrant u).msens0 = s.msens0 := rfl
@[simp] theorem delGrant_msens1 (u : Nat) : (s.delGrant u).msens1 = s.msens1 := rfl
@[simp] theorem delGrant_swept (u : Nat) : (s.delGrant u).swept = s.swept := rfl
@[simp] theorem delGrant_chLost (u : Nat) : (s.delGrant u).chLost = s.chLost := rfl
@[simp] theorem delGrant_spare (u : Nat) : (s.delGrant u).spare = s.spare := rfl
@[simp] theorem delGrant_spared (u : Nat) : (s.delGrant u).spared = s.spared := rfl
@[simp] theorem delGrant_wdogLast (u : Nat) : (s.delGrant u).wdogLast = s.wdogLast := rfl
@[simp] theorem delGrant_brandw (u : Nat) : (s.delGrant u).brandw = s.brandw := rfl
@[simp] theorem delGrant_swapImg (u : Nat) : (s.delGrant u).swapImg = s.swapImg := rfl
@[simp] theorem delGrant_swapStat (u : Nat) : (s.delGrant u).swapStat = s.swapStat := rfl
@[simp] theorem delGrant_paused (u : Nat) : (s.delGrant u).paused = s.paused := rfl
@[simp] theorem delGrant_swapVer (u : Nat) : (s.delGrant u).swapVer = s.swapVer := rfl
@[simp] theorem delGrant_swapFrom (u : Nat) : (s.delGrant u).swapFrom = s.swapFrom := rfl
@[simp] theorem delGrant_pauseAt (u : Nat) : (s.delGrant u).pauseAt = s.pauseAt := rfl
@[simp] theorem delGrant_riggingAt (u : Nat) : (s.delGrant u).riggingAt = s.riggingAt := rfl
@[simp] theorem delGrant_minVer0 (u : Nat) : (s.delGrant u).minVer0 = s.minVer0 := rfl
@[simp] theorem delGrant_minVer1 (u : Nat) : (s.delGrant u).minVer1 = s.minVer1 := rfl
@[simp] theorem delGrant_ver0 (u : Nat) : (s.delGrant u).ver0 = s.ver0 := rfl
@[simp] theorem delGrant_ver1 (u : Nat) : (s.delGrant u).ver1 = s.ver1 := rfl
@[simp] theorem delGrant_ladder (u : Nat) : (s.delGrant u).ladder = s.ladder := rfl
@[simp] theorem delGrant_served (u : Nat) : (s.delGrant u).served = s.served := rfl
@[simp] theorem delGrant_inSlot (u : Nat) : (s.delGrant u).inSlot = s.inSlot := rfl

/-! `State.setOp` -/

@[simp] theorem setOp_clk (o : CopyOp) : (s.setOp o).clk = s.clk := rfl
@[simp] theorem setOp_stage (o : CopyOp) : (s.setOp o).stage = s.stage := rfl
@[simp] theorem setOp_agenda (o : CopyOp) : (s.setOp o).agenda = s.agenda := rfl
@[simp] theorem setOp_cursor (o : CopyOp) : (s.setOp o).cursor = s.cursor := rfl
@[simp] theorem setOp_cur (o : CopyOp) : (s.setOp o).cur = s.cur := rfl
@[simp] theorem setOp_issued (o : CopyOp) : (s.setOp o).issued = s.issued := rfl
@[simp] theorem setOp_begun (o : CopyOp) : (s.setOp o).begun = s.begun := rfl
@[simp] theorem setOp_nextUid (o : CopyOp) : (s.setOp o).nextUid = s.nextUid := rfl
@[simp] theorem setOp_freeCtr (o : CopyOp) : (s.setOp o).freeCtr = s.freeCtr := rfl
@[simp] theorem setOp_mem (o : CopyOp) : (s.setOp o).mem = s.mem := rfl
@[simp] theorem setOp_full (o : CopyOp) : (s.setOp o).full = s.full := rfl
@[simp] theorem setOp_bad (o : CopyOp) : (s.setOp o).bad = s.bad := rfl
@[simp] theorem setOp_cores (o : CopyOp) : (s.setOp o).cores = s.cores := rfl
@[simp] theorem setOp_dies (o : CopyOp) : (s.setOp o).dies = s.dies := rfl
@[simp] theorem setOp_ctxs (o : CopyOp) : (s.setOp o).ctxs = s.ctxs := rfl
@[simp] theorem setOp_queues (o : CopyOp) : (s.setOp o).queues = s.queues := rfl
@[simp] theorem setOp_kernels (o : CopyOp) : (s.setOp o).kernels = s.kernels := rfl
@[simp] theorem setOp_groups (o : CopyOp) : (s.setOp o).groups = s.groups := rfl
@[simp] theorem setOp_waves (o : CopyOp) : (s.setOp o).waves = s.waves := rfl
@[simp] theorem setOp_grants (o : CopyOp) : (s.setOp o).grants = s.grants := rfl
@[simp] theorem setOp_ebq (o : CopyOp) : (s.setOp o).ebq = s.ebq := rfl
@[simp] theorem setOp_regFaults (o : CopyOp) : (s.setOp o).regFaults = s.regFaults := rfl
@[simp] theorem setOp_bins (o : CopyOp) : (s.setOp o).bins = s.bins := rfl
@[simp] theorem setOp_ops (o : CopyOp) : (s.setOp o).ops = replace (·.id == o.id) o s.ops := rfl
@[simp] theorem setOp_hqs (o : CopyOp) : (s.setOp o).hqs = s.hqs := rfl
@[simp] theorem setOp_packets (o : CopyOp) : (s.setOp o).packets = s.packets := rfl
@[simp] theorem setOp_used (o : CopyOp) : (s.setOp o).used = s.used := rfl
@[simp] theorem setOp_reins (o : CopyOp) : (s.setOp o).reins = s.reins := rfl
@[simp] theorem setOp_unacked (o : CopyOp) : (s.setOp o).unacked = s.unacked := rfl
@[simp] theorem setOp_flags (o : CopyOp) : (s.setOp o).flags = s.flags := rfl
@[simp] theorem setOp_acks (o : CopyOp) : (s.setOp o).acks = s.acks := rfl
@[simp] theorem setOp_inbound (o : CopyOp) : (s.setOp o).inbound = s.inbound := rfl
@[simp] theorem setOp_links (o : CopyOp) : (s.setOp o).links = s.links := rfl
@[simp] theorem setOp_fabric (o : CopyOp) : (s.setOp o).fabric = s.fabric := rfl
@[simp] theorem setOp_windows (o : CopyOp) : (s.setOp o).windows = s.windows := rfl
@[simp] theorem setOp_delivs (o : CopyOp) : (s.setOp o).delivs = s.delivs := rfl
@[simp] theorem setOp_nums (o : CopyOp) : (s.setOp o).nums = s.nums := rfl
@[simp] theorem setOp_msens0 (o : CopyOp) : (s.setOp o).msens0 = s.msens0 := rfl
@[simp] theorem setOp_msens1 (o : CopyOp) : (s.setOp o).msens1 = s.msens1 := rfl
@[simp] theorem setOp_swept (o : CopyOp) : (s.setOp o).swept = s.swept := rfl
@[simp] theorem setOp_chLost (o : CopyOp) : (s.setOp o).chLost = s.chLost := rfl
@[simp] theorem setOp_spare (o : CopyOp) : (s.setOp o).spare = s.spare := rfl
@[simp] theorem setOp_spared (o : CopyOp) : (s.setOp o).spared = s.spared := rfl
@[simp] theorem setOp_wdogLast (o : CopyOp) : (s.setOp o).wdogLast = s.wdogLast := rfl
@[simp] theorem setOp_brandw (o : CopyOp) : (s.setOp o).brandw = s.brandw := rfl
@[simp] theorem setOp_swapImg (o : CopyOp) : (s.setOp o).swapImg = s.swapImg := rfl
@[simp] theorem setOp_swapStat (o : CopyOp) : (s.setOp o).swapStat = s.swapStat := rfl
@[simp] theorem setOp_paused (o : CopyOp) : (s.setOp o).paused = s.paused := rfl
@[simp] theorem setOp_swapVer (o : CopyOp) : (s.setOp o).swapVer = s.swapVer := rfl
@[simp] theorem setOp_swapFrom (o : CopyOp) : (s.setOp o).swapFrom = s.swapFrom := rfl
@[simp] theorem setOp_pauseAt (o : CopyOp) : (s.setOp o).pauseAt = s.pauseAt := rfl
@[simp] theorem setOp_riggingAt (o : CopyOp) : (s.setOp o).riggingAt = s.riggingAt := rfl
@[simp] theorem setOp_minVer0 (o : CopyOp) : (s.setOp o).minVer0 = s.minVer0 := rfl
@[simp] theorem setOp_minVer1 (o : CopyOp) : (s.setOp o).minVer1 = s.minVer1 := rfl
@[simp] theorem setOp_ver0 (o : CopyOp) : (s.setOp o).ver0 = s.ver0 := rfl
@[simp] theorem setOp_ver1 (o : CopyOp) : (s.setOp o).ver1 = s.ver1 := rfl
@[simp] theorem setOp_ladder (o : CopyOp) : (s.setOp o).ladder = s.ladder := rfl
@[simp] theorem setOp_served (o : CopyOp) : (s.setOp o).served = s.served := rfl
@[simp] theorem setOp_inSlot (o : CopyOp) : (s.setOp o).inSlot = s.inSlot := rfl

/-! `State.delOp` -/

@[simp] theorem delOp_clk (u : Nat) : (s.delOp u).clk = s.clk := rfl
@[simp] theorem delOp_stage (u : Nat) : (s.delOp u).stage = s.stage := rfl
@[simp] theorem delOp_agenda (u : Nat) : (s.delOp u).agenda = s.agenda := rfl
@[simp] theorem delOp_cursor (u : Nat) : (s.delOp u).cursor = s.cursor := rfl
@[simp] theorem delOp_cur (u : Nat) : (s.delOp u).cur = s.cur := rfl
@[simp] theorem delOp_issued (u : Nat) : (s.delOp u).issued = s.issued := rfl
@[simp] theorem delOp_begun (u : Nat) : (s.delOp u).begun = s.begun := rfl
@[simp] theorem delOp_nextUid (u : Nat) : (s.delOp u).nextUid = s.nextUid := rfl
@[simp] theorem delOp_freeCtr (u : Nat) : (s.delOp u).freeCtr = s.freeCtr := rfl
@[simp] theorem delOp_mem (u : Nat) : (s.delOp u).mem = s.mem := rfl
@[simp] theorem delOp_full (u : Nat) : (s.delOp u).full = s.full := rfl
@[simp] theorem delOp_bad (u : Nat) : (s.delOp u).bad = s.bad := rfl
@[simp] theorem delOp_cores (u : Nat) : (s.delOp u).cores = s.cores.map fun c => { c with engineQ := c.engineQ.filter (· != u) } := rfl
@[simp] theorem delOp_dies (u : Nat) : (s.delOp u).dies = s.dies := rfl
@[simp] theorem delOp_ctxs (u : Nat) : (s.delOp u).ctxs = s.ctxs := rfl
@[simp] theorem delOp_queues (u : Nat) : (s.delOp u).queues = s.queues := rfl
@[simp] theorem delOp_kernels (u : Nat) : (s.delOp u).kernels = s.kernels := rfl
@[simp] theorem delOp_groups (u : Nat) : (s.delOp u).groups = s.groups := rfl
@[simp] theorem delOp_waves (u : Nat) : (s.delOp u).waves = s.waves := rfl
@[simp] theorem delOp_grants (u : Nat) : (s.delOp u).grants = s.grants := rfl
@[simp] theorem delOp_ebq (u : Nat) : (s.delOp u).ebq = s.ebq := rfl
@[simp] theorem delOp_regFaults (u : Nat) : (s.delOp u).regFaults = s.regFaults := rfl
@[simp] theorem delOp_bins (u : Nat) : (s.delOp u).bins = s.bins := rfl
@[simp] theorem delOp_ops (u : Nat) : (s.delOp u).ops = s.ops.filter (·.id != u) := rfl
@[simp] theorem delOp_hqs (u : Nat) : (s.delOp u).hqs = s.hqs := rfl
@[simp] theorem delOp_packets (u : Nat) : (s.delOp u).packets = s.packets := rfl
@[simp] theorem delOp_used (u : Nat) : (s.delOp u).used = s.used := rfl
@[simp] theorem delOp_reins (u : Nat) : (s.delOp u).reins = s.reins := rfl
@[simp] theorem delOp_unacked (u : Nat) : (s.delOp u).unacked = s.unacked := rfl
@[simp] theorem delOp_flags (u : Nat) : (s.delOp u).flags = s.flags := rfl
@[simp] theorem delOp_acks (u : Nat) : (s.delOp u).acks = s.acks := rfl
@[simp] theorem delOp_inbound (u : Nat) : (s.delOp u).inbound = s.inbound := rfl
@[simp] theorem delOp_links (u : Nat) : (s.delOp u).links = s.links := rfl
@[simp] theorem delOp_fabric (u : Nat) : (s.delOp u).fabric = s.fabric := rfl
@[simp] theorem delOp_windows (u : Nat) : (s.delOp u).windows = s.windows := rfl
@[simp] theorem delOp_delivs (u : Nat) : (s.delOp u).delivs = s.delivs := rfl
@[simp] theorem delOp_nums (u : Nat) : (s.delOp u).nums = s.nums := rfl
@[simp] theorem delOp_msens0 (u : Nat) : (s.delOp u).msens0 = s.msens0 := rfl
@[simp] theorem delOp_msens1 (u : Nat) : (s.delOp u).msens1 = s.msens1 := rfl
@[simp] theorem delOp_swept (u : Nat) : (s.delOp u).swept = s.swept := rfl
@[simp] theorem delOp_chLost (u : Nat) : (s.delOp u).chLost = s.chLost := rfl
@[simp] theorem delOp_spare (u : Nat) : (s.delOp u).spare = s.spare := rfl
@[simp] theorem delOp_spared (u : Nat) : (s.delOp u).spared = s.spared := rfl
@[simp] theorem delOp_wdogLast (u : Nat) : (s.delOp u).wdogLast = s.wdogLast := rfl
@[simp] theorem delOp_brandw (u : Nat) : (s.delOp u).brandw = s.brandw := rfl
@[simp] theorem delOp_swapImg (u : Nat) : (s.delOp u).swapImg = s.swapImg := rfl
@[simp] theorem delOp_swapStat (u : Nat) : (s.delOp u).swapStat = s.swapStat := rfl
@[simp] theorem delOp_paused (u : Nat) : (s.delOp u).paused = s.paused := rfl
@[simp] theorem delOp_swapVer (u : Nat) : (s.delOp u).swapVer = s.swapVer := rfl
@[simp] theorem delOp_swapFrom (u : Nat) : (s.delOp u).swapFrom = s.swapFrom := rfl
@[simp] theorem delOp_pauseAt (u : Nat) : (s.delOp u).pauseAt = s.pauseAt := rfl
@[simp] theorem delOp_riggingAt (u : Nat) : (s.delOp u).riggingAt = s.riggingAt := rfl
@[simp] theorem delOp_minVer0 (u : Nat) : (s.delOp u).minVer0 = s.minVer0 := rfl
@[simp] theorem delOp_minVer1 (u : Nat) : (s.delOp u).minVer1 = s.minVer1 := rfl
@[simp] theorem delOp_ver0 (u : Nat) : (s.delOp u).ver0 = s.ver0 := rfl
@[simp] theorem delOp_ver1 (u : Nat) : (s.delOp u).ver1 = s.ver1 := rfl
@[simp] theorem delOp_ladder (u : Nat) : (s.delOp u).ladder = s.ladder := rfl
@[simp] theorem delOp_served (u : Nat) : (s.delOp u).served = s.served := rfl
@[simp] theorem delOp_inSlot (u : Nat) : (s.delOp u).inSlot = s.inSlot := rfl

/-! `State.setCore` -/

@[simp] theorem setCore_clk (i : Nat) (c : Core) : (s.setCore i c).clk = s.clk := rfl
@[simp] theorem setCore_stage (i : Nat) (c : Core) : (s.setCore i c).stage = s.stage := rfl
@[simp] theorem setCore_agenda (i : Nat) (c : Core) : (s.setCore i c).agenda = s.agenda := rfl
@[simp] theorem setCore_cursor (i : Nat) (c : Core) : (s.setCore i c).cursor = s.cursor := rfl
@[simp] theorem setCore_cur (i : Nat) (c : Core) : (s.setCore i c).cur = s.cur := rfl
@[simp] theorem setCore_issued (i : Nat) (c : Core) : (s.setCore i c).issued = s.issued := rfl
@[simp] theorem setCore_begun (i : Nat) (c : Core) : (s.setCore i c).begun = s.begun := rfl
@[simp] theorem setCore_nextUid (i : Nat) (c : Core) : (s.setCore i c).nextUid = s.nextUid := rfl
@[simp] theorem setCore_freeCtr (i : Nat) (c : Core) : (s.setCore i c).freeCtr = s.freeCtr := rfl
@[simp] theorem setCore_mem (i : Nat) (c : Core) : (s.setCore i c).mem = s.mem := rfl
@[simp] theorem setCore_full (i : Nat) (c : Core) : (s.setCore i c).full = s.full := rfl
@[simp] theorem setCore_bad (i : Nat) (c : Core) : (s.setCore i c).bad = s.bad := rfl
@[simp] theorem setCore_cores (i : Nat) (c : Core) : (s.setCore i c).cores = s.cores.set i c := rfl
@[simp] theorem setCore_dies (i : Nat) (c : Core) : (s.setCore i c).dies = s.dies := rfl
@[simp] theorem setCore_ctxs (i : Nat) (c : Core) : (s.setCore i c).ctxs = s.ctxs := rfl
@[simp] theorem setCore_queues (i : Nat) (c : Core) : (s.setCore i c).queues = s.queues := rfl
@[simp] theorem setCore_kernels (i : Nat) (c : Core) : (s.setCore i c).kernels = s.kernels := rfl
@[simp] theorem setCore_groups (i : Nat) (c : Core) : (s.setCore i c).groups = s.groups := rfl
@[simp] theorem setCore_waves (i : Nat) (c : Core) : (s.setCore i c).waves = s.waves := rfl
@[simp] theorem setCore_grants (i : Nat) (c : Core) : (s.setCore i c).grants = s.grants := rfl
@[simp] theorem setCore_ebq (i : Nat) (c : Core) : (s.setCore i c).ebq = s.ebq := rfl
@[simp] theorem setCore_regFaults (i : Nat) (c : Core) : (s.setCore i c).regFaults = s.regFaults := rfl
@[simp] theorem setCore_bins (i : Nat) (c : Core) : (s.setCore i c).bins = s.bins := rfl
@[simp] theorem setCore_ops (i : Nat) (c : Core) : (s.setCore i c).ops = s.ops := rfl
@[simp] theorem setCore_hqs (i : Nat) (c : Core) : (s.setCore i c).hqs = s.hqs := rfl
@[simp] theorem setCore_packets (i : Nat) (c : Core) : (s.setCore i c).packets = s.packets := rfl
@[simp] theorem setCore_used (i : Nat) (c : Core) : (s.setCore i c).used = s.used := rfl
@[simp] theorem setCore_reins (i : Nat) (c : Core) : (s.setCore i c).reins = s.reins := rfl
@[simp] theorem setCore_unacked (i : Nat) (c : Core) : (s.setCore i c).unacked = s.unacked := rfl
@[simp] theorem setCore_flags (i : Nat) (c : Core) : (s.setCore i c).flags = s.flags := rfl
@[simp] theorem setCore_acks (i : Nat) (c : Core) : (s.setCore i c).acks = s.acks := rfl
@[simp] theorem setCore_inbound (i : Nat) (c : Core) : (s.setCore i c).inbound = s.inbound := rfl
@[simp] theorem setCore_links (i : Nat) (c : Core) : (s.setCore i c).links = s.links := rfl
@[simp] theorem setCore_fabric (i : Nat) (c : Core) : (s.setCore i c).fabric = s.fabric := rfl
@[simp] theorem setCore_windows (i : Nat) (c : Core) : (s.setCore i c).windows = s.windows := rfl
@[simp] theorem setCore_delivs (i : Nat) (c : Core) : (s.setCore i c).delivs = s.delivs := rfl
@[simp] theorem setCore_nums (i : Nat) (c : Core) : (s.setCore i c).nums = s.nums := rfl
@[simp] theorem setCore_msens0 (i : Nat) (c : Core) : (s.setCore i c).msens0 = s.msens0 := rfl
@[simp] theorem setCore_msens1 (i : Nat) (c : Core) : (s.setCore i c).msens1 = s.msens1 := rfl
@[simp] theorem setCore_swept (i : Nat) (c : Core) : (s.setCore i c).swept = s.swept := rfl
@[simp] theorem setCore_chLost (i : Nat) (c : Core) : (s.setCore i c).chLost = s.chLost := rfl
@[simp] theorem setCore_spare (i : Nat) (c : Core) : (s.setCore i c).spare = s.spare := rfl
@[simp] theorem setCore_spared (i : Nat) (c : Core) : (s.setCore i c).spared = s.spared := rfl
@[simp] theorem setCore_wdogLast (i : Nat) (c : Core) : (s.setCore i c).wdogLast = s.wdogLast := rfl
@[simp] theorem setCore_brandw (i : Nat) (c : Core) : (s.setCore i c).brandw = s.brandw := rfl
@[simp] theorem setCore_swapImg (i : Nat) (c : Core) : (s.setCore i c).swapImg = s.swapImg := rfl
@[simp] theorem setCore_swapStat (i : Nat) (c : Core) : (s.setCore i c).swapStat = s.swapStat := rfl
@[simp] theorem setCore_paused (i : Nat) (c : Core) : (s.setCore i c).paused = s.paused := rfl
@[simp] theorem setCore_swapVer (i : Nat) (c : Core) : (s.setCore i c).swapVer = s.swapVer := rfl
@[simp] theorem setCore_swapFrom (i : Nat) (c : Core) : (s.setCore i c).swapFrom = s.swapFrom := rfl
@[simp] theorem setCore_pauseAt (i : Nat) (c : Core) : (s.setCore i c).pauseAt = s.pauseAt := rfl
@[simp] theorem setCore_riggingAt (i : Nat) (c : Core) : (s.setCore i c).riggingAt = s.riggingAt := rfl
@[simp] theorem setCore_minVer0 (i : Nat) (c : Core) : (s.setCore i c).minVer0 = s.minVer0 := rfl
@[simp] theorem setCore_minVer1 (i : Nat) (c : Core) : (s.setCore i c).minVer1 = s.minVer1 := rfl
@[simp] theorem setCore_ver0 (i : Nat) (c : Core) : (s.setCore i c).ver0 = s.ver0 := rfl
@[simp] theorem setCore_ver1 (i : Nat) (c : Core) : (s.setCore i c).ver1 = s.ver1 := rfl
@[simp] theorem setCore_ladder (i : Nat) (c : Core) : (s.setCore i c).ladder = s.ladder := rfl
@[simp] theorem setCore_served (i : Nat) (c : Core) : (s.setCore i c).served = s.served := rfl
@[simp] theorem setCore_inSlot (i : Nat) (c : Core) : (s.setCore i c).inSlot = s.inSlot := rfl

/-! `State.setDie` -/

@[simp] theorem setDie_clk (d : Nat) (x : Die) : (s.setDie d x).clk = s.clk := rfl
@[simp] theorem setDie_stage (d : Nat) (x : Die) : (s.setDie d x).stage = s.stage := rfl
@[simp] theorem setDie_agenda (d : Nat) (x : Die) : (s.setDie d x).agenda = s.agenda := rfl
@[simp] theorem setDie_cursor (d : Nat) (x : Die) : (s.setDie d x).cursor = s.cursor := rfl
@[simp] theorem setDie_cur (d : Nat) (x : Die) : (s.setDie d x).cur = s.cur := rfl
@[simp] theorem setDie_issued (d : Nat) (x : Die) : (s.setDie d x).issued = s.issued := rfl
@[simp] theorem setDie_begun (d : Nat) (x : Die) : (s.setDie d x).begun = s.begun := rfl
@[simp] theorem setDie_nextUid (d : Nat) (x : Die) : (s.setDie d x).nextUid = s.nextUid := rfl
@[simp] theorem setDie_freeCtr (d : Nat) (x : Die) : (s.setDie d x).freeCtr = s.freeCtr := rfl
@[simp] theorem setDie_mem (d : Nat) (x : Die) : (s.setDie d x).mem = s.mem := rfl
@[simp] theorem setDie_full (d : Nat) (x : Die) : (s.setDie d x).full = s.full := rfl
@[simp] theorem setDie_bad (d : Nat) (x : Die) : (s.setDie d x).bad = s.bad := rfl
@[simp] theorem setDie_cores (d : Nat) (x : Die) : (s.setDie d x).cores = s.cores := rfl
@[simp] theorem setDie_dies (d : Nat) (x : Die) : (s.setDie d x).dies = s.dies.set d x := rfl
@[simp] theorem setDie_ctxs (d : Nat) (x : Die) : (s.setDie d x).ctxs = s.ctxs := rfl
@[simp] theorem setDie_queues (d : Nat) (x : Die) : (s.setDie d x).queues = s.queues := rfl
@[simp] theorem setDie_kernels (d : Nat) (x : Die) : (s.setDie d x).kernels = s.kernels := rfl
@[simp] theorem setDie_groups (d : Nat) (x : Die) : (s.setDie d x).groups = s.groups := rfl
@[simp] theorem setDie_waves (d : Nat) (x : Die) : (s.setDie d x).waves = s.waves := rfl
@[simp] theorem setDie_grants (d : Nat) (x : Die) : (s.setDie d x).grants = s.grants := rfl
@[simp] theorem setDie_ebq (d : Nat) (x : Die) : (s.setDie d x).ebq = s.ebq := rfl
@[simp] theorem setDie_regFaults (d : Nat) (x : Die) : (s.setDie d x).regFaults = s.regFaults := rfl
@[simp] theorem setDie_bins (d : Nat) (x : Die) : (s.setDie d x).bins = s.bins := rfl
@[simp] theorem setDie_ops (d : Nat) (x : Die) : (s.setDie d x).ops = s.ops := rfl
@[simp] theorem setDie_hqs (d : Nat) (x : Die) : (s.setDie d x).hqs = s.hqs := rfl
@[simp] theorem setDie_packets (d : Nat) (x : Die) : (s.setDie d x).packets = s.packets := rfl
@[simp] theorem setDie_used (d : Nat) (x : Die) : (s.setDie d x).used = s.used := rfl
@[simp] theorem setDie_reins (d : Nat) (x : Die) : (s.setDie d x).reins = s.reins := rfl
@[simp] theorem setDie_unacked (d : Nat) (x : Die) : (s.setDie d x).unacked = s.unacked := rfl
@[simp] theorem setDie_flags (d : Nat) (x : Die) : (s.setDie d x).flags = s.flags := rfl
@[simp] theorem setDie_acks (d : Nat) (x : Die) : (s.setDie d x).acks = s.acks := rfl
@[simp] theorem setDie_inbound (d : Nat) (x : Die) : (s.setDie d x).inbound = s.inbound := rfl
@[simp] theorem setDie_links (d : Nat) (x : Die) : (s.setDie d x).links = s.links := rfl
@[simp] theorem setDie_fabric (d : Nat) (x : Die) : (s.setDie d x).fabric = s.fabric := rfl
@[simp] theorem setDie_windows (d : Nat) (x : Die) : (s.setDie d x).windows = s.windows := rfl
@[simp] theorem setDie_delivs (d : Nat) (x : Die) : (s.setDie d x).delivs = s.delivs := rfl
@[simp] theorem setDie_nums (d : Nat) (x : Die) : (s.setDie d x).nums = s.nums := rfl
@[simp] theorem setDie_msens0 (d : Nat) (x : Die) : (s.setDie d x).msens0 = s.msens0 := rfl
@[simp] theorem setDie_msens1 (d : Nat) (x : Die) : (s.setDie d x).msens1 = s.msens1 := rfl
@[simp] theorem setDie_swept (d : Nat) (x : Die) : (s.setDie d x).swept = s.swept := rfl
@[simp] theorem setDie_chLost (d : Nat) (x : Die) : (s.setDie d x).chLost = s.chLost := rfl
@[simp] theorem setDie_spare (d : Nat) (x : Die) : (s.setDie d x).spare = s.spare := rfl
@[simp] theorem setDie_spared (d : Nat) (x : Die) : (s.setDie d x).spared = s.spared := rfl
@[simp] theorem setDie_wdogLast (d : Nat) (x : Die) : (s.setDie d x).wdogLast = s.wdogLast := rfl
@[simp] theorem setDie_brandw (d : Nat) (x : Die) : (s.setDie d x).brandw = s.brandw := rfl
@[simp] theorem setDie_swapImg (d : Nat) (x : Die) : (s.setDie d x).swapImg = s.swapImg := rfl
@[simp] theorem setDie_swapStat (d : Nat) (x : Die) : (s.setDie d x).swapStat = s.swapStat := rfl
@[simp] theorem setDie_paused (d : Nat) (x : Die) : (s.setDie d x).paused = s.paused := rfl
@[simp] theorem setDie_swapVer (d : Nat) (x : Die) : (s.setDie d x).swapVer = s.swapVer := rfl
@[simp] theorem setDie_swapFrom (d : Nat) (x : Die) : (s.setDie d x).swapFrom = s.swapFrom := rfl
@[simp] theorem setDie_pauseAt (d : Nat) (x : Die) : (s.setDie d x).pauseAt = s.pauseAt := rfl
@[simp] theorem setDie_riggingAt (d : Nat) (x : Die) : (s.setDie d x).riggingAt = s.riggingAt := rfl
@[simp] theorem setDie_minVer0 (d : Nat) (x : Die) : (s.setDie d x).minVer0 = s.minVer0 := rfl
@[simp] theorem setDie_minVer1 (d : Nat) (x : Die) : (s.setDie d x).minVer1 = s.minVer1 := rfl
@[simp] theorem setDie_ver0 (d : Nat) (x : Die) : (s.setDie d x).ver0 = s.ver0 := rfl
@[simp] theorem setDie_ver1 (d : Nat) (x : Die) : (s.setDie d x).ver1 = s.ver1 := rfl
@[simp] theorem setDie_ladder (d : Nat) (x : Die) : (s.setDie d x).ladder = s.ladder := rfl
@[simp] theorem setDie_served (d : Nat) (x : Die) : (s.setDie d x).served = s.served := rfl
@[simp] theorem setDie_inSlot (d : Nat) (x : Die) : (s.setDie d x).inSlot = s.inSlot := rfl

/-! `State.setCtx` -/

@[simp] theorem setCtx_clk (c : Nat) (x : Ctx) : (s.setCtx c x).clk = s.clk := rfl
@[simp] theorem setCtx_stage (c : Nat) (x : Ctx) : (s.setCtx c x).stage = s.stage := rfl
@[simp] theorem setCtx_agenda (c : Nat) (x : Ctx) : (s.setCtx c x).agenda = s.agenda := rfl
@[simp] theorem setCtx_cursor (c : Nat) (x : Ctx) : (s.setCtx c x).cursor = s.cursor := rfl
@[simp] theorem setCtx_cur (c : Nat) (x : Ctx) : (s.setCtx c x).cur = s.cur := rfl
@[simp] theorem setCtx_issued (c : Nat) (x : Ctx) : (s.setCtx c x).issued = s.issued := rfl
@[simp] theorem setCtx_begun (c : Nat) (x : Ctx) : (s.setCtx c x).begun = s.begun := rfl
@[simp] theorem setCtx_nextUid (c : Nat) (x : Ctx) : (s.setCtx c x).nextUid = s.nextUid := rfl
@[simp] theorem setCtx_freeCtr (c : Nat) (x : Ctx) : (s.setCtx c x).freeCtr = s.freeCtr := rfl
@[simp] theorem setCtx_mem (c : Nat) (x : Ctx) : (s.setCtx c x).mem = s.mem := rfl
@[simp] theorem setCtx_full (c : Nat) (x : Ctx) : (s.setCtx c x).full = s.full := rfl
@[simp] theorem setCtx_bad (c : Nat) (x : Ctx) : (s.setCtx c x).bad = s.bad := rfl
@[simp] theorem setCtx_cores (c : Nat) (x : Ctx) : (s.setCtx c x).cores = s.cores := rfl
@[simp] theorem setCtx_dies (c : Nat) (x : Ctx) : (s.setCtx c x).dies = s.dies := rfl
@[simp] theorem setCtx_ctxs (c : Nat) (x : Ctx) : (s.setCtx c x).ctxs = s.ctxs.set c x := rfl
@[simp] theorem setCtx_queues (c : Nat) (x : Ctx) : (s.setCtx c x).queues = s.queues := rfl
@[simp] theorem setCtx_kernels (c : Nat) (x : Ctx) : (s.setCtx c x).kernels = s.kernels := rfl
@[simp] theorem setCtx_groups (c : Nat) (x : Ctx) : (s.setCtx c x).groups = s.groups := rfl
@[simp] theorem setCtx_waves (c : Nat) (x : Ctx) : (s.setCtx c x).waves = s.waves := rfl
@[simp] theorem setCtx_grants (c : Nat) (x : Ctx) : (s.setCtx c x).grants = s.grants := rfl
@[simp] theorem setCtx_ebq (c : Nat) (x : Ctx) : (s.setCtx c x).ebq = s.ebq := rfl
@[simp] theorem setCtx_regFaults (c : Nat) (x : Ctx) : (s.setCtx c x).regFaults = s.regFaults := rfl
@[simp] theorem setCtx_bins (c : Nat) (x : Ctx) : (s.setCtx c x).bins = s.bins := rfl
@[simp] theorem setCtx_ops (c : Nat) (x : Ctx) : (s.setCtx c x).ops = s.ops := rfl
@[simp] theorem setCtx_hqs (c : Nat) (x : Ctx) : (s.setCtx c x).hqs = s.hqs := rfl
@[simp] theorem setCtx_packets (c : Nat) (x : Ctx) : (s.setCtx c x).packets = s.packets := rfl
@[simp] theorem setCtx_used (c : Nat) (x : Ctx) : (s.setCtx c x).used = s.used := rfl
@[simp] theorem setCtx_reins (c : Nat) (x : Ctx) : (s.setCtx c x).reins = s.reins := rfl
@[simp] theorem setCtx_unacked (c : Nat) (x : Ctx) : (s.setCtx c x).unacked = s.unacked := rfl
@[simp] theorem setCtx_flags (c : Nat) (x : Ctx) : (s.setCtx c x).flags = s.flags := rfl
@[simp] theorem setCtx_acks (c : Nat) (x : Ctx) : (s.setCtx c x).acks = s.acks := rfl
@[simp] theorem setCtx_inbound (c : Nat) (x : Ctx) : (s.setCtx c x).inbound = s.inbound := rfl
@[simp] theorem setCtx_links (c : Nat) (x : Ctx) : (s.setCtx c x).links = s.links := rfl
@[simp] theorem setCtx_fabric (c : Nat) (x : Ctx) : (s.setCtx c x).fabric = s.fabric := rfl
@[simp] theorem setCtx_windows (c : Nat) (x : Ctx) : (s.setCtx c x).windows = s.windows := rfl
@[simp] theorem setCtx_delivs (c : Nat) (x : Ctx) : (s.setCtx c x).delivs = s.delivs := rfl
@[simp] theorem setCtx_nums (c : Nat) (x : Ctx) : (s.setCtx c x).nums = s.nums := rfl
@[simp] theorem setCtx_msens0 (c : Nat) (x : Ctx) : (s.setCtx c x).msens0 = s.msens0 := rfl
@[simp] theorem setCtx_msens1 (c : Nat) (x : Ctx) : (s.setCtx c x).msens1 = s.msens1 := rfl
@[simp] theorem setCtx_swept (c : Nat) (x : Ctx) : (s.setCtx c x).swept = s.swept := rfl
@[simp] theorem setCtx_chLost (c : Nat) (x : Ctx) : (s.setCtx c x).chLost = s.chLost := rfl
@[simp] theorem setCtx_spare (c : Nat) (x : Ctx) : (s.setCtx c x).spare = s.spare := rfl
@[simp] theorem setCtx_spared (c : Nat) (x : Ctx) : (s.setCtx c x).spared = s.spared := rfl
@[simp] theorem setCtx_wdogLast (c : Nat) (x : Ctx) : (s.setCtx c x).wdogLast = s.wdogLast := rfl
@[simp] theorem setCtx_brandw (c : Nat) (x : Ctx) : (s.setCtx c x).brandw = s.brandw := rfl
@[simp] theorem setCtx_swapImg (c : Nat) (x : Ctx) : (s.setCtx c x).swapImg = s.swapImg := rfl
@[simp] theorem setCtx_swapStat (c : Nat) (x : Ctx) : (s.setCtx c x).swapStat = s.swapStat := rfl
@[simp] theorem setCtx_paused (c : Nat) (x : Ctx) : (s.setCtx c x).paused = s.paused := rfl
@[simp] theorem setCtx_swapVer (c : Nat) (x : Ctx) : (s.setCtx c x).swapVer = s.swapVer := rfl
@[simp] theorem setCtx_swapFrom (c : Nat) (x : Ctx) : (s.setCtx c x).swapFrom = s.swapFrom := rfl
@[simp] theorem setCtx_pauseAt (c : Nat) (x : Ctx) : (s.setCtx c x).pauseAt = s.pauseAt := rfl
@[simp] theorem setCtx_riggingAt (c : Nat) (x : Ctx) : (s.setCtx c x).riggingAt = s.riggingAt := rfl
@[simp] theorem setCtx_minVer0 (c : Nat) (x : Ctx) : (s.setCtx c x).minVer0 = s.minVer0 := rfl
@[simp] theorem setCtx_minVer1 (c : Nat) (x : Ctx) : (s.setCtx c x).minVer1 = s.minVer1 := rfl
@[simp] theorem setCtx_ver0 (c : Nat) (x : Ctx) : (s.setCtx c x).ver0 = s.ver0 := rfl
@[simp] theorem setCtx_ver1 (c : Nat) (x : Ctx) : (s.setCtx c x).ver1 = s.ver1 := rfl
@[simp] theorem setCtx_ladder (c : Nat) (x : Ctx) : (s.setCtx c x).ladder = s.ladder := rfl
@[simp] theorem setCtx_served (c : Nat) (x : Ctx) : (s.setCtx c x).served = s.served := rfl
@[simp] theorem setCtx_inSlot (c : Nat) (x : Ctx) : (s.setCtx c x).inSlot = s.inSlot := rfl

/-! `State.setQueue` -/

@[simp] theorem setQueue_clk (q : Queue) : (s.setQueue q).clk = s.clk := rfl
@[simp] theorem setQueue_stage (q : Queue) : (s.setQueue q).stage = s.stage := rfl
@[simp] theorem setQueue_agenda (q : Queue) : (s.setQueue q).agenda = s.agenda := rfl
@[simp] theorem setQueue_cursor (q : Queue) : (s.setQueue q).cursor = s.cursor := rfl
@[simp] theorem setQueue_cur (q : Queue) : (s.setQueue q).cur = s.cur := rfl
@[simp] theorem setQueue_issued (q : Queue) : (s.setQueue q).issued = s.issued := rfl
@[simp] theorem setQueue_begun (q : Queue) : (s.setQueue q).begun = s.begun := rfl
@[simp] theorem setQueue_nextUid (q : Queue) : (s.setQueue q).nextUid = s.nextUid := rfl
@[simp] theorem setQueue_freeCtr (q : Queue) : (s.setQueue q).freeCtr = s.freeCtr := rfl
@[simp] theorem setQueue_mem (q : Queue) : (s.setQueue q).mem = s.mem := rfl
@[simp] theorem setQueue_full (q : Queue) : (s.setQueue q).full = s.full := rfl
@[simp] theorem setQueue_bad (q : Queue) : (s.setQueue q).bad = s.bad := rfl
@[simp] theorem setQueue_cores (q : Queue) : (s.setQueue q).cores = s.cores := rfl
@[simp] theorem setQueue_dies (q : Queue) : (s.setQueue q).dies = s.dies := rfl
@[simp] theorem setQueue_ctxs (q : Queue) : (s.setQueue q).ctxs = s.ctxs := rfl
@[simp] theorem setQueue_queues (q : Queue) : (s.setQueue q).queues = insQueue s.queues q := rfl
@[simp] theorem setQueue_kernels (q : Queue) : (s.setQueue q).kernels = s.kernels := rfl
@[simp] theorem setQueue_groups (q : Queue) : (s.setQueue q).groups = s.groups := rfl
@[simp] theorem setQueue_waves (q : Queue) : (s.setQueue q).waves = s.waves := rfl
@[simp] theorem setQueue_grants (q : Queue) : (s.setQueue q).grants = s.grants := rfl
@[simp] theorem setQueue_ebq (q : Queue) : (s.setQueue q).ebq = s.ebq := rfl
@[simp] theorem setQueue_regFaults (q : Queue) : (s.setQueue q).regFaults = s.regFaults := rfl
@[simp] theorem setQueue_bins (q : Queue) : (s.setQueue q).bins = s.bins := rfl
@[simp] theorem setQueue_ops (q : Queue) : (s.setQueue q).ops = s.ops := rfl
@[simp] theorem setQueue_hqs (q : Queue) : (s.setQueue q).hqs = s.hqs := rfl
@[simp] theorem setQueue_packets (q : Queue) : (s.setQueue q).packets = s.packets := rfl
@[simp] theorem setQueue_used (q : Queue) : (s.setQueue q).used = s.used := rfl
@[simp] theorem setQueue_reins (q : Queue) : (s.setQueue q).reins = s.reins := rfl
@[simp] theorem setQueue_unacked (q : Queue) : (s.setQueue q).unacked = s.unacked := rfl
@[simp] theorem setQueue_flags (q : Queue) : (s.setQueue q).flags = s.flags := rfl
@[simp] theorem setQueue_acks (q : Queue) : (s.setQueue q).acks = s.acks := rfl
@[simp] theorem setQueue_inbound (q : Queue) : (s.setQueue q).inbound = s.inbound := rfl
@[simp] theorem setQueue_links (q : Queue) : (s.setQueue q).links = s.links := rfl
@[simp] theorem setQueue_fabric (q : Queue) : (s.setQueue q).fabric = s.fabric := rfl
@[simp] theorem setQueue_windows (q : Queue) : (s.setQueue q).windows = s.windows := rfl
@[simp] theorem setQueue_delivs (q : Queue) : (s.setQueue q).delivs = s.delivs := rfl
@[simp] theorem setQueue_nums (q : Queue) : (s.setQueue q).nums = s.nums := rfl
@[simp] theorem setQueue_msens0 (q : Queue) : (s.setQueue q).msens0 = s.msens0 := rfl
@[simp] theorem setQueue_msens1 (q : Queue) : (s.setQueue q).msens1 = s.msens1 := rfl
@[simp] theorem setQueue_swept (q : Queue) : (s.setQueue q).swept = s.swept := rfl
@[simp] theorem setQueue_chLost (q : Queue) : (s.setQueue q).chLost = s.chLost := rfl
@[simp] theorem setQueue_spare (q : Queue) : (s.setQueue q).spare = s.spare := rfl
@[simp] theorem setQueue_spared (q : Queue) : (s.setQueue q).spared = s.spared := rfl
@[simp] theorem setQueue_wdogLast (q : Queue) : (s.setQueue q).wdogLast = s.wdogLast := rfl
@[simp] theorem setQueue_brandw (q : Queue) : (s.setQueue q).brandw = s.brandw := rfl
@[simp] theorem setQueue_swapImg (q : Queue) : (s.setQueue q).swapImg = s.swapImg := rfl
@[simp] theorem setQueue_swapStat (q : Queue) : (s.setQueue q).swapStat = s.swapStat := rfl
@[simp] theorem setQueue_paused (q : Queue) : (s.setQueue q).paused = s.paused := rfl
@[simp] theorem setQueue_swapVer (q : Queue) : (s.setQueue q).swapVer = s.swapVer := rfl
@[simp] theorem setQueue_swapFrom (q : Queue) : (s.setQueue q).swapFrom = s.swapFrom := rfl
@[simp] theorem setQueue_pauseAt (q : Queue) : (s.setQueue q).pauseAt = s.pauseAt := rfl
@[simp] theorem setQueue_riggingAt (q : Queue) : (s.setQueue q).riggingAt = s.riggingAt := rfl
@[simp] theorem setQueue_minVer0 (q : Queue) : (s.setQueue q).minVer0 = s.minVer0 := rfl
@[simp] theorem setQueue_minVer1 (q : Queue) : (s.setQueue q).minVer1 = s.minVer1 := rfl
@[simp] theorem setQueue_ver0 (q : Queue) : (s.setQueue q).ver0 = s.ver0 := rfl
@[simp] theorem setQueue_ver1 (q : Queue) : (s.setQueue q).ver1 = s.ver1 := rfl
@[simp] theorem setQueue_ladder (q : Queue) : (s.setQueue q).ladder = s.ladder := rfl
@[simp] theorem setQueue_served (q : Queue) : (s.setQueue q).served = s.served := rfl
@[simp] theorem setQueue_inSlot (q : Queue) : (s.setQueue q).inSlot = s.inSlot := rfl

/-! `State.setLink` -/

@[simp] theorem setLink_clk (n : Nat) (l : Link) : (s.setLink n l).clk = s.clk := rfl
@[simp] theorem setLink_stage (n : Nat) (l : Link) : (s.setLink n l).stage = s.stage := rfl
@[simp] theorem setLink_agenda (n : Nat) (l : Link) : (s.setLink n l).agenda = s.agenda := rfl
@[simp] theorem setLink_cursor (n : Nat) (l : Link) : (s.setLink n l).cursor = s.cursor := rfl
@[simp] theorem setLink_cur (n : Nat) (l : Link) : (s.setLink n l).cur = s.cur := rfl
@[simp] theorem setLink_issued (n : Nat) (l : Link) : (s.setLink n l).issued = s.issued := rfl
@[simp] theorem setLink_begun (n : Nat) (l : Link) : (s.setLink n l).begun = s.begun := rfl
@[simp] theorem setLink_nextUid (n : Nat) (l : Link) : (s.setLink n l).nextUid = s.nextUid := rfl
@[simp] theorem setLink_freeCtr (n : Nat) (l : Link) : (s.setLink n l).freeCtr = s.freeCtr := rfl
@[simp] theorem setLink_mem (n : Nat) (l : Link) : (s.setLink n l).mem = s.mem := rfl
@[simp] theorem setLink_full (n : Nat) (l : Link) : (s.setLink n l).full = s.full := rfl
@[simp] theorem setLink_bad (n : Nat) (l : Link) : (s.setLink n l).bad = s.bad := rfl
@[simp] theorem setLink_cores (n : Nat) (l : Link) : (s.setLink n l).cores = s.cores := rfl
@[simp] theorem setLink_dies (n : Nat) (l : Link) : (s.setLink n l).dies = s.dies := rfl
@[simp] theorem setLink_ctxs (n : Nat) (l : Link) : (s.setLink n l).ctxs = s.ctxs := rfl
@[simp] theorem setLink_queues (n : Nat) (l : Link) : (s.setLink n l).queues = s.queues := rfl
@[simp] theorem setLink_kernels (n : Nat) (l : Link) : (s.setLink n l).kernels = s.kernels := rfl
@[simp] theorem setLink_groups (n : Nat) (l : Link) : (s.setLink n l).groups = s.groups := rfl
@[simp] theorem setLink_waves (n : Nat) (l : Link) : (s.setLink n l).waves = s.waves := rfl
@[simp] theorem setLink_grants (n : Nat) (l : Link) : (s.setLink n l).grants = s.grants := rfl
@[simp] theorem setLink_ebq (n : Nat) (l : Link) : (s.setLink n l).ebq = s.ebq := rfl
@[simp] theorem setLink_regFaults (n : Nat) (l : Link) : (s.setLink n l).regFaults = s.regFaults := rfl
@[simp] theorem setLink_bins (n : Nat) (l : Link) : (s.setLink n l).bins = s.bins := rfl
@[simp] theorem setLink_ops (n : Nat) (l : Link) : (s.setLink n l).ops = s.ops := rfl
@[simp] theorem setLink_hqs (n : Nat) (l : Link) : (s.setLink n l).hqs = s.hqs := rfl
@[simp] theorem setLink_packets (n : Nat) (l : Link) : (s.setLink n l).packets = s.packets := rfl
@[simp] theorem setLink_used (n : Nat) (l : Link) : (s.setLink n l).used = s.used := rfl
@[simp] theorem setLink_reins (n : Nat) (l : Link) : (s.setLink n l).reins = s.reins := rfl
@[simp] theorem setLink_unacked (n : Nat) (l : Link) : (s.setLink n l).unacked = s.unacked := rfl
@[simp] theorem setLink_flags (n : Nat) (l : Link) : (s.setLink n l).flags = s.flags := rfl
@[simp] theorem setLink_acks (n : Nat) (l : Link) : (s.setLink n l).acks = s.acks := rfl
@[simp] theorem setLink_inbound (n : Nat) (l : Link) : (s.setLink n l).inbound = s.inbound := rfl
@[simp] theorem setLink_links (n : Nat) (l : Link) : (s.setLink n l).links = replace (·.n == n) { n := n, link := l } s.links := rfl
@[simp] theorem setLink_fabric (n : Nat) (l : Link) : (s.setLink n l).fabric = s.fabric := rfl
@[simp] theorem setLink_windows (n : Nat) (l : Link) : (s.setLink n l).windows = s.windows := rfl
@[simp] theorem setLink_delivs (n : Nat) (l : Link) : (s.setLink n l).delivs = s.delivs := rfl
@[simp] theorem setLink_nums (n : Nat) (l : Link) : (s.setLink n l).nums = s.nums := rfl
@[simp] theorem setLink_msens0 (n : Nat) (l : Link) : (s.setLink n l).msens0 = s.msens0 := rfl
@[simp] theorem setLink_msens1 (n : Nat) (l : Link) : (s.setLink n l).msens1 = s.msens1 := rfl
@[simp] theorem setLink_swept (n : Nat) (l : Link) : (s.setLink n l).swept = s.swept := rfl
@[simp] theorem setLink_chLost (n : Nat) (l : Link) : (s.setLink n l).chLost = s.chLost := rfl
@[simp] theorem setLink_spare (n : Nat) (l : Link) : (s.setLink n l).spare = s.spare := rfl
@[simp] theorem setLink_spared (n : Nat) (l : Link) : (s.setLink n l).spared = s.spared := rfl
@[simp] theorem setLink_wdogLast (n : Nat) (l : Link) : (s.setLink n l).wdogLast = s.wdogLast := rfl
@[simp] theorem setLink_brandw (n : Nat) (l : Link) : (s.setLink n l).brandw = s.brandw := rfl
@[simp] theorem setLink_swapImg (n : Nat) (l : Link) : (s.setLink n l).swapImg = s.swapImg := rfl
@[simp] theorem setLink_swapStat (n : Nat) (l : Link) : (s.setLink n l).swapStat = s.swapStat := rfl
@[simp] theorem setLink_paused (n : Nat) (l : Link) : (s.setLink n l).paused = s.paused := rfl
@[simp] theorem setLink_swapVer (n : Nat) (l : Link) : (s.setLink n l).swapVer = s.swapVer := rfl
@[simp] theorem setLink_swapFrom (n : Nat) (l : Link) : (s.setLink n l).swapFrom = s.swapFrom := rfl
@[simp] theorem setLink_pauseAt (n : Nat) (l : Link) : (s.setLink n l).pauseAt = s.pauseAt := rfl
@[simp] theorem setLink_riggingAt (n : Nat) (l : Link) : (s.setLink n l).riggingAt = s.riggingAt := rfl
@[simp] theorem setLink_minVer0 (n : Nat) (l : Link) : (s.setLink n l).minVer0 = s.minVer0 := rfl
@[simp] theorem setLink_minVer1 (n : Nat) (l : Link) : (s.setLink n l).minVer1 = s.minVer1 := rfl
@[simp] theorem setLink_ver0 (n : Nat) (l : Link) : (s.setLink n l).ver0 = s.ver0 := rfl
@[simp] theorem setLink_ver1 (n : Nat) (l : Link) : (s.setLink n l).ver1 = s.ver1 := rfl
@[simp] theorem setLink_ladder (n : Nat) (l : Link) : (s.setLink n l).ladder = s.ladder := rfl
@[simp] theorem setLink_served (n : Nat) (l : Link) : (s.setLink n l).served = s.served := rfl
@[simp] theorem setLink_inSlot (n : Nat) (l : Link) : (s.setLink n l).inSlot = s.inSlot := rfl

/-! `State.putByte` -/

@[simp] theorem putByte_clk (k : Nat) (b : Byte) : (s.putByte k b).clk = s.clk := rfl
@[simp] theorem putByte_stage (k : Nat) (b : Byte) : (s.putByte k b).stage = s.stage := rfl
@[simp] theorem putByte_agenda (k : Nat) (b : Byte) : (s.putByte k b).agenda = s.agenda := rfl
@[simp] theorem putByte_cursor (k : Nat) (b : Byte) : (s.putByte k b).cursor = s.cursor := rfl
@[simp] theorem putByte_cur (k : Nat) (b : Byte) : (s.putByte k b).cur = s.cur := rfl
@[simp] theorem putByte_issued (k : Nat) (b : Byte) : (s.putByte k b).issued = s.issued := rfl
@[simp] theorem putByte_begun (k : Nat) (b : Byte) : (s.putByte k b).begun = s.begun := rfl
@[simp] theorem putByte_nextUid (k : Nat) (b : Byte) : (s.putByte k b).nextUid = s.nextUid := rfl
@[simp] theorem putByte_freeCtr (k : Nat) (b : Byte) : (s.putByte k b).freeCtr = s.freeCtr := rfl
@[simp] theorem putByte_mem (k : Nat) (b : Byte) : (s.putByte k b).mem = sput s.mem k b := rfl
@[simp] theorem putByte_full (k : Nat) (b : Byte) : (s.putByte k b).full = s.full := rfl
@[simp] theorem putByte_bad (k : Nat) (b : Byte) : (s.putByte k b).bad = s.bad := rfl
@[simp] theorem putByte_cores (k : Nat) (b : Byte) : (s.putByte k b).cores = s.cores := rfl
@[simp] theorem putByte_dies (k : Nat) (b : Byte) : (s.putByte k b).dies = s.dies := rfl
@[simp] theorem putByte_ctxs (k : Nat) (b : Byte) : (s.putByte k b).ctxs = s.ctxs := rfl
@[simp] theorem putByte_queues (k : Nat) (b : Byte) : (s.putByte k b).queues = s.queues := rfl
@[simp] theorem putByte_kernels (k : Nat) (b : Byte) : (s.putByte k b).kernels = s.kernels := rfl
@[simp] theorem putByte_groups (k : Nat) (b : Byte) : (s.putByte k b).groups = s.groups := rfl
@[simp] theorem putByte_waves (k : Nat) (b : Byte) : (s.putByte k b).waves = s.waves := rfl
@[simp] theorem putByte_grants (k : Nat) (b : Byte) : (s.putByte k b).grants = s.grants := rfl
@[simp] theorem putByte_ebq (k : Nat) (b : Byte) : (s.putByte k b).ebq = s.ebq := rfl
@[simp] theorem putByte_regFaults (k : Nat) (b : Byte) : (s.putByte k b).regFaults = s.regFaults := rfl
@[simp] theorem putByte_bins (k : Nat) (b : Byte) : (s.putByte k b).bins = s.bins := rfl
@[simp] theorem putByte_ops (k : Nat) (b : Byte) : (s.putByte k b).ops = s.ops := rfl
@[simp] theorem putByte_hqs (k : Nat) (b : Byte) : (s.putByte k b).hqs = s.hqs := rfl
@[simp] theorem putByte_packets (k : Nat) (b : Byte) : (s.putByte k b).packets = s.packets := rfl
@[simp] theorem putByte_used (k : Nat) (b : Byte) : (s.putByte k b).used = s.used := rfl
@[simp] theorem putByte_reins (k : Nat) (b : Byte) : (s.putByte k b).reins = s.reins := rfl
@[simp] theorem putByte_unacked (k : Nat) (b : Byte) : (s.putByte k b).unacked = s.unacked := rfl
@[simp] theorem putByte_flags (k : Nat) (b : Byte) : (s.putByte k b).flags = s.flags := rfl
@[simp] theorem putByte_acks (k : Nat) (b : Byte) : (s.putByte k b).acks = s.acks := rfl
@[simp] theorem putByte_inbound (k : Nat) (b : Byte) : (s.putByte k b).inbound = s.inbound := rfl
@[simp] theorem putByte_links (k : Nat) (b : Byte) : (s.putByte k b).links = s.links := rfl
@[simp] theorem putByte_fabric (k : Nat) (b : Byte) : (s.putByte k b).fabric = s.fabric := rfl
@[simp] theorem putByte_windows (k : Nat) (b : Byte) : (s.putByte k b).windows = s.windows := rfl
@[simp] theorem putByte_delivs (k : Nat) (b : Byte) : (s.putByte k b).delivs = s.delivs := rfl
@[simp] theorem putByte_nums (k : Nat) (b : Byte) : (s.putByte k b).nums = s.nums := rfl
@[simp] theorem putByte_msens0 (k : Nat) (b : Byte) : (s.putByte k b).msens0 = s.msens0 := rfl
@[simp] theorem putByte_msens1 (k : Nat) (b : Byte) : (s.putByte k b).msens1 = s.msens1 := rfl
@[simp] theorem putByte_swept (k : Nat) (b : Byte) : (s.putByte k b).swept = s.swept := rfl
@[simp] theorem putByte_chLost (k : Nat) (b : Byte) : (s.putByte k b).chLost = s.chLost := rfl
@[simp] theorem putByte_spare (k : Nat) (b : Byte) : (s.putByte k b).spare = s.spare := rfl
@[simp] theorem putByte_spared (k : Nat) (b : Byte) : (s.putByte k b).spared = s.spared := rfl
@[simp] theorem putByte_wdogLast (k : Nat) (b : Byte) : (s.putByte k b).wdogLast = s.wdogLast := rfl
@[simp] theorem putByte_brandw (k : Nat) (b : Byte) : (s.putByte k b).brandw = s.brandw := rfl
@[simp] theorem putByte_swapImg (k : Nat) (b : Byte) : (s.putByte k b).swapImg = s.swapImg := rfl
@[simp] theorem putByte_swapStat (k : Nat) (b : Byte) : (s.putByte k b).swapStat = s.swapStat := rfl
@[simp] theorem putByte_paused (k : Nat) (b : Byte) : (s.putByte k b).paused = s.paused := rfl
@[simp] theorem putByte_swapVer (k : Nat) (b : Byte) : (s.putByte k b).swapVer = s.swapVer := rfl
@[simp] theorem putByte_swapFrom (k : Nat) (b : Byte) : (s.putByte k b).swapFrom = s.swapFrom := rfl
@[simp] theorem putByte_pauseAt (k : Nat) (b : Byte) : (s.putByte k b).pauseAt = s.pauseAt := rfl
@[simp] theorem putByte_riggingAt (k : Nat) (b : Byte) : (s.putByte k b).riggingAt = s.riggingAt := rfl
@[simp] theorem putByte_minVer0 (k : Nat) (b : Byte) : (s.putByte k b).minVer0 = s.minVer0 := rfl
@[simp] theorem putByte_minVer1 (k : Nat) (b : Byte) : (s.putByte k b).minVer1 = s.minVer1 := rfl
@[simp] theorem putByte_ver0 (k : Nat) (b : Byte) : (s.putByte k b).ver0 = s.ver0 := rfl
@[simp] theorem putByte_ver1 (k : Nat) (b : Byte) : (s.putByte k b).ver1 = s.ver1 := rfl
@[simp] theorem putByte_ladder (k : Nat) (b : Byte) : (s.putByte k b).ladder = s.ladder := rfl
@[simp] theorem putByte_served (k : Nat) (b : Byte) : (s.putByte k b).served = s.served := rfl
@[simp] theorem putByte_inSlot (k : Nat) (b : Byte) : (s.putByte k b).inSlot = s.inSlot := rfl

/-! `State.putBytes` -/

@[simp] theorem putBytes_clk (k : Nat) (bs : List Byte) : (s.putBytes k bs).clk = s.clk := rfl
@[simp] theorem putBytes_stage (k : Nat) (bs : List Byte) : (s.putBytes k bs).stage = s.stage := rfl
@[simp] theorem putBytes_agenda (k : Nat) (bs : List Byte) : (s.putBytes k bs).agenda = s.agenda := rfl
@[simp] theorem putBytes_cursor (k : Nat) (bs : List Byte) : (s.putBytes k bs).cursor = s.cursor := rfl
@[simp] theorem putBytes_cur (k : Nat) (bs : List Byte) : (s.putBytes k bs).cur = s.cur := rfl
@[simp] theorem putBytes_issued (k : Nat) (bs : List Byte) : (s.putBytes k bs).issued = s.issued := rfl
@[simp] theorem putBytes_begun (k : Nat) (bs : List Byte) : (s.putBytes k bs).begun = s.begun := rfl
@[simp] theorem putBytes_nextUid (k : Nat) (bs : List Byte) : (s.putBytes k bs).nextUid = s.nextUid := rfl
@[simp] theorem putBytes_freeCtr (k : Nat) (bs : List Byte) : (s.putBytes k bs).freeCtr = s.freeCtr := rfl
@[simp] theorem putBytes_mem (k : Nat) (bs : List Byte) : (s.putBytes k bs).mem = sputs s.mem k bs := rfl
@[simp] theorem putBytes_full (k : Nat) (bs : List Byte) : (s.putBytes k bs).full = s.full := rfl
@[simp] theorem putBytes_bad (k : Nat) (bs : List Byte) : (s.putBytes k bs).bad = s.bad := rfl
@[simp] theorem putBytes_cores (k : Nat) (bs : List Byte) : (s.putBytes k bs).cores = s.cores := rfl
@[simp] theorem putBytes_dies (k : Nat) (bs : List Byte) : (s.putBytes k bs).dies = s.dies := rfl
@[simp] theorem putBytes_ctxs (k : Nat) (bs : List Byte) : (s.putBytes k bs).ctxs = s.ctxs := rfl
@[simp] theorem putBytes_queues (k : Nat) (bs : List Byte) : (s.putBytes k bs).queues = s.queues := rfl
@[simp] theorem putBytes_kernels (k : Nat) (bs : List Byte) : (s.putBytes k bs).kernels = s.kernels := rfl
@[simp] theorem putBytes_groups (k : Nat) (bs : List Byte) : (s.putBytes k bs).groups = s.groups := rfl
@[simp] theorem putBytes_waves (k : Nat) (bs : List Byte) : (s.putBytes k bs).waves = s.waves := rfl
@[simp] theorem putBytes_grants (k : Nat) (bs : List Byte) : (s.putBytes k bs).grants = s.grants := rfl
@[simp] theorem putBytes_ebq (k : Nat) (bs : List Byte) : (s.putBytes k bs).ebq = s.ebq := rfl
@[simp] theorem putBytes_regFaults (k : Nat) (bs : List Byte) : (s.putBytes k bs).regFaults = s.regFaults := rfl
@[simp] theorem putBytes_bins (k : Nat) (bs : List Byte) : (s.putBytes k bs).bins = s.bins := rfl
@[simp] theorem putBytes_ops (k : Nat) (bs : List Byte) : (s.putBytes k bs).ops = s.ops := rfl
@[simp] theorem putBytes_hqs (k : Nat) (bs : List Byte) : (s.putBytes k bs).hqs = s.hqs := rfl
@[simp] theorem putBytes_packets (k : Nat) (bs : List Byte) : (s.putBytes k bs).packets = s.packets := rfl
@[simp] theorem putBytes_used (k : Nat) (bs : List Byte) : (s.putBytes k bs).used = s.used := rfl
@[simp] theorem putBytes_reins (k : Nat) (bs : List Byte) : (s.putBytes k bs).reins = s.reins := rfl
@[simp] theorem putBytes_unacked (k : Nat) (bs : List Byte) : (s.putBytes k bs).unacked = s.unacked := rfl
@[simp] theorem putBytes_flags (k : Nat) (bs : List Byte) : (s.putBytes k bs).flags = s.flags := rfl
@[simp] theorem putBytes_acks (k : Nat) (bs : List Byte) : (s.putBytes k bs).acks = s.acks := rfl
@[simp] theorem putBytes_inbound (k : Nat) (bs : List Byte) : (s.putBytes k bs).inbound = s.inbound := rfl
@[simp] theorem putBytes_links (k : Nat) (bs : List Byte) : (s.putBytes k bs).links = s.links := rfl
@[simp] theorem putBytes_fabric (k : Nat) (bs : List Byte) : (s.putBytes k bs).fabric = s.fabric := rfl
@[simp] theorem putBytes_windows (k : Nat) (bs : List Byte) : (s.putBytes k bs).windows = s.windows := rfl
@[simp] theorem putBytes_delivs (k : Nat) (bs : List Byte) : (s.putBytes k bs).delivs = s.delivs := rfl
@[simp] theorem putBytes_nums (k : Nat) (bs : List Byte) : (s.putBytes k bs).nums = s.nums := rfl
@[simp] theorem putBytes_msens0 (k : Nat) (bs : List Byte) : (s.putBytes k bs).msens0 = s.msens0 := rfl
@[simp] theorem putBytes_msens1 (k : Nat) (bs : List Byte) : (s.putBytes k bs).msens1 = s.msens1 := rfl
@[simp] theorem putBytes_swept (k : Nat) (bs : List Byte) : (s.putBytes k bs).swept = s.swept := rfl
@[simp] theorem putBytes_chLost (k : Nat) (bs : List Byte) : (s.putBytes k bs).chLost = s.chLost := rfl
@[simp] theorem putBytes_spare (k : Nat) (bs : List Byte) : (s.putBytes k bs).spare = s.spare := rfl
@[simp] theorem putBytes_spared (k : Nat) (bs : List Byte) : (s.putBytes k bs).spared = s.spared := rfl
@[simp] theorem putBytes_wdogLast (k : Nat) (bs : List Byte) : (s.putBytes k bs).wdogLast = s.wdogLast := rfl
@[simp] theorem putBytes_brandw (k : Nat) (bs : List Byte) : (s.putBytes k bs).brandw = s.brandw := rfl
@[simp] theorem putBytes_swapImg (k : Nat) (bs : List Byte) : (s.putBytes k bs).swapImg = s.swapImg := rfl
@[simp] theorem putBytes_swapStat (k : Nat) (bs : List Byte) : (s.putBytes k bs).swapStat = s.swapStat := rfl
@[simp] theorem putBytes_paused (k : Nat) (bs : List Byte) : (s.putBytes k bs).paused = s.paused := rfl
@[simp] theorem putBytes_swapVer (k : Nat) (bs : List Byte) : (s.putBytes k bs).swapVer = s.swapVer := rfl
@[simp] theorem putBytes_swapFrom (k : Nat) (bs : List Byte) : (s.putBytes k bs).swapFrom = s.swapFrom := rfl
@[simp] theorem putBytes_pauseAt (k : Nat) (bs : List Byte) : (s.putBytes k bs).pauseAt = s.pauseAt := rfl
@[simp] theorem putBytes_riggingAt (k : Nat) (bs : List Byte) : (s.putBytes k bs).riggingAt = s.riggingAt := rfl
@[simp] theorem putBytes_minVer0 (k : Nat) (bs : List Byte) : (s.putBytes k bs).minVer0 = s.minVer0 := rfl
@[simp] theorem putBytes_minVer1 (k : Nat) (bs : List Byte) : (s.putBytes k bs).minVer1 = s.minVer1 := rfl
@[simp] theorem putBytes_ver0 (k : Nat) (bs : List Byte) : (s.putBytes k bs).ver0 = s.ver0 := rfl
@[simp] theorem putBytes_ver1 (k : Nat) (bs : List Byte) : (s.putBytes k bs).ver1 = s.ver1 := rfl
@[simp] theorem putBytes_ladder (k : Nat) (bs : List Byte) : (s.putBytes k bs).ladder = s.ladder := rfl
@[simp] theorem putBytes_served (k : Nat) (bs : List Byte) : (s.putBytes k bs).served = s.served := rfl
@[simp] theorem putBytes_inSlot (k : Nat) (bs : List Byte) : (s.putBytes k bs).inSlot = s.inSlot := rfl

/-! `State.note` -/

@[simp] theorem note_clk (u lanes : Nat) (pc : Word) : (s.note u lanes pc).clk = s.clk := rfl
@[simp] theorem note_stage (u lanes : Nat) (pc : Word) : (s.note u lanes pc).stage = s.stage := rfl
@[simp] theorem note_agenda (u lanes : Nat) (pc : Word) : (s.note u lanes pc).agenda = s.agenda := rfl
@[simp] theorem note_cursor (u lanes : Nat) (pc : Word) : (s.note u lanes pc).cursor = s.cursor := rfl
@[simp] theorem note_cur (u lanes : Nat) (pc : Word) : (s.note u lanes pc).cur = s.cur := rfl
@[simp] theorem note_issued (u lanes : Nat) (pc : Word) : (s.note u lanes pc).issued = s.issued ++ [(u, lanes, pc)] := rfl
@[simp] theorem note_begun (u lanes : Nat) (pc : Word) : (s.note u lanes pc).begun = s.begun := rfl
@[simp] theorem note_nextUid (u lanes : Nat) (pc : Word) : (s.note u lanes pc).nextUid = s.nextUid := rfl
@[simp] theorem note_freeCtr (u lanes : Nat) (pc : Word) : (s.note u lanes pc).freeCtr = s.freeCtr := rfl
@[simp] theorem note_mem (u lanes : Nat) (pc : Word) : (s.note u lanes pc).mem = s.mem := rfl
@[simp] theorem note_full (u lanes : Nat) (pc : Word) : (s.note u lanes pc).full = s.full := rfl
@[simp] theorem note_bad (u lanes : Nat) (pc : Word) : (s.note u lanes pc).bad = s.bad := rfl
@[simp] theorem note_cores (u lanes : Nat) (pc : Word) : (s.note u lanes pc).cores = s.cores := rfl
@[simp] theorem note_dies (u lanes : Nat) (pc : Word) : (s.note u lanes pc).dies = s.dies := rfl
@[simp] theorem note_ctxs (u lanes : Nat) (pc : Word) : (s.note u lanes pc).ctxs = s.ctxs := rfl
@[simp] theorem note_queues (u lanes : Nat) (pc : Word) : (s.note u lanes pc).queues = s.queues := rfl
@[simp] theorem note_kernels (u lanes : Nat) (pc : Word) : (s.note u lanes pc).kernels = s.kernels := rfl
@[simp] theorem note_groups (u lanes : Nat) (pc : Word) : (s.note u lanes pc).groups = s.groups := rfl
@[simp] theorem note_waves (u lanes : Nat) (pc : Word) : (s.note u lanes pc).waves = s.waves := rfl
@[simp] theorem note_grants (u lanes : Nat) (pc : Word) : (s.note u lanes pc).grants = s.grants := rfl
@[simp] theorem note_ebq (u lanes : Nat) (pc : Word) : (s.note u lanes pc).ebq = s.ebq := rfl
@[simp] theorem note_regFaults (u lanes : Nat) (pc : Word) : (s.note u lanes pc).regFaults = s.regFaults := rfl
@[simp] theorem note_bins (u lanes : Nat) (pc : Word) : (s.note u lanes pc).bins = s.bins := rfl
@[simp] theorem note_ops (u lanes : Nat) (pc : Word) : (s.note u lanes pc).ops = s.ops := rfl
@[simp] theorem note_hqs (u lanes : Nat) (pc : Word) : (s.note u lanes pc).hqs = s.hqs := rfl
@[simp] theorem note_packets (u lanes : Nat) (pc : Word) : (s.note u lanes pc).packets = s.packets := rfl
@[simp] theorem note_used (u lanes : Nat) (pc : Word) : (s.note u lanes pc).used = s.used := rfl
@[simp] theorem note_reins (u lanes : Nat) (pc : Word) : (s.note u lanes pc).reins = s.reins := rfl
@[simp] theorem note_unacked (u lanes : Nat) (pc : Word) : (s.note u lanes pc).unacked = s.unacked := rfl
@[simp] theorem note_flags (u lanes : Nat) (pc : Word) : (s.note u lanes pc).flags = s.flags := rfl
@[simp] theorem note_acks (u lanes : Nat) (pc : Word) : (s.note u lanes pc).acks = s.acks := rfl
@[simp] theorem note_inbound (u lanes : Nat) (pc : Word) : (s.note u lanes pc).inbound = s.inbound := rfl
@[simp] theorem note_links (u lanes : Nat) (pc : Word) : (s.note u lanes pc).links = s.links := rfl
@[simp] theorem note_fabric (u lanes : Nat) (pc : Word) : (s.note u lanes pc).fabric = s.fabric := rfl
@[simp] theorem note_windows (u lanes : Nat) (pc : Word) : (s.note u lanes pc).windows = s.windows := rfl
@[simp] theorem note_delivs (u lanes : Nat) (pc : Word) : (s.note u lanes pc).delivs = s.delivs := rfl
@[simp] theorem note_nums (u lanes : Nat) (pc : Word) : (s.note u lanes pc).nums = s.nums := rfl
@[simp] theorem note_msens0 (u lanes : Nat) (pc : Word) : (s.note u lanes pc).msens0 = s.msens0 := rfl
@[simp] theorem note_msens1 (u lanes : Nat) (pc : Word) : (s.note u lanes pc).msens1 = s.msens1 := rfl
@[simp] theorem note_swept (u lanes : Nat) (pc : Word) : (s.note u lanes pc).swept = s.swept := rfl
@[simp] theorem note_chLost (u lanes : Nat) (pc : Word) : (s.note u lanes pc).chLost = s.chLost := rfl
@[simp] theorem note_spare (u lanes : Nat) (pc : Word) : (s.note u lanes pc).spare = s.spare := rfl
@[simp] theorem note_spared (u lanes : Nat) (pc : Word) : (s.note u lanes pc).spared = s.spared := rfl
@[simp] theorem note_wdogLast (u lanes : Nat) (pc : Word) : (s.note u lanes pc).wdogLast = s.wdogLast := rfl
@[simp] theorem note_brandw (u lanes : Nat) (pc : Word) : (s.note u lanes pc).brandw = s.brandw := rfl
@[simp] theorem note_swapImg (u lanes : Nat) (pc : Word) : (s.note u lanes pc).swapImg = s.swapImg := rfl
@[simp] theorem note_swapStat (u lanes : Nat) (pc : Word) : (s.note u lanes pc).swapStat = s.swapStat := rfl
@[simp] theorem note_paused (u lanes : Nat) (pc : Word) : (s.note u lanes pc).paused = s.paused := rfl
@[simp] theorem note_swapVer (u lanes : Nat) (pc : Word) : (s.note u lanes pc).swapVer = s.swapVer := rfl
@[simp] theorem note_swapFrom (u lanes : Nat) (pc : Word) : (s.note u lanes pc).swapFrom = s.swapFrom := rfl
@[simp] theorem note_pauseAt (u lanes : Nat) (pc : Word) : (s.note u lanes pc).pauseAt = s.pauseAt := rfl
@[simp] theorem note_riggingAt (u lanes : Nat) (pc : Word) : (s.note u lanes pc).riggingAt = s.riggingAt := rfl
@[simp] theorem note_minVer0 (u lanes : Nat) (pc : Word) : (s.note u lanes pc).minVer0 = s.minVer0 := rfl
@[simp] theorem note_minVer1 (u lanes : Nat) (pc : Word) : (s.note u lanes pc).minVer1 = s.minVer1 := rfl
@[simp] theorem note_ver0 (u lanes : Nat) (pc : Word) : (s.note u lanes pc).ver0 = s.ver0 := rfl
@[simp] theorem note_ver1 (u lanes : Nat) (pc : Word) : (s.note u lanes pc).ver1 = s.ver1 := rfl
@[simp] theorem note_ladder (u lanes : Nat) (pc : Word) : (s.note u lanes pc).ladder = s.ladder := rfl
@[simp] theorem note_served (u lanes : Nat) (pc : Word) : (s.note u lanes pc).served = s.served := rfl
@[simp] theorem note_inSlot (u lanes : Nat) (pc : Word) : (s.note u lanes pc).inSlot = s.inSlot := rfl

/-! `State.holdPipe` -/

@[simp] theorem holdPipe_clk (core quad t : Nat) : (s.holdPipe core quad t).clk = s.clk := rfl
@[simp] theorem holdPipe_stage (core quad t : Nat) : (s.holdPipe core quad t).stage = s.stage := rfl
@[simp] theorem holdPipe_agenda (core quad t : Nat) : (s.holdPipe core quad t).agenda = s.agenda := rfl
@[simp] theorem holdPipe_cursor (core quad t : Nat) : (s.holdPipe core quad t).cursor = s.cursor := rfl
@[simp] theorem holdPipe_cur (core quad t : Nat) : (s.holdPipe core quad t).cur = s.cur := rfl
@[simp] theorem holdPipe_issued (core quad t : Nat) : (s.holdPipe core quad t).issued = s.issued := rfl
@[simp] theorem holdPipe_begun (core quad t : Nat) : (s.holdPipe core quad t).begun = s.begun := rfl
@[simp] theorem holdPipe_nextUid (core quad t : Nat) : (s.holdPipe core quad t).nextUid = s.nextUid := rfl
@[simp] theorem holdPipe_freeCtr (core quad t : Nat) : (s.holdPipe core quad t).freeCtr = s.freeCtr := rfl
@[simp] theorem holdPipe_mem (core quad t : Nat) : (s.holdPipe core quad t).mem = s.mem := rfl
@[simp] theorem holdPipe_full (core quad t : Nat) : (s.holdPipe core quad t).full = s.full := rfl
@[simp] theorem holdPipe_bad (core quad t : Nat) : (s.holdPipe core quad t).bad = s.bad := rfl
@[simp] theorem holdPipe_cores (core quad t : Nat) : (s.holdPipe core quad t).cores = s.cores.set core { s.core core with pipes := (s.core core).pipes.set quad t } := rfl
@[simp] theorem holdPipe_dies (core quad t : Nat) : (s.holdPipe core quad t).dies = s.dies := rfl
@[simp] theorem holdPipe_ctxs (core quad t : Nat) : (s.holdPipe core quad t).ctxs = s.ctxs := rfl
@[simp] theorem holdPipe_queues (core quad t : Nat) : (s.holdPipe core quad t).queues = s.queues := rfl
@[simp] theorem holdPipe_kernels (core quad t : Nat) : (s.holdPipe core quad t).kernels = s.kernels := rfl
@[simp] theorem holdPipe_groups (core quad t : Nat) : (s.holdPipe core quad t).groups = s.groups := rfl
@[simp] theorem holdPipe_waves (core quad t : Nat) : (s.holdPipe core quad t).waves = s.waves := rfl
@[simp] theorem holdPipe_grants (core quad t : Nat) : (s.holdPipe core quad t).grants = s.grants := rfl
@[simp] theorem holdPipe_ebq (core quad t : Nat) : (s.holdPipe core quad t).ebq = s.ebq := rfl
@[simp] theorem holdPipe_regFaults (core quad t : Nat) : (s.holdPipe core quad t).regFaults = s.regFaults := rfl
@[simp] theorem holdPipe_bins (core quad t : Nat) : (s.holdPipe core quad t).bins = s.bins := rfl
@[simp] theorem holdPipe_ops (core quad t : Nat) : (s.holdPipe core quad t).ops = s.ops := rfl
@[simp] theorem holdPipe_hqs (core quad t : Nat) : (s.holdPipe core quad t).hqs = s.hqs := rfl
@[simp] theorem holdPipe_packets (core quad t : Nat) : (s.holdPipe core quad t).packets = s.packets := rfl
@[simp] theorem holdPipe_used (core quad t : Nat) : (s.holdPipe core quad t).used = s.used := rfl
@[simp] theorem holdPipe_reins (core quad t : Nat) : (s.holdPipe core quad t).reins = s.reins := rfl
@[simp] theorem holdPipe_unacked (core quad t : Nat) : (s.holdPipe core quad t).unacked = s.unacked := rfl
@[simp] theorem holdPipe_flags (core quad t : Nat) : (s.holdPipe core quad t).flags = s.flags := rfl
@[simp] theorem holdPipe_acks (core quad t : Nat) : (s.holdPipe core quad t).acks = s.acks := rfl
@[simp] theorem holdPipe_inbound (core quad t : Nat) : (s.holdPipe core quad t).inbound = s.inbound := rfl
@[simp] theorem holdPipe_links (core quad t : Nat) : (s.holdPipe core quad t).links = s.links := rfl
@[simp] theorem holdPipe_fabric (core quad t : Nat) : (s.holdPipe core quad t).fabric = s.fabric := rfl
@[simp] theorem holdPipe_windows (core quad t : Nat) : (s.holdPipe core quad t).windows = s.windows := rfl
@[simp] theorem holdPipe_delivs (core quad t : Nat) : (s.holdPipe core quad t).delivs = s.delivs := rfl
@[simp] theorem holdPipe_nums (core quad t : Nat) : (s.holdPipe core quad t).nums = s.nums := rfl
@[simp] theorem holdPipe_msens0 (core quad t : Nat) : (s.holdPipe core quad t).msens0 = s.msens0 := rfl
@[simp] theorem holdPipe_msens1 (core quad t : Nat) : (s.holdPipe core quad t).msens1 = s.msens1 := rfl
@[simp] theorem holdPipe_swept (core quad t : Nat) : (s.holdPipe core quad t).swept = s.swept := rfl
@[simp] theorem holdPipe_chLost (core quad t : Nat) : (s.holdPipe core quad t).chLost = s.chLost := rfl
@[simp] theorem holdPipe_spare (core quad t : Nat) : (s.holdPipe core quad t).spare = s.spare := rfl
@[simp] theorem holdPipe_spared (core quad t : Nat) : (s.holdPipe core quad t).spared = s.spared := rfl
@[simp] theorem holdPipe_wdogLast (core quad t : Nat) : (s.holdPipe core quad t).wdogLast = s.wdogLast := rfl
@[simp] theorem holdPipe_brandw (core quad t : Nat) : (s.holdPipe core quad t).brandw = s.brandw := rfl
@[simp] theorem holdPipe_swapImg (core quad t : Nat) : (s.holdPipe core quad t).swapImg = s.swapImg := rfl
@[simp] theorem holdPipe_swapStat (core quad t : Nat) : (s.holdPipe core quad t).swapStat = s.swapStat := rfl
@[simp] theorem holdPipe_paused (core quad t : Nat) : (s.holdPipe core quad t).paused = s.paused := rfl
@[simp] theorem holdPipe_swapVer (core quad t : Nat) : (s.holdPipe core quad t).swapVer = s.swapVer := rfl
@[simp] theorem holdPipe_swapFrom (core quad t : Nat) : (s.holdPipe core quad t).swapFrom = s.swapFrom := rfl
@[simp] theorem holdPipe_pauseAt (core quad t : Nat) : (s.holdPipe core quad t).pauseAt = s.pauseAt := rfl
@[simp] theorem holdPipe_riggingAt (core quad t : Nat) : (s.holdPipe core quad t).riggingAt = s.riggingAt := rfl
@[simp] theorem holdPipe_minVer0 (core quad t : Nat) : (s.holdPipe core quad t).minVer0 = s.minVer0 := rfl
@[simp] theorem holdPipe_minVer1 (core quad t : Nat) : (s.holdPipe core quad t).minVer1 = s.minVer1 := rfl
@[simp] theorem holdPipe_ver0 (core quad t : Nat) : (s.holdPipe core quad t).ver0 = s.ver0 := rfl
@[simp] theorem holdPipe_ver1 (core quad t : Nat) : (s.holdPipe core quad t).ver1 = s.ver1 := rfl
@[simp] theorem holdPipe_ladder (core quad t : Nat) : (s.holdPipe core quad t).ladder = s.ladder := rfl
@[simp] theorem holdPipe_served (core quad t : Nat) : (s.holdPipe core quad t).served = s.served := rfl
@[simp] theorem holdPipe_inSlot (core quad t : Nat) : (s.holdPipe core quad t).inSlot = s.inSlot := rfl

/-! `State.fresh` -/

@[simp] theorem fresh_snd : s.fresh.2 = s.nextUid := rfl
@[simp] theorem fresh_clk : s.fresh.1.clk = s.clk := rfl
@[simp] theorem fresh_stage : s.fresh.1.stage = s.stage := rfl
@[simp] theorem fresh_agenda : s.fresh.1.agenda = s.agenda := rfl
@[simp] theorem fresh_cursor : s.fresh.1.cursor = s.cursor := rfl
@[simp] theorem fresh_cur : s.fresh.1.cur = s.cur := rfl
@[simp] theorem fresh_issued : s.fresh.1.issued = s.issued := rfl
@[simp] theorem fresh_begun : s.fresh.1.begun = s.begun := rfl
@[simp] theorem fresh_nextUid : s.fresh.1.nextUid = s.nextUid + 1 := rfl
@[simp] theorem fresh_freeCtr : s.fresh.1.freeCtr = s.freeCtr := rfl
@[simp] theorem fresh_mem : s.fresh.1.mem = s.mem := rfl
@[simp] theorem fresh_full : s.fresh.1.full = s.full := rfl
@[simp] theorem fresh_bad : s.fresh.1.bad = s.bad := rfl
@[simp] theorem fresh_cores : s.fresh.1.cores = s.cores := rfl
@[simp] theorem fresh_dies : s.fresh.1.dies = s.dies := rfl
@[simp] theorem fresh_ctxs : s.fresh.1.ctxs = s.ctxs := rfl
@[simp] theorem fresh_queues : s.fresh.1.queues = s.queues := rfl
@[simp] theorem fresh_kernels : s.fresh.1.kernels = s.kernels := rfl
@[simp] theorem fresh_groups : s.fresh.1.groups = s.groups := rfl
@[simp] theorem fresh_waves : s.fresh.1.waves = s.waves := rfl
@[simp] theorem fresh_grants : s.fresh.1.grants = s.grants := rfl
@[simp] theorem fresh_ebq : s.fresh.1.ebq = s.ebq := rfl
@[simp] theorem fresh_regFaults : s.fresh.1.regFaults = s.regFaults := rfl
@[simp] theorem fresh_bins : s.fresh.1.bins = s.bins := rfl
@[simp] theorem fresh_ops : s.fresh.1.ops = s.ops := rfl
@[simp] theorem fresh_hqs : s.fresh.1.hqs = s.hqs := rfl
@[simp] theorem fresh_packets : s.fresh.1.packets = s.packets := rfl
@[simp] theorem fresh_used : s.fresh.1.used = s.used := rfl
@[simp] theorem fresh_reins : s.fresh.1.reins = s.reins := rfl
@[simp] theorem fresh_unacked : s.fresh.1.unacked = s.unacked := rfl
@[simp] theorem fresh_flags : s.fresh.1.flags = s.flags := rfl
@[simp] theorem fresh_acks : s.fresh.1.acks = s.acks := rfl
@[simp] theorem fresh_inbound : s.fresh.1.inbound = s.inbound := rfl
@[simp] theorem fresh_links : s.fresh.1.links = s.links := rfl
@[simp] theorem fresh_fabric : s.fresh.1.fabric = s.fabric := rfl
@[simp] theorem fresh_windows : s.fresh.1.windows = s.windows := rfl
@[simp] theorem fresh_delivs : s.fresh.1.delivs = s.delivs := rfl
@[simp] theorem fresh_nums : s.fresh.1.nums = s.nums := rfl
@[simp] theorem fresh_msens0 : s.fresh.1.msens0 = s.msens0 := rfl
@[simp] theorem fresh_msens1 : s.fresh.1.msens1 = s.msens1 := rfl
@[simp] theorem fresh_swept : s.fresh.1.swept = s.swept := rfl
@[simp] theorem fresh_chLost : s.fresh.1.chLost = s.chLost := rfl
@[simp] theorem fresh_spare : s.fresh.1.spare = s.spare := rfl
@[simp] theorem fresh_spared : s.fresh.1.spared = s.spared := rfl
@[simp] theorem fresh_wdogLast : s.fresh.1.wdogLast = s.wdogLast := rfl
@[simp] theorem fresh_brandw : s.fresh.1.brandw = s.brandw := rfl
@[simp] theorem fresh_swapImg : s.fresh.1.swapImg = s.swapImg := rfl
@[simp] theorem fresh_swapStat : s.fresh.1.swapStat = s.swapStat := rfl
@[simp] theorem fresh_paused : s.fresh.1.paused = s.paused := rfl
@[simp] theorem fresh_swapVer : s.fresh.1.swapVer = s.swapVer := rfl
@[simp] theorem fresh_swapFrom : s.fresh.1.swapFrom = s.swapFrom := rfl
@[simp] theorem fresh_pauseAt : s.fresh.1.pauseAt = s.pauseAt := rfl
@[simp] theorem fresh_riggingAt : s.fresh.1.riggingAt = s.riggingAt := rfl
@[simp] theorem fresh_minVer0 : s.fresh.1.minVer0 = s.minVer0 := rfl
@[simp] theorem fresh_minVer1 : s.fresh.1.minVer1 = s.minVer1 := rfl
@[simp] theorem fresh_ver0 : s.fresh.1.ver0 = s.ver0 := rfl
@[simp] theorem fresh_ver1 : s.fresh.1.ver1 = s.ver1 := rfl
@[simp] theorem fresh_ladder : s.fresh.1.ladder = s.ladder := rfl
@[simp] theorem fresh_served : s.fresh.1.served = s.served := rfl
@[simp] theorem fresh_inSlot : s.fresh.1.inSlot = s.inSlot := rfl

end Sys2Proof.Laws
end

