-- ==== Sys2Proof/Laws/Store.lean ====
section
/-! SUPPORT. The tables of words and the byte stores: read after write, and that every operation keeps the canonical form. -/

namespace Sys2Proof.Laws

open Sys2Proof Sys2Proof.Machine

/-- The keys of a table strictly rise. -/
abbrev Rises {α : Type} (l : List (Nat × α)) : Prop := l.Pairwise fun a b => a.1 < b.1

/-- The canonical form of a store is that its keys strictly rise. -/
theorem wf_iff_rises (m : Store) : Memory.wf m ↔ Rises m := by
  induction m with
  | nil => simp [Memory.wf, Memory.sorted]
  | cons c r ih =>
    cases r with
    | nil => simp [Memory.wf, Memory.sorted]
    | cons d r =>
      obtain ⟨a, x⟩ := c
      obtain ⟨b, y⟩ := d
      rw [Rises, List.pairwise_cons, ← Rises, ← ih]
      simp only [Memory.wf, Memory.sorted, Bool.and_eq_true, decide_eq_true_eq]
      constructor
      · rintro ⟨h, hs⟩
        refine ⟨fun e he => ?_, hs⟩
        rcases List.mem_cons.1 he with rfl | he
        · exact h
        · exact Nat.lt_trans h ((List.pairwise_cons.1 (ih.1 hs)).1 e he)
      · rintro ⟨h, hs⟩
        exact ⟨h _ List.mem_cons_self, hs⟩

/-- The memory after reset is in canonical form. -/
theorem reset_mem_wf : Memory.wf State.reset.mem := rfl

/-! Byte stores -/

@[simp] theorem sget?_nil (k : Nat) : sget? [] k = none := rfl

/-- The byte just written is read. -/
@[simp] theorem sget?_sput_same (m : Store) (k : Nat) (v : Byte) : sget? (sput m k v) k = some v := by
  induction m with
  | nil => simp [sput, sget?]
  | cons c r ih =>
    obtain ⟨a, x⟩ := c
    rcases Nat.lt_trichotomy k a with h | h | h
    · simp [sput, sget?, h]
    · simp [sput, sget?, h]
    · simp [sput, sget?, Nat.not_lt_of_gt h, Nat.ne_of_lt h, Nat.ne_of_gt h, ih]

/-- A write leaves every other byte alone. -/
theorem sget?_sput_ne (m : Store) (k j : Nat) (v : Byte) (h : j ≠ k) : sget? (sput m k v) j = sget? m j := by
  induction m with
  | nil => simp [sput, sget?, h.symm]
  | cons c r ih =>
    obtain ⟨a, x⟩ := c
    simp only [sput]
    split
    · simp only [sget?, h.symm, if_false]
      split
      · rw [if_neg (by omega), if_pos (by omega)]
      · rfl
    · split
      · subst a; simp [sget?, h.symm]
      · simp [sget?, ih]

/-- Every cell of a store after a write is the one written or was there. -/
theorem mem_sput {m : Store} {k : Nat} {v : Byte} {c : Nat × Byte} (h : c ∈ sput m k v) : c = (k, v) ∨ c ∈ m := by
  induction m with
  | nil => simpa [sput] using h
  | cons d r ih =>
    obtain ⟨a, x⟩ := d
    simp only [sput] at h
    split at h
    · simpa using h
    · split at h
      · rcases List.mem_cons.1 h with h | h
        · exact .inl h
        · exact .inr (List.mem_cons_of_mem _ h)
      · rcases List.mem_cons.1 h with h | h
        · exact .inr (h ▸ List.mem_cons_self)
        · exact (ih h).imp id (List.mem_cons_of_mem _)

theorem sput_rises {m : Store} (k : Nat) (v : Byte) (h : Rises m) : Rises (sput m k v) := by
  induction m with
  | nil => simp [sput]
  | cons d r ih =>
    obtain ⟨a, x⟩ := d
    have hc := List.pairwise_cons.1 h
    simp only [sput]
    split
    · rename_i hk
      refine List.pairwise_cons.2 ⟨fun c hcm => ?_, h⟩
      rcases List.mem_cons.1 hcm with rfl | hcm
      · exact hk
      · exact Nat.lt_trans hk (hc.1 c hcm)
    · split
      · rename_i he; subst he; exact List.pairwise_cons.2 hc
      · refine List.pairwise_cons.2 ⟨fun c hcm => ?_, ih hc.2⟩
        rcases mem_sput hcm with rfl | hcm
        · show a < k; omega
        · exact hc.1 c hcm

/-- A write keeps the canonical form. -/
theorem sput_wf {m : Store} (k : Nat) (v : Byte) (h : Memory.wf m) : Memory.wf (sput m k v) :=
  (wf_iff_rises _).2 (sput_rises k v ((wf_iff_rises _).1 h))

/-- A run of writes keeps the canonical form. -/
theorem sputs_wf {m : Store} (k : Nat) (bs : List Byte) (h : Memory.wf m) : Memory.wf (sputs m k bs) := by
  induction bs generalizing m k with
  | nil => exact h
  | cons b bs ih => exact ih _ (sput_wf k b h)

/-- A merge keeps the canonical form. -/
theorem smerge_wf {m : Store} (cells : Store) (h : Memory.wf m) : Memory.wf (smerge m cells) := by
  unfold smerge
  induction cells generalizing m with
  | nil => exact h
  | cons c r ih => exact ih (sput_wf c.1 c.2 h)

/-- A selection of cells keeps the canonical form. -/
theorem filter_wf {m : Store} (p : Nat × Byte → Bool) (h : Memory.wf m) : Memory.wf (m.filter p) :=
  (wf_iff_rises _).2 (((wf_iff_rises _).1 h).filter _)

theorem scells_wf {m : Store} (k n : Nat) (h : Memory.wf m) : Memory.wf (scells m k n) := filter_wf _ h

theorem sdels_wf {m : Store} (k n : Nat) (h : Memory.wf m) : Memory.wf (sdels m k n) := filter_wf _ h

theorem sdel_rises {m : Store} (k : Nat) (h : Rises m) : Rises (sdel m k) ∧ ∀ c ∈ sdel m k, c ∈ m := by
  induction m with
  | nil => simp [sdel]
  | cons d r ih =>
    obtain ⟨a, x⟩ := d
    have hc := List.pairwise_cons.1 h
    have hi := ih hc.2
    simp only [sdel]
    split
    · exact ⟨h, fun _ hm => hm⟩
    · split
      · exact ⟨hc.2, fun _ hm => List.mem_cons_of_mem _ hm⟩
      · refine ⟨List.pairwise_cons.2 ⟨fun c hm => hc.1 c (hi.2 c hm), hi.1⟩, fun c hm => ?_⟩
        rcases List.mem_cons.1 hm with rfl | hm
        · exact List.mem_cons_self
        · exact List.mem_cons_of_mem _ (hi.2 c hm)

theorem sdel_wf {m : Store} (k : Nat) (h : Memory.wf m) : Memory.wf (sdel m k) :=
  (wf_iff_rises _).2 (sdel_rises k ((wf_iff_rises _).1 h)).1

/-- What a run of written bytes reads as. -/
theorem sget?_sputs (m : Store) (k j : Nat) (bs : List Byte) :
    sget? (sputs m k bs) j = if k ≤ j ∧ j < k + bs.length then bs[j - k]? else sget? m j := by
  induction bs generalizing m k with
  | nil => simp only [sputs, List.length_nil]; rw [if_neg (by omega)]
  | cons b bs ih =>
    rw [sputs, ih]
    rcases Nat.lt_trichotomy j k with h | h | h
    · rw [if_neg (by omega), if_neg (by omega), sget?_sput_ne _ _ _ _ (by omega)]
    · subst h
      rw [if_neg (by omega), if_pos (by simp)]
      simp
    · have : j - k = (j - (k + 1)) + 1 := by omega
      by_cases hb : j < k + 1 + bs.length
      · rw [if_pos (by omega), if_pos (by simp; omega), this]; simp
      · rw [if_neg (by omega), if_neg (by simp; omega), sget?_sput_ne _ _ _ _ (by omega)]

/-! Bytes of the state -/

/-- The byte just written is read. -/
@[simp] theorem byteAt_putByte_same (s : State) (k : Nat) (b : Byte) : (s.putByte k b).byteAt k = b := by
  simp [State.byteAt]

/-- The shares of groups do not depend on the bytes. -/
@[simp] theorem shareOf?_putByte (s : State) (k j : Nat) (b : Byte) : (s.putByte k b).shareOf? j = s.shareOf? j := rfl

@[simp] theorem shareOf?_putBytes (s : State) (k j : Nat) (bs : List Byte) : (s.putBytes k bs).shareOf? j = s.shareOf? j := rfl

@[simp] theorem die_putByte (s : State) (k d : Nat) (b : Byte) : (s.putByte k b).die d = s.die d := rfl

@[simp] theorem die_putBytes (s : State) (k d : Nat) (bs : List Byte) : (s.putBytes k bs).die d = s.die d := rfl

/-- A write leaves every other byte alone. -/
theorem byteAt_putByte_ne (s : State) (k j : Nat) (b : Byte) (h : j ≠ k) : (s.putByte k b).byteAt j = s.byteAt j := by
  simp [State.byteAt, sget?_sput_ne _ _ _ _ h]

/-- A run of writes leaves every byte outside it alone. -/
theorem byteAt_putBytes_out (s : State) (k j : Nat) (bs : List Byte) (h : j < k ∨ k + bs.length ≤ j) :
    (s.putBytes k bs).byteAt j = s.byteAt j := by
  have hn : ¬(k ≤ j ∧ j < k + bs.length) := by omega
  simp [State.byteAt, sget?_sputs, hn]

/-- A run of writes is read back. -/
theorem byteAt_putBytes_in (s : State) (k i : Nat) (bs : List Byte) (h : i < bs.length) :
    (s.putBytes k bs).byteAt (k + i) = bs[i] := by
  have hi : k ≤ k + i ∧ k + i < k + bs.length := by omega
  simp [State.byteAt, sget?_sputs, hi, h]

/-! Tables of words -/

@[simp] theorem wget_nil (k : Nat) : wget [] k = 0 := rfl

theorem wget_wput_same (m : Words) (k : Nat) (v : Word) : wget (wput m k v) k = v := by
  induction m with
  | nil => simp [wput, wget]
  | cons c r ih =>
    obtain ⟨a, x⟩ := c
    simp only [wput]
    split
    · simp [wget]
    · split
      · simp [wget]
      · rename_i h1 h2
        rw [wget, if_neg (fun h => h2 h.symm), ih]

theorem wget_wput_ne (m : Words) (k j : Nat) (v : Word) (hj : j ≠ k) : wget (wput m k v) j = wget m j := by
  induction m with
  | nil => simp [wput, wget, hj.symm]
  | cons c r ih =>
    obtain ⟨a, x⟩ := c
    simp only [wput]
    split
    · rw [wget, if_neg hj.symm]
    · split
      · rename_i h1 h2
        rw [wget, wget, if_neg hj.symm, if_neg (fun h => hj (h2 ▸ h.symm))]
      · rw [wget, wget, ih]

theorem wget_filter (m : Words) (k j : Nat) : wget (m.filter (·.1 != k)) j = if j = k then 0 else wget m j := by
  induction m with
  | nil => simp
  | cons c r ih =>
    obtain ⟨a, x⟩ := c
    by_cases ha : a = k
    · subst ha
      simp only [List.filter_cons, bne_self_eq_false, Bool.false_eq_true, if_false, ih, wget]
      by_cases hj : j = a
      · simp [hj]
      · simp [hj, Ne.symm hj]
    · have hb : (a != k) = true := by simpa using ha
      simp only [List.filter_cons, hb, if_true, wget, ih]
      by_cases hj : a = j
      · subst hj; simp [ha]
      · simp [hj]

/-- The word just written is read. -/
@[simp] theorem wget_wset_same (m : Words) (k : Nat) (v : Word) : wget (wset m k v) k = v := by
  unfold wset
  split
  · rename_i h; rw [wget_filter, if_pos rfl, h]
  · exact wget_wput_same m k v

/-- A write leaves every other word alone. -/
theorem wget_wset_ne (m : Words) (k j : Nat) (v : Word) (hj : j ≠ k) : wget (wset m k v) j = wget m j := by
  unfold wset
  split
  · rw [wget_filter, if_neg hj]
  · exact wget_wput_ne m k j v hj

theorem mem_wput {m : Words} {k : Nat} {v : Word} {c : Nat × Word} (h : c ∈ wput m k v) : c = (k, v) ∨ c ∈ m := by
  induction m with
  | nil => simpa [wput] using h
  | cons d r ih =>
    obtain ⟨a, x⟩ := d
    simp only [wput] at h
    split at h
    · simpa using h
    · split at h
      · rcases List.mem_cons.1 h with h | h
        · exact .inl h
        · exact .inr (List.mem_cons_of_mem _ h)
      · rcases List.mem_cons.1 h with h | h
        · exact .inr (h ▸ List.mem_cons_self)
        · exact (ih h).imp id (List.mem_cons_of_mem _)

/-- A write keeps the canonical form of a table. -/
theorem wset_rises {m : Words} (k : Nat) (v : Word) (h : Rises m) : Rises (wset m k v) := by
  unfold wset
  split
  · exact h.filter _
  · clear * - h
    induction m with
    | nil => simp [wput]
    | cons d r ih =>
      obtain ⟨a, x⟩ := d
      have hc := List.pairwise_cons.1 h
      simp only [wput]
      split
      · rename_i hk
        refine List.pairwise_cons.2 ⟨fun c hcm => ?_, h⟩
        rcases List.mem_cons.1 hcm with rfl | hcm
        · exact hk
        · exact Nat.lt_trans hk (hc.1 c hcm)
      · split
        · rename_i he
          subst he; exact List.pairwise_cons.2 hc
        · refine List.pairwise_cons.2 ⟨fun c hcm => ?_, ih hc.2⟩
          rcases mem_wput hcm with rfl | hcm
          · show a < k; omega
          · exact hc.1 c hcm

/-! Scalar registers (R101) -/

/-- s0 reads as zero. -/
@[simp] theorem sget_zero (w : Wave) : w.sget 0 = 0 := rfl

/-- A write to s0 is discarded. -/
@[simp] theorem sset_zero (w : Wave) (v : Word) : w.sset 0 v = w := rfl

/-- The scalar register just written is read. -/
theorem sget_sset_same (w : Wave) (n : Nat) (v : Word) (hn : n ≠ 0) : (w.sset n v).sget n = v := by
  simp [Wave.sget, Wave.sset, hn, wget_wset_same]

/-- A write leaves every other scalar register alone. -/
theorem sget_sset_ne (w : Wave) (n j : Nat) (v : Word) (hj : j ≠ n) : (w.sset n v).sget j = w.sget j := by
  by_cases hn : n = 0
  · simp [Wave.sset, hn]
  · simp [Wave.sget, Wave.sset, hn, wget_wset_ne _ n j v hj]

end Sys2Proof.Laws
end

