-- ==== Sys2Proof/Laws/Wave.lean ====
section
/-! SUPPORT. What each write of a register does to each field of a wave: one lemma per field per write. -/

namespace Sys2Proof.Laws

open Sys2Proof Sys2Proof.Machine

variable (w : Wave)

/-! `Wave.sset` -/

@[simp] theorem sset_uid (n : Nat) (v : Word) : (w.sset n v).uid = w.uid := by unfold Wave.sset; split <;> rfl
@[simp] theorem sset_group (n : Nat) (v : Word) : (w.sset n v).group = w.group := by unfold Wave.sset; split <;> rfl
@[simp] theorem sset_core (n : Nat) (v : Word) : (w.sset n v).core = w.core := by unfold Wave.sset; split <;> rfl
@[simp] theorem sset_quad (n : Nat) (v : Word) : (w.sset n v).quad = w.quad := by unfold Wave.sset; split <;> rfl
@[simp] theorem sset_slot (n : Nat) (v : Word) : (w.sset n v).slot = w.slot := by unfold Wave.sset; split <;> rfl
@[simp] theorem sset_index (n : Nat) (v : Word) : (w.sset n v).index = w.index := by unfold Wave.sset; split <;> rfl
@[simp] theorem sset_st (n : Nat) (v : Word) : (w.sset n v).st = w.st := by unfold Wave.sset; split <;> rfl
@[simp] theorem sset_slotHeld (n : Nat) (v : Word) : (w.sset n v).slotHeld = w.slotHeld := by unfold Wave.sset; split <;> rfl
@[simp] theorem sset_parts (n : Nat) (v : Word) : (w.sset n v).parts = w.parts := by unfold Wave.sset; split <;> rfl
@[simp] theorem sset_turn (n : Nat) (v : Word) : (w.sset n v).turn = w.turn := by unfold Wave.sset; split <;> rfl
@[simp] theorem sset_win (n : Nat) (v : Word) : (w.sset n v).win = w.win := by unfold Wave.sset; split <;> rfl
@[simp] theorem sset_cc (n : Nat) (v : Word) : (w.sset n v).cc = w.cc := by unfold Wave.sset; split <;> rfl
@[simp] theorem sset_sf (n : Nat) (v : Word) : (w.sset n v).sf = w.sf := by unfold Wave.sset; split <;> rfl
@[simp] theorem sset_key (n : Nat) (v : Word) : (w.sset n v).key = w.key := by unfold Wave.sset; split <;> rfl
@[simp] theorem sset_ctr (n : Nat) (v : Word) : (w.sset n v).ctr = w.ctr := by unfold Wave.sset; split <;> rfl
@[simp] theorem sset_tb (n : Nat) (v : Word) : (w.sset n v).tb = w.tb := by unfold Wave.sset; split <;> rfl
@[simp] theorem sset_ctrw (n : Nat) (v : Word) : (w.sset n v).ctrw = w.ctrw := by unfold Wave.sset; split <;> rfl
@[simp] theorem sset_ctrwNext (n : Nat) (v : Word) : (w.sset n v).ctrwNext = w.ctrwNext := by unfold Wave.sset; split <;> rfl
@[simp] theorem sset_tcause (n : Nat) (v : Word) : (w.sset n v).tcause = w.tcause := by unfold Wave.sset; split <;> rfl
@[simp] theorem sset_tpc (n : Nat) (v : Word) : (w.sset n v).tpc = w.tpc := by unfold Wave.sset; split <;> rfl
@[simp] theorem sset_tinfo (n : Nat) (v : Word) : (w.sset n v).tinfo = w.tinfo := by unfold Wave.sset; split <;> rfl
@[simp] theorem sset_tlanes (n : Nat) (v : Word) : (w.sset n v).tlanes = w.tlanes := by unfold Wave.sset; split <;> rfl
@[simp] theorem sset_outbox (n : Nat) (v : Word) : (w.sset n v).outbox = w.outbox := by unfold Wave.sset; split <;> rfl
@[simp] theorem sset_batch (n : Nat) (v : Word) : (w.sset n v).batch = w.batch := by unfold Wave.sset; split <;> rfl
@[simp] theorem sset_arrives (n : Nat) (v : Word) : (w.sset n v).arrives = w.arrives := by unfold Wave.sset; split <;> rfl
@[simp] theorem sset_passed (n : Nat) (v : Word) : (w.sset n v).passed = w.passed := by unfold Wave.sset; split <;> rfl
@[simp] theorem sset_early (n : Nat) (v : Word) : (w.sset n v).early = w.early := by unfold Wave.sset; split <;> rfl
@[simp] theorem sset_stk (n : Nat) (v : Word) : (w.sset n v).stk = w.stk := by unfold Wave.sset; split <;> rfl
@[simp] theorem sset_vpend (n : Nat) (v : Word) : (w.sset n v).vpend = w.vpend := by unfold Wave.sset; split <;> rfl
@[simp] theorem sset_loads (n : Nat) (v : Word) : (w.sset n v).loads = w.loads := by unfold Wave.sset; split <;> rfl
@[simp] theorem sset_deferred (n : Nat) (v : Word) : (w.sset n v).deferred = w.deferred := by unfold Wave.sset; split <;> rfl
@[simp] theorem sset_hold (n : Nat) (v : Word) : (w.sset n v).hold = w.hold := by unfold Wave.sset; split <;> rfl
@[simp] theorem sset_lastIssue (n : Nat) (v : Word) : (w.sset n v).lastIssue = w.lastIssue := by unfold Wave.sset; split <;> rfl
@[simp] theorem sset_nextIssue (n : Nat) (v : Word) : (w.sset n v).nextIssue = w.nextIssue := by unfold Wave.sset; split <;> rfl
@[simp] theorem sset_sleepEnd (n : Nat) (v : Word) : (w.sset n v).sleepEnd = w.sleepEnd := by unfold Wave.sset; split <;> rfl
@[simp] theorem sset_rejects (n : Nat) (v : Word) : (w.sset n v).rejects = w.rejects := by unfold Wave.sset; split <;> rfl
@[simp] theorem sset_progress (n : Nat) (v : Word) : (w.sset n v).progress = w.progress := by unfold Wave.sset; split <;> rfl
@[simp] theorem sset_eligible (n : Nat) (v : Word) : (w.sset n v).eligible = w.eligible := by unfold Wave.sset; split <;> rfl
@[simp] theorem sset_rcache (n : Nat) (v : Word) : (w.sset n v).rcache = w.rcache := by unfold Wave.sset; split <;> rfl

/-! `Wave.ccSet` -/

@[simp] theorem ccSet_uid (n lane : Nat) (f : BitVec 4) : (w.ccSet n lane f).uid = w.uid := rfl
@[simp] theorem ccSet_group (n lane : Nat) (f : BitVec 4) : (w.ccSet n lane f).group = w.group := rfl
@[simp] theorem ccSet_core (n lane : Nat) (f : BitVec 4) : (w.ccSet n lane f).core = w.core := rfl
@[simp] theorem ccSet_quad (n lane : Nat) (f : BitVec 4) : (w.ccSet n lane f).quad = w.quad := rfl
@[simp] theorem ccSet_slot (n lane : Nat) (f : BitVec 4) : (w.ccSet n lane f).slot = w.slot := rfl
@[simp] theorem ccSet_index (n lane : Nat) (f : BitVec 4) : (w.ccSet n lane f).index = w.index := rfl
@[simp] theorem ccSet_st (n lane : Nat) (f : BitVec 4) : (w.ccSet n lane f).st = w.st := rfl
@[simp] theorem ccSet_slotHeld (n lane : Nat) (f : BitVec 4) : (w.ccSet n lane f).slotHeld = w.slotHeld := rfl
@[simp] theorem ccSet_parts (n lane : Nat) (f : BitVec 4) : (w.ccSet n lane f).parts = w.parts := rfl
@[simp] theorem ccSet_turn (n lane : Nat) (f : BitVec 4) : (w.ccSet n lane f).turn = w.turn := rfl
@[simp] theorem ccSet_win (n lane : Nat) (f : BitVec 4) : (w.ccSet n lane f).win = w.win := rfl
@[simp] theorem ccSet_sregs (n lane : Nat) (f : BitVec 4) : (w.ccSet n lane f).sregs = w.sregs := rfl
@[simp] theorem ccSet_sf (n lane : Nat) (f : BitVec 4) : (w.ccSet n lane f).sf = w.sf := rfl
@[simp] theorem ccSet_key (n lane : Nat) (f : BitVec 4) : (w.ccSet n lane f).key = w.key := rfl
@[simp] theorem ccSet_ctr (n lane : Nat) (f : BitVec 4) : (w.ccSet n lane f).ctr = w.ctr := rfl
@[simp] theorem ccSet_tb (n lane : Nat) (f : BitVec 4) : (w.ccSet n lane f).tb = w.tb := rfl
@[simp] theorem ccSet_ctrw (n lane : Nat) (f : BitVec 4) : (w.ccSet n lane f).ctrw = w.ctrw := rfl
@[simp] theorem ccSet_ctrwNext (n lane : Nat) (f : BitVec 4) : (w.ccSet n lane f).ctrwNext = w.ctrwNext := rfl
@[simp] theorem ccSet_tcause (n lane : Nat) (f : BitVec 4) : (w.ccSet n lane f).tcause = w.tcause := rfl
@[simp] theorem ccSet_tpc (n lane : Nat) (f : BitVec 4) : (w.ccSet n lane f).tpc = w.tpc := rfl
@[simp] theorem ccSet_tinfo (n lane : Nat) (f : BitVec 4) : (w.ccSet n lane f).tinfo = w.tinfo := rfl
@[simp] theorem ccSet_tlanes (n lane : Nat) (f : BitVec 4) : (w.ccSet n lane f).tlanes = w.tlanes := rfl
@[simp] theorem ccSet_outbox (n lane : Nat) (f : BitVec 4) : (w.ccSet n lane f).outbox = w.outbox := rfl
@[simp] theorem ccSet_batch (n lane : Nat) (f : BitVec 4) : (w.ccSet n lane f).batch = w.batch := rfl
@[simp] theorem ccSet_arrives (n lane : Nat) (f : BitVec 4) : (w.ccSet n lane f).arrives = w.arrives := rfl
@[simp] theorem ccSet_passed (n lane : Nat) (f : BitVec 4) : (w.ccSet n lane f).passed = w.passed := rfl
@[simp] theorem ccSet_early (n lane : Nat) (f : BitVec 4) : (w.ccSet n lane f).early = w.early := rfl
@[simp] theorem ccSet_stk (n lane : Nat) (f : BitVec 4) : (w.ccSet n lane f).stk = w.stk := rfl
@[simp] theorem ccSet_vpend (n lane : Nat) (f : BitVec 4) : (w.ccSet n lane f).vpend = w.vpend := rfl
@[simp] theorem ccSet_loads (n lane : Nat) (f : BitVec 4) : (w.ccSet n lane f).loads = w.loads := rfl
@[simp] theorem ccSet_deferred (n lane : Nat) (f : BitVec 4) : (w.ccSet n lane f).deferred = w.deferred := rfl
@[simp] theorem ccSet_hold (n lane : Nat) (f : BitVec 4) : (w.ccSet n lane f).hold = w.hold := rfl
@[simp] theorem ccSet_lastIssue (n lane : Nat) (f : BitVec 4) : (w.ccSet n lane f).lastIssue = w.lastIssue := rfl
@[simp] theorem ccSet_nextIssue (n lane : Nat) (f : BitVec 4) : (w.ccSet n lane f).nextIssue = w.nextIssue := rfl
@[simp] theorem ccSet_sleepEnd (n lane : Nat) (f : BitVec 4) : (w.ccSet n lane f).sleepEnd = w.sleepEnd := rfl
@[simp] theorem ccSet_rejects (n lane : Nat) (f : BitVec 4) : (w.ccSet n lane f).rejects = w.rejects := rfl
@[simp] theorem ccSet_progress (n lane : Nat) (f : BitVec 4) : (w.ccSet n lane f).progress = w.progress := rfl
@[simp] theorem ccSet_eligible (n lane : Nat) (f : BitVec 4) : (w.ccSet n lane f).eligible = w.eligible := rfl
@[simp] theorem ccSet_rcache (n lane : Nat) (f : BitVec 4) : (w.ccSet n lane f).rcache = w.rcache := rfl

/-! `Wave.sfSet` -/

@[simp] theorem sfSet_uid (f : BitVec 4) : (w.sfSet f).uid = w.uid := rfl
@[simp] theorem sfSet_group (f : BitVec 4) : (w.sfSet f).group = w.group := rfl
@[simp] theorem sfSet_core (f : BitVec 4) : (w.sfSet f).core = w.core := rfl
@[simp] theorem sfSet_quad (f : BitVec 4) : (w.sfSet f).quad = w.quad := rfl
@[simp] theorem sfSet_slot (f : BitVec 4) : (w.sfSet f).slot = w.slot := rfl
@[simp] theorem sfSet_index (f : BitVec 4) : (w.sfSet f).index = w.index := rfl
@[simp] theorem sfSet_st (f : BitVec 4) : (w.sfSet f).st = w.st := rfl
@[simp] theorem sfSet_slotHeld (f : BitVec 4) : (w.sfSet f).slotHeld = w.slotHeld := rfl
@[simp] theorem sfSet_parts (f : BitVec 4) : (w.sfSet f).parts = w.parts := rfl
@[simp] theorem sfSet_turn (f : BitVec 4) : (w.sfSet f).turn = w.turn := rfl
@[simp] theorem sfSet_win (f : BitVec 4) : (w.sfSet f).win = w.win := rfl
@[simp] theorem sfSet_sregs (f : BitVec 4) : (w.sfSet f).sregs = w.sregs := rfl
@[simp] theorem sfSet_cc (f : BitVec 4) : (w.sfSet f).cc = w.cc := rfl
@[simp] theorem sfSet_key (f : BitVec 4) : (w.sfSet f).key = w.key := rfl
@[simp] theorem sfSet_ctr (f : BitVec 4) : (w.sfSet f).ctr = w.ctr := rfl
@[simp] theorem sfSet_tb (f : BitVec 4) : (w.sfSet f).tb = w.tb := rfl
@[simp] theorem sfSet_ctrw (f : BitVec 4) : (w.sfSet f).ctrw = w.ctrw := rfl
@[simp] theorem sfSet_ctrwNext (f : BitVec 4) : (w.sfSet f).ctrwNext = w.ctrwNext := rfl
@[simp] theorem sfSet_tcause (f : BitVec 4) : (w.sfSet f).tcause = w.tcause := rfl
@[simp] theorem sfSet_tpc (f : BitVec 4) : (w.sfSet f).tpc = w.tpc := rfl
@[simp] theorem sfSet_tinfo (f : BitVec 4) : (w.sfSet f).tinfo = w.tinfo := rfl
@[simp] theorem sfSet_tlanes (f : BitVec 4) : (w.sfSet f).tlanes = w.tlanes := rfl
@[simp] theorem sfSet_outbox (f : BitVec 4) : (w.sfSet f).outbox = w.outbox := rfl
@[simp] theorem sfSet_batch (f : BitVec 4) : (w.sfSet f).batch = w.batch := rfl
@[simp] theorem sfSet_arrives (f : BitVec 4) : (w.sfSet f).arrives = w.arrives := rfl
@[simp] theorem sfSet_passed (f : BitVec 4) : (w.sfSet f).passed = w.passed := rfl
@[simp] theorem sfSet_early (f : BitVec 4) : (w.sfSet f).early = w.early := rfl
@[simp] theorem sfSet_stk (f : BitVec 4) : (w.sfSet f).stk = w.stk := rfl
@[simp] theorem sfSet_vpend (f : BitVec 4) : (w.sfSet f).vpend = w.vpend := rfl
@[simp] theorem sfSet_loads (f : BitVec 4) : (w.sfSet f).loads = w.loads := rfl
@[simp] theorem sfSet_deferred (f : BitVec 4) : (w.sfSet f).deferred = w.deferred := rfl
@[simp] theorem sfSet_hold (f : BitVec 4) : (w.sfSet f).hold = w.hold := rfl
@[simp] theorem sfSet_lastIssue (f : BitVec 4) : (w.sfSet f).lastIssue = w.lastIssue := rfl
@[simp] theorem sfSet_nextIssue (f : BitVec 4) : (w.sfSet f).nextIssue = w.nextIssue := rfl
@[simp] theorem sfSet_sleepEnd (f : BitVec 4) : (w.sfSet f).sleepEnd = w.sleepEnd := rfl
@[simp] theorem sfSet_rejects (f : BitVec 4) : (w.sfSet f).rejects = w.rejects := rfl
@[simp] theorem sfSet_progress (f : BitVec 4) : (w.sfSet f).progress = w.progress := rfl
@[simp] theorem sfSet_eligible (f : BitVec 4) : (w.sfSet f).eligible = w.eligible := rfl
@[simp] theorem sfSet_rcache (f : BitVec 4) : (w.sfSet f).rcache = w.rcache := rfl

/-! `Wave.pend` -/

@[simp] theorem pend_uid (clk lat : Nat) (l : Loc) (old : Words) : (w.pend clk lat l old).uid = w.uid := rfl
@[simp] theorem pend_group (clk lat : Nat) (l : Loc) (old : Words) : (w.pend clk lat l old).group = w.group := rfl
@[simp] theorem pend_core (clk lat : Nat) (l : Loc) (old : Words) : (w.pend clk lat l old).core = w.core := rfl
@[simp] theorem pend_quad (clk lat : Nat) (l : Loc) (old : Words) : (w.pend clk lat l old).quad = w.quad := rfl
@[simp] theorem pend_slot (clk lat : Nat) (l : Loc) (old : Words) : (w.pend clk lat l old).slot = w.slot := rfl
@[simp] theorem pend_index (clk lat : Nat) (l : Loc) (old : Words) : (w.pend clk lat l old).index = w.index := rfl
@[simp] theorem pend_st (clk lat : Nat) (l : Loc) (old : Words) : (w.pend clk lat l old).st = w.st := rfl
@[simp] theorem pend_slotHeld (clk lat : Nat) (l : Loc) (old : Words) : (w.pend clk lat l old).slotHeld = w.slotHeld := rfl
@[simp] theorem pend_parts (clk lat : Nat) (l : Loc) (old : Words) : (w.pend clk lat l old).parts = w.parts := rfl
@[simp] theorem pend_turn (clk lat : Nat) (l : Loc) (old : Words) : (w.pend clk lat l old).turn = w.turn := rfl
@[simp] theorem pend_win (clk lat : Nat) (l : Loc) (old : Words) : (w.pend clk lat l old).win = w.win := rfl
@[simp] theorem pend_sregs (clk lat : Nat) (l : Loc) (old : Words) : (w.pend clk lat l old).sregs = w.sregs := rfl
@[simp] theorem pend_cc (clk lat : Nat) (l : Loc) (old : Words) : (w.pend clk lat l old).cc = w.cc := rfl
@[simp] theorem pend_sf (clk lat : Nat) (l : Loc) (old : Words) : (w.pend clk lat l old).sf = w.sf := rfl
@[simp] theorem pend_key (clk lat : Nat) (l : Loc) (old : Words) : (w.pend clk lat l old).key = w.key := rfl
@[simp] theorem pend_ctr (clk lat : Nat) (l : Loc) (old : Words) : (w.pend clk lat l old).ctr = w.ctr := rfl
@[simp] theorem pend_tb (clk lat : Nat) (l : Loc) (old : Words) : (w.pend clk lat l old).tb = w.tb := rfl
@[simp] theorem pend_ctrw (clk lat : Nat) (l : Loc) (old : Words) : (w.pend clk lat l old).ctrw = w.ctrw := rfl
@[simp] theorem pend_ctrwNext (clk lat : Nat) (l : Loc) (old : Words) : (w.pend clk lat l old).ctrwNext = w.ctrwNext := rfl
@[simp] theorem pend_tcause (clk lat : Nat) (l : Loc) (old : Words) : (w.pend clk lat l old).tcause = w.tcause := rfl
@[simp] theorem pend_tpc (clk lat : Nat) (l : Loc) (old : Words) : (w.pend clk lat l old).tpc = w.tpc := rfl
@[simp] theorem pend_tinfo (clk lat : Nat) (l : Loc) (old : Words) : (w.pend clk lat l old).tinfo = w.tinfo := rfl
@[simp] theorem pend_tlanes (clk lat : Nat) (l : Loc) (old : Words) : (w.pend clk lat l old).tlanes = w.tlanes := rfl
@[simp] theorem pend_outbox (clk lat : Nat) (l : Loc) (old : Words) : (w.pend clk lat l old).outbox = w.outbox := rfl
@[simp] theorem pend_batch (clk lat : Nat) (l : Loc) (old : Words) : (w.pend clk lat l old).batch = w.batch := rfl
@[simp] theorem pend_arrives (clk lat : Nat) (l : Loc) (old : Words) : (w.pend clk lat l old).arrives = w.arrives := rfl
@[simp] theorem pend_passed (clk lat : Nat) (l : Loc) (old : Words) : (w.pend clk lat l old).passed = w.passed := rfl
@[simp] theorem pend_stk (clk lat : Nat) (l : Loc) (old : Words) : (w.pend clk lat l old).stk = w.stk := rfl
@[simp] theorem pend_vpend (clk lat : Nat) (l : Loc) (old : Words) : (w.pend clk lat l old).vpend = w.vpend := rfl
@[simp] theorem pend_loads (clk lat : Nat) (l : Loc) (old : Words) : (w.pend clk lat l old).loads = w.loads := rfl
@[simp] theorem pend_deferred (clk lat : Nat) (l : Loc) (old : Words) : (w.pend clk lat l old).deferred = w.deferred := rfl
@[simp] theorem pend_hold (clk lat : Nat) (l : Loc) (old : Words) : (w.pend clk lat l old).hold = w.hold := rfl
@[simp] theorem pend_lastIssue (clk lat : Nat) (l : Loc) (old : Words) : (w.pend clk lat l old).lastIssue = w.lastIssue := rfl
@[simp] theorem pend_nextIssue (clk lat : Nat) (l : Loc) (old : Words) : (w.pend clk lat l old).nextIssue = w.nextIssue := rfl
@[simp] theorem pend_sleepEnd (clk lat : Nat) (l : Loc) (old : Words) : (w.pend clk lat l old).sleepEnd = w.sleepEnd := rfl
@[simp] theorem pend_rejects (clk lat : Nat) (l : Loc) (old : Words) : (w.pend clk lat l old).rejects = w.rejects := rfl
@[simp] theorem pend_progress (clk lat : Nat) (l : Loc) (old : Words) : (w.pend clk lat l old).progress = w.progress := rfl
@[simp] theorem pend_eligible (clk lat : Nat) (l : Loc) (old : Words) : (w.pend clk lat l old).eligible = w.eligible := rfl
@[simp] theorem pend_rcache (clk lat : Nat) (l : Loc) (old : Words) : (w.pend clk lat l old).rcache = w.rcache := rfl

/-! `Wave.writeV` -/

@[simp] theorem writeV_uid (f : Frame) (clk lat n : Nat) (vals : List (Nat × Word)) : (w.writeV f clk lat n vals).uid = w.uid := rfl
@[simp] theorem writeV_group (f : Frame) (clk lat n : Nat) (vals : List (Nat × Word)) : (w.writeV f clk lat n vals).group = w.group := rfl
@[simp] theorem writeV_core (f : Frame) (clk lat n : Nat) (vals : List (Nat × Word)) : (w.writeV f clk lat n vals).core = w.core := rfl
@[simp] theorem writeV_quad (f : Frame) (clk lat n : Nat) (vals : List (Nat × Word)) : (w.writeV f clk lat n vals).quad = w.quad := rfl
@[simp] theorem writeV_slot (f : Frame) (clk lat n : Nat) (vals : List (Nat × Word)) : (w.writeV f clk lat n vals).slot = w.slot := rfl
@[simp] theorem writeV_index (f : Frame) (clk lat n : Nat) (vals : List (Nat × Word)) : (w.writeV f clk lat n vals).index = w.index := rfl
@[simp] theorem writeV_st (f : Frame) (clk lat n : Nat) (vals : List (Nat × Word)) : (w.writeV f clk lat n vals).st = w.st := rfl
@[simp] theorem writeV_slotHeld (f : Frame) (clk lat n : Nat) (vals : List (Nat × Word)) : (w.writeV f clk lat n vals).slotHeld = w.slotHeld := rfl
@[simp] theorem writeV_parts (f : Frame) (clk lat n : Nat) (vals : List (Nat × Word)) : (w.writeV f clk lat n vals).parts = w.parts := rfl
@[simp] theorem writeV_turn (f : Frame) (clk lat n : Nat) (vals : List (Nat × Word)) : (w.writeV f clk lat n vals).turn = w.turn := rfl
@[simp] theorem writeV_sregs (f : Frame) (clk lat n : Nat) (vals : List (Nat × Word)) : (w.writeV f clk lat n vals).sregs = w.sregs := rfl
@[simp] theorem writeV_cc (f : Frame) (clk lat n : Nat) (vals : List (Nat × Word)) : (w.writeV f clk lat n vals).cc = w.cc := rfl
@[simp] theorem writeV_sf (f : Frame) (clk lat n : Nat) (vals : List (Nat × Word)) : (w.writeV f clk lat n vals).sf = w.sf := rfl
@[simp] theorem writeV_key (f : Frame) (clk lat n : Nat) (vals : List (Nat × Word)) : (w.writeV f clk lat n vals).key = w.key := rfl
@[simp] theorem writeV_ctr (f : Frame) (clk lat n : Nat) (vals : List (Nat × Word)) : (w.writeV f clk lat n vals).ctr = w.ctr := rfl
@[simp] theorem writeV_tb (f : Frame) (clk lat n : Nat) (vals : List (Nat × Word)) : (w.writeV f clk lat n vals).tb = w.tb := rfl
@[simp] theorem writeV_ctrw (f : Frame) (clk lat n : Nat) (vals : List (Nat × Word)) : (w.writeV f clk lat n vals).ctrw = w.ctrw := rfl
@[simp] theorem writeV_ctrwNext (f : Frame) (clk lat n : Nat) (vals : List (Nat × Word)) : (w.writeV f clk lat n vals).ctrwNext = w.ctrwNext := rfl
@[simp] theorem writeV_tcause (f : Frame) (clk lat n : Nat) (vals : List (Nat × Word)) : (w.writeV f clk lat n vals).tcause = w.tcause := rfl
@[simp] theorem writeV_tpc (f : Frame) (clk lat n : Nat) (vals : List (Nat × Word)) : (w.writeV f clk lat n vals).tpc = w.tpc := rfl
@[simp] theorem writeV_tinfo (f : Frame) (clk lat n : Nat) (vals : List (Nat × Word)) : (w.writeV f clk lat n vals).tinfo = w.tinfo := rfl
@[simp] theorem writeV_tlanes (f : Frame) (clk lat n : Nat) (vals : List (Nat × Word)) : (w.writeV f clk lat n vals).tlanes = w.tlanes := rfl
@[simp] theorem writeV_outbox (f : Frame) (clk lat n : Nat) (vals : List (Nat × Word)) : (w.writeV f clk lat n vals).outbox = w.outbox := rfl
@[simp] theorem writeV_batch (f : Frame) (clk lat n : Nat) (vals : List (Nat × Word)) : (w.writeV f clk lat n vals).batch = w.batch := rfl
@[simp] theorem writeV_arrives (f : Frame) (clk lat n : Nat) (vals : List (Nat × Word)) : (w.writeV f clk lat n vals).arrives = w.arrives := rfl
@[simp] theorem writeV_passed (f : Frame) (clk lat n : Nat) (vals : List (Nat × Word)) : (w.writeV f clk lat n vals).passed = w.passed := rfl
@[simp] theorem writeV_stk (f : Frame) (clk lat n : Nat) (vals : List (Nat × Word)) : (w.writeV f clk lat n vals).stk = w.stk := rfl
@[simp] theorem writeV_vpend (f : Frame) (clk lat n : Nat) (vals : List (Nat × Word)) : (w.writeV f clk lat n vals).vpend = w.vpend := rfl
@[simp] theorem writeV_loads (f : Frame) (clk lat n : Nat) (vals : List (Nat × Word)) : (w.writeV f clk lat n vals).loads = w.loads := rfl
@[simp] theorem writeV_deferred (f : Frame) (clk lat n : Nat) (vals : List (Nat × Word)) : (w.writeV f clk lat n vals).deferred = w.deferred := rfl
@[simp] theorem writeV_hold (f : Frame) (clk lat n : Nat) (vals : List (Nat × Word)) : (w.writeV f clk lat n vals).hold = w.hold := rfl
@[simp] theorem writeV_lastIssue (f : Frame) (clk lat n : Nat) (vals : List (Nat × Word)) : (w.writeV f clk lat n vals).lastIssue = w.lastIssue := rfl
@[simp] theorem writeV_nextIssue (f : Frame) (clk lat n : Nat) (vals : List (Nat × Word)) : (w.writeV f clk lat n vals).nextIssue = w.nextIssue := rfl
@[simp] theorem writeV_sleepEnd (f : Frame) (clk lat n : Nat) (vals : List (Nat × Word)) : (w.writeV f clk lat n vals).sleepEnd = w.sleepEnd := rfl
@[simp] theorem writeV_rejects (f : Frame) (clk lat n : Nat) (vals : List (Nat × Word)) : (w.writeV f clk lat n vals).rejects = w.rejects := rfl
@[simp] theorem writeV_progress (f : Frame) (clk lat n : Nat) (vals : List (Nat × Word)) : (w.writeV f clk lat n vals).progress = w.progress := rfl
@[simp] theorem writeV_eligible (f : Frame) (clk lat n : Nat) (vals : List (Nat × Word)) : (w.writeV f clk lat n vals).eligible = w.eligible := rfl
@[simp] theorem writeV_rcache (f : Frame) (clk lat n : Nat) (vals : List (Nat × Word)) : (w.writeV f clk lat n vals).rcache = w.rcache := rfl

/-! `Wave.writeS` -/

@[simp] theorem writeS_uid (clk lat n : Nat) (v : Word) : (w.writeS clk lat n v).uid = w.uid := by unfold Wave.writeS; split <;> simp
@[simp] theorem writeS_group (clk lat n : Nat) (v : Word) : (w.writeS clk lat n v).group = w.group := by unfold Wave.writeS; split <;> simp
@[simp] theorem writeS_core (clk lat n : Nat) (v : Word) : (w.writeS clk lat n v).core = w.core := by unfold Wave.writeS; split <;> simp
@[simp] theorem writeS_quad (clk lat n : Nat) (v : Word) : (w.writeS clk lat n v).quad = w.quad := by unfold Wave.writeS; split <;> simp
@[simp] theorem writeS_slot (clk lat n : Nat) (v : Word) : (w.writeS clk lat n v).slot = w.slot := by unfold Wave.writeS; split <;> simp
@[simp] theorem writeS_index (clk lat n : Nat) (v : Word) : (w.writeS clk lat n v).index = w.index := by unfold Wave.writeS; split <;> simp
@[simp] theorem writeS_st (clk lat n : Nat) (v : Word) : (w.writeS clk lat n v).st = w.st := by unfold Wave.writeS; split <;> simp
@[simp] theorem writeS_slotHeld (clk lat n : Nat) (v : Word) : (w.writeS clk lat n v).slotHeld = w.slotHeld := by unfold Wave.writeS; split <;> simp
@[simp] theorem writeS_parts (clk lat n : Nat) (v : Word) : (w.writeS clk lat n v).parts = w.parts := by unfold Wave.writeS; split <;> simp
@[simp] theorem writeS_turn (clk lat n : Nat) (v : Word) : (w.writeS clk lat n v).turn = w.turn := by unfold Wave.writeS; split <;> simp
@[simp] theorem writeS_win (clk lat n : Nat) (v : Word) : (w.writeS clk lat n v).win = w.win := by unfold Wave.writeS; split <;> simp
@[simp] theorem writeS_cc (clk lat n : Nat) (v : Word) : (w.writeS clk lat n v).cc = w.cc := by unfold Wave.writeS; split <;> simp
@[simp] theorem writeS_sf (clk lat n : Nat) (v : Word) : (w.writeS clk lat n v).sf = w.sf := by unfold Wave.writeS; split <;> simp
@[simp] theorem writeS_key (clk lat n : Nat) (v : Word) : (w.writeS clk lat n v).key = w.key := by unfold Wave.writeS; split <;> simp
@[simp] theorem writeS_ctr (clk lat n : Nat) (v : Word) : (w.writeS clk lat n v).ctr = w.ctr := by unfold Wave.writeS; split <;> simp
@[simp] theorem writeS_tb (clk lat n : Nat) (v : Word) : (w.writeS clk lat n v).tb = w.tb := by unfold Wave.writeS; split <;> simp
@[simp] theorem writeS_ctrw (clk lat n : Nat) (v : Word) : (w.writeS clk lat n v).ctrw = w.ctrw := by unfold Wave.writeS; split <;> simp
@[simp] theorem writeS_ctrwNext (clk lat n : Nat) (v : Word) : (w.writeS clk lat n v).ctrwNext = w.ctrwNext := by unfold Wave.writeS; split <;> simp
@[simp] theorem writeS_tcause (clk lat n : Nat) (v : Word) : (w.writeS clk lat n v).tcause = w.tcause := by unfold Wave.writeS; split <;> simp
@[simp] theorem writeS_tpc (clk lat n : Nat) (v : Word) : (w.writeS clk lat n v).tpc = w.tpc := by unfold Wave.writeS; split <;> simp
@[simp] theorem writeS_tinfo (clk lat n : Nat) (v : Word) : (w.writeS clk lat n v).tinfo = w.tinfo := by unfold Wave.writeS; split <;> simp
@[simp] theorem writeS_tlanes (clk lat n : Nat) (v : Word) : (w.writeS clk lat n v).tlanes = w.tlanes := by unfold Wave.writeS; split <;> simp
@[simp] theorem writeS_outbox (clk lat n : Nat) (v : Word) : (w.writeS clk lat n v).outbox = w.outbox := by unfold Wave.writeS; split <;> simp
@[simp] theorem writeS_batch (clk lat n : Nat) (v : Word) : (w.writeS clk lat n v).batch = w.batch := by unfold Wave.writeS; split <;> simp
@[simp] theorem writeS_arrives (clk lat n : Nat) (v : Word) : (w.writeS clk lat n v).arrives = w.arrives := by unfold Wave.writeS; split <;> simp
@[simp] theorem writeS_passed (clk lat n : Nat) (v : Word) : (w.writeS clk lat n v).passed = w.passed := by unfold Wave.writeS; split <;> simp
@[simp] theorem writeS_stk (clk lat n : Nat) (v : Word) : (w.writeS clk lat n v).stk = w.stk := by unfold Wave.writeS; split <;> simp
@[simp] theorem writeS_vpend (clk lat n : Nat) (v : Word) : (w.writeS clk lat n v).vpend = w.vpend := by unfold Wave.writeS; split <;> simp
@[simp] theorem writeS_loads (clk lat n : Nat) (v : Word) : (w.writeS clk lat n v).loads = w.loads := by unfold Wave.writeS; split <;> simp
@[simp] theorem writeS_deferred (clk lat n : Nat) (v : Word) : (w.writeS clk lat n v).deferred = w.deferred := by unfold Wave.writeS; split <;> simp
@[simp] theorem writeS_hold (clk lat n : Nat) (v : Word) : (w.writeS clk lat n v).hold = w.hold := by unfold Wave.writeS; split <;> simp
@[simp] theorem writeS_lastIssue (clk lat n : Nat) (v : Word) : (w.writeS clk lat n v).lastIssue = w.lastIssue := by unfold Wave.writeS; split <;> simp
@[simp] theorem writeS_nextIssue (clk lat n : Nat) (v : Word) : (w.writeS clk lat n v).nextIssue = w.nextIssue := by unfold Wave.writeS; split <;> simp
@[simp] theorem writeS_sleepEnd (clk lat n : Nat) (v : Word) : (w.writeS clk lat n v).sleepEnd = w.sleepEnd := by unfold Wave.writeS; split <;> simp
@[simp] theorem writeS_rejects (clk lat n : Nat) (v : Word) : (w.writeS clk lat n v).rejects = w.rejects := by unfold Wave.writeS; split <;> simp
@[simp] theorem writeS_progress (clk lat n : Nat) (v : Word) : (w.writeS clk lat n v).progress = w.progress := by unfold Wave.writeS; split <;> simp
@[simp] theorem writeS_eligible (clk lat n : Nat) (v : Word) : (w.writeS clk lat n v).eligible = w.eligible := by unfold Wave.writeS; split <;> simp
@[simp] theorem writeS_rcache (clk lat n : Nat) (v : Word) : (w.writeS clk lat n v).rcache = w.rcache := by unfold Wave.writeS; split <;> simp

/-! `Wave.writeSfAll` -/

@[simp] theorem writeSfAll_uid (clk lat : Nat) (v : Word) : (w.writeSfAll clk lat v).uid = w.uid := rfl
@[simp] theorem writeSfAll_group (clk lat : Nat) (v : Word) : (w.writeSfAll clk lat v).group = w.group := rfl
@[simp] theorem writeSfAll_core (clk lat : Nat) (v : Word) : (w.writeSfAll clk lat v).core = w.core := rfl
@[simp] theorem writeSfAll_quad (clk lat : Nat) (v : Word) : (w.writeSfAll clk lat v).quad = w.quad := rfl
@[simp] theorem writeSfAll_slot (clk lat : Nat) (v : Word) : (w.writeSfAll clk lat v).slot = w.slot := rfl
@[simp] theorem writeSfAll_index (clk lat : Nat) (v : Word) : (w.writeSfAll clk lat v).index = w.index := rfl
@[simp] theorem writeSfAll_st (clk lat : Nat) (v : Word) : (w.writeSfAll clk lat v).st = w.st := rfl
@[simp] theorem writeSfAll_slotHeld (clk lat : Nat) (v : Word) : (w.writeSfAll clk lat v).slotHeld = w.slotHeld := rfl
@[simp] theorem writeSfAll_parts (clk lat : Nat) (v : Word) : (w.writeSfAll clk lat v).parts = w.parts := rfl
@[simp] theorem writeSfAll_turn (clk lat : Nat) (v : Word) : (w.writeSfAll clk lat v).turn = w.turn := rfl
@[simp] theorem writeSfAll_win (clk lat : Nat) (v : Word) : (w.writeSfAll clk lat v).win = w.win := rfl
@[simp] theorem writeSfAll_sregs (clk lat : Nat) (v : Word) : (w.writeSfAll clk lat v).sregs = w.sregs := rfl
@[simp] theorem writeSfAll_cc (clk lat : Nat) (v : Word) : (w.writeSfAll clk lat v).cc = w.cc := rfl
@[simp] theorem writeSfAll_key (clk lat : Nat) (v : Word) : (w.writeSfAll clk lat v).key = w.key := rfl
@[simp] theorem writeSfAll_ctr (clk lat : Nat) (v : Word) : (w.writeSfAll clk lat v).ctr = w.ctr := rfl
@[simp] theorem writeSfAll_tb (clk lat : Nat) (v : Word) : (w.writeSfAll clk lat v).tb = w.tb := rfl
@[simp] theorem writeSfAll_ctrw (clk lat : Nat) (v : Word) : (w.writeSfAll clk lat v).ctrw = w.ctrw := rfl
@[simp] theorem writeSfAll_ctrwNext (clk lat : Nat) (v : Word) : (w.writeSfAll clk lat v).ctrwNext = w.ctrwNext := rfl
@[simp] theorem writeSfAll_tcause (clk lat : Nat) (v : Word) : (w.writeSfAll clk lat v).tcause = w.tcause := rfl
@[simp] theorem writeSfAll_tpc (clk lat : Nat) (v : Word) : (w.writeSfAll clk lat v).tpc = w.tpc := rfl
@[simp] theorem writeSfAll_tinfo (clk lat : Nat) (v : Word) : (w.writeSfAll clk lat v).tinfo = w.tinfo := rfl
@[simp] theorem writeSfAll_tlanes (clk lat : Nat) (v : Word) : (w.writeSfAll clk lat v).tlanes = w.tlanes := rfl
@[simp] theorem writeSfAll_outbox (clk lat : Nat) (v : Word) : (w.writeSfAll clk lat v).outbox = w.outbox := rfl
@[simp] theorem writeSfAll_batch (clk lat : Nat) (v : Word) : (w.writeSfAll clk lat v).batch = w.batch := rfl
@[simp] theorem writeSfAll_arrives (clk lat : Nat) (v : Word) : (w.writeSfAll clk lat v).arrives = w.arrives := rfl
@[simp] theorem writeSfAll_passed (clk lat : Nat) (v : Word) : (w.writeSfAll clk lat v).passed = w.passed := rfl
@[simp] theorem writeSfAll_stk (clk lat : Nat) (v : Word) : (w.writeSfAll clk lat v).stk = w.stk := rfl
@[simp] theorem writeSfAll_vpend (clk lat : Nat) (v : Word) : (w.writeSfAll clk lat v).vpend = w.vpend := rfl
@[simp] theorem writeSfAll_loads (clk lat : Nat) (v : Word) : (w.writeSfAll clk lat v).loads = w.loads := rfl
@[simp] theorem writeSfAll_deferred (clk lat : Nat) (v : Word) : (w.writeSfAll clk lat v).deferred = w.deferred := rfl
@[simp] theorem writeSfAll_hold (clk lat : Nat) (v : Word) : (w.writeSfAll clk lat v).hold = w.hold := rfl
@[simp] theorem writeSfAll_lastIssue (clk lat : Nat) (v : Word) : (w.writeSfAll clk lat v).lastIssue = w.lastIssue := rfl
@[simp] theorem writeSfAll_nextIssue (clk lat : Nat) (v : Word) : (w.writeSfAll clk lat v).nextIssue = w.nextIssue := rfl
@[simp] theorem writeSfAll_sleepEnd (clk lat : Nat) (v : Word) : (w.writeSfAll clk lat v).sleepEnd = w.sleepEnd := rfl
@[simp] theorem writeSfAll_rejects (clk lat : Nat) (v : Word) : (w.writeSfAll clk lat v).rejects = w.rejects := rfl
@[simp] theorem writeSfAll_progress (clk lat : Nat) (v : Word) : (w.writeSfAll clk lat v).progress = w.progress := rfl
@[simp] theorem writeSfAll_eligible (clk lat : Nat) (v : Word) : (w.writeSfAll clk lat v).eligible = w.eligible := rfl
@[simp] theorem writeSfAll_rcache (clk lat : Nat) (v : Word) : (w.writeSfAll clk lat v).rcache = w.rcache := rfl

/-! `Wave.writeSf` -/

@[simp] theorem writeSf_uid (clk lat : Nat) (f : BitVec 4) : (w.writeSf clk lat f).uid = w.uid := rfl
@[simp] theorem writeSf_group (clk lat : Nat) (f : BitVec 4) : (w.writeSf clk lat f).group = w.group := rfl
@[simp] theorem writeSf_core (clk lat : Nat) (f : BitVec 4) : (w.writeSf clk lat f).core = w.core := rfl
@[simp] theorem writeSf_quad (clk lat : Nat) (f : BitVec 4) : (w.writeSf clk lat f).quad = w.quad := rfl
@[simp] theorem writeSf_slot (clk lat : Nat) (f : BitVec 4) : (w.writeSf clk lat f).slot = w.slot := rfl
@[simp] theorem writeSf_index (clk lat : Nat) (f : BitVec 4) : (w.writeSf clk lat f).index = w.index := rfl
@[simp] theorem writeSf_st (clk lat : Nat) (f : BitVec 4) : (w.writeSf clk lat f).st = w.st := rfl
@[simp] theorem writeSf_slotHeld (clk lat : Nat) (f : BitVec 4) : (w.writeSf clk lat f).slotHeld = w.slotHeld := rfl
@[simp] theorem writeSf_parts (clk lat : Nat) (f : BitVec 4) : (w.writeSf clk lat f).parts = w.parts := rfl
@[simp] theorem writeSf_turn (clk lat : Nat) (f : BitVec 4) : (w.writeSf clk lat f).turn = w.turn := rfl
@[simp] theorem writeSf_win (clk lat : Nat) (f : BitVec 4) : (w.writeSf clk lat f).win = w.win := rfl
@[simp] theorem writeSf_sregs (clk lat : Nat) (f : BitVec 4) : (w.writeSf clk lat f).sregs = w.sregs := rfl
@[simp] theorem writeSf_cc (clk lat : Nat) (f : BitVec 4) : (w.writeSf clk lat f).cc = w.cc := rfl
@[simp] theorem writeSf_key (clk lat : Nat) (f : BitVec 4) : (w.writeSf clk lat f).key = w.key := rfl
@[simp] theorem writeSf_ctr (clk lat : Nat) (f : BitVec 4) : (w.writeSf clk lat f).ctr = w.ctr := rfl
@[simp] theorem writeSf_tb (clk lat : Nat) (f : BitVec 4) : (w.writeSf clk lat f).tb = w.tb := rfl
@[simp] theorem writeSf_ctrw (clk lat : Nat) (f : BitVec 4) : (w.writeSf clk lat f).ctrw = w.ctrw := rfl
@[simp] theorem writeSf_ctrwNext (clk lat : Nat) (f : BitVec 4) : (w.writeSf clk lat f).ctrwNext = w.ctrwNext := rfl
@[simp] theorem writeSf_tcause (clk lat : Nat) (f : BitVec 4) : (w.writeSf clk lat f).tcause = w.tcause := rfl
@[simp] theorem writeSf_tpc (clk lat : Nat) (f : BitVec 4) : (w.writeSf clk lat f).tpc = w.tpc := rfl
@[simp] theorem writeSf_tinfo (clk lat : Nat) (f : BitVec 4) : (w.writeSf clk lat f).tinfo = w.tinfo := rfl
@[simp] theorem writeSf_tlanes (clk lat : Nat) (f : BitVec 4) : (w.writeSf clk lat f).tlanes = w.tlanes := rfl
@[simp] theorem writeSf_outbox (clk lat : Nat) (f : BitVec 4) : (w.writeSf clk lat f).outbox = w.outbox := rfl
@[simp] theorem writeSf_batch (clk lat : Nat) (f : BitVec 4) : (w.writeSf clk lat f).batch = w.batch := rfl
@[simp] theorem writeSf_arrives (clk lat : Nat) (f : BitVec 4) : (w.writeSf clk lat f).arrives = w.arrives := rfl
@[simp] theorem writeSf_passed (clk lat : Nat) (f : BitVec 4) : (w.writeSf clk lat f).passed = w.passed := rfl
@[simp] theorem writeSf_stk (clk lat : Nat) (f : BitVec 4) : (w.writeSf clk lat f).stk = w.stk := rfl
@[simp] theorem writeSf_vpend (clk lat : Nat) (f : BitVec 4) : (w.writeSf clk lat f).vpend = w.vpend := rfl
@[simp] theorem writeSf_loads (clk lat : Nat) (f : BitVec 4) : (w.writeSf clk lat f).loads = w.loads := rfl
@[simp] theorem writeSf_deferred (clk lat : Nat) (f : BitVec 4) : (w.writeSf clk lat f).deferred = w.deferred := rfl
@[simp] theorem writeSf_hold (clk lat : Nat) (f : BitVec 4) : (w.writeSf clk lat f).hold = w.hold := rfl
@[simp] theorem writeSf_lastIssue (clk lat : Nat) (f : BitVec 4) : (w.writeSf clk lat f).lastIssue = w.lastIssue := rfl
@[simp] theorem writeSf_nextIssue (clk lat : Nat) (f : BitVec 4) : (w.writeSf clk lat f).nextIssue = w.nextIssue := rfl
@[simp] theorem writeSf_sleepEnd (clk lat : Nat) (f : BitVec 4) : (w.writeSf clk lat f).sleepEnd = w.sleepEnd := rfl
@[simp] theorem writeSf_rejects (clk lat : Nat) (f : BitVec 4) : (w.writeSf clk lat f).rejects = w.rejects := rfl
@[simp] theorem writeSf_progress (clk lat : Nat) (f : BitVec 4) : (w.writeSf clk lat f).progress = w.progress := rfl
@[simp] theorem writeSf_eligible (clk lat : Nat) (f : BitVec 4) : (w.writeSf clk lat f).eligible = w.eligible := rfl
@[simp] theorem writeSf_rcache (clk lat : Nat) (f : BitVec 4) : (w.writeSf clk lat f).rcache = w.rcache := rfl

/-! `Wave.raise` -/

@[simp] theorem raise_uid (d : Nat) (m : Word) : (w.raise d m).uid = w.uid := by unfold Wave.raise; split <;> rfl
@[simp] theorem raise_group (d : Nat) (m : Word) : (w.raise d m).group = w.group := by unfold Wave.raise; split <;> rfl
@[simp] theorem raise_core (d : Nat) (m : Word) : (w.raise d m).core = w.core := by unfold Wave.raise; split <;> rfl
@[simp] theorem raise_quad (d : Nat) (m : Word) : (w.raise d m).quad = w.quad := by unfold Wave.raise; split <;> rfl
@[simp] theorem raise_slot (d : Nat) (m : Word) : (w.raise d m).slot = w.slot := by unfold Wave.raise; split <;> rfl
@[simp] theorem raise_index (d : Nat) (m : Word) : (w.raise d m).index = w.index := by unfold Wave.raise; split <;> rfl
@[simp] theorem raise_st (d : Nat) (m : Word) : (w.raise d m).st = w.st := by unfold Wave.raise; split <;> rfl
@[simp] theorem raise_slotHeld (d : Nat) (m : Word) : (w.raise d m).slotHeld = w.slotHeld := by unfold Wave.raise; split <;> rfl
@[simp] theorem raise_parts (d : Nat) (m : Word) : (w.raise d m).parts = w.parts := by unfold Wave.raise; split <;> rfl
@[simp] theorem raise_turn (d : Nat) (m : Word) : (w.raise d m).turn = w.turn := by unfold Wave.raise; split <;> rfl
@[simp] theorem raise_win (d : Nat) (m : Word) : (w.raise d m).win = w.win := by unfold Wave.raise; split <;> rfl
@[simp] theorem raise_sregs (d : Nat) (m : Word) : (w.raise d m).sregs = w.sregs := by unfold Wave.raise; split <;> rfl
@[simp] theorem raise_cc (d : Nat) (m : Word) : (w.raise d m).cc = w.cc := by unfold Wave.raise; split <;> rfl
@[simp] theorem raise_sf (d : Nat) (m : Word) : (w.raise d m).sf = w.sf := by unfold Wave.raise; split <;> rfl
@[simp] theorem raise_key (d : Nat) (m : Word) : (w.raise d m).key = w.key := by unfold Wave.raise; split <;> rfl
@[simp] theorem raise_ctr (d : Nat) (m : Word) : (w.raise d m).ctr = w.ctr := by unfold Wave.raise; split <;> rfl
@[simp] theorem raise_tb (d : Nat) (m : Word) : (w.raise d m).tb = w.tb := by unfold Wave.raise; split <;> rfl
@[simp] theorem raise_ctrw (d : Nat) (m : Word) : (w.raise d m).ctrw = w.ctrw := by unfold Wave.raise; split <;> rfl
@[simp] theorem raise_ctrwNext (d : Nat) (m : Word) : (w.raise d m).ctrwNext = w.ctrwNext := by unfold Wave.raise; split <;> rfl
@[simp] theorem raise_tcause (d : Nat) (m : Word) : (w.raise d m).tcause = w.tcause := by unfold Wave.raise; split <;> rfl
@[simp] theorem raise_tpc (d : Nat) (m : Word) : (w.raise d m).tpc = w.tpc := by unfold Wave.raise; split <;> rfl
@[simp] theorem raise_tinfo (d : Nat) (m : Word) : (w.raise d m).tinfo = w.tinfo := by unfold Wave.raise; split <;> rfl
@[simp] theorem raise_tlanes (d : Nat) (m : Word) : (w.raise d m).tlanes = w.tlanes := by unfold Wave.raise; split <;> rfl
@[simp] theorem raise_outbox (d : Nat) (m : Word) : (w.raise d m).outbox = w.outbox := by unfold Wave.raise; split <;> rfl
@[simp] theorem raise_batch (d : Nat) (m : Word) : (w.raise d m).batch = w.batch := by unfold Wave.raise; split <;> rfl
@[simp] theorem raise_arrives (d : Nat) (m : Word) : (w.raise d m).arrives = w.arrives := by unfold Wave.raise; split <;> rfl
@[simp] theorem raise_passed (d : Nat) (m : Word) : (w.raise d m).passed = w.passed := by unfold Wave.raise; split <;> rfl
@[simp] theorem raise_early (d : Nat) (m : Word) : (w.raise d m).early = w.early := by unfold Wave.raise; split <;> rfl
@[simp] theorem raise_vpend (d : Nat) (m : Word) : (w.raise d m).vpend = w.vpend := by unfold Wave.raise; split <;> rfl
@[simp] theorem raise_loads (d : Nat) (m : Word) : (w.raise d m).loads = w.loads := by unfold Wave.raise; split <;> rfl
@[simp] theorem raise_deferred (d : Nat) (m : Word) : (w.raise d m).deferred = w.deferred := by unfold Wave.raise; split <;> rfl
@[simp] theorem raise_hold (d : Nat) (m : Word) : (w.raise d m).hold = w.hold := by unfold Wave.raise; split <;> rfl
@[simp] theorem raise_lastIssue (d : Nat) (m : Word) : (w.raise d m).lastIssue = w.lastIssue := by unfold Wave.raise; split <;> rfl
@[simp] theorem raise_nextIssue (d : Nat) (m : Word) : (w.raise d m).nextIssue = w.nextIssue := by unfold Wave.raise; split <;> rfl
@[simp] theorem raise_sleepEnd (d : Nat) (m : Word) : (w.raise d m).sleepEnd = w.sleepEnd := by unfold Wave.raise; split <;> rfl
@[simp] theorem raise_rejects (d : Nat) (m : Word) : (w.raise d m).rejects = w.rejects := by unfold Wave.raise; split <;> rfl
@[simp] theorem raise_progress (d : Nat) (m : Word) : (w.raise d m).progress = w.progress := by unfold Wave.raise; split <;> rfl
@[simp] theorem raise_eligible (d : Nat) (m : Word) : (w.raise d m).eligible = w.eligible := by unfold Wave.raise; split <;> rfl
@[simp] theorem raise_rcache (d : Nat) (m : Word) : (w.raise d m).rcache = w.rcache := by unfold Wave.raise; split <;> rfl

/-! `Wave.discard` -/

@[simp] theorem discard_uid  : (w.discard ).uid = w.uid := rfl
@[simp] theorem discard_group  : (w.discard ).group = w.group := rfl
@[simp] theorem discard_core  : (w.discard ).core = w.core := rfl
@[simp] theorem discard_quad  : (w.discard ).quad = w.quad := rfl
@[simp] theorem discard_slot  : (w.discard ).slot = w.slot := rfl
@[simp] theorem discard_index  : (w.discard ).index = w.index := rfl
@[simp] theorem discard_turn  : (w.discard ).turn = w.turn := rfl
@[simp] theorem discard_win  : (w.discard ).win = w.win := rfl
@[simp] theorem discard_sregs  : (w.discard ).sregs = w.sregs := rfl
@[simp] theorem discard_cc  : (w.discard ).cc = w.cc := rfl
@[simp] theorem discard_sf  : (w.discard ).sf = w.sf := rfl
@[simp] theorem discard_key  : (w.discard ).key = w.key := rfl
@[simp] theorem discard_ctr  : (w.discard ).ctr = w.ctr := rfl
@[simp] theorem discard_tb  : (w.discard ).tb = w.tb := rfl
@[simp] theorem discard_ctrw  : (w.discard ).ctrw = w.ctrw := rfl
@[simp] theorem discard_ctrwNext  : (w.discard ).ctrwNext = w.ctrwNext := rfl
@[simp] theorem discard_tcause  : (w.discard ).tcause = w.tcause := rfl
@[simp] theorem discard_tpc  : (w.discard ).tpc = w.tpc := rfl
@[simp] theorem discard_tinfo  : (w.discard ).tinfo = w.tinfo := rfl
@[simp] theorem discard_tlanes  : (w.discard ).tlanes = w.tlanes := rfl
@[simp] theorem discard_batch  : (w.discard ).batch = w.batch := rfl
@[simp] theorem discard_passed  : (w.discard ).passed = w.passed := rfl
@[simp] theorem discard_lastIssue  : (w.discard ).lastIssue = w.lastIssue := rfl
@[simp] theorem discard_nextIssue  : (w.discard ).nextIssue = w.nextIssue := rfl
@[simp] theorem discard_sleepEnd  : (w.discard ).sleepEnd = w.sleepEnd := rfl
@[simp] theorem discard_rejects  : (w.discard ).rejects = w.rejects := rfl
@[simp] theorem discard_progress  : (w.discard ).progress = w.progress := rfl
@[simp] theorem discard_eligible  : (w.discard ).eligible = w.eligible := rfl
@[simp] theorem discard_rcache  : (w.discard ).rcache = w.rcache := rfl

/-- What no write of one lane's flags changes, no list of such writes changes. -/
theorem foldl_ccSet_keeps {α : Type} (n : Nat) (g : Wave → α) (h : ∀ w l f, g (Wave.ccSet w n l f) = g w)
    (vals : List (Nat × BitVec 4)) (w : Wave) : g (vals.foldl (fun w v => w.ccSet n v.1 v.2) w) = g w := by
  induction vals generalizing w with
  | nil => rfl
  | cons a r ih => rw [List.foldl_cons, ih, h]

/-! `Wave.writeCc` -/

@[simp] theorem writeCc_uid (clk lat n : Nat) (vals : List (Nat × BitVec 4)) : (w.writeCc clk lat n vals).uid = w.uid :=
  foldl_ccSet_keeps n (·.uid) (fun _ _ _ => rfl) vals _
@[simp] theorem writeCc_group (clk lat n : Nat) (vals : List (Nat × BitVec 4)) : (w.writeCc clk lat n vals).group = w.group :=
  foldl_ccSet_keeps n (·.group) (fun _ _ _ => rfl) vals _
@[simp] theorem writeCc_core (clk lat n : Nat) (vals : List (Nat × BitVec 4)) : (w.writeCc clk lat n vals).core = w.core :=
  foldl_ccSet_keeps n (·.core) (fun _ _ _ => rfl) vals _
@[simp] theorem writeCc_quad (clk lat n : Nat) (vals : List (Nat × BitVec 4)) : (w.writeCc clk lat n vals).quad = w.quad :=
  foldl_ccSet_keeps n (·.quad) (fun _ _ _ => rfl) vals _
@[simp] theorem writeCc_slot (clk lat n : Nat) (vals : List (Nat × BitVec 4)) : (w.writeCc clk lat n vals).slot = w.slot :=
  foldl_ccSet_keeps n (·.slot) (fun _ _ _ => rfl) vals _
@[simp] theorem writeCc_index (clk lat n : Nat) (vals : List (Nat × BitVec 4)) : (w.writeCc clk lat n vals).index = w.index :=
  foldl_ccSet_keeps n (·.index) (fun _ _ _ => rfl) vals _
@[simp] theorem writeCc_st (clk lat n : Nat) (vals : List (Nat × BitVec 4)) : (w.writeCc clk lat n vals).st = w.st :=
  foldl_ccSet_keeps n (·.st) (fun _ _ _ => rfl) vals _
@[simp] theorem writeCc_slotHeld (clk lat n : Nat) (vals : List (Nat × BitVec 4)) : (w.writeCc clk lat n vals).slotHeld = w.slotHeld :=
  foldl_ccSet_keeps n (·.slotHeld) (fun _ _ _ => rfl) vals _
@[simp] theorem writeCc_parts (clk lat n : Nat) (vals : List (Nat × BitVec 4)) : (w.writeCc clk lat n vals).parts = w.parts :=
  foldl_ccSet_keeps n (·.parts) (fun _ _ _ => rfl) vals _
@[simp] theorem writeCc_turn (clk lat n : Nat) (vals : List (Nat × BitVec 4)) : (w.writeCc clk lat n vals).turn = w.turn :=
  foldl_ccSet_keeps n (·.turn) (fun _ _ _ => rfl) vals _
@[simp] theorem writeCc_win (clk lat n : Nat) (vals : List (Nat × BitVec 4)) : (w.writeCc clk lat n vals).win = w.win :=
  foldl_ccSet_keeps n (·.win) (fun _ _ _ => rfl) vals _
@[simp] theorem writeCc_sregs (clk lat n : Nat) (vals : List (Nat × BitVec 4)) : (w.writeCc clk lat n vals).sregs = w.sregs :=
  foldl_ccSet_keeps n (·.sregs) (fun _ _ _ => rfl) vals _
@[simp] theorem writeCc_sf (clk lat n : Nat) (vals : List (Nat × BitVec 4)) : (w.writeCc clk lat n vals).sf = w.sf :=
  foldl_ccSet_keeps n (·.sf) (fun _ _ _ => rfl) vals _
@[simp] theorem writeCc_key (clk lat n : Nat) (vals : List (Nat × BitVec 4)) : (w.writeCc clk lat n vals).key = w.key :=
  foldl_ccSet_keeps n (·.key) (fun _ _ _ => rfl) vals _
@[simp] theorem writeCc_ctr (clk lat n : Nat) (vals : List (Nat × BitVec 4)) : (w.writeCc clk lat n vals).ctr = w.ctr :=
  foldl_ccSet_keeps n (·.ctr) (fun _ _ _ => rfl) vals _
@[simp] theorem writeCc_tb (clk lat n : Nat) (vals : List (Nat × BitVec 4)) : (w.writeCc clk lat n vals).tb = w.tb :=
  foldl_ccSet_keeps n (·.tb) (fun _ _ _ => rfl) vals _
@[simp] theorem writeCc_ctrw (clk lat n : Nat) (vals : List (Nat × BitVec 4)) : (w.writeCc clk lat n vals).ctrw = w.ctrw :=
  foldl_ccSet_keeps n (·.ctrw) (fun _ _ _ => rfl) vals _
@[simp] theorem writeCc_ctrwNext (clk lat n : Nat) (vals : List (Nat × BitVec 4)) : (w.writeCc clk lat n vals).ctrwNext = w.ctrwNext :=
  foldl_ccSet_keeps n (·.ctrwNext) (fun _ _ _ => rfl) vals _
@[simp] theorem writeCc_tcause (clk lat n : Nat) (vals : List (Nat × BitVec 4)) : (w.writeCc clk lat n vals).tcause = w.tcause :=
  foldl_ccSet_keeps n (·.tcause) (fun _ _ _ => rfl) vals _
@[simp] theorem writeCc_tpc (clk lat n : Nat) (vals : List (Nat × BitVec 4)) : (w.writeCc clk lat n vals).tpc = w.tpc :=
  foldl_ccSet_keeps n (·.tpc) (fun _ _ _ => rfl) vals _
@[simp] theorem writeCc_tinfo (clk lat n : Nat) (vals : List (Nat × BitVec 4)) : (w.writeCc clk lat n vals).tinfo = w.tinfo :=
  foldl_ccSet_keeps n (·.tinfo) (fun _ _ _ => rfl) vals _
@[simp] theorem writeCc_tlanes (clk lat n : Nat) (vals : List (Nat × BitVec 4)) : (w.writeCc clk lat n vals).tlanes = w.tlanes :=
  foldl_ccSet_keeps n (·.tlanes) (fun _ _ _ => rfl) vals _
@[simp] theorem writeCc_outbox (clk lat n : Nat) (vals : List (Nat × BitVec 4)) : (w.writeCc clk lat n vals).outbox = w.outbox :=
  foldl_ccSet_keeps n (·.outbox) (fun _ _ _ => rfl) vals _
@[simp] theorem writeCc_batch (clk lat n : Nat) (vals : List (Nat × BitVec 4)) : (w.writeCc clk lat n vals).batch = w.batch :=
  foldl_ccSet_keeps n (·.batch) (fun _ _ _ => rfl) vals _
@[simp] theorem writeCc_arrives (clk lat n : Nat) (vals : List (Nat × BitVec 4)) : (w.writeCc clk lat n vals).arrives = w.arrives :=
  foldl_ccSet_keeps n (·.arrives) (fun _ _ _ => rfl) vals _
@[simp] theorem writeCc_passed (clk lat n : Nat) (vals : List (Nat × BitVec 4)) : (w.writeCc clk lat n vals).passed = w.passed :=
  foldl_ccSet_keeps n (·.passed) (fun _ _ _ => rfl) vals _
@[simp] theorem writeCc_stk (clk lat n : Nat) (vals : List (Nat × BitVec 4)) : (w.writeCc clk lat n vals).stk = w.stk :=
  foldl_ccSet_keeps n (·.stk) (fun _ _ _ => rfl) vals _
@[simp] theorem writeCc_vpend (clk lat n : Nat) (vals : List (Nat × BitVec 4)) : (w.writeCc clk lat n vals).vpend = w.vpend :=
  foldl_ccSet_keeps n (·.vpend) (fun _ _ _ => rfl) vals _
@[simp] theorem writeCc_loads (clk lat n : Nat) (vals : List (Nat × BitVec 4)) : (w.writeCc clk lat n vals).loads = w.loads :=
  foldl_ccSet_keeps n (·.loads) (fun _ _ _ => rfl) vals _
@[simp] theorem writeCc_deferred (clk lat n : Nat) (vals : List (Nat × BitVec 4)) : (w.writeCc clk lat n vals).deferred = w.deferred :=
  foldl_ccSet_keeps n (·.deferred) (fun _ _ _ => rfl) vals _
@[simp] theorem writeCc_hold (clk lat n : Nat) (vals : List (Nat × BitVec 4)) : (w.writeCc clk lat n vals).hold = w.hold :=
  foldl_ccSet_keeps n (·.hold) (fun _ _ _ => rfl) vals _
@[simp] theorem writeCc_lastIssue (clk lat n : Nat) (vals : List (Nat × BitVec 4)) : (w.writeCc clk lat n vals).lastIssue = w.lastIssue :=
  foldl_ccSet_keeps n (·.lastIssue) (fun _ _ _ => rfl) vals _
@[simp] theorem writeCc_nextIssue (clk lat n : Nat) (vals : List (Nat × BitVec 4)) : (w.writeCc clk lat n vals).nextIssue = w.nextIssue :=
  foldl_ccSet_keeps n (·.nextIssue) (fun _ _ _ => rfl) vals _
@[simp] theorem writeCc_sleepEnd (clk lat n : Nat) (vals : List (Nat × BitVec 4)) : (w.writeCc clk lat n vals).sleepEnd = w.sleepEnd :=
  foldl_ccSet_keeps n (·.sleepEnd) (fun _ _ _ => rfl) vals _
@[simp] theorem writeCc_rejects (clk lat n : Nat) (vals : List (Nat × BitVec 4)) : (w.writeCc clk lat n vals).rejects = w.rejects :=
  foldl_ccSet_keeps n (·.rejects) (fun _ _ _ => rfl) vals _
@[simp] theorem writeCc_progress (clk lat n : Nat) (vals : List (Nat × BitVec 4)) : (w.writeCc clk lat n vals).progress = w.progress :=
  foldl_ccSet_keeps n (·.progress) (fun _ _ _ => rfl) vals _
@[simp] theorem writeCc_eligible (clk lat n : Nat) (vals : List (Nat × BitVec 4)) : (w.writeCc clk lat n vals).eligible = w.eligible :=
  foldl_ccSet_keeps n (·.eligible) (fun _ _ _ => rfl) vals _
@[simp] theorem writeCc_rcache (clk lat n : Nat) (vals : List (Nat × BitVec 4)) : (w.writeCc clk lat n vals).rcache = w.rcache :=
  foldl_ccSet_keeps n (·.rcache) (fun _ _ _ => rfl) vals _

end Sys2Proof.Laws
end

