-- ==== Sys2Proof/Safety.lean ====
section
/-! DEFINITION. What counts as a safe state and a safe run, and when a word meets nothing that stops it. -/

namespace Sys2Proof

open Sys2Proof.Machine

/-- Between steps no wave is issuing, so no meaning of a word can be applied outside an issue. -/
def State.idle (s : Machine.State) : Prop := s.cur = none

/-- A run of `n` steps from a state that neither faults nor is refused. -/
def safeFor (n : Nat) (s : Machine.State) : Prop := ∃ t, core.run n s = .next t

namespace Machine

/-- `x` is the issuing wave of its state, with all that belongs to it. -/
def Iss.live (x : Iss) : Prop := x.s.iss? = some x

/-- Nothing that every word meets stops this one: its registers lie in the window and in views that are present (check 2
of R70, R99), its uniform guard holds (R58), and no operand of it is early, or the context does not check for that
(R64). -/
def Iss.ready (x : Iss) (us : List Use) (h : Hd) : Prop :=
  x.frame.bad us = [] ∧ x.guard h = true ∧ (x.c.stchk = false ∨ (worstEarly x.frame x.clk x.w.early us).1 = 0)

/-- The state after a word that `x` issues: its effect on the rest of the machine is `s`, on the wave `w`, its move
`mv`; the pipe works on `n` lanes. -/
def Iss.after (x : Iss) (i : Instr) (h : Hd) (pipe : Pipe) (n : Nat) (s : State) (w : Wave) (mv : Move) : State :=
  x.finish (usesOf i) pipe n h.sc.toNat s w mv

/-- The state after a word of the vector pipe that changes nothing but registers of the wave. -/
def Iss.afterV (x : Iss) (i : Instr) (h : Hd) (w : Wave) : State := x.after i h .vector (x.active h).length x.s w .next

/-- The state after a word of the scalar pipe that changes nothing but registers of the wave. -/
def Iss.afterS (x : Iss) (i : Instr) (h : Hd) (w : Wave) : State := x.after i h .scalar (x.active h).length x.s w .next

/-! Sub-elements and flags, in the words of the manual (R31, R106) -/

/-- Sub-element `j` of width `w` of a lane, as bits (R31). -/
def el (w j : Nat) (r : Word) : BitVec w := r.extractLsb' (w * j) w

/-- Every sub-element of `r` is `f` of that sub-element of the source (R106). -/
def each1 (w : Nat) (f : BitVec w → BitVec w) (a r : Word) : Prop := ∀ j, j < 64 / w → el w j r = f (el w j a)

/-- Every sub-element of `r` is `f` of those sub-elements of two sources (R106). -/
def each2 (w : Nat) (f : BitVec w → BitVec w → BitVec w) (a b r : Word) : Prop :=
  ∀ j, j < 64 / w → el w j r = f (el w j a) (el w j b)

/-- Every sub-element of `r` is `f` of those sub-elements of three sources (R106). -/
def each3 (w : Nat) (f : BitVec w → BitVec w → BitVec w → BitVec w) (a b c r : Word) : Prop :=
  ∀ j, j < 64 / w → el w j r = f (el w j a) (el w j b) (el w j c)

/-- S, Z, C and V of a result: S its top bit, Z whether it is 0 (R42, R106). -/
def szcv {w : Nat} (r : BitVec w) (c v : Bool) : BitVec 4 :=
  BitVec.ofBool r.msb ++ BitVec.ofBool (r == 0) ++ BitVec.ofBool c ++ BitVec.ofBool v

/-- An exact result lies outside the signed numbers of `w` bits. -/
def outside (w : Nat) (n : Int) : Bool := decide (n < -(2 ^ (w - 1))) || decide (2 ^ (w - 1) ≤ n)

/-- A flag as a number of `w` bits. -/
def bit (w : Nat) (b : Bool) : BitVec w := (BitVec.ofBool b).setWidth w

/-- The flags of a sum with a carry in (Table 5.5). -/
def addFlags {w : Nat} (p q : BitVec w) (cin : Bool) : BitVec 4 :=
  szcv (p + q + bit w cin) (decide (2 ^ w ≤ p.toNat + q.toNat + cin.toNat)) (outside w (p.toInt + q.toInt + cin.toNat))

/-- The flags of a difference with a borrow in (Table 5.5). -/
def subFlags {w : Nat} (p q : BitVec w) (bin : Bool) : BitVec 4 :=
  szcv (p - q - bit w bin) (decide (q.toNat + bin.toNat ≤ p.toNat)) (outside w (p.toInt - q.toInt - bin.toNat))

/-! Results of the integer operations, in the words of Table 5.5 -/

/-- The flags of MUL and MAD. -/
def madFlags {w : Nat} (signed : Bool) (p q c : BitVec w) : BitVec 4 :=
  szcv (p * q + c) (!signed && decide (2 ^ w ≤ p.toNat * q.toNat + c.toNat))
    (signed && outside w (p.toInt * q.toInt + c.toInt))

/-- Bits [2w−1:w] of the exact product. -/
def high {w : Nat} (signed : Bool) (p q : BitVec w) : BitVec w :=
  if signed then (p.signExtend (2 * w) * q.signExtend (2 * w)).extractLsb' w w
  else (p.setWidth (2 * w) * q.setWidth (2 * w)).extractLsb' w w

/-- The cases of Table 2.1. -/
def divisionCorner {w : Nat} (signed : Bool) (p q : BitVec w) : Bool :=
  q == 0 || (signed && p == BitVec.intMin w && q == BitVec.allOnes w)

/-- The quotient, truncated toward zero (R33). -/
def quotient {w : Nat} (signed : Bool) (p q : BitVec w) : BitVec w :=
  if q = 0 then BitVec.allOnes w else if signed then p.sdiv q else p.udiv q

/-- The remainder, with the sign of the dividend (R33). -/
def remainder {w : Nat} (signed : Bool) (p q : BitVec w) : BitVec w :=
  if q = 0 then p else if signed then p.srem q else p.umod q

/-- The flags of DIV: V marks the corner cases. -/
def quotientFlags {w : Nat} (signed : Bool) (p q : BitVec w) : BitVec 4 :=
  szcv (quotient signed p q) false (divisionCorner signed p q)

/-- The flags of REM. -/
def remainderFlags {w : Nat} (signed : Bool) (p q : BitVec w) : BitVec 4 :=
  szcv (remainder signed p q) false (divisionCorner signed p q)

/-- The lesser of two values. -/
def lesser {w : Nat} (signed : Bool) (p q : BitVec w) : BitVec w :=
  if (if signed then q.slt p else q.ult p) then q else p

/-- The greater of two values. -/
def greater {w : Nat} (signed : Bool) (p q : BitVec w) : BitVec w :=
  if (if signed then p.slt q else p.ult q) then q else p

/-- The magnitude of a signed value modulo 2^w; an unsigned value itself. -/
def magnitude {w : Nat} (signed : Bool) (p : BitVec w) : BitVec w := if signed && p.msb then -p else p

/-- The flags of ABS: V marks the most negative number. -/
def absFlags {w : Nat} (signed : Bool) (p : BitVec w) : BitVec 4 :=
  szcv (magnitude signed p) false (signed && p == BitVec.intMin w)

/-- The flags of NEG. -/
def negFlags {w : Nat} (p : BitVec w) : BitVec 4 := szcv (-p) (p == 0) (p == BitVec.intMin w)

/-- TLOG: bit i is bit 4·D[i] + 2·A[i] + B[i] of the truth table (R112). -/
def ternary (tt : BitVec 8) (d a b : Word) : Word :=
  BitVec.ofBoolListLE ((List.range 64).map fun i =>
    tt.getLsbD (4 * (d.getLsbD i).toNat + 2 * (a.getLsbD i).toNat + (b.getLsbD i).toNat))

/-- The flags of SHL: C is the last bit shifted out (R108). -/
def shlFlags {w : Nat} (p : BitVec w) (n : Nat) : BitVec 4 :=
  szcv (p <<< n) (decide (1 ≤ n ∧ n ≤ w) && p.getLsbD (w - n)) false

/-- The flags of SHR. -/
def shrFlags {w : Nat} (p : BitVec w) (n : Nat) : BitVec 4 :=
  szcv (p >>> n) (decide (1 ≤ n ∧ n ≤ w) && p.getLsbD (n - 1)) false

/-- The flags of SAR: past the width, C is the sign. -/
def sarFlags {w : Nat} (p : BitVec w) (n : Nat) : BitVec 4 :=
  szcv (p.sshiftRight n) (if n = 0 then false else if n ≤ w then p.getLsbD (n - 1) else p.msb) false

/-- The position and effective length that BFX and BFI take from b (R116). -/
def bitField (b : Word) : Nat × Nat :=
  let p := (b.extractLsb' 0 6).toNat
  (p, min (b.extractLsb' 8 7).toNat (64 - p))

/-- BFX: the field, extended by the type's signedness (R116). -/
def extracted (signed : Bool) (a b : Word) : Word :=
  let f := a.extractLsb' (bitField b).1 (bitField b).2
  if signed then f.signExtend 64 else f.setWidth 64

/-- BFI: the field of d replaced by the low bits of a (R116). -/
def inserted (d a b : Word) : Word :=
  let p := (bitField b).1
  let m : Word := ((BitVec.allOnes (bitField b).2).setWidth 64) <<< p
  d &&& ~~~m ||| a <<< p &&& m

/-- BPERM: byte i is the byte of B:A that nibble i of c names (R114). -/
def permuted (a b c : Word) : Word :=
  BitVec.ofBoolListLE ((List.range 64).map fun k =>
    (b ++ a).getLsbD (8 * (c.extractLsb' (4 * (k / 8)) 4).toNat + k % 8))

/-- MOVH: slice `k` of the destination replaced (R111). -/
def sliced (d : Word) (k : BitVec 2) (imm : BitVec 18) : Word :=
  if k = 1 then d.extractLsb' 36 28 ++ imm ++ d.extractLsb' 0 18
  else if k = 2 then d.extractLsb' 54 10 ++ imm ++ d.extractLsb' 0 36
  else imm.extractLsb' 0 10 ++ d.extractLsb' 0 54

/-! What a word does to the registers of its wave -/

/-- The wave `v` is the issuing wave of `x` after a vector word with latency `lat` has given each active lane `l` of
vector register `d` a value that satisfies `res l`, cX of the lane, where X names one, the flags `fl l`, and raised the
sticky bits `st`. Nothing else of the wave has changed; `lanes` are the lanes written (R57, R60, R63, R100). -/
structure VecResult (x : Iss) (h : Hd) (lat : Nat) (lanes : List Nat) (d : Option Nat) (res : Nat → Word → Prop)
    (fl : Nat → BitVec 4) (st : Word) (v : Wave) : Prop where
  rest : v = { x.w with win := v.win, cc := v.cc, early := v.early, stk := v.stk, ctr := v.ctr }
  value : ∀ n, d = some n → ∀ l ∈ lanes, res l (wget v.win (x.frame.vslot n + l))
  kept : ∀ k, (∀ n, d = some n → ∀ l ∈ lanes, k ≠ x.frame.vslot n + l) → wget v.win k = wget x.w.win k
  flags : 4 ≤ h.x.toNat → ∀ l ∈ lanes, v.ccGet (h.x.toNat - 4) l = fl l
  flagsKept : ∀ n < 4, ∀ l, (4 ≤ h.x.toNat → l ∈ lanes → n ≠ h.x.toNat - 4) → v.ccGet n l = x.w.ccGet n l
  sticky : v.stk = (x.w.raise (x.clk + lat) st).stk
  due : ∀ n, d = some n → ∃ e ∈ v.early, e.due = x.clk + lat ∧
    e.loc = .win (8 * x.frame.vslot n) (8 * x.frame.vslot n + 256)
  older : ∀ e ∈ v.early, e ∈ x.w.early ∨ e.due = x.clk + lat

/-- The wave `v` is the issuing wave of `x` after a scalar word with latency `lat` has written a value that satisfies
`res` to scalar register `d` and, with X = 4, the flags `fl` to sf[3:0]. A write to s0 is discarded, its flags are not
(R60, R101). Nothing else of the wave has changed. -/
structure ScalResult (x : Iss) (h : Hd) (lat : Nat) (d : Option SReg) (res : Word → Prop) (fl : BitVec 4) (v : Wave) :
    Prop where
  rest : v = { x.w with sregs := v.sregs, sf := v.sf, early := v.early }
  value : ∀ n, d = some n → n ≠ 0 → res (v.sget n.toNat)
  kept : ∀ k, (∀ n, d = some n → n.toNat ≠ k) → v.sget k = x.w.sget k
  zero : v.sget 0 = 0
  flags : h.x = 4 → v.sf = x.w.sf &&& ~~~0xF#64 ||| fl.setWidth 64
  flagsKept : h.x ≠ 4 → v.sf = x.w.sf
  due : ∀ n, d = some n → n ≠ 0 → ∃ e ∈ v.early, e.due = x.clk + lat ∧ e.loc = .sreg n.toNat
  older : ∀ e ∈ v.early, e ∈ x.w.early ∨ e.due = x.clk + lat

/-- A vector word of class 1 that nothing stops completes, and this is what it does: the wave of `x` changes as
`VecResult` says, and the rest of the state as `Iss.afterV` says. -/
def Iss.vec (x : Iss) (i : Instr) (h : Hd) (lat : Nat) (d : Option VCode) (res : Nat → Word → Prop)
    (fl : Nat → BitVec 4) : Prop :=
  x.ready (usesOf i) h → ∃ v, exec i x.s = .next (x.afterV i h v) ∧ v.ctr = x.w.ctr ∧
    VecResult x h lat (x.active h) (d.map BitVec.toNat) res fl 0 v

/-- A scalar word of class 1 that nothing stops completes, and this is what it does. -/
def Iss.scal (x : Iss) (i : Instr) (h : Hd) (lat : Nat) (d : Option SReg) (res : Word → Prop) (fl : BitVec 4) : Prop :=
  x.ready (usesOf i) h → ∃ v, exec i x.s = .next (x.afterS i h v) ∧ ScalResult x h lat d res fl v

/-- A vector word of class 2 or 3 that nothing stops completes: each active lane gets the result and flags that `g` gives
for it, and the sticky bits of the active lanes are raised together (R42, R57, R119). `drew` tells whether the word
takes a draw of the generator (R48). -/
def Iss.lane (x : Iss) (i : Instr) (h : Hd) (lat : Nat) (d : Option VCode) (g : Nat → LaneRes) (drew : Bool) : Prop :=
  x.ready (usesOf i) h → ∃ v, exec i x.s = .next (x.afterV i h v) ∧ v.ctr = (if drew then x.w.ctr + 1 else x.w.ctr) ∧
    VecResult x h lat (x.active h) (d.map BitVec.toNat) (fun l r => r = (g l).r) (fun l => (g l).fl)
      ((x.active h).foldl (fun m l => m ||| (g l).st) 0) v

/-- A lane word that moves data between lanes: each active lane gets a value that satisfies `res`; no flag is written
and no sticky bit raised (R133). -/
def Iss.move (x : Iss) (i : Instr) (h : Hd) (d : VCode) (res : Nat → Word → Prop) : Prop :=
  x.ready (usesOf i) h → h.x = 0 → ∃ v, exec i x.s = .next (x.afterV i h v) ∧ v.ctr = x.w.ctr ∧
    VecResult x h 8 (x.active h) (some d.toNat) res (fun _ => 0) 0 v

/-! Paired words (R66 to R69) -/

/-- The issue fields that the slots of a paired word stand for (R67). -/
def pairHd (sc : BitVec 3) : Hd := { lgc := 0, lgcond := .al, ug := .al, sc := sc.setWidth 4, x := 0 }

/-- A slot acts on a lane: it is no NOP and its guard holds on c0 of the lane (R67). -/
def slotOn (p : Slot) (x : Iss) (l : Nat) : Bool := p.op != .nop && condHolds p.g (x.w.readCc x.clk 0 l)

/-- Width of an integer slot. -/
def pairBits : PWidth → Nat
  | .w64 => 64
  | .w32 => 32
  | .w16 => 16
  | .w8 => 8

/-- `r` is what a slot makes of its operands (R67, Table 3.10). -/
def pairResult (op : PairOp) (d a r : Word) : Prop :=
  match op with
  | .nop => r = d
  | .mov => r = a
  | .add w => each2 (pairBits w) (· + ·) d a r
  | .sub w => each2 (pairBits w) (· - ·) d a r
  | .min sg => each2 32 (lesser sg) d a r
  | .max sg => each2 32 (greater sg) d a r
  | .and => r = d &&& a
  | .or => r = d ||| a
  | .xor => r = d ^^^ a
  | .andn => r = d &&& ~~~a
  | .fadd f => r = (fBin f (fAdd f .rne) d a).r
  | .fmul f => r = (fBin f (fMul f .rne) d a).r
  | .fmin f => r = (fBin f (fMinMax f false) d a).r
  | .fmax f => r = (fBin f (fMinMax f true) d a).r

/-- Sticky bits that a slot raises. -/
def pairSticky (op : PairOp) (d a : Word) : Word :=
  match op with
  | .fadd f => (fBin f (fAdd f .rne) d a).st
  | .fmul f => (fBin f (fMul f .rne) d a).st
  | .fmin f => (fBin f (fMinMax f false) d a).st
  | .fmax f => (fBin f (fMinMax f true) d a).st
  | _ => 0

/-- The sticky bits of all lanes on which a slot acts. -/
def slotSticky (p : Slot) (x : Iss) : Word :=
  ((lanesOf x.p.lanes).filter (slotOn p x)).foldl
    (fun m l => m ||| pairSticky p.op (x.vreg p.d.toNat l) (x.vreg p.a.toNat l)) 0

/-! The value of a float (R34) -/

/-- The value of a finite float; 0 for a NaN or an infinity. -/
def fval (f : FType) (a : Nat) : ℚ :=
  match fDecode f a with
  | .fin s m e => (if s then -1 else 1) * m * (2 : ℚ) ^ e
  | _ => 0

/-- A bit pattern of the type is a finite number. -/
def fFinite (f : FType) (a : Nat) : Prop := a < 2 ^ fWidth f ∧ fMag f a < fInf f

/-- A bit pattern of the type is a NaN: its exponent is all ones and its fraction is not 0. -/
def fIsNan (f : FType) (a : Nat) : Prop := fInf f < fMag f a

/-! Conversions (R130, R132) -/

/-- The number that sub-element `j` of PACK's result comes from (R130). -/
def packSource (t : IType) (a b : Word) (j : Nat) : Int :=
  let p := if j < 32 / t.bits then el (2 * t.bits) j a else el (2 * t.bits) (j - 32 / t.bits) b
  if isSigned t then p.toInt else p.toNat

/-- A number clamped to the range of a type, and whether it lay outside (R130). -/
def saturated (t : IType) (n : Int) : BitVec t.bits × Bool :=
  let least : Int := if isSigned t then -(2 ^ (t.bits - 1)) else 0
  let most : Int := if isSigned t then 2 ^ (t.bits - 1) - 1 else 2 ^ t.bits - 1
  (BitVec.ofInt t.bits (max least (min most n)), decide (n < least ∨ most < n))

/-- A sub-element widened by the type's signedness (R130). -/
def widened (t : IType) (p : BitVec t.bits) : BitVec (2 * t.bits) :=
  if isSigned t then p.signExtend _ else p.setWidth _

/-- Element `e` of DQNT's result: its code and exponent word in the image, decoded by R43 and rounded once (R132). -/
def Iss.dequantised (x : Iss) (a : VCode) (x4 : Bool) (f : FType) (l : BitVec 2) (rm : Rm) (e : Nat) : FRes :=
  let byte (n : Nat) : Nat := (el 8 (n % 8) (x.v a (n / 8))).toNat
  let code := if x4 then (if e % 2 = 0 then byte (e / 2) % 16 else byte (e / 2) / 16) else byte e
  let at_ := (if x4 then 64 else 128) + 2 * (e / (16 * 2 ^ l.toNat))
  match (dxb x4).decode (byte at_ + 256 * byte (at_ + 1)) code with
  | none => { r := 0, st := INV }
  | some (.fin s m ex) => fRound f rm (drawBits (x.w.draw (elemAt f e).2.1) 4 (elemAt f e).2.2.2) s m ex
  | some _ => { r := 0, st := 0 }

/-! Partitions (R74 to R76) -/

/-- The partitions of a wave share no lane (R74). -/
def Iss.apart (x : Iss) : Prop := (x.p :: x.ps).Pairwise fun a b => a.lanes &&& b.lanes = 0

/-- The program counter of a lane: that of the partition which holds it. -/
def pcIn (ps : List Part) (l : Nat) : Option Word := (ps.find? fun p => p.lanes.getLsbD l).map (·.pc)

/-- The state after a word of the scalar pipe that moves its partition. -/
def Iss.afterTo (x : Iss) (i : Instr) (h : Hd) (pipe : Pipe) (l : List Part) (noCost : Bool) : State :=
  x.after i h pipe (x.active h).length x.s x.w (.to l noCost)

/-- The wave after CALL or CALLX has written its link: the next word's address in each active lane of d, with a
scoreboard entry under the state's next name (R63, R86). -/
def Iss.linked (x : Iss) (d : VCode) (h : Hd) (v : Wave) : Prop :=
  v = { x.w with win := v.win,
                 vpend := x.w.vpend ++ [⟨x.s.nextUid, (x.frame.locs? (.v d.toNat 1)).getD [], none⟩] } ∧
  (∀ l ∈ x.active h, wget v.win (x.frame.vslot d.toNat + l) = x.p.pc + 8) ∧
  (∀ k, (∀ l ∈ x.active h, k ≠ x.frame.vslot d.toNat + l) → wget v.win k = wget x.w.win k)

/-! Accesses (R162, R180 to R193) -/

/-- Register `code` of the issuing wave or its group holds grant `g`, and no deferred fault (R144, R158). -/
def Iss.names (x : Iss) (code : Nat) (g : Grant) : Prop :=
  x.s.regFaults.find? (fun f => f.1 == x.regRef code) = none ∧ x.s.reg? (x.regRef code) = some g

/-- A register holds a HELD grant. -/
def Iss.holds (x : Iss) (code : Nat) (g : Grant) : Prop := x.names code g ∧ g.st = .held

/-- A register holds a grant through which loads are allowed: HELD or FROZEN (R162). -/
def Iss.reads (x : Iss) (code : Nat) (g : Grant) : Prop := x.names code g ∧ (g.st = .held ∨ g.st = .frozen)

/-- The offset that a lane accesses: V[b] + z × imm, modulo 2^64 (R180). -/
def Iss.off (x : Iss) (b : VCode) (z imm l : Nat) : Nat := (x.v b l + BitVec.ofNat 64 (z * imm)).toNat

/-- Every active lane's access lies in bounds and is aligned (R162, R182). -/
def Iss.fits (x : Iss) (h : Hd) (len z imm : Nat) (b : VCode) : Prop :=
  ∀ l ∈ x.active h, x.off b z imm l + z ≤ len ∧ x.off b z imm l % z = 0

/-- Every active lane's access lies in bounds. -/
def Iss.within (x : Iss) (h : Hd) (len z imm : Nat) (b : VCode) : Prop := ∀ m ∈ x.active h, x.off b z imm m + z ≤ len

/-- Lane `l` is the lowest active lane whose access ends past `len` (R162, R182). -/
def Iss.firstOut (x : Iss) (h : Hd) (len z imm : Nat) (b : VCode) (l : Nat) : Prop :=
  l ∈ x.active h ∧ len < x.off b z imm l + z ∧ ∀ m ∈ x.active h, m < l → x.off b z imm m + z ≤ len

/-- Lane `l` is the lowest active lane whose access is not aligned (R182). -/
def Iss.firstSkew (x : Iss) (h : Hd) (z imm : Nat) (b : VCode) (l : Nat) : Prop :=
  l ∈ x.active h ∧ x.off b z imm l % z ≠ 0 ∧ ∀ m ∈ x.active h, m < l → x.off b z imm m % z = 0

/-- The core has `n` miss-status entries for this word: in normal service they are free, in start-up, test or recovery service the
wave may have as many (R192, R193). -/
def Iss.entriesFree (x : Iss) (n : Nat) : Prop := n ≤ x.freeEntries

/-- A state of which the word takes `n` miss-status entries. -/
def Iss.taken (x : Iss) (s : State) (n : Nat) : State :=
  if n = 0 then s else x.takes s n

/-- The state once the word has taken a name and `n` miss-status entries. -/
def Iss.taking (x : Iss) (n : Nat) : State := x.taken { x.s with nextUid := x.s.nextUid + 1 } n

/-- The state after a memory word of the vector pipe whose wave becomes `w`. -/
def Iss.afterM (x : Iss) (i : Instr) (h : Hd) (s : State) (w : Wave) : State :=
  x.after i h .vector (x.active h).length s w .next

/-- The load that a word puts in flight: one lane for each active lane, nothing read yet; `miss` are the sectors for which it
takes an entry. -/
def Iss.loadP (x : Iss) (code : Nat) (t : Tgt) (z : Nat) (lanes : List (Nat × Nat)) (dest : LoadDest) (atomic : Bool)
    (miss : List Nat) (hint : Nat) : LoadP :=
  { id := x.s.nextUid, seq := x.s.nextUid, pc := x.p.pc, code := code, tgt := t, size := z,
    lanes := lanes.map fun l => { lane := l.1, addr := l.2, got := none }, dest := dest, atomic := atomic, miss := miss,
    hint := hint, via := x.via t x.s.nextUid, asked := [] }

/-- An outbox entry that a word adds. -/
def Iss.entry (x : Iss) (code : Nat) (t : Tgt) (k : OKind) : OEnt :=
  { seq := x.s.nextUid, pc := x.p.pc, code := code, tgt := t, kind := k }

/-- A store to scratchpad bytes meets no staged window of a residue and no OBLD of the wave (R197, R258). -/
def Iss.free (x : Iss) (t : Tgt) (z : Nat) (addrs : List Nat) : Prop :=
  ∀ a ∈ addrs, ∀ sp ∈ x.s.spans t a z, isSp sp.1 = true → x.s.residueSpan sp = false ∧ x.s.obldSpan x.w.uid sp = false

/-- The trap of a word, with its %tinfo (R293). -/
def Iss.traps (x : Iss) (i : Instr) (h : Hd) (code : Nat) (info : Word) : Prop :=
  x.ready (usesOf i) h → exec i x.s = .next (x.trap h.sc.toNat code info)

/-- The traps of an access's bounds and, once these hold, of its alignment: each reports its lowest failing lane (R182). -/
def Iss.placeTraps (x : Iss) (i : Instr) (h : Hd) (code len z imm : Nat) (b : VCode) : Prop :=
  (∀ l, x.firstOut h len z imm b l → x.traps i h REFUSED_BOUNDS (laneInfo code l 0 (x.off b z imm l))) ∧
  (x.within h len z imm b → ∀ l, x.firstSkew h z imm b l → x.traps i h MISALIGNED (laneInfo code l 0 (x.off b z imm l)))

/-- In determinism mode home atomics need the kernel's stamp (R212). -/
def Iss.stamped (x : Iss) : Prop :=
  x.det = false ∨ ∃ st, x.k.stamp = some st ∧ st.passing = none ∧ st.retired = false ∧ st.moving = false ∧ st.grp = x.g.grp ∧ st.wave = x.w.index

/-- The state once a store word has taken a name: the cache of its grant has merged the bytes (R175). -/
def Iss.storing (x : Iss) (t : Tgt) (direct : Bool) (hint z : Nat) (addrs : List Nat) : State :=
  { x.s.mergeStore x.coreIx t direct hint z addrs with nextUid := x.s.nextUid + 1 }

/-- A full-empty load of the lanes `at_`: where every granule is full, every lane may be read and no sector is uncorrectable, it
proceeds at once, and otherwise the wave is held until it can (R185, R199). -/
def Iss.feLoad (x : Iss) (i : Instr) (h : Hd) (p : Place) (z : Nat) (at_ : List (Nat × Nat)) (dest : LoadDest) (hint : Nat)
    (clear : Bool) : Prop :=
  let y := x.loading p hint z (at_.map (·.2))
  let s := y.taking 0
  let l := y.loadP p.code p.tgt z at_ dest false (y.missing p hint z (at_.map (·.2))) hint
  let w := { x.w with loads := x.w.loads ++ [l] }
  let now := s.allFull (s.granules p.tgt (at_.map fun o => (o.2, z))) = true ∧ (∀ r ∈ l.lanes, s.laneReady x.w l r = true) ∧
    s.badLanes? x.coreIx l none = none
  (¬ now → exec i x.s = .next (x.afterM i h s { w with hold := .fullEmpty l.id clear })) ∧
  (now → exec i x.s = .next (x.afterM i h (s.feProceed w l clear).1 (s.feProceed w l clear).2))

/-- A full-empty store of the lanes `at_` to scratchpad bytes: one outbox entry for each lane, the last with the granules that
become full. -/
def Iss.feStore (x : Iss) (i : Instr) (h : Hd) (t : Tgt) (z : Nat) (at_ : List (Nat × Nat)) : Prop :=
  ∃ es : List OEnt, exec i x.s = .next (x.afterM i h (x.taking 0) { x.w with outbox := x.w.outbox ++ es }) ∧
    es.length = at_.length ∧
    ∀ e ∈ es.getLast?, ∃ a bs, e.kind = .write a bs ((x.taking 0).granules t (at_.map fun o => (o.2, z)))

/-! Region and ordering words (R164 to R213) -/

/-- A region register holds no deferred fault (R158). -/
def Iss.unfaulted (x : Iss) (code : Nat) : Prop := x.s.regFaults.find? (fun f => f.1 == x.regRef code) = none

/-- A region register is EMPTY and holds no deferred fault. -/
def Iss.vacant (x : Iss) (r : RegRef) : Prop := x.s.regFaults.find? (fun f => f.1 == r) = none ∧ x.s.reg? r = none

/-- The WAITING root grant that BRW puts into register `code` (R165). -/
def Iss.asked (x : Iss) (h : Hd) (code : Nat) (k : Kind) (va len ia : Nat) : Grant :=
  { gid := x.s.nextUid, reg := x.regRef code, st := .waiting, kind := k, ctx := x.k.ctx, va := wd va, ia := ia, len := len,
    tag := 0, children := 0, parent := none, home := homeOf ia, entry := none, sfWrite := h.x == 4, derive := none,
    flushed := false, returned := false, window := none, gs := [], lost := false, by_ := 0 }

/-- The request that BRW sends (R149, R165); in determinism mode with its key (R150). -/
def Iss.asks (x : Iss) (k : Kind) (len ia : Nat) (tryIt : Bool) : BReq :=
  { rid := x.s.nextUid + 1, src := x.coreIx * 4 + x.w.quad, who := .grant x.s.nextUid, ia := ia, len := len, kind := k, tryIt := tryIt, ctx := x.k.ctx,
    die := x.g.die, sector := x.s.sector x.g.die x.w.core,
    det := if x.det then some (x.k.uid, x.g.grp, x.w.index) else none }

/-- `c` is a WAITING child of `p` in register `r`: kind, offset, length, the parent link with its wave's index (R166). -/
structure ChildOf (p c : Grant) (gid : Nat) (r : RegRef) (k : Kind) (off_ len widx : Nat) : Prop where
  gid : c.gid = gid
  reg : c.reg = r
  st : c.st = .waiting
  kind : c.kind = k
  ctx : c.ctx = p.ctx
  va : c.va = p.va + wd off_
  ia : c.ia = p.ia + off_
  len : c.len = len
  children : c.children = 0
  parent : c.parent = some (p.gid, widx, p.reg.code)
  home : c.home = p.home
  derive : c.derive = some (.child p.gid)
  bytes : c.gs = [] ∧ c.window = none

/-- The wave index of a parent link: 0 for a group-scope parent (Table 7.7). -/
def Iss.widx (x : Iss) (code : Nat) : Nat := if code < 16 then x.w.index else 0

/-- The report word of Table 7.7, its fields from bit 51 down. -/
def reportWord (tag home children pwave preg kind scope st : Nat) : Word :=
  0#12 ++ BitVec.ofNat 12 tag ++ BitVec.ofNat 4 home ++ BitVec.ofNat 16 children ++ BitVec.ofNat 9 pwave ++
    BitVec.ofNat 5 preg ++ BitVec.ofNat 2 kind ++ BitVec.ofNat 1 scope ++ BitVec.ofNat 3 st

/-- The trap of the deferred fault `f` that a region register holds; the register no longer holds it (R158). -/
def Iss.trapsHeld (x : Iss) (i : Instr) (h : Hd) (code : Nat) (f : FaultRec) : Prop :=
  let left := x.s.regFaults.filter fun e => !(e.1 == x.regRef code && e.2.code == f.code)
  x.ready (usesOf i) h →
    exec i x.s = .next (({ x with s := { x.s with regFaults := left } } : Iss).trap h.sc.toNat f.code f.info)

/-- A word of the scalar pipe completes with the state `s` and the wave `w`. -/
def Iss.does (x : Iss) (i : Instr) (h : Hd) (s : State) (w : Wave) : Prop :=
  x.ready (usesOf i) h → exec i x.s = .next (x.after i h .scalar (x.active h).length s w .next)

/-- A word waits at issue: nothing changes. -/
def Iss.waits (x : Iss) (i : Instr) (h : Hd) : Prop := x.ready (usesOf i) h → exec i x.s = .next x.s

/-- The wave holds the stamp (R212). -/
def Iss.stampHere (x : Iss) : Prop :=
  ∃ st, x.k.stamp = some st ∧ st.passing = none ∧ st.retired = false ∧ st.moving = false ∧ st.grp = x.g.grp ∧ st.wave = x.w.index

/-! Barriers, channels, copies (R217 to R247) -/

/-- The condition of Table 10.2 for an ARMED barrier that BINIT may arm again. -/
def Bar.untouched (b : Bar) : Prop := b.arrived = 0 ∧ b.pending = b.reload

/-- A channel is busy (Table 11.1, reason 3). -/
def Iss.chanBusy (x : Iss) (c : Chan) : Prop :=
  c.fill ≠ 0 ∨ c.v ≠ 0 ∨ ∃ o ∈ x.s.ops, o.group = x.g.uid ∧ c.ch ∈ o.chans

/-- A register of the wave after a scalar result that the scoreboard holds under the state's next name (R63). -/
structure Iss.Late (x : Iss) (n : Nat) (v : Word) (w : Wave) : Prop where
  rest : w = { x.w with sregs := w.sregs, vpend := x.w.vpend ++ [⟨x.s.nextUid, [.sreg n], none⟩] }
  value : n ≠ 0 → w.sget n = v
  kept : ∀ k, k ≠ n → w.sget k = x.w.sget k

/-- The state once the word has taken the next name. -/
def Iss.named (x : Iss) (n : Nat) : State := { x.s with nextUid := x.s.nextUid + n }

/-- One side of a copy may be used, as `r` (R240): an X grant that is HELD for the destination, a grant that is HELD or
FROZEN for the source, the scratchpad, or a channel that takes whole entries; the range of bytes lies within it. -/
def Iss.side (x : Iss) (e : Endp) (sink : Bool) (range : Option (Nat × Nat)) (len : Nat) (r : End) : Prop :=
  match e with
  | .region c => ∃ g, (if sink then x.holds c.toNat g ∧ g.kind = .x else x.reads c.toNat g) ∧
      (∀ p, range = some p → p.2 = 0 ∨ p.1 + p.2 ≤ g.len) ∧ r = .grant g.gid
  | .sp => (∀ p, range = some p → p.2 = 0 ∨ p.1 + p.2 ≤ x.scr) ∧ r = .sp
  | .chan c => range ≠ none ∧ (∃ h, x.g.chan? c.toNat = some h ∧ len % h.size = 0 ∧ len / h.size ≤ h.cap) ∧
      r = .chan c.toNat

/-- The flag rule (R242): the control word's flag, an A grant of the destination's home with room for it; without a flag,
the destination lies at a die. -/
def Iss.flagOf (x : Iss) (ctl : Word) (dst : End) (flag : Option (Nat × Nat)) : Prop :=
  match dst with
  | .grant gid => ∃ g, x.s.grant? gid = some g ∧
      if ctl.getLsbD 17 then ∃ f, x.holds (fld ctl 12 5) f ∧ f.kind = .a ∧ 8 * fld ctl 24 40 + 8 ≤ f.len ∧
        f.home = g.home ∧ flag = some (f.gid, f.ia + 8 * fld ctl 24 40)
      else g.home < 8 ∧ flag = none
  | _ => ctl.getLsbD 17 = false ∧ flag = none

/-- A well-formed control word (Table 11.5). -/
def ctlOk (ctl : Word) : Prop := fld ctl 18 6 = 0 ∧ (ctl.getLsbD 17 = true → fld ctl 12 5 < 24)

/-- The barrier of a control word (Table 11.5). -/
def ctlBar (ctl : Word) : Option Nat := if ctl.getLsbD 11 then some (fld ctl 0 11) else none

/-- `o` is the operation that a copy word adds: its place, what it does, its batch B(W) + 1, nothing of it done (R209,
R237). -/
structure Issued (x : Iss) (o : CopyOp) (kind : OpKind) (dst src : End) (nums : List Nat) (len : Nat) (acc : Option Nat)
    (flag : Option (Nat × Nat)) : Prop where
  name : o.id = x.s.nextUid ∧ o.seq = x.s.nextUid ∧ o.pc = x.p.pc
  owner : o.wave = x.w.uid ∧ o.group = x.g.uid ∧ o.core = x.coreIx ∧ o.batch = x.w.batch.toNat + 1
  what : o.kind = kind ∧ o.dst = dst ∧ o.src = src ∧ o.nums = nums ∧ o.len = len ∧ o.acc = acc ∧ o.flag = flag
  progress : o.pos = 0 ∧ o.data = [] ∧ o.fired = false ∧ o.suspended = false ∧ o.failed = false

/-- The state with an operation in the core's engine queue. -/
def Iss.queued (x : Iss) (o : CopyOp) : State :=
  let cores := x.s.cores.modify x.coreIx fun c => { c with engineQ := c.engineQ ++ [o.id] }
  { x.named 1 with ops := x.s.ops ++ [o], cores := cores }

/-- A copy word whose checks pass: it waits while the engine queue is full, and otherwise its operation enters it. A copy
of 0 bytes does nothing but its flag (R237, R240 to R242). -/
def Iss.copies (x : Iss) (i : Instr) (h : Hd) (kind : OpKind) (d a : Endp) (ctl : Word) (nums : List Nat) (len : Nat)
    (dst src index : Option (Nat × Nat)) : Prop :=
  ∀ ed es flag, ctlOk ctl → x.side d true dst len ed → x.side a false src len es →
    (∀ m n, ed = .chan m → es = .chan n → m ≠ n) → (∀ p, index = some p → p.2 = 0 ∨ p.1 + p.2 ≤ x.scr) →
    (ctlBar ctl ≠ none → len ≤ pendingMax) → x.flagOf ctl ed flag →
    (64 ≤ x.core.engineQ.length → x.waits i h) ∧
    (x.core.engineQ.length < 64 →
      (len = 0 → flag = none → x.does i h x.s x.w) ∧
      ∃ o, Issued x o kind ed es nums len (ctlBar ctl) flag ∧
        (0 < len → x.does i h (x.queued o) x.w) ∧
        (len = 0 → flag ≠ none → x.does i h { x.named 1 with ops := x.s.ops ++ [{ o with started := true }] } x.w))

/-! Matrix words (R249 to R267) -/

/-- The conditions of R254 and R260 on an MMA's operands: the reservation's formats, the operand word, the accumulators,
the lacing, and the bytes that lie in the reservation and in the scratchpad. -/
structure Iss.MmaFits (x : Iss) (c : Cv) (l : Lace) (r : Res) (base : BitVec 6) (la lb : BitVec 2) (f : MFmt) (word : Word) :
    Prop where
  formats : r.fmt = f ∧ r.la = la ∧ r.lb = lb
  operand : fld word 27 37 = 0 ∧ 1 ≤ fld word 20 7 ∧ fld word 20 7 ≤ 64
  rows : base.toNat + 64 / c.signers ≤ 64 ∧ (x.frame.locs? (.acc base.toNat (64 / c.signers))).isSome = true
  blocks : (isDxb f = true → l.c % blockLen la = 0 ∧ l.k % blockLen lb = 0) ∧ (f = .x4 → l.c % 2 = 0)
  reserved : planeBytes f (64 * l.k) ≤ r.len ∧ (isDxb f = true → r.expo + 2 * 64 * (l.k / blockLen lb) ≤ r.len)
  input : planeBytes f (l.h * l.w * l.c) = 0 ∨ l.base + planeBytes f (l.h * l.w * l.c) ≤ x.scr
  exponents : isDxb f = true →
    2 * (l.h * l.w * l.c) / blockLen la = 0 ∨ l.eoff + 2 * (l.h * l.w * l.c) / blockLen la ≤ x.scr
  alignment : l.base % max 1 (mBits f / 8) = 0 ∧ l.eoff % 2 = 0

/-- The accumulators that a matrix word names wait for no matrix work of the wave (R263). -/
def Iss.accFree (x : Iss) (base rows : Nat) : Prop :=
  ∀ l ∈ x.s.accPending x.w x.k.views,
    l.meets (.win (accByte x.k.views base) (accByte x.k.views (base + rows))) = false

/-- The state with an entry in the core's matrix queue. -/
def Iss.matQueued (x : Iss) (s : State) (m : MatEnt) : State :=
  { s with cores := s.cores.modify x.coreIx fun c => { c with matQ := c.matQ ++ [m] } }

/-- A matrix-queue entry that a word adds. -/
def Iss.matEnt (x : Iss) (k : MatKind) : MatEnt :=
  { id := x.s.nextUid, wave := x.w.uid, group := x.g.uid, seq := x.s.nextUid, pc := x.p.pc, entered := x.clk,
    started := none, kind := k }

/-! Hypervector words (R273 to R285) -/

/-- A unit word whose wave becomes `w`: it waits while the unit queue is full, and otherwise its operation enters it
(R274). -/
def Iss.units (x : Iss) (i : Instr) (h : Hd) (w : Wave) (k : UnitKind) : Prop :=
  let u : UnitOp := { id := x.s.nextUid, wave := x.w.uid, pc := x.p.pc, issued := x.clk, started := none, kind := k, read := [] }
  let cores := x.s.cores.modify x.coreIx fun c => { c with unitQ := c.unitQ ++ [u] }
  (8 ≤ x.core.unitQ.length → x.waits i h) ∧
  (x.core.unitQ.length < 8 → x.does i h { x.named 1 with cores := cores } w)

/-- HLD and HST may access 1,024 bytes at an offset of their endpoint, at the target `t`, byte `at_`, under `code`; `free_`
tells whether the access takes no miss-status entry (R281). -/
def Iss.hvSide (x : Iss) (e : Endp) (store : Bool) (off_ : Nat) (t : Tgt) (at_ code : Nat) (free_ : Bool) : Prop :=
  off_ % 16 = 0 ∧
  match e with
  | .region c => ∃ g, (if store then x.holds c.toNat g ∧ g.kind = .x else x.reads c.toNat g) ∧ off_ + 1024 ≤ g.len ∧
      t = .grant g.gid ∧ at_ = g.ia + off_ ∧ code = c.toNat ∧ free_ = x.s.direct g
  | _ => off_ + 1024 ≤ x.scr ∧ t = .sp x.g.uid ∧ at_ = off_ ∧ code = 31 ∧ free_ = true

/-! Events -/

/-- `n` bytes of a home from an IA can be read and written as one: they exist, and the pages of those in main memory lie in
cached runs of their die that lead to memory in service, so that no access parks (R323, R326, R327). -/
abbrev State.mapped (s : State) (ia n : Nat) : Prop :=
  ∀ i < n, unbacked (ia + i) = false ∧ (iaSpace (ia + i) = 0 →
    let d := s.die (iaDie (ia + i))
    let page := (ia + i) % 2 ^ 44 / 2 ^ 14
    d.ptroot.getLsbD 0 = true ∧ (runOf? d.runs page).isSome = true ∧
      ∀ r ∈ d.runs, r.page ≤ page → page < r.page + r.size →
        s.frameLost (iaDie (ia + i)) (r.pfn + (page - r.page)) = false)

/-- The dispatcher serves queue `n`, which stands as `q`, and whose head is the entry `e`: the head and the word that takes
CONSUMED are mapped (R300, R302). -/
abbrev State.heads (s : State) (n : Nat) (q : Queue) (e : List Byte) : Prop :=
  s.dispatches = true ∧ s.queue n = q ∧ s.nextQueue? = some q ∧ s.mapped q.headIa 64 ∧ s.mapped (q.dbell + 8) 8 ∧
    (s.hRead q.headIa 64).2 = some e

/-- The next tag of a sector of a die. -/
def State.tagNow (s : State) (at_ : Nat × Nat) : Nat := (s.die at_.1).tags.getD at_.2 0

/-- The next tag of a sector may be given out: its sweep is complete (R159). -/
abbrev State.tagReady (s : State) (at_ : Nat × Nat) : Prop := (at_.2, s.tagNow at_) ∉ (s.die at_.1).sweeping

/-- A load may read the lanes that are named, or all: its home is reached, and no maintenance slot pauses a part that they
need (R178, R350). -/
abbrev State.mayRead (s : State) (w : Wave) (l : LoadP) (cap : Option Nat) : Prop :=
  (s.farLines l = [] → s.loadReach w l = .ok) ∧ (s.inSlot = true → l.atomic = false →
    s.pauses (s.coreOf w) l.tgt l.size ((l.lanes.filter fun r => r.got.isNone && cap.all (· == r.lane)).map (·.addr)) = false)

/-- The state in which a load reads: its traffic keeps the delivery context of an endpoint open (R346). -/
def State.reading (s : State) (l : LoadP) : State :=
  match s.loadEp? l with
  | some e => s.touchDeliv e
  | none => s

/-- A record that the issuing word adds to its context's fault queue (Table 14.5). -/
def Iss.frec (x : Iss) (code source : Nat) (info : Word) : FRec :=
  { clk := x.clk, pc := x.p.pc, info := info, kid := x.k.kid, code := code, source := source, wave := x.w.index }

end Machine

end Sys2Proof
end

