-- ==== Sys2Proof/Laws/Issue.lean ====
section
/-! SUPPORT. What issuing one word can do, taking a trap, and what a step can do. -/

namespace Sys2Proof.Laws

open Sys2Proof Sys2Proof.Machine

/-- The issuing wave is a wave of its state, with its current partition first. -/
theorem iss?_some {s : State} {x : Iss} (h : s.iss? = some x) :
    x.s = s ∧ s.cur = some x.w.uid ∧ s.wave? x.w.uid = some x.w ∧ x.w.parts = x.p :: x.ps ∧
      s.group? x.w.group = some x.g ∧ s.kernel? x.g.kernel = some x.k := by
  unfold State.iss? at h
  split at h
  · cases h
  · rename_i u hu
    split at h
    · cases h
    · rename_i w hw
      have huid : w.uid = u := by
        have := List.find?_some hw
        simpa using this
      split at h
      · rename_i p ps g hp hg
        split at h
        · rename_i k hk
          cases h
          exact ⟨rfl, huid ▸ hu, huid ▸ hw, hp, hg, hk⟩
        · cases h
      · cases h

/-- A word outside an issue is a fault. -/
theorem execUses_none {us h pipe s eff} (hs : State.iss? s = none) : execUses us h pipe s eff = .fault .noIssuingWave := by
  rw [execUses, hs]

/-- A word inside an issue always takes a next state. -/
theorem execUses_some {us h pipe s eff x} (hs : State.iss? s = some x) :
    execUses us h pipe s eff = .next (x.issue us h pipe eff) := by
  rw [execUses, hs]

theorem execWord_some {i h pipe s eff x} (hs : State.iss? s = some x) :
    execWord i h pipe s eff = .next (x.issue (usesOf i) h pipe eff) := execUses_some hs

/-- What a word's own effect makes of the state. -/
def effState (x : Iss) (us : List Use) (h : Hd) (pipe : Pipe) (n : Nat) : Eff → State
  | .trap code info => x.trap h.sc.toNat code info
  | .trapReg r code info =>
    ({ x with s := { x.s with regFaults := x.s.regFaults.filter fun f => !(f.1 == r && f.2.code == code) } } : Iss).trap
      h.sc.toNat code info
  | .wait => x.s
  | .stay s => s
  | .done s w mv => x.finish us pipe n h.sc.toNat s w mv

/-- A word that nothing stops takes its own effect. -/
theorem issueOn_ready {x : Iss} {us : List Use} {h : Hd} (hr : x.ready us h) (pipe : Pipe) (lanes : List Nat)
    (eff : Iss → List Nat → Eff) :
    x.issueOn us h pipe lanes eff = effState x us h pipe lanes.length (eff x lanes) := by
  obtain ⟨hb, hg, hs⟩ := hr
  have h1 : (x.c.stchk && !false && (worstEarly x.frame x.clk x.w.early us).1 != 0) = false := by
    rcases hs with hs | hs <;> simp [hs]
  simp only [Iss.issueOn, hb, maxPos, List.foldl_nil, hg, h1, Bool.not_true, Bool.and_false, Bool.false_eq_true, if_false]
  cases eff x lanes <;> rfl

theorem issue_ready {x : Iss} {us : List Use} {h : Hd} (hr : x.ready us h) (pipe : Pipe) (eff : Iss → List Nat → Eff) :
    x.issue us h pipe eff = effState x us h pipe (x.active h).length (eff x (x.active h)) :=
  issueOn_ready hr pipe _ eff

/-- The meaning of a word that nothing stops. -/
theorem execWord_ready {x : Iss} {i : Instr} {h : Hd} (hx : x.live) (hr : x.ready (usesOf i) h) (pipe : Pipe)
    (eff : Iss → List Nat → Eff) :
    execWord i h pipe x.s eff = .next (effState x (usesOf i) h pipe (x.active h).length (eff x (x.active h))) := by
  rw [execWord_some hx, issue_ready hr]

theorem execUses_ready {x : Iss} {us : List Use} {h : Hd} (hx : x.live) (hr : x.ready us h) (pipe : Pipe)
    (eff : Iss → List Nat → Eff) :
    execUses us h pipe x.s eff = .next (effState x us h pipe (x.active h).length (eff x (x.active h))) := by
  rw [execUses_some hx, issue_ready hr]

/-- Everything issuing a word can do: a trap of the decode check of views, STALL_SHORT of the guard, nothing because the
guard fails, STALL_SHORT of an operand, or its own effect. -/
theorem issueOn_cases (x : Iss) (us : List Use) (h : Hd) (pipe : Pipe) (lanes : List Nat) (eff : Iss → List Nat → Eff) :
    (∃ p, maxPos (x.frame.bad us) = some p ∧ x.issueOn us h pipe lanes eff = x.trap h.sc.toNat RESERVED_FIELD (wd p)) ∨
    (∃ g, x.issueOn us h pipe lanes eff = x.trap h.sc.toNat STALL_SHORT (stallInfo g)) ∨
    (x.guard h = false ∧ x.issueOn us h pipe lanes eff = x.skip h.sc.toNat) ∨
    (x.guard h = true ∧ x.issueOn us h pipe lanes eff = effState x us h pipe lanes.length (eff x lanes)) := by
  unfold Iss.issueOn
  dsimp only
  split
  · rename_i p hp; exact .inl ⟨p, hp, rfl⟩
  · split
    · exact .inr (.inl ⟨_, rfl⟩)
    · split
      · rename_i hg
        exact .inr (.inr (.inl ⟨by simpa using hg, rfl⟩))
      · rename_i hg
        have hg' : x.guard h = true := by simpa using hg
        split
        · rename_i he
          exact .inr (.inr (.inr ⟨hg', by rw [he]; rfl⟩))
        · split
          · exact .inr (.inl ⟨_, rfl⟩)
          · exact .inr (.inr (.inr ⟨hg', by cases eff x lanes <;> rfl⟩))

/-- An event always takes a next state: its effect if it is enabled, else the same state. -/
theorem execEvent_some {s t : State} {f : State → Option State} (h : f s = some t) : execEvent s f = .next t := by
  rw [execEvent, h]; rfl

theorem execEvent_none {s : State} {f : State → Option State} (h : f s = none) : execEvent s f = .next s := by
  rw [execEvent, h]; rfl

/-- What a step can do. -/
theorem step_cases (s : State) :
    (step s = .next s.advance ∧ ∀ i r, s.agenda = i :: r → s.eventTurn i = false) ∨
    ∃ i r, s.agenda = i :: r ∧ s.eventTurn i = true ∧ step s = .next (State.act i (s.taken i r)) := by
  unfold step State.turn
  cases h : s.agenda with
  | nil => exact .inl ⟨rfl, fun _ _ e => by cases e⟩
  | cons i r =>
    by_cases he : s.eventTurn i = true
    · exact .inr ⟨i, r, rfl, he, by simp only [he, if_true]⟩
    · refine .inl ⟨by simp only [he, if_false, Bool.false_eq_true], fun _ _ e => ?_⟩
      cases e; simpa using he

/-- Taking a trap with a trap entry, outside a handler. -/
theorem takeTrap_entry {s : State} {w : Wave} {p : Part} {ps : List Part} {k : Kernel} (hp : w.parts = p :: ps)
    (hk : s.kernelOf? w = some k) (hs : p.saved = none) (ht : k.trapent ≠ 0) (code : Nat) (info : Word) (sc : Nat) :
    ∃ v, s.takeTrap w code info sc = s.setWave v ∧ v.uid = w.uid ∧
      v.parts = { p with nest := [], saved := some p.nest, pc := k.trapent, redirect := s.clk + max sc 2 + 1 } :: ps ∧
      v.tcause = BitVec.ofNat 8 code ∧ v.tpc = p.pc ∧ v.tinfo = info ∧ v.tlanes = p.lanes ∧ v.early = [] ∧
      v.turn = w.turn - s.clk := by
  have hcond : (p.saved.isNone && k.trapent != 0) = true := by simp only [hs, Option.isNone_none, Bool.true_and, bne_iff_ne]; exact ht
  have huid : ∀ (l : List (Nat × Word)) (w : Wave), (l.foldl (fun w x => w.sticky x.1 x.2) w).uid = w.uid ∧
      (l.foldl (fun w x => w.sticky x.1 x.2) w).turn = w.turn := by
    intro l
    induction l with
    | nil => exact fun _ => ⟨rfl, rfl⟩
    | cons a r ih =>
      intro w
      have : (w.sticky a.1 a.2).uid = w.uid ∧ (w.sticky a.1 a.2).turn = w.turn := by unfold Wave.sticky; split <;> exact ⟨rfl, rfl⟩
      rw [List.foldl_cons]
      exact ⟨(ih _).1.trans this.1, (ih _).2.trans this.2⟩
  simp only [State.takeTrap, hp, hk, hcond, if_true]
  refine ⟨_, rfl, ?_, rfl, rfl, rfl, rfl, rfl, rfl, ?_⟩
  · exact (huid _ _).1
  · exact congrArg (· - s.clk) (huid _ _).2

end Sys2Proof.Laws
end

