-- ==== Sys2Proof/Laws/Words.lean ====
section
/-! SUPPORT. What the shared forms of register words do to the issuing wave: vector results, scalar results, flags. -/

namespace Sys2Proof.Laws

open Sys2Proof Sys2Proof.Machine

/-! A run of words written into a table -/

/-- Words written at keys that do not name `k` leave it alone. -/
theorem wget_foldl_ne (slot : Nat) (l : List (Nat × Word)) (m : Words) (k : Nat) (h : ∀ p ∈ l, k ≠ slot + p.1) :
    wget (l.foldl (fun m v => wset m (slot + v.1) v.2) m) k = wget m k := by
  induction l generalizing m with
  | nil => rfl
  | cons a r ih =>
    rw [List.foldl_cons, ih _ fun p hp => h p (List.mem_cons_of_mem _ hp), wget_wset_ne _ _ _ _ (h a List.mem_cons_self)]

/-- Words written at distinct keys are read back. -/
theorem wget_foldl_mem (slot : Nat) (l : List (Nat × Word)) (m : Words) (hd : (l.map (·.1)).Nodup) (p : Nat × Word)
    (hp : p ∈ l) : wget (l.foldl (fun m v => wset m (slot + v.1) v.2) m) (slot + p.1) = p.2 := by
  induction l generalizing m with
  | nil => cases hp
  | cons a r ih =>
    rw [List.map_cons, List.nodup_cons] at hd
    rw [List.foldl_cons]
    rcases List.mem_cons.1 hp with rfl | hp
    · rw [wget_foldl_ne _ _ _ _ fun q hq he => hd.1 (List.mem_map.2 ⟨q, hq, by omega⟩), wget_wset_same]
    · exact ih _ hd.2 hp

/-! Condition registers -/

/-- A flag write reads back on its lane. -/
theorem ccGet_ccSet_same (w : Wave) (n l : Nat) (f : BitVec 4) (hn : n < 4) : (w.ccSet n l f).ccGet n l = f := by
  have : n = 0 ∨ n = 1 ∨ n = 2 ∨ n = 3 := by omega
  simp only [Wave.ccGet, Wave.ccSet, wget_wset_same]
  rcases this with rfl | rfl | rfl | rfl <;> (ext i hi; have : i = 0 ∨ i = 1 ∨ i = 2 ∨ i = 3 := by omega
                                              rcases this with rfl | rfl | rfl | rfl <;> simp [BitVec.getLsbD_setWidth])

/-- A flag write leaves the other registers of its lane, and other lanes, alone. -/
theorem ccGet_ccSet_ne (w : Wave) (n l m k : Nat) (f : BitVec 4) (hn : n < 4) (hm : m < 4) (h : ¬ (m = n ∧ k = l)) :
    (w.ccSet n l f).ccGet m k = w.ccGet m k := by
  by_cases hk : k = l
  · subst hk
    have hne : m ≠ n := fun e => h ⟨e, rfl⟩
    have h1 : n = 0 ∨ n = 1 ∨ n = 2 ∨ n = 3 := by omega
    have h2 : m = 0 ∨ m = 1 ∨ m = 2 ∨ m = 3 := by omega
    simp only [Wave.ccGet, Wave.ccSet, wget_wset_same]
    rcases h1 with rfl | rfl | rfl | rfl <;> rcases h2 with rfl | rfl | rfl | rfl <;>
      first | exact absurd rfl hne | (ext i hi; have : i = 0 ∨ i = 1 ∨ i = 2 ∨ i = 3 := by omega
                                      rcases this with rfl | rfl | rfl | rfl <;> simp [BitVec.getLsbD_setWidth])
  · simp only [Wave.ccGet, Wave.ccSet, wget_wset_ne _ _ _ _ hk]

/-- Flag writes of one register leave what they do not name alone. -/
theorem ccGet_foldl_ne (n : Nat) (hn : n < 4) (l : List (Nat × BitVec 4)) (w : Wave) (m k : Nat) (hm : m < 4)
    (h : ∀ p ∈ l, ¬ (m = n ∧ k = p.1)) : (l.foldl (fun w v => w.ccSet n v.1 v.2) w).ccGet m k = w.ccGet m k := by
  induction l generalizing w with
  | nil => rfl
  | cons a r ih =>
    rw [List.foldl_cons, ih _ fun p hp => h p (List.mem_cons_of_mem _ hp), ccGet_ccSet_ne _ _ _ _ _ _ hn hm (h a List.mem_cons_self)]

/-- Flag writes of distinct lanes are read back. -/
theorem ccGet_foldl_mem (n : Nat) (hn : n < 4) (l : List (Nat × BitVec 4)) (w : Wave) (hd : (l.map (·.1)).Nodup)
    (p : Nat × BitVec 4) (hp : p ∈ l) : (l.foldl (fun w v => w.ccSet n v.1 v.2) w).ccGet n p.1 = p.2 := by
  induction l generalizing w with
  | nil => cases hp
  | cons a r ih =>
    rw [List.map_cons, List.nodup_cons] at hd
    rw [List.foldl_cons]
    rcases List.mem_cons.1 hp with rfl | hp
    · rw [ccGet_foldl_ne _ hn _ _ _ _ hn fun q hq he => hd.1 (List.mem_map.2 ⟨q, hq, he.2.symm⟩), ccGet_ccSet_same _ _ _ _ hn]
    · exact ih _ hd.2 hp

/-- Flag writes of lanes change nothing of the wave but its condition registers. -/
theorem ccSet_foldl_rest (n : Nat) (l : List (Nat × BitVec 4)) (w : Wave) :
    l.foldl (fun w v => w.ccSet n v.1 v.2) w = { w with cc := (l.foldl (fun w v => w.ccSet n v.1 v.2) w).cc } := by
  induction l generalizing w with
  | nil => rfl
  | cons a r ih =>
    rw [List.foldl_cons, ih]
    rfl

/-! Lanes -/

/-- A mask's lanes do not repeat. -/
theorem lanesOf_nodup (m : BitVec 32) : (lanesOf m).Nodup := List.Nodup.filter _ List.nodup_range

/-- The active lanes of a word do not repeat. -/
theorem active_nodup (x : Iss) (h : Hd) : (x.active h).Nodup := (lanesOf_nodup _).filter _

/-! The wave after a vector word -/

/-- The flags of X are of one of four registers. -/
theorem cc_lt (h : Hd) : h.x.toNat - 4 < 4 := by have := h.x.isLt; omega

/-- What writing lanes, their flags and sticky bits does. -/
theorem putLanes_result (x : Iss) (h : Hd) (lat : Nat) (hl : 0 < lat) (lanes : List Nat) (hn : lanes.Nodup)
    (d : Option VCode) (f : Nat → LaneRes) :
    (x.putLanes h lat d (lanes.map fun l => (l, f l))).ctr = x.w.ctr ∧
    VecResult x h lat lanes (d.map BitVec.toNat) (fun l r => r = (f l).r) (fun l => (f l).fl)
      (lanes.foldl (fun m l => m ||| (f l).st) 0) (x.putLanes h lat d (lanes.map fun l => (l, f l))) := by
  have hst : (lanes.map fun l => (l, f l)).foldl (fun (m : Word) (p : Nat × LaneRes) => m ||| p.2.st) 0 =
      lanes.foldl (fun m l => m ||| (f l).st) 0 := by rw [List.foldl_map]
  generalize hw1 : (match d with
    | some d => x.w.writeV x.frame x.clk lat d.toNat ((lanes.map fun l => (l, f l)).map fun (p : Nat × LaneRes) => (p.1, p.2.r))
    | none => x.w) = w1
  generalize hw2 : (if 4 ≤ h.x.toNat then w1.writeCc x.clk lat (h.x.toNat - 4)
    ((lanes.map fun l => (l, f l)).map fun (p : Nat × LaneRes) => (p.1, p.2.fl)) else w1) = w2
  have hput : x.putLanes h lat d (lanes.map fun l => (l, f l)) = w2.raise (x.clk + lat) (lanes.foldl (fun m l => m ||| (f l).st) 0) := by
    rw [← hst, ← hw2, ← hw1]; rfl
  rw [hput]
  have r1 : w1 = { x.w with win := w1.win, early := w1.early } := by
    rw [← hw1]; cases d <;> rfl
  have r2 : w2 = { w1 with cc := w2.cc, early := w2.early } := by
    rw [← hw2]; split
    · unfold Wave.writeCc; rw [ccSet_foldl_rest]; rfl
    · rfl
  have hwin : w2.win = w1.win := by rw [r2]
  have hctr : w2.ctr = x.w.ctr := by rw [r2, r1]
  have hcc1 : ∀ n l, w1.ccGet n l = x.w.ccGet n l := fun n l => by rw [r1]; rfl
  have hstk : w2.stk = x.w.stk := by rw [r2, r1]
  refine ⟨by rw [raise_ctr, hctr], ?_, ?_, ?_, ?_, ?_, ?_, ?_, ?_⟩
  · have : w2 = { x.w with win := w2.win, cc := w2.cc, early := w2.early } := by rw [r2, r1]
    rw [this]
    unfold Wave.raise
    split <;> rfl
  · intro n hd l hm
    rw [raise_win, hwin, ← hw1]
    cases d with
    | none => cases hd
    | some d =>
      cases hd
      refine wget_foldl_mem _ _ _ ?_ (l, (f l).r) ?_
      · simpa [List.map_map, Function.comp_def] using hn
      · simpa [List.map_map, Function.comp_def] using hm
  · intro k hk
    rw [raise_win, hwin, ← hw1]
    cases d with
    | none => rfl
    | some d =>
      refine wget_foldl_ne _ _ _ _ fun p hp => ?_
      simp only [List.map_map, List.mem_map, Function.comp_def] at hp
      obtain ⟨l, hm, rfl⟩ := hp
      exact hk _ rfl l hm
  · intro hx l hm
    have : (w2.raise (x.clk + lat) (lanes.foldl (fun m l => m ||| (f l).st) 0)).ccGet (h.x.toNat - 4) l =
        w2.ccGet (h.x.toNat - 4) l := by unfold Wave.ccGet; rw [raise_cc]
    rw [this, ← hw2, if_pos hx]
    refine ccGet_foldl_mem _ (cc_lt h) _ _ ?_ (l, (f l).fl) ?_
    · simpa [List.map_map, Function.comp_def] using hn
    · simpa [List.map_map, Function.comp_def] using hm
  · intro n hn4 l hk
    have : (w2.raise (x.clk + lat) (lanes.foldl (fun m l => m ||| (f l).st) 0)).ccGet n l =
        w2.ccGet n l := by unfold Wave.ccGet; rw [raise_cc]
    rw [this, ← hw2, ← hcc1]
    split
    · rename_i hx
      refine (ccGet_foldl_ne _ (cc_lt h) _ _ _ _ hn4 fun p hp he => ?_).trans rfl
      simp only [List.map_map, List.mem_map, Function.comp_def] at hp
      obtain ⟨k, hm, rfl⟩ := hp
      exact hk hx (he.2 ▸ hm) he.1
    · rfl
  · unfold Wave.raise
    split <;> simp [hstk]
  · intro n hd
    rw [raise_early]
    cases d with
    | none => cases hd
    | some d =>
      cases hd
      have e1 : ({ due := x.clk + lat, loc := .win (8 * x.frame.vslot d.toNat) (8 * x.frame.vslot d.toNat + 256),
                   old := x.w.vregWords (x.frame.vslot d.toNat), whole := false } : Early) ∈ w1.early := by
        rw [← hw1]; exact List.mem_append_right _ List.mem_cons_self
      refine ⟨⟨x.clk + lat, .win (8 * x.frame.vslot d.toNat) (8 * x.frame.vslot d.toNat + 256),
        x.w.vregWords (x.frame.vslot d.toNat), false⟩, ?_, rfl, rfl⟩
      rw [← hw2]
      split
      · unfold Wave.writeCc
        rw [ccSet_foldl_rest]
        refine List.mem_append_left _ (List.mem_filter.2 ⟨e1, ?_⟩)
        simp; omega
      · exact e1
  · intro e he
    rw [raise_early] at he
    have h1 : e ∈ w2.early → e ∈ w1.early ∨ e.due = x.clk + lat := by
      intro he
      rw [← hw2] at he
      split at he
      · unfold Wave.writeCc at he
        rw [ccSet_foldl_rest] at he
        rcases List.mem_append.1 he with he | he
        · exact .inl (List.mem_filter.1 he).1
        · rw [List.mem_singleton.1 he]; exact .inr rfl
      · exact .inl he
    rcases h1 he with he | he
    · rw [← hw1] at he
      cases d with
      | none => exact .inl he
      | some d =>
        rcases List.mem_append.1 he with he | he
        · exact .inl (List.mem_filter.1 he).1
        · rw [List.mem_singleton.1 he]; exact .inr rfl
    · exact .inr he

/-! The shared forms -/

/-- A float, conversion or lane word on the active lanes. -/
theorem laneOp_next {x : Iss} {i : Instr} {h : Hd} (hx : x.live) (hr : x.ready (usesOf i) h) {lat : Nat} (hl : 0 < lat)
    (d : Option VCode) (g : Iss → Nat → LaneRes) :
    ∃ v, laneOp i h lat d g x.s = .next (x.afterV i h v) ∧ v.ctr = x.w.ctr ∧
      VecResult x h lat (x.active h) (d.map BitVec.toNat) (fun l r => r = (g x l).r) (fun l => (g x l).fl)
        ((x.active h).foldl (fun m l => m ||| (g x l).st) 0) v :=
  ⟨_, by rw [laneOp, execWord_ready hx hr]; rfl, putLanes_result x h lat hl _ (active_nodup x h) d (g x)⟩

/-- An integer or logic word on the active lanes. -/
theorem vecOp_next {x : Iss} {i : Instr} {h : Hd} (hx : x.live) (hr : x.ready (usesOf i) h) {lat : Nat} (hl : 0 < lat)
    (d : Option VCode) (f : Iss → Nat → Word × BitVec 4) :
    ∃ v, vecOp i h lat d f x.s = .next (x.afterV i h v) ∧ v.ctr = x.w.ctr ∧
      VecResult x h lat (x.active h) (d.map BitVec.toNat) (fun l r => r = (f x l).1) (fun l => (f x l).2) 0 v := by
  have hz : ∀ l : List Nat, l.foldl (fun (m : Word) _ => m ||| 0) 0 = 0 := by
    intro l
    induction l with
    | nil => rfl
    | cons a r ih => simpa using ih
  have key := putLanes_result x h lat hl _ (active_nodup x h) d fun l => { r := (f x l).1, fl := (f x l).2, st := 0 }
  simp only [hz] at key
  refine ⟨_, ?_, key⟩
  rw [vecOp, execWord_ready hx hr]
  simp only [effState, Iss.afterV, Iss.after, Iss.putLanes, List.map_map, Function.comp_def, List.foldl_map, hz]
  rfl

/-- What writing a scalar register and flags does. -/
theorem scalar_result (x : Iss) (h : Hd) (lat : Nat) (hl : 0 < lat) (d : Option SReg) (r : Word) (f : BitVec 4)
    (w1 v : Wave) (h1 : w1 = match d with
      | some d => x.w.writeS x.clk lat d.toNat r
      | none => x.w) (h2 : v = if h.x == 4 then w1.writeSf x.clk lat f else w1) :
    ScalResult x h lat d (· = r) f v := by
  have e1 : w1 = { x.w with sregs := w1.sregs, early := w1.early } := by
    rw [h1]
    cases d with
    | none => rfl
    | some d => simp only [Wave.writeS]; split
                · rfl
                · unfold Wave.sset; split <;> rfl
  have e2 : v = { w1 with sf := v.sf, early := v.early } := by
    rw [h2]; split <;> rfl
  have hs : v.sregs = w1.sregs := by rw [e2]
  have hsg : ∀ n, v.sget n = w1.sget n := fun n => by unfold Wave.sget; rw [hs]
  refine ⟨by rw [e2, e1], ?_, ?_, rfl, ?_, ?_, ?_, ?_⟩
  · intro n hd hn0
    rw [hsg, h1]
    subst hd
    have : n.toNat ≠ 0 := fun e => hn0 (BitVec.eq_of_toNat_eq (by simpa using e))
    simp only [Wave.writeS, this, if_false]
    exact sget_sset_same _ _ _ this
  · intro k hk
    rw [hsg, h1]
    cases d with
    | none => rfl
    | some d =>
      simp only [Wave.writeS]
      split
      · rfl
      · rw [sget_sset_ne _ _ _ _ (Ne.symm (hk d rfl))]; rfl
  · intro hx
    have : w1.sf = x.w.sf := by rw [e1]
    simp only [h2, hx, beq_self_eq_true, if_true]
    show (w1.sf &&& ~~~0xF#64) ||| f.setWidth 64 = _
    rw [this]
  · intro hx
    have : w1.sf = x.w.sf := by rw [e1]
    rw [h2, if_neg (by simpa using hx), this]
  · intro n hd hn0
    subst hd
    have hn : n.toNat ≠ 0 := fun e => hn0 (BitVec.eq_of_toNat_eq (by simpa using e))
    have he : ({ due := x.clk + lat, loc := .sreg n.toNat, old := wset [] n.toNat (wget x.w.sregs n.toNat), whole := false } : Early)
        ∈ w1.early := by
      rw [h1]; simp only [Wave.writeS, hn, if_false, sset_early]
      exact List.mem_append_right _ List.mem_cons_self
    refine ⟨⟨x.clk + lat, .sreg n.toNat, wset [] n.toNat (wget x.w.sregs n.toNat), false⟩, ?_, rfl, rfl⟩
    rw [h2]
    split
    · refine List.mem_append_left _ (List.mem_filter.2 ⟨he, ?_⟩)
      simp; omega
    · exact he
  · intro e he
    have hw : e ∈ w1.early → e ∈ x.w.early ∨ e.due = x.clk + lat := by
      intro he
      rw [h1] at he
      cases d with
      | none => exact .inl he
      | some d =>
        simp only [Wave.writeS] at he
        split at he
        · exact .inl he
        · rw [sset_early] at he
          rcases List.mem_append.1 he with he | he
          · exact .inl (List.mem_filter.1 he).1
          · rw [List.mem_singleton.1 he]; exact .inr rfl
    rw [h2] at he
    split at he
    · rcases List.mem_append.1 he with he | he
      · exact hw (List.mem_filter.1 he).1
      · rw [List.mem_singleton.1 he]; exact .inr rfl
    · exact hw he

/-- An integer or logic word of the scalar pipe. -/
theorem scalOp_next {x : Iss} {i : Instr} {h : Hd} (hx : x.live) (hr : x.ready (usesOf i) h) {lat : Nat} (hl : 0 < lat)
    (d : Option SReg) (f : Iss → Word × BitVec 4) :
    ∃ v, scalOp i h lat d f x.s = .next (x.afterS i h v) ∧ ScalResult x h lat d (· = (f x).1) (f x).2 v :=
  ⟨_, by rw [scalOp, execWord_ready hx hr]; rfl, scalar_result x h lat hl d _ _ _ _ rfl rfl⟩

/-- A vector word of class 1, from its results lane by lane. -/
theorem vec_intro {x : Iss} {i : Instr} {h : Hd} {lat : Nat} {d : Option VCode} {f : Iss → Nat → Word × BitVec 4}
    {res : Nat → Word → Prop} {fl : Nat → BitVec 4} (hx : x.live) (he : exec i x.s = vecOp i h lat d f x.s) (hl : 0 < lat)
    (hr : ∀ l, res l (f x l).1) (hf : ∀ l, fl l = (f x l).2) : x.vec i h lat d res fl := by
  intro hready
  obtain ⟨v, h1, h2, h3⟩ := vecOp_next hx hready hl d f
  refine ⟨v, he.trans h1, h2, h3.rest, fun n hd l hm => ?_, h3.kept, fun hx l hm => (h3.flags hx l hm).trans (hf l).symm,
    h3.flagsKept, h3.sticky, h3.due, h3.older⟩
  rw [h3.value n hd l hm]
  exact hr l

/-- A scalar word of class 1, from its result. -/
theorem scal_intro {x : Iss} {i : Instr} {h : Hd} {lat : Nat} {d : Option SReg} {f : Iss → Word × BitVec 4}
    {res : Word → Prop} {fl : BitVec 4} (hx : x.live) (he : exec i x.s = scalOp i h lat d f x.s) (hl : 0 < lat)
    (hr : res (f x).1) (hf : fl = (f x).2) : x.scal i h lat d res fl := by
  intro hready
  obtain ⟨v, h1, h3⟩ := scalOp_next hx hready hl d f
  refine ⟨v, he.trans h1, h3.rest, fun n hd hn => ?_, h3.kept, h3.zero, fun hx => ?_, h3.flagsKept, h3.due, h3.older⟩
  · rw [h3.value n hd hn]; exact hr
  · rw [h3.flags hx, hf]

end Sys2Proof.Laws
end

