-- ==== Sys2Proof/Certificates/Slice0/Obligations.lean ====
section
/-! DEFINITION. The statements for the provers. -/

open Sys2Proof Sys2Proof.Machine

/-! Integer and logic words (R105 to R117) -/

/-- R107, R113, R115: ADD, ADDC, SUB, SUBB, CMP and LEA in every form: each sub-element is the wrapped sum or
difference, the flags are those of sub-element 0, and nothing else of the machine changes. -/
def Obligations.SumsAndDifferences : Prop :=
  ∀ (x : Iss) (h : Hd) (t : IType), x.live →
    (∀ d a b, x.vec (.add h d a b t) h 4 (some d) (fun l r => each2 t.bits (· + ·) (x.v a l) (x.v b l) r)
      (fun l => addFlags (el t.bits 0 (x.v a l)) (el t.bits 0 (x.v b l)) false)) ∧
    (∀ d a b, x.scal (.addScalar h d a b t) h 4 (some d) (fun r => each2 t.bits (· + ·) (x.sreg a.toNat) (x.sreg b.toNat) r)
      (addFlags (el t.bits 0 (x.sreg a.toNat)) (el t.bits 0 (x.sreg b.toNat)) false)) ∧
    (∀ d a (imm : BitVec 15), x.vec (.addImm h d a t imm) h 4 (some d)
      (fun l r => each1 t.bits (· + (imm.signExtend 64).setWidth t.bits) (x.v a l) r)
      (fun l => addFlags (el t.bits 0 (x.v a l)) ((imm.signExtend 64).setWidth t.bits) false)) ∧
    (∀ d a (imm : BitVec 15), x.scal (.addImmScalar h d a t imm) h 4 (some d)
      (fun r => each1 t.bits (· + (imm.signExtend 64).setWidth t.bits) (x.sreg a.toNat) r)
      (addFlags (el t.bits 0 (x.sreg a.toNat)) ((imm.signExtend 64).setWidth t.bits) false)) ∧
    (∀ d a b (n : BitVec 2), x.vec (.addc h d a b n t) h 4 (some d)
      (fun l r => each2 t.bits (fun p q => p + q + bit t.bits ((x.w.readCc x.clk n.toNat l).getLsbD 1)) (x.v a l) (x.v b l) r)
      (fun l => addFlags (el t.bits 0 (x.v a l)) (el t.bits 0 (x.v b l)) ((x.w.readCc x.clk n.toNat l).getLsbD 1))) ∧
    (∀ d a b, x.scal (.addcScalar h d a b t) h 4 (some d)
      (fun r => each2 t.bits (fun p q => p + q + bit t.bits ((x.w.readSf x.clk).getLsbD 1)) (x.sreg a.toNat) (x.sreg b.toNat) r)
      (addFlags (el t.bits 0 (x.sreg a.toNat)) (el t.bits 0 (x.sreg b.toNat)) ((x.w.readSf x.clk).getLsbD 1))) ∧
    (∀ d a b, x.vec (.sub h d a b t) h 4 (some d) (fun l r => each2 t.bits (· - ·) (x.v a l) (x.v b l) r)
      (fun l => subFlags (el t.bits 0 (x.v a l)) (el t.bits 0 (x.v b l)) false)) ∧
    (∀ d a b, x.scal (.subScalar h d a b t) h 4 (some d) (fun r => each2 t.bits (· - ·) (x.sreg a.toNat) (x.sreg b.toNat) r)
      (subFlags (el t.bits 0 (x.sreg a.toNat)) (el t.bits 0 (x.sreg b.toNat)) false)) ∧
    (∀ d a b (n : BitVec 2), x.vec (.subb h d a b n t) h 4 (some d)
      (fun l r => each2 t.bits (fun p q => p - q - bit t.bits (!(x.w.readCc x.clk n.toNat l).getLsbD 1)) (x.v a l) (x.v b l) r)
      (fun l => subFlags (el t.bits 0 (x.v a l)) (el t.bits 0 (x.v b l)) (!(x.w.readCc x.clk n.toNat l).getLsbD 1))) ∧
    (∀ d a b, x.scal (.subbScalar h d a b t) h 4 (some d)
      (fun r => each2 t.bits (fun p q => p - q - bit t.bits (!(x.w.readSf x.clk).getLsbD 1)) (x.sreg a.toNat) (x.sreg b.toNat) r)
      (subFlags (el t.bits 0 (x.sreg a.toNat)) (el t.bits 0 (x.sreg b.toNat)) (!(x.w.readSf x.clk).getLsbD 1))) ∧
    (∀ a b, x.vec (.cmp h a b t) h 4 none (fun _ _ => True)
      (fun l => subFlags (el t.bits 0 (x.v a l)) (el t.bits 0 (x.v b l)) false)) ∧
    (∀ a b, x.scal (.cmpScalar h a b t) h 4 none (fun _ => True)
      (subFlags (el t.bits 0 (x.sreg a.toNat)) (el t.bits 0 (x.sreg b.toNat)) false)) ∧
    (∀ a (imm : BitVec 15), x.vec (.cmpImm h a t imm) h 4 none (fun _ _ => True)
      (fun l => subFlags (el t.bits 0 (x.v a l)) ((imm.signExtend 64).setWidth t.bits) false)) ∧
    (∀ a (imm : BitVec 15), x.scal (.cmpImmScalar h a t imm) h 4 none (fun _ => True)
      (subFlags (el t.bits 0 (x.sreg a.toNat)) ((imm.signExtend 64).setWidth t.bits) false)) ∧
    (∀ d a b (sh : BitVec 6), x.vec (.lea h d a b sh) h 4 (some d) (fun l r => r = x.v a l + x.v b l <<< sh.toNat)
      (fun l => addFlags (x.v a l) (x.v b l <<< sh.toNat) false)) ∧
    (∀ d a b (sh : BitVec 6), x.scal (.leaScalar h d a b sh) h 4 (some d)
      (fun r => r = x.sreg a.toNat + x.sreg b.toNat <<< sh.toNat)
      (addFlags (x.sreg a.toNat) (x.sreg b.toNat <<< sh.toNat) false))

/-- R107: MUL, MULH and MAD in every form: the low half, the high half, and the low half of the exact product plus the
addend; C tells of an unsigned result past 2^w, V of a signed one outside the type. -/
def Obligations.Products : Prop :=
  ∀ (x : Iss) (h : Hd) (t : IType), x.live →
    (∀ d a b, x.vec (.mul h d a b t) h 6 (some d) (fun l r => each2 t.bits (· * ·) (x.v a l) (x.v b l) r)
      (fun l => madFlags (isSigned t) (el t.bits 0 (x.v a l)) (el t.bits 0 (x.v b l)) 0)) ∧
    (∀ d a b, x.scal (.mulScalar h d a b t) h 6 (some d) (fun r => each2 t.bits (· * ·) (x.sreg a.toNat) (x.sreg b.toNat) r)
      (madFlags (isSigned t) (el t.bits 0 (x.sreg a.toNat)) (el t.bits 0 (x.sreg b.toNat)) 0)) ∧
    (∀ d a b, x.vec (.mulh h d a b t) h 6 (some d) (fun l r => each2 t.bits (high (isSigned t)) (x.v a l) (x.v b l) r)
      (fun l => szcv (high (isSigned t) (el t.bits 0 (x.v a l)) (el t.bits 0 (x.v b l))) false false)) ∧
    (∀ d a b, x.scal (.mulhScalar h d a b t) h 6 (some d)
      (fun r => each2 t.bits (high (isSigned t)) (x.sreg a.toNat) (x.sreg b.toNat) r)
      (szcv (high (isSigned t) (el t.bits 0 (x.sreg a.toNat)) (el t.bits 0 (x.sreg b.toNat))) false false)) ∧
    (∀ d a b c, x.vec (.madI32 h d a b c) h 6 (some d)
      (fun l r => each3 32 (fun p q s => p * q + s) (x.v a l) (x.v b l) (x.v c l) r)
      (fun l => madFlags true (el 32 0 (x.v a l)) (el 32 0 (x.v b l)) (el 32 0 (x.v c l)))) ∧
    (∀ d a b c, x.scal (.madI32Scalar h d a b c) h 6 (some d)
      (fun r => each3 32 (fun p q s => p * q + s) (x.sreg a.toNat) (x.sreg b.toNat) (x.sreg c.toNat) r)
      (madFlags true (el 32 0 (x.sreg a.toNat)) (el 32 0 (x.sreg b.toNat)) (el 32 0 (x.sreg c.toNat)))) ∧
    (∀ d a b c, x.vec (.madN32 h d a b c) h 6 (some d)
      (fun l r => each3 32 (fun p q s => p * q + s) (x.v a l) (x.v b l) (x.v c l) r)
      (fun l => madFlags false (el 32 0 (x.v a l)) (el 32 0 (x.v b l)) (el 32 0 (x.v c l)))) ∧
    (∀ d a b c, x.scal (.madN32Scalar h d a b c) h 6 (some d)
      (fun r => each3 32 (fun p q s => p * q + s) (x.sreg a.toNat) (x.sreg b.toNat) (x.sreg c.toNat) r)
      (madFlags false (el 32 0 (x.sreg a.toNat)) (el 32 0 (x.sreg b.toNat)) (el 32 0 (x.sreg c.toNat)))) ∧
    (∀ d a b c, x.vec (.madI64 h d a b c) h 6 (some d) (fun l r => r = x.v a l * x.v b l + x.v c l)
      (fun l => madFlags true (x.v a l) (x.v b l) (x.v c l))) ∧
    (∀ d a b c, x.scal (.madI64Scalar h d a b c) h 6 (some d)
      (fun r => r = x.sreg a.toNat * x.sreg b.toNat + x.sreg c.toNat)
      (madFlags true (x.sreg a.toNat) (x.sreg b.toNat) (x.sreg c.toNat))) ∧
    (∀ d a b c, x.vec (.madN64 h d a b c) h 6 (some d) (fun l r => r = x.v a l * x.v b l + x.v c l)
      (fun l => madFlags false (x.v a l) (x.v b l) (x.v c l))) ∧
    (∀ d a b c, x.scal (.madN64Scalar h d a b c) h 6 (some d)
      (fun r => r = x.sreg a.toNat * x.sreg b.toNat + x.sreg c.toNat)
      (madFlags false (x.sreg a.toNat) (x.sreg b.toNat) (x.sreg c.toNat)))

/-- R33 with Table 2.1: DIV and REM never trap. The quotient truncates toward zero, the remainder takes the sign of the
dividend; a divisor of 0 gives all ones and the dividend, the most negative number by −1 gives itself and 0; V marks
exactly these cases. -/
def Obligations.DivisionNeverTraps : Prop :=
  ∀ (x : Iss) (h : Hd) (t : IType), x.live →
    (∀ d a b, x.vec (.div h d a b t) h 24 (some d) (fun l r => each2 t.bits (quotient (isSigned t)) (x.v a l) (x.v b l) r)
      (fun l => quotientFlags (isSigned t) (el t.bits 0 (x.v a l)) (el t.bits 0 (x.v b l)))) ∧
    (∀ d a b, x.scal (.divScalar h d a b t) h 24 (some d)
      (fun r => each2 t.bits (quotient (isSigned t)) (x.sreg a.toNat) (x.sreg b.toNat) r)
      (quotientFlags (isSigned t) (el t.bits 0 (x.sreg a.toNat)) (el t.bits 0 (x.sreg b.toNat)))) ∧
    (∀ d a b, x.vec (.rem h d a b t) h 24 (some d) (fun l r => each2 t.bits (remainder (isSigned t)) (x.v a l) (x.v b l) r)
      (fun l => remainderFlags (isSigned t) (el t.bits 0 (x.v a l)) (el t.bits 0 (x.v b l)))) ∧
    (∀ d a b, x.scal (.remScalar h d a b t) h 24 (some d)
      (fun r => each2 t.bits (remainder (isSigned t)) (x.sreg a.toNat) (x.sreg b.toNat) r)
      (remainderFlags (isSigned t) (el t.bits 0 (x.sreg a.toNat)) (el t.bits 0 (x.sreg b.toNat))))

/-- R107: MIN, MAX, ABS and NEG in every form, by the signedness of the type. -/
def Obligations.ExtremesAndSigns : Prop :=
  ∀ (x : Iss) (h : Hd) (t : IType), x.live →
    (∀ d a b, x.vec (.min h d a b t) h 4 (some d) (fun l r => each2 t.bits (lesser (isSigned t)) (x.v a l) (x.v b l) r)
      (fun l => szcv (lesser (isSigned t) (el t.bits 0 (x.v a l)) (el t.bits 0 (x.v b l))) false false)) ∧
    (∀ d a b, x.scal (.minScalar h d a b t) h 4 (some d)
      (fun r => each2 t.bits (lesser (isSigned t)) (x.sreg a.toNat) (x.sreg b.toNat) r)
      (szcv (lesser (isSigned t) (el t.bits 0 (x.sreg a.toNat)) (el t.bits 0 (x.sreg b.toNat))) false false)) ∧
    (∀ d a b, x.vec (.max h d a b t) h 4 (some d) (fun l r => each2 t.bits (greater (isSigned t)) (x.v a l) (x.v b l) r)
      (fun l => szcv (greater (isSigned t) (el t.bits 0 (x.v a l)) (el t.bits 0 (x.v b l))) false false)) ∧
    (∀ d a b, x.scal (.maxScalar h d a b t) h 4 (some d)
      (fun r => each2 t.bits (greater (isSigned t)) (x.sreg a.toNat) (x.sreg b.toNat) r)
      (szcv (greater (isSigned t) (el t.bits 0 (x.sreg a.toNat)) (el t.bits 0 (x.sreg b.toNat))) false false)) ∧
    (∀ d a, x.vec (.abs h d a t) h 4 (some d) (fun l r => each1 t.bits (magnitude (isSigned t)) (x.v a l) r)
      (fun l => absFlags (isSigned t) (el t.bits 0 (x.v a l)))) ∧
    (∀ d a, x.scal (.absScalar h d a t) h 4 (some d) (fun r => each1 t.bits (magnitude (isSigned t)) (x.sreg a.toNat) r)
      (absFlags (isSigned t) (el t.bits 0 (x.sreg a.toNat)))) ∧
    (∀ d a, x.vec (.neg h d a t) h 4 (some d) (fun l r => each1 t.bits (- ·) (x.v a l) r)
      (fun l => negFlags (el t.bits 0 (x.v a l)))) ∧
    (∀ d a, x.scal (.negScalar h d a t) h 4 (some d) (fun r => each1 t.bits (- ·) (x.sreg a.toNat) r)
      (negFlags (el t.bits 0 (x.sreg a.toNat))))

/-- R107, R109, R112, R117: AND, OR, XOR, ANDN, NOT, TLOG and TST in every form. -/
def Obligations.Logic : Prop :=
  ∀ (x : Iss) (h : Hd) (t : IType), x.live →
    (∀ d a b, x.vec (.and h d a b t) h 4 (some d) (fun l r => r = x.v a l &&& x.v b l)
      (fun l => szcv (el t.bits 0 (x.v a l &&& x.v b l)) false false)) ∧
    (∀ d a b, x.scal (.andScalar h d a b t) h 4 (some d) (fun r => r = x.sreg a.toNat &&& x.sreg b.toNat)
      (szcv (el t.bits 0 (x.sreg a.toNat &&& x.sreg b.toNat)) false false)) ∧
    (∀ d a (imm : BitVec 15), x.vec (.andImm h d a t imm) h 4 (some d)
      (fun l r => each1 t.bits (· &&& (imm.signExtend 64).setWidth t.bits) (x.v a l) r)
      (fun l => szcv (el t.bits 0 (x.v a l) &&& (imm.signExtend 64).setWidth t.bits) false false)) ∧
    (∀ d a (imm : BitVec 15), x.scal (.andImmScalar h d a t imm) h 4 (some d)
      (fun r => each1 t.bits (· &&& (imm.signExtend 64).setWidth t.bits) (x.sreg a.toNat) r)
      (szcv (el t.bits 0 (x.sreg a.toNat) &&& (imm.signExtend 64).setWidth t.bits) false false)) ∧
    (∀ d a b, x.vec (.or h d a b t) h 4 (some d) (fun l r => r = x.v a l ||| x.v b l)
      (fun l => szcv (el t.bits 0 (x.v a l ||| x.v b l)) false false)) ∧
    (∀ d a b, x.scal (.orScalar h d a b t) h 4 (some d) (fun r => r = x.sreg a.toNat ||| x.sreg b.toNat)
      (szcv (el t.bits 0 (x.sreg a.toNat ||| x.sreg b.toNat)) false false)) ∧
    (∀ d a (imm : BitVec 15), x.vec (.orImm h d a t imm) h 4 (some d)
      (fun l r => each1 t.bits (· ||| (imm.signExtend 64).setWidth t.bits) (x.v a l) r)
      (fun l => szcv (el t.bits 0 (x.v a l) ||| (imm.signExtend 64).setWidth t.bits) false false)) ∧
    (∀ d a (imm : BitVec 15), x.scal (.orImmScalar h d a t imm) h 4 (some d)
      (fun r => each1 t.bits (· ||| (imm.signExtend 64).setWidth t.bits) (x.sreg a.toNat) r)
      (szcv (el t.bits 0 (x.sreg a.toNat) ||| (imm.signExtend 64).setWidth t.bits) false false)) ∧
    (∀ d a b, x.vec (.xor h d a b t) h 4 (some d) (fun l r => r = x.v a l ^^^ x.v b l)
      (fun l => szcv (el t.bits 0 (x.v a l ^^^ x.v b l)) false false)) ∧
    (∀ d a b, x.scal (.xorScalar h d a b t) h 4 (some d) (fun r => r = x.sreg a.toNat ^^^ x.sreg b.toNat)
      (szcv (el t.bits 0 (x.sreg a.toNat ^^^ x.sreg b.toNat)) false false)) ∧
    (∀ d a (imm : BitVec 15), x.vec (.xorImm h d a t imm) h 4 (some d)
      (fun l r => each1 t.bits (· ^^^ (imm.signExtend 64).setWidth t.bits) (x.v a l) r)
      (fun l => szcv (el t.bits 0 (x.v a l) ^^^ (imm.signExtend 64).setWidth t.bits) false false)) ∧
    (∀ d a (imm : BitVec 15), x.scal (.xorImmScalar h d a t imm) h 4 (some d)
      (fun r => each1 t.bits (· ^^^ (imm.signExtend 64).setWidth t.bits) (x.sreg a.toNat) r)
      (szcv (el t.bits 0 (x.sreg a.toNat) ^^^ (imm.signExtend 64).setWidth t.bits) false false)) ∧
    (∀ d a b, x.vec (.andn h d a b t) h 4 (some d) (fun l r => r = x.v a l &&& ~~~x.v b l)
      (fun l => szcv (el t.bits 0 (x.v a l &&& ~~~x.v b l)) false false)) ∧
    (∀ d a b, x.scal (.andnScalar h d a b t) h 4 (some d) (fun r => r = x.sreg a.toNat &&& ~~~x.sreg b.toNat)
      (szcv (el t.bits 0 (x.sreg a.toNat &&& ~~~x.sreg b.toNat)) false false)) ∧
    (∀ d a, x.vec (.not h d a t) h 4 (some d) (fun l r => r = ~~~x.v a l)
      (fun l => szcv (el t.bits 0 (~~~x.v a l)) false false)) ∧
    (∀ d a, x.scal (.notScalar h d a t) h 4 (some d) (fun r => r = ~~~x.sreg a.toNat)
      (szcv (el t.bits 0 (~~~x.sreg a.toNat)) false false)) ∧
    (∀ d a b (tt : BitVec 8), x.vec (.tlog h d a b tt) h 4 (some d)
      (fun l r => r = ternary tt (x.v d l) (x.v a l) (x.v b l))
      (fun l => szcv (ternary tt (x.v d l) (x.v a l) (x.v b l)) false false)) ∧
    (∀ d a b (tt : BitVec 8), x.scal (.tlogScalar h d a b tt) h 4 (some d)
      (fun r => r = ternary tt (x.sreg d.toNat) (x.sreg a.toNat) (x.sreg b.toNat))
      (szcv (ternary tt (x.sreg d.toNat) (x.sreg a.toNat) (x.sreg b.toNat)) false false)) ∧
    (∀ a b, x.vec (.tst h a b t) h 4 none (fun _ _ => True)
      (fun l => szcv (el t.bits 0 (x.v a l &&& x.v b l)) false false)) ∧
    (∀ a b, x.scal (.tstScalar h a b t) h 4 none (fun _ => True)
      (szcv (el t.bits 0 (x.sreg a.toNat &&& x.sreg b.toNat)) false false))

/-- R108, R114: SHL, SHR, SAR, ROT, FSHL and FSHR in every form, for every count: the result, the last bit shifted out
in C, and no V. -/
def Obligations.Shifts : Prop :=
  ∀ (x : Iss) (h : Hd) (t : IType), x.live →
    (∀ d a b, x.vec (.shl h d a b t) h 4 (some d) (fun l r => each2 t.bits (fun p q => p <<< q.toNat) (x.v a l) (x.v b l) r)
      (fun l => shlFlags (el t.bits 0 (x.v a l)) (el t.bits 0 (x.v b l)).toNat)) ∧
    (∀ d a b, x.scal (.shlScalar h d a b t) h 4 (some d)
      (fun r => each2 t.bits (fun p q => p <<< q.toNat) (x.sreg a.toNat) (x.sreg b.toNat) r)
      (shlFlags (el t.bits 0 (x.sreg a.toNat)) (el t.bits 0 (x.sreg b.toNat)).toNat)) ∧
    (∀ d a (n : BitVec 15), x.vec (.shlImm h d a t n) h 4 (some d) (fun l r => each1 t.bits (· <<< n.toNat) (x.v a l) r)
      (fun l => shlFlags (el t.bits 0 (x.v a l)) n.toNat)) ∧
    (∀ d a (n : BitVec 15), x.scal (.shlImmScalar h d a t n) h 4 (some d)
      (fun r => each1 t.bits (· <<< n.toNat) (x.sreg a.toNat) r) (shlFlags (el t.bits 0 (x.sreg a.toNat)) n.toNat)) ∧
    (∀ d a b, x.vec (.shr h d a b t) h 4 (some d) (fun l r => each2 t.bits (fun p q => p >>> q.toNat) (x.v a l) (x.v b l) r)
      (fun l => shrFlags (el t.bits 0 (x.v a l)) (el t.bits 0 (x.v b l)).toNat)) ∧
    (∀ d a b, x.scal (.shrScalar h d a b t) h 4 (some d)
      (fun r => each2 t.bits (fun p q => p >>> q.toNat) (x.sreg a.toNat) (x.sreg b.toNat) r)
      (shrFlags (el t.bits 0 (x.sreg a.toNat)) (el t.bits 0 (x.sreg b.toNat)).toNat)) ∧
    (∀ d a (n : BitVec 15), x.vec (.shrImm h d a t n) h 4 (some d) (fun l r => each1 t.bits (· >>> n.toNat) (x.v a l) r)
      (fun l => shrFlags (el t.bits 0 (x.v a l)) n.toNat)) ∧
    (∀ d a (n : BitVec 15), x.scal (.shrImmScalar h d a t n) h 4 (some d)
      (fun r => each1 t.bits (· >>> n.toNat) (x.sreg a.toNat) r) (shrFlags (el t.bits 0 (x.sreg a.toNat)) n.toNat)) ∧
    (∀ d a b, x.vec (.sar h d a b t) h 4 (some d)
      (fun l r => each2 t.bits (fun p q => p.sshiftRight q.toNat) (x.v a l) (x.v b l) r)
      (fun l => sarFlags (el t.bits 0 (x.v a l)) (el t.bits 0 (x.v b l)).toNat)) ∧
    (∀ d a b, x.scal (.sarScalar h d a b t) h 4 (some d)
      (fun r => each2 t.bits (fun p q => p.sshiftRight q.toNat) (x.sreg a.toNat) (x.sreg b.toNat) r)
      (sarFlags (el t.bits 0 (x.sreg a.toNat)) (el t.bits 0 (x.sreg b.toNat)).toNat)) ∧
    (∀ d a (n : BitVec 15), x.vec (.sarImm h d a t n) h 4 (some d)
      (fun l r => each1 t.bits (·.sshiftRight n.toNat) (x.v a l) r) (fun l => sarFlags (el t.bits 0 (x.v a l)) n.toNat)) ∧
    (∀ d a (n : BitVec 15), x.scal (.sarImmScalar h d a t n) h 4 (some d)
      (fun r => each1 t.bits (·.sshiftRight n.toNat) (x.sreg a.toNat) r) (sarFlags (el t.bits 0 (x.sreg a.toNat)) n.toNat)) ∧
    (∀ d a b, x.vec (.rot h d a b t) h 4 (some d)
      (fun l r => each2 t.bits (fun p q => p.rotateLeft q.toNat) (x.v a l) (x.v b l) r)
      (fun l => szcv ((el t.bits 0 (x.v a l)).rotateLeft (el t.bits 0 (x.v b l)).toNat) false false)) ∧
    (∀ d a b, x.scal (.rotScalar h d a b t) h 4 (some d)
      (fun r => each2 t.bits (fun p q => p.rotateLeft q.toNat) (x.sreg a.toNat) (x.sreg b.toNat) r)
      (szcv ((el t.bits 0 (x.sreg a.toNat)).rotateLeft (el t.bits 0 (x.sreg b.toNat)).toNat) false false)) ∧
    (∀ d a (n : BitVec 15), x.vec (.rotImm h d a t n) h 4 (some d)
      (fun l r => each1 t.bits (·.rotateLeft n.toNat) (x.v a l) r)
      (fun l => szcv ((el t.bits 0 (x.v a l)).rotateLeft n.toNat) false false)) ∧
    (∀ d a (n : BitVec 15), x.scal (.rotImmScalar h d a t n) h 4 (some d)
      (fun r => each1 t.bits (·.rotateLeft n.toNat) (x.sreg a.toNat) r)
      (szcv ((el t.bits 0 (x.sreg a.toNat)).rotateLeft n.toNat) false false)) ∧
    (∀ d a b c, x.vec (.fshl h d a b c) h 4 (some d)
      (fun l r => r = ((x.v a l ++ x.v b l) <<< ((x.v c l).toNat % 128)).extractLsb' 64 64)
      (fun l => szcv (((x.v a l ++ x.v b l) <<< ((x.v c l).toNat % 128)).extractLsb' 64 64) false false)) ∧
    (∀ d a b c, x.scal (.fshlScalar h d a b c) h 4 (some d)
      (fun r => r = ((x.sreg a.toNat ++ x.sreg b.toNat) <<< ((x.sreg c.toNat).toNat % 128)).extractLsb' 64 64)
      (szcv (((x.sreg a.toNat ++ x.sreg b.toNat) <<< ((x.sreg c.toNat).toNat % 128)).extractLsb' 64 64) false false)) ∧
    (∀ d a b c, x.vec (.fshr h d a b c) h 4 (some d)
      (fun l r => r = ((x.v a l ++ x.v b l) >>> ((x.v c l).toNat % 128)).extractLsb' 0 64)
      (fun l => szcv (((x.v a l ++ x.v b l) >>> ((x.v c l).toNat % 128)).extractLsb' 0 64) false false)) ∧
    (∀ d a b c, x.scal (.fshrScalar h d a b c) h 4 (some d)
      (fun r => r = ((x.sreg a.toNat ++ x.sreg b.toNat) >>> ((x.sreg c.toNat).toNat % 128)).extractLsb' 0 64)
      (szcv (((x.sreg a.toNat ++ x.sreg b.toNat) >>> ((x.sreg c.toNat).toNat % 128)).extractLsb' 0 64) false false))

/-- R107, R114 to R116: BFX, BFI, POPC, CLZ, CTZ, BREV, BPERM and SEL in every form. -/
def Obligations.BitWork : Prop :=
  ∀ (x : Iss) (h : Hd) (t : IType), x.live →
    (∀ d a b, t.bits = 64 → x.vec (.bfx h d a b t) h 4 (some d) (fun l r => r = extracted (isSigned t) (x.v a l) (x.v b l))
      (fun l => szcv (extracted (isSigned t) (x.v a l) (x.v b l)) false false)) ∧
    (∀ d a b, t.bits = 64 → x.scal (.bfxScalar h d a b t) h 4 (some d)
      (fun r => r = extracted (isSigned t) (x.sreg a.toNat) (x.sreg b.toNat))
      (szcv (extracted (isSigned t) (x.sreg a.toNat) (x.sreg b.toNat)) false false)) ∧
    (∀ d a b, x.vec (.bfi h d a b t) h 4 (some d) (fun l r => r = inserted (x.v d l) (x.v a l) (x.v b l))
      (fun l => szcv (inserted (x.v d l) (x.v a l) (x.v b l)) false false)) ∧
    (∀ d a b, x.scal (.bfiScalar h d a b t) h 4 (some d)
      (fun r => r = inserted (x.sreg d.toNat) (x.sreg a.toNat) (x.sreg b.toNat))
      (szcv (inserted (x.sreg d.toNat) (x.sreg a.toNat) (x.sreg b.toNat)) false false)) ∧
    (∀ d a, x.vec (.popc h d a t) h 4 (some d) (fun l r => each1 t.bits BitVec.cpop (x.v a l) r)
      (fun l => szcv (el t.bits 0 (x.v a l)).cpop false false)) ∧
    (∀ d a, x.scal (.popcScalar h d a t) h 4 (some d) (fun r => each1 t.bits BitVec.cpop (x.sreg a.toNat) r)
      (szcv (el t.bits 0 (x.sreg a.toNat)).cpop false false)) ∧
    (∀ d a, x.vec (.clz h d a t) h 4 (some d) (fun l r => each1 t.bits BitVec.clz (x.v a l) r)
      (fun l => szcv (el t.bits 0 (x.v a l)).clz false false)) ∧
    (∀ d a, x.scal (.clzScalar h d a t) h 4 (some d)
      (fun r => each1 t.bits BitVec.clz (x.sreg a.toNat) r)
      (szcv (el t.bits 0 (x.sreg a.toNat)).clz false false)) ∧
    (∀ d a, x.vec (.ctz h d a t) h 4 (some d) (fun l r => each1 t.bits BitVec.ctz (x.v a l) r)
      (fun l => szcv (el t.bits 0 (x.v a l)).ctz false false)) ∧
    (∀ d a, x.scal (.ctzScalar h d a t) h 4 (some d)
      (fun r => each1 t.bits BitVec.ctz (x.sreg a.toNat) r)
      (szcv (el t.bits 0 (x.sreg a.toNat)).ctz false false)) ∧
    (∀ d a, x.vec (.brev h d a t) h 4 (some d) (fun l r => each1 t.bits BitVec.reverse (x.v a l) r)
      (fun l => szcv (el t.bits 0 (x.v a l)).reverse false false)) ∧
    (∀ d a, x.scal (.brevScalar h d a t) h 4 (some d) (fun r => each1 t.bits BitVec.reverse (x.sreg a.toNat) r)
      (szcv (el t.bits 0 (x.sreg a.toNat)).reverse false false)) ∧
    (∀ d a b c, x.vec (.bperm h d a b c) h 4 (some d) (fun l r => r = permuted (x.v a l) (x.v b l) (x.v c l))
      (fun l => szcv (permuted (x.v a l) (x.v b l) (x.v c l)) false false)) ∧
    (∀ d a b c, x.scal (.bpermScalar h d a b c) h 4 (some d)
      (fun r => r = permuted (x.sreg a.toNat) (x.sreg b.toNat) (x.sreg c.toNat))
      (szcv (permuted (x.sreg a.toNat) (x.sreg b.toNat) (x.sreg c.toNat)) false false)) ∧
    (∀ d a b (n : BitVec 2) (c : Cond), x.vec (.sel h d a b n c) h 4 (some d)
      (fun l r => r = if condHolds c (x.w.readCc x.clk n.toNat l) then x.v a l else x.v b l)
      (fun l => szcv (if condHolds c (x.w.readCc x.clk n.toNat l) then x.v a l else x.v b l) false false)) ∧
    (∀ d a b (c : Cond), x.scal (.selScalar h d a b c) h 4 (some d)
      (fun r => r = if condHolds c ((x.w.readSf x.clk).setWidth 4) then x.sreg a.toNat else x.sreg b.toNat)
      (szcv (if condHolds c ((x.w.readSf x.clk).setWidth 4) then x.sreg a.toNat else x.sreg b.toNat) false false))

/-- R110, R111: MOV in its modes, MOVI and MOVH in every form; mode 2 is the way to clear sticky bits. -/
def Obligations.Moves : Prop :=
  ∀ (x : Iss) (h : Hd), x.live →
    (∀ d a, x.vec (.mov h d a) h 4 (some d) (fun l r => r = x.v a l) (fun l => szcv (x.v a l) false false)) ∧
    (∀ d a, x.scal (.movScalar h d a) h 4 (some d) (fun r => r = x.sreg a.toNat) (szcv (x.sreg a.toNat) false false)) ∧
    (∀ d, x.scal (.movFromSf h d) h 4 (some d) (fun r => r = x.w.readSf x.clk &&& 0x3F0F#64)
      (szcv (x.w.readSf x.clk &&& 0x3F0F#64) false false)) ∧
    (∀ a, x.ready (usesOf (.movToSf h a)) h → ∃ v, exec (.movToSf h a) x.s = .next (x.afterS (.movToSf h a) h v) ∧
      v = { x.w with sf := v.sf, early := v.early } ∧ v.sf = x.sreg a.toNat &&& 0x3F0F#64) ∧
    (∀ d, x.vec (.movFromCc h d) h 4 (some d)
      (fun l r => r = (x.w.readCc x.clk 3 l ++ x.w.readCc x.clk 2 l ++ x.w.readCc x.clk 1 l ++ x.w.readCc x.clk 0 l).setWidth 64)
      (fun l => szcv ((x.w.readCc x.clk 3 l ++ x.w.readCc x.clk 2 l ++ x.w.readCc x.clk 1 l ++
        x.w.readCc x.clk 0 l).setWidth 64 : Word) false false)) ∧
    (∀ a, x.ready (usesOf (.movToCc h a)) h → ∃ v, exec (.movToCc h a) x.s = .next (x.afterV (.movToCc h a) h v) ∧
      v = { x.w with cc := v.cc, early := v.early } ∧
      ∀ n < 4, ∀ l, v.ccGet n l = if l ∈ x.active h then (x.v a l).extractLsb' (4 * n) 4 else x.w.ccGet n l) ∧
    (∀ d (imm : BitVec 18), x.vec (.movi h d imm) h 4 (some d) (fun _ r => r = imm.signExtend 64)
      (fun _ => szcv (imm.signExtend 64) false false)) ∧
    (∀ d (imm : BitVec 18), x.scal (.moviScalar h d imm) h 4 (some d) (fun r => r = imm.signExtend 64)
      (szcv (imm.signExtend 64) false false)) ∧
    (∀ d (k : BitVec 2) (imm : BitVec 18), k ≠ 0 → x.vec (.movh h d k imm) h 4 (some d)
      (fun l r => r = sliced (x.v d l) k imm) (fun l => szcv (sliced (x.v d l) k imm) false false)) ∧
    (∀ d (k : BitVec 2) (imm : BitVec 18), k ≠ 0 → x.scal (.movhScalar h d k imm) h 4 (some d)
      (fun r => r = sliced (x.sreg d.toNat) k imm) (szcv (sliced (x.sreg d.toNat) k imm) false false))

/-! Paired words (R66 to R69) -/

/-- R67: every paired word completes: PAIR_NOP, PAIR_MOV, PAIR_ADD, PAIR_SUB, PAIR_MIN, PAIR_MAX, PAIR_AND, PAIR_OR, PAIR_XOR,
PAIR_ANDN, PAIR_FADD, PAIR_FMUL, PAIR_FMIN and PAIR_FMAX, the instructions for which `Instr.paired?` names two slots. Both slots read their operands at issue; each lane of the partition on which a
slot's guard holds gets that slot's result, and nothing else changes. The pipe works on the lanes where either guard holds; a
NOP slot's is AL. -/
def Obligations.PairedWords : Prop :=
  ∀ (x : Iss) (i : Instr) (p q : Slot) (sc : BitVec 3), x.live → i.paired? = some (p, sc, q) → i.wf = true →
    x.ready (usesOf i) (pairHd sc) →
    ∃ v, exec i x.s = .next (x.after i (pairHd sc) .vector
        ((lanesOf x.p.lanes).filter fun l => [p.g, q.g].any fun g => condHolds g (x.w.readCc x.clk 0 l)).length x.s v .next) ∧
      v = { x.w with win := v.win, early := v.early, stk := v.stk } ∧
      (∀ s ∈ [p, q], ∀ l ∈ lanesOf x.p.lanes, slotOn s x l = true →
        pairResult s.op (x.vreg s.d.toNat l) (x.vreg s.a.toNat l) (wget v.win (x.frame.vslot s.d.toNat + l))) ∧
      (∀ k, (∀ s ∈ [p, q], ∀ l ∈ lanesOf x.p.lanes, slotOn s x l = true → k ≠ x.frame.vslot s.d.toNat + l) →
        wget v.win k = wget x.w.win k) ∧
      v.stk = ((x.w.raise (x.clk + pairLat p.op) (slotSticky p x)).raise (x.clk + pairLat q.op) (slotSticky q x)).stk

/-! Float words (R118 to R127) -/

/-- R119 to R123: every float word but those of the activation table completes: each active lane gets the operation's
result on every sub-element, the flags of sub-element 0 where X names a register, the sticky bits, and nothing else
changes. -/
def Obligations.FloatWords : Prop :=
  ∀ (x : Iss) (h : Hd) (f : FType) (rm : Rm), x.live →
    (∀ d a b, x.lane (.fadd h d a b f rm) h (addLat f) (some d) (fun l => fBin f (fAdd f rm) (x.v a l) (x.v b l)) false) ∧
    (∀ d a b, x.lane (.fsub h d a b f rm) h (addLat f) (some d) (fun l => fBin f (fSub f rm) (x.v a l) (x.v b l)) false) ∧
    (∀ d a b, x.lane (.fmul h d a b f rm) h (addLat f) (some d) (fun l => fBin f (fMul f rm) (x.v a l) (x.v b l)) false) ∧
    (∀ d a b, x.lane (.fmin h d a b f) h 6 (some d) (fun l => fBin f (fMinMax f false) (x.v a l) (x.v b l)) false) ∧
    (∀ d a b, x.lane (.fmax h d a b f) h 6 (some d) (fun l => fBin f (fMinMax f true) (x.v a l) (x.v b l)) false) ∧
    (∀ d a, x.lane (.fabs h d a f) h 6 (some d) (fun l => fUna f (fSigned f false) (x.v a l)) false) ∧
    (∀ d a, x.lane (.fneg h d a f) h 6 (some d) (fun l => fUna f (fSigned f true) (x.v a l)) false) ∧
    (∀ a b, x.lane (.fcmp h a b f) h 6 none (fun l =>
      let r := fCmp f (el (fWidth f) 0 (x.v a l)).toNat (el (fWidth f) 0 (x.v b l)).toNat
      { r := 0, fl := r.1, st := r.2 }) false) ∧
    (∀ d a, x.lane (.fclass h d a f) h 6 (some d) (fun l => fUna f (fun p => { r := 2 ^ fClass f p, st := 0 }) (x.v a l)) false) ∧
    (∀ d a, x.lane (.frcp h d a f rm) h 14 (some d) (fun l => fUna f (fRcp f rm) (x.v a l)) false) ∧
    (∀ d a, x.lane (.fsqrt h d a f rm) h 14 (some d) (fun l => fUna f (fSqrt f rm) (x.v a l)) false) ∧
    (∀ d a, x.lane (.frsq h d a f) h 14 (some d) (fun l => fUna f (fRsq f) (x.v a l)) false) ∧
    (∀ d a, x.lane (.fexp2 h d a f) h 14 (some d) (fun l => fUna f (fExp2 f) (x.v a l)) false) ∧
    (∀ d a, x.lane (.flog2 h d a f) h 14 (some d) (fun l => fUna f (fLog2 f) (x.v a l)) false) ∧
    (∀ d a, x.lane (.fsin h d a f) h 14 (some d) (fun l => fUna f (fSinCos f false) (x.v a l)) false) ∧
    (∀ d a, x.lane (.fcos h d a f) h 14 (some d) (fun l => fUna f (fSinCos f true) (x.v a l)) false) ∧
    (∀ d a, x.lane (.ftanh h d a f) h 14 (some d) (fun l => fUna f (fTanh f) (x.v a l)) false) ∧
    (∀ d a b, x.lane (.fscale h d a b f rm) h 6 (some d)
      (fun l => fBin f (fun p n => fScale f rm p (sInt (fWidth f) n)) (x.v a l) (x.v b l)) false) ∧
    (∀ d a, x.lane (.frint h d a f rm) h 6 (some d) (fun l => fUna f (fRint f rm) (x.v a l)) false) ∧
    (∀ d a b c, x.lane (.ffma h d a b c f rm) h (addLat f) (some d) (fun l => fSubs f fun j =>
      fFma f rm (el (fWidth f) j (x.v a l)).toNat (el (fWidth f) j (x.v b l)).toNat (el (fWidth f) j (x.v c l)).toNat) false) ∧
    (∀ d a b c bf, x.lane (.fdot2 h d a b c bf rm) h 6 (some d) (fun l => fSubs .f32 fun j =>
      fDot2 (if bf then .bf16 else .f16) rm (el 16 (2 * j) (x.v a l)).toNat (el 16 (2 * j) (x.v b l)).toNat
        (el 16 (2 * j + 1) (x.v a l)).toNat (el 16 (2 * j + 1) (x.v b l)).toNat (el 32 j (x.v c l)).toNat) false)

/-- R35: an operation that produces a NaN produces the canonical quiet NaN of its type, and an operand that is a NaN
makes a sum, difference, product or fused result a NaN. FMIN and FMAX give a NaN only when both operands are. -/
def Obligations.NaNsAreCanonical : Prop :=
  ∀ (f : FType) (rm : Rm) (a b c : Nat), a < 2 ^ fWidth f → b < 2 ^ fWidth f → c < 2 ^ fWidth f →
    (∀ r ∈ [(fAdd f rm a b).r, (fSub f rm a b).r, (fMul f rm a b).r, (fFma f rm a b c).r, (fMinMax f false a b).r,
        (fMinMax f true a b).r, (fSigned f false a).r, (fSigned f true a).r, (fRcp f rm a).r, (fSqrt f rm a).r],
      fIsNan f r → r = fNan f) ∧
    (fIsNan f a ∨ fIsNan f b →
      (fAdd f rm a b).r = fNan f ∧ (fSub f rm a b).r = fNan f ∧ (fMul f rm a b).r = fNan f ∧ (fFma f rm a b c).r = fNan f) ∧
    (¬ (fIsNan f a ∧ fIsNan f b) → ¬ fIsNan f (fMinMax f false a b).r ∧ ¬ fIsNan f (fMinMax f true a b).r)

/-- R34, R37: where the exact sum, product or fused result of finite operands is a number of the type other than 0, the
operation gives exactly that number under every rounding mode and raises nothing. -/
def Obligations.ExactResultsStand : Prop :=
  ∀ (f : FType) (rm : Rm) (a b c r : Nat), fFinite f a → fFinite f b → fFinite f c → fFinite f r → fval f r ≠ 0 →
    (fval f a + fval f b = fval f r → fAdd f rm a b = { r := r, st := 0 }) ∧
    (fval f a - fval f b = fval f r → fSub f rm a b = { r := r, st := 0 }) ∧
    (fval f a * fval f b = fval f r → fMul f rm a b = { r := r, st := 0 }) ∧
    (fval f a * fval f b + fval f c = fval f r → fFma f rm a b c = { r := r, st := 0 })

/-- R38: under RNE no number of the type lies nearer to the exact value than a finite result does; RZ never raises the
magnitude, RU never gives less, RD never more. -/
def Obligations.RoundingIsNearest : Prop :=
  ∀ (f : FType) (s : Bool) (m : Nat) (e : Int), 0 < m →
    let exact : ℚ := (if s then -1 else 1) * m * (2 : ℚ) ^ e
    let r (rm : Rm) : Nat := (fRound f rm .none s m e).r
    (fFinite f (r .rne) → ∀ n, fFinite f n → |fval f (r .rne) - exact| ≤ |fval f n - exact|) ∧
    (fFinite f (r .rz) → |fval f (r .rz)| ≤ |exact|) ∧
    (fFinite f (r .ru) → exact ≤ fval f (r .ru)) ∧
    (fFinite f (r .rd) → fval f (r .rd) ≤ exact)

/-- R36, R121: FMIN and FMAX of finite numbers give one of their operands, no greater and no less than the other, with −0
below +0; FCMP orders finite numbers by value; FABS and FNEG set or invert the sign. -/
def Obligations.ComparisonsOrderValues : Prop :=
  ∀ (f : FType) (a b : Nat), fFinite f a → fFinite f b →
    ((fMinMax f false a b).r = a ∨ (fMinMax f false a b).r = b) ∧
    ((fMinMax f true a b).r = a ∨ (fMinMax f true a b).r = b) ∧
    fval f (fMinMax f false a b).r = min (fval f a) (fval f b) ∧
    fval f (fMinMax f true a b).r = max (fval f a) (fval f b) ∧
    (fNeg f a = true → fval f a = 0 → fval f b = 0 → (fMinMax f false a b).r = a ∧ (fMinMax f true a b).r = b) ∧
    (fval f a < fval f b → fCmp f a b = (0b1010#4, 0)) ∧
    (fval f a = fval f b → fCmp f a b = (0b0110#4, 0)) ∧
    (fval f b < fval f a → fCmp f a b = (0b0000#4, 0)) ∧
    fval f (fSigned f true a).r = -fval f a ∧ fval f (fSigned f false a).r = |fval f a| ∧
    (fSigned f true a).r = a ^^^ 2 ^ (fWidth f - 1) ∧ (fSigned f false a).r = a % 2 ^ (fWidth f - 1)

/-- R124 to R127: ACT evaluates on the bank that is active at its issue, in the clk of an ACTSWAP the one before it; ACTLD waits
while an ACT or an MDRAIN uses the other bank and in the clk of an ACTSWAP, and then loads it, complete 16 clk after issue; ACTSWAP
waits for every load and then inverts the selector. That an MDRAIN has evaluations left from its issue to its end is log entry 43. -/
def Obligations.ActivationTable : Prop :=
  ∀ (x : Iss) (h : Hd), x.live →
    (∀ d a (f : FType) (rm : Rm), x.ready (usesOf (.act h d a f rm)) h →
      let sel := match x.core.swapAt with
        | some (at_, old) => if at_ = x.clk then old else x.core.act.sel
        | none => x.core.act.sel
      let k := x.core.act.bank sel
      let c : Core := { x.core with
        actUse0 := if sel then x.core.actUse0 else x.clk + 10,
        actUse1 := if sel then x.clk + 10 else x.core.actUse1 }
      ∃ v, exec (.act h d a f rm) x.s =
          .next (x.after (.act h d a f rm) h .vector (x.active h).length (x.s.setCore x.coreIx c) v .next) ∧
        v.ctr = x.w.ctr ∧ VecResult x h 10 (x.active h) (some d.toNat) (fun l r => r = (fUna f (k.eval f rm) (x.v a l)).r)
          (fun l => (fUna f (k.eval f rm) (x.v a l)).fl)
          ((x.active h).foldl (fun m l => m ||| (fUna f (k.eval f rm) (x.v a l)).st) 0) v) ∧
    (∀ a b, x.ready (usesOf (.actld h a b)) h → (∀ old, x.core.swapAt ≠ some (x.clk, old)) →
      (if x.core.act.sel then x.core.actUse0 else x.core.actUse1) ≤ x.clk → x.core.drainsBank (!x.core.act.sel) = false →
      ∃ load : ActLoad, load.bank = !x.core.act.sel ∧ load.due = x.clk + 16 ∧
        load.data.lo = (x.sreg b.toNat).extractLsb' 0 32 ∧ load.data.rstep = (x.sreg b.toNat).extractLsb' 32 32 ∧
        (∀ n < 256, wget load.data.segs n = x.vreg (a.toNat + n / 32) (n % 32)) ∧
        exec (.actld h a b) x.s = .next (x.after (.actld h a b) h (.vfix 8) (x.active h).length
          (x.s.setCore x.coreIx { x.core with actLoads := x.core.actLoads ++ [load] }) x.w .next)) ∧
    (∀ a b, x.ready (usesOf (.actld h a b)) h →
      (∃ old, x.core.swapAt = some (x.clk, old)) ∨ x.clk < (if x.core.act.sel then x.core.actUse0 else x.core.actUse1) ∨
        x.core.drainsBank (!x.core.act.sel) = true → exec (.actld h a b) x.s = .next x.s) ∧
    (x.ready (usesOf (.actswap h)) h → x.core.actLoads = [] → ∃ old,
      exec (.actswap h) x.s = .next (x.after (.actswap h) h (.vfix 0) (x.active h).length
        (x.s.setCore x.coreIx
          { x.core with act := { x.core.act with sel := !x.core.act.sel }, swapAt := some (x.clk, old) }) x.w .next) ∧
      ((∀ o, x.core.swapAt ≠ some (x.clk, o)) → old = x.core.act.sel)) ∧
    (x.ready (usesOf (.actswap h)) h → x.core.actLoads ≠ [] → exec (.actswap h) x.s = .next x.s)

/-! Conversions, lanes and the generator (R128 to R142) -/

/-- R129 to R132: CVT, QNT, DQNT, PACK and UNPK complete with the elements that their rules give; a conversion under
stochastic rounding takes one draw. -/
def Obligations.ConversionWords : Prop :=
  ∀ (x : Iss) (h : Hd), x.live →
    (∀ d a dst src (p : BitVec 2) rm, x.lane (.cvt h d a dst src p rm) h 6 (some d) (fun l =>
      cvtLane dst src p.toNat rm (x.w.draw l) (wget x.w.win (x.frame.vslot d.toNat + l)) (x.v a l)) (rm == .sr)) ∧
    (∀ d a x4 (f : FType) (l : BitVec 2) (dd : BitVec 4) rm, x.ready (usesOf (.qnt h d a x4 f l dd rm)) h →
      let elem (e : Nat) : Fv :=
        let p := elemAt f e
        fDecode f (el (fWidth f) p.2.2.1 (if f == .f32 then x.vreg (a.toNat + p.1) p.2.1 else x.v a p.2.1)).toNat
      let draw (e : Nat) : Draw := drawBits (x.w.draw (elemAt f e).2.1) 4 (elemAt f e).2.2.2
      let img := (dxb x4).image rm (16 * 2 ^ l.toNat) (if dd = 0 then (if x4 then 2 else 4) else dd.toNat)
        ((List.range 128).map elem) draw
      ∃ v, exec (.qnt h d a x4 f l dd rm) x.s = .next (x.after (.qnt h d a x4 f l dd rm) h
          (.vfix (if f == .f32 then 8 else 4)) (x.active h).length x.s v .next) ∧
        v.ctr = (if rm == .sr then x.w.ctr + 1 else x.w.ctr) ∧
        VecResult x { h with x := 0 } 12 (List.range 32) (some d.toNat)
          (fun i r => r = leWord (((imageBytes x4 img.1 img.2.1).drop (8 * i)).take 8)) (fun _ => 0) img.2.2 v) ∧
    (∀ d a x4 (f : FType) (l : BitVec 2) rm, f ≠ .f32 → x.ready (usesOf (.dqnt h d a x4 f l rm)) h →
      ∃ v, exec (.dqnt h d a x4 f l rm) x.s = .next (x.after (.dqnt h d a x4 f l rm) h (.vfix 4)
          (x.active h).length x.s v .next) ∧
        v.ctr = (if rm == .sr then x.w.ctr + 1 else x.w.ctr) ∧
        v = { x.w with win := v.win, early := v.early, stk := v.stk, ctr := v.ctr } ∧
        (∀ e < 128, (el 16 (e % 4) (wget v.win (x.frame.vslot d.toNat + e / 4))).toNat =
          (x.dequantised a x4 f l rm e).r % 2 ^ 16) ∧
        (∀ k, (∀ i < 32, k ≠ x.frame.vslot d.toNat + i) → wget v.win k = wget x.w.win k)) ∧
    (∀ d a x4 (l : BitVec 2) rm, x.ready (usesOf (.dqnt h d a x4 .f32 l rm)) h →
      ∃ v, exec (.dqnt h d a x4 .f32 l rm) x.s = .next (x.after (.dqnt h d a x4 .f32 l rm) h (.vfix 8)
          (x.active h).length x.s v .next) ∧
        v.ctr = (if rm == .sr then x.w.ctr + 1 else x.w.ctr) ∧
        v = { x.w with win := v.win, early := v.early, stk := v.stk, ctr := v.ctr } ∧
        (∀ e < 128, (el 32 (e % 2) (wget v.win (x.frame.vslot (d.toNat + e / 64) + e % 64 / 2))).toNat =
          (x.dequantised a x4 .f32 l rm e).r % 2 ^ 32) ∧
        (∀ k, (∀ i < 32, k ≠ x.frame.vslot d.toNat + i ∧ k ≠ x.frame.vslot (d.toNat + 1) + i) →
          wget v.win k = wget x.w.win k)) ∧
    (∀ d a b (t : IType), t.bits < 64 → x.ready (usesOf (.pack h d a b t)) h →
      ∃ v, exec (.pack h d a b t) x.s = .next (x.afterV (.pack h d a b t) h v) ∧ v.ctr = x.w.ctr ∧
        VecResult x h 6 (x.active h) (some d.toNat)
          (fun l r => ∀ j < 64 / t.bits, el t.bits j r = (saturated t (packSource t (x.v a l) (x.v b l) j)).1)
          (fun l => szcv (saturated t (packSource t (x.v a l) (x.v b l) 0)).1 false
            (saturated t (packSource t (x.v a l) (x.v b l) 0)).2)
          (if ∃ l ∈ x.active h, ∃ j < 64 / t.bits, (saturated t (packSource t (x.v a l) (x.v b l) j)).2 = true
            then OVF else 0) v) ∧
    (∀ d a (p : BitVec 1) (t : IType), t.bits < 64 → x.ready (usesOf (.unpk h d a p t)) h →
      ∃ v, exec (.unpk h d a p t) x.s = .next (x.afterV (.unpk h d a p t) h v) ∧ v.ctr = x.w.ctr ∧
        VecResult x h 6 (x.active h) (some d.toNat)
          (fun l r => ∀ j < 32 / t.bits, el (2 * t.bits) j r = widened t (el t.bits (p.toNat * (32 / t.bits) + j) (x.v a l)))
          (fun l => szcv (widened t (el t.bits (p.toNat * (32 / t.bits)) (x.v a l))) false false) 0 v)

/-- R133 to R137, R139 to R141: the words that move values between lanes, vote and draw. -/
def Obligations.LaneWords : Prop :=
  ∀ (x : Iss) (h : Hd), x.live →
    (∀ d a b (t : IType), x.move (.lget h d a b t) h d (fun l r => ∀ j < 64 / t.bits,
      let i := (el t.bits j (x.v b l)).toNat
      el t.bits j r = el t.bits (i / 32 % (64 / t.bits)) (x.v a (i % 32)))) ∧
    (∀ d a b (t : IType), x.ready (usesOf (.lput h d a b t)) h → h.x = 0 →
      let names (l j k n : Nat) : Prop := (el t.bits j (x.v b l)).toNat % 32 = k ∧
        (el t.bits j (x.v b l)).toNat / 32 % (64 / t.bits) = n
      ∃ v, exec (.lput h d a b t) x.s = .next (x.afterV (.lput h d a b t) h v) ∧ v.ctr = x.w.ctr ∧
        VecResult x h 8 (List.range 32) (some d.toNat) (fun k r => ∀ n < 64 / t.bits,
          (∀ l ∈ x.active h, ∀ j < 64 / t.bits, names l j k n →
            (∀ m ∈ x.active h, ∀ i < 64 / t.bits, names m i k n → m < l ∨ m = l ∧ i ≤ j) →
            el t.bits n r = el t.bits j (x.v a l)) ∧
          ((∀ l ∈ x.active h, ∀ j < 64 / t.bits, ¬ names l j k n) → el t.bits n r = el t.bits n (x.vreg d.toNat k)))
          (fun _ => 0) 0 v) ∧
    (∀ d a b (n : BitVec 5), x.move (.lshf h d a b .up n) h d
      (fun l r => r = if n.toNat ≤ l then x.v a (l - n.toNat) else x.v b l)) ∧
    (∀ d a b (n : BitVec 5), x.move (.lshf h d a b .down n) h d
      (fun l r => r = if l + n.toNat ≤ 31 then x.v a (l + n.toNat) else x.v b l)) ∧
    (∀ d a b (n : BitVec 5), x.move (.lshf h d a b .rot n) h d (fun l r => r = x.v a ((l + n.toNat) % 32))) ∧
    (∀ d a (n : BitVec 5), x.move (.lbcst h d a n) h d (fun _ r => r = x.v a n.toNat)) ∧
    (∀ d a (n : BitVec 5), x.move (.lxor h d a n) h d (fun l r => r = x.v a (l ^^^ n.toNat))) ∧
    (∀ d a, x.lane (.lvote h d a .any) h 8 (some d) (fun _ =>
      let r : Word := if ∃ l ∈ x.active h, x.v a l ≠ 0 then 1 else 0
      { r := r, fl := if r = 0 then 0b0100#4 else 0, st := 0 }) false) ∧
    (∀ d a, x.lane (.lvote h d a .all) h 8 (some d) (fun _ =>
      let r : Word := if ∀ l ∈ x.active h, x.v a l ≠ 0 then 1 else 0
      { r := r, fl := if r = 0 then 0b0100#4 else 0, st := 0 }) false) ∧
    (∀ d a, x.lane (.lvote h d a .ballot) h 8 (some d) (fun _ =>
      let r : Word := BitVec.ofBoolListLE ((List.range 64).map fun l => decide (l ∈ x.active h) && x.v a l != 0)
      { r := r, fl := if r = 0 then 0b0100#4 else 0, st := 0 }) false) ∧
    (∀ d, x.lane (.rng h d) h 8 (some d) (fun l => { r := mix x.w.key (x.w.ctr * 32 + BitVec.ofNat 64 l), fl := 0, st := 0 }) true) ∧
    (∀ a b, x.ready (usesOf (.rngset h a b)) h → exec (.rngset h a b) x.s =
      .next (x.after (.rngset h a b) h (.vfix 0) (x.active h).length x.s
        { x.w with key := x.sreg a.toNat, ctr := x.sreg b.toNat } .next))

/-- R46, R138: LRED gives every active lane the root of the tree, LSCAN each active lane its prefix. On integers the
tree's shape does not show: LRED.add is the wrapped sum over the active lanes, LSCAN.add over those up to the lane. -/
def Obligations.Reductions : Prop :=
  ∀ (x : Iss) (h : Hd) (d a : VCode), x.live →
    (∀ op, x.lane (.lred h d a op) h 8 (some d) (fun _ =>
      let r := ((x.tree op a (x.active h)).getD 5 []).getD 0 (0, 0)
      { r := r.1, fl := redFlags op r.1, st := r.2 }) false) ∧
    (∀ op, x.lane (.lscan h d a op) h 8 (some d) (fun l =>
      let ls := x.tree op a (x.active h)
      let r := redPrefix op ls l
      { r := r.1, fl := redFlags op r.1, st := r.2 ||| ((ls.getD 5 []).getD 0 (0, 0)).2 }) false) ∧
    (∀ t : IType, x.ready (usesOf (.lred h d a (.add t))) h →
      ∃ v, exec (.lred h d a (.add t)) x.s = .next (x.afterV (.lred h d a (.add t)) h v) ∧
        ∀ l ∈ x.active h, ∀ j < 64 / t.bits, el t.bits j (wget v.win (x.frame.vslot d.toNat + l)) =
          (x.active h).foldl (fun m k => m + el t.bits j (x.v a k)) 0) ∧
    (∀ t : IType, x.ready (usesOf (.lscan h d a (.add t))) h →
      ∃ v, exec (.lscan h d a (.add t)) x.s = .next (x.afterV (.lscan h d a (.add t)) h v) ∧
        ∀ l ∈ x.active h, ∀ j < 64 / t.bits, el t.bits j (wget v.win (x.frame.vslot d.toNat + l)) =
          ((x.active h).filter (· ≤ l)).foldl (fun m k => m + el t.bits j (x.v a k)) 0)

/-! Control and fibre words (R84 to R96) -/

/-- R86: BRA, BRC, BRX, CALL, CALLX and RET complete once every register target is a multiple of 8; the active lanes move
to their targets and the others to the next word. CALL and CALLX write the link to the active lanes of d, a result that
the scoreboard holds. A target that is no multiple of 8 traps MISALIGNED, with the lowest such lane in %tinfo, and
nothing moves. -/
def Obligations.BranchWords : Prop :=
  ∀ (x : Iss) (h : Hd), x.live →
    (∀ off_, x.ready (usesOf (.bra h off_)) h → exec (.bra h off_) x.s = .next (x.after (.bra h off_) h .scalar
      (x.active h).length x.s x.w (x.branch (x.active h) fun _ => x.p.pc + 8 * off_.signExtend 64))) ∧
    (∀ d off_, x.ready (usesOf (.brc h d off_)) h → exec (.brc h d off_) x.s = .next (x.after (.brc h d off_) h .vector
      (x.active h).length x.s x.w (x.branch (x.active h) fun l =>
        if x.v d l = 0 then x.p.pc + 8 else x.p.pc + 8 * off_.signExtend 64))) ∧
    (∀ a, x.ready (usesOf (.brx h a)) h → (∀ l ∈ x.active h, (x.v a l).toNat % 8 = 0) →
      exec (.brx h a) x.s = .next (x.after (.brx h a) h .vector (x.active h).length x.s x.w
        (x.branch (x.active h) (x.v a)))) ∧
    (∀ a, x.ready (usesOf (.ret h a)) h → (∀ l ∈ x.active h, (x.v a l).toNat % 8 = 0) →
      exec (.ret h a) x.s = .next (x.after (.ret h a) h .vector (x.active h).length x.s x.w
        (x.branch (x.active h) (x.v a)))) ∧
    (∀ d off_, x.ready (usesOf (.call h d off_)) h → ∃ v, x.linked d h v ∧
      exec (.call h d off_) x.s = .next (x.after (.call h d off_) h .vector (x.active h).length
        { x.s with nextUid := x.s.nextUid + 1 } v (x.branch (x.active h) fun _ => x.p.pc + 8 * off_.signExtend 64))) ∧
    (∀ d a, x.ready (usesOf (.callx h d a)) h → (∀ l ∈ x.active h, (x.v a l).toNat % 8 = 0) → ∃ v, x.linked d h v ∧
      exec (.callx h d a) x.s = .next (x.after (.callx h d a) h .vector (x.active h).length
        { x.s with nextUid := x.s.nextUid + 1 } v (x.branch (x.active h) (x.v a)))) ∧
    (∀ d a l, l ∈ x.active h → (x.v a l).toNat % 8 ≠ 0 → (∀ m ∈ x.active h, m < l → (x.v a m).toNat % 8 = 0) →
      let t := State.takeTrap (x.s.note x.w.uid 0 x.p.pc) x.w MISALIGNED
        (wd (31 + 32 * l + 65536 * ((x.v a l).toNat % 2 ^ 48))) h.sc.toNat
      (x.ready (usesOf (.brx h a)) h → exec (.brx h a) x.s = .next t) ∧
      (x.ready (usesOf (.ret h a)) h → exec (.ret h a) x.s = .next t) ∧
      (x.ready (usesOf (.callx h d a)) h → exec (.callx h d a) x.s = .next t))

/-- R75, R76: after a word that moves lanes, each lane of its partition stands at its target if it is active and at the
next word if not, and the lanes of the wave's other partitions stand where they stood. -/
def Obligations.LanesReachTheirTargets : Prop :=
  ∀ (x : Iss) (act : List Nat) (tgt : Nat → Word) (sc l : Nat), x.apart → l < 32 →
    pcIn (x.moved sc (x.branch act tgt)) l =
      if x.p.lanes.getLsbD l then some (if l ∈ act then tgt l else x.p.pc + 8) else pcIn x.ps l

/-- R83, R88: LOOP opens a level unless four are open, and skips the loop when its count is 0; ENDL takes one from the
innermost count and goes back to its start, at no redirect cost, until none is left; LBRK leaves the innermost level.
ENDL and LBRK outside every loop, and LOOP inside four, trap RESERVED_FIELD with the opcode's bit position. -/
def Obligations.LoopWords : Prop :=
  ∀ (x : Iss) (h : Hd), x.live →
    (∀ (a : SReg) (off_ : BitVec 18), x.ready (usesOf (.loop h a off_)) h →
      let stop := x.p.pc + 8 * off_.setWidth 64
      (x.p.nest.length = 4 → exec (.loop h a off_) x.s = .next (x.trap h.sc.toNat RESERVED_FIELD 53)) ∧
      (x.p.nest.length ≠ 4 → x.sreg a.toNat = 0 → exec (.loop h a off_) x.s =
        .next (x.afterTo (.loop h a off_) h .scalar [{ x.p with pc := stop + 8 }] false)) ∧
      (x.p.nest.length ≠ 4 → x.sreg a.toNat ≠ 0 → exec (.loop h a off_) x.s =
        .next (x.afterTo (.loop h a off_) h .scalar
          [{ x.p with pc := x.p.pc + 8, nest := ⟨x.p.pc + 8, stop, x.sreg a.toNat⟩ :: x.p.nest }] false))) ∧
    (x.ready (usesOf (.endl h)) h →
      (x.p.nest = [] → exec (.endl h) x.s = .next (x.trap h.sc.toNat RESERVED_FIELD 53)) ∧
      (∀ e r, x.p.nest = e :: r → e.count ≠ 1 → exec (.endl h) x.s =
        .next (x.afterTo (.endl h) h .scalar [{ x.p with pc := e.start, nest := ⟨e.start, e.stop, e.count - 1⟩ :: r }] true)) ∧
      (∀ e r, x.p.nest = e :: r → e.count = 1 → exec (.endl h) x.s =
        .next (x.afterTo (.endl h) h .scalar [{ x.p with pc := x.p.pc + 8, nest := r }] false))) ∧
    (x.ready (usesOf (.lbrk h)) h →
      (x.p.nest = [] → exec (.lbrk h) x.s = .next (x.trap h.sc.toNat RESERVED_FIELD 53)) ∧
      (∀ e r, x.p.nest = e :: r → exec (.lbrk h) x.s =
        .next (x.afterTo (.lbrk h) h .scalar [{ x.p with pc := e.stop + 8, nest := r }] false)))

/-- R89 to R96: NOP, SPAWN, END, YIELD, SLEEP, FBAR and ICINV. END of the wave's last lanes ends the wave; SLEEP of 0 is
a NOP; SPAWN bins the fibres of its active lanes, waits without room for the waves it would launch, and traps in
determinism mode, at an entry that is no multiple of 8 (MISALIGNED, the lowest such lane) and where a copy of a shared grant would
pass its largest count (BRAND_FULL with the register's code; R156); ICINV empties the core's instruction cache. -/
def Obligations.FibreWords : Prop :=
  ∀ (x : Iss) (h : Hd), x.live →
    (x.ready (usesOf (.nop h)) h → exec (.nop h) x.s = .next (x.afterS (.nop h) h x.w)) ∧
    (∀ (d a : VCode) (b : SReg), x.ready (usesOf (.spawn h d a b)) h →
      let fibres := (x.active h).map fun l => (x.v d l, (⟨x.vreg a.toNat l, x.vreg (a.toNat + 1) l, x.vreg (a.toNat + 2) l,
        x.vreg (a.toNat + 3) l⟩ : Fibre))
      let mask := x.s.binMask x.w.uid ((x.sreg b.toNat).toNat % 2 ^ 16)
      let r := x.s.binAll x.g x.w.core mask fibres
      (x.det = true → exec (.spawn h d a b) x.s = .next (x.trap h.sc.toNat ILLEGAL_OPCODE 0x010)) ∧
      (x.det = false → (∀ l ∈ x.active h, (x.v d l).toNat % 8 = 0) → r.2.1 ≤ x.s.groupRoom x.g x.k.win →
        x.s.copyFull? mask r.2.2 = none →
        exec (.spawn h d a b) x.s = .next (x.after (.spawn h d a b) h .vector (x.active h).length r.1 x.w .next)) ∧
      (∀ l, x.det = false → l ∈ x.active h → (x.v d l).toNat % 8 ≠ 0 → (∀ m ∈ x.active h, m < l → (x.v d m).toNat % 8 = 0) →
        exec (.spawn h d a b) x.s =
          .next (x.trap h.sc.toNat MISALIGNED (wd (31 + 32 * l + 65536 * ((x.v d l).toNat % 2 ^ 48))))) ∧
      (∀ code, x.det = false → (∀ l ∈ x.active h, (x.v d l).toNat % 8 = 0) → r.2.1 ≤ x.s.groupRoom x.g x.k.win →
        x.s.copyFull? mask r.2.2 = some code →
        exec (.spawn h d a b) x.s = .next (x.trap h.sc.toNat BRAND_FULL (wd (16 * code)))) ∧
      (x.det = false → (∀ l ∈ x.active h, (x.v d l).toNat % 8 = 0) → x.s.groupRoom x.g x.k.win < r.2.1 →
        exec (.spawn h d a b) x.s = .next x.s)) ∧
    (x.ready (usesOf (.endFibre h)) h →
      let left := x.p.lanes &&& ~~~(x.active h).foldl (fun (m : BitVec 32) l => m ||| 1 <<< l) 0
      (left = 0 → x.ps = [] → exec (.endFibre h) x.s = .next (x.after (.endFibre h) h .scalar (x.active h).length
        (x.s.endWave x.w).1 (x.s.endWave x.w).2 (.exact []))) ∧
      (left = 0 → x.ps ≠ [] → exec (.endFibre h) x.s = .next (x.after (.endFibre h) h .scalar (x.active h).length
        x.s (x.settle none) (.exact (x.settle none).parts))) ∧
      (left ≠ 0 →
        let m := mergePart { x.p with lanes := left, pc := x.p.pc + 8 } x.ps
        let v := ({ x with ps := m.2 } : Iss).settle (some m.1)
        exec (.endFibre h) x.s = .next (x.after (.endFibre h) h .scalar (x.active h).length x.s v (.exact v.parts)))) ∧
    (x.ready (usesOf (.yield h)) h →
      let v := ({ x.w with parts := mergeAll [{ x.p with pc := x.p.pc + 8 }] x.ps } : Wave).passTurn x.clk
      exec (.yield h) x.s = .next (x.after (.yield h) h .scalar (x.active h).length x.s v (.exact v.parts))) ∧
    (∀ n, x.ready (usesOf (.sleep h n)) h → exec (.sleep h n) x.s = .next (x.afterS (.sleep h n) h
      (if n = 0 then x.w
       else { x.w with st := .sleeping, sleepEnd := x.clk + h.sc.toNat + 1 + n.toNat }))) ∧
    (∀ a, x.ready (usesOf (.fbar h a)) h →
      let v := x.settle (some { x.p with fbar := some ((x.sreg a.toNat).extractLsb' 0 32) })
      exec (.fbar h a) x.s = .next (x.after (.fbar h a) h .scalar (x.active h).length x.s v (.exact v.parts))) ∧
    (x.ready (usesOf (.icinv h)) h → ∃ c : Core, c.icache = [] ∧ x.clk < c.fetchAt ∧
      c = { x.core with icache := [], fetchAt := c.fetchAt } ∧
      exec (.icinv h) x.s = .next (x.after (.icinv h) h .scalar (x.active h).length (x.s.setCore x.coreIx c) x.w .next))

/-! Memory words (R179 to R198) -/

/-- R162, R180 to R183, R191, R192: LD, LDS and LDP through a register that may be read, in bounds and aligned, go in
flight: one lane for each active lane, at its grant's IA plus the lane's offset or at its scratchpad offset, with the
miss-status entries of the sectors that miss its grant's cache once its hint has had its effect (Table 8.4). No byte of a home
and no register changes at issue. With no active lane, nothing goes in flight. -/
def Obligations.LoadsGoInFlight : Prop :=
  ∀ (x : Iss) (h : Hd) (t : IType) (d b : VCode) (imm : BitVec 4), x.live →
    let z := itypeBytes t
    (∀ (g : GCode) (gr : Grant), x.ready (usesOf (.ld h d g b t .none imm)) h → x.reads g.toNat gr →
      x.fits h gr.len z imm.toNat b →
      let at_ := (x.active h).map fun l => (l, gr.ia + x.off b z imm.toNat l)
      let p : Place := ⟨.grant gr.gid, gr.ia, x.s.direct gr, g.toNat⟩
      let y := x.loading p h.x.toNat z (at_.map (·.2))
      let miss := y.missing p h.x.toNat z (at_.map (·.2))
      (x.active h = [] → exec (.ld h d g b t .none imm) x.s = .next (x.afterV (.ld h d g b t .none imm) h x.w)) ∧
      (x.active h ≠ [] → y.entriesFree miss.length → exec (.ld h d g b t .none imm) x.s =
        .next (x.afterM (.ld h d g b t .none imm) h (y.taking miss.length)
          { x.w with loads := x.w.loads ++
                       [y.loadP g.toNat (.grant gr.gid) z at_ (.vec (x.destAt d.toNat) t) false miss h.x.toNat] }))) ∧
    (x.ready (usesOf (.lds h d b t .none imm)) h → x.fits h x.scr z imm.toNat b →
      let at_ := (x.active h).map fun l => (l, x.off b z imm.toNat l)
      (x.active h = [] → exec (.lds h d b t .none imm) x.s = .next (x.afterV (.lds h d b t .none imm) h x.w)) ∧
      (x.active h ≠ [] → exec (.lds h d b t .none imm) x.s = .next (x.afterM (.lds h d b t .none imm) h (x.taking 0)
        { x.w with loads := x.w.loads ++ [x.loadP 31 (.sp x.g.uid) z at_ (.vec (x.destAt d.toNat) t) false [] 0] }))) ∧
    (∀ (g : GCode) (gr : Grant), x.ready (usesOf (.ldp h d g b .none imm)) h → x.reads g.toNat gr →
      x.fits h gr.len 16 imm.toNat b →
      let at_ := (x.active h).map fun l => (l, gr.ia + x.off b 16 imm.toNat l)
      let p : Place := ⟨.grant gr.gid, gr.ia, x.s.direct gr, g.toNat⟩
      let y := x.loading p h.x.toNat 16 (at_.map (·.2))
      let miss := y.missing p h.x.toNat 16 (at_.map (·.2))
      (x.active h = [] → exec (.ldp h d g b .none imm) x.s = .next (x.afterV (.ldp h d g b .none imm) h x.w)) ∧
      (x.active h ≠ [] → y.entriesFree miss.length → exec (.ldp h d g b .none imm) x.s =
        .next (x.afterM (.ldp h d g b .none imm) h (y.taking miss.length)
          { x.w with loads := x.w.loads ++
                       [y.loadP g.toNat (.grant gr.gid) 16 at_ (.pair (x.destAt d.toNat) (x.destAt (d.toNat + 1))) false miss
                          h.x.toNat] })))

/-- R183, R203: ST, STS and STP through a HELD X grant or to the scratchpad, in bounds and aligned, put one outbox entry
for each active lane: the low bytes of the lane of d, little-endian, at the lane's address. The grant's cache merges the bytes
(R175); no byte of a home or of a scratchpad changes at issue. -/
def Obligations.StoresEnterTheOutbox : Prop :=
  ∀ (x : Iss) (h : Hd) (t : IType) (d b : VCode) (imm : BitVec 4), x.live →
    let z := itypeBytes t
    (∀ (g : GCode) (gr : Grant), x.ready (usesOf (.st h d g b t .none imm)) h → x.holds g.toNat gr → gr.kind = .x →
      x.fits h gr.len z imm.toNat b →
      let at_ := fun l => gr.ia + x.off b z imm.toNat l
      x.free (.grant gr.gid) z ((x.active h).map at_) →
      exec (.st h d g b t .none imm) x.s = .next (x.afterM (.st h d g b t .none imm) h
        (x.storing (.grant gr.gid) (x.s.direct gr) h.x.toNat z ((x.active h).map at_))
        { x.w with outbox := x.w.outbox ++ (x.active h).map fun l =>
                     x.entry g.toNat (.grant gr.gid) (.write (at_ l) (leBytes z (x.v d l).toNat) []) })) ∧
    (x.ready (usesOf (.sts h d b t .none imm)) h → x.fits h x.scr z imm.toNat b →
      let at_ := fun l => x.off b z imm.toNat l
      x.free (.sp x.g.uid) z ((x.active h).map at_) →
      exec (.sts h d b t .none imm) x.s = .next (x.afterM (.sts h d b t .none imm) h (x.taking 0)
        { x.w with outbox := x.w.outbox ++ (x.active h).map fun l =>
                     x.entry 31 (.sp x.g.uid) (.write (at_ l) (leBytes z (x.v d l).toNat) []) })) ∧
    (∀ (g : GCode) (gr : Grant), x.ready (usesOf (.stp h d g b .none imm)) h → x.holds g.toNat gr → gr.kind = .x →
      x.fits h gr.len 16 imm.toNat b →
      let at_ := fun l => gr.ia + x.off b 16 imm.toNat l
      x.free (.grant gr.gid) 16 ((x.active h).map at_) →
      let bytes := fun l => leBytes 8 (x.vreg d.toNat l).toNat ++ leBytes 8 (x.vreg (d.toNat + 1) l).toNat
      exec (.stp h d g b .none imm) x.s = .next (x.afterM (.stp h d g b .none imm) h
        (x.storing (.grant gr.gid) (x.s.direct gr) h.x.toNat 16 ((x.active h).map at_))
        { x.w with outbox := x.w.outbox ++ (x.active h).map fun l =>
                     x.entry g.toNat (.grant gr.gid) (.write (at_ l) (bytes l) []) }))

/-- R177, R185: a full-empty load proceeds at once where all its granules are full and its lanes may be read, and otherwise holds
the wave; a .fe
store carries in its last entry the granules that it fills. Full-empty words reach scratchpad bytes only: through any other
grant LD, LDP, ST and STP trap REFUSED_KIND, once bounds and alignment hold. -/
def Obligations.FullEmptyWords : Prop :=
  ∀ (x : Iss) (h : Hd) (t : IType) (d b : VCode) (imm : BitVec 4) (fe : Fe), x.live → fe ≠ .none → x.active h ≠ [] →
    let z := itypeBytes t
    let lanes (base z : Nat) := (x.active h).map fun l => (l, base + x.off b z imm.toNat l)
    (x.ready (usesOf (.lds h d b t fe imm)) h → x.fits h x.scr z imm.toNat b →
      x.feLoad (.lds h d b t fe imm) h ⟨.sp x.g.uid, 0, true, 31⟩ z (lanes 0 z) (.vec (x.destAt d.toNat) t) 0 (fe == .fec)) ∧
    (x.ready (usesOf (.sts h d b t fe imm)) h → x.fits h x.scr z imm.toNat b →
      x.free (.sp x.g.uid) z ((lanes 0 z).map (·.2)) → x.feStore (.sts h d b t fe imm) h (.sp x.g.uid) z (lanes 0 z)) ∧
    (∀ (g : GCode) (gr : Grant), x.s.direct gr = true →
      (x.ready (usesOf (.ld h d g b t fe imm)) h → x.reads g.toNat gr → x.fits h gr.len z imm.toNat b →
        x.feLoad (.ld h d g b t fe imm) h ⟨.grant gr.gid, gr.ia, true, g.toNat⟩ z (lanes gr.ia z)
          (.vec (x.destAt d.toNat) t) h.x.toNat (fe == .fec)) ∧
      (x.ready (usesOf (.ldp h d g b fe imm)) h → x.reads g.toNat gr → x.fits h gr.len 16 imm.toNat b →
        x.feLoad (.ldp h d g b fe imm) h ⟨.grant gr.gid, gr.ia, true, g.toNat⟩ 16 (lanes gr.ia 16)
          (.pair (x.destAt d.toNat) (x.destAt (d.toNat + 1))) h.x.toNat (fe == .fec)) ∧
      (x.ready (usesOf (.st h d g b t fe imm)) h → x.holds g.toNat gr → gr.kind = .x → x.fits h gr.len z imm.toNat b →
        x.free (.grant gr.gid) z ((lanes gr.ia z).map (·.2)) →
        x.feStore (.st h d g b t fe imm) h (.grant gr.gid) z (lanes gr.ia z)) ∧
      (x.ready (usesOf (.stp h d g b fe imm)) h → x.holds g.toNat gr → gr.kind = .x → x.fits h gr.len 16 imm.toNat b →
        x.free (.grant gr.gid) 16 ((lanes gr.ia 16).map (·.2)) →
        x.feStore (.stp h d g b fe imm) h (.grant gr.gid) 16 (lanes gr.ia 16))) ∧
    (∀ (g : GCode) (gr : Grant), x.s.direct gr = false →
      let info := wd (g.toNat + 32 * kindNum gr.kind + 256 * 7)
      (x.reads g.toNat gr →
        (x.fits h gr.len z imm.toNat b → x.traps (.ld h d g b t fe imm) h REFUSED_KIND info) ∧
        (x.fits h gr.len 16 imm.toNat b → x.traps (.ldp h d g b fe imm) h REFUSED_KIND info)) ∧
      (x.holds g.toNat gr → gr.kind = .x →
        (x.fits h gr.len z imm.toNat b → x.traps (.st h d g b t fe imm) h REFUSED_KIND info) ∧
        (x.fits h gr.len 16 imm.toNat b → x.traps (.stp h d g b fe imm) h REFUSED_KIND info)))

/-- R186 to R190, R203: ATOM and ATOMS put a load and a local atomic in the outbox, through an A grant a home atomic;
RATOM one home atomic without a load for each active lane, which together hold the word's entries; RST one remote store for
each active lane and then its flag. PREF never traps after decode and writes no register: where the checks pass, the grant
is neither of kind A nor staged and entries for the sectors that miss are free, it puts a load in flight that writes no register,
and otherwise it has no effect (R195). That its lines are placed when that load completes, and its early operand is read as it
stands, are the model's choices (log entries 11 and 119). -/
def Obligations.AtomicAndRemoteWords : Prop :=
  ∀ (x : Iss) (h : Hd) (d b : VCode) (op : AtOp) (t : IType), x.live →
    let z := itypeBytes t
    let lane (base l : Nat) : AtLane := { lane := l, addr := base + x.off b z 0 l, x := x.vreg d.toNat l,
                                          y := if op = .cas then x.vreg (d.toNat + 1) l else 0 }
    (∀ (g : GCode) (gr : Grant), x.ready (usesOf (.atom h d g b op t)) h → x.holds g.toNat gr → x.fits h gr.len z 0 b →
      x.s.grant? gr.gid = some gr → x.active h ≠ [] →
      let ls := (x.active h).map (lane gr.ia)
      let miss := x.missing ⟨.grant gr.gid, gr.ia, x.s.direct gr, g.toNat⟩ 0 z (ls.map (·.addr))
      let l := fun m => x.loadP g.toNat (.grant gr.gid) z (ls.map fun a => (a.lane, a.addr)) (.vec (x.destAt d.toNat) t) true m 0
      (gr.kind = .x → x.free (.grant gr.gid) z (ls.map (·.addr)) → x.entriesFree miss.length →
        exec (.atom h d g b op t) x.s = .next (x.afterM (.atom h d g b op t) h (x.taking miss.length)
          { x.w with loads := x.w.loads ++ [l miss],
                     outbox := x.w.outbox ++ [x.entry g.toNat (.grant gr.gid) (.atomic op t ls x.s.nextUid)] })) ∧
      (gr.kind = .a → x.stamped → exec (.atom h d g b op t) x.s = .next (x.afterM (.atom h d g b op t) h (x.taking 0)
          { x.w with loads := x.w.loads ++ [{ l [] with via := 0 }],
                     outbox := x.w.outbox ++ [x.entry g.toNat (.grant gr.gid) (.homeAtomic op t ls x.s.nextUid 0)] }))) ∧
    (x.ready (usesOf (.atoms h d b op t)) h → x.fits h x.scr z 0 b → x.active h ≠ [] →
      let ls := (x.active h).map (lane 0)
      x.free (.sp x.g.uid) z (ls.map (·.addr)) →
      exec (.atoms h d b op t) x.s = .next (x.afterM (.atoms h d b op t) h (x.taking 0)
        { x.w with loads := x.w.loads ++
                     [x.loadP 31 (.sp x.g.uid) z (ls.map fun a => (a.lane, a.addr)) (.vec (x.destAt d.toNat) t) true [] 0],
                   outbox := x.w.outbox ++ [x.entry 31 (.sp x.g.uid) (.atomic op t ls x.s.nextUid)] })) ∧
    (∀ (g : GCode) (gr : Grant), x.ready (usesOf (.ratom h d g b op t)) h → x.holds g.toNat gr → gr.kind = .a →
      x.fits h gr.len z 0 b → x.stamped → x.active h ≠ [] →
      let ls := (x.active h).map fun l => ({ lane := l, addr := gr.ia + x.off b z 0 l, x := x.v d l, y := 0 } : AtLane)
      let n := if x.s.direct gr then 0 else sectors z (ls.map (·.addr))
      x.entriesFree n → ∃ es : List OEnt, exec (.ratom h d g b op t) x.s = .next (x.afterM (.ratom h d g b op t) h (x.taking n)
          { x.w with outbox := x.w.outbox ++ es }) ∧ es.length = ls.length ∧ (es.map OEnt.held).sum = n ∧
        ∀ i < es.length, ∃ e a k, es[i]? = some e ∧ ls[i]? = some a ∧ e.seq = x.s.nextUid ∧ e.tgt = .grant gr.gid ∧
          e.kind = .homeAtomic op t [a] 0 k) ∧
    (x.active h = [] →
      (x.ready (usesOf (.atoms h d b op t)) h → exec (.atoms h d b op t) x.s = .next (x.afterV (.atoms h d b op t) h x.w)) ∧
      (∀ (g : GCode) (gr : Grant), x.ready (usesOf (.atom h d g b op t)) h → x.holds g.toNat gr → gr.kind = .x →
        x.s.grant? gr.gid = some gr → exec (.atom h d g b op t) x.s = .next (x.afterV (.atom h d g b op t) h x.w)) ∧
      (∀ (g : GCode) (gr : Grant), x.ready (usesOf (.ratom h d g b op t)) h → x.holds g.toNat gr → gr.kind = .a →
        x.stamped → exec (.ratom h d g b op t) x.s = .next (x.afterV (.ratom h d g b op t) h x.w))) ∧
    (∀ (g : GCode) (a : VCode) (c : SReg) (gr gf : Grant), x.ready (usesOf (.rst h g a b c)) h →
      let desc := (x.sreg c.toNat).toNat
      let n := if x.s.direct gr then 0 else sectors 8 ((x.active h).map fun l => gr.ia + x.off a 8 0 l)
      desc % 32 < 24 → desc / 32 % 8 = 0 → x.holds g.toNat gr → gr.kind = .x → x.fits h gr.len 8 0 a →
      x.holds (desc % 32) gf → gf.kind = .a → 8 * (desc / 256) + 8 ≤ gf.len → gf.home = gr.home → x.entriesFree n →
      ∃ es : List OEnt, exec (.rst h g a b c) x.s = .next (x.afterM (.rst h g a b c) h (x.taking n)
          { x.w with outbox := x.w.outbox ++ es ++
              [x.entry (desc % 32) (.grant gf.gid) (.flag (gf.ia + 8 * (desc / 256)) gf.gid)] }) ∧
        es.length = (x.active h).length ∧
        ∀ i < es.length, ∃ e l k, es[i]? = some e ∧ (x.active h)[i]? = some l ∧ e.seq = x.s.nextUid ∧
          e.tgt = .grant gr.gid ∧ e.kind = .remote (gr.ia + x.off a 8 0 l) (leBytes 8 (x.v b l).toNat) k) ∧
    (∀ (g : GCode) (imm : BitVec 4), x.frame.bad (usesOf (.pref h g b t imm)) = [] → x.guard h = true →
      (∀ gr, x.reads g.toNat gr →
        let at_ := (x.active h).map fun l => (l, gr.ia + x.off b z imm.toNat l)
        let p : Place := ⟨.grant gr.gid, gr.ia, x.s.direct gr, g.toNat⟩
        let y := x.loading p h.x.toNat z (at_.map (·.2))
        let miss := y.missing p h.x.toNat z (at_.map (·.2))
        (x.fits h gr.len z imm.toNat b → x.s.direct gr = false → gr.kind ≠ .a → miss ≠ [] → miss.length ≤ x.freeEntries →
          exec (.pref h g b t imm) x.s = .next (x.afterM (.pref h g b t imm) h
            (x.takes { y.s with nextUid := x.s.nextUid + 1 } miss.length)
            { x.w with loads := x.w.loads ++ [x.loadP g.toNat (.grant gr.gid) z at_ .none false miss h.x.toNat] })) ∧
        (¬ x.fits h gr.len z imm.toNat b ∨ x.s.direct gr = true ∨ gr.kind = .a ∨ miss = [] ∨ x.freeEntries < miss.length →
          exec (.pref h g b t imm) x.s = .next (x.afterM (.pref h g b t imm) h x.s x.w))) ∧
      ((x.s.reg? (x.regRef g.toNat) = none ∨ x.s.regFaults.find? (fun f => f.1 == x.regRef g.toNat) ≠ none ∨
          ∃ gr, x.names g.toNat gr ∧ gr.st ≠ .held ∧ gr.st ≠ .frozen) →
        exec (.pref h g b t imm) x.s = .next (x.afterM (.pref h g b t imm) h x.s x.w)))

/-- R196, R198: STAGE binds a HELD X grant of the group to a free window of its scratchpad; without .fill the window's
bytes are the grant's at once and its lines leave the sector's caches, with it a fill is queued. It traps MISALIGNED,
REFUSED_BOUNDS and GRANT_FAILED as R196 says; that it waits for the accesses issued through the grant, and reports reason 11 before
reason 12, are log entries 17 and 130. UNSTAGE holds the wave while a binding stands, and does nothing without one. -/
def Obligations.StagingWords : Prop :=
  ∀ (x : Iss) (h : Hd) (g : GCode) (gr : Grant), x.live → x.holds g.toNat gr →
    (∀ b : SReg, x.ready (usesOf (.stage h g b false)) h → gr.kind = .x → gr.window = none →
      let win := (x.sreg b.toNat).toNat
      let n := x.s.bindings x.g.die (x.w.core / 4)
      win % 256 = 0 → win + gr.len ≤ x.scr → n.1 + n.2 < 64 →
      (x.s.heldWindows x.g.uid).any (fun p => meets p (win, gr.len)) = false →
      (x.s.residueWindows x.g.uid).any (fun p => meets p (win, gr.len)) = false → x.s.busyGrant gr.gid = false →
      exec (.stage h g b false) x.s = .next (x.after (.stage h g b false) h .scalar (x.active h).length
        ((x.s.dropLines x.g.die (x.s.sector x.g.die x.w.core) gr.tag gr.ia gr.len).setGrant
          { gr with window := some win, gs := [] }) x.w .next) ∧
      (x.core.engineQ.length < 64 → x.ready (usesOf (.stage h g b true)) h →
        ∃ t, exec (.stage h g b true) x.s = .next (x.after (.stage h g b true) h .scalar (x.active h).length t x.w .next) ∧
          t.grants = (x.s.setGrant { gr with window := some win }).grants ∧ t.waves = x.s.waves ∧ t.mem = x.s.mem ∧
          ∃ op, t.ops = x.s.ops ++ [op] ∧ op.id = x.s.nextUid ∧ op.kind = .fill ∧ op.len = gr.len ∧
            (x.coreIx < x.s.cores.length → (t.core x.coreIx).engineQ = x.core.engineQ ++ [op.id]))) ∧
    (∀ (b : SReg) (fill : Bool), gr.kind = .x →
      let win := (x.sreg b.toNat).toNat
      let i := Instr.stage h g b fill
      let n := (x.s.bindings x.g.die (x.w.core / 4)).1
      let past := (x.s.heldWindows x.g.uid).any fun p => meets p (win, gr.len)
      (win % 256 ≠ 0 → x.traps i h MISALIGNED (wd (31 * 16 + 1))) ∧
      (win % 256 = 0 → x.scr < win + gr.len → x.traps i h REFUSED_BOUNDS (laneInfo 31 0 0 win)) ∧
      (win % 256 = 0 → win + gr.len ≤ x.scr →
        (64 ≤ n → x.traps i h GRANT_FAILED (wd (16 * g.toNat + 10))) ∧
        (n < 64 → past = true → x.traps i h GRANT_FAILED (wd (16 * g.toNat + 11))) ∧
        (n < 64 → past = false → gr.window ≠ none → x.traps i h GRANT_FAILED (wd (16 * g.toNat + 12))))) ∧
    (x.ready (usesOf (.unstage h g)) h → exec (.unstage h g) x.s = .next (x.afterS (.unstage h g) h
      (if gr.window = none then x.w else { x.w with hold := .unstage gr.gid })))

/-- R162, R182: the order of an access's traps: the register's state, then its kind, then bounds of the lowest failing
lane, then alignment of the lowest failing lane; none of them has any other effect. Bounds and alignment hold for every access
word, of a grant or of the scratchpad (register code 31). RST checks in turn its descriptor, the data's register and bounds, the
flag's register, home and bounds, and the data's alignment (R190). -/
def Obligations.AccessTraps : Prop :=
  ∀ (x : Iss) (h : Hd) (d b : VCode) (g : GCode) (t : IType) (fe : Fe) (imm : BitVec 4), x.live →
    let z := itypeBytes t
    let ld := Instr.ld h d g b t fe imm
    let st := Instr.st h d g b t fe imm
    (x.s.regFaults.find? (fun f => f.1 == x.regRef g.toNat) = none → x.s.reg? (x.regRef g.toNat) = none →
      x.traps ld h REGION_STATE (wd g.toNat) ∧ x.traps st h REGION_STATE (wd g.toNat)) ∧
    (∀ gr, x.names g.toNat gr → gr.st = .lent ∨ gr.st = .returning →
      x.traps ld h REGION_STATE (wd (g.toNat + 32 * gr.st.code)) ∧ x.traps st h REGION_STATE (wd (g.toNat + 32 * gr.st.code))) ∧
    (∀ gr, x.names g.toNat gr → gr.st = .frozen → x.traps st h REGION_STATE (wd (g.toNat + 32 * 4))) ∧
    (∀ gr, x.names g.toNat gr → gr.st = .waiting →
      (x.ready (usesOf ld) h → exec ld x.s = .next x.s) ∧ (x.ready (usesOf st) h → exec st x.s = .next x.s)) ∧
    (∀ gr, x.holds g.toNat gr → gr.kind ≠ .x →
      x.traps st h REFUSED_KIND (wd (g.toNat + 32 * kindNum gr.kind + 256))) ∧
    (∀ gr, x.reads g.toNat gr →
      x.placeTraps ld h g.toNat gr.len z imm.toNat b ∧ x.placeTraps (.ldp h d g b fe imm) h g.toNat gr.len 16 imm.toNat b) ∧
    (∀ gr (op : AtOp), x.holds g.toNat gr →
      (gr.kind = .x → x.placeTraps st h g.toNat gr.len z imm.toNat b ∧
        x.placeTraps (.stp h d g b fe imm) h g.toNat gr.len 16 imm.toNat b) ∧
      (gr.kind ≠ .s → x.placeTraps (.atom h d g b op t) h g.toNat gr.len z 0 b) ∧
      (gr.kind = .a → x.placeTraps (.ratom h d g b op t) h g.toNat gr.len z 0 b)) ∧
    (∀ op : AtOp, x.placeTraps (.lds h d b t fe imm) h 31 x.scr z imm.toNat b ∧
      x.placeTraps (.sts h d b t fe imm) h 31 x.scr z imm.toNat b ∧ x.placeTraps (.atoms h d b op t) h 31 x.scr z 0 b) ∧
    (∀ (c : SReg),
      let desc := (x.sreg c.toNat).toNat
      let fc := desc % 32
      let i := Instr.rst h g b d c
      (24 ≤ fc ∨ desc / 32 % 8 ≠ 0 → x.traps i h RESERVED_FIELD 0) ∧
      (∀ gr, fc < 24 → desc / 32 % 8 = 0 → x.holds g.toNat gr →
        (gr.kind ≠ .x → x.traps i h REFUSED_KIND (wd (g.toNat + 32 * kindNum gr.kind + 256))) ∧
        (gr.kind = .x →
          (∀ l, x.firstOut h gr.len 8 0 b l → x.traps i h REFUSED_BOUNDS (laneInfo g.toNat l 0 (x.off b 8 0 l))) ∧
          (∀ gf, x.within h gr.len 8 0 b → x.holds fc gf →
            (gf.kind ≠ .a ∨ gf.home ≠ gr.home → x.traps i h REFUSED_KIND (wd (fc + 32 * kindNum gf.kind + 256 * 8))) ∧
            (gf.kind = .a → gf.home = gr.home →
              (gf.len < 8 * (desc / 256) + 8 → x.traps i h REFUSED_BOUNDS (laneInfo fc 0 0 (8 * (desc / 256)))) ∧
              (8 * (desc / 256) + 8 ≤ gf.len → ∀ l, x.firstSkew h 8 0 b l →
                x.traps i h MISALIGNED (laneInfo g.toNat l 0 (x.off b 8 0 l))))))))

/-! Region and ordering words (R164 to R171, R208 to R213) -/

/-- R158, R165: BRW with a 256 B aligned base and length, into an EMPTY register, over a range that Table 7.6 does not turn
away: the register becomes WAITING, and the request goes to the home, at once if that is the issuing die and otherwise by
rein message; with .sf the scoreboard holds sf. Otherwise it traps, in R165's order, with the reasons 1 to 6 of Table 7.6, of
which the lowest is reported but for a range of Slate that is both the Geode store's and unbacked at its end (reason 6, log entry
116), a RETURNING register makes it wait, and .try is no form of determinism mode. -/
def Obligations.BorrowWords : Prop :=
  ∀ (x : Iss) (h : Hd) (d : GCode) (a b : SReg) (tryIt : Bool) (k : Kind), x.live →
    let i := Instr.brw h d a b tryIt k
    let c := d.toNat
    let va := (x.sreg a.toNat).toNat
    let len := (x.sreg b.toNat).toNat
    let lenOk := len ≠ 0 ∧ len % 256 = 0 ∧ len ≤ 2 ^ 40
    (tryIt = true → x.det = true → x.traps i h RESERVED_FIELD 5) ∧
    (tryIt = false ∨ x.det = false →
      (∀ f, x.s.regFaults.find? (fun f => f.1 == x.regRef c) = some (x.regRef c, f) → x.trapsHeld i h c f) ∧
      (x.unfaulted c →
        (va % 256 ≠ 0 → x.traps i h MISALIGNED (wd (16 * c + 1))) ∧
        (va % 256 = 0 → ¬ lenOk → x.traps i h MISALIGNED (wd (16 * c + 2))) ∧
        (va % 256 = 0 → lenOk →
          (∀ g, x.s.reg? (x.regRef c) = some g →
            (g.st = .returning → x.waits i h) ∧
            (g.st ≠ .returning → x.traps i h REGION_STATE (wd (c + 32 * g.st.code)))) ∧
          (x.s.reg? (x.regRef c) = none →
            (x.c.map? va len = none → x.traps i h GRANT_FAILED (wd (16 * c + 1))) ∧
            (∀ m, x.c.map? va len = some m → !(m.w0.getLsbD 0 && (k == .s || m.w0.getLsbD 1)) →
              x.traps i h GRANT_FAILED (wd (16 * c + 2))) ∧
            (∀ m, x.c.map? va len = some m → (m.w0.getLsbD 0 && (k == .s || m.w0.getLsbD 1)) = true →
              let ia := m.ia va
              let last := ia + len - 1
              let cut := if 8 ≤ iaSpace ia then 34 else 44
              let slate := (iaSpace ia = 1 ∧ k ≠ .s) ∨ (iaSpace ia = 1 ∧ iaDie ia < 8 ∧
                2 ^ 28 - (x.s.die (iaDie ia)).gmib * 2 ^ 20 ≤ last % 2 ^ 28 ∧ unbacked last = false)
              let gone := iaSpace ia < 8 ∧ iaDie ia < 8 ∧ (x.s.die (iaDie ia)).retired = true
              let hole := unbacked ia = true ∨ unbacked last = true ∨ (iaSpace ia = 2 ∧ ia / 2 ^ 38 ≠ last / 2 ^ 38)
              (ia / 2 ^ cut ≠ last / 2 ^ cut → x.traps i h GRANT_FAILED (wd (16 * c + 3))) ∧
              (ia / 2 ^ cut = last / 2 ^ cut →
                (slate → x.traps i h GRANT_FAILED (wd (16 * c + 4))) ∧
                (¬ slate → gone → x.traps i h GRANT_FAILED (wd (16 * c + 5))) ∧
                (¬ slate → ¬ gone → hole → x.traps i h GRANT_FAILED (wd (16 * c + 6))))) ∧
            (∀ ia, x.s.brwReason x.c va len k = (0, ia) →
              let g := x.asked h c k va len ia
              let q := x.asks k len ia tryIt
              let s : State := { x.s with nextUid := x.s.nextUid + 2, grants := x.s.grants ++ [g] }
              let w := if h.x = 4 then { x.w with vpend := x.w.vpend ++ [⟨g.gid, [.sf], none⟩] } else x.w
              (g.home = x.g.die → x.does i h (s.setDie g.home { s.die g.home with incoming := (s.die g.home).incoming ++ [q] }) w) ∧
              (g.home ≠ x.g.die → x.does i h (s.sendRein x.g.die g.home x.w.uid (.request q)) w))))))

/-- R166, R167: RBRW and SPLIT turn parts of an X grant into WAITING children; the parent becomes LENT, or FROZEN for a
child of kind S, and counts them. SPLIT cuts it into k equal parts and gives part i to register d of wave i (.w) or to
register d + i (.r); it waits for a WAITING source, and the trap of a source that is not HELD names the wave of its first target
(Table 7.4). -/
def Obligations.ChildWords : Prop :=
  ∀ (x : Iss) (h : Hd) (d a : GCode) (p : Grant), x.live → x.names a.toNat p →
    (∀ (b : SReg) (k : Kind),
      let i := Instr.rbrw h d a b k
      let off_ := (x.sreg b.toNat).toNat
      let len := (x.sreg (b.toNat + 1)).toNat
      x.unfaulted d.toNat →
      (p.st = .held ∧ p.kind ≠ .x → x.traps i h REFUSED_KIND (wd (a.toNat + 32 * kindNum p.kind + 256 * 6))) ∧
      (p.st = .held ∨ (k = .s ∧ p.st = .frozen) → p.kind = .x →
        (off_ % 256 ≠ 0 → x.traps i h MISALIGNED (wd (16 * d.toNat + 1))) ∧
        (off_ % 256 = 0 → len = 0 ∨ len % 256 ≠ 0 → x.traps i h MISALIGNED (wd (16 * d.toNat + 2))) ∧
        (off_ % 256 = 0 → len ≠ 0 → len % 256 = 0 →
          (p.len < off_ + len → x.traps i h REFUSED_BOUNDS (laneInfo a.toNat 0 0 off_)) ∧
          (off_ + len ≤ p.len → ∀ g, x.s.reg? (x.regRef d.toNat) = some g →
            x.traps i h REGION_STATE (wd (d.toNat + 32 * g.st.code))) ∧
          (off_ + len ≤ p.len → x.s.reg? (x.regRef d.toNat) = none →
            ∃ c, ChildOf p c x.s.nextUid (x.regRef d.toNat) k off_ len (x.widx a.toNat) ∧
              let p' := { p with st := if k = .s then .frozen else .lent, children := p.children + 1 }
              x.does i h { x.s with nextUid := x.s.nextUid + 1, grants := (x.s.setGrant p').grants ++ [c] } x.w)))) ∧
    (∀ (toRegs : Bool) (k : BitVec 6),
      let i := Instr.split h d a toRegs k
      (p.st = .waiting → x.waits i h) ∧
      (p.st ≠ .held → p.st ≠ .waiting → x.traps i h REGION_STATE
        (wd (a.toNat + 32 * p.st.code + if toRegs then 8192 * (x.widx d.toNat % 512) else 0))) ∧
      (p.st = .held → p.kind ≠ .x → x.traps i h REFUSED_KIND (wd (a.toNat + 32 * kindNum p.kind + 256 * 6)))) ∧
    (∀ (toRegs : Bool) (k : BitVec 6) (tgt : Nat → RegRef), p.st = .held → p.kind = .x →
      let i := Instr.split h d a toRegs k
      let n := k.toNat
      (p.len % (256 * n) ≠ 0 → x.traps i h MISALIGNED (wd (16 * a.toNat + 2))) ∧
      (p.len % (256 * n) = 0 →
        (∀ j < n, if toRegs then tgt j = x.regRef (d.toNat + j) else
          ∃ w, x.s.waveAt? x.g.uid j = some w ∧ tgt j = { grp := false, owner := w.uid, code := d.toNat }) →
        (∀ j < n, x.vacant (tgt j)) →
        ∃ cs : List Grant, cs.length = n ∧
          (∀ j c, cs[j]? = some c →
            ChildOf p c (x.s.nextUid + j) (tgt j) .x (j * (p.len / n)) (p.len / n) (x.widx a.toNat)) ∧
          let p' := { p with st := .lent, children := n }
          x.does i h { x.s with nextUid := x.s.nextUid + n, grants := (x.s.setGrant p').grants ++ cs } x.w) ∧
      (p.len % (256 * n) = 0 → 0 < n → toRegs = false → x.s.waveAt? x.g.uid 0 = none →
        x.traps i h REGION_STATE (wd (d.toNat + 32 * 7))))

/-- R168 to R170: JOIN waits for the children of its register, and then makes a LENT one HELD with its sector's next tag;
RTN of a HELD grant begins its return, of a WAITING register withdraws its request, and of an EMPTY register does nothing; RGMV makes register a EMPTY and register d
WAITING for the same grant. States that a word does not take trap REGION_STATE, and a deferred fault that the register
holds is trapped first (R158). That the withdrawn request leaves every queue in the same step, and takes the pending write of sf
with it, is the model's choice (log entries 44 and 97). -/
def Obligations.JoinReturnMove : Prop :=
  ∀ (x : Iss) (h : Hd) (a : GCode), x.live →
    let c := a.toNat
    let r := x.regRef c
    (∀ f, x.s.regFaults.find? (fun f => f.1 == r) = some (r, f) →
      x.trapsHeld (.join h a) h c f ∧ x.trapsHeld (.rtn h a) h c f) ∧
    (x.vacant r → x.traps (.join h a) h REGION_STATE (wd c) ∧ x.does (.rtn h a) h x.s x.w) ∧
    (∀ g, x.names c g →
      (g.st = .returning → x.traps (.join h a) h REGION_STATE (wd (c + 32 * 5))) ∧
      (g.st = .waiting ∨ (g.st ≠ .returning ∧ g.children ≠ 0) → x.waits (.join h a) h) ∧
      (g.st = .held ∨ g.st = .frozen → g.children = 0 → x.does (.join h a) h x.s x.w) ∧
      (g.st = .lent → g.children = 0 →
        let at_ := x.s.holderAt r
        let n := x.s.tagNow at_
        (¬ x.s.tagReady at_ → x.waits (.join h a) h) ∧
        (x.s.tagReady at_ → ∃ t, x.s.newTag? at_.1 at_.2 [g.tag] g.ia g.len = some (t, n) ∧
          x.does (.join h a) h (t.setGrant { g with st := .held, tag := n }) x.w ∧
          (at_.1 < x.s.dies.length → (t.die at_.1).tags = (x.s.die at_.1).tags.set at_.2 ((n + 1) % 4096) ∧
            (t.die at_.1).sweeping = (x.s.die at_.1).sweeping ++ [(at_.2, (n + 256) % 4096)]))) ∧
      (g.st = .lent ∨ g.st = .frozen → x.traps (.rtn h a) h REGION_STATE (wd (c + 32 * g.st.code))) ∧
      (g.st = .held → x.s.grant? g.gid = some g → x.does (.rtn h a) h
        (x.s.setGrant { g with st := .returning, by_ := x.w.uid }) x.w) ∧
      (g.st = .returning → x.s.grant? g.gid = some g → x.does (.rtn h a) h x.s x.w) ∧
      (g.st = .waiting → x.s.grant? g.gid = some g →
        let drop (w : Wave) : Wave := { w with vpend := w.vpend.filter fun v => !(v.id == g.gid) }
        let gone : Grant := { g with st := .returning, derive := none, by_ := x.w.uid }
        ((∃ fresh, g.derive = some (.moved fresh)) →
          x.does (.rtn h a) h { x.s.setGrant gone with waves := x.s.waves.map drop } (drop x.w)) ∧
        ((∀ fresh, g.derive ≠ some (.moved fresh)) → ∃ t : State,
          x.does (.rtn h a) h t (drop x.w) ∧ t.grants = (x.s.setGrant { gone with returned := g.entry.isNone }).grants ∧
            t.waves = x.s.waves.map drop ∧ (∀ q ∈ t.ebq, q.who ≠ .grant g.gid) ∧
            (∀ d ∈ t.dies, (∀ q ∈ d.bq, q.who ≠ .grant g.gid) ∧ (∀ q ∈ d.incoming, q.who ≠ .grant g.gid) ∧
              ∀ e ∈ d.answers, e.req.who ≠ .grant g.gid) ∧
            (∀ m ∈ t.reins, ∀ q, m.kind = .request q → q.who ≠ .grant g.gid))) ∧
      (∀ (d : GCode) (b : SReg) (t : RegRef),
        let i := Instr.rgmv h d a b
        let n := if d.toNat < 16 then (x.sreg b.toNat).toNat else 0
        (g.st = .waiting → x.waits i h) ∧
        (g.st ≠ .waiting → (g.st ≠ .held ∨ g.children ≠ 0) →
          x.traps i h REGION_STATE (wd (c + 32 * g.st.code + 8192 * (n % 512)))) ∧
        (g.st = .held → g.children = 0 →
          (d.toNat < 16 → x.s.waveAt? x.g.uid n = none →
            x.traps i h REGION_STATE (wd (d.toNat + 32 * 7 + 8192 * (n % 512)))) ∧
          ((if 16 ≤ d.toNat then t = x.regRef d.toNat else
              ∃ w, x.s.waveAt? x.g.uid n = some w ∧ t = { grp := false, owner := w.uid, code := d.toNat }) → x.vacant t →
            ∃ fresh, (fresh = false ↔ r.grp = false ∧ t.grp = false ∧ ∃ v, x.s.wave? t.owner = some v ∧ v.core = x.w.core) ∧
              x.does i h (x.s.setGrant { g with reg := t, st := .waiting, derive := some (.moved fresh) }) x.w))))

/-- R171, Table 7.7: RGQ writes base, length and report word of a region register to s(d), s(d+1) and s(d+2), results that
the scoreboard holds; an EMPTY register reports 0, 0 and 0x0000_00F0_0000_07F0, with the scope bit for a q register. -/
def Obligations.RegionReports : Prop :=
  ∀ (x : Iss) (h : Hd) (d : SReg) (a : GCode), x.live → d ≠ 0 → x.ready (usesOf (.rgq h d a)) h →
    let n := d.toNat
    ∃ w, exec (.rgq h d a) x.s = .next (x.after (.rgq h d a) h .scalar (x.active h).length
        { x.s with nextUid := x.s.nextUid + 1 } w .next) ∧
      w = { x.w with sregs := w.sregs,
                     vpend := x.w.vpend ++ [⟨x.s.nextUid, [.sreg n, .sreg (n + 1), .sreg (n + 2)], none⟩] } ∧
      (∀ k, k < n ∨ n + 2 < k → w.sget k = x.w.sget k) ∧
      (x.s.reg? (x.regRef a.toNat) = none → w.sget n = 0 ∧ w.sget (n + 1) = 0 ∧
        w.sget (n + 2) = if a.toNat < 16 then 0x000000F0000007F0 else 0x000000F0000007F8) ∧
      (∀ g, x.s.reg? (x.regRef a.toNat) = some g → w.sget n = g.va ∧ w.sget (n + 1) = wd g.len ∧
        ∀ home, (8 ≤ g.home → home = 8) → (g.home < 8 → virtDie? x.c.vdies g.home = some home ∨
            (virtDie? x.c.vdies g.home = none ∧ home = 9)) →
          let scope := if a.toNat < 16 then 0 else 1
          (g.parent = none → w.sget (n + 2) =
            reportWord g.tag home g.children 0 31 (kindNum g.kind) scope g.st.code) ∧
          (∀ u pw pr, g.parent = some (u, pw, pr) → pr < 32 → w.sget (n + 2) =
            reportWord g.tag home g.children pw pr (kindNum g.kind) scope g.st.code))

/-- R208 to R210, R213: FENCE and CWAIT hold the wave, CWAIT for the batches up to min(S[a], B(W)); CSEAL raises B(W) and
writes it; STMPW holds a wave that does not hold the stamp, and STMPP begins to pass it, with the traps of R213's table. -/
def Obligations.OrderingWords : Prop :=
  ∀ (x : Iss) (h : Hd), x.live →
    (∀ sc, x.does (.fence h sc) h { x.s with nextUid := x.s.nextUid + 1 } { x.w with hold := .fence sc x.s.nextUid }) ∧
    (∀ a : SReg, x.does (.cwait h a) h x.s { x.w with hold := .cwait (min (x.sreg a.toNat).toNat x.w.batch.toNat) }) ∧
    (∀ d : SReg, x.ready (usesOf (.cseal h d)) h → ∃ w,
      exec (.cseal h d) x.s = .next (x.after (.cseal h d) h .scalar (x.active h).length
        { x.s with nextUid := x.s.nextUid + 1 } w .next) ∧
      w = { x.w with sregs := w.sregs, batch := x.w.batch + 1,
                     vpend := x.w.vpend ++ [⟨x.s.nextUid, [.sreg d.toNat], none⟩] } ∧
      (d ≠ 0 → w.sget d.toNat = x.w.batch + 1) ∧ ∀ k, k ≠ d.toNat → w.sget k = x.w.sget k) ∧
    (x.det = false → x.does (.stmpw h) h x.s x.w ∧ x.does (.stmpp h) h x.s x.w) ∧
    (x.det = true → x.stampHere → x.does (.stmpw h) h x.s x.w ∧
      ∀ st, x.k.stamp = some st → x.does (.stmpp h) h
        (({ x.s with nextUid := x.s.nextUid + 1 } : State).setKernel
          { x.k with stamp := some { st with passing := some x.s.nextUid } }) { x.w with passed := true }) ∧
    (x.det = true → ¬ x.stampHere → x.traps (.stmpp h) h STAMP_ORDER 1 ∧
      (x.w.passed = true → x.traps (.stmpw h) h STAMP_ORDER 2) ∧
      (x.w.passed = false → x.does (.stmpw h) h x.s { x.w with hold := .stmpw }))

/-! Barriers, channels and copies (R217 to R247) -/

/-- R220, R223 to R227: what the five barrier words do in each state of Table 10.2, with their traps. BARR's arrival takes
effect at once when the wave has no older outbox entry, and otherwise waits for O7; the old phase goes to S[d]. R219, R220:
a phase is complete when an event of the clk has acted on an ARMED barrier with ARRIVED = COUNT and PENDING = 0: the barrier becomes COMPLETE, PHASE inverts, ARRIVED becomes 0 and PENDING the reload value; waves of the
group that wait for it are released at the next clk, or 12 clk later when the group spans cores. -/
def Obligations.BarrierWords : Prop :=
  (∀ (x : Iss) (h : Hd) (name : BitVec 11), x.live →
    let n := name.toNat
    let old := x.g.bar? n
    let ovf (r : Nat) : Word := wd (n + 4096 * r)
    (∀ a : SReg,
      let i := Instr.binit h a name
      let c := fld (x.sreg a.toNat) 0 16
      let p := fld (x.sreg a.toNat) 16 24
      (∀ b, old = some b → b.st = 1 → ¬ b.untouched → x.traps i h BAR_OVERFLOW (ovf 4)) ∧
      ((∀ b, old = some b → b.st = 1 → b.untouched) →
        (c = 0 → x.traps i h BAR_OVERFLOW (ovf 2)) ∧
        (c ≠ 0 → old = none → 2048 ≤ x.s.physBars x.g → x.waits i h) ∧
        (c ≠ 0 → old ≠ none ∨ x.s.physBars x.g < 2048 →
          let b : Bar := { name := n, st := 1, phase := (old.map (·.phase)).getD false, pending := p, arrived := 0,
                           count := c, reload := p, acted := true }
          x.does i h (x.s.setGroup (x.g.setBar b)) x.w))) ∧
    (∀ (d : SReg) (wait : Bool),
      let i := Instr.barr h d wait name
      (old = none → x.traps i h BAR_OVERFLOW (ovf 5)) ∧
      (∀ b, old = some b →
        (b.st = 1 → b.arrived = b.count → x.traps i h BAR_OVERFLOW (ovf 3)) ∧
        (¬ (b.st = 1 ∧ b.arrived = b.count) → ∃ w : Wave, x.Late d.toNat (wd (b2n b.phase)) w ∧
          let v := { w with hold := if wait then .barrier n true none else .none }
          let b' := { b with st := if b.st = 2 then 1 else b.st, arrived := if b.st = 2 then 1 else b.arrived + 1, acted := true }
          (x.w.outbox = [] → x.does i h ((x.named 1).setGroup (x.g.setBar b')) v) ∧
          (x.w.outbox ≠ [] →
            x.does i h (x.named 2) { v with arrives := x.w.arrives ++ [(n, x.s.nextUid + 1)] })))) ∧
    (∀ a : SReg,
      let i := Instr.bexp h a name
      (old = none → x.traps i h BAR_OVERFLOW (ovf 5)) ∧
      (∀ b, old = some b →
        let p := b.pending + (x.sreg a.toNat).toNat
        (16777215 < p → x.traps i h BAR_OVERFLOW (ovf 0)) ∧
        (p ≤ 16777215 → x.does i h (x.s.setGroup (x.g.setBar { b with st := 1, pending := p, acted := true })) x.w))) ∧
    (∀ a : SReg,
      (∀ b, old = some b → a ≠ 0 → b.phase ≠ (x.sreg a.toNat).getLsbD 0 →
        x.does (.bwait h a name) h x.s { x.w with hold := .none }) ∧
      ((∀ b, old = some b → a ≠ 0 → b.phase = (x.sreg a.toNat).getLsbD 0) →
        x.does (.bwait h a name) h x.s { x.w with hold := .barrier n false none })) ∧
    (∀ d a : SReg, x.ready (usesOf (.btest h d a name)) h → ∃ w,
      exec (.btest h d a name) x.s = .next (x.after (.btest h d a name) h .scalar (x.active h).length (x.named 1) w .next) ∧
      (d ≠ 0 → w.sget d.toNat = match old with
        | none => 0
        | some b => wd (b.st * 2 ^ 57 + b2n b.phase * 2 ^ 56 + b.pending * 2 ^ 32 + b.arrived % 65536 * 65536 + b.count)) ∧
      (∀ k, k ≠ d.toNat → w.sget k = x.w.sget k) ∧
      w.sf = (if h.x = 4 then x.w.sf &&& ~~~0xF#64 |||
        (if (old.map (·.phase)).getD false = (x.sreg a.toNat).getLsbD 0 then 0 else 4) else x.w.sf) ∧
      w = { x.w with sregs := w.sregs, sf := w.sf,
                     vpend := x.w.vpend ++ [⟨x.s.nextUid, [.sreg d.toNat] ++ (if h.x = 4 then [.sf] else []), none⟩] })) ∧
  (∀ (s : State) (g : Group) (b : Bar), s.group? g.uid = some g → g.bar? b.name = some b →
    let at_ := s.clk + (if g.cores.length = 1 then 1 else 12)
    (b.acted = false → s.completeBar g.uid b.name = s) ∧
    (b.acted = true → ¬ (b.st = 1 ∧ b.arrived = b.count ∧ b.pending = 0) →
      s.completeBar g.uid b.name = s.setGroup (g.setBar { b with acted := false })) ∧
    (b.acted = true → b.st = 1 → b.arrived = b.count → b.pending = 0 →
      let b' := { b with st := 2, phase := !b.phase, arrived := 0, pending := b.reload, acted := false }
      let t := s.completeBar g.uid b.name
      t = { s.setGroup (g.setBar b') with waves := t.waves } ∧ t.waves.length = s.waves.length ∧
      ∀ (j : Nat) (v : Wave), t.waves[j]? = some v → ∃ w : Wave, s.waves[j]? = some w ∧ v = { w with hold := v.hold } ∧
        (w.group = g.uid → ∀ own, w.hold = .barrier b.name own none →
          (own = true → ∀ p ∈ w.arrives, p.1 ≠ b.name) → v.hold = .barrier b.name own (some at_)) ∧
        ((w.group ≠ g.uid ∨ ∀ own, w.hold ≠ .barrier b.name own none) → v.hold = w.hold)))

/-- R231 to R236: CHINIT makes an empty channel, with the traps of reasons 1 to 3; CHPUSH offers its bytes to every channel of
its mask and holds the wave; CHPOP waits while no entry is left to claim, and then claims the next, whose bytes V[d]
receives; CHSTAT reports. Words that name a channel without a CHINIT trap CHANNEL_MISUSE, reason 0. -/
def Obligations.ChannelWords : Prop :=
  ∀ (x : Iss) (h : Hd), x.live →
    (∀ (d : BitVec 4) (a : SReg),
      let i := Instr.chinit h d a
      let n := d.toNat
      let v := x.sreg a.toNat
      let base := fld v 0 20
      let esz := fld v 20 3
      let cap := fld v 24 16
      let shape := fld v 40 24 = 0 ∧ v.getLsbD 23 = false ∧ esz ≤ 4 ∧ cap ≠ 0
      let fits := base % 16 = 0 ∧ base + cap * (16 * 2 ^ esz) ≤ x.scr
      (¬ shape → x.traps i h CHANNEL_MISUSE (wd (n + 16 * 1))) ∧
      (shape → ¬ fits → x.traps i h CHANNEL_MISUSE (wd (n + 16 * 2))) ∧
      (shape → fits →
        (∀ c, x.g.chan? n = some c → x.chanBusy c → x.traps i h CHANNEL_MISUSE (wd (n + 16 * 3))) ∧
        (x.g.chan? n = none → 16 ≤ x.s.physChans x.g → x.waits i h) ∧
        ((∀ c, x.g.chan? n = some c → ¬ x.chanBusy c) → (x.g.chan? n ≠ none ∨ x.s.physChans x.g < 16) →
          let c : Chan := { ch := n, base := base, esz := esz, cap := cap, p := 0, q := 0, v := 0, claims := 0, written := [],
                            read := [] }
          x.does i h (x.s.setGroup (x.g.setChan c)) x.w))) ∧
    (∀ (a : VCode) (b : SReg),
      let i := Instr.chpush h a b
      let named (n : Nat) := n < 16 ∧ (x.sreg b.toNat).getLsbD n = true
      (∀ n, named n → x.g.chan? n = none → (∀ m < n, named m → x.g.chan? m ≠ none) →
        x.traps i h CHANNEL_MISUSE (wd n)) ∧
      ((∀ n, ¬ named n) → x.ready (usesOf i) h →
        exec i x.s = .next (x.after i h (.vfix 1) (x.active h).length x.s x.w .next)) ∧
      ((∀ n, named n → x.g.chan? n ≠ none) → (∃ n, named n) → x.ready (usesOf i) h → ∃ es : List OEnt,
        exec i x.s = .next (x.after i h (.vfix 1) (x.active h).length (x.named 1)
          { x.w with outbox := x.w.outbox ++ es, hold := .chpush x.s.nextUid } .next) ∧
        ∀ e, e ∈ es ↔ ∃ n c, named n ∧ x.g.chan? n = some c ∧ e = x.entry 31 (.sp x.g.uid) (.chan n
          (((List.range 32).flatMap fun l => leBytes 8 (x.vreg a.toNat l).toNat).take c.size)))) ∧
    (∀ (d : VCode) (a : BitVec 4),
      let i := Instr.chpop h d a
      let n := a.toNat
      (x.g.chan? n = none → x.traps i h CHANNEL_MISUSE (wd n)) ∧
      (∀ c, x.g.chan? n = some c → c.fill ≤ c.claims → x.waits i h) ∧
      (∀ c, x.g.chan? n = some c → c.claims < c.fill → x.ready (usesOf i) h →
        let ix := c.q + BitVec.ofNat 32 c.claims
        let byte (k : Nat) : Byte :=
          if k < c.size then x.s.byteAt (x.g.spKey (c.base + ix.toNat % c.cap * c.size + k)) else 0
        ∃ w : Wave, exec i x.s = .next (x.after i h (.vfix 1) (x.active h).length
            ((x.named 1).setGroup (x.g.setChan { c with claims := c.claims + 1 })) w .next) ∧
          w = { x.w with win := w.win, vpend := x.w.vpend ++
                [⟨x.s.nextUid, (x.frame.locs? (.v d.toNat 1)).getD [], some (n, ix)⟩] } ∧
          (∀ l < 32, wget w.win (x.frame.vslot d.toNat + l) = wd (leNat ((List.range 8).map fun k => byte (8 * l + k)))) ∧
          ∀ k, (k < x.frame.vslot d.toNat ∨ x.frame.vslot d.toNat + 32 ≤ k) → wget w.win k = wget x.w.win k)) ∧
    (∀ (d : SReg) (a : BitVec 4), ∃ w : Wave, x.does (.chstat h d a) h (x.named 1) w ∧
      x.Late d.toNat (match x.g.chan? a.toNat with
        | none => 0
        | some c => wd (2 ^ 63 + c.esz * 2 ^ 56 + c.cap * 2 ^ 40 + c.fill % 65536 * 2 ^ 24 +
            min (x.s.ops.filter fun o => o.group == x.g.uid && o.chans.contains a.toNat && !o.fired &&
              (x.s.core o.core).engineQ.contains o.id).length 255 * 65536 +
            c.q.toNat % c.cap)) w)

/-- R239 to R247: COPY, COPY2, GATH, SCAT and ROUTE whose operands are well formed, whose endpoints may be used and hold their
ranges, and whose flag follows the flag rule, enter the engine queue; they wait while it holds 64 operations. Malformed
control words and descriptors trap RESERVED_FIELD, a copy from a channel to itself CHANNEL_MISUSE, reason 7. That these traps
come before the wait for a full queue is the model's choice (log entry 58). -/
def Obligations.CopyWords : Prop :=
  ∀ (x : Iss) (h : Hd) (d a : Endp) (b c : SReg), x.live →
    let ctl := x.sreg c.toNat
    let r (k : Nat) : Word := x.sreg (b.toNat + k)
    let do_ := (r 0).toNat
    let so := (r 1).toNat
    let n := fld (r 2) 0 32
    (fld (r 2) 32 32 = 0 →
      x.copies (.copy h d a b c) h .copy d a ctl [do_, so] n (some (do_, n)) (some (so, n)) none) ∧
    (let px := fld (r 2) 0 24
     let py := fld (r 2) 24 16
     let pz := fld (r 2) 40 16
     let dr := fld (r 3) 0 32
     let dp := fld (r 3) 32 32
     let sr := fld (r 4) 0 32
     let sp := fld (r 4) 32 32
     fld (r 2) 56 8 = 0 → px ≠ 0 → py ≠ 0 → pz ≠ 0 →
      x.copies (.copy2 h d a b c) h .copy2 d a ctl [do_, so, px, py, pz, dr, dp, sr, sp] (px * py * pz)
        (some (do_, (pz - 1) * dp + (py - 1) * dr + px)) (some (so, (pz - 1) * sp + (py - 1) * sr + px)) none) ∧
    (let code := fld (r 1) 0 4
     let z := 2 ^ code
     let io := fld (r 2) 32 32
     code ≤ 8 → io % 4 = 0 →
      x.copies (.gath h d a b c) h .gath d a ctl [do_, so - code, io, n, z] (n * z) (some (do_, n * z)) none
        (some (io, 4 * n)) ∧
      x.copies (.scat h d a b c) h .scat d a ctl [do_, so - code, io, n, z] (n * z) none (some (so - code, n * z))
        (some (io, 4 * n))) ∧
    (¬ ctlOk ctl → x.traps (.copy h d a b c) h RESERVED_FIELD 0 ∧ x.traps (.copy2 h d a b c) h RESERVED_FIELD 0 ∧
      x.traps (.gath h d a b c) h RESERVED_FIELD 0 ∧ x.traps (.scat h d a b c) h RESERVED_FIELD 0) ∧
    (ctlOk ctl → fld (r 2) 32 32 ≠ 0 → x.traps (.copy h d a b c) h RESERVED_FIELD 9) ∧
    (ctlOk ctl → 8 < fld (r 1) 0 4 → x.traps (.gath h d a b c) h RESERVED_FIELD 9 ∧
      x.traps (.scat h d a b c) h RESERVED_FIELD 9) ∧
    (∀ ch : BitVec 4, ctlOk ctl → fld (r 2) 32 32 = 0 → d = .chan ch → a = .chan ch →
      x.side d true (some (do_, n)) n (.chan ch.toNat) →
      x.traps (.copy h d a b c) h CHANNEL_MISUSE (wd (ch.toNat + 16 * 7))) ∧
    (∀ sd sa : SReg,
      let i := Instr.route h sd sa b c
      let v := x.sreg b.toNat
      let t := fld v 0 16
      let k := fld v 16 4
      let e := fld v 20 12
      let cp := fld v 32 16
      let ci := (x.sreg sa.toNat).toNat
      let co := (x.sreg (sa.toNat + 1)).toNat
      let cd := (x.sreg (sa.toNat + 2)).toNat
      let len := 4 * e * (cp + 1) + 8 * t * k
      ctlOk ctl → ctl.getLsbD 17 = false → fld v 48 16 = 0 → t ≠ 0 → k ≠ 0 → k ≤ 8 → e ≠ 0 → cp ≠ 0 →
        ci % 16 = 0 → co % 16 = 0 → cd % 16 = 0 → ci + 2 * t * k ≤ x.scr → co + 4 * e * (cp + 1) ≤ x.scr →
        cd + 8 * t * k ≤ x.scr → (ctlBar ctl ≠ none → len ≤ pendingMax) →
        (64 ≤ x.core.engineQ.length → x.waits i h) ∧
        (x.core.engineQ.length < 64 → ∃ o, Issued x o .route .sp .sp [ci, co, cd, t, k, e, cp] len (ctlBar ctl) none ∧
          o.sreg = sd.toNat ∧ x.does i h (x.queued o)
            { x.w with vpend := x.w.vpend ++ [⟨x.s.nextUid, [.sreg sd.toNat], none⟩] }))

/-! Matrix words (R249 to R267) -/

/-- R253, R255, R257 to R259, R264: CVINIT sets a signer count, LACE a lacing descriptor, OBRES a reservation, OBLD queues the
bytes that it reads, OBREL ends a reservation, MWAIT holds the wave. Names in use, ranges that do not fit and malformed
operands trap; a core without a free record makes the word wait. That OBLD traps before it waits for a full queue is the model's
choice (log entry 58). -/
def Obligations.MatrixState : Prop :=
  ∀ (x : Iss) (h : Hd), x.live →
    (∀ (d : BitVec 4) (a : SReg),
      let i := Instr.cvinit h d a
      let v := (x.sreg a.toNat).toNat
      let ok := v = 1 ∨ v = 2 ∨ v = 4 ∨ v = 8
      (¬ ok → x.traps i h RESERVED_FIELD 18) ∧
      (∀ c, ok → x.g.cv? x.w.core d.toNat = some c → c.signed ≠ [] → x.traps i h GRANT_FAILED (wd (16 * (16 + d.toNat) + 15))) ∧
      (ok → (∀ c, x.g.cv? x.w.core d.toNat = some c → c.signed = []) →
        (x.g.cv? x.w.core d.toNat ≠ none ∨ x.s.onCore x.g.die x.w.core (fun g => g.cvs.map (·.core)) < 16) →
        x.does i h (x.s.setGroup (x.g.setCv { core := x.w.core, n := d.toNat, signers := v, signed := [], afield := 0,
                                              cfield := 0, word := 0 })) x.w)) ∧
    (∀ (d : BitVec 2) (a : SReg),
      let i := Instr.lace h d a
      let l : Lace := { core := x.w.core, n := d.toNat, w0 := x.sreg a.toNat, w1 := x.sreg (a.toNat + 1),
                        w2 := x.sreg (a.toNat + 2) }
      let rest := x.g.laces.filter fun y => !(y.core == l.core && y.n == l.n)
      (l.ok = false → x.traps i h RESERVED_FIELD 18) ∧
      (l.ok = true → (x.g.lace? l.core l.n ≠ none ∨ x.s.onCore x.g.die x.w.core (fun g => g.laces.map (·.core)) < 16) →
        x.does i h (x.s.setGroup { x.g with laces := rest ++ [l] }) x.w)) ∧
    (∀ (d : BitVec 3) (a b : SReg) (f : MFmt),
      let i := Instr.obres h d a b
      let n := d.toNat
      let rv := x.sreg a.toNat
      let lv := x.sreg b.toNat
      let base := fld rv 0 20
      let len := fld rv 20 20
      let ex := fld lv 8 19
      let clash (r : Res) : Prop := r.core = x.w.core ∧ r.base < base + len ∧ base < r.base + r.len
      (base % 256 ≠ 0 → x.traps i h MISALIGNED (wd (16 * n + 1))) ∧
      (base % 256 = 0 → len % 256 ≠ 0 ∨ len = 0 → x.traps i h MISALIGNED (wd (16 * n + 2))) ∧
      (base % 256 = 0 → len % 256 = 0 → len ≠ 0 → fld rv 40 24 = 0 →
        [MFmt.x8, .x4, .i8, .f16, .bf16, .f32][fld lv 0 3]? = some f → fld lv 27 37 = 0 → lv.getLsbD 7 = false → ex % 2 = 0 →
        (isDxb f = true ∨ (fld lv 3 4 = 0 ∧ ex = 0)) → base + len ≤ 524288 → x.g.res? x.w.core n = none →
        (∀ r ∈ x.g.ress, r.live = true → r.n ≠ n → ¬ clash r) →
        (∀ g ∈ x.s.groups, g.die = x.g.die → g.st = .placed ∨ g.st = .running ∨ g.st = .exiting → ∀ r ∈ g.ress, ¬ clash r) →
        x.s.onCore x.g.die x.w.core (fun g => g.ress.map (·.core)) < 32 →
        let r : Res := { core := x.w.core, n := n, base := base, len := len, fmt := f, la := BitVec.ofNat 2 (fld lv 3 2),
                         lb := BitVec.ofNat 2 (fld lv 5 2), expo := ex, live := true, uid := x.s.nextUid }
        x.does i h ((x.named 1).setGroup { x.g with ress := x.g.ress ++ [r] }) x.w)) ∧
    (∀ (d : BitVec 3) (a b : SReg),
      let i := Instr.obld h d a b
      let n := d.toNat
      let p := x.sreg b.toNat
      let at_ := fld p 0 20
      let count := fld p 20 20
      let so := fld (x.sreg a.toNat) 0 20
      let tn := fld (x.sreg a.toNat) 0 6
      let shape := fld p 41 23 = 0 ∧ count ≠ 0 ∧ count ≤ 524288
      x.ready (obldUses x.s i a b) h →
      (¬ shape → x.traps i h RESERVED_FIELD 9) ∧
      (shape → x.g.res? x.w.core n = none → x.traps i h GRANT_FAILED (wd (16 * n + 14))) ∧
      (∀ r, shape → x.g.res? x.w.core n = some r →
        (r.len < at_ + count → x.traps i h GRANT_FAILED (wd (16 * n + 13))) ∧
        (at_ + count ≤ r.len → p.getLsbD 40 = false → so + count ≤ x.scr →
          (16 ≤ x.core.matQ.length → x.waits i h) ∧
          (x.core.matQ.length < 16 →
            x.does i h (x.matQueued (x.named 1) (x.matEnt (.obld (some so) [] at_ count r.uid))) x.w)) ∧
        (at_ + count ≤ r.len → p.getLsbD 40 = true → viewT x.k.views ≠ 0x1FF → 256 * tn + count ≤ 16384 →
          tileByte x.k.views tn + count ≤ x.k.win * 256 → x.core.matQ.length < 16 →
          x.does i h (x.matQueued (x.named 1) (x.matEnt (.obld none (x.tileBytes tn count) at_ count r.uid))) x.w))) ∧
    (∀ d : BitVec 3, ∃ t, x.does (.obrel h d) h t x.w ∧ t.waves = x.s.waves ∧ t.mem = x.s.mem ∧
      ∀ g, t.group? x.g.uid = some g → g.res? x.w.core d.toNat = none) ∧
    x.does (.mwait h) h x.s { x.w with hold := .mwait }

/-- R253, R254, R260, R262, R265: an MMA whose operands fit is one signature. Until the convergence register has as many as its
signer count, the signature is kept; the last one starts a new generation and puts the operation into the core's matrix
queue. An MDRAIN of accumulators that wait for no matrix work enters the queue. Both wait while it holds 16 entries. -/
def Obligations.MatrixWords : Prop :=
  ∀ (x : Iss) (h : Hd), x.live →
    (∀ (clr : Bool) (base : BitVec 6) (ob : BitVec 3) (ld : BitVec 2) (cv : BitVec 4) (b : SReg) (la lb : BitVec 2) (f : MFmt)
      (c : Cv) (l : Lace) (r : Res),
      let i := Instr.mma h clr base ob ld cv b la lb f
      let word := x.sreg b.toNat
      let code : BitVec 3 := match f with
        | .x8 => 0
        | .x4 => 1
        | .i8 => 2
        | .f16 => 3
        | .bf16 => 4
        | .f32 => 5
      let sg := c.signed ++ [⟨x.w.uid, x.p.pc, x.p.lanes, x.p.nest, x.w.index, base.toNat, clr, x.s.nextUid⟩]
      x.ready (mmaUses x.s i base cv) h → x.g.cv? x.w.core cv.toNat = some c → x.g.lace? x.w.core ld.toNat = some l →
        x.g.res? x.w.core ob.toNat = some r → x.MmaFits c l r base la lb f word → (∀ s ∈ c.signed, s.wave ≠ x.w.uid) →
        x.accFree base.toNat (64 / c.signers) →
        (c.signed = [] ∨ (c.afield = ob ++ ld ++ cv ∧ c.cfield = la ++ lb ++ (0 : BitVec 2) ++ code ∧ c.word = word)) →
        (sg.length < c.signers → exec i x.s = .next (x.after i h .scalar (x.active h).length
          ((x.named 1).setGroup (x.g.setCv { c with signed := sg, afield := ob ++ ld ++ cv,
                                                    cfield := la ++ lb ++ (0 : BitVec 2) ++ code, word := word }))
          x.w .next)) ∧
        (c.signers ≤ sg.length → 16 ≤ x.core.matQ.length → exec i x.s = .next x.s) ∧
        (c.signers ≤ sg.length → x.core.matQ.length < 16 → exec i x.s = .next (x.after i h .scalar (x.active h).length
          (x.matQueued ((x.named 1).setGroup (x.g.setCv { c with signed := [] }))
            (x.matEnt (.mma sg c.signers l r f la lb word none))) x.w .next))) ∧
    (∀ (clr : Bool) (base : BitVec 6) (ob : BitVec 3) (ld : BitVec 2) (cv : BitVec 4) (b : SReg) (la lb : BitVec 2) (f : MFmt),
      let i := Instr.mma h clr base ob ld cv b la lb f
      x.ready (mmaUses x.s i base cv) h → x.g.cv? x.w.core cv.toNat = none →
        exec i x.s = .next (x.trap h.sc.toNat GRANT_FAILED (wd (16 * (16 + cv.toNat) + 7)))) ∧
    (∀ (base : BitVec 6) (a b : SReg) (act res : Bool) (rm : Rm) (f : FType),
      let i := Instr.mdrain h base a b act res rm f
      let v0 := x.sreg a.toNat
      let v1 := x.sreg (a.toNat + 1)
      let v2 := x.sreg (a.toNat + 2)
      let v3 := x.sreg b.toNat
      let rows := fld v0 36 16
      let ostr := fld v0 20 16
      let ooff := fld v0 0 20
      let rstr := fld v1 20 16
      let roff := fld v1 0 20
      let z := if f = .f32 then 4 else 2
      x.ready (drainUses x.s i base a) h → fld v0 52 12 = 0 → (res = true → fld v1 36 28 = 0) → fld v2 56 8 = 0 →
        rows ≠ 0 → rows ≤ 64 → base.toNat + rows ≤ 64 → (x.frame.locs? (.acc base.toNat rows)).isSome = true →
        ooff % z = 0 → ostr % z = 0 → (res = true → roff % 4 = 0 ∧ rstr % 4 = 0) →
        ooff + ((rows - 1) * ostr + 64 * z) ≤ x.scr → (res = true → roff + ((rows - 1) * rstr + 256) ≤ x.scr) →
        (16 ≤ x.core.matQ.length → exec i x.s = .next x.s) ∧
        (x.accFree base.toNat rows → x.core.matQ.length < 16 → ∃ o,
          Issued x o .drain .sp .sp [] (rows * 64 * z) none none ∧
          exec i x.s = .next (x.after i h .scalar (x.active h).length
            (x.matQueued { x.named 1 with ops := x.s.ops ++ [o] } (x.matEnt (.mdrain base.toNat rows ooff ostr roff rstr
              (fld v2 32 24) (BitVec.ofNat 32 (fld v2 0 32)) (fld v3 40 24) (fld v3 0 20) (fld v3 20 20) act res rm f
              (x.core.selAt x.clk) [] x.s.nextUid))) x.w .next)))

/-! Hypervector words (R273 to R286) -/

/-- R274 to R281, R284: the unit words enter their core's unit queue, and wait while it holds eight operations; HCW also sets
the width that later words are checked against, and traps a view of counters that does not fit it; HLD and HST are one
load or one store of 1,024 bytes. That the traps of HCW, HSRCH and HSRCH2 come before the wait for a full queue is the model's choice
(log entry 58). -/
def Obligations.HypervectorWords : Prop :=
  ∀ (x : Iss) (h : Hd), x.live →
    (∀ d a b, x.units (.hbind h d a b) h x.w (.bind d.toNat a.toNat b.toNat)) ∧
    (∀ d a (b : SReg), x.units (.hperm h d a b) h x.w (.perm d.toNat a.toNat (x.sreg b.toNat).toNat)) ∧
    (∀ d a, x.units (.hbund h d a) h x.w (.bund d.toNat a.toNat)) ∧
    (∀ d a, x.units (.hthr h d a) h x.w (.thr d.toNat a.toNat)) ∧
    (∀ d, x.units (.hclr h d) h x.w (.clr d.toNat)) ∧
    (∀ d (a : SReg), x.units (.hset h d a) h x.w (.set d.toNat (x.sreg a.toNat))) ∧
    (∀ (d : SReg) a b, x.units (.hdist h d a b) h x.w (.dist d.toNat a.toNat b.toNat)) ∧
    (∀ (d : SReg) a, x.units (.hpop h d a) h x.w (.pop d.toNat a.toNat)) ∧
    (∀ a, x.units (.htie h a) h x.w (.tie a.toNat)) ∧
    (∀ w, let fits := (({ x.frame with ctrw := w } : Frame).locs? (.k 1)).isSome
      (fits = true → x.units (.hcw h w) h { x.w with ctrwNext := w } (.cw w)) ∧
      (fits = false → x.traps (.hcw h w) h RESERVED_FIELD 0)) ∧
    (∀ (d : SReg) a (b : SReg),
      let t := fld (x.sreg b.toNat) 0 3
      (fld (x.sreg b.toNat) 3 61 = 0 → x.units (.hsrch h d a b) h x.w (.srch d.toNat a.toNat t false) ∧
        x.units (.hsrch2 h d a b) h x.w (.srch d.toNat a.toNat t true)) ∧
      (fld (x.sreg b.toNat) 3 61 ≠ 0 → x.traps (.hsrch h d a b) h RESERVED_FIELD 9 ∧
        x.traps (.hsrch2 h d a b) h RESERVED_FIELD 9)) ∧
    (∀ d (a : Endp) (b : SReg) t at_ code free_,
      let o := (x.sreg b.toNat).toNat
      let miss := x.missing ⟨t, at_ - o, free_, code⟩ 0 1024 [at_]
      let slot := hSlot x.k.views d.toNat
      (x.hvSide a false o t at_ code free_ → x.entriesFree miss.length → x.does (.hld h d a b) h (x.taking miss.length)
        { x.w with loads := x.w.loads ++ [x.loadP code t 1024 [(0, at_)] (.hv (8 * slot)) false miss 0] }) ∧
      (x.hvSide a true o t at_ code free_ → x.free t 1024 [at_] → x.does (.hst h d a b) h (x.storing t free_ 0 1024 [at_])
        { x.w with outbox := x.w.outbox ++ [x.entry code t (.write at_
            ((List.range 128).flatMap fun j => leBytes 8 (x.w.readSlot x.clk (slot + j)).toNat) [])] }))

/-- R276 to R278, R280: the values of the unit's operations: HPERM rotates the 8,192 bits upward by n modulo 8,192, HBIND is
exclusive OR, HBUND adds 1 or −1 to each counter and saturates at ±(2^(n−1) − 1), HTHR gives each counter's sign and takes
the tie register's bit for 0, HPOP and HDIST count bits. -/
def Obligations.HypervectorValues : Prop :=
  (∀ (v : List Word) (n i : Nat), i < 8192 → hBit (perm v n) ((i + n) % 8192) = hBit v i) ∧
  (∀ (a b : List Word) (i : Nat), a.length = 128 → b.length = 128 → i < 8192 →
    hBit (xorHv a b) i = (hBit a i ^^ hBit b i)) ∧
  (∀ (c : CtrW) (k v : List Word) (i : Nat), k.length = 128 * ctrwBits c → i < 8192 →
    let m : Int := 2 ^ (ctrwBits c - 1) - 1
    let old := (bankCounters (ctrwBits c) k).getD i 0
    let sum := if hBit v i then old + 1 else old - 1
    (bankCounters (ctrwBits c) (bund (ctrwBits c) k v).1).getD i 0 = max (-m) (min m sum)) ∧
  (∀ (c : CtrW) (k tb : List Word) (i : Nat), i < 8192 →
    let v := (bankCounters (ctrwBits c) k).getD i 0
    hBit (thr (ctrwBits c) k tb) i = if v = 0 then hBit tb i else decide (0 < v)) ∧
  (∀ v : List Word, v.length = 128 → popHv v = ((List.range 8192).filter fun i => hBit v i).length)

/-! System words (R297, R298, R361 to R365) -/

/-- R103, R298: TRAP raises USER_TRAP with its immediate; MFS reads the special registers of R103; MTS writes the trap special registers,
masked to their widths, %tpc with bits 2 to 0 at 0; DIST gives a hop distance; HALT records its code and kills the
group; TRET outside a handler traps, and in one returns to %tpc or the word after it, with the loop nest that was set
aside, after which the partition merges by R76. -/
def Obligations.SystemWords : Prop :=
  ∀ (x : Iss) (h : Hd), x.live →
    (∀ imm : BitVec 18, x.traps (.trap h imm) h USER_TRAP (imm.setWidth 64)) ∧
    (∀ (d : BitVec 9) (a : Special), ∃ w : Wave, x.does (.mfs h d a true) h (x.named 1) w ∧
      x.Late d.toNat (x.special a 0) w) ∧
    (∀ (d : BitVec 9) (a : Special), x.ready (usesOf (.mfs h d a false)) h → ∃ w,
      exec (.mfs h d a false) x.s = .next (x.after (.mfs h d a false) h .vector (x.active h).length (x.named 1) w .next) ∧
      w = { x.w with win := w.win,
                     vpend := x.w.vpend ++ [⟨x.s.nextUid, (x.frame.locs? (.v d.toNat 1)).getD [], none⟩] } ∧
      (∀ l ∈ x.active h, wget w.win (x.frame.vslot d.toNat + l) = x.special a l) ∧
      ∀ k, (∀ l ∈ x.active h, k ≠ x.frame.vslot d.toNat + l) → wget w.win k = wget x.w.win k) ∧
    (∀ a : SReg, x.does (.mts h .tcause a) h x.s { x.w with tcause := (x.sreg a.toNat).setWidth 8 } ∧
      x.does (.mts h .tpc a) h x.s { x.w with tpc := x.sreg a.toNat &&& ~~~7#64 } ∧
      x.does (.mts h .tinfo a) h x.s { x.w with tinfo := x.sreg a.toNat } ∧
      x.does (.mts h .tlanes a) h x.s { x.w with tlanes := (x.sreg a.toNat).setWidth 32 }) ∧
    (∀ d a b : SReg,
      let v := x.s.hopDist x.c.vdies (fld (x.sreg a.toNat) 0 3) (fld (x.sreg b.toNat) 0 3)
      ∃ w : Wave, x.does (.dist h d a b) h (x.named 1) w ∧ x.Late d.toNat (wd v) w) ∧
    (∀ a : SReg, x.ready (usesOf (.halt h a)) h → exec (.halt h a) x.s =
      .next (((x.s.note x.w.uid 0 x.p.pc).record x.k.ctx (x.frec USER_TRAP 1 (x.sreg a.toNat))).killGroup x.g.uid)) ∧
    (∀ skip : Bool,
      (x.p.saved = none → x.traps (.tret h skip) h ILLEGAL_OPCODE 0x3C1) ∧
      (∀ nest, x.p.saved = some nest → x.ready (usesOf (.tret h skip)) h →
        let p := { x.p with nest := nest, saved := none, pc := if skip then x.w.tpc + 8 else x.w.tpc,
                            redirect := x.clk + max h.sc.toNat 2 + 1 }
        let m := mergePart p x.ps
        let w := { x.w with turn := if x.ps.any (·.saved.isSome) then x.w.turn else x.clk + x.w.turn }
        exec (.tret h skip) x.s = .next (x.after (.tret h skip) h .scalar (x.active h).length x.s w
          (.exact (if canRun m.2 m.1 then m.1 :: m.2 else nextTurn m.1.low (insPart m.2 m.1)))))) ∧
    (∀ l : Nat,
    x.special .lane l = wd l ∧ x.special .wave l = wd x.w.index ∧ x.special .nwave l = wd x.k.wpg ∧
    x.special .grp l = wd x.g.grp ∧ x.special .ngrp l = wd x.k.ngrp ∧ x.special .vdie l = wd x.g.vdie ∧
    x.special .core l = wd x.w.core ∧ x.special .clk l = wd x.s.clk ∧ x.special .kid l = x.k.kid.setWidth 64 ∧
    x.special .tcause l = x.w.tcause.setWidth 64 ∧ x.special .tpc l = x.w.tpc ∧ x.special .tinfo l = x.w.tinfo ∧
    x.special .tlanes l = x.w.tlanes.setWidth 64 ∧ x.special .slot l = wd (x.s.clk / 65536) ∧
    (∀ n b, (x.g.cores.zip x.g.bases).find? (·.1 == x.w.core) = some (n, b) → x.special .spbase l = wd b))

/-- R348, R349, R356, R361 to R365: SLOTQ reports the slot calendar; SMPCFG takes a core's free sampler for the group and
waits while another group owns it; SMPON and SMPOFF turn the owner's sampler on and off, and trap GRANT_FAILED for any
other group; SMPOFF returns the counts. That SMPCFG's traps come before its wait is the model's choice (log entry 58). -/
def Obligations.SlotAndSamplerWords : Prop :=
  ∀ (x : Iss) (h : Hd), x.live →
    (∀ d : SReg, d ≠ 0 → x.ready (usesOf (.slotq h d)) h →
      let m := x.clk % 65536
      let n := x.clk / 65536
      let mask (k : Nat) : Nat := 19 + (if k % 16 = 0 then 4 else 0) + (if k % 64 = 0 then 8 else 0)
      ∃ w : Wave, exec (.slotq h d) x.s = .next (x.after (.slotq h d) h .scalar (x.active h).length (x.named 1) w .next) ∧
        w.sget d.toNat = wd (65536 - m) ∧
        w.sget (d.toNat + 1) = wd (65536 * 2 ^ 32 + (if m < 2048 then 2048 - m else 0) * 65536 + 2048) ∧
        w.sget (d.toNat + 2) = wd ((n + 1) % 2 ^ 48 * 65536 + (if m < 2048 then mask n else 0) * 256 + mask (n + 1)) ∧
        (∀ k, k < d.toNat ∨ d.toNat + 2 < k → w.sget k = x.w.sget k) ∧
        w = { x.w with sregs := w.sregs, vpend := x.w.vpend ++
                [⟨x.s.nextUid, [.sreg d.toNat, .sreg (d.toNat + 1), .sreg (d.toNat + 2)], none⟩] }) ∧
    (∀ a : SReg,
      let i := Instr.smpcfg h a
      let v := x.sreg a.toNat
      let base := fld v 0 20
      let n := fld v 20 16
      let p := fld v 36 24
      let shape := n ≠ 0 ∧ n ≤ 32768 ∧ 16 ≤ p ∧ fld v 60 4 = 0
      (¬ shape → x.traps i h RESERVED_FIELD 18) ∧
      (shape → base % 32 ≠ 0 → x.traps i h MISALIGNED 0x1F1) ∧
      (shape → base % 32 = 0 → x.scr < base + 32 * n → x.traps i h REFUSED_BOUNDS (laneInfo 31 0 0 base)) ∧
      (shape → base % 32 = 0 → base + 32 * n ≤ x.scr →
        (∀ g, x.core.sampler.owner = some g → g ≠ x.g.uid → x.waits i h) ∧
        ((∀ g, x.core.sampler.owner = some g → g = x.g.uid) →
          let m : Sampler := { Sampler.reset with owner := some x.g.uid, base := base, cap := n, period := p }
          x.does i h (x.s.setCore x.coreIx { x.core with sampler := m }) x.w))) ∧
    (∀ r : SReg, x.core.sampler.owner ≠ some x.g.uid →
      x.traps (.smpon h r) h GRANT_FAILED 0x1F7 ∧ x.traps (.smpoff h r) h GRANT_FAILED 0x1F7) ∧
    (∀ a : SReg, x.core.sampler.owner = some x.g.uid →
      let m := x.core.sampler
      let m' := { m with c := max m.c (min (fld (x.sreg a.toNat) 0 32) m.w), on := true,
                         ton := if m.on then m.ton else x.clk }
      x.does (.smpon h a) h (x.s.setCore x.coreIx { x.core with sampler := m' }) x.w) ∧
    (∀ d : SReg, x.core.sampler.owner = some x.g.uid →
      let m := x.core.sampler
      ∃ w : Wave, x.Late d.toNat (wd (m.w % 2 ^ 32 * 2 ^ 32 + m.dropped)) w ∧
        x.does (.smpoff h d) h ((x.named 1).setCore x.coreIx { x.core with sampler := { m with on := false } }) w)

/-! The machine: decode checks, exceptions, steps, reset -/

/-- R58, R64, R70, R99: the order in which one full-form word is checked, here for words of six families. A register that
lies outside the window or in an absent view traps RESERVED_FIELD with the highest such bit position; then a failed uniform
guard lets the word do nothing but take the slot and move to the next word, even where it would trap of itself; then an
operand that is early traps STALL_SHORT, which for a word whose uniform guard fails is tested on sf alone. A word that waits has
not issued, so it takes no STALL_SHORT: a ST through a WAITING register changes nothing. -/
def Obligations.IssueChecks : Prop :=
  ∀ (x : Iss) (h : Hd) (i : Instr), x.live →
    ((∃ n, i = .trap h n) ∨ (∃ off_, i = .bra h off_) ∨ (∃ d a b t, i = .add h d a b t) ∨ (∃ d a b f rm, i = .fadd h d a b f rm) ∨
      (∃ d g b t fe m, i = .st h d g b t fe m) ∨ (∃ d w n, i = .barr h d w n)) →
    let us := usesOf i
    let sc := h.sc.toNat
    let early := worstEarly x.frame x.clk x.w.early us
    let earlySf := worstEarly x.frame x.clk x.w.early (us.filter fun u => u.pos == 43)
    (∀ p ∈ x.frame.bad us, (∀ q ∈ x.frame.bad us, q ≤ p) → exec i x.s = .next (x.trap sc RESERVED_FIELD (wd p))) ∧
    (x.frame.bad us = [] → x.guard h = false → x.c.stchk = false ∨ earlySf.1 = 0 → exec i x.s = .next (x.skip sc)) ∧
    (x.frame.bad us = [] → x.guard h = false → x.c.stchk = true → earlySf.1 ≠ 0 →
      exec i x.s = .next (x.trap sc STALL_SHORT (stallInfo earlySf))) ∧
    (x.frame.bad us = [] → x.guard h = true → x.c.stchk = true → early.1 ≠ 0 →
      (∀ d g b t fe m, i = .st h d g b t fe m → ∀ gr, x.names g.toNat gr → gr.st ≠ .waiting ∧
        x.free (.grant gr.gid) (itypeBytes t) ((x.active h).map fun l => gr.ia + x.off b (itypeBytes t) m.toNat l)) →
      exec i x.s = .next (x.trap sc STALL_SHORT (stallInfo early))) ∧
    (∀ d g b t fe m gr, i = .st h d g b t fe m → x.names g.toNat gr → gr.st = .waiting → x.frame.bad us = [] → x.guard h = true →
      exec i x.s = .next x.s)

/-- R292, R293, R65, R78, R81: taking an exception. With a trap entry and outside a handler, %tcause, %tpc, %tinfo and
%tlanes are written, the partition's loop nest is set aside, its fibres continue at the trap entry after the redirect,
every fixed-latency result has landed, and the turn stops; no other register changes, but that sticky bits due land in sf.
Otherwise the fault is recorded with its source and the group is killed. -/
def Obligations.TrapEntry : Prop :=
  ∀ (s : State) (w : Wave) (p : Part) (ps : List Part) (k : Kernel) (code : Nat) (info : Word) (sc : Nat),
    w.parts = p :: ps → s.kernelOf? w = some k →
    (p.saved = none → k.trapent ≠ 0 → ∃ v : Wave, s.takeTrap w code info sc = s.setWave v ∧
      v.parts = { p with nest := [], saved := some p.nest, pc := k.trapent, redirect := s.clk + max sc 2 + 1 } :: ps ∧
      v.tcause = BitVec.ofNat 8 code ∧ v.tpc = p.pc ∧ v.tinfo = info ∧ v.tlanes = p.lanes ∧
      v.early = [] ∧ v.stk = [] ∧ v.turn = w.turn - s.clk ∧ v.lastIssue = some s.clk ∧ v.progress = s.clk ∧
      s.clk + sc + 1 ≤ v.nextIssue ∧ (∀ e ∈ w.early, e.due ≤ v.nextIssue) ∧ (∀ e ∈ w.stk, e.1 ≤ v.nextIssue) ∧
      w.sf &&& v.sf = w.sf ∧ v.sf &&& ~~~(w.stk.foldl (fun m e => m ||| e.2) w.sf) = 0 ∧
      v = { w with parts := v.parts, tcause := v.tcause, tpc := v.tpc, tinfo := v.tinfo, tlanes := v.tlanes, early := v.early,
                   stk := v.stk, sf := v.sf, turn := v.turn, lastIssue := v.lastIssue, nextIssue := v.nextIssue,
                   progress := v.progress }) ∧
    ((p.saved ≠ none ∨ k.trapent = 0) → s.takeTrap w code info sc =
      (s.record k.ctx { clk := s.clk, pc := p.pc, info := info, kid := k.kid, code := code,
                        source := if p.saved = none then 0 else 3, wave := w.index }).killGroup w.group)

/-- What a word leaves unchanged, and what issuing it changes in every case (R62, R77, R104): beside its own effect `s` and
`v`, only the partitions, the stall count, the register cache of its wave and the vector pipe of its quad. Every byte of
memory, every other wave, every group, grant and register of another unit reads as in `s`. -/
def Obligations.IssueFrame : Prop :=
  ∀ (x : Iss) (i : Instr) (h : Hd) (pipe : Pipe) (n : Nat) (s : State) (v : Wave) (mv : Move),
    let t := x.after i h pipe n s v mv
    t = { s with waves := t.waves, cores := t.cores, issued := s.issued ++ [(v.uid, n, x.p.pc)] } ∧
    (∀ a, t.byteAt a = s.byteAt a) ∧
    (∀ u, u ≠ v.uid → t.wave? u = s.wave? u) ∧
    (s.wave? v.uid ≠ none → ∃ r : List Nat, t.wave? v.uid =
      some { v with parts := x.moved h.sc.toNat mv, lastIssue := some x.clk, nextIssue := x.clk + h.sc.toNat + 1,
                    progress := x.clk, rejects := 0, rcache := r } ∧
      (pipe = .vector → n = 0 → r = v.rcache)) ∧
    (∀ c, ∃ ps : List Nat, t.core c = { s.core c with pipes := ps }) ∧
    (∀ c, c ≠ x.coreIx ∨ pipe = .scalar → t.core c = s.core c) ∧
    (∀ q, q ≠ x.w.quad → (t.core x.coreIx).pipes.getD q 0 = (s.core x.coreIx).pipes.getD q 0)

/-- Words written out from the encodings of Tables 3.1, 3.8, 3.9 and 3.10 decode to the instructions they stand for, and
words that R70 refuses decode to none. -/
def Obligations.WordsDecode : Prop :=
  let h0 : Hd := { lgc := 0, lgcond := .al, ug := .al, sc := 0, x := 0 }
  decode 0 = some (.nop h0) ∧
  decode 0x2409018050080604#64 = some (.ffma { h0 with lgc := 1, lgcond := .ne, sc := 3 } 10 2 3 4 .f32 .rne) ∧
  decode 0x106001C020000403#64 = some (.add { h0 with sc := 3, x := 4 } 4 0 2 .i64) ∧
  decode 0x3129000048040407#64 = some (.lput { h0 with lgc := 1, lgcond := .ne } 9 1 2 .n64) ∧
  decode 0x8280811020070404#64 = some (.pairAdd 2 .w32 1 2 .ne ⟨.fadd .f32, 7, 4, .al⟩) ∧
  decode 0x6000000000200005#64 = some (.binit h0 8 5) ∧
  decode 0x6020000048040005#64 = some (.barr h0 9 true 5) ∧
  decode 0x6040000000280005#64 = some (.bexp h0 10 5) ∧
  decode 0x6060000000000005#64 = some (.bwait h0 0 5) ∧
  decode 0x6080004060240005#64 = some (.btest { h0 with x := 4 } 12 9 5) ∧
  decode 0x6220000000501C00#64 = some (.chpush h0 20 14) ∧
  decode 0x62800000C0042818#64 = some (.copy h0 .sp (.region 1) 20 24) ∧
  decode 0x8280811020070504#64 = none ∧
  decode 0x2709018050080604#64 = none ∧
  decode (BitVec.allOnes 64) = none ∧
  decode 1 = none

/-- R50, R66, R72: the decoder reads back every well-formed word of the instruction set, all operands at all values, from
the bits that the encoder writes. -/
def Obligations.EveryWordRoundTrips : Prop := ∀ i : Instr, i.isWord = true → i.wf = true → decode (encode i) = some i

/-- R319: a step with nothing on the agenda, at a quad with a ready wave, runs the instruction that the bytes at that wave's
program counter decode to: the wave is made the issuing one, its line of code touched, and `exec` applied; what the quad's waves
have pushed goes where there is room (R234), and the quad has had its turn. A step with an event on the agenda runs that event once its place in the clk has come (log entry 104); a step never faults; a device that is off stays as it is. -/
def Obligations.StepRunsDecoded : Prop :=
  (∀ (s : State) (q : Nat) (pre rest : List Wave) (w : Wave) (p : Part) (v : Word) (i : Instr) (x : Iss) (t : State),
    s.agenda = [] → s.stage ≠ .off → s.begun = true → s.nextQuad? = some q →
    (∀ u ∈ s.waves, s.boxReady u = false ∧ ∀ a b, u.hold ≠ .fullEmpty a b) →
    s.choice q = pre ++ w :: rest → (∀ u ∈ pre, s.offered? u = none) → s.offered? w = some p →
    s.fetch (s.coreOf w) (s.ctxOf w) p.pc.toNat = .word v → w.deferred = [] →
    decode v = some i → (s.offer w (s.lineAt (s.ctxOf w) p.pc.toNat)).iss? = some x →
    x.frame.bad (dynUses x.s i) = [] → x.clear v (dynUses x.s i) = true → x.s.slotHolds x.w i = false →
    exec i x.s = .next t → x.s.hasIssued t = true →
    step s = .next { ({ t with cur := none } : State).serveQuad q with cursor := q + 1 }) ∧
  (∀ (s : State) (i : Instr) (r : List Instr), s.agenda = i :: r → s.eventTurn i = true → i.isWord = false →
    (∀ u, i ≠ .deferredFaultTaken u) → (∀ u, i ≠ .chpopClaim u) → (∀ u, i ≠ .fullEmptyProceed u) →
    (∀ d c, i ≠ .sample d c) → (∀ u, i ≠ .arrive u) → (∀ u c, i ≠ .chpushAccept u c) →
    step s = exec i { s.taken i r with cur := none }) ∧
  (∀ (s : State) (i : Instr) (r : List Instr), s.agenda = i :: r → s.eventTurn i = false → step s = .next s.advance) ∧
  (∀ s : State, ∃ t, step s = .next t) ∧
  (∀ s : State, s.agenda = [] → s.stage = .off → step s = .next s)

/-- R367, R287, R305, R193: right after device reset %clk is 0, no stage runs, every context is FREE, every queue has its
reset values, no kernel, group, wave or grant exists, no byte of memory has been written, every core is in start-up
service, and a power-good starts stage 0. That no byte is written, and the values of registers to which the spec gives no
reset value, are choices of the model (log entries 1 to 8). -/
def Obligations.ResetValues : Prop :=
  State.reset.clk = 0 ∧ State.reset.stage = .off ∧ State.reset.agenda = [] ∧ State.reset.cur = none ∧
  (∀ c, (State.reset.ctx c).st = .free) ∧ (∀ q, State.reset.queue q = Queue.reset q) ∧
  State.reset.kernels = [] ∧ State.reset.groups = [] ∧ State.reset.waves = [] ∧ State.reset.grants = [] ∧
  State.reset.packets = [] ∧ State.reset.hqs = [] ∧ State.reset.ops = [] ∧ State.reset.inSlot = false ∧
  State.reset.mem = [] ∧ Memory.wf State.reset.mem ∧ State.reset.full = [] ∧ State.reset.bad = [] ∧ State.reset.inbound = [] ∧
  (∀ c, c < 320 → (State.reset.core c).service = true) ∧
  (∃ t, exec .powerGood State.reset = .next t ∧ t.stage = .s0 ∧ t.clk = 0)

/-- Every step keeps memory in its canonical form: addresses strictly rising, so that equal memories are equal data (a
form of the model's own, log entry 5). -/
def Obligations.MemoryStaysCanonical : Prop :=
  ∀ s t : State, Memory.wf s.mem → step s = .next t → Memory.wf t.mem

/-! Events of waves -/

/-- R63, R183, R185, R191, R192, R199, R235, R344: results of variable latency. A result lands and the scoreboard lets its register
go, and the entry of a CHPOP counts as read; a load whose lanes have all been read writes them, extended by its type, and ends;
a read lane is kept while others are not; a load that cannot reach its home fails with LINK_PARTITION, one that meets an
uncorrectable sector with MEM_UNCORRECTABLE, one that its endpoint refuses with GRANT_FAILED, reason 8; the wave first in line
takes its miss-status entries when 256 hold them; an acknowledgement frees its entries; a full-empty word proceeds once its
granules are full, and a .fec word whose data are uncorrectable has cleared them when it fails (log entry 121). The clauses on loads
are about states in which no line that a replay walked waits to act; for the others `GroupsPagesContexts` says which page is read. -/
def Obligations.ResultsLand : Prop :=
  ∀ (s : State) (u : Nat) (w : Wave), s.wave? u = some w →
    (∀ (id : Nat) (v : VPend), w.vpend.find? (·.id == id) = some v → (∀ g ∈ s.grants, g.gid ≠ id) → (∀ o ∈ s.ops, o.id ≠ id) →
      let t := s.setWave { w with vpend := w.vpend.filter fun e => e.id != id }
      (v.chan = none → exec (.variableLatencyWrite u id) s = .next t) ∧
      (∀ n ix g c, v.chan = some (n, ix) → t.group? w.group = some g → g.chan? n = some c →
        exec (.variableLatencyWrite u id) s = .next (t.setGroup (g.setChan (c.done ix))))) ∧
    (∀ (id : Nat) (l : LoadP), w.loads.find? (·.id == id) = some l → w.loadWaits l = false → s.unpinned = true →
      (∀ cap, let read := (s.reading l).capture w l cap l.lanes
        let r := read.1.filled w { l with lanes := read.2 }
        let good := s.mayRead w l cap ∧ (l.atomic = false → (s.reading l).badLanes? (s.coreOf w) l cap = none)
        (good → cap = none → (∀ r ∈ read.2, r.got ≠ none) →
          exec (.loadWriteback u id (.of cap)) s = .next (r.1.endLoad (w.writeLoad r.2) r.2) ∧
          ∀ a ty, l.dest = .vec a ty → (read.2.map (·.lane)).Nodup → ∀ e ∈ read.2, ∀ b, e.got = some b →
            wget (w.writeLoad r.2).win (a / 8 + e.lane) = extBytes ty b) ∧
        (good → cap ≠ none → read.2 ≠ l.lanes → exec (.loadWriteback u id (.of cap)) s =
          .next (r.1.setWave { w with loads := w.loads.map fun m => if m.id == id then r.2 else m })) ∧
        (∀ b, s.mayRead w l cap → l.atomic = false → (s.reading l).badLanes? (s.coreOf w) l cap = some b →
          exec (.loadWriteback u id (.of cap)) s =
            .next ((s.reading l).failLoad w l MEM_UNCORRECTABLE (memInfo l.code b.tier l.pc))) ∧
        (∀ r, s.farLines l = [] → s.loadReach w l = .fail r → l.atomic = false → exec (.loadWriteback u id (.of cap)) s = .next
          (s.failLoad w l LINK_PARTITION (linkInfo l.code r ((l.lanes.head?.map (·.addr)).getD 0)))) ∧
        (∀ e, s.loadEp? l = some e → (∃ r ∈ l.lanes, r.got = none) → exec (.loadWriteback u id .refused) s = .next
          (s.failLoad w l GRANT_FAILED (wd (16 * l.code + 8)))))) ∧
    (∀ a n b, (s.missQueue (s.coreOf w)).head? = some w → w.hold = .miss a n b → (s.core (s.coreOf w)).missUsed + n ≤ 256 →
      exec (.missEntriesTaken u) s = .next ((s.missAdd (s.coreOf w) n).setWave { w with hold := .none })) ∧
    (∀ id a, s.acks.find? (·.id == id) = some a → (∀ p ∈ s.packets, p.id = id → p.sel = false) →
      (∀ m ∈ s.unacked, m.id = id → m.sel = false) →
      exec (.acknowledgementReceived id) s = .next (s.acked a) ∧
      (s.acked a).acks = s.acks.filter (fun e => e.id != id) ∧
      (s.acked a).packets = s.packets.filter (fun e => e.id != id) ∧
      (s.acked a).unacked = s.unacked.filter (fun e => e.id != id) ∧
      (a.core < s.cores.length → ((s.acked a).core a.core).missUsed = (s.core a.core).missUsed - a.entries)) ∧
    (∀ id clear l, w.hold = .fullEmpty id clear → w.st = .resident → w.loads.find? (·.id == id) = some l →
      s.allFull (s.granules l.tgt (l.lanes.map fun r => (r.addr, l.size))) = true → (∀ r ∈ l.lanes, s.laneReady w l r = true) →
      (s.inSlot = true → s.pauses (s.coreOf w) l.tgt l.size (l.lanes.map (·.addr)) = false) →
      let r := s.feProceed w l clear
      (s.badLanes? (s.coreOf w) l none = none → exec (.fullEmptyProceed u) s = .next (r.1.setWave { r.2 with hold := .none })) ∧
      (∀ b, s.badLanes? (s.coreOf w) l none = some b → exec (.fullEmptyProceed u) s =
        .next (r.1.failLoad { w with hold := .none } l MEM_UNCORRECTABLE (memInfo l.code b.tier l.pc))))

/-- R79, R82, R89, R90, R291, R319, R320: a turn that is over passes; a sleep elapses; a bin whose timer is over closes; a
bin that waits launches as the group's next wave, at its entry, one lane for each fibre with its arguments in v0 to v3; an
ended wave frees its slot; a parked wave is saved, with its frame in the save area; the swapped wave that became eligible
first comes back with room; a wave that would issue takes its oldest deferred fault; a line of code is filled, and one that no
route reaches faults with LINK_PARTITION (log entry 122); a waiting CHPOP claims its entry. -/
def Obligations.WavesLiveOn : Prop :=
  ∀ (s : State) (u : Nat) (w : Wave), s.wave? u = some w →
    (w.slotHeld = true → w.parts ≠ [] → w.turn ≤ s.clk → (∀ p ∈ w.parts, p.saved = none) →
      exec (.turnExpiry u) s = .next (s.setWave (w.passTurn s.clk)) ∧ (w.passTurn s.clk).turn = s.clk + 256) ∧
    (w.st = .sleeping → w.sleepEnd ≤ s.clk → exec (.sleepElapses u) s = .next (s.setWave { w with st := .resident })) ∧
    (s.slotFree w = true → exec (.waveSlotRelease u) s = .next (s.freeWave w)) ∧
    (let c := s.ctx (s.ctxOf w)
     w.st = .resident → s.waitsParked w = true → s.slotNeeded w = true → s.quiet w = true →
     (∀ p ∈ s.parkedOf u, p.since + 6000 ≤ s.clk) →
     c.saveUsed + s.frameBytes w ≤ c.saveCap →
     exec (.swapOut u) s =
       .next ((s.saveWave w).setCtx (s.ctxOf w) { c with saveUsed := c.saveUsed + s.frameBytes w })) ∧
    (∀ r g core quad, s.restorable = w :: r → s.group? w.group = some g →
      (g.cores.flatMap fun c => (List.range 4).map fun q => (g.die * 40 + c, q)).find? (fun p =>
        decide (0 < s.roomBut [] p.1 p.2 (s.winOf w))) = some (core, quad) →
      s.claims.head? = some { uid := u, core := core, quad := quad, win := s.winOf w }) ∧
    (∀ spot : Spot, s.claims.find? (·.uid == u) = some spot →
      let core := spot.core % 40
      let quad := spot.quad
      (∀ p ∈ (s.die (s.dieOf w)).sweeping, p.1 ≠ s.sector (s.dieOf w) core) → s.ctxOf w < s.ctxs.length →
      (s.grants.filter fun r => r.reg == { grp := false, owner := u, code := r.reg.code }).length ≤ 256 →
      ∃ t v, exec (.waveRestore u) s = .next t ∧ t.wave? u = some v ∧ v = { w with
          core := core, quad := quad, slot := s.freeSlot (s.dieOf w * 40 + core) quad, slotHeld := true, eligible := none,
          lastIssue := none, turn := v.turn, st := if s.clk < w.sleepEnd then .sleeping else .resident } ∧
        (t.ctx (s.ctxOf w)).saveUsed = (s.ctx (s.ctxOf w)).saveUsed - s.frameBytes w ∧ t.mem = s.mem ∧ t.groups = s.groups) ∧
    (∀ p f r, s.offered? w = some p → w.deferred = f :: r →
      (s.fetch (s.coreOf w) (s.ctxOf w) p.pc.toNat = .fault ∨
        ∃ v, s.fetch (s.coreOf w) (s.ctxOf w) p.pc.toNat = .word v ∧ s.readyWord w v = true) →
      exec (.deferredFaultTaken u) s =
        .next ((s.note u 0 p.pc).takeTrap { w with deferred := r, hold := .none } f.code f.info 0)) ∧
    (∀ p line ws, w.parts.head? = some p → w.slotHeld = true → (s.core (s.coreOf w)).fetchAt ≤ s.clk →
      s.fetch (s.coreOf w) (s.ctxOf w) p.pc.toNat = .miss line → s.unpinned = true →
      let c := s.core (s.coreOf w)
      let reach := s.girthReach (s.coreOf w / 40) (homeOf (64 * line))
      (reach = .ok → (s.inSlot = true → s.codePauses (s.coreOf w) line = false) → s.codeLine? (s.coreOf w) line = some ws →
        exec (.instructionCacheFill u) s =
          .next (s.setCore (s.coreOf w) { c with icache := ({ line := line, words := ws } :: c.icache).take 1024 })) ∧
      (∀ r, reach = .fail r → s.offered? w = some p → w.deferred = [] → exec (.instructionCacheFill u) s =
        .next ((s.note u 0 p.pc).takeTrap { w with hold := .none } LINK_PARTITION (linkInfo 31 r (64 * line)) 0))) ∧
    (∀ p v h d a x y c, s.offered? w = some p → w.deferred = [] →
      s.fetch (s.coreOf w) (s.ctxOf w) p.pc.toNat = .word v → decodeWord v = .word [] (.chpop h d a) →
      let i := Instr.chpop h d a
      let now : State := { s with cur := some u }
      now.iss? = some x → x.s.held w x.frame (usesOf i) = false → (s.core x.coreIx).pipes.getD w.quad 0 ≤ s.clk →
      (now.setWave { w with hold := .none }).iss? = some y → y.ready (usesOf i) h → y.g.chan? a.toNat = some c →
      c.claims < c.fill → ∃ v, exec (.chpopClaim u) s = .next { y.after i h (.vfix 1) (y.active h).length
          ((y.named 1).setGroup (y.g.setChan { c with claims := c.claims + 1 })) v .next with cur := none } ∧
        v = { y.w with win := v.win, vpend := v.vpend }) ∧
    (∀ id b, s.bins.find? (·.uid == id) = some b →
      (b.waiting = false → b.due ≤ s.clk → exec (.binTimerExpiry id) s = .next (s.closeBin b)) ∧
      (s.binNext b = true → ∀ g k core quad, s.group? b.group = some g → g.st = .running → s.kernel? g.kernel = some k →
        (s.ctx k.ctx).preempting = false → s.findRoom? g k.win (b.core :: g.cores) = some (core, quad) →
        ∃ t, exec (.waitingBinLaunch id) s = .next t ∧ t.bins = s.bins.filter (·.uid != b.uid) ∧
          ∃ v, t.waves = s.waves ++ [v] ∧ v.uid = s.nextUid ∧ v.group = g.uid ∧ v.core = core ∧ v.quad = quad ∧
            v.index = g.nextIdx ∧ v.st = .resident ∧ v.slotHeld = true ∧ v.sf = 0 ∧ v.key = k.seed ∧
            v.parts.map (fun p => (p.pc, p.lanes, p.nest)) = [(b.entry, BitVec.ofNat 32 (2 ^ b.fibres.length - 1), [])] ∧
            v.win = binWindow k.views b.fibres))

/-! Steps of the ordering machine -/

/-- O1, Table 9.3: DRAIN applies the head of a wave's outbox to its store and removes it, once the wave has no older load
of its bytes: a store writes its bytes and fills its granules; a local atomic gives its old values to its load; a home
atomic and a flag go to their home's queue, or into the rein queue to it; the line's defined bytes and a remote store go
to their home, or as one packet toward it. A home that cannot be reached fails the word with LINK_PARTITION, one for the whole word
(log entry 59), an uncorrectable sector that an atomic reads with MEM_UNCORRECTABLE. In a maintenance slot nothing that it pauses
drains (R178, R350). The clauses are about states in which no line that a replay walked waits to act. -/
def Obligations.OutboxDrains : Prop :=
  ∀ (s : State) (u path : Nat) (w : Wave) (e : OEnt) (rest : List OEnt), s.wave? u = some w → w.outbox = e :: rest →
    s.drainHeld w e = false → s.unpinned = true →
    let w' := { w with outbox := rest }
    let die := s.dieOf w
    (∀ a bs full, e.kind = .write a bs full → (s.inSlot = true → s.pausesWrite die e.tgt = false) →
      exec (.drain u path) s =
        .next ((((s.writeRun e.tgt a bs).setWave w').setFull full).wroteRun e.seq e.tgt a bs.length)) ∧
    (∀ op t ls load, e.kind = .atomic op t ls load → s.atomicReach w e = .ok →
      (s.inSlot = true → s.pauses (s.coreOf w) e.tgt (itypeBytes t) (ls.map (·.addr)) = false) →
      (∀ l, w.loads.find? (·.id == load) = some l → ∀ r ∈ l.lanes, s.laneServed l r = true) →
      let bad := (w.loads.find? (·.id == load)).bind fun l => s.badLanes? (s.coreOf w) l none
      (∀ s' olds, bad = none → s.atomicLocal e.tgt op t ls = some (s', olds) →
        exec (.drain u path) s = .next (s'.setWave (w'.gotLanes load olds))) ∧
      (∀ b, bad = some b →
        exec (.drain u path) s = .next (s.failEntries w e.seq MEM_UNCORRECTABLE (memInfo e.code b.tier e.pc)))) ∧
    (∀ op t ls load r, e.kind = .atomic op t ls load → s.atomicReach w e = .fail r → exec (.drain u path) s =
      .next (s.failEntries w e.seq LINK_PARTITION (linkInfo e.code r (((e.spans s).head?.map (·.1)).getD 0)))) ∧
    (∀ gid g, e.tgt = .grant gid → s.grant? gid = some g →
      (∀ op t ls load n, e.kind = .homeAtomic op t ls load n →
        let a : HAtom := { id := e.seq, pc := e.pc, code := e.code, wave := u, load := load, gid := gid, op := op, t := t,
                           lanes := ls, entries := n }
        (g.home = die → exec (.drain u path) s = .next (({ s with hqs := s.hqs ++ [(die, a)] } : State).setWave w')) ∧
        (g.home ≠ die → s.reinReach die g.home = .ok →
          exec (.drain u path) s = .next ((s.sendRein die g.home u (.atomic a)).setWave w')) ∧
        (∀ r, g.home ≠ die → s.reinReach die g.home = .fail r → exec (.drain u path) s =
          .next (s.failEntries w e.seq LINK_PARTITION (linkInfo e.code r ((ls.head?.map (·.addr)).getD g.ia))))) ∧
      (∀ a bs n, e.kind = .remote a bs n →
        let cells : Store := bs.zipIdx.map fun b => (a + b.2, b.1)
        let left (t : State) : State :=
          let h := t.holderAt g.reg
          t.dropLines h.1 h.2 g.tag (a / 256 * 256) 256
        (s.windowOf? (s.grants.length + 1) g ≠ none →
          exec (.drain u path) s = .next (((s.writeRun e.tgt a bs).setWave w').wroteRun e.seq e.tgt a bs.length)) ∧
        (∀ s1 s2, s.windowOf? (s.grants.length + 1) g = none → g.home = die → s.inSlot = false → s.pushLine gid a = some s1 →
          (left s1).hWrite cells e.seq = (s2, true) → exec (.drain u path) s = .next ((s2.ackTo u n).setWave w')) ∧
        (∀ s1 s2, s.windowOf? (s.grants.length + 1) g = none → g.home ≠ die → s.girthReach die g.home = .ok →
          s.inSlot = false → s.pushLine gid a = some s1 →
          (left s1).sendPacket die g.home path .write cells 0 u n e.pc e.code e.seq = some s2 →
          exec (.drain u path) s = .next (s2.setWave w')) ∧
        (∀ r, s.windowOf? (s.grants.length + 1) g = none → g.home ≠ die → s.girthReach die g.home = .fail r →
          exec (.drain u path) s = .next (s.failEntries w e.seq LINK_PARTITION (linkInfo e.code r a))))) ∧
    (∀ ia gid g, e.kind = .flag ia gid → s.grant? gid = some g →
      (g.home = die → exec (.drain u path) s =
        .next (({ s with nextUid := s.nextUid + 1,
                         flags := s.flags ++ [{ id := s.nextUid, home := die, ia := ia, wave := u, copy := false }] } :
          State).setWave w')) ∧
      (g.home ≠ die → s.reinReach die g.home = .ok →
        exec (.drain u path) s = .next ((s.sendRein die g.home u (.flag ia e.pc e.code false e.seq)).setWave w')) ∧
      (∀ r, g.home ≠ die → s.reinReach die g.home = .fail r → exec (.drain u path) s =
        .next (s.failEntries w e.seq LINK_PARTITION (linkInfo e.code r ia))))

/-- O2, O7 to O12: a home performs the head of its queue of atomics as one unit, and the old values go to the issuing lanes; a
flag's counter rises by one; the stamp passes on, to a holder on another die as a message; the oldest BARR of a wave arrives
once its older entries have drained, and the waiters of a completed phase go on. A packet whose turn has come writes its bytes
at its destination, a marker is gathered; the head of a rein queue that orders packets sends its markers, and acts once they are
gathered: a request and an atomic join their home's queue, a flag is counted, a return acts at its home, an answer at the register
that asked, the stamp and a report arrive. A message to an endpoint has its number before it acts, and stays until it is
acknowledged (R346; log entries 110 and 135). What cannot reach its destination fails with LINK_PARTITION, one for each word (log
entry 59); an endpoint may refuse with reason 8. Atomics, flags and packets of lines that a replay walked are set aside. -/
def Obligations.MessagesAct : Prop :=
  ∀ s : State,
    (∀ home a rest, takeOut (fun h : Nat × HAtom => h.1 == home) s.hqs = some ((home, a), rest) →
      s.isParked (.atomic a.id) = false → s.unpinned = true →
      (s.inSlot = true → ∀ l ∈ a.lanes, memoryHome l.addr = false) →
      ((∀ l ∈ a.lanes, s.mapped l.addr (itypeBytes a.t)) → (a.load ≠ 0 → s.badHome? a.t a.lanes = none) →
        ∃ t olds, s.atomicHome a.op a.t a.lanes = some (t, olds) ∧
          exec (.homeAtomic home .granted) s = .next (({ t with hqs := rest } : State).atomicDone a olds)) ∧
      (∀ b, a.load ≠ 0 → s.badHome? a.t a.lanes = some b → exec (.homeAtomic home .granted) s =
        .next (({ s with hqs := rest } : State).failAtomic a MEM_UNCORRECTABLE (memInfo a.code b.tier a.pc))) ∧
      (8 ≤ home → exec (.homeAtomic home .refused) s =
        .next (({ s with hqs := rest } : State).failAtomic a GRANT_FAILED (wd (16 * a.code + 8))))) ∧
    (∀ id f, s.flags.find? (·.id == id) = some f → s.isParked (.flag id) = false → s.mapped f.ia 8 →
      s.unpinned = true → (s.inSlot = true → memoryHome f.ia = false) →
      ∃ t bs, s.hRead f.ia 8 = (t, some bs) ∧
        let up := t.hWrite ((leBytes 8 ((leNat bs + 1) % 2 ^ 64)).zipIdx.map fun b => (f.ia + b.2, b.1))
        exec (.flag id) s = .next { up.1 with flags := up.1.flags.filter fun x => x.id != id }) ∧
    (∀ ku k st g w seq, s.kernel? ku = some k → k.stamp = some st → st.retired = false → st.moving = false →
      s.groups.find? (fun g => g.kernel == ku && g.grp == st.grp) = some g →
      s.waves.find? (fun w => w.group == g.uid && w.index == st.wave) = some w →
      (st.passing = some seq ∨ st.passing = none ∧ w.st = .ended ∧ seq = s.nextUid) →
      (∀ e ∈ w.outbox, seq ≤ e.seq) → s.atomicsDone w.uid seq (fun _ => true) = true →
      let next := k.nextHolder st
      let moved (m : Bool) : State := s.setKernel { k with stamp := some { next with moving := m || next.moving } }
      let far := if next.retired then none else (s.stampDie? k next).filter fun d => d != g.die
      (far = none → exec (.stampPass ku) s = .next (moved false)) ∧
      (∀ d, far = some d → exec (.stampPass ku) s = .next ((moved true).sendRein g.die d w.uid (.stamp ku)))) ∧
    (∀ u w g n q r, s.wave? u = some w → s.group? w.group = some g → w.arrives = (n, q) :: r → (∀ e ∈ w.outbox, q ≤ e.seq) →
      exec (.arrive u) s = .next ((s.setWave { w with arrives := r }).arriveAt g.uid n)) ∧
    (∀ group name v c own, v ∈ s.waves → v.group = group → v.hold = .barrier name own (some c) → c ≤ s.clk →
      ∃ t, exec (.barrierRelease group name) s = .next t ∧ t = { s with waves := t.waves } ∧
        t.waves.length = s.waves.length ∧ ∀ (i : Nat) (w : Wave), s.waves[i]? = some w →
          (∀ c own, w.group = group → w.hold = .barrier name own (some c) → c ≤ s.clk →
            t.waves[i]? = some { w with hold := .none }) ∧
          ((w.group ≠ group ∨ ∀ c own, w.hold = .barrier name own (some c) → s.clk < c) → t.waves[i]? = some w)) ∧
    (∀ id p, s.packets.find? (·.id == id) = some p → p.arrived = false → s.packetNext p = true →
      s.unpinned = true →
      (s.packetReach p = .ok → (∀ c ∈ p.cells, s.mapped c.1 1) →
        let t := (s.hWrite p.cells p.seq).1
        let gone : State := { t with packets := t.packets.filter fun q => q.id != id }
        (∀ m, p.kind = .marker m → exec (.girthDelivery ⟨id, .granted⟩) s = .next gone) ∧
        (p.kind = .write → exec (.girthDelivery ⟨id, .granted⟩) s =
          .next (if p.dst < 8 then (gone.passEntries p).1.ackTo p.wave (gone.passEntries p).2 else t.arrivedAt p)) ∧
        (∀ op, p.kind = .chunk op → exec (.girthDelivery ⟨id, .granted⟩) s =
          .next ((if p.dst < 8 then gone else t.arrivedAt p).landed op p.cells p.bytes))) ∧
      (∀ name, p.kind = .read name → s.packetReach p = .ok → exec (.girthDelivery ⟨id, .granted⟩) s = .next (s.arrivedAt p)) ∧
      (∀ r, s.packetReach p = .fail r → exec (.girthDelivery ⟨id, .granted⟩) s = .next (s.failPacket p r)) ∧
      (8 ≤ p.dst → p.numbered = true →
        exec (.girthDelivery ⟨id, .refused⟩) s = .next (s.losePacket p GRANT_FAILED (wd (16 * p.code + 8))))) ∧
    (∀ src dst m, s.reinHead? src dst = some m →
      let mine (u : Nat × Nat × Nat) : Bool := u.1 == src && u.2.1 == dst
      let rest : State := { s with reins := s.reins.filter fun x => x.id != m.id }
      let acts (t : State) : Prop := exec (.reinDelivery src ⟨dst, .granted⟩) s = .next t
      (m.flushed = false → m.need ≠ [] → exec (.flush src dst) s = .next (({ s with
          used := s.used.filter fun u => !mine u,
          reins := s.reins.map fun x => if x.id == m.id then { x with flushed := true } else x } : State).sendMarkers m
        (s.used.filter mine))) ∧
      (s.messageReach m = .ok → (m.flushed = true ∨ m.need = [] ∨ ∀ u ∈ s.used, mine u = false) →
        (∀ n ∈ m.need, ∀ p ∈ s.packets, p.id = n → p.arrived = true) →
        let effect (rest : State) (m : Rein) (acts : State → Prop) : Prop :=
          (∀ r, m.kind = .request r → acts (if dst < 8 then rest.enqueue dst r else { rest with ebq := rest.ebq ++ [r] })) ∧
          (∀ a, m.kind = .atomic a → acts { rest with hqs := rest.hqs ++ [(dst, a)] }) ∧
          (∀ ia pc c copy seq, m.kind = .flag ia pc c copy seq → acts { rest with
            flags := rest.flags ++ [{ id := m.id, home := dst, ia := ia, wave := m.wave, copy := copy }] }) ∧
          (∀ gid g, m.kind = .ret gid → rest.grant? gid = some g → acts (rest.homeReturn g)) ∧
          (∀ ep ia len k, m.kind = .epRet ep ia len k → acts (rest.epReturn dst ep ia len k)) ∧
          (∀ k, m.kind = .stamp k → acts (rest.stampArrives k)) ∧ (∀ k, m.kind = .complete k → acts (rest.reported k src)) ∧
          (∀ q, m.kind = .release q → acts rest) ∧
          (∀ a t, m.kind = .answer a → rest.takeAnswer a = some t → acts t)
        (dst < 8 ∨ dst = saddle → effect rest m acts) ∧
        (∀ s1 m1, 8 ≤ dst → dst ≠ saddle → s.numberRein m = some s1 → s1.reins.find? (·.id == m.id) = some m1 →
          m1.dst = dst → m1.src = src → m1.id = m.id →
          let left : State := { s1 with reins := s1.reins.filter fun x => x.id != m.id }
          effect left m1 (fun t => acts (t.stayUnacked m1)) ∧
          (∀ t, left.loseRein m1 GRANT_FAILED (fun c _ => wd (16 * c + 8)) = some t →
            exec (.reinDelivery src ⟨dst, .refused⟩) s = .next t)) ∧
        (8 ≤ dst → dst ≠ saddle → ∀ n s1, m.num = none → s.epNumber dst = some (s1, n) → ∃ t, s.numberRein m = some t ∧
          ∀ x ∈ t.reins, x.id = m.id → x.num = some n)) ∧
      (∀ r t, s.messageReach m = .fail r → rest.reinFail m r = some t → acts t))

/-- R148 to R161, R165, R197, R198, O3 to O5: the home's side of grants. GRANT, GRANT_REQUEST_FAILED, DERIVE, RETURN,
RETURN_ACKNOWLEDGED, RESIDUE_WRITEBACK, STAGED_WRITEBACK_DONE, UNSTAGE_WRITE_DONE and TAG_SWEEP_DONE each complete. A request
that its home has granted makes its register HELD with a fresh tag and an empty store, once no residue of another holder lies
under it; one that is denied, lost on its way or refused leaves its register EMPTY; either answer goes to another die as a
message. A derived child takes the defined bytes of its range from its parent; a moved grant arrives. A child's return gives
its bytes back to its parent, a root's return at its own die writes them to its home, one to another die sends them line by
line and its message after them; a home that is lost or cannot be reached takes none. An acknowledged return frees the
register; residues, staged windows and tag sweeps end. One line for each RETURN event is log entry 60, the return of a lost grant
without write-back log entry 69. The clauses on returns are about states in which no line that a replay walked waits to act. -/
def Obligations.GrantsAtHome : Prop :=
  ∀ s : State,
    (∀ rid h a, s.answerOf? rid = some (h, a) →
      let left := s.unanswer h rid
      let out := left.sendRein h a.req.die 0 (.answer a)
      (∀ i ans, a.verdict = .given i → s.foreignResidue h a.req = false →
        (∀ gid, a.req.who = .grant gid → a.req.die ≠ h → exec (.grant rid ans) s = .next out) ∧
        (∀ gid g, a.req.who = .grant gid → a.req.die = h → s.grant? gid = some g → g.st = .waiting →
          s.tagReady (s.holderAt g.reg) → ∃ t, exec (.grant rid ans) s = .next t ∧
            t.grant? gid = some { g with st := .held, tag := s.tagNow (s.holderAt g.reg), entry := some i, gs := [] } ∧
            (∀ b ∈ (t.die h).answers, b.req.rid ≠ rid) ∧ t.mem = s.mem ∧
            ∀ k, k ≠ gid → t.grant? k = s.grant? k) ∧
        (∀ gid, a.req.who = .grant gid → a.req.die = h → (∀ g, s.grant? gid = some g → g.st ≠ .waiting) →
          exec (.grant rid ans) s = .next left) ∧
        ((∀ gid, a.req.who ≠ .grant gid) → exec (.grant rid ans) s = .next left)) ∧
      (∀ f c ans, a.verdict = .denied f c →
        (∀ gid, a.req.who = .grant gid → a.req.die ≠ h → exec (.grantRequestFailed rid ans) s = .next out) ∧
        (∀ gid g, a.req.who = .grant gid → a.req.die = h → s.grant? gid = some g → g.st = .waiting →
          exec (.grantRequestFailed rid ans) s = .next (left.failRequest g f c)))) ∧
    (∀ g f c, (s.failRequest g f c).grants = s.grants.filter (fun x => x.gid != g.gid) ∧
      (s.failRequest g f c).regFaults = s.regFaults ++ (f.toList.map fun p => (g.reg, { code := p.1, info := p.2, pc := 0 })) ∧
      (s.failRequest g f c).mem = s.mem) ∧
    (∀ rid, s.answerOf? rid = none →
      (∀ r n gid g ans, s.lostRequest? rid = some (r, n) → r.who = .grant gid → s.grant? gid = some g →
        exec (.grantRequestFailed rid ans) s =
          .next (s.failRequest g (some (LINK_PARTITION, linkInfo g.reg.code n r.ia)) 0)) ∧
      (∀ r gid g, s.ebq.find? (·.rid == rid) = some r → r.who = .grant gid → s.grant? gid = some g →
        (s.tagReady (s.holderAt g.reg) → ∃ t, exec (.grant rid .granted) s = .next t ∧
          t.grant? gid = some { g with st := .held, tag := s.tagNow (s.holderAt g.reg), entry := none, gs := [] } ∧
          t.ebq = s.ebq.filter fun x => x.rid != rid) ∧
        (s.lostRequest? rid = none →
          exec (.grantRequestFailed rid .refused) s =
            .next (s.failRequest g (some (GRANT_FAILED, wd (16 * g.reg.code + 8))) 0) ∧
          (r.tryIt = true → exec (.grantRequestFailed rid .granted) s = .next (s.failRequest g none 4))))) ∧
    (∀ gid g, s.grant? gid = some g → g.st = .waiting →
      let at_ := s.holderAt g.reg
      let held := { g with st := .held, derive := none }
      (g.derive = some (.moved false) → exec (.derive gid) s = .next (s.setGrant held)) ∧
      (s.tagReady at_ →
        (g.derive = some (.moved true) → ∃ t, s.newTag? at_.1 at_.2 [g.tag] g.ia g.len = some (t, s.tagNow at_) ∧
          exec (.derive gid) s = .next (t.setGrant { held with tag := s.tagNow at_ })) ∧
        (∀ p pg, g.derive = some (.child p) → s.grant? p = some pg →
          ∃ t, s.newTag? at_.1 at_.2 [pg.tag] g.ia g.len = some (t, s.tagNow at_) ∧ exec (.derive gid) s = .next
            (if g.kind = .x then (t.setGrant { pg with gs := sdels pg.gs g.ia g.len }).setGrant
               { held with tag := s.tagNow at_, gs := scells pg.gs g.ia g.len }
             else t.setGrant { held with tag := s.tagNow at_ })))) ∧
    (∀ gid g path, s.grant? gid = some g → g.st = .returning → g.returned = false → s.grantIdle g = true →
      s.isParked (.ret gid) = false → s.unpinned = true →
      let die := (s.holderAt g.reg).1
      let done (s : State) : State := s.setGrant { g with gs := [], flushed := true, returned := true }
      let staged := g.kind = .x ∧ g.window ≠ none ∧ g.flushed = false ∧ g.lost = false
      (∀ p n c, g.parent = some (p, n, c) → ¬staged →
        exec (.returnGrant gid path) s = .next (s.returnChild g p) ∧
        (s.returnChild g p).grant? gid = some { g with gs := [], returned := true } ∧
        ∀ pg, s.grant? p = some pg → p ≠ gid → g.kind = .x →
          (s.returnChild g p).grant? p = some { pg with gs := smerge pg.gs g.gs }) ∧
      (g.parent = none → g.lost = true → exec (.returnGrant gid path) s = .next (done s)) ∧
      (staged →
        exec (.returnGrant gid path) s = .next (s.setGrant { g with gs := s.windowCells g, flushed := true })) ∧
      (g.parent = none → g.lost = false → ¬staged →
        (g.home = die → (∀ c ∈ g.gs, s.mapped c.1 1) →
          exec (.returnGrant gid path) s = .next ((done (s.hWrite g.gs).1).homeReturn g)) ∧
        (∀ r, g.home ≠ die → s.girthReach die g.home = .fail r → exec (.returnGrant gid path) s = .next (done s)) ∧
        (g.home ≠ die → s.girthReach die g.home = .ok →
          (g.gs = [] → exec (.returnGrant gid path) s = .next ((done s).sendRein die g.home g.by_ (.ret g.gid))) ∧
          (∀ c r t, g.gs = c :: r →
            let line := c.1 / 256 * 256
            s.sendPacket die g.home path .write (scells g.gs line 256) 0 g.by_ 0 0 g.reg.code = some t →
            exec (.returnGrant gid path) s = .next (t.setGrant { g with gs := sdels g.gs line 256 }))))) ∧
    (∀ gid g, s.grant? gid = some g → g.st = .returning → g.returned = true → (∀ m ∈ s.reins ++ s.unacked, m.kind ≠ .ret gid) →
      (g.parent = none → exec (.returnAcknowledged gid) s = .next (s.delGrant gid)) ∧
      (∀ p n c, g.parent = some (p, n, c) →
        exec (.returnAcknowledged gid) s = .next ((s.delGrant gid).childGone p))) ∧
    (∀ die idx e, s.entry? die idx = some e → e.kind = .residue → e.stg = none → s.residueLeaves die e = true →
      s.inSlot = false → exec (.residueWriteback die idx) s =
        .next (s.setDie die { s.die die with entries := (s.die die).entries.filter fun x => x.idx != idx, scan := true })) ∧
    (∀ die seq e, die < 8 → (∀ d < die, (s.die d).entries.find? (fun e => e.seq == seq && e.stg.isSome) = none) →
      (s.die die).entries.find? (fun e => e.seq == seq && e.stg.isSome) = some e → e.kind = .residue →
      exec (.stagedWritebackDone seq) s = .next (s.setDie die
        { s.die die with entries := (s.die die).entries.map fun y => if y.idx == e.idx then { y with stg := none } else y })) ∧
    (∀ gid g w, s.grant? gid = some g → w ∈ s.waves → w.hold = .unstage gid → s.fillOver gid = true →
      s.pendingOver gid g.ia g.len = false → ∃ t, exec (.unstageWriteDone gid) s = .next t ∧
        t.grants = (s.setGrant { g with gs := s.windowCells g, window := none }).grants ∧ t.mem = s.mem ∧
        t.waves = s.waves.map fun w => if w.hold == .unstage gid then { w with hold := .none } else w) ∧
    (∀ die sector tag, (sector, tag) ∈ (s.die die).sweeping →
      exec (.tagSweepDone die sector tag) s =
        .next ((s.setDie die { s.die die with sweeping := (s.die die).sweeping.filter fun p => p != (sector, tag) }).sweepTag
          die sector tag))

/-! Steps of the engines and units -/

/-- R126, R199, R230, R237, R238, R241, R244, R258 to R269, R274, R282 to R286, O6: the engines and units. COPY_FIRE, COPY_START,
SEGMENT_START, COPY_CHUNK, CHPUSH_ACCEPT, MATRIX_ENTRY_START, OBLD_COMPLETE, MMA_COMPLETE, MDRAIN_COMPLETE, UNIT_OP_START,
UNIT_OP_COMPLETE, ACTLD_COMPLETE, GEODE_SEARCH_START, GEODE_SEARCH_COMPLETE, UNCORRECTABLE_ERROR and CORRECTABLE_ERROR each
complete. The copy engine: an operation on channels fires once its source holds its entries and
its destination has room for them; the first operation of the queue that may start does, while fewer than four run; the
next segment of a slot-bound one starts where it fits before the slot; a chunk moves up to the next 64 B of the destination,
and an operation whose last chunk has landed leaves; an entry of CHPUSH is written into its channel.
The matrix queue's head starts in a later clk, and completes when its time is over: an OBLD puts its bytes into the
reservation, an MMA and an MDRAIN write their results. The unit's operation reads its sources at its start and writes its
results 4 clk later (HCW 1); a search goes to the die's Geode, which starts it where it fits before the slot and writes its
scalars at its end. Activation banks are filled; a sector that becomes uncorrectable before a load or matrix work reads it gives the
wave its fault, one of a save frame the context, and one of the saddle die leaves the device at minimal safe function; corrected data
are counted. That an operation leaves the queue when it starts is log entry 28, that matrix and unit work completes at its start plus
its duration log entry 31. The clauses on chunks are about states in which no line that a replay walked waits to act. -/
def Obligations.EngineSteps : Prop :=
  ∀ s : State,
    (∀ id o g, s.op? id = some o → o.fired = false → o.chans ≠ [] → id ∈ (s.core o.core).engineQ →
      s.blockedAhead (s.core o.core) o = false → s.groupStopped o.group = false → s.group? o.group = some g →
      g.canFire o = true → exec (.copyFire id) s = .next (s.fire g o)) ∧
    (∀ die core o, s.nextStart? (die * 40 + core) = some o → exec (.copyStart die core) s = .next (s.start o) ∧
      (∀ p, (s.start o).op? o.id = some p → p.started = true) ∧
      (o.core < s.cores.length → ((s.start o).core o.core).engineQ = (s.core o.core).engineQ.filter (fun n => n != o.id))) ∧
    (∀ die core id rest o, (s.ops.filter fun p => p.core == die * 40 + core && p.started && p.kind != .drain).length < 4 →
      (s.core (die * 40 + core)).engineQ = id :: rest → s.op? id = some o → s.canStart (s.core (die * 40 + core)) o = true →
      exec (.copyStart die core) s = .next (s.start o)) ∧
    (∀ id o g, s.op? id = some o → s.group? o.group = some g → o.started = true → o.suspended = false → s.slotBound o = true →
      o.pos < o.len → o.segEnd < o.pos + s.chunkLen g o → s.fitsSlot o.segBound = true →
      exec (.segmentStart id) s = .next (s.setOp { o with segEnd := min o.len (o.pos + max 65536 (s.chunkLen g o)) })) ∧
    (∀ id path o, s.op? id = some o → o.kind ≠ .drain → s.unpinned = true →
      (∀ t o', s.chunk o path = some t → t.op? id = some o' → t.opDone o' = false →
        exec (.copyChunk id path) s = .next t) ∧
      (∀ t o' t', s.chunk o path = some t → t.op? id = some o' → t.finishOp o' = some t' →
        exec (.copyChunk id path) s = .next t') ∧
      (∀ t, s.chunk o path = none → s.finishOp o = some t → exec (.copyChunk id path) s = .next t) ∧
      (∀ g r sg a, s.group? o.group = some g →
        let n := s.chunkLen g o
        s.chunkReady g o n = true → s.chunkFrom? g o n = some (sg, a) → o.asked ≠ some o.pos →
        s.girthReach g.die sg.home = .fail r →
        s.chunk o path = some (s.failChunk o n LINK_PARTITION (linkInfo sg.reg.code r a))) ∧
      (∀ g t bs t2 o2, s.group? o.group = some g → o.kind = .copy →
        let n := s.chunkLen g o
        s.chunkReady g o n = true → s.srcReach g o n = .ok → s.chunkServed g o n = true → (s.setOp o).readStream g o o.pos n = some (t, bs) →
        (t.setOp o).putChunk g o bs path = some t2 → t2.op? id = some o2 →
        s.chunk o path = some (((t2.fillDone o2 n).chanChunk o2 n).setOp { o2 with pos := o2.pos + n }) ∧
        (o.dst = .sp → n = min (o.len - o.pos) (64 - (o.nums.getD 0 0 + o.pos) % 64))) ∧
      (∀ g, s.group? o.group = some g → o.kind = .copy → o.src = .sp → o.dst = .sp →
        let n := s.chunkLen g o
        let into (i : Nat) : Nat := g.spKey (o.nums.getD 0 0 + o.pos + i)
        let from_ (i : Nat) : Nat := g.spKey (o.nums.getD 1 0 + o.pos + i)
        s.chunkReady g o n = true → (∀ i < n, isSp (into i) = true ∧ isSp (from_ i) = true) →
        ∃ t, exec (.copyChunk id path) s = .next t ∧ ∀ i < n, t.byteAt (into i) = s.byteAt (from_ i))) ∧
    (∀ u ch w e bs g c, s.wave? u = some w → w.pushed? ch = some (e, bs) → s.group? w.group = some g → g.chan? ch = some c →
      c.room 1 = true →
      let ix := c.p + BitVec.ofNat 32 c.v
      let t := Tgt.sp g.uid
      exec (.chpushAccept u ch) s = .next
        (((((s.writeRun t (c.at_ ix) bs).wroteRun 0 t (c.at_ ix) bs.length).setGroup
          (g.setChan ({ c with v := c.v + 1 }.land ix)))).setWave { w with outbox := w.outbox.filter fun x => x != e })) ∧
    (∀ die core,
      let c := die * 40 + core
      (∀ m rest, (s.core c).matQ = m :: rest → m.started = none → m.entered < s.clk → (s.core c).matDone < s.clk →
        s.groupStopped m.group = false → exec (.matrixEntryStart die core) s = .next (s.startMat c m)) ∧
      (∀ q rest start g r src bytes at_ n, (s.core c).matQ = q :: rest → q.started = some start → start + q.time ≤ s.clk →
        q.kind = .obld src bytes at_ n r → s.group? q.group = some g → (g.ress.find? (·.uid == r)).isSome = true →
        (bytes.length = n ∨ bytes = [] ∧ src ≠ none ∧ s.drained q.wave q.seq = true) →
        ∃ t, s.snapAll.doneObld c (s.snapMat q) = some t ∧ exec (.obldComplete die core) s = .next t) ∧
      (∀ q rest start g k sg n l r f la lb word snap, (s.core c).matQ = q :: rest → q.started = some start →
        start + q.time ≤ s.clk → q.kind = .mma sg n l r f la lb word snap → s.group? q.group = some g →
        s.kernel? g.kernel = some k → (snap ≠ none ∨ ∀ x ∈ sg, s.drained x.wave x.seq = true) →
        ∃ t, s.snapAll.doneMma c (s.snapMat q) = some t ∧ exec (.mmaComplete die core) s = .next t ∧ t.mem = s.mem) ∧
      (∀ q rest start g k base rows oo os ro rs p al st r0 c0 act res rm f bank accs op o, (s.core c).matQ = q :: rest →
        q.started = some start → start + q.time ≤ s.clk →
        q.kind = .mdrain base rows oo os ro rs p al st r0 c0 act res rm f bank accs op → s.drained q.wave q.seq = true →
        s.group? q.group = some g → s.kernel? g.kernel = some k → s.op? op = some o →
        (∀ i, s.residueSpan (g.spKey (q.kind.outAt i).1, drainSize f) = false) →
        ∃ t, s.doneMdrain c q = some t ∧ exec (.mdrainComplete die core) s = .next t ∧ t.op? op = none) ∧
      (∀ id w g seq pc n at_ start r bs grp q rest, (s.core c).matQ = q :: rest →
        q = { id := id, wave := w, group := grp, seq := seq, pc := pc, entered := n, started := some start,
              kind := .obld none bs at_ bs.length r.uid } → start + 24 + cdiv bs.length 256 ≤ s.clk →
        s.group? grp = some g → g.ress.find? (·.uid == r.uid) = some r →
        exec (.obldComplete die core) s = .next ((s.snapAll.setCore c
          { (s.snapAll.core c).popMat s.clk with ob := sputs (s.snapAll.core c).ob (r.base + at_) bs }).freeRes grp)) ∧
      (∀ u rest, (s.core c).unitQ = u :: rest → u.started = none → u.issued < s.clk → (s.core c).unitDone < s.clk →
        (∀ w, s.wave? u.wave = some w → s.groupStopped w.group = false) →
        exec (.unitOpStart die core) s = .next (s.startUnit c u)) ∧
      (∀ o rest t w, (s.core c).unitQ = o :: rest → o.started = some t → t + o.kind.time ≤ s.clk →
        s.wave? o.wave = some w →
        ((∀ d a n two, o.kind ≠ .srch d a n two) →
          (o.kind.time = 4 ∨ o.kind.time = 1 ∧ ∃ k, o.kind = .cw k) ∧
          exec (.unitOpComplete die core) s = .next ((s.setCore c { s.core c with unitQ := rest, unitDone := s.clk }).setWave
            (w.unitWrite s.clk (((s.kernelOf? w).map (·.views)).getD 0) o))) ∧
        exec (.unitOpComplete die core) s = .next (s.doneUnit c o)) ∧
      ((∃ l ∈ (s.core c).actLoads, l.due ≤ s.clk) →
        exec (.actldComplete die core) s = .next (s.setCore c ((s.core c).actldOver s.clk)))) ∧
    (∀ die x rest, (s.die die).searches = x :: rest → x.left = none →
      (∀ w, s.wave? x.wave = some w → s.groupStopped w.group = false) → s.geodeHeld die x = false →
      s.fitsSlot (searchTime (s.protoCount die x)) = true → exec (.geodeSearchStart die) s =
        .next (s.setSearch die { x with left := some (32 + cdiv (s.protoCount die x) 512) })) ∧
    (∀ die x w n base best second, (s.die die).searches.find? (fun y => y.left == some 0 && !y.suspended) = some x →
      s.wave? x.wave = some w → n = s.protoCount die x →
      base = ((s.die die).tables.getD x.table { owner := 0, base := 0, n := 0 }).base →
      nearest ((List.range n).map fun i => popHv (xorHv x.query (s.proto die base i))) = (best, second) →
      let v := (w.sset x.d (wd best.1)).sset (x.d + 1) (wd best.2)
      exec (.geodeSearchComplete die) s = .next ((s.setDie die
        { s.die die with searches := (s.die die).searches.filter fun y => y.id != x.id }).setWave
        (if x.two then (v.sset (x.d + 2) (wd second.1)).sset (x.d + 3) (wd second.2) else v))) ∧
    (∀ u id lane at_ tier w l r p, s.wave? u = some w → w.loads.find? (·.id == id) = some l → l.atomic = false →
      l.lanes.find? (fun r => r.got.isNone && r.lane == lane) = some r → at_ < l.size →
      s.readPlace? (s.coreOf w) l.tgt l.hint (r.addr + at_) = some p → tierFits tier p = true →
      exec (.uncorrectableError (.load u id lane at_) tier) s = .next (({ s with
          bad := s.bad.filter (fun b => b.sec != p / 64) ++ [{ sec := p / 64, tier := tier, mask := 0, by_ := 0 }] } :
        State).failLoad w l MEM_UNCORRECTABLE (memInfo l.code tier l.pc))) ∧
    (∀ die core m rest tier, (s.core (die * 40 + core)).matQ = m :: rest → m.started ≠ none → tier = 3 ∨ tier = 5 →
      exec (.uncorrectableError (.matrix die core 0) tier) s = .next (s.failMat (die * 40 + core) m tier)) ∧
    (∀ tier, s.stage ≠ .off → s.stage ≠ .minimal → exec (.uncorrectableError .saddle tier) s = .next s.toMinimal) ∧
    (∀ ctx, (s.ctx ctx).saveUsed ≠ 0 → (s.ctx ctx).st ∈ [CtxSt.active, .preempted, .faulted, .killing] → ∃ info,
      exec (.uncorrectableError (.frame ctx) 0) s = .next ((({ s with freeCtr := s.freeCtr + 1 } : State).record ctx
        { clk := s.clk, pc := 0, info := info, kid := 0, code := MEM_UNCORRECTABLE, source := 2, wave := 65535 }).fatal ctx)) ∧
    (∀ die, exec (.correctableError die) s =
      .next (s.setDie die { s.die die with corrected := (s.die die).corrected + 1 }))

/-! Groups, pages and contexts -/

/-- R28, R29, R172, R289, R296, R308 to R322, R327 to R330, O13, O14: groups, pages and contexts. The first kernel in order
whose next group fits gets it placed, with its launch waves at the entry, and RUNNING at once by the model's reading (log entry
35); a drained group is DONE; a quiet kernel completes. An access to an unmapped page parks, or is bounced and sent again after
3,000 clk; a replay walks every parked access again, and a line that it has walked acts at the page it found though a shoot-down
drops the runs of its range meanwhile, which is done once those lines have acted. A context is created and set up, pre-empted
when its frames fit and its groups are quiet, with its queues SUSPENDED at the request by the model's reading (log entry 66),
resumed, killed, released, walked and freed; a die retires. -/
def Obligations.GroupsPagesContexts : Prop :=
  ∀ s : State,
    (∀ k v die cores, s.launchOrder.findSome? (fun k => (s.choosePlace k k.placed (s.fitsOn k)).map fun u => (k, u)) =
        some (k, v, die, cores) →
      exec .placement s = .next (s.placeGroup k v die cores)) ∧
    (∀ (g : Group) (k : Kernel) (i n : Nat), ∃ vs : List Wave, (s.launchWaves g k i n).waves = s.waves ++ vs ∧
      vs.length = n ∧ ∀ (j : Nat) (v : Wave), vs[j]? = some v →
        v.uid = s.nextUid + j ∧ v.group = g.uid ∧ v.index = i + j ∧ v.st = .resident ∧ v.slotHeld = true ∧
        v.core = g.cores.getD ((i + j) % max g.cores.length 1) 0 ∧ v.quad = (i + j) / max g.cores.length 1 % 4 ∧
        v.parts.map (fun p => (p.pc, p.lanes, p.nest)) = [(k.entry, BitVec.allOnes 32, [])] ∧ v.sf = 0 ∧ v.key = k.seed ∧
        v.ctr = wd ((g.grp * k.wpg + (i + j)) * 2 ^ 32) ∧ v.outbox = [] ∧ v.loads = [] ∧
        ∀ m a, k.args[m]? = some a → v.sget (m + 1) = a) ∧
    (∀ gu g, s.group? gu = some g → s.drainOver g = true →
      ∃ t : State, exec (.groupDrainComplete gu) s = .next (t.groupDone g.kernel) ∧
        t.waves = s.waves.map (fun w => w.giveUp gu) ∧ t.group? gu = some { g with st := .done, bars := [], chans := [], cvs := [], laces := [], ress := [] }) ∧
    (∀ ku k, s.kernel? ku = some k → k.st = .draining → k.reports = some [] → s.kernelQuiet k = true → s.residuesOver k = true →
      let s1 := (s.setKernel { k with st := .complete }).launchGone k
      let gone (w : Wave) : Bool := s1.waveOf ku w.uid
      exec (.completion ku) s = .next (State.settleKernels { s1 with
        waves := s1.waves.filter fun w => !gone w, groups := s1.groups.filter fun g => g.kernel != ku })) ∧
    (∀ r ia reason level, s.lineParked r ia = false → s.lineWalked r ia = false → s.needsByte r ia = true → s.unmappedAt ia = some (reason, level) →
      let die := iaDie ia % 8
      let p : Parked := { ref := r, ia := ia, ctx := (s.accOwner r).map (·.1), since := s.clk }
      ((s.die die).parked.length < 4096 → exec (.park r ia) s =
        .next ((s.setDie die { s.die die with parked := (s.die die).parked ++ [p] }).recordPark die r ia reason level)) ∧
      (4096 ≤ (s.die die).parked.length → exec (.park r ia) s =
        .next (s.setDie die { s.die die with bouncedAcc := (s.die die).bouncedAcc ++ [(p, s.clk)],
                                             bounced := (s.die die).bounced + 1 }))) ∧
    (∀ r ia p since,
      let die := iaDie ia % 8
      let t := s.setDie die { s.die die with bouncedAcc := (s.die die).bouncedAcc.filter fun b => b != (p, since) }
      (s.die die).bouncedAcc.find? (fun b => b.1.ref == r && b.1.ia == ia) = some (p, since) → since + 3000 ≤ s.clk →
      ((t.walk ia).2 = none → exec (.bounceResend r ia) s = .next ((t.walk ia).1.wake r ia)) ∧
      (∀ reason level, (t.walk ia).2 = some (reason, level) →
        exec (.bounceResend r ia) s = .next ((t.walk ia).1.parkAt die { p with since := s.clk } reason level))) ∧
    (∀ (r : AccRef) (ia : Nat), (∀ id, r ≠ .inbound id) → iaSpace ia = 0 → ∀ t k, s.keyOf ia = (t, .inl k) →
      let die := iaDie ia % 8
      (s.wake r ia).die die = { s.die die with
        walked := (s.die die).walked ++ [({ ref := r, ia := ia, ctx := none, since := s.clk }, k % 2 ^ 48 / 2 ^ 14)] }) ∧
    (∀ r die x off_, die < 8 → runOf? ((s.die die).pins r) (off_ / 2 ^ 14) = some x → (s.die die).ptroot.getLsbD 0 = true →
      let pfn := x.pfn + (off_ / 2 ^ 14 - x.page)
      s.frameLost die pfn = false →
      ∃ t : State, (t.translate die off_).2 = .ok (pfn * 2 ^ 14 + off_ % 2 ^ 14) ∧ t.mem = s.mem ∧ t.waves = s.waves ∧
        ∀ (f : State → Option State) u, f t = some u → ∃ v, s.pinning r f = some v ∧ v.mem = u.mem ∧ v.waves = u.waves) ∧
    (∀ mask, exec (.jxreplay mask) s = .next (s.replayMask mask.toNat)) ∧
    (∀ die w,
      let n := 2 ^ fld w 60 4
      let page := fld w 14 30
      let gone : Run := { page := page - page % n, size := n, pfn := 0 }
      exec (.xinv die w) s = .next (s.setDie die
        { s.die die with runs := if w.getLsbD 0 then [] else (s.die die).runs.filter (fun r => !runsMeet r gone), busy := true })) ∧
    (∀ die, (s.die die).busy = true → (∀ x ∈ (s.die die).walked, s.stillOpen x.1.ref x.1.ia = false) →
      exec (.shootDownDone die) s = .next (s.setDie die { s.die die with busy := false, walked := [] })) ∧
    (∀ die v, v.toNat ≤ 32 → (∀ t ∈ (s.die die).tables, t.n = 0) →
      let base := 2 ^ 48 + die * 2 ^ 44 + (2 ^ 28 - v.toNat * 2 ^ 20)
      (∀ e ∈ (s.die die).entries, e.kind ≠ .residue → meets (e.ia, e.len) (base, v.toNat * 2 ^ 20) = false) →
      (∀ q ∈ s.queues, ∀ c ∈ q.inflight, ∀ src dst len, c.2 = .slatew src dst len →
        meets (dst, len) (base, v.toNat * 2 ^ 20) = false) →
      exec (.gmibWrite die v) s = .next (s.setDie die { s.die die with gmib := v.toNat })) ∧
    (∀ ctx n w0 w1 w2, (s.ctx ctx).st ≠ .free → (mapOf w0 w1 w2).ok = true →
      exec (.rangeRegisterSet ctx n w0 w1 w2) s =
        .next (s.setCtx ctx { s.ctx ctx with maps := (s.ctx ctx).maps.set n (mapOf w0 w1 w2) })) ∧
    (∀ ctx n w0 w1 w2, (s.ctx ctx).st = .creating → (mapOf w0 w1 w2).ok = false →
      exec (.rangeRegisterSet ctx n w0 w1 w2) s = .next (s.setCtx ctx Ctx.reset)) ∧
    (∀ ctx,
      let c := s.ctx ctx
      let running := s.ctxGroups ctx .running
      (∀ spec, c.st = .free → exec (.contextCreate ctx spec) s = .next (s.setCtx ctx (Ctx.created spec))) ∧
      (∀ spec, c.st = .creating → exec (.contextCreate ctx spec) s = .next (s.setCtx ctx
        (if s.vdiesOk c.vdies && c.maps.all Map.ok then { c with st := .active } else Ctx.reset))) ∧
      (c.st = .active → c.preempting = false → c.saveUsed + (running.map s.frameNeed).sum ≤ c.saveCap →
        exec (.contextPreempt ctx) s = .next ((s.queues.filter fun q => q.owner == ctx && q.st != 5 && !q.resetReq).foldl
          (fun s q => s.setQueue { s.queue q.q with st := 4 }) (s.setCtx ctx { c with preempting := true }))) ∧
      (c.st = .active → c.preempting = true → (∀ g ∈ running, s.groupQuiet g = true) →
        let t := running.foldl (fun s g => s.saveGroup g) s
        exec (.contextPreempt ctx) s = .next (t.setCtx ctx { t.ctx ctx with
          st := .preempted, preempting := false, saveUsed := (t.ctx ctx).saveUsed + (running.map s.frameNeed).sum })) ∧
      (c.st = .preempted → ∃ t : State, exec (.contextResume ctx) s = .next (t.restoreAll (t.savedGroups ctx)) ∧
        t = (s.queues.filter fun q => q.owner == ctx && q.st == 4 && !q.resetReq).foldl (fun s q =>
          (s.setQueue { s.queue q.q with st := 0 }).evalQueue q.q) (s.setCtx ctx { c with st := .active })) ∧
      (c.st = .active → c.preempting = false → exec (.contextResume ctx) s = .next (s.restoreAll (s.savedGroups ctx))) ∧
      (c.st = .creating → exec (.contextKill ctx) s = .next
        (((s.queues.filter (·.owner == ctx)).map (·.q)).foldl (fun s n => s.disown n) (s.setCtx ctx Ctx.reset))) ∧
      (c.st = .active ∨ c.st = .preempted ∨ c.st = .faulted → exec (.contextKill ctx) s = .next (s.killContext ctx)) ∧
      (∀ merged, c.st = .killing → ∃ t : State, exec (.killRelease ctx merged) s =
        .next (t.setCtx ctx { t.ctx ctx with st := .reclaiming, walked := false, saveUsed := 0 }) ∧
        (∀ g ∈ t.groups, ∀ k ∈ s.kernels, k.ctx = ctx → g.kernel = k.uid → g.st = .done) ∧
        (∀ k ∈ t.kernels, k.ctx = ctx → k.done = k.placed)) ∧
      (c.st = .reclaiming → c.walked = false → ∃ t : State, exec (.reclaimWalk ctx) s =
        .next (t.setCtx ctx { c with walked := true }) ∧
        (∀ d ∈ t.dies, (∀ e ∈ d.entries, e.ctx = ctx → e.ep ≠ none) ∧ ∀ b ∈ d.tables, b.owner = ctx → b.n = 0)) ∧
      (c.st = .reclaiming → c.walked = true → 
        (∀ m ∈ s.reins, ∀ g ∈ s.grants, g.ctx = ctx → m.kind = .release g.gid → s.messageReach m ≠ .ok) →
        (s.inSlot = true → c.faults.length ≤ c.landed) →
        ∃ t : State, exec (.walkDone ctx) s = .next (t.setCtx ctx Ctx.reset) ∧
          (∀ g ∈ t.grants, g.ctx ≠ ctx) ∧ ∀ k ∈ t.kernels, k.ctx ≠ ctx)) ∧
    (∀ die, (s.die die).retired = false → exec (.dieRetirement die) s = .next (s.retireDie die 0))

/-! Queues and registers -/

/-- R8, R283, R299 to R306, R329, R331, R345, R354, R369, R370, R372, R373: queues and registers. DISPATCH, LAUNCH, WAITQ, MARK,
SIGNAL, SLATEW, GEODEW, REPLAY, FENCEQ, SLATEW_COMPLETE, GEODEW_COMPLETE, QUEUE_RESET, REGISTER_WRITE, FABRIC_TABLE_WRITE and
INBOUND_WINDOW_WRITE each complete. While the device is in full service the
dispatcher takes the head of the READY queue of highest priority, after the one served last; the head's bytes are read and
CONSUMED rises by one and is stored; then the command starts by its code and the queue is evaluated again. A malformed entry
is reason 1; MARK sets its queue's mark; WAITQ ends at once or waits; LAUNCH makes the kernel its record describes; SIGNAL,
SLATEW and GEODEW go in flight with their addresses checked, of a GEODEW with N = 0 too, and with the reasons that log entry 63
gives, both by the model's reading; REPLAY needs a privileged queue. WAITQ, SLATEW and GEODEW complete; a reset ends WAITQs.
Fault records of a context go to its ring over a route from the saddle die, and are dropped and counted where no route leads to
it, by the model's reading (log entry 123). Registers take the bits that their tables give them. -/
def Obligations.QueueSteps : Prop :=
  ∀ s : State,
    (∀ n q e, s.heads n q e → ∃ s1, s.takeEntry n = some (s1, e) ∧ s1.queue n = { q with consumed := q.consumed + 1 } ∧
      let s2 : State := { s1 with served := n }
      let s3 : State := if operand e 0 1 = 1 then s2.setQueue { s2.queue n with prev := none } else s2
      let gives (i : Instr) (t : State) : Prop := exec i s = .next (t.evalQueue n)
      let op (at_ k : Nat) : Nat := operand e at_ k
      gives .dispatch (s2.startEntry n q.consumed e) ∧
      (entryOk e = false → gives .dispatch (s3.queueError n 1)) ∧
      (entryOk e = true →
        (∀ ia, op 0 1 = 1 → op 8 8 % 64 = 0 → s.commandIa? q.owner (op 8 8) 128 0 = some ia → s.mapped ia 128 →
          ∃ s4 bs, s3.hRead ia 128 = (s4, some bs) ∧
            (recordOk (recordWords bs) = false → gives (.launch n) (s4.queueError n 9)) ∧
            (recordOk (recordWords bs) = true → ∃ t k dep, gives (.launch n) (State.recordRead t k) ∧
              k = kernelOf s.nextUid q.owner n q.consumed (s.ctx q.owner).det dep (recordWords bs) ∧
              t.kernels = s.kernels ++ [k] ∧ (op 16 1 = 1 → dep = none))) ∧
        (op 0 1 = 2 → op 8 2 ≤ 1023 →
          ((s.queue (op 8 2)).owner ≠ q.owner → gives (.waitq n) (s2.queueError n 7)) ∧
          ((s.queue (op 8 2)).owner = q.owner → op 16 8 ≤ (s.queue (op 8 2)).mark.toNat → gives (.waitq n) s2) ∧
          ((s.queue (op 8 2)).owner = q.owner → (s.queue (op 8 2)).mark.toNat < op 16 8 →
            gives (.waitq n) (s2.commandRuns n (.waitq (op 8 2) (wd (op 16 8)))))) ∧
        (op 0 1 = 3 → gives (.mark n) (s2.setQueue { s2.queue n with mark := wd (op 8 8) })) ∧
        (∀ d f, op 0 1 = 4 → op 16 8 % 8 = 0 → op 24 8 % 8 = 0 → s.commandIa? q.owner (op 16 8) 8 1 = some d →
          s.commandIa? q.owner (op 24 8) 8 1 = some f → 8 ≤ iaSpace d → 8 ≤ iaSpace f → homeOf d = homeOf f →
          gives (.signal n) ((s2.commandRuns n (.signal d f (wd (op 8 8)) 0)).trySignal n s2.nextUid d f (wd (op 8 8)))) ∧
        (∀ a d, op 0 1 = 5 → op 24 8 % 256 = 0 → op 24 8 ≤ 2 ^ 28 → op 24 8 ≠ 0 → op 8 8 % 256 = 0 → op 16 8 % 256 = 0 →
          s.commandIa? q.owner (op 8 8) (op 24 8) 0 = some a → s.commandIa? q.owner (op 16 8) (op 24 8) 1 = some d →
          (iaSpace a = 0 ∨ 8 ≤ iaSpace a) → iaSpace d = 1 → iaDie d < 8 → d % 2 ^ 44 + op 24 8 ≤ s.geodeBase (iaDie d) →
          d % 2 ^ 44 < 2 ^ 28 →
          (s.saddleReach (iaDie d) = .ok → gives (.slatew n) (s2.commandRuns n (.slatew a d (op 24 8)))) ∧
          (∀ r, s.saddleReach (iaDie d) = .fail r → gives (.slatew n) (s2.queueError n 10))) ∧
        (∀ a die, op 0 1 = 6 → op 16 1 ≤ 7 → op 17 1 ≤ 7 → op 20 4 ≤ 32768 → op 8 8 % 256 = 0 →
          s.commandIa? q.owner (op 8 8) (max (1024 * op 20 4) 1) 0 = some a →
          physDie? (s.ctx q.owner).vdies (op 17 1) = some die →
          let tab := (s.die die).tables.getD (op 16 1) { owner := 0, base := 0, n := 0 }
          (tab.n ≠ 0 → tab.owner ≠ q.owner → gives (.geodew n) (s2.queueError n 8)) ∧
          (tab.n = 0 ∨ tab.owner = q.owner → gives (.geodew n) (s2.commandRuns n (.geodew a die (op 16 1) (op 20 4))))) ∧
        (op 0 1 = 7 → gives (.replay n) (if q.priv then s2.replayMask (op 8 1) else s2.queueError n 6)) ∧
        (op 0 1 = 8 → gives (.fenceq n) s2))) ∧
    (∀ n e,
      let q := s.queue n
      ∀ s1 s2, s.hRead q.headIa 64 = (s1, some e) →
      s1.hWrite ((leBytes 8 (q.consumed + 1)).zipIdx.map fun b => (q.dbell + 8 + b.2, b.1)) = (s2, true) →
      s.takeEntry n = some (s2.setQueue { q with consumed := q.consumed + 1 }, e)) ∧
    (∀ n c, (s.queue n).inflight.find? (fun c => match c.2 with
        | .waitq t v => decide (v.toNat ≤ (s.queue t).mark.toNat)
        | _ => false) = some c →
      exec (.waitq n) s = .next ((s.commandDone n c.1).evalQueue n)) ∧
    (∀ n id src dst len rest e, (s.queue n).inflight = (id, .slatew src dst len) :: rest →
      s.slateHeld n (iaDie dst) = some e → s.inSlot = false → s.isParked (.command n) = false →
      s.saddleReach (iaDie dst) = .ok → s.sourceReach src = true → s.mapped src len → s.mapped dst len →
      ∃ s1 bs s2, s.hRead src len = (s1, some bs) ∧ s1.hWrite (bs.zipIdx.map fun b => (dst + b.2, b.1)) = (s2, true) ∧
        exec (.slatewComplete n) s = .next (((s2.dropHolder (iaDie dst) e.idx).commandDone n id).evalQueue n)) ∧
    (∀ n id src die t len rest, (s.queue n).inflight = (id, .geodew src die t len) :: rest → (s.die die).retired = false →
      let tab := (s.die die).tables.getD t { owner := 0, base := 0, n := 0 }
      s.inSlot = false → s.isParked (.command n) = false → s.saddleReach die = .ok →
      (∀ x ∈ (s.die die).searches, x.table = t → id ≤ x.id) → (tab.n = 0 ∨ tab.owner = (s.queue n).owner) →
      (len = 0 → exec (.geodewComplete n) s =
        .next (((s.setTable die t { owner := 0, base := 0, n := 0 }).commandDone n id).evalQueue n)) ∧
      (len ≠ 0 → s.sourceReach src = true →
        (s.freeSlots? die t len = none → exec (.geodewComplete n) s =
          .next (((s.commandDone n id).queueError n 8).evalQueue n)) ∧
        (∀ b, s.freeSlots? die t len = some b → s.mapped src (1024 * len) →
          let at_ := 2 ^ 48 + die * 2 ^ 44 + s.geodeBase die + 1024 * b
          s.mapped at_ (1024 * len) → ∃ s1 bs s2, s.hRead src (1024 * len) = (s1, some bs) ∧
          s1.hWrite (bs.zipIdx.map fun y => (at_ + y.2, y.1)) = (s2, true) ∧
          exec (.geodewComplete n) s =
            .next (((s2.setTable die t { owner := (s.queue n).owner, base := b, n := len }).commandDone n id).evalQueue n)))) ∧
    (∀ n, exec (.queueReset n) s = .next (s.resetQueue n)) ∧
    (∀ ctx,
      let c := s.ctx ctx
      c.landed < c.faults.length →
      (s.inSlot = true ∨ s.saddleReach c.ringDie = .waits → s.landRecord ctx = s) ∧
      (∀ r, s.inSlot = false → s.saddleReach c.ringDie = .fail r → s.landRecord ctx = s.setCtx ctx { c with
        faults := c.faults.take c.landed, dropped := (c.dropped + (c.faults.length - c.landed)) % 2 ^ 32 }) ∧
      (s.inSlot = false → s.saddleReach c.ringDie = .ok → ∃ t : State, t = { s with mem := t.mem } ∧
        s.landRecord ctx = t.setCtx ctx { c with landed := c.faults.length } ∧
        (∀ a, (∀ j k, c.landed ≤ j → j < c.faults.length → k < 32 → a ≠ c.recordKey j + k) → t.byteAt a = s.byteAt a) ∧
        ∀ r k, c.landed + 1 = c.faults.length → c.faults.getLast? = some r → k < 32 →
          t.byteAt (c.recordKey c.landed + k) = r.bytes.getD k 0)) ∧
    (∀ v who, (∀ die, exec (.registerWrite ⟨who, .ptroot die⟩ v) s =
        .next (s.setDie die { s.die die with ptroot := v &&& 0x0000FFFFFFFFFE01 })) ∧
      (∀ die pa, pa % 8 = 0 → pa < installed → s.inSlot = false → s.saddleReach die = .ok → exec (.registerWrite ⟨.saddleTree, .physWord die pa⟩ v) s =
        .next (s.putBytes (physKey die pa) (leBytes 8 v.toNat))) ∧
      (∀ n word, exec (.registerWrite ⟨who, .queueWord n word⟩ v) s =
        .next ((s.setQueue ((s.queue n).write word v)).evalQueue n)) ∧
      (∀ die, exec (.registerWrite ⟨who, .sensorClear die⟩ v) s =
        .next (s.setDie die { s.die die with sens2 := (s.die die).sens2 &&& ~~~(v &&& 3) })) ∧
      exec (.registerWrite ⟨.saddleTree, .brandw⟩ v) s = .next { s with brandw := v.setWidth 19 } ∧
      (fld v 0 3 ≠ 1 → exec (.registerWrite ⟨who, .swap⟩ v) s = .next { s with swapImg := fld v 12 40 * 4096 }) ∧
      (fld v 0 3 = 1 → s.riggingRuns = true → s.swapStat ≠ 1 → s.swapStat ≠ 2 → exec (.registerWrite ⟨who, .swap⟩ v) s =
        .next { s with swapImg := fld v 12 40 * 4096, swapStat := 1, swapFrom := fld v 12 40 * 4096 }) ∧
      (v.toNat = s.ver0 → exec (.registerWrite ⟨.saddleTree, .minVersion 0⟩ v) s = .next { s with minVer0 := v.toNat }) ∧
      (v.toNat = s.ver1 → exec (.registerWrite ⟨.saddleTree, .minVersion 1⟩ v) s = .next { s with minVer1 := v.toNat }) ∧
      exec (.registerWrite ⟨who, .replay⟩ v) s = .next (s.replayMask (fld v 0 8)) ∧
      (∀ r, permits .rigging r v = false → exec (.registerWrite ⟨.rigging, r⟩ v) s = .next s)) ∧
    (∀ e v,
      let w := v &&& 0xFFFF0003
      let t := wset s.fabric e w
      (w.getLsbD 0 = false ∨ fld w 16 16 ≠ 0 ∧ (t.filter fun x => x.2.getLsbD 0 && !x.2.getLsbD 1).length ≤ 64) →
      exec (.fabricTableWrite e v) s = .next { s with fabric := t }) ∧
    (∀ n w0 w1 w2 w3, (windowOf w0 w1 w2 w3).ok = true → ∃ t, exec (.inboundWindowWrite n w0 w1 w2 w3) s = .next t ∧
      t = { s with windows := t.windows } ∧ wget t.windows (4 * n) = w0 &&& 0x00003FFF0000007F ∧
      wget t.windows (4 * n + 1) = w1 &&& 0x3FFFFF000 ∧ wget t.windows (4 * n + 2) = w2 &&& 0x000FFFFFFFFFF000 ∧
      wget t.windows (4 * n + 3) = w3 &&& 0x7FFFFF ∧
      ∀ k, (k < 4 * n ∨ 4 * n + 3 < k) → wget t.windows k = wget s.windows k)

/-! Links and the fabric -/

/-- R333 to R336, R340 to R346: links, die resets and the fabric. LINK_TRAIN, LINK_FENCE, LINK_UNFENCE, LINK_RETIRE,
LINK_FAULT, TRAINING_ATTEMPT, FLIT_REPLAY, DIE_RESET, DIE_DRAIN_DONE, DRAIN_EXPIRY, INBOUND_ACCESS, PACKET_RESEND,
SELECTIVE_ACK, PACKET_TIMEOUT and DELIVERY_CONTEXT_CLOSE each complete. A command moves a link as Table 19.3 gives, and nothing else
happens to the link in that clk, by the model's reading (`Link.after`, log entry 73); a training
attempt ends with the width, lanes and rein lanes that both ends have, where both ends find the same, or fails, and the third failure leaves the link
DOWN; a fault retrains, the third within a second takes the link DOWN; the 64th replay within 1 ms is a fault. A die reset
fences the die's links and ends its groups, drains, and resets the die. An endpoint's access is refused without a window
that permits it, and otherwise reads, writes, or queues its atomic, request or return at the home, and parks there line by line
while pages are unmapped; how a refusal counts and a parked access ends is log entry 75. A packet or message that is not
acknowledged is sent again, acknowledged, or fails after 1 ms (log entry 135); an idle delivery context closes; which messages
are numbered and when contexts close is log entry 110. -/
def Obligations.LinkSteps : Prop :=
  ∀ s : State,
    let now := linkTime s.clk
    (∀ n,
      let l := s.link n
      let to_ (l : Link) : State := s.linkChange n { l with after := s.clk + 1 }
      exec (.linkTrain n) s = .next (to_ (l.trainCmd n now)) ∧
      exec (.linkFence n) s = .next (to_ l.fence) ∧
      exec (.linkUnfence n) s = .next (to_ (l.unfence n now)) ∧
      exec (.linkRetire n) s = .next (to_ l.retire) ∧
      (l.after ≤ s.clk → exec (.linkFault n) s = .next (s.linkChange n (l.fault n now))) ∧
      (∀ near far : LinkEnd, l.st = 1 → l.after ≤ s.clk →
        (∀ r, now ≤ l.deadline → trainResult n near.view near.seen = some r → trainResult n far.seen far.view = some r →
          exec (.trainingAttempt n near far) s = .next ((s.linkChange n (l.run n r)).backInService)) ∧
        (l.deadline < now ∨ trainResult n near.view near.seen = none ∨ trainResult n near.view near.seen ≠ trainResult n far.seen far.view →
          exec (.trainingAttempt n near far) s = .next (s.linkChange n (l.failAttempt n now)))) ∧
      ((l.st = 2 ∨ l.st = 3) → l.after ≤ s.clk →
        let ts := now :: l.replayTimes.filter fun t => decide (now < t + 3000000)
        let l' := { l with replays := min 255 (l.replays + 1), replayTimes := ts }
        exec (.flitReplay n) s = .next (if 64 ≤ ts.length then s.linkChange n (l'.fault n now) else s.setLink n l'))) ∧
    (∀ (l : Link) n,
      (l.st ≤ 3 → (l.trainCmd n now).st = 1 ∧ (l.trainCmd n now).attempts = 0) ∧
      (3 < l.st → l.trainCmd n now = l) ∧ (l.st ≠ 5 → l.fence.st = 4) ∧ (l.st = 5 → l.fence = l) ∧
      (l.st = 4 → (l.unfence n now).st = 1) ∧ (l.st ≠ 4 → l.unfence n now = l) ∧ l.retire.st = 5 ∧
      (l.st = 1 → l.attempts < 2 → (l.failAttempt n now).st = 1 ∧ (l.failAttempt n now).attempts = l.attempts + 1) ∧
      (2 ≤ l.attempts → (l.failAttempt n now).st = 0) ∧
      ((l.st = 2 ∨ l.st = 3) →
        let recent := (l.faultTimes.filter fun t => decide (now < t + 3000000000)).length
        (2 ≤ recent → (l.fault n now).st = 0) ∧ (recent < 2 → (l.fault n now).st = 1)) ∧
      (l.st = 0 ∨ l.st = 4 ∨ l.st = 5 → l.fault n now = l)) ∧
    (∀ die force, s.inService die = true → (s.die die).resetting = .none → (force = true ∨ s.keepsRoutes die = true) →
      exec (.dieReset die force) s = .next (s.startReset die)) ∧
    (∀ die t, (s.die die).resetting = .drain t →
      (s.crossed die = true → (∀ e ∈ (s.die die).entries, e.kind ≠ .residue) →
        exec (.dieDrainDone die) s = .next (s.finishReset die)) ∧
      (t ≤ now → exec (.drainExpiry die) s = .next ((s.discardIn die).finishReset die))) ∧
    (∀ ep win port, (s.link (32 + port)).carries false = true →
      let s1 := s.touchDeliv ep
      let here (ia : Nat) (girth : Bool) : Prop := s1.inboundReach port (homeOf ia) girth = true ∧ (girth = true → s1.inSlot = false)
      let acts (ia : Nat) (acc : InAcc) (cells : Store) (done : State → State) : State :=
        let x : Inbound := { id := s1.nextUid, ep := ep, port := port, win := win, ia := ia, acc := acc }
        let t : State := x.lines.foldl (fun s a => match s.walk a with
          | (s, none) => (s.hWrite (cells.filter fun c => c.1 / 256 == a / 256)).1
          | (s, some (reason, level)) =>
            s.parkAt (iaDie a % 8) { ref := .inbound s1.nextUid, ia := a, ctx := none, since := s.clk } reason level)
          { s1 with nextUid := s1.nextUid + 1 }
        if t.isParked (.inbound s1.nextUid) then { t with inbound := t.inbound ++ [x] } else done t
      (∀ off_ len,
        let load := InAcc.load off_ len
        (s1.inboundIa? ep win off_ len 1 = none → exec (.inboundAccess ep win port load) s = .next (s1.refuseAt port)) ∧
        (∀ ia, s1.inboundIa? ep win off_ len 1 = some ia → here ia true →
          exec (.inboundAccess ep win port load) s = .next (acts ia load [] id))) ∧
      (∀ off_ bytes flag,
        let write := Instr.inboundAccess ep win port (.write off_ bytes flag)
        (s1.inboundIa? ep win off_ bytes.length 2 = none → exec write s = .next (s1.refuseAt port)) ∧
        (∀ ia, s1.inboundIa? ep win off_ bytes.length 2 = some ia → here ia true →
          let acts := acts ia (.write off_ bytes flag) (bytes.zipIdx.map fun b => (ia + b.2, b.1))
          (flag = none → exec write s = .next (acts id)) ∧
          (∀ f, flag = some f → s1.inboundIa? ep win f 8 2 = none → exec write s = .next ((acts id).refuseAt port)) ∧
          (∀ f fa, flag = some f → s1.inboundIa? ep win f 8 2 = some fa →
            exec write s = .next (acts fun t =>
              let fl : Flag := { id := t.nextUid, home := homeOf fa, ia := fa, wave := 0, copy := true }
              { t with nextUid := t.nextUid + 1, flags := t.flags ++ [fl] })))) ∧
      (∀ off_ op wide x y,
        let t : IType := if wide then .n64 else .n32
        (s1.inboundIa? ep win off_ (itypeBytes t) 4 = none →
          exec (.inboundAccess ep win port (.atomic off_ op wide x y)) s = .next (s1.refuseAt port)) ∧
        (∀ ia, s1.inboundIa? ep win off_ (itypeBytes t) 4 = some ia → here ia false →
          let ls : List AtLane := [{ lane := 0, addr := ia, x := x, y := y }]
          let a : HAtom := { id := s1.nextUid, pc := 0, code := 31, wave := 0, load := 0, gid := 0, op := op, t := t, lanes := ls,
                             entries := 0 }
          exec (.inboundAccess ep win port (.atomic off_ op wide x y)) s =
            .next { s1 with nextUid := s1.nextUid + 1, hqs := s1.hqs ++ [(homeOf ia, a)] })) ∧
      (∀ off_ len kind,
        (s1.inboundIa? ep win off_ len (kindPerm kind) = none →
          exec (.inboundAccess ep win port (.grantReq off_ len kind)) s = .next (s1.refuseAt port)) ∧
        (∀ ia, s1.inboundIa? ep win off_ len (kindPerm kind) = some ia → ia % 256 = 0 → len % 256 = 0 → len ≠ 0 → here ia false →
          exec (.inboundAccess ep win port (.grantReq off_ len kind)) s =
            .next (({ s1 with nextUid := s1.nextUid + 1 } : State).enqueue (homeOf ia)
              { rid := s1.nextUid, src := 320 * 4 + 1024 + ep, who := .endpoint ep, ia := ia, len := len, kind := kind, tryIt := false, ctx := 0, die := 8,
                sector := 0, det := none }))) ∧
      (∀ off_ len kind bytes ia, s1.inboundIa? ep win off_ len (if bytes.isEmpty then 0 else 2) = some ia →
        here ia (!bytes.isEmpty) → (∀ b ∈ bytes, b.1 < len) →
        exec (.inboundAccess ep win port (.ret off_ len kind bytes)) s = .next
          (acts ia (.ret off_ len kind bytes) (bytes.map fun b => (ia + b.1, b.2)) fun t => t.epReturn (homeOf ia) ep ia len kind))) ∧
    (∀ id p, s.packets.find? (·.id == id) = some p → 8 ≤ p.dst →
      (p.numbered = true → s.inSlot = false → linkTime p.last + 48000 ≤ now → exec (.packetResend id) s =
        .next (({ s with packets := replace (·.id == id) { p with last := s.clk } s.packets } : State).touchDeliv (p.dst - 8))) ∧
      (linkTime p.first + 3000000 ≤ now → exec (.packetTimeout id) s = .next (s.failPacket p 4))) ∧
    (∀ id m, s.packets.find? (·.id == id) = none → (s.reins ++ s.unacked).find? (·.id == id) = some m → m.num ≠ none → 8 ≤ m.dst →
      m.dst ≠ saddle → linkTime m.last + 48000 ≤ now → exec (.packetResend id) s =
        .next (({ s with reins := replace (·.id == id) { m with last := s.clk } s.reins,
                         unacked := replace (·.id == id) { m with last := s.clk } s.unacked } : State).touchDeliv (m.dst - 8))) ∧
    (∀ id m, s.packets.find? (·.id == id) = none → s.unacked.find? (·.id == id) = some m → linkTime m.first + 3000000 ≤ now →
      exec (.packetTimeout id) s = .next (s.loseSent m)) ∧
    (∀ ep win bitmap,
      let hit (num : Nat) : Bool := num / 64 == win && bitmap.getLsbD (num % 64)
      let mine (a : Ack) : Bool := ((s.packets.filter fun p => p.dst == 8 + ep && p.sel && p.arrived && hit p.num).map (·.id) ++
        (s.unacked.filter fun m => m.dst == 8 + ep && m.sel && m.num.any hit).map (·.id)).contains a.id
      exec (.selectiveAck ep win bitmap) s = .next ((s.acks.filter mine).foldl (fun s a => s.acked a) s)) ∧
    (∀ ep d, s.delivs.find? (·.ep == ep) = some d → linkTime d.last + 24000 ≤ now →
      exec (.deliveryContextClose ep) s = .next { s with delivs := s.delivs.filter fun x => x.ep != ep })

/-! Slots, sensors, start-up and recovery -/

/-- R295, R348, R350, R352, R354, R357 to R360, R367 to R371, R375: slots, sensors, samples, start-up and recovery. SLOT_BEGIN,
SLOT_END, SENSOR_SWEEP, SAMPLE, POWER_GOOD, STAGE_COMPLETE, RIGGING_SWAP, SWAP_PAUSE, WATCHDOG_W0 to W4 and JXWDOG_W1 to W4
with JXWDOG_W2_FORCED each complete; a write of jxwdog asks for the same levels, and the rigging's requests 4 and 5 are not
permitted. A slot begins
every 65,536 clk and ends after 2,048, suspending active work; a sweep at its last clk sets the sensors, and a die at
115 °C for two sweeps is retired; a sampler that is due writes one record or drops it. Start-up runs its stages in order; a
rigging refused in stage 1 leaves the device at minimal safe function by the model's reading (log entry 98). A swap verifies
its image, pauses dispatch and replaces the rigging; its steps are log entry 82, and the refusal of an image that no route
leads to is log entry 125. The watchdog kills a silent wave's group, then a context, resets dies, resets the queues, and resets
the device; what W0 to W4 do and when is log entry 81. -/
def Obligations.SlotsAndRecovery : Prop :=
  ∀ s : State,
    (s.inSlot = false → s.clk % 65536 = 0 → exec .slotBegin s = .next s.beginSlot) ∧
    (s.inSlot = true → 2048 ≤ s.clk % 65536 → exec .slotEnd s = .next s.endSlot) ∧
    (s.endSlot.inSlot = false ∧ ∀ o ∈ s.endSlot.ops, o.suspended = false) ∧
    (∀ r : Readings, s.stage ≠ .off → s.clk % 65536 = 2047 →
      s.swept ≠ some (s.clk / 65536) →
      ∃ t : State, t = { s with swept := some (s.clk / 65536), msens0 := t.msens0, msens1 := t.msens1 } ∧ fld t.msens0 48 16 = s.clk / 65536 % 65536 ∧
        fld t.msens0 32 16 = r.vin.toNat ∧ fld t.msens0 16 16 = r.tout.toNat ∧ fld t.msens0 0 16 = r.tin.toNat ∧
        fld t.msens1 32 32 = r.pmod.toNat ∧ fld t.msens1 0 32 = r.ppkg.toNat ∧
        exec (.sensorSweep r) s =
          .next ((r.dies.take 8).zipIdx.foldl (fun s x => s.sweepDie (s.clk / 65536) x.2 x.1) t)) ∧
    (∀ die core g,
      let i := die * 40 + core
      let m := (s.core i).sampler
      m.on = true → s.clk = m.ton + (m.n + 1) * m.period → m.owner = some g → ∀ gr, s.group? g = some gr →
      ∃ t, exec (.sample die core) s = .next t ∧
        (i < s.cores.length →
          let m' := (t.core i).sampler
          m'.n = m.n + 1 ∧ m' = { m with n := m'.n, target := m'.target, w := m'.w, dropped := m'.dropped } ∧
          ((m.w + 2 ^ 32 - m.c) % 2 ^ 32 < m.cap → m'.w = (m.w + 1) % 2 ^ 32 ∧ m'.dropped = m.dropped) ∧
          (m.cap ≤ (m.w + 2 ^ 32 - m.c) % 2 ^ 32 → m'.w = m.w ∧ m'.dropped = min (2 ^ 32 - 1) (m.dropped + 1) ∧ t.mem = s.mem))) ∧
    (s.stage = .off → exec .powerGood s = .next { s with stage := .s0, clk := 0, cursor := 0, begun := false }) ∧
    (∀ x : StageLoss,
      let t := s.stageLoss x
      let refused (kind least : Nat) : Prop := x.refused = true ∨ Config.flashVersion kind < least
      (s.stage = .s0 → x.fatal = false → ¬ refused 0 s.minVer0 → exec (.stageComplete x) s = .next s.portZero.enterStage1) ∧
      (s.stage = .s0 → (x.fatal = true ∨ refused 0 s.minVer0) →
        exec (.stageComplete x) s = .next s.portZero.toMinimal) ∧
      (s.stage = .s1 → x.fatal = false → ¬ refused 1 s.minVer1 → t.dieBad.length ≠ 8 → exec (.stageComplete x) s =
        .next { t with stage := .s2, ver1 := Config.flashVersion 1, riggingAt := t.clk }) ∧
      (s.stage = .s1 → (x.fatal = true ∨ refused 1 s.minVer1 ∨ t.dieBad.length = 8) →
        exec (.stageComplete x) s = .next t.toMinimal) ∧
      (s.stage = .s2 → x.fatal = false → exec (.stageComplete x) s =
        .next (({ t with stage := .s3 } : State).trainLinks (linkNumbers.filter isPort))) ∧
      (s.stage = .s3 → x.fatal = false → exec (.stageComplete x) s = .next
        { t with stage := .full, cores := t.cores.zipIdx.map fun c =>
            if (t.die (c.2 / 40)).resetting == .none then { c.1 with service := false } else c.1 }) ∧
      ((s.stage = .s2 ∨ s.stage = .s3) → x.fatal = true → exec (.stageComplete x) s = .next t.toMinimal)) ∧
    ((s.link 32).st = 5 → s.portZero = s) ∧
    ((s.link 32).st ≠ 5 → s.portZero = s.setLink 32 { s.link 32 with st := 3, rlanes := 1, width := 0 }) ∧
    s.toMinimal = { s.portZero with stage := .minimal } ∧
    (∀ img : ImageCheck, s.riggingRuns = true →
      (s.swapStat ≠ 1 → s.swapStat ≠ 2 →
        exec (.riggingSwap img) s = .next { s with swapStat := 1, swapFrom := s.swapImg }) ∧
      (∀ r, s.swapStat = 1 → s.imageReach = .fail r → exec (.riggingSwap img) s = .next { s with swapStat := 4 }) ∧
      (s.swapStat = 1 → s.imageReach = .ok → s.inSlot = false → s.mapped s.swapFrom 88 →
        ∃ t h, s.hRead s.swapFrom 88 = (t, some h) ∧
        let version := leNat ((h.drop 8).take 8)
        let length := leNat ((h.drop 16).take 8)
        let good : Prop := leNat (h.take 4) = 0x4A584931 ∧ h.getD 4 0 = 1 ∧ img.sigOk = true ∧ length ≤ 2 ^ 38
        (¬ good → exec (.riggingSwap img) s = .next { t with swapStat := 4 }) ∧
        (good → t.mapped (s.swapFrom + 256) length → ∃ u body, t.hRead (s.swapFrom + 256) length = (u, some body) ∧
          (sha512 body ≠ (h.drop 24).take 64 → exec (.riggingSwap img) s = .next { u with swapStat := 4 }) ∧
          (sha512 body = (h.drop 24).take 64 → version < s.minVer1 → exec (.riggingSwap img) s = .next { u with swapStat := 5 }) ∧
          (sha512 body = (h.drop 24).take 64 → s.minVer1 ≤ version →
            exec (.riggingSwap img) s = .next { u with swapStat := 2, swapVer := version })))) ∧
    (s.swapStat = 2 → exec .swapPause s = .next
      (if s.paused then { s with paused := false, ver1 := s.swapVer, swapStat := 3, riggingAt := s.clk }
       else { s with paused := true, pauseAt := s.clk })) ∧
    (∀ u w k, s.wave? u = some w → s.kernelOf? w = some k → (w.st = .resident ∨ w.st = .sleeping) →
      w.progress + 2 ^ 32 ≤ s.clk → ∃ t : State, exec (.watchdogW0 u) s = .next (t.killGroup w.group) ∧
        t = { s.record k.ctx { clk := s.clk, pc := (w.parts.head?.map (·.pc)).getD 0, info := 0, kid := k.kid, code := WATCHDOG,
                               source := 2, wave := w.index } with wdogLast := 0 }) ∧
    (∀ ctx (req : Bool),
      let i := if req then Instr.jxwdogW1 ctx else .watchdogW1 ctx
      (req = true ∨ ∃ w ∈ s.waves, (w.st = .resident ∨ w.st = .sleeping) ∧ w.progress + 2 ^ 33 ≤ s.clk ∧
        ∃ k, s.kernelOf? w = some k ∧ k.ctx = ctx) →
      (s.ctx ctx).st = .creating ∨ (s.ctx ctx).st = .active ∨ (s.ctx ctx).st = .preempted ∨ (s.ctx ctx).st = .faulted →
      ∃ t, State.kill? { s.wdogRecord ctx 1 req 0 false with wdogLast := 1, ladder := s.ladder ++ [(1, ctx, s.clk)] } ctx = some t ∧
        exec i s = .next t ∧ (t.ctx ctx).st = if (s.ctx ctx).st = .creating then .free else .killing) ∧
    (∀ ctx,
      let s1 := s.level2Ends
      let late := s1.ladder.filter fun l => l.1 == 1 && l.2.1 == ctx && decide (l.2.2 + 300000000 ≤ s1.clk)
      let dies := ((s1.kernels.filter (·.ctx == ctx)).flatMap (·.dies)).eraseDups
      (late = [] → exec (.watchdogW2 ctx) s = .next s1) ∧
      (late ≠ [] → exec (.watchdogW2 ctx) s = .next (dies.foldl (fun s d => s.autoLevel2 d)
        { s1 with ladder := s1.ladder.filter fun l => !late.contains l }))) ∧
    (∀ die,
      (∀ t, s.level2 die false false = some t → s.autoLevel2 die = t) ∧
      (s.level2 die false false = none → (s.inService die = false ∨ (s.die die).resetting ≠ .none) → s.autoLevel2 die = s) ∧
      (s.level2 die false false = none → s.inService die = true → (s.die die).resetting = .none → ∃ t : State, s.autoLevel2 die =
        { t with wdogLast := 2, ladder := t.ladder ++ [(11, die, s.clk)] } ∧
        t = (s.ctxsOf die).foldl (fun t c => t.wdogRecord c 2 false die false) s)) ∧
    (∀ die, s.inService die = true → (s.die die).resetting = .none →
      let after (v : State) : Prop := v.wdogLast = 2 ∧ ∃ x, (v.die die).resetting = .drain x
      (s.keepsRoutes die = true → ∃ v, exec (.jxwdogW2 die) s = .next v ∧ after v) ∧
      ∃ v, exec (.jxwdogW2Forced die) s = .next v ∧ after v) ∧
    (s.riggingRuns = true →
      let after (t : State) : Prop := t.wdogLast = 3 ∧ t.paused = false ∧ t.riggingAt = s.clk
      ((∃ l ∈ s.ladder, l.2.2 + 1500000000 ≤ s.clk ∧
          ((l.1 = 2 ∨ l.1 = 10) ∧ (s.die l.2.1).resetting ≠ .none ∨ l.1 = 11)) ∨ s.riggingAt + 3000000000 ≤ s.clk →
        ∃ t, exec .watchdogW3 s = .next t ∧ after t) ∧
      ∃ t, exec .jxwdogW3 s = .next t ∧ after t) ∧
    (s.stage ≠ .off → s.stage ≠ .s0 →
      ((∃ l ∈ s.ladder, l.1 = 3 ∧ l.2.2 + 6000000000 ≤ s.clk) ∨ 15000000000 ≤ s.clk →
        exec .watchdogW4 s = .next s.deviceReset) ∧
      exec .jxwdogW4 s = .next s.deviceReset ∧
      s.deviceReset.stage = .s0 ∧ s.deviceReset.clk = 0 ∧ s.deviceReset.waves = [] ∧ s.deviceReset.mem = [] ∧
      s.deviceReset.minVer0 = s.minVer0 ∧ s.deviceReset.minVer1 = s.minVer1) ∧
    (∀ v, let to_ (who : Who) := exec (.registerWrite ⟨who, .wdog⟩ v) s
      let tgt := fld v 10 6
      (fld v 0 3 = 1 → ∀ who, to_ who = exec (.jxwdogW1 tgt) s) ∧
      (fld v 0 3 = 2 → tgt < 8 → ∀ who, to_ who = exec (.jxwdogW2 tgt) s) ∧
      (fld v 0 3 = 3 → tgt < 8 → ∀ who, to_ who = exec (.jxwdogW2Forced tgt) s) ∧
      (fld v 0 3 = 4 → to_ .saddleTree = exec .jxwdogW3 s ∧ to_ .rigging = .next s) ∧
      (fld v 0 3 = 5 → to_ .saddleTree = exec .jxwdogW4 s ∧ to_ .rigging = .next s))
end

