-- ==== Sys2Proof/Laws/Access.lean ====
section
/-! SUPPORT. The checks of an access: what a register that may be used, bounds, alignment and miss-status entries
answer. -/

namespace Sys2Proof.Laws

open Sys2Proof Sys2Proof.Machine

/-- A register without a deferred fault traps none. -/
theorem regFault_ok {x : Iss} {code : Nat} {g : Grant} (h : x.names code g) : x.s.regFault (x.regRef code) = .ok () := by
  unfold State.regFault; rw [h.1]

/-- A register that may be read passes the checks of a load. -/
theorem usable_reads {x : Iss} {code : Nat} {g : Grant} (h : x.reads code g) {kinds : List Kind}
    (hk : kinds.contains g.kind = true) (op : Nat) : x.usable code true kinds op = .ok g := by
  unfold Iss.usable
  have h1 : (g.st == .waiting) = false := by rcases h.2 with e | e <;> rw [e] <;> rfl
  have h2 : (g.st == .held || (true && g.st == .frozen)) = true := by rcases h.2 with e | e <;> rw [e] <;> rfl
  simp only [regFault_ok h.1, h.1.2, h1, h2, hk]; rfl

/-- A HELD register passes the checks of every word that takes its kind. -/
theorem usable_holds {x : Iss} {code : Nat} {g : Grant} (h : x.holds code g) {kinds : List Kind}
    (hk : kinds.contains g.kind = true) (ro : Bool) (op : Nat) : x.usable code ro kinds op = .ok g := by
  unfold Iss.usable
  have h1 : (g.st == .waiting) = false := by rw [h.2]; rfl
  have h2 : (g.st == .held || (ro && g.st == .frozen)) = true := by rw [h.2]; rfl
  simp only [regFault_ok h.1, h.1.2, h1, h2, hk]; rfl

/-- A WAITING register makes the word wait. -/
theorem usable_waiting {x : Iss} {code : Nat} {g : Grant} (h : x.names code g) (hw : g.st = .waiting) (ro : Bool)
    (kinds : List Kind) (op : Nat) : x.usable code ro kinds op = .error .wait := by
  unfold Iss.usable
  have h1 : (g.st == .waiting) = true := by rw [hw]; rfl
  simp only [regFault_ok h, h.2, h1]; rfl

/-- An EMPTY register traps REGION_STATE. -/
theorem usable_empty {x : Iss} {code : Nat} (hf : x.s.regFaults.find? (fun f => f.1 == x.regRef code) = none)
    (hr : x.s.reg? (x.regRef code) = none) (ro : Bool) (kinds : List Kind) (op : Nat) :
    x.usable code ro kinds op = .error (.trap REGION_STATE (wd code)) := by
  unfold Iss.usable State.regFault
  simp only [hf, hr]; rfl

/-- A register in a state that the word does not take traps REGION_STATE. -/
theorem usable_state {x : Iss} {code : Nat} {g : Grant} (h : x.names code g) {ro : Bool} (hw : g.st ≠ .waiting)
    (hh : g.st ≠ .held) (hf : g.st = .frozen → ro = false) (kinds : List Kind) (op : Nat) :
    x.usable code ro kinds op = .error (.trap REGION_STATE (wd (code + 32 * g.st.code))) := by
  unfold Iss.usable
  have h1 : (g.st == .waiting) = false := by simpa using hw
  have h2 : (g.st == .held || (ro && g.st == .frozen)) = false := by
    cases hg : g.st <;> simp_all
  simp only [regFault_ok h, h.2, h1, h2]; rfl

/-- A kind that the word does not take traps REFUSED_KIND. -/
theorem usable_kind {x : Iss} {code : Nat} {g : Grant} (h : x.holds code g) {kinds : List Kind}
    (hk : kinds.contains g.kind = false) (ro : Bool) (op : Nat) :
    x.usable code ro kinds op = .error (.trap REFUSED_KIND (wd (code + 32 * kindNum g.kind + 256 * op))) := by
  unfold Iss.usable
  have h1 : (g.st == .waiting) = false := by rw [h.2]; rfl
  have h2 : (g.st == .held || (ro && g.st == .frozen)) = true := by rw [h.2]; rfl
  simp only [regFault_ok h.1, h.1.2, h1, h2, hk]; rfl

/-- The offsets of the active lanes. -/
theorem offs_eq (x : Iss) (b : VCode) (z imm : Nat) (act : List Nat) :
    x.offs b z imm act = act.map fun l => (l, x.off b z imm l) := rfl

/-- Accesses in bounds pass the bounds check. -/
theorem inBounds_ok {x : Iss} {h : Hd} {len z imm : Nat} {b : VCode} (hf : x.fits h len z imm b) (code : Nat) :
    inBounds code len z (x.offs b z imm (x.active h)) = .ok () := by
  unfold inBounds
  rw [offs_eq, List.find?_eq_none.2]
  intro o ho
  obtain ⟨l, hl, rfl⟩ := List.mem_map.1 ho
  have := (hf l hl).1
  simpa using this

/-- Aligned accesses pass the alignment check. -/
theorem aligned_ok {x : Iss} {h : Hd} {len z imm : Nat} {b : VCode} (hf : x.fits h len z imm b) (code : Nat) :
    aligned code z (x.offs b z imm (x.active h)) = .ok () := by
  unfold aligned
  rw [offs_eq, List.find?_eq_none.2]
  intro o ho
  obtain ⟨l, hl, rfl⟩ := List.mem_map.1 ho
  simp [(hf l hl).2]

/-- A condition that holds passes. -/
@[simp] theorem need_true (code : Nat) (info : Word) : need true code info = .ok () := rfl

/-- The place of an access through a register that may be read. -/
theorem place_reads {x : Iss} {h : Hd} {code : GCode} {g : Grant} {z imm : Nat} {b : VCode} (hr : x.reads code.toNat g)
    (hf : x.fits h g.len z imm b) {fe : Fe} (hd : fe = .none ∨ x.s.direct g = true) (op : Nat) :
    x.place (some code) (x.offs b z imm (x.active h)) z true [.x, .s, .a] op fe =
      .ok { tgt := .grant g.gid, base := g.ia, direct := x.s.direct g, code := code.toNat } := by
  have hk : ([.x, .s, .a] : List Kind).contains g.kind = true := by cases g.kind <;> rfl
  have hn : (fe == .none || x.s.direct g) = true := by rcases hd with e | e <;> simp [e]
  simp only [Iss.place, usable_reads hr hk, inBounds_ok hf, aligned_ok hf, hn, bind, Except.bind, need_true]

/-- The place of an access through a HELD register of a kind that the word takes. -/
theorem place_holds {x : Iss} {h : Hd} {code : GCode} {g : Grant} {z imm : Nat} {b : VCode} (hr : x.holds code.toNat g)
    {kinds : List Kind} (hk : kinds.contains g.kind = true) (hf : x.fits h g.len z imm b) {fe : Fe}
    (hd : fe = .none ∨ x.s.direct g = true) (ro : Bool) (op : Nat) :
    x.place (some code) (x.offs b z imm (x.active h)) z ro kinds op fe =
      .ok { tgt := .grant g.gid, base := g.ia, direct := x.s.direct g, code := code.toNat } := by
  have hn : (fe == .none || x.s.direct g) = true := by rcases hd with e | e <;> simp [e]
  simp only [Iss.place, usable_holds hr hk, inBounds_ok hf, aligned_ok hf, hn, bind, Except.bind, need_true]

/-- The place of an access to the scratchpad. -/
theorem place_sp {x : Iss} {h : Hd} {z imm : Nat} {b : VCode} (hf : x.fits h x.scr z imm b) (ro : Bool)
    (kinds : List Kind) (op : Nat) (fe : Fe) :
    x.place none (x.offs b z imm (x.active h)) z ro kinds op fe =
      .ok { tgt := .sp x.g.uid, base := 0, direct := true, code := 31 } := by
  simp only [Iss.place, inBounds_ok hf, aligned_ok hf, bind, Except.bind]

/-- A word whose entries are free takes them at once. -/
theorem withEntries_free {x : Iss} {n : Nat} (h : x.entriesFree n) (s : State) (w : Wave) (m : Nat) :
    x.withEntries s w m n = .done (x.taken s n) w .next := by
  unfold Iss.withEntries Iss.taken
  by_cases h0 : n = 0
  · simp [h0]
  · have h' : n ≤ x.freeEntries := h
    simp only [h0, if_false, h', if_true]

/-- A load without lanes changes no cache before it reads. -/
@[simp] theorem loading_nil (x : Iss) (p : Place) (hint z : Nat) : x.loading p hint z [] = x := by
  have : x.s.loadHint x.coreIx p.tgt p.direct hint z [] = x.s := by
    unfold State.loadHint
    split
    · rfl
    · split
      · rfl
      · split <;> rfl
  unfold Iss.loading; rw [this]

/-- A store that meets neither a residue's window nor an OBLD of its wave does not wait for them. -/
theorem storeFree_ok {x : Iss} {t : Tgt} {z : Nat} {addrs : List Nat} (h : x.free t z addrs) :
    x.storeFree t z addrs = .ok () := by
  unfold Iss.storeFree
  rw [if_neg]
  intro hc
  obtain ⟨a, ha, hc⟩ := List.any_eq_true.1 hc
  obtain ⟨sp, hs, hc⟩ := List.any_eq_true.1 hc
  rw [Bool.and_eq_true] at hc
  have := h a ha sp hs hc.1
  simp [this.1, this.2] at hc

/-- A load that may be made, with some lane active, goes in flight. -/
theorem load_next (x : Iss) (h : Hd) (g? : Option GCode) (b : VCode) (z imm : Nat) (dest : LoadDest) (p : Place)
    (hp : x.place g? (x.offs b z imm (x.active h)) z true [.x, .s, .a] 0 .none = .ok p) (ha : x.active h ≠ [])
    (at_ : List (Nat × Nat)) (hat : at_ = (x.active h).map fun l => (l, p.base + x.off b z imm l))
    (hint : Nat) (y : Iss) (hy : y = x.loading p hint z (at_.map (·.2)))
    (hf : y.entriesFree (y.missing p hint z (at_.map (·.2))).length) :
    x.load g? b z imm .none hint dest (x.active h) = .done (y.taking (y.missing p hint z (at_.map (·.2))).length)
      { x.w with loads := x.w.loads ++ [y.loadP p.code p.tgt z at_ dest false (y.missing p hint z (at_.map (·.2))) hint] }
      .next := by
  have ha' : (x.active h).isEmpty = false := by simpa using ha
  subst hat hy
  have e1 : ((x.offs b z imm (x.active h)).map fun o => p.base + o.2) =
      ((x.active h).map fun l => (l, p.base + x.off b z imm l)).map (·.2) := by
    simp [offs_eq, List.map_map, Function.comp_def]
  have e2 : ((x.offs b z imm (x.active h)).map fun o => ({ lane := o.1, addr := p.base + o.2, got := none } : LaneRd)) =
      ((x.active h).map fun l => (l, p.base + x.off b z imm l)).map fun l => { lane := l.1, addr := l.2, got := none } := by
    simp [offs_eq, List.map_map, Function.comp_def]
  simp only [Iss.load, hp, bind, Except.bind, Chk.eff, ha', e1, e2]
  exact withEntries_free hf _ _ _

/-- A load with no active lane does nothing. -/
theorem load_none (x : Iss) (h : Hd) (g? : Option GCode) (b : VCode) (z imm : Nat) (fe : Fe) (hint : Nat) (dest : LoadDest)
    (p : Place) (hp : x.place g? (x.offs b z imm (x.active h)) z true [.x, .s, .a] 0 fe = .ok p) (ha : x.active h = []) :
    x.load g? b z imm fe hint dest (x.active h) = .done x.s x.w .next := by
  rw [ha] at hp ⊢
  have e : x.offs b z imm [] = [] := rfl
  rw [e] at hp
  simp only [Iss.load, e, hp, bind, Except.bind, Chk.eff, List.isEmpty_nil, if_true, List.map_nil, loading_nil]

theorem zipIdx_map_fst {α β : Type} (l : List α) (f : α → β) (n : Nat) : (l.zipIdx n).map (fun o => f o.1) = l.map f := by
  induction l generalizing n with
  | nil => rfl
  | cons a r ih => simp only [List.zipIdx_cons, List.map_cons, ih]

/-- Caches take no names. -/
theorem intoL2_nextUid (s : State) (d k : Nat) (c : CSec) : (s.intoL2 d k c).nextUid = s.nextUid := rfl

theorem intoL1_nextUid (s : State) (k : Nat) (c : CSec) : (s.intoL1 k c).nextUid = s.nextUid := by
  unfold State.intoL1
  dsimp only
  split
  · split <;> rfl
  · rfl

theorem outOfL1_nextUid (s : State) (k tag sec : Nat) (drop : Bool) : (s.outOfL1 k tag sec drop).nextUid = s.nextUid := by
  unfold State.outOfL1
  dsimp only
  split
  · rfl
  · split <;> rfl

theorem mergePiece_nextUid (s : State) (k : Nat) (g : Grant) (hint : Nat) (p : Nat × Nat × Nat) :
    (s.mergePiece k g hint p).nextUid = s.nextUid := by
  unfold State.mergePiece
  dsimp only
  split
  · exact intoL1_nextUid _ _ _
  · split
    · rw [intoL2_nextUid, outOfL1_nextUid]
    · rfl

@[simp] theorem mergeStore_nextUid (s : State) (k : Nat) (t : Tgt) (direct : Bool) (hint z : Nat) (addrs : List Nat) :
    (s.mergeStore k t direct hint z addrs).nextUid = s.nextUid := by
  unfold State.mergeStore
  cases t with
  | sp _ => rfl
  | grant gid =>
    dsimp only
    split
    · rfl
    · split
      · rfl
      · rename_i g hg _
        clear hg
        generalize pieces z addrs = l
        induction l generalizing s with
        | nil => rfl
        | cons a r ih => rw [List.foldl_cons, ih, mergePiece_nextUid]

/-- A store to scratchpad bytes meets no cache. -/
theorem storing_direct (x : Iss) (t : Tgt) (hint z : Nat) (addrs : List Nat) : x.storing t true hint z addrs = x.taking 0 := by
  unfold Iss.storing State.mergeStore Iss.taking Iss.taken
  cases t with
  | sp _ => rfl
  | grant gid => dsimp only; split <;> rfl

/-- A store that may be made enters the outbox, one entry for each active lane. -/
theorem store_next (x : Iss) (h : Hd) (g? : Option GCode) (b : VCode) (z imm : Nat) (hint : Nat) (data : Nat → List Byte)
    (p : Place) (hp : x.place g? (x.offs b z imm (x.active h)) z false [.x] 1 .none = .ok p)
    (hf : x.free p.tgt z ((x.active h).map fun l => p.base + x.off b z imm l)) :
    x.store g? b z imm .none hint data (x.active h) =
      .done (x.storing p.tgt p.direct hint z ((x.active h).map fun l => p.base + x.off b z imm l))
      { x.w with outbox := x.w.outbox ++ (x.active h).map fun l =>
                   x.entry p.code p.tgt (.write (p.base + x.off b z imm l) (data l) []) } .next := by
  have e1 : ((x.offs b z imm (x.active h)).map fun o => p.base + o.2) = ((x.active h).map fun l => p.base + x.off b z imm l) := by
    simp [offs_eq, List.map_map, Function.comp_def]
  simp only [Iss.store, hp, bind, Except.bind, Chk.eff, e1, storeFree_ok hf, beq_self_eq_true, if_true, ite_self]
  unfold Iss.storing State.fresh
  simp only [mergeStore_nextUid]
  refine congrArg (fun k => Eff.done _ k .next) ?_
  congr 2
  refine (zipIdx_map_fst (x.offs b z imm (x.active h))
    (fun o => x.entry p.code p.tgt (.write (p.base + o.2) (data o.1) [])) 0).trans ?_
  rw [offs_eq, List.map_map]; rfl

end Sys2Proof.Laws
end

