-- ==== Sys2Proof/Laws/Ints.lean ====
section
/-! SUPPORT. The operations of IntOps on sub-elements, as bits: what each gives on values of its width. -/

namespace Sys2Proof.Laws

open Sys2Proof Sys2Proof.Machine

/-- The widths of the integer types. -/
theorem bits_cases (t : IType) : t.bits = 8 ∨ t.bits = 16 ∨ t.bits = 32 ∨ t.bits = 64 := by cases t <;> simp [IType.bits]

/-- A sub-element as a number. -/
theorem sub_eq (w : Nat) (x : Word) (j : Nat) : sub w x j = (el w j x).toNat := by
  simp [sub, fld, el, BitVec.extractLsb'_toNat, Nat.shiftRight_eq_div_pow]

/-- The value of `n` digits of `w` bits. -/
def digits (w : Nat) (f : Nat → Nat) (n : Nat) : Nat := ((List.range n).map fun j => f j % 2 ^ w * 2 ^ (w * j)).sum

theorem digits_succ (w : Nat) (f : Nat → Nat) (n : Nat) :
    digits w f (n + 1) = f 0 % 2 ^ w + 2 ^ w * digits w (fun j => f (j + 1)) n := by
  simp only [digits, List.range_succ_eq_map, List.map_cons, List.map_map, List.sum_cons, Nat.mul_zero, Nat.pow_zero,
    Nat.mul_one, Function.comp_def, ← List.sum_map_mul_left]
  congr 3
  funext j
  rw [Nat.mul_succ, Nat.pow_add]; ring

theorem digits_lt (w : Nat) (f : Nat → Nat) (n : Nat) : digits w f n < 2 ^ (w * n) := by
  induction n generalizing f with
  | zero => simp [digits]
  | succ n ih =>
    have h1 := ih fun j => f (j + 1)
    have h2 := Nat.mod_lt (f 0) (Nat.two_pow_pos w)
    rw [digits_succ, Nat.mul_succ, Nat.pow_add, Nat.mul_comm (2 ^ (w * n))]
    calc f 0 % 2 ^ w + 2 ^ w * digits w (fun j => f (j + 1)) n
        < 2 ^ w + 2 ^ w * digits w (fun j => f (j + 1)) n := by omega
      _ = 2 ^ w * (digits w (fun j => f (j + 1)) n + 1) := by ring
      _ ≤ 2 ^ w * 2 ^ (w * n) := Nat.mul_le_mul_left _ h1

theorem digits_get (w : Nat) (f : Nat → Nat) (n j : Nat) (h : j < n) : digits w f n / 2 ^ (w * j) % 2 ^ w = f j % 2 ^ w := by
  induction j generalizing f n with
  | zero =>
    cases n with
    | zero => omega
    | succ n => rw [digits_succ]; simp
  | succ j ih =>
    cases n with
    | zero => omega
    | succ n =>
      have h2 := Nat.mod_lt (f 0) (Nat.two_pow_pos w)
      rw [digits_succ, Nat.mul_succ, Nat.add_comm (w * j), Nat.pow_add, ← Nat.div_div_eq_div_mul,
        Nat.add_mul_div_left _ _ (Nat.two_pow_pos w), Nat.div_eq_of_lt h2, Nat.zero_add]
      exact ih (fun j => f (j + 1)) n (by omega)

/-- A lane put together from its sub-elements has those sub-elements. -/
theorem el_ofSubs {w : Nat} (hw : w = 8 ∨ w = 16 ∨ w = 32 ∨ w = 64) (f : Nat → Nat) (j : Nat) (hj : j < 64 / w) :
    el w j (ofSubs w f) = BitVec.ofNat w (f j) := by
  have h64 : w * (64 / w) = 64 := by rcases hw with rfl | rfl | rfl | rfl <;> rfl
  have hlt := digits_lt w f (64 / w)
  rw [h64] at hlt
  apply BitVec.eq_of_toNat_eq
  rw [el, BitVec.extractLsb'_toNat, Nat.shiftRight_eq_div_pow, BitVec.toNat_ofNat]
  show (BitVec.ofNat 64 (digits w f (64 / w))).toNat / _ % _ = _
  rw [BitVec.toNat_ofNat, Nat.mod_eq_of_lt hlt]
  exact digits_get w f _ j hj

/-- The flags of a result that fits its width. -/
theorem intFlags_eq {w : Nat} (hw : 0 < w) (r : BitVec w) (c v : Bool) : intFlags w r.toNat c v = szcv r c v := by
  have hm : decide (2 ^ (w - 1) ≤ r.toNat) = r.msb := by rw [BitVec.msb_eq_decide]
  have hz : (r.toNat == 0) = (r == 0) := by
    rw [Bool.eq_iff_iff]; simp [BitVec.toNat_eq]
  unfold intFlags szcv mkFlags
  rw [hm, hz]
  cases r.msb <;> cases (r == 0) <;> cases c <;> cases v <;> rfl

/-- A lane of sub-elements as bits, with the flags of sub-element 0. -/
theorem mapSubs_eq {w : Nat} (hw : w = 8 ∨ w = 16 ∨ w = 32 ∨ w = 64) (f : Nat → IRes) (g : Nat → BitVec w)
    (h : ∀ j, (f j).r = (g j).toNat) :
    (∀ j, j < 64 / w → el w j (mapSubs w f).1 = g j) ∧ (mapSubs w f).2 = szcv (g 0) (f 0).c (f 0).v := by
  refine ⟨fun j hj => ?_, ?_⟩
  · rw [mapSubs, el_ofSubs hw _ j hj, h]; simp
  · simp only [mapSubs]
    rw [h, intFlags_eq (by omega)]

/-- Signed reading. -/
theorem sInt_eq {w : Nat} (hw : 0 < w) (p : BitVec w) : sInt w p.toNat = p.toInt := by
  have := Nat.two_pow_pred_add_two_pow_pred hw
  rw [BitVec.toInt_eq_toNat_cond, sInt]
  split <;> split <;> first | rfl | omega | (push_cast; omega)

/-- Typed reading. -/
theorem tInt_eq {w : Nat} (hw : 0 < w) (sg : Bool) (p : BitVec w) :
    tInt w sg p.toNat = if sg then p.toInt else (p.toNat : Int) := by
  cases sg
  · rfl
  · simp [tInt, sInt_eq hw]

/-- Narrowing an exact result. -/
theorem wrap_eq (w : Nat) (n : Int) : wrap w n = (BitVec.ofInt w n).toNat := by
  simp [wrap, BitVec.toNat_ofInt]

theorem sOut_eq (w : Nat) (n : Int) : sOut w n = outside w n := rfl

theorem b2n_eq (b : Bool) : b2n b = b.toNat := by cases b <;> rfl

theorem toNat_bit {w : Nat} (hw : 0 < w) (b : Bool) : (bit w b).toNat = b.toNat := by
  have : 2 ≤ 2 ^ w := by calc 2 = 2 ^ 1 := rfl
                             _ ≤ 2 ^ w := Nat.pow_le_pow_right (by decide) hw
  cases b <;> simp [bit] <;> omega

/-- ADD and ADDC. -/
theorem iAdd_eq {w : Nat} (hw : 0 < w) (p q : BitVec w) (cin : Bool) :
    iAdd w p.toNat q.toNat (b2n cin) = { r := (p + q + bit w cin).toNat, c := decide (2 ^ w ≤ p.toNat + q.toNat + cin.toNat),
                                         v := outside w (p.toInt + q.toInt + cin.toNat) } := by
  simp only [iAdd, sInt_eq hw, b2n_eq, sOut_eq, BitVec.toNat_add, toNat_bit hw, Nat.mod_add_mod]

theorem bit_false (w : Nat) : bit w false = 0 := by simp [bit]

/-- SUB, SUBB and CMP. -/
theorem iSub_eq {w : Nat} (hw : 0 < w) (p q : BitVec w) (b : Bool) :
    iSub w p.toNat q.toNat (b2n b) = { r := (p - q - bit w b).toNat, c := decide (q.toNat + b.toNat ≤ p.toNat),
                                       v := outside w (p.toInt - q.toInt - b.toNat) } := by
  have : BitVec.ofInt w ((p.toNat : Int) - q.toNat - b.toNat) = p - q - bit w b := by
    have e : ((p.toNat : Int) - q.toNat - b.toNat) = p.toNat + -(q.toNat : Int) + -((bit w b).toNat : Int) := by
      rw [toNat_bit hw]; omega
    rw [e, BitVec.ofInt_add, BitVec.ofInt_add, BitVec.ofInt_neg, BitVec.ofInt_neg]
    simp [BitVec.sub_eq_add_neg]
  simp only [iSub, sInt_eq hw, b2n_eq, sOut_eq, wrap_eq, this]

/-! Typed forms: every sub-element by one function of its operands, the flags by another -/

theorem bin_eq (t : IType) (f : Nat → Nat → Nat → IRes) (g : BitVec t.bits → BitVec t.bits → BitVec t.bits) (a b : Word)
    (h : ∀ p q : BitVec t.bits, (f t.bits p.toNat q.toNat).r = (g p q).toNat) :
    each2 t.bits g a b (bin t f a b).1 ∧ (bin t f a b).2 =
      (let r := f t.bits (el t.bits 0 a).toNat (el t.bits 0 b).toNat; szcv (g (el t.bits 0 a) (el t.bits 0 b)) r.c r.v) := by
  have := mapSubs_eq (bits_cases t) (fun j => f t.bits (sub t.bits a j) (sub t.bits b j))
    (fun j => g (el t.bits j a) (el t.bits j b)) fun j => by rw [sub_eq, sub_eq, h]
  refine ⟨this.1, ?_⟩
  rw [bin, this.2, sub_eq, sub_eq]

theorem una_eq (t : IType) (f : Nat → Nat → IRes) (g : BitVec t.bits → BitVec t.bits) (a : Word)
    (h : ∀ p : BitVec t.bits, (f t.bits p.toNat).r = (g p).toNat) :
    each1 t.bits g a (una t f a).1 ∧ (una t f a).2 =
      (let r := f t.bits (el t.bits 0 a).toNat; szcv (g (el t.bits 0 a)) r.c r.v) := by
  have := mapSubs_eq (bits_cases t) (fun j => f t.bits (sub t.bits a j))
    (fun j => g (el t.bits j a)) fun j => by rw [sub_eq, h]
  refine ⟨this.1, ?_⟩
  rw [una, this.2, sub_eq]

theorem immOp_eq (t : IType) (f : Nat → Nat → Nat → IRes) (g : BitVec t.bits → BitVec t.bits) (a : Word) (n : Nat)
    (h : ∀ p : BitVec t.bits, (f t.bits p.toNat n).r = (g p).toNat) :
    each1 t.bits g a (immOp t f a n).1 ∧ (immOp t f a n).2 =
      (let r := f t.bits (el t.bits 0 a).toNat n; szcv (g (el t.bits 0 a)) r.c r.v) := by
  have := mapSubs_eq (bits_cases t) (fun j => f t.bits (sub t.bits a j) n)
    (fun j => g (el t.bits j a)) fun j => by rw [sub_eq, h]
  refine ⟨this.1, ?_⟩
  rw [immOp, this.2, sub_eq]

/-- A typed operation on whole lanes that acts alike on every bit. -/
theorem eq_of_each {t : IType} {r s : Word} (h : ∀ j, j < 64 / t.bits → el t.bits j r = el t.bits j s) : r = s := by
  have hw := bits_cases t
  refine BitVec.eq_of_getLsbD_eq fun i hi => ?_
  have hp : 0 < t.bits := by omega
  have hq : i / t.bits < 64 / t.bits := by rcases hw with e | e | e | e <;> rw [e] <;> omega
  have hm := Nat.mod_lt i hp
  have := congrArg (·.getLsbD (i % t.bits)) (h _ hq)
  simp only [el, BitVec.getLsbD_extractLsb', hm, decide_true, Bool.true_and, Nat.div_add_mod] at this
  exact this

theorem immVal_eq (w : Nat) (imm : BitVec 15) : immVal w imm = ((imm.signExtend 64).setWidth w).toNat := by
  simp [immVal]

/-- A whole 64-bit result and its flags. -/
theorem whole_eq (r : Word) : whole r.toNat = (r, szcv r false false) := by
  have : r.toNat % 2 ^ 64 = r.toNat := Nat.mod_eq_of_lt r.isLt
  simp only [whole, wd, BitVec.ofNat_toNat, BitVec.setWidth_eq, this]
  rw [intFlags_eq (by decide)]

end Sys2Proof.Laws
end

