-- ==== Sys2Proof/Tests/Slice0.lean ====
section
/-! SUPPORT. Tests: small states, words written out from the spec's encoding tables, one step of an instruction, and for
every statement a state and operands that meet its hypotheses. Expected values are worked by hand from the rules cited. -/

namespace Sys2Proof.Tests

open Sys2Proof Sys2Proof.Machine

set_option Elab.async false
set_option maxRecDepth 100000

/-! States of one wave -/

/-- Issue fields of a word without guards, flags or stall count. -/
def h0 : Hd := { lgc := 0, lgcond := .al, ug := .al, sc := 0, x := 0 }
/-- The same with X = 4: flags to c0 or sf. -/
def h4 : Hd := { h0 with x := 4 }
/-- A kernel of one group of one wave, 4 KiB of scratchpad. -/
def k0 : Kernel := { codeKernel 1 with scr := 16 }
/-- Its group. -/
def g0 : Group := codeGroup 2 1
/-- Its wave: lanes 0 and 1, at address 0x100, ready at clk 100. -/
def w0 : Wave := Wave.launch 3 0 0 0 0 100 g0 k0 0x100 3 [] []
/-- A device in full service in which that wave issues at clk 100. -/
def st (k : Kernel) (g : Group) (w : Wave) : State :=
  { State.reset with clk := 100, stage := .full, begun := true, ctxs := [codeCtx], kernels := [k], groups := [g], waves := [w],
                     nextUid := 10, cur := some 3, cores := [{ Core.reset with service := false }],
                     dies := [{ Die.reset with inReset := false }] }
/-- That state as the issuing wave sees it. -/
def iss (k : Kernel) (g : Group) (w : Wave) : Iss := { s := st k g w, w := w, p := w.parts.headD ⟨0, 0, [], none, none, 0, false⟩, ps := w.parts.tail, g := g, k := k }
/-- The wave with values in lane 0 of v1, v2 and v3. -/
def wv (a b c : Word) : Wave := { w0 with win := [(32, a), (64, b), (96, c)] }
/-- The wave with values in s1 to s4. -/
def ws (l : List Word) : Wave := { w0 with sregs := (List.range l.length).map fun i => (i + 1, l.getD i 0) }
/-- What an instruction makes of a state, where it goes on. -/
def ran (i : Instr) (s : State) : Option State := match exec i s with
  | .next t => some t
  | _ => none
/-- The wave after an instruction. -/
def after (i : Instr) (w : Wave) : Option Wave := (ran i (st k0 g0 w)).bind fun t => t.wave? 3
/-- Lane 0 of v0 after an instruction. -/
def v0 (i : Instr) (w : Wave) : Option Word := (after i w).map fun v => wget v.win 0
/-- s10 after an instruction. -/
def s10 (i : Instr) (w : Wave) : Option Word := (after i w).map fun v => v.sget 10
/-- c0 of lane 0 after an instruction. -/
def c0 (i : Instr) (w : Wave) : Option (BitVec 4) := (after i w).map fun v => v.ccGet 0 0

/-! Decoding: one word of every instruction, written out from Table 3.1 (opcode, lgc, lgcond, ug, SC, X, d, a, b, c), Table
3.8, and the field tables of its class; those of classes 5 to 7 are mostly printed in the manual. -/

/-- Every word of a list decodes to its instruction. -/
noncomputable def allDecode (l : List (Word × Instr)) : Bool := l.all fun p => decode p.1 == some p.2

theorem test_decode_control_1 : allDecode [
    (0x0000078000000000#64, .nop { h0 with sc := 15 }),
    (0x0020000000000002#64, .bra h0 2),
    (0x0040000008000003#64, .brc h0 1 3),
    (0x0060000006000000#64, .brx h0 384),
    (0x0080000BFFFFFFFF#64, .call h0 383 0x7FFFFFF),
    (0x00A0000028180000#64, .callx h0 5 6),
    (0x00C00000001C0000#64, .ret h0 7),
    (0x01000000002C0028#64, .loop h0 11 40),
    (0x0120000000000000#64, .endl h0),
    (0x0140100000000000#64, .lbrk { h0 with ug := .ne }),
    (0x020000004DF00800#64, .spawn h0 9 380 4),
    (0x023E000000000000#64, .endFibre { h0 with lgc := 3, lgcond := .lt })] = true := by decide

theorem test_decode_control_2 : allDecode [
    (0x0240000000000000#64, .yield h0),
    (0x026000000003FFFF#64, .sleep h0 0x3FFFF),
    (0x0280000003FC0000#64, .fbar h0 255),
    (0x0300000000000000#64, .icinv h0)] = true := by decide

theorem test_decode_moves : allDecode [
    (0x1000007020140000#64, .mov { h0 with x := 7 } 4 5),
    (0x1800000020140000#64, .movScalar h0 4 5),
    (0x1800000020000001#64, .movFromSf h0 4),
    (0x18000000001C0002#64, .movToSf h0 7),
    (0x1000000020000003#64, .movFromCc h0 4),
    (0x1000000000180004#64, .movToCc h0 6),
    (0x1020000018020001#64, .movi h0 3 0x20001),
    (0x1820000050012C27#64, .moviScalar h0 10 0x12C27),
    (0x1040000018080155#64, .movh h0 3 2 0x155),
    (0x18400000180C03FF#64, .movhScalar h0 3 3 1023)] = true := by decide

theorem test_decode_integer_1 : allDecode [
    (0x10600049601F0C00#64, .add h4 300 7 390 .i8),
    (0x18600003201C1200#64, .addScalar h0 100 7 9 .i8),
    (0x10C00049681F0C01#64, .sub h4 301 7 390 .i16),
    (0x18C00003281C1201#64, .subScalar h0 101 7 9 .i16),
    (0x11000049701F0C02#64, .mul h4 302 7 390 .i32),
    (0x19000003301C1202#64, .mulScalar h0 102 7 9 .i32),
    (0x11200049781F0C03#64, .mulh h4 303 7 390 .i64),
    (0x19200003381C1203#64, .mulhScalar h0 103 7 9 .i64),
    (0x11C00049801F0C04#64, .div h4 304 7 390 .n8),
    (0x19C00003401C1204#64, .divScalar h0 104 7 9 .n8),
    (0x11E00049881F0C05#64, .rem h4 305 7 390 .n16),
    (0x19E00003481C1205#64, .remScalar h0 105 7 9 .n16)] = true := by decide

theorem test_decode_integer_2 : allDecode [
    (0x12000049901F0C06#64, .min h4 306 7 390 .n32),
    (0x1A000003501C1206#64, .minScalar h0 106 7 9 .n32),
    (0x12200049981F0C07#64, .max h4 307 7 390 .n64),
    (0x1A200003581C1207#64, .maxScalar h0 107 7 9 .n64),
    (0x12800049A01F0C00#64, .and h4 308 7 390 .i8),
    (0x1A800003601C1200#64, .andScalar h0 108 7 9 .i8),
    (0x12C00049A81F0C01#64, .or h4 309 7 390 .i16),
    (0x1AC00003681C1201#64, .orScalar h0 109 7 9 .i16),
    (0x13000049B01F0C02#64, .xor h4 310 7 390 .i32),
    (0x1B000003701C1202#64, .xorScalar h0 110 7 9 .i32),
    (0x13400049B81F0C03#64, .andn h4 311 7 390 .i64),
    (0x1B400003781C1203#64, .andnScalar h0 111 7 9 .i64)] = true := by decide

theorem test_decode_integer_3 : allDecode [
    (0x13A00049C01F0C04#64, .shl h4 312 7 390 .n8),
    (0x1BA00003801C1204#64, .shlScalar h0 112 7 9 .n8),
    (0x13E00049C81F0C05#64, .shr h4 313 7 390 .n16),
    (0x1BE00003881C1205#64, .shrScalar h0 113 7 9 .n16),
    (0x14200049D01F0C06#64, .sar h4 314 7 390 .n32),
    (0x1C200003901C1206#64, .sarScalar h0 114 7 9 .n32),
    (0x14A00049D81F0C07#64, .rot h4 315 7 390 .n64),
    (0x1CA00003981C1207#64, .rotScalar h0 115 7 9 .n64),
    (0x14E00049E01F0C07#64, .bfx h4 316 7 390 .n64),
    (0x1CE00003A01C1207#64, .bfxScalar h0 116 7 9 .n64),
    (0x15000049E81F0C03#64, .bfi h4 317 7 390 .i64),
    (0x1D000003A81C1203#64, .bfiScalar h0 117 7 9 .i64)] = true := by decide

theorem test_decode_integer_4 : allDecode [
    (0x10A0000028040613#64, .addc h0 5 1 3 2 .i64),
    (0x18A0000028040607#64, .addcScalar h0 5 1 3 .n64),
    (0x10E0000028040613#64, .subb h0 5 1 3 2 .i64),
    (0x18E0000028040607#64, .subbScalar h0 5 1 3 .n64),
    (0x1240000028180007#64, .abs h0 5 6 .n64),
    (0x1A40004028180007#64, .absScalar h4 5 6 .n64),
    (0x1260000028180006#64, .neg h0 5 6 .n32),
    (0x1A60004028180006#64, .negScalar h4 5 6 .n32),
    (0x1360000028180005#64, .not h0 5 6 .n16),
    (0x1B60004028180005#64, .notScalar h4 5 6 .n16),
    (0x1520000028180004#64, .popc h0 5 6 .n8),
    (0x1D20004028180004#64, .popcScalar h4 5 6 .n8)] = true := by decide

theorem test_decode_integer_5 : allDecode [
    (0x1540000028180003#64, .clz h0 5 6 .i64),
    (0x1D40004028180003#64, .clzScalar h4 5 6 .i64),
    (0x1560000028180002#64, .ctz h0 5 6 .i32),
    (0x1D60004028180002#64, .ctzScalar h4 5 6 .i32),
    (0x1580000028180001#64, .brev h0 5 6 .i16),
    (0x1D80004028180001#64, .brevScalar h4 5 6 .i16)] = true := by decide

theorem test_decode_immediate_1 : allDecode [
    (0x1080000040244001#64, .addImm h0 8 9 .i8 0x4001),
    (0x1880000040244001#64, .addImmScalar h0 8 9 .i8 0x4001),
    (0x12A000004024FFFF#64, .andImm h0 8 9 .i16 0x7fff),
    (0x1AA000004024FFFF#64, .andImmScalar h0 8 9 .i16 0x7fff),
    (0x12E0000040254001#64, .orImm h0 8 9 .i32 0x4001),
    (0x1AE0000040254001#64, .orImmScalar h0 8 9 .i32 0x4001),
    (0x132000004025FFFF#64, .xorImm h0 8 9 .i64 0x7fff),
    (0x1B2000004025FFFF#64, .xorImmScalar h0 8 9 .i64 0x7fff),
    (0x13C0000040264001#64, .shlImm h0 8 9 .n8 0x4001),
    (0x1BC0000040264001#64, .shlImmScalar h0 8 9 .n8 0x4001),
    (0x140000004026FFFF#64, .shrImm h0 8 9 .n16 0x7fff),
    (0x1C0000004026FFFF#64, .shrImmScalar h0 8 9 .n16 0x7fff)] = true := by decide

theorem test_decode_immediate_2 : allDecode [
    (0x1440000040274001#64, .sarImm h0 8 9 .n32 0x4001),
    (0x1C40000040274001#64, .sarImmScalar h0 8 9 .n32 0x4001),
    (0x14C000004027FFFF#64, .rotImm h0 8 9 .n64 0x7fff),
    (0x1CC000004027FFFF#64, .rotImmScalar h0 8 9 .n64 0x7fff),
    (0x1140000008080604#64, .madI32 h0 1 2 3 4),
    (0x1940000008080604#64, .madI32Scalar h0 1 2 3 4),
    (0x1160000008080604#64, .madN32 h0 1 2 3 4),
    (0x1960000008080604#64, .madN32Scalar h0 1 2 3 4),
    (0x1180000008080604#64, .madI64 h0 1 2 3 4),
    (0x1980000008080604#64, .madI64Scalar h0 1 2 3 4),
    (0x11A0000008080604#64, .madN64 h0 1 2 3 4),
    (0x19A0000008080604#64, .madN64Scalar h0 1 2 3 4)] = true := by decide

theorem test_decode_immediate_3 : allDecode [
    (0x1460000008080604#64, .fshl h0 1 2 3 4),
    (0x1C60000008080604#64, .fshlScalar h0 1 2 3 4),
    (0x1480000008080604#64, .fshr h0 1 2 3 4),
    (0x1C80000008080604#64, .fshrScalar h0 1 2 3 4),
    (0x15A0000008080604#64, .bperm h0 1 2 3 4),
    (0x1DA0000008080604#64, .bpermScalar h0 1 2 3 4),
    (0x13800000080806CA#64, .tlog h0 1 2 3 0xCA),
    (0x1B800000080806CA#64, .tlogScalar h0 1 2 3 0xCA),
    (0x15C0005000080601#64, .cmp { h0 with x := 5 } 2 3 .i16),
    (0x1DC0004000080601#64, .cmpScalar h4 2 3 .i16),
    (0x15E00040000B0005#64, .cmpImm h4 2 .n32 5),
    (0x1DE00040000B0005#64, .cmpImmScalar h4 2 .n32 5)] = true := by decide

theorem test_decode_immediate_4 : allDecode [
    (0x1600006000080604#64, .tst { h0 with x := 6 } 2 3 .n8),
    (0x1E00004000080604#64, .tstScalar h4 2 3 .n8),
    (0x16200000381F00E0#64, .sel h0 7 7 384 1 .lt),
    (0x1E20000038201268#64, .selScalar h0 7 8 9 .gt),
    (0x164000003820123F#64, .lea h0 7 8 9 63),
    (0x1E40000038201203#64, .leaScalar h0 7 8 9 3)] = true := by decide

theorem test_decode_paired_1 : allDecode [
    (0x80000000010506FE#64, .pairNop 7 ⟨.mov, 5, 6, .nv⟩),
    (0x80FE00880CFE03E0#64, .pairMov 0 252 1 .eq ⟨.min true, 254, 3, .le⟩),
    (0x827E00900DFE03D2#64, .pairAdd 1 .w64 252 1 .ne ⟨.max true, 254, 3, .gt⟩),
    (0x85FE00980EFE03C4#64, .pairSub 2 .w8 252 1 .cs ⟨.min false, 254, 3, .lt⟩),
    (0x867E00A00FFE03B6#64, .pairMin 3 true 252 1 .cc ⟨.max false, 254, 3, .ge⟩),
    (0x86FE00A810FE03A8#64, .pairMax 4 true 252 1 .mi ⟨.and, 254, 3, .ls⟩),
    (0x877E00B011FE039A#64, .pairMin 5 false 252 1 .pl ⟨.or, 254, 3, .hi⟩),
    (0x87FE00B812FE038C#64, .pairMax 6 false 252 1 .vs ⟨.xor, 254, 3, .vc⟩),
    (0x887E00C013FE037E#64, .pairAnd 7 252 1 .vc ⟨.andn, 254, 3, .vs⟩),
    (0x88FE00C823FE0360#64, .pairOr 0 252 1 .hi ⟨.fadd .f64, 254, 3, .pl⟩),
    (0x897E00D025FE0352#64, .pairXor 1 252 1 .ls ⟨.fmul .f16, 254, 3, .mi⟩),
    (0x89FE00D82AFE0344#64, .pairAndn 2 252 1 .ge ⟨.fmin .bf16, 254, 3, .cc⟩)] = true := by decide

theorem test_decode_paired_2 : allDecode [
    (0x91FE00E02CFE0336#64, .pairFadd 3 .f64 252 1 .lt ⟨.fmax .f32, 254, 3, .cs⟩),
    (0x92FE00E801FE0328#64, .pairFmul 4 .f16 252 1 .gt ⟨.mov, 254, 3, .ne⟩),
    (0x957E00F004FE031A#64, .pairFmin 5 .bf16 252 1 .le ⟨.add .w64, 254, 3, .eq⟩),
    (0x967E00F80BFE030C#64, .pairFmax 6 .f32 252 1 .nv ⟨.sub .w8, 254, 3, .al⟩)] = true := by decide

theorem test_decode_float_1 : allDecode [
    (0x2000000008080600#64, .fadd h0 1 2 3 .f32 .rne),
    (0x2020000008080605#64, .fsub h0 1 2 3 .f16 .rz),
    (0x204000000808060A#64, .fmul h0 1 2 3 .bf16 .ru),
    (0x222000000808060F#64, .fscale h0 1 2 3 .f64 .rd),
    (0x2060000008080602#64, .fmin h0 1 2 3 .bf16),
    (0x2080000008080601#64, .fmax h0 1 2 3 .f16),
    (0x20A0000008080000#64, .fabs h0 1 2 .f32),
    (0x20C0000008080003#64, .fneg h0 1 2 .f64),
    (0x2100000008080001#64, .fclass h0 1 2 .f16),
    (0x2160000008080002#64, .frsq h0 1 2 .bf16),
    (0x2180000008080000#64, .fexp2 h0 1 2 .f32),
    (0x21A0000008080001#64, .flog2 h0 1 2 .f16)] = true := by decide

theorem test_decode_float_2 : allDecode [
    (0x21C0000008080002#64, .fsin h0 1 2 .bf16),
    (0x21E0000008080000#64, .fcos h0 1 2 .f32),
    (0x2200000008080001#64, .ftanh h0 1 2 .f16),
    (0x212000000808000B#64, .frcp h0 1 2 .f64 .ru),
    (0x214000000808000C#64, .fsqrt h0 1 2 .f32 .rd),
    (0x2240000008080005#64, .frint h0 1 2 .f16 .rz),
    (0x226000000808000A#64, .act h0 1 2 .bf16 .ru),
    (0x20E00050000C0601#64, .fcmp { h0 with x := 5 } 3 3 .f16),
    (0x2280000000A01800#64, .actld h0 40 12),
    (0x22A0000000000000#64, .actswap h0),
    (0x25C0000008080604#64, .ffma h0 1 2 3 4 .f64 .ru),
    (0x26E0000008080604#64, .fdot2 h0 1 2 3 4 true .rd)] = true := by decide

theorem test_decode_lanes_1 : allDecode [
    (0x3000000028191208#64, .cvt h0 5 6 (.flt .f32) (.flt .f16) 1 .rne),
    (0x3000000028185601#64, .cvt h0 5 6 (.int .i32) (.flt .f64) 0 .rz),
    (0x30200000A0100200#64, .qnt h0 20 4 false .f32 1 0 .rne),
    (0x30200000A010C67C#64, .qnt h0 20 4 true .bf16 3 15 .sr),
    (0x30400000A010A403#64, .dqnt h0 20 4 true .f16 2 .rd),
    (0x3060000008080605#64, .pack h0 1 2 3 .n16),
    (0x308000000808000A#64, .unpk h0 1 2 1 .i32),
    (0x3100000008080604#64, .lget h0 1 2 3 .n8),
    (0x3120000008080607#64, .lput h0 1 2 3 .n64),
    (0x314000000808069F#64, .lshf h0 1 2 3 .down 31),
    (0x3140000008080105#64, .lshf h0 1 2 0 .rot 5),
    (0x316000000808001F#64, .lbcst h0 1 2 31)] = true := by decide

theorem test_decode_lanes_2 : allDecode [
    (0x3180000008080010#64, .lxor h0 1 2 16),
    (0x31A0000008080046#64, .lscan h0 1 2 (.max .n32)),
    (0x31C0000008080703#64, .lred h0 1 2 (.fadd .f64 .rd)),
    (0x31E0000008080002#64, .lvote h0 1 2 .ballot),
    (0x3200000008000000#64, .rng h0 1),
    (0x3220000000080600#64, .rngset h0 2 3)] = true := by decide

theorem test_decode_memory_1 : allDecode [
    (0x4000009050080F82#64, .ld { h0 with sc := 1, x := 1 } 10 2 7 .n32 .none 2),
    (0x4020080018071880#64, .st { h0 with ug := .eq } 3 1 396 .i32 .none 0),
    (0x40400000080329E0#64, .lds h0 1 404 .n64 .fec 0),
    (0x406000000800055F#64, .sts h0 1 2 .n16 .fe 15),
    (0x4080004BF05C0421#64, .ldp { h0 with x := 4 } 382 23 2 .fec 1),
    (0x40A0000BF0400410#64, .stp h0 382 16 2 .fe 0),
    (0x40C00000200405C8#64, .atom h0 4 1 2 .max .n64),
    (0x40E000002000049C#64, .atoms h0 4 2 .cas .i32),
    (0x4100000078080604#64, .rst h0 15 2 3 4),
    (0x41200000200405A0#64, .ratom h0 4 1 2 .fadd32 .n32),
    (0x41400030000404C7#64, .pref { h0 with x := 3 } 1 2 .i64 7),
    (0x41600000005C1201#64, .stage h0 23 9 true)] = true := by decide

theorem test_decode_memory_2 : allDecode [
    (0x4180000000400000#64, .unstage h0 16)] = true := by decide

theorem test_decode_regions_1 : allDecode [
    (0x5000004010100A00#64, .brw h4 2 4 5 false .x),
    (0x5000000018100A08#64, .brw h0 3 4 5 false .s),
    (0x5000000018100A30#64, .brw h0 3 4 5 true .a),
    (0x502000001841FC01#64, .rbrw h0 3 16 254 .s),
    (0x5040000008400004#64, .split h0 1 16 false 4),
    (0x5040000080040108#64, .split h0 16 1 true 8),
    (0x50600000005C0000#64, .join h0 23),
    (0x5080000000080000#64, .rtn h0 2),
    (0x50A00007E8140000#64, .rgq h0 253 5),
    (0x50C0000010400E00#64, .rgmv h0 2 16 7),
    (0x5200000000000004#64, .fence h0 .dev),
    (0x5220000000000000#64, .stmpw h0)] = true := by decide

theorem test_decode_regions_2 : allDecode [
    (0x5240000000000000#64, .stmpp h0),
    (0x5260000030000000#64, .cseal h0 6),
    (0x5280000000180000#64, .cwait h0 6)] = true := by decide

theorem test_decode_engines_1 : allDecode [
    (0x6000000000200005#64, .binit h0 8 5),
    (0x6020000048040005#64, .barr h0 9 true 5),
    (0x6040000000280005#64, .bexp h0 10 5),
    (0x6060100000240000#64, .bwait { h0 with ug := .ne } 9 0),
    (0x60800000602407FF#64, .btest h0 12 9 2047),
    (0x6200000010200000#64, .chinit h0 2 8),
    (0x6220000000501C00#64, .chpush h0 20 14),
    (0x6240000030080000#64, .chpop h0 6 2),
    (0x6260000048080000#64, .chstat h0 9 2),
    (0x62800000C0042818#64, .copy h0 .sp (.region 1) 20 24),
    (0x62A0000080603C18#64, .copy2 h0 (.region 16) .sp 30 24),
    (0x62C00000C00C5000#64, .gath h0 .sp (.region 3) 40 0)] = true := by decide

theorem test_decode_engines_2 : allDecode [
    (0x6300000028502E18#64, .route h0 5 20 23 24),
    (0x62E0000018845018#64, .scat h0 (.region 3) (.chan 1) 40 24)] = true := by decide

theorem test_decode_matrix : allDecode [
    (0x6400000018980000#64, .cvinit h0 3 38),
    (0x64200002024C2802#64, .mma h0 true 0 2 1 3 20 0 0 .i8),
    (0x64200001FFFC29C1#64, .mma h0 false 63 7 3 15 20 3 2 .x4),
    (0x6440000000000000#64, .mwait h0),
    (0x6460000008780000#64, .lace h0 1 30),
    (0x6480000010884600#64, .obres h0 2 34 35),
    (0x64A0000010904A00#64, .obld h0 2 36 37),
    (0x64C0000010000000#64, .obrel h0 2),
    (0x64E0000000A05831#64, .mdrain h0 0 40 44 true true .rne .f16)] = true := by decide

theorem test_decode_hyper_1 : allDecode [
    (0x7000000018040400#64, .hbind h0 3 1 2),
    (0x7020000040041C00#64, .hperm h0 8 1 14),
    (0x7040000000040000#64, .hbund h0 0 1),
    (0x7060000038000000#64, .hthr h0 7 0),
    (0x7080000008000000#64, .hclr h0 1),
    (0x70A0000018081000#64, .hld h0 3 (.region 2) 8),
    (0x70C0000018601000#64, .hst h0 3 .sp 8),
    (0x70E0000008280000#64, .hset h0 1 10),
    (0x71000000A01C0200#64, .hdist h0 20 7 1),
    (0x71200000A81C0000#64, .hpop h0 21 7),
    (0x7140000000180000#64, .htie h0 6),
    (0x7160000000000001#64, .hcw h0 .w8)] = true := by decide

theorem test_decode_hyper_2 : allDecode [
    (0x71800000B01C1A00#64, .hsrch h0 22 7 13),
    (0x71A00000B01C1A00#64, .hsrch2 h0 22 7 13)] = true := by decide

theorem test_decode_system : allDecode [
    (0x7800000000000042#64, .trap h0 0x42),
    (0x7820000000000001#64, .tret h0 true),
    (0x7840000028240001#64, .mfs h0 5 .tcause true),
    (0x78600000501C0000#64, .mts h0 .tpc 7),
    (0x7880000020080600#64, .dist h0 4 2 3),
    (0x78A0000000180000#64, .halt h0 6),
    (0x7A00000140000000#64, .slotq h0 40),
    (0x7A20000000200000#64, .smpcfg h0 8),
    (0x7A40000000240000#64, .smpon h0 9),
    (0x7A60000050000000#64, .smpoff h0 10)] = true := by decide


/-! Well-formed terms: each kind of check refuses a term that violates it, and the boundary it allows is allowed -/

/-- No term of a list is well formed. -/
def allBad (l : List Instr) : Bool := l.all fun i => !i.wf
/-- Every term of a list is well formed. -/
def allGood (l : List Instr) : Bool := l.all fun i => i.wf

theorem test_wf_issue_fields_refused : allBad [
    .nop { h0 with lgc := 1 }, .nop { h0 with lgcond := .eq }, .nop h4, .mov { h0 with x := 3 } 4 5, .fclass h4 1 2 .f32,
    .cmp h0 1 2 .i32, .movScalar { h0 with x := 5 } 1 2, .cmpScalar h0 1 2 .i32, .ld { h0 with x := 5 } 1 2 3 .i32 .none 0,
    .movToSf h4 1, .mfs { h0 with lgc := 1 } 5 .clk true] = true := by decide
theorem test_wf_issue_fields_accepted : allGood [
    .bra { h0 with lgc := 1, lgcond := .eq } 4, .mov { h0 with x := 7 } 4 5, .cmp h4 1 2 .i32, .movScalar h4 1 2,
    .ld { h0 with x := 4 } 1 2 3 .i32 .none 0, .mfs { h0 with lgc := 1 } 5 .lane false] = true := by decide

theorem test_wf_vector_codes_refused : allBad [
    .call h0 384 2, .spawn h0 1 381 2, .mov h0 384 1, .actld h0 377 1, .qnt h0 1 383 true .f32 0 0 .rne,
    .dqnt h0 383 1 true .f32 0 .rne, .ldp h0 383 2 3 .none 0, .stp h0 383 2 3 .none 0, .atom h0 383 2 3 .cas .n32,
    .atoms h0 383 3 .cas .n32, .chpush h0 384 1, .chpop h0 384 1, .mfs h0 384 .clk false, .mfs h0 256 .clk true] = true := by
  decide
theorem test_wf_vector_codes_accepted : allGood [
    .call h0 383 2, .spawn h0 1 380 2, .mov h0 383 511, .actld h0 376 1, .qnt h0 1 382 true .f32 0 0 .rne,
    .qnt h0 1 383 true .f16 0 0 .rne, .ldp h0 382 2 3 .none 0, .atom h0 382 2 3 .cas .n32, .atom h0 383 2 3 .add .n32,
    .mfs h0 255 .clk true] = true := by decide

theorem test_wf_types_refused : allBad [
    .addc h0 1 2 3 0 .i32, .subbScalar h0 1 2 3 .n8, .bfx h0 1 2 3 .i32, .bfiScalar h0 1 2 3 .n16, .pack h0 1 2 3 .i64,
    .unpk h0 1 2 0 .n64, .frsq h0 1 2 .f64, .ftanh h0 1 2 .f64, .act h0 1 2 .f64 .rne, .qnt h0 1 2 true .f64 0 0 .rne,
    .dqnt h0 1 2 true .f64 0 .rne, .mdrain h0 0 2 3 false false .rne .f64, .atom h0 1 2 3 .add .i16, .atom h0 1 2 3 .fadd32 .n64,
    .atoms h0 1 3 .fadd64 .n32] = true := by decide

theorem test_wf_rounding_refused : allBad [
    .fadd h0 1 2 3 .f32 .sr, .frcp h0 1 2 .f32 .sr, .ffma h0 1 2 3 4 .f32 .sr, .cvt h0 1 2 (.flt .f32) (.flt .f64) 0 .sr,
    .cvt h0 1 2 (.int .i32) (.int .i32) 1 .rne, .cvt h0 1 2 (.flt .f16) (.flt .f32) 2 .rne, .dqnt h0 1 2 true .f32 0 .rz,
    .lscan h0 1 2 (.fadd .f32 .sr), .lred h0 1 2 (.fadd .f32 .sr), .mdrain h0 0 2 3 false false .sr .f32] = true := by decide
theorem test_wf_rounding_accepted : allGood [
    .cvt h0 1 2 (.flt .f16) (.flt .f32) 1 .sr, .cvt h0 1 2 (.flt .bf16) (.flt .f32) 0 .sr, .dqnt h0 1 2 true .f16 0 .rz,
    .lred h0 1 2 (.fadd .f32 .rd)] = true := by decide

theorem test_wf_fields_refused : allBad [
    .loop h0 1 0, .movh h0 1 0 5, .movh h0 1 3 1024, .movhScalar h0 1 0 5, .movhScalar h0 1 3 1024, .lshf h0 1 2 3 .rot 1,
    .st h0 1 2 3 .i32 .fec 0, .sts h0 1 3 .i32 .fec 0, .stp h0 1 2 3 .fec 0, .ratom h0 1 2 3 .exch .i32,
    .ratom h0 1 2 3 .cas .i32, .mma h0 false 0 0 0 0 1 1 0 .i8, .mma h0 false 0 0 0 0 1 0 1 .f32, .mfs h0 1 .lane true,
    .mts h0 .clk 1, .mts h0 .spbase 1] = true := by decide
theorem test_wf_fields_accepted : allGood [
    .movh h0 1 3 1023, .lshf h0 1 2 0 .rot 1, .lshf h0 1 2 3 .up 1, .mma h0 false 0 0 0 0 1 1 3 .x8, .mts h0 .tlanes 1] = true := by
  decide

theorem test_wf_region_codes_refused : allBad [
    .ld h0 1 24 3 .i32 .none 0, .st h0 1 24 3 .i32 .none 0, .rst h0 24 1 2 3, .pref h0 24 1 .i32 0, .stage h0 15 1 false,
    .stage h0 24 1 false, .unstage h0 15, .brw h0 24 1 2 false .x, .rbrw h0 24 1 2 .x, .rbrw h0 1 24 2 .x, .rbrw h0 1 2 255 .x,
    .rbrw h0 1 2 3 .a, .split h0 16 1 false 2, .split h0 1 2 false 1, .split h0 1 2 false 33, .split h0 15 2 true 2,
    .split h0 23 2 true 2, .join h0 24, .rtn h0 31, .rgq h0 0 1, .rgq h0 254 1, .rgmv h0 24 1 0, .rgmv h0 16 1 3] = true := by
  decide
theorem test_wf_region_codes_accepted : allGood [
    .ld h0 1 23 3 .i32 .none 0, .stage h0 16 1 false, .unstage h0 23, .rbrw h0 1 2 254 .s, .split h0 15 1 false 2,
    .split h0 1 2 false 32, .split h0 14 2 true 2, .split h0 22 2 true 2, .rgq h0 1 1, .rgq h0 253 1, .rgmv h0 15 1 3] = true := by
  decide

theorem test_wf_pairs_and_endpoints_refused : allBad [
    .copy h0 (.region 24) .sp 1 2, .copy h0 .sp .sp 254 2, .copy2 h0 .sp .sp 252 2, .gath h0 .sp (.region 31) 1 2,
    .scat h0 .sp .sp 254 2, .route h0 1 254 2 3, .lace h0 0 254, .mdrain h0 0 254 3 false false .rne .f32, .hld h0 1 (.chan 1) 2,
    .hst h0 1 (.region 24) 2, .hsrch h0 0 1 2, .hsrch h0 255 1 2, .hsrch2 h0 253 1 2, .slotq h0 0, .slotq h0 254] = true := by
  decide
theorem test_wf_pairs_and_endpoints_accepted : allGood [
    .copy h0 (.chan 15) (.region 23) 253 2, .copy2 h0 .sp .sp 251 2, .hld h0 1 .sp 2, .hsrch h0 254 1 2, .hsrch2 h0 252 1 2,
    .slotq h0 253] = true := by decide

theorem test_wf_slots_refused : allBad [
    .pairNop 0 ⟨.nop, 1, 0, .al⟩, .pairNop 0 ⟨.nop, 0, 0, .eq⟩, .pairMov 0 4 1 .al ⟨.mov, 2, 5, .al⟩,
    .pairAdd 0 .w32 4 1 .al ⟨.mov, 8, 3, .al⟩] = true := by decide
theorem test_wf_slots_accepted : allGood [
    .pairNop 0 ⟨.nop, 0, 0, .al⟩, .pairMov 0 4 1 .al ⟨.mov, 2, 7, .al⟩, .pairMov 0 4 8 .al ⟨.nop, 0, 0, .al⟩] = true := by decide

theorem test_wf_events_refused : allBad [
    .loadWriteback 1 2 (.lane 32), .homeAtomic 16392 .granted, .residueWriteback 8 0, .sample 0 40, .copyStart 8 0,
    .geodeSearchStart 8, .tagSweepDone 0 4 0, .tagSweepDone 0 0 4096, .uncorrectableError (.frame 0) 6, .launch 1024,
    .contextKill 64, .rangeRegisterSet 0 16 0 0 0, .fabricTableWrite 8192 0, .inboundWindowWrite 256 0 0 0 0,
    .barrierRelease 0 2048, .chpushAccept 0 16, .linkTrain 10, .linkTrain 24, .linkTrain 48] = true := by decide
theorem test_wf_events_accepted : allGood [
    .loadWriteback 1 2 (.lane 31), .sample 7 39, .tagSweepDone 7 3 4095, .launch 1023, .contextKill 63, .linkTrain 9,
    .linkTrain 16, .linkTrain 23, .linkTrain 47] = true := by decide

/-! Decoding refuses what is no instruction (R70) -/

/-- No word of a list decodes. -/
noncomputable def noneDecodes (l : List Word) : Bool := l.all fun w => decode w == none

/-- All ones; a NOP with a bit in an unused field; the unassigned opcode 0x138; a paired word whose slots meet in a bank
(worked words of R67 and of the chapter's examples, changed in one field). -/
theorem test_decode_refuses : noneDecodes [0xFFFFFFFFFFFFFFFF, 1, 0x2709018050080604, 0x8280811020070504] = true := by decide

/-! One step of an integer word: register v0 or s10, and the flags S, Z, C, V in c0 or sf -/

/-- Lane 0 of vn after an instruction. -/
def vd (n : Nat) (i : Instr) (w : Wave) : Option Word := (after i w).map fun v => wget v.win (32 * n)
/-- sf after an instruction. -/
def sfOf (i : Instr) (w : Wave) : Option Word := (after i w).map (·.sf)

/-- Sub-elements wrap on their own (R31); 1 + (−1) carries out of the first. -/
theorem test_add : v0 (.add h4 0 1 2 .i8) (wv 0x7F01 0x01FF 0) = some 0x8000 ∧
    c0 (.add h4 0 1 2 .i8) (wv 0x7F01 0x01FF 0) = some 0b0110 := by decide
theorem test_addScalar_overflows : s10 (.addScalar h4 10 1 2 .i64) (ws [0x7FFFFFFFFFFFFFFF, 1]) = some 0x8000000000000000 ∧
    sfOf (.addScalar h4 10 1 2 .i64) (ws [0x7FFFFFFFFFFFFFFF, 1]) = some 0b1001 := by decide
/-- The immediate −1 is sign-extended, then truncated to the sub-element. -/
theorem test_addImm : v0 (.addImm h0 0 1 .n32 0x7FFF) (wv 0x0000000500000000 0 0) = some 0x00000004FFFFFFFF := by decide
theorem test_addImmScalar : s10 (.addImmScalar h0 10 1 .i64 0x3FFF) (ws [1]) = some 0x4000 := by decide
/-- The example of a 128-bit sum (chapter 5): v5 = 1 + 2 + carry. -/
theorem test_addc : v0 (.addc h0 0 1 2 0 .i64) { wv 1 2 0 with cc := [(0, 6)] } = some 4 := by decide
theorem test_addcScalar : s10 (.addcScalar h4 10 1 2 .n64) { ws [~~~0, 0] with sf := 2 } = some 0 ∧
    sfOf (.addcScalar h4 10 1 2 .n64) { ws [~~~0, 0] with sf := 2 } = some 0b0110 := by decide
/-- 1 − 2 borrows: C is the inverse of a borrow. -/
theorem test_sub : v0 (.sub h4 0 1 2 .n16) (wv 1 2 0) = some 0xFFFF ∧ c0 (.sub h4 0 1 2 .n16) (wv 1 2 0) = some 0b1000 := by decide
theorem test_subb : v0 (.subb h0 0 1 2 1 .i64) { wv 5 2 0 with cc := [(0, 0x00)] } = some 2 := by decide
theorem test_subScalar_source_is_destination : s10 (.subScalar h0 10 10 1 .i64) { w0 with sregs := [(1, 3), (10, 5)] } = some 2 := by
  decide
theorem test_subbScalar : s10 (.subbScalar h0 10 1 2 .i64) { ws [5, 2] with sf := 2 } = some 3 := by decide
/-- 2^16 × 2^16 does not fit 32 bits. -/
theorem test_mul : v0 (.mul h4 0 1 2 .i32) (wv 0x10000 0x10000 0) = some 0 ∧
    c0 (.mul h4 0 1 2 .i32) (wv 0x10000 0x10000 0) = some 0b0101 := by decide
theorem test_mulScalar : s10 (.mulScalar h0 10 1 2 .n64) (ws [3, 5]) = some 15 := by decide
theorem test_mulh_unsigned : v0 (.mulh h0 0 1 2 .n32) (wv 0xFFFFFFFF 0xFFFFFFFF 0) = some 0xFFFFFFFE := by decide
/-- −1 × −1 has no high half. -/
theorem test_mulhScalar_signed : s10 (.mulhScalar h0 10 1 2 .i64) (ws [~~~0, ~~~0]) = some 0 := by decide
theorem test_madI32 : v0 (.madI32 h4 0 1 2 3) (wv 0x7FFFFFFF 1 1) = some 0x80000000 ∧
    c0 (.madI32 h4 0 1 2 3) (wv 0x7FFFFFFF 1 1) = some 0b1001 := by decide
theorem test_madN32 : c0 (.madN32 h4 0 1 2 3) (wv 0xFFFFFFFF 1 1) = some 0b0110 := by decide
theorem test_madI64 : v0 (.madI64 h0 0 1 2 3) (wv (~~~0) 7 9) = some 2 := by decide
theorem test_madN64 : c0 (.madN64 h4 0 1 2 3) (wv (~~~0) 2 0) = some 0b1010 := by decide
theorem test_madScalar : s10 (.madI32Scalar h0 10 1 2 3) (ws [0x200000003, 0x300000004, 0x100000001]) = some 0x70000000D ∧
    s10 (.madN32Scalar h0 10 1 2 3) (ws [0x200000003, 0x300000004, 0x100000001]) = some 0x70000000D ∧
    s10 (.madI64Scalar h0 10 1 2 3) (ws [3, 4, 5]) = some 17 ∧ s10 (.madN64Scalar h0 10 1 2 3) (ws [3, 4, 5]) = some 17 := by decide
/-- Table 2.1: the most negative by −1 gives itself, a divisor of 0 all ones; V tells of sub-element 0. -/
theorem test_div : v0 (.div h4 0 1 2 .i8) (wv 0x80 0xFF 0) = some 0xFFFFFFFFFFFFFF80 ∧
    c0 (.div h4 0 1 2 .i8) (wv 0x80 0xFF 0) = some 0b1001 := by decide
theorem test_divScalar : s10 (.divScalar h0 10 1 2 .i64) (ws [-7, 2]) = some (-3) := by decide
/-- −7 by 2 leaves −1; 5 by 0 leaves 5. -/
theorem test_rem : v0 (.rem h0 0 1 2 .i32) (wv 0x00000005FFFFFFF9 2 0) = some 0x00000005FFFFFFFF := by decide
theorem test_remScalar : s10 (.remScalar h0 10 1 2 .n64) (ws [17, 5]) = some 2 := by decide
theorem test_min_max : v0 (.min h0 0 1 2 .i8) (wv 0x80 0x01 0) = some 0x80 ∧ v0 (.max h0 0 1 2 .i8) (wv 0x80 0x01 0) = some 1 ∧
    v0 (.min h0 0 1 2 .n8) (wv 0x80 0x01 0) = some 1 ∧ v0 (.max h0 0 1 2 .n8) (wv 0x80 0x01 0) = some 0x80 := by decide
theorem test_min_max_scalar : s10 (.minScalar h0 10 1 2 .i64) (ws [-1, 1]) = some (-1) ∧
    s10 (.maxScalar h0 10 1 2 .n64) (ws [-1, 1]) = some (-1) := by decide
theorem test_abs : v0 (.abs h4 0 1 .i16) (wv 0xFFFF8000 0 0) = some 0x18000 ∧
    c0 (.abs h4 0 1 .i16) (wv 0xFFFF8000 0 0) = some 0b1001 := by decide
theorem test_absScalar : s10 (.absScalar h0 10 1 .n64) (ws [-1]) = some (-1) := by decide
theorem test_neg : v0 (.neg h4 0 1 .n32) (wv 0x100000000 0 0) = some 0xFFFFFFFF00000000 ∧
    c0 (.neg h4 0 1 .n32) (wv 0x100000000 0 0) = some 0b0110 := by decide
theorem test_negScalar : s10 (.negScalar h0 10 1 .i64) (ws [5]) = some (-5) := by decide
theorem test_logic : v0 (.and h0 0 1 2 .i8) (wv 0b1100 0b1010 0) = some 0b1000 ∧ v0 (.or h0 0 1 2 .i8) (wv 0b1100 0b1010 0) = some 0b1110 ∧
    v0 (.xor h0 0 1 2 .i8) (wv 0b1100 0b1010 0) = some 0b0110 ∧ v0 (.andn h0 0 1 2 .i8) (wv 0b1100 0b1010 0) = some 0b0100 ∧
    v0 (.not h0 0 1 .i8) (wv 0b1100 0 0) = some 0xFFFFFFFFFFFFFFF3 := by decide
theorem test_logic_scalar : s10 (.andScalar h0 10 1 2 .i64) (ws [12, 10]) = some 8 ∧ s10 (.orScalar h0 10 1 2 .i64) (ws [12, 10]) = some 14 ∧
    s10 (.xorScalar h0 10 1 2 .i64) (ws [12, 10]) = some 6 ∧ s10 (.andnScalar h0 10 1 2 .i64) (ws [12, 10]) = some 4 ∧
    s10 (.notScalar h0 10 1 .i64) (ws [12]) = some (~~~12) := by decide
theorem test_logic_immediate : v0 (.andImm h0 0 1 .i8 0x7FF0) (wv 0xABCD 0 0) = some 0xA0C0 ∧
    v0 (.orImm h0 0 1 .i16 0x000F) (wv 0xAB00 0 0) = some 0x000F000F000FAB0F ∧
    v0 (.xorImm h0 0 1 .i32 0x7FFF) (wv 1 0 0) = some 0xFFFFFFFFFFFFFFFE := by decide
theorem test_logic_immediate_scalar : s10 (.andImmScalar h0 10 1 .i64 0x00F0) (ws [0xABCD]) = some 0xC0 ∧
    s10 (.orImmScalar h0 10 1 .i64 0x000F) (ws [0xAB00]) = some 0xAB0F ∧
    s10 (.xorImmScalar h0 10 1 .i64 0x7FFF) (ws [1]) = some (~~~1) := by decide
/-- The table 0xCA selects the second source where the destination's bit is 1, and the third where it is 0 (R112). -/
theorem test_tlog : vd 3 (.tlog h0 3 1 2 0xCA) (wv 0xF0 0x3C 0xFF00FF) = some 0xF0 ∧
    s10 (.tlogScalar h0 10 1 2 0xCA) (ws [0xF0, 0x3C]) = some 0x3C := by decide

/-- A count of the width shifts everything out and C is the last bit; past it C is 0 (R108). -/
theorem test_shl : v0 (.shl h4 0 1 2 .n8) (wv 0x0181 0x0108 0) = some 0x0200 ∧
    c0 (.shl h4 0 1 2 .n8) (wv 0x0181 0x0108 0) = some 0b0110 ∧ c0 (.shl h4 0 1 2 .n8) (wv 0x0181 0x0109 0) = some 0b0100 := by decide
theorem test_shr : v0 (.shr h4 0 1 2 .i16) (wv 0x8001 1 0) = some 0x4000 ∧ c0 (.shr h4 0 1 2 .i16) (wv 0x8001 1 0) = some 0b0010 := by
  decide
/-- Past the width SAR fills with the sign, and C is the sign. -/
theorem test_sar : v0 (.sar h4 0 1 2 .i16) (wv 0x8000 20 0) = some 0xFFFF ∧ c0 (.sar h4 0 1 2 .i16) (wv 0x8000 20 0) = some 0b1010 := by
  decide
theorem test_shifts_scalar : s10 (.shlScalar h0 10 1 2 .i64) (ws [1, 63]) = some 0x8000000000000000 ∧
    s10 (.shrScalar h0 10 1 2 .i64) (ws [-1, 63]) = some 1 ∧ s10 (.sarScalar h0 10 1 2 .i64) (ws [-8, 1]) = some (-4) ∧
    s10 (.rotScalar h0 10 1 2 .i64) (ws [0x8000000000000001, 65]) = some 3 := by decide
theorem test_shifts_immediate : v0 (.shlImm h0 0 1 .i32 4) (wv 0xF0000001 0 0) = some 0x10 ∧
    v0 (.shrImm h0 0 1 .i32 4) (wv 0xF0000010 0 0) = some 0x0F000001 ∧ v0 (.sarImm h0 0 1 .i32 4) (wv 0xF0000010 0 0) = some 0xFF000001 ∧
    v0 (.rotImm h0 0 1 .i32 4) (wv 0xF0000001 0 0) = some 0x1F := by decide
theorem test_shifts_immediate_scalar : s10 (.shlImmScalar h0 10 1 .i64 4) (ws [3]) = some 48 ∧
    s10 (.shrImmScalar h0 10 1 .i64 4) (ws [48]) = some 3 ∧ s10 (.sarImmScalar h0 10 1 .i64 4) (ws [-16]) = some (-1) ∧
    s10 (.rotImmScalar h0 10 1 .i64 4) (ws [0xF000000000000000]) = some 15 := by decide
theorem test_rot : v0 (.rot h0 0 1 2 .i8) (wv 0x81 9 0) = some 3 := by decide
theorem test_funnel : v0 (.fshl h0 0 1 2 3) (wv 1 0x8000000000000000 1) = some 3 ∧ v0 (.fshr h0 0 1 2 3) (wv 1 0 1) = some 0x8000000000000000 ∧
    v0 (.fshl h0 0 1 2 3) (wv 1 0x55 64) = some 0x55 := by decide
theorem test_funnel_scalar : s10 (.fshlScalar h0 10 1 2 3) (ws [1, 0x8000000000000000, 1]) = some 3 ∧
    s10 (.fshrScalar h0 10 1 2 3) (ws [1, 0, 1]) = some 0x8000000000000000 := by decide

/-- The field at bit 4 of 4 bits: 0xF is −1 as a signed field; a field past bit 63 is cut there (R116). -/
theorem test_bfx : v0 (.bfx h0 0 1 2 .i64) (wv 0xF0 0x404 0) = some (-1) ∧ v0 (.bfx h0 0 1 2 .n64) (wv (-1) 0x83C 0) = some 15 ∧
    s10 (.bfxScalar h0 10 1 2 .n64) (ws [0xF0, 0x404]) = some 15 := by decide
theorem test_bfi : vd 3 (.bfi h0 3 1 2 .n64) (wv 0x5 0x404 0xFFF) = some 0xF5F ∧
    s10 (.bfiScalar h0 10 1 2 .n64) (ws [0x5, 0x404]) = some 0x50 := by decide
theorem test_counts : v0 (.popc h0 0 1 .n8) (wv 0xFF03 0 0) = some 0x0802 ∧ v0 (.clz h0 0 1 .i16) (wv 1 0 0) = some 0x001000100010000F ∧
    v0 (.ctz h0 0 1 .n64) (wv 0 0 0) = some 64 ∧ v0 (.brev h0 0 1 .n8) (wv 0x0301 0 0) = some 0xC080 := by decide
theorem test_counts_scalar : s10 (.popcScalar h0 10 1 .n64) (ws [0xFF03]) = some 10 ∧ s10 (.clzScalar h0 10 1 .n64) (ws [1]) = some 63 ∧
    s10 (.ctzScalar h0 10 1 .n64) (ws [8]) = some 3 ∧ s10 (.brevScalar h0 10 1 .n64) (ws [1]) = some 0x8000000000000000 := by decide
/-- Nibble 0 names byte 8 of B:A, the lowest byte of b; nibble 1 the byte 0 of a (R114). -/
theorem test_bperm : v0 (.bperm h0 0 1 2 3) (wv 0x11 0x22 0x1111111111111108) = some 0x1122 ∧
    s10 (.bpermScalar h0 10 1 2 3) (ws [0x11, 0x22, 0x1111111111111108]) = some 0x1122 := by decide
theorem test_cmp : c0 (.cmp h4 1 2 .i8) (wv 0x80 1 0) = some 0b0011 ∧ c0 (.cmpImm h4 1 .i8 0x7FFF) (wv 0xFF 0 0) = some 0b0110 ∧
    sfOf (.cmpScalar h4 1 2 .n64) (ws [1, 2]) = some 0b1000 ∧ sfOf (.cmpImmScalar h4 1 .n64 1) (ws [2]) = some 0b0010 := by decide
theorem test_tst : c0 (.tst h4 1 2 .i8) (wv 0x180 0x080 0) = some 0b1000 ∧ sfOf (.tstScalar h4 1 2 .i64) (ws [1, 2]) = some 0b0100 := by decide
theorem test_sel : v0 (.sel h0 0 1 2 0 .eq) { wv 7 8 0 with cc := [(0, 4)] } = some 7 ∧ v0 (.sel h0 0 1 2 1 .eq) { wv 7 8 0 with cc := [(0, 4)] } = some 8 ∧
    s10 (.selScalar h0 10 1 2 .ne) (ws [7, 8]) = some 7 := by decide
theorem test_lea : v0 (.lea h0 0 1 2 3) (wv 0x100 5 0) = some 0x128 ∧ s10 (.leaScalar h0 10 1 2 63) (ws [0, 3]) = some 0x8000000000000000 := by
  decide

/-- The constant 0xD3A2646C6F6D2C27 in four words (chapter 5). -/
theorem test_movi_movh_scalar : s10 (.moviScalar h0 10 0x12C27) w0 = some 0x12C27 ∧
    s10 (.movhScalar h0 10 1 0x31BDB) { w0 with sregs := [(10, 0x12C27)] } = some 0xC6F6D2C27 ∧
    s10 (.movhScalar h0 10 3 0x34E) { w0 with sregs := [(10, 0x22646C6F6D2C27)] } = some 0xD3A2646C6F6D2C27 := by decide
theorem test_movi_movh : v0 (.movi h0 0 0x20000) w0 = some 0xFFFFFFFFFFFE0000 ∧ v0 (.movh h0 0 2 1) { w0 with win := [(0, 5)] } = some 0x1000000005 := by
  decide
theorem test_mov : v0 (.mov h4 0 1) (wv 0 0 0) = some 0 ∧ c0 (.mov h4 0 1) (wv 0 0 0) = some 0b0100 ∧ s10 (.movScalar h0 10 1) (ws [9]) = some 9 := by
  decide
/-- s0 discards a write; its flags stand (R60, R101). -/
theorem test_s0_discards : (after (.moviScalar h4 0 5) w0).map (fun v => (v.sget 0, v.sf)) = some (0, 0) ∧
    (after (.moviScalar h4 0 0) w0).map (fun v => (v.sget 0, v.sf)) = some (0, 4) := by decide
/-- sf holds bits 3:0 and 13:8; MOV writes only those (R42, R110). -/
theorem test_movFromSf_movToSf : s10 (.movFromSf h0 10) { w0 with sf := 0x3F0F } = some 0x3F0F ∧ sfOf (.movToSf h0 1) (ws [~~~0]) = some 0x3F0F := by
  decide
theorem test_movFromCc_movToCc : v0 (.movFromCc h0 0) { w0 with cc := [(0, 0xABCD)] } = some 0xABCD ∧
    c0 (.movToCc h0 1) (wv 0x12345 0 0) = some 5 := by decide
/-- A lane whose guard fails is left alone (R57). -/
theorem test_guarded_lane : v0 (.add { h0 with lgcond := .eq } 0 1 2 .i64) { wv 1 2 0 with win := [(0, 77), (32, 1), (64, 2)] } = some 77 := by decide
/-- A word under a failing uniform guard has no effect but to advance (R58). -/
theorem test_uniform_guard : (after (.add { h0 with ug := .eq } 0 1 2 .i64) (wv 1 2 0)).map (fun v => (wget v.win 0, v.parts.map (·.pc))) =
    some (0, [0x108]) := by decide

/-! Float, conversion and lane words: results of IEEE arithmetic worked by hand, the worked decodes of chapter 2, and the exact
cases of Table 6.5 -/

/-- Lane 0 of v0 and the sticky bits that a word raises. -/
def fv0 (i : Instr) (w : Wave) : Option (Word × List Word) := (after i w).map fun v => (wget v.win 0, v.stk.map (·.2))

/-- 1 + 2^−24 lies halfway between 1 and its neighbour: even under RNE, up under RU; inexact both times. −5 + −0.25 = −5.25. -/
theorem test_fadd : fv0 (.fadd h0 0 1 2 .f32 .rne) (wv 0x3F800000 0x33800000 0) = some (0x3F800000, [INX]) ∧
    fv0 (.fadd h0 0 1 2 .f32 .ru) (wv 0x3F800000 0x33800000 0) = some (0x3F800001, [INX]) := by decide
theorem test_fadd_f16 : fv0 (.fadd h0 0 1 2 .f16 .rne) (wv 0xC500 0xB400 0) = some (0xC540, []) := by decide
/-- x − x is +0, and −0 under RD. -/
theorem test_fsub : v0 (.fsub h0 0 1 2 .bf16 .rne) (wv 0x3FC0 0x3FC0 0) = some 0 ∧
    v0 (.fsub h0 0 1 2 .bf16 .rd) (wv 0x3FC0 0x3FC0 0) = some 0x8000800080008000 := by decide
theorem test_fmul : v0 (.fmul h0 0 1 2 .f64 .rne) (wv 0x3FF8000000000000 0x4000000000000000 0) = some 0x4008000000000000 := by decide
/-- Infinity times 0 is the canonical NaN and sets INV. -/
theorem test_fmul_invalid : fv0 (.fmul h4 0 1 2 .f64 .rne) (wv 0x7FF0000000000000 0 0) = some (0x7FF8000000000000, [INV]) ∧
    c0 (.fmul h4 0 1 2 .f64 .rne) (wv 0x7FF0000000000000 0 0) = some 0b0001 := by decide
theorem test_fmin_fmax : v0 (.fmin h0 0 1 2 .f32) (wv 0 0x80000000 0) = some 0x80000000 ∧ v0 (.fmax h0 0 1 2 .f32) (wv 0x7FC00000 0x3F800000 0) = some 0x3F800000 := by
  decide
theorem test_fabs_fneg : v0 (.fabs h0 0 1 .f32) (wv 0xFFFFFFFFBF800000 0 0) = some 0x7FC000003F800000 ∧
    v0 (.fneg h0 0 1 .f32) (wv 0x3F800000 0 0) = some 0x80000000BF800000 := by decide
theorem test_fcmp : c0 (.fcmp h4 1 2 .f32) (wv 0x3F800000 0x40000000 0) = some 0b1010 ∧ c0 (.fcmp h4 1 2 .f32) (wv 0x80000000 0 0) = some 0b0110 ∧
    c0 (.fcmp h4 1 2 .f32) (wv 0x7FC00000 0 0) = some 0b0001 := by decide
/-- A negative normal number, −0, a signalling NaN and +∞. -/
theorem test_fclass : v0 (.fclass h0 0 1 .f16) (wv 0x7C007C018000C500 0 0) = some 0x0080010000080002 := by decide
theorem test_frcp_fsqrt : v0 (.frcp h0 0 1 .f32 .rne) (wv 0x4000000080000000 0 0) = some 0x3F000000FF800000 ∧
    v0 (.fsqrt h0 0 1 .f32 .rne) (wv 0x4080000000000000 0 0) = some 0x4000000000000000 := by decide
/-- 1/√4 = 0.5, 2^3 = 8, log2 8 = 3. -/
theorem test_frsq_fexp2_flog2 : v0 (.frsq h0 0 1 .bf16) (wv 0x4080408040804080 0 0) = some 0x3F003F003F003F00 ∧
    v0 (.fexp2 h0 0 1 .bf16) (wv 0x4040404040404040 0 0) = some 0x4100410041004100 ∧
    v0 (.flog2 h0 0 1 .bf16) (wv 0x4100410041004100 0 0) = some 0x4040404040404040 := by decide
/-- sin π is +0, cos (π/2) is +0, cos 0 is 1, tanh ∞ is 1. -/
theorem test_fsin_fcos_ftanh : v0 (.fsin h0 0 1 .f32) (wv 0x3F80000000000000 0 0) = some 0 ∧
    v0 (.fcos h0 0 1 .f32) (wv 0x3F00000000000000 0 0) = some 0x3F800000 ∧ v0 (.ftanh h0 0 1 .f32) (wv 0x7F80000000000000 0 0) = some 0x3F80000000000000 := by
  decide
theorem test_fscale : v0 (.fscale h0 0 1 2 .f32 .rne) (wv 0x3F8000003F800000 0xFFFFFFFF00000003 0) = some 0x3F00000041000000 := by decide
/-- 2.5 rounds to the even 2, up to 3; −0.25 rounds to −0; no INX. -/
theorem test_frint : fv0 (.frint h0 0 1 .f32 .rne) (wv 0x40200000BE800000 0 0) = some (0x4000000080000000, []) ∧
    v0 (.frint h0 0 1 .f32 .ru) (wv 0x4020000000000000 0 0) = some 0x4040000000000000 := by decide
theorem test_ffma : v0 (.ffma h0 0 1 2 3 .f32 .rne) (wv 0x40000000 0x40400000 0x3F800000) = some 0x40E00000 := by decide
/-- 1 × 1 + 2 × 2 + 0.5 = 5.5 in .f32 from .f16 pairs. -/
theorem test_fdot2 : v0 (.fdot2 h0 0 1 2 3 false .rne) (wv 0x40003C00 0x40003C00 0x3F000000) = some 0x40B00000 := by decide
/-- A table of zeros gives +0. -/
theorem test_act : v0 (.act h0 0 1 .f32 .rne) (wv 0x3F800000 0 0) = some 0 := by decide
theorem test_actld_actswap : (ran (.actld h0 1 2) (st k0 g0 w0)).map (fun t => ((t.core 0).actLoads.map fun l => (l.bank, l.due))) = some [(true, 116)] ∧
    (ran (.actswap h0) (st k0 g0 w0)).map (fun t => (t.core 0).act.sel) = some true := by decide

/-- 5 to .f32; the .f16 sub-elements 2 and 3 widened. -/
theorem test_cvt : v0 (.cvt h0 0 1 (.flt .f32) (.int .i32) 0 .rne) (wv 0xFFFFFFFF00000005 0 0) = some 0xBF80000040A00000 ∧
    v0 (.cvt h0 0 1 (.flt .f32) (.flt .f16) 1 .rne) (wv 0x4780C50000000000 0 0) = some 0x40F00000C0A00000 := by decide
/-- −2.5 truncates to −2; a NaN gives 0 (Table 2.4). -/
theorem test_cvt_to_integer : fv0 (.cvt h4 0 1 (.int .i32) (.flt .f32) 0 .rz) (wv 0x7FC00000C0200000 0 0) = some (0x00000000FFFFFFFE, [INV ||| INX ||| QNAN]) := by
  decide
theorem test_pack_unpk : v0 (.pack h0 0 1 2 .i8) (wv 0x0080FF7F0001FFFF 0 0) = some 0x7F8001FF ∧
    v0 (.unpk h0 0 1 1 .i8) (wv 0x80017FFF00000000 0 0) = some 0xFF800001007FFFFF := by decide
/-- The worked block of chapter 2 begins 5.0, −0.125: its codes are 0xA8 and 0x70, its exponent word 0x827E. -/
theorem test_qnt : (after (.qnt h0 0 1 false .f32 0 0 .rne) (wv 0xBE00000040A00000 0 0)).map
    (fun v => (wget v.win 0, (wget v.win 16).setWidth 16)) = some (0x70A8, 0x827E#16) := by decide
/-- The worked decodes of chapter 2: 0xA8 is 5.0, 0x70 is −0.125, 0xBF is 7.875. -/
theorem test_dqnt : (after (.dqnt h0 4 1 false .f32 0 .rne) { w0 with win := [(32, 0xBF70A8), (48, 0x827E)] }).map
    (fun v => (wget v.win 128, wget v.win 129)) = some (0xBE00000040A00000, 0x40FC0000) := by decide

/-- Lanes 0 and 1 of v0. -/
def two (i : Instr) (w : Wave) : Option (Word × Word) := (after i w).map fun v => (wget v.win 0, wget v.win 1)
/-- v1 and v2 with values in lanes 0 and 1. -/
def lv (a b c d : Word) : Wave := { w0 with win := [(32, a), (33, b), (64, c), (65, d)] }

/-- Byte indices: 0x21 names sub-element 1 of lane 1. -/
theorem test_lget : two (.lget h0 0 1 2 .i8) (lv 0x1122 0x3344 0x21 0x01) = some (0x2222222222222233, 0x2222222222222244) := by decide
/-- The worked scatter: both lanes name lane 4, lane 1 stands. -/
theorem test_lput : (after (.lput h0 0 1 2 .n64) (lv 100 101 4 4)).map (fun v => (wget v.win 4, wget v.win 0)) = some (101, 0) := by decide
theorem test_lshf : two (.lshf h0 0 1 2 .up 1) (lv 5 6 7 8) = some (7, 5) ∧ two (.lshf h0 0 1 2 .down 1) (lv 5 6 7 8) = some (6, 0) ∧
    two (.lshf h0 0 1 0 .rot 31) (lv 5 6 7 8) = some (0, 5) := by decide
theorem test_lbcst_lxor : two (.lbcst h0 0 1 1) (lv 5 6 0 0) = some (6, 6) ∧ two (.lxor h0 0 1 1) (lv 5 6 0 0) = some (6, 5) := by decide
theorem test_lscan_lred : two (.lscan h0 0 1 (.add .i8)) (lv 0x0101 0x02FF 0 0) = some (0x0101, 0x0300) ∧
    two (.lred h0 0 1 (.max .n64)) (lv 5 6 0 0) = some (6, 6) ∧ two (.lred h0 0 1 (.fadd .f64 .rne)) (lv 0x3FF0000000000000 0x4000000000000000 0 0) =
      some (0x4008000000000000, 0x4008000000000000) := by decide
theorem test_lvote : two (.lvote h0 0 1 .ballot) (lv 0 6 0 0) = some (2, 2) ∧ two (.lvote h0 0 1 .any) (lv 0 6 0 0) = some (1, 1) ∧
    two (.lvote h0 0 1 .all) (lv 0 6 0 0) = some (0, 0) := by decide
/-- RNG advances the counter by one; RNGSET sets key and counter. -/
theorem test_rng_rngset : (after (.rng h0 0) w0).map (·.ctr) = some 1 ∧
    (after (.rngset h0 1 2) (ws [7, 9])).map (fun v => (v.key, v.ctr)) = some (7, 9) := by decide
/-- The worked pair's slot X, ADD.i32 v1, v2 under (c0.ne), with FADD.f32 v7, v4: lane 0 passes the guard. -/
theorem test_pair : (after (.pairAdd 0 .w32 1 2 .ne ⟨.fadd .f32, 7, 4, .al⟩)
      { w0 with win := [(32, 5), (64, 6), (128, 0x3F800000), (224, 0x3F800000)] }).map
    (fun v => (wget v.win 32, wget v.win 224)) = some (11, 0x40000000) := by decide
/-- Both slots read before either writes. -/
theorem test_pair_reads_first : (after (.pairMov 0 1 2 .al ⟨.mov, 4, 3, .al⟩) (lv 5 0 6 0)).map (fun v => wget v.win 32) = some 6 := by decide
theorem test_pair_guard : (after (.pairSub 0 .w8 1 2 .eq ⟨.xor, 4, 3, .al⟩) (lv 5 0 6 0)).map (fun v => wget v.win 32) = some 5 := by decide

/-! Witnesses: for each statement with hypotheses, states and operands that meet them -/

/-- `x` meets nothing that stops a word, and its context checks for early operands. -/
def okay (x : Iss) (i : Instr) (h : Hd) : Bool :=
  x.frame.bad (usesOf i) == [] && x.guard h && (worstEarly x.frame x.clk x.w.early (usesOf i)).1 == 0

theorem ready_of_okay {x : Iss} {l : List (Instr × Hd)} (hl : (l.all fun p => okay x p.1 p.2) = true) :
    ∀ p ∈ l, x.ready (usesOf p.1) p.2 := by
  intro p hp
  have h := List.all_eq_true.mp hl p hp
  simp only [okay, Bool.and_eq_true, beq_iff_eq] at h
  exact ⟨h.1.1, h.1.2, .inr h.2⟩

/-- The plain wave issues. -/
def x0 : Iss := iss k0 g0 w0
/-- The same with other registers of the wave. -/
def xw (w : Wave) : Iss := iss k0 g0 w

theorem witness_SumsAndDifferences : x0.live ∧ ∀ p ∈ [((.add h4 383 0 511 .i8 : Instr), h4), (.addScalar h4 0 255 1 .n64, h4),
    (.addImm h0 383 0 .i16 0x7FFF, h0), (.addImmScalar h4 255 1 .i64 0x4000, h4), (.addc h4 1 2 3 3 .i64, h4),
    (.addcScalar h4 1 2 3 .n64, h4), (.sub h4 1 2 3 .i8, h4), (.subScalar h4 1 2 3 .i8, h4), (.subb h4 1 2 3 0 .i64, h4),
    (.subbScalar h4 1 2 3 .i64, h4), (.cmp h4 1 2 .i8, h4), (.cmpScalar h4 1 2 .i8, h4), (.cmpImm h4 1 .i8 1, h4),
    (.cmpImmScalar h4 1 .i8 1, h4), (.lea h4 1 2 3 63, h4), (.leaScalar h4 1 2 3 63, h4)], x0.ready (usesOf p.1) p.2 :=
  ⟨rfl, ready_of_okay (by decide)⟩
theorem witness_Products : x0.live ∧ ∀ p ∈ [((.mul h4 383 1 511 .i32 : Instr), h4), (.mulScalar h4 1 2 3 .i8, h4),
    (.mulh h4 1 2 3 .n64, h4), (.mulhScalar h4 1 2 3 .i64, h4), (.madI32 h4 1 2 3 4, h4), (.madI32Scalar h4 1 2 3 4, h4),
    (.madN32 h4 1 2 3 4, h4), (.madN32Scalar h4 1 2 3 4, h4), (.madI64 h4 1 2 3 4, h4), (.madI64Scalar h4 1 2 3 4, h4),
    (.madN64 h4 1 2 3 4, h4), (.madN64Scalar h4 1 2 3 4, h4)], x0.ready (usesOf p.1) p.2 := ⟨rfl, ready_of_okay (by decide)⟩
theorem witness_DivisionNeverTraps : x0.live ∧ ∀ p ∈ [((.div h4 383 1 511 .i32 : Instr), h4), (.divScalar h4 1 2 0 .i8, h4),
    (.rem h4 1 2 3 .n64, h4), (.remScalar h4 1 2 0 .i64, h4)], x0.ready (usesOf p.1) p.2 := ⟨rfl, ready_of_okay (by decide)⟩
theorem witness_ExtremesAndSigns : x0.live ∧ ∀ p ∈ [((.min h4 383 1 511 .i32 : Instr), h4), (.minScalar h4 1 2 0 .i8, h4),
    (.max h4 1 2 3 .n64, h4), (.maxScalar h4 1 2 0 .i64, h4), (.abs h4 1 2 .i8, h4), (.absScalar h4 1 2 .i8, h4), (.neg h4 1 2 .i8, h4),
    (.negScalar h4 1 2 .i8, h4)], x0.ready (usesOf p.1) p.2 := ⟨rfl, ready_of_okay (by decide)⟩
theorem witness_Logic : x0.live ∧ ∀ p ∈ [((.and h4 383 1 511 .i32 : Instr), h4), (.andScalar h4 1 2 0 .i8, h4), (.andImm h4 1 2 .i8 1, h4),
    (.andImmScalar h4 1 2 .i8 1, h4), (.or h4 1 2 3 .i8, h4), (.orScalar h4 1 2 3 .i8, h4), (.orImm h4 1 2 .i8 1, h4),
    (.orImmScalar h4 1 2 .i8 1, h4), (.xor h4 1 2 3 .i8, h4), (.xorScalar h4 1 2 3 .i8, h4), (.xorImm h4 1 2 .i8 1, h4),
    (.xorImmScalar h4 1 2 .i8 1, h4), (.andn h4 1 2 3 .i8, h4), (.andnScalar h4 1 2 3 .i8, h4), (.not h4 1 2 .i8, h4),
    (.notScalar h4 1 2 .i8, h4), (.tlog h4 1 2 3 255, h4), (.tlogScalar h4 1 2 3 255, h4), (.tst h4 1 2 .i8, h4),
    (.tstScalar h4 1 2 .i8, h4)], x0.ready (usesOf p.1) p.2 := ⟨rfl, ready_of_okay (by decide)⟩
theorem witness_Shifts : x0.live ∧ ∀ p ∈ [((.shl h4 383 1 511 .i32 : Instr), h4), (.shlScalar h4 1 2 0 .i8, h4), (.shlImm h4 1 2 .i8 0x7FFF, h4),
    (.shlImmScalar h4 1 2 .i8 1, h4), (.shr h4 1 2 3 .i8, h4), (.shrScalar h4 1 2 3 .i8, h4), (.shrImm h4 1 2 .i8 1, h4),
    (.shrImmScalar h4 1 2 .i8 1, h4), (.sar h4 1 2 3 .i8, h4), (.sarScalar h4 1 2 3 .i8, h4), (.sarImm h4 1 2 .i8 1, h4),
    (.sarImmScalar h4 1 2 .i8 1, h4), (.rot h4 1 2 3 .i8, h4), (.rotScalar h4 1 2 3 .i8, h4), (.rotImm h4 1 2 .i8 1, h4),
    (.rotImmScalar h4 1 2 .i8 1, h4), (.fshl h4 1 2 3 4, h4), (.fshlScalar h4 1 2 3 4, h4), (.fshr h4 1 2 3 4, h4),
    (.fshrScalar h4 1 2 3 4, h4)], x0.ready (usesOf p.1) p.2 := ⟨rfl, ready_of_okay (by decide)⟩
theorem witness_BitWork : x0.live ∧ IType.bits .n64 = 64 ∧ ∀ p ∈ [((.bfx h4 383 1 511 .n64 : Instr), h4), (.bfxScalar h4 1 2 0 .n64, h4),
    (.bfi h4 1 2 3 .n64, h4), (.bfiScalar h4 1 2 3 .n64, h4), (.popc h4 1 2 .n64, h4), (.popcScalar h4 1 2 .n64, h4), (.clz h4 1 2 .n64, h4),
    (.clzScalar h4 1 2 .n64, h4), (.ctz h4 1 2 .n64, h4), (.ctzScalar h4 1 2 .n64, h4), (.brev h4 1 2 .n64, h4), (.brevScalar h4 1 2 .n64, h4),
    (.bperm h4 1 2 3 4, h4), (.bpermScalar h4 1 2 3 4, h4), (.sel h4 1 2 3 3 .nv, h4), (.selScalar h4 1 2 3 .al, h4)],
    x0.ready (usesOf p.1) p.2 := ⟨rfl, rfl, ready_of_okay (by decide)⟩
theorem witness_Moves : x0.live ∧ (3 : BitVec 2) ≠ 0 ∧ ∀ p ∈ [((.mov h4 383 511 : Instr), h4), (.movScalar h4 0 255, h4), (.movFromSf h4 1, h4),
    (.movToSf h0 1, h0), (.movFromCc h4 1, h4), (.movToCc h0 1, h0), (.movi h4 1 5, h4), (.moviScalar h4 1 5, h4), (.movh h4 1 3 5, h4),
    (.movhScalar h4 1 3 5, h4)], x0.ready (usesOf p.1) p.2 := ⟨rfl, by decide, ready_of_okay (by decide)⟩

theorem witness_PairedWords : x0.live ∧ (Instr.pairAdd 7 .w32 1 2 .ne ⟨.fadd .f32, 7, 4, .al⟩).wf = true ∧
    x0.ready (usesOf (.pairAdd 7 .w32 1 2 .ne ⟨.fadd .f32, 7, 4, .al⟩)) (pairHd 7) :=
  ⟨rfl, by decide, ready_of_okay (l := [(.pairAdd 7 .w32 1 2 .ne ⟨.fadd .f32, 7, 4, .al⟩, pairHd 7)]) (by decide) _ (.head _)⟩
theorem witness_FloatWords : x0.live ∧ ∀ p ∈ [((.fadd h4 383 1 511 .f16 .rd : Instr), h4), (.fsub h4 1 2 3 .f32 .rne, h4), (.fmul h4 1 2 3 .f64 .rne, h4),
    (.fmin h4 1 2 3 .bf16, h4), (.fmax h4 1 2 3 .bf16, h4), (.fabs h4 1 2 .f32, h4), (.fneg h4 1 2 .f32, h4), (.fcmp h4 1 2 .f32, h4),
    (.fclass h0 1 2 .f32, h0), (.frcp h4 1 2 .f32 .ru, h4), (.fsqrt h4 1 2 .f32 .rz, h4), (.frsq h4 1 2 .f32, h4), (.fexp2 h4 1 2 .f32, h4),
    (.flog2 h4 1 2 .f32, h4), (.fsin h4 1 2 .f32, h4), (.fcos h4 1 2 .f32, h4), (.ftanh h4 1 2 .f32, h4), (.fscale h4 1 2 3 .f32 .rne, h4),
    (.frint h4 1 2 .f32 .rne, h4), (.ffma h4 1 2 3 4 .f32 .rne, h4), (.fdot2 h4 1 2 3 4 true .rne, h4)], x0.ready (usesOf p.1) p.2 :=
  ⟨rfl, ready_of_okay (by decide)⟩
/-- A signalling NaN, a quiet one, a number: the hypotheses of every clause. -/
theorem witness_NaNsAreCanonical : 0x7F800001 < 2 ^ fWidth .f32 ∧ fIsNan .f32 0x7F800001 ∧ fIsNan .f32 (fAdd .f32 .rne 0x7F800001 0).r ∧
    ¬ (fIsNan .f32 0x7F800001 ∧ fIsNan .f32 0) := by unfold fIsNan; decide
/-- 1.5 + 0.5 = 2 and 1.5 × 0.5 + 0.5 = 1.25 in .f16 have finite operands and results. -/
theorem witness_ExactResultsStand : fFinite .f16 0x3E00 ∧ fFinite .f16 0x3800 ∧ fFinite .f16 0x4000 ∧ fval .f16 0x4000 ≠ 0 ∧
    fval .f16 0x3E00 + fval .f16 0x3800 = fval .f16 0x4000 ∧ fval .f16 0x4000 - fval .f16 0x3800 = fval .f16 0x3E00 ∧
    fval .f16 0x3E00 * fval .f16 0x3800 = fval .f16 0x3A00 ∧ fval .f16 0x3E00 * fval .f16 0x3800 + fval .f16 0x3800 = fval .f16 0x3D00 := by
  have h1 : fDecode .f16 0x3E00 = .fin false 1536 (-10) := by decide
  have h2 : fDecode .f16 0x3800 = .fin false 1024 (-11) := by decide
  have h3 : fDecode .f16 0x4000 = .fin false 1024 (-9) := by decide
  have h4 : fDecode .f16 0x3A00 = .fin false 1536 (-11) := by decide
  have h5 : fDecode .f16 0x3D00 = .fin false 1280 (-10) := by decide
  refine ⟨by unfold fFinite; decide, by unfold fFinite; decide, by unfold fFinite; decide, ?_, ?_, ?_, ?_, ?_⟩ <;>
    simp only [fval, h1, h2, h3, h4, h5] <;> norm_num
theorem witness_RoundingIsNearest : 0 < 3 ∧ fFinite .f16 (fRound .f16 .rne .none true 3 (-30)).r ∧ fFinite .f16 (fRound .f16 .rz .none true 3 (-30)).r ∧
    fFinite .f16 (fRound .f16 .ru .none false 2049 0).r ∧ fFinite .f16 (fRound .f16 .rd .none false 2049 0).r := by unfold fFinite; decide
theorem witness_ComparisonsOrderValues : fFinite .f16 0x8000 ∧ fFinite .f16 0x0000 ∧ fNeg .f16 0x8000 = true ∧ fFinite .f16 0x7BFF ∧
    fval .f16 0x8000 = 0 ∧ fval .f16 0 = 0 ∧ fval .f16 0 < fval .f16 0x3800 := by
  have h1 : fDecode .f16 0x8000 = .fin true 0 (-24) := by decide
  have h2 : fDecode .f16 0 = .fin false 0 (-24) := by decide
  have h3 : fDecode .f16 0x3800 = .fin false 1024 (-11) := by decide
  refine ⟨by unfold fFinite; decide, by unfold fFinite; decide, by decide, by unfold fFinite; decide, ?_, ?_, ?_⟩ <;>
    simp only [fval, h1, h2, h3] <;> norm_num
/-- The other bank is free, no swap in this clk; no load is in flight for ACTSWAP, or one is. -/
theorem witness_ActivationTable : x0.live ∧ (∀ p ∈ [((.act h4 383 1 .f32 .rne : Instr), h4), (.actld h0 376 1, h0), (.actswap h0, h0)],
    x0.ready (usesOf p.1) p.2) ∧ (∀ old, x0.core.swapAt ≠ some (x0.clk, old)) ∧ x0.core.actUse1 ≤ x0.clk ∧ x0.core.drainsBank true = false ∧
    x0.core.actLoads = [] ∧
    let y : Iss := { x0 with s := x0.s.setCore 0 { x0.core with actLoads := [⟨true, 116, .zero⟩] } }
    y.live ∧ y.core.actLoads ≠ [] :=
  ⟨rfl, ready_of_okay (by decide), by decide, by decide, by decide, rfl, rfl, by decide⟩

theorem witness_ConversionWords : x0.live ∧ (8 : Nat) < 64 ∧ FType.bf16 ≠ .f32 ∧ ∀ p ∈ [((.cvt h4 383 1 (.flt .f16) (.flt .f32) 1 .sr : Instr), h4), (.qnt h0 383 1 true .f16 3 15 .rne, h0),
    (.dqnt h0 383 1 true .bf16 3 .rne, h0), (.dqnt h0 382 1 false .f32 0 .rne, h0), (.pack h4 1 2 3 .i8, h4), (.unpk h4 1 2 1 .n32, h4)],
    x0.ready (usesOf p.1) p.2 := ⟨rfl, by decide, by decide, ready_of_okay (by decide)⟩
theorem witness_LaneWords : x0.live ∧ h0.x = 0 ∧ ∀ p ∈ [((.lget h0 383 1 511 .i8 : Instr), h0), (.lput h0 383 1 2 .n64, h0), (.lshf h0 1 2 3 .up 31, h0),
    (.lshf h0 1 2 3 .down 0, h0), (.lshf h0 1 2 0 .rot 31, h0), (.lbcst h0 1 2 31, h0), (.lxor h0 1 2 31, h0), (.lvote h4 1 2 .any, h4),
    (.lvote h4 1 2 .all, h4), (.lvote h4 1 2 .ballot, h4), (.rng h0 1, h0), (.rngset h0 1 2, h0)], x0.ready (usesOf p.1) p.2 :=
  ⟨rfl, rfl, ready_of_okay (by decide)⟩
theorem witness_Reductions : x0.live ∧ ∀ p ∈ [((.lred h4 383 1 (.fadd .f64 .rd) : Instr), h4), (.lscan h4 1 2 (.max .i8), h4), (.lred h4 1 2 (.add .i16), h4),
    (.lscan h4 1 2 (.add .n64), h4)], x0.ready (usesOf p.1) p.2 := ⟨rfl, ready_of_okay (by decide)⟩

/-- Lane 1's target is no multiple of 8, lane 0's is. -/
theorem witness_BranchWords : let x := xw { w0 with win := [(32, 0x200), (33, 0x203)] }
    x0.live ∧ x.live ∧ (∀ p ∈ [((.bra h0 0x7FFFFFF : Instr), h0), (.brc h0 1 3, h0), (.brx h0 1, h0), (.ret h0 1, h0), (.call h0 383 2, h0),
      (.callx h0 383 1, h0)], x0.ready (usesOf p.1) p.2) ∧ (∀ l ∈ x0.active h0, (x0.v 1 l).toNat % 8 = 0) ∧
    (∀ p ∈ [((.brx h0 1 : Instr), h0), (.ret h0 1, h0), (.callx h0 2 1, h0)], x.ready (usesOf p.1) p.2) ∧
    1 ∈ x.active h0 ∧ (x.v 1 1).toNat % 8 ≠ 0 ∧ ∀ m ∈ x.active h0, m < 1 → (x.v 1 m).toNat % 8 = 0 :=
  ⟨rfl, rfl, ready_of_okay (by decide), by decide, ready_of_okay (by decide), by decide, by decide, by decide⟩
/-- Two partitions without a common lane. -/
def p1 : Part := { lanes := 1, pc := 0x100, nest := [], saved := none, fbar := none, redirect := 0, due := false }
def p2 : Part := { p1 with lanes := 2, pc := 0x200 }
theorem witness_LanesReachTheirTargets : (xw { w0 with parts := [p1, p2] }).apart := by
  show List.Pairwise _ [p1, p2]; decide
theorem witness_LoopWords : let l : Level := ⟨0x108, 0x120, 2⟩
    let x2 := xw { w0 with parts := [{ p1 with nest := [l] }] }
    let x1 := xw { w0 with parts := [{ p1 with nest := [{ l with count := 1 }] }] }
    let x4 := xw { w0 with parts := [{ p1 with nest := [l, l, l, l] }], sregs := [(1, 7)] }
    let y := xw (ws [7])
    x0.live ∧ x1.live ∧ x2.live ∧ x4.live ∧ y.live ∧ (∀ p ∈ [((.loop h0 1 0x3FFFF : Instr), h0), (.endl h0, h0), (.lbrk h0, h0)], x0.ready (usesOf p.1) p.2) ∧
    (∀ p ∈ [((.endl h0 : Instr), h0)], x1.ready (usesOf p.1) p.2) ∧
    (∀ p ∈ [((.endl h0 : Instr), h0), (.lbrk h0, h0)], x2.ready (usesOf p.1) p.2) ∧ (∀ p ∈ [((.loop h0 1 5 : Instr), h0)], x4.ready (usesOf p.1) p.2) ∧
    (∀ p ∈ [((.loop h0 1 5 : Instr), h0)], y.ready (usesOf p.1) p.2) ∧
    x4.p.nest.length = 4 ∧ x0.p.nest = [] ∧ x0.sreg 1 = 0 ∧ y.p.nest.length ≠ 4 ∧ y.sreg 1 ≠ 0 ∧ x2.p.nest = [l] ∧ l.count ≠ 1 ∧
    x1.p.nest = [{ l with count := 1 }] :=
  ⟨rfl, rfl, rfl, rfl, rfl, ready_of_okay (by decide), ready_of_okay (by decide), ready_of_okay (by decide), ready_of_okay (by decide),
   ready_of_okay (by decide), rfl, rfl, by decide, by decide, by decide, rfl, by decide, rfl⟩
/-- SPAWN with room, without room for the wave of a bin that its fibre fills, in determinism mode. -/
theorem witness_FibreWords_spawn : let f := xw (wv 0x1000 0 0)
    let d := iss { k0 with det := true } g0 w0
    let b : Bin := { uid := 50, core := 0, die := 0, group := 2, entry := 0x1000, mask := [], due := 200,
                     fibres := List.replicate 31 ⟨0, 0, 0, 0⟩, waiting := false }
    let n : Iss := { iss { k0 with win := 2049 } g0 (wv 0x1000 0 0) with s := { st { k0 with win := 2049 } g0 (wv 0x1000 0 0) with bins := [b] } }
    let fibres (x : Iss) := (x.active h0).map fun l => (x.v 1 l, (⟨x.vreg 2 l, x.vreg 3 l, x.vreg 4 l, x.vreg 5 l⟩ : Fibre))
    f.live ∧ d.live ∧ n.live ∧ f.ready (usesOf (.spawn h0 1 2 2)) h0 ∧ d.ready (usesOf (.spawn h0 1 2 2)) h0 ∧
    n.ready (usesOf (.spawn h0 1 2 2)) h0 ∧ d.det = true ∧ f.det = false ∧ n.det = false ∧
    (∀ l ∈ f.active h0, (f.v 1 l).toNat % 8 = 0) ∧ (∀ l ∈ n.active h0, (n.v 1 l).toNat % 8 = 0) ∧
    (let m := f.s.binMask f.w.uid ((f.sreg 2).toNat % 2 ^ 16)
     let r := f.s.binAll f.g f.w.core m (fibres f)
     r.2.1 ≤ f.s.groupRoom f.g f.k.win ∧ f.s.copyFull? m r.2.2 = none) ∧
    n.s.groupRoom n.g n.k.win < (n.s.binAll n.g n.w.core (n.s.binMask n.w.uid ((n.sreg 2).toNat % 2 ^ 16)) (fibres n)).2.1 :=
  ⟨rfl, rfl, rfl, ready_of_okay (l := [(.spawn h0 1 2 2, h0)]) (by decide) _ (.head _),
   ready_of_okay (l := [(.spawn h0 1 2 2, h0)]) (by decide) _ (.head _), ready_of_okay (l := [(.spawn h0 1 2 2, h0)]) (by decide) _ (.head _),
   rfl, rfl, rfl, by decide, by decide, by decide, by decide⟩
/-- END of the last lanes, of a partition, of some lanes. -/
theorem witness_FibreWords : let e := xw { w0 with parts := [p1, p2] }
    let g : Hd := { h0 with lgc := 0, lgcond := .eq }
    let y := xw { w0 with cc := [(0, 4)] }
    let left (x : Iss) (h : Hd) := x.p.lanes &&& ~~~(x.active h).foldl (fun (m : BitVec 32) l => m ||| 1 <<< l) 0
    x0.live ∧ e.live ∧ y.live ∧ (∀ p ∈ [((.nop h0 : Instr), h0), (.spawn h0 1 380 2, h0), (.endFibre h0, h0), (.yield h0, h0), (.sleep h0 0x3FFFF, h0),
      (.sleep h0 0, h0), (.fbar h0 255, h0), (.icinv h0, h0)], x0.ready (usesOf p.1) p.2) ∧
    (∀ p ∈ [((.endFibre h0 : Instr), h0)], e.ready (usesOf p.1) p.2) ∧ (∀ p ∈ [((.endFibre g : Instr), g)], y.ready (usesOf p.1) p.2) ∧
    left x0 h0 = 0 ∧ x0.ps = [] ∧ left e h0 = 0 ∧ e.ps ≠ [] ∧ left y g ≠ 0 :=
  ⟨rfl, rfl, rfl, ready_of_okay (by decide), ready_of_okay (by decide), ready_of_okay (by decide), by decide, rfl, by decide, by decide, by decide⟩

/-- A HELD root grant in register `code` of the wave (0 to 15) or its group (16 to 23). -/
def gr (gid code : Nat) (kind : Kind) (ia len : Nat) : Grant :=
  { gid := gid, reg := { grp := decide (16 ≤ code), owner := if code < 16 then 3 else 2, code := code }, st := .held, kind := kind,
    ctx := 0, va := wd ia, ia := ia, len := len, tag := 1, children := 0, parent := none, home := homeOf ia, entry := some 0,
    sfWrite := false, derive := none, flushed := false, returned := false, window := none, gs := [], lost := false, by_ := 0 }
/-- The wave issues with these grants. -/
def xg (w : Wave) (l : List Grant) : Iss := { xw w with s := { st k0 g0 w with grants := l } }
/-- 256 bytes of main memory of die 0 in g2; the same as an atomic grant; 512 bytes of core 0's scratchpad in q0. -/
def gX : Grant := gr 20 2 .x 0x1000 0x100
def gA : Grant := gr 20 2 .a 0x1000 0x100
def gS : Grant := gr 21 16 .x (2 * 2 ^ 48 + 0x800) 0x200
/-- Lane 0 at offset 240, lane 1 at 248, the last of 8 bytes that fits. -/
def wo : Wave := { w0 with win := [(32, 240), (33, 248)] }
/-- No lane passes its guard. -/
def hn : Hd := { h0 with lgcond := .eq }

theorem witness_LoadsGoInFlight : let x := xg wo [gX, gS]
    x.live ∧ (∀ p ∈ [((.ld h0 383 2 1 .i64 .none 0 : Instr), h0), (.lds h0 1 1 .i64 .none 15, h0), (.ldp h0 382 2 2 .none 15, h0),
      (.ld hn 1 2 1 .i64 .none 0, hn), (.lds hn 1 1 .i64 .none 0, hn), (.ldp hn 1 2 1 .none 0, hn)], x.ready (usesOf p.1) p.2) ∧
    x.reads 2 gX ∧ x.fits h0 gX.len 8 0 1 ∧ x.fits h0 x.scr 8 15 1 ∧ x.fits h0 gX.len 16 15 2 ∧ x.fits hn gX.len 8 0 1 ∧
    x.active h0 ≠ [] ∧ x.active hn = [] ∧ x.entriesFree 2 ∧ x.s.direct gX = false ∧ x.s.direct gS = true := by
  refine ⟨rfl, ready_of_okay (by decide), ⟨⟨by decide, by decide⟩, .inl rfl⟩, ?_, ?_, ?_, ?_, by decide, by decide, ?_, by decide, by decide⟩
  all_goals first | (unfold Iss.fits; decide) | (unfold Iss.entriesFree; decide)
theorem witness_StoresEnterTheOutbox : let x := xg wo [gX, gS]
    x.live ∧ (∀ p ∈ [((.st h0 511 2 1 .i64 .none 0 : Instr), h0), (.sts h0 1 1 .i64 .none 15, h0), (.stp h0 382 2 2 .none 15, h0)],
      x.ready (usesOf p.1) p.2) ∧ x.holds 2 gX ∧ gX.kind = .x ∧ x.fits h0 gX.len 8 0 1 ∧ x.fits h0 x.scr 8 15 1 ∧ x.fits h0 gX.len 16 15 2 ∧
    x.free (.grant 20) 8 ((x.active h0).map fun l => gX.ia + x.off 1 8 0 l) ∧ x.free (.sp x.g.uid) 8 ((x.active h0).map fun l => x.off 1 8 15 l) ∧
    x.free (.grant 20) 16 ((x.active h0).map fun l => gX.ia + x.off 2 16 15 l) := by
  refine ⟨rfl, ready_of_okay (by decide), ⟨⟨by decide, by decide⟩, rfl⟩, rfl, ?_, ?_, ?_, ?_, ?_, ?_⟩
  all_goals first | (unfold Iss.fits; decide) | (unfold Iss.free; decide)
/-- Through the scratchpad grant and through the scratchpad; through main memory every form traps. -/
theorem witness_FullEmptyWords : let x := xg wo [gX, gS]
    x.live ∧ Fe.fec ≠ .none ∧ Fe.fe ≠ .none ∧ x.active h0 ≠ [] ∧ (∀ p ∈ [((.lds h0 1 1 .n64 .fec 0 : Instr), h0), (.sts h0 1 1 .n64 .fe 0, h0),
      (.ld h0 1 16 1 .n64 .fec 0, h0), (.ldp h0 1 16 2 .fe 0, h0), (.st h0 1 16 1 .n64 .fe 0, h0), (.stp h0 1 16 2 .fe 0, h0),
      (.ld h0 1 2 1 .n64 .fec 0, h0)], x.ready (usesOf p.1) p.2) ∧ x.fits h0 x.scr 8 0 1 ∧ x.reads 16 gS ∧ x.holds 16 gS ∧ gS.kind = .x ∧
    x.s.direct gS = true ∧ x.s.direct gX = false ∧ x.reads 2 gX ∧ x.fits h0 gS.len 8 0 1 ∧ x.fits h0 gS.len 16 0 2 ∧ x.fits h0 gX.len 8 0 1 ∧
    x.free (.sp x.g.uid) 8 ((x.active h0).map fun l => x.off 1 8 0 l) ∧ x.free (.grant 21) 8 ((x.active h0).map fun l => gS.ia + x.off 1 8 0 l) := by
  refine ⟨rfl, by decide, by decide, by decide, ready_of_okay (by decide), ?_, ⟨⟨by decide, by decide⟩, .inl rfl⟩, ⟨⟨by decide, by decide⟩, rfl⟩, rfl,
    by decide, by decide, ⟨⟨by decide, by decide⟩, .inl rfl⟩, ?_, ?_, ?_, ?_, ?_⟩
  all_goals first | (unfold Iss.fits; decide) | (unfold Iss.free; decide)
/-- The granule at offset 240 of the scratchpad is full for one load, and not for the other; both through LDS. -/
theorem test_fullEmpty_load : let x := xg wo []
    (x.taking 0).allFull ((x.taking 0).granules (.sp 2) [(240, 8), (248, 8)]) = false ∧
    let y : Iss := { x with s := { x.s with full := (x.taking 0).granules (.sp 2) [(240, 8)] } }
    (y.taking 0).allFull ((y.taking 0).granules (.sp 2) [(240, 8), (248, 8)]) = true ∧
    let l := y.loadP 31 (.sp 2) 8 [(0, 240), (1, 248)] (.vec 0 .n64) false [] 0
    (∀ r ∈ l.lanes, (y.taking 0).laneReady y.w l r = true) ∧ (y.taking 0).badLanes? y.coreIx l none = none := by decide
theorem witness_AtomicAndRemoteWords : let x := xg wo [gX, gr 22 3 .a 0x2000 0x100]
    let y := xg wo [gA]
    x.live ∧ y.live ∧ (∀ p ∈ [((.atom h0 382 2 1 .cas .i64 : Instr), h0), (.atoms h0 1 1 .add .n64, h0), (.rst h0 2 1 2 1, h0), (.pref h0 2 1 .i8 15, h0),
      (.atom hn 1 2 1 .add .i64, hn), (.atoms hn 1 1 .add .i64, hn)], x.ready (usesOf p.1) p.2) ∧
    (∀ p ∈ [((.atom h0 1 2 1 .fadd64 .n64 : Instr), h0), (.ratom h0 1 2 1 .add .i64, h0), (.ratom hn 1 2 1 .add .i64, hn)], y.ready (usesOf p.1) p.2) ∧
    x.holds 2 gX ∧ y.holds 2 gA ∧ x.fits h0 gX.len 8 0 1 ∧ x.fits h0 x.scr 8 0 1 ∧ x.s.grant? 20 = some gX ∧ y.s.grant? 20 = some gA ∧ x.active h0 ≠ [] ∧
    x.active hn = [] ∧ x.stamped ∧ y.stamped ∧ x.entriesFree 2 ∧ x.free (.grant 20) 8 ((x.active h0).map fun l => gX.ia + x.off 1 8 0 l) ∧
    x.free (.sp 2) 8 ((x.active h0).map fun l => x.off 1 8 0 l) := by
  refine ⟨rfl, rfl, ready_of_okay (by decide), ready_of_okay (by decide), ⟨⟨by decide, by decide⟩, rfl⟩, ⟨⟨by decide, by decide⟩, rfl⟩, ?_, ?_, by decide,
    by decide, by decide, by decide, .inl rfl, .inl rfl, ?_, ?_, ?_⟩
  all_goals first | (unfold Iss.fits; decide) | (unfold Iss.free; decide) | (unfold Iss.entriesFree; decide)
/-- RST's descriptor names g3 and the last word that fits it: 3 + 256 × 31. -/
theorem witness_AtomicAndRemoteWords_rst : let w := { wo with sregs := [(1, 3 + 256 * 31)] }
    let gf := gr 22 3 .a 0x2000 0x100
    let x := xg w [gX, gf]
    x.live ∧ x.ready (usesOf (.rst h0 2 1 2 1)) h0 ∧ (x.sreg 1).toNat % 32 < 24 ∧ (x.sreg 1).toNat / 32 % 8 = 0 ∧ x.holds 2 gX ∧ gX.kind = .x ∧
    x.fits h0 gX.len 8 0 1 ∧ x.holds 3 gf ∧ gf.kind = .a ∧ 8 * ((x.sreg 1).toNat / 256) + 8 ≤ gf.len ∧ gf.home = gX.home ∧ x.entriesFree 2 := by
  refine ⟨rfl, ready_of_okay (l := [(.rst h0 2 1 2 1, h0)]) (by decide) _ (.head _), by decide, by decide, ⟨⟨by decide, by decide⟩, rfl⟩, rfl, ?_,
    ⟨⟨by decide, by decide⟩, rfl⟩, rfl, by decide, rfl, ?_⟩
  all_goals first | (unfold Iss.fits; decide) | (unfold Iss.entriesFree; decide)
/-- A grant of the group, its window the last that fits 4 KiB of scratchpad; a bound one for UNSTAGE. -/
theorem witness_StagingWords : let q := gr 23 16 .x 0x1000 0x100
    let x := xg (ws [0xF00]) [q]
    let y := xg (ws [0xF00]) [{ q with window := some 0xF00 }]
    x.live ∧ y.live ∧ x.holds 16 q ∧ y.holds 16 { q with window := some 0xF00 } ∧ (∀ p ∈ [((.stage h0 16 1 false : Instr), h0), (.stage h0 16 1 true, h0),
      (.unstage h0 16, h0)], x.ready (usesOf p.1) p.2) ∧ (∀ p ∈ [((.unstage h0 16 : Instr), h0)], y.ready (usesOf p.1) p.2) ∧ q.kind = .x ∧ q.window = none ∧
    (x.sreg 1).toNat % 256 = 0 ∧ (x.sreg 1).toNat + q.len ≤ x.scr ∧
    (x.s.bindings x.g.die (x.w.core / 4)).1 + (x.s.bindings x.g.die (x.w.core / 4)).2 < 64 ∧
    (x.s.heldWindows x.g.uid).any (fun p => meets p (0xF00, q.len)) = false ∧ (x.s.residueWindows x.g.uid).any (fun p => meets p (0xF00, q.len)) = false ∧
    x.s.busyGrant 23 = false ∧ x.core.engineQ.length < 64 ∧ x.coreIx < x.s.cores.length :=
  ⟨rfl, rfl, ⟨⟨by decide, by decide⟩, rfl⟩, ⟨⟨by decide, by decide⟩, rfl⟩, ready_of_okay (by decide), ready_of_okay (by decide), rfl, rfl, by and_intros <;> decide⟩
/-- The worked variations of chapter 8: lane 1 out of bounds, lane 1 misaligned; each state of the register. -/
theorem witness_AccessTraps : let x (g : Grant) (a b : Word) := xg { w0 with win := [(32, a), (33, b)] } [g]
    x0.live ∧ (∀ p ∈ [((.ld h0 1 2 1 .i64 .none 0 : Instr), h0), (.st h0 1 2 1 .i64 .none 0, h0)], x0.ready (usesOf p.1) p.2 ∧ (x gX 0 241).ready (usesOf p.1) p.2) ∧
    x0.s.regFaults.find? (fun f => f.1 == x0.regRef 2) = none ∧ x0.s.reg? (x0.regRef 2) = none ∧
    (x { gX with st := .lent } 0 0).names 2 { gX with st := .lent } ∧ (x { gX with st := .frozen } 0 0).names 2 { gX with st := .frozen } ∧
    (x { gX with st := .waiting } 0 0).names 2 { gX with st := .waiting } ∧ (x gA 0 0).holds 2 gA ∧ gA.kind ≠ .x ∧
    (x gX 0 249).live ∧ (x gX 0 249).reads 2 gX ∧ 1 ∈ (x gX 0 249).active h0 ∧ gX.len < (x gX 0 249).off 1 8 0 1 + 8 ∧
    (∀ m ∈ (x gX 0 249).active h0, m < 1 → (x gX 0 249).off 1 8 0 m + 8 ≤ gX.len) ∧
    (∀ m ∈ (x gX 0 241).active h0, (x gX 0 241).off 1 8 0 m + 8 ≤ gX.len) ∧ (x gX 0 241).off 1 8 0 1 % 8 ≠ 0 ∧
    (∀ m ∈ (x gX 0 241).active h0, m < 1 → (x gX 0 241).off 1 8 0 m % 8 = 0) := by
  refine ⟨rfl, fun p hp => ⟨ready_of_okay (l := [((.ld h0 1 2 1 .i64 .none 0 : Instr), h0), (.st h0 1 2 1 .i64 .none 0, h0)]) (by decide) p hp,
      ready_of_okay (l := [((.ld h0 1 2 1 .i64 .none 0 : Instr), h0), (.st h0 1 2 1 .i64 .none 0, h0)]) (by decide) p hp⟩,
    by decide, by decide, ⟨by decide, by decide⟩, ⟨by decide, by decide⟩, ⟨by decide, by decide⟩, ⟨⟨by decide, by decide⟩, rfl⟩, by decide, rfl,
    ⟨⟨by decide, by decide⟩, .inl rfl⟩, ?_⟩
  decide
/-- The worked variations of chapter 8: lane 31 at 0x1004 of 0x1000 bytes gives 0x1004_03E2, lane 3 at 193 gives 0xC1_0062; the
handler runs, and the word writes nothing. -/
def kt : Kernel := { k0 with trapent := 0x4000 }
/-- What a trapped word leaves in %tcause, %tinfo, %tpc and the lanes' program counter. -/
def trapOf (i : Instr) (s : State) : Option (BitVec 8 × Word × Word × List Word) := (ran i s).bind fun t => (t.wave? 3).map fun v =>
  (v.tcause, v.tinfo, v.tpc, v.parts.map (·.pc))
theorem test_ld_traps : let w (l : Nat) (a : Word) : Wave := { w0 with parts := [{ p1 with lanes := 1 <<< l }], win := [(32 + l, a)] }
    let x (l : Nat) (a : Word) : State := { st kt g0 (w l a) with grants := [{ gX with len := 0x1000 }] }
    trapOf (.ld h0 10 2 1 .n32 .none 2) (x 31 0xFFC) = some (BitVec.ofNat 8 REFUSED_BOUNDS, 0x100403E2, 0x100, [0x4000]) ∧
    trapOf (.ld h0 10 2 1 .n32 .none 2) (x 3 185) = some (BitVec.ofNat 8 MISALIGNED, 0xC10062, 0x100, [0x4000]) := by decide

/-- The wave issues in a changed state. -/
def xm (f : State → State) (w : Wave) : Iss := { xw w with s := f (st k0 g0 w) }
/-- The BRW of the hand-over, with an S grant. -/
def brw2 (try_ : Bool) (k : Kind) : Instr := .brw h4 2 4 5 try_ k
/-- s4 = address, s5 = length. -/
def wb (va len : Word) : Wave := { w0 with sregs := [(4, va), (5, len)] }
/-- The context's first range register. -/
def mapped (m : Map) (s : State) : State := { s with ctxs := [{ codeCtx with maps := [m] }] }

/-- Length 256 and 2^40 are the least and the greatest; the range register of die 0 and one of die 1. -/
theorem witness_BorrowWords : let x := xw (wb 0x100 0x100)
    let far := xm (mapped (mapOf 0xF (2 ^ 44) 1)) (wb 0x100 0x100)
    x.live ∧ far.live ∧ x.ready (usesOf (brw2 false .x)) h4 ∧ far.ready (usesOf (brw2 false .x)) h4 ∧ x.unfaulted 2 ∧ (0x100 : Nat) % 256 = 0 ∧
    (x.sreg 5).toNat = 0x100 ∧ x.s.reg? (x.regRef 2) = none ∧ x.s.brwReason x.c 0x100 0x100 .x = (0, 0x100) ∧
    far.s.brwReason far.c 0x100 0x100 .x = (0, 2 ^ 44 + 0x100) ∧ homeOf 0x100 = x.g.die ∧ homeOf (2 ^ 44 + 0x100) ≠ far.g.die :=
  ⟨rfl, rfl, ready_of_okay (l := [(brw2 false .x, h4)]) (by decide) _ (.head _), ready_of_okay (l := [(brw2 false .x, h4)]) (by decide) _ (.head _),
   by unfold Iss.unfaulted; decide, by and_intros <;> decide⟩
theorem witness_BorrowWords_traps : let d := iss { k0 with det := true } g0 w0
    let f : FaultRec := { code := GRANT_FAILED, info := 5, pc := 0 }
    let x := xm (fun s => { s with regFaults := [({ grp := false, owner := 3, code := 2 }, f)] }) w0
    let y (va len : Word) := xw (wb va len)
    let r := xg (wb 0x100 0x100) [{ gX with st := .returning }]
    let l := xg (wb 0x100 0x100) [gX]
    let ro := xm (mapped (mapOf 9 0 1)) (wb 0x100 0x100)
    d.live ∧ d.det = true ∧ d.ready (usesOf (brw2 true .s)) h4 ∧
    x.live ∧ x.det = false ∧ x.s.regFaults.find? (fun f => f.1 == x.regRef 2) = some (x.regRef 2, f) ∧ x.ready (usesOf (brw2 false .s)) h4 ∧
    (y 0x101 0x100).live ∧ ((y 0x101 0x100).sreg 4).toNat % 256 ≠ 0 ∧ (y 0x101 0x100).ready (usesOf (brw2 false .s)) h4 ∧
    ((y 0x100 0).sreg 5).toNat = 0 ∧ ((y 0x100 (2 ^ 40 + 256)).sreg 5).toNat > 2 ^ 40 ∧ ((y 0x100 (2 ^ 40)).sreg 5).toNat ≤ 2 ^ 40 ∧
    r.live ∧ r.s.reg? (r.regRef 2) = some { gX with st := .returning } ∧ l.live ∧ l.s.reg? (l.regRef 2) = some gX ∧
    (y 0x4000 0x100).c.map? 0x4000 0x100 = none ∧ ro.live ∧ (∃ m, ro.c.map? 0x100 0x100 = some m ∧ (!(m.w0.getLsbD 0 && (Kind.x == .s || m.w0.getLsbD 1))) = true) :=
  ⟨rfl, rfl, ready_of_okay (l := [(brw2 true .s, h4)]) (by decide) _ (.head _), rfl, rfl, by decide,
   ready_of_okay (l := [(brw2 false .s, h4)]) (by decide) _ (.head _), rfl, by decide, ready_of_okay (l := [(brw2 false .s, h4)]) (by decide) _ (.head _),
   by decide, by decide, by decide, rfl, by decide, rfl, by decide, by decide, rfl, mapOf 9 0 1, by decide, by decide⟩
/-- The request reaches its home, and g2 is WAITING. -/
theorem test_brw : (ran (brw2 false .x) (xw (wb 0x100 0x100)).s).map (fun t => ((t.die 0).incoming.map fun q => (q.ia, q.len), t.grants.map fun g => (g.reg.code, g.st))) =
    some ([(0x100, 0x100)], [(2, .waiting)]) := by decide

/-- s6 = offset, s7 = length of a child. -/
def wc (off_ len : Word) : Wave := { w0 with sregs := [(6, off_), (7, len)] }
theorem witness_ChildWords : let q := gr 20 2 .x 0x1000 0x400
    let x (o l : Word) := xg (wc o l) [q]
    let y := xg (wc 0 0x100) [q, gr 24 9 .s 0x8000 0x100]
    let z := xg (wc 0 0x100) [{ q with st := .frozen }]
    let a := xg (wc 0 0x100) [{ q with kind := .a }]
    (x 0x300 0x100).live ∧ (x 0x300 0x100).names 2 q ∧ (x 0x300 0x100).unfaulted 9 ∧ q.st = .held ∧ q.kind = .x ∧
    (∀ p ∈ [((.rbrw h0 9 2 6 .x : Instr), h0), (.rbrw h0 9 2 6 .s, h0), (.split h0 9 2 true 4, h0), (.split h0 9 2 false 1, h0), (.split h0 9 2 true 3, h0)],
      (x 0x300 0x100).ready (usesOf p.1) p.2) ∧
    a.live ∧ a.names 2 { q with kind := .a } ∧ z.live ∧ z.names 2 { q with st := .frozen } ∧
    ((x 0x301 0x100).sreg 6).toNat % 256 ≠ 0 ∧ ((x 0 0).sreg 7).toNat = 0 ∧ ((x 0 0x180).sreg 7).toNat % 256 ≠ 0 ∧
    q.len < ((x 0x400 0x100).sreg 6).toNat + ((x 0x400 0x100).sreg 7).toNat ∧ ((x 0x300 0x100).sreg 6).toNat + ((x 0x300 0x100).sreg 7).toNat ≤ q.len ∧
    y.live ∧ y.s.reg? (y.regRef 9) = some (gr 24 9 .s 0x8000 0x100) ∧ (x 0x300 0x100).s.reg? ((x 0x300 0x100).regRef 9) = none ∧
    q.len % (256 * 3) ≠ 0 ∧ q.len % (256 * 4) = 0 ∧ (∀ j < 4, (x 0 0).vacant ((x 0 0).regRef (9 + j))) ∧
    (∃ w, (x 0 0).s.waveAt? (x 0 0).g.uid 0 = some w ∧ w.uid = 3) := by
  refine ⟨rfl, ⟨by decide, by decide⟩, by unfold Iss.unfaulted; decide, rfl, rfl, ready_of_okay (by decide), rfl, ⟨by decide, by decide⟩, rfl, ⟨by decide, by decide⟩,
    by decide, by decide, by decide, by decide, by decide, rfl, by decide, by decide, by decide, by decide, ?_, ⟨_, rfl, rfl⟩⟩
  unfold Iss.vacant; decide
/-- SPLIT.w where the group has no wave 0 left. -/
theorem witness_ChildWords_absent : let q := gr 20 2 .x 0x1000 0x400
    let x := xg { w0 with index := 1 } [q]
    x.live ∧ x.names 2 q ∧ x.ready (usesOf (.split h0 9 2 false 4)) h0 ∧ q.len % (256 * 4) = 0 ∧ x.s.waveAt? x.g.uid 0 = none :=
  ⟨rfl, ⟨by decide, by decide⟩, ready_of_okay (l := [(.split h0 9 2 false 4, h0)]) (by decide) _ (.head _), by decide, by decide⟩
/-- Four children of 256 bytes, the parent LENT. -/
theorem test_split : (ran (.split h0 9 2 true 4) (xg w0 [gr 20 2 .x 0x1000 0x400]).s).map (fun t => t.grants.map fun g => (g.reg.code, g.st, g.ia, g.len, g.children)) =
    some [(2, .lent, 0x1000, 0x400, 4), (9, .waiting, 0x1000, 0x100, 0), (10, .waiting, 0x1100, 0x100, 0), (11, .waiting, 0x1200, 0x100, 0),
      (12, .waiting, 0x1300, 0x100, 0)] := by decide
theorem test_rbrw : (ran (.rbrw h0 9 2 6 .s) (xg (wc 0x300 0x100) [gr 20 2 .x 0x1000 0x400]).s).map (fun t => t.grants.map fun g => (g.reg.code, g.st, g.ia, g.len, g.children)) =
    some [(2, .frozen, 0x1000, 0x400, 1), (9, .waiting, 0x1300, 0x100, 0)] := by decide

/-- g2 in each state; a fault held; no grant; the next tag swept and not; a wave to move to and none. -/
theorem witness_JoinReturnMove : let x (st : GrantSt) (n : Nat) := xg (ws [0]) [{ gX with st := st, children := n }]
    let f : FaultRec := { code := GRANT_FAILED, info := 5, pc := 0 }
    let y := xm (fun s => { s with regFaults := [({ grp := false, owner := 3, code := 2 }, f)] }) w0
    let z := xm (fun s => { s with grants := [{ gX with st := .lent }], dies := [{ s.die 0 with sweeping := [(0, 0)] }] }) w0
    let v := xg (ws [1]) [gX]
    (∀ s ∈ [GrantSt.waiting, .held, .lent, .frozen, .returning], (x s 0).names 2 { gX with st := s }) ∧
    (x .held 0).live ∧ (x .lent 0).live ∧ (x .lent 1).live ∧ (x .lent 1).names 2 { gX with st := .lent, children := 1 } ∧
    (∀ p ∈ [((.join h0 2 : Instr), h0), (.rtn h0 2, h0), (.rgmv h0 15 2 1, h0), (.rgmv h0 16 2 0, h0)], (x .held 0).ready (usesOf p.1) p.2) ∧
    y.live ∧ y.s.regFaults.find? (fun f => f.1 == y.regRef 2) = some (y.regRef 2, f) ∧ x0.vacant (x0.regRef 2) ∧
    ((0, 0) ∉ ((x .lent 0).s.die 0).sweeping) ∧ (x .lent 0).s.holderAt ((x .lent 0).regRef 2) = (0, 0) ∧ z.live ∧ ((0, 0) ∈ (z.s.die 0).sweeping) ∧
    (x .held 0).s.grant? 20 = some gX ∧ v.live ∧ v.s.waveAt? v.g.uid 1 = none ∧
    (∃ w, (x .held 0).s.waveAt? (x .held 0).g.uid 0 = some w ∧ w.uid = 3) ∧ (x .held 0).vacant ((x .held 0).regRef 15) ∧ (x .held 0).vacant ((x .held 0).regRef 16) := by
  refine ⟨?_, rfl, rfl, rfl, ⟨by decide, by decide⟩, ready_of_okay (by decide), rfl, by decide, ?_, by decide, by decide, rfl, by decide, by decide, rfl, by decide,
    ⟨_, rfl, rfl⟩, ?_, ?_⟩
  · unfold Iss.names; decide
  all_goals unfold Iss.vacant; decide
/-- JOIN makes a LENT register without children HELD with tag 0, and the next tag is 1. -/
theorem test_join_rtn_rgmv : (ran (.join h0 2) (xg w0 [{ gX with st := .lent }]).s).map (fun t => (t.grants.map fun g => (g.st, g.tag), (t.die 0).tags)) = some ([(.held, 0)], [1, 0, 0, 0]) ∧
    (ran (.rtn h0 2) (xg w0 [gX]).s).map (fun t => t.grants.map (·.st)) = some [.returning] ∧
    (ran (.rgmv h0 16 2 0) (xg w0 [gX]).s).map (fun t => t.grants.map fun g => (g.reg.grp, g.reg.code, g.st)) = some [(true, 16, .waiting)] := by decide

/-- An EMPTY register, a root grant of a bound die, of an endpoint, and a child. -/
theorem witness_RegionReports : let c := { gX with parent := some (9, 0, 4) }
    let e := gr 20 2 .x (8 * 2 ^ 48) 0x100
    x0.live ∧ (253 : SReg) ≠ 0 ∧ x0.ready (usesOf (.rgq h0 253 2)) h0 ∧ x0.s.reg? (x0.regRef 2) = none ∧
    (xg w0 [gX]).s.reg? ((xg w0 [gX]).regRef 2) = some gX ∧ gX.home < 8 ∧ virtDie? (xg w0 [gX]).c.vdies gX.home = some 0 ∧ gX.parent = none ∧
    (xg w0 [c]).s.reg? ((xg w0 [c]).regRef 2) = some c ∧ c.parent = some (9, 0, 4) ∧ (4 : Nat) < 32 ∧ 8 ≤ e.home ∧
    (xg w0 [e]).s.reg? ((xg w0 [e]).regRef 2) = some e ∧ (∃ d, d < 8 ∧ virtDie? (xg w0 [gX]).c.vdies d = none) :=
  ⟨rfl, by decide, ready_of_okay (l := [(.rgq h0 253 2, h0)]) (by decide) _ (.head _), by decide, by decide, by decide, by decide, by decide, by decide, rfl, by decide,
   by decide, by decide, 7, by decide, by decide⟩
theorem test_rgq : (after (.rgq h0 10 2) w0).map (fun v => (v.sget 10, v.sget 11, v.sget 12)) = some (0, 0, 0xF0000007F0) ∧
    (after (.rgq h0 10 16) w0).map (·.sget 12) = some 0xF0000007F8 := by decide

theorem witness_OrderingWords : let d (n : Nat) (p : Bool) := iss { k0 with det := true, stamp := some ⟨0, n, none, false, false⟩ } g0 { w0 with passed := p }
    x0.live ∧ x0.det = false ∧ (∀ p ∈ [((.fence h0 .sys : Instr), h0), (.cwait h0 255, h0), (.cseal h0 255, h0), (.stmpw h0, h0), (.stmpp h0, h0)], x0.ready (usesOf p.1) p.2) ∧
    (255 : SReg) ≠ 0 ∧ (d 0 false).live ∧ (d 0 false).det = true ∧ (d 0 false).stampHere ∧ (d 1 false).live ∧ ¬ (d 1 false).stampHere ∧ (d 1 true).live ∧
    ¬ (d 1 true).stampHere ∧ (d 1 true).w.passed = true ∧ (d 1 false).w.passed = false ∧
    (∀ p ∈ [((.stmpw h0 : Instr), h0), (.stmpp h0, h0)], (d 0 false).ready (usesOf p.1) p.2 ∧ (d 1 false).ready (usesOf p.1) p.2 ∧ (d 1 true).ready (usesOf p.1) p.2) := by
  refine ⟨rfl, rfl, ready_of_okay (by decide), by decide, rfl, rfl, ⟨_, rfl, rfl, rfl, rfl, rfl, rfl⟩, rfl, ?_, rfl, ?_, rfl, rfl, fun p hp => ⟨ready_of_okay (l := [((.stmpw h0 : Instr), h0), (.stmpp h0, h0)]) (by decide) p hp,
    ready_of_okay (l := [((.stmpw h0 : Instr), h0), (.stmpp h0, h0)]) (by decide) p hp, ready_of_okay (l := [((.stmpw h0 : Instr), h0), (.stmpp h0, h0)]) (by decide) p hp⟩⟩
  all_goals
    rintro ⟨s, hs, -, -, -, -, hw⟩
    cases hs
    exact absurd hw (by decide)
theorem test_fence_cwait_cseal : (after (.fence h0 .dev) w0).map (·.hold) = some (.fence .dev 10) ∧ (after (.cwait h0 1) { ws [7] with batch := 3 }).map (·.hold) = some (.cwait 3) ∧
    (after (.cseal h0 10) { w0 with batch := 3 }).map (fun v => (v.batch, v.sget 10)) = some (4, 4) := by decide

/-- The wave issues in a changed group. -/
def xgr (f : Group → Group) (w : Wave) : Iss := iss k0 (f g0) w
/-- A window with all views: v0 at 0, t0 and h0 at unit 256, a0 and k0 at unit 320. -/
def kv : Kernel := { k0 with views := BitVec.ofNat 64 (256 * 2 ^ 9 + 320 * 2 ^ 18 + 256 * 2 ^ 27 + 320 * 2 ^ 36) }
/-- An ARMED barrier b5 with COUNT 2 and PENDING 0. -/
def b5 : Bar := { name := 5, st := 1, phase := false, pending := 0, arrived := 0, count := 2, reload := 0, acted := false }
/-- The group with that barrier in the state given. -/
def xb (b : Bar) (w : Wave) : Iss := xgr (fun g => { g with bars := [b] }) w
/-- The barrier words on b5. -/
def barWords : List (Instr × Hd) := [(.binit h0 1 5, h0), (.barr h0 10 true 5, h0), (.barr h0 10 false 5, h0), (.bexp h0 1 5, h0), (.bwait h0 0 5, h0),
  (.bwait h0 1 5, h0), (.btest h4 10 1 5, h4)]

/-- IDLE, ARMED untouched, ARMED with an arrival, full, COMPLETE; PENDING at its greatest; an older outbox entry; 2,048
barriers of the cluster in use. -/
theorem witness_BarrierWords : let y := xw (ws [2])
    let one := xb { b5 with arrived := 1 } (ws [1])
    let full := xb { b5 with arrived := 2 } (ws [0xFFFFFF])
    let com := xb { b5 with st := 2, phase := true } { ws [0xFFFFFF] with outbox := [⟨1, 0, 2, .grant 20, .flag 0 20⟩] }
    let big := iss k0 { g0 with bars := List.replicate 2048 { b5 with name := 6 } } (ws [2])
    y.live ∧ one.live ∧ full.live ∧ com.live ∧ big.live ∧ (∀ p ∈ barWords, y.ready (usesOf p.1) p.2 ∧ one.ready (usesOf p.1) p.2 ∧ full.ready (usesOf p.1) p.2 ∧ com.ready (usesOf p.1) p.2) ∧
    y.g.bar? 5 = none ∧ one.g.bar? 5 = some { b5 with arrived := 1 } ∧ ¬ ({ b5 with arrived := 1 } : Bar).untouched ∧ b5.untouched ∧
    (xb b5 (ws [2])).g.bar? 5 = some b5 ∧ fld (y.sreg 1) 0 16 ≠ 0 ∧ fld (x0.sreg 1) 0 16 = 0 ∧ y.s.physBars y.g < 2048 ∧ big.g.bar? 5 = none ∧
    2048 ≤ big.s.physBars big.g ∧ full.g.bar? 5 = some { b5 with arrived := 2 } ∧ com.g.bar? 5 = some { b5 with st := 2, phase := true } ∧
    one.w.outbox = [] ∧ com.w.outbox ≠ [] ∧ 16777215 < 1 + (full.sreg 1).toNat ∧ 0 + (com.sreg 1).toNat ≤ 16777215 ∧
    (true ≠ (y.sreg 1).getLsbD 0) ∧ (true = (one.sreg 1).getLsbD 0) ∧ (1 : SReg) ≠ 0 :=
  ⟨rfl, rfl, rfl, rfl, rfl, fun p hp => ⟨ready_of_okay (l := barWords) (by decide) p hp, ready_of_okay (l := barWords) (by decide) p hp,
    ready_of_okay (l := barWords) (by decide) p hp, ready_of_okay (l := barWords) (by decide) p hp⟩, by decide, by decide, by unfold Bar.untouched; decide,
    by unfold Bar.untouched; decide, by decide, by decide, by decide, by decide, by decide +kernel, by decide +kernel, by and_intros <;> decide⟩
/-- An event has acted on the barrier or not; the phase completes or does not; a waiting wave of the group. -/
theorem witness_BarrierWords_completion : let b : Bar := { b5 with arrived := 2, acted := true }
    let s (b : Bar) := (xb b { w0 with hold := .barrier 5 true none }).s
    (s b).group? 2 = some { g0 with bars := [b] } ∧ ({ g0 with bars := [b] } : Group).bar? 5 = some b ∧ b.acted = true ∧ b.st = 1 ∧ b.arrived = b.count ∧ b.pending = 0 ∧
    b5.acted = false ∧ ({ b5 with acted := true } : Bar).arrived ≠ b5.count ∧
    (∃ w, (s b).waves[0]? = some w ∧ w.group = 2 ∧ w.hold = .barrier 5 true none ∧ ∀ p ∈ w.arrives, p.1 ≠ 5) :=
  ⟨by decide, by decide, rfl, rfl, rfl, rfl, rfl, by decide, _, rfl, rfl, rfl, by decide⟩
/-- The worked phase: BINIT arms b5 with COUNT 2, a wave arrives. -/
theorem test_binit_barr : (ran (.binit h0 1 5) (xw (ws [2])).s).map (fun t => t.groups.flatMap (·.bars)) = some [{ b5 with acted := true }] ∧
    (ran (.barr h0 10 false 5) (xb b5 w0).s).map (fun t => (t.groups.flatMap (·.bars)).map fun b => b.arrived) = some [1] := by decide
theorem test_bexp_bwait_btest : (ran (.bexp h0 1 5) (xb b5 (ws [256])).s).map (fun t => (t.groups.flatMap (·.bars)).map (·.pending)) = some [256] ∧
    (ran (.bwait h0 1 5) (xb b5 (ws [0])).s).map (fun t => (t.wave? 3).map (·.hold)) = some (some (.barrier 5 false none)) ∧
    (ran (.btest h4 10 1 5) (xb { b5 with arrived := 1 } (ws [0])).s).map (fun t => (t.wave? 3).map fun v => (v.sget 10, v.sf)) =
      some (some (0x0200000000010002, 0)) := by decide

/-- Channel 0 at offset 0x100: 4 entries of 16 bytes, one entry written. -/
def ch0 : Chan := { ch := 0, base := 0x100, esz := 0, cap := 4, p := 1, q := 0, v := 0, claims := 0, written := [], read := [] }
def xc (c : Chan) (w : Wave) : Iss := xgr (fun g => { g with chans := [c] }) w
/-- A CHINIT word of 4 entries of 16 bytes at 0x100. -/
def ci : Word := BitVec.ofNat 64 (0x100 + 4 * 2 ^ 24)
/-- A bad shape, a range that does not fit, a busy channel, a free one, 16 channels in use; a mask of channels 0 and 1. -/
theorem witness_ChannelWords : let y (v : Word) := xw (ws [v])
    let e : Chan := { ch0 with p := 0 }
    let full := iss k0 { g0 with chans := List.replicate 16 { ch0 with ch := 3 } } (ws [ci])
    (y ci).live ∧ (xc ch0 (ws [ci])).live ∧ (xc ch0 (ws [1])).live ∧ (xc ch0 (ws [3])).live ∧ (xc e (ws [ci])).live ∧ full.live ∧
    (∀ p ∈ [((.chinit h0 0 1 : Instr), h0), (.chpush h0 383 1, h0), (.chpop h0 383 0, h0), (.chstat h0 10 15, h0)], (xc ch0 (ws [1])).ready (usesOf p.1) p.2) ∧
    fld ((y 0).sreg 1) 24 16 = 0 ∧ (fld ci 40 24 = 0 ∧ ci.getLsbD 23 = false ∧ fld ci 20 3 ≤ 4 ∧ fld ci 24 16 ≠ 0) ∧
    (fld ci 0 20 % 16 = 0 ∧ fld ci 0 20 + fld ci 24 16 * (16 * 2 ^ fld ci 20 3) ≤ x0.scr) ∧ x0.scr < 0xFF0 + 4 * 16 ∧
    (xc ch0 (ws [ci])).g.chan? 0 = some ch0 ∧ (xc ch0 (ws [ci])).chanBusy ch0 ∧ (y ci).g.chan? 0 = none ∧ (y ci).s.physChans (y ci).g < 16 ∧
    full.g.chan? 0 = none ∧ 16 ≤ full.s.physChans full.g ∧
    ((xc ch0 (ws [3])).sreg 1).getLsbD 1 = true ∧ (xc ch0 (ws [3])).g.chan? 1 = none ∧ (∀ n < 16, (x0.sreg 1).getLsbD n = false) ∧
    (∀ n < 16, ((xc ch0 (ws [1])).sreg 1).getLsbD n = true → (xc ch0 (ws [1])).g.chan? n ≠ none) ∧ ((xc ch0 (ws [1])).sreg 1).getLsbD 0 = true ∧
    e.fill ≤ e.claims ∧ ch0.claims < ch0.fill :=
  ⟨rfl, rfl, rfl, rfl, rfl, rfl, ready_of_okay (by decide), by decide, by decide, by decide, by decide, by decide, .inl (by decide), by and_intros <;> decide⟩
theorem test_channels : (ran (.chinit h0 0 1) (xw (ws [ci])).s).map (fun t => t.groups.flatMap (·.chans)) = some [{ ch0 with p := 0 }] ∧
    (ran (.chstat h0 10 0) (xc ch0 w0).s).map (fun t => (t.wave? 3).map fun v => v.sget 10) = some (some 0x8000040001000000) := by decide
/-- CHPUSH offers 16 bytes of v1 to channel 0; CHPOP claims the entry. -/
theorem test_chpush_chpop : (ran (.chpush h0 1 1) (xc ch0 { wv 0x1122 0 0 with sregs := [(1, 1)] }).s).map (fun t => (t.wave? 3).map fun v => v.outbox.map fun e => match e.kind with
      | .chan n bs => (n, bs.length, bs.head?)
      | _ => (9, 0, none)) = some (some [(0, 16, some 0x22)]) ∧
    (ran (.chpop h0 0 0) (xc ch0 w0).s).map (fun t => (t.groups.flatMap (·.chans)).map (·.claims)) = some [1] := by decide

/-- s1, s2 … of a copy word, and its control word in s9. -/
def wcopy (l : List Word) (ctl : Word) : Wave := { w0 with sregs := ((List.range l.length).map fun i => (i + 1, l.getD i 0)) ++ [(9, ctl)] }
/-- A queue of 64 operations. -/
def fullQ (x : Iss) : Iss := { x with s := x.s.setCore 0 { x.core with engineQ := List.range 64 } }
/-- From a region into the scratchpad and back, with and without a flag and a barrier, of 0 bytes, with the queue full. -/
theorem witness_CopyWords : let gf := gr 22 3 .a 0x2000 0x100
    let ctl : Word := 2 ^ 17 + 3 * 2 ^ 12 + 31 * 2 ^ 24
    let x := xg (wcopy [0xF00, 0, 0x100] 0x800) [gX, gf]
    let y := xg (wcopy [0, 0xF00, 0x100] ctl) [gX, gf]
    x.live ∧ y.live ∧ (fullQ x).live ∧ x.ready (usesOf (.copy h0 .sp (.region 2) 1 9)) h0 ∧ y.ready (usesOf (.copy h0 (.region 2) .sp 1 9)) h0 ∧
    fld (x.sreg 3) 32 32 = 0 ∧ ctlOk (x.sreg 9) ∧ ctlBar (x.sreg 9) = some 0 ∧ 0x100 ≤ pendingMax ∧ x.side .sp true (some (0xF00, 0x100)) 0x100 .sp ∧
    x.side (.region 2) false (some (0, 0x100)) 0x100 (.grant 20) ∧ x.flagOf (x.sreg 9) .sp none ∧ x.core.engineQ.length < 64 ∧ 64 ≤ (fullQ x).core.engineQ.length ∧
    ctlOk ctl ∧ y.side (.region 2) true (some (0, 0x100)) 0x100 (.grant 20) ∧ y.side .sp false (some (0xF00, 0x100)) 0x100 .sp ∧
    y.flagOf ctl (.grant 20) (some (22, 0x20F8)) ∧ ctlBar ctl = none := by
  refine ⟨rfl, rfl, rfl, ready_of_okay (l := [(.copy h0 .sp (.region 2) 1 9, h0)]) (by decide) _ (.head _),
    ready_of_okay (l := [(.copy h0 (.region 2) .sp 1 9, h0)]) (by decide) _ (.head _), by decide, by unfold ctlOk; decide, by decide, by decide,
    ⟨fun p hp => by cases hp; exact .inr (by decide), rfl⟩, ⟨gX, ⟨⟨by decide, by decide⟩, .inl rfl⟩, fun p hp => by cases hp; exact .inr (by decide), rfl⟩,
    ⟨by decide, rfl⟩, by decide, by decide, by unfold ctlOk; decide, ⟨gX, ⟨⟨⟨by decide, by decide⟩, rfl⟩, rfl⟩, fun p hp => by cases hp; exact .inr (by decide), rfl⟩,
    ⟨fun p hp => by cases hp; exact .inr (by decide), rfl⟩, ⟨gX, by decide, ?_⟩, by decide⟩
  rw [if_pos (by decide)]
  exact ⟨gr 22 3 .a 0x2000 0x100, ⟨⟨by decide, by decide⟩, rfl⟩, rfl, by decide, rfl, by decide⟩
/-- COPY2 of 2 × 3 × 2 elements, GATH and SCAT of 2 elements of 16 bytes; malformed control words and descriptors; one channel on
both sides; ROUTE's ranges. -/
theorem witness_CopyWords_others : let c2 := xg (wcopy [0, 0, 2 + 3 * 2 ^ 24 + 2 * 2 ^ 40, 16 + 64 * 2 ^ 32, 16 + 64 * 2 ^ 32] 0) [gX]
    let ga := xg (wcopy [0, 4, 2 + 0x40 * 2 ^ 32] 0) [gX]
    let bad := xg (wcopy [0, 9, 2 ^ 32] (2 ^ 18)) [gX]
    let ok := xg (wcopy [0, 9, 2 ^ 32] 0) [gX]
    let cc := xc ch0 (wcopy [0, 0, 16] 0)
    let rt := xw { w0 with sregs := [(1, 0), (2, 0x100), (3, 0x200), (5, 4 + 2 * 2 ^ 16 + 3 * 2 ^ 20 + 1 * 2 ^ 32)] }
    c2.live ∧ ga.live ∧ bad.live ∧ ok.live ∧ cc.live ∧ rt.live ∧ (∀ p ∈ [((.copy2 h0 .sp (.region 2) 1 9 : Instr), h0)], c2.ready (usesOf p.1) p.2) ∧
    (∀ p ∈ [((.gath h0 .sp (.region 2) 1 9 : Instr), h0), (.scat h0 .sp (.region 2) 1 9, h0)], ga.ready (usesOf p.1) p.2) ∧
    (∀ p ∈ [((.copy h0 .sp (.region 2) 1 9 : Instr), h0), (.copy2 h0 .sp (.region 2) 1 9, h0), (.gath h0 .sp (.region 2) 1 9, h0), (.scat h0 .sp (.region 2) 1 9, h0)],
      bad.ready (usesOf p.1) p.2 ∧ ok.ready (usesOf p.1) p.2) ∧ (∀ p ∈ [((.copy h0 (.chan 0) (.chan 0) 1 9 : Instr), h0)], cc.ready (usesOf p.1) p.2) ∧
    (∀ p ∈ [((.route h0 10 1 5 9 : Instr), h0)], rt.ready (usesOf p.1) p.2) ∧
    fld (c2.sreg 3) 56 8 = 0 ∧ fld (c2.sreg 3) 0 24 = 2 ∧ fld (c2.sreg 3) 24 16 = 3 ∧ fld (c2.sreg 3) 40 16 = 2 ∧
    c2.side .sp true (some (0, (2 - 1) * 64 + (3 - 1) * 16 + 2)) 12 .sp ∧ fld (ga.sreg 2) 0 4 ≤ 8 ∧ fld (ga.sreg 3) 32 32 % 4 = 0 ∧
    ga.side .sp true (some (0, 32)) 32 .sp ∧ ga.side (.region 2) false none 32 (.grant 20) ∧ ¬ ctlOk (bad.sreg 9) ∧ ctlOk (ok.sreg 9) ∧ fld (ok.sreg 3) 32 32 ≠ 0 ∧
    8 < fld (ok.sreg 2) 0 4 ∧ cc.side (.chan 0) true (some (0, 16)) 16 (.chan 0) ∧ fld (cc.sreg 3) 32 32 = 0 ∧ ctlOk (cc.sreg 9) ∧
    (let v := rt.sreg 5; fld v 48 16 = 0 ∧ fld v 0 16 = 4 ∧ fld v 16 4 = 2 ∧ fld v 20 12 = 3 ∧ fld v 32 16 = 1) ∧ (rt.sreg 2).toNat + 4 * 3 * 2 ≤ rt.scr ∧
    (rt.sreg 9).getLsbD 17 = false := by
  refine ⟨rfl, rfl, rfl, rfl, rfl, rfl, ready_of_okay (by decide), ready_of_okay (by decide), fun p hp => ⟨ready_of_okay (l := [((.copy h0 .sp (.region 2) 1 9 : Instr), h0), (.copy2 h0 .sp (.region 2) 1 9, h0), (.gath h0 .sp (.region 2) 1 9, h0), (.scat h0 .sp (.region 2) 1 9, h0)]) (by decide) p hp,
      ready_of_okay (l := [((.copy h0 .sp (.region 2) 1 9 : Instr), h0), (.copy2 h0 .sp (.region 2) 1 9, h0), (.gath h0 .sp (.region 2) 1 9, h0), (.scat h0 .sp (.region 2) 1 9, h0)]) (by decide) p hp⟩,
    ready_of_okay (by decide), ready_of_okay (by decide), by decide, by decide, by decide, by decide, ⟨fun p hp => by cases hp; exact .inr (by decide), rfl⟩, by decide, by decide,
    ⟨fun p hp => by cases hp; exact .inr (by decide), rfl⟩, ⟨gX, ⟨⟨by decide, by decide⟩, .inl rfl⟩, fun p hp => by (cases hp), rfl⟩, by unfold ctlOk; decide, by unfold ctlOk; decide,
    by decide, by decide, ⟨by decide, ⟨ch0, by decide, by decide, by decide⟩, rfl⟩, by decide, by unfold ctlOk; decide, by decide, by decide, by decide⟩
/-- The state in which a copy of 256 bytes from g2 to the scratchpad has issued. -/
def copied : Option State := ran (.copy h0 .sp (.region 2) 1 9) (xg (wcopy [0xF00, 0, 0x100] 0x805) [gX]).s
theorem test_copy : copied.map (fun t => t.ops.map fun o => (o.dst, o.src)) = some [(.sp, .grant 20)] ∧ copied.map (fun t => t.ops.map fun o => (o.len, o.acc)) = some [(0x100, some 5)] ∧
    copied.map (fun t => (t.core 0).engineQ) = some [10] := by decide

/-- One element of one channel, kernel 1 × 1. -/
def lace1 : Lace := { core := 0, n := 1, w0 := 0, w1 := 0x100010001, w2 := 0x11001111 }
/-- 256 bytes for .i8. -/
def res2 : Res := { core := 0, n := 2, base := 0, len := 256, fmt := .i8, la := 0, lb := 0, expo := 0, live := true, uid := 8 }
def cv3 (n : Nat) : Cv := { core := 0, n := 3, signers := n, signed := [], afield := 0, cfield := 0, word := 0 }
/-- The wave issues with all views, matrix records of its group, and a matrix queue. -/
def xmx (n : Nat) (q : List MatEnt) (w : Wave) : Iss :=
  let g : Group := { g0 with cvs := [cv3 n], laces := [lace1], ress := [res2] }
  let x := iss kv g w
  { x with s := x.s.setCore 0 { x.s.core 0 with matQ := q } }
/-- A matrix entry of another wave. -/
def ment : MatEnt := { id := 5, wave := 9, group := 2, seq := 1, pc := 0, entered := 0, started := none, kind := .obld none [] 0 0 8 }

/-- Nothing stops a word that uses these registers. -/
def okayU (x : Iss) (us : List Use) (h : Hd) : Bool :=
  x.frame.bad us == [] && x.guard h && (worstEarly x.frame x.clk x.w.early us).1 == 0
/-- Signer counts 8 and 3; a name in use; a good and a bad descriptor; reservations that are misaligned, empty, good; OBLD from the
scratchpad, from tiles, beyond the reservation, without one, into a full queue. -/
theorem witness_MatrixState : let y (l : List Word) := iss kv g0 (ws l)
    let used : Iss := iss kv { g0 with cvs := [{ cv3 1 with signed := [⟨3, 0, 0, [], 0, 0, false, 1⟩] }] } (ws [8])
    let o (l : List Word) := xmx 1 [] (ws l)
    let full := xmx 1 (List.replicate 16 ment) (ws [0, 256 * 2 ^ 20])
    (y [8]).live ∧ used.live ∧ (o [0, 256 * 2 ^ 20]).live ∧ full.live ∧ (∀ p ∈ [((.cvinit h0 3 1 : Instr), h0), (.lace h0 3 253, h0), (.obres h0 7 1 2, h0), (.obld h0 2 1 2, h0), (.obrel h0 2, h0), (.mwait h0, h0)],
      (y [8]).ready (usesOf p.1) p.2 ∧ used.ready (usesOf p.1) p.2 ∧ (o [0, 256 * 2 ^ 20]).ready (usesOf p.1) p.2 ∧ full.ready (usesOf p.1) p.2) ∧
    ((y [8]).sreg 1).toNat = 8 ∧ ((y [3]).sreg 1).toNat = 3 ∧ used.g.cv? 0 3 = some { cv3 1 with signed := [⟨3, 0, 0, [], 0, 0, false, 1⟩] } ∧
    (y [8]).g.cv? 0 3 = none ∧ (y [8]).s.onCore 0 0 (fun g => g.cvs.map (·.core)) < 16 ∧
    (Lace.mk 0 3 ((y [0, 0x100010001, 0x11001111]).sreg 1) ((y [0, 0x100010001, 0x11001111]).sreg 2) ((y [0, 0x100010001, 0x11001111]).sreg 3)).ok = true ∧
    (Lace.mk 0 3 0 0 0).ok = false ∧ (y [8]).s.onCore 0 0 (fun g => g.laces.map (·.core)) < 16 ∧
    fld ((y [128]).sreg 1) 0 20 % 256 ≠ 0 ∧ fld ((y [0]).sreg 1) 20 20 = 0 ∧ fld ((y [128 * 2 ^ 20]).sreg 1) 20 20 % 256 ≠ 0 ∧
    (let z := y [0x7FF00 + 256 * 2 ^ 20, 2]; fld (z.sreg 1) 0 20 + fld (z.sreg 1) 20 20 = 524288 ∧ fld (z.sreg 1) 40 24 = 0 ∧
      [MFmt.x8, .x4, .i8, .f16, .bf16, .f32][fld (z.sreg 2) 0 3]? = some .i8 ∧ fld (z.sreg 2) 27 37 = 0 ∧ (z.sreg 2).getLsbD 7 = false ∧
      fld (z.sreg 2) 3 4 = 0 ∧ fld (z.sreg 2) 8 19 = 0 ∧ z.g.res? 0 7 = none ∧ z.g.ress = [] ∧ (∀ g ∈ z.s.groups, g.ress = []) ∧
      z.s.onCore 0 0 (fun g => g.ress.map (·.core)) < 32) ∧
    (let z := o [0, 256 * 2 ^ 20]; fld (z.sreg 2) 41 23 = 0 ∧ fld (z.sreg 2) 20 20 = 256 ∧ z.g.res? 0 2 = some res2 ∧ fld (z.sreg 2) 0 20 + 256 ≤ res2.len ∧
      (z.sreg 2).getLsbD 40 = false ∧ fld (z.sreg 1) 0 20 + 256 ≤ z.scr ∧ z.core.matQ.length < 16 ∧ z.g.res? 0 1 = none) ∧
    16 ≤ full.core.matQ.length ∧ res2.len < fld ((o [0, 1 + 256 * 2 ^ 20]).sreg 2) 0 20 + 256 ∧ fld ((o [0, 0]).sreg 2) 20 20 = 0 ∧
    (let z := o [63, 2 ^ 40 + 256 * 2 ^ 20]; (z.sreg 2).getLsbD 40 = true ∧ viewT z.k.views ≠ 0x1FF ∧ 256 * fld (z.sreg 1) 0 6 + 256 ≤ 16384 ∧
      tileByte z.k.views 63 + 256 ≤ z.k.win * 256 ∧ okayU z (obldUses z.s (.obld h0 2 1 2) 1 2) h0 = true) ∧
    okayU (o [0, 256 * 2 ^ 20]) (obldUses (o [0, 256 * 2 ^ 20]).s (.obld h0 2 1 2) 1 2) h0 = true :=
  ⟨rfl, rfl, rfl, rfl, fun p hp => ⟨ready_of_okay (l := [((.cvinit h0 3 1 : Instr), h0), (.lace h0 3 253, h0), (.obres h0 7 1 2, h0), (.obld h0 2 1 2, h0), (.obrel h0 2, h0), (.mwait h0, h0)]) (by decide) p hp,
    ready_of_okay (l := [((.cvinit h0 3 1 : Instr), h0), (.lace h0 3 253, h0), (.obres h0 7 1 2, h0), (.obld h0 2 1 2, h0), (.obrel h0 2, h0), (.mwait h0, h0)]) (by decide) p hp,
    ready_of_okay (l := [((.cvinit h0 3 1 : Instr), h0), (.lace h0 3 253, h0), (.obres h0 7 1 2, h0), (.obld h0 2 1 2, h0), (.obrel h0 2, h0), (.mwait h0, h0)]) (by decide) p hp,
    ready_of_okay (l := [((.cvinit h0 3 1 : Instr), h0), (.lace h0 3 253, h0), (.obres h0 7 1 2, h0), (.obld h0 2 1 2, h0), (.obrel h0 2, h0), (.mwait h0, h0)]) (by decide) p hp⟩,
   by and_intros <;> decide⟩
/-- The operand word: one row at position 0. -/
def mw : Wave := { w0 with sregs := [(20, 0x100000)] }
theorem mma_fits (n : Nat) (hn : n = 1 ∨ n = 2) (q : List MatEnt) (hq : q = [] ∨ q = List.replicate 16 ment) :
    (xmx n q mw).MmaFits (cv3 n) lace1 res2 0 0 0 .i8 0x100000 := by
  rcases hn with rfl | rfl <;> rcases hq with rfl | rfl <;>
    constructor <;> decide
/-- One of two signatures; the last signature with room and with a full queue; no convergence register. -/
theorem witness_MatrixWords : let i : Instr := .mma h0 true 0 2 1 3 20 0 0 .i8
    let f := xmx 1 (List.replicate 16 ment) mw
    let n := iss kv g0 mw
    (xmx 1 [] mw).live ∧ (xmx 2 [] mw).live ∧ f.live ∧ n.live ∧ (xmx 1 [] mw).ready (mmaUses (xmx 1 [] mw).s i 0 3) h0 ∧ (xmx 2 [] mw).ready (mmaUses (xmx 2 [] mw).s i 0 3) h0 ∧
    f.ready (mmaUses f.s i 0 3) h0 ∧ n.ready (mmaUses n.s i 0 3) h0 ∧ (xmx 1 [] mw).g.cv? 0 3 = some (cv3 1) ∧ (xmx 1 [] mw).g.lace? 0 1 = some lace1 ∧
    (xmx 1 [] mw).g.res? 0 2 = some res2 ∧ (xmx 1 [] mw).MmaFits (cv3 1) lace1 res2 0 0 0 .i8 0x100000 ∧ f.MmaFits (cv3 1) lace1 res2 0 0 0 .i8 0x100000 ∧
    (xmx 2 [] mw).MmaFits (cv3 2) lace1 res2 0 0 0 .i8 0x100000 ∧ (cv3 1).signed = [] ∧ (xmx 1 [] mw).accFree 0 64 ∧ (xmx 2 [] mw).accFree 0 32 ∧ f.accFree 0 64 ∧
    16 ≤ f.core.matQ.length ∧ (xmx 1 [] mw).core.matQ.length < 16 ∧ n.g.cv? 0 3 = none := by
  refine ⟨rfl, rfl, rfl, rfl, ⟨by decide, by decide, .inr (by decide)⟩, ⟨by decide, by decide, .inr (by decide)⟩, ⟨by decide, by decide, .inr (by decide)⟩,
    ⟨by decide, by decide, .inr (by decide)⟩, by decide, by decide, by decide, mma_fits 1 (.inl rfl) _ (.inl rfl), mma_fits 1 (.inl rfl) _ (.inr rfl),
    mma_fits 2 (.inr rfl) _ (.inl rfl), rfl, ?_, ?_, ?_, by decide, by decide, by decide⟩
  all_goals unfold Iss.accFree; decide
/-- 64 rows of .f32 with residual at the end of the scratchpad's first 64 KiB. -/
theorem witness_MatrixWords_drain : let w : Wave := { w0 with sregs := [(40, 64 * 2 ^ 36 + 256 * 2 ^ 20), (41, 256 * 2 ^ 20 + 0x4000)] }
    let k : Kernel := { kv with scr := 128 }
    let x := iss k g0 w
    let i : Instr := .mdrain h0 0 40 44 false true .rne .f32
    x.live ∧ x.ready (drainUses x.s i 0 40) h0 ∧ fld (x.sreg 40) 52 12 = 0 ∧ fld (x.sreg 41) 36 28 = 0 ∧ fld (x.sreg 42) 56 8 = 0 ∧ fld (x.sreg 40) 36 16 = 64 ∧
    (x.frame.locs? (.acc 0 64)).isSome = true ∧ fld (x.sreg 40) 0 20 % 4 = 0 ∧ fld (x.sreg 40) 20 16 % 4 = 0 ∧ fld (x.sreg 41) 0 20 % 4 = 0 ∧ fld (x.sreg 41) 20 16 % 4 = 0 ∧
    0 + (63 * 256 + 256) ≤ x.scr ∧ 0x4000 + (63 * 256 + 256) ≤ x.scr ∧ x.accFree 0 64 ∧ x.core.matQ.length < 16 :=
  ⟨rfl, ⟨by decide, by decide, .inr (by decide)⟩, by decide, by decide, by decide, by decide, by decide, by decide, by decide, by decide, by decide, by decide, by decide,
   by unfold Iss.accFree; decide, by decide⟩
/-- One signature of one: the MMA enters the matrix queue; one of two waits in the register. -/
theorem test_mma : (ran (.mma h0 true 0 2 1 3 20 0 0 .i8) (xmx 1 [] mw).s).map (fun t => (t.core 0).matQ.length) = some 1 ∧
    (ran (.mma h0 true 0 2 1 3 20 0 0 .i8) (xmx 2 [] mw).s).map (fun t => ((t.core 0).matQ.length, (t.groups.flatMap (·.cvs)).map fun c => c.signed.length)) = some (0, [1]) := by decide
theorem test_cvinit_lace_obres : (ran (.cvinit h0 3 1) (iss kv g0 (ws [4])).s).map (fun t => t.groups.flatMap (·.cvs)) = some [cv3 4] ∧
    (ran (.lace h0 1 1) (iss kv g0 (ws [0, 0x100010001, 0x11001111])).s).map (fun t => t.groups.flatMap (·.laces)) = some [lace1] ∧
    (ran (.obres h0 2 1 2) (iss kv g0 (ws [256 * 2 ^ 20, 2])).s).map (fun t => t.groups.flatMap (·.ress)) = some [{ res2 with uid := 10 }] := by decide
theorem test_obld_obrel_mwait_mdrain : (ran (.obld h0 2 1 2) (xmx 1 [] (ws [0, 256 * 2 ^ 20])).s).map (fun t => (t.core 0).matQ.length) = some 1 ∧
    (ran (.obrel h0 2) (xmx 1 [] w0).s).map (fun t => (t.groups.flatMap (·.ress)).filter (·.live)) = some [] ∧
    (ran (.mwait h0) (xmx 1 [] w0).s).map (fun t => (t.wave? 3).map (·.hold)) = some (some .mwait) ∧
    (ran (.mdrain h0 0 40 44 false false .rne .f32) (iss kv g0 { w0 with sregs := [(40, 2 ^ 36)] }).s).map (fun t => (t.core 0).matQ.length) = some 1 := by decide

/-- Counters of 4 and 8 bits lie in the window for both banks, those of 16 bits do not; a full queue; offsets 3,072 of 4 KiB for the
scratchpad and 0 of 1 KiB for the region. -/
theorem witness_HypervectorWords : let x := iss kv g0 { w0 with sregs := [(2, 7), (3, 8), (4, 3072)] }
    let f : Iss := { x with s := x.s.setCore 0 { x.core with unitQ := List.replicate 8 ⟨1, 9, 0, 0, none, .clr 0, []⟩ } }
    let q := gr 20 2 .x 0x1000 0x400
    let y : Iss := { iss kv g0 w0 with s := { st kv g0 w0 with grants := [q] } }
    x.live ∧ f.live ∧ y.live ∧ (∀ p ∈ [((.hbind h0 15 0 1 : Instr), h0), (.hperm h0 15 0 1, h0), (.hbund h0 1 15, h0), (.hthr h0 15 1, h0), (.hclr h0 1, h0), (.hset h0 15 1, h0),
      (.hdist h0 10 0 15, h0), (.hpop h0 10 15, h0), (.htie h0 15, h0), (.hcw h0 .w8, h0), (.hcw h0 .w16, h0), (.hsrch h0 254 0 2, h0), (.hsrch2 h0 252 0 3, h0), (.hld h0 15 .sp 4, h0),
      (.hst h0 15 .sp 4, h0)], x.ready (usesOf p.1) p.2 ∧ f.ready (usesOf p.1) p.2) ∧
    (∀ p ∈ [((.hld h0 0 (.region 2) 4 : Instr), h0), (.hst h0 0 (.region 2) 4, h0)], y.ready (usesOf p.1) p.2) ∧ x.core.unitQ.length < 8 ∧ 8 ≤ f.core.unitQ.length ∧
    (({ x.frame with ctrw := .w8 } : Frame).locs? (.k 1)).isSome = true ∧ (({ x.frame with ctrw := .w16 } : Frame).locs? (.k 1)).isSome = false ∧
    fld (x.sreg 2) 3 61 = 0 ∧ fld (x.sreg 3) 3 61 ≠ 0 ∧ x.hvSide .sp true (x.sreg 4).toNat (.sp 2) 3072 31 true ∧ x.hvSide .sp false (x.sreg 4).toNat (.sp 2) 3072 31 true ∧
    y.hvSide (.region 2) true 0 (.grant 20) 0x1000 2 false ∧ y.hvSide (.region 2) false 0 (.grant 20) 0x1000 2 false ∧ y.entriesFree (y.missing ⟨.grant 20, 0x1000, false, 2⟩ 0 1024 [0x1000]).length ∧
    x.free (.sp 2) 1024 [3072] ∧ y.free (.grant 20) 1024 [0x1000] :=
  ⟨rfl, rfl, rfl, fun p hp => ⟨ready_of_okay (l := [((.hbind h0 15 0 1 : Instr), h0), (.hperm h0 15 0 1, h0), (.hbund h0 1 15, h0), (.hthr h0 15 1, h0), (.hclr h0 1, h0), (.hset h0 15 1, h0),
      (.hdist h0 10 0 15, h0), (.hpop h0 10 15, h0), (.htie h0 15, h0), (.hcw h0 .w8, h0), (.hcw h0 .w16, h0), (.hsrch h0 254 0 2, h0), (.hsrch2 h0 252 0 3, h0), (.hld h0 15 .sp 4, h0),
      (.hst h0 15 .sp 4, h0)]) (by decide) p hp, ready_of_okay (l := [((.hbind h0 15 0 1 : Instr), h0), (.hperm h0 15 0 1, h0), (.hbund h0 1 15, h0), (.hthr h0 15 1, h0), (.hclr h0 1, h0), (.hset h0 15 1, h0),
      (.hdist h0 10 0 15, h0), (.hpop h0 10 15, h0), (.htie h0 15, h0), (.hcw h0 .w8, h0), (.hcw h0 .w16, h0), (.hsrch h0 254 0 2, h0), (.hsrch2 h0 252 0 3, h0), (.hld h0 15 .sp 4, h0),
      (.hst h0 15 .sp 4, h0)]) (by decide) p hp⟩, ready_of_okay (by decide), by decide, by decide, by decide, by decide, by decide, by decide,
   ⟨by decide, by decide, rfl, rfl, rfl, rfl⟩, ⟨by decide, by decide, rfl, rfl, rfl, rfl⟩,
   ⟨by decide, gr 20 2 .x 0x1000 0x400, ⟨⟨⟨by decide, by decide⟩, rfl⟩, rfl⟩, by decide, rfl, rfl, rfl, by decide⟩,
   ⟨by decide, gr 20 2 .x 0x1000 0x400, ⟨⟨by decide, by decide⟩, .inl rfl⟩, by decide, rfl, rfl, rfl, by decide⟩,
   by unfold Iss.entriesFree; decide, by unfold Iss.free; decide, by unfold Iss.free; decide⟩
theorem witness_HypervectorValues : (8191 : Nat) < 8192 ∧ (List.replicate 128 (0 : Word)).length = 128 ∧ (List.replicate (128 * ctrwBits .w16) (0 : Word)).length = 128 * ctrwBits .w16 := by decide
/-- Bit 8191 moved up by 2 is bit 1; 1 + 64 bits; a counter at its greatest stays. -/
theorem test_hypervector_values : perm (List.replicate 127 0 ++ [0x8000000000000000]) 2 = 2 :: List.replicate 127 0 ∧ popHv (1 :: ~~~0 :: List.replicate 126 0) = 65 ∧
    (bund 4 (7 :: List.replicate 511 0) (1 :: List.replicate 127 0)).1.head? = some 0xFFFFFFFFFFFFFFF7 := by decide +kernel
theorem test_unit_words : (ran (.hset h0 15 1) (iss kv g0 (ws [5])).s).map (fun t => (t.core 0).unitQ.map (·.kind)) = some [.set 15 5] ∧
    trapOf (.hcw h0 .w16) (st { kv with trapent := 0x4000 } g0 w0) = some (BitVec.ofNat 8 RESERVED_FIELD, 0, 0x100, [0x4000]) ∧
    (ran (.hcw h0 .w8) (iss kv g0 w0).s).map (fun t => (t.wave? 3).map (·.ctrwNext)) = some (some .w8) := by decide
theorem test_unit_words2 : (ran (.hbind h0 1 2 3) (iss kv g0 w0).s).map (fun t => (t.core 0).unitQ.map (·.kind)) = some [.bind 1 2 3] ∧
    (ran (.hperm h0 1 2 1) (iss kv g0 (ws [9])).s).map (fun t => (t.core 0).unitQ.map (·.kind)) = some [.perm 1 2 9] ∧
    (ran (.hsrch2 h0 10 2 1) (iss kv g0 (ws [7])).s).map (fun t => (t.core 0).unitQ.map (·.kind)) = some [.srch 10 2 7 true] ∧
    (ran (.hld h0 1 .sp 1) (iss kv g0 (ws [3072])).s).map (fun t => (t.wave? 3).map fun w => w.loads.map fun l => (l.size, l.lanes.map (·.addr))) = some (some [(1024, [3072])]) ∧
    (ran (.hst h0 1 .sp 1) (iss kv g0 (ws [3072])).s).map (fun t => (t.wave? 3).map fun w => w.outbox.length) = some (some 1) := by decide

theorem witness_SystemWords : let t := xw { w0 with parts := [{ p1 with saved := some [] }] }
    x0.live ∧ t.live ∧ (∀ p ∈ [((.trap h0 0x3FFFF : Instr), h0), (.mfs h0 255 .lane true, h0), (.mfs h0 383 .lane false, h0), (.mts h0 .tcause 1, h0), (.mts h0 .tpc 1, h0),
      (.mts h0 .tinfo 1, h0), (.mts h0 .tlanes 255, h0), (.dist h0 10 1 2, h0), (.halt h0 1, h0), (.tret h0 true, h0)], x0.ready (usesOf p.1) p.2) ∧ x0.p.saved = none ∧
    t.p.saved = some [] ∧ (∀ p ∈ [((.tret h0 true : Instr), h0), (.tret h0 false, h0)], t.ready (usesOf p.1) p.2) :=
  ⟨rfl, rfl, ready_of_okay (by decide), rfl, rfl, ready_of_okay (by decide)⟩
/-- TRAP 0x123 enters the handler with USER_TRAP, %tinfo, %tpc and the lanes; TRET.skip returns past it. -/
theorem test_trap_tret : trapOf (.trap h0 0x123) (st kt g0 w0) = some (BitVec.ofNat 8 USER_TRAP, 0x123, 0x100, [0x4000]) ∧
    (ran (.tret h0 true) (st kt g0 { w0 with parts := [{ p1 with saved := some [], pc := 0x4010 }], tpc := 0x100 })).map (fun t => (t.wave? 3).map fun v => v.parts.map fun p => (p.pc, p.saved)) =
      some (some [(0x108, none)]) := by decide
theorem test_mfs_mts_dist_halt : (after (.mfs h0 10 .clk true) w0).map (·.sget 10) = some 100 ∧ (after (.mfs h0 0 .lane false) w0).map (fun v => (wget v.win 0, wget v.win 1)) = some (0, 1) ∧
    (after (.mts h0 .tpc 1) (ws [0x207])).map (·.tpc) = some 0x200 ∧ s10 (.dist h0 10 1 1) (ws [0]) = some 0 ∧
    (ran (.halt h0 1) (st k0 g0 (ws [42]))).map (fun t => (t.ctx 0).faults.map fun f => (f.code, f.info)) = some [(USER_TRAP, 42)] := by decide

/-- The sampler free, owned, another group's; each bad word; the last base that fits 4 KiB. -/
theorem witness_SlotAndSamplerWords : let y (o : Option Nat) (v : Word) : Iss := { xw (ws [v]) with s := (st k0 g0 (ws [v])).setCore 0 { (st k0 g0 w0).core 0 with sampler := { Sampler.reset with owner := o } } }
    let v : Word := 0xF80 + 4 * 2 ^ 20 + 16 * 2 ^ 36
    let ok (v : Word) : Prop := fld v 20 16 ≠ 0 ∧ fld v 20 16 ≤ 32768 ∧ 16 ≤ fld v 36 24 ∧ fld v 60 4 = 0
    (y none v).live ∧ (y (some 2) v).live ∧ (y (some 7) v).live ∧ (253 : SReg) ≠ 0 ∧ (∀ p ∈ [((.slotq h0 253 : Instr), h0), (.smpcfg h0 1, h0), (.smpon h0 1, h0), (.smpoff h0 10, h0)],
      (y none v).ready (usesOf p.1) p.2 ∧ (y (some 2) v).ready (usesOf p.1) p.2 ∧ (y (some 7) v).ready (usesOf p.1) p.2) ∧ ok v ∧ ¬ ok 0 ∧ ok (v + 8) ∧ fld (v + 8) 0 20 % 32 ≠ 0 ∧
    ok (v + 32) ∧ (y none v).scr < fld (v + 32) 0 20 + 32 * 4 ∧ fld v 0 20 % 32 = 0 ∧ fld v 0 20 + 32 * 4 ≤ (y none v).scr ∧ (y (some 7) v).core.sampler.owner = some 7 ∧
    (y (some 2) v).core.sampler.owner = some 2 ∧ (y none v).core.sampler.owner ≠ some 2 :=
  ⟨rfl, rfl, rfl, by decide, fun p hp => ⟨ready_of_okay (l := [((.slotq h0 253 : Instr), h0), (.smpcfg h0 1, h0), (.smpon h0 1, h0), (.smpoff h0 10, h0)]) (by decide) p hp,
    ready_of_okay (l := [((.slotq h0 253 : Instr), h0), (.smpcfg h0 1, h0), (.smpon h0 1, h0), (.smpoff h0 10, h0)]) (by decide) p hp,
    ready_of_okay (l := [((.slotq h0 253 : Instr), h0), (.smpcfg h0 1, h0), (.smpon h0 1, h0), (.smpoff h0 10, h0)]) (by decide) p hp⟩, by and_intros <;> decide⟩
theorem test_slotq_sampler : (after (.slotq h0 10) w0).map (fun v => v.sget 10) = some 65436 ∧
    (ran (.smpcfg h0 1) (st k0 g0 (ws [0xF80 + 4 * 2 ^ 20 + 16 * 2 ^ 36]))).map (fun t => ((t.core 0).sampler.owner, (t.core 0).sampler.cap, (t.core 0).sampler.period)) = some (some 2, 4, 16) := by decide

/-- The plain wave has not issued yet; the core's cache holds its line, which begins with the word. -/
def ready0 (v : Word) : State :=
  { st k0 g0 w0 with cur := none, cores := [{ Core.reset with service := false, icache := [{ line := 4, words := [v, 0, 0, 0, 0, 0, 0, 0] }] }] }

/-- A register in an absent view and two bad fields; a failed guard; an early operand of a context that checks, on sf alone or on a
register. -/
theorem witness_IssueChecks : let n := iss { k0 with win := 300 } g0 w0
    let e : List Early := [{ due := 102, loc := .win (256 * 2) (256 * 2 + 256), old := [], whole := false }, { due := 101, loc := .sf, old := [], whole := false }]
    let c (s : State) : State := { s with ctxs := [{ codeCtx with stchk := true }] }
    let x := xm c { w0 with early := e }
    let g : Hd := { h0 with ug := .eq }
    x0.live ∧ n.live ∧ x.live ∧ n.frame.bad (usesOf (.add h0 383 1 2 .i8)) = [27] ∧ x0.frame.bad (usesOf (.add g 0 1 2 .i8)) = [] ∧ x0.guard g = false ∧ x0.c.stchk = false ∧
    x.frame.bad (usesOf (.add g 0 1 2 .i8)) = [] ∧ x.guard g = false ∧ x.c.stchk = true ∧
    (worstEarly x.frame x.clk x.w.early ((usesOf (.add g 0 1 2 .i8)).filter fun u => u.pos == 43)).1 ≠ 0 ∧ x.guard h0 = true ∧
    (worstEarly x.frame x.clk x.w.early (usesOf (.add h0 0 1 2 .i8))).1 ≠ 0 := ⟨rfl, rfl, rfl, by decide⟩
theorem witness_TrapEntry : w0.parts = [{ p1 with lanes := 3 }] ∧ (st kt g0 w0).kernelOf? w0 = some kt ∧ p1.saved = none ∧ kt.trapent ≠ 0 ∧ k0.trapent = 0 ∧
    ({ p1 with saved := some [] } : Part).saved ≠ none := by decide
theorem witness_IssueFrame : x0.s.wave? 3 ≠ none ∧ (4 : Nat) ≠ 3 ∧ (1 : Nat) ≠ x0.coreIx ∧ (1 : Nat) ≠ x0.w.quad := by decide
theorem witness_EveryWordRoundTrips : (Instr.add h4 383 511 0 .n64).isWord = true ∧ (Instr.add h4 383 511 0 .n64).wf = true ∧ (Instr.smpoff h0 255).isWord = true := by decide
/-- A wave of quad 0 is ready and its line holds MOVI v1, 5; a state with an event; a device that is off. -/
theorem witness_StepRunsDecoded : let s := ready0 0x1020000008000005
    let x := (s.offer w0 (s.lineAt 0 0x100)).iss?
    s.agenda = [] ∧ s.stage ≠ .off ∧ s.begun = true ∧ s.nextQuad? = some 0 ∧ (∀ u ∈ s.waves, s.boxReady u = false ∧ u.hold = .none) ∧ s.choice 0 = [w0] ∧ s.offered? w0 = w0.parts.head? ∧
    s.fetch (s.coreOf w0) (s.ctxOf w0) 0x100 = .word 0x1020000008000005 ∧ w0.deferred = [] ∧ (∃ y, x = some y ∧ y.frame.bad (dynUses y.s (.movi h0 1 5)) = [] ∧
      y.clear 0x1020000008000005 (dynUses y.s (.movi h0 1 5)) = true ∧ y.s.slotHolds y.w (.movi h0 1 5) = false ∧
      ((ran (.movi h0 1 5) y.s).map fun t => y.s.hasIssued t) = some true) := by
  refine ⟨rfl, by decide, rfl, by decide, by decide, by decide, by decide, by decide, rfl, _, rfl, by decide, by decide, by decide, by decide⟩
theorem witness_StepRunsDecoded_decode : decode 0x1020000008000005 = some (.movi h0 1 5) := by decide
/-- Power comes; an event waits for what is due at the start of its clk. -/
theorem witness_StepRunsDecoded_event : Instr.powerGood.isWord = false ∧ (∀ u, Instr.powerGood ≠ .deferredFaultTaken u) ∧ (∀ d c, Instr.powerGood ≠ .sample d c) ∧
    State.eventTurn { State.reset with agenda := [.powerGood] } .powerGood = true ∧ State.eventTurn { State.reset with stage := .full } .placement = false ∧
    State.reset.agenda = [] ∧ State.reset.stage = .off :=
  ⟨by decide, fun _ => nofun, fun _ _ => nofun, rfl, rfl, rfl, rfl⟩
/-- A step at that state runs the word: v1 of both lanes is 5 and the wave stands at the next word. -/
theorem test_step : (match step (ready0 0x1020000008000005) with
    | .next t => (t.wave? 3).map fun v => (wget v.win 32, wget v.win 33, v.parts.map (·.pc), v.nextIssue)
    | _ => none) = some (5, 5, [0x108], 101) := by decide
/-- A word that decodes to nothing traps ILLEGAL_OPCODE in a step; its opcode is in %tinfo. -/
theorem test_step_illegal : (match step { ready0 0x2709018050080604 with kernels := [kt] } with
    | .next t => (t.wave? 3).map fun v => (v.tcause, v.tinfo, v.parts.map (·.pc))
    | _ => none) = some (BitVec.ofNat 8 ILLEGAL_OPCODE, 0x138, [0x4000]) := by decide
/-- An instruction placed right after reset is the next step's. -/
theorem test_withFetchWord : (match step (State.reset.withFetchWord 64 0x1020000008000005) with
    | .next t => t.waves.map fun v => (wget v.win 32, v.parts.map (·.pc))
    | _ => []) = [(5, [8])] := by decide
theorem witness_MemoryStaysCanonical : Memory.wf [(1, 0), (4, 9)] ∧ ∃ t, step { State.reset with mem := [(1, 0), (4, 9)] } = .next t := ⟨by decide, _, rfl⟩

/-! Events of waves: each witness also shows that the event happens on that state -/

/-- Between steps: no wave issues. -/
def se (w : Wave) (f : State → State) : State := f { st k0 g0 w with cur := none }
/-- An event has happened. -/
def happened (i : Instr) (s : State) : Bool := match ran i s with
  | some t => t != s
  | none => false
/-- A load of 8 bytes by two lanes of the scratchpad. -/
def ld0 : LoadP := { id := 7, seq := 7, pc := 0, code := 31, tgt := .sp 2, size := 8, lanes := [⟨0, 240, none⟩, ⟨1, 248, none⟩],
                     dest := .vec 0 .i64, atomic := false, miss := [], hint := 0, via := 0, asked := [] }
/-- Its bytes have been written. -/
def filled (s : State) : State := s.writeRun (.sp 2) 240 (leBytes 16 (0x1122334455667788 + 2 ^ 64 * 9))

theorem witness_ResultsLand_writes : let v : VPend := ⟨7, [.sreg 1], none⟩
    let a := se { w0 with vpend := [v] } id
    let b : State := { se { w0 with vpend := [{ v with chan := some (0, 0) }] } id with groups := [{ g0 with chans := [{ ch0 with claims := 1 }] }] }
    a.wave? 3 = some { w0 with vpend := [v] } ∧ (∀ g ∈ a.grants, g.gid ≠ 7) ∧ (∀ o ∈ a.ops, o.id ≠ 7) ∧ ran (.variableLatencyWrite 3 7) a = some (a.setWave w0) ∧
    (b.setWave w0).group? 2 = some { g0 with chans := [{ ch0 with claims := 1 }] } ∧
    (ran (.variableLatencyWrite 3 7) b).map (fun t => (t.groups.flatMap (·.chans)).map fun c => (c.q, c.fill, c.claims)) = some [(1, 0, 0)] := by decide
/-- All lanes at once; one lane named; an uncorrectable sector. -/
theorem witness_ResultsLand_loads : let w : Wave := { w0 with loads := [ld0] }
    let s := se w filled
    let b : Bad := { sec := 2 ^ 43 + 3, tier := 1, mask := 0, by_ := 0 }
    let t : State := { s with bad := [b] }
    s.wave? 3 = some w ∧ w.loadWaits ld0 = false ∧ s.isParked (.load 3 7) = false ∧ s.loadReach w ld0 = .ok ∧ s.inSlot = false ∧
    (s.reading ld0).badLanes? (s.coreOf w) ld0 none = none ∧ (s.reading ld0).badLanes? (s.coreOf w) ld0 (some 1) = none ∧
    (∀ r ∈ ((s.reading ld0).capture w ld0 none ld0.lanes).2, r.got ≠ none) ∧ ((s.reading ld0).capture w ld0 (some 1) ld0.lanes).2 ≠ ld0.lanes ∧
    (((s.reading ld0).capture w ld0 none ld0.lanes).2.map (·.lane)).Nodup ∧
    ((ran (.loadWriteback 3 7 .all) s).bind (·.wave? 3)).map (fun v => (wget v.win 0, wget v.win 1, v.loads)) = some (0x1122334455667788, 9, []) ∧
    happened (.loadWriteback 3 7 (.lane 1)) s = true ∧ (t.reading ld0).badLanes? (t.coreOf w) ld0 none = some b ∧
    ((ran (.loadWriteback 3 7 .all) t).bind (·.wave? 3)).map (fun v => v.deferred.map (·.code)) = some [MEM_UNCORRECTABLE] := by decide +kernel
/-- A home that is not reached; an endpoint that refuses. -/
theorem witness_ResultsLand_refusals : let l : LoadP := { ld0 with code := 2, tgt := .grant 20, lanes := [⟨0, 2 ^ 44, none⟩] }
    let f : State := se { w0 with loads := [l] } fun s => { s with grants := [gr 20 2 .x (2 ^ 44) 0x100], dies := [s.die 0, { Die.reset with retired := true, inReset := false }] }
    let m : LoadP := { l with lanes := [⟨0, 2 ^ 51, none⟩] }
    let e : State := se { w0 with loads := [m] } fun s => { s with grants := [gr 20 2 .x (2 ^ 51) 0x100] }
    f.loadReach { w0 with loads := [l] } l = .fail 2 ∧ l.atomic = false ∧
    ((ran (.loadWriteback 3 7 .all) f).bind (·.wave? 3)).map (fun v => v.deferred.map (·.code)) = some [LINK_PARTITION] ∧
    e.loadEp? m = some 0 ∧ (∃ r ∈ m.lanes, r.got = none) ∧ e.isParked (.load 3 7) = false ∧
    ((ran (.loadWriteback 3 7 .refused) e).bind (·.wave? 3)).map (fun v => v.deferred.map fun f => (f.code, f.info)) = some [(GRANT_FAILED, 40)] := by decide +kernel
theorem witness_ResultsLand_entries : let w : Wave := { w0 with hold := .miss 7 256 90 }
    let s := se w id
    let a : State := { s with acks := [⟨8, 3, 0, 2⟩], cores := [{ s.core 0 with missUsed := 5 }] }
    (s.missQueue (s.coreOf w)).head? = some w ∧ (s.core (s.coreOf w)).missUsed + 256 ≤ 256 ∧ (ran (.missEntriesTaken 3) s).map (fun t => ((t.core 0).missUsed, (t.wave? 3).map (·.hold))) = some (256, some .none) ∧
    a.acks.find? (·.id == 8) = some ⟨8, 3, 0, 2⟩ ∧ (∀ p ∈ a.packets, p.id = 8 → p.sel = false) ∧ (0 : Nat) < a.cores.length ∧
    (ran (.acknowledgementReceived 8) a).map (fun t => ((t.core 0).missUsed, t.acks)) = some (3, []) := by decide
theorem witness_ResultsLand_fullEmpty : let w : Wave := { w0 with loads := [ld0], hold := .fullEmpty 7 true }
    let s := se w fun s => { filled s with full := s.granules (.sp 2) [(240, 16)] }
    s.wave? 3 = some w ∧ w.st = .resident ∧ s.allFull (s.granules ld0.tgt (ld0.lanes.map fun r => (r.addr, ld0.size))) = true ∧ (∀ r ∈ ld0.lanes, s.laneReady w ld0 r = true) ∧
    (ran (.fullEmptyProceed 3) s).map (fun t => (t.full, (t.wave? 3).map (·.hold))) = some ([], some .none) := by decide +kernel

theorem witness_WavesLiveOn_turns : let t : Wave := { w0 with turn := 100 }
    let z : Wave := { w0 with st := .sleeping, sleepEnd := 100 }
    let e : Wave := { w0 with st := .ended, parts := [] }
    t.slotHeld = true ∧ t.parts ≠ [] ∧ (∀ p ∈ t.parts, p.saved = none) ∧ ran (.turnExpiry 3) (se t id) = some ((se t id).setWave (t.passTurn 100)) ∧
    ran (.sleepElapses 3) (se z id) = some ((se z id).setWave { z with st := .resident }) ∧ (se e id).slotFree e = true ∧
    (ran (.waveSlotRelease 3) (se e id)).map (fun t => t.waves.map (·.slotHeld)) = some [false] := by decide
/-- The wave's next word reads a register that a parked load of 6,000 clk ago has still to write, and the next group of a
kernel in determinism mode finds no room in its unit; a swapped wave whose accesses are over. -/
theorem witness_WavesLiveOn_swaps : let v : Word := 0x1060000008040205
    let l : LoadP := { ld0 with dest := .vec 256 .i64 }
    let w : Wave := { w0 with loads := [l] }
    let k : Kernel := { codeKernel 40 with st := .launching, det := true, wpg := 20, placed := 0 }
    let s : State := { ready0 v with links := linkNumbers.map (fun n => { n := n, link := { Link.reset with st := 2, width := 4 } }), clk := 7000, waves := [w], kernels := [k0, k], ctxs := [{ codeCtx with saveCap := 106496 }],
                                     dies := [{ (st k0 g0 w0).die 0 with parked := [⟨.load 3 7, 240, some 0, 1000⟩] }] }
    let z : Wave := { w0 with st := .swapped, slotHeld := false, eligible := some 50 }
    let r := se z id
    s.wave? 3 = some w ∧ s.waitsParked w = true ∧ s.slotNeeded w = true ∧ s.quiet w = true ∧ s.frameBytes w = 106496 ∧
    (ran (.swapOut 3) s).map (fun t => (t.waves.map fun v => (v.st, v.slotHeld), (t.ctx 0).saveUsed)) = some ([(.swapped, false)], 106496) ∧
    r.restorable = [z] ∧ r.group? z.group = some g0 ∧ r.claims = [⟨3, 0, 0, r.winOf z⟩] ∧ 0 < r.roomBut [] 0 0 (r.winOf z) ∧ (r.die 0).sweeping = [] ∧ r.ctxOf z < r.ctxs.length ∧ r.grants = [] ∧
    (∀ p ∈ s.parkedOf 3, p.since + 6000 ≤ s.clk) ∧ (ran (.waveRestore 3) r).map (fun t => t.waves.map fun v => (v.st, v.slotHeld, v.slot)) = some [(.resident, true, 0)] := by decide +kernel
theorem witness_WavesLiveOn_faults : let f : FaultRec := { code := GRANT_FAILED, info := 5, pc := 0 }
    let w : Wave := { w0 with deferred := [f] }
    let s : State := { ready0 0 with waves := [w], kernels := [kt] }
    let m : State := { (se w0 id) with mem := (List.range 64).map fun i => (physKey 0 (0x100 + i), BitVec.ofNat 8 i), dies := [{ (st k0 g0 w0).die 0 with ptroot := 1, runs := [{ page := 0, size := 1, pfn := 0 }] }] }
    s.offered? w = w.parts.head? ∧ s.fetch (s.coreOf w) (s.ctxOf w) 0x100 = .word 0 ∧ s.readyWord w 0 = true ∧
    ((ran (.deferredFaultTaken 3) s).bind (·.wave? 3)).map (fun v => (v.tcause, v.tinfo, v.deferred)) = some (BitVec.ofNat 8 GRANT_FAILED, 5, []) ∧
    (m.core 0).fetchAt ≤ m.clk ∧ m.fetch (m.coreOf w0) (m.ctxOf w0) 0x100 = .miss 4 ∧ (m.codeLine? 0 4).isSome = true ∧
    (ran (.instructionCacheFill 3) m).map (fun t => (t.core 0).icache.map fun l => (l.line, l.words.head?)) = some [(4, some 0x0706050403020100)] := by
  and_intros <;> decide +kernel
/-- A CHPOP of channel 0 that its wave would issue. -/
theorem witness_WavesLiveOn_chpop : let v : Word := 0x6240000008000000
    let s : State := { ready0 v with groups := [{ g0 with chans := [ch0] }], mem := (List.range 16).map fun i => (2 * 2 ^ 48 + 0x100 + i, 1) }
    decodeWord v = .word [] (.chpop h0 1 0) ∧ s.offered? w0 = w0.parts.head? ∧ s.fetch (s.coreOf w0) (s.ctxOf w0) 0x100 = .word v ∧
    (∃ x, ({ s with cur := some 3 } : State).iss? = some x ∧ x.s.held w0 x.frame (usesOf (.chpop h0 1 0)) = false ∧ (s.core x.coreIx).pipes.getD w0.quad 0 ≤ s.clk ∧ okay x (.chpop h0 1 0) h0 = true) ∧ ch0.claims < ch0.fill ∧
    (ran (.chpopClaim 3) s).map (fun t => (t.groups.flatMap (·.chans)).map (·.claims)) = some [1] := by
  refine ⟨by decide, by decide, by decide, ⟨_, rfl, by decide, by decide, by decide⟩, by decide, by decide⟩
theorem witness_WavesLiveOn_bins : let b : Bin := { uid := 50, core := 0, die := 0, group := 2, entry := 0x1000, mask := [], due := 100, fibres := [⟨5, 6, 7, 8⟩, ⟨1, 2, 3, 4⟩], waiting := false }
    let s := se w0 fun s => { s with bins := [b] }
    let t := se w0 fun s => { s with bins := [{ b with waiting := true }], groups := [{ g0 with cores := [0] }] }
    happened (.binTimerExpiry 50) s = true ∧ t.binNext { b with waiting := true } = true ∧ g0.st = .running ∧ (t.ctx 0).preempting = false ∧
    t.findRoom? g0 k0.win [0, 0] = some (0, 0) ∧ (ran (.waitingBinLaunch 50) t).map (fun u => (u.waves.drop 1).map fun v => (v.parts.map fun p => (p.pc, p.lanes), wget v.win 33)) =
      some [([(0x1000, 3)], 2)] := by decide

/-! The ordering machine -/

/-- A die in service whose pages 0 to 3 are cached as identity. -/
def dieUp : Die := { Die.reset with inReset := false, ptroot := 1, runs := [{ page := 0, size := 4, pfn := 0 }] }
/-- Every link UP, every die in service, 40 cores on die 0. -/
def up (s : State) : State := { s with links := linkNumbers.map (fun n => { n := n, link := { Link.reset with st := 2, width := 4 } }), dies := List.replicate 8 dieUp }
/-- An entry of access 7. -/
def oe (t : Tgt) (k : OKind) : OEnt := { seq := 7, pc := 0x100, code := 2, tgt := t, kind := k }
/-- The wave's outbox holds the entry alone. -/
def so (e : OEnt) (f : State → State) : State := se { w0 with outbox := [e] } f
/-- Its head may drain, and does. -/
noncomputable def drains (e : OEnt) (path : Nat) (f : State → State) : Bool :=
  (so e f).wave? 3 == some { w0 with outbox := [e] } && !(so e f).drainHeld { w0 with outbox := [e] } e && happened (.drain 3 path) (so e f)
/-- Grants of die 0 and die 1. -/
def withG (l : List Grant) (s : State) : State := { up s with grants := l }
def fA : Grant := gr 22 3 .a (2 ^ 44 + 0x1000) 0x100
def fX : Grant := gr 23 4 .x (2 ^ 44 + 0x1000) 0x100
/-- An atomic on 8 bytes, one lane. -/
def al (a : Nat) : List AtLane := [⟨0, a, 5, 0⟩]

theorem witness_OutboxDrains_local : let a := oe (.sp 2) (.atomic .add .n64 (al 16) 7)
    drains (oe (.sp 2) (.write 16 [1, 2] [1])) 0 id = true ∧ drains a 0 id = true ∧ (so a id).atomicReach { w0 with outbox := [a] } a = .ok ∧
    ((so a filled).atomicLocal (.sp 2) .add .n64 (al 240)).isSome = true ∧
    (((so a filled).atomicLocal (.sp 2) .add .n64 (al 240)).map fun r => r.2) = some [(0, leBytes 8 0x1122334455667788)] := by decide +kernel
/-- An atomic that reads an uncorrectable sector. -/
theorem witness_OutboxDrains_bad : let a := oe (.sp 2) (.atomic .add .n64 (al 16) 7)
    let l : LoadP := { ld0 with lanes := [⟨0, 16, none⟩], dest := .vec 0 .n64, atomic := true }
    let w : Wave := { w0 with loads := [l], outbox := [a] }
    let b : Bad := { sec := 2 ^ 43, tier := 1, mask := 0, by_ := 0 }
    let s := se w fun s => { s with bad := [b] }
    s.wave? 3 = some w ∧ s.drainHeld w a = false ∧ s.atomicReach w a = .ok ∧ (w.loads.find? (·.id == 7)).bind (fun l => s.badLanes? (s.coreOf w) l none) = some b ∧
    ((ran (.drain 3 0) s).bind (·.wave? 3)).map (fun v => (v.outbox, v.deferred.map (·.code))) = some ([], [MEM_UNCORRECTABLE]) := by decide +kernel
theorem witness_OutboxDrains_home : let n := oe (.grant 20) (.homeAtomic .add .n64 (al 0x1000) 0 1)
    let f := oe (.grant 22) (.homeAtomic .add .n64 (al (2 ^ 44 + 0x1000)) 0 1)
    let cut (s : State) : State := { withG [fA] s with links := [] }
    drains n 0 (withG [gA]) = true ∧ gA.home = (so n (withG [gA])).dieOf w0 ∧ drains f 0 (withG [fA]) = true ∧ fA.home ≠ 0 ∧ (so f (withG [fA])).reinReach 0 fA.home = .ok ∧
    drains f 0 cut = true ∧ (so f cut).reinReach 0 fA.home = .fail 2 := by decide +kernel
theorem witness_OutboxDrains_remote : let r := oe (.grant 20) (.remote 0x1010 [1, 2] 1)
    let f := oe (.grant 23) (.remote (2 ^ 44 + 0x1010) [1, 2] 1)
    let x : Grant := { gX with gs := [(0x1000, 9)] }
    let w : Grant := { gX with window := some 0 }
    let y : Grant := { fX with gs := [(2 ^ 44 + 0x1001, 9)] }
    let s := so f (withG [y])
    drains r 0 (withG [w]) = true ∧ (so r (withG [w])).windowOf? 2 w ≠ none ∧
    drains r 0 (withG [x]) = true ∧ (so r (withG [x])).windowOf? 2 x = none ∧ (((so r (withG [x])).pushLine 20 0x1010).map fun t => (t.hWrite [(0x1010, 1), (0x1011, 2)]).2) = some true ∧
    drains f 65 (withG [y]) = true ∧ s.windowOf? 2 y = none ∧ s.girthReach 0 y.home = .ok ∧
    ((s.pushLine 23 (2 ^ 44 + 0x1010)).bind fun t => t.sendPacket 0 y.home 65 .write [(2 ^ 44 + 0x1010, 1), (2 ^ 44 + 0x1011, 2)] 0 3 1 0x100 2 7).isSome = true := by decide +kernel
theorem witness_OutboxDrains_flags : let n := oe (.grant 20) (.flag 0x1000 20)
    let f := oe (.grant 23) (.flag (2 ^ 44 + 0x1000) 23)
    drains n 0 (withG [gX]) = true ∧ gX.home = (so n (withG [gX])).dieOf w0 ∧ drains f 0 (withG [fX]) = true ∧ fX.home ≠ 0 ∧ (so f (withG [fX])).reinReach 0 fX.home = .ok := by decide +kernel

/-- An atomic at a home queue. -/
def ha (a : Nat) : HAtom := { id := 30, pc := 0x100, code := 2, wave := 3, load := 0, gid := 20, op := .add, t := .n64, lanes := al a, entries := 1 }
/-- A packet from die 0. -/
def pk (dst : Nat) (k : PKind) (cells : Store) : Packet :=
  { id := 40, pc := 0x100, code := 2, src := 0, dst := dst, path := if dst < 8 then 65 else 513, kind := k, cells := cells, bytes := cells.length, seq := 7,
    wave := 3, entries := 1, first := 100, last := 100, num := 0, sel := false, arrived := false }
/-- Endpoint 0 behind port 0, in the ephemeral mode. -/
def ep0 (s : State) : State := { up s with fabric := [(0, 0x10001)] }
/-- The state with one packet. -/
def spk (p : Packet) (f : State → State) : State := se w0 fun s => { f s with packets := [p] }
/-- The packet's turn has come, and it acts. -/
noncomputable def moves (p : Packet) (f : State → State) : Bool :=
  (spk p f).packets.find? (·.id == 40) == some p && !p.arrived && (spk p f).packetNext p && happened (.girthDelivery ⟨40, .granted⟩) (spk p f)

/-- A copy of 128 B inside the scratchpad, as the engine holds it. -/
def cop : CopyOp :=
  { id := 50, wave := 3, group := 2, core := 0, seq := 7, batch := 0, pc := 0x100, kind := .copy, dst := .sp, src := .sp, nums := [512, 0], data := [],
    len := 128, acc := none, flag := none, sreg := 0, sticky := 0, pos := 0, fired := true, started := true, srcAt := 0, dstAt := 0, skip := none,
    segEnd := 128, suspended := false, overran := none, failed := false, asked := none }

theorem witness_MessagesAct_atomics : let q := [(1, ha 16), (0, ha 0x1000), (8, ha (8 * 2 ^ 48))]
    let s := se w0 fun s => { up s with hqs := q }
    let b : Bad := { sec := physKey 0 0x1000 / 64, tier := 3, mask := 0, by_ := 0 }
    let m : State := { se w0 fun s => { up s with hqs := [(0, { ha 0x1000 with load := 7 })] } with bad := [b] }
    takeOut (fun h : Nat × HAtom => h.1 == 0) s.hqs = some ((0, ha 0x1000), [(1, ha 16), (8, ha (8 * 2 ^ 48))]) ∧ s.isParked (.atomic 30) = false ∧ s.inSlot = false ∧
    (∀ l ∈ al 0x1000, s.mapped l.addr 8) ∧ happened (.homeAtomic 0 .granted) s = true ∧
    (takeOut (fun h : Nat × HAtom => h.1 == 8) s.hqs).isSome = true ∧ happened (.homeAtomic 8 .refused) s = true ∧
    m.badHome? .n64 (al 0x1000) = some b ∧ ((ran (.homeAtomic 0 .granted) m).bind (·.wave? 3)).map (fun v => v.deferred.map (·.code)) = some [MEM_UNCORRECTABLE] := by decide +kernel
theorem witness_MessagesAct_packets : let c (f : State → State) : State := { f (up (st k0 g0 w0)) with ops := [cop] }
    let w := pk 1 .write [(2 ^ 44 + 0x1000, 9)]
    let e := pk 8 .write [(8 * 2 ^ 48, 9)]
    let cut (s : State) : State := { up s with links := [] }
    moves (pk 1 (.marker 60) []) up = true ∧ moves w up = true ∧ moves e ep0 = true ∧ moves (pk 1 (.chunk 50) [(2 ^ 44 + 0x1000, 9)]) (fun _ => c id) = true ∧
    (spk w up).packetReach w = .ok ∧ (∀ c ∈ w.cells, (spk w up).mapped c.1 1) ∧ (spk e ep0).packetReach e = .ok ∧ (∀ c ∈ e.cells, (spk e ep0).mapped c.1 1) ∧
    moves w cut = true ∧ (spk w cut).packetReach w = .fail 2 ∧ e.numbered = true ∧ happened (.girthDelivery ⟨40, .refused⟩) (spk e ep0) = true := by decide +kernel
/-- A rein message of wave 3. -/
def rn (dst : Nat) (k : RKind) : Rein :=
  { id := 60, src := 0, dst := dst, kind := k, need := [], flushed := false, wave := 3, route := none, num := if dst < 8 then none else some 0, port := if dst < 8 then none else some 0, sel := false, first := 100, last := 100 }
/-- The state with one message. -/
def srn (m : Rein) (f : State → State) : State := se w0 fun s => { f s with reins := [m] }
/-- The message may act, and acts. -/
noncomputable def arrives (m : Rein) (f : State → State) : Bool :=
  (srn m f).reinHead? 0 m.dst == some m && (srn m f).messageReach m == .ok && happened (.reinDelivery 0 ⟨m.dst, .granted⟩) (srn m f)
theorem witness_MessagesAct_reins : let m := rn 1 (.flag (2 ^ 44 + 0x1000) 0x100 2 false 9)
    let n : Rein := { m with need := [40], flushed := true }
    let q : Rein := { m with need := [40] }
    let u (s : State) : State := { up s with used := [(0, 1, 65), (0, 2, 1)] }
    let cut (s : State) : State := { up s with links := [] }
    (srn q u).reinHead? 0 1 = some q ∧ happened (.flush 0 1) (srn q u) = true ∧ (srn n u).messageReach n = .ok ∧
    (∀ i ∈ n.need, ∀ p ∈ (srn n u).packets, p.id = i → p.arrived = true) ∧ arrives n u = true ∧
    (∀ v ∈ (srn m up).used, (v.1 == 0 && v.2.1 == 1) = false) ∧ arrives m up = true ∧
    (srn m cut).messageReach m = .fail 2 ∧ ((srn m cut).reinFail m 2).isSome = true ∧ happened (.reinDelivery 0 ⟨1, .granted⟩) (srn m cut) = true := by decide +kernel
/-- A request of register 22 of die 0 to the home on die 1. -/
def rq : BReq :=
  { rid := 61, src := 0, who := .grant 22, ia := 2 ^ 44 + 0x1000, len := 0x100, kind := .x, tryIt := false, ctx := 0, die := 0, sector := 0, det := none }
/-- Every kind of message; an endpoint takes a flag, or refuses it. -/
theorem witness_MessagesAct_kinds : let f := rn 8 (.flag (8 * 2 ^ 48) 0x100 2 false 9)
    let g := withG [{ fA with st := .waiting }]
    let k (s : State) : State := { up s with kernels := [{ k0 with reports := some [0, 1], stamp := some { grp := 0, wave := 0, passing := none, retired := false, moving := true } }] }
    arrives (rn 1 (.request rq)) g = true ∧ arrives (rn 1 (.atomic (ha (2 ^ 44 + 0x1000)))) g = true ∧ arrives (rn 1 (.ret 22)) g = true ∧
    arrives (rn 8 (.epRet 0 (8 * 2 ^ 48) 64 .x)) ep0 = true ∧ arrives (rn 1 (.stamp 1)) k = true ∧ arrives (rn 1 (.complete 1)) k = true ∧ arrives (rn 1 (.release 9)) up = true ∧
    arrives (rn 1 (.answer { req := rq, verdict := .denied none 1 })) g = true ∧ f.num ≠ none ∧ arrives f ep0 = true ∧
    ((srn f ep0).loseRein f GRANT_FAILED fun c _ => wd (16 * c + 8)).isSome = true ∧ happened (.reinDelivery 0 ⟨8, .refused⟩) (srn f ep0) = true := by decide +kernel
theorem witness_MessagesAct_flags : let f : Flag := { id := 70, home := 0, ia := 0x1000, wave := 3, copy := false }
    let s := se w0 fun s => { up s with flags := [f], mem := (List.range 8).map fun i => (physKey 0 (0x1000 + i), 255) }
    s.flags.find? (·.id == 70) = some f ∧ s.isParked (.flag 70) = false ∧ s.mapped 0x1000 8 ∧ (s.hRead 0x1000 8).2 = some (List.replicate 8 255) ∧
    (ran (.flag 70) s).map (fun t => (t.mem, t.flags)) = some ((List.range 8).map fun i => (physKey 0 (0x1000 + i), 0), []) := by decide +kernel
/-- The stamp goes on within a die, at the end of a wave, and to the first wave of a group on die 1. -/
theorem witness_MessagesAct_stamp : let p : Stamp := { grp := 0, wave := 0, passing := some 7, retired := false, moving := false }
    let k : Kernel := { k0 with det := true, stamp := some p }
    let e : Kernel := { k0 with det := true, stamp := some { p with passing := none } }
    let s := { st k g0 { w0 with outbox := [{ oe (.sp 2) (.write 0 [1] []) with seq := 7 }] } with cur := none }
    let t := { st e g0 { w0 with st := .ended } with cur := none }
    let l : Kernel := { k with ngrp := 2, wpg := 1 }
    let r := { st l g0 w0 with cur := none, groups := [g0, { g0 with uid := 5, grp := 1, die := 1 }] }
    s.kernel? 1 = some k ∧ s.groups.find? (fun g => g.kernel == 1 && g.grp == p.grp) = some g0 ∧ (s.waves.find? fun w => w.group == g0.uid && w.index == p.wave).isSome = true ∧
    (∀ w ∈ s.waves, ∀ e ∈ w.outbox, 7 ≤ e.seq) ∧ s.atomicsDone 3 7 (fun _ => true) = true ∧ (ran (.stampPass 1) s).map (fun t => (t.kernels.map (·.stamp))) =
      some [some { p with passing := none, retired := true }] ∧ (t.waves.map (·.st)) = [.ended] ∧ t.atomicsDone 3 t.nextUid (fun _ => true) = true ∧ happened (.stampPass 1) t = true ∧
    r.stampDie? l (l.nextHolder p) = some 1 ∧ g0.die ≠ 1 ∧ (ran (.stampPass 1) r).map (fun t => t.reins.map fun m => (m.src, m.dst, m.kind)) = some [(0, 1, .stamp 1)] := by decide
theorem witness_MessagesAct_barriers : let w : Wave := { w0 with arrives := [(5, 9)], outbox := [{ oe (.sp 2) (.write 0 [1] []) with seq := 9 }] }
    let g : Group := { g0 with bars := [b5] }
    let s : State := { st k0 g w with cur := none }
    let h : Wave := { w0 with hold := .barrier 5 true (some 100) }
    let l : Wave := { w0 with uid := 4, hold := .barrier 5 true (some 101) }
    let r : State := { st k0 g h with cur := none, waves := [h, l] }
    s.wave? 3 = some w ∧ s.group? 2 = some g ∧ (∀ e ∈ w.outbox, 9 ≤ e.seq) ∧ (ran (.arrive 3) s).map (fun t => t.groups.flatMap fun g => g.bars.map (·.arrived)) = some [1] ∧
    h ∈ r.waves ∧ (ran (.barrierRelease 2 5) r).map (fun t => t.waves.map (·.hold)) = some [.none, .barrier 5 true (some 101)] := by decide +kernel

/-! The home's side of grants -/

/-- A request for 256 B of die 0, for the register's grant 20; the same from a register of die 1, and from an endpoint. -/
def rh : BReq := { rq with rid := 90, who := .grant 20, ia := 0x1000 }
/-- The register that waits for it. -/
def wq : Grant := { gX with st := .waiting, tag := 0, entry := none }
/-- An entry of die 0's table. -/
def en (idx : Nat) (k : EntKind) : BEnt :=
  { idx := idx, ia := 0x1000, len := 0x100, kind := k, ctx := 0, die := 0, sector := 0, ep := none, count := 1, stg := none, queue := none, seq := 80 + idx,
    born := idx, tags := [] }
/-- Answers and entries at die 0, and grants. -/
def atHome (a : List Answer) (e : List BEnt) (l : List Grant) : State :=
  se w0 fun s => { up s with grants := l, dies := [{ dieUp with answers := a, entries := e }] ++ List.replicate 7 dieUp }
/-- The answer stands at die 0, no residue of another holder lies under it, and its step happens. -/
noncomputable def answers (a : Answer) (i : Instr) : Bool :=
  let s := atHome [a] [en 0 .x] [wq]
  s.answerOf? 90 == some (0, a) && !s.foreignResidue 0 a.req && happened i s
theorem witness_GrantsAtHome_grant : let far : BReq := { rh with die := 1 }
    let ep : BReq := { rh with who := .endpoint 3 }
    let late : BReq := { rh with who := .grant 77 }
    let s := atHome [⟨rh, .given 0⟩] [en 0 .x] [wq]
    answers ⟨rh, .given 0⟩ (.grant 90 .granted) = true ∧ answers ⟨far, .given 0⟩ (.grant 90 .granted) = true ∧ answers ⟨late, .given 0⟩ (.grant 90 .granted) = true ∧
    answers ⟨ep, .given 0⟩ (.grant 90 .granted) = true ∧ answers ⟨rh, .denied none 4⟩ (.grantRequestFailed 90 .granted) = true ∧ answers ⟨far, .denied none 4⟩ (.grantRequestFailed 90 .granted) = true ∧
    s.grant? 20 = some wq ∧ s.grant? 77 = none ∧ wq.st = .waiting ∧ s.tagReady (s.holderAt wq.reg) ∧
    (ran (.grant 90 .granted) s).map (fun t => (t.grants.map fun g => (g.st, g.entry), (t.die 0).answers)) = some ([(.held, some 0)], []) ∧
    (ran (.grantRequestFailed 90 .granted) (atHome [⟨rh, .denied none 4⟩] [] [wq])).map (·.grants) = some [] := by decide +kernel
/-- A request that is lost on its way; an endpoint grants, reports a conflict, refuses. -/
theorem witness_GrantsAtHome_endpoint : let m : Rein := { rn 1 (.request { rh with ia := 2 ^ 44 }) with num := none }
    let l : State := { atHome [] [] [{ wq with ia := 2 ^ 44, home := 1 }] with links := [], reins := [m] }
    let y : Grant := { wq with ia := 8 * 2 ^ 48, home := 8 }
    let e : State := { atHome [] [] [y] with ebq := [{ rh with ia := 8 * 2 ^ 48, tryIt := true }] }
    l.answerOf? 90 = none ∧ l.lostRequest? 90 = some ({ rh with ia := 2 ^ 44 }, 2) ∧ (l.grant? 20).isSome = true ∧
    ((ran (.grantRequestFailed 90 .granted) l).map fun t => t.regFaults.map fun f => f.2.code) = some [LINK_PARTITION] ∧
    e.answerOf? 90 = none ∧ (e.ebq.find? (·.rid == 90)).isSome = true ∧ e.grant? 20 = some y ∧ e.tagReady (e.holderAt y.reg) ∧ e.lostRequest? 90 = none ∧
    happened (.grant 90 .granted) e = true ∧ happened (.grantRequestFailed 90 .granted) e = true ∧
    ((ran (.grantRequestFailed 90 .refused) e).map fun t => t.regFaults.map fun f => (f.2.code, f.2.info)) = some [(GRANT_FAILED, 40)] := by decide +kernel
theorem witness_GrantsAtHome_derive : let p : Grant := { gX with st := .lent, children := 1, gs := [(0x1000, 1), (0x1080, 2)] }
    let c : Grant := { gr 24 5 .x 0x1080 0x80 with st := .waiting, derive := some (.child 20), parent := some (20, 0, 2) }
    let s := atHome [] [] [p, c]
    let m (b : Bool) : Grant := { wq with derive := some (.moved b) }
    s.grant? 24 = some c ∧ s.grant? 20 = some p ∧ s.tagReady (s.holderAt c.reg) ∧
    (ran (.derive 24) s).map (fun t => t.grants.map fun g => (g.gid, g.st, g.gs)) = some [(20, .lent, [(0x1000, 1)]), (24, .held, [(0x1080, 2)])] ∧
    (atHome [] [] [m false]).grant? 20 = some (m false) ∧ happened (.derive 20) (atHome [] [] [m false]) = true ∧
    (atHome [] [] [m true]).tagReady ((atHome [] [] [m true]).holderAt (m true).reg) ∧
    happened (.derive 20) (atHome [] [] [m true]) = true := by decide +kernel
/-- A return that may go on. -/
def back (f : Grant → Grant) : Grant := f { gX with st := .returning, gs := [(0x1000, 1)] }
/-- It is idle, and its step happens. -/
noncomputable def returns (g : Grant) (l : List Grant) (path : Nat) : Bool :=
  let s := atHome [] [en 0 .x] (g :: l)
  s.grant? g.gid == some g && g.st == .returning && !g.returned && s.grantIdle g && !s.isParked (.ret g.gid) && happened (.returnGrant g.gid path) s
theorem witness_GrantsAtHome_return : let c := back fun g => { g with gid := 24, parent := some (20, 0, 2) }
    let w := back fun g => { g with window := some 0 }
    let f := back fun g => { g with home := 1, ia := 2 ^ 44 + 0x1000, gs := [(2 ^ 44 + 0x1000, 1)] }
    let s := atHome [] [en 0 .x] [f]
    returns c [{ gX with st := .lent, children := 1 }] 0 = true ∧ returns (back fun g => { g with lost := true }) [] 0 = true ∧ returns w [] 0 = true ∧
    w.kind = .x ∧ w.window ≠ none ∧ w.flushed = false ∧ (back id).window = none ∧ (∀ c ∈ (back id).gs, (atHome [] [en 0 .x] [back id]).mapped c.1 1) ∧ returns (back id) [] 0 = true ∧
    (s.holderAt f.reg).1 = 0 ∧ s.girthReach 0 f.home = .ok ∧ returns { f with gs := [] } [] 0 = true ∧ returns f [] 65 = true ∧
    (s.sendPacket 0 f.home 65 .write (scells f.gs (2 ^ 44 + 0x1000) 256) 0 f.by_ 0 0 f.reg.code).isSome = true ∧
    ({ s with links := [] } : State).girthReach 0 f.home = .fail 2 ∧ happened (.returnGrant 20 0) { s with links := [] } = true := by decide +kernel
theorem witness_GrantsAtHome_ends : let d := back fun g => { g with returned := true, gs := [] }
    let c : Grant := { d with gid := 24, parent := some (20, 0, 2) }
    let s := atHome [] [] [d]
    let t := atHome [] [] [{ gX with st := .lent, children := 1 }, c]
    let r : State := { atHome [] [en 0 .residue, { en 1 .residue with stg := some (2, 0) }] [] with kernels := [{ k0 with st := .draining, dies := [0] }] }
    let u : Grant := { gX with window := some 0 }
    let z : State := { atHome [] [] [u] with waves := [{ w0 with hold := .unstage 20 }] }
    let q : State := { r with dies := [{ dieUp with sweeping := [(1, 5)] }] }
    s.grant? 20 = some d ∧ (∀ m ∈ s.reins, m.kind ≠ .ret 20) ∧ (ran (.returnAcknowledged 20) s).map (·.grants) = some [] ∧ t.grant? 24 = some c ∧
    happened (.returnAcknowledged 24) t = true ∧ r.entry? 0 0 = some (en 0 .residue) ∧ r.residueLeaves 0 (en 0 .residue) = true ∧ r.inSlot = false ∧
    (ran (.residueWriteback 0 0) r).map (fun t => (t.die 0).entries.map (·.idx)) = some [1] ∧
    (∀ d < 0, (r.die d).entries.find? (fun e => e.seq == 81 && e.stg.isSome) = none) ∧ ((r.die 0).entries.find? fun e => e.seq == 81 && e.stg.isSome).isSome = true ∧
    (ran (.stagedWritebackDone 81) r).map (fun t => (t.die 0).entries.map (·.stg)) = some [none, none] ∧
    z.grant? 20 = some u ∧ z.fillOver 20 = true ∧ z.pendingOver 20 u.ia u.len = false ∧ (ran (.unstageWriteDone 20) z).map (fun t => t.waves.map (·.hold)) = some [.none] ∧
    (1, 5) ∈ (q.die 0).sweeping ∧ (ran (.tagSweepDone 0 1 5) q).map (fun t => (t.die 0).sweeping) = some [] := by decide +kernel

/-! The engines and units -/

/-- Between steps at a clk, with operations and the core's queues. -/
def sc (clk : Nat) (k : Kernel) (g : Group) (w : Wave) (ops : List CopyOp) (f : Core → Core) : State :=
  { up (st k g w) with cur := none, clk := clk, ops := ops, cores := [f { Core.reset with service := false }] }
/-- The engine queue holds these operations. -/
def eqs (l : List Nat) (c : Core) : Core := { c with engineQ := l }
/-- The bytes 0 to 127 of the scratchpad, as listed cells. -/
def spB : Store := (List.range 128).map fun i => (2 * 2 ^ 48 + i, BitVec.ofNat 8 i)

/-- One entry of 16 bytes goes from channel 0 to channel 1; three operations run; a slot-bound one needs its second segment. -/
theorem witness_EngineSteps_starts : let o : CopyOp := { cop with src := .chan 0, dst := .chan 1, len := 16, fired := false, started := false }
    let g : Group := { g0 with chans := [ch0, { ch0 with ch := 1, base := 0x200, p := 3, q := 0 }] }
    let s := sc 3000 k0 g w0 [o] (eqs [50])
    let r (n : Nat) : CopyOp := { cop with id := n }
    let q := sc 3000 k0 g0 w0 [r 40, r 41, r 42, { cop with started := false }] (eqs [50])
    let b : CopyOp := { cop with src := .grant 20, len := 70000, pos := 65536, segEnd := 65536 }
    let z : State := { sc 3000 k0 g0 w0 [b] id with grants := [gX] }
    s.op? 50 = some o ∧ o.fired = false ∧ o.chans ≠ [] ∧ 50 ∈ (s.core o.core).engineQ ∧ s.blockedAhead (s.core o.core) o = false ∧ s.groupStopped o.group = false ∧
    s.group? o.group = some g ∧ g.canFire o = true ∧ (ran (.copyFire 50) s).map (fun t => (t.groups.flatMap (·.chans)).map fun c => (c.claims, c.v)) = some [(1, 0), (0, 1)] ∧
    q.nextStart? 0 = some { cop with started := false } ∧ (0 : Nat) < q.cores.length ∧ (ran (.copyStart 0 0) q).map (fun t => (t.core 0).engineQ) = some [] ∧
    z.op? 50 = some b ∧ z.slotBound b = true ∧ b.segEnd < b.pos + z.chunkLen g0 b ∧ z.fitsSlot b.segBound = true ∧
    (ran (.segmentStart 50) z).map (fun t => t.ops.map (·.segEnd)) = some [70000] := by decide +kernel
/-- The first of two chunks, the last one, and an operation that only waited for its traffic. -/
theorem witness_EngineSteps_chunks : let s (p : Nat) : State := { sc 3000 k0 g0 w0 [{ cop with pos := p }] id with mem := spB }
    let c := s 0
    c.op? 50 = some cop ∧ (∀ i < 64, isSp (g0.spKey (512 + 0 + i)) = true ∧ isSp (g0.spKey (0 + 0 + i)) = true) ∧
     cop.kind ≠ .drain ∧ ((c.chunk cop 0).bind fun t => (t.op? 50).map t.opDone) = some false ∧ happened (.copyChunk 50 0) c = true ∧
    (((s 64).chunk { cop with pos := 64 } 0).bind fun t => (t.op? 50).bind t.finishOp).isSome = true ∧ happened (.copyChunk 50 0) (s 64) = true ∧
    (s 128).chunk { cop with pos := 128 } 0 = none ∧ ((s 128).finishOp { cop with pos := 128 }).isSome = true ∧ (ran (.copyChunk 50 0) (s 128)).map (·.ops) = some [] ∧
    c.chunkReady g0 cop (c.chunkLen g0 cop) = true ∧ c.srcReach g0 cop (c.chunkLen g0 cop) = .ok ∧ c.chunkServed g0 cop (c.chunkLen g0 cop) = true ∧ ((c.setOp cop).readStream g0 cop 0 64).isSome = true ∧
    (((c.setOp cop).readStream g0 cop 0 64).bind fun r => ((r.1.setOp cop).putChunk g0 cop r.2 0).bind fun t => t.op? 50).isSome = true ∧
    ((ran (.copyChunk 50 0) c).map fun t => (List.range 3).map fun i => sget? t.mem (2 * 2 ^ 48 + 512 + i)) = some [some 0, some 1, some 2] := by decide +kernel
/-- A waiting CHPUSH entry and a channel with room. -/
theorem witness_EngineSteps_chpush : let e := oe (.sp 2) (.chan 0 (List.replicate 16 7))
    let w : Wave := { w0 with outbox := [e] }
    let s := sc 3000 k0 { g0 with chans := [ch0] } w [] id
    s.wave? 3 = some w ∧ w.pushed? 0 = some (e, List.replicate 16 7) ∧ s.group? w.group = some { g0 with chans := [ch0] } ∧ ch0.room 1 = true ∧
    (ran (.chpushAccept 3 0) s).map (fun t => ((t.groups.flatMap (·.chans)).map (·.p), t.waves.map fun w => w.outbox.length)) = some ([2], [0]) := by decide +kernel

/-- The matrix queue holds one entry. -/
def mq (m : MatEnt) (c : Core) : Core := { c with matQ := [m] }
/-- A group with a reservation that an entry uses. -/
def gm : Group := { g0 with ress := [res2], laces := [lace1] }
/-- An OBLD of 256 bytes from registers, an MMA of one row, an MDRAIN of one row of .f32. -/
def mO : MatKind := .obld none (List.replicate 256 1) 0 256 8
def mM : MatKind := .mma [⟨3, 0x100, 3, [], 0, 0, true, 7⟩] 1 lace1 res2 .i8 0 0 0x100000 none
def mD : MatKind := .mdrain 0 1 0 256 0 256 0 0x3F800000 0 0 0 false false .rne .f32 false (List.replicate 32 0x3F8000003F800000) 51
def mOp : CopyOp := { cop with id := 51, kind := .drain, len := 256 }
/-- An entry that entered at clk 1000, started or not, when it is 3000. -/
def mw_ (k : MatKind) (t : Option Nat) : State := sc 3000 kv gm w0 [mOp] (mq { ment with wave := 3, kind := k, entered := 1000, started := t })

theorem witness_EngineSteps_matrix : let o := mw_ mO (some 2000)
    let m := (mw_ mM (some 2000)).snapAll
    let d := mw_ mD (some 2000)
    (mw_ mO none).matReady 0 = some { ment with wave := 3, kind := mO, entered := 1000 } ∧ happened (.matrixEntryStart 0 0) (mw_ mO none) = true ∧
    ((o.snapAll.matOver 0).bind (o.snapAll.doneObld 0)).isSome = true ∧ 2000 + 24 + cdiv 256 256 ≤ o.clk ∧ o.drained 3 ment.seq = true ∧ o.op? 51 = some mOp ∧
     gm.ress.find? (·.uid == res2.uid) = some res2 ∧
    (ran (.obldComplete 0 0) o).map (fun t => ((t.core 0).ob.length, (t.core 0).matQ.length)) = some (256, 0) ∧
    ((m.matOver 0).bind (m.doneMma 0)).isSome = true ∧ happened (.mmaComplete 0 0) (mw_ mM (some 2000)) = true ∧
    ((d.matOver 0).bind (d.doneMdrain 0)).isSome = true ∧ happened (.mdrainComplete 0 0) d = true := by decide +kernel
/-- An HCLR that may start, and one that is over, an HCW; a search; an activation bank. -/
theorem witness_EngineSteps_units : let u (t : Option Nat) (k : UnitKind) : UnitOp := { id := 6, wave := 3, pc := 0x100, issued := 1000, started := t, kind := k, read := [] }
    let s (o : UnitOp) : State := sc 3000 kv g0 w0 [] fun c => { c with unitQ := [o] }
    let a : State := sc 3000 kv g0 w0 [] fun c => { c with actLoads := [⟨true, 3000, { ActBank.zero with lo := 5 }⟩] }
    (s (u none (.clr 0))).unitReady 0 = some (u none (.clr 0)) ∧ happened (.unitOpStart 0 0) (s (u none (.clr 0))) = true ∧ (s (u (some 2996) (.clr 0))).unitOver 0 = some (u (some 2996) (.clr 0)) ∧
    (u none (.clr 0)).kind.time = 4 ∧ happened (.unitOpComplete 0 0) (s (u (some 2996) (.clr 0))) = true ∧ (s (u (some 2999) (.cw .w8))).unitOver 0 = some (u (some 2999) (.cw .w8)) ∧
    (ran (.unitOpComplete 0 0) (s (u (some 2999) (.cw .w8)))).map (fun t => t.waves.map (·.ctrw)) = some [.w8] ∧ (∃ l ∈ (a.core 0).actLoads, l.due ≤ a.clk) ∧
    (ran (.actldComplete 0 0) a).map (fun t => (t.core 0).act.bank1.lo) = some 5 := by decide +kernel
/-- An HSRCH2 of table 2 that waits, or is over; a table of `n` prototypes of zeros. -/
def sx (l : Option Nat) : Search := { id := 6, wave := 3, pc := 0x100, d := 10, two := true, table := 2, query := List.replicate 128 1, left := l, suspended := false, overran := none }
def ss (n : Nat) (l : Option Nat) : State := { sc 3000 kv g0 w0 [] id with
  dies := [{ dieUp with tables := List.replicate 8 { owner := 0, base := 0, n := n }, searches := [sx l] }], mem := (List.range 1024).map fun i => (2 ^ 48 + (2 ^ 28 - 32 * 2 ^ 20) + i, 0) }
/-- A search of an empty table finds nothing; a table of one prototype answers its distance. -/
theorem witness_EngineSteps_searches : (ss 1 none).searchReady 0 = some (sx none) ∧ (ss 1 none).geodeHeld 0 (sx none) = false ∧ (ss 1 none).fitsSlot (searchTime 1) = true ∧ (ss 1 none).protoCount 0 (sx none) = 1 ∧ (ss 1 none).wave? 3 = some w0 ∧ (ss 1 none).groupStopped w0.group = false ∧
    (ran (.geodeSearchStart 0) (ss 1 none)).map (fun t => (t.die 0).searches.map (·.left)) = some [some 33] ∧
    (ss 1 (some 0)).searchOver 0 = some (sx (some 0)) ∧ (ss 1 (some 0)).protoCount 0 (sx (some 0)) = 1 ∧
    (ran (.geodeSearchComplete 0) (ss 0 (some 0))).map (fun t => t.waves.map fun v => (v.sget 10, v.sget 11)) = some [(0xFFFFFFFF, 65535)] := by decide +kernel
/-- A sector of the scratchpad becomes uncorrectable before a load reads it. -/
theorem witness_EngineSteps_errors : let s := se { w0 with loads := [ld0] } id
    s.wave? 3 = some { w0 with loads := [ld0] } ∧ ({ w0 with loads := [ld0] } : Wave).loads.find? (·.id == 7) = some ld0 ∧ ld0.atomic = false ∧
    ld0.lanes.find? (fun r => r.got.isNone && r.lane == 1) = some ⟨1, 248, none⟩ ∧ (s.readPlace? (s.coreOf w0) ld0.tgt ld0.hint 248).isSome = true ∧ tierFits 3 ((s.readPlace? (s.coreOf w0) ld0.tgt ld0.hint 248).getD 0) = true ∧
    (ran (.uncorrectableError (.load 3 7 1 0) 3) s).map (fun t => (t.bad.length, t.waves.map fun v => (v.loads.length, v.deferred.map (·.code)))) = some (1, [(0, [MEM_UNCORRECTABLE])]) ∧
    (ran (.correctableError 0) s).map (fun t => (t.die 0).corrected) = some 1 := by decide +kernel

/-! Groups, pages and contexts -/

/-- The kernel whose one group is still to be placed. -/
def kl : Kernel := { k0 with st := .launching, placed := 0, dies := [] }
/-- Between steps, every link UP. -/
def sg (k : Kernel) (g : List Group) (w : List Wave) (f : State → State) : State :=
  f { up (st k g0 w0) with cur := none, groups := g, waves := w, cores := [{ Core.reset with service := false }] }

theorem witness_GroupsPagesContexts_placement : let s := sg kl [] [] id
    s.launchOrder.findSome? (fun k => (s.choosePlace k k.placed (s.fitsOn k)).map fun u => (k, u)) = some (kl, 0, 0, [0]) ∧
    (ran .placement s).map (fun t => t.groups.map fun g => (g.die, g.cores, g.bases)) = some [(0, [0], [0])] ∧
    (ran .placement s).map (fun t => t.waves.map fun w => (w.index, w.parts.map (·.lanes))) = some [(0, [0xFFFFFFFF])] ∧
    (ran .placement s).map (fun t => t.kernels.map fun k => (k.st, k.placed)) = some [(.running, 1)] := by decide +kernel
theorem witness_GroupsPagesContexts_ends : let g : Group := { g0 with st := .exiting, bars := [b5] }
    let e : Wave := { w0 with st := .ended, parts := [] }
    let s := sg k0 [g] [e] id
    let k : Kernel := { k0 with st := .draining, done := 1, reports := some [] }
    let d := sg k [{ g0 with st := .done }] [{ e with slotHeld := false }] id
    s.group? 2 = some g ∧ s.drainOver g = true ∧ (ran (.groupDrainComplete 2) s).map (fun t => t.groups.map fun g => (g.st, g.bars.length)) = some [(.done, 0)] ∧
    d.kernel? 1 = some k ∧ k.st = .draining ∧ k.reports = some [] ∧ d.kernelQuiet k = true ∧ d.residuesOver k = true ∧
    (ran (.completion 1) d).map (fun t => (t.waves.length, t.groups.length)) = some (0, 0) := by decide +kernel
/-- A load of page 0 of die 0 whose page is unmapped. -/
def up0 (f : Die → Die) : State :=
  let l : LoadP := { ld0 with tgt := .grant 20, lanes := [⟨0, 0x1000, none⟩] }
  { sg k0 [g0] [{ w0 with loads := [l] }] id with grants := [gX], clk := 3100, dies := [f { Die.reset with inReset := false }] }
/-- Its parked form. -/
def pp : Parked := { ref := .load 3 7, ia := 0x1000, ctx := some 0, since := 100 }
theorem witness_GroupsPagesContexts_pages : let s := up0 id
    let f := up0 fun d => { d with parked := List.replicate 4096 { pp with ref := .flag 99 } }
    let b := up0 fun d => { d with bouncedAcc := [(pp, 100)] }
    let m := up0 fun d => { d with ptroot := 1, bouncedAcc := [(pp, 100)], runs := [{ page := 0, size := 4, pfn := 0 }] }
    s.lineParked (.load 3 7) 0x1000 = false ∧ s.needsByte (.load 3 7) 0x1000 = true ∧ s.unmappedAt 0x1000 = some (1, 0) ∧ (s.die 0).parked.length < 4096 ∧
    (ran (.park (.load 3 7) 0x1000) s).map (fun t => ((t.die 0).parked.length, (t.ctx 0).faults.map (·.code))) = some (1, [PAGE_UNMAPPED]) ∧
    f.lineParked (.load 3 7) 0x1000 = false ∧ f.needsByte (.load 3 7) 0x1000 = true ∧ f.unmappedAt 0x1000 = some (1, 0) ∧ 4096 ≤ (f.die 0).parked.length ∧
    (ran (.park (.load 3 7) 0x1000) f).map (fun t => (t.die 0).bounced) = some 1 ∧
    (b.die 0).bouncedAcc.find? (fun b => b.1.ref == .load 3 7 && b.1.ia == 0x1000) = some (pp, 100) ∧ 100 + 3000 ≤ b.clk ∧ (b.walk 0x1000).2 = some (1, 0) ∧
    (ran (.bounceResend (.load 3 7) 0x1000) b).map (fun t => (t.die 0).parked.length) = some 1 ∧ (m.walk 0x1000).2 = none ∧
    (ran (.bounceResend (.load 3 7) 0x1000) m).map (fun t => (t.die 0).bouncedAcc.length) = some 0 := by decide +kernel
/-- The range register of 16 KiB at 2^42 − 16 KiB, the last that fits. -/
theorem witness_GroupsPagesContexts_registers : let s := sg k0 [g0] [w0] id
    let b := up0 fun d => { d with busy := true }
    (b.die 0).busy = true ∧ (ran (.shootDownDone 0) b).map (fun t => (t.die 0).busy) = some false ∧
    (ran (.xinv 0 (2 ^ 62)) (up0 fun d => { d with runs := [⟨0, 16, 0⟩, ⟨16, 16, 64⟩] })).map (fun t => (t.die 0).runs) = some [⟨16, 16, 64⟩] ∧
    (32 : BitVec 6).toNat ≤ 32 ∧ (∀ t ∈ (s.die 0).tables, t.n = 0) ∧ (s.die 0).entries = [] ∧ s.queues = [] ∧ (ran (.gmibWrite 0 16) s).map (fun t => (t.die 0).gmib) = some 16 ∧
    (s.ctx 0).st ≠ .free ∧ (mapOf (BitVec.ofNat 64 ((2 ^ 42 - 1) * 2 ^ 14 + 1)) 0 1).ok = true ∧
    (ran (.rangeRegisterSet 0 3 (BitVec.ofNat 64 ((2 ^ 42 - 1) * 2 ^ 14 + 1)) 0 1) s).map (fun t => ((t.ctx 0).maps.getD 3 ⟨0, 0, 0⟩).w2) = some 1 ∧
    (mapOf 0 (BitVec.ofNat 64 (3 * 2 ^ 48)) 1).ok = false ∧ (ran (.rangeRegisterSet 0 3 0 (BitVec.ofNat 64 (3 * 2 ^ 48)) 1) { s with ctxs := [{ codeCtx with st := .creating }] }).map (fun t => (t.ctx 0).st) = some .free := by decide +kernel
/-- Context 0 in a state. -/
def sx0 (c : Ctx) (f : State → State) : State := sg k0 [g0] [w0] fun s => f { s with ctxs := [c] }
/-- Bytes of zero in main memory of die 0. -/
def zb (a n : Nat) : Store := (List.range n).map fun i => (physKey 0 (a + i), 0)
/-- A queue of context 0. -/
def q4 : Queue := { Queue.reset 5 with st := 4, prio := 1 }
theorem witness_GroupsPagesContexts_preempt : let a := sx0 { codeCtx with saveCap := 200000 } id
    let p := sx0 { codeCtx with saveCap := 200000, preempting := true } id
    let r := sx0 { codeCtx with st := .preempted } fun s => { s with queues := [q4], groups := [], waves := [], mem := zb 0 64 }
    let sp : CtxSpec := { maps := [(15, 0, 1)], vdies := 8, stchk := true, det := false, faultDie := 0, faultPa := 0x2000, faultCap := 4, saveBytes := 9 }
    (a.ctx 0).preempting = false ∧ a.ctxGroups 0 .running = [g0] ∧ (a.ctx 0).saveUsed + ((a.ctxGroups 0 .running).map a.frameNeed).sum ≤ (a.ctx 0).saveCap ∧
    (ran (.contextPreempt 0) a).map (fun t => (t.ctx 0).preempting) = some true ∧ (∀ g ∈ p.ctxGroups 0 .running, p.groupQuiet g = true) ∧
    (ran (.contextPreempt 0) p).map (fun t => ((t.ctx 0).st, t.groups.map (·.st))) = some (.preempted, [.swapped]) ∧
    (ran (.contextResume 0) r).map (fun t => ((t.ctx 0).st, t.queues.map (·.st))) = some (.active, [0]) ∧ (ran (.contextResume 0) a).isSome = true ∧
    (sx0 Ctx.reset id).ctx 0 = Ctx.reset ∧ (ran (.contextCreate 0 sp) (sx0 Ctx.reset id)).map (fun t => ((t.ctx 0).st, (t.ctx 0).stchk)) = some (.creating, true) ∧
    (ran (.contextCreate 0 sp) (sx0 { codeCtx with st := .creating } id)).map (fun t => (t.ctx 0).st) = some .active := by decide +kernel
theorem witness_GroupsPagesContexts_kill : let a := sx0 codeCtx id
    let k := sx0 { codeCtx with st := .killing } id
    let r (w : Bool) := sx0 { codeCtx with st := .reclaiming, walked := w } id
    (ran (.contextKill 0) (sx0 { codeCtx with st := .creating } id)).map (fun t => (t.ctx 0).st) = some .free ∧
    (ran (.contextKill 0) a).map (fun t => ((t.ctx 0).st, t.waves.map (·.st))) = some (.killing, [.ended]) ∧
    (ran (.killRelease 0 []) k).map (fun t => ((t.ctx 0).st, t.groups.map (·.st))) = some (.reclaiming, [.done]) ∧
    (ran (.reclaimWalk 0) (r false)).map (fun t => (t.ctx 0).walked) = some true ∧ (r true).reins = [] ∧
    (ran (.walkDone 0) (r true)).map (fun t => ((t.ctx 0).st, t.kernels.length)) = some (.free, 0) ∧
    (a.die 0).retired = false ∧ (ran (.dieRetirement 0) a).map (fun t => ((t.die 0).retired, (t.ctx 0).vdies, (t.ctx 0).faults.map (·.code))) = some (true, 0, [DIE_RETIRED]) := by decide +kernel

/-! Queues and registers -/

/-- Context 0 with 16 KiB of main memory at VA 0, of die 0's Slate at 0x4000, of endpoint 0 at 0x8000. -/
def qctx : Ctx := { codeCtx with maps := [mapOf 0xF 0 1, mapOf 0x400F (2 ^ 48) 1, mapOf 0x800F (2 ^ 51) 1] }
/-- Queue 5: 64 entries at 0x1000, doorbell at 0x2000, READY. -/
def q5 : Queue := { Queue.reset 5 with ring := 0x1000, dbell := 0x2000, st := 1, priv := true }
/-- Cells of main memory of die 0. -/
def cells (a : Nat) (l : List Byte) : Store := l.zipIdx.map fun b => (physKey 0 (a + b.2), b.1)
/-- An entry of 64 bytes. -/
def entry (l : List Byte) : List Byte := l ++ List.replicate (64 - l.length) 0
def le8 (n : Nat) : List Byte := leBytes 8 n
/-- One entry is in the ring of a queue; the device is in full service. -/
def sq (e : List Byte) (q : Queue) (f : State → State) : State :=
  f { ep0 (st k0 g0 w0) with cur := none, groups := [], waves := [], kernels := [], ctxs := [qctx], queues := [q], mem := cells 0x1000 (entry e) ++ cells 0x2000 (le8 1 ++ le8 0), cores := [] }
/-- The dispatcher starts it by its code. -/
noncomputable def starts (e : List Byte) (i : Instr) (f : State → State) : Bool :=
  let s := sq e q5 f
  s.dispatches && s.nextQueue? == some q5 && (s.takeEntry 5).isSome && s.headCode q5 == operand e 0 1 && happened .dispatch s && happened i s
/-- A LAUNCH record at 0x3000: one group of one wave. -/
def record1 : List Byte := [0x100, 0, 1 + 2 ^ 32, 1, 0, 7, 1, 2, 3, 4, 5, 6, 7, 8, 0, 0].flatMap le8
def withRec (s : State) : State := { s with mem := s.mem ++ cells 0x3000 record1 }
def eLaunch : List Byte := le8 1 ++ le8 0x3000
def eWait (v : Nat) : List Byte := le8 2 ++ [5, 0, 0, 0, 0, 0, 0, 0] ++ le8 v
def eMark : List Byte := le8 3 ++ le8 9
def eSignal : List Byte := le8 4 ++ le8 7 ++ le8 0x8000 ++ le8 0x8008
def eSlate (n : Nat) : List Byte := le8 5 ++ le8 0x3000 ++ le8 0x4000 ++ le8 n
def eGeode (n : Byte) : List Byte := le8 6 ++ le8 0x3000 ++ [7, 0, 0, 0, n, 0, 0, 0]
def eReplay : List Byte := le8 7 ++ le8 255

theorem witness_QueueSteps_starts : starts eLaunch (.launch 5) withRec = true ∧ starts (eWait 9) (.waitq 5) id = true ∧ starts eMark (.mark 5) id = true ∧
    starts eSignal (.signal 5) (fun s => s.setLink 32 { s.link 32 with st := 1 }) = true ∧ starts (eSlate 256) (.slatew 5) id = true ∧ starts (eGeode 1) (.geodew 5) id = true ∧ starts eReplay (.replay 5) id = true ∧
    starts (le8 8) (.fenceq 5) id = true ∧ (sq (eWait 9) q5 id).queue 5 = q5 ∧ q5.inflight = [] ∧
    ((sq eMark q5 id).hWrite ((leBytes 8 (q5.consumed + 1)).zipIdx.map fun b => (q5.dbell + 8 + b.2, b.1))).2 = true ∧
    (ran (.mark 5) (sq eMark q5 id)).map (fun t => t.queues.map fun q => (q.mark, q.consumed, q.st)) = some [(9, 1, 0)] := by decide +kernel
theorem witness_QueueSteps_heads : (sq eMark q5 id).heads 5 q5 (entry eMark) := by
  refine ⟨?_, ?_, ?_, ?_, ?_, ?_⟩ <;> decide +kernel
theorem witness_QueueSteps_entries : let s := sq (eSlate 256) q5 id
    let x := s.ctx 0
    entryOk (entry (le8 9)) = false ∧ entryOk (entry (le8 0x103)) = false ∧ (∀ e ∈ [eLaunch, eWait 9, eMark, eSignal, eSlate 256, eGeode 1, eReplay, le8 8], entryOk (entry e) = true) ∧
    (s.queue 5).owner = 0 ∧ (9 : Nat) > q5.mark.toNat ∧ operand (eWait 9) 8 2 = 5 ∧ operand (eWait 9) 16 8 = 9 ∧
    operand eLaunch 8 8 % 64 = 0 ∧ (withRec s).commandIa? 0 (operand eLaunch 8 8) 128 0 = some 0x3000 ∧ (withRec s).mapped 0x3000 128 ∧ ((withRec s).hRead 0x3000 128).2 = some record1 ∧ recordOk (recordWords record1) = true ∧
    recordOk (recordWords (List.replicate 128 0)) = false ∧
    operand (eSlate 256) 24 8 = 256 ∧ s.commandIa? 0 (operand (eSlate 256) 8 8) 256 0 = some 0x3000 ∧ s.commandIa? 0 (operand (eSlate 256) 16 8) 256 1 = some (2 ^ 48) ∧
    (2 ^ 48) % 2 ^ 44 + 256 ≤ s.geodeBase 0 ∧ s.saddleReach 0 = .ok ∧ operand (eGeode 1) 20 4 = 1 ∧ operand (eGeode 1) 16 1 = 7 ∧
    s.commandIa? 0 0x3000 (max (1024 * 1) 1) 0 = some 0x3000 ∧ physDie? x.vdies (operand (eGeode 1) 17 1) = some 0 ∧
    s.commandIa? 0 (operand eSignal 16 8) 8 1 = some (2 ^ 51) ∧ s.commandIa? 0 (operand eSignal 24 8) 8 1 = some (2 ^ 51 + 8) ∧ homeOf (2 ^ 51) = homeOf (2 ^ 51 + 8) := by decide +kernel
/-- A WAITQ whose MARK has come; a SLATEW that holds its entry; GEODEW of 0, of 1 and of more prototypes than fit. -/
def fly (c : Cmd) : Queue := { q5 with inflight := [(9, c)], st := 2, consumed := 1 }
def sw (f : State → State) : State := sq [] (fly (.slatew 0x3000 (2 ^ 48) 256)) f
def gw (n : Nat) : State := sq [] (fly (.geodew 0x3000 0 7 n)) id
theorem witness_QueueSteps_completions : let c : Queue := { fly (.waitq 5 3) with mark := 3 }
    (((sq [] c id).queue 5).inflight.find? fun c => match c.2 with
        | .waitq t v => decide (v.toNat ≤ ((sq [] { fly (.waitq 5 3) with mark := 3 } id).queue t).mark.toNat)
        | _ => false).isSome = true ∧ (ran (.waitq 5) (sq [] c id)).map (fun t => t.queues.map fun q => q.inflight.length) = some [0] := by decide +kernel
/-- The entry that SLATEW holds, and its state. -/
def hw : BEnt := { en 0 .x with ia := 2 ^ 48, queue := some 5 }
def sh : State := sw fun s => { s with dies := [{ dieUp with entries := [hw] }] ++ List.replicate 7 dieUp }
theorem witness_QueueSteps_slate : (sh.queue 5).inflight = [(9, .slatew 0x3000 (2 ^ 48) 256)] ∧ sh.slateHeld 5 0 = some hw ∧ sh.inSlot = false ∧ sh.isParked (.command 5) = false ∧
    sh.saddleReach 0 = .ok ∧ sh.sourceReach 0x3000 = true ∧ sh.mapped 0x3000 256 ∧ sh.mapped (2 ^ 48) 256 ∧ happened (.slatewComplete 5) sh = true := by decide +kernel
theorem witness_QueueSteps_geode : let g := gw 0
    (g.queue 5).inflight = [(9, .geodew 0x3000 0 7 0)] ∧ (g.die 0).retired = false ∧ g.isParked (.command 5) = false ∧ g.saddleReach 0 = .ok ∧ g.inSlot = false ∧
    (g.die 0).searches = [] ∧ ((g.die 0).tables.getD 7 { owner := 0, base := 0, n := 0 }).n = 0 ∧ happened (.geodewComplete 5) g = true ∧
    g.sourceReach 0x3000 = true ∧ (gw 32769).freeSlots? 0 7 32769 = none ∧ happened (.geodewComplete 5) (gw 32769) = true := by decide +kernel
theorem witness_QueueSteps_geode_bytes : (gw 1).freeSlots? 0 7 1 = some 0 ∧ (gw 1).mapped 0x3000 1024 ∧ (gw 1).mapped (2 ^ 48 + (gw 1).geodeBase 0) 1024 ∧ (gw 1).isParked (.command 5) = false := by decide +kernel
theorem witness_QueueSteps_registers : let s := sq [] q5 id
    ((0 : Word).toNat = s.ver0) ∧ (0 : Word).toNat = s.ver1 ∧ (ran (.registerWrite ⟨.saddleTree, .minVersion 1⟩ 0) s).isSome = true ∧
    (let v : Word := 0xFFFF0001; fld (v &&& 0xFFFF0003) 16 16 ≠ 0 ∧ ((wset s.fabric 8191 (v &&& 0xFFFF0003)).filter fun x => x.2.getLsbD 0 && !x.2.getLsbD 1).length ≤ 64 ∧
      happened (.fabricTableWrite 8191 v) s = true) ∧ (windowOf 0x1F 0x1000 (2 ^ 48) 1).ok = true ∧ happened (.inboundWindowWrite 4095 0x1F 0x1000 (2 ^ 48) 1) s = true ∧
    (0 : Nat) < 4 * 4095 ∧ (ran (.registerWrite ⟨.rigging, .ptroot 3⟩ (BitVec.allOnes 64)) s).map (fun t => (t.die 3).ptroot) = some 0x0000FFFFFFFFFE01 ∧
    (0x1008 : Nat) % 8 = 0 ∧ 0x1008 < installed ∧ s.inSlot = false ∧ happened (.registerWrite ⟨.saddleTree, .physWord 0 0x1008⟩ 7) s = true ∧
    permits .rigging .brandw 7 = false ∧ (ran (.registerWrite ⟨.rigging, .brandw⟩ 7) s).isSome = true ∧ s.riggingRuns = true ∧ s.swapStat = 0 ∧
    (ran (.registerWrite ⟨.rigging, .swap⟩ 0x5001) s).map (fun t => (t.swapStat, t.swapFrom)) = some (1, 0x5000) ∧
    (ran (.registerWrite ⟨.rigging, .swap⟩ 0x5000) s).map (fun t => (t.swapStat, t.swapImg)) = some (0, 0x5000) ∧
    (ran (.registerWrite ⟨.rigging, .replay⟩ 0xFF) { s with dies := { dieUp with recorded := [(0, 1)] } :: s.dies.drop 1 }).map (fun t => (t.die 0).recorded) = some [] ∧
    (ran (.queueReset 5) s).map (fun t => t.queues.map fun q => (q.st, q.consumed)) = some [(0, 1)] := by decide +kernel

/-! Links and the fabric -/

/-- Link 0 in a state of its record; the clk is 100,000, between slots. -/
def lk (l : Link) : State := { up (st k0 g0 w0) with cur := none, clk := 100000, links := { n := 0, link := l } :: (linkNumbers.drop 1).map fun n => { n := n, link := { Link.reset with st := 2 } } }
/-- An UP link, a TRAINING one. -/
def lUp : Link := { Link.reset with st := 2 }
def lTr : Link := { Link.reset with st := 1, attempts := 1, deadline := linkTime 100000 }
/-- All 32 lanes at width 32, both rein lanes. -/
def full_ : LinkView := { width := 32, lanes := 0xFFFFFFFF, rein := 3, half := false }
theorem witness_LinkSteps_links : (lk lUp).link 0 = lUp ∧ (lk lTr).link 0 = lTr ∧ linkTime 100000 ≤ lTr.deadline ∧ trainResult 0 full_ full_ = some (32, 0xFFFFFFFF, 2, false) ∧
    (ran (.trainingAttempt 0 ⟨full_, full_⟩ ⟨full_, full_⟩) (lk lTr)).map (fun t => ((t.link 0).st, (t.link 0).width, (t.link 0).attempts)) = some (2, 32, 2) ∧
    trainResult 0 { full_ with rein := 0 } full_ = none ∧ (ran (.trainingAttempt 0 ⟨{ full_ with rein := 0 }, full_⟩ ⟨full_, { full_ with rein := 0 }⟩) (lk lTr)).map (fun t => ((t.link 0).st, (t.link 0).attempts)) = some (1, 2) ∧
    (ran (.trainingAttempt 0 ⟨full_, full_⟩ ⟨full_, full_⟩) (lk { lTr with attempts := 2, deadline := 0 })).map (fun t => (t.link 0).st) = some 0 ∧
    (ran (.trainingAttempt 0 ⟨full_, { full_ with width := 16 }⟩ ⟨full_, full_⟩) (lk lTr)).map (fun t => (t.link 0).st) = some 1 ∧ lUp.after ≤ (lk lUp).clk ∧
    (ran (.flitReplay 0) (lk { lUp with replayTimes := List.replicate 62 60000 })).map (fun t => ((t.link 0).st, (t.link 0).replays)) = some (2, 1) ∧
    (ran (.flitReplay 0) (lk { lUp with replayTimes := List.replicate 63 60000 })).map (fun t => (t.link 0).st) = some 1 ∧
    (ran (.linkFence 0) (lk lUp)).map (fun t => (t.link 0).st) = some 4 ∧ (ran (.linkFault 0) (lk { lUp with faultTimes := [60000, 60001] })).map (fun t => (t.link 0).st) = some 0 := by decide +kernel
theorem witness_LinkSteps_states : lUp.st ≤ 3 ∧ 3 < ({ lUp with st := 4 } : Link).st ∧ lUp.st ≠ 5 ∧ ({ lUp with st := 5 } : Link).st = 5 ∧ ({ lUp with st := 4 } : Link).st = 4 ∧ lUp.st ≠ 4 ∧
    lTr.st = 1 ∧ lTr.attempts < 2 ∧ 2 ≤ ({ lTr with attempts := 2 } : Link).attempts ∧ (([60000, 60001] : List Nat).filter fun t => decide (linkTime 100000 < t + 3000000000)).length = 2 := by decide +kernel
/-- Die 1 may be reset without parting others; a drain phase is over, or has run out with a packet of others inside. -/
theorem witness_LinkSteps_dies : let s := lk lUp
    let d (t : Nat) : State := { s with dies := (List.replicate 8 dieUp).set 1 { dieUp with resetting := .drain t } }
    let p : Packet := { pk 2 .write [(2 * 2 ^ 44 + 0x1000, 9)] with path := 1 + 32 * (2 + 32 * 3) }
    let x : State := { d (linkTime 100000) with packets := [p] }
    s.inService 1 = true ∧ (s.die 1).resetting = .none ∧ s.keepsRoutes 1 = true ∧ (ran (.dieReset 1 false) s).map (fun t => (t.die 1).resetting) = some (.drain (linkTime 100000 + 60000)) ∧
    ((d 9).die 1).resetting = .drain 9 ∧ (d 9).crossed 1 = true ∧ ((d 9).die 1).entries = [] ∧ (ran (.dieDrainDone 1) (d 9)).map (fun t => (t.die 1).resetting) = some .reset ∧
    x.packetsIn 1 = [p] ∧ (x.die 1).resetting = .drain (linkTime 100000) ∧ (ran (.drainExpiry 1) x).map (fun t => (t.packets.length, (t.wave? 3).map fun w => w.deferred.map (·.code))) =
      some (0, some [LINK_PARTITION]) := by decide +kernel
/-- Endpoint 0 sees 4 KiB of die 0's Slate at offset 0 of its window 1, for every use; the flag lies in the same window. -/
def wn (s : State) : State := { ep0 s with windows := [(0, 0x1F), (2, 2 ^ 48), (3, 1)], mem := (List.range 512).map fun i => (2 ^ 48 + i, 0), cur := none, clk := 100000 }
theorem witness_LinkSteps_inbound : let s := wn (st k0 g0 w0)
    let t := s.touchDeliv 0
    let h : BEnt := { en 0 .x with ia := 2 ^ 48, ep := some 0 }
    let r : State := { s with dies := [{ dieUp with entries := [h] }] ++ List.replicate 7 dieUp }
    (s.link 32).carries false = true ∧ t.inboundIa? 0 1 0 8 1 = some (2 ^ 48) ∧ t.inboundIa? 0 1 4088 8 1 = some (2 ^ 48 + 4088) ∧ t.inboundIa? 0 1 4089 8 1 = none ∧
    t.inboundReach 0 (homeOf (2 ^ 48)) true = true ∧ t.inboundReach 0 (homeOf (2 ^ 48)) false = true ∧ t.inSlot = false ∧ (t.hRead (2 ^ 48) 8).2.isSome = true ∧
    (ran (.inboundAccess 0 1 0 (.load 0 8)) s).isSome = true ∧ s.mapped (2 ^ 48) 8 ∧ (ran (.inboundAccess 0 1 0 (.load 4089 8)) s).map (fun t => (t.link 32).refused) = some 1 ∧
    t.inboundIa? 0 1 0 2 2 = some (2 ^ 48) ∧ (t.hWrite [(2 ^ 48, 5), (2 ^ 48 + 1, 6)]).2 = true ∧ happened (.inboundAccess 0 1 0 (.write 0 [5, 6] none)) s = true ∧
    (t.hWrite [(2 ^ 48, 5), (2 ^ 48 + 1, 6)]).1.inboundIa? 0 1 8 8 2 = some (2 ^ 48 + 8) ∧ (ran (.inboundAccess 0 1 0 (.write 0 [5, 6] (some 8))) s).map (fun t => (t.flags.map (·.ia), sget? t.mem (2 ^ 48 + 1))) = some ([2 ^ 48 + 8], some 6) ∧
    t.inboundIa? 0 1 0 8 4 = some (2 ^ 48) ∧ (ran (.inboundAccess 0 1 0 (.atomic 0 .add true 5 0)) s).map (fun t => t.hqs.map (·.1)) = some [0] ∧
    t.inboundIa? 0 1 0 256 (kindPerm .x) = some (2 ^ 48) ∧ (ran (.inboundAccess 0 1 0 (.grantReq 0 256 .x)) s).map (fun t => (t.die 0).incoming.length) = some 1 ∧
    (∀ b ∈ [(3, (7 : Byte))], b.1 < 256) ∧ (ran (.inboundAccess 0 1 0 (.ret 0 256 .x [(3, 7)])) r).map (fun t => ((t.die 0).entries.length, sget? t.mem (2 ^ 48 + 3))) = some (0, some 7) ∧
    (ran (.inboundAccess 1 1 0 (.grantReq 0 256 .s)) s).map (fun t => (t.link 32).refused) = some 1 := by decide +kernel
/-- A packet in the selective mode whose last send is 16 µs old, one 1 ms old; an acknowledgement; a delivery context. -/
theorem witness_LinkSteps_reliability : let p : Packet := { pk 8 .write [(2 ^ 51, 9)] with arrived := true, sel := true, first := 2048, last := 2048 }
    let s (clk : Nat) : State := { up (st k0 g0 w0) with clk := clk, cur := none, fabric := [(0, 0x10003)], packets := [p], acks := [⟨40, 3, 0, 1⟩], delivs := [⟨0, 2048, 0⟩] }
    (s 50048).packets.find? (·.id == 40) = some p ∧ 8 ≤ p.dst ∧ p.numbered = true ∧ (s 50048).inSlot = false ∧ linkTime p.last + 48000 ≤ linkTime 50048 ∧
    (ran (.packetResend 40) (s 50048)).map (fun t => t.packets.map (·.last)) = some [50048] ∧ linkTime p.first + 3000000 ≤ linkTime 3200000 ∧
    (ran (.packetTimeout 40) (s 3200000)).map (fun t => t.packets.length) = some 0 ∧ (s 50048).epSelective 0 = true ∧
    (ran (.selectiveAck 0 0 1) (s 50048)).map (fun t => (t.packets.length, t.acks.length)) = some (0, 0) ∧ (s 26048).delivs.find? (·.ep == 0) = some ⟨0, 2048, 0⟩ ∧
    linkTime 2048 + 24000 ≤ linkTime 26048 ∧ (ran (.deliveryContextClose 0) (s 26048)).map (fun t => t.delivs.length) = some 0 := by decide +kernel
/-- A flag message to an endpoint that nothing has acknowledged for 16 µs. -/
theorem witness_LinkSteps_messages : let m : Rein := { rn 8 (.flag (2 ^ 51) 0x100 2 false 9) with last := 2048 }
    let s : State := srn m fun s => { ep0 s with clk := 50048 }
    s.packets.find? (·.id == 60) = none ∧ s.reins.find? (·.id == 60) = some m ∧ m.num ≠ none ∧ 8 ≤ m.dst ∧ m.dst ≠ saddle ∧ linkTime m.last + 48000 ≤ linkTime s.clk ∧
    (ran (.packetResend 60) s).map (fun t => t.reins.map (·.last)) = some [50048] := by decide +kernel

/-! Slots, sensors, start-up and recovery -/

/-- The machine between steps at a clk. -/
def at_ (clk : Nat) (f : State → State) : State := f { up (st k0 g0 w0) with cur := none, clk := clk }
/-- Die readings of 114.9 and 115 °C. -/
def rd : Readings := { dies := [(1839, 0, 0, 0), (1840, 0, 0, 0)], vin := 1, tout := 2, tin := 3, pmod := 4, ppkg := 5 }
theorem witness_SlotsAndRecovery_slots : let o : CopyOp := { cop with src := .grant 20, len := 70000, pos := 0, segEnd := 65536 }
    let b := at_ 131072 fun s => { s with ops := [o], grants := [gX] }
    let e := at_ 133120 fun s => { s with ops := [{ o with suspended := true }], inSlot := true }
    let s := at_ (131072 + 2047) fun s => { s with msens0 := BitVec.ofNat 64 (2 ^ 48), dies := (List.replicate 8 dieUp).set 1 { dieUp with hotAt := some 1 } }
    b.inSlot = false ∧ b.clk % 65536 = 0 ∧ (ran .slotBegin b).map (fun t => (t.inSlot, t.ops.map (·.suspended))) = some (true, [true]) ∧ e.inSlot = true ∧ 2048 ≤ e.clk % 65536 ∧
    (ran .slotEnd e).map (fun t => (t.inSlot, t.ops.map (·.suspended))) = some (false, [false]) ∧ s.stage ≠ .off ∧ s.clk % 65536 = 2047 ∧
    s.swept ≠ some (s.clk / 65536) ∧ (ran (.sensorSweep rd) s).map (fun t => (t.msens0, (t.die 0).sens2, (t.die 1).retired)) = some (0x0002000100020003, 1, true) := by decide +kernel
/-- A sampler of 1 record of the group, on since clk 84 with period 16: with room, and full. -/
theorem witness_SlotsAndRecovery_sampler : let m : Sampler := { Sampler.reset with owner := some 2, cap := 1, period := 16, on := true, ton := 84 }
    let s (m : Sampler) := at_ 100 fun s => { s with cores := [{ Core.reset with service := false, sampler := m }] }
    ((s m).core 0).sampler = m ∧ (s m).clk = m.ton + (m.n + 1) * m.period ∧ (s m).group? 2 = some g0 ∧ (0 : Nat) < (s m).cores.length ∧ m.w - m.c < m.cap ∧
    (ran (.sample 0 0) (s m)).map (fun t => ((t.core 0).sampler.w, (t.core 0).sampler.target)) = some (1, some 0) ∧ 1 - ({ m with w := 1 } : Sampler).c ≥ m.cap ∧
    (ran (.sample 0 0) (s { m with w := 1 })).map (fun t => ((t.core 0).sampler.w, (t.core 0).sampler.dropped)) = some (1, 1) := by decide +kernel
/-- What a stage loses: all, its image, dies. -/
def loss (f r : Bool) (d : List Nat) : StageLoss := { fatal := f, refused := r, dies := d, channels := [], ports := [], spared := false, sparesOut := false }
/-- The machine in a stage. -/
def inStage (x : Stage) (f : Die → Die) : State := { State.reset with stage := x, dies := (List.range 8).map fun _ => f dieUp }
/-- The stages in order; the machine of stage 1 has lost every die or one. -/
theorem witness_SlotsAndRecovery_startUp : State.reset.stage = .off ∧ happened .powerGood State.reset = true ∧ (loss true false []).fatal = true ∧ (loss false true []).refused = true ∧
    (ran (.stageComplete (loss true false [])) (inStage .s0 id)).map (·.stage) = some .minimal ∧ ((inStage .s1 id).stageLoss (loss false false [3])).dieBad = [3] ∧
    (ran (.stageComplete (loss false true [3])) (inStage .s1 id)).map (·.stage) = some .minimal ∧
    ((inStage .s1 fun d => { d with retired := true }).stageLoss (loss false false [3])).dieBad.length = 8 ∧
    (ran (.stageComplete (loss false false [])) (inStage .s2 id)).map (fun t => (t.stage, (t.link 32).st)) = some (.s3, 1) ∧
    (ran (.stageComplete (loss false false [])) (inStage .s3 id)).map (·.stage) = some .full ∧
    (ran (.stageComplete (loss true false [])) (inStage .s3 id)).map (·.stage) = some .minimal := by decide +kernel
/-- The images that run are not refused: no minimum version has been set. -/
theorem witness_SlotsAndRecovery_verified : (inStage .s0 id).stage = .s0 ∧ (loss false false []).fatal = false ∧ (inStage .s1 id).stage = .s1 ∧
    ¬ ((loss false false []).refused = true ∨ Config.flashVersion 0 < (inStage .s0 id).minVer0) ∧
    ¬ ((loss false false []).refused = true ∨ Config.flashVersion 1 < (inStage .s1 id).minVer1) :=
  ⟨rfl, rfl, rfl, fun h => h.elim nofun (Nat.not_lt_zero _), fun h => h.elim nofun (Nat.not_lt_zero _)⟩
/-- SHA-512 of no bytes, and of "abc" (FIPS 180-4). -/
def emptyDigest : List Byte := ((leBytes 64 0xcf83e1357eefb8bdf1542850d66d8007d620e4050b5715dc83f4a921d36ce9ce47d0d13c5d85f2b0ff8318d2877eec2f63b931bd47417a81a538327af927da3e)).reverse
theorem test_sha512_empty : sha512 [] = emptyDigest := by decide +kernel
theorem test_sha512_abc : sha512 [0x61, 0x62, 0x63] = (leBytes 64 0xddaf35a193617abacc417349ae20413112e6fa4e89a97ea20a9eeee64b55d39a2192992a274fc1a836ba3c23a3feebbd454d4423643ce80e2a9ac94fa54ca49f).reverse := by decide +kernel
/-- A rigging image of version 5, another of version 3, one with another magic number; the swap verifies, pauses, replaces. -/
theorem witness_SlotsAndRecovery_swap : let i (ok : Bool) : ImageCheck := { sigOk := ok }
    let img (v : Nat) : Store := (([0x31, 0x49, 0x58, 0x4A, 1, 0, 0, 0] ++ leBytes 8 v ++ leBytes 8 0 ++ emptyDigest : List Byte)).zipIdx.map fun b => (physKey 0 (0x1000 + b.2), b.1)
    let s (n v : Nat) (p : Bool) := at_ 100 fun s => { s with swapStat := n, minVer1 := 4, swapVer := 5, paused := p, swapFrom := 0x1000, mem := img v }
    let b : State := { s 1 5 false with mem := (img 5).map fun c => (c.1, c.2 + 1) }
    (s 0 5 false).riggingRuns = true ∧ (s 0 5 false).swapStat ≠ 1 ∧ (s 0 5 false).swapStat ≠ 2 ∧ (s 1 5 false).mapped 0x1000 88 ∧ (s 1 5 false).imageReach = .ok ∧ ({ s 1 5 false with links := [] } : State).imageReach = .fail 1 ∧
    [(s 0 5 false, i true), (s 1 5 false, i false), (s 1 3 false, i true), (s 1 5 false, i true), (b, i true)].map (fun x => (ran (.riggingSwap x.2) x.1).map (·.swapStat)) =
      [some 1, some 4, some 5, some 2, some 4] ∧
    (ran .swapPause (s 2 5 false)).map (·.paused) = some true ∧ (ran .swapPause (s 2 5 true)).map (fun t => (t.swapStat, t.ver1, t.paused)) = some (3, 5, false) := by decide +kernel
theorem witness_SlotsAndRecovery_watchdog : let w := w0
    let s (clk : Nat) := at_ clk fun s => { s with kernels := [{ k0 with dies := [1] }] }
    let r := at_ (2 ^ 33) fun s => { s with ladder := [(1, 0, 2 ^ 33 - 300000000)], kernels := [{ k0 with dies := [1] }] }
    (s (100 + 2 ^ 32)).wave? 3 = some w ∧ ((s 0).kernelOf? w).isSome = true ∧ w.st = .resident ∧ w.progress + 2 ^ 32 ≤ 100 + 2 ^ 32 ∧
    (ran (.watchdogW0 3) (s (100 + 2 ^ 32))).map (fun t => ((t.ctx 0).faults.map (·.code), t.wdogLast)) = some ([WATCHDOG], 0) ∧ w.progress + 2 ^ 33 ≤ 100 + 2 ^ 33 ∧
    (ran (.watchdogW1 0) (s (100 + 2 ^ 33))).map (fun t => ((t.ctx 0).st, t.wdogLast)) = some (.killing, 1) ∧ happened (.jxwdogW1 0) (s 100) = true ∧
    r.level2Ends.ladder = r.ladder ∧ (ran (.watchdogW2 0) r).map (fun t => (t.wdogLast, (t.die 1).resetting == .none)) = some (2, false) ∧ (ran (.watchdogW2 0) (s 100)).isSome = true ∧
    ((s 100).resetDie 1 false).isSome = true ∧ happened (.jxwdogW2 1) (s 100) = true ∧ ((s 100).resetDie 1 true).isSome = true ∧ happened (.jxwdogW2Forced 1) (s 100) = true := by decide +kernel
/-- A reset of the queues is late after a die's, and a device reset after that; or by the time that the rigging has run. -/
theorem witness_SlotsAndRecovery_resets : let s := at_ 100 id
    let l (n : Nat) : State := at_ 9000000000 fun s => { s with riggingAt := 9000000000, ladder := [(n, 1, 1000)], dies := (s.dies).set 1 { s.die 1 with resetting := .reset } }
    s.stage = .full ∧ s.stage ≠ .off ∧ s.stage ≠ .s0 ∧ s.riggingRuns = true ∧ (ran .watchdogW3 (l 2)).map (·.wdogLast) = some 3 ∧ (ran .watchdogW3 (at_ 3000000000 id)).map (·.wdogLast) = some 3 ∧
    (ran .jxwdogW3 s).map (·.wdogLast) = some 3 ∧ (ran .watchdogW4 (l 3)).map (fun t => (t.stage, t.waves.length)) = some (.s0, 0) ∧
    happened .watchdogW4 (at_ 15000000000 id) = true ∧ happened .jxwdogW4 s = true ∧
    [1, 0x402, 0x403].map (fun v => happened (.registerWrite ⟨.rigging, .wdog⟩ v) (at_ 100 fun s => { s with kernels := [{ k0 with dies := [1] }] })) = [true, true, true] ∧
    [4, 5].map (fun v => happened (.registerWrite ⟨.saddleTree, .wdog⟩ v) s) = [true, true] ∧ permits .rigging .wdog 4 = false ∧ permits .rigging .wdog 5 = false := by decide +kernel

/-! Witnesses of the clauses on waits and traps -/

/-- The clk of an ACTSWAP; an ACT that still reads bank 1. -/
theorem witness_ActivationTable_waits : let s (f : Core → Core) := xm (fun s => { s with cores := [f (s.core 0)] }) w0
    (s fun c => { c with swapAt := some (100, true) }).live ∧ (s fun c => { c with actUse1 := 101 }).live ∧
    (s fun c => { c with swapAt := some (100, true) }).ready (usesOf (.actld h0 376 1)) h0 ∧ (s fun c => { c with actUse1 := 101 }).ready (usesOf (.actld h0 376 1)) h0 ∧
    (s fun c => { c with swapAt := some (100, true) }).core.swapAt = some ((s fun c => c).clk, true) ∧
    (s fun c => { c with actUse1 := 101 }).clk < (s fun c => { c with actUse1 := 101 }).core.actUse1 :=
  ⟨rfl, rfl, ready_of_okay (l := [(.actld h0 376 1, h0)]) (by decide) _ (.head _), ready_of_okay (l := [(.actld h0 376 1, h0)]) (by decide) _ (.head _),
   by decide, by decide⟩
/-- SPAWN to an entry that is no multiple of 8; with a copy of g2 whose entry counts 2^20 − 1 holders. -/
theorem witness_FibreWords_spawnTraps : let m := xw (wv 0x1004 0 0)
    let e : BEnt := { idx := 0, ia := 0x1000, len := 0x100, kind := .s, count := 2 ^ 20 - 1, ctx := 0, die := 0, sector := 0, ep := none, queue := none, stg := none, seq := 0, born := 0, tags := [] }
    let w : Wave := { wv 0x1000 0 0 with sregs := [(2, 4)] }
    let g : Grant := { gX with kind := .s }
    let c := xm (fun s => { s with grants := [g], dies := [{ s.die 0 with entries := [e] }] }) w
    m.live ∧ m.ready (usesOf (.spawn h0 1 2 2)) h0 ∧ m.det = false ∧ 0 ∈ m.active h0 ∧ (m.v 1 0).toNat % 8 ≠ 0 ∧ (∀ l ∈ m.active h0, l < 0 → (m.v 1 l).toNat % 8 = 0) ∧
    c.live ∧ c.ready (usesOf (.spawn h0 1 2 2)) h0 ∧ c.det = false ∧ (∀ l ∈ c.active h0, (c.v 1 l).toNat % 8 = 0) ∧
    let fibres := (c.active h0).map fun l => (c.v 1 l, (⟨c.vreg 2 l, c.vreg 3 l, c.vreg 4 l, c.vreg 5 l⟩ : Fibre))
    let k := c.s.binMask c.w.uid ((c.sreg 2).toNat % 2 ^ 16)
    let r := c.s.binAll c.g c.w.core k fibres
    r.2.1 ≤ c.s.groupRoom c.g c.k.win ∧ c.s.copyFull? k r.2.2 = some 2 :=
  ⟨rfl, ready_of_okay (l := [(.spawn h0 1 2 2, h0)]) (by decide) _ (.head _), rfl, by decide, by decide, by decide, rfl,
   ready_of_okay (l := [(.spawn h0 1 2 2, h0)]) (by decide) _ (.head _), rfl, by decide, by decide, by decide⟩

/-- Offsets 0 and `b` of lanes 0 and 1, for a single access and for a pair. -/
def wl (b : Word) : Wave := { w0 with win := [(32, 0), (33, b)] }
theorem witness_AccessTraps_places : let x (b : Word) := xg (wl b) [gX, gr 22 3 .a 0x1000 0x100]
    (∀ p ∈ [((.ld h0 1 2 1 .n64 .fec 0 : Instr), h0), (.ldp h0 1 2 1 .fe 0, h0), (.st h0 1 2 1 .n64 .fe 0, h0), (.stp h0 1 2 1 .none 0, h0), (.lds h0 1 1 .n64 .none 0, h0),
      (.sts h0 1 1 .n64 .none 0, h0), (.atom h0 1 2 1 .add .n64, h0), (.atoms h0 1 1 .add .n64, h0), (.ratom h0 1 3 1 .add .n64, h0)], (x 4089).ready (usesOf p.1) p.2 ∧ (x 249).ready (usesOf p.1) p.2 ∧ (x 241).ready (usesOf p.1) p.2) ∧
    (x 249).live ∧ (x 249).reads 2 gX ∧ (x 249).holds 2 gX ∧ (x 249).holds 3 (gr 22 3 .a 0x1000 0x100) ∧ gX.kind ≠ .s ∧
    (x 249).firstOut h0 256 8 0 1 1 ∧ (x 4089).firstOut h0 (x 4089).scr 8 0 1 1 ∧ (x 241).within h0 256 8 0 1 ∧ (x 241).firstSkew h0 8 0 1 1 ∧ (x 241).within h0 (x 241).scr 8 0 1 ∧
    (x 241).firstOut h0 256 16 0 1 1 ∧ (x 24).within h0 256 16 0 1 ∧ (x 24).firstSkew h0 16 0 1 1 := by
  refine ⟨fun p hp => ⟨ready_of_okay (l := [((.ld h0 1 2 1 .n64 .fec 0 : Instr), h0), (.ldp h0 1 2 1 .fe 0, h0), (.st h0 1 2 1 .n64 .fe 0, h0), (.stp h0 1 2 1 .none 0, h0), (.lds h0 1 1 .n64 .none 0, h0),
      (.sts h0 1 1 .n64 .none 0, h0), (.atom h0 1 2 1 .add .n64, h0), (.atoms h0 1 1 .add .n64, h0), (.ratom h0 1 3 1 .add .n64, h0)]) (by decide) p hp,
    ready_of_okay (l := [((.ld h0 1 2 1 .n64 .fec 0 : Instr), h0), (.ldp h0 1 2 1 .fe 0, h0), (.st h0 1 2 1 .n64 .fe 0, h0), (.stp h0 1 2 1 .none 0, h0), (.lds h0 1 1 .n64 .none 0, h0),
      (.sts h0 1 1 .n64 .none 0, h0), (.atom h0 1 2 1 .add .n64, h0), (.atoms h0 1 1 .add .n64, h0), (.ratom h0 1 3 1 .add .n64, h0)]) (by decide) p hp,
    ready_of_okay (l := [((.ld h0 1 2 1 .n64 .fec 0 : Instr), h0), (.ldp h0 1 2 1 .fe 0, h0), (.st h0 1 2 1 .n64 .fe 0, h0), (.stp h0 1 2 1 .none 0, h0), (.lds h0 1 1 .n64 .none 0, h0),
      (.sts h0 1 1 .n64 .none 0, h0), (.atom h0 1 2 1 .add .n64, h0), (.atoms h0 1 1 .add .n64, h0), (.ratom h0 1 3 1 .add .n64, h0)]) (by decide) p hp⟩,
    rfl, ⟨⟨by decide, by decide⟩, .inl rfl⟩, ⟨⟨by decide, by decide⟩, rfl⟩, ⟨⟨by decide, by decide⟩, rfl⟩, by decide, ?_, ?_, ?_, ?_, ?_, ?_, ?_, ?_⟩
  all_goals first | (unfold Iss.firstOut; decide) | (unfold Iss.firstSkew; decide) | (unfold Iss.within; decide)
/-- RST with flag register 24 or a reserved bit; through an S grant; out of bounds; a flag of kind X or of another home; a flag out of
bounds; a misaligned lane. -/
theorem witness_AccessTraps_rst : let a : Grant := gr 22 3 .a 0x1000 0x100
    let x (d b : Word) (g : List Grant) := xg { wl b with sregs := [(1, d)] } g
    let l := [((.rst h0 2 1 1 1 : Instr), h0)]
    let f : Grant := { a with ia := 2 ^ 44, home := 1 }
    (x 24 0 []).live ∧ (∀ p ∈ l, (x 24 0 []).ready (usesOf p.1) p.2) ∧ 24 ≤ ((x 24 0 []).sreg 1).toNat % 32 ∧ ((x 0x23 0 []).sreg 1).toNat / 32 % 8 ≠ 0 ∧
    (x 3 0 [{ gX with kind := .s }]).holds 2 { gX with kind := .s } ∧ (x 3 249 [gX, a]).holds 2 gX ∧ ((x 3 249 [gX, a]).sreg 1).toNat % 32 < 24 ∧ ((x 3 249 [gX, a]).sreg 1).toNat / 32 % 8 = 0 ∧
    (x 3 249 [gX, a]).firstOut h0 256 8 0 1 1 ∧ (x 3 241 [gX, a]).within h0 256 8 0 1 ∧ (x 3 241 [gX, a]).holds 3 a ∧ (x 3 241 [gX, f]).holds 3 f ∧ f.home ≠ gX.home ∧
    a.home = gX.home ∧ a.len < 8 * (((x 0x2003 241 [gX, a]).sreg 1).toNat / 256) + 8 ∧ 8 * (((x 0x1F03 241 [gX, a]).sreg 1).toNat / 256) + 8 ≤ a.len ∧ (x 0x1F03 241 [gX, a]).firstSkew h0 8 0 1 1 := by
  refine ⟨rfl, ready_of_okay (by decide), by decide, by decide, ⟨⟨by decide, by decide⟩, rfl⟩, ⟨⟨by decide, by decide⟩, rfl⟩, by decide, by decide, ?_, ?_,
    ⟨⟨by decide, by decide⟩, rfl⟩, ⟨⟨by decide, by decide⟩, rfl⟩, by decide, rfl, by decide, by decide, ?_⟩
  all_goals first | (unfold Iss.firstOut; decide) | (unfold Iss.firstSkew; decide) | (unfold Iss.within; decide)
/-- Full-empty words through main memory: a load of 8 and of 16 bytes, a store of 8 and of 16. -/
theorem witness_FullEmptyWords_refused : let x := xg wo [gX]
    x.live ∧ (∀ p ∈ [((.ld h0 1 2 1 .n64 .fe 0 : Instr), h0), (.ldp h0 1 2 2 .fe 0, h0), (.st h0 1 2 1 .n64 .fe 0, h0), (.stp h0 1 2 2 .fe 0, h0)], x.ready (usesOf p.1) p.2) ∧
    x.s.direct gX = false ∧ x.reads 2 gX ∧ x.holds 2 gX ∧ gX.kind = .x ∧ x.fits h0 gX.len 8 0 1 ∧ x.fits h0 gX.len 16 0 2 := by
  refine ⟨rfl, ready_of_okay (by decide), by decide, ⟨⟨by decide, by decide⟩, .inl rfl⟩, ⟨⟨by decide, by decide⟩, rfl⟩, rfl, ?_, ?_⟩ <;> (unfold Iss.fits; decide)
/-- PREF through an EMPTY register, through a WAITING one, out of bounds, of a grant of kind A, and one that has effect. -/
theorem witness_AtomicAndRemoteWords_pref : let x (l : List Grant) (b : Word) := xg (wl b) l
    let p : Place := ⟨.grant 20, 0x1000, false, 2⟩
    let y := (x [gX] 0).loading p 0 8 ((x [gX] 0).active h0 |>.map fun l => 0x1000 + (x [gX] 0).off 1 8 0 l)
    let miss := y.missing p 0 8 ((x [gX] 0).active h0 |>.map fun l => 0x1000 + (x [gX] 0).off 1 8 0 l)
    (x [gX] 0).live ∧ (x [gX] 0).frame.bad (usesOf (.pref h0 2 1 .n64 0)) = [] ∧ (x [gX] 0).guard h0 = true ∧ (x [gX] 0).reads 2 gX ∧ (x [gX] 0).fits h0 gX.len 8 0 1 ∧
    (x [gX] 0).s.direct gX = false ∧ gX.kind ≠ .a ∧ miss ≠ [] ∧ miss.length ≤ (x [gX] 0).freeEntries ∧ ¬ (x [gX] 249).fits h0 gX.len 8 0 1 ∧ gA.kind = .a ∧
    (x [] 0).s.reg? ((x [] 0).regRef 2) = none ∧ (x [{ gX with st := .waiting }] 0).names 2 { gX with st := .waiting } ∧
    ((ran (.pref h0 2 1 .n64 0) (x [gX] 0).s).map fun t => t.waves.map fun w => w.loads.map fun l => l.pref) = some [[true]] := by
  refine ⟨rfl, by decide, by decide, ⟨⟨by decide, by decide⟩, .inl rfl⟩, ?_, by decide, by decide, by decide, by decide, ?_, rfl, by decide, ⟨by decide, by decide⟩, by decide⟩ <;>
    (unfold Iss.fits; decide)
/-- A window that is misaligned, past the share, where 64 bindings stand, over another window, of a staged grant. -/
theorem witness_StagingWords_traps : let q := gr 23 16 .x 0x1000 0x100
    let o (n : Nat) : Grant := { gr (100 + n) 17 .x (0x2000 + 256 * n) 0x100 with window := some 0 }
    let x (a : Word) (l : List Grant) := xg (ws [a]) l
    (x 0x80 [q]).live ∧ (∀ p ∈ [((.stage h0 16 1 false : Instr), h0)], (x 0x80 [q]).ready (usesOf p.1) p.2) ∧ (x 0x80 [q]).holds 16 q ∧ q.kind = .x ∧ ((x 0x80 [q]).sreg 1).toNat % 256 ≠ 0 ∧
    (x 0x1000 [q]).scr < ((x 0x1000 [q]).sreg 1).toNat + q.len ∧ 64 ≤ ((x 0 (q :: (List.range 64).map o)).s.bindings 0 0).1 ∧
    ((x 0 [q, o 0]).s.bindings 0 0).1 < 64 ∧ ((x 0 [q, o 0]).s.heldWindows 2).any (fun p => meets p (0, q.len)) = true ∧
    ((x 0x200 [{ q with window := some 0xF00 }]).s.heldWindows 2).any (fun p => meets p (0x200, q.len)) = false ∧ ({ q with window := some 0xF00 } : Grant).window ≠ none :=
  ⟨rfl, ready_of_okay (by decide), ⟨⟨by decide, by decide⟩, rfl⟩, rfl, by decide, by decide, by decide, by decide, by decide, by decide, by decide⟩

/-- Ranges over a die's end, of Slate for an X grant, of a retired die, past Slate's end in an S grant. -/
theorem witness_BorrowWords_reasons : let x (m : Map) (k : Kind) (va len : Nat) := (xm (mapped m) (wb (wd va) (wd len)))
    let past := mapOf 0xF (2 ^ 44 - 0x4000) 2
    let slate := mapOf 0xF (2 ^ 48) 1
    let hole := mapOf 0xF (2 ^ 48 + 2 ^ 28 - 0x4000) 2
    let gone := xm (fun s => { mapped (mapOf 0xF 0 1) s with dies := [{ s.die 0 with retired := true }] }) (wb 0x100 0x100)
    (x past .x 0x3F00 0x200).live ∧ (x past .x 0x3F00 0x200).ready (usesOf (brw2 false .x)) h4 ∧ (x past .x 0x3F00 0x200).unfaulted 2 ∧
    (x past .x 0x3F00 0x200).c.map? 0x3F00 0x200 = some past ∧ past.ia 0x3F00 / 2 ^ 44 ≠ (past.ia 0x3F00 + 0x1FF) / 2 ^ 44 ∧
    (x slate .x 0x100 0x100).c.map? 0x100 0x100 = some slate ∧ iaSpace (slate.ia 0x100) = 1 ∧ slate.ia 0x100 / 2 ^ 44 = (slate.ia 0x100 + 0xFF) / 2 ^ 44 ∧
    gone.c.map? 0x100 0x100 = some (mapOf 0xF 0 1) ∧ (gone.s.die (iaDie ((mapOf 0xF 0 1).ia 0x100))).retired = true ∧ iaSpace ((mapOf 0xF 0 1).ia 0x100) = 0 ∧
    (x hole .s 0x3F00 0x200).c.map? 0x3F00 0x200 = some hole ∧ unbacked (hole.ia 0x3F00 + 0x1FF) = true ∧ iaSpace (hole.ia 0x3F00) = 1 ∧
    [(x past .x 0x3F00 0x200, Kind.x), (x slate .x 0x100 0x100, .x), (gone, .x), (x hole .s 0x3F00 0x200, .s)].map (fun p => (p.1.s.brwReason p.1.c (p.1.sreg 4).toNat (p.1.sreg 5).toNat p.2).1) = [3, 4, 5, 6] :=
  ⟨rfl, ready_of_okay (l := [(brw2 false .x, h4)]) (by decide) _ (.head _), by unfold Iss.unfaulted; decide, by and_intros <;> decide⟩
/-- SPLIT of a WAITING, a LENT and an S grant; RTN of a WAITING register whose grant moves, and of one that is requested. -/
theorem witness_ChildWords_source : let q := gr 20 2 .x 0x1000 0x400
    let x (g : Grant) := xg w0 [g]
    let w : Grant := { q with st := .waiting, entry := none }
    (x q).live ∧ (∀ p ∈ [((.split h0 9 2 true 4 : Instr), h0), (.split h0 9 2 false 4, h0), (.rtn h0 2, h0)], (x q).ready (usesOf p.1) p.2 ∧ (x w).ready (usesOf p.1) p.2) ∧
    (x w).names 2 w ∧ (x { q with st := .lent }).names 2 { q with st := .lent } ∧ (x { q with kind := .s }).names 2 { q with kind := .s } ∧
    (x w).s.grant? w.gid = some w ∧ (x { w with derive := some (.moved true) }).s.grant? 20 = some { w with derive := some (.moved true) } ∧
    (∀ fresh, w.derive ≠ some (.moved fresh)) ∧ ((ran (.rtn h0 2) (x w).s).map fun t => t.grants.map fun g => (g.st, g.returned)) = some [(.returning, true)] := by
  refine ⟨rfl, fun p hp => ⟨ready_of_okay (l := [((.split h0 9 2 true 4 : Instr), h0), (.split h0 9 2 false 4, h0), (.rtn h0 2, h0)]) (by decide) p hp,
    ready_of_okay (l := [((.split h0 9 2 true 4 : Instr), h0), (.split h0 9 2 false 4, h0), (.rtn h0 2, h0)]) (by decide) p hp⟩,
    ⟨by decide, by decide⟩, ⟨by decide, by decide⟩, ⟨by decide, by decide⟩, by decide, by decide, nofun, by decide⟩
theorem witness_SystemWords_spbase : (x0.g.cores.zip x0.g.bases).find? (·.1 == x0.w.core) = some (0, 0) := by decide
/-- A ST through a WAITING register. -/
theorem witness_IssueChecks_waits : let g : Grant := { gX with st := .waiting }
    (xg wo [g]).live ∧ (xg wo [g]).names 2 g ∧ (xg wo [g]).frame.bad (usesOf (.st h0 1 2 1 .n64 .none 0)) = [] ∧ (xg wo [g]).guard h0 = true ∧
    (xg wo [gX]).free (.grant 20) 8 (((xg wo [gX]).active h0).map fun l => gX.ia + (xg wo [gX]).off 1 8 0 l) :=
  ⟨rfl, ⟨by decide, by decide⟩, by decide, by decide, by unfold Iss.free; decide⟩
/-- Nothing that a replay walked is open; a load of no endpoint; a .fec word whose sector is uncorrectable. -/
theorem witness_ResultsLand_states : let w : Wave := { w0 with loads := [ld0], hold := .fullEmpty 7 true }
    let b : Bad := { sec := 2 ^ 43 + 3, tier := 1, mask := 0, by_ := 0 }
    let s := se w fun s => { filled s with full := s.granules (.sp 2) [(240, 16)], bad := [b] }
    s.unpinned = true ∧ s.farLines ld0 = [] ∧ s.inSlot = false ∧ s.badLanes? (s.coreOf w) ld0 none = some b ∧
    (ran (.fullEmptyProceed 3) s).map (fun t => (t.full, t.waves.map fun w => w.deferred.map (·.code))) = some ([], [[MEM_UNCORRECTABLE]]) := by decide +kernel
/-- A line of code on a die to which no route leads. -/
theorem witness_WavesLiveOn_fetch : let m : Map := mapOf 0xF (2 ^ 44) 1
    let s : State := { st kt g0 w0 with cur := none, ctxs := [{ codeCtx with maps := [m] }] }
    let line := (2 ^ 44 + 0x100) / 64
    s.offered? w0 = w0.parts.head? ∧ w0.slotHeld = true ∧ (s.core 0).fetchAt ≤ s.clk ∧ s.fetch (s.coreOf w0) (s.ctxOf w0) 0x100 = .miss line ∧ s.unpinned = true ∧
    s.girthReach 0 (homeOf (64 * line)) = .fail 2 ∧
    ((ran (.instructionCacheFill 3) s).bind (·.wave? 3)).map (fun v => (v.tcause, v.tpc)) = some (BitVec.ofNat 8 LINK_PARTITION, 0x100) := by decide +kernel
/-- An atomic, a line and a flag for a die to which no route leads. -/
theorem witness_OutboxDrains_lost : let a := oe (.grant 23) (.atomic .add .n64 (al (2 ^ 44 + 0x1000)) 7)
    let l : LoadP := { ld0 with code := 4, tgt := .grant 23, lanes := [⟨0, 2 ^ 44 + 0x1000, none⟩], atomic := true, miss := [(2 ^ 44 + 0x1000) / 64], dest := .vec 0 .n64 }
    let w : Wave := { w0 with loads := [l], outbox := [a] }
    let r := oe (.grant 23) (.remote (2 ^ 44 + 0x1010) [1, 2] 1)
    let f := oe (.grant 22) (.flag (2 ^ 44 + 0x1000) 22)
    let cut (s : State) : State := { withG [fA, fX] s with links := [] }
    (se w cut).drainHeld w a = false ∧ (se w cut).atomicReach w a = .fail 2 ∧ happened (.drain 3 0) (se w cut) = true ∧ drains r 0 cut = true ∧ (so r cut).girthReach 0 fX.home = .fail 2 ∧
    (so r cut).windowOf? 3 fX = none ∧ drains f 0 cut = true ∧ (so f cut).reinReach 0 fA.home = .fail 2 ∧ (so f cut).unpinned = true := by decide +kernel
/-- A request for a line of an endpoint arrives there; a message to an endpoint takes its number, acts and stays. -/
theorem witness_MessagesAct_endpoints : let p := pk 8 (.read 9) [(8 * 2 ^ 48, 0)]
    let m : Rein := { rn 8 (.flag (8 * 2 ^ 48) 0x100 2 false 9) with num := none, port := none }
    let s := srn m ep0
    moves p ep0 = true ∧ (spk p ep0).packetReach p = .ok ∧ (ran (.girthDelivery ⟨40, .granted⟩) (spk p ep0)).map (fun t => t.packets.map (·.arrived)) = some [true] ∧
    s.reinHead? 0 8 = some m ∧ s.messageReach m = .ok ∧ (s.epNumber 8).isSome = true ∧ ((s.numberRein m).bind fun t => t.reins.find? (·.id == 60)).map (·.num) = some (some 0) ∧
    (ran (.reinDelivery 0 ⟨8, .granted⟩) s).map (fun t => (t.reins.length, t.unacked.length, t.flags.map (·.id))) = some (0, 1, [60]) := by decide +kernel
/-- A copy from an endpoint to which no port leads; an MMA whose operand becomes uncorrectable; the saddle die; a save frame. -/
theorem witness_EngineSteps_failures : let e := gr 20 2 .x (8 * 2 ^ 48) 0x100
    let o : CopyOp := { cop with src := .grant 20 }
    let s : State := { sc 3000 k0 g0 w0 [o] id with grants := [e] }
    let m := mw_ mO (some 2000)
    let f := sc 3000 k0 g0 w0 [] id
    let c : State := { f with ctxs := [{ codeCtx with saveUsed := 256 }] }
    s.chunkReady g0 o (s.chunkLen g0 o) = true ∧ (s.chunkFrom? g0 o (s.chunkLen g0 o)).map (fun x => (x.1.gid, x.2)) = some (20, 8 * 2 ^ 48) ∧ o.asked ≠ some o.pos ∧
    s.girthReach g0.die e.home = .fail 5 ∧ (ran (.copyChunk 50 0) s).map (fun t => t.ops.all (·.failed)) = some true ∧
    (m.core 0).matQ = [{ ment with wave := 3, kind := mO, entered := 1000, started := some 2000 }] ∧ happened (.uncorrectableError (.matrix 0 0 0) 3) m = true ∧
    f.stage ≠ .off ∧ f.stage ≠ .minimal ∧ (ran (.uncorrectableError .saddle 0) f).map (·.stage) = some .minimal ∧ (c.ctx 0).saveUsed ≠ 0 ∧
    (c.ctx 0).st ∈ [CtxSt.active, .preempted, .faulted, .killing] ∧ (ran (.uncorrectableError (.frame 0) 0) c).map (fun t => (t.ctx 0).st) = some .faulted := by decide +kernel

/-- A line that a replay has walked is found at its page, though no run is cached; it has still to act, or has acted. -/
theorem witness_GroupsPagesContexts_walked : let x : Parked := { pp with ctx := none, since := 3100 }
    let s := up0 fun d => { d with ptroot := 1, busy := true, walked := [(x, 9)] }
    let m := up0 fun d => { d with ptroot := 1, runs := [{ page := 0, size := 4, pfn := 0 }] }
    let o : State := { s with grants := [], waves := [w0] }
    m.keyOf 0x1000 = (m, .inl (physKey 0 0x1000)) ∧ iaSpace 0x1000 = 0 ∧ ((m.wake (.load 3 7) 0x1000).die 0).walked = [(x, 0)] ∧
    runOf? ((s.die 0).pins (.load 3 7)) (0x1000 / 2 ^ 14) = some { page := 0, size := 1, pfn := 9 } ∧ (s.die 0).ptroot.getLsbD 0 = true ∧ s.frameLost 0 9 = false ∧
    s.lineWalked (.load 3 7) 0x1000 = true ∧ s.stillOpen (.load 3 7) 0x1000 = true ∧ (ran (.shootDownDone 0) s).map (fun t => (t.die 0).busy) = some true ∧
    (∀ x ∈ (o.die 0).walked, o.stillOpen x.1.ref x.1.ia = false) ∧ (o.die 0).busy = true ∧ (ran (.shootDownDone 0) o).map (fun t => ((t.die 0).busy, (t.die 0).walked)) = some (false, []) := by decide +kernel
/-- The release message of an endpoint's grant to which no port leads; every record has landed. -/
theorem witness_GroupsPagesContexts_walkDone : let g := gr 20 2 .x (8 * 2 ^ 48) 0x100
    let m : Rein := { rn 8 (.release 20) with src := saddle, num := none, port := none }
    let s : State := { sx0 { codeCtx with st := .reclaiming, walked := true } id with grants := [g], reins := [m], links := [] }
    (s.ctx 0).st = .reclaiming ∧ (s.ctx 0).walked = true ∧ s.messageReach m ≠ .ok ∧ (s.ctx 0).faults.length ≤ (s.ctx 0).landed ∧
    (ran (.walkDone 0) s).map (fun t => ((t.ctx 0).st, t.grants.length)) = some (.free, 0) := by decide +kernel
/-- One record of a context whose ring lies on die 0: in a slot, with a route, without one. -/
theorem witness_QueueSteps_records : let r : FRec := { clk := 5, pc := 0x100, info := 0, kid := 0, code := 9, source := 2, wave := 0 }
    let s : State := sg k0 [] [] fun s => { s with ctxs := [{ codeCtx with faults := [r], cap := 4, ringPa := 0x1000 }] }
    let cut : State := { s with links := [] }
    (s.ctx 0).landed + 1 = (s.ctx 0).faults.length ∧ s.saddleReach 0 = .ok ∧ (({ s with inSlot := true } : State).landRecord 0).ctx 0 = s.ctx 0 ∧ cut.saddleReach 0 = .fail 1 ∧
    ((cut.landRecord 0).ctx 0).dropped = 1 ∧ ((cut.landRecord 0).ctx 0).faults = [] ∧ ((s.landRecord 0).ctx 0).landed = 1 ∧
    ((List.range 32).map fun i => (s.landRecord 0).byteAt ((s.ctx 0).recordKey 0 + i)) = r.bytes := by decide +kernel
/-- An endpoint's write of two lines, the second of which lies on an unmapped page: the first acts, the second parks. -/
theorem witness_LinkSteps_parks : let s : State := { ep0 (st k0 g0 w0) with windows := [(0, 0x1F), (2, 0), (3, 8)], cur := none, clk := 100000, mem := cells 0 (le8 0), dies := List.replicate 8 { dieUp with runs := [{ page := 0, size := 1, pfn := 0 }] } }
    let t := s.touchDeliv 0
    t.inboundIa? 0 1 16380 8 2 = some 16380 ∧ t.inboundReach 0 0 true = true ∧
    (ran (.inboundAccess 0 1 0 (.write 16380 [1, 2, 3, 4, 5, 6, 7, 8] none)) s).map (fun t => (t.inbound.length, (t.die 0).parked.map (·.ia), (t.mem.drop 8).map (·.2))) = some (1, [16384], [1, 2, 3, 4]) := by decide +kernel
/-- A flag message that has acted at its endpoint: 16 µs and 1 ms later. -/
theorem witness_LinkSteps_unacked : let m : Rein := { rn 8 (.flag (2 ^ 51) 0x100 2 false 9) with first := 2048, last := 2048, sel := true }
    let s (clk : Nat) : State := se w0 fun s => { ep0 s with clk := clk, unacked := [m], acks := [⟨60, 3, 0, 1⟩] }
    (s 50048).packets.find? (·.id == 60) = none ∧ ((s 50048).reins ++ (s 50048).unacked).find? (·.id == 60) = some m ∧ linkTime m.last + 48000 ≤ linkTime 50048 ∧
    (ran (.packetResend 60) (s 50048)).map (fun t => t.unacked.map (·.last)) = some [50048] ∧ linkTime m.first + 3000000 ≤ linkTime 3200000 ∧
    (ran (.packetTimeout 60) (s 3200000)).map (fun t => (t.unacked.length, t.waves.map fun w => w.deferred.map (·.code))) = some (0, [[LINK_PARTITION]]) ∧
    (ran (.selectiveAck 0 0 1) (s 50048)).map (fun t => (t.unacked.length, t.acks.length)) = some (0, 0) := by decide +kernel
/-- A reset of die 1 that would part die 2 from the others; port 0 RETIRED and not; the third level after a refused reset. -/
theorem witness_SlotsAndRecovery_refused : let s := at_ 100 fun s => { s with links := s.links.filter fun l => l.n == 0 || l.n == 1 || isPort l.n }
    let d (k : Nat) : State := { s with links := (linkNumbers.filter fun n => (dieLinks k).contains n || isPort n).map fun n => { n := n, link := { Link.reset with st := 2, width := 4 } } }
    let z := at_ 9000000000 fun s => { s with riggingAt := 9000000000, ladder := [(11, 1, 1000)] }
    let r := at_ 100 fun s => s.setLink 32 { s.link 32 with st := 5 }
    let c := d 0
    c.inService 0 = true ∧ (c.die 0).resetting = .none ∧ c.level2 0 false false = none ∧ (c.autoLevel2 0).ladder = [(11, 0, 100)] ∧ (c.autoLevel2 0).wdogLast = 2 ∧
    (at_ 100 id).level2 1 false false ≠ none ∧ ((at_ 100 fun s => { s with stage := .minimal }).link 32).st ≠ 5 ∧ (r.link 32).st = 5 ∧ r.portZero = r ∧
    (ran .watchdogW3 z).map (·.wdogLast) = some 3 := by decide +kernel

end Sys2Proof.Tests
end

section
/-! DIV and REM (R33): the operations of IntOps are the division of bit vectors. -/

namespace Sys2Proof.Numbers

open Sys2Proof Sys2Proof.Machine Sys2Proof.Laws

/-- The corner cases of Table 2.1, on numbers and on bits. -/
theorem divEdge_eq {w : Nat} (hw : 0 < w) (sg : Bool) (p q : BitVec w) :
    divEdge w sg p.toNat q.toNat = divisionCorner sg p q := by
  have hz : (q.toNat == 0) = (q == 0) := by rw [Bool.eq_iff_iff]; simp [BitVec.toNat_eq]
  have hmin : (p.toNat == 2 ^ (w - 1)) = (p == BitVec.intMin w) := by
    rw [Bool.eq_iff_iff]; simp [BitVec.toNat_eq, BitVec.toNat_intMin_of_pos hw]
  have hone : (q.toNat == 2 ^ w - 1) = (q == BitVec.allOnes w) := by rw [Bool.eq_iff_iff]; simp [BitVec.toNat_eq]
  rw [divEdge, divisionCorner, hz, hmin, hone]

/-- Away from a divisor of 0, a corner case is the most negative number by −1. -/
theorem divisionCorner_of_ne_zero {w : Nat} {sg : Bool} {p q : BitVec w} (hq : q ≠ 0) :
    divisionCorner sg p q = true ↔ sg = true ∧ p = BitVec.intMin w ∧ q = BitVec.allOnes w := by
  have : (q == 0) = false := by simpa using hq
  rw [divisionCorner, this]
  simp [and_assoc]

/-- The narrowed truncated quotient is the division of bit vectors. -/
theorem wrap_tdiv {w : Nat} (p q : BitVec w) : wrap w (p.toInt.tdiv q.toInt) = (p.sdiv q).toNat := by
  rw [wrap_eq]
  exact congrArg _ (BitVec.eq_of_toInt_eq (by rw [BitVec.toInt_ofInt, BitVec.toInt_sdiv]))

/-- The narrowed remainder with the dividend's sign is that of bit vectors. -/
theorem wrap_tmod {w : Nat} (p q : BitVec w) : wrap w (p.toInt.tmod q.toInt) = (p.srem q).toNat := by
  rw [wrap_eq, ← BitVec.toInt_srem, BitVec.ofInt_toInt]

/-- A number of `w` bits is not narrowed. -/
theorem wrap_natCast {w n : Nat} (h : n < 2 ^ w) : wrap w (n : Int) = n := by
  rw [wrap_eq, BitVec.ofInt_natCast, BitVec.toNat_ofNat, Nat.mod_eq_of_lt h]

/-- DIV. -/
theorem iDiv_eq {w : Nat} (hw : 0 < w) (sg : Bool) (p q : BitVec w) :
    iDiv w sg p.toNat q.toNat = { r := (quotient sg p q).toNat, c := false, v := divisionCorner sg p q } := by
  simp only [iDiv, divEdge_eq hw, IRes.mk.injEq, and_true, tInt_eq hw, quotient]
  by_cases hq : q = 0
  · simp [hq]
  rw [if_neg (by simpa [BitVec.toNat_eq] using hq), if_neg hq]
  by_cases hc : divisionCorner sg p q = true
  · obtain ⟨rfl, rfl, rfl⟩ := (divisionCorner_of_ne_zero hq).1 hc
    simp only [hc, if_true]
    rw [← BitVec.neg_one_eq_allOnes, BitVec.intMin_sdiv_neg_one, BitVec.toNat_intMin_of_pos hw]
  · simp only [hc]
    cases sg
    · have : p.toNat / q.toNat < 2 ^ w := (Nat.div_le_self _ _).trans_lt p.isLt
      simpa [BitVec.toNat_udiv] using wrap_natCast this
    · exact wrap_tdiv p q

/-- The remainder of the most negative number by −1 is 0. -/
theorem intMin_srem_allOnes {w : Nat} (hw : 0 < w) : (BitVec.intMin w).srem (BitVec.allOnes w) = 0 :=
  BitVec.srem_zero_of_dvd (by rw [BitVec.toInt_allOnes, if_pos hw]; exact ⟨-(BitVec.intMin w).toInt, by ring⟩)

/-- REM. -/
theorem iRem_eq {w : Nat} (hw : 0 < w) (sg : Bool) (p q : BitVec w) :
    iRem w sg p.toNat q.toNat = { r := (remainder sg p q).toNat, c := false, v := divisionCorner sg p q } := by
  simp only [iRem, divEdge_eq hw, IRes.mk.injEq, and_true, tInt_eq hw, remainder]
  by_cases hq : q = 0
  · simp [hq]
  rw [if_neg (by simpa [BitVec.toNat_eq] using hq), if_neg hq]
  by_cases hc : divisionCorner sg p q = true
  · obtain ⟨rfl, rfl, rfl⟩ := (divisionCorner_of_ne_zero hq).1 hc
    simp [hc, intMin_srem_allOnes hw]
  · simp only [hc]
    cases sg
    · have : p.toNat % q.toNat < 2 ^ w := (Nat.mod_le _ _).trans_lt p.isLt
      simpa [BitVec.toNat_umod, ← Int.ofNat_tmod] using wrap_natCast this
    · exact wrap_tmod p q

/-- The widths of the integer types are positive. -/
theorem bits_pos (t : IType) : 0 < t.bits := by cases t <;> decide

/-- A lane divided, with its flags. -/
theorem bin_iDiv (t : IType) (a b : Word) :
    each2 t.bits (quotient (isSigned t)) a b (bin t (fun w a b => iDiv w (isSigned t) a b) a b).1 ∧
    (bin t (fun w a b => iDiv w (isSigned t) a b) a b).2 = quotientFlags (isSigned t) (el t.bits 0 a) (el t.bits 0 b) := by
  have h := bin_eq t (fun w a b => iDiv w (isSigned t) a b) (quotient (isSigned t)) a b
    fun p q => by rw [iDiv_eq (bits_pos t)]
  exact ⟨h.1, by rw [h.2, iDiv_eq (bits_pos t)]; rfl⟩

/-- A lane's remainders, with their flags. -/
theorem bin_iRem (t : IType) (a b : Word) :
    each2 t.bits (remainder (isSigned t)) a b (bin t (fun w a b => iRem w (isSigned t) a b) a b).1 ∧
    (bin t (fun w a b => iRem w (isSigned t) a b) a b).2 = remainderFlags (isSigned t) (el t.bits 0 a) (el t.bits 0 b) := by
  have h := bin_eq t (fun w a b => iRem w (isSigned t) a b) (remainder (isSigned t)) a b
    fun p q => by rw [iRem_eq (bits_pos t)]
  exact ⟨h.1, by rw [h.2, iRem_eq (bits_pos t)]; rfl⟩

/-- Settles O3: each form is a typed two-source form over `iDiv` or `iRem`, which are the divisions of bit vectors. -/
theorem divisionNeverTraps : Obligations.DivisionNeverTraps := by
  intro x h t hx
  refine ⟨fun d a b => ?_, fun d a b => ?_, fun d a b => ?_, fun d a b => ?_⟩
  · exact vec_intro (f := fun x l => bin t (fun w a b => iDiv w (isSigned t) a b) (x.v a l) (x.v b l)) hx rfl (by decide)
      (fun _ => (bin_iDiv t _ _).1) (fun _ => (bin_iDiv t _ _).2.symm)
  · exact scal_intro (f := fun x => bin t (fun w a b => iDiv w (isSigned t) a b) (x.sreg a.toNat) (x.sreg b.toNat)) hx rfl
      (by decide) (bin_iDiv t _ _).1 (bin_iDiv t _ _).2.symm
  · exact vec_intro (f := fun x l => bin t (fun w a b => iRem w (isSigned t) a b) (x.v a l) (x.v b l)) hx rfl (by decide)
      (fun _ => (bin_iRem t _ _).1) (fun _ => (bin_iRem t _ _).2.symm)
  · exact scal_intro (f := fun x => bin t (fun w a b => iRem w (isSigned t) a b) (x.sreg a.toNat) (x.sreg b.toNat)) hx rfl
      (by decide) (bin_iRem t _ _).1 (bin_iRem t _ _).2.symm

end Sys2Proof.Numbers
end

section
/-! Bit patterns of floats and their values (R34). A magnitude, read as a number, is a code; codes are ordered as the
values they stand for, which are whole multiples of the smallest subnormal. -/

namespace Sys2Proof.Numbers

open Sys2Proof Sys2Proof.Machine

/-! Parameters of the types (Table 2.2) -/

theorem fWidth_pred (f : FType) : fWidth f - 1 = fExpBits f + fFrac f := by cases f <;> rfl

theorem two_pow_fWidth (f : FType) : 2 ^ fWidth f = 2 * 2 ^ (fWidth f - 1) := by cases f <;> rfl

theorem fBias_pos (f : FType) : 0 < fBias f := by cases f <;> decide

theorem two_pow_fExpBits (f : FType) : 2 ^ fExpBits f = 2 * fBias f + 2 := by cases f <;> rfl

/-- The code of ∞ follows that of the largest finite number. -/
theorem fInf_eq (f : FType) : fInf f = (2 * fBias f + 1) * 2 ^ fFrac f := by
  rw [fInf, two_pow_fExpBits]; rfl

theorem fInf_pos (f : FType) : 0 < fInf f := by rw [fInf_eq]; positivity

theorem fInf_lt (f : FType) : fInf f < 2 ^ (fWidth f - 1) := by
  rw [fInf_eq, fWidth_pred, Nat.pow_add, two_pow_fExpBits]
  exact Nat.mul_lt_mul_of_pos_right (by omega) (by positivity)

/-! Sign and magnitude -/

theorem fSign_eq (f : FType) (s : Bool) : fSign f s = 2 ^ (fWidth f - 1) * s.toNat := by cases s <;> simp [fSign]

theorem fMag_lt (f : FType) (a : Nat) : fMag f a < 2 ^ (fWidth f - 1) := Nat.mod_lt _ (by positivity)

theorem fMag_fSign_add {f : FType} {c : Nat} (s : Bool) (h : c < 2 ^ (fWidth f - 1)) : fMag f (fSign f s + c) = c := by
  rw [fMag, fSign_eq, Nat.mul_add_mod, Nat.mod_eq_of_lt h]

theorem fNeg_fSign_add {f : FType} {c : Nat} (s : Bool) (h : c < 2 ^ (fWidth f - 1)) : fNeg f (fSign f s + c) = s := by
  rw [fNeg, bitAt, fSign_eq, Nat.mul_add_div (by positivity), Nat.div_eq_of_lt h]
  cases s <;> rfl

/-- A bit pattern of the type is its sign and its magnitude. -/
theorem fSign_fNeg_add_fMag {f : FType} {a : Nat} (h : a < 2 ^ fWidth f) : fSign f (fNeg f a) + fMag f a = a := by
  have hq : a / 2 ^ (fWidth f - 1) < 2 := Nat.div_lt_of_lt_mul (by rwa [mul_comm, ← two_pow_fWidth])
  have hs : (fNeg f a).toNat = a / 2 ^ (fWidth f - 1) := by
    rw [fNeg, bitAt, Nat.mod_eq_of_lt hq]
    generalize a / 2 ^ (fWidth f - 1) = q at hq
    interval_cases q <;> rfl
  rw [fSign_eq, hs, fMag, Nat.div_add_mod]

/-- A sign before the code of ∞ is no finite number. -/
theorem not_fFinite_inf (f : FType) (s : Bool) : ¬ fFinite f (fSign f s + fInf f) := by
  rintro ⟨-, h⟩
  rw [fMag_fSign_add s (fInf_lt f)] at h
  exact h.false

/-! The values that codes stand for -/

/-- The magnitude with code `n` in units of the smallest subnormal; a fraction has `p` bits. -/
def grid (p n : Nat) : Nat := (n - (n / 2 ^ p - 1) * 2 ^ p) * 2 ^ (n / 2 ^ p - 1)

/-- The code of the significand `x` in the binade `k`; `x` may have rounded up to the start of the next one. -/
theorem grid_code {p k x : Nat} (hx : x ≤ 2 * 2 ^ p) (hk : k = 0 ∨ 2 ^ p ≤ x) : grid p (k * 2 ^ p + x) = x * 2 ^ k := by
  have hp : 0 < 2 ^ p := by positivity
  rw [grid]
  rcases lt_or_ge x (2 ^ p) with h | h
  · obtain rfl : k = 0 := hk.resolve_right (by omega)
    simp [Nat.div_eq_of_lt h]
  obtain ⟨y, rfl⟩ := Nat.exists_eq_add_of_le h
  rw [← add_assoc, ← Nat.succ_mul, mul_comm k.succ, Nat.mul_add_div hp]
  rcases lt_or_ge y (2 ^ p) with h' | h'
  · rw [Nat.div_eq_of_lt h', show k.succ + 0 - 1 = k by omega, Nat.mul_succ, mul_comm k,
      show 2 ^ p * k + 2 ^ p + y - 2 ^ p * k = 2 ^ p + y by omega]
  · obtain rfl : y = 2 ^ p := by omega
    rw [Nat.div_self hp, show k.succ + 1 - 1 = k + 1 by omega, Nat.mul_succ, mul_comm (k + 1), Nat.mul_succ,
      show 2 ^ p * k + 2 ^ p + 2 ^ p - (2 ^ p * k + 2 ^ p) = 2 ^ p by omega]
    ring

/-- Every code is a significand in a binade. -/
theorem exists_code (p n : Nat) : ∃ k x, n = k * 2 ^ p + x ∧ x < 2 * 2 ^ p ∧ (k = 0 ∨ 2 ^ p ≤ x) := by
  have hp : 0 < 2 ^ p := by positivity
  have hd := Nat.div_add_mod' n (2 ^ p)
  have hm := Nat.mod_lt n hp
  rcases hq : n / 2 ^ p with _ | k
  · exact ⟨0, n, by simp, by rw [hq] at hd; omega, .inl rfl⟩
  · rw [hq, Nat.succ_mul] at hd
    exact ⟨k, 2 ^ p + n % 2 ^ p, by omega, by omega, .inr (by omega)⟩

/-- Codes are ordered as the values they stand for. -/
theorem grid_strictMono (p : Nat) : StrictMono (grid p) := by
  refine strictMono_nat_of_lt_succ fun n => ?_
  obtain ⟨k, x, rfl, hx, hk⟩ := exists_code p n
  rw [add_assoc, grid_code hx.le hk, grid_code hx (hk.imp id fun h => h.trans x.le_succ)]
  exact Nat.mul_lt_mul_of_pos_right x.lt_succ_self (by positivity)

@[simp] theorem grid_zero (p : Nat) : grid p 0 = 0 := by simp [grid]

/-- The smallest subnormal of a type. -/
def fUlp (f : FType) : ℚ := 2 ^ (1 - (fBias f : Int) - fFrac f)

theorem fUlp_pos (f : FType) : 0 < fUlp f := by unfold fUlp; positivity

/-- The value of a code. -/
def codeVal (f : FType) (n : Nat) : ℚ := grid (fFrac f) n * fUlp f

theorem codeVal_strictMono (f : FType) : StrictMono (codeVal f) := fun _ _ h =>
  mul_lt_mul_of_pos_right (Nat.cast_lt.2 (grid_strictMono _ h)) (fUlp_pos f)

@[simp] theorem codeVal_zero (f : FType) : codeVal f 0 = 0 := by simp [codeVal]

theorem codeVal_nonneg (f : FType) (n : Nat) : 0 ≤ codeVal f n := by
  have := fUlp_pos f
  unfold codeVal; positivity

/-- The value of the significand `x` in the binade `k`. -/
theorem codeVal_code {f : FType} {k x : Nat} (hx : x ≤ 2 * 2 ^ fFrac f) (hk : k = 0 ∨ 2 ^ fFrac f ≤ x) :
    codeVal f (k * 2 ^ fFrac f + x) = x * 2 ^ (k + 1 - (fBias f : Int) - fFrac f) := by
  rw [codeVal, grid_code hx hk, fUlp, show (k + 1 - (fBias f : Int) - fFrac f) = k + (1 - (fBias f : Int) - fFrac f) by ring,
    zpow_add₀ two_ne_zero]
  push_cast
  rw [zpow_natCast]
  ring

/-- The code of ∞ stands for the power of 2 above all finite numbers. -/
theorem codeVal_fInf (f : FType) : codeVal f (fInf f) = 2 ^ (fBias f + 1 : Int) := by
  have h : fInf f = 2 * fBias f * 2 ^ fFrac f + 2 ^ fFrac f := by rw [fInf_eq]; ring
  rw [h, codeVal_code (by omega) (.inr le_rfl)]
  push_cast
  rw [← zpow_natCast, ← zpow_add₀ two_ne_zero]
  congr 1
  ring

/-! Decoding -/

/-- A sign as a number. -/
def sgn (s : Bool) : ℚ := if s then -1 else 1

@[simp] theorem sgn_false : sgn false = 1 := rfl
@[simp] theorem sgn_true : sgn true = -1 := rfl
@[simp] theorem abs_sgn (s : Bool) : |sgn s| = 1 := by cases s <;> simp
theorem sgn_bne (s t : Bool) : sgn (s != t) = sgn s * sgn t := by cases s <;> cases t <;> simp

/-- The value of a decoded float; 0 for a NaN or an infinity. -/
def fvVal : Fv → ℚ
  | .fin s m e => sgn s * (m * 2 ^ e)
  | _ => 0

theorem fval_eq (f : FType) (a : Nat) : fval f a = fvVal (fDecode f a) := by
  unfold fval
  cases fDecode f a <;> simp [fvVal, sgn]

/-- A magnitude below ∞ decodes to its value. -/
theorem fDecode_finite {f : FType} {a : Nat} (h : fMag f a < fInf f) :
    ∃ m e, fDecode f a = .fin (fNeg f a) m e ∧ (m : ℚ) * 2 ^ e = codeVal f (fMag f a) := by
  have hp : 0 < 2 ^ fFrac f := by positivity
  have hbe : fMag f a / 2 ^ fFrac f ≠ 2 ^ fExpBits f - 1 := fun e => by
    have := Nat.div_mul_le_self (fMag f a) (2 ^ fFrac f)
    rw [e] at this
    exact absurd h this.not_gt
  have hd := Nat.div_add_mod' (fMag f a) (2 ^ fFrac f)
  have hm := Nat.mod_lt (fMag f a) hp
  simp only [fDecode, if_neg hbe]
  rcases hq : fMag f a / 2 ^ fFrac f with _ | k
  · rw [hq, zero_mul, zero_add] at hd
    refine ⟨fMag f a, 1 - (fBias f : Int) - fFrac f, by simp [hd], ?_⟩
    have := codeVal_code (f := f) (k := 0) (x := fMag f a) (by omega) (.inl rfl)
    rw [zero_mul, zero_add] at this
    simp [this]
  · rw [hq] at hd
    refine ⟨fMag f a % 2 ^ fFrac f + 2 ^ fFrac f, (k + 1 : Nat) - (fBias f : Int) - fFrac f, by simp, ?_⟩
    have := codeVal_code (f := f) (k := k) (x := fMag f a % 2 ^ fFrac f + 2 ^ fFrac f) (by omega) (.inr (by omega))
    rw [show k * 2 ^ fFrac f + (fMag f a % 2 ^ fFrac f + 2 ^ fFrac f) = fMag f a by rw [Nat.succ_mul] at hd; omega] at this
    rw [this]
    push_cast
    rfl

/-- At the code of ∞ and above, the exponent is all ones. -/
theorem exponent_of_fInf_le {f : FType} {a : Nat} (h : fInf f ≤ fMag f a) :
    fMag f a / 2 ^ fFrac f = 2 ^ fExpBits f - 1 ∧ fMag f a % 2 ^ fFrac f = fMag f a - fInf f := by
  have hlt := fMag_lt f a
  rw [fWidth_pred, Nat.pow_add] at hlt
  have hq : fMag f a / 2 ^ fFrac f = 2 ^ fExpBits f - 1 :=
    Nat.div_eq_of_lt_le h (by rwa [Nat.sub_add_cancel Nat.one_le_two_pow])
  have := Nat.div_add_mod' (fMag f a) (2 ^ fFrac f)
  rw [hq] at this
  exact ⟨hq, by rw [fInf]; omega⟩

theorem fDecode_inf {f : FType} {a : Nat} (h : fMag f a = fInf f) : fDecode f a = .inf (fNeg f a) := by
  obtain ⟨h1, h2⟩ := exponent_of_fInf_le h.ge
  simp only [fDecode, h1, h2.trans (Nat.sub_eq_zero_of_le h.le), if_true]

theorem fDecode_nan {f : FType} {a : Nat} (h : fInf f < fMag f a) : ∃ s, fDecode f a = .nan s := by
  obtain ⟨h1, h2⟩ := exponent_of_fInf_le h.le
  refine ⟨!bitAt (fMag f a - fInf f) (fFrac f - 1), ?_⟩
  simp only [fDecode, h1, h2, if_true, if_neg (Nat.sub_ne_zero_of_lt h)]

/-- Exactly the NaNs decode to a NaN. -/
theorem fDecode_eq_nan_iff {f : FType} {a : Nat} : (∃ s, fDecode f a = .nan s) ↔ fIsNan f a := by
  refine ⟨fun ⟨s, hs⟩ => ?_, fDecode_nan⟩
  by_contra h
  rcases (not_lt.1 h).lt_or_eq with h | h
  · obtain ⟨m, e, hd, -⟩ := fDecode_finite h
    rw [hd] at hs; cases hs
  · rw [fDecode_inf h] at hs; cases hs

theorem isNan_iff {f : FType} {a : Nat} : isNan f a = true ↔ fIsNan f a := by
  rw [← fDecode_eq_nan_iff, isNan]
  cases fDecode f a <;> simp

/-- A finite number decodes to finite parts, no NaN and no infinity. -/
theorem exists_fin {f : FType} {a : Nat} (h : fFinite f a) : ∃ s m e, fDecode f a = .fin s m e :=
  have ⟨m, e, hd, _⟩ := fDecode_finite h.2
  ⟨_, m, e, hd⟩

/-- The value of a finite number is that of its code, with its sign. -/
theorem fval_finite {f : FType} {a : Nat} (h : fMag f a < fInf f) : fval f a = sgn (fNeg f a) * codeVal f (fMag f a) := by
  obtain ⟨m, e, hd, hv⟩ := fDecode_finite h
  rw [fval_eq, hd, fvVal, hv]

theorem fval_fSign_add {f : FType} {c : Nat} (s : Bool) (h : c < fInf f) :
    fval f (fSign f s + c) = sgn s * codeVal f c := by
  have h' := h.trans (fInf_lt f)
  rw [fval_finite (by rwa [fMag_fSign_add s h']), fMag_fSign_add s h', fNeg_fSign_add s h']

theorem abs_fval {f : FType} {a : Nat} (h : fMag f a < fInf f) : |fval f a| = codeVal f (fMag f a) := by
  rw [fval_finite h, abs_mul, abs_sgn, one_mul, abs_of_nonneg (codeVal_nonneg _ _)]

end Sys2Proof.Numbers
end

section
/-! Rounding (R38): the exact value lies between two neighbouring codes, and each mode picks one of them. -/

namespace Sys2Proof.Numbers

open Sys2Proof Sys2Proof.Machine

/-- The mode gives no number of greater magnitude than the exact value of this sign. -/
def truncates (rm : Rm) (neg : Bool) : Bool :=
  match rm with
  | .rz => true
  | .ru => neg
  | .rd => !neg
  | _ => false

/-- The mode gives no number of lesser magnitude than the exact value of this sign. -/
def raises (rm : Rm) (neg : Bool) : Bool :=
  match rm with
  | .ru => !neg
  | .rd => neg
  | _ => false

/-- `x` is what the mode makes of the magnitude `y`: a neighbouring whole number, and whether it is inexact. -/
structure RoundsTo (rm : Rm) (neg : Bool) (y : ℚ) (x : Nat × Bool) : Prop where
  neighbour : x.1 = ⌊y⌋₊ ∨ x.1 = ⌊y⌋₊ + 1
  exact : y = ⌊y⌋₊ → x = (⌊y⌋₊, false)
  nearest : rm = .rne → |(x.1 : ℚ) - y| ≤ 1 / 2
  down : truncates rm neg = true → x.1 = ⌊y⌋₊
  up : raises rm neg = true → y ≤ x.1

/-- A whole number stands under every mode. -/
theorem roundsTo_natCast (rm : Rm) (neg : Bool) (n : Nat) : RoundsTo rm neg n (n, false) := by
  constructor <;> simp

/-- A magnitude between two whole numbers, rounded up or down. -/
theorem roundsTo_between {rm : Rm} {neg up : Bool} {n : Nat} {r : ℚ} (h0 : 0 < r) (h1 : r < 1)
    (hn : rm = .rne → if up then 1 / 2 ≤ r else r ≤ 1 / 2) (hd : truncates rm neg = true → up = false)
    (hu : raises rm neg = true → up = true) : RoundsTo rm neg (n + r) (n + up.toNat, true) := by
  have hf : ⌊(n : ℚ) + r⌋₊ = n := by
    rw [Nat.floor_eq_iff (by positivity)]; constructor <;> linarith
  refine ⟨?_, fun h => ?_, fun h => ?_, fun h => ?_, fun h => ?_⟩
  · rw [hf]; cases up <;> simp
  · rw [hf] at h; linarith
  · have := hn h
    rw [abs_le]
    cases up <;> simp at this ⊢ <;> constructor <;> linarith
  · rw [hf, hd h]; rfl
  · rw [hu h]; simp; linarith

/-- What rounding makes of a magnitude that is not whole: the direction the mode picks. -/
theorem roundShift_inexact {m k : Nat} (rm : Rm) (u : Draw) (neg : Bool) (hr : m % 2 ^ k ≠ 0) :
    ∃ up : Bool, roundShift rm u neg m k = (m / 2 ^ k + up.toNat, true) ∧
      (rm = .rne → if up then 2 ^ k ≤ 2 * (m % 2 ^ k) else 2 * (m % 2 ^ k) ≤ 2 ^ k) ∧
      (truncates rm neg = true → up = false) ∧ (raises rm neg = true → up = true) := by
  have pick (up : Bool) (q : Nat) : (if up = true then q + 1 else q) = q + up.toNat := by cases up <;> rfl
  simp only [roundShift, if_neg hr, pick]
  refine ⟨_, rfl, ?_, ?_, ?_⟩
  · rintro rfl
    simp only
    split
    · next h => simp at h; omega
    · next h => simp at h; omega
  · cases rm <;> simp [truncates]
  · cases rm <;> simp [raises]

/-- Round to nearest is no farther than either neighbour. -/
theorem RoundsTo.nearest_le {neg : Bool} {y : ℚ} {x : Nat × Bool} (h : RoundsTo .rne neg y x) (hy : 0 ≤ y) :
    |(x.1 : ℚ) - y| ≤ y - ⌊y⌋₊ ∧ |(x.1 : ℚ) - y| ≤ ⌊y⌋₊ + 1 - y := by
  have hlo := Nat.floor_le hy
  have hhi := Nat.lt_floor_add_one y
  have hn := h.nearest rfl
  rcases h.neighbour with e | e <;> rw [e] at hn ⊢
  · rw [abs_sub_comm, abs_of_nonneg (by linarith)] at hn ⊢
    constructor <;> linarith
  · push_cast at hn ⊢
    rw [abs_of_nonneg (by linarith)] at hn ⊢
    constructor <;> linarith

/-- Rounding a magnitude with `k` places behind the point. -/
theorem roundShift_roundsTo (rm : Rm) (u : Draw) (neg : Bool) (m k : Nat) :
    RoundsTo rm neg (m / 2 ^ k) (roundShift rm u neg m k) := by
  have hk : (0 : ℚ) < 2 ^ k := by positivity
  have hy : (m : ℚ) / 2 ^ k = (m / 2 ^ k : Nat) + (m % 2 ^ k : Nat) / 2 ^ k := by
    have : (m : ℚ) = (m / 2 ^ k : Nat) * 2 ^ k + (m % 2 ^ k : Nat) := by exact_mod_cast (Nat.div_add_mod' m (2 ^ k)).symm
    rw [← mul_div_cancel_right₀ ((m / 2 ^ k : Nat) : ℚ) hk.ne', ← add_div, ← this]
  by_cases hr : m % 2 ^ k = 0
  · have : roundShift rm u neg m k = (m / 2 ^ k, false) := by simp only [roundShift, if_pos hr]
    rw [this, hy, hr]
    simpa using roundsTo_natCast rm neg (m / 2 ^ k)
  obtain ⟨up, h, hn, hd, hu⟩ := roundShift_inexact rm u neg hr
  have hlt : ((m % 2 ^ k : Nat) : ℚ) < 2 ^ k := by exact_mod_cast Nat.mod_lt m (by positivity)
  have hr0 : (0 : ℚ) < (m % 2 ^ k : Nat) := by exact_mod_cast Nat.pos_of_ne_zero hr
  rw [hy, h]
  refine roundsTo_between (by positivity) ((div_lt_one hk).2 hlt) (fun hrm => ?_) hd hu
  have := hn hrm
  rw [div_le_div_iff₀ two_pos hk, div_le_div_iff₀ hk two_pos, one_mul, mul_comm _ (2 : ℚ)]
  exact_mod_cast this

/-! The parts of a rounding -/

/-- The exponent of the last place kept of m × 2^e. -/
def lastPlace (f : FType) (m : Nat) (e : Int) : Int :=
  max (topBit m + e - fFrac f) (1 - fBias f - fFrac f)

/-- The significand of the result, and whether it is inexact. -/
def significand (f : FType) (rm : Rm) (u : Draw) (neg : Bool) (m : Nat) (e : Int) : Nat × Bool :=
  if lastPlace f m e ≤ e then (m * 2 ^ (e - lastPlace f m e).toNat, false)
  else roundShift rm u neg m (lastPlace f m e - e).toNat

/-- The binade of the result: 0 for subnormals and the smallest normal numbers. -/
def binade (f : FType) (m : Nat) (e : Int) : Nat := (lastPlace f m e + fFrac f + fBias f - 1).toNat

/-- The code of the result, if it does not overflow. -/
def roundCode (f : FType) (rm : Rm) (u : Draw) (neg : Bool) (m : Nat) (e : Int) : Nat :=
  binade f m e * 2 ^ fFrac f + (significand f rm u neg m e).1

/-- The result overflows (R39). -/
def overflows (f : FType) (rm : Rm) (u : Draw) (neg : Bool) (m : Nat) (e : Int) : Bool :=
  match rm with
  | .sr => decide ((fBias f : Int) < topBit m + e) || (decide (topBit m + e = (fBias f : Int)) &&
      (significand f rm u neg m e).2 && decide (m / 2 ^ (lastPlace f m e - e).toNat = 2 ^ (fFrac f + 1) - 1))
  | _ => decide (fInf f ≤ roundCode f rm u neg m e)

/-- An overflow gives ∞ and not the largest finite number. -/
def overflowsToInf (rm : Rm) (neg : Bool) : Bool :=
  match rm with
  | .rne | .sr => true
  | .rz => false
  | .ru => !neg
  | .rd => neg

section
variable {f : FType} {rm : Rm} {u : Draw} {neg : Bool} {m : Nat} {e : Int}

/-- The result of a rounding, from its parts. -/
theorem fRound_eq (hm : 0 < m) : ∃ st, ((significand f rm u neg m e).2 = false → st = 0) ∧
    fRound f rm u neg m e = if overflows f rm u neg m e then
        { r := fSign f neg + if overflowsToInf rm neg then fInf f else fInf f - 1, st := OVF ||| INX }
      else { r := fSign f neg + roundCode f rm u neg m e, st := st } := by
  rw [fRound.eq_def, if_neg hm.ne']
  refine ⟨_, fun hx => ?_, rfl⟩
  change (if (significand f rm u neg m e).2 then INX else 0) |||
    (if (significand f rm u neg m e).2 && _ && _ then UNF else 0) = 0
  simp [hx]
/-- Every mode but .sr overflows where the code reaches ∞. -/
theorem overflows_eq (h : rm ≠ .sr) : overflows f rm u neg m e = decide (fInf f ≤ roundCode f rm u neg m e) := by
  cases rm with
  | sr => exact absurd rfl h
  | _ => rfl

/-! The exact value between two codes -/

/-- The exact magnitude in units of the last place kept. -/
def scaled (f : FType) (m : Nat) (e : Int) : ℚ := m * 2 ^ (e - lastPlace f m e)

theorem significand_roundsTo : RoundsTo rm neg (scaled f m e) (significand f rm u neg m e) := by
  unfold significand scaled
  split
  · next h =>
    have : (m : ℚ) * 2 ^ (e - lastPlace f m e) = (m * 2 ^ (e - lastPlace f m e).toNat : Nat) := by
      push_cast
      rw [← zpow_natCast, Int.toNat_of_nonneg (by omega)]
    rw [this]
    exact roundsTo_natCast rm neg _
  · next h =>
    have : (m : ℚ) * 2 ^ (e - lastPlace f m e) = m / 2 ^ (lastPlace f m e - e).toNat := by
      rw [← zpow_natCast, Int.toNat_of_nonneg (by omega), div_eq_mul_inv, ← zpow_neg, neg_sub]
    rw [this]
    exact roundShift_roundsTo rm u neg m _

theorem scaled_nonneg : 0 ≤ scaled f m e := by unfold scaled; positivity

/-- The exact magnitude lies in the binade of its highest bit. -/
theorem topBit_bounds (hm : 0 < m) : (2 : ℚ) ^ (topBit m + e) ≤ m * 2 ^ e ∧ (m : ℚ) * 2 ^ e < 2 ^ (topBit m + e + 1) := by
  have hlo : (2 : ℚ) ^ topBit m ≤ m := by exact_mod_cast Nat.log2_self_le hm.ne'
  have hhi : (m : ℚ) < 2 ^ (topBit m + 1) := by exact_mod_cast Nat.lt_log2_self
  have he : (0 : ℚ) < 2 ^ e := by positivity
  constructor
  · rw [zpow_add₀ two_ne_zero, zpow_natCast]
    exact mul_le_mul_of_nonneg_right hlo he.le
  · rw [add_right_comm, zpow_add₀ two_ne_zero]
    exact mul_lt_mul_of_pos_right (by exact_mod_cast hhi) he

theorem lastPlace_mul_scaled (f : FType) (m : Nat) (e : Int) : scaled f m e * 2 ^ lastPlace f m e = m * 2 ^ e := by
  rw [scaled, mul_assoc, ← zpow_add₀ two_ne_zero, sub_add_cancel]

theorem binade_eq : (binade f m e : Int) = lastPlace f m e + fFrac f + fBias f - 1 :=
  Int.toNat_of_nonneg (by unfold lastPlace; omega)

/-- The whole part of the significand has no more bits than the type keeps. -/
theorem floor_scaled_lt (hm : 0 < m) : ⌊scaled f m e⌋₊ < 2 * 2 ^ fFrac f := by
  rw [Nat.floor_lt scaled_nonneg]
  refine ((topBit_bounds (e := e - lastPlace f m e) hm).2).trans_le ?_
  rw [← pow_succ']
  push_cast
  rw [← zpow_natCast]
  exact zpow_le_zpow_right₀ one_le_two (by unfold lastPlace; push_cast; omega)

/-- The whole part of the significand of a normal number has as many bits as the type keeps. -/
theorem binade_zero_or (hm : 0 < m) : binade f m e = 0 ∨ 2 ^ fFrac f ≤ ⌊scaled f m e⌋₊ := by
  by_cases h : topBit m + e - fFrac f ≤ 1 - fBias f - fFrac f
  · left; unfold binade lastPlace; omega
  · right
    refine Nat.le_floor (le_trans ?_ (topBit_bounds (e := e - lastPlace f m e) hm).1)
    push_cast
    rw [← zpow_natCast]
    exact zpow_le_zpow_right₀ one_le_two (by unfold lastPlace; omega)

/-- The greatest code whose value is at most m × 2^e. -/
def lowCode (f : FType) (m : Nat) (e : Int) : Nat := binade f m e * 2 ^ fFrac f + ⌊scaled f m e⌋₊

/-- The value of a code from its significand, which may be the whole part of the exact one or the next. -/
theorem codeVal_binade (hm : 0 < m) {x : Nat} (h : ⌊scaled f m e⌋₊ ≤ x) (h' : x ≤ ⌊scaled f m e⌋₊ + 1) :
    codeVal f (binade f m e * 2 ^ fFrac f + x) = x * 2 ^ lastPlace f m e := by
  rw [codeVal_code (h'.trans (floor_scaled_lt hm)) ((binade_zero_or hm).imp id h.trans'), binade_eq]
  congr 2
  ring

theorem codeVal_lowCode (hm : 0 < m) : codeVal f (lowCode f m e) = ⌊scaled f m e⌋₊ * 2 ^ lastPlace f m e :=
  codeVal_binade hm le_rfl (Nat.le_succ _)

theorem codeVal_lowCode_succ (hm : 0 < m) :
    codeVal f (lowCode f m e + 1) = (⌊scaled f m e⌋₊ + 1) * 2 ^ lastPlace f m e := by
  rw [lowCode, add_assoc, codeVal_binade hm (Nat.le_succ _) le_rfl]; push_cast; rfl

theorem codeVal_roundCode (hm : 0 < m) :
    codeVal f (roundCode f rm u neg m e) = (significand f rm u neg m e).1 * 2 ^ lastPlace f m e := by
  have h := (significand_roundsTo (f := f) (rm := rm) (u := u) (neg := neg) (m := m) (e := e)).neighbour
  exact codeVal_binade hm (by omega) (by omega)

/-- The exact value is at least that of the lower code. -/
theorem codeVal_lowCode_le (hm : 0 < m) : codeVal f (lowCode f m e) ≤ m * 2 ^ e := by
  rw [codeVal_lowCode hm, ← lastPlace_mul_scaled f m e]
  exact mul_le_mul_of_nonneg_right (Nat.floor_le scaled_nonneg) (zpow_pos two_pos _).le

/-- The exact value is less than that of the code after the lower one. -/
theorem lt_codeVal_lowCode_succ (hm : 0 < m) : (m : ℚ) * 2 ^ e < codeVal f (lowCode f m e + 1) := by
  rw [codeVal_lowCode_succ hm, ← lastPlace_mul_scaled f m e]
  exact mul_lt_mul_of_pos_right (Nat.lt_floor_add_one _) (zpow_pos two_pos _)

/-! What each mode gives -/

/-- A mode that truncates gives the lower code, or the largest finite number. -/
theorem fRound_truncates (hm : 0 < m) (h : truncates rm neg = true) :
    ∃ c < fInf f, (fRound f rm u neg m e).r = fSign f neg + c ∧ codeVal f c ≤ m * 2 ^ e := by
  have hsr : rm ≠ .sr := by rintro rfl; cases h
  have hc : roundCode f rm u neg m e = lowCode f m e := by rw [roundCode, significand_roundsTo.down h, lowCode]
  have hle := codeVal_lowCode_le (f := f) (e := e) hm
  obtain ⟨st, -, hr⟩ := fRound_eq (f := f) (rm := rm) (u := u) (neg := neg) (e := e) hm
  rw [hr, overflows_eq hsr, hc]
  by_cases ho : fInf f ≤ lowCode f m e
  · have hi : overflowsToInf rm neg = false := by revert h; cases rm <;> cases neg <;> simp [truncates, overflowsToInf]
    have hp := fInf_pos f
    refine ⟨fInf f - 1, by omega, by simp [ho, hi], le_trans ?_ hle⟩
    exact (codeVal_strictMono f).monotone (by omega)
  · exact ⟨lowCode f m e, by omega, by simp [ho], hle⟩

/-- A mode that does not truncate gives the rounded code or ∞. -/
theorem fRound_finite (hm : 0 < m) (hsr : rm ≠ .sr) (h : truncates rm neg = false)
    (hf : fFinite f (fRound f rm u neg m e).r) :
    roundCode f rm u neg m e < fInf f ∧ (fRound f rm u neg m e).r = fSign f neg + roundCode f rm u neg m e := by
  obtain ⟨st, -, hr⟩ := fRound_eq (f := f) (rm := rm) (u := u) (neg := neg) (e := e) hm
  rw [hr, overflows_eq hsr] at hf ⊢
  by_cases ho : fInf f ≤ roundCode f rm u neg m e
  · have hi : overflowsToInf rm neg = true := by revert h; cases rm <;> cases neg <;> simp [truncates, overflowsToInf]
    simp only [ho, hi, decide_true, if_true] at hf
    exact absurd hf (not_fFinite_inf f neg)
  · exact ⟨by omega, by simp [ho]⟩

/-- A mode that raises gives at least the exact value. -/
theorem le_codeVal_of_raises (hm : 0 < m) (h : raises rm neg = true) :
    (m : ℚ) * 2 ^ e ≤ codeVal f (roundCode f rm u neg m e) := by
  rw [codeVal_roundCode hm, ← lastPlace_mul_scaled f m e]
  exact mul_le_mul_of_nonneg_right (significand_roundsTo.up h) (by positivity)

/-- Under RNE no code has a value nearer to the exact one. -/
theorem codeVal_nearest (hm : 0 < m) (n : Nat) :
    |codeVal f (roundCode f .rne u neg m e) - m * 2 ^ e| ≤ |codeVal f n - m * 2 ^ e| := by
  have hpos : (0 : ℚ) < 2 ^ lastPlace f m e := by positivity
  have hmono := (codeVal_strictMono f).monotone
  obtain ⟨hlo, hhi⟩ := (significand_roundsTo (f := f) (u := u) (neg := neg) (m := m) (e := e)).nearest_le scaled_nonneg
  have hv : |codeVal f (roundCode f .rne u neg m e) - m * 2 ^ e| =
      |((significand f .rne u neg m e).1 : ℚ) - scaled f m e| * 2 ^ lastPlace f m e := by
    rw [codeVal_roundCode hm, ← lastPlace_mul_scaled f m e, ← sub_mul, abs_mul, abs_of_pos hpos]
  rw [hv]
  rcases Nat.lt_or_ge (lowCode f m e) n with hn | hn
  · calc _ ≤ (⌊scaled f m e⌋₊ + 1 - scaled f m e) * 2 ^ lastPlace f m e := mul_le_mul_of_nonneg_right hhi hpos.le
      _ = codeVal f (lowCode f m e + 1) - m * 2 ^ e := by
        rw [codeVal_lowCode_succ hm, sub_mul, lastPlace_mul_scaled]
      _ ≤ codeVal f n - m * 2 ^ e := sub_le_sub_right (hmono hn) _
      _ ≤ _ := le_abs_self _
  · calc _ ≤ (scaled f m e - ⌊scaled f m e⌋₊) * 2 ^ lastPlace f m e := mul_le_mul_of_nonneg_right hlo hpos.le
      _ = m * 2 ^ e - codeVal f (lowCode f m e) := by rw [codeVal_lowCode hm, sub_mul, lastPlace_mul_scaled]
      _ ≤ m * 2 ^ e - codeVal f n := sub_le_sub_left (hmono hn) _
      _ ≤ _ := by rw [abs_sub_comm]; exact le_abs_self _

/-- A value of the type stands under every mode and is exact. -/
theorem fRound_exact {c : Nat} (hm : 0 < m) (hc : c < fInf f) (hv : (m : ℚ) * 2 ^ e = codeVal f c) :
    fRound f rm u neg m e = { r := fSign f neg + c, st := 0 } := by
  have hmono := codeVal_strictMono f
  have hlow : lowCode f m e = c := by
    have h1 := hmono.le_iff_le.1 (hv ▸ codeVal_lowCode_le hm)
    have h2 := hmono.lt_iff_lt.1 (hv ▸ lt_codeVal_lowCode_succ hm)
    omega
  have hy : scaled f m e = ⌊scaled f m e⌋₊ := by
    have h1 := codeVal_lowCode (f := f) (e := e) hm
    rw [hlow, ← hv, ← lastPlace_mul_scaled f m e] at h1
    exact mul_right_cancel₀ (zpow_ne_zero _ two_ne_zero) h1
  have hsig : significand f rm u neg m e = (⌊scaled f m e⌋₊, false) := significand_roundsTo.exact hy
  have hcode : roundCode f rm u neg m e = c := by rw [roundCode, hsig, ← hlow, lowCode]
  have hfits : overflows f rm u neg m e = false := by
    by_cases hsr : rm = .sr
    · have htop : topBit m + e < (fBias f : Int) + 1 := by
        rw [← zpow_lt_zpow_iff_right₀ (one_lt_two (α := ℚ)), ← codeVal_fInf]
        exact (topBit_bounds hm).1.trans_lt (hv ▸ hmono hc)
      simp only [hsr, overflows] at hsig ⊢
      simp [hsig]; omega
    · rw [overflows_eq hsr, hcode]; simpa using hc
  obtain ⟨st, hst, hr⟩ := fRound_eq (f := f) (rm := rm) (u := u) (neg := neg) (e := e) hm
  rw [hr, hfits, hcode, hst (by rw [hsig])]
  rfl

/-- A result that does not overflow has a code of at most ∞. -/
theorem roundCode_le_of_fits (hm : 0 < m) (h : overflows f rm u neg m e = false) : roundCode f rm u neg m e ≤ fInf f := by
  by_cases hsr : rm = .sr
  · have htop : topBit m + e ≤ (fBias f : Int) := by
      simp only [hsr, overflows, Bool.or_eq_false_iff, decide_eq_false_iff_not] at h
      omega
    have hk : binade f m e ≤ 2 * fBias f - 1 := by
      have := fBias_pos f
      unfold binade lastPlace
      omega
    have hx : (significand f rm u neg m e).1 ≤ 2 * 2 ^ fFrac f := by
      have := (significand_roundsTo (f := f) (rm := rm) (u := u) (neg := neg) (m := m) (e := e)).neighbour
      have := floor_scaled_lt (f := f) (e := e) hm
      omega
    calc roundCode f rm u neg m e ≤ (2 * fBias f - 1) * 2 ^ fFrac f + 2 * 2 ^ fFrac f :=
          Nat.add_le_add (Nat.mul_le_mul_right _ hk) hx
      _ = fInf f := by
        have := fBias_pos f
        rw [fInf_eq, ← Nat.add_mul, show 2 * fBias f - 1 + 2 = 2 * fBias f + 1 by omega]
  · rw [overflows_eq hsr] at h
    simp at h; omega

/-- A rounding gives a sign and a code of at most ∞: never a NaN. -/
theorem exists_fRound_code : ∃ c ≤ fInf f, (fRound f rm u neg m e).r = fSign f neg + c := by
  rcases m.eq_zero_or_pos with rfl | hm
  · exact ⟨0, Nat.zero_le _, by simp [fRound]⟩
  obtain ⟨st, -, hr⟩ := fRound_eq (f := f) (rm := rm) (u := u) (neg := neg) (e := e) hm
  rw [hr]
  cases ho : overflows f rm u neg m e
  · exact ⟨_, roundCode_le_of_fits hm ho, rfl⟩
  · exact ⟨_, by split <;> omega, rfl⟩

end

end Sys2Proof.Numbers
end

section
/-! Rounding, sums and products of floats (R34, R37, R38). -/

namespace Sys2Proof.Numbers

open Sys2Proof Sys2Proof.Machine

/-- The distance to an exact value of sign `s` is at least that of the code or of 0. -/
theorem abs_sub_sgn_mul (s t : Bool) (v w : ℚ) (hv : 0 ≤ v) (hw : 0 ≤ w) :
    |sgn t * v - sgn s * w| = |v - w| ∨ |0 - w| ≤ |sgn t * v - sgn s * w| := by
  rcases eq_or_ne t s with rfl | h
  · left
    rw [← mul_sub, abs_mul, abs_sgn, one_mul]
  · right
    have ht : sgn t = -sgn s := by revert h; cases s <;> cases t <;> simp
    rw [ht, show -sgn s * v - sgn s * w = -(sgn s * (v + w)) by ring, abs_neg, abs_mul, abs_sgn, one_mul, zero_sub, abs_neg]
    exact abs_le_abs_of_nonneg hw (by linarith)

/-- Settles O13: RNE picks the nearer of the two codes around the exact value, the other modes one of them by its side. -/
theorem roundingIsNearest : Obligations.RoundingIsNearest := by
  intro f s m e hm
  have hw : (0 : ℚ) ≤ m * 2 ^ e := by positivity
  have hex : (if s then -1 else 1 : ℚ) * m * 2 ^ e = sgn s * (m * 2 ^ e) := by rw [mul_assoc]; rfl
  simp only [hex]
  refine ⟨fun hf n hn => ?_, fun hf => ?_, fun hf => ?_, fun hf => ?_⟩
  · obtain ⟨hc, hr⟩ := fRound_finite hm (by decide) rfl hf
    have hnear := codeVal_nearest (f := f) (u := .none) (neg := s) (e := e) hm
    rw [hr, fval_fSign_add s hc, fval_finite hn.2, ← mul_sub, abs_mul, abs_sgn, one_mul]
    rcases abs_sub_sgn_mul s (fNeg f n) _ _ (codeVal_nonneg f (fMag f n)) hw with h | h
    · rw [h]; exact hnear _
    · exact (codeVal_zero f ▸ hnear 0).trans h
  · obtain ⟨c, hc, hr, hle⟩ := fRound_truncates (f := f) (rm := .rz) (u := .none) (neg := s) (e := e) hm rfl
    rw [hr, fval_fSign_add s hc, abs_mul, abs_mul, abs_sgn, one_mul, one_mul, abs_of_nonneg (codeVal_nonneg f c), abs_of_nonneg hw]
    exact hle
  · cases s
    · obtain ⟨hc, hr⟩ := fRound_finite hm (by decide) rfl hf
      rw [hr, fval_fSign_add _ hc, sgn_false, one_mul, one_mul]
      exact le_codeVal_of_raises hm rfl
    · obtain ⟨c, hc, hr, hle⟩ := fRound_truncates (f := f) (rm := .ru) (u := .none) (neg := true) (e := e) hm rfl
      rw [hr, fval_fSign_add _ hc, sgn_true]
      linarith
  · cases s
    · obtain ⟨c, hc, hr, hle⟩ := fRound_truncates (f := f) (rm := .rd) (u := .none) (neg := false) (e := e) hm rfl
      rw [hr, fval_fSign_add _ hc, sgn_false]
      linarith
    · obtain ⟨hc, hr⟩ := fRound_finite hm (by decide) rfl hf
      rw [hr, fval_fSign_add _ hc, sgn_true]
      have := le_codeVal_of_raises (f := f) (u := .none) (e := e) hm (show raises .rd true = true from rfl)
      linarith

/-! Exact sums and products (R37) -/

/-- A decoded float that is finite. -/
def IsFin (x : Fv) : Prop := ∃ s m e, x = .fin s m e

theorem fin_fDecode {f : FType} {a : Nat} (h : fFinite f a) : IsFin (fDecode f a) := exists_fin h

theorem fin_fOpp {x : Fv} (h : IsFin x) : IsFin (fOpp x) := by
  obtain ⟨s, m, e, rfl⟩ := h
  exact ⟨!s, m, e, rfl⟩

theorem fvVal_fOpp (x : Fv) : fvVal (fOpp x) = -fvVal x := by
  rcases x with s | s | ⟨s, m, e⟩
  · simp [fOpp, fvVal]
  · simp [fOpp, fvVal]
  · cases s <;> simp [fOpp, fvVal]

/-- The product of finite values is finite and exact. -/
theorem fProd_fin {x y : Fv} (hx : IsFin x) (hy : IsFin y) : ∃ p, fProd x y = some p ∧ IsFin p ∧ fvVal p = fvVal x * fvVal y := by
  obtain ⟨s, m, e, rfl⟩ := hx
  obtain ⟨t, n, k, rfl⟩ := hy
  refine ⟨_, rfl, ⟨_, _, _, rfl⟩, ?_⟩
  simp only [fvVal, sgn_bne, zpow_add₀ (two_ne_zero (α := ℚ))]
  push_cast
  ring

/-- Finite operands give no NaN by themselves. -/
theorem nanOf?_fin (f : FType) {xs : List Fv} (h : ∀ x ∈ xs, IsFin x) : nanOf? f xs = none := by
  rw [nanOf?, if_neg]
  rw [List.any_eq_true]
  rintro ⟨x, hx, hn⟩
  obtain ⟨s, m, e, rfl⟩ := h x hx
  cases hn

/-- No non-zero finite term has an exponent below the least one. -/
theorem minExp_le {xs : List Fv} {s : Bool} {m : Nat} {e : Int} (hx : .fin s m e ∈ xs) (hm : m ≠ 0) : minExp xs ≤ e := by
  have hle : ∀ (l : List Int) (a : Int), l.foldl min a ≤ a ∧ ∀ b ∈ l, l.foldl min a ≤ b := by
    intro l
    induction l with
    | nil => simp
    | cons c l ih =>
      intro a
      obtain ⟨h1, h2⟩ := ih (min a c)
      simp only [List.foldl_cons, List.mem_cons, forall_eq_or_imp]
      exact ⟨by omega, by omega, h2⟩
  refine (hle _ _).2 e (List.mem_filterMap.2 ⟨_, hx, ?_⟩)
  simp [hm]

/-- A term of a sum in units of 2^e. -/
def termAt (e : Int) : Fv → Int
  | .fin s m k => (if s then -1 else 1) * (m * 2 ^ (k - e).toNat : Nat)
  | _ => 0

theorem sumAt_eq (e : Int) (xs : List Fv) : sumAt e xs = (xs.map (termAt e)).sum := by
  have hstep (a : Int) (x : Fv) : (match x with
      | .fin s m k => if m = 0 then a else a + (if s then -1 else 1) * (m * 2 ^ (k - e).toNat : Nat)
      | _ => a) = a + termAt e x := by
    rcases x with s | s | ⟨s, m, k⟩
    · simp [termAt]
    · simp [termAt]
    · by_cases hm : m = 0 <;> simp [termAt, hm]
  rw [List.sum_eq_foldl, List.foldl_map, ← funext₂ hstep]
  rfl

/-- A term is exact in units that are no greater than its own. -/
theorem termAt_mul {e : Int} {x : Fv} (hx : IsFin x) (he : ∀ s m k, x = .fin s m k → m ≠ 0 → e ≤ k) :
    (termAt e x : ℚ) * 2 ^ e = fvVal x := by
  obtain ⟨s, m, k, rfl⟩ := hx
  by_cases hm : m = 0
  · simp [termAt, fvVal, hm]
  have hk : (2 : ℚ) ^ k = 2 ^ (k - e).toNat * 2 ^ e := by
    rw [← zpow_natCast, Int.toNat_of_nonneg (sub_nonneg.2 (he s m k rfl hm)), ← zpow_add₀ two_ne_zero, sub_add_cancel]
  rw [termAt, fvVal, hk]
  cases s <;> simp <;> ring

/-- The exact sum of finite terms. -/
theorem sumAt_minExp {xs : List Fv} (hf : ∀ x ∈ xs, IsFin x) :
    (sumAt (minExp xs) xs : ℚ) * 2 ^ minExp xs = (xs.map fvVal).sum := by
  rw [sumAt_eq, Int.cast_list_sum, List.map_map, ← List.sum_map_mul_right]
  congr 1
  refine List.map_congr_left fun x hx => termAt_mul (hf x hx) ?_
  rintro s m k rfl hm
  exact minExp_le hx hm

/-- A whole multiple of a positive unit, taken apart into magnitude and sign. -/
theorem natAbs_sign_of_mul {n : Int} {p v : ℚ} {s : Bool} (hp : 0 < p) (hv : 0 ≤ v) (h0 : sgn s * v ≠ 0)
    (h : n * p = sgn s * v) : (n.natAbs : ℚ) * p = v ∧ decide (n < 0) = s := by
  have hv' : 0 < v := hv.lt_of_ne' (right_ne_zero_of_mul h0)
  constructor
  · rw [Nat.cast_natAbs, Int.cast_abs, ← abs_of_pos hp, ← abs_mul, h, abs_mul, abs_sgn, one_mul, abs_of_nonneg hv]
  · cases s
    · have : (0 : ℚ) < n := pos_of_mul_pos_left (by rw [h]; simpa using hv') hp.le
      simpa using (Int.cast_pos.1 this).le
    · have : (n : ℚ) < 0 := neg_of_mul_neg_left (by rw [h]; simpa using hv') hp.le
      simpa using this

/-- A sum of finite terms that is a number of the type other than 0 is that number. -/
theorem fSum_exact {f : FType} (rm : Rm) (u : Draw) {xs : List Fv} {r : Nat} (hf : ∀ x ∈ xs, IsFin x) (hr : fFinite f r)
    (h0 : fval f r ≠ 0) (hv : (xs.map fvVal).sum = fval f r) : fSum f rm u xs = { r := r, st := 0 } := by
  have hinf (s : Bool) : xs.any (· == .inf s) = false := by
    rw [List.any_eq_false]
    intro x hx
    obtain ⟨t, m, e, rfl⟩ := hf x hx
    simp
  have hsum := sumAt_minExp hf
  rw [hv, fval_finite hr.2] at hsum
  rw [fval_finite hr.2] at h0
  obtain ⟨habs, hsign⟩ := natAbs_sign_of_mul (zpow_pos two_pos _) (codeVal_nonneg f _) h0 hsum
  have hs : sumAt (minExp xs) xs ≠ 0 := fun h => h0 (by rw [← hsum, h]; simp)
  simp only [fSum, hinf, Bool.false_and, if_neg hs, hsign]
  simp only [Bool.false_eq_true, if_false]
  rw [fRound_exact (Int.natAbs_pos.2 hs) hr.2 habs, fSign_fNeg_add_fMag hr.1]

/-- Settles O12: a sum or product of finite operands is exact before its one rounding, which keeps numbers of the type. -/
theorem exactResultsStand : Obligations.ExactResultsStand := by
  intro f rm a b c r ha hb hc hr h0
  have ha' := fin_fDecode ha
  have hb' := fin_fDecode hb
  have hc' := fin_fDecode hc
  obtain ⟨p, hp, hpf, hpv⟩ := fProd_fin ha' hb'
  refine ⟨fun h => ?_, fun h => ?_, fun h => ?_, fun h => ?_⟩
  · rw [fAdd, nanOf?_fin f (by simp [ha', hb']), Option.getD_none]
    exact fSum_exact rm .none (by simp [ha', hb']) hr h0 (by simpa [← fval_eq] using h)
  · rw [fSub, nanOf?_fin f (by simp [ha', hb']), Option.getD_none]
    exact fSum_exact rm .none (by simp [ha', fin_fOpp hb']) hr h0 (by simpa [← fval_eq, fvVal_fOpp, sub_eq_add_neg] using h)
  · simp only [fMul, nanOf?_fin f (show ∀ x ∈ [fDecode f a, fDecode f b], IsFin x by simp [ha', hb']), Option.getD_none, hp]
    exact fSum_exact rm .none (by simp [hpf]) hr h0 (by simpa [hpv, ← fval_eq] using h)
  · simp only [fFma, nanOf?_fin f (show ∀ x ∈ [fDecode f a, fDecode f b, fDecode f c], IsFin x by simp [ha', hb', hc']), hp]
    exact fSum_exact rm .none (by simp [hpf, hc']) hr h0 (by simpa [hpv, ← fval_eq] using h)

end Sys2Proof.Numbers
end

section
/-! NaNs, comparisons and signs (R35, R36, R121). -/

namespace Sys2Proof.Numbers

open Sys2Proof Sys2Proof.Machine

/-! Results that are a NaN (R35) -/

/-- The result is the canonical NaN if it is a NaN at all. -/
def Canonical (f : FType) (r : Nat) : Prop := fIsNan f r → r = fNan f

theorem canonical_fNan (f : FType) : Canonical f (fNan f) := fun _ => rfl

/-- A sign before a code of at most ∞ is no NaN. -/
theorem not_fIsNan_fSign_add {f : FType} {c : Nat} (s : Bool) (h : c ≤ fInf f) : ¬ fIsNan f (fSign f s + c) := by
  rw [fIsNan, fMag_fSign_add s (h.trans_lt (fInf_lt f))]
  omega

theorem canonical_fSign_add {f : FType} {c : Nat} (s : Bool) (h : c ≤ fInf f) : Canonical f (fSign f s + c) :=
  fun hn => absurd hn (not_fIsNan_fSign_add s h)

/-- What decodes to no NaN is none. -/
theorem canonical_of_fDecode {f : FType} {a : Nat} (h : ∀ s, fDecode f a ≠ .nan s) : Canonical f a :=
  fun hn => let ⟨s, hs⟩ := fDecode_nan hn; absurd hs (h s)

theorem canonical_fRound (f : FType) (rm : Rm) (u : Draw) (s : Bool) (m : Nat) (e : Int) :
    Canonical f (fRound f rm u s m e).r := by
  obtain ⟨c, hc, hr⟩ := exists_fRound_code (f := f) (rm := rm) (u := u) (neg := s) (m := m) (e := e)
  rw [hr]
  exact canonical_fSign_add s hc

theorem canonical_fSum (f : FType) (rm : Rm) (u : Draw) (xs : List Fv) : Canonical f (fSum f rm u xs).r := by
  have hzero (s : Bool) : Canonical f (fSign f s) := canonical_fSign_add (c := 0) s (Nat.zero_le _)
  have hinf : Canonical f (fInf f) := by simpa [fSign] using canonical_fSign_add (f := f) false le_rfl
  simp only [fSum]
  split
  · exact canonical_fNan f
  split
  · exact hinf
  split
  · exact canonical_fSign_add true le_rfl
  split
  · exact hzero _
  · exact canonical_fRound f rm u _ _ _

/-- Where an operand is a NaN, so is the result: the canonical one. -/
theorem nanOf?_r {f : FType} {xs : List Fv} {n : FRes} (h : nanOf? f xs = some n) : n.r = fNan f := by
  unfold nanOf? at h
  split at h
  · rw [← Option.some.inj h]
  · cases h

theorem canonical_nanOf?_getD {f : FType} {xs : List Fv} {r : FRes} (h : nanOf? f xs = none → Canonical f r.r) :
    Canonical f ((nanOf? f xs).getD r).r := by
  cases hn : nanOf? f xs with
  | none => exact h hn
  | some n => rw [Option.getD_some, nanOf?_r hn]; exact canonical_fNan f

/-- A NaN among the operands. -/
theorem exists_nanOf? (f : FType) {xs : List Fv} {s : Bool} (h : .nan s ∈ xs) : ∃ n, nanOf? f xs = some n := by
  rw [nanOf?, if_pos (List.any_eq_true.2 ⟨_, h, rfl⟩)]
  exact ⟨_, rfl⟩

theorem nanOf?_getD_r (f : FType) {xs : List Fv} {s : Bool} (h : .nan s ∈ xs) (r : FRes) :
    ((nanOf? f xs).getD r).r = fNan f := by
  obtain ⟨n, hn⟩ := exists_nanOf? f h
  rw [hn, Option.getD_some, nanOf?_r hn]

@[simp] theorem inv_r (x : FRes) (b : Bool) : (x.inv b).r = x.r := by cases b <;> rfl

/-- A rounded product, or the NaN of an invalid one. -/
theorem canonical_match_fProd (f : FType) (rm : Rm) (o : Option Fv) (zs : List Fv) :
    Canonical f (match o with
      | none => ({ r := fNan f, st := INV } : FRes)
      | some p => fSum f rm .none (p :: zs)).r := by
  cases o
  · exact canonical_fNan f
  · exact canonical_fSum f rm _ _

theorem canonical_fMul (f : FType) (rm : Rm) (a b : Nat) : Canonical f (fMul f rm a b).r :=
  canonical_nanOf?_getD fun _ => canonical_match_fProd f rm _ []

theorem canonical_fFma (f : FType) (rm : Rm) (a b c : Nat) : Canonical f (fFma f rm a b c).r := by
  simp only [fFma]
  cases hn : nanOf? f [fDecode f a, fDecode f b, fDecode f c] with
  | none => exact canonical_match_fProd f rm _ [fDecode f c]
  | some n => simp only [inv_r, nanOf?_r hn]; exact canonical_fNan f

/-- FMIN and FMAX give the canonical NaN of two NaNs, else an operand that is none. -/
theorem fMinMax_cases (f : FType) (isMax : Bool) (a b : Nat) :
    (fIsNan f a ∧ fIsNan f b ∧ (fMinMax f isMax a b).r = fNan f) ∨
      (¬ (fIsNan f a ∧ fIsNan f b) ∧ ¬ fIsNan f (fMinMax f isMax a b).r) := by
  have ha := isNan_iff (f := f) (a := a)
  have hb := isNan_iff (f := f) (a := b)
  by_cases hna : fIsNan f a <;> by_cases hnb : fIsNan f b <;> simp only [hna, hnb, iff_true, iff_false, Bool.not_eq_true] at ha hb
  · left; exact ⟨hna, hnb, by simp [fMinMax, ha, hb]⟩
  · right; exact ⟨fun h => hnb h.2, by simpa [fMinMax, ha, hb] using hnb⟩
  · right; exact ⟨fun h => hna h.1, by simpa [fMinMax, ha, hb] using hna⟩
  · right
    refine ⟨fun h => hna h.1, ?_⟩
    simp only [fMinMax, ha, hb, Bool.false_and, Bool.false_eq_true, if_false]
    split
    · exact hna
    · exact hnb

theorem canonical_fMinMax (f : FType) (isMax : Bool) (a b : Nat) : Canonical f (fMinMax f isMax a b).r := by
  rcases fMinMax_cases f isMax a b with ⟨-, -, h⟩ | ⟨-, h⟩
  · exact fun _ => h
  · exact fun hn => absurd hn h

/-- FABS and FNEG of a number change its sign only. -/
theorem fSigned_r {f : FType} {a : Nat} (flip : Bool) (h : ¬ fIsNan f a) :
    (fSigned f flip a).r = fSign f (flip && !fNeg f a) + fMag f a := by
  have hnone : nanOf? f [fDecode f a] = none := by
    rw [nanOf?, if_neg]
    intro hany
    simp only [List.any_cons, List.any_nil, Bool.or_false] at hany
    refine h (fDecode_eq_nan_iff.1 ?_)
    cases hd : fDecode f a with
    | nan s => exact ⟨s, rfl⟩
    | inf s => rw [hd] at hany; cases hany
    | fin s m e => rw [hd] at hany; cases hany
  rw [fSigned, hnone, Option.getD_none, add_comm]

theorem canonical_fSigned (f : FType) (flip : Bool) (a : Nat) : Canonical f (fSigned f flip a).r := by
  by_cases h : fIsNan f a
  · obtain ⟨s, hs⟩ := fDecode_nan h
    exact fun _ => nanOf?_getD_r f (s := s) (by simp [hs]) _
  · rw [fSigned_r flip h]
    exact canonical_fSign_add _ (not_lt.1 h)

theorem canonical_fRcp (f : FType) (rm : Rm) (a : Nat) : Canonical f (fRcp f rm a).r := by
  refine canonical_nanOf?_getD fun _ => ?_
  cases fDecode f a with
  | nan s => exact canonical_fNan f
  | inf s => exact canonical_fSign_add (c := 0) s (Nat.zero_le _)
  | fin s m e =>
    simp only
    split
    · exact canonical_fSign_add s le_rfl
    · exact canonical_fRound f rm _ _ _ _

theorem canonical_fSqrt (f : FType) (rm : Rm) (a : Nat) : Canonical f (fSqrt f rm a).r := by
  refine canonical_nanOf?_getD fun _ => ?_
  cases hd : fDecode f a with
  | nan s => exact canonical_fNan f
  | inf s =>
    cases s
    · exact canonical_of_fDecode (by simp [hd])
    · exact canonical_fNan f
  | fin s m e =>
    simp only
    split
    · exact canonical_of_fDecode (by simp [hd])
    split
    · exact canonical_fNan f
    · exact canonical_fRound f rm _ _ _ _

/-- A NaN as first or second operand of a sum, difference, product or fused product. -/
theorem nan_operand {f : FType} {a b : Nat} (rm : Rm) (c : Nat) (h : fIsNan f a ∨ fIsNan f b) :
    (fAdd f rm a b).r = fNan f ∧ (fSub f rm a b).r = fNan f ∧ (fMul f rm a b).r = fNan f ∧ (fFma f rm a b c).r = fNan f := by
  obtain ⟨s, hs⟩ : ∃ s, .nan s ∈ [fDecode f a, fDecode f b] := by
    rcases h with h | h
    · obtain ⟨s, hs⟩ := fDecode_nan h; exact ⟨s, by simp [hs]⟩
    · obtain ⟨s, hs⟩ := fDecode_nan h; exact ⟨s, by simp [hs]⟩
  refine ⟨nanOf?_getD_r f hs _, nanOf?_getD_r f hs _, nanOf?_getD_r f hs _, ?_⟩
  obtain ⟨n, hn⟩ := exists_nanOf? f (xs := [fDecode f a, fDecode f b, fDecode f c]) (s := s) (by simp at hs ⊢; tauto)
  simp only [fFma, hn, inv_r, nanOf?_r hn]

/-- Settles O11: every operation gives the canonical NaN, an operand that is none, or a sign and a code of at most ∞. -/
theorem naNsAreCanonical : Obligations.NaNsAreCanonical := by
  intro f rm a b c _ _ _
  refine ⟨fun r hr => ?_, nan_operand rm c, fun h => ?_⟩
  · show Canonical f r
    simp only [List.mem_cons, List.not_mem_nil, or_false] at hr
    rcases hr with rfl | rfl | rfl | rfl | rfl | rfl | rfl | rfl | rfl | rfl
    · exact canonical_nanOf?_getD fun _ => canonical_fSum f rm _ _
    · exact canonical_nanOf?_getD fun _ => canonical_fSum f rm _ _
    · exact canonical_fMul f rm a b
    · exact canonical_fFma f rm a b c
    · exact canonical_fMinMax f false a b
    · exact canonical_fMinMax f true a b
    · exact canonical_fSigned f false a
    · exact canonical_fSigned f true a
    · exact canonical_fRcp f rm a
    · exact canonical_fSqrt f rm a
  · have key (isMax : Bool) : ¬ fIsNan f (fMinMax f isMax a b).r :=
      (fMinMax_cases f isMax a b).elim (fun hn => absurd ⟨hn.1, hn.2.1⟩ h) (·.2)
    exact ⟨key false, key true⟩

/-! Order (R36, R121) -/

/-- A bit pattern as a signed code: both zeros are 0. -/
def fKey (f : FType) (x : Nat) : Int := if fNeg f x then -(fMag f x : Int) else fMag f x

/-- The value of a signed code. -/
def keyVal (f : FType) (z : Int) : ℚ := if z < 0 then -codeVal f z.natAbs else codeVal f z.natAbs

theorem keyVal_strictMono (f : FType) : StrictMono (keyVal f) := by
  intro y z h
  have hmono := codeVal_strictMono f
  unfold keyVal
  split_ifs with hy hz hz
  · exact neg_lt_neg (hmono (by omega))
  · have : codeVal f 0 < codeVal f y.natAbs := hmono (by omega)
    have := codeVal_nonneg f z.natAbs
    rw [codeVal_zero] at *
    linarith
  · omega
  · exact hmono (by omega)

theorem fval_eq_keyVal {f : FType} {a : Nat} (h : fFinite f a) : fval f a = keyVal f (fKey f a) := by
  rw [fval_finite h.2, fKey, keyVal]
  cases fNeg f a
  · simp
  · rcases (fMag f a).eq_zero_or_pos with h0 | h0
    · simp [h0]
    · simp [h0]

theorem fval_lt_iff {f : FType} {a b : Nat} (ha : fFinite f a) (hb : fFinite f b) :
    fval f a < fval f b ↔ fKey f a < fKey f b := by
  rw [fval_eq_keyVal ha, fval_eq_keyVal hb, (keyVal_strictMono f).lt_iff_lt]

theorem fval_eq_iff {f : FType} {a b : Nat} (ha : fFinite f a) (hb : fFinite f b) :
    fval f a = fval f b ↔ fKey f a = fKey f b := by
  rw [fval_eq_keyVal ha, fval_eq_keyVal hb, (keyVal_strictMono f).injective.eq_iff]

theorem not_fIsNan_of_fFinite {f : FType} {a : Nat} (h : fFinite f a) : ¬ fIsNan f a := h.2.le.not_gt

theorem isNan_of_fFinite {f : FType} {a : Nat} (h : fFinite f a) : isNan f a = false := by
  rw [Bool.eq_false_iff, ne_eq, isNan_iff]
  exact not_fIsNan_of_fFinite h

/-- FMIN and FMAX of finite numbers pick by the order with −0 below +0. -/
theorem fMinMax_r {f : FType} {a b : Nat} (isMax : Bool) (ha : fFinite f a) (hb : fFinite f b) :
    (fMinMax f isMax a b).r = if decide (fOrd f b < fOrd f a) == isMax then a else b := by
  simp only [fMinMax, isNan_of_fFinite ha, isNan_of_fFinite hb, Bool.false_and, Bool.false_eq_true, if_false]

/-- The order of FMIN and FMAX refines the order of values. -/
theorem fval_le_of_fOrd_le {f : FType} {a b : Nat} (ha : fFinite f a) (hb : fFinite f b) (h : fOrd f a ≤ fOrd f b) :
    fval f a ≤ fval f b := by
  rw [fval_eq_keyVal ha, fval_eq_keyVal hb, (keyVal_strictMono f).le_iff_le]
  unfold fOrd at h
  unfold fKey
  split_ifs at h ⊢ <;> omega

/-- FMIN gives the lesser value, FMAX the greater, and which operand that is. -/
theorem fMinMax_finite {f : FType} {a b : Nat} (ha : fFinite f a) (hb : fFinite f b) :
    (fOrd f a ≤ fOrd f b ∧ fval f a ≤ fval f b ∧ (fMinMax f false a b).r = a ∧ (fMinMax f true a b).r = b) ∨
      (fOrd f b < fOrd f a ∧ fval f b ≤ fval f a ∧ (fMinMax f false a b).r = b ∧ (fMinMax f true a b).r = a) := by
  rw [fMinMax_r false ha hb, fMinMax_r true ha hb]
  rcases lt_or_ge (fOrd f b) (fOrd f a) with h | h
  · exact .inr ⟨h, fval_le_of_fOrd_le hb ha h.le, by simp [h], by simp [h]⟩
  · exact .inl ⟨h, fval_le_of_fOrd_le ha hb h, by simp [h], by simp [h]⟩

/-- FCMP of finite numbers. -/
theorem fCmp_finite {f : FType} {a b : Nat} (ha : fFinite f a) (hb : fFinite f b) :
    fCmp f a b = if fKey f a < fKey f b then (0b1010#4, 0) else if fKey f a = fKey f b then (0b0110#4, 0) else (0b0000#4, 0) := by
  unfold fCmp
  rw [isNan_of_fFinite ha, isNan_of_fFinite hb]
  rfl

/-- Only zeros have the value 0. -/
theorem fMag_eq_zero {f : FType} {a : Nat} (h : fFinite f a) (h0 : fval f a = 0) : fMag f a = 0 := by
  have := abs_fval h.2
  rw [h0, abs_zero, ← codeVal_zero f] at this
  exact (codeVal_strictMono f).injective this.symm

/-- A sign on the magnitude of a finite number. -/
theorem fval_fSign_fMag {f : FType} {a : Nat} (s : Bool) (h : fFinite f a) :
    fval f (fSign f s + fMag f a) = sgn s * |fval f a| := by
  rw [fval_fSign_add s h.2, abs_fval h.2]

/-- Inverting the bit above `m`. -/
theorem two_pow_mul_add_xor {i m : Nat} (s : Bool) (h : m < 2 ^ i) :
    (2 ^ i * s.toNat + m) ^^^ 2 ^ i = 2 ^ i * (!s).toNat + m := by
  refine Nat.eq_of_testBit_eq fun j => ?_
  rw [Nat.testBit_xor, Nat.testBit_two_pow_mul_add _ h, Nat.testBit_two_pow_mul_add _ h, Nat.testBit_two_pow]
  split
  · next hj => simp [hj.ne']
  · next hj =>
    rcases (not_lt.1 hj).eq_or_lt with rfl | hlt
    · cases s <;> simp
    · have hs (t : Bool) : t.toNat.testBit (j - i) = false :=
        Nat.testBit_lt_two_pow ((Bool.toNat_lt t).trans_le (Nat.pow_le_pow_right two_pos (by omega : 1 ≤ j - i)))
      simp [hs, hlt.ne]

/-- The other sign is the top bit inverted. -/
theorem fSign_not_add_fMag {f : FType} {a : Nat} (h : a < 2 ^ fWidth f) :
    fSign f (!fNeg f a) + fMag f a = a ^^^ 2 ^ (fWidth f - 1) := by
  conv_rhs => rw [← fSign_fNeg_add_fMag h]
  rw [fSign_eq, fSign_eq, two_pow_mul_add_xor _ (fMag_lt f a)]

/-- Settles O14: values are ordered as signed codes, which the order of FMIN and FMAX refines; FABS and FNEG keep the code. -/
theorem comparisonsOrderValues : Obligations.ComparisonsOrderValues := by
  intro f a b ha hb
  have hsig (flip : Bool) := fSigned_r flip (not_fIsNan_of_fFinite ha)
  have hcmp := fCmp_finite ha hb
  have hmm := fMinMax_finite ha hb
  refine ⟨?_, ?_, ?_, ?_, fun hn h0 h0' => ?_, fun h => ?_, fun h => ?_, fun h => ?_, ?_, ?_, ?_, ?_⟩
  · rcases hmm with ⟨-, -, h, -⟩ | ⟨-, -, h, -⟩
    · exact .inl h
    · exact .inr h
  · rcases hmm with ⟨-, -, -, h⟩ | ⟨-, -, -, h⟩
    · exact .inr h
    · exact .inl h
  · rcases hmm with ⟨-, hle, h, -⟩ | ⟨-, hle, h, -⟩
    · rw [h, min_eq_left hle]
    · rw [h, min_eq_right hle]
  · rcases hmm with ⟨-, hle, -, h⟩ | ⟨-, hle, -, h⟩
    · rw [h, max_eq_right hle]
    · rw [h, max_eq_left hle]
  · rcases hmm with ⟨-, -, h⟩ | ⟨hlt, -⟩
    · exact h
    · simp only [fOrd, hn, fMag_eq_zero ha h0, fMag_eq_zero hb h0'] at hlt
      split at hlt <;> simp at hlt
  · rw [hcmp, if_pos ((fval_lt_iff ha hb).1 h)]
  · have := (fval_eq_iff ha hb).1 h
    rw [hcmp, if_neg (by omega), if_pos this]
  · have := (fval_lt_iff hb ha).1 h
    rw [hcmp, if_neg (by omega), if_neg (by omega)]
  · rw [hsig, Bool.true_and, fval_fSign_add _ ha.2, fval_finite ha.2]
    cases fNeg f a <;> simp
  · rw [hsig, Bool.false_and, fval_fSign_fMag false ha, sgn_false, one_mul]
  · rw [hsig, Bool.true_and, fSign_not_add_fMag ha.1]
  · rw [hsig, Bool.false_and]
    simp [fSign, fMag]

end Sys2Proof.Numbers
end

section
/-! Words and their encoding (R50, R66 to R72): the decoder reads back what the encoder writes. -/

namespace Sys2Proof.Encoding

open Sys2Proof Sys2Proof.Laws

/-- Settles O47: every constructor of an instruction word by its own round trip; the events are no words. -/
theorem everyWordRoundTrips : Obligations.EveryWordRoundTrips := by
  intro i
  cases i with
  | nop h => exact RoundTrip.nop h | bra h off => exact RoundTrip.bra h off
  | brc h d off => exact RoundTrip.brc h d off | brx h a => exact RoundTrip.brx h a
  | call h d off => exact RoundTrip.call h d off | callx h d a => exact RoundTrip.callx h d a
  | ret h a => exact RoundTrip.ret h a | loop h a off => exact RoundTrip.loop h a off
  | endl h => exact RoundTrip.endl h | lbrk h => exact RoundTrip.lbrk h
  | spawn h d a b => exact RoundTrip.spawn h d a b | endFibre h => exact RoundTrip.endFibre h
  | yield h => exact RoundTrip.yield h | sleep h n => exact RoundTrip.sleep h n
  | fbar h a => exact RoundTrip.fbar h a | icinv h => exact RoundTrip.icinv h
  | mov h d a => exact RoundTrip.mov h d a | movScalar h d a => exact RoundTrip.movScalar h d a
  | movFromSf h d => exact RoundTrip.movFromSf h d | movToSf h a => exact RoundTrip.movToSf h a
  | movFromCc h d => exact RoundTrip.movFromCc h d | movToCc h a => exact RoundTrip.movToCc h a
  | movi h d imm => exact RoundTrip.movi h d imm | moviScalar h d imm => exact RoundTrip.moviScalar h d imm
  | movh h d k imm => exact RoundTrip.movh h d k imm | movhScalar h d k imm => exact RoundTrip.movhScalar h d k imm
  | add h d a b t => exact RoundTrip.add h d a b t | addScalar h d a b t => exact RoundTrip.addScalar h d a b t
  | addImm h d a t imm => exact RoundTrip.addImm h d a t imm
  | addImmScalar h d a t imm => exact RoundTrip.addImmScalar h d a t imm
  | addc h d a b n t => exact RoundTrip.addc h d a b n t
  | addcScalar h d a b t => exact RoundTrip.addcScalar h d a b t | sub h d a b t => exact RoundTrip.sub h d a b t
  | subScalar h d a b t => exact RoundTrip.subScalar h d a b t | subb h d a b n t => exact RoundTrip.subb h d a b n t
  | subbScalar h d a b t => exact RoundTrip.subbScalar h d a b t | mul h d a b t => exact RoundTrip.mul h d a b t
  | mulScalar h d a b t => exact RoundTrip.mulScalar h d a b t | mulh h d a b t => exact RoundTrip.mulh h d a b t
  | mulhScalar h d a b t => exact RoundTrip.mulhScalar h d a b t
  | madI32 h d a b c => exact RoundTrip.madI32 h d a b c
  | madI32Scalar h d a b c => exact RoundTrip.madI32Scalar h d a b c
  | madN32 h d a b c => exact RoundTrip.madN32 h d a b c
  | madN32Scalar h d a b c => exact RoundTrip.madN32Scalar h d a b c
  | madI64 h d a b c => exact RoundTrip.madI64 h d a b c
  | madI64Scalar h d a b c => exact RoundTrip.madI64Scalar h d a b c
  | madN64 h d a b c => exact RoundTrip.madN64 h d a b c
  | madN64Scalar h d a b c => exact RoundTrip.madN64Scalar h d a b c | div h d a b t => exact RoundTrip.div h d a b t
  | divScalar h d a b t => exact RoundTrip.divScalar h d a b t | rem h d a b t => exact RoundTrip.rem h d a b t
  | remScalar h d a b t => exact RoundTrip.remScalar h d a b t | min h d a b t => exact RoundTrip.min h d a b t
  | minScalar h d a b t => exact RoundTrip.minScalar h d a b t | max h d a b t => exact RoundTrip.max h d a b t
  | maxScalar h d a b t => exact RoundTrip.maxScalar h d a b t | abs h d a t => exact RoundTrip.abs h d a t
  | absScalar h d a t => exact RoundTrip.absScalar h d a t | neg h d a t => exact RoundTrip.neg h d a t
  | negScalar h d a t => exact RoundTrip.negScalar h d a t | and h d a b t => exact RoundTrip.and h d a b t
  | andScalar h d a b t => exact RoundTrip.andScalar h d a b t
  | andImm h d a t imm => exact RoundTrip.andImm h d a t imm
  | andImmScalar h d a t imm => exact RoundTrip.andImmScalar h d a t imm
  | or h d a b t => exact RoundTrip.or h d a b t | orScalar h d a b t => exact RoundTrip.orScalar h d a b t
  | orImm h d a t imm => exact RoundTrip.orImm h d a t imm
  | orImmScalar h d a t imm => exact RoundTrip.orImmScalar h d a t imm
  | xor h d a b t => exact RoundTrip.xor h d a b t | xorScalar h d a b t => exact RoundTrip.xorScalar h d a b t
  | xorImm h d a t imm => exact RoundTrip.xorImm h d a t imm
  | xorImmScalar h d a t imm => exact RoundTrip.xorImmScalar h d a t imm
  | andn h d a b t => exact RoundTrip.andn h d a b t | andnScalar h d a b t => exact RoundTrip.andnScalar h d a b t
  | not h d a t => exact RoundTrip.not h d a t | notScalar h d a t => exact RoundTrip.notScalar h d a t
  | tlog h d a b tt => exact RoundTrip.tlog h d a b tt
  | tlogScalar h d a b tt => exact RoundTrip.tlogScalar h d a b tt | shl h d a b t => exact RoundTrip.shl h d a b t
  | shlScalar h d a b t => exact RoundTrip.shlScalar h d a b t
  | shlImm h d a t imm => exact RoundTrip.shlImm h d a t imm
  | shlImmScalar h d a t imm => exact RoundTrip.shlImmScalar h d a t imm
  | shr h d a b t => exact RoundTrip.shr h d a b t | shrScalar h d a b t => exact RoundTrip.shrScalar h d a b t
  | shrImm h d a t imm => exact RoundTrip.shrImm h d a t imm
  | shrImmScalar h d a t imm => exact RoundTrip.shrImmScalar h d a t imm
  | sar h d a b t => exact RoundTrip.sar h d a b t | sarScalar h d a b t => exact RoundTrip.sarScalar h d a b t
  | sarImm h d a t imm => exact RoundTrip.sarImm h d a t imm
  | sarImmScalar h d a t imm => exact RoundTrip.sarImmScalar h d a t imm
  | fshl h d a b c => exact RoundTrip.fshl h d a b c | fshlScalar h d a b c => exact RoundTrip.fshlScalar h d a b c
  | fshr h d a b c => exact RoundTrip.fshr h d a b c | fshrScalar h d a b c => exact RoundTrip.fshrScalar h d a b c
  | rot h d a b t => exact RoundTrip.rot h d a b t | rotScalar h d a b t => exact RoundTrip.rotScalar h d a b t
  | rotImm h d a t imm => exact RoundTrip.rotImm h d a t imm
  | rotImmScalar h d a t imm => exact RoundTrip.rotImmScalar h d a t imm
  | bfx h d a b t => exact RoundTrip.bfx h d a b t | bfxScalar h d a b t => exact RoundTrip.bfxScalar h d a b t
  | bfi h d a b t => exact RoundTrip.bfi h d a b t | bfiScalar h d a b t => exact RoundTrip.bfiScalar h d a b t
  | popc h d a t => exact RoundTrip.popc h d a t | popcScalar h d a t => exact RoundTrip.popcScalar h d a t
  | clz h d a t => exact RoundTrip.clz h d a t | clzScalar h d a t => exact RoundTrip.clzScalar h d a t
  | ctz h d a t => exact RoundTrip.ctz h d a t | ctzScalar h d a t => exact RoundTrip.ctzScalar h d a t
  | brev h d a t => exact RoundTrip.brev h d a t | brevScalar h d a t => exact RoundTrip.brevScalar h d a t
  | bperm h d a b c => exact RoundTrip.bperm h d a b c
  | bpermScalar h d a b c => exact RoundTrip.bpermScalar h d a b c | cmp h a b t => exact RoundTrip.cmp h a b t
  | cmpScalar h a b t => exact RoundTrip.cmpScalar h a b t | cmpImm h a t imm => exact RoundTrip.cmpImm h a t imm
  | cmpImmScalar h a t imm => exact RoundTrip.cmpImmScalar h a t imm | tst h a b t => exact RoundTrip.tst h a b t
  | tstScalar h a b t => exact RoundTrip.tstScalar h a b t | sel h d a b n c => exact RoundTrip.sel h d a b n c
  | selScalar h d a b c => exact RoundTrip.selScalar h d a b c | lea h d a b sh => exact RoundTrip.lea h d a b sh
  | leaScalar h d a b sh => exact RoundTrip.leaScalar h d a b sh | pairNop sc y => exact RoundTrip.pairNop sc y
  | pairMov sc d a g y => exact RoundTrip.pairMov sc d a g y
  | pairAdd sc w d a g y => exact RoundTrip.pairAdd sc w d a g y
  | pairSub sc w d a g y => exact RoundTrip.pairSub sc w d a g y
  | pairMin sc signed d a g y => exact RoundTrip.pairMin sc signed d a g y
  | pairMax sc signed d a g y => exact RoundTrip.pairMax sc signed d a g y
  | pairAnd sc d a g y => exact RoundTrip.pairAnd sc d a g y | pairOr sc d a g y => exact RoundTrip.pairOr sc d a g y
  | pairXor sc d a g y => exact RoundTrip.pairXor sc d a g y
  | pairAndn sc d a g y => exact RoundTrip.pairAndn sc d a g y
  | pairFadd sc f d a g y => exact RoundTrip.pairFadd sc f d a g y
  | pairFmul sc f d a g y => exact RoundTrip.pairFmul sc f d a g y
  | pairFmin sc f d a g y => exact RoundTrip.pairFmin sc f d a g y
  | pairFmax sc f d a g y => exact RoundTrip.pairFmax sc f d a g y
  | fadd h d a b f rm => exact RoundTrip.fadd h d a b f rm | fsub h d a b f rm => exact RoundTrip.fsub h d a b f rm
  | fmul h d a b f rm => exact RoundTrip.fmul h d a b f rm | fmin h d a b f => exact RoundTrip.fmin h d a b f
  | fmax h d a b f => exact RoundTrip.fmax h d a b f | fabs h d a f => exact RoundTrip.fabs h d a f
  | fneg h d a f => exact RoundTrip.fneg h d a f | fcmp h a b f => exact RoundTrip.fcmp h a b f
  | fclass h d a f => exact RoundTrip.fclass h d a f | frcp h d a f rm => exact RoundTrip.frcp h d a f rm
  | fsqrt h d a f rm => exact RoundTrip.fsqrt h d a f rm | frsq h d a f => exact RoundTrip.frsq h d a f
  | fexp2 h d a f => exact RoundTrip.fexp2 h d a f | flog2 h d a f => exact RoundTrip.flog2 h d a f
  | fsin h d a f => exact RoundTrip.fsin h d a f | fcos h d a f => exact RoundTrip.fcos h d a f
  | ftanh h d a f => exact RoundTrip.ftanh h d a f | fscale h d a b f rm => exact RoundTrip.fscale h d a b f rm
  | frint h d a f rm => exact RoundTrip.frint h d a f rm | ffma h d a b c f rm => exact RoundTrip.ffma h d a b c f rm
  | fdot2 h d a b c bf rm => exact RoundTrip.fdot2 h d a b c bf rm | act h d a f rm => exact RoundTrip.act h d a f rm
  | actld h a b => exact RoundTrip.actld h a b | actswap h => exact RoundTrip.actswap h
  | cvt h d a dst src p rm => exact RoundTrip.cvt h d a dst src p rm
  | qnt h d a x4 f l dd rm => exact RoundTrip.qnt h d a x4 f l dd rm
  | dqnt h d a x4 f l rm => exact RoundTrip.dqnt h d a x4 f l rm | pack h d a b t => exact RoundTrip.pack h d a b t
  | unpk h d a p t => exact RoundTrip.unpk h d a p t | lget h d a b t => exact RoundTrip.lget h d a b t
  | lput h d a b t => exact RoundTrip.lput h d a b t | lshf h d a b m n => exact RoundTrip.lshf h d a b m n
  | lbcst h d a n => exact RoundTrip.lbcst h d a n | lxor h d a n => exact RoundTrip.lxor h d a n
  | lscan h d a op => exact RoundTrip.lscan h d a op | lred h d a op => exact RoundTrip.lred h d a op
  | lvote h d a m => exact RoundTrip.lvote h d a m | rng h d => exact RoundTrip.rng h d
  | rngset h a b => exact RoundTrip.rngset h a b | ld h d g b t mode imm => exact RoundTrip.ld h d g b t mode imm
  | st h d g b t mode imm => exact RoundTrip.st h d g b t mode imm
  | lds h d b t mode imm => exact RoundTrip.lds h d b t mode imm
  | sts h d b t mode imm => exact RoundTrip.sts h d b t mode imm
  | ldp h d g b mode imm => exact RoundTrip.ldp h d g b mode imm
  | stp h d g b mode imm => exact RoundTrip.stp h d g b mode imm | atom h d g b op t => exact RoundTrip.atom h d g b op t
  | atoms h d b op t => exact RoundTrip.atoms h d b op t | rst h g a b c => exact RoundTrip.rst h g a b c
  | ratom h d g b op t => exact RoundTrip.ratom h d g b op t | pref h g b t imm => exact RoundTrip.pref h g b t imm
  | stage h g b fill => exact RoundTrip.stage h g b fill | unstage h g => exact RoundTrip.unstage h g
  | brw h d a b tryIt k => exact RoundTrip.brw h d a b tryIt k | rbrw h d a b k => exact RoundTrip.rbrw h d a b k
  | split h d a toRegs k => exact RoundTrip.split h d a toRegs k | join h a => exact RoundTrip.join h a
  | rtn h a => exact RoundTrip.rtn h a | rgq h d a => exact RoundTrip.rgq h d a
  | rgmv h d a b => exact RoundTrip.rgmv h d a b | fence h sc => exact RoundTrip.fence h sc
  | stmpw h => exact RoundTrip.stmpw h | stmpp h => exact RoundTrip.stmpp h | cseal h d => exact RoundTrip.cseal h d
  | cwait h a => exact RoundTrip.cwait h a | binit h a name => exact RoundTrip.binit h a name
  | barr h d wait name => exact RoundTrip.barr h d wait name | bexp h a name => exact RoundTrip.bexp h a name
  | bwait h a name => exact RoundTrip.bwait h a name | btest h d a name => exact RoundTrip.btest h d a name
  | chinit h d a => exact RoundTrip.chinit h d a | chpush h a b => exact RoundTrip.chpush h a b
  | chpop h d a => exact RoundTrip.chpop h d a | chstat h d a => exact RoundTrip.chstat h d a
  | copy h d a b c => exact RoundTrip.copy h d a b c | copy2 h d a b c => exact RoundTrip.copy2 h d a b c
  | gath h d a b c => exact RoundTrip.gath h d a b c | scat h d a b c => exact RoundTrip.scat h d a b c
  | route h d a b c => exact RoundTrip.route h d a b c | cvinit h d a => exact RoundTrip.cvinit h d a
  | mma h clr base ob ld cv b la lb fmt => exact RoundTrip.mma h clr base ob ld cv b la lb fmt
  | mwait h => exact RoundTrip.mwait h | lace h d a => exact RoundTrip.lace h d a
  | obres h d a b => exact RoundTrip.obres h d a b | obld h d a b => exact RoundTrip.obld h d a b
  | obrel h d => exact RoundTrip.obrel h d
  | mdrain h base a b act res rm f => exact RoundTrip.mdrain h base a b act res rm f
  | hbind h d a b => exact RoundTrip.hbind h d a b | hperm h d a b => exact RoundTrip.hperm h d a b
  | hbund h d a => exact RoundTrip.hbund h d a | hthr h d a => exact RoundTrip.hthr h d a
  | hclr h d => exact RoundTrip.hclr h d | hld h d a b => exact RoundTrip.hld h d a b
  | hst h d a b => exact RoundTrip.hst h d a b | hset h d a => exact RoundTrip.hset h d a
  | hdist h d a b => exact RoundTrip.hdist h d a b | hpop h d a => exact RoundTrip.hpop h d a
  | htie h a => exact RoundTrip.htie h a | hcw h w => exact RoundTrip.hcw h w
  | hsrch h d a b => exact RoundTrip.hsrch h d a b | hsrch2 h d a b => exact RoundTrip.hsrch2 h d a b
  | trap h imm => exact RoundTrip.trap h imm | tret h skip => exact RoundTrip.tret h skip
  | mfs h d a scalar => exact RoundTrip.mfs h d a scalar | mts h d a => exact RoundTrip.mts h d a
  | dist h d a b => exact RoundTrip.dist h d a b | halt h a => exact RoundTrip.halt h a
  | slotq h d => exact RoundTrip.slotq h d | smpcfg h a => exact RoundTrip.smpcfg h a
  | smpon h a => exact RoundTrip.smpon h a | smpoff h d => exact RoundTrip.smpoff h d
  | _ => exact fun h _ => Bool.noConfusion h

/-- Settles O46: the decoder evaluated on each of the words. -/
theorem wordsDecode : Obligations.WordsDecode := by
  unfold Obligations.WordsDecode
  decide

end Sys2Proof.Encoding
end

section
/-! Issue: what it leaves unchanged (R62, R77, R104). -/

namespace Sys2Proof.Issuing

open Sys2Proof Sys2Proof.Machine Sys2Proof.Laws

/-! Reading a state after one of its objects was replaced -/

/-- Replacing the wave of one name leaves the wave of another. -/
theorem wave?_setWave_ne (s : State) (w : Wave) {u : Nat} (h : u ≠ w.uid) : (s.setWave w).wave? u = s.wave? u := by
  unfold State.wave? State.setWave replace
  induction s.waves with
  | nil => rfl
  | cons a r ih => by_cases ha : a.uid = w.uid <;> simp_all [List.find?_cons, Ne.symm h]

/-- A wave that exists is read back once it is replaced. -/
theorem wave?_setWave_same (s : State) (w : Wave) (h : s.wave? w.uid ≠ none) : (s.setWave w).wave? w.uid = some w := by
  unfold State.wave? at h ⊢
  unfold State.setWave replace
  induction hs : s.waves generalizing s with
  | nil => simp [hs] at h
  | cons a r ih =>
    by_cases ha : a.uid = w.uid
    · simp [ha]
    · simpa [ha] using ih { s with waves := r } (by simpa [hs, ha] using h) rfl

/-- A core that was replaced is read back, if it exists; every other core is kept. -/
theorem core_setCore (s : State) (i c : Nat) (k : Core) :
    (s.setCore i k).core c = if c = i ∧ i < s.cores.length then k else s.core c := by
  unfold State.core State.setCore
  rw [List.getD_eq_getElem?_getD, List.getD_eq_getElem?_getD, List.getElem?_set]
  by_cases h : i = c
  · subst h
    by_cases hl : i < s.cores.length <;> simp [hl]
  · simp [h, Ne.symm h]

theorem core_setCore_ne (s : State) {i c : Nat} (h : c ≠ i) (k : Core) : (s.setCore i k).core c = s.core c := by
  rw [core_setCore, if_neg fun e => h e.1]

/-! Holding a pipe -/

/-- Holding a pipe changes nothing of a core but its pipes. -/
theorem core_holdPipe (s : State) (i q n c : Nat) : ∃ ps, (s.holdPipe i q n).core c = { s.core c with pipes := ps } := by
  unfold State.holdPipe
  rw [core_setCore]
  split
  · rename_i h
    exact ⟨_, by rw [h.1]⟩
  · exact ⟨_, rfl⟩

/-- Holding the pipe of a quad leaves the pipes of the other quads. -/
theorem pipe_holdPipe_ne (s : State) (i n c : Nat) {q r : Nat} (h : r ≠ q) :
    ((s.holdPipe i q n).core c).pipes.getD r 0 = (s.core c).pipes.getD r 0 := by
  unfold State.holdPipe
  rw [core_setCore]
  split
  · rename_i hc
    rw [hc.1]
    simp [List.getD_eq_getElem?_getD, h.symm]
  · rfl

/-! The state after an issue -/

/-- The issuing wave after a word: beside the word's effect, its partitions, its stall count and its register cache. -/
def waveAfter (x : Iss) (sc : Nat) (w : Wave) (mv : Move) (r : List Nat) : Wave :=
  { w with parts := x.moved sc mv, lastIssue := some x.clk, nextIssue := x.clk + sc + 1, progress := x.clk, rejects := 0,
           rcache := r }

/-- All that issuing a word adds to its own effect: the record of the issue, the wave as `waveAfter` gives it, and a hold of
the quad's vector pipe for a word of that pipe. -/
theorem finish_cases (x : Iss) (us : List Use) (pipe : Pipe) (k sc : Nat) (s : State) (w : Wave) (mv : Move) :
    ∃ r, (pipe = .vector → k = 0 → r = w.rcache) ∧
      (x.finish us pipe k sc s w mv = (s.note w.uid k x.p.pc).setWave (waveAfter x sc w mv r) ∨
        pipe ≠ .scalar ∧ ∃ n, x.finish us pipe k sc s w mv =
          ((s.note w.uid k x.p.pc).setWave (waveAfter x sc w mv r)).holdPipe x.coreIx x.w.quad n) := by
  refine ⟨if pipe = .vector ∧ k = 0 then w.rcache else fillCache (fillCache w.rcache (vvRegs x.frame us true))
    (vvRegs x.frame us false), fun hp hk => if_pos ⟨hp, hk⟩, ?_⟩
  cases pipe with
  | scalar => exact .inl rfl
  | vfix n => exact .inr ⟨nofun, _, rfl⟩
  | vector =>
    by_cases hk : k = 0
    · exact .inl (by simp only [Iss.finish, hk, if_true]; rfl)
    · exact .inr ⟨nofun, _, by simp only [Iss.finish, hk, if_false]; rfl⟩

/-- Settles O45: memory is no part of what an issue touches, and the waves and cores read by the laws of `setWave` and
`holdPipe`. -/
theorem issueFrame : Obligations.IssueFrame := by
  intro x i h pipe n s v mv
  obtain ⟨r, hr, hcases⟩ := finish_cases x (usesOf i) pipe n h.sc.toNat s v mv
  have hkept {u : Nat} (hu : u ≠ v.uid) := wave?_setWave_ne (s.note v.uid n x.p.pc) (waveAfter x h.sc.toNat v mv r) hu
  have hown := wave?_setWave_same (s.note v.uid n x.p.pc) (waveAfter x h.sc.toNat v mv r)
  rcases hcases with ht | ⟨hp, k, ht⟩ <;>
    (have ht : x.after i h pipe n s v mv = _ := ht; simp only [ht])
  · exact ⟨rfl, fun _ => rfl, fun u => hkept, fun hv => ⟨r, hown hv, hr⟩, fun c => ⟨_, rfl⟩, fun _ _ => rfl, fun _ _ => rfl⟩
  · exact ⟨rfl, fun _ => rfl, fun u => hkept, fun hv => ⟨r, hown hv, hr⟩, fun c => core_holdPipe _ _ _ _ c,
      fun c hc => core_setCore_ne _ (hc.resolve_right hp) _, fun q => pipe_holdPipe_ne _ _ _ _⟩

end Sys2Proof.Issuing
end

section
/-! The checks at issue (R58, R64, R70, R99). -/

namespace Sys2Proof.Issuing

open Sys2Proof Sys2Proof.Machine Sys2Proof.Laws

/-- The position that a decode trap reports is the largest. -/
theorem maxPos_eq_max? (l : List Nat) : maxPos l = l.max? := by
  have hsome (r : List Nat) (m : Nat) :
      r.foldl (fun m p => some (max p (m.getD 0))) (some m) = some (r.foldl max m) := by
    induction r generalizing m with
    | nil => rfl
    | cons a r ih => rw [List.foldl_cons, List.foldl_cons, ← max_comm a m]; exact ih _
  cases l with
  | nil => rfl
  | cons a r => rw [List.max?_cons']; simpa [maxPos] using hsome r a

section
variable {x : Iss} {us : List Use} {h : Hd} {pipe : Pipe} {eff : Iss → List Nat → Eff}

/-- A register outside the window or in an absent view stops the word before anything else. -/
theorem issue_bad {p : Nat} (hp : p ∈ x.frame.bad us) (hmax : ∀ q ∈ x.frame.bad us, q ≤ p) :
    x.issue us h pipe eff = x.trap h.sc.toNat RESERVED_FIELD (wd p) := by
  simp only [Iss.issue, Iss.issueOn, maxPos_eq_max?, List.max?_eq_some_iff.2 ⟨hp, hmax⟩]

/-- A word whose uniform guard fails, with sf in time, is skipped. -/
theorem issue_skip (hb : x.frame.bad us = []) (hg : x.guard h = false)
    (he : x.c.stchk = false ∨ (worstEarly x.frame x.clk x.w.early (us.filter fun u => u.pos == 43)).1 = 0) :
    x.issue us h pipe eff = x.skip h.sc.toNat := by
  have hs : (x.c.stchk && (worstEarly x.frame x.clk x.w.early (us.filter fun u => u.pos == 43)).1 != 0) = false := by
    rcases he with he | he <;> simp [he]
  simp [Iss.issue, Iss.issueOn, hb, maxPos, hg, hs]

/-- A word whose uniform guard fails is tested on sf. -/
theorem issue_short_sf (hb : x.frame.bad us = []) (hg : x.guard h = false) (hc : x.c.stchk = true)
    (he : (worstEarly x.frame x.clk x.w.early (us.filter fun u => u.pos == 43)).1 ≠ 0) :
    x.issue us h pipe eff = x.trap h.sc.toNat STALL_SHORT
      (stallInfo (worstEarly x.frame x.clk x.w.early (us.filter fun u => u.pos == 43))) := by
  simp [Iss.issue, Iss.issueOn, hb, maxPos, hg, hc, he]

/-- A word whose uniform guard holds and that does not wait is tested on every operand. -/
theorem issue_short (hb : x.frame.bad us = []) (hg : x.guard h = true) (hc : x.c.stchk = true)
    (he : (worstEarly x.frame x.clk x.w.early us).1 ≠ 0) (hw : eff x (x.active h) ≠ .wait) :
    x.issue us h pipe eff = x.trap h.sc.toNat STALL_SHORT (stallInfo (worstEarly x.frame x.clk x.w.early us)) := by
  simp only [Iss.issue, Iss.issueOn, hb, maxPos, List.foldl_nil, hg, hc, Bool.not_true, Bool.and_false, Bool.false_eq_true,
    if_false, Bool.not_false, Bool.and_self, Bool.true_and, bne_iff_ne, he, ne_eq, not_false_eq_true, if_true]

/-- A word that waits has not issued: nothing changes. -/
theorem issue_waits (hb : x.frame.bad us = []) (hg : x.guard h = true) (hw : eff x (x.active h) = .wait) :
    x.issue us h pipe eff = x.s := by
  simp [Iss.issue, Iss.issueOn, hb, maxPos, hg, hw]

end

/-! Stores that do not wait -/

/-- A sequence of checks stops at its first check or after it. -/
theorem bind_error {α β : Type} {c : Chk α} {f : α → Chk β} {e : Eff} (h : c >>= f = .error e) :
    c = .error e ∨ ∃ v, c = .ok v ∧ f v = .error e := by
  cases c with
  | error e' => exact .inl (congrArg Except.error (Except.error.inj h))
  | ok v => exact .inr ⟨v, rfl, h⟩

/-! A failed check of the bounds, of the alignment or of a condition is a trap. -/

theorem inBounds_ne_wait (code len z : Nat) (offs : List (Nat × Nat)) : inBounds code len z offs ≠ .error .wait := by
  unfold inBounds; split <;> nofun

theorem aligned_ne_wait (code z : Nat) (offs : List (Nat × Nat)) : aligned code z offs ≠ .error .wait := by
  unfold aligned; split <;> nofun

theorem need_ne_wait (c : Bool) (code : Nat) (info : Word) : need c code info ≠ .error .wait := by
  unfold need; split <;> nofun

section
variable {x : Iss} {ro : Bool} {kinds : List Kind} {op : Nat}

/-- The check of a register asks a word to wait only where the register holds a WAITING grant. -/
theorem usable_wait {code : Nat} (h : x.usable code ro kinds op = .error .wait) : ∃ g, x.names code g ∧ g.st = .waiting := by
  unfold Iss.usable State.regFault at h
  cases hf : x.s.regFaults.find? (·.1 == x.regRef code) <;> simp only [hf] at h
  case some => cases h
  cases hr : x.s.reg? (x.regRef code) with simp only [hr] at h
  | none => cases h
  | some g =>
    refine ⟨g, ⟨hf, hr⟩, ?_⟩
    by_contra hw
    rw [if_neg (by simpa using hw)] at h
    split_ifs at h <;> cases h

/-- The check of a register passes only with the grant that the register holds. -/
theorem usable_ok {code : Nat} {g : Grant} (h : x.usable code ro kinds op = .ok g) : x.names code g := by
  unfold Iss.usable State.regFault at h
  cases hf : x.s.regFaults.find? (·.1 == x.regRef code) <;> simp only [hf] at h
  case some => cases h
  cases hr : x.s.reg? (x.regRef code) with simp only [hr] at h
  | none => cases h
  | some r =>
    split_ifs at h
    cases h
    exact ⟨hf, hr⟩

variable {c : GCode} {offs : List (Nat × Nat)} {z : Nat} {e : Fe}

/-- The checks of an access through a register ask a word to wait only where the register holds a WAITING grant. -/
theorem place_wait (h : x.place (some c) offs z ro kinds op e = .error .wait) : ∃ g, x.names c.toNat g ∧ g.st = .waiting := by
  obtain h | ⟨g, -, h⟩ := bind_error h
  · exact usable_wait h
  obtain h | ⟨-, -, h⟩ := bind_error h
  · exact (inBounds_ne_wait _ _ _ _ h).elim
  obtain h | ⟨-, -, h⟩ := bind_error h
  · exact (aligned_ne_wait _ _ _ h).elim
  obtain h | ⟨-, -, h⟩ := bind_error h
  · exact (need_ne_wait _ _ _ h).elim
  · cases h

/-- An access through a register goes to the grant that the register holds. -/
theorem place_ok {p : Place} (h : x.place (some c) offs z ro kinds op e = .ok p) :
    ∃ g, x.names c.toNat g ∧ p.tgt = .grant g.gid ∧ p.base = g.ia := by
  simp only [Iss.place, bind, Except.bind] at h
  split at h
  · cases h
  rename_i g hg
  split at h
  · cases h
  split at h
  · cases h
  split at h
  · cases h
  cases h
  exact ⟨g, usable_ok hg, rfl, rfl⟩

end

/-- A store waits for nothing where its register holds no WAITING grant and its bytes are free. -/
theorem store_ne_wait {x : Iss} {g : GCode} {b : VCode} {z imm : Nat} {act : List Nat} (e : Fe) (hint : Nat)
    (data : Nat → List Byte) (hf : ∀ gr, x.names g.toNat gr → gr.st ≠ .waiting ∧
      x.free (.grant gr.gid) z (act.map fun l => gr.ia + x.off b z imm l)) :
    x.store (some g) b z imm e hint data act ≠ .wait := by
  unfold Iss.store
  cases hp : x.place (some g) (x.offs b z imm act) z false [.x] 1 e with
  | error k =>
    simp only [hp, bind, Except.bind, Chk.eff]
    rintro rfl
    obtain ⟨gr, hn, hw⟩ := place_wait hp
    exact (hf gr hn).1 hw
  | ok p =>
    obtain ⟨gr, hn, ht, hb⟩ := place_ok hp
    have hs := storeFree_ok (hf gr hn).2
    have ho : (x.offs b z imm act).map (fun o => p.base + o.2) = act.map fun l => gr.ia + x.off b z imm l := by
      rw [hb, offs_eq, List.map_map]; rfl
    simp only [hp, ht, ho, hs, bind, Except.bind, Chk.eff]
    nofun

/-- A store through a register that holds a WAITING grant waits. -/
theorem store_waits {x : Iss} {g : GCode} {gr : Grant} (hn : x.names g.toNat gr) (hw : gr.st = .waiting) (b : VCode)
    (z imm : Nat) (e : Fe) (hint : Nat) (data : Nat → List Byte) (act : List Nat) :
    x.store (some g) b z imm e hint data act = .wait := by
  simp only [Iss.store, Iss.place, usable_waiting hn hw, bind, Except.bind, Chk.eff]

/-! The words of the six families -/

/-- BARR never waits at its issue. -/
theorem barr_eff {x : Iss} (h : Hd) (d : SReg) (wait : Bool) (name : BitVec 11) : ∃ eff : Iss → List Nat → Eff,
    exec (.barr h d wait name) x.s = execWord (.barr h d wait name) h .scalar x.s eff ∧ eff x (x.active h) ≠ .wait := by
  refine ⟨_, rfl, ?_⟩
  dsimp only
  split
  · nofun
  · split_ifs <;> nofun

/-- A word of the six families issues by `execWord`, and of them only a store can wait: for a WAITING register, or for the bytes
that it writes. -/
theorem exec_eq_execWord {h : Hd} {i : Instr} (x : Iss)
    (hi : (∃ n, i = .trap h n) ∨ (∃ off_, i = .bra h off_) ∨ (∃ d a b t, i = .add h d a b t) ∨
      (∃ d a b f rm, i = .fadd h d a b f rm) ∨ (∃ d g b t e m, i = .st h d g b t e m) ∨ (∃ d w n, i = .barr h d w n)) :
    ∃ pipe eff, exec i x.s = execWord i h pipe x.s eff ∧
      ((∀ d g b t e m, i = .st h d g b t e m → ∀ gr, x.names g.toNat gr → gr.st ≠ .waiting ∧
        x.free (.grant gr.gid) (itypeBytes t) ((x.active h).map fun l => gr.ia + x.off b (itypeBytes t) m.toNat l)) →
        eff x (x.active h) ≠ .wait) ∧
      (∀ d g b t e m gr, i = .st h d g b t e m → x.names g.toNat gr → gr.st = .waiting → eff x (x.active h) = .wait) := by
  obtain ⟨n, rfl⟩ | ⟨o, rfl⟩ | ⟨d, a, b, t, rfl⟩ | ⟨d, a, b, f, rm, rfl⟩ | ⟨d, g, b, t, e, m, rfl⟩ | ⟨d, w, n, rfl⟩ :=
    hi
  · exact ⟨_, _, rfl, fun _ => Eff.noConfusion, fun _ _ _ _ _ _ _ e => absurd e (by simp)⟩
  · exact ⟨_, _, rfl, fun _ => Eff.noConfusion, fun _ _ _ _ _ _ _ e => absurd e (by simp)⟩
  · exact ⟨_, _, rfl, fun _ => Eff.noConfusion, fun _ _ _ _ _ _ _ e => absurd e (by simp)⟩
  · exact ⟨_, _, rfl, fun _ => Eff.noConfusion, fun _ _ _ _ _ _ _ e => absurd e (by simp)⟩
  · refine ⟨_, _, rfl, fun hf => store_ne_wait _ _ _ (hf d g b t e m rfl), ?_⟩
    intro d' g' b' t' e' m' gr hi hn hw
    cases hi
    exact store_waits hn hw ..
  · obtain ⟨eff, he, hw⟩ := barr_eff (x := x) h d w n
    exact ⟨_, eff, he, fun _ => hw, fun _ _ _ _ _ _ _ e => absurd e (by simp)⟩

/-- Settles O43: each clause is what `execWord` does at that check. -/
theorem issueChecks : Obligations.IssueChecks := by
  intro x h i hx hi
  obtain ⟨pipe, eff, he, hfree, hwait⟩ := exec_eq_execWord x hi
  rw [he, execWord_some hx]
  exact ⟨fun p hp hmax => congrArg _ (issue_bad hp hmax), fun hb hg hs => congrArg _ (issue_skip hb hg hs),
    fun hb hg hc hs => congrArg _ (issue_short_sf hb hg hc hs),
    fun hb hg hc hs hf => congrArg _ (issue_short hb hg hc hs (hfree hf)),
    fun d g b t e m gr hi hn hw hb hg => congrArg _ (issue_waits hb hg (hwait d g b t e m gr hi hn hw))⟩

end Sys2Proof.Issuing
end

section
/-! Paired words (R66 to R69). -/

namespace Sys2Proof.Paired

open Sys2Proof Sys2Proof.Machine Sys2Proof.Laws

/-! The result of a slot on one lane -/

/-- MIN, as bits. -/
theorem iMin_eq {w : Nat} (hw : 0 < w) (sg : Bool) (p q : BitVec w) :
    iMin w sg p.toNat q.toNat = (lesser sg p q).toNat := by
  cases sg <;> simp [iMin, lesser, tInt_eq hw, BitVec.slt, BitVec.ult, apply_ite BitVec.toNat]

/-- MAX, as bits. -/
theorem iMax_eq {w : Nat} (hw : 0 < w) (sg : Bool) (p q : BitVec w) :
    iMax w sg p.toNat q.toNat = (greater sg p q).toNat := by
  cases sg <;> simp [iMax, greater, tInt_eq hw, BitVec.slt, BitVec.ult, apply_ite BitVec.toNat]

/-- An operation on every sub-element of two sources, as bits. -/
theorem each2_mapSubs {w : Nat} (hw : w = 8 ∨ w = 16 ∨ w = 32 ∨ w = 64) {f : Nat → Nat → IRes}
    {g : BitVec w → BitVec w → BitVec w} (h : ∀ p q : BitVec w, (f p.toNat q.toNat).r = (g p q).toNat) (d a : Word) :
    each2 w g d a (mapSubs w fun j => f (sub w d j) (sub w a j)).1 :=
  (mapSubs_eq hw _ (fun j => g (el w j d) (el w j a)) fun j => by rw [sub_eq, sub_eq, h]).1

theorem pairBits_cases (w : PWidth) : pairBits w = 8 ∨ pairBits w = 16 ∨ pairBits w = 32 ∨ pairBits w = 64 := by
  cases w <;> simp [pairBits]

theorem pairBits_pos (w : PWidth) : 0 < pairBits w := by cases w <;> decide

/-- The value of a slot is what its operation makes of its operands. -/
theorem pairResult_pairVal (op : PairOp) (d a : Word) : pairResult op d a (pairVal op d a).1 := by
  cases op with
  | add w =>
    have h := each2_mapSubs (pairBits_cases w) (f := fun x y => iAdd (pairBits w) x y 0) (g := (· + ·))
      (fun p q => by rw [show (0 : Nat) = b2n false from rfl, iAdd_eq (pairBits_pos w), bit_false]; simp) d a
    cases w <;> exact h
  | sub w =>
    have h := each2_mapSubs (pairBits_cases w) (f := fun x y => iSub (pairBits w) x y 0) (g := (· - ·))
      (fun p q => by rw [show (0 : Nat) = b2n false from rfl, iSub_eq (pairBits_pos w), bit_false]; simp) d a
    cases w <;> exact h
  | min sg => exact each2_mapSubs (by decide) (f := fun x y => plain (iMin 32 sg x y)) (fun p q => iMin_eq (by decide) sg p q) d a
  | max sg => exact each2_mapSubs (by decide) (f := fun x y => plain (iMax 32 sg x y)) (fun p q => iMax_eq (by decide) sg p q) d a
  | _ => rfl

/-- The sticky bits of a slot are those of its operation. -/
theorem pairVal_sticky (op : PairOp) (d a : Word) : (pairVal op d a).2 = pairSticky op d a := by cases op <;> rfl

/-! What one slot does to the wave -/

/-- The lanes on which a slot acts, with its results. -/
def slotVals (p : Slot) (x : Iss) : List (Nat × Word) :=
  ((lanesOf x.p.lanes).filter (slotOn p x)).map fun l => (l, (pairVal p.op (x.vreg p.d.toNat l) (x.vreg p.a.toNat l)).1)

/-- A slot has one result for a lane. -/
theorem slotVals_nodup (p : Slot) (x : Iss) : ((slotVals p x).map (·.1)).Nodup := by
  simpa [slotVals, Function.comp_def] using (lanesOf_nodup x.p.lanes).filter _

theorem mem_slotVals {p : Slot} {x : Iss} {l : Nat} (hl : l ∈ lanesOf x.p.lanes) (hs : slotOn p x l = true) :
    (l, (pairVal p.op (x.vreg p.d.toNat l) (x.vreg p.a.toNat l)).1) ∈ slotVals p x :=
  List.mem_map.2 ⟨l, List.mem_filter.2 ⟨hl, hs⟩, rfl⟩

theorem of_mem_slotVals {p : Slot} {x : Iss} {v : Nat × Word} (h : v ∈ slotVals p x) :
    v.1 ∈ lanesOf x.p.lanes ∧ slotOn p x v.1 = true := by
  obtain ⟨l, hl, rfl⟩ := List.mem_map.1 h
  exact List.mem_filter.1 hl

/-- A NOP slot acts on no lane. -/
theorem filter_slotOn_nop {p : Slot} (h : p.op = .nop) (x : Iss) (ls : List Nat) : ls.filter (slotOn p x) = [] := by
  simp [slotOn, h]

/-- Another slot acts where its guard holds. -/
theorem slotOn_eq {p : Slot} (h : p.op ≠ .nop) (x : Iss) : slotOn p x = fun l => condHolds p.g (x.w.readCc x.clk 0 l) := by
  funext l; simp [slotOn, h]

/-- Raising sticky bits adds to those that are due, whatever else the wave holds. -/
theorem raise_stk (w : Wave) (d : Nat) (m : Word) : (w.raise d m).stk = w.stk ++ if m = 0 then [] else [(d, m)] := by
  unfold Wave.raise; split <;> simp

/-- A slot writes its results in its destination, in the lanes on which it acts. -/
theorem slot_win (x : Iss) (p : Slot) (w : Wave) : (x.slot p w).win =
    (slotVals p x).foldl (fun m v => wset m (x.frame.vslot p.d.toNat + v.1) v.2) w.win := by
  by_cases h : p.op = .nop
  · simp [Iss.slot, slotVals, filter_slotOn_nop h, h]
  · simp only [Iss.slot, beq_iff_eq, h, if_false, raise_win, slotVals, slotOn_eq h, List.map_map]; rfl

/-- A slot raises the sticky bits of the lanes on which it acts. -/
theorem slot_stk (x : Iss) (p : Slot) (w : Wave) :
    (x.slot p w).stk = (w.raise (x.clk + pairLat p.op) (slotSticky p x)).stk := by
  by_cases h : p.op = .nop
  · simp [Iss.slot, raise_stk, slotSticky, filter_slotOn_nop h, h]
  · simp only [Iss.slot, beq_iff_eq, h, if_false, raise_stk, writeV_stk, slotSticky, slotOn_eq h, List.foldl_map, pairVal_sticky]

/-- A slot changes nothing else. -/
theorem slot_rest (x : Iss) (p : Slot) (w : Wave) :
    x.slot p w = { w with win := (x.slot p w).win, early := (x.slot p w).early, stk := (x.slot p w).stk } := by
  unfold Iss.slot Wave.raise
  split
  · rfl
  · dsimp only
    split <;> rfl

/-- The lanes on which a slot acts read its results. -/
theorem wget_slot_on {x : Iss} {p : Slot} {l : Nat} (hl : l ∈ lanesOf x.p.lanes) (hs : slotOn p x l = true) (w : Wave) :
    pairResult p.op (x.vreg p.d.toNat l) (x.vreg p.a.toNat l) (wget (x.slot p w).win (x.frame.vslot p.d.toNat + l)) := by
  rw [slot_win, wget_foldl_mem _ _ _ (slotVals_nodup p x) _ (mem_slotVals hl hs)]
  exact pairResult_pairVal _ _ _

/-- Every other word of the window is kept. -/
theorem wget_slot_ne {x : Iss} {p : Slot} {k : Nat}
    (h : ∀ l ∈ lanesOf x.p.lanes, slotOn p x l = true → k ≠ x.frame.vslot p.d.toNat + l) (w : Wave) :
    wget (x.slot p w).win k = wget w.win k := by
  rw [slot_win, wget_foldl_ne]
  exact fun v hv => h v.1 (of_mem_slotVals hv).1 (of_mem_slotVals hv).2

/-! The two slots -/

/-- The bank of a slot's destination is in its bank mask. -/
theorem banks_dest {p : Slot} (h : p.op ≠ .nop) : p.banks.getLsbD (p.d.toNat % 4) = true := by
  simp [Slot.banks, h, Nat.mod_lt]

/-- Slots of disjoint banks have different destinations. -/
theorem dest_ne {p q : Slot} (hb : banksDisjoint p q = true) (hp : p.op ≠ .nop) (hq : q.op ≠ .nop) : p.d.toNat ≠ q.d.toNat := by
  intro hd
  have h0 : p.banks &&& q.banks = 0 := by simpa [banksDisjoint] using hb
  have := congrArg (·.getLsbD (p.d.toNat % 4)) h0
  simp [banks_dest hp, hd ▸ banks_dest hq] at this

theorem lt_of_mem_lanesOf {m : BitVec 32} {l : Nat} (h : l ∈ lanesOf m) : l < 32 :=
  List.mem_range.1 (List.mem_filter.1 h).1

/-- Where a vector name lies that no loop renames. -/
theorem vslot_of_lt (f : Frame) {n : Nat} (h : n < 352) : f.vslot n = 32 * (viewV f.views + n) := by
  unfold Frame.vslot rename
  rw [if_pos h]
  generalize viewV f.views = v
  omega

/-- No lane of one slot's destination is a lane of the other's. -/
theorem slots_apart {x : Iss} {p q : Slot} {l m : Nat} (hb : banksDisjoint p q = true) (hl : l ∈ lanesOf x.p.lanes)
    (hp : slotOn p x l = true) (hm : m ∈ lanesOf x.p.lanes) (hq : slotOn q x m = true) :
    x.frame.vslot p.d.toNat + l ≠ x.frame.vslot q.d.toNat + m := by
  have hd := dest_ne hb (fun h => by simp [slotOn, h] at hp) (fun h => by simp [slotOn, h] at hq)
  have hl := lt_of_mem_lanesOf hl
  have hm := lt_of_mem_lanesOf hm
  rw [vslot_of_lt _ (p.d.isLt.trans (by decide)), vslot_of_lt _ (q.d.isLt.trans (by decide))]
  generalize viewV x.frame.views = v
  omega

/-- A paired word executes its two slots, and is well formed when they are. -/
theorem paired_word {i : Instr} {p q : Slot} {sc : BitVec 3} (h : i.paired? = some (p, sc, q)) :
    (∀ s, exec i s = execPair i sc p q s) ∧ i.wf = pairOk i.paired? := by
  cases i with
  | pairNop sc y => cases h; exact ⟨fun _ => rfl, rfl⟩
  | pairMov sc d a g y => cases h; exact ⟨fun _ => rfl, rfl⟩
  | pairAdd sc w d a g y => cases h; exact ⟨fun _ => rfl, rfl⟩
  | pairSub sc w d a g y => cases h; exact ⟨fun _ => rfl, rfl⟩
  | pairMin sc sg d a g y => cases h; exact ⟨fun _ => rfl, rfl⟩
  | pairMax sc sg d a g y => cases h; exact ⟨fun _ => rfl, rfl⟩
  | pairAnd sc d a g y => cases h; exact ⟨fun _ => rfl, rfl⟩
  | pairOr sc d a g y => cases h; exact ⟨fun _ => rfl, rfl⟩
  | pairXor sc d a g y => cases h; exact ⟨fun _ => rfl, rfl⟩
  | pairAndn sc d a g y => cases h; exact ⟨fun _ => rfl, rfl⟩
  | pairFadd sc f d a g y => cases h; exact ⟨fun _ => rfl, rfl⟩
  | pairFmul sc f d a g y => cases h; exact ⟨fun _ => rfl, rfl⟩
  | pairFmin sc f d a g y => cases h; exact ⟨fun _ => rfl, rfl⟩
  | pairFmax sc f d a g y => cases h; exact ⟨fun _ => rfl, rfl⟩
  | _ => exact (Option.some_ne_none _ h.symm).elim

/-- A paired word that nothing stops applies both slots to the issuing wave. -/
theorem execPair_ready {x : Iss} {i : Instr} {sc : BitVec 3} (hx : x.live) (hr : x.ready (usesOf i) (pairHd sc)) (p q : Slot) :
    execPair i sc p q x.s = .next (x.after i (pairHd sc) .vector
      ((lanesOf x.p.lanes).filter fun l => [p.g, q.g].any fun g => condHolds g (x.w.readCc x.clk 0 l)).length x.s
      (x.slot q (x.slot p x.w)) .next) := by
  have hs : x.s.iss? = some x := hx
  simp only [execPair, hs, List.any_cons, List.any_nil, Bool.or_false]
  exact congrArg _ (issueOn_ready hr .vector _ _)

/-- Settles O9: the wave is changed by one slot after the other, and no word of the window is written by both. -/
theorem pairedWords : Obligations.PairedWords := by
  intro x i p q sc hx hi hwf hr
  obtain ⟨hexec, hok⟩ := paired_word hi
  have hb : banksDisjoint p q = true := by
    rw [hok, hi, pairOk, Bool.and_eq_true] at hwf
    exact hwf.2
  refine ⟨_, (hexec _).trans (execPair_ready hx hr p q), ?_, ?_, ?_, ?_⟩
  · rw [slot_rest x q, slot_rest x p]
  · intro s hs l hl hon
    obtain rfl | rfl : s = p ∨ s = q := by simpa using hs
    · rw [wget_slot_ne fun m hm hq => slots_apart hb hl hon hm hq]
      exact wget_slot_on hl hon _
    · exact wget_slot_on hl hon _
  · intro k hk
    rw [wget_slot_ne (hk q (by simp)), wget_slot_ne (hk p (by simp))]
  · rw [slot_stk, raise_stk, slot_stk, ← raise_stk]

end Sys2Proof.Paired
end

section
/-! Results of variable latency (R63, R183, R185, R191, R192, R199, R235, R344). -/

namespace Sys2Proof.Landing

open Sys2Proof Sys2Proof.Machine Sys2Proof.Laws

/-! The events -/

theorem exec_variableLatencyWrite (u id : Nat) (s : State) :
    exec (.variableLatencyWrite u id) s = execVariableLatencyWrite u id s := rfl

theorem exec_missEntriesTaken (u : Nat) (s : State) : exec (.missEntriesTaken u) s = execMissEntriesTaken u s := rfl

theorem exec_acknowledgementReceived (id : Nat) (s : State) :
    exec (.acknowledgementReceived id) s = execAcknowledgementReceived id s := rfl

theorem exec_fullEmptyProceed (u : Nat) (s : State) : exec (.fullEmptyProceed u) s = execFullEmptyProceed u s := rfl

theorem exec_loadWriteback (u id : Nat) (what : LoadStep) (s : State) :
    exec (.loadWriteback u id what) s = execLoadWriteback u id what s := rfl

/-! Results and entries -/

section
variable {s : State} {u : Nat} {w : Wave}

/-- A wave is found by its name. -/
theorem uid_of_wave? (hw : s.wave? u = some w) : w.uid = u := by
  simpa using List.find?_some hw

/-- A result that no grant and no copy operation is to bring lands. -/
theorem variableLatencyWrite_lands (hw : s.wave? u = some w) {id : Nat} {v : VPend} (hv : w.vpend.find? (·.id == id) = some v)
    (hg : ∀ g ∈ s.grants, g.gid ≠ id) (ho : ∀ o ∈ s.ops, o.id ≠ id) :
    let t := s.setWave { w with vpend := w.vpend.filter fun e => e.id != id }
    (v.chan = none → exec (.variableLatencyWrite u id) s = .next t) ∧
    (∀ n ix g c, v.chan = some (n, ix) → t.group? w.group = some g → g.chan? n = some c →
      exec (.variableLatencyWrite u id) s = .next (t.setGroup (g.setChan (c.done ix)))) := by
  have hbrought : (s.grants.any (·.gid == id) || s.ops.any (·.id == id)) = false := by simpa using ⟨hg, ho⟩
  rw [exec_variableLatencyWrite, show w.vpend.filter (fun e => e.id != id) = dropIf (·.id == id) w.vpend from rfl]
  exact ⟨fun hc => execEvent_some (by simp [hw, hv, hbrought, hc]),
    fun n ix g c hc hgr hch => execEvent_some (by simp [hw, hv, hbrought, hc, hgr, hch])⟩

/-- The wave first in line takes its entries where 256 hold them. -/
theorem missEntriesTaken_serves (hw : s.wave? u = some w) {a n b : Nat} (hq : (s.missQueue (s.coreOf w)).head? = some w)
    (hh : w.hold = .miss a n b) (hn : (s.core (s.coreOf w)).missUsed + n ≤ 256) :
    exec (.missEntriesTaken u) s = .next ((s.missAdd (s.coreOf w) n).setWave { w with hold := .none }) :=
  (exec_missEntriesTaken u s).trans (execEvent_some (by simp [hw, hq, uid_of_wave? hw, State.serveMiss, hh, hn]))

/-- A full-empty word of a resident wave whose granules are full, and whose lanes may be read, proceeds or fails. -/
theorem fullEmptyProceed_acts (hw : s.wave? u = some w) {id : Nat} {clear : Bool} {l : LoadP} (hh : w.hold = .fullEmpty id clear)
    (hst : w.st = .resident) (hl : w.loads.find? (·.id == id) = some l)
    (hfull : s.allFull (s.granules l.tgt (l.lanes.map fun r => (r.addr, l.size))) = true)
    (hready : ∀ r ∈ l.lanes, s.laneReady w l r = true)
    (hslot : s.inSlot = true → s.pauses (s.coreOf w) l.tgt l.size (l.lanes.map (·.addr)) = false) :
    let r := s.feProceed w l clear
    (s.badLanes? (s.coreOf w) l none = none → exec (.fullEmptyProceed u) s = .next (r.1.setWave { r.2 with hold := .none })) ∧
    (∀ b, s.badLanes? (s.coreOf w) l none = some b → exec (.fullEmptyProceed u) s =
      .next (r.1.failLoad { w with hold := .none } l MEM_UNCORRECTABLE (memInfo l.code b.tier l.pc))) := by
  rw [exec_fullEmptyProceed]
  exact ⟨fun hb => execEvent_some (by simpa [hw, State.proceedFe, hh, hst, hl, hfull, hb] using ⟨hready, hslot⟩),
    fun b hb => execEvent_some (by simpa [hw, State.proceedFe, hh, hst, hl, hfull, hb] using ⟨hready, hslot⟩)⟩

end

/-! Acknowledgements -/

/-- An acknowledgement drops what bears its name, frees its entries, and touches no more than a delivery context. -/
theorem acked_eq (s : State) (a : Ack) : ∃ ds, s.acked a =
    ({ s with delivs := ds, acks := s.acks.filter (·.id != a.id), packets := s.packets.filter (·.id != a.id),
              unacked := s.unacked.filter (·.id != a.id) } : State).missFree a.core a.entries := by
  unfold State.acked
  dsimp only
  split <;> exact ⟨_, rfl⟩

/-- Freed entries leave a core's count. -/
theorem missUsed_missFree (s : State) {c : Nat} (n : Nat) (hc : c < s.cores.length) :
    ((s.missFree c n).core c).missUsed = (s.core c).missUsed - n := by
  simp [State.missFree, State.core, State.setCore, hc]

/-- An acknowledgement is taken unless its packet or its message is acknowledged selectively. -/
theorem acknowledgementReceived_frees {s : State} {id : Nat} {a : Ack} (ha : s.acks.find? (·.id == id) = some a)
    (hp : ∀ p ∈ s.packets, p.id = id → p.sel = false) (hm : ∀ m ∈ s.unacked, m.id = id → m.sel = false) :
    exec (.acknowledgementReceived id) s = .next (s.acked a) ∧
    (s.acked a).acks = s.acks.filter (fun e => e.id != id) ∧
    (s.acked a).packets = s.packets.filter (fun e => e.id != id) ∧
    (s.acked a).unacked = s.unacked.filter (fun e => e.id != id) ∧
    (a.core < s.cores.length → ((s.acked a).core a.core).missUsed = (s.core a.core).missUsed - a.entries) := by
  obtain rfl : a.id = id := by simpa using List.find?_some ha
  obtain ⟨ds, he⟩ := acked_eq s a
  refine ⟨(exec_acknowledgementReceived ..).trans (execEvent_some ?_), ?_⟩
  · simpa [ha] using ⟨hp, hm⟩
  · rw [he]
    exact ⟨rfl, rfl, rfl, fun hc => missUsed_missFree _ _ hc⟩

/-! Loads -/

/-- Without a walked line an access acts in the state as it stands. -/
theorem pinning_unpinned {s : State} (h : s.unpinned = true) (r : AccRef) (f : State → Option State) : s.pinning r f = f s :=
  if_pos h

@[simp] theorem lane?_of (cap : Option Nat) : (LoadStep.of cap).lane? = cap := by cases cap <;> rfl

theorem of_ne_refused (cap : Option Nat) : LoadStep.of cap ≠ .refused := by cases cap <;> nofun

/-- The lanes of a result are lanes of its load, in their order. -/
theorem lanes_sublist (ls : List LaneRd) :
    ((ls.filterMap fun r => r.got.map fun b => (r.lane, b)).map (·.1)).Sublist (ls.map (·.lane)) := by
  induction ls with
  | nil => exact .slnil
  | cons r rs ih =>
    cases hr : r.got with
    | none => simpa [hr] using ih.cons _
    | some b => simpa [hr] using ih

/-- A load to a vector register gives each lane that it has read its bytes, extended by its type. -/
theorem wget_writeLoad (w : Wave) {l : LoadP} {a : Nat} {ty : IType} (hd : l.dest = .vec a ty)
    (hn : (l.lanes.map (·.lane)).Nodup) {e : LaneRd} (he : e ∈ l.lanes) {b : List Byte} (hb : e.got = some b) :
    wget (w.writeLoad l).win (a / 8 + e.lane) = extBytes ty b := by
  let vals := l.lanes.filterMap fun r => r.got.map fun b => (r.lane, b)
  have hmem : (e.lane, b) ∈ vals := List.mem_filterMap.2 ⟨e, he, by rw [hb]; rfl⟩
  have hread := wget_foldl_mem (a / 8) (vals.map fun p => (p.1, extBytes ty p.2)) w.win
    (by simpa [Function.comp_def] using hn.sublist (lanes_sublist l.lanes)) _ (List.mem_map_of_mem hmem)
  rw [List.foldl_map] at hread
  rw [Wave.writeLoad, hd]
  exact hread

/-- Once the fills of its sectors have come, a load still has its destination and its lanes. -/
theorem wget_writeLoad_filled {s : State} {w : Wave} {l : LoadP} {lanes : List LaneRd} {a : Nat} {ty : IType}
    (hd : l.dest = .vec a ty) (hn : (lanes.map (·.lane)).Nodup) {e : LaneRd} (he : e ∈ lanes) {b : List Byte}
    (hb : e.got = some b) :
    wget (w.writeLoad (s.filled w { l with lanes := lanes }).2).win (a / 8 + e.lane) = extBytes ty b :=
  wget_writeLoad w (l := (s.filled w { l with lanes := lanes }).2) hd hn he hb

/-- Keeping a delivery context open moves no wave. -/
theorem coreOf_touchDeliv (s : State) (ep : Nat) (w : Wave) : (s.touchDeliv ep).coreOf w = s.coreOf w := rfl

/-- What a load does that may read its lanes: it fails at an uncorrectable sector; else the lane that is named is read and
kept, or all are read and the load ends. -/
def readStep (s : State) (w : Wave) (l : LoadP) (cap : Option Nat) : Option State :=
  match if l.atomic then none else (s.reading l).badLanes? (s.coreOf w) l cap with
  | some b => some ((s.reading l).failLoad w l MEM_UNCORRECTABLE (memInfo l.code b.tier l.pc))
  | none =>
    let read := (s.reading l).capture w l cap l.lanes
    let r := read.1.filled w { l with lanes := read.2 }
    if cap.isSome then
      if read.2 == l.lanes then none
      else some (r.1.setWave { w with loads := w.loads.map fun m => if m.id == l.id then r.2 else m })
    else if read.2.all (·.got.isSome) then some (r.1.endLoad (w.writeLoad r.2) r.2)
    else none

/-- No lane of a load that is no atomic meets an uncorrectable sector. -/
theorem badOf_none {s : State} {w : Wave} {l : LoadP} {cap : Option Nat}
    (hb : l.atomic = false → (s.reading l).badLanes? (s.coreOf w) l cap = none) :
    (if l.atomic then none else (s.reading l).badLanes? (s.coreOf w) l cap) = none := by
  cases ha : l.atomic <;> simp [hb, ha]

section
variable {s : State} {u id : Nat} {w : Wave} {l : LoadP} {cap : Option Nat}
variable (hw : s.wave? u = some w) (hl : w.loads.find? (·.id == id) = some l) (hwait : w.loadWaits l = false)
  (hpin : s.unpinned = true)

include hw hl hwait hpin

/-- A load with a lane still to be read fails where its endpoint refuses it. -/
theorem load_refused {e : Nat} (he : s.loadEp? l = some e) (hr : ∃ r ∈ l.lanes, r.got = none) :
    exec (.loadWriteback u id .refused) s = .next (s.failLoad w l GRANT_FAILED (wd (16 * l.code + 8))) :=
  (exec_loadWriteback ..).trans (execEvent_some (by rw [pinning_unpinned hpin]; simpa [hw, hl, hwait, he] using hr))

/-- A load whose home is not reached fails. -/
theorem load_unreached {r : Nat} (hf : s.farLines l = []) (hr : s.loadReach w l = .fail r) (ha : l.atomic = false) :
    exec (.loadWriteback u id (.of cap)) s =
      .next (s.failLoad w l LINK_PARTITION (linkInfo l.code r ((l.lanes.head?.map (·.addr)).getD 0))) :=
  (exec_loadWriteback ..).trans (execEvent_some (by
    rw [pinning_unpinned hpin]; simp [hw, hl, hwait, of_ne_refused, hf, hr, ha]))

/-- A load that may read its lanes does what `readStep` says. -/
theorem load_reads (hm : s.mayRead w l cap) {t : State} (ht : readStep s w l cap = some t) :
    exec (.loadWriteback u id (.of cap)) s = .next t := by
  obtain ⟨hreach, hslot⟩ := hm
  have hok : (if (s.farLines l).isEmpty then s.loadReach w l else .ok) = .ok := by
    by_cases hf : s.farLines l = [] <;> simp [hf, hreach]
  have hnot : (LoadStep.of cap == .refused) = false := beq_eq_false_iff_ne.2 (of_ne_refused cap)
  have hpause : (s.inSlot && !l.atomic && s.pauses (s.coreOf w) l.tgt l.size
      ((l.lanes.filter fun r => r.got.isNone && cap.all (· == r.lane)).map (·.addr))) = false := by
    cases hs : s.inSlot <;> cases ha : l.atomic <;> simp [hslot, hs, ha]
  obtain rfl : l.id = id := by simpa using List.find?_some hl
  refine (exec_loadWriteback ..).trans (execEvent_some ?_)
  rw [pinning_unpinned hpin, ← ht]
  simp only [hw, hl, hwait, hok, hnot, hpause, lane?_of, Option.bind_eq_bind, Option.bind_some, Option.bind_none,
    Bool.false_eq_true, if_false, readStep]
  cases hep : s.loadEp? l with
  | none =>
    simp only [State.reading, hep]
    cases if l.atomic = true then none else s.badLanes? (s.coreOf w) l cap <;> rfl
  | some e =>
    simp only [State.reading, hep, coreOf_touchDeliv]
    cases if l.atomic = true then none else (s.touchDeliv e).badLanes? (s.coreOf w) l cap <;> rfl

/-- A load that meets an uncorrectable sector fails. -/
theorem load_spoiled {b : Bad} (hm : s.mayRead w l cap) (ha : l.atomic = false)
    (hb : (s.reading l).badLanes? (s.coreOf w) l cap = some b) : exec (.loadWriteback u id (.of cap)) s =
      .next ((s.reading l).failLoad w l MEM_UNCORRECTABLE (memInfo l.code b.tier l.pc)) :=
  load_reads hw hl hwait hpin hm (by simp [readStep, ha, hb])

/-- The lane that is named is read and kept. -/
theorem load_captures (hm : s.mayRead w l cap)
    (hb : l.atomic = false → (s.reading l).badLanes? (s.coreOf w) l cap = none) (hcap : cap ≠ none)
    (hnew : ((s.reading l).capture w l cap l.lanes).2 ≠ l.lanes) :
    let read := (s.reading l).capture w l cap l.lanes
    let r := read.1.filled w { l with lanes := read.2 }
    exec (.loadWriteback u id (.of cap)) s =
      .next (r.1.setWave { w with loads := w.loads.map fun m => if m.id == id then r.2 else m }) := by
  obtain rfl : l.id = id := by simpa using List.find?_some hl
  exact load_reads hw hl hwait hpin hm (by simp [readStep, badOf_none hb, Option.isSome_iff_ne_none.2 hcap, hnew])

/-- A load whose lanes have all been read ends. -/
theorem load_ends (hm : s.mayRead w l none)
    (hb : l.atomic = false → (s.reading l).badLanes? (s.coreOf w) l none = none)
    (hall : ∀ r ∈ ((s.reading l).capture w l none l.lanes).2, r.got ≠ none) :
    let read := (s.reading l).capture w l none l.lanes
    let r := read.1.filled w { l with lanes := read.2 }
    exec (.loadWriteback u id (.of none)) s = .next (r.1.endLoad (w.writeLoad r.2) r.2) := by
  have hgot : (((s.reading l).capture w l none l.lanes).2.all (·.got.isSome)) = true :=
    List.all_eq_true.2 fun r hr => Option.isSome_iff_ne_none.2 (hall r hr)
  exact load_reads hw hl hwait hpin hm (by simp [readStep, badOf_none hb, hgot])

end

/-- Settles O51: the clauses are those of the events above, each in a state in which nothing else holds the event back. -/
theorem resultsLand : Obligations.ResultsLand := by
  intro s u w hw
  refine ⟨fun id v hv hg ho => variableLatencyWrite_lands hw hv hg ho, fun id l hl hwait hpin cap => ?_,
    fun a n b hq hh hn => missEntriesTaken_serves hw hq hh hn, fun id a ha hp hm => acknowledgementReceived_frees ha hp hm,
    fun id clear l hh hst hl hfull hready hslot => fullEmptyProceed_acts hw hh hst hl hfull hready hslot⟩
  refine ⟨fun good hcap hall => ?_, fun good => load_captures hw hl hwait hpin good.1 good.2,
    fun b => load_spoiled hw hl hwait hpin, fun r => load_unreached hw hl hwait hpin, fun e => load_refused hw hl hwait hpin⟩
  subst hcap
  exact ⟨load_ends hw hl hwait hpin good.1 good.2 hall, fun a ty hd hn e he b hb => wget_writeLoad_filled hd hn he hb⟩

end Sys2Proof.Landing
end

section
/-! Branches and calls (R86), partitions that split and merge (R74 to R76). -/

namespace Sys2Proof.Control

open Sys2Proof Sys2Proof.Machine Sys2Proof.Laws

/-! The outcome of a word that nothing stops -/

section
variable {x : Iss} {i : Instr} {h : Hd} {pipe : Pipe} {eff : Iss → List Nat → Eff}
variable (hx : x.live) (hr : x.ready (usesOf i) h) (hi : exec i x.s = execWord i h pipe x.s eff)
include hx hr hi

/-- A word whose effect is done completes with it. -/
theorem word_done {s : State} {w : Wave} {mv : Move} (he : eff x (x.active h) = .done s w mv) :
    exec i x.s = .next (x.after i h pipe (x.active h).length s w mv) := by
  rw [hi, execWord_ready hx hr, he]; rfl

/-- A word whose effect is a trap takes it. -/
theorem word_traps {code : Nat} {info : Word} (he : eff x (x.active h) = .trap code info) :
    exec i x.s = .next (x.trap h.sc.toNat code info) := by
  rw [hi, execWord_ready hx hr, he]; rfl

/-- A word that waits changes nothing. -/
theorem word_waits (he : eff x (x.active h) = .wait) : exec i x.s = .next x.s := by
  rw [hi, execWord_ready hx hr, he]; rfl

end

/-! The check of register targets -/

/-- The first of ascending numbers that passes a test is the lowest that does. -/
theorem find?_lowest {p : Nat → Bool} {ls : List Nat} (hs : ls.Pairwise (· < ·)) {l : Nat} (hl : l ∈ ls) (hp : p l = true)
    (hlow : ∀ m ∈ ls, m < l → p m = false) : ls.find? p = some l := by
  obtain ⟨before, after, rfl⟩ := List.append_of_mem hl
  have hlt : ∀ m ∈ before, m < l := fun m hm => (List.pairwise_append.1 hs).2.2 m hm l List.mem_cons_self
  exact List.find?_eq_some_iff_append.2 ⟨hp, before, after, rfl, fun m hm => by simp [hlow m (by simp [hm]) (hlt m hm)]⟩

/-- The active lanes of a word ascend. -/
theorem active_ascending (x : Iss) (h : Hd) : (x.active h).Pairwise (· < ·) := (List.pairwise_lt_range.filter _).filter _

/-- Targets that are all multiples of 8 pass. -/
theorem badTarget?_aligned {act : List Nat} {tgt : Nat → Word} (ha : ∀ l ∈ act, (tgt l).toNat % 8 = 0) :
    badTarget? act tgt = none := by
  simpa [badTarget?] using ha

/-- The lowest lane whose target is no multiple of 8 is reported. -/
theorem badTarget?_misaligned {x : Iss} {h : Hd} {tgt : Nat → Word} {l : Nat} (hl : l ∈ x.active h)
    (hbad : (tgt l).toNat % 8 ≠ 0) (hlow : ∀ m ∈ x.active h, m < l → (tgt m).toNat % 8 = 0) :
    badTarget? (x.active h) tgt = some (wd (31 + 32 * l + 65536 * ((tgt l).toNat % 2 ^ 48))) := by
  rw [badTarget?, find?_lowest (active_ascending x h) hl (by simpa using hbad) fun m hm hlt => by simpa using hlow m hm hlt]
  rfl

/-- Register targets that are all multiples of 8 move the lanes. -/
theorem branchReg_moves {x : Iss} {a : VCode} {act : List Nat} (ha : ∀ l ∈ act, (x.v a l).toNat % 8 = 0) (s : State) (w : Wave) :
    x.branchReg a act s w = .done s w (x.branch act (x.v a)) := by
  rw [Iss.branchReg, badTarget?_aligned ha]

/-- A register target that is no multiple of 8 moves no lane. -/
theorem branchReg_traps {x : Iss} {h : Hd} {a : VCode} {l : Nat} (hl : l ∈ x.active h) (hbad : (x.v a l).toNat % 8 ≠ 0)
    (hlow : ∀ m ∈ x.active h, m < l → (x.v a m).toNat % 8 = 0) (s : State) (w : Wave) :
    x.branchReg a (x.active h) s w = .trap MISALIGNED (wd (31 + 32 * l + 65536 * ((x.v a l).toNat % 2 ^ 48))) := by
  rw [Iss.branchReg, badTarget?_misaligned hl hbad hlow]

/-! Branch words -/

/-- The link of a call lies in the active lanes of its register. -/
theorem link_linked (x : Iss) (d : VCode) (h : Hd) : x.linked d h (x.link d (x.active h)).2 := by
  have hwin : (x.link d (x.active h)).2.win =
      ((x.active h).map fun l => (l, x.p.pc + 8)).foldl (fun m p => wset m (x.frame.vslot d.toNat + p.1) p.2) x.w.win := by
    rw [List.foldl_map]; rfl
  refine ⟨rfl, fun l hl => ?_, fun k hk => ?_⟩
  · rw [hwin]
    refine wget_foldl_mem _ _ _ ?_ (l, x.p.pc + 8) (List.mem_map_of_mem hl)
    simpa [Function.comp_def] using active_nodup x h
  · rw [hwin]
    refine wget_foldl_ne _ _ _ _ fun p hp => ?_
    obtain ⟨l, hl, rfl⟩ := List.mem_map.1 hp
    exact hk l hl

/-- Settles O19: a label is a target of every lane, a register gives each its own, which the check of R86 lets pass or not. -/
theorem branchWords : Obligations.BranchWords := by
  intro x h hx
  refine ⟨fun off_ hr => word_done hx hr rfl rfl, fun d off_ hr => word_done hx hr rfl ?_,
    fun a hr ha => word_done hx hr rfl (branchReg_moves ha _ _), fun a hr ha => word_done hx hr rfl (branchReg_moves ha _ _),
    fun d off_ hr => ⟨_, link_linked x d h, word_done hx hr rfl rfl⟩,
    fun d a hr ha => ⟨_, link_linked x d h, word_done hx hr rfl (branchReg_moves ha _ _)⟩, fun d a l hl hbad hlow => ?_⟩
  · have htgt : (fun l => if x.v d l != 0 then label x.p.pc off_ else x.p.pc + 8) =
        fun l => if x.v d l = 0 then x.p.pc + 8 else x.p.pc + 8 * off_.signExtend 64 := by
      funext l; by_cases h0 : x.v d l = 0 <;> simp [h0, label]
    rw [htgt]
  · have htrap (s : State) (w : Wave) := branchReg_traps hl hbad hlow s w
    exact ⟨fun hr => word_traps hx hr rfl (htrap _ _), fun hr => word_traps hx hr rfl (htrap _ _),
      fun hr => word_traps hx hr rfl (htrap _ _)⟩

/-! Where the lanes stand -/

/-- A partition of the list that holds lane `l` stands at `c`. -/
def Stands (ps : List Part) (l : Nat) (c : Word) : Prop := ∃ p ∈ ps, p.lanes.getLsbD l = true ∧ p.pc = c

@[simp] theorem stands_nil (l : Nat) (c : Word) : ¬ Stands [] l c := by simp [Stands]

@[simp] theorem stands_cons (p : Part) (ps : List Part) (l : Nat) (c : Word) :
    Stands (p :: ps) l c ↔ (p.lanes.getLsbD l = true ∧ p.pc = c) ∨ Stands ps l c := by
  simp [Stands]

@[simp] theorem stands_append (ps qs : List Part) (l : Nat) (c : Word) :
    Stands (ps ++ qs) l c ↔ Stands ps l c ∨ Stands qs l c := by
  simp [Stands, or_and_right, exists_or]

/-- A lane that stands at one place only stands there by `pcIn`. -/
theorem pcIn_of_stands {ps : List Part} {l : Nat} {o : Option Word} (h : ∀ c, Stands ps l c ↔ o = some c) : pcIn ps l = o := by
  unfold pcIn
  cases hf : ps.find? fun p => p.lanes.getLsbD l with
  | some p =>
    have hl : p.lanes.getLsbD l = true := List.find?_some (p := fun p : Part => p.lanes.getLsbD l) hf
    exact ((h p.pc).1 ⟨p, List.mem_of_find?_eq_some hf, hl, rfl⟩).symm
  | none =>
    cases o with
    | none => rfl
    | some c =>
      obtain ⟨p, hp, hl, -⟩ := (h c).2 rfl
      exact absurd hl (List.find?_eq_none.1 hf p hp)

/-- A lane of a partition is in no other that shares no lane with it. -/
theorem find?_apart {p : Part} {ps : List Part} (hp : ∀ q ∈ ps, p.lanes &&& q.lanes = 0) {l : Nat} (hl : p.lanes.getLsbD l = true) :
    ps.find? (fun q => q.lanes.getLsbD l) = none := by
  refine List.find?_eq_none.2 fun q hq hql => ?_
  have hboth := congrArg (·.getLsbD l) (hp q hq)
  simp [hl, hql] at hboth

/-- Where partitions share no lane, `pcIn` tells all places at which a lane stands. -/
theorem stands_iff_pcIn {ps : List Part} (hd : ps.Pairwise fun a b => a.lanes &&& b.lanes = 0) (l : Nat) (c : Word) :
    Stands ps l c ↔ pcIn ps l = some c := by
  induction ps with
  | nil => simp [pcIn]
  | cons p ps ih =>
    obtain ⟨hp, hps⟩ := List.pairwise_cons.1 hd
    rw [stands_cons, ih hps]
    cases hl : p.lanes.getLsbD l with
    | false => simp [pcIn, hl]
    | true => simp [pcIn, hl, find?_apart hp hl]

/-- Placing a partition in rotation order places its lanes. -/
theorem stands_insPart (ps : List Part) (p : Part) (l : Nat) (c : Word) : Stands (insPart ps p) l c ↔ Stands (p :: ps) l c := by
  induction ps with
  | nil => rfl
  | cons a r ih =>
    unfold insPart
    split
    · rfl
    · simp only [stands_cons, ih]; tauto

/-- One partition meets the one that a word has moved: it joins it, or takes its place among the others (R76). -/
def mergeStep (acc : Part × List Part) (q : Part) : Part × List Part :=
  if acc.1.same q then
    ({ acc.1 with lanes := acc.1.lanes ||| q.lanes, redirect := max acc.1.redirect q.redirect, due := acc.1.due || q.due }, acc.2)
  else (acc.1, insPart acc.2 q)

theorem mergePart_eq (p : Part) (ps : List Part) : mergePart p ps = ps.foldl mergeStep (p, []) := rfl

theorem stands_mergeStep (acc : Part × List Part) (q : Part) (l : Nat) (c : Word) :
    Stands ((mergeStep acc q).1 :: (mergeStep acc q).2) l c ↔ Stands (q :: acc.1 :: acc.2) l c := by
  unfold mergeStep
  split
  · rename_i hsame
    have hpc : acc.1.pc = q.pc := by simp only [Part.same, Bool.and_eq_true, beq_iff_eq] at hsame; exact hsame.1.1.1
    simp only [stands_cons, BitVec.getLsbD_or, Bool.or_eq_true, hpc]; tauto
  · simp only [stands_cons, stands_insPart]; tauto

/-- Merging a partition with those of its position moves no lane. -/
theorem stands_mergePart (p : Part) (ps : List Part) (l : Nat) (c : Word) :
    Stands ((mergePart p ps).1 :: (mergePart p ps).2) l c ↔ Stands (p :: ps) l c := by
  have hfold (acc : Part × List Part) : Stands ((ps.foldl mergeStep acc).1 :: (ps.foldl mergeStep acc).2) l c ↔
      Stands ps l c ∨ Stands (acc.1 :: acc.2) l c := by
    induction ps generalizing acc with
    | nil => simp
    | cons q r ih => rw [List.foldl_cons, ih, stands_mergeStep, stands_cons q, stands_cons q]; tauto
  rw [mergePart_eq, hfold, stands_cons, stands_cons, or_comm]
  simp

/-- A partition placed among others, merged with those of its position. -/
def placePart (ps : List Part) (q : Part) : List Part := insPart (mergePart q ps).2 (mergePart q ps).1

theorem mergeAll_cons (p : Part) (r ps : List Part) : mergeAll (p :: r) ps =
    { (mergePart p (r.foldl placePart ps)).1 with due := false } :: (mergePart p (r.foldl placePart ps)).2 := rfl

/-- Merging new partitions among others moves no lane of either. -/
theorem stands_mergeAll (ls ps : List Part) (l : Nat) (c : Word) : Stands (mergeAll ls ps) l c ↔ Stands ls l c ∨ Stands ps l c := by
  have hfold (r ps : List Part) : Stands (r.foldl placePart ps) l c ↔ Stands r l c ∨ Stands ps l c := by
    induction r generalizing ps with
    | nil => simp
    | cons q r ih => rw [List.foldl_cons, ih, placePart, stands_insPart, stands_mergePart, stands_cons, stands_cons]; tauto
  cases ls with
  | nil => simp [mergeAll]
  | cons p r =>
    have h := stands_mergePart p (r.foldl placePart ps) l c
    rw [stands_cons, stands_cons, hfold] at h
    rw [mergeAll_cons, stands_cons, h, stands_cons, or_assoc]

/-- Lane `i` joins the part that moves to `pc`, or begins one (R75). -/
def splitStep (p : Part) (tgt : Nat → Word) (ls : List Part) (i : Nat) : List Part :=
  if ls.any (·.pc == tgt i) then ls.map fun q => if q.pc == tgt i then { q with lanes := q.lanes ||| BitVec.twoPow 32 i } else q
  else ls ++ [{ p with lanes := BitVec.twoPow 32 i, pc := tgt i }]

theorem splitLanes_eq (p : Part) (tgt : Nat → Word) : splitLanes p tgt = (lanesOf p.lanes).foldl (splitStep p tgt) [] := rfl

theorem stands_splitStep (p : Part) (tgt : Nat → Word) (ls : List Part) {i l : Nat} (hl : l < 32) (c : Word) :
    Stands (splitStep p tgt ls i) l c ↔ Stands ls l c ∨ (l = i ∧ tgt i = c) := by
  have hbit : (BitVec.twoPow 32 i).getLsbD l = true ↔ l = i := by simp [BitVec.getLsbD_twoPow]; omega
  unfold splitStep
  split
  · rename_i hany
    obtain ⟨q, hq, hpc⟩ : ∃ q ∈ ls, q.pc = tgt i := by simpa using hany
    constructor
    · rintro ⟨r, hr, hlane, hc⟩
      obtain ⟨r, hmem, rfl⟩ := List.mem_map.1 hr
      by_cases hri : r.pc = tgt i
      · simp only [hri, beq_self_eq_true, if_true, BitVec.getLsbD_or, Bool.or_eq_true, hbit] at hlane hc
        exact hlane.imp (⟨r, hmem, ·, hri.trans hc⟩) (⟨·, hc⟩)
      · simp only [beq_eq_false_iff_ne.2 hri, Bool.false_eq_true, if_false] at hlane hc
        exact .inl ⟨r, hmem, hlane, hc⟩
    · rintro (⟨r, hr, hlane, hc⟩ | ⟨rfl, hc⟩)
      · refine ⟨_, List.mem_map_of_mem hr, ?_⟩
        split <;> simp [hlane, hc]
      · exact ⟨_, List.mem_map_of_mem hq, by
          simp only [hpc, beq_self_eq_true, if_true, BitVec.getLsbD_or, Bool.or_eq_true, hbit, or_true, hc, and_self]⟩
  · simp [hbit, -BitVec.getLsbD_twoPow]

/-- The partitions into which a word splits its own hold each lane of it at the lane's target. -/
theorem stands_splitLanes (p : Part) (tgt : Nat → Word) {l : Nat} (hl : l < 32) (c : Word) :
    Stands (splitLanes p tgt) l c ↔ p.lanes.getLsbD l = true ∧ tgt l = c := by
  have hfold (is : List Nat) (ls : List Part) :
      Stands (is.foldl (splitStep p tgt) ls) l c ↔ Stands ls l c ∨ (l ∈ is ∧ tgt l = c) := by
    induction is generalizing ls with
    | nil => simp
    | cons i r ih =>
      rw [List.foldl_cons, ih, stands_splitStep _ _ _ hl, List.mem_cons]
      constructor
      · rintro ((h | ⟨rfl, h⟩) | ⟨h, hc⟩)
        exacts [.inl h, .inr ⟨.inl rfl, h⟩, .inr ⟨.inr h, hc⟩]
      · rintro (h | ⟨rfl | h, hc⟩)
        exacts [.inl (.inl h), .inl (.inr ⟨rfl, hc⟩), .inr ⟨h, hc⟩]
  rw [splitLanes_eq, hfold]
  simp [lanesOf, hl]

/-- Where a redirect puts a partition is where it stood. -/
theorem stands_map {f : Part → Part} (hf : ∀ p, (f p).lanes = p.lanes ∧ (f p).pc = p.pc) (ps : List Part) (l : Nat) (c : Word) :
    Stands (ps.map f) l c ↔ Stands ps l c := by
  simp [Stands, hf]

/-- Settles O20: merging moves no lane, and the partition is split by its lanes' targets. -/
theorem lanesReachTheirTargets : Obligations.LanesReachTheirTargets := by
  intro x act tgt sc l hd hl
  obtain ⟨hp, hps⟩ := List.pairwise_cons.1 hd
  refine pcIn_of_stands fun c => ?_
  rw [Iss.branch, Iss.moved, stands_mergeAll, stands_map (fun p => by split <;> exact ⟨rfl, rfl⟩), stands_splitLanes _ _ hl,
    stands_iff_pcIn hps]
  cases hlane : x.p.lanes.getLsbD l with
  | false => simp
  | true => simp [pcIn, find?_apart hp hlane]

end Sys2Proof.Control
end

section
/-! Loops (R83, R88) and the words of fibres (R89 to R96). -/

namespace Sys2Proof.Control

open Sys2Proof Sys2Proof.Machine Sys2Proof.Laws

/-- Settles O21: each word looks at the innermost level, of which the count is 1 when the last pass is over. -/
theorem loopWords : Obligations.LoopWords := by
  intro x h hx
  refine ⟨fun a off_ hr => ⟨fun hfull => ?_, fun hfree h0 => ?_, fun hfree h0 => ?_⟩,
    fun hr => ⟨fun hnest => ?_, fun e r hnest hcount => ?_, fun e r hnest hcount => ?_⟩,
    fun hr => ⟨fun hnest => ?_, fun e r hnest => ?_⟩⟩
  · exact word_traps hx hr rfl (by simp [hfull])
  · exact word_done hx hr rfl (by simp only [if_neg hfree, if_pos h0])
  · exact word_done hx hr rfl (by simp only [if_neg hfree, if_neg h0])
  · exact word_traps hx hr rfl (by simp [hnest])
  · have hleft : e.count - 1 ≠ 0 := sub_ne_zero.2 hcount
    exact word_done hx hr rfl (by simp only [hnest, if_pos (bne_iff_ne.2 hleft)])
  · exact word_done hx hr rfl (by simp [hnest, hcount])
  · exact word_traps hx hr rfl (by simp [hnest])
  · exact word_done hx hr rfl (by simp [hnest])

/-- Settles O22: the checks of SPAWN and the cases of END are those of its effect, in their order. -/
theorem fibreWords : Obligations.FibreWords := by
  intro x h hx
  refine ⟨fun hr => word_done hx hr rfl rfl,
    fun d a b hr => ⟨fun hdet => ?_, fun hdet h8 hroom hcopy => ?_, fun l hdet hl hbad hlow => ?_,
      fun code hdet h8 hroom hcopy => ?_, fun hdet h8 hroom => ?_⟩,
    fun hr => ⟨fun hleft hps => ?_, fun hleft hps => ?_, fun hleft => ?_⟩,
    fun hr => word_done hx hr rfl rfl, fun n hr => ?_, fun a hr => word_done hx hr rfl rfl,
    fun hr => ⟨_, rfl, ?_, rfl, word_done hx hr rfl rfl⟩⟩
  · exact word_traps hx hr rfl (by simp [hdet])
  · exact word_done hx hr rfl (by simp only [hdet, badTarget?_aligned h8, not_lt.2 hroom, hcopy]; rfl)
  · exact word_traps hx hr rfl (by simp only [hdet, badTarget?_misaligned hl hbad hlow]; rfl)
  · exact word_traps hx hr rfl (by simp only [hdet, badTarget?_aligned h8, not_lt.2 hroom, hcopy]; rfl)
  · exact word_waits hx hr rfl (by simp only [hdet, badTarget?_aligned h8, hroom]; rfl)
  · exact word_done hx hr rfl (by simp only [hleft, hps]; rfl)
  · exact word_done hx hr rfl (by simp only [hleft, List.isEmpty_eq_false_iff.2 hps]; rfl)
  · exact word_done hx hr rfl (by simp only [hleft]; rfl)
  · by_cases h0 : n = 0
    · exact word_done hx hr rfl (by simp only [if_pos h0])
    · exact word_done hx hr rfl (by simp only [if_neg h0])
  · exact Nat.lt_add_of_pos_right (by simp)

end Sys2Proof.Control
end

section
/-! Fresh tags and what they change (R159): a sector whose tags are not being swept has one for each of 256 ranges. -/

namespace Sys2Proof.Waves

open Sys2Proof Sys2Proof.Machine Sys2Proof.Laws

/-- A die that was replaced is read back, if it exists; every other die is kept. -/
theorem die_setDie (s : State) (i d : Nat) (x : Die) :
    (s.setDie i x).die d = if d = i ∧ i < s.dies.length then x else s.die d := by
  unfold State.die State.setDie
  rw [List.getD_eq_getElem?_getD, List.getD_eq_getElem?_getD, List.getElem?_set]
  by_cases h : i = d
  · subst h
    by_cases hl : i < s.dies.length <;> simp [hl]
  · simp [h, Ne.symm h]

/-- `t` is `s` with other bytes in its caches. -/
structure Recached (s t : State) : Prop where
  rest : t = { s with cores := t.cores, dies := t.dies }
  tags : ∀ d, (t.die d).tags = (s.die d).tags
  sweeping : ∀ d, (t.die d).sweeping = (s.die d).sweeping

theorem Recached.refl (s : State) : Recached s s := ⟨rfl, fun _ => rfl, fun _ => rfl⟩

theorem Recached.trans {s t u : State} (h : Recached s t) (k : Recached t u) : Recached s u :=
  ⟨by rw [k.rest, h.rest], fun d => (k.tags d).trans (h.tags d), fun d => (k.sweeping d).trans (h.sweeping d)⟩

theorem Recached.foldl {α : Type} {f : State → α → State} (hf : ∀ s a, Recached s (f s a)) (l : List α) (s : State) :
    Recached s (l.foldl f s) := by
  induction l generalizing s with
  | nil => exact .refl s
  | cons a r ih => exact (hf s a).trans (ih _)

theorem recached_setCore (s : State) (i : Nat) (c : Core) : Recached s (s.setCore i c) := ⟨rfl, fun _ => rfl, fun _ => rfl⟩

theorem recached_setL2 (s : State) (die sector : Nat) (l : List CSec) : Recached s (s.setL2 die sector l) := by
  refine ⟨rfl, fun d => ?_, fun d => ?_⟩ <;>
    (rw [State.setL2, die_setDie]; split
     · rename_i h; rw [h.1]
     · rfl)

theorem recached_flushL1 (s : State) (die sector tag ia len : Nat) : Recached s (s.flushL1 die sector tag ia len) := by
  refine Recached.foldl (fun s i => ?_) _ s
  dsimp only
  split
  · exact .refl s
  · exact (recached_setCore _ _ _).trans (.foldl (fun s c => recached_setL2 _ _ _ _) _ _)

/-- The tags of a sector that are being swept lie at least `n` issues ahead of its next one, and at most 256. -/
def SweepsAhead (d : Die) (sector n : Nat) : Prop :=
  n ≤ 256 ∧ ∀ p ∈ d.sweeping, p.1 = sector → ∃ j, n ≤ j ∧ j ≤ 256 ∧ p.2 % 4096 = (d.tags.getD sector 0 + j) % 4096

/-- A sector that sweeps no tag may issue up to 256. -/
theorem sweepsAhead_of_none {d : Die} {sector n : Nat} (h : ∀ p ∈ d.sweeping, p.1 ≠ sector) (hn : n ≤ 256) :
    SweepsAhead d sector n :=
  ⟨hn, fun p hp he => absurd he (h p hp)⟩

theorem Recached.sweepsAhead {s t : State} (h : Recached s t) {die sector n : Nat} (ha : SweepsAhead (s.die die) sector n) :
    SweepsAhead (t.die die) sector n := by
  unfold SweepsAhead; rw [h.tags, h.sweeping]; exact ha

/-- The next tag after an issue is one ahead, in a list that has a place for it. -/
theorem getD_set_succ (tags : List Nat) (sector : Nat) (k : Nat) (hk : k = (tags.getD sector 0 + 1) % 4096) :
    (tags.set sector k).getD sector 0 % 4096 = (tags.getD sector 0 + 1) % 4096 ∨
      (tags.set sector k).getD sector 0 = tags.getD sector 0 := by
  by_cases h : sector < tags.length
  · left; simp [h, hk]
  · right; simp [h, List.getD_eq_getElem?_getD]

/-- A sector issues its next tag if none of those being swept is at it; those that are come one issue nearer. -/
theorem freshTag?_some {s : State} {die sector n : Nat} (h : SweepsAhead (s.die die) sector (n + 1)) :
    ∃ t, s.freshTag? die sector = some (t, s.tagNow (die, sector)) ∧ t = { s with dies := t.dies } ∧
      SweepsAhead (t.die die) sector n := by
  obtain ⟨hn, hsweeps⟩ := h
  have hfree : (s.die die).sweeping.contains (sector, (s.die die).tags.getD sector 0) = false := by
    refine Bool.eq_false_iff.2 fun hc => ?_
    obtain ⟨j, hj, hj', he⟩ := hsweeps _ (List.contains_iff_mem.1 hc) rfl
    dsimp only at he
    omega
  refine ⟨_, by rw [State.freshTag?, hfree]; rfl, rfl, ?_⟩
  rw [die_setDie]
  refine ⟨by omega, ?_⟩
  split
  · intro p hp he
    have htag := getD_set_succ (s.die die).tags sector _ rfl
    rcases List.mem_append.1 hp with hp | hp
    · obtain ⟨j, hj, hj', hmod⟩ := hsweeps p hp he
      rcases htag with htag | htag
      · exact ⟨j - 1, by omega, by omega, by dsimp only; omega⟩
      · exact ⟨j, by omega, by omega, by dsimp only; omega⟩
    · obtain rfl := List.mem_singleton.1 hp
      rcases htag with htag | htag
      · exact ⟨255, by omega, by omega, by dsimp only; omega⟩
      · exact ⟨256, by omega, by omega, by dsimp only; omega⟩
  · exact fun p hp he => (hsweeps p hp he).imp fun j hj => ⟨by omega, hj.2⟩

/-- A range is given a fresh tag. -/
theorem newTag?_some {s : State} {die sector n : Nat} (h : SweepsAhead (s.die die) sector (n + 1)) (old : List Nat) (ia len : Nat) :
    ∃ t, s.newTag? die sector old ia len = some (t, s.tagNow (die, sector)) ∧
      t = { s with cores := t.cores, dies := t.dies } ∧ SweepsAhead (t.die die) sector n := by
  have hflush : Recached s (old.foldl (fun s o => s.flushL1 die sector o ia len) s) :=
    .foldl (fun s o => recached_flushL1 s die sector o ia len) old s
  obtain ⟨t, ht, hrest, hahead⟩ := freshTag?_some (hflush.sweepsAhead h)
  have hcarry := recached_setL2 t die sector ((t.l2 die sector).map fun c =>
    if old.any fun o => c.within o ia len then { c with tag := s.tagNow (die, sector) } else c)
  have htag : State.tagNow (old.foldl (fun s o => s.flushL1 die sector o ia len) s) (die, sector) = s.tagNow (die, sector) := by
    simp only [State.tagNow, hflush.tags]
  rw [htag] at ht
  refine ⟨_, by rw [State.newTag?, ht]; rfl, ?_, hcarry.sweepsAhead hahead⟩
  exact hcarry.rest.trans (by rw [hrest, hflush.rest])

/-- A grant that exists still does when one of its name or of another is replaced. -/
theorem grant?_setGrant_isSome {s : State} {gid : Nat} (g : Grant) (h : (s.grant? gid).isSome) :
    ((s.setGrant g).grant? gid).isSome := by
  obtain ⟨x, hx, he⟩ := List.find?_isSome.1 h
  refine List.find?_isSome.2 ⟨_, List.mem_map_of_mem hx, ?_⟩
  split
  · rename_i hg
    simp only [beq_iff_eq] at hg he ⊢
    exact hg.symm.trans he
  · exact he

/-- Grants are given fresh tags, as many as the sweeps of their sector leave room for. -/
theorem retag_some (keep : Bool) (die sector : Nat) (gids : List Nat) {s : State} (hg : ∀ gid ∈ gids, (s.grant? gid).isSome)
    (h : SweepsAhead (s.die die) sector gids.length) : ∃ t, s.retag keep die sector gids = some t ∧
      t = { s with cores := t.cores, dies := t.dies, grants := t.grants } := by
  induction gids generalizing s with
  | nil => exact ⟨s, rfl, rfl⟩
  | cons gid r ih =>
    obtain ⟨g, hgid⟩ := Option.isSome_iff_exists.1 (hg gid List.mem_cons_self)
    obtain ⟨t, ht, hrest, hahead⟩ := newTag?_some h (if keep then [g.tag] else []) g.ia g.len
    have hkept : ∀ gid ∈ r, ((t.setGrant { g with tag := s.tagNow (die, sector) }).grant? gid).isSome := by
      intro gid hmem
      refine grant?_setGrant_isSome _ ?_
      rw [hrest]
      exact hg gid (List.mem_cons_of_mem _ hmem)
    obtain ⟨u, hu, hu'⟩ := ih hkept hahead
    refine ⟨u, by rw [State.retag, hgid]; simp only [Option.bind_eq_bind, Option.bind_some, ht, hu], ?_⟩
    rw [hu', hrest]; rfl

end Sys2Proof.Waves
end


section
/-! Waves between their words: turns, sleep, slots, bins, swaps and fills (R79, R82, R89, R90, R291, R319, R320). -/

namespace Sys2Proof.Waves

open Sys2Proof Sys2Proof.Machine Sys2Proof.Laws Sys2Proof.Landing Sys2Proof.Issuing

/-! The events -/

theorem exec_turnExpiry (u : Nat) (s : State) : exec (.turnExpiry u) s = execTurnExpiry u s := rfl

theorem exec_sleepElapses (u : Nat) (s : State) : exec (.sleepElapses u) s = execSleepElapses u s := rfl

theorem exec_waveSlotRelease (u : Nat) (s : State) : exec (.waveSlotRelease u) s = execWaveSlotRelease u s := rfl

theorem exec_swapOut (u : Nat) (s : State) : exec (.swapOut u) s = execSwapOut u s := rfl

theorem exec_waveRestore (u : Nat) (s : State) : exec (.waveRestore u) s = execWaveRestore u s := rfl

theorem exec_deferredFaultTaken (u : Nat) (s : State) : exec (.deferredFaultTaken u) s = execDeferredFaultTaken u s := rfl

theorem exec_instructionCacheFill (u : Nat) (s : State) : exec (.instructionCacheFill u) s = execInstructionCacheFill u s := rfl

theorem exec_chpopClaim (u : Nat) (s : State) : exec (.chpopClaim u) s = execChpopClaim u s := rfl

theorem exec_binTimerExpiry (id : Nat) (s : State) : exec (.binTimerExpiry id) s = execBinTimerExpiry id s := rfl

theorem exec_waitingBinLaunch (id : Nat) (s : State) : exec (.waitingBinLaunch id) s = execWaitingBinLaunch id s := rfl

/-- A wave as it comes back to a quad: RESIDENT, or SLEEPING while sleep remains, with no last issue and a new turn (R320). -/
def restored (s : State) (w : Wave) (core quad : Nat) : Wave :=
  { w with core := core, quad := quad, slot := s.freeSlot (s.dieOf w * 40 + core) quad, slotHeld := true, eligible := none,
           lastIssue := none, st := if s.clk < w.sleepEnd then .sleeping else .resident,
           turn := if w.parts.any (·.saved.isSome) then w.turn else s.clk + 256 }

/-- The wave-scope grants of a wave that are HELD or FROZEN, which a restore gives fresh tags (R154). -/
def usableGrants (s : State) (u : Nat) : List Nat :=
  (s.grants.filter fun g => g.reg == { grp := false, owner := u, code := g.reg.code } &&
    (g.st == .held || g.st == .frozen)).map (·.gid)

theorem length_usableGrants_le (s : State) (u : Nat) : (usableGrants s u).length ≤
    (s.grants.filter fun g => g.reg == { grp := false, owner := u, code := g.reg.code }).length := by
  rw [usableGrants, List.length_map, ← List.filter_filter, List.filter_comm]
  exact List.length_filter_le _ _

theorem grant?_usableGrants (s : State) (u : Nat) : ∀ gid ∈ usableGrants s u, (s.grant? gid).isSome := fun gid hgid => by
  obtain ⟨g, hg, rfl⟩ := List.mem_map.1 hgid
  exact List.find?_isSome.2 ⟨g, (List.mem_filter.1 hg).1, beq_self_eq_true _⟩

/-- A turn that passes, with no handler running, begins a whole one. -/
theorem turn_passTurn {w : Wave} (clk : Nat) (hparts : w.parts ≠ []) (hsaved : ∀ p ∈ w.parts, p.saved = none) :
    (w.passTurn clk).turn = clk + 256 := by
  have hnone : w.parts.any (·.saved.isSome) = false := by simpa using hsaved
  unfold Wave.passTurn
  split
  · contradiction
  · simp only [hnone, Bool.false_eq_true, if_false]

section
variable {s : State} {u : Nat} {w : Wave} (hw : s.wave? u = some w)
include hw

/-! Turns, sleep and slots -/

/-- A turn that no handler has stopped passes. -/
theorem turnExpiry_passes (hslot : w.slotHeld = true) (hparts : w.parts ≠ []) (hturn : w.turn ≤ s.clk)
    (hsaved : ∀ p ∈ w.parts, p.saved = none) : exec (.turnExpiry u) s = .next (s.setWave (w.passTurn s.clk)) := by
  have hover : w.turnOver s.clk = true := by simpa [Wave.turnOver, hslot, hparts, hturn] using hsaved
  exact (exec_turnExpiry u s).trans (execEvent_some (by simp [hw, hover]))

/-- A sleep that is over ends. -/
theorem sleepElapses_wakes (hst : w.st = .sleeping) (hend : w.sleepEnd ≤ s.clk) :
    exec (.sleepElapses u) s = .next (s.setWave { w with st := .resident }) :=
  (exec_sleepElapses u s).trans (execEvent_some (by simp [hw, Wave.wakes, hst, hend]))

/-- A wave whose slot is free gives it back. -/
theorem waveSlotRelease_frees (hfree : s.slotFree w = true) : exec (.waveSlotRelease u) s = .next (s.freeWave w) :=
  (exec_waveSlotRelease u s).trans (execEvent_some (by simp [hw, hfree]))

/-! Swapping -/

/-- A wave parked for 6,000 clk whose slot is needed is saved. -/
theorem swapOut_saves (hst : w.st = .resident) (hwaits : s.waitsParked w = true) (hneed : s.slotNeeded w = true)
    (hquiet : s.quiet w = true) (hlong : ∀ p ∈ s.parkedOf u, p.since + 6000 ≤ s.clk)
    (hcap : (s.ctx (s.ctxOf w)).saveUsed + s.frameBytes w ≤ (s.ctx (s.ctxOf w)).saveCap) :
    exec (.swapOut u) s = .next ((s.saveWave w).setCtx (s.ctxOf w)
      { s.ctx (s.ctxOf w) with saveUsed := (s.ctx (s.ctxOf w)).saveUsed + s.frameBytes w }) := by
  have hswap : s.swappable w = true := by simpa [State.swappable, hst, hwaits, hquiet, uid_of_wave? hw] using hlong
  exact (exec_swapOut u s).trans (execEvent_some (by simp [hw, hswap, hneed, hcap]))

/-- A wave is restored to a quad of a sector that sweeps no tag. -/
theorem restoreWave_some (core quad : Nat) (hsweep : ∀ p ∈ (s.die (s.dieOf w)).sweeping, p.1 ≠ s.sector (s.dieOf w) core)
    (hgrants : (s.grants.filter fun r => r.reg == { grp := false, owner := u, code := r.reg.code }).length ≤ 256) :
    ∃ t : State, t = { s with cores := t.cores, dies := t.dies, grants := t.grants } ∧
      s.restoreWave w true core quad = some (t.setWave (restored s w core quad)) := by
  obtain rfl := uid_of_wave? hw
  obtain ⟨t, ht, hrest⟩ := retag_some true (s.dieOf w) (s.sector (s.dieOf w) core) (usableGrants s w.uid)
    (grant?_usableGrants s w.uid) (sweepsAhead_of_none hsweep ((length_usableGrants_le s w.uid).trans hgrants))
  refine ⟨t, hrest, ?_⟩
  rw [usableGrants] at ht
  rw [State.restoreWave]
  simp only [Option.bind_eq_bind]
  rw [ht, Option.bind_some, show t.clk = s.clk by rw [hrest]]
  rfl

/-- The wave to which R320 gives a slot comes back, and its frame leaves the save area. -/
theorem waveRestore_restores {spot : Spot} (hspot : s.claims.find? (·.uid == u) = some spot)
    (hsweep : ∀ p ∈ (s.die (s.dieOf w)).sweeping, p.1 ≠ s.sector (s.dieOf w) (spot.core % 40))
    (hgrants : (s.grants.filter fun r => r.reg == { grp := false, owner := u, code := r.reg.code }).length ≤ 256) :
    ∃ t : State, t = { s with cores := t.cores, dies := t.dies, grants := t.grants } ∧ exec (.waveRestore u) s =
      .next ((t.setWave (restored s w (spot.core % 40) spot.quad)).setCtx (s.ctxOf w)
        { s.ctx (s.ctxOf w) with saveUsed := (s.ctx (s.ctxOf w)).saveUsed - s.frameBytes w }) := by
  obtain ⟨t, hrest, ht⟩ := restoreWave_some hw (spot.core % 40) spot.quad hsweep hgrants
  refine ⟨t, hrest, (exec_waveRestore u s).trans (execEvent_some ?_)⟩
  rw [State.takeSpot]
  simp only [Option.bind_eq_bind, hspot, hw, Option.bind_some, ht]
  rw [hrest]
  rfl

/-! Faults and fills -/

/-- A wave that would issue takes its oldest deferred fault instead. -/
theorem deferredFaultTaken_takes {p : Part} {f : FaultRec} {r : List FaultRec} (ho : s.offered? w = some p)
    (hd : w.deferred = f :: r) (hfetch : s.fetch (s.coreOf w) (s.ctxOf w) p.pc.toNat = .fault ∨
      ∃ v, s.fetch (s.coreOf w) (s.ctxOf w) p.pc.toNat = .word v ∧ s.readyWord w v = true) :
    exec (.deferredFaultTaken u) s =
      .next ((s.note u 0 p.pc).takeTrap { w with deferred := r, hold := .none } f.code f.info 0) := by
  refine (exec_deferredFaultTaken u s).trans (execEvent_some ?_)
  rcases hfetch with hfetch | ⟨v, hfetch, hready⟩
  · simp [hw, ho, hd, hfetch, State.takeDeferred, uid_of_wave? hw]
  · simp [hw, ho, hd, hfetch, hready, State.takeDeferred, uid_of_wave? hw]

/-- The line of a wave's next word comes where a route leads to it, and else is a fault of that word. -/
theorem instructionCacheFill_fills {p : Part} {line : Nat} {ws : List Word} (hp : w.parts.head? = some p)
    (hslot : w.slotHeld = true) (hat : (s.core (s.coreOf w)).fetchAt ≤ s.clk)
    (hmiss : s.fetch (s.coreOf w) (s.ctxOf w) p.pc.toNat = .miss line) (hpin : s.unpinned = true) :
    (s.girthReach (s.coreOf w / 40) (homeOf (64 * line)) = .ok →
      (s.inSlot = true → s.codePauses (s.coreOf w) line = false) → s.codeLine? (s.coreOf w) line = some ws →
      exec (.instructionCacheFill u) s = .next (s.setCore (s.coreOf w) { s.core (s.coreOf w) with
        icache := ({ line := line, words := ws } :: (s.core (s.coreOf w)).icache).take 1024 })) ∧
    (∀ r, s.girthReach (s.coreOf w / 40) (homeOf (64 * line)) = .fail r → s.offered? w = some p → w.deferred = [] →
      exec (.instructionCacheFill u) s =
        .next ((s.note u 0 p.pc).takeTrap { w with hold := .none } LINK_PARTITION (linkInfo 31 r (64 * line)) 0)) := by
  rw [exec_instructionCacheFill]
  refine ⟨fun hreach hfree hline => execEvent_some ?_, fun r hreach ho hd => execEvent_some ?_⟩
  · rw [pinning_unpinned hpin]
    simpa [hw, hp, hslot, hat, hmiss, hreach, hline] using hfree
  · rw [pinning_unpinned hpin]
    simp [hw, hp, hslot, hat, hmiss, hreach, ho, hd, State.fetchLost, uid_of_wave? hw]

/-- A wave that would issue a CHPOP which finds an entry issues it. -/
theorem chpopClaim_issues {p : Part} {v : Word} {h : Hd} {d : VCode} {a : BitVec 4} {x : Iss} (ho : s.offered? w = some p)
    (hd : w.deferred = []) (hfetch : s.fetch (s.coreOf w) (s.ctxOf w) p.pc.toNat = .word v)
    (hdec : decodeWord v = .word [] (.chpop h d a)) (hx : { s with cur := some u }.iss? = some x)
    (hheld : x.s.held w x.frame (usesOf (.chpop h d a)) = false) (hpipe : (s.core x.coreIx).pipes.getD w.quad 0 ≤ s.clk)
    {t : State} (ht : execChpop h d a ({ s with cur := some u }.setWave { w with hold := .none }) = .next t) :
    exec (.chpopClaim u) s = .next { t with cur := none } := by
  obtain rfl := uid_of_wave? hw
  have hxs : x.s = { s with cur := some w.uid } := (iss?_some hx).1
  have hnone : w.deferred.isEmpty = true := by rw [hd]; rfl
  have hfree : (({ s with cur := some w.uid } : State).held w x.frame (usesOf (.chpop h d a)) ||
      decide (s.clk < (({ s with cur := some w.uid } : State).core x.coreIx).pipes.getD w.quad 0)) = false :=
    Bool.or_eq_false_iff.2 ⟨hxs ▸ hheld, decide_eq_false (not_lt.2 hpipe)⟩
  refine (exec_chpopClaim w.uid s).trans (execEvent_some ?_)
  simp only [hw, ho, hnone, hfetch, hdec, hx, hfree, ht, Option.bind_eq_bind, Option.bind_some, Bool.not_true,
    Bool.false_eq_true, if_false]

end

/-- A CHPOP that nothing stops takes the entry that is next to be claimed. -/
theorem chpop_claims {y : Iss} (hy : y.live) {h : Hd} {d : VCode} {a : BitVec 4} (hr : y.ready (usesOf (.chpop h d a)) h)
    {c : Chan} (hc : y.g.chan? a.toNat = some c) (hn : c.claims < c.fill) :
    ∃ v, execChpop h d a y.s = .next (y.after (.chpop h d a) h (.vfix 1) (y.active h).length
        ((y.named 1).setGroup (y.g.setChan { c with claims := c.claims + 1 })) v .next) ∧
      v = { y.w with win := v.win, vpend := v.vpend } := by
  have hpop : execChpop h d a y.s = _ := execWord_ready hy hr _ _
  simp only [hc, if_neg (not_le.2 hn)] at hpop
  exact ⟨_, hpop, rfl⟩

/-- The head of a list that only grows at its end stays. -/
theorem head?_foldl {α β : Type} {f : List α → β → List α} (hf : ∀ l b, ∃ k, f l b = l ++ k) (bs : List β) {l : List α} {a : α}
    (h : l.head? = some a) : (bs.foldl f l).head? = some a := by
  induction bs generalizing l with
  | nil => exact h
  | cons b r ih =>
    obtain ⟨k, hk⟩ := hf l b
    exact ih (by rw [hk, List.head?_append, h]; rfl)

/-- The swapped wave that became eligible first has its slot on the lowest core and quad of its group with room. -/
theorem claims_head {s : State} {w : Wave} {r : List Wave} {g : Group} {core quad : Nat} (hr : s.restorable = w :: r)
    (hg : s.group? w.group = some g)
    (hroom : (g.cores.flatMap fun c => (List.range 4).map fun q => (g.die * 40 + c, q)).find? (fun p =>
      decide (0 < s.roomBut [] p.1 p.2 (s.winOf w))) = some (core, quad)) :
    s.claims.head? = some { uid := w.uid, core := core, quad := quad, win := s.winOf w } := by
  rw [State.claims, hr, List.foldl_cons]
  simp only [hg, hroom]
  refine head?_foldl (fun l v => ?_) _ rfl
  split
  · exact ⟨[], (List.append_nil l).symm⟩
  · split
    · exact ⟨_, rfl⟩
    · exact ⟨[], (List.append_nil l).symm⟩

/-! Bins -/

/-- A bin whose timer is over closes. -/
theorem binTimerExpiry_closes {s : State} {id : Nat} {b : Bin} (hb : s.bins.find? (·.uid == id) = some b)
    (hopen : b.waiting = false) (hdue : b.due ≤ s.clk) : exec (.binTimerExpiry id) s = .next (s.closeBin b) :=
  (exec_binTimerExpiry id s).trans (execEvent_some (by simp [hb, Bin.over, hopen, hdue]))

/-- The bin that waits longest launches where its group runs and has room. -/
theorem waitingBinLaunch_launches {s : State} {id : Nat} {b : Bin} (hb : s.bins.find? (·.uid == id) = some b)
    (hnext : s.binNext b = true) {t : State} (ht : s.launchBin? b = some t) : exec (.waitingBinLaunch id) s = .next t :=
  (exec_waitingBinLaunch id s).trans (execEvent_some (by simp [hb, hnext, ht]))

/-- The wave that a bin launches. -/
def binWave (s : State) (b : Bin) (g : Group) (k : Kernel) (core quad : Nat) : Wave :=
  Wave.launch s.nextUid core quad (s.freeSlot (g.die * 40 + core) quad) g.nextIdx s.clk g k b.entry
    (BitVec.ofNat 32 (2 ^ b.fibres.length - 1)) (binWindow k.views b.fibres) []

/-- A bin of a running group with room launches as its next wave. -/
theorem launchBin?_some {s : State} {b : Bin} {g : Group} {k : Kernel} {core quad : Nat} (hg : s.group? b.group = some g)
    (hrun : g.st = .running) (hk : s.kernel? g.kernel = some k) (hstay : (s.ctx k.ctx).preempting = false)
    (hroom : s.findRoom? g k.win (b.core :: g.cores) = some (core, quad)) : ∃ t, s.launchBin? b = some t ∧
      t.bins = s.bins.filter (·.uid != b.uid) ∧ t.waves = s.waves ++ [binWave s b g k core quad] := by
  have hst : (g.st != .running) = false := by rw [hrun]; rfl
  simp only [State.launchBin?, hg, hst, hk, hstay, hroom, Bool.false_eq_true, if_false]
  exact ⟨_, rfl, rfl, rfl⟩

/-- Reading back the context that was replaced. -/
theorem ctx_setCtx_same (s : State) {i : Nat} (h : i < s.ctxs.length) (c : Ctx) : (s.setCtx i c).ctx i = c := by
  simp [State.ctx, State.setCtx, h]

/-- Settles O52: the clauses are those of the events above, each in a state in which nothing else holds the event back. -/
theorem wavesLiveOn : Obligations.WavesLiveOn := by
  intro s u w hw
  obtain rfl := uid_of_wave? hw
  refine ⟨fun hslot hparts hturn hsaved => ⟨turnExpiry_passes hw hslot hparts hturn hsaved, turn_passTurn _ hparts hsaved⟩,
    sleepElapses_wakes hw, waveSlotRelease_frees hw, swapOut_saves hw, fun r g core quad hr hg hroom => claims_head hr hg hroom,
    fun spot hspot => ?_, fun p f r ho hd hfetch => deferredFaultTaken_takes hw ho hd hfetch,
    fun p line ws hp hslot hat hmiss hpin => instructionCacheFill_fills hw hp hslot hat hmiss hpin,
    fun p v h d a x y c ho hd hfetch hdec => ?_,
    fun id b hb => ⟨binTimerExpiry_closes hb, fun hnext g k core quad hg hrun hk hstay hroom => ?_⟩⟩
  · intro core quad hsweep hctx hgrants
    obtain ⟨t, hrest, ht⟩ := waveRestore_restores hw hspot hsweep hgrants
    have hown : t.wave? w.uid = some w := by rw [hrest]; exact hw
    refine ⟨_, restored s w core quad, ht, wave?_setWave_same t (restored s w core quad) ?_, rfl, ?_, by rw [hrest]; rfl,
      by rw [hrest]; rfl⟩
    · exact Option.ne_none_iff_exists'.2 ⟨w, hown⟩
    · rw [ctx_setCtx_same _ (by rw [setWave_ctxs, hrest]; exact hctx)]
  · intro i now hx hheld hpipe hy hready hc hn
    have hys : y.s = now.setWave { w with hold := .none } := (iss?_some hy).1
    obtain ⟨v, hv, hrest⟩ := chpop_claims (y := y) (by rw [Iss.live, hys]; exact hy) hready hc hn
    exact ⟨v, chpopClaim_issues hw ho hd hfetch hdec hx hheld hpipe (hys ▸ hv), hrest⟩
  · obtain ⟨t, ht, hbins, hwaves⟩ := launchBin?_some hg hrun hk hstay hroom
    exact ⟨t, waitingBinLaunch_launches hb hnext ht, hbins, binWave s b g k core quad, hwaves, rfl, rfl, rfl, rfl, rfl, rfl,
      rfl, rfl, rfl, rfl, rfl⟩

end Sys2Proof.Waves
end

section
/-! Forms of the integer words (R105, R106, R109): what one lane of a form gives is stated once and serves its vector and
its scalar word. -/

namespace Sys2Proof.Integers

open Sys2Proof Sys2Proof.Machine Sys2Proof.Laws

/-! Words of class 1 from what they give on one lane -/

/-- A vector word, from the result and the flags of each lane. -/
theorem vec_lanes {x : Iss} {i : Instr} {h : Hd} {lat : Nat} {d : Option VCode} {f : Iss → Nat → Word × BitVec 4}
    {res : Nat → Word → Prop} {fl : Nat → BitVec 4} (hx : x.live) (he : exec i x.s = vecOp i h lat d f x.s)
    (hf : ∀ l, res l (f x l).1 ∧ (f x l).2 = fl l) (hl : 0 < lat := by decide) : x.vec i h lat d res fl :=
  vec_intro hx he hl (fun l => (hf l).1) fun l => (hf l).2.symm

/-- A scalar word, from its result and its flags. -/
theorem scal_lane {x : Iss} {i : Instr} {h : Hd} {lat : Nat} {d : Option SReg} {f : Iss → Word × BitVec 4}
    {res : Word → Prop} {fl : BitVec 4} (hx : x.live) (he : exec i x.s = scalOp i h lat d f x.s)
    (hf : res (f x).1 ∧ (f x).2 = fl) (hl : 0 < lat := by decide) : x.scal i h lat d res fl :=
  scal_intro hx he hl hf.1 hf.2.symm

/-! Typed forms -/

/-- An operation on a sub-element gives the bits `r` with the flags `fl`. -/
def Gives {w : Nat} (o : IRes) (r : BitVec w) (fl : BitVec 4) : Prop := o.r = r.toNat ∧ szcv r o.c o.v = fl

theorem gives_mk {w : Nat} (r : BitVec w) (c v : Bool) : Gives { r := r.toNat, c := c, v := v } r (szcv r c v) := ⟨rfl, rfl⟩

/-- An operation without C and V. -/
theorem plain_gives {w n : Nat} {r : BitVec w} (h : n = r.toNat) : Gives (plain n) r (szcv r false false) := ⟨h, rfl⟩

/-- Two sources: every sub-element by `g`, the flags those of sub-element 0. -/
theorem bin_gives (t : IType) {f : Nat → Nat → Nat → IRes} {g : BitVec t.bits → BitVec t.bits → BitVec t.bits}
    {fl : BitVec t.bits → BitVec t.bits → BitVec 4}
    (h : ∀ p q : BitVec t.bits, Gives (f t.bits p.toNat q.toNat) (g p q) (fl p q))
    (a b : Word) : each2 t.bits g a b (bin t f a b).1 ∧ (bin t f a b).2 = fl (el t.bits 0 a) (el t.bits 0 b) := by
  obtain ⟨hr, hf⟩ := bin_eq t f g a b fun p q => (h p q).1
  exact ⟨hr, hf.trans (h _ _).2⟩

/-- One source. -/
theorem una_gives (t : IType) {f : Nat → Nat → IRes} {g : BitVec t.bits → BitVec t.bits} {fl : BitVec t.bits → BitVec 4}
    (h : ∀ p : BitVec t.bits, Gives (f t.bits p.toNat) (g p) (fl p)) (a : Word) :
    each1 t.bits g a (una t f a).1 ∧ (una t f a).2 = fl (el t.bits 0 a) := by
  obtain ⟨hr, hf⟩ := una_eq t f g a fun p => (h p).1
  exact ⟨hr, hf.trans (h _).2⟩

/-- One source and a number that is the same for every sub-element. -/
theorem immOp_gives (t : IType) {f : Nat → Nat → Nat → IRes} {n : Nat} {g : BitVec t.bits → BitVec t.bits}
    {fl : BitVec t.bits → BitVec 4} (h : ∀ p : BitVec t.bits, Gives (f t.bits p.toNat n) (g p) (fl p)) (a : Word) :
    each1 t.bits g a (immOp t f a n).1 ∧ (immOp t f a n).2 = fl (el t.bits 0 a) := by
  obtain ⟨hr, hf⟩ := immOp_eq t f g a n fun p => (h p).1
  exact ⟨hr, hf.trans (h _).2⟩

/-- An immediate extended with sign is a second source like any other (R109). -/
theorem immVal_gives (t : IType) {f : Nat → Nat → Nat → IRes} {g : BitVec t.bits → BitVec t.bits → BitVec t.bits}
    {fl : BitVec t.bits → BitVec t.bits → BitVec 4}
    (h : ∀ p q : BitVec t.bits, Gives (f t.bits p.toNat q.toNat) (g p q) (fl p q))
    (a : Word) (imm : BitVec 15) :
    each1 t.bits (fun p => g p ((imm.signExtend 64).setWidth t.bits)) a (immOp t f a (immVal t.bits imm)).1 ∧
    (immOp t f a (immVal t.bits imm)).2 = fl (el t.bits 0 a) ((imm.signExtend 64).setWidth t.bits) := by
  rw [immVal_eq]
  exact immOp_gives t (fl := fun p => fl p _) (fun p => h p _) a

/-! Whole lanes -/

/-- A lane is its only sub-element of 64 bits. -/
theorem el_64 (r : Word) : el 64 0 r = r := by simp [el]

/-- A lane of one sub-element. -/
theorem mapSubs_64 {f : Nat → IRes} {r : Word} {fl : BitVec 4} (h : Gives (f 0) r fl) : mapSubs 64 f = (r, fl) := by
  obtain ⟨hr, hf⟩ := mapSubs_eq (w := 64) (by decide) (fun _ => f 0) (fun _ => r) fun _ => h.1
  have he : mapSubs 64 f = mapSubs 64 fun _ => f 0 := by simp [mapSubs, ofSubs]
  rw [he]
  exact Prod.ext (by rw [← el_64 (mapSubs _ _).1, hr 0 (by decide)]) (hf.trans h.2)

/-- A form whose result is one word with S and Z. -/
theorem whole_gives {n : Nat} {r : Word} (h : n = r.toNat) : (whole n).1 = r ∧ (whole n).2 = szcv r false false := by
  rw [h, whole_eq]; exact ⟨rfl, rfl⟩

end Sys2Proof.Integers
end

section
/-! ADD, ADDC, SUB, SUBB, CMP and LEA (R107, R113, R115, R117). -/

namespace Sys2Proof.Integers

open Sys2Proof Sys2Proof.Machine Sys2Proof.Laws Sys2Proof.Numbers

section
variable {w : Nat} (hw : 0 < w) (p q : BitVec w)
include hw

theorem iAdd_carry_gives (c : Bool) : Gives (iAdd w p.toNat q.toNat (b2n c)) (p + q + bit w c) (addFlags p q c) := by
  rw [iAdd_eq hw]; exact gives_mk _ _ _

theorem iAdd_gives : Gives (iAdd w p.toNat q.toNat 0) (p + q) (addFlags p q false) := by
  have h := iAdd_carry_gives hw p q false
  rwa [bit_false, add_zero] at h

/-- C tells of no borrow in. -/
theorem iSub_borrow_gives (c : Bool) :
    Gives (iSub w p.toNat q.toNat (1 - b2n c)) (p - q - bit w (!c)) (subFlags p q (!c)) := by
  have hc : 1 - b2n c = b2n (!c) := by cases c <;> rfl
  rw [hc, iSub_eq hw]; exact gives_mk _ _ _

theorem iSub_gives : Gives (iSub w p.toNat q.toNat 0) (p - q) (subFlags p q false) := by
  have h := iSub_borrow_gives hw p q true
  rwa [Bool.not_true, bit_false, sub_zero] at h

end

/-- LEA is the 64-bit ADD of a shifted operand. -/
theorem lea_gives (a b : Word) (n : Nat) :
    mapSubs 64 (fun _ => iAdd 64 a.toNat (b.toNat * 2 ^ n % 2 ^ 64) 0) = (a + b <<< n, addFlags a (b <<< n) false) := by
  have hb : b.toNat * 2 ^ n % 2 ^ 64 = (b <<< n).toNat := by rw [BitVec.toNat_shiftLeft, Nat.shiftLeft_eq]
  rw [hb]
  exact mapSubs_64 (iAdd_gives (by decide) a _)

/-- Settles O1: each form is a typed form over `iAdd` or `iSub`; SUBB's borrow is the negated C, CMP keeps only the flags. -/
theorem sumsAndDifferences : Obligations.SumsAndDifferences := by
  intro x h t hx
  have add := bin_gives t (f := fun w a b => iAdd w a b 0) (iAdd_gives (bits_pos t))
  have addImm := immVal_gives t (f := fun w a b => iAdd w a b 0) (iAdd_gives (bits_pos t))
  have addc (c : Bool) := bin_gives t (f := fun w a b => iAdd w a b (b2n c)) (iAdd_carry_gives (bits_pos t) (c := c))
  have sub := bin_gives t (f := fun w a b => iSub w a b 0) (iSub_gives (bits_pos t))
  have subImm := immVal_gives t (f := fun w a b => iSub w a b 0) (iSub_gives (bits_pos t))
  have subb (c : Bool) := bin_gives t (f := fun w a b => iSub w a b (1 - b2n c)) (iSub_borrow_gives (bits_pos t) (c := c))
  have lea (a b : Word) (n : Nat) := Prod.ext_iff.1 (lea_gives a b n)
  exact ⟨fun _ _ _ => vec_lanes hx rfl fun _ => add _ _, fun _ _ _ => scal_lane hx rfl (add _ _),
    fun _ _ _ => vec_lanes hx rfl fun _ => addImm _ _, fun _ _ _ => scal_lane hx rfl (addImm _ _),
    fun _ _ _ _ => vec_lanes hx rfl fun _ => addc _ _ _, fun _ _ _ => scal_lane hx rfl (addc _ _ _),
    fun _ _ _ => vec_lanes hx rfl fun _ => sub _ _, fun _ _ _ => scal_lane hx rfl (sub _ _),
    fun _ _ _ _ => vec_lanes hx rfl fun _ => subb _ _ _, fun _ _ _ => scal_lane hx rfl (subb _ _ _),
    fun _ _ => vec_lanes hx rfl fun _ => ⟨trivial, (sub _ _).2⟩, fun _ _ => scal_lane hx rfl ⟨trivial, (sub _ _).2⟩,
    fun _ _ => vec_lanes hx rfl fun _ => ⟨trivial, (subImm _ _).2⟩, fun _ _ => scal_lane hx rfl ⟨trivial, (subImm _ _).2⟩,
    fun _ _ _ _ => vec_lanes hx rfl fun _ => lea _ _ _, fun _ _ _ _ => scal_lane hx rfl (lea _ _ _)⟩

end Sys2Proof.Integers
end

section
/-! MUL, MULH and MAD (R107): the exact result on Int narrows to the product of bit vectors. -/

namespace Sys2Proof.Integers

open Sys2Proof Sys2Proof.Machine Sys2Proof.Laws Sys2Proof.Numbers

/-- Narrowing undoes the typed reading. -/
theorem ofInt_tInt {w : Nat} (hw : 0 < w) (sg : Bool) (p : BitVec w) : BitVec.ofInt w (tInt w sg p.toNat) = p := by
  rw [tInt_eq hw]
  cases sg
  · exact (BitVec.ofInt_natCast w p.toNat).trans (BitVec.ofNat_toNat w p |>.trans p.setWidth_eq)
  · exact p.ofInt_toInt

theorem iMad_gives {w : Nat} (hw : 0 < w) (sg : Bool) (p q s : BitVec w) :
    Gives (iMad w sg p.toNat q.toNat s.toNat) (p * q + s) (madFlags sg p q s) := by
  refine ⟨?_, ?_⟩
  · simp only [iMad, wrap_eq, BitVec.ofInt_add, BitVec.ofInt_mul, ofInt_tInt hw]
  · cases sg
    · have hc : decide ((2 : Int) ^ w ≤ p.toNat * q.toNat + s.toNat) = decide (2 ^ w ≤ p.toNat * q.toNat + s.toNat) := by
        norm_cast
      simp [iMad, madFlags, tInt_eq hw, hc]
    · simp [iMad, madFlags, tInt_eq hw, sOut_eq]

theorem iMad_zero_gives {w : Nat} (hw : 0 < w) (sg : Bool) (p q : BitVec w) :
    Gives (iMad w sg p.toNat q.toNat 0) (p * q) (madFlags sg p q 0) := by
  simpa using iMad_gives hw sg p q 0

/-- The high half of the low 2w bits of an exact product. -/
theorem extractLsb'_ofInt_high (w : Nat) (n : Int) : (BitVec.ofInt (2 * w) n).extractLsb' w w = BitVec.ofInt w (n / 2 ^ w) := by
  apply BitVec.eq_of_toNat_eq
  have hp : (0 : Int) < 2 ^ w := by positivity
  have hr : 0 ≤ n % 2 ^ (2 * w) := Int.emod_nonneg _ (by positivity)
  have hmod : n % 2 ^ (2 * w) / 2 ^ w % 2 ^ w = n / 2 ^ w % 2 ^ w := by
    have hn : n % 2 ^ (2 * w) = n + 2 ^ w * -(2 ^ w * (n / 2 ^ (2 * w))) := by rw [Int.emod_def, two_mul, pow_add]; ring
    rw [hn, Int.add_mul_ediv_left _ _ hp.ne', ← Int.mul_neg, Int.add_mul_emod_self_left]
  rw [BitVec.extractLsb'_toNat, BitVec.toNat_ofInt, BitVec.toNat_ofInt, Nat.shiftRight_eq_div_pow]
  zify
  rw [Int.toNat_of_nonneg hr, hmod, Int.toNat_of_nonneg (Int.emod_nonneg _ hp.ne')]

/-- Both extensions hold the operand's typed value, so their product's high half is that of the exact product. -/
theorem high_eq {w : Nat} (hw : 0 < w) (sg : Bool) (p q : BitVec w) :
    high sg p q = BitVec.ofInt w (tInt w sg p.toNat * tInt w sg q.toNat / 2 ^ w) := by
  rw [← extractLsb'_ofInt_high, BitVec.ofInt_mul, tInt_eq hw, tInt_eq hw]
  cases sg
  · simp [high]
  · simp [high, BitVec.signExtend]

theorem iMulh_gives {w : Nat} (hw : 0 < w) (sg : Bool) (p q : BitVec w) :
    Gives (iMulh w sg p.toNat q.toNat) (high sg p q) (szcv (high sg p q) false false) := by
  refine ⟨?_, rfl⟩
  simp only [iMulh, wrap_eq, high_eq hw]

/-- MAD on two sub-elements of 32 bits. -/
theorem mad_32 (sg : Bool) (a b c : Word) :
    let m := mapSubs 32 fun j => iMad 32 sg (sub 32 a j) (sub 32 b j) (sub 32 c j)
    each3 32 (fun p q s => p * q + s) a b c m.1 ∧ m.2 = madFlags sg (el 32 0 a) (el 32 0 b) (el 32 0 c) := by
  have h (j : Nat) : Gives (iMad 32 sg (sub 32 a j) (sub 32 b j) (sub 32 c j)) (el 32 j a * el 32 j b + el 32 j c)
      (madFlags sg (el 32 j a) (el 32 j b) (el 32 j c)) := by
    rw [sub_eq, sub_eq, sub_eq]; exact iMad_gives (by decide) sg _ _ _
  obtain ⟨hr, hf⟩ := mapSubs_eq (w := 32) (by decide) _ _ fun j => (h j).1
  exact ⟨hr, hf.trans (h 0).2⟩

/-- MAD on the whole lane. -/
theorem mad_64 (sg : Bool) (a b c : Word) :
    let m := mapSubs 64 fun j => iMad 64 sg (sub 64 a j) (sub 64 b j) (sub 64 c j)
    m.1 = a * b + c ∧ m.2 = madFlags sg a b c := by
  have h : Gives (iMad 64 sg (sub 64 a 0) (sub 64 b 0) (sub 64 c 0)) (a * b + c) (madFlags sg a b c) := by
    rw [sub_eq, sub_eq, sub_eq, el_64, el_64, el_64]; exact iMad_gives (by decide) sg a b c
  exact Prod.ext_iff.1 (mapSubs_64 h)

/-- Settles O2: each form is a typed form over `iMad` or `iMulh`; MUL is MAD with the addend 0. -/
theorem products : Obligations.Products := by
  intro x h t hx
  have mul := bin_gives t (f := fun w a b => iMad w (isSigned t) a b 0) (iMad_zero_gives (bits_pos t) _)
  have mulh := bin_gives t (f := fun w a b => iMulh w (isSigned t) a b) (iMulh_gives (bits_pos t) _)
  exact ⟨fun _ _ _ => vec_lanes hx rfl fun _ => mul _ _, fun _ _ _ => scal_lane hx rfl (mul _ _),
    fun _ _ _ => vec_lanes hx rfl fun _ => mulh _ _, fun _ _ _ => scal_lane hx rfl (mulh _ _),
    fun _ _ _ _ => vec_lanes hx rfl fun _ => mad_32 true _ _ _, fun _ _ _ _ => scal_lane hx rfl (mad_32 true _ _ _),
    fun _ _ _ _ => vec_lanes hx rfl fun _ => mad_32 false _ _ _, fun _ _ _ _ => scal_lane hx rfl (mad_32 false _ _ _),
    fun _ _ _ _ => vec_lanes hx rfl fun _ => mad_64 true _ _ _, fun _ _ _ _ => scal_lane hx rfl (mad_64 true _ _ _),
    fun _ _ _ _ => vec_lanes hx rfl fun _ => mad_64 false _ _ _, fun _ _ _ _ => scal_lane hx rfl (mad_64 false _ _ _)⟩

end Sys2Proof.Integers
end

section
/-! MIN, MAX, ABS and NEG (R107). -/

namespace Sys2Proof.Integers

open Sys2Proof Sys2Proof.Machine Sys2Proof.Laws Sys2Proof.Numbers Sys2Proof.Paired

theorem beq_two_pow_pred {w : Nat} (hw : 0 < w) (p : BitVec w) : (p.toNat == 2 ^ (w - 1)) = (p == BitVec.intMin w) := by
  rw [Bool.eq_iff_iff]; simp [BitVec.toNat_eq, BitVec.toNat_intMin_of_pos hw]

theorem beq_zero {w : Nat} (p : BitVec w) : (p.toNat == 0) = (p == 0) := by
  rw [Bool.eq_iff_iff]; simp [BitVec.toNat_eq]

/-- The magnitude of a negative number is its negation, which the most negative number wraps. -/
theorem ofInt_natAbs {w : Nat} (p : BitVec w) : BitVec.ofInt w (p.toInt.natAbs : Int) = magnitude true p := by
  rw [magnitude, Bool.true_and, BitVec.msb_eq_toInt]
  by_cases hp : p.toInt < 0
  · rw [Int.ofNat_natAbs_of_nonpos hp.le, BitVec.ofInt_neg, BitVec.ofInt_toInt, if_pos (decide_eq_true hp)]
  · rw [Int.natAbs_of_nonneg (not_lt.1 hp), BitVec.ofInt_toInt, if_neg (by simpa using hp)]

theorem iAbs_gives {w : Nat} (hw : 0 < w) (sg : Bool) (p : BitVec w) :
    Gives (iAbs w sg p.toNat) (magnitude sg p) (absFlags sg p) := by
  have he : iAbs w sg p.toNat = { r := (magnitude sg p).toNat, c := false, v := sg && p == BitVec.intMin w } := by
    rw [iAbs, beq_two_pow_pred hw, sInt_eq hw, wrap_eq, ofInt_natAbs]
    cases sg <;> rfl
  rw [he]; exact gives_mk _ _ _

theorem iNeg_gives {w : Nat} (hw : 0 < w) (p : BitVec w) : Gives (iNeg w p.toNat) (-p) (negFlags p) := by
  have hr : BitVec.ofInt w (-(p.toNat : Int)) = -p := by rw [BitVec.ofInt_neg, BitVec.ofInt_natCast]; simp
  rw [iNeg, beq_two_pow_pred hw, beq_zero, wrap_eq, hr]; exact gives_mk _ _ _

/-- Settles O4: each form is a typed form over `iMin`, `iMax`, `iAbs` or `iNeg`. -/
theorem extremesAndSigns : Obligations.ExtremesAndSigns := by
  intro x h t hx
  have min := bin_gives t (f := fun w a b => plain (iMin w (isSigned t) a b)) fun p q => plain_gives (iMin_eq (bits_pos t) _ p q)
  have max := bin_gives t (f := fun w a b => plain (iMax w (isSigned t) a b)) fun p q => plain_gives (iMax_eq (bits_pos t) _ p q)
  have abs := una_gives t (f := fun w a => iAbs w (isSigned t) a) (iAbs_gives (bits_pos t) _)
  have neg := una_gives t (f := iNeg) (iNeg_gives (bits_pos t))
  exact ⟨fun _ _ _ => vec_lanes hx rfl fun _ => min _ _, fun _ _ _ => scal_lane hx rfl (min _ _),
    fun _ _ _ => vec_lanes hx rfl fun _ => max _ _, fun _ _ _ => scal_lane hx rfl (max _ _),
    fun _ _ => vec_lanes hx rfl fun _ => abs _, fun _ _ => scal_lane hx rfl (abs _),
    fun _ _ => vec_lanes hx rfl fun _ => neg _, fun _ _ => scal_lane hx rfl (neg _)⟩

end Sys2Proof.Integers
end

section
/-! AND, OR, XOR, ANDN, NOT, TLOG and TST (R107, R109, R112, R117). An operation that acts on each bit acts alike on
sub-elements and on the whole lane. -/

namespace Sys2Proof.Integers

open Sys2Proof Sys2Proof.Machine Sys2Proof.Laws Sys2Proof.Numbers

/-! Numbers by their bits -/

theorem bitAt_eq (n i : Nat) : bitAt n i = n.testBit i := by
  rw [bitAt, Nat.testBit_eq_decide_div_mod_eq]; rfl

theorem bitAt_toNat {w : Nat} (p : BitVec w) (i : Nat) : bitAt p.toNat i = p.getLsbD i := bitAt_eq _ _

/-- The sum of the powers whose bits are set, over the first `n` bits. -/
theorem foldl_two_pow_eq_mod {P : Nat → Bool} {x : Nat} (n : Nat) (h : ∀ i < n, P i = x.testBit i) :
    ((List.range n).filter P).foldl (fun m i => m + 2 ^ i) 0 = x % 2 ^ n := by
  induction n with
  | zero => simp [Nat.mod_one]
  | succ n ih =>
    rw [List.range_succ, List.filter_append, List.foldl_append, ih fun i hi => h i (by omega), Nat.mod_pow_succ,
      ← Nat.toNat_testBit, List.filter_singleton, h n n.lt_succ_self]
    cases x.testBit n <;> simp

theorem foldl_two_pow_eq_toNat {w : Nat} {P : Nat → Bool} (p : BitVec w) (h : ∀ i < w, P i = p.getLsbD i) :
    ((List.range w).filter P).foldl (fun m i => m + 2 ^ i) 0 = p.toNat := by
  rw [foldl_two_pow_eq_mod w (x := p.toNat) h, Nat.mod_eq_of_lt p.isLt]

/-- A word listed bit by bit. -/
theorem getLsbD_ofBoolListLE_range (P : Nat → Bool) {i : Nat} (hi : i < 64) :
    (BitVec.ofBoolListLE ((List.range 64).map P) : Word).getLsbD i = P i :=
  BitVec.getLsbD_ofBoolListLE.trans (by simp [List.getD_eq_getElem?_getD, hi])

/-! Operations on bits -/

theorem iNot_eq {w : Nat} (p : BitVec w) : iNot w p.toNat = (~~~p).toNat := BitVec.toNat_not.symm

theorem iAndn_eq {w : Nat} (p q : BitVec w) : iAndn w p.toNat q.toNat = (p &&& ~~~q).toNat := by
  rw [iAndn, iNot_eq, BitVec.toNat_and]

theorem getLsbD_ternary (tt : BitVec 8) (d a b : Word) {i : Nat} (hi : i < 64) : (ternary tt d a b).getLsbD i =
    tt.getLsbD (4 * (d.getLsbD i).toNat + 2 * (a.getLsbD i).toNat + (b.getLsbD i).toNat) :=
  getLsbD_ofBoolListLE_range _ hi

theorem iTlog_eq (tt : BitVec 8) (d a b : Word) : iTlog tt.toNat d.toNat a.toNat b.toNat = (ternary tt d a b).toNat := by
  refine foldl_two_pow_eq_toNat _ fun i hi => ?_
  rw [getLsbD_ternary _ _ _ _ hi]
  simp only [bitAt_toNat, b2n_eq]

theorem el_not {w j : Nat} (hj : j < 64 / w) (a : Word) : el w j (~~~a) = ~~~el w j a := by
  have hw : w * (j + 1) ≤ 64 := (Nat.mul_le_mul_left w hj).trans (Nat.mul_div_le 64 w)
  rw [Nat.mul_succ] at hw
  ext i hi
  have : w * j + i < 64 := by omega
  simp [el, this]

/-- Every lane has a sub-element 0. -/
theorem subs_pos (t : IType) : 0 < 64 / t.bits := by cases t <;> decide

/-- A bitwise operation of two sources gives one word; its flags are those of sub-element 0. -/
theorem bin_bitwise (t : IType) {f : Nat → Nat → Nat → IRes} {g : BitVec t.bits → BitVec t.bits → BitVec t.bits}
    (h : ∀ p q : BitVec t.bits, Gives (f t.bits p.toNat q.toNat) (g p q) (szcv (g p q) false false)) {a b r : Word}
    (hr : ∀ j < 64 / t.bits, el t.bits j r = g (el t.bits j a) (el t.bits j b)) :
    (bin t f a b).1 = r ∧ (bin t f a b).2 = szcv (el t.bits 0 r) false false := by
  obtain ⟨hv, hf⟩ := bin_gives t h a b
  exact ⟨eq_of_each fun j hj => (hv j hj).trans (hr j hj).symm, by rw [hf, hr 0 (subs_pos t)]⟩

/-- A bitwise operation of one source. -/
theorem una_bitwise (t : IType) {f : Nat → Nat → IRes} {g : BitVec t.bits → BitVec t.bits}
    (h : ∀ p : BitVec t.bits, Gives (f t.bits p.toNat) (g p) (szcv (g p) false false)) {a r : Word}
    (hr : ∀ j < 64 / t.bits, el t.bits j r = g (el t.bits j a)) :
    (una t f a).1 = r ∧ (una t f a).2 = szcv (el t.bits 0 r) false false := by
  obtain ⟨hv, hf⟩ := una_gives t h a
  exact ⟨eq_of_each fun j hj => (hv j hj).trans (hr j hj).symm, by rw [hf, hr 0 (subs_pos t)]⟩

/-- Settles O5: the bitwise operations act on whole lanes as on their sub-elements; TST keeps only the flags of AND. -/
theorem logic : Obligations.Logic := by
  intro x h t hx
  have andG (p q : BitVec t.bits) := plain_gives (BitVec.toNat_and p q).symm
  have orG (p q : BitVec t.bits) := plain_gives (BitVec.toNat_or p q).symm
  have xorG (p q : BitVec t.bits) := plain_gives (BitVec.toNat_xor p q).symm
  have and (a b : Word) := bin_bitwise t (f := fun _ a b => plain (a &&& b)) andG
    fun j _ => BitVec.extractLsb'_and (x := a) (y := b) (start := t.bits * j)
  have andImm := immVal_gives t (f := fun _ a b => plain (a &&& b)) andG
  have or (a b : Word) := bin_bitwise t (f := fun _ a b => plain (a ||| b)) orG
    fun j _ => BitVec.extractLsb'_or (x := a) (y := b) (start := t.bits * j)
  have orImm := immVal_gives t (f := fun _ a b => plain (a ||| b)) orG
  have xor (a b : Word) := bin_bitwise t (f := fun _ a b => plain (a ^^^ b)) xorG
    fun j _ => BitVec.extractLsb'_xor (x := a) (y := b) (start := t.bits * j)
  have xorImm := immVal_gives t (f := fun _ a b => plain (a ^^^ b)) xorG
  have andn (a b : Word) := bin_bitwise t (f := fun w a b => plain (iAndn w a b)) (fun p q => plain_gives (iAndn_eq p q))
    fun j hj => BitVec.extractLsb'_and.trans (congrArg (el t.bits j a &&& ·) (el_not hj b))
  have not (a : Word) := una_bitwise t (f := fun w a => plain (iNot w a)) (fun p => plain_gives (iNot_eq p))
    fun _ hj => el_not hj a
  have tlog (tt : BitVec 8) (d a b : Word) := whole_gives (iTlog_eq tt d a b)
  exact ⟨fun _ _ _ => vec_lanes hx rfl fun _ => and _ _, fun _ _ _ => scal_lane hx rfl (and _ _),
    fun _ _ _ => vec_lanes hx rfl fun _ => andImm _ _, fun _ _ _ => scal_lane hx rfl (andImm _ _),
    fun _ _ _ => vec_lanes hx rfl fun _ => or _ _, fun _ _ _ => scal_lane hx rfl (or _ _),
    fun _ _ _ => vec_lanes hx rfl fun _ => orImm _ _, fun _ _ _ => scal_lane hx rfl (orImm _ _),
    fun _ _ _ => vec_lanes hx rfl fun _ => xor _ _, fun _ _ _ => scal_lane hx rfl (xor _ _),
    fun _ _ _ => vec_lanes hx rfl fun _ => xorImm _ _, fun _ _ _ => scal_lane hx rfl (xorImm _ _),
    fun _ _ _ => vec_lanes hx rfl fun _ => andn _ _, fun _ _ _ => scal_lane hx rfl (andn _ _),
    fun _ _ => vec_lanes hx rfl fun _ => not _, fun _ _ => scal_lane hx rfl (not _),
    fun _ _ _ _ => vec_lanes hx rfl fun _ => tlog _ _ _ _, fun _ _ _ _ => scal_lane hx rfl (tlog _ _ _ _),
    fun _ _ => vec_lanes hx rfl fun _ => ⟨trivial, (and _ _).2⟩, fun _ _ => scal_lane hx rfl ⟨trivial, (and _ _).2⟩⟩

end Sys2Proof.Integers
end

section
/-! SHL, SHR, SAR, ROT, FSHL and FSHR (R108, R114). -/

namespace Sys2Proof.Integers

open Sys2Proof Sys2Proof.Machine Sys2Proof.Laws Sys2Proof.Numbers

theorem iShl_gives {w : Nat} (p : BitVec w) (n : Nat) : Gives (iShl w p.toNat n) (p <<< n) (shlFlags p n) := by
  refine ⟨?_, by simp only [iShl, shlFlags, bitAt_toNat, Bool.decide_and]⟩
  simp only [iShl, BitVec.toNat_shiftLeft, Nat.shiftLeft_eq]
  split
  next h => exact (Nat.mod_eq_zero_of_dvd ((Nat.pow_dvd_pow 2 h).mul_left _)).symm
  next => rfl

theorem iShr_gives {w : Nat} (p : BitVec w) (n : Nat) : Gives (iShr w p.toNat n) (p >>> n) (shrFlags p n) := by
  refine ⟨?_, by simp only [iShr, shrFlags, bitAt_toNat, Bool.decide_and]⟩
  simp only [iShr, BitVec.toNat_ushiftRight, Nat.shiftRight_eq_div_pow]
  split
  next h => exact (Nat.div_eq_of_lt (p.isLt.trans_le (Nat.pow_le_pow_right two_pos h))).symm
  next => rfl

/-- From the width on, an arithmetic shift leaves only the sign. -/
theorem toInt_div_two_pow {w : Nat} (p : BitVec w) {n : Nat} (h : w ≤ n) : p.toInt / 2 ^ n = if p.toInt < 0 then -1 else 0 := by
  have hlo := BitVec.le_two_mul_toInt (x := p)
  have hhi := BitVec.two_mul_toInt_lt (x := p)
  have hle := pow_le_pow_right₀ (one_le_two (α := Int)) h
  have hpos : (0 : Int) < 2 ^ w := by positivity
  split
  next hneg => exact Int.ediv_eq_neg_one_of_neg_of_le hneg (by omega)
  next hpos => exact Int.ediv_eq_zero_of_lt (by omega) (by omega)

theorem toInt_div_min {w : Nat} (p : BitVec w) (n : Nat) : p.toInt / 2 ^ min n w = p.toInt / 2 ^ n := by
  rcases le_total n w with h | h
  · rw [min_eq_left h]
  · rw [min_eq_right h, toInt_div_two_pow p le_rfl, toInt_div_two_pow p h]

theorem iSar_gives {w : Nat} (hw : 0 < w) (p : BitVec w) (n : Nat) :
    Gives (iSar w p.toNat n) (p.sshiftRight n) (sarFlags p n) := by
  refine ⟨?_, by simp only [iSar, sarFlags, bitAt_toNat, BitVec.msb_eq_getLsbD_last]⟩
  rw [BitVec.sshiftRight, Int.shiftRight_eq_div_pow]
  simp only [iSar, wrap_eq, sInt_eq hw, toInt_div_min]
  norm_cast

/-- The two parts of a rotation do not overlap. -/
theorem iRot_eq {w : Nat} (hw : 0 < w) (p : BitVec w) (n : Nat) : iRot w p.toNat n = (p.rotateLeft n).toNat := by
  have hk : n % w < w := Nat.mod_lt n hw
  have hpow : 2 ^ w = 2 ^ (n % w) * 2 ^ (w - n % w) := by rw [← Nat.pow_add]; congr 1; omega
  have hlow : p.toNat / 2 ^ (w - n % w) < 2 ^ (n % w) := Nat.div_lt_of_lt_mul (by rw [Nat.mul_comm, ← hpow]; exact p.isLt)
  rw [BitVec.toNat_rotateLeft, iRot, Nat.shiftLeft_eq, Nat.shiftRight_eq_div_pow, Nat.mul_comm p.toNat, hpow,
    Nat.mul_mod_mul_left, ← Nat.two_pow_add_eq_or_of_lt hlow, Nat.mod_mul, Nat.mul_add_mod, Nat.mod_eq_of_lt hlow,
    Nat.mul_add_div (Nat.two_pow_pos _), Nat.div_eq_of_lt hlow, Nat.add_zero, Nat.add_comm]

/-! Funnel shifts -/

/-- The number of two words side by side. -/
theorem toNat_append_add {v w : Nat} (p : BitVec v) (q : BitVec w) : (p ++ q).toNat = p.toNat * 2 ^ w + q.toNat := by
  rw [BitVec.toNat_append, ← Nat.shiftLeft_add_eq_or_of_lt q.isLt, Nat.shiftLeft_eq]

theorem iFshl_eq (a b c : Word) :
    iFshl a.toNat b.toNat c.toNat = (((a ++ b) <<< (c.toNat % 128)).extractLsb' 64 64).toNat := by
  rw [iFshl, ← toNat_append_add, BitVec.extractLsb'_toNat, BitVec.toNat_shiftLeft, Nat.shiftLeft_eq,
    Nat.shiftRight_eq_div_pow]
  have hlt : (a ++ b).toNat * 2 ^ (c.toNat % 128) % 2 ^ 128 < 2 ^ 64 * 2 ^ 64 := Nat.mod_lt _ (Nat.two_pow_pos 128)
  exact (Nat.mod_eq_of_lt (Nat.div_lt_of_lt_mul hlt)).symm

theorem iFshr_eq (a b c : Word) :
    iFshr a.toNat b.toNat c.toNat = (((a ++ b) >>> (c.toNat % 128)).extractLsb' 0 64).toNat := by
  rw [iFshr, ← toNat_append_add, BitVec.extractLsb'_toNat, Nat.shiftRight_zero, BitVec.toNat_ushiftRight,
    Nat.shiftRight_eq_div_pow]

/-- Settles O6: each form is a typed form over a shift of bit vectors, for every count; funnel shifts are shifts of A:B. -/
theorem shifts : Obligations.Shifts := by
  intro x h t hx
  have shl := bin_gives t (f := iShl) fun p q => iShl_gives p q.toNat
  have shlImm (n : Nat) := immOp_gives t (f := iShl) fun p => iShl_gives p n
  have shr := bin_gives t (f := iShr) fun p q => iShr_gives p q.toNat
  have shrImm (n : Nat) := immOp_gives t (f := iShr) fun p => iShr_gives p n
  have sar := bin_gives t (f := iSar) fun p q => iSar_gives (bits_pos t) p q.toNat
  have sarImm (n : Nat) := immOp_gives t (f := iSar) fun p => iSar_gives (bits_pos t) p n
  have rot := bin_gives t (f := fun w a b => plain (iRot w a b)) fun p q => plain_gives (iRot_eq (bits_pos t) p q.toNat)
  have rotImm (n : Nat) := immOp_gives t (f := fun w a b => plain (iRot w a b))
    fun p => plain_gives (iRot_eq (bits_pos t) p n)
  have fshl (a b c : Word) := whole_gives (iFshl_eq a b c)
  have fshr (a b c : Word) := whole_gives (iFshr_eq a b c)
  exact ⟨fun _ _ _ => vec_lanes hx rfl fun _ => shl _ _, fun _ _ _ => scal_lane hx rfl (shl _ _),
    fun _ _ _ => vec_lanes hx rfl fun _ => shlImm _ _, fun _ _ _ => scal_lane hx rfl (shlImm _ _),
    fun _ _ _ => vec_lanes hx rfl fun _ => shr _ _, fun _ _ _ => scal_lane hx rfl (shr _ _),
    fun _ _ _ => vec_lanes hx rfl fun _ => shrImm _ _, fun _ _ _ => scal_lane hx rfl (shrImm _ _),
    fun _ _ _ => vec_lanes hx rfl fun _ => sar _ _, fun _ _ _ => scal_lane hx rfl (sar _ _),
    fun _ _ _ => vec_lanes hx rfl fun _ => sarImm _ _, fun _ _ _ => scal_lane hx rfl (sarImm _ _),
    fun _ _ _ => vec_lanes hx rfl fun _ => rot _ _, fun _ _ _ => scal_lane hx rfl (rot _ _),
    fun _ _ _ => vec_lanes hx rfl fun _ => rotImm _ _, fun _ _ _ => scal_lane hx rfl (rotImm _ _),
    fun _ _ _ _ => vec_lanes hx rfl fun _ => fshl _ _ _, fun _ _ _ _ => scal_lane hx rfl (fshl _ _ _),
    fun _ _ _ _ => vec_lanes hx rfl fun _ => fshr _ _ _, fun _ _ _ _ => scal_lane hx rfl (fshr _ _ _)⟩

end Sys2Proof.Integers
end

section
/-! BFX, BFI, POPC, CLZ, CTZ, BREV, BPERM and SEL (R107, R114 to R116). -/

namespace Sys2Proof.Integers

open Sys2Proof Sys2Proof.Machine Sys2Proof.Laws Sys2Proof.Numbers

/-! Bit fields -/

theorem bitField_eq (b : Word) : bitField b = (b.toNat % 64, min (b.toNat / 256 % 128) (64 - b.toNat % 64)) := by
  simp [bitField, BitVec.extractLsb'_toNat, Nat.shiftRight_eq_div_pow]

/-- A number with `l` bits from position `p` on replaced. -/
theorem testBit_replace {d p l v : Nat} (hv : v < 2 ^ l) (i : Nat) :
    (d - d / 2 ^ p % 2 ^ l * 2 ^ p + v * 2 ^ p).testBit i =
      if p ≤ i ∧ i < p + l then v.testBit (i - p) else d.testBit i := by
  have hlow : d % 2 ^ p < 2 ^ p := Nat.mod_lt _ (Nat.two_pow_pos p)
  have hsplit : d = 2 ^ p * (2 ^ l * (d / 2 ^ p / 2 ^ l) + d / 2 ^ p % 2 ^ l) + d % 2 ^ p := by
    rw [Nat.div_add_mod, Nat.div_add_mod]
  have hnew : d - d / 2 ^ p % 2 ^ l * 2 ^ p + v * 2 ^ p = 2 ^ p * (2 ^ l * (d / 2 ^ p / 2 ^ l) + v) + d % 2 ^ p := by
    rw [Nat.mul_add] at hsplit ⊢
    rw [Nat.mul_comm (_ % _), Nat.mul_comm v]
    omega
  rw [hnew, Nat.testBit_two_pow_mul_add _ hlow, Nat.testBit_two_pow_mul_add _ hv]
  by_cases hp : i < p
  · rw [if_pos hp, if_neg (by omega), Nat.testBit_mod_two_pow]; simp [hp]
  · rw [if_neg hp]
    by_cases hl : i - p < l
    · rw [if_pos hl, if_pos (by omega)]
    · rw [if_neg hl, if_neg (by omega), Nat.testBit_div_two_pow, Nat.testBit_div_two_pow]; congr 1; omega

/-- The mask of `l` bits from position `p` on. -/
theorem getLsbD_allOnes_shiftLeft (p l : Nat) {i : Nat} (hi : i < 64) :
    ((BitVec.allOnes l).setWidth 64 <<< p : Word).getLsbD i = decide (p ≤ i ∧ i < p + l) := by
  have hs : decide (i - p < 64) = true := decide_eq_true (by omega)
  rw [BitVec.getLsbD_shiftLeft, BitVec.getLsbD_setWidth, BitVec.getLsbD_allOnes, hs, Bool.true_and, decide_eq_true hi,
    Bool.true_and, ← decide_not, ← Bool.decide_and]
  exact decide_eq_decide.2 (by omega)

theorem getLsbD_inserted (d a b : Word) {i : Nat} (hi : i < 64) : (inserted d a b).getLsbD i =
    if (bitField b).1 ≤ i ∧ i < (bitField b).1 + (bitField b).2 then a.getLsbD (i - (bitField b).1) else d.getLsbD i := by
  simp only [inserted, BitVec.getLsbD_or, BitVec.getLsbD_and, BitVec.getLsbD_not, getLsbD_allOnes_shiftLeft _ _ hi, hi,
    BitVec.getLsbD_shiftLeft]
  split
  next h => simp [h]
  next h => simp [h]

theorem iBfi_eq (d a b : Word) : iBfi d.toNat a.toNat b.toNat = (inserted d a b).toNat := by
  have hp : b.toNat % 64 < 64 := Nat.mod_lt _ (by decide)
  refine Nat.eq_of_testBit_eq fun i => ?_
  rw [BitVec.testBit_toNat, iBfi, testBit_replace (Nat.mod_lt _ (Nat.two_pow_pos _))]
  by_cases hi : i < 64
  · simp only [getLsbD_inserted _ _ _ hi, bitField_eq]
    split
    next h => rw [Nat.testBit_mod_two_pow, decide_eq_true (by omega), Bool.true_and, BitVec.testBit_toNat]
    next => exact BitVec.testBit_toNat d
  · rw [if_neg (by omega), BitVec.getLsbD_of_ge _ _ (by omega), BitVec.testBit_toNat, BitVec.getLsbD_of_ge _ _ (by omega)]

/-- A field extended to the lane; one of no bits is 0. -/
theorem extend_field {l : Nat} (hl : l ≤ 64) (sg : Bool) (f : BitVec l) :
    (if l = 0 then 0 else if sg then wrap 64 (sInt l f.toNat) else f.toNat) =
      (if sg then f.signExtend 64 else f.setWidth 64 : Word).toNat := by
  by_cases h0 : l = 0
  · subst h0
    rw [f.eq_nil]; cases sg <;> rfl
  · rw [if_neg h0, sInt_eq (Nat.pos_of_ne_zero h0), wrap_eq]
    have hf : f.toNat < 2 ^ 64 := f.isLt.trans_le (Nat.pow_le_pow_right two_pos hl)
    cases sg
    · exact (Nat.mod_eq_of_lt hf).symm.trans (BitVec.toNat_setWidth 64 f).symm
    · rfl

theorem iBfx_eq (sg : Bool) (a b : Word) : iBfx sg a.toNat b.toNat = (extracted sg a b).toNat := by
  have hl : (bitField b).2 ≤ 64 := by rw [bitField_eq]; exact (min_le_right _ _).trans (Nat.sub_le _ _)
  rw [extracted, ← extend_field hl, BitVec.extractLsb'_toNat, Nat.shiftRight_eq_div_pow, bitField_eq, iBfx]

/-- A type of 64 bits: one sub-element. -/
theorem bin_64 {t : IType} (ht : t.bits = 64) {f : Nat → Nat → Nat → IRes} {a b r : Word} {fl : BitVec 4}
    (h : Gives (f 64 a.toNat b.toNat) r fl) : (bin t f a b).1 = r ∧ (bin t f a b).2 = fl := by
  rw [bin, ht]
  exact Prod.ext_iff.1 (mapSubs_64 (by rwa [sub_eq, sub_eq, el_64, el_64]))

/-! Counts and reversal -/

theorem popcount_eq {w : Nat} (p : BitVec w) : popcount w p.toNat = p.cpop.toNat := by
  have h (n : Nat) : p.cpopNatRec n 0 = ((List.range n).filter (bitAt p.toNat)).length := by
    induction n with
    | zero => rfl
    | succ n ih =>
      rw [BitVec.cpopNatRec_succ, Nat.zero_add, BitVec.cpopNatRec_eq, ih, List.range_succ, List.filter_append,
        List.length_append, List.filter_singleton, bitAt_toNat]
      cases p.getLsbD n <;> rfl
  rw [BitVec.toNat_cpop, h, popcount]

/-- The first set bit of a list of the bits of a number, or its width. -/
theorem find?_getD_eq_ctz {w : Nat} {P : Nat → Bool} (p : BitVec w) (h : ∀ i < w, P i = p.getLsbD i) :
    ((List.range w).find? P).getD w = p.ctz.toNat := by
  by_cases hp : p = 0
  · subst hp
    rw [List.find?_range_eq_none.2 fun i hi => by simp [h i hi]]
    simp [BitVec.ctz, BitVec.clz_eq_iff_eq_zero.2]
  · have hlt : p.ctz.toNat < w := by simpa [BitVec.lt_def] using BitVec.ctz_lt_iff_ne_zero.2 hp
    have hset : P p.ctz.toNat = true := (h _ hlt).trans (BitVec.getLsbD_true_ctz_of_ne_zero hp)
    have hclear (j : Nat) (hj : j < p.ctz.toNat) : (!P j) = true := by
      rw [h j (by omega), BitVec.getLsbD_false_of_lt_ctz hj]; rfl
    rw [List.find?_range_eq_some.2 ⟨hset, List.mem_range.2 hlt, hclear⟩]; rfl

theorem ctz_eq {w : Nat} (p : BitVec w) : ctz w p.toNat = p.ctz.toNat :=
  find?_getD_eq_ctz p fun i _ => bitAt_toNat p i

theorem bitAt_reverse {w : Nat} (p : BitVec w) {i : Nat} (hi : i < w) : bitAt p.toNat (w - 1 - i) = p.reverse.getLsbD i := by
  rw [bitAt_toNat, BitVec.getLsbD_reverse, BitVec.getMsbD]; simp [hi]

theorem clz_eq {w : Nat} (p : BitVec w) : clz w p.toNat = p.clz.toNat := by
  rw [BitVec.clz_eq_reverse_ctz]
  exact find?_getD_eq_ctz _ fun i hi => bitAt_reverse p hi

theorem brev_eq {w : Nat} (p : BitVec w) : brev w p.toNat = p.reverse.toNat :=
  foldl_two_pow_eq_toNat _ fun _ hi => bitAt_reverse p hi

/-! Permutation of bytes -/

theorem getLsbD_permuted (a b c : Word) {k : Nat} (hk : k < 64) : (permuted a b c).getLsbD k =
    (b ++ a).getLsbD (8 * (c.extractLsb' (4 * (k / 8)) 4).toNat + k % 8) :=
  getLsbD_ofBoolListLE_range _ hk

/-- The eight selected bytes are the digits of the result. -/
theorem iBperm_eq_digits (a b c : Nat) :
    iBperm a b c = digits 8 (fun i => (b * 2 ^ 64 + a) / 256 ^ (c / 16 ^ i % 16)) 8 := by
  simp only [iBperm, digits, pow_mul]; rfl

theorem iBperm_eq (a b c : Word) : iBperm a.toNat b.toNat c.toNat = (permuted a b c).toNat := by
  rw [iBperm_eq_digits, ← toNat_append_add]
  refine Nat.eq_of_testBit_eq fun k => ?_
  rw [BitVec.testBit_toNat]
  by_cases hk : k < 64
  · have hn : (c.extractLsb' (4 * (k / 8)) 4).toNat = c.toNat / 16 ^ (k / 8) % 16 := by
      rw [BitVec.extractLsb'_toNat, Nat.shiftRight_eq_div_pow, pow_mul]; rfl
    have hbyte := congrArg (Nat.testBit · (k % 8)) (digits_get 8 (fun i => (b ++ a).toNat / 256 ^ (c.toNat / 16 ^ i % 16)) 8
      (k / 8) (by omega))
    have h256 (n : Nat) : 256 ^ n = 2 ^ (8 * n) := (pow_mul 2 8 n).symm
    have hm : k % 8 < 8 := Nat.mod_lt _ (by decide)
    simp only [Nat.testBit_mod_two_pow, hm, decide_true, Bool.true_and, Nat.testBit_div_two_pow, h256] at hbyte
    rw [Nat.mod_add_div] at hbyte
    rw [getLsbD_permuted _ _ _ hk, hn, ← BitVec.testBit_toNat, Nat.add_comm (8 * _)]
    simpa only [h256] using hbyte
  · rw [BitVec.getLsbD_of_ge _ _ (by omega)]
    exact Nat.testBit_lt_two_pow ((digits_lt 8 _ 8).trans_le (Nat.pow_le_pow_right two_pos (by omega)))

/-- Settles O7: a field, a count and a permutation are what their bits say; SEL gives one operand whole. -/
theorem bitWork : Obligations.BitWork := by
  intro x h t hx
  have bfx (ht : t.bits = 64) (a b : Word) := bin_64 ht (f := fun _ a b => plain (iBfx (isSigned t) a b))
    (plain_gives (iBfx_eq _ a b))
  have bfi (d a b : Word) := whole_gives (iBfi_eq d a b)
  have popc := una_gives t (f := fun w a => plain (popcount w a)) fun p => plain_gives (popcount_eq p)
  have clz := una_gives t (f := fun w a => plain (clz w a)) fun p => plain_gives (clz_eq p)
  have ctz := una_gives t (f := fun w a => plain (ctz w a)) fun p => plain_gives (ctz_eq p)
  have brev := una_gives t (f := fun w a => plain (brev w a)) fun p => plain_gives (brev_eq p)
  have bperm (a b c : Word) := whole_gives (iBperm_eq a b c)
  have same (r : Word) := whole_gives (r := r) rfl
  exact ⟨fun _ _ _ ht => vec_lanes hx rfl fun _ => bfx ht _ _, fun _ _ _ ht => scal_lane hx rfl (bfx ht _ _),
    fun _ _ _ => vec_lanes hx rfl fun _ => bfi _ _ _, fun _ _ _ => scal_lane hx rfl (bfi _ _ _),
    fun _ _ => vec_lanes hx rfl fun _ => popc _, fun _ _ => scal_lane hx rfl (popc _),
    fun _ _ => vec_lanes hx rfl fun _ => clz _, fun _ _ => scal_lane hx rfl (clz _),
    fun _ _ => vec_lanes hx rfl fun _ => ctz _, fun _ _ => scal_lane hx rfl (ctz _),
    fun _ _ => vec_lanes hx rfl fun _ => brev _, fun _ _ => scal_lane hx rfl (brev _),
    fun _ _ _ _ => vec_lanes hx rfl fun _ => bperm _ _ _, fun _ _ _ _ => scal_lane hx rfl (bperm _ _ _),
    fun _ _ _ _ _ => vec_lanes hx rfl fun _ => same _, fun _ _ _ _ => scal_lane hx rfl (same _)⟩

end Sys2Proof.Integers
end

section
/-! MOV in its modes, MOVI and MOVH (R110, R111). -/

namespace Sys2Proof.Integers

open Sys2Proof Sys2Proof.Machine Sys2Proof.Laws

/-- MOVH, with the slices of the destination as numbers. -/
theorem movhVal_eq (d : Word) {k : BitVec 2} (hk : k ≠ 0) (imm : BitVec 18) : movhVal d k imm = (sliced d k imm).toNat := by
  have hd := d.isLt
  have hcases : k = 1 ∨ k = 2 ∨ k = 3 := by revert k; decide
  obtain rfl | rfl | rfl := hcases
  · show d.toNat - d.toNat / 2 ^ 18 % 2 ^ 18 * 2 ^ 18 + imm.toNat * 2 ^ 18 =
      (d.extractLsb' 36 28 ++ imm ++ d.extractLsb' 0 18).toNat
    simp only [toNat_append_add, BitVec.extractLsb'_toNat, Nat.shiftRight_eq_div_pow]
    omega
  · show d.toNat - d.toNat / 2 ^ 36 % 2 ^ 18 * 2 ^ 36 + imm.toNat * 2 ^ 36 =
      (d.extractLsb' 54 10 ++ imm ++ d.extractLsb' 0 36).toNat
    simp only [toNat_append_add, BitVec.extractLsb'_toNat, Nat.shiftRight_eq_div_pow]
    omega
  · show d.toNat - d.toNat / 2 ^ 54 % 2 ^ 10 * 2 ^ 54 + imm.toNat % 1024 * 2 ^ 54 =
      (imm.extractLsb' 0 10 ++ d.extractLsb' 0 54).toNat
    simp only [toNat_append_add, BitVec.extractLsb'_toNat, Nat.shiftRight_eq_div_pow]
    omega

/-- Four condition registers side by side. -/
theorem toNat_nibbles (a b c d : BitVec 4) :
    a.toNat * 4096 + b.toNat * 256 + c.toNat * 16 + d.toNat = ((a ++ b ++ c ++ d).setWidth 64 : Word).toNat := by
  rw [BitVec.toNat_setWidth_of_le (by decide), toNat_append_add, toNat_append_add, toNat_append_add]
  ring

/-! Condition registers written whole (mode 4) -/

theorem writeCc_rest (w : Wave) (clk lat n : Nat) (vals : List (Nat × BitVec 4)) : w.writeCc clk lat n vals =
    { w with cc := (w.writeCc clk lat n vals).cc, early := (w.writeCc clk lat n vals).early } := by
  unfold Wave.writeCc; rw [ccSet_foldl_rest]; rfl

theorem ccGet_writeCc (w : Wave) (clk lat : Nat) {n m : Nat} (hn : n < 4) (hm : m < 4) {act : List Nat} (ha : act.Nodup)
    (f : Nat → BitVec 4) (l : Nat) : (w.writeCc clk lat n (act.map fun l => (l, f l))).ccGet m l =
      if m = n ∧ l ∈ act then f l else w.ccGet m l := by
  split
  next h =>
    obtain ⟨rfl, hl⟩ := h
    refine ccGet_foldl_mem m hm _ _ ?_ (l, f l) (List.mem_map_of_mem hl)
    simpa [List.map_map, Function.comp_def] using ha
  next h =>
    refine (ccGet_foldl_ne n hn _ _ m l hm fun p hp he => ?_).trans rfl
    obtain ⟨k, hk, rfl⟩ := List.mem_map.1 hp
    exact h ⟨he.1, he.2 ▸ hk⟩

/-- The wave after the first `k` condition registers of lanes have been written, register `n` of lane `l` with `f n l`. -/
def writeCcs (w : Wave) (clk : Nat) (act : List Nat) (f : Nat → Nat → BitVec 4) (k : Nat) : Wave :=
  (List.range k).foldl (fun w n => w.writeCc clk 4 n (act.map fun l => (l, f n l))) w

theorem writeCcs_succ (w : Wave) (clk : Nat) (act : List Nat) (f : Nat → Nat → BitVec 4) (k : Nat) :
    writeCcs w clk act f (k + 1) = (writeCcs w clk act f k).writeCc clk 4 k (act.map fun l => (l, f k l)) := by
  simp only [writeCcs, List.range_succ, List.foldl_append, List.foldl_cons, List.foldl_nil]

theorem writeCcs_rest (w : Wave) (clk : Nat) (act : List Nat) (f : Nat → Nat → BitVec 4) (k : Nat) :
    writeCcs w clk act f k = { w with cc := (writeCcs w clk act f k).cc, early := (writeCcs w clk act f k).early } := by
  induction k with
  | zero => rfl
  | succ k ih => rw [writeCcs_succ, writeCc_rest, ih]

theorem ccGet_writeCcs (w : Wave) (clk : Nat) {act : List Nat} (ha : act.Nodup) (f : Nat → Nat → BitVec 4) {k m : Nat}
    (hk : k ≤ 4) (hm : m < 4) (l : Nat) :
    (writeCcs w clk act f k).ccGet m l = if m < k ∧ l ∈ act then f m l else w.ccGet m l := by
  induction k with
  | zero => exact (if_neg (by omega)).symm
  | succ k ih =>
    rw [writeCcs_succ, ccGet_writeCc _ _ _ (by omega) hm ha, ih (by omega)]
    by_cases hl : l ∈ act
    · rcases lt_trichotomy m k with h | rfl | h
      · simp [hl, h, h.ne, Nat.lt_succ_of_lt h]
      · simp [hl]
      · have h' : ¬ m < k + 1 := by omega
        simp [h.ne', h', Nat.lt_asymm h]
    · simp [hl]

/-- Settles O8: MOVI, MOVH and the modes that read give one word; modes 2 and 4 write sf and the condition registers. -/
theorem moves : Obligations.Moves := by
  intro x h hx
  have same (r : Word) := whole_gives (r := r) rfl
  have cc (a b c d : BitVec 4) := whole_gives (toNat_nibbles a b c d)
  have movh {k : BitVec 2} (hk : k ≠ 0) (d : Word) (imm : BitVec 18) := whole_gives (movhVal_eq d hk imm)
  refine ⟨fun _ _ => vec_lanes hx rfl fun _ => same _, fun _ _ => scal_lane hx rfl (same _), fun _ => scal_lane hx rfl (same _),
    fun a hr => ⟨_, Control.word_done hx hr rfl rfl, rfl, rfl⟩,
    fun _ => vec_lanes hx rfl fun _ => cc _ _ _ _,
    fun a hr => ⟨_, Control.word_done hx hr rfl rfl,
      writeCcs_rest x.w x.clk (x.active h) (fun n l => (x.v a l).extractLsb' (4 * n) 4) 4,
      fun n hn l => (ccGet_writeCcs x.w x.clk (active_nodup x h) _ le_rfl hn l).trans (by simp [hn])⟩,
    fun _ _ => vec_lanes hx rfl fun _ => same _, fun _ _ => scal_lane hx rfl (same _),
    fun _ _ _ hk => vec_lanes hx rfl fun _ => movh hk _ _, fun _ _ _ hk => scal_lane hx rfl (movh hk _ _)⟩

end Sys2Proof.Integers
end

section
/-! Words of classes 2 and 3 from what they give on one lane (R42, R48, R57, R119). -/

namespace Sys2Proof.Lanes

open Sys2Proof Sys2Proof.Machine Sys2Proof.Laws

/-- The results, flags and sticky bits of a word in other terms. -/
theorem vecResult_mono {x : Iss} {h : Hd} {lat : Nat} {lanes : List Nat} {d : Option Nat} {res res' : Nat → Word → Prop}
    {fl fl' : Nat → BitVec 4} {st st' : Word} {v : Wave} (hv : VecResult x h lat lanes d res fl st v)
    (hres : ∀ l ∈ lanes, ∀ r, res l r → res' l r) (hfl : ∀ l ∈ lanes, fl l = fl' l) (hst : st = st') :
    VecResult x h lat lanes d res' fl' st' v :=
  { hv with
    value := fun n hn l hl => hres l hl _ (hv.value n hn l hl)
    flags := fun hx l hl => (hv.flags hx l hl).trans (hfl l hl)
    sticky := hst ▸ hv.sticky }

/-- A draw changes only the counter. -/
theorem vecResult_drew {x : Iss} {h : Hd} {lat : Nat} {lanes : List Nat} {d : Option Nat} {res : Nat → Word → Prop}
    {fl : Nat → BitVec 4} {st : Word} {v : Wave} (hv : VecResult x h lat lanes d res fl st v) :
    VecResult x h lat lanes d res fl st v.drew :=
  { hv with rest := congrArg Wave.drew hv.rest }

/-- The wave after a word that takes a draw if `b` (R48). -/
def drawn (b : Bool) (v : Wave) : Wave := if b then v.drew else v

theorem vecResult_drawn (b : Bool) {x : Iss} {h : Hd} {lat : Nat} {lanes : List Nat} {d : Option Nat}
    {res : Nat → Word → Prop} {fl : Nat → BitVec 4} {st : Word} {v : Wave} (hv : VecResult x h lat lanes d res fl st v) :
    VecResult x h lat lanes d res fl st (drawn b v) := by
  cases b
  · exact hv
  · exact vecResult_drew hv

theorem drawn_ctr (b : Bool) (v : Wave) : (drawn b v).ctr = if b then v.ctr + 1 else v.ctr := by cases b <;> rfl

/-- A word whose effect is to write its active lanes. -/
theorem lane_done {x : Iss} {i : Instr} {h : Hd} {lat : Nat} {d : Option VCode} {eff : Iss → List Nat → Eff}
    {g : Nat → LaneRes} {b : Bool} (hx : x.live) (he : exec i x.s = execWord i h .vector x.s eff)
    (heff : eff x (x.active h) = .done x.s (drawn b (x.putLanes h lat d ((x.active h).map fun l => (l, g l)))) .next)
    (hl : 0 < lat := by decide) : x.lane i h lat d g b := by
  intro hr
  obtain ⟨hctr, hres⟩ := putLanes_result x h lat hl _ (active_nodup x h) d g
  exact ⟨_, Control.word_done hx hr he heff, by rw [drawn_ctr, hctr], vecResult_drawn b hres⟩

/-- A word that gives each active lane a result and takes no draw. -/
theorem lane_of {x : Iss} {i : Instr} {h : Hd} {lat : Nat} {d : Option VCode} {g : Iss → Nat → LaneRes}
    {r : Nat → LaneRes} (hx : x.live) (he : exec i x.s = laneOp i h lat d g x.s) (hg : ∀ l, g x l = r l := by exact fun _ => rfl)
    (hl : 0 < lat := by decide) : x.lane i h lat d r false := by
  obtain rfl : g x = r := funext hg
  exact lane_done hx he rfl hl

end Sys2Proof.Lanes
end

section
/-! Float words and the activation table (R118 to R127). -/

namespace Sys2Proof.Floats

open Sys2Proof Sys2Proof.Machine Sys2Proof.Laws Sys2Proof.Lanes

theorem addLat_pos (f : FType) : 0 < addLat f := by cases f <;> decide

/-- Settles O10: every float word is a lane operation; FCMP, FFMA and FDOT2 name sub-elements as numbers. -/
theorem floatWords : Obligations.FloatWords := by
  intro x h f rm hx
  exact ⟨fun _ _ _ => lane_of hx rfl (hl := addLat_pos f), fun _ _ _ => lane_of hx rfl (hl := addLat_pos f),
    fun _ _ _ => lane_of hx rfl (hl := addLat_pos f), fun _ _ _ => lane_of hx rfl, fun _ _ _ => lane_of hx rfl,
    fun _ _ => lane_of hx rfl, fun _ _ => lane_of hx rfl,
    fun _ _ => lane_of hx rfl fun _ => by simp only [sub_eq],
    fun _ _ => lane_of hx rfl, fun _ _ => lane_of hx rfl, fun _ _ => lane_of hx rfl, fun _ _ => lane_of hx rfl,
    fun _ _ => lane_of hx rfl, fun _ _ => lane_of hx rfl, fun _ _ => lane_of hx rfl, fun _ _ => lane_of hx rfl,
    fun _ _ => lane_of hx rfl, fun _ _ _ => lane_of hx rfl, fun _ _ => lane_of hx rfl,
    fun _ _ _ _ => lane_of hx rfl (fun _ => by simp only [sub_eq]) (addLat_pos f),
    fun _ _ _ _ _ => lane_of hx rfl fun _ => by simp only [sub_eq]⟩

/-- Words written at the first keys, each at its own, are read back. -/
theorem wget_foldl_range (g : Nat → Word) {n k : Nat} (hk : k < n) :
    wget ((List.range n).foldl (fun m i => wset m i (g i)) []) k = g k := by
  have := wget_foldl_mem 0 ((List.range n).map fun i => (i, g i)) []
    (by simpa [List.map_map, Function.comp_def] using List.nodup_range) (k, g k)
    (List.mem_map_of_mem (List.mem_range.2 hk))
  simpa [List.foldl_map] using this

/-- An ACTSWAP of the same clk counts for the words after it. -/
theorem selAt_eq (c : Core) (clk : Nat) : c.selAt clk = match c.swapAt with
    | some (at_, old) => if at_ = clk then old else c.act.sel
    | none => c.act.sel := by
  unfold Core.selAt
  cases c.swapAt <;> rfl

theorem selAt_of_no_swap {c : Core} {clk : Nat} (h : ∀ o, c.swapAt ≠ some (clk, o)) : c.selAt clk = c.act.sel := by
  unfold Core.selAt
  split
  next t old hs => exact if_neg fun ht => h old (by rw [hs, ht])
  next => rfl

/-- ACT puts off the loads of the bank it reads, and of no other. -/
theorem act_done {x : Iss} {h : Hd} {d a : VCode} {f : FType} {rm : Rm} (hx : x.live)
    (hr : x.ready (usesOf (.act h d a f rm)) h) {sel : Bool} (hsel : x.core.selAt x.clk = sel) :
    exec (.act h d a f rm) x.s = .next (x.after (.act h d a f rm) h .vector (x.active h).length
      (x.s.setCore x.coreIx { x.core with
        actUse0 := if sel then x.core.actUse0 else x.clk + 10, actUse1 := if sel then x.clk + 10 else x.core.actUse1 })
      (x.putLanes h 10 (some d) ((x.active h).map fun l => (l, fUna f ((x.core.act.bank sel).eval f rm) (x.v a l)))) .next) := by
  refine Control.word_done hx hr rfl ?_
  simp only [hsel]
  cases sel <;> rfl

/-- What keeps ACTLD waiting (R126). -/
def actldWaits (x : Iss) : Prop :=
  (∃ old, x.core.swapAt = some (x.clk, old)) ∨ x.clk < (if x.core.act.sel then x.core.actUse0 else x.core.actUse1) ∨
    x.core.drainsBank (!x.core.act.sel) = true

theorem actld_test_iff (x : Iss) :
    ((x.core.swapAt.map (·.1)) == some x.clk ||
      decide (x.clk < (if (!x.core.act.sel) = true then x.core.actUse1 else x.core.actUse0)) ||
      x.core.drainsBank (!x.core.act.sel)) = true ↔ actldWaits x := by
  have hswap : (x.core.swapAt.map (·.1)) == some x.clk ↔ ∃ old, x.core.swapAt = some (x.clk, old) := by
    cases x.core.swapAt with
    | none => simp
    | some p => simp [Prod.ext_iff]
  have huse : (if (!x.core.act.sel) = true then x.core.actUse1 else x.core.actUse0) =
      if x.core.act.sel then x.core.actUse0 else x.core.actUse1 := by cases x.core.act.sel <;> rfl
  rw [huse, Bool.or_eq_true, Bool.or_eq_true, hswap, decide_eq_true_iff, or_assoc, actldWaits]

/-- The load that an ACTLD puts in flight. -/
def actLoadOf (x : Iss) (a : VCode) (b : SReg) : ActLoad :=
  { bank := !x.core.act.sel, due := x.clk + 16,
    data := { lo := (x.sreg b.toNat).setWidth 32, rstep := (x.sreg b.toNat).extractLsb' 32 32,
              segs := (List.range 256).foldl (fun m i => wset m i (x.vreg (a.toNat + i / 32) (i % 32))) [] } }

theorem actLoadOf_segs (x : Iss) (a : VCode) (b : SReg) {n : Nat} (hn : n < 256) :
    wget (actLoadOf x a b).data.segs n = x.vreg (a.toNat + n / 32) (n % 32) := by
  simp only [actLoadOf]
  exact wget_foldl_range (fun i => x.vreg (a.toNat + i / 32) (i % 32)) hn

theorem actld_done {x : Iss} {h : Hd} {a : VCode} {b : SReg} (hx : x.live) (hr : x.ready (usesOf (.actld h a b)) h)
    (hw : ¬ actldWaits x) : exec (.actld h a b) x.s = .next (x.after (.actld h a b) h (.vfix 8) (x.active h).length
      (x.s.setCore x.coreIx { x.core with actLoads := x.core.actLoads ++ [actLoadOf x a b] }) x.w .next) :=
  Control.word_done hx hr rfl (if_neg (mt (actld_test_iff x).1 hw))

/-- Settles O15: an ACT reads the bank of `Core.selAt`; ACTLD and ACTSWAP each wait by one test and then change the core. -/
theorem activationTable : Obligations.ActivationTable := by
  intro x h hx
  refine ⟨fun d a f rm hr => ?_, fun a b hr hswap huse hdrain => ?_,
    fun a b hr hw => Control.word_waits hx hr rfl (if_pos ((actld_test_iff x).2 hw)),
    fun hr hl => ⟨_, Control.word_done hx hr rfl (if_pos (by simp [hl])), selAt_of_no_swap⟩,
    fun hr hl => Control.word_waits hx hr rfl (if_neg (by simpa using hl))⟩
  · exact ⟨_, act_done hx hr (selAt_eq _ _), putLanes_result x h 10 (by decide) _ (active_nodup x h) (some d) _⟩
  · have hw : ¬ actldWaits x := by
      rintro (⟨old, hold⟩ | hlt | hd)
      · exact hswap old hold
      · exact hlt.not_ge huse
      · exact Bool.false_ne_true (hdrain.symm.trans hd)
    exact ⟨actLoadOf x a b, rfl, rfl, by simp [actLoadOf, BitVec.setWidth_eq_extractLsb'], rfl,
      fun n hn => actLoadOf_segs x a b hn, actld_done hx hr hw⟩

end Sys2Proof.Floats
end

section
/-! Ascending lists of lanes, and what the active lanes add up to. -/

namespace Sys2Proof.Lanes

open Sys2Proof Sys2Proof.Machine Sys2Proof.Laws

theorem active_lt {x : Iss} {h : Hd} {l : Nat} (hl : l ∈ x.active h) : l < 32 :=
  Paired.lt_of_mem_lanesOf (List.mem_filter.1 hl).1

/-- The active lanes that pass a test, as numbers below a bound. -/
theorem active_filter_eq (x : Iss) (h : Hd) {p : Nat → Bool} {n : Nat} (hn : ∀ l ∈ x.active h, p l = true → l < n) :
    (x.active h).filter p = (List.range n).filter fun l => decide (l ∈ x.active h) && p l := by
  refine ((Control.active_ascending x h).filter p).eq_of_mem_iff (List.pairwise_lt_range.filter _) fun l => ?_
  simp only [List.mem_filter, List.mem_range, Bool.and_eq_true, decide_eq_true_eq]
  exact ⟨fun hl => ⟨hn l hl.1 hl.2, hl⟩, fun hl => hl.2⟩

/-- The terms that pass a test, added up. -/
theorem foldl_add_filter_range {α : Type} [AddCommMonoid α] (p : Nat → Bool) (f : Nat → α) (n : Nat) :
    ((List.range n).filter p).foldl (fun m k => m + f k) 0 = ∑ k ∈ Finset.range n, if p k then f k else 0 := by
  induction n with
  | zero => rfl
  | succ n ih =>
    rw [List.range_succ, List.filter_append, List.foldl_append, ih, Finset.sum_range_succ, List.filter_singleton]
    cases p n <;> simp

end Sys2Proof.Lanes
end

section
/-! LRED and LSCAN (R46, R138): under addition a node of the tree is the sum over its lanes, and what LSCAN gives a lane
the sum over the nodes that tile the lanes up to it. -/

namespace Sys2Proof.Lanes

open Sys2Proof Sys2Proof.Machine Sys2Proof.Laws

/-! The levels of the tree -/

/-- The nodes of level `k` over the leaves `l`. -/
def treeLevel (op : RedOp) (l : List (Word × Word)) (k : Nat) : List (Word × Word) := (redLevel op)^[k] l

/-- Node `i` of level `k`. -/
def treeNode (op : RedOp) (l : List (Word × Word)) (k i : Nat) : Word × Word := (treeLevel op l k).getD i (0, 0)

theorem treeLevel_succ (op : RedOp) (l : List (Word × Word)) (k : Nat) :
    treeLevel op l (k + 1) = redLevel op (treeLevel op l k) := Function.iterate_succ_apply' _ _ _

theorem foldl_redLevel (op : RedOp) (l : List (Word × Word)) (n : Nat) :
    (List.range n).foldl (fun ls _ => ls ++ [redLevel op (ls.getLastD [])]) [l] =
      (List.range (n + 1)).map (treeLevel op l) := by
  induction n with
  | zero => rfl
  | succ n ih =>
    rw [List.range_succ (n := n), List.foldl_append, ih, List.range_succ (n := n + 1), List.map_append, List.foldl_cons,
      List.foldl_nil, List.map_singleton, treeLevel_succ, List.range_succ (n := n)]
    simp

theorem redLevels_getD (op : RedOp) (l : List (Word × Word)) {k : Nat} (hk : k < 6) :
    (redLevels op l).getD k [] = treeLevel op l k := by
  rw [redLevels, foldl_redLevel, List.getD_eq_getElem?_getD, List.getElem?_map, List.getElem?_range hk]
  rfl

theorem length_redLevel (op : RedOp) (l : List (Word × Word)) : (redLevel op l).length = (l.length + 1) / 2 := by
  induction l using redLevel.induct with
  | case1 a b r ih => simp only [redLevel, List.length_cons, ih]; omega
  | case2 l hl =>
    match l, hl with
    | [], _ => simp [redLevel]
    | [_], _ => simp [redLevel]
    | a :: b :: r, hl => exact (hl a b r rfl).elim

theorem redLevel_getD (op : RedOp) {l : List (Word × Word)} {i : Nat} (hi : 2 * i + 1 < l.length) :
    (redLevel op l).getD i (0, 0) = redPair op (l.getD (2 * i) (0, 0)) (l.getD (2 * i + 1) (0, 0)) := by
  induction l using redLevel.induct generalizing i with
  | case1 a b r ih =>
    cases i with
    | zero => rfl
    | succ i => simpa [redLevel, Nat.mul_succ] using ih (i := i) (by simp only [List.length_cons] at hi; omega)
  | case2 l hl =>
    match l, hl with
    | [], _ => simp at hi
    | [_], _ => simp at hi
    | a :: b :: r, hl => exact (hl a b r rfl).elim

/-- The lanes of a node are those of its two children. -/
theorem children_le {i k n : Nat} (hi : (i + 1) * 2 ^ (k + 1) ≤ n) :
    (2 * i + 1) * 2 ^ k ≤ n ∧ (2 * i + 1 + 1) * 2 ^ k ≤ n := by
  have h2 : (i + 1) * 2 ^ (k + 1) = (2 * i + 1 + 1) * 2 ^ k := by ring
  exact ⟨(Nat.mul_le_mul_right _ (by omega)).trans (h2 ▸ hi), h2 ▸ hi⟩

/-- A level has every node whose lanes there are. -/
theorem lt_length_treeLevel (op : RedOp) (l : List (Word × Word)) {k i : Nat} (hi : (i + 1) * 2 ^ k ≤ l.length) :
    i < (treeLevel op l k).length := by
  induction k generalizing i with
  | zero => simpa [treeLevel] using hi
  | succ k ih =>
    have := ih (children_le hi).2
    rw [treeLevel_succ, length_redLevel]
    omega

theorem treeNode_succ (op : RedOp) (l : List (Word × Word)) {k i : Nat} (hi : (i + 1) * 2 ^ (k + 1) ≤ l.length) :
    treeNode op l (k + 1) i = redPair op (treeNode op l k (2 * i)) (treeNode op l k (2 * i + 1)) := by
  rw [treeNode, treeLevel_succ]
  exact redLevel_getD op (lt_length_treeLevel op l (children_le hi).2)

/-! Sums over the lanes of a node -/

section
variable {t : IType} {j : Nat} (hj : j < 64 / t.bits)
include hj

theorem el_redPair_add (a b : Word × Word) :
    el t.bits j (redPair (.add t) a b).1 = el t.bits j a.1 + el t.bits j b.1 := by
  refine (el_ofSubs (bits_cases t) _ _ hj).trans ?_
  apply BitVec.eq_of_toNat_eq
  simp [redWidth, redNode, hj, sub_eq, List.getD_eq_getElem?_getD]

theorem el_treeNode_add (l : List (Word × Word)) {k i : Nat} (hi : (i + 1) * 2 ^ k ≤ l.length) :
    el t.bits j (treeNode (.add t) l k i).1 = ∑ m ∈ Finset.range (2 ^ k), el t.bits j (l.getD (i * 2 ^ k + m) (0, 0)).1 := by
  induction k generalizing i with
  | zero => simp [treeNode, treeLevel]
  | succ k ih =>
    rw [treeNode_succ _ _ hi, el_redPair_add hj, ih (children_le hi).1, ih (children_le hi).2,
      pow_succ, Nat.mul_two, Finset.sum_range_add]
    congr 1 <;> refine Finset.sum_congr rfl fun m _ => ?_ <;> congr 3 <;> ring

end

/-! The nodes that tile the lanes up to one -/

/-- One step of `redPrefix`: node `pos / 2^k` of level `k` joins when its lanes are all at most `i`. -/
def prefixStep (op : RedOp) (ls : List (List (Word × Word))) (i : Nat) (a : Option (Word × Word) × Nat) (j : Nat) :
    Option (Word × Word) × Nat :=
  let k := 5 - j
  if a.2 + 2 ^ k - 1 ≤ i then
    let n := (ls.getD k []).getD (a.2 / 2 ^ k) (0, 0)
    (some (match a.1 with
      | none => n
      | some x => redPair op x n), a.2 + 2 ^ k)
  else a

theorem redPrefix_eq (op : RedOp) (ls : List (List (Word × Word))) (i : Nat) :
    redPrefix op ls i = ((List.range 6).foldl (prefixStep op ls i) (none, 0)).1.getD (0, 0) := rfl

/-- Before level `k − 1`, nodes of the levels from `k` tile the lanes below `a.2`; fewer than `2^k` lanes are left, and
what has been joined is the sum over the lanes so far. -/
structure Tiled (t : IType) (j : Nat) (l : List (Word × Word)) (i k : Nat) (a : Option (Word × Word) × Nat) : Prop where
  le : a.2 ≤ i + 1
  left : i + 1 < a.2 + 2 ^ k
  aligned : 2 ^ k ∣ a.2
  started : a.1 = none → a.2 = 0
  sum : ∀ v, a.1 = some v → el t.bits j v.1 = ∑ m ∈ Finset.range a.2, el t.bits j (l.getD m (0, 0)).1

theorem tiled_step {t : IType} {j : Nat} (hj : j < 64 / t.bits) {l : List (Word × Word)} {i k : Nat} (hi : i < l.length)
    (hk : k < 6) {a : Option (Word × Word) × Nat} (ha : Tiled t j l i (k + 1) a) :
    Tiled t j l i k (prefixStep (.add t) (redLevels (.add t) l) i a (5 - k)) := by
  obtain ⟨acc, pos⟩ := a
  obtain ⟨hle, hleft, ⟨q, hq⟩, hstart, hsum⟩ := ha
  simp only [pow_succ] at hle hleft hq hstart hsum
  have hpow := Nat.two_pow_pos k
  have hpos : pos / 2 ^ k * 2 ^ k = pos := Nat.div_mul_cancel ⟨2 * q, by rw [hq]; ring⟩
  have h5 : 5 - (5 - k) = k := by omega
  simp only [prefixStep, h5]
  split
  next hfit =>
    have hnode := el_treeNode_add hj l (k := k) (i := pos / 2 ^ k) (by rw [Nat.succ_mul, hpos]; omega)
    rw [hpos] at hnode
    rw [redLevels_getD _ _ hk]
    refine ⟨by simp only; omega, by simp only; omega, ⟨2 * q + 1, by simp only; rw [hq]; ring⟩, nofun, fun v hv => ?_⟩
    cases hv
    cases acc with
    | none =>
      obtain rfl := hstart rfl
      simpa [treeNode] using hnode
    | some w => rw [el_redPair_add hj, hsum w rfl, Finset.sum_range_add]; exact congrArg _ hnode
  next hfit => exact ⟨hle, by simp only; omega, ⟨2 * q, by simp only; rw [hq]; ring⟩, hstart, hsum⟩

/-- What LSCAN gives lane `i` is the sum over the lanes up to `i`. -/
theorem el_redPrefix_add {t : IType} {j : Nat} (hj : j < 64 / t.bits) {l : List (Word × Word)} (hl : l.length ≤ 32) {i : Nat}
    (hi : i < l.length) : el t.bits j (redPrefix (.add t) (redLevels (.add t) l) i).1 =
      ∑ m ∈ Finset.range (i + 1), el t.bits j (l.getD m (0, 0)).1 := by
  have h0 : Tiled t j l i 6 (none, 0) := ⟨by simp, by simp only; omega, by simp, fun _ => rfl, nofun⟩
  have h6 : Tiled t j l i 0 ((List.range 6).foldl (prefixStep (.add t) (redLevels (.add t) l) i) (none, 0)) :=
    tiled_step hj hi (k := 0) (by decide) <| tiled_step hj hi (k := 1) (by decide) <| tiled_step hj hi (k := 2) (by decide) <|
      tiled_step hj hi (k := 3) (by decide) <| tiled_step hj hi (k := 4) (by decide) <| tiled_step hj hi (k := 5) (by decide) h0
  rw [redPrefix_eq]
  generalize (List.range 6).foldl (prefixStep (.add t) (redLevels (.add t) l) i) (none, 0) = a at h6
  obtain ⟨acc, pos⟩ := a
  obtain ⟨hle, hleft, -, hstart, hsum⟩ := h6
  obtain rfl : pos = i + 1 := by simp only [pow_zero] at hle hleft; omega
  cases acc with
  | none => cases hstart rfl
  | some v => exact hsum v rfl

/-! The leaves of a word's tree -/

/-- What the lanes contribute: the identity where they are inactive. -/
def leaves (x : Iss) (op : RedOp) (a : VCode) (act : List Nat) : List (Word × Word) :=
  (List.range 32).map fun l => (if act.contains l then x.v a l else ofSubs (redWidth op) fun _ => redIdentity op, 0)

theorem tree_eq (x : Iss) (op : RedOp) (a : VCode) (act : List Nat) : x.tree op a act = redLevels op (leaves x op a act) := rfl

theorem length_leaves (x : Iss) (op : RedOp) (a : VCode) (act : List Nat) : (leaves x op a act).length = 32 := by simp [leaves]

theorem el_leaves_add {x : Iss} {t : IType} {a : VCode} {act : List Nat} {j l : Nat} (hj : j < 64 / t.bits) (hl : l < 32) :
    el t.bits j ((leaves x (.add t) a act).getD l (0, 0)).1 = if l ∈ act then el t.bits j (x.v a l) else 0 := by
  have : el t.bits j (ofSubs t.bits fun _ => 0) = 0 := by rw [el_ofSubs (bits_cases t) _ _ hj]; rfl
  simp only [leaves, List.getD_eq_getElem?_getD, List.getElem?_map, List.getElem?_range hl, List.contains_iff_mem]
  split <;> simp [*, redWidth, redIdentity]

/-- The sum over the active lanes up to `i`. -/
theorem sum_leaves {x : Iss} {h : Hd} {t : IType} {a : VCode} {j i : Nat} (hj : j < 64 / t.bits) (hi : i < 32) :
    ∑ m ∈ Finset.range (i + 1), el t.bits j ((leaves x (.add t) a (x.active h)).getD m (0, 0)).1 =
      ((x.active h).filter (· ≤ i)).foldl (fun m k => m + el t.bits j (x.v a k)) 0 := by
  rw [active_filter_eq x h (n := i + 1) fun l _ hl => Nat.lt_succ_of_le (by simpa using hl), foldl_add_filter_range]
  refine Finset.sum_congr rfl fun m hm => ?_
  have hm : m ≤ i := Nat.lt_succ_iff.1 (Finset.mem_range.1 hm)
  rw [el_leaves_add hj (by omega)]
  simp [hm]

/-- The sum over all active lanes. -/
theorem el_root_add {x : Iss} {h : Hd} {t : IType} {a : VCode} {j : Nat} (hj : j < 64 / t.bits) :
    el t.bits j (((x.tree (.add t) a (x.active h)).getD 5 []).getD 0 (0, 0)).1 =
      (x.active h).foldl (fun m k => m + el t.bits j (x.v a k)) 0 := by
  have hall : (x.active h).filter (· ≤ 31) = x.active h :=
    List.filter_eq_self.2 fun l hl => by simpa using Nat.lt_succ_iff.1 (active_lt hl)
  have hnode := el_treeNode_add hj (leaves x (.add t) a (x.active h)) (k := 5) (i := 0) (by rw [length_leaves]; decide)
  have hsum := sum_leaves (x := x) (h := h) (a := a) hj (i := 31) (by decide)
  simp only [Nat.zero_mul, Nat.zero_add, Nat.reducePow] at hnode
  rw [hall] at hsum
  rw [tree_eq, redLevels_getD _ _ (by decide), ← hsum]
  exact hnode

/-- Settles O18: both words write what the tree gives; under addition a node is the sum over its lanes. -/
theorem reductions : Obligations.Reductions := by
  intro x h d a hx
  have lred (op : RedOp) := lane_done (x := x) (i := .lred h d a op) (h := h) (d := some d) (b := false) hx rfl rfl
  have lscan (op : RedOp) := lane_done (x := x) (i := .lscan h d a op) (h := h) (d := some d) (b := false) hx rfl rfl
  refine ⟨lred, lscan, fun t hr => ?_, fun t hr => ?_⟩
  · obtain ⟨v, he, -, hv⟩ := lred (.add t) hr
    exact ⟨v, he, fun l hl j hj => by rw [hv.value _ rfl l hl]; exact el_root_add hj⟩
  · obtain ⟨v, he, -, hv⟩ := lscan (.add t) hr
    refine ⟨v, he, fun l hl j hj => ?_⟩
    have hi := active_lt hl
    rw [hv.value _ rfl l hl, ← sum_leaves hj hi]
    exact el_redPrefix_add hj (length_leaves ..).le (hi.trans_eq (length_leaves ..).symm)

end Sys2Proof.Lanes
end

section
/-! Lane moves, votes and the generator (R133 to R137, R139 to R141), and words that write all 32 lanes of a register. -/

namespace Sys2Proof.Lanes

open Sys2Proof Sys2Proof.Machine Sys2Proof.Laws

/-! Sticky bits of all lanes together -/

theorem foldl_or_ite (c : Word) (P : Nat → Prop) [DecidablePred P] (ls : List Nat) :
    ls.foldl (fun m l => m ||| if P l then c else 0) 0 = if ∃ l ∈ ls, P l then c else 0 := by
  induction ls using List.reverseRecOn with
  | nil => simp
  | append_singleton ls a ih =>
    rw [List.foldl_append, ih]
    by_cases hls : ∃ l ∈ ls, P l <;> by_cases ha : P a <;> simp [hls, ha]

/-- Lanes that raise nothing raise nothing together. -/
theorem foldl_or_zero (ls : List Nat) : ls.foldl (fun (m : Word) _ => m ||| 0) 0 = 0 := by
  simpa only [ite_self] using foldl_or_ite 0 (fun _ => True) ls

/-! Registers written in all 32 lanes -/

/-- A register written whole, with sticky bits, by a word that writes no flags. -/
theorem writeV_result (x : Iss) (h : Hd) (hX : h.x = 0) {lat : Nat} (hl : 0 < lat) (d : VCode) (f : Nat → Word) (st : Word) :
    VecResult x h lat (List.range 32) (some d.toNat) (fun l r => r = f l) (fun _ => 0) st
      ((x.w.writeV x.frame x.clk lat d.toNat ((List.range 32).map fun l => (l, f l))).raise (x.clk + lat) st) := by
  have hst : (List.range 32).foldl (fun (m : Word) _ => m ||| st) 0 = st := by
    simpa only [if_true] using (foldl_or_ite st (fun _ => True) (List.range 32)).trans (if_pos ⟨0, by simp⟩)
  have key := (putLanes_result x h lat hl (List.range 32) List.nodup_range (some d) fun l => { r := f l, fl := 0, st := st }).2
  have hx4 : ¬ 4 ≤ h.x.toNat := by simp [hX]
  simp only [Iss.putLanes, hx4, if_false, List.map_map, Function.comp_def, List.foldl_map, hst] at key
  exact key

/-! Moves -/

/-- A word that only moves data between lanes. -/
theorem move_of {x : Iss} {i : Instr} {h : Hd} {d : VCode} {g : Iss → Nat → Word} {res : Nat → Word → Prop} (hx : x.live)
    (he : exec i x.s = moveOp i h d g x.s) (hg : ∀ l, res l (g x l)) : x.move i h d res := by
  intro hr _
  obtain ⟨v, hv, hctr, hres⟩ := lane_of (r := fun l => { r := g x l, fl := 0, st := 0 }) hx he (fun _ => rfl) (by decide) hr
  refine ⟨v, hv, hctr, vecResult_mono hres ?_ (fun _ _ => rfl) (foldl_or_zero _)⟩
  rintro l - _ rfl
  exact hg l

/-! LPUT (R135) -/

/-- The last of the pairs of a list, in its order, that passes a test. -/
theorem find?_reverse_eq {α : Type} {R : α → α → Prop} {p : α → Bool} {ls : List α} (hs : ls.Pairwise R) {q : α} (hq : q ∈ ls)
    (hp : p q = true) (hlast : ∀ r ∈ ls, R q r → p r = false) : ls.reverse.find? p = some q := by
  obtain ⟨before, after, rfl⟩ := List.append_of_mem hq
  have hR : ∀ r ∈ after, R q r := fun r hr => (List.pairwise_cons.1 (List.pairwise_append.1 hs).2.1).1 r hr
  refine List.find?_eq_some_iff_append.2 ⟨hp, after.reverse, before.reverse, by simp, fun r hr => ?_⟩
  have hr : r ∈ after := List.mem_reverse.1 hr
  simp [hlast r (by simp [hr]) (hR r hr)]

/-- The sub-elements that LPUT scatters, in the order of their writes. -/
def sources (t : IType) (act : List Nat) : List (Nat × Nat) := act.flatMap fun l => (List.range (64 / t.bits)).map (Prod.mk l)

theorem mem_sources {t : IType} {act : List Nat} {l j : Nat} : (l, j) ∈ sources t act ↔ l ∈ act ∧ j < 64 / t.bits := by
  simp [sources]

/-- A write comes before another. -/
def before (p q : Nat × Nat) : Prop := p.1 < q.1 ∨ p.1 = q.1 ∧ p.2 < q.2

theorem sources_ordered (t : IType) {act : List Nat} (ha : act.Pairwise (· < ·)) : (sources t act).Pairwise before := by
  refine List.pairwise_flatMap.2 ⟨fun l _ => List.pairwise_map.2 ?_, ha.imp fun hlm p hp q hq => ?_⟩
  · exact List.pairwise_lt_range.imp fun hij => .inr ⟨rfl, hij⟩
  · obtain ⟨i, -, rfl⟩ := List.mem_map.1 hp
    obtain ⟨j, -, rfl⟩ := List.mem_map.1 hq
    exact .inl hlm

/-- Sub-element `p.2` of lane `p.1` goes to sub-element `n` of lane `k`. -/
def names (x : Iss) (b : VCode) (t : IType) (p : Nat × Nat) (k n : Nat) : Prop :=
  (el t.bits p.2 (x.v b p.1)).toNat % 32 = k ∧ (el t.bits p.2 (x.v b p.1)).toNat / 32 % (64 / t.bits) = n

/-- The place that a write names, as one number. -/
def place (x : Iss) (b : VCode) (t : IType) (p : Nat × Nat) : Nat :=
  sub t.bits (x.v b p.1) p.2 % 32 * (64 / t.bits) + sub t.bits (x.v b p.1) p.2 / 32 % (64 / t.bits)

theorem place_eq_iff {x : Iss} {b : VCode} {t : IType} {p : Nat × Nat} {k n : Nat} (hn : n < 64 / t.bits) :
    place x b t p = k * (64 / t.bits) + n ↔ names x b t p k n := by
  rw [place, names, sub_eq]
  generalize (el t.bits p.2 (x.v b p.1)).toNat = i
  have hpos := Integers.subs_pos t
  generalize 64 / t.bits = m at *
  have hm := Nat.mod_lt (i / 32) hpos
  constructor
  · intro h
    have hdiv := congrArg (· / m) h
    have hmod := congrArg (· % m) h
    simp only [Nat.mod_eq_of_lt hn, Nat.mod_eq_of_lt hm, Nat.mul_comm _ m, Nat.mul_add_div hpos,
      Nat.div_eq_of_lt hn, Nat.div_eq_of_lt hm, Nat.mul_add_mod] at hdiv hmod
    exact ⟨by simpa using hdiv, by simpa using hmod⟩
  · rintro ⟨rfl, rfl⟩; rfl

/-- What LPUT leaves in sub-element `n` of lane `k`: the value of the last write that names it, else what was there. -/
def putSub (x : Iss) (d a b : VCode) (t : IType) (act : List Nat) (k n : Nat) : Nat :=
  (((sources t act).reverse.find? fun p => place x b t p == k * (64 / t.bits) + n).map
    fun p => sub t.bits (x.v a p.1) p.2).getD (sub t.bits (x.vreg d.toNat k) n)

theorem lput_done {x : Iss} {h : Hd} {d a b : VCode} {t : IType} (hx : x.live) (hr : x.ready (usesOf (.lput h d a b t)) h) :
    exec (.lput h d a b t) x.s = .next (x.afterV (.lput h d a b t) h (x.w.writeV x.frame x.clk 8 d.toNat
      ((List.range 32).map fun k => (k, ofSubs t.bits (putSub x d a b t (x.active h) k))))) := by
  refine Control.word_done hx hr rfl ?_
  have hw : ((x.active h).flatMap fun l => (List.range (64 / t.bits)).map fun j =>
      (sub t.bits (x.v b l) j % 32 * (64 / t.bits) + sub t.bits (x.v b l) j / 32 % (64 / t.bits), sub t.bits (x.v a l) j)) =
      (sources t (x.active h)).map fun p => (place x b t p, sub t.bits (x.v a p.1) p.2) := by
    simp [sources, List.map_flatMap, Function.comp_def, place]
  simp only [hw, ← List.map_reverse, List.find?_map, Option.map_map, Function.comp_def]
  rfl

theorem putSub_named {x : Iss} {h : Hd} {d a b : VCode} {t : IType} {k n l j : Nat} (hn : n < 64 / t.bits)
    (hl : l ∈ x.active h) (hj : j < 64 / t.bits) (hnamed : names x b t (l, j) k n)
    (hlast : ∀ m ∈ x.active h, ∀ i < 64 / t.bits, names x b t (m, i) k n → m < l ∨ m = l ∧ i ≤ j) :
    putSub x d a b t (x.active h) k n = sub t.bits (x.v a l) j := by
  rw [putSub, find?_reverse_eq (sources_ordered t (Control.active_ascending x h)) (mem_sources.2 ⟨hl, hj⟩)
    (by simpa using (place_eq_iff hn).2 hnamed)]
  · rfl
  · rintro ⟨m, i⟩ hmi hafter
    obtain ⟨hm, hi⟩ := mem_sources.1 hmi
    refine beq_false_of_ne fun he => ?_
    have := hlast m hm i hi ((place_eq_iff hn).1 he)
    simp only [before] at hafter
    omega

theorem putSub_unnamed {x : Iss} {h : Hd} {d a b : VCode} {t : IType} {k n : Nat} (hn : n < 64 / t.bits)
    (hno : ∀ l ∈ x.active h, ∀ j < 64 / t.bits, ¬ names x b t (l, j) k n) :
    putSub x d a b t (x.active h) k n = sub t.bits (x.vreg d.toNat k) n := by
  have hnone : (sources t (x.active h)).reverse.find? (fun p => place x b t p == k * (64 / t.bits) + n) = none := by
    refine List.find?_eq_none.2 fun p hp he => ?_
    obtain ⟨hl, hj⟩ := mem_sources.1 (List.mem_reverse.1 hp)
    exact hno p.1 hl p.2 hj ((place_eq_iff hn).1 (by simpa using he))
  rw [putSub, hnone]
  rfl

/-! Votes (R139) -/

/-- A vote's number as the word it stands for, with Z. -/
theorem vote_eq {n : Nat} {r : Word} (h : n = r.toNat) :
    ({ r := wd n, fl := mkFlags false (n == 0) false false, st := 0 } : LaneRes) =
      { r := r, fl := if r = 0 then 0b0100#4 else 0, st := 0 } := by
  have hz : (n == 0) = decide (r = 0) := by rw [h, Bool.eq_iff_iff]; simp [BitVec.toNat_eq]
  rw [hz, h, wd, BitVec.ofNat_toNat, BitVec.setWidth_eq]
  by_cases hr : r = 0
  · subst hr; rfl
  · simp only [hr, decide_false, if_false]; rfl

/-- The ballot's sum of powers lists the lanes bit by bit. -/
theorem ballot_eq (x : Iss) (h : Hd) (p : Nat → Bool) : (((x.active h).filter p).map fun l => 2 ^ l).sum =
    (BitVec.ofBoolListLE ((List.range 64).map fun l => decide (l ∈ x.active h) && p l) : Word).toNat := by
  rw [active_filter_eq x h (n := 64) fun l hl _ => (active_lt hl).trans (by decide), List.sum_eq_foldl, List.foldl_map]
  exact Integers.foldl_two_pow_eq_toNat _ fun l hl =>
    (Integers.getLsbD_ofBoolListLE_range (fun l => decide (l ∈ x.active h) && p l) hl).symm

/-- The number of a vote. -/
def voteNum (x : Iss) (h : Hd) (a : VCode) : VoteMode → Nat
  | .any => b2n ((x.active h).any fun l => x.v a l != 0)
  | .all => b2n ((x.active h).all fun l => x.v a l != 0)
  | .ballot => (((x.active h).filter fun l => x.v a l != 0).map fun l => 2 ^ l).sum

theorem vote_of {x : Iss} {h : Hd} {d a : VCode} {m : VoteMode} {r : Word} (hx : x.live) (hr : voteNum x h a m = r.toNat) :
    x.lane (.lvote h d a m) h 8 (some d) (fun _ => { r := r, fl := if r = 0 then 0b0100#4 else 0, st := 0 }) false := by
  rw [← vote_eq hr]
  exact lane_done hx rfl (by cases m <;> rfl)

/-- A truth value as a number and as a word. -/
theorem b2n_eq_ite {b : Bool} {P : Prop} [Decidable P] (h : b = true ↔ P) : b2n b = (if P then 1 else 0 : Word).toNat := by
  by_cases hP : P
  · rw [if_pos hP, h.2 hP]; rfl
  · rw [if_neg hP, Bool.eq_false_iff.2 (mt h.1 hP)]; rfl

/-- Settles O17: moves and votes are lane operations; of the writes that name a sub-element, LPUT's last stands. -/
theorem laneWords : Obligations.LaneWords := by
  intro x h hx
  refine ⟨fun d a b t => move_of hx rfl fun l j hj => ?_, fun d a b t hr hX => ?_,
    fun _ _ _ _ => move_of hx rfl fun _ => rfl, fun _ _ _ _ => move_of hx rfl fun _ => rfl,
    fun _ _ _ _ => move_of hx rfl fun _ => rfl, fun _ _ _ => move_of hx rfl fun _ => rfl,
    fun _ _ _ => move_of hx rfl fun _ => rfl, fun _ _ => vote_of hx (b2n_eq_ite (by simp)),
    fun _ _ => vote_of hx (b2n_eq_ite (by simp)), fun _ _ => vote_of hx (ballot_eq x h _),
    fun _ => lane_done hx rfl rfl, fun _ _ hr => Control.word_done hx hr rfl rfl⟩
  · simp only [el_ofSubs (bits_cases t) _ _ hj, sub_eq, BitVec.ofNat_toNat, BitVec.setWidth_eq]
  · have hput := writeV_result x h hX (lat := 8) (by decide) d (fun k => ofSubs t.bits (putSub x d a b t (x.active h) k)) 0
    refine ⟨_, lput_done hx hr, rfl, vecResult_mono hput ?_ (fun _ _ => rfl) rfl⟩
    rintro k - _ rfl n hn
    rw [el_ofSubs (bits_cases t) _ _ hn]
    refine ⟨fun l hl j hj hnamed hlast => ?_, fun hno => ?_⟩
    · rw [putSub_named hn hl hj hnamed hlast, sub_eq, BitVec.ofNat_toNat, BitVec.setWidth_eq]
    · rw [putSub_unnamed hn hno, sub_eq, BitVec.ofNat_toNat, BitVec.setWidth_eq]
end Sys2Proof.Lanes
end

section
/-! PACK and UNPK (R130). -/

namespace Sys2Proof.Lanes

open Sys2Proof Sys2Proof.Machine Sys2Proof.Laws Sys2Proof.Numbers

theorem packSource_eq (t : IType) (a b : Word) (j : Nat) : tInt (2 * t.bits) (isSigned t)
    (if j < 32 / t.bits then sub (2 * t.bits) a j else sub (2 * t.bits) b (j - 32 / t.bits)) = packSource t a b j := by
  have hw : 0 < 2 * t.bits := Nat.mul_pos (by decide) (bits_pos t)
  unfold packSource
  split <;> rw [sub_eq, tInt_eq hw]

/-- What PACK gives a lane: saturated sub-elements, V and OVF where one lay outside. -/
def packLane (t : IType) (a b : Word) : LaneRes :=
  { r := ofSubs t.bits fun j => (saturated t (packSource t a b j)).1.toNat
    fl := szcv (saturated t (packSource t a b 0)).1 false (saturated t (packSource t a b 0)).2
    st := if (List.range (64 / t.bits)).any fun j => (saturated t (packSource t a b j)).2 then OVF else 0 }

theorem pack_lane {x : Iss} (hx : x.live) (h : Hd) (d a b : VCode) (t : IType) :
    x.lane (.pack h d a b t) h 6 (some d) (fun l => packLane t (x.v a l) (x.v b l)) false := by
  refine lane_of hx rfl fun l => ?_
  simp only [packSource_eq, wrap_eq, ← Bool.decide_or, intFlags_eq (bits_pos t)]
  rfl

theorem widened_eq (t : IType) (p : BitVec t.bits) :
    wrap (2 * t.bits) (tInt t.bits (isSigned t) p.toNat) = (widened t p).toNat := by
  rw [wrap_eq, tInt_eq (bits_pos t), widened]
  split
  · rfl
  · simp

/-- What UNPK gives a lane. -/
def unpkLane (t : IType) (p : BitVec 1) (a : Word) : LaneRes :=
  { r := ofSubs (2 * t.bits) fun j => (widened t (el t.bits (p.toNat * (32 / t.bits) + j) a)).toNat
    fl := szcv (widened t (el t.bits (p.toNat * (32 / t.bits)) a)) false false
    st := 0 }

theorem unpk_lane {x : Iss} (hx : x.live) (h : Hd) (d a : VCode) (p : BitVec 1) (t : IType) :
    x.lane (.unpk h d a p t) h 6 (some d) (fun l => unpkLane t p (x.v a l)) false := by
  refine lane_of hx rfl fun l => ?_
  simp only [sub_eq, widened_eq, intFlags_eq (Nat.mul_pos (by decide : 0 < 2) (bits_pos t))]
  rfl

theorem double_bits {t : IType} (ht : t.bits < 64) : 2 * t.bits = 8 ∨ 2 * t.bits = 16 ∨ 2 * t.bits = 32 ∨ 2 * t.bits = 64 := by
  have := bits_cases t
  omega

end Sys2Proof.Lanes
end

section
/-! QNT and DQNT (R43, R44, R131, R132), CVT (R129). -/

namespace Sys2Proof.Lanes

open Sys2Proof Sys2Proof.Machine Sys2Proof.Laws

/-! QNT -/

/-- Element `e` of QNT's source. -/
def quantElem (x : Iss) (a : VCode) (f : FType) (e : Nat) : Fv :=
  let p := elemAt f e
  fDecode f (el (fWidth f) p.2.2.1 (if f == .f32 then x.vreg (a.toNat + p.1) p.2.1 else x.v a p.2.1)).toNat

/-- The codes, exponent words and sticky bits of QNT. -/
def quantImage (x : Iss) (a : VCode) (x4 : Bool) (f : FType) (l : BitVec 2) (dd : BitVec 4) (rm : Rm) :
    List Nat × List Nat × Word :=
  (dxb x4).image rm (16 * 2 ^ l.toNat) (if dd = 0 then (if x4 then 2 else 4) else dd.toNat)
    ((List.range 128).map (quantElem x a f)) fun e => drawBits (x.w.draw (elemAt f e).2.1) 4 (elemAt f e).2.2.2

/-- QNT writes the 256 bytes of the image over its destination. -/
theorem qnt_done {x : Iss} {h : Hd} {d a : VCode} {x4 : Bool} {f : FType} {l : BitVec 2} {dd : BitVec 4} {rm : Rm}
    (hx : x.live) (hr : x.ready (usesOf (.qnt h d a x4 f l dd rm)) h) {img : List Nat × List Nat × Word}
    (himg : quantImage x a x4 f l dd rm = img) :
    exec (.qnt h d a x4 f l dd rm) x.s = .next (x.after (.qnt h d a x4 f l dd rm) h (.vfix (if f == .f32 then 8 else 4))
      (x.active h).length x.s (drawn (rm == .sr) ((x.w.writeV x.frame x.clk 12 d.toNat ((List.range 32).map fun i =>
        (i, leWord (((imageBytes x4 img.1 img.2.1).drop (8 * i)).take 8)))).raise (x.clk + 12) img.2.2)) .next) := by
  subst himg
  refine Control.word_done hx hr rfl ?_
  simp only [sub_eq]
  rfl

/-! DQNT -/

/-- Byte `n` of the image in a register. -/
def imageByte (x : Iss) (a : VCode) (n : Nat) : Nat := (el 8 (n % 8) (x.v a (n / 8))).toNat

theorem imageByte_lt (x : Iss) (a : VCode) (n : Nat) : imageByte x a n < 256 := (el 8 (n % 8) (x.v a (n / 8))).isLt

/-- The bytes of the image in a register, listed. -/
def imageList (x : Iss) (a : VCode) : List Nat := (List.range 256).map fun i => fld (x.v a (i / 8)) (8 * (i % 8)) 8

theorem imageList_getD (x : Iss) (a : VCode) {n : Nat} (hn : n < 256) : (imageList x a).getD n 0 = imageByte x a n := by
  rw [imageList, List.getD_eq_getElem?_getD, List.getElem?_map, List.getElem?_range hn]
  exact sub_eq 8 _ _

/-- Element `e` decoded from the listed bytes of an image, as `execDqnt` does it. -/
def decodedElem (x : Iss) (img : List Nat) (x4 : Bool) (f : FType) (l : BitVec 2) (rm : Rm) (e : Nat) : FRes :=
  let len := 16 * 2 ^ l.toNat
  let base := if x4 then 64 else 128
  let code := if x4 then img.getD (e / 2) 0 / (if e % 2 = 0 then 1 else 16) % 16 else img.getD e 0
  let exp := img.getD (base + 2 * (e / len)) 0 + 256 * img.getD (base + 2 * (e / len) + 1) 0
  let p := elemAt f e
  match (dxb x4).decode exp code with
  | none => { r := 0, st := INV }
  | some (.fin sg m ex) => fRound f rm (drawBits (x.w.draw p.2.1) 4 p.2.2.2) sg m ex
  | some _ => { r := 0, st := 0 }

theorem decodedElem_eq (x : Iss) (a : VCode) (x4 : Bool) (f : FType) (l : BitVec 2) (rm : Rm) {e : Nat} (he : e < 128) :
    decodedElem x (imageList x a) x4 f l rm e = x.dequantised a x4 f l rm e := by
  have hblock : e / (16 * 2 ^ l.toNat) ≤ 7 := by
    have h16 : 16 ≤ 16 * 2 ^ l.toNat := Nat.le_mul_of_pos_right _ (Nat.two_pow_pos _)
    exact (Nat.div_le_div_left h16 (by decide)).trans (by omega)
  have hbase : (if x4 then 64 else 128) ≤ 128 := by cases x4 <;> decide
  have hcode : (if x4 then (imageList x a).getD (e / 2) 0 / (if e % 2 = 0 then 1 else 16) % 16 else (imageList x a).getD e 0) =
      if x4 then (if e % 2 = 0 then imageByte x a (e / 2) % 16 else imageByte x a (e / 2) / 16) else imageByte x a e := by
    have hb := imageByte_lt x a (e / 2)
    rw [imageList_getD x a (by omega), imageList_getD x a (by omega)]
    split_ifs
    · rw [Nat.div_one]
    · exact Nat.mod_eq_of_lt (by omega)
    · rfl
  simp only [decodedElem, hcode]
  rw [imageList_getD x a (by omega), imageList_getD x a (by omega)]
  rfl

/-- Lane `i` of register `r` of DQNT's result. -/
def dqntLane (vals : List FRes) (f : FType) (r i : Nat) : Word :=
  if f == .f32 then ofSubs 32 fun j => (vals.getD (64 * r + 2 * i + j) { r := 0, st := 0 }).r
  else ofSubs 16 fun j => (vals.getD (4 * i + j) { r := 0, st := 0 }).r

/-- The wave after DQNT has written its register, or two for .f32. -/
def dqntRegs (x : Iss) (d : VCode) (f : FType) (vals : List FRes) : Wave :=
  let w := x.w.writeV x.frame x.clk 6 d.toNat ((List.range 32).map fun i => (i, dqntLane vals f 0 i))
  if f == .f32 then w.writeV x.frame x.clk 6 (d.toNat + 1) ((List.range 32).map fun i => (i, dqntLane vals f 1 i)) else w

/-- The wave after DQNT. -/
def dqntWave (x : Iss) (d : VCode) (f : FType) (rm : Rm) (vals : List FRes) : Wave :=
  drawn (rm == .sr) ((dqntRegs x d f vals).raise (x.clk + 6) (vals.foldl (fun m v => m ||| v.st) 0))

theorem dqnt_done {x : Iss} {h : Hd} {d a : VCode} {x4 : Bool} {f : FType} {l : BitVec 2} {rm : Rm}
    (hx : x.live) (hr : x.ready (usesOf (.dqnt h d a x4 f l rm)) h) :
    exec (.dqnt h d a x4 f l rm) x.s = .next (x.after (.dqnt h d a x4 f l rm) h (.vfix (if f == .f32 then 8 else 4))
      (x.active h).length x.s (dqntWave x d f rm ((List.range 128).map (x.dequantised a x4 f l rm))) .next) := by
  have hvals : (List.range 128).map (decodedElem x (imageList x a) x4 f l rm) =
      (List.range 128).map (x.dequantised a x4 f l rm) :=
    List.map_congr_left fun e he => decodedElem_eq x a x4 f l rm (List.mem_range.1 he)
  rw [← hvals]
  exact Control.word_done hx hr rfl rfl

theorem dqntWave_ctr (x : Iss) (d : VCode) (f : FType) (rm : Rm) (vals : List FRes) :
    (dqntWave x d f rm vals).ctr = if rm == .sr then x.w.ctr + 1 else x.w.ctr := by
  have hctr : (dqntRegs x d f vals).ctr = x.w.ctr := by unfold dqntRegs; dsimp only; split <;> rfl
  rw [dqntWave, drawn_ctr, raise_ctr, hctr]

theorem dqntRegs_rest (x : Iss) (d : VCode) (f : FType) (vals : List FRes) :
    dqntRegs x d f vals = { x.w with win := (dqntRegs x d f vals).win, early := (dqntRegs x d f vals).early } := by
  unfold dqntRegs
  generalize ((List.range 32).map fun i => (i, dqntLane vals f 0 i)) = lanes0
  generalize ((List.range 32).map fun i => (i, dqntLane vals f 1 i)) = lanes1
  dsimp only
  split <;> rfl

theorem raise_rest (w : Wave) (due : Nat) (m : Word) : w.raise due m = { w with stk := (w.raise due m).stk } := by
  unfold Wave.raise; split <;> rfl

theorem drawn_rest (b : Bool) (w : Wave) : drawn b w = { w with ctr := (drawn b w).ctr } := by cases b <;> rfl

theorem dqntWave_rest (x : Iss) (d : VCode) (f : FType) (rm : Rm) (vals : List FRes) :
    dqntWave x d f rm vals = { x.w with
      win := (dqntWave x d f rm vals).win, early := (dqntWave x d f rm vals).early,
      stk := (dqntWave x d f rm vals).stk, ctr := (dqntWave x d f rm vals).ctr } := by
  unfold dqntWave
  have hregs := dqntRegs_rest x d f vals
  generalize dqntRegs x d f vals = w1 at hregs
  have hraise := raise_rest w1 (x.clk + 6) (vals.foldl (fun m v => m ||| v.st) 0)
  generalize w1.raise (x.clk + 6) (vals.foldl (fun m v => m ||| v.st) 0) = w2 at hraise
  rw [drawn_rest, hraise, hregs]

theorem dqntWave_win (x : Iss) (d : VCode) (f : FType) (rm : Rm) (vals : List FRes) :
    (dqntWave x d f rm vals).win = (dqntRegs x d f vals).win := by
  unfold dqntWave drawn
  split
  · exact raise_win ..
  · exact raise_win ..

/-! Registers written whole, one after another -/

theorem wget_writeV (w : Wave) (f : Frame) (clk lat n : Nat) (g : Nat → Word) {i : Nat} (hi : i < 32) :
    wget (w.writeV f clk lat n ((List.range 32).map fun i => (i, g i))).win (f.vslot n + i) = g i :=
  wget_foldl_mem _ _ _ (by simpa [List.map_map, Function.comp_def] using List.nodup_range) (i, g i)
    (List.mem_map_of_mem (List.mem_range.2 hi))

theorem wget_writeV_ne (w : Wave) (f : Frame) (clk lat n : Nat) (g : Nat → Word) {k : Nat} (hk : ∀ i < 32, k ≠ f.vslot n + i) :
    wget (w.writeV f clk lat n ((List.range 32).map fun i => (i, g i))).win k = wget w.win k := by
  refine wget_foldl_ne _ _ _ _ fun p hp => ?_
  obtain ⟨i, hi, rfl⟩ := List.mem_map.1 hp
  exact hk i (List.mem_range.1 hi)

theorem vslot_eq (f : Frame) (n : Nat) : f.vslot n = 32 * (viewV f.views + rename f.depth n) := by
  unfold Frame.vslot
  generalize viewV f.views = v
  omega

/-- Renaming moves names by multiples of 16 (Table 4.4). -/
theorem rename_mod (depth n : Nat) : rename depth n % 16 = n % 16 := by
  unfold rename
  split
  · rfl
  · split
    · split <;> omega
    · split <;> omega

/-- Renaming keeps neighbouring names apart. -/
theorem rename_succ_ne (depth n : Nat) : rename depth n ≠ rename depth (n + 1) := by
  intro h
  have h0 := rename_mod depth n
  have h1 := rename_mod depth (n + 1)
  omega

theorem vslot_succ_ne (f : Frame) (n : Nat) {i k : Nat} (hi : i < 32) (hk : k < 32) : f.vslot n + i ≠ f.vslot (n + 1) + k := by
  have := rename_succ_ne f.depth n
  rw [vslot_eq, vslot_eq]
  omega

/-! The lanes that DQNT writes -/

theorem el_dqntLane (g : Nat → FRes) {f : FType} (hf : f ≠ .f32) {e : Nat} (he : e < 128) :
    (el 16 (e % 4) (dqntLane ((List.range 128).map g) f 0 (e / 4))).toNat = (g e).r % 2 ^ 16 := by
  rw [dqntLane, if_neg (by simpa using hf), el_ofSubs (by decide) _ _ (Nat.mod_lt _ (by decide)), Nat.div_add_mod,
    List.getD_eq_getElem?_getD, List.getElem?_map, List.getElem?_range he, BitVec.toNat_ofNat]
  rfl

theorem el_dqntLane_f32 (g : Nat → FRes) {e : Nat} (he : e < 128) :
    (el 32 (e % 2) (dqntLane ((List.range 128).map g) .f32 (e / 64) (e % 64 / 2))).toNat = (g e).r % 2 ^ 32 := by
  have hi : 64 * (e / 64) + 2 * (e % 64 / 2) + e % 2 = e := by omega
  rw [dqntLane, if_pos (beq_self_eq_true FType.f32), el_ofSubs (by decide) _ _ (Nat.mod_lt _ (by decide)), hi,
    List.getD_eq_getElem?_getD, List.getElem?_map, List.getElem?_range he, BitVec.toNat_ofNat]
  rfl

section
variable (x : Iss) (d : VCode) (rm : Rm) (vals : List FRes)

theorem dqntWave_value {f : FType} (hf : f ≠ .f32) {i : Nat} (hi : i < 32) :
    wget (dqntWave x d f rm vals).win (x.frame.vslot d.toNat + i) = dqntLane vals f 0 i := by
  rw [dqntWave_win, dqntRegs, if_neg (by simpa using hf), wget_writeV _ _ _ _ _ _ hi]

theorem dqntWave_kept {f : FType} (hf : f ≠ .f32) {k : Nat} (hk : ∀ i < 32, k ≠ x.frame.vslot d.toNat + i) :
    wget (dqntWave x d f rm vals).win k = wget x.w.win k := by
  rw [dqntWave_win, dqntRegs, if_neg (by simpa using hf), wget_writeV_ne _ _ _ _ _ _ hk]

theorem dqntWave_value_f32 {r i : Nat} (hr : r < 2) (hi : i < 32) :
    wget (dqntWave x d .f32 rm vals).win (x.frame.vslot (d.toNat + r) + i) = dqntLane vals .f32 r i := by
  rw [dqntWave_win, dqntRegs, if_pos (beq_self_eq_true FType.f32)]
  match r, hr with
  | 0, _ =>
    exact (wget_writeV_ne _ _ _ _ _ _ fun k hk => vslot_succ_ne x.frame d.toNat hi hk).trans (wget_writeV _ _ _ _ _ _ hi)
  | 1, _ => exact wget_writeV _ _ _ _ _ _ hi

theorem dqntWave_kept_f32 {k : Nat} (hk : ∀ i < 32, k ≠ x.frame.vslot d.toNat + i ∧ k ≠ x.frame.vslot (d.toNat + 1) + i) :
    wget (dqntWave x d .f32 rm vals).win k = wget x.w.win k := by
  rw [dqntWave_win, dqntRegs, if_pos (beq_self_eq_true FType.f32), wget_writeV_ne _ _ _ _ _ _ fun i hi => (hk i hi).2,
    wget_writeV_ne _ _ _ _ _ _ fun i hi => (hk i hi).1]

end

/-- Settles O16: CVT, PACK and UNPK are lane operations; QNT writes one register whole, DQNT one or, for .f32, two apart. -/
theorem conversionWords : Obligations.ConversionWords := by
  intro x h hx
  refine ⟨fun d a dst src p rm => lane_done hx rfl rfl, fun d a x4 f l dd rm hr => ?_, fun d a x4 f l rm hf hr => ?_,
    fun d a x4 l rm hr => ?_, fun d a b t ht hr => ?_, fun d a p t ht hr => ?_⟩
  · have hq := writeV_result x { h with x := 0 } rfl (lat := 12) (by decide) d
    exact ⟨_, qnt_done hx hr rfl, by rw [drawn_ctr, raise_ctr, writeV_ctr], vecResult_drawn _ (hq _ _)⟩
  · have hdone := dqnt_done hx hr
    rw [show (f == .f32) = false from beq_false_of_ne hf] at hdone
    refine ⟨_, hdone, dqntWave_ctr .., dqntWave_rest .., fun e he => ?_, fun k hk => dqntWave_kept x d rm _ hf hk⟩
    rw [dqntWave_value x d rm _ hf (by omega), el_dqntLane _ hf he]
  · refine ⟨_, dqnt_done hx hr, dqntWave_ctr .., dqntWave_rest .., fun e he => ?_, fun k hk => dqntWave_kept_f32 x d rm _ hk⟩
    rw [dqntWave_value_f32 x d rm _ (by omega) (by omega), el_dqntLane_f32 _ he]
  · obtain ⟨v, he, hctr, hv⟩ := pack_lane hx h d a b t hr
    refine ⟨v, he, hctr, vecResult_mono hv ?_ (fun _ _ => rfl) 
      ((foldl_or_ite _ _ _).trans (if_congr (by simp) rfl rfl))⟩
    rintro l - _ rfl j hj
    exact (el_ofSubs (bits_cases t) _ _ hj).trans (by simp)
  · obtain ⟨v, he, hctr, hv⟩ := unpk_lane hx h d a p t hr
    refine ⟨v, he, hctr, vecResult_mono hv ?_ (fun _ _ => rfl) (foldl_or_zero _)⟩
    rintro l - _ rfl j hj
    exact (el_ofSubs (double_bits ht) _ _ (by rwa [← Nat.div_div_eq_div_mul])).trans (by simp)

end Sys2Proof.Lanes
end

section
/-! What leaves memory in its canonical form: each function of the model that makes a state. Only putting a byte, clearing a
range, dropping the bytes of a lost die and the reset write memory; everything else changes other fields. -/

namespace Sys2Proof.Canonical

open Sys2Proof Sys2Proof.Machine Sys2Proof.Laws

/-- The memory of a state is in canonical form. -/
def Canon (s : State) : Prop := Memory.wf s.mem

/-- Every answer that a step which may be impossible gives satisfies `p`. -/
def Possibly {α : Type} (p : α → Prop) (o : Option α) : Prop := ∀ a, o = some a → p a

section

variable {α β : Type} {p : β → Prop}

theorem Possibly.of {o : Option β} (h : Possibly p o) {a : β} (e : o = some a) : p a := h a e

theorem Possibly.none : Possibly p (none : Option β) := fun _ e => nomatch e

theorem Possibly.some {b : β} (h : p b) : Possibly p (some b) := fun _ e => Option.some.inj e ▸ h

theorem Possibly.bind {m : Option α} {f : α → Option β} (h : ∀ a, m = Option.some a → Possibly p (f a)) :
    Possibly p (m >>= f) := by
  cases m with
  | none => exact Possibly.none
  | some a => exact h a rfl

theorem Possibly.map {m : Option α} {f : α → β} (h : ∀ a, m = Option.some a → p (f a)) : Possibly p (m.map f) := by
  cases m with
  | none => exact Possibly.none
  | some a => exact Possibly.some (h a rfl)

theorem Possibly.guard {c : Prop} [Decidable c] {f : α → Option β} {o : Option β} (h : Possibly p o) :
    Possibly p (if c then (Option.none >>= f) else o) := by
  split
  · exact Possibly.none
  · exact h

end

variable {s : State}

theorem Canon.same {t : State} (h : Canon s) (e : t.mem = s.mem) : Canon t := by
  unfold Canon; rw [e]; exact h

theorem Canon.ite {c : Prop} [Decidable c] {t : State} (h : Canon s) (ht : Canon t) : Canon (if c then s else t) := by
  split <;> assumption

theorem Canon.getD {o : Option State} (h : Canon s) (ho : Possibly Canon o) : Canon (o.getD s) := by
  cases o with
  | none => exact h
  | some t => exact ho t rfl

theorem Canon.foldl {α : Type} {f : State → α → State} (hf : ∀ s a, Canon s → Canon (f s a)) (h : Canon s) (l : List α) :
    Canon (l.foldl f s) := by
  induction l generalizing s with
  | nil => exact h
  | cons a r ih => exact ih (hf s a h)

theorem Canon.of_eq {α : Type} {r : State × α} (h : Canon r.1) {t : State} {a : α} (e : r = (t, a)) : Canon t := by
  rw [e] at h; exact h

theorem Canon.attempt {f : State → Option State} (hf : Possibly Canon (f s)) (h : Canon s) : Canon (s.attempt f) := h.getD hf

theorem Canon.forAll {α : Type} {f : State → α → Option State} (hf : ∀ s a, Canon s → Possibly Canon (f s a)) (h : Canon s)
    (l : List α) : Canon (s.forAll l f) := Canon.foldl (fun s a hs => hs.attempt (hf s a hs)) h l

theorem Canon.fresh (h : Canon s) : Canon s.fresh.1 :=
  h

theorem Canon.setCtx (h : Canon s) (c : ℕ) (x : Ctx) : Canon (s.setCtx c x) :=
  h

theorem Canon.record (h : Canon s) (ctx : ℕ) (r : FRec) : Canon (s.record ctx r) := by
  grind [State.record, Canon.setCtx]

theorem Canon.setWave (h : Canon s) (w : Wave) : Canon (s.setWave w) :=
  h

theorem Canon.defer (h : Canon s) (u : ℕ) (f : FaultRec) : Canon (s.defer u f) := by
  grind [State.defer, Canon.record, Canon.setWave]

theorem Canon.sendRein (h : Canon s) (src : ℕ) (dst : ℕ) (wave : ℕ) (k : RKind) : Canon (s.sendRein src dst wave k) :=
  h

theorem Canon.opFlag (h : Canon s) (o : CopyOp) {t} (e : s.opFlag o = some t) : Canon t := by
  refine Possibly.of ?_ e
  unfold State.opFlag
  split
  · refine .bind fun f _ => ?_
    split
    · exact .some h
    · split
      · exact .none
      · exact .some (h.defer _ _)
      · exact .some (h.sendRein ..)
  · exact .some h

theorem Canon.delOp (h : Canon s) (u : ℕ) : Canon (s.delOp u) :=
  h

theorem Canon.finishOp (h : Canon s) (o : CopyOp) {t} (e : s.finishOp o = some t) : Canon t := by
  refine Possibly.of ?_ e
  unfold State.finishOp
  refine .guard (.bind fun s₁ e₁ => .some (Canon.delOp ?_ _))
  have h₁ := h.opFlag o e₁
  split
  · split <;> exact h₁
  · exact h₁

theorem Canon.finishOps (h : Canon s) : Canon s.finishOps := by
  refine Canon.foldl (fun s o hs => ?_) h _
  split
  · exact hs.getD fun _ => hs.finishOp _
  · exact hs

theorem Canon.setOp (h : Canon s) (o : CopyOp) : Canon (s.setOp o) :=
  h

theorem Canon.setGroup (h : Canon s) (g : Group) : Canon (s.setGroup g) :=
  h

theorem Canon.fire (h : Canon s) (g : Group) (o : CopyOp) : Canon (s.fire g o) :=
  h

theorem Canon.tryFire (h : Canon s) (o : CopyOp) {t} (e : s.tryFire o = some t) : Canon t := by
  refine Possibly.of (.guard (.bind fun g _ => ?_)) e
  split
  · exact .some (h.fire g o)
  · exact .none

theorem Canon.setCore (h : Canon s) (i : ℕ) (c : Core) : Canon (s.setCore i c) :=
  h

theorem Canon.start (h : Canon s) (o : CopyOp) : Canon (s.start o) :=
  h

theorem Canon.startOps (h : Canon s) (core n : Nat) : Canon (s.startOps core n) := by
  induction n generalizing s with
  | zero => exact h
  | succ n ih =>
    unfold State.startOps
    split
    · exact ih (h.start _)
    · exact h

theorem Canon.nextSegment (h : Canon s) (o : CopyOp) {t} (e : s.nextSegment o = some t) : Canon t := by
  exact Possibly.of (.bind fun g _ => .guard (.some (h.setOp _))) e

theorem Canon.snapAll (h : Canon s) : Canon s.snapAll :=
  h

theorem Canon.startMat (h : Canon s) (core : ℕ) (m : MatEnt) : Canon (s.startMat core m) :=
  h

theorem Canon.startUnit (h : Canon s) (core : ℕ) (u : UnitOp) : Canon (s.startUnit core u) :=
  h

theorem Canon.setDie (h : Canon s) (d : ℕ) (x : Die) : Canon (s.setDie d x) :=
  h

theorem Canon.setSearch (h : Canon s) (die : ℕ) (x : Search) : Canon (s.setSearch die x) :=
  h

theorem Canon.dueStarts (h : Canon s) : Canon s.dueStarts := by
  refine Canon.forAll (fun s d hs => .bind fun x _ => .some (hs.setSearch d _)) ?_ _
  refine Canon.forAll (fun s c hs => .bind fun u _ => .some (hs.startUnit c u)) ?_ _
  refine Canon.forAll (fun s c hs => .bind fun m _ => .some (hs.startMat c m).snapAll) ?_ _
  refine Canon.forAll (fun s o hs _ => hs.nextSegment o) ?_ _
  refine Canon.foldl (fun s c hs => hs.startOps c 4) ?_ _
  exact h.forAll (fun s o hs => .bind fun o _ _ => hs.tryFire o) _

theorem Canon.delGrant (h : Canon s) (u : ℕ) : Canon (s.delGrant u) :=
  h

theorem Canon.withdraw (h : Canon s) (gid : ℕ) : Canon (s.withdraw gid) :=
  h

theorem Canon.decideSf (h : Canon s) (g : Grant) (f : Option (BitVec 4)) : Canon (s.decideSf g f) :=
  h

theorem Canon.failRequest (h : Canon s) (g : Grant) (fault : Option (ℕ × Word)) (f : BitVec 4) :
    Canon (s.failRequest g fault f) := by
  unfold State.failRequest
  cases fault with
  | none => exact ((h.decideSf g (some f)).withdraw g.gid).delGrant g.gid
  | some p => exact ((h.decideSf g none).withdraw g.gid).delGrant g.gid

theorem Canon.setGrant (h : Canon s) (g : Grant) : Canon (s.setGrant g) :=
  h

theorem Canon.loseGrant (h : Canon s) (g : Grant) : Canon (s.loseGrant g) := by
  grind [Canon, State.loseGrant, Canon.failRequest, Canon.setGrant]

theorem Canon.missFree (h : Canon s) (core : ℕ) (n : ℕ) : Canon (s.missFree core n) :=
  h

theorem Canon.unpark (h : Canon s) (r : AccRef) : Canon (s.unpark r) :=
  h

theorem Canon.endLoad (h : Canon s) (w : Wave) (l : LoadP) : Canon (s.endLoad w l) :=
  h

theorem Canon.failLoad (h : Canon s) (w : Wave) (l : LoadP) (code : ℕ) (info : Word) : Canon (s.failLoad w l code info) := by
  grind [State.failLoad, Canon.endLoad, Canon.defer]

theorem Canon.failAtomic (h : Canon s) (a : HAtom) (code : ℕ) (info : Word) : Canon (s.failAtomic a code info) := by
  grind [State.failAtomic, Canon.failLoad, Canon.defer, Canon.missFree]

theorem Canon.setKernel (h : Canon s) (k : Kernel) : Canon (s.setKernel k) :=
  h

theorem Canon.reported (h : Canon s) (kernel : ℕ) (die : ℕ) : Canon (s.reported kernel die) := by
  unfold State.reported
  split <;> exact h

theorem Canon.loseDie (h : Canon s) (die : ℕ) : Canon (s.loseDie die) := by
  apply Canon.setDie
  refine filter_wf _ ?_
  refine Canon.foldl (fun s m hs => ?_) (Canon.foldl (fun s x hs => hs.failAtomic _ _ _)
    (Canon.foldl (fun s g hs => ?_) h _) _) _
  · split
    · exact hs.reported _ _
    · exact hs
  · split
    · exact hs.loseGrant _
    · exact hs

theorem Canon.setLink (h : Canon s) (n : ℕ) (l : Link) : Canon (s.setLink n l) :=
  h

theorem Canon.command (h : Canon s) (n : ℕ) (f : ℕ → Link → Link) : Canon (s.command n f) :=
  h

theorem Canon.mapLinks (h : Canon s) (die : ℕ) (f : ℕ → Link → Link) : Canon (s.mapLinks die f) :=
  h.foldl (fun _ n hs => hs.command n f) _

theorem Canon.finishReset (h : Canon s) (die : ℕ) : Canon (s.finishReset die) := by
  grind [State.finishReset, Canon.loseDie, Canon.setDie, Canon.mapLinks]

theorem Canon.dropHolder (h : Canon s) (home : ℕ) (idx : ℕ) : Canon (s.dropHolder home idx) := by
  grind [State.dropHolder, Canon.setDie]

theorem Canon.giveUp (h : Canon s) (g : Grant) : Canon (s.giveUp g) := by
  grind [Canon, State.giveUp, Canon.dropHolder]

theorem Canon.loseRein (h : Canon s) (m : Rein) (code : ℕ) (info : ℕ → ℕ → Word) {t} (e : s.loseRein m code info = some t) :
    Canon t := by
  grind [State.loseRein, Canon.failRequest, Canon.giveUp, Canon.reported, Canon.failAtomic, Canon.defer]

theorem Canon.reinFail (h : Canon s) (m : Rein) (reason : ℕ) {t} (e : s.reinFail m reason = some t) : Canon t := by
  grind [State.reinFail, Canon.loseRein]

theorem Canon.dropFlag (h : Canon s) (p : Packet) : Canon (s.dropFlag p) := by
  grind [Canon, State.dropFlag, Canon.setWave]

theorem Canon.passEntries (h : Canon s) (p : Packet) : Canon (s.passEntries p).1 := by
  grind [Canon, State.passEntries]

theorem Canon.chanChunk (h : Canon s) (o : CopyOp) (n : ℕ) : Canon (s.chanChunk o n) := by
  unfold State.chanChunk
  split <;> exact h

theorem Canon.account (h : Canon s) (gu : ℕ) (name : ℕ) (n : ℕ) (wave : ℕ) (pc : Word) :
    Canon (s.account gu name n wave pc) := by
  grind [State.account, Canon.defer, Canon.setGroup]

theorem Canon.accountChunk (h : Canon s) (op : ℕ) (n : ℕ) : Canon (s.accountChunk op n) := by
  grind [State.accountChunk, Canon.account]

theorem Canon.failChunk (h : Canon s) (o : CopyOp) (n : ℕ) (code : ℕ) (info : Word) : Canon (s.failChunk o n code info) := by
  grind [State.failChunk, Canon.defer, Canon.chanChunk, Canon.accountChunk, Canon.setOp]

theorem Canon.failEntries (h : Canon s) (w : Wave) (seq : ℕ) (code : ℕ) (info : Word) :
    Canon (s.failEntries w seq code info) := by
  grind [State.failEntries, Canon.missFree, Canon.setWave, Canon.failLoad, Canon.defer]

theorem Canon.losePacket (h : Canon s) (p : Packet) (code : ℕ) (info : Word) : Canon (s.losePacket p code info) := by
  unfold State.losePacket
  extract_lets s₀
  have h₀ : Canon s₀ := h
  split
  · exact h₀
  · have h₁ := h₀.dropFlag p
    split
    · exact h₁
    · have h₂ := (h₁.passEntries p).missFree
      dsimp only
      split
      · exact h₂ _ _
      · exact (h₂ _ _).defer _ _
  · split
    · split
      · exact h₀.failChunk ..
      · exact h₀
    · exact h₀
    · split
      · exact h₀
      · split
        · exact h₀
        · split
          · exact h₀.failEntries ..
          · exact h₀.failLoad ..
  · split
    · exact h₀
    · exact Canon.ite (h₀.ite ((h₀.setOp _).defer _ _)) ((h₀.ite ((h₀.setOp _).defer _ _)).accountChunk _ _)

theorem Canon.failPacket (h : Canon s) (p : Packet) (reason : ℕ) : Canon (s.failPacket p reason) := by
  grind [State.failPacket, Canon.losePacket]

theorem Canon.discardIn (h : Canon s) (die : ℕ) : Canon (s.discardIn die) := by
  refine Canon.foldl (fun s x hs => ?_) (Canon.foldl (fun s p hs => hs.failPacket p 3)
    (Canon.foldl (fun s m hs => Canon.getD hs fun _ => Canon.reinFail (by exact hs) m 3) h _) _) _
  split
  · split
    · exact hs.failLoad ..
    · exact hs
  · exact hs

theorem Canon.drainOut (h : Canon s) (die : ℕ) {t} (e : s.drainOut die = some t) : Canon t := by
  grind [State.drainOut, Canon.finishReset, Canon.discardIn]

theorem Canon.translate (h : Canon s) (d : ℕ) (off_ : ℕ) : Canon (s.translate d off_).1 := by
  grind [State.translate, Canon.setDie]

theorem Canon.keyOf (h : Canon s) (ia : ℕ) : Canon (s.keyOf ia).1 := by
  grind [State.keyOf, Canon.translate]

theorem Canon.mappedAll (h : Canon s) (cells : Store) : Canon (s.mappedAll cells).1 := by
  induction cells generalizing s with
  | nil => exact h
  | cons c r ih =>
    have hk := h.keyOf c.1
    unfold State.mappedAll
    split <;> (rename_i e; rw [e] at hk)
    · exact hk
    · exact ih hk

theorem Canon.wrote (h : Canon s) (name : ℕ) (at_ : List ℕ) : Canon (s.wrote name at_) := by
  unfold State.wrote
  split <;> exact h

theorem Canon.wroteHome (h : Canon s) (name : ℕ) (cells : Store) : Canon (s.wroteHome name cells) := by
  grind [State.wroteHome, Canon.wrote, Canon.keyOf]

theorem Canon.putByte (h : Canon s) (key : ℕ) (b : Byte) : Canon (s.putByte key b) :=
  sput_wf key b h

theorem Canon.hWrite (h : Canon s) (cells : Store) (name : ℕ) : Canon (s.hWrite cells name).1 := by
  have h₁ := h.mappedAll cells
  unfold State.hWrite
  split <;> (rename_i s₁ e; rw [e] at h₁)
  · exact h₁
  · refine Canon.wroteHome (Canon.foldl (fun s c hs => ?_) h₁ _) _ _
    have hk := hs.keyOf c.1
    split <;> (rename_i e; rw [e] at hk)
    · exact hk.putByte _ _
    · exact hk

theorem Canon.beginReturn (h : Canon s) (gid : ℕ) : Canon (s.beginReturn gid) := by
  grind [State.beginReturn, Canon.setGrant, Canon.withdraw]

theorem Canon.childGone (h : Canon s) (parent : ℕ) : Canon (s.childGone parent) := by
  grind [State.childGone, Canon.beginReturn, Canon.setGrant]

theorem Canon.releaseGrant (h : Canon s) (g : Grant) : Canon (s.releaseGrant g) := by
  grind [Canon, State.releaseGrant, Canon.hWrite, Canon.childGone, Canon.sendRein, Canon.giveUp, Canon.withdraw, Canon.delGrant]

theorem Canon.releaseBins (h : Canon s) (gu : ℕ) : Canon (s.releaseBins gu) :=
  h.foldl (fun _ g hs => hs.releaseGrant g) _

theorem Canon.releaseAll (h : Canon s) (gu : ℕ) : Canon (s.releaseAll gu) := by
  refine Canon.foldl (fun s g hs => ?_) h _
  split
  · exact hs.releaseGrant _
  · exact hs

theorem Canon.dropFrames (h : Canon s) (g : Group) (ctx : ℕ) : Canon (s.dropFrames g ctx) := by
  grind [State.dropFrames, Canon.setCtx]

theorem Canon.scrambleAt (h : Canon s) (g : Group) (o n : Nat) : Canon (s.scrambleAt g o n) := by
  induction n generalizing s o with
  | zero => exact h
  | succ n ih =>
    unfold State.scrambleAt
    exact ih (by exact h.putByte _ _) _

theorem Canon.scramble (h : Canon s) (gu : ℕ) : Canon (s.scramble gu) := by
  refine Canon.foldl (fun s c hs => ?_) h _
  split
  · split
    · split
      · exact hs.foldl (fun s i hs => hs.scrambleAt ..) _
      · exact hs
    · exact hs
  · exact hs

theorem Canon.freeMiss (h : Canon s) (gu : ℕ) : Canon (s.freeMiss gu) :=
  h.foldl (fun _ _ hs => hs.setCore _ _) _

theorem Canon.discardWork (h : Canon s) (gu : ℕ) : Canon (s.discardWork gu) := by
  grind [Canon, State.discardWork, Canon.scramble, Canon.freeMiss]

theorem Canon.setQueue (h : Canon s) (q : Queue) : Canon (s.setQueue q) :=
  h

theorem Canon.launchGone (h : Canon s) (k : Kernel) : Canon (s.launchGone k) :=
  h

theorem Canon.queueError (h : Canon s) (q : ℕ) (reason : ℕ) : Canon (s.queueError q reason) := by
  grind [State.queueError, Canon.setQueue]

theorem Canon.faultKernel (h : Canon s) (ku : ℕ) : Canon (s.faultKernel ku) := by
  grind [State.faultKernel, Canon.setKernel, Canon.launchGone, Canon.queueError]

theorem Canon.groupDone (h : Canon s) (ku : ℕ) : Canon (s.groupDone ku) := by
  grind [State.groupDone, Canon.setKernel, Canon.launchGone]

theorem Canon.killGroup (h : Canon s) (gu : ℕ) : Canon (s.killGroup gu) := by
  grind [State.killGroup, Canon.releaseBins, Canon.releaseAll, Canon.dropFrames, Canon.discardWork, Canon.setGroup,
    Canon.faultKernel, Canon.groupDone]

theorem Canon.endWithDie (h : Canon s) (die : ℕ) (cause : Option ℕ) (gu : ℕ) : Canon (s.endWithDie die cause gu) := by
  unfold State.endWithDie
  split
  · exact (h.record _ _).killGroup gu
  · exact h.killGroup gu

theorem Canon.endGroups (h : Canon s) (die : ℕ) (cause : Option ℕ) : Canon (s.endGroups die cause) :=
  h.foldl (fun _ g hs => hs.endWithDie die cause g) _

theorem Canon.retireDie (h : Canon s) (die : ℕ) (cause : ℕ) : Canon (s.retireDie die cause) := by
  grind [Canon, State.retireDie, Canon.loseDie, Canon.endGroups, Canon.setDie]

theorem Canon.isolateDie (h : Canon s) (die : ℕ) : Canon (s.isolateDie die) := by
  grind [State.isolateDie, Canon.retireDie, Canon.mapLinks]

theorem Canon.isolate (h : Canon s) : Canon s.isolate :=
  h.foldl (fun _ _ hs => hs.foldl (fun _ d hs => hs.isolateDie d) _) _

theorem Canon.linkChange (h : Canon s) (n : ℕ) (l : Link) : Canon (s.linkChange n l) := by
  grind [State.linkChange, Canon.isolate, Canon.setLink]

theorem Canon.dueAttempts (h : Canon s) : Canon s.dueAttempts :=
  h.foldl (fun _ _ hs => (hs.linkChange _ _).ite hs) _

theorem Canon.epNumber (h : Canon s) (dst : ℕ) {t} (e : s.epNumber dst = some t) : Canon t.1 := by
  grind [Canon, State.epNumber]

theorem Canon.numberRein (h : Canon s) (m : Rein) {t} (e : s.numberRein m = some t) : Canon t := by
  refine Possibly.of ?_ e
  unfold State.numberRein
  extract_lets port put
  split
  · exact .some (Canon.ite h h)
  · exact .map fun r er => by exact h.epNumber _ er

theorem Canon.settleRein (h : Canon s) (id : ℕ) : Canon (s.settleRein id) := by
  unfold State.settleRein
  split
  · exact h
  · dsimp only
    split
    · exact h
    · split
      · exact Canon.getD h fun _ => Canon.reinFail (by exact h) _ _
      · split
        · exact Canon.getD h fun _ => Canon.reinFail (by exact h) _ _
        · split
          · exact h
          · exact Canon.getD h fun _ => Canon.numberRein (by exact h) _

theorem Canon.loseSent (h : Canon s) (m : Rein) : Canon (s.loseSent m) := by
  unfold State.loseSent
  extract_lets s₀
  have h₀ : Canon s₀ := h
  split
  · split
    · exact h₀.getD fun _ => Canon.reinFail (by exact h₀) _ _
    · exact h₀
  · split
    · exact h₀.getD fun _ => Canon.reinFail (by exact h₀) _ _
    · split
      · exact h₀.defer _ _
      · exact h₀
  · exact h₀.getD fun _ => h₀.reinFail _ _
  · exact h₀

theorem Canon.settlePacket (h : Canon s) (id : ℕ) : Canon (s.settlePacket id) := by
  grind [Canon, State.settlePacket, Canon.failPacket]

theorem Canon.sendPacket (h : Canon s) (src : ℕ) (dst : ℕ) (path : ℕ) (k : PKind) (cells : Store) (bytes : ℕ) (wave : ℕ)
    (entries : ℕ) (pc : Word) (code : ℕ) (seq : ℕ) {t}
    (e : s.sendPacket src dst path k cells bytes wave entries pc code seq = some t) :
    Canon t := by
  refine Possibly.of ?_ e
  unfold State.sendPacket
  exact .guard (.bind fun r er => .some (h.epNumber dst er))

theorem Canon.askChunk (h : Canon s) (o : CopyOp) : Canon (s.askChunk o) := by
  refine Canon.getD h (.bind fun g _ => .guard (.bind fun x _ => .guard (.bind fun path _ => .bind fun t ht => .some ?_)))
  exact (h.sendPacket _ _ _ _ _ _ _ _ _ _ _ ht).setOp _

theorem Canon.askLines (h : Canon s) (wave id : Nat) (l : List Nat) : Canon (s.askLines wave id l) := by
  induction l generalizing s with
  | nil => exact h
  | cons n r ih =>
    refine ih (Canon.getD h (.guard (.bind fun w _ => .bind fun l _ => .bind fun path _ => .bind fun t et => .some ?_)))
    exact (h.sendPacket _ _ _ _ _ _ _ _ _ _ _ et).setWave _

theorem Canon.settleLoad (h : Canon s) (wave : ℕ) (id : ℕ) : Canon (s.settleLoad wave id) := by
  grind [State.settleLoad, Canon.failLoad, Canon.askLines, Canon.setWave]

theorem Canon.settleTraffic (h : Canon s) : Canon s.settleTraffic := by
  refine Canon.foldl (fun s w hs => hs.foldl (fun s l hs => hs.settleLoad _ _) _) ?_ _
  refine Canon.foldl (fun s i hs => ?_) ?_ _
  · cases s.op? i with
    | none => exact hs
    | some o => exact hs.askChunk o
  · refine Canon.foldl (fun s i hs => hs.settlePacket i) ?_ _
    refine Canon.foldl (fun s m hs => hs.loseSent m) ?_ _
    exact h.foldl (fun s i hs => hs.settleRein i) _

theorem Canon.touchDeliv (h : Canon s) (ep : ℕ) : Canon (s.touchDeliv ep) :=
  h

theorem Canon.resend? (h : Canon s) (id : ℕ) {t} (e : s.resend? id = some t) : Canon t := by
  refine Possibly.of ?_ e
  unfold State.resend?
  split
  · split
    · exact .none
    · exact .some (Canon.touchDeliv (by exact h) _)
  · exact .bind fun m _ => .guard (.some (Canon.touchDeliv (by exact h) _))

theorem Canon.dueLinks (h : Canon s) : Canon s.dueLinks := by
  unfold State.dueLinks
  extract_lets s₁ s₂ s₃
  have h₁ : Canon s₁ := h.dueAttempts.foldl (fun s d hs => hs.getD fun _ => hs.drainOut d) _
  have h₃ : Canon s₃ := h₁.settleTraffic.foldl (fun s i hs => hs.getD fun _ => hs.resend? i) _
  clear_value s₃
  exact h₃

theorem Canon.fatal (h : Canon s) (ctx : ℕ) : Canon (s.fatal ctx) :=
  Canon.ite (Canon.foldl (fun _ q hs => hs.queueError q.q 5) (h.setCtx _ _) _) h

theorem Canon.overrun (h : Canon s) (wave : ℕ) (pc : Word) (engine : ℕ) (core : ℕ) (die : ℕ) (count : ℕ) (n : ℕ) :
    Canon (s.overrun wave pc engine core die count n) := by
  grind [State.overrun, Canon.record, Canon.fatal]

theorem Canon.suspendOp (h : Canon s) (n : ℕ) (o : CopyOp) : Canon (s.suspendOp n o) := by
  grind [State.suspendOp, Canon.overrun, Canon.setOp]

theorem Canon.suspendSearch (h : Canon s) (n : ℕ) (die : ℕ) (x : Search) : Canon (s.suspendSearch n die x) := by
  grind [State.suspendSearch, Canon.overrun, Canon.setSearch]

theorem Canon.beginSlot (h : Canon s) : Canon s.beginSlot := by
  refine Canon.foldl (fun s d hs => hs.foldl (fun s x hs => hs.suspendSearch ..) _) ?_ _
  exact Canon.foldl (fun s o hs => hs.suspendOp _ o) (by exact h) _

theorem Canon.endSlot (h : Canon s) : Canon s.endSlot :=
  h

theorem Canon.dueSlot (h : Canon s) : Canon s.dueSlot := by
  grind [State.dueSlot, Canon.beginSlot, Canon.endSlot]

theorem Canon.freeRes (h : Canon s) (gu : ℕ) : Canon (s.freeRes gu) := by
  unfold State.freeRes
  split <;> exact h

theorem Canon.failMat (h : Canon s) (core : ℕ) (m : MatEnt) (tier : ℕ) : Canon (s.failMat core m tier) := by
  grind [State.failMat, Canon.setCore, Canon.delOp, Canon.defer, Canon.freeRes]

theorem Canon.doneObld (h : Canon s) (core : ℕ) (m : MatEnt) {t} (e : s.doneObld core m = some t) : Canon t := by
  refine Possibly.of ?_ e
  unfold State.doneObld
  split
  · refine .guard (.bind fun g _ => .bind fun r _ => ?_)
    dsimp only
    split
    · exact .some (h.failMat ..)
    · exact .some ((h.setCore _ _).freeRes _)
  · exact .none

theorem Canon.mmaRows (h : Canon s) (views : Word) (sg : List Sign) (rows : Nat) (a : Nat → List (Option Fv))
    (cols : List (List (Option Fv))) (seg : Nat) (l : List Nat) (st : Word) :
    Canon (s.mmaRows views sg rows a cols seg l st).1 := by
  induction l generalizing s st with
  | nil => exact h
  | cons i r ih =>
    unfold State.mmaRows
    split
    · exact ih h _
    · split
      · exact ih h _
      · exact ih (h.setWave _) _

theorem Canon.doneMma (h : Canon s) (core : ℕ) (m : MatEnt) {t} (e : s.doneMma core m = some t) : Canon t := by
  refine Possibly.of ?_ e
  unfold State.doneMma
  split
  · refine .bind fun g _ => .bind fun k _ => ?_
    dsimp only
    split
    · exact .some (h.failMat _ _ _)
    · refine .some (Canon.freeRes (Canon.setCore ?_ _ _) _)
      split
      · split <;> exact h.mmaRows _ _ _ _ _ _ _ _
      · exact h.mmaRows _ _ _ _ _ _ _ _
  · exact .none

theorem Canon.writeTgt (h : Canon s) (t : Tgt) (a : ℕ) (b : Byte) : Canon (s.writeTgt t a b) := by
  unfold State.writeTgt
  dsimp only
  split
  · exact h.putByte _ _
  · split
    · exact h
    · split <;> exact h

theorem Canon.setFull (h : Canon s) (gs : List ℕ) : Canon (s.setFull gs) :=
  h

theorem Canon.engineWrite (h : Canon s) (t : Tgt) (a : ℕ) (b : Byte) : Canon (s.engineWrite t a b) := by
  grind [State.engineWrite, Canon.writeTgt, Canon.setFull]

theorem Canon.drainElem (h : Canon s) (g : Group) (k : Kernel) (core : Core) (m : MatKind) (n : ℕ) :
    Canon (s.drainElem g k core m n).1 := by
  unfold State.drainElem
  split
  · exact h.foldl (fun s b hs => hs.engineWrite _ _ _) _
  · exact h

theorem Canon.drainElems (h : Canon s) (g : Group) (k : Kernel) (core : Core) (m : MatKind) (n c : Nat) :
    Canon (s.drainElems g k core m n c).1 := by
  induction c generalizing s n with
  | zero => exact h
  | succ c ih => exact ih (h.drainElem ..) _

theorem Canon.drainSeen (h : Canon s) (core : ℕ) (m : MatEnt) (keys : List ℕ) : Canon (s.drainSeen core m keys) :=
  h

theorem Canon.drainStep (h : Canon s) (core : ℕ) (m : MatEnt) (count : ℕ) {t} (e : s.drainStep core m count = some t) :
    Canon t := by
  refine Possibly.of ?_ e
  unfold State.drainStep
  split
  · refine .guard (.bind fun g _ => .bind fun k _ => .bind fun o _ => .guard (.some (Canon.ite (Canon.failMat ?_ _ _ _) ?_))) <;>
      exact (((h.drainElems g k (s.core core) m.kind _ _).wrote _ _).setOp _).drainSeen _ _ _
  · exact .none

theorem Canon.doneMdrain (h : Canon s) (core : ℕ) (m : MatEnt) {t} (e : s.doneMdrain core m = some t) : Canon t := by
  refine Possibly.of ?_ e
  unfold State.doneMdrain
  split
  · refine .bind fun t et => ?_
    have ht := h.drainStep _ _ _ et
    split
    · refine .some (Canon.delOp (Canon.setCore ?_ _ _) _)
      split <;> exact ht
    · exact .some ht
  · exact .none

theorem Canon.doneUnit (h : Canon s) (core : ℕ) (u : UnitOp) : Canon (s.doneUnit core u) := by
  grind [State.doneUnit, Canon.setCore, Canon.fresh, Canon.setDie, Canon.setWave]

theorem Canon.doneSearch (h : Canon s) (die : ℕ) (x : Search) : Canon (s.doneSearch die x) := by
  grind [State.doneSearch, Canon.setDie, Canon.setWave]

theorem Canon.dueDone (h : Canon s) : Canon s.dueDone := by
  refine Canon.forAll (fun s d hs => .bind fun x _ => .some (hs.doneSearch d x)) ?_ _
  refine Canon.forAll (fun s c hs => .bind fun u _ => .some (hs.doneUnit c u)) ?_ _
  refine Canon.forAll (fun s c hs => .bind fun m _ => ?_) (Canon.snapAll (by exact h)) _
  split
  · exact fun _ => hs.doneObld c m
  · exact fun _ => hs.doneMma c m
  · exact fun _ => hs.doneMdrain c m

theorem Canon.missAdd (h : Canon s) (core : ℕ) (n : ℕ) : Canon (s.missAdd core n) :=
  h

theorem Canon.serveMiss (h : Canon s) (core : ℕ) {t} (e : s.serveMiss core = some t) : Canon t := by
  grind [State.serveMiss, Canon.setWave, Canon.missAdd]

theorem Canon.dueMisses (h : Canon s) : Canon s.dueMisses :=
  h.foldl (fun _ _ hs => hs.attempt fun _ => hs.serveMiss _) _

theorem Canon.launchBin? (h : Canon s) (b : Bin) {t} (e : s.launchBin? b = some t) : Canon t := by
  refine Possibly.of ?_ e
  unfold State.launchBin?
  split
  · exact .none
  · split
    · exact .none
    · split
      · exact .none
      · split
        · exact .none
        · split
          · exact .none
          · exact .some h

theorem Canon.closeBin (h : Canon s) (b : Bin) : Canon (s.closeBin b) := by
  grind [Canon, State.closeBin, Canon.launchBin?]

theorem Canon.dueBins (h : Canon s) : Canon s.dueBins :=
  h.forAll (fun _ b hs => .some (hs.closeBin b)) _

theorem Canon.dueWaves (h : Canon s) : Canon s.dueWaves :=
  h

theorem Canon.freeWave (h : Canon s) (w : Wave) : Canon (s.freeWave w) :=
  Canon.ite (h.setWave _) ((h.setWave _).foldl (fun _ b hs => hs.closeBin b) _)

theorem Canon.putBytes (h : Canon s) (key : ℕ) (bs : List Byte) : Canon (s.putBytes key bs) :=
  sputs_wf key bs h

theorem Canon.landRecord (h : Canon s) (ctx : ℕ) : Canon (s.landRecord ctx) := by
  unfold State.landRecord
  dsimp only
  split
  · exact h
  · split
    · exact h
    · exact h.setCtx _ _
    · exact (h.foldl (fun s r hs => hs.putBytes _ _) _).setCtx _ _

theorem Canon.landRecords (h : Canon s) : Canon s.landRecords :=
  h.foldl (fun _ c hs => hs.landRecord c) _

theorem Canon.level0 (h : Canon s) (w : ℕ) {t} (e : s.level0 w = some t) : Canon t := by
  refine Possibly.of (.bind fun x _ => .bind fun k _ => .guard (.some (Canon.killGroup ?_ _))) e
  exact h.record k.ctx _

theorem Canon.wdogRecord (h : Canon s) (ctx : ℕ) (level : ℕ) (req : Bool) (die : ℕ) (gone : Bool) :
    Canon (s.wdogRecord ctx level req die gone) := by
  grind [State.wdogRecord, Canon.record]

theorem Canon.level2Ends (h : Canon s) : Canon s.level2Ends := by
  refine Canon.foldl (fun s l hs => Canon.ite hs (Canon.retireDie ?_ _ _)) (by exact h) _
  exact hs.foldl (fun s c hs => hs.wdogRecord ..) _

theorem Canon.startReset (h : Canon s) (die : ℕ) : Canon (s.startReset die) := by
  grind [State.startReset, Canon.endGroups, Canon.mapLinks, Canon.isolate, Canon.setDie]

theorem Canon.resetDie (h : Canon s) (die : ℕ) (force : Bool) {t} (e : s.resetDie die force = some t) : Canon t := by
  grind [State.resetDie, Canon.startReset]

theorem Canon.level2 (h : Canon s) (die : ℕ) (req : Bool) (force : Bool) {t} (e : s.level2 die req force = some t) :
    Canon t := by
  refine Possibly.of (.map fun t et => ?_) e
  exact (h.resetDie _ _ et).foldl (fun s c hs => hs.wdogRecord c 2 req die false) (s.ctxsOf die)

theorem Canon.autoLevel2 (h : Canon s) (die : ℕ) : Canon (s.autoLevel2 die) := by
  unfold State.autoLevel2
  split
  · rename_i e
    exact h.level2 _ _ _ e
  · split
    · exact h
    · exact h.foldl (fun s c hs => hs.wdogRecord c 2 false die false) (s.ctxsOf die)

theorem Canon.levelTwo (h : Canon s) (ctx : ℕ) : Canon (s.levelTwo ctx) :=
  Canon.ite h.level2Ends (Canon.foldl (fun s d hs => hs.autoLevel2 d) (by exact h.level2Ends) _)

theorem Canon.hRead (h : Canon s) (ia n : Nat) : Canon (s.hRead ia n).1 := by
  induction n generalizing s ia with
  | zero => exact h
  | succ n ih =>
    have hk := h.keyOf ia
    unfold State.hRead
    split <;> (rename_i ek; rw [ek] at hk)
    · exact hk
    · have hn := ih hk (ia + 1)
      dsimp only
      split <;> (rename_i en; rw [en] at hn; exact hn)

theorem Canon.readWord (h : Canon s) (ia : ℕ) : Canon (s.readWord ia).1 := by
  grind [State.readWord, Canon.hRead]

theorem Canon.doorbell (h : Canon s) (q : Queue) : Canon (s.doorbell q).1 := by
  grind [State.doorbell, Canon.readWord]

theorem Canon.settleReset (h : Canon s) (n : ℕ) : Canon (s.settleReset n) := by
  grind [State.settleReset, Canon.doorbell, Canon.setQueue]

theorem Canon.resetQueue (h : Canon s) (n : ℕ) : Canon (s.resetQueue n) := by
  grind [State.resetQueue, Canon.settleReset, Canon.setQueue]

theorem Canon.level3 (h : Canon s) (req : Bool) : Canon (s.level3 req) := by
  unfold State.level3
  extract_lets s₁ s₂ bad
  have h₁ : Canon s₁ := h.foldl (fun s q hs => hs.resetQueue q) _
  have h₂ : Canon s₂ := h₁.foldl (fun s c hs => hs.wdogRecord c 3 req 0 false) _
  clear_value s₂
  exact h₂

theorem Canon.deviceReset (h : Canon s) : Canon s.deviceReset :=
  reset_mem_wf

theorem Canon.level4 (h : Canon s) {t} (e : s.level4 = some t) : Canon t := by
  grind [State.level4, Canon.deviceReset]

theorem Canon.dueWatchdog (h : Canon s) : Canon s.dueWatchdog := by
  unfold State.dueWatchdog
  extract_lets silent s₁ s₂ s₃
  have h₁ : Canon s₁ := h.foldl (fun s u hs => hs.getD fun _ => hs.level0 u) _
  have h₂ : Canon s₂ := h₁.foldl (fun s c hs => hs.levelTwo c) _
  have h₃ : Canon s₃ := (h₂.level3 false).ite h₂
  exact h₁.ite ((h₃.getD fun _ => h₃.level4).ite h₃)

theorem Canon.resumeSwap (h : Canon s) : Canon s.resumeSwap :=
  h

theorem Canon.dueRecovery (h : Canon s) : Canon s.dueRecovery := by
  grind [Canon, State.dueRecovery, Canon.resumeSwap]

theorem Canon.commandDone (h : Canon s) (n : ℕ) (id : ℕ) : Canon (s.commandDone n id) :=
  h

theorem Canon.trySignal (h : Canon s) (n : ℕ) (id : ℕ) (dst : ℕ) (flag : ℕ) (v : Word) :
    Canon (s.trySignal n id dst flag v) := by
  grind [State.trySignal, Canon.commandDone, Canon.sendPacket, Canon.sendRein, Canon.setQueue]

theorem Canon.enqueue (h : Canon s) (home : ℕ) (r : BReq) : Canon (s.enqueue home r) :=
  h

theorem Canon.seekSlate (h : Canon s) (n : ℕ) (id : ℕ) (dst : ℕ) (len : ℕ) : Canon (s.seekSlate n id dst len) := by
  grind [State.seekSlate, Canon.setDie, Canon.queueError, Canon.commandDone, Canon.fresh, Canon.enqueue]

theorem Canon.settleCommand (h : Canon s) (n : ℕ) (id : ℕ) (c : Cmd) : Canon (s.settleCommand n id c) := by
  unfold State.settleCommand
  split
  · split
    · exact h.commandDone n id
    · exact h
  · split
    · exact h.trySignal ..
    · split
      · exact h
      · exact h.commandDone n id
  · exact h.seekSlate ..
  · exact h

theorem Canon.recordLook (h : Canon s) (q : Queue) (e : List Byte) : Canon (s.recordLook q e).1 := by
  grind [State.recordLook, Canon.hRead]

theorem Canon.headLook (h : Canon s) (q : Queue) : Canon (s.headLook q).1 := by
  grind [State.headLook, Canon.hRead, Canon.recordLook, Canon.readWord]

theorem Canon.evalQueue (h : Canon s) (n : ℕ) : Canon (s.evalQueue n) := by
  grind [State.evalQueue, Canon.doorbell, Canon.setQueue, Canon.headLook, Canon.queueError]

theorem Canon.settleQueue (h : Canon s) (n : ℕ) : Canon (s.settleQueue n) :=
  ((h.foldl (fun _ c hs => hs.settleCommand n c.1 c.2) _).settleReset n).evalQueue n

theorem Canon.settleQueues (h : Canon s) : Canon s.settleQueues :=
  h.foldl (fun _ n hs => hs.settleQueue n) _

theorem Canon.sendReports (h : Canon s) (k : Kernel) : Canon (s.sendReports k) :=
  (h.setKernel _).foldl (fun _ _ hs => hs.sendRein ..) _

theorem Canon.settleReports (h : Canon s) : Canon s.settleReports := by
  refine Canon.foldl (fun s k hs => ?_) h _
  split
  · exact (hs.sendReports _).ite hs
  · exact hs

theorem Canon.toLaunching (h : Canon s) (k : Kernel) : Canon (s.toLaunching k) :=
  h

theorem Canon.settleKernel (h : Canon s) (k : Kernel) : Canon (s.settleKernel k) := by
  grind [State.settleKernel, Canon.toLaunching, Canon.faultKernel]

theorem Canon.settleKernels (h : Canon s) : Canon s.settleKernels := by
  refine Canon.foldl (fun s k hs => ?_) h _
  split
  · exact (hs.settleKernel _).ite hs
  · exact hs

theorem Canon.clearHolds (h : Canon s) : Canon s.clearHolds :=
  h

theorem Canon.freshTag? (h : Canon s) (die : ℕ) (sector : ℕ) {t} (e : s.freshTag? die sector = some t) : Canon t.1 := by
  grind [State.freshTag?, Canon.setDie]

theorem Canon.setL2 (h : Canon s) (die : ℕ) (sector : ℕ) (l : List CSec) : Canon (s.setL2 die sector l) :=
  h

theorem Canon.intoL2 (h : Canon s) (die : ℕ) (sector : ℕ) (c : CSec) : Canon (s.intoL2 die sector c) :=
  h

theorem Canon.flushL1 (h : Canon s) (die : ℕ) (sector : ℕ) (tag : ℕ) (ia : ℕ) (len : ℕ) :
    Canon (s.flushL1 die sector tag ia len) :=
  h.foldl (fun _ _ hs => hs.ite ((hs.setCore _ _).foldl (fun _ _ hs => hs.intoL2 ..) _)) _

theorem Canon.carry (h : Canon s) (die : ℕ) (sector : ℕ) (old : List ℕ) (new : ℕ) (ia : ℕ) (len : ℕ) :
    Canon (s.carry die sector old new ia len) :=
  h

theorem Canon.newTag? (h : Canon s) (die : ℕ) (sector : ℕ) (old : List ℕ) (ia : ℕ) (len : ℕ) {t}
    (e : s.newTag? die sector old ia len = some t) :
    Canon t.1 := by
  refine Possibly.of (p := fun r => Canon r.1) (.bind fun r er => .some ?_) e
  exact Canon.carry (Canon.freshTag? (h.foldl (fun s o hs => hs.flushL1 ..) _) _ _ er) _ _ _ _ _ _

theorem Canon.retag (h : Canon s) (keep : Bool) (die sector : Nat) (l : List Nat) {t} (e : s.retag keep die sector l = some t) :
    Canon t := by
  refine Possibly.of ?_ e
  clear e
  induction l generalizing s with
  | nil => exact .some h
  | cons gid r ih => exact .bind fun g _ => .bind fun p ep => ih ((h.newTag? _ _ _ _ _ ep).setGrant _)

theorem Canon.restoreWave (h : Canon s) (w : Wave) (keep : Bool) (core : ℕ) (quad : ℕ) {t}
    (e : s.restoreWave w keep core quad = some t) :
    Canon t := by
  exact Possibly.of (.bind fun t et => .some ((h.retag _ _ _ _ et).setWave _)) e

theorem Canon.takeSpot (h : Canon s) (u : ℕ) {t} (e : s.takeSpot u = some t) : Canon t := by
  refine Possibly.of (.bind fun p _ => .bind fun w _ => .bind fun t et => .some ?_) e
  exact (h.restoreWave _ _ _ _ et).setCtx _ _

theorem Canon.waitingBins (h : Canon s) : Canon s.waitingBins := by
  refine Canon.forAll (fun s b hs => ?_) (h.forAll (fun s p hs _ => hs.takeSpot _) _) _
  split
  · exact fun _ => hs.launchBin? b
  · exact .none

theorem Canon.dueStart (h : Canon s) : Canon s.dueStart := by
  have h₁ := h.dueWaves.dueBins.dueMisses.dueDone.dueSlot.dueLinks.dueStarts.finishOps
  have h₂ := Canon.forAll (f := fun s w => if s.slotFree w then some (s.freeWave w) else none) (fun s w hs => by
    split
    · exact .some (hs.freeWave w)
    · exact .none) h₁
  exact (h₂ _).waitingBins.clearHolds.settleKernels.settleReports.settleQueues.dueRecovery.dueWatchdog.landRecords

theorem Canon.readTgt (h : Canon s) (t : Tgt) (a : ℕ) : Canon (s.readTgt t a).1 := by
  have hk := h.keyOf a
  unfold State.readTgt
  dsimp only
  split
  · exact h
  · split
    · exact h
    · split <;> (rename_i ek; rw [ek] at hk; exact hk)

theorem Canon.readByte (h : Canon s) (w : Wave) (seq : ℕ) (t : Tgt) (a : ℕ) : Canon (s.readByte w seq t a).1 := by
  grind [State.readByte, Canon.readTgt]

theorem Canon.readLane (h : Canon s) (w : Wave) (seq : Nat) (t : Tgt) (a n : Nat) : Canon (s.readLane w seq t a n).1 := by
  induction n generalizing s a with
  | zero => exact h
  | succ n ih =>
    have hb := h.readByte w seq t a
    unfold State.readLane
    split <;> (rename_i eb; rw [eb] at hb)
    · exact hb
    · have hn := ih hb (a + 1)
      split <;> (rename_i en; rw [en] at hn; exact hn)

theorem Canon.captureLane (h : Canon s) (w : Wave) (l : LoadP) (r : LaneRd) : Canon (s.captureLane w l r).1 := by
  grind [State.captureLane, Canon.readLane]

theorem Canon.capture (h : Canon s) (w : Wave) (l : LoadP) (only : Option Nat) (rs : List LaneRd) :
    Canon (s.capture w l only rs).1 := by
  induction rs generalizing s with
  | nil => exact h
  | cons r rs ih =>
    refine ih (s := (if only.all (· == r.lane) then s.captureLane w l r else (s, r)).1) ?_
    split
    · exact h.captureLane ..
    · exact h

theorem Canon.clearFull (h : Canon s) (gs : List ℕ) : Canon (s.clearFull gs) :=
  h

theorem Canon.feProceed (h : Canon s) (w : Wave) (l : LoadP) (clear : Bool) : Canon (s.feProceed w l clear).1 := by
  grind [State.feProceed, Canon.capture, Canon.clearFull]

theorem Canon.proceedFe (h : Canon s) (w : Wave) {t} (e : s.proceedFe w = some t) : Canon t := by
  refine Possibly.of ?_ e
  unfold State.proceedFe
  split
  · refine .guard (.bind fun l _ => .guard (.guard ?_))
    have hf := h.feProceed w l
    dsimp only
    split
    · exact .some ((hf _).failLoad _ _ _ _)
    · exact .some ((hf _).setWave _)
  · exact .none

theorem Canon.wroteRun (h : Canon s) (name : ℕ) (t : Tgt) (a : ℕ) (n : ℕ) : Canon (s.wroteRun name t a n) := by
  grind [State.wroteRun, Canon.wrote]

theorem Canon.writeRun (h : Canon s) (t : Tgt) (a : Nat) (bs : List Byte) : Canon (s.writeRun t a bs) := by
  induction bs generalizing s a with
  | nil => exact h
  | cons b bs ih => exact ih (h.writeTgt ..) _

theorem Canon.accept (h : Canon s) (w : Wave) (ch : ℕ) {t} (e : s.accept w ch = some t) : Canon t := by
  refine Possibly.of (.bind fun b _ => .bind fun g _ => .bind fun c _ => .guard (.some ?_)) e
  exact (((h.writeRun _ _ _).wroteRun _ _ _ _).setGroup _).setWave _

theorem Canon.arriveAt (h : Canon s) (gu : ℕ) (name : ℕ) : Canon (s.arriveAt gu name) := by
  grind [State.arriveAt, Canon.setGroup]

theorem Canon.arriveHead? (h : Canon s) (wave : ℕ) {t} (e : s.arriveHead? wave = some t) : Canon t := by
  refine Possibly.of (.bind fun w _ => .bind fun g _ => ?_) e
  split
  · exact .none
  · split
    · exact .none
    · exact .some ((h.setWave _).arriveAt _ _)

theorem Canon.serveBox (h : Canon s) (w : Wave) : Canon (s.serveBox w) := by
  refine Canon.forAll (fun s _ hs _ => hs.arriveHead? _) (Canon.ite h ?_) _
  exact h.forAll (fun s c hs => .bind fun w _ _ => hs.accept w c) _

theorem Canon.serveQuad (h : Canon s) (q : ℕ) : Canon (s.serveQuad q) :=
  h.foldl (fun _ w hs => hs.serveBox w) _

theorem Canon.takeTrap (h : Canon s) (w : Wave) (code : ℕ) (info : Word) (sc : ℕ) : Canon (s.takeTrap w code info sc) := by
  grind [State.takeTrap, Canon.setWave, Canon.record, Canon.killGroup]

theorem Canon.note (h : Canon s) (u : ℕ) (lanes : ℕ) (pc : Word) : Canon (s.note u lanes pc) :=
  h

theorem Canon.fetchFault (h : Canon s) (w : Wave) (p : Part) : Canon (s.fetchFault w p) := by
  grind [State.fetchFault, Canon.takeTrap, Canon.note]

theorem Canon.takeDeferred (h : Canon s) (w : Wave) (p : Part) : Canon (s.takeDeferred w p) := by
  grind [State.takeDeferred, Canon.takeTrap, Canon.note]

theorem Canon.holdPipe (h : Canon s) (core : ℕ) (quad : ℕ) (until_ : ℕ) : Canon (s.holdPipe core quad until_) :=
  h

theorem Canon.addHolder (h : Canon s) (g : Grant) : Canon (s.addHolder g) := by
  grind [State.addHolder, Canon.setGrant, Canon.setDie]

theorem Canon.copyGrants (h : Canon s) (owner : Nat) (l : List (Nat × Nat)) : Canon (s.copyGrants owner l) := by
  induction l generalizing s with
  | nil => exact h
  | cons p r ih =>
    unfold State.copyGrants
    split
    · exact ih h
    · exact ih (h.addHolder _)

theorem Canon.binFibre (h : Canon s) (g : Group) (core : ℕ) (mask : List (ℕ × ℕ)) (entry : Word) (f : Fibre) :
    Canon (s.binFibre g core mask entry f).1 := by
  unfold State.binFibre
  extract_lets mine closed s₁ here opened t s₂
  have h₁ : Canon s₁ := by
    unfold s₁ closed
    split
    · split
      · exact h
      · exact h.closeBin _
    · exact h
  have h₂ : Canon s₂ := by
    refine Canon.same (s := opened.1) ?_ rfl
    unfold opened
    split
    · exact h₁
    · refine Canon.copyGrants ?_ _ _
      split
      · exact h₁
      · split
        · exact h₁.closeBin _
        · exact h₁
  split
  · split
    · exact h₂.closeBin _
    · exact h₂
  · exact h₂

theorem Canon.binAll (h : Canon s) (g : Group) (core : Nat) (mask : List (Nat × Nat)) (l : List (Word × Fibre)) :
    Canon (s.binAll g core mask l).1 := by
  induction l generalizing s with
  | nil => exact h
  | cons p r ih => exact ih (h.binFibre ..)

theorem Canon.outOfL1 (h : Canon s) (core : ℕ) (tag : ℕ) (sec : ℕ) (drop : Bool) : Canon (s.outOfL1 core tag sec drop) := by
  grind [State.outOfL1, Canon.setCore, Canon.intoL2]

theorem Canon.loadHint (h : Canon s) (core : ℕ) (t : Tgt) (direct : Bool) (hint : ℕ) (z : ℕ) (addrs : List ℕ) :
    Canon (s.loadHint core t direct hint z addrs) := by
  unfold State.loadHint
  split
  · exact h
  · split
    · exact h
    · split
      · exact h
      · exact h.foldl (fun s p hs => hs.outOfL1 ..) _

theorem Canon.takeEntries (h : Canon s) (x : Iss) (n : ℕ) : Canon (s.takeEntries x n) :=
  h

theorem Canon.intoL1 (h : Canon s) (core : ℕ) (c : CSec) : Canon (s.intoL1 core c) := by
  grind [State.intoL1, Canon.setCore, Canon.intoL2]

theorem Canon.mergePiece (h : Canon s) (core : ℕ) (g : Grant) (hint : ℕ) (p : ℕ × ℕ × ℕ) :
    Canon (s.mergePiece core g hint p) := by
  grind [State.mergePiece, Canon.intoL1, Canon.outOfL1, Canon.intoL2]

theorem Canon.mergeStore (h : Canon s) (core : ℕ) (t : Tgt) (direct : Bool) (hint : ℕ) (z : ℕ) (addrs : List ℕ) :
    Canon (s.mergeStore core t direct hint z addrs) := by
  unfold State.mergeStore
  split
  · exact h
  · split
    · exact h
    · split
      · exact h
      · exact h.foldl (fun s p hs => hs.mergePiece ..) _

theorem Canon.dropLines (h : Canon s) (die : ℕ) (sector : ℕ) (tag : ℕ) (ia : ℕ) (len : ℕ) :
    Canon (s.dropLines die sector tag ia len) :=
  (h.foldl (fun _ _ hs => hs.ite (hs.setCore _ _)) _).setL2 _ _ _

theorem Canon.request (h : Canon s) (die : ℕ) (home : ℕ) (wave : ℕ) (r : BReq) : Canon (s.request die home wave r) := by
  unfold State.request
  split <;> exact h

theorem Canon.matPush (h : Canon s) (core : ℕ) (m : MatEnt) : Canon (s.matPush core m) :=
  h

theorem Canon.dispose (h : Canon s) (grp : Bool) (owner : ℕ) (codes : List ℕ) : Canon (s.dispose grp owner codes) := by
  refine Canon.foldl (fun s c hs => ?_) h _
  split
  · exact hs
  · exact hs.beginReturn _

theorem Canon.lastWave (h : Canon s) (gu : ℕ) : Canon (s.lastWave gu) := by
  grind [Canon, State.lastWave, Canon.setGroup, Canon.dispose]

theorem Canon.endWave (h : Canon s) (w : Wave) : Canon (s.endWave w).1 := by
  grind [State.endWave, Canon.lastWave, Canon.dispose, Canon.setWave]

theorem Canon.pinning (h : Canon s) (r : AccRef) {f : State → Option State} (hf : ∀ s, Canon s → Possibly Canon (f s)) {t}
    (e : s.pinning r f = some t) : Canon t := by
  refine Possibly.of ?_ e
  unfold State.pinning
  split
  · exact hf s h
  · exact .map fun r er => hf _ (by exact h) r er

theorem Canon.fillSec (h : Canon s) (core : ℕ) (g : Grant) (hint : ℕ) (sec : ℕ) : Canon (s.fillSec core g hint sec) := by
  grind [State.fillSec, Canon.intoL2, Canon.intoL1]

theorem Canon.filled (h : Canon s) (w : Wave) (l : LoadP) : Canon (s.filled w l).1 := by
  unfold State.filled
  have h₁ := h.missFree (s.coreOf w)
  dsimp only
  split
  · exact h₁ _
  · split
    · exact h₁ _
    · exact (h₁ _).foldl (fun s c hs => hs.fillSec ..) _

theorem Canon.acked (h : Canon s) (a : Ack) : Canon (s.acked a) := by
  grind [Canon, State.acked, Canon.touchDeliv, Canon.missFree]

theorem Canon.unparkedWave (h : Canon s) (w : Wave) : Canon (s.unparkedWave w).1 :=
  h

theorem Canon.swappedOut (h : Canon s) : Canon s.swappedOut :=
  h

theorem Canon.flushWave (h : Canon s) (w : Wave) : Canon (s.flushWave w) :=
  h.foldl (fun _ _ hs => hs.flushL1 ..) _

theorem Canon.saveWave (h : Canon s) (w : Wave) : Canon (s.saveWave w) := by
  grind [State.saveWave, Canon.flushWave, Canon.setGroup, Canon.setWave]

theorem Canon.readRun (h : Canon s) (t : Tgt) (a n : Nat) : Canon (s.readRun t a n).1 := by
  induction n generalizing s a with
  | zero => exact h
  | succ n ih =>
    have hb := h.readTgt t a
    unfold State.readRun
    split <;> (rename_i eb; rw [eb] at hb)
    · exact hb
    · have hn := ih hb (a + 1)
      split <;> (rename_i en; rw [en] at hn; exact hn)

theorem Canon.atomicLocal (h : Canon s) (t : Tgt) (op : AtOp) (ty : IType) (l : List AtLane) {r}
    (e : s.atomicLocal t op ty l = some r) : Canon r.1 := by
  refine Possibly.of (p := fun r => Canon r.1) ?_ e
  clear e
  induction l generalizing s with
  | nil => exact .some h
  | cons a l ih =>
    have hr := h.readRun t a.addr (itypeBytes ty)
    unfold State.atomicLocal
    split
    · exact .none
    · rename_i er
      exact .bind fun q eq => .some (ih ((hr.of_eq er).writeRun _ _ _) q eq)

theorem Canon.pushLine (h : Canon s) (gid : ℕ) (a : ℕ) {t} (e : s.pushLine gid a = some t) : Canon t := by
  refine Possibly.of (.bind fun g _ => ?_) e
  dsimp only
  split
  · exact .none
  · rename_i ew
    exact .some (((h.hWrite _ _).of_eq ew).setGrant _)

theorem Canon.ackTo (h : Canon s) (wave : ℕ) (entries : ℕ) : Canon (s.ackTo wave entries) := by
  grind [Canon, State.ackTo, Canon.fresh]

theorem Canon.drainHead (h : Canon s) (w : Wave) (e : OEnt) (rest : List OEnt) (path : ℕ) {t}
    (e : s.drainHead w e rest path = some t) :
    Canon t := by
  refine Possibly.of ?_ e
  unfold State.drainHead
  dsimp only
  split
  · split
    · exact .none
    · exact .some (((h.writeRun _ _ _).setWave _).setFull _ |>.wroteRun _ _ _ _)
  · refine .guard (.guard ?_)
    split
    · exact .some (h.failEntries ..)
    · exact .bind fun r er => .some ((h.atomicLocal _ _ _ _ er).setWave _)
  · split
    · exact .some (h.setWave _)
    · refine .bind fun g _ => ?_
      split
      · exact .some h
      · split
        · exact .none
        · exact .some (h.failEntries ..)
        · exact .some ((h.sendRein ..).setWave _)
  · split
    · exact .some (h.setWave _)
    · refine .bind fun g _ => ?_
      split
      · exact .some (((h.writeRun _ _ _).setWave _).wroteRun _ _ _ _)
      · split
        · exact .none
        · exact .some (h.failEntries ..)
        · refine .guard (.bind fun t et => ?_)
          have ht : ∀ die sector tag ia len, Canon (t.dropLines die sector tag ia len) := (h.pushLine _ _ et).dropLines
          split
          · split
            · exact .none
            · rename_i ew
              exact .some (((((ht _ _ _ _ _).hWrite _ _).of_eq ew).ackTo _ _).setWave _)
          · exact .bind fun u eu => .some ((Canon.sendPacket (ht _ _ _ _ _) _ _ _ _ _ _ _ _ _ _ _ eu).setWave _)
  · refine .bind fun g _ => ?_
    split
    · exact .some h
    · split
      · exact .none
      · exact .some (h.failEntries ..)
      · exact .some ((h.sendRein ..).setWave _)
  · exact .none

theorem Canon.atomicHome (h : Canon s) (op : AtOp) (t : IType) (l : List AtLane) {r}
    (e : s.atomicHome op t l = some r) : Canon r.1 := by
  refine Possibly.of (p := fun r => Canon r.1) ?_ e
  clear e
  induction l generalizing s with
  | nil => exact .some h
  | cons a l ih =>
    have hr := h.hRead a.addr (itypeBytes t)
    unfold State.atomicHome
    split
    · exact .none
    · rename_i er
      dsimp only
      split
      · exact .none
      · rename_i ew
        exact .bind fun q eq => .some (ih (((hr.of_eq er).hWrite _ _).of_eq ew) q eq)

theorem Canon.atomicDone (h : Canon s) (a : HAtom) (olds : List (ℕ × List Byte)) : Canon (s.atomicDone a olds) := by
  grind [State.atomicDone, Canon.setWave, Canon.ackTo]

theorem Canon.deliver (h : Canon s) (g : Grant) (entry : Option ℕ) {t} (e : s.deliver g entry = some t) : Canon t := by
  refine Possibly.of (.bind fun r er => .some ?_) e
  exact ((h.newTag? _ _ _ _ _ er).setGrant _).decideSf _ _

theorem Canon.takeAnswer (h : Canon s) (a : Answer) {t} (e : s.takeAnswer a = some t) : Canon t := by
  grind [State.takeAnswer, Canon.deliver, Canon.failRequest]

theorem Canon.unanswer (h : Canon s) (home : ℕ) (rid : ℕ) : Canon (s.unanswer home rid) :=
  h

theorem Canon.sendAnswer (h : Canon s) (home : ℕ) (a : Answer) {t} (e : s.sendAnswer home a = some t) : Canon t := by
  grind [State.sendAnswer, Canon.takeAnswer, Canon.unanswer, Canon.sendRein]

theorem Canon.returnChild (h : Canon s) (g : Grant) (parent : ℕ) : Canon (s.returnChild g parent) := by
  grind [State.returnChild, Canon.setGrant, Canon.carry, Canon.flushL1]

theorem Canon.homeReturn (h : Canon s) (g : Grant) : Canon (s.homeReturn g) := by
  grind [State.homeReturn, Canon.flushL1, Canon.fresh, Canon.setDie, Canon.dropHolder]

theorem Canon.takeReturn (h : Canon s) (g : Grant) (path : ℕ) {t} (e : s.takeReturn g path = some t) : Canon t := by
  refine Possibly.of ?_ e
  unfold State.takeReturn
  dsimp only
  split
  · exact .some (h.setGrant _)
  · split
    · exact .some (h.returnChild ..)
    · split
      · exact .some (h.setGrant _)
      · split
        · have hw := h.hWrite g.gs 0
          split <;> (rename_i ew; rw [ew] at hw)
          · exact .none
          · exact .some ((hw.setGrant _).homeReturn _)
        · split
          · exact .none
          · exact .some (h.setGrant _)
          · split
            · exact .some ((h.setGrant _).sendRein ..)
            · exact .bind fun t et => .some ((h.sendPacket _ _ _ _ _ _ _ _ _ _ _ et).setGrant _)

theorem Canon.makeEntry (h : Canon s) (home : ℕ) (r : BReq) {t} (e : s.makeEntry home r = some t) : Canon t.1 := by
  refine Possibly.of (p := fun r => Canon r.1) ?_ e
  unfold State.makeEntry
  split
  · exact .some (h.setDie _ _)
  · exact .bind fun i _ => .some (Canon.setDie (by exact h) _ _)

theorem Canon.drainChunkAt (h : Canon s) (op : ℕ) {t} (e : s.drainChunkAt op = some t) : Canon t := by
  refine Possibly.of (.bind fun o _ => .bind fun m _ => ?_) e
  split
  · exact .guard fun _ => h.drainStep _ _ _
  · exact .none

theorem Canon.fillByte (h : Canon s) (gid : ℕ) (off_ : ℕ) : Canon (s.fillByte gid off_).1 := by
  grind [State.fillByte, Canon.keyOf]

theorem Canon.readStream (h : Canon s) (g : Group) (o : CopyOp) (j n : Nat) {r} (e : s.readStream g o j n = some r) :
    Canon r.1 := by
  refine Possibly.of (p := fun r => Canon r.1) ?_ e
  clear e
  induction n generalizing s j with
  | zero => exact .some h
  | succ n ih =>
    unfold State.readStream
    split
    · exact .map fun q eq => ih h _ q eq
    · split
      · exact .map fun q eq => ih h _ q eq
      · extract_lets p x
        have hx : Canon x.1 := by
          unfold x
          split
          · exact h.fillByte ..
          · exact h.readTgt ..
        split
        · exact .none
        · exact .map fun q eq => ih hx _ q eq

theorem Canon.skipFault (h : Canon s) (o : CopyOp) (j : ℕ) : Canon (s.skipFault o j).1 := by
  grind [State.skipFault, Canon.defer]

theorem Canon.writeChunk (h : Canon s) (g : Group) (o : CopyOp) (cells : Store) : Canon (s.writeChunk g o cells) :=
  Canon.ite (h.foldl (fun _ _ hs => hs.engineWrite ..) _) ((h.foldl (fun _ _ hs => hs.engineWrite ..) _).wrote _ _)

theorem Canon.landed (h : Canon s) (op : ℕ) (cells : Store) (n : ℕ) : Canon (s.landed op cells n) := by
  grind [State.landed, Canon.accountChunk, Canon.setFull]

theorem Canon.putChunk (h : Canon s) (g : Group) (o : CopyOp) (bs : List (Option Byte)) (path : ℕ) {t}
    (e : s.putChunk g o bs path = some t) :
    Canon t := by
  refine Possibly.of ?_ e
  unfold State.putChunk
  dsimp only
  split
  · exact .some ((h.writeChunk ..).accountChunk ..)
  · split
    · exact .some (h.accountChunk ..)
    · split <;> refine .bind fun t et => ?_
      case' isTrue => have ht : Canon t := Option.some.inj et ▸ h.writeChunk ..
      case' isFalse => have ht : Canon t := h.pushLine _ _ et
      all_goals
        split
        · split
          · exact .none
          · rename_i ew
            exact .some (((ht.hWrite _ _).of_eq ew).landed _ _ _)
        · split
          · exact .none
          · exact .some ((ht.ite ((ht.setOp _).defer _ _)).accountChunk _ _)
          · exact fun _ => ht.sendPacket _ _ _ _ _ _ _ _ _ _ _

theorem Canon.fillDone (h : Canon s) (o : CopyOp) (n : ℕ) : Canon (s.fillDone o n) := by
  grind [State.fillDone, Canon.setGrant]

theorem Canon.chunk (h : Canon s) (o : CopyOp) (path : ℕ) {t} (e : s.chunk o path = some t) : Canon t := by
  refine Possibly.of (.bind fun g _ => .guard ?_) e
  split
  · exact .none
  · exact .some (h.failChunk ..)
  · refine .guard (.bind fun r er => ?_)
    have hr := Canon.readStream (h.setOp _) _ _ _ _ er
    dsimp only
    refine .bind fun t et => .bind fun o' _ => .some (Canon.setOp (Canon.chanChunk
      (Canon.fillDone (Canon.putChunk (Canon.setOp ?_ _) _ _ _ _ et) _ _) _ _) _)
    split
    · exact hr.skipFault _ _
    · exact hr

theorem Canon.arrivedAt (h : Canon s) (p : Packet) : Canon (s.arrivedAt p) := by
  grind [Canon, State.arrivedAt, Canon.passEntries]

theorem Canon.sendMarkers (h : Canon s) (m : Rein) (l : List (Nat × Nat × Nat)) : Canon (s.sendMarkers m l) := by
  induction l generalizing s with
  | nil => exact h
  | cons p r ih => exact ih (s := { s with nextUid := _, packets := _, reins := _ }) h

theorem Canon.epReturn (h : Canon s) (home : ℕ) (ep : ℕ) (ia : ℕ) (len : ℕ) (kind : Kind) :
    Canon (s.epReturn home ep ia len kind) := by
  grind [State.epReturn, Canon.dropHolder]

theorem Canon.stampArrives (h : Canon s) (kernel : ℕ) : Canon (s.stampArrives kernel) := by
  unfold State.stampArrives
  split <;> exact h

theorem Canon.reinAct (h : Canon s) (m : Rein) {t} (e : s.reinAct m = some t) : Canon t := by
  grind [Canon, State.reinAct, Canon.enqueue, Canon.homeReturn, Canon.epReturn, Canon.takeAnswer, Canon.stampArrives,
    Canon.reported]

theorem Canon.stayUnacked (h : Canon s) (m : Rein) : Canon (s.stayUnacked m) :=
  h

theorem Canon.mergeLines (h : Canon s) (merged : List (ℕ × ℕ)) (g : Grant) : Canon (s.mergeLines merged g) :=
  Canon.ite (h.foldl (fun _ _ hs => Canon.ite (hs.hWrite _ _) hs) _) h

theorem Canon.dropParked (h : Canon s) (ctx : ℕ) : Canon (s.dropParked ctx) := by
  unfold State.dropParked
  extract_lets gone has free s₁ s₂
  have hf {s : State} (hs : Canon s) (wave entries : Nat) : Canon (free s wave entries) := by
    unfold free
    split
    · exact hs.missFree _ _
    · exact hs
  have h₂ : Canon s₂ := (h.foldl (fun s p hs => hf hs _ _) _).foldl (fun s x hs => hf hs _ _) _
  clear_value s₂
  exact h₂

theorem Canon.spoil? (h : Canon s) (core : ℕ) (l : LoadP) (lane : ℕ) (at_ : ℕ) (tier : ℕ) {t}
    (e : s.spoil? core l lane at_ tier = some t) :
    Canon t := by
  refine Possibly.of (p := Canon) ?_ e
  unfold State.spoil?
  exact .bind fun r _ => .guard (.bind fun p _ => .guard (.some (h.same rfl)))

theorem Canon.dropAtomic (h : Canon s) (w : Wave) (id : ℕ) : Canon (s.dropAtomic w id) :=
  h

theorem Canon.errLoad (h : Canon s) (wave : ℕ) (id : ℕ) (lane : ℕ) (at_ : ℕ) (tier : ℕ) {t}
    (e : s.errLoad wave id lane at_ tier = some t) :
    Canon t := by
  refine Possibly.of (.bind fun w _ => .bind fun l _ => .bind fun t et => .bind fun w' _ => .some (Canon.failLoad ?_ _ _ _ _)) e
  have ht := h.spoil? _ _ _ _ _ et
  split
  · exact ht.dropAtomic ..
  · exact ht

theorem Canon.errMatrix (h : Canon s) (core : ℕ) (n : ℕ) (tier : ℕ) {t} (e : s.errMatrix core n tier = some t) : Canon t := by
  refine Possibly.of (.bind fun m _ => .guard (.some ?_)) e
  have hd : Canon (if n = 0 then s else (s.drainStep core m n).getD s) := by
    split
    · exact h
    · exact h.getD fun _ => h.drainStep _ _ _
  exact Canon.ite (hd.failMat ..) hd

theorem Canon.portZero (h : Canon s) : Canon s.portZero :=
  Canon.ite h (h.setLink _ _)

theorem Canon.toMinimal (h : Canon s) : Canon s.toMinimal := by
  grind [Canon, State.toMinimal, Canon.portZero]

theorem Canon.takeCore (h : Canon s) (core : ℕ) (ctx : ℕ) : Canon (s.takeCore core ctx) := by
  grind [State.takeCore, Canon.setCtx, Canon.setCore]

theorem Canon.bindShare (h : Canon s) (die : ℕ) (core : ℕ) (base : ℕ) (len : ℕ) : Canon (s.bindShare die core base len) :=
  sdels_wf _ _ h

theorem Canon.launchWaves (h : Canon s) (g : Group) (k : Kernel) (i n : Nat) : Canon (s.launchWaves g k i n) := by
  induction n generalizing s i with
  | zero => exact h
  | succ n ih => exact ih (s := { s.fresh.1 with waves := _ }) h _

theorem Canon.allPlaced (h : Canon s) (ku : ℕ) : Canon (s.allPlaced ku) := by
  grind [State.allPlaced, Canon.settleKernels, Canon.setKernel]

theorem Canon.placeGroup (h : Canon s) (k : Kernel) (v : ℕ) (die : ℕ) (cores : List ℕ) :
    Canon (s.placeGroup k v die cores) := by
  have h₁ := h.foldl (fun s c hs => (hs.bindShare die c.1 c.2 (shareLen k.scr cores.length)).takeCore (die * 40 + c.1) k.ctx)
    (cores.zip (cores.map fun c => (s.shareBase? die c (shareLen k.scr cores.length)).getD 0))
  exact ((Canon.launchWaves (by exact h₁) _ k 0 k.wpg).setKernel _).allPlaced k.uid

theorem Canon.recordPark (h : Canon s) (die : ℕ) (r : AccRef) (ia : ℕ) (reason : ℕ) (level : ℕ) :
    Canon (s.recordPark die r ia reason level) := by
  grind [State.recordPark, Canon.record, Canon.setDie]

theorem Canon.parkAt (h : Canon s) (die : ℕ) (p : Parked) (reason : ℕ) (level : ℕ) : Canon (s.parkAt die p reason level) := by
  grind [State.parkAt, Canon.recordPark, Canon.setDie]

theorem Canon.walk (h : Canon s) (ia : ℕ) : Canon (s.walk ia).1 := by
  grind [State.walk, Canon.keyOf]

theorem Canon.inboundLine (h : Canon s) (x : Inbound) (ia : ℕ) : Canon (s.inboundLine x ia) := by
  grind [State.inboundLine, Canon.hWrite]

theorem Canon.inboundEnd (h : Canon s) (x : Inbound) (flag : Option ℕ) : Canon (s.inboundEnd x flag) := by
  unfold State.inboundEnd
  split
  · exact h.same rfl
  · exact h.epReturn ..
  · exact h

theorem Canon.wake (h : Canon s) (r : AccRef) (ia : ℕ) : Canon (s.wake r ia) := by
  unfold State.wake
  split
  · split
    · exact h
    · extract_lets t
      have ht : Canon t := h.inboundLine ..
      split
      · exact ht
      · exact (ht.inboundEnd ..).same rfl
  · extract_lets die
    split
    · exact Canon.ite h (h.setDie _ _)
    · exact h

theorem Canon.takeEntry (h : Canon s) (n : ℕ) {t} (e : s.takeEntry n = some t) : Canon t.1 := by
  grind [State.takeEntry, Canon.hRead, Canon.hWrite, Canon.setQueue]

theorem Canon.commandRuns (h : Canon s) (n : ℕ) (c : Cmd) : Canon (s.commandRuns n c) :=
  h

theorem Canon.recordRead (h : Canon s) (k : Kernel) : Canon (s.recordRead k) := by
  grind [State.recordRead, Canon.settleKernels, Canon.setKernel]

theorem Canon.startLaunch (h : Canon s) (n : ℕ) (i : ℕ) (e : List Byte) (prev : Option ℕ) :
    Canon (s.startLaunch n i e prev) := by
  grind [Canon, State.startLaunch, Canon.queueError, Canon.hRead, Canon.fresh, Canon.commandRuns, Canon.recordRead,
    Canon.setQueue]

theorem Canon.startWaitq (h : Canon s) (n : ℕ) (e : List Byte) : Canon (s.startWaitq n e) := by
  grind [State.startWaitq, Canon.queueError, Canon.commandRuns]

theorem Canon.startSignal (h : Canon s) (n : ℕ) (e : List Byte) : Canon (s.startSignal n e) := by
  grind [State.startSignal, Canon.queueError, Canon.trySignal, Canon.commandRuns]

theorem Canon.startSlatew (h : Canon s) (n : ℕ) (e : List Byte) : Canon (s.startSlatew n e) := by
  grind [State.startSlatew, Canon.queueError, Canon.commandRuns]

theorem Canon.startGeodew (h : Canon s) (n : ℕ) (e : List Byte) : Canon (s.startGeodew n e) := by
  grind [State.startGeodew, Canon.queueError, Canon.commandRuns]

theorem Canon.rewalk (h : Canon s) (die : Nat) (l : List Parked) : Canon (s.rewalk die l) := by
  induction l generalizing s with
  | nil => exact h
  | cons p r ih =>
    have hw := (h.setDie die { s.die die with parked := dropIf (· == p) (s.die die).parked }).walk p.ia
    unfold State.rewalk
    dsimp only
    split <;> (rename_i ew; rw [ew] at hw)
    · exact ih (hw.wake _ _)
    · exact ih ((hw.setDie _ _).recordPark ..)

theorem Canon.replayDie (h : Canon s) (die : ℕ) : Canon (s.replayDie die) := by
  grind [Canon, State.replayDie, Canon.rewalk, Canon.setDie]

theorem Canon.replayMask (h : Canon s) (mask : ℕ) : Canon (s.replayMask mask) :=
  h.foldl (fun _ d hs => hs.replayDie d) _

theorem Canon.startEntry (h : Canon s) (n : ℕ) (i : ℕ) (e : List Byte) : Canon (s.startEntry n i e) := by
  grind [State.startEntry, Canon.setQueue, Canon.queueError, Canon.startLaunch, Canon.startWaitq, Canon.startSignal,
    Canon.startSlatew, Canon.startGeodew, Canon.replayMask]

theorem Canon.startHead (h : Canon s) (q : Queue) {t} (e : s.startHead q = some t) : Canon t := by
  refine Possibly.of (.bind fun r er => .some (Canon.evalQueue (Canon.startEntry ?_ _ _ _) _)) e
  exact h.takeEntry _ er

theorem Canon.startOf (h : Canon s) (n : ℕ) (code : ℕ) {t} (e : s.startOf n code = some t) : Canon t := by
  exact Possibly.of (.guard (.bind fun q _ => .guard fun _ => h.startHead q)) e

theorem Canon.startSwap (h : Canon s) : Canon s.startSwap := by
  unfold State.startSwap
  split <;> exact h

theorem Canon.disown (h : Canon s) (n : ℕ) : Canon (s.disown n) := by
  grind [Canon, State.disown, Canon.doorbell, Canon.setQueue]

theorem Canon.stopGroup (h : Canon s) (gu : ℕ) : Canon (s.stopGroup gu) := by
  grind [Canon, State.stopGroup, Canon.scramble]

theorem Canon.killContext (h : Canon s) (ctx : ℕ) : Canon (s.killContext ctx) := by
  refine Canon.foldl (fun s g hs => hs.stopGroup g) (Canon.foldl (fun s n hs => hs.disown n) ?_ _) _
  exact (h.setCtx ctx { s.ctx ctx with st := .killing, preempting := false }).same rfl

theorem Canon.kill? (h : Canon s) (ctx : ℕ) {t} (e : s.kill? ctx = some t) : Canon t := by
  refine Possibly.of ?_ e
  unfold State.kill?
  split
  · exact .some ((h.setCtx _ _).foldl (fun s n hs => hs.disown n) _)
  · exact .some (h.killContext ctx)
  · exact .some (h.killContext ctx)
  · exact .some (h.killContext ctx)
  · exact .none

theorem Canon.level1 (h : Canon s) (ctx : ℕ) (req : Bool) {t} (e : s.level1 ctx req = some t) : Canon t := by
  exact Canon.kill? (by exact h.wdogRecord ctx 1 req 0 false) _ e

theorem Canon.reqLevel3 (h : Canon s) {t} (e : s.reqLevel3 = some t) : Canon t := by
  grind [State.reqLevel3, Canon.level3]

theorem Canon.wdogWrite (h : Canon s) (v : Word) {t} (e : s.wdogWrite v = some t) : Canon t := by
  grind [State.wdogWrite, Canon.level1, Canon.level2, Canon.reqLevel3, Canon.level4]

theorem Canon.setTable (h : Canon s) (die : ℕ) (t : ℕ) (x : GTab) : Canon (s.setTable die t x) :=
  h

theorem Canon.setUp (h : Canon s) (ctx : ℕ) : Canon (s.setUp ctx) := by
  grind [State.setUp, Canon.setCtx]

theorem Canon.saveGroup (h : Canon s) (g : Group) : Canon (s.saveGroup g) := by
  have h₁ := h.foldl (fun s w hs => hs.saveWave w) (s.toSave g.uid)
  unfold State.saveGroup
  extract_lets t
  split
  · exact h₁
  · exact h₁.same rfl

theorem Canon.endPreempt (h : Canon s) (ctx : ℕ) {t} (e : s.endPreempt ctx = some t) : Canon t := by
  refine Possibly.of ?_ e
  unfold State.endPreempt
  dsimp only
  split
  · exact .some ((h.foldl (fun s g hs => hs.saveGroup g) _).setCtx _ _)
  · exact .none

theorem Canon.beginPreempt (h : Canon s) (ctx : ℕ) {t} (e : s.beginPreempt ctx = some t) : Canon t := by
  refine Possibly.of ?_ e
  unfold State.beginPreempt
  dsimp only
  split
  · exact .some ((h.setCtx _ _).foldl (fun s q hs => hs.setQueue _) _)
  · exact .none

theorem Canon.leaveCore (h : Canon s) (w : Wave) : Canon (s.leaveCore w) :=
  h

theorem Canon.loadFrame (h : Canon s) (g : Group) : Canon (s.loadFrame g) := by
  have h₁ := (h.foldl (fun s c hs => hs.putByte (g.spKey c.1) c.2) g.frame).setFull (g.frameFull.map fun n => g.spKey (16 * n) / 16)
  unfold State.loadFrame
  extract_lets t u v i
  have hv : Canon v := Canon.foldl (fun s c hs => by exact hs.setCore _ _) h₁ _
  split
  · exact hv
  · exact hv.setCore _ _

theorem Canon.restoreWaves (h : Canon s) (keep : Bool) (l : List Nat) {t} (e : s.restoreWaves keep l = some t) : Canon t := by
  refine Possibly.of ?_ e
  clear e
  induction l generalizing s with
  | nil => exact .some h
  | cons u r ih => exact .bind fun w _ => .bind fun p ep => ih (h.restoreWave _ _ _ _ ep)

theorem Canon.moveReq (h : Canon s) (gid : ℕ) (die : ℕ) (sector : ℕ) : Canon (s.moveReq gid die sector) :=
  h

theorem Canon.moveGrants (h : Canon s) (g : Group) (sector : ℕ) {t} (e : s.moveGrants g sector = some t) : Canon t := by
  refine Possibly.of (.bind fun t et => .some ?_) e
  refine Canon.foldl (fun s r hs => ?_) (h.retag _ _ _ _ et) _
  split
  · exact hs.moveReq ..
  · exact Canon.ite ((hs.moveReq ..).setDie _ _) (hs.moveReq ..)

theorem Canon.restoreGroup (h : Canon s) (g : Group) {t} (e : s.restoreGroup g = some t) : Canon t := by
  refine Possibly.of (p := Canon) (.bind fun k _ => .bind fun p _ => ?_) e
  obtain ⟨v, die, cores⟩ := p
  dsimp -zeta only
  extract_lets old len bases core moved t u g' v w x y sec keep
  have ht : Canon t := Canon.ite (h.foldl (fun _ _ hs => hs.leaveCore _) _) h
  have hu : Canon u := ht.foldl (fun _ c hs => (hs.bindShare die c.1 c.2 len).takeCore (die * 40 + c.1) k.ctx) _
  have hv : Canon v := (hu.setGroup g').loadFrame g'
  have hy : Canon y := hv.same rfl
  clear_value y
  split
  · exact .bind fun t et => .bind fun u eu => .some (Canon.setCtx (Canon.restoreWaves (Option.some.inj et ▸ hy) _ _ eu) _ _)
  · exact .bind fun t et => .bind fun u eu => .some (Canon.setCtx (Canon.restoreWaves (hy.moveGrants _ _ et) _ _ eu) _ _)

theorem Canon.restoreAll (h : Canon s) (l : List Nat) : Canon (s.restoreAll l) := by
  induction l generalizing s with
  | nil => exact h
  | cons u r ih =>
    unfold State.restoreAll
    split
    · rename_i e
      obtain ⟨g, _, eg⟩ := Option.bind_eq_some_iff.1 e
      exact ih (h.restoreGroup _ eg)
    · exact h

theorem Canon.backInService (h : Canon s) : Canon s.backInService :=
  h

theorem Canon.refuseAt (h : Canon s) (port : ℕ) : Canon (s.refuseAt port) :=
  h

theorem Canon.inboundAt (h : Canon s) (ep : ℕ) (port : ℕ) (win : ℕ) (ia : ℕ) (acc : InAcc) (flag : Option ℕ) :
    Canon (s.inboundAt ep port win ia acc flag) := by
  unfold State.inboundAt State.fresh
  dsimp -zeta only
  extract_lets x u
  have hu : Canon u := by
    refine Canon.foldl (fun s a hs => ?_) ?_ _
    · have hw := hs.walk a
      split
      next e => exact (hw.of_eq e).inboundLine ..
      next e => exact (hw.of_eq e).parkAt ..
    · exact h.same rfl
  split
  · exact hu.same rfl
  · exact hu.inboundEnd ..

theorem Canon.sweepDie (h : Canon s) (n : ℕ) (die : ℕ) (r : BitVec 16 × BitVec 16 × BitVec 32 × BitVec 16) :
    Canon (s.sweepDie n die r) := by
  grind [State.sweepDie, Canon.setDie, Canon.retireDie]

theorem Canon.sweep (h : Canon s) (r : Readings) : Canon (s.sweep r) := by
  unfold State.sweep
  refine Canon.foldl (fun _ _ hs => hs.sweepDie ..) ?_ _
  exact h.same rfl

theorem Canon.takeSample (h : Canon s) (core : ℕ) {t} (e : s.takeSample core = some t) : Canon t := by
  refine Possibly.of (.bind fun g _ => ?_) e
  dsimp only
  split
  · exact .some (((h.foldl (fun s b hs => hs.putByte _ _) _).setFull _).setCore _ _)
  · exact .some (h.setCore _ _)

theorem Canon.imageHeader? (h : Canon s) : Canon s.imageHeader?.1 := by
  grind [State.imageHeader?, Canon.hRead]

theorem Canon.trainLinks (h : Canon s) (ns : List ℕ) : Canon (s.trainLinks ns) :=
  h.foldl (fun _ _ hs => hs.command ..) ns

theorem Canon.enterStage1 (h : Canon s) : Canon s.enterStage1 := by
  grind [Canon, State.enterStage1, Canon.trainLinks]

theorem Canon.stageLoss (h : Canon s) (x : StageLoss) : Canon (s.stageLoss x) := by
  unfold State.stageLoss
  exact (Canon.foldl (fun _ _ hs => hs.setLink ..) (h.foldl (fun _ _ hs => hs.retireDie ..) _) _).same rfl

theorem Canon.fetchLost (h : Canon s) (w : Wave) (p : Part) (reason : ℕ) (ia : ℕ) : Canon (s.fetchLost w p reason ia) := by
  grind [State.fetchLost, Canon.takeTrap, Canon.note]

theorem Canon.sweepTag (h : Canon s) (die : ℕ) (sector : ℕ) (tag : ℕ) : Canon (s.sweepTag die sector tag) := by
  grind [State.sweepTag, Canon.dropLines]

theorem Canon.offer (h : Canon s) (w : Wave) (line : ℕ) : Canon (s.offer w line) :=
  h

theorem Canon.tick (h : Canon s) : Canon s.tick :=
  h

theorem Canon.answer (h : Canon s) (home : ℕ) (r : BReq) (v : Verdict) : Canon (s.answer home r v) :=
  h

theorem Canon.giveEntry (h : Canon s) (home : ℕ) (r : BReq) {t} (e : s.giveEntry home r = some t) : Canon t := by
  refine Possibly.of (.bind fun p ep => ?_) e
  have hp := h.makeEntry _ _ ep
  dsimp only
  split
  · exact .some (by split <;> [split; skip] <;> exact hp)
  · exact .some (Canon.answer (by split <;> [split; skip] <;> exact hp) _ _ _)

theorem Canon.decide? (h : Canon s) (home : ℕ) (ahead : List BReq) (r : BReq) {t} (e : s.decide? home ahead r = some t) :
    Canon t := by
  grind [State.decide?, Canon.answer, Canon.giveEntry]

theorem Canon.scanQueue (h : Canon s) (home : Nat) (left l : List BReq) : Canon (s.scanQueue home left l) := by
  induction l generalizing s left with
  | nil => exact h.setDie _ _
  | cons r rest ih =>
    unfold State.scanQueue
    split
    · rename_i e
      exact ih (h.decide? _ _ _ e) _
    · exact ih h _

theorem Canon.arriveReq (h : Canon s) (home : ℕ) (r : BReq) : Canon (s.arriveReq home r) := by
  grind [State.arriveReq, Canon.decide?, Canon.setDie]

theorem Canon.settleBrand (h : Canon s) (home : ℕ) : Canon (s.settleBrand home) := by
  unfold State.settleBrand
  extract_lets d t u
  have hu : Canon u := by
    simp only [u]
    split
    · exact Canon.scanQueue (h.setDie ..) ..
    · exact h.setDie ..
  split
  · exact h
  · exact hu.foldl (fun _ _ hs => hs.arriveReq ..) _

theorem Canon.dueSweep (h : Canon s) : Canon s.dueSweep := by
  grind [State.dueSweep, Canon.sweep]

theorem Canon.completeBar (h : Canon s) (gu : ℕ) (name : ℕ) : Canon (s.completeBar gu name) := by
  grind [Canon, State.completeBar, Canon.setGroup]

theorem Canon.completeBars (h : Canon s) : Canon s.completeBars :=
  h.foldl (fun _ _ hs => hs.foldl (fun _ _ hs => hs.completeBar ..) _) _

theorem Canon.dueArrives (h : Canon s) : Canon s.dueArrives :=
  h.foldl (fun _ w hs => hs.forAll (fun _ _ hs _ e => hs.arriveHead? _ e) w.arrives) _

theorem Canon.dueEnd (h : Canon s) : Canon s.dueEnd := by
  unfold State.dueEnd
  exact Canon.forAll (fun _ _ hs _ e => hs.takeSample _ e)
    (h.dueArrives.completeBars.dueSweep.foldl (fun _ _ hs => hs.settleBrand _) _) _

theorem Canon.taken (h : Canon s) (i : Instr) (r : List Instr) : Canon (s.taken i r) :=
  h

end Sys2Proof.Canonical
end

section
/-! Words: their checks name no state, and their effects keep the canonical form of memory (O50). -/

namespace Sys2Proof.Canonical

open Sys2Proof Sys2Proof.Machine Sys2Proof.Laws

variable {s : State}

/-- The states that a word's effect names have canonical memory. -/
def EffCanon : Eff → Prop
  | .stay s => Canon s
  | .done s _ _ => Canon s
  | _ => True

/-- Where a check fails, it names no state whose memory is not canonical. -/
structure Plain {α : Type} (c : Chk α) : Prop where
  err : ∀ e, c = .error e → EffCanon e

/-- The next state of an outcome has canonical memory. -/
structure Lands (o : Out) : Prop where
  canon : ∀ t, o = .next t → Canon t

section

variable {α β : Type} {c : Chk α}

theorem Plain.ok (a : α) : Plain (.ok a : Chk α) := ⟨fun _ e => nomatch e⟩

theorem Plain.error {e : Eff} (h : EffCanon e) : Plain (.error e : Chk α) := ⟨fun _ he => Except.error.inj he ▸ h⟩

theorem Plain.bind {f : α → Chk β} (hc : Plain c) (hf : ∀ a, c = .ok a → Plain (f a)) : Plain (c >>= f) := by
  cases c with
  | error e => exact Plain.error (hc.err e rfl)
  | ok a => exact hf a rfl

theorem Plain.ite {p : Prop} [Decidable p] {d : Chk α} (hc : Plain c) (hd : Plain d) : Plain (if p then c else d) := by
  split <;> assumption

/-- A checked word's effect, taken apart at its first check. -/
theorem EffCanon.bind {f : α → Chk Eff} (hc : Plain c) (hf : ∀ a, c = .ok a → EffCanon (f a).eff) :
    EffCanon (Chk.eff (c >>= f)) := by
  cases c with
  | error e => exact hc.err e rfl
  | ok a => exact hf a rfl

end

theorem EffCanon.ite {p : Prop} [Decidable p] {a b : Eff} (ha : EffCanon a) (hb : EffCanon b) :
    EffCanon (if p then a else b) := by
  split <;> assumption

theorem EffCanon.iteChk {p : Prop} [Decidable p] {a b : Chk Eff} (ha : EffCanon a.eff) (hb : EffCanon b.eff) :
    EffCanon (if p then a else b).eff := by
  split <;> assumption

/-! The checks of words -/

theorem Plain.need (c : Bool) (code : Nat) (info : Word) : Plain (need c code info) := Plain.ite (.ok _) (.error trivial)

theorem Plain.regFault (s : State) (r : RegRef) : Plain (s.regFault r) := by
  unfold State.regFault
  split
  · exact .error trivial
  · exact .ok _

theorem Plain.usable (x : Iss) (code : Nat) (ro : Bool) (kinds : List Kind) (op : Nat) : Plain (x.usable code ro kinds op) := by
  unfold Iss.usable
  extract_lets r
  split
  next e he => exact .error ((Plain.regFault x.s r).err e he)
  · split
    · exact .error trivial
    · exact .ite (.error trivial) (.ite (.error trivial) (.ite (.error trivial) (.ok _)))

theorem Plain.inBounds (code len z : Nat) (offs : List (Nat × Nat)) : Plain (inBounds code len z offs) := by
  unfold Machine.inBounds
  split
  · exact .error trivial
  · exact .ok _

theorem Plain.aligned (code z : Nat) (offs : List (Nat × Nat)) : Plain (aligned code z offs) := by
  unfold Machine.aligned
  split
  · exact .error trivial
  · exact .ok _

theorem Plain.place (x : Iss) (g? : Option GCode) (offs : List (Nat × Nat)) (z : Nat) (ro : Bool) (kinds : List Kind) (op : Nat)
    (fe : Fe) : Plain (x.place g? offs z ro kinds op fe) := by
  cases g? with
  | none => exact .bind (.inBounds ..) fun _ _ => .bind (.aligned ..) fun _ _ => .ok _
  | some c =>
    exact .bind (.usable ..) fun _ _ => .bind (.inBounds ..) fun _ _ => .bind (.aligned ..) fun _ _ => .bind (.need ..) fun _ _ => .ok _

theorem Plain.storeFree (x : Iss) (t : Tgt) (z : Nat) (addrs : List Nat) : Plain (x.storeFree t z addrs) :=
  Plain.ite (.error trivial) (.ok _)

theorem Plain.emptyReg (s : State) (r : RegRef) (w : Nat) : Plain (s.emptyReg r w) := by
  unfold State.emptyReg
  split
  next e he => exact .error ((Plain.regFault s r).err e he)
  · split
    · exact .ok _
    · exact .error trivial

theorem Plain.splitTarget (x : Iss) (d i : Nat) (toRegs : Bool) : Plain (x.splitTarget d i toRegs) := by
  unfold Iss.splitTarget
  split
  · exact .bind (.emptyReg ..) fun _ _ => .ok _
  · split
    · exact .error trivial
    · exact .bind (.emptyReg ..) fun _ _ => .ok _

theorem Plain.splitSource (x : Iss) (a d : Nat) (toRegs : Bool) : Plain (x.splitSource a d toRegs) := by
  unfold Iss.splitSource
  split
  · exact .error trivial
  · exact .usable ..

theorem Plain.mapM {α β : Type} {f : α → Chk β} (hf : ∀ a, Plain (f a)) (l : List α) : Plain (l.mapM f) := by
  induction l with
  | nil => exact .ok _
  | cons a r ih =>
    rw [List.mapM_cons]
    exact .bind (hf a) fun _ _ => .bind ih fun _ _ => .ok _

theorem Plain.rgmvTarget (x : Iss) (d widx : Nat) : Plain (x.rgmvTarget d widx) := by
  unfold Iss.rgmvTarget
  refine .ite (.ok _) ?_
  split
  · exact .error trivial
  · exact .ok _

theorem Plain.ctlOf (v : Word) : Plain (ctlOf v) := .bind (.need ..) fun _ _ => .ok _

theorem Plain.descCopy (r : Nat → Word) : Plain (descCopy r) := .bind (.need ..) fun _ _ => .ok _

theorem Plain.descCopy2 (r : Nat → Word) : Plain (descCopy2 r) := .bind (.need ..) fun _ _ => .ok _

theorem Plain.descIndexed (scat : Bool) (r : Nat → Word) : Plain (descIndexed scat r) :=
  .bind (.need ..) fun _ _ => .bind (.need ..) fun _ _ => .ok _

theorem Plain.inRange (code size : Nat) (r : Nat × Nat) : Plain (inRange code size r) := .need ..

theorem Plain.endpoint (x : Iss) (e : Endp) (sink : Bool) (range : Option (Nat × Nat)) (len : Nat) :
    Plain (x.endpoint e sink range len) := by
  cases e with
  | region c =>
    refine .bind (.usable ..) fun g _ => ?_
    cases range with
    | none => exact .ok _
    | some r => exact .bind (.inRange ..) fun _ _ => .ok _
  | sp =>
    cases range with
    | none => exact .ok _
    | some r => exact .bind (.inRange ..) fun _ _ => .ok _
  | chan c =>
    unfold Iss.endpoint
    dsimp only
    split
    · exact .error trivial
    · exact .bind (.need ..) fun _ _ => .bind (.need ..) fun _ _ => .bind (.need ..) fun _ _ => .ok _

theorem Plain.flagRule (x : Iss) (ctl : Ctl) (dst : Endp) (e : End) : Plain (x.flagRule ctl dst e) := by
  unfold Iss.flagRule
  split
  · split
    · exact .ok _
    · split
      · exact .bind (.usable ..) fun _ _ => .bind (.inBounds ..) fun _ _ => .bind (.need ..) fun _ _ => .ok _
      · exact .bind (.need ..) fun _ _ => .ok _
  · exact .bind (.need ..) fun _ _ => .ok _

theorem Plain.hvPlace (x : Iss) (e : Endp) (off_ : Nat) (store : Bool) : Plain (x.hvPlace e off_ store) := by
  unfold Iss.hvPlace
  extract_lets offs
  split
  · exact .bind (.usable ..) fun _ _ => .bind (.inBounds ..) fun _ _ => .bind (.aligned ..) fun _ _ => .ok _
  · exact .bind (.inBounds ..) fun _ _ => .bind (.aligned ..) fun _ _ => .ok _

/-! The shared forms of words -/

section

variable {us : List Use} {h : Hd} {pipe : Pipe} {eff : Iss → List Nat → Eff}

theorem Canon.trap {x : Iss} (hx : Canon x.s) (sc code : Nat) (info : Word) : Canon (x.trap sc code info) :=
  (hx.note _ _ _).takeTrap ..

theorem Canon.finish (hs : Canon s) (x : Iss) (us : List Use) (pipe : Pipe) (k sc : Nat) (w : Wave) (mv : Move) :
    Canon (x.finish us pipe k sc s w mv) := by
  unfold Iss.finish
  extract_lets r e idle v t
  have ht : Canon t := hs.same rfl
  clear_value t
  split
  · exact ht
  · exact ht.holdPipe ..
  · exact ht.ite (ht.holdPipe ..)

theorem Canon.issueOn {x : Iss} (hx : Canon x.s) {lanes : List Nat} {quiet : Bool} (he : EffCanon (eff x lanes)) :
    Canon (x.issueOn us h pipe lanes eff quiet) := by
  unfold Iss.issueOn
  extract_lets sc early
  split
  · exact hx.trap ..
  · refine .ite (hx.trap ..) (.ite (hx.same rfl) ?_)
    split
    · exact hx
    · refine .ite (hx.trap ..) ?_
      split
      · exact hx.trap ..
      next r code info _ =>
        refine Canon.trap ?_ ..
        exact hx.same rfl
      · exact hx
      next t e => rw [e] at he; exact he
      next t w mv e => rw [e] at he; exact Canon.finish he ..

theorem Lands.uses (hs : Canon s) (he : ∀ x lanes, Canon x.s → EffCanon (eff x lanes)) : Lands (execUses us h pipe s eff) := by
  refine ⟨fun t ht => ?_⟩
  unfold execUses at ht
  split at ht
  · cases ht
  next x hx =>
    obtain ⟨hxs, -⟩ := iss?_some hx
    cases ht
    exact Canon.issueOn (hxs ▸ hs) (he x _ (hxs ▸ hs))

theorem Lands.word (hs : Canon s) {i : Instr} (he : ∀ x lanes, Canon x.s → EffCanon (eff x lanes)) :
    Lands (execWord i h pipe s eff) :=
  .uses hs he

end

/-- An event lands in canonical memory. -/
theorem Lands.event (hs : Canon s) {f : State → Option State} (hf : Possibly Canon (f s)) : Lands (execEvent s f) := by
  refine ⟨fun t ht => ?_⟩
  cases ht
  exact hs.getD hf

theorem EffCanon.branchReg (x : Iss) (hs : Canon s) (a : VCode) (act : List Nat) (w : Wave) :
    EffCanon (x.branchReg a act s w) := by
  unfold Iss.branchReg
  split
  · trivial
  · exact hs

theorem Canon.takes (x : Iss) (hs : Canon s) (n : Nat) : Canon (x.takes s n) := .ite (hs.takeEntries ..) (hs.missAdd ..)

section

variable {x : Iss} (hx : Canon x.s)

include hx

theorem Canon.rejected : Canon x.rejected := by
  unfold Iss.rejected
  exact .ite (.setCore (hx.setWave _) ..) (hx.setWave _)

theorem EffCanon.withEntries (hs : Canon s) (w : Wave) (seq n : Nat) : EffCanon (x.withEntries s w seq n) :=
  .ite hs (.ite (hs.takes x n) (.ite hx.rejected hs))

theorem Canon.loading (p : Place) (hint z : Nat) (addrs : List Nat) : Canon (x.loading p hint z addrs).s := hx.loadHint ..

theorem EffCanon.load (g? : Option GCode) (b : VCode) (z imm : Nat) (fe : Fe) (hint : Nat) (dest : LoadDest) (act : List Nat) :
    EffCanon (x.load g? b z imm fe hint dest act) := by
  refine .bind (.place ..) fun p _ => ?_
  have hy := hx.loading p hint z ((x.offs b z imm act).map fun o => p.base + o.2)
  exact .iteChk hy (.iteChk (withEntries hy hy.fresh ..) (.iteChk (hy.fresh.feProceed ..) hy.fresh))

theorem EffCanon.store (g? : Option GCode) (b : VCode) (z imm : Nat) (fe : Fe) (hint : Nat) (data : Nat → List Byte)
    (act : List Nat) : EffCanon (x.store g? b z imm fe hint data act) :=
  .bind (.place ..) fun _ _ => .bind (.storeFree ..) fun _ _ => hx.mergeStore ..

theorem EffCanon.atomic (g? : Option GCode) (d b : VCode) (op : AtOp) (t : IType) (act : List Nat) :
    EffCanon (x.atomic g? d b op t act) := by
  refine .bind (.place ..) fun p _ => ?_
  extract_lets home
  refine .bind (.need ..) fun _ _ => ?_
  have hl : ∀ n l, EffCanon (x.withEntries x.s.fresh.1 l x.s.fresh.2 n) := fun n l => withEntries hx hx.fresh ..
  split
  · exact .iteChk hx (hl ..)
  · exact .bind (.storeFree ..) fun _ _ => .iteChk hx (hl ..)

theorem EffCanon.rst (g : GCode) (a b : VCode) (c : SReg) (act : List Nat) : EffCanon (x.rst g a b c act) :=
  .bind (.need ..) fun _ _ => .bind (.usable ..) fun _ _ => .bind (.inBounds ..) fun _ _ => .bind (.usable ..) fun _ _ =>
    .bind (.need ..) fun _ _ => .bind (.inBounds ..) fun _ _ => .bind (.aligned ..) fun _ _ => withEntries hx hx.fresh ..

theorem Canon.pref (g : GCode) (b : VCode) (t : IType) (imm hint : Nat) (act : List Nat) :
    Canon (x.pref g b t imm hint act).1 := by
  unfold Iss.pref
  dsimp only
  split
  · exact hx
  next p _ =>
    split
    · exact hx
    · exact (hx.loading p hint (itypeBytes t) _).fresh.takes x _

theorem EffCanon.copy (kind : OpKind) (d a : Endp) (b c : SReg) {desc : (Nat → Word) → Chk Desc} (hd : ∀ r, Plain (desc r)) :
    EffCanon (x.copy kind d a b c desc) := by
  refine .bind (.ctlOf _) fun ctl _ => .bind (hd _) fun ds _ => .bind (.endpoint ..) fun dst _ => ?_
  extract_lets next
  have hnext : ∀ u, EffCanon (next u).eff := fun u => by
    refine .bind (.endpoint ..) fun src _ => ?_
    extract_lets last counted
    have hlast : ∀ u, EffCanon (last u).eff := fun u =>
      .bind (.flagRule ..) fun _ _ => .iteChk trivial (.iteChk hx (.iteChk hx hx))
    have hcounted : ∀ u, EffCanon (counted u).eff := fun u => by
      dsimp only [counted]
      split
      · exact .bind (.need ..) fun _ _ => hlast ()
      · exact .bind (.ok _) fun _ _ => hlast ()
    split
    · exact .bind (.inRange ..) fun _ _ => hcounted ()
    · exact .bind (.ok _) fun _ _ => hcounted ()
  split
  · exact .bind (.need ..) fun _ _ => hnext ()
  · exact .bind (.ok _) fun _ _ => hnext ()

theorem EffCanon.unit (w : Wave) (k : UnitKind) : EffCanon (x.unit w k) := .ite trivial hx

theorem EffCanon.search (d : SReg) (a : BitVec 4) (b : SReg) (two : Bool) : EffCanon (x.search d a b two) :=
  .ite trivial (unit hx ..)

end

theorem Canon.addChildren (p : Grant) (len pwave : Nat) (rs : List RegRef) (i : Nat) (hs : Canon s) :
    Canon (addChildren p len pwave rs i s) := by
  induction rs generalizing i s with
  | nil => exact hs
  | cons r rs ih => exact ih _ (hs.same rfl)

theorem Lands.pair (hs : Canon s) (i : Instr) (sc : BitVec 3) (p q : Slot) : Lands (execPair i sc p q s) := by
  refine ⟨fun t ht => ?_⟩
  unfold execPair at ht
  split at ht
  · cases ht
  next x hx =>
    obtain ⟨hxs, -⟩ := iss?_some hx
    have hc : Canon x.s := hxs ▸ hs
    cases ht
    exact hc.issueOn hc

theorem Lands.pref (hs : Canon s) (h : Hd) (g : GCode) (b : VCode) (t : IType) (imm : BitVec 4) :
    Lands (execPref h g b t imm s) := by
  refine ⟨fun t ht => ?_⟩
  unfold execPref at ht
  split at ht
  · cases ht
  next x hx =>
    obtain ⟨hxs, -⟩ := iss?_some hx
    have hc : Canon x.s := hxs ▸ hs
    cases ht
    exact hc.issueOn (hc.pref ..)

theorem Canon.vlate (hs : Canon s) (w : Wave) (ls : List Loc) : Canon (Iss.vlate s w ls).1 := hs

theorem Canon.link {x : Iss} (hx : Canon x.s) (d : VCode) (act : List Nat) : Canon (x.link d act).1 := hx

theorem Lands.callx (hs : Canon s) (h : Hd) (d a : VCode) : Lands (execCallx h d a s) :=
  .word hs fun x act hx => EffCanon.branchReg x (hx.link d act) ..

theorem Lands.loop (hs : Canon s) (h : Hd) (a : SReg) (off_ : BitVec 18) : Lands (execLoop h a off_ s) :=
  .word hs fun _ _ hx => .ite trivial (.ite hx hx)

theorem Lands.ratom (hs : Canon s) (h : Hd) (d : VCode) (g : GCode) (b : VCode) (op : AtOp) (t : IType) :
    Lands (execRatom h d g b op t s) :=
  .word hs fun _ _ hx => .bind (.place ..) fun _ _ => .bind (.need ..) fun _ _ => .withEntries hx hx.fresh ..

theorem Lands.stage (hs : Canon s) (h : Hd) (g : GCode) (b : SReg) (fill : Bool) : Lands (execStage h g b fill s) :=
  .word hs fun _ _ hx => .bind (.usable ..) fun _ _ => .bind (.need ..) fun _ _ => .bind (.need ..) fun _ _ =>
    .bind (.need ..) fun _ _ => .bind (.need ..) fun _ _ => .bind (.need ..) fun _ _ =>
    .iteChk trivial (.iteChk (hx.same rfl) ((hx.dropLines ..).setGrant _))

theorem Lands.unstage (hs : Canon s) (h : Hd) (g : GCode) : Lands (execUnstage h g s) :=
  .word hs fun _ _ hx => .bind (.usable ..) fun _ _ => .iteChk hx hx

theorem Lands.brw (hs : Canon s) (h : Hd) (d : GCode) (a b : SReg) (tryIt : Bool) (k : Kind) :
    Lands (execBrw h d a b tryIt k s) := by
  refine .word hs fun x _ hx => .bind (.need ..) fun _ _ => .bind (.regFault ..) fun _ _ => .bind (.need ..) fun _ _ =>
    .bind (.need ..) fun _ _ => ?_
  split
  · exact .iteChk trivial trivial
  · refine .bind (.need ..) fun _ _ => Canon.request ?_ ..
    exact hx.same rfl

theorem Lands.rbrw (hs : Canon s) (h : Hd) (d a : GCode) (b : SReg) (k : Kind) : Lands (execRbrw h d a b k s) :=
  .word hs fun _ _ hx => .bind (.regFault ..) fun _ _ => .bind (.regFault ..) fun _ _ => .bind (.usable ..) fun _ _ =>
    .bind (.need ..) fun _ _ => .bind (.need ..) fun _ _ => .bind (.need ..) fun _ _ => .bind (.emptyReg ..) fun _ _ => hx

theorem Lands.split (hs : Canon s) (h : Hd) (d a : GCode) (toRegs : Bool) (k : BitVec 6) : Lands (execSplit h d a toRegs k s) :=
  .word hs fun _ _ hx => .bind (.splitSource ..) fun _ _ => .bind (.need ..) fun _ _ =>
    .bind (.mapM (fun _ => .splitTarget ..) _) fun _ _ => (hx.setGrant _).addChildren ..

theorem Lands.join (hs : Canon s) (h : Hd) (a : GCode) : Lands (execJoin h a s) := by
  refine .word hs fun x _ hx => .bind (.regFault ..) fun _ _ => ?_
  split
  · trivial
  · refine .iteChk trivial (.iteChk trivial (.iteChk ?_ hx))
    dsimp only
    split
    · trivial
    next e => exact (hx.newTag? _ _ _ _ _ e).setGrant _

theorem Lands.rtn (hs : Canon s) (h : Hd) (a : GCode) : Lands (execRtn h a s) := by
  refine .word hs fun x _ hx => .bind (.regFault ..) fun _ _ => ?_
  split
  · exact hx
  · refine .iteChk trivial (Canon.same (.ite hx ((hx.setGrant _).beginReturn _)) rfl)

theorem Lands.rgmv (hs : Canon s) (h : Hd) (d a : GCode) (b : SReg) : Lands (execRgmv h d a b s) := by
  refine .word hs fun x _ hx => .bind (.regFault ..) fun _ _ => ?_
  split
  · trivial
  · exact .iteChk trivial (.iteChk trivial (.bind (.rgmvTarget ..) fun _ _ => .bind (.emptyReg ..) fun _ _ => hx))

theorem Lands.route (hs : Canon s) (h : Hd) (d a b c : SReg) : Lands (execRoute h d a b c s) := by
  refine .word hs fun x _ hx => .bind (.ctlOf _) fun ctl _ => .bind (.need ..) fun _ _ => .bind (.need ..) fun _ _ =>
    .bind (.inRange ..) fun _ _ => .bind (.inRange ..) fun _ _ => .bind (.inRange ..) fun _ _ => .bind (.inRange ..) fun _ _ => ?_
  extract_lets len w enter
  have henter : ∀ u, EffCanon (enter u).eff := fun _ => .bind (.need ..) fun _ _ => .iteChk trivial hx
  split
  · exact .bind (.need ..) fun _ _ => henter ()
  · exact .bind (.ok _) fun _ _ => henter ()

theorem Lands.mma (hs : Canon s) (h : Hd) (clr : Bool) (base : BitVec 6) (ob : BitVec 3) (ld : BitVec 2) (cv : BitVec 4)
    (b : SReg)
    (la lb : BitVec 2) (fmt : MFmt) : Lands (execMma h clr base ob ld cv b la lb fmt s) := by
  refine .uses hs fun x _ hx => ?_
  extract_lets word af fc cf withCv
  have hcv : ∀ c, EffCanon (withCv c).eff := fun c => by
    dsimp -zeta only [withCv]
    extract_lets rows mine all withLace
    have hlace : ∀ l, EffCanon (withLace l).eff := fun l => by
      dsimp -zeta only [withLace]
      extract_lets withRes
      have hres : ∀ r, EffCanon (withRes r).eff := fun r => by
        refine .bind (.need ..) fun _ _ => .bind (.need ..) fun _ _ => .bind (.need ..) fun _ _ => .bind (.need ..) fun _ _ =>
          .bind (.need ..) fun _ _ => .bind (.inRange ..) fun _ _ => ?_
        extract_lets e enter
        have henter : ∀ u, EffCanon (enter u).eff := fun _ => .bind (.need ..) fun _ _ => .iteChk trivial
          (.bind (.need ..) fun _ _ => .bind (.need ..) fun _ _ => .bind (.need ..) fun _ _ => .iteChk hx (.iteChk trivial hx))
        exact .iteChk (.bind (.inRange ..) fun _ _ => henter ()) (.bind (.ok _) fun _ _ => henter ())
      split
      · exact .bind (.error trivial) fun r _ => hres r
      · exact .bind (.ok _) fun r _ => hres r
    split
    · exact .bind (.error trivial) fun l _ => hlace l
    · exact .bind (.ok _) fun l _ => hlace l
  split
  · exact .bind (.error trivial) fun c _ => hcv c
  · exact .bind (.ok _) fun c _ => hcv c

theorem Lands.obres (hs : Canon s) (h : Hd) (d : BitVec 3) (a b : SReg) : Lands (execObres h d a b s) := by
  refine .word hs fun x _ hx => .bind (.need ..) fun _ _ => .bind (.need ..) fun _ _ => .bind (.need ..) fun _ _ => ?_
  split
  · trivial
  · exact .bind (.need ..) fun _ _ => .bind (.need ..) fun _ _ => .bind (.need ..) fun _ _ => .iteChk trivial hx

theorem Lands.obld (hs : Canon s) (h : Hd) (d : BitVec 3) (a b : SReg) : Lands (execObld h d a b s) := by
  refine .uses hs fun x _ hx => .bind (.need ..) fun _ _ => ?_
  split
  · trivial
  · refine .bind (.need ..) fun _ _ => .bind (.need ..) fun _ _ => ?_
    extract_lets k enter
    have henter : ∀ u, EffCanon (enter u).eff := fun _ => .iteChk trivial hx
    exact .iteChk (.bind (.ok _) fun _ _ => henter ()) (.bind (.inRange ..) fun _ _ => henter ())

theorem Lands.mdrain (hs : Canon s) (h : Hd) (base : BitVec 6) (a b : SReg) (act res : Bool) (rm : Rm) (f : FType) :
    Lands (execMdrain h base a b act res rm f s) := by
  refine .uses hs fun x _ hx => .bind (.need ..) fun _ _ => .bind (.need ..) fun _ _ => .bind (.need ..) fun _ _ =>
    .bind (.inRange ..) fun _ _ => ?_
  extract_lets mine enter
  have henter : ∀ u, EffCanon (enter u).eff := fun _ => .iteChk trivial hx
  exact .iteChk (.bind (.inRange ..) fun _ _ => henter ()) (.bind (.ok _) fun _ _ => henter ())

theorem Lands.hld (hs : Canon s) (h : Hd) (d : BitVec 4) (a : Endp) (b : SReg) : Lands (execHld h d a b s) :=
  .word hs fun _ _ hx => .bind (.hvPlace ..) fun _ _ => .withEntries hx hx.fresh ..

theorem Lands.hst (hs : Canon s) (h : Hd) (d : BitVec 4) (a : Endp) (b : SReg) : Lands (execHst h d a b s) :=
  .word hs fun _ _ hx => .bind (.hvPlace ..) fun _ _ => .bind (.storeFree ..) fun _ _ => hx.mergeStore ..

theorem Lands.hcw (hs : Canon s) (h : Hd) (w : CtrW) : Lands (execHcw h w s) :=
  .word hs fun _ _ hx => .ite trivial (.unit hx ..)

theorem Lands.mfs (hs : Canon s) (h : Hd) (d : BitVec 9) (a : Special) (scalar : Bool) : Lands (execMfs h d a scalar s) :=
  .word hs fun _ _ hx => .ite hx hx

theorem Lands.smpcfg (hs : Canon s) (h : Hd) (a : SReg) : Lands (execSmpcfg h a s) :=
  .word hs fun _ _ hx => .bind (.need ..) fun _ _ => .bind (.need ..) fun _ _ => .bind (.inRange ..) fun _ _ => .iteChk trivial hx

theorem Lands.smpon (hs : Canon s) (h : Hd) (a : SReg) : Lands (execSmpon h a s) := .uses hs fun _ _ hx => .ite trivial hx

theorem Lands.smpoff (hs : Canon s) (h : Hd) (d : SReg) : Lands (execSmpoff h d s) := .uses hs fun _ _ hx => .ite trivial hx

theorem Lands.endl (hs : Canon s) (h : Hd) : Lands (execEndl h s) := by
  refine .word hs fun x _ hx => ?_
  split
  · trivial
  · exact .ite hx hx

theorem Lands.lbrk (hs : Canon s) (h : Hd) : Lands (execLbrk h s) := by
  refine .word hs fun x _ hx => ?_
  split
  · trivial
  · exact hx

theorem Lands.spawn (hs : Canon s) (h : Hd) (d a : VCode) (b : SReg) : Lands (execSpawn h d a b s) := by
  refine .word hs fun x act hx => .ite trivial ?_
  split
  · trivial
  · refine .ite trivial ?_
    split
    · trivial
    · exact hx.binAll ..

theorem Lands.endFibre (hs : Canon s) (h : Hd) : Lands (execEndFibre h s) :=
  .word hs fun _ _ hx => .ite (hx.endWave _) (.ite hx hx)

theorem Lands.sleep (hs : Canon s) (h : Hd) (n : BitVec 18) : Lands (execSleep h n s) := .word hs fun _ _ hx => .ite hx hx

theorem Lands.actld (hs : Canon s) (h : Hd) (a : VCode) (b : SReg) : Lands (execActld h a b s) :=
  .word hs fun _ _ hx => .ite trivial hx

theorem Lands.actswap (hs : Canon s) (h : Hd) : Lands (execActswap h s) := .word hs fun _ _ hx => .ite hx trivial

theorem Lands.stmpw (hs : Canon s) (h : Hd) : Lands (execStmpw h s) := .word hs fun _ _ hx => .ite hx (.ite trivial hx)

theorem Lands.stmpp (hs : Canon s) (h : Hd) : Lands (execStmpp h s) := .word hs fun _ _ hx => .ite hx (.ite trivial hx)

theorem Lands.binit (hs : Canon s) (h : Hd) (a : SReg) (name : BitVec 11) : Lands (execBinit h a name s) :=
  .word hs fun _ _ hx => .ite trivial (.ite trivial (.ite trivial hx))

theorem Lands.barr (hs : Canon s) (h : Hd) (d : SReg) (wait : Bool) (name : BitVec 11) : Lands (execBarr h d wait name s) := by
  refine .word hs fun x _ hx => ?_
  dsimp only
  split
  · trivial
  · exact .ite trivial (.ite (Canon.arriveAt (hx.vlate ..) ..) hx)

theorem Lands.bexp (hs : Canon s) (h : Hd) (a : SReg) (name : BitVec 11) : Lands (execBexp h a name s) := by
  refine .word hs fun x _ hx => ?_
  dsimp only
  split
  · trivial
  · exact .ite trivial hx

theorem Lands.chinit (hs : Canon s) (h : Hd) (d : BitVec 4) (a : SReg) : Lands (execChinit h d a s) :=
  .word hs fun _ _ hx => .ite trivial (.ite trivial (.ite trivial (.ite trivial hx)))

theorem Lands.chpush (hs : Canon s) (h : Hd) (a : VCode) (b : SReg) : Lands (execChpush h a b s) := by
  refine .word hs fun x _ hx => ?_
  dsimp only
  split
  · trivial
  · exact .ite hx hx

theorem Lands.chpop (hs : Canon s) (h : Hd) (d : VCode) (a : BitVec 4) : Lands (execChpop h d a s) := by
  refine .word hs fun x _ hx => ?_
  dsimp only
  split
  · trivial
  · exact .ite trivial hx

theorem Lands.cvinit (hs : Canon s) (h : Hd) (d : BitVec 4) (a : SReg) : Lands (execCvinit h d a s) :=
  .word hs fun _ _ hx => .ite trivial (.ite trivial (.ite trivial hx))

theorem Lands.lace (hs : Canon s) (h : Hd) (d : BitVec 2) (a : SReg) : Lands (execLace h d a s) :=
  .word hs fun _ _ hx => .ite trivial (.ite trivial hx)

theorem Lands.obrel (hs : Canon s) (h : Hd) (d : BitVec 3) : Lands (execObrel h d s) :=
  .word hs fun _ _ hx => (hx.setGroup _).freeRes _

theorem Lands.trap (hs : Canon s) (h : Hd) (imm : BitVec 18) : Lands (execTrap h imm s) := .word hs fun _ _ _ => trivial

theorem Lands.tret (hs : Canon s) (h : Hd) (skip : Bool) : Lands (execTret h skip s) :=
  .word hs fun _ _ hx => .ite trivial (.ite hx hx)

theorem Lands.halt (hs : Canon s) (h : Hd) (a : SReg) : Lands (execHalt h a s) :=
  .word hs fun _ _ hx => ((hx.note ..).record ..).killGroup _

end Sys2Proof.Canonical
end

section
/-! Events: each lands in canonical memory (O50). -/

namespace Sys2Proof.Canonical

open Sys2Proof Sys2Proof.Machine Sys2Proof.Laws

variable {s : State}

theorem Possibly.ite {α : Type} {p : α → Prop} {c : Prop} [Decidable c] {a b : Option α} (ha : Possibly p a) (hb :
    Possibly p b) :
    Possibly p (if c then a else b) := by
  split <;> assumption

theorem Lands.pinned (hs : Canon s) (r : State → AccRef) {f : State → Option State} (hf : ∀ s, Canon s → Possibly Canon (f s)) :
    Lands (execEvent s fun s => s.pinning (r s) f) := .event hs fun _ e => hs.pinning _ hf e

theorem Lands.variableLatencyWrite (hs : Canon s) (w id : Nat) : Lands (execVariableLatencyWrite w id s) := by
  refine .event hs (.bind fun w _ => .bind fun v _ => .guard ?_)
  dsimp only
  split
  · exact .some (hs.setWave _)
  · exact .bind fun g _ => .bind fun c _ => .some ((hs.setWave _).setGroup _)

theorem Lands.loadWriteback (hs : Canon s) (w id : Nat) (what : LoadStep) : Lands (execLoadWriteback w id what s) := by
  refine .pinned hs _ fun s hs => .bind fun w _ => .bind fun l _ => .guard (.ite (.guard (.some (hs.failLoad ..))) ?_)
  split
  · exact .none
  · exact .guard (.some (hs.failLoad ..))
  · refine .guard ?_
    extract_lets t
    have ht : Canon t := by
      dsimp -zeta only [t]
      split
      · exact hs.touchDeliv _
      · exact hs
    generalize t = u at ht ⊢
    dsimp only
    split
    · exact .some (ht.failLoad ..)
    · have hc := ht.capture w l what.lane? l.lanes
      generalize u.capture w l what.lane? l.lanes = r at hc ⊢
      have hf := hc.filled w { l with lanes := r.2 }
      exact .ite (.guard (.some (hf.setWave _))) (.ite (.some (hf.endLoad ..)) .none)

theorem Lands.drain (hs : Canon s) (w path : Nat) : Lands (execDrain w path s) := by
  refine .pinned hs _ fun s hs => .bind fun w _ => ?_
  split
  · exact .none
  · refine .guard ?_
    split
    · exact .none
    · exact .some (hs.failEntries ..)
    · exact fun _ e => hs.drainHead _ _ _ _ e

theorem Lands.homeAtomic (hs : Canon s) (home : Nat) (ans : EpAnswer) : Lands (execHomeAtomic home ans s) := by
  refine .pinned hs _ fun s hs => .bind fun p _ => ?_
  obtain ⟨h, q⟩ := p
  have hq : Canon { s with hqs := q } := hs.same rfl
  refine .guard (.ite (.guard (.some (hq.failAtomic ..))) ?_)
  dsimp only
  split
  · exact .some (hq.failAtomic ..)
  · refine .bind fun p e => .some (Canon.atomicDone ?_ ..)
    exact (hs.atomicHome _ _ _ e).same rfl

theorem Lands.grant (hs : Canon s) (rid : Nat) (ans : EpAnswer) : Lands (execGrant rid ans s) := by
  refine .event hs ?_
  split
  · split
    · exact .ite .none fun _ e => hs.sendAnswer _ _ e
    · exact .none
  · refine .bind fun r _ => .guard ?_
    split
    · exact .bind fun g _ => .bind fun t e => .some ((hs.deliver _ _ e).same rfl)
    · exact .none

theorem Lands.grantRequestFailed (hs : Canon s) (rid : Nat) (ans : EpAnswer) : Lands (execGrantRequestFailed rid ans s) := by
  refine .event hs ?_
  split
  · split
    · exact .none
    · exact fun _ e => hs.sendAnswer _ _ e
  · split
    · split
      · exact .bind fun g _ => .some (hs.failRequest ..)
      · exact .none
    · refine .bind fun r _ => ?_
      split
      · exact .bind fun g _ => .ite (.some (hs.failRequest ..)) (.ite (.some (hs.failRequest ..)) .none)
      · exact .none

theorem Lands.derive (hs : Canon s) (gid : Nat) : Lands (execDerive gid s) := by
  refine .event hs (.bind fun g _ => .guard ?_)
  split
  · exact .none
  · exact .ite (.bind fun p e => .some (.setGrant (hs.newTag? _ _ _ _ _ e) _)) (.some (hs.setGrant _))
  · refine .bind fun pg _ => .bind fun p e => ?_
    have ht := hs.newTag? _ _ _ _ _ e
    exact .ite (.some ((ht.setGrant _).setGrant _)) (.some (ht.setGrant _))

theorem Lands.returnGrant (hs : Canon s) (gid path : Nat) : Lands (execReturnGrant gid path s) :=
  .pinned hs _ fun _ hs => .bind fun _ _ => .guard fun _ e => hs.takeReturn _ _ e

theorem Lands.copyChunk (hs : Canon s) (op path : Nat) : Lands (execCopyChunk op path s) := by
  refine .pinned hs _ fun s hs => .bind fun o _ => .ite (fun _ e => hs.drainChunkAt _ e) ?_
  split
  · exact fun _ e => hs.finishOp _ e
  next t e =>
    have ht := hs.chunk _ _ e
    split
    · exact .some ht
    · exact .some (ht.getD fun _ e => ht.finishOp _ e)

theorem Lands.girthDelivery (hs : Canon s) (x : Arrival) : Lands (execGirthDelivery x s) := by
  refine .pinned hs _ fun s hs => .bind fun p _ => .guard (.ite (.guard (.some (hs.losePacket ..))) ?_)
  split
  · exact .none
  · exact .some (hs.failPacket ..)
  · split
    · exact .none
    next t e =>
      have ht : Canon t := (hs.hWrite _ _).of_eq e
      extract_lets gone
      have hg : Canon gone := ht.same rfl
      split
      · exact .some hg
      · exact .some (ht.arrivedAt _)
      · exact .some (.ite ((hg.passEntries _).ackTo ..) (ht.arrivedAt _))
      · exact .some ((Canon.ite hg (ht.arrivedAt _)).landed ..)

theorem Lands.reinDelivery (hs : Canon s) (src : Nat) (x : Arrival) : Lands (execReinDelivery src x s) := by
  refine .event hs (.bind fun m _ => ?_)
  extract_lets gone
  have hg : ∀ {s}, Canon s → Canon (gone s) := fun h => h.same rfl
  split
  · exact .none
  · exact fun _ e => (hg hs).reinFail _ _ e
  · refine .guard (.ite (.guard fun _ e => (hg hs).reinAct _ e) (.bind fun t e => .bind fun n _ => ?_))
    have ht := hg (hs.numberRein _ e)
    exact .ite (fun _ e => ht.loseRein _ _ _ e) (.map fun _ e => (ht.reinAct _ e).stayUnacked _)

theorem Lands.flag (hs : Canon s) (id : Nat) : Lands (execFlag id s) := by
  refine .pinned hs _ fun s hs => .bind fun f _ => .guard ?_
  split
  · exact .none
  next t bs e =>
    have ht := (hs.hRead _ _).of_eq e
    split
    · exact .none
    next u e => exact .some (((ht.hWrite _ _).of_eq e).same rfl)

theorem Lands.stampPass (hs : Canon s) (kernel : Nat) : Lands (execStampPass kernel s) := by
  refine .event hs (.bind fun k _ => .bind fun st _ => .guard (.bind fun g _ => .bind fun w _ => ?_))
  extract_lets next pass passes
  have hpass : ∀ u, Possibly Canon (pass u) := fun u => by
    dsimp only [pass]
    split
    · exact .ite (.some (hs.setKernel _)) (.some ((hs.setKernel _).sendRein ..))
    · exact .some (hs.setKernel _)
  have hpasses : ∀ q, Possibly Canon (passes q) := fun q => .guard (hpass ())
  split
  · exact hpasses _
  · exact .ite (hpasses _) .none

theorem Lands.killRelease (hs : Canon s) (ctx : Nat) (merged : List (Nat × Nat)) : Lands (execKillRelease ctx merged s) := by
  refine .event hs (.ite .none (.some (Canon.setCtx ?_ ..)))
  refine Canon.same (Canon.dropParked (Canon.foldl (fun _ _ hs => hs.discardWork _) ?_ _) _) rfl
  exact (hs.foldl (fun _ _ hs => hs.mergeLines ..) _).same rfl

theorem Lands.uncorrectableError (hs : Canon s) (e : ErrRef) (tier : Nat) : Lands (execUncorrectableError e tier s) := by
  refine .event hs ?_
  cases e with
  | load w id lane at_ => exact fun _ e => hs.errLoad _ _ _ _ _ e
  | matrix d c n => exact fun _ e => hs.errMatrix _ _ _ e
  | saddle => exact .ite .none (.some hs.toMinimal)
  | search die => exact .bind fun x _ => .guard (.some ((hs.setDie ..).defer ..))
  | frame ctx =>
    refine .guard (.some (Canon.fatal (Canon.record ?_ ..) _))
    exact hs.same rfl

theorem Lands.park (hs : Canon s) (r : AccRef) (ia : Nat) : Lands (execPark r ia s) :=
  .event hs (.guard (.bind fun _ _ => .some (hs.parkAt ..)))

theorem Lands.slatewComplete (hs : Canon s) (q : Nat) : Lands (execSlatewComplete q s) := by
  refine .event hs (.bind fun p _ => ?_)
  obtain ⟨id, c⟩ := p
  dsimp only
  split
  · refine .bind fun e _ => .guard ?_
    split
    · exact .none
    next t bs er =>
      have ht := (hs.hRead _ _).of_eq er
      split
      · exact .none
      next u ew => exact .some (((((ht.hWrite _ _).of_eq ew).dropHolder ..).commandDone ..).evalQueue _)
  · exact .none

theorem Lands.dispatch (hs : Canon s) : Lands (execDispatch s) :=
  .event hs (.guard (.bind fun _ _ _ e => hs.startHead _ e))

theorem Lands.contextResume (hs : Canon s) (ctx : Nat) : Lands (execContextResume ctx s) := by
  refine .event hs ?_
  extract_lets c again
  have ha : ∀ {s}, Canon s → Canon (again s) := fun h => h.restoreAll _
  split
  · exact .some (ha (Canon.foldl (fun _ _ hs => (hs.setQueue _).evalQueue _) (hs.setCtx ..) _))
  · exact .ite .none (.some (ha hs))
  · exact .none

theorem Lands.reclaimWalk (hs : Canon s) (ctx : Nat) : Lands (execReclaimWalk ctx s) := by
  refine .event hs (.ite .none (.some (Canon.setCtx (Canon.foldl (fun _ _ hs => hs.sendRein ..) ?_ _) ..)))
  exact hs.same rfl

theorem Lands.inboundAccess (hs : Canon s) (ep win port : Nat) (acc : InAcc) : Lands (execInboundAccess ep win port acc s) := by
  refine .event hs (.guard ?_)
  have ht := hs.touchDeliv ep
  generalize s.touchDeliv ep = t at ht ⊢
  cases acc <;> dsimp only
  case load off_ len =>
    split
    · exact .some (ht.refuseAt _)
    · exact .ite (.some (ht.inboundAt ..)) .none
  case write off_ bytes flag =>
    split
    · exact .some (ht.refuseAt _)
    · refine .guard ?_
      split
      · exact .some (ht.inboundAt ..)
      · split
        · exact .some ((ht.inboundAt ..).refuseAt _)
        · exact .some (ht.inboundAt ..)
  case atomic off_ op wide x y =>
    split
    · exact .some (ht.refuseAt _)
    · exact .guard (.some (ht.same rfl))
  case grantReq off_ len kind =>
    split
    · exact .some (ht.refuseAt _)
    · exact .ite (.some (ht.refuseAt _)) (.guard (.some (ht.fresh.enqueue ..)))
  case ret off_ len kind bytes =>
    split
    · exact .some (ht.refuseAt _)
    · exact .guard (.some (ht.inboundAt ..))

theorem Lands.selectiveAck (hs : Canon s) (ep win : Nat) (bitmap : Word) : Lands (execSelectiveAck ep win bitmap s) :=
  .event hs (.some (hs.foldl (fun _ _ hs => hs.acked _) _))

theorem Lands.packetTimeout (hs : Canon s) (id : Nat) : Lands (execPacketTimeout id s) := by
  refine .event hs ?_
  dsimp only
  split
  · exact .ite .none (.some (hs.failPacket ..))
  · exact .ite (.some (hs.loseSent _)) .none
  · exact .none

theorem Lands.instructionCacheFill (hs : Canon s) (w : Nat) : Lands (execInstructionCacheFill w s) := by
  refine .pinned hs _ fun s hs => .bind fun w _ => .bind fun p _ => .guard ?_
  split
  · exact .none
  · exact .bind fun p _ => .some (.ite (hs.fetchFault ..) (hs.takeDeferred ..))
  · split
    · exact .none
    · exact .bind fun p _ => .some (.ite (hs.fetchLost ..) (hs.takeDeferred ..))
    · exact .guard (.bind fun _ _ => .some (hs.setCore ..))

theorem Lands.unstageWriteDone (hs : Canon s) (gid : Nat) : Lands (execUnstageWriteDone gid s) :=
  .event hs (.bind fun _ _ => .guard (.some (Canon.same (Canon.foldl (fun _ _ hs => hs.intoL2 ..) (hs.setGrant _) _) rfl)))

theorem Lands.chpopClaim (hs : Canon s) (w : Nat) : Lands (execChpopClaim w s) := by
  refine .event hs (.bind fun w _ => .bind fun p _ => .guard ?_)
  split
  · split
    · dsimp only
      split
      · exact .none
      next x hx =>
        refine .ite .none ?_
        split
        next t e => exact .some (((Lands.chpop (by exact hs) ..).canon t e).same rfl)
        · exact .none
    · exact .none
  · exact .none

theorem Lands.deferredFaultTaken (hs : Canon s) (w : Nat) : Lands (execDeferredFaultTaken w s) := by
  refine .event hs (.bind fun w _ => .bind fun p _ => .guard ?_)
  split
  · exact .none
  · exact .some (hs.takeDeferred ..)
  · exact .ite (.some (hs.takeDeferred ..)) .none

theorem Lands.missEntriesTaken (hs : Canon s) (w : Nat) : Lands (execMissEntriesTaken w s) :=
  .event hs (.bind fun _ _ => .bind fun _ _ => .ite (fun _ e => hs.serveMiss _ e) .none)

theorem Lands.acknowledgementReceived (hs : Canon s) (id : Nat) : Lands (execAcknowledgementReceived id s) :=
  .event hs (.bind fun _ _ => .guard (.some (hs.acked _)))

theorem Lands.fullEmptyProceed (hs : Canon s) (w : Nat) : Lands (execFullEmptyProceed w s) :=
  .event hs (.bind fun _ _ _ e => hs.proceedFe _ e)

theorem Lands.turnExpiry (hs : Canon s) (w : Nat) : Lands (execTurnExpiry w s) :=
  .event hs (.bind fun _ _ => .ite (.some (hs.setWave _)) .none)

theorem Lands.sleepElapses (hs : Canon s) (w : Nat) : Lands (execSleepElapses w s) :=
  .event hs (.bind fun _ _ => .ite (.some (hs.setWave _)) .none)

theorem Lands.binTimerExpiry (hs : Canon s) (bin : Nat) : Lands (execBinTimerExpiry bin s) :=
  .event hs (.bind fun _ _ => .ite (.some (hs.closeBin _)) .none)

theorem Lands.waitingBinLaunch (hs : Canon s) (bin : Nat) : Lands (execWaitingBinLaunch bin s) :=
  .event hs (.bind fun _ _ => .ite (fun _ e => hs.launchBin? _ e) .none)

theorem Lands.waveSlotRelease (hs : Canon s) (w : Nat) : Lands (execWaveSlotRelease w s) :=
  .event hs (.bind fun _ _ => .ite (.some (hs.freeWave _)) .none)

theorem Lands.swapOut (hs : Canon s) (w : Nat) : Lands (execSwapOut w s) :=
  .event hs (.bind fun _ _ => .ite (.some ((hs.saveWave _).setCtx ..)) .none)

theorem Lands.waveRestore (hs : Canon s) (w : Nat) : Lands (execWaveRestore w s) := .event hs fun _ e => hs.takeSpot _ e

theorem Lands.returnAcknowledged (hs : Canon s) (gid : Nat) : Lands (execReturnAcknowledged gid s) := by
  refine .event hs (.bind fun g _ => .guard ?_)
  dsimp only
  split
  · exact .some ((hs.delGrant _).childGone _)
  · exact .some (hs.delGrant _)

theorem Lands.residueWriteback (hs : Canon s) (die idx : Nat) : Lands (execResidueWriteback die idx s) :=
  .event hs (.bind fun _ _ => .guard (.some (hs.setDie ..)))

theorem Lands.arrive (hs : Canon s) (wave : Nat) : Lands (execArrive wave s) := .event hs fun _ e => hs.arriveHead? _ e

theorem Lands.flush (hs : Canon s) (src dst : Nat) : Lands (execFlush src dst s) :=
  .event hs (.bind fun m _ => .guard (.some (Canon.sendMarkers (by exact hs) ..)))

theorem Lands.completion (hs : Canon s) (kernel : Nat) : Lands (execCompletion kernel s) :=
  .event hs (.bind fun k _ => .guard (.some (Canon.settleKernels
    (((hs.setKernel { k with st := .complete }).launchGone k).same rfl))))

theorem Lands.barrierRelease (hs : Canon s) (group name : Nat) : Lands (execBarrierRelease group name s) :=
  .event hs (.ite (.some (hs.same rfl)) .none)

theorem Lands.copyStart (hs : Canon s) (die core : Nat) : Lands (execCopyStart die core s) :=
  .event hs (.bind fun _ _ => .some (hs.start _))

theorem Lands.copyFire (hs : Canon s) (op : Nat) : Lands (execCopyFire op s) := .event hs (.bind fun _ _ _ e => hs.tryFire _ e)

theorem Lands.segmentStart (hs : Canon s) (op : Nat) : Lands (execSegmentStart op s) :=
  .event hs (.bind fun _ _ => .bind fun _ _ => .guard (.some (hs.setOp _)))

theorem Lands.chpushAccept (hs : Canon s) (w ch : Nat) : Lands (execChpushAccept w ch s) :=
  .event hs (.bind fun _ _ _ e => hs.accept _ _ e)

theorem Lands.stagedWritebackDone (hs : Canon s) (gid : Nat) : Lands (execStagedWritebackDone gid s) :=
  .event hs (.bind fun _ _ => .guard (.some (hs.setDie ..)))

theorem Lands.correctableError (hs : Canon s) (die : Nat) : Lands (execCorrectableError die s) :=
    .event hs (.some (hs.setDie ..))

theorem Lands.actldComplete (hs : Canon s) (die core : Nat) : Lands (execActldComplete die core s) :=
  .event hs (.ite .none (.some (hs.setCore ..)))

theorem Lands.matrixEntryStart (hs : Canon s) (die core : Nat) : Lands (execMatrixEntryStart die core s) :=
  .event hs (.bind fun _ _ => .some (hs.startMat ..))

theorem Lands.obldComplete (hs : Canon s) (die core : Nat) : Lands (execObldComplete die core s) :=
  .event hs (.bind fun _ _ _ e => hs.snapAll.doneObld _ _ e)

theorem Lands.mmaComplete (hs : Canon s) (die core : Nat) : Lands (execMmaComplete die core s) :=
  .event hs (.bind fun _ _ _ e => hs.snapAll.doneMma _ _ e)

theorem Lands.mdrainComplete (hs : Canon s) (die core : Nat) : Lands (execMdrainComplete die core s) :=
  .event hs (.bind fun _ _ _ e => hs.doneMdrain _ _ e)

theorem Lands.unitOpStart (hs : Canon s) (die core : Nat) : Lands (execUnitOpStart die core s) :=
  .event hs (.bind fun _ _ => .some (hs.startUnit ..))

theorem Lands.unitOpComplete (hs : Canon s) (die core : Nat) : Lands (execUnitOpComplete die core s) :=
  .event hs (.bind fun _ _ => .some (hs.doneUnit ..))

theorem Lands.geodeSearchStart (hs : Canon s) (die : Nat) : Lands (execGeodeSearchStart die s) :=
  .event hs (.bind fun _ _ => .some (hs.setSearch ..))

theorem Lands.geodeSearchComplete (hs : Canon s) (die : Nat) : Lands (execGeodeSearchComplete die s) :=
  .event hs (.bind fun _ _ => .some (hs.doneSearch ..))

theorem Lands.placement (hs : Canon s) : Lands (execPlacement s) := .event hs (.bind fun _ _ => .some (hs.placeGroup ..))

theorem Lands.groupDrainComplete (hs : Canon s) (group : Nat) : Lands (execGroupDrainComplete group s) := by
  refine .event hs (.bind fun g _ => .guard (.some (Canon.groupDone (Canon.setGroup ?_ _) _)))
  exact hs.same rfl

theorem Lands.bounceResend (hs : Canon s) (r : AccRef) (ia : Nat) : Lands (execBounceResend r ia s) := by
  refine .event hs (.bind fun b _ => .guard ?_)
  have hw := (hs.setDie (iaDie ia % 8) { s.die (iaDie ia % 8) with
    bouncedAcc := dropIf (· == b) (s.die (iaDie ia % 8)).bouncedAcc }).walk ia
  dsimp only
  split
  next e => exact .some ((hw.of_eq e).wake ..)
  next e => exact .some ((hw.of_eq e).parkAt ..)

theorem Lands.startOf (hs : Canon s) (q code : Nat) : Lands (execEvent s fun s => s.startOf q code) :=
  .event hs fun _ e => hs.startOf _ _ e

theorem Lands.jxreplay (hs : Canon s) (mask : BitVec 8) : Lands (execJxreplay mask s) := .event hs (.some (hs.replayMask _))

theorem Lands.xinv (hs : Canon s) (die : Nat) (w : Word) : Lands (execXinv die w s) := .event hs (.some (hs.setDie ..))

theorem Lands.shootDownDone (hs : Canon s) (die : Nat) : Lands (execShootDownDone die s) :=
  .event hs (.ite (.some (hs.setDie ..)) .none)

theorem Lands.gmibWrite (hs : Canon s) (die : Nat) (v : BitVec 6) : Lands (execGmibWrite die v s) :=
  .event hs (.ite .none (.some (hs.setDie ..)))

theorem Lands.rangeRegisterSet (hs : Canon s) (ctx n : Nat) (w0 w1 w2 : Word) : Lands (execRangeRegisterSet ctx n w0 w1 w2 s) :=
  .event hs (.ite .none (.ite (.some (hs.setCtx ..)) (.ite (.some (hs.setCtx ..)) .none)))

theorem Lands.fabricTableWrite (hs : Canon s) (e : Nat) (v : Word) : Lands (execFabricTableWrite e v s) :=
  .event hs (.ite .none (.some (hs.same rfl)))

theorem Lands.inboundWindowWrite (hs : Canon s) (n : Nat) (w0 w1 w2 w3 : Word) :
    Lands (execInboundWindowWrite n w0 w1 w2 w3 s) :=
  .event hs (.ite .none (.some (hs.same rfl)))

theorem Lands.registerWrite (hs : Canon s) (r : RegAccess) (v : Word) : Lands (execRegisterWrite r v s) := by
  refine .event hs (.ite .none ?_)
  split
  · exact .some (hs.setDie ..)
  · exact .ite .none (.some (hs.putBytes ..))
  · exact .some ((hs.setQueue _).evalQueue _)
  · exact .some (hs.setDie ..)
  · exact .some (hs.same rfl)
  · exact .some (.ite (Canon.startSwap (by exact hs)) (hs.same rfl))
  · exact fun _ e => hs.wdogWrite _ e
  · exact .some (hs.replayMask _)
  · exact .ite (.ite (.some (hs.same rfl)) .none) (.ite (.some (hs.same rfl)) .none)
  · exact .none

theorem Lands.waitq (hs : Canon s) (q : Nat) : Lands (execWaitq q s) := by
  refine .event hs ?_
  dsimp only
  split
  · exact .some ((hs.commandDone ..).evalQueue _)
  · exact fun _ e => hs.startOf _ _ e

theorem Lands.geodewComplete (hs : Canon s) (q : Nat) : Lands (execGeodewComplete q s) := by
  refine .event hs (.bind fun p _ => ?_)
  obtain ⟨id, c⟩ := p
  dsimp only
  have hfail : Canon (((s.commandDone q id).queueError q 8).evalQueue q) := ((hs.commandDone ..).queueError ..).evalQueue _
  split
  · refine .ite (.some hfail) (.guard (.ite (.some hfail)
      (.ite (.some (((hs.setTable ..).commandDone ..).evalQueue _)) (.guard ?_))))
    split
    · exact .some hfail
    · split
      · exact .none
      next er =>
        split
        · exact .none
        next ew => exact .some ((((((hs.hRead _ _).of_eq er).hWrite _ _).of_eq ew).setTable ..).commandDone .. |>.evalQueue _)
  · exact .none

theorem Lands.queueReset (hs : Canon s) (q : Nat) : Lands (execQueueReset q s) := .event hs (.some (hs.resetQueue _))

theorem Lands.contextCreate (hs : Canon s) (ctx : Nat) (spec : CtxSpec) : Lands (execContextCreate ctx spec s) := by
  refine .event hs ?_
  split
  · exact .some (hs.setCtx ..)
  · exact .some (hs.setUp _)
  · exact .none

theorem Lands.contextPreempt (hs : Canon s) (ctx : Nat) : Lands (execContextPreempt ctx s) :=
  .event hs (.ite .none (.ite (fun _ e => hs.endPreempt _ e) fun _ e => hs.beginPreempt _ e))

theorem Lands.contextKill (hs : Canon s) (ctx : Nat) : Lands (execContextKill ctx s) := .event hs fun _ e => hs.kill? _ e

theorem Lands.walkDone (hs : Canon s) (ctx : Nat) : Lands (execWalkDone ctx s) :=
  .event hs (.ite .none (.some ((hs.landRecord ctx).same rfl)))

theorem Lands.dieRetirement (hs : Canon s) (die : Nat) : Lands (execDieRetirement die s) :=
  .event hs (.ite .none (.some (hs.retireDie ..)))

theorem Lands.linkTrain (hs : Canon s) (n : Nat) : Lands (execLinkTrain n s) := .event hs (.some (hs.command ..).isolate)

theorem Lands.linkFence (hs : Canon s) (n : Nat) : Lands (execLinkFence n s) := .event hs (.some (hs.command ..).isolate)

theorem Lands.linkUnfence (hs : Canon s) (n : Nat) : Lands (execLinkUnfence n s) := .event hs (.some (hs.command ..).isolate)

theorem Lands.linkRetire (hs : Canon s) (n : Nat) : Lands (execLinkRetire n s) := .event hs (.some (hs.command ..).isolate)

theorem Lands.trainingAttempt (hs : Canon s) (n : Nat) (near far : LinkEnd) : Lands (execTrainingAttempt n near far s) := by
  refine .event hs (.ite .none ?_)
  split
  · exact .some (hs.linkChange ..).backInService
  · exact .some (hs.linkChange ..)

theorem Lands.linkFault (hs : Canon s) (n : Nat) : Lands (execLinkFault n s) :=
    .event hs (.ite .none (.some (hs.linkChange ..)))

theorem Lands.flitReplay (hs : Canon s) (n : Nat) : Lands (execFlitReplay n s) :=
  .event hs (.ite .none (.some (.ite (hs.linkChange ..) (hs.setLink ..))))

theorem Lands.dieReset (hs : Canon s) (die : Nat) (force : Bool) : Lands (execDieReset die force s) :=
  .event hs fun _ e => hs.resetDie _ _ e

theorem Lands.drainExpiry (hs : Canon s) (die : Nat) : Lands (execDrainExpiry die s) := .event hs fun _ e => hs.drainOut _ e

theorem Lands.packetResend (hs : Canon s) (id : Nat) : Lands (execPacketResend id s) := .event hs fun _ e => hs.resend? _ e

theorem Lands.deliveryContextClose (hs : Canon s) (ep : Nat) : Lands (execDeliveryContextClose ep s) :=
  .event hs (.bind fun _ _ => .ite (.some (hs.same rfl)) .none)

theorem Lands.slotBegin (hs : Canon s) : Lands (execSlotBegin s) := .event hs (.ite .none (.some hs.beginSlot))

theorem Lands.slotEnd (hs : Canon s) : Lands (execSlotEnd s) := .event hs (.ite .none (.some hs.endSlot))

theorem Lands.sensorSweep (hs : Canon s) (r : Readings) : Lands (execSensorSweep r s) :=
    .event hs (.ite (.some (hs.sweep _)) .none)

theorem Lands.sample (hs : Canon s) (die core : Nat) : Lands (execSample die core s) :=
  .event hs (.ite (fun _ e => hs.takeSample _ e) .none)

theorem Lands.watchdogW0 (hs : Canon s) (w : Nat) : Lands (execWatchdogW0 w s) := .event hs fun _ e => hs.level0 _ e

theorem Lands.watchdogW1 (hs : Canon s) (ctx : Nat) : Lands (execWatchdogW1 ctx s) :=
  .event hs (.ite (fun _ e => hs.level1 _ _ e) .none)

theorem Lands.watchdogW2 (hs : Canon s) (ctx : Nat) : Lands (execWatchdogW2 ctx s) := .event hs (.some (hs.levelTwo _))

theorem Lands.watchdogW3 (hs : Canon s) : Lands (execWatchdogW3 s) := .event hs (.ite (.some (hs.level3 _)) .none)

theorem Lands.watchdogW4 (hs : Canon s) : Lands (execWatchdogW4 s) := .event hs (.ite (fun _ e => hs.level4 e) .none)

theorem Lands.jxwdogW1 (hs : Canon s) (ctx : Nat) : Lands (execJxwdogW1 ctx s) := .event hs fun _ e => hs.level1 _ _ e

theorem Lands.jxwdogW2 (hs : Canon s) (die : Nat) : Lands (execJxwdogW2 die s) := .event hs fun _ e => hs.level2 _ _ _ e

theorem Lands.jxwdogW2Forced (hs : Canon s) (die : Nat) : Lands (execJxwdogW2Forced die s) :=
    .event hs fun _ e => hs.level2 _ _ _ e

theorem Lands.jxwdogW3 (hs : Canon s) : Lands (execJxwdogW3 s) := .event hs fun _ e => hs.reqLevel3 e

theorem Lands.jxwdogW4 (hs : Canon s) : Lands (execJxwdogW4 s) := .event hs fun _ e => hs.level4 e

theorem Lands.riggingSwap (hs : Canon s) (img : ImageCheck) : Lands (execRiggingSwap img s) := by
  refine .event hs (.ite .none (.ite (.some hs.startSwap) ?_))
  split
  · exact .none
  · exact .some (hs.same rfl)
  · refine .ite .none ?_
    have hh := hs.imageHeader?
    split
    · exact .none
    next t h e =>
      have ht : Canon t := hh.of_eq e
      refine .ite (.some (ht.same rfl)) ?_
      split
      · exact .none
      next u body e =>
        have hu : Canon u := (ht.hRead _ _).of_eq e
        exact .some (.ite (hu.same rfl) (.ite (hu.same rfl) (hu.same rfl)))

theorem Lands.swapPause (hs : Canon s) : Lands (execSwapPause s) :=
  .event hs (.ite .none (.ite (.some hs.resumeSwap) (.some (hs.same rfl))))

theorem Lands.powerGood (hs : Canon s) : Lands (execPowerGood s) := .event hs (.ite (.some (hs.same rfl)) .none)

theorem Lands.stageComplete (hs : Canon s) (loss : StageLoss) : Lands (execStageComplete loss s) := by
  refine .event hs ?_
  have hl := hs.stageLoss loss
  split
  · exact .some (.ite hs.portZero.toMinimal hs.portZero.enterStage1)
  · exact .some (.ite hl.toMinimal (hl.same rfl))
  · exact .some (.ite hl.toMinimal (Canon.trainLinks (by exact hl) _))
  · exact .some (.ite hl.toMinimal (hl.same rfl))
  · exact .none

theorem Lands.tagSweepDone (hs : Canon s) (die sector tag : Nat) : Lands (execTagSweepDone die sector tag s) :=
  .event hs (.guard (.some ((hs.setDie ..).sweepTag ..)))

theorem Lands.dieDrainDone (hs : Canon s) (die : Nat) : Lands (execDieDrainDone die s) :=
  .event hs (.ite (.some (hs.finishReset _)) .none)

end Sys2Proof.Canonical
end

section
/-! A step: every instruction and event, and what the device does of itself (O50). -/

namespace Sys2Proof.Canonical

open Sys2Proof Sys2Proof.Machine Sys2Proof.Laws

variable {s : State}

/-- Every instruction and event lands in canonical memory: most words write the issuing wave only, the others as their
lemmas above say. -/
theorem Lands.exec (hs : Canon s) (i : Instr) : Lands (exec i s) := by
  cases i
  case brx | ret => exact .word hs fun x _ hx => .branchReg x hx ..
  case callx => exact .callx hs ..
  case loop => exact .loop hs ..
  case endl => exact .endl hs ..
  case lbrk => exact .lbrk hs ..
  case spawn => exact .spawn hs ..
  case endFibre => exact .endFibre hs ..
  case sleep => exact .sleep hs ..
  case pairNop | pairMov | pairAdd | pairSub | pairMin | pairMax | pairAnd | pairOr | pairXor | pairAndn |
      pairFadd | pairFmul | pairFmin | pairFmax =>
    exact .pair hs ..
  case actld => exact .actld hs ..
  case actswap => exact .actswap hs ..
  case ld | lds | ldp => exact .word hs fun _ _ hx => .load hx ..
  case st | sts | stp => exact .word hs fun _ _ hx => .store hx ..
  case atom | atoms => exact .word hs fun _ _ hx => .atomic hx ..
  case rst => exact .word hs fun _ _ hx => .rst hx ..
  case ratom => exact .ratom hs ..
  case pref => exact .pref hs ..
  case stage => exact .stage hs ..
  case unstage => exact .unstage hs ..
  case brw => exact .brw hs ..
  case rbrw => exact .rbrw hs ..
  case split => exact .split hs ..
  case join => exact .join hs ..
  case rtn => exact .rtn hs ..
  case rgmv => exact .rgmv hs ..
  case stmpw => exact .stmpw hs ..
  case stmpp => exact .stmpp hs ..
  case binit => exact .binit hs ..
  case barr => exact .barr hs ..
  case bexp => exact .bexp hs ..
  case chinit => exact .chinit hs ..
  case chpush => exact .chpush hs ..
  case chpop => exact .chpop hs ..
  case copy => exact .word hs fun _ _ hx => .copy hx _ _ _ _ _ .descCopy
  case copy2 => exact .word hs fun _ _ hx => .copy hx _ _ _ _ _ .descCopy2
  case gath | scat => exact .word hs fun _ _ hx => .copy hx _ _ _ _ _ (.descIndexed _)
  case route => exact .route hs ..
  case cvinit => exact .cvinit hs ..
  case mma => exact .mma hs ..
  case lace => exact .lace hs ..
  case obres => exact .obres hs ..
  case obld => exact .obld hs ..
  case obrel => exact .obrel hs ..
  case mdrain => exact .mdrain hs ..
  case hbind | hperm | hbund | hthr | hclr | hset | hdist | hpop | htie => exact .word hs fun _ _ hx => .unit hx ..
  case hld => exact .hld hs ..
  case hst => exact .hst hs ..
  case hcw => exact .hcw hs ..
  case hsrch | hsrch2 => exact .word hs fun _ _ hx => .search hx ..
  case trap => exact .trap hs ..
  case tret => exact .tret hs ..
  case mfs => exact .mfs hs ..
  case halt => exact .halt hs ..
  case smpcfg => exact .smpcfg hs ..
  case smpon => exact .smpon hs ..
  case smpoff => exact .smpoff hs ..
  case deferredFaultTaken => exact .deferredFaultTaken hs ..
  case variableLatencyWrite => exact .variableLatencyWrite hs ..
  case loadWriteback => exact .loadWriteback hs ..
  case missEntriesTaken => exact .missEntriesTaken hs ..
  case acknowledgementReceived => exact .acknowledgementReceived hs ..
  case fullEmptyProceed => exact .fullEmptyProceed hs ..
  case turnExpiry => exact .turnExpiry hs ..
  case sleepElapses => exact .sleepElapses hs ..
  case binTimerExpiry => exact .binTimerExpiry hs ..
  case waitingBinLaunch => exact .waitingBinLaunch hs ..
  case waveSlotRelease => exact .waveSlotRelease hs ..
  case swapOut => exact .swapOut hs ..
  case waveRestore => exact .waveRestore hs ..
  case drain => exact .drain hs ..
  case homeAtomic => exact .homeAtomic hs ..
  case grant => exact .grant hs ..
  case grantRequestFailed => exact .grantRequestFailed hs ..
  case derive => exact .derive hs ..
  case returnGrant => exact .returnGrant hs ..
  case returnAcknowledged => exact .returnAcknowledged hs ..
  case residueWriteback => exact .residueWriteback hs ..
  case copyChunk => exact .copyChunk hs ..
  case arrive => exact .arrive hs ..
  case girthDelivery => exact .girthDelivery hs ..
  case flush => exact .flush hs ..
  case reinDelivery => exact .reinDelivery hs ..
  case flag => exact .flag hs ..
  case stampPass => exact .stampPass hs ..
  case completion => exact .completion hs ..
  case killRelease => exact .killRelease hs ..
  case barrierRelease => exact .barrierRelease hs ..
  case copyStart => exact .copyStart hs ..
  case copyFire => exact .copyFire hs ..
  case segmentStart => exact .segmentStart hs ..
  case chpushAccept => exact .chpushAccept hs ..
  case chpopClaim => exact .chpopClaim hs ..
  case stagedWritebackDone => exact .stagedWritebackDone hs ..
  case uncorrectableError => exact .uncorrectableError hs ..
  case correctableError => exact .correctableError hs ..
  case actldComplete => exact .actldComplete hs ..
  case matrixEntryStart => exact .matrixEntryStart hs ..
  case obldComplete => exact .obldComplete hs ..
  case mmaComplete => exact .mmaComplete hs ..
  case mdrainComplete => exact .mdrainComplete hs ..
  case unitOpStart => exact .unitOpStart hs ..
  case unitOpComplete => exact .unitOpComplete hs ..
  case geodeSearchStart => exact .geodeSearchStart hs ..
  case geodeSearchComplete => exact .geodeSearchComplete hs ..
  case placement => exact .placement hs
  case groupDrainComplete => exact .groupDrainComplete hs ..
  case park => exact .park hs ..
  case bounceResend => exact .bounceResend hs ..
  case replay | launch | mark | signal | slatew | geodew | fenceq => exact .startOf hs ..
  case jxreplay => exact .jxreplay hs ..
  case xinv => exact .xinv hs ..
  case shootDownDone => exact .shootDownDone hs ..
  case gmibWrite => exact .gmibWrite hs ..
  case rangeRegisterSet => exact .rangeRegisterSet hs ..
  case fabricTableWrite => exact .fabricTableWrite hs ..
  case inboundWindowWrite => exact .inboundWindowWrite hs ..
  case registerWrite => exact .registerWrite hs ..
  case waitq => exact .waitq hs ..
  case slatewComplete => exact .slatewComplete hs ..
  case geodewComplete => exact .geodewComplete hs ..
  case dispatch => exact .dispatch hs
  case queueReset => exact .queueReset hs ..
  case contextCreate => exact .contextCreate hs ..
  case contextPreempt => exact .contextPreempt hs ..
  case contextResume => exact .contextResume hs ..
  case contextKill => exact .contextKill hs ..
  case reclaimWalk => exact .reclaimWalk hs ..
  case walkDone => exact .walkDone hs ..
  case dieRetirement => exact .dieRetirement hs ..
  case linkTrain => exact .linkTrain hs ..
  case linkFence => exact .linkFence hs ..
  case linkUnfence => exact .linkUnfence hs ..
  case linkRetire => exact .linkRetire hs ..
  case trainingAttempt n near far => exact .trainingAttempt hs n near far
  case linkFault => exact .linkFault hs ..
  case flitReplay => exact .flitReplay hs ..
  case dieReset => exact .dieReset hs ..
  case drainExpiry => exact .drainExpiry hs ..
  case inboundAccess => exact .inboundAccess hs ..
  case packetResend => exact .packetResend hs ..
  case selectiveAck => exact .selectiveAck hs ..
  case deliveryContextClose => exact .deliveryContextClose hs ..
  case packetTimeout => exact .packetTimeout hs ..
  case slotBegin => exact .slotBegin hs
  case slotEnd => exact .slotEnd hs
  case sensorSweep => exact .sensorSweep hs ..
  case sample => exact .sample hs ..
  case watchdogW0 => exact .watchdogW0 hs ..
  case watchdogW1 => exact .watchdogW1 hs ..
  case watchdogW2 => exact .watchdogW2 hs ..
  case watchdogW3 => exact .watchdogW3 hs
  case watchdogW4 => exact .watchdogW4 hs
  case jxwdogW1 => exact .jxwdogW1 hs ..
  case jxwdogW2 => exact .jxwdogW2 hs ..
  case jxwdogW2Forced => exact .jxwdogW2Forced hs ..
  case jxwdogW3 => exact .jxwdogW3 hs
  case jxwdogW4 => exact .jxwdogW4 hs
  case riggingSwap => exact .riggingSwap hs ..
  case swapPause => exact .swapPause hs
  case powerGood => exact .powerGood hs
  case stageComplete => exact .stageComplete hs ..
  case instructionCacheFill => exact .instructionCacheFill hs ..
  case tagSweepDone => exact .tagSweepDone hs ..
  case dieDrainDone => exact .dieDrainDone hs ..
  case unstageWriteDone => exact .unstageWriteDone hs ..
  all_goals exact .word hs fun _ _ hx => hx

theorem Canon.issuedBy (hs : Canon s) {o : Out} (ho : Lands o) : Possibly Canon (issuedBy s o) := by
  unfold Machine.issuedBy
  split
  next t => exact .ite (.some ((ho.canon t rfl).same rfl)) .none
  · exact .none

theorem Canon.word {x : Iss} (hx : Canon x.s) (v : Word) (bad : List Nat) (us : List Use) (clash : Option Word) (slot : Bool)
    {f : State → Out} (hf : Lands (f x.s)) : Possibly Canon (x.word v bad us clash slot f) := by
  unfold Iss.word
  refine .ite .none ?_
  split
  · exact .some ((hx.trap ..).same rfl)
  · exact .some ((hx.trap ..).same rfl)
  · exact .ite .none (hx.issuedBy hf)

theorem Canon.tryWord (hs : Canon s) (v : Word) : Possibly Canon (s.tryWord v) := by
  unfold State.tryWord
  split
  · exact .none
  next x hx =>
    obtain ⟨hxs, -⟩ := iss?_some hx
    have hc : Canon x.s := hxs ▸ hs
    split
    · exact .some ((hc.trap ..).same rfl)
    · exact hc.word _ _ _ _ _ (.exec hc _)
    · exact hc.word _ _ _ _ _ (.smpon hc ..)
    · exact hc.word _ _ _ _ _ (.smpoff hc ..)

theorem Canon.tryWave (hs : Canon s) (w : Wave) : Possibly Canon (s.tryWave w) := by
  unfold State.tryWave
  split
  · exact .none
  · split
    · exact .none
    · exact .some (.ite (hs.fetchFault ..) (hs.takeDeferred ..))
    · exact .ite ((hs.offer ..).tryWord _) (.ite (.some (hs.takeDeferred ..)) .none)

theorem Canon.issueQuad (hs : Canon s) (q : Nat) : Canon (s.issueQuad q) := by
  unfold State.issueQuad
  extract_lets t u
  have hu : Canon u := (hs.serveQuad q).forAll (fun _ _ hs => .bind fun _ _ _ e => hs.proceedFe _ e) _
  split
  next v e =>
    obtain ⟨w, -, ev⟩ := List.exists_of_findSome?_eq_some e
    exact (hu.tryWave w v ev).serveQuad q
  · exact hu

theorem Canon.advance (hs : Canon s) : Canon s.advance := by
  unfold State.advance
  have hd := hs.dueStart
  generalize s.dueStart = u at hd ⊢
  refine .ite hs (.ite (hd.same rfl) ?_)
  split
  · exact (hs.issueQuad _).same rfl
  · exact hs.dueEnd.tick

theorem Canon.act (hs : Canon s) (i : Instr) : Canon (State.act i s) := by
  unfold State.act
  split
  any_goals exact hs.advance
  split
  next t e => exact (Lands.exec (by exact hs) _).canon t e
  · exact hs.advance

theorem Canon.turn (hs : Canon s) : Canon s.turn := by
  unfold State.turn
  split
  · exact hs.advance
  · exact .ite ((hs.taken ..).act _) hs.advance

/-- Settles O50: every function that makes a next state keeps the canonical form of memory, by a lemma for each; only
putting a byte, clearing a range, dropping a lost die's bytes and the reset write memory. -/
theorem memoryStaysCanonical : Obligations.MemoryStaysCanonical := by
  unfold Obligations.MemoryStaysCanonical
  intro s t hs ht
  cases ht
  exact Canon.turn hs

end Sys2Proof.Canonical
end

section
/-! The report of a region register (R171). -/

namespace Sys2Proof.RegionReport

open Sys2Proof Sys2Proof.Machine Sys2Proof.Laws

/-- A wave with three consecutive scalar registers written. -/
def sset3 (w : Wave) (n : Nat) (a b c : Word) : Wave := ((w.sset n a).sset (n + 1) b).sset (n + 2) c

section
variable (w : Wave) {n : Nat} (a b c : Word)

/-- Three scalar writes change the scalar registers alone. -/
theorem sset3_eq (hn : n ≠ 0) : sset3 w n a b c = { w with sregs := (sset3 w n a b c).sregs } := by
  simp [sset3, Wave.sset, hn]

/-- The first of the three registers holds the first value. -/
theorem sget_sset3_fst (hn : n ≠ 0) : (sset3 w n a b c).sget n = a := by
  rw [sset3, sget_sset_ne _ _ _ _ (by omega), sget_sset_ne _ _ _ _ (by omega), sget_sset_same _ _ _ hn]

/-- The second register holds the second value. -/
theorem sget_sset3_snd : (sset3 w n a b c).sget (n + 1) = b := by
  rw [sset3, sget_sset_ne _ _ _ _ (by omega), sget_sset_same _ _ _ (by omega)]

/-- The third register holds the third value. -/
theorem sget_sset3_thd : (sset3 w n a b c).sget (n + 2) = c := by
  rw [sset3, sget_sset_same _ _ _ (by omega)]

/-- Every other register is left alone. -/
theorem sget_sset3_ne {k : Nat} (hk : k < n ∨ n + 2 < k) : (sset3 w n a b c).sget k = w.sget k := by
  rw [sset3, sget_sset_ne _ _ _ _ (by omega), sget_sset_ne _ _ _ _ (by omega), sget_sset_ne _ _ _ _ (by omega)]

end

/-- The fields of the report word laid side by side are the sum of Table 7.7's terms. -/
theorem reportWord_toNat (tag home children pw pr kind scope st : Nat) :
    (reportWord tag home children pw pr kind scope st).toNat =
      tag % 4096 * 2 ^ 40 + home % 16 * 2 ^ 36 + children % 65536 * 2 ^ 20 + pw % 512 * 2 ^ 11 + pr % 32 * 64 +
        kind % 4 * 16 + 8 * (scope % 2) + st % 8 := by
  simp only [reportWord, Integers.toNat_append_add, BitVec.toNat_ofNat]
  omega

/-- The state of a grant takes three bits. -/
theorem code_lt (st : GrantSt) : st.code < 8 := by cases st <;> decide

/-- The kind of a grant takes two bits. -/
theorem kindNum_lt (k : Kind) : kindNum k < 4 := by cases k <;> decide

/-- A virtual die is below 8. -/
theorem virtDie?_lt {vdies : BitVec 32} {d v : Nat} (h : virtDie? vdies d = some v) : v < 8 :=
  List.mem_range.1 (List.mem_of_find?_eq_some h)

/-- The home that a report names: 8 for the rack, 9 for a die without a virtual number. -/
def reportHome (vdies : BitVec 32) (home : Nat) : Nat := if 8 ≤ home then 8 else (virtDie? vdies home).getD 9

/-- The reported home takes four bits. -/
theorem reportHome_lt (vdies : BitVec 32) (home : Nat) : reportHome vdies home < 16 := by
  unfold reportHome
  split
  · omega
  · cases hv : virtDie? vdies home with
    | none => simp
    | some v => have := virtDie?_lt hv; simp; omega

/-- The reported home is the one that the clauses on homes fix. -/
theorem reportHome_eq {vdies : BitVec 32} {g home : Nat} (hout : 8 ≤ g → home = 8)
    (hin : g < 8 → virtDie? vdies g = some home ∨ (virtDie? vdies g = none ∧ home = 9)) : reportHome vdies g = home := by
  unfold reportHome
  split
  · rename_i h8; exact (hout h8).symm
  · rename_i h8
    obtain hv | ⟨hv, rfl⟩ := hin (by omega) <;> rw [hv] <;> rfl

/-- The parent's wave index and register code as the report gives them. -/
def parentOf (g : Grant) : Nat × Nat := (g.parent.map (·.2)).getD (0, 31)

/-- RGQ's word for a grant is the report word of its fields. -/
theorem rgqWord_some (vdies : BitVec 32) (code : Nat) (g : Grant) (hp : (parentOf g).2 < 32) :
    rgqWord vdies code (some g) = reportWord g.tag (reportHome vdies g.home) g.children (parentOf g).1 (parentOf g).2
      (kindNum g.kind) (if code < 16 then 0 else 1) g.st.code := by
  have hword : rgqWord vdies code (some g) = wd (g.tag % 4096 * 2 ^ 40 + reportHome vdies g.home * 2 ^ 36 +
      g.children % 65536 * 2 ^ 20 + (parentOf g).1 % 512 * 2 ^ 11 + (parentOf g).2 * 64 + kindNum g.kind * 16 +
        8 * b2n (16 ≤ code) + g.st.code) := by
    cases hpar : g.parent <;> simp [rgqWord, reportHome, parentOf, hpar]
  have hscope : b2n (16 ≤ code) = if code < 16 then 0 else 1 := by by_cases hc : code < 16 <;> simp [b2n, hc]
  have hhome := reportHome_lt vdies g.home
  have hkind := kindNum_lt g.kind
  have hst := code_lt g.st
  apply BitVec.eq_of_toNat_eq
  rw [hword, reportWord_toNat, hscope, wd, BitVec.toNat_ofNat]
  split <;> omega

/-- RGQ's word for an EMPTY register. -/
theorem rgqWord_none (vdies : BitVec 32) (code : Nat) :
    rgqWord vdies code none = if code < 16 then 0x000000F0000007F0 else 0x000000F0000007F8 := by
  by_cases hc : code < 16
  · simp [rgqWord, b2n, hc, Nat.not_le.2 hc, wd]
  · simp [rgqWord, b2n, hc, Nat.not_lt.1 hc, wd]

/-- Settles O32: RGQ's three writes are one change of the scalar registers, and its third word is the report word. -/
theorem regionReports : Obligations.RegionReports := by
  intro x h d a hx hd hr n
  have hn : n ≠ 0 := fun h0 => hd (BitVec.eq_of_toNat_eq h0)
  let g := x.s.reg? (x.regRef a.toNat)
  let v := sset3 x.w n ((g.map (·.va)).getD 0) (wd ((g.map (·.len)).getD 0)) (rgqWord x.c.vdies a.toNat g)
  let w : Wave := { v with vpend := v.vpend ++ [⟨x.s.nextUid, [.sreg n, .sreg (n + 1), .sreg (n + 2)], none⟩] }
  have hv : v = { x.w with sregs := v.sregs } := sset3_eq _ _ _ _ hn
  have hget (k : Nat) : w.sget k = v.sget k := rfl
  refine ⟨w, Control.word_done hx hr rfl rfl, ?_, fun k hk => (hget k).trans (sget_sset3_ne _ _ _ _ hk), fun hg => ?_,
    fun gr hg => ?_⟩
  · show ({ v with vpend := _ } : Wave) = _
    rw [hv]
  · have h0 : g = none := hg
    simp only [hget, v, h0, sget_sset3_fst _ _ _ _ hn, sget_sset3_snd, sget_sset3_thd]
    exact ⟨rfl, rfl, rgqWord_none _ _⟩
  · have h0 : g = some gr := hg
    simp only [hget, v, h0, sget_sset3_fst _ _ _ _ hn, sget_sset3_snd, sget_sset3_thd]
    refine ⟨rfl, rfl, fun home hout hin => ?_⟩
    rw [← reportHome_eq hout hin]
    refine ⟨fun hpar => ?_, fun u pw pr hpar hpr => ?_⟩
    · rw [rgqWord_some _ _ _ (by simp [parentOf, hpar])]; simp [parentOf, hpar]
    · rw [rgqWord_some _ _ _ (by simpa [parentOf, hpar] using hpr)]; simp [parentOf, hpar]

end Sys2Proof.RegionReport
end

section
/-! Words whose effect is a chain of checks: the outcome of the word is that of the chain. -/

namespace Sys2Proof.Regions

open Sys2Proof Sys2Proof.Machine Sys2Proof.Laws

/-! A chain of checks goes on where a check passes -/

section
variable {α : Type} (f : Unit → Chk α) (code : Nat) (info : Word)

/-- A check that holds lets the chain go on. -/
@[simp] theorem need_true_bind : (need true code info >>= f) = f () := rfl

/-- A check that fails ends the chain with its trap. -/
@[simp] theorem need_false_bind : (need false code info >>= f) = .error (.trap code info) := rfl

/-- So does every other end of a check. -/
@[simp] theorem error_bind {β : Type} (e : Eff) (f : β → Chk α) : ((.error e : Chk β) >>= f) = .error e := rfl

/-- A check that passes with a value hands it on. -/
@[simp] theorem ok_bind {β : Type} (b : β) (f : β → Chk α) : ((.ok b : Chk β) >>= f) = f b := rfl

end

/-! The deferred fault of a register -/

/-- A register without a deferred fault passes. -/
theorem regFault_none {s : State} {r : RegRef} (h : s.regFaults.find? (fun f => f.1 == r) = none) : s.regFault r = .ok () := by
  unfold State.regFault; rw [h]

/-- The deferred fault that a register holds is its trap. -/
theorem regFault_some {s : State} {r q : RegRef} {f : FaultRec}
    (h : s.regFaults.find? (fun f => f.1 == r) = some (q, f)) : s.regFault r = .error (.trapReg r f.code f.info) := by
  unfold State.regFault; rw [h]

/-! The outcome of a word whose effect is a chain of checks -/

section
variable {x : Iss} {i : Instr} {h : Hd} {chk : Iss → List Nat → Chk Eff}
variable (hx : x.live) (hi : exec i x.s = execWord i h .scalar x.s fun x act => (chk x act).eff)
include hx hi

/-- A chain that ends in a trap traps. -/
theorem chain_traps {code : Nat} {info : Word} (he : chk x (x.active h) = .error (.trap code info)) : x.traps i h code info :=
  fun hr => Control.word_traps hx hr hi (by rw [he]; rfl)

/-- A chain that ends in a wait waits. -/
theorem chain_waits (he : chk x (x.active h) = .error .wait) : x.waits i h :=
  fun hr => Control.word_waits hx hr hi (by rw [he]; rfl)

/-- A chain that passes completes with its effect. -/
theorem chain_does {s : State} {w : Wave} (he : chk x (x.active h) = .ok (.done s w .next)) : x.does i h s w :=
  fun hr => Control.word_done hx hr hi (by rw [he]; rfl)

/-- A chain that meets a register's deferred fault traps it. -/
theorem chain_trapsHeld {code : Nat} {f : FaultRec}
    (he : chk x (x.active h) = .error (.trapReg (x.regRef code) f.code f.info)) : x.trapsHeld i h code f :=
  fun hr => by rw [hi, execWord_ready hx hr, he]; rfl

end

end Sys2Proof.Regions
end

section
/-! BRW (R165). -/

namespace Sys2Proof.Borrow

open Sys2Proof Sys2Proof.Machine Sys2Proof.Laws Sys2Proof.Regions

/-! The reasons of Table 7.6 -/

/-- The part of an IA that names its home does not change below this bit. -/
def homeCut (ia : Nat) : Nat := if 8 ≤ iaSpace ia then 34 else 44

/-- A range of Slate that is not borrowed: for another kind than S, or one that reaches the Geode store (reason 4). -/
def SlateBarred (s : State) (k : Kind) (ia len : Nat) : Prop :=
  (iaSpace ia = 1 ∧ k ≠ .s) ∨ (iaSpace ia = 1 ∧ iaDie ia < 8 ∧
    2 ^ 28 - (s.die (iaDie ia)).gmib * 2 ^ 20 ≤ (ia + len - 1) % 2 ^ 28 ∧ unbacked (ia + len - 1) = false)

/-- The home is a retired die (reason 5). -/
def HomeRetired (s : State) (ia : Nat) : Prop := iaSpace ia < 8 ∧ iaDie ia < 8 ∧ (s.die (iaDie ia)).retired = true

/-- No store backs an end of the range (reason 6). -/
def EndsUnbacked (ia len : Nat) : Prop :=
  unbacked ia = true ∨ unbacked (ia + len - 1) = true ∨ (iaSpace ia = 2 ∧ ia / 2 ^ 38 ≠ (ia + len - 1) / 2 ^ 38)

section
variable {s : State} {c : Ctx} {va len : Nat} {k : Kind}

/-- No range register covers the range. -/
theorem brwReason_unmapped (hm : c.map? va len = none) : (s.brwReason c va len k).1 = 1 := by
  unfold State.brwReason; rw [hm]

variable {m : Map} (hm : c.map? va len = some m)
include hm

/-- The range register does not allow the kind. -/
theorem brwReason_kind (hk : (!(m.w0.getLsbD 0 && (k == .s || m.w0.getLsbD 1))) = true) : (s.brwReason c va len k).1 = 2 := by
  unfold State.brwReason; simp only [hm, hk, if_true]

variable (hk : (m.w0.getLsbD 0 && (k == .s || m.w0.getLsbD 1)) = true)
include hk

/-- The reasons past the first two, in their order. -/
theorem brwReason_allowed : (s.brwReason c va len k).1 =
    open Classical in
    if m.ia va / 2 ^ homeCut (m.ia va) ≠ (m.ia va + len - 1) / 2 ^ homeCut (m.ia va) then 3
    else if SlateBarred s k (m.ia va) len then 4
    else if HomeRetired s (m.ia va) then 5
    else if EndsUnbacked (m.ia va) len then 6 else 0 := by
  unfold State.brwReason
  simp only [hm, hk, Bool.not_true, Bool.false_eq_true, if_false]
  simp only [apply_ite Prod.fst, homeCut, SlateBarred, HomeRetired, EndsUnbacked, bne_iff_ne, Bool.or_eq_true, Bool.and_eq_true,
    beq_iff_eq, decide_eq_true_eq, Bool.not_eq_true', and_assoc, or_assoc, ne_eq]
  congr

end

/-! The request -/

/-- BRW's wave, which awaits sf where .sf asks for it. -/
def awaitsSf (x : Iss) (h : Hd) : Wave :=
  if h.x = 4 then { x.w with vpend := x.w.vpend ++ [⟨x.s.nextUid, [.sf], none⟩] } else x.w

/-- BRW's test of .sf. -/
theorem awaitsSf_test (x : Iss) (h : Hd) : (if (h.x == 4) = true
    then { x.w with vpend := x.w.vpend ++ [⟨x.s.nextUid, [.sf], none⟩] } else x.w) = awaitsSf x h := by
  by_cases h4 : h.x = 4 <;> simp [awaitsSf, h4]

/-! The checks of BRW, each after those before it -/

/-- A length that BRW takes (R165). -/
def LenOk (len : Nat) : Prop := len ≠ 0 ∧ len % 256 = 0 ∧ len ≤ 2 ^ 40

/-- The test of a length. -/
theorem lenOk_iff (len : Nat) : (len != 0 && len % 256 = 0 && decide (len ≤ 2 ^ 40)) = true ↔ LenOk len := by
  simp [LenOk, and_assoc]

section
variable {x : Iss} {h : Hd} {d : GCode} {a b : SReg} {tryIt : Bool} {k : Kind} (hx : x.live)
include hx

/-- .try is no form of determinism mode. -/
theorem brw_try (ht : tryIt = true) (hdet : x.det = true) : x.traps (.brw h d a b tryIt k) h RESERVED_FIELD 5 :=
  chain_traps hx rfl (by simp only [ht, hdet, Bool.and_self, Bool.not_true, need_false_bind])

variable (ht : (!(tryIt && x.det)) = true)
include ht

/-- A deferred fault of the register comes next. -/
theorem brw_held {f : FaultRec} (hf : x.s.regFaults.find? (fun f => f.1 == x.regRef d.toNat) = some (x.regRef d.toNat, f)) :
    x.trapsHeld (.brw h d a b tryIt k) h d.toNat f :=
  chain_trapsHeld hx rfl (by simp only [ht, need_true_bind, regFault_some hf, error_bind])

variable (hf : x.unfaulted d.toNat)
include hf

/-- The base is a multiple of 256. -/
theorem brw_base (hva : (x.sreg a.toNat).toNat % 256 ≠ 0) :
    x.traps (.brw h d a b tryIt k) h MISALIGNED (wd (16 * d.toNat + 1)) :=
  chain_traps hx rfl (by simp only [ht, need_true_bind, regFault_none hf, ok_bind, hva, decide_false, need_false_bind])

variable (hva : (x.sreg a.toNat).toNat % 256 = 0)
include hva

/-- The length is a multiple of 256, not 0 and at most 2^40. -/
theorem brw_len (hlen : ¬ LenOk (x.sreg b.toNat).toNat) :
    x.traps (.brw h d a b tryIt k) h MISALIGNED (wd (16 * d.toNat + 2)) :=
  chain_traps hx rfl (by
    simp only [ht, need_true_bind, regFault_none hf, ok_bind, hva, decide_true, Bool.eq_false_iff.2 (mt (lenOk_iff _).1 hlen),
      need_false_bind])

variable (hlen : LenOk (x.sreg b.toNat).toNat)
include hlen

/-- A RETURNING register makes BRW wait. -/
theorem brw_returning {g : Grant} (hg : x.s.reg? (x.regRef d.toNat) = some g) (hst : g.st = .returning) :
    x.waits (.brw h d a b tryIt k) h :=
  chain_waits hx rfl (by
    simp only [ht, need_true_bind, regFault_none hf, ok_bind, hva, decide_true, (lenOk_iff _).2 hlen, hg, hst]; rfl)

/-- A register in another state than EMPTY and RETURNING traps. -/
theorem brw_occupied {g : Grant} (hg : x.s.reg? (x.regRef d.toNat) = some g) (hst : g.st ≠ .returning) :
    x.traps (.brw h d a b tryIt k) h REGION_STATE (wd (d.toNat + 32 * g.st.code)) :=
  chain_traps hx rfl (by
    simp only [ht, need_true_bind, regFault_none hf, ok_bind, hva, decide_true, (lenOk_iff _).2 hlen, hg,
      beq_eq_false_iff_ne.2 hst, Bool.false_eq_true, if_false]; rfl)

variable (hg : x.s.reg? (x.regRef d.toNat) = none)
include hg

/-- A reason of Table 7.6 is a trap. -/
theorem brw_turned_away {n : Nat} (hn : (x.s.brwReason x.c (x.sreg a.toNat).toNat (x.sreg b.toNat).toNat k).1 = n)
    (h0 : n ≠ 0) :
    x.traps (.brw h d a b tryIt k) h GRANT_FAILED (wd (16 * d.toNat + n)) :=
  chain_traps hx rfl (by
    simp only [ht, need_true_bind, regFault_none hf, ok_bind, hva, decide_true, (lenOk_iff _).2 hlen, hg, hn, h0, decide_false,
      need_false_bind])

/-- A range that no reason turns away is requested. -/
theorem brw_requests {ia : Nat} (hn : x.s.brwReason x.c (x.sreg a.toNat).toNat (x.sreg b.toNat).toNat k = (0, ia)) :
    let g := x.asked h d.toNat k (x.sreg a.toNat).toNat (x.sreg b.toNat).toNat ia
    x.does (.brw h d a b tryIt k) h
      (({ x.s with nextUid := x.s.nextUid + 2, grants := x.s.grants ++ [g] } : State).request x.g.die g.home x.w.uid
        (x.asks k (x.sreg b.toNat).toNat ia tryIt)) (awaitsSf x h) :=
  chain_does hx rfl (by
    simp only [ht, need_true_bind, regFault_none hf, ok_bind, hva, decide_true, (lenOk_iff _).2 hlen, hg, hn]
    rw [← awaitsSf_test]; rfl)

end

/-- A request at its own die enters the queue of arrivals there. -/
theorem request_own (s : State) {die home : Nat} (h : home = die) (w : Nat) (q : BReq) :
    s.request die home w q = s.setDie home { s.die home with incoming := (s.die home).incoming ++ [q] } := if_pos h

/-- A request to another die is a rein message. -/
theorem request_other (s : State) {die home : Nat} (h : home ≠ die) (w : Nat) (q : BReq) :
    s.request die home w q = s.sendRein die home w (.request q) := if_neg h

/-- Settles O29: each clause is the next check of BRW, and Table 7.6's reasons are those of `brwReason`, in their order. -/
theorem borrowWords : Obligations.BorrowWords := by
  intro x h d a b tryIt k hx i c va len lenOk
  refine ⟨brw_try hx, fun hnot => ?_⟩
  have ht : (!(tryIt && x.det)) = true := by obtain h | h := hnot <;> simp [h]
  refine ⟨fun f => brw_held hx ht, fun hf => ⟨brw_base hx ht hf, brw_len hx ht hf, fun hva hlen => ⟨fun g hg =>
    ⟨brw_returning hx ht hf hva hlen hg, brw_occupied hx ht hf hva hlen hg⟩, fun hg => ?_⟩⟩⟩
  have away {n : Nat} (hn : (x.s.brwReason x.c va len k).1 = n) (h0 : n ≠ 0) :
      x.traps i h GRANT_FAILED (wd (16 * c + n)) := brw_turned_away hx ht hf hva hlen hg hn h0
  refine ⟨fun hm => away (brwReason_unmapped hm) (by decide), fun m hm hk => away (brwReason_kind hm hk) (by decide),
    fun m hm hk => ?_, fun ia hia => ?_⟩
  · intro ia last cut slate gone hole
    have reason := brwReason_allowed (s := x.s) hm hk
    refine ⟨fun hcut => away (reason.trans (if_pos hcut)) (by decide), fun hcut => ?_⟩
    have later := reason.trans (if_neg (not_not.2 hcut))
    exact ⟨fun h4 => away (later.trans (if_pos h4)) (by decide),
      fun h4 h5 => away ((later.trans (if_neg h4)).trans (if_pos h5)) (by decide),
      fun h4 h5 h6 => away (((later.trans (if_neg h4)).trans (if_neg h5)).trans (if_pos h6)) (by decide)⟩
  · have done := brw_requests (h := h) hx ht hf hva hlen hg hia
    exact ⟨fun hown => request_own _ hown _ _ ▸ done, fun hother => request_other _ hother _ _ ▸ done⟩

end Sys2Proof.Borrow
end

section
/-! RBRW and SPLIT (R166, R167). -/

namespace Sys2Proof.Children

open Sys2Proof Sys2Proof.Machine Sys2Proof.Laws Sys2Proof.Regions

/-! A target register -/

/-- The code of a region register. -/
@[simp] theorem regRef_code (x : Iss) (code : Nat) : (x.regRef code).code = code := by unfold Iss.regRef; split <;> rfl

/-- A register that is EMPTY and holds no deferred fault is taken. -/
theorem emptyReg_vacant {x : Iss} {r : RegRef} (hv : x.vacant r) (w : Nat) : x.s.emptyReg r w = .ok () := by
  unfold State.emptyReg; rw [regFault_none hv.1]; simp only [hv.2]

/-- A register that is not EMPTY is not. -/
theorem emptyReg_occupied {s : State} {r : RegRef} {g : Grant} (hf : s.regFaults.find? (fun f => f.1 == r) = none)
    (hg : s.reg? r = some g) (w : Nat) : s.emptyReg r w = .error (.trap REGION_STATE (stateInfo r.code g.st.code w)) := by
  unfold State.emptyReg; rw [regFault_none hf]; simp only [hg]

/-- The child that `Grant.child` makes is one of its parent. -/
theorem childOf_child (p : Grant) (gid : Nat) (r : RegRef) (k : Kind) (off_ len pwave : Nat) :
    ChildOf p (p.child gid r k off_ len pwave) gid r k off_ len pwave :=
  { gid := rfl, reg := rfl, st := rfl, kind := rfl, ctx := rfl, va := rfl, ia := rfl, len := rfl, children := rfl,
    parent := rfl, home := rfl, derive := rfl, bytes := ⟨rfl, rfl⟩ }

/-! RBRW, check by check -/

/-- The states from which a parent of kind X may lend (R166). -/
def Lends (p : Grant) (k : Kind) : Prop := p.st = .held ∨ (k = .s ∧ p.st = .frozen)

/-- A parent of kind X that may lend passes the check of its register. -/
theorem usable_lends {x : Iss} {code : Nat} {p : Grant} (hn : x.names code p) {k : Kind} (hl : Lends p k)
    (hx : p.kind = .x) (op : Nat) : x.usable code (k == .s) [.x] op = .ok p := by
  have hk : [Kind.x].contains p.kind = true := by rw [hx]; rfl
  obtain hst | ⟨rfl, hst⟩ := hl
  · exact usable_holds ⟨hn, hst⟩ hk _ _
  · exact usable_reads ⟨hn, .inr hst⟩ hk _

section
variable {x : Iss} {h : Hd} {d a : GCode} {b : SReg} {k : Kind} {p : Grant} (hx : x.live)
variable (hn : x.names a.toNat p) (hf : x.unfaulted d.toNat)
include hx hn hf

/-- A HELD parent of another kind than X traps. -/
theorem rbrw_kind (hst : p.st = .held) (hkind : p.kind ≠ .x) :
    x.traps (.rbrw h d a b k) h REFUSED_KIND (wd (a.toNat + 32 * kindNum p.kind + 256 * 6)) :=
  chain_traps hx rfl (by
    simp only [regFault_ok hn, regFault_none hf, ok_bind, usable_kind ⟨hn, hst⟩ (kinds := [.x]) (by simpa using hkind),
      error_bind])

variable (hl : Lends p k) (hkind : p.kind = .x)
include hl hkind

/-- The offset is a multiple of 256. -/
theorem rbrw_off (hoff : (x.sreg b.toNat).toNat % 256 ≠ 0) :
    x.traps (.rbrw h d a b k) h MISALIGNED (wd (16 * d.toNat + 1)) :=
  chain_traps hx rfl (by
    simp only [regFault_ok hn, regFault_none hf, usable_lends hn hl hkind, ok_bind, hoff, decide_false, need_false_bind])

variable (hoff : (x.sreg b.toNat).toNat % 256 = 0)
include hoff

/-- The length is a multiple of 256 and not 0. -/
theorem rbrw_len (hlen : (x.sreg (b.toNat + 1)).toNat = 0 ∨ (x.sreg (b.toNat + 1)).toNat % 256 ≠ 0) :
    x.traps (.rbrw h d a b k) h MISALIGNED (wd (16 * d.toNat + 2)) :=
  chain_traps hx rfl (by
    have hbad : ((x.sreg (b.toNat + 1)).toNat != 0 && decide ((x.sreg (b.toNat + 1)).toNat % 256 = 0)) = false := by
      obtain h0 | h0 := hlen <;> simp [h0]
    simp only [regFault_ok hn, regFault_none hf, usable_lends hn hl hkind, ok_bind, hoff, decide_true, need_true_bind,
      hbad, need_false_bind])

variable (hlen : ((x.sreg (b.toNat + 1)).toNat != 0 && decide ((x.sreg (b.toNat + 1)).toNat % 256 = 0)) = true)
include hlen

/-- The child lies in its parent. -/
theorem rbrw_bounds (hout : p.len < (x.sreg b.toNat).toNat + (x.sreg (b.toNat + 1)).toNat) :
    x.traps (.rbrw h d a b k) h REFUSED_BOUNDS (laneInfo a.toNat 0 0 (x.sreg b.toNat).toNat) :=
  chain_traps hx rfl (by
    simp only [regFault_ok hn, regFault_none hf, usable_lends hn hl hkind, ok_bind, hoff, decide_true, need_true_bind,
      hlen, Nat.not_le.2 hout, decide_false, need_false_bind])

variable (hin : (x.sreg b.toNat).toNat + (x.sreg (b.toNat + 1)).toNat ≤ p.len)
include hin

/-- The target register is EMPTY. -/
theorem rbrw_occupied {g : Grant} (hg : x.s.reg? (x.regRef d.toNat) = some g) :
    x.traps (.rbrw h d a b k) h REGION_STATE (wd (d.toNat + 32 * g.st.code)) :=
  chain_traps hx rfl (by
    simp only [regFault_ok hn, regFault_none hf, usable_lends hn hl hkind, ok_bind, hoff, decide_true, need_true_bind,
      hlen, hin, emptyReg_occupied hf hg, regRef_code, error_bind]
    rfl)

/-- A child that passes every check waits in its register, and its parent counts it. -/
theorem rbrw_lends (hg : x.s.reg? (x.regRef d.toNat) = none) :
    x.does (.rbrw h d a b k) h
      { x.s with
        nextUid := x.s.nextUid + 1
        grants := (x.s.setGrant { p with st := if k = .s then .frozen else .lent, children := p.children + 1 }).grants ++
          [p.child x.s.nextUid (x.regRef d.toNat) k (x.sreg b.toNat).toNat (x.sreg (b.toNat + 1)).toNat (x.widx a.toNat)] } x.w :=
  chain_does hx rfl (by
    simp only [regFault_ok hn, regFault_none hf, usable_lends hn hl hkind, ok_bind, hoff, decide_true, need_true_bind,
      hlen, hin, emptyReg_vacant ⟨hf, hg⟩, beq_iff_eq]
    rfl)

end

/-! The targets of SPLIT -/

/-- The target of part `j`: register d + j of the issuing wave, or register d of wave j of the group (R167). -/
def TargetOf (x : Iss) (d : Nat) (toRegs : Bool) (j : Nat) (r : RegRef) : Prop :=
  if toRegs then r = x.regRef (d + j)
  else ∃ w, x.s.waveAt? x.g.uid j = some w ∧ r = { grp := false, owner := w.uid, code := d }

/-- A target that is EMPTY is taken. -/
theorem splitTarget_ok {x : Iss} {d j : Nat} {toRegs : Bool} {r : RegRef} (ht : TargetOf x d toRegs j r) (hv : x.vacant r) :
    x.splitTarget d j toRegs = .ok r := by
  unfold Iss.splitTarget
  cases toRegs with
  | true =>
    obtain rfl : r = x.regRef (d + j) := ht
    simp only [if_true, emptyReg_vacant hv, ok_bind]
  | false =>
    obtain ⟨w, hw, rfl⟩ := ht
    simp only [Bool.false_eq_true, if_false, hw, emptyReg_vacant hv, ok_bind]

/-- A chain over a list, of which every step passes. -/
theorem mapM_ok {α β : Type} {f : α → Chk β} {g : α → β} {l : List α} (hf : ∀ a ∈ l, f a = .ok (g a)) :
    l.mapM f = .ok (l.map g) := by
  induction l with
  | nil => rfl
  | cons a l ih =>
    rw [List.mapM_cons, hf a (by simp), ih fun b hb => hf b (by simp [hb])]; rfl

/-- The targets of all parts. -/
theorem splitTargets_ok {x : Iss} {d n : Nat} {toRegs : Bool} {tgt : Nat → RegRef}
    (ht : ∀ j < n, TargetOf x d toRegs j (tgt j)) (hv : ∀ j < n, x.vacant (tgt j)) :
    ((List.range n).mapM fun j => x.splitTarget d j toRegs) = .ok ((List.range n).map tgt) :=
  mapM_ok fun j hj => splitTarget_ok (ht j (List.mem_range.1 hj)) (hv j (List.mem_range.1 hj))

/-! The children of SPLIT -/

/-- The children for a list of targets: the first is part `i`, of name `uid`. -/
def parts (p : Grant) (len pwave : Nat) : List RegRef → Nat → Nat → List Grant
  | [], _, _ => []
  | r :: rs, i, uid => p.child uid r .x (i * len) len pwave :: parts p len pwave rs (i + 1) (uid + 1)

/-- There is one child for each target. -/
@[simp] theorem length_parts (p : Grant) (len pwave : Nat) (rs : List RegRef) (i uid : Nat) :
    (parts p len pwave rs i uid).length = rs.length := by
  induction rs generalizing i uid with
  | nil => rfl
  | cons r rs ih => simp [parts, ih]

/-- The `j`-th child. -/
theorem parts_getElem? (p : Grant) (len pwave : Nat) (rs : List RegRef) (i uid j : Nat) :
    (parts p len pwave rs i uid)[j]? = rs[j]?.map fun r => p.child (uid + j) r .x ((i + j) * len) len pwave := by
  induction rs generalizing i uid j with
  | nil => rfl
  | cons r rs ih =>
    cases j with
    | zero => rfl
    | succ j =>
      rw [parts, List.getElem?_cons_succ, List.getElem?_cons_succ, ih, Nat.add_right_comm uid, Nat.add_right_comm i]; rfl

/-- SPLIT adds its children to the grants and takes a name for each. -/
theorem addChildren_eq (p : Grant) (len pwave : Nat) (rs : List RegRef) (i : Nat) (s : State) :
    addChildren p len pwave rs i s =
      { s with nextUid := s.nextUid + rs.length, grants := s.grants ++ parts p len pwave rs i s.nextUid } := by
  induction rs generalizing i s with
  | nil => simp [addChildren, parts]
  | cons r rs ih => simp [addChildren, parts, ih, State.fresh, Nat.add_assoc, Nat.add_comm 1]

/-! SPLIT, check by check -/

section
variable {x : Iss} {h : Hd} {d a : GCode} {toRegs : Bool} {k : BitVec 6} {p : Grant} (hx : x.live) (hn : x.names a.toNat p)

section
include hn

/-- A HELD source of kind X passes. -/
theorem splitSource_ok (hst : p.st = .held) (hkind : p.kind = .x) : x.splitSource a.toNat d.toNat toRegs = .ok p := by
  unfold Iss.splitSource
  rw [usable_holds ⟨hn, hst⟩ (by rw [hkind]; rfl)]

/-- A WAITING source makes SPLIT wait. -/
theorem splitSource_waiting (hst : p.st = .waiting) : x.splitSource a.toNat d.toNat toRegs = .error .wait := by
  unfold Iss.splitSource; rw [usable_waiting hn hst]

/-- The trap of a source that is not HELD names the wave of the first target. -/
theorem splitSource_state (hst : p.st ≠ .held) (hw : p.st ≠ .waiting) : x.splitSource a.toNat d.toNat toRegs =
    .error (.trap REGION_STATE (wd (a.toNat + 32 * p.st.code + if toRegs then 8192 * (x.widx d.toNat % 512) else 0))) := by
  unfold Iss.splitSource
  rw [usable_state hn hw hst fun _ => rfl]
  cases toRegs with
  | true =>
    simp only [Bool.true_and, beq_self_eq_true, if_true]
    exact congrArg (fun n => Except.error (Eff.trap REGION_STATE n)) (BitVec.ofNat_add ..).symm
  | false => rfl

/-- A source of another kind than X traps. -/
theorem splitSource_kind (hst : p.st = .held) (hkind : p.kind ≠ .x) : x.splitSource a.toNat d.toNat toRegs =
    .error (.trap REFUSED_KIND (wd (a.toNat + 32 * kindNum p.kind + 256 * 6))) := by
  unfold Iss.splitSource
  rw [usable_kind ⟨hn, hst⟩ (by simpa using hkind)]
  cases toRegs <;> rfl

end

include hx hn

variable (hst : p.st = .held) (hkind : p.kind = .x)
include hst hkind

/-- The length divides into parts of a multiple of 256. -/
theorem split_len (hlen : p.len % (256 * k.toNat) ≠ 0) :
    x.traps (.split h d a toRegs k) h MISALIGNED (wd (16 * a.toNat + 2)) :=
  chain_traps hx rfl (by simp only [splitSource_ok hn hst hkind, ok_bind, hlen, decide_false, need_false_bind])

variable (hlen : p.len % (256 * k.toNat) = 0)
include hlen

/-- A first target wave that there is not traps. -/
theorem split_noWave (hk : 0 < k.toNat) (hto : toRegs = false) (hw : x.s.waveAt? x.g.uid 0 = none) :
    x.traps (.split h d a toRegs k) h REGION_STATE (wd (d.toNat + 32 * 7)) :=
  chain_traps hx rfl (by
    have hfirst : x.splitTarget d.toNat 0 toRegs = .error (.trap REGION_STATE (wd (d.toNat + 32 * 7))) := by
      unfold Iss.splitTarget; rw [hto]; simp only [Bool.false_eq_true, if_false, hw]; rfl
    obtain ⟨n, hn'⟩ : ∃ n, k.toNat = n + 1 := ⟨k.toNat - 1, by omega⟩
    simp only [splitSource_ok hn hst hkind, ok_bind, hlen, decide_true, need_true_bind]
    simp only [hn', List.range_succ_eq_map, List.mapM_cons, hfirst, error_bind])

/-- SPLIT over EMPTY targets makes the source LENT, with a child for each target. -/
theorem split_divides {tgt : Nat → RegRef} (ht : ∀ j < k.toNat, TargetOf x d.toNat toRegs j (tgt j))
    (hv : ∀ j < k.toNat, x.vacant (tgt j)) :
    x.does (.split h d a toRegs k) h
      { x.s with
        nextUid := x.s.nextUid + k.toNat
        grants := (x.s.setGrant { p with st := .lent, children := k.toNat }).grants ++
          parts p (p.len / k.toNat) (x.widx a.toNat) ((List.range k.toNat).map tgt) 0 x.s.nextUid } x.w :=
  chain_does hx rfl (by
    simp only [splitSource_ok hn hst hkind, ok_bind, hlen, decide_true, need_true_bind, splitTargets_ok ht hv, addChildren_eq,
      List.length_map, List.length_range]
    rfl)

end

/-- Settles O30: each clause is the next check of RBRW or of SPLIT, whose children are those of `parts`. -/
theorem childWords : Obligations.ChildWords := by
  intro x h d a p hx hn
  refine ⟨fun b k => ?_, fun toRegs k => ⟨fun hst => ?_, fun hst hw => ?_, fun hst hkind => ?_⟩,
    fun toRegs k tgt hst hkind => ⟨split_len hx hn hst hkind, fun hlen ht hv => ?_, split_noWave hx hn hst hkind⟩⟩
  · intro i off_ len hf
    refine ⟨fun hst => rbrw_kind hx hn hf hst.1 hst.2, fun hl hkind => ⟨rbrw_off hx hn hf hl hkind,
      rbrw_len hx hn hf hl hkind, fun hoff h0 h256 => ?_⟩⟩
    have hlen : (len != 0 && decide (len % 256 = 0)) = true := by simp [h0, h256]
    exact ⟨rbrw_bounds hx hn hf hl hkind hoff hlen, fun hin g => rbrw_occupied hx hn hf hl hkind hoff hlen hin,
      fun hin hg => ⟨_, childOf_child .., rbrw_lends hx hn hf hl hkind hoff hlen hin hg⟩⟩
  · exact chain_waits hx rfl (by simp only [splitSource_waiting hn hst, error_bind])
  · exact chain_traps hx rfl (by simp only [splitSource_state hn hst hw, error_bind])
  · exact chain_traps hx rfl (by simp only [splitSource_kind hn hst hkind, error_bind])
  · refine ⟨parts p (p.len / k.toNat) (x.widx a.toNat) ((List.range k.toNat).map tgt) 0 x.s.nextUid, by simp, fun j c hc => ?_,
      split_divides hx hn hst hkind hlen ht hv⟩
    rw [parts_getElem?, Option.map_eq_some_iff] at hc
    obtain ⟨r, hr, rfl⟩ := hc
    obtain ⟨hj, rfl⟩ := List.getElem?_eq_some_iff.1 hr
    simp only [List.getElem_map, List.getElem_range, Nat.zero_add]
    exact childOf_child ..

end Sys2Proof.Children
end

section
/-! A grant that is replaced, and the tag that it is given (R144, R159). -/

namespace Sys2Proof.Regions

open Sys2Proof Sys2Proof.Machine Sys2Proof.Laws Sys2Proof.Waves

/-! Grants by their names -/

/-- An element that is found by its name is replaced by one of that name. -/
theorem find?_replace_same {α : Type} (key : α → Nat) {a b : α} {l : List α} (h : l.find? (key · == key a) = some b) :
    (replace (key · == key a) a l).find? (key · == key a) = some a := by
  induction l with
  | nil => simp at h
  | cons c r ih =>
    by_cases hc : key c = key a
    · simp [replace, hc]
    · simpa [replace, hc] using ih (by simpa [hc] using h)

/-- An element of another name is found as before. -/
theorem find?_replace_ne {α : Type} (key : α → Nat) {a : α} {n : Nat} (hn : n ≠ key a) (l : List α) :
    (replace (key · == key a) a l).find? (key · == n) = l.find? (key · == n) := by
  induction l with
  | nil => rfl
  | cons c r ih =>
    by_cases hc : key c = key a
    · simpa [replace, hc, Ne.symm hn] using ih
    · by_cases hcn : key c = n
      · simp [replace, hcn, hn]
      · simpa [replace, hc, hcn] using ih

/-- Of two replacements by one name the second stands. -/
theorem replace_replace {α : Type} (key : α → Nat) {a b : α} (h : key b = key a) (l : List α) :
    replace (key · == key b) b (replace (key · == key a) a l) = replace (key · == key a) b l := by
  unfold replace
  rw [List.map_map]
  refine List.map_congr_left fun c _ => ?_
  by_cases hc : key c = key a <;> simp [hc, h]

/-- A grant that exists is read back once it is replaced. -/
theorem grant?_setGrant_same {s : State} {g g0 : Grant} (h : s.grant? g.gid = some g0) : (s.setGrant g).grant? g.gid = some g :=
  find?_replace_same Grant.gid h

/-- A grant of another name is kept. -/
theorem grant?_setGrant_ne (s : State) (g : Grant) {n : Nat} (h : n ≠ g.gid) : (s.setGrant g).grant? n = s.grant? n :=
  find?_replace_ne Grant.gid h s.grants

/-- Of two grants of one name that are put into a state the second stands. -/
theorem setGrant_setGrant (s : State) {g g' : Grant} (h : g'.gid = g.gid) : (s.setGrant g).setGrant g' = s.setGrant g' := by
  unfold State.setGrant
  dsimp only
  rw [replace_replace Grant.gid h]
  simp only [h]

/-! Fresh tags -/

/-- `t` is `s` with other bytes in its caches: nothing else of a die has changed. -/
structure CachesOnly (s t : State) : Prop where
  rest : t = { s with cores := t.cores, dies := t.dies }
  count : t.dies.length = s.dies.length
  dies : ∀ d, t.die d = { s.die d with l2 := (t.die d).l2 }

theorem CachesOnly.refl (s : State) : CachesOnly s s := ⟨rfl, rfl, fun _ => rfl⟩

theorem CachesOnly.trans {s t u : State} (h : CachesOnly s t) (k : CachesOnly t u) : CachesOnly s u :=
  ⟨by rw [k.rest, h.rest], k.count.trans h.count, fun d => by rw [k.dies d, h.dies d]⟩

theorem CachesOnly.foldl {α : Type} {f : State → α → State} (hf : ∀ s a, CachesOnly s (f s a)) (l : List α) (s : State) :
    CachesOnly s (l.foldl f s) := by
  induction l generalizing s with
  | nil => exact .refl s
  | cons a r ih => exact (hf s a).trans (ih _)

theorem CachesOnly.setCore (s : State) (i : Nat) (c : Core) : CachesOnly s (s.setCore i c) := ⟨rfl, rfl, fun _ => rfl⟩

theorem CachesOnly.setL2 (s : State) (die sector : Nat) (l : List CSec) : CachesOnly s (s.setL2 die sector l) := by
  refine ⟨rfl, List.length_set, fun d => ?_⟩
  rw [State.setL2, die_setDie]
  split
  case isTrue h => rw [h.1]
  case isFalse => rfl

theorem CachesOnly.flushL1 (s : State) (die sector tag ia len : Nat) : CachesOnly s (s.flushL1 die sector tag ia len) := by
  refine .foldl (fun s i => ?_) _ s
  dsimp only
  split
  · exact .refl s
  · exact (setCore _ _ _).trans (.foldl (fun s c => setL2 _ _ _ _) _ _)

theorem CachesOnly.carry (s : State) (die sector : Nat) (old : List Nat) (new ia len : Nat) :
    CachesOnly s (s.carry die sector old new ia len) := .setL2 ..

/-- What a fresh tag changes of a state: caches, and the next tag and the sweeps of one sector. -/
structure Tagged (s t : State) (at_ : Nat × Nat) : Prop where
  rest : t = { s with cores := t.cores, dies := t.dies }
  count : t.dies.length = s.dies.length
  dies : ∀ d, t.die d = { s.die d with l2 := (t.die d).l2, tags := (t.die d).tags, sweeping := (t.die d).sweeping }
  tags : at_.1 < s.dies.length → (t.die at_.1).tags = (s.die at_.1).tags.set at_.2 ((s.tagNow at_ + 1) % 4096)
  sweeping : at_.1 < s.dies.length →
    (t.die at_.1).sweeping = (s.die at_.1).sweeping ++ [(at_.2, (s.tagNow at_ + 256) % 4096)]

/-- Caches change neither the next tags nor the sweeps. -/
theorem CachesOnly.tagNow {s t : State} (h : CachesOnly s t) (at_ : Nat × Nat) : t.tagNow at_ = s.tagNow at_ := by
  unfold State.tagNow; rw [h.dies]

theorem CachesOnly.sweeping {s t : State} (h : CachesOnly s t) (d : Nat) : (t.die d).sweeping = (s.die d).sweeping := by
  rw [h.dies]

/-- A sector whose next tag is swept gives it out. -/
theorem freshTag?_ready {s : State} {at_ : Nat × Nat} (h : s.tagReady at_) :
    ∃ t, s.freshTag? at_.1 at_.2 = some (t, s.tagNow at_) ∧ Tagged s t at_ := by
  have hfree : (s.die at_.1).sweeping.contains (at_.2, (s.die at_.1).tags.getD at_.2 0) = false := by
    simpa [State.tagReady, State.tagNow] using h
  refine ⟨_, by rw [State.freshTag?, hfree]; rfl, rfl, List.length_set, fun d => ?_, fun hd => ?_, fun hd => ?_⟩
  · rw [die_setDie]
    split
    case isTrue h => rw [h.1]
    case isFalse => rfl
  · rw [die_setDie, if_pos ⟨rfl, hd⟩]; rfl
  · rw [die_setDie, if_pos ⟨rfl, hd⟩]; rfl

/-- A range is given the next tag of its sector once that is swept. -/
theorem newTag?_ready {s : State} {at_ : Nat × Nat} (h : s.tagReady at_) (old : List Nat) (ia len : Nat) :
    ∃ t, s.newTag? at_.1 at_.2 old ia len = some (t, s.tagNow at_) ∧ Tagged s t at_ := by
  have hflush : CachesOnly s (old.foldl (fun s o => s.flushL1 at_.1 at_.2 o ia len) s) :=
    .foldl (fun s o => .flushL1 s ..) old s
  obtain ⟨t, ht, htag⟩ := freshTag?_ready (s := old.foldl (fun s o => s.flushL1 at_.1 at_.2 o ia len) s) (at_ := at_)
    (by unfold State.tagReady; rw [hflush.tagNow, hflush.sweeping]; exact h)
  rw [hflush.tagNow] at ht
  have hcarry := CachesOnly.carry t at_.1 at_.2 old (s.tagNow at_) ia len
  refine ⟨_, by rw [State.newTag?, ht]; rfl, ?_⟩
  exact
    { rest := by rw [hcarry.rest, htag.rest, hflush.rest]
      count := hcarry.count.trans (htag.count.trans hflush.count)
      dies := fun d => by rw [hcarry.dies, htag.dies, hflush.dies]
      tags := fun hd => by rw [hcarry.dies, ← hflush.tagNow, htag.tags (hflush.count ▸ hd), hflush.dies]
      sweeping := fun hd => by
        rw [hcarry.sweeping, ← hflush.tagNow, htag.sweeping (hflush.count ▸ hd), hflush.sweeping] }

/-- While its next tag is swept a sector gives out none. -/
theorem newTag?_notReady {s : State} {at_ : Nat × Nat} (h : ¬ s.tagReady at_) (old : List Nat) (ia len : Nat) :
    s.newTag? at_.1 at_.2 old ia len = none := by
  have hflush : CachesOnly s (old.foldl (fun s o => s.flushL1 at_.1 at_.2 o ia len) s) :=
    .foldl (fun s o => .flushL1 s ..) old s
  have hbusy : (at_.2, s.tagNow at_) ∈ (s.die at_.1).sweeping := by simpa [State.tagReady] using h
  rw [← hflush.tagNow, ← hflush.sweeping] at hbusy
  have hnone : (old.foldl (fun s o => s.flushL1 at_.1 at_.2 o ia len) s).freshTag? at_.1 at_.2 = none :=
    if_pos (List.contains_iff_mem.2 hbusy)
  rw [State.newTag?, hnone]; rfl

end Sys2Proof.Regions
end

section
/-! JOIN, RTN and RGMV (R168 to R170). -/

namespace Sys2Proof.Returning

open Sys2Proof Sys2Proof.Machine Sys2Proof.Laws Sys2Proof.Regions

/-! A register that holds a deferred fault, and one that is EMPTY -/

section
variable {x : Iss} {h : Hd} {a : GCode} (hx : x.live)
include hx

theorem join_fault {f : FaultRec} (hf : x.s.regFaults.find? (fun f => f.1 == x.regRef a.toNat) = some (x.regRef a.toNat, f)) :
    x.trapsHeld (.join h a) h a.toNat f :=
  chain_trapsHeld hx rfl (by simp only [regFault_some hf, error_bind])

theorem rtn_fault {f : FaultRec} (hf : x.s.regFaults.find? (fun f => f.1 == x.regRef a.toNat) = some (x.regRef a.toNat, f)) :
    x.trapsHeld (.rtn h a) h a.toNat f :=
  chain_trapsHeld hx rfl (by simp only [regFault_some hf, error_bind])

theorem join_empty (hv : x.vacant (x.regRef a.toNat)) : x.traps (.join h a) h REGION_STATE (wd a.toNat) :=
  chain_traps hx rfl (by simp only [regFault_none hv.1, ok_bind, hv.2]; rfl)

theorem rtn_empty (hv : x.vacant (x.regRef a.toNat)) : x.does (.rtn h a) h x.s x.w :=
  chain_does hx rfl (by simp only [regFault_none hv.1, ok_bind, hv.2])

end

/-! JOIN, state by state -/

section
variable {x : Iss} {h : Hd} {a : GCode} {g : Grant} (hx : x.live) (hn : x.names a.toNat g)
include hx hn

/-- A RETURNING register traps. -/
theorem join_returning (hst : g.st = .returning) : x.traps (.join h a) h REGION_STATE (wd (a.toNat + 32 * 5)) :=
  chain_traps hx rfl (by simp only [regFault_ok hn, ok_bind, hn.2, hst]; rfl)

/-- A WAITING register and one with children make JOIN wait. -/
theorem join_waits (hst : g.st = .waiting ∨ (g.st ≠ .returning ∧ g.children ≠ 0)) : x.waits (.join h a) h :=
  chain_waits hx rfl (by
    have hret : (g.st == .returning) = false := by obtain h | h := hst <;> simp [h]
    have hwait : (g.st == .waiting || g.children != 0) = true := by obtain h | h := hst <;> simp [h]
    simp only [regFault_ok hn, ok_bind, hn.2, hret, hwait, Bool.false_eq_true, if_false, if_true])

/-- A register that is HELD or FROZEN without children stays as it is. -/
theorem join_done (hst : g.st = .held ∨ g.st = .frozen) (hc : g.children = 0) : x.does (.join h a) h x.s x.w :=
  chain_does hx rfl (by obtain h | h := hst <;> (simp only [regFault_ok hn, ok_bind, hn.2, h, hc]; rfl))

variable (hst : g.st = .lent) (hc : g.children = 0)
include hst hc

/-- A LENT register whose children are back waits for a tag. -/
theorem join_untagged (ht : ¬ x.s.tagReady (x.s.holderAt (x.regRef a.toNat))) : x.waits (.join h a) h :=
  chain_waits hx rfl (by
    simp only [regFault_ok hn, ok_bind, hn.2, newTag?_notReady ht]
    rw [hst, hc]; rfl)

/-- With its tag it becomes HELD. -/
theorem join_held {t : State} {n : Nat} (ht : x.s.newTag? (x.s.holderAt (x.regRef a.toNat)).1 (x.s.holderAt (x.regRef a.toNat)).2
    [g.tag] g.ia g.len = some (t, n)) : x.does (.join h a) h (t.setGrant { g with st := .held, tag := n }) x.w :=
  chain_does hx rfl (by
    simp only [regFault_ok hn, ok_bind, hn.2, ht]
    simp only [hst, hc]; rfl)

end

/-! RTN, state by state -/

/-- The return of a HELD grant begins. -/
theorem beginReturn_held {s : State} {g : Grant} (h : s.grant? g.gid = some g) (hst : g.st = .held) :
    s.beginReturn g.gid = s.setGrant { g with st := .returning } := by
  unfold State.beginReturn; simp only [h, hst]

/-- So does that of a grant under way by RGMV. -/
theorem beginReturn_moved {s : State} {g : Grant} (h : s.grant? g.gid = some g) (hst : g.st = .waiting) {fresh : Bool}
    (hd : g.derive = some (.moved fresh)) : s.beginReturn g.gid = s.setGrant { g with st := .returning, derive := none } := by
  unfold State.beginReturn; simp only [h, hst, hd]

/-- A WAITING request is withdrawn. -/
theorem beginReturn_waiting {s : State} {g : Grant} (h : s.grant? g.gid = some g) (hst : g.st = .waiting)
    (hd : ∀ fresh, g.derive ≠ some (.moved fresh)) : s.beginReturn g.gid =
      (s.withdraw g.gid).setGrant { g with st := .returning, derive := none, returned := g.entry.isNone } := by
  unfold State.beginReturn; simp only [h, hst]

/-- What a wave loses with the grant that it awaited: the pending write of sf. -/
def dropSf (gid : Nat) (w : Wave) : Wave := { w with vpend := w.vpend.filter fun v => !(v.id == gid) }

/-- RTN's change of a wave: of a WAITING grant, the pending write of sf. -/
def rtnDrop (g : Grant) (w : Wave) : Wave := { w with vpend := w.vpend.filter fun v => !(g.st == .waiting && v.id == g.gid) }

/-- A grant that does not wait takes nothing from a wave. -/
theorem rtnDrop_id {g : Grant} (hst : g.st ≠ .waiting) : rtnDrop g = id := by
  funext w
  simp [rtnDrop, beq_eq_false_iff_ne.2 hst]

/-- A grant that waits takes its write of sf. -/
theorem rtnDrop_waiting {g : Grant} (hst : g.st = .waiting) : rtnDrop g = dropSf g.gid := by
  funext w
  simp [rtnDrop, dropSf, hst]

section
variable {x : Iss} {h : Hd} {a : GCode} {g : Grant} (hx : x.live) (hn : x.names a.toNat g)
include hx hn

/-- RTN of a LENT or FROZEN register traps. -/
theorem rtn_lent (hst : g.st = .lent ∨ g.st = .frozen) : x.traps (.rtn h a) h REGION_STATE (wd (a.toNat + 32 * g.st.code)) :=
  chain_traps hx rfl (by
    have hlent : (g.st == .lent || g.st == .frozen) = true := by simpa using hst
    simp only [regFault_ok hn, ok_bind, hn.2, hlent, if_true]; rfl)

/-- RTN of a RETURNING register does nothing more. -/
theorem rtn_returning (hst : g.st = .returning) : x.does (.rtn h a) h x.s x.w := by
  have hdrop : rtnDrop g = id := rtnDrop_id (by rw [hst]; decide)
  have hdone : x.does (.rtn h a) h { x.s with waves := x.s.waves.map (rtnDrop g) } (rtnDrop g x.w) :=
    chain_does hx rfl (by
      have hlent : (g.st == .lent || g.st == .frozen) = false := by rw [hst]; rfl
      have hret : (g.st == .returning) = true := by rw [hst]; rfl
      simp only [regFault_ok hn, ok_bind, hn.2, hlent, hret, Bool.false_eq_true, if_false, if_true]; rfl)
  rwa [hdrop, List.map_id] at hdone

variable (hlent : (g.st == .lent || g.st == .frozen) = false) (hret : (g.st == .returning) = false)
include hlent hret

/-- Otherwise the return of the grant begins. -/
theorem rtn_begins : x.does (.rtn h a) h
    { (x.s.setGrant { g with by_ := x.w.uid }).beginReturn g.gid with
      waves := ((x.s.setGrant { g with by_ := x.w.uid }).beginReturn g.gid).waves.map (rtnDrop g) } (rtnDrop g x.w) :=
  chain_does hx rfl (by
    simp only [regFault_ok hn, ok_bind, hn.2, hlent, hret, Bool.false_eq_true, if_false]; rfl)

end

/-- No request of a grant is left once it is withdrawn. -/
theorem withdraw_gone (s : State) (gid : Nat) : (∀ q ∈ (s.withdraw gid).ebq, q.who ≠ .grant gid) ∧
    (∀ d ∈ (s.withdraw gid).dies, (∀ q ∈ d.bq, q.who ≠ .grant gid) ∧ (∀ q ∈ d.incoming, q.who ≠ .grant gid) ∧
      ∀ e ∈ d.answers, e.req.who ≠ .grant gid) ∧
    (∀ m ∈ (s.withdraw gid).reins, ∀ q, m.kind = .request q → q.who ≠ .grant gid) := by
  refine ⟨fun q hq => by simpa using (List.mem_filter.1 hq).2, fun d hd => ?_, fun m hm q hq => ?_⟩
  · obtain ⟨e, -, rfl⟩ := List.mem_map.1 hd
    exact ⟨fun q hq => by simpa using (List.mem_filter.1 hq).2, fun q hq => by simpa using (List.mem_filter.1 hq).2,
      fun q hq => by simpa using (List.mem_filter.1 hq).2⟩
  · have hkept := (List.mem_filter.1 hm).2
    simpa [hq] using hkept

/-! RGMV, state by state -/

/-- The target of RGMV: register d of the group, or of wave `n` of the group (R170). -/
def MoveTo (x : Iss) (d n : Nat) (t : RegRef) : Prop :=
  if 16 ≤ d then t = x.regRef d else ∃ w, x.s.waveAt? x.g.uid n = some w ∧ t = { grp := false, owner := w.uid, code := d }

/-- The target that RGMV finds. -/
theorem rgmvTarget_ok {x : Iss} {d n : Nat} {t : RegRef} (ht : MoveTo x d n t) : x.rgmvTarget d n = .ok t := by
  unfold MoveTo at ht
  unfold Iss.rgmvTarget
  split
  case isTrue h => rw [if_pos h] at ht; rw [ht]
  case isFalse h =>
    rw [if_neg h] at ht
    obtain ⟨w, hw, rfl⟩ := ht
    rw [hw]

/-- Two wave registers lie on one core. -/
def sameCore (x : Iss) (r t : RegRef) : Bool := !r.grp && !t.grp && (x.s.wave? t.owner).any fun v => v.core == x.w.core

/-- What `sameCore` says. -/
theorem sameCore_iff (x : Iss) (r t : RegRef) : sameCore x r t = true ↔
    r.grp = false ∧ t.grp = false ∧ ∃ v, x.s.wave? t.owner = some v ∧ v.core = x.w.core := by
  simp [sameCore, Option.any_eq_true, and_assoc]

section
variable {x : Iss} {h : Hd} {d a : GCode} {b : SReg} {g : Grant} (hx : x.live) (hn : x.names a.toNat g)

/-- The wave index that RGMV names: 0 for a register of the group. -/
def moveWave (x : Iss) (d : GCode) (b : SReg) : Nat := if d.toNat < 16 then (x.sreg b.toNat).toNat else 0

include hx hn

/-- A WAITING source makes RGMV wait. -/
theorem rgmv_waits (hst : g.st = .waiting) : x.waits (.rgmv h d a b) h :=
  chain_waits hx rfl (by simp only [regFault_ok hn, ok_bind, hn.2, hst]; rfl)

/-- A source that is not HELD, or has children, traps. -/
theorem rgmv_state (hw : g.st ≠ .waiting) (hst : g.st ≠ .held ∨ g.children ≠ 0) : x.traps (.rgmv h d a b) h REGION_STATE
    (wd (a.toNat + 32 * g.st.code + 8192 * (moveWave x d b % 512))) :=
  chain_traps hx rfl (by
    have hbad : (g.st != .held || g.children != 0) = true := by simpa using hst
    simp only [regFault_ok hn, ok_bind, hn.2, beq_eq_false_iff_ne.2 hw, hbad, Bool.false_eq_true, if_false, if_true]; rfl)

variable (hst : g.st = .held) (hc : g.children = 0)
include hst hc

/-- A target wave that there is not traps. -/
theorem rgmv_noWave (hd : d.toNat < 16) (hw : x.s.waveAt? x.g.uid (moveWave x d b) = none) :
    x.traps (.rgmv h d a b) h REGION_STATE (wd (d.toNat + 32 * 7 + 8192 * (moveWave x d b % 512))) :=
  chain_traps hx rfl (by
    have htgt : x.rgmvTarget d.toNat (moveWave x d b) =
        .error (.trap REGION_STATE (wd (d.toNat + 32 * 7 + 8192 * (moveWave x d b % 512)))) := by
      unfold Iss.rgmvTarget; rw [if_neg (Nat.not_le.2 hd), hw]; rfl
    simp only [regFault_ok hn, ok_bind, hn.2]
    simp only [moveWave] at htgt ⊢
    simp only [hst, hc, htgt]; rfl)

/-- An EMPTY target awaits the grant. -/
theorem rgmv_moves {t : RegRef} (ht : MoveTo x d.toNat (moveWave x d b) t) (hv : x.vacant t) :
    x.does (.rgmv h d a b) h (x.s.setGrant { g with
      reg := t, st := .waiting, derive := some (.moved !sameCore x (x.regRef a.toNat) t) }) x.w :=
  chain_does hx rfl (by
    have htgt := rgmvTarget_ok ht
    have hempty := Children.emptyReg_vacant hv (moveWave x d b)
    simp only [regFault_ok hn, ok_bind, hn.2]
    simp only [moveWave] at htgt hempty
    simp only [hst, hc, htgt, hempty, ok_bind]; rfl)

end

/-! The obligation -/

/-- A request that is withdrawn: its grant is RETURNING, its write of sf is dropped, and no queue holds it. -/
theorem rtn_withdraws {x : Iss} {h : Hd} {a : GCode} {g : Grant} (hx : x.live) (hn : x.names a.toNat g) (hst : g.st = .waiting)
    (hg : x.s.grant? g.gid = some g) (hd : ∀ fresh, g.derive ≠ some (.moved fresh)) : ∃ t : State,
      x.does (.rtn h a) h t (dropSf g.gid x.w) ∧
      t.grants = (x.s.setGrant { g with st := .returning, derive := none, by_ := x.w.uid, returned := g.entry.isNone }).grants ∧
      t.waves = x.s.waves.map (dropSf g.gid) ∧ (∀ q ∈ t.ebq, q.who ≠ .grant g.gid) ∧
      (∀ d ∈ t.dies, (∀ q ∈ d.bq, q.who ≠ .grant g.gid) ∧ (∀ q ∈ d.incoming, q.who ≠ .grant g.gid) ∧
        ∀ e ∈ d.answers, e.req.who ≠ .grant g.gid) ∧
      (∀ m ∈ t.reins, ∀ q, m.kind = .request q → q.who ≠ .grant g.gid) := by
  have hbegins := rtn_begins (h := h) hx hn (by rw [hst]; rfl) (by rw [hst]; rfl)
  rw [beginReturn_waiting (g := { g with by_ := x.w.uid }) (grant?_setGrant_same (g := { g with by_ := x.w.uid }) hg) hst hd,
    rtnDrop_waiting hst] at hbegins
  refine ⟨_, hbegins, ?_, rfl, withdraw_gone (x.s.setGrant { g with by_ := x.w.uid }) g.gid⟩
  show ((x.s.setGrant { g with by_ := x.w.uid }).setGrant _).grants = _
  rw [setGrant_setGrant _ (by rfl)]

/-- Settles O31: each clause is a state of the register, and the withdrawal leaves no request of the grant in any queue. -/
theorem joinReturnMove : Obligations.JoinReturnMove := by
  intro x h a hx c r
  refine ⟨fun f hf => ⟨join_fault hx hf, rtn_fault hx hf⟩, fun hv => ⟨join_empty hx hv, rtn_empty hx hv⟩, fun g hn =>
    ⟨join_returning hx hn, join_waits hx hn, join_done hx hn, fun hst hc => ⟨join_untagged hx hn hst hc, fun ht => ?_⟩,
      rtn_lent hx hn, fun hst hg => ?_, fun hst _ => rtn_returning hx hn hst,
      fun hst hg => ⟨fun hm => ?_, rtn_withdraws hx hn hst hg⟩,
      fun d b t => ⟨rgmv_waits hx hn, rgmv_state hx hn, fun hst hc => ⟨rgmv_noWave hx hn hst hc, fun ht hv =>
        ⟨_, ?_, rgmv_moves hx hn hst hc ht hv⟩⟩⟩⟩⟩
  · obtain ⟨t, hnew, htag⟩ := newTag?_ready ht [g.tag] g.ia g.len
    exact ⟨t, hnew, join_held hx hn hst hc hnew, fun hd => ⟨htag.tags hd, htag.sweeping hd⟩⟩
  · have hbegins := rtn_begins (h := h) hx hn (by rw [hst]; rfl) (by rw [hst]; rfl)
    rw [beginReturn_held (g := { g with by_ := x.w.uid }) (grant?_setGrant_same (g := { g with by_ := x.w.uid }) hg) hst,
      setGrant_setGrant _ (by rfl), rtnDrop_id (by rw [hst]; decide), List.map_id] at hbegins
    exact hbegins
  · obtain ⟨fresh, hm⟩ := hm
    have hbegins := rtn_begins (h := h) hx hn (by rw [hst]; rfl) (by rw [hst]; rfl)
    rw [beginReturn_moved (g := { g with by_ := x.w.uid }) (grant?_setGrant_same (g := { g with by_ := x.w.uid }) hg) hst hm,
      setGrant_setGrant _ (by rfl), rtnDrop_waiting hst] at hbegins
    exact hbegins
  · exact (iff_of_eq (Bool.not_eq_false' _)).trans (sameCore_iff x r t)

end Sys2Proof.Returning
end

section
/-! GRANT and GRANT_REQUEST_FAILED (O3, R149 to R151, R158). -/

namespace Sys2Proof.Home

open Sys2Proof Sys2Proof.Machine Sys2Proof.Laws Sys2Proof.Issuing Sys2Proof.Waves Sys2Proof.Regions

/-! Grants and dies by their names -/

/-- A grant that is found by a name has it. -/
theorem gid_of_grant? {s : State} {gid : Nat} {g : Grant} (h : s.grant? gid = some g) : g.gid = gid := by
  simpa using List.find?_some h

/-- A grant that is found by a name is read back once it is replaced. -/
theorem grant?_setGrant {s : State} {gid : Nat} {g g' : Grant} (h : s.grant? gid = some g) (hid : g'.gid = g.gid) :
    (s.setGrant g').grant? gid = some g' := by
  obtain rfl := hid.trans (gid_of_grant? h)
  exact grant?_setGrant_same h

/-! An answer leaves its home -/

/-- An answer that a home holds is one to the request that is named. -/
theorem rid_of_answerOf? {s : State} {rid h : Nat} {a : Answer} (ha : s.answerOf? rid = some (h, a)) : a.req.rid = rid := by
  obtain ⟨d, -, hd⟩ := List.exists_of_findSome?_eq_some ha
  obtain ⟨b, hb, hba⟩ := Option.map_eq_some_iff.1 hd
  obtain ⟨-, rfl⟩ := Prod.mk.inj hba
  simpa using List.find?_some hb

/-- Only the answers of one die change. -/
theorem die_unanswer (s : State) (h rid d : Nat) :
    (s.unanswer h rid).die d = { s.die d with answers := ((s.unanswer h rid).die d).answers } := by
  rw [State.unanswer, die_setDie]
  split
  case isTrue hd => rw [hd.1]
  case isFalse => rfl

/-- The answer is no longer held. -/
theorem answers_unanswer (s : State) (h rid : Nat) : ∀ b ∈ ((s.unanswer h rid).die h).answers, b.req.rid ≠ rid := by
  intro b hb
  rw [State.unanswer, die_setDie] at hb
  split at hb
  case isTrue => simpa using (List.mem_filter.1 hb).2
  case isFalse hd =>
    have hreset : s.die h = Die.reset := List.getD_eq_default _ _ (by omega)
    rw [hreset] at hb
    exact absurd hb List.not_mem_nil

/-- A holder stands where it stood. -/
theorem holderAt_unanswer (s : State) (h rid : Nat) (r : RegRef) : (s.unanswer h rid).holderAt r = s.holderAt r := by
  have hsector (d core : Nat) : (s.unanswer h rid).sector d core = s.sector d core := by
    unfold State.sector; rw [die_unanswer]; rfl
  unfold State.holderAt
  simp only [hsector]
  rfl

/-- A sector's next tag is as ready as it was. -/
theorem tagNow_unanswer (s : State) (h rid : Nat) (at_ : Nat × Nat) : (s.unanswer h rid).tagNow at_ = s.tagNow at_ := by
  unfold State.tagNow; rw [die_unanswer]

theorem tagReady_unanswer {s : State} {at_ : Nat × Nat} (ht : s.tagReady at_) (h rid : Nat) :
    (s.unanswer h rid).tagReady at_ := by
  unfold State.tagReady; rw [tagNow_unanswer, die_unanswer]; exact ht

/-! A grant arrives -/

/-- What a delivery makes of a state: the grant HELD with its tag and an empty store. -/
structure Delivered (s t : State) (gid : Nat) (held : Grant) : Prop where
  here : t.grant? gid = some held
  others : ∀ k, k ≠ gid → t.grant? k = s.grant? k
  mem : t.mem = s.mem
  ebq : t.ebq = s.ebq
  answers : ∀ d, (t.die d).answers = (s.die d).answers

/-- A grant is delivered once the next tag of its holder's sector is swept. -/
theorem deliver_ready {s : State} {gid : Nat} {g : Grant} (hg : s.grant? gid = some g) (ht : s.tagReady (s.holderAt g.reg))
    (entry : Option Nat) : ∃ t, s.deliver g entry = some t ∧
      Delivered s t gid { g with st := .held, tag := s.tagNow (s.holderAt g.reg), entry := entry, gs := [] } := by
  obtain ⟨u, hnew, htag⟩ := newTag?_ready ht (s.tagsOver g entry (s.holderAt g.reg)) g.ia g.len
  have hgrant (k : Nat) : u.grant? k = s.grant? k := by rw [htag.rest]; rfl
  refine ⟨_, by rw [State.deliver, hnew]; rfl, ?_⟩
  exact
    { here := grant?_setGrant (g := g) ((hgrant gid).trans hg) rfl
      others := fun k hk => (grant?_setGrant_ne u _ (by rw [← gid_of_grant? hg] at hk; exact hk)).trans (hgrant k)
      mem := by show u.mem = _; rw [htag.rest]
      ebq := by show u.ebq = _; rw [htag.rest]
      answers := fun d => by show (u.die d).answers = _; rw [htag.dies] }

/-! What an answer does -/

section
variable {s : State} {h : Nat} {a : Answer} {gid : Nat}

/-- An answer to another die is a message. -/
theorem sendAnswer_other (hw : a.req.who = .grant gid) (hd : a.req.die ≠ h) :
    s.sendAnswer h a = some ((s.unanswer h a.req.rid).sendRein h a.req.die 0 (.answer a)) := by
  unfold State.sendAnswer; simp only [hw, if_neg hd]

/-- An answer on its own die acts. -/
theorem sendAnswer_own (hw : a.req.who = .grant gid) (hd : a.req.die = h) :
    s.sendAnswer h a = (s.unanswer h a.req.rid).takeAnswer a := by
  unfold State.sendAnswer; simp only [hw, if_pos hd]

/-- An answer to a request that no register made has no effect. -/
theorem sendAnswer_none (hw : ∀ gid, a.req.who ≠ .grant gid) : s.sendAnswer h a = some (s.unanswer h a.req.rid) := by
  unfold State.sendAnswer
  split
  case h_1 gid hg => exact absurd hg (hw gid)
  case h_2 => rfl

/-- An answer to a register that no longer waits has no effect. -/
theorem takeAnswer_late (hw : a.req.who = .grant gid) (hg : ∀ g, s.grant? gid = some g → g.st ≠ .waiting) :
    s.takeAnswer a = some s := by
  unfold State.takeAnswer
  simp only [hw]
  cases hs : s.grant? gid with
  | none => rfl
  | some g => simp only [bne_iff_ne.2 (hg g hs), if_true]

variable {g : Grant} (hw : a.req.who = .grant gid) (hg : s.grant? gid = some g) (hst : g.st = .waiting)
include hw hg hst

/-- A granted request delivers its grant. -/
theorem takeAnswer_given {i : Nat} (hv : a.verdict = .given i) : s.takeAnswer a = s.deliver g (some i) := by
  unfold State.takeAnswer; simp only [hw, hg, hst, hv]; rfl

/-- A denied one fails. -/
theorem takeAnswer_denied {f : Option (Nat × Word)} {c : BitVec 4} (hv : a.verdict = .denied f c) :
    s.takeAnswer a = some (s.failRequest g f c) := by
  unfold State.takeAnswer; simp only [hw, hg, hst, hv]; rfl

end

/-! The events of an answer -/

section
variable {s : State} {rid h : Nat} {a : Answer} (ha : s.answerOf? rid = some (h, a))
include ha

/-- GRANT sends the answer of a home that grants. -/
theorem exec_grant {i : Nat} (ans : EpAnswer) (hv : a.verdict = .given i) (hr : s.foreignResidue h a.req = false) :
    exec (.grant rid ans) s = .next ((s.sendAnswer h a).getD s) := by
  have hwait : s.residueWaits h a = false := by unfold State.residueWaits; simp only [hv, hr]
  show execGrant rid ans s = _
  unfold execGrant execEvent
  simp only [ha, hv, hwait, Bool.false_eq_true, if_false]

/-- GRANT_REQUEST_FAILED sends the answer of a home that denies. -/
theorem exec_grantRequestFailed {f : Option (Nat × Word)} {c : BitVec 4} (ans : EpAnswer) (hv : a.verdict = .denied f c) :
    exec (.grantRequestFailed rid ans) s = .next ((s.sendAnswer h a).getD s) := by
  show execGrantRequestFailed rid ans s = _
  unfold execGrantRequestFailed execEvent
  simp only [ha, hv]

/-- A grant of the home's own die arrives. -/
theorem grant_arrives {i gid : Nat} {g : Grant} (ans : EpAnswer) (hv : a.verdict = .given i)
    (hr : s.foreignResidue h a.req = false) (hw : a.req.who = .grant gid) (hd : a.req.die = h) (hg : s.grant? gid = some g) (hst : g.st = .waiting)
    (ht : s.tagReady (s.holderAt g.reg)) : ∃ t, exec (.grant rid ans) s = .next t ∧
      Delivered (s.unanswer h rid) t gid
        { g with st := .held, tag := s.tagNow (s.holderAt g.reg), entry := some i, gs := [] } := by
  obtain ⟨t, htake, hdel⟩ := deliver_ready (s := s.unanswer h rid) (g := g) hg
    (by rw [holderAt_unanswer]; exact tagReady_unanswer ht h rid) (some i)
  rw [holderAt_unanswer, tagNow_unanswer] at hdel
  refine ⟨t, ?_, hdel⟩
  have hleft : (s.unanswer h rid).grant? gid = some g := hg
  rw [exec_grant ha ans hv hr, sendAnswer_own hw hd, rid_of_answerOf? ha, takeAnswer_given hw hleft hst hv, htake]
  rfl

end

/-! Requests of messages and endpoints -/

/-- A failed request: its register is EMPTY, and a fault is held by it. -/
theorem failRequest_eq (s : State) (g : Grant) (f : Option (Nat × Word)) (c : BitVec 4) :
    (s.failRequest g f c).grants = s.grants.filter (fun x => x.gid != g.gid) ∧
      (s.failRequest g f c).regFaults = s.regFaults ++ (f.toList.map fun p => (g.reg, { code := p.1, info := p.2, pc := 0 })) ∧
      (s.failRequest g f c).mem = s.mem := by
  cases f with
  | none => exact ⟨rfl, (List.append_nil _).symm, rfl⟩
  | some p => exact ⟨rfl, rfl, rfl⟩

section
variable {s : State} {rid : Nat} (ha : s.answerOf? rid = none)
include ha

/-- A request that is lost on its way fails. -/
theorem lost_fails {r : BReq} {n gid : Nat} {g : Grant} (ans : EpAnswer) (hl : s.lostRequest? rid = some (r, n))
    (hw : r.who = .grant gid) (hg : s.grant? gid = some g) : exec (.grantRequestFailed rid ans) s =
      .next (s.failRequest g (some (LINK_PARTITION, linkInfo g.reg.code n r.ia)) 0) := by
  show execGrantRequestFailed rid ans s = _
  unfold execGrantRequestFailed
  refine execEvent_some ?_
  simp only [ha, hl, hw, hg]; rfl

variable {r : BReq} {gid : Nat} {g : Grant} (hr : s.ebq.find? (·.rid == rid) = some r) (hw : r.who = .grant gid)
  (hg : s.grant? gid = some g)
include hr hw hg

/-- An endpoint grants a request. -/
theorem endpoint_grants (ht : s.tagReady (s.holderAt g.reg)) : ∃ t, exec (.grant rid .granted) s = .next t ∧
    t.grant? gid = some { g with st := .held, tag := s.tagNow (s.holderAt g.reg), entry := none, gs := [] } ∧
    t.ebq = s.ebq.filter fun x => x.rid != rid := by
  obtain ⟨t, hdel, hd⟩ := deliver_ready hg ht none
  refine ⟨{ t with ebq := dropIf (·.rid == rid) t.ebq }, ?_, hd.here, by rw [hd.ebq]; rfl⟩
  show execGrant rid .granted s = _
  unfold execGrant
  refine execEvent_some ?_
  simp only [ha, hr, hw, hg, hdel, Option.bind_eq_bind, Option.bind_some]; rfl

variable (hl : s.lostRequest? rid = none)
include hl

/-- An endpoint refuses a request. -/
theorem endpoint_refuses : exec (.grantRequestFailed rid .refused) s =
    .next (s.failRequest g (some (GRANT_FAILED, wd (16 * g.reg.code + 8))) 0) := by
  show execGrantRequestFailed rid .refused s = _
  unfold execGrantRequestFailed
  refine execEvent_some ?_
  simp only [ha, hl, hr, hw, hg, Option.bind_eq_bind, Option.bind_some]; rfl

/-- An endpoint reports a conflict to a .try. -/
theorem endpoint_conflicts (ht : r.tryIt = true) :
    exec (.grantRequestFailed rid .granted) s = .next (s.failRequest g none 4) := by
  show execGrantRequestFailed rid .granted s = _
  unfold execGrantRequestFailed
  refine execEvent_some ?_
  simp only [ha, hl, hr, hw, hg, ht, Option.bind_eq_bind, Option.bind_some]; rfl

end

end Sys2Proof.Home
end

section
/-! Homes whose pages are mapped take every byte (R323, R326 to R328). -/

namespace Sys2Proof.Home

open Sys2Proof Sys2Proof.Machine Sys2Proof.Laws Sys2Proof.Waves

/-- The translations of every die are those of `s`: cached runs may stand in another order. -/
structure SamePages (s t : State) : Prop where
  root : ∀ d, (t.die d).ptroot = (s.die d).ptroot
  runs : ∀ d r, r ∈ (t.die d).runs ↔ r ∈ (s.die d).runs
  lost : t.chLost = s.chLost

theorem SamePages.refl (s : State) : SamePages s s := ⟨fun _ => rfl, fun _ _ => Iff.rfl, rfl⟩

/-- What is mapped stays mapped. -/
theorem SamePages.mapped {s t : State} (h : SamePages s t) {ia n : Nat} (hm : s.mapped ia n) : t.mapped ia n := by
  intro i hi
  obtain ⟨hb, hpage⟩ := hm i hi
  refine ⟨hb, fun h0 => ?_⟩
  obtain ⟨hroot, hrun, hframe⟩ := hpage h0
  obtain ⟨r, hr, hcov⟩ := List.find?_isSome.1 hrun
  refine ⟨(h.root _).symm ▸ hroot, List.find?_isSome.2 ⟨r, (h.runs _ r).2 hr, hcov⟩, fun q hq h1 h2 => ?_⟩
  have hf := hframe q ((h.runs _ q).1 hq) h1 h2
  unfold State.frameLost State.pageLost at hf ⊢
  rwa [h.lost]

/-- Moving a run of a die to the front changes no translation. -/
theorem samePages_front {s : State} {d : Nat} {r : Run} (hr : r ∈ (s.die d).runs) :
    SamePages s (s.setDie d { s.die d with runs := r :: (s.die d).runs.filter (· != r) }) := by
  have hruns (q : Run) : q ∈ r :: (s.die d).runs.filter (· != r) ↔ q ∈ (s.die d).runs := by
    by_cases hq : q = r
    · simp [hq, hr]
    · simp [hq]
  refine ⟨fun e => ?_, fun e q => ?_, rfl⟩
  · rw [die_setDie]
    split
    case isTrue h => rw [h.1]
    case isFalse => rfl
  · rw [die_setDie]
    split
    case isTrue h => rw [h.1]; exact hruns q
    case isFalse => rfl

/-- The lookup of a page that a cached run holds. -/
theorem translate_cached {s : State} {d off_ : Nat} {r : Run} (hroot : (s.die d).ptroot.getLsbD 0 = true)
    (hr : runOf? (s.die d).runs (off_ / 2 ^ 14) = some r) (hin : s.frameLost d (r.pfn + (off_ / 2 ^ 14 - r.page)) = false) :
    s.translate d off_ = (s.setDie d { s.die d with runs := r :: (s.die d).runs.filter (· != r) },
      .ok ((r.pfn + (off_ / 2 ^ 14 - r.page)) * 2 ^ 14 + off_ % 2 ^ 14)) := by
  unfold State.translate
  simp only [hroot, hr, hin, Bool.not_true, Bool.false_eq_true, if_false]

/-- A mapped byte has a storage key, and the lookup changes no translation. -/
theorem keyOf_mapped {s : State} {ia : Nat} (hm : s.mapped ia 1) : ∃ t k, s.keyOf ia = (t, .inl k) ∧ SamePages s t := by
  obtain ⟨hb, hpage⟩ := hm 0 Nat.zero_lt_one
  rw [Nat.add_zero] at hb hpage
  unfold State.keyOf
  rw [if_neg (by simp [hb])]
  by_cases h0 : iaSpace ia = 0
  · obtain ⟨hroot, hrun, hframe⟩ := hpage h0
    obtain ⟨r, hr⟩ := Option.isSome_iff_exists.1 hrun
    have hmem := List.mem_of_find?_eq_some hr
    have hcov : r.page ≤ ia % 2 ^ 44 / 2 ^ 14 ∧ ia % 2 ^ 44 / 2 ^ 14 < r.page + r.size := by
      simpa using List.find?_some hr
    rw [if_pos h0, translate_cached hroot hr (hframe r hmem hcov.1 hcov.2)]
    exact ⟨_, _, rfl, samePages_front hmem⟩
  · rw [if_neg h0]
    exact ⟨s, ia, rfl, .refl s⟩

/-- The lookups of mapped cells all succeed. -/
theorem mappedAll_mapped {cells : Store} {s : State} (hm : ∀ c ∈ cells, s.mapped c.1 1) : (s.mappedAll cells).2 = true := by
  induction cells generalizing s with
  | nil => rfl
  | cons c r ih =>
    obtain ⟨t, k, hk, hsame⟩ := keyOf_mapped (hm c List.mem_cons_self)
    rw [State.mappedAll, hk]
    exact ih fun e he => hsame.mapped (hm e (List.mem_cons_of_mem _ he))

/-- Mapped cells are written. -/
theorem hWrite_mapped {cells : Store} {s : State} (hm : ∀ c ∈ cells, s.mapped c.1 1) :
    s.hWrite cells = ((s.hWrite cells).1, true) := by
  have hall := mappedAll_mapped hm
  unfold State.hWrite
  split
  case h_1 t ht => rw [ht] at hall; cases hall
  case h_2 t ht => rfl

end Sys2Proof.Home
end

section
/-! DERIVE, RETURN and the ends of returns, residues, windows and sweeps (O3 to O5, R152 to R161, R197, R198). -/

namespace Sys2Proof.Home

open Sys2Proof Sys2Proof.Machine Sys2Proof.Laws Sys2Proof.Issuing Sys2Proof.Waves Sys2Proof.Regions

/-! DERIVE -/

section
variable {s : State} {gid : Nat} {g : Grant} (hg : s.grant? gid = some g) (hst : g.st = .waiting)
include hg hst

/-- A grant that moved within its core arrives with its tag. -/
theorem derive_same (hd : g.derive = some (.moved false)) :
    exec (.derive gid) s = .next (s.setGrant { g with st := .held, derive := none }) := by
  show execDerive gid s = _
  refine execEvent_some ?_
  simp only [hg, hst, hd, Option.bind_eq_bind, Option.bind_some]; rfl

variable {t : State} {n : Nat}

/-- One that moved to another core arrives with a fresh tag. -/
theorem derive_moved (hd : g.derive = some (.moved true))
    (ht : s.newTag? (s.holderAt g.reg).1 (s.holderAt g.reg).2 [g.tag] g.ia g.len = some (t, n)) :
    exec (.derive gid) s = .next (t.setGrant { g with st := .held, derive := none, tag := n }) := by
  show execDerive gid s = _
  refine execEvent_some ?_
  simp only [hg, hst, hd, ht, Option.bind_eq_bind, Option.bind_some]; rfl

/-- A child of kind X takes the defined bytes of its range from its parent; another takes none. -/
theorem derive_child {p : Nat} {pg : Grant} (hd : g.derive = some (.child p)) (hp : s.grant? p = some pg)
    (ht : s.newTag? (s.holderAt g.reg).1 (s.holderAt g.reg).2 [pg.tag] g.ia g.len = some (t, n)) :
    exec (.derive gid) s = .next
      (if g.kind = .x then (t.setGrant { pg with gs := sdels pg.gs g.ia g.len }).setGrant
         { g with st := .held, derive := none, tag := n, gs := scells pg.gs g.ia g.len }
       else t.setGrant { g with st := .held, derive := none, tag := n }) := by
  show execDerive gid s = _
  refine execEvent_some ?_
  simp only [hg, hst, hd, hp, ht, Option.bind_eq_bind, Option.bind_some]
  by_cases hx : g.kind = .x
  · rw [if_pos hx, hx]; rfl
  · rw [if_neg hx, beq_eq_false_iff_ne.2 hx]; rfl

end

/-! RETURN -/

/-- The bytes of a staged window have yet to join the grant's. -/
def Staged (g : Grant) : Prop := g.kind = .x ∧ g.window ≠ none ∧ g.flushed = false ∧ g.lost = false

/-- The test of a staged window. -/
theorem staged_iff (g : Grant) : (g.kind == .x && g.window.isSome && !g.flushed && !g.lost) = true ↔ Staged g := by
  simp [Staged, and_assoc, Option.isSome_iff_ne_none]

/-- A grant of which nothing is left to write back. -/
def returnDone (s : State) (g : Grant) : State := s.setGrant { g with gs := [], flushed := true, returned := true }

section
variable {s : State} {gid : Nat} {g : Grant} {path : Nat}

/-- RETURN takes the next step of a return that may act. -/
theorem exec_returnGrant (hg : s.grant? gid = some g) (hst : g.st = .returning) (hret : g.returned = false)
    (hidle : s.grantIdle g = true) (hpark : s.isParked (.ret gid) = false) (hpin : s.unpinned = true) :
    exec (.returnGrant gid path) s = .next ((s.takeReturn g path).getD s) := by
  show execReturnGrant gid path s = _
  unfold execReturnGrant execEvent State.pinning
  simp only [hpin, if_true, hg, hst, hret, hidle, hpark, Option.bind_eq_bind, Option.bind_some]
  rfl

/-- The window's bytes come first. -/
theorem takeReturn_staged (hs : Staged g) : s.takeReturn g path =
    some (s.setGrant { g with gs := s.windowCells g, flushed := true }) := by
  unfold State.takeReturn; simp only [(staged_iff g).2 hs, if_true]

variable (hs : ¬ Staged g)
include hs

/-- A child gives its bytes back. -/
theorem takeReturn_child {p n c : Nat} (hp : g.parent = some (p, n, c)) : s.takeReturn g path = some (s.returnChild g p) := by
  unfold State.takeReturn
  dsimp only
  rw [if_neg (mt (staged_iff g).1 hs)]; simp only [hp]

variable (hp : g.parent = none)
include hp

/-- A grant that its home lost is not written back. -/
theorem takeReturn_lost (hl : g.lost = true) : s.takeReturn g path = some (returnDone s g) := by
  unfold State.takeReturn
  dsimp only
  rw [if_neg (mt (staged_iff g).1 hs)]
  simp only [returnDone, hp, hl, if_true]

variable (hl : g.lost = false)
include hl

/-- A home on the holder's die takes every byte. -/
theorem takeReturn_own (hd : g.home = (s.holderAt g.reg).1) (hm : ∀ c ∈ g.gs, s.mapped c.1 1) :
    s.takeReturn g path = some ((returnDone (s.hWrite g.gs).1 g).homeReturn g) := by
  unfold State.takeReturn
  dsimp only
  rw [hWrite_mapped hm]
  rw [if_neg (mt (staged_iff g).1 hs)]
  simp only [returnDone, hp, hl, if_pos hd, Bool.false_eq_true, if_false]

variable (hd : g.home ≠ (s.holderAt g.reg).1)
include hd

/-- One that cannot be reached takes none. -/
theorem takeReturn_unreached {r : Nat} (hr : s.girthReach (s.holderAt g.reg).1 g.home = .fail r) :
    s.takeReturn g path = some (returnDone s g) := by
  unfold State.takeReturn
  dsimp only
  rw [if_neg (mt (staged_iff g).1 hs)]
  simp only [returnDone, hp, hl, if_neg hd, hr, Bool.false_eq_true, if_false]

variable (hr : s.girthReach (s.holderAt g.reg).1 g.home = .ok)
include hr

/-- The message follows the lines. -/
theorem takeReturn_message (hgs : g.gs = []) :
    s.takeReturn g path = some ((returnDone s g).sendRein (s.holderAt g.reg).1 g.home g.by_ (.ret g.gid)) := by
  unfold State.takeReturn
  dsimp only
  rw [if_neg (mt (staged_iff g).1 hs)]
  simp only [returnDone, hp, hl, if_neg hd, hr, hgs, Bool.false_eq_true, if_false]

/-- The lines leave one by one. -/
theorem takeReturn_line {c : Nat × Byte} {r : Store} {t : State} (hgs : g.gs = c :: r)
    (ht : s.sendPacket (s.holderAt g.reg).1 g.home path .write (scells g.gs (c.1 / 256 * 256) 256) 0 g.by_ 0 0 g.reg.code =
      some t) :
    s.takeReturn g path = some (t.setGrant { g with gs := sdels g.gs (c.1 / 256 * 256) 256 }) := by
  unfold State.takeReturn
  dsimp only
  rw [hgs] at ht ⊢
  rw [if_neg (mt (staged_iff g).1 hs)]
  simp only [hp, hl, if_neg hd, hr, ht, Bool.false_eq_true, if_false, Option.bind_eq_bind, Option.bind_some]

end

end Sys2Proof.Home
end

section
/-! What a child's return leaves, and the ends of returns, residues, windows and sweeps (R152, R159 to R161, R197, R198). -/

namespace Sys2Proof.Home

open Sys2Proof Sys2Proof.Machine Sys2Proof.Laws Sys2Proof.Issuing Sys2Proof.Waves Sys2Proof.Regions

/-! A child's return -/

/-- The parent's side of a child's return. -/
def parentTakes (s : State) (g : Grant) (p : Nat) : State :=
  match s.grant? p with
  | some pg =>
    if g.kind == .x then
      ((s.flushL1 (s.holderAt g.reg).1 (s.holderAt g.reg).2 g.tag g.ia g.len).carry (s.holderAt g.reg).1 (s.holderAt g.reg).2
        [g.tag] pg.tag g.ia g.len).setGrant { pg with gs := smerge pg.gs g.gs }
    else s
  | none => s

/-- After the parent has taken its bytes the child has none left. -/
theorem returnChild_eq (s : State) (g : Grant) (p : Nat) :
    s.returnChild g p = (parentTakes s g p).setGrant { g with gs := [], returned := true } := rfl

/-- Lines that are flushed and carried over are caches. -/
theorem cachesOnly_flush_carry (s : State) (at_ : Nat × Nat) (tag ia len : Nat) (old : List Nat) (new : Nat) :
    CachesOnly s ((s.flushL1 at_.1 at_.2 tag ia len).carry at_.1 at_.2 old new ia len) :=
  (CachesOnly.flushL1 ..).trans (CachesOnly.carry ..)

/-- Caches hold no grant. -/
theorem grant?_cachesOnly {s t : State} (h : CachesOnly s t) (k : Nat) : t.grant? k = s.grant? k := by
  rw [h.rest]; rfl

/-- The parent's side loses no grant. -/
theorem grant?_parentTakes_isSome {s : State} {k : Nat} (g : Grant) (p : Nat) (h : (s.grant? k).isSome) :
    ((parentTakes s g p).grant? k).isSome := by
  unfold parentTakes
  split
  · split
    · exact grant?_setGrant_isSome _ (by rw [grant?_cachesOnly (cachesOnly_flush_carry ..)]; exact h)
    · exact h
  · exact h

/-- The parent of an X child holds the bytes of both. -/
theorem grant?_parentTakes {s : State} {g pg : Grant} {p : Nat} (hp : s.grant? p = some pg) (hx : g.kind = .x) :
    (parentTakes s g p).grant? p = some { pg with gs := smerge pg.gs g.gs } := by
  unfold parentTakes
  simp only [hp, beq_iff_eq.2 hx, if_true]
  exact grant?_setGrant (g := pg) (by rw [grant?_cachesOnly (cachesOnly_flush_carry ..)]; exact hp) rfl

/-- The child has returned, with no bytes left. -/
theorem returnChild_child {s : State} {g : Grant} {gid : Nat} (hg : s.grant? gid = some g) (p : Nat) :
    (s.returnChild g p).grant? gid = some { g with gs := [], returned := true } := by
  have hsome := grant?_parentTakes_isSome g p (Option.isSome_iff_exists.2 ⟨g, hg⟩)
  obtain ⟨e, he⟩ := Option.isSome_iff_exists.1 hsome
  exact grant?_setGrant he ((gid_of_grant? hg).trans (gid_of_grant? he).symm)

/-- Its parent has its bytes. -/
theorem returnChild_parent {s : State} {g pg : Grant} {gid p : Nat} (hg : s.grant? gid = some g) (hp : s.grant? p = some pg)
    (hne : p ≠ gid) (hx : g.kind = .x) : (s.returnChild g p).grant? p = some { pg with gs := smerge pg.gs g.gs } := by
  rw [returnChild_eq, grant?_setGrant_ne _ _ (by rw [← gid_of_grant? hg] at hne; exact hne)]
  exact grant?_parentTakes hp hx

/-! The ends of returns -/

section
variable {s : State} {gid : Nat} {g : Grant} (hg : s.grant? gid = some g) (hst : g.st = .returning) (hret : g.returned = true)
  (hm : ∀ m ∈ s.reins ++ s.unacked, m.kind ≠ .ret gid)
include hg hst hret hm

/-- An acknowledged return of a root frees its register. -/
theorem returnAcknowledged_root (hp : g.parent = none) : exec (.returnAcknowledged gid) s = .next (s.delGrant gid) := by
  have hnone : ((s.reins ++ s.unacked).any fun m => m.kind == .ret gid) = false :=
    List.any_eq_false.2 fun m hmem => by simpa using hm m hmem
  show execReturnAcknowledged gid s = _
  refine execEvent_some ?_
  simp only [hg, hst, hret, hnone, hp, Option.bind_eq_bind, Option.bind_some]; rfl

/-- That of a child is counted by its parent. -/
theorem returnAcknowledged_child {p n c : Nat} (hp : g.parent = some (p, n, c)) :
    exec (.returnAcknowledged gid) s = .next ((s.delGrant gid).childGone p) := by
  have hnone : ((s.reins ++ s.unacked).any fun m => m.kind == .ret gid) = false :=
    List.any_eq_false.2 fun m hmem => by simpa using hm m hmem
  show execReturnAcknowledged gid s = _
  refine execEvent_some ?_
  simp only [hg, hst, hret, hnone, hp, Option.bind_eq_bind, Option.bind_some]; rfl

end

/-- A residue that leaves is gone. -/
theorem residueWriteback_leaves {s : State} {die idx : Nat} {e : BEnt} (he : s.entry? die idx = some e) (hk : e.kind = .residue)
    (hs : e.stg = none) (hl : s.residueLeaves die e = true) (hslot : s.inSlot = false) :
    exec (.residueWriteback die idx) s =
      .next (s.setDie die { s.die die with entries := (s.die die).entries.filter fun x => x.idx != idx, scan := true }) := by
  show execResidueWriteback die idx s = _
  refine execEvent_some ?_
  simp only [he, hk, hs, hl, hslot, Option.bind_eq_bind, Option.bind_some]; rfl

/-- A search over numbers finds the first at which it succeeds. -/
theorem findSome?_range_first {α : Type} {f : Nat → Option α} {n d : Nat} {a : α} (hd : d < n)
    (hbefore : ∀ k < d, f k = none) (ha : f d = some a) : (List.range n).findSome? f = some a := by
  obtain ⟨m, rfl⟩ : ∃ m, n = d + (m + 1) := ⟨n - d - 1, by omega⟩
  rw [List.range_add, List.findSome?_append, List.findSome?_eq_none_iff.2 fun k hk => hbefore k (List.mem_range.1 hk),
    List.range_succ_eq_map]
  simp [ha]

/-- The window of a residue is written back, and its mapping entry is free. -/
theorem stagedWritebackDone_frees {s : State} {die seq : Nat} {e : BEnt} (hd : die < 8)
    (hbefore : ∀ d < die, (s.die d).entries.find? (fun e => e.seq == seq && e.stg.isSome) = none)
    (he : (s.die die).entries.find? (fun e => e.seq == seq && e.stg.isSome) = some e) (hk : e.kind = .residue) :
    exec (.stagedWritebackDone seq) s = .next (s.setDie die
      { s.die die with entries := (s.die die).entries.map fun y => if y.idx == e.idx then { y with stg := none } else y }) := by
  have hfind : ((List.range 8).findSome? fun d =>
      ((s.die d).entries.find? fun e => e.seq == seq && e.stg.isSome).map fun e => (d, e)) = some (die, e) :=
    findSome?_range_first hd (fun k hkd => by rw [hbefore k hkd]; rfl) (by rw [he]; rfl)
  show execStagedWritebackDone seq s = _
  refine execEvent_some ?_
  simp only [hfind, hk, Option.bind_eq_bind, Option.bind_some]; rfl

/-- A line that a die takes is a cache. -/
theorem cachesOnly_intoL2 (s : State) (die sector : Nat) (c : CSec) : CachesOnly s (s.intoL2 die sector c) := .setL2 ..

/-- The grant holds its window's bytes, and its holder's sector the lines. -/
def windowHome (s : State) (g : Grant) : State :=
  (pieces g.len [g.ia]).foldl (fun t p => t.intoL2 (s.holderAt g.reg).1 (s.holderAt g.reg).2
    { sec := p.1, tag := g.tag, mask := byteMask 0 64, dirty := byteMask 0 64, rank := 1 })
    (s.setGrant { g with gs := s.windowCells g, window := none })

/-- Of the grant's state only caches change. -/
theorem cachesOnly_windowHome (s : State) (g : Grant) :
    CachesOnly (s.setGrant { g with gs := s.windowCells g, window := none }) (windowHome s g) :=
  .foldl (fun t _ => cachesOnly_intoL2 t ..) _ _

/-- A wave that awaits the end of an UNSTAGE goes on. -/
def unstaged (gid : Nat) (w : Wave) : Wave := if w.hold == .unstage gid then { w with hold := .none } else w

/-- The window's bytes are in the grant, and its wave goes on. -/
theorem unstageWriteDone_ends {s : State} {gid : Nat} {g : Grant} {w : Wave} (hg : s.grant? gid = some g) (hw : w ∈ s.waves)
    (hh : w.hold = .unstage gid) (hf : s.fillOver gid = true) (hp : s.pendingOver gid g.ia g.len = false) :
    exec (.unstageWriteDone gid) s =
      .next { windowHome s g with waves := (windowHome s g).waves.map (unstaged gid) } := by
  have hany : (s.waves.any fun w => w.hold == .unstage gid) = true := List.any_eq_true.2 ⟨w, hw, by simp [hh]⟩
  show execUnstageWriteDone gid s = _
  refine execEvent_some ?_
  simp only [hg, hany, hf, hp, Option.bind_eq_bind, Option.bind_some]; rfl

/-- A tag that is being swept leaves its sector's caches. -/
theorem tagSweepDone_sweeps {s : State} {die sector tag : Nat} (h : (sector, tag) ∈ (s.die die).sweeping) :
    exec (.tagSweepDone die sector tag) s =
      .next ((s.setDie die { s.die die with sweeping := (s.die die).sweeping.filter fun p => p != (sector, tag) }).sweepTag
        die sector tag) := by
  show execTagSweepDone die sector tag s = _
  refine execEvent_some ?_
  simp only [List.contains_iff_mem.2 h]; rfl

/-! The obligation, part by part -/

/-- Settles O55: each event by its own lemma above, in a state in which nothing else holds it back. -/
theorem grantsAtHome : Obligations.GrantsAtHome := by
  intro s
  refine ⟨fun rid h a ha => ?_, failRequest_eq s, fun rid ha => ⟨?_, ?_⟩, fun gid g hg hst => ⟨?_, ?_⟩,
    fun gid g path hg hst hret hidle hpark hpin => ?_, fun gid g hg hst hret hm => ⟨?_, ?_⟩, ?_, ?_, ?_, ?_⟩
  · have hrid := rid_of_answerOf? ha
    refine ⟨fun i ans hv hr => ⟨fun gid hw hd => ?_, fun gid g hw hd hg hst ht => ?_, fun gid hw hd hg => ?_, fun hw => ?_⟩,
      fun f c ans hv => ⟨fun gid hw hd => ?_, fun gid g hw hd hg hst => ?_⟩⟩
    · rw [exec_grant ha ans hv hr, sendAnswer_other hw hd, hrid]; rfl
    · obtain ⟨t, hexec, hdel⟩ := grant_arrives ha ans hv hr hw hd hg hst ht
      exact ⟨t, hexec, hdel.here, by rw [hdel.answers]; exact answers_unanswer s h rid, hdel.mem, hdel.others⟩
    · rw [exec_grant ha ans hv hr, sendAnswer_own hw hd, hrid, takeAnswer_late (s := s.unanswer h rid) hw hg]; rfl
    · rw [exec_grant ha ans hv hr, sendAnswer_none hw, hrid]; rfl
    · rw [exec_grantRequestFailed ha ans hv, sendAnswer_other hw hd, hrid]; rfl
    · rw [exec_grantRequestFailed ha ans hv, sendAnswer_own hw hd, hrid,
        takeAnswer_denied (s := s.unanswer h rid) hw hg hst hv]; rfl
  · exact fun r n gid g ans hl hw hg => lost_fails ha ans hl hw hg
  · exact fun r gid g hr hw hg => ⟨endpoint_grants ha hr hw hg, fun hl => ⟨endpoint_refuses ha hr hw hg hl,
      endpoint_conflicts ha hr hw hg hl⟩⟩
  · exact derive_same hg hst
  · refine fun ht => ⟨fun hd => ?_, fun p pg hd hp => ?_⟩
    · obtain ⟨t, hnew, -⟩ := newTag?_ready ht [g.tag] g.ia g.len
      exact ⟨t, hnew, derive_moved hg hst hd hnew⟩
    · obtain ⟨t, hnew, -⟩ := newTag?_ready ht [pg.tag] g.ia g.len
      exact ⟨t, hnew, derive_child hg hst hd hp hnew⟩
  · have step {t : State} (ht : s.takeReturn g path = some t) : exec (.returnGrant gid path) s = .next t := by
      rw [exec_returnGrant hg hst hret hidle hpark hpin, ht]; rfl
    have hlost (hl : g.lost = true) : ¬ Staged g := fun hs => by
      obtain ⟨-, -, -, hl'⟩ := hs
      rw [hl] at hl'; cases hl'
    refine ⟨fun p n c hp hs => ⟨step (takeReturn_child hs hp), returnChild_child hg p,
      fun pg hpg hne hx => returnChild_parent hg hpg hne hx⟩, fun hp hl => step (takeReturn_lost (hlost hl) hp hl),
      fun hs => step (takeReturn_staged hs), fun hp hl hs => ⟨fun hd hm => step (takeReturn_own hs hp hl hd hm),
      fun r hd hr => step (takeReturn_unreached hs hp hl hd hr), fun hd hr =>
      ⟨fun hgs => step (takeReturn_message hs hp hl hd hr hgs), fun c r t hgs ht => step (takeReturn_line hs hp hl hd hr hgs ht)⟩⟩⟩
  · exact returnAcknowledged_root hg hst hret hm
  · exact fun p n c hp => returnAcknowledged_child hg hst hret hm hp
  · exact fun die idx e he hk hs hl hslot => residueWriteback_leaves he hk hs hl hslot
  · exact fun die seq e hd hbefore he hk => stagedWritebackDone_frees hd hbefore he hk
  · refine fun gid g w hg hw hh hf hp => ⟨_, unstageWriteDone_ends hg hw hh hf hp, ?_, ?_, ?_⟩ <;>
      rw [(cachesOnly_windowHome s g).rest] <;> rfl
  · exact fun die sector tag h => tagSweepDone_sweeps h

end Sys2Proof.Home
end

section
/-! Loads and stores (R180 to R185, R203). -/

namespace Sys2Proof.Accesses

open Sys2Proof Sys2Proof.Machine Sys2Proof.Laws Sys2Proof.Control

/-- Settles O23: the checks of each word pass, so it goes in flight as `load_next` gives it; a load of the scratchpad meets no
cache and takes no entry. -/
theorem loadsGoInFlight : Obligations.LoadsGoInFlight := by
  intro x h t d b imm hx
  refine ⟨fun g gr hr hg hf => ?_, fun hr hf => ?_, fun g gr hr hg hf => ?_⟩
  · have hp := place_reads hg hf (.inl rfl) 0
    exact ⟨fun ha => word_done hx hr rfl (load_none x h _ _ _ _ _ _ _ _ hp ha),
      fun ha hfree => word_done hx hr rfl (load_next x h _ _ _ _ _ _ hp ha _ rfl _ _ rfl hfree)⟩
  · have hp := place_sp hf true [.x, .s, .a] 0 .none
    refine ⟨fun ha => word_done hx hr rfl (load_none x h _ _ _ _ _ _ _ _ hp ha), fun ha => word_done hx hr rfl ?_⟩
    have hl := load_next x h _ _ _ _ (.vec (x.destAt d.toNat) t) _ hp ha _ rfl 0 x rfl (Nat.zero_le _)
    simp only [Nat.zero_add] at hl
    exact hl
  · have hp := place_reads hg hf (.inl rfl) 0
    exact ⟨fun ha => word_done hx hr rfl (load_none x h _ _ _ _ _ _ _ _ hp ha),
      fun ha hfree => word_done hx hr rfl (load_next x h _ _ _ _ _ _ hp ha _ rfl _ _ rfl hfree)⟩

/-- Settles O24: the checks of each word pass, so it enters the outbox as `store_next` gives it; a store to the scratchpad meets
no cache. -/
theorem storesEnterTheOutbox : Obligations.StoresEnterTheOutbox := by
  intro x h t d b imm hx
  refine ⟨fun g gr hr hg hk hf hfree => ?_, fun hr hf hfree => ?_, fun g gr hr hg hk hf hfree => ?_⟩
  · have hp := place_holds (kinds := [.x]) hg (by rw [hk]; rfl) hf (.inl rfl) false 1
    exact word_done hx hr rfl (store_next x h _ _ _ _ _ _ _ hp hfree)
  · have hp := place_sp hf false [.x] 1 .none
    have hs := store_next x h _ _ _ _ 0 (x.laneBytes d (itypeBytes t)) _ hp (by simpa only [Nat.zero_add] using hfree)
    simp only [Nat.zero_add, storing_direct] at hs
    exact word_done hx hr rfl hs
  · have hp := place_holds (kinds := [.x]) hg (by rw [hk]; rfl) hf (.inl rfl) false 1
    exact word_done hx hr rfl (store_next x h _ _ _ _ _ _ _ hp hfree)

end Sys2Proof.Accesses
end

section
/-! The traps of accesses in their order (R162, R182, R190). -/

namespace Sys2Proof.Accesses

open Sys2Proof Sys2Proof.Machine Sys2Proof.Laws Sys2Proof.Control Sys2Proof.Regions

/-! Bounds and alignment -/

/-- The checks of R182 on the offsets of a word's active lanes: bounds, then alignment. -/
def laneChecks (x : Iss) (h : Hd) (code len z imm : Nat) (b : VCode) : Chk Unit := do
  inBounds code len z (x.offs b z imm (x.active h))
  aligned code z (x.offs b z imm (x.active h))

section
variable {x : Iss} {h : Hd} {len z imm : Nat} {b : VCode} {l : Nat} (code : Nat)

/-- The first offset that fails a test is that of the lowest failing lane. -/
theorem offs_find?_lowest {p : Nat → Bool} (hl : l ∈ x.active h) (hp : p (x.off b z imm l) = true)
    (hlow : ∀ m ∈ x.active h, m < l → p (x.off b z imm m) = false) :
    (x.offs b z imm (x.active h)).find? (fun o => p o.2) = some (l, x.off b z imm l) := by
  rw [offs_eq, List.find?_map, Function.comp_def, find?_lowest (active_ascending x h) hl hp hlow]
  rfl

/-- Accesses that all lie in bounds pass the bounds check. -/
theorem inBounds_within (hw : x.within h len z imm b) : inBounds code len z (x.offs b z imm (x.active h)) = .ok () := by
  have hnone : (x.offs b z imm (x.active h)).find? (fun o => decide (len < o.2 + z)) = none := by
    simpa [offs_eq, Iss.within] using hw
  rw [inBounds, hnone]

/-- The bounds check reports the lowest lane out of bounds. -/
theorem inBounds_firstOut (ho : x.firstOut h len z imm b l) : inBounds code len z (x.offs b z imm (x.active h)) =
    .error (.trap REFUSED_BOUNDS (laneInfo code l 0 (x.off b z imm l))) := by
  obtain ⟨hl, hout, hlow⟩ := ho
  rw [inBounds, offs_find?_lowest (p := fun a => decide (len < a + z)) hl (by simpa using hout)
    fun m hm hlt => by simpa using hlow m hm hlt]

/-- The alignment check reports the lowest lane that is not aligned. -/
theorem aligned_firstSkew (hk : x.firstSkew h z imm b l) : aligned code z (x.offs b z imm (x.active h)) =
    .error (.trap MISALIGNED (laneInfo code l 0 (x.off b z imm l))) := by
  obtain ⟨hl, hskew, hlow⟩ := hk
  rw [aligned, offs_find?_lowest (p := fun a => a % z != 0) hl (by simpa using hskew)
    fun m hm hlt => by simpa using hlow m hm hlt]

/-- A word that takes on the failures of its lane checks traps as R182 says. -/
theorem placeTraps_of_laneChecks {i : Instr} {eff : Iss → List Nat → Eff} (hx : x.live)
    (hi : exec i x.s = execWord i h .vector x.s eff)
    (he : ∀ e, laneChecks x h code len z imm b = .error e → eff x (x.active h) = e) : x.placeTraps i h code len z imm b := by
  refine ⟨fun l ho hr => word_traps hx hr hi (he _ ?_), fun hw l hk hr => word_traps hx hr hi (he _ ?_)⟩
  · rw [laneChecks, inBounds_firstOut code ho, error_bind]
  · rw [laneChecks, inBounds_within code hw, ok_bind, aligned_firstSkew code hk]

end

/-! Failed checks end an access -/

section
variable {x : Iss} {h : Hd} {z imm : Nat} {b : VCode} {e : Eff} {kinds : List Kind} {ro : Bool} {op : Nat} {f : Fe}

/-- A register that may not be used ends the checks of an access. -/
theorem place_unusable {c : GCode} (hu : x.usable c.toNat ro kinds op = .error e) (offs : List (Nat × Nat)) (f : Fe) :
    x.place (some c) offs z ro kinds op f = .error e := by
  simp only [Iss.place, hu, error_bind]

/-- Lane checks that fail end the checks of an access through a register. -/
theorem place_unfit {c : GCode} {g : Grant} (hu : x.usable c.toNat ro kinds op = .ok g)
    (hc : laneChecks x h c.toNat g.len z imm b = .error e) :
    x.place (some c) (x.offs b z imm (x.active h)) z ro kinds op f = .error e := by
  simp only [Iss.place, hu, ok_bind]
  obtain hb | ⟨_, hb, ha⟩ := Issuing.bind_error hc
  · rw [hb, error_bind]
  · rw [hb, ok_bind, ha, error_bind]

/-- Lane checks that fail end the checks of an access to the scratchpad. -/
theorem place_sp_unfit (hc : laneChecks x h 31 x.scr z imm b = .error e) :
    x.place none (x.offs b z imm (x.active h)) z ro kinds op f = .error e := by
  simp only [Iss.place]
  obtain hb | ⟨_, hb, ha⟩ := Issuing.bind_error hc
  · rw [hb, error_bind]
  · rw [hb, ok_bind, ha, error_bind]

variable {g? : Option GCode} {act : List Nat}

/-- A load whose checks fail has their outcome. -/
theorem load_refused (hp : x.place g? (x.offs b z imm act) z true [.x, .s, .a] 0 f = .error e) (hint : Nat)
    (dest : LoadDest) : x.load g? b z imm f hint dest act = e := by
  simp only [Iss.load, hp, error_bind, Chk.eff]

/-- A store whose checks fail has their outcome. -/
theorem store_refused (hp : x.place g? (x.offs b z imm act) z false [.x] 1 f = .error e) (hint : Nat)
    (data : Nat → List Byte) : x.store g? b z imm f hint data act = e := by
  simp only [Iss.store, hp, error_bind, Chk.eff]

/-- An atomic whose checks fail has their outcome. -/
theorem atomic_refused {t : IType}
    (hp : x.place g? (x.offs b (itypeBytes t) 0 act) (itypeBytes t) false [.x, .a] 2 .none = .error e) (d : VCode)
    (op : AtOp) : x.atomic g? d b op t act = e := by
  simp only [Iss.atomic, hp, error_bind, Chk.eff]

end

/-! Registers that LD and ST may not use -/

/-- A LENT or RETURNING register may not be used at all. -/
theorem usable_away {x : Iss} {code : Nat} {g : Grant} (hn : x.names code g) (hst : g.st = .lent ∨ g.st = .returning)
    (ro : Bool) (kinds : List Kind) (op : Nat) :
    x.usable code ro kinds op = .error (.trap REGION_STATE (wd (code + 32 * g.st.code))) := by
  have hne : g.st ≠ .waiting ∧ g.st ≠ .held ∧ g.st ≠ .frozen := by rcases hst with e | e <;> simp [e]
  obtain ⟨hw, hh, hz⟩ := hne
  exact usable_state hn hw hh (fun e => absurd e hz) kinds op

/-- ATOM takes every kind but S. -/
theorem contains_of_ne_s {k : Kind} (hk : k ≠ .s) : ([.x, .a] : List Kind).contains k = true := by
  cases k with
  | s => exact absurd rfl hk
  | x => rfl
  | a => rfl

section
variable {x : Iss} {h : Hd} {d b : VCode} {g : GCode} {t : IType} {f : Fe} {imm : BitVec 4} {code : Nat} {info : Word}
variable (hx : x.live)
include hx

/-- LD traps as the check of its register does. -/
theorem ld_unusable (hu : x.usable g.toNat true [.x, .s, .a] 0 = .error (.trap code info)) :
    x.traps (.ld h d g b t f imm) h code info :=
  fun hr => word_traps hx hr rfl (load_refused (place_unusable hu _ _) _ _)

/-- ST traps as the check of its register does. -/
theorem st_unusable (hu : x.usable g.toNat false [.x] 1 = .error (.trap code info)) :
    x.traps (.st h d g b t f imm) h code info :=
  fun hr => word_traps hx hr rfl (store_refused (place_unusable hu _ _) _ _)

end

/-! RST, check by check -/

/-- One access that ends past its bounds. -/
theorem inBounds_one_out {len z a : Nat} (code : Nat) (h : len < a + z) :
    inBounds code len z [(0, a)] = .error (.trap REFUSED_BOUNDS (laneInfo code 0 0 a)) := by
  simp only [inBounds, List.find?_cons, decide_eq_true h]

/-- One access that lies in its bounds. -/
theorem inBounds_one_within {len z a : Nat} (code : Nat) (h : a + z ≤ len) : inBounds code len z [(0, a)] = .ok () := by
  simp only [inBounds, List.find?_cons, decide_eq_false (Nat.not_lt.2 h), List.find?_nil]

section
variable {x : Iss} {h : Hd} {g : GCode} {a b : VCode} {c : SReg} {gd gf : Grant}

/-- The descriptor comes first. -/
theorem rst_malformed (hd : 24 ≤ (x.sreg c.toNat).toNat % 32 ∨ (x.sreg c.toNat).toNat / 32 % 8 ≠ 0) (act : List Nat) :
    x.rst g a b c act = .trap RESERVED_FIELD 0 := by
  have hn : (decide ((x.sreg c.toNat).toNat % 32 < 24) && decide ((x.sreg c.toNat).toNat / 32 % 8 = 0)) = false := by
    rcases hd with hd | hd
    · rw [decide_eq_false (Nat.not_lt.2 hd), Bool.false_and]
    · rw [decide_eq_false hd, Bool.and_false]
  simp only [Iss.rst, hn, need_false_bind, Chk.eff]

variable (hc : (x.sreg c.toNat).toNat % 32 < 24) (hz : (x.sreg c.toNat).toNat / 32 % 8 = 0)
include hc hz

/-- The data's register comes next. -/
theorem rst_unusable {e : Eff} (hu : x.usable g.toNat false [.x] 1 = .error e) (act : List Nat) : x.rst g a b c act = e := by
  simp only [Iss.rst, hc, hz, decide_true, Bool.and_self, need_true_bind, hu, error_bind, Chk.eff]

variable (hu : x.usable g.toNat false [.x] 1 = .ok gd)
include hu

/-- Then the bounds of the data. -/
theorem rst_out {e : Eff} (ho : inBounds g.toNat gd.len 8 (x.offs a 8 0 (x.active h)) = .error e) :
    x.rst g a b c (x.active h) = e := by
  simp only [Iss.rst, hc, hz, decide_true, Bool.and_self, need_true_bind, hu, ok_bind, ho, error_bind, Chk.eff]

variable (ho : inBounds g.toNat gd.len 8 (x.offs a 8 0 (x.active h)) = .ok ())
include ho

/-- Then the flag's register. -/
theorem rst_flag_unusable {e : Eff} (hf : x.usable ((x.sreg c.toNat).toNat % 32) false [.a] 8 = .error e) :
    x.rst g a b c (x.active h) = e := by
  simp only [Iss.rst, hc, hz, decide_true, Bool.and_self, need_true_bind, hu, ok_bind, ho, hf, error_bind, Chk.eff]

variable (hf : x.usable ((x.sreg c.toNat).toNat % 32) false [.a] 8 = .ok gf)
include hf

/-- Then its home. -/
theorem rst_flag_home (hh : gf.home ≠ gd.home) :
    x.rst g a b c (x.active h) = .trap REFUSED_KIND (kindInfo ((x.sreg c.toNat).toNat % 32) gf.kind 8) := by
  simp only [Iss.rst, hc, hz, decide_true, Bool.and_self, need_true_bind, hu, ok_bind, ho, hf, beq_eq_false_iff_ne.2 hh,
    need_false_bind, Chk.eff]

variable (hh : gf.home = gd.home)
include hh

/-- Then its bounds. -/
theorem rst_flag_out (hlen : gf.len < 8 * ((x.sreg c.toNat).toNat / 256) + 8) : x.rst g a b c (x.active h) =
    .trap REFUSED_BOUNDS (laneInfo ((x.sreg c.toNat).toNat % 32) 0 0 (8 * ((x.sreg c.toNat).toNat / 256))) := by
  have hout := inBounds_one_out ((x.sreg c.toNat).toNat % 32) hlen
  simp only [Iss.rst, hc, hz, decide_true, Bool.and_self, need_true_bind, hu, ok_bind, ho, hf, hh, beq_self_eq_true, hout,
    error_bind, Chk.eff]

/-- Last the alignment of the data. -/
theorem rst_skew {e : Eff} (hlen : 8 * ((x.sreg c.toNat).toNat / 256) + 8 ≤ gf.len)
    (hs : aligned g.toNat 8 (x.offs a 8 0 (x.active h)) = .error e) : x.rst g a b c (x.active h) = e := by
  have hfit := inBounds_one_within ((x.sreg c.toNat).toNat % 32) hlen
  simp only [Iss.rst, hc, hz, decide_true, Bool.and_self, need_true_bind, hu, ok_bind, ho, hf, hh, beq_self_eq_true, hfit, hs,
    error_bind, Chk.eff]

end

/-! The obligation -/

/-- Settles O28: a failed check is the outcome of its word, and each check is met once those before it have passed. -/
theorem accessTraps : Obligations.AccessTraps := by
  intro x h d b g t f imm hx
  refine ⟨fun hf hr => ?_, fun gr hn hst => ?_, fun gr hn hst => ?_, fun gr hn hst => ?_, fun gr hg hk => ?_, fun gr hg => ?_,
    fun gr op hg => ?_, fun op => ?_, fun c => ⟨fun hd hr => ?_, fun gr hc hz hg => ?_⟩⟩
  · exact ⟨ld_unusable hx (usable_empty hf hr _ _ _), st_unusable hx (usable_empty hf hr _ _ _)⟩
  · exact ⟨ld_unusable hx (usable_away hn hst _ _ _), st_unusable hx (usable_away hn hst _ _ _)⟩
  · have hu := usable_state hn (ro := false) (by rw [hst]; nofun) (by rw [hst]; nofun) (fun _ => rfl) [.x] 1
    rw [hst] at hu
    exact st_unusable hx hu
  · exact ⟨fun hr => word_waits hx hr rfl (load_refused (place_unusable (usable_waiting hn hst _ _ _) _ _) _ _),
      fun hr => word_waits hx hr rfl (Issuing.store_waits hn hst ..)⟩
  · exact st_unusable hx (usable_kind hg (by simpa using hk) false 1)
  · have hu := usable_reads hg (kinds := [.x, .s, .a]) (by cases gr.kind <;> rfl) 0
    exact ⟨placeTraps_of_laneChecks _ hx rfl fun e he => load_refused (place_unfit hu he) _ _,
      placeTraps_of_laneChecks _ hx rfl fun e he => load_refused (place_unfit hu he) _ _⟩
  · refine ⟨fun hk => ?_, fun hk => ?_, fun hk => ?_⟩
    · have hu := usable_holds hg (kinds := [.x]) (by rw [hk]; rfl) false 1
      exact ⟨placeTraps_of_laneChecks _ hx rfl fun e he => store_refused (place_unfit hu he) _ _,
        placeTraps_of_laneChecks _ hx rfl fun e he => store_refused (place_unfit hu he) _ _⟩
    · have hu := usable_holds hg (kinds := [.x, .a]) (contains_of_ne_s hk) false 2
      exact placeTraps_of_laneChecks _ hx rfl fun e he => atomic_refused (place_unfit hu he) _ _
    · have hu := usable_holds hg (kinds := [.a]) (by rw [hk]; rfl) false 2
      exact placeTraps_of_laneChecks _ hx rfl fun e he => by
        simp only [place_unfit hu he, error_bind, Chk.eff]
  · exact ⟨placeTraps_of_laneChecks _ hx rfl fun e he => load_refused (place_sp_unfit he) _ _,
      placeTraps_of_laneChecks _ hx rfl fun e he => store_refused (place_sp_unfit he) _ _,
      placeTraps_of_laneChecks _ hx rfl fun e he => atomic_refused (place_sp_unfit he) _ _⟩
  · exact word_traps hx hr rfl (rst_malformed hd _)
  · refine ⟨fun hk hr => word_traps hx hr rfl (rst_unusable hc hz (usable_kind hg (by simpa using hk) false 1) _), fun hk => ?_⟩
    have hu := usable_holds hg (kinds := [.x]) (by rw [hk]; rfl) false 1
    refine ⟨fun l ho hr => word_traps hx hr rfl (rst_out hc hz hu (inBounds_firstOut _ ho)),
      fun gf hw hgf => ⟨fun hbad hr => word_traps hx hr rfl ?_, fun hka hh => ?_⟩⟩ <;>
      have hin := inBounds_within g.toNat hw
    · by_cases hka : gf.kind = .a
      · have huf := usable_holds hgf (kinds := [.a]) (by rw [hka]; rfl) false 8
        exact rst_flag_home hc hz hu hin huf (hbad.resolve_left (not_not.2 hka))
      · exact rst_flag_unusable hc hz hu hin (usable_kind hgf (by simpa using hka) false 8)
    · have huf := usable_holds hgf (kinds := [.a]) (by rw [hka]; rfl) false 8
      exact ⟨fun hlen hr => word_traps hx hr rfl (rst_flag_out hc hz hu hin huf hh hlen),
        fun hlen l hs hr => word_traps hx hr rfl (rst_skew hc hz hu hin huf hh hlen (aligned_firstSkew _ hs))⟩

end Sys2Proof.Accesses
end

section
/-! STAGE and UNSTAGE (R196 to R198). -/

namespace Sys2Proof.Accesses

open Sys2Proof Sys2Proof.Machine Sys2Proof.Laws Sys2Proof.Regions

/-! STAGE, check by check -/

/-- With .fill a fill of the window is queued in the core's engine behind its other operations. -/
def filling (x : Iss) (gr : Grant) (win : Nat) : State :=
  let s := ({ x.s with nextUid := x.s.nextUid + 1 } : State).setGrant { gr with window := some win }
  { s.setCore x.coreIx { x.core with engineQ := x.core.engineQ ++ [x.s.nextUid] } with
      ops := x.s.ops ++ [{ CopyOp.new x x.s.nextUid .fill .sp (.grant gr.gid) [win] gr.len with batch := 0 }] }


section
variable {x : Iss} {h : Hd} {g : GCode} {gr : Grant} {b : SReg} {fill : Bool} (hx : x.live)
variable (hu : x.usable g.toNat false [.x] 3 = .ok gr)
include hx hu

/-- The window begins at a multiple of 256 B. -/
theorem stage_misaligned (ha : (x.sreg b.toNat).toNat % 256 ≠ 0) :
    x.traps (.stage h g b fill) h MISALIGNED (wd (31 * 16 + 1)) :=
  chain_traps hx rfl (by simp only [hu, ok_bind, decide_eq_false ha, need_false_bind])

variable (ha : (x.sreg b.toNat).toNat % 256 = 0)
include ha

/-- It ends in the scratchpad. -/
theorem stage_out (hs : x.scr < (x.sreg b.toNat).toNat + gr.len) :
    x.traps (.stage h g b fill) h REFUSED_BOUNDS (laneInfo 31 0 0 (x.sreg b.toNat).toNat) :=
  chain_traps hx rfl (by
    simp only [hu, ok_bind, ha, decide_true, need_true_bind, decide_eq_false (Nat.not_le.2 hs), need_false_bind])

variable (hs : (x.sreg b.toNat).toNat + gr.len ≤ x.scr)
include hs

/-- The mapping table has room. -/
theorem stage_full (hn : 64 ≤ (x.s.bindings x.g.die (x.w.core / 4)).1) :
    x.traps (.stage h g b fill) h GRANT_FAILED (wd (16 * g.toNat + 10)) :=
  chain_traps hx rfl (by
    simp only [hu, ok_bind, ha, hs, decide_true, need_true_bind, decide_eq_false (Nat.not_lt.2 hn), need_false_bind])

variable (hn : (x.s.bindings x.g.die (x.w.core / 4)).1 < 64)
include hn

/-- It meets no window of a grant of the group. -/
theorem stage_overlaps
    (hw : (x.s.heldWindows x.g.uid).any (fun p => meets p ((x.sreg b.toNat).toNat, gr.len)) = true) :
    x.traps (.stage h g b fill) h GRANT_FAILED (wd (16 * g.toNat + 11)) :=
  chain_traps hx rfl (by
    simp only [hu, ok_bind, ha, hs, hn, decide_true, need_true_bind, hw, Bool.not_true, need_false_bind])

variable (hw : (x.s.heldWindows x.g.uid).any (fun p => meets p ((x.sreg b.toNat).toNat, gr.len)) = false)
include hw

/-- The grant is not staged. -/
theorem stage_staged (hst : gr.window ≠ none) :
    x.traps (.stage h g b fill) h GRANT_FAILED (wd (16 * g.toNat + 12)) :=
  chain_traps hx rfl (by
    have hst' : gr.window.isNone = false := Option.isNone_eq_false_iff.2 (Option.isSome_iff_ne_none.2 hst)
    simp only [hu, ok_bind, ha, hs, hn, decide_true, need_true_bind, hw, Bool.not_false, hst', need_false_bind])

variable (hst : gr.window = none)
variable (htot : (x.s.bindings x.g.die (x.w.core / 4)).1 + (x.s.bindings x.g.die (x.w.core / 4)).2 < 64)
variable (hres : (x.s.residueWindows x.g.uid).any (fun p => meets p ((x.sreg b.toNat).toNat, gr.len)) = false)
variable (hbusy : x.s.busyGrant gr.gid = false)
include hst htot hres hbusy

/-- Without .fill the window's bytes are the grant's at once. -/
theorem stage_binds : x.does (.stage h g b false) h
    ((x.s.dropLines x.g.die (x.s.sector x.g.die x.w.core) gr.tag gr.ia gr.len).setGrant
      { gr with window := some (x.sreg b.toNat).toNat, gs := [] }) x.w :=
  chain_does hx rfl (by
    simp only [hu, ok_bind, ha, hs, hn, decide_true, need_true_bind, hw, Bool.not_false, hst, Option.isNone_none,
      decide_eq_false (Nat.not_le.2 htot), hres, hbusy, Bool.false_and, Bool.or_false, Bool.false_eq_true, if_false])

/-- With .fill its fill is queued, if the engine has room for it. -/
theorem stage_fills (hq : x.core.engineQ.length < 64) :
    x.does (.stage h g b true) h (filling x gr (x.sreg b.toNat).toNat) x.w :=
  chain_does hx rfl (by
    simp only [hu, ok_bind, ha, hs, hn, decide_true, need_true_bind, hw, Bool.not_false, hst, Option.isNone_none,
      decide_eq_false (Nat.not_le.2 htot), hres, hbusy, decide_eq_false (Nat.not_le.2 hq), Bool.and_false, Bool.or_false,
      Bool.false_eq_true, if_false, if_true]
    rfl)

end

/-- Settles O27: each clause is the next check of STAGE, and UNSTAGE holds the wave where the grant has a window. -/
theorem stagingWords : Obligations.StagingWords := by
  intro x h g gr hx hg
  refine ⟨fun b hr hk hst ha hs htot hw hres hbusy => ?_, fun b fill hk => ?_, fun hr => ?_⟩
  · have hu := usable_holds hg (kinds := [.x]) (by rw [hk]; rfl) false 3
    have hn := Nat.lt_of_le_of_lt (Nat.le_add_right _ _) htot
    refine ⟨stage_binds hx hu ha hs hn hw hst htot hres hbusy hr, fun hq hrf => ⟨filling x gr (x.sreg b.toNat).toNat,
      stage_fills hx hu ha hs hn hw hst htot hres hbusy hq hrf, rfl, rfl, rfl, _, rfl, rfl, rfl, rfl, fun hc => ?_⟩⟩
    show ((State.setCore _ x.coreIx { x.core with engineQ := _ }).core x.coreIx).engineQ = _
    rw [Issuing.core_setCore, if_pos ⟨rfl, hc⟩]
    rfl
  · have hu := usable_holds hg (kinds := [.x]) (by rw [hk]; rfl) false 3
    exact ⟨stage_misaligned hx hu, stage_out hx hu, fun ha hs =>
      ⟨stage_full hx hu ha hs, stage_overlaps hx hu ha hs, stage_staged hx hu ha hs⟩⟩
  · have hu := usable_holds hg (kinds := [.x, .s, .a]) (by cases gr.kind <;> rfl) false 3
    refine chain_does hx rfl ?_ hr
    cases hwin : gr.window <;> simp [hu, hwin, ok_bind]

end Sys2Proof.Accesses
end

section
/-! RATOM through a grant whose base is no multiple of its access size (R189, R191). -/

namespace Sys2Proof.Accesses

open Sys2Proof Sys2Proof.Machine Sys2Proof.Laws

/-- Taking a name and miss-status entries changes no wave. -/
@[simp] theorem wave?_taking (x : Iss) (n u : Nat) : (x.taking n).wave? u = x.s.wave? u := by
  unfold Iss.taking Iss.taken Iss.takes
  split_ifs <;> rfl

/-- The outbox of wave `u` after a word. -/
def outboxAfter (u : Nat) (o : Out) : Option (List OEnt) :=
  match o with
  | .next t => (t.wave? u).map (·.outbox)
  | _ => none

/-- A word that takes entries and only adds to the outbox of its wave leaves there what it added. -/
theorem outboxAfter_afterM {x : Iss} (hx : x.live) (i : Instr) (h : Hd) (n : Nat) (es : List OEnt) :
    outboxAfter x.w.uid (.next (x.afterM i h (x.taking n) { x.w with outbox := x.w.outbox ++ es })) =
      some (x.w.outbox ++ es) := by
  obtain ⟨-, -, hw, -⟩ := iss?_some hx
  obtain ⟨-, -, -, hown, -⟩ := Issuing.issueFrame x i h .vector (x.active h).length (x.taking n)
    { x.w with outbox := x.w.outbox ++ es } .next
  obtain ⟨r, hr, -⟩ := hown (by simp [hw])
  exact congrArg (Option.map (·.outbox)) hr

/-- An A grant of 8 bytes of die 0's main memory from address 60 on, in g3 of wave 3. -/
def straddlingGrant : Grant :=
  { gid := 22, reg := { grp := false, owner := 3, code := 3 }, st := .held, kind := .a, ctx := 0, va := 60, ia := 60, len := 8,
    tag := 1, children := 0, parent := none, home := 0, entry := some 0, sfWrite := false, derive := none, flushed := false,
    returned := false, window := none, gs := [], lost := false, by_ := 0 }

/-- A wave of one fibre of a kernel of one group. -/
def loneWave : Wave := Wave.launch 3 0 0 0 0 100 (codeGroup 2 1) (codeKernel 1) 0x100 1 [] []

/-- The wave issues, with that grant, on a core out of service with no entry in use. -/
def straddling : Iss :=
  { s := { State.reset with clk := 100, stage := .full, begun := true, ctxs := [codeCtx], kernels := [codeKernel 1],
                            groups := [codeGroup 2 1], waves := [loneWave], nextUid := 10, cur := some 3,
                            cores := [{ Core.reset with service := false }], dies := [{ Die.reset with inReset := false }],
                            grants := [straddlingGrant] },
    w := loneWave, p := ⟨1, 0x100, [], none, none, 0, false⟩, ps := [], g := codeGroup 2 1, k := codeKernel 1 }

/-- No guard, no stall count. -/
def plainHd : Hd := { lgc := 0, lgcond := .al, ug := .al, sc := 0, x := 0 }

/-- RATOM.add.n64 at offset 0 of g3. -/
def straddlingAtomic : Instr := .ratom plainHd 0 3 0 .add .n64

/-- The word's one entry holds one miss-status entry. -/
theorem held_straddling :
    (outboxAfter straddling.w.uid (exec straddlingAtomic straddling.s)).map (·.map OEnt.held) = some [1] := by decide

/-- Refutes O26: the statement asks nothing of a grant's base, and R182 aligns offsets only. Where the base is 60, an access of 8
bytes at offset 0 reaches two sectors and the word takes two miss-status entries, but its outbox entry holds one. No BRW gives
such a base, since range registers and requests are aligned (R165, R289). -/
theorem not_atomicAndRemoteWords : ¬ Obligations.AtomicAndRemoteWords := by
  intro hall
  have hlive : straddling.live := rfl
  obtain ⟨-, -, hratom, -⟩ := hall straddling plainHd 0 0 .add .n64 hlive
  have hready : straddling.ready (usesOf straddlingAtomic) plainHd := ⟨by decide, by decide, .inr (by decide)⟩
  have hholds : straddling.holds 3 straddlingGrant := ⟨⟨by decide, by decide⟩, rfl⟩
  have hfits : straddling.fits plainHd straddlingGrant.len 8 0 0 := by unfold Iss.fits; decide
  have hfree : straddling.entriesFree 2 := by unfold Iss.entriesFree; decide
  obtain ⟨es, hexec, -, hsum, -⟩ := hratom 3 straddlingGrant hready hholds rfl hfits (.inl rfl) (by decide) hfree
  have hes : outboxAfter straddling.w.uid (exec straddlingAtomic straddling.s) = some es := by
    rw [straddlingAtomic, hexec, outboxAfter_afterM hlive]
    rfl
  have hone : es.map OEnt.held = [1] := by simpa only [hes, Option.map_some, Option.some.injEq] using held_straddling
  have htwo : (es.map OEnt.held).sum = 2 := hsum
  rw [hone] at htwo
  exact absurd htwo (by decide)

end Sys2Proof.Accesses
end

section
/-! FENCE, CWAIT, CSEAL, STMPW and STMPP (R208 to R210, R213). -/

namespace Sys2Proof.Ordering

open Sys2Proof Sys2Proof.Machine Sys2Proof.Laws Sys2Proof.Control

/-- The model's test for the stamp is R212's condition. -/
theorem holder_iff (x : Iss) : x.holder = true ↔ x.stampHere := by
  simp only [Iss.holder, Iss.stampHere, Option.any_eq_true, Bool.and_eq_true, Option.isNone_iff_eq_none, Bool.not_eq_true',
    beq_iff_eq, and_assoc]

theorem holder_eq_false {x : Iss} (hs : ¬ x.stampHere) : x.holder = false :=
  Bool.eq_false_iff.2 fun hh => hs ((holder_iff x).1 hh)

/-- Writing a scalar register changes no other field of a wave. -/
theorem sset_eq (w : Wave) (n : Nat) (v : Word) : w.sset n v = { w with sregs := (w.sset n v).sregs } := by
  unfold Wave.sset; split <;> rfl

section
variable {x : Iss} {h : Hd} (hx : x.live)
include hx

/-- CSEAL raises B(W) and writes it, a result that the scoreboard holds (R209). -/
theorem cseal_seals (d : SReg) (hr : x.ready (usesOf (.cseal h d)) h) : ∃ w,
    exec (.cseal h d) x.s = .next (x.after (.cseal h d) h .scalar (x.active h).length
      { x.s with nextUid := x.s.nextUid + 1 } w .next) ∧
    w = { x.w with sregs := w.sregs, batch := x.w.batch + 1,
                   vpend := x.w.vpend ++ [⟨x.s.nextUid, [.sreg d.toNat], none⟩] } ∧
    (d ≠ 0 → w.sget d.toNat = x.w.batch + 1) ∧ ∀ k, k ≠ d.toNat → w.sget k = x.w.sget k := by
  let sealed : Wave := { x.w with batch := x.w.batch + 1 }
  let v := sealed.sset d.toNat (x.w.batch + 1)
  have hv : v = { sealed with sregs := v.sregs } := sset_eq ..
  refine ⟨{ v with vpend := v.vpend ++ [⟨x.s.nextUid, [.sreg d.toNat], none⟩] }, word_done hx hr rfl rfl, ?_, fun hd => ?_,
    fun k hk => sget_sset_ne sealed _ _ _ hk⟩
  · show ({ v with vpend := _ } : Wave) = _
    rw [hv]
  · exact sget_sset_same sealed _ _ fun h0 => hd (BitVec.eq_of_toNat_eq h0)

/-- Outside determinism mode there is no stamp: both words do nothing (R213). -/
theorem stamp_undetermined (hd : x.det = false) : x.does (.stmpw h) h x.s x.w ∧ x.does (.stmpp h) h x.s x.w :=
  ⟨fun hr => word_done hx hr rfl (by simp [hd]), fun hr => word_done hx hr rfl (by simp [hd])⟩

/-- STMPW goes on in the wave that holds the stamp. -/
theorem stmpw_holder (hs : x.stampHere) : x.does (.stmpw h) h x.s x.w :=
  fun hr => word_done hx hr rfl (by simp [(holder_iff x).2 hs])

variable (hd : x.det = true)
include hd

/-- STMPP of the wave that holds the stamp begins to pass it. -/
theorem stmpp_holder (hs : x.stampHere) {st : Stamp} (hst : x.k.stamp = some st) : x.does (.stmpp h) h
    (({ x.s with nextUid := x.s.nextUid + 1 } : State).setKernel
      { x.k with stamp := some { st with passing := some x.s.nextUid } }) { x.w with passed := true } :=
  fun hr => word_done hx hr rfl (by simp [hd, (holder_iff x).2 hs, hst, State.fresh])

variable (hs : ¬ x.stampHere)
include hs

/-- STMPP of another wave traps. -/
theorem stmpp_other : x.traps (.stmpp h) h STAMP_ORDER 1 :=
  fun hr => word_traps hx hr rfl (by simp [hd, holder_eq_false hs])

/-- STMPW of a wave that has passed the stamp traps. -/
theorem stmpw_passed (hp : x.w.passed = true) : x.traps (.stmpw h) h STAMP_ORDER 2 :=
  fun hr => word_traps hx hr rfl (by simp [hd, holder_eq_false hs, hp])

/-- STMPW of a wave whose turn is still to come holds it. -/
theorem stmpw_early (hp : x.w.passed = false) : x.does (.stmpw h) h x.s { x.w with hold := .stmpw } :=
  fun hr => word_done hx hr rfl (by simp [hd, holder_eq_false hs, hp])

end

/-- Settles O33: FENCE and CWAIT are their holds, CSEAL is one write, and the stamp words go by R213's table. -/
theorem orderingWords : Obligations.OrderingWords := fun _ _ hx =>
  ⟨fun _ hr => word_done hx hr rfl rfl, fun _ hr => word_done hx hr rfl rfl, cseal_seals hx, stamp_undetermined hx,
    fun hd hs => ⟨stmpw_holder hx hs, fun _ hst => stmpp_holder hx hd hs hst⟩,
    fun hd hs => ⟨stmpp_other hx hd hs, stmpw_passed hx hd hs, stmpw_early hx hd hs⟩⟩

end Sys2Proof.Ordering
end

section
/-! DRAIN (O1, Table 9.3; R203, R339, R350). -/

namespace Sys2Proof.Ordering

open Sys2Proof Sys2Proof.Machine Sys2Proof.Laws Sys2Proof.Landing

section
variable {s : State} {u path : Nat} {w : Wave} {e : OEnt} {rest : List OEnt}

/-! The event -/

theorem exec_drain (u path : Nat) (s : State) : exec (.drain u path) s = execDrain u path s := rfl

/-- Only a local atomic waits for a line of its load: every other entry reaches its store or its message. -/
theorem atomicReach_ok (hk : ∀ op t ls load, e.kind ≠ .atomic op t ls load) : s.atomicReach w e = .ok := by
  unfold State.atomicReach
  split
  · next hkind _ => exact absurd hkind (hk _ _ _ _)
  · rfl

section
variable (hw : s.wave? u = some w) (ho : w.outbox = e :: rest) (hheld : s.drainHeld w e = false) (hpin : s.unpinned = true)
include hw ho hheld hpin

/-- The head of an outbox that can be reached acts. -/
theorem drain_acts {t : State} (hr : s.atomicReach w e = .ok) (ht : s.drainHead w e rest path = some t) :
    exec (.drain u path) s = .next t :=
  (exec_drain ..).trans (execEvent_some (by rw [pinning_unpinned hpin]; simp [hw, ho, hheld, hr, ht]))

/-- An atomic whose home cannot be reached fails. -/
theorem drain_fails {r : Nat} (hr : s.atomicReach w e = .fail r) : exec (.drain u path) s =
    .next (s.failEntries w e.seq LINK_PARTITION (linkInfo e.code r (((e.spans s).head?.map (·.1)).getD 0))) :=
  (exec_drain ..).trans (execEvent_some (by rw [pinning_unpinned hpin]; simp [hw, ho, hheld, hr]))

end

/-! The head, kind by kind -/

/-- A store writes its bytes and fills its granules. -/
theorem drainHead_write {a : Nat} {bs : List Byte} {full : List Nat} (hk : e.kind = .write a bs full)
    (hp : s.inSlot = true → s.pausesWrite (s.dieOf w) e.tgt = false) : s.drainHead w e rest path =
      some ((((s.writeRun e.tgt a bs).setWave { w with outbox := rest }).setFull full).wroteRun e.seq e.tgt a bs.length) := by
  have hgo : (s.inSlot && s.pausesWrite (s.dieOf w) e.tgt) = false := by simpa using hp
  simp [State.drainHead, hk, hgo]

section
variable {op : AtOp} {t : IType} {ls : List AtLane} {load : Nat} (hk : e.kind = .atomic op t ls load)
  (hp : s.inSlot = true → s.pauses (s.coreOf w) e.tgt (itypeBytes t) (ls.map (·.addr)) = false)
  (hl : ∀ l, w.loads.find? (·.id == load) = some l → ∀ r ∈ l.lanes, s.laneServed l r = true)
include hk hp hl

/-- A local atomic that no slot pauses, its lines arrived, fails where it reads an uncorrectable sector, and else acts on its
store and gives its load the old values. -/
theorem drainHead_atomic : s.drainHead w e rest path =
    (((w.loads.find? (·.id == load)).bind fun l => s.badLanes? (s.coreOf w) l none).map fun b =>
      s.failEntries w e.seq MEM_UNCORRECTABLE (memInfo e.code b.tier e.pc)).or
    ((s.atomicLocal e.tgt op t ls).map fun r => r.1.setWave (({ w with outbox := rest } : Wave).gotLanes load r.2)) := by
  have hgo : (s.inSlot && s.pauses (s.coreOf w) e.tgt (itypeBytes t) (ls.map (·.addr))) = false := by simpa using hp
  have hserved : ((w.loads.find? (·.id == load)).any fun l => l.lanes.any fun r => !s.laneServed l r) = false := by
    simpa [Option.any_eq_false] using hl
  simp only [State.drainHead, hk, hgo, hserved]
  cases (w.loads.find? (·.id == load)).bind fun l => s.badLanes? (s.coreOf w) l none with
  | some b => rfl
  | none => cases s.atomicLocal e.tgt op t ls <;> rfl

end

section
variable {gid : Nat} {g : Grant} (ht : e.tgt = .grant gid) (hg : s.grant? gid = some g)

/-! Home atomics -/

/-- The atomic that an outbox entry brings to its home. -/
def homeAtom (e : OEnt) (u gid : Nat) (op : AtOp) (t : IType) (ls : List AtLane) (load n : Nat) : HAtom :=
  { id := e.seq, pc := e.pc, code := e.code, wave := u, load := load, gid := gid, op := op, t := t, lanes := ls, entries := n }

section
variable {op : AtOp} {t : IType} {ls : List AtLane} {load n : Nat} (hk : e.kind = .homeAtomic op t ls load n)
include ht hg hk

/-- An atomic of the wave's own die joins the home's queue. -/
theorem drainHead_homeAtomic_own (hh : g.home = s.dieOf w) : s.drainHead w e rest path =
    some (({ s with hqs := s.hqs ++ [(s.dieOf w, homeAtom e w.uid gid op t ls load n)] } : State).setWave
      { w with outbox := rest }) := by
  simp [State.drainHead, hk, ht, hg, hh, homeAtom]

/-- An atomic of another die joins the rein queue to it. -/
theorem drainHead_homeAtomic_sent (hh : g.home ≠ s.dieOf w) (hr : s.reinReach (s.dieOf w) g.home = .ok) :
    s.drainHead w e rest path =
      some ((s.sendRein (s.dieOf w) g.home w.uid (.atomic (homeAtom e w.uid gid op t ls load n))).setWave
        { w with outbox := rest }) := by
  simp [State.drainHead, hk, ht, hg, hh, hr, homeAtom]

/-- An atomic whose home cannot be reached fails its word. -/
theorem drainHead_homeAtomic_lost {r : Nat} (hh : g.home ≠ s.dieOf w) (hr : s.reinReach (s.dieOf w) g.home = .fail r) :
    s.drainHead w e rest path =
      some (s.failEntries w e.seq LINK_PARTITION (linkInfo e.code r ((ls.head?.map (·.addr)).getD g.ia))) := by
  simp [State.drainHead, hk, ht, hg, hh, hr]

end

/-! Remote stores -/

/-- The bytes of a remote store, by IA. -/
def remoteCells (a : Nat) (bs : List Byte) : Store := bs.zipIdx.map fun b => (a + b.2, b.1)

/-- The line of a remote store leaves the caches of the sector that holds its grant. -/
def lineLeft (g : Grant) (a : Nat) (s : State) : State :=
  s.dropLines (s.holderAt g.reg).1 (s.holderAt g.reg).2 g.tag (a / 256 * 256) 256

section
variable {a : Nat} {bs : List Byte} {n : Nat} (hk : e.kind = .remote a bs n)
include ht hg hk

/-- A remote store to a staged window writes scratchpad bytes. -/
theorem drainHead_remote_staged (hwin : s.windowOf? (s.grants.length + 1) g ≠ none) : s.drainHead w e rest path =
    some (((s.writeRun e.tgt a bs).setWave { w with outbox := rest }).wroteRun e.seq e.tgt a bs.length) := by
  simp [State.drainHead, hk, hg, ht, Option.isSome_iff_ne_none.2 hwin]

section
variable (hwin : s.windowOf? (s.grants.length + 1) g = none)
include hwin

/-- A remote store of the wave's own die writes at the home, after the line's defined bytes, and is acknowledged. -/
theorem drainHead_remote_own (hh : g.home = s.dieOf w) (hslot : s.inSlot = false) {s1 s2 : State}
    (hpush : s.pushLine gid a = some s1) (hwrite : (lineLeft g a s1).hWrite (remoteCells a bs) e.seq = (s2, true)) :
    s.drainHead w e rest path = some ((s2.ackTo w.uid n).setWave { w with outbox := rest }) := by
  simp only [lineLeft, remoteCells] at hwrite
  simp [State.drainHead, hk, ht, hg, hwin, hh, hslot, hpush, hwrite]

variable (hh : g.home ≠ s.dieOf w)
include hh

/-- A remote store of another die goes toward it as one packet, after the line's defined bytes. -/
theorem drainHead_remote_sent (hr : s.girthReach (s.dieOf w) g.home = .ok) (hslot : s.inSlot = false) {s1 s2 : State}
    (hpush : s.pushLine gid a = some s1) (hsend : (lineLeft g a s1).sendPacket (s.dieOf w) g.home path .write
      (remoteCells a bs) 0 w.uid n e.pc e.code e.seq = some s2) :
    s.drainHead w e rest path = some (s2.setWave { w with outbox := rest }) := by
  simp only [lineLeft, remoteCells] at hsend
  simp [State.drainHead, hk, ht, hg, hwin, hh, hr, hslot, hpush, hsend]

/-- A remote store whose home cannot be reached fails its word. -/
theorem drainHead_remote_lost {r : Nat} (hr : s.girthReach (s.dieOf w) g.home = .fail r) :
    s.drainHead w e rest path = some (s.failEntries w e.seq LINK_PARTITION (linkInfo e.code r a)) := by
  simp [State.drainHead, hk, ht, hg, hwin, hh, hr]

end

end

/-! Flags -/

section
variable {ia : Nat} (hk : e.kind = .flag ia gid)
include hg hk

/-- A flag of the wave's own die waits there to be counted. -/
theorem drainHead_flag_own (hh : g.home = s.dieOf w) : s.drainHead w e rest path =
    some (({ s with nextUid := s.nextUid + 1,
                    flags := s.flags ++ [{ id := s.nextUid, home := s.dieOf w, ia := ia, wave := w.uid, copy := false }] } :
      State).setWave { w with outbox := rest }) := by
  simp [State.drainHead, hk, hg, hh, State.fresh]

/-- A flag of another die joins the rein queue to it. -/
theorem drainHead_flag_sent (hh : g.home ≠ s.dieOf w) (hr : s.reinReach (s.dieOf w) g.home = .ok) :
    s.drainHead w e rest path =
      some ((s.sendRein (s.dieOf w) g.home w.uid (.flag ia e.pc e.code false e.seq)).setWave { w with outbox := rest }) := by
  simp [State.drainHead, hk, hg, hh, hr]

/-- A flag whose home cannot be reached fails its word. -/
theorem drainHead_flag_lost {r : Nat} (hh : g.home ≠ s.dieOf w) (hr : s.reinReach (s.dieOf w) g.home = .fail r) :
    s.drainHead w e rest path = some (s.failEntries w e.seq LINK_PARTITION (linkInfo e.code r ia)) := by
  simp [State.drainHead, hk, hg, hh, hr]

end

end

end

/-- Settles O53: an entry that can be reached does what its kind says; a local atomic that cannot be fails. -/
theorem outboxDrains : Obligations.OutboxDrains := by
  intro s u path w e rest hw ho hheld hpin
  obtain rfl := uid_of_wave? hw
  have acts {t : State} := drain_acts (path := path) (t := t) hw ho hheld hpin
  refine ⟨fun a bs full hk hp => acts (atomicReach_ok (by simp [hk])) (drainHead_write hk hp),
    fun op t ls load hk hr hp hl => ⟨fun s' olds hb ha => acts hr ?_, fun b hb => acts hr ?_⟩,
    fun op t ls load r _ hr => drain_fails hw ho hheld hpin hr,
    fun gid g ht hg => ⟨fun op t ls load n hk => ?_, fun a bs n hk => ?_⟩, fun ia gid g hk hg => ?_⟩
  · rw [drainHead_atomic hk hp hl, hb, ha]; rfl
  · rw [drainHead_atomic hk hp hl, hb]; rfl
  · have hok : s.atomicReach w e = .ok := atomicReach_ok (by simp [hk])
    exact ⟨fun hh => acts hok (drainHead_homeAtomic_own ht hg hk hh),
      fun hh hr => acts hok (drainHead_homeAtomic_sent ht hg hk hh hr),
      fun r hh hr => acts hok (drainHead_homeAtomic_lost ht hg hk hh hr)⟩
  · have hok : s.atomicReach w e = .ok := atomicReach_ok (by simp [hk])
    exact ⟨fun hwin => acts hok (drainHead_remote_staged ht hg hk hwin),
      fun s1 s2 hwin hh hslot hpush hwrite => acts hok (drainHead_remote_own ht hg hk hwin hh hslot hpush hwrite),
      fun s1 s2 hwin hh hr hslot hpush hsend => acts hok (drainHead_remote_sent ht hg hk hwin hh hr hslot hpush hsend),
      fun r hwin hh hr => acts hok (drainHead_remote_lost ht hg hk hwin hh hr)⟩
  · have hok : s.atomicReach w e = .ok := atomicReach_ok (by simp [hk])
    exact ⟨fun hh => acts hok (drainHead_flag_own hg hk hh), fun hh hr => acts hok (drainHead_flag_sent hg hk hh hr),
      fun r hh hr => acts hok (drainHead_flag_lost hg hk hh hr)⟩

end Sys2Proof.Ordering
end

section
/-! BINIT, BARR, BEXP, BWAIT and BTEST (R217 to R227). -/

namespace Sys2Proof.Barriers

open Sys2Proof Sys2Proof.Machine Sys2Proof.Laws Sys2Proof.Control

/-! Barriers and arrivals -/

section
variable {g : Group} {n : Nat} {b : Bar}

/-- A barrier is found by its name. -/
theorem name_of_bar? (hb : g.bar? n = some b) : b.name = n := by
  simpa using List.find?_some hb

/-- An arrival counts in the current phase, or is the first of the next where the last is complete (Table 10.2). -/
theorem arrive_eq (b : Bar) : b.arrive =
    { b with st := if b.st = 2 then 1 else b.st, arrived := if b.st = 2 then 1 else b.arrived + 1, acted := true } := by
  unfold Bar.arrive; split <;> rfl

/-- An arrival at a barrier of a group changes that barrier alone. -/
theorem arriveAt_found {s : State} {u : Nat} (hg : s.group? u = some g) (hb : g.bar? n = some b) :
    s.arriveAt u n = s.setGroup (g.setBar b.arrive) := by
  simp [State.arriveAt, hg, hb]

end

/-- The test for a barrier that BINIT may not arm: it is ARMED and no longer as it was armed. -/
theorem inUse_iff (old : Option Bar) : (old.any fun b => b.st == 1 && !(b.arrived == 0 && b.pending == b.reload)) = true ↔
    ∃ b, old = some b ∧ b.st = 1 ∧ ¬ b.untouched := by
  cases old <;> simp [Bar.untouched, imp_iff_not_or]

/-- A barrier that may be armed passes that test. -/
theorem not_inUse {old : Option Bar} (hfree : ∀ b, old = some b → b.st = 1 → b.untouched) :
    ¬ (old.any fun b => b.st == 1 && !(b.arrived == 0 && b.pending == b.reload)) = true := fun hin =>
  let ⟨b, hb, hst, hu⟩ := (inUse_iff old).1 hin
  hu (hfree b hb hst)

/-- The group of the issuing wave is found by its name. -/
theorem group?_live {x : Iss} (hx : x.live) : x.s.group? x.g.uid = some x.g := by
  obtain ⟨-, -, -, -, hg, -⟩ := iss?_some hx
  have huid : x.g.uid = x.w.group := by simpa using List.find?_some hg
  rwa [huid]

/-! Results that the scoreboard holds -/

/-- The wave after a scalar result that the scoreboard holds under the state's next name (R63). -/
def lateWave (x : Iss) (n : Nat) (v : Word) : Wave :=
  { x.w.sset n v with vpend := (x.w.sset n v).vpend ++ [⟨x.s.nextUid, [.sreg n], none⟩] }

/-- Such a result changes one scalar register and the scoreboard. -/
theorem late_lateWave (x : Iss) (n : Nat) (v : Word) : x.Late n v (lateWave x n v) where
  rest := by unfold lateWave; rw [Ordering.sset_eq]
  value hn := sget_sset_same _ _ _ hn
  kept k hk := sget_sset_ne _ _ _ _ hk

/-- The wave with BTEST's results: the report, and with `.sf` the flags, Z telling a phase other than the token's. -/
def testedWave (x : Iss) (h : Hd) (d a : SReg) (old : Option Bar) : Wave :=
  let told := x.w.sset d.toNat (barWord old)
  if h.x = 4 then told.sfSet (if (old.map (·.phase)).getD false != (x.sreg a.toNat).getLsbD 0 then 4 else 0) else told

section
variable (x : Iss) (h : Hd) (d a : SReg) (old : Option Bar)

/-- BTEST's results are scalar registers and flags. -/
theorem testedWave_eq : testedWave x h d a old =
    { x.w with sregs := (testedWave x h d a old).sregs, sf := (testedWave x h d a old).sf } := by
  unfold testedWave; rw [Ordering.sset_eq]; split <;> rfl

/-- The scalar registers are those with the report. -/
theorem sget_testedWave (k : Nat) : (testedWave x h d a old).sget k = (x.w.sset d.toNat (barWord old)).sget k := by
  unfold testedWave; split <;> rfl

/-- The flags tell whether the phase differs from the token. -/
theorem sf_testedWave : (testedWave x h d a old).sf = if h.x = 4 then x.w.sf &&& ~~~0xF#64 |||
    (if (old.map (·.phase)).getD false = (x.sreg a.toNat).getLsbD 0 then 0 else 4) else x.w.sf := by
  unfold testedWave; rw [Ordering.sset_eq]
  split
  · by_cases hp : (old.map (·.phase)).getD false = (x.sreg a.toNat).getLsbD 0
    · rw [if_pos hp, if_neg (by simpa using hp)]; rfl
    · rw [if_neg hp, if_pos (by simpa using hp)]; rfl
  · rfl

end

section
variable {x : Iss} {h : Hd} {name : BitVec 11} (hx : x.live)
include hx

/-! BINIT (R223) -/

section
variable {a : SReg}

/-- A barrier in use is not armed again. -/
theorem binit_inUse {b : Bar} (hb : x.g.bar? name.toNat = some b) (hst : b.st = 1) (hu : ¬ b.untouched) :
    x.traps (.binit h a name) h BAR_OVERFLOW (barInfo name.toNat 4) :=
  fun hr => word_traps hx hr rfl (if_pos ((inUse_iff _).2 ⟨b, hb, hst, hu⟩))

variable (hfree : ∀ b, x.g.bar? name.toNat = some b → b.st = 1 → b.untouched)
include hfree

/-- A count of 0 traps. -/
theorem binit_zero (hc : fld (x.sreg a.toNat) 0 16 = 0) :
    x.traps (.binit h a name) h BAR_OVERFLOW (barInfo name.toNat 2) :=
  fun hr => word_traps hx hr rfl ((if_neg (not_inUse hfree)).trans (if_pos hc))

variable (hc : fld (x.sreg a.toNat) 0 16 ≠ 0)
include hc

/-- A new barrier waits for a physical one (R218). -/
theorem binit_full (hb : x.g.bar? name.toNat = none) (hfull : 2048 ≤ x.s.physBars x.g) :
    x.waits (.binit h a name) h :=
  fun hr => word_waits hx hr rfl
    ((if_neg (not_inUse hfree)).trans ((if_neg hc).trans (if_pos (by simpa [hb] using hfull))))

/-- Otherwise the barrier is armed, in the phase that it had. -/
theorem binit_arms (hroom : x.g.bar? name.toNat ≠ none ∨ x.s.physBars x.g < 2048) :
    x.does (.binit h a name) h (x.s.setGroup (x.g.setBar
      { name := name.toNat, st := 1, phase := ((x.g.bar? name.toNat).map (·.phase)).getD false,
        pending := fld (x.sreg a.toNat) 16 24, arrived := 0, count := fld (x.sreg a.toNat) 0 16,
        reload := fld (x.sreg a.toNat) 16 24, acted := true })) x.w :=
  fun hr => word_done hx hr rfl
    ((if_neg (not_inUse hfree)).trans ((if_neg hc).trans (if_neg (by simpa [imp_iff_not_or] using hroom))))

end

/-! BARR (R224) -/

section
variable {d : SReg} {wait : Bool}

/-- An IDLE barrier takes no arrival. -/
theorem barr_idle (hb : x.g.bar? name.toNat = none) :
    x.traps (.barr h d wait name) h BAR_OVERFLOW (barInfo name.toNat 5) :=
  fun hr => word_traps hx hr rfl (by simp [hb])

variable {b : Bar} (hb : x.g.bar? name.toNat = some b)
include hb

/-- A phase whose arrivals have all come takes no further one. -/
theorem barr_full (hst : b.st = 1) (hc : b.arrived = b.count) :
    x.traps (.barr h d wait name) h BAR_OVERFLOW (barInfo name.toNat 3) :=
  fun hr => word_traps hx hr rfl (by simp [hb, hst, hc])

variable (hopen : ¬ (b.st = 1 ∧ b.arrived = b.count))
include hopen

/-- The old phase goes to S[d], and the arrival acts at once or once the older entries of the outbox have drained (O7). -/
theorem barr_arrives :
    let v : Wave := { lateWave x d.toNat (wd (b2n b.phase)) with
      hold := if wait then .barrier name.toNat true none else .none }
    (x.w.outbox = [] → x.does (.barr h d wait name) h ((x.named 1).setGroup (x.g.setBar b.arrive)) v) ∧
    (x.w.outbox ≠ [] → x.does (.barr h d wait name) h (x.named 2)
      { v with arrives := x.w.arrives ++ [(name.toNat, x.s.nextUid + 1)] }) := by
  have hopen : (b.st = 1 && b.arrived = b.count) = false := by simpa using hopen
  have hg : (x.named 1).group? x.g.uid = some x.g := group?_live hx
  have hout (v : Word) : (x.w.sset d.toNat v).outbox = x.w.outbox := sset_outbox ..
  have harr (v : Word) : (lateWave x d.toNat v).arrives = x.w.arrives := sset_arrives ..
  refine ⟨fun ho hr => word_done hx hr rfl ?_, fun ho hr => word_done hx hr rfl ?_⟩
  · rw [← arriveAt_found hg hb]
    simp only [hb, hopen]
    exact (if_neg Bool.false_ne_true).trans (if_pos (List.isEmpty_iff.2 ((hout _).trans ho)))
  · rw [← harr (wd (b2n b.phase))]
    simp only [hb, hopen]
    exact (if_neg Bool.false_ne_true).trans (if_neg fun he => ho ((hout _).symm.trans (List.isEmpty_iff.1 he)))

end

/-! BEXP (R225) -/

section
variable {a : SReg}

/-- An IDLE barrier expects no bytes. -/
theorem bexp_idle (hb : x.g.bar? name.toNat = none) :
    x.traps (.bexp h a name) h BAR_OVERFLOW (barInfo name.toNat 5) :=
  fun hr => word_traps hx hr rfl (by simp [hb])

variable {b : Bar} (hb : x.g.bar? name.toNat = some b)
include hb

/-- PENDING may not exceed its field. -/
theorem bexp_overflows (hp : 16777215 < b.pending + (x.sreg a.toNat).toNat) :
    x.traps (.bexp h a name) h BAR_OVERFLOW (barInfo name.toNat 0) :=
  fun hr => word_traps hx hr rfl (by simp only [hb]; exact if_pos hp)

/-- PENDING rises by the bytes expected, in an ARMED phase. -/
theorem bexp_adds (hp : b.pending + (x.sreg a.toNat).toNat ≤ 16777215) :
    x.does (.bexp h a name) h (x.s.setGroup (x.g.setBar
      { b with st := 1, pending := b.pending + (x.sreg a.toNat).toNat, acted := true })) x.w :=
  fun hr => word_done hx hr rfl (by simp only [hb]; exact if_neg (Nat.not_lt.2 hp))

end

/-! BWAIT (R226) -/

section
variable {a : SReg}

/-- A phase that differs from the token has passed: the wave goes on. -/
theorem bwait_past {b : Bar} (hb : x.g.bar? name.toNat = some b) (ha : a ≠ 0) (hp : b.phase ≠ (x.sreg a.toNat).getLsbD 0) :
    x.does (.bwait h a name) h x.s { x.w with hold := .none } :=
  fun hr => word_done hx hr rfl (by
    have hpast : (a != 0 && b.phase != (x.sreg a.toNat).getLsbD 0) = true := by simpa using ⟨ha, hp⟩
    simp only [hb, hpast]; rfl)

/-- Otherwise the wave is held until the next completion. -/
theorem bwait_holds (hp : ∀ b, x.g.bar? name.toNat = some b → a ≠ 0 → b.phase = (x.sreg a.toNat).getLsbD 0) :
    x.does (.bwait h a name) h x.s { x.w with hold := .barrier name.toNat false none } :=
  fun hr => word_done hx hr rfl (by
    cases hb : x.g.bar? name.toNat with
    | none => simp only [hb]; rfl
    | some b =>
      have hsame : (a != 0 && b.phase != (x.sreg a.toNat).getLsbD 0) = false := by simpa using hp b hb
      simp only [hb, hsame]; rfl)

end

/-! BTEST (R227) -/

/-- BTEST reports the barrier, and with `.sf` whether its phase differs from the token. -/
theorem btest_reports (d a : SReg) (hr : x.ready (usesOf (.btest h d a name)) h) :
    let old := x.g.bar? name.toNat
    ∃ w, exec (.btest h d a name) x.s = .next (x.after (.btest h d a name) h .scalar (x.active h).length (x.named 1) w .next) ∧
      (d ≠ 0 → w.sget d.toNat = barWord old) ∧ (∀ k, k ≠ d.toNat → w.sget k = x.w.sget k) ∧
      w.sf = (if h.x = 4 then x.w.sf &&& ~~~0xF#64 |||
        (if (old.map (·.phase)).getD false = (x.sreg a.toNat).getLsbD 0 then 0 else 4) else x.w.sf) ∧
      w = { x.w with sregs := w.sregs, sf := w.sf,
                     vpend := x.w.vpend ++ [⟨x.s.nextUid, [.sreg d.toNat] ++ (if h.x = 4 then [.sf] else []), none⟩] } := by
  intro old
  let v := testedWave x h d a old
  refine ⟨{ v with vpend := v.vpend ++ [⟨x.s.nextUid, [.sreg d.toNat] ++ (if h.x = 4 then [.sf] else []), none⟩] },
    word_done hx hr rfl ?_, fun hd => ?_, fun k hk => ?_, sf_testedWave .., ?_⟩
  · simp only [Iss.vlate, State.fresh, beq_iff_eq]; rfl
  · exact (sget_testedWave ..).trans (sget_sset_same _ _ _ fun h0 => hd (BitVec.eq_of_toNat_eq h0))
  · exact (sget_testedWave ..).trans (sget_sset_ne _ _ _ _ hk)
  · have hv : v = { x.w with sregs := v.sregs, sf := v.sf } := testedWave_eq ..
    show ({ v with vpend := _ } : Wave) = _
    rw [hv]

end

end Sys2Proof.Barriers
end

section
/-! The completion of a phase (R219, R220). -/

namespace Sys2Proof.Barriers

open Sys2Proof Sys2Proof.Machine

/-! The waves that wait for a phase -/

/-- A wave when a barrier of a group completes: one that waits for the phase has the clk of its release. -/
def releasedAt (gu name at_ : Nat) (w : Wave) : Wave :=
  if w.group != gu then w
  else match w.hold with
    | .barrier n own none =>
      if n == name && !(own && w.arrives.any fun p => p.1 == name) then { w with hold := .barrier n own (some at_) } else w
    | _ => w

section
variable {gu name at_ : Nat} {w : Wave}

/-- A completion changes what holds a wave and nothing else of it. -/
theorem releasedAt_eq : releasedAt gu name at_ w = { w with hold := (releasedAt gu name at_ w).hold } := by
  unfold releasedAt; split
  · rfl
  · split
    · split <;> rfl
    · rfl

/-- A wave of the group that waits for the phase, its own arrival not outstanding, has the clk of its release. -/
theorem hold_releasedAt_waits {own : Bool} (hg : w.group = gu) (hh : w.hold = .barrier name own none)
    (ha : own = true → ∀ p ∈ w.arrives, p.1 ≠ name) : (releasedAt gu name at_ w).hold = .barrier name own (some at_) := by
  have harr : (own && w.arrives.any fun p => p.1 == name) = false := by simpa using ha
  simp [releasedAt, hg, hh, harr]

/-- Waves of other groups, and those that do not wait for the phase, are held as before. -/
theorem hold_releasedAt_other (ho : w.group ≠ gu ∨ ∀ own, w.hold ≠ .barrier name own none) :
    (releasedAt gu name at_ w).hold = w.hold := by
  unfold releasedAt
  split
  · rfl
  · next hg =>
    split
    · next n own hh =>
      have hn : n ≠ name := fun he => ho.elim (· (by simpa using hg)) (· own (he ▸ hh))
      simp [hn]
    · rfl

end

/-! The completion test -/

section
variable {s : State} {g : Group} {b : Bar} (hg : s.group? g.uid = some g) (hb : g.bar? b.name = some b)
include hg hb

/-- A barrier on which no event has acted is not tested. -/
theorem completeBar_idle (ha : b.acted = false) : s.completeBar g.uid b.name = s := by
  simp [State.completeBar, hg, hb, ha]

variable (ha : b.acted = true)
include ha

/-- A phase that is not complete goes on. -/
theorem completeBar_goesOn (hc : ¬ (b.st = 1 ∧ b.arrived = b.count ∧ b.pending = 0)) :
    s.completeBar g.uid b.name = s.setGroup (g.setBar { b with acted := false }) := by
  have hc : (b.st = 1 && b.arrived = b.count && b.pending = 0) = false := by simpa [and_assoc] using hc
  simp [State.completeBar, hg, hb, ha, hc]

/-- A phase whose arrivals and bytes have all come is complete. -/
theorem completeBar_completes (hst : b.st = 1) (hc : b.arrived = b.count) (hp : b.pending = 0) :
    s.completeBar g.uid b.name =
      { s.setGroup (g.setBar { b with st := 2, phase := !b.phase, arrived := 0, pending := b.reload, acted := false }) with
        waves := s.waves.map (releasedAt g.uid b.name (s.clk + if g.cores.length = 1 then 1 else 12)) } := by
  have hdone : (b.st = 1 && b.arrived = b.count && b.pending = 0) = true := by simp [hst, hc, hp]
  simp only [State.completeBar, hg, hb, ha, hdone]
  rfl

/-- The waves after a completion, each at its place. -/
theorem getElem?_completeBar (hst : b.st = 1) (hc : b.arrived = b.count) (hp : b.pending = 0) {j : Nat} {v : Wave}
    (hv : (s.completeBar g.uid b.name).waves[j]? = some v) : ∃ w, s.waves[j]? = some w ∧
      v = releasedAt g.uid b.name (s.clk + if g.cores.length = 1 then 1 else 12) w := by
  rw [completeBar_completes hg hb ha hst hc hp, List.getElem?_map, Option.map_eq_some_iff] at hv
  obtain ⟨w, hw, rfl⟩ := hv
  exact ⟨w, hw, rfl⟩

end

/-- Settles O34: the checks of each word in their order, and the completion test of R219. -/
theorem barrierWords : Obligations.BarrierWords := by
  refine ⟨fun x h name hx => ⟨fun a => ⟨fun b => binit_inUse hx, fun hfree => ⟨binit_zero hx hfree, binit_full hx hfree,
    binit_arms hx hfree⟩⟩, fun d wait => ⟨barr_idle hx, fun b hb => ⟨barr_full hx hb, fun hopen => ?_⟩⟩,
    fun a => ⟨bexp_idle hx, fun b hb => ⟨bexp_overflows hx hb, bexp_adds hx hb⟩⟩,
    fun a => ⟨fun b => bwait_past hx, bwait_holds hx⟩, fun d a => btest_reports hx d a⟩,
    fun s g b hg hb => ⟨completeBar_idle hg hb, completeBar_goesOn hg hb, fun ha hst hc hp => ?_⟩⟩
  · refine ⟨_, late_lateWave x d.toNat _, ?_⟩
    rw [← arrive_eq]
    exact barr_arrives hx hb hopen
  · refine ⟨?_, ?_, fun j v hv => ?_⟩
    · rw [completeBar_completes hg hb ha hst hc hp]
    · rw [completeBar_completes hg hb ha hst hc hp]; exact List.length_map _
    · obtain ⟨w, hw, rfl⟩ := getElem?_completeBar hg hb ha hst hc hp hv
      exact ⟨w, hw, releasedAt_eq, fun hgr own hh hown => hold_releasedAt_waits hgr hh hown, hold_releasedAt_other⟩

end Sys2Proof.Barriers
end

section
/-! Reads, writes and atomics of homes whose pages are mapped (R323, R326 to R328). -/

namespace Sys2Proof.Home

open Sys2Proof Sys2Proof.Machine

/-! Translations that stand -/

section
variable {s t u : State}

/-- Translations that stand through two changes stand through both. -/
theorem SamePages.trans (h : SamePages s t) (h' : SamePages t u) : SamePages s u :=
  ⟨fun d => (h'.root d).trans (h.root d), fun d r => (h'.runs d r).trans (h.runs d r), h'.lost.trans h.lost⟩

/-- Without a change of a die or of memory in service no translation changes. -/
theorem SamePages.of_dies (hd : t.dies = s.dies) (hl : t.chLost = s.chLost) : SamePages s t := by
  have hdie (d : Nat) : t.die d = s.die d := by unfold State.die; rw [hd]
  exact ⟨fun d => by rw [hdie], fun d r => by rw [hdie], hl⟩

/-- Bytes that are mapped together are mapped one by one. -/
theorem mapped_byte {ia n i : Nat} (hm : s.mapped ia n) (hi : i < n) : s.mapped (ia + i) 1 := by
  intro j hj
  obtain rfl : j = 0 := by omega
  exact hm i hi

/-- The later bytes of a mapped run are mapped. -/
theorem mapped_tail {ia n : Nat} (hm : s.mapped ia (n + 1)) : s.mapped (ia + 1) n := by
  intro i hi
  rw [Nat.add_assoc, Nat.add_comm 1]
  exact hm (i + 1) (by omega)

/-- The cells of a run of bytes at a mapped place. -/
theorem mapped_cells {ia n : Nat} {bs : List Byte} (hm : s.mapped ia n) (hn : bs.length ≤ n) :
    ∀ c ∈ (bs.zipIdx.map fun b => (ia + b.2, b.1) : Store), s.mapped c.1 1 := by
  intro c hc
  obtain ⟨⟨b, i⟩, hb, rfl⟩ := List.mem_map.1 hc
  have hi := (List.mem_zipIdx hb).2.1
  exact mapped_byte hm (by omega)

/-- A step that changes no translation at a mapped cell changes none when it is done for mapped cells in turn. -/
theorem foldl_samePages {f : State → Nat × Byte → State} (hf : ∀ s c, s.mapped c.1 1 → SamePages s (f s c)) {cells : Store}
    {s : State} (hm : ∀ c ∈ cells, s.mapped c.1 1) : SamePages s (cells.foldl f s) := by
  induction cells generalizing s with
  | nil => exact .refl s
  | cons c r ih =>
    have hc := hf s c (hm c List.mem_cons_self)
    exact hc.trans (ih fun e he => hc.mapped (hm e (List.mem_cons_of_mem _ he)))

/-- The lookups of mapped cells change no translation. -/
theorem mappedAll_samePages {cells : Store} {s : State} (hm : ∀ c ∈ cells, s.mapped c.1 1) :
    SamePages s (s.mappedAll cells).1 := by
  induction cells generalizing s with
  | nil => exact .refl s
  | cons c r ih =>
    obtain ⟨t, k, hk, hsame⟩ := keyOf_mapped (hm c List.mem_cons_self)
    rw [State.mappedAll, hk]
    exact hsame.trans (ih fun e he => hsame.mapped (hm e (List.mem_cons_of_mem _ he)))

/-- Rewritten sectors change no translation. -/
theorem wroteHome_samePages (s : State) (name : Nat) (cells : Store) : SamePages s (s.wroteHome name cells) := by
  unfold State.wroteHome State.wrote
  split
  · exact .refl s
  · exact .of_dies rfl rfl

end

/-! Writes and reads -/

/-- Mapped cells are written under any name, and no translation changes. -/
theorem hWrite_named {cells : Store} {s : State} (hm : ∀ c ∈ cells, s.mapped c.1 1) (name : Nat) :
    ∃ t, s.hWrite cells name = (t, true) ∧ SamePages s t := by
  obtain ⟨u, hu⟩ : ∃ u, s.mappedAll cells = (u, true) := ⟨_, Prod.ext rfl (mappedAll_mapped hm)⟩
  have hsame : SamePages s u := by simpa [hu] using mappedAll_samePages hm
  refine ⟨_, by rw [State.hWrite, hu], hsame.trans (.trans ?_ (wroteHome_samePages _ name cells))⟩
  refine foldl_samePages (fun s c hc => ?_) fun c hc => hsame.mapped (hm c hc)
  obtain ⟨v, k, hk, hv⟩ := keyOf_mapped hc
  rw [hk]
  exact hv.trans (.of_dies rfl rfl)

/-- The write of mapped cells as one equation. -/
theorem hWrite_eq {cells : Store} {s : State} (hm : ∀ c ∈ cells, s.mapped c.1 1) (name : Nat) :
    s.hWrite cells name = ((s.hWrite cells name).1, true) := by
  obtain ⟨t, ht, -⟩ := hWrite_named hm name
  rw [ht]

/-- A write without bytes changes nothing. -/
theorem hWrite_nil (s : State) (name : Nat) : s.hWrite [] name = (s, true) := by
  have hbad (l : List Bad) : l.filterMap (Bad.wrote name []) = l := by
    induction l with
    | nil => rfl
    | cons b r ih => rw [List.filterMap_cons, ih]; rfl
  simp [State.hWrite, State.mappedAll, State.wroteHome, State.wrote, hbad]

/-- Mapped bytes are read, and no translation changes. -/
theorem hRead_mapped {n ia : Nat} {s : State} (hm : s.mapped ia n) :
    ∃ t bs, s.hRead ia n = (t, some bs) ∧ SamePages s t := by
  induction n generalizing ia s with
  | zero => exact ⟨s, [], rfl, .refl s⟩
  | succ n ih =>
    obtain ⟨t, k, hk, ht⟩ := keyOf_mapped (mapped_byte hm n.succ_pos)
    obtain ⟨u, bs, hu, hsame⟩ := ih (ht.mapped (mapped_tail hm))
    exact ⟨u, t.byteAt k :: bs, by rw [State.hRead, ← Nat.add_zero ia, hk]; simp only [Nat.add_zero, hu], ht.trans hsame⟩

/-- As many bytes as asked for. -/
theorem length_leBytes (n x : Nat) : (leBytes n x).length = n := by simp [leBytes]

/-- An atomic whose lanes are mapped is performed. -/
theorem atomicHome_mapped (op : AtOp) (ty : IType) {ls : List AtLane} {s : State}
    (hm : ∀ l ∈ ls, s.mapped l.addr (itypeBytes ty)) : ∃ t olds, s.atomicHome op ty ls = some (t, olds) := by
  induction ls generalizing s with
  | nil => exact ⟨s, [], rfl⟩
  | cons l r ih =>
    have hl := hm l List.mem_cons_self
    obtain ⟨u, m, hu, hsu⟩ := hRead_mapped hl
    obtain ⟨v, hv, huv⟩ := hWrite_named (mapped_cells (bs := leBytes (itypeBytes ty) (atNew op ty (leWord m) l.x l.y).toNat)
      (hsu.mapped hl) (length_leBytes ..).le) 0
    obtain ⟨t, olds, ht⟩ := ih fun k hk => (hsu.trans huv).mapped (hm k (List.mem_cons_of_mem _ hk))
    exact ⟨t, (l.lane, m) :: olds, by simp [State.atomicHome, hu, hv, ht]⟩

end Sys2Proof.Home
end

section
/-! HOME_ATOMIC and FLAG (O2, O11). -/

namespace Sys2Proof.Ordering

open Sys2Proof Sys2Proof.Machine Sys2Proof.Laws Sys2Proof.Landing

theorem exec_homeAtomic (home : Nat) (ans : EpAnswer) (s : State) :
    exec (.homeAtomic home ans) s = execHomeAtomic home ans s := rfl

theorem exec_flag (id : Nat) (s : State) : exec (.flag id) s = execFlag id s := rfl

/-! The head of a queue of atomics -/

section
variable {s : State} {home : Nat} {a : HAtom} {rest : List (Nat × HAtom)}
variable (hq : takeOut (fun h : Nat × HAtom => h.1 == home) s.hqs = some ((home, a), rest))
  (hpark : s.isParked (.atomic a.id) = false) (hpin : s.unpinned = true)
  (hslot : s.inSlot = true → ∀ l ∈ a.lanes, memoryHome l.addr = false)

include hpark hslot in
/-- Nothing holds the atomic back. -/
theorem atomic_unheld : (s.isParked (.atomic a.id) || (s.inSlot && a.lanes.any fun l => memoryHome l.addr)) = false := by
  simpa [hpark] using hslot

include hq hpark hpin hslot

/-- An atomic whose bytes are mapped, with no uncorrectable sector to read, is performed as one unit. -/
theorem homeAtomic_performs (hm : ∀ l ∈ a.lanes, s.mapped l.addr (itypeBytes a.t))
    (hbad : a.load ≠ 0 → s.badHome? a.t a.lanes = none) : ∃ t olds, s.atomicHome a.op a.t a.lanes = some (t, olds) ∧
      exec (.homeAtomic home .granted) s = .next (({ t with hqs := rest } : State).atomicDone a olds) := by
  obtain ⟨t, olds, ht⟩ := Home.atomicHome_mapped a.op a.t hm
  have hgo := atomic_unheld hpark hslot
  have hgood : (if a.load = 0 then none else s.badHome? a.t a.lanes) = none := by simpa using hbad
  refine ⟨t, olds, ht, (exec_homeAtomic ..).trans (execEvent_some ?_)⟩
  rw [pinning_unpinned hpin]
  simp only [hq, Option.bind_eq_bind, Option.bind_some, hgo, hgood, ht]
  rfl

/-- An atomic that would read an uncorrectable sector fails (R199). -/
theorem homeAtomic_spoiled {b : Bad} (hload : a.load ≠ 0) (hbad : s.badHome? a.t a.lanes = some b) :
    exec (.homeAtomic home .granted) s =
      .next (({ s with hqs := rest } : State).failAtomic a MEM_UNCORRECTABLE (memInfo a.code b.tier a.pc)) := by
  have hgo := atomic_unheld hpark hslot
  refine (exec_homeAtomic ..).trans (execEvent_some ?_)
  rw [pinning_unpinned hpin]
  simp only [hq, Option.bind_eq_bind, Option.bind_some, hgo, if_neg hload, hbad]
  rfl

/-- An endpoint may refuse an atomic (R344). -/
theorem homeAtomic_refused (hep : 8 ≤ home) : exec (.homeAtomic home .refused) s =
    .next (({ s with hqs := rest } : State).failAtomic a GRANT_FAILED (wd (16 * a.code + 8))) := by
  have hgo := atomic_unheld hpark hslot
  refine (exec_homeAtomic ..).trans (execEvent_some ?_)
  rw [pinning_unpinned hpin]
  simp only [hq, Option.bind_eq_bind, Option.bind_some, hgo, if_neg (Nat.not_lt.2 hep)]
  rfl

end

/-! Flags -/

/-- A flag whose counter is mapped is counted, and leaves the pending ones. -/
theorem flag_counts {s : State} {id : Nat} {f : Flag} (hf : s.flags.find? (·.id == id) = some f)
    (hpark : s.isParked (.flag id) = false) (hm : s.mapped f.ia 8) (hpin : s.unpinned = true)
    (hslot : s.inSlot = true → memoryHome f.ia = false) : ∃ t bs, s.hRead f.ia 8 = (t, some bs) ∧
      let up := t.hWrite ((leBytes 8 ((leNat bs + 1) % 2 ^ 64)).zipIdx.map fun b => (f.ia + b.2, b.1))
      exec (.flag id) s = .next { up.1 with flags := up.1.flags.filter fun x => x.id != id } := by
  obtain ⟨t, bs, ht, hsame⟩ := Home.hRead_mapped hm
  have hgo : (s.isParked (.flag id) || (s.inSlot && memoryHome f.ia)) = false := by simpa [hpark] using hslot
  have hw := Home.hWrite_mapped (Home.mapped_cells (bs := leBytes 8 ((leNat bs + 1) % 2 ^ 64)) (hsame.mapped hm)
    (Home.length_leBytes ..).le)
  refine ⟨t, bs, ht, (exec_flag ..).trans (execEvent_some ?_)⟩
  rw [pinning_unpinned hpin]
  simp only [hf, Option.bind_eq_bind, Option.bind_some, hgo, ht]
  rw [hw]
  rfl

end Sys2Proof.Ordering
end

section
/-! STAMP_PASS, ARRIVE and BARRIER_RELEASE (O7, O12, R219). -/

namespace Sys2Proof.Ordering

open Sys2Proof Sys2Proof.Machine Sys2Proof.Laws

theorem exec_stampPass (ku : Nat) (s : State) : exec (.stampPass ku) s = execStampPass ku s := rfl

theorem exec_arrive (u : Nat) (s : State) : exec (.arrive u) s = execArrive u s := rfl

theorem exec_barrierRelease (group name : Nat) (s : State) :
    exec (.barrierRelease group name) s = execBarrierRelease group name s := rfl

/-! The stamp -/

/-- The die other than `g`'s on which the next holder of a stamp runs. -/
def farHolder (s : State) (k : Kernel) (st : Stamp) (g : Group) : Option Nat :=
  if (k.nextHolder st).retired then none else (s.stampDie? k (k.nextHolder st)).filter fun d => d != g.die

/-- The kernel with its stamp at the next holder, or on the way to it. -/
def stamped (s : State) (k : Kernel) (st : Stamp) (far : Bool) : State :=
  s.setKernel { k with stamp := some { k.nextHolder st with moving := far || (k.nextHolder st).moving } }

/-- The state that a pass leaves: a stamp for another die goes there as a message (R207). -/
def stampSent (s : State) (k : Kernel) (st : Stamp) (g : Group) (w : Wave) (ku : Nat) : Option State :=
  match (if (k.nextHolder st).retired then none else s.stampDie? k (k.nextHolder st)) with
  | some d =>
    if d = g.die then some (stamped s k st false)
    else some ((stamped s k st true).sendRein g.die d w.uid (.stamp ku))
  | none => some (stamped s k st false)

section
variable {s : State} {k : Kernel} {st : Stamp} {g : Group} {w : Wave} {ku : Nat}

/-- A stamp that retires, or whose next holder is not placed or runs on the same die, passes at once. -/
theorem stampSent_near (hfar : farHolder s k st g = none) : stampSent s k st g w ku = some (stamped s k st false) := by
  unfold farHolder at hfar
  unfold stampSent
  cases hr : (k.nextHolder st).retired with
  | true => simp
  | false => cases hd : s.stampDie? k (k.nextHolder st) with
    | none => simp
    | some d =>
      obtain rfl : d = g.die := by simpa [hr, hd] using hfar
      simp

/-- A stamp whose next holder runs on another die sets out. -/
theorem stampSent_far {d : Nat} (hfar : farHolder s k st g = some d) :
    stampSent s k st g w ku = some ((stamped s k st true).sendRein g.die d w.uid (.stamp ku)) := by
  unfold farHolder at hfar
  unfold stampSent
  cases hr : (k.nextHolder st).retired with
  | true => simp [hr] at hfar
  | false =>
    obtain ⟨hd, hne⟩ : s.stampDie? k (k.nextHolder st) = some d ∧ d ≠ g.die := by
      simpa [hr, Option.filter_eq_some_iff] using hfar
    simp [hd, hne]

/-- The stamp passes once its holder has passed it or ended, and nothing older of the holder is under way. -/
theorem stampPass_passes {seq : Nat} {t : State} (hk : s.kernel? ku = some k) (hst : k.stamp = some st)
    (hret : st.retired = false) (hmov : st.moving = false) (hg : s.groups.find? (fun g => g.kernel == ku && g.grp == st.grp) = some g)
    (hw : s.waves.find? (fun w => w.group == g.uid && w.index == st.wave) = some w)
    (hseq : st.passing = some seq ∨ st.passing = none ∧ w.st = .ended ∧ seq = s.nextUid)
    (hout : ∀ e ∈ w.outbox, seq ≤ e.seq) (hdone : s.atomicsDone w.uid seq (fun _ => true) = true)
    (ht : stampSent s k st g w ku = some t) : exec (.stampPass ku) s = .next t := by
  have hdrained : ((w.outbox.any fun e => decide (e.seq < seq)) || !s.atomicsDone w.uid seq (fun _ => true)) = false := by
    simpa [hdone] using hout
  refine (exec_stampPass ..).trans (execEvent_some (Eq.trans ?_ ht))
  simp only [hk, hst, hret, hmov, hg, hw, Option.bind_eq_bind, Option.bind_some, Bool.or_self, Bool.false_eq_true, if_false]
  obtain hp | ⟨hp, he, rfl⟩ := hseq
  · simp only [hp, hdrained, Bool.false_eq_true, if_false]
    rfl
  · simp only [hp, he, hdrained, beq_self_eq_true, if_true, Bool.false_eq_true, if_false]
    rfl

end

/-! Arrivals and releases -/

/-- The oldest BARR of a wave arrives once its older entries have drained. -/
theorem arrive_arrives {s : State} {u n q : Nat} {w : Wave} {g : Group} {r : List (Nat × Nat)} (hw : s.wave? u = some w)
    (hg : s.group? w.group = some g) (ha : w.arrives = (n, q) :: r) (hout : ∀ e ∈ w.outbox, q ≤ e.seq) :
    exec (.arrive u) s = .next ((s.setWave { w with arrives := r }).arriveAt g.uid n) :=
  (exec_arrive ..).trans (execEvent_some (by simpa [State.arriveHead?, hw, hg, ha] using hout))

/-- A wave of a group that a completed phase of a barrier lets go on at `clk`. -/
def goesOn (clk group name : Nat) (w : Wave) : Bool := w.group == group && match w.hold with
  | .barrier n _ (some c) => n == name && decide (c ≤ clk)
  | _ => false

/-- The waves that go on are those held by that barrier until a clk that has come. -/
theorem goesOn_iff {clk group name : Nat} {w : Wave} : goesOn clk group name w = true ↔
    w.group = group ∧ ∃ c own, w.hold = .barrier name own (some c) ∧ c ≤ clk := by
  unfold goesOn
  rw [Bool.and_eq_true, beq_iff_eq]
  refine and_congr_right fun _ => ?_
  split
  · next n own c hh =>
    rw [Bool.and_eq_true, beq_iff_eq, decide_eq_true_iff]
    refine ⟨fun ⟨hn, hc⟩ => ⟨c, own, hn ▸ hh, hc⟩, fun ⟨c', own', h', hc⟩ => ?_⟩
    rw [hh] at h'
    cases h'
    exact ⟨rfl, hc⟩
  · next hh => exact ⟨nofun, fun ⟨c, own, h', _⟩ => (hh _ _ _ h').elim⟩

/-- The waves of a completed phase go on, and nothing else changes. -/
theorem barrierRelease_releases {s : State} {group name : Nat} (hgo : s.waves.any (goesOn s.clk group name) = true) :
    exec (.barrierRelease group name) s = .next { s with
      waves := s.waves.map fun w => if goesOn s.clk group name w then { w with hold := .none } else w } :=
  (exec_barrierRelease ..).trans (execEvent_some (if_pos hgo))

/-- Where a wave waits for the release of a completed phase, those whose clk has come go on, and no other changes. -/
theorem barrierRelease_waves {s : State} {group name c : Nat} {v : Wave} {own : Bool} (hv : v ∈ s.waves)
    (hg : v.group = group) (hh : v.hold = .barrier name own (some c)) (hc : c ≤ s.clk) : ∃ t, exec (.barrierRelease group name) s = .next t ∧
      t = { s with waves := t.waves } ∧ t.waves.length = s.waves.length ∧ ∀ (i : Nat) (w : Wave), s.waves[i]? = some w →
        (∀ c own, w.group = group → w.hold = .barrier name own (some c) → c ≤ s.clk →
          t.waves[i]? = some { w with hold := .none }) ∧
        ((w.group ≠ group ∨ ∀ c own, w.hold = .barrier name own (some c) → s.clk < c) → t.waves[i]? = some w) := by
  refine ⟨_, barrierRelease_releases (List.any_eq_true.2 ⟨v, hv, goesOn_iff.2 ⟨hg, c, own, hh, hc⟩⟩), rfl, List.length_map _,
    fun i w hw => ⟨fun c own hg hh hc => ?_, fun hno => ?_⟩⟩
  · rw [List.getElem?_map, hw, Option.map_some, if_pos (goesOn_iff.2 ⟨hg, c, own, hh, hc⟩)]
  · rw [List.getElem?_map, hw, Option.map_some, if_neg fun hgo => ?_]
    obtain ⟨hg, c, own, hh, hc⟩ := goesOn_iff.1 hgo
    exact hno.elim (· hg) fun hlater => absurd hc (Nat.not_le.2 (hlater c own hh))

end Sys2Proof.Ordering
end

section
/-! GIRTH_DELIVERY (O8; R207, R338, R344, R346). -/

namespace Sys2Proof.Ordering

open Sys2Proof Sys2Proof.Machine Sys2Proof.Laws Sys2Proof.Landing

theorem exec_girthDelivery (x : Arrival) (s : State) : exec (.girthDelivery x) s = execGirthDelivery x s := rfl

section
variable {s : State} {id : Nat} {p : Packet} (hp : s.packets.find? (·.id == id) = some p) (ha : p.arrived = false)
  (hn : s.packetNext p = true) (hpin : s.unpinned = true)
include hp ha hn hpin

/-- A packet whose destination cannot be reached fails. -/
theorem girthDelivery_fails {r : Nat} (hr : s.packetReach p = .fail r) :
    exec (.girthDelivery ⟨id, .granted⟩) s = .next (s.failPacket p r) :=
  (exec_girthDelivery ..).trans (execEvent_some (by rw [pinning_unpinned hpin]; simp [hp, ha, hn, hr]))

/-- An endpoint may refuse a numbered packet (R344). -/
theorem girthDelivery_refused (hd : 8 ≤ p.dst) (hnum : p.numbered = true) :
    exec (.girthDelivery ⟨id, .refused⟩) s = .next (s.losePacket p GRANT_FAILED (wd (16 * p.code + 8))) :=
  (exec_girthDelivery ..).trans (execEvent_some (by
    rw [pinning_unpinned hpin]; simp [hp, ha, hn, Nat.not_lt.2 hd, hnum]))

variable (hr : s.packetReach p = .ok)
include hr

/-- The request of a line stays at its endpoint until it is acknowledged. -/
theorem girthDelivery_read {name : Nat} (hk : p.kind = .read name) :
    exec (.girthDelivery ⟨id, .granted⟩) s = .next (s.arrivedAt p) :=
  (exec_girthDelivery ..).trans (execEvent_some (by
    rw [pinning_unpinned hpin]; simp [hp, ha, hn, hr, hk, Home.hWrite_nil]))

variable {t : State} (hw : s.hWrite p.cells p.seq = (t, true))
include hw

/-- A marker is gathered. -/
theorem girthDelivery_marker {m : Nat} (hk : p.kind = .marker m) :
    exec (.girthDelivery ⟨id, .granted⟩) s = .next { t with packets := t.packets.filter fun q => q.id != id } :=
  (exec_girthDelivery ..).trans (execEvent_some (by
    rw [pinning_unpinned hpin]; simp only [hp, ha, hn, hr, hk, hw, Option.bind_eq_bind, Option.bind_some]; rfl))

/-- A write packet is acknowledged at once by a die, and stays at an endpoint until it is acknowledged. -/
theorem girthDelivery_write (hk : p.kind = .write) :
    let gone : State := { t with packets := t.packets.filter fun q => q.id != id }
    exec (.girthDelivery ⟨id, .granted⟩) s =
      .next (if p.dst < 8 then (gone.passEntries p).1.ackTo p.wave (gone.passEntries p).2 else t.arrivedAt p) :=
  (exec_girthDelivery ..).trans (execEvent_some (by
    rw [pinning_unpinned hpin]; simp only [hp, ha, hn, hr, hk, hw, Option.bind_eq_bind, Option.bind_some]; rfl))

/-- A chunk's bytes are accounted where they land. -/
theorem girthDelivery_chunk {op : Nat} (hk : p.kind = .chunk op) :
    let gone : State := { t with packets := t.packets.filter fun q => q.id != id }
    exec (.girthDelivery ⟨id, .granted⟩) s =
      .next ((if p.dst < 8 then gone else t.arrivedAt p).landed op p.cells p.bytes) :=
  (exec_girthDelivery ..).trans (execEvent_some (by
    rw [pinning_unpinned hpin]; simp only [hp, ha, hn, hr, hk, hw, Option.bind_eq_bind, Option.bind_some]; rfl))

end

/-- A packet whose destination can be reached and is mapped does what its kind says. -/
theorem girthDelivery_acts {s : State} {id : Nat} {p : Packet} (hp : s.packets.find? (·.id == id) = some p)
    (ha : p.arrived = false) (hn : s.packetNext p = true) (hpin : s.unpinned = true) (hr : s.packetReach p = .ok)
    (hm : ∀ c ∈ p.cells, s.mapped c.1 1) :
    let t := (s.hWrite p.cells p.seq).1
    let gone : State := { t with packets := t.packets.filter fun q => q.id != id }
    (∀ m, p.kind = .marker m → exec (.girthDelivery ⟨id, .granted⟩) s = .next gone) ∧
    (p.kind = .write → exec (.girthDelivery ⟨id, .granted⟩) s =
      .next (if p.dst < 8 then (gone.passEntries p).1.ackTo p.wave (gone.passEntries p).2 else t.arrivedAt p)) ∧
    (∀ op, p.kind = .chunk op → exec (.girthDelivery ⟨id, .granted⟩) s =
      .next ((if p.dst < 8 then gone else t.arrivedAt p).landed op p.cells p.bytes)) := by
  have hw := Home.hWrite_eq hm p.seq
  exact ⟨fun m => girthDelivery_marker hp ha hn hpin hr hw, girthDelivery_write hp ha hn hpin hr hw,
    fun op => girthDelivery_chunk hp ha hn hpin hr hw⟩

end Sys2Proof.Ordering
end

section
/-! FLUSH and REIN_DELIVERY (O9, O10; R207, R339, R344 to R346). -/

namespace Sys2Proof.Ordering

open Sys2Proof Sys2Proof.Machine Sys2Proof.Laws

theorem exec_flush (src dst : Nat) (s : State) : exec (.flush src dst) s = execFlush src dst s := rfl

theorem exec_reinDelivery (src : Nat) (x : Arrival) (s : State) :
    exec (.reinDelivery src x) s = execReinDelivery src x s := rfl

/-- The head of a rein queue runs between the ends of that queue. -/
theorem ends_of_reinHead? {s : State} {src dst : Nat} {m : Rein} (hm : s.reinHead? src dst = some m) :
    m.src = src ∧ m.dst = dst := by
  simpa using List.find?_some hm

/-! What a message does, kind by kind -/

/-- The states in which a message acts at its destination satisfy `acts`, each kind of message in its own. -/
def ReinActs (src dst : Nat) (s : State) (m : Rein) (acts : State → Prop) : Prop :=
  (∀ r, m.kind = .request r → acts (if dst < 8 then s.enqueue dst r else { s with ebq := s.ebq ++ [r] })) ∧
  (∀ a, m.kind = .atomic a → acts { s with hqs := s.hqs ++ [(dst, a)] }) ∧
  (∀ ia pc c copy seq, m.kind = .flag ia pc c copy seq → acts { s with
    flags := s.flags ++ [{ id := m.id, home := dst, ia := ia, wave := m.wave, copy := copy }] }) ∧
  (∀ gid g, m.kind = .ret gid → s.grant? gid = some g → acts (s.homeReturn g)) ∧
  (∀ ep ia len k, m.kind = .epRet ep ia len k → acts (s.epReturn dst ep ia len k)) ∧
  (∀ k, m.kind = .stamp k → acts (s.stampArrives k)) ∧ (∀ k, m.kind = .complete k → acts (s.reported k src)) ∧
  (∀ q, m.kind = .release q → acts s) ∧
  (∀ a t, m.kind = .answer a → s.takeAnswer a = some t → acts t)

/-- What `State.reinAct` gives, kind by kind. -/
theorem reinActs_reinAct {s : State} {m : Rein} {acts : State → Prop} {src dst : Nat} (hs : m.src = src) (hd : m.dst = dst)
    (h : ∀ t, s.reinAct m = some t → acts t) : ReinActs src dst s m acts := by
  subst hs hd
  exact ⟨fun r hk => h _ (by simp [State.reinAct, hk]), fun a hk => h _ (by simp [State.reinAct, hk]),
    fun ia pc c copy seq hk => h _ (by simp [State.reinAct, hk]), fun gid g hk hg => h _ (by simp [State.reinAct, hk, hg]),
    fun ep ia len k hk => h _ (by simp [State.reinAct, hk]), fun k hk => h _ (by simp [State.reinAct, hk]),
    fun k hk => h _ (by simp [State.reinAct, hk]), fun q hk => h _ (by simp [State.reinAct, hk]),
    fun a t hk ht => h _ (by simp [State.reinAct, hk, ht])⟩

/-- A head whose markers are sent, or not needed, and gathered waits for no packet. -/
theorem gathered {s : State} {src dst : Nat} {m : Rein}
    (hclean : m.flushed = true ∨ m.need = [] ∨ ∀ u ∈ s.used, (u.1 == src && u.2.1 == dst) = false)
    (hgath : ∀ n ∈ m.need, ∀ p ∈ s.packets, p.id = n → p.arrived = true) :
    (!m.flushed && !m.need.isEmpty && (s.used.any fun u => u.1 == src && u.2.1 == dst) ||
      m.need.any fun n => s.packets.any fun p => p.id == n && !p.arrived) = false := by
  have hdirty : (!m.flushed && !m.need.isEmpty && (s.used.any fun u => u.1 == src && u.2.1 == dst)) = false := by
    obtain h | h | h := hclean
    · simp [h]
    · simp [h]
    · simp [List.any_eq_false.2 fun u hu => Bool.eq_false_iff.1 (h u hu)]
  have hwait : (m.need.any fun n => s.packets.any fun p => p.id == n && !p.arrived) = false := by
    simpa using hgath
  rw [hdirty, hwait]; rfl

section
variable {s : State} {src dst : Nat} {m : Rein} (hm : s.reinHead? src dst = some m)
include hm

/-- The head of a queue that orders packets sends its markers down every path used since the last ones. -/
theorem flush_sends (hf : m.flushed = false) (hneed : m.need ≠ []) :
    exec (.flush src dst) s = .next (({ s with
      used := s.used.filter fun u => !(u.1 == src && u.2.1 == dst),
      reins := s.reins.map fun x => if x.id == m.id then { x with flushed := true } else x } : State).sendMarkers m
        (s.used.filter fun u => u.1 == src && u.2.1 == dst)) :=
  (exec_flush ..).trans (execEvent_some (by simp [hm, hf, hneed, dropIf]))

/-- A head that cannot reach its destination fails. -/
theorem reinDelivery_fails {r : Nat} {t : State} (hr : s.messageReach m = .fail r)
    (ht : ({ s with reins := s.reins.filter fun x => x.id != m.id } : State).reinFail m r = some t) :
    exec (.reinDelivery src ⟨dst, .granted⟩) s = .next t :=
  (exec_reinDelivery ..).trans (execEvent_some (by
    simp only [hm, Option.bind_eq_bind, Option.bind_some, hr]; exact ht))

variable (hr : s.messageReach m = .ok)
  (hclean : m.flushed = true ∨ m.need = [] ∨ ∀ u ∈ s.used, (u.1 == src && u.2.1 == dst) = false)
  (hgath : ∀ n ∈ m.need, ∀ p ∈ s.packets, p.id = n → p.arrived = true)
include hr hclean hgath

/-- At a die, or at the saddle die, the head acts. -/
theorem reinDelivery_acts {t : State} (hd : dst < 8 ∨ dst = saddle)
    (ht : ({ s with reins := s.reins.filter fun x => x.id != m.id } : State).reinAct m = some t) :
    exec (.reinDelivery src ⟨dst, .granted⟩) s = .next t := by
  have hgo := gathered hclean hgath
  have hdie : (decide (dst < 8) || dst == saddle) = true := by simpa using hd
  refine (exec_reinDelivery ..).trans (execEvent_some ?_)
  simp only [hm, Option.bind_eq_bind, Option.bind_some, hr, hgo, hdie, Bool.false_eq_true, if_false, if_true]
  exact ht

section
variable {s1 t : State} {m1 : Rein} (hep : 8 ≤ dst) (hns : dst ≠ saddle) (hnum : s.numberRein m = some s1)
  (hfind : s1.reins.find? (·.id == m.id) = some m1)
include hep hns hnum hfind

/-- At an endpoint the head, which has its number, acts and stays until it is acknowledged. -/
theorem reinDelivery_endpoint
    (ht : ({ s1 with reins := s1.reins.filter fun x => x.id != m.id } : State).reinAct m1 = some t) :
    exec (.reinDelivery src ⟨dst, .granted⟩) s = .next (t.stayUnacked m1) := by
  have hgo := gathered hclean hgath
  have hdie : (decide (dst < 8) || dst == saddle) = false := by simpa [hns] using hep
  refine (exec_reinDelivery ..).trans (execEvent_some ?_)
  simp only [hm, Option.bind_eq_bind, Option.bind_some, hr, hgo, hdie, hnum, hfind, Bool.false_eq_true, if_false]
  exact congrArg (Option.map (·.stayUnacked m1)) ht

/-- An endpoint may refuse the head (R344). -/
theorem reinDelivery_refused (ht : ({ s1 with reins := s1.reins.filter fun x => x.id != m.id } : State).loseRein m1
    GRANT_FAILED (fun c _ => wd (16 * c + 8)) = some t) : exec (.reinDelivery src ⟨dst, .refused⟩) s = .next t := by
  have hgo := gathered hclean hgath
  have hdie : (decide (dst < 8) || dst == saddle) = false := by simpa [hns] using hep
  refine (exec_reinDelivery ..).trans (execEvent_some ?_)
  simp only [hm, Option.bind_eq_bind, Option.bind_some, hr, hgo, hdie, hnum, hfind, Bool.false_eq_true, if_false]
  exact ht

end

end

/-- A message that has no number takes its endpoint's next one. -/
theorem numberRein_new {s s1 : State} {m : Rein} {n : Nat} (hnum : m.num = none) (hn : s.epNumber m.dst = some (s1, n)) :
    ∃ t, s.numberRein m = some t ∧ ∀ x ∈ t.reins, x.id = m.id → x.num = some n := by
  refine ⟨_, by simp only [State.numberRein, hnum, hn]; rfl, fun x hx hid => ?_⟩
  obtain ⟨y, hy, rfl⟩ := List.mem_map.1 hx
  by_cases hyid : (y.id == m.id) = true
  · simp [hyid]
  · rw [if_neg hyid] at hid
    exact absurd (beq_iff_eq.2 hid) hyid

/-- Settles O54: each event by its own lemma above, in a state in which nothing holds it back. -/
theorem messagesAct : Obligations.MessagesAct := by
  intro s
  refine ⟨fun home a rest hq hpark hpin hslot => ⟨homeAtomic_performs hq hpark hpin hslot,
      fun b => homeAtomic_spoiled hq hpark hpin hslot, homeAtomic_refused hq hpark hpin hslot⟩,
    fun id f => flag_counts, fun ku k st g w seq hk hst hret hmov hg hw hseq hout hdone => ?_,
    fun u w g n q r => arrive_arrives, fun group name v c own => barrierRelease_waves,
    fun id p hp ha hn hpin => ⟨girthDelivery_acts hp ha hn hpin, fun name hk hr => girthDelivery_read hp ha hn hpin hr hk,
      fun r => girthDelivery_fails hp ha hn hpin, girthDelivery_refused hp ha hn hpin⟩,
    fun src dst m hm => ?_⟩
  · have passes {t : State} := stampPass_passes (t := t) hk hst hret hmov hg hw hseq hout hdone
    exact ⟨fun hfar => passes (stampSent_near hfar), fun d hfar => passes (stampSent_far hfar)⟩
  · obtain ⟨hsrc, hdst⟩ := ends_of_reinHead? hm
    refine ⟨flush_sends hm, fun hr hclean hgath => ⟨fun hd => ?_, fun s1 m1 hep hns hnum hfind hd1 hs1 _ => ⟨?_, ?_⟩, ?_⟩,
      fun r t => reinDelivery_fails hm⟩
    · exact reinActs_reinAct hsrc hdst fun t => reinDelivery_acts hm hr hclean hgath hd
    · exact reinActs_reinAct hs1 hd1 fun t => reinDelivery_endpoint hm hr hclean hgath hep hns hnum hfind
    · exact fun t => reinDelivery_refused hm hr hclean hgath hep hns hnum hfind
    · exact fun _ _ n s1 hnum hn => numberRein_new hnum (hdst ▸ hn)

end Sys2Proof.Ordering
end

section
/-! CHINIT, CHPUSH, CHPOP and CHSTAT (R231 to R236). -/

namespace Sys2Proof.Channels

open Sys2Proof Sys2Proof.Machine Sys2Proof.Laws Sys2Proof.Control

/-! Channels by their names -/

/-- A channel is found by its name. -/
theorem ch_of_chan? {g : Group} {n : Nat} {c : Chan} (hc : g.chan? n = some c) : c.ch = n := by
  simpa using List.find?_some hc

/-- The test for a channel that CHINIT may not initialise (R231, reason 3): it is there and busy. -/
theorem busy_iff (x : Iss) (n : Nat) :
    ((x.g.chan? n).any fun c => c.fill != 0 || c.v != 0 ||
      x.s.ops.any fun o => o.group == x.g.uid && o.chans.contains n) = true ↔
    ∃ c, x.g.chan? n = some c ∧ x.chanBusy c := by
  cases hc : x.g.chan? n with
  | none => simp
  | some c => simp [Iss.chanBusy, ch_of_chan? hc, or_assoc]

/-! Words of a register window -/

/-- A run of words written from a slot: those of the run are read back, the others stand as they were. -/
theorem wget_winSetWords (ws : List Word) (m : Words) (slot k : Nat) : wget (winSetWords m slot ws) k =
    if slot ≤ k ∧ k < slot + ws.length then ws.getD (k - slot) 0 else wget m k := by
  induction ws generalizing m slot with
  | nil => rw [if_neg (by simp)]; rfl
  | cons v r ih =>
    rw [winSetWords, ih]
    rcases Nat.lt_trichotomy k slot with hlt | rfl | hgt
    · rw [if_neg (by omega), if_neg (by omega), wget_wset_ne _ _ _ _ (by omega)]
    · rw [if_neg (by omega), if_pos ⟨le_refl k, by simp⟩, wget_wset_same]; simp
    · obtain ⟨j, rfl⟩ : ∃ j, k = slot + 1 + j := ⟨k - (slot + 1), by omega⟩
      rw [wget_wset_ne _ _ _ _ (by omega), show slot + 1 + j - (slot + 1) = j by omega,
        show slot + 1 + j - slot = j + 1 by omega, List.getD_cons_succ]
      exact if_congr (by simp only [List.length_cons]; omega) rfl rfl

/-- Bytes past the end of a list are zeros of its number. -/
theorem leNat_getD (n : Nat) (bs : List Byte) : leNat ((List.range n).map fun k => bs.getD k 0) = leNat (bs.take n) := by
  induction n generalizing bs with
  | zero => rfl
  | succ n ih =>
    rw [List.range_succ_eq_map, List.map_cons, List.map_map]
    have htail : (fun k => bs.getD k 0) ∘ Nat.succ = fun k => bs.tail.getD k 0 := by
      funext k; cases bs <;> simp
    rw [htail, leNat, ih]
    cases bs with
    | nil => simp [leNat]
    | cons b r => rfl

/-! CHINIT's operand (R231) -/

/-- CHINIT's word gives the entry size and the count of entries, its other bits being 0 (R231, reason 1). -/
def ChanShape (v : Word) : Prop := fld v 40 24 = 0 ∧ v.getLsbD 23 = false ∧ fld v 20 3 ≤ 4 ∧ fld v 24 16 ≠ 0

/-- The channel's bytes lie in the scratchpad (R231, reason 2). -/
def ChanFits (x : Iss) (v : Word) : Prop :=
  fld v 0 20 % 16 = 0 ∧ fld v 0 20 + fld v 24 16 * (16 * 2 ^ fld v 20 3) ≤ x.scr

/-- The test of reason 1. -/
theorem misshapen_iff (v : Word) :
    (fld v 40 24 != 0 || v.getLsbD 23 || decide (4 < fld v 20 3) || decide (fld v 24 16 = 0)) = true ↔ ¬ ChanShape v := by
  simp only [ChanShape, Bool.or_eq_true, bne_iff_ne, decide_eq_true_eq, Classical.not_and_iff_not_or_not, Bool.not_eq_false,
    not_le, ne_eq, not_not, or_assoc]

/-- The test of reason 2. -/
theorem misfit_iff (x : Iss) (v : Word) :
    (fld v 0 20 % 16 != 0 || decide (x.scr < fld v 0 20 + fld v 24 16 * (16 * 2 ^ fld v 20 3))) = true ↔ ¬ ChanFits x v := by
  simp only [ChanFits, Bool.or_eq_true, bne_iff_ne, decide_eq_true_eq, Classical.not_and_iff_not_or_not, not_le, ne_eq]

/-- A well-formed word passes the test of reason 1. -/
theorem not_misshapen {v : Word} (hs : ChanShape v) :
    ¬ (fld v 40 24 != 0 || v.getLsbD 23 || decide (4 < fld v 20 3) || decide (fld v 24 16 = 0)) = true :=
  fun hm => (misshapen_iff v).1 hm hs

/-- A range within the scratchpad passes that of reason 2. -/
theorem not_misfit {x : Iss} {v : Word} (hf : ChanFits x v) :
    ¬ (fld v 0 20 % 16 != 0 || decide (x.scr < fld v 0 20 + fld v 24 16 * (16 * 2 ^ fld v 20 3))) = true :=
  fun hm => (misfit_iff x v).1 hm hf

/-- A channel that is not busy passes that of reason 3. -/
theorem not_busy {x : Iss} {n : Nat} (hfree : ∀ c, x.g.chan? n = some c → ¬ x.chanBusy c) :
    ¬ ((x.g.chan? n).any fun c => c.fill != 0 || c.v != 0 ||
      x.s.ops.any fun o => o.group == x.g.uid && o.chans.contains n) = true := fun hb =>
  let ⟨c, hc, hb⟩ := (busy_iff x n).1 hb
  hfree c hc hb

/-! What CHPUSH offers (R234) -/

section
variable {x : Iss} {a : VCode} {b : SReg}

/-- The channels that CHPUSH's mask names. -/
def pushNames (x : Iss) (b : SReg) : List Nat := (List.range 16).filter fun n => (x.sreg b.toNat).getLsbD n

/-- A channel is named by its bit of the mask. -/
theorem mem_pushNames {n : Nat} : n ∈ pushNames x b ↔ n < 16 ∧ (x.sreg b.toNat).getLsbD n = true := by simp [pushNames]

/-- The bytes of CHPUSH's register. -/
def pushBytes (x : Iss) (a : VCode) : List Byte := (List.range 32).flatMap fun l => leBytes 8 (x.vreg a.toNat l).toNat

/-- The entry that CHPUSH offers to a channel. -/
def pushEntry (x : Iss) (a : VCode) (n : Nat) : OEnt :=
  x.entry 31 (.sp x.g.uid) (.chan n ((pushBytes x a).take (((x.g.chan? n).map (·.size)).getD 0)))

/-- The entries offered are those of the channels named, each with as many bytes as an entry of its channel. -/
theorem mem_pushEntries {e : OEnt} (hall : ∀ n ∈ pushNames x b, x.g.chan? n ≠ none) :
    e ∈ (pushNames x b).map (pushEntry x a) ↔ ∃ n c, n ∈ pushNames x b ∧ x.g.chan? n = some c ∧
      e = x.entry 31 (.sp x.g.uid) (.chan n ((pushBytes x a).take c.size)) := by
  rw [List.mem_map]
  constructor
  · rintro ⟨n, hn, rfl⟩
    obtain ⟨c, hc⟩ := Option.ne_none_iff_exists'.1 (hall n hn)
    exact ⟨n, c, hn, hc, by rw [pushEntry, hc]; rfl⟩
  · rintro ⟨n, c, hn, hc, rfl⟩
    exact ⟨n, hn, by rw [pushEntry, hc]; rfl⟩

end

/-! What CHPOP claims (R235) -/

/-- The count of the entry that the next CHPOP claims. -/
def nextClaim (c : Chan) : BitVec 32 := c.q + BitVec.ofNat 32 c.claims

/-- The bytes of that entry. -/
def claimBytes (x : Iss) (c : Chan) : List Byte :=
  (List.range c.size).map fun i => x.s.byteAt (x.g.spKey (c.at_ (nextClaim c) + i))

/-- The words of that entry, as its bytes fill the lanes of a register. -/
def claimWords (x : Iss) (c : Chan) : List Word :=
  (List.range 32).map fun l => wd (leNat (((claimBytes x c).drop (8 * l)).take 8))

/-- The wave with the entry in CHPOP's register, which the scoreboard holds. -/
def poppedWave (x : Iss) (d : VCode) (n : Nat) (c : Chan) : Wave :=
  { x.w with win := winSetWords x.w.win (x.frame.vslot d.toNat) (claimWords x c),
             vpend := x.w.vpend ++ [⟨x.s.nextUid, (x.frame.locs? (.v d.toNat 1)).getD [], some (n, nextClaim c)⟩] }

section
variable {x : Iss}

/-- A byte of the entry that CHPOP claims; bytes past its end are 0. -/
theorem claimBytes_getD (c : Chan) (k : Nat) : (claimBytes x c).getD k 0 =
    if k < c.size then x.s.byteAt (x.g.spKey (c.base + (nextClaim c).toNat % c.cap * c.size + k)) else 0 := by
  unfold claimBytes Chan.at_
  split
  · next hk => simp [hk]
  · next hk => simp [hk]

/-- Each lane of CHPOP's register holds eight bytes of the entry. -/
theorem wget_poppedWave {d : VCode} {n : Nat} {c : Chan} {l : Nat} (hl : l < 32) :
    wget (poppedWave x d n c).win (x.frame.vslot d.toNat + l) =
      wd (leNat ((List.range 8).map fun k => (claimBytes x c).getD (8 * l + k) 0)) := by
  have hlen : (claimWords x c).length = 32 := by simp [claimWords]
  have hbytes : (List.range 8).map (fun k => (claimBytes x c).getD (8 * l + k) 0) =
      (List.range 8).map fun k => ((claimBytes x c).drop (8 * l)).getD k 0 := by simp
  rw [poppedWave, wget_winSetWords, if_pos ⟨by omega, by omega⟩, Nat.add_sub_cancel_left, hbytes, leNat_getD]
  simp [claimWords, hl]

/-- The other words of the window stand as they were. -/
theorem wget_poppedWave_ne {d : VCode} {n : Nat} {c : Chan} {k : Nat}
    (hk : k < x.frame.vslot d.toNat ∨ x.frame.vslot d.toNat + 32 ≤ k) :
    wget (poppedWave x d n c).win k = wget x.w.win k := by
  have hlen : (claimWords x c).length = 32 := by simp [claimWords]
  rw [poppedWave, wget_winSetWords, if_neg (by omega)]

end

/-! The words -/

section
variable {x : Iss} {h : Hd} (hx : x.live)
include hx

/-! CHINIT (R233) -/

section
variable {d : BitVec 4} {a : SReg}

/-- A malformed word traps. -/
theorem chinit_misshapen (hs : ¬ ChanShape (x.sreg a.toNat)) :
    x.traps (.chinit h d a) h CHANNEL_MISUSE (chanInfo d.toNat 1) :=
  fun hr => word_traps hx hr rfl (if_pos ((misshapen_iff _).2 hs))

variable (hs : ChanShape (x.sreg a.toNat))
include hs

/-- A range that leaves the scratchpad traps. -/
theorem chinit_misfit (hf : ¬ ChanFits x (x.sreg a.toNat)) :
    x.traps (.chinit h d a) h CHANNEL_MISUSE (chanInfo d.toNat 2) :=
  fun hr => word_traps hx hr rfl ((if_neg (not_misshapen hs)).trans (if_pos ((misfit_iff x _).2 hf)))

variable (hf : ChanFits x (x.sreg a.toNat))
include hf

/-- A busy channel traps. -/
theorem chinit_busy {c : Chan} (hc : x.g.chan? d.toNat = some c) (hb : x.chanBusy c) :
    x.traps (.chinit h d a) h CHANNEL_MISUSE (chanInfo d.toNat 3) :=
  fun hr => word_traps hx hr rfl ((if_neg (not_misshapen hs)).trans
    ((if_neg (not_misfit hf)).trans (if_pos ((busy_iff x _).2 ⟨c, hc, hb⟩))))

variable (hfree : ∀ c, x.g.chan? d.toNat = some c → ¬ x.chanBusy c)
include hfree

/-- A new channel waits for a physical one (R229). -/
theorem chinit_full (hc : x.g.chan? d.toNat = none) (hfull : 16 ≤ x.s.physChans x.g) : x.waits (.chinit h d a) h :=
  fun hr => word_waits hx hr rfl ((if_neg (not_misshapen hs)).trans
    ((if_neg (not_misfit hf)).trans
      ((if_neg (not_busy hfree)).trans (if_pos (by simpa [hc] using hfull)))))

/-- Otherwise the channel is empty. -/
theorem chinit_makes (hroom : x.g.chan? d.toNat ≠ none ∨ x.s.physChans x.g < 16) :
    let v := x.sreg a.toNat
    x.does (.chinit h d a) h (x.s.setGroup (x.g.setChan
      { ch := d.toNat, base := fld v 0 20, esz := fld v 20 3, cap := fld v 24 16, p := 0, q := 0, v := 0, claims := 0,
        written := [], read := [] })) x.w :=
  fun hr => word_done hx hr rfl ((if_neg (not_misshapen hs)).trans
    ((if_neg (not_misfit hf)).trans
      ((if_neg (not_busy hfree)).trans
        (if_neg (by simpa [imp_iff_not_or] using hroom)))))

end

/-! CHPUSH (R234) -/

section
variable {a : VCode} {b : SReg}

/-- The lowest channel named without a CHINIT is reported. -/
theorem chpush_missing {n : Nat} (hn : n ∈ pushNames x b) (hc : x.g.chan? n = none)
    (hlow : ∀ m ∈ pushNames x b, m < n → x.g.chan? m ≠ none) :
    x.traps (.chpush h a b) h CHANNEL_MISUSE (chanInfo n 0) := fun hr => by
  have hfind : (pushNames x b).find? (fun n => (x.g.chan? n).isNone) = some n :=
    find?_lowest (List.pairwise_lt_range.filter _) hn (by simp [hc]) fun m hm hlt =>
      by simpa using Option.isSome_iff_ne_none.2 (hlow m hm hlt)
  refine word_traps hx hr rfl ?_
  unfold pushNames at hfind
  simp only [hfind]

/-- A mask of no channel does nothing. -/
theorem chpush_none (he : pushNames x b = []) (hr : x.ready (usesOf (.chpush h a b)) h) :
    exec (.chpush h a b) x.s = .next (x.after (.chpush h a b) h (.vfix 1) (x.active h).length x.s x.w .next) := by
  refine word_done hx hr rfl ?_
  unfold pushNames at he
  simp only [he]; rfl

/-- Channels that are all there are offered their entries, and the wave is held. -/
theorem chpush_offers (hall : ∀ n ∈ pushNames x b, x.g.chan? n ≠ none) (hne : pushNames x b ≠ [])
    (hr : x.ready (usesOf (.chpush h a b)) h) :
    exec (.chpush h a b) x.s = .next (x.after (.chpush h a b) h (.vfix 1) (x.active h).length (x.named 1)
      { x.w with outbox := x.w.outbox ++ (pushNames x b).map (pushEntry x a), hold := .chpush x.s.nextUid } .next) := by
  have hfind : (pushNames x b).find? (fun n => (x.g.chan? n).isNone) = none := by simpa using hall
  have hemp : (pushNames x b).isEmpty = false := by simpa using hne
  refine word_done hx hr rfl ?_
  unfold pushNames at hfind hemp
  simp only [hfind, hemp]; rfl

end

/-! CHPOP (R235) -/

section
variable {d : VCode} {a : BitVec 4}

/-- A channel without a CHINIT traps. -/
theorem chpop_missing (hc : x.g.chan? a.toNat = none) :
    x.traps (.chpop h d a) h CHANNEL_MISUSE (chanInfo a.toNat 0) :=
  fun hr => word_traps hx hr rfl (by simp only [hc])

variable {c : Chan} (hc : x.g.chan? a.toNat = some c)
include hc

/-- A channel with no entry left to claim makes the word wait. -/
theorem chpop_empty (he : c.fill ≤ c.claims) : x.waits (.chpop h d a) h :=
  fun hr => word_waits hx hr rfl (by simp only [hc]; exact if_pos he)

/-- Otherwise the next entry is claimed, and its bytes go to the register. -/
theorem chpop_claims (he : c.claims < c.fill) (hr : x.ready (usesOf (.chpop h d a)) h) :
    exec (.chpop h d a) x.s = .next (x.after (.chpop h d a) h (.vfix 1) (x.active h).length
      ((x.named 1).setGroup (x.g.setChan { c with claims := c.claims + 1 })) (poppedWave x d a.toNat c) .next) :=
  word_done hx hr rfl (by simp only [hc]; exact if_neg (Nat.not_le.2 he))

end

/-! CHSTAT (R236) -/

/-- CHSTAT reports the channel in S[d]. -/
theorem chstat_reports (d : SReg) (a : BitVec 4) : x.does (.chstat h d a) h (x.named 1)
    (Barriers.lateWave x d.toNat (x.s.chanWord x.g.uid a.toNat (x.g.chan? a.toNat))) :=
  fun hr => word_done hx hr rfl rfl

end

/-- Settles O35: the four words in the order of their checks. -/
theorem channelWords : Obligations.ChannelWords := by
  refine fun x h hx => ⟨fun d a => ⟨chinit_misshapen hx, chinit_misfit hx, fun hs hf => ⟨fun c => chinit_busy hx hs hf,
    fun hc hfull => chinit_full hx hs hf (by simp [hc]) hc hfull, chinit_makes hx hs hf⟩⟩,
    fun a b => ⟨fun n hn hc hlow => ?_, fun hno hr => ?_, fun hall hsome hr => ?_⟩,
    fun d a => ⟨chpop_missing hx, fun c => chpop_empty hx, fun c hc he hr => ?_⟩, fun d a => ?_⟩
  · exact chpush_missing hx (mem_pushNames.2 hn) hc fun m hm hlt => hlow m hlt (mem_pushNames.1 hm)
  · exact chpush_none hx (List.eq_nil_iff_forall_not_mem.2 fun n hn => hno n (mem_pushNames.1 hn)) hr
  · have hall : ∀ n ∈ pushNames x b, x.g.chan? n ≠ none := fun n hn => hall n (mem_pushNames.1 hn)
    obtain ⟨n, hn⟩ := hsome
    refine ⟨_, chpush_offers hx hall (List.ne_nil_of_mem (mem_pushNames.2 hn)) hr, fun e => ?_⟩
    have hes := mem_pushEntries (a := a) (e := e) hall
    simp only [mem_pushNames] at hes
    exact hes
  · refine ⟨_, chpop_claims hx hc he hr, rfl, fun l hl => ?_, fun k hk => wget_poppedWave_ne hk⟩
    have hv := wget_poppedWave (x := x) (d := d) (n := a.toNat) (c := c) hl
    simp only [claimBytes_getD] at hv
    exact hv
  · refine ⟨_, chstat_reports hx d a, ?_⟩
    have hlate := Barriers.late_lateWave x d.toNat (x.s.chanWord x.g.uid a.toNat (x.g.chan? a.toNat))
    cases hc : x.g.chan? a.toNat with
    | none => rwa [hc] at hlate
    | some c => rwa [hc] at hlate

end Sys2Proof.Channels
end

section
/-! COPY, COPY2, GATH, SCAT and ROUTE (R239 to R247). -/

namespace Sys2Proof.Copies

open Sys2Proof Sys2Proof.Machine Sys2Proof.Laws Sys2Proof.Control Sys2Proof.Regions

/-! The parts of a copy word -/

/-- What a well-formed control word says (Table 11.5). -/
def ctlRead (v : Word) : Ctl :=
  { foff := 8 * fld v 24 40, flg := v.getLsbD 17, freg := fld v 12 5, acc := ctlBar v }

/-- The test of a control word. -/
theorem ctlOk_iff (v : Word) : (decide (fld v 18 6 = 0) && !(v.getLsbD 17 && decide (24 ≤ fld v 12 5))) = true ↔ ctlOk v := by
  simp [ctlOk, imp_iff_not_or]

/-- A well-formed control word is read. -/
theorem ctlOf_ok {v : Word} (hv : ctlOk v) : ctlOf v = .ok (ctlRead v) := by
  unfold ctlOf; rw [(ctlOk_iff v).2 hv]; rfl

/-- A malformed one is a trap. -/
theorem ctlOf_malformed {v : Word} (hv : ¬ ctlOk v) : ctlOf v = .error (.trap RESERVED_FIELD 0) := by
  unfold ctlOf; rw [Bool.eq_false_iff.2 fun ht => hv ((ctlOk_iff v).1 ht)]; rfl

/-- A range that is empty or lies in its store passes. -/
theorem inRange_ok {code size : Nat} {r : Nat × Nat} (hr : r.2 = 0 ∨ r.1 + r.2 ≤ size) : inRange code size r = .ok () := by
  unfold inRange; rw [show (decide (r.2 = 0) || decide (r.1 + r.2 ≤ size)) = true by simpa using hr]; rfl

section
variable {x : Iss}

/-- An endpoint that may be used passes its checks. -/
theorem endpoint_ok {e : Endp} {sink : Bool} {range : Option (Nat × Nat)} {len : Nat} {r : End}
    (hs : x.side e sink range len r) : x.endpoint e sink range len = .ok r := by
  cases e with
  | region c =>
    obtain ⟨g, hg, hr, rfl⟩ := hs
    have hu : x.usable c.toNat (!sink) (if sink then [.x] else [.x, .s, .a]) (if sink then 5 else 4) = .ok g := by
      cases sink with
      | true => exact usable_holds hg.1 (by rw [hg.2]; rfl) _ _
      | false => exact usable_reads hg (by cases g.kind <;> rfl) _
    simp only [Iss.endpoint, hu, ok_bind]
    cases range with
    | none => rfl
    | some p => simp only [inRange_ok (hr p rfl)]; rfl
  | sp =>
    obtain ⟨hr, rfl⟩ := hs
    simp only [Iss.endpoint]
    cases range with
    | none => rfl
    | some p => simp only [inRange_ok (hr p rfl)]; rfl
  | chan c =>
    obtain ⟨hsome, ⟨ch, hc, hm, hl⟩, rfl⟩ := hs
    obtain ⟨p, rfl⟩ := Option.ne_none_iff_exists'.1 hsome
    simp only [Iss.endpoint, hc, hm, hl, decide_true, Option.isSome_some, need_true_bind]

/-- A flag that follows the flag rule passes it. -/
theorem flagRule_ok {v : Word} {d : Endp} {dst : End} {flag : Option (Nat × Nat)} (hf : x.flagOf v dst flag) :
    x.flagRule (ctlRead v) d dst = .ok flag := by
  cases dst with
  | grant gid =>
    obtain ⟨g, hg, hf⟩ := hf
    unfold Iss.flagRule
    simp only [hg]
    split at hf
    case isTrue hflg =>
      obtain ⟨f, hh, hk, hl, hhome, rfl⟩ := hf
      have hu : x.usable (fld v 12 5) false [.a] 8 = .ok f := usable_holds hh (by rw [hk]; rfl) _ _
      have hin : inBounds (fld v 12 5) f.len 8 [(0, 8 * fld v 24 40)] = .ok () := Accesses.inBounds_one_within _ hl
      simp only [ctlRead, hflg, if_true, hu, hin, hhome, ok_bind, beq_self_eq_true, need_true_bind]
    case isFalse hflg =>
      obtain ⟨hhome, rfl⟩ := hf
      simp only [ctlRead, hflg, hhome, Bool.false_eq_true, if_false, decide_true, need_true_bind]
  | sp | chan c =>
    obtain ⟨hflg, rfl⟩ := hf
    unfold Iss.flagRule
    simp only [ctlRead, hflg, Bool.not_false, need_true_bind]

end

/-- Two channels that two sides name differ. -/
theorem channels_differ {x : Iss} {i j : BitVec 4} {dst src : Option (Nat × Nat)} {len : Nat} {ed es : End}
    (hd : x.side (.chan i) true dst len ed) (ha : x.side (.chan j) false src len es)
    (hne : ∀ m n, ed = .chan m → es = .chan n → m ≠ n) : (i != j) = true := by
  obtain ⟨-, -, rfl⟩ := hd
  obtain ⟨-, -, rfl⟩ := ha
  exact bne_iff_ne.2 fun hij => hne _ _ rfl rfl (by rw [hij])

/-! COPY, COPY2, GATH and SCAT, check by check -/

/-- The operation that a copy word adds. -/
def copyOp (x : Iss) (kind : OpKind) (dst src : End) (nums : List Nat) (len : Nat) (acc : Option Nat)
    (flag : Option (Nat × Nat)) : CopyOp :=
  { CopyOp.new x x.s.nextUid kind dst src nums len with acc := acc, flag := flag }

/-- It is one that has just issued. -/
theorem issued_copyOp (x : Iss) (kind : OpKind) (dst src : End) (nums : List Nat) (len : Nat) (acc : Option Nat)
    (flag : Option (Nat × Nat)) : Issued x (copyOp x kind dst src nums len acc flag) kind dst src nums len acc flag where
  name := ⟨rfl, rfl, rfl⟩
  owner := ⟨rfl, rfl, rfl, rfl⟩
  what := ⟨rfl, rfl, rfl, rfl, rfl, rfl, rfl⟩
  progress := ⟨rfl, rfl, rfl, rfl, rfl⟩

/-- What a copy word does once its checks have passed (R237, R241, R242). -/
def copyEnd (x : Iss) (o : CopyOp) : Eff :=
  if 64 ≤ x.core.engineQ.length then .wait
  else if 0 < o.len then .done (x.queued o) x.w .next
  else if o.flag.isNone then .done x.s x.w .next
  else .done { x.named 1 with ops := x.s.ops ++ [{ o with started := true }] } x.w .next

section
variable {x : Iss} {kind : OpKind} {d a : Endp} {b c : SReg} {desc : (Nat → Word) → Chk Desc}

/-- A malformed control word ends the word. -/
theorem copy_malformed (hctl : ¬ ctlOk (x.sreg c.toNat)) : x.copy kind d a b c desc = .trap RESERVED_FIELD 0 := by
  unfold Iss.copy; rw [ctlOf_malformed hctl]; rfl

variable (hctl : ctlOk (x.sreg c.toNat))
include hctl

/-- So does a malformed descriptor. -/
theorem copy_descriptor {e : Eff} (hd : desc (fun i => x.sreg (b.toNat + i)) = .error e) : x.copy kind d a b c desc = e := by
  unfold Iss.copy; rw [ctlOf_ok hctl, ok_bind, hd]; rfl

variable {ds : Desc} (hds : desc (fun i => x.sreg (b.toNat + i)) = .ok ds)
include hds

/-- One channel on both sides is a trap, once the destination has passed. -/
theorem copy_sameChannel {ch : BitVec 4} {r : End} (hd : x.side (.chan ch) true ds.dst ds.len r) :
    x.copy kind (.chan ch) (.chan ch) b c desc = .trap CHANNEL_MISUSE (chanInfo ch.toNat 7) := by
  unfold Iss.copy
  rw [ctlOf_ok hctl, ok_bind, hds, ok_bind, endpoint_ok hd, ok_bind]
  simp only [bne_self_eq_false]; rfl

/-- A word whose checks all pass. -/
theorem copy_passes {ed es : End} {flag : Option (Nat × Nat)} (hd : x.side d true ds.dst ds.len ed)
    (ha : x.side a false ds.src ds.len es) (hne : ∀ m n, ed = .chan m → es = .chan n → m ≠ n)
    (hix : ∀ p, ds.index = some p → p.2 = 0 ∨ p.1 + p.2 ≤ x.scr)
    (hbar : ctlBar (x.sreg c.toNat) ≠ none → ds.len ≤ pendingMax) (hf : x.flagOf (x.sreg c.toNat) ed flag) :
    x.copy kind d a b c desc = copyEnd x (copyOp x kind ed es ds.nums ds.len (ctlBar (x.sreg c.toNat)) flag) := by
  unfold Iss.copy
  rw [ctlOf_ok hctl, ok_bind, hds, ok_bind, endpoint_ok hd, ok_bind]
  extract_lets fromSource
  suffices hsource : (fromSource ()).eff = copyEnd x (copyOp x kind ed es ds.nums ds.len (ctlBar (x.sreg c.toNat)) flag) by
    split
    · rw [channels_differ hd ha hne]; exact hsource
    · exact hsource
  unfold fromSource
  rw [endpoint_ok ha, ok_bind]
  extract_lets fromFlag fromBarrier
  suffices hbarrier : (fromBarrier ()).eff = copyEnd x (copyOp x kind ed es ds.nums ds.len (ctlBar (x.sreg c.toNat)) flag) by
    split
    · next r hr => rw [inRange_ok (hix r hr)]; exact hbarrier
    · exact hbarrier
  unfold fromBarrier
  suffices hflag : (fromFlag ()).eff = copyEnd x (copyOp x kind ed es ds.nums ds.len (ctlBar (x.sreg c.toNat)) flag) by
    split
    · next bar hacc =>
      rw [decide_eq_true (hbar (Option.ne_none_iff_exists'.2 ⟨bar, hacc⟩))]; exact hflag
    · exact hflag
  unfold fromFlag
  rw [flagRule_ok hf, ok_bind]
  unfold copyEnd Iss.engineRoom
  by_cases hfull : 64 ≤ x.core.engineQ.length
  · rw [if_pos (by simpa using hfull), if_pos hfull]; rfl
  rw [if_neg (by simpa using hfull), if_neg hfull]
  show Chk.eff (if 0 < ds.len then _ else if flag.isNone then _ else _) =
    if 0 < ds.len then _ else if flag.isNone then _ else _
  by_cases hlen : 0 < ds.len
  · rw [if_pos hlen, if_pos hlen]; rfl
  rw [if_neg hlen, if_neg hlen]
  by_cases hnone : flag.isNone = true
  · rw [if_pos hnone, if_pos hnone]; rfl
  · rw [if_neg hnone, if_neg hnone]; rfl

end

/-! The words -/

section
variable {x : Iss} {h : Hd} {i : Instr} {kind : OpKind} {d a : Endp} {b c : SReg} {desc : (Nat → Word) → Chk Desc}
variable (hx : x.live) (hi : exec i x.s = execWord i h .scalar x.s fun x _ => x.copy kind d a b c desc)
include hx hi

/-- A copy word whose descriptor is well formed. -/
theorem copies_word {ds : Desc} (hds : desc (fun i => x.sreg (b.toNat + i)) = .ok ds) :
    x.copies i h kind d a (x.sreg c.toNat) ds.nums ds.len ds.dst ds.src ds.index := by
  intro ed es flag hctl hd ha hne hix hbar hf
  have heff := copy_passes hctl hds hd ha hne hix hbar hf (kind := kind)
  refine ⟨fun hfull hr => word_waits hx hr hi (heff.trans (if_pos hfull)), fun hroom => ?_⟩
  have hroom := heff.trans (if_neg (Nat.not_le.2 hroom))
  refine ⟨fun hlen hnone hr => word_done hx hr hi ?_, _, issued_copyOp .., fun hlen hr => word_done hx hr hi ?_,
    fun hlen hsome hr => word_done hx hr hi ?_⟩
  · exact hroom.trans ((if_neg (Nat.not_lt.2 hlen.le)).trans (if_pos (Option.isNone_iff_eq_none.2 hnone)))
  · exact hroom.trans (if_pos hlen)
  · exact hroom.trans ((if_neg (Nat.not_lt.2 hlen.le)).trans (if_neg fun hn => hsome (Option.isNone_iff_eq_none.1 hn)))

/-- A malformed control word traps. -/
theorem word_malformed (hctl : ¬ ctlOk (x.sreg c.toNat)) : x.traps i h RESERVED_FIELD 0 :=
  fun hr => word_traps hx hr hi (copy_malformed hctl)

/-- A malformed descriptor traps. -/
theorem word_descriptor (hctl : ctlOk (x.sreg c.toNat)) {code : Nat} {info : Word}
    (hd : desc (fun i => x.sreg (b.toNat + i)) = .error (.trap code info)) : x.traps i h code info :=
  fun hr => word_traps hx hr hi (copy_descriptor hctl hd)

end

/-! Descriptors (R246) -/

section
variable (r : Nat → Word)

/-- A well-formed descriptor of COPY. -/
theorem descCopy_ok (hz : fld (r 2) 32 32 = 0) : descCopy r = .ok
    { nums := [(r 0).toNat, (r 1).toNat], len := fld (r 2) 0 32, dst := some ((r 0).toNat, fld (r 2) 0 32),
      src := some ((r 1).toNat, fld (r 2) 0 32), index := none } := by
  unfold descCopy; rw [decide_eq_true hz]; rfl

/-- A malformed one. -/
theorem descCopy_malformed (hz : fld (r 2) 32 32 ≠ 0) : descCopy r = .error (.trap RESERVED_FIELD 9) := by
  unfold descCopy; rw [decide_eq_false hz]; rfl

/-- A well-formed descriptor of COPY2: the extents of the two ranges are those of their last row. -/
theorem descCopy2_ok (hz : fld (r 2) 56 8 = 0) (hx : fld (r 2) 0 24 ≠ 0) (hy : fld (r 2) 24 16 ≠ 0) (hp : fld (r 2) 40 16 ≠ 0) :
    descCopy2 r = .ok
      { nums := [(r 0).toNat, (r 1).toNat, fld (r 2) 0 24, fld (r 2) 24 16, fld (r 2) 40 16, fld (r 3) 0 32, fld (r 3) 32 32,
          fld (r 4) 0 32, fld (r 4) 32 32],
        len := fld (r 2) 0 24 * fld (r 2) 24 16 * fld (r 2) 40 16,
        dst := some ((r 0).toNat,
          (fld (r 2) 40 16 - 1) * fld (r 3) 32 32 + (fld (r 2) 24 16 - 1) * fld (r 3) 0 32 + fld (r 2) 0 24),
        src := some ((r 1).toNat,
          (fld (r 2) 40 16 - 1) * fld (r 4) 32 32 + (fld (r 2) 24 16 - 1) * fld (r 4) 0 32 + fld (r 2) 0 24),
        index := none } := by
  have hok : (decide (fld (r 2) 56 8 = 0) && fld (r 2) 0 24 != 0 && fld (r 2) 24 16 != 0 && fld (r 2) 40 16 != 0) = true := by
    simp [hz, hx, hy, hp]
  unfold descCopy2; simp only [hok]; rfl

/-- A well-formed descriptor of GATH, or with `scat` of SCAT. -/
theorem descIndexed_ok (scat : Bool) (hcode : fld (r 1) 0 4 ≤ 8) (hio : fld (r 2) 32 32 % 4 = 0) :
    let z := 2 ^ fld (r 1) 0 4
    let n := fld (r 2) 0 32
    let so := (r 1).toNat - fld (r 1) 0 4
    descIndexed scat r = .ok
      { nums := [(r 0).toNat, so, fld (r 2) 32 32, n, z], len := n * z, dst := if scat then none else some ((r 0).toNat, n * z),
        src := if scat then some (so, n * z) else none, index := some (fld (r 2) 32 32, 4 * n) } := by
  unfold descIndexed; simp only [hcode, hio, decide_true, need_true_bind]

/-- A malformed one: no element is larger than 256 bytes. -/
theorem descIndexed_malformed (scat : Bool) (hcode : 8 < fld (r 1) 0 4) :
    descIndexed scat r = .error (.trap RESERVED_FIELD 9) := by
  unfold descIndexed; simp only [Nat.not_le.2 hcode, decide_false, need_false_bind]

end

/-! ROUTE (R247) -/

section
variable {x : Iss} {h : Hd} {sd sa b c : SReg}

/-- The operands of ROUTE are well formed and lie in the scratchpad. -/
structure RouteFits (x : Iss) (v : Word) (ci co cd : Nat) : Prop where
  word : fld v 48 16 = 0 ∧ fld v 0 16 ≠ 0 ∧ fld v 16 4 ≠ 0 ∧ fld v 16 4 ≤ 8 ∧ fld v 20 12 ≠ 0 ∧ fld v 32 16 ≠ 0
  aligned : ci % 16 = 0 ∧ co % 16 = 0 ∧ cd % 16 = 0
  input : ci + 2 * fld v 0 16 * fld v 16 4 ≤ x.scr
  output : co + 4 * fld v 20 12 * (fld v 32 16 + 1) ≤ x.scr
  drops : cd + 8 * fld v 0 16 * fld v 16 4 ≤ x.scr

/-- The operation that ROUTE adds. -/
def routeOp (x : Iss) (sd : SReg) (v : Word) (ci co cd : Nat) (acc : Option Nat) : CopyOp :=
  let t := fld v 0 16
  let k := fld v 16 4
  let e := fld v 20 12
  let cp := fld v 32 16
  { CopyOp.new x x.s.nextUid .route .sp .sp [ci, co, cd, t, k, e, cp] (4 * e * (cp + 1) + 8 * t * k) with
    acc := acc, sreg := sd.toNat }


/-- It is one that has just issued. -/
theorem issued_routeOp (x : Iss) (sd : SReg) (v : Word) (ci co cd : Nat) (acc : Option Nat) :
    Issued x (routeOp x sd v ci co cd acc) .route .sp .sp
      [ci, co, cd, fld v 0 16, fld v 16 4, fld v 20 12, fld v 32 16]
      (4 * fld v 20 12 * (fld v 32 16 + 1) + 8 * fld v 0 16 * fld v 16 4) acc none where
  name := ⟨rfl, rfl, rfl⟩
  owner := ⟨rfl, rfl, rfl, rfl⟩
  what := ⟨rfl, rfl, rfl, rfl, rfl, rfl, rfl⟩
  progress := ⟨rfl, rfl, rfl, rfl, rfl⟩

/-- What ROUTE does once its checks have passed. -/
def routeEnd (x : Iss) (o : CopyOp) : Eff :=
  if 64 ≤ x.core.engineQ.length then .wait
  else .done (x.queued o) { x.w with vpend := x.w.vpend ++ [⟨x.s.nextUid, [.sreg o.sreg], none⟩] } .next

/-- It waits while the engine queue is full. -/
theorem routeEnd_eq (x : Iss) (o : CopyOp) :
    Chk.eff (if !x.engineRoom then .error .wait
      else .ok (.done (x.queued o) { x.w with vpend := x.w.vpend ++ [⟨x.s.nextUid, [.sreg o.sreg], none⟩] } .next)) =
    routeEnd x o := by
  unfold routeEnd Iss.engineRoom
  by_cases hfull : 64 ≤ x.core.engineQ.length
  · rw [if_pos (by simpa using hfull), if_pos hfull]; rfl
  · rw [if_neg (by simpa using hfull), if_neg hfull]; rfl

section
variable {v : Word} {ci co cd : Nat} (hx : x.live) (hctl : ctlOk (x.sreg c.toNat))
  (hflag : (x.sreg c.toNat).getLsbD 17 = false) (hv : x.sreg b.toNat = v) (hci : (x.sreg sa.toNat).toNat = ci)
  (hco : (x.sreg (sa.toNat + 1)).toNat = co) (hcd : (x.sreg (sa.toNat + 2)).toNat = cd) (hfit : RouteFits x v ci co cd)
  (hbar : ctlBar (x.sreg c.toNat) ≠ none →
    4 * fld v 20 12 * (fld v 32 16 + 1) + 8 * fld v 0 16 * fld v 16 4 ≤ pendingMax)
include hx hctl hflag hv hci hco hcd hfit hbar

/-- A ROUTE whose checks pass. -/
theorem route_passes (hr : x.ready (usesOf (.route h sd sa b c)) h) :
    exec (.route h sd sa b c) x.s = .next (effState x (usesOf (.route h sd sa b c)) h .scalar (x.active h).length
      (routeEnd x (routeOp x sd v ci co cd (ctlBar (x.sreg c.toNat))))) := by
  obtain ⟨⟨hz, ht, hk, hk8, he, hcp⟩, ⟨hi16, ho16, hd16⟩, hin, hout, hdrops⟩ := hfit
  have hword : (decide (fld v 48 16 = 0) && fld v 0 16 != 0 && fld v 16 4 != 0 && decide (fld v 16 4 ≤ 8) &&
      fld v 20 12 != 0 && fld v 32 16 != 0) = true := by simp [hz, ht, hk, hk8, he, hcp]
  have halign : (decide (ci % 16 = 0) && decide (co % 16 = 0) && decide (cd % 16 = 0)) = true := by simp [hi16, ho16, hd16]
  have hsum : 4 * fld v 20 12 * (fld v 32 16 + 1) = 4 * fld v 20 12 * fld v 32 16 + 4 * fld v 20 12 := by ring
  have hcomm : 4 * fld v 32 16 * fld v 20 12 = 4 * fld v 20 12 * fld v 32 16 := by ring
  have hids : inRange 31 x.scr (ci, 2 * fld v 0 16 * fld v 16 4) = .ok () := inRange_ok (.inr hin)
  have hdropped : inRange 31 x.scr (cd, 8 * fld v 0 16 * fld v 16 4) = .ok () := inRange_ok (.inr hdrops)
  have hlists : inRange 31 x.scr (co, 4 * fld v 20 12 * fld v 32 16) = .ok () := inRange_ok (.inr (by omega))
  have hcounts : inRange 31 x.scr (co + 4 * fld v 32 16 * fld v 20 12, 4 * fld v 20 12) = .ok () :=
    inRange_ok (.inr (by omega))
  refine (execWord_ready hx hr .scalar _).trans
    (congrArg (fun e => (.next (effState x (usesOf (.route h sd sa b c)) h .scalar (x.active h).length e) : Out)) ?_)
  have hflg : (!(ctlRead (x.sreg c.toNat)).flg) = true := by simpa [ctlRead] using hflag
  rw [← routeEnd_eq]
  simp only [ctlOf_ok hctl, ok_bind, hv, hci, hco, hcd, hword, halign, need_true_bind, hids, hlists, hcounts, hdropped, hflg]
  split
  · next bar hacc =>
    rw [decide_eq_true (hbar (Option.ne_none_iff_exists'.2 ⟨bar, hacc⟩)), need_true_bind]; rfl
  · rfl

/-- A ROUTE whose checks pass waits while the engine queue is full. -/
theorem route_waits_or_enters :
    let o := routeOp x sd v ci co cd (ctlBar (x.sreg c.toNat))
    (64 ≤ x.core.engineQ.length → x.waits (.route h sd sa b c) h) ∧
    (x.core.engineQ.length < 64 → x.does (.route h sd sa b c) h (x.queued o)
      { x.w with vpend := x.w.vpend ++ [⟨x.s.nextUid, [.sreg sd.toNat], none⟩] }) := by
  refine ⟨fun hfull hr => ?_, fun hroom hr => ?_⟩
  · rw [route_passes hx hctl hflag hv hci hco hcd hfit hbar hr, routeEnd, if_pos hfull]; rfl
  · rw [route_passes hx hctl hflag hv hci hco hcd hfit hbar hr, routeEnd, if_neg (Nat.not_le.2 hroom)]; rfl

end

end

/-- Settles O36: the descriptors of the four copy words, their checks in order, and ROUTE. -/
theorem copyWords : Obligations.CopyWords := by
  refine fun x h d a b c hx => ⟨fun hz => ?_, fun hz hpx hpy hpz => ?_, fun hcode hio => ⟨?_, ?_⟩, fun hctl => ?_,
    fun hctl hz => ?_, fun hctl hcode => ?_, fun ch hctl hz hd ha hside => ?_, fun sd sa => ?_⟩
  · exact copies_word hx rfl (descCopy_ok _ hz)
  · exact copies_word hx rfl (descCopy2_ok _ hz hpx hpy hpz)
  · exact copies_word hx rfl (descIndexed_ok _ false hcode hio)
  · exact copies_word hx rfl (descIndexed_ok _ true hcode hio)
  · exact ⟨word_malformed hx rfl hctl, word_malformed hx rfl hctl, word_malformed hx rfl hctl, word_malformed hx rfl hctl⟩
  · exact word_descriptor hx rfl hctl (descCopy_malformed _ hz)
  · exact ⟨word_descriptor hx rfl hctl (descIndexed_malformed _ false hcode),
      word_descriptor hx rfl hctl (descIndexed_malformed _ true hcode)⟩
  · subst hd ha
    exact fun hr => word_traps hx hr rfl (copy_sameChannel hctl (descCopy_ok _ hz) hside)
  · intro i v t k e cp ci co cd len hctl hflag hz ht hk hk8 he hcp hci hco hcd hin hout hdrops hbar
    have ⟨hwait, henter⟩ := route_waits_or_enters (h := h) (sd := sd) hx hctl hflag rfl rfl rfl rfl
      ⟨⟨hz, ht, hk, hk8, he, hcp⟩, ⟨hci, hco, hcd⟩, hin, hout, hdrops⟩ hbar
    exact ⟨hwait, fun hroom => ⟨_, issued_routeOp .., rfl, henter hroom⟩⟩

end Sys2Proof.Copies
end

section
/-! COPY_FIRE, COPY_START, SEGMENT_START and CHPUSH_ACCEPT (R230, R237, R238, R244). -/

namespace Sys2Proof.Engines

open Sys2Proof Sys2Proof.Machine Sys2Proof.Laws

theorem exec_copyFire (op : Nat) (s : State) : exec (.copyFire op) s = execCopyFire op s := rfl
theorem exec_copyStart (die core : Nat) (s : State) : exec (.copyStart die core) s = execCopyStart die core s := rfl
theorem exec_segmentStart (op : Nat) (s : State) : exec (.segmentStart op) s = execSegmentStart op s := rfl
theorem exec_chpushAccept (u ch : Nat) (s : State) : exec (.chpushAccept u ch) s = execChpushAccept u ch s := rfl

/-! Operations by their names -/

section
variable {s : State} {id : Nat} {o : CopyOp}

/-- An operation that is found by a name has it. -/
theorem id_of_op? (ho : s.op? id = some o) : o.id = id := by
  simpa using List.find?_some ho

/-- An operation that exists is read back once it is replaced by one of its name. -/
theorem op?_setOp (ho : s.op? id = some o) {p : CopyOp} (hp : p.id = o.id) : (s.setOp p).op? id = some p := by
  obtain rfl := hp.trans (id_of_op? ho)
  exact Regions.find?_replace_same CopyOp.id ho

/-- An operation that is found after a replacement by its name is the new one. -/
theorem eq_of_op?_setOp {p : CopyOp} (ho : (s.setOp o).op? o.id = some p) : p = o := by
  obtain ⟨q, -, rfl⟩ := List.mem_map.1 (List.mem_of_find?_eq_some ho)
  by_cases hq : (q.id == o.id) = true
  · exact if_pos hq
  · have hid := id_of_op? ho
    rw [if_neg hq] at hid
    exact absurd (beq_iff_eq.2 hid) hq

/-! Firing -/

/-- An operation on channels fires once its source holds its entries and its destination has room (R238). -/
theorem copyFire_fires {g : Group} (ho : s.op? id = some o) (hf : o.fired = false) (hc : o.chans ≠ [])
    (hq : id ∈ (s.core o.core).engineQ) (hb : s.blockedAhead (s.core o.core) o = false) (hs : s.groupStopped o.group = false)
    (hg : s.group? o.group = some g) (hcan : g.canFire o = true) : exec (.copyFire id) s = .next (s.fire g o) := by
  obtain rfl := id_of_op? ho
  have hgo : (o.fired || o.chans.isEmpty || !(s.core o.core).engineQ.contains o.id || s.blockedAhead (s.core o.core) o ||
      s.groupStopped o.group) = false := by simp [hf, hc, hq, hb, hs]
  refine (exec_copyFire ..).trans (execEvent_some ?_)
  simp only [ho, State.tryFire, hgo, hg, hcan, Option.bind_eq_bind, Option.bind_some, Bool.false_eq_true, if_false, if_true]

/-! Starting -/

/-- The first operation that may start does. -/
theorem copyStart_starts {die core : Nat} (ho : s.nextStart? (die * 40 + core) = some o) :
    exec (.copyStart die core) s = .next (s.start o) :=
  (exec_copyStart ..).trans (execEvent_some (by simp [ho]))

/-- An operation that has started is marked so. -/
theorem started_of_start {p : CopyOp} (hp : (s.start o).op? o.id = some p) : p.started = true := by
  rw [eq_of_op?_setOp hp]

/-- It has left its core's queue (log entry 28). -/
theorem engineQ_start (hc : o.core < s.cores.length) :
    ((s.start o).core o.core).engineQ = (s.core o.core).engineQ.filter fun n => n != o.id := by
  show ((s.setCore o.core _).core o.core).engineQ = _
  rw [Issuing.core_setCore, if_pos ⟨rfl, hc⟩]
  rfl

/-- The head of a queue that may start is the first to, while fewer than four run. -/
theorem nextStart?_head {c : Nat} {rest : List Nat}
    (hfour : (s.ops.filter fun p => p.core == c && p.started && p.kind != .drain).length < 4)
    (hq : (s.core c).engineQ = id :: rest) (ho : s.op? id = some o) (hcan : s.canStart (s.core c) o = true) :
    s.nextStart? c = some o := by
  simp [State.nextStart?, Nat.not_le.2 hfour, hq, ho, hcan]

/-- The next segment of a slot-bound operation starts where it fits before the slot (R244). -/
theorem segmentStart_starts {g : Group} (ho : s.op? id = some o) (hg : s.group? o.group = some g) (hst : o.started = true)
    (hsus : o.suspended = false) (hbound : s.slotBound o = true) (hpos : o.pos < o.len)
    (hend : o.segEnd < o.pos + s.chunkLen g o) (hfit : s.fitsSlot o.segBound = true) :
    exec (.segmentStart id) s = .next (s.setOp { o with segEnd := min o.len (o.pos + max 65536 (s.chunkLen g o)) }) := by
  have hgo : (!o.started || o.suspended || !s.slotBound o || decide (o.len ≤ o.pos) ||
      decide (o.pos + s.chunkLen g o ≤ o.segEnd) || !s.fitsSlot o.segBound) = false := by
    simp [hst, hsus, hbound, hfit, hpos, hend]
  refine (exec_segmentStart ..).trans (execEvent_some ?_)
  simp only [ho, hg, hgo, Option.bind_eq_bind, Option.bind_some, Bool.false_eq_true, if_false, State.segmentEnd,
    Option.map_some, Option.getD_some]

end

/-! Entries of CHPUSH -/

/-- A channel with room accepts the entry that its wave offers, and P advances (R230, R234). -/
theorem chpushAccept_accepts {s : State} {u ch : Nat} {w : Wave} {e : OEnt} {bs : List Byte} {g : Group} {c : Chan}
    (hw : s.wave? u = some w) (hp : w.pushed? ch = some (e, bs)) (hg : s.group? w.group = some g) (hc : g.chan? ch = some c)
    (hr : c.room 1 = true) :
    let ix := c.p + BitVec.ofNat 32 c.v
    let t := Tgt.sp g.uid
    exec (.chpushAccept u ch) s = .next
      (((((s.writeRun t (c.at_ ix) bs).wroteRun 0 t (c.at_ ix) bs.length).setGroup
        (g.setChan ({ c with v := c.v + 1 }.land ix)))).setWave { w with outbox := w.outbox.filter fun x => x != e }) := by
  refine (exec_chpushAccept ..).trans (execEvent_some ?_)
  simp only [hw, State.accept, hp, hg, hc, hr, Option.bind_eq_bind, Option.bind_some]
  rfl

end Sys2Proof.Engines
end

section
/-! What the ends of copy operations and faults leave of memory. -/

namespace Sys2Proof.Engines

open Sys2Proof Sys2Proof.Machine Sys2Proof.Laws

/-- Memory and the operations of the engines stand as they were. -/
structure Keeps (s t : State) : Prop where
  mem : t.mem = s.mem
  ops : t.ops = s.ops

theorem Keeps.rfl {s : State} : Keeps s s := ⟨by rfl, by rfl⟩

theorem Keeps.trans {s t u : State} (h : Keeps s t) (h' : Keeps t u) : Keeps s u :=
  ⟨h'.mem.trans h.mem, h'.ops.trans h.ops⟩

section
variable (s : State)

/-- A record goes to its context. -/
theorem keeps_record (ctx : Nat) (r : FRec) : Keeps s (s.record ctx r) := by
  unfold State.record; dsimp only; split <;> exact ⟨rfl, rfl⟩

/-- A deferred fault goes to its wave or its context. -/
theorem keeps_defer (u : Nat) (f : FaultRec) : Keeps s (s.defer u f) := by
  unfold State.defer
  split
  · exact .rfl
  · split
    · split
      · exact .rfl
      · exact keeps_record ..
    · exact ⟨rfl, rfl⟩

/-- Bytes are accounted at a barrier. -/
theorem keeps_account (gu name n u : Nat) (pc : Word) : Keeps s (s.account gu name n u pc) := by
  unfold State.account
  split
  · exact .rfl
  · dsimp only
    split
    · exact keeps_defer ..
    · split
      · exact ⟨(keeps_defer ..).mem, (keeps_defer ..).ops⟩
      · exact ⟨rfl, rfl⟩

theorem keeps_accountChunk (op n : Nat) : Keeps s (s.accountChunk op n) := by
  unfold State.accountChunk
  split
  · exact .rfl
  · split
    · exact keeps_account ..
    · exact .rfl

/-- Entries read and written move the counts of their channels. -/
theorem keeps_chanChunk (o : CopyOp) (n : Nat) : Keeps s (s.chanChunk o n) := by
  unfold State.chanChunk; split <;> exact ⟨rfl, rfl⟩

/-- The bytes of a fill leave the grant's own store. -/
theorem keeps_fillDone (o : CopyOp) (n : Nat) : Keeps s (s.fillDone o n) := by
  unfold State.fillDone
  split
  · split <;> exact ⟨rfl, rfl⟩
  · exact .rfl

/-- Sectors that a store has rewritten are correct again. -/
theorem keeps_wrote (name : Nat) (at_ : List Nat) : Keeps s (s.wrote name at_) := by
  unfold State.wrote; split <;> exact ⟨rfl, rfl⟩

end

/-- The flag of a complete operation goes out. -/
theorem keeps_opFlag {s t : State} {o : CopyOp} (h : s.opFlag o = some t) : Keeps s t := by
  unfold State.opFlag at h
  split at h
  · obtain ⟨f, -, h⟩ := Option.bind_eq_some_iff.1 h
    split at h
    · cases h; exact ⟨rfl, rfl⟩
    · split at h
      · cases h
      · cases h; exact keeps_defer ..
      · cases h; exact ⟨rfl, rfl⟩
  · cases h; exact .rfl

/-- The end of an operation leaves memory as it is. -/
theorem finishOp_mem {s t : State} {o : CopyOp} (h : s.finishOp o = some t) : t.mem = s.mem := by
  unfold State.finishOp at h
  cases hdone : s.opDone o with
  | false => rw [hdone] at h; cases h
  | true =>
    rw [hdone] at h
    obtain ⟨u, hu, h⟩ := Option.bind_eq_some_iff.1 h
    cases h
    rw [delOp_mem, ← (keeps_opFlag hu).mem]
    split
    · split <;> rfl
    · rfl

/-- An operation that is not complete does not end. -/
theorem finishOp_none {s : State} {o : CopyOp} (h : s.opDone o = false) : s.finishOp o = none := by
  unfold State.finishOp; rw [h]; rfl

end Sys2Proof.Engines
end

section
/-! COPY_CHUNK (R241; O6). -/

namespace Sys2Proof.Engines

open Sys2Proof Sys2Proof.Machine Sys2Proof.Laws Sys2Proof.Landing

theorem exec_copyChunk (op path : Nat) (s : State) : exec (.copyChunk op path) s = execCopyChunk op path s := rfl

/-! The event -/

section
variable {s : State} {id path : Nat} {o : CopyOp} (ho : s.op? id = some o) (hk : o.kind ≠ .drain) (hpin : s.unpinned = true)
include ho hk hpin

/-- A chunk is performed; an operation whose last chunk has landed then leaves. -/
theorem copyChunk_performs {t : State} {p : CopyOp} (hc : s.chunk o path = some t) (hp : t.op? id = some p) :
    exec (.copyChunk id path) s = .next ((t.finishOp p).getD t) := by
  refine (exec_copyChunk ..).trans (execEvent_some ?_)
  rw [pinning_unpinned hpin]
  simp [ho, hk, hc, hp]

/-- An operation without a chunk to perform leaves if it is complete. -/
theorem copyChunk_finishes {t : State} (hc : s.chunk o path = none) (ht : s.finishOp o = some t) :
    exec (.copyChunk id path) s = .next t := by
  refine (exec_copyChunk ..).trans (execEvent_some ?_)
  rw [pinning_unpinned hpin]
  simp [ho, hk, hc, ht]

end

/-! Offsets of a COPY -/

section
variable {o : CopyOp} (hk : o.kind = .copy)
include hk

/-- A COPY is performed in the order of its stream. -/
theorem nth_copy (i : Nat) : o.nth i = i := by
  have horder : o.inOrder = true := by
    unfold CopyOp.inOrder; rw [hk]; cases o.dst <;> rfl
  unfold CopyOp.nth; rw [if_pos horder]

/-- Each byte of it has a source and a destination. -/
theorem isSome_srcOff (s : State) (g : Group) (i : Nat) : (s.srcOff g o i).isSome = true := by
  unfold State.srcOff; rw [hk]; cases o.src <;> rfl

theorem isSome_dstOff (s : State) (g : Group) (i : Nat) : (s.dstOff g o i).isSome = true := by
  unfold State.dstOff; rw [hk]; cases o.dst <;> rfl

/-- From the scratchpad, bytes follow each other from the source's offset. -/
theorem srcOff_sp (hs : o.src = .sp) (s : State) (g : Group) (i : Nat) : s.srcOff g o i = some (o.nums.getD 1 0 + i) := by
  unfold State.srcOff; rw [hk, hs]; simp only [nth_copy hk]

/-- To the scratchpad, they follow each other from the destination's. -/
theorem dstOff_sp (hd : o.dst = .sp) (s : State) (g : Group) (i : Nat) : s.dstOff g o i = some (o.nums.getD 0 0 + i) := by
  unfold State.dstOff; rw [hk, hd]

/-- Its chunks end at the 64 B boundaries of the destination (R241). -/
theorem chunkLen_sp (hd : o.dst = .sp) (s : State) (g : Group) :
    s.chunkLen g o = min (o.len - o.pos) (64 - (o.nums.getD 0 0 + o.pos) % 64) := by
  unfold State.chunkLen; rw [dstOff_sp hk hd, hk]; rfl

/-- Only ROUTE reads ahead. -/
theorem routeRead_copy (s : State) (g : Group) : s.routeRead g o = o := by
  unfold State.routeRead; rw [hk]; rfl

end

/-! A chunk -/

section
variable {s : State} {id path : Nat} {o : CopyOp} {g : Group} (hg : s.group? o.group = some g)
  (hready : s.chunkReady g o (s.chunkLen g o) = true)
include hg hready

/-- A chunk whose source cannot be reached fails (R339). -/
theorem chunk_fails {r : Nat} {sg : Grant} {a : Nat} (hfrom : s.chunkFrom? g o (s.chunkLen g o) = some (sg, a))
    (hasked : o.asked ≠ some o.pos) (hreach : s.girthReach g.die sg.home = .fail r) :
    s.chunk o path = some (s.failChunk o (s.chunkLen g o) LINK_PARTITION (linkInfo sg.reg.code r a)) := by
  have hsrc : s.srcReach g o (s.chunkLen g o) = .fail r := by
    unfold State.srcReach; rw [hfrom]; simp [hasked, hreach]
  unfold State.chunk
  simp [hg, hready, hsrc, hfrom]

variable (hk : o.kind = .copy)
include hk

/-- A chunk of a COPY whose source is reached and served goes from its source to its destination. -/
theorem chunk_moves (hid : o.id = id) (hreach : s.srcReach g o (s.chunkLen g o) = .ok)
    (hserved : s.chunkServed g o (s.chunkLen g o) = true) {t t2 : State} {bs : List (Option Byte)} {o2 : CopyOp}
    (hread : (s.setOp o).readStream g o o.pos (s.chunkLen g o) = some (t, bs))
    (hput : (t.setOp o).putChunk g o bs path = some t2) (ho2 : t2.op? id = some o2) :
    s.chunk o path = some (((t2.fillDone o2 (s.chunkLen g o)).chanChunk o2 (s.chunkLen g o)).setOp
      { o2 with pos := o2.pos + s.chunkLen g o }) := by
  subst hid
  have hout : (List.range (s.chunkLen g o)).find? (fun i => (t.srcOff g o (o.pos + i)).isNone ||
      (t.dstOff g o (o.pos + i)).isNone) = none := by
    refine List.find?_eq_none.2 fun i _ => ?_
    simp [← Option.not_isSome, isSome_srcOff hk, isSome_dstOff hk]
  unfold State.chunk
  simp [hg, hready, hreach, hserved, routeRead_copy hk, hread, hout, hput, ho2]

end

end Sys2Proof.Engines
end

section
/-! A chunk from the scratchpad to the scratchpad (R241; O6, Table 9.2). -/

namespace Sys2Proof.Engines

open Sys2Proof Sys2Proof.Machine Sys2Proof.Laws

/-! Cells of a scratchpad -/

/-- Bytes of one 64 B block of a scratchpad lie at different places. -/
theorem spKey_injOn_block (g : Group) {a b : Nat} (hblock : a / 64 = b / 64) (h : g.spKey a = g.spKey b) : a = b := by
  have hline : a / 256 = b / 256 := by omega
  unfold Group.spKey coreKey at h
  simp only [hline] at h
  omega

/-- A store with bytes put at the keys that `f` gives their places. -/
def putAll (f : Nat → Nat) (m : Store) (cells : Store) : Store := cells.foldl (fun m c => sput m (f c.1) c.2) m

/-- A byte at another key stands as it was. -/
theorem sget?_putAll_ne (f : Nat → Nat) (cells : Store) (m : Store) (k : Nat) (h : ∀ c ∈ cells, k ≠ f c.1) :
    sget? (putAll f m cells) k = sget? m k := by
  induction cells generalizing m with
  | nil => rfl
  | cons c r ih =>
    exact (ih _ fun d hd => h d (List.mem_cons_of_mem _ hd)).trans (sget?_sput_ne _ _ _ _ (h c List.mem_cons_self))

/-- Bytes put at different keys are read back. -/
theorem sget?_putAll_mem (f : Nat → Nat) (cells : Store) (m : Store) (hd : (cells.map fun c => f c.1).Nodup)
    {c : Nat × Byte} (hc : c ∈ cells) : sget? (putAll f m cells) (f c.1) = some c.2 := by
  induction cells generalizing m with
  | nil => cases hc
  | cons a r ih =>
    rw [List.map_cons, List.nodup_cons] at hd
    rcases List.mem_cons.1 hc with rfl | hc
    · exact (sget?_putAll_ne f r _ _ fun d hd' he => hd.1 (List.mem_map.2 ⟨d, hd', he.symm⟩)).trans (sget?_sput_same _ _ _)
    · exact ih _ hd.2 hc

/-- Bytes put into one 64 B block of a scratchpad are read back. -/
theorem sget?_putAll_block (g : Group) {at_ n : Nat} (hn : n ≤ 64 - at_ % 64) (f : Nat → Byte) (m : Store) {i : Nat} (hi : i < n) :
    sget? (putAll g.spKey m ((List.range n).map fun i => (at_ + i, f i))) (g.spKey (at_ + i)) = some (f i) := by
  refine sget?_putAll_mem g.spKey _ m ?_ (c := (at_ + i, f i)) (List.mem_map.2 ⟨i, List.mem_range.2 hi, rfl⟩)
  rw [List.map_map]
  refine List.Nodup.map_on (fun a ha b hb hab => ?_) List.nodup_range
  have ha := List.mem_range.1 ha
  have hb := List.mem_range.1 hb
  exact Nat.add_left_cancel (spKey_injOn_block g (by omega) hab)

section
variable {s : State} {g : Group} {o : CopyOp} (hg : s.group? g.uid = some g)
include hg

/-- An engine reads a scratchpad byte where it lies. -/
theorem readTgt_sp {a : Nat} (ha : isSp (g.spKey a) = true) : s.readTgt (.sp g.uid) a = (s, some (s.byteAt (g.spKey a))) := by
  have hloc : s.loc (.sp g.uid) a = g.spKey a := by simp [State.loc, hg]
  simp [State.readTgt, hloc, ha]

/-- It writes a scratchpad byte where it lies, and changes nothing else of memory. -/
theorem engineWrite_sp {a : Nat} (ha : isSp (g.spKey a) = true) (b : Byte) :
    s.engineWrite (.sp g.uid) a b = (s.putByte (g.spKey a) b).setFull [g.spKey a / 16] := by
  have hloc : s.loc (.sp g.uid) a = g.spKey a := by simp [State.loc, hg]
  simp [State.engineWrite, State.writeTgt, hloc, ha]

/-- So it does with one byte after another. -/
theorem foldl_engineWrite_sp (cells : Store) (hsp : ∀ c ∈ cells, isSp (g.spKey c.1) = true) :
    (cells.foldl (fun s c => s.engineWrite (.sp g.uid) c.1 c.2) s).mem = putAll g.spKey s.mem cells ∧
    (cells.foldl (fun s c => s.engineWrite (.sp g.uid) c.1 c.2) s).ops = s.ops := by
  induction cells generalizing s with
  | nil => exact ⟨rfl, rfl⟩
  | cons c r ih =>
    rw [List.foldl_cons, engineWrite_sp hg (hsp c List.mem_cons_self)]
    exact ih (s := (s.putByte (g.spKey c.1) c.2).setFull [g.spKey c.1 / 16]) hg fun d hd => hsp d (List.mem_cons_of_mem _ hd)

/-- The bytes of a chunk are put into memory. -/
theorem writeChunk_sp (hd : o.dst = .sp) (cells : Store) (hsp : ∀ c ∈ cells, isSp (g.spKey c.1) = true) :
    (s.writeChunk g o cells).mem = putAll g.spKey s.mem cells ∧ (s.writeChunk g o cells).ops = s.ops := by
  obtain ⟨hmem, hops⟩ := foldl_engineWrite_sp hg cells hsp
  unfold State.writeChunk
  rw [hd]
  dsimp only [State.endPlace]
  split
  · exact ⟨hmem, hops⟩
  · exact ⟨(keeps_wrote ..).mem.trans hmem, (keeps_wrote ..).ops.trans hops⟩

variable (hk : o.kind = .copy)
include hk

/-- The bytes of a scratchpad from an offset on, as an engine reads them. -/
theorem readStream_sp (hs : o.src = .sp) (j n : Nat) (hsp : ∀ i < n, isSp (g.spKey (o.nums.getD 1 0 + j + i)) = true) :
    s.readStream g o j n =
      some (s, (List.range n).map fun i => some (s.byteAt (g.spKey (o.nums.getD 1 0 + j + i)))) := by
  induction n generalizing j with
  | zero => rfl
  | succ n ih =>
    have hnext (i : Nat) : o.nums.getD 1 0 + (j + 1) + i = o.nums.getD 1 0 + j + (i + 1) := by omega
    have hrest := ih (j + 1) fun i hi => by rw [hnext]; exact hsp (i + 1) (by omega)
    have hfirst : s.readTgt (s.endPlace g .sp o.srcAt (o.nums.getD 1 0 + j)).1
        (s.endPlace g .sp o.srcAt (o.nums.getD 1 0 + j)).2 = (s, some (s.byteAt (g.spKey (o.nums.getD 1 0 + j)))) :=
      readTgt_sp hg (hsp 0 (by omega))
    have hahead : (OpKind.copy == .route || !o.chanSrc.isNone) = false := by rw [CopyOp.chanSrc, hs]; rfl
    unfold State.readStream
    simp only [srcOff_sp hk hs, hk, hs, hahead, hfirst, hrest, Bool.false_eq_true, if_false, Option.map_some]
    rw [List.range_succ_eq_map, List.map_cons, List.map_map]
    simp only [hnext]
    rfl

end

/-- The cells of a chunk to a scratchpad follow each other from the destination's offset. -/
theorem chunkCells_sp {o : CopyOp} (hk : o.kind = .copy) (hd : o.dst = .sp) (s : State) (g : Group) (n : Nat) (f : Nat → Byte) :
    s.chunkCells g o ((List.range n).map fun i => some (f i)) =
      (List.range n).map fun i => (o.nums.getD 0 0 + o.pos + i, f i) := by
  have hzip : ((List.range n).map fun i => some (f i)).zipIdx = (List.range n).map fun i => (some (f i), i) :=
    List.ext_getElem (by simp) (by simp)
  unfold State.chunkCells
  rw [hzip, List.filterMap_map]
  simp [dstOff_sp hk hd, Nat.add_assoc]

/-! The chunk -/

section
variable {s : State} {id path : Nat} {o : CopyOp} {g : Group} (ho : s.op? id = some o)
  (hg : s.group? o.group = some g) (hk : o.kind = .copy) (hs : o.src = .sp) (hd : o.dst = .sp)
  (hready : s.chunkReady g o (s.chunkLen g o) = true)
  (hsp : ∀ i < s.chunkLen g o, isSp (g.spKey (o.nums.getD 0 0 + o.pos + i)) = true ∧
    isSp (g.spKey (o.nums.getD 1 0 + o.pos + i)) = true)
include ho hg hk hs hd hready hsp

/-- The bytes that a chunk reads are put into memory at its destination. -/
theorem chunk_sp : ∃ t p, s.chunk o path = some t ∧ t.op? id = some p ∧
    t.mem = putAll g.spKey s.mem ((List.range (s.chunkLen g o)).map fun i =>
      (o.nums.getD 0 0 + o.pos + i, s.byteAt (g.spKey (o.nums.getD 1 0 + o.pos + i)))) := by
  have hgu : s.group? g.uid = some g := by
    have huid : g.uid = o.group := by simpa using List.find?_some hg
    rwa [huid]
  generalize hn : s.chunkLen g o = n at hready hsp ⊢
  let bytes (i : Nat) : Byte := s.byteAt (g.spKey (o.nums.getD 1 0 + o.pos + i))
  let cells : Store := (List.range n).map fun i => (o.nums.getD 0 0 + o.pos + i, bytes i)
  let u := (s.setOp o).setOp o
  let w := (u.writeChunk g o cells).accountChunk o.id n
  have hread : (s.setOp o).readStream g o o.pos n = some (s.setOp o, (List.range n).map fun i => some (bytes i)) :=
    readStream_sp (s := s.setOp o) hgu hk hs o.pos n fun i hi => (hsp i hi).2
  have hput : u.putChunk g o ((List.range n).map fun i => some (bytes i)) path = some w := by
    have hsent : u.sentCopy? g.die o = none := by unfold State.sentCopy?; rw [hd]
    unfold State.putChunk
    simp only [hsent, chunkCells_sp hk hd, List.length_map, List.length_range]
    rfl
  obtain ⟨hmem, hops⟩ := writeChunk_sp (s := u) hgu hd cells (by simpa [cells] using fun i hi => (hsp i hi).1)
  have hlast := keeps_accountChunk (u.writeChunk g o cells) o.id n
  have hop : w.op? id = some o := by
    unfold State.op?; rw [hlast.ops, hops]; exact op?_setOp (op?_setOp ho rfl) rfl
  have hend : Keeps w ((w.fillDone o n).chanChunk o n) := (keeps_fillDone ..).trans (keeps_chanChunk ..)
  have hfrom : s.chunkFrom? g o n = none := by unfold State.chunkFrom?; rw [hs]
  subst hn
  refine ⟨_, _, chunk_moves hg hready hk (id_of_op? ho) (by rw [State.srcReach, hfrom]) (by rw [State.chunkServed, hfrom]; rfl)
    hread hput hop, op?_setOp (o := o) ?_ rfl, ?_⟩
  · unfold State.op?; rw [hend.ops]; exact hop
  · exact hend.mem.trans (hlast.mem.trans hmem)

/-- After a chunk the destination holds the bytes that the source held before it. -/
theorem copyChunk_sp (hpin : s.unpinned = true) :
    ∃ t, exec (.copyChunk id path) s = .next t ∧ ∀ i < s.chunkLen g o,
      t.byteAt (g.spKey (o.nums.getD 0 0 + o.pos + i)) = s.byteAt (g.spKey (o.nums.getD 1 0 + o.pos + i)) := by
  obtain ⟨t, p, hc, hp, hmem⟩ := chunk_sp ho hg hk hs hd hready hsp (path := path)
  refine ⟨_, copyChunk_performs ho (by rw [hk]; nofun) hpin hc hp, fun i hi => ?_⟩
  have hleave : ((t.finishOp p).getD t).mem = t.mem := by
    cases hf : t.finishOp p with
    | none => rfl
    | some v => exact finishOp_mem hf
  have hblock : s.chunkLen g o ≤ 64 - (o.nums.getD 0 0 + o.pos) % 64 := by rw [chunkLen_sp hk hd]; exact min_le_right ..
  have hget := sget?_putAll_block g hblock (fun i => s.byteAt (g.spKey (o.nums.getD 1 0 + o.pos + i))) s.mem hi
  rw [State.byteAt, hleave, hmem, hget]

end

end Sys2Proof.Engines
end

section
/-! MATRIX_ENTRY_START, OBLD_COMPLETE, MMA_COMPLETE and MDRAIN_COMPLETE (R258 to R269). -/

namespace Sys2Proof.Engines

open Sys2Proof Sys2Proof.Machine Sys2Proof.Laws

theorem exec_matrixEntryStart (die core : Nat) (s : State) :
    exec (.matrixEntryStart die core) s = execMatrixEntryStart die core s := rfl
theorem exec_obldComplete (die core : Nat) (s : State) : exec (.obldComplete die core) s = execObldComplete die core s := rfl
theorem exec_mmaComplete (die core : Nat) (s : State) : exec (.mmaComplete die core) s = execMmaComplete die core s := rfl
theorem exec_mdrainComplete (die core : Nat) (s : State) :
    exec (.mdrainComplete die core) s = execMdrainComplete die core s := rfl

/-! Sources that are captured -/

section
variable (s : State)

/-- Capturing the sources of a core's entries changes nothing else of the core. -/
theorem core_snapAll (c : Nat) : s.snapAll.core c = { s.core c with matQ := (s.core c).matQ.map s.snapMat } := by
  let f (c : Core) : Core := if c.matQ.isEmpty then c else { c with matQ := c.matQ.map s.snapMat }
  have hreset : f Core.reset = Core.reset := rfl
  have hcore : s.snapAll.core c = f (s.core c) := by
    unfold State.core State.snapAll
    conv_lhs => rw [← hreset]
    exact List.getD_map ..
  rw [hcore]
  simp only [f]
  split
  · next he => rw [List.isEmpty_iff.1 he, List.map_nil, ← List.isEmpty_iff.1 he]
  · rfl

/-- Capturing changes nothing of an entry but its operands. -/
theorem snapMat_eq (m : MatEnt) : s.snapMat m = { m with kind := (s.snapMat m).kind } := by
  unfold State.snapMat
  split
  · split <;> rfl
  · split <;> rfl
  · split
    · split <;> rfl
    · rfl
  · rfl

/-- Nor does it change the time that the entry takes. -/
theorem time_snapMat (m : MatEnt) : (s.snapMat m).time = m.time := by
  unfold State.snapMat
  split
  · next hk => split <;> simp only [MatEnt.time, hk]
  · next hk => split <;> simp only [MatEnt.time, hk]
  · next hk =>
    split
    · split <;> simp only [MatEnt.time, hk]
    · rfl
  · rfl

end

/-- The group of an entry is there once its sources are captured. -/
theorem group?_snapMat {s : State} {m : MatEnt} {g : Group} (hg : s.group? m.group = some g) :
    s.snapAll.group? (s.snapMat m).group = some g := by
  rw [snapMat_eq]; exact hg

/-! The head of a queue -/

section
variable {s : State} {c : Nat} {q : MatEnt} {rest : List MatEnt} (hq : (s.core c).matQ = q :: rest)
include hq

/-- The head starts in a later clk than it entered and than the last entry completed (R262). -/
theorem matReady_head (hs : q.started = none) (he : q.entered < s.clk) (hd : (s.core c).matDone < s.clk)
    (hg : s.groupStopped q.group = false) : s.matReady c = some q := by
  unfold State.matReady; simp [hq, hs, he, hd, hg]

variable {start : Nat} (hs : q.started = some start) (ht : start + q.time ≤ s.clk)
include hs ht

/-- The running head is over after its time (log entry 31). -/
theorem matOver_head : s.matOver c = some q := by
  unfold State.matOver; simp [hq, hs, ht]

/-- So it is once its sources have been captured. -/
theorem matOver_snapAll : s.snapAll.matOver c = some (s.snapMat q) := by
  have hhead : (s.snapAll.core c).matQ = s.snapMat q :: rest.map s.snapMat := by rw [core_snapAll, hq]; rfl
  exact matOver_head hhead ((congrArg MatEnt.started (snapMat_eq s q)).trans hs) ((time_snapMat s q).symm ▸ ht)

end

/-! OBLD -/

section
variable {s : State} {c : Nat} {m : MatEnt} {g : Group} {src : Option Nat} {bytes : List Byte} {at_ n r : Nat}

/-- An OBLD that has started has its bytes: from registers, or from the scratchpad once the outbox has drained. -/
theorem snapMat_obld {start : Nat} (hk : m.kind = .obld src bytes at_ n r) (hs : m.started = some start)
    (hg : s.group? m.group = some g) (hb : bytes.length = n ∨ bytes = [] ∧ src ≠ none ∧ s.drained m.wave m.seq = true) :
    ∃ bs, (s.snapMat m).kind = .obld src bs at_ n r ∧ bs.length = n := by
  unfold State.snapMat
  rw [hk]
  obtain hb | ⟨rfl, hsrc, hdrained⟩ := hb
  · split
    · next he => cases he
    · next he => cases he
    · next he =>
      cases he
      split
      · simp only [hg]; exact ⟨_, rfl, by simp⟩
      · exact ⟨_, hk, hb⟩
    · exact ⟨_, hk, hb⟩
  · obtain ⟨so, rfl⟩ := Option.ne_none_iff_exists'.1 hsrc
    simp [hs, hdrained, hg]

/-- An OBLD whose bytes are there completes. -/
theorem doneObld_some (hk : m.kind = .obld src bytes at_ n r) (hb : bytes.length = n) (hg : s.group? m.group = some g)
    (hr : (g.ress.find? (·.uid == r)).isSome = true) : ∃ t, s.doneObld c m = some t := by
  obtain ⟨res, hres⟩ := Option.isSome_iff_exists.1 hr
  unfold State.doneObld
  simp only [hk, hb, hg, hres, bne_self_eq_false, Bool.false_eq_true, if_false, Option.bind_eq_bind, Option.bind_some]
  split <;> exact ⟨_, rfl⟩

/-- One from registers puts its bytes into the reservation. -/
theorem doneObld_registers {res : Res} (hk : m.kind = .obld none bytes at_ bytes.length res.uid) (hg : s.group? m.group = some g)
    (hr : g.ress.find? (·.uid == res.uid) = some res) : s.doneObld c m = some ((s.setCore c
      { (s.core c).popMat s.clk with ob := sputs (s.core c).ob (res.base + at_) bytes }).freeRes m.group) := by
  unfold State.doneObld
  simp only [hk, hg, hr, bne_self_eq_false, Bool.false_eq_true, if_false, Option.bind_eq_bind, Option.bind_some]
  rfl

end

/-! MMA -/

section
variable {s : State} {c : Nat} {m : MatEnt} {g : Group} {k : Kernel} {sg : List Sign} {n : Nat} {l : Lace} {r : Res} {f : MFmt}
  {la lb : BitVec 2} {word : Word} {snap : Option Store}

/-- An MMA has its input once the outboxes of its signers have drained. -/
theorem snapMat_mma (hk : m.kind = .mma sg n l r f la lb word snap)
    (hs : snap ≠ none ∨ ∀ x ∈ sg, s.drained x.wave x.seq = true) :
    ∃ st, (s.snapMat m).kind = .mma sg n l r f la lb word (some st) := by
  unfold State.snapMat
  rw [hk]
  cases snap with
  | none =>
    have hall : (sg.all fun x => s.drained x.wave x.seq) = true := List.all_eq_true.2 (hs.resolve_left (· rfl))
    simp [hall]
  | some st => dsimp only; split <;> simp [hk]

/-- The rows of a tile go to the registers of its signers. -/
theorem mmaRows_mem (views : Word) (sg : List Sign) (rows : Nat) (a : Nat → List (Option Fv)) (cols : List (List (Option Fv)))
    (seg : Nat) (is : List Nat) (s : State) (st : Word) : (s.mmaRows views sg rows a cols seg is st).1.mem = s.mem := by
  induction is generalizing s st with
  | nil => rfl
  | cons i r ih =>
    unfold State.mmaRows
    split
    · exact ih ..
    · split
      · exact ih ..
      · exact ih ..

/-- Reservations without users are freed. -/
theorem keeps_freeRes (s : State) (gu : Nat) : Keeps s (s.freeRes gu) := by
  unfold State.freeRes; split <;> exact ⟨rfl, rfl⟩

/-- A matrix entry that has failed leaves memory as it is. -/
theorem failMat_mem (s : State) (c : Nat) (m : MatEnt) (tier : Nat) : (s.failMat c m tier).mem = s.mem := by
  unfold State.failMat
  rw [(keeps_defer ..).mem, (keeps_freeRes ..).mem]
  split <;> rfl

/-- An MMA that has its input completes, and writes no byte of memory. -/
theorem doneMma_some {st : Store} (hk : m.kind = .mma sg n l r f la lb word (some st)) (hg : s.group? m.group = some g)
    (hkern : s.kernel? g.kernel = some k) : ∃ t, s.doneMma c m = some t ∧ t.mem = s.mem := by
  unfold State.doneMma
  simp only [hk, hg, hkern, Option.bind_eq_bind, Option.bind_some]
  split
  · exact ⟨_, rfl, failMat_mem ..⟩
  · refine ⟨_, rfl, (keeps_freeRes ..).mem.trans ?_⟩
    split
    · split <;> exact mmaRows_mem ..
    · exact mmaRows_mem ..

end

/-! MDRAIN -/

section
variable {s : State} {c : Nat} {m : MatEnt} {g : Group} {k : Kernel} {o : CopyOp} {op : Nat}

/-- An operation that has left is not found. -/
theorem op?_delOp (s : State) (u : Nat) : (s.delOp u).op? u = none := by
  unfold State.op? State.delOp; simp

section
variable {base rows oo os ro rs p : Nat} {al : BitVec 32} {st r0 c0 : Nat} {act res : Bool} {rm : Rm} {f : FType} {bank : Bool}
  {accs : List Word} (hk : m.kind = .mdrain base rows oo os ro rs p al st r0 c0 act res rm f bank accs op)
include hk

/-- The output of an MDRAIN that has started goes on while its wave's outbox has drained and no residue's window covers it. -/
theorem drainStep_some {start : Nat} (hs : m.started = some start) (hdrained : s.drained m.wave m.seq = true)
    (hg : s.group? m.group = some g) (hkern : s.kernel? g.kernel = some k) (ho : s.op? op = some o)
    (hres : ∀ i, s.residueSpan (g.spKey (m.kind.outAt i).1, drainSize f) = false) (count : Nat) :
    ∃ t, s.drainStep c m count = some t := by
  unfold State.drainStep
  simp only [hk] at hres ⊢
  simp [hs, hdrained, hg, hkern, ho, hres]

/-- Once its output is written it completes, and its operation leaves. -/
theorem doneMdrain_some {t : State} (ht : s.drainStep c m (64 * rows) = some t) :
    ∃ u, s.doneMdrain c m = some u ∧ u.op? op = none := by
  unfold State.doneMdrain
  cases hop : t.op? op with
  | none => exact ⟨t, by simp [hk, ht, hop], hop⟩
  | some o =>
    simp only [hk, ht, hop, Option.bind_eq_bind, Option.bind_some]
    exact ⟨_, rfl, op?_delOp ..⟩

end

end

/-! The events -/

section
variable {s : State} {die core : Nat} {q : MatEnt} {rest : List MatEnt} {g : Group}
  (hq : (s.core (die * 40 + core)).matQ = q :: rest)
include hq

/-- The head of the queue starts. -/
theorem matrixEntryStart_starts (hs : q.started = none) (he : q.entered < s.clk) (hd : (s.core (die * 40 + core)).matDone < s.clk)
    (hg : s.groupStopped q.group = false) :
    exec (.matrixEntryStart die core) s = .next (s.startMat (die * 40 + core) q) :=
  (exec_matrixEntryStart ..).trans (execEvent_some (by simp [matReady_head hq hs he hd hg]))

variable {start : Nat} (hs : q.started = some start) (ht : start + q.time ≤ s.clk) (hg : s.group? q.group = some g)
include hs ht

/-- An OBLD that is over does what it does on the state with its sources captured. -/
theorem obldComplete_does {t : State} (hdone : s.snapAll.doneObld (die * 40 + core) (s.snapMat q) = some t) :
    exec (.obldComplete die core) s = .next t :=
  (exec_obldComplete ..).trans (execEvent_some (by simp [matOver_snapAll hq hs ht, hdone]))

/-- So does an MMA. -/
theorem mmaComplete_does {t : State} (hdone : s.snapAll.doneMma (die * 40 + core) (s.snapMat q) = some t) :
    exec (.mmaComplete die core) s = .next t :=
  (exec_mmaComplete ..).trans (execEvent_some (by simp [matOver_snapAll hq hs ht, hdone]))

/-- An MDRAIN has read its sources at its start. -/
theorem mdrainComplete_does {t : State} (hdone : s.doneMdrain (die * 40 + core) q = some t) :
    exec (.mdrainComplete die core) s = .next t :=
  (exec_mdrainComplete ..).trans (execEvent_some (by simp [matOver_head hq hs ht, hdone]))

include hg

/-- OBLD_COMPLETE completes (R258). -/
theorem obldComplete_completes {src : Option Nat} {bytes : List Byte} {at_ n r : Nat} (hk : q.kind = .obld src bytes at_ n r)
    (hr : (g.ress.find? (·.uid == r)).isSome = true)
    (hb : bytes.length = n ∨ bytes = [] ∧ src ≠ none ∧ s.drained q.wave q.seq = true) :
    ∃ t, s.snapAll.doneObld (die * 40 + core) (s.snapMat q) = some t ∧ exec (.obldComplete die core) s = .next t := by
  obtain ⟨bs, hkind, hlen⟩ := snapMat_obld hk hs hg hb
  obtain ⟨t, hdone⟩ := doneObld_some hkind hlen (group?_snapMat hg) hr
  exact ⟨t, hdone, obldComplete_does hq hs ht hdone⟩

/-- MMA_COMPLETE completes (R261). -/
theorem mmaComplete_completes {k : Kernel} {sg : List Sign} {n : Nat} {l : Lace} {r : Res} {f : MFmt} {la lb : BitVec 2}
    {word : Word} {snap : Option Store} (hk : q.kind = .mma sg n l r f la lb word snap) (hkern : s.kernel? g.kernel = some k)
    (hsnap : snap ≠ none ∨ ∀ x ∈ sg, s.drained x.wave x.seq = true) :
    ∃ t, s.snapAll.doneMma (die * 40 + core) (s.snapMat q) = some t ∧ exec (.mmaComplete die core) s = .next t ∧
      t.mem = s.mem := by
  obtain ⟨st, hkind⟩ := snapMat_mma hk hsnap
  obtain ⟨t, hdone, hmem⟩ := doneMma_some hkind (group?_snapMat hg) hkern
  exact ⟨t, hdone, mmaComplete_does hq hs ht hdone, hmem⟩

/-- MDRAIN_COMPLETE completes (R266). -/
theorem mdrainComplete_completes {k : Kernel} {o : CopyOp} {base rows oo os ro rs p : Nat} {al : BitVec 32} {st r0 c0 : Nat}
    {act res : Bool} {rm : Rm} {f : FType} {bank : Bool} {accs : List Word} {op : Nat}
    (hk : q.kind = .mdrain base rows oo os ro rs p al st r0 c0 act res rm f bank accs op)
    (hdrained : s.drained q.wave q.seq = true) (hkern : s.kernel? g.kernel = some k) (ho : s.op? op = some o)
    (hres : ∀ i, s.residueSpan (g.spKey (q.kind.outAt i).1, drainSize f) = false) :
    ∃ t, s.doneMdrain (die * 40 + core) q = some t ∧ exec (.mdrainComplete die core) s = .next t ∧ t.op? op = none := by
  obtain ⟨t, hstep⟩ := drainStep_some hk hs hdrained hg hkern ho hres (64 * rows)
  obtain ⟨u, hdone, hop⟩ := doneMdrain_some hk hstep
  exact ⟨u, hdone, mdrainComplete_does hq hs ht hdone, hop⟩

/-- An OBLD from registers puts its bytes into the reservation. -/
theorem obldComplete_registers {bytes : List Byte} {at_ : Nat} {r : Res}
    (hk : q.kind = .obld none bytes at_ bytes.length r.uid) (hr : g.ress.find? (·.uid == r.uid) = some r) :
    exec (.obldComplete die core) s = .next ((s.snapAll.setCore (die * 40 + core)
      { (s.snapAll.core (die * 40 + core)).popMat s.clk with
        ob := sputs (s.snapAll.core (die * 40 + core)).ob (r.base + at_) bytes }).freeRes q.group) := by
  have hsame : s.snapMat q = q := by unfold State.snapMat; simp only [hk]
  exact obldComplete_does hq hs ht (by rw [hsame]; exact doneObld_registers hk hg hr)

end

end Sys2Proof.Engines
end

section
/-! UNIT_OP_START, UNIT_OP_COMPLETE, ACTLD_COMPLETE, GEODE_SEARCH_START and GEODE_SEARCH_COMPLETE (R126, R274, R282 to R286). -/

namespace Sys2Proof.Engines

open Sys2Proof Sys2Proof.Machine Sys2Proof.Laws

theorem exec_unitOpStart (die core : Nat) (s : State) : exec (.unitOpStart die core) s = execUnitOpStart die core s := rfl
theorem exec_unitOpComplete (die core : Nat) (s : State) :
    exec (.unitOpComplete die core) s = execUnitOpComplete die core s := rfl
theorem exec_actldComplete (die core : Nat) (s : State) : exec (.actldComplete die core) s = execActldComplete die core s := rfl
theorem exec_geodeSearchStart (die : Nat) (s : State) : exec (.geodeSearchStart die) s = execGeodeSearchStart die s := rfl
theorem exec_geodeSearchComplete (die : Nat) (s : State) :
    exec (.geodeSearchComplete die) s = execGeodeSearchComplete die s := rfl

/-! The hypervector unit -/

section
variable {s : State} {die core : Nat} {u : UnitOp} {rest : List UnitOp} (hu : (s.core (die * 40 + core)).unitQ = u :: rest)
include hu

/-- The head of the unit's queue starts in a later clk than it issued and than the last operation completed. -/
theorem unitOpStart_starts (hs : u.started = none) (hi : u.issued < s.clk) (hd : (s.core (die * 40 + core)).unitDone < s.clk)
    (hg : ∀ w, s.wave? u.wave = some w → s.groupStopped w.group = false) :
    exec (.unitOpStart die core) s = .next (s.startUnit (die * 40 + core) u) := by
  have hready : s.unitReady (die * 40 + core) = some u := by
    unfold State.unitReady
    cases hw : s.wave? u.wave with
    | none => simp [hu, hs, hi, hd, hw]
    | some w => simp [hu, hs, hi, hd, hw, hg w hw]
  exact (exec_unitOpStart ..).trans (execEvent_some (by simp [hready]))

variable {t : Nat} (hs : u.started = some t) (ht : t + u.kind.time ≤ s.clk)
include hs ht

/-- An operation that is over completes. -/
theorem unitOpComplete_does : exec (.unitOpComplete die core) s = .next (s.doneUnit (die * 40 + core) u) := by
  have hover : s.unitOver (die * 40 + core) = some u := by
    unfold State.unitOver; simp [hu, hs, ht]
  exact (exec_unitOpComplete ..).trans (execEvent_some (by simp [hover]))

/-- One that is no search writes its results to its wave. -/
theorem unitOpComplete_writes {w : Wave} (hw : s.wave? u.wave = some w) (hk : ∀ d a n two, u.kind ≠ .srch d a n two) :
    exec (.unitOpComplete die core) s = .next ((s.setCore (die * 40 + core)
      { s.core (die * 40 + core) with unitQ := rest, unitDone := s.clk }).setWave
        (w.unitWrite s.clk (((s.kernelOf? w).map (·.views)).getD 0) u)) := by
  rw [unitOpComplete_does hu hs ht]
  have hdrop : (s.core (die * 40 + core)).unitQ.drop 1 = rest := by rw [hu]; rfl
  have hsame : ∀ i c, (s.setCore i c).wave? u.wave = some w := fun _ _ => hw
  unfold State.doneUnit
  simp only [hdrop, hsame]
  rfl

end

/-- HCW takes 1 clk, every other operation 4 (R274). -/
theorem time_unit (k : UnitKind) : k.time = 4 ∨ k.time = 1 ∧ ∃ c, k = .cw c := by
  cases k with
  | cw c => exact .inr ⟨rfl, c, rfl⟩
  | _ => exact .inl rfl

/-! The activation table -/

/-- Loads of the activation table that are due fill their banks (R126). -/
theorem actldComplete_fills {s : State} {die core : Nat} (h : ∃ l ∈ (s.core (die * 40 + core)).actLoads, l.due ≤ s.clk) :
    exec (.actldComplete die core) s =
      .next (s.setCore (die * 40 + core) ((s.core (die * 40 + core)).actldOver s.clk)) := by
  have hdue : ((s.core (die * 40 + core)).actLoads.all fun l => decide (s.clk < l.due)) = false := by
    simpa using h
  exact (exec_actldComplete ..).trans (execEvent_some (by simp only [hdue]; rfl))

/-! The Geode -/

section
variable {s : State} {die : Nat} {x : Search}

/-- The Geode's next search starts where it fits before the slot, and takes its time (R285). -/
theorem geodeSearchStart_starts {rest : List Search} (hx : (s.die die).searches = x :: rest) (hl : x.left = none)
    (hg : ∀ w, s.wave? x.wave = some w → s.groupStopped w.group = false) (hh : s.geodeHeld die x = false)
    (hf : s.fitsSlot (searchTime (s.protoCount die x)) = true) : exec (.geodeSearchStart die) s =
      .next (s.setSearch die { x with left := some (searchTime (s.protoCount die x)) }) := by
  have hready : s.searchReady die = some x := by
    unfold State.searchReady
    cases hw : s.wave? x.wave with
    | none => simp [hx, hl, hh, hf, hw]
    | some w => simp [hx, hl, hh, hf, hw, hg w hw]
  exact (exec_geodeSearchStart ..).trans (execEvent_some (by simp [hready]))

/-- A search that has run its time writes its wave's scalars (R284). -/
theorem geodeSearchComplete_writes {w : Wave} {base : Nat} {best second : Nat × Nat}
    (hx : (s.die die).searches.find? (fun y => y.left == some 0 && !y.suspended) = some x) (hw : s.wave? x.wave = some w)
    (hbase : base = ((s.die die).tables.getD x.table { owner := 0, base := 0, n := 0 }).base)
    (hn : nearest ((List.range (s.protoCount die x)).map fun i => popHv (xorHv x.query (s.proto die base i))) = (best, second)) :
    let v := (w.sset x.d (wd best.1)).sset (x.d + 1) (wd best.2)
    exec (.geodeSearchComplete die) s = .next ((s.setDie die
      { s.die die with searches := (s.die die).searches.filter fun y => y.id != x.id }).setWave
      (if x.two then (v.sset (x.d + 2) (wd second.1)).sset (x.d + 3) (wd second.2) else v)) := by
  subst hbase
  have hover : s.searchOver die = some x := hx
  have hdone : exec (.geodeSearchComplete die) s = .next (s.doneSearch die x) :=
    (exec_geodeSearchComplete ..).trans (execEvent_some (by simp [hover]))
  have hsame : ∀ d, (s.setDie die d).wave? x.wave = some w := fun _ => hw
  rw [hdone, State.doneSearch]
  simp only [hn, hsame]
  rfl

end

end Sys2Proof.Engines
end

section
/-! UNCORRECTABLE_ERROR and CORRECTABLE_ERROR (R199, R269, R286). -/

namespace Sys2Proof.Engines

open Sys2Proof Sys2Proof.Machine Sys2Proof.Laws

theorem exec_uncorrectableError (e : ErrRef) (tier : Nat) (s : State) :
    exec (.uncorrectableError e tier) s = execUncorrectableError e tier s := rfl
theorem exec_correctableError (die : Nat) (s : State) : exec (.correctableError die) s = execCorrectableError die s := rfl

/-- A sector becomes uncorrectable before a load reads it, and the load fails (R199; log entry 32). -/
theorem uncorrectableError_load {s : State} {u id lane at_ tier : Nat} {w : Wave} {l : LoadP} {r : LaneRd} {p : Nat}
    (hw : s.wave? u = some w) (hl : w.loads.find? (·.id == id) = some l) (ha : l.atomic = false)
    (hr : l.lanes.find? (fun r => r.got.isNone && r.lane == lane) = some r) (hat : at_ < l.size)
    (hp : s.readPlace? (s.coreOf w) l.tgt l.hint (r.addr + at_) = some p) (ht : tierFits tier p = true) :
    exec (.uncorrectableError (.load u id lane at_) tier) s = .next (({ s with
        bad := s.bad.filter (fun b => b.sec != p / 64) ++ [{ sec := p / 64, tier := tier, mask := 0, by_ := 0 }] } :
      State).failLoad w l MEM_UNCORRECTABLE (memInfo l.code tier l.pc)) := by
  have hspoil : s.spoil? (s.coreOf w) l lane at_ tier = some { s with
      bad := s.bad.filter (fun b => b.sec != p / 64) ++ [{ sec := p / 64, tier := tier, mask := 0, by_ := 0 }] } := by
    unfold State.spoil?; simp [hr, Nat.not_le.2 hat, hp, ht]
  have hsame : ∀ b, ({ s with bad := b } : State).wave? u = some w := fun _ => hw
  refine (exec_uncorrectableError ..).trans (execEvent_some ?_)
  simp [State.errLoad, hw, hl, hspoil, ha, hsame]

/-- One in the operands of the running head of a matrix queue makes that fail (R269). -/
theorem uncorrectableError_matrix {s : State} {die core tier : Nat} {m : MatEnt} {rest : List MatEnt}
    (hq : (s.core (die * 40 + core)).matQ = m :: rest) (hs : m.started ≠ none) (ht : tier = 3 ∨ tier = 5) :
    exec (.uncorrectableError (.matrix die core 0) tier) s = .next (s.failMat (die * 40 + core) m tier) := by
  obtain ⟨start, hs⟩ := Option.ne_none_iff_exists'.1 hs
  have htier : (tier == 3 || tier == 5) = true := by simpa using ht
  refine (exec_uncorrectableError ..).trans (execEvent_some ?_)
  simp [State.errMatrix, hq, hs, htier]

/-- One of the saddle die leaves the device at minimal safe function (R199, R376). -/
theorem uncorrectableError_saddle {s : State} (tier : Nat) (hoff : s.stage ≠ .off) (hmin : s.stage ≠ .minimal) :
    exec (.uncorrectableError .saddle tier) s = .next s.toMinimal :=
  (exec_uncorrectableError ..).trans (execEvent_some (by simp [hoff, hmin]))

/-- One of a save frame is recorded for its context, and fatal (R286, R288; log entry 106). -/
theorem uncorrectableError_frame {s : State} {ctx : Nat} (hu : (s.ctx ctx).saveUsed ≠ 0)
    (hst : (s.ctx ctx).st ∈ [CtxSt.active, .preempted, .faulted, .killing]) :
    exec (.uncorrectableError (.frame ctx) 0) s = .next ((({ s with freeCtr := s.freeCtr + 1 } : State).record ctx
      { clk := s.clk, pc := 0, info := Config.frameInfo s.freeCtr, kid := 0, code := MEM_UNCORRECTABLE, source := 2,
        wave := 65535 }).fatal ctx) := by
  have hmay : ((s.ctx ctx).st == .active || (s.ctx ctx).st == .preempted || (s.ctx ctx).st == .faulted ||
      (s.ctx ctx).st == .killing) = true := by simpa [or_assoc] using hst
  refine (exec_uncorrectableError ..).trans (execEvent_some ?_)
  simp [hu, hmay]

/-- Corrected data are counted (R199). -/
theorem correctableError_counts (s : State) (die : Nat) : exec (.correctableError die) s =
    .next (s.setDie die { s.die die with corrected := (s.die die).corrected + 1 }) := rfl

/-! The obligation -/

/-- Settles O56: each event by its own lemma above, in a state in which nothing holds it back. The one fault of a failed chunk is
log entry 30, the entry of a spoiled sector log entry 32, the record of a save frame's error log entry 106. -/
theorem engineSteps : Obligations.EngineSteps := by
  refine fun s => ⟨fun id o g => copyFire_fires,
    fun die core o ho => ⟨copyStart_starts ho, fun p => started_of_start, engineQ_start⟩,
    fun die core id rest o hfour hq ho hcan => copyStart_starts (nextStart?_head hfour hq ho hcan),
    fun id o g => segmentStart_starts,
    fun id path o ho hk hpin => ⟨?_, ?_, fun t => copyChunk_finishes ho hk hpin, ?_, ?_, ?_⟩,
    fun u ch w e bs g c => chpushAccept_accepts, fun die core => ⟨?_, ?_, ?_, ?_, ?_, ?_, ?_, ?_⟩,
    fun die x rest => geodeSearchStart_starts, fun die x w n base best second hx hw hn hbase => ?_,
    fun u id lane at_ tier w l r p => uncorrectableError_load, fun die core m rest tier => uncorrectableError_matrix,
    uncorrectableError_saddle, fun ctx hu hst => ⟨_, uncorrectableError_frame hu hst⟩, correctableError_counts s⟩
  · exact fun t o' hc hp hdone => by
      rw [copyChunk_performs ho hk hpin hc hp, finishOp_none hdone]; rfl
  · exact fun t o' t' hc hp hfin => by
      rw [copyChunk_performs ho hk hpin hc hp, hfin]; rfl
  · exact fun g r sg a hg hready hfrom hasked hreach => chunk_fails hg hready hfrom hasked hreach
  · exact fun g t bs t2 o2 hg hcopy hready hreach hserved hread hput ho2 =>
      ⟨chunk_moves hg hready hcopy (id_of_op? ho) hreach hserved hread hput ho2, fun hd => chunkLen_sp hcopy hd s g⟩
  · exact fun g hg hcopy hs hd hready hsp => copyChunk_sp ho hg hcopy hs hd hready hsp hpin
  · exact fun m rest => matrixEntryStart_starts
  · exact fun q rest start g r src bytes at_ n hq hs ht hkind hg hr hb => obldComplete_completes hq hs ht hg hkind hr hb
  · exact fun q rest start g k sg n l r f la lb word snap hq hs ht hkind hg hkern hsnap =>
      mmaComplete_completes hq hs ht hg hkind hkern hsnap
  · exact fun q rest start g k base rows oo os ro rs p al st r0 c0 act res rm f bank accs op o hq hs ht hkind hdrained hg hkern
      hop hres => mdrainComplete_completes hq hs ht hg hkind hdrained hkern hop hres
  · exact fun id w g seq pc n at_ start r bs grp q rest hq hqeq ht hg hr => by
      subst hqeq
      exact obldComplete_registers hq rfl (by simpa [MatEnt.time, Nat.add_assoc] using ht) hg rfl hr
  · exact fun u rest => unitOpStart_starts
  · exact fun o rest t w hu hs ht hw => ⟨fun hk => ⟨time_unit o.kind, unitOpComplete_writes hu hs ht hw hk⟩,
      unitOpComplete_does hu hs ht⟩
  · exact actldComplete_fills
  · subst hn hbase
    exact geodeSearchComplete_writes hx hw rfl

end Sys2Proof.Engines
end

section
/-! Words whose operands settle which registers they name, and the matrix queue (R258, R262). -/

namespace Sys2Proof.MatrixWork

open Sys2Proof Sys2Proof.Machine Sys2Proof.Laws

/-! The registers that a matrix word names beyond those of its encoding (R254, R258, R265) -/

/-- `us` are the uses of a word's encoding and others, none of them of a VV register. -/
def Widens (i : Instr) (us : List Use) : Prop := ∃ more, us = usesOf i ++ more ∧ ∀ u ∈ more, ∀ n k, u.reg ≠ .v n k

/-- They leave the VV registers of a word as they are. -/
theorem vvRegs_widens {i : Instr} {us : List Use} (hus : Widens i us) (f : Frame) (reads : Bool) :
    vvRegs f us reads = vvRegs f (usesOf i) reads := by
  obtain ⟨more, rfl, hmore⟩ := hus
  unfold vvRegs
  rw [List.flatMap_append]
  refine congrArg List.eraseDups ((congrArg _ (List.flatMap_eq_nil_iff.2 fun u hu => ?_)).trans (List.append_nil _))
  split
  · next n k hreg => exact absurd hreg (hmore u hu n k)
  · rfl

/-- So a word with such uses ends as its encoding says. -/
theorem finish_widens {i : Instr} {us : List Use} (hus : Widens i us) (x : Iss) (pipe : Pipe) (k sc : Nat) (s : State)
    (w : Wave) (mv : Move) : x.finish us pipe k sc s w mv = x.finish (usesOf i) pipe k sc s w mv := by
  unfold Iss.finish
  simp only [vvRegs_widens hus]

/-- And so is its effect on the state. -/
theorem effState_widens {i : Instr} {us : List Use} (hus : Widens i us) (x : Iss) (h : Hd) (pipe : Pipe) (n : Nat) (e : Eff) :
    effState x us h pipe n e = effState x (usesOf i) h pipe n e := by
  cases e with
  | done s w mv => exact finish_widens hus ..
  | _ => rfl

/-- A word may name one more register that is not of VV, under a condition. -/
theorem widens_one {i : Instr} {p : Prop} [Decidable p] {u : Use} (hu : ∀ n k, u.reg ≠ .v n k) :
    Widens i (usesOf i ++ if p then [u] else []) := by
  refine ⟨_, rfl, fun v hv => ?_⟩
  split at hv
  · exact List.mem_singleton.1 hv ▸ hu
  · cases hv

section
variable {x : Iss} (hx : x.live)
include hx

/-- OBLD names tile registers, when it reads tiles. -/
theorem widens_obldUses (i : Instr) (a b : SReg) : Widens i (obldUses x.s i a b) := by
  unfold obldUses; rw [show x.s.iss? = some x from hx]; exact widens_one nofun

/-- MMA names accumulators. -/
theorem widens_mmaUses (i : Instr) (base : BitVec 6) (cv : BitVec 4) : Widens i (mmaUses x.s i base cv) := by
  unfold mmaUses; rw [show x.s.iss? = some x from hx]; exact widens_one nofun

/-- So does MDRAIN. -/
theorem widens_drainUses (i : Instr) (base : BitVec 6) (a : SReg) : Widens i (drainUses x.s i base a) := by
  unfold drainUses; rw [show x.s.iss? = some x from hx]; exact widens_one nofun

/-! The outcome of such a word is that of its chain of checks -/

section
variable {i : Instr} {us : List Use} {h : Hd} {chk : Iss → List Nat → Chk Eff} (hr : x.ready us h) (hus : Widens i us)
  (hi : exec i x.s = execUses us h .scalar x.s fun x act => (chk x act).eff)
include hr hus hi

/-- The word has the effect in which its chain ends. -/
theorem widened_ends {c : Chk Eff} (he : chk x (x.active h) = c) :
    exec i x.s = .next (effState x (usesOf i) h .scalar (x.active h).length c.eff) := by
  rw [hi, execUses_ready hx hr, he, effState_widens hus]

/-- A chain that ends in a trap traps. -/
theorem widened_traps {code : Nat} {info : Word} (he : chk x (x.active h) = .error (.trap code info)) :
    exec i x.s = .next (x.trap h.sc.toNat code info) := widened_ends hx hr hus hi he

/-- A chain that ends in a wait waits. -/
theorem widened_waits (he : chk x (x.active h) = .error .wait) : exec i x.s = .next x.s := widened_ends hx hr hus hi he

/-- A chain that passes completes with its effect. -/
theorem widened_does {s : State} {w : Wave} (he : chk x (x.active h) = .ok (.done s w .next)) :
    exec i x.s = .next (x.after i h .scalar (x.active h).length s w .next) := widened_ends hx hr hus hi he

end

end

/-! A chain of checks, one check at a time -/

section
variable {α : Type} {f : Unit → Chk α} {v : Chk α}

/-- A check that holds leaves the rest of the chain. -/
theorem need_pass {c : Bool} {code : Nat} {info : Word} (hc : c = true) (hf : f () = v) : (need c code info >>= f) = v := by
  rw [hc]; exact hf

/-- A check that fails is the chain's end. -/
theorem need_fail {c : Bool} {code : Nat} {info : Word} (hc : c = false) :
    (need c code info >>= f) = .error (.trap code info) := by
  rw [hc]; rfl

/-- A range that is empty or lies in its store leaves the rest of the chain. -/
theorem inRange_pass {code size : Nat} {r : Nat × Nat} (hr : r.2 = 0 ∨ r.1 + r.2 ≤ size) (hf : f () = v) :
    (inRange code size r >>= f) = v := by
  rw [Copies.inRange_ok hr]; exact hf

/-- So does one that is looked at under a condition. -/
theorem inRange_pass_where {p : Prop} [Decidable p] {code size : Nat} {r : Nat × Nat} (hr : p → r.2 = 0 ∨ r.1 + r.2 ≤ size)
    (hf : f () = v) : (if p then inRange code size r >>= f else f ()) = v := by
  split
  · next hp => exact inRange_pass (hr hp) hf
  · exact hf

end

/-! Waits (R258, R263) -/

section
variable {x : Iss}

/-- The matrix queue has room for an entry. -/
theorem matRoom_of_lt (hroom : x.core.matQ.length < 16) : ¬ (!x.matRoom) = true := by simpa [Iss.matRoom] using hroom

/-- A matrix queue of 16 entries has none. -/
theorem not_matRoom_of_le (hfull : 16 ≤ x.core.matQ.length) : (!x.matRoom) = true := by simpa [Iss.matRoom] using hfull

/-- Accumulators that wait for no matrix work meet none of its places. -/
theorem not_meets_of_accFree {base rows : Nat} (hfree : x.accFree base rows) :
    ((x.s.accPending x.w x.k.views).any
      (·.meets (.win (accByte x.k.views base) (accByte x.k.views (base + rows))))) = false :=
  List.any_eq_false.2 fun l hl => Bool.not_eq_true _ ▸ hfree l hl

end

end Sys2Proof.MatrixWork
end

section
/-! CVINIT, LACE, OBRES, OBLD, OBREL and MWAIT (R253, R255, R257 to R259, R264). -/

namespace Sys2Proof.MatrixWork

open Sys2Proof Sys2Proof.Machine Sys2Proof.Laws

/-! CVINIT's operand and register (R253) -/

/-- A signer count that a convergence register may have (R253). -/
def SignerCount (v : Nat) : Prop := v = 1 ∨ v = 2 ∨ v = 4 ∨ v = 8

/-- The test of a signer count. -/
theorem signerCount_iff (v : Nat) : (!(v == 1 || v == 2 || v == 4 || v == 8)) = true ↔ ¬ SignerCount v := by
  simp [SignerCount, not_or, and_assoc]

/-- The test of a register that holds signatures. -/
theorem signed_iff (old : Option Cv) : (old.any fun c => !c.signed.isEmpty) = true ↔ ∃ c, old = some c ∧ c.signed ≠ [] := by
  cases old <;> simp

/-! LACE's descriptor (R255) -/

/-- The descriptor that LACE reads. -/
def laceOf (x : Iss) (d : BitVec 2) (a : SReg) : Lace :=
  { core := x.w.core, n := d.toNat, w0 := x.sreg a.toNat, w1 := x.sreg (a.toNat + 1), w2 := x.sreg (a.toNat + 2) }

/-! OBRES's operands and bytes (R257) -/

/-- A reservation of the core shares bytes with a range. -/
def Clashes (x : Iss) (base len : Nat) (r : Res) : Prop := r.core = x.w.core ∧ r.base < base + len ∧ base < r.base + r.len

/-- The test of that. -/
theorem clashes_iff (base len : Nat) (r : Res) :
    (r.core == x.w.core && meets (r.base, r.len) (base, len)) = true ↔ Clashes x base len r := by
  simp [Clashes, meets]

/-- A reservation's range is a run of blocks of 256 bytes. -/
structure RangeFits (rv : Word) : Prop where
  aligned : fld rv 0 20 % 256 = 0
  blocks : fld rv 20 20 % 256 = 0
  nonempty : fld rv 20 20 ≠ 0
  rest : fld rv 40 24 = 0

/-- A layout word gives the format `f`, with block lengths and exponents for DXB alone. -/
structure LayoutFits (lv : Word) (f : MFmt) : Prop where
  format : [MFmt.x8, .x4, .i8, .f16, .bf16, .f32][fld lv 0 3]? = some f
  rest : fld lv 27 37 = 0 ∧ lv.getLsbD 7 = false
  exponents : fld lv 8 19 % 2 = 0 ∧ (isDxb f = true ∨ (fld lv 3 4 = 0 ∧ fld lv 8 19 = 0))

/-- Such a word passes its test. -/
theorem LayoutFits.passes {lv : Word} {f : MFmt} (hlay : LayoutFits lv f) :
    (decide (fld lv 27 37 = 0) && !lv.getLsbD 7 && decide (fld lv 8 19 % 2 = 0) &&
      (isDxb f || (decide (fld lv 3 4 = 0) && decide (fld lv 8 19 = 0)))) = true := by
  rw [hlay.rest.2]
  simpa [hlay.rest.1] using hlay.exponents

/-- The name and the bytes of a reservation are free, and the core has a record for it. -/
structure Reservable (x : Iss) (n base len : Nat) : Prop where
  inside : base + len ≤ 524288
  name : x.g.res? x.w.core n = none
  own : ∀ r ∈ x.g.ress, r.live = true → r.n ≠ n → ¬ Clashes x base len r
  others : ∀ g ∈ x.s.groups, g.die = x.g.die → g.st = .placed ∨ g.st = .running ∨ g.st = .exiting →
    ∀ r ∈ g.ress, ¬ Clashes x base len r
  record : x.s.onCore x.g.die x.w.core (fun g => g.ress.map (·.core)) < 32

/-- Its bytes pass the test against the group's other live reservations. -/
theorem Reservable.own_passes {x : Iss} {n base len : Nat} (hfree : Reservable x n base len) :
    (decide (base + len ≤ 524288) && !x.g.ress.any fun r =>
      r.live && r.n != n && (r.core == x.w.core && meets (r.base, r.len) (base, len))) = true := by
  rw [decide_eq_true hfree.inside, Bool.true_and, Bool.not_eq_true', List.any_eq_false]
  intro r hr hclash
  rw [Bool.and_eq_true, Bool.and_eq_true, bne_iff_ne, clashes_iff] at hclash
  obtain ⟨⟨hlive, hn⟩, hclash⟩ := hclash
  exact hfree.own r hr hlive hn hclash

/-- No reservation of the core's groups, and no lack of a record, makes the word wait. -/
theorem Reservable.not_waits {x : Iss} {n base len : Nat} (hfree : Reservable x n base len) :
    ¬ (((x.s.groups.filter fun g => g.die == x.g.die && (g.st == .placed || g.st == .running || g.st == .exiting)).any fun g =>
        g.ress.any fun r => r.core == x.w.core && meets (r.base, r.len) (base, len)) ||
      decide (32 ≤ x.s.onCore x.g.die x.w.core fun g => g.ress.map (·.core))) = true := by
  rw [decide_eq_false (Nat.not_le.2 hfree.record), Bool.or_false]
  intro hany
  obtain ⟨g, hg, hany⟩ := List.any_eq_true.1 hany
  obtain ⟨r, hr, hclash⟩ := List.any_eq_true.1 hany
  simp only [List.mem_filter, Bool.and_eq_true, beq_iff_eq, Bool.or_eq_true, or_assoc] at hg
  obtain ⟨hg, hdie, hst⟩ := hg
  exact hfree.others g hg hdie hst r hr ((clashes_iff _ _ r).1 hclash)

/-- The reservation that OBRES makes. -/
def resOf (x : Iss) (n : Nat) (rv lv : Word) (f : MFmt) : Res :=
  { core := x.w.core, n := n, base := fld rv 0 20, len := fld rv 20 20, fmt := f, la := BitVec.ofNat 2 (fld lv 3 2),
    lb := BitVec.ofNat 2 (fld lv 5 2), expo := fld lv 8 19, live := true, uid := x.s.nextUid }

/-! OBLD's operand (R258) -/

/-- OBLD's operand word gives an offset and a count of bytes. -/
def LoadShape (p : Word) : Prop := fld p 41 23 = 0 ∧ fld p 20 20 ≠ 0 ∧ fld p 20 20 ≤ 524288

/-- The test of that. -/
theorem loadShape_iff (p : Word) :
    (decide (fld p 41 23 = 0) && fld p 20 20 != 0 && decide (fld p 20 20 ≤ 524288)) = true ↔ LoadShape p := by
  simp [LoadShape, and_assoc]

/-! OBREL's group (R259) -/

/-- A group with the core's reservations of one name not live. -/
def released (g : Group) (core n : Nat) : Group :=
  { g with ress := g.ress.map fun r => if r.core == core && r.n == n then { r with live := false } else r }

/-- It has no live one of that name. -/
theorem not_live_of_mem_released {g : Group} {core n : Nat} {r : Res} (hr : r ∈ (released g core n).ress) :
    ¬ (r.core == core && r.n == n && r.live) = true := by
  obtain ⟨q, -, rfl⟩ := List.mem_map.1 hr
  split <;> simp_all

/-- A group of the state is found again when it is replaced by one of its name. -/
theorem group?_setGroup {s : State} {g g' : Group} (hg : s.group? g'.uid = some g) : (s.setGroup g').group? g'.uid = some g' :=
  Regions.find?_replace_same Group.uid hg

/-- A group with some of its reservations. -/
def thinned (g : Group) (p : Res → Bool) : Group := { g with ress := g.ress.filter p }

/-! The words -/

section
variable {x : Iss} {h : Hd} (hx : x.live)
include hx

/-! CVINIT (R253) -/

section
variable {d : BitVec 4} {a : SReg}

/-- A count that no register may have traps. -/
theorem cvinit_miscounted (hv : ¬ SignerCount (x.sreg a.toNat).toNat) : x.traps (.cvinit h d a) h RESERVED_FIELD 18 :=
  fun hr => Control.word_traps hx hr rfl (if_pos ((signerCount_iff _).2 hv))

variable (hv : SignerCount (x.sreg a.toNat).toNat)
include hv

/-- A register with signatures traps. -/
theorem cvinit_signed {c : Cv} (hc : x.g.cv? x.w.core d.toNat = some c) (hs : c.signed ≠ []) :
    x.traps (.cvinit h d a) h GRANT_FAILED (wd (16 * (16 + d.toNat) + 15)) :=
  fun hr => Control.word_traps hx hr rfl ((if_neg fun hb => (signerCount_iff _).1 hb hv).trans
    (if_pos ((signed_iff _).2 ⟨c, hc, hs⟩)))

/-- Otherwise the register is set, once the core has a record for it. -/
theorem cvinit_sets (hfree : ∀ c, x.g.cv? x.w.core d.toNat = some c → c.signed = [])
    (hroom : x.g.cv? x.w.core d.toNat ≠ none ∨ x.s.onCore x.g.die x.w.core (fun g => g.cvs.map (·.core)) < 16) :
    x.does (.cvinit h d a) h (x.s.setGroup (x.g.setCv { core := x.w.core, n := d.toNat, signers := (x.sreg a.toNat).toNat,
                                                        signed := [], afield := 0, cfield := 0, word := 0 })) x.w :=
  fun hr => Control.word_done hx hr rfl ((if_neg fun hb => (signerCount_iff _).1 hb hv).trans
    ((if_neg fun hb => let ⟨c, hc, hs⟩ := (signed_iff _).1 hb; hs (hfree c hc)).trans
      (if_neg (by simpa [imp_iff_not_or] using hroom))))

end

/-! LACE (R255) -/

section
variable {d : BitVec 2} {a : SReg}

/-- A malformed descriptor traps. -/
theorem lace_malformed (hl : (laceOf x d a).ok = false) : x.traps (.lace h d a) h RESERVED_FIELD 18 :=
  fun hr => Control.word_traps hx hr rfl (if_pos (show (!(laceOf x d a).ok) = true by rw [hl]; rfl))

/-- A well-formed one takes the place of the one of its name, once the core has a record for it. -/
theorem lace_sets (hl : (laceOf x d a).ok = true)
    (hroom : x.g.lace? x.w.core d.toNat ≠ none ∨ x.s.onCore x.g.die x.w.core (fun g => g.laces.map (·.core)) < 16) :
    x.does (.lace h d a) h (x.s.setGroup { x.g with
      laces := (x.g.laces.filter fun y => !(y.core == x.w.core && y.n == d.toNat)) ++ [laceOf x d a] }) x.w :=
  fun hr => Control.word_done hx hr rfl
    ((if_neg (show ¬ (!(laceOf x d a).ok) = true by rw [hl]; simp)).trans
      (if_neg (by simpa [imp_iff_not_or] using hroom)))

end

/-! OBRES (R257) -/

section
variable {d : BitVec 3} {a b : SReg}

/-- A range that does not begin at a block traps. -/
theorem obres_misaligned (hb : fld (x.sreg a.toNat) 0 20 % 256 ≠ 0) :
    x.traps (.obres h d a b) h MISALIGNED (wd (16 * d.toNat + 1)) :=
  Regions.chain_traps hx rfl (need_fail (decide_eq_false hb))

/-- A range that is no run of blocks traps. -/
theorem obres_missized (hb : fld (x.sreg a.toNat) 0 20 % 256 = 0)
    (hl : fld (x.sreg a.toNat) 20 20 % 256 ≠ 0 ∨ fld (x.sreg a.toNat) 20 20 = 0) :
    x.traps (.obres h d a b) h MISALIGNED (wd (16 * d.toNat + 2)) :=
  Regions.chain_traps hx rfl (need_pass (decide_eq_true hb) (need_fail (by simpa [imp_iff_not_or] using hl)))

/-- Operands that fit make a reservation live. -/
theorem obres_reserves {f : MFmt} (hrange : RangeFits (x.sreg a.toNat)) (hlay : LayoutFits (x.sreg b.toNat) f)
    (hfree : Reservable x d.toNat (fld (x.sreg a.toNat) 0 20) (fld (x.sreg a.toNat) 20 20)) :
    x.does (.obres h d a b) h ((x.named 1).setGroup
      { x.g with ress := x.g.ress ++ [resOf x d.toNat (x.sreg a.toNat) (x.sreg b.toNat) f] }) x.w := by
  refine Regions.chain_does hx rfl (need_pass (decide_eq_true hrange.aligned)
    (need_pass (by simp [hrange.blocks, hrange.nonempty]) (need_pass (decide_eq_true hrange.rest) ?_)))
  simp only [hlay.format]
  exact need_pass hlay.passes (need_pass hfree.own_passes (need_pass (by rw [hfree.name]; rfl) (if_neg hfree.not_waits)))

end

/-! OBLD (R258) -/

section
variable {d : BitVec 3} {a b : SReg}

variable (hr : x.ready (obldUses x.s (.obld h d a b) a b) h)
include hr

/-- A malformed operand traps. -/
theorem obld_malformed (hp : ¬ LoadShape (x.sreg b.toNat)) :
    exec (.obld h d a b) x.s = .next (x.trap h.sc.toNat RESERVED_FIELD 9) :=
  widened_traps hx hr (widens_obldUses hx ..) rfl (need_fail (Bool.eq_false_iff.2 fun hb => hp ((loadShape_iff _).1 hb)))

variable (hp : LoadShape (x.sreg b.toNat))
include hp

/-- A name without a live reservation traps. -/
theorem obld_missing (hres : x.g.res? x.w.core d.toNat = none) :
    exec (.obld h d a b) x.s = .next (x.trap h.sc.toNat GRANT_FAILED (wd (16 * d.toNat + 14))) :=
  widened_traps hx hr (widens_obldUses hx ..) rfl (need_pass ((loadShape_iff _).2 hp) (by simp only [hres]; rfl))

variable {r : Res} (hres : x.g.res? x.w.core d.toNat = some r)
include hres

/-- Bytes past the end of the reservation trap. -/
theorem obld_outside (hlen : r.len < fld (x.sreg b.toNat) 0 20 + fld (x.sreg b.toNat) 20 20) :
    exec (.obld h d a b) x.s = .next (x.trap h.sc.toNat GRANT_FAILED (wd (16 * d.toNat + 13))) := by
  refine widened_traps hx hr (widens_obldUses hx ..) rfl (need_pass ((loadShape_iff _).2 hp) ?_)
  simp only [hres]
  exact need_fail (decide_eq_false (Nat.not_le.2 hlen))

variable (hlen : fld (x.sreg b.toNat) 0 20 + fld (x.sreg b.toNat) 20 20 ≤ r.len)
include hlen

section
variable (hsp : (x.sreg b.toNat).getLsbD 40 = false)
  (hin : fld (x.sreg a.toNat) 0 20 + fld (x.sreg b.toNat) 20 20 ≤ x.scr)
include hsp hin

/-- One that reads the scratchpad waits for a place in the queue. -/
theorem obld_waits (hfull : 16 ≤ x.core.matQ.length) : exec (.obld h d a b) x.s = .next x.s := by
  refine widened_waits hx hr (widens_obldUses hx ..) rfl (need_pass ((loadShape_iff _).2 hp) ?_)
  simp only [hres, hsp]
  exact need_pass (decide_eq_true hlen) (need_pass rfl (inRange_pass (.inr hin) (if_pos (not_matRoom_of_le hfull))))

/-- It enters the queue with the place of its bytes. -/
theorem obld_enters (hroom : x.core.matQ.length < 16) : exec (.obld h d a b) x.s = .next
    (x.after (.obld h d a b) h .scalar (x.active h).length (x.matQueued (x.named 1) (x.matEnt (.obld
      (some (fld (x.sreg a.toNat) 0 20)) [] (fld (x.sreg b.toNat) 0 20) (fld (x.sreg b.toNat) 20 20) r.uid))) x.w .next) := by
  refine widened_does hx hr (widens_obldUses hx ..) rfl (need_pass ((loadShape_iff _).2 hp) ?_)
  simp only [hres, hsp]
  exact need_pass (decide_eq_true hlen) (need_pass rfl (inRange_pass (.inr hin) (if_neg (matRoom_of_lt hroom))))

end

/-- One that reads tiles enters the queue with their bytes. -/
theorem obld_entersTiles (ht : (x.sreg b.toNat).getLsbD 40 = true) (hview : viewT x.k.views ≠ 0x1FF)
    (hregs : 256 * fld (x.sreg a.toNat) 0 6 + fld (x.sreg b.toNat) 20 20 ≤ 16384)
    (hwin : tileByte x.k.views (fld (x.sreg a.toNat) 0 6) + fld (x.sreg b.toNat) 20 20 ≤ x.k.win * 256)
    (hroom : x.core.matQ.length < 16) : exec (.obld h d a b) x.s = .next
    (x.after (.obld h d a b) h .scalar (x.active h).length (x.matQueued (x.named 1) (x.matEnt (.obld none
      (x.tileBytes (fld (x.sreg a.toNat) 0 6) (fld (x.sreg b.toNat) 20 20)) (fld (x.sreg b.toNat) 0 20)
      (fld (x.sreg b.toNat) 20 20) r.uid))) x.w .next) := by
  refine widened_does hx hr (widens_obldUses hx ..) rfl (need_pass ((loadShape_iff _).2 hp) ?_)
  simp only [hres, ht]
  exact need_pass (decide_eq_true hlen) (need_pass (by simp [hview, hregs, hwin]) (if_neg (matRoom_of_lt hroom)))

end

/-! OBREL (R259) -/

section
variable {d : BitVec 3}

/-- OBREL ends the reservation of its name, and frees it where it has no user left. -/
theorem obrel_releases : x.does (.obrel h d) h ((x.s.setGroup (released x.g x.w.core d.toNat)).freeRes x.g.uid) x.w :=
  fun hr => Control.word_done hx hr rfl rfl

/-- What OBREL makes of the state: the group keeps some of its reservations, and nothing else changes. -/
theorem freeRes_released (n : Nat) : ∃ p, (x.s.setGroup (released x.g x.w.core n)).freeRes x.g.uid =
    (x.s.setGroup (released x.g x.w.core n)).setGroup (thinned (released x.g x.w.core n) p) := by
  have hg : (x.s.setGroup (released x.g x.w.core n)).group? x.g.uid = some (released x.g x.w.core n) :=
    group?_setGroup (Barriers.group?_live hx)
  unfold State.freeRes
  rw [hg]
  exact ⟨_, rfl⟩

/-- After it no reservation of that name is live. -/
theorem res?_freeRes_released {n : Nat} {g : Group}
    (hg : ((x.s.setGroup (released x.g x.w.core n)).freeRes x.g.uid).group? x.g.uid = some g) :
    g.res? x.w.core n = none := by
  obtain ⟨p, hp⟩ := freeRes_released hx n
  have hfound : ((x.s.setGroup (released x.g x.w.core n)).freeRes x.g.uid).group? x.g.uid =
      some (thinned (released x.g x.w.core n) p) :=
    hp ▸ group?_setGroup (group?_setGroup (g' := released x.g x.w.core n) (Barriers.group?_live hx))
  obtain rfl := Option.some.inj (hfound.symm.trans hg)
  exact List.find?_eq_none.2 fun r hr => not_live_of_mem_released (List.mem_of_mem_filter hr)

end

/-! MWAIT (R264) -/

/-- MWAIT holds the wave. -/
theorem mwait_holds : x.does (.mwait h) h x.s { x.w with hold := .mwait } := fun hr => Control.word_done hx hr rfl rfl

end

/-- Settles O37: the six words in the order of their checks. -/
theorem matrixState : Obligations.MatrixState := by
  refine fun x h hx => ⟨fun d a => ⟨cvinit_miscounted hx, fun c hv => cvinit_signed hx hv, cvinit_sets hx⟩,
    fun d a => ⟨lace_malformed hx, lace_sets hx⟩,
    fun d a b f => ⟨obres_misaligned hx, obres_missized hx, ?_⟩,
    fun d a b hr => ⟨fun hp _ => obld_malformed hx hr hp, fun hp hres _ => obld_missing hx hr hp hres,
      fun r hp hres => ⟨fun hlen _ => obld_outside hx hr hp hres hlen,
        fun hlen hsp hin => ⟨fun hfull _ => obld_waits hx hr hp hres hlen hsp hin hfull,
          fun hroom _ => obld_enters hx hr hp hres hlen hsp hin hroom⟩,
        fun hlen ht hview hregs hwin hroom _ => obld_entersTiles hx hr hp hres hlen ht hview hregs hwin hroom⟩⟩,
    fun d => ⟨_, obrel_releases hx, ?_, ?_, fun g => res?_freeRes_released hx⟩, mwait_holds hx⟩
  · intro hb hl hl0 hz hf hz' hz7 hex hdxb hinside hname hown hothers hrecord
    exact obres_reserves hx ⟨hb, hl, hl0, hz⟩ ⟨hf, ⟨hz', hz7⟩, hex, hdxb⟩ ⟨hinside, hname, hown, hothers, hrecord⟩
  · obtain ⟨p, hp⟩ := freeRes_released hx d.toNat
    rw [hp]; rfl
  · obtain ⟨p, hp⟩ := freeRes_released hx d.toNat
    rw [hp]; rfl

end Sys2Proof.MatrixWork
end

section
/-! MMA and MDRAIN (R253, R254, R260, R262, R265). -/

namespace Sys2Proof.MatrixWork

open Sys2Proof Sys2Proof.Machine Sys2Proof.Laws

/-! MMA (R253, R254, R260) -/

section
variable {x : Iss} {h : Hd} {clr : Bool} {base : BitVec 6} {ob : BitVec 3} {ld : BitVec 2} {cv : BitVec 4} {b : SReg}
  {la lb : BitVec 2} {f : MFmt} {c : Cv} {l : Lace} {r : Res}

/-- The A field of an MMA, which its generation's first signature fixes. -/
def fieldA (ob : BitVec 3) (ld : BitVec 2) (cv : BitVec 4) : BitVec 9 := ob ++ ld ++ cv

/-- The C field, with the format's code. -/
def fieldC (la lb : BitVec 2) (f : MFmt) : BitVec 9 :=
  let code : BitVec 3 := match f with
    | .x8 => 0
    | .x4 => 1
    | .i8 => 2
    | .f16 => 3
    | .bf16 => 4
    | .f32 => 5
  la ++ lb ++ (0 : BitVec 2) ++ code

/-- A convergence register's signatures with one of the issuing wave. -/
def signedBy (x : Iss) (c : Cv) (base : BitVec 6) (clr : Bool) : List Sign :=
  c.signed ++ [⟨x.w.uid, x.p.pc, x.p.lanes, x.p.nest, x.w.index, base.toNat, clr, x.s.nextUid⟩]

/-- An MMA agrees with the signatures of its generation (R254). -/
def Agrees (c : Cv) (af cf : BitVec 9) (word : Word) : Prop := c.signed = [] ∨ (c.afield = af ∧ c.cfield = cf ∧ c.word = word)

/-- So each of its fields passes. -/
theorem passes_of_agrees {af cf : BitVec 9} {word : Word} (ha : Agrees c af cf word) :
    (c.signed.isEmpty || c.afield == af) = true ∧ (c.signed.isEmpty || c.cfield == cf) = true ∧
    (c.signed.isEmpty || c.word == word) = true := by
  obtain hs | ⟨haf, hcf, hw⟩ := ha
  · simp [hs]
  · simp [haf, hcf, hw]

/-- The matrix objects that an MMA names are there, its operands fit, its wave has not signed yet, its accumulators wait for no
matrix work, and it agrees with its generation (R253, R254, R260, R263). -/
structure Signs (x : Iss) (c : Cv) (l : Lace) (r : Res) (base : BitVec 6) (ob : BitVec 3) (ld : BitVec 2) (cv : BitVec 4)
    (la lb : BitVec 2) (f : MFmt) (word : Word) : Prop where
  register : x.g.cv? x.w.core cv.toNat = some c
  lacing : x.g.lace? x.w.core ld.toNat = some l
  reservation : x.g.res? x.w.core ob.toNat = some r
  fits : x.MmaFits c l r base la lb f word
  first : ∀ s ∈ c.signed, s.wave ≠ x.w.uid
  free : x.accFree base.toNat (64 / c.signers)
  agrees : Agrees c (fieldA ob ld cv) (fieldC la lb f) word

/-- What an MMA whose checks pass does: its signature is kept, or is the last of its generation (R253, R262). -/
def mmaEnd (x : Iss) (c : Cv) (l : Lace) (r : Res) (base : BitVec 6) (clr : Bool) (ob : BitVec 3) (ld : BitVec 2)
    (cv : BitVec 4) (la lb : BitVec 2) (f : MFmt) (word : Word) : Chk Eff :=
  let sg := signedBy x c base clr
  if sg.length < c.signers then
    .ok (.done ((x.named 1).setGroup (x.g.setCv { c with
      signed := sg, afield := fieldA ob ld cv, cfield := fieldC la lb f, word := word })) x.w .next)
  else if !x.matRoom then .error .wait
  else .ok (.done (x.matQueued ((x.named 1).setGroup (x.g.setCv { c with signed := [] }))
    (x.matEnt (.mma sg c.signers l r f la lb word none))) x.w .next)

section
variable (hx : x.live) (hr : x.ready (mmaUses x.s (.mma h clr base ob ld cv b la lb f) base cv) h)
include hx hr

/-- A convergence register without a CVINIT traps. -/
theorem mma_missing (hc : x.g.cv? x.w.core cv.toNat = none) : exec (.mma h clr base ob ld cv b la lb f) x.s =
    .next (x.trap h.sc.toNat GRANT_FAILED (wd (16 * (16 + cv.toNat) + 7))) :=
  widened_traps hx hr (widens_mmaUses hx ..) rfl (by simp only [hc]; rfl)

/-- The checks of an MMA, one by one. -/
theorem mma_passes (hs : Signs x c l r base ob ld cv la lb f (x.sreg b.toNat)) :
    exec (.mma h clr base ob ld cv b la lb f) x.s =
      .next (effState x (usesOf (.mma h clr base ob ld cv b la lb f)) h .scalar (x.active h).length
        (mmaEnd x c l r base clr ob ld cv la lb f (x.sreg b.toNat)).eff) := by
  obtain ⟨hcv, hlace, hres, ⟨hfmt, hword, hrows, hblocks, hlen, hin, hexp, halign⟩, hfirst, hfree, hagree⟩ := hs
  obtain ⟨haf, hcf, hw⟩ := passes_of_agrees hagree
  have hbusy : ¬ (c.signed.any (·.wave == x.w.uid) || (x.s.accPending x.w x.k.views).any
      (·.meets (.win (accByte x.k.views base.toNat) (accByte x.k.views (base.toNat + 64 / c.signers))))) = true := by
    rw [not_meets_of_accFree hfree, Bool.or_false]
    simpa using hfirst
  refine widened_ends hx hr (widens_mmaUses hx ..) rfl ?_
  simp only [hcv, hlace, hres, Regions.ok_bind]
  refine need_pass (by simp [hfmt]) (need_pass (by simpa [Nat.one_le_iff_ne_zero, and_assoc] using hword)
    (need_pass (by simpa using hrows) (need_pass (by simpa [imp_iff_not_or] using hblocks)
      (need_pass (by simpa [imp_iff_not_or] using hlen)
        (inRange_pass hin (inRange_pass_where hexp (need_pass (by simpa using halign) ?_)))))))
  exact (if_neg hbusy).trans (need_pass haf (need_pass hcf (need_pass hw rfl)))

/-- A signature that is not the last of its generation is kept. -/
theorem mma_keeps (hs : Signs x c l r base ob ld cv la lb f (x.sreg b.toNat))
    (hlt : (signedBy x c base clr).length < c.signers) : exec (.mma h clr base ob ld cv b la lb f) x.s =
    .next (x.after (.mma h clr base ob ld cv b la lb f) h .scalar (x.active h).length
      ((x.named 1).setGroup (x.g.setCv { c with
        signed := signedBy x c base clr, afield := fieldA ob ld cv, cfield := fieldC la lb f, word := x.sreg b.toNat }))
      x.w .next) := by
  rw [mma_passes hx hr hs, mmaEnd, if_pos hlt]; rfl

/-- The last signature waits for a place in the queue. -/
theorem mma_waits (hs : Signs x c l r base ob ld cv la lb f (x.sreg b.toNat))
    (hle : c.signers ≤ (signedBy x c base clr).length) (hfull : 16 ≤ x.core.matQ.length) :
    exec (.mma h clr base ob ld cv b la lb f) x.s = .next x.s := by
  rw [mma_passes hx hr hs, mmaEnd, if_neg (Nat.not_lt.2 hle), if_pos (not_matRoom_of_le hfull)]; rfl

/-- It starts a new generation, and the operation enters the queue. -/
theorem mma_enters (hs : Signs x c l r base ob ld cv la lb f (x.sreg b.toNat))
    (hle : c.signers ≤ (signedBy x c base clr).length) (hroom : x.core.matQ.length < 16) :
    exec (.mma h clr base ob ld cv b la lb f) x.s =
    .next (x.after (.mma h clr base ob ld cv b la lb f) h .scalar (x.active h).length
      (x.matQueued ((x.named 1).setGroup (x.g.setCv { c with signed := [] }))
        (x.matEnt (.mma (signedBy x c base clr) c.signers l r f la lb (x.sreg b.toNat) none))) x.w .next) := by
  rw [mma_passes hx hr hs, mmaEnd, if_neg (Nat.not_lt.2 hle), if_neg (matRoom_of_lt hroom)]; rfl

end

end

/-! MDRAIN (R265) -/

section
variable {x : Iss} {h : Hd} {base : BitVec 6} {a b : SReg} {act res : Bool} {rm : Rm} {f : FType}

/-- The operands of an MDRAIN are well formed: rows of accumulators, and rows of the scratchpad for its results and, with
`res`, for its residuals. -/
structure DrainFits (x : Iss) (base : BitVec 6) (v0 v1 v2 : Word) (res : Bool) (f : FType) : Prop where
  rest : fld v0 52 12 = 0 ∧ (res = true → fld v1 36 28 = 0) ∧ fld v2 56 8 = 0
  count : fld v0 36 16 ≠ 0 ∧ fld v0 36 16 ≤ 64
  rows : base.toNat + fld v0 36 16 ≤ 64 ∧ (x.frame.locs? (.acc base.toNat (fld v0 36 16))).isSome = true
  aligned : fld v0 0 20 % drainSize f = 0 ∧ fld v0 20 16 % drainSize f = 0 ∧
    (res = true → fld v1 0 20 % 4 = 0 ∧ fld v1 20 16 % 4 = 0)
  results : fld v0 0 20 + ((fld v0 36 16 - 1) * fld v0 20 16 + 64 * drainSize f) ≤ x.scr
  residuals : res = true → fld v1 0 20 + ((fld v0 36 16 - 1) * fld v1 20 16 + 256) ≤ x.scr

/-- The operation that MDRAIN adds. -/
def drainOp (x : Iss) (rows : Nat) (f : FType) : CopyOp := CopyOp.new x x.s.nextUid .drain .sp .sp [] (rows * 64 * drainSize f)

/-- It is one that has just issued. -/
theorem issued_drainOp (x : Iss) (rows : Nat) (f : FType) :
    Issued x (drainOp x rows f) .drain .sp .sp [] (rows * 64 * drainSize f) none none where
  name := ⟨rfl, rfl, rfl⟩
  owner := ⟨rfl, rfl, rfl, rfl⟩
  what := ⟨rfl, rfl, rfl, rfl, rfl, rfl, rfl⟩
  progress := ⟨rfl, rfl, rfl, rfl, rfl⟩

/-- The work of its matrix-queue entry. -/
def drainKind (x : Iss) (base : BitVec 6) (v0 v1 v2 v3 : Word) (act res : Bool) (rm : Rm) (f : FType) : MatKind :=
  .mdrain base.toNat (fld v0 36 16) (fld v0 0 20) (fld v0 20 16) (fld v1 0 20) (fld v1 20 16) (fld v2 32 24)
    (BitVec.ofNat 32 (fld v2 0 32)) (fld v3 40 24) (fld v3 0 20) (fld v3 20 20) act res rm f (x.core.selAt x.clk) []
    x.s.nextUid

/-- What an MDRAIN whose checks pass does (R262, R263). -/
def drainEnd (x : Iss) (rows base : Nat) (f : FType) (k : MatKind) : Chk Eff :=
  if (x.s.accPending x.w x.k.views).any
      (·.meets (.win (accByte x.k.views base) (accByte x.k.views (base + rows)))) || !x.matRoom then .error .wait
  else .ok (.done (x.matQueued { x.named 1 with ops := x.s.ops ++ [drainOp x rows f] } (x.matEnt k)) x.w .next)

section
variable (hx : x.live) (hr : x.ready (drainUses x.s (.mdrain h base a b act res rm f) base a) h)
  (hfit : DrainFits x base (x.sreg a.toNat) (x.sreg (a.toNat + 1)) (x.sreg (a.toNat + 2)) res f)
include hx hr hfit

/-- The checks of an MDRAIN, one by one. -/
theorem mdrain_passes : exec (.mdrain h base a b act res rm f) x.s =
    .next (effState x (usesOf (.mdrain h base a b act res rm f)) h .scalar (x.active h).length
      (drainEnd x (fld (x.sreg a.toNat) 36 16) base.toNat f (drainKind x base (x.sreg a.toNat) (x.sreg (a.toNat + 1))
        (x.sreg (a.toNat + 2)) (x.sreg b.toNat) act res rm f)).eff) := by
  obtain ⟨⟨hz0, hz1, hz2⟩, hcount, hrows, ⟨ho, hs, hres⟩, hout, hin⟩ := hfit
  refine widened_ends hx hr (widens_drainUses hx ..) rfl ?_
  exact need_pass (by simpa [hz0, hz2, imp_iff_not_or, hcount] using hz1) (need_pass (by simpa using hrows)
    (need_pass (by simpa [ho, hs, imp_iff_not_or] using hres)
      (inRange_pass (.inr hout) (inRange_pass_where (fun hr => .inr (hin hr)) rfl))))

/-- It waits for a place in the queue. -/
theorem mdrain_waits (hfull : 16 ≤ x.core.matQ.length) : exec (.mdrain h base a b act res rm f) x.s = .next x.s := by
  rw [mdrain_passes hx hr hfit, drainEnd, not_matRoom_of_le hfull, Bool.or_true]; rfl

/-- Once its accumulators wait for no matrix work, it enters the queue. -/
theorem mdrain_enters (hfree : x.accFree base.toNat (fld (x.sreg a.toNat) 36 16)) (hroom : x.core.matQ.length < 16) :
    exec (.mdrain h base a b act res rm f) x.s =
    .next (x.after (.mdrain h base a b act res rm f) h .scalar (x.active h).length
      (x.matQueued { x.named 1 with ops := x.s.ops ++ [drainOp x (fld (x.sreg a.toNat) 36 16) f] }
        (x.matEnt (drainKind x base (x.sreg a.toNat) (x.sreg (a.toNat + 1)) (x.sreg (a.toNat + 2)) (x.sreg b.toNat)
          act res rm f))) x.w .next) := by
  rw [mdrain_passes hx hr hfit, drainEnd, not_meets_of_accFree hfree, Bool.false_or, if_neg (matRoom_of_lt hroom)]; rfl

end

end

/-- Bytes of MDRAIN's output type. -/
theorem drainSize_eq (f : FType) : drainSize f = if f = .f32 then 4 else 2 := by cases f <;> rfl

/-- Settles O38: the checks of MMA and of MDRAIN pass, and then the queue decides. -/
theorem matrixWords : Obligations.MatrixWords := by
  refine fun x h hx => ⟨?_, fun clr base ob ld cv b la lb f => mma_missing hx, ?_⟩
  · intro clr base ob ld cv b la lb f c l r i word code sg hr hcv hlace hres hfit hfirst hfree hagree
    have hs : Signs x c l r base ob ld cv la lb f word := ⟨hcv, hlace, hres, hfit, hfirst, hfree, hagree⟩
    exact ⟨mma_keeps hx hr hs, mma_waits hx hr hs, mma_enters hx hr hs⟩
  · intro base a b act res rm f
    rw [← drainSize_eq]
    intro i v0 v1 v2 v3 rows ostr ooff rstr roff z hr hz0 hz1 hz2 hpos hle hrow hacc ho hs hres hout hin
    have hfit : DrainFits x base v0 v1 v2 res f :=
      ⟨⟨hz0, hz1, hz2⟩, ⟨hpos, hle⟩, ⟨hrow, hacc⟩, ⟨ho, hs, hres⟩, hout, hin⟩
    exact ⟨mdrain_waits hx hr hfit, fun hfree hroom => ⟨_, issued_drainOp .., mdrain_enters hx hr hfit hfree hroom⟩⟩

end Sys2Proof.MatrixWork
end

section
/-! The hypervector words (R274 to R281, R284). -/

namespace Sys2Proof.Hypervectors

open Sys2Proof Sys2Proof.Machine Sys2Proof.Laws Sys2Proof.Control Sys2Proof.Regions

/-! Unit words -/

/-- A unit word finds its core's unit queue full. -/
theorem unit_full {x : Iss} (hfull : 8 ≤ x.core.unitQ.length) (w : Wave) (k : UnitKind) : x.unit w k = .wait := if_pos hfull

/-- A word whose effect is a unit operation. -/
theorem units_of_eff {x : Iss} {i : Instr} {h : Hd} {w : Wave} {k : UnitKind} {eff : Iss → List Nat → Eff} (hx : x.live)
    (hi : exec i x.s = execWord i h .scalar x.s eff) (he : eff x (x.active h) = x.unit w k) : x.units i h w k :=
  ⟨fun hfull hr => word_waits hx hr hi (he.trans (unit_full hfull w k)),
    fun hroom hr => word_done hx hr hi (he.trans (if_neg (Nat.not_le.2 hroom)))⟩

/-- A search by a word of which bits 63 to 3 are 0 enters the unit. -/
theorem search_enters {x : Iss} {b : SReg} (h0 : fld (x.sreg b.toNat) 3 61 = 0) (d : SReg) (a : BitVec 4) (two : Bool) :
    x.search d a b two = x.unit x.w (.srch d.toNat a.toNat (fld (x.sreg b.toNat) 0 3) two) := if_neg (by simp [h0])

/-- Any other is refused. -/
theorem search_refused {x : Iss} {b : SReg} (h0 : fld (x.sreg b.toNat) 3 61 ≠ 0) (d : SReg) (a : BitVec 4) (two : Bool) :
    x.search d a b two = .trap RESERVED_FIELD 9 := if_pos (by simpa using h0)

/-! HLD and HST -/

/-- An access in bounds passes the bounds check. -/
theorem inBounds_one {off_ len z : Nat} (hle : off_ + z ≤ len) (code : Nat) : inBounds code len z [(0, off_)] = .ok () := by
  simp [inBounds, hle]

/-- An aligned access passes the alignment check. -/
theorem aligned_one {off_ z : Nat} (h0 : off_ % z = 0) (code : Nat) : aligned code z [(0, off_)] = .ok () := by
  simp [aligned, h0]

/-- Where a load or a store of a hypervector register may be made, its checks pass. -/
theorem hvPlace_ok {x : Iss} {e : Endp} {store : Bool} {off_ at_ code : Nat} {t : Tgt} {free_ : Bool}
    (h : x.hvSide e store off_ t at_ code free_) :
    x.hvPlace e off_ store = .ok ⟨t, at_ - off_, free_, code⟩ ∧ at_ - off_ + off_ = at_ := by
  obtain ⟨h16, h⟩ := h
  cases e with
  | region c =>
    obtain ⟨g, hg, hle, rfl, rfl, rfl, rfl⟩ := h
    have husable : x.usable c.toNat (!store) (if store then [.x] else [.x, .s, .a]) (if store then 1 else 0) = .ok g := by
      cases store with
      | true => exact usable_holds hg.1 (by rw [hg.2]; rfl) _ _
      | false => exact usable_reads hg (by cases g.kind <;> rfl) _
    refine ⟨?_, by omega⟩
    simp only [Iss.hvPlace, husable, inBounds_one hle, aligned_one h16, ok_bind, Nat.add_sub_cancel]
  | sp | chan _ =>
    obtain ⟨hle, rfl, rfl, rfl, rfl⟩ := h
    simp only [Iss.hvPlace, inBounds_one hle, aligned_one h16, ok_bind, Nat.sub_self, Nat.zero_add, and_self]

section
variable {x : Iss} {h : Hd} {d : BitVec 4} {a : Endp} {b : SReg} {t : Tgt} {at_ code : Nat} {free_ : Bool}

/-- HLD puts one load of 1,024 bytes in flight. -/
theorem hld_does (hx : x.live) (hs : x.hvSide a false (x.sreg b.toNat).toNat t at_ code free_)
    (hfree : x.entriesFree (x.missing ⟨t, at_ - (x.sreg b.toNat).toNat, free_, code⟩ 0 1024 [at_]).length) :
    let miss := x.missing ⟨t, at_ - (x.sreg b.toNat).toNat, free_, code⟩ 0 1024 [at_]
    x.does (.hld h d a b) h (x.taking miss.length)
      { x.w with loads := x.w.loads ++ [x.loadP code t 1024 [(0, at_)] (.hv (8 * hSlot x.k.views d.toNat)) false miss 0] } := by
  intro miss hr
  obtain ⟨hp, hat⟩ := hvPlace_ok hs
  refine word_done hx hr rfl ?_
  simp only [hp, ok_bind, hat, Chk.eff]
  exact withEntries_free hfree _ _ _

/-- HST puts one store of 1,024 bytes into the outbox. -/
theorem hst_does (hx : x.live) (hs : x.hvSide a true (x.sreg b.toNat).toNat t at_ code free_) (hfree : x.free t 1024 [at_]) :
    x.does (.hst h d a b) h (x.storing t free_ 0 1024 [at_])
      { x.w with outbox := x.w.outbox ++ [x.entry code t (.write at_
          ((List.range 128).flatMap fun j => leBytes 8 (x.w.readSlot x.clk (hSlot x.k.views d.toNat + j)).toNat) [])] } := by
  intro hr
  obtain ⟨hp, hat⟩ := hvPlace_ok hs
  refine word_done hx hr rfl ?_
  simp only [hp, ok_bind, hat, storeFree_ok hfree, Chk.eff, State.fresh, mergeStore_nextUid]
  rfl

end

/-- Settles O39: a unit word meets the queue and nothing else, but that HCW and the searches are checked first; the one
access of HLD and HST passes its checks. -/
theorem hypervectorWords : Obligations.HypervectorWords := by
  refine fun x h hx => ⟨fun d a b => units_of_eff hx rfl rfl, fun d a b => units_of_eff hx rfl rfl,
    fun d a => units_of_eff hx rfl rfl, fun d a => units_of_eff hx rfl rfl, fun d => units_of_eff hx rfl rfl,
    fun d a => units_of_eff hx rfl rfl, fun d a b => units_of_eff hx rfl rfl, fun d a => units_of_eff hx rfl rfl,
    fun a => units_of_eff hx rfl rfl, fun w => ⟨fun hfits => ?_, fun hfits hr => ?_⟩,
    fun d a b => ⟨fun h0 => ⟨?_, ?_⟩, fun h0 => ⟨fun hr => ?_, fun hr => ?_⟩⟩,
    fun d a b t at_ code free_ => ⟨hld_does hx, hst_does hx⟩⟩
  · exact units_of_eff hx rfl (if_neg (by simp [← Option.not_isSome, hfits]))
  · exact word_traps hx hr rfl (if_pos (by simp [← Option.not_isSome, hfits]))
  · exact units_of_eff hx rfl (search_enters h0 d a false)
  · exact units_of_eff hx rfl (search_enters h0 d a true)
  · exact word_traps hx hr rfl (search_refused h0 d a false)
  · exact word_traps hx hr rfl (search_refused h0 d a true)

end Sys2Proof.Hypervectors
end

section
/-! Taking an exception (R65, R78, R81, R292, R293). -/

namespace Sys2Proof.Traps

open Sys2Proof Sys2Proof.Machine

/-! The clk at which everything has landed -/

/-- A running maximum is no less than its start, nor than any value that it has met. -/
theorem le_foldl_max {α : Type} (f : α → Nat) (l : List α) (m : Nat) :
    m ≤ l.foldl (fun m e => max m (f e)) m ∧ ∀ e ∈ l, f e ≤ l.foldl (fun m e => max m (f e)) m := by
  induction l generalizing m with
  | nil => exact ⟨le_rfl, nofun⟩
  | cons a r ih =>
    obtain ⟨hm, hr⟩ := ih (max m (f a))
    exact ⟨(le_max_left ..).trans hm, List.forall_mem_cons.2 ⟨(le_max_right ..).trans hm, hr⟩⟩

/-- The clk at which every fixed-latency result of a wave has landed. -/
def landedAt (w : Wave) : Nat := w.stk.foldl (fun m e => max m e.1) (w.early.foldl (fun m e => max m e.due) 0)

theorem due_le_landedAt {w : Wave} : (∀ e ∈ w.early, e.due ≤ landedAt w) ∧ ∀ e ∈ w.stk, e.1 ≤ landedAt w := by
  obtain ⟨hearly, hstk⟩ := le_foldl_max Prod.fst w.stk (w.early.foldl (fun m e => max m e.due) 0)
  exact ⟨fun e he => ((le_foldl_max Early.due w.early 0).2 e he).trans hearly, hstk⟩

/-! Sticky bits land in sf (R42) -/

/-- Bits raised one after another: those that stood before, and those of each mask. -/
theorem getLsbD_foldl_or (l : List (Nat × Word)) (m : Word) (i : Nat) :
    (l.foldl (fun m e => m ||| e.2) m).getLsbD i = true ↔ m.getLsbD i = true ∨ ∃ e ∈ l, e.2.getLsbD i = true := by
  induction l generalizing m with
  | nil => simp
  | cons a r ih => rw [List.foldl_cons, ih]; simp [or_assoc]

/-- `v` is `w` once some of the bits `l` have landed: no bit of sf falls, and none but theirs rises. -/
structure Landed (w : Wave) (l : List (Nat × Word)) (v : Wave) : Prop where
  rest : ∃ early sf, v = { w with early := early, sf := sf }
  kept : ∀ i, w.sf.getLsbD i = true → v.sf.getLsbD i = true
  raised : ∀ i, v.sf.getLsbD i = true → w.sf.getLsbD i = true ∨ ∃ e ∈ l, e.2.getLsbD i = true

theorem sticky_landed (w : Wave) (e : Nat × Word) : Landed w [e] (w.sticky e.1 e.2) := by
  unfold Wave.sticky
  split
  case isTrue => exact ⟨⟨_, _, rfl⟩, fun _ => id, fun _ => .inl⟩
  case isFalse =>
    dsimp only
    split
    case isTrue => exact ⟨⟨_, _, rfl⟩, fun _ => id, fun _ => .inl⟩
    case isFalse => exact ⟨⟨_, _, rfl⟩, fun _ h => by simp [h], fun _ h => by simpa using h⟩

theorem foldl_sticky_landed (l : List (Nat × Word)) (w : Wave) : Landed w l (l.foldl (fun w e => w.sticky e.1 e.2) w) := by
  induction l generalizing w with
  | nil => exact ⟨⟨_, _, rfl⟩, fun _ => id, fun _ => .inl⟩
  | cons a r ih =>
    obtain ⟨⟨_, _, hone⟩, hkept, hraised⟩ := sticky_landed w a
    obtain ⟨⟨e, f, hrest⟩, hkept', hraised'⟩ := ih (w.sticky a.1 a.2)
    refine ⟨⟨e, f, hrest.trans (by rw [hone])⟩, fun i h => hkept' i (hkept i h), fun i h => ?_⟩
    rcases hraised' i h with h | ⟨e, he, h⟩
    · exact (hraised i h).imp id fun ⟨e, he, h⟩ => ⟨e, List.mem_cons.2 (.inl (List.mem_singleton.1 he)), h⟩
    · exact .inr ⟨e, List.mem_cons_of_mem _ he, h⟩

/-- What has landed by a clk by which all is due. -/
theorem landSticky_landed (w : Wave) (clk : Nat) (hdue : ∀ e ∈ w.stk, e.1 ≤ clk) :
    ∃ v, Landed w w.stk v ∧ w.landSticky clk = { v with stk := [] } := by
  have hall : w.stk.filter (fun e => decide (e.1 ≤ clk)) = w.stk := List.filter_eq_self.2 fun e he => by simpa using hdue e he
  have hnone : w.stk.filter (fun e => decide (clk < e.1)) = [] := List.filter_eq_nil_iff.2 fun e he => by simpa using hdue e he
  exact ⟨_, foldl_sticky_landed w.stk w, by rw [Wave.landSticky, hall, hnone]⟩

/-- The bounds that `Landed` sets to sf, as words. -/
theorem Landed.sf_bounds {w v : Wave} {l : List (Nat × Word)} (h : Landed w l v) :
    w.sf &&& v.sf = w.sf ∧ v.sf &&& ~~~(l.foldl (fun m e => m ||| e.2) w.sf) = 0 := by
  constructor
  · refine BitVec.eq_of_getLsbD_eq fun i _ => ?_
    rw [BitVec.getLsbD_and]
    cases hw : w.sf.getLsbD i with
    | false => rfl
    | true => rw [h.kept i hw]; rfl
  · refine BitVec.eq_of_getLsbD_eq fun i hi => ?_
    rw [BitVec.getLsbD_and, BitVec.getLsbD_not]
    cases hv : v.sf.getLsbD i with
    | false => simp
    | true => rw [(getLsbD_foldl_or l w.sf i).2 (h.raised i hv)]; simp

/-! Taking a trap -/

section
variable {s : State} {w : Wave} {p : Part} {ps : List Part} {k : Kernel} (hp : w.parts = p :: ps) (hk : s.kernelOf? w = some k)
include hp hk

/-- Outside a handler, with a trap entry, the wave goes there once everything of it has landed. -/
theorem takeTrap_enters (hs : p.saved = none) (ht : k.trapent ≠ 0) (code : Nat) (info : Word) (sc : Nat) :
    s.takeTrap w code info sc = s.setWave { w.landSticky (landedAt w) with
      parts := { p with nest := [], saved := some p.nest, pc := k.trapent, redirect := s.clk + max sc 2 + 1 } :: ps,
      tcause := BitVec.ofNat 8 code, tpc := p.pc, tinfo := info, tlanes := p.lanes, early := [],
      turn := (w.landSticky (landedAt w)).turn - s.clk, lastIssue := some s.clk,
      nextIssue := max (s.clk + sc + 1) (landedAt w), progress := s.clk } := by
  have hcond : (p.saved.isNone && k.trapent != 0) = true := by
    rw [hs, bne_iff_ne.2 ht]; rfl
  simp only [State.takeTrap, hp, hk, hcond, if_true]
  rfl

/-- In a handler, or without an entry, the fault is recorded and the group killed. -/
theorem takeTrap_kills (hno : p.saved ≠ none ∨ k.trapent = 0) (code : Nat) (info : Word) (sc : Nat) :
    s.takeTrap w code info sc = (s.record k.ctx
      { clk := s.clk, pc := p.pc, info := info, kid := k.kid, code := code,
        source := if p.saved = none then 0 else 3, wave := w.index }).killGroup w.group := by
  have hcond : (p.saved.isNone && k.trapent != 0) = false := by
    rcases hno with h | h
    · simp [Option.isNone_eq_false_iff.2 (Option.isSome_iff_ne_none.2 h)]
    · simp [h]
  have hsource : (if p.saved.isSome then 3 else 0) = if p.saved = none then 0 else 3 := by cases p.saved <;> rfl
  simp only [State.takeTrap, hp, hk, hcond, hsource, Bool.false_eq_true, if_false]

end

/-- Settles O44: a trap that enters the handler waits for all that is due, of which the sticky bits reach sf. -/
theorem trapEntry : Obligations.TrapEntry := by
  refine fun s w p ps k code info sc hp hk => ⟨fun hs ht => ?_, fun hno => takeTrap_kills hp hk hno code info sc⟩
  obtain ⟨hearly, hstk⟩ := due_le_landedAt (w := w)
  obtain ⟨u, hu, hland⟩ := landSticky_landed w (landedAt w) hstk
  obtain ⟨hkept, hraised⟩ := hu.sf_bounds
  obtain ⟨_, _, hrest⟩ := hu.rest
  have hturn : u.turn = w.turn := by rw [hrest]
  refine ⟨_, takeTrap_enters hp hk hs ht code info sc, rfl, rfl, rfl, rfl, rfl, rfl, ?_, ?_, rfl, rfl, le_max_left ..,
    fun e he => (hearly e he).trans (le_max_right ..), fun e he => (hstk e he).trans (le_max_right ..), ?_, ?_, ?_⟩ <;>
    simp only [hland]
  · rw [hturn]
  · exact hkept
  · exact hraised
  · rw [hrest]

end Sys2Proof.Traps
end

section
/-! System words and special registers (R76, R103, R298). -/

namespace Sys2Proof.SystemWork

open Sys2Proof Sys2Proof.Machine Sys2Proof.Laws Sys2Proof.Control Sys2Proof.Barriers

section
variable {x : Iss} {h : Hd} (hx : x.live)
include hx

/-! MFS -/

/-- MFS into a scalar register. -/
theorem mfs_scalar (d : BitVec 9) (a : Special) :
    x.does (.mfs h d a true) h (x.named 1) (lateWave x d.toNat (x.special a 0)) := fun hr => word_done hx hr rfl rfl

/-- The wave with a special register read into the active lanes of vector register `d`. -/
def lanesRead (x : Iss) (h : Hd) (d : BitVec 9) (a : Special) : Wave :=
  { x.w with win := (x.active h).foldl (fun m l => wset m (x.frame.vslot d.toNat + l) (x.special a l)) x.w.win,
             vpend := x.w.vpend ++ [⟨x.s.nextUid, (x.frame.locs? (.v d.toNat 1)).getD [], none⟩] }

omit hx in
/-- The words that MFS writes, each with its lane. -/
theorem win_lanesRead (x : Iss) (h : Hd) (d : BitVec 9) (a : Special) : (lanesRead x h d a).win =
    ((x.active h).map fun l => (l, x.special a l)).foldl (fun m p => wset m (x.frame.vslot d.toNat + p.1) p.2) x.w.win := by
  rw [List.foldl_map]; rfl

omit hx in
theorem wget_lanesRead {d : BitVec 9} {a : Special} {l : Nat} (hl : l ∈ x.active h) :
    wget (lanesRead x h d a).win (x.frame.vslot d.toNat + l) = x.special a l := by
  rw [win_lanesRead]
  refine wget_foldl_mem _ _ _ ?_ (l, x.special a l) (List.mem_map_of_mem hl)
  simpa [Function.comp_def] using active_nodup x h

omit hx in
theorem wget_lanesRead_ne {d : BitVec 9} {a : Special} {k : Nat} (hk : ∀ l ∈ x.active h, k ≠ x.frame.vslot d.toNat + l) :
    wget (lanesRead x h d a).win k = wget x.w.win k := by
  rw [win_lanesRead]
  refine wget_foldl_ne _ _ _ _ fun p hp => ?_
  obtain ⟨l, hl, rfl⟩ := List.mem_map.1 hp
  exact hk l hl

/-- MFS into the active lanes of a vector register. -/
theorem mfs_vector (d : BitVec 9) (a : Special) (hr : x.ready (usesOf (.mfs h d a false)) h) :
    exec (.mfs h d a false) x.s =
      .next (x.after (.mfs h d a false) h .vector (x.active h).length (x.named 1) (lanesRead x h d a) .next) :=
  word_done hx hr rfl rfl

/-! HALT -/

/-- HALT records its code and ends the group. -/
theorem halt_kills (a : SReg) (hr : x.ready (usesOf (.halt h a)) h) : exec (.halt h a) x.s =
    .next (((x.s.note x.w.uid 0 x.p.pc).record x.k.ctx (x.frec USER_TRAP 1 (x.sreg a.toNat))).killGroup x.g.uid) :=
  execWord_ready hx hr _ _

/-! TRET -/

/-- Outside a handler TRET traps. -/
theorem tret_outside {skip : Bool} (hs : x.p.saved = none) : x.traps (.tret h skip) h ILLEGAL_OPCODE 0x3C1 :=
  fun hr => word_traps hx hr rfl (if_pos (by rw [hs]; rfl))

/-- In a handler the partition leaves it, and is current where it may run. -/
theorem tret_leaves {skip : Bool} {nest : List Level} (hs : x.p.saved = some nest)
    (hr : x.ready (usesOf (.tret h skip)) h) :
    let p := { x.p with nest := nest, saved := none, pc := if skip then x.w.tpc + 8 else x.w.tpc,
                        redirect := x.clk + max h.sc.toNat 2 + 1 }
    let m := mergePart p x.ps
    exec (.tret h skip) x.s = .next (x.after (.tret h skip) h .scalar (x.active h).length x.s
      { x.w with turn := if x.ps.any (·.saved.isSome) then x.w.turn else x.clk + x.w.turn }
      (.exact (if canRun m.2 m.1 then m.1 :: m.2 else nextTurn m.1.low (insPart m.2 m.1)))) := by
  intro p m
  refine word_done hx hr rfl ((if_neg (by rw [hs]; simp)).trans ?_)
  simp only [Wave.leaveHandler, hs, Option.getD_some]
  by_cases hc : canRun m.2 m.1 = true
  · rw [if_pos hc, if_pos hc]
  · rw [if_neg hc, if_neg hc]

end

/-- The share of the group scratchpad that the wave's core holds. -/
theorem special_spbase {x : Iss} {n b : Nat} (hb : (x.g.cores.zip x.g.bases).find? (·.1 == x.w.core) = some (n, b)) (l : Nat) :
    x.special .spbase l = wd b := by
  simp only [Iss.special, hb, Option.map_some, Option.getD_some]

/-- Settles O41: each word's effect is a trap, a scalar result that the scoreboard holds, a register of the wave, or the end of
a handler or a group. -/
theorem systemWords : Obligations.SystemWords := by
  refine fun x h hx => ⟨fun imm hr => word_traps hx hr rfl rfl, fun d a => ⟨_, mfs_scalar hx d a, late_lateWave ..⟩,
    fun d a hr => ⟨_, mfs_vector hx d a hr, rfl, fun l => wget_lanesRead, fun k => wget_lanesRead_ne⟩,
    fun a => ⟨?_, ?_, ?_, ?_⟩, fun d a b => ⟨_, fun hr => word_done hx hr rfl rfl, late_lateWave ..⟩,
    fun a => halt_kills hx a, fun skip => ⟨tret_outside hx, fun nest => tret_leaves hx⟩,
    fun l => ⟨rfl, rfl, rfl, rfl, rfl, rfl, rfl, rfl, rfl, rfl, rfl, rfl, rfl, rfl, fun n b hb => special_spbase hb l⟩⟩ <;>
    exact fun hr => word_done hx hr rfl rfl

end Sys2Proof.SystemWork
end

section
/-! The slot calendar and the stall sampler (R348, R349, R356, R361 to R365). -/

namespace Sys2Proof.SystemWork

open Sys2Proof Sys2Proof.Machine Sys2Proof.Laws Sys2Proof.Control Sys2Proof.Regions Sys2Proof.Barriers
open Sys2Proof.RegionReport Sys2Proof.MatrixWork

section
variable {x : Iss} {h : Hd} (hx : x.live)
include hx

/-! SLOTQ -/

/-- The wave after three consecutive scalar results that the scoreboard holds under the state's next name (R63). -/
def lateWave3 (x : Iss) (n : Nat) (a b c : Word) : Wave :=
  { sset3 x.w n a b c with vpend := x.w.vpend ++ [⟨x.s.nextUid, [.sreg n, .sreg (n + 1), .sreg (n + 2)], none⟩] }

section
omit hx
variable {n : Nat} (hn : n ≠ 0) (a b c : Word)
include hn

theorem sget_lateWave3 : (lateWave3 x n a b c).sget n = a ∧ (lateWave3 x n a b c).sget (n + 1) = b ∧
    (lateWave3 x n a b c).sget (n + 2) = c ∧ ∀ k, k < n ∨ n + 2 < k → (lateWave3 x n a b c).sget k = x.w.sget k :=
  ⟨sget_sset3_fst _ _ _ _ hn, sget_sset3_snd .., sget_sset3_thd .., fun _ hk => sget_sset3_ne _ _ _ _ hk⟩

/-- Such results change scalar registers and the scoreboard. -/
theorem lateWave3_eq : lateWave3 x n a b c = { x.w with
    sregs := (lateWave3 x n a b c).sregs,
    vpend := x.w.vpend ++ [⟨x.s.nextUid, [.sreg n, .sreg (n + 1), .sreg (n + 2)], none⟩] } := by
  unfold lateWave3
  rw [sset3_eq x.w _ _ _ hn]

/-- So it is that a word leaves them. -/
theorem vlate_sset3 : Iss.vlate x.s (sset3 x.w n a b c) [.sreg n, .sreg (n + 1), .sreg (n + 2)] =
    (x.named 1, lateWave3 x n a b c) := by
  unfold lateWave3 Iss.vlate
  rw [sset3_eq _ _ _ _ hn]
  rfl

end

/-- SLOTQ writes three scalar registers that the scoreboard holds. -/
theorem slotq_writes {d : SReg} (hd : d.toNat ≠ 0) (hr : x.ready (usesOf (.slotq h d)) h) : exec (.slotq h d) x.s =
    .next (x.after (.slotq h d) h .scalar (x.active h).length (x.named 1)
      (lateWave3 x d.toNat (slotWords x.clk).1 (slotWords x.clk).2.1 (slotWords x.clk).2.2) .next) :=
  word_done hx hr rfl (congrArg (fun r : State × Wave => Eff.done r.1 r.2 .next) (vlate_sset3 hd _ _ _))

/-! SMPCFG -/

section
variable {a : SReg}

/-- The fields of SMPCFG's word are within their limits (Table 20.8). -/
def Shaped (v : Word) : Prop := fld v 20 16 ≠ 0 ∧ fld v 20 16 ≤ 32768 ∧ 16 ≤ fld v 36 24 ∧ fld v 60 4 = 0

omit hx in
theorem shaped_iff (v : Word) :
    (fld v 20 16 != 0 && decide (fld v 20 16 ≤ 32768) && decide (16 ≤ fld v 36 24) && decide (fld v 60 4 = 0)) = true ↔
      Shaped v := by
  simp [Shaped, and_assoc]

/-- A word that is not well formed traps. -/
theorem smpcfg_malformed (hs : ¬ Shaped (x.sreg a.toNat)) : x.traps (.smpcfg h a) h RESERVED_FIELD 18 :=
  chain_traps hx rfl (need_fail (Bool.eq_false_iff.2 fun he => hs ((shaped_iff _).1 he)))

variable (hs : Shaped (x.sreg a.toNat))
include hs

/-- So does a buffer whose address is no multiple of 32. -/
theorem smpcfg_misaligned (hb : fld (x.sreg a.toNat) 0 20 % 32 ≠ 0) : x.traps (.smpcfg h a) h MISALIGNED 0x1F1 :=
  chain_traps hx rfl (need_pass ((shaped_iff _).2 hs) (need_fail (by simpa using hb)))

variable (hb : fld (x.sreg a.toNat) 0 20 % 32 = 0)
include hb

/-- So does a buffer that does not lie in the scratchpad. -/
theorem smpcfg_outside (ho : x.scr < fld (x.sreg a.toNat) 0 20 + 32 * fld (x.sreg a.toNat) 20 16) :
    x.traps (.smpcfg h a) h REFUSED_BOUNDS (laneInfo 31 0 0 (fld (x.sreg a.toNat) 0 20)) := by
  have hn : fld (x.sreg a.toNat) 20 16 ≠ 0 := hs.1
  exact chain_traps hx rfl (need_pass ((shaped_iff _).2 hs) (need_pass (by simpa using hb)
    (need_fail (by simp only [Bool.or_eq_false_iff, decide_eq_false_iff_not]; omega))))

variable (hi : fld (x.sreg a.toNat) 0 20 + 32 * fld (x.sreg a.toNat) 20 16 ≤ x.scr)
include hi

omit hx hs hb hi in
/-- Another group owns the sampler. -/
theorem ownedElsewhere_iff (o : Option Nat) (u : Nat) : o.any (· != u) = true ↔ ∃ g, o = some g ∧ g ≠ u := by
  cases o <;> simp

/-- While another group owns the sampler the word waits. -/
theorem smpcfg_waits {g : Nat} (ho : x.core.sampler.owner = some g) (hg : g ≠ x.g.uid) : x.waits (.smpcfg h a) h :=
  chain_waits hx rfl (need_pass ((shaped_iff _).2 hs) (need_pass (by simpa using hb) (inRange_pass (.inr hi)
    (if_pos ((ownedElsewhere_iff _ _).2 ⟨g, ho, hg⟩)))))

/-- Otherwise the group takes it. -/
theorem smpcfg_takes (ho : ∀ g, x.core.sampler.owner = some g → g = x.g.uid) :
    x.does (.smpcfg h a) h (x.s.setCore x.coreIx { x.core with sampler := { Sampler.reset with
      owner := some x.g.uid, base := fld (x.sreg a.toNat) 0 20, cap := fld (x.sreg a.toNat) 20 16,
      period := fld (x.sreg a.toNat) 36 24 } }) x.w :=
  chain_does hx rfl (need_pass ((shaped_iff _).2 hs) (need_pass (by simpa using hb) (inRange_pass (.inr hi)
    (if_neg fun he =>
      let ⟨g, hg, hne⟩ := (ownedElsewhere_iff _ _).1 he
      hne (ho g hg)))))

end

/-! SMPON and SMPOFF -/

/-- A group that does not own the sampler may turn it neither on nor off. -/
theorem sampler_foreign (ho : x.core.sampler.owner ≠ some x.g.uid) (r : SReg) :
    x.traps (.smpon h r) h GRANT_FAILED 0x1F7 ∧ x.traps (.smpoff h r) h GRANT_FAILED 0x1F7 := by
  have hown : (!x.ownsSampler) = true := by simpa [Iss.ownsSampler] using ho
  exact ⟨fun hr => word_traps hx hr rfl (if_pos hown), fun hr => word_traps hx hr rfl (if_pos hown)⟩

variable (ho : x.core.sampler.owner = some x.g.uid)
include ho

omit hx in
theorem ownsSampler_of_owner : ¬ (!x.ownsSampler) = true := by simp [Iss.ownsSampler, ho]

/-- The owner turns the sampler on. -/
theorem smpon_does (a : SReg) :
    let m := x.core.sampler
    x.does (.smpon h a) h (x.s.setCore x.coreIx { x.core with sampler :=
      { m with c := max m.c (min (fld (x.sreg a.toNat) 0 32) m.w), on := true, ton := if m.on then m.ton else x.clk } }) x.w :=
  fun hr => word_done hx hr rfl (if_neg (ownsSampler_of_owner ho))

/-- The owner turns it off and reads its counts. -/
theorem smpoff_does (d : SReg) :
    let m := x.core.sampler
    x.does (.smpoff h d) h ((x.named 1).setCore x.coreIx { x.core with sampler := { m with on := false } })
      (lateWave x d.toNat (wd (m.w % 2 ^ 32 * 2 ^ 32 + m.dropped))) :=
  fun hr => word_done hx hr rfl (if_neg (ownsSampler_of_owner ho))

end

/-- Settles O42: the checks of SMPCFG in their order, and the owner's test of SMPON and SMPOFF. -/
theorem slotAndSamplerWords : Obligations.SlotAndSamplerWords := by
  refine fun x h hx => ⟨fun d hd hr => ?_, fun a => ⟨smpcfg_malformed hx, smpcfg_misaligned hx, smpcfg_outside hx,
    fun hs hb hi => ⟨fun g => smpcfg_waits hx hs hb hi, smpcfg_takes hx hs hb hi⟩⟩,
    fun r ho => sampler_foreign hx ho r, fun a ho => smpon_does hx ho a,
    fun d ho => ⟨_, late_lateWave .., smpoff_does hx ho d⟩⟩
  have hn : d.toNat ≠ 0 := fun e => hd (BitVec.eq_of_toNat_eq (by simpa using e))
  obtain ⟨hfst, hsnd, hthd, hkept⟩ := sget_lateWave3 (x := x) hn (slotWords x.clk).1 (slotWords x.clk).2.1 (slotWords x.clk).2.2
  exact ⟨_, slotq_writes hx hn hr, hfst, hsnd, hthd, hkept, lateWave3_eq hn _ _ _⟩

end Sys2Proof.SystemWork
end

section
/-! The values of the hypervector operations (R276 to R278, R280): numbers by their digits, words by their bits and counters. -/

namespace Sys2Proof.HypervectorMath

open Sys2Proof Sys2Proof.Machine

/-! Digits -/

/-- The number whose digits to base `b` are `d 0` to `d (m − 1)`, lowest first. -/
def ofDigits (b : Nat) (d : Nat → Nat) (m : Nat) : Nat := (List.range m).foldl (fun a i => a + d i * b ^ i) 0

section
variable {b : Nat} {d : Nat → Nat} (hd : ∀ i, d i < b)

theorem ofDigits_succ (m : Nat) : ofDigits b d (m + 1) = ofDigits b d m + d m * b ^ m := by
  unfold ofDigits
  rw [List.range_succ, List.foldl_append]; rfl

include hd

theorem ofDigits_lt (m : Nat) : ofDigits b d m < b ^ m := by
  induction m with
  | zero => exact Nat.one_pos
  | succ m ih =>
    calc ofDigits b d (m + 1) = ofDigits b d m + d m * b ^ m := ofDigits_succ m
      _ < b ^ m + d m * b ^ m := Nat.add_lt_add_right ih _
      _ = (d m + 1) * b ^ m := by ring
      _ ≤ b * b ^ m := Nat.mul_le_mul_right _ (hd m)
      _ = b ^ (m + 1) := (Nat.pow_succ').symm

/-- A digit is read back. -/
theorem ofDigits_digit {i m : Nat} (hi : i < m) : ofDigits b d m / b ^ i % b = d i := by
  have hb : 0 < b := (Nat.zero_le _).trans_lt (hd 0)
  induction m with
  | zero => omega
  | succ m ih =>
    rw [ofDigits_succ]
    rcases Nat.lt_succ_iff_lt_or_eq.1 hi with hlt | rfl
    · have hpow : b ^ m = b ^ i * (b * b ^ (m - i - 1)) := by
        rw [← pow_succ', ← pow_add]; congr 1; omega
      have hhigh : d m * b ^ m = b ^ i * (b * (d m * b ^ (m - i - 1))) := by rw [hpow]; ring
      rw [hhigh, Nat.add_mul_div_left _ _ (Nat.pow_pos hb), Nat.add_mul_mod_self_left, ih hlt]
    · rw [Nat.add_mul_div_right _ _ (Nat.pow_pos hb), Nat.div_eq_of_lt (ofDigits_lt hd i), Nat.zero_add,
        Nat.mod_eq_of_lt (hd i)]

end

/-! Bits -/

theorem b2n_lt (p : Bool) : b2n p < 2 := by cases p <;> decide

/-- A word made of bits holds them. -/
theorem getLsbD_wd_ofDigits (f : Nat → Bool) {i : Nat} (hi : i < 64) :
    (wd (ofDigits 2 (fun i => b2n (f i)) 64)).getLsbD i = f i := by
  rw [wd, BitVec.getLsbD_ofNat, Nat.testBit_eq_decide_div_mod_eq, ofDigits_digit (fun i => b2n_lt (f i)) hi]
  cases f i <;> simp [hi, b2n]

/-- A hypervector made of bits holds them. -/
theorem hBit_hOf (f : Nat → Bool) {i : Nat} (hi : i < 8192) : hBit (hOf f) i = f i := by
  have hword : (hOf f).getD (i / 64) 0 = wd (ofDigits 2 (fun j => b2n (f (64 * (i / 64) + j))) 64) := by
    rw [List.getD_eq_getElem _ _ (by simp [hOf]; omega)]
    simp only [hOf, List.getElem_map, List.getElem_range]
    rfl
  rw [hBit, hword, getLsbD_wd_ofDigits _ (Nat.mod_lt _ (by decide)), Nat.div_add_mod]

/-- HPERM brings bit i to place i + n (R276). -/
theorem hBit_perm (v : List Word) (n : Nat) {i : Nat} (hi : i < 8192) : hBit (perm v n) ((i + n) % 8192) = hBit v i := by
  rw [perm, hBit_hOf _ (Nat.mod_lt _ (by decide))]
  congr 1
  omega

/-- HBIND is exclusive OR on each bit (R276). -/
theorem hBit_xorHv {a b : List Word} (ha : a.length = 128) (hb : b.length = 128) {i : Nat} (hi : i < 8192) :
    hBit (xorHv a b) i = (hBit a i ^^ hBit b i) := by
  have hj : i / 64 < 128 := by omega
  unfold hBit xorHv
  rw [List.getD_eq_getElem _ _ (by simp [ha, hb, hj]), List.getD_eq_getElem _ _ (by rw [ha]; exact hj),
    List.getD_eq_getElem _ _ (by rw [hb]; exact hj), List.getElem_map, List.getElem_zip, BitVec.getLsbD_xor]

/-- The bits of a vector with a word put before it. -/
theorem hBit_cons (a : Word) (r : List Word) (i : Nat) :
    (i < 64 → hBit (a :: r) i = a.getLsbD i) ∧ hBit (a :: r) (64 + i) = hBit r i := by
  constructor
  · intro hi
    rw [hBit, Nat.div_eq_of_lt hi, Nat.mod_eq_of_lt hi]; rfl
  · rw [hBit, Nat.add_div_left _ (by decide), Nat.add_mod_left]; rfl

/-- The popcount is the number of 1-bits (R280). -/
theorem popHv_eq (v : List Word) : popHv v = ((List.range (64 * v.length)).filter fun i => hBit v i).length := by
  induction v with
  | nil => rfl
  | cons a r ih =>
    have hfirst : (List.range 64).filter (fun i => hBit (a :: r) i) = (List.range 64).filter fun i => a.getLsbD i :=
      List.filter_congr fun i hi => (hBit_cons a r i).1 (List.mem_range.1 hi)
    have hrest : (List.range (64 * r.length)).filter ((fun i => hBit (a :: r) i) ∘ (64 + ·)) =
        (List.range (64 * r.length)).filter fun i => hBit r i := List.filter_congr fun i _ => (hBit_cons a r i).2
    rw [List.length_cons, show 64 * (r.length + 1) = 64 + 64 * r.length by ring, List.range_add, List.filter_append,
      List.filter_map, hfirst, hrest, List.length_append, List.length_map, ← ih]
    rfl

/-! Counters -/

/-- A signed value of `n` bits, from its residue. -/
theorem signed_of_emod {n : Nat} (hn : 0 < n) {c : Int} (hlo : -2 ^ (n - 1) ≤ c) (hhi : c < 2 ^ (n - 1)) :
    (if (c % 2 ^ n).toNat < 2 ^ (n - 1) then ((c % 2 ^ n).toNat : Int) else ((c % 2 ^ n).toNat : Int) - 2 ^ n) = c := by
  have hpow : (2 : Int) ^ n = 2 * 2 ^ (n - 1) := by rw [← pow_succ', Nat.sub_add_cancel hn]
  have hnat : ((2 ^ (n - 1) : Nat) : Int) = 2 ^ (n - 1) := by push_cast; rfl
  rcases lt_or_ge c 0 with hneg | hpos
  · have hmod : c % 2 ^ n = c + 2 ^ n := by
      rw [← Int.add_emod_right, Int.emod_eq_of_lt (by omega) (by omega)]
    rw [hmod, if_neg (by omega)]
    omega
  · have hmod : c % 2 ^ n = c := Int.emod_eq_of_lt hpos (by omega)
    rw [hmod, if_pos (by omega)]
    omega

/-- A list with its places. -/
theorem zipIdx_eq_map_range (l : List Int) : l.zipIdx = (List.range l.length).map fun i => (l.getD i 0, i) :=
  List.ext_getElem (by simp) fun i h _ => by
    have hi : i < l.length := by simpa using h
    simp [hi]

/-- Counters packed into a word are the digits of that number. -/
theorem packCounters_eq (n : Nat) (l : List Int) :
    packCounters n l = wd (ofDigits (2 ^ n) (fun i => (l.getD i 0 % 2 ^ n).toNat) l.length) := by
  simp only [packCounters, zipIdx_eq_map_range, List.foldl_map, ofDigits, pow_mul]

/-- A residue is a digit. -/
theorem toNat_emod_lt (n : Nat) (c : Int) : (c % 2 ^ n).toNat < 2 ^ n := by
  have hpos : (0 : Int) < 2 ^ n := by positivity
  have hnat : ((2 ^ n : Nat) : Int) = 2 ^ n := by push_cast; rfl
  have hlt := Int.emod_lt_of_pos c hpos
  omega

section
variable {n q : Nat} (hnq : n * q = 64)
include hnq

/-- A word of packed counters gives them back. -/
theorem counters_packCounters {l : List Int} (hl : l.length = q) (hr : ∀ c ∈ l, -2 ^ (n - 1) ≤ c ∧ c < 2 ^ (n - 1)) :
    counters n (packCounters n l) = l := by
  have hn : 0 < n := by rcases Nat.eq_zero_or_pos n with rfl | h <;> omega
  have hq : 64 / n = q := Nat.div_eq_of_eq_mul_right hn hnq.symm
  refine List.ext_getElem (by simp [counters, hq, hl]) fun i _ hi => ?_
  have hlt := ofDigits_lt (b := 2 ^ n) (fun i => toNat_emod_lt n (l.getD i 0)) l.length
  rw [hl, ← pow_mul, hnq] at hlt
  have hfld : fld (packCounters n l) (n * i) n = (l[i] % 2 ^ n).toNat := by
    rw [packCounters_eq, fld, wd, BitVec.toNat_ofNat, hl, Nat.mod_eq_of_lt hlt, pow_mul,
      ofDigits_digit (fun i => toNat_emod_lt n (l.getD i 0)) (hl ▸ hi), List.getD_eq_getElem _ _ hi]
  simp only [counters, List.getElem_map, List.getElem_range, hfld]
  exact signed_of_emod hn (hr _ (List.getElem_mem hi)).1 (hr _ (List.getElem_mem hi)).2

theorem length_counters (w : Word) : (counters n w).length = q := by
  have hn : 0 < n := by rcases Nat.eq_zero_or_pos n with rfl | h <;> omega
  simp [counters, Nat.div_eq_of_eq_mul_right hn hnq.symm]

/-- A bank holds 64 / n counters for each word. -/
theorem length_bankCounters (k : List Word) : (bankCounters n k).length = k.length * q := by
  simp [bankCounters, List.length_flatMap, length_counters hnq]

/-- Counters packed into a bank are read back. -/
theorem bankCounters_packBank (m : Nat) {cs : List Int} (hcs : cs.length = m * q)
    (hr : ∀ c ∈ cs, -2 ^ (n - 1) ≤ c ∧ c < 2 ^ (n - 1)) : bankCounters n (packBank n cs) = cs := by
  have hn : 0 < n := by rcases Nat.eq_zero_or_pos n with rfl | h <;> omega
  have hq : 64 / n = q := Nat.div_eq_of_eq_mul_right hn hnq.symm
  have hwords : cs.length * n / 64 = m := by rw [hcs, Nat.mul_assoc, Nat.mul_comm q, hnq, Nat.mul_div_cancel _ (by decide)]
  unfold bankCounters packBank
  rw [hwords, hq, List.flatMap_map]
  clear hwords
  induction m generalizing cs with
  | zero => exact (List.length_eq_zero_iff.1 (hcs.trans (Nat.zero_mul q))).symm
  | succ m ih =>
    have hfirst : counters n (packCounters n (cs.take q)) = cs.take q :=
      counters_packCounters hnq (by rw [List.length_take, hcs]; exact Nat.min_eq_left (Nat.le_mul_of_pos_left q m.succ_pos))
        fun c hc => hr c (List.mem_of_mem_take hc)
    have hrest := ih (cs := cs.drop q) (by rw [List.length_drop, hcs, Nat.succ_mul, Nat.add_sub_cancel])
      fun c hc => hr c (List.mem_of_mem_drop hc)
    rw [List.range_succ_eq_map, List.flatMap_cons, List.flatMap_map]
    simp only [Nat.mul_zero, List.drop_zero, hfirst]
    simp only [List.drop_drop, Nat.succ_eq_add_one] at hrest ⊢
    rw [show (fun j => counters n (packCounters n ((cs.drop (q * (j + 1))).take q))) =
      fun j => counters n (packCounters n ((cs.drop (q + q * j)).take q)) by funext j; rw [Nat.mul_succ, Nat.add_comm], hrest,
      List.take_append_drop]

end

/-- A counter stays within ±(2^(n−1) − 1) (R277). -/
theorem bundOne_range {n : Nat} (c : Int) (up : Bool) :
    -2 ^ (n - 1) ≤ (bundOne n c up).1 ∧ (bundOne n c up).1 < 2 ^ (n - 1) := by
  have hpos : (0 : Int) < 2 ^ (n - 1) := by positivity
  simp only [bundOne]
  omega

/-- The counter widths divide a word. -/
theorem ctrwBits_mul (c : CtrW) : ctrwBits c * (64 / ctrwBits c) = 64 := by cases c <;> rfl

/-- A bank holds 8,192 counters. -/
theorem length_bank {c : CtrW} {k : List Word} (hk : k.length = 128 * ctrwBits c) :
    (bankCounters (ctrwBits c) k).length = 8192 := by
  rw [length_bankCounters (ctrwBits_mul c), hk, Nat.mul_assoc, ctrwBits_mul]

/-- HBUND on one counter of a bank (R277). -/
theorem getD_bund {c : CtrW} {k : List Word} (v : List Word) (hk : k.length = 128 * ctrwBits c) {i : Nat} (hi : i < 8192) :
    (bankCounters (ctrwBits c) (bund (ctrwBits c) k v).1).getD i 0 =
      (bundOne (ctrwBits c) ((bankCounters (ctrwBits c) k).getD i 0) (hBit v i)).1 := by
  have hlen := length_bank hk
  simp only [bund, List.map_map]
  rw [bankCounters_packBank (ctrwBits_mul c) (128 * ctrwBits c)]
  · rw [List.getD_eq_getElem _ _ (by simpa [hlen] using hi), List.getD_eq_getElem _ _ (by simpa [hlen] using hi)]
    simp
  · rw [List.length_map, List.length_zipIdx, hlen, Nat.mul_assoc, ctrwBits_mul]
  · intro x hx
    obtain ⟨p, -, rfl⟩ := List.mem_map.1 hx
    exact bundOne_range _ _

/-- Settles O40: the bits of words are digits to base 2, the counters of a bank digits to base 2^n, and both are read back. -/
theorem hypervectorValues : Obligations.HypervectorValues := by
  refine ⟨fun v n i hi => hBit_perm v n hi, fun a b i ha hb hi => hBit_xorHv ha hb hi, fun c k v i hk hi => ?_,
    fun c k tb i hi => ?_, fun v hv => by rw [popHv_eq, hv]⟩
  · intro m old sum
    rw [getD_bund v hk hi]
    show max (-m) (min m (old + if hBit v i = true then 1 else -1)) = max (-m) (min m sum)
    by_cases hbit : hBit v i = true <;> simp [sum, hbit, sub_eq_add_neg]
  · intro v
    rw [thr, hBit_hOf _ hi]
    change (if 0 < v then true else if v < 0 then false else hBit tb i) = _
    rcases lt_trichotomy v 0 with hneg | hzero | hpos
    · rw [if_neg hneg.not_gt, if_pos hneg, if_neg hneg.ne, decide_eq_false hneg.not_gt]
    · rw [hzero]; rfl
    · rw [if_pos hpos, if_neg hpos.ne', decide_eq_true hpos]

end Sys2Proof.HypervectorMath
end

section
/-! A step (R50, R319): the turn of a quad, and the entries of the agenda. -/

namespace Sys2Proof.Stepping

open Sys2Proof Sys2Proof.Machine Sys2Proof.Laws

/-! Entries of the agenda -/

/-- The meaning of an event is that of `execEvent`: it always takes a next state. -/
theorem exec_event {i : Instr} (hi : i.isWord = false) (s : State) : ∃ t, exec i s = .next t := by
  cases i <;> cases hi
  all_goals exact ⟨_, rfl⟩

/-- An event that the device does not do of itself runs from the agenda. -/
theorem act_event {i : Instr} (hi : i.isWord = false) (h1 : ∀ u, i ≠ .deferredFaultTaken u) (h2 : ∀ u, i ≠ .chpopClaim u)
    (h3 : ∀ u, i ≠ .fullEmptyProceed u) (h4 : ∀ d c, i ≠ .sample d c) (h5 : ∀ u, i ≠ .arrive u)
    (h6 : ∀ u c, i ≠ .chpushAccept u c) (s : State) : (.next (State.act i s) : Out) = exec i { s with cur := none } := by
  obtain ⟨t, ht⟩ := exec_event hi { s with cur := none }
  unfold State.act
  split
  case h_1 => exact absurd rfl (h1 _)
  case h_2 => exact absurd rfl (h2 _)
  case h_3 => exact absurd rfl (h3 _)
  case h_4 => exact absurd rfl (h4 _ _)
  case h_5 => exact absurd rfl (h5 _)
  case h_6 => exact absurd rfl (h6 _ _)
  case h_7 => rw [ht]

/-! What the quad's waves have pushed, when nothing of it may go -/

/-- A wave that is found by a name is one of the state's. -/
theorem mem_of_wave? {s : State} {u : Nat} {w : Wave} (h : s.wave? u = some w) : w ∈ s.waves := List.mem_of_find?_eq_some h

/-- Actions none of which is possible change nothing. -/
theorem forAll_idle {α : Type} {s : State} {l : List α} {f : State → α → Option State} (h : ∀ a ∈ l, f s a = none) :
    s.forAll l f = s := by
  unfold State.forAll
  induction l with
  | nil => rfl
  | cons a r ih =>
    obtain ⟨ha, hr⟩ := List.forall_mem_cons.1 h
    rw [List.foldl_cons, State.attempt, ha]
    exact ih hr

/-- An empty outbox has no entry for a channel. -/
theorem accept_empty {s : State} {w : Wave} (h : w.outbox = []) (c : Nat) : s.accept w c = none := by
  have hp : w.pushed? c = none := by unfold Wave.pushed?; rw [h]
  rw [State.accept, hp]; rfl

/-- A wave of which nothing may go: no channel that it names has room, and its oldest BARR may not arrive. -/
theorem boxReady_false {s : State} {w : Wave} (h : s.boxReady w = false) :
    (∀ c ∈ List.range 16, s.accept w c = none) ∧ (w.arrives ≠ [] → s.arriveHead? w.uid = none) := by
  obtain ⟨hbox, harr⟩ := Bool.or_eq_false_iff.1 h
  refine ⟨fun c hc => ?_, fun hne => ?_⟩
  · by_cases ho : w.outbox = []
    · exact accept_empty ho c
    · rw [Bool.and_eq_false_iff] at hbox
      have hnone := hbox.resolve_left (by simpa using ho)
      simpa using List.any_eq_false.1 hnone c hc
  · rw [Bool.and_eq_false_iff] at harr
    simpa using harr.resolve_left (by simpa using hne)

section
variable {s : State} (hbox : ∀ u ∈ s.waves, s.boxReady u = false)
include hbox

theorem serveBox_idle {w : Wave} (hw : w ∈ s.waves) : s.serveBox w = s := by
  have hpush : s.forAll (List.range 16) (fun s c => do
      let w ← s.wave? w.uid
      s.accept w c) = s := forAll_idle fun c hc => by
    cases hv : s.wave? w.uid with
    | none => rfl
    | some v => exact (boxReady_false (hbox v (mem_of_wave? hv))).1 c hc
  have harrive : s.forAll w.arrives (fun s _ => s.arriveHead? w.uid) = s := forAll_idle fun a ha =>
    (boxReady_false (hbox w hw)).2 (List.ne_nil_of_mem ha)
  unfold State.serveBox
  rw [hpush, ite_self]
  exact harrive

theorem serveQuad_idle (q : Nat) : s.serveQuad q = s := by
  have hfold (l : List Wave) (hl : ∀ w ∈ l, w ∈ s.waves) : l.foldl State.serveBox s = s := by
    induction l with
    | nil => rfl
    | cons a r ih =>
      obtain ⟨ha, hr⟩ := List.forall_mem_cons.1 hl
      rw [List.foldl_cons, serveBox_idle hbox ha, ih hr]
  exact hfold _ fun w hw => (List.mem_filter.1 hw).1

end

/-- A wave without a full-empty word has none that proceeds. -/
theorem proceedFe_none {s : State} {w : Wave} (h : ∀ a b, w.hold ≠ .fullEmpty a b) : s.proceedFe w = none := by
  unfold State.proceedFe
  split
  case h_1 a b he => exact absurd he (h a b)
  case h_2 => rfl

/-! The word of a wave -/

/-- The word of an instruction, with its registers' uses, passes the checks of decode and issues. -/
theorem word_issues {x : Iss} {v : Word} {us : List Use} {t : State} {f : State → Out} (hbad : x.frame.bad us = [])
    (hclear : x.clear v us = true) (hf : f x.s = .next t) (ht : x.s.hasIssued t = true) :
    x.word v [] us none false f = some { t with cur := none } := by
  simp only [Iss.word, hclear, hbad, List.append_nil, maxPos, List.foldl_nil, issuedBy, hf, ht, Bool.not_true,
    Bool.false_eq_true, if_false, if_true]

/-- The word that `decode` reads as an instruction runs it. -/
theorem tryWord_issues {s t : State} {x : Iss} {v : Word} {i : Instr} (hx : s.iss? = some x) (hd : decode v = some i)
    (hbad : x.frame.bad (dynUses x.s i) = []) (hclear : x.clear v (dynUses x.s i) = true)
    (hslot : x.s.slotHolds x.w i = false) (he : exec i x.s = .next t) (ht : x.s.hasIssued t = true) :
    s.tryWord v = some { t with cur := none } := by
  obtain ⟨rfl, -⟩ := iss?_some hx
  unfold State.tryWord
  rw [hx]
  unfold decode at hd
  cases hw : decodeWord v with simp only [hw] at hd ⊢
  | illegal info => cases hd
  | word bad j =>
    split at hd
    case isFalse => cases hd
    case isTrue hok =>
      cases hd
      obtain ⟨hnil, hclash⟩ := Bool.and_eq_true_iff.1 hok
      have hapart : pairClash i = false := by simpa using hclash
      rw [List.isEmpty_iff.1 hnil, hapart, hslot]
      exact word_issues hbad hclear he ht
  | smpon bad h a =>
    split at hd
    case isFalse => cases hd
    case isTrue hnil =>
      cases hd
      rw [List.isEmpty_iff.1 hnil]
      exact word_issues hbad hclear he ht
  | smpoff bad h a =>
    split at hd
    case isFalse => cases hd
    case isTrue hnil =>
      cases hd
      rw [List.isEmpty_iff.1 hnil]
      exact word_issues hbad hclear he ht

/-- A wave that is ready runs the word at its program counter. -/
theorem tryWave_issues {s t : State} {w : Wave} {p : Part} {v : Word} {i : Instr} {x : Iss} (ho : s.offered? w = some p)
    (hf : s.fetch (s.coreOf w) (s.ctxOf w) p.pc.toNat = .word v) (hdef : w.deferred = []) (hd : decode v = some i)
    (hx : (s.offer w (s.lineAt (s.ctxOf w) p.pc.toNat)).iss? = some x) (hbad : x.frame.bad (dynUses x.s i) = [])
    (hclear : x.clear v (dynUses x.s i) = true) (hslot : x.s.slotHolds x.w i = false) (he : exec i x.s = .next t)
    (ht : x.s.hasIssued t = true) : s.tryWave w = some { t with cur := none } := by
  simp only [State.tryWave, ho, hf, hdef, List.isEmpty_nil, if_true]
  exact tryWord_issues hx hd hbad hclear hslot he ht

/-- A wave that is not ready does nothing. -/
theorem tryWave_none {s : State} {w : Wave} (h : s.offered? w = none) : s.tryWave w = none := by
  rw [State.tryWave, h]

/-- The first ready wave of a quad of which nothing is pushed and no full-empty word waits has the quad's turn. -/
theorem issueQuad_runs {s t : State} {q : Nat} {pre rest : List Wave} {w : Wave}
    (hidle : ∀ u ∈ s.waves, s.boxReady u = false ∧ ∀ a b, u.hold ≠ .fullEmpty a b) (hc : s.choice q = pre ++ w :: rest)
    (hpre : ∀ u ∈ pre, s.offered? u = none) (hw : s.tryWave w = some t) : s.issueQuad q = t.serveQuad q := by
  have hfe : s.forAll (s.choice q) (fun s w => do
      let w ← s.wave? w.uid
      s.proceedFe w) = s := forAll_idle fun u _ => by
    cases hv : s.wave? u.uid with
    | none => rfl
    | some v => exact proceedFe_none (hidle v (mem_of_wave? hv)).2
  have hfirst : (s.choice q).findSome? s.tryWave = some t := by
    rw [hc, List.findSome?_append, List.findSome?_eq_none_iff.2 fun u hu => tryWave_none (hpre u hu), Option.none_or,
      List.findSome?_cons, hw]
  unfold State.issueQuad
  simp only [serveQuad_idle (fun u hu => (hidle u hu).1), hfe, hfirst]

/-! A step -/

/-- A device that is off does nothing of itself. -/
theorem advance_off {s : State} (h : s.stage = .off) : s.advance = s := by
  rw [State.advance, h]; rfl

/-- Within a clk, the device of itself gives the next quad its turn. -/
theorem advance_quad {s : State} {q : Nat} (hst : s.stage ≠ .off) (hb : s.begun = true) (hq : s.nextQuad? = some q) :
    s.advance = { s.issueQuad q with cursor := q + 1 } := by
  rw [State.advance, if_neg (by simpa using hst), hb]
  simp only [hq, Bool.not_true, Bool.false_eq_true, if_false]

/-- Settles O48: with nothing on the agenda a step is the turn of a quad, otherwise that of the agenda's head. -/
theorem stepRunsDecoded : Obligations.StepRunsDecoded := by
  refine ⟨?_, ?_, ?_, fun s => ⟨_, rfl⟩, fun s ha hoff => ?_⟩
  · intro s q pre rest w p v i x t ha hst hb hq hidle hc hpre ho hf hdef hd hx hbad hclear hslot he ht
    have hrun := issueQuad_runs hidle hc hpre (tryWave_issues ho hf hdef hd hx hbad hclear hslot he ht)
    rw [step, State.turn, ha]
    simp only [advance_quad hst hb hq, hrun]
  · intro s i r ha hturn hi h1 h2 h3 h4 h5 h6
    rw [← act_event hi h1 h2 h3 h4 h5 h6, step, State.turn, ha]
    simp only [hturn, if_true]
  · intro s i r ha hturn
    rw [step, State.turn, ha]
    simp only [hturn, Bool.false_eq_true, if_false]
  · rw [step, State.turn, ha]
    simp only [advance_off hoff]

end Sys2Proof.Stepping
end

section
/-! The machine right after device reset (R193, R287, R305, R367). -/

namespace Sys2Proof.AfterReset

open Sys2Proof Sys2Proof.Machine Sys2Proof.Laws

/-- A list of equal entries reads as that entry, at its places and beyond. -/
theorem getD_replicate_self {α : Type} (n i : Nat) (a : α) : (List.replicate n a).getD i a = a := by
  rw [List.getD_eq_getElem?_getD, List.getElem?_replicate]
  split <;> rfl

theorem core_reset (c : Nat) : State.reset.core c = Core.reset := getD_replicate_self 320 c Core.reset

theorem ctx_reset (c : Nat) : State.reset.ctx c = Ctx.reset := getD_replicate_self 64 c Ctx.reset

/-- POWER_GOOD starts stage 0 of a device that is off (R367). -/
theorem exec_powerGood {s : State} (h : s.stage = .off) :
    exec .powerGood s = .next { s with stage := .s0, clk := 0, cursor := 0, begun := false }  := by
  show execPowerGood s = _
  exact execEvent_some (by simp [h])

/-- Settles O49: the fields of `State.reset`, and POWER_GOOD on a device that is off. -/
theorem resetValues : Obligations.ResetValues := by
  refine ⟨rfl, rfl, rfl, rfl, fun c => ?_, fun q => rfl, rfl, rfl, rfl, rfl, rfl, rfl, rfl, rfl, rfl, reset_mem_wf, rfl, rfl, rfl,
    fun c _ => ?_, _, exec_powerGood rfl, rfl, rfl⟩
  · rw [ctx_reset]; rfl
  · rw [core_reset]; rfl

end Sys2Proof.AfterReset
end

section
/-! What reads and writes of home bytes leave alone (R323, R326). -/

namespace Sys2Proof.Lookups

open Sys2Proof Sys2Proof.Machine Sys2Proof.Laws Sys2Proof.Waves

/-- `t` is `s` with other bytes in memory and other runs in the translation blocks of its dies. -/
structure Looked (s t : State) : Prop where
  count : t.dies.length = s.dies.length
  rest : t = { s with mem := t.mem, bad := t.bad, dies := t.dies }
  die : ∀ d, ∃ runs conflicts lastconf,
    t.die d = { s.die d with runs := runs, conflicts := conflicts, lastconf := lastconf }

section
variable {s t u : State}

theorem Looked.refl (s : State) : Looked s s := ⟨rfl, rfl, fun _ => ⟨_, _, _, rfl⟩⟩

theorem Looked.trans (h : Looked s t) (k : Looked t u) : Looked s u := by
  refine ⟨k.count.trans h.count, by rw [k.rest, h.rest], fun d => ?_⟩
  obtain ⟨r, c, l, hd⟩ := h.die d
  obtain ⟨r', c', l', kd⟩ := k.die d
  exact ⟨r', c', l', by rw [kd, hd]⟩

theorem Looked.foldl {α : Type} {f : State → α → State} (hf : ∀ s a, Looked s (f s a)) (l : List α) (s : State) :
    Looked s (l.foldl f s) := by
  induction l generalizing s with
  | nil => exact .refl s
  | cons a r ih => exact (hf s a).trans (ih _)

/-- Other bytes in memory. -/
theorem looked_bytes (s : State) (m : Store) (b : List Bad) : Looked s { s with mem := m, bad := b } :=
  ⟨rfl, rfl, fun _ => ⟨_, _, _, rfl⟩⟩

/-- Other runs of a die. -/
theorem looked_setDie (s : State) (d : Nat) (runs : List Run) (conflicts : Word) (lastconf : Nat) :
    Looked s (s.setDie d { s.die d with runs := runs, conflicts := conflicts, lastconf := lastconf }) := by
  refine ⟨List.length_set .., rfl, fun e => ?_⟩
  rw [die_setDie]
  split
  case isTrue h => exact ⟨_, _, _, by rw [h.1]⟩
  case isFalse => exact ⟨_, _, _, rfl⟩

theorem looked_keyOf (s : State) (ia : Nat) : Looked s (s.keyOf ia).1 := by
  have htranslate (d off_ : Nat) : Looked s (s.translate d off_).1 := by
    unfold State.translate
    dsimp only
    split
    · exact .refl s
    · split
      · exact looked_setDie ..
      · split
        · exact .refl s
        · split
          · exact looked_setDie ..
          · exact looked_setDie ..
  unfold State.keyOf
  split
  · exact .refl s
  · split
    · have h := htranslate (iaDie ia) (ia % 2 ^ 44)
      split <;> rename_i ht <;> rwa [ht] at h
    · exact .refl s

theorem looked_hRead (n : Nat) : ∀ (s : State) (ia : Nat), Looked s (s.hRead ia n).1 := by
  induction n with
  | zero => exact fun s _ => .refl s
  | succ n ih =>
    intro s ia
    have h := looked_keyOf s ia
    rw [State.hRead]
    split <;> rename_i s1 _ hk <;> rw [hk] at h
    · exact h
    · have hr := ih s1 (ia + 1)
      dsimp only
      split <;> rename_i hb <;> rw [hb] at hr <;> exact h.trans hr

theorem looked_mappedAll (cells : Store) : ∀ s : State, Looked s (s.mappedAll cells).1 := by
  induction cells with
  | nil => exact .refl
  | cons c r ih =>
    intro s
    have h := looked_keyOf s c.1
    rw [State.mappedAll]
    split <;> rename_i hk <;> rw [hk] at h
    · exact h
    · exact h.trans (ih _)

theorem looked_wroteHome (s : State) (name : Nat) (cells : Store) : Looked s (s.wroteHome name cells) := by
  unfold State.wroteHome State.wrote
  split
  · exact .refl s
  · exact looked_bytes ..

theorem looked_hWrite (s : State) (cells : Store) (name : Nat) : Looked s (s.hWrite cells name).1 := by
  have hall := looked_mappedAll cells s
  have hcell (s : State) (c : Nat × Byte) : Looked s (match s.keyOf c.1 with
      | (s', .inl k) => s'.putByte k c.2
      | (s', .inr _) => s') := by
    have h := looked_keyOf s c.1
    split <;> rename_i hk <;> rw [hk] at h
    · exact h.trans (looked_bytes ..)
    · exact h
  unfold State.hWrite
  split <;> rename_i hm <;> rw [hm] at hall
  · exact hall
  · exact hall.trans ((Looked.foldl hcell ..).trans (looked_wroteHome ..))

/-- As many bytes as asked for are read. -/
theorem length_hRead (n : Nat) : ∀ (s : State) (ia : Nat) (t : State) (bs : List Byte),
    s.hRead ia n = (t, some bs) → bs.length = n := by
  induction n with
  | zero => intro s ia t bs h; cases h; rfl
  | succ n ih =>
    intro s ia t bs h
    rw [State.hRead] at h
    split at h
    · cases h
    · dsimp only at h
      split at h <;> rename_i hb <;> cases h
      rw [List.length_cons, ih _ _ _ _ hb]

end

/-! What stands through a lookup -/

section
variable {s t : State} (h : Looked s t)
include h

theorem Looked.queues : t.queues = s.queues := by rw [h.rest]
theorem Looked.ctxs : t.ctxs = s.ctxs := by rw [h.rest]
theorem Looked.kernels : t.kernels = s.kernels := by rw [h.rest]
theorem Looked.nextUid : t.nextUid = s.nextUid := by rw [h.rest]

theorem Looked.queue (n : Nat) : t.queue n = s.queue n := by unfold State.queue; rw [h.queues]

theorem Looked.ctx (c : Nat) : t.ctx c = s.ctx c := by unfold State.ctx; rw [h.ctxs]

theorem Looked.commandIa? (ctx va len perm : Nat) : t.commandIa? ctx va len perm = s.commandIa? ctx va len perm := by
  unfold State.commandIa?; rw [h.ctx]

theorem Looked.geodeBase (d : Nat) : t.geodeBase d = s.geodeBase d := by
  obtain ⟨r, c, l, hd⟩ := h.die d
  unfold State.geodeBase; rw [hd]

theorem Looked.tables (d : Nat) : (t.die d).tables = (s.die d).tables := by
  obtain ⟨r, c, l, hd⟩ := h.die d
  rw [hd]

theorem Looked.saddleReach (d : Nat) : t.saddleReach d = s.saddleReach d := by
  obtain ⟨r, c, l, hd⟩ := h.die d
  have hjoin (tr : Bool) : t.saddleJoin tr d = s.saddleJoin tr d := by rw [h.rest]; rfl
  unfold State.saddleReach
  rw [hd, hjoin, hjoin]

end

end Sys2Proof.Lookups
end

section
/-! Groups, pages and contexts (R28, R29, R172, R289, R296, R308 to R322, R327 to R330). -/

namespace Sys2Proof.Tenancy

open Sys2Proof Sys2Proof.Machine Sys2Proof.Laws Sys2Proof.Waves

/-- What each step of a fold keeps, the fold keeps. -/
theorem foldl_keeps {α β : Type} {f : State → α → State} (field : State → β) (hf : ∀ s a, field (f s a) = field s)
    (l : List α) (s : State) : field (l.foldl f s) = field s := by
  induction l generalizing s with
  | nil => rfl
  | cons a r ih => exact (ih _).trans (hf s a)

/-! Launch waves (R308, R316) -/

/-- Arguments put into the scalar registers from s1 on. -/
theorem argument_get {args : List Word} {m : Nat} {a : Word} (h : args[m]? = some a) :
    wget (args.zipIdx.foldl (fun t x => wset t (x.2 + 1) x.1) []) (m + 1) = a := by
  have hmem : (m, a) ∈ args.zipIdx.map Prod.swap :=
    List.mem_map.2 ⟨(a, m), List.mem_zipIdx_iff_getElem?.2 h, rfl⟩
  have hkeys : ((args.zipIdx.map Prod.swap).map (·.1)).Nodup := by
    have heq : (args.zipIdx.map Prod.swap).map (·.1) = List.range' 0 args.length := by
      rw [List.map_map]; exact List.zipIdx_map_snd 0 args
    rw [heq]
    exact List.nodup_range'
  have hget := wget_foldl_mem 1 _ [] hkeys (m, a) hmem
  rw [List.foldl_map, Nat.add_comm] at hget
  simpa only [Prod.fst_swap, Prod.snd_swap, Nat.add_comm 1] using hget

/-- Launch wave `i` of a group, by what its program can see. -/
structure Launched (uid clk : Nat) (g : Group) (k : Kernel) (i : Nat) (v : Wave) : Prop where
  made : ∃ slot sregs, v = Wave.launch uid (g.cores.getD (i % max g.cores.length 1) 0) (i / max g.cores.length 1 % 4) slot i clk g k
    k.entry (BitVec.allOnes 32) [] sregs
  args : ∀ m a, k.args[m]? = some a → v.sget (m + 1) = a

/-- The launch wave that the state starts next. -/
def nextWave (s : State) (g : Group) (k : Kernel) (i : Nat) : Wave :=
  let core := g.cores.getD (i % max g.cores.length 1) 0
  let quad := i / max g.cores.length 1 % 4
  Wave.launch s.nextUid core quad (s.freeSlot (g.die * 40 + core) quad) i s.clk g k k.entry (BitVec.allOnes 32) []
    (k.args.zipIdx.foldl (fun m a => wset m (a.2 + 1) a.1) [])

theorem launchWaves_succ (s : State) (g : Group) (k : Kernel) (i n : Nat) : s.launchWaves g k i (n + 1) =
    ({ s with nextUid := s.nextUid + 1, waves := s.waves ++ [nextWave s g k i] } : State).launchWaves g k (i + 1) n := rfl

/-- The launch waves follow the state's waves, in the order of their indices. -/
theorem launchWaves_spec (g : Group) (k : Kernel) (n : Nat) : ∀ (i : Nat) (s : State), ∃ vs : List Wave,
    (s.launchWaves g k i n).waves = s.waves ++ vs ∧ vs.length = n ∧
      ∀ (j : Nat) (v : Wave), vs[j]? = some v → Launched (s.nextUid + j) s.clk g k (i + j) v := by
  induction n with
  | zero => exact fun i s => ⟨[], (List.append_nil _).symm, rfl, fun j v h => by simp at h⟩
  | succ n ih =>
    intro i s
    rw [launchWaves_succ]
    obtain ⟨vs, hvs, hlen, hall⟩ := ih (i + 1) { s with nextUid := s.nextUid + 1, waves := s.waves ++ [nextWave s g k i] }
    refine ⟨nextWave s g k i :: vs, hvs.trans (by simp), by simp [hlen], fun j v hv => ?_⟩
    cases j with
    | zero =>
      obtain rfl : nextWave s g k i = v := by simpa using hv
      exact ⟨⟨_, _, rfl⟩, fun m a ha => argument_get ha⟩
    | succ j =>
      have hj := hall j v (by simpa using hv)
      rw [show i + 1 + j = i + (j + 1) by omega] at hj
      rwa [show s.nextUid + (j + 1) = s.nextUid + 1 + j by omega]

/-! Lines that a replay has walked (R329, R330) -/

/-- A die that differs from one without services exists. -/
theorem die_exists {s : State} {d : Nat} (h : s.die d ≠ Die.reset) : d < s.dies.length := by
  by_contra hd
  exact h (List.getD_eq_default _ _ (by omega))

/-- A translation that succeeds is that of a die which exists. -/
theorem die_of_translate {s t : State} {d off_ pa : Nat} (h : s.translate d off_ = (t, .ok pa)) : d < s.dies.length := by
  refine die_exists fun hd => ?_
  rw [State.translate, hd] at h
  cases h

/-- A mapped IA of main memory is that of a die which exists. -/
theorem die_of_keyOf {s t : State} {ia k : Nat} (h0 : iaSpace ia = 0) (h : s.keyOf ia = (t, .inl k)) :
    iaDie ia < 8 ∧ iaDie ia < s.dies.length := by
  rw [State.keyOf] at h
  split at h
  case isTrue => cases h
  case isFalse hb =>
    have h8 : iaDie ia < 8 := by simpa [unbacked, h0] using hb
    split at h
    case h_1 ht => exact ⟨h8, die_of_translate ht⟩
    case h_2 => cases h

/-- A line of main memory that is mapped now keeps the frame which the walk has found. -/
theorem wake_walked {s t : State} {r : AccRef} {ia k : Nat} (hr : ∀ id, r ≠ .inbound id) (h0 : iaSpace ia = 0)
    (hk : s.keyOf ia = (t, .inl k)) :
    (s.wake r ia).die (iaDie ia % 8) = { s.die (iaDie ia % 8) with
      walked := (s.die (iaDie ia % 8)).walked ++
        [({ ref := r, ia := ia, ctx := none, since := s.clk }, k % 2 ^ 48 / 2 ^ 14)] } := by
  obtain ⟨h8, hlen⟩ := die_of_keyOf h0 hk
  have hne : (iaSpace ia != 0) = false := by simp [h0]
  rw [State.wake, hk]
  · simp only [hne, Bool.false_eq_true, if_false]
    rw [die_setDie, if_pos ⟨rfl, by rwa [Nat.mod_eq_of_lt h8]⟩]
  · exact hr

/-- The state in which an access that a replay has walked acts: the runs that it found stand first. -/
def pinned (s : State) (r : AccRef) : State := { s with dies := s.dies.map fun d => { d with runs := d.pins r ++ d.runs } }

/-- A die of it that has a page for the access. -/
theorem die_pinned {s : State} {r : AccRef} {d : Nat} (hd : d < s.dies.length) :
    (pinned s r).die d = { s.die d with runs := (s.die d).pins r ++ (s.die d).runs } := by
  have hlen : d < (s.dies.map fun x => { x with runs := x.pins r ++ x.runs }).length := by simpa using hd
  show ((s.dies.map _).getD d _) = _
  unfold State.die
  rw [List.getD_eq_getElem _ _ hlen, List.getD_eq_getElem _ _ hd, List.getElem_map]

/-- An access with a page that a replay has found acts on the pinned state. -/
theorem pinning_pinned {s t : State} {r : AccRef} {d : Nat} {x : Run} (hd : d < s.dies.length) (hx : x ∈ (s.die d).pins r)
    {f : State → Option State} (hf : f (pinned s r) = some t) :
    ∃ v, s.pinning r f = some v ∧ v.mem = t.mem ∧ v.waves = t.waves := by
  have hwalked : s.unpinned = false := by
    rw [State.unpinned, List.all_eq_false]
    refine ⟨s.die d, ?_, fun hempty => ?_⟩
    · rw [State.die, List.getD_eq_getElem _ _ hd]; exact List.getElem_mem hd
    · rw [List.isEmpty_iff] at hempty
      rw [Die.pins, hempty] at hx
      cases hx
  rw [State.pinning, if_neg (by simp [hwalked])]
  change ∃ v, (f (pinned s r)).map _ = some v ∧ _
  rw [hf]
  exact ⟨_, rfl, rfl, rfl⟩

/-- An access acts at the page that a replay found for it. -/
theorem pinned_acts {s : State} {r : AccRef} {d off_ : Nat} {x : Run} (hx : runOf? ((s.die d).pins r) (off_ / 2 ^ 14) = some x)
    (hroot : (s.die d).ptroot.getLsbD 0 = true) (hin : s.frameLost d (x.pfn + (off_ / 2 ^ 14 - x.page)) = false) :
    ∃ t : State, (t.translate d off_).2 = .ok ((x.pfn + (off_ / 2 ^ 14 - x.page)) * 2 ^ 14 + off_ % 2 ^ 14) ∧ t.mem = s.mem ∧
      t.waves = s.waves ∧ ∀ (f : State → Option State) u, f t = some u →
        ∃ v, s.pinning r f = some v ∧ v.mem = u.mem ∧ v.waves = u.waves := by
  have hd : d < s.dies.length := die_exists fun h => by rw [h] at hroot; cases hroot
  refine ⟨pinned s r, ?_, rfl, rfl, fun f u hu => pinning_pinned hd (List.mem_of_find?_eq_some hx) hu⟩
  have hrun : runOf? ((pinned s r).die d).runs (off_ / 2 ^ 14) = some x := by
    rw [die_pinned hd, runOf?, List.find?_append]
    rw [show List.find? _ ((s.die d).pins r) = some x from hx]
    rfl
  rw [Home.translate_cached (by rw [die_pinned hd]; exact hroot) hrun hin]

/-! Groups and kernels while memory, caches and work change (R205, R328) -/

/-- The groups and the kernels of the device. -/
def roster (s : State) : List Group × List Kernel := (s.groups, s.kernels)

theorem roster_hWrite (s : State) (cells : Store) (name : Nat) : roster (s.hWrite cells name).1 = roster s := by
  rw [(Lookups.looked_hWrite s cells name).rest]; rfl

theorem roster_mergeLines (s : State) (merged : List (Nat × Nat)) (g : Grant) : roster (s.mergeLines merged g) = roster s := by
  unfold State.mergeLines
  split
  · refine foldl_keeps roster (fun s line => ?_) ..
    split
    · exact roster_hWrite ..
    · rfl
  · rfl

theorem roster_scrambleAt (g : Group) (n : Nat) : ∀ (o : Nat) (s : State), roster (s.scrambleAt g o n) = roster s := by
  induction n with
  | zero => exact fun _ _ => rfl
  | succ n ih => exact fun o s => ih (o + 1) _

theorem roster_scramble (s : State) (gu : Nat) : roster (s.scramble gu) = roster s := by
  refine foldl_keeps roster (fun s c => ?_) ..
  split
  · split
    · split
      · exact foldl_keeps roster (fun s i => roster_scrambleAt ..) ..
      · rfl
    · rfl
  · rfl

theorem roster_freeMiss (s : State) (gu : Nat) : roster (s.freeMiss gu) = roster s := by
  refine foldl_keeps roster (fun s w => ?_) ..
  rfl

theorem roster_discardWork (s : State) (gu : Nat) : roster (s.discardWork gu) = roster s :=
  (roster_scramble (s.freeMiss gu) gu).trans (roster_freeMiss s gu)

theorem roster_dropParked (s : State) (ctx : Nat) : roster (s.dropParked ctx) = roster s := by
  have hfree (s : State) (wave entries : Nat) : roster (match s.wave? wave with
      | some w => s.missFree (s.coreOf w) entries
      | none => s) = roster s := by
    split <;> rfl
  unfold State.dropParked
  exact (foldl_keeps roster (fun s (h : Nat × HAtom) => hfree s h.2.wave h.2.entries) ..).trans
    (foldl_keeps roster (fun s (p : Packet) => hfree s p.wave p.entries) ..)

/-! Events of groups and pages -/

section
variable {s : State}

theorem placement_done {k : Kernel} {v die : Nat} {cores : List Nat}
    (h : s.launchOrder.findSome? (fun k => (s.choosePlace k k.placed (s.fitsOn k)).map fun u => (k, u)) = some (k, v, die, cores)) :
    exec .placement s = .next (s.placeGroup k v die cores) := by
  show execPlacement s = _
  exact execEvent_some (by simp [h])

/-- The resources of a drained group are released, and the group is DONE. -/
def releasedGroup (s : State) (g : Group) : State :=
  ({ s with waves := s.waves.map fun w => w.giveUp g.uid,
            cores := s.cores.map fun c => if c.sampler.owner == some g.uid then { c with sampler := Sampler.reset } else c,
            regFaults := dropIf (fun f => s.ownedBy g.uid f.1) s.regFaults } : State).setGroup
    { g with st := .done, bars := [], chans := [], cvs := [], laces := [], ress := [] }

theorem groupDrainComplete_done {gu : Nat} {g : Group} (hg : s.group? gu = some g) (hover : s.drainOver g = true) :
    ∃ t : State, exec (.groupDrainComplete gu) s = .next (t.groupDone g.kernel) ∧
      t.waves = s.waves.map (fun w => w.giveUp gu) ∧
      t.group? gu = some { g with st := .done, bars := [], chans := [], cvs := [], laces := [], ress := [] } := by
  obtain rfl : g.uid = gu := by simpa using List.find?_some hg
  have hnot : (!s.drainOver g) = false := by simp [hover]
  refine ⟨releasedGroup s g, ?_, rfl, ?_⟩
  · show execGroupDrainComplete g.uid s = _
    refine execEvent_some ?_
    simp only [hg, hnot, Option.bind_eq_bind, Option.bind_some, Bool.false_eq_true, if_false]
    rfl
  · exact MatrixWork.group?_setGroup (s := { s with waves := _, cores := _, regFaults := _ })
      (g' := { g with st := .done, bars := [], chans := [], cvs := [], laces := [], ress := [] }) hg

theorem completion_done {ku : Nat} {k : Kernel} (hk : s.kernel? ku = some k) (hst : k.st = .draining) (hrep : k.reports = some [])
    (hquiet : s.kernelQuiet k = true) (hres : s.residuesOver k = true) :
    let s1 := (s.setKernel { k with st := .complete }).launchGone k
    exec (.completion ku) s = .next (State.settleKernels { s1 with
      waves := s1.waves.filter fun w => !s1.waveOf ku w.uid, groups := s1.groups.filter fun g => g.kernel != ku }) := by
  show execCompletion ku s = _
  refine execEvent_some ?_
  simp [hk, hst, hrep, hquiet, hres]
  rfl

/-- An access meets an unmapped page. -/
theorem park_done {r : AccRef} {ia reason level : Nat} (hpark : s.lineParked r ia = false) (hwalk : s.lineWalked r ia = false)
    (hneed : s.needsByte r ia = true) (hun : s.unmappedAt ia = some (reason, level)) :
    exec (.park r ia) s = .next (s.parkAt (iaDie ia % 8)
      { ref := r, ia := ia, ctx := (s.accOwner r).map (·.1), since := s.clk } reason level) := by
  show execPark r ia s = _
  exact execEvent_some (by simp [hpark, hwalk, hneed, hun])

/-- A lookup leaves the clk. -/
theorem walk_clk (s : State) (ia : Nat) : (s.walk ia).1.clk = s.clk := by
  have hkey : (s.keyOf ia).1.clk = s.clk := by rw [(Lookups.looked_keyOf s ia).rest]
  unfold State.walk
  split <;> rename_i hk <;> rwa [hk] at hkey

/-- A bounced access that is sent again is walked. -/
theorem bounceResend_done {r : AccRef} {ia since : Nat} {p : Parked}
    (hb : (s.die (iaDie ia % 8)).bouncedAcc.find? (fun b => b.1.ref == r && b.1.ia == ia) = some (p, since))
    (hclk : since + 3000 ≤ s.clk) :
    let die := iaDie ia % 8
    let t := s.setDie die { s.die die with bouncedAcc := (s.die die).bouncedAcc.filter fun b => b != (p, since) }
    ((t.walk ia).2 = none → exec (.bounceResend r ia) s = .next ((t.walk ia).1.wake r ia)) ∧
    (∀ reason level, (t.walk ia).2 = some (reason, level) →
      exec (.bounceResend r ia) s = .next ((t.walk ia).1.parkAt die { p with since := s.clk } reason level)) := by
  intro die t
  have hnot : ¬ s.clk < since + 3000 := by omega
  have hclk : (t.walk ia).1.clk = s.clk := walk_clk t ia
  constructor
  · intro hnone
    show execBounceResend r ia s = _
    refine execEvent_some ?_
    simp only [hb, hnot, Option.bind_eq_bind, Option.bind_some, if_false]
    change (match t.walk ia with | (s, none) => _ | (s, some (reason, level)) => _) = _
    split <;> rename_i h <;> rw [h] at hnone
    · rw [h]
    · cases hnone
  · intro reason level hsome
    show execBounceResend r ia s = _
    refine execEvent_some ?_
    simp only [hb, hnot, Option.bind_eq_bind, Option.bind_some, if_false]
    change (match t.walk ia with | (s, none) => _ | (s, some (reason, level)) => _) = _
    split <;> rename_i h <;> rw [h] at hsome hclk
    · cases hsome
    · cases hsome
      rw [h, ← hclk]

theorem xinv_done (die : Nat) (w : Word) :
    let n := 2 ^ fld w 60 4
    let page := fld w 14 30
    let gone : Run := { page := page - page % n, size := n, pfn := 0 }
    exec (.xinv die w) s = .next (s.setDie die
      { s.die die with runs := if w.getLsbD 0 then [] else (s.die die).runs.filter (fun r => !runsMeet r gone), busy := true }) :=
  rfl

theorem shootDownDone_done {die : Nat} (hbusy : (s.die die).busy = true)
    (hover : ∀ x ∈ (s.die die).walked, s.stillOpen x.1.ref x.1.ia = false) :
    exec (.shootDownDone die) s = .next (s.setDie die { s.die die with busy := false, walked := [] }) := by
  have hlive : ((s.die die).walked.filter fun x => s.stillOpen x.1.ref x.1.ia) = [] :=
    List.filter_eq_nil_iff.2 fun x hx => by simp [hover x hx]
  show execShootDownDone die s = _
  exact execEvent_some (by simp only [hlive, hbusy, List.isEmpty_nil, Bool.and_self, if_true])

/-- The Slate window of a die shrinks or grows where nothing in it is in use. -/
theorem gmibWrite_done {die : Nat} {v : BitVec 6} (hv : v.toNat ≤ 32) (htab : ∀ t ∈ (s.die die).tables, t.n = 0)
    (hent : ∀ e ∈ (s.die die).entries, e.kind ≠ .residue →
      meets (e.ia, e.len) (2 ^ 48 + die * 2 ^ 44 + (2 ^ 28 - v.toNat * 2 ^ 20), v.toNat * 2 ^ 20) = false)
    (hcmd : ∀ q ∈ s.queues, ∀ c ∈ q.inflight, ∀ src dst len, c.2 = .slatew src dst len →
      meets (dst, len) (2 ^ 48 + die * 2 ^ 44 + (2 ^ 28 - v.toNat * 2 ^ 20), v.toNat * 2 ^ 20) = false) :
    exec (.gmibWrite die v) s = .next (s.setDie die { s.die die with gmib := v.toNat }) := by
  have hlen : 2 ^ 48 + die * 2 ^ 44 + 2 ^ 28 - (2 ^ 48 + die * 2 ^ 44 + (2 ^ 28 - v.toNat * 2 ^ 20)) = v.toNat * 2 ^ 20 := by omega
  have htables : (s.die die).tables.any (·.n != 0) = false := List.any_eq_false.2 fun t ht => by simp [htab t ht]
  have hentries : ((s.die die).entries.any fun e => e.kind != .residue &&
      meets (e.ia, e.len) (2 ^ 48 + die * 2 ^ 44 + (2 ^ 28 - v.toNat * 2 ^ 20), v.toNat * 2 ^ 20)) = false :=
    List.any_eq_false.2 fun e he => by
      by_cases hk : e.kind = .residue
      · simp [hk]
      · rw [hent e he hk, Bool.and_false]
        exact Bool.false_ne_true
  show execGmibWrite die v s = _
  refine execEvent_some ?_
  simp only [hlen, htables, hentries, Bool.false_or, Bool.or_false]
  rw [if_neg]
  rw [Bool.or_eq_true, not_or]
  refine ⟨by simpa using hv, Bool.not_eq_true _ ▸ List.any_eq_false.2 fun q hq => ?_⟩
  rw [List.any_eq_true]
  rintro ⟨c, hc, hmeets⟩
  split at hmeets
  · rename_i hkind
    rw [hcmd q hq c hc _ _ _ hkind] at hmeets
    cases hmeets
  · cases hmeets

end

/-! Contexts -/

section
variable {s : State} {ctx : Nat}

theorem rangeRegisterSet_done {n : Nat} {w0 w1 w2 : Word} (hst : (s.ctx ctx).st ≠ .free) (hok : (mapOf w0 w1 w2).ok = true) :
    exec (.rangeRegisterSet ctx n w0 w1 w2) s =
      .next (s.setCtx ctx { s.ctx ctx with maps := (s.ctx ctx).maps.set n (mapOf w0 w1 w2) }) := by
  show execRangeRegisterSet ctx n w0 w1 w2 s = _
  exact execEvent_some (by simp [hst, hok])

theorem rangeRegisterSet_refused {n : Nat} {w0 w1 w2 : Word} (hst : (s.ctx ctx).st = .creating)
    (hok : (mapOf w0 w1 w2).ok = false) :
    exec (.rangeRegisterSet ctx n w0 w1 w2) s = .next (s.setCtx ctx Ctx.reset) := by
  show execRangeRegisterSet ctx n w0 w1 w2 s = _
  exact execEvent_some (by simp [hst, hok])

theorem contextCreate_begins {spec : CtxSpec} (hst : (s.ctx ctx).st = .free) :
    exec (.contextCreate ctx spec) s = .next (s.setCtx ctx (Ctx.created spec)) := by
  show execContextCreate ctx spec s = _
  exact execEvent_some (by rw [hst])

theorem contextCreate_ends {spec : CtxSpec} (hst : (s.ctx ctx).st = .creating) :
    exec (.contextCreate ctx spec) s = .next (s.setCtx ctx
      (if s.vdiesOk (s.ctx ctx).vdies && (s.ctx ctx).maps.all Map.ok then { s.ctx ctx with st := .active } else Ctx.reset)) := by
  show execContextCreate ctx spec s = _
  refine execEvent_some ?_
  rw [hst, apply_ite (s.setCtx ctx)]
  rfl

theorem contextPreempt_begins (hst : (s.ctx ctx).st = .active) (hpre : (s.ctx ctx).preempting = false)
    (hfits : (s.ctx ctx).saveUsed + ((s.ctxGroups ctx .running).map s.frameNeed).sum ≤ (s.ctx ctx).saveCap) :
    exec (.contextPreempt ctx) s = .next ((s.queues.filter fun q => q.owner == ctx && q.st != 5 && !q.resetReq).foldl
      (fun s q => s.setQueue { s.queue q.q with st := 4 }) (s.setCtx ctx { s.ctx ctx with preempting := true })) := by
  show execContextPreempt ctx s = _
  refine execEvent_some ?_
  dsimp only
  rw [if_neg (by simp [hst]), if_neg (by simp [hpre])]
  exact if_pos hfits

theorem contextPreempt_ends (hst : (s.ctx ctx).st = .active) (hpre : (s.ctx ctx).preempting = true)
    (hquiet : ∀ g ∈ s.ctxGroups ctx .running, s.groupQuiet g = true) :
    let running := s.ctxGroups ctx .running
    let t := running.foldl (fun s g => s.saveGroup g) s
    exec (.contextPreempt ctx) s = .next (t.setCtx ctx { t.ctx ctx with
      st := .preempted, preempting := false, saveUsed := (t.ctx ctx).saveUsed + (running.map s.frameNeed).sum }) := by
  show execContextPreempt ctx s = _
  refine execEvent_some ?_
  dsimp only
  rw [if_neg (by simp [hst]), if_pos hpre]
  exact if_pos (List.all_eq_true.2 hquiet)

theorem contextResume_again (hst : (s.ctx ctx).st = .active) (hpre : (s.ctx ctx).preempting = false) :
    exec (.contextResume ctx) s = .next (s.restoreAll (s.savedGroups ctx)) := by
  show execContextResume ctx s = _
  exact execEvent_some (by simp [hst, hpre])

/-- A PREEMPTED context is ACTIVE again, with its queues evaluated. -/
def reactivated (s : State) (ctx : Nat) : State :=
  (s.queues.filter fun q => q.owner == ctx && q.st == 4 && !q.resetReq).foldl (fun s q =>
    (s.setQueue { s.queue q.q with st := 0 }).evalQueue q.q) (s.setCtx ctx { s.ctx ctx with st := .active })

theorem contextResume_active (hst : (s.ctx ctx).st = .preempted) :
    exec (.contextResume ctx) s = .next ((reactivated s ctx).restoreAll ((reactivated s ctx).savedGroups ctx)) := by
  show execContextResume ctx s = _
  exact execEvent_some (by dsimp only; rw [hst]; rfl)

theorem contextKill_creating (hst : (s.ctx ctx).st = .creating) : exec (.contextKill ctx) s = .next
    (((s.queues.filter (·.owner == ctx)).map (·.q)).foldl (fun s n => s.disown n) (s.setCtx ctx Ctx.reset)) := by
  show execContextKill ctx s = _
  exact execEvent_some (by rw [State.kill?, hst])

theorem contextKill_kills (hst : (s.ctx ctx).st = .active ∨ (s.ctx ctx).st = .preempted ∨ (s.ctx ctx).st = .faulted) :
    exec (.contextKill ctx) s = .next (s.killContext ctx) := by
  show execContextKill ctx s = _
  rcases hst with hst | hst | hst <;> exact execEvent_some (by rw [State.kill?, hst])

/-- The device when the outboxes, copies and parked accesses of a killed context have been discarded. -/
def killed (s : State) (ctx : Nat) (merged : List (Nat × Nat)) : State :=
  let ks := (s.kernels.filter (·.ctx == ctx)).map (·.uid)
  let gs := (s.groups.filter fun g => ks.contains g.kernel).map (·.uid)
  let s := (s.grants.filter (·.ctx == ctx)).foldl (fun s g => s.mergeLines merged g) s
  let s : State := { s with
    regFaults := dropIf (fun f => gs.any fun g => s.ownedBy g f.1) s.regFaults,
    grants := s.grants.filterMap fun g =>
      if g.ctx != ctx then some g
      else if g.atEndpoint then some { g with st := .held, gs := [], window := none, children := 0, derive := none }
      else none }
  (gs.foldl (fun s g => s.discardWork g) s).dropParked ctx

theorem roster_killed (s : State) (ctx : Nat) (merged : List (Nat × Nat)) : roster (killed s ctx merged) = roster s :=
  (roster_dropParked ..).trans ((foldl_keeps roster roster_discardWork ..).trans
    (foldl_keeps roster (fun s g => roster_mergeLines s merged g) ..))

/-- Its groups are DONE, and its kernels have lost what they had placed. -/
def released (s t : State) (ctx : Nat) : State :=
  let ks := (s.kernels.filter (·.ctx == ctx)).map (·.uid)
  let gs := (s.groups.filter fun g => ks.contains g.kernel).map (·.uid)
  { t with
    groups := t.groups.map fun g => if gs.contains g.uid then
      { g with st := .done, bars := [], chans := [], cvs := [], laces := [], ress := [], frame := [], frameFull := [],
               frameOb := [], frameSmp := none } else g,
    kernels := t.kernels.map fun k => if ks.contains k.uid then { k with done := k.placed } else k }

theorem killRelease_done (hst : (s.ctx ctx).st = .killing) (merged : List (Nat × Nat)) : ∃ t : State,
    exec (.killRelease ctx merged) s = .next (t.setCtx ctx { t.ctx ctx with st := .reclaiming, walked := false, saveUsed := 0 }) ∧
    (∀ g ∈ t.groups, ∀ k ∈ s.kernels, k.ctx = ctx → g.kernel = k.uid → g.st = .done) ∧
    (∀ k ∈ t.kernels, k.ctx = ctx → k.done = k.placed) := by
  have hgroups : (killed s ctx merged).groups = s.groups := congrArg Prod.fst (roster_killed s ctx merged)
  have hkernels : (killed s ctx merged).kernels = s.kernels := congrArg Prod.snd (roster_killed s ctx merged)
  have huid (k : Kernel) (hk : k ∈ s.kernels) (hctx : k.ctx = ctx) :
      ((s.kernels.filter (·.ctx == ctx)).map (·.uid)).contains k.uid = true :=
    List.contains_iff_mem.2 (List.mem_map.2 ⟨k, List.mem_filter.2 ⟨hk, by simp [hctx]⟩, rfl⟩)
  refine ⟨released s (killed s ctx merged) ctx, ?_, fun g hg k hk hctx hgk => ?_, fun k hk hctx => ?_⟩
  · show execKillRelease ctx merged s = _
    refine execEvent_some ?_
    simp only [hst, bne_self_eq_false, Bool.false_eq_true, if_false]
    rfl
  · obtain ⟨g0, hg0, rfl⟩ := List.mem_map.1 hg
    have hg0s : g0 ∈ s.groups := hgroups ▸ hg0
    have hkernel : g0.kernel = k.uid := by rw [← hgk]; split <;> rfl
    have hin : ((s.groups.filter fun g => ((s.kernels.filter (·.ctx == ctx)).map (·.uid)).contains g.kernel).map (·.uid)).contains
        g0.uid = true :=
      List.contains_iff_mem.2 (List.mem_map.2 ⟨g0, List.mem_filter.2 ⟨hg0s, hkernel ▸ huid k hk hctx⟩, rfl⟩)
    rw [if_pos hin]
  · obtain ⟨k0, hk0, rfl⟩ := List.mem_map.1 hk
    have hk0s : k0 ∈ s.kernels := hkernels ▸ hk0
    have hctx0 : k0.ctx = ctx := by rw [← hctx]; split <;> rfl
    rw [if_pos (huid k0 hk0s hctx0)]

/-- Messages leave the dies as they are. -/
theorem dies_sendRein (s : State) (src dst wave : Nat) (k : RKind) : (s.sendRein src dst wave k).dies = s.dies := rfl

/-- The brand tables, the requests and the Geode tables of the dies without those of a context. -/
def reclaimed (s : State) (ctx : Nat) : State :=
  let mine (r : BReq) : Bool := r.ctx == ctx && match r.who with
    | .endpoint _ => false
    | _ => true
  { s with
    dies := s.dies.map fun d => { d with
      entries := dropIf (fun e => e.ctx == ctx && e.ep.isNone) d.entries, bq := dropIf mine d.bq, scan := true,
      incoming := dropIf mine d.incoming, answers := dropIf (fun a => mine a.req) d.answers,
      tables := d.tables.map fun t => if t.n != 0 && t.owner == ctx then { owner := 0, base := 0, n := 0 } else t },
    ebq := dropIf mine s.ebq,
    reins := dropIf (fun m => match m.kind with
      | .request r => mine r
      | .answer a => mine a.req
      | _ => false) s.reins,
    cores := s.cores.map fun x => if x.actCtx == some ctx then { x with actCtx := none } else x }

theorem reclaimWalk_done (hst : (s.ctx ctx).st = .reclaiming) (hwalked : (s.ctx ctx).walked = false) : ∃ t : State,
    exec (.reclaimWalk ctx) s = .next (t.setCtx ctx { s.ctx ctx with walked := true }) ∧
    (∀ d ∈ t.dies, (∀ e ∈ d.entries, e.ctx = ctx → e.ep ≠ none) ∧ ∀ b ∈ d.tables, b.owner = ctx → b.n = 0) := by
  refine ⟨(s.grants.filter (·.ctx == ctx)).foldl (fun s g => s.sendRein saddle g.home 0 (.release g.gid)) (reclaimed s ctx), ?_, ?_⟩
  · show execReclaimWalk ctx s = _
    refine execEvent_some ?_
    dsimp only
    rw [if_neg (by simp [hst, hwalked])]
    rfl
  · rw [foldl_keeps State.dies (fun _ _ => dies_sendRein ..)]
    intro d hd
    obtain ⟨d0, -, rfl⟩ := List.mem_map.1 hd
    constructor
    · intro e he hctx
      simpa [hctx, Option.isSome_iff_ne_none] using (List.mem_filter.1 he).2
    · intro b hb howner
      obtain ⟨b0, -, rfl⟩ := List.mem_map.1 hb
      by_cases hn : (b0.n != 0 && b0.owner == ctx) = true
      · rw [if_pos hn]
      · rw [if_neg hn] at howner ⊢
        simpa [howner] using hn

/-- The device without the grants, waves, groups and kernels of a context. -/
def forgotten (s : State) (ctx : Nat) : State :=
  let ks := (s.kernels.filter (·.ctx == ctx)).map (·.uid)
  let gs := (s.groups.filter fun g => ks.contains g.kernel).map (·.uid)
  { s with
    ladder := dropIf (fun l => l.1 == 1 && l.2.1 == ctx) s.ladder,
    grants := dropIf (·.ctx == ctx) s.grants, waves := dropIf (fun w => gs.contains w.group) s.waves,
    groups := dropIf (fun g => ks.contains g.kernel) s.groups, kernels := dropIf (·.ctx == ctx) s.kernels,
    dies := s.dies.map fun d => { d with recorded := dropIf (·.1 == ctx) d.recorded } }

theorem walkDone_done (hst : (s.ctx ctx).st = .reclaiming) (hwalked : (s.ctx ctx).walked = true)
    (hreins : ∀ m ∈ s.reins, ∀ g ∈ s.grants, g.ctx = ctx → m.kind = .release g.gid → s.messageReach m ≠ .ok)
    (hlanded : s.inSlot = true → (s.ctx ctx).faults.length ≤ (s.ctx ctx).landed) :
    ∃ t : State, exec (.walkDone ctx) s = .next (t.setCtx ctx Ctx.reset) ∧ (∀ g ∈ t.grants, g.ctx ≠ ctx) ∧
      ∀ k ∈ t.kernels, k.ctx ≠ ctx := by
  have hslot : (s.inSlot && decide ((s.ctx ctx).landed < (s.ctx ctx).faults.length)) = false := by
    cases hin : s.inSlot with
    | false => rfl
    | true => simpa using hlanded hin
  refine ⟨forgotten (s.landRecord ctx) ctx, ?_, fun g hg => by simpa using (List.mem_filter.1 hg).2,
    fun k hk => by simpa using (List.mem_filter.1 hk).2⟩
  show execWalkDone ctx s = _
  refine execEvent_some ?_
  dsimp only
  rw [if_neg]
  · rfl
  rw [hslot, hst, hwalked, bne_self_eq_false, Bool.not_true, Bool.or_false, Bool.false_or, Bool.false_or, List.any_eq_true]
  rintro ⟨m, hm, hmeets⟩
  obtain ⟨hkind, hreach⟩ := Bool.and_eq_true_iff.1 hmeets
  split at hkind
  · rename_i gid hrel
    obtain ⟨g, hg, hgid⟩ := List.mem_map.1 (List.contains_iff_mem.1 hkind)
    obtain ⟨hgs, hctx⟩ := List.mem_filter.1 hg
    exact hreins m hm g hgs (by simpa using hctx) (by rw [hrel, hgid]) (by simpa using hreach)
  · cases hkind

theorem dieRetirement_done {die : Nat} (h : (s.die die).retired = false) :
    exec (.dieRetirement die) s = .next (s.retireDie die 0) := by
  show execDieRetirement die s = _
  exact execEvent_some (by simp [h])

end

/-- Settles O57: each event's case of its definition, with the launch waves by induction on their number, the frame of a walked line
from its lookup, and the groups and kernels of a killed context from what a kill leaves alone. -/
theorem groupsPagesContexts : Obligations.GroupsPagesContexts := by
  unfold Obligations.GroupsPagesContexts
  intro s
  refine ⟨fun k v die cores h => placement_done h, fun g k i n => ?launch, fun gu g hg hover => groupDrainComplete_done hg hover,
    fun ku k hk hst hrep hquiet hres => completion_done hk hst hrep hquiet hres, fun r ia reason level h1 h2 h3 h4 => ?park,
    fun r ia p since hb hclk => bounceResend_done hb hclk, fun r ia hr h0 t k hk => wake_walked hr h0 hk,
    fun r die x off_ _ hx hroot hin => pinned_acts hx hroot hin, fun _ => rfl, fun die w => xinv_done die w,
    fun die hbusy hover => shootDownDone_done hbusy hover, fun die v hv htab hent hcmd => gmibWrite_done hv htab hent hcmd,
    fun ctx n w0 w1 w2 hst hok => rangeRegisterSet_done hst hok, fun ctx n w0 w1 w2 hst hok => rangeRegisterSet_refused hst hok,
    fun ctx => ⟨fun spec h => contextCreate_begins h, fun spec h => contextCreate_ends h, contextPreempt_begins, contextPreempt_ends,
      fun h => ⟨reactivated s ctx, contextResume_active h, rfl⟩, contextResume_again, contextKill_creating, contextKill_kills,
      fun merged h => killRelease_done h merged, reclaimWalk_done, walkDone_done⟩,
    fun die h => dieRetirement_done h⟩
  case launch =>
    obtain ⟨vs, hvs, hlen, hall⟩ := launchWaves_spec g k n i s
    refine ⟨vs, hvs, hlen, fun j v hv => ?_⟩
    obtain ⟨⟨slot, sregs, rfl⟩, hargs⟩ := hall j v hv
    exact ⟨rfl, rfl, rfl, rfl, rfl, rfl, rfl, rfl, rfl, rfl, rfl, rfl, rfl, hargs⟩
  case park =>
    refine ⟨fun hroom => ?_, fun hfull => ?_⟩
    · rw [park_done h1 h2 h3 h4, State.parkAt, if_pos hroom]
    · rw [park_done h1 h2 h3 h4, State.parkAt, if_neg (Nat.not_lt.2 hfull)]

end Sys2Proof.Tenancy
end

section
/-! Queues and registers (R299 to R306, R329, R331, R345, R369, R372). -/

namespace Sys2Proof.Commands

open Sys2Proof Sys2Proof.Machine Sys2Proof.Laws Sys2Proof.Waves Sys2Proof.Home Sys2Proof.Lookups

/-! Queues by their numbers -/

/-- A queue has its own number. -/
theorem queue_q (s : State) (n : Nat) : (s.queue n).q = n := by
  unfold State.queue
  cases h : s.queues.find? (·.q == n) with
  | none => rfl
  | some q => simpa using List.find?_some h

/-- A queue that has left its reset values is found where it has been put. -/
theorem find?_insQueue_same {q : Queue} (hq : q ≠ Queue.reset q.q) (l : List Queue) :
    (insQueue l q).find? (·.q == q.q) = some q := by
  induction l with
  | nil => simp [insQueue, hq]
  | cons a r ih =>
    rw [insQueue]
    split
    · simp
    · split
      · simp
      · rename_i hne
        simpa [Ne.symm hne] using ih

/-- A queue of another number is found as before. -/
theorem find?_insQueue_ne {q : Queue} {m : Nat} (hm : m ≠ q.q) (l : List Queue) :
    (insQueue l q).find? (·.q == m) = l.find? (·.q == m) := by
  induction l with
  | nil => rw [insQueue]; split <;> simp [Ne.symm hm]
  | cons a r ih =>
    rw [insQueue]
    split
    · split <;> simp [Ne.symm hm]
    · split
      · rename_i ha
        split <;> simp [← ha, Ne.symm hm]
      · by_cases ha : a.q = m <;> simp [ha, ih]

theorem queue_setQueue_same {s : State} {q : Queue} (hq : q ≠ Queue.reset q.q) : (s.setQueue q).queue q.q = q := by
  unfold State.queue State.setQueue
  rw [find?_insQueue_same hq]; rfl

theorem queue_setQueue_ne {s : State} {q : Queue} {m : Nat} (hm : m ≠ q.q) : (s.setQueue q).queue m = s.queue m := by
  unfold State.queue State.setQueue
  rw [find?_insQueue_ne hm]

/-! The head of a queue (R300, R302) -/

/-- `s1` is `s` after queue `n`, which stood as `q`, has consumed its head. -/
structure Taken (s : State) (n : Nat) (q : Queue) (s1 : State) : Prop where
  asks : s.queue n = q
  made : ∃ t, Looked s t ∧ SamePages s t ∧ s1 = t.setQueue { q with consumed := q.consumed + 1 }

section
variable {s s1 : State} {n : Nat} {q : Queue} (h : Taken s n q s1)
include h

theorem Taken.same : s1.queue n = { q with consumed := q.consumed + 1 } := by
  obtain ⟨t, -, -, rfl⟩ := h.made
  have hq : q.q = n := h.asks ▸ queue_q s n
  have hne : ({ q with consumed := q.consumed + 1 } : Queue) ≠ Queue.reset q.q := fun hr => by
    have := congrArg Queue.consumed hr
    simp [Queue.reset] at this
  exact hq ▸ queue_setQueue_same (s := t) (q := { q with consumed := q.consumed + 1 }) hne

/-- No queue changes its owner or its mark. -/
theorem Taken.owner_mark (m : Nat) : (s1.queue m).owner = (s.queue m).owner ∧ (s1.queue m).mark = (s.queue m).mark := by
  by_cases hm : m = n
  · subst hm; rw [h.same, h.asks]; exact ⟨rfl, rfl⟩
  · obtain ⟨t, ht, -, rfl⟩ := h.made
    have hq : q.q = n := h.asks ▸ queue_q s n
    rw [queue_setQueue_ne (q := { q with consumed := q.consumed + 1 }) (by rw [hq]; exact hm), ht.queue]
    exact ⟨rfl, rfl⟩

theorem Taken.owner : (s1.queue n).owner = q.owner := by rw [h.same]

theorem Taken.priv : (s1.queue n).priv = q.priv := by rw [h.same]

theorem Taken.commandIa? (ctx va len perm : Nat) : s1.commandIa? ctx va len perm = s.commandIa? ctx va len perm := by
  obtain ⟨t, ht, -, rfl⟩ := h.made
  exact ht.commandIa? ..

theorem Taken.ctx (c : Nat) : s1.ctx c = s.ctx c := by
  obtain ⟨t, ht, -, rfl⟩ := h.made
  exact ht.ctx c

theorem Taken.kernels : s1.kernels = s.kernels := by
  obtain ⟨t, ht, -, rfl⟩ := h.made
  exact ht.kernels

theorem Taken.nextUid : s1.nextUid = s.nextUid := by
  obtain ⟨t, ht, -, rfl⟩ := h.made
  exact ht.nextUid

theorem Taken.geodeBase (d : Nat) : s1.geodeBase d = s.geodeBase d := by
  obtain ⟨t, ht, -, rfl⟩ := h.made
  exact ht.geodeBase d

theorem Taken.tables (d : Nat) : (s1.die d).tables = (s.die d).tables := by
  obtain ⟨t, ht, -, rfl⟩ := h.made
  exact ht.tables d

theorem Taken.saddleReach (d : Nat) : s1.saddleReach d = s.saddleReach d := by
  obtain ⟨t, ht, -, rfl⟩ := h.made
  exact ht.saddleReach d

theorem Taken.samePages : SamePages s s1 := by
  obtain ⟨t, -, ht, rfl⟩ := h.made
  exact ht.trans (.of_dies rfl rfl)

end

/-- The head is taken by one read and one write. -/
theorem takeEntry_eq {s s1 s2 : State} {n : Nat} {e : List Byte} (hr : s.hRead (s.queue n).headIa 64 = (s1, some e))
    (hw : s1.hWrite ((leBytes 8 ((s.queue n).consumed + 1)).zipIdx.map fun b => ((s.queue n).dbell + 8 + b.2, b.1)) = (s2, true)) :
    s.takeEntry n = some (s2.setQueue { s.queue n with consumed := (s.queue n).consumed + 1 }, e) := by
  rw [State.takeEntry]
  simp only [hr, hw]

/-- A head that is mapped is taken. -/
theorem heads_taken {s : State} {n : Nat} {q : Queue} {e : List Byte} (h : s.heads n q e) :
    ∃ s1, s.takeEntry n = some (s1, e) ∧ Taken s n q s1 := by
  obtain ⟨-, rfl, -, hhead, hbell, he⟩ := h
  obtain ⟨t, bs, hr, ht⟩ := hRead_mapped hhead
  obtain rfl : bs = e := by rw [hr] at he; exact Option.some.inj he
  obtain ⟨u, hw, hu⟩ := hWrite_named (s := t) (mapped_cells (ht.mapped hbell) (length_leBytes 8 ((s.queue n).consumed + 1)).le) 0
  have hread : Looked s t := by simpa [hr] using looked_hRead 64 s (s.queue n).headIa
  have hwrite := looked_hWrite t ((leBytes 8 ((s.queue n).consumed + 1)).zipIdx.map fun b => ((s.queue n).dbell + 8 + b.2, b.1)) 0
  rw [hw] at hwrite
  exact ⟨_, takeEntry_eq hr hw, rfl, u, hread.trans hwrite, ht.trans hu, rfl⟩

/-- The code of the head that the dispatcher serves. -/
theorem heads_code {s : State} {n : Nat} {q : Queue} {e : List Byte} (h : s.heads n q e) : s.headCode q = operand e 0 1 := by
  obtain ⟨-, -, -, -, -, he⟩ := h
  rw [State.headCode, he]; rfl

theorem mem_of_leastBy {α : Type} {key : α → Nat} {a : α} {l : List α} (h : leastBy key l = some a) : a ∈ l := by
  induction l with
  | nil => cases h
  | cons b r ih =>
    rw [leastBy] at h
    split at h
    · cases h; exact List.mem_cons_self
    · rename_i hr
      split at h <;> cases h
      · exact List.mem_cons_of_mem _ (ih hr)
      · exact List.mem_cons_self

/-- A command other than LAUNCH starts on a queue with nothing in flight. -/
theorem heads_idle {s : State} {n : Nat} {q : Queue} {e : List Byte} (h : s.heads n q e) (hcode : operand e 0 1 ≠ 1) :
    q.inflight = [] := by
  obtain ⟨-, -, hnext, -, -, he⟩ := h
  have hready : s.headReady q = true := by
    have hq := (List.mem_filter.1 (mem_of_leastBy hnext)).1
    exact (Bool.and_eq_true_iff.1 (List.mem_filter.1 hq).2).2
  unfold State.headReady State.headLook at hready
  split at hready
  · cases hready
  · split at hready <;> rename_i hr
    · cases hready
    · rw [hr] at he
      obtain rfl := Option.some.inj he
      have hmay := (Bool.and_eq_true_iff.1 hready).2
      have hfly := (Bool.and_eq_true_iff.1 hmay).2
      rw [if_neg hcode] at hfly
      exact List.isEmpty_iff.1 hfly

/-- The dispatcher starts the head that it serves. -/
theorem startHead_taken {s s1 : State} {n : Nat} {q : Queue} {e : List Byte} (h : s.heads n q e)
    (ht : s.takeEntry n = some (s1, e)) :
    s.startHead q = some ((({ s1 with served := n } : State).startEntry n q.consumed e).evalQueue n) := by
  obtain ⟨-, hq, -⟩ := h
  have hn : q.q = n := hq ▸ queue_q s n
  rw [State.startHead, hn, ht]; rfl

theorem dispatch_taken {s s1 : State} {n : Nat} {q : Queue} {e : List Byte} (h : s.heads n q e)
    (ht : s.takeEntry n = some (s1, e)) :
    exec .dispatch s = .next ((({ s1 with served := n } : State).startEntry n q.consumed e).evalQueue n) := by
  have hstart := startHead_taken h ht
  obtain ⟨hd, -, hnext, -⟩ := h
  show execDispatch s = _
  refine execEvent_some ?_
  simp only [hd, hnext, Option.bind_eq_bind, Option.bind_some, Bool.not_true, Bool.false_eq_true, if_false]
  exact hstart

/-- The event of a code starts the head that carries it. -/
theorem startOf_taken {s s1 : State} {n code : Nat} {q : Queue} {e : List Byte} (h : s.heads n q e)
    (ht : s.takeEntry n = some (s1, e)) (hcode : operand e 0 1 = code) :
    s.startOf n code = some ((({ s1 with served := n } : State).startEntry n q.consumed e).evalQueue n) := by
  have hstart := startHead_taken h ht
  have hc := heads_code h
  obtain ⟨hd, hq, hnext, -⟩ := h
  have hn : q.q = n := hq ▸ queue_q s n
  rw [State.startOf]
  simp only [hd, hnext, hn, hc, hcode, Option.bind_eq_bind, Option.bind_some, Bool.not_true, bne_self_eq_false, Bool.or_false,
    Bool.false_eq_true, if_false]
  exact hstart

/-! The commands as they start (R303, R304, R306) -/

/-- Little-endian bytes make a number of as many bytes. -/
theorem leNat_lt (bs : List Byte) : leNat bs < 256 ^ bs.length := by
  induction bs with
  | nil => exact Nat.one_pos
  | cons b r ih =>
    have hb : b.toNat < 256 := b.isLt
    rw [leNat, List.length_cons, Nat.pow_succ]
    omega

/-- An operand of 8 bytes fits a word. -/
theorem toNat_wd_operand (e : List Byte) (at_ : Nat) : (wd (operand e at_ 8)).toNat = operand e at_ 8 := by
  have hlen : ((e.drop at_).take 8).length ≤ 8 := List.length_take_le ..
  have hlt : operand e at_ 8 < 2 ^ 64 := (leNat_lt _).trans_le (Nat.pow_le_pow_right (by omega) hlen)
  exact Nat.mod_eq_of_lt hlt

section
variable {s : State} {n i : Nat} {e : List Byte}

theorem startEntry_malformed (h : entryOk e = false) : s.startEntry n i e =
    (if operand e 0 1 = 1 then s.setQueue { s.queue n with prev := none } else s).queueError n 1 := by
  simp [State.startEntry, h]

theorem startEntry_launch (hok : entryOk e = true) (hc : operand e 0 1 = 1) :
    s.startEntry n i e = (s.setQueue { s.queue n with prev := none }).startLaunch n i e (s.queue n).prev := by
  simp [State.startEntry, hok, hc]

theorem startEntry_waitq (hok : entryOk e = true) (hc : operand e 0 1 = 2) : s.startEntry n i e = s.startWaitq n e := by
  simp [State.startEntry, hok, hc]

theorem startEntry_mark (hok : entryOk e = true) (hc : operand e 0 1 = 3) :
    s.startEntry n i e = s.setQueue { s.queue n with mark := wd (operand e 8 8) } := by
  simp [State.startEntry, hok, hc]

theorem startEntry_signal (hok : entryOk e = true) (hc : operand e 0 1 = 4) : s.startEntry n i e = s.startSignal n e := by
  simp [State.startEntry, hok, hc]

theorem startEntry_slatew (hok : entryOk e = true) (hc : operand e 0 1 = 5) : s.startEntry n i e = s.startSlatew n e := by
  simp [State.startEntry, hok, hc]

theorem startEntry_geodew (hok : entryOk e = true) (hc : operand e 0 1 = 6) : s.startEntry n i e = s.startGeodew n e := by
  simp [State.startEntry, hok, hc]

theorem startEntry_replay (hok : entryOk e = true) (hc : operand e 0 1 = 7) : s.startEntry n i e =
    if (s.queue n).priv then s.replayMask (operand e 8 1) else s.queueError n 6 := by
  simp [State.startEntry, hok, hc]

theorem startEntry_fenceq (hok : entryOk e = true) (hc : operand e 0 1 = 8) : s.startEntry n i e = s := by
  simp [State.startEntry, hok, hc]

/-- A kernel that a LAUNCH of queue `n` has made, in flight. -/
def launched (s : State) (n : Nat) (k : Kernel) : State :=
  let s := ({ s with nextUid := s.nextUid + 1, kernels := s.kernels ++ [k] } : State).commandRuns n (.launch k.uid)
  s.setQueue { s.queue n with prev := some k.uid }

theorem startLaunch_refused {t : State} {ia : Nat} {bs : List Byte} {prev : Option Nat} (hal : operand e 8 8 % 64 = 0)
    (hia : s.commandIa? (s.queue n).owner (operand e 8 8) 128 0 = some ia) (hr : s.hRead ia 128 = (t, some bs))
    (hbad : recordOk (recordWords bs) = false) : s.startLaunch n i e prev = t.queueError n 9 := by
  rw [State.startLaunch]
  simp [hal, hia, hr, hbad]

theorem startLaunch_makes {t : State} {ia : Nat} {bs : List Byte} {prev : Option Nat} (hal : operand e 8 8 % 64 = 0)
    (hia : s.commandIa? (s.queue n).owner (operand e 8 8) 128 0 = some ia) (hr : s.hRead ia 128 = (t, some bs))
    (hok : recordOk (recordWords bs) = true) : ∃ dep k,
      k = kernelOf t.nextUid (s.queue n).owner n i (t.ctx (s.queue n).owner).det dep (recordWords bs) ∧
      s.startLaunch n i e prev = (launched t n k).recordRead k ∧ (operand e 16 1 = 1 → dep = none) := by
  refine ⟨if operand e 16 1 = 0 then prev.filter fun p => (t.kernel? p).any (·.st != .complete) else none, _, rfl, ?_, ?_⟩
  · rw [State.startLaunch]
    simp only [hal, hia, hr, hok, if_true, Bool.not_true, Bool.false_eq_true, if_false]
    rfl
  · intro h1
    rw [h1]; rfl

/-- WAITQ of a queue with another owner is refused; of one that has reached its MARK it ends at once; else it waits. -/
theorem startWaitq_eq (ht : operand e 8 2 ≤ 1023) : s.startWaitq n e =
    if (s.queue (operand e 8 2)).owner ≠ (s.queue n).owner then s.queueError n 7
    else if operand e 16 8 ≤ (s.queue (operand e 8 2)).mark.toNat then s
    else s.commandRuns n (.waitq (operand e 8 2) (wd (operand e 16 8))) := by
  have h : ¬ 1023 < operand e 8 2 := by omega
  simp [State.startWaitq, h, State.waitqOver, toNat_wd_operand]

theorem startSignal_runs {d f : Nat} (hd8 : operand e 16 8 % 8 = 0) (hf8 : operand e 24 8 % 8 = 0)
    (hd : s.commandIa? (s.queue n).owner (operand e 16 8) 8 1 = some d)
    (hf : s.commandIa? (s.queue n).owner (operand e 24 8) 8 1 = some f) (hsd : 8 ≤ iaSpace d) (hsf : 8 ≤ iaSpace f)
    (hhome : homeOf d = homeOf f) : s.startSignal n e =
      (s.commandRuns n (.signal d f (wd (operand e 8 8)) 0)).trySignal n s.nextUid d f (wd (operand e 8 8)) := by
  have hnd : ¬ iaSpace d < 8 := by omega
  have hnf : ¬ iaSpace f < 8 := by omega
  rw [State.startSignal]
  simp [hd8, hf8, hd, hf, hnd, hnf, hhome]

theorem startSlatew_eq {a d : Nat} (hlen : operand e 24 8 % 256 = 0) (hmax : operand e 24 8 ≤ 2 ^ 28) (hne : operand e 24 8 ≠ 0)
    (hs : operand e 8 8 % 256 = 0) (hd : operand e 16 8 % 256 = 0)
    (ha : s.commandIa? (s.queue n).owner (operand e 8 8) (operand e 24 8) 0 = some a)
    (hdst : s.commandIa? (s.queue n).owner (operand e 16 8) (operand e 24 8) 1 = some d)
    (hsa : iaSpace a = 0 ∨ 8 ≤ iaSpace a) (hsd : iaSpace d = 1) (hdie : iaDie d < 8)
    (hfit : d % 2 ^ 44 + operand e 24 8 ≤ s.geodeBase (iaDie d)) (hslate : d % 2 ^ 44 < 2 ^ 28) :
    (s.saddleReach (iaDie d) = .ok → s.startSlatew n e = s.commandRuns n (.slatew a d (operand e 24 8))) ∧
    ∀ r, s.saddleReach (iaDie d) = .fail r → s.startSlatew n e = s.queueError n 10 := by
  have hpos : max (operand e 24 8) 1 = operand e 24 8 := by omega
  have h1 : ((operand e 24 8 % 256 != 0 || decide (2 ^ 28 < operand e 24 8)) = true) = False := by
    simp only [hlen, Nat.not_lt.2 hmax, bne_self_eq_false, decide_false, Bool.or_self, Bool.false_eq_true]
  have h2 : ((iaSpace a != 0 && decide (iaSpace a < 8) || iaSpace d != 1 || decide (8 ≤ iaDie d) || decide (2 ^ 28 ≤ d % 2 ^ 44) ||
      operand e 24 8 != 0 && decide (s.geodeBase (iaDie d) < d % 2 ^ 44 + operand e 24 8)) = true) = False := by
    have hsrc : (iaSpace a != 0 && decide (iaSpace a < 8)) = false := by
      rcases hsa with h | h
      · simp [h]
      · simp [Nat.not_lt.2 h]
    simp only [hsrc, hsd, Nat.not_le.2 hdie, Nat.not_le.2 hslate, Nat.not_lt.2 hfit, bne_self_eq_false, decide_false, Bool.or_self,
      Bool.and_false, Bool.false_eq_true]
  rw [State.startSlatew]
  simp only [h1, hs, hd, hpos, ha, hdst, h2, hne, if_true, if_false]
  exact ⟨fun h => by rw [h], fun r h => by rw [h]⟩

theorem startGeodew_eq {a die : Nat} (ht : operand e 16 1 ≤ 7) (hv : operand e 17 1 ≤ 7) (hn : operand e 20 4 ≤ 32768)
    (hs : operand e 8 8 % 256 = 0)
    (ha : s.commandIa? (s.queue n).owner (operand e 8 8) (max (1024 * operand e 20 4) 1) 0 = some a)
    (hdie : physDie? (s.ctx (s.queue n).owner).vdies (operand e 17 1) = some die) : s.startGeodew n e =
      if ((s.die die).tables.getD (operand e 16 1) { owner := 0, base := 0, n := 0 }).n ≠ 0 ∧
          ((s.die die).tables.getD (operand e 16 1) { owner := 0, base := 0, n := 0 }).owner ≠ (s.queue n).owner then s.queueError n 8
      else s.commandRuns n (.geodew a die (operand e 16 1) (operand e 20 4)) := by
  have h1 : ¬ 7 < operand e 16 1 := by omega
  have h2 : ¬ 7 < operand e 17 1 := by omega
  have h3 : ¬ 32768 < operand e 20 4 := by omega
  rw [State.startGeodew]
  simp only [h1, h2, h3, hs, ha, hdie, decide_false, Bool.or_self, Bool.false_eq_true, if_true, if_false, Bool.and_eq_true, bne_iff_ne]

end

/-! The event of each command -/

section
variable {s s1 : State} {n : Nat} {q : Queue} {e : List Byte} (h : s.heads n q e) (ht : s.takeEntry n = some (s1, e))
include h ht

theorem launch_taken (hc : operand e 0 1 = 1) :
    exec (.launch n) s = .next ((({ s1 with served := n } : State).startEntry n q.consumed e).evalQueue n) := by
  show execLaunch n s = _
  exact execEvent_some (startOf_taken h ht hc)

theorem waitq_taken (hc : operand e 0 1 = 2) :
    exec (.waitq n) s = .next ((({ s1 with served := n } : State).startEntry n q.consumed e).evalQueue n) := by
  have hidle : (s.queue n).inflight = [] := by
    obtain ⟨-, hq, -⟩ := id h
    rw [hq]
    exact heads_idle h (by rw [hc]; decide)
  show execWaitq n s = _
  refine execEvent_some ?_
  simp only [hidle, List.find?_nil]
  exact startOf_taken h ht hc

theorem mark_taken (hc : operand e 0 1 = 3) :
    exec (.mark n) s = .next ((({ s1 with served := n } : State).startEntry n q.consumed e).evalQueue n) := by
  show execMark n s = _
  exact execEvent_some (startOf_taken h ht hc)

theorem signal_taken (hc : operand e 0 1 = 4) :
    exec (.signal n) s = .next ((({ s1 with served := n } : State).startEntry n q.consumed e).evalQueue n) := by
  show execSignal n s = _
  exact execEvent_some (startOf_taken h ht hc)

theorem slatew_taken (hc : operand e 0 1 = 5) :
    exec (.slatew n) s = .next ((({ s1 with served := n } : State).startEntry n q.consumed e).evalQueue n) := by
  show execSlatew n s = _
  exact execEvent_some (startOf_taken h ht hc)

theorem geodew_taken (hc : operand e 0 1 = 6) :
    exec (.geodew n) s = .next ((({ s1 with served := n } : State).startEntry n q.consumed e).evalQueue n) := by
  show execGeodew n s = _
  exact execEvent_some (startOf_taken h ht hc)

theorem replay_taken (hc : operand e 0 1 = 7) :
    exec (.replay n) s = .next ((({ s1 with served := n } : State).startEntry n q.consumed e).evalQueue n) := by
  show execReplay n s = _
  exact execEvent_some (startOf_taken h ht hc)

theorem fenceq_taken (hc : operand e 0 1 = 8) :
    exec (.fenceq n) s = .next ((({ s1 with served := n } : State).startEntry n q.consumed e).evalQueue n) := by
  show execFenceq n s = _
  exact execEvent_some (startOf_taken h ht hc)

end

/-! Completions -/

section
variable {s : State} {n id : Nat}

theorem waitq_ends {c : Nat × Cmd} (h : (s.queue n).inflight.find? (fun c => match c.2 with
      | .waitq t v => decide (v.toNat ≤ (s.queue t).mark.toNat)
      | _ => false) = some c) : exec (.waitq n) s = .next ((s.commandDone n c.1).evalQueue n) := by
  show execWaitq n s = _
  refine execEvent_some ?_
  dsimp only
  split
  case h_1 c' hc => rw [← Option.some.inj (h.symm.trans hc)]
  case h_2 hnone => cases h.symm.trans hnone

/-- A SLATEW that holds its entry writes its bytes and is over. -/
theorem slatewComplete_done {src dst len : Nat} {rest : List (Nat × Cmd)} {e : BEnt}
    (hfly : (s.queue n).inflight = (id, .slatew src dst len) :: rest) (he : s.slateHeld n (iaDie dst) = some e)
    (hslot : s.inSlot = false) (hpark : s.isParked (.command n) = false) (hreach : s.saddleReach (iaDie dst) = .ok)
    (hsrc : s.sourceReach src = true) (hms : s.mapped src len) (hmd : s.mapped dst len) :
    ∃ s1 bs s2, s.hRead src len = (s1, some bs) ∧ s1.hWrite (bs.zipIdx.map fun b => (dst + b.2, b.1)) = (s2, true) ∧
      exec (.slatewComplete n) s = .next (((s2.dropHolder (iaDie dst) e.idx).commandDone n id).evalQueue n) := by
  obtain ⟨s1, bs, hr, h1⟩ := hRead_mapped hms
  obtain ⟨s2, hw, -⟩ := hWrite_named (mapped_cells (h1.mapped hmd) (length_hRead _ _ _ _ _ hr).le) 0
  refine ⟨s1, bs, s2, hr, hw, ?_⟩
  show execSlatewComplete n s = _
  refine execEvent_some ?_
  simp [hfly, he, hslot, hpark, hreach, hsrc, hr, hw]

/-- A GEODEW whose die serves, with no earlier search of its table left, and whose table is free or its owner's. -/
structure GeodewReady (s : State) (n id die t : Nat) : Prop where
  serves : (s.die die).retired = false
  slot : s.inSlot = false
  unparked : s.isParked (.command n) = false
  reach : s.saddleReach die = .ok
  searched : ((s.die die).searches.any fun y => y.table == t && decide (y.id < id)) = false
  free : (((s.die die).tables.getD t { owner := 0, base := 0, n := 0 }).n != 0 &&
    ((s.die die).tables.getD t { owner := 0, base := 0, n := 0 }).owner != (s.queue n).owner) = false

section
variable {src die t len : Nat} {rest : List (Nat × Cmd)} (hfly : (s.queue n).inflight = (id, .geodew src die t len) :: rest)
  (h : GeodewReady s n id die t)
include hfly h

theorem geodewComplete_empties (hlen : len = 0) : exec (.geodewComplete n) s =
    .next (((s.setTable die t { owner := 0, base := 0, n := 0 }).commandDone n id).evalQueue n) := by
  obtain ⟨h1, h2, h3, h4, h5, h6⟩ := h
  show execGeodewComplete n s = _
  refine execEvent_some ?_
  simp only [hfly, h1, h2, h3, h4, h5, h6, hlen, List.head?_cons, Option.bind_eq_bind, Option.bind_some, bne_self_eq_false,
    Bool.or_self, Bool.false_eq_true, if_true, if_false]

theorem geodewComplete_full (hlen : len ≠ 0) (hsrc : s.sourceReach src = true) (hfull : s.freeSlots? die t len = none) :
    exec (.geodewComplete n) s = .next (((s.commandDone n id).queueError n 8).evalQueue n) := by
  obtain ⟨h1, h2, h3, h4, h5, h6⟩ := h
  show execGeodewComplete n s = _
  refine execEvent_some ?_
  simp only [hfly, h1, h2, h3, h4, h5, h6, hlen, hsrc, hfull, List.head?_cons, Option.bind_eq_bind, Option.bind_some,
    bne_self_eq_false, Bool.or_self, Bool.not_true, Bool.false_eq_true, if_false]

theorem geodewComplete_writes {b : Nat} (hlen : len ≠ 0) (hsrc : s.sourceReach src = true) (hfree : s.freeSlots? die t len = some b)
    (hms : s.mapped src (1024 * len)) (hmd : s.mapped (2 ^ 48 + die * 2 ^ 44 + s.geodeBase die + 1024 * b) (1024 * len)) :
    ∃ s1 bs s2, s.hRead src (1024 * len) = (s1, some bs) ∧
      s1.hWrite (bs.zipIdx.map fun y => (2 ^ 48 + die * 2 ^ 44 + s.geodeBase die + 1024 * b + y.2, y.1)) = (s2, true) ∧
      exec (.geodewComplete n) s =
        .next (((s2.setTable die t { owner := (s.queue n).owner, base := b, n := len }).commandDone n id).evalQueue n) := by
  obtain ⟨h1, h2, h3, h4, h5, h6⟩ := h
  obtain ⟨s1, bs, hr, hs1⟩ := hRead_mapped hms
  obtain ⟨s2, hw, -⟩ := hWrite_named (mapped_cells (hs1.mapped hmd) (length_hRead _ _ _ _ _ hr).le) 0
  have hbase : s1.geodeBase die = s.geodeBase die := by
    have hl := looked_hRead (1024 * len) s src
    rw [hr] at hl
    exact hl.geodeBase die
  refine ⟨s1, bs, s2, hr, hw, ?_⟩
  show execGeodewComplete n s = _
  refine execEvent_some ?_
  simp only [hfly, h1, h2, h3, h4, h5, h6, hlen, hsrc, hfree, hr, hbase, hw, List.head?_cons, Option.bind_eq_bind, Option.bind_some,
    bne_self_eq_false, Bool.or_self, Bool.not_true, Bool.false_eq_true, if_false]

end

end

/-! Fault records go to their ring (R294) -/

/-- A record takes 32 bytes. -/
theorem length_bytes (r : FRec) : r.bytes.length = 32 := by simp [FRec.bytes, length_leBytes]

/-- Records written to their places of a ring. -/
def written (s : State) (c : Ctx) (rs : List (FRec × Nat)) : State :=
  rs.foldl (fun s r => s.putBytes (c.recordKey r.2) r.1.bytes) s

theorem written_cons (s : State) (c : Ctx) (r : FRec × Nat) (rs : List (FRec × Nat)) :
    written s c (r :: rs) = written (s.putBytes (c.recordKey r.2) r.1.bytes) c rs := List.foldl_cons ..

theorem putBytes_with_mem (s : State) (key : Nat) (bs : List Byte) (m : Store) :
    ({ s.putBytes key bs with mem := m } : State) = { s with mem := m } := rfl

theorem written_rest (s : State) (c : Ctx) (rs : List (FRec × Nat)) : ∃ m, written s c rs = { s with mem := m } := by
  induction rs generalizing s with
  | nil => exact ⟨s.mem, rfl⟩
  | cons r rs ih =>
    obtain ⟨m, h⟩ := ih (s.putBytes (c.recordKey r.2) r.1.bytes)
    exact ⟨m, (written_cons ..).trans (h.trans (putBytes_with_mem ..))⟩

/-- A byte outside those places is as before. -/
theorem written_out {c : Ctx} {rs : List (FRec × Nat)} {a : Nat} (s : State)
    (ha : ∀ r ∈ rs, ∀ k < 32, a ≠ c.recordKey r.2 + k) : (written s c rs).byteAt a = s.byteAt a := by
  induction rs generalizing s with
  | nil => rfl
  | cons r rs ih =>
    obtain ⟨hr, hrs⟩ := List.forall_mem_cons.1 ha
    have hout : a < c.recordKey r.2 ∨ c.recordKey r.2 + r.1.bytes.length ≤ a := by
      rw [length_bytes]
      generalize c.recordKey r.2 = key at hr ⊢
      by_contra hin
      exact hr (a - key) (by omega) (by omega)
    rw [written_cons, ih _ hrs, byteAt_putBytes_out _ _ _ _ hout]

section
variable {s : State} {ctx : Nat} (hmore : (s.ctx ctx).landed < (s.ctx ctx).faults.length)
include hmore

omit hmore in
theorem landRecord_waits (h : s.inSlot = true ∨ s.saddleReach (s.ctx ctx).ringDie = .waits) : s.landRecord ctx = s := by
  rw [State.landRecord]
  rcases h with h | h
  · simp [h]
  · simp [h]

theorem landRecord_drops {r : Nat} (hslot : s.inSlot = false) (h : s.saddleReach (s.ctx ctx).ringDie = .fail r) :
    s.landRecord ctx = s.setCtx ctx { s.ctx ctx with
      faults := (s.ctx ctx).faults.take (s.ctx ctx).landed,
      dropped := ((s.ctx ctx).dropped + ((s.ctx ctx).faults.length - (s.ctx ctx).landed)) % 2 ^ 32 } := by
  rw [State.landRecord]
  simp [h, hslot, Nat.not_le.2 hmore]

theorem landRecord_lands (hslot : s.inSlot = false) (h : s.saddleReach (s.ctx ctx).ringDie = .ok) :
    let c := s.ctx ctx
    ∃ t : State, t = { s with mem := t.mem } ∧ s.landRecord ctx = t.setCtx ctx { c with landed := c.faults.length } ∧
      (∀ a, (∀ j k, c.landed ≤ j → j < c.faults.length → k < 32 → a ≠ c.recordKey j + k) → t.byteAt a = s.byteAt a) ∧
      ∀ r k, c.landed + 1 = c.faults.length → c.faults.getLast? = some r → k < 32 →
        t.byteAt (c.recordKey c.landed + k) = r.bytes.getD k 0 := by
  intro c
  obtain ⟨m, hm⟩ := written_rest s c (c.faults.zipIdx.drop c.landed)
  refine ⟨written s c (c.faults.zipIdx.drop c.landed), by rw [hm], ?_, fun a ha => ?_, fun r k hone hlast hk => ?_⟩
  · rw [State.landRecord]
    simp only [h, hslot, Nat.not_le.2 hmore, Bool.false_or, decide_false, Bool.false_eq_true, if_false]
    rfl
  · refine written_out s fun r hr k hk => ?_
    obtain ⟨i, hi, rfl⟩ := List.mem_iff_getElem.1 hr
    have hlen : i < c.faults.length - c.landed := by simpa using hi
    exact ha _ k (by simp) (by simp; omega) hk
  · have hdrop : c.faults.zipIdx.drop c.landed = [(r, c.landed)] := by
      have hlt : c.landed < c.faults.zipIdx.length := by simpa using hmore
      rw [List.drop_eq_getElem_cons hlt, List.drop_eq_nil_of_le (by simp; omega)]
      rw [List.getLast?_eq_getElem?, ← hone, Nat.add_sub_cancel] at hlast
      obtain ⟨hl, hlast⟩ := List.getElem?_eq_some_iff.1 hlast
      simp [hlast]
    have hin : k < r.bytes.length := by rw [length_bytes]; exact hk
    rw [hdrop, written_cons, List.getD_eq_getElem _ _ hin]
    exact byteAt_putBytes_in s _ k r.bytes hin

end

/-! Privileged registers (R345, R369 to R373) -/

section
variable {s : State}

theorem physWord_written {die pa : Nat} {v : Word} (hal : pa % 8 = 0) (hin : pa < installed) (hslot : s.inSlot = false)
    (hreach : s.saddleReach die = .ok) :
    exec (.registerWrite ⟨.saddleTree, .physWord die pa⟩ v) s = .next (s.putBytes (physKey die pa) (leBytes 8 v.toNat)) := by
  show execRegisterWrite _ _ s = _
  exact execEvent_some (by simp [permits, hal, Nat.not_le.2 hin, hslot, hreach])

theorem swap_image {who : Who} {v : Word} (h : fld v 0 3 ≠ 1) :
    exec (.registerWrite ⟨who, .swap⟩ v) s = .next { s with swapImg := fld v 12 40 * 4096 } := by
  show execRegisterWrite _ _ s = _
  cases who <;> exact execEvent_some (by simp [permits, h])

theorem swap_starts {who : Who} {v : Word} (h : fld v 0 3 = 1) (hrun : s.riggingRuns = true) (h1 : s.swapStat ≠ 1)
    (h2 : s.swapStat ≠ 2) : exec (.registerWrite ⟨who, .swap⟩ v) s =
      .next { s with swapImg := fld v 12 40 * 4096, swapStat := 1, swapFrom := fld v 12 40 * 4096 } := by
  have hrun' : ({ s with swapImg := fld v 12 40 * 4096 } : State).riggingRuns = true := hrun
  have hstart : ({ s with swapImg := fld v 12 40 * 4096 } : State).startSwap =
      { s with swapImg := fld v 12 40 * 4096, swapStat := 1, swapFrom := fld v 12 40 * 4096 } := by
    rw [State.startSwap, if_neg (by simp [hrun', h1, h2])]
  show execRegisterWrite _ _ s = _
  cases who <;> exact execEvent_some (by simp only [permits, h, if_true, hstart, Bool.not_true, Bool.false_eq_true, if_false])

theorem minVersion_saddle {v : Word} (h : v.toNat = s.ver0) :
    exec (.registerWrite ⟨.saddleTree, .minVersion 0⟩ v) s = .next { s with minVer0 := v.toNat } := by
  show execRegisterWrite _ _ s = _
  exact execEvent_some (by simp [permits, h])

theorem minVersion_rigging {v : Word} (h : v.toNat = s.ver1) :
    exec (.registerWrite ⟨.saddleTree, .minVersion 1⟩ v) s = .next { s with minVer1 := v.toNat } := by
  show execRegisterWrite _ _ s = _
  exact execEvent_some (by simp [permits, h])

theorem rigging_ignored {r : PrivReg} {v : Word} (h : permits .rigging r v = false) :
    exec (.registerWrite ⟨.rigging, r⟩ v) s = .next s := by
  show execRegisterWrite _ _ s = _
  exact execEvent_none (by simp [h])

/-- What the saddle tree and the rigging may both write takes effect, whoever writes it. -/
theorem register_written (who : Who) (v : Word) :
    (∀ die, exec (.registerWrite ⟨who, .ptroot die⟩ v) s =
      .next (s.setDie die { s.die die with ptroot := v &&& 0x0000FFFFFFFFFE01 })) ∧
    (∀ n word, exec (.registerWrite ⟨who, .queueWord n word⟩ v) s =
      .next ((s.setQueue ((s.queue n).write word v)).evalQueue n)) ∧
    (∀ die, exec (.registerWrite ⟨who, .sensorClear die⟩ v) s =
      .next (s.setDie die { s.die die with sens2 := (s.die die).sens2 &&& ~~~(v &&& 3) })) ∧
    exec (.registerWrite ⟨who, .replay⟩ v) s = .next (s.replayMask (fld v 0 8)) := by
  cases who <;> exact ⟨fun _ => rfl, fun _ _ => rfl, fun _ => rfl, rfl⟩

theorem fabricTable_written {e : Nat} {v : Word}
    (h : (v &&& 0xFFFF0003).getLsbD 0 = false ∨ fld (v &&& 0xFFFF0003) 16 16 ≠ 0 ∧
      ((wset s.fabric e (v &&& 0xFFFF0003)).filter fun x => x.2.getLsbD 0 && !x.2.getLsbD 1).length ≤ 64) :
    exec (.fabricTableWrite e v) s = .next { s with fabric := wset s.fabric e (v &&& 0xFFFF0003) } := by
  show execFabricTableWrite e v s = _
  refine execEvent_some ?_
  dsimp only
  rw [if_neg]
  rcases h with h | ⟨hport, hcount⟩
  · rw [h]; simp
  · rw [Bool.and_eq_true, Bool.or_eq_true, decide_eq_true_eq, decide_eq_true_eq]
    rintro ⟨-, h | h⟩
    · exact hport h
    · exact absurd h (Nat.not_lt.2 hcount)

/-- The words of the inbound windows once window `n` is written. -/
def windowWritten (m : Words) (n : Nat) (w0 w1 w2 w3 : Word) : Words :=
  wset (wset (wset (wset m (4 * n) (w0 &&& 0x00003FFF0000007F)) (4 * n + 1) (w1 &&& 0x3FFFFF000)) (4 * n + 2)
    (w2 &&& 0x000FFFFFFFFFF000)) (4 * n + 3) (w3 &&& 0x7FFFFF)

theorem inboundWindow_written {n : Nat} {w0 w1 w2 w3 : Word} (h : (windowOf w0 w1 w2 w3).ok = true) :
    ∃ t, exec (.inboundWindowWrite n w0 w1 w2 w3) s = .next t ∧
      t = { s with windows := t.windows } ∧ wget t.windows (4 * n) = w0 &&& 0x00003FFF0000007F ∧
      wget t.windows (4 * n + 1) = w1 &&& 0x3FFFFF000 ∧ wget t.windows (4 * n + 2) = w2 &&& 0x000FFFFFFFFFF000 ∧
      wget t.windows (4 * n + 3) = w3 &&& 0x7FFFFF ∧
      ∀ k, (k < 4 * n ∨ 4 * n + 3 < k) → wget t.windows k = wget s.windows k := by
  have hexec : exec (.inboundWindowWrite n w0 w1 w2 w3) s = .next { s with windows := windowWritten s.windows n w0 w1 w2 w3 } := by
    show execInboundWindowWrite n w0 w1 w2 w3 s = _
    exact execEvent_some (by rw [h]; rfl)
  refine ⟨_, hexec, rfl, ?_, ?_, ?_, ?_, fun k hk => ?_⟩ <;> dsimp only [windowWritten]
  · rw [wget_wset_ne _ _ _ _ (by omega), wget_wset_ne _ _ _ _ (by omega), wget_wset_ne _ _ _ _ (by omega), wget_wset_same]
  · rw [wget_wset_ne _ _ _ _ (by omega), wget_wset_ne _ _ _ _ (by omega), wget_wset_same]
  · rw [wget_wset_ne _ _ _ _ (by omega), wget_wset_same]
  · rw [wget_wset_same]
  · rw [wget_wset_ne _ _ _ _ (by omega), wget_wset_ne _ _ _ _ (by omega), wget_wset_ne _ _ _ _ (by omega),
      wget_wset_ne _ _ _ _ (by omega)]

end

/-! Assembled -/

section
variable {s s1 : State} {n : Nat} {q : Queue} {e : List Byte}

/-- A LAUNCH whose record is mapped: refused, or its kernel is made. -/
theorem launch_started (h : s.heads n q e) (ht : s.takeEntry n = some (s1, e)) (hs1 : Taken s n q s1) (hok : entryOk e = true)
    {ia : Nat} (hc : operand e 0 1 = 1) (hal : operand e 8 8 % 64 = 0) (hia : s.commandIa? q.owner (operand e 8 8) 128 0 = some ia)
    (hm : s.mapped ia 128) :
    let s2 : State := { s1 with served := n }
    ∃ s4 bs, (s2.setQueue { s2.queue n with prev := none }).hRead ia 128 = (s4, some bs) ∧
      (recordOk (recordWords bs) = false → exec (.launch n) s = .next ((s4.queueError n 9).evalQueue n)) ∧
      (recordOk (recordWords bs) = true → ∃ t k dep, exec (.launch n) s = .next ((State.recordRead t k).evalQueue n) ∧
        k = kernelOf s.nextUid q.owner n q.consumed (s.ctx q.owner).det dep (recordWords bs) ∧
        t.kernels = s.kernels ++ [k] ∧ (operand e 16 1 = 1 → dep = none)) := by
  intro s2
  have hsame : s2.queue n = { q with consumed := q.consumed + 1 } := hs1.same
  have hne : ({ s2.queue n with prev := none } : Queue) ≠ Queue.reset (s2.queue n).q := fun hr => by
    have := congrArg Queue.consumed hr
    simp [hsame, Queue.reset] at this
  have howner : ((s2.setQueue { s2.queue n with prev := none }).queue n).owner = q.owner := by
    have hq := queue_setQueue_same (s := s2) hne
    have hn : (s2.queue n).q = n := queue_q s2 n
    rw [show ({ s2.queue n with prev := none } : Queue).q = n from hn] at hq
    rw [hq, hsame]
  have hia' : (s2.setQueue { s2.queue n with prev := none }).commandIa? q.owner (operand e 8 8) 128 0 = some ia :=
    (hs1.commandIa? ..).trans hia
  rw [← howner] at hia'
  have hpages : SamePages s (s2.setQueue { s2.queue n with prev := none }) := hs1.samePages.trans (.of_dies rfl rfl)
  obtain ⟨s4, bs, hr, -⟩ := hRead_mapped (hpages.mapped hm)
  have hlook := looked_hRead 128 (s2.setQueue { s2.queue n with prev := none }) ia
  rw [hr] at hlook
  have hstart := launch_taken h ht hc
  rw [startEntry_launch hok hc] at hstart
  refine ⟨s4, bs, hr, fun hbad => ?_, fun hgood => ?_⟩
  · rw [hstart, startLaunch_refused hal hia' hr hbad]
  · obtain ⟨dep, k, hk, hmade, hdep⟩ := startLaunch_makes (i := q.consumed) (prev := (s2.queue n).prev) hal hia' hr hgood
    refine ⟨launched s4 n k, k, dep, hstart.trans (by rw [hmade]), ?_, ?_, hdep⟩
    · rw [hk, howner, hlook.nextUid, hlook.ctx]
      exact congrArg₂ (fun uid c => kernelOf uid q.owner n q.consumed (Ctx.det c) dep (recordWords bs)) hs1.nextUid (hs1.ctx q.owner)
    · exact congrArg (· ++ [k]) (hlook.kernels.trans hs1.kernels)

/-- A WAITQ ends at once, waits, or is refused. -/
theorem waitq_started (h : s.heads n q e) (ht : s.takeEntry n = some (s1, e)) (hs1 : Taken s n q s1) (hok : entryOk e = true)
    (hc : operand e 0 1 = 2) (hmax : operand e 8 2 ≤ 1023) :
    let s2 : State := { s1 with served := n }
    ((s.queue (operand e 8 2)).owner ≠ q.owner → exec (.waitq n) s = .next ((s2.queueError n 7).evalQueue n)) ∧
    ((s.queue (operand e 8 2)).owner = q.owner → operand e 16 8 ≤ (s.queue (operand e 8 2)).mark.toNat →
      exec (.waitq n) s = .next (s2.evalQueue n)) ∧
    ((s.queue (operand e 8 2)).owner = q.owner → (s.queue (operand e 8 2)).mark.toNat < operand e 16 8 →
      exec (.waitq n) s = .next ((s2.commandRuns n (.waitq (operand e 8 2) (wd (operand e 16 8)))).evalQueue n)) := by
  intro s2
  have howner : (s2.queue n).owner = q.owner := hs1.owner
  obtain ⟨ho, hmark⟩ : (s2.queue (operand e 8 2)).owner = (s.queue (operand e 8 2)).owner ∧
      (s2.queue (operand e 8 2)).mark = (s.queue (operand e 8 2)).mark := hs1.owner_mark _
  have hstart := waitq_taken h ht hc
  rw [startEntry_waitq hok hc, startWaitq_eq hmax, howner, ho, hmark] at hstart
  refine ⟨fun hne => ?_, fun heq hover => ?_, fun heq hless => ?_⟩
  · rw [hstart, if_pos hne]
  · rw [hstart, if_neg (not_not.2 heq), if_pos hover]
  · rw [hstart, if_neg (not_not.2 heq), if_neg (Nat.not_le.2 hless)]

end

/-- Settles O58: the head that the dispatcher takes and the start of each code, with the lookups of `Looked` between them; each
completion, the landing of fault records, and each register by its case of the definition. -/
theorem queueSteps : Obligations.QueueSteps := by
  unfold Obligations.QueueSteps
  intro s
  refine ⟨fun n q e h => ?head, fun n e s1 s2 hr hw => takeEntry_eq hr hw, fun n c h => waitq_ends h,
    fun n id src dst len rest e hfly he h1 h2 h3 h4 h5 h6 => slatewComplete_done hfly he h1 h2 h3 h4 h5 h6,
    fun n id src die t len rest hfly hret => ?geodewOver, fun n => rfl, fun ctx hmore => ?records, fun v who => ?registers,
    fun e v h => fabricTable_written h, fun n w0 w1 w2 w3 h => inboundWindow_written h⟩
  case head =>
    obtain ⟨s1, ht, hs1⟩ := heads_taken h
    refine ⟨s1, ht, hs1.same, ?_⟩
    intro s2 s3 gives op
    have howner : (s2.queue n).owner = q.owner := hs1.owner
    have hcommand (va len perm : Nat) : s2.commandIa? (s2.queue n).owner va len perm = s.commandIa? q.owner va len perm := by
      rw [howner]; exact hs1.commandIa? ..
    refine ⟨dispatch_taken h ht, fun hbad => ?_, fun hok => ⟨fun ia hc hal hia hm => ?launch, fun hc hmax => ?waitq, fun hc => ?mark,
      fun d f hc hd8 hf8 hd hf hsd hsf hhome => ?signal,
      fun a d hc hlen hmax hne hs hd ha hdst hsa hsd hdie hfit hslate => ?slatew,
      fun a die hc hta hv hcnt hs ha hdie => ?geodew, fun hc => ?replay, fun hc => ?fenceq⟩⟩
    · exact (dispatch_taken h ht).trans (by rw [startEntry_malformed hbad])
    case launch =>
      rw [show s3 = s2.setQueue { s2.queue n with prev := none } from if_pos hc]
      exact launch_started h ht hs1 hok hc hal hia hm
    case waitq => exact waitq_started h ht hs1 hok hc hmax
    case mark => exact (mark_taken h ht hc).trans (by rw [startEntry_mark hok hc])
    case signal =>
      exact (signal_taken h ht hc).trans (by
        rw [startEntry_signal hok hc,
          startSignal_runs hd8 hf8 ((hcommand ..).trans hd) ((hcommand ..).trans hf) hsd hsf hhome])
    case slatew =>
      obtain ⟨hruns, hfails⟩ := startSlatew_eq (s := s2) hlen hmax hne hs hd ((hcommand ..).trans ha) ((hcommand ..).trans hdst) hsa hsd
        hdie (hfit.trans (hs1.geodeBase _).ge) hslate
      have hstart := slatew_taken h ht hc
      rw [startEntry_slatew hok hc] at hstart
      exact ⟨fun hr => hstart.trans (by rw [hruns ((hs1.saddleReach _).trans hr)]),
        fun r hr => hstart.trans (by rw [hfails r ((hs1.saddleReach _).trans hr)])⟩
    case geodew =>
      have hdie' : physDie? (s2.ctx (s2.queue n).owner).vdies (op 17 1) = some die := by
        rw [howner, show s2.ctx q.owner = s.ctx q.owner from hs1.ctx _, hdie]
      have htab : (s2.die die).tables = (s.die die).tables := hs1.tables die
      have hstart := geodew_taken h ht hc
      rw [startEntry_geodew hok hc, startGeodew_eq hta hv hcnt hs ((hcommand ..).trans ha) hdie', htab, howner] at hstart
      exact ⟨fun hn ho => hstart.trans (by rw [if_pos ⟨hn, ho⟩]),
        fun hfree => hstart.trans (by rw [if_neg fun hboth => hfree.elim hboth.1 hboth.2])⟩
    case replay =>
      have hpriv : (s2.queue n).priv = q.priv := hs1.priv
      exact (replay_taken h ht hc).trans (by rw [startEntry_replay hok hc, hpriv])
    case fenceq => exact (fenceq_taken h ht hc).trans (by rw [startEntry_fenceq hok hc])
  case geodewOver =>
    intro tab hslot hpark hreach hsearch hfree
    have hready : GeodewReady s n id die t := by
      refine ⟨hret, hslot, hpark, hreach, List.any_eq_false.2 fun x hx => ?_, ?_⟩
      · rw [Bool.and_eq_true, beq_iff_eq, decide_eq_true_eq]
        exact fun hx' => absurd (hsearch x hx hx'.1) (Nat.not_le.2 hx'.2)
      · rw [Bool.and_eq_false_iff, bne_eq_false_iff_eq, bne_eq_false_iff_eq]
        exact hfree
    exact ⟨geodewComplete_empties hfly hready, fun hlen hsrc => ⟨geodewComplete_full hfly hready hlen hsrc,
      fun b hb hms hmd => geodewComplete_writes hfly hready hlen hsrc hb hms hmd⟩⟩
  case records => exact ⟨landRecord_waits, fun r => landRecord_drops hmore, landRecord_lands hmore⟩
  case registers =>
    obtain ⟨hroot, hqueue, hclear, hreplay⟩ := register_written (s := s) who v
    exact ⟨hroot, fun die pa => physWord_written, hqueue, hclear, rfl, swap_image, swap_starts, minVersion_saddle, minVersion_rigging,
      hreplay, fun r => rigging_ignored⟩

end Sys2Proof.Commands
end

section
/-! An endpoint's access in a maintenance slot (R344, R350). -/

namespace Sys2Proof.Fabric

open Sys2Proof Sys2Proof.Machine Sys2Proof.Laws

/-- Port 0 is UP, no inbound window is set, and a maintenance slot runs. -/
def slotted : State :=
  { State.reset with inSlot := true, links := [{ n := 32, link := { Link.reset with st := 2 } }] }

/-- In a slot the port takes no girth packet: a load does not arrive, and nothing happens. -/
theorem load_waits : exec (.inboundAccess 0 0 0 (.load 0 8)) slotted = .next slotted := by
  show execInboundAccess 0 0 0 (.load 0 8) slotted = _
  exact execEvent_none rfl

/-- No window permits it. -/
theorem load_refused : (slotted.touchDeliv 0).inboundIa? 0 0 0 8 1 = none := by decide +kernel

/-- Refutes O59: in a maintenance slot a port gives no credits to girth packets (R350), so that the load of an endpoint which no window
permits does not arrive, where the statement has it refused and counted at the port. -/
theorem not_linkSteps : ¬ Obligations.LinkSteps := by
  unfold Obligations.LinkSteps
  intro h
  obtain ⟨-, -, -, -, hinbound, -⟩ := h slotted
  obtain ⟨hload, -⟩ := hinbound 0 0 0 rfl
  have hrefused := (hload 0 8).1 load_refused
  rw [load_waits] at hrefused
  have hcount := congrArg (fun o : Out => match o with
    | .next t => (t.link 32).refused
    | _ => 0) hrefused
  exact absurd hcount (by decide)

end Sys2Proof.Fabric
end

section
/-! The clk and the phases of die resets while groups, grants and contexts end (R340, R375). -/

namespace Sys2Proof.Pulse

open Sys2Proof Sys2Proof.Machine Sys2Proof.Laws Sys2Proof.Waves

/-- The clk, and the phase of every die's reset. -/
def pulse (s : State) : Nat × List ResetSt := (s.clk, s.dies.map (·.resetting))

section
variable (s : State)

theorem pulse_foldl {α : Type} {f : State → α → State} (hf : ∀ s a, pulse (f s a) = pulse s) (l : List α) (s : State) :
    pulse (l.foldl f s) = pulse s := Tenancy.foldl_keeps pulse hf l s

theorem clk_of_pulse {s t : State} (h : pulse t = pulse s) : t.clk = s.clk := congrArg Prod.fst h

theorem phases_of_pulse {s t : State} (h : pulse t = pulse s) : t.dies.map (·.resetting) = s.dies.map (·.resetting) :=
  congrArg Prod.snd h

theorem length_of_phases {s t : State} (h : t.dies.map (·.resetting) = s.dies.map (·.resetting)) :
    t.dies.length = s.dies.length := by simpa using congrArg List.length h

/-- What the phases of two states tell about one die. -/
theorem resetting_of_phases {s t : State} (h : t.dies.map (·.resetting) = s.dies.map (·.resetting)) (d : Nat) :
    (t.die d).resetting = (s.die d).resetting := by
  have hget (u : State) : (u.die d).resetting = (u.dies.map (·.resetting)).getD d .none := by
    unfold State.die
    rw [List.getD_eq_getElem?_getD, List.getD_eq_getElem?_getD, List.getElem?_map]
    cases u.dies[d]? <;> rfl
  rw [hget, hget, h]

/-- A die replaced by one in the phase `p`. -/
theorem dies_setDie (d : Nat) (x : Die) :
    (s.setDie d x).dies.map (·.resetting) = (s.dies.map (·.resetting)).set d x.resetting := List.map_set ..

/-- A die replaced by one in the same phase. -/
theorem pulse_setDie {d : Nat} {x : Die} (h : x.resetting = (s.die d).resetting) : pulse (s.setDie d x) = pulse s := by
  refine Prod.ext rfl ((dies_setDie ..).trans ?_)
  refine List.ext_getElem? fun i => ?_
  rw [List.getElem?_set]
  split
  · subst i
    split
    · rename_i hlen
      rw [List.length_map] at hlen
      show _ = (s.dies.map (·.resetting))[d]?
      rw [List.getElem?_map, List.getElem?_eq_getElem hlen, h, State.die, List.getD_eq_getElem _ _ hlen]
      rfl
    · rename_i hlen
      exact (List.getElem?_eq_none (Nat.not_lt.1 hlen)).symm
  · rfl

/-- Every die changed within its phase. -/
theorem phases_map {f : Die → Die} (h : ∀ d, (f d).resetting = d.resetting) (l : List Die) :
    (l.map f).map (·.resetting) = l.map (·.resetting) := by
  rw [List.map_map]
  exact List.map_congr_left fun d _ => h d

theorem pulse_looked {s t : State} (h : Lookups.Looked s t) : pulse t = pulse s := by
  refine Prod.ext (by rw [pulse, h.rest]; rfl) (List.ext_getElem (by simp [pulse, h.count]) fun i hi _ => ?_)
  have hit : i < t.dies.length := by simpa [pulse] using hi
  have his : i < s.dies.length := h.count ▸ hit
  obtain ⟨r, c, l, hd⟩ := h.die i
  rw [State.die, State.die, List.getD_eq_getElem _ _ hit, List.getD_eq_getElem _ _ his] at hd
  simp [pulse, hd]

theorem pulse_hWrite (cells : Store) (name : Nat := 0) : pulse (s.hWrite cells name).1 = pulse s :=
  pulse_looked (Lookups.looked_hWrite s cells name)

/-! Grants -/

@[simp] theorem pulse_setGrant (g : Grant) : pulse (s.setGrant g) = pulse s := rfl
@[simp] theorem pulse_delGrant (gid : Nat) : pulse (s.delGrant gid) = pulse s := rfl
@[simp] theorem pulse_sendRein (src dst wave : Nat) (k : RKind) : pulse (s.sendRein src dst wave k) = pulse s := rfl

@[simp] theorem pulse_withdraw (gid : Nat) : pulse (s.withdraw gid) = pulse s := by
  refine Prod.ext rfl (phases_map (fun d => ?_) _)
  rfl

@[simp] theorem pulse_failRequest (g : Grant) (fault : Option (Nat × Word)) (f : BitVec 4) :
    pulse (s.failRequest g fault f) = pulse s := by
  cases fault with
  | none =>
    show pulse ((s.decideSf g (some f)).withdraw g.gid) = pulse s
    exact pulse_withdraw ..
  | some x =>
    show pulse ((s.decideSf g none).withdraw g.gid) = pulse s
    exact pulse_withdraw ..

@[simp] theorem pulse_loseGrant (g : Grant) : pulse (s.loseGrant g) = pulse s := by
  unfold State.loseGrant
  dsimp only
  split
  · exact pulse_failRequest ..
  · split <;> rfl

@[simp] theorem pulse_dropHolder (home idx : Nat) : pulse (s.dropHolder home idx) = pulse s := by
  unfold State.dropHolder
  dsimp only
  split
  · rfl
  · split <;> exact pulse_setDie _ rfl

@[simp] theorem pulse_giveUp (g : Grant) : pulse (s.giveUp g) = pulse s := by
  unfold State.giveUp
  split
  · dsimp only
    split
    · rfl
    · exact pulse_dropHolder ..
  · rfl

@[simp] theorem pulse_beginReturn (gid : Nat) : pulse (s.beginReturn gid) = pulse s := by
  unfold State.beginReturn
  split
  · rfl
  · split
    · rfl
    · split
      · rfl
      · exact (pulse_setGrant ..).trans (pulse_withdraw ..)
    · split <;> rfl
    · split <;> rfl
    · rfl

@[simp] theorem pulse_childGone (parent : Nat) : pulse (s.childGone parent) = pulse s := by
  unfold State.childGone
  split
  · rfl
  · dsimp only
    split
    · exact pulse_beginReturn ..
    · rfl

/-- The home when a released X grant has merged into it. -/
def mergedHome (s : State) (g : Grant) : State :=
  let s : State := { s with regFaults := s.regFaults.filter (·.1 != g.reg) }
  if g.kind == Kind.x then
    { (s.hWrite (killCells s.freeCtr (smerge g.gs (s.ownWindow g)))).1 with freeCtr := s.freeCtr + 1 }
  else s

theorem pulse_mergedHome (g : Grant) : pulse (mergedHome s g) = pulse s := by
  unfold mergedHome
  dsimp only
  split
  · exact pulse_hWrite { s with regFaults := s.regFaults.filter (·.1 != g.reg) } ..
  · rfl

@[simp] theorem pulse_releaseGrant (g : Grant) : pulse (s.releaseGrant g) = pulse s := by
  have hmerged := pulse_mergedHome s g
  unfold State.releaseGrant
  dsimp only
  rw [pulse_delGrant, pulse_withdraw]
  split
  · exact (pulse_childGone (mergedHome s g) _).trans hmerged
  · split
    · split
      · exact hmerged
      · exact (pulse_sendRein (mergedHome s g) ..).trans hmerged
    · exact (pulse_giveUp (mergedHome s g) g).trans hmerged

theorem pulse_releaseBins (gu : Nat) : pulse (s.releaseBins gu) = pulse s :=
  pulse_foldl (fun s g => pulse_releaseGrant s g) ..

theorem pulse_releaseAll (gu : Nat) : pulse (s.releaseAll gu) = pulse s := by
  refine pulse_foldl (fun s g => ?_) ..
  split
  · exact pulse_releaseGrant ..
  · rfl

/-! Work, kernels, groups -/

theorem pulse_record (ctx : Nat) (r : FRec) : pulse (s.record ctx r) = pulse s := by
  unfold State.record
  dsimp only
  split <;> rfl

theorem pulse_scrambleAt (g : Group) (n : Nat) : ∀ (o : Nat) (s : State), pulse (s.scrambleAt g o n) = pulse s := by
  induction n with
  | zero => exact fun _ _ => rfl
  | succ n ih => exact fun o s => ih (o + 1) _

theorem pulse_scramble (gu : Nat) : pulse (s.scramble gu) = pulse s := by
  refine pulse_foldl (fun s c => ?_) ..
  split
  · split
    · split
      · exact pulse_foldl (fun s i => pulse_scrambleAt ..) ..
      · rfl
    · rfl
  · rfl

theorem pulse_freeMiss (gu : Nat) : pulse (s.freeMiss gu) = pulse s := by
  refine pulse_foldl (fun s w => ?_) ..
  rfl

theorem pulse_discardWork (gu : Nat) : pulse (s.discardWork gu) = pulse s :=
  have hdies : pulse (s.discardWork gu) = pulse ((s.freeMiss gu).scramble gu) := by
    refine Prod.ext rfl (phases_map (fun d => ?_) _)
    rfl
  hdies.trans ((pulse_scramble ..).trans (pulse_freeMiss ..))

theorem pulse_dropFrames (g : Group) (ctx : Nat) : pulse (s.dropFrames g ctx) = pulse s := by
  unfold State.dropFrames
  dsimp only
  split <;> rfl

theorem pulse_queueError (q reason : Nat) : pulse (s.queueError q reason) = pulse s := by
  unfold State.queueError
  dsimp only
  split <;> rfl

theorem pulse_faultKernel (ku : Nat) : pulse (s.faultKernel ku) = pulse s := by
  unfold State.faultKernel
  split
  · rfl
  · split
    · rfl
    · dsimp only
      rw [pulse_queueError]
      split <;> rfl

theorem pulse_groupDone (ku : Nat) : pulse (s.groupDone ku) = pulse s := by
  unfold State.groupDone
  split
  · rfl
  · dsimp only
    split
    · split <;> rfl
    · split <;> rfl

theorem pulse_killGroup (gu : Nat) : pulse (s.killGroup gu) = pulse s := by
  unfold State.killGroup
  split
  · rfl
  · split
    · rfl
    · dsimp only
      rw [pulse_groupDone, pulse_faultKernel]
      refine (pulse_discardWork ..).trans ?_
      have hreleased : pulse ((s.releaseBins gu).releaseAll gu) = pulse s := (pulse_releaseAll ..).trans (pulse_releaseBins ..)
      split
      · exact (pulse_dropFrames ..).trans hreleased
      · exact hreleased

theorem pulse_endWithDie (die : Nat) (cause : Option Nat) (gu : Nat) : pulse (s.endWithDie die cause gu) = pulse s := by
  unfold State.endWithDie
  split
  · exact (pulse_killGroup ..).trans (pulse_record ..)
  · exact pulse_killGroup ..

theorem pulse_endGroups (die : Nat) (cause : Option Nat) : pulse (s.endGroups die cause) = pulse s :=
  pulse_foldl (fun s gu => pulse_endWithDie s die cause gu) ..

/-! The loss of a die -/

theorem pulse_defer (u : Nat) (f : FaultRec) : pulse (s.defer u f) = pulse s := by
  unfold State.defer
  split
  · rfl
  · split
    · split
      · rfl
      · exact pulse_record ..
    · rfl

theorem pulse_endLoad (w : Wave) (l : LoadP) : pulse (s.endLoad w l) = pulse s := by
  refine Prod.ext rfl (phases_map (fun d => ?_) _)
  split <;> rfl

theorem pulse_failLoad (w : Wave) (l : LoadP) (code : Nat) (info : Word) : pulse (s.failLoad w l code info) = pulse s := by
  unfold State.failLoad
  split
  · exact pulse_endLoad ..
  · exact (pulse_defer ..).trans (pulse_endLoad ..)

theorem pulse_failAtomic (a : HAtom) (code : Nat) (info : Word) : pulse (s.failAtomic a code info) = pulse s := by
  unfold State.failAtomic
  split
  · rfl
  · split
    · exact pulse_failLoad ..
    · exact (pulse_defer ..).trans rfl

theorem pulse_reported (kernel die : Nat) : pulse (s.reported kernel die) = pulse s := by
  unfold State.reported
  split <;> rfl

/-- The grants, atomics and reports that a lost die held have failed. -/
def lostTraffic (s : State) (die : Nat) : State :=
  let s := (s.grants.filter (·.home == die)).foldl (fun s g => match s.grant? g.gid with
    | some g => s.loseGrant g
    | none => s) s
  let s := (s.hqs.filter (·.1 == die)).foldl (fun s h =>
    s.failAtomic h.2 LINK_PARTITION (linkInfo h.2.code 2 ((h.2.lanes.head?.map (·.addr)).getD 0))) s
  (s.reins.filter (·.src == die)).foldl (fun s m => match m.kind with
    | .complete k => s.reported k die
    | _ => s) s

theorem pulse_lostTraffic (die : Nat) : pulse (lostTraffic s die) = pulse s := by
  refine (pulse_foldl (fun s m => ?_) ..).trans ((pulse_foldl (fun s h => ?_) ..).trans (pulse_foldl (fun s g => ?_) ..))
  · split
    · exact pulse_reported ..
    · rfl
  · exact pulse_failAtomic ..
  · split
    · exact pulse_loseGrant ..
    · rfl

theorem clk_loseDie (die : Nat) : (s.loseDie die).clk = s.clk := by
  show (lostTraffic s die).clk = s.clk
  exact clk_of_pulse (pulse_lostTraffic s die)

/-- A lost die is in no phase of a reset; the phases of the other dies stand. -/
theorem phases_loseDie (die : Nat) :
    (s.loseDie die).dies.map (·.resetting) = (s.dies.map (·.resetting)).set die .none := by
  rw [← phases_of_pulse (pulse_lostTraffic s die)]
  exact List.map_set ..

/-- The contexts have unbound a die, and its groups have ended. -/
def unbound (s : State) (die cause : Nat) : State :=
  ({ s with ctxs := s.ctxs.map fun c => { c with vdies := unbind c.vdies die } } : State).endGroups die (some cause)

theorem retireDie_eq (die cause : Nat) : s.retireDie die cause = if (s.die die).retired then s else
    ((unbound s die cause).loseDie die).setDie die { ((unbound s die cause).loseDie die).die die with retired := true } := rfl

theorem pulse_unbound (die cause : Nat) : pulse (unbound s die cause) = pulse s :=
  (pulse_endGroups ..).trans rfl

theorem clk_retireDie (die cause : Nat) : (s.retireDie die cause).clk = s.clk := by
  rw [retireDie_eq]
  split
  · rfl
  · exact (clk_loseDie (unbound s die cause) die).trans (clk_of_pulse (pulse_unbound s die cause))

/-- A die that is retired is in no phase of a reset; the phases of the other dies stand. -/
theorem phases_retireDie (die cause : Nat) (h : (s.die die).retired = false) :
    (s.retireDie die cause).dies.map (·.resetting) = (s.dies.map (·.resetting)).set die .none := by
  have hretired := phases_of_pulse (pulse_setDie ((unbound s die cause).loseDie die) (d := die)
    (x := { ((unbound s die cause).loseDie die).die die with retired := true }) rfl)
  rw [retireDie_eq, h, if_neg Bool.false_ne_true, hretired, phases_loseDie, phases_of_pulse (pulse_unbound s die cause)]

/-- The phase of a die through the retirement of another. -/
theorem resetting_retireDie_ne {die d : Nat} (cause : Nat) (h : die ≠ d) :
    ((s.retireDie d cause).die die).resetting = (s.die die).resetting := by
  cases hret : (s.die d).retired with
  | true => rw [retireDie_eq, if_pos hret]
  | false =>
    have hset : (s.setDie d { s.die d with resetting := .none }).dies.map (·.resetting) =
        (s.dies.map (·.resetting)).set d .none := dies_setDie ..
    rw [resetting_of_phases ((phases_retireDie s d cause hret).trans hset.symm), die_setDie, if_neg fun hd => h hd.1]

/-! Sweeps of the sensors (R354) -/

theorem clk_sweepDie (n die : Nat) (r : BitVec 16 × BitVec 16 × BitVec 32 × BitVec 16) : (s.sweepDie n die r).clk = s.clk := by
  unfold State.sweepDie
  dsimp only
  split
  · rfl
  · split
    · exact clk_retireDie ..
    · rfl

/-! The resets of dies (R340) -/

theorem pulse_mapLinks (die : Nat) (f : Nat → Link → Link) : pulse (s.mapLinks die f) = pulse s := by
  refine pulse_foldl (fun s n => ?_) ..
  rfl

/-- What every step of a fold keeps true stays true. -/
theorem foldl_of_steps {α : Type} (P : State → Prop) {f : State → α → State} (hf : ∀ s a, P s → P (f s a)) (l : List α) :
    ∀ s, P s → P (l.foldl f s) := by
  induction l with
  | nil => exact fun _ h => h
  | cons a r ih => exact fun s h => ih _ (hf s a h)

/-- A die is in its drain phase until `x`. -/
def Drains (die x : Nat) (s : State) : Prop := (s.die die).resetting = .drain x

/-- A die that drains goes on draining while others are isolated. -/
theorem drains_isolateDie {die x : Nat} (d : Nat) (h : Drains die x s) : Drains die x (s.isolateDie d) := by
  unfold Drains at h ⊢
  unfold State.isolateDie
  dsimp only
  split
  · rename_i hd
    have hne : die ≠ d := fun he => by subst he; simp [h] at hd
    have hlinks := resetting_of_phases (phases_of_pulse (pulse_mapLinks s d fun _ l => l.fence)) die
    exact (resetting_retireDie_ne _ 1 hne).trans (hlinks.trans h)
  · exact h

theorem drains_isolate {die x : Nat} (h : Drains die x s) : Drains die x s.isolate :=
  foldl_of_steps (Drains die x) (fun s _ hs => foldl_of_steps (Drains die x) (fun s d hd => drains_isolateDie s d hd) _ s hs) _ s h

/-- The drain phase of a die begins. -/
theorem drains_startReset {die : Nat} (h : die < s.dies.length) :
    Drains die (linkTime s.clk + 60000) (s.startReset die) := by
  have hpulse : pulse ((s.mapLinks die fun _ l => l.fence).endGroups die none) = pulse s :=
    (pulse_endGroups ..).trans (pulse_mapLinks ..)
  refine drains_isolate _ ?_
  unfold Drains
  rw [die_setDie, if_pos ⟨rfl, (length_of_phases (phases_of_pulse hpulse)).symm ▸ h⟩, clk_of_pulse hpulse]

end

end Sys2Proof.Pulse
end

section
/-! Slots, sensors, samples, start-up and recovery (R295, R348 to R360, R367 to R371, R375). -/

namespace Sys2Proof.Service

open Sys2Proof Sys2Proof.Machine Sys2Proof.Laws Sys2Proof.Waves Sys2Proof.Home Sys2Proof.Lookups Sys2Proof.Pulse

/-! Slots and sensors -/

section
variable {s : State}

theorem slotBegin_done (h : s.inSlot = false) (hclk : s.clk % 65536 = 0) : exec .slotBegin s = .next s.beginSlot := by
  show execSlotBegin s = _
  exact execEvent_some (by simp [h, hclk])

theorem slotEnd_done (h : s.inSlot = true) (hclk : 2048 ≤ s.clk % 65536) : exec .slotEnd s = .next s.endSlot := by
  show execSlotEnd s = _
  exact execEvent_some (by simp [h, Nat.not_lt.2 hclk])

theorem endSlot_resumes (s : State) : s.endSlot.inSlot = false ∧ ∀ o ∈ s.endSlot.ops, o.suspended = false := by
  refine ⟨rfl, fun o ho => ?_⟩
  obtain ⟨o', -, rfl⟩ := List.mem_map.1 ho
  rfl

/-- A sweep recorded for the slot `n`, with the words of the module's sensor block. -/
def withSweep (s : State) (n : Nat) (m0 m1 : Word) : State := { s with swept := some n, msens0 := m0, msens1 := m1 }

theorem clk_withSweep (n : Nat) (m0 m1 : Word) : (withSweep s n m0 m1).clk = s.clk := rfl

/-- The module's sensor block after a sweep (R354). -/
def sensed (s : State) (r : Readings) : State :=
  withSweep s (slotNumber s.clk) (pack [(48, slotNumber s.clk % 65536), (32, r.vin.toNat), (16, r.tout.toNat), (0, r.tin.toNat)])
    (pack [(32, r.pmod.toNat), (0, r.ppkg.toNat)])

theorem toNat_wd {x : Nat} (h : x < 2 ^ 64) : (wd x).toNat = x := by rw [wd, BitVec.toNat_ofNat, Nat.mod_eq_of_lt h]

theorem pack_four (i j k l a b c d : Nat) :
    pack [(i, a), (j, b), (k, c), (l, d)] = wd (a * 2 ^ i + (b * 2 ^ j + (c * 2 ^ k + d * 2 ^ l))) := by simp [pack]

theorem pack_two (i j a b : Nat) : pack [(i, a), (j, b)] = wd (a * 2 ^ i + b * 2 ^ j) := by simp [pack]

/-- Four fields of 16 bits side by side. -/
def side16 (a b c d : Nat) : Nat := a * 2 ^ 48 + (b * 2 ^ 32 + (c * 2 ^ 16 + d))

section
variable {a b c d : Nat}

theorem side16_lt (ha : a < 65536) (hb : b < 65536) (hc : c < 65536) (hd : d < 65536) : side16 a b c d < 2 ^ 64 := by
  unfold side16; omega

theorem side16_fields (hb : b < 65536) (ha : a < 65536) (hc : c < 65536) (hd : d < 65536) :
    side16 a b c d / 2 ^ 48 % 2 ^ 16 = a ∧ side16 a b c d / 2 ^ 32 % 2 ^ 16 = b ∧ side16 a b c d / 2 ^ 16 % 2 ^ 16 = c ∧
      side16 a b c d / 2 ^ 0 % 2 ^ 16 = d := by
  unfold side16; omega

/-- The four fields of 16 bits of a word. -/
theorem fields_pack16 (ha : a < 65536) (hb : b < 65536) (hc : c < 65536) (hd : d < 65536) :
    let w := pack [(48, a), (32, b), (16, c), (0, d)]
    fld w 48 16 = a ∧ fld w 32 16 = b ∧ fld w 16 16 = c ∧ fld w 0 16 = d := by
  have hw : (pack [(48, a), (32, b), (16, c), (0, d)]).toNat = side16 a b c d := by
    rw [pack_four, pow_zero, mul_one]
    exact toNat_wd (side16_lt ha hb hc hd)
  intro w
  unfold fld
  rw [show w.toNat = _ from hw]
  exact side16_fields hb ha hc hd

theorem side32_fields (ha : a < 2 ^ 32) (hb : b < 2 ^ 32) : a * 2 ^ 32 + b < 2 ^ 64 ∧
    (a * 2 ^ 32 + b) / 2 ^ 32 % 2 ^ 32 = a ∧ (a * 2 ^ 32 + b) / 2 ^ 0 % 2 ^ 32 = b := by omega

/-- The two fields of 32 bits of a word. -/
theorem fields_pack32 (ha : a < 2 ^ 32) (hb : b < 2 ^ 32) :
    let w := pack [(32, a), (0, b)]
    fld w 32 32 = a ∧ fld w 0 32 = b := by
  obtain ⟨hlt, hfields⟩ := side32_fields ha hb
  have hw : (pack [(32, a), (0, b)]).toNat = a * 2 ^ 32 + b := by
    rw [pack_two, pow_zero, mul_one]
    exact toNat_wd hlt
  intro w
  unfold fld
  rw [show w.toNat = _ from hw]
  exact hfields

end

/-- A fold whose steps read a field that none of them changes. -/
theorem foldl_reads {α β : Type} (field : State → β) (step : β → State → α → State) (hf : ∀ b s a, field (step b s a) = field s)
    (l : List α) (s : State) : l.foldl (fun t a => step (field t) t a) s = l.foldl (step (field s)) s := by
  have h (b : β) : ∀ t : State, field t = b → l.foldl (fun t a => step (field t) t a) t = l.foldl (step b) t := by
    induction l with
    | nil => exact fun _ _ => rfl
    | cons x r ih =>
      intro t ht
      rw [List.foldl_cons, List.foldl_cons, ht]
      exact ih _ ((hf ..).trans ht)
  exact h _ s rfl

/-- The slot of the state, as the sweep numbers it. -/
def slotOf (s : State) : Nat := slotNumber s.clk

theorem slotOf_sensed (r : Readings) : slotOf (sensed s r) = slotNumber s.clk := by
  unfold slotOf sensed
  rw [clk_withSweep]

theorem sweep_eq (r : Readings) :
    s.sweep r = (r.dies.take 8).zipIdx.foldl (fun t x => t.sweepDie (slotNumber s.clk) x.2 x.1) (sensed s r) := rfl

theorem sensorSweep_exec (r : Readings) (hdue : s.sweepDue = true) : exec (.sensorSweep r) s = .next (s.sweep r) := by
  show execSensorSweep r s = _
  exact execEvent_some (if_pos hdue)

theorem sensorSweep_done (r : Readings) (hdue : s.sweepDue = true) : exec (.sensorSweep r) s =
    .next ((r.dies.take 8).zipIdx.foldl (fun t x => t.sweepDie (slotOf t) x.2 x.1) (sensed s r)) := by
  have hclk (n : Nat) (t : State) (x : (BitVec 16 × BitVec 16 × BitVec 32 × BitVec 16) × Nat) :
      slotOf (t.sweepDie n x.2 x.1) = slotOf t := congrArg slotNumber (clk_sweepDie ..)
  have hfold := foldl_reads slotOf (fun n t x => t.sweepDie n x.2 x.1) hclk (r.dies.take 8).zipIdx (sensed s r)
  rw [sensorSweep_exec r hdue, sweep_eq, hfold, slotOf_sensed]

theorem sweepDue_of (hstage : s.stage ≠ .off) (hclk : s.clk % 65536 = 2047) (hswept : s.swept ≠ some (s.clk / 65536)) :
    s.sweepDue = true := by
  have hslot : (s.swept != some (slotNumber s.clk)) = true := bne_iff_ne.2 hswept
  unfold State.sweepDue
  rw [hslot, hclk, bne_iff_ne.2 hstage]
  rfl

theorem withSweep_eq (n : Nat) (m0 m1 : Word) : withSweep s n m0 m1 =
    { s with swept := some n, msens0 := (withSweep s n m0 m1).msens0, msens1 := (withSweep s n m0 m1).msens1 } := rfl

/-- The words that a sweep writes give the readings. -/
theorem sweep_reads (r : Readings) (hdue : s.sweepDue = true) :
    ∃ t : State, t = { s with swept := some (s.clk / 65536), msens0 := t.msens0, msens1 := t.msens1 } ∧
      fld t.msens0 48 16 = s.clk / 65536 % 65536 ∧ fld t.msens0 32 16 = r.vin.toNat ∧ fld t.msens0 16 16 = r.tout.toNat ∧
      fld t.msens0 0 16 = r.tin.toNat ∧ fld t.msens1 32 32 = r.pmod.toNat ∧ fld t.msens1 0 32 = r.ppkg.toNat ∧
      exec (.sensorSweep r) s =
        .next ((r.dies.take 8).zipIdx.foldl (fun s x => s.sweepDie (s.clk / 65536) x.2 x.1) t) := by
  obtain ⟨hn, hvin, htout, htin⟩ := fields_pack16 (Nat.mod_lt (slotNumber s.clk) (by decide : 65536 > 0))
    r.vin.isLt r.tout.isLt r.tin.isLt
  obtain ⟨hpmod, hppkg⟩ := fields_pack32 r.pmod.isLt r.ppkg.isLt
  exact ⟨sensed s r, withSweep_eq .., hn, hvin, htout, htin, hpmod, hppkg, sensorSweep_done r hdue⟩

/-! Samples -/

/-- Bytes written leave the cores and all but memory as they are. -/
theorem cores_foldl_putByte {α : Type} (key : α → Nat) (b : α → Byte) (l : List α) (s : State) :
    (l.foldl (fun s x => s.putByte (key x) (b x)) s).cores = s.cores := by
  refine Tenancy.foldl_keeps State.cores (fun s x => ?_) l s
  rfl

theorem core_setCore_same {i : Nat} {c : Core} (h : i < s.cores.length) : (s.setCore i c).core i = c := by
  unfold State.core State.setCore
  rw [List.getD_eq_getElem _ _ (by simpa using h)]
  simp

/-- The records that a sampler holds and that have not been taken: W − C (R360). -/
def Sampler.held (m : Sampler) : Nat := (m.w + 2 ^ 32 - m.c) % 2 ^ 32

/-- The sampler when a sample of the target `x` has been counted. -/
def counted (m : Sampler) (x : Option (Nat × Wave)) : Sampler :=
  { m with n := m.n + 1, target := match x with
             | some y => some y.1
             | none => m.target }

/-- A sample changes its sampler and, where its record has room, the bytes of memory and their granules. -/
theorem takeSample_spec {i g : Nat} {gr : Group} (howner : (s.core i).sampler.owner = some g) (hg : s.group? g = some gr) :
    let m := (s.core i).sampler
    let c := counted m (s.sampleTarget i m.target)
    (Sampler.held m < m.cap → ∃ t : State, t.cores = s.cores ∧
      s.takeSample i = some (t.setCore i { s.core i with sampler := { c with w := (m.w + 1) % 2 ^ 32 } })) ∧
    (m.cap ≤ Sampler.held m → s.takeSample i =
      some (s.setCore i { s.core i with sampler := { c with dropped := min (2 ^ 32 - 1) (m.dropped + 1) } })) := by
  have howned : (s.core i).sampler.owner.bind s.group? = some gr := by rw [howner]; exact hg
  intro m c
  refine ⟨fun hroom => ?_, fun hfull => ?_⟩
  · let at_ := m.base + 32 * (m.w % m.cap)
    let u := (s.sampleRecord gr (i % 40) m.n (s.sampleTarget i m.target)).zipIdx.foldl (fun s b => s.putByte (gr.spKey (at_ + b.2)) b.1) s
    have hu : u.cores = s.cores := cores_foldl_putByte (α := Byte × Nat) (fun b => gr.spKey (at_ + b.2)) (fun b => b.1) _ s
    refine ⟨u.setFull [gr.spKey at_ / 16, gr.spKey (at_ + 16) / 16], hu, ?_⟩
    unfold State.takeSample
    dsimp only
    rw [howned, Option.bind_eq_bind, Option.bind_some]
    exact if_pos hroom
  · unfold State.takeSample
    dsimp only
    rw [howned, Option.bind_eq_bind, Option.bind_some]
    exact if_neg (Nat.not_lt.2 hfull)

theorem sampleDue_of {m : Sampler} {clk : Nat} (hon : m.on = true) (hclk : clk = m.ton + (m.n + 1) * m.period) :
    m.due clk = true := by
  unfold Sampler.due
  rw [hon, Bool.true_and]
  exact beq_iff_eq.2 hclk

/-- A sample that is due writes its record, or counts it as dropped. -/
theorem sample_done {die core g : Nat} {gr : Group} (hdue : (s.core (die * 40 + core)).sampler.due s.clk = true)
    (howner : (s.core (die * 40 + core)).sampler.owner = some g) (hg : s.group? g = some gr) :
    let i := die * 40 + core
    let m := (s.core i).sampler
    ∃ t, exec (.sample die core) s = .next t ∧
      (i < s.cores.length →
        let m' := (t.core i).sampler
        m'.n = m.n + 1 ∧ m' = { m with n := m'.n, target := m'.target, w := m'.w, dropped := m'.dropped } ∧
        ((m.w + 2 ^ 32 - m.c) % 2 ^ 32 < m.cap → m'.w = (m.w + 1) % 2 ^ 32 ∧ m'.dropped = m.dropped) ∧
        (m.cap ≤ (m.w + 2 ^ 32 - m.c) % 2 ^ 32 → m'.w = m.w ∧ m'.dropped = min (2 ^ 32 - 1) (m.dropped + 1) ∧ t.mem = s.mem)) := by
  intro i m
  obtain ⟨hroomy, hdrops⟩ := takeSample_spec howner hg
  have hexec {t : State} (ht : s.takeSample i = some t) : exec (.sample die core) s = .next t := by
    show execSample die core s = _
    exact execEvent_some ((if_pos hdue).trans ht)
  rcases Nat.lt_or_ge (Sampler.held m) m.cap with hroom | hfull
  · obtain ⟨t, hcores, htake⟩ := hroomy hroom
    refine ⟨_, hexec htake, fun hi => ?_⟩
    rw [core_setCore_same (hcores ▸ hi)]
    exact ⟨rfl, rfl, fun _ => ⟨rfl, rfl⟩, fun h => absurd h (Nat.not_le.2 hroom)⟩
  · refine ⟨_, hexec (hdrops hfull), fun hi => ?_⟩
    rw [core_setCore_same hi]
    exact ⟨rfl, rfl, fun h => absurd h (Nat.not_lt.2 hfull), fun _ => ⟨rfl, rfl, rfl⟩⟩

end

end Sys2Proof.Service
end

section
/-! Start-up and the rigging swap (R367 to R371). -/

namespace Sys2Proof.Startup

open Sys2Proof Sys2Proof.Machine Sys2Proof.Laws Sys2Proof.Home Sys2Proof.Lookups

section
variable {s : State}

/-! Start-up -/

theorem powerGood_done (h : s.stage = .off) :
    exec .powerGood s = .next { s with stage := .s0, clk := 0, cursor := 0, begun := false } := by
  show execPowerGood s = _
  exact execEvent_some (if_pos (beq_iff_eq.2 h))

theorem portZero_retired (h : (s.link 32).st = 5) : s.portZero = s := if_pos h

theorem portZero_up (h : (s.link 32).st ≠ 5) :
    s.portZero = s.setLink 32 { s.link 32 with st := 3, rlanes := 1, width := 0 } := if_neg h

theorem portZero_minVer0 (s : State) : s.portZero.minVer0 = s.minVer0 := by
  unfold State.portZero
  split <;> rfl

/-- An image in flash is refused for what is wrong with it, or for a version below the minimum. -/
theorem flashRefused_iff {x : StageLoss} (kind : Nat) :
    s.flashRefused kind x = true ↔ x.refused = true ∨ Config.flashVersion kind < if kind = 0 then s.minVer0 else s.minVer1 := by
  rw [State.flashRefused, Bool.or_eq_true, decide_eq_true_iff]

variable {x : StageLoss}

/-- Stage 0 ends. -/
theorem stage0_complete (h : s.stage = .s0) : exec (.stageComplete x) s =
    .next (if x.fatal || s.portZero.flashRefused 0 x then s.portZero.toMinimal else s.portZero.enterStage1) := by
  show execStageComplete x s = _
  refine execEvent_some ?_
  rw [h]

/-- Stage 1 ends. -/
theorem stage1_complete (h : s.stage = .s1) : exec (.stageComplete x) s =
    .next (if x.fatal || s.flashRefused 1 x || (s.stageLoss x).dieBad.length == 8 then (s.stageLoss x).toMinimal
      else { s.stageLoss x with stage := .s2, ver1 := Config.flashVersion 1, riggingAt := (s.stageLoss x).clk }) := by
  show execStageComplete x s = _
  refine execEvent_some ?_
  rw [h]

/-- Stage 2 ends. -/
theorem stage2_complete (h : s.stage = .s2) : exec (.stageComplete x) s =
    .next (if x.fatal then (s.stageLoss x).toMinimal
      else ({ s.stageLoss x with stage := .s3 } : State).trainLinks (linkNumbers.filter isPort)) := by
  show execStageComplete x s = _
  refine execEvent_some ?_
  rw [h]

/-- Stage 3 ends. -/
theorem stage3_complete (h : s.stage = .s3) : exec (.stageComplete x) s =
    .next (if x.fatal then (s.stageLoss x).toMinimal
      else { s.stageLoss x with stage := .full, cores := (s.stageLoss x).cores.zipIdx.map fun c =>
        if ((s.stageLoss x).die (c.2 / 40)).resetting == .none then { c.1 with service := false } else c.1 }) := by
  show execStageComplete x s = _
  refine execEvent_some ?_
  rw [h]

/-- Stage 0 fails for the saddle die or for the saddle tree's image. -/
theorem stage0_fails_iff : (x.fatal || s.portZero.flashRefused 0 x) = true ↔
    x.fatal = true ∨ x.refused = true ∨ Config.flashVersion 0 < s.minVer0 := by
  rw [Bool.or_eq_true, flashRefused_iff, if_pos rfl, portZero_minVer0]

/-- Stage 1 fails for the saddle die, the rigging's image, or for want of dies. -/
theorem stage1_fails_iff : (x.fatal || s.flashRefused 1 x || (s.stageLoss x).dieBad.length == 8) = true ↔
    x.fatal = true ∨ (x.refused = true ∨ Config.flashVersion 1 < s.minVer1) ∨ (s.stageLoss x).dieBad.length = 8 := by
  rw [Bool.or_eq_true, Bool.or_eq_true, flashRefused_iff, if_neg Nat.one_ne_zero, beq_iff_eq, or_assoc]

/-! The rigging swap -/

/-- A swap is verifying its image, and a rigging runs. -/
def Verifies (s : State) : Prop := s.riggingRuns = true ∧ s.swapStat = 1

theorem riggingSwap_starts {img : ImageCheck} (hruns : s.riggingRuns = true) (h1 : s.swapStat ≠ 1) (h2 : s.swapStat ≠ 2) :
    exec (.riggingSwap img) s = .next { s with swapStat := 1, swapFrom := s.swapImg } := by
  show execRiggingSwap img s = _
  refine execEvent_some ?_
  simp [State.startSwap, hruns, h1, h2]

/-- An image that no route leads to is refused. -/
theorem riggingSwap_unreached {img : ImageCheck} {r : Nat} (h : Verifies s) (hreach : s.imageReach = .fail r) :
    exec (.riggingSwap img) s = .next { s with swapStat := 4 } := by
  obtain ⟨hruns, hstat⟩ := h
  show execRiggingSwap img s = _
  refine execEvent_some ?_
  simp [hruns, hstat, hreach]

/-- The header of the image that a swap verifies has been read. -/
def HeaderRead (s t : State) (h : List Byte) : Prop :=
  (Verifies s ∧ s.imageReach = .ok ∧ s.inSlot = false) ∧ s.hRead s.swapFrom 88 = (t, some h)

/-- A header's image is refused before its body is read. -/
def imageRefused (img : ImageCheck) (h : List Byte) : Bool :=
  !headerOk h || !img.sigOk || decide (2 ^ 38 < headerLength h)

/-- What the digest and the version of an image make of a swap. -/
def judged (s : State) (h body : List Byte) : State :=
  if sha512 body != headerDigest h then { s with swapStat := 4 }
  else if headerVersion h < s.minVer1 then { s with swapStat := 5 }
  else { s with swapStat := 2, swapVer := headerVersion h }

section
variable {img : ImageCheck} {t u : State} {h body : List Byte}

theorem riggingSwap_header (hh : HeaderRead s t h) : exec (.riggingSwap img) s = execEvent s fun _ =>
    if imageRefused img h then some { t with swapStat := 4 }
    else match t.hRead (t.swapFrom + 256) (headerLength h) with
      | (_, none) => none
      | (u, some body) => some (judged u h body) := by
  obtain ⟨⟨⟨hruns, hstat⟩, hreach, hslot⟩, hread⟩ := hh
  show execRiggingSwap img s = _
  unfold execRiggingSwap execEvent State.imageHeader?
  simp only [hruns, hstat, hreach, hslot, hread]
  rfl

theorem riggingSwap_refused (hh : HeaderRead s t h) (hr : imageRefused img h = true) :
    exec (.riggingSwap img) s = .next { t with swapStat := 4 } :=
  (riggingSwap_header hh).trans (execEvent_some (if_pos hr))

theorem riggingSwap_judged (hh : HeaderRead s t h) (hr : imageRefused img h = false)
    (hbody : t.hRead (t.swapFrom + 256) (headerLength h) = (u, some body)) :
    exec (.riggingSwap img) s = .next (judged u h body) := by
  refine (riggingSwap_header hh).trans (execEvent_some ?_)
  rw [hr, hbody]
  rfl

theorem headerOk_iff : headerOk h = true ↔ leNat (h.take 4) = 0x4A584931 ∧ h.getD 4 0 = 1 := by
  rw [headerOk, Bool.and_eq_true, beq_iff_eq, beq_iff_eq]

/-- An image is good before its body is read: its magic number and kind, its signature and its length. -/
def ImageGood (img : ImageCheck) (h : List Byte) : Prop :=
  leNat (h.take 4) = 0x4A584931 ∧ h.getD 4 0 = 1 ∧ img.sigOk = true ∧ leNat ((h.drop 16).take 8) ≤ 2 ^ 38

theorem imageRefused_false_iff : imageRefused img h = false ↔ ImageGood img h := by
  rw [imageRefused, Bool.or_eq_false_iff, Bool.or_eq_false_iff, Bool.not_eq_false', Bool.not_eq_false', headerOk_iff,
    decide_eq_false_iff_not, Nat.not_lt]
  exact ⟨fun ⟨⟨⟨hmagic, hkind⟩, hsig⟩, hlen⟩ => ⟨hmagic, hkind, hsig, hlen⟩,
    fun ⟨hmagic, hkind, hsig, hlen⟩ => ⟨⟨⟨hmagic, hkind⟩, hsig⟩, hlen⟩⟩

theorem judged_digest (hd : sha512 body ≠ (h.drop 24).take 64) : judged u h body = { u with swapStat := 4 } :=
  if_pos (bne_iff_ne.2 hd)

theorem judged_version (hd : sha512 body = (h.drop 24).take 64) : judged u h body =
    if headerVersion h < u.minVer1 then { u with swapStat := 5 }
    else { u with swapStat := 2, swapVer := headerVersion h } :=
  if_neg fun hne => bne_iff_ne.1 hne hd

/-- The image of a swap with a mapped header, and a mapped body where the header is good. -/
theorem riggingSwap_verified (hv : Verifies s) (hreach : s.imageReach = .ok) (hslot : s.inSlot = false)
    (hm : s.mapped s.swapFrom 88) : ∃ t h, s.hRead s.swapFrom 88 = (t, some h) ∧
      (¬ ImageGood img h → exec (.riggingSwap img) s = .next { t with swapStat := 4 }) ∧
      (ImageGood img h → t.mapped (s.swapFrom + 256) (headerLength h) →
        ∃ u body, t.hRead (s.swapFrom + 256) (headerLength h) = (u, some body) ∧
          (sha512 body ≠ (h.drop 24).take 64 → exec (.riggingSwap img) s = .next { u with swapStat := 4 }) ∧
          (sha512 body = (h.drop 24).take 64 → headerVersion h < s.minVer1 →
            exec (.riggingSwap img) s = .next { u with swapStat := 5 }) ∧
          (sha512 body = (h.drop 24).take 64 → s.minVer1 ≤ headerVersion h →
            exec (.riggingSwap img) s = .next { u with swapStat := 2, swapVer := headerVersion h })) := by
  obtain ⟨t, h, hread, -⟩ := hRead_mapped hm
  have hh : HeaderRead s t h := ⟨⟨hv, hreach, hslot⟩, hread⟩
  have hlooked : Looked s t := by simpa only [hread] using looked_hRead 88 s s.swapFrom
  have hfrom : t.swapFrom = s.swapFrom := by rw [hlooked.rest]
  refine ⟨t, h, hread, fun hbad => ?_, fun hgood hbody => ?_⟩
  · exact riggingSwap_refused hh (Bool.not_eq_false _ ▸ fun hf => hbad (imageRefused_false_iff.1 hf))
  · obtain ⟨u, body, hread2, -⟩ := hRead_mapped hbody
    have hlooked2 : Looked t u := by simpa only [hread2] using looked_hRead (headerLength h) t (s.swapFrom + 256)
    have hmin : u.minVer1 = s.minVer1 := by rw [hlooked2.rest, hlooked.rest]
    have hexec := riggingSwap_judged hh (imageRefused_false_iff.2 hgood) (hfrom.symm ▸ hread2)
    refine ⟨u, body, hread2, fun hd => ?_, fun hd hlt => ?_, fun hd hle => ?_⟩
    · rw [hexec, judged_digest hd]
    · rw [hexec, judged_version hd, hmin, if_pos hlt]
    · rw [hexec, judged_version hd, hmin, if_neg (Nat.not_lt.2 hle)]

end

theorem swapPause_done (h : s.swapStat = 2) : exec .swapPause s = .next
    (if s.paused then { s with paused := false, ver1 := s.swapVer, swapStat := 3, riggingAt := s.clk }
     else { s with paused := true, pauseAt := s.clk }) := by
  show execSwapPause s = _
  refine execEvent_some ?_
  rw [if_neg (not_not.2 h)]
  cases s.paused <;> rfl

end

end Sys2Proof.Startup
end

section
/-! The watchdog ladder (R295, R375). -/

namespace Sys2Proof.Watchdog

open Sys2Proof Sys2Proof.Machine Sys2Proof.Laws Sys2Proof.Waves Sys2Proof.Home Sys2Proof.Lookups Sys2Proof.Pulse

section
variable {s : State}

/-! The states of contexts -/

/-- The states of the contexts. -/
def ctxStates (s : State) : List CtxSt := s.ctxs.map (·.st)

theorem st_of_ctxStates {s t : State} (h : ctxStates t = ctxStates s) (c : Nat) : (t.ctx c).st = (s.ctx c).st := by
  have hget (u : State) : (u.ctx c).st = (ctxStates u).getD c .free := by
    unfold State.ctx ctxStates
    rw [List.getD_eq_getElem?_getD, List.getD_eq_getElem?_getD, List.getElem?_map]
    cases u.ctxs[c]? <;> rfl
  rw [hget, hget, h]

/-- A context that is not FREE exists. -/
theorem ctx_exists {c : Nat} (h : (s.ctx c).st ≠ .free) : c < s.ctxs.length := by
  refine Nat.lt_of_not_le fun hle => h ?_
  rw [State.ctx, List.getD_eq_default _ _ hle]
  rfl

theorem ctxStates_setCtx {c : Nat} {x : Ctx} (h : x.st = (s.ctx c).st) : ctxStates (s.setCtx c x) = ctxStates s := by
  show (s.ctxs.set c x).map (·.st) = s.ctxs.map (·.st)
  refine List.ext_getElem (by simp) fun i hi _ => ?_
  have hlen : i < s.ctxs.length := by simpa using hi
  rw [List.getElem_map, List.getElem_map, List.getElem_set]
  split
  · subst i
    rw [h, State.ctx, List.getD_eq_getElem _ _ hlen]
  · rfl

theorem ctxStates_record (ctx : Nat) (r : FRec) : ctxStates (s.record ctx r) = ctxStates s := by
  unfold State.record
  dsimp only
  split <;> exact ctxStates_setCtx rfl

theorem ctxStates_wdogRecord (ctx level : Nat) (req : Bool) (die : Nat) (gone : Bool) :
    ctxStates (s.wdogRecord ctx level req die gone) = ctxStates s := by
  unfold State.wdogRecord
  split
  · rfl
  · exact ctxStates_record ..

/-! What a kill leaves of the contexts -/

theorem looked_doorbell (s : State) (q : Queue) : Looked s (s.doorbell q).1 := by
  unfold State.doorbell
  split
  · exact .refl s
  · exact looked_hRead 8 s q.dbell

theorem ctxs_disown (s : State) (n : Nat) : (s.disown n).ctxs = s.ctxs :=
  (looked_doorbell s (s.queue n)).ctxs

theorem ctxs_scramble (s : State) (gu : Nat) : (s.scramble gu).ctxs = s.ctxs := by
  have hbytes (g : Group) (n : Nat) : ∀ (o : Nat) (s : State), (s.scrambleAt g o n).ctxs = s.ctxs := by
    induction n with
    | zero => exact fun _ _ => rfl
    | succ n ih => exact fun o s => ih (o + 1) _
  refine Tenancy.foldl_keeps State.ctxs (fun s c => ?_) ..
  split
  · split
    · split
      · exact Tenancy.foldl_keeps State.ctxs (fun s i => hbytes ..) ..
      · rfl
    · rfl
  · rfl

theorem ctxs_stopGroup (s : State) (gu : Nat) : (s.stopGroup gu).ctxs = s.ctxs := ctxs_scramble s gu

theorem ctxs_killContext (s : State) (ctx : Nat) :
    (s.killContext ctx).ctxs = s.ctxs.set ctx { s.ctx ctx with st := .killing, preempting := false } := by
  unfold State.killContext
  dsimp only
  rw [Tenancy.foldl_keeps State.ctxs ctxs_stopGroup, Tenancy.foldl_keeps State.ctxs ctxs_disown]
  rfl

/-- The states in which Table 14.2 gives a kill. -/
def Killable (c : CtxSt) : Prop := c = .creating ∨ c = .active ∨ c = .preempted ∨ c = .faulted

/-- A kill ends a context that is being created, and begins to kill another. -/
theorem kill?_killable {ctx : Nat} (h : Killable (s.ctx ctx).st) :
    ∃ t, s.kill? ctx = some t ∧ (t.ctx ctx).st = if (s.ctx ctx).st = .creating then .free else .killing := by
  have hlen : ctx < s.ctxs.length := ctx_exists fun hfree => by rw [hfree] at h; simp [Killable] at h
  have hkilled : ((s.killContext ctx).ctx ctx).st = .killing := by
    rw [State.ctx, ctxs_killContext, List.getD_eq_getElem _ _ (by simpa using hlen), List.getElem_set_self]
  rcases h with h | h | h | h
  · refine ⟨_, by rw [State.kill?, h], ?_⟩
    have hctxs := Tenancy.foldl_keeps State.ctxs ctxs_disown ((s.queues.filter (·.owner == ctx)).map (·.q))
      (s.setCtx ctx Ctx.reset)
    rw [State.ctx, hctxs, h, if_pos rfl, ← State.ctx, ctx_setCtx_same s hlen]
    rfl
  all_goals
    refine ⟨s.killContext ctx, by rw [State.kill?, h], ?_⟩
    rw [hkilled, h]
    rfl

/-! Levels 0 and 1 -/

theorem silent_of {w : Wave} {time : Nat} (hst : w.st = .resident ∨ w.st = .sleeping) (h : w.progress + time ≤ s.clk) :
    s.silent w time = true := by
  unfold State.silent
  rw [decide_eq_true h, Bool.and_true]
  rcases hst with e | e <;> rw [e] <;> rfl

/-- The record of level 0 of a wave. -/
def silenceRecord (s : State) (w : Wave) (k : Kernel) : FRec :=
  { clk := s.clk, pc := (w.parts.head?.map (·.pc)).getD 0, info := 0, kid := k.kid, code := WATCHDOG, source := 2, wave := w.index }

theorem watchdogW0_done {u : Nat} {w : Wave} {k : Kernel} (hw : s.wave? u = some w) (hk : s.kernelOf? w = some k)
    (hsilent : s.silent w (2 ^ 32) = true) : exec (.watchdogW0 u) s =
      .next (({ s.record k.ctx (silenceRecord s w k) with wdogLast := 0 } : State).killGroup w.group) := by
  show execWatchdogW0 u s = _
  refine execEvent_some ?_
  unfold State.level0
  rw [hw, Option.bind_eq_bind, Option.bind_some, hk, Option.bind_eq_bind, Option.bind_some, hsilent]
  rfl

/-- The device when level 1 of a context has been recorded. -/
def levelOne (s : State) (ctx : Nat) (req : Bool) : State :=
  { s.wdogRecord ctx 1 req 0 false with wdogLast := 1, ladder := s.ladder ++ [(1, ctx, s.clk)] }

theorem level1_killable {ctx : Nat} (req : Bool) (h : Killable (s.ctx ctx).st) : ∃ t, (levelOne s ctx req).kill? ctx = some t ∧
    (t.ctx ctx).st = if (s.ctx ctx).st = .creating then .free else .killing := by
  have hst : ((levelOne s ctx req).ctx ctx).st = (s.ctx ctx).st :=
    st_of_ctxStates (t := levelOne s ctx req) (ctxStates_wdogRecord ctx 1 req 0 false) ctx
  rw [← hst]
  exact kill?_killable (hst.symm ▸ h)

theorem jxwdogW1_exec {ctx : Nat} {t : State} (h : (levelOne s ctx true).kill? ctx = some t) :
    exec (.jxwdogW1 ctx) s = .next t := by
  show execJxwdogW1 ctx s = _
  exact execEvent_some h

/-- A wave of a context has been silent for twice the time. -/
theorem watchdogW1_exec {ctx : Nat} {t : State}
    (hlate : ∃ w ∈ s.waves, s.silent w (2 ^ 33) = true ∧ ∃ k, s.kernelOf? w = some k ∧ k.ctx = ctx)
    (h : (levelOne s ctx false).kill? ctx = some t) : exec (.watchdogW1 ctx) s = .next t := by
  obtain ⟨w, hw, hsilent, k, hk, hctx⟩ := hlate
  show execWatchdogW1 ctx s = _
  refine execEvent_some ((if_pos (List.any_eq_true.2 ⟨w, hw, ?_⟩)).trans h)
  rw [hsilent, hk, ← hctx, Bool.true_and]
  exact beq_iff_eq.2 rfl

/-! Level 2 -/

theorem watchdogW2_done (ctx : Nat) : exec (.watchdogW2 ctx) s = .next (s.levelTwo ctx) := by
  show execWatchdogW2 ctx s = _
  exact execEvent_some rfl

/-- The kills of a context that have begun and taken more than 100 ms. -/
def lateKills (s : State) (ctx : Nat) : List (Nat × Nat × Nat) :=
  s.ladder.filter fun l => l.1 == 1 && l.2.1 == ctx && decide (l.2.2 + 300000000 ≤ s.clk)

theorem levelTwo_eq (ctx : Nat) : s.levelTwo ctx = if (lateKills s.level2Ends ctx).isEmpty then s.level2Ends else
    (((s.level2Ends.kernels.filter (·.ctx == ctx)).flatMap (·.dies)).eraseDups).foldl (fun s d => s.autoLevel2 d)
      { s.level2Ends with ladder := dropIf (fun l => (lateKills s.level2Ends ctx).contains l) s.level2Ends.ladder } := rfl

theorem levelTwo_in_time {ctx : Nat} (h : lateKills s.level2Ends ctx = []) : s.levelTwo ctx = s.level2Ends := by
  rw [levelTwo_eq, h]
  rfl

theorem levelTwo_late {ctx : Nat} (h : lateKills s.level2Ends ctx ≠ []) : s.levelTwo ctx =
    (((s.level2Ends.kernels.filter (·.ctx == ctx)).flatMap (·.dies)).eraseDups).foldl (fun s d => s.autoLevel2 d)
      { s.level2Ends with ladder := s.level2Ends.ladder.filter fun l => !(lateKills s.level2Ends ctx).contains l } := by
  rw [levelTwo_eq, if_neg fun he => h (List.isEmpty_iff.1 he)]
  rfl

theorem autoLevel2_resets {die : Nat} {t : State} (h : s.level2 die false false = some t) : s.autoLevel2 die = t := by
  rw [State.autoLevel2, h]

theorem autoLevel2_skips {die : Nat} (h : s.level2 die false false = none)
    (hout : s.inService die = false ∨ (s.die die).resetting ≠ .none) : s.autoLevel2 die = s := by
  rw [State.autoLevel2, h]
  refine if_pos ?_
  rcases hout with hserve | hreset
  · rw [hserve]; rfl
  · rw [bne_iff_ne.2 hreset, Bool.or_true]

theorem autoLevel2_refused {die : Nat} (h : s.level2 die false false = none) (hserve : s.inService die = true)
    (hreset : (s.die die).resetting = .none) : ∃ t : State, s.autoLevel2 die =
      { t with wdogLast := 2, ladder := t.ladder ++ [(11, die, s.clk)] } ∧
      t = (s.ctxsOf die).foldl (fun t c => t.wdogRecord c 2 false die false) s := by
  refine ⟨_, ?_, rfl⟩
  rw [State.autoLevel2, h]
  refine if_neg ?_
  rw [hserve, hreset]
  decide

/-- A die in service is one of the device's. -/
theorem inService_exists {die : Nat} (h : s.inService die = true) : die < s.dies.length := by
  refine Nat.lt_of_not_le fun hle => ?_
  rw [State.inService, State.die, List.getD_eq_default _ _ hle] at h
  exact absurd h (by decide)

/-- Records change no die. -/
theorem pulse_wdogRecord (s : State) (ctx level : Nat) (req : Bool) (die : Nat) (gone : Bool) :
    pulse (s.wdogRecord ctx level req die gone) = pulse s := by
  unfold State.wdogRecord
  split
  · rfl
  · exact pulse_record ..

/-- A die's reset begins, and every context it serves has a record. -/
theorem level2_drains {die : Nat} (req force : Bool) (hserve : s.inService die = true) (hreset : (s.die die).resetting = .none)
    (hkeeps : force = true ∨ s.keepsRoutes die = true) :
    ∃ v, s.level2 die req force = some v ∧ v.wdogLast = 2 ∧ ∃ x, (v.die die).resetting = .drain x := by
  have hallowed : (!s.inService die || (s.die die).resetting != .none || (!force && !s.keepsRoutes die)) = false := by
    rw [hserve, hreset]
    rcases hkeeps with e | e <;> rw [e]
    · rfl
    · exact Bool.and_false _
  have hstart : s.resetDie die force = some (s.startReset die) := by
    unfold State.resetDie
    rw [hallowed]
    rfl
  refine ⟨_, by rw [State.level2, hstart, Option.map_some], rfl, linkTime s.clk + 60000, ?_⟩
  have hrecords := pulse_foldl (fun t c => pulse_wdogRecord t c 2 req die false) (s.ctxsOf die) (s.startReset die)
  exact (resetting_of_phases (phases_of_pulse hrecords) die).trans (drains_startReset s (inService_exists hserve))

theorem jxwdogW2_exec {die : Nat} {v : State} (h : s.level2 die true false = some v) : exec (.jxwdogW2 die) s = .next v := by
  show execJxwdogW2 die s = _
  exact execEvent_some h

theorem jxwdogW2Forced_exec {die : Nat} {v : State} (h : s.level2 die true true = some v) :
    exec (.jxwdogW2Forced die) s = .next v := by
  show execJxwdogW2Forced die s = _
  exact execEvent_some h

/-! Level 3 -/

theorem clk_settleReset (s : State) (n : Nat) : (s.settleReset n).clk = s.clk := by
  have hclk : (s.doorbell (s.queue n)).1.clk = s.clk := by rw [(looked_doorbell s (s.queue n)).rest]
  unfold State.settleReset
  dsimp only
  split
  · split <;> rename_i hd <;> rw [hd] at hclk <;> exact hclk
  · rfl

theorem clk_resetQueue (s : State) (n : Nat) : (s.resetQueue n).clk = s.clk := by
  unfold State.resetQueue
  exact clk_settleReset ..

theorem level3_restarts (req : Bool) :
    (s.level3 req).wdogLast = 3 ∧ (s.level3 req).paused = false ∧ (s.level3 req).riggingAt = s.clk := by
  refine ⟨rfl, rfl, ?_⟩
  have htold (t : State) (c : Nat) : (t.wdogRecord c 3 req 0 false).clk = t.clk := clk_of_pulse (pulse_wdogRecord ..)
  unfold State.level3
  dsimp only
  rw [Tenancy.foldl_keeps State.clk htold, Tenancy.foldl_keeps State.clk clk_resetQueue]

theorem jxwdogW3_exec (hruns : s.riggingRuns = true) : exec .jxwdogW3 s = .next (s.level3 true) := by
  show execJxwdogW3 s = _
  exact execEvent_some (if_pos hruns)

theorem overdue_of {l : Nat × Nat × Nat} {levels : List Nat} {time : Nat} (hl : l ∈ s.ladder) (hlevel : l.1 ∈ levels)
    (htime : l.2.2 + time ≤ s.clk) (hinc : s.incomplete l = true) : s.overdue levels time = true := by
  refine List.any_eq_true.2 ⟨l, hl, ?_⟩
  rw [List.contains_iff_mem.2 hlevel, decide_eq_true htime, hinc]
  rfl

theorem watchdogW3_exec (hruns : s.riggingRuns = true)
    (hlate : s.overdue [2, 10, 11] 1500000000 = true ∨ s.riggingAt + 3000000000 ≤ s.clk) :
    exec .watchdogW3 s = .next (s.level3 false) := by
  show execWatchdogW3 s = _
  refine execEvent_some (if_pos ?_)
  rw [hruns, Bool.true_and, Bool.or_eq_true, decide_eq_true_iff]
  exact hlate

/-- A level 2 that is not complete. -/
theorem incomplete_level2 {l : Nat × Nat × Nat}
    (h : (l.1 = 2 ∨ l.1 = 10) ∧ (s.die l.2.1).resetting ≠ .none ∨ l.1 = 11) :
    l.1 ∈ [2, 10, 11] ∧ s.incomplete l = true := by
  unfold State.incomplete
  rcases h with ⟨e, hreset⟩ | e
  · rw [bne_iff_ne.2 hreset, Bool.or_true]
    rcases e with e | e <;> rw [e] <;> exact ⟨by decide, rfl⟩
  · rw [e]
    exact ⟨by decide, rfl⟩

/-! Level 4 -/

theorem level4_running (h : s.stage ≠ .off) (h0 : s.stage ≠ .s0) : s.level4 = some s.deviceReset := by
  unfold State.level4
  split <;> rename_i hstage
  · exact absurd hstage h
  · exact absurd hstage h0
  · rfl

theorem watchdogW4_exec (hlate : s.overdue [3] 6000000000 = true ∨ 15000000000 ≤ s.clk) (h : s.stage ≠ .off)
    (h0 : s.stage ≠ .s0) : exec .watchdogW4 s = .next s.deviceReset := by
  show execWatchdogW4 s = _
  refine execEvent_some ((if_pos ?_).trans (level4_running h h0))
  rw [Bool.or_eq_true, decide_eq_true_iff]
  exact hlate

theorem jxwdogW4_exec (h : s.stage ≠ .off) (h0 : s.stage ≠ .s0) : exec .jxwdogW4 s = .next s.deviceReset := by
  show execJxwdogW4 s = _
  exact execEvent_some (level4_running h h0)

/-! Writes of jxwdog -/

/-- Events that do the same in a state. -/
theorem execEvent_congr {f g : State → Option State} (h : f s = g s) : execEvent s f = execEvent s g := by
  unfold execEvent
  rw [h]

/-- A permitted write of jxwdog. -/
theorem wdog_permitted {who : Who} {v : Word} (h : permits who .wdog v = true) :
    exec (.registerWrite ⟨who, .wdog⟩ v) s = execEvent s fun s => s.wdogWrite v := by
  show execRegisterWrite ⟨who, .wdog⟩ v s = _
  unfold execRegisterWrite execEvent
  dsimp only
  rw [h]
  rfl

/-- The levels that a write of jxwdog asks for (Table 21.4). -/
theorem wdogWrite_eq (v : Word) :
    (fld v 0 3 = 1 → s.wdogWrite v = s.level1 (fld v 10 6) true) ∧
    (fld v 0 3 = 2 → fld v 10 6 < 8 → s.wdogWrite v = s.level2 (fld v 10 6) true false) ∧
    (fld v 0 3 = 3 → fld v 10 6 < 8 → s.wdogWrite v = s.level2 (fld v 10 6) true true) ∧
    (fld v 0 3 = 4 → s.wdogWrite v = s.reqLevel3) ∧ (fld v 0 3 = 5 → s.wdogWrite v = s.level4) := by
  unfold State.wdogWrite
  refine ⟨fun hn => ?_, fun hn ht => ?_, fun hn ht => ?_, fun hn => ?_, fun hn => ?_⟩ <;> simp only [hn]
  · exact if_pos ht
  · exact if_pos ht

/-- The rigging may ask for the levels 1 to 3. -/
theorem permits_wdog {v : Word} (who : Who) (h : fld v 0 3 ≤ 3) : permits who .wdog v = true := by
  cases who with
  | saddleTree => rfl
  | rigging => exact decide_eq_true h

theorem wdog_refused {v : Word} (h : 3 < fld v 0 3) : exec (.registerWrite ⟨.rigging, .wdog⟩ v) s = .next s := by
  show execRegisterWrite ⟨.rigging, .wdog⟩ v s = _
  have hno : permits .rigging .wdog v = false := decide_eq_false (Nat.not_le.2 h)
  refine execEvent_none ?_
  dsimp only
  rw [hno]
  rfl

end

end Sys2Proof.Watchdog
end

section
/-! Slots, samples, start-up and recovery together. -/

namespace Sys2Proof.Recovery

open Sys2Proof Sys2Proof.Machine Sys2Proof.Laws Sys2Proof.Service Sys2Proof.Startup Sys2Proof.Watchdog

section
variable (s : State)

/-- The failure of a stage, and what each stage goes on with. -/
theorem stages_run (x : StageLoss) :
    let t := s.stageLoss x
    let refused (kind least : Nat) : Prop := x.refused = true ∨ Config.flashVersion kind < least
    (s.stage = .s0 → x.fatal = false → ¬ refused 0 s.minVer0 → exec (.stageComplete x) s = .next s.portZero.enterStage1) ∧
    (s.stage = .s0 → (x.fatal = true ∨ refused 0 s.minVer0) → exec (.stageComplete x) s = .next s.portZero.toMinimal) ∧
    (s.stage = .s1 → x.fatal = false → ¬ refused 1 s.minVer1 → t.dieBad.length ≠ 8 → exec (.stageComplete x) s =
      .next { t with stage := .s2, ver1 := Config.flashVersion 1, riggingAt := t.clk }) ∧
    (s.stage = .s1 → (x.fatal = true ∨ refused 1 s.minVer1 ∨ t.dieBad.length = 8) →
      exec (.stageComplete x) s = .next t.toMinimal) ∧
    (s.stage = .s2 → x.fatal = false → exec (.stageComplete x) s =
      .next (({ t with stage := .s3 } : State).trainLinks (linkNumbers.filter isPort))) ∧
    (s.stage = .s3 → x.fatal = false → exec (.stageComplete x) s = .next
      { t with stage := .full, cores := t.cores.zipIdx.map fun c =>
          if (t.die (c.2 / 40)).resetting == .none then { c.1 with service := false } else c.1 }) ∧
    ((s.stage = .s2 ∨ s.stage = .s3) → x.fatal = true → exec (.stageComplete x) s = .next t.toMinimal) := by
  refine ⟨fun h hf hr => ?_, fun h hfail => ?_, fun h hf hr hd => ?_, fun h hfail => ?_, fun h hf => ?_, fun h hf => ?_,
    fun h hf => ?_⟩
  · rw [stage0_complete h, if_neg]
    exact fun hfail => (stage0_fails_iff.1 hfail).elim (fun e => by simp [hf] at e) hr
  · rw [stage0_complete h, if_pos (stage0_fails_iff.2 hfail)]
  · rw [stage1_complete h, if_neg]
    exact fun hfail => (stage1_fails_iff.1 hfail).elim (fun e => by simp [hf] at e) fun e => e.elim hr hd
  · rw [stage1_complete h, if_pos (stage1_fails_iff.2 hfail)]
  · rw [stage2_complete h, hf, if_neg Bool.false_ne_true]
  · rw [stage3_complete h, hf, if_neg Bool.false_ne_true]
  · rcases h with h | h
    · rw [stage2_complete h, if_pos hf]
    · rw [stage3_complete h, if_pos hf]

/-- Level 1 of a context, by request or for a wave that stays silent. -/
theorem level1_taken (ctx : Nat) (req : Bool)
    (hasked : req = true ∨ ∃ w ∈ s.waves, (w.st = .resident ∨ w.st = .sleeping) ∧ w.progress + 2 ^ 33 ≤ s.clk ∧
      ∃ k, s.kernelOf? w = some k ∧ k.ctx = ctx)
    (h : Killable (s.ctx ctx).st) :
    ∃ t, (levelOne s ctx req).kill? ctx = some t ∧
      exec (if req then .jxwdogW1 ctx else .watchdogW1 ctx) s = .next t ∧
      (t.ctx ctx).st = if (s.ctx ctx).st = .creating then .free else .killing := by
  obtain ⟨t, hkill, hst⟩ := level1_killable req h
  refine ⟨t, hkill, ?_, hst⟩
  cases req with
  | true => exact jxwdogW1_exec hkill
  | false =>
    obtain ⟨w, hw, hlive, hsilent, hk⟩ := hasked.resolve_left Bool.false_ne_true
    exact watchdogW1_exec ⟨w, hw, silent_of hlive hsilent, hk⟩ hkill

/-- A die's reset by request. -/
theorem level2_asked (die : Nat) (hserve : s.inService die = true) (hreset : (s.die die).resetting = .none) :
    let after (v : State) : Prop := v.wdogLast = 2 ∧ ∃ x, (v.die die).resetting = .drain x
    (s.keepsRoutes die = true → ∃ v, exec (.jxwdogW2 die) s = .next v ∧ after v) ∧
    ∃ v, exec (.jxwdogW2Forced die) s = .next v ∧ after v := by
  refine ⟨fun hkeeps => ?_, ?_⟩
  · obtain ⟨v, hv, hafter⟩ := level2_drains true false hserve hreset (.inr hkeeps)
    exact ⟨v, jxwdogW2_exec hv, hafter⟩
  · obtain ⟨v, hv, hafter⟩ := level2_drains true true hserve hreset (.inl rfl)
    exact ⟨v, jxwdogW2Forced_exec hv, hafter⟩

/-- The rigging starts again, when level 2 is late or the rigging is silent, or by request. -/
theorem level3_taken (hruns : s.riggingRuns = true) :
    let after (t : State) : Prop := t.wdogLast = 3 ∧ t.paused = false ∧ t.riggingAt = s.clk
    ((∃ l ∈ s.ladder, l.2.2 + 1500000000 ≤ s.clk ∧
        ((l.1 = 2 ∨ l.1 = 10) ∧ (s.die l.2.1).resetting ≠ .none ∨ l.1 = 11)) ∨ s.riggingAt + 3000000000 ≤ s.clk →
      ∃ t, exec .watchdogW3 s = .next t ∧ after t) ∧
    ∃ t, exec .jxwdogW3 s = .next t ∧ after t := by
  refine ⟨fun hlate => ⟨_, watchdogW3_exec hruns (hlate.imp_left ?_), level3_restarts false⟩,
    _, jxwdogW3_exec hruns, level3_restarts true⟩
  rintro ⟨l, hl, htime, hlevel⟩
  obtain ⟨hmem, hinc⟩ := incomplete_level2 hlevel
  exact overdue_of hl hmem htime hinc

/-- The device is reset, when level 3 is late or the saddle tree is silent, or by request. -/
theorem level4_taken (h : s.stage ≠ .off) (h0 : s.stage ≠ .s0)
    (hlate : (∃ l ∈ s.ladder, l.1 = 3 ∧ l.2.2 + 6000000000 ≤ s.clk) ∨ 15000000000 ≤ s.clk) :
    exec .watchdogW4 s = .next s.deviceReset := by
  refine watchdogW4_exec (hlate.imp_left ?_) h h0
  rintro ⟨l, hl, hlevel, htime⟩
  refine overdue_of hl (by rw [hlevel]; decide) htime ?_
  unfold State.incomplete
  rw [hlevel]
  rfl

/-- A write of jxwdog asks for the level that REQ names; the rigging may not ask for the levels 3 and 4. -/
theorem wdog_written (v : Word) :
    let to_ (who : Who) := exec (.registerWrite ⟨who, .wdog⟩ v) s
    let tgt := fld v 10 6
    (fld v 0 3 = 1 → ∀ who, to_ who = exec (.jxwdogW1 tgt) s) ∧
    (fld v 0 3 = 2 → tgt < 8 → ∀ who, to_ who = exec (.jxwdogW2 tgt) s) ∧
    (fld v 0 3 = 3 → tgt < 8 → ∀ who, to_ who = exec (.jxwdogW2Forced tgt) s) ∧
    (fld v 0 3 = 4 → to_ .saddleTree = exec .jxwdogW3 s ∧ to_ .rigging = .next s) ∧
    (fld v 0 3 = 5 → to_ .saddleTree = exec .jxwdogW4 s ∧ to_ .rigging = .next s) := by
  intro to_ tgt
  obtain ⟨h1, h2, h3, h4, h5⟩ := wdogWrite_eq (s := s) v
  have hwrite {who : Who} {f : State → Option State} (hpermit : permits who .wdog v = true)
      (hf : s.wdogWrite v = f s) : to_ who = execEvent s f :=
    (wdog_permitted hpermit).trans (execEvent_congr hf)
  have hlow {who : Who} {n : Nat} (hn : fld v 0 3 = n) (hle : n ≤ 3) : permits who .wdog v = true :=
    permits_wdog who (hn ▸ hle)
  have hhigh {n : Nat} (hn : fld v 0 3 = n) (hlt : 3 < n) : to_ .rigging = .next s := wdog_refused (hn ▸ hlt)
  refine ⟨fun hn who => ?_, fun hn ht who => ?_, fun hn ht who => ?_, fun hn => ⟨?_, ?_⟩, fun hn => ⟨?_, ?_⟩⟩
  · exact hwrite (f := fun s => s.level1 tgt true) (hlow hn (by decide)) (h1 hn)
  · exact hwrite (f := fun s => s.level2 tgt true false) (hlow hn (by decide)) (h2 hn ht)
  · exact hwrite (f := fun s => s.level2 tgt true true) (hlow hn (by decide)) (h3 hn ht)
  · exact hwrite (f := State.reqLevel3) rfl (h4 hn)
  · exact hhigh hn (by decide)
  · exact hwrite (f := State.level4) rfl (h5 hn)
  · exact hhigh hn (by decide)

end

/-- Settles O60: the clauses are those of the events above, each by what its event does of the state. -/
theorem slotsAndRecovery : Obligations.SlotsAndRecovery := by
  intro s
  refine ⟨slotBegin_done, slotEnd_done, endSlot_resumes s,
    fun r hstage hclk hswept => sweep_reads r (sweepDue_of hstage hclk hswept),
    fun die core g hon hclk howner gr hg => sample_done (sampleDue_of hon hclk) howner hg,
    powerGood_done, stages_run s, portZero_retired, portZero_up, rfl,
    fun img hruns => ⟨riggingSwap_starts hruns, fun r hstat hreach => riggingSwap_unreached ⟨hruns, hstat⟩ hreach,
      fun hstat hreach hslot hm => riggingSwap_verified ⟨hruns, hstat⟩ hreach hslot hm⟩,
    swapPause_done,
    fun u w k hw hk hst hsilent => ⟨_, watchdogW0_done hw hk (silent_of hst hsilent), rfl⟩,
    fun ctx req hasked hst => level1_taken s ctx req hasked hst, fun ctx => ⟨fun h => ?_, fun h => ?_⟩,
    fun die => ⟨fun t => autoLevel2_resets, autoLevel2_skips, autoLevel2_refused⟩,
    fun die => level2_asked s die, level3_taken s,
    fun h h0 => ⟨level4_taken s h h0, jxwdogW4_exec h h0, rfl, rfl, rfl, rfl, rfl, rfl⟩, wdog_written s⟩
  · exact (watchdogW2_done ctx).trans (congrArg _ (levelTwo_in_time h))
  · exact (watchdogW2_done ctx).trans (congrArg _ (levelTwo_late h))

end Sys2Proof.Recovery
end
